-- ==== Sys2Proof/Word.lean ====
section
/-! DEFINITION. The word and byte types of the model, and what a stack frame tells its receiver. -/

namespace Sys2Proof

/-- A register word (R12: every register is 32 bits), and a sort, the internal sample word (R7). -/
abbrev Word := BitVec 32

/-- One byte of a payload, a frame or a buffer. -/
abbrev Byte := BitVec 8

/-- What a Synzo frame tells the device that receives it, beyond the item it carries: R377 to R407 name these contents
and give no layout for them (log 21). -/
inductive StkMsg where
  | none
  /-- TIME (R382, R384): own offset of each PTI from the master in ns, measured link delay in 0.5 ns, the master's steps
  as PTI and ns, and its generation. -/
  | time (offs : List Int) (delay : Nat) (steps : List (Nat × Int)) (gen : Nat)
  /-- A twin heartbeat (R405): the partner's role, state, generation and checkpoint sequence. -/
  | heartbeat (role state gen seq : Nat)
  /-- AUDIO (R393): whether CHANNELS, PTIME, rate and PTI agree with the sender's. -/
  | audio (agree : Bool)
  /-- Credit granted for a class, in cells (R378). -/
  | credit (cls cells : Nat)
  /-- Frames of a class from a sequence number on were lost (R378). -/
  | lost (cls seq : Nat)
  /-- A device of the stack beyond the neighbour: position, serial, major, minor, role, generation (R379). -/
  | device (pos serial major minor role gen : Nat)
  /-- A member's state and quarantine reason (R385). -/
  | memberState (pos state reason : Nat)
  /-- The ring return is present (R375). -/
  | ring (present : Bool)
  /-- The hop that leaves a position's STKD is broken or whole (R380). -/
  | hop (pos : Nat) (broken : Bool)
  /-- A member's edit against a generation; the edit is the frame's item (R390). -/
  | edit (gen : Nat)
  /-- The master took the device's edit, raising the generation (R390). -/
  | editTaken (gen : Nat)
  /-- The device's edit lost, or would make its diff too long (R390). -/
  | editLost
  | editFull
  /-- The stored forme a member boots from: its number, generation and CRC-32C (R389, R390). -/
  | stored (slot gen crc : Nat)
  /-- The master's generation (R390). -/
  | newGen (gen : Nat)
  /-- The master enters a sleep state with the whole stack (R63). -/
  | sleep (state : Nat)
  /-- A handover in so many CK_CORE cycles (R407). -/
  | handover (cycles : Nat)
  deriving DecidableEq, Repr

end Sys2Proof
end

