-- ==== Sys2Proof/Syntax.lean ====
section
/-! DEFINITION. The commands of the block: one constructor per row of spec/opcode_table.json, with the operands a sender
or the environment gives it. A time, a level or a result that the device does not hold is an operand. The rows with
operands stand first, in the table's order, and the rows without after them. -/

namespace Sys2Proof

/-- A command: one constructor per row of the opcode table. -/
inductive Instr where
  /-- AON_RESET_RELEASE (R45). -/
  | aonResetRelease (tdml tdmh ctl mgmt tio : Nat)
  /-- RESET_N_PULSE (R50). -/
  | resetNPulse (ns : Nat)
  /-- STRAP_SAMPLE (R52). -/
  | strapSample (levels : Nat)
  /-- STRAP_COMPARE (R55). -/
  | strapCompare (levels : Nat)
  /-- PLL_LOSS_OF_LOCK (R84). -/
  | pllLossOfLock (sys : Bool)
  /-- BOOT_IMAGE_VERIFIED (R201). -/
  | bootImageVerified (a b : Option Nat) (fw proto : Nat)
  /-- DOMAIN_POWER_OFF (R60). -/
  | domainPowerOff (d : Nat)
  /-- DOMAIN_POWER_UP (R60). -/
  | domainPowerUp (d : Nat) (corrupt : Bool)
  /-- WAKE_LATCH_EDGE (R69). -/
  | wakeLatchEdge (k : Nat) (rising : Bool) (ns : Nat) (afterRelease sameTick : Bool)
  /-- WAKING_READY (R62). -/
  | wakingReady (imageOk : Bool)
  /-- SLEEP_SAVE_DONE (R66). -/
  | sleepSaveDone (good : Bool)
  /-- DOZE_FRAME_RX (R72). -/
  | dozeFrameRx (port : Nat) (raw : List Byte) (good : Bool)
  /-- SLOW_COUNTER_ALARM (R68). -/
  | slowCounterAlarm (sameTick : Bool)
  /-- TRIM_WINDOW_END (R118). -/
  | trimWindowEnd (ppb : Int)
  /-- AVS_STEP (R78). -/
  | avsStep (slack : Nat) (ample : Bool)
  /-- MCS_DETECTOR_INTERVAL (R87). -/
  | mcsDetectorInterval (n : Nat) (err refPpb freq : Int)
  /-- WCLK_IN_QUALIFIED (R101). -/
  | wclkInQualified (rate period : Nat)
  /-- CLK_OUTPUT_SWITCH (R100). -/
  | clkOutputSwitch (pin : Nat)
  /-- ADDEND_WRITE (R104). -/
  | addendWrite (n : Nat) (frac : Bool) (v : Word)
  /-- PTP_MESSAGE_RX (R106). -/
  | ptpMessageRx (n x : Nat) (exchange : Bool)
  /-- SERVO_UPDATE (R113). -/
  | servoUpdate (n : Nat) (a b m : Option Int)
  /-- FREEZE_HOLD_EXPIRY (R116). -/
  | freezeHoldExpiry (n : Nat)
  /-- ASYM_BOTH_TIMEOUT (R116). -/
  | asymBothTimeout (n : Nat)
  /-- SUSPECT_CLEAR (R116). -/
  | suspectClear (n : Nat)
  /-- DELAY_MEASUREMENT (R115). -/
  | delayMeasurement (n x : Nat) (delay : Int)
  /-- ANNOUNCE_RX (R112). -/
  | announceRx (n x : Nat) (ds : List Nat) (gm steps : Nat)
  /-- ANNOUNCE_TIMEOUT (R112). -/
  | announceTimeout (n x : Nat)
  /-- FAULTY_RECOVER (R112). -/
  | faultyRecover (n x : Nat)
  /-- PTP_SYNC_TX (R108). -/
  | ptpSyncTx (n x : Nat)
  /-- PPS_IN_EDGE (R111). -/
  | ppsInEdge (falling : Bool)
  /-- PTM_DIALOGUE (R125). -/
  | ptmDialogue (done : Bool) (root : Nat)
  /-- PLATEN_ARM_WRITE (R120). -/
  | platenArmWrite (k : Nat) (v : Word)
  /-- PLATEN_FIRE (R119). -/
  | platenFire (k : Nat)
  /-- PLATEN_CAPTURE_EDGE (R123). -/
  | platenCaptureEdge (src : Nat) (falling : Bool)
  /-- REGISTER_WRITE (R130). -/
  | registerWrite (init a : Nat) (v : Word)
  /-- CLEARING_READ (R134). -/
  | clearingRead (init a : Nat)
  /-- UPDATE_STROBE (R141). -/
  | updateStrobe (groups : Nat)
  /-- SHADOW_APPLY_AT_BOUNDARY (R122). -/
  | shadowApplyAtBoundary (g u : Nat)
  /-- INDIR_ADDR_WRITE (R136). -/
  | indirAddrWrite (init : Nat) (v : Word)
  /-- INDIR_DATA_READ (R135). -/
  | indirDataRead (init : Nat)
  /-- INDIR_DATA_WRITE (R135). -/
  | indirDataWrite (init : Nat) (v : Word)
  /-- INDIR_TRANSFER_DONE (R136). -/
  | indirTransferDone (init : Nat)
  /-- INDIR_STALL_TIMEOUT (R137). -/
  | indirStallTimeout (init : Nat)
  /-- INDIR_TRANSFER_LOST (R137). -/
  | indirTransferLost (init : Nat)
  /-- WIDE_SEL_WRITE (R138). -/
  | wideSelWrite (init : Nat) (v : Word)
  /-- WIDE_SNAPSHOT_READY (R138). -/
  | wideSnapshotReady (init : Nat)
  /-- WIDE_D3_READ (R138). -/
  | wideD3Read (init : Nat)
  /-- GUARD_VAL_WRITE (R146). -/
  | guardValWrite (init : Nat) (v : Word)
  /-- GUARD_CPL_WRITE (R146). -/
  | guardCplWrite (init : Nat) (c : Word)
  /-- GUARD_TIMEOUT (R147). -/
  | guardTimeout (init : Nat)
  /-- QUOIN_SET (R148). -/
  | quoinSet (second : Bool) (v : Word)
  /-- ALIAS_WRITE (R154). -/
  | aliasWrite (init a : Nat) (v : Word)
  /-- COUNTER_CLEAR (R156). -/
  | counterClear (init off : Nat) (v : Word)
  /-- IRQ_SOURCE_EVENT (R165). -/
  | irqSourceEvent (n : Nat)
  /-- IRQ_ACK (R169). -/
  | irqAck (init : Nat) (mcu : Bool) (n : Nat)
  /-- IRQ_EOI (R170). -/
  | irqEoi (init : Nat) (mcu : Bool) (n : Nat)
  /-- IRQ_PENDING_SET_CLR (R165). -/
  | irqPendingSetClr (init : Nat) (mcu set : Bool) (k : Nat) (v : Word)
  /-- IRQ_MASK_SET_CLR (R166). -/
  | irqMaskSetClr (init : Nat) (mcu set : Bool) (k : Nat) (v : Word)
  /-- MOD_WINDOW_EXPIRY (R177). -/
  | modWindowExpiry (mcu : Bool) (g : Nat)
  /-- MSIX_MESSAGE_SEND (R160). -/
  | msixMessageSend (funcMask : Bool)
  /-- REQ_DOORBELL (R189). -/
  | reqDoorbell (init v : Nat)
  /-- RESPONSE_WRITE (R190). -/
  | responseWrite (k : Nat)
  /-- RSP_DOORBELL_CLR (R190). -/
  | rspDoorbellClr (init v : Nat)
  /-- CMD_TAIL_DOORBELL (R192). -/
  | cmdTailDoorbell (v : Nat)
  /-- CMD_FETCH (R192). -/
  | cmdFetch (entry indirect : List Byte)
  /-- CPL_HEAD_DOORBELL (R193). -/
  | cplHeadDoorbell (v : Nat)
  /-- EVT_HEAD_DOORBELL (R194). -/
  | evtHeadDoorbell (v : Nat)
  /-- RING_DMA_ERROR (R195). -/
  | ringDmaError (cause : Nat)
  /-- WDOG_WARN (R203). -/
  | wdogWarn (kick : Bool)
  /-- WDOG_EXPIRY (R203). -/
  | wdogExpiry (cause : Nat) (soon : Bool)
  /-- FW_RESTART_DONE (R204). -/
  | fwRestartDone (memOk flashOk : Bool)
  /-- LOAD_CHUNK_GO (R202). -/
  | loadChunkGo (init len : Nat) (last : Bool)
  /-- LOAD_VERIFY_DONE (R202). -/
  | loadVerifyDone (sec : Option Nat) (fw proto : Nat)
  /-- SYS_INFO (R214). -/
  | sysInfo (ch tag : Nat)
  /-- SYS_CLAIM (R182). -/
  | sysClaim (ch tag : Nat)
  /-- SYS_RELEASE (R182). -/
  | sysRelease (ch tag : Nat)
  /-- SYS_RESET (R214). -/
  | sysReset (ch tag : Nat)
  /-- SYS_IMAGE_BEGIN (R214). -/
  | sysImageBegin (ch tag : Nat)
  /-- SYS_IMAGE_WRITE (R214). -/
  | sysImageWrite (ch tag : Nat)
  /-- SYS_IMAGE_END (R214). -/
  | sysImageEnd (ch tag : Nat)
  /-- SYS_COMMIT (R201). -/
  | sysCommit (ch tag : Nat)
  /-- SYS_RECOVER (R214). -/
  | sysRecover (ch tag : Nat)
  /-- PWR_ENTER (R63). -/
  | pwrEnter (ch tag : Nat)
  /-- PWR_STATUS (R215). -/
  | pwrStatus (ch tag : Nat)
  /-- PWR_CONFIG (R215). -/
  | pwrConfig (ch tag : Nat)
  /-- FRM_INFO (R217). -/
  | frmInfo (ch tag : Nat)
  /-- FRM_READ (R217). -/
  | frmRead (ch tag : Nat)
  /-- FRM_STAGE_LOAD (R217). -/
  | frmStageLoad (ch tag : Nat)
  /-- FRM_STAGE_WRITE (R217). -/
  | frmStageWrite (ch tag : Nat)
  /-- FRM_APPLY (R418). -/
  | frmApply (ch tag : Nat)
  /-- FRM_STORE (R217). -/
  | frmStore (ch tag : Nat)
  /-- FRM_SET_BOOT (R217). -/
  | frmSetBoot (ch tag : Nat)
  /-- CLK_MCS_SET (R219). -/
  | clkMcsSet (ch tag : Nat)
  /-- CLK_OUT_SET (R219). -/
  | clkOutSet (ch tag : Nat)
  /-- CLK_MCS_STATUS (R219). -/
  | clkMcsStatus (ch tag : Nat)
  /-- PTP_SET (R219). -/
  | ptpSet (ch tag : Nat)
  /-- PTP_STATUS (R219). -/
  | ptpStatus (ch tag : Nat)
  /-- PTP_GM_QUALITY (R220). -/
  | ptpGmQuality (ch tag : Nat)
  /-- PTP_STEP (R219). -/
  | ptpStep (ch tag : Nat)
  /-- PTP_ASYM_ADOPT (R221). -/
  | ptpAsymAdopt (ch tag : Nat)
  /-- TDM_SET (R222). -/
  | tdmSet (ch tag : Nat)
  /-- TDM_START (R222). -/
  | tdmStart (ch tag : Nat)
  /-- TDM_STOP (R222). -/
  | tdmStop (ch tag : Nat)
  /-- TDM_STATUS (R222). -/
  | tdmStatus (ch tag : Nat)
  /-- RT_SET (R222). -/
  | rtSet (ch tag : Nat)
  /-- RT_GET (R222). -/
  | rtGet (ch tag : Nat)
  /-- KRN_SET (R222). -/
  | krnSet (ch tag : Nat)
  /-- KRN_STATUS (R222). -/
  | krnStatus (ch tag : Nat)
  /-- RXF_CREATE (R224). -/
  | rxfCreate (ch tag : Nat)
  /-- RXF_DELETE (R224). -/
  | rxfDelete (ch tag : Nat)
  /-- RXF_OFFSET (R224). -/
  | rxfOffset (ch tag : Nat)
  /-- RXF_STATUS (R224). -/
  | rxfStatus (ch tag : Nat)
  /-- TXF_CREATE (R224). -/
  | txfCreate (ch tag : Nat) (mac src : List Byte)
  /-- TXF_DELETE (R224). -/
  | txfDelete (ch tag : Nat)
  /-- TXF_STATUS (R224). -/
  | txfStatus (ch tag : Nat)
  /-- SDP_IMPORT (R224). -/
  | sdpImport (ch tag : Nat)
  /-- SDP_EXPORT (R224). -/
  | sdpExport (ch tag : Nat)
  /-- SDP_ANNOUNCE (R224). -/
  | sdpAnnounce (ch tag : Nat)
  /-- SAP_ANNOUNCEMENT_TX (R224). -/
  | sapAnnouncementTx (f : Nat)
  /-- RED_STATUS (R224). -/
  | redStatus (ch tag : Nat)
  /-- RED_PATHS (R348). -/
  | redPaths (ch tag : Nat)
  /-- STK_STATUS (R225). -/
  | stkStatus (ch tag : Nat)
  /-- STK_SET (R225). -/
  | stkSet (ch tag : Nat)
  /-- TWIN_SET (R225). -/
  | twinSet (ch tag : Nat)
  /-- TWIN_TAKEOVER (R225). -/
  | twinTakeover (ch tag : Nat)
  /-- TWIN_HEALTH (R225). -/
  | twinHealth (ch tag : Nat)
  /-- GRD_SET (R225). -/
  | grdSet (ch tag : Nat)
  /-- GRD_STATUS (R444). -/
  | grdStatus (ch tag : Nat)
  /-- GRD_REPROBE (R435). -/
  | grdReprobe (ch tag : Nat)
  /-- DIAG_SNAP_CLEAR (R226). -/
  | diagSnapClear (ch tag : Nat)
  /-- DIAG_COUNTERS (R226). -/
  | diagCounters (ch tag : Nat)
  /-- DIAG_LOOPBACK (R226). -/
  | diagLoopback (ch tag : Nat)
  /-- DIAG_MARCH (R226). -/
  | diagMarch (ch tag : Nat)
  /-- DIAG_LOG (R226). -/
  | diagLog (ch tag : Nat)
  /-- EVT_FETCH (R226). -/
  | evtFetch (ch tag : Nat)
  /-- EVT_MASK (R226). -/
  | evtMask (ch tag : Nat)
  /-- DX_STATUS (R226). -/
  | dxStatus (ch tag : Nat)
  /-- DX_READ (R226). -/
  | dxRead (ch tag : Nat)
  /-- ITEM_OPEN (R274). -/
  | itemOpen (q kind : Nat) (len : Option Nat) (folio ts : Nat)
  /-- ITEM_WORD_WRITE (R274). -/
  | itemWordWrite (q : Nat) (bs : List Byte) (last : Bool)
  /-- CARRIED_SLUG_PLACE (R281). -/
  | carriedSlugPlace (q : Nat)
  /-- ITEM_COMMIT (R275). -/
  | itemCommit (q : Nat)
  /-- ITEM_REWIND (R275). -/
  | itemRewind (q : Nat)
  /-- QUEUE_POP (R282). -/
  | queuePop (q : Nat)
  /-- QUEUE_MARK (R282). -/
  | queueMark (q : Nat)
  /-- QUEUE_REWIND (R282). -/
  | queueRewind (q : Nat)
  /-- QUEUE_RELEASE (R282). -/
  | queueRelease (q : Nat) (toMark : Bool)
  /-- FLUSH_START (R284). -/
  | flushStart (q : Nat)
  /-- LINK_PARITY_ERROR (R288). -/
  | linkParityError (q j : Nat)
  /-- SCRUB_CELL (R289). -/
  | scrubCell (fail : Bool)
  /-- FREE_LIST_BUILT (R272). -/
  | freeListBuilt (h : Nat)
  /-- Q_RES_WRITE (R278). -/
  | qResWrite (q n : Nat)
  /-- Q_CAP_WRITE (R278). -/
  | qCapWrite (q n : Nat)
  /-- Q_CFG_HALF_WRITE (R278). -/
  | qCfgHalfWrite (q : Nat) (be : Bool) (half : Nat)
  /-- BUDGET_WRITE (R278). -/
  | budgetWrite (k n : Nat)
  /-- GAL_DIAG_ACCESS (R290). -/
  | galDiagAccess (write : Bool) (addr data : Nat)
  /-- GAL_INJECT_ARM (R290). -/
  | galInjectArm (v : Word)
  /-- NET_FRAME_RX (R304). -/
  | netFrameRx (port : Nat) (raw : List Byte) (good : Bool)
  /-- NET_LINK_STATE_CHANGE (R295). -/
  | netLinkStateChange (p st : Nat) (an fecLock inv : Bool)
  /-- CLASSIFIER_KEY_WRITE (R299). -/
  | classifierKeyWrite (init : Nat) (cam : Bool) (i w : Nat) (v : Word)
  /-- IMPOSITION_ENTRY_WRITE (R254). -/
  | impositionEntryWrite (init d : Nat) (v : Word)
  /-- IMPOSITION_TAKE_EFFECT (R257). -/
  | impositionTakeEffect (d : Nat)
  /-- PLAYOUT_INDEX_DUE (R306). -/
  | playoutIndexDue (m : Nat)
  /-- PLACEMENT_WINDOW_END (R312). -/
  | placementWindowEnd (f : Nat)
  /-- KERNING_SLEW_END (R265). -/
  | kerningSlewEnd (f : Nat)
  /-- KRN_TRACK_DONE (R263). -/
  | krnTrackDone (n : Nat)
  /-- RED_PATH_LOSS (R342). -/
  | redPathLoss (f path : Nat)
  /-- PACKET_CLOSE (R320). -/
  | packetClose (f : Nat)
  /-- PACKET_LAUNCH (R323). -/
  | packetLaunch (f : Nat)
  /-- PORT_FRAME_START (R325). -/
  | portFrameStart (p : Nat)
  /-- TX_FLOW_START (R330). -/
  | txFlowStart (f : Nat)
  /-- FUNNEL_LAUNCH (R332). -/
  | funnelLaunch (j : Nat) (late : Bool)
  /-- HOST_BLOCK_START (R359). -/
  | hostBlockStart (b : Nat)
  /-- HR_BLOCK_COMMIT (R360). -/
  | hrBlockCommit (b : Nat)
  /-- HR_SLOT_WRITE (R360). -/
  | hrSlotWrite (b : Nat)
  /-- CONFIRM_READ_COMPLETION (R362). -/
  | confirmReadCompletion (b : Nat) (good : Bool)
  /-- CPL_TIMEOUT (R362). -/
  | cplTimeout (b off : Nat)
  /-- HR_ACK_WRITE (R361). -/
  | hrAckWrite (b idx : Nat)
  /-- HT_PROD_WRITE (R363). -/
  | htProdWrite (b idx : Nat)
  /-- HT_READ_COMPLETION (R363). -/
  | htReadCompletion (b off : Nat) (data : List Byte) (good : Bool)
  /-- PCIE_LINK_STATE_CHANGE (R353). -/
  | pcieLinkStateChange (st speed width : Nat)
  /-- CTL_SPI_FRAME (R367). -/
  | ctlSpiFrame (mosi : List Byte) (late : List Nat)
  /-- CTL_I2C_FRAME (R370). -/
  | ctlI2cFrame (target : Nat) (sent : List Byte) (read : Option Nat)
  /-- STK_LINK_TRAINED (R379). -/
  | stkLinkTrained (l port pos serial major minor role gen : Nat) (inv0 inv1 swapped : Bool)
  /-- STK_LINK_DOWN (R380). -/
  | stkLinkDown (l : Nat)
  /-- SYNZO_FRAME_RX (R377). -/
  | synzoFrameRx (l cls dest src flags seq : Nat) (item : List Byte) (good : Bool) (msg : StkMsg)
  /-- STK_GEN_PULL (R389). -/
  | stkGenPull (stored crc : Nat) (diff : List Byte) (record : Bool)
  /-- SO_ITEM_SEND (R393). -/
  | soItemSend (b : Nat)
  /-- TWIN_FAIL_PIN (R405). -/
  | twinFailPin (ns : Nat)
  /-- TWIN_HEALTH_PERIOD_END (R411). -/
  | twinHealthPeriodEnd (march loop : Nat)
  /-- TDM_ARM_WRITE (R238). -/
  | tdmArmWrite (p : Nat) (rx arm : Bool)
  /-- TDM_STOP_WRITE (R237). -/
  | tdmStopWrite (p : Nat) (rx : Bool)
  /-- TDM_START_INSTANT (R237). -/
  | tdmStartInstant (p : Nat) (rx : Bool)
  /-- TDM_FRAME (R234): `line` is SDI at the sampling edges, a bit each. -/
  | tdmFrame (p : Nat) (rx maskReady : Bool) (len high : Nat) (line sdo : List Nat)
  /-- TDM_CLOCK_LOST (R236). -/
  | tdmClockLost (p : Nat) (rx : Bool)
  /-- TDM_LEAD_OUT_END (R237). -/
  | tdmLeadOutEnd (p : Nat) (rx : Bool)
  /-- GRD_READBACK_FAULT (R433). -/
  | grdReadbackFault (n pin kind : Nat)
  /-- GRD_PIN_TRIP (R434). -/
  | grdPinTrip (n pin : Nat)
  /-- GRD_REPROBE_TIMER (R435). -/
  | grdReprobeTimer (cls n pin : Nat) (clean : Bool)
  /-- GRD_OPEN_TEST (R437). -/
  | grdOpenTest (n up down : Nat)
  /-- GRD_CLOCK_SWAP_DETECT (R438). -/
  | grdClockSwapDetect (n : Nat) (rx : Bool) (fs bclk : Nat)
  /-- GRD_LOSS_OF_SIGNAL (R440). -/
  | grdLossOfSignal (lane : Nat) (lost : Bool)
  /-- GRD_TIO_SHORT (R442). -/
  | grdTioShort (pin : Nat) (contention : Bool)
  /-- GRD_INPUT_CONTENTION (R443). -/
  | grdInputContention (pin : Nat)
  /-- DX_SPI_FRAME (R449). -/
  | dxSpiFrame (mosi : List Byte) (bits_ : Bool)
  /-- DX_REFRESH (R452). -/
  | dxRefresh (csLow : Bool)
  /-- DX_DISCOVERY_QUERY (R460). -/
  | dxDiscoveryQuery (bytes : List Byte)
  /-- DX_SAP_ANNOUNCE (R460). -/
  | dxSapAnnounce (f : Nat)
  /-- ACCEPTED_COMMAND_END (R198). -/
  | acceptedCommandEnd (ch tag : Nat) (hw : Bool) (verify tested failed first : Nat)
  /-- COMMAND_BOUND_TIMEOUT (R212). -/
  | commandBoundTimeout (ch tag : Nat)
  /-- PWR_CORE_EN_RISE (R45). -/
  | pwrCoreEnRise
  /-- RAIL_TIMEOUT (R43). -/
  | railTimeout
  /-- RAIL_RETRY (R43). -/
  | railRetry
  /-- WAKE_RAIL_TIMEOUT (R42). -/
  | wakeRailTimeout
  /-- SYS_RESET_EXECUTE (R214). -/
  | sysResetExecute
  /-- PERST_N_ASSERT (R353). -/
  | perstNAssert
  /-- REF_PLL_LOCK (R83). -/
  | refPllLock
  /-- SYS_PLL_LOCK (R83). -/
  | sysPllLock
  /-- BOOT_FORME_APPLIED (R415). -/
  | bootFormeApplied
  /-- XTAL_QUALIFIED (R77). -/
  | xtalQualified
  /-- XTAL_FAIL_TIMEOUT (R77). -/
  | xtalFailTimeout
  /-- TO_DOZE_COMPLETE (R62). -/
  | toDozeComplete
  /-- POINT_OF_NO_RETURN (R64). -/
  | pointOfNoReturn
  /-- MIN_OFF_TIME_EXPIRY (R64). -/
  | minOffTimeExpiry
  /-- WAKE_POWER_UP (R42). -/
  | wakePowerUp
  /-- PME_L2_HANDSHAKE (R216). -/
  | pmeL2Handshake
  /-- PME_L2_TIMEOUT (R216). -/
  | pmeL2Timeout
  /-- TIME_HANDBACK (R118). -/
  | timeHandback
  /-- WCLK_IN_LOSS (R101). -/
  | wclkInLoss
  /-- PPS_OUT_PULSE (R124). -/
  | ppsOutPulse
  /-- PLATEN_STROBE_ARRIVAL (R122). -/
  | platenStrobeArrival
  /-- CFG_CRC_PASS_END (R151). -/
  | cfgCrcPassEnd
  /-- CFG_CRC_STALE (R152). -/
  | cfgCrcStale
  /-- MCU_WAIT_FOR_INTERRUPT (R178). -/
  | mcuWaitForInterrupt
  /-- REQUEST_TAKE (R189). -/
  | requestTake
  /-- RING_ENABLE (R191). -/
  | ringEnable
  /-- COMPLETION_WRITE (R193). -/
  | completionWrite
  /-- EVENT_WRITE (R194). -/
  | eventWrite
  /-- LOAD_CHUNK_TAKEN (R202). -/
  | loadChunkTaken
  /-- FORME_EPOCH (R420). -/
  | formeEpoch
  /-- FORME_STAGE_VERIFY (R422). -/
  | formeStageVerify
  /-- FLUSH_END (R285). -/
  | flushEnd
  /-- FLUSH_FORCED_ABORT (R285). -/
  | flushForcedAbort
  /-- TABLE_CRC_UPDATE (R261). -/
  | tableCrcUpdate
  /-- STK_TIME_FRAME_TX (R382). -/
  | stkTimeFrameTx
  /-- STK_TIME_REGAIN (R388). -/
  | stkTimeRegain
  /-- STK_IDENTIFY_TIMEOUT (R385). -/
  | stkIdentifyTimeout
  /-- STK_MASTER_LOSS (R385). -/
  | stkMasterLoss
  /-- TWIN_HEARTBEAT_TX (R405). -/
  | twinHeartbeatTx
  /-- TWIN_HEARTBEAT_MISS (R405). -/
  | twinHeartbeatMiss
  /-- TWIN_CMD_TAKE (R405). -/
  | twinCmdTake
  /-- TWIN_CMD_HANDOVER (R407). -/
  | twinCmdHandover
  /-- TWIN_HANDOVER_CYCLE (R407). -/
  | twinHandoverCycle
  /-- TWIN_TAKE_PULSE_SEEN (R406). -/
  | twinTakePulseSeen
  /-- TWIN_TAKING_END (R406). -/
  | twinTakingEnd
  /-- TWIN_PAIRING_TIMEOUT (R402). -/
  | twinPairingTimeout
  /-- TWIN_CHECKPOINT_DYNAMIC_TX (R403). -/
  | twinCheckpointDynamicTx
  /-- TWIN_CHECKPOINT_COMMIT (R404). -/
  | twinCheckpointCommit
  /-- GRD_TIO_OPEN (R442). -/
  | grdTioOpen
  /-- GRD_PPS_LOSS (R443). -/
  | grdPpsLoss
  /-- DX_SOFT_RESET (R454). -/
  | dxSoftReset
  /-- DX_REFRESH_DEFERRED (R452). -/
  | dxRefreshDeferred
  /-- SUPPLY_LOSS (R46). -/
  | supplyLoss
  /-- BROWN_OUT (R405). -/
  | brownOut
  deriving DecidableEq, Repr

end Sys2Proof
end

