-- ==== Sys2Proof/Decode.lean ====
section
/-! DEFINITION. Words that spell a command: spec/opcode_table.json gives bits to no row, so there are none. -/

namespace Sys2Proof

/-- The command a word of the table spells: none (log 2). -/
def decodeTableWord (_nbits _w : Nat) : Option Instr := none

end Sys2Proof
end

