-- ==== Sys2Proof/Config.lean ====
section
/-! DEFINITION. What the spec leaves to the implementation or leaves open: constants without a body, so that no
proof can see their values. Each is named in the assumption log. -/

namespace Sys2Proof.Config

/-- A free value: the `n`-th one the machine draws. Nothing constrains it (log 3). -/
opaque freeValue : Nat → BitVec 64

/-- The output word of a kerning lane that resamples: from its ratio in 8.24, the time from the input instant before its place to
that place, in 2^-32 ns, and the 64 input sorts around it (log 13). -/
opaque resample : Nat → Nat → List (BitVec 32) → BitVec 32

/-- The dither added for a destination at an index to a word (log 13). -/
opaque dither : Nat → Nat → BitVec 32 → BitVec 32

/-- Which neighbour a product by n/64 rounds to, from the exact product (log 13). -/
opaque roundUp : Int → Bool

/-- The word a destination gets from a TDM receive channel for an index whose frame has not ended, from the channel's
identifier and the index (log 54). -/
opaque earlySort : Nat → Nat → BitVec 32

/-- The phase of an MCS's sine generator at index 0, in 2^-32 turn (log 13). -/
opaque tonePhase : Nat → Nat

/-- How far a KP or KI code of a PTI's servo shifts the offset to the right (R113; log 100). -/
opaque servoShift : Nat → Nat

/-- The revision byte of COLO.REV: 0xA0, 0xA1 or 0xB0 by silicon (R471; log 4). -/
opaque silicon : Fin 3

end Sys2Proof.Config
end

