-- ==== Sys2Proof/Machine/Bits.lean ====
section
/-! DEFINITION. Bit fields, byte orders and sign extension: every packing of the spec is built from these. -/

namespace Sys2Proof.Machine

/-- A bit as a number. -/
def b2n (b : Bool) : Nat := if b then 1 else 0

/-- Bit `i` of a number. -/
def nbit (n i : Nat) : Bool := Nat.testBit n i

/-- A number with bit `i` set or cleared. -/
def setBit (n i : Nat) (b : Bool) : Nat :=
  if b then n ||| (1 <<< i) else if nbit n i then n - (1 <<< i) else n

/-- Bits `[lo+w-1:lo]` of a number. -/
def bits (n lo w : Nat) : Nat := (n >>> lo) % 2 ^ w

/-- `n` little-endian bytes of a number. -/
def leBytes : Nat → Nat → List Byte
  | 0, _ => []
  | n + 1, v => BitVec.ofNat 8 v :: leBytes n (v / 256)

/-- `n` big-endian bytes of a number. -/
def beBytes (n v : Nat) : List Byte := (leBytes n v).reverse

/-- The number a little-endian byte string spells. -/
def fromLE : List Byte → Nat
  | [] => 0
  | b :: bs => b.toNat + 256 * fromLE bs

/-- The number a big-endian byte string spells. -/
def fromBE (bs : List Byte) : Nat := fromLE bs.reverse

/-- Two's-complement reading of the low `w` bits of a number. -/
def toSigned (w v : Nat) : Int :=
  let m := v % 2 ^ w
  if m < 2 ^ (w - 1) then (m : Int) else (m : Int) - ((2 ^ w : Nat) : Int)

/-- The `w`-bit two's-complement pattern of an integer. -/
def ofSigned (w : Nat) (i : Int) : Nat := (i % ((2 ^ w : Nat) : Int)).toNat

/-- An integer clamped between two bounds. -/
def clampInt (lo hi i : Int) : Int := if i < lo then lo else if hi < i then hi else i

/-- Byte `i` of a payload as u8; bytes beyond its end read 0. -/
def u8 (p : List Byte) (i : Nat) : Nat := (p.getD i 0).toNat

/-- Little-endian u16 at byte `i`. -/
def u16 (p : List Byte) (i : Nat) : Nat := u8 p i + 256 * u8 p (i + 1)

/-- Little-endian u32 at byte `i`. -/
def u32 (p : List Byte) (i : Nat) : Nat := u16 p i + 65536 * u16 p (i + 2)

/-- Little-endian u48 at byte `i`. -/
def u48 (p : List Byte) (i : Nat) : Nat := u32 p i + 0x100000000 * u16 p (i + 4)

/-- Little-endian u64 at byte `i`. -/
def u64 (p : List Byte) (i : Nat) : Nat := u32 p i + 0x100000000 * u32 p (i + 4)

/-- Big-endian u16 at byte `i`. -/
def be16 (p : List Byte) (i : Nat) : Nat := 256 * u8 p i + u8 p (i + 1)

/-- Big-endian u32 at byte `i`. -/
def be32 (p : List Byte) (i : Nat) : Nat := 65536 * be16 p i + be16 p (i + 2)

/-- A list with the element at `i` replaced through a function; out of range leaves it unchanged. -/
def modifyAt {α : Type} (l : List α) (i : Nat) (f : α → α) : List α :=
  match l, i with
  | [], _ => []
  | x :: xs, 0 => f x :: xs
  | x :: xs, n + 1 => x :: modifyAt xs n f

/-- One step of a reflected CRC-32 over a byte's bits. -/
def crcBits (poly : Nat) : Nat → Nat → Nat
  | 0, c => c
  | n + 1, c => crcBits poly n (if c % 2 = 1 then (c / 2) ^^^ poly else c / 2)

/-- A reflected CRC register after a byte string. -/
def crcFeed (poly : Nat) : Nat → List Byte → Nat
  | c, [] => c
  | c, b :: bs => crcFeed poly (crcBits poly 8 (c ^^^ b.toNat)) bs

/-- CRC-32C (Castagnoli) with initial value and final XOR 0xFFFF_FFFF (R151). -/
def crc32c (bs : List Byte) : Nat := crcFeed 0x82F63B78 0xFFFFFFFF bs ^^^ 0xFFFFFFFF

/-- The Ethernet frame check, CRC-32 (IEEE 802.3). -/
def crc32 (bs : List Byte) : Nat := crcFeed 0xEDB88320 0xFFFFFFFF bs ^^^ 0xFFFFFFFF

end Sys2Proof.Machine
end

