-- ==== Sys2Proof/Machine/Store.lean ====
section
/-! DEFINITION. The sparse storage every register file and byte memory of the model uses: a list of key and value
pairs in one canonical form (keys strictly rising, no entry equal to what an unlisted key reads as), and the named
bit fields of a register word. -/

namespace Sys2Proof.Machine

/-- A sparse map from keys to values. -/
abbrev Sparse (α : Type) := List (Nat × α)

/-- A register file: key to word. -/
abbrev Store := Sparse Word

/-- A byte memory: address to byte. -/
abbrev Mem := List Host.Cell

variable {α : Type}

/-- The entry at a key, if one is listed. -/
def sFind (k : Nat) : Sparse α → Option α
  | [] => none
  | p :: m => if p.1 = k then some p.2 else sFind k m

/-- What a key reads as: its entry, or the default of an unlisted key. -/
def sGet (d : Nat → α) (m : Sparse α) (k : Nat) : α :=
  match sFind k m with
  | some v => v
  | none => d k

/-- The map without a key's entry. -/
def sErase (k : Nat) : Sparse α → Sparse α
  | [] => []
  | p :: m => if p.1 = k then sErase k m else p :: sErase k m

/-- The map with an entry added in its place. -/
def sInsert (k : Nat) (v : α) : Sparse α → Sparse α
  | [] => [(k, v)]
  | p :: m => if k < p.1 then (k, v) :: p :: m else p :: sInsert k v m

/-- Writing a value: the default removes the entry, so equal maps are equal lists. -/
def sPut [DecidableEq α] (d : Nat → α) (m : Sparse α) (k : Nat) (v : α) : Sparse α :=
  if v = d k then sErase k m else sInsert k v (sErase k m)

/-- The canonical form: keys strictly rising, no entry equal to its default. -/
def sWf [DecidableEq α] (d : Nat → α) : Sparse α → Bool
  | [] => true
  | p :: m => decide (p.2 ≠ d p.1) && m.all (fun q => decide (p.1 < q.1)) && sWf d m

/-- The map without the entries whose keys meet a test. -/
def sDrop (f : Nat → Bool) : Sparse α → Sparse α
  | [] => []
  | p :: m => if f p.1 then sDrop f m else p :: sDrop f m

/-- What an unlisted byte of a buffer reads as. -/
def memDefault (_ : Nat) : Byte := 0

/-- Memory.wf: the canonical form of a byte memory. -/
abbrev memWf (m : Mem) : Bool := sWf memDefault m

/-- One byte of a buffer. -/
def memGet (m : Mem) (a : Nat) : Byte := sGet memDefault m a

/-- Write one byte of a buffer. -/
def memPut (m : Mem) (a : Nat) (b : Byte) : Mem := sPut memDefault m a b

/-- Write a run of bytes from an address up. -/
def memWrite (m : Mem) (a : Nat) : List Byte → Mem
  | [] => m
  | b :: bs => memWrite (memPut m a b) (a + 1) bs

/-- Read `n` bytes from an address up. -/
def memRead (m : Mem) (a : Nat) : Nat → List Byte
  | 0 => []
  | n + 1 => memGet m a :: memRead m (a + 1) n

/-- A field of a register: the register's key, its lowest bit and its width. -/
structure Fld where
  key : Nat
  lo  : Nat
  w   : Nat
  deriving DecidableEq, Repr

/-- The key of the register at `off` for the item a selector names (R151: the item number is the value the selector
register would hold). -/
def itemKey (off item : Nat) : Nat := off + 0x1000000 * item

/-- A field's value in a word. -/
def Fld.of (f : Fld) (x : Word) : Nat := (x.toNat >>> f.lo) % 2 ^ f.w

/-- The mask of a field. -/
def Fld.mask (f : Fld) : Word := BitVec.ofNat 32 ((2 ^ f.w - 1) <<< f.lo)

/-- A word with a field set to a value, taken modulo the field's width. -/
def Fld.ins (f : Fld) (v : Nat) (x : Word) : Word :=
  (x &&& ~~~ f.mask) ||| BitVec.ofNat 32 ((v % 2 ^ f.w) <<< f.lo)

end Sys2Proof.Machine
end

