-- ==== Sys2Proof/Machine/RegMap.lean ====
section
/-! DEFINITION. The register map of R469 and R472: one row per register (or per array of registers) with its
absolute offset, its update group (R140), its selector, its fields with their access codes (R14) and its reset
word, taken from the field tables of the spec's chapters; then a name for every register and every field. -/

namespace Sys2Proof.Machine

/-- The access codes of R14. QL is the field row's own flag. -/
inductive Access where
  | ro | rl | rc | rw | sh | wo | set | clr | ct
  deriving DecidableEq, Repr

/-- One field of a register: its bits, its access code, whether QL. -/
structure FieldRow where
  hi  : Nat
  lo  : Nat
  acc : Access
  ql  : Bool
  deriving DecidableEq, Repr

/-- Which selector register names the item a register acts on; `init` marks the banks of R129. -/
inductive Selector where
  | one | init | galQ | rxf | txf | redF | redT | hstB | stkB
  deriving DecidableEq, Repr

/-- One register, or an array of `count` registers `stride` bytes apart. `group` 16 is none, 17 is group 4 or 5
by TDM port. `indir` marks the registers reached only through the indirect pair, `cov` a register that its table
marks as covered (R151). -/
structure RegRow where
  base   : Nat
  stride : Nat
  count  : Nat
  sel    : Selector
  group  : Nat
  indir  : Bool
  cov    : Bool
  rst    : Nat
  fields : List FieldRow
  deriving DecidableEq, Repr

/-- Block COLO. -/
def coloRows : List RegRow :=
  [/- COLO.PART (R471) -/
   ⟨0x0, 0, 1, .one, 16, false, false, 0x4096,
    [⟨31, 0, .ro, false⟩]⟩,
   /- COLO.REV (R471) -/
   ⟨0x4, 0, 1, .one, 16, false, false, 0x0,
    [⟨7, 0, .ro, false⟩]⟩,
   /- COLO.FW (R471) -/
   ⟨0x8, 0, 1, .one, 16, false, false, 0x0,
    [⟨23, 16, .ro, false⟩, ⟨15, 8, .ro, false⟩, ⟨7, 0, .ro, false⟩]⟩,
   /- COLO.STKPROTO (R471) -/
   ⟨0xc, 0, 1, .one, 16, false, false, 0x0,
    [⟨15, 8, .ro, false⟩, ⟨7, 0, .ro, false⟩]⟩]

/-- Block SYS. -/
def sysRows : List RegRow :=
  [/- SYS.PHASE (R158) -/
   ⟨0x1010, 0, 1, .one, 16, false, false, 0x0,
    [⟨8, 8, .ro, false⟩, ⟨7, 4, .ro, false⟩, ⟨1, 0, .rw, false⟩]⟩,
   /- SYS.STRAPS (R55) -/
   ⟨0x1040, 0, 1, .one, 16, false, false, 0x0,
    [⟨25, 16, .rl, false⟩, ⟨11, 11, .rc, false⟩, ⟨10, 10, .ro, false⟩, ⟨9, 8, .ro, false⟩, ⟨7, 7, .ro, false⟩, ⟨6, 5, .ro, false⟩, ⟨4, 2, .ro, false⟩, ⟨1, 0, .ro, false⟩]⟩]

/-- Block PWR. -/
def pwrRows : List RegRow :=
  [/- PWR.STATE (R81) -/
   ⟨0x2000, 0, 1, .one, 16, false, false, 0xff0000,
    [⟨23, 16, .ro, false⟩, ⟨11, 11, .rl, false⟩, ⟨10, 10, .rl, false⟩, ⟨7, 4, .ro, false⟩, ⟨3, 0, .rl, false⟩]⟩,
   /- PWR.CTRL (R81) -/
   ⟨0x2004, 0, 1, .one, 16, false, false, 0x303,
    [⟨13, 12, .rw, true⟩, ⟨9, 8, .rw, true⟩, ⟨1, 1, .rw, true⟩, ⟨0, 0, .rw, true⟩]⟩,
   /- PWR.WL_CFG (R81) -/
   ⟨0x2010, 0, 1, .one, 16, true, false, 0x800f,
    [⟨31, 16, .rw, true⟩, ⟨15, 0, .rw, true⟩]⟩,
   /- PWR.WL_STAT (R81) -/
   ⟨0x2014, 0, 1, .one, 16, true, false, 0x0,
    [⟨15, 0, .rc, false⟩]⟩,
   /- PWR.ALARM (R81) -/
   ⟨0x2018, 0, 1, .one, 16, true, false, 0x0,
    [⟨31, 0, .rw, false⟩]⟩,
   /- PWR.AVS (R81) -/
   ⟨0x2020, 0, 1, .one, 16, false, false, 0x14003f08,
    [⟨31, 31, .rw, true⟩, ⟨29, 24, .rl, false⟩, ⟨21, 16, .rw, true⟩, ⟨13, 8, .rw, true⟩, ⟨5, 0, .rw, true⟩]⟩,
   /- PWR.VID_RUN (R81) -/
   ⟨0x2024, 0, 1, .one, 16, false, false, 0x14,
    [⟨5, 0, .ro, false⟩]⟩,
   /- PWR.FAULT (R81) -/
   ⟨0x2030, 0, 1, .one, 16, false, false, 0x0,
    [⟨5, 5, .rc, false⟩, ⟨4, 4, .rc, false⟩, ⟨3, 3, .rc, false⟩, ⟨2, 2, .rc, false⟩, ⟨1, 1, .rc, false⟩, ⟨0, 0, .rc, false⟩]⟩]

/-- Block REGIF. -/
def regifRows : List RegRow :=
  [/- REGIF.INDIR_ADDR (R158) -/
   ⟨0x3000, 0, 1, .init, 16, false, false, 0x8000000,
    [⟨31, 28, .rw, false⟩, ⟨27, 26, .rw, false⟩, ⟨23, 0, .rw, false⟩]⟩,
   /- REGIF.INDIR_DATA (R158) -/
   ⟨0x3004, 0, 1, .init, 16, false, false, 0x0,
    [⟨31, 0, .rw, false⟩]⟩,
   /- REGIF.INDIR_STAT (R158) -/
   ⟨0x3008, 0, 1, .init, 16, false, false, 0x0,
    [⟨3, 3, .rc, false⟩, ⟨2, 2, .rc, false⟩, ⟨1, 1, .rc, false⟩, ⟨0, 0, .rl, false⟩]⟩,
   /- REGIF.WIDE_SEL (R158) -/
   ⟨0x3010, 0, 1, .init, 16, false, false, 0x0,
    [⟨15, 0, .rw, false⟩]⟩,
   /- REGIF.WIDE_STAT (R158) -/
   ⟨0x3014, 0, 1, .init, 16, false, false, 0x0,
    [⟨1, 1, .rc, false⟩, ⟨0, 0, .rl, false⟩]⟩,
   /- REGIF.WIDE_Dk (R158) -/
   ⟨0x3018, 4, 4, .init, 16, false, false, 0x0,
    [⟨31, 0, .ro, false⟩]⟩,
   /- REGIF.UPDATE (R158) -/
   ⟨0x3030, 0, 1, .one, 16, false, false, 0x0,
    [⟨15, 0, .wo, false⟩]⟩,
   /- REGIF.UPDATE_STAT (R158) -/
   ⟨0x3034, 0, 1, .one, 16, false, false, 0x0,
    [⟨15, 0, .rl, false⟩]⟩,
   /- REGIF.READ_MODE (R158) -/
   ⟨0x3038, 0, 1, .init, 16, false, false, 0x0,
    [⟨0, 0, .rw, false⟩]⟩,
   /- REGIF.GUARD_ADDR (R158) -/
   ⟨0x3040, 0, 1, .init, 16, false, false, 0x0,
    [⟨31, 31, .rw, false⟩, ⟨30, 0, .rw, false⟩]⟩,
   /- REGIF.GUARD_VAL (R158) -/
   ⟨0x3048, 0, 1, .init, 16, false, false, 0x0,
    [⟨31, 0, .wo, false⟩]⟩,
   /- REGIF.GUARD_CPL (R158) -/
   ⟨0x304c, 0, 1, .init, 16, false, false, 0x0,
    [⟨31, 0, .wo, false⟩]⟩,
   /- REGIF.GUARD_STAT (R158) -/
   ⟨0x3050, 0, 1, .init, 16, false, false, 0x0,
    [⟨7, 4, .ro, false⟩, ⟨2, 2, .rc, false⟩, ⟨1, 1, .rc, false⟩, ⟨0, 0, .rl, false⟩]⟩,
   /- REGIF.QUOIN0 (R158) -/
   ⟨0x3060, 0, 1, .one, 16, false, false, 0x0,
    [⟨18, 0, .set, false⟩]⟩,
   /- REGIF.QUOIN1 (R158) -/
   ⟨0x3064, 0, 1, .one, 16, false, false, 0x0,
    [⟨15, 0, .set, false⟩]⟩,
   /- REGIF.VIOL_ADDR (R158) -/
   ⟨0x3070, 0, 1, .one, 16, false, false, 0x0,
    [⟨31, 0, .ro, false⟩]⟩,
   /- REGIF.VIOL_INFO (R158) -/
   ⟨0x3074, 0, 1, .one, 16, false, false, 0x0,
    [⟨9, 8, .ro, false⟩, ⟨2, 0, .ro, false⟩]⟩,
   /- REGIF.VIOL_COUNT (R158) -/
   ⟨0x3078, 0, 1, .one, 16, false, false, 0x0,
    [⟨15, 0, .ct, false⟩]⟩,
   /- REGIF.OFF_ACCESS_ADDR (R158) -/
   ⟨0x3080, 0, 1, .one, 16, false, false, 0x0,
    [⟨31, 0, .ro, false⟩]⟩,
   /- REGIF.OFF_ACCESS_INFO (R158) -/
   ⟨0x3084, 0, 1, .one, 16, false, false, 0x0,
    [⟨16, 16, .ro, false⟩, ⟨15, 0, .ct, false⟩]⟩,
   /- REGIF.CFG_CRC_CTL (R158) -/
   ⟨0x3090, 0, 1, .one, 16, false, false, 0x0,
    [⟨1, 1, .rw, true⟩, ⟨0, 0, .rw, true⟩]⟩,
   /- REGIF.CFG_CRC_REF (R158) -/
   ⟨0x3094, 0, 1, .one, 16, false, false, 0x0,
    [⟨31, 0, .rw, false⟩]⟩,
   /- REGIF.CFG_CRC_NOW (R158) -/
   ⟨0x3098, 0, 1, .one, 16, false, false, 0x0,
    [⟨31, 0, .ro, false⟩]⟩,
   /- REGIF.CFG_CRC_STAT (R158) -/
   ⟨0x309c, 0, 1, .one, 16, false, false, 0x0,
    [⟨4, 4, .rl, false⟩, ⟨3, 3, .rl, false⟩, ⟨2, 2, .rl, false⟩, ⟨1, 1, .rc, false⟩, ⟨0, 0, .rc, false⟩]⟩,
   /- REGIF.HOST_OWN0 (R158) -/
   ⟨0x30a0, 0, 1, .one, 16, false, false, 0x0,
    [⟨31, 0, .ro, false⟩]⟩,
   /- REGIF.HOST_OWN1 (R158) -/
   ⟨0x30a4, 0, 1, .one, 16, false, false, 0x0,
    [⟨31, 0, .ro, false⟩]⟩]

/-- Block IRQ. -/
def irqRows : List RegRow :=
  [/- IRQ.SUM_HOST (R181) -/
   ⟨0x4000, 0, 1, .one, 16, false, false, 0x0,
    [⟨22, 0, .rl, false⟩]⟩,
   /- IRQ.SUM_MCU (R181) -/
   ⟨0x4004, 0, 1, .one, 16, false, false, 0x0,
    [⟨22, 0, .rl, false⟩]⟩,
   /- IRQ.HOST_CTL (R181) -/
   ⟨0x4010, 0, 1, .one, 16, false, false, 0x10000,
    [⟨16, 16, .rw, false⟩, ⟨8, 8, .rw, false⟩, ⟨2, 0, .rw, false⟩]⟩,
   /- IRQ.MCU_CTL (R181) -/
   ⟨0x4014, 0, 1, .one, 16, false, false, 0x0,
    [⟨8, 8, .rl, false⟩, ⟨2, 0, .rw, false⟩]⟩,
   /- IRQ.HOST_STAT (R181) -/
   ⟨0x4018, 0, 1, .one, 16, false, false, 0x0,
    [⟨31, 31, .rl, false⟩, ⟨30, 30, .rl, false⟩, ⟨19, 18, .ro, false⟩, ⟨17, 17, .rc, false⟩, ⟨15, 8, .rl, false⟩, ⟨7, 4, .rl, false⟩, ⟨2, 0, .rl, false⟩]⟩,
   /- IRQ.MCU_STAT (R181) -/
   ⟨0x401c, 0, 1, .one, 16, false, false, 0x0,
    [⟨31, 31, .rl, false⟩, ⟨30, 30, .rl, false⟩, ⟨19, 18, .ro, false⟩, ⟨17, 17, .rc, false⟩, ⟨15, 8, .rl, false⟩, ⟨7, 4, .rl, false⟩, ⟨2, 0, .rl, false⟩]⟩,
   /- IRQ.ACK_HOST (R181) -/
   ⟨0x4020, 0, 1, .one, 16, false, false, 0x0,
    [⟨7, 0, .wo, false⟩]⟩,
   /- IRQ.EOI_HOST (R181) -/
   ⟨0x4024, 0, 1, .one, 16, false, false, 0x0,
    [⟨7, 0, .wo, false⟩]⟩,
   /- IRQ.ACK_MCU (R181) -/
   ⟨0x4028, 0, 1, .one, 16, false, false, 0x0,
    [⟨7, 0, .wo, false⟩]⟩,
   /- IRQ.EOI_MCU (R181) -/
   ⟨0x402c, 0, 1, .one, 16, false, false, 0x0,
    [⟨7, 0, .wo, false⟩]⟩,
   /- IRQ.FAULT_HOST (R181) -/
   ⟨0x4030, 0, 1, .one, 16, false, false, 0x0,
    [⟨31, 31, .rc, false⟩, ⟨30, 30, .rc, false⟩, ⟨24, 24, .ro, false⟩, ⟨15, 8, .ro, false⟩, ⟨7, 0, .ro, false⟩]⟩,
   /- IRQ.FAULT_MCU (R181) -/
   ⟨0x4034, 0, 1, .one, 16, false, false, 0x0,
    [⟨31, 31, .rc, false⟩, ⟨30, 30, .rc, false⟩, ⟨24, 24, .ro, false⟩, ⟨15, 8, .ro, false⟩, ⟨7, 0, .ro, false⟩]⟩,
   /- IRQ.SPURIOUS (R181) -/
   ⟨0x4038, 0, 1, .one, 16, false, false, 0x0,
    [⟨31, 16, .ct, false⟩, ⟨15, 0, .ct, false⟩]⟩,
   /- IRQ.MOD_STAT (R181) -/
   ⟨0x403c, 0, 1, .one, 16, false, false, 0x0,
    [⟨31, 16, .rl, false⟩, ⟨15, 0, .rl, false⟩]⟩,
   /- IRQ.PEND_HOST_SETk (R181) -/
   ⟨0x4100, 4, 8, .one, 16, false, false, 0x0,
    [⟨31, 0, .set, false⟩]⟩,
   /- IRQ.PEND_HOST_CLRk (R181) -/
   ⟨0x4120, 4, 8, .one, 16, false, false, 0x0,
    [⟨31, 0, .clr, false⟩]⟩,
   /- IRQ.PEND_MCU_SETk (R181) -/
   ⟨0x4140, 4, 8, .one, 16, false, false, 0x0,
    [⟨31, 0, .set, false⟩]⟩,
   /- IRQ.PEND_MCU_CLRk (R181) -/
   ⟨0x4160, 4, 8, .one, 16, false, false, 0x0,
    [⟨31, 0, .clr, false⟩]⟩,
   /- IRQ.MASK_HOST_SETk (R181) -/
   ⟨0x4180, 4, 8, .one, 16, false, false, 0x0,
    [⟨31, 0, .set, false⟩]⟩,
   /- IRQ.MASK_HOST_CLRk (R181) -/
   ⟨0x41a0, 4, 8, .one, 16, false, false, 0x0,
    [⟨31, 0, .clr, false⟩]⟩,
   /- IRQ.MASK_MCU_SETk (R181) -/
   ⟨0x41c0, 4, 8, .one, 16, false, false, 0x0,
    [⟨31, 0, .set, false⟩]⟩,
   /- IRQ.MASK_MCU_CLRk (R181) -/
   ⟨0x41e0, 4, 8, .one, 16, false, false, 0x0,
    [⟨31, 0, .clr, false⟩]⟩,
   /- IRQ.RAWk (R181) -/
   ⟨0x4200, 4, 8, .one, 16, false, false, 0x0,
    [⟨31, 0, .rl, false⟩]⟩,
   /- IRQ.SRCn_CFG (R181) -/
   ⟨0x4400, 4, 256, .one, 16, false, true, 0x0,
    [⟨15, 12, .rw, false⟩, ⟨10, 8, .rw, false⟩, ⟨6, 4, .rw, false⟩, ⟨2, 0, .rw, false⟩]⟩,
   /- IRQ.MODg (R181) -/
   ⟨0x4800, 4, 16, .one, 16, false, true, 0x0,
    [⟨23, 16, .rw, false⟩, ⟨13, 0, .rw, false⟩]⟩,
   /- IRQ.CNT_CLR (R181) -/
   ⟨0x4840, 0, 1, .one, 16, false, false, 0x0,
    [⟨1, 1, .wo, false⟩, ⟨0, 0, .wo, false⟩]⟩]

/-- Block MBX. -/
def mbxRows : List RegRow :=
  [/- MBX.REQ_DB_SET (R207) -/
   ⟨0x5000, 0, 1, .one, 16, false, false, 0x0,
    [⟨7, 0, .set, false⟩]⟩,
   /- MBX.REQ_DB_CLR (R207) -/
   ⟨0x5004, 0, 1, .one, 16, false, false, 0x0,
    [⟨7, 0, .clr, false⟩]⟩,
   /- MBX.RSP_DB_SET (R207) -/
   ⟨0x5008, 0, 1, .one, 16, false, false, 0x0,
    [⟨7, 0, .set, false⟩]⟩,
   /- MBX.RSP_DB_CLR (R207) -/
   ⟨0x500c, 0, 1, .one, 16, false, false, 0x0,
    [⟨7, 0, .clr, false⟩]⟩,
   /- MBX.SLOT_OWN (R207) -/
   ⟨0x5010, 0, 1, .one, 16, false, false, 0xf0,
    [⟨7, 0, .rw, true⟩]⟩,
   /- MBX.STAT (R207) -/
   ⟨0x5014, 0, 1, .one, 16, false, false, 0x0,
    [⟨31, 24, .ct, false⟩, ⟨23, 16, .ct, false⟩, ⟨1, 1, .rl, false⟩, ⟨0, 0, .rl, false⟩]⟩,
   /- MBX.RING_CTL (R207) -/
   ⟨0x5020, 0, 1, .one, 16, false, false, 0x0,
    [⟨0, 0, .rw, false⟩]⟩,
   /- MBX.CRING_BASE_LO (R207) -/
   ⟨0x5024, 0, 1, .one, 16, false, false, 0x0,
    [⟨31, 0, .rw, false⟩]⟩,
   /- MBX.CRING_BASE_HI (R207) -/
   ⟨0x5028, 0, 1, .one, 16, false, false, 0x0,
    [⟨31, 0, .rw, false⟩]⟩,
   /- MBX.CPL_BASE_LO (R207) -/
   ⟨0x502c, 0, 1, .one, 16, false, false, 0x0,
    [⟨31, 0, .rw, false⟩]⟩,
   /- MBX.CPL_BASE_HI (R207) -/
   ⟨0x5030, 0, 1, .one, 16, false, false, 0x0,
    [⟨31, 0, .rw, false⟩]⟩,
   /- MBX.EVT_BASE_LO (R207) -/
   ⟨0x5034, 0, 1, .one, 16, false, false, 0x0,
    [⟨31, 0, .rw, false⟩]⟩,
   /- MBX.EVT_BASE_HI (R207) -/
   ⟨0x5038, 0, 1, .one, 16, false, false, 0x0,
    [⟨31, 0, .rw, false⟩]⟩,
   /- MBX.RING_IDX (R207) -/
   ⟨0x503c, 0, 1, .one, 16, false, false, 0x0,
    [⟨30, 24, .rl, false⟩, ⟨23, 16, .rl, false⟩, ⟨15, 8, .rl, false⟩, ⟨7, 0, .rl, false⟩]⟩,
   /- MBX.RING_STAT (R207) -/
   ⟨0x5040, 0, 1, .one, 16, false, false, 0x0,
    [⟨31, 16, .ct, false⟩, ⟨3, 1, .ro, false⟩, ⟨0, 0, .rl, false⟩]⟩,
   /- MBX.BOOT_INFO (R207) -/
   ⟨0x5050, 0, 1, .one, 16, false, false, 0x0,
    [⟨31, 16, .ct, false⟩, ⟨11, 8, .ro, false⟩, ⟨4, 4, .ro, false⟩, ⟨1, 0, .ro, false⟩]⟩,
   /- MBX.WDOG_CFG (R207) -/
   ⟨0x5060, 0, 1, .one, 16, false, true, 0x64,
    [⟨31, 31, .rw, true⟩, ⟨9, 0, .rw, true⟩]⟩,
   /- MBX.WDOG_STAT (R207) -/
   ⟨0x5064, 0, 1, .one, 16, false, false, 0x0,
    [⟨2, 0, .ro, false⟩]⟩,
   /- MBX.LOAD_CTL (R207) -/
   ⟨0x5070, 0, 1, .one, 16, false, false, 0x0,
    [⟨31, 31, .wo, false⟩, ⟨30, 30, .wo, false⟩, ⟨15, 0, .wo, false⟩]⟩,
   /- MBX.LOAD_STAT (R207) -/
   ⟨0x5074, 0, 1, .one, 16, false, false, 0x0,
    [⟨31, 12, .ro, false⟩, ⟨3, 3, .rl, false⟩, ⟨2, 2, .rl, false⟩, ⟨1, 1, .rl, false⟩, ⟨0, 0, .rl, false⟩]⟩,
   /- MBX.CNT_CLR (R207) -/
   ⟨0x5080, 0, 1, .one, 16, false, false, 0x0,
    [⟨3, 3, .wo, false⟩, ⟨2, 2, .wo, false⟩, ⟨1, 1, .wo, false⟩, ⟨0, 0, .wo, false⟩]⟩]

/-- Block CLK. MCLK_CFG's bytes 1 to 3 reset as its byte 0 does (log 96). -/
def clkRows : List RegRow :=
  [/- CLK.PLL_STAT (R102) -/
   ⟨0x6000, 0, 1, .one, 16, false, false, 0x0,
    [⟨4, 4, .rl, false⟩, ⟨3, 3, .rc, false⟩, ⟨2, 2, .rc, false⟩, ⟨1, 1, .rl, false⟩, ⟨0, 0, .rl, false⟩]⟩,
   /- CLK.WCLK_CFG (R102) -/
   ⟨0x6010, 0, 1, .one, 2, false, false, 0x0,
    [⟨31, 31, .sh, true⟩, ⟨26, 24, .sh, true⟩, ⟨15, 0, .sh, true⟩]⟩,
   /- CLK.WCLK_STAT (R102) -/
   ⟨0x6014, 0, 1, .one, 16, false, false, 0x70000000,
    [⟨31, 31, .rl, false⟩, ⟨30, 28, .rl, false⟩, ⟨27, 27, .rc, false⟩, ⟨15, 0, .ro, false⟩]⟩,
   /- CLK.MCLK_CFG (R102) -/
   ⟨0x6020, 0, 1, .one, 2, false, false, 0x20202020,
    [⟨7, 7, .sh, true⟩, ⟨6, 5, .sh, true⟩, ⟨3, 3, .rl, false⟩, ⟨2, 0, .sh, true⟩, ⟨15, 15, .sh, true⟩, ⟨14, 13, .sh, true⟩, ⟨11, 11, .rl, false⟩, ⟨10, 8, .sh, true⟩, ⟨23, 23, .sh, true⟩, ⟨22, 21, .sh, true⟩, ⟨19, 19, .rl, false⟩, ⟨18, 16, .sh, true⟩, ⟨31, 31, .sh, true⟩, ⟨30, 29, .sh, true⟩, ⟨27, 27, .rl, false⟩, ⟨26, 24, .sh, true⟩]⟩,
   /- CLK.MCSn_CFG (R102) -/
   ⟨0x6100, 32, 8, .one, 2, false, false, 0x1390000,
    [⟨31, 31, .sh, true⟩, ⟨28, 28, .sh, true⟩, ⟨27, 24, .sh, true⟩, ⟨23, 20, .sh, true⟩, ⟨19, 16, .sh, true⟩, ⟨10, 8, .sh, true⟩, ⟨7, 0, .sh, true⟩]⟩,
   /- CLK.MCSn_LOOP (R102) -/
   ⟨0x6104, 32, 8, .one, 2, false, false, 0xa7d328a,
    [⟨31, 24, .sh, true⟩, ⟨23, 16, .sh, true⟩, ⟨15, 8, .sh, true⟩, ⟨7, 4, .sh, true⟩, ⟨3, 0, .sh, true⟩]⟩,
   /- CLK.MCSn_STAT (R102) -/
   ⟨0x6108, 32, 8, .one, 16, false, false, 0x0,
    [⟨31, 28, .rl, false⟩, ⟨27, 24, .rl, false⟩, ⟨23, 14, .rl, false⟩, ⟨7, 7, .rl, false⟩, ⟨6, 6, .rl, false⟩, ⟨5, 5, .rc, false⟩, ⟨4, 4, .rc, false⟩, ⟨3, 3, .rc, false⟩, ⟨2, 2, .rc, false⟩, ⟨1, 1, .rc, false⟩, ⟨0, 0, .rc, false⟩]⟩,
   /- CLK.MCSn_PHASE (R102) -/
   ⟨0x610c, 32, 8, .one, 16, false, false, 0x0,
    [⟨31, 0, .ro, false⟩]⟩,
   /- CLK.MCSn_FREQ (R102) -/
   ⟨0x6110, 32, 8, .one, 16, false, false, 0x0,
    [⟨31, 0, .ro, false⟩]⟩]

/-- Block TIME. -/
def timeRows : List RegRow :=
  [/- TIME.PPS_CFG (R127) -/
   ⟨0x7004, 0, 1, .one, 3, false, false, 0x640000,
    [⟨31, 31, .sh, true⟩, ⟨29, 28, .sh, true⟩, ⟨23, 16, .sh, true⟩, ⟨0, 0, .sh, true⟩]⟩,
   /- TIME.DORMANT (R127) -/
   ⟨0x7008, 0, 1, .one, 16, false, false, 0x80000000,
    [⟨31, 31, .rw, true⟩, ⟨1, 0, .rw, true⟩]⟩,
   /- TIME.TRIM (R127) -/
   ⟨0x700c, 0, 1, .one, 16, false, false, 0x0,
    [⟨31, 0, .ro, false⟩]⟩,
   /- TIME.PTM_CFG (R127) -/
   ⟨0x7010, 0, 1, .one, 16, false, false, 0xa,
    [⟨31, 31, .rw, false⟩, ⟨29, 28, .rw, false⟩, ⟨10, 10, .rc, false⟩, ⟨9, 9, .rc, false⟩, ⟨7, 0, .rw, false⟩]⟩,
   /- TIME.PORT_ASYM (R127) -/
   ⟨0x7020, 4, 3, .one, 3, false, false, 0x0,
    [⟨31, 0, .sh, true⟩]⟩,
   /- TIME.DELAY_TH (R127) -/
   ⟨0x702c, 0, 1, .one, 16, false, false, 0x1f4,
    [⟨15, 0, .rw, true⟩]⟩,
   /- TIME.PTIn_CFG (R127) -/
   ⟨0x7100, 64, 4, .one, 3, false, false, 0x2864,
    [⟨31, 31, .sh, true⟩, ⟨30, 28, .sh, true⟩, ⟨27, 20, .sh, true⟩, ⟨19, 19, .rc, false⟩, ⟨18, 16, .sh, true⟩, ⟨15, 14, .sh, true⟩, ⟨13, 13, .sh, true⟩, ⟨12, 12, .sh, true⟩, ⟨11, 11, .sh, true⟩, ⟨10, 8, .sh, true⟩, ⟨7, 0, .sh, true⟩]⟩,
   /- TIME.PTIn_SERVO (R127) -/
   ⟨0x7104, 64, 4, .one, 16, false, false, 0x80491910,
    [⟨31, 31, .rw, true⟩, ⟨23, 20, .rw, true⟩, ⟨19, 16, .rw, true⟩, ⟨15, 8, .rw, true⟩, ⟨7, 0, .rw, true⟩]⟩,
   /- TIME.PTIn_ADDEND_INT (R127) -/
   ⟨0x7108, 64, 4, .one, 16, false, false, 0x2,
    [⟨31, 0, .rw, false⟩]⟩,
   /- TIME.PTIn_ADDEND_FRAC (R127) -/
   ⟨0x710c, 64, 4, .one, 16, false, false, 0x0,
    [⟨31, 0, .rw, false⟩]⟩,
   /- TIME.PTIn_ADJ (R127) -/
   ⟨0x7110, 64, 4, .one, 3, false, false, 0x0,
    [⟨31, 0, .sh, true⟩]⟩,
   /- TIME.PTIn_GUARD (R127) -/
   ⟨0x7114, 64, 4, .one, 3, false, false, 0xfa0a00,
    [⟨31, 16, .sh, true⟩, ⟨15, 8, .sh, true⟩]⟩,
   /- TIME.PTIn_STAT (R127) -/
   ⟨0x7118, 64, 4, .one, 16, false, false, 0x3000,
    [⟨15, 15, .rl, false⟩, ⟨14, 14, .rl, false⟩, ⟨13, 12, .rl, false⟩, ⟨11, 11, .rc, false⟩, ⟨10, 10, .rc, false⟩, ⟨9, 9, .rc, false⟩, ⟨8, 8, .rc, false⟩, ⟨7, 7, .rc, false⟩, ⟨6, 6, .rl, false⟩, ⟨5, 5, .rl, false⟩, ⟨4, 4, .rc, false⟩, ⟨3, 3, .rc, false⟩, ⟨2, 2, .rc, false⟩, ⟨1, 1, .rc, false⟩, ⟨0, 0, .rc, false⟩]⟩,
   /- TIME.PTIn_PORT_STATE (R127) -/
   ⟨0x711c, 64, 4, .one, 16, false, false, 0x0,
    [⟨11, 8, .rl, false⟩, ⟨7, 4, .rl, false⟩, ⟨3, 0, .rl, false⟩]⟩,
   /- TIME.PTIn_OFFSET (R127) -/
   ⟨0x7120, 64, 4, .one, 16, false, false, 0x0,
    [⟨31, 0, .ro, false⟩]⟩,
   /- TIME.PTIn_DISAGREE (R127) -/
   ⟨0x7124, 64, 4, .one, 16, false, false, 0x0,
    [⟨31, 0, .ro, false⟩]⟩,
   /- TIME.PLn_CFG (R127) -/
   ⟨0x7400, 32, 16, .one, 16, false, false, 0x0,
    [⟨31, 31, .rw, false⟩, ⟨30, 29, .rw, false⟩, ⟨28, 27, .rw, false⟩, ⟨26, 26, .rw, false⟩, ⟨25, 25, .rw, false⟩, ⟨24, 24, .rw, false⟩, ⟨19, 16, .rw, false⟩, ⟨15, 12, .rw, false⟩, ⟨11, 10, .rw, false⟩, ⟨7, 0, .rw, false⟩]⟩,
   /- TIME.PLn_GROUPS (R127) -/
   ⟨0x7404, 32, 16, .one, 16, false, false, 0x0,
    [⟨15, 0, .rw, false⟩]⟩,
   /- TIME.PLn_T_SEC_HI (R127) -/
   ⟨0x7408, 32, 16, .one, 16, false, false, 0x0,
    [⟨31, 0, .rw, false⟩]⟩,
   /- TIME.PLn_T_SEC_LO (R127) -/
   ⟨0x740c, 32, 16, .one, 16, false, false, 0x0,
    [⟨31, 0, .rw, false⟩]⟩,
   /- TIME.PLn_T_NS (R127) -/
   ⟨0x7410, 32, 16, .one, 16, false, false, 0x0,
    [⟨31, 0, .rw, false⟩]⟩,
   /- TIME.PLn_PERIOD_NS (R127) -/
   ⟨0x7414, 32, 16, .one, 16, false, false, 0x0,
    [⟨31, 0, .rw, false⟩]⟩,
   /- TIME.PLn_PERIOD_FRAC (R127) -/
   ⟨0x7418, 32, 16, .one, 16, false, false, 0x0,
    [⟨31, 0, .rw, false⟩]⟩,
   /- TIME.PLn_STAT (R127) -/
   ⟨0x741c, 32, 16, .one, 16, false, false, 0x0,
    [⟨5, 5, .rc, false⟩, ⟨4, 4, .rc, false⟩, ⟨3, 3, .rc, false⟩, ⟨2, 2, .rl, false⟩, ⟨1, 1, .rc, false⟩, ⟨0, 0, .rc, false⟩]⟩]

/-- Block TDM. -/
def tdmRows : List RegRow :=
  [/- TDMn.TX_FMT (R248) -/
   ⟨0x8000, 256, 16, .one, 17, false, false, 0x20000000,
    [⟨31, 31, .sh, true⟩, ⟨30, 30, .sh, true⟩, ⟨29, 28, .sh, true⟩, ⟨26, 24, .sh, true⟩, ⟨23, 23, .sh, true⟩, ⟨22, 22, .sh, true⟩, ⟨21, 21, .sh, true⟩, ⟨20, 20, .sh, true⟩, ⟨19, 19, .sh, true⟩, ⟨17, 16, .sh, true⟩, ⟨15, 12, .sh, true⟩]⟩,
   /- TDMn.TX_FRAME (R248) -/
   ⟨0x8004, 256, 16, .one, 17, false, false, 0x8800001,
    [⟨29, 24, .sh, true⟩, ⟨23, 18, .sh, true⟩, ⟨17, 12, .sh, true⟩, ⟨9, 0, .sh, true⟩]⟩,
   /- TDMn.TX_LEAD (R248) -/
   ⟨0x8008, 256, 16, .one, 17, false, false, 0x202,
    [⟨15, 8, .sh, true⟩, ⟨7, 0, .sh, true⟩]⟩,
   /- TDMn.TX_MASK (R248) -/
   ⟨0x800c, 256, 16, .one, 17, false, false, 0x0,
    [⟨31, 0, .sh, true⟩]⟩,
   /- TDMn.TX_CTRL (R248) -/
   ⟨0x8010, 256, 16, .one, 17, false, false, 0x1,
    [⟨0, 0, .sh, true⟩]⟩,
   /- TDMn.TX_CMD (R248) -/
   ⟨0x8014, 256, 16, .one, 16, false, false, 0x0,
    [⟨1, 1, .rw, false⟩, ⟨0, 0, .rw, false⟩]⟩,
   /- TDMn.TX_STAT (R248) -/
   ⟨0x8018, 256, 16, .one, 16, false, false, 0x0,
    [⟨31, 28, .rl, false⟩, ⟨11, 11, .rc, false⟩, ⟨10, 10, .rc, false⟩, ⟨9, 9, .rc, false⟩, ⟨8, 8, .rc, false⟩, ⟨7, 7, .rc, false⟩, ⟨6, 6, .rc, false⟩, ⟨5, 5, .rc, false⟩, ⟨4, 4, .rc, false⟩, ⟨3, 3, .rc, false⟩, ⟨2, 2, .rc, false⟩, ⟨1, 1, .rl, false⟩]⟩,
   /- TDMn.TX_PHASE (R248) -/
   ⟨0x801c, 256, 16, .one, 16, false, false, 0x0,
    [⟨31, 0, .ro, false⟩]⟩,
   /- TDMn.RX_FMT (R248) -/
   ⟨0x8020, 256, 16, .one, 17, false, false, 0x20000000,
    [⟨31, 31, .sh, true⟩, ⟨30, 30, .sh, true⟩, ⟨29, 28, .sh, true⟩, ⟨26, 24, .sh, true⟩, ⟨23, 23, .sh, true⟩, ⟨22, 22, .sh, true⟩, ⟨21, 21, .sh, true⟩, ⟨20, 20, .sh, true⟩, ⟨17, 16, .sh, true⟩, ⟨15, 12, .sh, true⟩]⟩,
   /- TDMn.RX_FRAME (R248) -/
   ⟨0x8024, 256, 16, .one, 17, false, false, 0x8800001,
    [⟨29, 24, .sh, true⟩, ⟨23, 18, .sh, true⟩, ⟨17, 12, .sh, true⟩, ⟨9, 0, .sh, true⟩]⟩,
   /- TDMn.RX_LEAD (R248) -/
   ⟨0x8028, 256, 16, .one, 17, false, false, 0x202,
    [⟨15, 8, .sh, true⟩, ⟨7, 0, .sh, true⟩]⟩,
   /- TDMn.RX_MASK (R248) -/
   ⟨0x802c, 256, 16, .one, 17, false, false, 0x0,
    [⟨31, 0, .sh, true⟩]⟩,
   /- TDMn.RX_CTRL (R248) -/
   ⟨0x8030, 256, 16, .one, 17, false, false, 0x1,
    [⟨0, 0, .sh, true⟩]⟩,
   /- TDMn.RX_CMD (R248) -/
   ⟨0x8034, 256, 16, .one, 16, false, false, 0x0,
    [⟨1, 1, .rw, false⟩, ⟨0, 0, .rw, false⟩]⟩,
   /- TDMn.RX_STAT (R248) -/
   ⟨0x8038, 256, 16, .one, 16, false, false, 0x0,
    [⟨31, 28, .rl, false⟩, ⟨11, 11, .rc, false⟩, ⟨10, 10, .rc, false⟩, ⟨9, 9, .rc, false⟩, ⟨8, 8, .rc, false⟩, ⟨7, 7, .rc, false⟩, ⟨6, 6, .rc, false⟩, ⟨5, 5, .rc, false⟩, ⟨4, 4, .rc, false⟩, ⟨3, 3, .rc, false⟩, ⟨2, 2, .rc, false⟩, ⟨1, 1, .rl, false⟩]⟩,
   /- TDMn.RX_PHASE (R248) -/
   ⟨0x803c, 256, 16, .one, 16, false, false, 0x0,
    [⟨31, 0, .ro, false⟩]⟩,
   /- TDMn.TX_UNDERRUN (R248) -/
   ⟨0x8040, 256, 16, .one, 16, false, false, 0x0,
    [⟨31, 0, .ct, false⟩]⟩,
   /- TDMn.TX_LATE (R248) -/
   ⟨0x8044, 256, 16, .one, 16, false, false, 0x0,
    [⟨31, 0, .ct, false⟩]⟩,
   /- TDMn.RX_OVERRUN (R248) -/
   ⟨0x8048, 256, 16, .one, 16, false, false, 0x0,
    [⟨31, 0, .ct, false⟩]⟩,
   /- TDMn.RX_STARVE (R248) -/
   ⟨0x804c, 256, 16, .one, 16, false, false, 0x0,
    [⟨31, 0, .ct, false⟩]⟩,
   /- TDMn.TX_SLIP (R248) -/
   ⟨0x8050, 256, 16, .one, 16, false, false, 0x0,
    [⟨31, 0, .ct, false⟩]⟩,
   /- TDMn.RX_SLIP (R248) -/
   ⟨0x8054, 256, 16, .one, 16, false, false, 0x0,
    [⟨31, 0, .ct, false⟩]⟩,
   /- TDMn.SAT (R248) -/
   ⟨0x8058, 256, 16, .one, 16, false, false, 0x0,
    [⟨5, 0, .rl, false⟩]⟩,
   /- TDMn.CNT_CLR (R248) -/
   ⟨0x805c, 256, 16, .one, 16, false, false, 0x0,
    [⟨5, 0, .wo, false⟩]⟩,
   /- TDMn.TX_CLKMEAS (R248) -/
   ⟨0x8060, 256, 16, .one, 16, true, false, 0x0,
    [⟨31, 31, .rl, false⟩, ⟨26, 16, .ro, false⟩, ⟨10, 0, .ro, false⟩]⟩,
   /- TDMn.RX_CLKMEAS (R248) -/
   ⟨0x8064, 256, 16, .one, 16, true, false, 0x0,
    [⟨31, 31, .rl, false⟩, ⟨26, 16, .ro, false⟩, ⟨10, 0, .ro, false⟩]⟩]

/-- Block IMP. -/
def impRows : List RegRow :=
  [/- IMP.GEN (R268) -/
   ⟨0x9000, 0, 1, .one, 1, false, false, 0x3e80012,
    [⟨31, 16, .sh, true⟩, ⟨7, 0, .sh, true⟩]⟩,
   /- IMP.STAT (R268) -/
   ⟨0x9004, 0, 1, .one, 16, false, false, 0x0,
    [⟨29, 16, .rl, false⟩, ⟨1, 1, .rc, false⟩, ⟨0, 0, .rc, false⟩]⟩,
   /- IMP.REFUSE_INFO (R268) -/
   ⟨0x9008, 0, 1, .one, 16, false, false, 0x0,
    [⟨31, 16, .ro, false⟩, ⟨7, 0, .ro, false⟩]⟩,
   /- IMP.XDOM_INFO (R268) -/
   ⟨0x900c, 0, 1, .one, 16, false, false, 0x0,
    [⟨31, 16, .ro, false⟩, ⟨13, 0, .rl, false⟩]⟩,
   /- IMP.TABLE_CRC (R268) -/
   ⟨0x9010, 0, 1, .one, 16, false, true, 0x0,
    [⟨31, 0, .ro, false⟩]⟩,
   /- IMP.REFUSED_CNT (R268) -/
   ⟨0x9014, 0, 1, .one, 16, false, false, 0x0,
    [⟨31, 0, .ct, false⟩]⟩,
   /- IMP.XDOM_CNT (R268) -/
   ⟨0x9018, 0, 1, .one, 16, false, false, 0x0,
    [⟨31, 0, .ct, false⟩]⟩,
   /- IMP.SAT (R268) -/
   ⟨0x901c, 0, 1, .one, 16, false, false, 0x0,
    [⟨1, 0, .rl, false⟩]⟩,
   /- IMP.CNT_CLR (R268) -/
   ⟨0x9020, 0, 1, .one, 16, false, false, 0x0,
    [⟨1, 0, .wo, false⟩]⟩]

/-- Block KRN. -/
def krnRows : List RegRow :=
  [/- KRN.GSTAT (R269) -/
   ⟨0xa000, 0, 1, .one, 16, false, false, 0x0,
    [⟨2, 2, .rl, false⟩, ⟨1, 1, .rl, false⟩, ⟨0, 0, .rl, false⟩]⟩,
   /- KRN.CNT_CLR (R269) -/
   ⟨0xa004, 0, 1, .one, 16, false, false, 0x0,
    [⟨31, 31, .wo, false⟩, ⟨7, 0, .wo, false⟩]⟩,
   /- KRN.Ln_CFG (R269) -/
   ⟨0xa400, 12, 256, .one, 8, false, false, 0x0,
    [⟨31, 30, .sh, true⟩, ⟨26, 24, .sh, true⟩, ⟨22, 20, .sh, true⟩]⟩,
   /- KRN.Ln_STAT (R269) -/
   ⟨0xa404, 12, 256, .one, 16, false, false, 0x0,
    [⟨31, 28, .rl, false⟩, ⟨27, 27, .rc, false⟩, ⟨26, 26, .rc, false⟩, ⟨25, 25, .rl, false⟩, ⟨24, 24, .rl, false⟩, ⟨15, 0, .ct, false⟩]⟩,
   /- KRN.Ln_RATIO (R269) -/
   ⟨0xa408, 12, 256, .one, 16, false, false, 0x0,
    [⟨31, 0, .ro, false⟩]⟩]

/-- Block GAL. -/
def galRows : List RegRow :=
  [/- GAL.CFG (R292) -/
   ⟨0xb000, 0, 1, .one, 15, false, false, 0x0,
    [⟨1, 1, .sh, true⟩, ⟨0, 0, .sh, true⟩]⟩,
   /- GAL.POOL (R292) -/
   ⟨0xb004, 0, 1, .one, 16, false, false, 0x0,
    [⟨31, 31, .rl, false⟩, ⟨30, 30, .rl, false⟩, ⟨17, 0, .rl, false⟩]⟩,
   /- GAL.SHARED (R292) -/
   ⟨0xb008, 0, 1, .one, 16, false, false, 0x0,
    [⟨17, 0, .rl, false⟩]⟩,
   /- GAL.LOW_WATER (R292) -/
   ⟨0xb00c, 0, 1, .one, 16, false, false, 0x1000,
    [⟨17, 0, .rw, true⟩]⟩,
   /- GAL.BUDGETk (R292) -/
   ⟨0xb010, 4, 5, .one, 16, false, false, 0x0,
    [⟨17, 0, .rw, true⟩]⟩,
   /- GAL.RESSUMk (R292) -/
   ⟨0xb030, 4, 4, .one, 16, false, false, 0x0,
    [⟨17, 0, .rl, false⟩]⟩,
   /- GAL.QSEL (R292) -/
   ⟨0xb040, 0, 1, .one, 16, false, false, 0x0,
    [⟨9, 0, .rw, false⟩]⟩,
   /- GAL.Q_CFG (R292) -/
   ⟨0xb044, 0, 1, .galQ, 16, false, false, 0x0,
    [⟨2, 2, .rw, true⟩, ⟨1, 0, .rw, true⟩]⟩,
   /- GAL.Q_RES (R292) -/
   ⟨0xb048, 0, 1, .galQ, 16, false, false, 0x0,
    [⟨17, 0, .rw, true⟩]⟩,
   /- GAL.Q_CAP (R292) -/
   ⟨0xb04c, 0, 1, .galQ, 16, false, false, 0x0,
    [⟨17, 0, .rw, true⟩]⟩,
   /- GAL.Q_STAT (R292) -/
   ⟨0xb050, 0, 1, .galQ, 16, false, false, 0x0,
    [⟨24, 24, .rl, false⟩, ⟨23, 23, .rl, false⟩, ⟨22, 22, .rl, false⟩, ⟨21, 21, .rl, false⟩, ⟨20, 20, .rl, false⟩, ⟨17, 0, .rl, false⟩]⟩,
   /- GAL.Q_DEPTH (R292) -/
   ⟨0xb054, 0, 1, .galQ, 16, false, false, 0x0,
    [⟨15, 0, .rl, false⟩]⟩,
   /- GAL.Q_DROPS (R292) -/
   ⟨0xb058, 0, 1, .galQ, 16, false, false, 0x0,
    [⟨31, 0, .ct, false⟩]⟩,
   /- GAL.Q_RWND (R292) -/
   ⟨0xb05c, 0, 1, .galQ, 16, false, false, 0x0,
    [⟨31, 0, .ct, false⟩]⟩,
   /- GAL.FLUSH (R292) -/
   ⟨0xb060, 0, 1, .one, 16, false, false, 0x0,
    [⟨31, 31, .rw, false⟩, ⟨9, 0, .rw, false⟩]⟩,
   /- GAL.FLUSH_STAT (R292) -/
   ⟨0xb064, 0, 1, .one, 16, false, false, 0x0,
    [⟨25, 16, .ro, false⟩, ⟨2, 2, .rc, false⟩, ⟨1, 1, .rc, false⟩, ⟨0, 0, .rl, false⟩]⟩,
   /- GAL.SCRUB (R292) -/
   ⟨0xb070, 0, 1, .one, 16, false, false, 0x80000400,
    [⟨31, 31, .rw, true⟩, ⟨15, 0, .rw, true⟩]⟩,
   /- GAL.SCRUB_STAT (R292) -/
   ⟨0xb074, 0, 1, .one, 16, false, false, 0x0,
    [⟨27, 27, .rl, false⟩, ⟨26, 16, .rl, false⟩, ⟨15, 0, .ct, false⟩]⟩,
   /- GAL.EVT (R292) -/
   ⟨0xb080, 0, 1, .one, 16, false, false, 0x0,
    [⟨7, 7, .rc, false⟩, ⟨6, 6, .rc, false⟩, ⟨5, 5, .rc, false⟩, ⟨4, 4, .rc, false⟩, ⟨3, 3, .rc, false⟩, ⟨2, 2, .rc, false⟩, ⟨1, 1, .rl, false⟩, ⟨0, 0, .rc, false⟩]⟩,
   /- GAL.ERR_ADDR (R292) -/
   ⟨0xb084, 0, 1, .one, 16, false, false, 0x0,
    [⟨31, 28, .ro, false⟩, ⟨19, 17, .ro, false⟩, ⟨16, 0, .ro, false⟩]⟩,
   /- GAL.PAR_CNT (R292) -/
   ⟨0xb090, 4, 2, .one, 16, false, false, 0x0,
    [⟨31, 0, .ct, false⟩]⟩,
   /- GAL.CE_CNT (R292) -/
   ⟨0xb098, 0, 1, .one, 16, false, false, 0x0,
    [⟨31, 0, .ct, false⟩]⟩,
   /- GAL.UE_CNT (R292) -/
   ⟨0xb09c, 0, 1, .one, 16, false, false, 0x0,
    [⟨31, 0, .ct, false⟩]⟩,
   /- GAL.DROP_CNT (R292) -/
   ⟨0xb0a0, 0, 1, .one, 16, false, false, 0x0,
    [⟨31, 0, .ct, false⟩]⟩,
   /- GAL.RWND_CNT (R292) -/
   ⟨0xb0a4, 0, 1, .one, 16, false, false, 0x0,
    [⟨31, 0, .ct, false⟩]⟩,
   /- GAL.LINK_CNT (R292) -/
   ⟨0xb0a8, 0, 1, .one, 16, false, false, 0x0,
    [⟨31, 0, .ct, false⟩]⟩,
   /- GAL.SAT (R292) -/
   ⟨0xb0b0, 0, 1, .one, 16, false, false, 0x0,
    [⟨6, 0, .rl, false⟩]⟩,
   /- GAL.CNT_CLR (R292) -/
   ⟨0xb0b4, 0, 1, .one, 16, false, false, 0x0,
    [⟨31, 31, .wo, false⟩, ⟨6, 0, .wo, false⟩]⟩,
   /- GAL.RESSUM4 (R292) -/
   ⟨0xb0b8, 0, 1, .one, 16, false, false, 0x0,
    [⟨17, 0, .rl, false⟩]⟩,
   /- GAL.DIAG (R292) -/
   ⟨0xb0c0, 0, 1, .one, 16, false, false, 0x0,
    [⟨31, 31, .rw, true⟩]⟩,
   /- GAL.INJECT (R292) -/
   ⟨0xb0c4, 0, 1, .one, 16, false, false, 0x0,
    [⟨31, 31, .rw, false⟩, ⟨30, 24, .rw, false⟩, ⟨19, 17, .rw, false⟩, ⟨16, 0, .rw, false⟩]⟩]

/-- Block RXF. -/
def rxfRows : List RegRow :=
  [/- RXF.FSEL (R316) -/
   ⟨0xc000, 0, 1, .one, 16, false, false, 0x0,
    [⟨7, 0, .rw, false⟩]⟩,
   /- RXF.CLS_STAT (R316) -/
   ⟨0xc004, 0, 1, .one, 16, false, false, 0x0,
    [⟨31, 31, .rc, false⟩, ⟨30, 28, .ro, false⟩, ⟨27, 27, .ro, false⟩, ⟨23, 12, .ro, false⟩, ⟨11, 0, .rl, false⟩]⟩,
   /- RXF.CLS_DUP (R316) -/
   ⟨0xc008, 0, 1, .one, 16, false, false, 0x0,
    [⟨31, 0, .ct, false⟩]⟩,
   /- RXF.CLS_DROP (R316) -/
   ⟨0xc00c, 0, 1, .one, 16, false, false, 0x0,
    [⟨31, 0, .ct, false⟩]⟩,
   /- RXF.PENDk (R316) -/
   ⟨0xc010, 4, 8, .one, 16, false, false, 0x0,
    [⟨31, 0, .rl, false⟩]⟩,
   /- RXF.F_CFG (R316) -/
   ⟨0xc100, 0, 1, .rxf, 6, false, false, 0x90800ff,
    [⟨31, 31, .sh, true⟩, ⟨30, 27, .sh, true⟩, ⟨26, 24, .sh, true⟩, ⟨23, 21, .sh, true⟩, ⟨20, 19, .sh, true⟩, ⟨18, 18, .sh, true⟩, ⟨17, 16, .sh, true⟩, ⟨15, 15, .sh, true⟩, ⟨14, 14, .sh, true⟩, ⟨13, 10, .sh, true⟩, ⟨9, 8, .sh, true⟩, ⟨7, 0, .sh, true⟩]⟩,
   /- RXF.F_CHAN (R316) -/
   ⟨0xc104, 0, 1, .rxf, 6, false, false, 0x1,
    [⟨26, 16, .sh, true⟩, ⟨15, 8, .sh, true⟩, ⟨6, 0, .sh, true⟩]⟩,
   /- RXF.F_OFFSET (R316) -/
   ⟨0xc108, 0, 1, .rxf, 6, false, false, 0x0,
    [⟨23, 0, .sh, true⟩]⟩,
   /- RXF.F_DEPTH (R316) -/
   ⟨0xc10c, 0, 1, .rxf, 6, false, false, 0x0,
    [⟨16, 0, .sh, true⟩]⟩,
   /- RXF.F_RTPOFF (R316) -/
   ⟨0xc110, 0, 1, .rxf, 6, false, false, 0x0,
    [⟨31, 0, .sh, true⟩]⟩,
   /- RXF.F_PLC (R316) -/
   ⟨0xc114, 0, 1, .rxf, 6, false, false, 0xd3e80032,
    [⟨31, 28, .sh, true⟩, ⟨25, 16, .sh, true⟩, ⟨7, 0, .sh, true⟩]⟩,
   /- RXF.F_TGT (R316) -/
   ⟨0xc118, 0, 1, .rxf, 6, false, false, 0x25800c8,
    [⟨31, 16, .sh, true⟩, ⟨15, 0, .sh, true⟩]⟩,
   /- RXF.F_STAT (R316) -/
   ⟨0xc11c, 0, 1, .rxf, 16, false, false, 0x0,
    [⟨31, 28, .rl, false⟩, ⟨11, 11, .rc, false⟩, ⟨10, 10, .rc, false⟩, ⟨9, 9, .rc, false⟩, ⟨8, 8, .rc, false⟩, ⟨7, 7, .rc, false⟩, ⟨6, 6, .rc, false⟩, ⟨5, 5, .rc, false⟩, ⟨4, 4, .rc, false⟩, ⟨3, 3, .rc, false⟩, ⟨2, 2, .rc, false⟩, ⟨1, 1, .rl, false⟩]⟩,
   /- RXF.F_MIN (R316) -/
   ⟨0xc120, 0, 1, .rxf, 16, false, false, 0x7fffffff,
    [⟨31, 0, .ro, false⟩]⟩,
   /- RXF.F_MEAN (R316) -/
   ⟨0xc124, 0, 1, .rxf, 16, false, false, 0x0,
    [⟨31, 0, .ro, false⟩]⟩,
   /- RXF.F_HISTk (R316) -/
   ⟨0xc128, 4, 8, .rxf, 16, false, false, 0x0,
    [⟨31, 16, .ct, false⟩, ⟨15, 0, .ct, false⟩]⟩,
   /- RXF.F_OFFSET_NOW (R316) -/
   ⟨0xc148, 0, 1, .rxf, 16, false, false, 0x0,
    [⟨23, 0, .rl, false⟩]⟩,
   /- RXF.F_LATE (R316) -/
   ⟨0xc150, 0, 1, .rxf, 16, false, false, 0x0,
    [⟨31, 0, .ct, false⟩]⟩,
   /- RXF.F_EARLY (R316) -/
   ⟨0xc154, 0, 1, .rxf, 16, false, false, 0x0,
    [⟨31, 0, .ct, false⟩]⟩,
   /- RXF.F_STALE (R316) -/
   ⟨0xc158, 0, 1, .rxf, 16, false, false, 0x0,
    [⟨31, 0, .ct, false⟩]⟩,
   /- RXF.F_BADLEN (R316) -/
   ⟨0xc15c, 0, 1, .rxf, 16, false, false, 0x0,
    [⟨31, 0, .ct, false⟩]⟩,
   /- RXF.F_BADPT (R316) -/
   ⟨0xc160, 0, 1, .rxf, 16, false, false, 0x0,
    [⟨31, 0, .ct, false⟩]⟩,
   /- RXF.F_CONCEALED (R316) -/
   ⟨0xc164, 0, 1, .rxf, 16, false, false, 0x0,
    [⟨31, 0, .ct, false⟩]⟩,
   /- RXF.F_POISONED (R316) -/
   ⟨0xc168, 0, 1, .rxf, 16, false, false, 0x0,
    [⟨31, 0, .ct, false⟩]⟩,
   /- RXF.F_SAT (R316) -/
   ⟨0xc16c, 0, 1, .rxf, 16, false, false, 0x0,
    [⟨6, 0, .rl, false⟩]⟩,
   /- RXF.F_CNT_CLR (R316) -/
   ⟨0xc170, 0, 1, .rxf, 16, false, false, 0x0,
    [⟨9, 9, .wo, false⟩, ⟨8, 8, .wo, false⟩, ⟨7, 7, .wo, false⟩, ⟨6, 0, .wo, false⟩]⟩]

/-- Block TXF. -/
def txfRows : List RegRow :=
  [/- TXF.FSEL (R334) -/
   ⟨0xd000, 0, 1, .one, 16, false, false, 0x0,
    [⟨7, 0, .rw, false⟩]⟩,
   /- TXF.PORT (R334) -/
   ⟨0xd004, 4, 2, .one, 7, false, false, 0x5a0000,
    [⟨26, 24, .sh, true⟩, ⟨23, 16, .sh, true⟩]⟩,
   /- TXF.SHAPE_A (R334) -/
   ⟨0xd010, 8, 2, .one, 7, false, false, 0x0,
    [⟨31, 0, .sh, true⟩]⟩,
   /- TXF.SHAPE_B (R334) -/
   ⟨0xd014, 8, 2, .one, 7, false, false, 0x0,
    [⟨31, 0, .sh, true⟩]⟩,
   /- TXF.LOAD (R334) -/
   ⟨0xd020, 4, 2, .one, 16, false, false, 0x0,
    [⟨31, 16, .rl, false⟩, ⟨15, 0, .rl, false⟩]⟩,
   /- TXF.PENDk (R334) -/
   ⟨0xd030, 4, 8, .one, 16, false, false, 0x0,
    [⟨31, 0, .rl, false⟩]⟩,
   /- TXF.F_CFG (R334) -/
   ⟨0xd100, 0, 1, .txf, 7, false, false, 0x9080000,
    [⟨31, 31, .sh, true⟩, ⟨30, 27, .sh, true⟩, ⟨26, 24, .sh, true⟩, ⟨23, 21, .sh, true⟩, ⟨20, 19, .sh, true⟩, ⟨18, 18, .sh, true⟩, ⟨17, 16, .sh, true⟩, ⟨15, 15, .sh, true⟩, ⟨14, 13, .sh, true⟩, ⟨12, 12, .sh, true⟩, ⟨9, 8, .sh, true⟩]⟩,
   /- TXF.F_CHAN (R334) -/
   ⟨0xd104, 0, 1, .txf, 7, false, false, 0x2a01,
    [⟨26, 16, .sh, true⟩, ⟨15, 8, .sh, true⟩, ⟨6, 0, .sh, true⟩]⟩,
   /- TXF.F_PHASE (R334) -/
   ⟨0xd108, 0, 1, .txf, 7, false, false, 0x5dc,
    [⟨31, 22, .sh, true⟩, ⟨15, 0, .sh, true⟩]⟩,
   /- TXF.F_FOLIO (R334) -/
   ⟨0xd10c, 0, 1, .txf, 7, false, false, 0x0,
    [⟨31, 16, .rl, false⟩, ⟨15, 0, .sh, true⟩]⟩,
   /- TXF.F_RTPOFF (R334) -/
   ⟨0xd110, 0, 1, .txf, 7, false, false, 0x0,
    [⟨31, 0, .sh, true⟩]⟩,
   /- TXF.F_TRANSIT (R334) -/
   ⟨0xd114, 0, 1, .txf, 7, false, false, 0x0,
    [⟨31, 0, .sh, true⟩]⟩,
   /- TXF.F_STAT (R334) -/
   ⟨0xd118, 0, 1, .txf, 16, false, false, 0x0,
    [⟨31, 28, .rl, false⟩, ⟨6, 6, .rc, false⟩, ⟨5, 5, .rc, false⟩, ⟨4, 4, .rc, false⟩, ⟨3, 3, .rc, false⟩, ⟨2, 2, .rc, false⟩, ⟨1, 1, .rc, false⟩, ⟨0, 0, .rc, false⟩]⟩,
   /- TXF.F_UNDERRUN (R334) -/
   ⟨0xd120, 0, 1, .txf, 16, false, false, 0x0,
    [⟨31, 0, .ct, false⟩]⟩,
   /- TXF.F_LATE (R334) -/
   ⟨0xd124, 0, 1, .txf, 16, false, false, 0x0,
    [⟨31, 0, .ct, false⟩]⟩,
   /- TXF.F_CONCEALED (R334) -/
   ⟨0xd128, 0, 1, .txf, 16, false, false, 0x0,
    [⟨31, 0, .ct, false⟩]⟩,
   /- TXF.F_LINKDROP (R334) -/
   ⟨0xd12c, 0, 1, .txf, 16, false, false, 0x0,
    [⟨31, 0, .ct, false⟩]⟩,
   /- TXF.F_POISONED (R334) -/
   ⟨0xd130, 0, 1, .txf, 16, false, false, 0x0,
    [⟨31, 0, .ct, false⟩]⟩,
   /- TXF.F_SLIPPED (R334) -/
   ⟨0xd134, 0, 1, .txf, 16, false, false, 0x0,
    [⟨31, 0, .ct, false⟩]⟩,
   /- TXF.F_SAT (R334) -/
   ⟨0xd138, 0, 1, .txf, 16, false, false, 0x0,
    [⟨5, 0, .rl, false⟩]⟩,
   /- TXF.F_CNT_CLR (R334) -/
   ⟨0xd13c, 0, 1, .txf, 16, false, false, 0x0,
    [⟨5, 0, .wo, false⟩]⟩,
   /- TXF.F_TMPLk (R334) -/
   ⟨0xd200, 4, 32, .txf, 7, false, false, 0x0,
    [⟨31, 0, .sh, true⟩]⟩,
   /- TXF.FUNj_CFG (R334) -/
   ⟨0xd800, 16, 64, .one, 7, false, false, 0x44000,
    [⟨31, 31, .sh, true⟩, ⟨30, 28, .sh, true⟩, ⟨27, 20, .sh, true⟩, ⟨19, 18, .sh, true⟩, ⟨17, 14, .sh, true⟩]⟩,
   /- TXF.FUNj_PHASE (R334) -/
   ⟨0xd804, 16, 64, .one, 7, false, false, 0x0,
    [⟨31, 0, .sh, true⟩]⟩,
   /- TXF.FUNj_STAT (R334) -/
   ⟨0xd808, 16, 64, .one, 16, false, false, 0x0,
    [⟨31, 31, .rc, false⟩, ⟨15, 0, .ct, false⟩]⟩,
   /- TXF.FUNj_CLR (R334) -/
   ⟨0xd80c, 16, 64, .one, 16, false, false, 0x0,
    [⟨0, 0, .wo, false⟩]⟩]

/-- Block NET. -/
def netRows : List RegRow :=
  [/- NET.CFG (R317) -/
   ⟨0xe000, 2048, 3, .one, 10, false, false, 0x40005dc,
    [⟨31, 29, .sh, true⟩, ⟨28, 27, .sh, true⟩, ⟨26, 26, .sh, true⟩, ⟨25, 25, .sh, true⟩, ⟨13, 0, .sh, true⟩]⟩,
   /- NET.STAT (R317) -/
   ⟨0xe004, 2048, 3, .one, 16, false, false, 0x0,
    [⟨31, 28, .rl, false⟩, ⟨27, 27, .rl, false⟩, ⟨4, 4, .rc, false⟩, ⟨3, 3, .rc, false⟩, ⟨2, 2, .rc, false⟩, ⟨1, 1, .rc, false⟩, ⟨0, 0, .rl, false⟩]⟩,
   /- NET.MAC_LO (R317) -/
   ⟨0xe008, 2048, 3, .one, 16, false, false, 0x0,
    [⟨31, 0, .ro, false⟩]⟩,
   /- NET.MAC_HI (R317) -/
   ⟨0xe00c, 2048, 3, .one, 16, false, false, 0x0,
    [⟨31, 0, .ro, false⟩]⟩,
   /- NET.FCS_ERR (R317) -/
   ⟨0xe010, 2048, 3, .one, 16, false, false, 0x0,
    [⟨31, 0, .ct, false⟩]⟩,
   /- NET.LEN_ERR (R317) -/
   ⟨0xe014, 2048, 3, .one, 16, false, false, 0x0,
    [⟨31, 0, .ct, false⟩]⟩,
   /- NET.HDR_ERR (R317) -/
   ⟨0xe018, 2048, 3, .one, 16, false, false, 0x0,
    [⟨31, 0, .ct, false⟩]⟩,
   /- NET.UNMATCHED (R317) -/
   ⟨0xe01c, 2048, 3, .one, 16, false, false, 0x0,
    [⟨31, 0, .ct, false⟩]⟩,
   /- NET.MACCTL (R317) -/
   ⟨0xe020, 2048, 3, .one, 16, false, false, 0x0,
    [⟨31, 0, .ct, false⟩]⟩,
   /- NET.DOZE_DROP (R317) -/
   ⟨0xe024, 2048, 3, .one, 16, false, false, 0x0,
    [⟨31, 0, .ct, false⟩]⟩,
   /- NET.FEC_CORR (R317) -/
   ⟨0xe028, 2048, 3, .one, 16, false, false, 0x0,
    [⟨31, 0, .ct, false⟩]⟩,
   /- NET.FEC_UNCORR (R317) -/
   ⟨0xe02c, 2048, 3, .one, 16, false, false, 0x0,
    [⟨31, 0, .ct, false⟩]⟩,
   /- NET.SAT (R317) -/
   ⟨0xe040, 2048, 3, .one, 16, false, false, 0x0,
    [⟨7, 0, .rl, false⟩]⟩,
   /- NET.CNT_CLR (R317) -/
   ⟨0xe044, 2048, 3, .one, 16, false, false, 0x0,
    [⟨7, 0, .wo, false⟩]⟩]

/-- Block RED. -/
def redRows : List RegRow :=
  [/- RED.FSEL (R350) -/
   ⟨0x10000, 0, 1, .one, 16, false, false, 0x0,
    [⟨7, 0, .rw, false⟩]⟩,
   /- RED.TSEL (R350) -/
   ⟨0x10004, 0, 1, .one, 16, false, false, 0x0,
    [⟨7, 0, .rw, false⟩]⟩,
   /- RED.CFG (R350) -/
   ⟨0x10008, 0, 1, .one, 9, false, false, 0x3e81004,
    [⟨31, 16, .sh, true⟩, ⟨15, 8, .sh, true⟩, ⟨7, 0, .sh, true⟩]⟩,
   /- RED.PENDm (R350) -/
   ⟨0x10010, 4, 8, .one, 16, false, false, 0x0,
    [⟨31, 0, .rl, false⟩]⟩,
   /- RED.F_CFG (R350) -/
   ⟨0x10100, 0, 1, .redF, 9, false, false, 0x8,
    [⟨3, 3, .sh, true⟩, ⟨1, 0, .sh, true⟩]⟩,
   /- RED.F_STAT (R350) -/
   ⟨0x10104, 0, 1, .redF, 16, false, false, 0x0,
    [⟨31, 28, .rl, false⟩, ⟨27, 24, .rl, false⟩, ⟨7, 7, .rc, false⟩, ⟨6, 6, .rc, false⟩, ⟨5, 5, .rc, false⟩, ⟨4, 4, .rc, false⟩, ⟨3, 3, .rc, false⟩, ⟨2, 2, .rc, false⟩, ⟨1, 1, .rc, false⟩]⟩,
   /- RED.F_SKEW (R350) -/
   ⟨0x10108, 0, 1, .redF, 16, false, false, 0x0,
    [⟨31, 0, .ro, false⟩]⟩,
   /- RED.F_SKEW_MAX (R350) -/
   ⟨0x1010c, 0, 1, .redF, 16, false, false, 0x0,
    [⟨31, 0, .ro, false⟩]⟩,
   /- RED.F_MIN (R350) -/
   ⟨0x10110, 4, 2, .redF, 16, false, false, 0x7fffffff,
    [⟨31, 0, .ro, false⟩]⟩,
   /- RED.F_TAKEN (R350) -/
   ⟨0x10120, 4, 2, .redF, 16, false, false, 0x0,
    [⟨31, 0, .ct, false⟩]⟩,
   /- RED.F_MISS (R350) -/
   ⟨0x10128, 4, 2, .redF, 16, false, false, 0x0,
    [⟨31, 0, .ct, false⟩]⟩,
   /- RED.F_MISS_BOTH (R350) -/
   ⟨0x10130, 0, 1, .redF, 16, false, false, 0x0,
    [⟨31, 0, .ct, false⟩]⟩,
   /- RED.F_REPAIRED (R350) -/
   ⟨0x10134, 0, 1, .redF, 16, false, false, 0x0,
    [⟨31, 0, .ct, false⟩]⟩,
   /- RED.F_FOLIO_DIFF (R350) -/
   ⟨0x10138, 0, 1, .redF, 16, false, false, 0x0,
    [⟨31, 0, .ct, false⟩]⟩,
   /- RED.F_ALIGN_DIFF (R350) -/
   ⟨0x1013c, 0, 1, .redF, 16, false, false, 0x0,
    [⟨31, 0, .ct, false⟩]⟩,
   /- RED.F_SAT (R350) -/
   ⟨0x10140, 0, 1, .redF, 16, false, false, 0x0,
    [⟨7, 0, .rl, false⟩]⟩,
   /- RED.F_CNT_CLR (R350) -/
   ⟨0x10144, 0, 1, .redF, 16, false, false, 0x0,
    [⟨8, 8, .wo, false⟩, ⟨7, 0, .wo, false⟩]⟩,
   /- RED.TB_CFG (R350) -/
   ⟨0x10200, 0, 1, .redT, 9, false, false, 0x0,
    [⟨31, 31, .sh, true⟩, ⟨30, 30, .sh, true⟩, ⟨1, 1, .rc, false⟩, ⟨0, 0, .rl, false⟩]⟩,
   /- RED.TB_ADDRk (R350) -/
   ⟨0x10204, 4, 4, .redT, 9, false, false, 0x0,
    [⟨31, 0, .sh, true⟩]⟩,
   /- RED.TB_UDP (R350) -/
   ⟨0x10214, 0, 1, .redT, 9, false, false, 0x0,
    [⟨15, 0, .sh, true⟩]⟩]

/-- Block HST. -/
def hstRows : List RegRow :=
  [/- HST.LINK (R373) -/
   ⟨0x11000, 0, 1, .one, 16, false, false, 0x0,
    [⟨31, 28, .rl, false⟩, ⟨27, 26, .rl, false⟩, ⟨25, 23, .rl, false⟩, ⟨3, 3, .rc, false⟩, ⟨2, 2, .rc, false⟩, ⟨1, 1, .rc, false⟩, ⟨0, 0, .rl, false⟩]⟩,
   /- HST.CFG (R373) -/
   ⟨0x11004, 0, 1, .one, 11, false, false, 0x500301,
    [⟨31, 24, .sh, true⟩, ⟨23, 16, .sh, true⟩, ⟨11, 8, .sh, true⟩, ⟨1, 0, .sh, true⟩]⟩,
   /- HST.TAGS (R373) -/
   ⟨0x11008, 0, 1, .one, 16, false, false, 0x0,
    [⟨24, 16, .rl, false⟩, ⟨8, 0, .ro, false⟩]⟩,
   /- HST.RATE (R373) -/
   ⟨0x1100c, 4, 2, .one, 16, false, false, 0x0,
    [⟨31, 16, .rl, false⟩, ⟨15, 0, .rl, false⟩]⟩,
   /- HST.CTL_CFG (R373) -/
   ⟨0x11020, 0, 1, .one, 16, false, false, 0x1,
    [⟨9, 9, .ro, false⟩, ⟨8, 8, .ro, false⟩, ⟨2, 0, .rw, true⟩]⟩,
   /- HST.CTL_STAT (R373) -/
   ⟨0x11024, 0, 1, .one, 16, false, false, 0x0,
    [⟨15, 15, .rc, false⟩, ⟨14, 14, .rc, false⟩, ⟨7, 0, .ro, false⟩]⟩,
   /- HST.CTL_FRAMES (R373) -/
   ⟨0x11028, 0, 1, .one, 16, false, false, 0x0,
    [⟨31, 0, .ct, false⟩]⟩,
   /- HST.CTL_ERRS (R373) -/
   ⟨0x1102c, 0, 1, .one, 16, false, false, 0x0,
    [⟨31, 0, .ct, false⟩]⟩,
   /- HST.PEND (R373) -/
   ⟨0x11030, 4, 4, .one, 16, false, false, 0x0,
    [⟨31, 0, .rl, false⟩]⟩,
   /- HST.BSEL (R373) -/
   ⟨0x11040, 0, 1, .one, 16, false, false, 0x0,
    [⟨8, 8, .rw, false⟩, ⟨5, 0, .rw, false⟩]⟩,
   /- HST.SAT (R373) -/
   ⟨0x11044, 0, 1, .one, 16, false, false, 0x0,
    [⟨2, 2, .wo, false⟩, ⟨1, 0, .rl, false⟩]⟩,
   /- HST.CNT_CLR (R373) -/
   ⟨0x11048, 0, 1, .one, 16, false, false, 0x0,
    [⟨2, 2, .wo, false⟩, ⟨1, 0, .wo, false⟩]⟩,
   /- HST.B_CFG (R373) -/
   ⟨0x11100, 0, 1, .hstB, 11, false, false, 0x2000001,
    [⟨31, 31, .sh, true⟩, ⟨30, 28, .sh, true⟩, ⟨27, 25, .sh, true⟩, ⟨24, 24, .sh, true⟩, ⟨23, 22, .sh, true⟩, ⟨21, 21, .sh, true⟩, ⟨18, 8, .sh, true⟩, ⟨7, 0, .sh, true⟩]⟩,
   /- HST.B_RING_LO (R373) -/
   ⟨0x11104, 0, 1, .hstB, 11, false, false, 0x0,
    [⟨31, 0, .sh, true⟩]⟩,
   /- HST.B_RING_HI (R373) -/
   ⟨0x11108, 0, 1, .hstB, 11, false, false, 0x0,
    [⟨31, 0, .sh, true⟩]⟩,
   /- HST.B_RING (R373) -/
   ⟨0x1110c, 0, 1, .hstB, 11, false, false, 0x400008,
    [⟨31, 16, .ro, false⟩, ⟨12, 0, .sh, true⟩]⟩,
   /- HST.B_WB_LO (R373) -/
   ⟨0x11110, 0, 1, .hstB, 11, false, false, 0x0,
    [⟨31, 0, .sh, true⟩]⟩,
   /- HST.B_WB_HI (R373) -/
   ⟨0x11114, 0, 1, .hstB, 11, false, false, 0x0,
    [⟨31, 0, .sh, true⟩]⟩,
   /- HST.B_STAT (R373) -/
   ⟨0x11118, 0, 1, .hstB, 16, false, false, 0x0,
    [⟨31, 28, .rl, false⟩, ⟨8, 8, .rc, false⟩, ⟨7, 7, .rc, false⟩, ⟨6, 6, .rc, false⟩, ⟨5, 5, .rc, false⟩, ⟨4, 4, .rc, false⟩, ⟨3, 3, .rc, false⟩, ⟨2, 2, .rc, false⟩, ⟨1, 1, .rc, false⟩, ⟨0, 0, .rc, false⟩]⟩,
   /- HST.B_IDX (R373) -/
   ⟨0x1111c, 0, 1, .hstB, 16, false, false, 0x0,
    [⟨31, 16, .rl, false⟩, ⟨15, 0, .rl, false⟩]⟩,
   /- HST.B_RETRY (R373) -/
   ⟨0x11120, 0, 1, .hstB, 16, false, false, 0x0,
    [⟨31, 0, .ct, false⟩]⟩,
   /- HST.B_LATE (R373) -/
   ⟨0x11124, 0, 1, .hstB, 16, false, false, 0x0,
    [⟨31, 0, .ct, false⟩]⟩,
   /- HST.B_BAD_DESC (R373) -/
   ⟨0x11128, 0, 1, .hstB, 16, false, false, 0x0,
    [⟨31, 0, .ct, false⟩]⟩,
   /- HST.B_SLUGS (R373) -/
   ⟨0x1112c, 0, 1, .hstB, 16, false, false, 0x0,
    [⟨31, 0, .ct, false⟩]⟩,
   /- HST.B_POISONED (R373) -/
   ⟨0x11130, 0, 1, .hstB, 16, false, false, 0x0,
    [⟨31, 0, .ct, false⟩]⟩,
   /- HST.B_DROPS (R373) -/
   ⟨0x11134, 0, 1, .hstB, 16, false, false, 0x0,
    [⟨31, 0, .ct, false⟩]⟩,
   /- HST.B_SAT (R373) -/
   ⟨0x11138, 0, 1, .hstB, 16, false, false, 0x0,
    [⟨5, 0, .rl, false⟩]⟩,
   /- HST.B_CNT_CLR (R373) -/
   ⟨0x1113c, 0, 1, .hstB, 16, false, false, 0x0,
    [⟨5, 0, .wo, false⟩]⟩,
   /- HST.HR_ACKb (R373) -/
   ⟨0x11800, 4, 64, .one, 16, false, false, 0x0,
    [⟨15, 0, .rw, false⟩]⟩,
   /- HST.HT_PRODb (R373) -/
   ⟨0x11900, 4, 64, .one, 16, false, false, 0x0,
    [⟨15, 0, .rw, false⟩]⟩]

/-- Block STK. -/
def stkRows : List RegRow :=
  [/- STK.ID (R399) -/
   ⟨0x12000, 0, 1, .one, 16, false, false, 0x0,
    [⟨31, 24, .rl, false⟩, ⟨19, 16, .rl, false⟩, ⟨15, 12, .rl, false⟩, ⟨10, 8, .rl, false⟩, ⟨6, 4, .rl, false⟩, ⟨2, 0, .ro, false⟩]⟩,
   /- STK.CFG (R399) -/
   ⟨0x12004, 0, 1, .one, 12, false, false, 0x0,
    [⟨31, 31, .sh, true⟩, ⟨30, 30, .sh, true⟩, ⟨14, 0, .sh, true⟩]⟩,
   /- STK.LINK (R399) -/
   ⟨0x12008, 4, 2, .one, 16, false, false, 0x0,
    [⟨31, 28, .rl, false⟩, ⟨26, 24, .rl, false⟩, ⟨23, 23, .rl, false⟩, ⟨1, 1, .rc, false⟩, ⟨0, 0, .rl, false⟩]⟩,
   /- STK.DELAY (R399) -/
   ⟨0x12010, 4, 2, .one, 16, false, false, 0x0,
    [⟨31, 0, .ro, false⟩]⟩,
   /- STK.ASYM (R399) -/
   ⟨0x12018, 4, 2, .one, 12, false, false, 0x0,
    [⟨31, 0, .sh, true⟩]⟩,
   /- STK.TOFFn (R399) -/
   ⟨0x12020, 4, 4, .one, 16, false, false, 0x0,
    [⟨31, 0, .ro, false⟩]⟩,
   /- STK.TCFG (R399) -/
   ⟨0x12030, 0, 1, .one, 12, false, false, 0x64140a,
    [⟨31, 16, .sh, true⟩, ⟨15, 8, .sh, true⟩, ⟨7, 0, .sh, true⟩]⟩,
   /- STK.STAT (R399) -/
   ⟨0x12034, 0, 1, .one, 16, false, false, 0x0,
    [⟨9, 9, .rl, false⟩, ⟨8, 8, .rc, false⟩, ⟨7, 7, .rc, false⟩, ⟨6, 6, .rc, false⟩, ⟨5, 5, .rc, false⟩, ⟨4, 4, .rc, false⟩, ⟨3, 3, .rc, false⟩, ⟨2, 2, .rc, false⟩, ⟨0, 0, .rc, false⟩]⟩,
   /- STK.MEMBERS (R399) -/
   ⟨0x12038, 0, 1, .one, 16, false, false, 0x0,
    [⟨31, 24, .rl, false⟩, ⟨23, 16, .rl, false⟩, ⟨15, 8, .rl, false⟩, ⟨7, 0, .rl, false⟩]⟩,
   /- STK.BSEL (R399) -/
   ⟨0x12040, 0, 1, .one, 16, false, false, 0x0,
    [⟨8, 8, .rw, false⟩, ⟨4, 0, .rw, false⟩]⟩,
   /- STK.CRC_ERR (R399) -/
   ⟨0x12050, 4, 2, .one, 16, false, false, 0x0,
    [⟨31, 0, .ct, false⟩]⟩,
   /- STK.RETRY (R399) -/
   ⟨0x12058, 4, 2, .one, 16, false, false, 0x0,
    [⟨31, 0, .ct, false⟩]⟩,
   /- STK.STALL (R399) -/
   ⟨0x12060, 4, 2, .one, 16, false, false, 0x0,
    [⟨31, 0, .ct, false⟩]⟩,
   /- STK.SAT (R399) -/
   ⟨0x12068, 0, 1, .one, 16, false, false, 0x0,
    [⟨5, 0, .rl, false⟩]⟩,
   /- STK.CNT_CLR (R399) -/
   ⟨0x1206c, 0, 1, .one, 16, false, false, 0x0,
    [⟨5, 0, .wo, false⟩]⟩,
   /- STK.PEND (R399) -/
   ⟨0x12070, 4, 2, .one, 16, false, false, 0x0,
    [⟨21, 0, .rl, false⟩]⟩,
   /- STK.B_CFG (R399) -/
   ⟨0x12100, 0, 1, .stkB, 12, false, false, 0x2000001,
    [⟨31, 31, .sh, true⟩, ⟨30, 28, .sh, true⟩, ⟨27, 25, .sh, true⟩, ⟨24, 24, .sh, true⟩, ⟨18, 8, .sh, true⟩, ⟨7, 0, .sh, true⟩]⟩,
   /- STK.B_ROUTE (R399) -/
   ⟨0x12104, 0, 1, .stkB, 12, false, false, 0x0,
    [⟨23, 16, .sh, true⟩, ⟨10, 8, .sh, true⟩, ⟨4, 0, .sh, true⟩]⟩,
   /- STK.B_OFFSET (R399) -/
   ⟨0x12108, 0, 1, .stkB, 12, false, false, 0x0,
    [⟨15, 0, .sh, true⟩]⟩,
   /- STK.B_STAT (R399) -/
   ⟨0x1210c, 0, 1, .stkB, 16, false, false, 0x0,
    [⟨31, 28, .rl, false⟩, ⟨5, 5, .rc, false⟩, ⟨4, 4, .rc, false⟩, ⟨3, 3, .rc, false⟩, ⟨2, 2, .rc, false⟩, ⟨1, 1, .rc, false⟩, ⟨0, 0, .rc, false⟩]⟩,
   /- STK.B_LATE (R399) -/
   ⟨0x12110, 0, 1, .stkB, 16, false, false, 0x0,
    [⟨31, 0, .ct, false⟩]⟩,
   /- STK.B_BAD_DESC (R399) -/
   ⟨0x12114, 0, 1, .stkB, 16, false, false, 0x0,
    [⟨31, 0, .ct, false⟩]⟩,
   /- STK.B_DROPS (R399) -/
   ⟨0x12118, 0, 1, .stkB, 16, false, false, 0x0,
    [⟨31, 0, .ct, false⟩]⟩,
   /- STK.B_POISONED (R399) -/
   ⟨0x1211c, 0, 1, .stkB, 16, false, false, 0x0,
    [⟨31, 0, .ct, false⟩]⟩,
   /- STK.B_SAT (R399) -/
   ⟨0x12120, 0, 1, .stkB, 16, false, false, 0x0,
    [⟨3, 0, .rl, false⟩]⟩,
   /- STK.B_CNT_CLR (R399) -/
   ⟨0x12124, 0, 1, .stkB, 16, false, false, 0x0,
    [⟨3, 0, .wo, false⟩]⟩]

/-- Block TWIN. -/
def twinRows : List RegRow :=
  [/- TWIN.CFG (R413) -/
   ⟨0x13000, 0, 1, .one, 13, false, false, 0x1840000f,
    [⟨31, 30, .sh, true⟩, ⟨29, 29, .sh, true⟩, ⟨28, 28, .sh, true⟩, ⟨27, 27, .sh, true⟩, ⟨23, 20, .sh, true⟩, ⟨15, 8, .sh, true⟩, ⟨3, 0, .sh, true⟩]⟩,
   /- TWIN.SHARE (R413) -/
   ⟨0x13004, 0, 1, .one, 13, false, false, 0x0,
    [⟨15, 0, .sh, true⟩]⟩,
   /- TWIN.STAT (R413) -/
   ⟨0x13008, 0, 1, .one, 16, false, false, 0x0,
    [⟨31, 28, .rl, false⟩, ⟨27, 24, .rl, false⟩, ⟨23, 23, .rl, false⟩, ⟨22, 20, .ro, false⟩, ⟨8, 8, .rc, false⟩, ⟨7, 7, .rc, false⟩, ⟨6, 6, .rc, false⟩, ⟨5, 5, .rc, false⟩, ⟨4, 4, .rc, false⟩, ⟨3, 3, .rc, false⟩, ⟨2, 2, .rc, false⟩, ⟨1, 1, .rc, false⟩]⟩,
   /- TWIN.TAKEOVER_GEN (R413) -/
   ⟨0x1300c, 0, 1, .one, 16, false, false, 0x0,
    [⟨31, 0, .ro, false⟩]⟩,
   /- TWIN.CFG_GEN (R413) -/
   ⟨0x13010, 0, 1, .one, 16, false, false, 0x0,
    [⟨31, 0, .ro, false⟩]⟩,
   /- TWIN.CKPT_AGE (R413) -/
   ⟨0x13014, 0, 1, .one, 16, false, false, 0xffffffff,
    [⟨31, 0, .rl, false⟩]⟩,
   /- TWIN.CMD (R413) -/
   ⟨0x13018, 0, 1, .one, 16, false, false, 0x0,
    [⟨1, 1, .rw, false⟩, ⟨0, 0, .rw, false⟩]⟩,
   /- TWIN.HEALTH (R413) -/
   ⟨0x1301c, 0, 1, .one, 16, false, false, 0x64,
    [⟨15, 0, .rl, false⟩]⟩,
   /- TWIN.HCFG (R413) -/
   ⟨0x13020, 0, 1, .one, 13, false, false, 0x3e8,
    [⟨15, 0, .sh, true⟩]⟩,
   /- TWIN.TDM_MMn (R413) -/
   ⟨0x13040, 4, 16, .one, 16, false, false, 0x0,
    [⟨31, 0, .ct, false⟩]⟩,
   /- TWIN.HASH_MM (R413) -/
   ⟨0x13080, 0, 1, .one, 16, false, false, 0x0,
    [⟨31, 0, .ct, false⟩]⟩,
   /- TWIN.MARCH_FAIL (R413) -/
   ⟨0x13084, 0, 1, .one, 16, false, false, 0x0,
    [⟨31, 0, .ct, false⟩]⟩,
   /- TWIN.LOOP_FAIL (R413) -/
   ⟨0x13088, 0, 1, .one, 16, false, false, 0x0,
    [⟨31, 0, .ct, false⟩]⟩,
   /- TWIN.CKPT_FAIL (R413) -/
   ⟨0x1308c, 0, 1, .one, 16, false, false, 0x0,
    [⟨31, 0, .ct, false⟩]⟩,
   /- TWIN.HB_LOST (R413) -/
   ⟨0x13090, 0, 1, .one, 16, false, false, 0x0,
    [⟨31, 0, .ct, false⟩]⟩,
   /- TWIN.TAKEOVERS (R413) -/
   ⟨0x13094, 0, 1, .one, 16, false, false, 0x0,
    [⟨31, 0, .ct, false⟩]⟩,
   /- TWIN.SAT (R413) -/
   ⟨0x130a0, 0, 1, .one, 16, false, false, 0x0,
    [⟨21, 0, .rl, false⟩]⟩,
   /- TWIN.CNT_CLR (R413) -/
   ⟨0x130a4, 0, 1, .one, 16, false, false, 0x0,
    [⟨21, 0, .wo, false⟩]⟩]

/-- Block GRD. -/
def grdRows : List RegRow :=
  [/- GRD.CTL (R446) -/
   ⟨0x14000, 0, 1, .one, 0, false, false, 0x400001f,
    [⟨31, 24, .sh, true⟩, ⟨4, 0, .sh, true⟩]⟩,
   /- GRD.PROBE (R446) -/
   ⟨0x14004, 0, 1, .one, 0, false, false, 0x6403e8,
    [⟨31, 16, .sh, true⟩, ⟨15, 0, .sh, true⟩]⟩,
   /- GRD.AUTOSWAP (R446) -/
   ⟨0x14008, 0, 1, .one, 0, false, false, 0x0,
    [⟨15, 0, .sh, true⟩]⟩,
   /- GRD.LAST (R446) -/
   ⟨0x14010, 0, 1, .one, 16, false, false, 0x0,
    [⟨31, 30, .ro, false⟩, ⟨29, 24, .ro, false⟩, ⟨22, 20, .ro, false⟩, ⟨19, 16, .ro, false⟩]⟩,
   /- GRD.LANE_CFG (R446) -/
   ⟨0x14014, 0, 1, .one, 0, false, false, 0x0,
    [⟨5, 0, .sh, true⟩]⟩,
   /- GRD.LANE_STAT (R446) -/
   ⟨0x14020, 0, 1, .one, 16, false, false, 0x0,
    [⟨31, 31, .rc, false⟩, ⟨27, 27, .rl, false⟩, ⟨26, 26, .rl, false⟩, ⟨25, 25, .rl, false⟩, ⟨24, 24, .rl, false⟩, ⟨21, 16, .rl, false⟩, ⟨13, 8, .rl, false⟩]⟩,
   /- GRD.TIO_STAT (R446) -/
   ⟨0x14030, 0, 1, .one, 16, false, false, 0x0,
    [⟨31, 31, .rc, false⟩, ⟨30, 30, .rc, false⟩, ⟨29, 29, .rl, false⟩, ⟨23, 16, .rl, false⟩, ⟨15, 8, .rc, false⟩, ⟨7, 0, .rc, false⟩]⟩,
   /- GRD.TDMn_STAT (R446) -/
   ⟨0x14100, 4, 16, .one, 16, false, false, 0x0,
    [⟨31, 31, .rl, false⟩, ⟨30, 30, .rl, false⟩, ⟨29, 24, .rl, false⟩, ⟨23, 23, .rc, false⟩, ⟨21, 16, .rc, false⟩, ⟨13, 8, .rc, false⟩, ⟨5, 0, .rc, false⟩]⟩,
   /- GRD.TDM_CNTn (R446) -/
   ⟨0x14200, 4, 16, .one, 16, false, false, 0x0,
    [⟨31, 0, .ct, false⟩]⟩,
   /- GRD.LANE_CNT (R446) -/
   ⟨0x14240, 0, 1, .one, 16, false, false, 0x0,
    [⟨31, 0, .ct, false⟩]⟩,
   /- GRD.TIO_CNT (R446) -/
   ⟨0x14244, 0, 1, .one, 16, false, false, 0x0,
    [⟨31, 0, .ct, false⟩]⟩,
   /- GRD.REPROBE_FAIL (R446) -/
   ⟨0x14248, 0, 1, .one, 16, false, false, 0x0,
    [⟨31, 0, .ct, false⟩]⟩,
   /- GRD.SAT (R446) -/
   ⟨0x14250, 0, 1, .one, 16, false, false, 0x0,
    [⟨18, 0, .rl, false⟩]⟩,
   /- GRD.CNT_CLR (R446) -/
   ⟨0x14254, 0, 1, .one, 16, false, false, 0x0,
    [⟨18, 0, .wo, false⟩]⟩]

/-- Block FRM. -/
def frmRows : List RegRow :=
  [/- FRM.GEN (R431) -/
   ⟨0x15000, 0, 1, .one, 16, false, true, 0x0,
    [⟨31, 0, .ro, false⟩]⟩,
   /- FRM.STAT (R431) -/
   ⟨0x15004, 0, 1, .one, 16, false, false, 0xf00000,
    [⟨31, 28, .rl, false⟩, ⟨27, 24, .rl, false⟩, ⟨23, 20, .ro, false⟩, ⟨3, 3, .rl, false⟩, ⟨2, 2, .rc, false⟩, ⟨1, 1, .rc, false⟩, ⟨0, 0, .rc, false⟩]⟩,
   /- FRM.CAUSE (R431) -/
   ⟨0x15008, 0, 1, .one, 16, false, false, 0x0,
    [⟨15, 0, .ro, false⟩]⟩,
   /- FRM.BOOT (R431) -/
   ⟨0x1500c, 0, 1, .one, 16, false, false, 0x0,
    [⟨10, 8, .ro, false⟩, ⟨5, 4, .ro, false⟩, ⟨3, 3, .ro, false⟩, ⟨2, 1, .ro, false⟩, ⟨0, 0, .ro, false⟩]⟩,
   /- FRM.CFG (R431) -/
   ⟨0x15010, 0, 1, .one, 14, false, true, 0x1f4,
    [⟨9, 0, .sh, true⟩]⟩]

/-- Block DXW. -/
def dxwRows : List RegRow :=
  [/- DXW.CFG (R466) -/
   ⟨0x2f000, 0, 1, .one, 16, false, true, 0x80000000,
    [⟨31, 31, .rw, false⟩, ⟨30, 30, .rw, false⟩]⟩,
   /- DXW.STAT (R466) -/
   ⟨0x2f004, 0, 1, .one, 16, false, false, 0x0,
    [⟨31, 24, .ct, false⟩, ⟨23, 16, .ct, false⟩, ⟨3, 2, .rl, false⟩, ⟨1, 1, .rc, false⟩, ⟨0, 0, .rc, false⟩]⟩,
   /- DXW.CNT_CLR (R466) -/
   ⟨0x2f008, 0, 1, .one, 16, false, false, 0x0,
    [⟨1, 1, .wo, false⟩, ⟨0, 0, .wo, false⟩]⟩]

/-- The rows of the block that holds an offset. -/
def rowsOf (off : Nat) : List RegRow :=
  let b := off / 0x1000
  if b < 8 then
    (if b = 0 then coloRows else if b = 1 then sysRows else if b = 2 then pwrRows else if b = 3 then regifRows
     else if b = 4 then irqRows else if b = 5 then mbxRows else if b = 6 then clkRows else timeRows)
  else if b < 16 then
    (if b = 8 then tdmRows else if b = 9 then impRows else if b = 10 then krnRows else if b = 11 then galRows
     else if b = 12 then rxfRows else if b = 13 then txfRows else netRows)
  else
    (if b = 16 then redRows else if b = 17 then hstRows else if b = 18 then stkRows else if b = 19 then twinRows
     else if b = 20 then grdRows else if b = 21 then frmRows else if b = 47 then dxwRows else [])

/-- Which register of an array an offset names, if any. -/
def RegRow.index (r : RegRow) (off : Nat) : Option Nat :=
  if off < r.base then none
  else if r.stride = 0 then (if off = r.base then some 0 else none)
  else
    let d := off - r.base
    if d % r.stride = 0 ∧ d / r.stride < r.count then some (d / r.stride) else none

/-- The first row whose registers lie at `off`, with the index in its array. -/
def findIn (off : Nat) : List RegRow → Option (RegRow × Nat)
  | [] => none
  | r :: rs =>
    match r.index off with
    | some n => some (r, n)
    | none => findIn off rs

/-- The register at an absolute offset of R472, if one is mapped there. -/
def regFind (off : Nat) : Option (RegRow × Nat) := findIn off (rowsOf off)

/-- Reset words that differ within one array or among one register's items: the fixed and raised sources of R181,
the class budgets and the best-effort queues of R292. -/
def resetSpecial (off item rst : Nat) : Nat :=
  if off = 0x4400 then 0x277
  else if 0x4440 ≤ off ∧ off ≤ 0x447C then 0x200
  else if off = 0x44E0 ∨ off = 0x44E4 then 0x66
  else if off = 0xB010 then 98304
  else if off = 0xB014 then 5625
  else if off = 0xB018 ∨ off = 0xB01C then 7813
  else if off = 0xB020 then 3907
  else if off = 0xB044 ∧ 960 ≤ item then 4
  else rst

/-- The reset word of a register key. An unmapped key reads 0. -/
def regDefault (key : Nat) : BitVec 32 :=
  let off := key % 0x1000000
  match regFind off with
  | some (r, _) => BitVec.ofNat 32 (resetSpecial off (key / 0x1000000) r.rst)
  | none => 0

namespace R

/-- COLO.PART (R471). -/
def COLO.PART.reg : Nat := 0x0
def COLO.PART.PART_F : Fld := ⟨0x0, 0, 32⟩
/-- COLO.REV (R471). -/
def COLO.REV.reg : Nat := 0x4
def COLO.REV.REV_F : Fld := ⟨0x4, 0, 8⟩
/-- COLO.FW (R471). -/
def COLO.FW.reg : Nat := 0x8
def COLO.FW.MAJOR : Fld := ⟨0x8, 16, 8⟩
def COLO.FW.MINOR : Fld := ⟨0x8, 8, 8⟩
def COLO.FW.PATCH : Fld := ⟨0x8, 0, 8⟩
/-- COLO.STKPROTO (R471). -/
def COLO.STKPROTO.reg : Nat := 0xc
def COLO.STKPROTO.MAJOR : Fld := ⟨0xc, 8, 8⟩
def COLO.STKPROTO.MINOR : Fld := ⟨0xc, 0, 8⟩
/-- SYS.PHASE (R158). -/
def SYS.PHASE.reg : Nat := 0x1010
def SYS.PHASE.SERVICE_SEEN : Fld := ⟨0x1010, 8, 1⟩
def SYS.PHASE.REASON : Fld := ⟨0x1010, 4, 4⟩
def SYS.PHASE.PHASE_F : Fld := ⟨0x1010, 0, 2⟩
/-- SYS.STRAPS (R55). -/
def SYS.STRAPS.reg : Nat := 0x1040
def SYS.STRAPS.LIVE : Fld := ⟨0x1040, 16, 10⟩
def SYS.STRAPS.CHANGED : Fld := ⟨0x1040, 11, 1⟩
def SYS.STRAPS.COMBO_BAD : Fld := ⟨0x1040, 10, 1⟩
def SYS.STRAPS.BOOT_SRC : Fld := ⟨0x1040, 8, 2⟩
def SYS.STRAPS.CTL_SEL : Fld := ⟨0x1040, 7, 1⟩
def SYS.STRAPS.PERS : Fld := ⟨0x1040, 5, 2⟩
def SYS.STRAPS.STACK_POS : Fld := ⟨0x1040, 2, 3⟩
def SYS.STRAPS.FORME : Fld := ⟨0x1040, 0, 2⟩
/-- PWR.STATE (R81). -/
def PWR.STATE.reg : Nat := 0x2000
def PWR.STATE.LAST_WAKE : Fld := ⟨0x2000, 16, 8⟩
def PWR.STATE.XTAL_OK : Fld := ⟨0x2000, 11, 1⟩
def PWR.STATE.RESTORING : Fld := ⟨0x2000, 10, 1⟩
def PWR.STATE.PREV : Fld := ⟨0x2000, 4, 4⟩
def PWR.STATE.STATE_F : Fld := ⟨0x2000, 0, 4⟩
/-- PWR.CTRL (R81). -/
def PWR.CTRL.reg : Nat := 0x2004
def PWR.CTRL.DOZE_PORT : Fld := ⟨0x2004, 12, 2⟩
def PWR.CTRL.RET_HALF : Fld := ⟨0x2004, 8, 2⟩
def PWR.CTRL.WAKE_PCIE : Fld := ⟨0x2004, 1, 1⟩
def PWR.CTRL.WOS_EN : Fld := ⟨0x2004, 0, 1⟩
/-- PWR.WL_CFG (R81). -/
def PWR.WL_CFG.reg : Nat := 0x2010
def PWR.WL_CFG.EDGE : Fld := ⟨0x2010, 16, 16⟩
def PWR.WL_CFG.EN : Fld := ⟨0x2010, 0, 16⟩
/-- PWR.WL_STAT (R81). -/
def PWR.WL_STAT.reg : Nat := 0x2014
def PWR.WL_STAT.LATCHED : Fld := ⟨0x2014, 0, 16⟩
/-- PWR.ALARM (R81). -/
def PWR.ALARM.reg : Nat := 0x2018
def PWR.ALARM.TICKS : Fld := ⟨0x2018, 0, 32⟩
/-- PWR.AVS (R81). -/
def PWR.AVS.reg : Nat := 0x2020
def PWR.AVS.EN : Fld := ⟨0x2020, 31, 1⟩
def PWR.AVS.VID_NOW : Fld := ⟨0x2020, 24, 6⟩
def PWR.AVS.VID_MIN : Fld := ⟨0x2020, 16, 6⟩
def PWR.AVS.VID_MAX : Fld := ⟨0x2020, 8, 6⟩
def PWR.AVS.MARGIN : Fld := ⟨0x2020, 0, 6⟩
/-- PWR.VID_RUN (R81). -/
def PWR.VID_RUN.reg : Nat := 0x2024
def PWR.VID_RUN.VID_RUN_F : Fld := ⟨0x2024, 0, 6⟩
/-- PWR.FAULT (R81). -/
def PWR.FAULT.reg : Nat := 0x2030
def PWR.FAULT.XTAL_FAIL : Fld := ⟨0x2030, 5, 1⟩
def PWR.FAULT.IMAGE_CRC : Fld := ⟨0x2030, 4, 1⟩
def PWR.FAULT.SAVE_FAIL : Fld := ⟨0x2030, 3, 1⟩
def PWR.FAULT.AVS_LIMIT : Fld := ⟨0x2030, 2, 1⟩
def PWR.FAULT.RESTORE_CRC : Fld := ⟨0x2030, 1, 1⟩
def PWR.FAULT.RAIL_TIMEOUT : Fld := ⟨0x2030, 0, 1⟩
/-- REGIF.INDIR_ADDR (R158). -/
def REGIF.INDIR_ADDR.reg (i : Nat) : Nat := (itemKey 0x3000 i)
def REGIF.INDIR_ADDR.SPACE (i : Nat) : Fld := ⟨(itemKey 0x3000 i), 28, 4⟩
def REGIF.INDIR_ADDR.STEP (i : Nat) : Fld := ⟨(itemKey 0x3000 i), 26, 2⟩
def REGIF.INDIR_ADDR.OFFSET (i : Nat) : Fld := ⟨(itemKey 0x3000 i), 0, 24⟩
/-- REGIF.INDIR_DATA (R158). -/
def REGIF.INDIR_DATA.reg (i : Nat) : Nat := (itemKey 0x3004 i)
def REGIF.INDIR_DATA.DATA (i : Nat) : Fld := ⟨(itemKey 0x3004 i), 0, 32⟩
/-- REGIF.INDIR_STAT (R158). -/
def REGIF.INDIR_STAT.reg (i : Nat) : Nat := (itemKey 0x3008 i)
def REGIF.INDIR_STAT.BAD_SPACE (i : Nat) : Fld := ⟨(itemKey 0x3008 i), 3, 1⟩
def REGIF.INDIR_STAT.LOST (i : Nat) : Fld := ⟨(itemKey 0x3008 i), 2, 1⟩
def REGIF.INDIR_STAT.TIMEOUT (i : Nat) : Fld := ⟨(itemKey 0x3008 i), 1, 1⟩
def REGIF.INDIR_STAT.BUSY (i : Nat) : Fld := ⟨(itemKey 0x3008 i), 0, 1⟩
/-- REGIF.WIDE_SEL (R158). -/
def REGIF.WIDE_SEL.reg (i : Nat) : Nat := (itemKey 0x3010 i)
def REGIF.WIDE_SEL.SEL (i : Nat) : Fld := ⟨(itemKey 0x3010 i), 0, 16⟩
/-- REGIF.WIDE_STAT (R158). -/
def REGIF.WIDE_STAT.reg (i : Nat) : Nat := (itemKey 0x3014 i)
def REGIF.WIDE_STAT.BAD_SEL (i : Nat) : Fld := ⟨(itemKey 0x3014 i), 1, 1⟩
def REGIF.WIDE_STAT.VALID (i : Nat) : Fld := ⟨(itemKey 0x3014 i), 0, 1⟩
/-- REGIF.WIDE_Dk (R158). -/
def REGIF.WIDE_D.reg (n i : Nat) : Nat := (itemKey (0x3018 + 4 * n) i)
def REGIF.WIDE_D.DATA (n i : Nat) : Fld := ⟨(itemKey (0x3018 + 4 * n) i), 0, 32⟩
/-- REGIF.UPDATE (R158). -/
def REGIF.UPDATE.reg : Nat := 0x3030
def REGIF.UPDATE.GROUPS : Fld := ⟨0x3030, 0, 16⟩
/-- REGIF.UPDATE_STAT (R158). -/
def REGIF.UPDATE_STAT.reg : Nat := 0x3034
def REGIF.UPDATE_STAT.PENDING : Fld := ⟨0x3034, 0, 16⟩
/-- REGIF.READ_MODE (R158). -/
def REGIF.READ_MODE.reg (i : Nat) : Nat := (itemKey 0x3038 i)
def REGIF.READ_MODE.ACTIVE (i : Nat) : Fld := ⟨(itemKey 0x3038 i), 0, 1⟩
/-- REGIF.GUARD_ADDR (R158). -/
def REGIF.GUARD_ADDR.reg (i : Nat) : Nat := (itemKey 0x3040 i)
def REGIF.GUARD_ADDR.INDIR (i : Nat) : Fld := ⟨(itemKey 0x3040 i), 31, 1⟩
def REGIF.GUARD_ADDR.TARGET (i : Nat) : Fld := ⟨(itemKey 0x3040 i), 0, 31⟩
/-- REGIF.GUARD_VAL (R158). -/
def REGIF.GUARD_VAL.reg (i : Nat) : Nat := (itemKey 0x3048 i)
def REGIF.GUARD_VAL.VALUE (i : Nat) : Fld := ⟨(itemKey 0x3048 i), 0, 32⟩
/-- REGIF.GUARD_CPL (R158). -/
def REGIF.GUARD_CPL.reg (i : Nat) : Nat := (itemKey 0x304c i)
def REGIF.GUARD_CPL.VALUE (i : Nat) : Fld := ⟨(itemKey 0x304c i), 0, 32⟩
/-- REGIF.GUARD_STAT (R158). -/
def REGIF.GUARD_STAT.reg (i : Nat) : Nat := (itemKey 0x3050 i)
def REGIF.GUARD_STAT.CAUSE (i : Nat) : Fld := ⟨(itemKey 0x3050 i), 4, 4⟩
def REGIF.GUARD_STAT.FAIL (i : Nat) : Fld := ⟨(itemKey 0x3050 i), 2, 1⟩
def REGIF.GUARD_STAT.OK (i : Nat) : Fld := ⟨(itemKey 0x3050 i), 1, 1⟩
def REGIF.GUARD_STAT.ARMED (i : Nat) : Fld := ⟨(itemKey 0x3050 i), 0, 1⟩
/-- REGIF.QUOIN0 (R158). -/
def REGIF.QUOIN0.reg : Nat := 0x3060
def REGIF.QUOIN0.LOCK : Fld := ⟨0x3060, 0, 19⟩
/-- REGIF.QUOIN1 (R158). -/
def REGIF.QUOIN1.reg : Nat := 0x3064
def REGIF.QUOIN1.LOCK : Fld := ⟨0x3064, 0, 16⟩
/-- REGIF.VIOL_ADDR (R158). -/
def REGIF.VIOL_ADDR.reg : Nat := 0x3070
def REGIF.VIOL_ADDR.ADDR : Fld := ⟨0x3070, 0, 32⟩
/-- REGIF.VIOL_INFO (R158). -/
def REGIF.VIOL_INFO.reg : Nat := 0x3074
def REGIF.VIOL_INFO.INIT : Fld := ⟨0x3074, 8, 2⟩
def REGIF.VIOL_INFO.CAUSE : Fld := ⟨0x3074, 0, 3⟩
/-- REGIF.VIOL_COUNT (R158). -/
def REGIF.VIOL_COUNT.reg : Nat := 0x3078
def REGIF.VIOL_COUNT.COUNT : Fld := ⟨0x3078, 0, 16⟩
/-- REGIF.OFF_ACCESS_ADDR (R158). -/
def REGIF.OFF_ACCESS_ADDR.reg : Nat := 0x3080
def REGIF.OFF_ACCESS_ADDR.ADDR : Fld := ⟨0x3080, 0, 32⟩
/-- REGIF.OFF_ACCESS_INFO (R158). -/
def REGIF.OFF_ACCESS_INFO.reg : Nat := 0x3084
def REGIF.OFF_ACCESS_INFO.REASON : Fld := ⟨0x3084, 16, 1⟩
def REGIF.OFF_ACCESS_INFO.COUNT : Fld := ⟨0x3084, 0, 16⟩
/-- REGIF.CFG_CRC_CTL (R158). -/
def REGIF.CFG_CRC_CTL.reg : Nat := 0x3090
def REGIF.CFG_CRC_CTL.TAKEOVER : Fld := ⟨0x3090, 1, 1⟩
def REGIF.CFG_CRC_CTL.MUTE : Fld := ⟨0x3090, 0, 1⟩
/-- REGIF.CFG_CRC_REF (R158). -/
def REGIF.CFG_CRC_REF.reg : Nat := 0x3094
def REGIF.CFG_CRC_REF.REF : Fld := ⟨0x3094, 0, 32⟩
/-- REGIF.CFG_CRC_NOW (R158). -/
def REGIF.CFG_CRC_NOW.reg : Nat := 0x3098
def REGIF.CFG_CRC_NOW.CRC : Fld := ⟨0x3098, 0, 32⟩
/-- REGIF.CFG_CRC_STAT (R158). -/
def REGIF.CFG_CRC_STAT.reg : Nat := 0x309c
def REGIF.CFG_CRC_STAT.ARMED : Fld := ⟨0x309c, 4, 1⟩
def REGIF.CFG_CRC_STAT.HOLD : Fld := ⟨0x309c, 3, 1⟩
def REGIF.CFG_CRC_STAT.MATCH : Fld := ⟨0x309c, 2, 1⟩
def REGIF.CFG_CRC_STAT.STALE : Fld := ⟨0x309c, 1, 1⟩
def REGIF.CFG_CRC_STAT.FAULT : Fld := ⟨0x309c, 0, 1⟩
/-- REGIF.HOST_OWN0 (R158). -/
def REGIF.HOST_OWN0.reg : Nat := 0x30a0
def REGIF.HOST_OWN0.OWN : Fld := ⟨0x30a0, 0, 32⟩
/-- REGIF.HOST_OWN1 (R158). -/
def REGIF.HOST_OWN1.reg : Nat := 0x30a4
def REGIF.HOST_OWN1.OWN : Fld := ⟨0x30a4, 0, 32⟩
/-- IRQ.SUM_HOST (R181). -/
def IRQ.SUM_HOST.reg : Nat := 0x4000
def IRQ.SUM_HOST.BLOCK : Fld := ⟨0x4000, 0, 23⟩
/-- IRQ.SUM_MCU (R181). -/
def IRQ.SUM_MCU.reg : Nat := 0x4004
def IRQ.SUM_MCU.BLOCK : Fld := ⟨0x4004, 0, 23⟩
/-- IRQ.HOST_CTL (R181). -/
def IRQ.HOST_CTL.reg : Nat := 0x4010
def IRQ.HOST_CTL.PIN_EN : Fld := ⟨0x4010, 16, 1⟩
def IRQ.HOST_CTL.IDLE : Fld := ⟨0x4010, 8, 1⟩
def IRQ.HOST_CTL.THRESH : Fld := ⟨0x4010, 0, 3⟩
/-- IRQ.MCU_CTL (R181). -/
def IRQ.MCU_CTL.reg : Nat := 0x4014
def IRQ.MCU_CTL.IDLE : Fld := ⟨0x4014, 8, 1⟩
def IRQ.MCU_CTL.THRESH : Fld := ⟨0x4014, 0, 3⟩
/-- IRQ.HOST_STAT (R181). -/
def IRQ.HOST_STAT.reg : Nat := 0x4018
def IRQ.HOST_STAT.COND : Fld := ⟨0x4018, 31, 1⟩
def IRQ.HOST_STAT.LINE : Fld := ⟨0x4018, 30, 1⟩
def IRQ.HOST_STAT.ACK_WHY : Fld := ⟨0x4018, 18, 2⟩
def IRQ.HOST_STAT.ACK_BAD : Fld := ⟨0x4018, 17, 1⟩
def IRQ.HOST_STAT.TOP : Fld := ⟨0x4018, 8, 8⟩
def IRQ.HOST_STAT.DEPTH : Fld := ⟨0x4018, 4, 4⟩
def IRQ.HOST_STAT.RUNNING : Fld := ⟨0x4018, 0, 3⟩
/-- IRQ.MCU_STAT (R181). -/
def IRQ.MCU_STAT.reg : Nat := 0x401c
def IRQ.MCU_STAT.COND : Fld := ⟨0x401c, 31, 1⟩
def IRQ.MCU_STAT.LINE : Fld := ⟨0x401c, 30, 1⟩
def IRQ.MCU_STAT.ACK_WHY : Fld := ⟨0x401c, 18, 2⟩
def IRQ.MCU_STAT.ACK_BAD : Fld := ⟨0x401c, 17, 1⟩
def IRQ.MCU_STAT.TOP : Fld := ⟨0x401c, 8, 8⟩
def IRQ.MCU_STAT.DEPTH : Fld := ⟨0x401c, 4, 4⟩
def IRQ.MCU_STAT.RUNNING : Fld := ⟨0x401c, 0, 3⟩
/-- IRQ.ACK_HOST (R181). -/
def IRQ.ACK_HOST.reg : Nat := 0x4020
def IRQ.ACK_HOST.SRC : Fld := ⟨0x4020, 0, 8⟩
/-- IRQ.EOI_HOST (R181). -/
def IRQ.EOI_HOST.reg : Nat := 0x4024
def IRQ.EOI_HOST.SRC : Fld := ⟨0x4024, 0, 8⟩
/-- IRQ.ACK_MCU (R181). -/
def IRQ.ACK_MCU.reg : Nat := 0x4028
def IRQ.ACK_MCU.SRC : Fld := ⟨0x4028, 0, 8⟩
/-- IRQ.EOI_MCU (R181). -/
def IRQ.EOI_MCU.reg : Nat := 0x402c
def IRQ.EOI_MCU.SRC : Fld := ⟨0x402c, 0, 8⟩
/-- IRQ.FAULT_HOST (R181). -/
def IRQ.FAULT_HOST.reg : Nat := 0x4030
def IRQ.FAULT_HOST.VALID : Fld := ⟨0x4030, 31, 1⟩
def IRQ.FAULT_HOST.MORE : Fld := ⟨0x4030, 30, 1⟩
def IRQ.FAULT_HOST.KIND : Fld := ⟨0x4030, 24, 1⟩
def IRQ.FAULT_HOST.EXPECTED : Fld := ⟨0x4030, 8, 8⟩
def IRQ.FAULT_HOST.NAMED : Fld := ⟨0x4030, 0, 8⟩
/-- IRQ.FAULT_MCU (R181). -/
def IRQ.FAULT_MCU.reg : Nat := 0x4034
def IRQ.FAULT_MCU.VALID : Fld := ⟨0x4034, 31, 1⟩
def IRQ.FAULT_MCU.MORE : Fld := ⟨0x4034, 30, 1⟩
def IRQ.FAULT_MCU.KIND : Fld := ⟨0x4034, 24, 1⟩
def IRQ.FAULT_MCU.EXPECTED : Fld := ⟨0x4034, 8, 8⟩
def IRQ.FAULT_MCU.NAMED : Fld := ⟨0x4034, 0, 8⟩
/-- IRQ.SPURIOUS (R181). -/
def IRQ.SPURIOUS.reg : Nat := 0x4038
def IRQ.SPURIOUS.MCU : Fld := ⟨0x4038, 16, 16⟩
def IRQ.SPURIOUS.HOST : Fld := ⟨0x4038, 0, 16⟩
/-- IRQ.MOD_STAT (R181). -/
def IRQ.MOD_STAT.reg : Nat := 0x403c
def IRQ.MOD_STAT.MCU_HELD : Fld := ⟨0x403c, 16, 16⟩
def IRQ.MOD_STAT.HOST_HELD : Fld := ⟨0x403c, 0, 16⟩
/-- IRQ.PEND_HOST_SETk (R181). -/
def IRQ.PEND_HOST_SET.reg (n : Nat) : Nat := (0x4100 + 4 * n)
def IRQ.PEND_HOST_SET.PEND (n : Nat) : Fld := ⟨(0x4100 + 4 * n), 0, 32⟩
/-- IRQ.PEND_HOST_CLRk (R181). -/
def IRQ.PEND_HOST_CLR.reg (n : Nat) : Nat := (0x4120 + 4 * n)
def IRQ.PEND_HOST_CLR.PEND (n : Nat) : Fld := ⟨(0x4120 + 4 * n), 0, 32⟩
/-- IRQ.PEND_MCU_SETk (R181). -/
def IRQ.PEND_MCU_SET.reg (n : Nat) : Nat := (0x4140 + 4 * n)
def IRQ.PEND_MCU_SET.PEND (n : Nat) : Fld := ⟨(0x4140 + 4 * n), 0, 32⟩
/-- IRQ.PEND_MCU_CLRk (R181). -/
def IRQ.PEND_MCU_CLR.reg (n : Nat) : Nat := (0x4160 + 4 * n)
def IRQ.PEND_MCU_CLR.PEND (n : Nat) : Fld := ⟨(0x4160 + 4 * n), 0, 32⟩
/-- IRQ.MASK_HOST_SETk (R181). -/
def IRQ.MASK_HOST_SET.reg (n : Nat) : Nat := (0x4180 + 4 * n)
def IRQ.MASK_HOST_SET.MASK (n : Nat) : Fld := ⟨(0x4180 + 4 * n), 0, 32⟩
/-- IRQ.MASK_HOST_CLRk (R181). -/
def IRQ.MASK_HOST_CLR.reg (n : Nat) : Nat := (0x41a0 + 4 * n)
def IRQ.MASK_HOST_CLR.MASK (n : Nat) : Fld := ⟨(0x41a0 + 4 * n), 0, 32⟩
/-- IRQ.MASK_MCU_SETk (R181). -/
def IRQ.MASK_MCU_SET.reg (n : Nat) : Nat := (0x41c0 + 4 * n)
def IRQ.MASK_MCU_SET.MASK (n : Nat) : Fld := ⟨(0x41c0 + 4 * n), 0, 32⟩
/-- IRQ.MASK_MCU_CLRk (R181). -/
def IRQ.MASK_MCU_CLR.reg (n : Nat) : Nat := (0x41e0 + 4 * n)
def IRQ.MASK_MCU_CLR.MASK (n : Nat) : Fld := ⟨(0x41e0 + 4 * n), 0, 32⟩
/-- IRQ.RAWk (R181). -/
def IRQ.RAW.reg (n : Nat) : Nat := (0x4200 + 4 * n)
def IRQ.RAW.LINE (n : Nat) : Fld := ⟨(0x4200 + 4 * n), 0, 32⟩
/-- IRQ.SRCn_CFG (R181). -/
def IRQ.SRC_CFG.reg (n : Nat) : Nat := (0x4400 + 4 * n)
def IRQ.SRC_CFG.GROUP (n : Nat) : Fld := ⟨(0x4400 + 4 * n), 12, 4⟩
def IRQ.SRC_CFG.SENSE (n : Nat) : Fld := ⟨(0x4400 + 4 * n), 8, 3⟩
def IRQ.SRC_CFG.PRIO_MCU (n : Nat) : Fld := ⟨(0x4400 + 4 * n), 4, 3⟩
def IRQ.SRC_CFG.PRIO_HOST (n : Nat) : Fld := ⟨(0x4400 + 4 * n), 0, 3⟩
/-- IRQ.MODg (R181). -/
def IRQ.MOD.reg (n : Nat) : Nat := (0x4800 + 4 * n)
def IRQ.MOD.MOD_COUNT (n : Nat) : Fld := ⟨(0x4800 + 4 * n), 16, 8⟩
def IRQ.MOD.MOD_TIME (n : Nat) : Fld := ⟨(0x4800 + 4 * n), 0, 14⟩
/-- IRQ.CNT_CLR (R181). -/
def IRQ.CNT_CLR.reg : Nat := 0x4840
def IRQ.CNT_CLR.SPURIOUS_MCU : Fld := ⟨0x4840, 1, 1⟩
def IRQ.CNT_CLR.SPURIOUS_HOST : Fld := ⟨0x4840, 0, 1⟩
/-- MBX.REQ_DB_SET (R207). -/
def MBX.REQ_DB_SET.reg : Nat := 0x5000
def MBX.REQ_DB_SET.SLOT : Fld := ⟨0x5000, 0, 8⟩
/-- MBX.REQ_DB_CLR (R207). -/
def MBX.REQ_DB_CLR.reg : Nat := 0x5004
def MBX.REQ_DB_CLR.SLOT : Fld := ⟨0x5004, 0, 8⟩
/-- MBX.RSP_DB_SET (R207). -/
def MBX.RSP_DB_SET.reg : Nat := 0x5008
def MBX.RSP_DB_SET.SLOT : Fld := ⟨0x5008, 0, 8⟩
/-- MBX.RSP_DB_CLR (R207). -/
def MBX.RSP_DB_CLR.reg : Nat := 0x500c
def MBX.RSP_DB_CLR.SLOT : Fld := ⟨0x500c, 0, 8⟩
/-- MBX.SLOT_OWN (R207). -/
def MBX.SLOT_OWN.reg : Nat := 0x5010
def MBX.SLOT_OWN.CTL : Fld := ⟨0x5010, 0, 8⟩
/-- MBX.STAT (R207). -/
def MBX.STAT.reg : Nat := 0x5014
def MBX.STAT.SLOT_BUSY : Fld := ⟨0x5014, 24, 8⟩
def MBX.STAT.DB_WRONG : Fld := ⟨0x5014, 16, 8⟩
def MBX.STAT.EVT_PENDING : Fld := ⟨0x5014, 1, 1⟩
def MBX.STAT.FW_READY : Fld := ⟨0x5014, 0, 1⟩
/-- MBX.RING_CTL (R207). -/
def MBX.RING_CTL.reg : Nat := 0x5020
def MBX.RING_CTL.EN : Fld := ⟨0x5020, 0, 1⟩
/-- MBX.CRING_BASE_LO (R207). -/
def MBX.CRING_BASE_LO.reg : Nat := 0x5024
def MBX.CRING_BASE_LO.ADDR : Fld := ⟨0x5024, 0, 32⟩
/-- MBX.CRING_BASE_HI (R207). -/
def MBX.CRING_BASE_HI.reg : Nat := 0x5028
def MBX.CRING_BASE_HI.ADDR : Fld := ⟨0x5028, 0, 32⟩
/-- MBX.CPL_BASE_LO (R207). -/
def MBX.CPL_BASE_LO.reg : Nat := 0x502c
def MBX.CPL_BASE_LO.ADDR : Fld := ⟨0x502c, 0, 32⟩
/-- MBX.CPL_BASE_HI (R207). -/
def MBX.CPL_BASE_HI.reg : Nat := 0x5030
def MBX.CPL_BASE_HI.ADDR : Fld := ⟨0x5030, 0, 32⟩
/-- MBX.EVT_BASE_LO (R207). -/
def MBX.EVT_BASE_LO.reg : Nat := 0x5034
def MBX.EVT_BASE_LO.ADDR : Fld := ⟨0x5034, 0, 32⟩
/-- MBX.EVT_BASE_HI (R207). -/
def MBX.EVT_BASE_HI.reg : Nat := 0x5038
def MBX.EVT_BASE_HI.ADDR : Fld := ⟨0x5038, 0, 32⟩
/-- MBX.RING_IDX (R207). -/
def MBX.RING_IDX.reg : Nat := 0x503c
def MBX.RING_IDX.OUTSTANDING : Fld := ⟨0x503c, 24, 7⟩
def MBX.RING_IDX.EVT_TAIL : Fld := ⟨0x503c, 16, 8⟩
def MBX.RING_IDX.CPL_TAIL : Fld := ⟨0x503c, 8, 8⟩
def MBX.RING_IDX.CMD_HEAD : Fld := ⟨0x503c, 0, 8⟩
/-- MBX.RING_STAT (R207). -/
def MBX.RING_STAT.reg : Nat := 0x5040
def MBX.RING_STAT.EVT_LOST : Fld := ⟨0x5040, 16, 16⟩
def MBX.RING_STAT.ERR_CAUSE : Fld := ⟨0x5040, 1, 3⟩
def MBX.RING_STAT.STOPPED : Fld := ⟨0x5040, 0, 1⟩
/-- MBX.BOOT_INFO (R207). -/
def MBX.BOOT_INFO.reg : Nat := 0x5050
def MBX.BOOT_INFO.RESTARTS : Fld := ⟨0x5050, 16, 16⟩
def MBX.BOOT_INFO.FALLBACK : Fld := ⟨0x5050, 8, 4⟩
def MBX.BOOT_INFO.TRIAL : Fld := ⟨0x5050, 4, 1⟩
def MBX.BOOT_INFO.SOURCE : Fld := ⟨0x5050, 0, 2⟩
/-- MBX.WDOG_CFG (R207). -/
def MBX.WDOG_CFG.reg : Nat := 0x5060
def MBX.WDOG_CFG.TAKEOVER : Fld := ⟨0x5060, 31, 1⟩
def MBX.WDOG_CFG.TIMEOUT : Fld := ⟨0x5060, 0, 10⟩
/-- MBX.WDOG_STAT (R207). -/
def MBX.WDOG_STAT.reg : Nat := 0x5064
def MBX.WDOG_STAT.LAST_CAUSE : Fld := ⟨0x5064, 0, 3⟩
/-- MBX.LOAD_CTL (R207). -/
def MBX.LOAD_CTL.reg : Nat := 0x5070
def MBX.LOAD_CTL.GO : Fld := ⟨0x5070, 31, 1⟩
def MBX.LOAD_CTL.LAST : Fld := ⟨0x5070, 30, 1⟩
def MBX.LOAD_CTL.LEN : Fld := ⟨0x5070, 0, 16⟩
/-- MBX.LOAD_STAT (R207). -/
def MBX.LOAD_STAT.reg : Nat := 0x5074
def MBX.LOAD_STAT.TOTAL : Fld := ⟨0x5074, 12, 20⟩
def MBX.LOAD_STAT.BAD_LEN : Fld := ⟨0x5074, 3, 1⟩
def MBX.LOAD_STAT.BAD_SIG : Fld := ⟨0x5074, 2, 1⟩
def MBX.LOAD_STAT.DONE : Fld := ⟨0x5074, 1, 1⟩
def MBX.LOAD_STAT.BUSY : Fld := ⟨0x5074, 0, 1⟩
/-- MBX.CNT_CLR (R207). -/
def MBX.CNT_CLR.reg : Nat := 0x5080
def MBX.CNT_CLR.RESTARTS : Fld := ⟨0x5080, 3, 1⟩
def MBX.CNT_CLR.EVT_LOST : Fld := ⟨0x5080, 2, 1⟩
def MBX.CNT_CLR.DB_WRONG : Fld := ⟨0x5080, 1, 1⟩
def MBX.CNT_CLR.SLOT_BUSY : Fld := ⟨0x5080, 0, 1⟩
/-- CLK.PLL_STAT (R102). -/
def CLK.PLL_STAT.reg : Nat := 0x6000
def CLK.PLL_STAT.CORE_SLOW : Fld := ⟨0x6000, 4, 1⟩
def CLK.PLL_STAT.SYS_LOSS : Fld := ⟨0x6000, 3, 1⟩
def CLK.PLL_STAT.REF_LOSS : Fld := ⟨0x6000, 2, 1⟩
def CLK.PLL_STAT.SYS_LOCK : Fld := ⟨0x6000, 1, 1⟩
def CLK.PLL_STAT.REF_LOCK : Fld := ⟨0x6000, 0, 1⟩
/-- CLK.WCLK_CFG (R102). -/
def CLK.WCLK_CFG.reg : Nat := 0x6010
def CLK.WCLK_CFG.OUT_EN : Fld := ⟨0x6010, 31, 1⟩
def CLK.WCLK_CFG.OUT_SRC : Fld := ⟨0x6010, 24, 3⟩
def CLK.WCLK_CFG.OUT_OFFSET : Fld := ⟨0x6010, 0, 16⟩
/-- CLK.WCLK_STAT (R102). -/
def CLK.WCLK_STAT.reg : Nat := 0x6014
def CLK.WCLK_STAT.PRESENT : Fld := ⟨0x6014, 31, 1⟩
def CLK.WCLK_STAT.RATE_DET : Fld := ⟨0x6014, 28, 3⟩
def CLK.WCLK_STAT.LOSS_EV : Fld := ⟨0x6014, 27, 1⟩
def CLK.WCLK_STAT.PERIOD : Fld := ⟨0x6014, 0, 16⟩
/-- CLK.MCLK_CFG (R102). -/
def CLK.MCLK_CFG.reg : Nat := 0x6020
def CLK.MCLK_CFG.EN (k : Nat) : Fld := ⟨0x6020, 7 + 8 * k, 1⟩
def CLK.MCLK_CFG.DIV (k : Nat) : Fld := ⟨0x6020, 5 + 8 * k, 2⟩
def CLK.MCLK_CFG.BAD (k : Nat) : Fld := ⟨0x6020, 3 + 8 * k, 1⟩
def CLK.MCLK_CFG.SRC (k : Nat) : Fld := ⟨0x6020, 0 + 8 * k, 3⟩
/-- CLK.MCSn_CFG (R102). -/
def CLK.MCS_CFG.reg (n : Nat) : Nat := (0x6100 + 32 * n)
def CLK.MCS_CFG.EN (n : Nat) : Fld := ⟨(0x6100 + 32 * n), 31, 1⟩
def CLK.MCS_CFG.MULT (n : Nat) : Fld := ⟨(0x6100 + 32 * n), 28, 1⟩
def CLK.MCS_CFG.RATE (n : Nat) : Fld := ⟨(0x6100 + 32 * n), 24, 4⟩
def CLK.MCS_CFG.BW_LOCK (n : Nat) : Fld := ⟨(0x6100 + 32 * n), 20, 4⟩
def CLK.MCS_CFG.BW_ACQ (n : Nat) : Fld := ⟨(0x6100 + 32 * n), 16, 4⟩
def CLK.MCS_CFG.REF_TYPE (n : Nat) : Fld := ⟨(0x6100 + 32 * n), 8, 3⟩
def CLK.MCS_CFG.REF_ID (n : Nat) : Fld := ⟨(0x6100 + 32 * n), 0, 8⟩
/-- CLK.MCSn_LOOP (R102). -/
def CLK.MCS_LOOP.reg (n : Nat) : Nat := (0x6104 + 32 * n)
def CLK.MCS_LOOP.SLEW_PPM (n : Nat) : Fld := ⟨(0x6104 + 32 * n), 24, 8⟩
def CLK.MCS_LOOP.UNLOCK_TH (n : Nat) : Fld := ⟨(0x6104 + 32 * n), 16, 8⟩
def CLK.MCS_LOOP.LOCK_TH (n : Nat) : Fld := ⟨(0x6104 + 32 * n), 8, 8⟩
def CLK.MCS_LOOP.LOCK_COUNT (n : Nat) : Fld := ⟨(0x6104 + 32 * n), 4, 4⟩
def CLK.MCS_LOOP.HOLD_AVG (n : Nat) : Fld := ⟨(0x6104 + 32 * n), 0, 4⟩
/-- CLK.MCSn_STAT (R102). -/
def CLK.MCS_STAT.reg (n : Nat) : Nat := (0x6108 + 32 * n)
def CLK.MCS_STAT.STATE (n : Nat) : Fld := ⟨(0x6108 + 32 * n), 28, 4⟩
def CLK.MCS_STAT.BW_NOW (n : Nat) : Fld := ⟨(0x6108 + 32 * n), 24, 4⟩
def CLK.MCS_STAT.USERS (n : Nat) : Fld := ⟨(0x6108 + 32 * n), 14, 10⟩
def CLK.MCS_STAT.REF_OK (n : Nat) : Fld := ⟨(0x6108 + 32 * n), 7, 1⟩
def CLK.MCS_STAT.SLEWING (n : Nat) : Fld := ⟨(0x6108 + 32 * n), 6, 1⟩
def CLK.MCS_STAT.LOCK_EV (n : Nat) : Fld := ⟨(0x6108 + 32 * n), 5, 1⟩
def CLK.MCS_STAT.HOLD_EV (n : Nat) : Fld := ⟨(0x6108 + 32 * n), 4, 1⟩
def CLK.MCS_STAT.STEP_SEEN (n : Nat) : Fld := ⟨(0x6108 + 32 * n), 3, 1⟩
def CLK.MCS_STAT.OUT_OF_RANGE (n : Nat) : Fld := ⟨(0x6108 + 32 * n), 2, 1⟩
def CLK.MCS_STAT.CFG_BAD (n : Nat) : Fld := ⟨(0x6108 + 32 * n), 1, 1⟩
def CLK.MCS_STAT.BUSY_REFUSED (n : Nat) : Fld := ⟨(0x6108 + 32 * n), 0, 1⟩
/-- CLK.MCSn_PHASE (R102). -/
def CLK.MCS_PHASE.reg (n : Nat) : Nat := (0x610c + 32 * n)
def CLK.MCS_PHASE.ERR (n : Nat) : Fld := ⟨(0x610c + 32 * n), 0, 32⟩
/-- CLK.MCSn_FREQ (R102). -/
def CLK.MCS_FREQ.reg (n : Nat) : Nat := (0x6110 + 32 * n)
def CLK.MCS_FREQ.OFFSET (n : Nat) : Fld := ⟨(0x6110 + 32 * n), 0, 32⟩
/-- TIME.PPS_CFG (R127). -/
def TIME.PPS_CFG.reg : Nat := 0x7004
def TIME.PPS_CFG.OUT_EN : Fld := ⟨0x7004, 31, 1⟩
def TIME.PPS_CFG.OUT_PTI : Fld := ⟨0x7004, 28, 2⟩
def TIME.PPS_CFG.WIDTH : Fld := ⟨0x7004, 16, 8⟩
def TIME.PPS_CFG.IN_FALL : Fld := ⟨0x7004, 0, 1⟩
/-- TIME.DORMANT (R127). -/
def TIME.DORMANT.reg : Nat := 0x7008
def TIME.DORMANT.TRIM_EN : Fld := ⟨0x7008, 31, 1⟩
def TIME.DORMANT.SLEEP_PTI : Fld := ⟨0x7008, 0, 2⟩
/-- TIME.TRIM (R127). -/
def TIME.TRIM.reg : Nat := 0x700c
def TIME.TRIM.PPB : Fld := ⟨0x700c, 0, 32⟩
/-- TIME.PTM_CFG (R127). -/
def TIME.PTM_CFG.reg : Nat := 0x7010
def TIME.PTM_CFG.EN : Fld := ⟨0x7010, 31, 1⟩
def TIME.PTM_CFG.PTI : Fld := ⟨0x7010, 28, 2⟩
def TIME.PTM_CFG.NEW : Fld := ⟨0x7010, 10, 1⟩
def TIME.PTM_CFG.FAIL : Fld := ⟨0x7010, 9, 1⟩
def TIME.PTM_CFG.INTERVAL : Fld := ⟨0x7010, 0, 8⟩
/-- TIME.PORT_ASYM (R127). -/
def TIME.PORT_ASYM.reg (n : Nat) : Nat := (0x7020 + 4 * n)
def TIME.PORT_ASYM.ASYM (n : Nat) : Fld := ⟨(0x7020 + 4 * n), 0, 32⟩
/-- TIME.DELAY_TH (R127). -/
def TIME.DELAY_TH.reg : Nat := 0x702c
def TIME.DELAY_TH.NS : Fld := ⟨0x702c, 0, 16⟩
/-- TIME.PTIn_CFG (R127). -/
def TIME.PTI_CFG.reg (n : Nat) : Nat := (0x7100 + 64 * n)
def TIME.PTI_CFG.EN (n : Nat) : Fld := ⟨(0x7100 + 64 * n), 31, 1⟩
def TIME.PTI_CFG.PROFILE (n : Nat) : Fld := ⟨(0x7100 + 64 * n), 28, 3⟩
def TIME.PTI_CFG.DOMAIN (n : Nat) : Fld := ⟨(0x7100 + 64 * n), 20, 8⟩
def TIME.PTI_CFG.CFG_BAD (n : Nat) : Fld := ⟨(0x7100 + 64 * n), 19, 1⟩
def TIME.PTI_CFG.PORTS (n : Nat) : Fld := ⟨(0x7100 + 64 * n), 16, 3⟩
def TIME.PTI_CFG.ROLE (n : Nat) : Fld := ⟨(0x7100 + 64 * n), 14, 2⟩
def TIME.PTI_CFG.TWO_STEP (n : Nat) : Fld := ⟨(0x7100 + 64 * n), 13, 1⟩
def TIME.PTI_CFG.IPV6 (n : Nat) : Fld := ⟨(0x7100 + 64 * n), 12, 1⟩
def TIME.PTI_CFG.STEP_EN (n : Nat) : Fld := ⟨(0x7100 + 64 * n), 11, 1⟩
def TIME.PTI_CFG.GM_SRC (n : Nat) : Fld := ⟨(0x7100 + 64 * n), 8, 3⟩
def TIME.PTI_CFG.STEP_TH (n : Nat) : Fld := ⟨(0x7100 + 64 * n), 0, 8⟩
/-- TIME.PTIn_SERVO (R127). -/
def TIME.PTI_SERVO.reg (n : Nat) : Nat := (0x7104 + 64 * n)
def TIME.PTI_SERVO.EN (n : Nat) : Fld := ⟨(0x7104 + 64 * n), 31, 1⟩
def TIME.PTI_SERVO.KP (n : Nat) : Fld := ⟨(0x7104 + 64 * n), 20, 4⟩
def TIME.PTI_SERVO.KI (n : Nat) : Fld := ⟨(0x7104 + 64 * n), 16, 4⟩
def TIME.PTI_SERVO.LOCK_NS (n : Nat) : Fld := ⟨(0x7104 + 64 * n), 8, 8⟩
def TIME.PTI_SERVO.FREEZE_HOLD (n : Nat) : Fld := ⟨(0x7104 + 64 * n), 0, 8⟩
/-- TIME.PTIn_ADDEND_INT (R127). -/
def TIME.PTI_ADDEND_INT.reg (n : Nat) : Nat := (0x7108 + 64 * n)
def TIME.PTI_ADDEND_INT.INT (n : Nat) : Fld := ⟨(0x7108 + 64 * n), 0, 32⟩
/-- TIME.PTIn_ADDEND_FRAC (R127). -/
def TIME.PTI_ADDEND_FRAC.reg (n : Nat) : Nat := (0x710c + 64 * n)
def TIME.PTI_ADDEND_FRAC.FRAC (n : Nat) : Fld := ⟨(0x710c + 64 * n), 0, 32⟩
/-- TIME.PTIn_ADJ (R127). -/
def TIME.PTI_ADJ.reg (n : Nat) : Nat := (0x7110 + 64 * n)
def TIME.PTI_ADJ.NS (n : Nat) : Fld := ⟨(0x7110 + 64 * n), 0, 32⟩
/-- TIME.PTIn_GUARD (R127). -/
def TIME.PTI_GUARD.reg (n : Nat) : Nat := (0x7114 + 64 * n)
def TIME.PTI_GUARD.PATH_DISAGREE_NS (n : Nat) : Fld := ⟨(0x7114 + 64 * n), 16, 16⟩
def TIME.PTI_GUARD.SLEW_PPM (n : Nat) : Fld := ⟨(0x7114 + 64 * n), 8, 8⟩
/-- TIME.PTIn_STAT (R127). -/
def TIME.PTI_STAT.reg (n : Nat) : Nat := (0x7118 + 64 * n)
def TIME.PTI_STAT.LOCKED (n : Nat) : Fld := ⟨(0x7118 + 64 * n), 15, 1⟩
def TIME.PTI_STAT.FROZEN (n : Nat) : Fld := ⟨(0x7118 + 64 * n), 14, 1⟩
def TIME.PTI_STAT.SEL_PORT (n : Nat) : Fld := ⟨(0x7118 + 64 * n), 12, 2⟩
def TIME.PTI_STAT.GM_CHANGE (n : Nat) : Fld := ⟨(0x7118 + 64 * n), 11, 1⟩
def TIME.PTI_STAT.STEP_EV (n : Nat) : Fld := ⟨(0x7118 + 64 * n), 10, 1⟩
def TIME.PTI_STAT.UNEXPLAINED_STEP (n : Nat) : Fld := ⟨(0x7118 + 64 * n), 9, 1⟩
def TIME.PTI_STAT.ASYM_SUSPECT (n : Nat) : Fld := ⟨(0x7118 + 64 * n), 8, 1⟩
def TIME.PTI_STAT.ASYM_BOTH (n : Nat) : Fld := ⟨(0x7118 + 64 * n), 7, 1⟩
def TIME.PTI_STAT.SUSPECT_NETB (n : Nat) : Fld := ⟨(0x7118 + 64 * n), 6, 1⟩
def TIME.PTI_STAT.SUSPECT_NETA (n : Nat) : Fld := ⟨(0x7118 + 64 * n), 5, 1⟩
def TIME.PTI_STAT.DELAY_STEP_NETB (n : Nat) : Fld := ⟨(0x7118 + 64 * n), 4, 1⟩
def TIME.PTI_STAT.DELAY_STEP_NETA (n : Nat) : Fld := ⟨(0x7118 + 64 * n), 3, 1⟩
def TIME.PTI_STAT.DELAY_STEP_MGMT (n : Nat) : Fld := ⟨(0x7118 + 64 * n), 2, 1⟩
def TIME.PTI_STAT.OWNER_CONFLICT (n : Nat) : Fld := ⟨(0x7118 + 64 * n), 1, 1⟩
def TIME.PTI_STAT.ANN_TIMEOUT (n : Nat) : Fld := ⟨(0x7118 + 64 * n), 0, 1⟩
/-- TIME.PTIn_PORT_STATE (R127). -/
def TIME.PTI_PORT_STATE.reg (n : Nat) : Nat := (0x711c + 64 * n)
def TIME.PTI_PORT_STATE.MGMT (n : Nat) : Fld := ⟨(0x711c + 64 * n), 8, 4⟩
def TIME.PTI_PORT_STATE.NETB (n : Nat) : Fld := ⟨(0x711c + 64 * n), 4, 4⟩
def TIME.PTI_PORT_STATE.NETA (n : Nat) : Fld := ⟨(0x711c + 64 * n), 0, 4⟩
/-- TIME.PTIn_OFFSET (R127). -/
def TIME.PTI_OFFSET.reg (n : Nat) : Nat := (0x7120 + 64 * n)
def TIME.PTI_OFFSET.NS (n : Nat) : Fld := ⟨(0x7120 + 64 * n), 0, 32⟩
/-- TIME.PTIn_DISAGREE (R127). -/
def TIME.PTI_DISAGREE.reg (n : Nat) : Nat := (0x7124 + 64 * n)
def TIME.PTI_DISAGREE.NS (n : Nat) : Fld := ⟨(0x7124 + 64 * n), 0, 32⟩
/-- TIME.PLn_CFG (R127). -/
def TIME.PL_CFG.reg (n : Nat) : Nat := (0x7400 + 32 * n)
def TIME.PL_CFG.ARM (n : Nat) : Fld := ⟨(0x7400 + 32 * n), 31, 1⟩
def TIME.PL_CFG.MODE (n : Nat) : Fld := ⟨(0x7400 + 32 * n), 29, 2⟩
def TIME.PL_CFG.PTI (n : Nat) : Fld := ⟨(0x7400 + 32 * n), 27, 2⟩
def TIME.PL_CFG.ACT_UPD (n : Nat) : Fld := ⟨(0x7400 + 32 * n), 26, 1⟩
def TIME.PL_CFG.ACT_TDM (n : Nat) : Fld := ⟨(0x7400 + 32 * n), 25, 1⟩
def TIME.PL_CFG.ACT_GPIO (n : Nat) : Fld := ⟨(0x7400 + 32 * n), 24, 1⟩
def TIME.PL_CFG.ALIGN (n : Nat) : Fld := ⟨(0x7400 + 32 * n), 16, 4⟩
def TIME.PL_CFG.SRC (n : Nat) : Fld := ⟨(0x7400 + 32 * n), 12, 4⟩
def TIME.PL_CFG.EDGE (n : Nat) : Fld := ⟨(0x7400 + 32 * n), 10, 2⟩
def TIME.PL_CFG.WIDTH (n : Nat) : Fld := ⟨(0x7400 + 32 * n), 0, 8⟩
/-- TIME.PLn_GROUPS (R127). -/
def TIME.PL_GROUPS.reg (n : Nat) : Nat := (0x7404 + 32 * n)
def TIME.PL_GROUPS.UPD (n : Nat) : Fld := ⟨(0x7404 + 32 * n), 0, 16⟩
/-- TIME.PLn_T_SEC_HI (R127). -/
def TIME.PL_T_SEC_HI.reg (n : Nat) : Nat := (0x7408 + 32 * n)
def TIME.PL_T_SEC_HI.VALUE (n : Nat) : Fld := ⟨(0x7408 + 32 * n), 0, 32⟩
/-- TIME.PLn_T_SEC_LO (R127). -/
def TIME.PL_T_SEC_LO.reg (n : Nat) : Nat := (0x740c + 32 * n)
def TIME.PL_T_SEC_LO.VALUE (n : Nat) : Fld := ⟨(0x740c + 32 * n), 0, 32⟩
/-- TIME.PLn_T_NS (R127). -/
def TIME.PL_T_NS.reg (n : Nat) : Nat := (0x7410 + 32 * n)
def TIME.PL_T_NS.VALUE (n : Nat) : Fld := ⟨(0x7410 + 32 * n), 0, 32⟩
/-- TIME.PLn_PERIOD_NS (R127). -/
def TIME.PL_PERIOD_NS.reg (n : Nat) : Nat := (0x7414 + 32 * n)
def TIME.PL_PERIOD_NS.VALUE (n : Nat) : Fld := ⟨(0x7414 + 32 * n), 0, 32⟩
/-- TIME.PLn_PERIOD_FRAC (R127). -/
def TIME.PL_PERIOD_FRAC.reg (n : Nat) : Nat := (0x7418 + 32 * n)
def TIME.PL_PERIOD_FRAC.VALUE (n : Nat) : Fld := ⟨(0x7418 + 32 * n), 0, 32⟩
/-- TIME.PLn_STAT (R127). -/
def TIME.PL_STAT.reg (n : Nat) : Nat := (0x741c + 32 * n)
def TIME.PL_STAT.BAD (n : Nat) : Fld := ⟨(0x741c + 32 * n), 5, 1⟩
def TIME.PL_STAT.STEP_MISS (n : Nat) : Fld := ⟨(0x741c + 32 * n), 4, 1⟩
def TIME.PL_STAT.OVERRUN (n : Nat) : Fld := ⟨(0x741c + 32 * n), 3, 1⟩
def TIME.PL_STAT.CAPT_EV (n : Nat) : Fld := ⟨(0x741c + 32 * n), 2, 1⟩
def TIME.PL_STAT.LATE (n : Nat) : Fld := ⟨(0x741c + 32 * n), 1, 1⟩
def TIME.PL_STAT.FIRED_EV (n : Nat) : Fld := ⟨(0x741c + 32 * n), 0, 1⟩
/-- TDMn.TX_FMT (R248). -/
def TDM.TX_FMT.reg (n : Nat) : Nat := (0x8000 + 256 * n)
def TDM.TX_FMT.EN (n : Nat) : Fld := ⟨(0x8000 + 256 * n), 31, 1⟩
def TDM.TX_FMT.MASTER (n : Nat) : Fld := ⟨(0x8000 + 256 * n), 30, 1⟩
def TDM.TX_FMT.FORMAT (n : Nat) : Fld := ⟨(0x8000 + 256 * n), 28, 2⟩
def TDM.TX_FMT.MCS (n : Nat) : Fld := ⟨(0x8000 + 256 * n), 24, 3⟩
def TDM.TX_FMT.FS_INV (n : Nat) : Fld := ⟨(0x8000 + 256 * n), 23, 1⟩
def TDM.TX_FMT.LSB_FIRST (n : Nat) : Fld := ⟨(0x8000 + 256 * n), 22, 1⟩
def TDM.TX_FMT.EDGE_FALL (n : Nat) : Fld := ⟨(0x8000 + 256 * n), 21, 1⟩
def TDM.TX_FMT.COMPACT (n : Nat) : Fld := ⟨(0x8000 + 256 * n), 20, 1⟩
def TDM.TX_FMT.IDLE_HIZ (n : Nat) : Fld := ⟨(0x8000 + 256 * n), 19, 1⟩
def TDM.TX_FMT.CONCEAL (n : Nat) : Fld := ⟨(0x8000 + 256 * n), 16, 2⟩
def TDM.TX_FMT.ALIGN (n : Nat) : Fld := ⟨(0x8000 + 256 * n), 12, 4⟩
/-- TDMn.TX_FRAME (R248). -/
def TDM.TX_FRAME.reg (n : Nat) : Nat := (0x8004 + 256 * n)
def TDM.TX_FRAME.SLOTS (n : Nat) : Fld := ⟨(0x8004 + 256 * n), 24, 6⟩
def TDM.TX_FRAME.WIDTH (n : Nat) : Fld := ⟨(0x8004 + 256 * n), 18, 6⟩
def TDM.TX_FRAME.OFFSET (n : Nat) : Fld := ⟨(0x8004 + 256 * n), 12, 6⟩
def TDM.TX_FRAME.FS_WIDTH (n : Nat) : Fld := ⟨(0x8004 + 256 * n), 0, 10⟩
/-- TDMn.TX_LEAD (R248). -/
def TDM.TX_LEAD.reg (n : Nat) : Nat := (0x8008 + 256 * n)
def TDM.TX_LEAD.LEAD_OUT (n : Nat) : Fld := ⟨(0x8008 + 256 * n), 8, 8⟩
def TDM.TX_LEAD.LEAD_IN (n : Nat) : Fld := ⟨(0x8008 + 256 * n), 0, 8⟩
/-- TDMn.TX_MASK (R248). -/
def TDM.TX_MASK.reg (n : Nat) : Nat := (0x800c + 256 * n)
def TDM.TX_MASK.SLOTS (n : Nat) : Fld := ⟨(0x800c + 256 * n), 0, 32⟩
/-- TDMn.TX_CTRL (R248). -/
def TDM.TX_CTRL.reg (n : Nat) : Nat := (0x8010 + 256 * n)
def TDM.TX_CTRL.MASK_MUTE (n : Nat) : Fld := ⟨(0x8010 + 256 * n), 0, 1⟩
/-- TDMn.TX_CMD (R248). -/
def TDM.TX_CMD.reg (n : Nat) : Nat := (0x8014 + 256 * n)
def TDM.TX_CMD.STOP (n : Nat) : Fld := ⟨(0x8014 + 256 * n), 1, 1⟩
def TDM.TX_CMD.ARM (n : Nat) : Fld := ⟨(0x8014 + 256 * n), 0, 1⟩
/-- TDMn.TX_STAT (R248). -/
def TDM.TX_STAT.reg (n : Nat) : Nat := (0x8018 + 256 * n)
def TDM.TX_STAT.STATE (n : Nat) : Fld := ⟨(0x8018 + 256 * n), 28, 4⟩
def TDM.TX_STAT.CFG_DROPPED (n : Nat) : Fld := ⟨(0x8018 + 256 * n), 11, 1⟩
def TDM.TX_STAT.CFG_BAD (n : Nat) : Fld := ⟨(0x8018 + 256 * n), 10, 1⟩
def TDM.TX_STAT.CMD_BAD (n : Nat) : Fld := ⟨(0x8018 + 256 * n), 9, 1⟩
def TDM.TX_STAT.FRAME_ERR_EV (n : Nat) : Fld := ⟨(0x8018 + 256 * n), 8, 1⟩
def TDM.TX_STAT.SLIP_EV (n : Nat) : Fld := ⟨(0x8018 + 256 * n), 7, 1⟩
def TDM.TX_STAT.CLK_LOST_EV (n : Nat) : Fld := ⟨(0x8018 + 256 * n), 6, 1⟩
def TDM.TX_STAT.LATE_EV (n : Nat) : Fld := ⟨(0x8018 + 256 * n), 5, 1⟩
def TDM.TX_STAT.UNDERRUN_EV (n : Nat) : Fld := ⟨(0x8018 + 256 * n), 4, 1⟩
def TDM.TX_STAT.MASK_EV (n : Nat) : Fld := ⟨(0x8018 + 256 * n), 3, 1⟩
def TDM.TX_STAT.STATE_EV (n : Nat) : Fld := ⟨(0x8018 + 256 * n), 2, 1⟩
def TDM.TX_STAT.OE_HELD (n : Nat) : Fld := ⟨(0x8018 + 256 * n), 1, 1⟩
/-- TDMn.TX_PHASE (R248). -/
def TDM.TX_PHASE.reg (n : Nat) : Nat := (0x801c + 256 * n)
def TDM.TX_PHASE.NS (n : Nat) : Fld := ⟨(0x801c + 256 * n), 0, 32⟩
/-- TDMn.RX_FMT (R248). -/
def TDM.RX_FMT.reg (n : Nat) : Nat := (0x8020 + 256 * n)
def TDM.RX_FMT.EN (n : Nat) : Fld := ⟨(0x8020 + 256 * n), 31, 1⟩
def TDM.RX_FMT.MASTER (n : Nat) : Fld := ⟨(0x8020 + 256 * n), 30, 1⟩
def TDM.RX_FMT.FORMAT (n : Nat) : Fld := ⟨(0x8020 + 256 * n), 28, 2⟩
def TDM.RX_FMT.MCS (n : Nat) : Fld := ⟨(0x8020 + 256 * n), 24, 3⟩
def TDM.RX_FMT.FS_INV (n : Nat) : Fld := ⟨(0x8020 + 256 * n), 23, 1⟩
def TDM.RX_FMT.LSB_FIRST (n : Nat) : Fld := ⟨(0x8020 + 256 * n), 22, 1⟩
def TDM.RX_FMT.EDGE_FALL (n : Nat) : Fld := ⟨(0x8020 + 256 * n), 21, 1⟩
def TDM.RX_FMT.COMPACT (n : Nat) : Fld := ⟨(0x8020 + 256 * n), 20, 1⟩
def TDM.RX_FMT.IDLE_HIZ (n : Nat) : Fld := ⟨(0x8020 + 256 * n), 19, 1⟩
def TDM.RX_FMT.CONCEAL (n : Nat) : Fld := ⟨(0x8020 + 256 * n), 16, 2⟩
def TDM.RX_FMT.ALIGN (n : Nat) : Fld := ⟨(0x8020 + 256 * n), 12, 4⟩
/-- TDMn.RX_FRAME (R248). -/
def TDM.RX_FRAME.reg (n : Nat) : Nat := (0x8024 + 256 * n)
def TDM.RX_FRAME.SLOTS (n : Nat) : Fld := ⟨(0x8024 + 256 * n), 24, 6⟩
def TDM.RX_FRAME.WIDTH (n : Nat) : Fld := ⟨(0x8024 + 256 * n), 18, 6⟩
def TDM.RX_FRAME.OFFSET (n : Nat) : Fld := ⟨(0x8024 + 256 * n), 12, 6⟩
def TDM.RX_FRAME.FS_WIDTH (n : Nat) : Fld := ⟨(0x8024 + 256 * n), 0, 10⟩
/-- TDMn.RX_LEAD (R248). -/
def TDM.RX_LEAD.reg (n : Nat) : Nat := (0x8028 + 256 * n)
def TDM.RX_LEAD.LEAD_OUT (n : Nat) : Fld := ⟨(0x8028 + 256 * n), 8, 8⟩
def TDM.RX_LEAD.LEAD_IN (n : Nat) : Fld := ⟨(0x8028 + 256 * n), 0, 8⟩
/-- TDMn.RX_MASK (R248). -/
def TDM.RX_MASK.reg (n : Nat) : Nat := (0x802c + 256 * n)
def TDM.RX_MASK.SLOTS (n : Nat) : Fld := ⟨(0x802c + 256 * n), 0, 32⟩
/-- TDMn.RX_CTRL (R248). -/
def TDM.RX_CTRL.reg (n : Nat) : Nat := (0x8030 + 256 * n)
def TDM.RX_CTRL.MASK_MUTE (n : Nat) : Fld := ⟨(0x8030 + 256 * n), 0, 1⟩
/-- TDMn.RX_CMD (R248). -/
def TDM.RX_CMD.reg (n : Nat) : Nat := (0x8034 + 256 * n)
def TDM.RX_CMD.STOP (n : Nat) : Fld := ⟨(0x8034 + 256 * n), 1, 1⟩
def TDM.RX_CMD.ARM (n : Nat) : Fld := ⟨(0x8034 + 256 * n), 0, 1⟩
/-- TDMn.RX_STAT (R248). -/
def TDM.RX_STAT.reg (n : Nat) : Nat := (0x8038 + 256 * n)
def TDM.RX_STAT.STATE (n : Nat) : Fld := ⟨(0x8038 + 256 * n), 28, 4⟩
def TDM.RX_STAT.CFG_DROPPED (n : Nat) : Fld := ⟨(0x8038 + 256 * n), 11, 1⟩
def TDM.RX_STAT.CFG_BAD (n : Nat) : Fld := ⟨(0x8038 + 256 * n), 10, 1⟩
def TDM.RX_STAT.CMD_BAD (n : Nat) : Fld := ⟨(0x8038 + 256 * n), 9, 1⟩
def TDM.RX_STAT.FRAME_ERR_EV (n : Nat) : Fld := ⟨(0x8038 + 256 * n), 8, 1⟩
def TDM.RX_STAT.SLIP_EV (n : Nat) : Fld := ⟨(0x8038 + 256 * n), 7, 1⟩
def TDM.RX_STAT.CLK_LOST_EV (n : Nat) : Fld := ⟨(0x8038 + 256 * n), 6, 1⟩
def TDM.RX_STAT.OVERRUN_EV (n : Nat) : Fld := ⟨(0x8038 + 256 * n), 5, 1⟩
def TDM.RX_STAT.STARVE_EV (n : Nat) : Fld := ⟨(0x8038 + 256 * n), 4, 1⟩
def TDM.RX_STAT.MASK_EV (n : Nat) : Fld := ⟨(0x8038 + 256 * n), 3, 1⟩
def TDM.RX_STAT.STATE_EV (n : Nat) : Fld := ⟨(0x8038 + 256 * n), 2, 1⟩
def TDM.RX_STAT.OE_HELD (n : Nat) : Fld := ⟨(0x8038 + 256 * n), 1, 1⟩
/-- TDMn.RX_PHASE (R248). -/
def TDM.RX_PHASE.reg (n : Nat) : Nat := (0x803c + 256 * n)
def TDM.RX_PHASE.NS (n : Nat) : Fld := ⟨(0x803c + 256 * n), 0, 32⟩
/-- TDMn.TX_UNDERRUN (R248). -/
def TDM.TX_UNDERRUN.reg (n : Nat) : Nat := (0x8040 + 256 * n)
def TDM.TX_UNDERRUN.COUNT (n : Nat) : Fld := ⟨(0x8040 + 256 * n), 0, 32⟩
/-- TDMn.TX_LATE (R248). -/
def TDM.TX_LATE.reg (n : Nat) : Nat := (0x8044 + 256 * n)
def TDM.TX_LATE.COUNT (n : Nat) : Fld := ⟨(0x8044 + 256 * n), 0, 32⟩
/-- TDMn.RX_OVERRUN (R248). -/
def TDM.RX_OVERRUN.reg (n : Nat) : Nat := (0x8048 + 256 * n)
def TDM.RX_OVERRUN.COUNT (n : Nat) : Fld := ⟨(0x8048 + 256 * n), 0, 32⟩
/-- TDMn.RX_STARVE (R248). -/
def TDM.RX_STARVE.reg (n : Nat) : Nat := (0x804c + 256 * n)
def TDM.RX_STARVE.COUNT (n : Nat) : Fld := ⟨(0x804c + 256 * n), 0, 32⟩
/-- TDMn.TX_SLIP (R248). -/
def TDM.TX_SLIP.reg (n : Nat) : Nat := (0x8050 + 256 * n)
def TDM.TX_SLIP.COUNT (n : Nat) : Fld := ⟨(0x8050 + 256 * n), 0, 32⟩
/-- TDMn.RX_SLIP (R248). -/
def TDM.RX_SLIP.reg (n : Nat) : Nat := (0x8054 + 256 * n)
def TDM.RX_SLIP.COUNT (n : Nat) : Fld := ⟨(0x8054 + 256 * n), 0, 32⟩
/-- TDMn.SAT (R248). -/
def TDM.SAT.reg (n : Nat) : Nat := (0x8058 + 256 * n)
def TDM.SAT.SAT_F (n : Nat) : Fld := ⟨(0x8058 + 256 * n), 0, 6⟩
/-- TDMn.CNT_CLR (R248). -/
def TDM.CNT_CLR.reg (n : Nat) : Nat := (0x805c + 256 * n)
def TDM.CNT_CLR.CLR (n : Nat) : Fld := ⟨(0x805c + 256 * n), 0, 6⟩
/-- TDMn.TX_CLKMEAS (R248). -/
def TDM.TX_CLKMEAS.reg (n : Nat) : Nat := (0x8060 + 256 * n)
def TDM.TX_CLKMEAS.VALID (n : Nat) : Fld := ⟨(0x8060 + 256 * n), 31, 1⟩
def TDM.TX_CLKMEAS.HIGH (n : Nat) : Fld := ⟨(0x8060 + 256 * n), 16, 11⟩
def TDM.TX_CLKMEAS.LEN (n : Nat) : Fld := ⟨(0x8060 + 256 * n), 0, 11⟩
/-- TDMn.RX_CLKMEAS (R248). -/
def TDM.RX_CLKMEAS.reg (n : Nat) : Nat := (0x8064 + 256 * n)
def TDM.RX_CLKMEAS.VALID (n : Nat) : Fld := ⟨(0x8064 + 256 * n), 31, 1⟩
def TDM.RX_CLKMEAS.HIGH (n : Nat) : Fld := ⟨(0x8064 + 256 * n), 16, 11⟩
def TDM.RX_CLKMEAS.LEN (n : Nat) : Fld := ⟨(0x8064 + 256 * n), 0, 11⟩
/-- IMP.GEN (R268). -/
def IMP.GEN.reg : Nat := 0x9000
def IMP.GEN.FREQ : Fld := ⟨0x9000, 16, 16⟩
def IMP.GEN.ATTEN : Fld := ⟨0x9000, 0, 8⟩
/-- IMP.STAT (R268). -/
def IMP.STAT.reg : Nat := 0x9004
def IMP.STAT.USED : Fld := ⟨0x9004, 16, 14⟩
def IMP.STAT.XDOM : Fld := ⟨0x9004, 1, 1⟩
def IMP.STAT.REFUSED : Fld := ⟨0x9004, 0, 1⟩
/-- IMP.REFUSE_INFO (R268). -/
def IMP.REFUSE_INFO.reg : Nat := 0x9008
def IMP.REFUSE_INFO.DEST : Fld := ⟨0x9008, 16, 16⟩
def IMP.REFUSE_INFO.REASON : Fld := ⟨0x9008, 0, 8⟩
/-- IMP.XDOM_INFO (R268). -/
def IMP.XDOM_INFO.reg : Nat := 0x900c
def IMP.XDOM_INFO.DEST : Fld := ⟨0x900c, 16, 16⟩
def IMP.XDOM_INFO.HELD : Fld := ⟨0x900c, 0, 14⟩
/-- IMP.TABLE_CRC (R268). -/
def IMP.TABLE_CRC.reg : Nat := 0x9010
def IMP.TABLE_CRC.CRC : Fld := ⟨0x9010, 0, 32⟩
/-- IMP.REFUSED_CNT (R268). -/
def IMP.REFUSED_CNT.reg : Nat := 0x9014
def IMP.REFUSED_CNT.COUNT : Fld := ⟨0x9014, 0, 32⟩
/-- IMP.XDOM_CNT (R268). -/
def IMP.XDOM_CNT.reg : Nat := 0x9018
def IMP.XDOM_CNT.COUNT : Fld := ⟨0x9018, 0, 32⟩
/-- IMP.SAT (R268). -/
def IMP.SAT.reg : Nat := 0x901c
def IMP.SAT.SAT_F : Fld := ⟨0x901c, 0, 2⟩
/-- IMP.CNT_CLR (R268). -/
def IMP.CNT_CLR.reg : Nat := 0x9020
def IMP.CNT_CLR.CLR : Fld := ⟨0x9020, 0, 2⟩
/-- KRN.GSTAT (R269). -/
def KRN.GSTAT.reg : Nat := 0xa000
def KRN.GSTAT.SLEW_DONE_ANY : Fld := ⟨0xa000, 2, 1⟩
def KRN.GSTAT.SAT_ANY : Fld := ⟨0xa000, 1, 1⟩
def KRN.GSTAT.RANGE_ANY : Fld := ⟨0xa000, 0, 1⟩
/-- KRN.CNT_CLR (R269). -/
def KRN.CNT_CLR.reg : Nat := 0xa004
def KRN.CNT_CLR.ALL : Fld := ⟨0xa004, 31, 1⟩
def KRN.CNT_CLR.LANE : Fld := ⟨0xa004, 0, 8⟩
/-- KRN.Ln_CFG (R269). -/
def KRN.L_CFG.reg (n : Nat) : Nat := (0xa400 + 12 * n)
def KRN.L_CFG.MODE (n : Nat) : Fld := ⟨(0xa400 + 12 * n), 30, 2⟩
def KRN.L_CFG.OUT_MCS (n : Nat) : Fld := ⟨(0xa400 + 12 * n), 24, 3⟩
def KRN.L_CFG.IN_MCS (n : Nat) : Fld := ⟨(0xa400 + 12 * n), 20, 3⟩
/-- KRN.Ln_STAT (R269). -/
def KRN.L_STAT.reg (n : Nat) : Nat := (0xa404 + 12 * n)
def KRN.L_STAT.STATE (n : Nat) : Fld := ⟨(0xa404 + 12 * n), 28, 4⟩
def KRN.L_STAT.RANGE_EV (n : Nat) : Fld := ⟨(0xa404 + 12 * n), 27, 1⟩
def KRN.L_STAT.SLEW_DONE_EV (n : Nat) : Fld := ⟨(0xa404 + 12 * n), 26, 1⟩
def KRN.L_STAT.SAT (n : Nat) : Fld := ⟨(0xa404 + 12 * n), 25, 1⟩
def KRN.L_STAT.VALID (n : Nat) : Fld := ⟨(0xa404 + 12 * n), 24, 1⟩
def KRN.L_STAT.OVERFLOW (n : Nat) : Fld := ⟨(0xa404 + 12 * n), 0, 16⟩
/-- KRN.Ln_RATIO (R269). -/
def KRN.L_RATIO.reg (n : Nat) : Nat := (0xa408 + 12 * n)
def KRN.L_RATIO.RATIO (n : Nat) : Fld := ⟨(0xa408 + 12 * n), 0, 32⟩
/-- GAL.CFG (R292). -/
def GAL.CFG.reg : Nat := 0xb000
def GAL.CFG.PROT1 : Fld := ⟨0xb000, 1, 1⟩
def GAL.CFG.PROT0 : Fld := ⟨0xb000, 0, 1⟩
/-- GAL.POOL (R292). -/
def GAL.POOL.reg : Nat := 0xb004
def GAL.POOL.BUILD1 : Fld := ⟨0xb004, 31, 1⟩
def GAL.POOL.BUILD0 : Fld := ⟨0xb004, 30, 1⟩
def GAL.POOL.FREE : Fld := ⟨0xb004, 0, 18⟩
/-- GAL.SHARED (R292). -/
def GAL.SHARED.reg : Nat := 0xb008
def GAL.SHARED.SHARED_F : Fld := ⟨0xb008, 0, 18⟩
/-- GAL.LOW_WATER (R292). -/
def GAL.LOW_WATER.reg : Nat := 0xb00c
def GAL.LOW_WATER.CELLS : Fld := ⟨0xb00c, 0, 18⟩
/-- GAL.BUDGETk (R292). -/
def GAL.BUDGET.reg (n : Nat) : Nat := (0xb010 + 4 * n)
def GAL.BUDGET.CELLS (n : Nat) : Fld := ⟨(0xb010 + 4 * n), 0, 18⟩
/-- GAL.RESSUMk (R292). -/
def GAL.RESSUM.reg (n : Nat) : Nat := (0xb030 + 4 * n)
def GAL.RESSUM.CELLS (n : Nat) : Fld := ⟨(0xb030 + 4 * n), 0, 18⟩
/-- GAL.QSEL (R292). -/
def GAL.QSEL.reg : Nat := 0xb040
def GAL.QSEL.QUEUE : Fld := ⟨0xb040, 0, 10⟩
/-- GAL.Q_CFG (R292). -/
def GAL.Q_CFG.reg (i : Nat) : Nat := (itemKey 0xb044 i)
def GAL.Q_CFG.BE (i : Nat) : Fld := ⟨(itemKey 0xb044 i), 2, 1⟩
def GAL.Q_CFG.HALF (i : Nat) : Fld := ⟨(itemKey 0xb044 i), 0, 2⟩
/-- GAL.Q_RES (R292). -/
def GAL.Q_RES.reg (i : Nat) : Nat := (itemKey 0xb048 i)
def GAL.Q_RES.CELLS (i : Nat) : Fld := ⟨(itemKey 0xb048 i), 0, 18⟩
/-- GAL.Q_CAP (R292). -/
def GAL.Q_CAP.reg (i : Nat) : Nat := (itemKey 0xb04c i)
def GAL.Q_CAP.CELLS (i : Nat) : Fld := ⟨(itemKey 0xb04c i), 0, 18⟩
/-- GAL.Q_STAT (R292). -/
def GAL.Q_STAT.reg (i : Nat) : Nat := (itemKey 0xb050 i)
def GAL.Q_STAT.Q_SAT (i : Nat) : Fld := ⟨(itemKey 0xb050 i), 24, 1⟩
def GAL.Q_STAT.FLUSHING (i : Nat) : Fld := ⟨(itemKey 0xb050 i), 23, 1⟩
def GAL.Q_STAT.SLUG (i : Nat) : Fld := ⟨(itemKey 0xb050 i), 22, 1⟩
def GAL.Q_STAT.MARK (i : Nat) : Fld := ⟨(itemKey 0xb050 i), 21, 1⟩
def GAL.Q_STAT.OPEN (i : Nat) : Fld := ⟨(itemKey 0xb050 i), 20, 1⟩
def GAL.Q_STAT.HELD (i : Nat) : Fld := ⟨(itemKey 0xb050 i), 0, 18⟩
/-- GAL.Q_DEPTH (R292). -/
def GAL.Q_DEPTH.reg (i : Nat) : Nat := (itemKey 0xb054 i)
def GAL.Q_DEPTH.ITEMS (i : Nat) : Fld := ⟨(itemKey 0xb054 i), 0, 16⟩
/-- GAL.Q_DROPS (R292). -/
def GAL.Q_DROPS.reg (i : Nat) : Nat := (itemKey 0xb058 i)
def GAL.Q_DROPS.COUNT (i : Nat) : Fld := ⟨(itemKey 0xb058 i), 0, 32⟩
/-- GAL.Q_RWND (R292). -/
def GAL.Q_RWND.reg (i : Nat) : Nat := (itemKey 0xb05c i)
def GAL.Q_RWND.COUNT (i : Nat) : Fld := ⟨(itemKey 0xb05c i), 0, 32⟩
/-- GAL.FLUSH (R292). -/
def GAL.FLUSH.reg : Nat := 0xb060
def GAL.FLUSH.GO : Fld := ⟨0xb060, 31, 1⟩
def GAL.FLUSH.QUEUE : Fld := ⟨0xb060, 0, 10⟩
/-- GAL.FLUSH_STAT (R292). -/
def GAL.FLUSH_STAT.reg : Nat := 0xb064
def GAL.FLUSH_STAT.LAST_Q : Fld := ⟨0xb064, 16, 10⟩
def GAL.FLUSH_STAT.FLUSH_ABORT : Fld := ⟨0xb064, 2, 1⟩
def GAL.FLUSH_STAT.DONE : Fld := ⟨0xb064, 1, 1⟩
def GAL.FLUSH_STAT.BUSY : Fld := ⟨0xb064, 0, 1⟩
/-- GAL.SCRUB (R292). -/
def GAL.SCRUB.reg : Nat := 0xb070
def GAL.SCRUB.EN : Fld := ⟨0xb070, 31, 1⟩
def GAL.SCRUB.INTERVAL : Fld := ⟨0xb070, 0, 16⟩
/-- GAL.SCRUB_STAT (R292). -/
def GAL.SCRUB_STAT.reg : Nat := 0xb074
def GAL.SCRUB_STAT.RETIRE_FULL : Fld := ⟨0xb074, 27, 1⟩
def GAL.SCRUB_STAT.RETIRED : Fld := ⟨0xb074, 16, 11⟩
def GAL.SCRUB_STAT.PASSES : Fld := ⟨0xb074, 0, 16⟩
/-- GAL.EVT (R292). -/
def GAL.EVT.reg : Nat := 0xb080
def GAL.EVT.CFG_DROPPED : Fld := ⟨0xb080, 7, 1⟩
def GAL.EVT.ADMIT_REFUSED : Fld := ⟨0xb080, 6, 1⟩
def GAL.EVT.LINK_ERR : Fld := ⟨0xb080, 5, 1⟩
def GAL.EVT.UE : Fld := ⟨0xb080, 4, 1⟩
def GAL.EVT.CE : Fld := ⟨0xb080, 3, 1⟩
def GAL.EVT.PAR : Fld := ⟨0xb080, 2, 1⟩
def GAL.EVT.LOW : Fld := ⟨0xb080, 1, 1⟩
def GAL.EVT.DROP : Fld := ⟨0xb080, 0, 1⟩
/-- GAL.ERR_ADDR (R292). -/
def GAL.ERR_ADDR.reg : Nat := 0xb084
def GAL.ERR_ADDR.KIND : Fld := ⟨0xb084, 28, 4⟩
def GAL.ERR_ADDR.WORD : Fld := ⟨0xb084, 17, 3⟩
def GAL.ERR_ADDR.CELL : Fld := ⟨0xb084, 0, 17⟩
/-- GAL.PAR_CNT (R292). -/
def GAL.PAR_CNT.reg (n : Nat) : Nat := (0xb090 + 4 * n)
def GAL.PAR_CNT.COUNT (n : Nat) : Fld := ⟨(0xb090 + 4 * n), 0, 32⟩
/-- GAL.CE_CNT (R292). -/
def GAL.CE_CNT.reg : Nat := 0xb098
def GAL.CE_CNT.COUNT : Fld := ⟨0xb098, 0, 32⟩
/-- GAL.UE_CNT (R292). -/
def GAL.UE_CNT.reg : Nat := 0xb09c
def GAL.UE_CNT.COUNT : Fld := ⟨0xb09c, 0, 32⟩
/-- GAL.DROP_CNT (R292). -/
def GAL.DROP_CNT.reg : Nat := 0xb0a0
def GAL.DROP_CNT.COUNT : Fld := ⟨0xb0a0, 0, 32⟩
/-- GAL.RWND_CNT (R292). -/
def GAL.RWND_CNT.reg : Nat := 0xb0a4
def GAL.RWND_CNT.COUNT : Fld := ⟨0xb0a4, 0, 32⟩
/-- GAL.LINK_CNT (R292). -/
def GAL.LINK_CNT.reg : Nat := 0xb0a8
def GAL.LINK_CNT.COUNT : Fld := ⟨0xb0a8, 0, 32⟩
/-- GAL.SAT (R292). -/
def GAL.SAT.reg : Nat := 0xb0b0
def GAL.SAT.SAT_F : Fld := ⟨0xb0b0, 0, 7⟩
/-- GAL.CNT_CLR (R292). -/
def GAL.CNT_CLR.reg : Nat := 0xb0b4
def GAL.CNT_CLR.QSEL_CNT : Fld := ⟨0xb0b4, 31, 1⟩
def GAL.CNT_CLR.CLR : Fld := ⟨0xb0b4, 0, 7⟩
/-- GAL.RESSUM4 (R292). -/
def GAL.RESSUM4.reg : Nat := 0xb0b8
def GAL.RESSUM4.CELLS : Fld := ⟨0xb0b8, 0, 18⟩
/-- GAL.DIAG (R292). -/
def GAL.DIAG.reg : Nat := 0xb0c0
def GAL.DIAG.WIN_EN : Fld := ⟨0xb0c0, 31, 1⟩
/-- GAL.INJECT (R292). -/
def GAL.INJECT.reg : Nat := 0xb0c4
def GAL.INJECT.ARM : Fld := ⟨0xb0c4, 31, 1⟩
def GAL.INJECT.BIT : Fld := ⟨0xb0c4, 24, 7⟩
def GAL.INJECT.WORD : Fld := ⟨0xb0c4, 17, 3⟩
def GAL.INJECT.CELL : Fld := ⟨0xb0c4, 0, 17⟩
/-- RXF.FSEL (R316). -/
def RXF.FSEL.reg : Nat := 0xc000
def RXF.FSEL.FLOW : Fld := ⟨0xc000, 0, 8⟩
/-- RXF.CLS_STAT (R316). -/
def RXF.CLS_STAT.reg : Nat := 0xc004
def RXF.CLS_STAT.REFUSED : Fld := ⟨0xc004, 31, 1⟩
def RXF.CLS_STAT.REASON : Fld := ⟨0xc004, 28, 3⟩
def RXF.CLS_STAT.CAM : Fld := ⟨0xc004, 27, 1⟩
def RXF.CLS_STAT.PLACE : Fld := ⟨0xc004, 12, 12⟩
def RXF.CLS_STAT.KEYS : Fld := ⟨0xc004, 0, 12⟩
/-- RXF.CLS_DUP (R316). -/
def RXF.CLS_DUP.reg : Nat := 0xc008
def RXF.CLS_DUP.COUNT : Fld := ⟨0xc008, 0, 32⟩
/-- RXF.CLS_DROP (R316). -/
def RXF.CLS_DROP.reg : Nat := 0xc00c
def RXF.CLS_DROP.COUNT : Fld := ⟨0xc00c, 0, 32⟩
/-- RXF.PENDk (R316). -/
def RXF.PEND.reg (n : Nat) : Nat := (0xc010 + 4 * n)
def RXF.PEND.FLOW (n : Nat) : Fld := ⟨(0xc010 + 4 * n), 0, 32⟩
/-- RXF.F_CFG (R316). -/
def RXF.F_CFG.reg (i : Nat) : Nat := (itemKey 0xc100 i)
def RXF.F_CFG.EN (i : Nat) : Fld := ⟨(itemKey 0xc100 i), 31, 1⟩
def RXF.F_CFG.FORMAT (i : Nat) : Fld := ⟨(itemKey 0xc100 i), 27, 4⟩
def RXF.F_CFG.PTIME (i : Nat) : Fld := ⟨(itemKey 0xc100 i), 24, 3⟩
def RXF.F_CFG.MCS (i : Nat) : Fld := ⟨(itemKey 0xc100 i), 21, 3⟩
def RXF.F_CFG.PATHS (i : Nat) : Fld := ⟨(itemKey 0xc100 i), 19, 2⟩
def RXF.F_CFG.AVTP (i : Nat) : Fld := ⟨(itemKey 0xc100 i), 18, 1⟩
def RXF.F_CFG.CONCEAL (i : Nat) : Fld := ⟨(itemKey 0xc100 i), 16, 2⟩
def RXF.F_CFG.ADAPT (i : Nat) : Fld := ⟨(itemKey 0xc100 i), 15, 1⟩
def RXF.F_CFG.ALIGN_EN (i : Nat) : Fld := ⟨(itemKey 0xc100 i), 14, 1⟩
def RXF.F_CFG.ALIGN (i : Nat) : Fld := ⟨(itemKey 0xc100 i), 10, 4⟩
def RXF.F_CFG.PTI (i : Nat) : Fld := ⟨(itemKey 0xc100 i), 8, 2⟩
def RXF.F_CFG.LANE (i : Nat) : Fld := ⟨(itemKey 0xc100 i), 0, 8⟩
/-- RXF.F_CHAN (R316). -/
def RXF.F_CHAN.reg (i : Nat) : Nat := (itemKey 0xc104 i)
def RXF.F_CHAN.BASE (i : Nat) : Fld := ⟨(itemKey 0xc104 i), 16, 11⟩
def RXF.F_CHAN.PT (i : Nat) : Fld := ⟨(itemKey 0xc104 i), 8, 8⟩
def RXF.F_CHAN.CHANNELS (i : Nat) : Fld := ⟨(itemKey 0xc104 i), 0, 7⟩
/-- RXF.F_OFFSET (R316). -/
def RXF.F_OFFSET.reg (i : Nat) : Nat := (itemKey 0xc108 i)
def RXF.F_OFFSET.SAMPLES (i : Nat) : Fld := ⟨(itemKey 0xc108 i), 0, 24⟩
/-- RXF.F_DEPTH (R316). -/
def RXF.F_DEPTH.reg (i : Nat) : Nat := (itemKey 0xc10c i)
def RXF.F_DEPTH.US (i : Nat) : Fld := ⟨(itemKey 0xc10c i), 0, 17⟩
/-- RXF.F_RTPOFF (R316). -/
def RXF.F_RTPOFF.reg (i : Nat) : Nat := (itemKey 0xc110 i)
def RXF.F_RTPOFF.OFFSET (i : Nat) : Fld := ⟨(itemKey 0xc110 i), 0, 32⟩
/-- RXF.F_PLC (R316). -/
def RXF.F_PLC.reg (i : Nat) : Nat := (itemKey 0xc114 i)
def RXF.F_PLC.WIN (i : Nat) : Fld := ⟨(itemKey 0xc114 i), 28, 4⟩
def RXF.F_PLC.RATE_PPM (i : Nat) : Fld := ⟨(itemKey 0xc114 i), 16, 10⟩
def RXF.F_PLC.BIN_US (i : Nat) : Fld := ⟨(itemKey 0xc114 i), 0, 8⟩
/-- RXF.F_TGT (R316). -/
def RXF.F_TGT.reg (i : Nat) : Nat := (itemKey 0xc118 i)
def RXF.F_TGT.HI_US (i : Nat) : Fld := ⟨(itemKey 0xc118 i), 16, 16⟩
def RXF.F_TGT.LO_US (i : Nat) : Fld := ⟨(itemKey 0xc118 i), 0, 16⟩
/-- RXF.F_STAT (R316). -/
def RXF.F_STAT.reg (i : Nat) : Nat := (itemKey 0xc11c i)
def RXF.F_STAT.STATE (i : Nat) : Fld := ⟨(itemKey 0xc11c i), 28, 4⟩
def RXF.F_STAT.LIMIT_EV (i : Nat) : Fld := ⟨(itemKey 0xc11c i), 11, 1⟩
def RXF.F_STAT.SLEW_EV (i : Nat) : Fld := ⟨(itemKey 0xc11c i), 10, 1⟩
def RXF.F_STAT.CFG_DROPPED (i : Nat) : Fld := ⟨(itemKey 0xc11c i), 9, 1⟩
def RXF.F_STAT.CFG_BAD (i : Nat) : Fld := ⟨(itemKey 0xc11c i), 8, 1⟩
def RXF.F_STAT.REJOIN_EV (i : Nat) : Fld := ⟨(itemKey 0xc11c i), 7, 1⟩
def RXF.F_STAT.CONCEAL_EV (i : Nat) : Fld := ⟨(itemKey 0xc11c i), 6, 1⟩
def RXF.F_STAT.STALE_EV (i : Nat) : Fld := ⟨(itemKey 0xc11c i), 5, 1⟩
def RXF.F_STAT.EARLY_EV (i : Nat) : Fld := ⟨(itemKey 0xc11c i), 4, 1⟩
def RXF.F_STAT.LATE_EV (i : Nat) : Fld := ⟨(itemKey 0xc11c i), 3, 1⟩
def RXF.F_STAT.STATE_EV (i : Nat) : Fld := ⟨(itemKey 0xc11c i), 2, 1⟩
def RXF.F_STAT.SLEWING (i : Nat) : Fld := ⟨(itemKey 0xc11c i), 1, 1⟩
/-- RXF.F_MIN (R316). -/
def RXF.F_MIN.reg (i : Nat) : Nat := (itemKey 0xc120 i)
def RXF.F_MIN.NS (i : Nat) : Fld := ⟨(itemKey 0xc120 i), 0, 32⟩
/-- RXF.F_MEAN (R316). -/
def RXF.F_MEAN.reg (i : Nat) : Nat := (itemKey 0xc124 i)
def RXF.F_MEAN.NS (i : Nat) : Fld := ⟨(itemKey 0xc124 i), 0, 32⟩
/-- RXF.F_HISTk (R316). -/
def RXF.F_HIST.reg (n i : Nat) : Nat := (itemKey (0xc128 + 4 * n) i)
def RXF.F_HIST.ODD (n i : Nat) : Fld := ⟨(itemKey (0xc128 + 4 * n) i), 16, 16⟩
def RXF.F_HIST.EVEN (n i : Nat) : Fld := ⟨(itemKey (0xc128 + 4 * n) i), 0, 16⟩
/-- RXF.F_OFFSET_NOW (R316). -/
def RXF.F_OFFSET_NOW.reg (i : Nat) : Nat := (itemKey 0xc148 i)
def RXF.F_OFFSET_NOW.SAMPLES (i : Nat) : Fld := ⟨(itemKey 0xc148 i), 0, 24⟩
/-- RXF.F_LATE (R316). -/
def RXF.F_LATE.reg (i : Nat) : Nat := (itemKey 0xc150 i)
def RXF.F_LATE.COUNT (i : Nat) : Fld := ⟨(itemKey 0xc150 i), 0, 32⟩
/-- RXF.F_EARLY (R316). -/
def RXF.F_EARLY.reg (i : Nat) : Nat := (itemKey 0xc154 i)
def RXF.F_EARLY.COUNT (i : Nat) : Fld := ⟨(itemKey 0xc154 i), 0, 32⟩
/-- RXF.F_STALE (R316). -/
def RXF.F_STALE.reg (i : Nat) : Nat := (itemKey 0xc158 i)
def RXF.F_STALE.COUNT (i : Nat) : Fld := ⟨(itemKey 0xc158 i), 0, 32⟩
/-- RXF.F_BADLEN (R316). -/
def RXF.F_BADLEN.reg (i : Nat) : Nat := (itemKey 0xc15c i)
def RXF.F_BADLEN.COUNT (i : Nat) : Fld := ⟨(itemKey 0xc15c i), 0, 32⟩
/-- RXF.F_BADPT (R316). -/
def RXF.F_BADPT.reg (i : Nat) : Nat := (itemKey 0xc160 i)
def RXF.F_BADPT.COUNT (i : Nat) : Fld := ⟨(itemKey 0xc160 i), 0, 32⟩
/-- RXF.F_CONCEALED (R316). -/
def RXF.F_CONCEALED.reg (i : Nat) : Nat := (itemKey 0xc164 i)
def RXF.F_CONCEALED.COUNT (i : Nat) : Fld := ⟨(itemKey 0xc164 i), 0, 32⟩
/-- RXF.F_POISONED (R316). -/
def RXF.F_POISONED.reg (i : Nat) : Nat := (itemKey 0xc168 i)
def RXF.F_POISONED.COUNT (i : Nat) : Fld := ⟨(itemKey 0xc168 i), 0, 32⟩
/-- RXF.F_SAT (R316). -/
def RXF.F_SAT.reg (i : Nat) : Nat := (itemKey 0xc16c i)
def RXF.F_SAT.SAT (i : Nat) : Fld := ⟨(itemKey 0xc16c i), 0, 7⟩
/-- RXF.F_CNT_CLR (R316). -/
def RXF.F_CNT_CLR.reg (i : Nat) : Nat := (itemKey 0xc170 i)
def RXF.F_CNT_CLR.CLS_DROP (i : Nat) : Fld := ⟨(itemKey 0xc170 i), 9, 1⟩
def RXF.F_CNT_CLR.CLS_DUP (i : Nat) : Fld := ⟨(itemKey 0xc170 i), 8, 1⟩
def RXF.F_CNT_CLR.STATS (i : Nat) : Fld := ⟨(itemKey 0xc170 i), 7, 1⟩
def RXF.F_CNT_CLR.CLR (i : Nat) : Fld := ⟨(itemKey 0xc170 i), 0, 7⟩
/-- TXF.FSEL (R334). -/
def TXF.FSEL.reg : Nat := 0xd000
def TXF.FSEL.FLOW : Fld := ⟨0xd000, 0, 8⟩
/-- TXF.PORT (R334). -/
def TXF.PORT.reg (n : Nat) : Nat := (0xd004 + 4 * n)
def TXF.PORT.PRIME_MCS (n : Nat) : Fld := ⟨(0xd004 + 4 * n), 24, 3⟩
def TXF.PORT.RATE_PCT (n : Nat) : Fld := ⟨(0xd004 + 4 * n), 16, 8⟩
/-- TXF.SHAPE_A (R334). -/
def TXF.SHAPE_A.reg (n : Nat) : Nat := (0xd010 + 8 * n)
def TXF.SHAPE_A.IDLE (n : Nat) : Fld := ⟨(0xd010 + 8 * n), 0, 32⟩
/-- TXF.SHAPE_B (R334). -/
def TXF.SHAPE_B.reg (n : Nat) : Nat := (0xd014 + 8 * n)
def TXF.SHAPE_B.IDLE (n : Nat) : Fld := ⟨(0xd014 + 8 * n), 0, 32⟩
/-- TXF.LOAD (R334). -/
def TXF.LOAD.reg (n : Nat) : Nat := (0xd020 + 4 * n)
def TXF.LOAD.RATE (n : Nat) : Fld := ⟨(0xd020 + 4 * n), 16, 16⟩
def TXF.LOAD.PRIME_FREE (n : Nat) : Fld := ⟨(0xd020 + 4 * n), 0, 16⟩
/-- TXF.PENDk (R334). -/
def TXF.PEND.reg (n : Nat) : Nat := (0xd030 + 4 * n)
def TXF.PEND.FLOW (n : Nat) : Fld := ⟨(0xd030 + 4 * n), 0, 32⟩
/-- TXF.F_CFG (R334). -/
def TXF.F_CFG.reg (i : Nat) : Nat := (itemKey 0xd100 i)
def TXF.F_CFG.EN (i : Nat) : Fld := ⟨(itemKey 0xd100 i), 31, 1⟩
def TXF.F_CFG.FORMAT (i : Nat) : Fld := ⟨(itemKey 0xd100 i), 27, 4⟩
def TXF.F_CFG.PTIME (i : Nat) : Fld := ⟨(itemKey 0xd100 i), 24, 3⟩
def TXF.F_CFG.MCS (i : Nat) : Fld := ⟨(itemKey 0xd100 i), 21, 3⟩
def TXF.F_CFG.PATHS (i : Nat) : Fld := ⟨(itemKey 0xd100 i), 19, 2⟩
def TXF.F_CFG.AVTP (i : Nat) : Fld := ⟨(itemKey 0xd100 i), 18, 1⟩
def TXF.F_CFG.CONCEAL (i : Nat) : Fld := ⟨(itemKey 0xd100 i), 16, 2⟩
def TXF.F_CFG.TIER (i : Nat) : Fld := ⟨(itemKey 0xd100 i), 15, 1⟩
def TXF.F_CFG.CLASS (i : Nat) : Fld := ⟨(itemKey 0xd100 i), 13, 2⟩
def TXF.F_CFG.FUNNEL (i : Nat) : Fld := ⟨(itemKey 0xd100 i), 12, 1⟩
def TXF.F_CFG.PTI (i : Nat) : Fld := ⟨(itemKey 0xd100 i), 8, 2⟩
/-- TXF.F_CHAN (R334). -/
def TXF.F_CHAN.reg (i : Nat) : Nat := (itemKey 0xd104 i)
def TXF.F_CHAN.BASE (i : Nat) : Fld := ⟨(itemKey 0xd104 i), 16, 11⟩
def TXF.F_CHAN.TLEN (i : Nat) : Fld := ⟨(itemKey 0xd104 i), 8, 8⟩
def TXF.F_CHAN.CHANNELS (i : Nat) : Fld := ⟨(itemKey 0xd104 i), 0, 7⟩
/-- TXF.F_PHASE (R334). -/
def TXF.F_PHASE.reg (i : Nat) : Nat := (itemKey 0xd108 i)
def TXF.F_PHASE.ALIGN (i : Nat) : Fld := ⟨(itemKey 0xd108 i), 22, 10⟩
def TXF.F_PHASE.E_NS (i : Nat) : Fld := ⟨(itemKey 0xd108 i), 0, 16⟩
/-- TXF.F_FOLIO (R334). -/
def TXF.F_FOLIO.reg (i : Nat) : Nat := (itemKey 0xd10c i)
def TXF.F_FOLIO.NOW (i : Nat) : Fld := ⟨(itemKey 0xd10c i), 16, 16⟩
def TXF.F_FOLIO.NEXT (i : Nat) : Fld := ⟨(itemKey 0xd10c i), 0, 16⟩
/-- TXF.F_RTPOFF (R334). -/
def TXF.F_RTPOFF.reg (i : Nat) : Nat := (itemKey 0xd110 i)
def TXF.F_RTPOFF.VALUE (i : Nat) : Fld := ⟨(itemKey 0xd110 i), 0, 32⟩
/-- TXF.F_TRANSIT (R334). -/
def TXF.F_TRANSIT.reg (i : Nat) : Nat := (itemKey 0xd114 i)
def TXF.F_TRANSIT.VALUE (i : Nat) : Fld := ⟨(itemKey 0xd114 i), 0, 32⟩
/-- TXF.F_STAT (R334). -/
def TXF.F_STAT.reg (i : Nat) : Nat := (itemKey 0xd118 i)
def TXF.F_STAT.STATE (i : Nat) : Fld := ⟨(itemKey 0xd118 i), 28, 4⟩
def TXF.F_STAT.SLIP_EV (i : Nat) : Fld := ⟨(itemKey 0xd118 i), 6, 1⟩
def TXF.F_STAT.CFG_DROPPED (i : Nat) : Fld := ⟨(itemKey 0xd118 i), 5, 1⟩
def TXF.F_STAT.CFG_BAD (i : Nat) : Fld := ⟨(itemKey 0xd118 i), 4, 1⟩
def TXF.F_STAT.LINKDROP_EV (i : Nat) : Fld := ⟨(itemKey 0xd118 i), 3, 1⟩
def TXF.F_STAT.LATE_EV (i : Nat) : Fld := ⟨(itemKey 0xd118 i), 2, 1⟩
def TXF.F_STAT.UNDERRUN_EV (i : Nat) : Fld := ⟨(itemKey 0xd118 i), 1, 1⟩
def TXF.F_STAT.STATE_EV (i : Nat) : Fld := ⟨(itemKey 0xd118 i), 0, 1⟩
/-- TXF.F_UNDERRUN (R334). -/
def TXF.F_UNDERRUN.reg (i : Nat) : Nat := (itemKey 0xd120 i)
def TXF.F_UNDERRUN.COUNT (i : Nat) : Fld := ⟨(itemKey 0xd120 i), 0, 32⟩
/-- TXF.F_LATE (R334). -/
def TXF.F_LATE.reg (i : Nat) : Nat := (itemKey 0xd124 i)
def TXF.F_LATE.COUNT (i : Nat) : Fld := ⟨(itemKey 0xd124 i), 0, 32⟩
/-- TXF.F_CONCEALED (R334). -/
def TXF.F_CONCEALED.reg (i : Nat) : Nat := (itemKey 0xd128 i)
def TXF.F_CONCEALED.COUNT (i : Nat) : Fld := ⟨(itemKey 0xd128 i), 0, 32⟩
/-- TXF.F_LINKDROP (R334). -/
def TXF.F_LINKDROP.reg (i : Nat) : Nat := (itemKey 0xd12c i)
def TXF.F_LINKDROP.COUNT (i : Nat) : Fld := ⟨(itemKey 0xd12c i), 0, 32⟩
/-- TXF.F_POISONED (R334). -/
def TXF.F_POISONED.reg (i : Nat) : Nat := (itemKey 0xd130 i)
def TXF.F_POISONED.COUNT (i : Nat) : Fld := ⟨(itemKey 0xd130 i), 0, 32⟩
/-- TXF.F_SLIPPED (R334). -/
def TXF.F_SLIPPED.reg (i : Nat) : Nat := (itemKey 0xd134 i)
def TXF.F_SLIPPED.COUNT (i : Nat) : Fld := ⟨(itemKey 0xd134 i), 0, 32⟩
/-- TXF.F_SAT (R334). -/
def TXF.F_SAT.reg (i : Nat) : Nat := (itemKey 0xd138 i)
def TXF.F_SAT.SAT (i : Nat) : Fld := ⟨(itemKey 0xd138 i), 0, 6⟩
/-- TXF.F_CNT_CLR (R334). -/
def TXF.F_CNT_CLR.reg (i : Nat) : Nat := (itemKey 0xd13c i)
def TXF.F_CNT_CLR.CLR (i : Nat) : Fld := ⟨(itemKey 0xd13c i), 0, 6⟩
/-- TXF.F_TMPLk (R334). -/
def TXF.F_TMPL.reg (n i : Nat) : Nat := (itemKey (0xd200 + 4 * n) i)
def TXF.F_TMPL.BYTES (n i : Nat) : Fld := ⟨(itemKey (0xd200 + 4 * n) i), 0, 32⟩
/-- TXF.FUNj_CFG (R334). -/
def TXF.FUN_CFG.reg (n : Nat) : Nat := (0xd800 + 16 * n)
def TXF.FUN_CFG.EN (n : Nat) : Fld := ⟨(0xd800 + 16 * n), 31, 1⟩
def TXF.FUN_CFG.MEMBER (n : Nat) : Fld := ⟨(0xd800 + 16 * n), 28, 3⟩
def TXF.FUN_CFG.FLOW (n : Nat) : Fld := ⟨(0xd800 + 16 * n), 20, 8⟩
def TXF.FUN_CFG.PATHS (n : Nat) : Fld := ⟨(0xd800 + 16 * n), 18, 2⟩
def TXF.FUN_CFG.DEFER (n : Nat) : Fld := ⟨(0xd800 + 16 * n), 14, 4⟩
/-- TXF.FUNj_PHASE (R334). -/
def TXF.FUN_PHASE.reg (n : Nat) : Nat := (0xd804 + 16 * n)
def TXF.FUN_PHASE.PHASE (n : Nat) : Fld := ⟨(0xd804 + 16 * n), 0, 32⟩
/-- TXF.FUNj_STAT (R334). -/
def TXF.FUN_STAT.reg (n : Nat) : Nat := (0xd808 + 16 * n)
def TXF.FUN_STAT.FUN_LATE_EV (n : Nat) : Fld := ⟨(0xd808 + 16 * n), 31, 1⟩
def TXF.FUN_STAT.FUN_LATE (n : Nat) : Fld := ⟨(0xd808 + 16 * n), 0, 16⟩
/-- TXF.FUNj_CLR (R334). -/
def TXF.FUN_CLR.reg (n : Nat) : Nat := (0xd80c + 16 * n)
def TXF.FUN_CLR.CLR (n : Nat) : Fld := ⟨(0xd80c + 16 * n), 0, 1⟩
/-- NET.CFG (R317). -/
def NET.CFG.reg (n : Nat) : Nat := (0xe000 + 2048 * n)
def NET.CFG.MODE (n : Nat) : Fld := ⟨(0xe000 + 2048 * n), 29, 3⟩
def NET.CFG.FEC (n : Nat) : Fld := ⟨(0xe000 + 2048 * n), 27, 2⟩
def NET.CFG.AN_EN (n : Nat) : Fld := ⟨(0xe000 + 2048 * n), 26, 1⟩
def NET.CFG.EEE_EN (n : Nat) : Fld := ⟨(0xe000 + 2048 * n), 25, 1⟩
def NET.CFG.MAX_DATA (n : Nat) : Fld := ⟨(0xe000 + 2048 * n), 0, 14⟩
/-- NET.STAT (R317). -/
def NET.STAT.reg (n : Nat) : Nat := (0xe004 + 2048 * n)
def NET.STAT.STATE (n : Nat) : Fld := ⟨(0xe004 + 2048 * n), 28, 4⟩
def NET.STAT.FEC_LOCK (n : Nat) : Fld := ⟨(0xe004 + 2048 * n), 27, 1⟩
def NET.STAT.CFG_BAD (n : Nat) : Fld := ⟨(0xe004 + 2048 * n), 4, 1⟩
def NET.STAT.AN_EV (n : Nat) : Fld := ⟨(0xe004 + 2048 * n), 3, 1⟩
def NET.STAT.ERR_EV (n : Nat) : Fld := ⟨(0xe004 + 2048 * n), 2, 1⟩
def NET.STAT.LINK_EV (n : Nat) : Fld := ⟨(0xe004 + 2048 * n), 1, 1⟩
def NET.STAT.LINK_UP (n : Nat) : Fld := ⟨(0xe004 + 2048 * n), 0, 1⟩
/-- NET.MAC_LO (R317). -/
def NET.MAC_LO.reg (n : Nat) : Nat := (0xe008 + 2048 * n)
def NET.MAC_LO.ADDR (n : Nat) : Fld := ⟨(0xe008 + 2048 * n), 0, 32⟩
/-- NET.MAC_HI (R317). -/
def NET.MAC_HI.reg (n : Nat) : Nat := (0xe00c + 2048 * n)
def NET.MAC_HI.ADDR (n : Nat) : Fld := ⟨(0xe00c + 2048 * n), 0, 32⟩
/-- NET.FCS_ERR (R317). -/
def NET.FCS_ERR.reg (n : Nat) : Nat := (0xe010 + 2048 * n)
def NET.FCS_ERR.COUNT (n : Nat) : Fld := ⟨(0xe010 + 2048 * n), 0, 32⟩
/-- NET.LEN_ERR (R317). -/
def NET.LEN_ERR.reg (n : Nat) : Nat := (0xe014 + 2048 * n)
def NET.LEN_ERR.COUNT (n : Nat) : Fld := ⟨(0xe014 + 2048 * n), 0, 32⟩
/-- NET.HDR_ERR (R317). -/
def NET.HDR_ERR.reg (n : Nat) : Nat := (0xe018 + 2048 * n)
def NET.HDR_ERR.COUNT (n : Nat) : Fld := ⟨(0xe018 + 2048 * n), 0, 32⟩
/-- NET.UNMATCHED (R317). -/
def NET.UNMATCHED.reg (n : Nat) : Nat := (0xe01c + 2048 * n)
def NET.UNMATCHED.COUNT (n : Nat) : Fld := ⟨(0xe01c + 2048 * n), 0, 32⟩
/-- NET.MACCTL (R317). -/
def NET.MACCTL.reg (n : Nat) : Nat := (0xe020 + 2048 * n)
def NET.MACCTL.COUNT (n : Nat) : Fld := ⟨(0xe020 + 2048 * n), 0, 32⟩
/-- NET.DOZE_DROP (R317). -/
def NET.DOZE_DROP.reg (n : Nat) : Nat := (0xe024 + 2048 * n)
def NET.DOZE_DROP.COUNT (n : Nat) : Fld := ⟨(0xe024 + 2048 * n), 0, 32⟩
/-- NET.FEC_CORR (R317). -/
def NET.FEC_CORR.reg (n : Nat) : Nat := (0xe028 + 2048 * n)
def NET.FEC_CORR.COUNT (n : Nat) : Fld := ⟨(0xe028 + 2048 * n), 0, 32⟩
/-- NET.FEC_UNCORR (R317). -/
def NET.FEC_UNCORR.reg (n : Nat) : Nat := (0xe02c + 2048 * n)
def NET.FEC_UNCORR.COUNT (n : Nat) : Fld := ⟨(0xe02c + 2048 * n), 0, 32⟩
/-- NET.SAT (R317). -/
def NET.SAT.reg (n : Nat) : Nat := (0xe040 + 2048 * n)
def NET.SAT.SAT_F (n : Nat) : Fld := ⟨(0xe040 + 2048 * n), 0, 8⟩
/-- NET.CNT_CLR (R317). -/
def NET.CNT_CLR.reg (n : Nat) : Nat := (0xe044 + 2048 * n)
def NET.CNT_CLR.CLR (n : Nat) : Fld := ⟨(0xe044 + 2048 * n), 0, 8⟩
/-- RED.FSEL (R350). -/
def RED.FSEL.reg : Nat := 0x10000
def RED.FSEL.FLOW : Fld := ⟨0x10000, 0, 8⟩
/-- RED.TSEL (R350). -/
def RED.TSEL.reg : Nat := 0x10004
def RED.TSEL.FLOW : Fld := ⟨0x10004, 0, 8⟩
/-- RED.CFG (R350). -/
def RED.CFG.reg : Nat := 0x10008
def RED.CFG.SKEW_TH_US : Fld := ⟨0x10008, 16, 16⟩
def RED.CFG.RETURN_PKTS : Fld := ⟨0x10008, 8, 8⟩
def RED.CFG.LOSS_PP : Fld := ⟨0x10008, 0, 8⟩
/-- RED.PENDm (R350). -/
def RED.PEND.reg (n : Nat) : Nat := (0x10010 + 4 * n)
def RED.PEND.FLOW (n : Nat) : Fld := ⟨(0x10010 + 4 * n), 0, 32⟩
/-- RED.F_CFG (R350). -/
def RED.F_CFG.reg (i : Nat) : Nat := (itemKey 0x10100 i)
def RED.F_CFG.REPAIR (i : Nat) : Fld := ⟨(itemKey 0x10100 i), 3, 1⟩
def RED.F_CFG.PREF (i : Nat) : Fld := ⟨(itemKey 0x10100 i), 0, 2⟩
/-- RED.F_STAT (R350). -/
def RED.F_STAT.reg (i : Nat) : Nat := (itemKey 0x10104 i)
def RED.F_STAT.STATE_B (i : Nat) : Fld := ⟨(itemKey 0x10104 i), 28, 4⟩
def RED.F_STAT.STATE_A (i : Nat) : Fld := ⟨(itemKey 0x10104 i), 24, 4⟩
def RED.F_STAT.FOLIO_EV (i : Nat) : Fld := ⟨(itemKey 0x10104 i), 7, 1⟩
def RED.F_STAT.ALIGN_EV (i : Nat) : Fld := ⟨(itemKey 0x10104 i), 6, 1⟩
def RED.F_STAT.SKEW_EV (i : Nat) : Fld := ⟨(itemKey 0x10104 i), 5, 1⟩
def RED.F_STAT.RET_B_EV (i : Nat) : Fld := ⟨(itemKey 0x10104 i), 4, 1⟩
def RED.F_STAT.RET_A_EV (i : Nat) : Fld := ⟨(itemKey 0x10104 i), 3, 1⟩
def RED.F_STAT.LOST_B_EV (i : Nat) : Fld := ⟨(itemKey 0x10104 i), 2, 1⟩
def RED.F_STAT.LOST_A_EV (i : Nat) : Fld := ⟨(itemKey 0x10104 i), 1, 1⟩
/-- RED.F_SKEW (R350). -/
def RED.F_SKEW.reg (i : Nat) : Nat := (itemKey 0x10108 i)
def RED.F_SKEW.NS (i : Nat) : Fld := ⟨(itemKey 0x10108 i), 0, 32⟩
/-- RED.F_SKEW_MAX (R350). -/
def RED.F_SKEW_MAX.reg (i : Nat) : Nat := (itemKey 0x1010c i)
def RED.F_SKEW_MAX.NS (i : Nat) : Fld := ⟨(itemKey 0x1010c i), 0, 32⟩
/-- RED.F_MIN (R350). -/
def RED.F_MIN.reg (n i : Nat) : Nat := (itemKey (0x10110 + 4 * n) i)
def RED.F_MIN.NS (n i : Nat) : Fld := ⟨(itemKey (0x10110 + 4 * n) i), 0, 32⟩
/-- RED.F_TAKEN (R350). -/
def RED.F_TAKEN.reg (n i : Nat) : Nat := (itemKey (0x10120 + 4 * n) i)
def RED.F_TAKEN.COUNT (n i : Nat) : Fld := ⟨(itemKey (0x10120 + 4 * n) i), 0, 32⟩
/-- RED.F_MISS (R350). -/
def RED.F_MISS.reg (n i : Nat) : Nat := (itemKey (0x10128 + 4 * n) i)
def RED.F_MISS.COUNT (n i : Nat) : Fld := ⟨(itemKey (0x10128 + 4 * n) i), 0, 32⟩
/-- RED.F_MISS_BOTH (R350). -/
def RED.F_MISS_BOTH.reg (i : Nat) : Nat := (itemKey 0x10130 i)
def RED.F_MISS_BOTH.COUNT (i : Nat) : Fld := ⟨(itemKey 0x10130 i), 0, 32⟩
/-- RED.F_REPAIRED (R350). -/
def RED.F_REPAIRED.reg (i : Nat) : Nat := (itemKey 0x10134 i)
def RED.F_REPAIRED.COUNT (i : Nat) : Fld := ⟨(itemKey 0x10134 i), 0, 32⟩
/-- RED.F_FOLIO_DIFF (R350). -/
def RED.F_FOLIO_DIFF.reg (i : Nat) : Nat := (itemKey 0x10138 i)
def RED.F_FOLIO_DIFF.COUNT (i : Nat) : Fld := ⟨(itemKey 0x10138 i), 0, 32⟩
/-- RED.F_ALIGN_DIFF (R350). -/
def RED.F_ALIGN_DIFF.reg (i : Nat) : Nat := (itemKey 0x1013c i)
def RED.F_ALIGN_DIFF.COUNT (i : Nat) : Fld := ⟨(itemKey 0x1013c i), 0, 32⟩
/-- RED.F_SAT (R350). -/
def RED.F_SAT.reg (i : Nat) : Nat := (itemKey 0x10140 i)
def RED.F_SAT.SAT (i : Nat) : Fld := ⟨(itemKey 0x10140 i), 0, 8⟩
/-- RED.F_CNT_CLR (R350). -/
def RED.F_CNT_CLR.reg (i : Nat) : Nat := (itemKey 0x10144 i)
def RED.F_CNT_CLR.STATS (i : Nat) : Fld := ⟨(itemKey 0x10144 i), 8, 1⟩
def RED.F_CNT_CLR.CLR (i : Nat) : Fld := ⟨(itemKey 0x10144 i), 0, 8⟩
/-- RED.TB_CFG (R350). -/
def RED.TB_CFG.reg (i : Nat) : Nat := (itemKey 0x10200 i)
def RED.TB_CFG.EN (i : Nat) : Fld := ⟨(itemKey 0x10200 i), 31, 1⟩
def RED.TB_CFG.IPV6 (i : Nat) : Fld := ⟨(itemKey 0x10200 i), 30, 1⟩
def RED.TB_CFG.CFG_DROPPED (i : Nat) : Fld := ⟨(itemKey 0x10200 i), 1, 1⟩
def RED.TB_CFG.ACTIVE (i : Nat) : Fld := ⟨(itemKey 0x10200 i), 0, 1⟩
/-- RED.TB_ADDRk (R350). -/
def RED.TB_ADDR.reg (n i : Nat) : Nat := (itemKey (0x10204 + 4 * n) i)
def RED.TB_ADDR.ADDR (n i : Nat) : Fld := ⟨(itemKey (0x10204 + 4 * n) i), 0, 32⟩
/-- RED.TB_UDP (R350). -/
def RED.TB_UDP.reg (i : Nat) : Nat := (itemKey 0x10214 i)
def RED.TB_UDP.PORT (i : Nat) : Fld := ⟨(itemKey 0x10214 i), 0, 16⟩
/-- HST.LINK (R373). -/
def HST.LINK.reg : Nat := 0x11000
def HST.LINK.STATE : Fld := ⟨0x11000, 28, 4⟩
def HST.LINK.SPEED : Fld := ⟨0x11000, 26, 2⟩
def HST.LINK.WIDTH : Fld := ⟨0x11000, 23, 3⟩
def HST.LINK.PERST_EV : Fld := ⟨0x11000, 3, 1⟩
def HST.LINK.SHORT_EV : Fld := ⟨0x11000, 2, 1⟩
def HST.LINK.LINK_EV : Fld := ⟨0x11000, 1, 1⟩
def HST.LINK.UP : Fld := ⟨0x11000, 0, 1⟩
/-- HST.CFG (R373). -/
def HST.CFG.reg : Nat := 0x11004
def HST.CFG.TAGS : Fld := ⟨0x11004, 24, 8⟩
def HST.CFG.RATE_PCT : Fld := ⟨0x11004, 16, 8⟩
def HST.CFG.RETRY : Fld := ⟨0x11004, 8, 4⟩
def HST.CFG.CPL_TO : Fld := ⟨0x11004, 0, 2⟩
/-- HST.TAGS (R373). -/
def HST.TAGS.reg : Nat := 0x11008
def HST.TAGS.INFLIGHT : Fld := ⟨0x11008, 16, 9⟩
def HST.TAGS.PEAK : Fld := ⟨0x11008, 0, 9⟩
/-- HST.RATE (R373). -/
def HST.RATE.reg (n : Nat) : Nat := (0x1100c + 4 * n)
def HST.RATE.ADMITTED (n : Nat) : Fld := ⟨(0x1100c + 4 * n), 16, 16⟩
def HST.RATE.LIMIT (n : Nat) : Fld := ⟨(0x1100c + 4 * n), 0, 16⟩
/-- HST.CTL_CFG (R373). -/
def HST.CTL_CFG.reg : Nat := 0x11020
def HST.CTL_CFG.DX_FRAMING : Fld := ⟨0x11020, 9, 1⟩
def HST.CTL_CFG.I2C : Fld := ⟨0x11020, 8, 1⟩
def HST.CTL_CFG.DUMMY : Fld := ⟨0x11020, 0, 3⟩
/-- HST.CTL_STAT (R373). -/
def HST.CTL_STAT.reg : Nat := 0x11024
def HST.CTL_STAT.FRAME_ERR_EV : Fld := ⟨0x11024, 15, 1⟩
def HST.CTL_STAT.LATE_EV : Fld := ⟨0x11024, 14, 1⟩
def HST.CTL_STAT.STATUS : Fld := ⟨0x11024, 0, 8⟩
/-- HST.CTL_FRAMES (R373). -/
def HST.CTL_FRAMES.reg : Nat := 0x11028
def HST.CTL_FRAMES.COUNT : Fld := ⟨0x11028, 0, 32⟩
/-- HST.CTL_ERRS (R373). -/
def HST.CTL_ERRS.reg : Nat := 0x1102c
def HST.CTL_ERRS.COUNT : Fld := ⟨0x1102c, 0, 32⟩
/-- HST.PEND (R373). -/
def HST.PEND.reg (n : Nat) : Nat := (0x11030 + 4 * n)
def HST.PEND.BLOCK (n : Nat) : Fld := ⟨(0x11030 + 4 * n), 0, 32⟩
/-- HST.BSEL (R373). -/
def HST.BSEL.reg : Nat := 0x11040
def HST.BSEL.TX : Fld := ⟨0x11040, 8, 1⟩
def HST.BSEL.BLOCK : Fld := ⟨0x11040, 0, 6⟩
/-- HST.SAT (R373). -/
def HST.SAT.reg : Nat := 0x11044
def HST.SAT.PEAK : Fld := ⟨0x11044, 2, 1⟩
def HST.SAT.CTL : Fld := ⟨0x11044, 0, 2⟩
/-- HST.CNT_CLR (R373). -/
def HST.CNT_CLR.reg : Nat := 0x11048
def HST.CNT_CLR.PEAK : Fld := ⟨0x11048, 2, 1⟩
def HST.CNT_CLR.CTL : Fld := ⟨0x11048, 0, 2⟩
/-- HST.B_CFG (R373). -/
def HST.B_CFG.reg (i : Nat) : Nat := (itemKey 0x11100 i)
def HST.B_CFG.EN (i : Nat) : Fld := ⟨(itemKey 0x11100 i), 31, 1⟩
def HST.B_CFG.MCS (i : Nat) : Fld := ⟨(itemKey 0x11100 i), 28, 3⟩
def HST.B_CFG.PTIME (i : Nat) : Fld := ⟨(itemKey 0x11100 i), 25, 3⟩
def HST.B_CFG.TRANSP (i : Nat) : Fld := ⟨(itemKey 0x11100 i), 24, 1⟩
def HST.B_CFG.PTI (i : Nat) : Fld := ⟨(itemKey 0x11100 i), 22, 2⟩
def HST.B_CFG.NOTIFY (i : Nat) : Fld := ⟨(itemKey 0x11100 i), 21, 1⟩
def HST.B_CFG.BASE (i : Nat) : Fld := ⟨(itemKey 0x11100 i), 8, 11⟩
def HST.B_CFG.CHANNELS (i : Nat) : Fld := ⟨(itemKey 0x11100 i), 0, 8⟩
/-- HST.B_RING_LO (R373). -/
def HST.B_RING_LO.reg (i : Nat) : Nat := (itemKey 0x11104 i)
def HST.B_RING_LO.ADDR (i : Nat) : Fld := ⟨(itemKey 0x11104 i), 0, 32⟩
/-- HST.B_RING_HI (R373). -/
def HST.B_RING_HI.reg (i : Nat) : Nat := (itemKey 0x11108 i)
def HST.B_RING_HI.ADDR (i : Nat) : Fld := ⟨(itemKey 0x11108 i), 0, 32⟩
/-- HST.B_RING (R373). -/
def HST.B_RING.reg (i : Nat) : Nat := (itemKey 0x1110c i)
def HST.B_RING.STRIDE (i : Nat) : Fld := ⟨(itemKey 0x1110c i), 16, 16⟩
def HST.B_RING.ENTRIES (i : Nat) : Fld := ⟨(itemKey 0x1110c i), 0, 13⟩
/-- HST.B_WB_LO (R373). -/
def HST.B_WB_LO.reg (i : Nat) : Nat := (itemKey 0x11110 i)
def HST.B_WB_LO.ADDR (i : Nat) : Fld := ⟨(itemKey 0x11110 i), 0, 32⟩
/-- HST.B_WB_HI (R373). -/
def HST.B_WB_HI.reg (i : Nat) : Nat := (itemKey 0x11114 i)
def HST.B_WB_HI.ADDR (i : Nat) : Fld := ⟨(itemKey 0x11114 i), 0, 32⟩
/-- HST.B_STAT (R373). -/
def HST.B_STAT.reg (i : Nat) : Nat := (itemKey 0x11118 i)
def HST.B_STAT.STATE (i : Nat) : Fld := ⟨(itemKey 0x11118 i), 28, 4⟩
def HST.B_STAT.CFG_DROPPED (i : Nat) : Fld := ⟨(itemKey 0x11118 i), 8, 1⟩
def HST.B_STAT.BAD_IDX_EV (i : Nat) : Fld := ⟨(itemKey 0x11118 i), 7, 1⟩
def HST.B_STAT.FAULT_EV (i : Nat) : Fld := ⟨(itemKey 0x11118 i), 6, 1⟩
def HST.B_STAT.RETRY_EV (i : Nat) : Fld := ⟨(itemKey 0x11118 i), 5, 1⟩
def HST.B_STAT.LATE_EV (i : Nat) : Fld := ⟨(itemKey 0x11118 i), 4, 1⟩
def HST.B_STAT.BAD_DESC_EV (i : Nat) : Fld := ⟨(itemKey 0x11118 i), 3, 1⟩
def HST.B_STAT.CFG_BAD (i : Nat) : Fld := ⟨(itemKey 0x11118 i), 2, 1⟩
def HST.B_STAT.DATA_EV (i : Nat) : Fld := ⟨(itemKey 0x11118 i), 1, 1⟩
def HST.B_STAT.STATE_EV (i : Nat) : Fld := ⟨(itemKey 0x11118 i), 0, 1⟩
/-- HST.B_IDX (R373). -/
def HST.B_IDX.reg (i : Nat) : Nat := (itemKey 0x1111c i)
def HST.B_IDX.HOST_IDX (i : Nat) : Fld := ⟨(itemKey 0x1111c i), 16, 16⟩
def HST.B_IDX.DEV_IDX (i : Nat) : Fld := ⟨(itemKey 0x1111c i), 0, 16⟩
/-- HST.B_RETRY (R373). -/
def HST.B_RETRY.reg (i : Nat) : Nat := (itemKey 0x11120 i)
def HST.B_RETRY.COUNT (i : Nat) : Fld := ⟨(itemKey 0x11120 i), 0, 32⟩
/-- HST.B_LATE (R373). -/
def HST.B_LATE.reg (i : Nat) : Nat := (itemKey 0x11124 i)
def HST.B_LATE.COUNT (i : Nat) : Fld := ⟨(itemKey 0x11124 i), 0, 32⟩
/-- HST.B_BAD_DESC (R373). -/
def HST.B_BAD_DESC.reg (i : Nat) : Nat := (itemKey 0x11128 i)
def HST.B_BAD_DESC.COUNT (i : Nat) : Fld := ⟨(itemKey 0x11128 i), 0, 32⟩
/-- HST.B_SLUGS (R373). -/
def HST.B_SLUGS.reg (i : Nat) : Nat := (itemKey 0x1112c i)
def HST.B_SLUGS.COUNT (i : Nat) : Fld := ⟨(itemKey 0x1112c i), 0, 32⟩
/-- HST.B_POISONED (R373). -/
def HST.B_POISONED.reg (i : Nat) : Nat := (itemKey 0x11130 i)
def HST.B_POISONED.COUNT (i : Nat) : Fld := ⟨(itemKey 0x11130 i), 0, 32⟩
/-- HST.B_DROPS (R373). -/
def HST.B_DROPS.reg (i : Nat) : Nat := (itemKey 0x11134 i)
def HST.B_DROPS.COUNT (i : Nat) : Fld := ⟨(itemKey 0x11134 i), 0, 32⟩
/-- HST.B_SAT (R373). -/
def HST.B_SAT.reg (i : Nat) : Nat := (itemKey 0x11138 i)
def HST.B_SAT.SAT (i : Nat) : Fld := ⟨(itemKey 0x11138 i), 0, 6⟩
/-- HST.B_CNT_CLR (R373). -/
def HST.B_CNT_CLR.reg (i : Nat) : Nat := (itemKey 0x1113c i)
def HST.B_CNT_CLR.CLR (i : Nat) : Fld := ⟨(itemKey 0x1113c i), 0, 6⟩
/-- HST.HR_ACKb (R373). -/
def HST.HR_ACK.reg (n : Nat) : Nat := (0x11800 + 4 * n)
def HST.HR_ACK.IDX (n : Nat) : Fld := ⟨(0x11800 + 4 * n), 0, 16⟩
/-- HST.HT_PRODb (R373). -/
def HST.HT_PROD.reg (n : Nat) : Nat := (0x11900 + 4 * n)
def HST.HT_PROD.IDX (n : Nat) : Fld := ⟨(0x11900 + 4 * n), 0, 16⟩
/-- STK.ID (R399). -/
def STK.ID.reg : Nat := 0x12000
def STK.ID.MINOR : Fld := ⟨0x12000, 24, 8⟩
def STK.ID.REASON : Fld := ⟨0x12000, 16, 4⟩
def STK.ID.STATE : Fld := ⟨0x12000, 12, 4⟩
def STK.ID.MASTER : Fld := ⟨0x12000, 8, 3⟩
def STK.ID.ROLE : Fld := ⟨0x12000, 4, 3⟩
def STK.ID.POSITION : Fld := ⟨0x12000, 0, 3⟩
/-- STK.CFG (R399). -/
def STK.CFG.reg : Nat := 0x12004
def STK.CFG.EN : Fld := ⟨0x12004, 31, 1⟩
def STK.CFG.RING : Fld := ⟨0x12004, 30, 1⟩
def STK.CFG.FUN_BUDGET : Fld := ⟨0x12004, 0, 15⟩
/-- STK.LINK (R399). -/
def STK.LINK.reg (n : Nat) : Nat := (0x12008 + 4 * n)
def STK.LINK.STATE (n : Nat) : Fld := ⟨(0x12008 + 4 * n), 28, 4⟩
def STK.LINK.PEER_POS (n : Nat) : Fld := ⟨(0x12008 + 4 * n), 24, 3⟩
def STK.LINK.PEER_PORT (n : Nat) : Fld := ⟨(0x12008 + 4 * n), 23, 1⟩
def STK.LINK.LINK_EV (n : Nat) : Fld := ⟨(0x12008 + 4 * n), 1, 1⟩
def STK.LINK.UP (n : Nat) : Fld := ⟨(0x12008 + 4 * n), 0, 1⟩
/-- STK.DELAY (R399). -/
def STK.DELAY.reg (n : Nat) : Nat := (0x12010 + 4 * n)
def STK.DELAY.HALF_NS (n : Nat) : Fld := ⟨(0x12010 + 4 * n), 0, 32⟩
/-- STK.ASYM (R399). -/
def STK.ASYM.reg (n : Nat) : Nat := (0x12018 + 4 * n)
def STK.ASYM.HALF_NS (n : Nat) : Fld := ⟨(0x12018 + 4 * n), 0, 32⟩
/-- STK.TOFFn (R399). -/
def STK.TOFF.reg (n : Nat) : Nat := (0x12020 + 4 * n)
def STK.TOFF.NS (n : Nat) : Fld := ⟨(0x12020 + 4 * n), 0, 32⟩
/-- STK.TCFG (R399). -/
def STK.TCFG.reg : Nat := 0x12030
def STK.TCFG.DISAGREE_NS : Fld := ⟨0x12030, 16, 16⟩
def STK.TCFG.REGAIN_NS : Fld := ⟨0x12030, 8, 8⟩
def STK.TCFG.REGAIN : Fld := ⟨0x12030, 0, 8⟩
/-- STK.STAT (R399). -/
def STK.STAT.reg : Nat := 0x12034
def STK.STAT.TIME_DISAGREE : Fld := ⟨0x12034, 9, 1⟩
def STK.STAT.CFG_DROPPED : Fld := ⟨0x12034, 8, 1⟩
def STK.STAT.CFG_BAD : Fld := ⟨0x12034, 7, 1⟩
def STK.STAT.ERR_EV : Fld := ⟨0x12034, 6, 1⟩
def STK.STAT.REROUTE_EV : Fld := ⟨0x12034, 5, 1⟩
def STK.STAT.GEN_PULL_EV : Fld := ⟨0x12034, 4, 1⟩
def STK.STAT.TIME_EV : Fld := ⟨0x12034, 3, 1⟩
def STK.STAT.MASTER_EV : Fld := ⟨0x12034, 2, 1⟩
def STK.STAT.STATE_EV : Fld := ⟨0x12034, 0, 1⟩
/-- STK.MEMBERS (R399). -/
def STK.MEMBERS.reg : Nat := 0x12038
def STK.MEMBERS.JOINED : Fld := ⟨0x12038, 24, 8⟩
def STK.MEMBERS.MUTED : Fld := ⟨0x12038, 16, 8⟩
def STK.MEMBERS.QUAR : Fld := ⟨0x12038, 8, 8⟩
def STK.MEMBERS.PRESENT : Fld := ⟨0x12038, 0, 8⟩
/-- STK.BSEL (R399). -/
def STK.BSEL.reg : Nat := 0x12040
def STK.BSEL.SI : Fld := ⟨0x12040, 8, 1⟩
def STK.BSEL.BLOCK : Fld := ⟨0x12040, 0, 5⟩
/-- STK.CRC_ERR (R399). -/
def STK.CRC_ERR.reg (n : Nat) : Nat := (0x12050 + 4 * n)
def STK.CRC_ERR.COUNT (n : Nat) : Fld := ⟨(0x12050 + 4 * n), 0, 32⟩
/-- STK.RETRY (R399). -/
def STK.RETRY.reg (n : Nat) : Nat := (0x12058 + 4 * n)
def STK.RETRY.COUNT (n : Nat) : Fld := ⟨(0x12058 + 4 * n), 0, 32⟩
/-- STK.STALL (R399). -/
def STK.STALL.reg (n : Nat) : Nat := (0x12060 + 4 * n)
def STK.STALL.COUNT (n : Nat) : Fld := ⟨(0x12060 + 4 * n), 0, 32⟩
/-- STK.SAT (R399). -/
def STK.SAT.reg : Nat := 0x12068
def STK.SAT.SAT_F : Fld := ⟨0x12068, 0, 6⟩
/-- STK.CNT_CLR (R399). -/
def STK.CNT_CLR.reg : Nat := 0x1206c
def STK.CNT_CLR.CLR : Fld := ⟨0x1206c, 0, 6⟩
/-- STK.PEND (R399). -/
def STK.PEND.reg (n : Nat) : Nat := (0x12070 + 4 * n)
def STK.PEND.BLOCK (n : Nat) : Fld := ⟨(0x12070 + 4 * n), 0, 22⟩
/-- STK.B_CFG (R399). -/
def STK.B_CFG.reg (i : Nat) : Nat := (itemKey 0x12100 i)
def STK.B_CFG.EN (i : Nat) : Fld := ⟨(itemKey 0x12100 i), 31, 1⟩
def STK.B_CFG.MCS (i : Nat) : Fld := ⟨(itemKey 0x12100 i), 28, 3⟩
def STK.B_CFG.PTIME (i : Nat) : Fld := ⟨(itemKey 0x12100 i), 25, 3⟩
def STK.B_CFG.TRANSP (i : Nat) : Fld := ⟨(itemKey 0x12100 i), 24, 1⟩
def STK.B_CFG.BASE (i : Nat) : Fld := ⟨(itemKey 0x12100 i), 8, 11⟩
def STK.B_CFG.CHANNELS (i : Nat) : Fld := ⟨(itemKey 0x12100 i), 0, 8⟩
/-- STK.B_ROUTE (R399). -/
def STK.B_ROUTE.reg (i : Nat) : Nat := (itemKey 0x12104 i)
def STK.B_ROUTE.DEST (i : Nat) : Fld := ⟨(itemKey 0x12104 i), 16, 8⟩
def STK.B_ROUTE.SRC_POS (i : Nat) : Fld := ⟨(itemKey 0x12104 i), 8, 3⟩
def STK.B_ROUTE.SRC_BLOCK (i : Nat) : Fld := ⟨(itemKey 0x12104 i), 0, 5⟩
/-- STK.B_OFFSET (R399). -/
def STK.B_OFFSET.reg (i : Nat) : Nat := (itemKey 0x12108 i)
def STK.B_OFFSET.SAMPLES (i : Nat) : Fld := ⟨(itemKey 0x12108 i), 0, 16⟩
/-- STK.B_STAT (R399). -/
def STK.B_STAT.reg (i : Nat) : Nat := (itemKey 0x1210c i)
def STK.B_STAT.STATE (i : Nat) : Fld := ⟨(itemKey 0x1210c i), 28, 4⟩
def STK.B_STAT.CFG_DROPPED (i : Nat) : Fld := ⟨(itemKey 0x1210c i), 5, 1⟩
def STK.B_STAT.CFG_BAD (i : Nat) : Fld := ⟨(itemKey 0x1210c i), 4, 1⟩
def STK.B_STAT.DROP_EV (i : Nat) : Fld := ⟨(itemKey 0x1210c i), 3, 1⟩
def STK.B_STAT.BAD_DESC_EV (i : Nat) : Fld := ⟨(itemKey 0x1210c i), 2, 1⟩
def STK.B_STAT.LATE_EV (i : Nat) : Fld := ⟨(itemKey 0x1210c i), 1, 1⟩
def STK.B_STAT.STATE_EV (i : Nat) : Fld := ⟨(itemKey 0x1210c i), 0, 1⟩
/-- STK.B_LATE (R399). -/
def STK.B_LATE.reg (i : Nat) : Nat := (itemKey 0x12110 i)
def STK.B_LATE.COUNT (i : Nat) : Fld := ⟨(itemKey 0x12110 i), 0, 32⟩
/-- STK.B_BAD_DESC (R399). -/
def STK.B_BAD_DESC.reg (i : Nat) : Nat := (itemKey 0x12114 i)
def STK.B_BAD_DESC.COUNT (i : Nat) : Fld := ⟨(itemKey 0x12114 i), 0, 32⟩
/-- STK.B_DROPS (R399). -/
def STK.B_DROPS.reg (i : Nat) : Nat := (itemKey 0x12118 i)
def STK.B_DROPS.COUNT (i : Nat) : Fld := ⟨(itemKey 0x12118 i), 0, 32⟩
/-- STK.B_POISONED (R399). -/
def STK.B_POISONED.reg (i : Nat) : Nat := (itemKey 0x1211c i)
def STK.B_POISONED.COUNT (i : Nat) : Fld := ⟨(itemKey 0x1211c i), 0, 32⟩
/-- STK.B_SAT (R399). -/
def STK.B_SAT.reg (i : Nat) : Nat := (itemKey 0x12120 i)
def STK.B_SAT.SAT (i : Nat) : Fld := ⟨(itemKey 0x12120 i), 0, 4⟩
/-- STK.B_CNT_CLR (R399). -/
def STK.B_CNT_CLR.reg (i : Nat) : Nat := (itemKey 0x12124 i)
def STK.B_CNT_CLR.CLR (i : Nat) : Fld := ⟨(itemKey 0x12124 i), 0, 4⟩
/-- TWIN.CFG (R413). -/
def TWIN.CFG.reg : Nat := 0x13000
def TWIN.CFG.ROLE : Fld := ⟨0x13000, 30, 2⟩
def TWIN.CFG.LINK : Fld := ⟨0x13000, 29, 1⟩
def TWIN.CFG.AUTO : Fld := ⟨0x13000, 28, 1⟩
def TWIN.CFG.PIN_EN : Fld := ⟨0x13000, 27, 1⟩
def TWIN.CFG.HB_MISS : Fld := ⟨0x13000, 20, 4⟩
def TWIN.CFG.MIN_SCORE : Fld := ⟨0x13000, 8, 8⟩
def TWIN.CFG.PROOF : Fld := ⟨0x13000, 0, 4⟩
/-- TWIN.SHARE (R413). -/
def TWIN.SHARE.reg : Nat := 0x13004
def TWIN.SHARE.TX : Fld := ⟨0x13004, 0, 16⟩
/-- TWIN.STAT (R413). -/
def TWIN.STAT.reg : Nat := 0x13008
def TWIN.STAT.STATE : Fld := ⟨0x13008, 28, 4⟩
def TWIN.STAT.PARTNER : Fld := ⟨0x13008, 24, 4⟩
def TWIN.STAT.PARTNER_OK : Fld := ⟨0x13008, 23, 1⟩
def TWIN.STAT.CAUSE : Fld := ⟨0x13008, 20, 3⟩
def TWIN.STAT.CFG_DROPPED : Fld := ⟨0x13008, 8, 1⟩
def TWIN.STAT.INHIBIT_EV : Fld := ⟨0x13008, 7, 1⟩
def TWIN.STAT.HEALTH_EV : Fld := ⟨0x13008, 6, 1⟩
def TWIN.STAT.MISMATCH_EV : Fld := ⟨0x13008, 5, 1⟩
def TWIN.STAT.CKPT_FAIL_EV : Fld := ⟨0x13008, 4, 1⟩
def TWIN.STAT.HB_LOST_EV : Fld := ⟨0x13008, 3, 1⟩
def TWIN.STAT.TAKE_EV : Fld := ⟨0x13008, 2, 1⟩
def TWIN.STAT.STATE_EV : Fld := ⟨0x13008, 1, 1⟩
/-- TWIN.TAKEOVER_GEN (R413). -/
def TWIN.TAKEOVER_GEN.reg : Nat := 0x1300c
def TWIN.TAKEOVER_GEN.GEN : Fld := ⟨0x1300c, 0, 32⟩
/-- TWIN.CFG_GEN (R413). -/
def TWIN.CFG_GEN.reg : Nat := 0x13010
def TWIN.CFG_GEN.GEN : Fld := ⟨0x13010, 0, 32⟩
/-- TWIN.CKPT_AGE (R413). -/
def TWIN.CKPT_AGE.reg : Nat := 0x13014
def TWIN.CKPT_AGE.US : Fld := ⟨0x13014, 0, 32⟩
/-- TWIN.CMD (R413). -/
def TWIN.CMD.reg : Nat := 0x13018
def TWIN.CMD.HANDOVER : Fld := ⟨0x13018, 1, 1⟩
def TWIN.CMD.TAKE : Fld := ⟨0x13018, 0, 1⟩
/-- TWIN.HEALTH (R413). -/
def TWIN.HEALTH.reg : Nat := 0x1301c
def TWIN.HEALTH.SCORE : Fld := ⟨0x1301c, 0, 16⟩
/-- TWIN.HCFG (R413). -/
def TWIN.HCFG.reg : Nat := 0x13020
def TWIN.HCFG.PERIOD_MS : Fld := ⟨0x13020, 0, 16⟩
/-- TWIN.TDM_MMn (R413). -/
def TWIN.TDM_MM.reg (n : Nat) : Nat := (0x13040 + 4 * n)
def TWIN.TDM_MM.COUNT (n : Nat) : Fld := ⟨(0x13040 + 4 * n), 0, 32⟩
/-- TWIN.HASH_MM (R413). -/
def TWIN.HASH_MM.reg : Nat := 0x13080
def TWIN.HASH_MM.COUNT : Fld := ⟨0x13080, 0, 32⟩
/-- TWIN.MARCH_FAIL (R413). -/
def TWIN.MARCH_FAIL.reg : Nat := 0x13084
def TWIN.MARCH_FAIL.COUNT : Fld := ⟨0x13084, 0, 32⟩
/-- TWIN.LOOP_FAIL (R413). -/
def TWIN.LOOP_FAIL.reg : Nat := 0x13088
def TWIN.LOOP_FAIL.COUNT : Fld := ⟨0x13088, 0, 32⟩
/-- TWIN.CKPT_FAIL (R413). -/
def TWIN.CKPT_FAIL.reg : Nat := 0x1308c
def TWIN.CKPT_FAIL.COUNT : Fld := ⟨0x1308c, 0, 32⟩
/-- TWIN.HB_LOST (R413). -/
def TWIN.HB_LOST.reg : Nat := 0x13090
def TWIN.HB_LOST.COUNT : Fld := ⟨0x13090, 0, 32⟩
/-- TWIN.TAKEOVERS (R413). -/
def TWIN.TAKEOVERS.reg : Nat := 0x13094
def TWIN.TAKEOVERS.COUNT : Fld := ⟨0x13094, 0, 32⟩
/-- TWIN.SAT (R413). -/
def TWIN.SAT.reg : Nat := 0x130a0
def TWIN.SAT.SAT_F : Fld := ⟨0x130a0, 0, 22⟩
/-- TWIN.CNT_CLR (R413). -/
def TWIN.CNT_CLR.reg : Nat := 0x130a4
def TWIN.CNT_CLR.CLR : Fld := ⟨0x130a4, 0, 22⟩
/-- GRD.CTL (R446). -/
def GRD.CTL.reg : Nat := 0x14000
def GRD.CTL.TRIP_FRAMES : Fld := ⟨0x14000, 24, 8⟩
def GRD.CTL.CLASSES : Fld := ⟨0x14000, 0, 5⟩
/-- GRD.PROBE (R446). -/
def GRD.PROBE.reg : Nat := 0x14004
def GRD.PROBE.REPROBE_MS : Fld := ⟨0x14004, 16, 16⟩
def GRD.PROBE.OPEN_MS : Fld := ⟨0x14004, 0, 16⟩
/-- GRD.AUTOSWAP (R446). -/
def GRD.AUTOSWAP.reg : Nat := 0x14008
def GRD.AUTOSWAP.PORTS : Fld := ⟨0x14008, 0, 16⟩
/-- GRD.LAST (R446). -/
def GRD.LAST.reg : Nat := 0x14010
def GRD.LAST.CLASS : Fld := ⟨0x14010, 30, 2⟩
def GRD.LAST.INDEX : Fld := ⟨0x14010, 24, 6⟩
def GRD.LAST.PIN : Fld := ⟨0x14010, 20, 3⟩
def GRD.LAST.KIND : Fld := ⟨0x14010, 16, 4⟩
/-- GRD.LANE_CFG (R446). -/
def GRD.LANE_CFG.reg : Nat := 0x14014
def GRD.LANE_CFG.TX_INV : Fld := ⟨0x14014, 0, 6⟩
/-- GRD.LANE_STAT (R446). -/
def GRD.LANE_STAT.reg : Nat := 0x14020
def GRD.LANE_STAT.LANE_EV : Fld := ⟨0x14020, 31, 1⟩
def GRD.LANE_STAT.MISWIRE_U : Fld := ⟨0x14020, 27, 1⟩
def GRD.LANE_STAT.MISWIRE_D : Fld := ⟨0x14020, 26, 1⟩
def GRD.LANE_STAT.LANE_SWAP_D : Fld := ⟨0x14020, 25, 1⟩
def GRD.LANE_STAT.LANE_SWAP_U : Fld := ⟨0x14020, 24, 1⟩
def GRD.LANE_STAT.LOS : Fld := ⟨0x14020, 16, 6⟩
def GRD.LANE_STAT.POL_INV : Fld := ⟨0x14020, 8, 6⟩
/-- GRD.TIO_STAT (R446). -/
def GRD.TIO_STAT.reg : Nat := 0x14030
def GRD.TIO_STAT.TIO_EV : Fld := ⟨0x14030, 31, 1⟩
def GRD.TIO_STAT.PPS_LOSS_EV : Fld := ⟨0x14030, 30, 1⟩
def GRD.TIO_STAT.PPS_LOSS : Fld := ⟨0x14030, 29, 1⟩
def GRD.TIO_STAT.TRIPPED : Fld := ⟨0x14030, 16, 8⟩
def GRD.TIO_STAT.OPEN : Fld := ⟨0x14030, 8, 8⟩
def GRD.TIO_STAT.FAULT : Fld := ⟨0x14030, 0, 8⟩
/-- GRD.TDMn_STAT (R446). -/
def GRD.TDM_STAT.reg (n : Nat) : Nat := (0x14100 + 4 * n)
def GRD.TDM_STAT.RX_SWAP (n : Nat) : Fld := ⟨(0x14100 + 4 * n), 31, 1⟩
def GRD.TDM_STAT.TX_SWAP (n : Nat) : Fld := ⟨(0x14100 + 4 * n), 30, 1⟩
def GRD.TDM_STAT.TRIPPED (n : Nat) : Fld := ⟨(0x14100 + 4 * n), 24, 6⟩
def GRD.TDM_STAT.SWAP_EV (n : Nat) : Fld := ⟨(0x14100 + 4 * n), 23, 1⟩
def GRD.TDM_STAT.OPEN (n : Nat) : Fld := ⟨(0x14100 + 4 * n), 16, 6⟩
def GRD.TDM_STAT.CONTEND (n : Nat) : Fld := ⟨(0x14100 + 4 * n), 8, 6⟩
def GRD.TDM_STAT.SHORT (n : Nat) : Fld := ⟨(0x14100 + 4 * n), 0, 6⟩
/-- GRD.TDM_CNTn (R446). -/
def GRD.TDM_CNT.reg (n : Nat) : Nat := (0x14200 + 4 * n)
def GRD.TDM_CNT.COUNT (n : Nat) : Fld := ⟨(0x14200 + 4 * n), 0, 32⟩
/-- GRD.LANE_CNT (R446). -/
def GRD.LANE_CNT.reg : Nat := 0x14240
def GRD.LANE_CNT.COUNT : Fld := ⟨0x14240, 0, 32⟩
/-- GRD.TIO_CNT (R446). -/
def GRD.TIO_CNT.reg : Nat := 0x14244
def GRD.TIO_CNT.COUNT : Fld := ⟨0x14244, 0, 32⟩
/-- GRD.REPROBE_FAIL (R446). -/
def GRD.REPROBE_FAIL.reg : Nat := 0x14248
def GRD.REPROBE_FAIL.COUNT : Fld := ⟨0x14248, 0, 32⟩
/-- GRD.SAT (R446). -/
def GRD.SAT.reg : Nat := 0x14250
def GRD.SAT.SAT_F : Fld := ⟨0x14250, 0, 19⟩
/-- GRD.CNT_CLR (R446). -/
def GRD.CNT_CLR.reg : Nat := 0x14254
def GRD.CNT_CLR.CLR : Fld := ⟨0x14254, 0, 19⟩
/-- FRM.GEN (R431). -/
def FRM.GEN.reg : Nat := 0x15000
def FRM.GEN.GEN_F : Fld := ⟨0x15000, 0, 32⟩
/-- FRM.STAT (R431). -/
def FRM.STAT.reg : Nat := 0x15004
def FRM.STAT.STATE : Fld := ⟨0x15004, 28, 4⟩
def FRM.STAT.STAGE : Fld := ⟨0x15004, 24, 4⟩
def FRM.STAT.FAIL_STAGE : Fld := ⟨0x15004, 20, 4⟩
def FRM.STAT.INCONSISTENT : Fld := ⟨0x15004, 3, 1⟩
def FRM.STAT.ROLLBACK_EV : Fld := ⟨0x15004, 2, 1⟩
def FRM.STAT.DONE_EV : Fld := ⟨0x15004, 1, 1⟩
def FRM.STAT.STATE_EV : Fld := ⟨0x15004, 0, 1⟩
/-- FRM.CAUSE (R431). -/
def FRM.CAUSE.reg : Nat := 0x15008
def FRM.CAUSE.STATUS : Fld := ⟨0x15008, 0, 16⟩
/-- FRM.BOOT (R431). -/
def FRM.BOOT.reg : Nat := 0x1500c
def FRM.BOOT.USED : Fld := ⟨0x1500c, 8, 3⟩
def FRM.BOOT.CHOSEN : Fld := ⟨0x1500c, 4, 2⟩
def FRM.BOOT.OVERRIDE : Fld := ⟨0x1500c, 3, 1⟩
def FRM.BOOT.FALLBACK : Fld := ⟨0x1500c, 1, 2⟩
def FRM.BOOT.TEST : Fld := ⟨0x1500c, 0, 1⟩
/-- FRM.CFG (R431). -/
def FRM.CFG.reg : Nat := 0x15010
def FRM.CFG.STAGE_US : Fld := ⟨0x15010, 0, 10⟩
/-- DXW.CFG (R466). -/
def DXW.CFG.reg : Nat := 0x2f000
def DXW.CFG.DX_STRICT : Fld := ⟨0x2f000, 31, 1⟩
def DXW.CFG.DX_EMULATE_TIMING : Fld := ⟨0x2f000, 30, 1⟩
/-- DXW.STAT (R466). -/
def DXW.STAT.reg : Nat := 0x2f004
def DXW.STAT.SKIPPED : Fld := ⟨0x2f004, 24, 8⟩
def DXW.STAT.FRAME_ERR : Fld := ⟨0x2f004, 16, 8⟩
def DXW.STAT.SAT : Fld := ⟨0x2f004, 2, 2⟩
def DXW.STAT.FRAME_EV : Fld := ⟨0x2f004, 1, 1⟩
def DXW.STAT.WRITE_EV : Fld := ⟨0x2f004, 0, 1⟩
/-- DXW.CNT_CLR (R466). -/
def DXW.CNT_CLR.reg : Nat := 0x2f008
def DXW.CNT_CLR.FRAME_ERR : Fld := ⟨0x2f008, 1, 1⟩
def DXW.CNT_CLR.SKIPPED : Fld := ⟨0x2f008, 0, 1⟩

end R

end Sys2Proof.Machine
end

