-- ==== Sys2Proof/Machine/State.lean ====
section
/-! DEFINITION. The state of the block: the register files of R472 as sparse stores, every piece of state the
chapters describe that is no register, and the queue of waiting commands. Plain data throughout. -/

namespace Sys2Proof.Machine

/-- Why a command has no next state. -/
inductive Fault where
  /-- RESET_N_PULSE with a low pulse of 250 ns to 1 us, which R49 forbids the board to produce and for which it
  gives no effect. Safe: the model stops where the spec says nothing. -/
  | resetPulseForbidden
  deriving DecidableEq, Repr

/-- Why a command is rejected. -/
inductive Refusal where
  /-- A command that has no meaning in the model yet, raised by its dispatch arm. Safe. -/
  | notModelled (mnemonic : String)
  deriving DecidableEq, Repr

/-- A time of R10: seconds, nanoseconds and 2^-32 ns. -/
structure PtiTime where
  sec  : Nat
  ns   : Nat
  frac : Nat
  deriving DecidableEq, Repr

/-- Pins and pads the device drives or samples (R36, R41, R44, R48, R56). -/
structure Pins where
  /-- Present levels of the ten strap pins, in the bit order of SYS.STRAPS[9:0]. -/
  straps      : Nat
  /-- PWR_CORE_EN driven high. -/
  pwrCoreEn   : Bool
  /-- SRAM_RET driven high. -/
  sramRet     : Bool
  /-- VID0-VID5; `none` is high impedance. -/
  vid         : Option Nat
  /-- IRQ_N driven low by the device. -/
  irqLow      : Bool
  /-- PCIE_WAKE_N driven low by the device. -/
  wakeLow     : Bool
  /-- TWIN_FAIL_N driven low by the device. -/
  twinFailLow : Bool
  /-- TWIN_TAKE_N driven low by the device. -/
  twinTakeLow : Bool
  /-- WCLK_OUT (0) and MCLK0-3 (1-4): the configuration the pin runs with, `none` while held low (R100). -/
  clkOut      : List (Option Nat)
  /-- PPS_OUT is high. -/
  ppsHigh     : Bool
  /-- VDDIO bank voltages sensed when the rails rose, in mV: TDML, TDMH, CTL, MGMT, TIO (R40). -/
  banks       : List Nat
  /-- PERST_N is asserted. -/
  perst       : Bool
  /-- Loopback selected by DIAG.LOOPBACK on NETA, NETB, STKU and STKD: 0 off, 1 near end, 2 far end (R226). -/
  loopback    : List Nat
  /-- Transmit lanes that send inverted, a bit each: TX_INV as of their last training (R440). -/
  txInv       : Nat
  deriving DecidableEq, Repr

/-- A saved image of one power domain in the retention store (R60): its registers and its CRC-32C. -/
structure RetImage where
  domain : Nat
  regs   : List (Nat × Word)
  crc    : Nat
  deriving DecidableEq, Repr

/-- A frame kept by the DOZE receive buffer (R72). -/
structure DozeFrame where
  port  : Nat
  bytes : List Byte
  time  : List PtiTime
  deriving DecidableEq, Repr

/-- One entry of a target's priority stack (R169), with the marks of R176. -/
structure StackEntry where
  src  : Nat
  prio : Nat
  /-- The target has read a register of the source's block since the ACK. -/
  seen : Bool
  /-- The level source vanished before that read. -/
  gone : Bool
  deriving DecidableEq, Repr

/-- A moderation group of one target: its state and its window's settings (R177). -/
inductive ModState where
  | closed
  | held (count limit : Nat)
  | opened
  deriving DecidableEq, Repr

/-- One interrupt target. -/
structure IrqTarget where
  pend  : BitVec 256
  mask  : BitVec 256
  stack : List StackEntry
  mods  : List ModState
  /-- The delivery condition in the two cycles before (R168). -/
  cond1 : Bool
  cond2 : Bool
  deriving DecidableEq, Repr

/-- The always-on island and the power controller (R42, R43, R59 to R81, R118). Domains are numbered 0 AON, 1 MCU,
2 FAB, 3 GAL0, 4 GAL1, 5 NETA, 6 NETB, 7 STK, 8 HOST, 9 TDML, 10 TDMH, 11 CLK. -/
structure Power where
  /-- The 2 ms RC timer for PWR_CORE_EN runs (R45). -/
  rcTimer     : Bool
  /-- A start attempt is under way: PWR_CORE_EN is high and the straps are not sampled yet. -/
  starting    : Bool
  /-- Failed attempts of the present series (R43). -/
  attempts    : Nat
  /-- The 1 s wait between attempts runs (R43). -/
  retryWait   : Bool
  /-- The copy of PWR.FAULT.RAIL_TIMEOUT kept in PD_AON (R43). -/
  railCopy    : Bool
  /-- Power of each domain. -/
  dom         : List Bool
  /-- Domains left isolated by a failed replay (R61). -/
  isolated    : List Bool
  /-- The register retention store (R60). -/
  retention   : List RetImage
  /-- The state code an entry in progress is going to. -/
  target      : Nat
  /-- The state code the entry left. -/
  back        : Nat
  /-- The sleep state the device is in or wakes from: 2 SLEEP-R, 3 SLEEP, 1 DOZE. -/
  from_       : Nat
  /-- The registers of a sleep entry are saved (R60). -/
  saved       : Bool
  /-- A wake latched at or after the point of no return is held (R64). -/
  wakeHeld    : Bool
  /-- The minimum off time still runs (R64). -/
  minOff      : Bool
  /-- SRAM_RET has fallen on a wake and PWR_CORE_EN has not risen yet (R42). -/
  retFall     : Bool
  /-- SRAM_RET rises at the next CK_AON tick, the one after the point of no return (R64). -/
  retRise     : Bool
  /-- Latches set since the present entry began (R71, R179). -/
  sinceEntry  : Nat
  /-- Whether the crystal is qualified (R77), a fact of PD_AON. -/
  xtalTicks   : Bool
  /-- Slow counter: tick count. -/
  slowTicks   : Nat
  /-- Slow counter: time in 1/64 ns since the epoch (R118). -/
  slowTime    : Nat
  /-- The slow counter carries the PTIs' time: a handover has happened and no handback since. -/
  handover    : Bool
  /-- An entry has begun its register save and hands the time over at the next CK_AON edge (R118). -/
  handDue     : Bool
  /-- The reference PLL has relocked after a handover, so the next CK_AON edge hands the time back. -/
  handbackDue : Bool
  /-- Each PTI's difference from SLEEP_PTI, in 2^-32 ns (R118). -/
  diffs       : List Int
  /-- A trim window has completed since PD_CLK last powered up (R118). -/
  trimDone    : Bool
  /-- The flash sleep-save area: 0 idle, 1 being written, 2 valid, 3 invalid (R66). -/
  sleepSave   : Nat
  /-- The stored forme recorded for the wake: 0-3, or 4 for the sleep-save area (R66). -/
  wakeForme   : Option Nat
  /-- The sealed wake image of SLEEP-R is in a kept half (R65). -/
  wakeImage   : Bool
  /-- An entry answered OK over PCIe waits for L2 (R216), with its target state. -/
  pmeArmed    : Option Nat
  /-- A SYS.RESET response of kind 0 was given 100 us ago or less (R214). -/
  resetDue    : Bool
  /-- A wake the host started, which PCIE_WAKE_N does not announce (R81). -/
  hostWake    : Bool
  /-- The DOZE receive buffer, oldest first (R72). -/
  dozeBuf     : List DozeFrame
  /-- The last AVS code held in RUN is kept in PWR.VID_RUN; this is true while the slack is short at VID_MAX. -/
  avsShort    : Bool
  /-- The trim in force through a sleep, in parts per 10^9 (R118). -/
  trim        : Int
  /-- The interrupt targets saved with the image of PD_MCU, HOST and MCU (R179). -/
  irqSaved    : Option (IrqTarget × IrqTarget)
  /-- The PCIe link was in L2 when the entry began, so a wake drives PCIE_WAKE_N (R81). -/
  wasL2       : Bool
  /-- PWR_WAKE held for the ring until it is set up again: previous state and LAST_WAKE (R216). -/
  wakeMsg     : Option (Nat × Nat)
  deriving DecidableEq, Repr

/-- One media clock synthesizer beyond its registers (R86 to R97). -/
structure Mcs where
  /-- An anchor of its sample grid: the index of one sample instant. -/
  idx      : Nat
  /-- The time of that instant in the timebase PTI, in 2^-32 ns. -/
  inst     : Nat
  /-- Has locked since OFF. -/
  locked   : Bool
  /-- The next acquisition is the first after OFF (it makes its phase step). -/
  first    : Bool
  /-- Consecutive intervals with |e| <= LOCK_TH. -/
  inWin    : Nat
  /-- Consecutive intervals with |e| > UNLOCK_TH. -/
  outWin   : Nat
  /-- A PTI step or freeze has happened in the present interval (R92, R96). -/
  stepped  : Bool
  /-- Frequency offsets of the last intervals, newest first, in parts per 10^9 (R91). -/
  hist     : List Int
  /-- CK_MEDIA's offset from nominal against CK_REF, in parts per 10^9, from the anchor on. -/
  ppb      : Int
  /-- Time spent towards the next bandwidth code, in ns (R91). -/
  bwTime   : Nat
  deriving DecidableEq, Repr

/-- One port of a PTI (R112, R115, R116). Offsets and delays are in 2^-16 ns. -/
structure PtpPort where
  /-- Completed Sync and delay exchanges since UNCALIBRATED. -/
  exchanges : Nat
  /-- The grandmaster seen on the port. -/
  gm        : Nat
  /-- Last offsets, newest first, up to 8. -/
  offsets   : List Int
  /-- Last mean path delays, newest first, up to 8. -/
  delays    : List Int
  /-- The mean path delay in use. -/
  delay     : Int
  /-- Timestamps of the last event message in every PTI's time (R106). -/
  stamps    : List PtiTime
  /-- The data set of the master chosen on the port, its grandmaster and stepsRemoved last; empty where none is (R112). -/
  best      : List Nat
  /-- Syncs sent as MASTER (R112). -/
  sent      : Nat
  deriving DecidableEq, Repr

/-- One PTP instance beyond its registers. -/
structure Pti where
  time      : PtiTime
  /-- The staged ADDEND_FRAC (R104). -/
  staged    : Nat
  /-- Consecutive updates within LOCK_NS, and above 4 x LOCK_NS (R113). -/
  goodRun   : Nat
  badRun    : Nat
  /-- The servo has locked since enable. -/
  everLock  : Bool
  /-- The next offset is explained by a grandmaster change, a handback or an applied ADJ (R114). -/
  explained : Bool
  /-- The addend before an unexplained step, while its limit lasts (R117). -/
  limit     : Option Nat
  /-- Consecutive intervals in which the selected port stayed continuous while frozen (R116). -/
  holdRun   : Nat
  /-- Consecutive intervals with |d| within half the threshold (R116). -/
  calmRun   : Nat
  /-- A port was selected since the freeze (R116). -/
  selected  : Bool
  /-- The port that was SLAVE when the servo froze. -/
  wasSlave  : Nat
  /-- NETA, NETB and MGMT. -/
  ports     : List PtpPort
  /-- Announced clock quality set by PTP.GM_QUALITY: class, accuracy, time source, variance; 0 is the default (R220). -/
  quality   : List Nat
  /-- Message settings of PTP.SET: logSync, logAnnounce, logMinDelayReq, receipt timeout, priority1, priority2. -/
  msg       : List Nat
  /-- Grandmaster data last announced to the PTI: identity, clockClass, stepsRemoved. -/
  gmData    : List Nat
  /-- More than 600 s have passed unlocked after a lock to PPS_IN (R220). -/
  ppsOld    : Bool
  /-- PPS_IN edges ignored as too far off (R111). -/
  ppsFar    : Nat
  /-- The integral part of the servo's addend, in 2^-32 ns per tick off 2.0 ns (R113). -/
  integ     : Int
  deriving DecidableEq, Repr

/-- One platen beyond its registers. -/
structure Platen where
  /-- The unreleased capture (R123). -/
  capture  : Option PtiTime
  /-- The fraction of the fire time, in 2^-32 ns, that periods carry (R119). -/
  frac     : Nat
  /-- Groups whose strobe is crossing to CK_CORE, and the fire time it left at, in 2^-32 ns (R122). -/
  inflight : Nat
  fired    : Nat
  /-- Waiting forme or route work tied to the fire: 0 none, 1 an RT.SET, 2 a forme epoch. -/
  owner    : Nat
  deriving DecidableEq, Repr

/-- The PTM pair: root time and PTI time in ns (R125). -/
structure PtmPair where
  root : Nat
  pti  : Nat
  deriving DecidableEq, Repr

/-- The interrupt controller beyond its registers. -/
structure Irq where
  host    : IrqTarget
  mcu     : IrqTarget
  /-- Line of every source as last seen. -/
  raw     : BitVec 256
  /-- The HOST line in the cycle before, on its way to the ball (R168). -/
  pipe1   : Bool
  /-- MSI-X table entry and pending bit, and a message queued (R160). -/
  msixLo  : Word
  msixHi  : Word
  msixDat : Word
  msixVec : Word
  msixPba : Bool
  msixDue : Bool
  deriving DecidableEq, Repr

/-- Where a command stands. -/
inductive CmdPhase where
  | taken | accepted | done
  deriving DecidableEq, Repr

/-- An outstanding command: its channel (0 PCIe slots, 1 CTL slots, 2 ring), its slot or ring index, its header and
payload (R185), and once it has run its status and result. -/
structure Cmd where
  chan    : Nat
  slot    : Nat
  opcode  : Nat
  tag     : Nat
  flags   : Nat
  len     : Nat
  gen     : Nat
  hdrBad  : Bool
  payload : List Byte
  bufAddr : Nat
  bufSize : Nat
  phase   : CmdPhase
  status  : Nat
  result  : List Byte
  /-- The command came back as a final event, ACCEPTED having been answered. -/
  late    : Bool
  deriving DecidableEq, Repr

/-- A response, completion or event with its 16-byte header (R186). -/
structure Msg where
  opcode : Nat
  tag    : Nat
  status : Nat
  gen    : Nat
  index  : Nat
  data   : List Byte
  deriving DecidableEq, Repr

/-- The queue of events of one channel (R194, R198). -/
structure EvtQueue where
  queue     : List Msg
  /-- Events dropped since the last EVT_OVERFLOW, and the code of the first. -/
  lost      : Nat
  lostFirst : Nat
  /-- Codes that EVT.MASK has disabled (R226); every code is enabled at reset (R227). -/
  masked    : List Nat
  deriving DecidableEq, Repr

/-- The mailboxes beyond their registers (R184 to R202). -/
structure Mbx where
  /-- Request slots, response slots and the loader window, at their offsets in mailbox space. -/
  mem      : Mem
  cmdTail  : Nat
  cmdHead  : Nat
  cplHead  : Nat
  cplTail  : Nat
  evtHead  : Nat
  evtTail  : Nat
  /-- PHASE of the pass the rings are on. -/
  cplPhase : Bool
  evtPhase : Bool
  cmds     : List Cmd
  /-- Results waiting to be written, oldest first: slot 0 to 7 or 8 for the ring, plus 16 where no command record belongs
  to it (R196). -/
  ready    : List (Nat × Msg)
  /-- Event queues: PCIe slots, CTL slots, ring. -/
  evts     : List EvtQueue
  /-- The host-loaded image so far (R202). -/
  load     : Mem
  loadLast : Bool
  loadLen  : Nat
  /-- The chunk came over CTL. -/
  loadCtl  : Bool
  /-- The image in Compositor memory was loaded by the host. -/
  hostImg  : Bool
  /-- An image has verified since reset, so firmware runs once the boot forme is applied (R201, R202). -/
  verified : Bool
  /-- A Compositor restart in progress: 0 none, 1 by the watchdog, 2 by SYS.RESET (R204, R214). -/
  restart  : Nat
  /-- The slot at which the Compositor's present pass goes on; 8 while it takes from the ring (R197). -/
  pass     : Nat
  /-- Half the watchdog timeout has passed without a kick (R203). -/
  warn     : Bool
  deriving DecidableEq, Repr

/-- A running block that counts in its domain's USERS (R95): the kind of block, its number and its MCS. Kinds:
0 TDM transmit, 1 TDM receive, 2 RXF, 3 TXF, 4 HR, 5 HT, 6 SO, 7 SI, 8 kerning lane. -/
structure User where
  kind : Nat
  item : Nat
  mcs  : Nat
  deriving DecidableEq, Repr

/-- An access of a word on the register bus that waits behind a stalled one. -/
inductive BusAcc where
  | read (a : Nat)
  | write (a : Nat) (v : Word)
  deriving DecidableEq, Repr

/-- One initiator's side of the register bus: the banks that are no registers (R136 to R147). -/
structure BusSide where
  /-- The value written to GUARD_VAL while the guard is armed. -/
  guard   : Option Word
  /-- The word a slow-domain prefetch has returned. -/
  fetched : Option Word
  /-- A prefetch is under way. -/
  fetch   : Bool
  /-- A posted slow-domain write: value, and whether it came through the guard. -/
  posted  : Option (Word × Bool)
  /-- A wide snapshot is being taken. -/
  wide    : Bool
  /-- An access that stalls its initiator (R137, R139): 0 a read of INDIR_DATA, 1 a write of it, 2 a write of INDIR_ADDR, 3 to
  6 a read of WIDE_D0 to WIDE_D3, 7 a guarded write of INDIR_DATA, with its value. -/
  stalled : Option (Nat × Word)
  /-- Accesses of the stalled initiator that wait, oldest first (R128). -/
  held    : List BusAcc
  /-- A violation of the initiator has been logged since a CTL frame last looked (R150). -/
  viol    : Bool
  /-- An access of the initiator has met an unmapped offset or an off domain since a CTL frame last looked (R131). -/
  missed  : Bool
  /-- The word the initiator's last read returned. -/
  data    : Word
  deriving DecidableEq, Repr

/-- A galley cell: its half and its number within the half (R26). -/
structure CellNo where
  half : Nat
  idx  : Nat
  deriving DecidableEq, Repr

/-- The bank of a cell: 0 and 1 in GAL0, 2 and 3 in GAL1; consecutive cells alternate (R26, R270). -/
def CellNo.bank (c : CellNo) : Nat := 2 * c.half + c.idx % 2

/-- An item of a queue (R273, R274): what its producer presented and wrote. -/
structure GItem where
  kind  : Nat
  folio : Nat
  ts    : Nat
  cells : List CellNo
  /-- The bytes written so far, the 16-byte descriptor first. -/
  bytes : List Byte
  /-- Committed (R275). -/
  live  : Bool
  deriving DecidableEq, Repr

/-- A slug (R280). -/
structure GSlug where
  count  : Nat
  folio  : Nat
  ts     : Nat
  reason : Nat
  merged : Bool
  /-- The queue's own slug cell, or a cell of the pool (R281). -/
  own    : Bool
  cell   : CellNo
  deriving DecidableEq, Repr

/-- An element of a queue. -/
inductive GElem where
  | item (it : GItem)
  | slug (sl : GSlug)
  deriving DecidableEq, Repr

/-- Drops carried while the queue's only slugs are popped and not released (R281). -/
structure Carried where
  count  : Nat
  folio  : Nat
  ts     : Nat
  reason : Nat
  deriving DecidableEq, Repr

/-- A galley queue (R277, R282): the elements from the release point to the tail, how many of them are popped, the
mark as a count from the release point, and the producer's open item. -/
structure GQueue where
  elems     : List GElem
  rd        : Nat
  mark      : Option Nat
  opened    : Option GItem
  /-- Whether the open item's length was known at opening, so its cells are all there. -/
  known     : Bool
  /-- The rest of the producer's item is swallowed (R280, R284). -/
  swallow   : Bool
  /-- No item has been committed since the youngest slug was placed (R281). -/
  slugFresh : Bool
  carried   : Option Carried
  /-- The queue was flushed and its consumer has set no mark since (R284). -/
  flushed   : Bool
  deriving DecidableEq, Repr

/-- The galley beyond its registers (R270 to R290). -/
structure Galley where
  qs        : Sparse GQueue
  /-- Free list built, per half (R272). -/
  built     : List Bool
  retired   : List CellNo
  /-- Cells cut off by a link error, neither free nor on a queue (R288). -/
  lost      : List CellNo
  /-- Inverted stored bits: cell, word, bit (R290). -/
  flips     : List (CellNo × Nat × Nat)
  /-- Cells the free list has handed to unconfined queues, for the turn of the halves (R26, R277). -/
  turn      : Nat
  /-- The next cell number the scrubber considers (R289). -/
  scrubPos  : Nat
  /-- The abandoned item of the flush in progress has not seen its last word (R285). -/
  flushWait : Bool
  /-- Stored bytes of cells outside any item, by byte address. -/
  mem       : Mem
  deriving DecidableEq, Repr

/-- A captured register value that waits for its block's boundary (R141, R142). -/
structure Cap where
  grp : Nat
  key : Nat
  val : Word
  deriving DecidableEq, Repr

/-- One sample of a source identifier: its index in the source's domain, its 32-bit word, and whether the word is
transparent (R7, R21). -/
structure Sample where
  src : Nat
  idx : Nat
  word : Word
  transp : Bool
  deriving DecidableEq, Repr

/-- A value of an imposition entry in force (R253, R255): its low word, the fade it runs, and the source a fade-out
still plays (R258). The gain is `g0` before index `at_`, and moves by 1/64 a sample from there. -/
structure ImpVal where
  word    : Word
  up      : Bool
  at_     : Nat
  g0      : Nat
  fadeSrc : Nat
  deriving DecidableEq, Repr

/-- An imposition entry (R253): shadow, captured value that has not taken effect, active value, the value before it and
the index from which the active one holds (R257). -/
structure ImpEntry where
  shadow : Word
  cap    : Option Word
  /-- The TDM direction whose mask the entry was captured with (R242): 2 x port + receive. -/
  link   : Option Nat
  cur    : ImpVal
  prev   : ImpVal
  eff    : Nat
  reason : Nat
  held   : Bool
  deriving DecidableEq, Repr

/-- A kerning lane beyond its registers (R263, R264): the runs of output indices, newest first, in which it delivers resampled
sorts, each with its first index and the index after its last; and in FAULT the input index up to which lost instants are
counted, while its input has instants. -/
structure Lane where
  runs    : List (Nat × Option Nat)
  faultAt : Option Nat
  deriving DecidableEq, Repr

/-- Concealment state of a channel (R246): last good word, samples missing in the present gap, scale in 1/64. -/
structure Conc where
  last   : Word
  lastT  : Bool
  miss   : Nat
  scale  : Nat
  deriving DecidableEq, Repr

/-- A TDM direction beyond its registers (R234 to R246). -/
structure TdmDir where
  /-- The group's fire has started it: index of LEADING_IN and of the first data frame (R243). -/
  start    : Option (Nat × Nat)
  /-- Index of the last frame. -/
  idx      : Nat
  /-- PHASE_REF in 2^-32 ns (R234). -/
  ref      : Option Int
  /-- Leading-out frames begun. -/
  outs     : Nat
  /-- Valid frames seen in CLOCK_LOST (R236). -/
  good     : Nat
  /-- Indices muted for the frame after a mask change (R241). -/
  muted    : List Nat
  /-- Per channel concealment. -/
  chans    : List Conc
  /-- Words taken for the frame of index `takenIdx`: none where the source's sort was absent (R245). -/
  taken    : List (Option (Word × Bool))
  takenIdx : Nat
  /-- The bits of the last frame sent that follow the next frame-sync edge (R231). -/
  tail     : List (Option Nat)
  deriving DecidableEq, Repr

/-- A placement slew (R265): the change in sample periods, its limit in ppm and its start time. -/
structure Slew where
  delta : Int
  limit : Nat
  start : Nat
  deriving DecidableEq, Repr

/-- The packet slot a seamless flow is playing (R342, R343): its first index, the path that supplied it (1 NETA, 2
NETB), whether each path covered some index, and the misses seen. -/
structure RedSlot where
  start    : Nat
  took     : Nat
  covA     : Bool
  covB     : Bool
  missA    : Bool
  missB    : Bool
  missBoth : Bool
  paired   : Bool
  deriving DecidableEq, Repr

/-- What a CRF stream says it is (R89): its type, pull field and base frequency. -/
structure CrfKind where
  type : Nat
  pull : Nat
  base : Nat
  deriving DecidableEq, Repr

/-- A receive flow beyond its registers (R88, R89, R303 to R312, R335 to R346). Lists of two are for NETA (or MGMT) and
NETB. -/
structure RxFlow where
  /-- A CRF stream's last packet was valid, valid ones in a row by sequence number, what the stream says it is, its last
  timestamp in the time of the flow's PTI, in 2^-32 ns, and the sequence number due next (R88, R89). -/
  crfOk    : Bool
  crfRun   : Nat
  crf      : Option CrfKind
  crfTs    : Nat
  crfNext  : Nat
  /-- RTP packets in a row (R88), last timestamp and its arrival (R90). -/
  rtpRun   : Nat
  lastTs   : Nat
  lastArr  : Nat
  /-- The newest folio of either path (R88). -/
  lastSeq  : Option Nat
  /-- The last source index a placement gang has read (R266). -/
  readTo   : Option Nat
  /-- The index that follows the last packet committed (R303, R304). -/
  next     : List (Option Nat)
  /-- A link offset step: the source index from which the new offset holds, and the old offset (R309). -/
  step     : Option (Nat × Nat)
  /-- First indices of packets dropped as LATE, newest first, at most eight (R307). -/
  late     : List Nat
  chans    : Sparse Conc
  /-- Placement window: packets, least margin, a LATE packet seen (R312). -/
  winN     : Nat
  winMin   : Option Int
  winLate  : Bool
  slew     : Option Slew
  /-- The last FOLIO and mr bit (R305). -/
  seq      : List (Option Nat)
  mr       : List Bool
  /-- Poisoned words of the packet being read. -/
  bad      : List (List Nat)
  /-- Packets committed, the copies committed of them that RED counts, and payload bytes committed (R316, R343, R350). -/
  pkts     : List Nat
  copies   : List Nat
  bytes    : Nat
  /-- Consecutive packets committed, and consecutive empty packet periods (R342). -/
  run      : List Nat
  empty    : List Nat
  slot     : Option RedSlot
  /-- Margins of slots not yet due: first index, larger margin, every copy LATE (R346). -/
  margins  : List (Nat × Int × Bool)
  /-- First indices of copies dropped by checks 5 and 6, newest first, at most eight (R336). -/
  odd      : List Nat
  deriving DecidableEq, Repr

/-- Frames and bytes of a NET or MGMT port (R317), and the event timestamps of its last frame received and sent in the time of
every enabled PTI (R106). -/
structure NetPort where
  rxFrames : Nat
  rxBytes  : Nat
  txFrames : Nat
  txBytes  : Nat
  rxStamp  : List PtiTime
  txStamp  : List PtiTime
  deriving DecidableEq, Repr

/-- A transmit flow beyond its registers (R319 to R330). -/
structure TxFlow where
  /-- First index of the next packet, of the first packet of the run, and the folio that one carried (R322). -/
  k       : Nat
  k0      : Nat
  folio0  : Nat
  /-- Time of the capture that armed it, in the MCS's timebase, 2^-32 ns (R330). -/
  armedAt : Nat
  chans   : Sparse Conc
  /-- Underrun packets in the present run (R329). -/
  under   : Nat
  mr      : Bool
  dbc     : Nat
  /-- Packets launched on NETA and NETB, payload bytes launched (R334). -/
  pkts    : List Nat
  bytes   : Nat
  deriving DecidableEq, Repr

/-- A frame waiting for its port: the flow (or 256 and the funnel entry above), its first index, 0 BULK, 1 class A, 2 class
B, and its bytes without FCS. -/
structure TxWait where
  flow  : Nat
  k     : Nat
  cls   : Nat
  bytes : List Byte
  deriving DecidableEq, Repr

/-- The egress side of a port (R325, R327): waiting frames, class credits in 10^-6 bit and when they were brought up to
date, in CK_TIME ticks. -/
structure TxPort where
  wait    : List TxWait
  creditA : Int
  creditB : Int
  stamp   : Nat
  /-- The flow whose frame is on the wire, and the tick at which it ends (R331). -/
  wire    : Option (Nat × Nat)
  deriving DecidableEq, Repr

/-- A transmit slot being read (R363): its bytes so far, the chunks not yet requested and the requests outstanding. -/
structure HtFetch where
  buf  : List Byte
  todo : List (Nat × Nat)
  left : Nat
  deriving DecidableEq, Repr

/-- A host channel block beyond its registers (R354 to R365): blocks 0 to 63 are HR0 to HR63, 256 to 319 HT0 to HT63. -/
structure HostBlk where
  /-- First index of the next block, and its sequence number (R356). -/
  k       : Nat
  seq     : Nat
  /-- Time of the capture that armed it, 2^-32 ns in the MCS's timebase. -/
  armedAt : Nat
  /-- Failures in a row (R362, R365). -/
  fails   : Nat
  /-- Slots after HOST_IDX that have been written at least once. -/
  wrote   : Nat
  fetch   : Option HtFetch
  deriving DecidableEq, Repr

/-- A DMA read outstanding (R363): its block, its slot offset or, for a confirming read, its ring index, its length, and
whether its block still waits for it. -/
structure HostRead where
  blk  : Nat
  off  : Nat
  len  : Nat
  live : Bool
  deriving DecidableEq, Repr

/-- The identity of a stack link's far end, and the frames the link carried (R379, R399). -/
structure StkLinkRec where
  serial : Nat
  role   : Nat
  gen    : Nat
  /-- Next sequence number sent, per class (R377). -/
  seq    : List Nat
  /-- Next sequence number expected, per class, and the classes a resend is awaited for (R378). -/
  rseq   : List Nat
  asked  : List Nat
  /-- Outbound queues whose head frame has been counted as held for credit (R378, R399). -/
  held   : List Nat
  /-- Credit left, in cells, for AUDIO, FUNNEL, CTRL and CHECKPOINT (R378). -/
  credit : List Nat
  /-- Resends in a row (R378). -/
  tries  : Nat
  txN    : Nat
  rxN    : Nat
  /-- Event timestamps of the last frame received and sent (R106). -/
  rxStamp : List PtiTime
  txStamp : List PtiTime
  deriving DecidableEq, Repr

/-- A frame sent on a stack link (R377), without SEQ and CRC order of bytes. -/
structure SynzoTx where
  cls   : Nat
  dest  : Nat
  src   : Nat
  flags : Nat
  seq   : Nat
  item  : List Byte
  deriving DecidableEq, Repr

/-- Another device of the stack (R379, R386). -/
structure StkDev where
  pos    : Nat
  serial : Nat
  major  : Nat
  minor  : Nat
  role   : Nat
  gen    : Nat
  state  : Nat
  reason : Nat
  /-- The own link it lies behind: 0 STKU, 1 STKD. -/
  link   : Nat
  deriving DecidableEq, Repr

/-- A stack block beyond its registers (R393). -/
structure StkBlk where
  k       : Nat
  seq     : Nat
  armedAt : Nat
  deriving DecidableEq, Repr

/-- The stack beyond its registers (R374 to R397). -/
structure Stk where
  links  : List StkLinkRec
  /-- CTRL and CHECKPOINT frames a resend can start from, newest first, per link. -/
  sent   : List (List SynzoTx)
  devs   : List StkDev
  blocks : Sparse StkBlk
  /-- TIME frames in a row within REGAIN_NS (R388). -/
  calm   : Nat
  /-- Offsets of the PTIs at the last TIME frame, ns. -/
  offs   : List Int
  /-- Steps of the master's PTIs not yet sent, as PTI and ns (R384). -/
  steps  : List (Nat × Int)
  /-- Positions whose STKD hop is broken (R380). -/
  breaks : List Nat
  ring   : Bool
  /-- The master's generation as last heard. -/
  mgen   : Nat
  deriving DecidableEq, Repr

/-- What a dynamic checkpoint says of a transmit flow (R403): flow, index, folio, F_PHASE and hash. -/
structure CkptFlow where
  flow  : Nat
  k     : Nat
  folio : Nat
  phase : Nat
  hash  : Nat
  deriving DecidableEq, Repr

/-- A stack member's record (R389). -/
structure StackRec where
  stored : Nat
  gen    : Nat
  crc    : Nat
  diff   : List Byte
  deriving DecidableEq, Repr

/-- A forme (R414): what its sections hold, by key. -/
structure FormeImg where
  pers    : Nat
  phase   : Nat
  gen     : Nat
  regs    : Store
  imps    : Store
  keys    : Store
  rx      : Sparse (List Byte)
  tx      : Sparse (List Byte)
  members : Sparse StackRec
  deriving DecidableEq, Repr

/-- The twin block beyond its registers (R400 to R411). -/
structure Twin where
  /-- The partner's role as its heartbeats imply: 1 active, 2 standby. -/
  partnerRole : Nat
  /-- Consecutive heartbeats missed. -/
  miss     : Nat
  /-- Dynamic and configuration checkpoints committed (R402). -/
  dynOk    : Bool
  cfgOk    : Bool
  /-- The dynamic checkpoint in force, its generation and its sequence. -/
  base     : List CkptFlow
  seq      : Nat
  /-- A dynamic checkpoint held until its configuration commits: generation, flows, offsets (R404). -/
  held     : Option (Nat × List CkptFlow × List (Nat × Nat))
  /-- A configuration checkpoint held in STANDBY until a dynamic one of its generation commits (R404). -/
  cfgHeld  : Option FormeImg
  /-- CK_TIME tick of the last dynamic commit. -/
  dynAt    : Nat
  /-- CK_TIME tick before which no packet is launched after a takeover (R406). -/
  launchAt : Nat
  /-- A handover is scheduled: CK_TIME tick of the decision cycle (R407). -/
  handAt   : Option Nat
  /-- Hash registers of the packets launched since the last whole millisecond (R410). -/
  hashes   : Sparse Nat
  /-- Own hashes of the last complete millisecond. -/
  lastHash : Sparse Nat
  /-- Hash mismatch count per flow (R225). -/
  hashMm   : Sparse Nat
  /-- TDM mismatch, hash mismatch, march failure and loopback failure in the period (R411). -/
  period   : List Bool
  deriving DecidableEq, Repr

/-- The line guard beyond its registers (R432 to R443). -/
structure Guard where
  /-- A PPS_IN edge has been seen since reset (R443). -/
  ppsSeen : Bool
  /-- Pins (6 x port + pin) with a fault declared in the present frame. -/
  faulted : List Nat
  /-- Consecutive faulted frames per pin. -/
  runs    : Sparse Nat
  /-- Tripped pins that GRD.REPROBE asked to probe now (R435): TDM pins, and 96 + TIO pin. -/
  reprobe : List Nat
  deriving DecidableEq, Repr

/-- The DX window and its Compositor side (R447 to R463). -/
structure Dx where
  /-- The cells, by DX address. -/
  cells   : Sparse Nat
  /-- RW cells written by the host since the last refresh. -/
  dirty   : List Nat
  /-- A refresh waits for CTL_CS_N to rise (R452). -/
  waiting : Bool
  /-- SOFT_RESET is being carried out. -/
  softRst : Bool
  /-- Native counters at the last refresh, by DX counter cell. -/
  base    : Sparse Nat
  /-- Events of the next refresh, as DX_INT_STAT bits. -/
  events  : Nat
  /-- The generation at the last refresh. -/
  gen     : Nat
  /-- Set in NATIVE+DX by the forme: the DX MCS and PTI. -/
  mcs     : Nat
  pti     : Nat
  /-- Flows that have been in PLAY since they started. -/
  played  : List Nat
  /-- RATE in force: a change of DX_CTRL.RATE applies only while RUN is 0 (R454). -/
  rate    : Nat
  /-- What failed a native admission rule since it was last written: receive flows 0 to 7, transmit flows 8 to 15, TDM 16. -/
  failed  : List Nat
  /-- Milliseconds since the window went live, one a refresh. -/
  count   : Nat
  /-- Millisecond in which SOFT_RESET was written, and from which RUN has been 1 (R455). -/
  softAt  : Nat
  runAt   : Option Nat
  /-- Millisecond of the first Announce, and of each flow's first packet (R455). -/
  annAt   : Option Nat
  pktAt   : Sparse Nat
  deriving DecidableEq, Repr

/-- A forme apply in progress (R417 to R426). -/
structure Apply where
  target  : FormeImg
  prev    : FormeImg
  atomic  : Bool
  platen  : Nat
  pti     : Nat
  /-- Time of the next epoch, 2^-32 ns. -/
  time    : Nat
  /-- Next epoch, 0 to 7; 8 once E7 has passed. -/
  epoch   : Nat
  /-- Destinations that change (R419), and TDM directions that stop or start (2 x port + receive). -/
  changed : List Nat
  dirs    : List Nat
  done    : Nat
  /-- Failing stage and its status. -/
  failed  : Option (Nat × Nat)
  /-- Stage the rollback has still to restore. -/
  undo    : Nat
  /-- The command that began it: channel and tag; none for a pull or a checkpoint. -/
  cmd     : Option (Nat × Nat)
  /-- The generation taken at the end in place of a raise. -/
  takeGen : Option Nat
  deriving DecidableEq, Repr

/-- What firmware keeps (R182, R214, R217, R224). -/
structure Fw where
  work    : FormeImg
  staging : List Byte
  /-- An image being written: its length and the bytes so far. -/
  image   : Option (Nat × List Byte)
  apply   : Option Apply
  /-- RFC 2974 announcements: seconds between them, by transmit flow. -/
  sap     : Sparse Nat
  /-- An RT.SET that waits for its platen: platen, channel and tag of its command. -/
  route   : Option (Nat × Nat × Nat)
  /-- A member's G command sent to the master (R390): its channel and tag, and whether the master has taken it. -/
  edit    : Option (Nat × Nat × Bool)
  /-- What the NETB key of a flow made from two m= lines compares, as a flow record (R224). -/
  legs    : Sparse (List Byte)
  deriving DecidableEq, Repr

/-- The boot flash (R199). -/
structure Flash where
  serial : Nat
  /-- The PCIe identifiers of the identity record (R199). -/
  pcie   : Nat
  /-- The fused minimum security version (R200): a fuse, beside the record of what identifies the device. -/
  minSec : Nat
  /-- MAC addresses of NETA, NETB and MGMT. -/
  macs   : List Nat
  active : Nat
  trial  : Bool
  tries  : Nat
  /-- A trial has been booted and not committed. -/
  booted : Bool
  images : List (List Byte)
  /-- FORME0 to FORME3 and the sleep-save area; empty when absent. -/
  formes : List (List Byte)
  bootOv : Option Nat
  log    : List Byte
  deriving DecidableEq, Repr

/-- What leaves the device: the model's own record of outputs, newest first. -/
inductive Out where
  /-- An MSI-X message. -/
  | msix (addr : Nat) (data : Word)
  /-- A Sync message of a PTI on a port: over IPv4 (0), IPv6 (1) or IEEE 802.3 (2), in a domain, with its originTimestamp; its UDP
  checksum is zero (0), recomputed (1) or as it was built (2) (R108). -/
  | ptpSync (n x : Nat) (oneStep : Bool) (transport domain : Nat) (time : PtiTime) (sum : Nat)
  /-- The Follow_Up of a two-step Sync, with its event timestamp (R108). -/
  | ptpFollowUp (n x transport domain : Nat) (time : PtiTime)
  /-- An Announce (R112, R220): priority1, clockClass, clockAccuracy, variance, priority2, grandmaster identity, stepsRemoved and
  timeSource. -/
  | ptpAnnounce (n x transport domain : Nat) (data : List Nat)
  /-- A Delay_Req or, peer to peer, a Pdelay_Req (R109). -/
  | ptpDelay (n x : Nat) (p2p : Bool) (transport domain : Nat)
  /-- PPS_OUT rises for `width` ms. -/
  | ppsPulse (width : Nat)
  /-- What QUEUE_POP gave its consumer, with the poisoned words. -/
  | galPop (q : Nat) (e : Option GElem) (bad : List Nat)
  /-- What QUEUE_REWIND answered: 0 moved back, 1 NO_MARK, 2 EMPTY (R282, R284). -/
  | galBack (q answer : Nat)
  /-- A word of the diagnostic window. -/
  | diagRead (addr v : Nat)
  /-- A frame of a transmit port: SDO in each half of its bit clocks from the frame's first launch edge, none while released; the
  launch edges are the rising ones where `rise` says so (R231, R232). -/
  | tdmTx (p k : Nat) (rise : Bool) (line : List (Option Nat))
  /-- A master direction's frame (R230, R233): the level of its frame sync in each bit clock. -/
  | tdmClocks (p : Nat) (rx : Bool) (k : Nat) (sync : List Bool)
  /-- A frame sent on a NET or MGMT port, without FCS. -/
  | netTx (p : Nat) (bytes : List Byte)
  /-- A DMA write to host memory; `poisoned` marks a poisoned TLP. -/
  | hostWrite (addr : Nat) (bytes : List Byte) (poisoned : Bool)
  /-- A DMA read request. -/
  | hostRead (addr len : Nat)
  /-- A frame on a stack link (R377): 0 STKU, 1 STKD. -/
  | synzo (link : Nat) (f : SynzoTx)
  /-- A TIME frame: the PTIs' times at its transmit timestamp and the steps it carries (R382, R384). -/
  | stkTime (link : Nat) (times : List PtiTime) (steps : List (Nat × Int)) (gen : Nat)
  /-- What stack management tells other devices (R385, R390; log 21). -/
  | stkTell (link : Nat) (m : StkMsg)
  /-- A twin heartbeat (R405). -/
  | heartbeat (role state gen seq : Nat)
  /-- TWIN_TAKE_N is driven low for 1 us (R406). -/
  | takePulse
  /-- GPIO pin pulsed by a platen (R119), for so many microseconds; 0 is 100 ns. -/
  | gpioPulse (pin width : Nat)
  /-- Pins of a port's inputs, a bit each, switched to pull-up for 20 us by the open test (R437). -/
  | pullUp (port pins : Nat)
  /-- PME_TO_Ack on the PCIe link (R63). -/
  | pmeToAck
  /-- A whole imposition entry that an 8-byte access of the indirect pair read: its low and its high word (R253). -/
  | entryRead (init : Nat) (lo hi : Word)
  /-- What a bus read returned to its initiator: 0 PCIe, 1 CTL, 2 Compositor. -/
  | busRead (init off : Nat) (v : Word)
  /-- Bytes sent on CTL_MISO or SDA, and whether high impedance. -/
  | ctlTx (bytes : List Byte)
  | ctlHighZ
  /-- A frame of the DOZE receive buffer handed to the Compositor, with its arrival time in every PTI (R72). -/
  | dozeFrame (port : Nat) (bytes : List Byte) (time : List PtiTime)
  /-- An SDP announcement (R224, R459): the flow and its text. -/
  | announce (flow : Nat) (text : List Byte) (dx : Bool)
  /-- An IGMPv3 join sent on MGMT (R459). -/
  | dxJoin (addr : List Byte)
  /-- A reply to a DX discovery query (R460). -/
  | dxReply (bytes : List Byte)
  deriving DecidableEq, Repr

/-- The whole state of the block. -/
structure State where
  rf       : Store
  sh       : Store
  cap      : List Cap
  /-- Units (group, unit) that have yet to meet the boundary at which they take the last capture of their group (R142). -/
  marks    : List (Nat × Nat)
  /-- The time of the last capture of a group: the group, a PTI and the time in it, in 2^-32 ns (R122). -/
  strobes  : List (Nat × Nat × Nat)
  latched  : List Nat
  freeCtr  : Nat
  out      : List Out
  user     : List User
  ticks    : Nat
  /-- Time since the last CK_TIME tick and since the last CK_AON tick, in 1/128 ns. -/
  timeAcc  : Nat
  aonAcc   : Nat
  /-- The last compared pass of the configuration CRC mismatched, and the pass in progress is not to be compared (R152, R153). -/
  crcBad   : Bool
  crcSkip  : Bool
  pwr      : Power
  pins     : Pins
  irq      : Irq
  mbx      : Mbx
  mcss     : List Mcs
  ptis     : List Pti
  platens  : List Platen
  ptm      : PtmPair
  grd      : Guard
  stk      : Stk
  twin     : Twin
  dx       : Dx
  fw       : Fw
  /-- The wake image sealed in a kept half (R65): what firmware held when PD_MCU went off on the way to SLEEP-R. -/
  wakeImg  : Option Fw
  flash    : Flash
  rxf      : Sparse RxFlow
  cls      : Store
  net      : List NetPort
  gal      : Galley
  sorts    : List Sample
  impo     : Sparse ImpEntry
  lanes    : List Lane
  tdms     : List TdmDir
  txs      : Sparse TxFlow
  txp      : List TxPort
  hsts     : Sparse HostBlk
  /-- DMA reads outstanding, oldest first, and bytes and slots moved (R373). -/
  reads    : List HostRead
  hstBytes : List Nat
  hstSlots : Sparse Nat
  bus      : List BusSide
  /-- The commands that wait, first in, first out. -/
  pending  : List Instr
  deriving DecidableEq, Repr

/-- A port of a PTI with nothing received. -/
def portReset : PtpPort := ⟨0, 0, [], [], 0, [], [], 0⟩

/-- A PTI at reset. -/
def ptiReset : Pti :=
  ⟨⟨0, 0, 0⟩, 0, 0, 0, false, false, none, 0, 0, false, 3, List.replicate 3 portReset, [], [], [], false, 0, 0⟩

/-- A TDM direction at reset. -/
def tdmReset : TdmDir := ⟨none, 0, none, 0, 0, [], List.replicate 32 ⟨0, false, 0, 64⟩, [], 0, []⟩

/-- A flow with nothing received. -/
def rxReset : RxFlow :=
  ⟨false, 0, none, 0, 0, 0, 0, 0, none, none, [none, none], none, [], [], 0, none, false, none, [none, none], [false, false], [[], []],
    [0, 0], [0, 0], 0, [0, 0], [0, 0], none, [], []⟩

/-- What an unlisted flow holds. -/
def rxDefault (_ : Nat) : RxFlow := rxReset

/-- A receive flow's record. -/
def State.flow (s : State) (f : Nat) : RxFlow := sGet rxDefault s.rxf f

/-- A flow with nothing sent. -/
def txReset : TxFlow := ⟨0, 0, 0, 0, [], 0, false, 0, [0, 0], 0⟩

/-- An imposition entry at reset is not listed; a kerning lane at reset. -/
def laneReset : Lane := ⟨[], none⟩

/-- A media clock synthesizer at reset. -/
def mcsReset : Mcs := ⟨0, 0, false, true, 0, 0, false, [], 0, 0⟩

/-- A platen at reset. -/
def platenReset : Platen := ⟨none, 0, 0, 0, 0⟩

/-- Reset value of a DX cell (R453); DX_FW, the serial number and the MAC address are loaded by the boot ROM. -/
def dxReset (a : Nat) : Nat :=
  if a = 0 then 0xD064
  else if a = 1 then 0x0012
  else if a = 0x040 ∨ a = 0x060 then 0x01F4
  else if 0x080 ≤ a ∧ a < 0x100 then
    (if a % 16 = 0 then 0x0070 else if a % 16 = 3 then 5004 else if a % 16 = 4 then 96 else 0)
  else if 0x100 ≤ a ∧ a < 0x180 then
    (if a % 16 = 0 then 0x0070 else if a % 16 = 3 then 5004 else if a % 16 = 4 then 0x2210 else 0)
  else 0

/-- A DX cell. -/
def State.dxCell (s : State) (a : Nat) : Nat := sGet dxReset s.dx.cells a

/-- Set a DX cell. -/
def State.setDx (s : State) (a v : Nat) : State :=
  { s with dx := { s.dx with cells := sPut dxReset s.dx.cells a (v % 65536) } }

/-- IRQ_N's condition in DX (R161, R456). -/
def State.dxIrq (s : State) : Bool := s.dxCell 0x020 &&& s.dxCell 0x021 != 0

/-- The interrupt controller at reset (R163 to R181): nothing pending, no source masked, empty stacks, closed groups
and the MSI-X vector masked. -/
def irqReset : Irq :=
  let tg : IrqTarget := ⟨0, 0, [], List.replicate 16 .closed, false, false⟩
  ⟨tg, tg, 0, false, 0, 0, 0, 1, false, false⟩

/-- The mailboxes at reset (R184 to R205, R227). -/
def mbxReset : Mbx :=
  ⟨[], 0, 0, 0, 0, 0, 0, true, true, [], [], List.replicate 3 ⟨[], 0, 0, []⟩, [], false, 0, false, false, false, 0, 0, false⟩

/-- A forme with nothing in it: phase SERVICE (R415). -/
def formeNone : FormeImg := ⟨0, 1, 0, [], [], [], [], [], []⟩

/-- What firmware keeps, before it runs. -/
def fwReset : Fw := ⟨formeNone, [], none, none, [], none, none, []⟩

/-- The stack at reset (R374 to R397). -/
def stkReset : Stk :=
  ⟨List.replicate 2 ⟨0, 0, 0, [0, 0, 0, 0, 0], [0, 0, 0, 0, 0], [], [], [0, 0, 0, 0], 0, 0, 0, [], []⟩, [[], []], [], [], 0, [0, 0, 0, 0], [], [], false, 0⟩

/-- The twin block at reset. -/
def twinReset : Twin :=
  ⟨0, 0, false, false, [], 0, none, none, 0, 0, none, [], [], [], [false, false, false, false]⟩

/-- The DX window at reset (R451). -/
def dxBlockReset : Dx := ⟨[], [], false, false, [], 0, 0, 0, 0, [], 0, [], 0, 0, none, none, []⟩

/-- The galley at reset: no queue holds anything and no half is built. -/
def galReset : Galley := ⟨[], [false, false], [], [], [], 0, 0, false, []⟩

/-- The pins during reset (R56): PWR_CORE_EN high, VID code 20, every open-drain output released, the clock outputs low. -/
def pinsReset : Pins :=
  ⟨0, true, false, some 20, false, false, false, false, List.replicate 5 none, false, [0, 0, 0, 0, 0], false,
    [0, 0, 0, 0], 0⟩

/-- The power controller at a reset with the rails up: the straps are still to be sampled (R50, R52), the demand domains
are off (R59). -/
def powerReset : Power :=
  { rcTimer := false, starting := true, attempts := 0, retryWait := false, railCopy := false
    dom := [true, true, true, false, false, false, false, false, true, false, false, true]
    isolated := List.replicate 12 false, retention := [], target := 0, back := 0, from_ := 0, saved := false
    wakeHeld := false, minOff := false, retFall := false, retRise := false, sinceEntry := 0, xtalTicks := false, slowTicks := 0
    slowTime := 0, handover := false, handDue := false, handbackDue := false, diffs := [0, 0, 0, 0], trimDone := false, sleepSave := 0
    wakeForme := none, wakeImage := false, pmeArmed := none, resetDue := false, hostWake := false, dozeBuf := []
    avsShort := false, trim := 0, irqSaved := none, wasL2 := false, wakeMsg := none }

/-- The boot flash of a board that nothing has been written to. -/
def flashEmpty : Flash := ⟨0, 0, 0, [0, 0, 0], 0, false, 0, false, [[], []], List.replicate 5 [], none, []⟩

/-- A port with nothing carried. -/
def netReset : NetPort := ⟨0, 0, 0, 0, [], []⟩

/-- A transmit port with nothing waiting. -/
def txpReset : TxPort := ⟨[], 0, 0, 0, none⟩

/-- One initiator's bank at reset. -/
def sideReset : BusSide := ⟨none, none, false, none, false, none, [], false, false, 0⟩

/-- The machine right after reset: every register at its reset value (its register file lists none), memories empty, the
straps not sampled yet, and no command waiting. -/
def State.reset : State :=
  { rf := [], sh := [], cap := [], marks := [], strobes := [], latched := [], freeCtr := 0, out := [], user := [], ticks := 0, timeAcc := 0, aonAcc := 0, crcBad := false
    crcSkip := false, pwr := powerReset, pins := pinsReset, irq := irqReset, mbx := mbxReset
    mcss := List.replicate 8 mcsReset, ptis := List.replicate 4 ptiReset, platens := List.replicate 16 platenReset
    ptm := ⟨0, 0⟩, grd := ⟨false, [], [], []⟩, stk := stkReset, twin := twinReset, dx := dxBlockReset, fw := fwReset, wakeImg := none
    flash := flashEmpty, rxf := [], cls := [], net := List.replicate 3 netReset, gal := galReset, sorts := []
    impo := [], lanes := List.replicate 256 laneReset, tdms := List.replicate 32 tdmReset, txs := []
    txp := List.replicate 3 txpReset, hsts := [], reads := [], hstBytes := [0, 0], hstSlots := []
    bus := List.replicate 3 sideReset, pending := [] }

end Sys2Proof.Machine
end

