-- ==== Sys2Proof/Machine/Ops.lean ====
section
/-! DEFINITION. The named operations over the register files, the counters, the pins, the power domains and the
output log that every meaning is built from. -/

namespace Sys2Proof.Machine

/-- The outcome type of every meaning. -/
abbrev Out3 := Host.Outcome State Fault Refusal

namespace State

/-- The active word of a register. -/
def rd (s : State) (k : Nat) : Word := sGet regDefault s.rf k

/-- The shadow word of a register (R140). -/
def rdSh (s : State) (k : Nat) : Word := sGet regDefault s.sh k

/-- Set the active word of a register. -/
def wr (s : State) (k : Nat) (v : Word) : State := { s with rf := sPut regDefault s.rf k v }

/-- Set the shadow word of a register. -/
def wrSh (s : State) (k : Nat) (v : Word) : State := { s with sh := sPut regDefault s.sh k v }

/-- A field of the active word. -/
def fld (s : State) (f : Fld) : Nat := f.of (s.rd f.key)

/-- A field of the shadow word. -/
def fldSh (s : State) (f : Fld) : Nat := f.of (s.rdSh f.key)

/-- Whether a field of the active word is not 0. -/
def flag (s : State) (f : Fld) : Bool := s.fld f != 0

/-- Set a field of the active word. -/
def setFld (s : State) (f : Fld) (v : Nat) : State := s.wr f.key (f.ins v (s.rd f.key))

/-- Set a field of the shadow word. -/
def setFldSh (s : State) (f : Fld) (v : Nat) : State := s.wrSh f.key (f.ins v (s.rdSh f.key))

/-- Set a one-bit field. -/
def setFlag (s : State) (f : Fld) (b : Bool) : State := s.setFld f (b2n b)

/-- Set several fields, first to last. -/
def setFlds (s : State) : List (Fld × Nat) → State
  | [] => s
  | p :: ps => (s.setFld p.1 p.2).setFlds ps

/-- Raise several one-bit fields. -/
def raise (s : State) : List Fld → State
  | [] => s
  | f :: fs => (s.setFld f 1).raise fs

/-- A field as a signed number. -/
def fldInt (s : State) (f : Fld) : Int := toSigned f.w (s.fld f)

/-- Count an event in a counter that stops at its own all-ones value (R156). -/
def count (s : State) (f : Fld) : State :=
  if s.fld f + 1 < 2 ^ f.w then s.setFld f (s.fld f + 1) else s.setFld f (2 ^ f.w - 1)

/-- Count `n` events. -/
def countN (s : State) (f : Fld) (n : Nat) : State :=
  s.setFld f (min (s.fld f + n) (2 ^ f.w - 1))

/-- Count an event in a 32-bit counter with a SAT bit: the bit is set while the counter reads all ones (R156). -/
def countSat (s : State) (f : Fld) (sat : Fld) (i : Nat) : State :=
  let s := s.count f
  if s.fld f = 2 ^ f.w - 1 then s.setFld sat (setBit (s.fld sat) i true) else s

/-- Count `n` events in a counter with a SAT bit. -/
def countSatN (s : State) (f : Fld) (n : Nat) (sat : Fld) (i : Nat) : State :=
  let s := s.countN f n
  if s.fld f = 2 ^ f.w - 1 then s.setFld sat (setBit (s.fld sat) i true) else s

/-- Clear a counter and its SAT bit (R156). -/
def clearCnt (s : State) (f : Fld) (sat : Fld) (i : Nat) : State :=
  (s.setFld f 0).setFld sat (setBit (s.fld sat) i false)

/-- Record what leaves the device, newest first. -/
def emit (s : State) (o : Out) : State := { s with out := o :: s.out }

/-- The next number of the free-value counter, and the state that has used it. -/
def fresh (s : State) : Nat × State := (s.freeCtr, { s with freeCtr := s.freeCtr + 1 })

/-- Whether a power domain is on. -/
def domOn (s : State) (d : Nat) : Bool := s.pwr.dom.getD d false && !s.pwr.isolated.getD d false

/-- Set the power of a domain. -/
def setDom (s : State) (d : Nat) (b : Bool) : State :=
  { s with pwr := { s.pwr with dom := modifyAt s.pwr.dom d (fun _ => b) } }

/-- Drive a VDD_CORE code on VID0-VID5 (R44). -/
def setVid (s : State) (n : Nat) : State :=
  { s.setFld R.PWR.AVS.VID_NOW n with pins := { s.pins with vid := some n } }

/-- The lifecycle phase: 0 BOOT, 1 SERVICE, 2 TEST, 3 RECOVERY (R143). -/
def phase (s : State) : Nat := s.fld R.SYS.PHASE.PHASE_F

/-- The personality: 0 NATIVE, 1 DX, 2 NATIVE+DX, 3 reserved (R4). -/
def pers (s : State) : Nat := s.fld R.SYS.STRAPS.PERS

/-- Whether the DX personality is present (R4). -/
def dxPresent (s : State) : Bool := s.pers == 1 || s.pers == 2

/-- The power state code of PWR.STATE. -/
def pstate (s : State) : Nat := s.fld R.PWR.STATE.STATE_F

/-- Move the power controller to a state (R62), keeping the one before in PREV. -/
def goPower (s : State) (st : Nat) : State :=
  s.setFlds [(R.PWR.STATE.PREV, s.pstate), (R.PWR.STATE.STATE_F, st)]

/-- A code the AVS loop drives; one held in RUN is the last code a wake returns to (R78, R79). -/
def avsHold (s : State) (code : Nat) : State :=
  let t := s.setVid code
  if s.pstate = 0 then t.setFld R.PWR.VID_RUN.VID_RUN_F code else t

/-- What a write of PWR.AVS leaves on the VID pins in RUN and DOZE (R44, R78): code 20 while the loop is off, a code within
its bounds while it runs. -/
def avsFollow (s : State) : State :=
  if 1 < s.pstate then s
  else if s.flag R.PWR.AVS.EN then
    s.avsHold (max (s.fld R.PWR.AVS.VID_MIN) (min (s.fld R.PWR.AVS.VID_MAX) (s.fld R.PWR.AVS.VID_NOW)))
  else s.setVid 20

/-- The code driven before CK_CORE's frequency rises (R44, R79): the higher of code 20 and VID_RUN, and code 20 while the loop is
disabled. -/
def wakeVid (s : State) : Nat := if s.flag R.PWR.AVS.EN then max 20 (s.fld R.PWR.VID_RUN.VID_RUN_F) else 20

/-- Enter RECOVERY for a cause (R143). -/
def enterRecovery (s : State) (reason : Nat) : State :=
  s.setFlds [(R.SYS.PHASE.PHASE_F, 3), (R.SYS.PHASE.REASON, reason)]

/-- Enter SERVICE: quoins come into force, SERVICE_SEEN sets (R143), and firmware hands HST to the host (R182,
R354). -/
def enterService (s : State) : State :=
  let s := s.setFlds [(R.SYS.PHASE.PHASE_F, 1), (R.SYS.PHASE.SERVICE_SEEN, 1)]
  s.setFld R.REGIF.HOST_OWN0.OWN (setBit (s.fld R.REGIF.HOST_OWN0.OWN) 13 true)

/-- The registers of a domain's blocks (R469), by absolute offset. -/
def domBlock (d off : Nat) : Bool :=
  match d with
  | 1 => (off < 0x6000 && !(0x2010 ≤ off && off ≤ 0x2018)) || (0xF000 ≤ off && off < 0x10000) ||
         (0x13000 ≤ off && off < 0x16000) || 0x20000 ≤ off
  | 2 => (0x9000 ≤ off && off < 0xE000) || (0x10000 ≤ off && off < 0x11000)
  | 5 => 0xE000 ≤ off && off < 0xE800
  | 6 => 0xE800 ≤ off && off < 0xF000
  | 7 => 0x12000 ≤ off && off < 0x13000
  | 8 => 0x11000 ≤ off && off < 0x12000
  | 9 => 0x8000 ≤ off && off < 0x8800
  | 10 => 0x8800 ≤ off && off < 0x9000
  | 11 => 0x6000 ≤ off && off < 0x8000
  | _ => false

/-- The domain that must be on for an access to an offset (R469). -/
def domOf (off : Nat) : Nat :=
  if off < 0x6000 then 1
  else if off < 0x8000 then 11
  else if off < 0x8800 then 9
  else if off < 0x9000 then 10
  else if off < 0xE000 then 2
  else if off < 0xE800 then 5
  else if off < 0xF000 then 6
  else if off < 0x10000 then 1
  else if off < 0x11000 then 2
  else if off < 0x12000 then 8
  else if off < 0x13000 then 7
  else 1

/-- Whether a block has started in a media clock domain (R95). -/
def users (s : State) (n : Nat) : Nat := (s.user.filter (fun u => u.mcs == n)).length

/-- A block starts in a domain. -/
def addUser (s : State) (kind item mcs : Nat) : State :=
  { s with user := ⟨kind, item, mcs⟩ :: s.user.filter (fun u => !(u.kind == kind && u.item == item)) }

/-- A block stops. -/
def dropUser (s : State) (kind item : Nat) : State :=
  { s with user := s.user.filter (fun u => !(u.kind == kind && u.item == item)) }

/-- Start a hold of the configuration CRC checker, once a reference is committed (R152). -/
def crcHold (s : State) : State :=
  if s.flag R.REGIF.CFG_CRC_STAT.ARMED then s.setFld R.REGIF.CFG_CRC_STAT.HOLD 1 else s

/-- A latch that a read rearms takes its first record only (R133, R150). -/
def latchOnce (s : State) (k : Nat) (fs : List (Fld × Nat)) : State :=
  if s.latched.contains k then s else { s.setFlds fs with latched := k :: s.latched }

/-- Rearm a read-rearmed latch. -/
def rearm (s : State) (k : Nat) : State := { s with latched := s.latched.filter (· != k) }

end State

/-- Answer a next state. -/
abbrev ok (s : State) : Out3 := .next s

/-- The state an outcome leaves, where a larger command goes on after it. -/
def nextOr (s : State) : Out3 → State
  | .next t => t
  | _ => s

end Sys2Proof.Machine
end

