-- ==== Sys2Proof/Machine/Events.lean ====
section
/-! DEFINITION. Unsolicited events and their queues (R186, R194, R198, R227). -/

namespace Sys2Proof.Machine

/-- The live generation. -/
def liveGen (s : State) : Nat := s.fld R.FRM.GEN.GEN_F

/-- An event queue: channel 0 PCIe slots, 1 CTL slots, 2 the ring. -/
def State.evtq (s : State) (c : Nat) : EvtQueue := s.mbx.evts.getD c ⟨[], 0, 0, []⟩

/-- Set an event queue; EVT_PENDING shows whether a slot user's queue holds anything (R198). -/
def State.setEvtq (s : State) (c : Nat) (q : EvtQueue) : State :=
  let s := { s with mbx := { s.mbx with evts := modifyAt s.mbx.evts c (fun _ => q) } }
  s.setFlag R.MBX.STAT.EVT_PENDING (!(s.evtq 0).queue.isEmpty || !(s.evtq 1).queue.isEmpty)

/-- ACCEPTED commands of a channel, each with a reserved entry (R198). -/
def acceptedOn (s : State) (c : Nat) : Nat :=
  (s.mbx.cmds.filter fun x => x.chan == c && x.phase == .accepted).length

/-- Queue an unsolicited event on one channel (R194, R198, R227): a full slot queue drops it and
counts the loss. -/
def queueEvent (s : State) (c : Nat) (m : Msg) : State :=
  let q := s.evtq c
  if q.masked.contains m.opcode then s
  else if c = 2 then
    (if s.flag R.MBX.RING_CTL.EN then s.setEvtq c { q with queue := q.queue ++ [m] } else s)
  else if 32 ≤ q.queue.length + acceptedOn s c then
    (s.count R.MBX.RING_STAT.EVT_LOST).setEvtq c { q with lost := min 65535 (q.lost + 1), lostFirst := if q.lost = 0 then m.opcode else q.lostFirst }
  else s.setEvtq c { q with queue := q.queue ++ [m] }

/-- Queue an event before all others of a channel, as PWR_WAKE is delivered (R216). -/
def queueFirst (s : State) (c : Nat) (m : Msg) : State :=
  let q := s.evtq c
  if q.masked.contains m.opcode ∨ 32 ≤ q.queue.length + acceptedOn s c then queueEvent s c m
  else s.setEvtq c { q with queue := m :: q.queue }

/-- Emit an event to every channel whose mask enables it (R227). -/
def State.event (s : State) (code : Nat) (data : List Byte) : State :=
  let m : Msg := ⟨code, 0, 0, liveGen s, 0, data⟩
  queueEvent (queueEvent (queueEvent s 0 m) 1 m) 2 m

/-- One byte of an event's payload. -/
def byteOf (n : Nat) : Byte := BitVec.ofNat 8 n

/-- Bits of DX_INT_STAT are set (R456); the event DX_EVENT follows where one was clear (R227). -/
def dxRaise (s : State) (bits : Nat) : State :=
  let old := s.dxCell 0x020
  let new := old ||| bits
  if new = old then s else (s.setDx 0x020 new).event 0xE0F0 (leBytes 2 new)

end Sys2Proof.Machine
end

