-- ==== Sys2Proof/Machine/Irq.lean ====
section
/-! DEFINITION. The interrupt controller (R159 to R181): source lines, pendings, masks, delivery, the priority
stacks, moderation, IRQ_N and MSI-X. -/

namespace Sys2Proof.Machine

/-- The source numbers that name a source; every other one is reserved (R162, R163 and the source tables). -/
def srcNamed (n : Nat) : Bool :=
  n == 0 || (8 ≤ n && n ≤ 10) || (16 ≤ n && n ≤ 32) || (40 ≤ n && n ≤ 44) || (48 ≤ n && n ≤ 66) ||
  (72 ≤ n && n ≤ 92) || (96 ≤ n && n ≤ 130) || (132 ≤ n && n ≤ 134) || (136 ≤ n && n ≤ 142) ||
  (144 ≤ n && n ≤ 178) || (184 ≤ n && n ≤ 186) || (192 ≤ n && n ≤ 194) || (196 ≤ n && n ≤ 211) ||
  (216 ≤ n && n ≤ 222) || (224 ≤ n && n ≤ 230) || (232 ≤ n && n ≤ 237) || n == 244 || n == 245 ||
  (248 ≤ n && n ≤ 251)

/-- First and last source of each summary block, in the order of SUM bits (R162). -/
def sumRanges : List (Nat × Nat) :=
  [(0, 7), (8, 15), (16, 39), (40, 47), (48, 55), (56, 71), (72, 95), (96, 127), (128, 131), (132, 135),
   (136, 143), (144, 159), (160, 175), (176, 183), (184, 191), (192, 195), (196, 203), (204, 215), (216, 223),
   (224, 231), (232, 243), (244, 247), (248, 251)]

/-- The index of the first range that holds a source. -/
def rangeIdx (n : Nat) : List (Nat × Nat) → Nat → Nat
  | [], i => i
  | r :: rs, i => if r.1 ≤ n ∧ n ≤ r.2 then i else rangeIdx n rs (i + 1)

/-- The summary block of a source (R162). -/
def srcBlock (n : Nat) : Nat := rangeIdx n sumRanges 0

/-- The summary block of a register offset, for the reads of R176; 31 for a block without sources. -/
def blockOfOff (off : Nat) : Nat :=
  let b := off / 0x1000
  if b = 1 then 1 else if b = 2 then 2 else if b = 3 then 3 else if b = 4 then 0 else if b = 5 then 4
  else if b = 6 then 5 else if b = 7 then 6 else if b = 8 then 7 else if b = 9 then 8 else if b = 10 then 9
  else if b = 11 then 10 else if b = 12 then 11 else if b = 13 then 12
  else if b = 14 then (if off < 0xE800 then 13 else 14)
  else if b = 15 then 15 else if b = 16 then 16 else if b = 17 then 17 else if b = 18 then 18
  else if b = 19 then 19 else if b = 20 then 20 else if b = 21 then 21 else if 32 ≤ b then 22 else 31

/-- The power domain of a source's block (R165). -/
def srcDomain (n : Nat) : Nat :=
  let b := srcBlock n
  if b = 5 ∨ b = 6 then 11
  else if b = 7 then (if n < 112 then 9 else 10)
  else if b = 8 ∨ b = 9 ∨ b = 10 ∨ b = 11 ∨ b = 12 ∨ b = 16 then 2
  else if b = 13 then 5 else if b = 14 then 6 else if b = 17 then 8 else if b = 18 then 7 else 1

/-- Whether flow `f`'s status asks for its PEND bit: an RC bit or a saturated counter (R316). -/
def rxPend (s : State) (f : Nat) : Bool :=
  (s.rd (R.RXF.F_STAT.reg f)).toNat &&& 0xFFC != 0 || s.flag (R.RXF.F_SAT.SAT f)

/-- As `rxPend`, for a transmit flow (R334). -/
def txPend (s : State) (f : Nat) : Bool :=
  (s.rd (R.TXF.F_STAT.reg f)).toNat &&& 0x7F != 0 || s.flag (R.TXF.F_SAT.SAT f)

/-- As `rxPend`, for a seamless flow (R350). -/
def redPend (s : State) (f : Nat) : Bool :=
  (s.rd (R.RED.F_STAT.reg f)).toNat &&& 0xFE != 0 || s.flag (R.RED.F_SAT.SAT f)

/-- As `rxPend`, for a host block; HT blocks follow HR blocks at 256 (R373). -/
def hstPend (s : State) (b : Nat) : Bool :=
  (s.rd (R.HST.B_STAT.reg b)).toNat &&& 0x1FF != 0 || s.flag (R.HST.B_SAT.SAT b)

/-- As `rxPend`, for a stack block; SI blocks follow SO blocks at 256 (R399). -/
def stkPend (s : State) (b : Nat) : Bool :=
  (s.rd (R.STK.B_STAT.reg b)).toNat &&& 0x3F != 0 || s.flag (R.STK.B_SAT.SAT b)

/-- Whether any number below `n`, from `lo` up, meets a test. -/
def anyFrom (lo n : Nat) (f : Nat → Bool) : Bool := (List.range n).any (fun i => f (lo + i))

/-- The cause of a source's line, from the state its block keeps (the source tables of every chapter). -/
def srcCause (s : State) (n : Nat) : Bool :=
  if n < 56 then
    (if n = 8 then s.flag R.SYS.STRAPS.CHANGED
     else if n = 9 then s.phase == 3
     else if n = 10 then s.mbx.warn
     else if n = 32 then s.rd R.PWR.FAULT.reg != 0
     else if n = 40 then s.latched.contains R.REGIF.VIOL_ADDR.reg
     else if n = 41 then s.latched.contains R.REGIF.OFF_ACCESS_ADDR.reg
     else if n = 42 then s.flag R.REGIF.CFG_CRC_STAT.FAULT
     else if n = 43 then s.flag R.REGIF.CFG_CRC_STAT.STALE
     else if n = 44 then anyFrom 0 3 (fun i => s.flag (R.REGIF.GUARD_STAT.FAIL i))
     else if n = 48 then s.flag R.MBX.RSP_DB_SET.SLOT
     else if n = 49 then s.flag R.MBX.REQ_DB_SET.SLOT
     else if n = 52 then s.flag R.MBX.STAT.EVT_PENDING
     else if n = 53 then s.flag R.MBX.RING_STAT.STOPPED
     else if n = 55 then (s.rd R.MBX.LOAD_STAT.reg).toNat &&& 0xE != 0
     else false)
  else if n < 96 then
    (if n = 56 then s.flag R.CLK.PLL_STAT.REF_LOSS
     else if n = 57 then s.flag R.CLK.PLL_STAT.SYS_LOSS
     else if n = 58 then s.flag R.CLK.WCLK_STAT.LOSS_EV
     else if n ≤ 66 then (s.rd (R.CLK.MCS_STAT.reg (n - 59))).toNat &&& 0x3F != 0
     else if 72 ≤ n ∧ n ≤ 75 then
       (s.rd (R.TIME.PTI_STAT.reg (n - 72))).toNat &&& 0xF9F != 0
     else if 76 ≤ n ∧ n ≤ 91 then (s.rd (R.TIME.PL_STAT.reg (n - 76))).toNat &&& 0x3F != 0
     else if n = 92 then s.flag R.TIME.PTM_CFG.NEW || s.flag R.TIME.PTM_CFG.FAIL
     else false)
  else if n < 144 then
    (if n < 128 then
       let p := (n - 96) / 2
       let m := if n % 2 = 0 then 0xC else 0xFF0
       (s.rd (R.TDM.TX_STAT.reg p)).toNat &&& m != 0 || (s.rd (R.TDM.RX_STAT.reg p)).toNat &&& m != 0 ||
         (n % 2 == 1 && s.flag (R.TDM.SAT.SAT_F p))
     else if n = 128 then s.flag R.IMP.STAT.REFUSED
     else if n = 129 then s.flag R.IMP.STAT.XDOM
     else if n = 130 then s.flag R.IMP.SAT.SAT_F
     else if n = 132 then anyFrom 0 256 (fun i => s.flag (R.KRN.L_STAT.RANGE_EV i))
     else if n = 133 then anyFrom 0 256 (fun i => s.flag (R.KRN.L_STAT.SLEW_DONE_EV i))
     else if n = 134 then anyFrom 0 256 (fun i => s.flag (R.KRN.L_STAT.SAT i))
     else if n = 136 then s.flag R.GAL.EVT.DROP
     else if n = 137 then s.flag R.GAL.EVT.LOW
     else if n = 138 then s.flag R.GAL.EVT.PAR
     else if n = 139 then s.flag R.GAL.EVT.CE || s.flag R.GAL.EVT.UE
     else if n = 140 then s.flag R.GAL.FLUSH_STAT.DONE || s.flag R.GAL.FLUSH_STAT.FLUSH_ABORT
     else if n = 141 then s.flag R.GAL.EVT.LINK_ERR || s.flag R.GAL.SCRUB_STAT.RETIRE_FULL
     else if n = 142 then s.flag R.GAL.SAT.SAT_F
     else false)
  else if n < 204 then
    (if n < 160 then anyFrom (16 * (n - 144)) 16 (rxPend s)
     else if n < 176 then
       anyFrom (16 * (n - 160)) 16 (txPend s) ||
         (n == 175 && anyFrom 0 64 (fun j => s.flag (R.TXF.FUN_STAT.FUN_LATE_EV j)))
     else if n < 195 then
       let p := (n - 176) / 8
       (if n % 8 = 0 then s.flag (R.NET.STAT.LINK_EV p) || s.flag (R.NET.STAT.AN_EV p)
        else if n % 8 = 1 then s.flag (R.NET.STAT.ERR_EV p)
        else if n % 8 = 2 then s.flag (R.NET.SAT.SAT_F p)
        else false)
     else if 196 ≤ n then anyFrom (32 * (n - 196)) 32 (redPend s)
     else false)
  else
    (if n = 204 then anyFrom 0 32 (hstPend s)
     else if n = 205 then anyFrom 32 32 (hstPend s)
     else if n = 206 then anyFrom 256 32 (hstPend s)
     else if n = 207 then anyFrom 288 32 (hstPend s)
     else if n = 208 then (s.rd R.HST.LINK.reg).toNat &&& 0xE != 0
     else if n = 209 then
       anyFrom 0 64 (fun b => s.fld (R.HST.B_STAT.STATE b) == 4) ||
         anyFrom 256 64 (fun b => s.fld (R.HST.B_STAT.STATE b) == 4)
     else if n = 210 then s.flag R.HST.CTL_STAT.FRAME_ERR_EV || s.flag R.HST.CTL_STAT.LATE_EV
     else if n = 211 then
       s.flag R.HST.SAT.CTL || anyFrom 0 64 (fun b => s.flag (R.HST.B_SAT.SAT b)) ||
         anyFrom 256 64 (fun b => s.flag (R.HST.B_SAT.SAT b))
     else if n = 216 then s.flag (R.STK.LINK.LINK_EV 0) || s.flag (R.STK.LINK.LINK_EV 1)
     else if n = 217 then
       s.flag R.STK.STAT.STATE_EV || s.flag R.STK.STAT.MASTER_EV || s.flag R.STK.STAT.REROUTE_EV
     else if n = 218 then s.flag R.STK.STAT.TIME_EV
     else if n = 219 then s.flag R.STK.STAT.GEN_PULL_EV
     else if n = 220 then anyFrom 0 22 (stkPend s) || anyFrom 256 22 (stkPend s)
     else if n = 221 then s.flag R.STK.STAT.ERR_EV
     else if n = 222 then
       s.flag R.STK.SAT.SAT_F || anyFrom 0 22 (fun b => s.flag (R.STK.B_SAT.SAT b)) ||
         anyFrom 256 22 (fun b => s.flag (R.STK.B_SAT.SAT b))
     else if n = 224 then s.flag R.TWIN.STAT.STATE_EV
     else if n = 225 then s.flag R.TWIN.STAT.TAKE_EV
     else if n = 226 then s.flag R.TWIN.STAT.HB_LOST_EV
     else if n = 227 then s.flag R.TWIN.STAT.CKPT_FAIL_EV
     else if n = 228 then s.flag R.TWIN.STAT.MISMATCH_EV
     else if n = 229 then s.flag R.TWIN.STAT.HEALTH_EV || s.flag R.TWIN.STAT.INHIBIT_EV
     else if n = 230 then s.flag R.TWIN.SAT.SAT_F
     else if n = 232 then anyFrom 0 8 (fun p => (s.rd (R.GRD.TDM_STAT.reg p)).toNat &&& 0xBF3F3F != 0)
     else if n = 233 then anyFrom 8 8 (fun p => (s.rd (R.GRD.TDM_STAT.reg p)).toNat &&& 0xBF3F3F != 0)
     else if n = 234 then s.flag R.GRD.LANE_STAT.LANE_EV
     else if n = 235 then s.flag R.GRD.TIO_STAT.TIO_EV
     else if n = 236 then
       s.flag R.GRD.TIO_STAT.TRIPPED || anyFrom 0 16 (fun p => s.flag (R.GRD.TDM_STAT.TRIPPED p))
     else if n = 237 then s.flag R.GRD.SAT.SAT_F
     else if n = 244 then s.flag R.FRM.STAT.STATE_EV || s.flag R.FRM.STAT.DONE_EV
     else if n = 245 then s.flag R.FRM.STAT.ROLLBACK_EV || s.flag R.FRM.STAT.INCONSISTENT
     else if n = 248 then s.dxIrq
     else if n = 249 then s.flag R.DXW.STAT.WRITE_EV
     else if n = 250 then s.flag R.DXW.STAT.FRAME_EV
     else if n = 251 then s.flag R.DXW.STAT.SAT
     else false)

/-- The line of a source: its cause, inactive while its block's domain is off (R165) and on a reserved number. -/
def srcLine (s : State) (n : Nat) : Bool := srcNamed n && s.domOn (srcDomain n) && srcCause s n

/-- The sense of a source: 0 level-high, 1 level-low, 2 rising, 3 falling, 4 both (R165). -/
def srcSense (s : State) (n : Nat) : Nat := s.fld (R.IRQ.SRC_CFG.SENSE n)

/-- Whether a sense is a level. -/
def isLevel (sense : Nat) : Bool := sense < 2

/-- The two targets: `true` is MCU. -/
def State.tgt (s : State) (m : Bool) : IrqTarget := if m then s.irq.mcu else s.irq.host

/-- Set a target. -/
def State.setTgt (s : State) (m : Bool) (t : IrqTarget) : State :=
  if m then { s with irq := { s.irq with mcu := t } } else { s with irq := { s.irq with host := t } }

/-- The priority of a source for a target. -/
def srcPrio (s : State) (m : Bool) (n : Nat) : Nat :=
  if m then s.fld (R.IRQ.SRC_CFG.PRIO_MCU n) else s.fld (R.IRQ.SRC_CFG.PRIO_HOST n)

/-- The delivery threshold of a target. -/
def threshOf (s : State) (m : Bool) : Nat := if m then s.fld R.IRQ.MCU_CTL.THRESH else s.fld R.IRQ.HOST_CTL.THRESH

/-- The running priority of a target: that of its stack's top, 0 when empty (R167). -/
def IrqTarget.running (t : IrqTarget) : Nat :=
  match t.stack with
  | [] => 0
  | e :: _ => e.prio

/-- A target is idle: its stack is empty and its hint is 1 (R178). -/
def idleTgt (s : State) (m : Bool) : Bool :=
  (s.tgt m).stack.isEmpty && (if m then s.flag R.IRQ.MCU_CTL.IDLE else s.flag R.IRQ.HOST_CTL.IDLE)

/-- Whether a source is held by its group's moderation window; STACK_FAULT never is (R177). -/
def srcHeld (s : State) (m : Bool) (n : Nat) : Bool :=
  n != 0 &&
  match (s.tgt m).mods.getD (s.fld (R.IRQ.SRC_CFG.GROUP n)) .closed with
  | .held _ _ => true
  | _ => false

/-- Whether a source qualifies for delivery (R167). -/
def qualifies (s : State) (m : Bool) (n : Nat) : Bool :=
  let t := s.tgt m
  t.pend.getLsbD n && !t.mask.getLsbD n && !srcHeld s m n &&
    decide (max (threshOf s m) t.running < srcPrio s m n)

/-- The delivery condition of a target (R167). -/
def irqCond (s : State) (m : Bool) : Bool :=
  let t := s.tgt m
  t.pend &&& ~~~t.mask != 0 && (List.range 256).any (qualifies s m)

/-- The internal line: the condition now or in either of the two cycles before (R168). -/
def irqLine (s : State) (m : Bool) : Bool := irqCond s m || (s.tgt m).cond1 || (s.tgt m).cond2

/-- Whether a source is active under its sense: its line, inverted under level-low (R165). A reserved source and one whose
domain is off never is. -/
def srcActive (s : State) (n : Nat) : Bool :=
  if srcSense s n = 1 then srcNamed n && s.domOn (srcDomain n) && !srcLine s n else srcLine s n

/-- One bit of a 256-bit set. -/
def bit256 (n : Nat) : BitVec 256 := (1#256) <<< n

/-- Close every open group of a target none of whose sources is pending (R177). -/
def closeGroups (s : State) (m : Bool) : State :=
  let t := s.tgt m
  s.setTgt m { t with mods := t.mods.mapIdx fun g st =>
    match st with
    | .opened =>
      if (List.range 256).any (fun n => t.pend.getLsbD n && s.fld (R.IRQ.SRC_CFG.GROUP n) == g) then .opened
      else .closed
    | x => x }

/-- A pending bit of group `g` went from 0 to 1: open a window, count in it, or release it (R177, R178). -/
def modPendSet (s : State) (m : Bool) (g : Nat) : State :=
  let t := s.tgt m
  let time := s.fld (R.IRQ.MOD.MOD_TIME g)
  let cnt := s.fld (R.IRQ.MOD.MOD_COUNT g)
  let st := t.mods.getD g .closed
  let st' : ModState :=
    match st with
    | .closed =>
      if time = 0 ∧ cnt = 0 then .closed
      else if idleTgt s m ∨ cnt = 1 then .opened
      else .held 1 cnt
    | .held c lim => if (lim ≠ 0 ∧ lim ≤ c + 1) ∨ idleTgt s m then .opened else .held (c + 1) lim
    | .opened => .opened
  s.setTgt m { t with mods := modifyAt t.mods g (fun _ => st') }

/-- Release every held window of a target (R178); a group left with nothing pending closes (R177). -/
def releaseHeld (s : State) (m : Bool) : State :=
  let t := s.tgt m
  closeGroups (s.setTgt m { t with mods := t.mods.map fun st =>
    match st with
    | .held _ _ => .opened
    | x => x }) m

/-- Set a source pending for a target (R165): nothing for a priority of 0. -/
def pendSet (s : State) (m : Bool) (n : Nat) : State :=
  let t := s.tgt m
  if srcPrio s m n = 0 ∨ t.pend.getLsbD n then s
  else
    let s := s.setTgt m { t with pend := t.pend ||| bit256 n }
    if n = 0 then s else modPendSet s m (s.fld (R.IRQ.SRC_CFG.GROUP n))

/-- Clear a pending bit for a target, marking a level source whose line went inactive before its block was read (R176). -/
def pendClear (s : State) (m : Bool) (n : Nat) : State :=
  let t := s.tgt m
  closeGroups (s.setTgt m { t with
    pend := t.pend &&& ~~~(bit256 n)
    stack := t.stack.map fun e =>
      if e.src == n && !e.seen && isLevel (srcSense s n) && !srcActive s n then { e with gone := true } else e }) m

/-- Queue an MSI-X message if the HOST condition became true (R160). -/
def msixIfRose (before : Bool) (s : State) : State :=
  if !before && irqCond s false then { s with irq := { s.irq with msixDue := true } } else s

/-- An edge or pulse on a source sets its pendings under an edge sense (R165). -/
def irqEdge (s : State) (n : Nat) : State :=
  let b := irqCond s false
  if isLevel (srcSense s n) then s else msixIfRose b (pendSet (pendSet s false n) true n)

/-- One target's pending bit under a level sense follows the line (R165). -/
def levelFollow (s : State) (m : Bool) (n : Nat) (active : Bool) : State :=
  if active && srcPrio s m n != 0 then pendSet s m n
  else if (s.tgt m).pend.getLsbD n then pendClear s m n else s

/-- Sample a source's line (R165): level pendings follow it, a selected edge sets the edge pendings. -/
def irqSample (s : State) (n : Nat) : State :=
  let b := irqCond s false
  let now := srcLine s n
  let old := s.irq.raw.getLsbD n
  let s := { s with irq := { s.irq with
    raw := if now then s.irq.raw ||| bit256 n else s.irq.raw &&& ~~~(bit256 n) } }
  let sense := srcSense s n
  let s :=
    if isLevel sense then
      let active := srcActive s n
      levelFollow (levelFollow s false n active) true n active
    else if (sense = 2 ∧ !old ∧ now) ∨ (sense = 3 ∧ old ∧ !now) ∨ (sense = 4 ∧ old ≠ now) then
      pendSet (pendSet s false n) true n
    else s
  msixIfRose b s

/-- The ACK of R169 for a target: accepted, or ACK_BAD with its reason. -/
def irqAck (s : State) (m : Bool) (n : Nat) : State :=
  let t := s.tgt m
  let b := irqCond s false
  let (bad, why) := if m then (R.IRQ.MCU_STAT.ACK_BAD, R.IRQ.MCU_STAT.ACK_WHY)
    else (R.IRQ.HOST_STAT.ACK_BAD, R.IRQ.HOST_STAT.ACK_WHY)
  if !t.pend.getLsbD n then s.setFlds [(bad, 1), (why, 0)]
  else if t.mask.getLsbD n then s.setFlds [(bad, 1), (why, 1)]
  else if 8 ≤ t.stack.length then s.setFlds [(bad, 1), (why, 2)]
  else
    let s := s.setTgt m { t with stack := ⟨n, srcPrio s m n, false, false⟩ :: t.stack }
    let s := if isLevel (srcSense s n) then s else pendClear s m n
    let s := if m then s.setFld R.IRQ.MCU_CTL.IDLE 0 else s.setFld R.IRQ.HOST_CTL.IDLE 0
    msixIfRose b s

/-- Latch an out-of-order completion and raise STACK_FAULT to both targets (R170, R171). -/
def stackFault (s : State) (m : Bool) (expected : Option Nat) (named : Nat) : State :=
  let k := if m then R.IRQ.FAULT_MCU.reg else R.IRQ.FAULT_HOST.reg
  let valid : Fld := ⟨k, 31, 1⟩
  let s :=
    if s.flag valid then s.setFld ⟨k, 30, 1⟩ 1
    else s.setFlds [(valid, 1), (⟨k, 24, 1⟩, b2n expected.isNone), (⟨k, 8, 8⟩, expected.getD 0), (⟨k, 0, 8⟩, named)]
  pendSet (pendSet s false 0) true 0

/-- The EOI of R170 for a target. -/
def irqEoi (s : State) (m : Bool) (n : Nat) : State :=
  let t := s.tgt m
  let b := irqCond s false
  match t.stack with
  | [] => msixIfRose b (stackFault s m none n)
  | e :: rest =>
    if e.src = n then
      let s := s.setTgt m { t with stack := rest }
      let s := if e.gone then s.count (if m then R.IRQ.SPURIOUS.MCU else R.IRQ.SPURIOUS.HOST) else s
      let s := if idleTgt s m then releaseHeld s m else s
      if m then msixIfRose b s
      else if irqCond s false then { s with irq := { s.irq with msixDue := true } }
      else s
    else msixIfRose b (stackFault s m (some e.src) n)

/-- A write to a PEND SET or CLR word: acts on edge sources only (R165). -/
def irqPendWrite (s : State) (m set : Bool) (k : Nat) (v : Word) : State :=
  let b := irqCond s false
  msixIfRose b <| (List.range 32).foldl (fun s j =>
    let n := 32 * k + j
    if v.getLsbD j && srcNamed n && !isLevel (srcSense s n) then
      (if set then pendSet s m n else pendClear s m n)
    else s) s

/-- A write to a MASK SET or CLR word; source 0 is unmaskable (R166, R171). -/
def irqMaskWrite (s : State) (m set : Bool) (k : Nat) (v : Word) : State :=
  let b := irqCond s false
  let t := s.tgt m
  let w : BitVec 256 := ((v.zeroExtend 256) <<< (32 * k)) &&& ~~~(bit256 0)
  msixIfRose b (s.setTgt m { t with mask := if set then t.mask ||| w else t.mask &&& ~~~w })

/-- After a write of a source's configuration, its pendings follow the new sense and priorities (R165, R172). -/
def irqResettle (s : State) (n : Nat) (oldSense : Nat) : State :=
  let sense := srcSense s n
  let s := if isLevel oldSense && !isLevel sense then pendClear (pendClear s false n) true n else s
  if isLevel sense then
    let active := srcActive s n
    levelFollow (levelFollow s false n active) true n active
  else
    let s := if srcPrio s false n = 0 then pendClear s false n else s
    if srcPrio s true n = 0 then pendClear s true n else s

/-- A write of SRCn_CFG (R162, R171, R180, R181): fixed and reserved sources ignore it, SENSE 5 to 7 is ignored
entirely, and PRIO_MCU belongs to the Compositor. -/
def irqCfgWrite (s : State) (mcu : Bool) (n : Nat) (v : Word) : State :=
  let b := irqCond s false
  let old := srcSense s n
  let sense := bits v.toNat 8 3
  if n = 0 ∨ !srcNamed n ∨ 5 ≤ sense then s
  else
    let s := s.setFlds [(R.IRQ.SRC_CFG.GROUP n, bits v.toNat 12 4),
      (R.IRQ.SRC_CFG.SENSE n, if 16 ≤ n ∧ n ≤ 31 then 2 else sense), (R.IRQ.SRC_CFG.PRIO_HOST n, bits v.toNat 0 3)]
    let s := if mcu then s.setFld (R.IRQ.SRC_CFG.PRIO_MCU n) (bits v.toNat 4 3) else s
    msixIfRose b (irqResettle s n old)

/-- A read of a register by a target marks the stack entries of its block's sources (R176). -/
def irqSeen (s : State) (m : Bool) (off : Nat) : State :=
  let t := s.tgt m
  if t.stack.isEmpty then s
  else s.setTgt m { t with
    stack := t.stack.map fun e => if srcBlock e.src == blockOfOff off then { e with seen := true } else e }

/-- The word a set of bits shows in word `k` of eight. -/
def word256 (v : BitVec 256) (k : Nat) : Word := (v >>> (32 * k)).setWidth 32

/-- The summary word of a target (R164). -/
def sumWord (s : State) (m : Bool) : Word :=
  let t := s.tgt m
  let live := t.pend &&& ~~~t.mask
  BitVec.ofNat 32 <| (sumRanges.mapIdx fun b r =>
    if (live >>> r.1) &&& ((1#256 <<< (r.2 - r.1 + 1)) - 1#256) != 0 then 2 ^ b else 0).sum

/-- The live fields of HOST_STAT and MCU_STAT. -/
def statWord (s : State) (m : Bool) : Word :=
  let k := if m then R.IRQ.MCU_STAT.reg else R.IRQ.HOST_STAT.reg
  let t := s.tgt m
  let top := match t.stack with
    | [] => 0
    | e :: _ => e.src
  (s.rd k &&& 0x000E0000#32) ||| BitVec.ofNat 32
    (b2n (irqCond s m) * 2 ^ 31 + b2n (irqLine s m) * 2 ^ 30 + top * 256 + t.stack.length * 16 + t.running)

/-- The groups a target holds. -/
def heldWord (s : State) (m : Bool) : Nat :=
  ((s.tgt m).mods.mapIdx fun g st =>
    match st with
    | .held _ _ => 2 ^ g
    | _ => 0).sum

/-- RAWk: lines under their sense (R181). -/
def rawWord (s : State) (k : Nat) : Word :=
  BitVec.ofNat 32 <| ((List.range 32).map fun j =>
    let n := 32 * k + j
    if srcActive s n then 2 ^ j else 0).sum

/-- What a read of an IRQ register returns where the state is not the register file's. -/
def irqView (s : State) (off : Nat) : Option Word :=
  let d := off - 0x4000
  if d = 0x00 then some (sumWord s false)
  else if d = 0x04 then some (sumWord s true)
  else if d = 0x18 then some (statWord s false)
  else if d = 0x1C then some (statWord s true)
  else if d = 0x3C then some (BitVec.ofNat 32 (heldWord s true * 65536 + heldWord s false))
  else if 0x100 ≤ d ∧ d < 0x140 then some (word256 s.irq.host.pend (d % 0x20 / 4))
  else if 0x140 ≤ d ∧ d < 0x180 then some (word256 s.irq.mcu.pend (d % 0x20 / 4))
  else if 0x180 ≤ d ∧ d < 0x1C0 then some (word256 s.irq.host.mask (d % 0x20 / 4))
  else if 0x1C0 ≤ d ∧ d < 0x200 then some (word256 s.irq.mcu.mask (d % 0x20 / 4))
  else if 0x200 ≤ d ∧ d < 0x220 then some (rawWord s (d % 0x20 / 4))
  else if 0x400 ≤ d ∧ d < 0x800 ∧ !srcNamed ((d - 0x400) / 4) then some 0
  else none

/-- Every source's line is sampled in a cycle of CK_CORE (R165): a source whose line has not moved and whose pendings follow
it already stays as it is. -/
def irqLines (s : State) : State :=
  if !s.domOn 1 then s
  else
    (List.range 256).foldl (fun s n =>
      if srcNamed n && (isLevel (srcSense s n) || srcLine s n != s.irq.raw.getLsbD n) then irqSample s n else s) s

/-- The Compositor resumes from its wait for an interrupt: hardware clears its hint (R178). -/
def mcuResume (s : State) : State := if s.flag R.IRQ.MCU_CTL.IDLE then s.setFld R.IRQ.MCU_CTL.IDLE 0 else s

/-- One cycle of the IRQ_N pipeline and of the three-cycle hold (R168). IRQ_N follows the HOST target unless a DX
personality drives it (R161) or PIN_EN is 0 (R159). The MCU line wakes a Compositor that waits (R178). -/
def irqTick (s : State) : State :=
  let line := irqLine s false
  let s := if irqLine s true then mcuResume s else s
  let low := if s.dxPresent then s.dxIrq
    else s.irq.pipe1 && s.flag R.IRQ.HOST_CTL.PIN_EN
  { s with
    pins := { s.pins with irqLow := low }
    irq := { s.irq with
      host := { s.irq.host with cond2 := s.irq.host.cond1, cond1 := irqCond s false }
      mcu := { s.irq.mcu with cond2 := s.irq.mcu.cond1, cond1 := irqCond s true }
      pipe1 := line } }

/-- IRQ_SOURCE_EVENT (R165): the source's line is seen as its cause register now has it. -/
def execIrqSourceEvent (n : Nat) (s : State) : Out3 := ok (irqSample s n)

/-- MOD_WINDOW_EXPIRY (R177): a held window of a target releases when its timer reaches MOD_TIME. -/
def execModWindowExpiry (mcu : Bool) (g : Nat) (s : State) : Out3 :=
  let b := irqCond s false
  let t := s.tgt mcu
  ok <| msixIfRose b <| closeGroups (s.setTgt mcu { t with mods := modifyAt t.mods g fun st =>
    match st with
    | .held _ _ => .opened
    | x => x }) mcu

/-- MCU_WAIT_FOR_INTERRUPT (R178): the hint is set, and an idle target's held windows release. -/
def execMcuWaitForInterrupt (s : State) : Out3 :=
  let s := s.setFld R.IRQ.MCU_CTL.IDLE 1
  ok (if idleTgt s true then releaseHeld s true else s)

/-- MSIX_MESSAGE_SEND (R160): a queued message leaves when the vector mask, the function mask and the link state
release it; until then the Pending bit shows it. -/
def execMsixMessageSend (funcMask : Bool) (s : State) : Out3 :=
  if !s.irq.msixDue && !s.irq.msixPba then ok s
  else if s.irq.msixVec.getLsbD 0 || funcMask || !s.flag R.HST.LINK.UP || s.pins.perst then
    ok { s with irq := { s.irq with msixPba := true, msixDue := false } }
  else
    ok ({ s with irq := { s.irq with msixPba := false, msixDue := false } }.emit
      (.msix (s.irq.msixHi.toNat * 2 ^ 32 + s.irq.msixLo.toNat) s.irq.msixDat))

end Sys2Proof.Machine
end

