-- ==== Sys2Proof/Machine/Clocks.lean ====
section
/-! DEFINITION. Clocks and media clock synthesizers (R82 to R102): PLL lock, the MCS state machine, its sample
grid, the reference qualification, word clock and the clock outputs. -/

namespace Sys2Proof.Machine

/-- One nanosecond in the unit of times, 2^-32 ns. -/
def nsUnit : Nat := 0x100000000

/-- Sample rate of a RATE code in Hz (R86). -/
def rateHz (code : Nat) : Nat := [44100, 48000, 88200, 96000, 176400, 192000].getD code 48000

/-- The base rate of a RATE code's family in Hz (R86). -/
def baseHz (code : Nat) : Nat := if code % 2 = 0 then 44100 else 48000

/-- The RATE code of a family's base rate. -/
def baseCode (code : Nat) : Nat := code % 2

/-- The detector interval of a RATE code in ns: 32 sample periods at the base rate (R87). -/
def intervalNs (code : Nat) : Nat := 32 * 1000000000 / baseHz code

/-- MCS states (R91). -/
def mcsOff : Nat := 0
def mcsQualify : Nat := 1
def mcsAcquire : Nat := 2
def mcsLocked : Nat := 3
def mcsHold : Nat := 4

namespace State

/-- An MCS's record. -/
def mcs (s : State) (n : Nat) : Mcs := s.mcss.getD n mcsReset

/-- Change an MCS's record. -/
def setMcs (s : State) (n : Nat) (m : Mcs) : State := { s with mcss := modifyAt s.mcss n (fun _ => m) }

/-- An MCS's state code. -/
def mcsState (s : State) (n : Nat) : Nat := s.fld (R.CLK.MCS_STAT.STATE n)

/-- An MCS's sample rate in Hz. -/
def mcsFs (s : State) (n : Nat) : Nat := rateHz (s.fld (R.CLK.MCS_CFG.RATE n))

/-- The PTI in whose time an MCS's instants are counted (R88, R89). -/
def mcsPti (s : State) (n : Nat) : Nat :=
  let t := s.fld (R.CLK.MCS_CFG.REF_TYPE n)
  let i := s.fld (R.CLK.MCS_CFG.REF_ID n)
  if t = 2 ∨ t = 3 then s.fld (R.RXF.F_CFG.PTI i) else i % 4

/-- A block may start or run in the domain: LOCKED, HOLDOVER, or locked since OFF (R91, R95). -/
def mcsRuns (s : State) (n : Nat) : Bool :=
  let st := s.mcsState n
  st == mcsLocked || st == mcsHold || ((st == mcsQualify || st == mcsAcquire) && (s.mcs n).locked)

/-- The MCS drives its clocks: in ACQUIRE, LOCKED and HOLDOVER, and in QUALIFY once locked (R91, R99). -/
def mcsTicks (s : State) (n : Nat) : Bool :=
  let st := s.mcsState n
  st == mcsAcquire || st == mcsLocked || st == mcsHold || (st == mcsQualify && (s.mcs n).locked)

/-- The raw time of a PTI in 2^-32 ns. -/
def ptiRaw (s : State) (n : Nat) : Nat :=
  let t := (s.ptis.getD n ptiReset).time
  (t.sec * 1000000000 + t.ns) * nsUnit + t.frac

end State

/-- The time of R10 that a raw time spells. -/
def ofRaw (r : Nat) : PtiTime :=
  let ns := r / nsUnit
  ⟨ns / 1000000000 % 2 ^ 48, ns % 1000000000, r % nsUnit⟩

/-- The raw time of a time of R10. -/
def toRaw (t : PtiTime) : Nat := (t.sec * 1000000000 + t.ns) * nsUnit + t.frac

/-- `n` sample periods at a rate, in 2^-32 ns. -/
def periods (n fs : Nat) : Nat := n * 1000000000 * nsUnit / fs

/-- A PTI's addend in 2^-32 ns per tick (R10). -/
def State.addend (s : State) (n : Nat) : Nat :=
  s.fld (R.TIME.PTI_ADDEND_INT.INT n) * nsUnit + s.fld (R.TIME.PTI_ADDEND_FRAC.FRAC n)

/-- How an MCS's sample periods compare with nominal ones in the time its instants are counted in, as a fraction: its PTI's rate
against CK_REF, over CK_MEDIA's own (R86, R90, R104). -/
def mcsRatio (s : State) (n : Nat) : Nat × Nat :=
  (s.addend (s.mcsPti n) * 1000000000, max 1 (2 ^ 33 * (1000000000 + (s.mcs n).ppb).toNat))

/-- `c` sample periods of an MCS in the time its instants are counted in, in 2^-32 ns. -/
def mcsPeriods (s : State) (n c : Nat) : Nat :=
  let r := mcsRatio s n
  c * 1000000000 * nsUnit * r.1 / (s.mcsFs n * r.2)

/-- The instant of sample index `k` of an MCS, from its anchor (R90). -/
def instantOf (s : State) (n k : Nat) : Nat :=
  let m := s.mcs n
  if m.idx ≤ k then m.inst + mcsPeriods s n (k - m.idx) else m.inst - mcsPeriods s n (m.idx - k)

/-- The index of the latest sample instant of an MCS at or before a raw time of its PTI (R90). -/
def indexAt (s : State) (n raw : Nat) : Nat :=
  let m := s.mcs n
  let r := mcsRatio s n
  let den := 1000000000 * nsUnit * r.1
  if m.inst ≤ raw then m.idx + (raw - m.inst) * s.mcsFs n * r.2 / den
  else m.idx - ((m.inst - raw) * s.mcsFs n * r.2 + den - 1) / den

/-- The time of the last capture of a group in the time of an MCS's instants (R122): the fire time of its platen, or the capture
itself. -/
def strobeTime (s : State) (g n : Nat) : Nat :=
  match s.strobes.find? fun x => x.1 == g with
  | some (_, p, t) => ((t : Int) + (s.ptiRaw (s.mcsPti n) : Int) - (s.ptiRaw p : Int)).toNat
  | none => s.ptiRaw (s.mcsPti n)

/-- The index of the first sample instant of an MCS at or after a time. -/
def indexFrom (s : State) (n raw : Nat) : Nat :=
  let k := indexAt s n raw
  if instantOf s n k < raw then k + 1 else k

/-- Move an MCS's anchor to its present index, so that a rate set now holds from here on and no instant moves. -/
def mcsHere (s : State) (n : Nat) : State :=
  let k := indexAt s n (s.ptiRaw (s.mcsPti n))
  s.setMcs n { s.mcs n with idx := k, inst := instantOf s n k }

/-- CK_MEDIA of an MCS goes on at an offset from nominal, in parts per 10^9; FREQ.OFFSET shows it. -/
def mcsSetRate (s : State) (n : Nat) (ppb : Int) : State :=
  let s := mcsHere s n
  (s.setMcs n { s.mcs n with ppb := ppb }).setFld (R.CLK.MCS_FREQ.OFFSET n) (ofSigned 32 ppb)

/-- The instants of every MCS counted in a PTI's time stay where they are as the PTI's rate changes. -/
def mcsRebase (s : State) (pti : Nat) : State :=
  (List.range 8).foldl (fun s n => if s.mcsPti n = pti then mcsHere s n else s) s

/-- An MCS's 64-bit sample count now. -/
def mcsCount (s : State) (n : Nat) : Nat := indexAt s n (s.ptiRaw (s.mcsPti n)) % 2 ^ 64

/-- The highest loop bandwidth code of a reference type (R88, R98). -/
def maxBw (t : Nat) : Nat := if t = 2 then 7 else if t = 3 then 3 else 9

/-- A bandwidth code clamped to the reference (R94). -/
def bwClamp (s : State) (n code : Nat) : Nat := min code (maxBw (s.fld (R.CLK.MCS_CFG.REF_TYPE n)))

/-- Whether an output's divisor asks for more than its MCS's MULT (R99). DIV 2 is 512 x fs. -/
def mclkBad (s : State) (i : Nat) : Bool :=
  s.fld (R.CLK.MCLK_CFG.DIV i) == 2 && s.fld (R.CLK.MCS_CFG.MULT (s.fld (R.CLK.MCLK_CFG.SRC i))) == 0

/-- The configuration word and source MCS of clock output 0 (WCLK_OUT) or 1 to 4 (MCLK0 to MCLK3). -/
def outCfg (s : State) (i : Nat) : Nat :=
  if i = 0 then (s.rd R.CLK.WCLK_CFG.reg).toNat else bits (s.rd R.CLK.MCLK_CFG.reg).toNat (8 * (i - 1)) 8

def outSrc (s : State) (i : Nat) : Nat :=
  if i = 0 then s.fld R.CLK.WCLK_CFG.OUT_SRC else s.fld (R.CLK.MCLK_CFG.SRC (i - 1))

/-- Whether a clock output is driven low (R99), and while the reference PLL has lost lock (R84). -/
def outLow (s : State) (i : Nat) : Bool :=
  let en := if i = 0 then s.flag R.CLK.WCLK_CFG.OUT_EN else s.flag (R.CLK.MCLK_CFG.EN (i - 1))
  !en || !s.flag R.CLK.PLL_STAT.REF_LOCK || !s.mcsTicks (outSrc s i) || (i != 0 && mclkBad s (i - 1))

/-- Set what a clock output pin runs with. -/
def setOut (s : State) (i : Nat) (o : Option Nat) : State :=
  { s with pins := { s.pins with clkOut := modifyAt s.pins.clkOut i (fun _ => o) } }

/-- Stop the outputs fed from an MCS (R99). -/
def stopOuts (s : State) (n : Nat) : State :=
  [0, 1, 2, 3, 4].foldl (fun s i => if outSrc s i = n then setOut s i none else s) s

/-- Refresh MCLK_CFG's BAD bits (R99). -/
def mclkRefresh (s : State) : State :=
  [0, 1, 2, 3].foldl (fun s i => s.setFlag (R.CLK.MCLK_CFG.BAD i) (mclkBad s i && s.flag (R.CLK.MCLK_CFG.EN i))) s

/-- Move an MCS to a state (R91), with its event MCS_STATE (R227): entering LOCKED and HOLDOVER set their events, HOLDOVER holds the mean frequency; OFF stops its
clocks and forgets its lock; in QUALIFY before a first lock it stands at nominal with its outputs low (R99). -/
def mcsGo (s : State) (n st : Nat) : State :=
  let m := s.mcs n
  let s := if s.mcsState n = st then s else s.event 0xE040 [byteOf n, byteOf (s.mcsState n), byteOf st]
  let s := s.setFld (R.CLK.MCS_STAT.STATE n) st
  if st = mcsLocked then (s.setMcs n { m with locked := true, outWin := 0, bwTime := 0 }).setFld (R.CLK.MCS_STAT.LOCK_EV n) 1
  else if st = mcsHold then
    let k := m.hist.length
    let mean : Int := if k = 0 then 0 else m.hist.sum / (k : Int)
    (mcsSetRate (s.setMcs n { m with inWin := 0, outWin := 0 }) n mean).setFlds
      [(R.CLK.MCS_STAT.HOLD_EV n, 1), (R.CLK.MCS_STAT.SLEWING n, 0)]
  else if st = mcsAcquire then
    (s.setMcs n { m with inWin := 0, outWin := 0 }).setFld (R.CLK.MCS_STAT.BW_NOW n)
      (bwClamp s n (s.fld (R.CLK.MCS_CFG.BW_ACQ n)))
  else if st = mcsOff then
    stopOuts ((s.setMcs n { m with locked := false, first := true, inWin := 0, outWin := 0, hist := [], bwTime := 0, ppb := 0 }).setFlds
      [(R.CLK.MCS_STAT.BW_NOW n, 0), (R.CLK.MCS_STAT.REF_OK n, 0), (R.CLK.MCS_STAT.SLEWING n, 0), (R.CLK.MCS_FREQ.OFFSET n, 0)]) n
  else
    let s := s.setMcs n { m with inWin := 0, outWin := 0 }
    if m.locked then s else stopOuts (mcsSetRate s n 0) n

/-- A reference loss of an MCS (R91): HOLDOVER after a first lock, QUALIFY before it. R92 sends every MCS on a PTI that steps to
HOLDOVER, R91 gives QUALIFY no such exit: an MCS in QUALIFY stays there (log 91). -/
def mcsLose (s : State) (n : Nat) : State :=
  let st := s.mcsState n
  let s := s.setFld (R.CLK.MCS_STAT.REF_OK n) 0
  if st = mcsOff ∨ st = mcsQualify ∨ st = mcsHold then s
  else if (s.mcs n).locked then mcsGo s n mcsHold else mcsGo s n mcsQualify

/-- The reference's own condition of R88. CRF and RTP references count the packets of their flow; a stream that only stops
stays qualified until a packet of it breaks the count or its flow stops, since R88 names no time limit (log 92). -/
def refQualified (s : State) (n : Nat) : Bool :=
  let t := s.fld (R.CLK.MCS_CFG.REF_TYPE n)
  let i := s.fld (R.CLK.MCS_CFG.REF_ID n)
  if t = 0 then true
  else if t = 1 then s.flag (R.TIME.PTI_STAT.LOCKED (i % 4)) && !s.flag (R.TIME.PTI_STAT.FROZEN (i % 4))
  else if t = 2 then (s.flow i).crfOk && decide (8 ≤ (s.flow i).crfRun)
  else if t = 3 then decide (64 ≤ (s.flow i).rtpRun)
  else
    let code := s.fld (R.CLK.MCS_CFG.RATE n)
    s.flag R.CLK.WCLK_STAT.PRESENT &&
      (s.fld R.CLK.WCLK_STAT.RATE_DET == code || s.fld R.CLK.WCLK_STAT.RATE_DET == baseCode code)

/-- Whether an MCS supports a CRF stream (R89): type Audio Sample, pull 0, and a base frequency equal to fs or the family's base
rate. -/
def crfSupports (s : State) (n : Nat) (c : CrfKind) : Bool :=
  c.type == 1 && c.pull == 0 && (c.base == s.mcsFs n || c.base == baseHz (s.fld (R.CLK.MCS_CFG.RATE n)))

/-- Whether the reference's frequency offset lies outside the capture range (R88), or its CRF stream is unsupported
(R89). -/
def refFar (s : State) (n : Nat) (refPpb : Int) : Bool :=
  let t := s.fld (R.CLK.MCS_CFG.REF_TYPE n)
  2 ≤ t && (decide (1000000 < refPpb.natAbs) ||
    (t == 2 && (match (s.flow (s.fld (R.CLK.MCS_CFG.REF_ID n))).crf with
      | some c => !crfSupports s n c
      | none => false)))

/-- REF_OK falls as soon as a loss is known, ahead of the interval's end (R96). -/
def refFalls (s : State) : State :=
  (List.range 8).foldl (fun s n =>
    if s.flag (R.CLK.MCS_STAT.REF_OK n) && !refQualified s n then s.setFld (R.CLK.MCS_STAT.REF_OK n) 0 else s) s

/-- The first acquisition after OFF fixes the index and steps the phase (R90, R91, R95): by the PTI's epoch, by the last CRF
timestamp, by the sender's RTP timestamp and its arrival, or as the sample index of the time now. -/
def mcsFirst (s : State) (n : Nat) : State :=
  let m := s.mcs n
  let t := s.fld (R.CLK.MCS_CFG.REF_TYPE n)
  let now := s.ptiRaw (s.mcsPti n)
  let fs := s.mcsFs n
  let k := now * fs / (1000000000 * nsUnit)
  let m :=
    let f := s.flow (s.fld (R.CLK.MCS_CFG.REF_ID n))
    if t = 1 then { m with idx := k, inst := periods k fs }
    else if t = 2 then { m with idx := (f.crfTs * fs + 500000000 * nsUnit) / (1000000000 * nsUnit), inst := f.crfTs }
    else if t = 3 then { m with idx := f.lastTs, inst := f.lastArr }
    else { m with idx := k, inst := now }
  s.setMcs n { m with first := false }

/-- The offset from nominal an MCS runs at, of what its loop asks (R90, R93): free-run is nominal, and once the MCS has locked
the offset stays within SLEW_PPM of the reference's. -/
def slewClamp (s : State) (n : Nat) (refPpb freq : Int) : Int :=
  let lim : Int := (s.fld (R.CLK.MCS_LOOP.SLEW_PPM n) * 1000 : Nat)
  if s.fld (R.CLK.MCS_CFG.REF_TYPE n) = 0 then 0
  else if (s.mcs n).locked then max (refPpb - lim) (min (refPpb + lim) freq)
  else freq

/-- The end of an MCS's detector interval (R87, R91, R93, R96): `err` is the signed phase error in ns, `refPpb` the
reference's offset from nominal and `freq` the offset of CK_MEDIA that the loop asks for, in parts per 10^9. SLEWING shows that
the limit of R93 bounds it (log 93). Nothing qualifies while the reference PLL has lost lock (R84). BW_NOW moves towards
BW_LOCK one code per 50 ms, up as well as down (log 94). -/
def mcsInterval (s : State) (n : Nat) (err refPpb freq : Int) : State :=
  let st := s.mcsState n
  if st = mcsOff then s else
  let far := refFar s n refPpb
  let q := refQualified s n && !far && !(s.mcs n).stepped && s.flag R.CLK.PLL_STAT.REF_LOCK
  let s := if far then s.setFld (R.CLK.MCS_STAT.OUT_OF_RANGE n) 1 else s
  let s := s.setFlag (R.CLK.MCS_STAT.REF_OK n) (refQualified s n && !far)
  let s := s.setMcs n { s.mcs n with stepped := false }
  let free := s.fld (R.CLK.MCS_CFG.REF_TYPE n) == 0
  let code := s.fld (R.CLK.MCS_CFG.RATE n)
  let lockNs := 2 * s.fld (R.CLK.MCS_LOOP.LOCK_TH n)
  let unlockNs := 8 * s.fld (R.CLK.MCS_LOOP.UNLOCK_TH n)
  let meas (s : State) : State :=
    let f := slewClamp s n refPpb freq
    let s := s.setFlds [(R.CLK.MCS_PHASE.ERR n, ofSigned 32 err), (R.CLK.MCS_STAT.SLEWING n, b2n (f != freq && !free))]
    let m := s.mcs n
    mcsSetRate (s.setMcs n { m with hist := (f :: m.hist).take (2 ^ s.fld (R.CLK.MCS_LOOP.HOLD_AVG n)) }) n f
  if st = mcsQualify then
    (if q then mcsGo (if (s.mcs n).first then mcsFirst s n else s) n mcsAcquire else s)
  else if st = mcsAcquire then
    (if !q then mcsLose s n
     else
       let s := meas s
       let m := s.mcs n
       if free then mcsGo s n mcsLocked
       else if err.natAbs ≤ lockNs then
         (if s.fld (R.CLK.MCS_LOOP.LOCK_COUNT n) ≤ m.inWin + 1 then mcsGo s n mcsLocked
          else s.setMcs n { m with inWin := m.inWin + 1 })
       else s.setMcs n { m with inWin := 0 })
  else if st = mcsLocked then
    (if !q then mcsLose s n
     else
       let s := meas s
       let m := s.mcs n
       if unlockNs < err.natAbs ∧ free = false then
         (if 1 ≤ m.outWin then mcsGo s n mcsAcquire else s.setMcs n { m with outWin := m.outWin + 1 })
       else
         let t := m.bwTime + intervalNs code
         let now := s.fld (R.CLK.MCS_STAT.BW_NOW n)
         let goal := bwClamp s n (s.fld (R.CLK.MCS_CFG.BW_LOCK n))
         if 50000000 ≤ t then
           (s.setMcs n { m with outWin := 0, bwTime := t - 50000000 }).setFld (R.CLK.MCS_STAT.BW_NOW n)
             (if goal < now then now - 1 else if now < goal then now + 1 else goal)
         else s.setMcs n { m with outWin := 0, bwTime := t })
  else if q then mcsGo s n mcsAcquire
  else s

/-- A step or freeze of a PTI sends every MCS referenced to it to HOLDOVER (R92). -/
def mcsPtiEvent (s : State) (pti : Nat) (step : Bool) : State :=
  (List.range 8).foldl (fun s n =>
    if s.mcsState n ≠ mcsOff ∧ s.fld (R.CLK.MCS_CFG.REF_TYPE n) = 1 ∧ s.fld (R.CLK.MCS_CFG.REF_ID n) = pti then
      let s := s.setMcs n { s.mcs n with stepped := true }
      let s := if step then s.setFld (R.CLK.MCS_STAT.STEP_SEEN n) 1 else s
      mcsLose s n
    else s) s

/-- When a PTI's time steps, the instants of every MCS counted in it keep their physical place (R92). -/
def mcsShift (s : State) (pti : Nat) (delta : Int) : State :=
  { s with mcss := s.mcss.mapIdx fun n m =>
      if s.mcsPti n = pti then { m with inst := ((m.inst : Int) + delta).toNat } else m }

/-- The checks of R94 on a write of MCSn_CFG. -/
def mcsCfgBad (v : Nat) : Bool :=
  let rate := bits v 24 4
  let t := bits v 8 3
  let id := bits v 0 8
  6 ≤ rate || (bits v 28 1 == 1 && 4 ≤ rate) || 5 ≤ t || ((t == 0 || t == 1 || t == 4) && 4 ≤ id) ||
    10 ≤ bits v 16 4 || 10 ≤ bits v 20 4 || bits v 16 4 < bits v 20 4

/-- The check of MCSn_LOOP's table (R102). -/
def mcsLoopBad (v : Nat) : Bool :=
  bits v 16 8 * 8 ≤ bits v 8 8 * 2 || bits v 24 8 == 0 || bits v 4 4 == 0

/-- A strobe applies a captured MCSn_CFG (R95): EN = 0, RATE and MULT are held back while USERS is not 0. A new reference in
another PTI's time moves no instant: the anchor is carried over to that time. -/
def mcsApply (s : State) (n : Nat) (v : Word) : State :=
  let old := s.rd (R.CLK.MCS_CFG.reg n)
  let new := v
  let en := new.getLsbD 31
  let wasEn := old.getLsbD 31
  let rmask : Word := 0x1F000000#32
  let rateCh := (new &&& rmask) ≠ (old &&& rmask)
  let busy := s.users n ≠ 0
  let hold := busy ∧ ((wasEn ∧ !en) ∨ rateCh)
  let keep : Word := (if busy ∧ wasEn ∧ !en then 0x80000000#32 else 0#32) ||| (if busy ∧ rateCh then rmask else 0#32)
  let eff := (new &&& ~~~keep) ||| (old &&& keep)
  let refCh := (new &&& 0x7FF#32) ≠ (old &&& 0x7FF#32)
  let k := indexAt s n (s.ptiRaw (s.mcsPti n))
  let ago : Int := (s.ptiRaw (s.mcsPti n) : Int) - (instantOf s n k : Int)
  let s := s.wr (R.CLK.MCS_CFG.reg n) eff
  let s := if refCh then
      s.setMcs n { s.mcs n with idx := k, inst := ((s.ptiRaw (s.mcsPti n) : Int) - ago).toNat }
    else s
  let s := if hold then s.setFld (R.CLK.MCS_STAT.BUSY_REFUSED n) 1 else s
  let st := s.mcsState n
  let s :=
    if !eff.getLsbD 31 then (if st = mcsOff then s else mcsGo s n mcsOff)
    else if st = mcsOff then (if s.pstate = 0 then mcsGo s n mcsQualify else s)
    else if rateCh ∧ !busy then mcsGo (mcsGo s n mcsOff) n mcsQualify
    else if refCh then (mcsGo s n mcsQualify).setFld (R.CLK.MCS_STAT.REF_OK n) 0
    else s
  mclkRefresh s

/-- A strobe applies a captured register of group 2 (R95, R100). An output whose source, divisor or enable changes finishes its
period and stays low until CLK_OUTPUT_SWITCH; a change of OUT_OFFSET alone, which R100 does not name, moves WCLK_OUT's edges
at once (log 95). -/
def clkApply (s : State) (k : Nat) (v : Word) : State :=
  let n := (k - 0x6100) / 0x20
  if 0x6100 ≤ k ∧ (k - 0x6100) % 0x20 = 0 then mcsApply s n v
  else if k = R.CLK.WCLK_CFG.reg then
    let same := (R.CLK.WCLK_CFG.OUT_EN.of v == s.fld R.CLK.WCLK_CFG.OUT_EN) &&
      (R.CLK.WCLK_CFG.OUT_SRC.of v == s.fld R.CLK.WCLK_CFG.OUT_SRC)
    let runs := (s.pins.clkOut.getD 0 none).isSome
    let s := s.wr k v
    setOut s 0 (if same && runs then some (outCfg s 0) else none)
  else if k = R.CLK.MCLK_CFG.reg then
    let old := s.rd k
    let bad := old &&& 0x08080808#32
    let s := s.wr k ((v &&& ~~~0x08080808#32) ||| bad)
    mclkRefresh <| [0, 1, 2, 3].foldl (fun s i =>
      if bits old.toNat (8 * i) 8 &&& 0xF7 = bits v.toNat (8 * i) 8 &&& 0xF7 then s else setOut s (i + 1) none) s
  else s.wr k v

/-- REF_PLL_LOCK (R83). After a handover the next CK_AON edge hands the time back (R118). -/
def execRefPllLock (s : State) : Out3 :=
  if s.domOn 11 then
    ok { (s.setFld R.CLK.PLL_STAT.REF_LOCK 1) with pwr := { s.pwr with handbackDue := s.pwr.handover } }
  else ok s

/-- PLL_LOSS_OF_LOCK (R84): the loss bit sets; with the reference PLL lost every running MCS goes to HOLDOVER and the
outputs fed from it are muted. -/
def pllLossOfLock (sys : Bool) (s : State) : Out3 :=
  if sys then ok (s.setFlds [(R.CLK.PLL_STAT.SYS_LOCK, 0), (R.CLK.PLL_STAT.SYS_LOSS, 1)])
  else
    let s := s.setFlds [(R.CLK.PLL_STAT.REF_LOCK, 0), (R.CLK.PLL_STAT.REF_LOSS, 1)]
    ok ((List.range 8).foldl (fun s n => stopOuts (mcsLose s n) n) s)

/-- WCLK_IN has met one of the six rates over 64 periods (R101). While PRESENT stands, another rate shows only after a loss. -/
def wclkQualify (rate period : Nat) (s : State) : State :=
  if 6 ≤ rate ∨ (s.flag R.CLK.WCLK_STAT.PRESENT = true ∧ s.fld R.CLK.WCLK_STAT.RATE_DET ≠ rate) then s
  else s.setFlds [(R.CLK.WCLK_STAT.PRESENT, 1), (R.CLK.WCLK_STAT.RATE_DET, rate), (R.CLK.WCLK_STAT.PERIOD, period)]

/-- WCLK_IN is lost (R101): PRESENT clears and RATE_DET reads none; REF_OK of an MCS on word clock falls, and it sees the loss at
the end of its interval (R96). -/
def wclkInLoss (s : State) : State :=
  refFalls (s.setFlds [(R.CLK.WCLK_STAT.PRESENT, 0), (R.CLK.WCLK_STAT.RATE_DET, 7), (R.CLK.WCLK_STAT.LOSS_EV, 1),
    (R.CLK.WCLK_STAT.PERIOD, 0)])

/-- CLK_OUTPUT_SWITCH (R99, R100): at the first sample instant of its source the pin takes the active configuration,
or stays low. -/
def execClkOutputSwitch (pin : Nat) (s : State) : Out3 :=
  ok (setOut s pin (if outLow s pin then none else some (outCfg s pin)))

end Sys2Proof.Machine
end

