-- ==== Sys2Proof/Machine/Impo.lean ====
section
/-! DEFINITION. Sorts, the imposition table and the kerning lanes (R7, R249 to R269). -/

namespace Sys2Proof.Machine

/-- A field of a TDM direction: the receive registers stand 0x20 above the transmit ones. -/
def td (f : Fld) (rx : Bool) : Fld := if rx then { f with key := f.key + 0x20 } else f

/-- Active slots of a mask below SLOTS, in order (R228, R241). -/
def activeSlots (slots : Nat) (mask : Word) : List Nat := (List.range (min slots 32)).filter (fun k => mask.getLsbD k)

/-- The slot that carries a channel index under a mask (R241). -/
def slotOf (slots : Nat) (compact : Bool) (mask : Word) (i : Nat) : Option Nat :=
  let a := activeSlots slots mask
  if compact then a[i]? else if a.contains i then some i else none

/-- A direction's channel mapping in force. -/
def dirSlot (s : State) (p : Nat) (rx : Bool) (i : Nat) : Option Nat :=
  slotOf (s.fld (td (R.TDM.TX_FRAME.SLOTS p) rx)) (s.flag (td (R.TDM.TX_FMT.COMPACT p) rx))
    (s.rd (td (R.TDM.TX_MASK.SLOTS p) rx).key) i

/-- An entry with no route, nothing fading. -/
def impDefault (_ : Nat) : ImpEntry :=
  let v : ImpVal := ⟨0xFFFF0000#32, true, 0, 64, 0xFFFF⟩
  ⟨0xFFFF0000#32, none, none, v, v, 0, 0, false⟩

/-- The entry of a destination. -/
def State.imp (s : State) (d : Nat) : ImpEntry := sGet impDefault s.impo d

/-- Set the entry of a destination. -/
def State.setImp (s : State) (d : Nat) (e : ImpEntry) : State := { s with impo := sPut impDefault s.impo d e }

/-- A channel with nothing heard yet. -/
def concReset : Conc := ⟨0, false, 0, 64⟩

/-- A product by n/64, rounded to one of its two neighbours: which one is not stated (log 13). -/
def scale64 (w : Word) (g : Nat) : Word :=
  if 64 ≤ g then w
  else
    let p := toSigned 32 w.toNat * (g : Int)
    let q := p / 64
    BitVec.ofInt 32 (if p % 64 = 0 then q else if Config.roundUp p then q + 1 else q)

/-- Concealment after `n` further missing samples (R246). -/
def concSkip (c : Conc) (n : Nat) : Conc := { c with miss := c.miss + n, scale := c.scale - n }

/-- The word of a missing sample, after `concSkip` has counted it (R246): 0 ZERO, 1 HOLD, 2 FADE. A transparent word is
concealed as ZERO. -/
def concWord (mode : Nat) (c : Conc) : Word :=
  if c.lastT then 0
  else if mode = 1 then (if c.miss ≤ 64 then c.last else 0)
  else if mode = 2 then scale64 c.last c.scale
  else 0

/-- A missing sample (R246). -/
def concMiss (mode : Nat) (c : Conc) : Word × Conc :=
  let c := concSkip c 1
  (concWord mode c, c)

/-- A sample that is there (R246): under FADE the scale rises by 1/64 a sample from where it stands. -/
def concGood (mode : Nat) (c : Conc) (w : Word) (t : Bool) : Word × Conc :=
  let sc := if mode = 2 then min 64 (c.scale + 1) else 64
  (if t then w else scale64 w sc, ⟨w, t, 0, sc⟩)

/-- Record a sample of a source; samples of that source older than 4096 indices are forgotten (log 14). -/
def pushSort (s : State) (src idx : Nat) (w : Word) (t : Bool) : State :=
  { s with sorts := ⟨src, idx, w, t⟩ ::
      s.sorts.filter (fun x => !(x.src == src && (x.idx == idx || decide (x.idx + 4096 ≤ idx)))) }

/-- The recorded sample of a source at an index. -/
def findSort (s : State) (src idx : Nat) : Option (Word × Bool) :=
  (s.sorts.find? fun x => x.src == src && x.idx == idx).map fun x => (x.word, x.transp)

/-- Identifiers a channel takes at a RATE code (R250). -/
def rateMult (code : Nat) : Nat := if code < 2 then 1 else if code < 4 then 2 else 4

/-- The multiplier of an MCS. -/
def mcsMult (s : State) (n : Nat) : Nat := rateMult (s.fld (R.CLK.MCS_CFG.RATE n))

/-- The block of a list that owns an identifier's offset within its space, with the channel it names (R250). -/
def findBlock (off : Nat) (base chans mult : Nat → Nat) (on : Nat → Bool) : List Nat → Option (Nat × Nat)
  | [] => none
  | b :: bs =>
    if on b && decide (base b ≤ off) && decide (off < base b + chans b * mult b) && (off - base b) % mult b == 0 then
      some (b, (off - base b) / mult b)
    else findBlock off base chans mult on bs

/-- The receive flow and channel of an offset in the flow space. -/
def rxChan (s : State) (off : Nat) : Option (Nat × Nat) :=
  findBlock off (fun i => s.fld (R.RXF.F_CHAN.BASE i)) (fun i => s.fld (R.RXF.F_CHAN.CHANNELS i))
    (fun i => mcsMult s (s.fld (R.RXF.F_CFG.MCS i))) (fun i => s.flag (R.RXF.F_STAT.STATE i)) (List.range 256)

/-- The transmit flow and channel of an offset in the flow space. -/
def txChan (s : State) (off : Nat) : Option (Nat × Nat) :=
  findBlock off (fun i => s.fld (R.TXF.F_CHAN.BASE i)) (fun i => s.fld (R.TXF.F_CHAN.CHANNELS i))
    (fun i => mcsMult s (s.fld (R.TXF.F_CFG.MCS i))) (fun i => s.flag (R.TXF.F_STAT.STATE i)) (List.range 256)

/-- The host block and channel of an offset in the host space: receive blocks from 0, transmit blocks from 256. -/
def hstChan (s : State) (tx : Bool) (off : Nat) : Option (Nat × Nat) :=
  findBlock off (fun i => s.fld (R.HST.B_CFG.BASE i)) (fun i => s.fld (R.HST.B_CFG.CHANNELS i))
    (fun i => mcsMult s (s.fld (R.HST.B_CFG.MCS i))) (fun i => s.flag (R.HST.B_STAT.STATE i))
    ((List.range 64).map (· + (if tx then 256 else 0)))

/-- The stack block and channel of an offset in the stack space: outbound blocks from 0, inbound from 256. -/
def stkChan (s : State) (si : Bool) (off : Nat) : Option (Nat × Nat) :=
  findBlock off (fun i => s.fld (R.STK.B_CFG.BASE i)) (fun i => s.fld (R.STK.B_CFG.CHANNELS i))
    (fun i => mcsMult s (s.fld (R.STK.B_CFG.MCS i))) (fun i => s.flag (R.STK.B_STAT.STATE i))
    ((List.range 22).map (· + (if si then 256 else 0)))

/-- The domain of a source identifier (R251, R252): `none` is unknown; `some none` belongs to no domain. -/
def srcDom (s : State) (id : Nat) : Option (Option Nat) :=
  if id < 0x800 then (rxChan s id).map fun p => some (s.fld (R.RXF.F_CFG.MCS p.1))
  else if id < 0xA00 then some (some (s.fld (R.TDM.RX_FMT.MCS ((id - 0x800) / 32))))
  else if id < 0x1200 then (hstChan s true (id - 0xA00)).map fun p => some (s.fld (R.HST.B_CFG.MCS p.1))
  else if id < 0x1A00 then (stkChan s true (id - 0x1200)).map fun p => some (s.fld (R.STK.B_CFG.MCS p.1))
  else if id < 0x1E00 then
    let n := (id - 0x1A00) / 4
    if s.fld (R.KRN.L_CFG.MODE n) = 1 then some (some (s.fld (R.KRN.L_CFG.OUT_MCS n))) else none
  else if id = 0x1E00 then some none
  else if 0x1E10 ≤ id ∧ id ≤ 0x1E17 then some (some (id - 0x1E10))
  else if 0x1E20 ≤ id ∧ id ≤ 0x1E27 then some (some (id - 0x1E20))
  else none

/-- The domain of a destination identifier; `none` is unknown. -/
def dstDom (s : State) (id : Nat) : Option Nat :=
  if id < 0x800 then (txChan s id).map fun p => s.fld (R.TXF.F_CFG.MCS p.1)
  else if id < 0xA00 then some (s.fld (R.TDM.TX_FMT.MCS ((id - 0x800) / 32)))
  else if id < 0x1200 then (hstChan s false (id - 0xA00)).map fun p => s.fld (R.HST.B_CFG.MCS p.1)
  else if id < 0x1A00 then (stkChan s false (id - 0x1200)).map fun p => s.fld (R.STK.B_CFG.MCS p.1)
  else if id < 0x1E00 then
    let n := (id - 0x1A00) / 4
    if s.fld (R.KRN.L_CFG.MODE n) = 1 then some (s.fld (R.KRN.L_CFG.IN_MCS n)) else none
  else none

/-- A transparent source (R256). -/
def srcTransp (s : State) (id : Nat) : Bool :=
  if id < 0x800 then (match rxChan s id with | some p => s.fld (R.RXF.F_CFG.FORMAT p.1) == 3 | none => false)
  else if id < 0xA00 then false
  else if id < 0x1200 then (match hstChan s true (id - 0xA00) with | some p => s.flag (R.HST.B_CFG.TRANSP p.1) | none => false)
  else if id < 0x1A00 then (match stkChan s true (id - 0x1200) with | some p => s.flag (R.STK.B_CFG.TRANSP p.1) | none => false)
  else false

/-- A mixed source: an AM824 receive channel (R256). -/
def srcMixed (s : State) (id : Nat) : Bool :=
  id < 0x800 && (match rxChan s id with | some p => s.fld (R.RXF.F_CFG.FORMAT p.1) == 8 | none => false)

/-- The format of the transmit flow a destination belongs to, 255 for another kind. -/
def dstFormat (s : State) (d : Nat) : Nat :=
  if d < 0x800 then (match txChan s d with | some p => s.fld (R.TXF.F_CFG.FORMAT p.1) | none => 255) else 255

/-- A destination that takes only sorts: a lane input, or a transmit flow of a format other than 3 and 8 (R256). -/
def sortsOnly (s : State) (d : Nat) : Bool :=
  (0x1A00 ≤ d && decide (d < 0x1E00)) || (decide (d < 0x800) && dstFormat s d != 3 && dstFormat s d != 8)

/-- Whether a conversion is allowed for a pair (R256). -/
def convOk (s : State) (d src conv : Nat) : Bool :=
  let silent := src == 0xFFFF || src == 0x1E00
  let tr := srcTransp s src
  let mx := srcMixed s src
  let base :=
    if conv = 0 then !(tr && sortsOnly s d)
    else if conv ≤ 4 then !tr
    else if conv = 5 then tr || mx
    else false
  let f3 := if dstFormat s d = 3 then conv == 0 && (tr || silent || mx) else true
  base && f3

/-- The judgement of an entry write (R254): the reason it is refused, if it is. -/
def impJudge (s : State) (d : Nat) (v : Word) : Option Nat :=
  let src := bits v.toNat 16 16
  let conv := bits v.toNat 8 8
  match dstDom s d with
  | none => some 2
  | some dd =>
    if src = 0xFFFF then (if convOk s d src conv && bits v.toNat 2 6 == 0 then none else some 5)
    else
      match srcDom s src with
      | none => some 2
      | some sd =>
        if !convOk s d src conv || bits v.toNat 2 6 != 0 then some 5
        else
          match sd with
          | none => none
          | some m => if m = dd then none else some 1

/-- A write of an entry's low word that has passed the bus's checks (R254). Entries from 0x1E00 hold no destination. -/
def impWrite (s : State) (d : Nat) (v : Word) : State :=
  match impJudge s d v with
  | none => let e := s.imp d
            s.setImp d { e with shadow := v, reason := 0 }
  | some r =>
    let s := if d < 0x1E00 then s.setImp d { s.imp d with reason := r } else s
    let s := s.latchOnce R.IMP.REFUSE_INFO.reg [(R.IMP.REFUSE_INFO.DEST, d), (R.IMP.REFUSE_INFO.REASON, r)]
    (s.setFld R.IMP.STAT.REFUSED 1).countSat R.IMP.REFUSED_CNT.COUNT R.IMP.SAT.SAT_F 0

/-- Field readings of an entry's low word. -/
def impSrc (w : Word) : Nat := bits w.toNat 16 16
def impConv (w : Word) : Nat := bits w.toNat 8 8
def impMute (w : Word) : Bool := w.getLsbD 1
def impInv (w : Word) : Bool := w.getLsbD 0

/-- The mute gain of a value at an index, in 1/64 (R255). -/
def ImpVal.gain (v : ImpVal) (k : Nat) : Nat :=
  if k < v.at_ then v.g0
  else if v.up then min 64 (v.g0 + (k - v.at_ + 1)) else v.g0 - (k - v.at_ + 1)

/-- The source a value plays at an index: during a fade-out the one before it (R258). -/
def ImpVal.source (v : ImpVal) (k : Nat) : Nat :=
  if !v.up && decide (0 < v.gain k) then v.fadeSrc else impSrc v.word

/-- The value of an entry that governs an index (R257). -/
def ImpEntry.at_ (e : ImpEntry) (k : Nat) : ImpVal := if k < e.eff then e.prev else e.cur

/-- An identifier of a kerning lane. -/
def laneId (id : Nat) : Bool := decide (0x1A00 ≤ id) && decide (id < 0x1E00)

/-- Entries whose domain differs from their source's, by the active value (R259), and those that a lane's stop has left with an
unknown identifier (R263). -/
def crosses (s : State) (d : Nat) : Bool :=
  let src := impSrc (s.imp d).cur.word
  src != 0xFFFF &&
    match srcDom s src, dstDom s d with
    | some (some a), some b => a != b
    | none, _ => laneId src
    | _, none => laneId d
    | _, _ => false

/-- The listed entries. -/
def impListed (s : State) : List Nat := s.impo.map Prod.fst

/-- Refresh USED and HELD (R268). -/
def impCount (s : State) : State :=
  let used := (s.impo.filter fun p => impSrc p.2.cur.word != 0xFFFF).length
  let held := (s.impo.filter fun p => p.2.held).length
  s.setFlds [(R.IMP.STAT.USED, used), (R.IMP.XDOM_INFO.HELD, held)]

/-- The sample index of a destination's domain now. -/
def dstIndex (s : State) (d : Nat) : Nat := mcsCount s ((dstDom s d).getD 0)

/-- XDOM_HOLD (R259) on one entry: it is held while it crosses domains, and fades in when it no longer does. -/
def holdCheck (s : State) (d : Nat) : State :=
  let e := s.imp d
  let x := crosses s d
  if x && !e.held then
    let s := s.setImp d { e with held := true }
    let s := s.latchOnce R.IMP.XDOM_INFO.reg [(R.IMP.XDOM_INFO.DEST, d)]
    (s.setFld R.IMP.STAT.XDOM 1).countSat R.IMP.XDOM_CNT.COUNT R.IMP.SAT.SAT_F 1
  else if !x && e.held then
    let k := dstIndex s d
    let v := if impMute e.cur.word then { e.cur with up := false, at_ := k, g0 := 0 }
      else { e.cur with up := true, at_ := k, g0 := 0 }
    s.setImp d { e with held := false, cur := v }
  else s

/-- XDOM_HOLD over the table, after a block's MCS has changed (R259). -/
def xdomHold (s : State) : State := impCount ((impListed s).foldl holdCheck s)

/-- The value an entry takes at index `k` for a captured word (R255, R258). -/
def impNext (e : ImpEntry) (w : Word) (k : Nat) : ImpVal :=
  let g := e.cur.gain (k - 1)
  let was := impMute e.cur.word
  if impMute w then
    (if !was then ⟨w, false, k, g, e.cur.source (k - 1)⟩
     else { e.cur with word := w, fadeSrc := if impSrc w = impSrc e.cur.word then e.cur.fadeSrc else impSrc w })
  else if was then ⟨w, true, k, g, impSrc w⟩
  else { e.cur with word := w, fadeSrc := impSrc w }

/-- A captured entry takes effect from index `k` (R257 to R260). -/
def impTake (s : State) (d k : Nat) : State :=
  let e := s.imp d
  match e.cap with
  | none => s
  | some w =>
    let v := impNext e w k
    let s := s.setImp d { e with cap := none, link := none, prev := e.cur, cur := v, eff := k }
    impCount (holdCheck s d)

/-- Refresh UPDATE_STAT.PENDING: a group's bit stays until every unit of its last capture has met its boundary (R142). -/
def pendRefresh (s : State) : State :=
  s.setFld R.REGIF.UPDATE_STAT.PENDING <| ((List.range 16).map fun g =>
    if s.cap.any (fun c => c.grp == g) || s.marks.any (fun m => m.1 == g) || (g == 1 && s.impo.any (fun p => p.2.cap.isSome)) then
      2 ^ g
    else 0).sum

/-- The high word of an entry (R253). -/
def impHigh (s : State) (d : Nat) : Word :=
  let e := s.imp d
  let k := dstIndex s d
  let v := e.at_ k
  let g := v.gain k
  let fading := if v.up then decide (g < 64) else decide (0 < g)
  BitVec.ofNat 32 (e.reason * 65536 + b2n fading * 32768 + b2n (g == 0 || e.held) * 16384 + b2n e.held * 8192)

/-- Polarity (R255). -/
def invertWord (w : Word) : Word := if w = 0x80000000#32 then 0x7FFFFFFF#32 else 0#32 - w

/-- Rounding to nearest at bit `b`, ties away from zero, saturating (R256). -/
def roundAt (b : Nat) (x : Int) : Word :=
  let u : Int := 2 ^ b
  let mag := (x.natAbs + 2 ^ (b - 1)) / 2 ^ b
  let q : Int := if x < 0 then -(mag : Int) else (mag : Int)
  let top : Int := 2 ^ (31 - b) - 1
  BitVec.ofInt 32 (clampInt (-(2 ^ (31 - b))) top q * u)

/-- Triangular dither of plus or minus one LSB at bit `b` (R256); the generator's words are not stated (log 13). -/
def ditherAt (b d k : Nat) (w : Word) : Int :=
  ((Config.dither d k w).toNat % (2 * 2 ^ b + 1) : Nat) - ((2 ^ b : Nat) : Int)

/-- Conversion (R256). -/
def convert (conv d k : Nat) (w : Word) (t : Bool) : Word × Bool :=
  if t then (if conv = 5 then (w &&& 0xFFFFFF00#32, false) else (w, true))
  else
    let x := toSigned 32 w.toNat
    if conv = 1 then (roundAt 8 x, false)
    else if conv = 2 then (roundAt 16 x, false)
    else if conv = 3 then (roundAt 8 (x + ditherAt 8 d k w), false)
    else if conv = 4 then (roundAt 16 (x + ditherAt 16 d k w), false)
    else (w, false)

/-- Per-entry processing (R255, R256): polarity, mute gain, conversion; a destination faded out carries zero sorts. -/
def process (s : State) (d k : Nat) (v : ImpVal) (x : Word × Bool) : Word × Bool :=
  let (w, t) := x
  let w := if impInv v.word && !t then invertWord w else w
  let w := if t then (if impMute v.word then 0 else w) else scale64 w (v.gain k)
  let (w, t) := if !t && v.gain k == 0 then (0, false) else convert (impConv v.word) d k w t
  if t && sortsOnly s d then (0, false) else (w, t)

/-- A lane's record. -/
def State.lane (s : State) (n : Nat) : Lane := s.lanes.getD n laneReset

/-- Change a lane's record. -/
def State.setLane (s : State) (n : Nat) (l : Lane) : State := { s with lanes := modifyAt s.lanes n (fun _ => l) }

/-- Lane states (R263). -/
def laneTrack : Nat := 1
def laneRun : Nat := 2
def laneSlew : Nat := 3
def laneFault : Nat := 4

/-- A lane delivers resampled sorts. -/
def laneOn (s : State) (n : Nat) : Bool :=
  s.fld (R.KRN.L_STAT.STATE n) == laneRun || s.fld (R.KRN.L_STAT.STATE n) == laneSlew

/-- Samples since a lane began to deliver, at an output index (R264); none where it delivers zero sorts. -/
def Lane.since (l : Lane) (k : Nat) : Option Nat :=
  (l.runs.find? fun r => decide (r.1 ≤ k) && (match r.2 with
    | some e => decide (k < e)
    | none => true)).map fun r => k - r.1

/-- A lane's word at an output index, from what it resamples (R264): faded in over its first 64 samples, and zero where it
delivers none. -/
def Lane.fadeIn (l : Lane) (k : Nat) (w : Word) : Word :=
  match l.since k with
  | some j => scale64 w (min 64 (j + 1))
  | none => 0

/-- What a TDM receive channel gives an index whose sort it has not delivered: zero where the mask gives it no slot (R241), its
concealment while its direction is in CLOCK_LOST (R236, R246), a free value where the frame of the index is still to come (log
54). -/
def tdmLost (s : State) (id k : Nat) : Option (Word × Bool) :=
  let p := (id - 0x800) / 32
  let d := s.tdms.getD (2 * p + 1) tdmReset
  if dirSlot s p true (id % 32) = none then none
  else if s.fld (R.TDM.RX_STAT.STATE p) = 6 ∧ d.idx < k then
    let c := concSkip (d.chans.getD (id % 32) concReset) (k - d.idx)
    some (concWord (s.fld (R.TDM.RX_FMT.CONCEAL p)) c, false)
  else if (s.fld (R.TDM.RX_STAT.STATE p) = 4 ∧ d.idx < k) ∨
      (s.fld (R.TDM.RX_STAT.STATE p) = 3 ∧ ∃ x ∈ d.start, x.2 ≤ k) then
    some (Config.earlySort id k, false)
  else none

/-- A lane's ratio in 8.24 from the two rates and frequency offsets (R262). -/
def laneRatio (s : State) (n : Nat) : Nat :=
  let a := s.fld (R.KRN.L_CFG.IN_MCS n)
  let b := s.fld (R.KRN.L_CFG.OUT_MCS n)
  if a = b then 2 ^ 24
  else
    let f (m : Nat) : Nat := s.mcsFs m * (1000000000 + s.fldInt (R.CLK.MCS_FREQ.OFFSET m)).toNat
    f b * 2 ^ 24 / max 1 (f a)

/-- The place in its input that a lane's output index stands for, 32 output periods back (R262): the input index at or before it,
and the time from that instant, in 2^-32 ns. -/
def lanePlace (s : State) (n k : Nat) : Nat × Nat :=
  let a := s.fld (R.KRN.L_CFG.IN_MCS n)
  let b := s.fld (R.KRN.L_CFG.OUT_MCS n)
  let t : Int := (instantOf s b k : Int) - (mcsPeriods s b 32 : Int) + (s.ptiRaw (s.mcsPti a) : Int) -
    (s.ptiRaw (s.mcsPti b) : Int)
  let i := indexAt s a t.toNat
  (i, t.toNat - instantOf s a i)

/-- The 64 input indices around a place. -/
def laneWindow (i : Nat) : List Nat := (List.range 64).map fun j => i + j - 31

/-- 10 ^ (-a / 20), in 2^-60: one factor a dB. -/
def dbScale : Nat → Nat
  | 0 => 2 ^ 60
  | n + 1 => dbScale n * 1027542372575421786 / 2 ^ 60

/-- The terms of sin x / x from the `i`-th on, `n` of them, of a square in 2^-60. -/
def sineTail (x2 : Nat) : Nat → Nat → Nat
  | 0, _ => 2 ^ 60
  | n + 1, i => 2 ^ 60 - x2 * sineTail x2 n (i + 1) / (2 ^ 60 * (2 * i * (2 * i + 1)))

/-- The sine of `num / den` of a turn, in 2^-60. -/
def sineTurn (num den : Nat) : Int :=
  let q := 4 * (num % den) / den
  let r := 4 * (num % den) % den
  let x := (if q % 2 = 0 then r else den - r) * 1811004864519280711 / den
  let y : Int := (x * sineTail (x * x / 2 ^ 60) 12 1 / 2 ^ 60 : Nat)
  if q < 2 then y else -y

/-- The sine generator of an MCS at an index (R252): FREQ Hz at -ATTEN dBFS. The spec states neither its phase at index 0 nor which
neighbour it rounds to (log 13). -/
def toneWord (s : State) (m k : Nat) : Word :=
  let fs := s.mcsFs m
  let turn := s.fld R.IMP.GEN.FREQ * k % fs * 2 ^ 32 + Config.tonePhase m * fs
  let p := sineTurn turn (fs * 2 ^ 32) * (dbScale (s.fld R.IMP.GEN.ATTEN) : Int) * 2 ^ 31
  let u : Int := 2 ^ 120
  BitVec.ofInt 32 (clampInt (-(2 ^ 31)) (2 ^ 31 - 1) (p / u + (if p % u ≠ 0 ∧ Config.roundUp p = true then 1 else 0)))

/-- The word a destination gets at an index of its domain (R255), `none` where the source's sample is absent. `n`
bounds the lanes a route passes. -/
def destWordN (s : State) : Nat → Nat → Nat → Option (Word × Bool)
  | 0, _, _ => some (0, false)
  | n + 1, d, k =>
    let e := s.imp d
    let v := e.at_ k
    let src := v.source k
    if e.held || src = 0xFFFF || src = 0x1E00 then some (0, false)
    else
      let raw : Option (Word × Bool) :=
        if src < 0xA00 then
          (match findSort s src k with
           | some x => some x
           | none => if 0x800 ≤ src then some ((tdmLost s src k).getD (0, false)) else some (0, srcTransp s src))
        else if src < 0x1A00 then findSort s src k
        else if src < 0x1E00 then
          let l := (src - 0x1A00) / 4
          let sort (j : Nat) : Word :=
            match destWordN s n src j with
            | some x => x.1
            | none => 0
          let w :=
            if s.fld (R.KRN.L_CFG.IN_MCS l) = s.fld (R.KRN.L_CFG.OUT_MCS l) then sort (k - 32)
            else
              let x := lanePlace s l k
              Config.resample (laneRatio s l) x.2 ((laneWindow x.1).map sort)
          some ((s.lane l).fadeIn k w, false)
        else if src < 0x1E20 then some (toneWord s (src - 0x1E10) k, false)
        else some (BitVec.ofNat 32 (k % 2 ^ 24 * 256), false)
      raw.map (process s d k v)

/-- The word a destination gets at an index. -/
def destWord (s : State) (d k : Nat) : Option (Word × Bool) := destWordN s 257 d k

/-- TABLE_CRC of the active table (R261). -/
def tableCrc (s : State) : Nat :=
  crc32c ((List.range 8192).flatMap fun d => if d < 0x1E00 then leBytes 4 (s.imp d).cur.word.toNat else [0, 0, 0, 0])

/-- Keys of a TDM direction's mask and its mute setting. -/
def dirMaskKeys (p : Nat) (rx : Bool) : List Nat :=
  [(td (R.TDM.TX_MASK.SLOTS p) rx).key, (td (R.TDM.TX_CTRL.MASK_MUTE p) rx).key]

/-- A TDM direction's mask is captured and waits for its boundary; directions are numbered 2 x port + receive. -/
def maskWaits (s : State) (i : Nat) : Bool :=
  s.cap.any fun c => (dirMaskKeys (i / 2) (i % 2 == 1)).contains c.key

/-- The index from which a captured entry holds (R257): its domain's first at or after the strobe. -/
def impDue (s : State) (d : Nat) : Nat :=
  let m := (dstDom s d).getD 0
  if s.strobes.any (fun x => x.1 == 1) then indexFrom s m (strobeTime s 1 m) else dstIndex s d

/-- IMPOSITION_TAKE_EFFECT (R257): a captured entry takes effect once its domain has reached the first sample instant at or after
the strobe. An entry that was captured with a TDM direction's mask waits for that direction's boundary (R242), unless the direction
has discarded that mask (R240; log 107). -/
def execImpositionTakeEffect (d : Nat) (s : State) : Out3 :=
  let waits := match (s.imp d).link with
    | some i => maskWaits s i
    | none => false
  if waits || decide (dstIndex s d < impDue s d) then ok s else ok (pendRefresh (impTake s d (impDue s d)))

/-- TABLE_CRC_UPDATE (R261): the CRC of the active table is shown. -/
def execTableCrcUpdate (s : State) : Out3 :=
  ok (s.setFld R.IMP.TABLE_CRC.CRC (tableCrc s))

/-- Input instants lost in FAULT and not counted yet (R263). -/
def laneLost (s : State) (n : Nat) : Nat :=
  match (s.lane n).faultAt with
  | some k => mcsCount s (s.fld (R.KRN.L_CFG.IN_MCS n)) - k
  | none => 0

/-- OVERFLOW of a lane as it stands now (R263, R269). -/
def laneOver (s : State) (n : Nat) : Nat := min 0xFFFF (s.fld (R.KRN.L_STAT.OVERFLOW n) + laneLost s n)

/-- Count a lane's lost instants up to now; those of a lane still in FAULT go on being counted while its input has instants. -/
def laneSettle (s : State) (n : Nat) : State :=
  let inM := s.fld (R.KRN.L_CFG.IN_MCS n)
  let v := laneOver s n
  let go := s.fld (R.KRN.L_STAT.STATE n) == laneFault && s.mcsTicks inM
  (s.setFlds [(R.KRN.L_STAT.OVERFLOW n, v), (R.KRN.L_STAT.SAT n, b2n (v == 0xFFFF))]).setLane n
    { s.lane n with faultAt := if go then some (mcsCount s inM) else none }

/-- A lane begins or ends a run of resampled sorts at its present output index (R264). -/
def laneRuns (s : State) (n : Nat) (on : Bool) : State :=
  let k := mcsCount s (s.fld (R.KRN.L_CFG.OUT_MCS n))
  let l := s.lane n
  match l.runs with
  | (a, none) :: rs => if on then s else s.setLane n { l with runs := (a, some k) :: rs }
  | rs => if on then s.setLane n { l with runs := (k, none) :: rs.take 3 } else s

/-- Lane states move (R263, R264): RUN starts the fade-in, FAULT sets RANGE_EV and loses input instants. -/
def laneGo (s : State) (n st : Nat) : State :=
  let s := s.setFlds [(R.KRN.L_STAT.STATE n, st), (R.KRN.L_STAT.VALID n, b2n (st == laneRun || st == laneSlew))]
  let s := laneRuns s n (st == laneRun || st == laneSlew)
  laneSettle (if st = laneFault then s.setFld (R.KRN.L_STAT.RANGE_EV n) 1 else s) n

/-- Whether a lane's FAULT condition holds (R263). -/
def laneBad (s : State) (n : Nat) : Bool :=
  let a := s.fld (R.KRN.L_CFG.IN_MCS n)
  let b := s.fld (R.KRN.L_CFG.OUT_MCS n)
  !s.mcsTicks a || !s.mcsTicks b || decide (laneRatio s n < 2 ^ 22) || decide (2 ^ 26 < laneRatio s n)

/-- Follow a change of the MCSs on every lane in use (R262, R263). -/
def laneFollow (s : State) (n : Nat) : State :=
  if s.fld (R.KRN.L_CFG.MODE n) = 0 then s
  else
    let st := s.fld (R.KRN.L_STAT.STATE n)
    let bad := laneBad s n
    let s := s.setFld (R.KRN.L_RATIO.RATIO n) (laneRatio s n)
    if bad && st != laneFault then laneGo s n laneFault
    else if !bad && st == laneFault then laneGo s n laneTrack
    else if st = laneFault then laneSettle s n
    else s

/-- Follow the MCSs on all lanes; lanes in MODE 0 have nothing listed. -/
def lanesFollow (s : State) : State := (List.range 256).foldl laneFollow s

/-- A captured lane CFG applies (R263). -/
def laneApply (s : State) (n : Nat) (v : Word) : State :=
  let old := s.rd (R.KRN.L_CFG.reg n)
  let s := s.wr (R.KRN.L_CFG.reg n) v
  let mode := s.fld (R.KRN.L_CFG.MODE n)
  let moved := old &&& 0x07700000#32 ≠ v &&& 0x07700000#32
  let s :=
    if mode = 0 then (laneGo s n 0).setFld (R.KRN.L_RATIO.RATIO n) 0
    else if s.fld (R.KRN.L_STAT.STATE n) = 0 ∨ moved then laneFollow (laneGo s n laneTrack) n
    else s
  xdomHold s

/-- KRN_TRACK_DONE (R263, R264): after 32 output samples a lane in TRACK runs. -/
def execKrnTrackDone (n : Nat) (s : State) : Out3 :=
  if s.fld (R.KRN.L_STAT.STATE n) = laneTrack then ok (laneGo s n laneRun) else ok s

end Sys2Proof.Machine
end

