-- ==== Sys2Proof/Machine/TimeEng.lean ====
section
/-! DEFINITION. The time engine (R103 to R127): the counters and their steps, PTP ports and the servo, path
monitoring, dormant time, PPS, PTM and the platens' times. -/

namespace Sys2Proof.Machine

/-- A PTI's record. -/
def State.pti (s : State) (n : Nat) : Pti := s.ptis.getD n ptiReset

/-- Change a PTI's record. -/
def State.setPti (s : State) (n : Nat) (p : Pti) : State := { s with ptis := modifyAt s.ptis n (fun _ => p) }

/-- A port's record in a PTI. -/
def Pti.port (p : Pti) (x : Nat) : PtpPort := p.ports.getD x portReset

/-- Change a port's record. -/
def Pti.setPort (p : Pti) (x : Nat) (q : PtpPort) : Pti := { p with ports := modifyAt p.ports x (fun _ => q) }

/-- A platen's record. -/
def State.pl (s : State) (k : Nat) : Platen := s.platens.getD k platenReset

/-- Change a platen's record. -/
def State.setPl (s : State) (k : Nat) (p : Platen) : State := { s with platens := modifyAt s.platens k (fun _ => p) }

/-- The addend's bounds, 2.0 ns ± 0.2 %, in 2^-32 ns (R104). -/
def addendLo : Nat := 8572754723
def addendHi : Nat := 8607114461

/-- An addend within its bounds. -/
def addendClamp (a : Nat) : Nat := max addendLo (min addendHi a)

/-- Set a PTI's addend, integer and fraction at one tick (R104); the media clocks counted in its time run on (R93). -/
def State.setAddend (s : State) (n a : Nat) : State :=
  (mcsRebase s n).setFlds [(R.TIME.PTI_ADDEND_INT.INT n, addendClamp a / nsUnit), (R.TIME.PTI_ADDEND_FRAC.FRAC n, addendClamp a % nsUnit)]

/-- The field of a port's state code: port 0 NETA, 1 NETB, 2 MGMT (R112). -/
def portField (n x : Nat) : Fld := ⟨R.TIME.PTI_PORT_STATE.reg n, 4 * x, 4⟩

/-- A port's state code. -/
def State.portState (s : State) (n x : Nat) : Nat := s.fld (portField n x)

/-- Whether a port is bound to a PTI. -/
def State.bound (s : State) (n x : Nat) : Bool := nbit (s.fld (R.TIME.PTI_CFG.PORTS n)) x

/-- The event timestamps of a frame now in the time of every enabled PTI (R106): with `fine`, to 0.5 ns by the SerDes phase
within the tick. -/
def eventStamp (s : State) (fine : Bool) : List PtiTime :=
  (List.range 4).map fun m =>
    if s.flag (R.TIME.PTI_CFG.EN m) then
      ofRaw (s.ptiRaw m + (if fine then s.addend m * (s.timeAcc / 64) / 4 else 0))
    else ⟨0, 0, 0⟩

/-- A frame leaves a NET or MGMT port with its event timestamp (R106). -/
def netStampTx (s : State) (x : Nat) : State :=
  { s with net := modifyAt s.net x fun c => { c with txStamp := eventStamp s (decide (x < 2)) } }

/-- Advance a PTI by one CK_TIME tick (R103). -/
def ptiTick (s : State) (n : Nat) : State :=
  let p := s.pti n
  s.setPti n { p with time := ofRaw (toRaw p.time + s.addend n) }

/-- One CK_TIME tick: every counter adds its addend. -/
def timeTick (s : State) : State := [0, 1, 2, 3].foldl ptiTick s

/-- A platen's fire time in 2^-32 ns. -/
def plFire (s : State) (k : Nat) : Nat :=
  ((s.fld (R.TIME.PL_T_SEC_HI.VALUE k) % 65536 * 2 ^ 32 + s.fld (R.TIME.PL_T_SEC_LO.VALUE k)) * 1000000000 +
    s.fld (R.TIME.PL_T_NS.VALUE k)) * nsUnit + (s.pl k).frac

/-- A platen's period in 2^-32 ns. -/
def plPeriod (s : State) (k : Nat) : Nat :=
  s.fld (R.TIME.PL_PERIOD_NS.VALUE k) * nsUnit + s.fld (R.TIME.PL_PERIOD_FRAC.VALUE k)

/-- Set a platen's fire time. -/
def setPlFire (s : State) (k raw : Nat) : State :=
  let t := ofRaw raw
  (s.setPl k { s.pl k with frac := t.frac }).setFlds [(R.TIME.PL_T_SEC_HI.VALUE k, t.sec / 2 ^ 32),
    (R.TIME.PL_T_SEC_LO.VALUE k, t.sec % 2 ^ 32), (R.TIME.PL_T_NS.VALUE k, t.ns)]

/-- The effect of a PTI step from `old` to `new` on one platen (R121). -/
def plStep (n old new : Nat) (s : State) (k : Nat) : State :=
  if !s.flag (R.TIME.PL_CFG.ARM k) || s.fld (R.TIME.PL_CFG.PTI k) != n then s
  else
    let f := plFire s k
    let mode := s.fld (R.TIME.PL_CFG.MODE k)
    if mode = 1 then
      (if old < f ∧ f ≤ new then s.setFlds [(R.TIME.PL_CFG.ARM k, 0), (R.TIME.PL_STAT.STEP_MISS k, 1)] else s)
    else if mode = 2 then
      let p := plPeriod s k
      if p = 0 then s
      else if f < new then setPlFire s k (f + (new - f + p - 1) / p * p)
      else setPlFire s k (f - (f - new) / p * p)
    else s

/-- A step of a PTI's time by a signed amount of 2^-32 ns (R105): STEP_EV, the port histories (R115), the MCSs
(R92), the stack (R384) and the platens (R121). -/
def ptiStep (s : State) (n : Nat) (delta : Int) : State :=
  let p := s.pti n
  let old := toRaw p.time
  let new := ((old : Int) + delta).toNat
  let s := s.setPti n { p with
    time := ofRaw new, explained := true
    ports := p.ports.map fun q => { q with offsets := [], delays := [] } }
  let s := s.setFld (R.TIME.PTI_STAT.STEP_EV n) 1
  let s := if s.fld R.STK.ID.STATE = 5 then
      { s with stk := { s.stk with steps := s.stk.steps ++ [(n, delta / (nsUnit : Int))] } }
    else s
  let s := mcsShift (mcsPtiEvent s n true) n delta
  (List.range 16).foldl (plStep n old new) s

/-- Limits of R110 on a captured PTIn_CFG, judged against the other PTIs' active values. -/
def ptiCfgLimit (s : State) (n : Nat) (v : Word) : Bool :=
  let w := v.toNat
  let en := nbit w 31
  let prof := bits w 28 3
  let ports := bits w 16 3
  let others := [0, 1, 2, 3].filter (fun m => m != n && s.flag (R.TIME.PTI_CFG.EN m))
  en && ((prof == 4 && decide (2 ≤ (others.filter (fun m => s.fld (R.TIME.PTI_CFG.PROFILE m) == 4)).length)) ||
    others.any (fun m => s.fld (R.TIME.PTI_CFG.DOMAIN m) == bits w 20 8 &&
      s.fld (R.TIME.PTI_CFG.PORTS m) &&& ports != 0))

/-- A write of PTIn_CFG outside the table of R109 or of a reserved code. -/
def ptiCfgBad (v : Word) : Bool :=
  let w := v.toNat
  5 ≤ bits w 28 3 || bits w 14 2 == 3 || 3 ≤ bits w 8 3 || ((bits w 28 3 == 4) && nbit w 12)

/-- Set a port's state; entering UNCALIBRATED clears its history (R115), leaving its master forgets the master's data set, and
SEL_PORT follows the SLAVE port. -/
def setPort (s : State) (n x st : Nat) : State :=
  let s := s.setFld (portField n x) st
  let p := s.pti n
  let s := if st = 2 then s.setPti n (p.setPort x { p.port x with exchanges := 0, offsets := [], delays := [] })
    else if st = 3 ∨ st = 4 ∨ st = 6 then s
    else s.setPti n (p.setPort x { p.port x with best := [], sent := 0 })
  let sel := if s.portState n 0 = 3 then 0 else if s.portState n 1 = 3 then 1 else if s.portState n 2 = 3 then 2 else 3
  s.setFld (R.TIME.PTI_STAT.SEL_PORT n) sel

/-- The device is led by a stack master, and its PTIs follow the master's and unlock with ORPHAN alone (R113, R383). -/
def stackLed (s : State) : Bool := s.fld R.STK.ID.STATE != 0 && s.fld R.STK.ID.STATE != 5

/-- The servo's LOCKED clears at once when no port gives time (R113); that is a reference loss for its MCSs, whose REF_OK falls
with it (R96). -/
def lockCheck (s : State) (n : Nat) : State :=
  if s.fld (R.TIME.PTI_CFG.ROLE n) ≠ 2 ∧ s.fld (R.TIME.PTI_STAT.SEL_PORT n) = 3 ∧
      s.portState n 0 ≠ 5 ∧ s.portState n 1 ≠ 5 ∧ s.portState n 2 ≠ 5 ∧ stackLed s = false then
    refFalls ((s.setPti n { s.pti n with goodRun := 0, badRun := 0 }).setFld (R.TIME.PTI_STAT.LOCKED n) 0)
  else s

/-- Freeze a PTI's servo (R116): every MCS referenced to it enters HOLDOVER (R92). -/
def ptiFreeze (s : State) (n : Nat) : State :=
  if s.flag (R.TIME.PTI_STAT.FROZEN n) then s
  else
    let s := s.setPti n { s.pti n with selected := false, holdRun := 0, wasSlave := s.fld (R.TIME.PTI_STAT.SEL_PORT n) }
    mcsPtiEvent (refFalls (s.setFld (R.TIME.PTI_STAT.FROZEN n) 1)) n false

/-- A port of a PTI leaves SLAVE for `st` because its path is gone; a MONITOR port on the same grandmaster takes
over (R112, R347). -/
def portLost (s : State) (n x st : Nat) : State :=
  let was := s.portState n x
  let s := setPort s n x st
  let y := 1 - x
  if was = 3 ∧ x < 2 ∧ s.portState n y = 4 ∧ ((s.pti n).port y).gm = ((s.pti n).port x).gm then
    let s := setPort s n y 3
    let d := (s.fldInt (R.TIME.PTI_DISAGREE.NS n)).natAbs
    if d ≤ s.fld (R.TIME.PTI_GUARD.PATH_DISAGREE_NS n) then s else ptiFreeze s n
  else lockCheck s n

/-- Enable or disable the ports of a PTI after its CFG has applied (R112): a grandmaster's ports are MASTER. -/
def portsApply (s : State) (n : Nat) : State :=
  [0, 1, 2].foldl (fun s x =>
    let st := s.portState n x
    if !s.flag (R.TIME.PTI_CFG.EN n) || !s.bound n x then (if st = 0 then s else setPort s n x 0)
    else if s.fld (R.TIME.PTI_CFG.ROLE n) = 2 then (if st = 7 then s else setPort s n x 5)
    else if st = 0 ∨ (st = 5 ∧ s.fld (R.TIME.PTI_CFG.ROLE n) = 1) then setPort s n x 1
    else s) s

/-- A strobe applies a captured register of group 3: PTIn_CFG under R110, PTIn_ADJ as a step (R105) whose shadow then
returns to 0. -/
def timeApply (s : State) (k : Nat) (v : Word) : State :=
  let n := (k - 0x7100) / 0x40
  let o := (k - 0x7100) % 0x40
  if 0x7100 ≤ k ∧ k < 0x7200 ∧ o = 0 then
    if ptiCfgLimit s n v then s.setFld (R.TIME.PTI_CFG.CFG_BAD n) 1
    else
      let was := s.flag (R.TIME.PTI_CFG.EN n)
      let s := s.wr k ((v &&& ~~~0x00080000#32) ||| (s.rd k &&& 0x00080000#32))
      let s := if !was && s.flag (R.TIME.PTI_CFG.EN n) then
          s.setPti n { s.pti n with everLock := false, explained := true, goodRun := 0, badRun := 0, limit := none }
        else s
      lockCheck (portsApply s n) n
  else if 0x7100 ≤ k ∧ k < 0x7200 ∧ o = 0x10 then
    if v = 0 then s else (ptiStep s n (toSigned 32 v.toNat * (nsUnit : Int))).wrSh k 0
  else s.wr k v

/-- The write of a PTI addend (R104): dropped with OWNER_CONFLICT while the servo owns it; FRAC is staged, INT applies
both. An INT write with no FRAC write before it applies the fraction staged last, 0 after reset (log 98). A servo enabled later
goes on from the addend written. -/
def addendWrite (s : State) (n : Nat) (frac : Bool) (v : Word) : State :=
  if s.flag (R.TIME.PTI_SERVO.EN n) then s.setFld (R.TIME.PTI_STAT.OWNER_CONFLICT n) 1
  else if frac then s.setPti n { s.pti n with staged := v.toNat }
  else
    let a := v.toNat * nsUnit + (s.pti n).staged
    (s.setAddend n a).setPti n { s.pti n with integ := (addendClamp a : Int) - (2 * nsUnit : Nat) }

/-- A port's offset from its measured time difference, both in 2^-16 ns: the mean path delay and the asymmetry of R107
(half of the receive minus transmit delay, in 0.5 ns units) are removed. -/
def corrected (s : State) (n x : Nat) (meas : Int) : Int :=
  meas - ((s.pti n).port x).delay - s.fldInt (R.TIME.PORT_ASYM.ASYM x) * 16384

/-- Push a measurement on a history of eight. -/
def push8 (l : List Int) (v : Int) : List Int := (v :: l).take 8

/-- The mean of a history, in 2^-16 ns, rounded down: R115 states no rounding (log 99). -/
def meanOf (l : List Int) : Int := if l.isEmpty then 0 else l.sum / (l.length : Int)

/-- A port is continuous: its offset lies within half the threshold of its history's mean (R116). -/
def continuous (s : State) (n x : Nat) (off : Int) : Bool :=
  let q := (s.pti n).port x
  let sus := if x = 0 then s.flag (R.TIME.PTI_STAT.SUSPECT_NETA n) else if x = 1 then s.flag (R.TIME.PTI_STAT.SUSPECT_NETB n) else false
  !q.offsets.isEmpty && !sus &&
    decide ((off - meanOf q.offsets).natAbs * 2 ≤ s.fld (R.TIME.PTI_GUARD.PATH_DISAGREE_NS n) * 65536)

/-- Select port `x` after a disagreement (R116 step 3). -/
def selectPort (s : State) (n x : Nat) : State :=
  let y := 1 - x
  let s := if s.portState n y = 3 ∨ s.portState n y = 4 then setPort s n y 4 else s
  let s := setPort s n x 3
  let s := s.setFlds [(R.TIME.PTI_STAT.ASYM_SUSPECT n, 1),
    (if y = 0 then R.TIME.PTI_STAT.SUSPECT_NETA n else R.TIME.PTI_STAT.SUSPECT_NETB n, 1)]
  s.setPti n { s.pti n with selected := true }

/-- LOCKED's run lengths (R113). -/
def lockRuns (s : State) (n : Nat) (off : Int) : State :=
  let p := s.pti n
  let win := 4 * s.fld (R.TIME.PTI_SERVO.LOCK_NS n) * 65536
  let good := if off.natAbs ≤ win then p.goodRun + 1 else 0
  let bad := if 4 * win < off.natAbs then p.badRun + 1 else 0
  let s := s.setPti n { p with goodRun := good, badRun := bad, everLock := p.everLock || decide (16 ≤ good) }
  let s := if 16 ≤ good then s.setFld (R.TIME.PTI_STAT.LOCKED n) 1 else s
  if 4 ≤ bad then s.setFld (R.TIME.PTI_STAT.LOCKED n) 0 else s

/-- The PI loop sets the addend (R113) from an offset in 2^-16 ns: the offset in 2^-32 ns shifted right as KP and KI say is taken
from the addend, the latter for good. How far a code shifts is not stated (log 100). The addend keeps the bounds of R104
and, after an unexplained step, stays within SLEW_PPM of the addend before it (R117). -/
def servoAddend (s : State) (n : Nat) (off : Int) : State :=
  let e := off * 65536
  let mid : Int := (2 * nsUnit : Nat)
  let lo : Int := addendLo
  let hi : Int := addendHi
  let i := max (lo - mid) (min (hi - mid) ((s.pti n).integ - e / 2 ^ Config.servoShift (s.fld (R.TIME.PTI_SERVO.KI n))))
  let s := s.setPti n { s.pti n with integ := i }
  let a := addendClamp (mid + i - e / 2 ^ Config.servoShift (s.fld (R.TIME.PTI_SERVO.KP n))).toNat
  let a := match (s.pti n).limit with
    | none => a
    | some b =>
      let m := b * s.fld (R.TIME.PTI_GUARD.SLEW_PPM n) / 1000000
      max (b - m) (min (b + m) a)
  s.setAddend n a

/-- The servo takes the SLAVE port's offset (R113, R114, R117). -/
def servoTake (s : State) (n : Nat) (off mean : Int) (hist : Bool) : State :=
  let p := s.pti n
  let thr := s.fld (R.TIME.PTI_GUARD.PATH_DISAGREE_NS n) * 65536
  let expl := p.explained || !p.everLock
  if expl && s.flag (R.TIME.PTI_CFG.STEP_EN n) &&
      decide (s.fld (R.TIME.PTI_CFG.STEP_TH n) * 1000 * 65536 < off.natAbs) then
    let s := ptiStep s n (-(off * 65536))
    s.setPti n { s.pti n with explained := false }
  else
    let jump := !expl && hist && decide (thr < (off - mean).natAbs)
    let s := if jump then
        (s.setPti n { s.pti n with limit := some (s.addend n) }).setFld (R.TIME.PTI_STAT.UNEXPLAINED_STEP n) 1
      else s.setPti n { s.pti n with explained := false }
    let s := if off.natAbs * 2 < thr then s.setPti n { s.pti n with limit := none } else s
    servoAddend (lockRuns s n off) n off

/-- The disagreement of an interval in which a SLAVE and a MONITOR port on one grandmaster both measured an offset (R116). Beyond
PATH_DISAGREE_NS the servo freezes and the one continuous port is selected. A path that is suspect already freezes nothing anew:
in R116's example the servo is steered again at k + 17 with the disagreement unchanged (log 102). -/
def pathCompare (s : State) (n : Nat) (oa ob : Int) : State :=
  let d := oa - ob
  let thr := s.fld (R.TIME.PTI_GUARD.PATH_DISAGREE_NS n) * 65536
  let s := s.setFld (R.TIME.PTI_DISAGREE.NS n) (ofSigned 32 (d / 65536))
  let s := s.setPti n { s.pti n with calmRun := if d.natAbs * 2 ≤ thr then (s.pti n).calmRun + 1 else 0 }
  let sus := (s.flag (R.TIME.PTI_STAT.SUSPECT_NETA n) && s.portState n 0 == 4) ||
    (s.flag (R.TIME.PTI_STAT.SUSPECT_NETB n) && s.portState n 1 == 4)
  if d.natAbs ≤ thr ∨ (sus ∧ s.flag (R.TIME.PTI_STAT.FROZEN n) = false) then s
  else
    let s := ptiFreeze s n
    let ca := continuous s n 0 oa
    let cb := continuous s n 1 ob
    if ca && !cb then selectPort s n 0
    else if cb && !ca then selectPort s n 1
    else s.setFld (R.TIME.PTI_STAT.ASYM_BOTH n) 1

/-- The ports' histories take an interval's offsets (R115). -/
def pushOffsets (s : State) (n : Nat) (off : Nat → Option Int) : State :=
  [0, 1, 2].foldl (fun s x =>
    match off x with
    | none => s
    | some o =>
      let p := s.pti n
      s.setPti n (p.setPort x { p.port x with offsets := push8 (p.port x).offsets o })) s

/-- SERVO_UPDATE (R113 to R117): the time differences the ports of a PTI measured in one Sync interval, in 2^-16 ns. An offset is
judged against the history before it, and a step it causes clears that history with it. The interval that freezes the servo is not
one of FREEZE_HOLD. -/
def servoUpdate (n : Nat) (a b m : Option Int) (s : State) : Out3 :=
  if !s.flag (R.TIME.PTI_CFG.EN n) then ok s
  else
    let offs := [a, b, m].mapIdx fun x o =>
      if s.portState n x = 3 ∨ s.portState n x = 4 then o.map (corrected s n x) else none
    let off (x : Nat) : Option Int := offs.getD x none
    let p := s.pti n
    let held := s.flag (R.TIME.PTI_STAT.FROZEN n) && p.selected
    let pair := ((s.portState n 0 = 3 ∧ s.portState n 1 = 4) ∨ (s.portState n 0 = 4 ∧ s.portState n 1 = 3)) ∧
      (p.port 0).gm = (p.port 1).gm
    let s := match off 0, off 1 with
      | some oa, some ob => if pair then pathCompare s n oa ob else s
      | _, _ => s
    let sel := s.fld (R.TIME.PTI_STAT.SEL_PORT n)
    match off sel with
    | none => ok (pushOffsets s n off)
    | some o =>
      let cont := continuous s n sel o
      let h := ((s.pti n).port sel).offsets
      let s := pushOffsets (s.setFld (R.TIME.PTI_OFFSET.NS n) (ofSigned 32 (o / 65536))) n off
      let q := s.pti n
      if s.flag (R.TIME.PTI_STAT.FROZEN n) then
        ok (if held then s.setPti n { q with holdRun := if cont then q.holdRun + 1 else 0 } else s)
      else if s.flag (R.TIME.PTI_SERVO.EN n) ∧ s.fld (R.TIME.PTI_CFG.ROLE n) ≠ 2 then
        ok (servoTake s n o (meanOf h) (!h.isEmpty))
      else ok s

/-- FREEZE_HOLD_EXPIRY (R116): after FREEZE_HOLD continuous intervals on the selected port the servo resumes. -/
def freezeHoldExpiry (n : Nat) (s : State) : Out3 :=
  let p := s.pti n
  if s.flag (R.TIME.PTI_STAT.FROZEN n) && p.selected && decide (s.fld (R.TIME.PTI_SERVO.FREEZE_HOLD n) ≤ p.holdRun) then
    ok ((s.setPti n { p with holdRun := 0, selected := false }).setFld (R.TIME.PTI_STAT.FROZEN n) 0)
  else ok s

/-- ASYM_BOTH_TIMEOUT (R116 step 4): 60 s frozen with nothing selected; the servo resumes on the port that was SLAVE and
treats the offset as unexplained (R117). -/
def asymBothTimeout (n : Nat) (s : State) : Out3 :=
  let p := s.pti n
  if s.flag (R.TIME.PTI_STAT.FROZEN n) && !p.selected then
    let s := if p.wasSlave < 3 then setPort s n p.wasSlave 3 else s
    let s := s.setPti n { s.pti n with limit := some (s.addend n), holdRun := 0 }
    ok (s.setFlds [(R.TIME.PTI_STAT.FROZEN n, 0), (R.TIME.PTI_STAT.UNEXPLAINED_STEP n, 1)])
  else ok s

/-- SUSPECT_CLEAR (R116): 64 consecutive intervals with d within half the threshold. -/
def execSuspectClear (n : Nat) (s : State) : Out3 :=
  if 64 ≤ (s.pti n).calmRun then
    ok (s.setFlds [(R.TIME.PTI_STAT.SUSPECT_NETA n, 0), (R.TIME.PTI_STAT.SUSPECT_NETB n, 0)])
  else ok s

/-- The DELAY_STEP bit of a port (R115). -/
def delayStepFld (n x : Nat) : Fld :=
  if x = 0 then R.TIME.PTI_STAT.DELAY_STEP_NETA n
  else if x = 1 then R.TIME.PTI_STAT.DELAY_STEP_NETB n
  else R.TIME.PTI_STAT.DELAY_STEP_MGMT n

/-- The delay mechanism of a PTI's profile is peer to peer (R109). -/
def p2p (s : State) (n : Nat) : Bool := s.fld (R.TIME.PTI_CFG.PROFILE n) == 1 || s.fld (R.TIME.PTI_CFG.PROFILE n) == 4

/-- The transport of a PTI's messages (R109): IEEE 802.3 (2) for PROFILE 4, else UDP over IPv4 (0) or IPv6 (1). PROFILE 1 has no
field that chooses IEEE 802.3 (log 103). -/
def transport (s : State) (n : Nat) : Nat :=
  if s.fld (R.TIME.PTI_CFG.PROFILE n) = 4 then 2 else s.fld (R.TIME.PTI_CFG.IPV6 n)

/-- DELAY_MEASUREMENT (R109, R115): an exchange is completed, which the port began with a Delay_Req to its master or, peer to
peer, a Pdelay_Req in any active state; the new mean path delay, in 2^-16 ns, is judged against the mean of those held before. -/
def execDelayMeasurement (n x : Nat) (delay : Int) (s : State) : Out3 :=
  let st := s.portState n x
  if st = 0 ∨ st = 7 ∨ (p2p s n = false ∧ ¬(2 ≤ st ∧ st ≤ 4)) then ok s
  else
    let s := (netStampTx s x).emit (.ptpDelay n x (p2p s n) (transport s n) (s.fld (R.TIME.PTI_CFG.DOMAIN n)))
    let p := s.pti n
    let q := p.port x
    let s := if !q.delays.isEmpty && decide (s.fld R.TIME.DELAY_TH.NS * 65536 < (delay - meanOf q.delays).natAbs) then
        s.setFld (delayStepFld n x) 1
      else s
    let ds := push8 q.delays delay
    ok (s.setPti n (p.setPort x { q with delays := ds, delay := meanOf ds }))

/-- PTP_MESSAGE_RX (R106, R107, R112): an event message is timestamped in the time of every enabled PTI at one tick;
`exchange` marks the one that completes a Sync and delay exchange. After four a port leaves UNCALIBRATED. -/
def ptpMessageRx (n x : Nat) (exchange : Bool) (s : State) : Out3 :=
  let p := s.pti n
  if s.portState n x = 0 ∨ s.portState n x = 7 then ok s
  else
    let q := { p.port x with stamps := eventStamp s (decide (x < 2)) }
    let q := if exchange then { q with exchanges := q.exchanges + 1 } else q
    let s := s.setPti n (p.setPort x q)
    if s.portState n x = 2 ∧ 4 ≤ q.exchanges then
      let y := 1 - x
      if x < 2 ∧ s.portState n y = 3 ∧ (p.port y).gm = q.gm then ok (setPort s n x 4) else ok (setPort s n x 3)
    else ok s

/-- The clock quality a PTI announces or compares with: priority1, clockClass, clockAccuracy, variance, priority2
(R220). -/
def ownQuality (s : State) (n : Nat) : List Nat :=
  let p := s.pti n
  let src := s.fld (R.TIME.PTI_CFG.GM_SRC n)
  let locked := s.flag (R.TIME.PTI_STAT.LOCKED n)
  let cls := if src = 1 then (if locked then 6 else if p.everLock then (if p.ppsOld then 52 else 7) else 248) else if src = 2 then 13 else 248
  let acc := if src = 1 ∧ locked then 0x21 else 0xFE
  let d (i v : Nat) := if p.quality.getD i 0 = 0 then v else p.quality.getD i 0
  [p.msg.getD 4 128, d 0 cls, d 1 acc, d 3 0xFFFF, p.msg.getD 5 128]

/-- The timeSource a PTI announces (R220). -/
def ownSource (s : State) (n : Nat) : Nat :=
  let src := s.fld (R.TIME.PTI_CFG.GM_SRC n)
  if (s.pti n).quality.getD 2 0 = 0 then (if src = 1 then 0x20 else if src = 2 then 0x90 else 0xA0)
  else (s.pti n).quality.getD 2 0

/-- The device's clock identity: NETA's MAC address as an EUI-64 (IEEE 1588; log 104). -/
def ownIdent (s : State) : Nat :=
  let hi := s.fld (R.NET.MAC_HI.ADDR 0) % 65536
  let lo := s.fld (R.NET.MAC_LO.ADDR 0)
  (hi * 256 + lo / 2 ^ 24) * 2 ^ 40 + 0xFFFE * 2 ^ 24 + lo % 2 ^ 24

/-- A PTI is grandmaster: in ROLE 2, or with a MASTER port and no port that gives it time. -/
def isGm (s : State) (n : Nat) : Bool :=
  s.fld (R.TIME.PTI_CFG.ROLE n) == 2 ||
    (s.fld (R.TIME.PTI_STAT.SEL_PORT n) == 3 && (s.portState n 0 == 5 || s.portState n 1 == 5 || s.portState n 2 == 5))

/-- The grandmaster of a PTI: identity, clockClass and stepsRemoved (R219). -/
def gmOf (s : State) (n : Nat) : List Nat :=
  if isGm s n then [ownIdent s, (ownQuality s n).getD 1 248, 0] else (s.pti n).gmData

/-- Lexicographic comparison of two data sets: the first is better (lower) (IEEE 1588-2019 data set comparison). -/
def dsBetter : List Nat → List Nat → Bool
  | x :: xs, y :: ys => decide (x < y) || (x == y && dsBetter xs ys)
  | _, _ => false

/-- A port takes a master (R112, R114): UNCALIBRATED with that master's data set. A grandmaster other than the one the PTI followed
last is GM_CHANGE, and explains the next offset. -/
def takeMaster (s : State) (n x : Nat) (cand : List Nat) : State :=
  let gm := cand.getD 5 0
  let s := setPort s n x 2
  let p := s.pti n
  let ch := p.gmData ≠ [] ∧ p.gmData.getD 0 0 ≠ gm
  let p := { p.setPort x { p.port x with gm := gm, best := cand } with
    gmData := [gm, cand.getD 1 248, cand.getD 6 0], explained := p.explained || decide ch }
  let s := s.setPti n p
  lockCheck (if ch then s.setFld (R.TIME.PTI_STAT.GM_CHANGE n) 1 else s) n

/-- The port of a PTI that holds the better of its ports' masters besides `x`: a SLAVE, MONITOR or UNCALIBRATED one (R112). -/
def rival (s : State) (n x : Nat) : Option Nat :=
  [0, 1, 2].find? fun y => y != x && (s.portState n y == 2 || s.portState n y == 3)

/-- A master is chosen on a port that follows none (R112): UNCALIBRATED where it is the PTI's best, the port that followed the
worse one becoming PASSIVE; UNCALIBRATED too on the other NET port of the same grandmaster, to become MONITOR; else PASSIVE. -/
def chooseMaster (s : State) (n x : Nat) (cand : List Nat) : State :=
  let gm := cand.getD 5 0
  match rival s n x with
  | none => takeMaster s n x cand
  | some y =>
    if x < 2 ∧ y < 2 ∧ ((s.pti n).port y).gm = gm then
      let s := setPort s n x 2
      s.setPti n ((s.pti n).setPort x { (s.pti n).port x with gm := gm, best := cand })
    else if dsBetter cand ((s.pti n).port y).best then takeMaster (setPort s n y 6) n x cand
    else
      let s := setPort s n x 6
      s.setPti n ((s.pti n).setPort x { (s.pti n).port x with gm := gm, best := cand })

/-- ANNOUNCE_RX (R112): an Announce with its priority vector (priority1, clockClass, accuracy, variance, priority2), its
grandmaster identity and stepsRemoved runs the data set comparison: with the PTI's own data set in ROLE 0, and with the master the
port follows. -/
def announceRx (n x : Nat) (ds : List Nat) (gm steps : Nat) (s : State) : Out3 :=
  let st := s.portState n x
  let role := s.fld (R.TIME.PTI_CFG.ROLE n)
  let cand := [ds.getD 0 0, ds.getD 1 0, ds.getD 2 0, ds.getD 3 0, ds.getD 4 0, gm, steps]
  let q := (s.pti n).port x
  let wins := role = 2 ∨ (role = 0 ∧ dsBetter (ownQuality s n ++ [ownIdent s, 0]) cand = true)
  if st = 0 ∨ st = 7 then ok s
  else if st = 5 then ok (if wins then s else lockCheck (setPort s n x 1) n)
  else if st = 1 then
    ok (if wins then (if (rival s n x).isSome then s else setPort s n x 5) else chooseMaster s n x cand)
  else if q.best ≠ [] ∧ q.gm ≠ gm then
    ok (if dsBetter cand q.best then chooseMaster (setPort s n x 1) n x cand else s)
  else if wins then ok (lockCheck (setPort s n x 5) n)
  else
    let p := s.pti n
    ok (s.setPti n { p.setPort x { q with gm := gm, best := cand } with
      gmData := if st = 3 ∨ p.gmData = [] then [gm, cand.getD 1 248, steps] else p.gmData })

/-- ANNOUNCE_TIMEOUT (R112, R113, R347): a port that followed a master is LISTENING again; one that was LISTENING has heard no
master, so its PTI wins unless it is slave only or follows a master on another port. -/
def announceTimeout (n x : Nat) (s : State) : Out3 :=
  let st := s.portState n x
  if st = 2 ∨ st = 3 ∨ st = 4 ∨ st = 6 then
    ok (portLost (s.setFld (R.TIME.PTI_STAT.ANN_TIMEOUT n) 1) n x 1)
  else if st = 1 ∧ s.fld (R.TIME.PTI_CFG.ROLE n) ≠ 1 ∧ rival s n x = none then
    ok (setPort (s.setFld (R.TIME.PTI_STAT.ANN_TIMEOUT n) 1) n x 5)
  else ok s

/-- FAULTY_RECOVER (R112): to LISTENING, whatever the role. -/
def faultyRecover (n x : Nat) (s : State) : Out3 := if s.portState n x = 7 then ok (setPort s n x 1) else ok s

/-- The UDP checksum of a Sync (R108): a one-step one carries zero over IPv4 and a recomputed one over IPv6. -/
def syncSum (s : State) (n : Nat) (oneStep : Bool) : Nat := if oneStep && transport s n < 2 then transport s n else 2

/-- PTP_SYNC_TX (R108, R112): a MASTER port sends Sync, with its Follow_Up where it is two-step; NET ports may run one-step, MGMT
is two-step. The Announce that is due goes with it, one in as many Syncs as the two intervals say (log 105). -/
def execPtpSyncTx (n x : Nat) (s : State) : Out3 :=
  if s.portState n x = 5 then
    let one := decide (x < 2) && !s.flag (R.TIME.PTI_CFG.TWO_STEP n)
    let dom := s.fld (R.TIME.PTI_CFG.DOMAIN n)
    let p := s.pti n
    let every := 2 ^ (toSigned 8 (p.msg.getD 1 0) - toSigned 8 (p.msg.getD 0 0)).toNat
    let k := (p.port x).sent
    let stamp := ((eventStamp s (decide (x < 2))).getD n ⟨0, 0, 0⟩)
    let t := (netStampTx s x).emit (.ptpSync n x one (transport s n) dom stamp (syncSum s n one))
    let t := if one then t else t.emit (.ptpFollowUp n x (transport s n) dom stamp)
    let t := if k % every = 0 then
        t.emit (.ptpAnnounce n x (transport s n) dom (ownQuality s n ++ [ownIdent s, 0, ownSource s n]))
      else t
    ok (t.setPti n (p.setPort x { p.port x with sent := k + 1 }))
  else ok s

/-- From DOZE to the end of WAKING a grandmaster on PPS_IN or WCLK_IN holds its addend (R427). -/
def grandHeld (s : State) : Bool := s.pstate == 1 || s.pstate == 10

/-- WCLK_IN steers the frequency of every grandmaster PTI on it (R111): the addend at which the PTI counts 1 / fs in the measured
period of WCLK_IN. The phase stays (log 106). -/
def wclkSteer (s : State) : State :=
  if grandHeld s then s
  else
  let per := s.fld R.CLK.WCLK_STAT.PERIOD
  [0, 1, 2, 3].foldl (fun s n =>
    if s.flag (R.TIME.PTI_CFG.EN n) && s.fld (R.TIME.PTI_CFG.ROLE n) == 2 && s.fld (R.TIME.PTI_CFG.GM_SRC n) == 2 &&
        s.flag (R.TIME.PTI_SERVO.EN n) && decide (0 < per) then
      s.setAddend n (1000000000 * nsUnit / (rateHz (s.fld R.CLK.WCLK_STAT.RATE_DET) * per))
    else s) s

/-- WCLK_IN_QUALIFIED (R101, R111): 64 periods have met one of the six rates; the time engine's grandmasters on WCLK_IN follow. -/
def execWclkInQualified (rate period : Nat) (s : State) : Out3 := ok (wclkSteer (wclkQualify rate period s))

/-- A PPS_IN edge for one PTI (R111). -/
def ppsEdge (s : State) (n : Nat) : State :=
  if !s.flag (R.TIME.PTI_CFG.EN n) || s.fld (R.TIME.PTI_CFG.ROLE n) != 2 || s.fld (R.TIME.PTI_CFG.GM_SRC n) != 1 || grandHeld s then s
  else
    let p := s.pti n
    let raw := p.time.ns * nsUnit + p.time.frac
    let sec := 1000000000 * nsUnit
    let off : Int := if raw * 2 < sec then (raw : Int) else (raw : Int) - (sec : Int)
    if 100000 * nsUnit < off.natAbs then
      (if s.flag (R.TIME.PTI_CFG.STEP_EN n) && !s.flag (R.TIME.PTI_STAT.LOCKED n) then ptiStep s n (-off)
       else s.setPti n { p with ppsFar := p.ppsFar + 1 })
    else if s.flag (R.TIME.PTI_SERVO.EN n) then servoAddend (lockRuns s n (off / 65536)) n (off / 65536)
    else s

/-- PPS_IN_EDGE (R111, R443): the selected edge steers every grandmaster PTI on PPS_IN; it also ends PPS_LOSS. -/
def ppsInEdge (falling : Bool) (s : State) : Out3 :=
  if falling != s.flag R.TIME.PPS_CFG.IN_FALL then ok s
  else
    let s := { s with grd := { s.grd with ppsSeen := true } }
    let s := s.setFld R.GRD.TIO_STAT.PPS_LOSS 0
    ok ([0, 1, 2, 3].foldl ppsEdge s)

/-- PPS_OUT_PULSE (R124): PPS_OUT rises at a whole second of OUT_PTI, at the first tick at or after it, for WIDTH ms. -/
def execPpsOutPulse (s : State) : Out3 :=
  let n := s.fld R.TIME.PPS_CFG.OUT_PTI
  if s.flag R.TIME.PPS_CFG.OUT_EN ∧ s.ptiRaw n % (1000000000 * nsUnit) < s.addend n then
    ok (s.emit (.ppsPulse (s.fld R.TIME.PPS_CFG.WIDTH)))
  else ok s

/-- PTM_DIALOGUE (R125): runs only while the link is in L0. -/
def execPtmDialogue (done : Bool) (root : Nat) (s : State) : Out3 :=
  if !s.flag R.TIME.PTM_CFG.EN || !s.flag R.HST.LINK.UP then ok s
  else if done then
    let t := (s.pti (s.fld R.TIME.PTM_CFG.PTI)).time
    ok { (s.setFld R.TIME.PTM_CFG.NEW 1) with ptm := ⟨root, t.sec * 1000000000 + t.ns⟩ }
  else ok (s.setFld R.TIME.PTM_CFG.FAIL 1)

/-- Whether a TDM alignment group has a direction in READY or later (R120, R243). -/
def alignHas (s : State) (g : Nat) : Bool :=
  (List.range 16).any fun p =>
    (decide (1 ≤ s.fld (R.TDM.TX_STAT.STATE p)) && s.fld (R.TDM.TX_FMT.ALIGN p) == g) ||
    (decide (1 ≤ s.fld (R.TDM.RX_STAT.STATE p)) && s.fld (R.TDM.RX_FMT.ALIGN p) == g)

/-- A write of PLn_CFG (R120): a refused ARM leaves the platen disarmed with the write's other fields. -/
def plCfgWrite (s : State) (k : Nat) (v : Word) : State :=
  let v := v &&& 0xFF0FFCFF#32
  let off := s.wr (R.TIME.PL_CFG.reg k) (v &&& 0x7FFFFFFF#32)
  if !v.getLsbD 31 then off
  else
    let w := v.toNat
    let mode := bits w 29 2
    if mode = 0 then off.setFld (R.TIME.PL_STAT.BAD k) 1
    else if mode = 3 then s.wr (R.TIME.PL_CFG.reg k) v
    else if 1000000000 ≤ s.fld (R.TIME.PL_T_NS.VALUE k) ∨ (mode = 2 ∧ plPeriod s k < 10000 * nsUnit) ∨
        (nbit w 25 ∧ !alignHas s (bits w 16 4)) ∨ (nbit w 24 ∧ 8 ≤ bits w 12 4) then
      off.setFld (R.TIME.PL_STAT.BAD k) 1
    else
      let s0 := s.setPl k { s.pl k with frac := 0 }
      if plFire s0 k < s.ptiRaw (bits w 27 2) + 1000 * nsUnit then off.setFld (R.TIME.PL_STAT.LATE k) 1
      else s0.wr (R.TIME.PL_CFG.reg k) v

/-- A write of a platen's time or period register clears ARM (R120). -/
def plTimeWrite (s : State) (k key : Nat) (v : Word) : State :=
  let s := s.setPl k { s.pl k with frac := 0 }
  (s.wr key v).setFld (R.TIME.PL_CFG.ARM k) 0

/-- PLATEN_CAPTURE_EDGE (R123): an edge of a capture source is timestamped by every armed capture platen that selects
it, or lost with OVERRUN while a capture is unreleased. -/
def execPlatenCaptureEdge (src : Nat) (falling : Bool) (s : State) : Out3 :=
  ok <| (List.range 16).foldl (fun s k =>
    let e := s.fld (R.TIME.PL_CFG.EDGE k)
    if s.fld (R.TIME.PL_CFG.MODE k) = 3 ∧ s.flag (R.TIME.PL_CFG.ARM k) ∧ s.fld (R.TIME.PL_CFG.SRC k) = src ∧
        (e = 2 ∨ e = b2n falling) then
      match (s.pl k).capture with
      | some _ => s.setFld (R.TIME.PL_STAT.OVERRUN k) 1
      | none =>
        (s.setPl k { s.pl k with capture := some (s.pti (s.fld (R.TIME.PL_CFG.PTI k))).time }).setFld
          (R.TIME.PL_STAT.CAPT_EV k) 1
    else s) s

/-- Release a platen's capture (R123). -/
def plRelease (s : State) (k : Nat) : State :=
  (s.setPl k { s.pl k with capture := none }).setFld (R.TIME.PL_STAT.CAPT_EV k) 0

/-- The handover of R118: the slow counter takes SLEEP_PTI's time to 1/64 ns and each PTI's difference is saved. -/
def timeHandover (s : State) : State :=
  let p := s.fld R.TIME.DORMANT.SLEEP_PTI
  let base := s.ptiRaw p
  { s with pwr := { s.pwr with
      slowTime := base / 2 ^ 26, handover := true
      trim := if s.flag R.TIME.DORMANT.TRIM_EN then s.fldInt R.TIME.TRIM.PPB else 0
      diffs := [0, 1, 2, 3].map fun n => (s.ptiRaw n : Int) - (base : Int) } }

/-- One CK_AON tick of the slow counter (R118): 30517.578125 ns corrected by the trim, to 1/64 ns; at the first tick after the
register save began, once a trim window has completed, the time is handed over instead. -/
def slowTick (s : State) : State :=
  if s.pwr.handDue && s.pwr.trimDone && s.pstate == 9 then
    (let t := timeHandover s
     { t with pwr := { t.pwr with handDue := false, slowTicks := t.pwr.slowTicks + 1 } })
  else
  let trim : Int := if s.pwr.handover then s.pwr.trim
    else if s.flag R.TIME.DORMANT.TRIM_EN then s.fldInt R.TIME.TRIM.PPB else 0
  let add := (1953125 * (1000000000 - trim) / 1000000000).toNat
  { s with pwr := { s.pwr with slowTicks := s.pwr.slowTicks + 1, slowTime := s.pwr.slowTime + add } }

/-- TRIM_WINDOW_END (R118, R67): the crystal's error is stored; an entry that waits for its first window hands over at the next
tick of CK_AON. -/
def execTrimWindowEnd (ppb : Int) (s : State) : Out3 :=
  if !s.flag R.PWR.STATE.XTAL_OK || !s.domOn 11 then ok s
  else
    ok { (s.setFld R.TIME.TRIM.PPB (ofSigned 32 ppb)) with pwr := { s.pwr with trimDone := true } }

/-- TIME_HANDBACK (R118): every enabled PTI is loaded from the slow counter plus its difference, an explained step. -/
def timeHandback (s : State) : Out3 :=
  if !s.pwr.handbackDue then ok s
  else
    let s := [0, 1, 2, 3].foldl (fun s n =>
      if s.flag (R.TIME.PTI_CFG.EN n) then
        let goal := ((s.pwr.slowTime * 2 ^ 26 : Nat) : Int) + s.pwr.diffs.getD n 0
        ptiStep s n (goal - (s.ptiRaw n : Int))
      else s) s
    ok { s with pwr := { s.pwr with handover := false, handbackDue := false } }

end Sys2Proof.Machine
end

