-- ==== Sys2Proof/Machine/Tdm.lean ====
section
/-! DEFINITION. The TDM ports (R228 to R248): direction states, arming and group start, frames and their indices,
masks, slips, clock loss and concealment. -/

namespace Sys2Proof.Machine

/-- Direction states (R237). -/
def tdmOff : Nat := 0
def tdmReady : Nat := 1
def tdmArmed : Nat := 2
def tdmLeadIn : Nat := 3
def tdmRunning : Nat := 4
def tdmLeadOut : Nat := 5
def tdmClockLost : Nat := 6

namespace State

/-- A direction's record. -/
def tdm (s : State) (p : Nat) (rx : Bool) : TdmDir := s.tdms.getD (2 * p + b2n rx) tdmReset

/-- Change a direction's record. -/
def setTdm (s : State) (p : Nat) (rx : Bool) (d : TdmDir) : State :=
  { s with tdms := modifyAt s.tdms (2 * p + b2n rx) (fun _ => d) }

/-- A direction's state code. -/
def tdmState (s : State) (p : Nat) (rx : Bool) : Nat := s.fld (td (R.TDM.TX_STAT.STATE p) rx)

/-- A direction's media clock domain. -/
def tdmMcs (s : State) (p : Nat) (rx : Bool) : Nat := s.fld (td (R.TDM.TX_FMT.MCS p) rx)

end State

/-- Bit clocks of a frame (R230). -/
def frameLen (s : State) (p : Nat) (rx : Bool) : Nat :=
  s.fld (td (R.TDM.TX_FRAME.SLOTS p) rx) * s.fld (td (R.TDM.TX_FRAME.WIDTH p) rx)

/-- Most active slots at a RATE code (R228). -/
def slotLimit (code : Nat) : Nat := if code < 2 then 32 else if code < 4 then 16 else 8

/-- The limit of R228 on the active slots of a mask at the direction's rate. -/
def maskFits (s : State) (p : Nat) (rx : Bool) (mask : Word) : Bool :=
  decide ((activeSlots (s.fld (td (R.TDM.TX_FRAME.SLOTS p) rx)) mask).length ≤
    slotLimit (s.fld (R.CLK.MCS_CFG.RATE (s.tdmMcs p rx))))

/-- A direction stopped for configuration: OFF, READY or ARMED (R239). -/
def dirStopped (s : State) (p : Nat) (rx : Bool) : Bool := s.tdmState p rx ≤ tdmArmed

/-- Captured values of a direction: their keys. -/
def dirFmtKeys (p : Nat) (rx : Bool) : List Nat :=
  [(td (R.TDM.TX_FMT.EN p) rx).key, (td (R.TDM.TX_FRAME.SLOTS p) rx).key, (td (R.TDM.TX_LEAD.LEAD_IN p) rx).key]

/-- A captured value for a key. -/
def capVal (s : State) (k : Nat) : Option Word := (s.cap.find? fun c => c.key == k).map Cap.val

/-- Drop the captured values of some keys. -/
def capDrop (s : State) (ks : List Nat) : State := { s with cap := s.cap.filter fun c => !ks.contains c.key }

/-- Make the captured values of some keys active. -/
def capApply (s : State) : List Nat → State
  | [] => s
  | k :: ks => capApply (capDrop (match capVal s k with | some v => s.wr k v | none => s) [k]) ks

/-- The entries captured with a direction's mask take effect from an index (R242). -/
def maskEntries (s : State) (p : Nat) (rx : Bool) (k : Nat) : State :=
  (impListed s).foldl (fun s d => if (s.imp d).link = some (2 * p + b2n rx) then impTake s d k else s) s

/-- TDM_MASK_BOUNDARY (R240 to R242): the waiting mask applies from frame index `k`; with MASK_MUTE the indices whose
slot changes are muted for that frame. -/
def maskApply (s : State) (p : Nat) (rx : Bool) (k : Nat) : State :=
  let ks := dirMaskKeys p rx
  if !ks.any (fun k => (capVal s k).isSome) then s
  else
    let old := (List.range 32).map (dirSlot s p rx)
    let s := capApply s ks
    let new := (List.range 32).map (dirSlot s p rx)
    let diff := (List.range 32).filter fun i => old.getD i none != new.getD i none
    let m := if s.flag (td (R.TDM.TX_CTRL.MASK_MUTE p) rx) && !dirStopped s p rx then diff else []
    let s := s.setTdm p rx { s.tdm p rx with muted := m }
    let s := s.setFld (td (R.TDM.TX_STAT.MASK_EV p) rx) 1
    pendRefresh (maskEntries s p rx k)

/-- Whether the device holds its SHARE outputs released: a standby, a pairing role 2, or a device that has yielded
(R401, R402). -/
def shareHeld (s : State) : Bool :=
  let st := s.fld R.TWIN.STAT.STATE
  st == 3 || st == 5 || (st == 1 && s.fld R.TWIN.CFG.ROLE == 2)

/-- A direction is shared and held released. -/
def sharedPort (s : State) (p : Nat) : Bool := shareHeld s && nbit (s.fld R.TWIN.SHARE.TX) p

/-- OE_HELD of every transmit direction follows the twin and the guard (R232, R401, R434). -/
def oeRefresh (s : State) : State :=
  (List.range 16).foldl (fun s p =>
    s.setFlag (R.TDM.TX_STAT.OE_HELD p) (sharedPort s p || nbit (s.fld (R.GRD.TDM_STAT.TRIPPED p)) 2)) s

/-- A direction's pins are released as it stops: its trips clear (R436), and in OFF its clock swap is undone (R438). -/
def pinsReleased (s : State) (p : Nat) (rx off : Bool) : State :=
  let t := s.fld (R.GRD.TDM_STAT.TRIPPED p)
  let s := s.setFld (R.GRD.TDM_STAT.TRIPPED p) (if rx then t % 8 else t / 8 * 8)
  let s := if off then s.setFld (if rx then R.GRD.TDM_STAT.RX_SWAP p else R.GRD.TDM_STAT.TX_SWAP p) 0 else s
  oeRefresh s

/-- Move a direction to a state (R237): STATE_EV on a change; READY and OFF leave USERS, clear the command bits and take
a waiting mask. TDM_STATE (R227) is emitted; the spec gives its reason byte no codes, so it is a free value (log 23). -/
def tdmGo (s : State) (p : Nat) (rx : Bool) (st : Nat) : State :=
  if s.tdmState p rx = st then s
  else
    let s := s.setFlds [(td (R.TDM.TX_STAT.STATE p) rx, st), (td (R.TDM.TX_STAT.STATE_EV p) rx, 1)]
    let (i, s) := s.fresh
    let s := s.event 0xE060 [byteOf p, byteOf (1 - b2n rx), byteOf st, (Config.freeValue i).setWidth 8]
    if st ≤ tdmReady then
      let s := pinsReleased (s.dropUser (b2n rx) p) p rx (st == 0)
      let s := s.setFlds [(td (R.TDM.TX_CMD.STOP p) rx, 0), (td (R.TDM.TX_CMD.ARM p) rx, 0)]
      let s := s.setTdm p rx { s.tdm p rx with start := none, ref := none, outs := 0, good := 0, muted := [], tail := [] }
      maskApply s p rx (mcsCount s (s.tdmMcs p rx))
    else s

/-- The checks of R238 on ARM. -/
def armOk (s : State) (p : Nat) (rx : Bool) : Bool :=
  let fmt := s.fld (td (R.TDM.TX_FMT.FORMAT p) rx)
  let slots := s.fld (td (R.TDM.TX_FRAME.SLOTS p) rx)
  let len := frameLen s p rx
  let mcs := s.tdmMcs p rx
  let al := s.fld (td (R.TDM.TX_FMT.ALIGN p) rx)
  let fsw := s.fld (td (R.TDM.TX_FRAME.FS_WIDTH p) rx)
  s.tdmState p rx == tdmReady &&
    decide (1 ≤ slots) && decide (slots ≤ 32) && fmt != 3 &&
    (if fmt ≤ 1 then slots == 2 else decide (1 ≤ fsw) && decide (fsw + 1 ≤ len)) &&
    maskFits s p rx (s.rd (td (R.TDM.TX_MASK.SLOTS p) rx).key) &&
    (!s.flag (td (R.TDM.TX_FMT.MASTER p) rx) || decide (len * s.mcsFs mcs ≤ 50000000)) &&
    decide (s.fld (td (R.TDM.TX_FRAME.OFFSET p) rx) < len) &&
    s.mcsRuns mcs &&
    ((List.range 16).all fun q => [false, true].all fun r =>
      (q == p && r == rx) || s.tdmState q r < tdmArmed || s.fld (td (R.TDM.TX_FMT.ALIGN q) r) != al ||
        s.tdmMcs q r == mcs) &&
    !(s.pers == 2 && decide (2 ≤ p) && al == 15)

/-- The ARM and STOP bits of a write of TX_CMD or RX_CMD (R237, R238, R244). A direction whose group has fired is no
longer disarmed by ARM = 0, and STOP then acts at its first frame boundary (log 15). -/
def cmdWrite (s : State) (p : Nat) (rx : Bool) (v : Word) : State :=
  let arm := v.getLsbD 0
  let stop := v.getLsbD 1
  let st := s.tdmState p rx
  let fired := (s.tdm p rx).start.isSome
  let s :=
    if arm then
      (if st = tdmReady ∨ st = tdmOff then
         (if armOk s p rx then
            (tdmGo (s.setFld (td (R.TDM.TX_CMD.ARM p) rx) 1) p rx tdmArmed).addUser (b2n rx) p (s.tdmMcs p rx)
          else s.setFld (td (R.TDM.TX_STAT.CMD_BAD p) rx) 1)
       else s)
    else if st = tdmArmed ∧ !fired then tdmGo s p rx tdmReady
    else s
  let st := s.tdmState p rx
  if !stop then s
  else if st = tdmArmed then
    (if fired then s.setFld (td (R.TDM.TX_CMD.STOP p) rx) 1 else tdmGo s p rx tdmReady)
  else if st = tdmLeadIn ∨ st = tdmRunning then s.setFld (td (R.TDM.TX_CMD.STOP p) rx) 1
  else if st = tdmClockLost then tdmGo s p rx tdmReady
  else s

/-- TDM_ARM_WRITE (R238). -/
def execTdmArmWrite (p : Nat) (rx arm : Bool) (s : State) : Out3 :=
  ok (cmdWrite s p rx (if arm then 1#32 else 0#32))

/-- TDM_STOP_WRITE (R237): STOP with ARM written as it reads. -/
def execTdmStopWrite (p : Nat) (rx : Bool) (s : State) : Out3 :=
  ok (cmdWrite s p rx (2#32 ||| BitVec.ofNat 32 (s.fld (td (R.TDM.TX_CMD.ARM p) rx))))

/-- Whether a direct shadow write of a TDM register is ignored with CFG_BAD (R239). -/
def tdmShBad (key : Nat) (v : Word) : Bool :=
  let o := key % 0x20
  let w := v.toNat
  if o = 0 then bits w 28 2 == 3 || bits w 16 2 == 3
  else if o = 4 then bits w 24 6 == 0 || decide (32 < bits w 24 6) || decide (bits w 18 6 < 8) || decide (32 < bits w 18 6)
  else false

/-- A capture's values for one direction meet it at c_f + 1 (R239, R240): a running direction discards format, frame and
lead values, and a mask above its slot limit; its mask otherwise waits for the frame boundary. -/
def tdmApply (s : State) (p : Nat) (rx : Bool) : State :=
  let ks := dirFmtKeys p rx
  let drop := td (R.TDM.TX_STAT.CFG_DROPPED p) rx
  let mk := (td (R.TDM.TX_MASK.SLOTS p) rx).key
  if dirStopped s p rx then
    let en0 := s.flag (td (R.TDM.TX_FMT.EN p) rx)
    let s := capApply s ks
    let en := s.flag (td (R.TDM.TX_FMT.EN p) rx)
    let s := if en0 && !en then tdmGo s p rx tdmOff else if en && s.tdmState p rx == tdmOff then tdmGo s p rx tdmReady else s
    let s := if s.tdmState p rx = tdmArmed then s.addUser (b2n rx) p (s.tdmMcs p rx) else s
    let s := if s.flag (td (R.TDM.TX_FMT.MASTER p) rx) then s.setFld (td (R.TDM.TX_PHASE.NS p) rx) 0 else s
    xdomHold (maskApply s p rx (mcsCount s (s.tdmMcs p rx)))
  else
    let s := if s.cap.any (fun c => ks.contains c.key) then (capDrop s ks).setFld drop 1 else s
    match capVal s mk with
    | some v => if maskFits s p rx v then s else (capDrop s [mk]).setFld drop 1
    | none => s

/-- TDM_GROUP_START (R243): a platen's fire at raw time `t` of PTI `pti` starts the ARMED directions of a group. -/
def groupStart (s : State) (g pti t : Nat) : State :=
  let dirs := (List.range 32).filter fun i =>
    let p := i / 2
    let rx := i % 2 == 1
    s.tdmState p rx == tdmArmed && s.fld (td (R.TDM.TX_FMT.ALIGN p) rx) == g
  match dirs with
  | [] => s
  | i0 :: _ =>
    let mcs := s.tdmMcs (i0 / 2) (i0 % 2 == 1)
    let now : Int := (s.ptiRaw (s.mcsPti mcs) : Int) - (s.ptiRaw pti : Int)
    let t0 := ((t : Int) + now).toNat + 100 * nsUnit
    let s0 := indexAt s mcs (t0 - 1) + 1
    let lead (i : Nat) : Nat := s.fld (td (R.TDM.TX_LEAD.LEAD_IN (i / 2)) (i % 2 == 1))
    let lmax := (dirs.map lead).foldl max 0
    let dd := s0 + lmax
    dirs.foldl (fun s i =>
      let p := i / 2
      let rx := i % 2 == 1
      let at_ := if s.flag (td (R.TDM.TX_FMT.MASTER p) rx) then dd - lead i else s0
      (s.setTdm p rx { s.tdm p rx with start := some (at_, dd), ref := none, idx := at_ - 1 }).setFld
        (td (R.TDM.TX_CMD.ARM p) rx) 0) s

/-- TDM_START_INSTANT (R237, R243): a fired direction reaches its start instant. -/
def execTdmStartInstant (p : Nat) (rx : Bool) (s : State) : Out3 :=
  match (s.tdm p rx).start with
  | some (at_, d) =>
    if s.tdmState p rx = tdmArmed ∧ at_ ≤ mcsCount s (s.tdmMcs p rx) then
      ok (tdmGo s p rx (if at_ = d then tdmRunning else tdmLeadIn))
    else ok s
  | none => ok s

/-- The stack mutes the device's outputs: IDENTIFY, JOINING, MUTED and QUARANTINED (R385). -/
def stkMuted (s : State) : Bool :=
  let st := s.fld R.STK.ID.STATE
  st == 1 || st == 2 || st == 4 || st == 7

/-- Outputs muted by the configuration CRC (R153) or by the stack (R385). -/
def crcMuted (s : State) : Bool := (s.crcBad && s.flag R.REGIF.CFG_CRC_CTL.MUTE) || stkMuted s

/-- Whether a source underruns when its sample is absent: host transmit and stack-in channels (R245). -/
def underruns (src : Nat) : Bool := 0xA00 ≤ src && decide (src < 0x1A00)

/-- The words a transmit direction takes for frame index `k` (R245). -/
def tdmTake (s : State) (p k : Nat) : List (Option (Word × Bool)) :=
  (List.range 32).map fun c => destWord s (0x800 + 32 * p + c) k

/-- The word of a channel for frame `k`: a host or stack channel's as it stood at the edge before, any other source's as
delivered for the index, which the spec puts ahead of that edge by design (R245, log 54). -/
def tdmWord (s : State) (p k c : Nat) (taken : List (Option (Word × Bool))) : Option (Word × Bool) :=
  let d := 0x800 + 32 * p + c
  if underruns (((s.imp d).at_ k).source k) then taken.getD c (some (0, false)) else destWord s d k

/-- The bits of a slot in wire order: the top WIDTH bits of the word, or reversed under LSB_FIRST (R229, R231). -/
def revBits : Nat → Nat → Nat
  | 0, _ => 0
  | n + 1, v => v % 2 * 2 ^ n + revBits n (v / 2)

/-- The slot of a word. -/
def toSlot (s : State) (p : Nat) (rx : Bool) (w : Word) : Nat :=
  let n := s.fld (td (R.TDM.TX_FRAME.WIDTH p) rx)
  let v := bits w.toNat (32 - n) n
  if s.flag (td (R.TDM.TX_FMT.LSB_FIRST p) rx) then revBits n v else v

/-- A number from its bits, the most significant first. -/
def ofBits (bs : List Nat) : Nat := bs.foldl (fun n b => 2 * n + b % 2) 0

/-- The sort of a slot received (R229, R231): `line` holds SDI at the sampling edges from the frame's bit clock 0 on, through the
bits that follow the next frame-sync edge. -/
def ofSlot (s : State) (p sl : Nat) (line : List Nat) : Word :=
  let n := s.fld (R.TDM.RX_FRAME.WIDTH p)
  let v := ofBits ((List.range n).map fun b => line.getD (s.fld (R.TDM.RX_FRAME.OFFSET p) + sl * n + b) 0)
  BitVec.ofNat 32 ((if s.flag (R.TDM.RX_FMT.LSB_FIRST p) then revBits n v else v) * 2 ^ (32 - n))

/-- The level of a master's frame sync in each bit clock of a frame (R230). -/
def syncLine (s : State) (p : Nat) (rx : Bool) : List Bool :=
  let len := frameLen s p rx
  let fmt := s.fld (td (R.TDM.TX_FMT.FORMAT p) rx)
  let inv := s.flag (td (R.TDM.TX_FMT.FS_INV p) rx)
  let high (i : Nat) : Bool :=
    if fmt = 0 then decide (len ≤ 2 * i)
    else if fmt = 1 then decide (2 * i < len)
    else decide (i < s.fld (td (R.TDM.TX_FRAME.FS_WIDTH p) rx))
  (List.range len).map fun i => high i != inv

/-- Count a TDM event: counter `i` of R248 and its SAT bit. -/
def tdmCount (s : State) (p i : Nat) : State :=
  s.countSat { R.TDM.TX_UNDERRUN.COUNT p with key := (R.TDM.TX_UNDERRUN.COUNT p).key + 4 * i } (R.TDM.SAT.SAT_F p) i

/-- A receive direction conceals one index on every channel (R246). -/
def rxConceal (s : State) (p k : Nat) : State :=
  let mode := s.fld (R.TDM.RX_FMT.CONCEAL p)
  (List.range 32).foldl (fun s c =>
    let d := s.tdm p true
    match dirSlot s p true c with
    | none => s
    | some _ =>
      let (w, x) := concMiss mode (d.chans.getD c concReset)
      pushSort (s.setTdm p true { d with chans := modifyAt d.chans c (fun _ => x) }) (0x800 + 32 * p + c) k w false) s

/-- A receive direction delivers a frame as index `k` (R229, R241, R246): zero sorts on the indices its new mask mutes, for this one
frame. -/
def rxDeliver (s : State) (p k : Nat) (line : List Nat) : State :=
  let mode := s.fld (R.TDM.RX_FMT.CONCEAL p)
  let s := (List.range 32).foldl (fun s c =>
    let d := s.tdm p true
    match dirSlot s p true c with
    | none => s
    | some sl =>
      if d.muted.contains c then pushSort s (0x800 + 32 * p + c) k 0 false
      else
        let (w, x) := concGood mode (d.chans.getD c concReset) (ofSlot s p sl line) false
        pushSort (s.setTdm p true { d with chans := modifyAt d.chans c (fun _ => x) }) (0x800 + 32 * p + c) k w false) s
  s.setTdm p true { s.tdm p true with muted := [] }

/-- The words of a transmit frame by slot, and what taking them leaves (R245, R246). -/
structure TxPlan where
  chans : List Conc
  words : List (Nat × Word)
  under : Bool
  deriving DecidableEq, Repr

/-- The frame of index `k` of a transmit direction (R232, R241, R245, R246); `data` is false for leading frames. -/
def txPlan (s : State) (p k : Nat) (data : Bool) : TxPlan :=
  let d := s.tdm p false
  let taken := if d.takenIdx = k then d.taken else tdmTake s p k
  let mode := s.fld (R.TDM.TX_FMT.CONCEAL p)
  let mute := crcMuted s
  (List.range 32).foldl (fun (acc : TxPlan) c =>
    match dirSlot s p false c with
    | none => acc
    | some sl =>
      let x := acc.chans.getD c concReset
      if !data then { acc with words := (sl, 0) :: acc.words }
      else
        let put (o : Word) (x : Conc) (u : Bool) : TxPlan :=
          ⟨modifyAt acc.chans c (fun _ => x), (sl, if mute || d.muted.contains c then 0 else o) :: acc.words, u⟩
        match tdmWord s p k c taken with
        | some (w, t) => put (concGood mode x w t).1 (concGood mode x w t).2 acc.under
        | none => put (concMiss mode x).1 (concMiss mode x).2 true)
    ⟨d.chans, [], false⟩

/-- SDO in the bit clocks a frame's slots take, from OFFSET on: none in an idle bit clock that is released (R231, R232). -/
def TxPlan.frame (r : TxPlan) (s : State) (p : Nat) : List (Option Nat) :=
  let n := s.fld (R.TDM.TX_FRAME.WIDTH p)
  (List.range (s.fld (R.TDM.TX_FRAME.SLOTS p))).flatMap fun sl =>
    match r.words.find? (fun x => x.1 == sl) with
    | some x => (List.range n).map fun b => some (toSlot s p false x.2 / 2 ^ (n - 1 - b) % 2)
    | none => List.replicate n (if s.flag (R.TDM.TX_FMT.IDLE_HIZ p) then none else some 0)

/-- Halves of bit clocks (R232): a driver lets go at the sampling edge of the last bit before a bit clock it leaves idle. -/
def halves : List (Option Nat) → List (Option Nat)
  | [] => []
  | [b] => [b, b]
  | b :: c :: bs => b :: (if c.isSome then b else none) :: halves (c :: bs)

/-- A transmit direction sends the frame of index `k` (R231, R232, R241, R245, R246): the bits left of the frame before it, then its
own up to the next frame-sync edge. -/
def txSend (s : State) (p k : Nat) (data : Bool) : State :=
  let r := txPlan s p k data
  let off := s.fld (R.TDM.TX_FRAME.OFFSET p)
  let idle : Option Nat := if s.flag (R.TDM.TX_FMT.IDLE_HIZ p) then none else some 0
  let old := (s.tdm p false).tail
  let own := r.frame s p
  let lead := if old.length = off then old else List.replicate off idle
  let s := s.setTdm p false { s.tdm p false with chans := r.chans, muted := [], tail := own.drop (own.length - off) }
  let s := if r.under then tdmCount (s.setFld (R.TDM.TX_STAT.UNDERRUN_EV p) 1) p 0 else s
  let line := halves (lead ++ own.take (own.length - off))
  s.emit (.tdmTx p k (s.flag (R.TDM.TX_FMT.EDGE_FALL p)) (if s.flag (R.TDM.TX_STAT.OE_HELD p) then line.map fun _ => none else line))

/-- A sample that arrives once its index has been taken is discarded and counted by every transmit direction that missed it as
data (R245). -/
def tdmLate (s : State) (src k : Nat) : State :=
  (List.range 16).foldl (fun s p =>
    let d := s.tdm p false
    let st := s.tdmState p false
    let first := match d.start with
      | some x => x.2
      | none => 0
    if (st = tdmLeadIn ∨ st = tdmRunning ∨ st = tdmClockLost) ∧ first ≤ k ∧ k ≤ d.takenIdx ∧
        (List.range 32).any (fun c => impSrc ((s.imp (0x800 + 32 * p + c)).at_ k).word == src) then
      tdmCount (s.setFld (R.TDM.TX_STAT.LATE_EV p) 1) p 1
    else s) s

/-- The nearest sample instant to a raw time: index and the time's distance from it. -/
def nearest (s : State) (mcs t : Nat) : Nat × Int :=
  let k := indexAt s mcs t
  let a : Int := (t : Int) - (instantOf s mcs k : Int)
  let b : Int := (t : Int) - (instantOf s mcs (k + 1) : Int)
  if a.natAbs ≤ b.natAbs then (k, a) else (k + 1, b)

/-- The index of a slave's frame, its phase, and whether it slipped (R234, R235); `fresh` takes a new PHASE_REF. -/
def slaveIndex (s : State) (p : Nat) (rx fresh : Bool) : Nat × Int × Bool × Int :=
  let mcs := s.tdmMcs p rx
  let edge := s.ptiRaw (s.mcsPti mcs)
  match (if fresh then none else (s.tdm p rx).ref) with
  | none =>
    let (k, ph) := nearest s mcs edge
    (k, ph, false, ph)
  | some r =>
    let k := (nearest s mcs ((edge : Int) - r).toNat).1
    let ph : Int := (edge : Int) - (instantOf s mcs k : Int)
    if periods 1 (s.mcsFs mcs) < 4 * (ph - r).natAbs then
      let (k', ph') := nearest s mcs edge
      (k', ph', true, ph')
    else (k, ph, false, r)

/-- Conceal the indices a receive direction's frames skipped, from `k` on, at most `n` (R235). -/
def starve (s : State) (p : Nat) : Nat → Nat → State
  | _, 0 => s
  | k, n + 1 => starve (tdmCount ((rxConceal s p k).setFld (R.TDM.RX_STAT.STARVE_EV p) 1) p 3) p (k + 1) n

/-- STOP at a frame boundary (R237): LEADING_OUT, or READY where there is none. -/
def stopAtEdge (s : State) (p : Nat) (rx : Bool) : State :=
  let st := s.tdmState p rx
  if (st = tdmLeadIn ∨ st = tdmRunning) ∧ s.flag (td (R.TDM.TX_CMD.STOP p) rx) = true then
    let s := s.setTdm p rx { s.tdm p rx with outs := 1 }
    if s.fld (td (R.TDM.TX_LEAD.LEAD_OUT p) rx) = 0 then tdmGo s p rx tdmReady else tdmGo s p rx tdmLeadOut
  else if st = tdmLeadOut then s.setTdm p rx { s.tdm p rx with outs := (s.tdm p rx).outs + 1 }
  else s

/-- The words of the next frame are taken at a transmit direction's frame-sync edge (R245). -/
def takeNext (s : State) (p k : Nat) : State :=
  s.setTdm p false { s.tdm p false with taken := tdmTake s p (k + 1), takenIdx := k + 1 }

/-- What a frame does to a direction that has taken index `k` in the state it is in (R233, R237, R243). -/
def frameData (s : State) (p : Nat) (rx : Bool) (k : Nat) (line : List Nat) : State :=
  let first := match (s.tdm p rx).start with
    | some x => x.2
    | none => 0
  let s := stopAtEdge s p rx
  let s := if s.tdmState p rx = tdmLeadIn ∧ first ≤ k then tdmGo s p rx tdmRunning else s
  let data := s.tdmState p rx == tdmRunning
  let live := s.tdmState p rx != tdmReady
  let s := if live && s.flag (td (R.TDM.TX_FMT.MASTER p) rx) then s.emit (.tdmClocks p rx k (syncLine s p rx)) else s
  if rx then (if data then rxDeliver s p k line else s)
  else takeNext (if live then txSend s p k data else s) p k

/-- A frame that is not valid is missing (R234, R237): counted, and concealed by a running receive direction as index `k`; a STOP
acts at its edge all the same. -/
def frameMissing (s : State) (p : Nat) (rx : Bool) (k : Nat) : State :=
  let st := s.tdmState p rx
  let s := tdmCount (s.setFld (td (R.TDM.TX_STAT.FRAME_ERR_EV p) rx) 1) p (if rx then 5 else 4)
  let s := if rx && st == tdmRunning then rxConceal s p k else s
  stopAtEdge (s.setTdm p rx { s.tdm p rx with idx := if st = tdmClockLost then (s.tdm p rx).idx else k, good := 0 }) p rx

/-- A master's next edge is at the sample instant its MCS is at, while both PLLs run (R233, R236). -/
def masterEdge (s : State) (p : Nat) (rx : Bool) : Bool :=
  s.flag R.CLK.PLL_STAT.REF_LOCK && s.flag R.CLK.PLL_STAT.SYS_LOCK &&
    decide ((s.tdm p rx).idx < mcsCount s (s.tdmMcs p rx))

/-- A valid frame in CLOCK_LOST (R236): the first sets a new phase and is not delivered, the second is the first data frame. -/
def frameReturns (s : State) (p : Nat) (rx : Bool) (k : Nat) (line : List Nat) : State :=
  let d := s.tdm p rx
  if d.good = 0 then
    let s := s.setTdm p rx { d with chans := d.chans.map fun c => concSkip c (k - d.idx - 1) }
    let s := if rx then rxConceal s p k else takeNext s p k
    s.setTdm p rx { s.tdm p rx with good := 1, idx := k }
  else
    let s := tdmGo s p rx tdmRunning
    frameData (s.setTdm p rx { s.tdm p rx with good := 0, idx := k }) p rx k line

/-- TDM_FRAME (R233 to R246): an active frame-sync edge begins a frame, whose index a slave takes from the present time and a
master from its MCS; the frame before it measured `len` bit clocks with the sync active for `high`; `line` is what a receive
direction samples of the frame. `maskReady` says that a waiting mask was captured at least two bit clocks before the edge, which is
then its boundary in every state (R240). -/
def tdmFrame (s : State) (p : Nat) (rx maskReady : Bool) (len high : Nat) (line : List Nat) : State :=
  let st := s.tdmState p rx
  let master := s.flag (td (R.TDM.TX_FMT.MASTER p) rx)
  let meas : Fld := if rx then R.TDM.RX_CLKMEAS.LEN p else R.TDM.TX_CLKMEAS.LEN p
  let s := if master then s else
    s.setFlds [(meas, len), ({ meas with lo := 16 }, high), ({ meas with lo := 31, w := 1 }, 1)]
  if st < tdmLeadIn ∨ (master = true ∧ masterEdge s p rx = false) then s
  else
    let d := s.tdm p rx
    let valid := master || (len == frameLen s p rx &&
      (s.fld (td (R.TDM.TX_FMT.FORMAT p) rx) != 2 || high == s.fld (td (R.TDM.TX_FRAME.FS_WIDTH p) rx)))
    let (k, ph, slip, ref) :=
      if master then (mcsCount s (s.tdmMcs p rx), (0 : Int), false, (0 : Int))
      else if valid then slaveIndex s p rx (st == tdmClockLost && d.good == 0)
      else (d.idx + 1, (0 : Int), false, (0 : Int))
    let s := if maskReady then maskApply s p rx k else s
    let unit := (p / 8 + 4, 2 * (p % 8) + b2n rx)
    let s := if maskReady && s.marks.contains unit then pendRefresh { s with marks := s.marks.filter (· != unit) } else s
    if !valid then frameMissing s p rx k
    else
      let s := if master then s else
        s.setFld (td (R.TDM.TX_PHASE.NS p) rx) (ofSigned 32 (ph / (2 * nsUnit : Nat) * 2))
      let s := if slip then tdmCount (s.setFld (td (R.TDM.TX_STAT.SLIP_EV p) rx) 1) p (if rx then 5 else 4) else s
      let s := s.setTdm p rx { s.tdm p rx with ref := if master then none else some ref }
      if st = tdmClockLost then frameReturns s p rx k line
      else if rx && st == tdmRunning && d.ref.isSome && decide (k ≤ d.idx) then
        stopAtEdge (tdmCount (s.setFld (R.TDM.RX_STAT.OVERRUN_EV p) 1) p 2) p rx
      else
        let s := if rx && st == tdmRunning && d.ref.isSome then starve s p (d.idx + 1) (k - (d.idx + 1)) else s
        frameData (s.setTdm p rx { s.tdm p rx with idx := k }) p rx k line

/-- TDM_CLOCK_LOST (R236, R243): a slave without an edge for two frame periods, or a direction whose PLL lost lock. -/
def execTdmClockLost (p : Nat) (rx : Bool) (s : State) : Out3 :=
  let st := s.tdmState p rx
  let pll := !s.flag R.CLK.PLL_STAT.REF_LOCK || !s.flag R.CLK.PLL_STAT.SYS_LOCK
  if (st = tdmRunning ∨ st = tdmLeadIn) ∧ (pll ∨ !s.flag (td (R.TDM.TX_FMT.MASTER p) rx)) then
    let s := (tdmGo s p rx tdmClockLost).setFld (td (R.TDM.TX_STAT.CLK_LOST_EV p) rx) 1
    ok (s.setTdm p rx { s.tdm p rx with good := 0 })
  else ok s

/-- TDM_LEAD_OUT_END (R237): after LEAD_OUT frames the direction is READY. -/
def execTdmLeadOutEnd (p : Nat) (rx : Bool) (s : State) : Out3 :=
  if s.tdmState p rx = tdmLeadOut ∧ s.fld (td (R.TDM.TX_LEAD.LEAD_OUT p) rx) ≤ (s.tdm p rx).outs then
    ok (tdmGo s p rx tdmReady)
  else ok s

/-- All directions of a TDM domain are forced OFF as it loses power (R237). -/
def tdmPowerOff (s : State) (high : Bool) : State :=
  (List.range 8).foldl (fun s i =>
    let p := i + (if high then 8 else 0)
    tdmGo (tdmGo s p false tdmOff) p true tdmOff) s

end Sys2Proof.Machine
end

