-- ==== Sys2Proof/Machine/Line.lean ====
section
/-! DEFINITION. What every detection of the line guard does (R432, R440 to R444). -/

namespace Sys2Proof.Machine

/-- A guard class is enabled (R432): 0 TDM readback, 1 open test, 2 clock swap, 3 lanes, 4 TIO. -/
def grdOn (s : State) (c : Nat) : Bool := nbit (s.fld R.GRD.CTL.CLASSES) c

/-- Count in one of the guard's counters by its SAT bit: 0 to 15 TDM_CNTn, 16 LANE_CNT, 17 TIO_CNT, 18 REPROBE_FAIL. -/
def grdCount (s : State) (i : Nat) : State :=
  let key := if i < 16 then R.GRD.TDM_CNT.reg i else R.GRD.LANE_CNT.reg + 4 * (i - 16)
  s.countSat { R.GRD.LANE_CNT.COUNT with key := key } R.GRD.SAT.SAT_F i

/-- Latch a detection in GRD.LAST if the latch is clear (R444). -/
def grdLast (s : State) (cls idx pin kind : Nat) : State :=
  s.latchOnce R.GRD.LAST.reg
    [(R.GRD.LAST.CLASS, cls), (R.GRD.LAST.INDEX, idx), (R.GRD.LAST.PIN, pin), (R.GRD.LAST.KIND, kind)]

/-- Set a bit of a field. -/
def setBitOf (s : State) (f : Fld) (i : Nat) (b : Bool) : State := s.setFld f (setBit (s.fld f) i b)

/-- A detection on a TDM pin; its cause bit is `cause`. -/
def tdmDetect (s : State) (n pin kind : Nat) (cause : Fld) : State :=
  grdLast (grdCount (setBitOf s cause pin true) n) 0 n pin kind

/-- A detection on a lane (R440, R441), while its class is enabled. -/
def laneDetect (s : State) (lane kind : Nat) : State :=
  if grdOn s 3 then grdLast (grdCount (s.setFld R.GRD.LANE_STAT.LANE_EV 1) 16) 1 lane 0 kind else s

/-- A detection on a TIO pin (R442, R443), while its class is enabled. -/
def tioDetect (s : State) (pin kind : Nat) : State :=
  if grdOn s 4 then grdLast (grdCount (s.setFld R.GRD.TIO_STAT.TIO_EV 1) 17) 2 pin 0 kind else s

/-- A trip is reported (R227, R444). -/
def tripEvent (s : State) (cls idx : Nat) : State :=
  let cause := if cls = 0 then s.rd (R.GRD.TDM_STAT.reg idx) else if cls = 1 then s.rd R.GRD.LANE_STAT.reg
    else s.rd R.GRD.TIO_STAT.reg
  s.event 0xE0D0 ([byteOf cls, byteOf idx, 0, 0] ++ leBytes 4 cause.toNat)

/-- GRD_LANE_POLARITY (R440): a training judges a receive lane, and the transmit lane takes its TX_INV. -/
def lanePolarity (s : State) (lane : Nat) (inv : Bool) : State :=
  let s := { s with pins := { s.pins with txInv := setBit s.pins.txInv lane (nbit (s.fld R.GRD.LANE_CFG.TX_INV) lane) } }
  if !grdOn s 3 then s
  else
    let s := setBitOf s R.GRD.LANE_STAT.POL_INV lane inv
    if inv then laneDetect s lane 6 else s

/-- GRD_LANE_SWAP (R441): a training tells a stack link's lanes apart. -/
def laneSwap (s : State) (l : Nat) (swapped : Bool) : State :=
  if !grdOn s 3 then s
  else
    let s := s.setFlag (if l = 0 then R.GRD.LANE_STAT.LANE_SWAP_U else R.GRD.LANE_STAT.LANE_SWAP_D) swapped
    if swapped then laneDetect s (2 + 2 * l) 7 else s

/-- STK_MISWIRE (R441): a link is REFUSED, or has left REFUSED. -/
def laneMiswire (s : State) (l : Nat) (refused : Bool) : State :=
  let s' := s.setFlag (if l = 0 then R.GRD.LANE_STAT.MISWIRE_U else R.GRD.LANE_STAT.MISWIRE_D) (refused && grdOn s 3)
  if refused then laneDetect s' (2 + 2 * l) 8 else s'

end Sys2Proof.Machine
end

