-- ==== Sys2Proof/Machine/Capture.lean ====
section
/-! DEFINITION. Update groups and captures (R140 to R142, R417). -/

namespace Sys2Proof.Machine

/-- The bits of a register that belong to fields of an access code. -/
def RegRow.mask (r : RegRow) (p : FieldRow → Bool) : Word :=
  r.fields.foldl (fun m f => if p f then m ||| BitVec.ofNat 32 ((2 ^ (f.hi - f.lo + 1) - 1) <<< f.lo) else m) 0

/-- The SH bits of a register. -/
def RegRow.shMask (r : RegRow) : Word := r.mask fun f => f.acc == .sh

/-- The update group of a key (R140), with the SH bits of its register. -/
def groupOf (key : Nat) : Option (Nat × Word) :=
  let off := key % 0x1000000
  match regFind off with
  | none => none
  | some (r, _) =>
    let m := r.shMask
    if m = 0 then none
    else if r.group = 16 then none
    else some (if r.group = 17 then (if off < 0x8800 then 4 else 5) else r.group, m)

/-- Insert a number in a rising list, once. -/
def insertNat (n : Nat) : List Nat → List Nat
  | [] => [n]
  | m :: ms => if n < m then n :: m :: ms else if n = m then m :: ms else m :: insertNat n ms

/-- The keys whose shadow or active word is listed, rising. -/
def listedKeys (s : State) : List Nat :=
  (s.sh.map Prod.fst).foldl (fun l k => insertNat k l) (s.rf.map Prod.fst)

/-- What a strobe of a set of groups captures: keys whose SH bits differ from the active ones (R417). -/
def differing (s : State) (groups : Nat) : List Cap :=
  (listedKeys s).filterMap fun k =>
    match groupOf k with
    | none => none
    | some (g, m) =>
      if nbit groups g && (s.rdSh k ^^^ s.rd k) &&& m ≠ 0 then
        some ⟨g, k, (s.rdSh k &&& m) ||| (s.rd k &&& ~~~m)⟩
      else none

/-- The TDM direction an entry moves with when its mask is captured in the same strobe (R242). -/
def entryLink (caps : List Cap) (d : Nat) (w : Word) : Option Nat :=
  let has (p : Nat) (rx : Bool) : Bool := caps.any fun c => (dirMaskKeys p rx).contains c.key
  let src := impSrc w
  if 0x800 ≤ d ∧ d < 0xA00 ∧ has ((d - 0x800) / 32) false then some (2 * ((d - 0x800) / 32))
  else if 0x800 ≤ src ∧ src < 0xA00 ∧ has ((src - 0x800) / 32) true then some (2 * ((src - 0x800) / 32) + 1)
  else none

/-- Capture the imposition table's shadows (R140, R253). -/
def captureTable (s : State) (caps : List Cap) : State :=
  (impListed s).foldl (fun s d =>
    let e := s.imp d
    let same := e.shadow == e.cur.word
    s.setImp d { e with
      cap := if same then none else some e.shadow
      link := if same then none else entryLink caps d e.shadow }) s

/-- Units of a group that meet a boundary of their own while they run (R122): TDM directions and flows. -/
def runningUnits (s : State) (g : Nat) : List Nat :=
  if g = 4 ∨ g = 5 then
    (List.range 16).filter fun u => decide (tdmArmed < s.tdmState (u / 2 + 8 * (g - 4)) (u % 2 == 1))
  else if g = 6 then (List.range 256).filter fun f => s.flag (R.RXF.F_STAT.STATE f)
  else if g = 7 then (List.range 256).filter fun f => s.flag (R.TXF.F_STAT.STATE f)
  else []

/-- The unit that stands for the blocks of a group that apply a capture in the cycle after it (R122). -/
def restUnit : Nat := 1024

/-- The units that a capture of a set of groups has still to reach, after those of other groups (R142). -/
def newMarks (s : State) (groups : Nat) : List (Nat × Nat) :=
  s.marks.filter (fun m => !nbit groups m.1) ++
    ((List.range 16).filter (nbit groups)).flatMap fun g => (g, restUnit) :: (runningUnits s g).map fun u => (g, u)

/-- In the cycle after a capture the blocks without a boundary of their own have applied it, and so have units that no longer
run (R142). -/
def marksSettle (s : State) : State :=
  if s.marks.isEmpty then s
  else pendRefresh { s with marks := s.marks.filter fun m => (runningUnits s m.1).contains m.2 }

/-- One capture of a set of groups (R141, R417), at a time of a PTI for each group: older captures of the groups are replaced;
groups 2 and 3 apply at once, every other value waits for its block's boundary. -/
def captureAt (s : State) (groups : Nat) (time : Nat → Nat × Nat) : State :=
  let caps := differing s groups
  let s := State.crcHold { s with
    cap := s.cap.filter (fun c => !nbit groups c.grp), marks := newMarks s groups
    strobes := s.strobes.filter (fun x => !nbit groups x.1) ++
      ((List.range 16).filter (nbit groups)).map fun g => (g, (time g).1, (time g).2) }
  let s := if nbit groups 1 then captureTable s caps else s
  let s := { s with cap := s.cap ++ caps.filter (fun c => c.grp != 2 && c.grp != 3) }
  let s := (caps.filter fun c => c.grp == 2).foldl (fun s c => clkApply s c.key c.val) s
  let s := (caps.filter fun c => c.grp == 3).foldl (fun s c => timeApply s c.key c.val) s
  pendRefresh s

/-- A capture now. -/
def capture (s : State) (groups : Nat) : State := captureAt s groups fun _ => (0, s.ptiRaw 0)

end Sys2Proof.Machine
end

