-- ==== Sys2Proof/Machine/Galley.lean ====
section
/-! DEFINITION. The galley (R270 to R292): cells, items, admission, slugs, the consumer's operations, flush,
protection, scrubbing and the diagnostic window. -/

namespace Sys2Proof.Machine

/-- A queue with nothing in it. -/
def gqEmpty : GQueue := ⟨[], 0, none, none, false, false, false, none, false⟩

/-- What an unlisted queue holds. -/
def gqDefault (_ : Nat) : GQueue := gqEmpty

/-- A queue of the galley. -/
def State.gq (s : State) (q : Nat) : GQueue := sGet gqDefault s.gal.qs q

/-- Set a queue. -/
def State.setGq (s : State) (q : Nat) (x : GQueue) : State :=
  { s with gal := { s.gal with qs := sPut gqDefault s.gal.qs q x } }

/-- The class of a queue, by its range (R276). -/
def qClass (q : Nat) : Nat :=
  if q < 512 then 0 else if q < 768 then 1 else if q < 896 then 2 else if q < 960 then 3 else 4

/-- Drop reasons (R279). -/
def reasonCap : Nat := 1
def reasonPool : Nat := 2
def reasonLow : Nat := 3
def reasonFlushed : Nat := 4
def reasonSleep : Nat := 5

/-- The number of a cell (R26). -/
def CellNo.num (c : CellNo) : Nat := 65536 * c.half + c.idx

/-- The cell of a number. -/
def cellOf (n : Nat) : CellNo := ⟨n / 65536, n % 65536⟩

/-- Cells of an element. -/
def GElem.cells : GElem → List CellNo
  | .item it => it.cells
  | .slug sl => [sl.cell]

/-- Cells an element counts in HELD: a slug's does not (R277). -/
def GElem.held : GElem → Nat
  | .item it => it.cells.length
  | .slug _ => 0

/-- Whether a consumer may see an element (R275). -/
def GElem.live : GElem → Bool
  | .item it => it.live
  | .slug _ => true

/-- Whether an element is a slug. -/
def GElem.isSlug : GElem → Bool
  | .item _ => false
  | .slug _ => true

/-- HELD (R277): the cells not released, open items among them. -/
def GQueue.held (x : GQueue) : Nat :=
  (x.elems.map GElem.held).sum + (match x.opened with | some it => it.cells.length | none => 0)

/-- Whether the queue's own slug cell holds a slug. -/
def GQueue.ownUsed (x : GQueue) : Bool :=
  x.elems.any fun e => match e with | .slug sl => sl.own | .item _ => false

/-- Committed elements from the release point. -/
def GQueue.visible (x : GQueue) : Nat := (x.elems.takeWhile GElem.live).length

/-- Committed items and slugs between the read point and the tail (R283). -/
def GQueue.depth (x : GQueue) : Nat := x.visible - x.rd

/-- All cells a queue holds, slug cells among them. -/
def GQueue.cells (x : GQueue) : List CellNo :=
  x.elems.flatMap GElem.cells ++ (match x.opened with | some it => it.cells | none => [])

/-- Every cell that is on a queue, retired or cut off. -/
def usedCells (s : State) : List CellNo :=
  s.gal.qs.flatMap (fun p => p.2.cells) ++ s.gal.retired ++ s.gal.lost

/-- Whether a half hands out cells: powered and its free list built (R272). -/
def halfReady (s : State) (h : Nat) : Bool := s.domOn (3 + h) && s.gal.built.getD h false

/-- Free cells of a half. -/
def freeHalf (s : State) (h : Nat) : Nat :=
  if halfReady s h then 65536 - ((usedCells s).filter (fun c => c.half == h)).length else 0

/-- `GAL.POOL.FREE`. -/
def galFree (s : State) : Nat := freeHalf s 0 + freeHalf s 1

/-- The half a queue is confined to (R277). -/
def confined (s : State) (q : Nat) : Option Nat :=
  match s.fld (R.GAL.Q_CFG.HALF q) with
  | 1 => some 0
  | 2 => some 1
  | _ => none

/-- The half of a queue's own slug cell: that a queue is confined to, else half `q` modulo 2, so that 512 stand in each half. The
spec places them in no half (log 12). -/
def slugHalf (s : State) (q : Nat) : Nat := (confined s q).getD (q % 2)

/-- The queues with a reservation. Q_RES resets to 0, so only listed entries count. -/
def reserved (s : State) : List (Nat × Nat) :=
  (s.rf.filter fun p => p.1 % 0x1000000 == 0xB048).map fun p => (p.1 / 0x1000000, p.2.toNat % 262144)

/-- Slug cells not holding a slug, over the queues that meet a test: 1024 cells less the slugs in own cells. -/
def slugsFree (s : State) : Nat := 1024 - (s.gal.qs.filter (fun p => p.2.ownUsed)).length

/-- As `slugsFree`, of one half: 512 cells stand in each half while no queue is confined. -/
def slugsFreeHalf (s : State) (h : Nat) : Nat :=
  ((List.range 1024).filter fun q => slugHalf s q == h && !(s.gq q).ownUsed).length

/-- SHARED (R279). -/
def galShared (s : State) : Nat :=
  galFree s - ((reserved s).map fun p => p.2 - (s.gq p.1).held).sum - slugsFree s

/-- SHARED of one half (R279). -/
def galSharedHalf (s : State) (h : Nat) : Nat :=
  freeHalf s h - (((reserved s).filter fun p => confined s p.1 == some h).map fun p => p.2 - (s.gq p.1).held).sum -
    slugsFreeHalf s h

/-- LOW follows SHARED (R292). -/
def galRefresh (s : State) : State :=
  s.setFlag R.GAL.EVT.LOW (decide (galShared s < s.fld R.GAL.LOW_WATER.CELLS))

/-- The first number from `start` up, cyclically in a half, that is not used. -/
def firstFree (used : List CellNo) (h : Nat) : Nat → Nat → CellNo
  | 0, c => ⟨h, c % 65536⟩
  | n + 1, c => if used.contains ⟨h, c % 65536⟩ then firstFree used h n (c + 1) else ⟨h, c % 65536⟩

/-- Take one free cell of a half. Which one the free list hands out is not stated: a free value (log 12). -/
def takeCell (s : State) (h : Nat) : CellNo × State :=
  let (k, s) := s.fresh
  let used := usedCells s
  (firstFree used h used.length (Config.freeValue k).toNat, s)

/-- Whether a half is in SECDED protection; GAL1 always is while DX is present (R286). -/
def secded (s : State) (h : Nat) : Bool :=
  if h = 0 then s.flag R.GAL.CFG.PROT0 else s.dxPresent || s.flag R.GAL.CFG.PROT1

/-- The half of the next cell of a queue (R26, R277): in turn, or one in four from a SECDED half beside a parity
half. -/
def nextHalf (s : State) (q : Nat) : Nat :=
  match confined s q with
  | some h => h
  | none =>
    let p0 := secded s 0
    let p1 := secded s 1
    let t := s.gal.turn
    let want := if p0 == p1 then t % 2 else if t % 4 = 3 then (if p0 then 0 else 1) else (if p0 then 1 else 0)
    if 0 < freeHalf s want then want else 1 - want

/-- Bytes of a cell's word are at this address of the RAM. -/
def cellAddr (c : CellNo) (w : Nat) : Nat := 64 * c.num + 8 * w

/-- The bits of a value stored for a word clear its inversions, unless INJECT is armed for the word (R290). -/
def storeMark (s : State) (c : CellNo) (w : Nat) : State :=
  let fl := s.gal.flips.filter fun f => !(f.1 == c && f.2.1 == w)
  if s.flag R.GAL.INJECT.ARM ∧ s.fld R.GAL.INJECT.CELL = c.num ∧ s.fld R.GAL.INJECT.WORD = w then
    { (s.setFld R.GAL.INJECT.ARM 0) with gal := { s.gal with flips := (c, w, s.fld R.GAL.INJECT.BIT) :: fl } }
  else { s with gal := { s.gal with flips := fl } }

/-- Write an item's bytes back to the RAM as its cells are freed. -/
def spill (s : State) (cells : List CellNo) (bytes : List Byte) : State :=
  match cells with
  | [] => s
  | c :: cs => spill { s with gal := { s.gal with mem := memWrite s.gal.mem (cellAddr c 0) (bytes.take 64) } } cs (bytes.drop 64)

/-- The bytes of a slug's cell (R280). -/
def slugBytes (sl : GSlug) : List Byte :=
  leBytes 4 (0xF * 2 ^ 28 + sl.reason * 2 ^ 24 + 16) ++ leBytes 4 (b2n sl.merged + 2 * b2n (sl.count == 65535)) ++
    leBytes 8 (sl.count * 2 ^ 48 + sl.folio % 65536 * 2 ^ 32 + sl.ts % 2 ^ 32)

/-- The bytes of an element. -/
def GElem.bytes : GElem → List Byte
  | .item it => it.bytes
  | .slug sl => slugBytes sl

/-- Return an element's cells to the RAM. -/
def spillElem (s : State) (e : GElem) : State := spill s e.cells e.bytes

/-- A cell handed to an unconfined queue moves the turn of the halves on (R26); a confined queue's does not. -/
def turnOn (s : State) (q : Nat) : State :=
  if (confined s q).isSome then s else { s with gal := { s.gal with turn := s.gal.turn + 1 } }

/-- `n` cells for a queue, taken one by one. -/
def takeCells (s : State) (q : Nat) : Nat → List CellNo × State
  | 0 => ([], s)
  | n + 1 =>
    let (c, s) := takeCell s (nextHalf s q)
    let s := turnOn s q
    let s := { s with gal := { s.gal with lost := c :: s.gal.lost } }
    let (cs, s) := takeCells s q n
    (c :: cs, { s with gal := { s.gal with lost := s.gal.lost.filter (· != c) } })

/-- Whether an allocation of `n` cells is granted, or its drop reason (R279). -/
def allots (s : State) (q n : Nat) : Option Nat :=
  let held := (s.gq q).held
  let res := s.fld (R.GAL.Q_RES.CELLS q)
  if held + n ≤ res then none
  else
    let x := held + n - max res held
    let sh := match confined s q with
      | some h => min (galShared s) (galSharedHalf s h)
      | none => galShared s
    if s.fld (R.GAL.Q_CAP.CELLS q) < held + n then some reasonCap
    else if sh < x then some reasonPool
    else if s.flag (R.GAL.Q_CFG.BE q) && decide (sh < s.fld R.GAL.LOW_WATER.CELLS) then some reasonLow
    else none

/-- The position of the youngest slug at or after the read point. -/
def youngest (x : GQueue) : Option Nat :=
  ((List.range x.elems.length).filter fun i =>
    x.rd ≤ i && (match x.elems[i]? with | some e => e.isSlug | none => false)).getLast?

/-- Add drops to a slug. -/
def GElem.bump (n : Nat) (merge : Bool) : GElem → GElem
  | .slug sl => .slug { sl with count := min 65535 (sl.count + n), merged := sl.merged || merge }
  | e => e

/-- Place a slug at the tail, in a cell of a half. -/
def placeSlugIn (s : State) (h q n folio ts reason : Nat) (merged own : Bool) : State :=
  let (c, s) := takeCell s h
  let s := storeMark (storeMark s c 0) c 1
  let x := s.gq q
  s.setGq q { x with
    elems := x.elems ++ [.slug ⟨min 65535 n, folio % 65536, ts % 2 ^ 32, reason, merged, own, c⟩]
    slugFresh := true, carried := none }

/-- Place a slug at the tail in the own slug cell or in a cell of the pool, which the free list hands out in its turn. -/
def placeSlug (s : State) (q n folio ts reason : Nat) (merged own : Bool) : State :=
  if own then placeSlugIn s (slugHalf s q) q n folio ts reason merged true
  else turnOn (placeSlugIn s (nextHalf s q) q n folio ts reason merged false) q

/-- SLUG_PLACE (R281): one drop leaves its mark in the queue. -/
def slugDrop (s : State) (q folio ts reason : Nat) : State :=
  let x := s.gq q
  match youngest x, x.slugFresh with
  | some i, true => s.setGq q { x with elems := modifyAt x.elems i (GElem.bump 1 false) }
  | y, _ =>
    let own := !x.ownUsed
    if own || decide (1 ≤ galShared s) then
      match x.carried with
      | some c => placeSlug s q (c.count + 1) c.folio c.ts c.reason true own
      | none => placeSlug s q 1 folio ts reason false own
    else
      match y with
      | some i => s.setGq q { x with elems := modifyAt x.elems i (GElem.bump 1 true) }
      | none =>
        s.setGq q { x with carried := some (match x.carried with
          | some c => { c with count := min 65535 (c.count + 1) }
          | none => ⟨1, folio % 65536, ts % 2 ^ 32, reason⟩) }

/-- Count drops of a queue (R281). -/
def countDrops (s : State) (q n : Nat) : State :=
  let s := s.countN (R.GAL.Q_DROPS.COUNT q) n
  let s := if s.fld (R.GAL.Q_DROPS.COUNT q) = 0xFFFFFFFF then s.setFld (R.GAL.Q_STAT.Q_SAT q) 1 else s
  let s := s.countSatN R.GAL.DROP_CNT.COUNT n R.GAL.SAT.SAT_F 4
  if n = 0 then s else s.setFld R.GAL.EVT.DROP 1

/-- ITEM_DROP (R280). -/
def itemDrop (s : State) (q folio ts reason : Nat) : State := slugDrop (countDrops s q 1) q folio ts reason

/-- Cells of a byte count (R27). -/
def cellsFor (n : Nat) : Nat := (n + 63) / 64

/-- Open an item (R274): with a known length it asks for all its cells now. An item above 4096 cells is refused as a
drop with reason CAP (R273). -/
def galOpen (s : State) (q kind : Nat) (len : Option Nat) (folio ts : Nat) : State :=
  let x := s.gq q
  match x.opened, x.swallow with
  | none, false =>
    (match len with
     | none => s.setGq q { x with opened := some ⟨kind, folio, ts, [], [], false⟩, known := false }
     | some l =>
       let n := cellsFor l
       match (if 262144 < l then some reasonCap else allots s q n) with
       | some r => let s := itemDrop s q folio ts r
                   s.setGq q { s.gq q with swallow := true }
       | none =>
         let (cs, s) := takeCells s q n
         s.setGq q { s.gq q with opened := some ⟨kind, folio, ts, cs, [], false⟩, known := true })
  | _, _ => s

/-- The producer's last word has come while its item was swallowed. -/
def swallowEnd (s : State) (q : Nat) : State :=
  let s := s.setGq q { s.gq q with swallow := false }
  if s.flag (R.GAL.Q_STAT.FLUSHING q) then { s with gal := { s.gal with flushWait := false } } else s

/-- Write the next word of the open item; `last` marks the item's last word. -/
def galWord (s : State) (q : Nat) (bs : List Byte) (last : Bool) : State :=
  let x := s.gq q
  if x.swallow then (if last then swallowEnd s q else s)
  else
    match x.opened with
    | none => s
    | some it =>
      let n := it.bytes.length + bs.length
      let need := cellsFor n - it.cells.length
      match (if need = 0 then none else if 262144 < n then some reasonCap else allots s q need) with
      | some r =>
        let s := spill s it.cells it.bytes
        let s := s.setGq q { x with opened := none, swallow := !last }
        itemDrop s q it.folio it.ts r
      | none =>
        let (cs, s) := takeCells s q need
        let it := { it with cells := it.cells ++ cs, bytes := it.bytes ++ bs }
        let w := (n - 1) / 8
        let s := match it.cells[w / 8]? with
          | some c => storeMark s c (w % 8)
          | none => s
        if last then s.setGq q { s.gq q with opened := none, elems := (s.gq q).elems ++ [.item it] }
        else s.setGq q { s.gq q with opened := some it }

/-- Write a whole item's bytes, word by word. -/
def galWords (s : State) (q : Nat) : Nat → List Byte → State
  | 0, _ => s
  | n + 1, bs => galWords (galWord s q (bs.take 8) (decide (bs.length ≤ 8))) q n (bs.drop 8)

/-- A producer puts a whole item in a queue; it stays invisible until its commit. -/
def galPut (s : State) (q kind : Nat) (known : Bool) (folio ts : Nat) (bs : List Byte) : State :=
  let s := galOpen s q kind (if known then some bs.length else none) folio ts
  galWords s q ((bs.length + 7) / 8) bs

/-- The element header of a descriptor (R273). -/
def elemHeader (kind len : Nat) : List Byte := leBytes 4 (kind * 2 ^ 28 + len)

/-- Make the first uncommitted item of a queue visible. -/
def liveFirst : List GElem → List GElem
  | [] => []
  | e :: es => if e.live then e :: liveFirst es else
      match e with
      | .item it => .item { it with live := true } :: es
      | .slug _ => e :: es

/-- Commit (R275): an item becomes visible. -/
def galCommit (s : State) (q : Nat) : State :=
  let x := s.gq q
  if x.elems.all GElem.live then s
  else galRefresh (s.setGq q { x with elems := liveFirst x.elems, slugFresh := false })

/-- ITEM_OPEN (R274, R279). -/
def execItemOpen (q kind : Nat) (len : Option Nat) (folio ts : Nat) (s : State) : Out3 :=
  ok (galRefresh (galOpen s q kind len folio ts))

/-- ITEM_WORD_WRITE (R274, R279, R280): one word of up to eight bytes. -/
def execItemWordWrite (q : Nat) (bs : List Byte) (last : Bool) (s : State) : Out3 :=
  ok (galRefresh (galWord s q (bs.take 8) last))

/-- CARRIED_SLUG_PLACE (R281): the carried drops get a slug with MERGED set as soon as a cell for it is free. -/
def execCarriedSlugPlace (q : Nat) (s : State) : Out3 :=
  let x := s.gq q
  match x.carried with
  | none => ok s
  | some c =>
    if !x.ownUsed then ok (galRefresh (placeSlug s q c.count c.folio c.ts c.reason true true))
    else if 1 ≤ galShared s then ok (galRefresh (placeSlug s q c.count c.folio c.ts c.reason true false))
    else ok s

/-- A rewind is counted, of its queue and of all (R275). -/
def galRwnd (s : State) (q : Nat) : State :=
  let s := s.count (R.GAL.Q_RWND.COUNT q)
  let s := if s.fld (R.GAL.Q_RWND.COUNT q) = 0xFFFFFFFF then s.setFld (R.GAL.Q_STAT.Q_SAT q) 1 else s
  galRefresh (s.countSat R.GAL.RWND_CNT.COUNT R.GAL.SAT.SAT_F 5)

/-- Rewind of an item by its producer (R275): the open item, or one whose last word is written. -/
def galRewind (s : State) (q : Nat) : State :=
  let x := s.gq q
  match x.opened with
  | some it => galRwnd ((spill s it.cells it.bytes).setGq q { x with opened := none }) q
  | none =>
    if x.swallow then swallowEnd s q
    else
      match x.elems.getLast? with
      | some (.item it) =>
        if it.live then s else galRwnd ((spill s it.cells it.bytes).setGq q { x with elems := x.elems.dropLast }) q
      | _ => s

/-- ITEM_REWIND (R275). -/
def execItemRewind (q : Nat) (s : State) : Out3 := ok (galRewind s q)

/-- Latch the first error since the last read of ERR_ADDR (R287). -/
def errLatch (s : State) (kind w : Nat) (c : CellNo) : State :=
  s.latchOnce R.GAL.ERR_ADDR.reg
    [(R.GAL.ERR_ADDR.KIND, kind), (R.GAL.ERR_ADDR.WORD, w), (R.GAL.ERR_ADDR.CELL, c.num)]

/-- Read a word through its check bits (R286, R287): whether it is poisoned, and the state with the error counted and
a single error of a SECDED half corrected in place. -/
def checkWord (s : State) (c : CellNo) (w : Nat) : Bool × State :=
  let n := (s.gal.flips.filter fun f => f.1 == c && f.2.1 == w).length
  if n = 0 then (false, s)
  else if secded s c.half then
    if n = 1 then
      let s := { s with gal := { s.gal with flips := s.gal.flips.filter fun f => !(f.1 == c && f.2.1 == w) } }
      let s := (s.setFld R.GAL.EVT.CE 1).countSat R.GAL.CE_CNT.COUNT R.GAL.SAT.SAT_F 2
      (false, errLatch s 2 w c)
    else
      let s := (s.setFld R.GAL.EVT.UE 1).countSat R.GAL.UE_CNT.COUNT R.GAL.SAT.SAT_F 3
      (true, errLatch s 3 w c)
  else
    let s := (s.setFld R.GAL.EVT.PAR 1).countSat (R.GAL.PAR_CNT.COUNT c.half) R.GAL.SAT.SAT_F c.half
    (true, errLatch s 1 w c)

/-- Check every word of a run of cells; the numbers of the poisoned words. -/
def checkCells (s : State) (base : Nat) : List CellNo → List Nat × State
  | [] => ([], s)
  | c :: cs =>
    let (bad, s) := (List.range 8).foldl (fun (acc : List Nat × State) w =>
      let (b, s') := checkWord acc.2 c w
      (if b then acc.1 ++ [base + w] else acc.1, s')) ([], s)
    let (bad', s) := checkCells s (base + 8) cs
    (bad ++ bad', s)

/-- Words of some cells with one inverted bit, and with more. -/
def errWords (s : State) (cells : List CellNo) : Nat × Nat :=
  let n (c : CellNo) (w : Nat) : Nat := (s.gal.flips.filter fun f => f.1 == c && f.2.1 == w).length
  let all := cells.flatMap fun c => (List.range 8).map (n c)
  ((all.filter (· == 1)).length, (all.filter (2 ≤ ·)).length)

/-- A queue that DX owns (R447). -/
def dxConsumed (s : State) (q : Nat) : Bool :=
  s.dxPresent && ((decide (q < 16) && q % 2 == 0) || (decide (512 ≤ q) && decide (q < 520)))

/-- DX_ECC counts the errors in words that the consumers of DX queues read (R458), and its events are set at once. -/
def dxEccCount (s : State) (q : Nat) (cells : List CellNo) : State :=
  let (ce, ue) := errWords s cells
  if !dxConsumed s q ∨ (ce = 0 ∧ ue = 0) then s
  else
    let v := s.dxCell 0x200
    let s := s.setDx 0x200 (min 255 (v / 256 + ue) * 256 + min 255 (v % 256 + ce))
    dxRaise s (b2n (ce != 0) * 32 + b2n (ue != 0) * 64)

/-- Pop (R282, R283, R287, R458): the element at the read point with its poisoned words, or `none` for EMPTY. -/
def galPop (s : State) (q : Nat) : Option (GElem × List Nat) × State :=
  let x := s.gq q
  if x.depth = 0 then (none, s)
  else
    match x.elems[x.rd]? with
    | none => (none, s)
    | some e =>
      let (bad, s) := checkCells (dxEccCount s q e.cells) 0 e.cells
      (some (e, bad), s.setGq q { s.gq q with rd := x.rd + 1 })

/-- QUEUE_POP (R282). -/
def execQueuePop (q : Nat) (s : State) : Out3 :=
  let (r, s) := galPop s q
  ok (s.emit (.galPop q (r.map Prod.fst) ((r.map Prod.snd).getD [])))

/-- QUEUE_MARK (R282). -/
def execQueueMark (q : Nat) (s : State) : Out3 :=
  let x := s.gq q
  ok (s.setGq q { x with mark := some x.rd, flushed := false })

/-- Move the read point back to the mark: 0 moved, 1 NO_MARK, 2 EMPTY after a flush. -/
def galBack (s : State) (q : Nat) : Nat × State :=
  let x := s.gq q
  match x.mark with
  | none => (if x.flushed then 2 else 1, s)
  | some m => (0, s.setGq q { x with rd := m })

/-- QUEUE_REWIND (R282, R284): without a valid mark the consumer gets NO_MARK, and EMPTY where a flush took the mark. -/
def execQueueRewind (q : Nat) (s : State) : Out3 :=
  let (b, s) := galBack s q
  ok (s.emit (.galBack q b))

/-- Free the first `n` elements of a queue. -/
def galFreeFirst (s : State) (q n : Nat) : State :=
  let x := s.gq q
  let s := (x.elems.take n).foldl spillElem s
  s.setGq q { x with
    elems := x.elems.drop n, rd := x.rd - n
    mark := match x.mark with
      | some m => if m < n then none else some (m - n)
      | none => none }

/-- Release everything before the read point, or before the mark (R282). -/
def galRelease (s : State) (q : Nat) (toMark : Bool) : State :=
  let x := s.gq q
  let n := if toMark then x.mark.getD 0 else x.rd
  galRefresh (galFreeFirst s q (min n x.rd))

/-- QUEUE_RELEASE (R282). -/
def execQueueRelease (q : Nat) (toMark : Bool) (s : State) : Out3 := ok (galRelease s q toMark)

/-- What one discarded element adds to a flush slug's COUNT. -/
def GElem.lossCount : GElem → Nat
  | .item _ => 1
  | .slug sl => sl.count

/-- Folio and timestamp of an element. -/
def GElem.stamp : GElem → Nat × Nat
  | .item it => (it.folio, it.ts)
  | .slug sl => (sl.folio, sl.ts)

/-- The discarding part of a flush (R284), with the reason of the slug it leaves and the half of its cell; `gone` are elements
whose items count as drops. -/
def galDiscardIn (s : State) (h q reason : Nat) : State :=
  let x := s.gq q
  let gone := x.elems.drop x.rd
  let ab := match x.opened with | some it => [GElem.item it] | none => []
  let n := ((gone ++ ab).map GElem.lossCount).sum
  let items := ((gone ++ ab).filter fun e => !e.isSlug).length
  let st := ((gone ++ ab).map GElem.stamp).headD (0, 0)
  let s := x.elems.foldl spillElem s
  let s := ab.foldl spillElem s
  let s := s.setGq q { x with
    elems := [], rd := 0, mark := none, opened := none, flushed := true
    swallow := x.swallow || x.opened.isSome, slugFresh := false }
  let s := countDrops s q items
  let c := x.carried
  let s := if n = 0 then s else placeSlugIn s h q n st.1 st.2 reason false true
  s.setGq q { s.gq q with carried := c }

/-- A flush's discarding part: its slug stands in the queue's own slug cell. -/
def galDiscard (s : State) (q reason : Nat) : State := galDiscardIn s (slugHalf s q) q reason

/-- FLUSH_START's operation: a GO write (R284, R285); ignored while BUSY. -/
def flushStart (s : State) (q : Nat) : State :=
  if s.flag R.GAL.FLUSH_STAT.BUSY then s
  else
    let wait := (s.gq q).opened.isSome
    let s := s.setFlds [(R.GAL.FLUSH.GO, 1), (R.GAL.FLUSH.QUEUE, q), (R.GAL.FLUSH_STAT.BUSY, 1),
      (R.GAL.FLUSH_STAT.LAST_Q, q), (R.GAL.Q_STAT.FLUSHING q, 1)]
    let s := galDiscard s q reasonFlushed
    galRefresh { s with gal := { s.gal with flushWait := wait } }

/-- FLUSH_START (R284). -/
def execFlushStart (q : Nat) (s : State) : Out3 := ok (flushStart s q)

/-- The end of a flush (R285). -/
def flushDone (s : State) : State :=
  let q := s.fld R.GAL.FLUSH_STAT.LAST_Q
  let s := s.setFlds [(R.GAL.FLUSH_STAT.DONE, 1), (R.GAL.FLUSH_STAT.BUSY, 0), (R.GAL.FLUSH.GO, 0),
    (R.GAL.Q_STAT.FLUSHING q, 0)]
  { s with gal := { s.gal with flushWait := false } }

/-- FLUSH_END (R285): with no abandoned item, or once its last word has come. -/
def execFlushEnd (s : State) : Out3 :=
  if s.flag R.GAL.FLUSH_STAT.BUSY && !s.gal.flushWait then ok (flushDone s) else ok s

/-- FLUSH_FORCED_ABORT (R285): 4096 cycles without the last word; the producer discards the rest itself. -/
def execFlushForcedAbort (s : State) : Out3 :=
  if s.flag R.GAL.FLUSH_STAT.BUSY && s.gal.flushWait then
    let q := s.fld R.GAL.FLUSH_STAT.LAST_Q
    let s := s.setGq q { s.gq q with swallow := false }
    ok (flushDone (s.setFld R.GAL.FLUSH_STAT.FLUSH_ABORT 1))
  else ok s

/-- LINK_PARITY_ERROR (R288): the link entry of the queue's cell at position `j` fails. The queue is flushed and the
cells beyond are neither free nor on a queue. -/
def execLinkParityError (q j : Nat) (s : State) : Out3 :=
  let chain := (s.gq q).cells
  match chain[j]? with
  | none => ok s
  | some c =>
    let cut := chain.drop (j + 1)
    let s := (s.setFld R.GAL.EVT.LINK_ERR 1).countSat R.GAL.LINK_CNT.COUNT R.GAL.SAT.SAT_F 6
    let s := errLatch s 4 0 c
    let s := { s with gal := { s.gal with lost := s.gal.lost ++ cut } }
    if s.flag R.GAL.FLUSH_STAT.BUSY then ok (galRefresh (galDiscard s q reasonFlushed)) else ok (flushStart s q)

/-- The next free cell at or after a number, if one lies before the end of the pass. -/
def nextFree (used : List CellNo) (s : State) : Nat → Nat → Option Nat
  | 0, _ => none
  | n + 1, c =>
    if 131072 ≤ c then none
    else if used.contains (cellOf c) || !halfReady s (cellOf c).half then nextFree used s n (c + 1)
    else some c

/-- The end of a scrub pass (R289, R288): PASSES counts and the cells cut off by link errors return. -/
def scrubPass (s : State) : State :=
  let s := s.count R.GAL.SCRUB_STAT.PASSES
  { s with gal := { s.gal with scrubPos := 0, lost := [] } }

/-- A test writes its pattern to the eight words of a cell (R289, R290). -/
def patCell (s : State) (pat : List Byte) (c : CellNo) : State :=
  (List.range 8).foldl (fun s w => storeMark s c w)
    { s with gal := { s.gal with mem := memWrite s.gal.mem (cellAddr c 0) (List.replicate 8 pat).flatten } }

/-- A free cell's second read has failed (R289): it leaves the free list, unless 1024 cells have. -/
def retireCell (s : State) (c : CellNo) : State :=
  if s.flag R.GAL.SCRUB_STAT.RETIRE_FULL then s
  else
    let n := s.fld R.GAL.SCRUB_STAT.RETIRED + 1
    let s := { s with gal := { s.gal with retired := c :: s.gal.retired } }
    s.setFlds [(R.GAL.SCRUB_STAT.RETIRED, n), (R.GAL.SCRUB_STAT.RETIRE_FULL, b2n (decide (1024 ≤ n)))]

/-- SCRUB_CELL (R289): the next free cell is checked and rewritten with a known pattern, whose value is not stated;
`fail` says that its second read fails. -/
def execScrubCell (fail : Bool) (s : State) : Out3 :=
  if !s.flag R.GAL.SCRUB.EN then ok s
  else
    match nextFree (usedCells s) s (131072 - s.gal.scrubPos) s.gal.scrubPos with
    | none => ok (galRefresh (scrubPass s))
    | some c =>
      let cell := cellOf c
      let (_, s) := checkCells s 0 [cell]
      let (k, s) := s.fresh
      let pat := leBytes 8 (Config.freeValue k).toNat
      let s := patCell s pat cell
      let (bad, s) := checkCells { s with gal := { s.gal with scrubPos := c + 1 } } 0 [cell]
      let s := if !fail ∨ !bad.isEmpty then s
        else if secded s cell.half then
          errLatch ((s.setFld R.GAL.EVT.UE 1).countSat R.GAL.UE_CNT.COUNT R.GAL.SAT.SAT_F 3) 3 0 cell
        else errLatch ((s.setFld R.GAL.EVT.PAR 1).countSat (R.GAL.PAR_CNT.COUNT cell.half) R.GAL.SAT.SAT_F cell.half) 1 0 cell
      let s := if fail || !bad.isEmpty then retireCell s cell else s
      ok (galRefresh (if c = 131071 then scrubPass s else s))

/-- FREE_LIST_BUILT (R272): the half takes allocations. -/
def execFreeListBuilt (h : Nat) (s : State) : Out3 :=
  if !s.domOn (3 + h) then ok s
  else
    let s := s.setFld (if h = 0 then R.GAL.POOL.BUILD0 else R.GAL.POOL.BUILD1) 0
    ok (galRefresh { s with gal := { s.gal with built := modifyAt s.gal.built h (fun _ => true) } })

/-- The register of a class's reserved sum. -/
def ressum (k : Nat) : Fld := if k = 4 then R.GAL.RESSUM4.CELLS else R.GAL.RESSUM.CELLS k

/-- Reservations confined to a half (R278). -/
def confinedSum (s : State) (h : Nat) : Nat :=
  ((reserved s).filter fun p => confined s p.1 == some h).foldl (fun a p => a + p.2) 0

/-- Whether the galley takes a reservation of `n` cells for a queue (R278). -/
def resFits (s : State) (q n : Nat) : Bool :=
  let old := s.fld (R.GAL.Q_RES.CELLS q)
  let k := qClass q
  n ≤ old ||
    (decide (s.fld (ressum k) - old + n ≤ s.fld (R.GAL.BUDGET.CELLS k)) &&
      match confined s q with
      | some h => decide (confinedSum s h - old + n ≤ 65536 - 512)
      | none => true)

/-- A write of Q_RES (R278). -/
def qResWrite (s : State) (q n : Nat) : State :=
  let old := s.fld (R.GAL.Q_RES.CELLS q)
  if s.fld (R.GAL.Q_CAP.CELLS q) < n then s
  else if !resFits s q n then s.setFld R.GAL.EVT.ADMIT_REFUSED 1
  else
    let k := qClass q
    galRefresh (s.setFlds [(ressum k, s.fld (ressum k) - old + n), (R.GAL.Q_RES.CELLS q, n)])

/-- A write of Q_CAP (R278): below RES it is ignored. -/
def qCapWrite (s : State) (q n : Nat) : State :=
  if n < s.fld (R.GAL.Q_RES.CELLS q) then s else s.setFld (R.GAL.Q_CAP.CELLS q) n

/-- A write of Q_CFG (R278, R292, R489): BE changes; HALF keeps its value when reserved, while cells are held, or when
the half's confined reservations would not fit. -/
def qCfgWrite (s : State) (q : Nat) (be : Bool) (half : Nat) : State :=
  let s := s.setFlag (R.GAL.Q_CFG.BE q) be
  let old := s.fld (R.GAL.Q_CFG.HALF q)
  if half = old ∨ 3 ≤ half ∨ (s.gq q).held ≠ 0 then s
  else
    let res := s.fld (R.GAL.Q_RES.CELLS q)
    let fits := half == 0 || decide (confinedSum s (half - 1) + res ≤ 65536 - 512)
    if fits then galRefresh (s.setFld (R.GAL.Q_CFG.HALF q) half) else s.setFld R.GAL.EVT.ADMIT_REFUSED 1

/-- A write of a budget (R278). -/
def budgetWrite (s : State) (k n : Nat) : State :=
  let others := (([0, 1, 2, 3, 4].filter (· != k)).map fun j => s.fld (R.GAL.BUDGET.CELLS j)).sum
  if n < s.fld (ressum k) ∨ 131072 - 1024 - s.fld R.GAL.SCRUB_STAT.RETIRED < others + n then s
  else s.setFld (R.GAL.BUDGET.CELLS k) n

/-- Whether the diagnostic window is open (R290). -/
def winOpen (s : State) : Bool := s.flag R.GAL.DIAG.WIN_EN && s.phase == 2

/-- The items and slugs of a queue as elements, its open item last. -/
def GQueue.all (x : GQueue) : List GElem :=
  x.elems ++ (match x.opened with | some it => [.item it] | none => [])

/-- The stored bytes of a cell: from the element that holds it as far as they are written, else from the RAM. -/
def cellBytes (s : State) (c : CellNo) : List Byte :=
  let old := memRead s.gal.mem (cellAddr c 0) 64
  match (s.gal.qs.flatMap (fun p => p.2.all)).find? (fun e => e.cells.contains c) with
  | none => old
  | some e =>
    let bs := (e.bytes.drop (64 * e.cells.findIdx (· == c))).take 64
    bs ++ old.drop bs.length

/-- Replace bytes of a list from a position; positions beyond its end are left. -/
def overlay (l : List Byte) (at_ : Nat) (bs : List Byte) : List Byte :=
  l.mapIdx fun i b => if at_ ≤ i ∧ i < at_ + bs.length then bs.getD (i - at_) b else b

/-- Store into a cell from outside its queue: the element's written bytes, and the RAM. -/
def cellPoke (s : State) (c : CellNo) (off : Nat) (bs : List Byte) : State :=
  let fix (e : GElem) : GElem :=
    match e with
    | .item it =>
      if it.cells.contains c then .item { it with bytes := overlay it.bytes (64 * it.cells.findIdx (· == c) + off) bs } else e
    | .slug _ => e
  let qs := s.gal.qs.map fun p =>
    (p.1, { p.2 with
      elems := p.2.elems.map fix
      opened := match p.2.opened with
        | some it => (match fix (.item it) with | .item it' => some it' | .slug _ => some it)
        | none => none })
  { s with gal := { s.gal with qs := qs, mem := memWrite s.gal.mem (cellAddr c off) bs } }

/-- GAL_DIAG_ACCESS (R290): a 32-bit access through BAR4. Closed, reads return 0 and writes are ignored; a read shows
the data bits as stored. -/
def execGalDiagAccess (write : Bool) (addr data : Nat) (s : State) : Out3 :=
  let a := addr % 8388608 / 4 * 4
  let c := cellOf (a / 64)
  let w := a % 64 / 8
  if !winOpen s then ok (if write then s else s.emit (.diagRead addr 0))
  else if write then ok (storeMark (cellPoke s c (a % 64) (leBytes 4 data)) c w)
  else
    let v := fromLE (((cellBytes s c).drop (a % 64)).take 4)
    let v := s.gal.flips.foldl (fun v f =>
      if f.1 = c ∧ f.2.1 = w ∧ f.2.2 / 32 = a % 8 / 4 ∧ f.2.2 < 64 then v ^^^ (1 <<< (f.2.2 % 32)) else v) v
    ok (s.emit (.diagRead addr v))

/-- A write of INJECT (R290, R292): ARM is ignored outside TEST, a BIT above 71 with it. -/
def injectWrite (s : State) (v : Word) : State :=
  let w := v.toNat
  let s := s.setFlds [(R.GAL.INJECT.WORD, bits w 17 3), (R.GAL.INJECT.CELL, bits w 0 17)]
  let s := if bits w 24 7 ≤ 71 then s.setFld R.GAL.INJECT.BIT (bits w 24 7) else s
  if nbit w 31 then (if s.phase = 2 then s.setFld R.GAL.INJECT.ARM 1 else s) else s.setFld R.GAL.INJECT.ARM 0

/-- GAL_INJECT_ARM (R290). -/
def execGalInjectArm (v : Word) (s : State) : Out3 := ok (injectWrite s v)

/-- A captured PROT value applies to a half without allocated cells, or is discarded (R286). -/
def protApply (s : State) (h : Nat) (v : Bool) : State :=
  let f := if h = 0 then R.GAL.CFG.PROT0 else R.GAL.CFG.PROT1
  if h = 1 ∧ s.dxPresent = true then s
  else if s.flag f = v then s
  else if (s.gal.qs.flatMap (fun p => p.2.cells)).any (fun c => c.half == h) then s.setFld R.GAL.EVT.CFG_DROPPED 1
  else s.setFlag f v

/-- A half loses power: its cells, its inverted bits and its free list are gone; a retired cell stays so until reset (R289). -/
def halfLost (s : State) (h : Nat) : State :=
  { s with gal := { s.gal with
    built := modifyAt s.gal.built h (fun _ => false)
    lost := s.gal.lost.filter (fun c => c.half != h)
    flips := s.gal.flips.filter (fun f => f.1.half != h)
    mem := sDrop (fun a => a / 64 / 65536 == h) s.gal.mem } }

/-- A queue after SLEEP-R (R65): one that lay wholly in a kept half keeps its committed items and slugs; any other is flushed, as
R284 flushes, with a SLEEP slug that stands in a kept half. No producer has anything left to swallow. -/
def queueSleep (s : State) (keep : Nat → Bool) (q : Nat) : State :=
  let x := s.gq q
  if x.cells.all (fun c => keep c.half) then
    let s := (match x.opened with
      | some it => [GElem.item it]
      | none => []).foldl spillElem s
    let s := (x.elems.filter fun e => !e.live).foldl spillElem s
    s.setGq q { x with elems := x.elems.filter GElem.live, opened := none, swallow := false }
  else
    let s := galDiscardIn s (if keep (slugHalf s q) then slugHalf s q else 1 - slugHalf s q) q reasonSleep
    s.setGq q { s.gq q with swallow := false, flushed := false }

/-- The galley over SLEEP-R (R65). -/
def galSleepR (s : State) (keep : Nat → Bool) : State :=
  let s := (s.gal.qs.map Prod.fst).foldl (fun s q => queueSleep s keep q) s
  let s := if keep 0 then s else halfLost s 0
  if keep 1 then s else halfLost s 1

end Sys2Proof.Machine
end

