-- ==== Sys2Proof/Machine/NetRx.lean ====
section
/-! DEFINITION. Network ingress, classification, playout and the seamless merge (R15 to R20, R293 to R317, R335 to
R350). -/

namespace Sys2Proof.Machine

/-- Change a receive flow's record. -/
def State.setFlow (s : State) (f : Nat) (x : RxFlow) : State := { s with rxf := sPut rxDefault s.rxf f x }

/-- Count in one of a port's counters of R317, by index, raising ERR_EV for errors. -/
def netCount (s : State) (p i : Nat) : State :=
  let f := { R.NET.FCS_ERR.COUNT p with key := (R.NET.FCS_ERR.COUNT p).key + 4 * i }
  let s := if i < 4 ∨ i = 7 then s.setFld (R.NET.STAT.ERR_EV p) 1 else s
  s.countSat f (R.NET.SAT.SAT_F p) i

/-- Count in one of a flow's counters of R316, by index, with its event bit. -/
def rxCount (s : State) (f i : Nat) (ev : List Fld) : State :=
  (s.raise ev).countSat { R.RXF.F_LATE.COUNT f with key := (R.RXF.F_LATE.COUNT f).key + 4 * i } (R.RXF.F_SAT.SAT f) i

/-- Count in one of a seamless flow's counters of R350, by index. -/
def redCount (s : State) (f i : Nat) : State :=
  s.countSat { R.RED.F_TAKEN.COUNT 0 f with key := (R.RED.F_TAKEN.COUNT 0 f).key + 4 * i } (R.RED.F_SAT.SAT f) i

/-! ### Headers -/

/-- What the parser takes from a frame's headers (R296). -/
structure NetHdr where
  /-- Key TYPE: 0 IPv4/UDP, 1 IPv6/UDP, 2 IEEE 1722; 3 none of them. -/
  type    : Nat
  vid     : Option Nat
  tagged  : Bool
  etype   : Nat
  /-- IP protocol, or the next header after the IPv6 header and a Hop-by-Hop header, which MLD carries (R16). -/
  proto   : Nat
  udp     : Nat
  /-- Destination address or stream ID in network order, 16 bytes. -/
  addr    : List Byte
  /-- A second tag, or a TPID of 0x88A8 (R294). -/
  badTag  : Bool
  frag    : Bool
  ckBad   : Bool
  /-- UDP payload, or the AVTP frame from its common header. -/
  body    : List Byte
  deriving DecidableEq, Repr

/-- The Internet checksum's one's complement sum. -/
def onesSum : Nat → List Byte → Nat
  | 0, _ => 0
  | n + 1, bs => be16 bs 0 + onesSum n (bs.drop 2)

/-- Folded to 16 bits. -/
def fold16 (n : Nat) : Nat :=
  let a := n % 65536 + n / 65536
  a % 65536 + a / 65536

/-- Parse the headers of a frame without its FCS (R296). -/
def parseFrame (b : List Byte) : NetHdr :=
  let et := be16 b 12
  let tagged := et == 0x8100
  let h := if tagged then 18 else 14
  let e2 := if tagged then be16 b 16 else et
  let vid := if tagged then some (be16 b 14 % 4096) else none
  let badTag := et == 0x88A8 || (tagged && (e2 == 0x8100 || e2 == 0x88A8))
  let z : List Byte := List.replicate 16 0
  let p := b.drop h
  if e2 = 0x0800 then
    let ihl := 4 * (u8 p 0 % 16)
    let fl := be16 p 6 % 0x4000
    let ck := fold16 (onesSum (ihl / 2) (p.take ihl)) != 0xFFFF
    let u := (p.take (be16 p 2)).drop ihl
    let isUdp := u8 p 9 == 17 && u8 p 0 / 16 == 4 && decide (20 ≤ ihl)
    ⟨if isUdp then 0 else 3, vid, tagged, e2, u8 p 9, be16 u 2, (p.drop 16).take 4 ++ z.take 12, badTag, fl != 0, ck,
      (u.take (be16 u 4)).drop 8⟩
  else if e2 = 0x86DD then
    let u := (p.drop 40).take (be16 p 4)
    ⟨if u8 p 6 = 17 then 1 else 3, vid, tagged, e2, if u8 p 6 = 0 then u8 p 40 else u8 p 6, be16 u 2, (p.drop 24).take 16, badTag, false, false,
      (u.take (be16 u 4)).drop 8⟩
  else if e2 = 0x22F0 then
    ⟨2, vid, tagged, e2, 0, 0, (p.drop 4).take 8 ++ z.take 8, badTag, false, false, p⟩
  else ⟨3, vid, tagged, e2, 0, 0, z, badTag, false, false, p⟩

/-- The SSRC of an RTP packet. -/
def rtpSsrc (b : List Byte) : Nat := be32 b 8

/-- Bytes of an RTP header with its CSRCs and one extension (R296). -/
def rtpHdrLen (b : List Byte) : Nat :=
  let n := 12 + 4 * (u8 b 0 % 16)
  if nbit (u8 b 0) 4 then n + 4 + 4 * be16 b (n + 2) else n

/-! ### Classification -/

/-- Word `w` of classifier key `i`: 0 to 4095 the table, 4096 to 4159 the CAM (R297). -/
def State.key (s : State) (i w : Nat) : Word := sGet (fun _ => 0#32) s.cls (8 * i + w)

/-- Set a word of a classifier key. -/
def State.setKey (s : State) (i w : Nat) (v : Word) : State :=
  { s with cls := sPut (fun _ => 0#32) s.cls (8 * i + w) v }

/-- The hash of R298. -/
def keyHash (type port udp : Nat) (addr : List Byte) : Nat :=
  crc32c ([BitVec.ofNat 8 type, BitVec.ofNat 8 port] ++ beBytes 2 udp ++ addr)

/-- The candidate place of a hash in a way (R298). -/
def keyPlace (h w : Nat) : Nat := w * 1024 + h / 2 ^ (7 * w) % 1024

/-- The address bytes of a key. -/
def keyAddr (s : State) (i : Nat) : List Byte := [4, 5, 6, 7].flatMap fun w => beBytes 4 (s.key i w).toNat

/-- Whether a key matches a frame on a port (R297, R298). -/
def keyMatch (s : State) (i port : Nat) (h : NetHdr) : Bool :=
  let w0 := (s.key i 0).toNat
  nbit w0 31 && bits w0 28 3 == h.type && bits w0 26 2 == port && bits (s.key i 1).toNat 16 16 == h.udp &&
    keyAddr s i == h.addr && (!nbit w0 25 || (s.key i 2).toNat == rtpSsrc h.body) &&
    (!nbit w0 24 || h.vid == some (bits w0 12 12))

/-- The better of two matching keys by steps 1 and 2 of R298: SSRC_EN, then VLAN_EN. -/
def keyRank (s : State) (i : Nat) : Nat :=
  let w0 := (s.key i 0).toNat
  2 * b2n (nbit w0 25) + b2n (nbit w0 24)

/-- CLASSIFIER_VERDICT (R298): the key chosen and whether step 3 decided between equal keys. -/
def classify (s : State) (port : Nat) (h : NetHdr) : Option Nat × Bool :=
  if 3 ≤ h.type || h.badTag || h.frag then (none, false)
  else
    let hash := keyHash h.type port h.udp h.addr
    let all := (List.range 64).map (· + 4096) ++ [0, 1, 2, 3].map (keyPlace hash)
    let m := all.filter (fun i => keyMatch s i port h)
    let best := (m.map (keyRank s)).foldl max 0
    let top := m.filter fun i => keyRank s i == best
    (top.head?, decide (2 ≤ top.length))

/-- A word of a key is written (R299): `i` as for `State.key`. -/
def keyWrite (s : State) (i w : Nat) (v : Word) : State :=
  let w0 := v.toNat
  let valid := nbit (s.key i 0).toNat 31
  let refuse (r : Nat) : State :=
    s.setFld R.RXF.CLS_STAT.REFUSED 1 |>.latchOnce R.RXF.CLS_STAT.reg
      [(R.RXF.CLS_STAT.REASON, r), (R.RXF.CLS_STAT.CAM, b2n (decide (4096 ≤ i))), (R.RXF.CLS_STAT.PLACE, i % 4096)]
  if w ≠ 0 then (if valid then refuse 2 else s.setKey i w v)
  else
    let keys := s.fld R.RXF.CLS_STAT.KEYS
    if !nbit w0 31 then
      (s.setKey i 0 v).setFld R.RXF.CLS_STAT.KEYS (keys - b2n valid)
    else
      let type := bits w0 28 3
      let port := bits w0 26 2
      let act := bits w0 10 2
      let h := keyHash type port (bits (s.key i 1).toNat 16 16) (keyAddr s i)
      if i < 4096 ∧ !([0, 1, 2, 3].any fun w => keyPlace h w == i) then refuse 1
      else if 3 ≤ type ∨ port = 3 ∨ act = 3 then refuse 3
      else if bits w0 8 2 ≠ 0 ∨ bits (s.key i 1).toNat 0 16 ≠ 0 ∨ s.key i 3 ≠ 0 then refuse 3
      else if port = 2 ∧ act = 0 ∧ !(s.dxPresent && decide (bits w0 0 8 < 8)) then refuse 4
      else (s.setKey i 0 v).setFld R.RXF.CLS_STAT.KEYS (keys + 1 - b2n valid)

/-! ### Formats -/

/-- Samples per packet of a packet-time code at a RATE code (R300). -/
def ptSamples (pt rate : Nat) : Nat := [3, 6, 12, 16, 48, 192].getD pt 6 * rateMult rate

/-- Bytes per sample of a format (R301); CRF stores nothing. -/
def fmtBytes (f : Nat) : Nat :=
  if f = 0 ∨ f = 4 then 2 else if f = 1 ∨ f = 5 then 3 else if f = 9 then 0 else 4

/-- Payload bytes of a packet (R300). -/
def payloadLen (f chans n : Nat) : Nat := fmtBytes f * chans * n

/-- A binary32 pattern times 2^31, rounded to nearest, ties to even, saturated; NaN gives 0 (R301). -/
def floatSort (v : Nat) : Int :=
  let e := bits v 23 8
  let f := bits v 0 23
  let m := if e = 0 then f else f + 2 ^ 23
  let e := if e = 0 then 1 else e
  if e = 255 ∧ f ≠ 0 then 0
  else
    let q : Nat :=
      if 119 ≤ e then m * 2 ^ (min (e - 119) 40)
      else
        let d := 2 ^ (min (119 - e) 64)
        let r := m % d
        if 2 * r < d then m / d else if d < 2 * r then m / d + 1 else m / d + m / d % 2
    clampInt (-(2 ^ 31)) (2 ^ 31 - 1) (if nbit v 31 then -(q : Int) else (q : Int))

/-- The transparent word of an AES3 subframe: audio bits, V, U, C, P and the preamble code (R256). -/
def subframe (audio v u c p pre : Nat) : Word :=
  BitVec.ofNat 32 (audio % 2 ^ 24 * 256 + v % 2 * 128 + u % 2 * 64 + c % 2 * 32 + p % 2 * 16 + pre)

/-- The word a wire sample becomes (R301): the word, whether transparent, and whether it counts as concealed. The places
of the bits in an ST 2110-31 word and an IEC 61883-6 label are PRESUMED (log 16). -/
def decodeSample (fmt chan : Nat) (b : List Byte) : Word × Bool × Bool :=
  if fmt = 0 ∨ fmt = 4 then (BitVec.ofNat 32 (be16 b 0 * 65536), false, false)
  else if fmt = 1 ∨ fmt = 5 then (BitVec.ofNat 32 ((be16 b 0 * 256 + u8 b 2) * 256), false, false)
  else if fmt = 2 ∨ fmt = 6 then (BitVec.ofNat 32 (be32 b 0), false, false)
  else if fmt = 7 then (BitVec.ofInt 32 (floatSort (be32 b 0)), false, false)
  else
    let v := be32 b 0
    let l := v / 2 ^ 24
    let audio := v % 2 ^ 24
    if fmt = 3 then
      let pre := if chan % 2 = 0 then (if nbit l 5 then 1 else 2) else 4
      (subframe audio l (l / 2) (l / 4) (l / 8) pre, true, false)
    else if 0x40 ≤ l ∧ l ≤ 0x43 then (BitVec.ofNat 32 (audio * 256), false, false)
    else if l < 0x40 then
      let pre := if nbit l 5 then 1 else if nbit l 4 then 2 else 4
      (subframe audio l (l / 2) (l / 4) (l / 8) pre, true, false)
    else (0, false, true)

/-- nsr code of an AAF stream for a RATE code (IEEE 1722; log 16). -/
def aafNsr (rate : Nat) : Nat := [4, 5, 6, 7, 8, 9].getD rate 5

/-- FDF of an AM824 stream for a RATE code (IEC 61883-6; log 16). -/
def amFdf (rate : Nat) : Nat := [1, 2, 3, 4, 5, 6].getD rate 2

/-- AAF format code and container bits of a flow format (IEEE 1722; log 16). -/
def aafFormat (f : Nat) : Nat × Nat :=
  if f = 4 then (4, 16) else if f = 5 then (3, 24) else if f = 6 then (2, 32) else (1, 32)

/-- What the packet says of itself (R302, R303): payload, folio, whether the fields agree, and its timestamp: an RTP
timestamp, an avtp_timestamp (tv = 1), or none. -/
structure PktInfo where
  payload : List Byte
  folio   : Nat
  agree   : Bool
  rtpTs   : Option Nat
  avtpTs  : Option Nat
  mr      : Bool
  deriving DecidableEq, Repr

/-- Read a packet of flow `f` (R302). -/
def readPacket (s : State) (f : Nat) (b : List Byte) : PktInfo :=
  let fmt := s.fld (R.RXF.F_CFG.FORMAT f)
  let chans := s.fld (R.RXF.F_CHAN.CHANNELS f)
  let rate := s.fld (R.CLK.MCS_CFG.RATE (s.fld (R.RXF.F_CFG.MCS f)))
  let pt := s.fld (R.RXF.F_CHAN.PT f)
  if !s.flag (R.RXF.F_CFG.AVTP f) then
    ⟨b.drop (rtpHdrLen b), be16 b 2, pt == 0 || u8 b 1 % 128 == pt, some (be32 b 4), none, false⟩
  else
    let tv := nbit (u8 b 1) 0
    let ts := if tv then some (be32 b 12) else none
    let mr := nbit (u8 b 1) 3
    let len := be16 b 20
    if fmt = 8 then
      let ok := u8 b 0 == 0 && !nbit (u8 b 26) 2 && u8 b 28 % 64 == 0x10 && u8 b 29 == amFdf rate && u8 b 25 == chans
      ⟨(b.drop 32).take (len - 8), u8 b 2, ok, none, ts, mr⟩
    else
      let (code, width) := aafFormat fmt
      -- a frame of the least size carries padding behind its payload
      let fits := 24 + len == b.length || (decide (24 + len ≤ b.length) && decide (b.length ≤ 46))
      let ok := fits && u8 b 0 == 2 && u8 b 16 == code && u8 b 17 / 16 == aafNsr rate &&
        u8 b 17 % 4 * 256 + u8 b 18 == chans && decide (u8 b 19 ≤ width)
      ⟨(b.drop 24).take len, u8 b 2, ok, none, ts, mr⟩

/-! ### Arrival -/

/-- The value of a class modulo 2^32 nearest to a count (R303). -/
def nearestClass (x count : Nat) : Nat :=
  let up := (x + 2 ^ 32 - count % 2 ^ 32) % 2 ^ 32
  if up ≤ 2 ^ 31 then count + up
  else if 2 ^ 32 - up ≤ count then count + up - 2 ^ 32 else count + up

/-- Link offset in force for playing: during a slew, the one it left (R309, R312). -/
def linkOffset (s : State) (f : Nat) : Nat :=
  let now : Int := s.fld (R.RXF.F_OFFSET_NOW.SAMPLES f)
  match (s.flow f).slew with
  | some w => (now - w.delta).toNat
  | none => now.toNat

/-- Samples per packet of a receive flow. -/
def rxN (s : State) (f : Nat) : Nat :=
  ptSamples (s.fld (R.RXF.F_CFG.PTIME f)) (s.fld (R.CLK.MCS_CFG.RATE (s.fld (R.RXF.F_CFG.MCS f))))

/-- Time in ns of a PTI, seconds and nanoseconds. -/
def ptiNs (s : State) (n : Nat) : Nat := s.ptiRaw n / nsUnit

/-- A time of the MCS's timebase as a time of the flow's PTI, in 2^-32 ns. -/
def toFlowTime (s : State) (f raw : Nat) : Int :=
  (raw : Int) - (s.ptiRaw (s.mcsPti (s.fld (R.RXF.F_CFG.MCS f))) : Int) + (s.ptiRaw (s.fld (R.RXF.F_CFG.PTI f)) : Int)

/-- The queue of a flow's path: 0 NETA or MGMT, 1 NETB (R17). -/
def rxQueue (f path : Nat) : Nat := 2 * f + path % 2

/-- The statistics of R311 take one margin, in ns. -/
def takeMargin (s : State) (f : Nat) (m : Int) (late : Bool) : State :=
  let s := if m < s.fldInt (R.RXF.F_MIN.NS f) then s.setFld (R.RXF.F_MIN.NS f) (ofSigned 32 m) else s
  let mean := s.fldInt (R.RXF.F_MEAN.NS f)
  let d := m - mean
  let q := d / 256
  let s := s.setFld (R.RXF.F_MEAN.NS f) (ofSigned 32 (mean + (if d % 256 ≠ 0 ∧ Config.roundUp d then q + 1 else q)))
  let w : Int := s.fld (R.RXF.F_PLC.BIN_US f) * 1000
  let bin := if late then 0 else (clampInt 0 15 (m / max 1 w)).toNat
  let s := s.count (if bin % 2 = 0 then R.RXF.F_HIST.EVEN (bin / 2) f else R.RXF.F_HIST.ODD (bin / 2) f)
  let x := s.flow f
  -- during a slew only LATE packets count, toward the next window (R312)
  if x.slew.isSome && !late then s
  else
    s.setFlow f { x with
      winN := x.winN + 1
      winMin := some (match x.winMin with | some a => min a m | none => m)
      winLate := x.winLate || late }

/-- Whether a flow is seamless (R335). -/
def seamless (s : State) (f : Nat) : Bool := s.fld (R.RXF.F_CFG.PATHS f) == 3

/-- A copy's margin: at once for a single path, by packet slot for a seamless flow (R311, R346). -/
def copyMargin (s : State) (f path k : Nat) (m : Int) (late : Bool) : State :=
  if seamless s f then
    let mn := R.RED.F_MIN.NS (path % 2) f
    let s := if m < s.fldInt mn then s.setFld mn (ofSigned 32 m) else s
    let x := s.flow f
    let l := match x.margins.find? (fun e => e.1 == k) with
      | some e => (k, max e.2.1 m, e.2.2 && late) :: x.margins.filter (fun e => e.1 != k)
      | none => (k, m, late) :: x.margins
    s.setFlow f { x with margins := l }
  else takeMargin s f m late

/-- Samples are lost as LATE (R20): counted, with the margin recorded. -/
def rxLate (s : State) (f path k : Nat) (m : Int) : State :=
  let s := rxCount s f 0 [R.RXF.F_STAT.LATE_EV f]
  let x := s.flow f
  copyMargin (s.setFlow f { x with late := (k :: x.late).take 8 }) f path k m true

/-- A CRF packet gives its timestamps to the MCS (R88, R89): what the stream says it is, its first timestamp in the time of the
flow's PTI, and how many valid packets have come in a row. A copy of the last packet on the other path counts nothing. -/
def crfTake (s : State) (f : Nat) (b : List Byte) : State :=
  let good := u8 b 0 == 4 && !nbit (u8 b 1) 0
  let x := s.flow f
  let n := u8 b 2
  if x.crfRun ≠ 0 ∧ (n + 1) % 256 = x.crfNext then s
  else
    refFalls (s.setFlow f { x with
      crfOk := good, crf := some ⟨u8 b 3, be32 b 12 / 2 ^ 29, be32 b 12 % 2 ^ 29⟩
      crfTs := (be32 b 20 * 2 ^ 32 + be32 b 24) * nsUnit, crfNext := (n + 1) % 256
      crfRun := if !good then 0 else if x.crfRun = 0 ∨ n ≠ x.crfNext then 1 else x.crfRun + 1 })

/-- Packets in a row on a flow once one with a folio has come (R88): the copy on the other path of a seamless flow, which is not
newer than the newest, counts nothing. -/
def rtpRuns (s : State) (f folio : Nat) : Nat × Option Nat :=
  let x := s.flow f
  match x.lastSeq with
  | none => (1, some folio)
  | some l =>
    if folio = (l + 1) % 65536 then (x.rtpRun + 1, some folio)
    else if s.fld (R.RXF.F_CFG.PATHS f) = 3 ∧ (l + 65536 - folio) % 65536 < 32768 then (x.rtpRun, some l)
    else (1, some folio)

/-- The folio of a packet: an 8-bit AVTP sequence number is extended by counting its wraps (R305). -/
def folioOf (s : State) (f path : Nat) (i : PktInfo) : Nat :=
  if s.flag (R.RXF.F_CFG.AVTP f) then
    match (s.flow f).seq.getD (path % 2) none with
    | some l => (l + (i.folio + 256 - l % 256) % 256) % 65536
    | none => i.folio
  else i.folio

/-- The source index of a packet's first sample, and whether it was inferred (R303); `none` when tv = 0 has nothing to
follow. -/
def sourceIndex (s : State) (f path : Nat) (i : PktInfo) : Option (Nat × Bool) :=
  let m := s.fld (R.RXF.F_CFG.MCS f)
  match i.rtpTs, i.avtpTs with
  | some ts, _ =>
    let own := s.fld (R.CLK.MCS_CFG.REF_TYPE m) == 3 && s.fld (R.CLK.MCS_CFG.REF_ID m) == f
    let off := if own then 0 else s.fld (R.RXF.F_RTPOFF.OFFSET f)
    some (nearestClass ((ts + 2 ^ 32 - off) % 2 ^ 32) (mcsCount s m), false)
  | none, some ts =>
    let now := ptiNs s (s.fld (R.RXF.F_CFG.PTI f))
    let full := nearestClass ts now
    let t : Int := (full * nsUnit : Nat) - toFlowTime s f 0 - (periods (linkOffset s f) (s.mcsFs m) : Nat)
    some ((nearest s m t.toNat).1, false)
  | none, none => ((s.flow f).next.getD (path % 2) none).map fun k => (k, true)

/-- A check of R304, or the state HELD, rewinds a packet of a flow's queue and counts it (R275). -/
def rxRewind (s : State) (f path i : Nat) (ev : List Fld) : State := galRwnd (rxCount s f i ev) (rxQueue f path)

/-- A copy that check 5 or 6 drops has arrived, so that a gap there is not a LATE one (R336). -/
def rxOdd (s : State) (f path k i : Nat) (ev : List Fld) : State :=
  let s := rxRewind s f path i ev
  s.setFlow f { s.flow f with odd := (k :: (s.flow f).odd).take 8 }

/-- A packet matched to flow `f` on a port (R302 to R305, checks 2 to 7 of R304). -/
def rxPacket (s : State) (f port : Nat) (h : NetHdr) : State :=
  let path := port % 2
  let b := h.body
  let st := s.fld (R.RXF.F_STAT.STATE f)
  let avtp := s.flag (R.RXF.F_CFG.AVTP f)
  if !avtp && u8 b 0 / 64 != 2 then galRwnd (netCount s port 2) (rxQueue f path)
  else if s.fld (R.RXF.F_CFG.FORMAT f) = 9 then (if st = 0 then s else crfTake s f b)
  else
    let i := readPacket s f b
    let fmt := s.fld (R.RXF.F_CFG.FORMAT f)
    let n := rxN s f
    let m := s.fld (R.RXF.F_CFG.MCS f)
    if !i.agree || (avtp != (h.type == 2)) then rxRewind s f path 4 []
    else if i.payload.length ≠ payloadLen fmt (s.fld (R.RXF.F_CHAN.CHANNELS f)) n then rxRewind s f path 3 []
    else if st = 0 then s
    else if st = 4 then rxRewind s f path 2 [R.RXF.F_STAT.STALE_EV f]
    else
      match sourceIndex s f path i with
      | none => rxRewind s f path 2 [R.RXF.F_STAT.STALE_EV f]
      | some (k, inferred) =>
        let x := s.flow f
        let folio := folioOf s f path i
        let run := rtpRuns s f folio
        let now := s.ptiRaw (s.mcsPti m)
        let restart := x.mr.getD path false != i.mr
        let x := { x with
          rtpRun := run.1, lastSeq := run.2, lastTs := match i.rtpTs with | some t => nearestClass t (mcsCount s m) | none => x.lastTs
          lastArr := s.ptiRaw (s.fld (R.RXF.F_CFG.PTI f)), seq := modifyAt x.seq path (fun _ => some folio), mr := modifyAt x.mr path (fun _ => i.mr) }
        let s := refFalls (s.setFlow f x)
        let first := instantOf s m (k + linkOffset s f)
        let margin : Int := ((first : Int) - (now : Int))
        let held : Int := margin + (periods n (s.mcsFs m) : Nat)
        if margin < 3000 * (nsUnit : Int) then galRwnd (rxLate s f path k (margin / (nsUnit : Int))) (rxQueue f path)
        else if (s.fld (R.RXF.F_DEPTH.US f) * 1000 * nsUnit : Nat) < held then rxOdd s f path k 1 [R.RXF.F_STAT.EARLY_EV f]
        else if (match x.next.getD path none with | some e => decide (k < e) | none => false) then
          rxOdd s f path k 2 [R.RXF.F_STAT.STALE_EV f]
        else
          let arr := ptiNs s (s.fld (R.RXF.F_CFG.PTI f)) % 2 ^ 32
          let desc := elemHeader 0 (16 + i.payload.length) ++ leBytes 2 folio ++
            [byteOf (port * 64 + b2n inferred * 32 + b2n restart * 16), byteOf f] ++ leBytes 4 (k % 2 ^ 32) ++ leBytes 4 arr
          galRefresh (galPut s (rxQueue f path) 0 false folio k (desc ++ i.payload))

/-- Control traffic that goes to the Compositor unmatched (R16). -/
def isControl (s : State) (port : Nat) (b : List Byte) (h : NetHdr) : Bool :=
  let dst := (b.take 6)
  let own := beBytes 2 (s.fld (R.NET.MAC_HI.ADDR port) % 65536) ++ beBytes 4 (s.fld (R.NET.MAC_LO.ADDR port))
  let udp := h.type == 0 || h.type == 1
  h.etype == 0x88F7 || h.etype == 0x0806 || (h.etype == 0x0800 && (h.proto == 1 || h.proto == 2)) ||
    (h.etype == 0x86DD && h.proto == 58) ||
    (udp && (h.udp == 319 || h.udp == 320 || h.udp == 67 || h.udp == 68 || h.udp == 546 || h.udp == 547)) || dst == own

/-- A frame for the Compositor's queues (R16, R276): a control frame item. -/
def toCompositor (s : State) (q : Nat) (b : List Byte) : State :=
  let d := elemHeader 4 (16 + b.length) ++ List.replicate 12 0
  galRefresh (galPut s q 4 false 0 0 (d ++ b))

/-- UNMATCHED_FRAME (R16): which of the Compositor's queues takes a control frame is not stated (log 17). -/
def unmatched (s : State) (port : Nat) (b : List Byte) (h : NetHdr) : State :=
  if isControl s port b h then
    let (k, s) := s.fresh
    toCompositor s (960 + (Config.freeValue k).toNat % 32) b
  else netCount s port 3

/-- Whether the MAC accepts a destination address (R294). -/
def macAccepts (s : State) (port : Nat) (b : List Byte) : Bool :=
  nbit (u8 b 0) 0 ||
    b.take 6 == beBytes 2 (s.fld (R.NET.MAC_HI.ADDR port) % 65536) ++ beBytes 4 (s.fld (R.NET.MAC_LO.ADDR port))

/-- Whether a port's link is up. -/
def linkUp (s : State) (port : Nat) : Bool := s.flag (R.NET.STAT.LINK_UP port)

/-- The item of a damaged frame is rewound in the queue its verdict chose before the FCS (R275, R298, R304). -/
def rxAbort (s : State) (port : Nat) (v : Option Nat) : State :=
  match v with
  | none => s
  | some i =>
    let w0 := (s.key i 0).toNat
    let f := bits w0 0 8
    let act := bits w0 10 2
    if act = 1 then galRwnd s (960 + f % 32)
    else if act = 0 ∧ s.fld (R.RXF.F_STAT.STATE f) ≠ 0 then galRwnd s (rxQueue f (port % 2))
    else s

/-- A frame of a port, from destination address through FCS (R294 to R305); `good` says that no FEC codeword or PCS
error touched it. -/
def netFrame (s : State) (port : Nat) (raw : List Byte) (good : Bool) : State :=
  if !linkUp s port then s
  else
    let b := raw.take (raw.length - 4)
    let h := parseFrame b
    let fcs := good && fromLE (raw.drop (raw.length - 4)) == crc32 b
    let s := { s with net := modifyAt s.net port fun c => { c with rxFrames := c.rxFrames + 1, rxBytes := c.rxBytes + raw.length, rxStamp := eventStamp s (decide (port < 2)) } }
    let top := s.fld (R.NET.CFG.MAX_DATA port) + (if h.tagged then 22 else 18)
    let (v, dup) := if h.etype = 0x8808 ∨ h.ckBad = true ∨ macAccepts s port b = false then (none, false) else classify s port h
    let s := if dup then s.count R.RXF.CLS_DUP.COUNT else s
    if !fcs then rxAbort (netCount s port 0) port v
    else if raw.length < 64 ∨ top < raw.length then rxAbort (netCount s port 1) port v
    else if h.etype = 0x8808 then netCount s port 4
    else if !macAccepts s port b then s
    else if h.ckBad then netCount s port 2
    else
      match v with
      | none => unmatched s port b h
      | some i =>
        let w0 := (s.key i 0).toNat
        let act := bits w0 10 2
        if act = 2 then s.count R.RXF.CLS_DROP.COUNT
        else if act = 1 then toCompositor s (960 + bits w0 0 5) b
        else rxPacket s (bits w0 0 8) port h

/-- NET_FRAME_RX (R304). -/
def execNetFrameRx (port : Nat) (raw : List Byte) (good : Bool) (s : State) : Out3 := ok (netFrame s port raw good)

/-- CLASSIFIER_KEY_WRITE's operation on the tables (R299): space 2 the table, 3 the CAM, at a byte offset. -/
def clsWrite (s : State) (space off : Nat) (v : Word) : State :=
  let i := off / 32
  if space = 2 then (if i < 4096 then keyWrite s i (off % 32 / 4) v else s)
  else if i < 64 then keyWrite s (4096 + i) (off % 32 / 4) v else s

/-! ### Path states -/

/-- The state field of a path. -/
def pathFld (f path : Nat) : Fld := if path = 0 then R.RED.F_STAT.STATE_A f else R.RED.F_STAT.STATE_B f

/-- Move a path to a state (R342), with its events. -/
def pathGo (s : State) (f path st : Nat) : State :=
  let old := s.fld (pathFld f path)
  let s := s.setFld (pathFld f path) st
  if st = 3 ∧ old ≠ 3 then
    (s.setFld (if path = 0 then R.RED.F_STAT.LOST_A_EV f else R.RED.F_STAT.LOST_B_EV f) 1).event 0xE090
      [byteOf f, byteOf path, byteOf 0]
  else if st = 2 ∧ old = 3 then
    (s.setFld (if path = 0 then R.RED.F_STAT.RET_A_EV f else R.RED.F_STAT.RET_B_EV f) 1).event 0xE090
      [byteOf f, byteOf path, byteOf 1]
  else s

/-- The effect of a commit on the flow it belongs to: the next index, counts, margins, and RED_PATH_RETURN (R342). -/
def rxCommit (s : State) (q : Nat) (it : GItem) : State :=
  let f := q / 2
  let path := q % 2
  let n := rxN s f
  let m := s.fld (R.RXF.F_CFG.MCS f)
  let k := it.ts
  let x := s.flow f
  let seq := match x.next.getD path none with | some e => e == k | none => false
  let run := if seq then x.run.getD path 0 + 1 else 1
  let arr := u32 it.bytes 12
  let first := (toFlowTime s f (instantOf s m (k + linkOffset s f)) / (nsUnit : Int))
  let margin := toSigned 32 (ofSigned 32 (first - (arr : Int)))
  let s := s.setFlow f { x with
    next := modifyAt x.next path (fun _ => some (k + n)), run := modifyAt x.run path (fun _ => run)
    empty := modifyAt x.empty path (fun _ => 0), pkts := modifyAt x.pkts path (· + 1)
    copies := if seamless s f then modifyAt x.copies path (· + 1) else x.copies
    bytes := x.bytes + (it.bytes.length - 16) }
  let s := copyMargin s f path k margin false
  let st := s.fld (pathFld f path)
  if seamless s f ∧ (st = 1 ∨ st = 3) ∧ s.fld R.RED.CFG.RETURN_PKTS ≤ run then pathGo s f path 2 else s

/-- ITEM_COMMIT (R275, R342): the queue's oldest item with its last word written becomes visible. -/
def execItemCommit (q : Nat) (s : State) : Out3 :=
  match ((s.gq q).elems.find? fun e => !e.live) with
  | some (.item it) =>
    let s := galCommit s q
    ok (if q < 512 ∧ it.kind = 0 then rxCommit s q it else s)
  | _ => ok s

/-- RED_PATH_LOSS (R342): LOSS_PP consecutive empty packet periods on a path in WAIT or OK. -/
def execRedPathLoss (f path : Nat) (s : State) : Out3 :=
  let st := s.fld (pathFld f path)
  if seamless s f ∧ (st = 1 ∨ st = 2) ∧ s.fld R.RED.CFG.LOSS_PP ≤ (s.flow f).empty.getD path 0 then
    ok (pathGo s f path 3)
  else ok s

/-! ### Playout -/

/-- Move a flow to a state (R307), with its events. -/
def rxGo (s : State) (f st reason : Nat) : State :=
  let old := s.fld (R.RXF.F_STAT.STATE f)
  if old = st then s
  else
    let s := s.setFlds [(R.RXF.F_STAT.STATE f, st), (R.RXF.F_STAT.STATE_EV f, 1)]
    let s := if st = 3 then s.setFld (R.RXF.F_STAT.CONCEAL_EV f) 1
      else if st = 2 ∧ old = 3 then s.setFld (R.RXF.F_STAT.REJOIN_EV f) 1
      else s
    let s := if s.dxPresent && decide (f < 8) && (st == 0 || st == 2) then
        { s with dx := { s.dx with
            played := if st = 2 then f :: s.dx.played.filter (· != f) else s.dx.played.filter (· != f) } }
      else s
    if st = 3 ∨ (st = 2 ∧ old = 3) then s.event 0xE070 [byteOf f, byteOf st, byteOf reason] else s

/-- Flush a flow's two queues (R307). -/
def rxFlush (s : State) (f : Nat) : State :=
  let one (s : State) (q : Nat) : State :=
    if s.gq q = gqEmpty then s else galDiscard s q reasonFlushed
  let s := galRefresh (one (one s (2 * f)) (2 * f + 1))
  s.setFlow f { s.flow f with next := [none, none], bad := [[], []], slot := none, margins := [] }

/-- The lanes of a flow's placement gang (R265). -/
def gang (s : State) (f : Nat) : List Nat :=
  let l := s.fld (R.RXF.F_CFG.LANE f)
  if l = 0xFF then [] else (List.range ((s.fld (R.RXF.F_CHAN.CHANNELS f) + 3) / 4)).map (· + l)

/-- The identifier under which a placement gang's lanes keep what they have read of a channel, beyond the identifiers of R249. -/
def laneIn (id : Nat) : Nat := 0x10000 + id

/-- The ramp of a slew (R265), 5 ms, in 2^-32 ns. -/
def slewRamp : Nat := 5000000 * nsUnit

/-- A slew's change of latency, in 2^-32 ns. -/
def slewSpan (s : State) (f : Nat) (w : Slew) : Nat := periods w.delta.natAbs (s.mcsFs (s.fld (R.RXF.F_CFG.MCS f)))

/-- The times at which a slew's rate stops rising and starts to fall (R265): a change below 5 us x limit / 1000 ppm follows a
triangle of the same slope. -/
def slewTimes (s : State) (f : Nat) (w : Slew) : Nat × Nat :=
  let d := slewSpan s f w
  let l := max 1 w.limit
  if d * 1000000 < l * slewRamp then
    let t := Nat.sqrt (d * 1000000 * slewRamp / l)
    (t, t)
  else (slewRamp, d * 1000000 / l)

/-- The displacement a slew has reached after a time (R265): the rate rises linearly, holds at the limit and falls. -/
def slewAt (s : State) (f : Nat) (w : Slew) (t : Nat) : Nat :=
  let d := slewSpan s f w
  let x := slewTimes s f w
  let rise (u : Nat) : Nat := w.limit * u * u / (2 * slewRamp * 1000000)
  if t < x.1 then rise t
  else if t < x.2 then rise x.1 + w.limit * (t - x.1) / 1000000
  else if t < x.1 + x.2 then d - rise (x.1 + x.2 - t)
  else d

/-- The rate of a slew after a time, in 10^-9. -/
def slewRate (s : State) (f : Nat) (w : Slew) (t : Nat) : Nat :=
  let x := slewTimes s f w
  w.limit * 1000 * min slewRamp (min t (x.1 + x.2 - t)) / slewRamp

/-- The time since a slew began, at a raw time of its MCS. -/
def slewTime (w : Slew) (raw : Nat) : Nat := raw - w.start

/-- The ratio of a flow's gang in 8.24 at a time (R265, R269): 1, or during a slew an output per (1 - r) or (1 + r) inputs. -/
def gangRatio (s : State) (f raw : Nat) : Nat :=
  match (s.flow f).slew with
  | none => 2 ^ 24
  | some w =>
    let r := slewRate s f w (slewTime w raw)
    2 ^ 24 * 1000000000 / (if 0 < w.delta then 1000000000 - r else 1000000000 + r)

/-- RATIO of a lane as it stands now, a slew's offset included (R269). -/
def laneRatioNow (s : State) (n : Nat) : Nat :=
  let slewing (f : Nat) : Bool := (s.flow f).slew.isSome && (gang s f).contains n
  match if s.fld (R.KRN.L_STAT.STATE n) = laneSlew then (List.range 256).find? slewing else none with
  | some f => gangRatio s f (s.ptiRaw (s.mcsPti (s.fld (R.RXF.F_CFG.MCS f))))
  | none => s.fld (R.KRN.L_RATIO.RATIO n)

/-- Begin a placement slew of `delta` sample periods (R265, R312). -/
def startSlew (s : State) (f : Nat) (delta : Int) (limit : Nat) : State :=
  let tgt := ((s.fld (R.RXF.F_OFFSET_NOW.SAMPLES f) : Int) + delta).toNat
  let s := s.setFlds [(R.RXF.F_OFFSET_NOW.SAMPLES f, tgt), (R.RXF.F_STAT.SLEWING f, 1), (R.RXF.F_STAT.SLEW_EV f, 1)]
  let s := (gang s f).foldl (fun s n => if s.fld (R.KRN.L_STAT.STATE n) = laneRun then laneGo s n laneSlew else s) s
  s.setFlow f { s.flow f with
    slew := some ⟨delta, limit, s.ptiRaw (s.mcsPti (s.fld (R.RXF.F_CFG.MCS f)))⟩, winN := 0, winMin := none, winLate := false }

/-- A packet-time code's nominal time in thirds of a ns. -/
def ptThirds (pt : Nat) : Nat := [187500, 375000, 750000, 1000000, 3000000, 12000000].getD pt 375000

/-- The end of a placement window (R312). -/
def windowEnd (s : State) (f : Nat) : State :=
  let x := s.flow f
  let fs := s.mcsFs (s.fld (R.RXF.F_CFG.MCS f))
  let m := x.winMin.getD 0
  let lo : Int := s.fld (R.RXF.F_TGT.LO_US f) * 1000
  let hi : Int := s.fld (R.RXF.F_TGT.HI_US f) * 1000
  let t := (lo + hi) / 2
  let g : Int := 1000000000
  let low := decide (m < lo)
  let d : Int :=
    if low || x.winLate then ((t - m) * fs + g - 1) / g
    else if hi < m then -(((m - t) * fs) / g)
    else 0
  let now : Int := s.fld (R.RXF.F_OFFSET_NOW.SAMPLES f)
  let least : Int := rxN s f + 35
  let most : Int := (((s.fld (R.RXF.F_DEPTH.US f) * 3000 - ptThirds (s.fld (R.RXF.F_CFG.PTIME f)) : Nat) : Int) * fs) / (3 * g)
  let d' := clampInt least most (now + d) - now
  let s := s.setFlow f { x with winN := 0, winMin := none, winLate := false }
  let s := if low ∧ d' ≠ d ∧ d' ≤ 0 then s.setFld (R.RXF.F_STAT.LIMIT_EV f) 1 else s
  -- a standby's placement loops make no decisions of their own (R404)
  if d' = 0 ∨ d = 0 ∨ s.fld R.TWIN.STAT.STATE = 3 then s else startSlew s f d' (s.fld (R.RXF.F_PLC.RATE_PPM f))

/-- PLACEMENT_WINDOW_END (R312, R427): an adaptive flow whose window has 2^WIN packets, while the device is in RUN. -/
def execPlacementWindowEnd (f : Nat) (s : State) : Out3 :=
  if s.fld (R.RXF.F_STAT.STATE f) ≠ 0 ∧ s.flag (R.RXF.F_CFG.ADAPT f) = true ∧ (s.flow f).slew = none ∧
      2 ^ s.fld (R.RXF.F_PLC.WIN f) ≤ (s.flow f).winN ∧ s.pstate = 0 then
    ok (windowEnd s f)
  else ok s

/-- KERNING_SLEW_END (R265): once the displacement has reached its change the lanes run again and the next window starts. -/
def execKerningSlewEnd (f : Nat) (s : State) : Out3 :=
  match (s.flow f).slew with
  | none => ok s
  | some w =>
    let x := slewTimes s f w
    if slewTime w (s.ptiRaw (s.mcsPti (s.fld (R.RXF.F_CFG.MCS f)))) < x.1 + x.2 then ok s
    else
      let s := (gang s f).foldl (fun s n =>
        if s.fld (R.KRN.L_STAT.STATE n) = laneSlew then
          (laneGo s n laneRun).setFld (R.KRN.L_STAT.SLEW_DONE_EV n) 1
        else s) s
      ok ((s.setFld (R.RXF.F_STAT.SLEWING f) 0).setFlow f { s.flow f with slew := none })

/-- The source index presented as index `j`, if the link offset gives one (R306, R309). -/
def dueIndex (s : State) (f j : Nat) : Option Nat :=
  let l := linkOffset s f
  match (s.flow f).step with
  | none => if l ≤ j then some (j - l) else none
  | some (k0, old) =>
    if l + k0 ≤ j then some (j - l) else if old ≤ j ∧ j - old < k0 then some (j - old) else none

/-- The place in a ganged flow's source that its lanes present as index `j` (R265): the source index at or before it and the time
from that one, in 2^-32 ns; none before the flow's first index. -/
def gangPlace (s : State) (f j : Nat) : Option (Nat × Nat) :=
  match (s.flow f).slew with
  | none => (dueIndex s f j).map fun k => (k, 0)
  | some w =>
    let m := s.fld (R.RXF.F_CFG.MCS f)
    let u := 1000000000 * nsUnit
    let d := slewAt s f w (slewTime w (instantOf s m j)) * s.mcsFs m
    let x : Int := (((j : Int) - (linkOffset s f : Int)) * u : Int) - (if 0 < w.delta then (d : Int) else -(d : Int))
    if x < 0 then none else some (x.toNat / u, x.toNat % u / s.mcsFs m)

/-- The source indices that playout reads at index `j` (R266, R306): the one presented now, or with a placement gang, 32 sample
periods early, those up to the place the lanes need next. -/
def readNow (s : State) (f j : Nat) : List (Option Nat) :=
  if (gang s f).isEmpty then [dueIndex s f j]
  else if (s.flow f).slew.isNone then [dueIndex s f (j + 32)]
  else
    match gangPlace s f j, (s.flow f).readTo with
    | some (k, _), some r => (List.range (min 4 (k + 32 - r))).map fun i => some (r + 1 + i)
    | some (k, _), none => [some (k + 32)]
    | none, _ => [none]

/-- First source index of an element of a receive queue. -/
def elemStart (s : State) (f : Nat) (e : GElem) : Nat :=
  match e with
  | .item it => it.ts
  | .slug sl => nearestClass sl.ts (mcsCount s (s.fld (R.RXF.F_CFG.MCS f)))

/-- Index after the last one an element covers (R308). -/
def elemEnd (s : State) (f : Nat) (e : GElem) : Nat :=
  match e with
  | .item it => it.ts + rxN s f
  | .slug sl => elemStart s f e + sl.count * rxN s f

/-- Bring a path's read point to index `k` (R308, R339, R340): elements that have ended are released, one that has begun
is popped; a slug ends early where the next packet begins. -/
def seekQueue (f path k : Nat) : Nat → State → State
  | 0, s => s
  | n + 1, s =>
    let q := rxQueue f path
    let x := s.gq q
    match x.elems.head? with
    | none => s
    | some e =>
      if x.visible = 0 ∨ k < elemStart s f e then s
      else
        let nextIn := match x.elems[1]? with
          | some (GElem.item it) => decide (1 < x.visible) && decide (it.ts ≤ k)
          | _ => false
        let excess := decide (elemEnd s f e ≤ k) || (e.isSlug && nextIn)
        if excess then
          let s := if x.rd = 0 then (galPop s q).2 else s
          seekQueue f path k n (galRelease (s.setFlow f { s.flow f with bad := modifyAt (s.flow f).bad path (fun _ => []) }) q false)
        else if x.rd = 0 then
          match galPop s q with
          | (some (_, bad), s) => s.setFlow f { s.flow f with bad := modifyAt (s.flow f).bad path (fun _ => bad) }
          | (none, s) => s
        else s

/-- The packet of a path that covers index `k`, at its read point (R337). -/
def covering (s : State) (f path k : Nat) : Option GItem :=
  let x := s.gq (rxQueue f path)
  match x.elems.head? with
  | some (.item it) => if 0 < x.rd ∧ it.ts ≤ k ∧ k < it.ts + rxN s f then some it else none
  | _ => none

/-- Arrival timestamp in a packet's descriptor. -/
def arrivalOf (it : GItem) : Nat := u32 it.bytes 12

/-- Byte position of a sample in an item. -/
def sampleAt (s : State) (f k c : Nat) (it : GItem) : Nat :=
  16 + ((k - it.ts) * s.fld (R.RXF.F_CHAN.CHANNELS f) + c) * fmtBytes (s.fld (R.RXF.F_CFG.FORMAT f))

/-- Whether a sample has a byte in a poisoned word (R308). -/
def samplePoisoned (s : State) (f path k c : Nat) (it : GItem) : Bool :=
  let a := sampleAt s f k c it
  let b := a + fmtBytes (s.fld (R.RXF.F_CFG.FORMAT f)) - 1
  ((s.flow f).bad.getD path []).any fun w => a / 8 ≤ w && decide (w ≤ b / 8)

/-- The word of a sample of a packet. -/
def sampleWord (s : State) (f k c : Nat) (it : GItem) : Word × Bool × Bool :=
  let fmt := s.fld (R.RXF.F_CFG.FORMAT f)
  decodeSample fmt c ((it.bytes.drop (sampleAt s f k c it)).take (fmtBytes fmt))

/-- The identifier of a flow's channel (R250). -/
def rxIdent (s : State) (f c : Nat) : Nat :=
  s.fld (R.RXF.F_CHAN.BASE f) + c * mcsMult s (s.fld (R.RXF.F_CFG.MCS f))

/-- A channel's concealment record in a flow. -/
def flowConc (s : State) (f c : Nat) : Conc := sGet (fun _ => concReset) (s.flow f).chans c

/-- Set it. -/
def setFlowConc (s : State) (f c : Nat) (x : Conc) : State :=
  s.setFlow f { s.flow f with chans := sPut (fun _ => concReset) (s.flow f).chans c x }

/-- Deliver one channel's word: for index `j`, or to a placement gang as source index `k` (R266). -/
def rxPresent (s : State) (f c j k : Nat) (w : Word) (t : Bool) : State :=
  let id := rxIdent s f c
  if (gang s f).isEmpty then pushSort s id j w t else pushSort s (laneIn id) k w t

/-- What a placement gang delivers of a channel for index `j` (R264, R265): the source word 32 sample periods behind, resampled while
the flow slews, faded in as its lane begins to run, and zero while it does not. -/
def gangOut (s : State) (f c j : Nat) : Word :=
  let id := laneIn (rxIdent s f c)
  let sort (k : Nat) : Word := (findSort s id k).elim 0 Prod.fst
  let m := s.fld (R.RXF.F_CFG.MCS f)
  let w := match gangPlace s f j, (s.flow f).slew with
    | some x, some _ => Config.resample (gangRatio s f (instantOf s m j)) x.2 ((laneWindow x.1).map sort)
    | some x, none => sort x.1
    | none, _ => 0
  (s.lane (s.fld (R.RXF.F_CFG.LANE f) + c / 4)).fadeIn j w

/-- RX_CONCEAL (R308) for one channel. -/
def concealChan (s : State) (f c j k : Nat) (counted : Bool) : State :=
  let (w, x) := concMiss (s.fld (R.RXF.F_CFG.CONCEAL f)) (flowConc s f c)
  let s := setFlowConc s f c x
  let t := s.fld (R.RXF.F_CFG.FORMAT f) == 3 || x.lastT
  let s := rxPresent s f c j k (if t then 0 else w) t
  if counted then rxCount s f 5 [] else s

/-- SEAMLESS_MERGE (R337, R338) and playout of one channel from the chosen copy `a`, with the other copy `b`. -/
def playChan (s : State) (f k j c pa : Nat) (a : GItem) (b : Option GItem) : State :=
  let mode := s.fld (R.RXF.F_CFG.CONCEAL f)
  let play (s : State) (it : GItem) : State :=
    let (w, t, unknown) := sampleWord s f k c it
    let s := if unknown then rxCount s f 5 [] else s
    let (o, x) := concGood mode (flowConc s f c) w t
    rxPresent (setFlowConc s f c x) f c j k o t
  if !samplePoisoned s f pa k c a then play s a
  else
    match b with
    | some o =>
      if s.flag (R.RED.F_CFG.REPAIR f) && !samplePoisoned s f (1 - pa) k c o then redCount (play s o) f 5
      else rxCount (concealChan s f c j k false) f 6 []
    | none => rxCount (concealChan s f c j k false) f 6 []

/-- Close the packet slot a seamless flow was playing (R342, R343). -/
def slotClose (s : State) (f : Nat) : State :=
  let x := s.flow f
  match x.slot with
  | none => s
  | some t =>
    let s := if t.took = 1 then redCount s f 0 else if t.took = 2 then redCount s f 1 else s
    let s := if t.missBoth then redCount s f 4 else if t.missA then redCount s f 2 else if t.missB then redCount s f 3 else s
    -- a path in WAIT counts only periods in which the flow plays (R342)
    let play := s.fld (R.RXF.F_STAT.STATE f) == 2
    let e (p : Nat) (cov : Bool) : Nat :=
      if cov then 0 else x.empty.getD p 0 + b2n (play || s.fld (pathFld f p) != 1)
    let r (p : Nat) (cov : Bool) : Nat := if cov then x.run.getD p 0 else 0
    s.setFlow f { s.flow f with
      slot := none, empty := [e 0 t.covA, e 1 t.covB], run := [r 0 t.covA, r 1 t.covB] }

/-- Statistics of a pair of copies met at an index (R337, R344). -/
def pairStats (s : State) (f : Nat) (a b : GItem) : State :=
  let s := if a.ts ≠ b.ts then redCount (s.setFld (R.RED.F_STAT.ALIGN_EV f) 1) f 7
    else if a.folio ≠ b.folio then redCount (s.setFld (R.RED.F_STAT.FOLIO_EV f) 1) f 6
    else s
  let k := toSigned 32 (ofSigned 32 ((arrivalOf b : Int) - (arrivalOf a : Int)))
  let mean := s.fldInt (R.RED.F_SKEW.NS f)
  let d := k - mean
  let s := s.setFld (R.RED.F_SKEW.NS f)
    (ofSigned 32 (mean + (if d % 256 ≠ 0 ∧ Config.roundUp d then d / 256 + 1 else d / 256)))
  let s := if (s.fldInt (R.RED.F_SKEW_MAX.NS f)).natAbs < k.natAbs then
      s.setFld (R.RED.F_SKEW_MAX.NS f) (ofSigned 32 k) else s
  if s.fld R.RED.CFG.SKEW_TH_US * 1000 < k.natAbs then s.setFld (R.RED.F_STAT.SKEW_EV f) 1 else s

/-- Account for one index of a seamless flow (R342 to R344). -/
def slotIndex (s : State) (f k took : Nat) (a b : Option GItem) : State :=
  let n := rxN s f
  let s := match (s.flow f).slot with
    | some t => if t.start + n ≤ k then slotClose s f else s
    | none => s
  let x := s.flow f
  let t := x.slot.getD ⟨match a, b with | some i, _ => i.ts | none, some i => i.ts | none, none => k,
    took, false, false, false, false, false, false⟩
  let paired := a.isSome && b.isSome
  let s := if paired && !t.paired then
      (match a, b with | some i, some o => pairStats s f i o | _, _ => s) else s
  s.setFlow f { s.flow f with slot := some { t with
    covA := t.covA || a.isSome, covB := t.covB || b.isSome
    missA := t.missA || (a.isNone && b.isSome), missB := t.missB || (b.isNone && a.isSome)
    missBoth := t.missBoth || (a.isNone && b.isNone), paired := t.paired || paired } }

/-- Margins of slots that have come due go to the statistics (R346). -/
def dueMargins (s : State) (f k : Nat) : State :=
  let x := s.flow f
  let ready := x.margins.filter fun e => decide (e.1 ≤ k)
  let s := s.setFlow f { x with margins := x.margins.filter fun e => !decide (e.1 ≤ k) }
  ready.foldl (fun s e => takeMargin s f e.2.1 e.2.2) s

/-- A slug at a path's read point covers an index (R308, R340). -/
def slugCovers (s : State) (f path k : Nat) : Bool :=
  match (s.gq (rxQueue f path)).elems.head? with
  | some e => e.isSlug && decide (elemStart s f e ≤ k) && decide (k < elemEnd s f e)
  | none => false

/-- Every copy that arrived for an index was dropped as LATE (R307, R336). -/
def lateIndex (s : State) (f k : Nat) : Bool :=
  let spans (l : List Nat) : Bool := l.any fun k0 => k0 ≤ k && decide (k < k0 + rxN s f)
  spans (s.flow f).late && !spans (s.flow f).odd && !slugCovers s f 0 k && !slugCovers s f 1 k

/-- One source index of a flow is read for presentation index `j` (R306 to R308, R337). -/
def playIndex (f j : Nat) (due : Option Nat) (s : State) : State :=
  let st := s.fld (R.RXF.F_STAT.STATE f)
  let chans := List.range (s.fld (R.RXF.F_CHAN.CHANNELS f))
  let paths := s.fld (R.RXF.F_CFG.PATHS f)
  let gap (k : Nat) (s : State) : State :=
    if st = 1 then s
    else
      let s := chans.foldl (fun s c => concealChan s f c j k true) s
      if st = 2 then rxGo s f 3 (if lateIndex s f k then 1 else 2) else s
  match due with
  | none => gap 0 s
  | some k =>
    let s := s.setFlow f { s.flow f with readTo := some k }
    let s := dueMargins s f k
    let s := if nbit paths 0 || s.dxPresent then seekQueue f 0 k ((s.gq (rxQueue f 0)).elems.length + 1) s else s
    let s := if nbit paths 1 then seekQueue f 1 k ((s.gq (rxQueue f 1)).elems.length + 1) s else s
    let a := if nbit paths 0 || s.dxPresent then covering s f 0 k else none
    let b := if nbit paths 1 then covering s f 1 k else none
    let pref := s.fld (R.RED.F_CFG.PREF f)
    let useB := match a, b with
      | none, some _ => true
      | some i, some o =>
        pref == 2 || (pref == 0 && decide (toSigned 32 (ofSigned 32 ((arrivalOf o : Int) - (arrivalOf i : Int))) < 0))
      | _, _ => false
    let took := if useB then 2 else if a.isSome then 1 else 0
    let s := if seamless s f ∧ (2 ≤ st ∨ took ≠ 0) then slotIndex s f k took a b else s
    match (if useB then b else a) with
    | none => gap k s
    | some it =>
      let s := chans.foldl (fun s c => playChan s f k j c (b2n useB) it (if useB then a else b)) s
      if st = 2 then s else rxGo s f 2 3

/-- One flow at presentation index `j`: what it reads, and what its placement gang presents (R265, R266, R306). -/
def playFlow (s : State) (f j : Nat) : State :=
  let s := (readNow s f j).foldl (fun s due => playIndex f j due s) s
  if (gang s f).isEmpty then s
  else (List.range (s.fld (R.RXF.F_CHAN.CHANNELS f))).foldl (fun s c => pushSort s (rxIdent s f c) j (gangOut s f c j) false) s

/-- PLAYOUT_INDEX_DUE (R306): the present sample instant of an MCS is due for every flow of its domain in WAIT, PLAY or
CONCEAL. -/
def execPlayoutIndexDue (m : Nat) (s : State) : Out3 :=
  let j := mcsCount s m
  ok ((List.range 256).foldl (fun s f =>
    let st := s.fld (R.RXF.F_STAT.STATE f)
    if 1 ≤ st ∧ st ≤ 3 ∧ s.fld (R.RXF.F_CFG.MCS f) = m ∧ s.fld (R.RXF.F_CFG.FORMAT f) ≠ 9 then playFlow s f j else s) s)

/-! ### Enabling -/

/-- The least link offset a flow accepts, in sample periods (R25, R266). -/
def leastOffset (s : State) (f : Nat) : Nat := rxN s f + (if s.fld (R.RXF.F_CFG.LANE f) = 0xFF then 3 else 35)

/-- The depth meets R313 against a link offset. -/
def depthOk (s : State) (f off : Nat) : Bool :=
  let d := s.fld (R.RXF.F_DEPTH.US f)
  decide (d ≤ 128000) && decide ((off + rxN s f) * 1000000 ≤ d * s.mcsFs (s.fld (R.RXF.F_CFG.MCS f)))

/-- The cells a path of a flow reserves (R313). -/
def rxCells (s : State) (f : Nat) : Nat :=
  let n := rxN s f
  let fs := s.mcsFs (s.fld (R.RXF.F_CFG.MCS f))
  let pkts := (s.fld (R.RXF.F_DEPTH.US f) * fs + n * 1000000 - 1) / max 1 (n * 1000000)
  pkts * cellsFor (payloadLen (s.fld (R.RXF.F_CFG.FORMAT f)) (s.fld (R.RXF.F_CHAN.CHANNELS f)) n + 16)

/-- The paths of a flow. -/
def rxPaths (s : State) (f : Nat) : List Nat := [0, 1].filter fun p => nbit (s.fld (R.RXF.F_CFG.PATHS f)) p

/-- Format, transport and packet time agree (R223, R300). -/
def formatOk (fmt pt : Nat) (avtp : Bool) : Bool :=
  decide (fmt ≤ 9) && (avtp == decide (4 ≤ fmt)) && decide (pt ≤ 5) && (pt != 5 || decide (fmt ≤ 1))

/-- The alignment rules of R310 for a flow. -/
def alignOk (s : State) (f : Nat) : Bool :=
  !s.flag (R.RXF.F_CFG.ALIGN_EN f) ||
    (!s.flag (R.RXF.F_CFG.ADAPT f) && (List.range 256).all fun g =>
      g == f || s.fld (R.RXF.F_STAT.STATE g) == 0 || !s.flag (R.RXF.F_CFG.ALIGN_EN g) ||
        s.fld (R.RXF.F_CFG.ALIGN g) != s.fld (R.RXF.F_CFG.ALIGN f) ||
        (s.fld (R.RXF.F_CFG.MCS g) == s.fld (R.RXF.F_CFG.MCS f) && s.fld (R.RXF.F_CFG.PTI g) == s.fld (R.RXF.F_CFG.PTI f) &&
          linkOffset s g == s.fld (R.RXF.F_OFFSET.SAMPLES f)))

/-- The gang of a flow meets R265; a lane takes only sorts, and a transparent word is carried untouched, so formats 3 and 8 have
none (R7, R256; log 108). -/
def gangOk (s : State) (f : Nat) : Bool :=
  let m := s.fld (R.RXF.F_CFG.MCS f)
  s.fld (R.RXF.F_CFG.FORMAT f) != 3 && s.fld (R.RXF.F_CFG.FORMAT f) != 8 &&
  !(gang s f).isEmpty && (gang s f).all fun n =>
    decide (n < 256) && s.fld (R.KRN.L_CFG.MODE n) == 2 && s.fld (R.KRN.L_CFG.IN_MCS n) == m &&
      s.fld (R.KRN.L_CFG.OUT_MCS n) == m

/-- The checks of R314 on an enable, over the active values. -/
def rxEnableOk (s : State) (f : Nat) : Bool :=
  let fmt := s.fld (R.RXF.F_CFG.FORMAT f)
  let m := s.fld (R.RXF.F_CFG.MCS f)
  let mult := mcsMult s m
  let base := s.fld (R.RXF.F_CHAN.BASE f)
  let ch := s.fld (R.RXF.F_CHAN.CHANNELS f)
  let avtp := s.flag (R.RXF.F_CFG.AVTP f)
  let hdr := if avtp then (if fmt = 8 then 32 else 24) else 40
  let off := s.fld (R.RXF.F_OFFSET.SAMPLES f)
  let free := (List.range 256).all fun g =>
    g == f || s.fld (R.RXF.F_STAT.STATE g) == 0 ||
      decide (base + ch * mult ≤ s.fld (R.RXF.F_CHAN.BASE g)) ||
      decide (s.fld (R.RXF.F_CHAN.BASE g) + s.fld (R.RXF.F_CHAN.CHANNELS g) * mcsMult s (s.fld (R.RXF.F_CFG.MCS g)) ≤ base)
  s.mcsRuns m && formatOk fmt (s.fld (R.RXF.F_CFG.PTIME f)) avtp &&
    (fmt == 9 ||
      (decide (base + ch * mult ≤ 2048) && base % mult == 0 && decide (1 ≤ ch) && decide (ch ≤ 64) && free &&
        (rxPaths s f).all (fun p => decide (rxCells s f ≤ s.fld (R.GAL.Q_RES.CELLS (rxQueue f p)))) &&
        alignOk s f && (if (gang s f).isEmpty then !s.flag (R.RXF.F_CFG.ADAPT f) else gangOk s f) &&
        decide (leastOffset s f ≤ off) && depthOk s f off &&
        (rxPaths s f).all (fun p => decide (payloadLen fmt ch (rxN s f) + hdr ≤ s.fld (R.NET.CFG.MAX_DATA p)))))

/-- A flow starts anew or has stopped: its counters stay (R156). -/
def rxFresh (x : RxFlow) : RxFlow := { rxReset with pkts := x.pkts, copies := x.copies, bytes := x.bytes }

/-- A flow leaves OFF (R307, R314, R342). -/
def rxStart (s : State) (f : Nat) : State :=
  let s := s.setFld (R.RXF.F_OFFSET_NOW.SAMPLES f) (s.fld (R.RXF.F_OFFSET.SAMPLES f))
  let s := s.setFlow f (rxFresh (s.flow f))
  let s := rxGo s f 1 0
  let s := if seamless s f then pathGo (pathGo s f 0 1) f 1 1 else s
  s.addUser 2 f (s.fld (R.RXF.F_CFG.MCS f))

/-- A flow enters OFF (R307, R309). -/
def rxStop (s : State) (f : Nat) : State :=
  let s := rxFlush s f
  let s := rxGo s f 0 0
  let s := s.setFlds [(R.RED.F_STAT.STATE_A f, 0), (R.RED.F_STAT.STATE_B f, 0), (R.RXF.F_STAT.SLEWING f, 0)]
  refFalls ((s.setFlow f (rxFresh (s.flow f))).dropUser 2 f)

/-- RX_FLOW_ENABLE (R314): EN = 1 starts the flow only where every check holds. -/
def rxEnable (s : State) (f : Nat) : State :=
  if rxEnableOk s f then rxStart (s.setFld (R.RXF.F_CFG.EN f) 1) f
  else (s.setFld (R.RXF.F_CFG.EN f) 0).setFld (R.RXF.F_STAT.CFG_BAD f) 1

/-- The first index of the first packet of a flow at or after an index, by the packets it has received. -/
def packetFrom (s : State) (f k : Nat) : Nat :=
  let n := max 1 (rxN s f)
  match ((s.flow f).next.getD 0 none), ((s.flow f).next.getD 1 none) with
  | some e, _ => if e ≤ k then e + (k - e + n - 1) / n * n else e - (e - k) / n * n
  | none, some e => if e ≤ k then e + (k - e + n - 1) / n * n else e - (e - k) / n * n
  | none, none => k

/-- A step of a flow's link offset, judged at its capture (R309, R316): it holds from the first packet whose media timestamp is at or
after the strobe's time (R122). -/
def rxStep (s : State) (f off : Nat) : State :=
  if leastOffset s f ≤ off ∧ depthOk s f off = true then
    let m := s.fld (R.RXF.F_CFG.MCS f)
    let old := linkOffset s f
    let s := s.setFlds [(R.RXF.F_OFFSET.SAMPLES f, off), (R.RXF.F_OFFSET_NOW.SAMPLES f, off)]
    let k := packetFrom s f (indexFrom s m (strobeTime s 6 m))
    s.setFlow f { s.flow f with step := some (k, old) }
  else s.setFld (R.RXF.F_STAT.CFG_DROPPED f) 1

/-- Captured F_OFFSET of an alignment group: every member must step to one value (R310). -/
def stepGroupOk (s : State) (f : Nat) (v : Word) : Bool :=
  !s.flag (R.RXF.F_CFG.ALIGN_EN f) || (List.range 256).all fun g =>
    s.fld (R.RXF.F_STAT.STATE g) == 0 || !s.flag (R.RXF.F_CFG.ALIGN_EN g) ||
      s.fld (R.RXF.F_CFG.ALIGN g) != s.fld (R.RXF.F_CFG.ALIGN f) ||
      capVal s (R.RXF.F_OFFSET.SAMPLES g).key == some v || (s.fld (R.RXF.F_OFFSET.SAMPLES g) == v.toNat && g != f)

/-- A capture's values for one flow apply (R307, R309, R314). -/
def rxApply (s : State) (f : Nat) : State :=
  let cfg := R.RXF.F_CFG.reg f
  let chan := R.RXF.F_CHAN.reg f
  let offk := R.RXF.F_OFFSET.reg f
  let dep := R.RXF.F_DEPTH.reg f
  let s := capApply s [R.RXF.F_RTPOFF.reg f, R.RXF.F_PLC.reg f, R.RXF.F_TGT.reg f]
  let drop := R.RXF.F_STAT.CFG_DROPPED f
  if s.fld (R.RXF.F_STAT.STATE f) = 0 then
    let s := capApply s [chan, offk, dep]
    let was := (capVal s cfg).isSome
    let s := capApply s [cfg]
    if was ∧ s.flag (R.RXF.F_CFG.EN f) = true then rxEnable s f else s
  else
    let s := if (capVal s chan).isSome ∨ (capVal s dep).isSome then (capDrop s [chan, dep]).setFld drop 1 else s
    let s := match capVal s cfg with
      | none => s
      | some v =>
        let keep : Word := 0x80030000#32
        let old := s.rd cfg
        let s := if v &&& ~~~keep ≠ old &&& ~~~keep then s.setFld drop 1 else s
        let s := (capDrop s [cfg]).wr cfg ((old &&& ~~~keep) ||| (v &&& keep))
        if s.flag (R.RXF.F_CFG.EN f) then s else rxStop s f
    match capVal s offk with
    | none => s
    | some v =>
      if s.fld (R.RXF.F_STAT.STATE f) = 0 then capApply s [offk]
      else if stepGroupOk s f v then rxStep (capDrop s [offk]) f (bits v.toNat 0 24)
      else
        (List.range 256).foldl (fun s g =>
          if s.flag (R.RXF.F_CFG.ALIGN_EN g) ∧ s.fld (R.RXF.F_CFG.ALIGN g) = s.fld (R.RXF.F_CFG.ALIGN f) ∧
              s.fld (R.RXF.F_STAT.STATE g) ≠ 0 then
            (capDrop s [R.RXF.F_OFFSET.reg g]).setFld (R.RXF.F_STAT.CFG_DROPPED g) 1
          else s) s

/-- Writes of RXF shadow registers that are ignored: with CFG_BAD, or in silence (R312, R316). -/
def rxShBad (off : Nat) (v : Word) : Option Bool :=
  let w := v.toNat
  if off = 0xC100 then (if 10 ≤ bits w 27 4 ∨ 6 ≤ bits w 24 3 ∨ bits w 16 2 = 3 then some true else none)
  else if off = 0xC114 then
    (if bits w 28 4 < 6 ∨ bits w 16 10 = 0 ∨ 1000 < bits w 16 10 ∨ bits w 0 8 = 0 then some false else none)
  else none

/-- A flow follows its MCS: HELD while it does not run (R307). -/
def rxFollow (s : State) (m : Nat) : State :=
  (List.range 256).foldl (fun s f =>
    let st := s.fld (R.RXF.F_STAT.STATE f)
    if st = 0 ∨ s.fld (R.RXF.F_CFG.MCS f) ≠ m then s
    else if s.mcsRuns m then (if st = 4 then rxGo s f 1 0 else s)
    else if st = 4 then s
    else rxFlush (rxGo s f 4 0) f) s

/-- A port's captured CFG applies and the port retrains (R317). -/
def netLinkDown (s : State) (p st : Nat) : State :=
  let up := linkUp s p
  let s := s.setFlds [(R.NET.STAT.STATE p, st), (R.NET.STAT.LINK_UP p, b2n (st == 3))]
  let s := if up ≠ (st == 3) then s.setFld (R.NET.STAT.LINK_EV p) 1 else s
  if !up || st == 3 then s
  else
    -- frames in progress are rewound, PTP ports are FAULTY, seamless paths are lost (R295, R112, R342)
    let s := (List.range 256).foldl (fun s f =>
      let q := rxQueue f (p % 2)
      let s := if (s.gq q).opened.isSome ∧ p < 2 then galRewind s q else s
      if p < 2 ∧ seamless s f ∧ s.fld (pathFld f p) = 2 then pathGo s f p 3 else s) s
    [0, 1, 2, 3].foldl (fun s n => if s.portState n p = 0 then s else portLost s n p 7) s

/-- A write of a port's CFG shadow that is ignored with CFG_BAD, or in silence (R293, R317). -/
def netShBad (off : Nat) (v : Word) : Option Bool :=
  let w := v.toNat
  if off % 0x800 = 0 then
    (if (off < 0xF000 ∧ 5 ≤ bits w 29 3) ∨ bits w 27 2 = 3 ∨ (bits w 27 2 ≠ 0 ∧ bits w 29 3 ≠ 1) then some true
     else if bits w 0 14 < 1500 ∨ 9000 < bits w 0 14 then some false
     else none)
  else none

end Sys2Proof.Machine
end

