-- ==== Sys2Proof/Machine/NetTx.lean ====
section
/-! DEFINITION. Network egress (R22, R318 to R334, R348): the composer, headers, launch slots, shaping and ports. -/

namespace Sys2Proof.Machine

/-- What an unlisted transmit flow holds. -/
def txDefault (_ : Nat) : TxFlow := ⟨0, 0, 0, 0, [], 0, false, 0, [0, 0], 0⟩

/-- A transmit flow's record. -/
def State.txf (s : State) (f : Nat) : TxFlow := sGet txDefault s.txs f

/-- Change it. -/
def State.setTxf (s : State) (f : Nat) (x : TxFlow) : State := { s with txs := sPut txDefault s.txs f x }

/-- Count in one of a flow's counters of R334, by index, with its event bit. -/
def txCount (s : State) (f i n : Nat) (ev : List Fld) : State :=
  (s.raise ev).countSatN { R.TXF.F_UNDERRUN.COUNT f with key := (R.TXF.F_UNDERRUN.COUNT f).key + 4 * i } n
    (R.TXF.F_SAT.SAT f) i

/-- Samples per packet of a transmit flow (R300). -/
def txN (s : State) (f : Nat) : Nat :=
  ptSamples (s.fld (R.TXF.F_CFG.PTIME f)) (s.fld (R.CLK.MCS_CFG.RATE (s.fld (R.TXF.F_CFG.MCS f))))

/-- Payload bytes of a transmit flow's packet. -/
def txPayload (s : State) (f : Nat) : Nat :=
  payloadLen (s.fld (R.TXF.F_CFG.FORMAT f)) (s.fld (R.TXF.F_CHAN.CHANNELS f)) (txN s f)

/-- Cells of a transmit item (R318). -/
def txCells (s : State) (f : Nat) : Nat := cellsFor (16 + s.fld (R.TXF.F_CHAN.TLEN f) + txPayload s f)

/-- Move a transmit flow to a state (R330). -/
def txGo (s : State) (f st : Nat) : State :=
  if s.fld (R.TXF.F_STAT.STATE f) = st then s
  else s.setFlds [(R.TXF.F_STAT.STATE f, st), (R.TXF.F_STAT.STATE_EV f, 1)]

/-! ### Packing -/

/-- The binary32 pattern of an integer times 2^-31, rounded toward the nearest, ties to even, where 24 bits do not hold
it. -/
def sortFloat (i : Int) : Nat :=
  let m := i.natAbs
  if m = 0 then 0
  else
    let e := Nat.log2 m
    let (m, e) :=
      if e ≤ 23 then (m * 2 ^ (23 - e), e)
      else
        let d := 2 ^ (e - 23)
        let r := m % d
        let q := if 2 * r < d then m / d else if d < 2 * r then m / d + 1 else m / d + m / d % 2
        if q = 2 ^ 24 then (2 ^ 23, e + 1) else (q, e)
    b2n (decide (i < 0)) * 2 ^ 31 + (e + 96) * 2 ^ 23 + m % 2 ^ 23

/-- The label of an IEC 60958 word from the layout of R256 (the reverse of `decodeSample`; log 16). -/
def subLabel (w : Nat) : Nat :=
  let pre := w % 16
  b2n (pre == 1) * 32 + b2n (pre == 1 || pre == 2) * 16 + bits w 4 1 * 8 + bits w 5 1 * 4 + bits w 6 1 * 2 + bits w 7 1

/-- The wire bytes of a word (R319). A float is exact where 24 bits hold the word (R319). -/
def encodeSample (fmt : Nat) (w : Word) (t : Bool) : List Byte :=
  let v := w.toNat
  if fmt = 0 ∨ fmt = 4 then beBytes 2 (v / 65536)
  else if fmt = 1 ∨ fmt = 5 then beBytes 3 (v / 256)
  else if fmt = 2 ∨ fmt = 6 then beBytes 4 v
  else if fmt = 3 then (if t then beBytes 4 (subLabel v * 2 ^ 24 + v / 256) else beBytes 4 0)
  else if fmt = 7 then beBytes 4 (sortFloat (toSigned 32 v))
  else if t then beBytes 4 (subLabel v * 2 ^ 24 + v / 256)
  else beBytes 4 (0x40 * 2 ^ 24 + v / 256)

/-- Bytes of a packet as they are composed: payload so far, samples concealed, and the flow's concealment records. -/
structure Compose where
  out   : List Byte
  lost  : Nat
  chans : Sparse Conc
  deriving DecidableEq, Repr

/-- Take the word of one channel at one index (R319, R320, R329). -/
def composeOne (s : State) (f k c : Nat) (a : Compose) : Compose :=
  let fmt := s.fld (R.TXF.F_CFG.FORMAT f)
  let mode := s.fld (R.TXF.F_CFG.CONCEAL f)
  let x := sGet (fun _ => concReset) a.chans c
  let mute := crcMuted s
  let id := s.fld (R.TXF.F_CHAN.BASE f) + c * mcsMult s (s.fld (R.TXF.F_CFG.MCS f))
  match destWord s id k with
  | some (w, t) =>
    let (o, x) := concGood mode x w t
    ⟨a.out ++ encodeSample fmt (if mute then 0 else o) t, a.lost, sPut (fun _ => concReset) a.chans c x⟩
  | none =>
    let (o, x) := concMiss mode x
    ⟨a.out ++ encodeSample fmt (if mute then 0 else o) (fmt == 3), a.lost + b2n (!mute), sPut (fun _ => concReset) a.chans c x⟩

/-- Take every word of a packet, channel 0 first within each index (R319). -/
def composeAll (s : State) (f k : Nat) : Compose :=
  (List.range (txN s f)).foldl (fun a i =>
    (List.range (s.fld (R.TXF.F_CHAN.CHANNELS f))).foldl (fun a c => composeOne s f (k + i) c a) a)
    ⟨[], 0, (s.txf f).chans⟩

/-! ### Headers -/

/-- A flow's template (R321). -/
def template (s : State) (f : Nat) : List Byte :=
  ((List.range 32).flatMap fun i => leBytes 4 (s.fld (R.TXF.F_TMPL.BYTES i f))).take (s.fld (R.TXF.F_CHAN.TLEN f))

/-- Where the network header of a frame begins. -/
def l3At (b : List Byte) : Nat := if be16 b 12 = 0x8100 then 18 else 14

/-- The EtherType of a frame after an optional tag. -/
def etypeOf (b : List Byte) : Nat := be16 b (l3At b - 2)

/-- The IPv4 header checksum written into a frame. -/
def ip4Check (b : List Byte) : List Byte :=
  let h := l3At b
  let ihl := 4 * (u8 b h % 16)
  let b := overlay b (h + 10) [0, 0]
  overlay b (h + 10) (beBytes 2 (65535 - fold16 (onesSum (ihl / 2) ((b.drop h).take ihl))))

/-- The UDP checksum over IPv6 written into a frame (RFC 8200). -/
def udp6Check (b : List Byte) : List Byte :=
  let h := l3At b
  let b := overlay b (h + 46) [0, 0]
  let u := b.drop (h + 40)
  let u' := if u.length % 2 = 1 then u ++ [0] else u
  let sum := onesSum 16 ((b.drop (h + 8)).take 32) + u.length + 17 + onesSum (u'.length / 2) u'
  let c := 65535 - fold16 sum
  overlay b (h + 46) (beBytes 2 (if c = 0 then 65535 else c))

/-- The headers of a packet over its template (R321): `ts` is the RTP timestamp or the avtp_timestamp. -/
def writeHeaders (b : List Byte) (fmt folio ts payload : Nat) (mr : Bool) (dbc : Nat) : List Byte :=
  let h := l3At b
  let et := etypeOf b
  if et = 0x22F0 then
    let b := overlay b (h + 2) [byteOf folio]
    let b := overlay b (h + 1) [byteOf ((u8 b (h + 1) ||| 1) &&& 0xF7 ||| (if mr then 8 else 0))]
    let b := overlay b (h + 12) (beBytes 4 ts)
    if fmt = 8 then overlay (overlay b (h + 27) [byteOf dbc]) (h + 30) [255, 255]
    else overlay (overlay b (h + 20) (beBytes 2 payload)) (h + 22) [0]
  else if et = 0x0800 then
    let u := h + 4 * (u8 b h % 16)
    let b := overlay b (h + 2) (beBytes 2 (b.length - h))
    let b := overlay b (h + 4) [0, 0]
    let b := overlay (overlay b (u + 4) (beBytes 2 (b.length - u))) (u + 6) [0, 0]
    let b := overlay b (u + 9) [byteOf (u8 b (u + 9) % 128)]
    ip4Check (overlay (overlay b (u + 10) (beBytes 2 folio)) (u + 12) (beBytes 4 ts))
  else if et = 0x86DD then
    let u := h + 40
    let b := overlay b (h + 4) (beBytes 2 (b.length - u))
    let b := overlay b (u + 4) (beBytes 2 (b.length - u))
    let b := overlay b (u + 9) [byteOf (u8 b (u + 9) % 128)]
    udp6Check (overlay (overlay b (u + 10) (beBytes 2 folio)) (u + 12) (beBytes 4 ts))
  else b

/-- The NETB copy of a frame: its source address, and the destination of R348 where it is in force. -/
def netbCopy (s : State) (f : Nat) (b : List Byte) : List Byte :=
  let b := overlay b 6 (beBytes 2 (s.fld (R.NET.MAC_HI.ADDR 1) % 65536) ++ beBytes 4 (s.fld (R.NET.MAC_LO.ADDR 1)))
  if !s.flag (R.RED.TB_CFG.ACTIVE f) then b
  else
    let h := l3At b
    let et := etypeOf b
    let port := s.fld (R.RED.TB_UDP.PORT f)
    let a := (List.range 4).flatMap fun i => beBytes 4 (s.fld (R.RED.TB_ADDR.ADDR i f))
    if et = 0x0800 then
      let u := h + 4 * (u8 b h % 16)
      let b := overlay b (h + 16) (a.take 4)
      let b := overlay b 0 ([1, 0, 0x5E, byteOf (u8 a 1 % 128)] ++ (a.drop 2).take 2)
      ip4Check (if port = 0 then b else overlay b (u + 2) (beBytes 2 port))
    else if et = 0x86DD then
      let b := overlay b (h + 24) a
      let b := overlay b 0 ([0x33, 0x33] ++ a.drop 12)
      udp6Check (if port = 0 then b else overlay b (h + 42) (beBytes 2 port))
    else b

/-! ### Slots -/

/-- Line rate of a port in kb/s by MODE (R293). -/
def lineKbps (s : State) (p : Nat) : Nat :=
  if p = 2 then 1000000
  else match s.fld (R.NET.CFG.MODE p) with
    | 1 => 25000000
    | 2 => 10000000
    | 3 => 1000000
    | 4 => 1000000
    | _ => 0

/-- Bytes of a frame on the wire with FCS, preamble and gap, from its bytes without FCS (R324). -/
def wireBytes (n : Nat) : Nat := max 60 n + 24

/-- Wire time of a frame in ns, rounded up to 2 ns (R324). -/
def wireNs (s : State) (p n : Nat) : Nat :=
  let k := lineKbps s p
  if k = 0 then 0 else (wireBytes n * 8 * 1000000 + 2 * k - 1) / (2 * k) * 2

/-- Frame bytes of a flow without FCS. -/
def txFrameLen (s : State) (f : Nat) : Nat := s.fld (R.TXF.F_CHAN.TLEN f) + txPayload s f

/-- A flow's rate on the wire in kb/s. -/
def txKbps (s : State) (f : Nat) : Nat :=
  wireBytes (txFrameLen s f) * 8 * s.mcsFs (s.fld (R.TXF.F_CFG.MCS f)) / (max 1 (txN s f) * 1000)

/-- Transmit flows that use a port and are not OFF. -/
def portFlows (s : State) (p : Nat) : List Nat :=
  (List.range 256).filter fun f =>
    s.flag (R.TXF.F_STAT.STATE f) && nbit (s.fld (R.TXF.F_CFG.PATHS f)) p && !s.flag (R.TXF.F_CFG.FUNNEL f)

/-- Whether a flow's boundaries meet those of alignment `a` modulo `n`. -/
def meets (s : State) (g a n : Nat) : Bool :=
  let d := Nat.gcd n (txN s g)
  decide (d ≠ 0) && a % d == s.fld (R.TXF.F_PHASE.ALIGN g) % d

/-- Intervals [e, e + W) of a port's prime-MCS flows that meet an alignment, other than flow `f`. -/
def slotsUsed (s : State) (p f a n : Nat) : List (Nat × Nat) :=
  ((portFlows s p).filter fun g =>
    g != f && s.fld (R.TXF.F_CFG.MCS g) == s.fld (R.TXF.PORT.PRIME_MCS p) && meets s g a n).map fun g =>
      (s.fld (R.TXF.F_PHASE.E_NS g), s.fld (R.TXF.F_PHASE.E_NS g) + wireNs s p (txFrameLen s g))

/-- Whether an interval is free among others. -/
def intervalFree (e w : Nat) (l : List (Nat × Nat)) : Bool := l.all fun i => decide (e + w ≤ i.1) || decide (i.2 ≤ e)

/-- One sample period of a flow's MCS in ns, rounded down. -/
def spNs (s : State) (m : Nat) : Nat := 1000000000 / s.mcsFs m

/-- The rate test of R326 on a port, for a flow beside those admitted. -/
def rateFits (s : State) (p f : Nat) : Bool :=
  decide ((((portFlows s p).filter (· != f)).map (txKbps s)).sum + txKbps s f ≤
    lineKbps s p * s.fld (R.TXF.PORT.RATE_PCT p) / 100)

/-- The ports of a flow. -/
def txPorts (s : State) (f : Nat) : List Nat := [0, 1].filter fun p => nbit (s.fld (R.TXF.F_CFG.PATHS f)) p

/-- Whether slot `e` of a tier holds a flow at alignment `a` on a port (R324, R326). -/
def slotOk (s : State) (p f a e : Nat) (prime : Bool) : Bool :=
  let m := s.fld (R.TXF.F_CFG.MCS f)
  let w := wireNs s p (txFrameLen s f)
  let isPrime := m == s.fld (R.TXF.PORT.PRIME_MCS p)
  decide (w ≠ 0) &&
    (if prime then isPrime && decide (1500 ≤ e) && decide (e + w ≤ 3000)
     else decide (3000 ≤ e) && decide (e + w ≤ spNs s m)) &&
    (!isPrime || intervalFree e w (slotsUsed s p f a (txN s f))) &&
    (!prime || s.fld (R.TXF.F_CFG.CLASS f) == 0)

/-- Whether a flow's own slot is admitted (R326, R330). A funnelled flow is BULK, and its slot is the master's matter (R324, R332). -/
def slotAdmitted (s : State) (f : Nat) : Bool :=
  if s.flag (R.TXF.F_CFG.FUNNEL f) then !s.flag (R.TXF.F_CFG.TIER f)
  else
    (txPorts s f).all fun p =>
      rateFits s p f &&
        slotOk s p f (s.fld (R.TXF.F_PHASE.ALIGN f)) (s.fld (R.TXF.F_PHASE.E_NS f)) (s.flag (R.TXF.F_CFG.TIER f))

/-- The smallest slot of a window for a flow at an alignment on all its ports (R326): the window's start or the end of an
interval in use. -/
def findSlot (s : State) (f a : Nat) (prime : Bool) : Option Nat :=
  let lo := if prime then 1500 else 3000
  let cands := lo :: ((txPorts s f).flatMap fun p => (slotsUsed s p f a (txN s f)).map Prod.snd)
  let good := cands.filter fun e => decide (lo ≤ e) && (txPorts s f).all fun p => slotOk s p f a e prime
  match good with
  | [] => none
  | e :: es => some (es.foldl min e)

/-- Time in use over the boundaries of an alignment on a flow's ports (R326). -/
def alignLoad (s : State) (f a : Nat) : Nat :=
  ((txPorts s f).map fun p => ((slotsUsed s p f a (txN s f)).map fun i => i.2 - i.1).sum).sum

/-- The least-loaded alignment, lowest among equals (R326). -/
def bestAlign (s : State) (f : Nat) : Nat :=
  (List.range (txN s f)).foldl (fun b a => if alignLoad s f a < alignLoad s f b then a else b) 0

/-- Tier, alignment and slot for a new flow (R324, R326); `none` refuses it. -/
def placeFlow (s : State) (f : Nat) : Option (Bool × Nat × Nat) :=
  if !(txPorts s f).all (fun p => rateFits s p f) then none
  else
    let m := s.fld (R.TXF.F_CFG.MCS f)
    let other := (txPorts s f).any fun p => s.fld (R.TXF.PORT.PRIME_MCS p) != m
    if other then some (false, 0, 3000)
    else
      let a := bestAlign s f
      match (if s.fld (R.TXF.F_CFG.CLASS f) = 0 then findSlot s f a true else none) with
      | some e => some (true, a, e)
      | none => (findSlot s f a false).map fun e => (false, a, e)

/-- Refresh LOAD of a port (R334): admitted rate, and the least PRIME time left at a boundary. -/
def loadRefresh (s : State) (p : Nat) : State :=
  let fl := portFlows s p
  let m := s.fld (R.TXF.PORT.PRIME_MCS p)
  let prime := fl.filter fun f => s.flag (R.TXF.F_CFG.TIER f)
  let at_ (k : Nat) : Nat :=
    ((prime.filter fun f => k % max 1 (txN s f) == s.fld (R.TXF.F_PHASE.ALIGN f)).map fun f => wireNs s p (txFrameLen s f)).sum
  let used := if prime.isEmpty then 0 else ((List.range (192 * mcsMult s m)).map at_).foldl max 0
  s.setFlds [(R.TXF.LOAD.RATE p, (fl.map (txKbps s)).sum / 1000), (R.TXF.LOAD.PRIME_FREE p, 1500 - used)]

/-! ### State -/

/-- The checks on a captured EN = 1 (R314's identifier rules, R330). -/
def txEnableOk (s : State) (f : Nat) : Bool :=
  let m := s.fld (R.TXF.F_CFG.MCS f)
  let mult := mcsMult s m
  let base := s.fld (R.TXF.F_CHAN.BASE f)
  let ch := s.fld (R.TXF.F_CHAN.CHANNELS f)
  let fmt := s.fld (R.TXF.F_CFG.FORMAT f)
  let tl := s.fld (R.TXF.F_CHAN.TLEN f)
  let free := (List.range 256).all fun g =>
    g == f || s.fld (R.TXF.F_STAT.STATE g) == 0 ||
      decide (base + ch * mult ≤ s.fld (R.TXF.F_CHAN.BASE g)) ||
      decide (s.fld (R.TXF.F_CHAN.BASE g) + s.fld (R.TXF.F_CHAN.CHANNELS g) * mcsMult s (s.fld (R.TXF.F_CFG.MCS g)) ≤ base)
  s.mcsRuns m && formatOk fmt (s.fld (R.TXF.F_CFG.PTIME f)) (s.flag (R.TXF.F_CFG.AVTP f)) && fmt != 9 &&
    decide (base + ch * mult ≤ 2048) && base % mult == 0 && decide (1 ≤ ch) && decide (ch ≤ 64) && free &&
    (txPorts s f).all (fun p => decide (tl + txPayload s f ≤ s.fld (R.NET.CFG.MAX_DATA p) + l3At (template s f))) &&
    decide (s.fld (R.TXF.F_PHASE.ALIGN f) < txN s f) && slotAdmitted s f

/-- A flow is armed by a capture now (R330). -/
def txStart (s : State) (f : Nat) : State :=
  let m := s.fld (R.TXF.F_CFG.MCS f)
  let s := s.setTxf f { txDefault 0 with armedAt := s.ptiRaw (s.mcsPti m) }
  let s := (txGo s f 1).addUser 3 f m
  (txPorts s f).foldl loadRefresh s

/-- End a run of underrun packets (R329). -/
def underEnd (s : State) (f : Nat) : State :=
  let n := (s.txf f).under
  if n = 0 then s
  else (s.event 0xE080 (leBytes 4 f ++ leBytes 4 n)).setTxf f { s.txf f with under := 0 }

/-- A flow enters OFF (R330, R331): its queue is flushed and nothing of a waiting packet is sent. -/
def txStop (s : State) (f : Nat) : State :=
  let s := underEnd s f
  let q := 512 + f
  let s := if s.gq q = gqEmpty then s else galRefresh (galDiscard s q reasonFlushed)
  let s := { s with txp := s.txp.map fun p => { p with wait := p.wait.filter fun w => w.flow != f } }
  let s := (txGo s f 0).dropUser 3 f
  (txPorts s f).foldl loadRefresh (s.setTxf f (txDefault 0))

/-- The keys of a transmit flow's registers that are captured only in OFF. -/
def txOffKeys (f : Nat) : List Nat :=
  [R.TXF.F_CHAN.reg f, R.TXF.F_PHASE.reg f, R.TXF.F_RTPOFF.reg f, R.TXF.F_TRANSIT.reg f] ++
    (List.range 32).map fun i => R.TXF.F_TMPL.reg i f

/-- A capture's values for one transmit flow apply (R321, R330). -/
def txApply (s : State) (f : Nat) : State :=
  let cfg := R.TXF.F_CFG.reg f
  let fol := R.TXF.F_FOLIO.reg f
  let drop := R.TXF.F_STAT.CFG_DROPPED f
  let s := match capVal s fol with
    | some v => (capDrop s [fol]).setFld (R.TXF.F_FOLIO.NEXT f) (bits v.toNat 0 16)
    | none => s
  if s.fld (R.TXF.F_STAT.STATE f) = 0 then
    let s := capApply s (txOffKeys f)
    match capVal s cfg with
    | none => s
    | some _ =>
      let s := capApply s [cfg]
      if !s.flag (R.TXF.F_CFG.EN f) then s
      else if txEnableOk s f then txStart s f
      else s.setFlds [(R.TXF.F_CFG.EN f, 0), (R.TXF.F_STAT.CFG_BAD f, 1)]
  else
    let ks := txOffKeys f
    let s := if s.cap.any (fun c => ks.contains c.key) then (capDrop s ks).setFld drop 1 else s
    match capVal s cfg with
    | none => s
    | some v =>
      let keep : Word := 0x80030000#32
      let old := s.rd cfg
      let s := if v &&& ~~~keep ≠ old &&& ~~~keep then s.setFld drop 1 else s
      let s := (capDrop s [cfg]).wr cfg ((old &&& ~~~keep) ||| (v &&& keep))
      if s.flag (R.TXF.F_CFG.EN f) then s else txStop s f

/-- A capture's values for the port registers of group 7 apply (R334). -/
def txPortApply (s : State) : State :=
  [0, 1].foldl (fun s p =>
    let s := capApply s [R.TXF.SHAPE_A.reg p, R.TXF.SHAPE_B.reg p]
    let old := s.fld (R.TXF.PORT.PRIME_MCS p)
    let busy := !(portFlows s p).isEmpty
    let s := capApply s [R.TXF.PORT.reg p]
    if busy then s.setFld (R.TXF.PORT.PRIME_MCS p) old else s) s

/-- Writes of TXF shadow registers that are ignored: with CFG_BAD, or in silence (R334). -/
def txShBad (off : Nat) (v : Word) : Option Bool :=
  let w := v.toNat
  if off = 0xD100 then (if 9 ≤ bits w 27 4 ∨ 6 ≤ bits w 24 3 ∨ bits w 16 2 = 3 ∨ bits w 13 2 = 3 then some true else none)
  else if off = 0xD104 then (if bits w 8 8 < 38 ∨ 128 < bits w 8 8 then some false else none)
  else if off = 0xD108 then (if bits w 0 16 % 2 = 1 ∨ bits w 0 16 < 1500 then some false else none)
  else if off = 0xD004 ∨ off = 0xD008 then (if bits w 16 8 < 10 ∨ 100 < bits w 16 8 then some false else none)
  else if 0xD800 ≤ off ∧ off % 16 = 0 then (if bits w 14 4 = 0 then some false else none)
  else none

/-- Flows follow their MCS (R330): HELD while it does not run; on its return the first aligned index is the next one. -/
def txFollow (s : State) (m : Nat) : State :=
  (List.range 256).foldl (fun s f =>
    let st := s.fld (R.TXF.F_STAT.STATE f)
    if st < 2 ∨ s.fld (R.TXF.F_CFG.MCS f) ≠ m then s
    else if s.mcsRuns m then
      (if st = 3 then
         let x := s.txf f
         let n := max 1 (txN s f)
         let a := s.fld (R.TXF.F_PHASE.ALIGN f)
         let c := mcsCount s m + 1
         let k := c + (a + n - c % n) % n
         txGo (s.setTxf f { x with k := max x.k k, mr := !x.mr }) f 2
       else s)
    else txGo s f 3) s

/-- TX_FLOW_START (R330): the first aligned index whose instant is at least two sample periods after the capture. -/
def execTxFlowStart (f : Nat) (s : State) : Out3 :=
  if s.fld (R.TXF.F_STAT.STATE f) ≠ 1 then ok s
  else
    let m := s.fld (R.TXF.F_CFG.MCS f)
    let x := s.txf f
    let n := max 1 (txN s f)
    let a := s.fld (R.TXF.F_PHASE.ALIGN f)
    let t := x.armedAt + periods 2 (s.mcsFs m)
    let c := indexAt s m t + b2n (decide (instantOf s m (indexAt s m t) < t))
    let k := c + (a + n - c % n) % n
    if mcsCount s m < k then ok s
    else ok (txGo (s.setTxf f { x with k := k, k0 := k, folio0 := s.fld (R.TXF.F_FOLIO.NEXT f) }) f 2)

/-- The launch time of the packet of first index `k` in the flow's PTI, in 2^-32 ns (R323); `defer` for a funnel. -/
def launchTime (s : State) (m pti k n defer e : Nat) : Int :=
  ((instantOf s m (k + n + defer) + e * nsUnit : Nat) : Int) - (s.ptiRaw (s.mcsPti m) : Int) + (s.ptiRaw pti : Int)

/-- The stack outbound queue a funnelled flow commits to (R392, R396). -/
def funnelQueue : Nat := 920

/-- PACKET_CLOSE (R320 to R322, R329): the packet's words are taken, its headers written and its item committed. -/
def packetClose (s : State) (f : Nat) : State :=
  let m := s.fld (R.TXF.F_CFG.MCS f)
  let x := s.txf f
  let n := max 1 (txN s f)
  let k := x.k
  let pti := s.fld (R.TXF.F_CFG.PTI f)
  let fmt := s.fld (R.TXF.F_CFG.FORMAT f)
  let folio := (x.folio0 + (k - x.k0) / n) % 65536
  let c := composeAll s f k
  let e := s.fld (R.TXF.F_PHASE.E_NS f)
  let launch := (launchTime s m pti k n 0 e / (nsUnit : Int)).toNat
  let avtp := s.flag (R.TXF.F_CFG.AVTP f)
  let ts := if avtp then
      ((launchTime s m pti k 0 0 0 / (nsUnit : Int)).toNat + s.fld (R.TXF.F_TRANSIT.VALUE f)) % 2 ^ 32
    else (k + s.fld (R.TXF.F_RTPOFF.VALUE f)) % 2 ^ 32
  let frame := writeHeaders (template s f ++ c.out) fmt folio ts c.out.length x.mr x.dbc
  let ports := s.fld (R.TXF.F_CFG.PATHS f)
  let desc := elemHeader 0 (16 + frame.length) ++ leBytes 2 folio ++
    [byteOf (bits ports 0 1 * 128 + bits ports 1 1 * 64), byteOf f] ++ leBytes 4 (k % 2 ^ 32) ++ leBytes 4 (launch % 2 ^ 32)
  let s := s.setTxf f { x with k := k + n, chans := c.chans, dbc := (x.dbc + n) % 256 }
  let s := s.setFld (R.TXF.F_FOLIO.NOW f) folio
  let s :=
    if c.lost = 0 then underEnd s f
    else
      let s := txCount (txCount s f 2 c.lost []) f 0 1 [R.TXF.F_STAT.UNDERRUN_EV f]
      s.setTxf f { s.txf f with under := (s.txf f).under + 1 }
  let q := if s.flag (R.TXF.F_CFG.FUNNEL f) then funnelQueue else 512 + f
  galCommit (galRefresh (galPut s q 0 true folio k (desc ++ frame))) q

/-- A word of a host or stack source that comes after its packet has closed is counted by the flow (R329). -/
def txLate (s : State) (src k : Nat) : State :=
  (impListed s).foldl (fun s d =>
    if d < 0x800 ∧ impSrc ((s.imp d).at_ k).word = src then
      match txChan s d with
      | some (f, _) =>
        if s.fld (R.TXF.F_STAT.STATE f) = 2 ∧ (s.txf f).k0 ≤ k ∧ k < (s.txf f).k then
          txCount s f 1 1 [R.TXF.F_STAT.LATE_EV f]
        else s
      | none => s
    else s) s

/-- A sample of a source arrives: every consumer that has already taken its index counts it (R245, R329). -/
def srcLate (s : State) (src k : Nat) : State := txLate (tdmLate s src k) src k

/-- A frame leaves on a port, padded, with its FCS and its event timestamp (R106). -/
def sendFrame (s : State) (p : Nat) (b : List Byte) : State :=
  let b := b ++ List.replicate (60 - b.length) 0
  let b := b ++ leBytes 4 (crc32 b)
  let s := { s with net := modifyAt s.net p fun c => { c with txFrames := c.txFrames + 1, txBytes := c.txBytes + b.length } }
  (netStampTx s p).emit (.netTx p b)

/-- Count a packet of a flow launched on a port. -/
def countLaunch (s : State) (f p : Nat) : State :=
  let x := s.txf f
  s.setTxf f { x with pkts := modifyAt x.pkts p (· + 1), bytes := x.bytes + txPayload s f }

/-- Launch a frame of a flow on a port: it is on the wire for its wire time (R324, R331). -/
def launchFrame (s : State) (f p : Nat) (b : List Byte) : State :=
  let s := countLaunch (sendFrame s p b) f p
  { s with txp := modifyAt s.txp p fun x => { x with wire := some (f, s.ticks + wireNs s p b.length / 2) } }

/-- The ports on which a packet of a flow still waits. -/
def waitPorts (s : State) (f k : Nat) : List Nat :=
  [0, 1].filter fun p => (s.txp.getD p txpReset).wait.any fun w => w.flow == f && w.k == k

/-- PORTS of an item's descriptor after launches and strikes (R318, R328): the ports still to launch, and POISONED. -/
def portsMark (s : State) (f k : Nat) (poison : Bool) : State :=
  match (s.gq (512 + f)).elems.head? with
  | some (.item it) =>
    (match it.cells.head? with
     | some c =>
       let w := waitPorts s f k
       let v := b2n (w.contains 0) * 128 + b2n (w.contains 1) * 64 + b2n (poison || nbit (u8 it.bytes 6) 5) * 32
       if it.ts = k ∧ v ≠ u8 it.bytes 6 then storeMark (cellPoke s c 6 [byteOf v]) c 0 else s
     | none => s)
  | _ => s

/-- Release a flow's oldest item once no port still has to launch it (R328). -/
def releaseIfDone (s : State) (f k : Nat) : State :=
  if (waitPorts s f k).isEmpty then galRefresh (galFreeFirst s (512 + f) 1) else s

/-- A port's link leaves UP (R328, R331): the frame on its wire is cut, and the packets that still wait for it are struck (log
113). -/
def txCut (s : State) (p : Nat) : State :=
  let x := s.txp.getD p txpReset
  let drop (s : State) (f : Nat) : State :=
    if f < 256 then txCount s f 3 1 [R.TXF.F_STAT.LINKDROP_EV f] else s
  let s := match x.wire with
    | some (f, t) => if s.ticks < t then drop s f else s
    | none => s
  let s := x.wait.foldl (fun s w => drop s w.flow) s
  let s := { s with txp := modifyAt s.txp p fun x => { x with wait := [], wire := none } }
  x.wait.foldl (fun s w => if w.flow < 256 then releaseIfDone (portsMark s w.flow w.k false) w.flow w.k else s) s

/-- A port's link moves to a state, with what it carries and receives. Packets that wait for a port whose link leaves UP are struck
(log 113). -/
def portLink (s : State) (p st : Nat) : State :=
  netLinkDown (if linkUp s p && st != 3 then txCut s p else s) p st

/-- NET_LINK_STATE_CHANGE (R295): the port's link state machine moves; `an` marks the end of a negotiation. -/
def netLinkStateChange (p st : Nat) (an fecLock : Bool) (s : State) : Out3 :=
  let s := s.setFld (R.NET.STAT.FEC_LOCK p) (b2n fecLock)
  let s := if an then s.setFld (R.NET.STAT.AN_EV p) 1 else s
  ok (portLink s p st)

/-- Whether a time lies in a PRIME window of a port: between 1.5 and 3.0 us after a boundary (R324). -/
def inPrime (s : State) (p : Nat) : Bool :=
  let m := s.fld (R.TXF.PORT.PRIME_MCS p)
  if !s.mcsTicks m then false
  else
    let now := s.ptiRaw (s.mcsPti m)
    let d := now - instantOf s m (indexAt s m now)
    decide (1500 * nsUnit ≤ d) && decide (d < 3000 * nsUnit)

/-- Whether a frame of `n` bytes that starts now ends by the port's next PRIME window (R325). -/
def endsBeforePrime (s : State) (p n : Nat) : Bool :=
  let m := s.fld (R.TXF.PORT.PRIME_MCS p)
  if p = 2 || !s.mcsTicks m then true
  else
    let now := s.ptiRaw (s.mcsPti m)
    let k := indexAt s m now
    let w := wireNs s p n * nsUnit
    let d := now - instantOf s m k
    if d < 1500 * nsUnit then decide (d + w ≤ 1500 * nsUnit)
    else !inPrime s p && decide (now + w ≤ instantOf s m (k + 1) + 1500 * nsUnit)

/-- The twin role keeps the device from launching (R401, R402, R406). -/
def twinSilent (s : State) : Bool :=
  let st := s.fld R.TWIN.STAT.STATE
  st == 3 || st == 5 || (st == 1 && s.fld R.TWIN.CFG.ROLE == 2) || decide (s.ticks < s.twin.launchAt)

/-- A launched packet's payload enters its flow's hash (R410). -/
def feedHash (s : State) (f : Nat) (payload : List Byte) : State :=
  let h := sGet (fun _ => 0xFFFFFFFF) s.twin.hashes f
  { s with twin := { s.twin with
      hashes := sPut (fun _ => 0xFFFFFFFF) s.twin.hashes f (crcFeed 0x82F63B78 h payload) } }

/-- PACKET_LAUNCH (R323, R325, R328): a PRIME packet goes out on its ports; a BULK or class packet joins its ports'
queues. A port that is down is struck. A silent twin releases the item unsent (R401). -/
def packetLaunch (s : State) (f : Nat) : State :=
  let q := 512 + f
  let (r, s) := galPop s q
  match r with
  | none => s
  | some (.slug _, _) => galRefresh (galFreeFirst s q 1)
  | some (.item it, bad) =>
    let frame := it.bytes.drop 16
    let s := if bad.isEmpty then s else txCount s f 4 1 []
    let s := if s.fld R.TWIN.CFG.ROLE = 0 then s else feedHash s f (frame.drop (s.fld (R.TXF.F_CHAN.TLEN f)))
    let ports := if twinSilent s then [] else if s.dxPresent && decide (f < 8) then [2] else [0, 1].filter fun p => nbit (u8 it.bytes 6) (7 - p)
    let cls := s.fld (R.TXF.F_CFG.CLASS f)
    let prime := s.flag (R.TXF.F_CFG.TIER f)
    let s := ports.foldl (fun s p =>
      let b := if p = 1 then netbCopy s f frame else frame
      if !linkUp s p then txCount s f 3 1 [R.TXF.F_STAT.LINKDROP_EV f]
      else if prime then launchFrame s f p b
      else
        let s := if cls = 0 ∧ inPrime s p = true then txCount s f 5 1 [R.TXF.F_STAT.SLIP_EV f] else s
        { s with txp := modifyAt s.txp p fun x => { x with wait := x.wait ++ [⟨f, it.ts, cls, b⟩] } }) s
    releaseIfDone (portsMark s f it.ts !bad.isEmpty) f it.ts

/-- PACKET_LAUNCH (R323). -/
def execPacketLaunch (f : Nat) (s : State) : Out3 := ok (packetLaunch s f)

/-- Bring a port's class credits up to date (R327): they grow at idleSlope while a frame of the class waits or the credit
is negative, and stand at zero while the queue is empty (log 111). -/
def creditUpdate (s : State) (p : Nat) : State :=
  let x := s.txp.getD p txpReset
  let dt : Int := 2 * (s.ticks - x.stamp)
  let one (c : Int) (idle cls : Nat) : Int :=
    let v := c + idle * dt
    if x.wait.any (fun w => w.cls == cls) then v else if c < 0 then min 0 v else 0
  { s with txp := modifyAt s.txp p fun x => { x with
      creditA := one x.creditA (s.fld (R.TXF.SHAPE_A.IDLE p)) 1
      creditB := one x.creditB (s.fld (R.TXF.SHAPE_B.IDLE p)) 2
      stamp := s.ticks } }

/-- The waiting frame a port may start now, in the order of R325. -/
def nextFrame (s : State) (p : Nat) : Option TxWait :=
  let x := s.txp.getD p txpReset
  let fit (w : TxWait) : Bool := endsBeforePrime s p w.bytes.length
  let first (cls : Nat) : Option TxWait := x.wait.find? (fun w => w.cls == cls)
  match (if 0 ≤ x.creditA ∧ s.flag (R.TXF.SHAPE_A.IDLE p) then (first 1).filter fit else none) with
  | some w => some w
  | none =>
    match (if 0 ≤ x.creditB ∧ s.flag (R.TXF.SHAPE_B.IDLE p) then (first 2).filter fit else none) with
    | some w => some w
    | none => (first 0).filter fit

/-- The Compositor's queues with a frame for a port, lowest first (R325). The port stands in bits [7:6] of descriptor
byte 6 (log 18). -/
def compositorQueue (s : State) (p : Nat) : Option Nat :=
  ((List.range 32).map (· + 992)).find? fun q =>
    match (s.gq q).elems[(s.gq q).rd]? with
    | some (.item it) => it.live && u8 it.bytes 6 / 64 == p && endsBeforePrime s p (it.bytes.length - 16)
    | _ => false

/-- PORT_FRAME_START (R325, R327): a free port starts the first frame that may start. -/
def execPortFrameStart (p : Nat) (s : State) : Out3 :=
  if !linkUp s p then ok s
  else
    let s := creditUpdate s p
    match nextFrame s p with
    | some w =>
      let s := { s with txp := modifyAt s.txp p fun x => { x with
        wait := x.wait.erase w
        creditA := if w.cls = 1 then
            x.creditA - ((lineKbps s p : Int) - s.fld (R.TXF.SHAPE_A.IDLE p)) * wireNs s p w.bytes.length else x.creditA
        creditB := if w.cls = 2 then
            x.creditB - ((lineKbps s p : Int) - s.fld (R.TXF.SHAPE_B.IDLE p)) * wireNs s p w.bytes.length else x.creditB } }
      ok (if w.flow < 256 then releaseIfDone (portsMark (launchFrame s w.flow p w.bytes) w.flow w.k false) w.flow w.k
        else sendFrame s p w.bytes)
    | none =>
      match compositorQueue s p with
      | none => ok s
      | some q =>
        match galPop s q with
        | (some (.item it, _), s) => ok (galRelease (sendFrame s p (it.bytes.drop 16)) q false)
        | (_, s) => ok s

/-- Whether an address of R348 is multicast. -/
def tbMulticast (s : State) (f : Nat) (v6 : Bool) : Bool :=
  let a := s.fld (R.RED.TB_ADDR.ADDR 0 f) / 2 ^ 24
  if v6 then a == 0xFF else a / 16 == 0xE

/-- A capture's values for a transmit flow's NETB override apply (R348). -/
def tbApply (s : State) (f : Nat) : State :=
  let cfg := R.RED.TB_CFG.reg f
  let ks := [R.RED.TB_ADDR.reg 0 f, R.RED.TB_ADDR.reg 1 f, R.RED.TB_ADDR.reg 2 f, R.RED.TB_ADDR.reg 3 f,
    R.RED.TB_UDP.reg f]
  let drop := R.RED.TB_CFG.CFG_DROPPED f
  if s.fld (R.TXF.F_STAT.STATE f) ≠ 0 then
    (if s.cap.any (fun c => c.key == cfg || ks.contains c.key) then (capDrop s (cfg :: ks)).setFld drop 1 else s)
  else
    let t := capApply s ks
    let t := match capVal s cfg with
      | none => t
      | some v => (capDrop t [cfg]).setFlds [(R.RED.TB_CFG.EN f, bits v.toNat 31 1), (R.RED.TB_CFG.IPV6 f, bits v.toNat 30 1)]
    let named := (capVal s (R.RED.TB_ADDR.reg 0 f)).any (· != 0#32)
    if (t.flag (R.RED.TB_CFG.EN f) || named) && !tbMulticast t f (t.flag (R.RED.TB_CFG.IPV6 f)) then
      (capDrop s (cfg :: ks)).setFld drop 1
    else t.setFlag (R.RED.TB_CFG.ACTIVE f) (t.flag (R.RED.TB_CFG.EN f))

end Sys2Proof.Machine
end

