-- ==== Sys2Proof/Machine/HostLink.lean ====
section
/-! DEFINITION. The PCI Express link and the host channel blocks (R351 to R366). -/

namespace Sys2Proof.Machine

/-- What an unlisted block holds. -/
def hstDefault (_ : Nat) : HostBlk := ⟨0, 0, 0, 0, 0, none⟩

/-- A host block's record. -/
def State.hst (s : State) (i : Nat) : HostBlk := sGet hstDefault s.hsts i

/-- Change it. -/
def State.setHst (s : State) (i : Nat) (x : HostBlk) : State := { s with hsts := sPut hstDefault s.hsts i x }

/-- States of R359. -/
def hstOff : Nat := 0
def hstArmed : Nat := 1
def hstRun : Nat := 2
def hstHeld : Nat := 3
def hstFault : Nat := 4

/-- A host block's state. -/
def hstState (s : State) (i : Nat) : Nat := s.fld (R.HST.B_STAT.STATE i)

/-- Every host block, receive then transmit. -/
def hstAll : List Nat := List.range 64 ++ (List.range 64).map (· + 256)

/-- Whether a block is a transmit block. -/
def hstIsTx (i : Nat) : Bool := 256 ≤ i

/-- A block's queue (R354). -/
def hstQueue (i : Nat) : Nat := if 256 ≤ i then 832 + (i - 256) else 768 + i

/-- Samples per block (R355). -/
def hstN (s : State) (i : Nat) : Nat :=
  ptSamples (s.fld (R.HST.B_CFG.PTIME i)) (s.fld (R.CLK.MCS_CFG.RATE (s.fld (R.HST.B_CFG.MCS i))))

/-- Bytes of a slot: descriptor and words (R356). -/
def hstBytesOf (s : State) (i : Nat) : Nat := 16 + s.fld (R.HST.B_CFG.CHANNELS i) * hstN s i * 4

/-- A ring's stride (R356). -/
def hstStride (s : State) (i : Nat) : Nat := (hstBytesOf s i + 63) / 64 * 64

/-- A block's device index and host index. -/
def hstDev (s : State) (i : Nat) : Nat := s.fld (R.HST.B_IDX.DEV_IDX i)
def hstHost (s : State) (i : Nat) : Nat := s.fld (R.HST.B_IDX.HOST_IDX i)

/-- Host address of the slot of a ring index (R356). -/
def hstSlotAddr (s : State) (i idx : Nat) : Nat :=
  (s.rd (R.HST.B_RING_HI.reg i)).toNat * 2 ^ 32 + (s.rd (R.HST.B_RING_LO.reg i)).toNat / 64 * 64 +
    idx % (max 1 (s.fld (R.HST.B_RING.ENTRIES i))) * hstStride s i

/-- Host address of a block's write-back (R356). -/
def hstWbAddr (s : State) (i : Nat) : Nat :=
  (s.rd (R.HST.B_WB_HI.reg i)).toNat * 2 ^ 32 + (s.rd (R.HST.B_WB_LO.reg i)).toNat / 4 * 4

/-- Count in one of a block's counters of R373, by index, with its event bits. -/
def hstCount (s : State) (i j : Nat) (ev : List Fld) : State :=
  (s.raise ev).countSat { R.HST.B_RETRY.COUNT i with key := (R.HST.B_RETRY.COUNT i).key + 4 * j } (R.HST.B_SAT.SAT i) j

/-- Move a block to a state (R359). -/
def hstGo (s : State) (i st : Nat) : State :=
  if hstState s i = st then s
  else s.setFlds [(R.HST.B_STAT.STATE i, st), (R.HST.B_STAT.STATE_EV i, 1)]

/-- 192 times a block's rate in bytes per second (R357): the factor makes every block time a whole number. -/
def hstRate (s : State) (i : Nat) : Nat :=
  hstBytesOf s i * baseHz (s.fld (R.CLK.MCS_CFG.RATE (s.fld (R.HST.B_CFG.MCS i)))) *
    (192 / [3, 6, 12, 16, 48, 192].getD (s.fld (R.HST.B_CFG.PTIME i)) 6)

/-- Payload rate of the link in MB/s (R357). -/
def linkRate (s : State) : Nat :=
  let w := s.fld R.HST.LINK.WIDTH
  let c := if w = 4 then 0 else if w = 2 then 1 else 2
  match s.fld R.HST.LINK.SPEED with
  | 3 => [3500, 1750, 875].getD c 0
  | 2 => [1780, 890, 445].getD c 0
  | 1 => [890, 445, 222].getD c 0
  | _ => 0

/-- The blocks of a direction that are not OFF. -/
def hstLive (s : State) (tx : Bool) : List Nat :=
  hstAll.filter fun i => hstIsTx i == tx && hstState s i != hstOff

/-- 192 times a direction's admitted rate in bytes per second. -/
def admitted (s : State) (tx : Bool) : Nat := ((hstLive s tx).map (hstRate s)).sum

/-- 192 times the limit of R357 in bytes per second. -/
def rateLimit (s : State) : Nat := linkRate s * s.fld R.HST.CFG.RATE_PCT * 10000 * 192

/-- A quotient as a register shows it: exact, or one of its neighbours (log 13). -/
def shown (a b : Nat) : Nat := a / b + b2n (a % b != 0 && Config.roundUp a)

/-- Refresh RATE_RX and RATE_TX (R357). -/
def hstRates (s : State) : State :=
  let lim := min 65535 (shown (linkRate s * s.fld R.HST.CFG.RATE_PCT) 100)
  s.setFlds [(R.HST.RATE.ADMITTED 0, min 65535 (shown (admitted s false) 192000000)), (R.HST.RATE.LIMIT 0, lim),
    (R.HST.RATE.ADMITTED 1, min 65535 (shown (admitted s true) 192000000)), (R.HST.RATE.LIMIT 1, lim)]

/-- Refresh INFLIGHT and PEAK (R373). -/
def tagsRefresh (s : State) : State :=
  let n := s.reads.length
  s.setFlds [(R.HST.TAGS.INFLIGHT, n), (R.HST.TAGS.PEAK, max n (s.fld R.HST.TAGS.PEAK))]

/-- The limit on outstanding reads (R363). -/
def tagLimit (s : State) : Nat := if s.fld R.HST.CFG.TAGS = 0 then 256 else s.fld R.HST.CFG.TAGS

/-- DMA moves: the link is in L0 and the host domain is on (R353). -/
def dmaOn (s : State) : Bool := s.flag R.HST.LINK.UP && !s.pins.perst && s.domOn 8

/-- A block's outstanding reads are no longer waited for; their tags free on arrival or timeout (R366). -/
def staleReads (s : State) (i : Nat) : State :=
  { s with reads := s.reads.map (fun r => if r.blk == i then { r with live := false } else r) }

/-- Take a block to OFF (R359, R366): queue flushed, indices 0, its outstanding reads no longer waited for. -/
def hstStop (s : State) (i : Nat) : State :=
  let q := hstQueue i
  let s := if s.gq q = gqEmpty then s else galRefresh (galDiscard s q reasonFlushed)
  let s := staleReads s i
  let s := (hstGo s i hstOff).setFlds [(R.HST.B_IDX.DEV_IDX i, 0), (R.HST.B_IDX.HOST_IDX i, 0)]
  hstRates ((s.setHst i (hstDefault 0)).dropUser (if hstIsTx i then 5 else 4) (if hstIsTx i then i - 256 else i))

/-! ### Enables -/

/-- Whether two runs of identifiers meet. -/
def runsMeet (a n b m : Nat) : Bool := decide (a < b + m) && decide (b < a + n)

/-- The checks of R358 on an enable, over the active values. -/
def hstEnableOk (s : State) (i : Nat) : Bool :=
  let m := s.fld (R.HST.B_CFG.MCS i)
  let mult := mcsMult s m
  let base := s.fld (R.HST.B_CFG.BASE i)
  let span := s.fld (R.HST.B_CFG.CHANNELS i) * mult
  let cells := cellsFor (hstBytesOf s i)
  let q := hstQueue i
  s.domOn 8 && !s.pins.perst && s.pers != 1 &&
    decide (2 * cells ≤ s.fld (R.GAL.Q_RES.CELLS q)) &&
    decide (s.fld (R.HST.B_RING.ENTRIES i) * cells ≤ s.fld (R.GAL.Q_CAP.CELLS q)) &&
    base % mult == 0 && decide (base + span ≤ 2048) &&
    ((hstLive s (hstIsTx i)).all fun j => j == i ||
      !runsMeet base span (s.fld (R.HST.B_CFG.BASE j))
        (s.fld (R.HST.B_CFG.CHANNELS j) * mcsMult s (s.fld (R.HST.B_CFG.MCS j)))) &&
    decide (admitted s (hstIsTx i) + hstRate s i ≤ rateLimit s) && s.mcsRuns m

/-- The keys of a block that apply in OFF only (R359). -/
def hstOffKeys (i : Nat) : List Nat :=
  [R.HST.B_RING_LO.reg i, R.HST.B_RING_HI.reg i, R.HST.B_RING.reg i, R.HST.B_WB_LO.reg i, R.HST.B_WB_HI.reg i]

/-- Writes of R373 that are ignored entirely, with CFG_BAD. -/
def hstCfgBad (v : Word) : Bool :=
  6 ≤ bits v.toNat 25 3 || bits v.toNat 0 8 == 0 || 128 < bits v.toNat 0 8

/-- A captured change of a block applies (R358, R359). -/
def hstApply (s : State) (i : Nat) : State :=
  let cfg := R.HST.B_CFG.reg i
  let drop := R.HST.B_STAT.CFG_DROPPED i
  let strided (s : State) : State := s.setFld (R.HST.B_RING.STRIDE i) (hstStride s i)
  if hstState s i = hstOff then
    let s := capApply s (hstOffKeys i)
    match capVal s cfg with
    | none => strided s
    | some v =>
      let old := s.rd cfg
      let s := strided (capApply s [cfg])
      if v.getLsbD 31 && !old.getLsbD 31 then
        (if hstEnableOk s i then
           let m := s.fld (R.HST.B_CFG.MCS i)
           let s := s.setHst i { hstDefault 0 with armedAt := s.ptiRaw (s.mcsPti m) }
           hstRates ((hstGo s i hstArmed).addUser (if hstIsTx i then 5 else 4) (if hstIsTx i then i - 256 else i) m)
         else s.setFlds [(R.HST.B_CFG.EN i, 0), (R.HST.B_STAT.CFG_BAD i, 1)])
      else s
  else
    let ks := hstOffKeys i
    let s := if s.cap.any (fun c => ks.contains c.key) then (capDrop s ks).setFld drop 1 else s
    match capVal s cfg with
    | none => s
    | some v =>
      let keep : Word := 0x80200000#32
      let old := s.rd cfg
      let s := if v &&& ~~~keep ≠ old &&& ~~~keep then s.setFld drop 1 else s
      let s := (capDrop s [cfg]).wr cfg ((old &&& ~~~keep) ||| (v &&& keep))
      if s.flag (R.HST.B_CFG.EN i) then s else hstStop s i

/-- A captured HST.CFG applies. -/
def hstCfgApply (s : State) : State := hstRates (capApply s [R.HST.CFG.reg])

/-! ### Receive blocks -/

/-- The first index of a block at or after `c` that begins a block (R355). -/
def alignUp (c n : Nat) : Nat := (c + n - 1) / n * n

/-- The words of a receive block, channel 0 first within each index (R355): an absent word is free (log 19). -/
def hrWords (s : State) (i k : Nat) : List Byte × State :=
  let m := mcsMult s (s.fld (R.HST.B_CFG.MCS i))
  let base := 0xA00 + s.fld (R.HST.B_CFG.BASE i)
  (List.range (hstN s i)).foldl (fun a j =>
    (List.range (s.fld (R.HST.B_CFG.CHANNELS i))).foldl (fun (a : List Byte × State) c =>
      match destWord s (base + c * m) (k + j) with
      | some (w, _) => (a.1 ++ leBytes 4 w.toNat, a.2)
      | none => let (n, s) := a.2.fresh
                (a.1 ++ leBytes 4 ((Config.freeValue n).toNat % 2 ^ 32), s)) a) ([], s)

/-- TIME of a block's descriptor (R356). -/
def blockTime (s : State) (m pti k : Nat) : Nat :=
  let t : Int := (instantOf s m k : Nat) - (s.ptiRaw (s.mcsPti m) : Nat) + (s.ptiRaw pti : Nat)
  (t / (nsUnit : Int) % (2 ^ 32 : Nat)).toNat

/-- The descriptor of a receive block (R356). -/
def hrDescriptor (s : State) (i k seq : Nat) : List Byte :=
  elemHeader 2 (hstBytesOf s i) ++ leBytes 2 seq ++ [0, byteOf i] ++ leBytes 4 k ++
    leBytes 4 (blockTime s (s.fld (R.HST.B_CFG.MCS i)) (s.fld (R.HST.B_CFG.PTI i)) k)

/-- HR_BLOCK_COMMIT (R360): the block of indices k to k + n - 1 is put in its queue and committed; a full queue drops
and slugs it (R361). -/
def execHrBlockCommit (b : Nat) (s : State) : Out3 :=
  let i := b % 64
  let st := hstState s i
  let n := max 1 (hstN s i)
  let x := s.hst i
  let m := s.fld (R.HST.B_CFG.MCS i)
  if (st = hstRun ∨ st = hstFault) ∧ x.k + n ≤ mcsCount s m then
    let q := hstQueue i
    let (ws, s) := hrWords s i x.k
    let d := s.fld (R.GAL.Q_DROPS.COUNT q)
    let s := galCommit (galPut s q 2 true x.seq x.k (hrDescriptor s i x.k x.seq ++ ws)) q
    let s := if s.fld (R.GAL.Q_DROPS.COUNT q) = d then s else hstCount s i 5 []
    ok (s.setHst i { x with k := x.k + n, seq := (x.seq + 1) % 65536 })
  else ok s

/-- HOST_BLOCK_START (R359): an ARMED block enters RUN at its first aligned index at least 2 SP after the capture. -/
def execHostBlockStart (b : Nat) (s : State) : Out3 :=
  if hstState s b ≠ hstArmed then ok s
  else
    let m := s.fld (R.HST.B_CFG.MCS b)
    let x := s.hst b
    let t := x.armedAt + periods 2 (s.mcsFs m)
    let c := indexAt s m t + b2n (decide (instantOf s m (indexAt s m t) < t))
    let k := alignUp c (max 1 (hstN s b))
    if mcsCount s m < k then ok s else ok (hstGo (s.setHst b { x with k := k }) b hstRun)

/-- The bytes of a slot as they are written (R356): an item with POISONED set if a word of it is poisoned, or the first
16 bytes of a slug. -/
def hrSlotBytes (e : GElem) (bad : List Nat) : List Byte :=
  match e with
  | .item it => if bad.isEmpty then it.bytes else overlay it.bytes 6 [byteOf (u8 it.bytes 6 ||| 0x80)]
  | .slug sl => (slugBytes sl).take 16

/-- Count bytes moved in a direction (R373): 0 written to the host, 1 read. -/
def hstMoved (s : State) (d n : Nat) : State := { s with hstBytes := modifyAt s.hstBytes d (fun c => c + n) }

/-- Count a slot moved. -/
def hstSlot (s : State) (i : Nat) : State :=
  { s with hstSlots := sPut (fun _ => 0) s.hstSlots i (sGet (fun _ => 0) s.hstSlots i + 1) }

/-- HR_SLOT_WRITE (R360): the oldest slot not yet written goes to the ring, then the write-back, then the confirming
read. A slot that is rewritten is not counted again (R366). -/
def execHrSlotWrite (b : Nat) (s : State) : Out3 :=
  let i := b % 64
  let st := hstState s i
  let q := hstQueue i
  let at_ := (s.gq q).rd
  if (st = hstRun ∨ st = hstHeld) ∧ dmaOn s = true ∧ at_ < s.fld (R.HST.B_RING.ENTRIES i) ∧ s.reads.length < tagLimit s then
    match galPop s q with
    | (none, s) => ok s
    | (some (e, bad), s) =>
      let x := s.hst i
      let s := if x.wrote ≤ at_ then
          let s := if e.isSlug then hstCount s i 3 [] else s
          let s := if bad.isEmpty then s else hstCount s i 4 []
          hstSlot (s.setHst i { x with wrote := at_ + 1 }) i
        else s
      let idx := hstHost s i + at_
      let bytes := hrSlotBytes e bad
      let new := (idx + 1) % 65536
      let s := s.setFld (R.HST.B_IDX.DEV_IDX i) ((hstHost s i + (s.hst i).wrote) % 65536)
      let s := s.emit (.hostWrite (hstSlotAddr s i idx) bytes (!bad.isEmpty))
      let s := s.emit (.hostWrite (hstWbAddr s i) (leBytes 4 new) false)
      let s := s.emit (.hostRead (hstWbAddr s i) 4)
      let s := { s with reads := s.reads ++ [⟨i, idx % 65536, 4, true⟩] }
      ok (tagsRefresh (hstMoved s 0 (bytes.length + 4)))
  else ok s

/-- A failed completion on a receive block (R362): every unacknowledged slot is to be rewritten, a retry is counted, and
RETRY failures in a row lead to FAULT. -/
def hrFailed (s : State) (i : Nat) : State :=
  let q := hstQueue i
  let x := s.hst i
  let s := s.setGq q { s.gq q with rd := 0, mark := some 0 }
  let s := staleReads s i
  let s := hstCount (s.setHst i { x with fails := x.fails + 1 }) i 0 [R.HST.B_STAT.RETRY_EV i]
  if s.fld R.HST.CFG.RETRY ≤ x.fails + 1 then (hstGo s i hstFault).setFld (R.HST.B_STAT.FAULT_EV i) 1 else s

/-- The oldest outstanding read of a block, or the one at an offset, taken off the list. -/
def takeRead (p : HostRead → Bool) : List HostRead → Option HostRead × List HostRead
  | [] => (none, [])
  | r :: rs => if p r then (some r, rs) else
      let (x, rest) := takeRead p rs
      (x, r :: rest)

/-- The oldest confirming read of a receive block ends, well or not. -/
def confirmEnd (s : State) (i : Nat) (good : Bool) : State :=
  match takeRead (fun r => r.blk == i) s.reads with
  | (none, _) => s
  | (some r, rest) =>
    let s := tagsRefresh { s with reads := rest }
    if !r.live then s
    else if good then
      let s := s.setHst i { s.hst i with fails := 0 }
      if s.flag (R.HST.B_CFG.NOTIFY i) then s.setFld (R.HST.B_STAT.DATA_EV i) 1 else s
    else if hstState s i = hstRun ∨ hstState s i = hstHeld then hrFailed s i
    else s

/-- CONFIRM_READ_COMPLETION (R362). -/
def execConfirmReadCompletion (b : Nat) (good : Bool) (s : State) : Out3 := ok (confirmEnd s (b % 64) good)

/-- A host index advances over acknowledged slots (R361), or is ignored with BAD_IDX_EV. An OFF block keeps its indices
at 0 (log 20). -/
def hrAck (s : State) (i v : Nat) : State :=
  if hstState s i = hstOff then s
  else
    let h := hstHost s i
    let adv := (v + 65536 - h) % 65536
    if adv ≤ (hstDev s i + 65536 - h) % 65536 then
      let q := hstQueue i
      let s := galRefresh (galFreeFirst s q adv)
      let s := s.setGq q { s.gq q with mark := some 0 }
      let s := s.setHst i { s.hst i with wrote := (s.hst i).wrote - adv }
      s.setFld (R.HST.B_IDX.HOST_IDX i) v
    else s.setFld (R.HST.B_STAT.BAD_IDX_EV i) 1

/-- HR_ACK_WRITE (R361). -/
def execHrAckWrite (b idx : Nat) (s : State) : Out3 := ok (hrAck s (b % 64) (idx % 65536))

/-! ### Transmit blocks -/

/-- The read requests of `len` bytes at an address: none crosses a 512-byte boundary (R363). -/
def splitReads : Nat → Nat → Nat → Nat → List (Nat × Nat)
  | 0, _, _, _ => []
  | n + 1, addr, off, len =>
    if len = 0 then []
    else
      let c := min len (512 - (addr + off) % 512)
      (off, c) :: splitReads n addr (off + c) (len - c)

/-- Issue requests of a block's slot while tags are free (R363). -/
def htIssue (i : Nat) : Nat → State → State
  | 0, s => s
  | n + 1, s =>
    match (s.hst i).fetch with
    | none => s
    | some f =>
      match f.todo with
      | [] => s
      | (off, len) :: rest =>
        if s.reads.length < tagLimit s ∧ dmaOn s = true then
          let s := s.setHst i { s.hst i with fetch := some { f with todo := rest, left := f.left + 1 } }
          let s := s.emit (.hostRead (hstSlotAddr s i (hstDev s i) + off) len)
          htIssue i n { s with reads := s.reads ++ [⟨i, off, len, true⟩] }
        else s

/-- The requests of a whole slot. -/
def slotReads (s : State) (i : Nat) : List (Nat × Nat) :=
  splitReads (hstBytesOf s i / 512 + 2) (hstSlotAddr s i (hstDev s i)) 0 (hstBytesOf s i)

/-- Start reading a block's next filled slot (R363): an item opens and its requests go out. The folio and timestamp
presented are open (log 19). -/
def htStart (s : State) (i : Nat) : State :=
  let s :=
    if hstState s i = hstRun ∧ (s.hst i).fetch.isNone ∧ hstHost s i ≠ hstDev s i ∧ dmaOn s = true then
      let (a, s) := s.fresh
      let (b, s) := s.fresh
      let s := galOpen s (hstQueue i) 2 (some (hstBytesOf s i)) ((Config.freeValue a).toNat % 65536)
        (Config.freeValue b).toNat
      s.setHst i { s.hst i with fetch := some ⟨[], slotReads s i, 0⟩ }
    else s
  tagsRefresh (htIssue i 1024 s)

/-- Every transmit block goes on as far as it can, lowest first. -/
def htPump (s : State) : State :=
  (List.range 64).foldl (fun s b => if hstState s (b + 256) = hstOff then s else htStart s (b + 256)) s

/-- A host index for a transmit block (R363): at most ENTRIES ahead of DEV_IDX. -/
def htProd (s : State) (i v : Nat) : State :=
  if hstState s i = hstOff then s
  else if (v + 65536 - hstDev s i) % 65536 ≤ s.fld (R.HST.B_RING.ENTRIES i) then
    htStart (s.setFld (R.HST.B_IDX.HOST_IDX i) v) i
  else s.setFld (R.HST.B_STAT.BAD_IDX_EV i) 1

/-- HT_PROD_WRITE (R363). -/
def execHtProdWrite (b idx : Nat) (s : State) : Out3 := ok (htProd s (256 + b % 64) (idx % 65536))

/-- A slot is consumed: DEV_IDX advances and is written back (R356, R363). -/
def htConsume (s : State) (i : Nat) : State :=
  let new := (hstDev s i + 1) % 65536
  let s := staleReads s i
  let s := (s.setHst i { s.hst i with fetch := none, fails := 0 }).setFld (R.HST.B_IDX.DEV_IDX i) new
  let s := hstMoved (s.emit (.hostWrite (hstWbAddr s i) (leBytes 4 new) false)) 0 4
  let s := if s.flag (R.HST.B_CFG.NOTIFY i) then s.setFld (R.HST.B_STAT.DATA_EV i) 1 else s
  htStart s i

/-- Drop an inbound queue's leading elements whose indices have all passed, and slugs that lead it. -/
def expireQueue (q n next : Nat) : Nat → State → State
  | 0, s => s
  | fuel + 1, s =>
    let x := s.gq q
    match x.elems.head? with
    | some e =>
      let gone := match e with
        | .item it => it.live && decide (it.ts + n ≤ next)
        | .slug _ => true
      if gone then
        let s := if x.rd = 0 then (galPop s q).2 else s
        expireQueue q n next fuel (galRefresh (galFreeFirst s q 1))
      else s
    | none => s

/-- The first index the imposition table has not passed (R364). -/
def tableNext (s : State) (m : Nat) : Nat := mcsCount s m + 1

/-- A complete slot is committed (R363, R364): its words become the samples of their sources; a block wholly behind the
table is released unused; words after their take point count as late there (R245, R329). -/
def htCommit (s : State) (i : Nat) (b : List Byte) : State :=
  let q := hstQueue i
  let m := s.fld (R.HST.B_CFG.MCS i)
  let n := max 1 (hstN s i)
  let k := nearestClass (u32 b 8) (mcsCount s m)
  let next := tableNext s m
  let s := galWords s q ((b.length + 7) / 8) b
  let put := (s.gq q).elems.any fun e => !e.live
  let s := s.setGq q { s.gq q with
    elems := (s.gq q).elems.map fun e =>
      match e with
      | .item it => if it.live then e else .item { it with ts := k }
      | .slug _ => e }
  let s := galCommit s q
  if !put then hstCount (hstSlot (htConsume s i) i) i 5 []
  else
    let mult := mcsMult s m
    let ch := s.fld (R.HST.B_CFG.CHANNELS i)
    let base := 0xA00 + s.fld (R.HST.B_CFG.BASE i)
    let t := s.flag (R.HST.B_CFG.TRANSP i)
    let s := (List.range n).foldl (fun s j =>
      (List.range ch).foldl (fun s c =>
        let src := base + c * mult
        let s := srcLate s src (k + j)
        if k + j < next then s
        else pushSort s src (k + j) (BitVec.ofNat 32 (u32 b (16 + 4 * (j * ch + c)))) t) s) s
    let s := if k + n ≤ next then hstCount s i 1 [R.HST.B_STAT.LATE_EV i] else s
    hstSlot (htConsume (expireQueue q n next 64 s) i) i

/-- A failed completion on a transmit slot (R365): the item is rewound, the slot is read again whole, a retry is counted,
and RETRY failures in a row lead to FAULT. -/
def htFailed (s : State) (i : Nat) : State :=
  let x := s.hst i
  let s := galRewind s (hstQueue i)
  let s := staleReads s i
  let s := hstCount (s.setHst i { x with fails := x.fails + 1, fetch := none }) i 0 [R.HST.B_STAT.RETRY_EV i]
  if s.fld R.HST.CFG.RETRY ≤ x.fails + 1 then (hstGo s i hstFault).setFld (R.HST.B_STAT.FAULT_EV i) 1 else htStart s i

/-- The descriptor check of R364. -/
def htDescOk (s : State) (i : Nat) (b : List Byte) : Bool :=
  let h := u32 b 0
  let n := max 1 (hstN s i)
  h / 2 ^ 28 == 2 && h % 2 ^ 24 == hstBytesOf s i &&
    nearestClass (u32 b 8) (mcsCount s (s.fld (R.HST.B_CFG.MCS i))) % n == 0

/-- The read of a slot at an offset ends, well or not (R363 to R365). -/
def htEnd (s : State) (i off : Nat) (data : List Byte) (good : Bool) : State :=
  match takeRead (fun r => r.blk == i && r.off == off) s.reads with
  | (none, _) => s
  | (some r, rest) =>
    let s := tagsRefresh { s with reads := rest }
    let s :=
      if !r.live then s
      else
        match (s.hst i).fetch with
        | none => s
        | some f =>
          if !good then htFailed s i
          else
            let d := (data ++ List.replicate r.len 0).take r.len
            let buf := overlay (f.buf ++ List.replicate (hstBytesOf s i - f.buf.length) 0) off d
            let f := { f with buf := buf, left := f.left - 1 }
            let s := hstMoved (s.setHst i { s.hst i with fetch := some f }) 1 r.len
            if off = 0 ∧ !htDescOk s i buf then
              htConsume (hstCount (galRewind s (hstQueue i)) i 2 [R.HST.B_STAT.BAD_DESC_EV i]) i
            else if f.left = 0 ∧ f.todo = [] then htCommit s i buf
            else s
    htPump s

/-- HT_READ_COMPLETION (R363 to R365). A completion with an error status is a failed one. -/
def execHtReadCompletion (b off : Nat) (data : List Byte) (good : Bool) (s : State) : Out3 :=
  ok (htEnd s (256 + b % 64) off data good)

/-- CPL_TIMEOUT (R362, R365): a read outstanding past CPL_TO is a failed completion; `b` numbers the block as HST.B_CFG's
items are, and `off` names the read of a transmit slot. -/
def execCplTimeout (b off : Nat) (s : State) : Out3 :=
  if hstIsTx b then ok (htEnd s b off [] false) else ok (confirmEnd s b false)

/-! ### The link -/

/-- An MCS has moved: blocks follow it between RUN and HELD (R359); SEQ keeps pace with the block periods. -/
def hstFollow (s : State) (m : Nat) : State :=
  hstAll.foldl (fun s i =>
    let st := hstState s i
    if s.fld (R.HST.B_CFG.MCS i) ≠ m then s
    else if st = hstRun ∧ !s.mcsRuns m then hstGo s i hstHeld
    else if st = hstHeld ∧ s.mcsRuns m then
      let x := s.hst i
      let n := max 1 (hstN s i)
      let k := max x.k (alignUp (mcsCount s m + 1) n)
      htStart (hstGo (s.setHst i { x with k := k, seq := (x.seq + (k - x.k) / n) % 65536 }) i hstRun) i
    else if hstIsTx i ∧ st ≠ hstOff then expireQueue (hstQueue i) (max 1 (hstN s i)) (tableNext s m) 64 s
    else s) s

/-- PERST_N's effect on HST (R353). -/
def hstPerst (s : State) : State :=
  let was := s.flag R.HST.LINK.UP
  let s := hstAll.foldl (fun s i =>
    let s := if s.fldSh (R.HST.B_CFG.EN i) = 0 then s else s.setFldSh (R.HST.B_CFG.EN i) 0
    let s := if s.fld (R.HST.B_CFG.EN i) = 0 then s else s.setFld (R.HST.B_CFG.EN i) 0
    if hstState s i = hstOff then s else hstStop s i) s
  let s := { s with reads := [], pins := { s.pins with perst := true, wakeLow := false } }
  let s := s.setFlds [(R.HST.LINK.STATE, 5), (R.HST.LINK.UP, 0), (R.HST.LINK.PERST_EV, 1)]
  tagsRefresh (if was then s.setFld R.HST.LINK.LINK_EV 1 else s)

/-- PD_HOST is off: every block is OFF (R359). -/
def hstPowerOff (s : State) : State :=
  let s := hstAll.foldl (fun s i => if hstState s i = hstOff then s else hstStop s i) s
  tagsRefresh { s with reads := [] }

/-- PCIE_LINK_STATE_CHANGE (R353): the link goes to a state at a speed and width. In DX it is held in reset (R4). -/
def execPcieLinkStateChange (st speed width : Nat) (s : State) : Out3 :=
  if s.pers = 1 ∨ 5 ≤ st ∨ !s.domOn 8 then ok s
  else
    let was := s.flag R.HST.LINK.UP
    let up := st == 2
    let s := { s with pins := { s.pins with perst := false, wakeLow := s.pins.wakeLow && st == 4 } }
    let s := s.setFlds [(R.HST.LINK.STATE, st), (R.HST.LINK.UP, b2n up)]
    let s := if was ≠ up then s.setFld R.HST.LINK.LINK_EV 1 else s
    let s := if up then s.setFlds [(R.HST.LINK.SPEED, speed), (R.HST.LINK.WIDTH, width)] else s
    let s := hstRates s
    let s := if up && (decide (rateLimit s < admitted s false) || decide (rateLimit s < admitted s true)) then
        s.setFld R.HST.LINK.SHORT_EV 1
      else s
    ok (if up then htPump s else s)

end Sys2Proof.Machine
end

