-- ==== Sys2Proof/Machine/Stack.lean ====
section
/-! DEFINITION. Stacking (R374 to R397): links, routing, time, states, judgement and the audio blocks; funnel launch
(R332). -/

namespace Sys2Proof.Machine

/-- A link with no partner. -/
def linkReset : StkLinkRec := ⟨0, 0, 0, [0, 0, 0, 0, 0], [0, 0, 0, 0, 0], [], [], [0, 0, 0, 0], 0, 0, 0, [], []⟩

/-- A link's record: 0 STKU, 1 STKD. -/
def State.slink (s : State) (l : Nat) : StkLinkRec := s.stk.links.getD l linkReset

/-- Change it. -/
def State.setSlink (s : State) (l : Nat) (x : StkLinkRec) : State :=
  { s with stk := { s.stk with links := modifyAt s.stk.links l (fun _ => x) } }

/-- What an unlisted block holds. -/
def stkDefault (_ : Nat) : StkBlk := ⟨0, 0, 0⟩

/-- A stack block's record: 0 to 21 SO, 256 to 277 SI. -/
def State.sblk (s : State) (i : Nat) : StkBlk := sGet stkDefault s.stk.blocks i

/-- A link anew: its counts and timestamps stay (R106, R156). -/
def linkFresh (x : StkLinkRec) : StkLinkRec :=
  { linkReset with txN := x.txN, rxN := x.rxN, rxStamp := x.rxStamp, txStamp := x.txStamp }

/-- Change it. -/
def State.setSblk (s : State) (i : Nat) (x : StkBlk) : State :=
  { s with stk := { s.stk with blocks := sPut stkDefault s.stk.blocks i x } }

/-- Own state, position and role of R385 and R399. -/
def stkState (s : State) : Nat := s.fld R.STK.ID.STATE
def stkPos (s : State) : Nat := s.fld R.STK.ID.POSITION

/-- A link is UP. -/
def stkUp (s : State) (l : Nat) : Bool := s.flag (R.STK.LINK.UP l)

/-- A frame leaves on a link, counted, with its event timestamp (R106, R376, R399). -/
def stkOut (s : State) (l : Nat) (o : Out) : State :=
  (s.setSlink l { s.slink l with txN := (s.slink l).txN + 1, txStamp := eventStamp s true }).emit o

/-- Tell the devices behind the UP links something (R385, R390). -/
def stkTell (s : State) (m : StkMsg) : State :=
  [0, 1].foldl (fun s l => if stkUp s l then stkOut s l (.stkTell l m) else s) s

/-! ### Members and judgement -/

/-- Refresh ROLE, MASTER, MINOR and MEMBERS (R374, R386, R399). -/
def stkRefresh (s : State) : State :=
  let en := s.flag R.STK.CFG.EN
  let st := stkState s
  let pos := stkPos s
  let devs := s.stk.devs
  let master := if st = 5 then pos
    else match devs.find? (fun d => d.role == 1) with
      | some d => d.pos
      | none => s.fld R.STK.ID.MASTER
  let role := if !en then 0 else if st = 5 then 1 else 2
  let minor := (devs.filter fun d => d.state != 7).foldl (fun m d => min m d.minor) (s.fld R.COLO.STKPROTO.MINOR)
  let s := if master = s.fld R.STK.ID.MASTER then s
    else s.setFlds [(R.STK.ID.MASTER, master), (R.STK.STAT.MASTER_EV, 1)]
  let s := s.setFlds [(R.STK.ID.ROLE, role), (R.STK.ID.MINOR, if en then minor else 0)]
  let bitmap (p : StkDev → Bool) (own : Bool) : Nat :=
    (devs.filter p).foldl (fun b d => setBit b d.pos true) (if own then 2 ^ pos else 0)
  if role = 1 then
    s.setFlds [(R.STK.MEMBERS.JOINED, bitmap (fun d => d.state == 3 || d.state == 5) true),
      (R.STK.MEMBERS.MUTED, bitmap (fun d => d.state == 2 || d.state == 4) false),
      (R.STK.MEMBERS.QUAR, bitmap (fun d => d.state == 7) false),
      (R.STK.MEMBERS.PRESENT, bitmap (fun _ => true) true)]
  else s.setFlds [(R.STK.MEMBERS.JOINED, 0), (R.STK.MEMBERS.MUTED, 0), (R.STK.MEMBERS.QUAR, 0), (R.STK.MEMBERS.PRESENT, 0)]

/-- The device's own state changes (R385): STATE_EV and STK_MEMBER, here and at the master. -/
def stkGo (s : State) (st reason : Nat) : State :=
  let old := stkState s
  if old = st then s
  else
    let s := s.setFlds [(R.STK.ID.STATE, st), (R.STK.ID.REASON, if st = 7 then reason else 0), (R.STK.STAT.STATE_EV, 1)]
    let s := if st = 4 ∨ old = 4 then s.setFlds [(R.STK.STAT.TIME_DISAGREE, b2n (st == 4)), (R.STK.STAT.TIME_EV, 1)] else s
    let s := s.event 0xE0A0 [byteOf (stkPos s), byteOf st, byteOf reason]
    stkRefresh (stkTell { s with stk := { s.stk with calm := 0 } } (.memberState (stkPos s) st reason))

/-- Own serial number (R199). -/
def ownSerial (s : State) : Nat := s.flash.serial

/-- Why this device is quarantined, 0 if it is not (R386). -/
def ownVerdict (s : State) : Nat :=
  let pos := stkPos s
  let devs := s.stk.devs
  let isMaster := stkState s == 5
  if devs.any (fun d => d.pos == pos && decide (d.serial < ownSerial s)) then 2
  else if !isMaster && (match devs.find? (fun d => d.role == 1 || d.pos == 0) with
      | some d => d.major != s.fld R.COLO.STKPROTO.MAJOR
      | none => false) then 1
  else if !isMaster && pos != 0 && stkUp s 0 && decide (pos < s.fld (R.STK.LINK.PEER_POS 0)) then 3
  else 0

/-- Why the master quarantines a device, 0 if it does not (R386); `before` is the position of its STKU neighbour. -/
def devVerdict (s : State) (d : StkDev) (before : Nat) : Nat :=
  if d.major ≠ s.fld R.COLO.STKPROTO.MAJOR then 1
  else if s.stk.devs.any (fun e => e.pos == d.pos && decide (e.serial < d.serial)) ||
      (stkPos s == d.pos && decide (ownSerial s < d.serial)) then 2
  else if d.link = 1 ∧ d.pos < before then 3
  else 0

/-- Judge the devices down the chain, each beside its neighbour. -/
def judgeChain (s : State) : Nat → List StkDev → List StkDev
  | _, [] => []
  | before, d :: ds =>
    let r := if d.state = 7 ∧ d.reason = 2 then 2 else devVerdict s d before
    let d' := if r = 0 then d else { d with state := 7, reason := r }
    d' :: judgeChain s (if d.link = 1 then d.pos else before) ds

/-- STK_DISAGREEMENT_JUDGE (R386, R387): the master judges every device; a member applies the judgement to itself. -/
def stkJudge (s : State) : State :=
  let st := stkState s
  let s := if st = 5 then { s with stk := { s.stk with devs := judgeChain s (stkPos s) s.stk.devs } } else s
  let r := if st = 0 ∨ st = 7 then 0 else ownVerdict s
  let s := if r ≠ 0 ∧ (st ≠ 5 ∨ r = 2) then stkGo s 7 r else s
  stkRefresh s

/-- The device looks for the master (R385): it starts to join once the master is known. -/
def stkSeek (s : State) : State :=
  if stkState s = 1 ∧ s.stk.devs.any (fun d => d.role == 1 || d.pos == 0) then stkGo s 2 0 else s

/-! ### Routing -/

/-- Which link a position is reached by (R380): along the chain while it is whole, else the way round. -/
def stkRoute (s : State) (p : Nat) : Option Nat :=
  let own := stkPos s
  let chain := if own < p then 1 else 0
  let cut := s.stk.breaks.any fun b => decide (min own p ≤ b) && decide (b < max own p)
  if stkUp s chain && !cut then some chain
  else if stkUp s (1 - chain) then some (1 - chain)
  else none

/-- The part of a destination bitmap that leaves by a link. -/
def stkPart (s : State) (dest l : Nat) : Nat :=
  (List.range 8).foldl (fun b p => if nbit dest p && p != stkPos s && stkRoute s p == some l then b + 2 ^ p else b) 0

/-- Hops between this device and a position: the longer of the two ring paths with the ring return (R381). -/
def stkHops (s : State) (p : Nat) : Nat :=
  let own := stkPos s
  let all := s.stk.devs.map StkDev.pos
  let chain := max 1 ((all.filter fun q => decide (min own p < q) && decide (q ≤ max own p)).length +
    b2n (decide (p < own)))
  if s.stk.ring then max chain (all.length + 1 - chain) else chain

/-- The link by which a member takes the master's time (R382): of the paths that are UP the one with fewer hops, the chain where
they are equal (log 112). -/
def timeLink (s : State) : Option Nat :=
  let own := stkPos s
  let m := s.fld R.STK.ID.MASTER
  let via := if own < m then 1 else 0
  let all := s.stk.devs.map StkDev.pos
  let chain := (all.filter fun q => decide (min own m < q) && decide (q ≤ max own m)).length + b2n (decide (m < own))
  if s.stk.ring && s.stk.breaks.isEmpty && stkUp s 0 && stkUp s 1 && decide (all.length + 1 - chain < chain) then some (1 - via)
  else stkRoute s m

/-- A frame goes out on a link with its sequence number; CTRL and CHECKPOINT frames are kept for a resend. -/
def stkSend (s : State) (l cls dest src flags : Nat) (item : List Byte) : State :=
  let x := s.slink l
  let f : SynzoTx := ⟨cls, dest, src, flags, x.seq.getD cls 0, item⟩
  let s := s.setSlink l { x with seq := modifyAt x.seq cls (fun n => (n + 1) % 65536) }
  let s := if cls < 3 then s else
    { s with stk := { s.stk with sent := modifyAt s.stk.sent l (fun q => (f :: q).take 64) } }
  stkOut s l (.synzo l f)

/-- Fragments of an item's payload, 8192 bytes each (R377): each frame carries the item's descriptor with one. -/
def fragments : Nat → List Byte → List (List Byte)
  | 0, _ => []
  | n + 1, bs => if bs.length ≤ 8192 then [bs] else bs.take 8192 :: fragments n (bs.drop 8192)

/-- Count a link event of R399 by its index from 0x1_2050, with ERR_EV. -/
def stkCount (s : State) (i : Nat) : State :=
  (s.setFld R.STK.STAT.ERR_EV 1).countSat { R.STK.CRC_ERR.COUNT 0 with key := (R.STK.CRC_ERR.COUNT 0).key + 4 * i }
    R.STK.SAT.SAT_F i

/-- The head frame of a queue waits for credit on a link: counted once (R378, R399). -/
def stkStall (s : State) (q l : Nat) : State :=
  let x := s.slink l
  if x.held.contains q then s else stkCount (s.setSlink l { x with held := q :: x.held }) (4 + l)

/-- The links a destination bitmap needs, with the part each carries. -/
def stkNeeds (s : State) (dest : Nat) : List (Nat × Nat) :=
  ([0, 1].map fun l => (l, stkPart s dest l)).filter fun x => x.2 != 0

/-- The class of an outbound queue (R392), its destinations and its SRC field. -/
def outQueue (s : State) (q : Nat) : Nat × Nat × Nat :=
  let pos := stkPos s
  if q < 918 then (1, s.fld (R.STK.B_ROUTE.DEST (q - 896)), pos + 8 * (q - 896))
  else if q = 920 then (2, 2 ^ s.fld R.STK.ID.MASTER, pos)
  else if q = 918 then (3, 255, pos)
  else (4, match s.stk.devs.find? (fun d => d.link == s.fld R.TWIN.CFG.LINK) with | some d => 2 ^ d.pos | none => 0, pos)

/-- Send what stands at the head of an outbound queue, while the links have credit (R377, R378, R393). A frame held for
credit is counted. -/
def stkDrain (q : Nat) : Nat → State → State
  | 0, s => s
  | n + 1, s =>
    let x := s.gq q
    if x.visible = 0 then s
    else
      match x.elems.head? with
      | none => s
      | some (.slug _) => stkDrain q n (galRefresh (galFreeFirst (galPop s q).2 q 1))
      | some (.item it) =>
        let (cls, dest, src) := outQueue s q
        let needs := stkNeeds s dest
        let cells := it.cells.length
        if needs.isEmpty then s
        else
          let dry := needs.filter fun w => decide ((s.slink w.1).credit.getD (cls - 1) 0 < cells)
          if dry.isEmpty then
            let (r, s) := galPop s q
            let poison : Bool := match r with | some (_, bad) => !bad.isEmpty | none => false
            let s := needs.foldl (fun s w =>
              let y := s.slink w.1
              let s := s.setSlink w.1 { y with
                credit := modifyAt y.credit (cls - 1) (fun c => c - cells), held := y.held.filter (· != q) }
              let parts := (fragments 64 (it.bytes.drop 16)).map (it.bytes.take 16 ++ ·)
              (parts.mapIdx fun i b => (i, b)).foldl (fun s (i, b) =>
                stkSend s w.1 cls w.2 src (b2n poison + 2 * b2n (i + 1 == parts.length)) b) s) s
            let s := if cls = 1 ∧ poison = true then
                s.countSat (R.STK.B_POISONED.COUNT (q - 896)) (R.STK.B_SAT.SAT (q - 896)) 3
              else s
            stkDrain q n (galRefresh (galFreeFirst s q 1))
          else dry.foldl (fun s w => stkStall s q w.1) s

/-- Every outbound queue in the strict priority of R377. -/
def stkPump (s : State) : State :=
  if !stkUp s 0 && !stkUp s 1 then s
  else
    (((List.range 22).map (· + 896)) ++ [920, 918, 919]).foldl (fun s q =>
      if (s.gq q).elems.isEmpty then s else stkDrain q 64 s) s

/-- An item of management data goes out through an outbound queue (R273, R377): a descriptor and its body. -/
def stkPut (s : State) (q kind : Nat) (body : List Byte) : State :=
  stkPump (galRefresh (galCommit (galPut s q kind true 0 0
    (elemHeader kind (16 + body.length) ++ List.replicate 12 0 ++ body)) q))

/-- Whether a packet has been closed for the stack: its item may leave at once. -/
def afterClose (s : State) : State := if (s.gq funnelQueue).elems.isEmpty then s else stkPump s

/-- PACKET_CLOSE (R320): at C, 1.0 us before the packet's launch time. A funnelled packet goes on to the stack (R396). -/
def execPacketClose (f : Nat) (s : State) : Out3 :=
  let pti := s.fld (R.TXF.F_CFG.PTI f)
  if s.fld (R.TXF.F_STAT.STATE f) = 2 ∧
      launchTime s (s.fld (R.TXF.F_CFG.MCS f)) pti (s.txf f).k (max 1 (txN s f)) 0 (s.fld (R.TXF.F_PHASE.E_NS f)) ≤
        ((s.ptiRaw pti + 1000 * nsUnit : Nat) : Int) then
    ok (afterClose (packetClose s f))
  else ok s

/-! ### Audio blocks -/

/-- Whether a block is a stack-in block. -/
def stkIsIn (i : Nat) : Bool := 256 ≤ i

/-- A block's queue (R392). -/
def stkQueue (i : Nat) : Nat := if 256 ≤ i then 928 + (i - 256) else 896 + i

/-- Every stack block. -/
def stkAll : List Nat := List.range 22 ++ (List.range 22).map (· + 256)

/-- A block's state code. -/
def blkState (s : State) (i : Nat) : Nat := s.fld (R.STK.B_STAT.STATE i)

/-- Samples and bytes per block (R393). -/
def stkN (s : State) (i : Nat) : Nat :=
  ptSamples (s.fld (R.STK.B_CFG.PTIME i)) (s.fld (R.CLK.MCS_CFG.RATE (s.fld (R.STK.B_CFG.MCS i))))
def stkWords (s : State) (i : Nat) : Nat := s.fld (R.STK.B_CFG.CHANNELS i) * stkN s i * 4

/-- Move a block to a state (R359, R393). -/
def blkGo (s : State) (i st : Nat) : State :=
  if blkState s i = st then s
  else s.setFlds [(R.STK.B_STAT.STATE i, st), (R.STK.B_STAT.STATE_EV i, 1)]

/-- Count in one of a block's counters of R399, by index, with its event bits. -/
def blkCount (s : State) (i j : Nat) (ev : List Fld) : State :=
  (s.raise ev).countSat { R.STK.B_LATE.COUNT i with key := (R.STK.B_LATE.COUNT i).key + 4 * j } (R.STK.B_SAT.SAT i) j

/-- 192 times the load of a stack-out block in bits per second (R395). -/
def soLoad (s : State) (i : Nat) : Nat :=
  (44 + stkWords s i) * 8 * baseHz (s.fld (R.CLK.MCS_CFG.RATE (s.fld (R.STK.B_CFG.MCS i)))) *
    (192 / [3, 6, 12, 16, 48, 192].getD (s.fld (R.STK.B_CFG.PTIME i)) 6)

/-- The load a device's own stack-out blocks and a funnel budget put on a link, with one block more (R395). -/
def linkFits (s : State) (l i budget : Nat) : Bool :=
  let on := (List.range 22).filter fun b => (b == i || blkState s b != 0) && stkPart s (s.fld (R.STK.B_ROUTE.DEST b)) l != 0
  decide ((on.map (soLoad s)).sum + budget * 192000000 ≤ 19000 * 192000000)

/-- The smallest OFF of a stack-in block (R394). -/
def minOff (s : State) (i : Nat) : Nat :=
  let h := stkHops s (s.fld (R.STK.B_ROUTE.SRC_POS i))
  let fs := s.mcsFs (s.fld (R.STK.B_CFG.MCS i))
  stkN s i + 1 + ((8000 * h + 2000) * fs + 999999999) / 1000000000

/-- The checks on a block's enable (R358, R393 to R395). -/
def blkEnableOk (s : State) (i : Nat) : Bool :=
  let m := s.fld (R.STK.B_CFG.MCS i)
  let mult := mcsMult s m
  let base := s.fld (R.STK.B_CFG.BASE i)
  let span := s.fld (R.STK.B_CFG.CHANNELS i) * mult
  s.domOn 7 && decide (stkWords s i ≤ 8176) &&
    decide (2 * cellsFor (16 + stkWords s i) ≤ s.fld (R.GAL.Q_RES.CELLS (stkQueue i))) &&
    base % mult == 0 && decide (base + span ≤ 2048) &&
    ((stkAll.filter fun j => stkIsIn j == stkIsIn i && j != i && blkState s j != 0).all fun j =>
      !runsMeet base span (s.fld (R.STK.B_CFG.BASE j))
        (s.fld (R.STK.B_CFG.CHANNELS j) * mcsMult s (s.fld (R.STK.B_CFG.MCS j)))) &&
    s.mcsRuns m &&
    (if stkIsIn i then decide (minOff s i ≤ s.fld (R.STK.B_OFFSET.SAMPLES i))
     else linkFits s 0 i (s.fld R.STK.CFG.FUN_BUDGET) && linkFits s 1 i (s.fld R.STK.CFG.FUN_BUDGET))

/-- Take a block to OFF (R359). -/
def blkStop (s : State) (i : Nat) : State :=
  let q := stkQueue i
  let s := if s.gq q = gqEmpty then s else galRefresh (galDiscard s q reasonFlushed)
  ((blkGo s i 0).setSblk i (stkDefault 0)).dropUser (if stkIsIn i then 7 else 6) (if stkIsIn i then i - 256 else i)

/-- Writes of B_CFG that R399 ignores entirely, with CFG_BAD. -/
def blkCfgBad (v : Word) : Bool :=
  6 ≤ bits v.toNat 25 3 || bits v.toNat 0 8 == 0 || 128 < bits v.toNat 0 8

/-- A captured change of a block applies (R359, R393, R394). -/
def blkApply (s : State) (i : Nat) : State :=
  let cfg := R.STK.B_CFG.reg i
  let route := R.STK.B_ROUTE.reg i
  let off := R.STK.B_OFFSET.reg i
  let drop := R.STK.B_STAT.CFG_DROPPED i
  if blkState s i = 0 then
    let s := capApply s [route, off]
    match capVal s cfg with
    | none => s
    | some v =>
      let old := s.rd cfg
      let s := capApply s [cfg]
      if v.getLsbD 31 && !old.getLsbD 31 then
        (if blkEnableOk s i then
           let m := s.fld (R.STK.B_CFG.MCS i)
           ((blkGo s i 1).setSblk i { stkDefault 0 with armedAt := s.ptiRaw (s.mcsPti m) }).addUser
             (if stkIsIn i then 7 else 6) (if stkIsIn i then i - 256 else i) m
         else s.setFlds [(R.STK.B_CFG.EN i, 0), (R.STK.B_STAT.CFG_BAD i, 1)])
      else s
  else
    let ks := [route, off]
    let s := if s.cap.any (fun c => ks.contains c.key) then (capDrop s ks).setFld drop 1 else s
    match capVal s cfg with
    | none => s
    | some v =>
      let keep : Word := 0x80000000#32
      let old := s.rd cfg
      let s := if v &&& ~~~keep ≠ old &&& ~~~keep then s.setFld drop 1 else s
      let s := (capDrop s [cfg]).wr cfg ((old &&& ~~~keep) ||| (v &&& keep))
      if s.flag (R.STK.B_CFG.EN i) then s else blkStop s i

/-- An MCS has moved: stack blocks follow it between RUN and HELD (R359, R393). -/
def stkFollow (s : State) (m : Nat) : State :=
  stkAll.foldl (fun s i =>
    let st := blkState s i
    if s.fld (R.STK.B_CFG.MCS i) ≠ m then s
    else if st = 2 ∧ !s.mcsRuns m then blkGo s i 3
    else if st = 3 ∧ s.mcsRuns m then
      let x := s.sblk i
      let n := max 1 (stkN s i)
      let k := max x.k (alignUp (mcsCount s m + 1) n)
      blkGo (s.setSblk i { x with k := k, seq := (x.seq + (k - x.k) / n) % 65536 }) i 2
    else if stkIsIn i ∧ st ≠ 0 then expireQueue (stkQueue i) (max 1 (stkN s i)) (tableNext s m) 64 s
    else s) s

/-- An ARMED stack block enters RUN at its first aligned index at least 2 SP after the capture (R359, R393). -/
def blkStart (s : State) (i : Nat) : State :=
  if blkState s i ≠ 1 then s
  else
    let m := s.fld (R.STK.B_CFG.MCS i)
    let x := s.sblk i
    let t := x.armedAt + periods 2 (s.mcsFs m)
    let c := indexAt s m t + b2n (decide (instantOf s m (indexAt s m t) < t))
    let k := alignUp c (max 1 (stkN s i))
    if mcsCount s m < k then s else blkGo (s.setSblk i { x with k := k }) i 2

/-- The words of a stack-out block; an absent word is free (log 19). -/
def soWords (s : State) (i k : Nat) : List Byte × State :=
  let m := mcsMult s (s.fld (R.STK.B_CFG.MCS i))
  let base := 0x1200 + s.fld (R.STK.B_CFG.BASE i)
  (List.range (stkN s i)).foldl (fun a j =>
    (List.range (s.fld (R.STK.B_CFG.CHANNELS i))).foldl (fun (a : List Byte × State) c =>
      match destWord s (base + c * m) (k + j) with
      | some (w, _) => (a.1 ++ leBytes 4 w.toNat, a.2)
      | none => let (n, s) := a.2.fresh
                (a.1 ++ leBytes 4 ((Config.freeValue n).toNat % 2 ^ 32), s)) a) ([], s)

/-- SO_ITEM_SEND (R393): the item of indices k to k + n - 1 is committed, sent to the positions of DEST and released. A
muted device sends nothing (R385). The block's TIME is in the PTI its MCS follows. -/
def execSoItemSend (b : Nat) (s : State) : Out3 :=
  let i := b % 22
  let n := max 1 (stkN s i)
  let x := s.sblk i
  let m := s.fld (R.STK.B_CFG.MCS i)
  if blkState s i = 2 ∧ x.k + n ≤ mcsCount s m then
    let x' := { x with k := x.k + n, seq := (x.seq + 1) % 65536 }
    if stkMuted s then ok (s.setSblk i x')
    else
      let q := stkQueue i
      let (ws, s) := soWords s i x.k
      let desc := elemHeader 2 (16 + stkWords s i) ++ leBytes 2 x.seq ++ [0, byteOf i] ++ leBytes 4 x.k ++
        leBytes 4 (blockTime s m (s.mcsPti m) x.k)
      let d := s.fld (R.GAL.Q_DROPS.COUNT q)
      let s := galCommit (galPut s q 2 true x.seq x.k (desc ++ ws)) q
      let s := if s.fld (R.GAL.Q_DROPS.COUNT q) = d then s else blkCount s i 2 [R.STK.B_STAT.DROP_EV i]
      ok (stkPump (s.setSblk i x'))
  else ok s

/-- SI_FRAME_ACCEPT (R393, R394): a stack-in block takes or refuses an AUDIO frame of its source block. -/
def siFrame (s : State) (i flags : Nat) (item : List Byte) (agree : Bool) : State :=
  let m := s.fld (R.STK.B_CFG.MCS i)
  let n := max 1 (stkN s i)
  let off := s.fld (R.STK.B_OFFSET.SAMPLES i)
  let h := u32 item 0
  let k := nearestClass (u32 item 8) (mcsCount s m - off)
  if !agree ∨ h / 2 ^ 28 ≠ 2 ∨ h % 2 ^ 24 ≠ 16 + stkWords s i ∨ k % n ≠ 0 ∨ s.fld (R.CLK.MCS_CFG.REF_TYPE m) ≠ 1 then
    blkCount s i 1 [R.STK.B_STAT.BAD_DESC_EV i]
  else
    let q := stkQueue i
    let next := tableNext s m
    let s := expireQueue q n next 64 s
    let d := s.fld (R.GAL.Q_DROPS.COUNT q)
    let s := galCommit (galPut s q 2 false (u16 item 4) (k + off) item) q
    if s.fld (R.GAL.Q_DROPS.COUNT q) ≠ d then blkCount s i 2 [R.STK.B_STAT.DROP_EV i]
    else
      let s := if nbit flags 0 then blkCount s i 3 [] else s
      let s := if k + off + n ≤ next then blkCount (expireQueue q n next 64 s) i 0 [R.STK.B_STAT.LATE_EV i] else s
      let mult := mcsMult s m
      let ch := s.fld (R.STK.B_CFG.CHANNELS i)
      let base := 0x1200 + s.fld (R.STK.B_CFG.BASE i)
      let t := s.flag (R.STK.B_CFG.TRANSP i)
      let mute := stkMuted s
      (List.range n).foldl (fun s j =>
        (List.range ch).foldl (fun s c =>
          let src := base + c * mult
          let idx := k + off + j
          let w := if mute then 0 else u32 item (16 + 4 * (j * ch + c))
          let s := srcLate s src idx
          if idx < next then s else pushSort s src idx (BitVec.ofNat 32 w) t) s) s

/-- Every running stack-in block that an AUDIO frame's source names takes it. -/
def siAccept (s : State) (src flags : Nat) (item : List Byte) (agree : Bool) : State :=
  ((List.range 22).map (· + 256)).foldl (fun s i =>
    if (blkState s i = 2 ∨ blkState s i = 3) ∧ s.fld (R.STK.B_ROUTE.SRC_POS i) = src % 8 ∧
        s.fld (R.STK.B_ROUTE.SRC_BLOCK i) = src / 8 then
      siFrame s i flags item agree
    else s) s

/-! ### Time -/

/-- The stack's group-12 configuration applies (R374, R385). -/
def stkCfgApply (s : State) : State :=
  let ks := [R.STK.CFG.reg, R.STK.ASYM.reg 0, R.STK.ASYM.reg 1, R.STK.TCFG.reg]
  let was := s.flag R.STK.CFG.EN
  let s := capApply s ks
  let en := s.flag R.STK.CFG.EN
  let s := if (stkPos s = 0 ∨ stkState s = 5) ∧ s.stk.ring ≠ s.flag R.STK.CFG.RING then
      stkTell { s with stk := { s.stk with ring := s.flag R.STK.CFG.RING } } (.ring (s.flag R.STK.CFG.RING))
    else s
  if was && !en then
    let s := [0, 1].foldl (fun s l =>
      let ev := stkUp s l
      let s := (s.setSlink l (linkFresh (s.slink l))).setFlds [(R.STK.LINK.STATE l, 0), (R.STK.LINK.UP l, 0), (R.STK.LINK.PEER_POS l, 0),
        (R.STK.LINK.PEER_PORT l, 0)]
      if ev then s.setFld (R.STK.LINK.LINK_EV l) 1 else s) s
    let s := { s with stk := { s.stk with devs := [], breaks := [], sent := [[], []] } }
    stkRefresh (if stkState s = 7 then s else stkGo s 0 0)
  else if !was && en then
    (if stkState s = 0 ∧ stkPos s = 0 ∧ !s.dxPresent then stkGo s 5 0
     else if stkState s = 0 ∧ (stkUp s 0 ∨ stkUp s 1) then stkSeek (stkJudge (stkGo s 1 0))
     else stkRefresh s)
  else stkRefresh s

/-- An offset to the master, given in ns by the mean link delay, corrected by the asymmetry of the link it came by (R382), in
2^-16 ns: half of the receive minus the transmit delay, as R107 has it. -/
def stkOffset (s : State) (l : Nat) (off : Int) : Int := off * 65536 - s.fldInt (R.STK.ASYM.HALF_NS l) * 16384

/-- A member's PTI is steered by its offset to the master, in 2^-16 ns (R382, R383). -/
def stkSteer (s : State) (n : Nat) (off : Int) : State :=
  let s := s.setFld (R.STK.TOFF.NS n) (ofSigned 32 (off / 65536))
  if !s.flag (R.TIME.PTI_CFG.EN n) then s
  else
    let s := s.setFld (R.TIME.PTI_OFFSET.NS n) (ofSigned 32 (off / 65536))
    if s.flag (R.TIME.PTI_SERVO.EN n) && !s.flag (R.TIME.PTI_STAT.FROZEN n) then servoTake s n off 0 false else s

/-- The master's steps are applied through PTIn_ADJ and a strobe of group 3 (R384). -/
def stkSteps (s : State) (l : List (Nat × Int)) : State :=
  if l.isEmpty then s
  else capture (l.foldl (fun s (n, ns) => s.setFldSh (R.TIME.PTI_ADJ.NS n) (ofSigned 32 ns)) s) 8

/-- Every enabled PTI's offset meets a bound. -/
def offsWithin (s : State) (b : Nat) : Bool :=
  (List.range 4).all fun n => !s.flag (R.TIME.PTI_CFG.EN n) || decide ((s.stk.offs.getD n 0).natAbs ≤ b)

/-- A JOINING device becomes MEMBER (R385). -/
def stkJoin (s : State) : State :=
  if stkState s = 2 ∧ s.stk.mgen = liveGen s ∧ offsWithin s (s.fld R.STK.TCFG.DISAGREE_NS) = true ∧
      ((List.range 4).all fun n => !s.flag (R.TIME.PTI_CFG.EN n) || s.flag (R.TIME.PTI_STAT.LOCKED n)) = true then
    stkGo s 3 0
  else s

/-- STK_TIME_FRAME_RX (R382 to R385, R388): a member takes the master's time. A device that starts to join is judged from the next
frame (R397). -/
def stkTimeRx (s : State) (l : Nat) (offs : List Int) (delay : Nat) (steps : List (Nat × Int)) (gen : Nat) : State :=
  let s := s.setFld (R.STK.DELAY.HALF_NS l) delay
  let st := stkState s
  if st = 5 ∨ st = 0 ∨ !s.flag R.STK.CFG.EN then s
  else
    let s := stkSteps { s with stk := { s.stk with mgen := gen } } steps
    let offs := offs.map (stkOffset s l)
    let s := (List.range 4).foldl (fun s n => stkSteer s n (offs.getD n 0)) s
    let s := { s with stk := { s.stk with offs := offs.map (· / 65536) } }
    let s := { s with stk := { s.stk with
      calm := if offsWithin s (s.fld R.STK.TCFG.REGAIN_NS) then s.stk.calm + 1 else 0 } }
    let s := if st = 6 then stkGo s 2 0 else s
    let s := if st = 3 ∧ offsWithin s (s.fld R.STK.TCFG.DISAGREE_NS) = false then stkGo s 4 0 else s
    if st = 2 then stkJoin s else s

/-- STK_TIME_FRAME_TX (R382): the master sends a TIME frame on each UP link, with the steps since the last one (R384). -/
def execStkTimeFrameTx (s : State) : Out3 :=
  if stkState s ≠ 5 then ok s
  else
    let times := (List.range 4).map fun n => (s.pti n).time
    let s := [0, 1].foldl (fun s l =>
      if stkUp s l then
        stkOut s l (.stkTime l times s.stk.steps (liveGen s))
      else s) s
    ok { s with stk := { s.stk with steps := [] } }

/-- STK_TIME_REGAIN (R388): every offset has stayed within REGAIN_NS for REGAIN x 100 ms, 800 TIME frames each. -/
def execStkTimeRegain (s : State) : Out3 :=
  if stkState s = 4 ∧ 800 * s.fld R.STK.TCFG.REGAIN ≤ s.stk.calm then ok (stkGo s 3 0) else ok s

/-- STK_IDENTIFY_TIMEOUT (R385): 10 ms in IDENTIFY with no master. -/
def execStkIdentifyTimeout (s : State) : Out3 := if stkState s = 1 then ok (stkGo s 6 0) else ok s

/-- STK_MASTER_LOSS (R385): no TIME frame for 1 ms; the member's PTIs unlock (R113) and their MCSs hold over. -/
def stkMasterLoss (s : State) : State :=
  let st := stkState s
  if st = 2 ∨ st = 3 ∨ st = 4 then
    refFalls ((List.range 4).foldl (fun s n =>
      if s.flag (R.TIME.PTI_CFG.EN n) then
        (s.setPti n { s.pti n with goodRun := 0, badRun := 0 }).setFld (R.TIME.PTI_STAT.LOCKED n) 0
      else s) (stkGo s 6 0))
  else s

/-! ### Links -/

/-- STK_LINK_DOWN's link part (R380): traffic reroutes, the devices behind the link are gone unless another way leads
to them, and a device with no link left is DOWN (log 22). -/
def stkLinkDown (s : State) (l : Nat) : State :=
  let was := stkUp s l
  let hop := if l = 1 then stkPos s else s.fld (R.STK.LINK.PEER_POS l)
  let s := s.setFlds [(R.STK.LINK.STATE l, 0), (R.STK.LINK.UP l, 0)]
  if !was then s
  else
    let other := stkUp s (1 - l)
    let s := s.setFld (R.STK.LINK.LINK_EV l) 1
    let devs : List StkDev :=
      if other && s.stk.ring then
        s.stk.devs.filter (fun d => d.link != l) ++
          ((s.stk.devs.filter fun d => d.link == l).map fun (d : StkDev) => { d with link := 1 - l }).reverse
      else s.stk.devs.filter (fun d => d.link != l)
    let s := { s with stk := { s.stk with
      sent := modifyAt s.stk.sent l (fun _ => []), breaks := insertNat hop s.stk.breaks, devs := devs } }
    let s := s.setSlink l (linkFresh (s.slink l))
    let s := if other && s.stk.ring then stkTell (s.setFld R.STK.STAT.REROUTE_EV 1) (.hop hop true) else s
    let st := stkState s
    stkRefresh (if !other && st != 0 && st != 5 && st != 7 then stkGo s 0 0 else s)

/-- STK_LINK_TRAINED's link part (R379, R386): UP with the partner's identity, or REFUSED between two ports of one
name. -/
def stkTrained (s : State) (l port pos serial major minor role gen : Nat) : State :=
  if !s.flag R.STK.CFG.EN ∨ !s.domOn 7 then s
  else
    let s := s.setFlds [(R.STK.LINK.PEER_POS l, pos), (R.STK.LINK.PEER_PORT l, port)]
    if port = l then (stkLinkDown s l).setFld (R.STK.LINK.STATE l) 4
    else
      let s := s.setFlds [(R.STK.LINK.STATE l, 3), (R.STK.LINK.UP l, 1), (R.STK.LINK.LINK_EV l, 1)]
      let s := s.setSlink l { linkFresh (s.slink l) with serial := serial, role := role, gen := gen }
      let hop := if l = 1 then stkPos s else pos
      let old := s.stk.devs.find? fun d => d.serial == serial && d.state == 7
      let dev : StkDev := ⟨pos, serial, major, minor, role, gen, if old.isSome then 7 else 1, (old.map StkDev.reason).getD 0, l⟩
      let s := { s with stk := { s.stk with
        breaks := s.stk.breaks.filter (fun b => b != hop)
        devs := dev :: s.stk.devs.filter (fun d => d.link != l && d.serial != serial) } }
      let s := if stkState s = 0 then stkGo s 1 0 else s
      let s := if stkState s = 7 then stkOut s l (.stkTell l (.memberState (stkPos s) 7 (s.fld R.STK.ID.REASON))) else s
      stkPump (stkSeek (stkJudge s))

/-- A device further on in the stack becomes known (R379). -/
def stkKnow (s : State) (l pos serial major minor role gen : Nat) : State :=
  if serial = ownSerial s then s
  else
    let old := s.stk.devs.find? fun d => d.serial == serial
    let dev : StkDev := ⟨pos, serial, major, minor, role, gen, (old.map StkDev.state).getD 1, (old.map StkDev.reason).getD 0, l⟩
    let devs := match old with
      | some _ => s.stk.devs.map (fun d => if d.serial == serial then dev else d)
      | none => s.stk.devs ++ [dev]
    stkSeek (stkJudge { s with stk := { s.stk with devs := devs } })

/-- A frame for other positions goes on out of the opposite link, or back the way round, under that link's own sequence numbers
(R377, R380). -/
def stkForward (s : State) (l cls dest src flags : Nat) (item : List Byte) : State :=
  let dest := setBit dest (stkPos s) false
  if dest = 0 then s
  else
    let out := if stkUp s (1 - l) then 1 - l else l
    if stkUp s out then stkSend s out cls dest src flags item else s

/-- The inbound queue of a class (R392): AUDIO frames go to their blocks. -/
def inQueue (cls src : Nat) : Option Nat :=
  if cls = 2 then (if src % 8 = 0 then none else some (951 + src % 8))
  else if cls = 3 then some 950
  else if cls = 4 then some 951
  else none

/-- The link asks for a resend of a class from the first frame it lost (R378). -/
def stkAsk (s : State) (l cls : Nat) : State :=
  let x := s.slink l
  stkOut (s.setSlink l { x with asked := insertNat cls x.asked }) l (.stkTell l (.lost cls (x.rseq.getD cls 0)))

/-- A failed frame is counted (R378); the frames lost in a row decide whether the link stays. -/
def stkCrcFail (s : State) (l cls : Nat) : State :=
  let s := stkCount s l
  if cls < 3 ∨ 5 ≤ cls then s
  else
    let x := s.slink l
    let s := stkAsk (s.setSlink l { x with tries := x.tries + 1 }) l cls
    if 4 < x.tries + 1 then stkLinkDown s l else s

/-- A CTRL or CHECKPOINT frame out of its order: one already received, or one after a frame that was lost and is to be sent again
with it (R378). It is not taken; the first after a loss asks for the resend (log 101). -/
def stkDisorder (s : State) (l cls seq : Nat) : State :=
  let x := s.slink l
  if (seq + 65536 - x.rseq.getD cls 0) % 65536 < 32768 ∧ x.asked.contains cls = false then stkAsk s l cls else s

/-- The frame expected of its class has come (R377, R378). -/
def stkTaken (s : State) (l cls : Nat) : State :=
  let x := s.slink l
  s.setSlink l { x with rseq := modifyAt x.rseq cls (fun n => (n + 1) % 65536), asked := x.asked.filter (· != cls) }

/-- The link resends from the first lost frame of a class (R378). -/
def stkResend (s : State) (l cls seq : Nat) : State :=
  let x := s.slink l
  let fs := ((s.stk.sent.getD l []).filter fun f => f.cls == cls && decide ((f.seq + 65536 - seq) % 65536 < 32768)).reverse
  let s := s.setSlink l { x with tries := x.tries + 1 }
  if 4 < x.tries + 1 then stkLinkDown s l
  else fs.foldl (fun s f => stkOut (stkCount s (2 + l)) l (.synzo l f)) s

/-! ### Funnel -/

/-- Take an element out of a queue wherever it stands: a funnel entry reads its own flow's packets. -/
def takeElem (s : State) (q i : Nat) : State :=
  let x := s.gq q
  match x.elems[i]? with
  | none => s
  | some e => galRefresh ((spillElem s e).setGq q { x with elems := x.elems.eraseIdx i })

/-- FUNNEL_LAUNCH (R332, R396): the entry's packet joins its ports as BULK at L(k); one that arrives after its L(k) is
released unsent and counted. -/
def execFunnelLaunch (j : Nat) (late : Bool) (s : State) : Out3 :=
  let j := j % 64
  let q := 951 + s.fld (R.TXF.FUN_CFG.MEMBER j)
  let flow := s.fld (R.TXF.FUN_CFG.FLOW j)
  if !s.flag (R.TXF.FUN_CFG.EN j) ∨ q = 951 then ok s
  else
    let es := ((s.gq q).elems.take (s.gq q).visible).mapIdx fun i e => (i, e)
    match es.find? (fun p => match p.2 with | .item it => u8 it.bytes 7 == flow | .slug _ => false) with
    | some (i, .item it) =>
      let (bad, s) := checkCells s 0 it.cells
      let s := takeElem s q i
      let frame := it.bytes.drop 16
      if late then
        let s := s.setFld (R.TXF.FUN_STAT.FUN_LATE_EV j) 1
        ok (s.count (R.TXF.FUN_STAT.FUN_LATE j))
      else if !bad.isEmpty ∧ frame.isEmpty then ok s
      else
        ok <| ([0, 1].filter fun p => nbit (s.fld (R.TXF.FUN_CFG.PATHS j)) p && linkUp s p && !twinSilent s).foldl
          (fun s p =>
            let b := if p = 1 then
                overlay frame 6 (beBytes 2 (s.fld (R.NET.MAC_HI.ADDR 1) % 65536) ++ beBytes 4 (s.fld (R.NET.MAC_LO.ADDR 1)))
              else frame
            { s with txp := modifyAt s.txp p (fun x => { x with wait := x.wait ++ [⟨256 + j, it.ts, 0, b⟩] }) }) s
    | _ => ok s

end Sys2Proof.Machine
end

