-- ==== Sys2Proof/Machine/Hooks.lean ====
section
/-! DEFINITION. What follows a change of a media clock synthesizer or of a PTP instance, in whatever step it happens:
the events of R227 and the blocks that follow their domain (R263, R307, R309, R330, R359, R393). -/

namespace Sys2Proof.Machine

/-- A domain's blocks follow its MCS as that moves. -/
def mcsFollow (s : State) (n : Nat) : State := stkFollow (hstFollow (txFollow (rxFollow s n) n) n) n

/-- An MCS has moved between two states of the device: the blocks of its domain follow. -/
def mcsMoved (old s : State) (n : Nat) : State := if old.mcsState n = s.mcsState n then s else mcsFollow s n

/-- A PTI's port states, lock or freeze have changed: PTP_STATE. -/
def ptiMoved (old s : State) (n : Nat) : State :=
  if old.rd (R.TIME.PTI_PORT_STATE.reg n) = s.rd (R.TIME.PTI_PORT_STATE.reg n) ∧
      old.fld (R.TIME.PTI_STAT.LOCKED n) = s.fld (R.TIME.PTI_STAT.LOCKED n) ∧
      old.fld (R.TIME.PTI_STAT.FROZEN n) = s.fld (R.TIME.PTI_STAT.FROZEN n) then s
  else
    s.event 0xE050 ([byteOf n, 0, 0, 0] ++ leBytes 4 (s.rd (R.TIME.PTI_STAT.reg n)).toNat ++
      leBytes 4 (s.rd (R.TIME.PTI_PORT_STATE.reg n)).toNat)

/-- The domains that moved between two states. -/
def movedMcs (old s : State) : List Nat := (List.range 8).filter fun n => old.mcsState n != s.mcsState n

/-- Some domain's frequency has moved between two states, so the lanes' ratios have (R262). -/
def freqMoved (old s : State) : Bool :=
  (List.range 8).any fun n => old.rd (R.CLK.MCS_FREQ.reg n) != s.rd (R.CLK.MCS_FREQ.reg n)

/-- Everything that follows a step from `old`. -/
def follow (old s : State) : State :=
  let s := (List.range 4).foldl (ptiMoved old) s
  if (movedMcs old s).isEmpty then (if freqMoved old s then lanesFollow s else s)
  else xdomHold (lanesFollow ((List.range 8).foldl (mcsMoved old) s))

/-- A meaning with what follows it. -/
def followed (o : Out3) (old : State) : Out3 :=
  match o with
  | .next s => .next (follow old s)
  | .fault f => .fault f
  | .refused r => .refused r

/-- PLL_LOSS_OF_LOCK (R84). -/
def execPllLossOfLock (sys : Bool) (s : State) : Out3 := followed (pllLossOfLock sys s) s

/-- SERVO_UPDATE (R113 to R117). -/
def execServoUpdate (n : Nat) (a b m : Option Int) (s : State) : Out3 := followed (servoUpdate n a b m s) s

/-- FREEZE_HOLD_EXPIRY (R116). -/
def execFreezeHoldExpiry (n : Nat) (s : State) : Out3 := followed (freezeHoldExpiry n s) s

/-- ASYM_BOTH_TIMEOUT (R116). -/
def execAsymBothTimeout (n : Nat) (s : State) : Out3 := followed (asymBothTimeout n s) s

/-- PTP_MESSAGE_RX (R106, R107, R112). -/
def execPtpMessageRx (n x : Nat) (exchange : Bool) (s : State) : Out3 := followed (ptpMessageRx n x exchange s) s

/-- ANNOUNCE_RX (R112). -/
def execAnnounceRx (n x : Nat) (ds : List Nat) (gm steps : Nat) (s : State) : Out3 :=
  followed (announceRx n x ds gm steps s) s

/-- ANNOUNCE_TIMEOUT (R112, R113, R347). -/
def execAnnounceTimeout (n x : Nat) (s : State) : Out3 := followed (announceTimeout n x s) s

/-- FAULTY_RECOVER (R112). -/
def execFaultyRecover (n x : Nat) (s : State) : Out3 := followed (faultyRecover n x s) s

/-- PPS_IN_EDGE (R111, R443). -/
def execPpsInEdge (falling : Bool) (s : State) : Out3 := followed (ppsInEdge falling s) s

/-- TIME_HANDBACK (R118). -/
def execTimeHandback (s : State) : Out3 := followed (timeHandback s) s

/-- NET_LINK_STATE_CHANGE (R295): the training of a port also judges the polarity of its lane (R440): `inv`. -/
def execNetLinkStateChange (p st : Nat) (an fecLock inv : Bool) (s : State) : Out3 :=
  followed (netLinkStateChange p st an fecLock (if p < 2 ∧ st = 3 then lanePolarity s p inv else s)) s

/-- WCLK_IN_LOSS (R101, R443): the loss is counted by the guard too. -/
def execWclkInLoss (s : State) : Out3 :=
  if s.flag R.CLK.WCLK_STAT.PRESENT then ok (tioDetect (wclkInLoss s) 0 9) else ok s

/-- MCS_DETECTOR_INTERVAL (R87 to R97): an MCS ends an interval. -/
def execMcsDetectorInterval (n : Nat) (err refPpb freq : Int) (s : State) : Out3 :=
  followed (ok (mcsInterval s n err refPpb freq)) s

/-- STK_MASTER_LOSS (R385, R391): a member is ORPHAN and its PTIs unlock. -/
def execStkMasterLoss (s : State) : Out3 := followed (ok (stkMasterLoss s)) s

/-! ### Values applied at their blocks' boundaries -/

/-- The unit of a group that a captured key belongs to: a TDM direction, a flow, a lane, a port or a block; the shared
registers of a group have unit 512 (RXF and TXF: 256). -/
def unitOf (key : Nat) : Nat :=
  let off := key % 0x1000000
  let item := key / 0x1000000
  if 0x8000 ≤ off ∧ off < 0x9000 then 2 * ((off - 0x8000) / 0x100 % 8) + off / 0x20 % 2
  else if 0xA400 ≤ off ∧ off < 0xB000 then (off - 0xA400) / 12
  else if 0xC100 ≤ off ∧ off < 0xC200 then item
  else if 0xD100 ≤ off ∧ off < 0xD300 then item
  else if 0xC000 ≤ off ∧ off < 0xE000 then 256
  else if 0xE000 ≤ off ∧ off < 0xF800 then (off - 0xE000) / 0x800
  else if 0x10100 ≤ off ∧ off < 0x10200 then item
  else if 0x10200 ≤ off ∧ off < 0x10300 then 256 + item
  else if 0x11100 ≤ off ∧ off < 0x11200 then item
  else if 0x12100 ≤ off ∧ off < 0x12200 then item
  else if 0x10000 ≤ off ∧ off < 0x13000 then 512
  else 0

/-- A port's captured CFG applies and the port retrains (R317): TRAINING, or AN where its MODE negotiates (R293). -/
def netApply (s : State) (p : Nat) : State :=
  match capVal s (R.NET.CFG.reg p) with
  | none => s
  | some _ =>
    let s := capApply s [R.NET.CFG.reg p]
    if s.fld (R.NET.STAT.STATE p) = 0 then s
    else
      let m := s.fld (R.NET.CFG.MODE p)
      match netLinkStateChange p (if (m = 3 ∨ m = 4) ∧ s.flag (R.NET.CFG.AN_EN p) = true then 2 else 1) false false s with
      | .next t => t
      | _ => s

/-- Captured funnel entries apply (R332, R334): an entry that is not in use counts nothing. -/
def funApply (s : State) : State :=
  (List.range 64).foldl (fun s j => capApply s [R.TXF.FUN_CFG.reg j, R.TXF.FUN_PHASE.reg j]) s

/-- The twin enters another state, with its sources and its event (R402). -/
def twinGo (s : State) (st : Nat) : State :=
  if s.fld R.TWIN.STAT.STATE = st then s
  else
    let s := s.setFlds [(R.TWIN.STAT.STATE, st), (R.TWIN.STAT.STATE_EV, 1)]
    let role := s.fld R.TWIN.CFG.ROLE
    let s := if st = 4 ∨ st = 5 then s.setFld R.TWIN.STAT.TAKE_EV 1 else s
    s.event 0xE0B0 ([byteOf role, byteOf (s.fld R.TWIN.STAT.CAUSE), 0, 0] ++ leBytes 4 (s.fld R.TWIN.TAKEOVER_GEN.GEN))

/-- A captured write of TWIN.CFG: ROLE and LINK only in NONE or PAIRING, else they are discarded with CFG_DROPPED
(R413). -/
def twinCfgTake (s : State) (free : Bool) (v : Word) : State :=
  let old := s.rd R.TWIN.CFG.reg
  let mask : Word := 0xE0000000#32
  if free then s.wr R.TWIN.CFG.reg v
  else
    (if v &&& mask == old &&& mask then s else s.setFld R.TWIN.STAT.CFG_DROPPED 1).wr R.TWIN.CFG.reg
      ((v &&& ~~~mask) ||| (old &&& mask))

/-- The twin block's capture (R413): with ROLE 1 or 2 the device enters PAIRING, with 0 it enters NONE (R402). -/
def twinApply (s : State) : State :=
  let cfg := R.TWIN.CFG.reg
  let free := s.fld R.TWIN.STAT.STATE < 2
  let s := capApply s [R.TWIN.SHARE.reg, R.TWIN.HCFG.reg]
  let s := match capVal s cfg with
    | none => s
    | some v => twinCfgTake (capDrop s [cfg]) free v
  let role := s.fld R.TWIN.CFG.ROLE
  let s := if free then twinGo s (if role = 0 then 0 else 1) else s
  oeRefresh s

/-- The keys of GRD in group 0. -/
def grdKeys : List Nat := [R.GRD.CTL.reg, R.GRD.PROBE.reg, R.GRD.AUTOSWAP.reg, R.GRD.LANE_CFG.reg]

/-- One unit of a group takes its captured values (R122, R141). -/
def takeUnit (s : State) (g u : Nat) : State :=
  if g = 0 then capApply s grdKeys
  else if g = 1 then capApply s [R.IMP.GEN.reg]
  else if g = 4 ∨ g = 5 then tdmApply s (u / 2 % 8 + 8 * (g - 4)) (u % 2 == 1)
  else if g = 6 then rxApply s (u % 256)
  else if g = 7 then (if u < 256 then txApply s u else funApply (txPortApply s))
  else if g = 8 then
    (match capVal s (R.KRN.L_CFG.reg (u % 256)) with
     | some v => laneApply (capDrop s [R.KRN.L_CFG.reg (u % 256)]) (u % 256) v
     | none => s)
  else if g = 9 then
    (if u < 256 then capApply s [R.RED.F_CFG.reg u]
     else if u < 512 then tbApply s (u - 256)
     else capApply s [R.RED.CFG.reg])
  else if g = 10 then netApply s (u % 3)
  else if g = 11 then (if u = 512 then hstCfgApply s else hstApply s u)
  else if g = 12 then (if u = 512 then stkCfgApply s else blkApply s u)
  else if g = 13 then twinApply s
  else if g = 14 then capApply s [R.FRM.CFG.reg]
  else if g = 15 then
    (match capVal s R.GAL.CFG.reg with
     | some v =>
       let s := capDrop s [R.GAL.CFG.reg]
       protApply (protApply s 0 (R.GAL.CFG.PROT0.of v != 0)) 1 (R.GAL.CFG.PROT1.of v != 0)
     | none => s)
  else s

/-- One unit of a group applies its captured values; a flow or block of channels that so changes its media clock or its use can
leave a route crossing domains, which is then held (R259). -/
def applyUnit (s : State) (g u : Nat) : State :=
  if g = 6 ∨ g = 7 ∨ g = 11 ∨ g = 12 then xdomHold (takeUnit s g u) else takeUnit s g u

/-- A running flow meets the boundary of its last capture (R122): the next packet it makes, or the next it is to receive, has a media
timestamp at or after the strobe's time. -/
def atBoundary (s : State) (g u : Nat) : Bool :=
  if g = 7 ∧ u < 256 ∧ s.fld (R.TXF.F_STAT.STATE u) = 2 then
    let m := s.fld (R.TXF.F_CFG.MCS u)
    decide (strobeTime s 7 m ≤ instantOf s m (s.txf u).k)
  else if g = 6 ∧ u < 256 ∧ s.flag (R.RXF.F_STAT.STATE u) = true then
    let m := s.fld (R.RXF.F_CFG.MCS u)
    match ((s.flow u).next.getD 0 none), ((s.flow u).next.getD 1 none) with
    | none, none => true
    | a, b => decide (strobeTime s 6 m ≤ instantOf s m (max (a.getD 0) (b.getD 0)))
  else true

/-- The units of a group that have captured values, each once. -/
def waitingUnits (s : State) (g : Nat) : List Nat :=
  (s.cap.filter fun c => c.grp == g).foldl (fun l c => insertNat (unitOf c.key) l) []

/-- Every unit of a group applies its captured values now. -/
def applyGroup (s : State) (g : Nat) : State :=
  let s := (waitingUnits s g).foldl (fun s u => applyUnit s g u) s
  pendRefresh { s with marks := s.marks.filter fun m => m.1 != g }

/-- Every captured value that needs no audio boundary applies (all groups but the imposition table's entries). -/
def applyAll (s : State) : State :=
  [0, 15, 10, 14, 8, 6, 7, 9, 11, 12, 13, 4, 5].foldl applyGroup s

/-- SHADOW_APPLY_AT_BOUNDARY (R122, R142): one unit of a group meets its boundary. -/
def execShadowApplyAtBoundary (g u : Nat) (s : State) : Out3 :=
  if (s.cap.any (fun c => c.grp == g && unitOf c.key == u) ∨ (g, u) ∈ s.marks) ∧ atBoundary s g u = true then
    let t := applyUnit s g u
    followed (ok (pendRefresh { t with marks := t.marks.filter (· != (g, u)) })) s
  else ok s

/-- A strobe of a set of groups (R141), with what follows the groups that apply at once. -/
def strobe (s : State) (groups : Nat) : State := follow s (capture s (groups % 65536))

/-- UPDATE_STROBE (R141): a write of REGIF.UPDATE. -/
def execUpdateStrobe (groups : Nat) (s : State) : Out3 := ok (strobe s groups)

/-! ### Platens -/

/-- The fire of a platen (R119): its groups' strobe leaves for CK_CORE (R122), a TDM group starts, a GPIO is pulsed; then
it disarms, or moves to the next time of its grid. -/
def platenFire (s : State) (k : Nat) : State :=
  let n := s.fld (R.TIME.PL_CFG.PTI k)
  let t := plFire s k
  let s := if s.flag (R.TIME.PL_CFG.ACT_UPD k) then
      s.setPl k { s.pl k with inflight := s.fld (R.TIME.PL_GROUPS.UPD k), fired := t }
    else s
  let s := if s.flag (R.TIME.PL_CFG.ACT_TDM k) then groupStart s (s.fld (R.TIME.PL_CFG.ALIGN k)) n t else s
  let s := if s.flag (R.TIME.PL_CFG.ACT_GPIO k) then s.emit (.gpioPulse (s.fld (R.TIME.PL_CFG.SRC k)) (s.fld (R.TIME.PL_CFG.WIDTH k))) else s
  let s := s.setFld (R.TIME.PL_STAT.FIRED_EV k) 1
  if s.fld (R.TIME.PL_CFG.MODE k) = 2 then setPlFire s k (t + plPeriod s k)
  else s.setFld (R.TIME.PL_CFG.ARM k) 0

/-- Whether a platen's fire time has come (R119). -/
def plDue (s : State) (k : Nat) : Bool :=
  let m := s.fld (R.TIME.PL_CFG.MODE k)
  s.flag (R.TIME.PL_CFG.ARM k) && (m == 1 || m == 2) && decide (plFire s k ≤ s.ptiRaw (s.fld (R.TIME.PL_CFG.PTI k)))

/-- The fire time of the first platen whose strobe of a group is on its way, with its PTI (R122). -/
def fireTime (s : State) (g : Nat) : Nat × Nat :=
  match (List.range 16).find? fun k => nbit (s.pl k).inflight g with
  | some k => (s.fld (R.TIME.PL_CFG.PTI k), (s.pl k).fired)
  | none => (0, s.ptiRaw 0)

/-- PLATEN_STROBE_ARRIVAL (R122): the strobes of every platen on the way arrive as one capture of their union, which blocks apply
from the fire time on. -/
def execPlatenStrobeArrival (s : State) : Out3 :=
  let groups := s.platens.foldl (fun g p => g ||| p.inflight) 0
  if groups = 0 then ok s
  else
    let t := { s with platens := s.platens.map fun p => { p with inflight := 0 } }
    ok (follow s (captureAt t (groups % 65536) (fireTime s)))

end Sys2Proof.Machine
end

