-- ==== Sys2Proof/Machine/Fw.lean ====
section
/-! DEFINITION. What firmware does for every command (R185 to R187, R196 to R213): the outstanding commands, the order of
their checks, results and events, the working forme, its generation and the forme image of R414. -/

namespace Sys2Proof.Machine

/-! ### Status codes (R187) -/

def stOk : Nat := 0
def stAccepted : Nat := 1
def stBadOpcode : Nat := 0x10
def stBadArg : Nat := 0x11
def stBadLength : Nat := 0x12
def stNoRes : Nat := 0x20
def stNoMem : Nat := 0x21
def stGenMis : Nat := 0x30
def stLocked : Nat := 0x31
def stWrongPhase : Nat := 0x32
def stTimeout : Nat := 0x40
def stQuar : Nat := 0x41
def stHw : Nat := 0x50

/-! ### Who may change a block -/

/-- Quoins are in force in SERVICE, and in every phase once it has been seen (R148). -/
def quoinsOn (s : State) : Bool := s.phase == 1 || s.flag R.SYS.PHASE.SERVICE_SEEN

/-- The quoin of a block, in the bit order of QUOIN0 (0 to 31) and QUOIN1 (32 to 47), is in force. -/
def quoinIn (s : State) (b : Nat) : Bool :=
  quoinsOn s && (if b < 32 then nbit (s.fld R.REGIF.QUOIN0.LOCK) b else nbit (s.fld R.REGIF.QUOIN1.LOCK) (b - 32))

/-- The host owns a block, in the same order (R132). -/
def hostOwns (s : State) (b : Nat) : Bool :=
  if b < 32 then nbit (s.fld R.REGIF.HOST_OWN0.OWN) b else nbit (s.fld R.REGIF.HOST_OWN1.OWN) (b - 32)

/-- A block firmware may not write: check 6 of R210. -/
def blockLocked (s : State) (b : Nat) : Bool := quoinIn s b || hostOwns s b

/-- Block numbers in quoin order (R148). -/
def bSYS : Nat := 0
def bPWR : Nat := 1
def bCLK : Nat := 2
def bTIME : Nat := 3
def bIMP : Nat := 4
def bKRN : Nat := 5
def bGAL : Nat := 6
def bRXF : Nat := 7
def bTXF : Nat := 8
def bNETA : Nat := 9
def bNETB : Nat := 10
def bMGMT : Nat := 11
def bRED : Nat := 12
def bHST : Nat := 13
def bSTK : Nat := 14
def bTWIN : Nat := 15
def bGRD : Nat := 16
def bFRM : Nat := 17
def bREGIF : Nat := 18

/-- The quoin number of the block that holds an offset; none for COLO, IRQ, MBX and the DX window. -/
def quoinOf (off : Nat) : Option Nat :=
  if 0x1000 ≤ off ∧ off < 0x2000 then some bSYS
  else if 0x2000 ≤ off ∧ off < 0x3000 then some bPWR
  else if 0x3000 ≤ off ∧ off < 0x4000 then some bREGIF
  else if 0x6000 ≤ off ∧ off < 0x7000 then some bCLK
  else if 0x7000 ≤ off ∧ off < 0x8000 then some bTIME
  else if 0x8000 ≤ off ∧ off < 0x9000 then some (32 + (off - 0x8000) / 0x100)
  else if 0x9000 ≤ off ∧ off < 0xA000 then some bIMP
  else if 0xA000 ≤ off ∧ off < 0xB000 then some bKRN
  else if 0xB000 ≤ off ∧ off < 0xC000 then some bGAL
  else if 0xC000 ≤ off ∧ off < 0xD000 then some bRXF
  else if 0xD000 ≤ off ∧ off < 0xE000 then some bTXF
  else if 0xE000 ≤ off ∧ off < 0xE800 then some bNETA
  else if 0xE800 ≤ off ∧ off < 0xF000 then some bNETB
  else if 0xF000 ≤ off ∧ off < 0x10000 then some bMGMT
  else if 0x10000 ≤ off ∧ off < 0x11000 then some bRED
  else if 0x11000 ≤ off ∧ off < 0x12000 then some bHST
  else if 0x12000 ≤ off ∧ off < 0x13000 then some bSTK
  else if 0x13000 ≤ off ∧ off < 0x14000 then some bTWIN
  else if 0x14000 ≤ off ∧ off < 0x15000 then some bGRD
  else if 0x15000 ≤ off ∧ off < 0x16000 then some bFRM
  else none

/-- The device runs NATIVE+DX, where DX owns resources native commands may not change (R211, R447). -/
def coDx (s : State) : Bool := s.pers == 2

/-- A destination that is DX-owned (R447): the first flow identifiers and the slots of TDM0 and TDM1. -/
def dxDest (d : Nat) : Bool := decide (d < 0x40) || (decide (0x800 ≤ d) && decide (d < 0x840))

/-! ### Commands and their results -/

/-- The channel of a slot: its owner (R188, R196). -/
def slotChan (s : State) (k : Nat) : Nat := b2n (nbit (s.fld R.MBX.SLOT_OWN.CTL) k)

/-- The slot mailbox is being served: by firmware, or by the ROM in RECOVERY (R205). -/
def serving (s : State) : Bool := s.mbx.restart == 0 && (s.flag R.MBX.STAT.FW_READY || s.phase == 3)

/-- The length of an image fits (R200): a header of 256 bytes and a body of at most 768 KiB. -/
def imageFits (n : Nat) : Bool := decide (256 ≤ n) && decide (n ≤ 256 + 786432)

/-- An image of `n` bytes verifies (R200): `sec` is the security version in the header of an image whose signature is valid, and
none where the signature is not. -/
def imageVerifies (s : State) (n : Nat) (sec : Option Nat) : Bool :=
  match sec with
  | none => false
  | some v => decide (s.flash.minSec ≤ v) && imageFits n

/-- A command that was taken and has not run, by channel (0 PCIe slots, 1 CTL slots, 2 ring) and tag. -/
def takenCmd (s : State) (ch tag : Nat) : Option Cmd :=
  s.mbx.cmds.find? fun c => c.chan == ch && c.tag == tag && c.phase == .taken

/-- A command that answered ACCEPTED and has not ended. -/
def acceptedCmd (s : State) (ch tag : Nat) : Option Cmd :=
  s.mbx.cmds.find? fun c => c.chan == ch && c.tag == tag && c.phase == .accepted

/-- Change the record of an outstanding command. -/
def setCmd (s : State) (ch tag : Nat) (f : Cmd → Cmd) : State :=
  { s with mbx := { s.mbx with cmds := s.mbx.cmds.map fun c => if c.chan == ch && c.tag == tag then f c else c } }

/-- Where a result goes: slot 0 to 7, or 8 for the ring. -/
def Cmd.place (c : Cmd) : Nat := if c.chan = 2 then 8 else c.slot

/-- A response of a command (R186). -/
def Cmd.msg (c : Cmd) (s : State) (status : Nat) (data : List Byte) : Msg :=
  ⟨c.opcode, c.tag, status, liveGen s, if c.chan = 2 then c.slot else 0, data⟩

/-- Queue a result for its slot or for the completion ring. -/
def pushReady (s : State) (place : Nat) (m : Msg) : State :=
  { s with mbx := { s.mbx with ready := s.mbx.ready ++ [(place, m)] } }

/-- Queue the final event of an ACCEPTED command on its channel (R198): it is never dropped. -/
def pushFinal (s : State) (ch : Nat) (m : Msg) : State :=
  let q := s.evtq ch
  s.setEvtq ch { q with queue := q.queue ++ [m] }

/-- A command ends (R186, R198): its result is ready as a response or a completion, or as an event once ACCEPTED has
been answered. -/
def endCmd (s : State) (ch tag status : Nat) (data : List Byte) : State :=
  match s.mbx.cmds.find? fun c => c.chan == ch && c.tag == tag && c.phase != .done with
  | none => s
  | some c =>
    let late := c.phase == .accepted
    let s1 := setCmd s ch tag fun c => { c with phase := .done, status := status, result := data, late := late }
    if late then pushFinal s1 ch (c.msg s status data) else pushReady s1 c.place (c.msg s status data)

/-- A command answers ACCEPTED and goes on (R198, R212). -/
def acceptCmd (s : State) (ch tag : Nat) : State :=
  match takenCmd s ch tag with
  | none => s
  | some c => pushReady (setCmd s ch tag fun c => { c with phase := .accepted }) c.place (c.msg s stAccepted [])

/-! ### The forme image (R414) -/

/-- A register that a forme holds: one with QL or covered fields, of a block a forme configures. -/
def formeMask (key : Nat) : Word :=
  let off := key % 0x1000000
  match regFind off with
  | none => 0
  | some (r, _) =>
    if off < 0x2000 ∨ (0x3000 ≤ off ∧ off < 0x6000 ∧ off ≠ 0x5060) ∨ off = 0x15000 then 0
    else r.mask fun f => f.acc == .sh || ((r.cov || f.ql) && f.acc == .rw)

/-- What a forme holds of a register: shadows for SH bits, active values for the others. PROT1 reads 1 while DX is present
(R286). -/
def formeWord (s : State) (key : Nat) : Word :=
  let m := formeMask key
  let w := match groupOf key with
    | some (_, sm) => ((s.rdSh key &&& sm) ||| (s.rd key &&& ~~~sm)) &&& m
    | none => s.rd key &&& m
  if key = R.GAL.CFG.reg ∧ s.dxPresent = true ∧ w ≠ 0 then w ||| 2#32 else w

/-- The default of a forme's register: its reset value. -/
def formeDefault (key : Nat) : Word := regDefault key &&& formeMask key

/-- The low word of an unlisted imposition entry in a forme. -/
def formeImpDefault (_ : Nat) : Word := 0xFFFF0000#32

/-- Keys whose forme word differs between two states. -/
def formeChanges (old new : State) : List Nat :=
  ((listedKeys old).foldl (fun l k => insertNat k l) (listedKeys new)).filter fun k =>
    formeWord old k != formeWord new k

/-- The working forme takes what a command changed between two states (R213). -/
def recordWork (old s : State) : State :=
  let w := s.fw.work
  let regs := (formeChanges old s).foldl (fun m k => sPut formeDefault m k (formeWord s k)) w.regs
  let ds := (impListed old).foldl (fun l d => insertNat d l) (impListed s)
  let imps := ds.foldl (fun m d =>
    if (old.imp d).shadow = (s.imp d).shadow then m else sPut formeImpDefault m d (s.imp d).shadow) w.imps
  { s with fw := { s.fw with work := { w with
      regs := regs, imps := imps, keys := if old.cls = s.cls then w.keys else s.cls } } }

/-- The selector register that names an item of a register (R151). -/
def selReg : Selector → Option Nat
  | .one => none
  | .init => none
  | .galQ => some R.GAL.QSEL.reg
  | .rxf => some R.RXF.FSEL.reg
  | .txf => some R.TXF.FSEL.reg
  | .redF => some R.RED.FSEL.reg
  | .redT => some R.RED.TSEL.reg
  | .hstB => some R.HST.BSEL.reg
  | .stkB => some R.STK.BSEL.reg

/-- A section (R414). -/
def section_ (block kind : Nat) (data : List Byte) : List Byte :=
  if data.isEmpty then []
  else leBytes 2 block ++ [byteOf kind, 0] ++ leBytes 4 data.length ++ data

/-- The register pairs of one key: an item's selector is written before its register (log 24). -/
def regPairs (p : Nat × Word) : List Byte :=
  let off := p.1 % 0x1000000
  let pre := match regFind off with
    | some (r, _) =>
      (match selReg r.sel with
       | some k => leBytes 4 k ++ leBytes 4 (p.1 / 0x1000000)
       | none => [])
    | none => []
  pre ++ leBytes 4 off ++ leBytes 4 p.2.toNat

/-- The bytes of a forme after its header (log 24). -/
def FormeImg.body (f : FormeImg) : List (List Byte) :=
  ((List.range 48).map fun b => section_ b 0 ((f.regs.filter fun p => p.1 % 0x1000000 / 0x1000 == b).flatMap regPairs)) ++
    [section_ 0x09 1 (f.imps.flatMap fun p => leBytes 4 p.1 ++ leBytes 4 p.2.toNat),
     section_ 0x0C 2 (f.keys.flatMap fun p => leBytes 4 p.1 ++ leBytes 4 p.2.toNat),
     section_ 0x0C 3 (f.rx.flatMap Prod.snd), section_ 0x0D 3 (f.tx.flatMap Prod.snd),
     section_ 0x12 4 (f.members.flatMap fun p =>
       leBytes 4 p.1 ++ leBytes 4 p.2.stored ++ leBytes 4 p.2.gen ++ leBytes 4 p.2.crc ++ leBytes 4 p.2.diff.length ++
         p.2.diff)]

/-- A forme's image (R414). -/
def FormeImg.image (f : FormeImg) : List Byte :=
  let secs := f.body.filter fun b => !b.isEmpty
  let body := secs.flatten
  let head := leBytes 4 0x454D524F ++ leBytes 2 0x0100 ++ [byteOf f.pers, byteOf f.phase] ++ leBytes 4 f.gen ++
    leBytes 4 (64 + body.length)
  let tail := leBytes 4 secs.length ++ List.replicate 40 0 ++ body
  head ++ leBytes 4 (crc32c (head ++ tail)) ++ tail

/-- A forme with nothing in it (R415). -/
def formeEmpty (pers : Nat) : FormeImg := ⟨pers, 1, 0, [], [], [], [], [], []⟩

/-- Pairs of u32 of a section. -/
def pairsOf : Nat → List Byte → List (Nat × Nat)
  | 0, _ => []
  | n + 1, b => if b.length < 8 then [] else (u32 b 0, u32 b 4) :: pairsOf n (b.drop 8)

/-- Records of 48 bytes. -/
def recordsOf : Nat → List Byte → List (List Byte)
  | 0, _ => []
  | n + 1, b => if b.length < 48 then [] else b.take 48 :: recordsOf n (b.drop 48)

/-- Read register pairs: the selectors' present items are carried along. -/
def readRegs : List (Nat × Nat) → (Nat → Nat) → FormeImg → FormeImg
  | [], _, f => f
  | (off, v) :: ps, sel, f =>
    if [R.GAL.QSEL.reg, R.RXF.FSEL.reg, R.TXF.FSEL.reg, R.RED.FSEL.reg, R.RED.TSEL.reg, R.HST.BSEL.reg, R.STK.BSEL.reg].contains off
    then readRegs ps (fun k => if k = off then v else sel k) f
    else
      let item := match regFind off with
        | some (r, _) => (match selReg r.sel with | some k => sel k | none => 0)
        | none => 0
      let key := itemKey off item
      readRegs ps sel { f with regs := sPut formeDefault f.regs key (BitVec.ofNat 32 v &&& formeMask key) }

/-- Read member records. -/
def readMembers : Nat → List Byte → FormeImg → FormeImg
  | 0, _, f => f
  | n + 1, b, f =>
    if b.length < 20 then f
    else
      let len := u32 b 16
      readMembers n (b.drop (20 + len))
        { f with members := sPut (fun _ => ⟨0, 0, 0, []⟩) f.members (u32 b 0)
                              ⟨u32 b 4, u32 b 8, u32 b 12, (b.drop 20).take len⟩ }

/-- Read one section into a forme. -/
def readSection (f : FormeImg) (block kind : Nat) (d : List Byte) : FormeImg :=
  if kind = 0 then readRegs (pairsOf d.length d) (fun _ => 0) f
  else if kind = 1 then
    { f with imps := (pairsOf d.length d).foldl (fun m p => sPut formeImpDefault m p.1 (BitVec.ofNat 32 p.2)) f.imps }
  else if kind = 2 then
    { f with keys := (pairsOf d.length d).foldl (fun m p => sPut (fun _ => (0#32)) m p.1 (BitVec.ofNat 32 p.2)) f.keys }
  else if kind = 3 then
    (recordsOf d.length d).foldl (fun f r =>
      if block = 0x0C then { f with rx := sPut (fun _ => []) f.rx (u8 r 0) r }
      else { f with tx := sPut (fun _ => []) f.tx (u8 r 0) r }) f
  else if kind = 4 then readMembers d.length d f
  else f

/-- Read `n` sections; none where one does not fit the image. -/
def readSections : Nat → List Byte → FormeImg → Option FormeImg
  | 0, b, f => if b.isEmpty then some f else none
  | n + 1, b, f =>
    if b.length < 8 ∨ u8 b 3 ≠ 0 ∨ 5 ≤ u8 b 2 ∨ b.length < 8 + u32 b 4 then none
    else readSections n (b.drop (8 + u32 b 4)) (readSection f (u16 b 0) (u8 b 2) ((b.drop 8).take (u32 b 4)))

/-- Why a forme is not valid (R415): 0 valid, 1 absent, 2 CRC or magic, 3 version or personality. -/
def formeVerdict (s : State) (b : List Byte) : Nat :=
  if b.isEmpty then 1
  else
    let size := u32 b 12
    if u32 b 0 ≠ 0x454D524F ∨ 262144 < size ∨ size ≠ b.length ∨ size < 64 ∨
        u32 b 16 ≠ crc32c (b.take 16 ++ b.drop 20) then 2
    else if u8 b 5 ≠ 1 ∨ u8 b 6 ≠ s.pers then 3
    else 0

/-- Read sections until the bytes end. -/
def readAll : Nat → List Byte → FormeImg → Option FormeImg
  | 0, b, f => if b.isEmpty then some f else none
  | n + 1, b, f =>
    if b.isEmpty then some f
    else if b.length < 8 ∨ u8 b 3 ≠ 0 ∨ 5 ≤ u8 b 2 ∨ b.length < 8 + u32 b 4 then none
    else readAll n (b.drop (8 + u32 b 4)) (readSection f (u16 b 0) (u8 b 2) ((b.drop 8).take (u32 b 4)))

/-- Parse an image that R415 calls valid. -/
def parseForme (b : List Byte) : Option FormeImg :=
  readSections (u32 b 20) (b.drop 64) { formeEmpty (u8 b 6) with phase := u8 b 7, gen := u32 b 8 }

/-! ### Generations -/

/-- The checkpoint item of a twin (R403): its bytes and their CRC-32C. -/
def ckptItem (b : List Byte) : List Byte := b ++ leBytes 4 (crc32c b)

/-- TWIN_CHECKPOINT_CONFIG_TX (R403): the active twin sends its working forme through Q919. -/
def ckptConfig (s : State) : State :=
  if s.fld R.TWIN.STAT.STATE = 2 then
    stkPut s 919 3 (ckptItem s.fw.work.image)
  else s

/-- Set the live generation (R213, R416), a covered value, so that a hold begins (R152): GEN_CHANGED names the opcode and the
channel. -/
def setGen (s : State) (g op ch : Nat) : State :=
  let s := (if liveGen s = g % 2 ^ 32 then s else s.crcHold).setFld R.FRM.GEN.GEN_F (g % 2 ^ 32)
  let s := { s with fw := { s.fw with work := { s.fw.work with gen := g % 2 ^ 32 } } }
  let s := s.event 0xE020 (leBytes 4 (liveGen s) ++ leBytes 2 op ++ [byteOf ch, 0])
  let s := if stkState s = 5 then stkTell s (.newGen (liveGen s)) else s
  ckptConfig s

/-- GEN_CHANGED (R213): the generation rises by 1. -/
def raiseGen (s : State) (op ch : Nat) : State := setGen s (liveGen s + 1) op ch

/-! ### Running a command -/

/-- Opcode groups known in the present personality and phase (R211). -/
def opKnown (s : State) (op : Nat) : Bool :=
  let g := op / 256
  (s.phase != 3 || g == 1) && (g != 0x12 || coDx s)

/-- Whether a quarantined device accepts a command (R211). -/
def quarOk (s : State) (op : Nat) : Bool :=
  let g := op / 256
  stkState s != 7 || g == 1 || g == 0x0D || g == 0x10 || g == 0x11

/-- Commands marked G in their tables. -/
def isG (op : Nat) : Bool :=
  [0x0102, 0x0202, 0x0304, 0x0400, 0x0401, 0x0500, 0x0502, 0x0504, 0x0600, 0x0700, 0x0800, 0x0900, 0x0901, 0x0902, 0x0A00,
   0x0A01, 0x0B00, 0x0B02, 0x0C01, 0x0D01, 0x0E00, 0x0F00].contains op

/-- Whether a G command is in progress, or an earlier taken one stands before this (R197). -/
def gBusy (s : State) (c : Cmd) : Bool :=
  s.mbx.cmds.any (fun x => x.phase == .accepted && isG x.opcode) ||
    (match (s.mbx.cmds.filter fun x => x.phase == .taken && isG x.opcode).head? with
     | some x => !(x.chan == c.chan && x.tag == c.tag)
     | none => false)

/-- The checks 1 to 6 of R210 in their order; 0 where all hold. -/
def checkCmd (s : State) (c : Cmd) (lenOk : Nat → Bool) (locked : State → List Byte → Bool) : Nat :=
  let room := if c.chan = 2 then (if nbit c.flags 1 then 65535 else 48) else 240
  if !opKnown s c.opcode then stBadOpcode
  else if !lenOk c.len ∨ room < c.len ∨ (c.opcode = 0x0700 ∧ c.len ≠ 16 + 8 * u16 c.payload 0) then stBadLength
  else if c.hdrBad then stBadArg
  else if !quarOk s c.opcode then stQuar
  else if nbit c.flags 0 && c.gen != liveGen s then stGenMis
  else if locked s c.payload then stLocked
  else 0

/-- Whether every byte of a payload that the layout does not list is 0 (R209). -/
def reservedZero (p : List Byte) (listed : List Nat) : Bool :=
  (List.range p.length).all fun i => listed.contains i || u8 p i == 0

/-- Byte positions from `a` on, `n` of them. -/
def span (a n : Nat) : List Nat := (List.range n).map (· + a)

/-- What a command's body answers: a status, a result and the state it leaves; a body that refuses leaves the state as it
was. -/
abbrev CmdOut := Nat × List Byte × State

/-- A refusal. -/
def refuse (s : State) (st : Nat) : CmdOut := (st, [], s)

/-- A stack member: its generation is the master's (R389, R390). -/
def stkMember (s : State) : Bool :=
  let st := stkState s
  st == 2 || st == 3 || st == 4

/-- A G command has ended with OK (R213): the generation rises by 1; on a member it is the one the master gave (R390). -/
def finishGen (s : State) (op ch : Nat) : State :=
  if stkMember s then setGen { s with fw := { s.fw with edit := none } } s.stk.mgen op ch else raiseGen s op ch

/-- The end of a command's body: a G command that ends with OK records its changes and raises the generation once
(R213). -/
def settle (old : State) (op ch : Nat) (o : CmdOut) : CmdOut :=
  if o.1 = stOk ∧ isG op = true then (o.1, o.2.1, finishGen (recordWork old o.2.2) op ch) else o

/-- What takes one forme to another, as sections (R389, R414). -/
def formeDelta (a b : FormeImg) : List Byte :=
  let ks := (b.regs.map Prod.fst).foldl (fun l k => insertNat k l) (a.regs.map Prod.fst)
  let ds := (b.imps.map Prod.fst).foldl (fun l k => insertNat k l) (a.imps.map Prod.fst)
  let ws := (b.keys.map Prod.fst).foldl (fun l k => insertNat k l) (a.keys.map Prod.fst)
  let pick (d : Nat → Word) (m n : Store) (l : List Nat) : Store :=
    (l.filter fun k => sGet d m k != sGet d n k).map fun k => (k, sGet d n k)
  ({ formeEmpty 0 with
    regs := pick formeDefault a.regs b.regs ks, imps := pick formeImpDefault a.imps b.imps ds
    keys := pick (fun _ => 0#32) a.keys b.keys ws
    rx := b.rx.filter fun p => !a.rx.contains p, tx := b.tx.filter fun p => !a.tx.contains p } : FormeImg).body.flatten

/-- A member's G command goes to the master as a CTRL frame before it runs (R390): the change it would make to the working
forme, from what its body leaves (log 21). -/
def sendEdit (s after : State) (c : Cmd) : State :=
  let goal := match after.fw.apply with
    | some a => a.target
    | none => (recordWork s after).fw.work
  let item := leBytes 2 c.opcode ++ leBytes 2 0 ++ formeDelta s.fw.work goal
  let s := { s with fw := { s.fw with edit := some (c.chan, c.tag, false) } }
  let s := stkTell s (.edit (liveGen s))
  stkPut s 918 4 item

/-- Whether a command of a member waits for the master's answer (R390). -/
def editWaits (s : State) (op ch tag : Nat) : Bool :=
  isG op && stkMember s && s.fw.edit != some (ch, tag, true)

/-- While the device's formes are inconsistent, every G command but FRM.APPLY is refused (R424); so is every G command of
a stack member in ORPHAN (R391). -/
def gRefused (s : State) (op : Nat) : Bool :=
  isG op && ((op != 0x0304 && s.flag R.FRM.STAT.INCONSISTENT) || stkState s == 6)

/-- Check 8 on a G command (R391, R424) stands between its body's checks 6 and 7 and the rest (R210). -/
def judged (s : State) (op : Nat) (b : CmdOut) : CmdOut :=
  if gRefused s op = true ∧ b.1 ≠ stBadArg ∧ b.1 ≠ stLocked then refuse s stWrongPhase else b

/-- Run a command that answers at once: `op`, its length, what it would change that is locked, and its body. On a stack
member a G command that passes is first sent to the master, and its step is taken again once the master has answered
(R390; log 25). -/
def runCmd (op : Nat) (lenOk : Nat → Bool) (locked : State → List Byte → Bool) (body : State → List Byte → CmdOut)
    (ch tag : Nat) (s : State) : Out3 :=
  match takenCmd s ch tag with
  | none => ok s
  | some c =>
    if c.opcode ≠ op ∨ !serving s ∨ (isG op && gBusy s c) then ok s
    else
      let st := checkCmd s c lenOk locked
      if st ≠ 0 then ok (endCmd s ch tag st [])
      else
        let b := judged s op (body s c.payload)
        if b.1 = stOk ∧ editWaits s op ch tag = true then ok (if s.fw.edit.isSome then s else sendEdit s b.2.2 c)
        else
        let o := settle s op ch b
        let s1 := if o.1 = stOk then follow s o.2.2 else s
        ok (endCmd s1 ch tag o.1 o.2.1)

/-- Run a command marked A: a body that passes answers ACCEPTED and leaves the rest to its end. -/
def runAccepted (op : Nat) (lenOk : Nat → Bool) (locked : State → List Byte → Bool) (body : State → List Byte → CmdOut)
    (ch tag : Nat) (s : State) : Out3 :=
  match takenCmd s ch tag with
  | none => ok s
  | some c =>
    if c.opcode ≠ op ∨ !serving s ∨ (isG op && gBusy s c) then ok s
    else
      let st := checkCmd s c lenOk locked
      if st ≠ 0 then ok (endCmd s ch tag st [])
      else
        let o := judged s op (body s c.payload)
        if o.1 = stOk ∧ editWaits s op ch tag = true then ok (if s.fw.edit.isSome then s else sendEdit s o.2.2 c)
        else if o.1 = stOk then ok (follow s (acceptCmd o.2.2 ch tag))
        else ok (endCmd s ch tag o.1 o.2.1)

end Sys2Proof.Machine
end

