-- ==== Sys2Proof/Machine/Forme.lean ====
section
/-! DEFINITION. Live change of formes (R417 to R426): the diff, its verification, the staged apply, its epochs and its
rollback. -/

namespace Sys2Proof.Machine

/-! ### Reading an image -/

/-- A register of a forme. -/
def FormeImg.word (f : FormeImg) (key : Nat) : Word := sGet formeDefault f.regs key

/-- A field of a forme's register. -/
def FormeImg.fld (f : FormeImg) (x : Fld) : Nat := x.of (f.word x.key)

/-- A forme's imposition entry. -/
def FormeImg.imp (f : FormeImg) (d : Nat) : Word := sGet formeImpDefault f.imps d

/-- Keys listed in either of two stores, rising. -/
def keysOf (a b : Store) : List Nat := (a.map Prod.fst).foldl (fun l k => insertNat k l) (b.map Prod.fst)

/-- Register keys in which two formes differ. -/
def regDiff (a b : FormeImg) : List Nat := (keysOf a.regs b.regs).filter fun k => a.word k != b.word k

/-- Entries in which two formes differ. -/
def impDiff (a b : FormeImg) : List Nat := (keysOf a.imps b.imps).filter fun d => a.imp d != b.imp d

/-- The classifier words in which two formes differ. -/
def keyDiff (a b : FormeImg) : List Nat :=
  (keysOf a.keys b.keys).filter fun k => sGet (fun _ => (0#32)) a.keys k != sGet (fun _ => (0#32)) b.keys k

/-- The receive flows whose classifier keys differ between two formes. -/
def keyFlows (a b : FormeImg) : List Nat :=
  (keyDiff a b).foldl (fun l k =>
    [a, b].foldl (fun l f =>
      let w := (sGet (fun _ => (0#32)) f.keys (8 * (k / 8))).toNat
      if nbit w 31 && bits w 10 2 == 0 then insertNat (w % 256) l else l) l) []

/-- The working forme as the active values have it (R424). -/
def activeForme (s : State) : FormeImg :=
  { s.fw.work with
    regs := (listedKeys s).foldl (fun m k => sPut formeDefault m k (s.rd k &&& formeMask k)) []
    imps := (impListed s).foldl (fun m d => sPut formeImpDefault m d (s.imp d).cur.word) []
    keys := s.cls }

/-! ### What a diff touches -/

/-- Identifiers of a forme's flow, block or port: the first and one past the last. -/
def imgSpan (f : FormeImg) (base chans mcs : Fld) : Nat × Nat :=
  let b := f.fld base
  (b, b + f.fld chans * rateMult (f.fld (R.CLK.MCS_CFG.RATE (f.fld mcs))))

/-- The channel slots of a TDM direction in a forme. -/
def imgSlot (f : FormeImg) (p : Nat) (rx : Bool) (i : Nat) : Option Nat :=
  slotOf (f.fld (td (R.TDM.TX_FRAME.SLOTS p) rx)) (f.fld (td (R.TDM.TX_FMT.COMPACT p) rx) != 0)
    (f.word (td (R.TDM.TX_MASK.SLOTS p) rx).key) i

/-- Identifier runs that two formes' differing registers touch, as destinations or as sources (R419). -/
def touched (a b : FormeImg) (diff : List Nat) (dst : Bool) : List (Nat × Nat) :=
  diff.flatMap fun k =>
    let off := k % 0x1000000
    let i := k / 0x1000000
    let both (base chans mcs : Fld) (at_ : Nat) : List (Nat × Nat) :=
      [imgSpan a base chans mcs, imgSpan b base chans mcs].map fun r => (at_ + r.1, at_ + r.2)
    if 0xC100 ≤ off ∧ off < 0xC200 then
      (if dst then [] else both (R.RXF.F_CHAN.BASE i) (R.RXF.F_CHAN.CHANNELS i) (R.RXF.F_CFG.MCS i) 0)
    else if 0xD100 ≤ off ∧ off < 0xD300 then
      (if dst then both (R.TXF.F_CHAN.BASE i) (R.TXF.F_CHAN.CHANNELS i) (R.TXF.F_CFG.MCS i) 0 else [])
    else if 0x8000 ≤ off ∧ off < 0x9000 then
      let p := (off - 0x8000) / 0x100
      let rx := off / 0x20 % 2 == 1
      if rx == dst then []
      else if (dirMaskKeys p rx).contains off then
        ((List.range 32).filter fun c => imgSlot a p rx c != imgSlot b p rx c).map fun c =>
          (0x800 + 32 * p + c, 0x801 + 32 * p + c)
      else [(0x800 + 32 * p, 0x820 + 32 * p)]
    else if 0x11100 ≤ off ∧ off < 0x11200 then
      (if dst == hstIsTx i then [] else both (R.HST.B_CFG.BASE i) (R.HST.B_CFG.CHANNELS i) (R.HST.B_CFG.MCS i) 0xA00)
    else if 0x12100 ≤ off ∧ off < 0x12200 then
      (if dst == stkIsIn i then [] else both (R.STK.B_CFG.BASE i) (R.STK.B_CFG.CHANNELS i) (R.STK.B_CFG.MCS i) 0x1200)
    else if 0xA400 ≤ off ∧ off < 0xB000 then
      let n := (off - 0xA400) / 12
      [(0x1A00 + 4 * n, 0x1A04 + 4 * n)]
    else []

/-- Whether an identifier lies in one of some runs. -/
def inRuns (l : List (Nat × Nat)) (id : Nat) : Bool := l.any fun r => decide (r.1 ≤ id) && decide (id < r.2)

/-- The bits of an entry that change a destination: SOURCE, CONV and INVERT (R419). -/
def impRouteMask : Word := 0xFFFFFF01#32

/-- The destinations a diff changes (R419). -/
def changedDests (a b : FormeImg) : List Nat :=
  let diff := regDiff a b
  let td := touched a b diff true
  let ts := touched a b diff false ++ (keyFlows a b).flatMap fun f =>
    [imgSpan a (R.RXF.F_CHAN.BASE f) (R.RXF.F_CHAN.CHANNELS f) (R.RXF.F_CFG.MCS f),
      imgSpan b (R.RXF.F_CHAN.BASE f) (R.RXF.F_CHAN.CHANNELS f) (R.RXF.F_CFG.MCS f)]
  (keysOf a.imps b.imps).filter fun d =>
    (a.imp d ^^^ b.imp d) &&& impRouteMask != 0 || inRuns td d || inRuns ts (impSrc (a.imp d)) || inRuns ts (impSrc (b.imp d))

/-- TDM directions (2 x port + receive) whose format, frame, lead or enable a diff changes (R420 stage 6). -/
def restarted (a b : FormeImg) : List Nat :=
  let diff := regDiff a b
  (List.range 32).filter fun i => (dirFmtKeys (i / 2) (i % 2 == 1)).any diff.contains

/-- The EN bit of a block's configuration register. -/
def enBit (key : Nat) : Option Fld :=
  let off := key % 0x1000000
  let i := key / 0x1000000
  if off = 0xC100 then some (R.RXF.F_CFG.EN i)
  else if off = 0xD100 then some (R.TXF.F_CFG.EN i)
  else if off = 0x11100 then some (R.HST.B_CFG.EN i)
  else if off = 0x12100 then some (R.STK.B_CFG.EN i)
  else if off = 0x12004 then some R.STK.CFG.EN
  else if 0x8000 ≤ off ∧ off < 0x9000 ∧ off % 0x20 = 0 then some ⟨key, 31, 1⟩
  else if 0x6100 ≤ off ∧ off < 0x6200 ∧ off % 0x20 = 0 then some (R.CLK.MCS_CFG.EN ((off - 0x6100) / 0x20))
  else if 0x7100 ≤ off ∧ off < 0x7200 ∧ off % 0x40 = 0 then some (R.TIME.PTI_CFG.EN ((off - 0x7100) / 0x40))
  else if 0xD800 ≤ off ∧ off < 0xDC00 ∧ off % 16 = 0 then some (R.TXF.FUN_CFG.EN ((off - 0xD800) / 16))
  else none

/-- Whether a running block would discard a change of a key (R239, R307, R330, R359). -/
def discards (s : State) (a b : FormeImg) (key : Nat) : Bool :=
  let off := key % 0x1000000
  let i := key / 0x1000000
  let d := a.word key ^^^ b.word key
  if 0x8000 ≤ off ∧ off < 0x9000 then
    let p := (off - 0x8000) / 0x100
    let rx := off / 0x20 % 2 == 1
    !dirStopped s p rx && (dirFmtKeys p rx).contains off
  else if off = 0xC100 then s.fld (R.RXF.F_STAT.STATE i) != 0 && d &&& 0x7FFCFFFF#32 != 0
  else if off = 0xC104 ∨ off = 0xC10C then s.fld (R.RXF.F_STAT.STATE i) != 0
  else if off = 0xD100 then s.fld (R.TXF.F_STAT.STATE i) != 0 && d &&& 0x7FFCFFFF#32 != 0
  else if 0xD100 < off ∧ off < 0xD300 ∧ off ≠ 0xD10C then s.fld (R.TXF.F_STAT.STATE i) != 0
  else if 0x11100 ≤ off ∧ off < 0x11120 then hstState s i != hstOff
  else if 0x12100 ≤ off ∧ off < 0x1210C then blkState s i != 0
  else if 0x10200 ≤ off ∧ off < 0x10300 then s.fld (R.TXF.F_STAT.STATE i) != 0
  else false

/-- Whether a diff is atomic (R418). -/
def atomicDiff (s : State) (a b : FormeImg) : Bool :=
  (regDiff a b).all (fun k =>
    let off := k % 0x1000000
    (match enBit k with | some f => f.of (a.word k) == f.of (b.word k) | none => true) &&
      !(decide (0x6100 ≤ off) && decide (off < 0x6200) && off % 0x20 == 0 &&
        (R.CLK.MCS_CFG.RATE 0).of (a.word k) != (R.CLK.MCS_CFG.RATE 0).of (b.word k)) &&
      !(decide (0x6100 ≤ off) && decide (off < 0x6200) && off % 0x20 == 0 &&
        (R.CLK.MCS_CFG.MULT 0).of (a.word k) != (R.CLK.MCS_CFG.MULT 0).of (b.word k)) &&
      !(off == (R.GAL.Q_RES.reg 0) || off == (R.GAL.Q_CAP.reg 0)) && !discards s a b k) &&
  (impDiff a b).all (fun d => impSrc (a.imp d) == impSrc (b.imp d)) && (keyDiff a b).isEmpty

/-! ### Verification (R419) -/

/-- Whether the host, a quoin or DX forbids a diff (R419, check 6 of R210). -/
def diffLocked (s : State) (a b : FormeImg) : Bool :=
  (regDiff a b).any (fun k =>
    (match quoinOf (k % 0x1000000) with | some q => blockLocked s q | none => false) ||
      (coDx s && (match quoinOf (k % 0x1000000) with
        | some q =>
          (q == 32 || q == 33) || ((q == bRXF || q == bTXF) && decide (0x1000000 ≤ k) && decide (k / 0x1000000 < 8)) ||
            (q == bCLK && decide ((k % 0x1000000 - 0x6100) / 0x20 = s.dx.mcs) && decide (0x6100 ≤ k % 0x1000000)) ||
            (q == bTIME && decide ((k % 0x1000000 - 0x7100) / 0x40 = s.dx.pti) && decide (0x7100 ≤ k % 0x1000000) &&
              decide (k % 0x1000000 < 0x7200))
        | none => false))) ||
    (!(impDiff a b).isEmpty && blockLocked s bIMP) || (coDx s && (impDiff a b).any dxDest) ||
    (!(keyDiff a b).isEmpty && blockLocked s bRXF)

/-- Whether the started block of a user stays as it is under a diff. -/
def userKept (diff : List Nat) (u : User) : Bool :=
  let i := u.item
  if u.kind < 2 then !(dirFmtKeys i (u.kind == 1)).any diff.contains
  else if u.kind = 2 then !diff.contains (R.RXF.F_CFG.reg i)
  else if u.kind = 3 then !diff.contains (R.TXF.F_CFG.reg i)
  else if u.kind = 4 then !diff.contains (R.HST.B_CFG.reg i)
  else if u.kind = 5 then !diff.contains (R.HST.B_CFG.reg (i + 256))
  else if u.kind = 6 then !diff.contains (R.STK.B_CFG.reg i)
  else if u.kind = 7 then !diff.contains (R.STK.B_CFG.reg (i + 256))
  else !diff.contains (R.KRN.L_CFG.reg i)

/-- An MCS with a started block that the diff keeps would change RATE or MULT, or stop (R419). -/
def mcsInUse (s : State) (a b : FormeImg) : Bool :=
  let diff := regDiff a b
  (List.range 8).any fun n =>
    let moved := a.fld (R.CLK.MCS_CFG.RATE n) != b.fld (R.CLK.MCS_CFG.RATE n) ||
      a.fld (R.CLK.MCS_CFG.MULT n) != b.fld (R.CLK.MCS_CFG.MULT n) ||
      (a.fld (R.CLK.MCS_CFG.EN n) != 0 && b.fld (R.CLK.MCS_CFG.EN n) == 0)
    moved && s.user.any fun u => u.mcs == n && userKept diff u

/-- A restarted direction's leading frames exceed 48 (R419). -/
def leadTooLong (s : State) (a b : FormeImg) : Bool :=
  (restarted a b).any fun i =>
    let p := i / 2
    let rx := i % 2 == 1
    decide (48 < s.fld (td (R.TDM.TX_LEAD.LEAD_OUT p) rx) + b.fld (td (R.TDM.TX_LEAD.LEAD_IN p) rx))

/-- The reservations of a forme fit its budgets (R278, R419). -/
def reservesFit (b : FormeImg) : Bool :=
  let qs := (b.regs.map Prod.fst).filter fun k => k % 0x1000000 == R.GAL.Q_RES.reg 0
  let res (q : Nat) : Nat := b.fld (R.GAL.Q_RES.CELLS q)
  let sumIf (f : Nat → Bool) : Nat := ((qs.map (· / 0x1000000)).filter f |>.map res).sum
  (List.range 5).all (fun k => decide (sumIf (fun q => qClass q == k) ≤ b.fld (R.GAL.BUDGET.CELLS k))) &&
    decide (((List.range 5).map fun k => b.fld (R.GAL.BUDGET.CELLS k)).sum ≤ 131072 - 1024) &&
    [1, 2].all fun h => decide (sumIf (fun q => b.fld (R.GAL.Q_CFG.HALF q) == h) ≤ 65536 - 512)

/-- The state with a forme's registers as active values and its flows and blocks taken as running, to judge admission. -/
def asIf (s : State) (b : FormeImg) : State :=
  let s := (keysOf b.regs s.fw.work.regs).foldl (fun s k =>
    s.wr k ((s.rd k &&& ~~~formeMask k) ||| b.word k)) s
  (List.range 256).foldl (fun s f =>
    let s := s.setFld (R.TXF.F_STAT.STATE f) (if s.flag (R.TXF.F_CFG.EN f) then 2 else 0)
    let s := s.setFld (R.RXF.F_STAT.STATE f) (if s.flag (R.RXF.F_CFG.EN f) then 1 else 0)
    let i := if f < 64 then f else 192 + f
    if f < 128 then s.setFld (R.HST.B_STAT.STATE i) (if s.flag (R.HST.B_CFG.EN i) then 2 else 0) else s) s

/-- Channels of the receive flows at a rate class (R3, R224): 2048 at 44.1 and 48 kHz, half at the double, a quarter at
the quadruple rates, counted in identifiers. -/
def rxChannels (s : State) : Nat :=
  ((List.range 256).map fun f =>
    if s.fld (R.RXF.F_STAT.STATE f) = 0 then 0
    else s.fld (R.RXF.F_CHAN.CHANNELS f) * mcsMult s (s.fld (R.RXF.F_CFG.MCS f))).sum

/-- Every flow, slot and block of a forme can be admitted (R224, R326, R357, R395). -/
def admitAll (s : State) (b : FormeImg) : Bool :=
  let t := asIf s b
  decide (rxChannels t ≤ 2048) &&
    ((List.range 256).all fun f => t.fld (R.TXF.F_STAT.STATE f) == 0 || slotAdmitted t f) &&
    decide (admitted t false ≤ rateLimit t) && decide (admitted t true ≤ rateLimit t) &&
    ((List.range 22).all fun i => !t.flag (R.STK.B_CFG.EN i) || (linkFits t 0 i (t.fld R.STK.CFG.FUN_BUDGET) && linkFits t 1 i (t.fld R.STK.CFG.FUN_BUDGET)))

/-- A forme would place the device in a combination that R427 marks as refused (R6): twin roles or, in DX, a stack beside DX; a
parity GAL1, a seamless or an adaptive DX flow; a stack member's PTI with ports. -/
def matrixBad (s : State) (f : FormeImg) : Bool :=
  let on (x : Fld) : Bool := f.fld x != 0
  (s.dxPresent && (on R.TWIN.CFG.ROLE || (s.pers == 1 && on R.STK.CFG.EN) ||
      (f.word R.GAL.CFG.reg != 0 && !on R.GAL.CFG.PROT1) ||
      (List.range 8).any fun i =>
        (on (R.RXF.F_CFG.EN i) && (on (R.RXF.F_CFG.ADAPT i) || f.fld (R.RXF.F_CFG.PATHS i) == 3)) ||
          (on (R.TXF.F_CFG.EN i) && f.fld (R.TXF.F_CFG.PATHS i) == 3))) ||
    (stkMember s && [0, 1, 2, 3].any fun n => on (R.TIME.PTI_CFG.EN n) && on (R.TIME.PTI_CFG.PORTS n))

/-- The verdict of R419 and R6 on a diff, after the checks on the command itself and in the order of R210; 0 accepts it. -/
def diffVerdict (s : State) (a b : FormeImg) : Nat :=
  if matrixBad s b || leadTooLong s a b then stBadArg
  else if mcsInUse s a b then stWrongPhase
  else if !reservesFit b then stNoMem
  else if !admitAll s b then stNoRes
  else 0

/-! ### Stages (R420) -/

/-- Firmware writes one register of a forme: its shadow, or its active value where it has none. -/
def fwPut (s : State) (f : FormeImg) (key : Nat) : State :=
  let off := key % 0x1000000
  let q := key / 0x1000000
  let m := formeMask key
  let v := f.word key
  if off = R.GAL.Q_RES.reg 0 then qResWrite s q ((R.GAL.Q_RES.CELLS q).of v)
  else if off = R.GAL.Q_CAP.reg 0 then qCapWrite s q ((R.GAL.Q_CAP.CELLS q).of v)
  else if off = R.GAL.Q_CFG.reg 0 then qCfgWrite s q ((R.GAL.Q_CFG.BE q).of v != 0) ((R.GAL.Q_CFG.HALF q).of v)
  else if 0xB010 ≤ off ∧ off ≤ 0xB020 then budgetWrite s ((off - 0xB010) / 4) ((R.GAL.BUDGET.CELLS 0).of v)
  else
    match groupOf key with
    | some (_, sm) =>
      let s := s.wrSh key ((s.rdSh key &&& ~~~sm) ||| (v &&& sm))
      if m &&& ~~~sm = 0 then s else s.wr key ((s.rd key &&& ~~~(m &&& ~~~sm)) ||| (v &&& m &&& ~~~sm))
    | none => s.wr key ((s.rd key &&& ~~~m) ||| (v &&& m))

/-- Write several registers of a forme. -/
def fwPuts (s : State) (f : FormeImg) (ks : List Nat) : State := ks.foldl (fun s k => fwPut s f k) s

/-- The stage at which a register of a forme is captured: 1 clock, 2 time, 3 galley, 4 flows, 5 imposition, 6 TDM. Those
R420 does not name go with the first (log 26). -/
def stageOf (key : Nat) : Nat :=
  let off := key % 0x1000000
  if 0x7000 ≤ off ∧ off < 0x8000 then 2
  else if 0xB000 ≤ off ∧ off < 0xC000 then 3
  else if (0xA000 ≤ off ∧ off < 0xB000) ∨ (0xC000 ≤ off ∧ off < 0xE000) ∨ (0x10000 ≤ off ∧ off < 0x13000) then 4
  else if 0x9000 ≤ off ∧ off < 0xA000 then 5
  else if 0x8000 ≤ off ∧ off < 0x9000 then 6
  else 1

/-- Set MUTE on every changed destination and capture (E0); or clear it, as the forme has it (E7). Without a changed destination there
is no capture (R421). -/
def muteAll (s : State) (ds : List Nat) (f : Option FormeImg) : State :=
  let s := ds.foldl (fun s d =>
    let e := s.imp d
    let v := match f with
      | none => e.shadow ||| 2#32
      | some g => (e.shadow &&& ~~~2#32) ||| (g.imp d &&& 2#32)
    s.setImp d { e with shadow := v }) s
  if ds.isEmpty then s else strobe s 2

/-- Capture some groups and let every block apply (R420); a stage with nothing to change makes no capture (R421). -/
def stageStrobe (s : State) (groups : Nat) : State := if groups = 0 then s else applyAll (strobe s groups)

/-- The groups of a set of keys. -/
def groupsOf (ks : List Nat) : Nat :=
  ks.foldl (fun g k => match groupOf k with | some (n, _) => g ||| 2 ^ n | none => g) 0

/-- The configuration register, with the EN bit, of the flow or block that a register of stage 4 belongs to. -/
def blockKey (key : Nat) : Option Nat :=
  let off := key % 0x1000000
  let i := key / 0x1000000
  if 0xC100 ≤ off ∧ off < 0xC200 then some (R.RXF.F_CFG.reg i)
  else if (0xD100 ≤ off ∧ off < 0xD300) ∨ (0x10200 ≤ off ∧ off < 0x10300) then some (R.TXF.F_CFG.reg i)
  else if 0x11100 ≤ off ∧ off < 0x11200 then some (R.HST.B_CFG.reg i)
  else if 0x12100 ≤ off ∧ off < 0x12200 then some (R.STK.B_CFG.reg i)
  else none

/-- The configuration registers of the receive flows that move to other keys. -/
def keyBlocks (a b : FormeImg) : List Nat := (keyFlows a b).map R.RXF.F_CFG.reg

/-- The flows and blocks a diff reconfigures (R420): those with a register that they would discard while they run, and receive flows
that move to other keys. -/
def reconfigured (s : State) (a b : FormeImg) : List Nat :=
  (regDiff a b).foldl (fun l k => match blockKey k with
    | some e => if discards s a b k then insertNat e l else l
    | none => l) (keyBlocks a b)

/-- The configuration registers of the flows and blocks a diff touches. -/
def touchedBlocks (a b : FormeImg) : List Nat :=
  (regDiff a b).foldl (fun l k => match blockKey k with
    | some e => insertNat e l
    | none => l) (keyBlocks a b)

/-- Stage 3 (R420, R429): departing and reconfigured flows and blocks stop; budgets and reservations are lowered, then
raised; keys are cleared, then written. -/
def stageGalley (s : State) (a b : FormeImg) : State :=
  let diff := regDiff a b
  let again := reconfigured s a b
  let stop := (touchedBlocks a b).filter fun k =>
    match enBit k with
    | some f => f.of (s.rd k) != 0 && (f.of (b.word k) == 0 || again.contains k)
    | none => false
  let s := stop.foldl (fun s k => match enBit k with
    | some f => s.wrSh k (f.ins 0 (s.rd k))
    | none => s) s
  let s := stageStrobe s (groupsOf stop)
  let low := diff.filter fun k => k % 0x1000000 == R.GAL.Q_RES.reg 0 && decide (b.word k < s.rd k)
  let s := fwPuts s b low
  let s := fwPuts s b (diff.filter fun k => k % 0x1000000 == R.GAL.Q_CAP.reg 0 && decide (b.word k < s.rd k))
  let bud := diff.filter fun k => decide (0xB010 ≤ k) && decide (k ≤ 0xB020)
  let s := fwPuts s b (bud.filter fun k => decide (b.word k < s.rd k))
  let s := fwPuts s b bud
  let s := fwPuts s b (diff.filter fun k => k % 0x1000000 == R.GAL.Q_CFG.reg 0)
  let s := fwPuts s b (diff.filter fun k => k % 0x1000000 == R.GAL.Q_CAP.reg 0)
  let s := fwPuts s b (diff.filter fun k => k % 0x1000000 == R.GAL.Q_RES.reg 0)
  let kd := keyDiff a b
  let idx := kd.foldl (fun l k => insertNat (k / 8) l) []
  let s := idx.foldl (fun s i => keyWrite s i 0 (sGet (fun _ => (0#32)) b.keys (8 * i) &&& 0x7FFFFFFF#32)) s
  idx.foldl (fun s i =>
    ([1, 2, 3, 4, 5, 6, 7, 0]).foldl (fun s w => keyWrite s i w (sGet (fun _ => (0#32)) b.keys (8 * i + w))) s) s

/-- The keys of a stage in a diff. -/
def stageKeys (a b : FormeImg) (n : Nat) : List Nat := (regDiff a b).filter fun k => stageOf k == n

/-- Entries that name a restarted direction move at stage 6 (R420). -/
def namesDir (dirs : List Nat) (d : Nat) (w : Word) : Bool :=
  dirs.any fun i =>
    let lo := 0x800 + 32 * (i / 2)
    if i % 2 = 0 then decide (lo ≤ d) && decide (d < lo + 32) else decide (lo ≤ impSrc w) && decide (impSrc w < lo + 32)

/-- Write the routes of some entries, still muted. -/
def putRoutes (s : State) (b : FormeImg) (ds : List Nat) : State :=
  ds.foldl (fun s d => impWrite s d (b.imp d ||| 2#32)) s

/-- Entries whose MUTE alone differs are captured with stage 5. -/
def mutedOnly (a b : FormeImg) (changed : List Nat) : List Nat :=
  (impDiff a b).filter fun d => !changed.contains d

/-- Stage 6's directions that have stopped take their new format; those the forme enables are armed and started as a
group (R243, R420). -/
def restartDirs (s : State) (b : FormeImg) (dirs : List Nat) : State :=
  let s := dirs.foldl (fun s i =>
    let p := i / 2
    let rx := i % 2 == 1
    fwPuts s b (dirFmtKeys p rx ++ dirMaskKeys p rx)) s
  let s := stageStrobe s (groupsOf (dirs.flatMap fun i => dirFmtKeys (i / 2) (i % 2 == 1) ++ dirMaskKeys (i / 2) (i % 2 == 1)))
  let s := dirs.foldl (fun s i =>
    if b.fld (td (R.TDM.TX_FMT.EN (i / 2)) (i % 2 == 1)) = 0 then s else cmdWrite s (i / 2) (i % 2 == 1) 1#32) s
  let groups := dirs.foldl (fun l i => insertNat (b.fld (td (R.TDM.TX_FMT.ALIGN (i / 2)) (i % 2 == 1))) l) []
  groups.foldl (fun s g => groupStart s g 0 (s.ptiRaw 0)) s

/-- The captures of stage `n` of an apply from `a` to `b` (R420). -/
def stageRun (s : State) (a b : FormeImg) (changed dirs : List Nat) (n : Nat) : State :=
  if n = 1 then
    let ks := stageKeys a b 1
    stageStrobe (fwPuts s b ks) (groupsOf ks)
  else if n = 2 then
    let ks := stageKeys a b 2
    stageStrobe (fwPuts s b ks) (groupsOf ks)
  else if n = 3 then stageGalley s a b
  else if n = 4 then
    let ks := (touchedBlocks a b).foldl (fun l k => insertNat k l) (stageKeys a b 4)
    stageStrobe (fwPuts s b ks) (groupsOf ks)
  else if n = 5 then
    let s := fwPuts s b (stageKeys a b 5)
    let ds := changed.filter fun d => !namesDir dirs d (b.imp d)
    let ms := mutedOnly a b changed
    let s := ms.foldl (fun s d => impWrite s d (b.imp d)) (putRoutes s b ds)
    stageStrobe s (groupsOf (stageKeys a b 5) ||| (if ds.isEmpty ∧ ms.isEmpty then 0 else 2))
  else
    let s := dirs.foldl (fun s i => cmdWrite s (i / 2) (i % 2 == 1) 2#32) s
    let masks := (stageKeys a b 6).filter fun k =>
      let off := k % 0x1000000
      !dirs.contains (2 * ((off - 0x8000) / 0x100) + off / 0x20 % 2)
    let s := fwPuts s b masks
    let ds := changed.filter fun d => namesDir dirs d (b.imp d)
    let s := putRoutes s b ds
    let s := stageStrobe s (groupsOf masks ||| (if ds.isEmpty then 0 else 2))
    if dirs.all fun i => dirStopped s (i / 2) (i % 2 == 1) then restartDirs s b dirs else s

/-! ### Reading back (R422) -/

/-- The active value of a key meets a forme in its SH bits. -/
def keyMeets (s : State) (b : FormeImg) (k : Nat) : Bool := (s.rd k ^^^ b.word k) &&& formeMask k == 0

/-- Why stage `n` has failed, or 0 (R422, R423; the status by cause is log 26). -/
def stageVerdict (s : State) (a b : FormeImg) (changed dirs : List Nat) (platen n : Nat) : Nat :=
  if s.flag (R.TIME.PL_STAT.LATE platen) ∨ s.flag (R.TIME.PL_STAT.STEP_MISS platen) then stHw
  else if n = 3 then
    (if (stageKeys a b 3).any (fun k => !keyMeets s b k) then stNoMem
     else if (keyDiff a b).any (fun k => s.key (k / 8) (k % 8) != sGet (fun _ => (0#32)) b.keys k) then stNoRes
     else 0)
  else if n = 4 then
    (if (stageKeys a b 4).any (fun k => !keyMeets s b k) then
       (if (stageKeys a b 4).any fun k => decide (k % 0x1000000 < 0x10000) && !keyMeets s b k then stNoRes else stWrongPhase)
     else 0)
  else if n = 5 then
    (if (changed.filter fun d => !namesDir dirs d (b.imp d)).any fun d => (s.imp d).shadow &&& impRouteMask != b.imp d &&& impRouteMask
     then stWrongPhase else 0)
  else if n = 6 then
    (if (stageKeys a b 6).any fun k =>
        let off := k % 0x1000000
        s.flag (td (R.TDM.TX_STAT.CFG_DROPPED ((off - 0x8000) / 0x100)) (off / 0x20 % 2 == 1))
     then stWrongPhase else 0)
  else if (stageKeys a b n).any fun k => !keyMeets s b k && k % 0x1000000 != 0x7110 then stWrongPhase
  else 0

/-! ### The engine (R425) -/

/-- Set the apply's state. -/
def frmGo (s : State) (st stage : Nat) : State :=
  let s := s.setFld R.FRM.STAT.STAGE stage
  if s.fld R.FRM.STAT.STATE = st then s else s.setFlds [(R.FRM.STAT.STATE, st), (R.FRM.STAT.STATE_EV, 1)]

/-- Change the apply in progress. -/
def setApply (s : State) (a : Option Apply) : State := { s with fw := { s.fw with apply := a } }

/-- Arm a platen one-shot for an epoch (R420). -/
def armEpoch (s : State) (k pti raw : Nat) : State :=
  let s := setPlFire s k raw
  let s := s.setFlds [(R.TIME.PL_STAT.LATE k, 0), (R.TIME.PL_STAT.STEP_MISS k, 0), (R.TIME.PL_STAT.BAD k, 0)]
  let s := plCfgWrite s k (BitVec.ofNat 32 (2 ^ 31 + 2 ^ 29 + pti % 4 * 2 ^ 27))
  s.setPl k { s.pl k with owner := 2 }

/-- Stage spacing S in 2^-32 ns. -/
def stageTime (s : State) : Nat := s.fld R.FRM.CFG.STAGE_US * 1000 * nsUnit

/-- Begin an apply from the present forme to `target`, its first epoch at `raw` of PTI `pti` (R418, R420). -/
def beginApply (s : State) (target : FormeImg) (platen pti raw : Nat) (cmd : Option (Nat × Nat)) (takeGen : Option Nat) :
    State :=
  let prev := if s.flag R.FRM.STAT.INCONSISTENT then activeForme s else s.fw.work
  let at_ := atomicDiff s prev target
  let s := setApply s (some {
    target := target, prev := prev, atomic := at_, platen := platen, pti := pti, time := raw, epoch := 0
    changed := changedDests prev target, dirs := restarted prev target, done := 0, failed := none, undo := 0
    cmd := cmd, takeGen := takeGen })
  armEpoch (frmGo s 1 0) platen pti raw

/-- The lowest platen that is not armed. -/
def freePlaten (s : State) : Option Nat := (List.range 16).find? fun k => !s.flag (R.TIME.PL_CFG.ARM k) && (s.pl k).owner == 0

/-- An apply ends well (R213, R425): the working forme is the target, and the generation rises or is the one to take. -/
def applyDone (s : State) (a : Apply) : State :=
  let s := s.setPl a.platen { s.pl a.platen with owner := 0 }
  let s := { s with fw := { s.fw with work := { a.target with gen := liveGen s } } }
  let s := s.setFlds [(R.FRM.STAT.INCONSISTENT, 0), (R.FRM.STAT.DONE_EV, 1)]
  let s := setApply (frmGo s 0 0) none
  match a.takeGen, a.cmd with
  | some g, _ =>
    let s := setGen s g 0x0304 3
    if stkState s = 2 ∨ stkState s = 3 ∨ stkState s = 4 then s.setFld R.STK.STAT.GEN_PULL_EV 1 else s
  | none, some (ch, tag) =>
    let s := finishGen s 0x0304 ch
    endCmd s ch tag stOk (leBytes 4 (liveGen s) ++ [byteOf a.done, 0xFF#8] ++ leBytes 2 0)
  | none, none => raiseGen s 0x0304 3

/-- An apply ends with a failure after its rollback (R423, R424). -/
def applyFailed (s : State) (a : Apply) (status : Nat) : State :=
  let s := s.setPl a.platen { s.pl a.platen with owner := 0 }
  let s := s.setFlds [(R.FRM.STAT.DONE_EV, 1), (R.FRM.CAUSE.STATUS, status)]
  let s := setApply (frmGo s 0 0) none
  match a.cmd with
  | none => s
  | some (ch, tag) =>
    let stage := (a.failed.map Prod.fst).getD 0xFF
    endCmd { s with fw := { s.fw with edit := none } } ch tag status
      (leBytes 4 (liveGen s) ++ [byteOf a.done, byteOf stage] ++ leBytes 2 ((a.failed.map Prod.snd).getD status))

/-- FORME_ROLLBACK (R423): stage `n` has failed with `status`; the rollback's epochs begin S/2 after the failed one, which was S
before the epoch that is armed. -/
def beginRollback (s : State) (a : Apply) (n status : Nat) : State :=
  let t := a.time - stageTime s + stageTime s / 2
  let a := { a with failed := some (n, status), undo := n, time := t, epoch := 9 }
  let s := s.setFlds [(R.FRM.STAT.FAIL_STAGE, n), (R.FRM.STAT.ROLLBACK_EV, 1), (R.FRM.CAUSE.STATUS, status)]
  armEpoch (setApply (frmGo s 5 0) (some a)) a.platen a.pti t

/-- A rolled back apply with nothing captured yet ends at once (R218). -/
def abortApply (s : State) (status : Nat) : State :=
  match s.fw.apply with
  | none => s
  | some a =>
    if a.epoch = 0 then
      applyFailed (s.setFld (R.TIME.PL_CFG.ARM a.platen) 0) { a with failed := some (0xFF, status) } status
    else if 9 ≤ a.epoch then s
    else
      let a := { a with time := s.ptiRaw a.pti + stageTime s }
      beginRollback s a (max 1 (min 6 (a.epoch - 1))) status

/-- One epoch of an apply (R420, R423): the platen fires and the stage's values are captured. -/
def epochRun (s : State) (a : Apply) : State :=
  let s := platenFire s a.platen
  if 9 ≤ a.epoch then
    -- rollback: stages undo, undo - 1, … 1, then the mutes
    if a.undo = 0 then
      let s := muteAll s a.changed (some a.prev)
      setApply s (some { a with epoch := 10 })
    else
      let s := stageRun s a.target a.prev a.changed a.dirs a.undo
      let t := a.time + stageTime s / 2
      armEpoch (setApply s (some { a with undo := a.undo - 1, time := t })) a.platen a.pti t
  else if a.atomic then
    let ks := regDiff a.prev a.target
    let s := fwPuts s a.target ks
    let s := (impDiff a.prev a.target).foldl (fun s d => impWrite s d (a.target.imp d)) s
    let s := stageStrobe s (groupsOf ks ||| (if (impDiff a.prev a.target).isEmpty then 0 else 2))
    setApply s (some { a with epoch := 8 })
  else if a.epoch = 0 then
    let s := frmGo (muteAll s a.changed none) 2 0
    let t := a.time + 1500000 * nsUnit
    armEpoch (setApply s (some { a with epoch := 1, time := t })) a.platen a.pti t
  else if a.epoch ≤ 6 then
    let s := frmGo (stageRun s a.prev a.target a.changed a.dirs a.epoch) 3 a.epoch
    let t := a.time + stageTime s
    armEpoch (setApply s (some { a with epoch := a.epoch + 1, done := a.epoch, time := t })) a.platen a.pti t
  else
    let s := frmGo (muteAll s a.changed (some a.target)) 4 0
    setApply s (some { a with epoch := 8 })

/-- E7 comes no earlier than the first data frame of the last direction started at E6 (R420). -/
def unmuteDue (s : State) (a : Apply) : Bool :=
  a.epoch != 7 || a.dirs.all fun i =>
    a.target.fld (td (R.TDM.TX_FMT.EN (i / 2)) (i % 2 == 1)) == 0 || s.tdmState (i / 2) (i % 2 == 1) == tdmRunning

/-- FORME_EPOCH (R420, R423): the apply's platen reaches its fire time. -/
def formeEpoch (s : State) : State :=
  match s.fw.apply with
  | none => s
  | some a => if plDue s a.platen && unmuteDue s a then epochRun s a else s

/-- FORME_EPOCH (R420). -/
def execFormeEpoch (s : State) : Out3 := ok (formeEpoch s)

/-- FORME_STAGE_VERIFY (R422 to R424): firmware reads the stage back; it fails the stage, or ends the apply after its last
epoch. Directions that stage 6 stopped are restarted once all of them stand still. -/
def stageVerify (s : State) : State :=
  match s.fw.apply with
  | none => s
  | some a =>
    if a.epoch = 10 then
      applyFailed s a ((a.failed.map Prod.snd).getD stHw)
    else if a.epoch = 9 then
      -- a rollback capture that did not take (R424)
      let n := a.undo + 1
      let st := if n ≤ (a.failed.map Prod.fst).getD 0 then
          stageVerdict s a.target a.prev a.changed a.dirs a.platen n
        else 0
      if st = 0 then s
      else applyFailed ((s.setFld R.FRM.STAT.INCONSISTENT 1).setFld (R.TIME.PL_CFG.ARM a.platen) 0) a stHw
    else if a.epoch = 8 then applyDone s a
    else if a.epoch < 2 then s
    else
      let n := a.epoch - 1
      let wait := n == 6 && !(a.dirs.all fun i => dirStopped s (i / 2) (i % 2 == 1) ||
        a.dirs.any fun j => s.tdmState (j / 2) (j % 2 == 1) == tdmLeadIn || s.tdmState (j / 2) (j % 2 == 1) == tdmRunning)
      let s := if n = 6 ∧ wait = false ∧ (a.dirs.any fun i =>
          a.target.fld (td (R.TDM.TX_FMT.EN (i / 2)) (i % 2 == 1)) != 0 && decide (s.tdmState (i / 2) (i % 2 == 1) ≤ 1)) = true
        then restartDirs s a.target a.dirs else s
      let st := stageVerdict s a.prev a.target a.changed a.dirs a.platen n
      if st = 0 then s else beginRollback s a n st

/-- FORME_STAGE_VERIFY (R422). -/
def execFormeStageVerify (s : State) : Out3 := followed (ok (stageVerify s)) s

/-! ### Commands and pulls -/

/-- The time of a command's start argument in a PTI (R217, R222): 0 s and 0 ns mean 2 ms from now. -/
def startTime (s : State) (pti sec ns : Nat) : Nat :=
  if sec = 0 ∧ ns = 0 then s.ptiRaw pti + 2000000 * nsUnit else (sec * 1000000000 + ns) * nsUnit

/-- What FRM.APPLY would make live. -/
def stagedForme (s : State) : Option FormeImg :=
  if formeVerdict s s.fw.staging = 0 then parseForme s.fw.staging else none

/-- The forme an apply starts from (R424). -/
def applyBase (s : State) : FormeImg := if s.flag R.FRM.STAT.INCONSISTENT then activeForme s else s.fw.work

/-- FRM.APPLY's body (R217, R418, R419). -/
def frmApplyBody (ch tag : Nat) (s : State) (p : List Byte) : CmdOut :=
  let k := u8 p 0
  let pti := u8 p 1
  let t := startTime s pti (u48 p 2) (u32 p 8)
  match stagedForme s with
  | none => refuse s stBadArg
  | some f =>
    if 16 ≤ k ∨ 4 ≤ pti ∨ 1000000000 ≤ u32 p 8 ∨ t < s.ptiRaw pti + 1000000 * nsUnit ∨ s.ptiRaw pti + 2000000 * nsUnit < t then
      refuse s stBadArg
    else
      let st := diffVerdict s (applyBase s) f
      if st ≠ 0 then refuse s st
      else if s.flag (R.TIME.PL_CFG.ARM k) then refuse s stNoRes
      else (stOk, [], beginApply s f k pti t (some (ch, tag)) none)

/-- A refused FRM.APPLY leaves its status in FRM.CAUSE; one that R419 refuses has been in VERIFY (R425). -/
def applyRefused (ch tag : Nat) (o : Out3) : Out3 :=
  match o with
  | .next t =>
    (match t.mbx.cmds.find? fun c => c.chan == ch && c.tag == tag && c.phase == .done with
     | some c =>
       let t := t.setFld R.FRM.CAUSE.STATUS c.status
       .next (if [stBadArg, stNoRes, stNoMem, stLocked, stWrongPhase].contains c.status then t.setFld R.FRM.STAT.STATE_EV 1 else t)
     | none => .next t)
  | .fault f => .fault f
  | .refused r => .refused r

/-- FRM_APPLY (R217, R418, R419, R425). -/
def execFrmApply (ch tag : Nat) (s : State) : Out3 :=
  match takenCmd s ch tag with
  | none => ok s
  | some c =>
    if c.opcode ≠ 0x0304 then ok s
    else
      applyRefused ch tag (runAccepted 0x0304 (· == 12)
        (fun s _ => hostOwns s bTIME || (match stagedForme s with | some f => diffLocked s (applyBase s) f | none => false))
        (frmApplyBody ch tag) ch tag s)

/-- The working forme takes the imposition table's shadow entries (R222). -/
def recordImps (s : State) : State :=
  { s with fw := { s.fw with work := { s.fw.work with
      imps := (impListed s).foldl (fun m d => sPut formeImpDefault m d (s.imp d).shadow) s.fw.work.imps } } }

/-- PLATEN_FIRE (R119): an armed platen fires at its fire time. A platen of a forme apply fires as its epoch; one that
carries an RT.SET lets the generation rise and ends that command (R222). -/
def execPlatenFire (k : Nat) (s : State) : Out3 :=
  let k := k % 16
  if !plDue s k then ok s
  else if (s.pl k).owner = 2 then ok (formeEpoch s)
  else
    let s := platenFire s k
    match s.fw.route with
    | some (pk, ch, tag) =>
      if pk = k ∧ (s.pl k).owner = 1 then
        let s := s.setPl k { s.pl k with owner := 0 }
        let s := recordImps { s with fw := { s.fw with route := none } }
        let s := finishGen s 0x0700 ch
        ok (endCmd s ch tag stOk (leBytes 2 0xFFFF ++ [0, 0]))
      else ok s
    | none => ok s

/-- STK_GEN_PULL (R389): a member whose generation differs from the master's reloads the stored forme its record names,
applies the diff by the staged apply, and takes the master's generation. An apply it overtakes ends with GEN_MISMATCH
(R218). A stored forme that fails its check leaves the member JOINING, and STK_MEMBER carries a cause; its code is not stated (log
115). A position with no record tells the master its own base and takes the generation without a pull. -/
def execStkGenPull (stored crc : Nat) (diff : List Byte) (record : Bool) (s : State) : Out3 :=
  if !stkMember s ∨ liveGen s = s.stk.mgen then ok s
  else
    let s := abortApply s stGenMis
    if !record then
      let slot := s.fld R.FRM.BOOT.USED
      let b := s.flash.formes.getD slot []
      ok (stkJoin (setGen (stkTell s (.stored slot (u32 b 8) (u32 b 16))) s.stk.mgen 0x0304 3))
    else
      let b := s.flash.formes.getD stored []
      match (if formeVerdict s b = 0 ∧ u32 b 16 = crc then parseForme b else none), freePlaten s with
      | some f, some k =>
        let f := (readAll diff.length diff f).getD f
        if s.fw.apply.isSome then ok s
        else ok (beginApply s f k 0 (s.ptiRaw 0 + 2000000 * nsUnit) none (some s.stk.mgen))
      | none, _ =>
        let (i, s) := s.fresh
        let cause := (Config.freeValue i).toNat % 256
        ok (if stkState s = 2 then
            stkTell (s.event 0xE0A0 [byteOf (stkPos s), 2, byteOf cause]) (.memberState (stkPos s) 2 cause)
          else stkGo s 2 cause)
      | _, none => ok s

end Sys2Proof.Machine
end

