-- ==== Sys2Proof/Machine/Twin.lean ====
section
/-! DEFINITION. Twins (R400 to R411): heartbeats, decisions, the switchover and handover, checkpoints, proof and health. -/

namespace Sys2Proof.Machine

/-- Own twin state and role (R402). -/
def twinState (s : State) : Nat := s.fld R.TWIN.STAT.STATE
def twinRole (s : State) : Nat := s.fld R.TWIN.CFG.ROLE

/-- The pair's link is UP. -/
def twinLinkUp (s : State) : Bool := stkUp s (s.fld R.TWIN.CFG.LINK)

/-- Change the twin's record. -/
def State.setTwin (s : State) (f : Twin → Twin) : State := { s with twin := f s.twin }

/-- Count in one of the twin counters of R413 by its SAT bit: 0 to 15 TDM_MMn, 16 to 21 the counters at 0x1_3080. -/
def twinCount (s : State) (i n : Nat) : State :=
  let key := if i < 16 then R.TWIN.TDM_MM.reg i else R.TWIN.HASH_MM.reg + 4 * (i - 16)
  s.countSatN { R.TWIN.HASH_MM.COUNT with key := key } n R.TWIN.SAT.SAT_F i

/-- Enter PAIRING (R402): nothing is committed yet, and a handover under way has ended. -/
def twinPair (s : State) : State :=
  oeRefresh (twinGo ((s.setFld R.TWIN.CMD.HANDOVER 0).setTwin fun t => { t with dynOk := false, cfgOk := false, held := none, cfgHeld := none, handAt := none }) 1)

/-- Enter ACTIVE: the partner gets the configuration (R403). -/
def twinActivate (s : State) : State := ckptConfig (oeRefresh (twinGo s 2))

/-- What a heartbeat tells (R402, R405). After a yield the device pairs again as a standby, and its role follows. -/
def heartbeatRx (s : State) (role st _gen seq : Nat) : State :=
  if twinState s = 0 then s
  else
    let newly := st = 1 ∧ s.fld R.TWIN.STAT.PARTNER ≠ 1
    let s := s.setFlds [(R.TWIN.STAT.PARTNER, st), (R.TWIN.STAT.PARTNER_OK, 1)]
    let s := s.setTwin fun t => { t with partnerRole := role, miss := 0, seq := if twinRole s = 2 then seq else t.seq }
    if twinState s = 1 ∧ twinRole s = 1 ∧ role = 2 then twinActivate s
    else if twinState s = 5 ∧ st = 2 then
      twinPair ((s.setFld R.TWIN.CFG.ROLE 2).setFldSh R.TWIN.CFG.ROLE 2)
    else if twinState s = 2 ∧ newly then ckptConfig s
    else s

/-- TWIN_HEARTBEAT_TX (R405): a TIME-class frame with the role, the state, the generation and the checkpoint sequence. Both
devices of a pair send it, since R402 names heartbeats from either role (log 31). -/
def execTwinHeartbeatTx (s : State) : Out3 :=
  if twinState s ≠ 0 ∧ twinLinkUp s = true then
    let l := s.fld R.TWIN.CFG.LINK
    ok (stkOut s l (.heartbeat (twinRole s) (twinState s) (liveGen s) s.twin.seq))
  else ok s

/-! ### Switchover (R406) -/

/-- A standby that can decide (R405). -/
def canDecide (s : State) : Bool := twinState s == 3 && s.twin.dynOk && s.twin.cfgOk

/-- The device joined by the twin link is the stack master. -/
def partnerIsMaster (s : State) : Bool :=
  s.stk.devs.any fun d => d.role == 1 && d.link == s.fld R.TWIN.CFG.LINK

/-- TWIN_TAKEOVER_DECISION (R405, R406, R408): the decision cycle d. -/
def twinTake (s : State) (cause : Nat) : State :=
  let s := s.setFlds [(R.TWIN.STAT.CAUSE, cause), (R.TWIN.TAKEOVER_GEN.GEN, liveGen s), (R.TWIN.CMD.TAKE, 0)]
  let s := (twinCount s 21 1).setTwin fun t =>
    { t with launchAt := s.ticks + 1000, handAt := none, held := none, cfgHeld := none, miss := 0 }
  let s := oeRefresh (twinGo s 4)
  let s := { s with pins := { s.pins with twinTakeLow := true } }
  s.emit .takePulse

/-- A decision for cause 1 or 2, inhibited below MIN_SCORE (R405). -/
def twinDecide (s : State) (cause : Nat) : State :=
  if !canDecide s then s
  else if s.fld R.TWIN.HEALTH.SCORE < s.fld R.TWIN.CFG.MIN_SCORE then s.setFld R.TWIN.STAT.INHIBIT_EV 1
  else twinTake s cause

/-- TWIN_HEARTBEAT_MISS (R402, R405): one heartbeat of the partner has not come. -/
def execTwinHeartbeatMiss (s : State) : Out3 :=
  if twinState s = 0 then ok s
  else
    let n := s.twin.miss + 1
    let s := s.setTwin fun t => { t with miss := n }
    if n < s.fld R.TWIN.CFG.HB_MISS then ok s
    else
      let s := if s.flag R.TWIN.STAT.PARTNER_OK then
          twinCount (s.setFlds [(R.TWIN.STAT.PARTNER_OK, 0), (R.TWIN.STAT.HB_LOST_EV, 1)]) 20 1
        else s
      ok (if s.flag R.TWIN.CFG.AUTO then twinDecide s 1 else s)

/-- TWIN_FAIL_PIN (R405): TWIN_FAIL_N has been low for `ns`. -/
def execTwinFailPin (ns : Nat) (s : State) : Out3 :=
  ok (if 50 ≤ ns ∧ s.flag R.TWIN.CFG.PIN_EN = true then twinDecide s 2 else s)

/-- TWIN_CMD_TAKE (R405). -/
def execTwinCmdTake (s : State) : Out3 :=
  ok (if s.flag R.TWIN.CMD.TAKE && canDecide s then twinTake s 3 else s)

/-- Frames that wait for a port are not launched any more (R406). -/
def dropWaiting (s : State) : State :=
  let ws := (s.txp.flatMap fun p => p.wait.map fun w => (w.flow, w.k)).eraseDups
  let s := { s with txp := s.txp.map fun p => { p with wait := [] } }
  ws.foldl (fun s w => if w.1 < 256 then releaseIfDone s w.1 w.2 else s) s

/-- An active device gives up its role (R218, R406). -/
def twinYield (s : State) : State :=
  let s := abortApply s stWrongPhase
  let s := (s.setFld R.TWIN.CMD.HANDOVER 0).setTwin fun t => { t with handAt := none }
  dropWaiting (oeRefresh (twinGo s 5))

/-- TWIN_TAKE_PULSE_SEEN (R406): a pulse the device did not drive itself. -/
def execTwinTakePulseSeen (s : State) : Out3 :=
  if twinState s = 2 ∧ s.pins.twinTakeLow = false then ok (twinYield s) else ok s

/-- TWIN_TAKING_END (R406, R408): 64 CK_CORE cycles, 40 CK_TIME ticks, after d. The role becomes 1 (log 27), and a stack master's
standby enters MASTER. -/
def execTwinTakingEnd (s : State) : Out3 :=
  if twinState s = 4 ∧ s.twin.launchAt ≤ s.ticks + 960 then
    let t := twinActivate ((s.setFld R.TWIN.CFG.ROLE 1).setFldSh R.TWIN.CFG.ROLE 1)
    ok (if (stkMember t ∨ stkState t = 6) ∧ partnerIsMaster t = true then stkGo t 5 0 else t)
  else ok s

/-- TWIN_PAIRING_TIMEOUT (R402): role 1 and no heartbeat for 10 ms. -/
def execTwinPairingTimeout (s : State) : Out3 :=
  if twinState s = 1 ∧ twinRole s = 1 ∧ s.flag R.TWIN.STAT.PARTNER_OK = false then ok (twinActivate s) else ok s

/-- The pair's link has left UP (R402, R409). A standby that decides on heartbeat loss stays one (log 28). -/
def twinLinkDown (s : State) (l : Nat) : State :=
  if s.fld R.TWIN.CFG.LINK ≠ l then s
  else if twinState s = 2 then twinPair s
  else if twinState s = 3 ∧ ¬ (s.flag R.TWIN.CFG.AUTO = true ∧ canDecide s = true) then twinPair s
  else s

/-! ### Checkpoints (R403, R404) -/

/-- The first index of a flow's packets at or after now (R403). -/
def nextPacket (s : State) (f : Nat) : Nat :=
  let m := s.fld (R.TXF.F_CFG.MCS f)
  let now := s.ptiRaw (s.mcsPti m)
  let n := max 1 (txN s f)
  let c := indexAt s m now + b2n (decide (instantOf s m (indexAt s m now) < now))
  c + (s.fld (R.TXF.F_PHASE.ALIGN f) + n - c % n) % n

/-- The folio a flow's packet of index `k` carries (R322). -/
def folioAt (s : State) (f k : Nat) : Nat :=
  let x := s.txf f
  (((x.folio0 : Int) + ((k : Int) - (x.k0 : Int)) / (max 1 (txN s f) : Nat)) % 65536).toNat

/-- A flow's own hash of the last complete millisecond (R410). -/
def ownHash (s : State) (f : Nat) : Nat := sGet (fun _ => 0) s.twin.lastHash f

/-- What a dynamic checkpoint says of the running transmit flows. -/
def ckptFlows (s : State) : List CkptFlow :=
  ((List.range 256).filter fun f => s.fld (R.TXF.F_STAT.STATE f) == 2).map fun f =>
    ⟨f, nextPacket s f, folioAt s f (nextPacket s f), (s.rd (R.TXF.F_PHASE.reg f)).toNat, ownHash s f⟩

/-- What it says of the adaptive receive flows: flow and link offset. -/
def ckptOffs (s : State) : List (Nat × Nat) :=
  ((List.range 256).filter fun f => s.fld (R.RXF.F_STAT.STATE f) != 0 && s.flag (R.RXF.F_CFG.ADAPT f)).map fun f =>
    (f, s.fld (R.RXF.F_OFFSET_NOW.SAMPLES f))

/-- A time of R10 in ten bytes. -/
def timeBytes (t : PtiTime) : List Byte := leBytes 6 t.sec ++ leBytes 4 t.ns

/-- The body of a dynamic checkpoint; the order of its contents is the model's (log 21). -/
def dynBytes (s : State) : List Byte :=
  let fl := ckptFlows s
  let of_ := ckptOffs s
  leBytes 4 0 ++ leBytes 4 (liveGen s) ++ leBytes 4 s.twin.seq ++ leBytes 2 fl.length ++ leBytes 2 of_.length ++
    (fl.flatMap fun c => leBytes 4 c.flow ++ leBytes 8 c.k ++ leBytes 4 c.folio ++ leBytes 4 c.phase ++ leBytes 4 c.hash) ++
    (of_.flatMap fun o => leBytes 4 o.1 ++ leBytes 4 o.2) ++
    ((List.range 8).flatMap fun n => leBytes 8 (mcsCount s n) ++ leBytes 4 (s.rd (R.CLK.MCS_PHASE.reg n)).toNat) ++
    (if stkState s = 5 then (List.range 4).flatMap fun n => timeBytes (s.pti n).time else [])

/-- A dynamic checkpoint as received: its generation, flows and offsets. -/
def parseDyn (b : List Byte) : Nat × List CkptFlow × List (Nat × Nat) :=
  let n := u16 b 12
  (u32 b 4,
   (List.range n).map (fun i =>
     let a := 16 + 24 * i
     ⟨u32 b a, u64 b (a + 4), u32 b (a + 12), u32 b (a + 16), u32 b (a + 20)⟩),
   (List.range (u16 b 14)).map fun i => (u32 b (16 + 24 * n + 8 * i), u32 b (20 + 24 * n + 8 * i)))

/-- The active device sends a dynamic checkpoint through Q919 (R403). -/
def dynSend (s : State) : State :=
  let s := s.setTwin fun t => { t with seq := (t.seq + 1) % 2 ^ 32 }
  stkPut s 919 3 (ckptItem (dynBytes s))

/-- TWIN_CHECKPOINT_DYNAMIC_TX (R403, R410): a whole millisecond of PTI0 closes the hashes of both devices; the active one
sends. -/
def execTwinCheckpointDynamicTx (s : State) : Out3 :=
  if twinState s = 0 then ok s
  else
    let s := s.setTwin fun t => { t with
      lastHash := t.hashes.foldl (fun m p => sPut (fun _ => 0) m p.1 (p.2 ^^^ 0xFFFFFFFF)) []
      hashes := [] }
    ok (if twinState s = 2 then dynSend s else s)

/-- TWIN_CMD_HANDOVER (R407): a final dynamic checkpoint, then the decision cycle 1 ms ahead. -/
def execTwinCmdHandover (s : State) : Out3 :=
  if s.flag R.TWIN.CMD.HANDOVER ∧ twinState s = 2 ∧ s.twin.handAt = none then
    let s := stkTell (dynSend s) (.handover 800000)
    ok (s.setTwin fun t => { t with handAt := some (s.ticks + 500000) })
  else ok s

/-- The active device has named a decision cycle so many CK_CORE cycles ahead (R407). -/
def handoverRx (s : State) (cycles : Nat) : State :=
  if twinState s = 3 then s.setTwin fun t => { t with handAt := some (s.ticks + cycles * 5 / 8) } else s

/-- TWIN_HANDOVER_CYCLE (R407): in one cycle the standby takes over and the former active yields. -/
def execTwinHandoverCycle (s : State) : Out3 :=
  match s.twin.handAt with
  | none => ok s
  | some t =>
    if s.ticks < t then ok s
    else
      let s := s.setTwin fun t => { t with handAt := none }
      ok (if canDecide s then twinTake s 3 else if twinState s = 2 then twinYield s else s)

/-- A checkpoint is rewound (R403). -/
def ckptFail (s : State) : State := twinCount (s.setFld R.TWIN.STAT.CKPT_FAIL_EV 1) 19 1

/-- A proof test failed (R410): `i` is its place in the period, 0 and 1 the comparisons. -/
def proofFail (s : State) (i : Nat) : State :=
  (if i < 2 then s.setFld R.TWIN.STAT.MISMATCH_EV 1 else s).setTwin fun t => { t with period := modifyAt t.period i (fun _ => true) }

/-- The hash compare of R410: each flow of the checkpoint against the own hash. -/
def hashCompare (s : State) (fl : List CkptFlow) : State :=
  if twinState s ≠ 3 ∨ nbit (s.fld R.TWIN.CFG.PROOF) 1 = false then s
  else fl.foldl (fun s c =>
    if c.hash = ownHash s c.flow then s
    else
      let s := twinCount (proofFail s 1) 16 1
      s.setTwin fun t => { t with hashMm := sPut (fun _ => 0) t.hashMm c.flow (sGet (fun _ => 0) t.hashMm c.flow + 1) }) s

/-- A transmit flow takes its continuity base (R404, R408). Its packets are composed with the folio they carry if this
device takes over, one above the active's; a standby launches none of them. -/
def loadFlow (s : State) (c : CkptFlow) : State :=
  if s.fld (R.TXF.F_STAT.STATE c.flow) ≠ 2 then s
  else
    let x := s.txf c.flow
    let n := max 1 (txN s c.flow)
    let j := (c.k - x.k) / n
    let s := s.setTxf c.flow { x with k0 := c.k - j * n, folio0 := (c.folio + 1 + 65536 - j % 65536) % 65536 }
    s.wr (R.TXF.F_PHASE.reg c.flow) (BitVec.ofNat 32 c.phase)

/-- An adaptive flow slews to the active's link offset (R404). -/
def loadOff (s : State) (o : Nat × Nat) : State :=
  let d : Int := (o.2 : Int) - (s.fld (R.RXF.F_OFFSET_NOW.SAMPLES o.1) : Int)
  if s.fld (R.RXF.F_STAT.STATE o.1) = 0 ∨ s.flag (R.RXF.F_CFG.ADAPT o.1) = false ∨ (s.flow o.1).slew ≠ none ∨ d = 0 then s
  else startSlew s o.1 d (s.fld (R.RXF.F_PLC.RATE_PPM o.1))

/-- A dynamic checkpoint is applied (R404). -/
def dynApply (s : State) (fl : List CkptFlow) (of_ : List (Nat × Nat)) : State :=
  let s := s.setTwin fun t => { t with base := fl, dynOk := true, dynAt := s.ticks, held := none }
  of_.foldl loadOff (fl.foldl loadFlow s)

/-- A held configuration is applied by the staged apply once it may be (R404). -/
def cfgTry (s : State) (ready : Bool) : State :=
  match s.twin.cfgHeld, freePlaten s with
  | some f, some k =>
    if ready && s.fw.apply.isNone then
      beginApply (s.setTwin fun t => { t with cfgHeld := none }) f k 0 (s.ptiRaw 0 + 2000000 * nsUnit) none (some f.gen)
    else s
  | _, _ => s

/-- A standby whose two kinds are committed leaves PAIRING; two standbys never pair (R402, R409). -/
def pairTry (s : State) : State :=
  if twinState s = 1 ∧ twinRole s = 2 ∧ s.twin.partnerRole ≠ 2 ∧ s.twin.dynOk = true ∧ s.twin.cfgOk = true then
    oeRefresh (twinGo s 3)
  else s

/-- A dynamic checkpoint commits (R404): one of another generation than the last configuration is held. -/
def dynCommit (s : State) (b : List Byte) : State :=
  let (g, fl, of_) := parseDyn b
  let s := hashCompare s fl
  if twinState s = 3 ∧ g ≠ s.fld R.TWIN.CFG_GEN.GEN then s.setTwin fun t => { t with held := some (g, fl, of_) }
  else pairTry (cfgTry (dynApply s fl of_) true)

/-- A configuration checkpoint commits (R404). -/
def cfgCommit (s : State) (b : List Byte) : State :=
  match (if formeVerdict s b = 0 then parseForme b else none) with
  | none => s
  | some f =>
    let s := (s.setFld R.TWIN.CFG_GEN.GEN f.gen).setTwin fun t => { t with cfgOk := true, cfgHeld := some f }
    if twinState s = 1 then pairTry (cfgTry s true)
    else
      match s.twin.held with
      | some (g, fl, of_) => if g = f.gen then cfgTry (dynApply s fl of_) true else s
      | none => s

/-- TWIN_CHECKPOINT_COMMIT (R403, R404): the standby takes the oldest item of Q951. A poisoned one is not committed. -/
def execTwinCheckpointCommit (s : State) : Out3 :=
  let (r, s') := galPop s 951
  match r with
  | none => ok s
  | some (.slug _, _) => ok (galRefresh (galFreeFirst s' 951 1))
  | some (.item it, bad) =>
    let s := galRefresh (galFreeFirst s' 951 1)
    if twinRole s ≠ 2 ∨ (twinState s ≠ 1 ∧ twinState s ≠ 3) then ok s
    else if !bad.isEmpty then ok (ckptFail s)
    else
      let b := (it.bytes.drop 16).take (it.bytes.length - 20)
      ok (if u32 b 0 = 0x454D524F then cfgCommit s b else dynCommit s b)

/-! ### Health (R411) -/

/-- Microseconds since the last dynamic checkpoint (R404, R413). -/
def ckptAge (s : State) : Nat := if s.twin.dynOk then min 0xFFFFFFFE ((s.ticks - s.twin.dynAt) / 500) else 0xFFFFFFFF

/-- The score of a period (R411). -/
def healthScore (s : State) : Nat :=
  let on (i : Nat) : Bool := s.twin.period.getD i false
  100 - (40 * b2n (on 0) + 40 * b2n (on 1) + 20 * b2n (on 2) + 10 * b2n (on 3) + 30 * b2n (decide (3000 < ckptAge s)))

/-- A count in 16 bits; one that does not fit reads all ones (log 32). -/
def sat16 (n : Nat) : List Byte := leBytes 2 (min 65535 n)

/-- Page 0 of TWIN.HEALTH (R225). -/
def healthPage (s : State) : List Byte :=
  [byteOf (s.fld R.TWIN.HEALTH.SCORE), byteOf (twinRole s), 0, 0] ++ leBytes 4 (s.fld R.TWIN.TAKEOVER_GEN.GEN) ++
    leBytes 4 (ckptAge s) ++ ((List.range 16).flatMap fun n => sat16 (s.fld (R.TWIN.TDM_MM.COUNT n))) ++
    sat16 (s.fld R.TWIN.MARCH_FAIL.COUNT) ++ sat16 (s.fld R.TWIN.LOOP_FAIL.COUNT)

/-- The score of the period goes to HEALTH and a new period begins. -/
def healthClose (s : State) : State :=
  let v := healthScore s
  let s := s.setFld R.TWIN.HEALTH.SCORE v
  let s := if v < s.fld R.TWIN.CFG.MIN_SCORE then s.setFld R.TWIN.STAT.HEALTH_EV 1 else s
  s.setTwin fun t => { t with period := List.replicate 4 false }

/-- March and loopback failures of the tests that PROOF enables (R410). -/
def proofTests (s : State) (march loop : Nat) : State :=
  let p := s.fld R.TWIN.CFG.PROOF
  let s := if nbit p 2 && march != 0 then twinCount (proofFail s 2) 17 march else s
  if nbit p 3 && loop != 0 then twinCount (proofFail s 3) 18 loop else s

/-- TWIN_HEALTH_PERIOD_END (R227, R410, R411): a health period of a device with a twin role ends; a standby's march and lane
loopback tests failed so often in it. PERIOD_MS 0 has no periods. -/
def execTwinHealthPeriodEnd (march loop : Nat) (s : State) : Out3 :=
  if twinState s = 0 ∨ s.fld R.TWIN.HCFG.PERIOD_MS = 0 then ok s
  else
    let s := healthClose (if twinState s = 3 then proofTests s march loop else s)
    ok (s.event 0xE0C0 (healthPage s))

/-- TWIN_TDM_COMPARE (R410): the sampled slots of a frame of a SHARE direction against the words it computed. -/
def tdmCompare (s : State) (p k : Nat) (sdo : List Nat) : State :=
  if twinState s ≠ 3 ∨ nbit (s.fld R.TWIN.CFG.PROOF) 0 = false ∨ nbit (s.fld R.TWIN.SHARE.TX) p = false ∨
      s.tdmState p false ≠ tdmRunning ∨ sdo.isEmpty = true then s
  else
    let r := txPlan s p k true
    let bad := (activeSlots (s.fld (R.TDM.TX_FRAME.SLOTS p)) (s.rd (R.TDM.TX_MASK.reg p))).any fun sl =>
      match r.words.find? (fun x => x.1 == sl) with
      | some x => toSlot s p false x.2 != sdo.getD sl 0
      | none => false
    if bad then twinCount (proofFail s 0) p 1 else s

end Sys2Proof.Machine
end

