-- ==== Sys2Proof/Machine/Guard.lean ====
section
/-! DEFINITION. The line guard (R432 to R444): readback, trips and re-probes of TDM pins, open and clock swap tests, lanes
and TIO pins; and TDM_FRAME, whose frame the guard and the twin's proof judge. -/

namespace Sys2Proof.Machine

/-- Pins 0 to 2 of a port belong to its transmit direction, 3 to 5 to its receive direction (R35). -/
def pinRx (pin : Nat) : Bool := 3 ≤ pin

/-- A pin is an output: SDO, or a clock of a master direction. -/
def pinOut (s : State) (n pin : Nat) : Bool :=
  pin == 2 || (pin != 5 && s.flag (td (R.TDM.TX_FMT.MASTER n) (pinRx pin)))

/-- A pin's direction drives its outputs (R237). -/
def dirDrives (s : State) (n : Nat) (rx : Bool) : Bool :=
  let st := s.tdmState n rx
  st == tdmLeadIn || st == tdmRunning || st == tdmLeadOut

/-- A pin is tripped. -/
def tripped (s : State) (n pin : Nat) : Bool := nbit (s.fld (R.GRD.TDM_STAT.TRIPPED n)) pin

/-- A pin is driven and compared (R433, R436): never on a shared direction of a standby. -/
def pinCompared (s : State) (n pin : Nat) : Bool :=
  pinOut s n pin && dirDrives s n (pinRx pin) && !tripped s n pin && !(decide (pin < 3) && sharedPort s n)

/-- GRD_READBACK_FAULT (R433): two consecutive mismatches; kind 0 short low, 1 short high, 2 contention. -/
def execGrdReadbackFault (n pin kind : Nat) (s : State) : Out3 :=
  if grdOn s 0 ∧ pinCompared s n pin = true then
    let s := tdmDetect s n pin (kind + 1) (if kind = 2 then R.GRD.TDM_STAT.CONTEND n else R.GRD.TDM_STAT.SHORT n)
    ok { s with grd := { s.grd with faulted := insertNat (6 * n + pin) s.grd.faulted } }
  else ok s

/-- A frame of a direction ends: its pins' runs of faulted frames (R434). A pin released meanwhile is not faulted (R439). -/
def frameFaults (s : State) (n : Nat) (rx : Bool) : State :=
  [0, 1, 2].foldl (fun s i =>
    let pin := if rx then i + 3 else i
    let k := 6 * n + pin
    let run := if s.grd.faulted.contains k ∧ pinCompared s n pin = true then sGet (fun _ => 0) s.grd.runs k + 1 else 0
    { s with grd := { s.grd with
      faulted := s.grd.faulted.filter (· != k), runs := sPut (fun _ => 0) s.grd.runs k run } }) s

/-- TDM_FRAME (R234 to R246, R410, R434): `sdo` are the slots sampled on the released SDO of a shared direction. The first
frame after a mask boundary is not compared. -/
def execTdmFrame (p : Nat) (rx maskReady : Bool) (len high : Nat) (line sdo : List Nat) (s : State) : Out3 :=
  let mask := maskReady && (dirMaskKeys p rx).any fun k => (capVal s k).isSome
  let s := frameFaults s p rx
  let s' := tdmFrame s p rx maskReady len high line
  ok (if !rx && !mask && s.tdmState p false == tdmRunning then tdmCompare s' p (s'.tdm p false).idx sdo else s')

/-- GRD_PIN_TRIP (R434, R439): TRIP_FRAMES faulted frames in a row release the pin. -/
def execGrdPinTrip (n pin : Nat) (s : State) : Out3 :=
  let k := 6 * n + pin
  if s.fld R.GRD.CTL.TRIP_FRAMES ≤ sGet (fun _ => 0) s.grd.runs k ∧ grdOn s 0 = true ∧ pinCompared s n pin = true then
    let s := { s with grd := { s.grd with runs := sPut (fun _ => 0) s.grd.runs k 0 } }
    ok (tripEvent (oeRefresh (setBitOf s (R.GRD.TDM_STAT.TRIPPED n) pin true)) 0 n)
  else ok s

/-- GRD_REPROBE_TIMER (R435, R439, R442): a tripped pin of class 0 (port `n`) or of TIO (class 2) is driven for one frame,
by the timer or because GRD.REPROBE asked for it; `clean` says that no bit mismatched. -/
def execGrdReprobeTimer (cls n pin : Nat) (clean : Bool) (s : State) : Out3 :=
  let k := if cls = 0 then 6 * n + pin else 96 + pin
  let due := s.flag R.GRD.PROBE.REPROBE_MS || s.grd.reprobe.contains k
  let s' := { s with grd := { s.grd with reprobe := s.grd.reprobe.filter (· != k) } }
  if !due then ok s
  else if cls = 0 then
    if !tripped s n pin || !grdOn s 0 then ok s'
    else if clean && s.tdmState n (pinRx pin) != tdmClockLost then
      ok (oeRefresh (setBitOf s' (R.GRD.TDM_STAT.TRIPPED n) pin false))
    else ok (grdCount s' 18)
  else if !nbit (s.fld R.GRD.TIO_STAT.TRIPPED) pin || !grdOn s 4 then ok s'
  else if clean then ok (setBitOf s' R.GRD.TIO_STAT.TRIPPED pin false)
  else ok (grdCount s' 18)

/-- An input pin the open test covers (R437): SDI, and the clocks of a slave direction, while it stands. -/
def openTested (s : State) (n pin : Nat) : Bool :=
  let rx := pinRx pin
  let st := s.tdmState n rx
  pin != 2 && !pinOut s n pin && s.flag (td (R.TDM.TX_FMT.EN n) rx) &&
    (st == tdmReady || st == tdmArmed || st == tdmClockLost)

/-- GRD_OPEN_TEST (R437): what a port's pins read after the pull-up (`up`) and after the pull-down (`down`), a bit each. -/
def execGrdOpenTest (n up down : Nat) (s : State) : Out3 :=
  if !grdOn s 1 || !s.flag R.GRD.PROBE.OPEN_MS then ok s
  else
    let tested := ((List.range 6).map fun pin => if openTested s n pin then 2 ^ pin else 0).sum
    ok ((List.range 6).foldl (fun s pin =>
      if openTested s n pin && nbit up pin && !nbit down pin then tdmDetect s n pin 4 (R.GRD.TDM_STAT.OPEN n) else s)
      (if tested = 0 then s else s.emit (.pullUp n tested)))

/-- Two frequencies stand in a direction's ratio: `a` is FRAME_LEN times `b`, within 1 % (R438). -/
def ratioMeets (len a b : Nat) : Bool := decide (99 * len * b ≤ 100 * a) && decide (100 * a ≤ 101 * len * b)

/-- GRD_CLOCK_SWAP_DETECT (R438, R439): the frequencies at a slave direction's frame-sync and bit-clock pins. In the cycle
in which the direction enters OFF nothing is exchanged. Which of the two pins GRD.LAST names is free (log 33). -/
def execGrdClockSwapDetect (n : Nat) (rx : Bool) (fs bclk : Nat) (s : State) : Out3 :=
  let st := s.tdmState n rx
  let sw := if rx then R.GRD.TDM_STAT.RX_SWAP n else R.GRD.TDM_STAT.TX_SWAP n
  let len := frameLen s n rx
  let swapped := ratioMeets len fs bclk
  if !grdOn s 2 || s.flag (td (R.TDM.TX_FMT.MASTER n) rx) ||
      !(st == tdmOff || st == tdmArmed || st == tdmLeadIn || st == tdmClockLost) then ok s
  else if s.flag sw then ok (if swapped then s else s.setFld sw 0)
  else if !swapped then ok s
  else
    let (i, s) := s.fresh
    let pin := 3 * b2n rx + (Config.freeValue i).toNat % 2
    let s := grdLast (grdCount (s.setFld (R.GRD.TDM_STAT.SWAP_EV n) 1) n) 0 n pin 5
    ok (if st ≠ tdmOff ∧ nbit (s.fld R.GRD.AUTOSWAP.PORTS) n = true then s.setFld sw 1 else s)

/-- GRD_LOSS_OF_SIGNAL (R440): LOS holds while the signal is gone and counts once per loss. -/
def execGrdLossOfSignal (lane : Nat) (lost : Bool) (s : State) : Out3 :=
  if !grdOn s 3 ∨ 6 ≤ lane then ok s
  else
    let was := nbit (s.fld R.GRD.LANE_STAT.LOS) lane
    let s := setBitOf s R.GRD.LANE_STAT.LOS lane lost
    ok (if lost && !was then laneDetect s lane 9 else s)

/-- The TIO outputs (R442). -/
def tioOut (pin : Nat) : Bool := pin == 1 || pin == 3 || (decide (4 ≤ pin) && decide (pin < 8))

/-- GRD_TIO_SHORT (R442): an output in its current limit for 1 us, or a contention by readback, is released. -/
def execGrdTioShort (pin : Nat) (contention : Bool) (s : State) : Out3 :=
  if grdOn s 4 ∧ tioOut pin = true ∧ nbit (s.fld R.GRD.TIO_STAT.TRIPPED) pin = false then
    let s := setBitOf (setBitOf s R.GRD.TIO_STAT.FAULT pin true) R.GRD.TIO_STAT.TRIPPED pin true
    ok (tripEvent (tioDetect s pin (if contention then 3 else 10)) 2 pin)
  else ok s

/-- GRD_TIO_OPEN (R442): WCLK_OUT draws less than 5 mA; it goes on driving. -/
def execGrdTioOpen (s : State) : Out3 :=
  if grdOn s 4 then ok (tioDetect (setBitOf s R.GRD.TIO_STAT.OPEN 1 true) 1 4) else ok s

/-- GRD_INPUT_CONTENTION (R443): WCLK_IN (0) or PPS_IN (2) between VIL and VIH for more than 100 ns. -/
def execGrdInputContention (pin : Nat) (s : State) : Out3 :=
  if grdOn s 4 ∧ (pin = 0 ∨ pin = 2) then ok (tioDetect (setBitOf s R.GRD.TIO_STAT.FAULT pin true) pin 3) else ok s

/-- GRD_PPS_LOSS (R443): no edge for 1.5 s after the first edge since reset. -/
def execGrdPpsLoss (s : State) : Out3 :=
  if grdOn s 4 ∧ s.grd.ppsSeen = true ∧ s.flag R.GRD.TIO_STAT.PPS_LOSS = false then
    ok (tioDetect (s.setFlds [(R.GRD.TIO_STAT.PPS_LOSS, 1), (R.GRD.TIO_STAT.PPS_LOSS_EV, 1)]) 2 9)
  else ok s

end Sys2Proof.Machine
end

