-- ==== Sys2Proof/Machine/Mailbox.lean ====
section
/-! DEFINITION. The mailboxes (R184 to R198), host-loaded firmware (R202), and the watchdog and restart of the Compositor
(R203 to R205). -/

namespace Sys2Proof.Machine

/-- Change the mailboxes' record. -/
def State.setMbx (s : State) (f : Mbx → Mbx) : State := { s with mbx := f s.mbx }

/-! ### Slots (R188 to R190) -/

/-- The slots an initiator owns: 0 PCIe, 1 CTL; the Compositor owns none. -/
def slotsOf (s : State) (init : Nat) : Nat :=
  let ctl := s.fld R.MBX.SLOT_OWN.CTL
  if init = 0 then 255 - ctl else if init = 1 then ctl else 0

/-- A write of REQ_DB_SET (R188, R189): bits of the writer's own slots set; a write that names another slot, or a slot
already waiting, is counted once. -/
def reqDb (s : State) (init v : Nat) : State :=
  let v := v % 256
  let own := slotsOf s init
  let old := s.fld R.MBX.REQ_DB_SET.SLOT
  let s := if v &&& (255 - own) ≠ 0 then s.count R.MBX.STAT.DB_WRONG else s
  let s := if v &&& own &&& old ≠ 0 then s.count R.MBX.STAT.SLOT_BUSY else s
  s.setFld R.MBX.REQ_DB_SET.SLOT (old ||| (v &&& own))

/-- A write of RSP_DB_CLR (R188, R190). -/
def rspDb (s : State) (init v : Nat) : State :=
  let v := v % 256
  let own := slotsOf s init
  let s := if v &&& (255 - own) ≠ 0 then s.count R.MBX.STAT.DB_WRONG else s
  s.setFld R.MBX.RSP_DB_SET.SLOT (s.fld R.MBX.RSP_DB_SET.SLOT &&& (255 - (v &&& own)))

/-- REQ_DOORBELL (R189). -/
def execReqDoorbell (init v : Nat) (s : State) : Out3 := ok (reqDb s init v)

/-- RSP_DOORBELL_CLR (R190). -/
def execRspDoorbellClr (init v : Nat) (s : State) : Out3 := ok (rspDb s init v)

/-- The opcodes of R214 to R226. -/
def opcodes : List Nat :=
  (span 0x0100 9) ++ (span 0x0200 3) ++ (span 0x0300 7) ++ (span 0x0400 3) ++ (span 0x0500 5) ++ (span 0x0600 4) ++
    (span 0x0700 2) ++ (span 0x0800 2) ++ (span 0x0900 4) ++ (span 0x0A00 3) ++ (span 0x0B00 3) ++ (span 0x0C00 2) ++
    (span 0x0D00 2) ++ (span 0x0E00 3) ++ (span 0x0F00 3) ++ (span 0x1000 5) ++ (span 0x1100 2) ++ (span 0x1200 2)

/-- The header of a command (R185): its reserved bytes and flags, a tag of 0 and INDIRECT in a slot make it invalid. -/
def headerBad (ring : Bool) (h : List Byte) : Bool :=
  u8 h 2 == 0 || bits (u8 h 3) 2 6 != 0 || u16 h 6 != 0 || u32 h 12 != 0 || (!ring && nbit (u8 h 3) 1)

/-- A command is taken (R189, R192, R196): a tag in use on its channel is answered BAD_ARG at once, an opcode the device
does not have BAD_OPCODE; any other command is outstanding from here on. -/
def takeCmd (s : State) (ch place slot : Nat) (h payload : List Byte) (buf size : Nat) : State :=
  let op := u16 h 0
  let tag := u8 h 2
  let idx := if ch = 2 then slot else 0
  if s.mbx.cmds.any (fun c => c.chan == ch && c.tag == tag) then
    pushReady s (16 + place) ⟨op, tag, stBadArg, liveGen s, idx, []⟩
  else if !opcodes.contains op then pushReady s (16 + place) ⟨op, tag, stBadOpcode, liveGen s, idx, []⟩
  else
    s.setMbx fun m => { m with cmds := m.cmds ++
      [⟨ch, slot, op, tag, u8 h 3, u16 h 4, u32 h 8, headerBad (ch == 2) h, payload.take (u16 h 4), buf, size, .taken, 0, [],
        false⟩] }

/-- The ring mailbox runs. -/
def ringRuns (s : State) : Bool := s.flag R.MBX.RING_CTL.EN && !s.flag R.MBX.RING_STAT.STOPPED

/-- Ring commands outstanding (R192). -/
def ringOut (s : State) : Nat :=
  (s.mbx.cmds.filter fun c => c.chan == 2).length + (s.mbx.ready.filter fun p => p.1 == 24).length

/-- The command ring holds an entry the device may fetch (R192). -/
def ringWaits (s : State) : Bool :=
  ringRuns s && s.mbx.cmdHead != s.mbx.cmdTail && decide (ringOut s < 64) && s.flag R.MBX.STAT.FW_READY

/-- A slot that still waits in the Compositor's present pass (R197). -/
def passSlot (s : State) : Option Nat :=
  (List.range 8).find? fun k => decide (s.mbx.pass ≤ k) && nbit (s.fld R.MBX.REQ_DB_SET.SLOT) k

/-- The next slot the Compositor takes from (R197): the slots of a pass in ascending order, then the ring, then a new pass. Once
the ring's part has begun, how many entries it takes is open (log 109). -/
def nextSlot (s : State) : Option Nat :=
  match passSlot s with
  | some k => some k
  | none =>
    if s.mbx.pass < 8 ∧ ringWaits s = true then none
    else (List.range 8).find? fun k => nbit (s.fld R.MBX.REQ_DB_SET.SLOT) k

/-- REQUEST_TAKE (R178, R189, R197): the request is copied and its doorbell clears. -/
def execRequestTake (s : State) : Out3 :=
  match nextSlot s with
  | none => ok s
  | some k =>
    if !serving s then ok s
    else
      let h := memRead s.mbx.mem (256 * k) 16
      let s1 := s.setFld R.MBX.REQ_DB_SET.SLOT (setBit (s.fld R.MBX.REQ_DB_SET.SLOT) k false)
      let s1 := mcuResume (s1.setMbx fun m => { m with pass := k + 1 })
      ok (takeCmd s1 (slotChan s k) k k h (memRead s.mbx.mem (256 * k + 16) 240) 0 0)

/-- Forget a command that has ended and whose last message has been delivered. -/
def forget (s : State) (ch tag : Nat) (late : Bool) : State :=
  s.setMbx fun m => { m with cmds := m.cmds.filter fun c =>
    !(c.chan == ch && c.tag == tag && c.phase == .done && c.late == late) }

/-- Forget the command of a slot whose response has been delivered: the one the response answers, whoever owns the slot by now
(R196). -/
def forgetSlot (s : State) (k : Nat) (r : Msg) : State :=
  s.setMbx fun m => { m with cmds := m.cmds.eraseP fun c =>
    c.chan != 2 && c.slot == k && c.tag == r.tag && c.opcode == r.opcode && c.status == r.status && c.result == r.data &&
      c.phase == .done && !c.late }

/-- Take the first result of a place out of the queue of results. -/
def popReady (k : Nat) : List (Nat × Msg) → Option ((Nat × Msg) × List (Nat × Msg))
  | [] => none
  | p :: ps =>
    if p.1 % 16 = k then some (p, ps)
    else match popReady k ps with
      | some (q, rest) => some (q, p :: rest)
      | none => none

/-- The 16-byte header of a response, completion or event (R186). -/
def msgHeader (m : Msg) (trunc phase : Bool) (len : Nat) : List Byte :=
  leBytes 2 m.opcode ++ [byteOf m.tag, byteOf (b2n trunc + 128 * b2n phase)] ++ leBytes 2 len ++ leBytes 2 m.status ++
    leBytes 4 m.gen ++ leBytes 2 m.index ++ [0, 0]

/-- RESPONSE_WRITE (R189, R190): a ready result goes to response slot `k` once its doorbell is clear. -/
def execResponseWrite (k : Nat) (s : State) : Out3 :=
  let k := k % 8
  match popReady k s.mbx.ready with
  | none => ok s
  | some (p, rest) =>
    if nbit (s.fld R.MBX.RSP_DB_SET.SLOT) k then ok s
    else
      let m := p.2
      let data := m.data.take 240
      let bytes := msgHeader m (decide (240 < m.data.length)) false data.length ++ data
      let s1 := s.setMbx fun x => { x with ready := rest, mem := memWrite x.mem (0x800 + 256 * k) bytes }
      let s1 := if p.1 < 16 ∧ m.status ≠ stAccepted then forgetSlot s1 k m else s1
      ok (s1.setFld R.MBX.RSP_DB_SET.SLOT (setBit (s1.fld R.MBX.RSP_DB_SET.SLOT) k true))

/-! ### The ring mailbox (R191 to R195) -/

/-- A base of a ring: 64 bits, 4 KiB aligned. -/
def ringBase (s : State) (lo hi : Nat) : Nat := (s.rd lo).toNat / 0x1000 * 0x1000 + 2 ^ 32 * (s.rd hi).toNat

/-- A write of RING_CTL (R191, R195): setting EN resets every index; what the ring held is discarded and its outstanding
commands end as if never sent. -/
def ringCtlWrite (s : State) (en : Bool) : State :=
  if !en then s.setFld R.MBX.RING_CTL.EN 0
  else if s.flag R.MBX.RING_CTL.EN then s
  else
    let q := s.evtq 2
    let s := s.setEvtq 2 { q with queue := q.queue.filter fun m => m.tag == 0 }
    let s := s.setFlds [(R.MBX.RING_CTL.EN, 1), (R.MBX.RING_STAT.STOPPED, 0)]
    let s := s.setMbx fun m => { m with
      cmdTail := 0, cmdHead := 0, cplHead := 0, cplTail := 0, evtHead := 0, evtTail := 0, cplPhase := true, evtPhase := true
      cmds := m.cmds.filter fun c => c.chan != 2
      ready := m.ready.filter fun p => p.1 % 16 != 8 }
    let ap := s.fw.apply.map fun a =>
      { a with cmd := match a.cmd with
        | some (2, _) => none
        | c => c }
    let rt := match s.fw.route with
      | some (k, 2, _) => some (k, 3, 0)
      | r => r
    let ed := match s.fw.edit with
      | some (2, _, _) => none
      | e => e
    let s := { s with fw := { s.fw with apply := ap, route := rt, edit := ed } }
    match s.pwr.wakeMsg with
    | some (prev, last) =>
      let q := s.evtq 2
      let m : Msg := ⟨0xE030, 0, 0, liveGen s, 0, [byteOf prev, byteOf last]⟩
      { (if q.masked.contains 0xE030 then s else s.setEvtq 2 { q with queue := m :: q.queue }) with
        pwr := { s.pwr with wakeMsg := none } }
    | none => s

/-- RING_ENABLE (R191). -/
def execRingEnable (s : State) : Out3 := ok (ringCtlWrite s true)

/-- The ring doorbells of R184: 0 CMD_TAIL, 1 CPL_HEAD, 2 EVT_HEAD. -/
def ringDb (s : State) (k v : Nat) : State :=
  s.setMbx fun m =>
    if k = 0 then { m with cmdTail := v % 256 }
    else if k = 1 then { m with cplHead := v % 256 }
    else { m with evtHead := v % 256 }

/-- CMD_TAIL_DOORBELL (R192). -/
def execCmdTailDoorbell (v : Nat) (s : State) : Out3 := ok (ringDb s 0 v)

/-- CPL_HEAD_DOORBELL (R193). -/
def execCplHeadDoorbell (v : Nat) (s : State) : Out3 := ok (ringDb s 1 v)

/-- EVT_HEAD_DOORBELL (R194). -/
def execEvtHeadDoorbell (v : Nat) (s : State) : Out3 := ok (ringDb s 2 v)

/-- CMD_FETCH (R178, R192, R197): the next entry is read once no slot of the pass waits, and with INDIRECT its payload from host
memory. `entry` and `indirect` are what host memory holds. -/
def execCmdFetch (entry indirect : List Byte) (s : State) : Out3 :=
  if !ringWaits s ∨ (passSlot s).isSome = true then ok s
  else
    let h := s.mbx.cmdHead
    let s := s.emit (.hostRead (ringBase s R.MBX.CRING_BASE_LO.reg R.MBX.CRING_BASE_HI.reg + 64 * h) 64)
    let ind := nbit (u8 entry 3) 1
    let s := if ind then s.emit (.hostRead (u64 entry 16) (u16 entry 4)) else s
    let s := mcuResume (s.setMbx fun m => { m with cmdHead := (h + 1) % 256, pass := 8 })
    ok (takeCmd s 2 8 h (entry.take 16) (if ind then indirect else (entry.drop 16).take 48)
      (if ind then u64 entry 28 else 0) (if ind then u32 entry 36 else 0))

/-- A 64-byte ring entry. -/
def ringEntry (m : Msg) (trunc phase : Bool) (len : Nat) (data : List Byte) : List Byte :=
  let b := msgHeader m trunc phase len ++ data
  b ++ List.replicate (64 - b.length) 0

/-- COMPLETION_WRITE (R192, R193): one completion, its long result in the response buffer first. -/
def execCompletionWrite (s : State) : Out3 :=
  match popReady 8 s.mbx.ready with
  | none => ok s
  | some (p, rest) =>
    let t := s.mbx.cplTail
    if !ringRuns s ∨ (t + 1) % 256 = s.mbx.cplHead then ok s
    else
      let m := p.2
      let c := if p.1 < 16 then s.mbx.cmds.find? (fun c => c.chan == 2 && c.tag == m.tag) else none
      let ind := match c with
        | some c => nbit c.flags 1 && decide (48 < m.data.length)
        | none => false
      let (addr, size) := match c with
        | some c => (c.bufAddr, c.bufSize)
        | none => (0, 0)
      let room := if ind then size else 48
      let cut := m.data.take room
      let trunc := decide (room < m.data.length)
      let s1 := if ind then s.emit (.hostWrite addr cut false) else s
      let s1 := s1.emit (.hostWrite (ringBase s R.MBX.CPL_BASE_LO.reg R.MBX.CPL_BASE_HI.reg + 64 * t)
        (ringEntry m trunc s.mbx.cplPhase cut.length (if ind then [] else cut)) false)
      let s1 := s1.setMbx fun x => { x with
        ready := rest, cplTail := (t + 1) % 256, cplPhase := if t = 255 then !x.cplPhase else x.cplPhase }
      let s1 := if p.1 < 16 ∧ m.status ≠ stAccepted then forget s1 2 m.tag false else s1
      ok (irqEdge s1 50)

/-- One event written to the event ring. -/
def evtPut (s : State) (m : Msg) : State :=
  let t := s.mbx.evtTail
  let cut := m.data.take 48
  let s1 := s.emit (.hostWrite (ringBase s R.MBX.EVT_BASE_LO.reg R.MBX.EVT_BASE_HI.reg + 64 * t)
    (ringEntry m (decide (48 < m.data.length)) s.mbx.evtPhase cut.length cut) false)
  let s1 := s1.setMbx fun x => { x with
    evtTail := (t + 1) % 256, evtPhase := if t = 255 then !x.evtPhase else x.evtPhase }
  irqEdge s1 51

/-- The EVT_OVERFLOW event (R194, R227). -/
def overflowMsg (s : State) (q : EvtQueue) : Msg := ⟨0xE000, 0, 0, liveGen s, 0, leBytes 2 q.lost ++ leBytes 2 q.lostFirst⟩

/-- EVENT_WRITE (R194, R198): the oldest event, after one EVT_OVERFLOW if any were dropped; on a full ring the first
unsolicited event is dropped and counted, and final events wait. -/
def execEventWrite (s : State) : Out3 :=
  let q := s.evtq 2
  if !ringRuns s then ok s
  else if (s.mbx.evtTail + 1) % 256 = s.mbx.evtHead then
    (match q.queue.find? fun m => m.tag == 0 with
     | none => ok s
     | some m =>
       ok ((s.setEvtq 2 { q with
         queue := q.queue.eraseP (fun m => m.tag == 0)
         lost := min 65535 (q.lost + 1), lostFirst := if q.lost = 0 then m.opcode else q.lostFirst }).count
           R.MBX.RING_STAT.EVT_LOST))
  else if q.lost ≠ 0 then ok (evtPut (s.setEvtq 2 { q with lost := 0 }) (overflowMsg s q))
  else
    match q.queue with
    | [] => ok s
    | m :: rest =>
      let s := evtPut (s.setEvtq 2 { q with queue := rest }) m
      ok (if m.tag = 0 then s else forget s 2 m.tag true)

/-- RING_DMA_ERROR (R195): the ring stops; the first cause stays until EN is set again. -/
def execRingDmaError (cause : Nat) (s : State) : Out3 :=
  if !ringRuns s ∨ cause = 0 ∨ 5 < cause then ok s
  else ok (s.setFlds [(R.MBX.RING_STAT.STOPPED, 1), (R.MBX.RING_STAT.ERR_CAUSE, cause)])

/-! ### Mailbox space (R184) -/

/-- The loader window is served (R202): in BOOT where the straps or the images leave the boot to the host, and in
RECOVERY. -/
def loaderServes (s : State) : Bool :=
  let src := s.fld R.SYS.STRAPS.BOOT_SRC
  s.mbx.restart == 0 && (s.phase == 3 ||
    (s.phase == 0 && !s.flag R.MBX.LOAD_STAT.DONE &&
      (src == 1 || src == 2 || (src == 3 && s.fld R.MBX.BOOT_INFO.FALLBACK == 3))))

/-- Whether a word lies in the request slots, and the state after writing it there. -/
def slotWrite (s : State) (init off : Nat) (v : Word) : State :=
  let k := off / 256
  if !nbit (slotsOf s init) k then s.count R.MBX.STAT.DB_WRONG
  else if nbit (s.fld R.MBX.REQ_DB_SET.SLOT) k then s.count R.MBX.STAT.SLOT_BUSY
  else s.setMbx fun m => { m with mem := memWrite m.mem off (leBytes 4 v.toNat) }

/-- A word written to mailbox space. -/
def mbxWrite (s : State) (init off : Nat) (v : Word) : State :=
  if off < 0x800 then slotWrite s init off v
  else if off < 0x1000 then s
  else if off = 0x1000 ∨ off = 0x1004 ∨ off = 0x1008 then
    (if init = 0 then ringDb s ((off - 0x1000) / 4) v.toNat else s)
  else if off < 0x8000 then s
  else if loaderServes s && !s.flag R.MBX.LOAD_STAT.BUSY then
    s.setMbx fun m => { m with mem := memWrite m.mem off (leBytes 4 v.toNat) }
  else s

/-- A word read from mailbox space. -/
def mbxRead (s : State) (off : Nat) : Word :=
  if off < 0x1000 then BitVec.ofNat 32 (fromLE (memRead s.mbx.mem off 4)) else 0

/-! ### Host-loaded firmware (R202) -/

/-- A write of LOAD_CTL. -/
def loadCtlWrite (s : State) (init : Nat) (v : Nat) : State :=
  if !nbit v 31 ∨ !loaderServes s ∨ s.flag R.MBX.LOAD_STAT.BUSY = true then s
  else
    let len := v % 65536
    let total := s.fld R.MBX.LOAD_STAT.TOTAL
    let s := if total = 0 then s.setFlds [(R.MBX.LOAD_STAT.BAD_SIG, 0), (R.MBX.LOAD_STAT.DONE, 0)] else s
    if len = 0 ∨ 32768 < len then s.setFld R.MBX.LOAD_STAT.BAD_LEN 1
    else if 787200 < total + len then
      (s.setFlds [(R.MBX.LOAD_STAT.BAD_LEN, 1), (R.MBX.LOAD_STAT.TOTAL, 0)]).setMbx fun m => { m with load := [] }
    else
      let s := s.setFlds [(R.MBX.LOAD_STAT.BAD_LEN, 0), (R.MBX.LOAD_STAT.BUSY, 1)]
      s.setMbx fun m => { m with loadLen := len, loadLast := nbit v 30, loadCtl := init == 1 }

/-- LOAD_CHUNK_GO (R202). -/
def execLoadChunkGo (init len : Nat) (last : Bool) (s : State) : Out3 :=
  ok (loadCtlWrite s init (2 ^ 31 + b2n last * 2 ^ 30 + len % 65536))

/-- LOAD_CHUNK_TAKEN (R202): the chunk is appended and BUSY clears; after the last one the image waits for its check. -/
def execLoadChunkTaken (s : State) : Out3 :=
  if !s.flag R.MBX.LOAD_STAT.BUSY then ok s
  else
    let total := s.fld R.MBX.LOAD_STAT.TOTAL
    let n := s.mbx.loadLen
    let s1 := s.setFlds [(R.MBX.LOAD_STAT.BUSY, 0), (R.MBX.LOAD_STAT.TOTAL, total + n)]
    ok (s1.setMbx fun m => { m with
      load := memWrite m.load total (memRead m.mem 0x8000 n), loadLen := if m.loadLast then m.loadLen else 0 })

/-- FW_STARTED (R178, R227). -/
def fwStarted (s : State) (cause : Nat) : State :=
  (mcuResume s).event 0xE010 (leBytes 4 (s.rd R.COLO.FW.reg).toNat ++ [byteOf cause])

/-- LOAD_VERIFY_DONE (R200, R202): the ROM's check of the whole image, whose header gives version and stack protocol. A failed
load leaves the device ready for a new one. In RECOVERY the loaded firmware serves; SERVICE stays closed until reset
(R143). -/
def execLoadVerifyDone (sec : Option Nat) (fw proto : Nat) (s : State) : Out3 :=
  if !s.mbx.loadLast ∨ s.flag R.MBX.LOAD_STAT.BUSY = true ∨ s.mbx.loadLen = 0 ∨ !loaderServes s then ok s
  else
    let s := s.setMbx fun m => { m with loadLast := false, loadLen := 0 }
    if !imageVerifies s (s.fld R.MBX.LOAD_STAT.TOTAL) sec then
      ok ((s.setFlds [(R.MBX.LOAD_STAT.BAD_SIG, 1), (R.MBX.LOAD_STAT.TOTAL, 0)]).setMbx fun m => { m with load := [] })
    else
      let s := s.setFld R.MBX.LOAD_STAT.DONE 1
      let s := (s.wr R.COLO.FW.reg (BitVec.ofNat 32 (fw % 2 ^ 24))).wr R.COLO.STKPROTO.reg (BitVec.ofNat 32 (proto % 65536))
      let s := (s.setDx 2 (fw / 256 + 0x200)).setFlds
        [(R.MBX.BOOT_INFO.TRIAL, 0), (R.MBX.BOOT_INFO.SOURCE, if s.mbx.loadCtl then 3 else 2)]
      let s := s.setMbx fun m => { m with hostImg := true, verified := true }
      if s.phase = 3 then
        ok (fwStarted ((s.setFld R.MBX.STAT.FW_READY 1).setFld R.MBX.LOAD_STAT.TOTAL 0) 0)
      else ok s

/-! ### The watchdog (R203 to R205) -/

/-- TWIN_FAIL_N is driven low until reset where its TAKEOVER bit is set (R203, R405); a standby drives nothing on it
(R401). -/
def driveFail (s : State) (takeover : Bool) : State :=
  if takeover && !(twinState s == 3 || (twinState s == 1 && twinRole s == 2)) then
    { s with pins := { s.pins with twinFailLow := true } }
  else s

/-- WDOG_WARN (R203): half the timeout has passed without a kick; `kick` is the kick that ends the warning. -/
def execWdogWarn (kick : Bool) (s : State) : Out3 := ok (s.setMbx fun m => { m with warn := !kick })

/-- The Compositor is reset and restarts: 1 by the watchdog, 2 by SYS.RESET (R204, R214). -/
def mcuRestart (s : State) (why : Nat) : State :=
  (s.setFld R.MBX.STAT.FW_READY 0).setMbx fun m => { m with restart := why, warn := false }

/-- WDOG_EXPIRY (R203, R205): `cause` is 1 timeout, 2 lockstep mismatch, 3 uncorrectable memory error; `soon` says that it
is a second expiry within 10 s of a restart, which enters RECOVERY. -/
def execWdogExpiry (cause : Nat) (soon : Bool) (s : State) : Out3 :=
  let s := driveFail s (s.flag R.MBX.WDOG_CFG.TAKEOVER)
  if soon then
    let s := mcuRestart (s.setFld R.MBX.WDOG_STAT.LAST_CAUSE 4) 0
    ok (s.enterRecovery 5)
  else
    let s := (s.setFld R.MBX.WDOG_STAT.LAST_CAUSE (if 1 ≤ cause ∧ cause ≤ 3 then cause else 1)).count
      R.MBX.BOOT_INFO.RESTARTS
    ok (mcuRestart s 1)

/-- Every command that was taken and has not finished ends with HW_FAULT (R204). -/
def failAll (s : State) : State :=
  (s.mbx.cmds.filter fun c => c.phase != .done).foldl (fun s c => endCmd s c.chan c.tag stHw []) s

/-- FW_RESTART_DONE (R204): the ROM finds the image in memory good, or reloads it from flash; a host-loaded image that
no longer verifies leads to RECOVERY, and so does a flash without an image that verifies. -/
def execFwRestartDone (memOk flashOk : Bool) (s : State) : Out3 :=
  let why := s.mbx.restart
  if why = 0 then ok s
  else
    let s := s.setMbx fun m => { m with restart := 0 }
    if !memOk && (s.mbx.hostImg || !(flashOk && s.flash.images.any fun b => imageFits b.length)) then
      ok (s.enterRecovery (if s.mbx.hostImg then 5 else 4))
    else
      let ap := s.fw.apply.map fun a => { a with cmd := none }
      let s := { s with fw := { s.fw with apply := ap, route := none, edit := none } }
      let s := abortApply (failAll (s.setFld R.MBX.STAT.FW_READY 1)) stHw
      ok (irqEdge (fwStarted s (if why = 2 then 2 else 1)) 54)

end Sys2Proof.Machine
end

