-- ==== Sys2Proof/Machine/RegBus.lean ====
section
/-! DEFINITION. The register bus (R128 to R135, R148 to R158, R467 to R472): the checks of every write, what a write does
at its register, what a read returns and clears. An initiator is 0 PCIe, 1 CTL, 2 the Compositor. -/

namespace Sys2Proof.Machine

/-- What became of a write: it reached its target, the target's own rules ignored it whole, it named an unmapped offset
or an off domain, or it failed a check of R130 with a cause of VIOL_INFO. -/
inductive WRes where
  | done | kept | off | viol (cause : Nat)
  deriving DecidableEq, Repr

/-! ### Logs (R131, R150) -/

/-- An initiator's bank. -/
def State.side (s : State) (init : Nat) : BusSide := s.bus.getD init sideReset

/-- Change an initiator's bank. -/
def State.setSide (s : State) (init : Nat) (f : BusSide → BusSide) : State := { s with bus := modifyAt s.bus init f }

/-- Log an access to an unmapped offset or to a domain that is off (R131); a CTL frame's status byte shows it. -/
def logOff (s : State) (init addr : Nat) (unmapped : Bool) : State :=
  ((s.count R.REGIF.OFF_ACCESS_INFO.COUNT).latchOnce R.REGIF.OFF_ACCESS_ADDR.reg
    [(R.REGIF.OFF_ACCESS_ADDR.ADDR, addr), (R.REGIF.OFF_ACCESS_INFO.REASON, b2n unmapped)]).setSide init
      fun b => { b with missed := true }

/-- Log a violation (R150); a CTL frame's status byte shows it. -/
def logViol (s : State) (init addr cause : Nat) : State :=
  ((s.count R.REGIF.VIOL_COUNT.COUNT).latchOnce R.REGIF.VIOL_ADDR.reg
    [(R.REGIF.VIOL_ADDR.ADDR, addr), (R.REGIF.VIOL_INFO.INIT, init), (R.REGIF.VIOL_INFO.CAUSE, cause)]).setSide init
      fun b => { b with viol := true }

/-! ### The map -/

/-- A DX window cell by native offset (R451). -/
def isDxCell (off : Nat) : Bool := decide (0x20000 ≤ off) && decide (off < 0x21000)

/-- The DX addresses that R453 lists. -/
def dxListed (a : Nat) : Bool :=
  (decide (a ≤ 0x008)) || a == 0x010 || a == 0x011 || a == 0x020 || a == 0x021 || (decide (0x030 ≤ a) && decide (a ≤ 0x036)) ||
    (decide (0x040 ≤ a) && decide (a ≤ 0x042)) || (decide (0x060 ≤ a) && decide (a ≤ 0x062)) ||
    (decide (0x080 ≤ a) && decide (a < 0x100) && decide (a % 16 ≤ 7)) ||
    (decide (0x100 ≤ a) && decide (a < 0x180) && decide (a % 16 ≤ 6)) ||
    (decide (0x180 ≤ a) && decide (a < 0x200)) || a == 0x200

/-- DX_STRICT, forced to 1 in DX (R461, R466). -/
def dxStrict (s : State) : Bool := !coDx s || s.flag R.DXW.CFG.DX_STRICT

/-- What a DX address reads (R450, R462): with DX_STRICT 0, DX_REV and DX_CTRL show their native bits. -/
def dxView (s : State) (a : Nat) : Nat :=
  if !dxListed a then 0
  else if dxStrict s then s.dxCell a
  else if a = 0x001 then s.dxCell a + 0x100
  else if a = 0x010 then s.dxCell a + 0x8000 * b2n (s.flag R.HST.LINK.UP)
  else s.dxCell a

/-- The MSI-X structures (R468). -/
def isMsix (off : Nat) : Bool :=
  (decide (0x30000 ≤ off) && decide (off < 0x30010)) || (decide (0x30800 ≤ off) && decide (off < 0x30808))

/-- Whether control space maps a word for an initiator (R468, R472): the MSI-X structures answer PCIe only. -/
def mapped (init off : Nat) : Bool :=
  off % 4 == 0 && ((regFind off).isSome || isDxCell off || (init == 0 && isMsix off))

/-- The item number a selector's register acts on: the selector's value, or the initiator for a bank of R129. -/
def selItem (s : State) (init : Nat) (sel : Selector) : Nat :=
  match sel with
  | .one => 0
  | .init => init
  | x => match selReg x with
    | some k => (s.rd k).toNat
    | none => 0

/-- The item of an offset. -/
def itemOf (s : State) (init off : Nat) : Nat :=
  match regFind off with
  | some (r, _) => selItem s init r.sel
  | none => 0

/-- The block with an ownership bit that holds an offset (R132). -/
def ownBlock (off : Nat) : Option Nat :=
  match quoinOf off with
  | some b => if b = bSYS ∨ b = bREGIF then none else some b
  | none => none

/-- Whether an initiator owns a block for writing (R132): a block without an ownership bit belongs to all. -/
def ownsBlock (s : State) (init off : Nat) : Bool :=
  match ownBlock off with
  | some b => (init == 2) == !hostOwns s b
  | none => true

/-- A queue of the DX personality (R447). -/
def dxQueue (q : Nat) : Bool := (decide (q < 16) && q % 2 == 0) || (decide (512 ≤ q) && decide (q < 520))

/-- A register of a DX-owned resource (R447, R292, R451). -/
def dxOwned (off item : Nat) (v : Word) : Bool :=
  isDxCell off || (decide (0x8000 ≤ off) && decide (off < 0x8200)) || (decide (0xF000 ≤ off) && decide (off < 0xF800)) ||
    off == 0x11020 ||
    (decide (0xB044 ≤ off) && decide (off ≤ 0xB05C) && dxQueue item) || (off == 0xB060 && dxQueue (v.toNat % 1024)) ||
    (((decide (0xC100 ≤ off) && decide (off < 0xC200)) || (decide (0xD100 ≤ off) && decide (off < 0xD300)) ||
      (decide (0x10100 ≤ off) && decide (off < 0x10300))) && decide (item < 8))

/-- Whether a register holds a QL field. -/
def RegRow.hasQl (r : RegRow) : Bool := r.fields.any fun f => f.ql

/-- Whether every field of a register is WO. -/
def RegRow.isWo (r : RegRow) : Bool := !r.fields.isEmpty && r.fields.all fun f => f.acc == .wo

/-- The quoin over an offset (R469): MBX's QL fields are locked by the SYS quoin. -/
def quoinOver (off : Nat) : Option Nat := if 0x5000 ≤ off ∧ off < 0x6000 then some bSYS else quoinOf off

/-- Checks 2 to 6 of R130 on a mapped register; 0 where all hold, else the cause. Check 4 never fails: no field of the map
is WC. -/
def busCheck (s : State) (init off item : Nat) (v : Word) (guarded : Bool) : Nat :=
  let ql := match regFind off with
    | some (r, _) => r.hasQl
    | none => false
  if coDx s && init != 2 && dxOwned off item v then 1
  else if !ownsBlock s init off then 2
  else if !guarded && (off == 0x1010 || off == 0x3094 || (ql && s.phase != 1)) then 4
  else if ql && (match quoinOver off with
    | some b => quoinIn s b
    | none => false) then 5
  else 0

/-! ### Values a field table ignores (R489) -/

/-- A number is a power of two. -/
def isPow2 (n : Nat) : Bool := n != 0 && n &&& (n - 1) == 0

/-- Whether a field accepts a value; one that does not keeps its previous value. `lo` is the field's lowest bit, `v` the
whole word written. -/
def fieldTakes (s : State) (off item lo x : Nat) (v : Word) : Bool :=
  if off < 0x8000 then
    (if off = 0x2004 then lo != 12 || x != 3
     else if off = 0x2020 then lo != 0 || (decide (1 ≤ x) && decide (x ≤ 40))
     else if off = 0x5060 then lo != 0 || (decide (1 ≤ x) && decide (x ≤ 1000))
     else if off = 0x6020 then lo % 8 != 5 || x != 3
     else if off = 0x7004 then lo != 16 || x != 0
     else if off = 0x7010 then lo != 0 || x != 0
     else if off = 0x702C then lo != 0 || x != 0
     else if 0x7100 ≤ off ∧ off < 0x7200 ∧ off % 0x40 = 0x14 then lo != 16 || x != 0
     else true)
  else if off < 0xE000 then
    (if off = 0xB000 then lo != 1 || !s.dxPresent
     else if off = 0xB070 then lo != 0 || decide (64 ≤ x)
     else if off = 0xC114 then (lo != 28 || decide (6 ≤ x)) && (lo != 16 || (x != 0 && decide (x ≤ 1000))) && (lo != 0 || x != 0)
     else if off = 0xC118 then
       decide (bits v.toNat 0 16 * s.mcsFs (s.fldSh (R.RXF.F_CFG.MCS item)) + 2000000 <
         bits v.toNat 16 16 * s.mcsFs (s.fldSh (R.RXF.F_CFG.MCS item)))
     else if off = 0xD004 ∨ off = 0xD008 then lo != 16 || (decide (10 ≤ x) && decide (x ≤ 100))
     else if off = 0xD104 then lo != 8 || (decide (38 ≤ x) && decide (x ≤ 128))
     else if off = 0xD108 then
       lo != 0 || (x % 2 == 0 && decide (1500 ≤ x) &&
         decide ((x + 1) * s.mcsFs (s.fldSh (R.TXF.F_CFG.MCS item)) ≤ 1000000000))
     else if 0xD800 ≤ off ∧ off % 16 = 0 then lo != 14 || x != 0
     else true)
  else if off < 0x10000 then
    (if off % 0x800 = 0 then lo != 0 || (decide (1500 ≤ x) && decide (x ≤ 9000)) else true)
  else if off = 0x10008 then x != 0
  else if off = 0x11004 then lo != 16 || (decide (10 ≤ x) && decide (x ≤ 100))
  else if off = 0x1110C then lo != 0 || (isPow2 x && decide (2 ≤ x) && decide (x ≤ 4096))
  else if off = 0x12004 then lo != 30 || x == 0 || s.fld R.STK.ID.POSITION == 0 || s.fld R.STK.ID.STATE == 5
  else if off = 0x12100 then lo != 24 || x == 0 || decide (256 ≤ item)
  else if off = 0x12108 then x == 0 || decide (256 ≤ item)
  else if off = 0x12030 then
    (if lo = 8 then decide (x < bits v.toNat 16 16 ∨ (bits v.toNat 16 16 = 0 ∧ x < s.fldSh R.STK.TCFG.DISAGREE_NS))
     else x != 0)
  else if off = 0x12040 then lo != 0 || decide (x < 22)
  else if off = 0x13000 then lo != 20 || decide (2 ≤ x)
  else if off = 0x13020 then lo != 0 || x == 0 || (decide (100 ≤ x) && decide (x ≤ 60000))
  else if off = 0x14000 then lo != 24 || x != 0
  else if off = 0x15010 then lo != 0 || (decide (250 ≤ x) && decide (x ≤ 500))
  else true

/-- The bits of a register whose fields accept their values, among fields of a kind. -/
def takesMask (s : State) (off item : Nat) (r : RegRow) (acc : Access) (v : Word) : Word :=
  r.mask fun f => f.acc == acc && fieldTakes s off item f.lo (bits v.toNat f.lo (f.hi - f.lo + 1)) v

/-- Whether a MODg write is ignored entirely (R177): MOD_TIME above 16000, or a MOD_COUNT with MOD_TIME 0. -/
def modBad (v : Nat) : Bool := decide (16000 < bits v 0 14) || (bits v 16 8 != 0 && bits v 0 14 == 0)

/-- A write that a register ignores entirely (R489): the bits it raises, or none where it is taken. -/
def wholeBad (s : State) (off item : Nat) (v : Word) : Option (List Fld) :=
  let w := v.toNat
  if 0x6100 ≤ off ∧ off < 0x6200 then
    (let n := (off - 0x6100) / 0x20
     if (off % 0x20 = 0 ∧ mcsCfgBad w = true) ∨ (off % 0x20 = 4 ∧ mcsLoopBad w = true) then some [R.CLK.MCS_STAT.CFG_BAD n]
     else none)
  else if 0x7100 ≤ off ∧ off < 0x7200 ∧ off % 0x40 = 0 then
    (let n := (off - 0x7100) / 0x40
     if ptiCfgBad v || (bits w 16 3 != 0 && stkMember s) then some [R.TIME.PTI_CFG.CFG_BAD n] else none)
  else if 0x8000 ≤ off ∧ off < 0x9000 then
    (let p := (off - 0x8000) / 0x100
     if off % 0x100 < 0x40 ∧ tdmShBad off v = true then some [td (R.TDM.TX_STAT.CFG_BAD p) (decide (0x20 ≤ off % 0x100))]
     else none)
  else if off = 0x2020 then (if bits w 8 6 < bits w 16 6 then some [] else none)
  else if 0x4800 ≤ off ∧ off < 0x4840 then (if modBad w then some [] else none)
  else if 0x4400 ≤ off ∧ off < 0x4800 then (if 5 ≤ bits w 8 3 then some [] else none)
  else if off = 0x9000 then
    (if bits w 16 16 < 20 ∨ 20000 < bits w 16 16 ∨ 120 < bits w 0 8 then some [] else none)
  else if 0xA400 ≤ off ∧ off < 0xB000 ∧ (off - 0xA400) % 12 = 0 then (if bits w 30 2 = 3 then some [] else none)
  else if off = 0xC100 then (if rxShBad off v = some true then some [R.RXF.F_STAT.CFG_BAD item] else none)
  else if off = 0xD100 then (if txShBad off v = some true then some [R.TXF.F_STAT.CFG_BAD item] else none)
  else if 0xE000 ≤ off ∧ off < 0x10000 then
    (if netShBad off v = some true then some [R.NET.STAT.CFG_BAD ((off - 0xE000) / 0x800)] else none)
  else if off = 0x10100 then (if bits w 0 2 = 3 then some [] else none)
  else if off = 0x11100 then (if hstCfgBad v then some [R.HST.B_STAT.CFG_BAD item] else none)
  else if off = 0x12004 then (if 19000 < bits w 0 15 then some [] else none)
  else if off = 0x12100 then (if blkCfgBad v then some [R.STK.B_STAT.CFG_BAD item] else none)
  else if off = 0x13000 then (if bits w 30 2 = 3 then some [] else none)
  else none

/-! ### Covered fields (R151) -/

/-- The covered bits of a register: its QL fields, or all of a register its table marks as covered. -/
def RegRow.covMask (r : RegRow) : Word := r.mask fun f => f.ql || r.cov

/-- A write that changed a covered active value of a register starts a hold (R152). -/
def holdAt (old s : State) (key : Nat) : State :=
  match regFind (key % 0x1000000) with
  | some (r, _) => if (old.rd key ^^^ s.rd key) &&& r.covMask ≠ 0 then s.crcHold else s
  | none => s

/-! ### Counter clears (R156) -/

/-- Clear the counters whose bits a write sets: `n` words from `base`, with the SAT field `sat` shifted by `lo`. -/
def clearRun (s : State) (v base item n lo : Nat) (sat : Option Fld) : State :=
  (List.range n).foldl (fun s i =>
    if nbit v (i + lo) then
      let s := s.wr (itemKey (base + 4 * i) item) 0
      match sat with
      | some f => s.setFld f (setBit (s.fld f) (i + lo) false)
      | none => s
    else s) s

/-- Reset `n` words from `base` to their reset values. -/
def resetRun (s : State) (base item n : Nat) : State :=
  (List.range n).foldl (fun s i => s.wr (itemKey (base + 4 * i) item) (regDefault (itemKey (base + 4 * i) item))) s

/-- Clear the overflow counter of a kerning lane. -/
def laneClear (s : State) (n : Nat) : State := (laneSettle s n).setFlds [(R.KRN.L_STAT.OVERFLOW n, 0), (R.KRN.L_STAT.SAT n, 0)]

/-- Whether an offset is a CNT_CLR register. -/
def isCntClr (off : Nat) : Bool :=
  [0x4840, 0x5080, 0x9020, 0xA004, 0xB0B4, 0xC170, 0xD13C, 0x10144, 0x11048, 0x1113C, 0x1206C, 0x12124, 0x130A4, 0x14254,
    0x2F008].contains off || (decide (0x8000 ≤ off) && decide (off < 0x9000) && off % 0x100 == 0x5C) ||
    (decide (0xE000 ≤ off) && decide (off < 0xF800) && off % 0x800 == 0x44) ||
    (decide (0xD800 ≤ off) && decide (off < 0xDC00) && off % 16 == 12)

/-- A write of a CNT_CLR register. -/
def cntClear (s : State) (init off item v : Nat) : State :=
  if off = 0x4840 then
    let s := if nbit v 0 then s.setFld R.IRQ.SPURIOUS.HOST 0 else s
    if nbit v 1 && init == 2 then s.setFld R.IRQ.SPURIOUS.MCU 0 else s
  else if off = 0x5080 then
    let s := if nbit v 0 then s.setFld R.MBX.STAT.SLOT_BUSY 0 else s
    let s := if nbit v 1 then s.setFld R.MBX.STAT.DB_WRONG 0 else s
    let s := if nbit v 2 then s.setFld R.MBX.RING_STAT.EVT_LOST 0 else s
    if nbit v 3 then s.setFld R.MBX.BOOT_INFO.RESTARTS 0 else s
  else if off < 0x9000 then
    let p := (off - 0x8000) / 0x100
    clearRun s v (0x8040 + 0x100 * p) 0 6 0 (some (R.TDM.SAT.SAT_F p))
  else if off = 0x9020 then clearRun s v 0x9014 0 2 0 (some R.IMP.SAT.SAT_F)
  else if off = 0xA004 then
    (if nbit v 31 then (List.range 256).foldl laneClear s else laneClear s (v % 256))
  else if off = 0xB0B4 then
    let s := clearRun s v 0xB090 0 7 0 (some R.GAL.SAT.SAT_F)
    let q := s.fld R.GAL.QSEL.QUEUE
    if nbit v 31 then s.setFlds [(R.GAL.Q_DROPS.COUNT q, 0), (R.GAL.Q_RWND.COUNT q, 0), (R.GAL.Q_STAT.Q_SAT q, 0)] else s
  else if off = 0xC170 then
    let s := clearRun s v 0xC150 item 7 0 (some (R.RXF.F_SAT.SAT item))
    let s := if nbit v 7 then resetRun s 0xC120 item 10 else s
    let s := if nbit v 8 then s.setFld R.RXF.CLS_DUP.COUNT 0 else s
    if nbit v 9 then s.setFld R.RXF.CLS_DROP.COUNT 0 else s
  else if off = 0xD13C then clearRun s v 0xD120 item 6 0 (some (R.TXF.F_SAT.SAT item))
  else if 0xD800 ≤ off ∧ off < 0xDC00 then
    (if nbit v 0 then s.setFld (R.TXF.FUN_STAT.FUN_LATE ((off - 0xD800) / 16)) 0 else s)
  else if 0xE000 ≤ off ∧ off < 0x10000 then
    let p := (off - 0xE000) / 0x800
    clearRun s v (0xE010 + 0x800 * p) 0 8 0 (some (R.NET.SAT.SAT_F p))
  else if off = 0x10144 then
    let s := clearRun s v 0x10120 item 8 0 (some (R.RED.F_SAT.SAT item))
    if nbit v 8 then resetRun s 0x10108 item 4 else s
  else if off = 0x11048 then
    let s := clearRun s v 0x11028 0 2 0 (some R.HST.SAT.CTL)
    if nbit v 2 then s.setFld R.HST.TAGS.PEAK 0 else s
  else if off = 0x1113C then clearRun s v 0x11120 item 6 0 (some (R.HST.B_SAT.SAT item))
  else if off = 0x1206C then clearRun s v 0x12050 0 6 0 (some R.STK.SAT.SAT_F)
  else if off = 0x12124 then clearRun s v 0x12110 item 4 0 (some (R.STK.B_SAT.SAT item))
  else if off = 0x130A4 then
    let s := clearRun s v 0x13040 0 16 0 (some R.TWIN.SAT.SAT_F)
    clearRun s v 0x13080 0 6 16 (some R.TWIN.SAT.SAT_F)
  else if off = 0x14254 then
    let s := clearRun s v 0x14200 0 16 0 (some R.GRD.SAT.SAT_F)
    clearRun s v 0x14240 0 3 16 (some R.GRD.SAT.SAT_F)
  else if off = 0x2F008 then
    let s := if nbit v 0 then s.setFlds [(R.DXW.STAT.SKIPPED, 0), (R.DXW.STAT.SAT, setBit (s.fld R.DXW.STAT.SAT) 0 false)] else s
    if nbit v 1 then s.setFlds [(R.DXW.STAT.FRAME_ERR, 0), (R.DXW.STAT.SAT, setBit (s.fld R.DXW.STAT.SAT) 1 false)] else s
  else s

/-! ### Writes by block -/

/-- A guarded write of SYS.PHASE (R143, R144); TEST only when the boot forme requests it. -/
def phaseWrite (s : State) (init new : Nat) : State × WRes :=
  let cur := s.phase
  if new = cur then (s, .done)
  else if (cur = 0 ∨ cur = 2) ∧ new = 1 then (s.enterService, .done)
  else if cur = 0 ∧ new = 2 ∧ s.flag R.FRM.BOOT.TEST = true then (s.setFld R.SYS.PHASE.PHASE_F 2, .done)
  else if new = 3 then (s.enterRecovery 5, .done)
  else (logViol s init 0x1010 6, .viol 6)

/-- A committed reference ends the hold (R152); the pass in progress is not compared. -/
def crcCommit (s : State) (v : Word) : State :=
  { (s.wr R.REGIF.CFG_CRC_REF.reg v).setFlds [(R.REGIF.CFG_CRC_STAT.ARMED, 1), (R.REGIF.CFG_CRC_STAT.HOLD, 0)] with
    crcSkip := true }

/-- A write of an IRQ register (R159 to R181): those of the MCU side belong to the Compositor. -/
def irqWrite (s : State) (init off : Nat) (v : Word) : State :=
  let d := off - 0x4000
  let mcu := init == 2
  let n := v.toNat % 256
  if d = 0x10 then
    let b := irqCond s false
    let s := s.wr off (v &&& 0x00010107#32)
    msixIfRose b (if idleTgt s false then releaseHeld s false else s)
  else if d = 0x14 then (if mcu then s.setFld R.IRQ.MCU_CTL.THRESH (v.toNat % 8) else s)
  else if d = 0x20 then irqAck s false n
  else if d = 0x24 then irqEoi s false n
  else if d = 0x28 then (if mcu then irqAck s true n else s)
  else if d = 0x2C then (if mcu then irqEoi s true n else s)
  else if 0x100 ≤ d ∧ d < 0x180 then
    (if d < 0x140 ∨ mcu = true then irqPendWrite s (decide (0x140 ≤ d)) (d % 0x40 < 0x20) (d % 0x20 / 4) v else s)
  else if 0x180 ≤ d ∧ d < 0x200 then
    (if d < 0x1C0 ∨ mcu = true then irqMaskWrite s (decide (0x1C0 ≤ d)) (d % 0x40 < 0x20) (d % 0x20 / 4) v else s)
  else if 0x400 ≤ d ∧ d < 0x800 then holdAt s (irqCfgWrite s mcu ((d - 0x400) / 4) v) off
  else if 0x800 ≤ d ∧ d < 0x840 then
    (match regFind off with
     | some (r, _) => holdAt s (s.wr off (v &&& r.mask fun f => f.acc == .rw)) off
     | none => s)
  else s

/-- A write of an MBX register (R188 to R207). -/
def mbxRegWrite (s : State) (init off : Nat) (v : Word) : State :=
  let w := v.toNat
  let d := off - 0x5000
  if d = 0 then reqDb s init w
  else if d = 4 then
    (if init = 2 then s.setFld R.MBX.REQ_DB_SET.SLOT (s.fld R.MBX.REQ_DB_SET.SLOT &&& (255 - w % 256)) else s)
  else if d = 8 then (if init = 2 then s.setFld R.MBX.RSP_DB_SET.SLOT (s.fld R.MBX.RSP_DB_SET.SLOT ||| w % 256) else s)
  else if d = 0xC then rspDb s init w
  else if d = 0x10 then
    let busy := s.fld R.MBX.REQ_DB_SET.SLOT ||| s.fld R.MBX.RSP_DB_SET.SLOT
    let new := (w % 256 &&& (255 - busy)) ||| (s.fld R.MBX.SLOT_OWN.CTL &&& busy)
    holdAt s (s.setFld R.MBX.SLOT_OWN.CTL new) off
  else if d = 0x20 then ringCtlWrite s (nbit w 0)
  else if 0x24 ≤ d ∧ d ≤ 0x38 then
    (if s.flag R.MBX.RING_CTL.EN then s
     else s.wr off (if (d - 0x24) / 4 % 2 = 0 then v &&& 0xFFFFF000#32 else v))
  else if d = 0x70 then loadCtlWrite s init w
  else s

/-- A plain write: RW fields take the active value, SH fields the shadow; a field whose value its table ignores keeps the
one it had (R489). -/
def plainPut (s : State) (off item : Nat) (r : RegRow) (v : Word) : State :=
  let key := itemKey off item
  let rw := takesMask s off item r .rw v
  let sh := takesMask s off item r .sh v
  let s1 := if rw = 0 then s else s.wr key ((s.rd key &&& ~~~rw) ||| (v &&& rw))
  let s1 := if sh = 0 then s1 else s1.wrSh key ((s.rdSh key &&& ~~~sh) ||| (v &&& sh))
  holdAt s s1 key

/-- The low bits of addresses that read 0 (R373): of a host block's ring base and write-back address. -/
def addrMask (off : Nat) (v : Word) : Word :=
  if off = 0x11104 then v &&& 0xFFFFFFC0#32
  else if off = 0x11110 then v &&& 0xFFFFFFFC#32
  else v

/-- What a write that passed every check does at its register. The indirect data, the guard's second word and the banks'
selectors have operations of their own. -/
def regPut (s : State) (init off item : Nat) (v : Word) : State × WRes :=
  let w := v.toNat
  match regFind off with
  | none =>
    if isDxCell off then
      let a := (off - 0x20000) / 4
      (if dxListed a then s.setDx a (w % 65536) else s, .done)
    else if off = 0x30000 then ({ s with irq := { s.irq with msixLo := v &&& 0xFFFFFFFC#32 } }, .done)
    else if off = 0x30004 then ({ s with irq := { s.irq with msixHi := v } }, .done)
    else if off = 0x30008 then ({ s with irq := { s.irq with msixDat := v } }, .done)
    else if off = 0x3000C then ({ s with irq := { s.irq with msixVec := v &&& 1#32 } }, .done)
    else (s, .done)
  | some (r, i) =>
    if isCntClr off then (cntClear s init off item w, .done)
    else if off = 0x1010 then phaseWrite s init (w % 4)
    else if off < 0x4000 ∧ 0x3000 ≤ off then
      (if off = 0x3030 then (strobe s (w % 65536), .done)
       else if off = 0x3060 then (s.setFld R.REGIF.QUOIN0.LOCK (s.fld R.REGIF.QUOIN0.LOCK ||| w % 2 ^ 19), .done)
       else if off = 0x3064 then (s.setFld R.REGIF.QUOIN1.LOCK (s.fld R.REGIF.QUOIN1.LOCK ||| w % 65536), .done)
       else if off = 0x3094 then (crcCommit s v, .done)
       else if off = 0x30A0 ∨ off = 0x30A4 then
         (if init = 2 then (s.wr off v, .done) else (s, .done))
       else if off = 0x3038 ∨ off = 0x3040 ∨ off = 0x3090 then (plainPut s off item r v, .done)
       else if off = 0x3000 ∨ off = 0x3004 ∨ off = 0x3010 ∨ off = 0x3048 ∨ off = 0x304C then (s, .kept)
       else (s, .done))
    else if 0x4000 ≤ off ∧ off < 0x5000 then
      (if (wholeBad s off item v).isSome then (s, .kept) else (irqWrite s init off v, .done))
    else if 0x5000 ≤ off ∧ off < 0x6000 ∧ off ≠ 0x5060 then (mbxRegWrite s init off v, .done)
    else
      match wholeBad s off item v with
      | some fs => (s.raise fs, .kept)
      | none =>
        if 0x7100 ≤ off ∧ off < 0x7200 ∧ off % 0x40 = 8 then (addendWrite s ((off - 0x7100) / 0x40) false v, .done)
        else if 0x7100 ≤ off ∧ off < 0x7200 ∧ off % 0x40 = 12 then (addendWrite s ((off - 0x7100) / 0x40) true v, .done)
        else if 0x7400 ≤ off ∧ off < 0x7600 then
          (let k := (off - 0x7400) / 0x20
           let o := off % 0x20
           if o = 0 then (holdAt s (plCfgWrite s k v) off, .done)
           else if 8 ≤ o ∧ o ≤ 0x18 then
             (plTimeWrite s k off ((s.rd off &&& ~~~r.mask fun f => f.acc == .rw) ||| (v &&& r.mask fun f => f.acc == .rw)), .done)
           else (plainPut s off item r v, .done))
        else if 0x8000 ≤ off ∧ off < 0x9000 ∧ (off % 0x100 = 0x14 ∨ off % 0x100 = 0x34) then
          (follow s (cmdWrite s ((off - 0x8000) / 0x100) (off % 0x100 == 0x34) v), .done)
        else if 0xB010 ≤ off ∧ off ≤ 0xB020 then (holdAt s (budgetWrite s i (w % 2 ^ 18)) off, .done)
        else if off = 0xB044 then (holdAt s (qCfgWrite s item (nbit w 2) (w % 4)) (itemKey off item), .done)
        else if off = 0xB048 then (holdAt s (qResWrite s item (w % 2 ^ 18)) (itemKey off item), .done)
        else if off = 0xB04C then (holdAt s (qCapWrite s item (w % 2 ^ 18)) (itemKey off item), .done)
        else if off = 0xB060 then (if nbit w 31 then flushStart s (w % 1024) else s, .done)
        else if off = 0x2020 then ((plainPut s off item r v).avsFollow, .done)
        else if off = 0xB00C then (galRefresh (plainPut s off item r v), .done)
        else if off = 0xB0C4 then (injectWrite s v, .done)
        else if 0x11800 ≤ off ∧ off < 0x11900 then (hrAck s i (w % 65536), .done)
        else if 0x11900 ≤ off ∧ off < 0x11A00 then (htProd s (256 + i) (w % 65536), .done)
        else if off = 0x13018 then
          (if init = 2 then
             let s := if nbit w 0 then s.setFld R.TWIN.CMD.TAKE 1 else s
             (if nbit w 1 then s.setFld R.TWIN.CMD.HANDOVER 1 else s, .done)
           else (s, .done))
        else (plainPut s off item r (addrMask off v), .done)

/-! ### Whole accesses -/

/-- The register bus answers: the Compositor's domain has power. -/
def busUp (s : State) : Bool := s.domOn 1

/-- Whether an initiator reaches the register bus (R4, R51, R371): PCIe is held in reset in DX, and its accesses need PD_HOST
and PERST_N high; CTL has no native framing in DX and NATIVE+DX. -/
def initUp (s : State) (init : Nat) : Bool :=
  busUp s && (if init = 0 then s.pers != 1 && s.domOn 8 && !s.pins.perst else if init = 1 then !s.dxPresent else true)

/-- The offset and bit an alias word stands for (R154). -/
def aliasOff (a : Nat) : Nat := a % 0x100000 / 128 * 4
def aliasBit (a : Nat) : Nat := a / 4 % 32

/-- The field of a register that holds a bit. -/
def fieldAt (r : RegRow) (b : Nat) : Option FieldRow := r.fields.find? fun f => decide (f.lo ≤ b) && decide (b ≤ f.hi)

/-- Check 1 of R130 on a word of control space: none where it is mapped and its domain is on, else whether it is
unmapped. -/
def offCheck (s : State) (init off : Nat) : Option Bool :=
  if !mapped init off then some true
  else if !s.domOn (State.domOf off) then some false
  else none

/-- A write of a register with the checks of R130. `via` says that it comes through the indirect pair, which alone
reaches the registers of CK_AON and CK_PORT (R81). -/
def regWrite (s : State) (init off : Nat) (v : Word) (guarded via : Bool) : State × WRes :=
  match offCheck s init off with
  | some un => (logOff s init off un, .off)
  | none =>
    let indir := match regFind off with
      | some (r, _) => r.indir
      | none => false
    if indir && !via then (s, .kept)
    else
      let item := itemOf s init off
      let c := busCheck s init off item v guarded
      if c ≠ 0 then (logViol s init off c, .viol c) else regPut s init off item v

/-- A write of an alias word (R154, R470): one bit of its register, under the checks of R130. -/
def aliasWrite (s : State) (init a : Nat) (v : Word) : State × WRes :=
  let off := aliasOff a
  let b := aliasBit a
  match offCheck s init off with
  | some un => (logOff s init off un, .off)
  | none =>
    match regFind off with
    | none => (s, .kept)
    | some (r, _) =>
      match fieldAt r b with
      | none => (s, .kept)
      | some f =>
        let item := itemOf s init off
        let key := itemKey off item
        if r.indir || f.acc == .ro || f.acc == .rl || f.acc == .rc || f.acc == .wo || f.acc == .ct then (s, .kept)
        else if f.acc == .set || f.acc == .clr then
          (if v.getLsbD 0 then regWrite s init off (1#32 <<< b) false false else (s, .kept))
        else
          let sh := r.shMask
          let old := (s.rdSh key &&& sh) ||| (s.rd key &&& ~~~sh)
          let bit : Word := 1#32 <<< b
          regWrite s init off (if v.getLsbD 0 then old ||| bit else old &&& ~~~bit) false false

/-- A write in control space: a register, or an alias word. -/
def ctlWrite (s : State) (init off : Nat) (v : Word) (guarded via : Bool) : State × WRes :=
  if 0x100000 ≤ off ∧ off < 0x200000 then aliasWrite s init off v else regWrite s init off v guarded via

/-! ### Reads (R131, R133, R134) -/

/-- Bits `n` numbers meet a test. -/
def bitsOf (n : Nat) (f : Nat → Bool) : Word := BitVec.ofNat 32 ((List.range n).map fun j => if f j then 2 ^ j else 0).sum

/-- A queue's live status (R292). -/
def qStatWord (s : State) (q : Nat) : Word :=
  let x := s.gq q
  (s.rd (R.GAL.Q_STAT.reg q) &&& 0x01800000#32) |||
    BitVec.ofNat 32 (b2n (x.elems.any GElem.isSlug) * 2 ^ 22 + b2n x.mark.isSome * 2 ^ 21 + b2n x.opened.isSome * 2 ^ 20 + x.held)

/-- What a register shows where it is not what the register files hold. -/
def regView (s : State) (off item : Nat) : Option Word :=
  let w (n : Nat) : Option Word := some (BitVec.ofNat 32 n)
  if 0x4000 ≤ off ∧ off < 0x5000 then irqView s off
  else if off = 0x4 then w ([0xA0, 0xA1, 0xB0].getD Config.silicon.val 0)
  else if off = 0x1040 then some ((s.rd off &&& 0x0000FFFF#32) ||| BitVec.ofNat 32 (s.pins.straps % 1024 * 65536))
  else if off = 0x5004 then some (s.rd 0x5000)
  else if off = 0x500C then some (s.rd 0x5008)
  else if off = 0x503C then w (ringOut s % 128 * 2 ^ 24 + s.mbx.evtTail * 65536 + s.mbx.cplTail * 256 + s.mbx.cmdHead)
  else if 0x6100 ≤ off ∧ off < 0x6200 ∧ off % 0x20 = 8 then
    (let n := (off - 0x6100) / 0x20
     some ((R.CLK.MCS_STAT.USERS n).ins (min (s.users n) 1023) (s.rd off)))
  else if off = 0xA000 then
    w (b2n (anyFrom 0 256 fun i => s.flag (R.KRN.L_STAT.RANGE_EV i)) + 2 * b2n (anyFrom 0 256 fun i => s.flag (R.KRN.L_STAT.SAT i)) +
      4 * b2n (anyFrom 0 256 fun i => s.flag (R.KRN.L_STAT.SLEW_DONE_EV i)))
  else if 0xA400 ≤ off ∧ off < 0xB000 ∧ (off - 0xA400) % 12 = 8 then w (laneRatioNow s ((off - 0xA400) / 12))
  else if off = 0xB004 then some ((s.rd off &&& 0xC0000000#32) ||| BitVec.ofNat 32 (galFree s))
  else if off = 0xB008 then w (galShared s)
  else if off = 0xB050 then some (qStatWord s item)
  else if off = 0xB054 then w ((s.gq item).depth)
  else if 0xC010 ≤ off ∧ off ≤ 0xC02C then some (bitsOf 32 fun j => rxPend s (32 * ((off - 0xC010) / 4) + j))
  else if 0xD030 ≤ off ∧ off ≤ 0xD04C then some (bitsOf 32 fun j => txPend s (32 * ((off - 0xD030) / 4) + j))
  else if 0x10010 ≤ off ∧ off ≤ 0x1002C then some (bitsOf 32 fun j => redPend s (32 * ((off - 0x10010) / 4) + j))
  else if off = 0x11020 then
    some ((s.rd off &&& 0x7#32) ||| BitVec.ofNat 32 (b2n s.dxPresent * 512 + s.fld R.SYS.STRAPS.CTL_SEL * 256))
  else if 0x11030 ≤ off ∧ off ≤ 0x1103C then
    (let i := (off - 0x11030) / 4
     some (bitsOf 32 fun j => hstPend s (256 * (i / 2) + 32 * (i % 2) + j)))
  else if 0x11800 ≤ off ∧ off < 0x11900 then w (s.fld (R.HST.B_IDX.HOST_IDX ((off - 0x11800) / 4)))
  else if 0x11900 ≤ off ∧ off < 0x11A00 then w (s.fld (R.HST.B_IDX.HOST_IDX (256 + (off - 0x11900) / 4)))
  else if off = 0x12070 then some (bitsOf 22 (stkPend s))
  else if off = 0x12074 then some (bitsOf 22 fun j => stkPend s (256 + j))
  else if off = R.TWIN.CKPT_AGE.reg then w (ckptAge s)
  else if isDxCell off then w (dxView s ((off - 0x20000) / 4))
  else if off = R.DXW.CFG.reg then some (s.rd off ||| (if dxStrict s then 0x80000000#32 else 0))
  else if off = 0x30000 then some s.irq.msixLo
  else if off = 0x30004 then some s.irq.msixHi
  else if off = 0x30008 then some s.irq.msixDat
  else if off = 0x3000C then some s.irq.msixVec
  else if off = 0x30800 then w (b2n s.irq.msixPba)
  else none

/-- Bits that read 1 whatever is stored: TWO_STEP of a PTI bound only to MGMT (R108), and PROT1 while DX is present (R286). -/
def fixedBits (s : State) (off : Nat) (w : Word) : Word :=
  if 0x7100 ≤ off ∧ off < 0x7200 ∧ off % 0x40 = 0 ∧ (R.TIME.PTI_CFG.PORTS 0).of w = 4 then w ||| 0x2000#32
  else if off = 0xB000 ∧ s.dxPresent = true then w ||| 2#32
  else w

/-- The word a register shows an initiator (R134, R141): SH fields show the shadow, or the active value while its READ_MODE
says so; WO fields read 0. -/
def regWord (s : State) (init off : Nat) : Word :=
  let item := itemOf s init off
  let key := itemKey off item
  match regView s off item with
  | some v => v
  | none =>
    match regFind off with
    | none => 0
    | some (r, _) =>
      let sh := if s.flag (R.REGIF.READ_MODE.ACTIVE init) then 0 else r.shMask
      fixedBits s off (((s.rdSh key &&& sh) ||| (s.rd key &&& ~~~sh)) &&& ~~~(r.mask fun f => f.acc == .wo))

/-- Whether an initiator's read clears the RC bits of a register (R133, R180, R463). -/
def rcOwner (s : State) (init off : Nat) : Bool :=
  if 0x4000 ≤ off ∧ off < 0x5000 then
    (if off = 0x401C ∨ off = 0x4034 then init == 2 else init != 2 || s.pers == 1)
  else if off = 0x3008 ∨ off = 0x3014 ∨ off = 0x3050 then true
  else if coDx s && init != 2 && dxOwned off (itemOf s init off) 0 then false
  else match ownBlock off with
    | some b => (init == 2) == !hostOwns s b
    | none => init == 2

/-- RC bits whose cause is present, which no read clears (R55, R79, R153, R268). -/
def rcStuck (s : State) (off : Nat) : Word :=
  if off = 0x1040 then (if s.pins.straps % 1024 ≠ (s.rd off).toNat % 1024 then 0x800#32 else 0)
  else if off = 0x2030 then (if s.pwr.avsShort then 4#32 else 0)
  else if off = 0x309C then (if s.crcBad then 1#32 else 0)
  else if off = 0x9004 then (if s.impo.any (fun p => p.2.held) then 2#32 else 0)
  else 0

/-- The latches that a read of an owner rearms, and those any read rearms (R133). -/
def rearmedBy (owner : Bool) (off : Nat) : Bool :=
  off == 0x3070 || off == 0x3080 || (owner && [0x9008, 0x900C, 0xC004, 0xB084, 0x14010].contains off)

/-- What a read of a register does: a reading owner clears the RC bits it read whose cause is absent, and rearms its latch. A
read by a target of a register of a source's block is seen by that target's stack (R176). -/
def readEffect (s : State) (init off : Nat) (seen : Word) : State :=
  let s := irqSeen s (init == 2) off
  let owner := rcOwner s init off
  let s := if rearmedBy owner off then s.rearm off else s
  match regFind off with
  | none => s
  | some (r, _) =>
    let rc := (r.mask fun f => f.acc == .rc) &&& seen &&& ~~~rcStuck s off
    if owner && rc != 0 then
      let key := itemKey off (itemOf s init off)
      s.wr key (s.rd key &&& ~~~rc)
    else s

/-- A read of a word of control space (R131, R154): an alias word clears nothing. -/
def ctlRead (s : State) (init off : Nat) (via : Bool) : State × Word :=
  if 0x100000 ≤ off ∧ off < 0x200000 then
    let o := aliasOff off
    match offCheck s init o with
    | some un => (logOff s init o un, 0)
    | none =>
      match regFind o with
      | some (r, _) => (irqSeen s (init == 2) o,
          if r.indir then 0 else if (regWord s init o).getLsbD (aliasBit off) then 1 else 0)
      | none => (s, 0)
  else
    match offCheck s init off with
    | some un => (logOff s init off un, 0)
    | none =>
      let indir := match regFind off with
        | some (r, _) => r.indir
        | none => false
      if indir && !via then (s, 0)
      else
        let v := regWord s init off
        (readEffect s init off v, v)

end Sys2Proof.Machine
end

