-- ==== Sys2Proof/Machine/RegIf.lean ====
section
/-! DEFINITION. The registers that reach others (R135 to R139, R146, R147, R151 to R154, R157): the indirect pair, the
wide-value mailbox, the complement-pair guard and the configuration CRC; and the rows of the register bus. -/

namespace Sys2Proof.Machine

/-! ### Banks -/

/-- A read returns a word to its initiator. -/
def answer (s : State) (init off : Nat) (v : Word) : State :=
  (s.setSide init fun b => { b with data := v }).emit (.busRead init off v)

/-! ### The indirect pair (R135 to R137) -/

/-- SPACE and OFFSET of an initiator. -/
def indSpace (s : State) (init : Nat) : Nat := s.fld (R.REGIF.INDIR_ADDR.SPACE init)
def indOff (s : State) (init : Nat) : Nat := s.fld (R.REGIF.INDIR_ADDR.OFFSET init)

/-- The bytes STEP advances by. -/
def indStep (s : State) (init : Nat) : Nat := [0, 1, 4, 8].getD (s.fld (R.REGIF.INDIR_ADDR.STEP init)) 0

/-- A byte access (STEP 0b01). -/
def indByte (s : State) (init : Nat) : Bool := s.fld (R.REGIF.INDIR_ADDR.STEP init) == 1

/-- The offset advances. -/
def indAdvance (s : State) (init : Nat) : State :=
  s.setFld (R.REGIF.INDIR_ADDR.OFFSET init) (indOff s init + indStep s init)

/-- A reserved space, or an offset beyond the end of a table. -/
def indBad (space off : Nat) : Bool :=
  decide (4 ≤ space) || (space == 1 && decide (0x10000 ≤ off)) || (space == 2 && decide (0x20000 ≤ off)) ||
    (space == 3 && decide (0x800 ≤ off))

/-- The target is a register of CK_AON or CK_PORT. -/
def indSlow (s : State) (init : Nat) : Bool :=
  indSpace s init == 0 &&
  match regFind (indOff s init / 4 * 4) with
  | some (r, _) => r.indir
  | none => false

/-- The word a table holds at an offset: an imposition entry shows its shadow, or its active low word under READ_MODE, and
its state, and 0 from 0x1E00 up (R249); a key its words. -/
def tableWord (s : State) (init space off : Nat) : Word :=
  if space = 1 then
    let d := off / 8
    if 0x1E00 ≤ d then 0
    else if off % 8 < 4 then
      (if s.flag (R.REGIF.READ_MODE.ACTIVE init) then ((s.imp d).at_ (dstIndex s d)).word else (s.imp d).shadow)
    else impHigh s d
  else s.key (off / 32 + (if space = 3 then 4096 else 0)) (off % 32 / 4)

/-- The address of a table word in the layout of INDIR_ADDR (R150). -/
def tableAddr (space off : Nat) : Nat := space * 2 ^ 28 + off

/-- A write of a table word (R254, R299): check 5 does not apply. -/
def tableWrite (s : State) (init space off : Nat) (v : Word) : State × WRes :=
  if !s.domOn 2 then (logOff s init (tableAddr space off) false, .off)
  else if space = 1 ∧ 4 ≤ off % 8 then (s, .kept)
  else
    let b := if space = 1 then bIMP else bRXF
    let c :=
      if space = 1 ∧ coDx s = true ∧ init ≠ 2 ∧ dxDest (off / 8) = true then 1
      else if (init == 2) != !hostOwns s b then 2
      else if quoinIn s b then 5
      else 0
    if c ≠ 0 then (logViol s init (tableAddr space off) c, .viol c)
    else if space = 1 then (impWrite s (off / 8) v, .done)
    else (keyWrite s (off / 32 + (if space = 3 then 4096 else 0)) (off % 32 / 4) v, .done)

/-- A byte put into a word. -/
def byteIn (w : Word) (i : Nat) (v : Word) : Word :=
  (w &&& ~~~(0xFF#32 <<< (8 * i))) ||| ((v &&& 0xFF#32) <<< (8 * i))

/-- The word of control space that a byte write merges into: a register's shadow and active word, or what stands in a DX cell
or the MSI-X structures. -/
def mergeWord (s : State) (init o : Nat) : Word :=
  match regFind o with
  | some (r, _) =>
    let k := itemKey o (itemOf s init o)
    (s.rdSh k &&& r.shMask) ||| (s.rd k &&& ~~~r.shMask)
  | none => if isDxCell o then BitVec.ofNat 32 (s.dxCell ((o - 0x20000) / 4)) else (regView s o 0).getD 0

/-- The word a write through the pair gives its target: itself, or the target's word with one byte changed. -/
def indMerge (s : State) (init : Nat) (v : Word) : Word :=
  if indByte s init then
    let space := indSpace s init
    let o := indOff s init / 4 * 4
    let old := if space = 0 then mergeWord s init o
      else if space = 1 then (s.imp (o / 8)).shadow
      else tableWord s init space o
    byteIn old (indOff s init % 4) v
  else v

/-- A write through the pair reaches its target, which is none of the pair's and the guard's own registers; then the offset
advances. -/
def indLand (s : State) (init : Nat) (v : Word) (guarded : Bool) : State × WRes :=
  let space := indSpace s init
  let off := indOff s init
  let v := indMerge s init v
  let (s1, w) :=
    if indBad space off then (s.setFld (R.REGIF.INDIR_STAT.BAD_SPACE init) 1, WRes.kept)
    else if space = 0 then ctlWrite s init (off / 4 * 4) v guarded true
    else tableWrite s init space (off / 4 * 4) v
  (indAdvance s1 init, w)

/-- The word the pair reads from a target that answers at once; an access of 8 bytes shows the whole entry of the imposition table
(R253). -/
def indGet (s : State) (init : Nat) : State × Word :=
  let space := indSpace s init
  let off := indOff s init
  let (s1, v) :=
    if indBad space off then (s.setFld (R.REGIF.INDIR_STAT.BAD_SPACE init) 1, (0 : Word))
    else if space = 0 then ctlRead s init (off / 4 * 4) true
    else if !s.domOn 2 then (logOff s init (tableAddr space off) false, 0)
    else if space = 1 ∧ indStep s init = 8 then
      (s.emit (.entryRead init (tableWord s init 1 (off / 8 * 8)) (tableWord s init 1 (off / 8 * 8 + 4))),
        tableWord s init 1 (off / 4 * 4))
    else (s, tableWord s init space (off / 4 * 4))
  (s1, if indByte s init then (v >>> (8 * (off % 4))) &&& 0xFF#32 else v)

/-- Start a prefetch where the target is slow (R136). -/
def indPrefetch (s : State) (init : Nat) : State :=
  let s := s.setSide init fun b => { b with fetched := none }
  if indSlow s init then
    (s.setFld (R.REGIF.INDIR_STAT.BUSY init) 1).setSide init fun b => { b with fetch := true }
  else s

/-- A write of INDIR_ADDR while the pair is free. -/
def indAddrPut (s : State) (init : Nat) (v : Word) : State :=
  indPrefetch (s.wr (R.REGIF.INDIR_ADDR.reg init) (v &&& 0xFCFFFFFF#32)) init

/-- BUSY of an initiator. -/
def indBusy (s : State) (init : Nat) : Bool := s.flag (R.REGIF.INDIR_STAT.BUSY init)

/-- An access stalls its initiator (R137, R139), as `BusSide.stalled` numbers them. -/
def stall (s : State) (init kind : Nat) (v : Word) : State := s.setSide init fun b => { b with stalled := some (kind, v) }

/-- A write of INDIR_ADDR. -/
def indAddrWrite (s : State) (init : Nat) (v : Word) : State :=
  if indBusy s init then stall s init 2 v else indAddrPut s init v

/-- A write of INDIR_DATA is posted to a slow target (R136). -/
def indPost (s : State) (init : Nat) (v : Word) (guarded : Bool) : State :=
  (s.setFld (R.REGIF.INDIR_STAT.BUSY init) 1).setSide init fun b => { b with posted := some (v, guarded) }

/-- A pair's outcome in GUARD_STAT (R147). -/
def guardEnd (s : State) (init : Nat) (w : WRes) : State :=
  if w = .done then s.setFld (R.REGIF.GUARD_STAT.OK init) 1
  else s.setFlds [(R.REGIF.GUARD_STAT.FAIL init, 1), (R.REGIF.GUARD_STAT.CAUSE init, 5)]

/-! ### The wide-value mailbox (R138, R139, R157) -/

/-- The four words of a time (R126). -/
def timeWords (t : PtiTime) : List Nat := [t.ns, t.sec % 2 ^ 32, t.sec / 2 ^ 32 % 65536, t.frac]

/-- The four words of a 64-bit value. -/
def wide64 (n : Nat) : List Nat := [n % 2 ^ 32, n / 2 ^ 32 % 2 ^ 32, 0, 0]

/-- The slow counter's time (R118): 1/64 ns. -/
def slowClock (s : State) : PtiTime :=
  ⟨s.pwr.slowTime / 64000000000, s.pwr.slowTime / 64 % 1000000000, s.pwr.slowTime % 64 * 2 ^ 26⟩

/-- The value of a selector (R90, R126, R316, R317, R334, R341, R373, R399), its four words and whether a free value was drawn;
none where it names none. A capture platen that holds no capture has no stated value (log 36). -/
def wideValue (s : State) (sel : Nat) : Option (List Nat × Bool) :=
  let b := sel / 256
  let i := sel % 256
  let v (n : Nat) : Option (List Nat × Bool) := some (wide64 n, false)
  if b = 6 ∧ i < 8 then v (mcsCount s i)
  else if b = 7 ∧ i < 4 then some (timeWords (s.pti i).time, false)
  else if b = 7 ∧ 0x10 ≤ i ∧ i < 0x20 then
    (let k := i - 0x10
     if s.fld (R.TIME.PL_CFG.MODE k) = 3 then
       (match (s.pl k).capture with
        | some t => some (timeWords t, false)
        | none => some ([(Config.freeValue s.freeCtr).toNat % 2 ^ 32, (Config.freeValue (s.freeCtr + 1)).toNat % 2 ^ 32,
            (Config.freeValue (s.freeCtr + 2)).toNat % 2 ^ 32, (Config.freeValue (s.freeCtr + 3)).toNat % 2 ^ 32], true))
     else some (timeWords (ofRaw (plFire s k)), false))
  else if b = 7 ∧ 0x20 ≤ i ∧ i < 0x2C then v (ofSigned 64 ((s.pti (i % 4)).port ((i - 0x20) / 4)).delay)
  else if b = 7 ∧ i = 0x30 then
    some ([s.ptm.root % 2 ^ 32, s.ptm.root / 2 ^ 32 % 2 ^ 32, s.ptm.pti % 2 ^ 32, s.ptm.pti / 2 ^ 32 % 2 ^ 32], false)
  else if b = 7 ∧ i = 0x31 then some (timeWords (slowClock s), false)
  else if b = 0x0C ∧ i < 3 then
    (let f := s.flow (s.fld R.RXF.FSEL.FLOW)
     v (if i = 2 then f.bytes else f.pkts.getD i 0))
  else if b = 0x0D ∧ i < 3 then
    (let f := s.txf (s.fld R.TXF.FSEL.FLOW)
     v (if i = 2 then f.bytes else f.pkts.getD i 0))
  else if (b = 0x0E ∧ (i < 4 ∨ (0x80 ≤ i ∧ i < 0x84))) ∨ (b = 0x0F ∧ i < 4) then
    (let p := if b = 0x0F then 2 else i / 0x80
     match s.net[p]? with
     | some n => v ([n.rxFrames, n.rxBytes, n.txFrames, n.txBytes].getD (i % 4) 0)
     | none => v 0)
  else if b = 0x10 ∧ i < 2 then v ((s.flow (s.fld R.RED.FSEL.FLOW)).copies.getD i 0)
  else if b = 0x11 ∧ i < 2 then v (s.hstBytes.getD i 0)
  else if b = 0x11 ∧ i = 2 then v (sGet (fun _ => 0) s.hstSlots (s.rd R.HST.BSEL.reg).toNat)
  else if b = 0x12 ∧ i < 4 then v (if i < 2 then (s.slink i).txN else (s.slink (i - 2)).rxN)
  else none

/-- WIDE_SEL_WRITE (R138): a snapshot starts, and replaces the one held. -/
def wideSel (s : State) (init : Nat) (v : Word) : State :=
  (s.setFlds [(R.REGIF.WIDE_SEL.SEL init, v.toNat), (R.REGIF.WIDE_STAT.VALID init, 0)]).setSide init fun b =>
    { b with wide := true }

/-- A read of WIDE_Dk once no snapshot is under way: WIDE_D3 clears VALID and releases a platen's capture (R123, R138). -/
def wideRead (s : State) (init k : Nat) : State :=
  let v := s.rd (R.REGIF.WIDE_D.reg k init)
  let sel := s.fld (R.REGIF.WIDE_SEL.SEL init)
  let s :=
    if k = 3 ∧ s.flag (R.REGIF.WIDE_STAT.VALID init) = true then
      let s := s.setFld (R.REGIF.WIDE_STAT.VALID init) 0
      if 0x710 ≤ sel ∧ sel < 0x720 ∧ s.fld (R.TIME.PL_CFG.MODE (sel - 0x710)) = 3 then plRelease s (sel - 0x710) else s
    else s
  answer s init (0x3018 + 4 * k) v

/-! ### The complement-pair guard (R146, R147) -/

/-- The target's address in a violation's log (R150). -/
def guardAddr (s : State) (init : Nat) : Nat :=
  if s.flag (R.REGIF.GUARD_ADDR.INDIR init) then (s.rd (R.REGIF.INDIR_ADDR.reg init)).toNat &&& 0xF0FFFFFF
  else s.fld (R.REGIF.GUARD_ADDR.TARGET init)

/-- A rejected pair: it writes nothing, disarms, and is logged with cause GUARD. -/
def guardReject (s : State) (init cause : Nat) : State :=
  let s := s.setFlds [(R.REGIF.GUARD_STAT.FAIL init, 1), (R.REGIF.GUARD_STAT.CAUSE init, cause),
    (R.REGIF.GUARD_STAT.ARMED init, 0)]
  logViol (s.setSide init fun b => { b with guard := none }) init (guardAddr s init) 4

/-- GUARD_VAL arms or restarts the guard. -/
def guardVal (s : State) (init : Nat) (v : Word) : State :=
  (s.setFld (R.REGIF.GUARD_STAT.ARMED init) 1).setSide init fun b => { b with guard := some v }

/-- GUARD_ADDR names the bit-alias region or a WO register. -/
def guardTargetBad (s : State) (init : Nat) : Bool :=
  let t := s.fld (R.REGIF.GUARD_ADDR.TARGET init)
  !s.flag (R.REGIF.GUARD_ADDR.INDIR init) &&
    ((decide (0x100000 ≤ t) && decide (t < 0x200000)) ||
      (match regFind t with
       | some (r, _) => r.isWo
       | none => false))

/-- A guarded write of the initiator's INDIR_DATA (R146): posted to a slow target, whose pair ends when the write lands. -/
def guardData (s : State) (init : Nat) (v : Word) : State :=
  if indSlow s init then indPost s init v true
  else
    let (s, w) := indLand s init v true
    guardEnd s init w

/-- The guarded write itself. With INDIR set, or INDIR_DATA named, it waits on BUSY as any write of INDIR_DATA (R137). -/
def guardPut (s : State) (init : Nat) (v : Word) : State :=
  let t := s.fld (R.REGIF.GUARD_ADDR.TARGET init) / 4 * 4
  if s.flag (R.REGIF.GUARD_ADDR.INDIR init) ∨ t = 0x3004 then
    (if indBusy s init then stall s init 7 v else guardData s init v)
  else
    let (s, w) :=
      if t = 0x3000 then (indAddrWrite s init v, WRes.done)
      else if t = 0x3010 then (wideSel s init v, WRes.done)
      else ctlWrite s init t v true false
    guardEnd s init w

/-- A write of GUARD_CPL. -/
def guardCpl (s : State) (init : Nat) (c : Word) : State :=
  match (s.side init).guard with
  | none => guardReject s init 3
  | some v =>
    if c ≠ ~~~v then guardReject s init 1
    else if guardTargetBad s init then guardReject s init 4
    else
      guardPut ((s.setFld (R.REGIF.GUARD_STAT.ARMED init) 0).setSide init fun b => { b with guard := none }) init v

/-! ### Accesses (R128, R135 to R139) -/

/-- The pair's and the guard's own registers, of an initiator's bank (R129). -/
def isBank (off : Nat) : Bool := [0x3000, 0x3010, 0x3048, 0x304C].contains off

/-- A write of one of them. -/
def bankPut (s : State) (init off : Nat) (v : Word) : State :=
  if off = 0x3000 then indAddrWrite s init v
  else if off = 0x3010 then wideSel s init v
  else if off = 0x3048 then guardVal s init v
  else guardCpl s init v

/-- A write through the pair: register space holds the bank too (R135), but for INDIR_DATA itself (log 89). -/
def indPut (s : State) (init : Nat) (v : Word) : State × WRes :=
  let off := indOff s init / 4 * 4
  if indSpace s init = 0 ∧ isBank off = true then (indAdvance (bankPut s init off (indMerge s init v)) init, .done)
  else indLand s init v false

/-- A read of INDIR_DATA while the pair is free: a slow target's word is the prefetched one, whose RC bits clear now, and 0 where
its domain is off (R131); where none has been fetched the spec states no word (log 35). -/
def indDataGet (s : State) (init : Nat) : State :=
  if indSlow s init then
    let o := indOff s init / 4 * 4
    match offCheck s init o with
    | some un => answer (indPrefetch (indAdvance (logOff s init o un) init) init) init 0x3004 0
    | none =>
      match (s.side init).fetched with
      | some v =>
        let out := if indByte s init then (v >>> (8 * (indOff s init % 4))) &&& 0xFF#32 else v
        answer (indPrefetch (indAdvance (readEffect s init o v) init) init) init 0x3004 out
      | none =>
        let (k, s) := s.fresh
        answer (indPrefetch (indAdvance s init) init) init 0x3004 ((Config.freeValue k).setWidth 32)
  else
    let (s, v) := indGet s init
    answer (indAdvance s init) init 0x3004 v

/-- A read of INDIR_DATA; a read of any register of REGIF is seen by its target (R176). -/
def indDataRead (s : State) (init : Nat) : State :=
  let s := irqSeen s (init == 2) 0x3004
  if indBusy s init then stall s init 0 0 else indDataGet s init

/-- A write of INDIR_DATA while the pair is free: at once, or posted to a slow target. -/
def indDataPut (s : State) (init : Nat) (v : Word) : State × WRes :=
  if indSlow s init then (indPost s init v false, .done) else indPut s init v

/-- A write of INDIR_DATA. -/
def indDataWrite (s : State) (init : Nat) (v : Word) : State × WRes :=
  if indBusy s init then (stall s init 1 v, .done) else indDataPut s init v

/-- The word INDIR_DATA stands for, read with no effect: what an alias of it shows and changes one bit of. -/
def indPeek (s : State) (init : Nat) : Word :=
  let space := indSpace s init
  let off := indOff s init
  let w : Word :=
    if indBad space off then 0
    else if space ≠ 0 then (if s.domOn 2 then tableWord s init space (off / 4 * 4) else 0)
    else if indSlow s init then (s.side init).fetched.getD 0
    else if (offCheck s init (off / 4 * 4)).isSome then 0
    else regWord s init (off / 4 * 4)
  if indByte s init then (w >>> (8 * (off % 4))) &&& 0xFF#32 else w

/-- A write of an alias word (R154): an alias of INDIR_ADDR, INDIR_DATA or WIDE_SEL changes that bit by a write of the
register. -/
def aliasPut (s : State) (init a : Nat) (v : Word) : State × WRes :=
  let off := aliasOff a
  let old := if off = 0x3004 then indPeek s init else s.rd (itemKey off init)
  let bit : Word := 1#32 <<< aliasBit a
  let new := if v.getLsbD 0 then old ||| bit else old &&& ~~~bit
  if off = 0x3004 then indDataWrite s init new
  else if (off = 0x3000 ∧ ¬(aliasBit a = 24 ∨ aliasBit a = 25)) ∨ (off = 0x3010 ∧ aliasBit a < 16) then
    (bankPut s init off new, .done)
  else aliasWrite s init a v

/-- A read of WIDE_Dk: it waits for the snapshot under way (R139). -/
def wideGet (s : State) (init k : Nat) : State :=
  let s := irqSeen s (init == 2) 0x3018
  if (s.side init).wide then stall s init (3 + k) 0 else wideRead s init k

/-- A write of a word by an initiator: control space, or mailbox space at 0x8000_0000 (R467). -/
def busWrite (s : State) (init a : Nat) (v : Word) : State × WRes :=
  if 0x80000000 ≤ a ∧ a < 0x80010000 then (if a % 4 = 0 then mbxWrite s init (a - 0x80000000) v else s, .done)
  else if a = 0x3004 then indDataWrite s init v
  else if isBank a then (bankPut s init a v, .done)
  else if 0x100000 ≤ a ∧ a < 0x200000 then aliasPut s init a v
  else ctlWrite s init a v false false

/-- A read of a word by an initiator. -/
def busRead (s : State) (init a : Nat) : State :=
  if 0x80000000 ≤ a ∧ a < 0x80010000 then answer s init a (mbxRead s (a - 0x80000000))
  else if a = 0x3004 then indDataRead s init
  else if 0x3018 ≤ a ∧ a ≤ 0x3024 ∧ a % 4 = 0 then wideGet s init ((a - 0x3018) / 4)
  else if 0x100000 ≤ a ∧ a < 0x200000 ∧ aliasOff a = 0x3004 then
    answer (irqSeen s (init == 2) 0x3004) init a (if (indPeek s init).getLsbD (aliasBit a) then 1 else 0)
  else
    let (s, v) := ctlRead s init a false
    answer s init a v

/-- One access made now. -/
def busAcc (s : State) (init : Nat) : BusAcc → State
  | .read a => busRead s init a
  | .write a v => follow s (busWrite s init a v).1

/-- An access: while its initiator is stalled it waits behind the stalled one (R128). An access of the Compositor shows that it
runs (R178). -/
def access (s : State) (init : Nat) (acc : BusAcc) : State :=
  if !initUp s init then s
  else
    let s := if init = 2 then mcuResume s else s
    if (s.side init).stalled.isSome then s.setSide init fun b => { b with held := b.held ++ [acc] }
    else busAcc s init acc

/-- The accesses that waited are made in their order, until one of them stalls. -/
def drain (init : Nat) : List BusAcc → State → State
  | [], s => s
  | a :: as, s =>
    if (s.side init).stalled.isSome then s.setSide init fun b => { b with held := b.held ++ a :: as }
    else drain init as (busAcc s init a)

/-- A stall has ended: the accesses behind it go on. -/
def resume (s : State) (init : Nat) : State :=
  drain init (s.side init).held (s.setSide init fun b => { b with held := [] })

/-- An access that BUSY held up proceeds. -/
def unstall (s : State) (init : Nat) : State :=
  match (s.side init).stalled with
  | some (k, v) =>
    if 3 ≤ k ∧ k < 7 then s
    else
      let s := s.setSide init fun b => { b with stalled := none }
      resume (if k = 0 then indDataGet s init
        else if k = 1 then (indDataPut s init v).1
        else if k = 2 then indAddrPut s init v
        else guardData s init v) init
  | none => s

/-- INDIR_ADDR_WRITE (R136). -/
def execIndirAddrWrite (init : Nat) (v : Word) (s : State) : Out3 := ok (access s init (.write 0x3000 v))

/-- INDIR_DATA_READ (R135, R136). -/
def execIndirDataRead (init : Nat) (s : State) : Out3 := ok (access s init (.read 0x3004))

/-- INDIR_DATA_WRITE (R135, R136). -/
def execIndirDataWrite (init : Nat) (v : Word) (s : State) : Out3 := ok (access s init (.write 0x3004 v))

/-- INDIR_TRANSFER_DONE (R136): a prefetch returns its word, or a posted write lands under the checks of R130 and the offset
advances; BUSY clears and a stalled access proceeds. -/
def execIndirTransferDone (init : Nat) (s : State) : Out3 :=
  if !indBusy s init then ok s
  else
    let b := s.side init
    let s := s.setFld (R.REGIF.INDIR_STAT.BUSY init) 0
    match b.posted with
    | some (v, guarded) =>
      let s := s.setSide init fun b => { b with posted := none }
      let (s, w) := indLand s init v guarded
      ok (unstall (if guarded then guardEnd s init w else s) init)
    | none =>
      let v := regWord s init (indOff s init / 4 * 4)
      ok (unstall (s.setSide init fun b => { b with fetch := false, fetched := some v }) init)

/-- INDIR_STALL_TIMEOUT (R137): the stalled access is abandoned, a guarded pair with its target not written (R147); the pending
transfer still completes. -/
def execIndirStallTimeout (init : Nat) (s : State) : Out3 :=
  match (s.side init).stalled with
  | some (k, _) =>
    if (3 ≤ k ∧ k < 7) ∨ !indBusy s init then ok s
    else
      let s := (s.setSide init fun b => { b with stalled := none }).setFld (R.REGIF.INDIR_STAT.TIMEOUT init) 1
      ok (resume (if k = 0 then answer s init 0x3004 0 else if k = 7 then guardEnd s init .kept else s) init)
  | none => ok s

/-- INDIR_TRANSFER_LOST (R137): a transfer pending for 4 ms is abandoned, and an access that waited on it proceeds. -/
def execIndirTransferLost (init : Nat) (s : State) : Out3 :=
  if !indBusy s init then ok s
  else
    let guarded := match (s.side init).posted with
      | some (_, g) => g
      | none => false
    let s := s.setFlds [(R.REGIF.INDIR_STAT.BUSY init, 0), (R.REGIF.INDIR_STAT.LOST init, 1)]
    let s := s.setSide init fun b => { b with fetch := false, posted := none }
    ok (unstall (if guarded then guardEnd s init .kept else s) init)

/-- IMPOSITION_ENTRY_WRITE (R254): a write of an entry's low word. -/
def execImpositionEntryWrite (init d : Nat) (v : Word) (s : State) : Out3 :=
  ok (if initUp s init && decide (d < 8192) then (tableWrite s init 1 (8 * d) v).1 else s)

/-- CLASSIFIER_KEY_WRITE (R299): a write of word `w` of key `i` of the table, or of the CAM. -/
def execClassifierKeyWrite (init : Nat) (cam : Bool) (i w : Nat) (v : Word) (s : State) : Out3 :=
  ok (if initUp s init && decide (i < (if cam then 64 else 4096)) then
      (tableWrite s init (if cam then 3 else 2) (32 * i + 4 * (w % 8)) v).1
    else s)

/-- WIDE_SEL_WRITE (R138). -/
def execWideSelWrite (init : Nat) (v : Word) (s : State) : Out3 := ok (access s init (.write 0x3010 v))

/-- WIDE_SNAPSHOT_READY (R138, R139): the words are copied at one instant and VALID sets; a read that waited completes. -/
def execWideSnapshotReady (init : Nat) (s : State) : Out3 :=
  if !(s.side init).wide then ok s
  else
    let w := wideValue s (s.fld (R.REGIF.WIDE_SEL.SEL init))
    let words := (w.map Prod.fst).getD []
    let s := { s with freeCtr := s.freeCtr + (if (w.map Prod.snd).getD false then 4 else 0) }
    let s := (List.range 4).foldl (fun s k => s.setFld (R.REGIF.WIDE_D.DATA k init) (words.getD k 0)) s
    let s := s.setFld (R.REGIF.WIDE_STAT.VALID init) 1
    let s := if w.isNone then s.setFld (R.REGIF.WIDE_STAT.BAD_SEL init) 1 else s
    let st := (s.side init).stalled
    let s := s.setSide init fun b => { b with wide := false }
    match st with
    | some (k, _) =>
      ok (if 3 ≤ k ∧ k < 7 then resume (wideRead (s.setSide init fun b => { b with stalled := none }) init (k - 3)) init else s)
    | none => ok s

/-- WIDE_D3_READ (R138). -/
def execWideD3Read (init : Nat) (s : State) : Out3 := ok (access s init (.read 0x3024))

/-- GUARD_VAL_WRITE (R146). -/
def execGuardValWrite (init : Nat) (v : Word) (s : State) : Out3 := ok (access s init (.write 0x3048 v))

/-- GUARD_CPL_WRITE (R146, R147). -/
def execGuardCplWrite (init : Nat) (c : Word) (s : State) : Out3 := ok (access s init (.write 0x304C c))

/-- GUARD_TIMEOUT (R147). -/
def execGuardTimeout (init : Nat) (s : State) : Out3 :=
  if (s.side init).guard.isSome then ok (guardReject s init 2) else ok s

/-! ### The rows of the bus -/

/-- REGISTER_WRITE (R130): a write of a word by an initiator. A 64-bit write of PCIe is two of them, low word first (R352). -/
def execRegisterWrite (init a : Nat) (v : Word) (s : State) : Out3 := ok (access s init (.write a v))

/-- CLEARING_READ (R134): a read of a word by an initiator. -/
def execClearingRead (init a : Nat) (s : State) : Out3 := ok (access s init (.read a))

/-- QUOIN_SET (R148): a write of QUOIN0 or QUOIN1. -/
def execQuoinSet (second : Bool) (v : Word) (s : State) : Out3 :=
  ok (if busUp s then (regWrite s 0 (if second then 0x3064 else 0x3060) v false false).1 else s)

/-- ALIAS_WRITE (R154): a write of the alias word at control offset `a`. -/
def execAliasWrite (init a : Nat) (v : Word) (s : State) : Out3 :=
  ok (if 0x100000 ≤ a ∧ a < 0x200000 then access s init (.write a v) else s)

/-- ADDEND_WRITE (R104): a write of a PTI's ADDEND_INT or ADDEND_FRAC that passed the checks of R130. -/
def execAddendWrite (n : Nat) (frac : Bool) (v : Word) (s : State) : Out3 :=
  let n := n % 4
  let key := if frac then R.TIME.PTI_ADDEND_FRAC.reg n else R.TIME.PTI_ADDEND_INT.reg n
  ok (holdAt s (addendWrite s n frac v) key)

/-- Q_RES_WRITE (R278). -/
def execQResWrite (q n : Nat) (s : State) : Out3 := ok (holdAt s (qResWrite s q (n % 262144)) (R.GAL.Q_RES.reg q))

/-- Q_CAP_WRITE (R278). -/
def execQCapWrite (q n : Nat) (s : State) : Out3 := ok (holdAt s (qCapWrite s q (n % 262144)) (R.GAL.Q_CAP.reg q))

/-- Q_CFG_HALF_WRITE (R278). -/
def execQCfgHalfWrite (q : Nat) (be : Bool) (half : Nat) (s : State) : Out3 :=
  ok (holdAt s (qCfgWrite s q be (half % 4)) (R.GAL.Q_CFG.reg q))

/-- BUDGET_WRITE (R278). -/
def execBudgetWrite (k n : Nat) (s : State) : Out3 :=
  ok (if 5 ≤ k then s else holdAt s (budgetWrite s k (n % 262144)) (R.GAL.BUDGET.reg k))

/-- PLATEN_ARM_WRITE (R120): a write of a platen's CFG. -/
def execPlatenArmWrite (k : Nat) (v : Word) (s : State) : Out3 :=
  ok (holdAt s (plCfgWrite s (k % 16) v) (R.TIME.PL_CFG.reg (k % 16)))

/-- COUNTER_CLEAR (R156): a write of a CNT_CLR register. -/
def execCounterClear (init off : Nat) (v : Word) (s : State) : Out3 :=
  ok (if isCntClr off then access s init (.write off v) else s)

/-- Whether an initiator's write reaches a target's interrupt registers: the MCU side takes writes of the Compositor only
(R180). -/
def irqTakes (s : State) (init : Nat) (mcu : Bool) : Bool := initUp s init && (!mcu || init == 2)

/-- IRQ_ACK (R169): a write of ACK_HOST or ACK_MCU. -/
def execIrqAck (init : Nat) (mcu : Bool) (n : Nat) (s : State) : Out3 :=
  ok (if irqTakes s init mcu then irqAck s mcu (n % 256) else s)

/-- IRQ_EOI (R170). -/
def execIrqEoi (init : Nat) (mcu : Bool) (n : Nat) (s : State) : Out3 :=
  ok (if irqTakes s init mcu then irqEoi s mcu (n % 256) else s)

/-- IRQ_PENDING_SET_CLR (R165): a write of word `k` of PEND SET or CLR. -/
def execIrqPendingSetClr (init : Nat) (mcu set : Bool) (k : Nat) (v : Word) (s : State) : Out3 :=
  ok (if irqTakes s init mcu then irqPendWrite s mcu set (k % 8) v else s)

/-- IRQ_MASK_SET_CLR (R166): a write of word `k` of MASK SET or CLR. -/
def execIrqMaskSetClr (init : Nat) (mcu set : Bool) (k : Nat) (v : Word) (s : State) : Out3 :=
  ok (if irqTakes s init mcu then irqMaskWrite s mcu set (k % 8) v else s)

/-! ### The configuration CRC (R151 to R153) -/

/-- The items of a selector (R151). -/
def selItems (sel : Selector) : List Nat :=
  match sel with
  | .one => [0]
  | .init => [0]
  | .galQ => List.range 1024
  | .hstB => List.range 64 ++ span 256 64
  | .stkB => List.range 22 ++ span 256 22
  | _ => List.range 256

/-- Every register row of the map. -/
def allRows : List RegRow := (List.range 48).flatMap fun b => if b = 15 then [] else rowsOf (b * 0x1000)

/-- The covered registers, by ascending offset. -/
def coveredRegs : List (Nat × RegRow) :=
  ((allRows.filter fun r => r.covMask != 0).flatMap fun r => (List.range r.count).map fun i => (r.base + r.stride * i, r)).mergeSort
    fun a b => decide (a.1 ≤ b.1)

/-- A register's active value, or the retained one while its domain is off (R60, R151). -/
def keptWord (s : State) (key : Nat) : Word :=
  let d := State.domOf (key % 0x1000000)
  if s.domOn d then s.rd key
  else
    match s.pwr.retention.find? fun i => i.domain == d with
    | some i => (match i.regs.find? fun p => p.1 == key with
      | some p => p.2
      | none => regDefault key)
    | none => s.rd key

/-- The result of a pass (R151). -/
def cfgCrc (s : State) : Nat :=
  crc32c (coveredRegs.flatMap fun p => (selItems p.2.sel).flatMap fun i =>
    leBytes 4 p.1 ++ leBytes 4 (keptWord s (itemKey p.1 i) &&& p.2.covMask).toNat)

/-- The CFG_CRC event (R227). -/
def crcEvent (s : State) (kind : Nat) : State :=
  s.event 0xE0E0 ([byteOf kind, 0, 0, 0] ++ leBytes 4 (s.fld R.REGIF.CFG_CRC_NOW.CRC))

/-- CFG_CRC_PASS_END (R152, R153): outside a hold, and once a pass has begun after the commit, the result is compared. -/
def execCfgCrcPassEnd (s : State) : Out3 :=
  let s := s.setFld R.REGIF.CFG_CRC_NOW.CRC (cfgCrc s)
  if !s.flag R.REGIF.CFG_CRC_STAT.ARMED ∨ s.flag R.REGIF.CFG_CRC_STAT.HOLD = true then ok s
  else if s.crcSkip then ok { s with crcSkip := false }
  else if s.fld R.REGIF.CFG_CRC_NOW.CRC = s.fld R.REGIF.CFG_CRC_REF.REF then
    ok { s.setFld R.REGIF.CFG_CRC_STAT.MATCH 1 with crcBad := false }
  else
    let fresh := !s.crcBad
    let s := { s.setFlds [(R.REGIF.CFG_CRC_STAT.MATCH, 0), (R.REGIF.CFG_CRC_STAT.FAULT, 1)] with crcBad := true }
    let s := driveFail s (s.flag R.REGIF.CFG_CRC_CTL.TAKEOVER)
    ok (if fresh then crcEvent s 1 else s)

/-- CFG_CRC_STALE (R152): a hold has lasted 50 ms. -/
def execCfgCrcStale (s : State) : Out3 :=
  if s.flag R.REGIF.CFG_CRC_STAT.HOLD && !s.flag R.REGIF.CFG_CRC_STAT.STALE then
    ok (crcEvent (s.setFld R.REGIF.CFG_CRC_STAT.STALE 1) 2)
  else ok s

end Sys2Proof.Machine
end

