-- ==== Sys2Proof/Machine/Power.lean ====
section
/-! DEFINITION. Supplies, reset, straps, boot, power domains, sleep and wake (R40 to R81, R199 to R201, R415). -/

namespace Sys2Proof.Machine

/-! ### Whole-device reset (R43, R49, R50) -/

/-- Change the power controller. -/
def State.setPwr (s : State) (f : Power → Power) : State := { s with pwr := f s.pwr }

/-- Change the pins. -/
def State.setPins (s : State) (f : Pins → Pins) : State := { s with pins := f s.pins }

/-- The domains that are on once the rails are up, before anything is enabled (R59): AON, MCU, FAB, HOST and CLK. -/
def startDomains : List Bool := [true, true, true, false, false, false, false, false, true, false, false, true]

/-- AON alone. -/
def aonOnly : List Bool := true :: List.replicate 11 false

/-- Fields that straps, the identity record and the retired cells fix (R53, R199, R289, R317, R373, R374, R453), set again wherever
a domain's registers return to reset. -/
def fixedFields (s : State) : State :=
  let s := s.setFlds [(R.HST.CTL_CFG.DX_FRAMING, b2n s.dxPresent), (R.HST.CTL_CFG.I2C, s.fld R.SYS.STRAPS.CTL_SEL),
    (R.STK.ID.POSITION, s.fld R.SYS.STRAPS.STACK_POS), (R.GAL.SCRUB_STAT.RETIRED, s.gal.retired.length),
    (R.GAL.SCRUB_STAT.RETIRE_FULL, b2n (decide (1024 ≤ s.gal.retired.length)))]
  (List.range 3).foldl (fun s p =>
    let m := s.flash.macs.getD p 0
    (s.setFld (R.NET.MAC_LO.ADDR p) (m % 2 ^ 32)).setFld (R.NET.MAC_HI.ADDR p) (m / 2 ^ 32 % 65536)) s

/-- A reset of the whole device (R50): everything returns to reset but the flash, what the pins show, and the facts PD_AON
keeps of its supply: failed attempts to start, the crystal and the slow counter. The model's own queue and logs stay. -/
def resetDevice (s : State) : State :=
  let r := State.reset
  let r := { r with
    pending := s.pending, flash := s.flash, freeCtr := s.freeCtr, ticks := s.ticks, out := s.out
    pins := { r.pins with straps := s.pins.straps, banks := s.pins.banks, perst := s.pins.perst }
    pwr := { r.pwr with railCopy := s.pwr.railCopy, xtalTicks := s.pwr.xtalTicks, slowTicks := s.pwr.slowTicks
                        slowTime := s.pwr.slowTime } }
  if s.pwr.xtalTicks then r.setFld R.PWR.STATE.XTAL_OK 1 else r

/-- PWR_CORE_EN rises at power-up: the rails come up and the device waits for RESET_N and the straps (R45, R76). -/
def coreUp (s : State) : State :=
  { s with
    pins := { s.pins with pwrCoreEn := true, vid := some 20 }
    pwr := { s.pwr with rcTimer := false, retryWait := false, starting := true, dom := startDomains } }

/-- AON_RESET_RELEASE (R45, R40, R44): the banks sense their voltages, TDML, TDMH, CTL, MGMT and TIO in mV, the VID pins carry
code 20, and the 2 ms timer starts. -/
def execAonResetRelease (tdml tdmh ctl mgmt tio : Nat) (s : State) : Out3 :=
  if s.domOn 0 then ok s
  else
    ok ((s.setPins fun p => { p with banks := [tdml, tdmh, ctl, mgmt, tio], vid := some 20 }).setPwr fun p =>
      { p with dom := aonOnly, rcTimer := true, attempts := 0 })

/-- PWR_CORE_EN_RISE (R45). -/
def execPwrCoreEnRise (s : State) : Out3 := if s.pwr.rcTimer then ok (coreUp s) else ok s

/-- RAIL_TIMEOUT (R43): a start attempt fails; up to three are made in a series. -/
def execRailTimeout (s : State) : Out3 :=
  if s.pwr.starting && s.pins.pwrCoreEn then
    let n := s.pwr.attempts + 1
    ok ((s.setPins fun p => { p with pwrCoreEn := false }).setPwr fun p =>
      { p with starting := false, attempts := n, retryWait := decide (n < 3), railCopy := true, dom := aonOnly })
  else ok s

/-- RAIL_RETRY (R43): 1 s after a failed attempt. -/
def execRailRetry (s : State) : Out3 := if s.pwr.retryWait then ok (coreUp s) else ok s

/-- RESET_N_PULSE (R49, R50, R43): a low pulse of `ns`. In SLEEP and SLEEP-R the rails come up as on a wake first, after the
minimum off time (R64); after three failed attempts it starts a new series; while a start is not yet due it stops nothing. -/
def execResetNPulse (ns : Nat) (s : State) : Out3 :=
  if ns < 250 ∨ !s.domOn 0 then ok s
  else if ns < 1000 then .fault .resetPulseForbidden
  else if s.pins.pwrCoreEn then ok (resetDevice s)
  else if s.pwr.rcTimer || s.pwr.retryWait then ok s
  else if 3 ≤ s.pwr.attempts then
    ok (coreUp ((resetDevice s).setPwr fun p => { p with attempts := 0 }))
  else if s.pwr.minOff then
    ok (((resetDevice s).setPins fun p => { p with pwrCoreEn := false, sramRet := s.pins.sramRet, vid := none }).setPwr fun p =>
      { p with minOff := true, retRise := s.pwr.retRise, dom := aonOnly })
  else
    ok (((resetDevice s).setPins fun p => { p with pwrCoreEn := false }).setPwr fun p =>
      { p with retFall := true, dom := aonOnly })

/-- SYS_RESET_EXECUTE (R214): 100 us after the response of a SYS.RESET of kind 0. -/
def execSysResetExecute (s : State) : Out3 := if s.pwr.resetDue then ok (resetDevice s) else ok s

/-- SUPPLY_LOSS (R46): every state ends but the flash. -/
def execSupplyLoss (s : State) : Out3 :=
  let r := State.reset
  ok { r with
    pending := s.pending, flash := s.flash, freeCtr := s.freeCtr, ticks := s.ticks, out := s.out
    pins := { r.pins with straps := s.pins.straps, perst := s.pins.perst, pwrCoreEn := false, vid := none }
    pwr := { r.pwr with starting := false, dom := List.replicate 12 false } }

/-- BROWN_OUT (R405): the active device drives TWIN_FAIL_N low until reset; its TAKEOVER bit is that of MBX.WDOG_CFG
(log 29). -/
def execBrownOut (s : State) : Out3 := ok (driveFail s (s.flag R.MBX.WDOG_CFG.TAKEOVER))

/-! ### Straps (R52 to R55) -/

/-- The strap combinations of R54. -/
def comboBad (straps : Nat) : Bool :=
  let pers := bits straps 5 2
  let src := bits straps 8 2
  (pers == 1 || pers == 2) && (nbit straps 7 || src == 2) || (pers == 1 && src == 1)

/-- STRAP_SAMPLE (R52 to R54, R4, R43): the ten levels are sampled, and a reserved or invalid combination enters RECOVERY. -/
def execStrapSample (levels : Nat) (s : State) : Out3 :=
  if !s.pwr.starting ∨ !s.pins.pwrCoreEn then ok s
  else
    let v := levels % 1024
    let s := (s.setPins fun p => { p with straps := v }).setPwr fun p => { p with starting := false, attempts := 0 }
    let s := s.wr R.SYS.STRAPS.reg (BitVec.ofNat 32 (v + v * 65536 + b2n (comboBad v) * 1024))
    let s := s.setFlag R.PWR.FAULT.RAIL_TIMEOUT s.pwr.railCopy
    let s := fixedFields s
    let s := { s with fw := { s.fw with work := { s.fw.work with pers := s.pers } } }
    ok (if bits v 5 2 = 3 then s.enterRecovery 1 else if comboBad v then s.enterRecovery 2 else s)

/-- STRAP_COMPARE (R55). -/
def execStrapCompare (levels : Nat) (s : State) : Out3 :=
  if s.pwr.starting ∨ !s.domOn 0 then ok s
  else
    let v := levels % 1024
    let s := s.setPins fun p => { p with straps := v }
    let s := s.setFld R.SYS.STRAPS.LIVE v
    ok (if v = bits (s.rd R.SYS.STRAPS.reg).toNat 0 10 then s else s.setFld R.SYS.STRAPS.CHANGED 1)

/-- PERST_N_ASSERT (R51, R353). -/
def execPerstNAssert (s : State) : Out3 :=
  ok (if s.domOn 8 then hstPerst s else s.setPins fun p => { p with perst := true })

/-! ### Boot (R76, R199 to R201, R415) -/

/-- SYS_PLL_LOCK (R83, R76): CK_CORE runs at 800 MHz, after a wake once WAKING ends (R79, R82). After a reset the boot ROM runs, and loads the identity record into the
MAC address registers and the DX cells (R453). -/
def execSysPllLock (s : State) : Out3 :=
  if !s.domOn 11 then ok s
  else
    let s := s.setFld R.CLK.PLL_STAT.SYS_LOCK 1
    let s := if s.pstate = 10 then s else s.setFld R.CLK.PLL_STAT.CORE_SLOW 0
    let n := s.flash.serial
    let m := s.flash.macs.getD 2 0
    ok (if s.phase = 0 then
        (fixedFields s).setDx 3 n |>.setDx 4 (n / 65536) |>.setDx 5 (n / 2 ^ 32) |>.setDx 6 (m / 2 ^ 32)
          |>.setDx 7 (m / 65536) |>.setDx 8 m
      else s)

/-- Whether the boot ROM reads images from flash (R53, R54): BOOT_SRC 0b00 and 0b11. -/
def bootsFlash (s : State) : Bool := s.fld R.SYS.STRAPS.BOOT_SRC == 0 || s.fld R.SYS.STRAPS.BOOT_SRC == 3

/-- BOOT_IMAGE_VERIFIED (R200, R201): the ROM has checked images A and B, whose signatures gave `a` and `b`; `fw` and `proto` are the words of the header of the
image booted. A trial not committed by the boot after it is given up; a trial boots the other image once; an image that
fails gives way to the other one; with none, the host loads one or the device enters RECOVERY. -/
def execBootImageVerified (a b : Option Nat) (fw proto : Nat) (s : State) : Out3 :=
  if s.phase ≠ 0 ∨ s.pwr.starting = true ∨ s.mbx.verified = true ∨ !bootsFlash s ∨ !s.flag R.CLK.PLL_STAT.SYS_LOCK then ok s
  else
    let f := s.flash
    let gaveUp := f.trial && f.booted
    let f := if gaveUp then { f with trial := false, booted := false } else f
    let first := if f.trial then 1 - f.active % 2 else f.active % 2
    let good (i : Nat) : Bool := imageVerifies s (s.flash.images.getD i []).length (if i = 0 then a else b)
    let f := if f.trial then { f with booted := true, tries := f.tries + 1 } else f
    let s := { s with flash := f }
    let run (i fall : Nat) : State :=
      let s := s.setFlds [(R.MBX.BOOT_INFO.SOURCE, i), (R.MBX.BOOT_INFO.FALLBACK, fall),
        (R.MBX.BOOT_INFO.TRIAL, b2n (f.trial && i == first))]
      let s := (s.wr R.COLO.FW.reg (BitVec.ofNat 32 (fw % 2 ^ 24))).wr R.COLO.STKPROTO.reg (BitVec.ofNat 32 (proto % 65536))
      (s.setDx 2 (fw / 256 + 0x200)).setMbx fun m => { m with verified := true, hostImg := false }
    if good first then ok (run first (if gaveUp then 2 else 0))
    else if good (1 - first) then ok (run (1 - first) (if f.trial then 2 else 1))
    else
      let s := s.setFld R.MBX.BOOT_INFO.FALLBACK 3
      ok (if s.fld R.SYS.STRAPS.BOOT_SRC = 3 ∧ s.pers ≠ 1 then s else s.enterRecovery 4)

/-- Whether flash forme `k` is valid (R415). -/
def formeValid (s : State) (k : Nat) : Bool :=
  formeVerdict s (s.flash.formes.getD k []) == 0 && (parseForme (s.flash.formes.getD k [])).isSome

/-- A flash forme. -/
def flashForme (s : State) (k : Nat) : FormeImg := (parseForme (s.flash.formes.getD k [])).getD (formeEmpty s.pers)

/-- Apply a forme to a machine on which nothing runs: its stages in their order, then its mutes (R415, R420). -/
def applyWhole (s : State) (f : FormeImg) : State :=
  let a := formeEmpty s.pers
  let ch := changedDests a f
  let ds := restarted a f
  let s := [1, 2, 3, 4, 5, 6].foldl (fun s n => stageRun s a f ch ds n) s
  muteAll s ch (some f)

/-- Firmware takes a forme as its working forme with its generation (R416). -/
def takeWork (s : State) (f : FormeImg) : State :=
  { s.setFld R.FRM.GEN.GEN_F (f.gen % 2 ^ 32) with fw := { s.fw with work := f } }

/-- The boot forme firmware chooses (R415): the choice, whether the override made it, why it fell back, and the forme used
(7 empty). -/
def bootChoice (s : State) : Nat × Bool × Nat × Nat :=
  let (c, ov) := match s.flash.bootOv with
    | some k => (k % 4, true)
    | none => (s.fld R.SYS.STRAPS.FORME, false)
  if formeValid s c then (c, ov, 0, c)
  else
    let why := formeVerdict s (s.flash.formes.getD c [])
    (c, ov, if why = 0 then 2 else why, ((List.range 4).find? (formeValid s)).getD 7)

/-- The forme's DX section names the DX MCS and PTI in NATIVE+DX (R447); the section's layout is not stated, so that they
are free values (log 43). -/
def dxNamed (s : State) (forme : Bool) : State :=
  if coDx s && forme then
    let (a, s) := s.fresh
    let (b, s) := s.fresh
    { s with dx := { s.dx with mcs := (Config.freeValue a).toNat % 8, pti := (Config.freeValue b).toNat % 4 } }
  else s

/-- BOOT_FORME_APPLIED (R415, R416, R143, R227): firmware applies the boot forme, is ready, and enters the phase the forme
names. -/
def execBootFormeApplied (s : State) : Out3 :=
  if s.phase ≠ 0 ∨ !s.mbx.verified ∨ s.flag R.MBX.STAT.FW_READY = true then ok s
  else
    let (c, ov, why, used) := bootChoice s
    let f := if used = 7 then formeEmpty s.pers else flashForme s used
    let test := f.phase == 2
    let s1 := s.setFlds [(R.FRM.BOOT.USED, used), (R.FRM.BOOT.CHOSEN, c), (R.FRM.BOOT.OVERRIDE, b2n ov),
      (R.FRM.BOOT.FALLBACK, why), (R.FRM.BOOT.TEST, b2n test)]
    let s1 := takeWork (if used = 7 then s1 else applyWhole s1 f) f
    let s1 := dxNamed s1 (used != 7)
    let s1 := fwStarted (s1.setFld R.MBX.STAT.FW_READY 1) 0
    ok (follow s (if test then s1.setFld R.SYS.PHASE.PHASE_F 2 else s1.enterService))

/-! ### The crystal and the slow counter (R68, R77, R118) -/

/-- XTAL_QUALIFIED (R77). -/
def execXtalQualified (s : State) : Out3 :=
  if s.domOn 0 then ok ((s.setPwr fun p => { p with xtalTicks := true }).setFld R.PWR.STATE.XTAL_OK 1) else ok s

/-- XTAL_FAIL_TIMEOUT (R77). -/
def execXtalFailTimeout (s : State) : Out3 :=
  if s.domOn 0 && !s.pwr.xtalTicks then ok (s.setFld R.PWR.FAULT.XTAL_FAIL 1) else ok s

/-! ### Saving and replaying a domain (R60, R61, R179) -/

/-- The bits of a register the retention store keeps: covered and QL fields, and of PD_MCU the quoins, phase, CRC reference and
status, ownership, and the interrupt controller's settings and thresholds (R179). -/
def keepMask (key : Nat) : Word :=
  let off := key % 0x1000000
  if off = 0x1010 ∨ (0x4400 ≤ off ∧ off < 0x4840) ∨
      [0x3060, 0x3064, 0x3094, 0x309C, 0x30A0, 0x30A4].contains off then 0xFFFFFFFF
  else if off = 0x4010 ∨ off = 0x4014 then 7
  else
    match regFind off with
    | some (r, _) => r.covMask
    | none => 0

/-- Whether a key is a register a domain loses with its power; the PWR block is the power controller's own, and the sampled
straps are PD_AON's, which compares and wakes by them in every state (R55, R68). -/
def lostWith (d key : Nat) : Bool :=
  let off := key % 0x1000000
  off != 0x1040 && State.domBlock d off && !(decide (0x2000 ≤ off) && decide (off < 0x3000)) && !(decide (off < 0x1000))

/-- Distance of a saved shadow's key from its register's. -/
def shadowKey : Nat := 2 ^ 48

/-- What the retention store holds of a file's registers. -/
def savedOf (d : Nat) (m : Store) : List (Nat × Word) :=
  m.filterMap fun p =>
    if lostWith d p.1 then
      some (p.1, (p.2 &&& keepMask p.1) ||| (regDefault p.1 &&& ~~~keepMask p.1))
    else none

/-- What the retention store keeps of an interrupt target, as bytes for the image's CRC (R179). -/
def targetBytes (t : IrqTarget) : List Byte :=
  leBytes 32 t.pend.toNat ++ leBytes 32 t.mask.toNat ++ t.stack.flatMap fun e => [BitVec.ofNat 8 e.src, BitVec.ofNat 8 e.prio]

/-- Save a domain (R60): its registers and a CRC-32C over them; with PD_MCU the interrupt targets too (R179). -/
def saveDomain (s : State) (d : Nat) : State :=
  let regs := savedOf d s.rf ++ (savedOf d s.sh).map fun p => (p.1 + shadowKey, p.2)
  let crc := crc32c ((regs.flatMap fun p => leBytes 8 p.1 ++ leBytes 4 p.2.toNat) ++
    if d = 1 then targetBytes s.irq.host ++ targetBytes s.irq.mcu else [])
  s.setPwr fun p => { p with
    retention := ⟨d, regs, crc⟩ :: p.retention.filter fun i => i.domain != d
    irqSaved := if d = 1 then some (s.irq.host, s.irq.mcu) else p.irqSaved }

/-- Blocks of a domain that count in an MCS's USERS. -/
def userIn (d : Nat) (u : User) : Bool :=
  match d with
  | 2 => u.kind == 2 || u.kind == 3 || u.kind == 8
  | 7 => u.kind == 6 || u.kind == 7
  | 8 => u.kind == 4 || u.kind == 5
  | 9 => decide (u.kind < 2) && decide (u.item < 8)
  | 10 => decide (u.kind < 2) && decide (8 ≤ u.item)
  | _ => false

/-- What is not a register of a domain, as it is after the domain lost power. -/
def clearBlocks (s : State) (d : Nat) : State :=
  match d with
  | 1 => { s with
      irq := { irqReset with msixLo := s.irq.msixLo, msixHi := s.irq.msixHi, msixDat := s.irq.msixDat, msixVec := s.irq.msixVec }
      mbx := { mbxReset with hostImg := s.mbx.hostImg, verified := s.mbx.verified }
      bus := List.replicate 3 sideReset, twin := twinReset, dx := { dxBlockReset with
        cells := s.dx.cells.filter fun p => decide (p.1 < 0x10), mcs := s.dx.mcs, pti := s.dx.pti }
      grd := { ppsSeen := s.grd.ppsSeen, faulted := [], runs := [], reprobe := [] }
      fw := { fwReset with work := s.fw.work } }
  | 2 => { s with rxf := [], txs := [], cls := [], impo := [], sorts := [], lanes := List.replicate 256 laneReset }
  | 3 => halfLost s 0
  | 4 => halfLost s 1
  | 5 => { s with net := modifyAt s.net 0 (fun _ => netReset), txp := modifyAt s.txp 0 (fun _ => txpReset) }
  | 6 => { s with net := modifyAt s.net 1 (fun _ => netReset), txp := modifyAt s.txp 1 (fun _ => txpReset) }
  | 7 => { s with stk := stkReset }
  | 8 => { s with hsts := [], reads := [], hstBytes := [0, 0], hstSlots := [] }
  | 9 => { s with tdms := s.tdms.mapIdx fun i t => if i < 16 then tdmReset else t }
  | 10 => { s with tdms := s.tdms.mapIdx fun i t => if 16 ≤ i then tdmReset else t }
  | 11 => { s with pwr := { s.pwr with trimDone := false }, ptis := s.ptis.map fun p => { ptiReset with time := p.time }, platens := List.replicate 16 platenReset, ptm := ⟨0, 0⟩ }
  | _ => s

/-- A domain stops before its power goes (R237, R295, R359): ports go off, links down, host blocks to OFF. -/
def stopBlocks (s : State) (d : Nat) : State :=
  match d with
  | 5 => if s.fld (R.NET.STAT.STATE 0) = 0 then s else portLink s 0 0
  | 6 => if s.fld (R.NET.STAT.STATE 1) = 0 then s else portLink s 1 0
  | 8 => hstPowerOff s
  | 9 => tdmPowerOff s false
  | 10 => tdmPowerOff s true
  | _ => s

/-- Switch a domain off after saving it (R60); on the way to SLEEP-R the Compositor has sealed its wake image (R65). -/
def domainOff (s : State) (d : Nat) : State :=
  if !s.domOn d ∨ d = 0 then s
  else
    let s := saveDomain (stopBlocks s d) d
    let s := if d = 1 ∧ s.pwr.target = 2 then { s with wakeImg := some s.fw } else s
    let s := clearBlocks s d
    let s := { s with
      rf := sDrop (lostWith d) s.rf, sh := sDrop (lostWith d) s.sh
      cap := s.cap.filter fun c => !lostWith d c.key
      latched := s.latched.filter fun k => !lostWith d k
      user := s.user.filter fun u => !userIn d u }
    let s := fixedFields (s.setDom d false)
    if d = 1 then s.setPwr fun p => { p with saved := true } else s

/-- The interrupt controller after its replay (R179): groups closed, the vanished marks gone, the sources of the latches set
since the entry pending, and every level source's bit recomputed; a HOST condition that holds then queues its message
(R160). -/
def irqRestore (s : State) : State :=
  let b := irqCond s false
  let fix (t : IrqTarget) : IrqTarget :=
    { t with stack := t.stack.map fun e => { e with seen := false, gone := false }, mods := List.replicate 16 .closed
             cond1 := false, cond2 := false }
  let s := match s.pwr.irqSaved with
    | some (h, m) => { s with irq := { s.irq with host := fix h, mcu := fix m } }
    | none => s
  let s := (List.range 16).foldl (fun s k =>
    if nbit s.pwr.sinceEntry k then
      [false, true].foldl (fun s m => if srcPrio s m (16 + k) = 0 then s else pendSet s m (16 + k)) s
    else s) s
  msixIfRose b ((List.range 256).foldl (fun s n => if isLevel (srcSense s n) then irqSample s n else s) s)

/-- A domain powers up and its saved image is replayed (R60, R61, R179): an image that fails its check leaves the domain
isolated and the device in RECOVERY. -/
def domainOn (s : State) (d : Nat) (corrupt : Bool) : State :=
  let s := s.setDom d true
  let s := if d = 11 ∧ s.pstate = 10 then s.setFld R.CLK.PLL_STAT.CORE_SLOW 1 else s
  let s := s.setFlds [(R.GAL.POOL.BUILD0, b2n (s.domOn 3 && !s.gal.built.getD 0 false)),
    (R.GAL.POOL.BUILD1, b2n (s.domOn 4 && !s.gal.built.getD 1 false))]
  match s.pwr.retention.find? fun i => i.domain == d with
  | none => s
  | some img =>
    if corrupt then
      (((s.setPwr fun p => { p with isolated := modifyAt p.isolated d (fun _ => true) }).setFld R.PWR.FAULT.RESTORE_CRC 1).setFlds
        [(R.SYS.PHASE.PHASE_F, 3), (R.SYS.PHASE.REASON, 3)])
    else
      let s := img.regs.foldl (fun s p => if shadowKey ≤ p.1 then s.wrSh (p.1 - shadowKey) p.2 else s.wr p.1 p.2) s
      let s := fixedFields (s.setPwr fun p => { p with retention := p.retention.filter fun i => i.domain != d })
      if d = 1 then irqRestore s else s

/-- Whether a queue holds a reservation or a cell in a half (R272). -/
def halfNeeded (s : State) (h : Nat) : Bool :=
  (s.gal.qs.any fun p => p.2.cells.any fun c => c.half == h) ||
    (reserved s).any fun p => p.2 != 0 && (confined s p.1).getD h == h

/-- Whether a demand domain holds an enabled block (R59). -/
def demandBusy (s : State) (d : Nat) : Bool :=
  match d with
  | 3 => halfNeeded s 0
  | 4 => halfNeeded s 1
  | 5 => s.fld (R.NET.CFG.MODE 0) != 0
  | 6 => s.fld (R.NET.CFG.MODE 1) != 0
  | 7 => s.flag R.STK.CFG.EN
  | 8 => s.pers != 1 && !s.pins.perst
  | 9 => (List.range 16).any fun i => s.fld (td (R.TDM.TX_FMT.EN (i / 2)) (i % 2 == 1)) != 0
  | 10 => (List.range 16).any fun i => s.fld (td (R.TDM.TX_FMT.EN (8 + i / 2)) (i % 2 == 1)) != 0
  | _ => true

/-- Whether a domain is that of the DOZE port, which R59 keeps on in DOZE. -/
def dozeDomain (s : State) (d : Nat) : Bool :=
  let port := s.fld R.PWR.CTRL.DOZE_PORT
  (port == 1 || port == 2) && d == port + 4

/-- Whether an entry keeps a domain: the DOZE port's in DOZE, a galley half named by RET_HALF in SLEEP-R, whose banks stay
supplied (R59, R65). -/
def entryKeeps (s : State) (d : Nat) : Bool :=
  (s.pstate == 8 && dozeDomain s d) ||
    (s.pstate == 9 && s.pwr.target == 2 && (d == 3 || d == 4) && nbit (s.fld R.PWR.CTRL.RET_HALF) (d - 3))

/-- DOMAIN_POWER_OFF (R59, R60): a demand domain with nothing enabled in RUN, or any domain but AON and CLK in an entry, which
stops what runs and keeps what its state keeps. -/
def execDomainPowerOff (d : Nat) (s : State) : Out3 :=
  if d = 0 ∨ d = 11 ∨ 12 ≤ d ∨ entryKeeps s d = true then ok s
  else if s.pstate = 9 ∨ (s.pstate = 8 ∧ 3 ≤ d) then ok (follow s (domainOff s d))
  else if s.pstate = 0 ∧ 3 ≤ d ∧ !demandBusy s d then ok (domainOff s d)
  else ok s

/-- DOMAIN_POWER_UP (R60, R61, R75): not while PWR_CORE_EN is low or an entry is under way, and in DOZE only what R59 keeps
on. -/
def execDomainPowerUp (d : Nat) (corrupt : Bool) (s : State) : Out3 :=
  if d = 0 ∨ 12 ≤ d ∨ !s.pins.pwrCoreEn ∨ s.pwr.dom.getD d false = true ∨ !(s.pstate = 0 ∨ s.pstate = 10) then ok s
  else
    let s := if s.pstate = 10 then s.setFld R.PWR.STATE.RESTORING 1 else s
    ok (domainOn s d corrupt)

/-! ### Wakes (R62 to R72) -/

/-- PCIE_WAKE_N is driven on a wake the host did not start, until the link leaves L2 (R81). -/
def pcieWake (s : State) : State :=
  if s.flag R.PWR.CTRL.WAKE_PCIE && s.pwr.wasL2 && !s.pwr.hostWake then s.setPins fun p => { p with wakeLow := true } else s

/-- The wakes that a host starts (R68, R72, R81): by PCIE_WAKE_N, by activity on CTL, or by a command over CTL (log 86). -/
def hostStarts (cause : Nat) : Bool := [1, 2, 15, 0x21].contains cause

/-- WAKING from DOZE (R62, R72, R79): VID goes to the code that CK_CORE's rise needs. -/
def wakeDoze (s : State) (cause : Nat) : State :=
  let s := (s.setPwr fun p => { p with from_ := 1, hostWake := hostStarts cause }).setFld R.PWR.STATE.LAST_WAKE cause
  pcieWake ((s.goPower 10).setVid s.wakeVid)

/-- SRAM_RET falls and code 20 is driven; PWR_CORE_EN follows 250 us later (R42, R44). -/
def retFalls (s : State) : State :=
  ((s.setPwr fun p => { p with wakeHeld := false, retFall := true, retRise := false }).setPins fun p =>
    { p with sramRet := false }).setVid 20

/-- WAKING from SLEEP or SLEEP-R. -/
def wakeSleep (s : State) : State := retFalls ((s.setPwr fun p => { p with from_ := s.pstate }).goPower 10)

/-- Firmware takes up its work again after PD_MCU was off (R65, R66, R416): what the wake image holds, else the working forme
alone; the generation and FW_READY. -/
def fwBack (s : State) : State :=
  let s := match s.wakeImg with
    | some f => { s with fw := f, wakeImg := none }
    | none => s
  (takeWork s s.fw.work).setFld R.MBX.STAT.FW_READY 1

/-- The tables that no retention image covers come back from the working forme (R61). -/
def reloadTables (s : State) : State :=
  let f := s.fw.work
  let s := f.keys.foldl (fun s p => keyWrite s (p.1 / 8) (p.1 % 8) p.2) s
  let s := fwPuts s f (f.regs.map Prod.fst |>.filter fun k => stageOf k == 3)
  strobe (f.imps.foldl (fun s p => impWrite s p.1 p.2) s) 2

/-- The sleep-save area no longer holds a valid forme (R66). -/
def saveInvalid (s : State) : State :=
  { s with flash := { s.flash with formes := modifyAt s.flash.formes 4 fun _ => [] }, pwr := { s.pwr with sleepSave := 3 } }

/-- ENTRY_ABANDONED (R61, R64, R66, R118): the device returns to the state it left, firmware and the tables of PD_FAB with it; a
sleep-save in progress leaves its area invalid, and time handed over comes back at the next CK_AON edge. -/
def abandonEntry (s : State) : State :=
  let s := s.goPower s.pwr.back
  let mcu := s.pwr.dom.getD 1 false
  let fab := s.pwr.dom.getD 2 false
  let s := if mcu then s else fwBack (domainOn s 1 false)
  let s := if fab then s else reloadTables (domainOn s 2 false)
  let s := s.setPwr fun p => { p with saved := false, handDue := false, handbackDue := p.handbackDue || p.handover }
  let s := if s.pwr.sleepSave = 1 then saveInvalid s else s
  if s.pstate = 0 then
    (List.range 8).foldl (fun s n =>
      if s.flag (R.CLK.MCS_CFG.EN n) && s.mcsState n == mcsOff then mcsGo s n mcsQualify else s) s
  else s

/-- An armed latch sets (R64, R69, R71, R179): while PD_MCU has power its source is raised at once, else at the replay. -/
def latchSet (s : State) (k : Nat) (sameTick : Bool) : State :=
  let s := s.setFld R.PWR.WL_STAT.LATCHED (setBit (s.fld R.PWR.WL_STAT.LATCHED) k true)
  let st := s.pstate
  let s := if st = 0 then s else s.setPwr fun p => { p with sinceEntry := setBit p.sinceEntry k true }
  let s := if s.domOn 1 then irqEdge s (16 + k) else s
  let lower := sameTick && decide (k < s.fld R.PWR.STATE.LAST_WAKE) && decide (s.fld R.PWR.STATE.LAST_WAKE < 16)
  if st = 1 then wakeDoze s k
  else if st = 8 ∨ st = 9 then
    abandonEntry ((s.setFld R.PWR.STATE.LAST_WAKE k).setPwr fun p => { p with hostWake := hostStarts k })
  else if st = 2 ∨ st = 3 then
    if s.pwr.wakeHeld then (if lower then s.setFld R.PWR.STATE.LAST_WAKE k else s)
    else
      let s := (s.setFld R.PWR.STATE.LAST_WAKE k).setPwr fun p => { p with hostWake := hostStarts k }
      if s.pwr.minOff then s.setPwr fun p => { p with wakeHeld := true } else wakeSleep s
  else if st = 10 ∧ lower = true then s.setFld R.PWR.STATE.LAST_WAKE k
  else s

/-- Whether the device itself drives the pin of a latch (R70). -/
def drivesPin (s : State) (k : Nat) : Bool :=
  (k == 2 && s.pins.wakeLow) || (k == 3 && s.pins.twinTakeLow) || (k == 4 && s.pins.twinFailLow) || (k == 5 && s.pins.irqLow)

/-- WAKE_LATCH_EDGE (R68 to R71): an edge of `ns` at latch `k`; `afterRelease` says that the device released the pin within one
CK_AON tick before, `sameTick` that it falls in the tick of the latch that started the wake. A pulse of 10 ns to 50 ns may or
may not be caught: a free value. WL14 has its own row. -/
def execWakeLatchEdge (k : Nat) (rising : Bool) (ns : Nat) (afterRelease sameTick : Bool) (s : State) : Out3 :=
  let sel := s.flag R.SYS.STRAPS.CTL_SEL
  if 16 ≤ k ∨ k = 14 ∨ !s.domOn 0 ∨ (k = 1 ∧ sel = true) ∨ (k = 15 ∧ !sel) ∨ !nbit (s.fld R.PWR.WL_CFG.EN) k ∨
      nbit (s.fld R.PWR.WL_CFG.EDGE) k ≠ rising ∨ drivesPin s k = true ∨ (afterRelease = true ∧ 2 ≤ k ∧ k ≤ 5) ∨ ns < 10 then ok s
  else if 50 ≤ ns then ok (latchSet s k sameTick)
  else
    let (i, s) := s.fresh
    ok (if (Config.freeValue i).getLsbD 0 then latchSet s k sameTick else s)

/-- SLOW_COUNTER_ALARM (R68): WL14 sets when the tick count's low 32 bits equal PWR.ALARM; 0 disables it. -/
def execSlowCounterAlarm (sameTick : Bool) (s : State) : Out3 :=
  let a := s.fld R.PWR.ALARM.TICKS
  if a = 0 ∨ !s.domOn 0 ∨ !s.flag R.PWR.STATE.XTAL_OK ∨ s.pwr.slowTicks % 2 ^ 32 ≠ a ∨ !nbit (s.fld R.PWR.WL_CFG.EN) 14 then ok s
  else ok (latchSet s 14 sameTick)

/-- MIN_OFF_TIME_EXPIRY (R64, R50): a wake held until then goes on, and so does a reset. -/
def execMinOffTimeExpiry (s : State) : Out3 :=
  if s.pwr.minOff then
    let s := s.setPwr fun p => { p with minOff := false }
    ok (if s.pwr.starting then retFalls s else if s.pwr.wakeHeld then wakeSleep s else s)
  else ok s

/-- WAKE_POWER_UP (R42, R50): 250 us after SRAM_RET fell. A reset in SLEEP goes on as after power-up. -/
def execWakePowerUp (s : State) : Out3 :=
  if !s.pwr.retFall then ok s
  else
    let s := (s.setPins fun p => { p with pwrCoreEn := true }).setPwr fun p => { p with retFall := false }
    ok (if s.pwr.starting then s.setPwr fun p => { p with dom := startDomains } else pcieWake s)

/-- WAKE_RAIL_TIMEOUT (R42): the device stays in its sleep state and records the fault. -/
def execWakeRailTimeout (s : State) : Out3 :=
  if s.pstate ≠ 10 ∨ s.pwr.from_ = 1 ∨ !s.pins.pwrCoreEn ∨ s.domOn 11 = true then ok s
  else
    let s := s.setPins fun p => { p with pwrCoreEn := false, sramRet := true, vid := none, wakeLow := false }
    ok (((s.goPower s.pwr.from_).setFld R.PWR.FAULT.RAIL_TIMEOUT 1).setFld R.PWR.AVS.VID_NOW 0)

/-- Blocks that the forme enables and that stand OFF after a replay start again: firmware strobes their EN from 0. -/
def restartBlocks (s : State) : State :=
  let ks := (s.rf.map Prod.fst).filter fun k => match enBit k with
    | some f => stageOf k == 4 && f.of (s.rd k) != 0
    | none => false
  let s := ks.foldl (fun s k => match enBit k with
    | some f => (s.wrSh k (s.rd k)).wr k (f.ins 0 (s.rd k))
    | none => s) s
  stageStrobe s (groupsOf ks)

/-- The forme that firmware applies on a wake from SLEEP (R66): the recorded or the sleep-save one, else as at boot. -/
def wakeWork (s : State) : FormeImg :=
  match s.pwr.wakeForme with
  | some k =>
    if formeValid s k && (k != 4 || s.pwr.sleepSave == 2) then flashForme s k
    else if (bootChoice s).2.2.2 = 7 then formeEmpty s.pers else flashForme s (bootChoice s).2.2.2
  | none => if (bootChoice s).2.2.2 = 7 then formeEmpty s.pers else flashForme s (bootChoice s).2.2.2

/-- The end of WAKING (R62, R79, R82): the code CK_CORE's rise needs is driven, and CK_CORE rises where its PLL has locked. -/
def wakeUp (s : State) : State :=
  ((s.setVid s.wakeVid).setFlds [(R.CLK.PLL_STAT.CORE_SLOW, b2n (!s.flag R.CLK.PLL_STAT.SYS_LOCK)),
    (R.PWR.STATE.RESTORING, 0)]).goPower 0

/-- WAKING_READY (R62, R66, R67, R71, R79, R91, R216): the Compositor is ready. A wake image that fails its check leads through
the SLEEP path; an image that does not verify on a wake from SLEEP leaves no firmware, as at start-up (log 88). Every enabled
MCS restarts at QUALIFY and derives its count anew from its reference. -/
def execWakingReady (imageOk : Bool) (s : State) : Out3 :=
  if s.pstate ≠ 10 ∨ !s.domOn 1 ∨ !s.domOn 2 ∨ !s.domOn 11 then ok s
  else if s.pwr.from_ = 3 ∧ imageOk = false then ok ((wakeUp s).enterRecovery 4)
  else
    let prev := s.pwr.from_
    let last := s.fld R.PWR.STATE.LAST_WAKE
    let s1 := wakeUp s
    let bad := prev == 2 && !imageOk
    let s1 := if bad then { s1.setFld R.PWR.FAULT.IMAGE_CRC 1 with wakeImg := none } else s1
    let s1 := fwBack s1
    let s1 := if prev = 3 ∨ bad = true then takeWork s1 (wakeWork s1) else s1
    let s1 := if prev = 1 then s1 else reloadTables s1
    let s1 := (List.range 8).foldl (fun s n =>
      if s.flag (R.CLK.MCS_CFG.EN n) && s.mcsState n == mcsOff then
        mcsGo s n mcsQualify
      else s) s1
    let s1 := if prev = 1 then s1 else restartBlocks s1
    let s1 := s1.pwr.dozeBuf.foldl (fun s f => s.emit (.dozeFrame f.port f.bytes f.time)) s1
    let s1 := s1.setPwr fun p => { p with
      dozeBuf := [], sinceEntry := 0, saved := false, wakeForme := none, wakeImage := false, sleepSave := 0
      wakeMsg := if prev = 1 then p.wakeMsg else some (prev, last) }
    let m : Msg := ⟨0xE030, 0, 0, liveGen s1, 0, [byteOf prev, byteOf last]⟩
    let s1 := queueFirst (queueFirst s1 0 m) 1 m
    ok (follow s (if prev = 1 then queueEvent s1 2 m else s1))

/-! ### Entries (R62 to R67) -/

/-- An entry begins (R62, R66, R91, R118): every MCS stops on the way to sleep; SLEEP records the stored forme of the live
generation, or starts the sleep-save; the register save begins, so that time is handed over at the next CK_AON edge. -/
def beginEntry (s : State) (target : Nat) : State :=
  let k := (List.range 4).find? fun k => formeValid s k && (flashForme s k).gen == liveGen s
  let s1 := s.setPwr fun p => { p with
    target := target, back := s.pstate, sinceEntry := 0, saved := false, wakeHeld := false, pmeArmed := none
    handDue := target != 1
    wasL2 := s.fld R.HST.LINK.STATE == 4 || (p.wasL2 && !s.domOn 8)
    sleepSave := if target = 3 ∧ k.isNone = true then 1 else 0
    wakeForme := if target = 3 then some (k.getD 4) else none }
  -- a stack-wide entry is told to the members first (R63, R385)
  let s1 := if stkState s1 = 5 then stkTell s1 (.sleep target) else s1
  let s1 := s1.goPower (if target = 1 then 8 else 9)
  if target = 1 then s1
  else
    let s1 := (List.range 8).foldl (fun s n => if s.mcsState n = mcsOff then s else mcsGo s n mcsOff) s1
    follow s s1

/-- TO_DOZE_COMPLETE (R59, R62, R91): MCSs stop, the demand domains but that of the DOZE port go off, that one is powered, and
the reference PLL supplies CK_CORE at 125 MHz. The DOZE port retrains at 1000BASE-X. -/
def execToDozeComplete (s : State) : Out3 :=
  if s.pstate ≠ 8 then ok s
  else
    let port := s.fld R.PWR.CTRL.DOZE_PORT
    let s1 := (List.range 8).foldl (fun s n => if s.mcsState n = mcsOff then s else mcsGo s n mcsOff) s
    let s1 := { s1 with gal := { s1.gal with qs := [] } }
    let s1 := ([3, 4, 5, 6, 7, 8, 9, 10].filter fun d => !dozeDomain s d).foldl domainOff s1
    let s1 := if (port = 1 ∨ port = 2) ∧ s1.pwr.dom.getD (port + 4) false = false then domainOn s1 (port + 4) false else s1
    let s1 := if port = 1 ∨ port = 2 then portLink s1 (port - 1) 1 else s1
    let s1 := s1.setFlds [(R.CLK.PLL_STAT.SYS_LOCK, 0), (R.CLK.PLL_STAT.CORE_SLOW, 1)]
    ok (follow s (s1.goPower 1))

/-- SLEEP_SAVE_DONE (R66): the working forme is in the sleep-save area; a write that fails refuses SLEEP (R81). -/
def execSleepSaveDone (good : Bool) (s : State) : Out3 :=
  if s.pstate ≠ 9 ∨ s.pwr.sleepSave ≠ 1 then ok s
  else if good then
    ok { s with
      flash := { s.flash with formes := modifyAt s.flash.formes 4 fun _ => s.fw.work.image }
      pwr := { s.pwr with sleepSave := 2 } }
  else ok (follow s (abandonEntry (s.setFld R.PWR.FAULT.SAVE_FAIL 1)))

/-- POINT_OF_NO_RETURN (R62, R64, R65): PWR_CORE_EN falls, and SRAM_RET rises a tick later; every domain but AON is off. SLEEP-R keeps the chosen halves with
their link RAM; in SLEEP nothing of the galley survives, and no working forme in memory. -/
def execPointOfNoReturn (s : State) : Out3 :=
  if s.pstate ≠ 9 ∨ !s.pwr.handover ∨ s.pwr.sleepSave = 1 then ok s
  else
    let t := s.pwr.target
    let half := s.fld R.PWR.CTRL.RET_HALF
    let s1 := if t = 2 then galSleepR s (nbit half) else { s with gal := { galReset with retired := s.gal.retired } }
    let gal := s1.gal
    let s1 := [3, 4, 5, 6, 7, 8, 9, 10, 2, 1, 11].foldl domainOff s1
    let s1 := { s1 with gal := gal }
    let s1 := if t = 3 then { s1 with fw := { s1.fw with work := formeEmpty s.pers } } else s1
    let s1 := s1.setPins fun p => { p with
      pwrCoreEn := false, vid := none, irqLow := false, wakeLow := false, twinFailLow := false
      twinTakeLow := false, clkOut := List.replicate 5 none, ppsHigh := false, loopback := [0, 0, 0, 0], txInv := 0 }
    let s1 := if t = 2 then s1 else { s1 with wakeImg := none }
    let s1 := s1.setPwr fun p => { p with minOff := true, retRise := true, wakeHeld := false, wakeImage := t == 2 }
    ok ((s1.setFld R.PWR.AVS.VID_NOW 0).goPower t)

/-- PME_L2_HANDSHAKE (R63, R216): the device answers PME_TO_Ack, the link goes to L2, and an armed entry begins. -/
def execPmeL2Handshake (s : State) : Out3 :=
  if !s.domOn 8 then ok s
  else
    let was := s.flag R.HST.LINK.UP
    let s := s.emit .pmeToAck
    let s := s.setFlds [(R.HST.LINK.STATE, 4), (R.HST.LINK.UP, 0)]
    let s := if was then s.setFld R.HST.LINK.LINK_EV 1 else s
    match s.pwr.pmeArmed with
    | some t => ok (beginEntry s t)
    | none => ok s

/-- PME_L2_TIMEOUT (R216): the armed entry is dropped. -/
def execPmeL2Timeout (s : State) : Out3 := ok (s.setPwr fun p => { p with pmeArmed := none })

/-! ### DOZE (R72) -/

/-- A frame for the Compositor in DOZE: 32 frames of up to 1522 bytes wait, each with its time in every PTI. That the 1522 count
the FCS, and that a longer frame is dropped as one that finds the buffer full is, are the model's choices (log 87). -/
def dozeKeep (s : State) (port : Nat) (b : List Byte) : State :=
  if 32 ≤ s.pwr.dozeBuf.length ∨ 1518 < b.length then netCount s port 5
  else s.setPwr fun p => { p with dozeBuf := p.dozeBuf ++ [⟨port, b, s.ptis.map Pti.time⟩] }

/-- DOZE_FRAME_RX (R72): a frame on the DOZE port or MGMT. One that matches the key of an enabled receive flow is a DOZE drop
and starts WAKING; control traffic is buffered. -/
def execDozeFrameRx (port : Nat) (raw : List Byte) (good : Bool) (s : State) : Out3 :=
  if s.pstate ≠ 1 ∨ !(port = 2 ∨ port + 1 = s.fld R.PWR.CTRL.DOZE_PORT) ∨ !linkUp s port then ok s
  else
    let b := raw.take (raw.length - 4)
    let h := parseFrame b
    let s := { s with net := modifyAt s.net port fun c => { c with rxFrames := c.rxFrames + 1, rxBytes := c.rxBytes + raw.length, rxStamp := eventStamp s (decide (port < 2)) } }
    let top := s.fld (R.NET.CFG.MAX_DATA port) + (if h.tagged then 22 else 18)
    if !(good && fromLE (raw.drop (raw.length - 4)) == crc32 b) then ok (netCount s port 0)
    else if raw.length < 64 ∨ top < raw.length then ok (netCount s port 1)
    else if h.etype = 0x8808 then ok (netCount s port 4)
    else if !macAccepts s port b then ok s
    else if h.ckBad then ok (netCount s port 2)
    else
      match (classify s port h).1 with
      | none => ok (if isControl s port b h then dozeKeep s port b else netCount s port 3)
      | some i =>
        let w0 := (s.key i 0).toNat
        let act := bits w0 10 2
        if act = 2 then ok (s.count R.RXF.CLS_DROP.COUNT)
        else if act = 1 then ok (dozeKeep s port b)
        else
          let s := netCount s port 5
          ok (if s.flag (R.RXF.F_CFG.EN (bits w0 0 8)) && s.flag R.PWR.CTRL.WOS_EN then wakeDoze s 0x20 else s)

/-! ### Adaptive voltage (R78 to R80) -/

/-- AVS_STEP (R78, R80): the slack measured, in percent of the cycle, and whether it has stayed above MARGIN plus 2 for 1 ms. -/
def execAvsStep (slack : Nat) (ample : Bool) (s : State) : Out3 :=
  if !s.flag R.PWR.AVS.EN ∨ 1 < s.pstate then ok s
  else
    let now := s.fld R.PWR.AVS.VID_NOW
    let top := s.fld R.PWR.AVS.VID_MAX
    let low := s.fld R.PWR.AVS.VID_MIN
    let margin := s.fld R.PWR.AVS.MARGIN
    let short := decide (slack < margin)
    let stuck := short && decide (top ≤ now)
    let next := if short then min top (now + 1) else if ample && decide (margin + 2 < slack) then max low (now - 1) else now
    let s := (s.avsHold next).setPwr fun p => { p with avsShort := stuck }
    ok (if stuck then s.setFld R.PWR.FAULT.AVS_LIMIT 1 else s)

end Sys2Proof.Machine
end

