-- ==== Sys2Proof/Machine/CtlPort.lean ====
section
/-! DEFINITION. The control port with native framing (R367 to R371): SPI and I2C frames. -/

namespace Sys2Proof.Machine

/-- Whether the port serves native frames (R371): not before the boot ROM runs, not asleep or waking, and not where CTL carries
DX framing. -/
def ctlServes (s : State) : Bool :=
  s.domOn 1 && !s.pwr.starting && (s.flag R.CLK.PLL_STAT.SYS_LOCK || s.flag R.CLK.PLL_STAT.CORE_SLOW) &&
    !(s.pstate == 2 || s.pstate == 3 || s.pstate == 10) && !s.dxPresent

/-- Why a frame's status byte has its error bits (R369). -/
structure CtlFlags where
  viol : Bool
  off  : Bool
  late : Bool
  err  : Bool
  deriving DecidableEq, Repr

/-- A frame with nothing wrong. -/
def ctlClean : CtlFlags := ⟨false, false, false, false⟩

/-- The status byte (R369): the errors of the last frame that was no poll, what its posted writes have met since then too,
and the port's present state. -/
def ctlStatus (s : State) : Nat :=
  128 + (s.fld R.HST.CTL_STAT.STATUS / 8 % 16 ||| b2n (s.side 1).viol * 8 ||| b2n (s.side 1).missed * 4) * 8 + b2n (irqCond s false) * 4 +
    b2n (s.fld R.MBX.RSP_DB_SET.SLOT &&& s.fld R.MBX.SLOT_OWN.CTL != 0) * 2

/-- A frame that is no poll begins: nothing has gone wrong in it yet. -/
def ctlBegin (s : State) : State := s.setSide 1 fun b => { b with viol := false, missed := false }

/-- The end of a frame: its errors are kept for the next status byte, and counted (R369, R373). -/
def ctlEnd (s : State) (f : CtlFlags) : State :=
  let f := { f with viol := f.viol || (s.side 1).viol, off := f.off || (s.side 1).missed }
  let s := ctlBegin s
  let s := s.setFld R.HST.CTL_STAT.STATUS (b2n f.viol * 64 + b2n f.off * 32 + b2n f.late * 16 + b2n f.err * 8)
  let s := s.setFld R.HST.CTL_STAT.STATUS (ctlStatus s)
  let s := if f.err then s.setFld R.HST.CTL_STAT.FRAME_ERR_EV 1 else s
  let s := if f.late then s.setFld R.HST.CTL_STAT.LATE_EV 1 else s
  let s := s.countSat R.HST.CTL_FRAMES.COUNT R.HST.SAT.CTL 0
  if f.err || f.late then s.countSat R.HST.CTL_ERRS.COUNT R.HST.SAT.CTL 1 else s

/-- A poll is a frame served too. -/
def ctlPolled (s : State) : State := s.countSat R.HST.CTL_FRAMES.COUNT R.HST.SAT.CTL 0

/-- A read that waits on a slow transfer ends with it: the port stretches or its dummy bytes cover the wait (R368, R370). -/
def ctlSettle (s : State) : State :=
  match (s.side 1).stalled with
  | none => s
  | some (k, _) =>
    nextOr s (if 3 ≤ k ∧ k < 7 then execWideSnapshotReady 1 s else execIndirTransferDone 1 s)

/-- One word read. -/
def ctlReadWord (s : State) (a : Nat) : State × Word :=
  let t := ctlSettle (busAcc s 1 (.read a))
  (t, (t.side 1).data)

/-- The words of a read, `late` naming those not ready in time, which are sent as 0. -/
def ctlReads (late : List Nat) (a step : Nat) : Nat → Nat → State → State × List Word × CtlFlags → State × List Word × CtlFlags
  | 0, _, _, acc => acc
  | n + 1, i, _, (s, ws, f) =>
    let (t, w) := ctlReadWord s (a + step * i)
    let l := late.contains i
    ctlReads late a step n (i + 1) t (t, ws ++ [if l then 0 else w], { f with late := f.late || l })

/-- The words of a write, in consecutive cycles (R367). -/
def ctlWrites (a step : Nat) : Nat → List Word → State → State
  | _, [], s => s
  | i, v :: vs, s => ctlWrites a step (i + 1) vs (ctlSettle (busAcc s 1 (.write (a + step * i) v)))

/-- Whole big-endian words at the start of some bytes. -/
def wordsBE : Nat → List Byte → List Word
  | 0, _ => []
  | n + 1, b => if b.length < 4 then [] else BitVec.ofNat 32 (fromBE (b.take 4)) :: wordsBE n (b.drop 4)

/-- A write frame's data: whole words up to N; a partial word, or bytes beyond N, are discarded as malformed. In DOZE a frame
that sets a bit of MBX.REQ_DB_SET starts WAKING (R72, R371). -/
def ctlWriteFrame (s : State) (n a step : Nat) (data : List Byte) : State :=
  if a % 4 ≠ 0 then ctlEnd s { ctlClean with err := true }
  else
    let ws := wordsBE n data
    let t := ctlEnd (ctlWrites a step 0 ws (ctlSettle s)) { ctlClean with err := decide (data.length ≠ 4 * ws.length) }
    let rose := t.fld R.MBX.REQ_DB_SET.SLOT &&& (65535 - s.fld R.MBX.REQ_DB_SET.SLOT % 65536)
    if t.pstate = 1 ∧ rose ≠ 0 then wakeDoze t 0x21 else t

/-- A read frame of `k` words' worth of data bytes sent: the words any byte of which was sent are read, up to N; bytes beyond
N read 0. -/
def ctlReadFrame (s : State) (late : List Nat) (n a step sent : Nat) : State × List Byte :=
  if a % 4 ≠ 0 then (ctlEnd s { ctlClean with err := true }, List.replicate sent 0)
  else
    let k := min n ((sent + 3) / 4)
    let (t, ws, f) := ctlReads late a step k 0 s (ctlSettle s, [], { ctlClean with err := decide (4 * n < sent) })
    let bytes := ws.flatMap fun w => beBytes 4 w.toNat
    (ctlEnd t f, (bytes ++ List.replicate (sent - bytes.length) 0).take sent)

/-- Dummy bytes of an SPI read (R373); the retained setting holds while PD_HOST is off. -/
def ctlDummy (s : State) : Nat :=
  let d := R.HST.CTL_CFG.DUMMY.of (keptWord s R.HST.CTL_CFG.reg)
  if d = 0 then 8 else d

/-- CTL_SPI_FRAME (R367 to R369, R371): the bytes on CTL_MOSI between a fall and a rise of CTL_CS_N, and the words of a read
that were not ready in time. A frame within its command byte is a poll; one that ends in its address is malformed. -/
def execCtlSpiFrame (mosi : List Byte) (late : List Nat) (s : State) : Out3 :=
  if s.flag R.SYS.STRAPS.CTL_SEL ∨ !ctlServes s then ok (if mosi.isEmpty then s else s.emit .ctlHighZ)
  else
    let st := BitVec.ofNat 8 (ctlStatus s)
    if mosi.isEmpty then ok s
    else if mosi.length = 1 then ok ((ctlPolled s).emit (.ctlTx [st]))
    else if mosi.length < 5 then
      ok ((ctlEnd (ctlBegin s) { ctlClean with err := true }).emit (.ctlTx (st :: List.replicate (mosi.length - 1) 0)))
    else
      let cmd := u8 mosi 0
      let n := cmd % 64 + 1
      let step := if nbit cmd 7 then 0 else 4
      let a := be32 mosi 1
      if nbit cmd 6 then ok ((ctlWriteFrame (ctlBegin s) n a step (mosi.drop 5)).emit (.ctlTx (st :: List.replicate (mosi.length - 1) 0)))
      else
        let lead := 4 + min (ctlDummy s) (mosi.length - 5)
        let (t, bytes) := ctlReadFrame (ctlBegin s) late n a step (mosi.length - 1 - lead)
        ok (t.emit (.ctlTx (st :: List.replicate lead 0 ++ bytes)))

/-- CTL_I2C_FRAME (R370, R371): the 7-bit target address, the bytes written after it, and how many bytes were read after a
repeated start, the status byte first. With nothing written the frame is a poll. -/
def execCtlI2cFrame (target : Nat) (sent : List Byte) (read : Option Nat) (s : State) : Out3 :=
  if !s.flag R.SYS.STRAPS.CTL_SEL ∨ !ctlServes s ∨ target ≠ 0x50 + s.fld R.SYS.STRAPS.STACK_POS then ok s
  else
    let st := BitVec.ofNat 8 (ctlStatus s)
    if sent.isEmpty then
      match read with
      | none => ok s
      | some 0 => ok s
      | some (n + 1) => ok ((ctlPolled s).emit (.ctlTx (st :: List.replicate n 0)))
    else if sent.length < 5 then
      ok ((ctlEnd (ctlBegin s) { ctlClean with err := true }).emit (.ctlTx (if read.isSome then [st] else [])))
    else
      let cmd := u8 sent 0
      let n := cmd % 64 + 1
      let step := if nbit cmd 7 then 0 else 4
      let a := be32 sent 1
      if nbit cmd 6 then
        ok ((ctlWriteFrame (ctlBegin s) n a step (sent.drop 5)).emit (.ctlTx (if read.isSome then [st] else [])))
      else
        match read with
        | none => ok (ctlEnd (ctlBegin s) { ctlClean with err := decide (a % 4 ≠ 0) })
        | some k =>
          let (t, bytes) := ctlReadFrame (ctlBegin s) [] n a step (k - 1)
          ok (t.emit (.ctlTx ((st :: bytes).take k)))

end Sys2Proof.Machine
end

