-- ==== Sys2Proof/Machine/Synzo.lean ====
section
/-! DEFINITION. Frames and links of the stack as they arrive (R377 to R380, R386, R389, R390, R403). -/

namespace Sys2Proof.Machine

/-- A device that becomes QUARANTINED gives up the apply it is in (R218, R397). -/
def quarantineDrop (old s : State) : State :=
  if stkState old ≠ 7 ∧ stkState s = 7 then abortApply s stWrongPhase else s

/-- STK_LINK_TRAINED (R379, R386, R440, R441): link `l` has trained against port `port` of a device at `pos`; `inv0`, `inv1` and
`swapped` are what the training found of its lanes. -/
def execStkLinkTrained (l port pos serial major minor role gen : Nat) (inv0 inv1 swapped : Bool) (s : State) : Out3 :=
  if 2 ≤ l ∨ !s.flag R.STK.CFG.EN ∨ !s.domOn 7 then ok s
  else
    let t := lanePolarity (lanePolarity s (2 + 2 * l) inv0) (3 + 2 * l) inv1
    let t := laneMiswire (laneSwap t l swapped) l (port == l)
    ok (follow s (quarantineDrop s (stkTrained t l port (pos % 8) serial major minor role gen)))

/-- A checkpoint item whose fragments came by a link that is lost is rewound (R397). -/
def ckptCut (s : State) (l : Nat) : State :=
  if s.fld R.TWIN.CFG.LINK = l ∧ ((s.gq 951).opened.isSome ∨ (s.gq 951).swallow = true) then
    let s := if (s.gq 951).opened.isSome then galRewind s 951 else s
    galRefresh (s.setGq 951 { s.gq 951 with swallow := false })
  else s

/-- STK_LINK_DOWN (R380, R397, R402). -/
def execStkLinkDown (l : Nat) (s : State) : Out3 :=
  if 2 ≤ l then ok s
  else ok (follow s (laneMiswire (twinLinkDown (ckptCut (stkLinkDown s l) l) l) l false))

/-- A member's edit reaches the master (R390, R397): taken against the generation the member checked, refused where its diff
would pass 16 KiB, else lost. -/
def editRx (s : State) (src gen : Nat) (item : List Byte) : State :=
  if stkState s ≠ 5 then s
  else if liveGen s ≠ gen then stkTell s .editLost
  else
    let op := u16 item 16
    let add := item.drop 20
    let pos := src % 8
    let r := sGet (fun _ => (⟨0, 0, 0, []⟩ : StackRec)) s.fw.work.members pos
    if 16384 < r.diff.length + add.length then stkTell s .editFull
    else
      let ms := sPut (fun _ => (⟨0, 0, 0, []⟩ : StackRec)) s.fw.work.members pos { r with diff := r.diff ++ add }
      let s := { s with fw := { s.fw with work := { s.fw.work with members := ms } } }
      let s := raiseGen s op 3
      stkTell s (.editTaken (liveGen s))

/-- The master's answer to the edit a member sent (R390). -/
def editAnswer (s : State) (st : Nat) (gen : Option Nat) : State :=
  match s.fw.edit, gen with
  | some (ch, tag, _), some g =>
    { s with fw := { s.fw with edit := some (ch, tag, true) }, stk := { s.stk with mgen := g } }
  | some (ch, tag, _), none => endCmd { s with fw := { s.fw with edit := none } } ch tag st []
  | none, some g => { s with stk := { s.stk with mgen := g } }
  | none, none => s

/-- A hop of the ring is broken or whole (R380). -/
def hopRx (s : State) (p : Nat) (broken : Bool) : State :=
  if broken then
    let s := if s.stk.ring then s.setFld R.STK.STAT.REROUTE_EV 1 else s
    { s with stk := { s.stk with breaks := insertNat p s.stk.breaks } }
  else { s with stk := { s.stk with breaks := s.stk.breaks.filter (· != p) } }

/-- A member's base reaches the master (R389, R390; log 114): the stored forme it boots from, with an empty diff. -/
def storedRx (s : State) (src slot gen crc : Nat) : State :=
  if stkState s ≠ 5 then s
  else
    { s with fw := { s.fw with work := { s.fw.work with
        members := sPut (fun _ => (⟨0, 0, 0, []⟩ : StackRec)) s.fw.work.members (src % 8) ⟨slot, gen, crc, []⟩ } } }

/-- A member's state reaches the master (R385). -/
def memberRx (s : State) (p st reason : Nat) : State :=
  let s := { s with stk := { s.stk with
    devs := s.stk.devs.map fun d => if d.pos == p then { d with state := st, reason := reason } else d } }
  if stkState s = 5 then stkRefresh (s.event 0xE0A0 [byteOf p, byteOf st, byteOf reason]) else s

/-- Credit granted for a class lets its frames go (R378). -/
def creditRx (s : State) (l cls n : Nat) : State :=
  let x := s.slink l
  stkPump (s.setSlink l { x with credit := modifyAt x.credit (cls - 1) (· + n) })

/-- What a frame tells the device (R377 to R407; log 21). -/
def stkMsgRx (s : State) (l src flags : Nat) (item : List Byte) (msg : StkMsg) : State :=
  match msg with
  | .none => s
  | .time offs delay steps gen =>
    if timeLink s = some l ∨ stkState s < 2 ∨ stkState s = 6 then stkTimeRx s l offs delay steps gen
    else s.setFld (R.STK.DELAY.HALF_NS l) delay
  | .heartbeat role st gen seq => if s.fld R.TWIN.CFG.LINK = l then heartbeatRx s role st gen seq else s
  | .audio agree => siAccept s src flags item agree
  | .credit cls n => creditRx s l cls n
  | .lost cls seq => stkResend s l cls seq
  | .device pos serial major minor role gen => quarantineDrop s (stkKnow s l pos serial major minor role gen)
  | .memberState p st reason => memberRx s p st reason
  | .ring present => { s with stk := { s.stk with ring := present } }
  | .hop p broken => hopRx s p broken
  | .edit gen => editRx s src gen item
  | .editTaken gen => editAnswer s stOk (some gen)
  | .editLost => editAnswer s stGenMis none
  | .editFull => editAnswer s stNoMem none
  | .stored slot gen crc => storedRx s src slot gen crc
  | .newGen gen => { s with stk := { s.stk with mgen := gen } }
  | .sleep st => if (s.pstate = 0 ∧ 1 ≤ st ∧ st ≤ 3) ∨ (s.pstate = 1 ∧ 2 ≤ st ∧ st ≤ 3) then beginEntry s st else s
  | .handover n => handoverRx s n

/-- Words of an item that goes on (R274). -/
def galMore (q : Nat) : Nat → List Byte → State → State
  | 0, _, s => s
  | n + 1, bs, s => if bs.isEmpty then s else galMore q n (bs.drop 8) (galWord s q (bs.take 8) false)

/-- A CHECKPOINT fragment (R377, R403): appended to the open item of Q951, which is committed at its last fragment where the
item's CRC matches, and rewound otherwise. After a rewind the rest of the item is passed over. -/
def ckptRx (s : State) (flags : Nat) (item : List Byte) (good : Bool) : State :=
  let q := 951
  let last := nbit flags 1
  let x := s.gq q
  if x.swallow then (if last then galRefresh (swallowEnd s q) else s)
  else if !good || nbit flags 0 then
    let s := if x.opened.isSome then galRewind s q else s
    let s := if last then s else s.setGq q { s.gq q with swallow := true }
    ckptFail (galRefresh s)
  else
    let first := x.opened.isNone
    let s := if first then galOpen s q 3 none (u16 item 4) (u32 item 8) else s
    let s := galMore q (item.length / 8 + 1) (if first then item else item.drop 16) s
    if !last then galRefresh s
    else
      match (s.gq q).opened with
      | none => galRefresh (if (s.gq q).swallow then swallowEnd s q else s)
      | some it =>
        let b := it.bytes.drop 16
        if 4 ≤ b.length ∧ crc32c (b.take (b.length - 4)) = u32 b (b.length - 4) then
          galRefresh (galCommit (s.setGq q { s.gq q with opened := none, elems := (s.gq q).elems ++ [.item it] }) q)
        else ckptFail (galRefresh (galRewind s q))

/-- A frame for this device is stored in the inbound queue of its class (R380, R392). -/
def stkStore (s : State) (cls src flags : Nat) (item : List Byte) : State :=
  if cls = 4 then ckptRx s flags item true
  else
    match inQueue cls src with
    | some q =>
      galRefresh (galCommit (galPut s q (u32 item 0 / 2 ^ 28) true (u16 item 4) (u32 item 8) item) q)
    | none => s

/-- SYNZO_FRAME_RX (R377 to R380): a frame on link `l`, with its header fields, the item it carries after its descriptor,
whether its CRC matched, and what it tells the device. CTRL and CHECKPOINT frames are taken in their order (R378). -/
def execSynzoFrameRx (l cls dest src flags seq : Nat) (item : List Byte) (good : Bool) (msg : StkMsg) (s : State) : Out3 :=
  if 2 ≤ l ∨ !stkUp s l ∨ !s.domOn 7 then ok s
  else if !good then
    let s1 := if cls = 4 ∧ nbit dest (stkPos s) = true then ckptRx s flags item false else s
    ok (follow s (stkCrcFail s1 l cls))
  else if 5 ≤ cls then ok s
  else if 3 ≤ cls ∧ seq ≠ (s.slink l).rseq.getD cls 0 then
    let x := s.slink l
    ok (stkDisorder (s.setSlink l { x with rxN := x.rxN + 1, rxStamp := eventStamp s true }) l cls seq)
  else
    let x := s.slink l
    let s1 := s.setSlink l { x with
      rxN := x.rxN + 1
      rxStamp := eventStamp s true
      tries := match msg with
        | .lost _ _ => x.tries
        | _ => if 3 ≤ cls then 0 else x.tries }
    let s1 := if cls < 3 then s1 else stkTaken s1 l cls
    let s1 := stkForward s1 l cls dest src flags item
    if cls = 0 then ok (follow s (stkMsgRx s1 l src flags item msg))
    else if nbit dest (stkPos s) then
      ok (follow s (stkMsgRx (if cls = 1 then s1 else stkStore s1 cls src flags item) l src flags item msg))
    else ok (follow s s1)

end Sys2Proof.Machine
end

