-- ==== Sys2Proof/Machine/CmdSys.lean ====
section
/-! DEFINITION. The commands SYS, PWR and FRM (R208 to R218), and the ends of accepted commands (R198, R212). -/

namespace Sys2Proof.Machine

/-! ### Registers written by firmware -/

/-- Whether a register would take a whole image: it ignores neither the write nor a field of it (R489). -/
def fwTakes (s : State) (key : Nat) (v : Word) : Bool :=
  let off := key % 0x1000000
  let item := key / 0x1000000
  (wholeBad s off item v).isNone &&
    (match regFind off with
     | some (r, _) => (r.mask fun f => (f.acc == .rw || f.acc == .sh) &&
         !fieldTakes s off item f.lo (bits v.toNat f.lo (f.hi - f.lo + 1)) v) == 0
     | none => false)

/-- Firmware writes a register that it may write: the active value, or the shadow where it has one. -/
def fwWrite (s : State) (key : Nat) (v : Word) : State := (regPut s 2 (key % 0x1000000) (key / 0x1000000) v).1

/-- Firmware writes several registers, first to last. -/
def fwWrites (s : State) : List (Nat × Word) → State
  | [] => s
  | p :: ps => fwWrites (fwWrite s p.1 p.2) ps

/-- A payload's u32 as a register image. -/
def image32 (p : List Byte) (i : Nat) : Word := BitVec.ofNat 32 (u32 p i)

/-- A register as firmware reads it, little-endian. -/
def regBytes (s : State) (off : Nat) : List Byte := leBytes 4 (regWord s 2 off).toNat

/-- A command that locks nothing. -/
def lockNone (_ : State) (_ : List Byte) : Bool := false

/-- A command that writes one block. -/
def lockBlock (b : Nat) (s : State) (_ : List Byte) : Bool := blockLocked s b

/-- A DX-owned TDM port or flow that a native command names (R211, R447; log 40). -/
def dxPort (s : State) (p : Nat) : Bool := coDx s && decide (p < 2)
def dxFlow (s : State) (f : Nat) : Bool := coDx s && decide (f < 8)

/-! ### SYS (R214) -/

/-- SYS.INFO's result. -/
def sysInfo (s : State) : List Byte :=
  regBytes s R.COLO.PART.reg ++ regBytes s R.COLO.REV.reg ++ regBytes s R.COLO.FW.reg ++ regBytes s R.COLO.STKPROTO.reg ++
    leBytes 8 s.flash.serial ++ leBytes 4 (liveGen s) ++
    [byteOf s.phase, byteOf s.pers, byteOf (stkPos s), byteOf (s.fld R.FRM.BOOT.USED)] ++
    regBytes s R.REGIF.HOST_OWN0.reg ++ regBytes s R.REGIF.HOST_OWN1.reg

/-- SYS_INFO (R214). -/
def execSysInfo (ch tag : Nat) (s : State) : Out3 :=
  runCmd 0x0100 (· == 0) lockNone (fun s _ => (stOk, sysInfo s, s)) ch tag s

/-- The blocks a claim or a release names, in quoin order. -/
def namedBlocks (p : List Byte) : List Nat :=
  (List.range 48).filter fun b => if b < 32 then nbit (u32 p 0) b else nbit (u32 p 4) (b - 32)

/-- The ownership registers' words, as a result. -/
def ownBytes (s : State) : List Byte := regBytes s R.REGIF.HOST_OWN0.reg ++ regBytes s R.REGIF.HOST_OWN1.reg

/-- Set or clear a block's ownership bit. -/
def setOwn (s : State) (host : Bool) (b : Nat) : State :=
  if b < 32 then s.setFld R.REGIF.HOST_OWN0.OWN (setBit (s.fld R.REGIF.HOST_OWN0.OWN) b host)
  else s.setFld R.REGIF.HOST_OWN1.OWN (setBit (s.fld R.REGIF.HOST_OWN1.OWN) (b - 32) host)

/-- The blocks that accepted commands still write (R214). -/
def busyBlocks (s : State) : List Nat :=
  let apply := match s.fw.apply with
    | some a => bIMP :: ((regDiff a.prev a.target).filterMap fun k => quoinOf (k % 0x1000000)) ++
        (if (keyDiff a.prev a.target).isEmpty then [] else [bRXF])
    | none => []
  apply ++ (s.mbx.cmds.filter fun c => c.phase == .accepted).flatMap fun c =>
    if c.opcode = 0x0602 then
      ((List.range 16).filter fun p => nbit (u16 c.payload 0) p || nbit (u16 c.payload 2) p).map (32 + ·)
    else if c.opcode = 0x0700 then [bIMP]
    else if c.opcode = 0x0902 then [bRXF]
    else if c.opcode = 0x0B00 then [bRXF, bGAL, bRED]
    else if c.opcode = 0x1003 then [bGAL]
    else []

/-- A claim that a service of R183, a command in progress or DX forbids (R214, R463). -/
def claimLocked (s : State) (p : List Byte) : Bool :=
  let bs := namedBlocks p
  (bs.contains bTIME && [0, 1, 2, 3].any fun n => s.flag (R.TIME.PTI_CFG.EN n)) ||
    (bs.contains bSTK && s.flag R.STK.CFG.EN) || (bs.contains bTWIN && s.fld R.TWIN.CFG.ROLE != 0) ||
    (coDx s && (bs.contains bCLK || bs.contains 32 || bs.contains 33)) || bs.any (busyBlocks s).contains

/-- Bits of a claim that name no block a host may own (R214). -/
def claimBad (p : List Byte) : Bool := u32 p 0 &&& 0xFFFE0001 != 0 || decide (65536 ≤ u32 p 4)

/-- SYS.CLAIM's body (R182, R214). -/
def sysClaimBody (s : State) (p : List Byte) : CmdOut :=
  if claimBad p || (namedBlocks p).any (hostOwns s) then refuse s stBadArg
  else if s.phase ≠ 1 ∧ s.phase ≠ 2 then refuse s stWrongPhase
  else
    let t := (namedBlocks p).foldl (fun s b => setOwn s true b) s
    (stOk, ownBytes t, t)

/-- SYS_CLAIM (R182, R183, R214). -/
def execSysClaim (ch tag : Nat) (s : State) : Out3 := runCmd 0x0101 (· == 8) claimLocked sysClaimBody ch tag s

/-- The working forme takes a block's active values (R182). -/
def recordBlock (s : State) (b : Nat) : State :=
  let w := s.fw.work
  let regs := ((listedKeys s).filter fun k => quoinOf (k % 0x1000000) == some b).foldl
    (fun m k => sPut formeDefault m k (s.rd k &&& formeMask k)) (w.regs.filter fun p => quoinOf (p.1 % 0x1000000) != some b)
  let imps := if b = bIMP then
      (impListed s).foldl (fun m d => sPut formeImpDefault m d (s.imp d).cur.word) []
    else w.imps
  { s with fw := { s.fw with work := { w with
      regs := regs, imps := imps, keys := if b = bRXF then s.cls else w.keys } } }

/-- SYS.RELEASE's body (R182, R214). -/
def sysReleaseBody (s : State) (p : List Byte) : CmdOut :=
  if claimBad p || (namedBlocks p).any (fun b => !hostOwns s b) then refuse s stBadArg
  else
    let t := (namedBlocks p).foldl (fun s b => setOwn (recordBlock s b) false b) s
    (stOk, ownBytes t, t)

/-- SYS_RELEASE (R182, R213, R214). -/
def execSysRelease (ch tag : Nat) (s : State) : Out3 := runCmd 0x0102 (· == 8) lockNone sysReleaseBody ch tag s

/-- SYS.RESET's body (R214): kind 0 resets the device after the response (R50), kind 1 restarts the Compositor (R204). -/
def sysResetBody (s : State) (p : List Byte) : CmdOut :=
  if !reservedZero p [0, 4, 5, 6, 7] ∨ 1 < u8 p 0 ∨ u32 p 4 ≠ 0xA55A then refuse s stBadArg
  else if u8 p 0 = 0 then (stOk, [], s.setPwr fun q => { q with resetDue := true })
  else (stOk, [], mcuRestart s 2)

/-- SYS_RESET (R214). -/
def execSysReset (ch tag : Nat) (s : State) : Out3 := runCmd 0x0103 (· == 8) lockNone sysResetBody ch tag s

/-- The inactive image slot (R201). -/
def idleImage (s : State) : Nat := 1 - s.flash.active % 2

/-- SYS.IMAGE_BEGIN's body: the slot is erased by the time it ends. -/
def sysImageBeginBody (s : State) (p : List Byte) : CmdOut :=
  if 256 + 786432 < u32 p 0 then refuse s stBadArg
  else if s.flag R.MBX.BOOT_INFO.TRIAL then refuse s stWrongPhase
  else (stOk, [], { s with fw := { s.fw with image := none } })

/-- SYS_IMAGE_BEGIN (R214). -/
def execSysImageBegin (ch tag : Nat) (s : State) : Out3 := runAccepted 0x0104 (· == 4) lockNone sysImageBeginBody ch tag s

/-- The size of a flash image slot (R199). -/
def imageSlot : Nat := 0x180000

/-- SYS.IMAGE_WRITE's body: nothing is written past the slot (R199; log 110). -/
def sysImageWriteBody (s : State) (p : List Byte) : CmdOut :=
  match s.fw.image with
  | none => refuse s stWrongPhase
  | some (n, b) =>
    if u32 p 0 ≠ b.length ∨ imageSlot < b.length + (p.drop 4).length then refuse s stBadArg
    else
      let b := b ++ p.drop 4
      (stOk, [], { s with
        fw := { s.fw with image := some (n, b) }
        flash := { s.flash with images := modifyAt s.flash.images (idleImage s) (fun _ => b) } })

/-- SYS_IMAGE_WRITE (R214). -/
def execSysImageWrite (ch tag : Nat) (s : State) : Out3 :=
  runCmd 0x0105 (fun n => decide (4 ≤ n) && decide (n ≤ 4100)) lockNone sysImageWriteBody ch tag s

/-- SYS.IMAGE_END's body: the image is verified by the time it ends. -/
def sysImageEndBody (s : State) (_ : List Byte) : CmdOut :=
  if s.fw.image.isNone then refuse s stWrongPhase else (stOk, [], s)

/-- SYS_IMAGE_END (R214). -/
def execSysImageEnd (ch tag : Nat) (s : State) : Out3 := runAccepted 0x0106 (· == 0) lockNone sysImageEndBody ch tag s

/-- SYS.COMMIT's body. -/
def sysCommitBody (s : State) (_ : List Byte) : CmdOut :=
  if s.phase ≠ 1 ∨ !s.flag R.MBX.BOOT_INFO.TRIAL then refuse s stWrongPhase else (stOk, [], s)

/-- SYS_COMMIT (R201, R214). -/
def execSysCommit (ch tag : Nat) (s : State) : Out3 := runAccepted 0x0107 (· == 0) lockNone sysCommitBody ch tag s

/-- SYS.RECOVER's body. -/
def sysRecoverBody (s : State) (p : List Byte) : CmdOut :=
  if u32 p 0 ≠ 0xA55A then refuse s stBadArg
  else (stOk, [], if s.phase = 3 then s else s.enterRecovery 5)

/-- SYS_RECOVER (R143, R214). -/
def execSysRecover (ch tag : Nat) (s : State) : Out3 := runCmd 0x0108 (· == 4) lockNone sysRecoverBody ch tag s

/-! ### PWR (R215, R216) -/

/-- The PCIe link is in L2 or unused (R63): L2, down, held in PERST, or its domain off. -/
def linkParked (s : State) : Bool := !s.domOn 8 || [0, 4, 5].contains (s.fld R.HST.LINK.STATE)

/-- Every condition of R63, R215 and R463 but that of the link. -/
def entryAllowed (s : State) (target : Nat) (wide : Bool) : Bool :=
  (s.pstate == 0 || (s.pstate == 1 && target != 1)) &&
    (List.range 16).all (fun p => dirStopped s p false && dirStopped s p true) &&
    (List.range 256).all (fun f => s.fld (R.TXF.F_STAT.STATE f) != 2) &&
    (if wide then stkState s == 5 else !s.flag R.STK.CFG.EN) &&
    !(s.mbx.cmds.any fun c => c.phase == .accepted) && !(coDx s && nbit (s.dxCell 0x010) 0)

/-- PWR.ENTER's body (R63, R65, R216): over CTL every condition is judged at once; over PCIe a link that is still up arms
the entry for the handshake that follows. -/
def pwrEnterBody (ch : Nat) (s : State) (p : List Byte) : CmdOut :=
  let t := u8 p 0
  let wide := u8 p 1 == 1
  if t = 0 ∨ 3 < t ∨ 1 < u8 p 1 ∨ (t = 2 ∧ s.fld R.PWR.CTRL.RET_HALF = 0) then refuse s stBadArg
  else if !entryAllowed s t wide ∨ (ch = 1 ∧ linkParked s = false) then refuse s stWrongPhase
  else if t ≠ 1 ∧ !s.flag R.PWR.STATE.XTAL_OK then refuse s stNoRes
  else if linkParked s then (stOk, [], beginEntry s t)
  else (stOk, [], s.setPwr fun q => { q with pmeArmed := some t })

/-- PWR_ENTER (R215, R216). -/
def execPwrEnter (ch tag : Nat) (s : State) : Out3 := runCmd 0x0200 (· == 2) lockNone (pwrEnterBody ch) ch tag s

/-- PWR_STATUS (R215). -/
def execPwrStatus (ch tag : Nat) (s : State) : Out3 :=
  runCmd 0x0201 (· == 0) lockNone (fun s _ =>
    (stOk, regBytes s R.PWR.STATE.reg ++ regBytes s R.PWR.FAULT.reg ++ regBytes s R.PWR.AVS.reg ++
      [byteOf (s.fld R.PWR.VID_RUN.VID_RUN_F), 0, 0, 0], s)) ch tag s

/-- The registers PWR.CONFIG writes, with their images. -/
def pwrImages (p : List Byte) : List (Nat × Word) :=
  [(R.PWR.CTRL.reg, image32 p 0), (R.PWR.WL_CFG.reg, image32 p 4), (R.PWR.ALARM.reg, image32 p 8),
    (R.PWR.AVS.reg, image32 p 12)]

/-- PWR_CONFIG (R215). -/
def execPwrConfig (ch tag : Nat) (s : State) : Out3 :=
  runCmd 0x0202 (· == 16) (lockBlock bPWR) (fun s p =>
    if (pwrImages p).all fun x => fwTakes s x.1 x.2 then (stOk, [], fwWrites s (pwrImages p)) else refuse s stBadArg) ch tag s

/-! ### FRM (R217, R218) -/

/-- What FRM.INFO says of a stored forme. -/
def formeInfo (s : State) (k : Nat) : List Byte :=
  let b := s.flash.formes.getD k []
  if b.isEmpty then List.replicate 12 0
  else leBytes 4 (u32 b 8) ++ leBytes 4 b.length ++ leBytes 4 (u32 b 16)

/-- FRM_INFO (R217). -/
def execFrmInfo (ch tag : Nat) (s : State) : Out3 :=
  runCmd 0x0300 (· == 0) lockNone (fun s _ =>
    (stOk, leBytes 4 (liveGen s) ++ [byteOf (s.fld R.FRM.BOOT.USED), byteOf (s.flash.bootOv.getD 0xFF), 0, 0] ++
      [0, 1, 2, 3].flatMap (formeInfo s), s)) ch tag s

/-- FRM.READ's body. -/
def frmReadBody (s : State) (p : List Byte) : CmdOut :=
  if !reservedZero p [0, 4, 5, 6, 7, 8, 9] ∨ 1 < u8 p 0 then refuse s stBadArg
  else
    let b := if u8 p 0 = 0 then s.fw.work.image else s.fw.staging
    if b.length < u32 p 4 + u16 p 8 then refuse s stBadArg
    else (stOk, (b.drop (u32 p 4)).take (u16 p 8), s)

/-- FRM_READ (R217). -/
def execFrmRead (ch tag : Nat) (s : State) : Out3 := runCmd 0x0301 (· == 10) lockNone frmReadBody ch tag s

/-- Whether a flash image is present with a CRC that holds (R217). -/
def storedGood (s : State) (k : Nat) : Bool :=
  let b := s.flash.formes.getD k []
  !b.isEmpty && formeVerdict s b != 2 && (k != 4 || s.pwr.sleepSave != 3)

/-- FRM.STAGE_LOAD's body: the source is copied by the time it ends. -/
def stageLoadBody (s : State) (p : List Byte) : CmdOut :=
  if 4 < u8 p 0 ∨ !storedGood s (u8 p 0) then refuse s stBadArg else (stOk, [], s)

/-- FRM_STAGE_LOAD (R217). -/
def execFrmStageLoad (ch tag : Nat) (s : State) : Out3 := runAccepted 0x0302 (· == 1) lockNone stageLoadBody ch tag s

/-- FRM.STAGE_WRITE's body. -/
def stageWriteBody (s : State) (p : List Byte) : CmdOut :=
  let off := u32 p 0
  let old := if off = 0 then [] else s.fw.staging
  let b := old ++ p.drop 4
  if off ≠ old.length ∨ 262144 < b.length then refuse s stBadArg
  else (stOk, leBytes 4 b.length, { s with fw := { s.fw with staging := b } })

/-- FRM_STAGE_WRITE (R217). -/
def execFrmStageWrite (ch tag : Nat) (s : State) : Out3 :=
  runCmd 0x0303 (fun n => decide (4 ≤ n)) lockNone stageWriteBody ch tag s

/-- FRM_STORE (R217): the working forme is in flash by the time it ends. -/
def execFrmStore (ch tag : Nat) (s : State) : Out3 :=
  runAccepted 0x0305 (· == 1) lockNone (fun s p => if 3 < u8 p 0 then refuse s stBadArg else (stOk, [], s)) ch tag s

/-- FRM_SET_BOOT (R217). -/
def execFrmSetBoot (ch tag : Nat) (s : State) : Out3 :=
  runAccepted 0x0306 (· == 1) lockNone
    (fun s p => if 3 < u8 p 0 ∧ u8 p 0 ≠ 0xFF then refuse s stBadArg else (stOk, [], s)) ch tag s

end Sys2Proof.Machine
end

