-- ==== Sys2Proof/Machine/CmdClk.lean ====
section
/-! DEFINITION. The commands CLK, PTP, TDM, RT and KRN (R219 to R222, R243). -/

namespace Sys2Proof.Machine

/-- Insert several fields into a word. -/
def insFlds (w : Word) : List (Fld × Nat) → Word
  | [] => w
  | p :: ps => insFlds (p.1.ins p.2 w) ps

/-- A DX-owned or DX-protected MCS or PTI in NATIVE+DX (R463). -/
def dxMcs (s : State) (n : Nat) : Bool := coDx s && n == s.dx.mcs
def dxPti (s : State) (n : Nat) : Bool := coDx s && n == s.dx.pti

/-! ### CLK (R219) -/

/-- R95 would hold a change of an MCS's CFG back. -/
def mcsHeldBack (s : State) (n : Nat) (v : Word) : Bool :=
  let old := s.rd (R.CLK.MCS_CFG.reg n)
  s.users n != 0 && ((old.getLsbD 31 && !v.getLsbD 31) || (old ^^^ v) &&& 0x1F000000#32 != 0)

/-- CLK.MCS_SET's body. -/
def mcsSetBody (s : State) (p : List Byte) : CmdOut :=
  let n := u8 p 0
  let cfg := image32 p 4
  let loop := image32 p 8
  if !reservedZero p (0 :: span 4 8) ∨ 7 < n ∨ fwTakes s (R.CLK.MCS_CFG.reg n) cfg = false ∨
      fwTakes s (R.CLK.MCS_LOOP.reg n) loop = false then refuse s stBadArg
  else if mcsHeldBack s n cfg then refuse s stWrongPhase
  else (stOk, [], strobe (fwWrites s [(R.CLK.MCS_CFG.reg n, cfg), (R.CLK.MCS_LOOP.reg n, loop)]) 4)

/-- CLK_MCS_SET (R94, R95, R219). -/
def execClkMcsSet (ch tag : Nat) (s : State) : Out3 :=
  runCmd 0x0400 (· == 12) (fun s p => blockLocked s bCLK || dxMcs s (u8 p 0)) mcsSetBody ch tag s

/-- CLK.OUT_SET's body. -/
def outSetBody (s : State) (p : List Byte) : CmdOut :=
  let l := [(R.CLK.WCLK_CFG.reg, image32 p 0), (R.CLK.MCLK_CFG.reg, image32 p 4)]
  if l.all fun x => fwTakes s x.1 x.2 then (stOk, [], strobe (fwWrites s l) 4) else refuse s stBadArg

/-- CLK_OUT_SET (R100, R219). -/
def execClkOutSet (ch tag : Nat) (s : State) : Out3 := runCmd 0x0401 (· == 8) (lockBlock bCLK) outSetBody ch tag s

/-- CLK_MCS_STATUS (R219). -/
def execClkMcsStatus (ch tag : Nat) (s : State) : Out3 :=
  runCmd 0x0402 (· == 1) lockNone (fun s p =>
    let n := u8 p 0
    if 7 < n then refuse s stBadArg
    else (stOk, regBytes s (R.CLK.MCS_STAT.reg n) ++ regBytes s (R.CLK.MCS_PHASE.reg n) ++ regBytes s (R.CLK.MCS_FREQ.reg n) ++
      [0, 0, 0, 0] ++ leBytes 8 (mcsCount s n), s)) ch tag s

/-! ### PTP (R219 to R221) -/

/-- The range of the Sync interval of a profile, in log2 s (R109). -/
def syncOk (profile : Nat) (i : Int) : Bool :=
  let lo : Int := if profile ≤ 2 then -4 else -7
  let hi : Int := if profile = 3 then -1 else 1
  decide (lo ≤ i) && decide (i ≤ hi)

/-- PTP.SET's body: CFG and GUARD through group 3, SERVO at once; a stack member's PTI takes no port (R383). -/
def ptpSetBody (s : State) (p : List Byte) : CmdOut :=
  let n := u8 p 0
  let cfg := image32 p 4
  let l := [(R.TIME.PTI_SERVO.reg n, image32 p 8), (R.TIME.PTI_GUARD.reg n, image32 p 12)]
  if !reservedZero p (0 :: span 4 18) ∨ 3 < n ∨ ptiCfgBad cfg = true ∨ !(l.all fun x => fwTakes s x.1 x.2) ∨
      ptiCfgLimit s n cfg = true ∨ syncOk (bits cfg.toNat 28 3) (toSigned 8 (u8 p 16)) = false ∨ u8 p 19 < 2 ∨ 10 < u8 p 19 then
    refuse s stBadArg
  else if stkMember s = true ∧ bits cfg.toNat 16 3 ≠ 0 then refuse s stWrongPhase
  else
    let s1 := s.setPti n { s.pti n with msg := (span 16 6).map (u8 p) }
    (stOk, [], strobe (fwWrites s1 ((R.TIME.PTI_CFG.reg n, cfg) :: l)) 8)

/-- PTP_SET (R109, R110, R219). -/
def execPtpSet (ch tag : Nat) (s : State) : Out3 :=
  runCmd 0x0500 (· == 24) (fun s p => blockLocked s bTIME || dxPti s (u8 p 0)) ptpSetBody ch tag s

/-- PTP_STATUS (R219): path delays in ns, from 2^-16 ns. -/
def execPtpStatus (ch tag : Nat) (s : State) : Out3 :=
  runCmd 0x0501 (· == 1) lockNone (fun s p =>
    let n := u8 p 0
    if 3 < n then refuse s stBadArg
    else
      let q := s.pti n
      let gm := gmOf s n
      (stOk, regBytes s (R.TIME.PTI_STAT.reg n) ++ regBytes s (R.TIME.PTI_PORT_STATE.reg n) ++
        regBytes s (R.TIME.PTI_OFFSET.reg n) ++ regBytes s (R.TIME.PTI_DISAGREE.reg n) ++ beBytes 8 (gm.getD 0 0) ++
        [byteOf (gm.getD 1 0), 0] ++ leBytes 2 (gm.getD 2 0) ++
        [0, 1, 2].flatMap (fun x => leBytes 4 (ofSigned 32 ((q.port x).delay / 65536))), s)) ch tag s

/-- PTP_GM_QUALITY (R219, R220). -/
def execPtpGmQuality (ch tag : Nat) (s : State) : Out3 :=
  runCmd 0x0502 (· == 6) (fun s p => dxPti s (u8 p 0)) (fun s p =>
    let n := u8 p 0
    if 3 < n then refuse s stBadArg
    else (stOk, [], s.setPti n { s.pti n with quality := [u8 p 1, u8 p 2, u8 p 3, u16 p 4] })) ch tag s

/-- Step a PTI by a number of ns (R105): through PTIn_ADJ where it fits the register. -/
def adjStep (s : State) (n : Nat) (delta : Int) : State :=
  if delta = toSigned 32 (ofSigned 32 delta) then
    strobe (fwWrite s (R.TIME.PTI_ADJ.reg n) (BitVec.ofNat 32 (ofSigned 32 delta))) 8
  else follow s (ptiStep s n (delta * (nsUnit : Int)))

/-- PTP.STEP's body. -/
def ptpStepBody (s : State) (p : List Byte) : CmdOut :=
  let n := u8 p 0
  if !reservedZero p ([0, 1] ++ span 4 10 ++ span 16 4) ∨ 3 < n ∨ 1 < u8 p 1 ∨ (u8 p 1 = 1 ∧ 1000000000 ≤ u32 p 16) then
    refuse s stBadArg
  else if u8 p 1 = 0 then (stOk, [], adjStep s n (toSigned 32 (u32 p 4)))
  else if s.fld (R.TIME.PTI_CFG.ROLE n) ≠ 2 ∨ s.fld (R.TIME.PTI_CFG.GM_SRC n) ≠ 0 then refuse s stWrongPhase
  else (stOk, [], adjStep s n (((u48 p 8 * 1000000000 + u32 p 16 : Nat) : Int) - (ptiNs s n : Int)))

/-- PTP_STEP (R105, R219). -/
def execPtpStep (ch tag : Nat) (s : State) : Out3 :=
  runCmd 0x0503 (· == 20) (fun s p => blockLocked s bTIME || dxPti s (u8 p 0)) ptpStepBody ch tag s

/-- The correction of R221 in 0.5 ns, from the ports' offsets of the last interval in 2^-16 ns. -/
def asymAmount (s : State) (n x : Nat) : Int :=
  let last (y : Nat) : Int := ((s.pti n).port y).offsets.headD 0
  (last x - last (s.fld (R.TIME.PTI_STAT.SEL_PORT n))) / 16384

/-- PTP.ASYM_ADOPT's body. -/
def asymAdoptBody (s : State) (p : List Byte) : CmdOut :=
  let n := u8 p 0
  let x := u8 p 1
  let sus := if x = 0 then R.TIME.PTI_STAT.SUSPECT_NETA n else R.TIME.PTI_STAT.SUSPECT_NETB n
  if 3 < n ∨ 1 < x then refuse s stBadArg
  else if !s.flag sus then refuse s stWrongPhase
  else
    let f := R.TIME.PORT_ASYM.ASYM x
    let v := s.fldInt f + asymAmount s n x
    let s1 := strobe (fwWrite s f.key (f.ins (ofSigned f.w v) (s.rdSh f.key))) 8
    (stOk, leBytes 4 (ofSigned 32 (s1.fldInt f)), s1.setFld sus 0)

/-- PTP_ASYM_ADOPT (R107, R221). -/
def execPtpAsymAdopt (ch tag : Nat) (s : State) : Out3 :=
  runCmd 0x0504 (· == 2) (fun s p => blockLocked s bTIME || dxPti s (u8 p 0)) asymAdoptBody ch tag s

/-! ### TDM (R222, R228, R230, R243) -/

/-- The lowest alignment group without another direction (R243); group 15 is not free in NATIVE+DX. -/
def freeAlign (s : State) (p : Nat) (rx : Bool) : Option Nat :=
  (List.range 16).find? fun g => !(coDx s && g == 15) && (List.range 32).all fun i =>
    i == 2 * p + b2n rx || decide (s.tdmState (i / 2) (i % 2 == 1) < tdmReady) ||
      s.fld (td (R.TDM.TX_FMT.ALIGN (i / 2)) (i % 2 == 1)) != g

/-- The register images of TDM.SET with alignment group `g`; IDLE_HIZ, which the command does not name, stays. -/
def tdmImages (s : State) (p : List Byte) (g : Nat) : List (Nat × Word) :=
  let k := u8 p 0
  let rx := u8 p 1 == 0
  let w (f : Fld) : Word := s.rdSh (td f rx).key
  let fl := u8 p 9
  [((td (R.TDM.TX_FMT.EN k) rx).key, insFlds (w (R.TDM.TX_FMT.EN k)) [(R.TDM.TX_FMT.EN k, 1), (R.TDM.TX_FMT.MASTER k, u8 p 2),
      (R.TDM.TX_FMT.FORMAT k, u8 p 4), (R.TDM.TX_FMT.MCS k, u8 p 3), (R.TDM.TX_FMT.FS_INV k, bits fl 0 1),
      (R.TDM.TX_FMT.LSB_FIRST k, bits fl 1 1), (R.TDM.TX_FMT.EDGE_FALL k, bits fl 4 1), (R.TDM.TX_FMT.COMPACT k, bits fl 2 1),
      (R.TDM.TX_FMT.CONCEAL k, u8 p 16), (R.TDM.TX_FMT.ALIGN k, g)]),
    ((td (R.TDM.TX_FRAME.SLOTS k) rx).key, insFlds 0 [(R.TDM.TX_FRAME.SLOTS k, u8 p 5), (R.TDM.TX_FRAME.WIDTH k, u8 p 6),
      (R.TDM.TX_FRAME.OFFSET k, u8 p 7), (R.TDM.TX_FRAME.FS_WIDTH k, u8 p 8)]),
    ((td (R.TDM.TX_LEAD.LEAD_IN k) rx).key, insFlds 0 [(R.TDM.TX_LEAD.LEAD_OUT k, u8 p 11), (R.TDM.TX_LEAD.LEAD_IN k, u8 p 10)]),
    ((td (R.TDM.TX_MASK.SLOTS k) rx).key, image32 p 12),
    ((td (R.TDM.TX_CTRL.MASK_MUTE k) rx).key, BitVec.ofNat 32 (bits fl 3 1))]

/-- Whether TDM.SET's fields are out of range (R222, R228, R230). -/
def tdmSetBad (s : State) (p : List Byte) : Bool :=
  let fmt := u8 p 4
  let slots := u8 p 5
  let width := u8 p 6
  let len := slots * width
  let rate := s.fld (R.CLK.MCS_CFG.RATE (u8 p 3))
  !reservedZero p (span 0 18) || decide (15 < u8 p 0) || decide (1 < u8 p 1) || decide (1 < u8 p 2) || decide (7 < u8 p 3) ||
    decide (2 < fmt) || decide (slots = 0) || decide (32 < slots) || decide (width < 8) || decide (32 < width) ||
    decide (63 < u8 p 7) || decide (len ≤ u8 p 7) || (decide (fmt ≤ 1) && slots != 2) ||
    (fmt == 2 && (decide (u8 p 8 = 0) || decide (len ≤ u8 p 8))) || bits (u8 p 9) 5 3 != 0 || decide (2 < u8 p 16) ||
    (decide (15 < u8 p 17) && u8 p 17 != 0xFF) ||
    (u8 p 2 == 1 && decide (50000000 < len * rateHz rate)) ||
    decide (slotLimit rate < (activeSlots slots (image32 p 12)).length)

/-- The group TDM.SET gives a direction: the one it names; for 0xFF a running direction keeps its own, and another takes a free one
(R243). -/
def setAlign (s : State) (p : List Byte) (k : Nat) (rx : Bool) : Option Nat :=
  if u8 p 17 ≠ 0xFF then some (u8 p 17)
  else if dirStopped s k rx then freeAlign s k rx
  else some (s.fld (td (R.TDM.TX_FMT.ALIGN k) rx))

/-- TDM.SET's body: of a running direction only the mask and MASK_MUTE may change. -/
def tdmSetBody (s : State) (p : List Byte) : CmdOut :=
  let k := u8 p 0
  let rx := u8 p 1 == 0
  if tdmSetBad s p then refuse s stBadArg
  else
    match setAlign s p k rx with
    | none => refuse s stNoRes
    | some g =>
      let l := tdmImages s p g
      if !dirStopped s k rx ∧ (l.take 3).any (fun x => s.rd x.1 != x.2) = true then refuse s stWrongPhase
      else (stOk, [], applyGroup (strobe (fwWrites s l) (2 ^ (4 + k / 8))) (4 + k / 8))

/-- TDM_SET (R222). -/
def execTdmSet (ch tag : Nat) (s : State) : Out3 :=
  runCmd 0x0600 (· == 20) (fun s p => blockLocked s (32 + u8 p 0 % 16) || dxPort s (u8 p 0) ||
    (coDx s && u8 p 17 == 15)) tdmSetBody ch tag s

/-- Directions (2 x port + receive) of transmit and receive port bitmaps. -/
def namedDirs (tx rx : Nat) : List Nat :=
  (List.range 32).filter fun i => nbit (if i % 2 = 0 then tx else rx) (i / 2)

/-- A direction's number taken apart. -/
def dirPort (i : Nat) : Nat := i / 2
def dirRx (i : Nat) : Bool := i % 2 == 1

/-- The alignment groups some directions belong to. -/
def groupsTouched (s : State) (l : List Nat) : List Nat :=
  l.foldl (fun g i => insertNat (s.fld (td (R.TDM.TX_FMT.ALIGN (dirPort i)) (dirRx i))) g) []

/-- Set a platen for one fire and arm it: `acts` are the action and group bits of its CFG (R119, R120). -/
def firePlaten (s : State) (k pti raw acts : Nat) : State :=
  let s := setPlFire s k raw
  let s := s.setFlds [(R.TIME.PL_STAT.LATE k, 0), (R.TIME.PL_STAT.STEP_MISS k, 0), (R.TIME.PL_STAT.BAD k, 0)]
  plCfgWrite s k (BitVec.ofNat 32 (2 ^ 31 + 2 ^ 29 + pti * 2 ^ 27 + acts))

/-- Whether a platen is free for firmware. -/
def platenFree (s : State) (k : Nat) : Bool := !s.flag (R.TIME.PL_CFG.ARM k) && (s.pl k).owner == 0

/-- TDM.START's platens: one per group, the first as named; none where they do not suffice. -/
def startPlatens (s : State) (named n : Nat) : Option (List Nat) :=
  let free := (List.range 16).filter (platenFree s)
  let l := if named = 0xFF then free else if platenFree s named then named :: free.filter (· != named) else []
  if l.length < n then none else some (l.take n)

/-- TDM.START's body: every direction is armed, and the platens of its groups fire together (R243; log 41). -/
def tdmStartBody (s : State) (p : List Byte) : CmdOut :=
  let ds := namedDirs (u16 p 0) (u16 p 2)
  let pti := u8 p 4
  let named := u8 p 5
  let t := startTime s pti (u48 p 8) (u32 p 16)
  let gs := groupsTouched s ds
  let left := (List.range 32).any fun i => !ds.contains i && decide (tdmReady ≤ s.tdmState (dirPort i) (dirRx i)) &&
    gs.contains (s.fld (td (R.TDM.TX_FMT.ALIGN (dirPort i)) (dirRx i)))
  if !reservedZero p (span 0 6 ++ span 8 6 ++ span 16 4) ∨ ds.isEmpty = true ∨ 3 < pti ∨ (15 < named ∧ named ≠ 0xFF) ∨
      1000000000 ≤ u32 p 16 ∨ t < s.ptiRaw pti + 1000 * nsUnit ∨ left = true then refuse s stBadArg
  else if ds.any fun i => s.tdmState (dirPort i) (dirRx i) != tdmReady && s.tdmState (dirPort i) (dirRx i) != tdmArmed then
    refuse s stWrongPhase
  else
    let s1 := ds.foldl (fun s i => cmdWrite s (dirPort i) (dirRx i) 1#32) s
    if ds.any fun i => s1.tdmState (dirPort i) (dirRx i) != tdmArmed then refuse s stWrongPhase
    else
      match startPlatens s1 named gs.length with
      | none => refuse s stNoRes
      | some ks =>
        let s2 := (ks.zip gs).foldl (fun s x => firePlaten s x.1 pti t (2 ^ 25 + x.2 * 2 ^ 16)) s1
        (stOk, [byteOf (ks.headD 0), 0, 0, 0] ++ leBytes 4 (t / nsUnit % 1000000000), s2)

/-- What forbids a command over some TDM directions: host ownership or DX. TX_CMD and RX_CMD hold no QL field, so a quoin
does not. -/
def dirsLocked (s : State) (p : List Byte) : Bool :=
  (namedDirs (u16 p 0) (u16 p 2)).any fun i => hostOwns s (32 + dirPort i) || dxPort s (dirPort i)

/-- TDM_START (R222, R243). -/
def execTdmStart (ch tag : Nat) (s : State) : Out3 :=
  runCmd 0x0601 (· == 20) (fun s p => dirsLocked s p || hostOwns s bTIME) tdmStartBody ch tag s

/-- TDM_STOP (R222, R237): its final event follows the last leading frame. -/
def execTdmStop (ch tag : Nat) (s : State) : Out3 :=
  runAccepted 0x0602 (· == 4) dirsLocked (fun s p =>
    (stOk, [], (namedDirs (u16 p 0) (u16 p 2)).foldl (fun s i => cmdWrite s (dirPort i) (dirRx i) 2#32) s)) ch tag s

/-- TDM_STATUS (R222): the guard causes are TDM_STAT's word of the port (R445). -/
def execTdmStatus (ch tag : Nat) (s : State) : Out3 :=
  runCmd 0x0603 (· == 1) (fun s p => dxPort s (u8 p 0)) (fun s p =>
    let k := u8 p 0
    if 15 < k then refuse s stBadArg
    else (stOk, [byteOf (s.tdmState k false), byteOf (s.tdmState k true), 0, 0] ++ regBytes s (R.TDM.TX_UNDERRUN.reg k) ++
      regBytes s (R.TDM.TX_LATE.reg k) ++ regBytes s (R.TDM.RX_OVERRUN.reg k) ++ regBytes s (R.GRD.TDM_STAT.reg k), s)) ch tag s

/-! ### RT (R222, R254) -/

/-- The destination and low word of entry `i` of RT.SET. -/
def rtDest (p : List Byte) (i : Nat) : Nat := u16 p (16 + 8 * i)
def rtWord (p : List Byte) (i : Nat) : Word :=
  BitVec.ofNat 32 (u16 p (18 + 8 * i) * 65536 + u8 p (21 + 8 * i) * 256 + u8 p (20 + 8 * i) % 4)

/-- The first entry of RT.SET that a test finds bad, with its reason. -/
def rtFirst (n : Nat) (f : Nat → Option Nat) : Option (Nat × Nat) :=
  (List.range n).findSome? fun i => (f i).map fun r => (i, r)

/-- Why an entry of RT.SET is bad: 3 its destination comes twice, else as the table judges it (R254). -/
def rtJudge (s : State) (p : List Byte) (i : Nat) : Option Nat :=
  if (List.range i).any fun j => rtDest p j == rtDest p i then some 3 else impJudge s (rtDest p i) (rtWord p i)

/-- RT.SET's result for a bad entry. -/
def rtBad (i r : Nat) : List Byte := leBytes 2 i ++ leBytes 2 r

/-- RT.SET's body: the entries' shadows are written, then strobed at once or by the platen that fires later. -/
def rtSetBody (ch tag : Nat) (s : State) (p : List Byte) : CmdOut :=
  let n := u16 p 0
  let k := u8 p 2
  let pti := u8 p 3
  let t := (u48 p 4 * 1000000000 + u32 p 12) * nsUnit
  let resv := (List.range n).flatMap fun i => span (16 + 8 * i) 6
  match rtFirst n fun i => if coDx s && dxDest (rtDest p i) then some 4 else none with
  | some (i, r) => (stLocked, rtBad i r, s)
  | none =>
    if !reservedZero p (span 0 10 ++ span 12 4 ++ resv) ∨
        (List.range n).any (fun i => decide (4 ≤ u8 p (20 + 8 * i))) = true then refuse s stBadArg
    else if k ≠ 0xFF ∧ (15 < k ∨ 3 < pti ∨ 1000000000 ≤ u32 p 12 ∨ t < s.ptiRaw pti + 1000000 * nsUnit ∨
        s.ptiRaw pti + 10000000000 * nsUnit < t) then refuse s stBadArg
    else
      match rtFirst n (rtJudge s p) with
      | some (i, r) => (stBadArg, rtBad i r, s)
      | none =>
        if k ≠ 0xFF ∧ platenFree s k = false then refuse s stNoRes
        else
          let s1 := (List.range n).foldl (fun s i => impWrite s (rtDest p i) (rtWord p i)) s
          if k = 0xFF then (stOk, rtBad 0xFFFF 0, strobe s1 2)
          else
            let s2 := firePlaten (s1.setFld (R.TIME.PL_GROUPS.UPD k) 2) k pti t (2 ^ 26)
            let s3 := s2.setPl k { s2.pl k with owner := 1 }
            (stOk, [], { s3 with fw := { s3.fw with route := some (k, ch, tag) } })

/-- What forbids RT.SET; the IMP quoin covers the table's entries (R254). -/
def rtLocked (s : State) (p : List Byte) : Bool := blockLocked s bIMP || (u8 p 2 != 0xFF && hostOwns s bTIME)

/-- The lengths of RT.SET. -/
def rtLen (n : Nat) : Bool := decide (16 ≤ n) && n % 8 == 0

/-- RT_SET (R222): with a platen it answers ACCEPTED and ends at the fire. -/
def execRtSet (ch tag : Nat) (s : State) : Out3 :=
  match takenCmd s ch tag with
  | none => ok s
  | some c =>
    if u8 c.payload 2 = 0xFF then runCmd 0x0700 rtLen rtLocked (rtSetBody ch tag) ch tag s
    else runAccepted 0x0700 rtLen rtLocked (rtSetBody ch tag) ch tag s

/-- An entry as RT.GET gives it: what was last written to it (log 42). -/
def rtEntry (s : State) (d : Nat) : List Byte :=
  let w := (s.imp d).shadow
  leBytes 2 d ++ leBytes 2 (impSrc w) ++ [byteOf (w.toNat % 4), byteOf (impConv w), 0, 0]

/-- RT_GET (R222). -/
def execRtGet (ch tag : Nat) (s : State) : Out3 :=
  runCmd 0x0701 (· == 4) (fun s p => coDx s && (span (u16 p 0) (u16 p 2)).any dxDest) (fun s p =>
    if 0x1E00 < u16 p 0 + u16 p 2 then refuse s stBadArg
    else (stOk, (span (u16 p 0) (u16 p 2)).flatMap (rtEntry s), s)) ch tag s

/-! ### KRN (R222, R262, R263) -/

/-- Routes or an adaptive flow use a lane (R222, R265). -/
def laneUsed (s : State) (n : Nat) : Bool :=
  ((impListed s).any fun d =>
    [(s.imp d).shadow, (s.imp d).cur.word].any fun w =>
      (decide (0x1A00 + 4 * n ≤ impSrc w) && decide (impSrc w < 0x1A04 + 4 * n)) ||
        (impSrc w != 0xFFFF && decide (0x1A00 + 4 * n ≤ d) && decide (d < 0x1A04 + 4 * n))) ||
    (List.range 256).any fun f => s.fld (R.RXF.F_STAT.STATE f) != 0 && (gang s f).contains n

/-- KRN.SET's body. -/
def krnSetBody (s : State) (p : List Byte) : CmdOut :=
  let n := u8 p 0
  let a := u8 p 1
  let b := u8 p 2
  let mode := u8 p 3
  let fa := s.mcsFs a
  let fb := s.mcsFs b
  let f := R.KRN.L_CFG.MODE n
  let v := insFlds 0 [(f, mode), (R.KRN.L_CFG.OUT_MCS n, b), (R.KRN.L_CFG.IN_MCS n, a)]
  if 7 < a ∨ 7 < b ∨ 2 < mode ∨ fb * 4 < fa ∨ fa * 4 < fb then refuse s stBadArg
  else if (laneUsed s n ∧ ((s.rd f.key ^^^ v) &&& 0x07700000#32 ≠ 0 ∨ (mode = 0 ∧ s.fld f ≠ 0))) ∨
      (mode ≠ 0 ∧ !(s.mcsRuns a && s.mcsRuns b)) then refuse s stWrongPhase
  else (stOk, [], applyGroup (strobe (fwWrite s f.key v) 0x100) 8)

/-- KRN_SET (R222). -/
def execKrnSet (ch tag : Nat) (s : State) : Out3 := runCmd 0x0800 (· == 4) (lockBlock bKRN) krnSetBody ch tag s

/-- KRN_STATUS (R222). -/
def execKrnStatus (ch tag : Nat) (s : State) : Out3 :=
  runCmd 0x0801 (· == 1) lockNone (fun s p =>
    let n := u8 p 0
    (stOk, [byteOf (s.fld (R.KRN.L_STAT.STATE n)), 0, 0, 0] ++ leBytes 4 (laneRatioNow s n) ++
      leBytes 4 (laneOver s n), s)) ch tag s

end Sys2Proof.Machine
end

