-- ==== Sys2Proof/Machine/Sdp.lean ====
section
/-! DEFINITION. SDP text (R224): RFC 8866 with the attributes of AES67 and ST 2110-30 and -31. -/

namespace Sys2Proof.Machine

/-! ### Characters -/

/-- The bytes of an ASCII text. -/
def ascii (t : String) : List Byte := t.toList.map fun c => BitVec.ofNat 8 c.toNat

/-- A character's code. -/
def chr (c : Char) : Byte := BitVec.ofNat 8 c.toNat

/-- Cut a text at each occurrence of a character. -/
def cutAt (c : Byte) : List Byte → List (List Byte)
  | [] => [[]]
  | b :: bs =>
    let r := cutAt c bs
    if b = c then [] :: r else (b :: r.headD []) :: r.drop 1

/-- Words between spaces. -/
def wordsOf (t : List Byte) : List (List Byte) := (cutAt (chr ' ') t).filter fun w => !w.isEmpty

/-- What follows a prefix. -/
def after? (p t : List Byte) : Option (List Byte) := if t.take p.length = p then some (t.drop p.length) else none

/-- A digit of a base up to 16. -/
def digit? (base : Nat) (b : Byte) : Option Nat :=
  let n := b.toNat
  let v := if 48 ≤ n ∧ n ≤ 57 then n - 48 else if 65 ≤ n ∧ n ≤ 70 then n - 55 else if 97 ≤ n ∧ n ≤ 102 then n - 87 else 99
  if v < base then some v else none

/-- A number of one digit or more. -/
def number? (base : Nat) (t : List Byte) : Option Nat :=
  if t.isEmpty then none
  else t.foldl (fun a b => a.bind fun n => (digit? base b).map fun d => n * base + d) (some 0)

/-- Milliseconds with a fraction, as ns. -/
def millis? (t : List Byte) : Option Nat :=
  match cutAt (chr '.') t with
  | [i] => (number? 10 i).map (· * 1000000)
  | [i, f] => (number? 10 i).bind fun n => (number? 10 ((f ++ List.replicate 6 (chr '0')).take 6)).map fun d => n * 1000000 + d
  | _ => none

/-- An IPv4 address. -/
def ip4? (t : List Byte) : Option (List Byte) :=
  let l := (cutAt (chr '.') t).map (number? 10)
  if l.length = 4 ∧ l.all (fun x => match x with | some n => decide (n < 256) | none => false) = true then
    some (l.map fun x => BitVec.ofNat 8 (x.getD 0))
  else none

/-- Groups of an IPv6 address. -/
def groups? (t : List Byte) : Option (List Byte) :=
  if t.isEmpty then some []
  else
    let l := (cutAt (chr ':') t).map fun g => if 4 < g.length then none else number? 16 g
    if l.all Option.isSome then some (l.flatMap fun x => beBytes 2 (x.getD 0)) else none

/-- Cut at the first double colon. -/
def cutGap : List Byte → Option (List Byte × List Byte)
  | [] => none
  | b :: bs => if b = chr ':' ∧ bs.head? = some (chr ':') then some ([], bs.drop 1) else (cutGap bs).map fun p => (b :: p.1, p.2)

/-- An IPv6 address. -/
def ip6? (t : List Byte) : Option (List Byte) :=
  match cutGap t with
  | none => (groups? t).filter fun l => l.length == 16
  | some (a, b) =>
    match groups? a, groups? b with
    | some x, some y => if x.length + y.length ≤ 14 then some (x ++ List.replicate (16 - x.length - y.length) 0 ++ y) else none
    | _, _ => none

/-! ### Reading -/

/-- A media description. -/
structure SdpLeg where
  port   : Nat
  pt     : Nat
  conn   : Option (Bool × List Byte)
  fmt    : Option Nat
  rate   : Nat
  chans  : Nat
  ptime  : Option Nat
  offset : Nat
  mid    : List Byte
  deriving DecidableEq, Repr

/-- A session as read so far, its newest media description first. -/
structure SdpText where
  conn : Option (Bool × List Byte)
  offset : Nat
  dup  : List (List Byte)
  legs : List SdpLeg
  bad  : Option Nat
  deriving DecidableEq, Repr

/-- Change the newest media description. -/
def SdpText.leg (x : SdpText) (f : SdpLeg → SdpLeg) : SdpText := { x with legs := modifyAt x.legs 0 f }

/-- A connection address, without its TTL or count. -/
def sdpConn (t : List Byte) : Option (Bool × List Byte) :=
  match wordsOf t with
  | [n, k, a] =>
    let a := (cutAt (chr '/') a).headD []
    if n ≠ ascii "IN" then none
    else if k = ascii "IP4" then (ip4? a).map fun x => (false, x ++ List.replicate 12 0)
    else if k = ascii "IP6" then (ip6? a).map fun x => (true, x)
    else none
  | _ => none

/-- A media line of RTP audio. -/
def sdpMedia (t : List Byte) : Option SdpLeg :=
  match wordsOf t with
  | k :: p :: proto :: pt :: _ =>
    if k = ascii "audio" ∧ proto = ascii "RTP/AVP" then
      (number? 10 p).bind fun p => (number? 10 pt).map fun n => ⟨p, n, none, none, 0, 1, none, 0, []⟩
    else none
  | _ => none

/-- The flow format of an encoding name. -/
def sdpFormat (t : List Byte) : Option Nat :=
  if t = ascii "L16" then some 0 else if t = ascii "L24" then some 1 else if t = ascii "L32" then some 2
  else if t = ascii "AM824" then some 3 else none

/-- The value of rtpmap, for the media description's payload type. -/
def sdpMap (x : SdpText) (v : List Byte) : Option SdpText :=
  match wordsOf v with
  | [p, e] =>
    match number? 10 p, cutAt (chr '/') e with
    | some n, enc :: rate :: rest =>
      if n ≠ (x.legs.head?.map SdpLeg.pt).getD 256 then some x
      else
        match sdpFormat enc, number? 10 rate, (if rest.isEmpty then some 1 else number? 10 (rest.headD [])) with
        | some f, some r, some c => some (x.leg fun l => { l with fmt := some f, rate := r, chans := c })
        | _, _, _ => none
    | _, _ => none
  | _ => none

/-- The value of mediaclk: an offset with direct. -/
def sdpClock (x : SdpText) (v : List Byte) : Option SdpText :=
  match after? (ascii "direct=") v with
  | none => some x
  | some t =>
    (number? 10 ((wordsOf t).headD [])).map fun n =>
      if x.legs.isEmpty then { x with offset := n % 2 ^ 32 } else x.leg fun l => { l with offset := n % 2 ^ 32 }

/-- An attribute line; those RFC 8866 lets a receiver ignore are ignored (log 45). -/
def sdpAttr (x : SdpText) (t : List Byte) : Option SdpText :=
  match after? (ascii "rtpmap:") t, after? (ascii "ptime:") t, after? (ascii "mediaclk:") t, after? (ascii "mid:") t,
    after? (ascii "group:") t with
  | some v, _, _, _, _ => sdpMap x v
  | _, some v, _, _, _ => (millis? v).map fun n => x.leg fun l => { l with ptime := some n }
  | _, _, some v, _, _ => sdpClock x v
  | _, _, _, some v, _ => some (x.leg fun l => { l with mid := v })
  | _, _, _, _, some v =>
    (match wordsOf v with
     | [k, a, b] => if k = ascii "DUP" then some { x with dup := [a, b] } else none
     | _ => none)
  | _, _, _, _, _ => some x

/-- One line. -/
def sdpLine (x : SdpText) (t : List Byte) : Option SdpText :=
  match t with
  | k :: e :: v =>
    if e ≠ chr '=' then none
    else if k = chr 'v' then (if v = ascii "0" then some x else none)
    else if k = chr 'c' then
      (sdpConn v).map fun c => if x.legs.isEmpty then { x with conn := some c } else x.leg fun l => { l with conn := some c }
    else if k = chr 'm' then (sdpMedia v).map fun l => { x with legs := { l with offset := x.offset } :: x.legs }
    else if k = chr 'a' then sdpAttr x v
    else if (ascii "osiuepbtrzk").contains k then some x
    else none
  | _ => none

/-- Read lines, the first being number `n`; the number of the first line that is not supported is kept. -/
def sdpLines : Nat → List (List Byte) → SdpText → SdpText
  | _, [], x => x
  | n, t :: ts, x =>
    match sdpLine x t with
    | some y => sdpLines (n + 1) ts y
    | none => sdpLines (n + 1) ts { x with bad := some (x.bad.getD n) }

/-- Read a text. -/
def sdpRead (b : List Byte) : SdpText :=
  let ls := (cutAt 10 b).map fun l => if l.getLast? = some 13 then l.dropLast else l
  let ls := if ls.getLast? = some [] then ls.dropLast else ls
  sdpLines 1 ls ⟨none, 0, [], [], none⟩

/-! ### Writing -/

/-- A number in decimal. -/
def decText (n : Nat) : List Byte := ascii (toString n)

/-- A byte in two hexadecimal digits. -/
def hexByte (b : Nat) : List Byte :=
  let d (n : Nat) : Byte := BitVec.ofNat 8 (if n < 10 then 48 + n else 55 + n)
  [d (b / 16 % 16), d (b % 16)]

/-- Texts with a separator between them. -/
def joinText (sep : List Byte) : List (List Byte) → List Byte
  | [] => []
  | [t] => t
  | t :: ts => t ++ sep ++ joinText sep ts

/-- An address. -/
def addrText (v6 : Bool) (a : List Byte) : List Byte :=
  if v6 then joinText (ascii ":") ((List.range 8).map fun i => hexByte (u8 a (2 * i)) ++ hexByte (u8 a (2 * i + 1)))
  else joinText (ascii ".") ((a.take 4).map fun b => decText b.toNat)

/-- A line. -/
def lineText (t : List Byte) : List Byte := t ++ [13, 10]

/-- A packet time in ms. -/
def ptimeText (pt : Nat) : List Byte :=
  ascii (["0.0625", "0.125", "0.25", "0.333", "1", "4"].getD pt "1")

end Sys2Proof.Machine
end

