-- ==== Sys2Proof/Machine/CmdFlow.lean ====
section
/-! DEFINITION. The commands RXF, TXF, SDP and RED (R223, R224, R297 to R299, R306, R318, R321, R326, R327, R348). -/

namespace Sys2Proof.Machine

/-! ### The flow record (R223) -/

/-- Fields of a flow record. -/
def frAvtp (p : List Byte) : Bool := nbit (u8 p 6) 2
def frV6 (p : List Byte) : Bool := nbit (u8 p 6) 1
def frPath (p : List Byte) (x : Nat) : Bool := nbit (u8 p 5) x
def frPaths (p : List Byte) : List Nat := [0, 1].filter (frPath p)
def frAddr (p : List Byte) : List Byte := (p.drop 16).take 16
def frMcs (p : List Byte) : Nat := u8 p 4
def frLane (p : List Byte) : Nat := u8 p 41
def frAlign (p : List Byte) : Nat := u8 p 7

/-- What a record of either direction breaks of the table. -/
def frBad (p : List Byte) (rx : Bool) : Bool :=
  let fmt := u8 p 2
  let mode := u8 p 6
  decide (7 < frMcs p) || u8 p 5 == 0 || decide (3 < u8 p 5) || mode &&& 0xC8 != 0 || bits mode 4 2 == 3 ||
    !formatOk fmt (u8 p 3) (frAvtp p) || (fmt == 9 && !rx) ||
    (if fmt = 9 then u8 p 1 != 0 else u8 p 1 == 0 || decide (64 < u8 p 1)) ||
    (decide (15 < frAlign p) && frAlign p != 0xFF) || (frAvtp p && u16 p 32 != 0) ||
    (u16 p 34 != 0xFFFF && nbit (u16 p 34) 12) || !reservedZero p (span 0 44)

/-- Bytes of a record's packet that MAX_DATA limits (R300). -/
def frData (s : State) (p : List Byte) : Nat :=
  let n := ptSamples (u8 p 3) (s.fld (R.CLK.MCS_CFG.RATE (frMcs p)))
  payloadLen (u8 p 2) (u8 p 1) n + (if frAvtp p then (if u8 p 2 = 8 then 32 else 24) else if frV6 p then 60 else 40)

/-- A record's packet fits its ports (R300). -/
def frFits (s : State) (p : List Byte) : Bool :=
  (frPaths p).all fun x => decide (frData s p ≤ s.fld (R.NET.CFG.MAX_DATA x))

/-- The timebase firmware gives a flow (R306). -/
def flowPti (s : State) (m paths : Nat) : Nat :=
  let t := s.fld (R.CLK.MCS_CFG.REF_TYPE m)
  if t = 0 ∨ t = 1 ∨ t = 4 then s.fld (R.CLK.MCS_CFG.REF_ID m) % 4
  else ((List.range 4).find? fun n =>
    s.flag (R.TIME.PTI_CFG.EN n) && s.fld (R.TIME.PTI_CFG.PORTS n) &&& paths != 0).getD 0

/-- The lowest multiple of `m` from `lo` on where `n` identifiers are free among some runs (R250, R314, R326). -/
def lowestBase (used : List (Nat × Nat)) (lo n m : Nat) : Option Nat :=
  let up (x : Nat) : Nat := (x + m - 1) / m * m
  let good := ((lo :: used.map Prod.snd).map up).filter fun b =>
    decide (lo ≤ b) && decide (b + n ≤ 2048) && used.all fun u => decide (b + n ≤ u.1) || decide (u.2 ≤ b)
  match good with
  | [] => none
  | b :: bs => some (bs.foldl min b)

/-- The first identifier a native flow may take (R463). -/
def firstIdent (s : State) : Nat := if coDx s then 0x40 else 0

/-- Identifiers of the receive flows that are not OFF, and of the transmit flows. -/
def rxRuns (s : State) : List (Nat × Nat) :=
  ((List.range 256).filter fun f => s.fld (R.RXF.F_STAT.STATE f) != 0).map fun f =>
    let b := s.fld (R.RXF.F_CHAN.BASE f)
    (b, b + s.fld (R.RXF.F_CHAN.CHANNELS f) * mcsMult s (s.fld (R.RXF.F_CFG.MCS f)))
def txRuns (s : State) : List (Nat × Nat) :=
  ((List.range 256).filter fun f => s.fld (R.TXF.F_STAT.STATE f) != 0).map fun f =>
    let b := s.fld (R.TXF.F_CHAN.BASE f)
    (b, b + s.fld (R.TXF.F_CHAN.CHANNELS f) * mcsMult s (s.fld (R.TXF.F_CFG.MCS f)))

/-! ### Classifier keys (R297 to R299) -/

/-- The key of flow `f` on a port, from a flow record. -/
def keyWords (f port : Nat) (p : List Byte) : List Word :=
  let type := if frAvtp p then 2 else if frV6 p then 1 else 0
  let tag := u16 p 34 != 0xFFFF
  let src := u32 p 36 != 0 && !frAvtp p
  let a := if frAvtp p then (p.drop 24).take 8 ++ List.replicate 8 0
    else if frV6 p then frAddr p else (p.drop 16).take 4 ++ List.replicate 12 0
  [BitVec.ofNat 32 (2 ^ 31 + type * 2 ^ 28 + port * 2 ^ 26 + b2n src * 2 ^ 25 + b2n tag * 2 ^ 24 +
      (if tag then u16 p 34 % 4096 else 0) * 2 ^ 12 + f % 256),
    BitVec.ofNat 32 (u16 p 32 * 65536), BitVec.ofNat 32 (if src then u32 p 36 else 0), 0] ++
    [0, 4, 8, 12].map fun i => BitVec.ofNat 32 (be32 a i)

/-- The candidate places of a key's words (R298). -/
def keyCands (ws : List Word) : List Nat :=
  let w (i : Nat) : Nat := (ws.getD i 0).toNat
  let h := keyHash (bits (w 0) 28 3) (bits (w 0) 26 2) (bits (w 1) 16 16) ([4, 5, 6, 7].flatMap fun i => beBytes 4 (w i))
  [0, 1, 2, 3].map (keyPlace h)

/-- A place holds no key. -/
def keyFree (s : State) (i : Nat) : Bool := !nbit (s.key i 0).toNat 31

/-- Write a key at a free place, word 0 last (R299). -/
def putKey (s : State) (i : Nat) (ws : List Word) : State :=
  [1, 2, 3, 4, 5, 6, 7, 0].foldl (fun s w => keyWrite s i w (ws.getD w 0)) s

/-- Clear a key. -/
def dropKey (s : State) (i : Nat) : State := keyWrite s i 0 (s.key i 0 &&& 0x7FFFFFFF#32)

/-- The words at a place. -/
def keyAt (s : State) (i : Nat) : List Word := (List.range 8).map (s.key i)

/-- Free a place by moving its key to another of its candidates, which is freed in the same way where it must be (R298). -/
def freeKey : Nat → State → Nat → Option State
  | 0, _, _ => none
  | n + 1, s, i =>
    let ws := keyAt s i
    let alts := (keyCands ws).filter (· != i)
    match alts.find? (keyFree s) with
    | some j => some (putKey (dropKey s i) j ws)
    | none => alts.findSome? fun j =>
        (freeKey n s j).bind fun t => if keyFree t j && keyAt t i == ws then some (putKey (dropKey t i) j ws) else none

/-- The moves a relocation chain makes at most (log 46). -/
def cuckooMoves : Nat := 3

/-- Place a key (R298): at a free candidate, at one a relocation frees, or in the CAM. -/
def placeKey (s : State) (ws : List Word) : Option State :=
  let c := keyCands ws
  match c.find? (keyFree s) with
  | some i => some (putKey s i ws)
  | none =>
    match c.findSome? fun i => (freeKey cuckooMoves s i).bind fun t => if keyFree t i then some (putKey t i ws) else none with
    | some t => some t
    | none => (((List.range 64).map (· + 4096)).find? (keyFree s)).map fun i => putKey s i ws

/-- Clear the keys of a flow's path. -/
def dropPathKeys (s : State) (f port : Nat) : State :=
  (s.cls.filter fun p => p.1 % 8 == 0 && nbit p.2.toNat 31 && bits p.2.toNat 26 2 == port && bits p.2.toNat 10 2 == 0 &&
    bits p.2.toNat 0 8 == f).foldl (fun s p => dropKey s (p.1 / 8)) s

/-! ### Reservations -/

/-- Set a queue's reservation, its cap raised where it is lower; none where the galley refuses it (R278). -/
def reserve (s : State) (q n : Nat) : Option State :=
  let s := if s.fld (R.GAL.Q_CAP.CELLS q) < n then qCapWrite s q n else s
  if resFits s q n then some (qResWrite s q n) else none

/-- Set several reservations, or none of them. -/
def reserveAll (s : State) : List (Nat × Nat) → Option State
  | [] => some s
  | p :: ps => (reserve s p.1 p.2).bind fun t => reserveAll t ps

/-! ### RXF.CREATE and RXF.DELETE (R224) -/

/-- F_CFG's image for a record, without EN. -/
def rxCfgImage (s : State) (p : List Byte) : Word :=
  insFlds 0 [(R.RXF.F_CFG.FORMAT 0, u8 p 2), (R.RXF.F_CFG.PTIME 0, u8 p 3), (R.RXF.F_CFG.MCS 0, frMcs p),
    (R.RXF.F_CFG.PATHS 0, u8 p 5), (R.RXF.F_CFG.AVTP 0, b2n (frAvtp p)), (R.RXF.F_CFG.CONCEAL 0, bits (u8 p 6) 4 2),
    (R.RXF.F_CFG.ADAPT 0, bits (u8 p 6) 0 1), (R.RXF.F_CFG.ALIGN_EN 0, b2n (frAlign p != 0xFF)),
    (R.RXF.F_CFG.ALIGN 0, if frAlign p = 0xFF then 0 else frAlign p),
    (R.RXF.F_CFG.PTI 0, flowPti s (frMcs p) (u8 p 5)), (R.RXF.F_CFG.LANE 0, frLane p)]

/-- The registers of a record at a base. -/
def rxImages (s : State) (p : List Byte) (base off : Nat) : List (Nat × Word) :=
  let f := u8 p 0
  [(R.RXF.F_CHAN.reg f, insFlds 0 [(R.RXF.F_CHAN.BASE 0, base), (R.RXF.F_CHAN.PT 0, u8 p 40), (R.RXF.F_CHAN.CHANNELS 0, u8 p 1)]),
    (R.RXF.F_OFFSET.reg f, BitVec.ofNat 32 (u32 p 8)), (R.RXF.F_DEPTH.reg f, BitVec.ofNat 32 (u32 p 12)),
    (R.RXF.F_RTPOFF.reg f, BitVec.ofNat 32 off), (R.RXF.F_CFG.reg f, rxCfgImage s p)]

/-- Active values set, to judge a record by the rules of an enable. -/
def tryOut (s : State) (l : List (Nat × Word)) : State := l.foldl (fun s x => s.wr x.1 x.2) s

/-- What a receive record breaks (R223, R25, R265, R266, R300, R310, R313). -/
def rxRecordBad (s : State) (p : List Byte) : Bool :=
  let f := u8 p 0
  frBad p true || decide (127 < u8 p 40) || !frFits s p || decide (2 ^ 24 ≤ u32 p 8) || decide (128000 < u32 p 12) ||
    (nbit (u8 p 6) 0 && (frLane p == 0xFF || frAlign p != 0xFF)) ||
    (let t := tryOut s (rxImages s p 0 0)
     decide (u32 p 8 < leastOffset t f) || !depthOk t f (u32 p 8) || (u8 p 2 != 9 && (!alignOk t f ||
      (frLane p != 0xFF && !gangOk t f))))

/-- A queue number of a result. -/
def queueBytes (p : List Byte) (x : Nat) : List Byte :=
  leBytes 2 (if frPath p x then rxQueue (u8 p 0) x else 0xFFFF)

/-- A receive flow's record and its NETB leg are kept. -/
def keepRx (s : State) (f : Nat) (p leg : List Byte) : State :=
  { s with fw := { s.fw with
      work := { s.fw.work with rx := sPut (fun _ => []) s.fw.work.rx f p }
      legs := sPut (fun _ => []) s.fw.legs f leg } }

/-- Create a receive flow from a record; `leg` holds what the NETB key compares where it differs, `off` its RTP offset. -/
def rxCreate (s : State) (p leg : List Byte) (off : Nat) : CmdOut :=
  let f := u8 p 0
  let m := frMcs p
  let mult := mcsMult s m
  let n := u8 p 1 * mult
  if rxRecordBad s p then refuse s stBadArg
  else if s.fld (R.RXF.F_STAT.STATE f) ≠ 0 ∨ !s.mcsRuns m then refuse s stWrongPhase
  else if 2048 < rxChannels s + n then refuse s stNoRes
  else
    match lowestBase (rxRuns s) (firstIdent s) n mult with
    | none => refuse s stNoRes
    | some base =>
      let l := rxImages s p (if n = 0 then 0 else base) off
      let cells := rxCells (tryOut s l) f
      match reserveAll s ((frPaths p).map fun x => (rxQueue f x, cells)) with
      | none => refuse s stNoMem
      | some s1 =>
        match (frPaths p).foldl (fun t x => t.bind fun t =>
            placeKey t (keyWords f x (if x = 1 ∧ leg ≠ [] then leg else p))) (some s1) with
        | none => refuse s stNoRes
        | some s2 =>
          let en := (R.RXF.F_CFG.EN f).ins 1 (rxCfgImage s p)
          let s3 := applyGroup (strobe (fwWrite (fwWrites s2 l) (R.RXF.F_CFG.reg f) en) 0x40) 6
          if s3.fld (R.RXF.F_STAT.STATE f) = 0 then refuse s stBadArg
          else
            (stOk, leBytes 4 (cells * (frPaths p).length) ++ queueBytes p 0 ++ queueBytes p 1, keepRx s3 f p leg)

/-- What forbids a command that writes a receive flow. -/
def rxLocked (s : State) (p : List Byte) : Bool := blockLocked s bRXF || blockLocked s bGAL || dxFlow s (u8 p 0)

/-- RXF_CREATE (R223, R224). -/
def execRxfCreate (ch tag : Nat) (s : State) : Out3 :=
  runCmd 0x0900 (· == 48) rxLocked (fun s p => rxCreate s p [] 0) ch tag s

/-- Whether an imposition entry names a source in a run of identifiers. -/
def namesSrc (s : State) (lo hi d : Nat) : Bool :=
  let e := s.imp d
  [e.shadow, e.cur.word, e.cap.getD e.shadow].any fun w => decide (lo ≤ impSrc w) && decide (impSrc w < hi)

/-- Identifiers of a receive flow. -/
def rxSpan (s : State) (f : Nat) : Nat × Nat :=
  let b := s.fld (R.RXF.F_CHAN.BASE f)
  (b, b + s.fld (R.RXF.F_CHAN.CHANNELS f) * mcsMult s (s.fld (R.RXF.F_CFG.MCS f)))

/-- Entries that name a channel of a receive flow. -/
def rxNamers (s : State) (f : Nat) : List Nat :=
  (impListed s).filter (namesSrc s (rxSpan s f).1 (rxSpan s f).2)

/-- RXF.DELETE's body. -/
def rxDeleteBody (s : State) (p : List Byte) : CmdOut :=
  let f := u8 p 0
  if s.fld (R.RXF.F_STAT.STATE f) = 0 ∨ (rxNamers s f).isEmpty = false then refuse s stWrongPhase
  else
    let w := (R.RXF.F_CFG.EN f).ins 0 (s.rdSh (R.RXF.F_CFG.reg f))
    let s := applyGroup (strobe (fwWrite s (R.RXF.F_CFG.reg f) w) 0x40) 6
    let s := [0, 1].foldl (fun s x => dropPathKeys (qResWrite s (rxQueue f x) 0) f x) s
    (stOk, [], keepRx s f [] [])

/-- RXF_DELETE (R224). -/
def execRxfDelete (ch tag : Nat) (s : State) : Out3 := runCmd 0x0901 (· == 1) rxLocked rxDeleteBody ch tag s

/-! ### RXF.OFFSET (R224, R309, R310) -/

/-- The flows an offset step moves: the flow, or its whole alignment group. -/
def stepMembers (s : State) (f : Nat) : List Nat :=
  if s.flag (R.RXF.F_CFG.ALIGN_EN f) then
    (List.range 256).filter fun g => s.fld (R.RXF.F_STAT.STATE g) != 0 && s.flag (R.RXF.F_CFG.ALIGN_EN g) &&
      s.fld (R.RXF.F_CFG.ALIGN g) == s.fld (R.RXF.F_CFG.ALIGN f)
  else [f]

/-- Whether RXF.OFFSET's arguments are bad. -/
def offsetBad (s : State) (p : List Byte) : Bool :=
  let f := u8 p 0
  !reservedZero p ([0, 1] ++ span 4 4) || decide (1 < u8 p 1) ||
    (u8 p 1 == 1 && (s.fld (R.RXF.F_CFG.LANE f) == 0xFF || s.flag (R.RXF.F_CFG.ALIGN_EN f))) ||
    (stepMembers s f).any fun g => decide (u32 p 4 < leastOffset s g) || !depthOk s g (u32 p 4)

/-- Entries of a step's flows. -/
def stepEntries (s : State) (l : List Nat) : List Nat := (impListed s).filter fun d => l.any fun f => (rxNamers s f).contains d

/-- The entry as the working forme has it. -/
def workImp (s : State) (d : Nat) : Word := sGet formeImpDefault s.fw.work.imps d

/-- Entries of a step still to be muted: those the working forme does not mute. -/
def unmuted (s : State) (ds : List Nat) : List Nat := ds.filter fun d => !impMute (workImp s d)

/-- An entry's fade-out is over; one whose domain stands still plays nothing. -/
def fadedOut (s : State) (d : Nat) : Bool :=
  let e := s.imp d
  impMute e.cur.word && (!s.mcsRuns ((dstDom s d).getD 0) || e.cur.gain (dstIndex s d) == 0)

/-- An entry comes back with a fade-in from index `k` (R255). -/
def fadeBack (s : State) (k d : Nat) : State :=
  let w := workImp s d
  impTake (s.setImp d { s.imp d with shadow := w, cap := some w }) d k

/-- The index from which every flow of a step plays under the new offset. -/
def stepIndex (s : State) (l : List Nat) (old : Nat → Nat) (v : Nat) : Nat :=
  (l.map fun f => match (s.flow f).step with | some (k, _) => k + max (old f) v | none => 0).foldl max 0

/-- The step itself: every member is captured at once, and the muted entries fade in across the change. -/
def offsetStep (s : State) (f v : Nat) : State :=
  let l := stepMembers s f
  let ds := unmuted s (stepEntries s l)
  let old := linkOffset s
  let s1 := l.foldl (fun s g => fwWrite s (R.RXF.F_OFFSET.reg g) (BitVec.ofNat 32 v)) s
  let s2 := applyGroup (strobe s1 0x40) 6
  pendRefresh (ds.foldl (fun t d => fadeBack t (max (stepIndex s2 l old v) (dstIndex t d + 1)) d) s2)

/-- RXF.OFFSET's body in slew mode. -/
def offsetSlewBody (s : State) (p : List Byte) : CmdOut :=
  let f := u8 p 0
  if offsetBad s p then refuse s stBadArg
  else if s.fld (R.RXF.F_STAT.STATE f) = 0 ∨ (s.flow f).slew.isSome then refuse s stWrongPhase
  else
    let d : Int := (u32 p 4 : Int) - s.fld (R.RXF.F_OFFSET_NOW.SAMPLES f)
    (stOk, [], if d = 0 then s else startSlew s f d 1000)

/-- RXF.OFFSET's body in step mode, once the fade-out is over. -/
def offsetStepBody (s : State) (p : List Byte) : CmdOut :=
  let f := u8 p 0
  if offsetBad s p then refuse s stBadArg
  else if s.fld (R.RXF.F_STAT.STATE f) = 0 then refuse s stWrongPhase
  else (stOk, [], offsetStep s f (u32 p 4))

/-- What forbids RXF.OFFSET: a step writes the entries it mutes. -/
def offsetLocked (s : State) (p : List Byte) : Bool :=
  blockLocked s bRXF || dxFlow s (u8 p 0) ||
    (u8 p 1 == 0 && !(unmuted s (stepEntries s (stepMembers s (u8 p 0)))).isEmpty && blockLocked s bIMP)

/-- Whether a step that would run now has entries that still play. -/
def stepWaits (s : State) (c : Cmd) : Bool :=
  let p := c.payload
  let f := u8 p 0
  checkCmd s c (· == 8) offsetLocked == 0 && !gRefused s 0x0902 && !gBusy s c && !offsetBad s p &&
    s.fld (R.RXF.F_STAT.STATE f) != 0 && !editWaits s 0x0902 c.chan c.tag &&
    (unmuted s (stepEntries s (stepMembers s f))).any fun d => !fadedOut s d

/-- RXF_OFFSET (R224): a slew answers ACCEPTED; a step first mutes the entries that name the flow with a fade, and is taken
again once they are silent (log 47). -/
def execRxfOffset (ch tag : Nat) (s : State) : Out3 :=
  match takenCmd s ch tag with
  | none => ok s
  | some c =>
    if u8 c.payload 1 ≠ 0 then runAccepted 0x0902 (· == 8) offsetLocked offsetSlewBody ch tag s
    else if c.opcode = 0x0902 ∧ serving s = true ∧ stepWaits s c = true then
      let ds := (unmuted s (stepEntries s (stepMembers s (u8 c.payload 0)))).filter fun d => !impMute (s.imp d).shadow
      if ds.isEmpty then ok s
      else ok (strobe (ds.foldl (fun s d => s.setImp d { s.imp d with shadow := (s.imp d).shadow ||| 2#32 }) s) 2)
    else runCmd 0x0902 (· == 8) offsetLocked offsetStepBody ch tag s

/-! ### Status -/

/-- RXF_STATUS (R224). -/
def execRxfStatus (ch tag : Nat) (s : State) : Out3 :=
  runCmd 0x0903 (· == 1) (fun s p => dxFlow s (u8 p 0)) (fun s p =>
    let f := u8 p 0
    (stOk, [byteOf (s.fld (R.RXF.F_STAT.STATE f)), 0, 0, 0] ++ leBytes 4 (s.fld (R.RXF.F_MIN.NS f)) ++
      leBytes 4 (s.fld (R.RXF.F_MEAN.NS f)) ++
      (List.range 16).flatMap (fun i => leBytes 2 (s.fld
        (if i % 2 = 0 then R.RXF.F_HIST.EVEN (i / 2) f else R.RXF.F_HIST.ODD (i / 2) f))) ++
      leBytes 4 (s.fld (R.RXF.F_LATE.COUNT f)) ++ leBytes 4 (s.fld (R.RXF.F_CONCEALED.COUNT f)), s)) ch tag s

/-- The launch phase of a transmit flow in ns (R323). -/
def launchPhase (s : State) (f : Nat) : Nat :=
  let fs := s.mcsFs (s.fld (R.TXF.F_CFG.MCS f))
  (2 * s.fld (R.TXF.F_PHASE.ALIGN f) * 1000000000 + fs) / (2 * max 1 fs) + s.fld (R.TXF.F_PHASE.E_NS f)

/-- TXF_STATUS (R224): a packet that goes out on both ports is one packet, and an underrun packet is a concealed one
(log 44). -/
def execTxfStatus (ch tag : Nat) (s : State) : Out3 :=
  runCmd 0x0A02 (· == 1) (fun s p => dxFlow s (u8 p 0)) (fun s p =>
    let f := u8 p 0
    let n := s.fld (R.TXF.F_UNDERRUN.COUNT f)
    (stOk, [byteOf (s.fld (R.TXF.F_STAT.STATE f)), 0, 0, 0] ++ leBytes 4 ((s.txf f).pkts.foldl max 0) ++ leBytes 4 n ++
      leBytes 4 n ++ leBytes 4 (launchPhase s f), s)) ch tag s

/-- RED_STATUS (R224). -/
def execRedStatus (ch tag : Nat) (s : State) : Out3 :=
  runCmd 0x0C00 (· == 1) (fun s p => dxFlow s (u8 p 0)) (fun s p =>
    let f := u8 p 0
    let n := (s.flow f).copies
    (stOk, [byteOf (s.fld (R.RED.F_STAT.STATE_A f)), byteOf (s.fld (R.RED.F_STAT.STATE_B f)), 0, 0] ++
      leBytes 4 (n.getD 0 0) ++ leBytes 4 (n.getD 1 0) ++ leBytes 4 (s.fld (R.RED.F_MISS.COUNT 0 f)) ++
      leBytes 4 (s.fld (R.RED.F_MISS.COUNT 1 f)) ++ leBytes 4 (s.fld (R.RED.F_MISS_BOTH.COUNT f)) ++
      leBytes 4 (s.fld (R.RED.F_SKEW.NS f)), s)) ch tag s

/-! ### RED.PATHS (R224, R348) -/

/-- The flow was made with both paths, whichever are active now. -/
def madeSeamless (s : State) (f : Nat) : Bool :=
  s.fld (R.RXF.F_STAT.STATE f) != 0 && (seamless s f || u8 (sGet (fun _ => []) s.fw.work.rx f) 5 == 3)

/-- Remove a path: its queue is flushed, its key cleared, and it is OFF. -/
def pathRemove (s : State) (f x : Nat) : State :=
  let q := rxQueue f x
  let s := if s.gq q = gqEmpty then s else galRefresh (galDiscard s q reasonFlushed)
  let s := dropPathKeys s f x
  let r := s.flow f
  let s := s.setFlow f { r with
    next := modifyAt r.next x (fun _ => none), bad := modifyAt r.bad x (fun _ => []), slot := none
    run := modifyAt r.run x (fun _ => 0), empty := modifyAt r.empty x (fun _ => 0) }
  s.setFld (pathFld f x) 0

/-- Restore a path: it waits, with its key written again; none where the key finds no place. -/
def pathRestore (s : State) (f x : Nat) : Option State :=
  let p := sGet (fun _ => []) s.fw.work.rx f
  let leg := sGet (fun _ => []) s.fw.legs f
  (placeKey s (keyWords f x (if x = 1 ∧ leg ≠ [] then leg else p))).map fun t => t.setFld (pathFld f x) 1

/-- RED.PATHS' body. -/
def redPathsBody (s : State) (p : List Byte) : CmdOut :=
  let f := u8 p 0
  let mask := u8 p 1
  if mask = 0 ∨ 3 < mask then refuse s stBadArg
  else if !madeSeamless s f then refuse s stWrongPhase
  else
    let old := s.fld (R.RXF.F_CFG.PATHS f)
    let s1 := (s.setFld (R.RXF.F_CFG.PATHS f) mask).setFldSh (R.RXF.F_CFG.PATHS f) mask
    match [0, 1].foldl (fun (t : Option State) x => t.bind fun t =>
        if nbit old x && !nbit mask x then some (pathRemove t f x)
        else if !nbit old x && nbit mask x then pathRestore t f x
        else some t) (some s1) with
    | none => refuse s stNoRes
    | some t => (stOk, [], t)

/-- RED_PATHS (R348). -/
def execRedPaths (ch tag : Nat) (s : State) : Out3 :=
  runCmd 0x0C01 (· == 2) (fun s p => blockLocked s bRXF || blockLocked s bRED || dxFlow s (u8 p 0)) redPathsBody ch tag s

/-! ### TXF.CREATE and TXF.DELETE (R224, R318, R321, R326, R327) -/

/-- The destination MAC address (R321): of a multicast group, as resolved for a unicast address, or the record's. -/
def destMac (p mac : List Byte) : List Byte :=
  let a := frAddr p
  if frAvtp p then a.take 6
  else if frV6 p then (if u8 a 0 = 0xFF then [0x33, 0x33] ++ a.drop 12 else mac.take 6 ++ List.replicate (6 - mac.length) 0)
  else if u8 a 0 / 16 = 0xE then [1, 0, 0x5E, byteOf (u8 a 1 % 128)] ++ (a.drop 2).take 2
  else mac.take 6 ++ List.replicate (6 - mac.length) 0

/-- The source MAC address (R321). -/
def srcMac (s : State) (p : List Byte) : List Byte :=
  let x := if frPath p 0 then 0 else 1
  beBytes 2 (s.fld (R.NET.MAC_HI.ADDR x) % 65536) ++ beBytes 4 (s.fld (R.NET.MAC_LO.ADDR x))

/-- The headers after Ethernet's (R321). `src` is the port's IP address; the TTL, DF, the UDP source port and the flow label
are the bits of `v`, which the spec leaves open (log 48). -/
def netHeader (s : State) (p src : List Byte) (v : Nat) : List Byte :=
  let fmt := u8 p 2
  let rate := s.fld (R.CLK.MCS_CFG.RATE (frMcs p))
  let ch := u8 p 1
  let dscp := u8 p 42
  let rtp := [0x80, byteOf (u8 p 40)] ++ List.replicate 6 0 ++ beBytes 4 (u32 p 36)
  let udp := beBytes 2 (bits v 16 16) ++ beBytes 2 (u16 p 32) ++ [0, 0, 0, 0]
  let pad (n : Nat) : List Byte := src.take n ++ List.replicate (n - src.length) 0
  if frAvtp p then
    let stream := (p.drop 24).take 8
    if fmt = 8 then
      [0, 0x80, 0, 0] ++ stream ++ List.replicate 8 0 ++ beBytes 2 (frData s p - 24) ++
        [0x5F, 0xA0, 0x3F, byteOf ch, 0, 0, 0x90, byteOf (amFdf rate), 0xFF, 0xFF]
    else
      let (code, width) := aafFormat fmt
      [2, 0x80, 0, 0] ++ stream ++ [0, 0, 0, 0] ++
        [byteOf code, byteOf (aafNsr rate * 16 + ch / 256), byteOf ch, byteOf width, 0, 0, 0, 0]
  else if frV6 p then
    [byteOf (0x60 + dscp / 4), byteOf (dscp % 4 * 64 + bits v 32 4)] ++ beBytes 2 (bits v 36 16) ++ [0, 0, 17, byteOf (bits v 0 8)] ++
      pad 16 ++ frAddr p ++ udp ++ rtp
  else
    [0x45, byteOf (dscp * 4), 0, 0, 0, 0, byteOf (bits v 8 1 * 64), 0, byteOf (bits v 0 8), 17, 0, 0] ++ pad 4 ++
      (frAddr p).take 4 ++ udp ++ rtp

/-- The template of a record (R321). -/
def txTemplate (s : State) (p mac src : List Byte) (v : Nat) : List Byte :=
  let et := if frAvtp p then 0x22F0 else if frV6 p then 0x86DD else 0x0800
  let tag := if u16 p 34 = 0xFFFF then [] else [0x81, 0] ++ beBytes 2 (u16 p 34)
  destMac p mac ++ srcMac s p ++ tag ++ beBytes 2 et ++ netHeader s p src v

/-- What a transmit record breaks (R223, R334). -/
def txRecordBad (s : State) (p : List Byte) : Bool :=
  frBad p false || !frFits s p || u32 p 8 != 0 || u32 p 12 != 0 || nbit (u8 p 6) 0 || frLane p != 0xFF ||
    (!frAvtp p && (decide (u8 p 40 < 96) || decide (127 < u8 p 40))) || decide (63 < u8 p 42) || decide (2 < u8 p 43) ||
    (u8 p 43 != 0 && !frAvtp p)

/-- F_CFG's image for a transmit record, without EN. -/
def txCfgImage (s : State) (p : List Byte) (prime : Bool) : Word :=
  insFlds 0 [(R.TXF.F_CFG.FORMAT 0, u8 p 2), (R.TXF.F_CFG.PTIME 0, u8 p 3), (R.TXF.F_CFG.MCS 0, frMcs p),
    (R.TXF.F_CFG.PATHS 0, u8 p 5), (R.TXF.F_CFG.AVTP 0, b2n (frAvtp p)), (R.TXF.F_CFG.CONCEAL 0, bits (u8 p 6) 4 2),
    (R.TXF.F_CFG.TIER 0, b2n prime), (R.TXF.F_CFG.CLASS 0, u8 p 43), (R.TXF.F_CFG.PTI 0, flowPti s (frMcs p) (u8 p 5))]

/-- A template's words. -/
def tmplImages (f : Nat) (t : List Byte) : List (Nat × Word) :=
  (List.range 32).map fun i => (R.TXF.F_TMPL.reg i f, BitVec.ofNat 32 (u32 t (4 * i)))

/-- The registers of a transmit record but F_PHASE. -/
def txImages (s : State) (p t : List Byte) (base : Nat) (prime : Bool) : List (Nat × Word) :=
  let f := u8 p 0
  tmplImages f t ++ [(R.TXF.F_CHAN.reg f, insFlds 0 [(R.TXF.F_CHAN.BASE 0, base), (R.TXF.F_CHAN.TLEN 0, t.length),
    (R.TXF.F_CHAN.CHANNELS 0, u8 p 1)]), (R.TXF.F_CFG.reg f, txCfgImage s p prime)]

/-- The slopes of both classes follow the admitted flows of each port (R327). -/
def shapeRefresh (s : State) : State :=
  let sum (s : State) (x c : Nat) : Nat :=
    (((portFlows s x).filter fun f => s.fld (R.TXF.F_CFG.CLASS f) == c).map (txKbps s)).sum
  let l := [(R.TXF.SHAPE_A.reg 0, sum s 0 1), (R.TXF.SHAPE_B.reg 0, sum s 0 2), (R.TXF.SHAPE_A.reg 1, sum s 1 1),
    (R.TXF.SHAPE_B.reg 1, sum s 1 2)]
  applyGroup (strobe (fwWrites s (l.map fun x => (x.1, BitVec.ofNat 32 x.2))) 0x80) 7

/-- TXF.CREATE's body: `mac` is the resolved address of a unicast destination, `src` the port's IP address. -/
def txCreateBody (mac src : List Byte) (s : State) (p : List Byte) : CmdOut :=
  let f := u8 p 0
  let m := frMcs p
  let mult := mcsMult s m
  let q := 512 + f
  if txRecordBad s p then refuse s stBadArg
  else if s.fld (R.TXF.F_STAT.STATE f) ≠ 0 ∨ !s.mcsRuns m then refuse s stWrongPhase
  else
    let (k, s0) := s.fresh
    let t := txTemplate s p mac src (Config.freeValue k).toNat
    match lowestBase (txRuns s) (firstIdent s) (u8 p 1 * mult) mult with
    | none => refuse s stNoRes
    | some base =>
      let trial := tryOut s0 (txImages s p t base false)
      match placeFlow trial f with
      | none => refuse s stNoRes
      | some (prime, a, e) =>
        let c := txCells trial f
        match reserve s0 q (3 * c) with
        | none => refuse s stNoMem
        | some s1 =>
          let s1 := qCapWrite s1 q (4 * c)
          let l := txImages s p t base prime ++
            [(R.TXF.F_PHASE.reg f, insFlds 0 [(R.TXF.F_PHASE.ALIGN 0, a), (R.TXF.F_PHASE.E_NS 0, e)])]
          let en := (R.TXF.F_CFG.EN f).ins 1 (txCfgImage s p prime)
          let s2 := applyGroup (strobe (fwWrite (fwWrites s1 l) (R.TXF.F_CFG.reg f) en) 0x80) 7
          if s2.fld (R.TXF.F_STAT.STATE f) = 0 then refuse s stNoRes
          else
            let s3 := shapeRefresh s2
            (stOk, leBytes 4 (3 * c) ++ leBytes 2 q ++ [0, 0] ++ leBytes 4 (launchPhase s3 f),
              { s3 with fw := { s3.fw with work := { s3.fw.work with tx := sPut (fun _ => []) s3.fw.work.tx f p } } })

/-- What forbids a command that writes a transmit flow. -/
def txLocked (s : State) (p : List Byte) : Bool := blockLocked s bTXF || blockLocked s bGAL || dxFlow s (u8 p 0)

/-- TXF_CREATE (R223, R224). -/
def execTxfCreate (ch tag : Nat) (mac src : List Byte) (s : State) : Out3 :=
  runCmd 0x0A00 (· == 48) txLocked (txCreateBody mac src) ch tag s

/-- Whether an entry in use has a destination among a transmit flow's identifiers. -/
def txNamed (s : State) (f : Nat) : Bool :=
  let b := s.fld (R.TXF.F_CHAN.BASE f)
  let e := b + s.fld (R.TXF.F_CHAN.CHANNELS f) * mcsMult s (s.fld (R.TXF.F_CFG.MCS f))
  (impListed s).any fun d => decide (b ≤ d) && decide (d < e) &&
    [(s.imp d).shadow, (s.imp d).cur.word].any fun w => impSrc w != 0xFFFF

/-- TXF.DELETE's body. -/
def txDeleteBody (s : State) (p : List Byte) : CmdOut :=
  let f := u8 p 0
  if s.fld (R.TXF.F_STAT.STATE f) = 0 ∨ txNamed s f = true then refuse s stWrongPhase
  else
    let w := (R.TXF.F_CFG.EN f).ins 0 (s.rdSh (R.TXF.F_CFG.reg f))
    let s1 := applyGroup (strobe (fwWrite s (R.TXF.F_CFG.reg f) w) 0x80) 7
    let s2 := shapeRefresh (qResWrite s1 (512 + f) 0)
    (stOk, [], { s2 with fw := { s2.fw with
      work := { s2.fw.work with tx := sPut (fun _ => []) s2.fw.work.tx f [] }, sap := sPut (fun _ => 0) s2.fw.sap f 0 } })

/-- TXF_DELETE (R224). -/
def execTxfDelete (ch tag : Nat) (s : State) : Out3 := runCmd 0x0A01 (· == 1) txLocked txDeleteBody ch tag s

/-! ### SDP (R224) -/

/-- The packet-time code whose packet holds the samples nearest to a time in ns (R300). -/
def sdpPtime (rate ns : Nat) : Option Nat :=
  let n := (ns * rateHz rate + 500000000) / 1000000000
  (List.range 6).find? fun c => ptSamples c rate == n

/-- The flow record of SDP.IMPORT's arguments and a media description; none where it describes no flow of this MCS. -/
def sdpRecord (s : State) (p : List Byte) (x : SdpText) (l : SdpLeg) (paths : Nat) : Option (List Byte) :=
  let rate := s.fld (R.CLK.MCS_CFG.RATE (u8 p 1))
  match (match l.conn with | some c => some c | none => x.conn), l.fmt, l.ptime.bind (sdpPtime rate) with
  | some (v6, a), some fmt, some pt =>
    if l.rate ≠ rateHz rate ∨ 65535 < l.port ∨ 127 < l.pt ∨ 255 < l.chans then none
    else
      some ([byteOf (u8 p 0), byteOf l.chans, byteOf fmt, byteOf pt, byteOf (u8 p 1), byteOf paths,
        byteOf (b2n v6 * 2 + u8 p 3 * 16), byteOf (u8 p 2)] ++ (p.drop 4).take 8 ++ a ++ leBytes 2 l.port ++ [0xFF, 0xFF] ++
        [0, 0, 0, 0, byteOf l.pt, 0xFF, 0, 0, 0, 0, 0, 0])
  | _, _, _ => none

/-- The records of a text: one media description, or two of a group DUP that differ in address and port alone. A single
one arrives on NETA (log 45). -/
def sdpRecords (s : State) (p : List Byte) (x : SdpText) : Option (List Byte × List Byte × Nat) :=
  match x.legs with
  | [l] => (sdpRecord s p x l 1).map fun r => (r, [], l.offset)
  | [b, a] =>
    if x.dup = [a.mid, b.mid] ∨ x.dup = [b.mid, a.mid] then
      (match sdpRecord s p x a 3, sdpRecord s p x b 3 with
       | some r, some q =>
         if r.take 16 = q.take 16 ∧ r.drop 36 = q.drop 36 ∧ a.offset = b.offset then some (r, q, a.offset) else none
       | _, _ => none)
    else none
  | _ => none

/-- A refusal of SDP.IMPORT: no cells, no queues, and the first line that is not supported, 0 where there is none. -/
def sdpRefusal (n : Nat) : List Byte := [0, 0, 0, 0, 0xFF, 0xFF, 0xFF, 0xFF] ++ leBytes 2 n

/-- Create the flow SDP.IMPORT describes. -/
def sdpCreate (s : State) (p : List Byte) : CmdOut :=
  let x := sdpRead (p.drop 12)
  match x.bad with
  | some n => (stBadArg, sdpRefusal n, s)
  | none =>
    match (if 7 < u8 p 1 ∨ 2 < u8 p 3 then none else sdpRecords s p x) with
    | none => (stBadArg, sdpRefusal 0, s)
    | some (r, leg, off) =>
      let o := rxCreate s r leg off
      if o.1 = stOk then (o.1, o.2.1 ++ [0, 0], o.2.2) else (o.1, if o.1 = stBadArg then sdpRefusal 0 else [], s)

/-- SDP_IMPORT (R224): what would be refused is refused at once; the flow is created by the time it ends. -/
def execSdpImport (ch tag : Nat) (s : State) : Out3 :=
  runAccepted 0x0B00 (fun n => decide (12 ≤ n) && decide (n ≤ 12 + 8192)) rxLocked (fun s p =>
    let o := sdpCreate s p
    (o.1, o.2.1, s)) ch tag s

/-- A free number for a text. -/
def freeText (s : State) (i : Nat) : List Byte := decText (Config.freeValue (s.freeCtr + i)).toNat

/-- One media description of a transmit flow. -/
def sdpMediaText (s : State) (f : Nat) (v6 : Bool) (dst src : List Byte) (port : Nat) (mid : Option Nat) : List Byte :=
  let b := template s f
  let h := l3At b
  let u := h + (if v6 then 40 else 20)
  let pt := u8 b (u + 9) % 128
  let fmt := s.fld (R.TXF.F_CFG.FORMAT f)
  let name := if fmt = 0 then ascii "L16" else if fmt = 1 then ascii "L24" else if fmt = 2 then ascii "L32" else ascii "AM824"
  let ip := if v6 then ascii "IP6 " else ascii "IP4 "
  let n := s.fld (R.TXF.F_CFG.PTI f)
  let gm := joinText (ascii "-") ((beBytes 8 ((gmOf s n).getD 0 0)).map fun x => hexByte x.toNat)
  lineText (ascii "m=audio " ++ decText port ++ ascii " RTP/AVP " ++ decText pt) ++
    lineText (ascii "c=IN " ++ ip ++ addrText v6 dst ++ (if v6 then [] else ascii "/" ++ decText (u8 b (h + 8)))) ++
    lineText (ascii "a=rtpmap:" ++ decText pt ++ ascii " " ++ name ++ ascii "/" ++
      decText (rateHz (s.fld (R.CLK.MCS_CFG.RATE (s.fld (R.TXF.F_CFG.MCS f))))) ++ ascii "/" ++
      decText (s.fld (R.TXF.F_CHAN.CHANNELS f))) ++
    lineText (ascii "a=ptime:" ++ ptimeText (s.fld (R.TXF.F_CFG.PTIME f))) ++
    lineText (ascii "a=ts-refclk:ptp=IEEE1588-2008:" ++ gm ++ ascii ":" ++ decText (s.fld (R.TIME.PTI_CFG.DOMAIN n))) ++
    lineText (ascii "a=mediaclk:direct=" ++ decText (s.fld (R.TXF.F_RTPOFF.VALUE f))) ++
    lineText (ascii "a=source-filter: incl IN " ++ ip ++ addrText v6 dst ++ ascii " " ++ addrText v6 src) ++
    (match mid with | some k => lineText (ascii "a=mid:" ++ decText k) | none => [])

/-- The SDP text of an RTP transmit flow (R224, R348): with the NETB override it has two media descriptions. The session's
identifiers and name are free (log 45). -/
def sdpText (s : State) (f : Nat) : List Byte :=
  let b := template s f
  let h := l3At b
  let v6 := etypeOf b == 0x86DD
  let src := if v6 then (b.drop (h + 8)).take 16 else (b.drop (h + 12)).take 4
  let dst := if v6 then (b.drop (h + 24)).take 16 else (b.drop (h + 16)).take 4
  let port := be16 b (h + (if v6 then 42 else 22))
  let two := s.flag (R.RED.TB_CFG.ACTIVE f) && s.fld (R.TXF.F_CFG.PATHS f) == 3
  let dst2 := (List.range 4).flatMap fun i => beBytes 4 (s.fld (R.RED.TB_ADDR.ADDR i f))
  let port2 := if s.fld (R.RED.TB_UDP.PORT f) = 0 then port else s.fld (R.RED.TB_UDP.PORT f)
  lineText (ascii "v=0") ++
    lineText (ascii "o=- " ++ freeText s 0 ++ ascii " " ++ freeText s 1 ++ ascii " IN " ++ (if v6 then ascii "IP6 " else ascii "IP4 ") ++
      addrText v6 src) ++
    lineText (ascii "s=" ++ freeText s 2) ++ lineText (ascii "t=0 0") ++
    (if two then lineText (ascii "a=group:DUP 1 2") else []) ++ sdpMediaText s f v6 dst src port (if two then some 1 else none) ++
    (if two then sdpMediaText s f v6 dst2 src port2 (some 2) else [])

/-- SDP_EXPORT (R224). RFC 8866 text describes no IEEE 1722 flow (log 45). -/
def execSdpExport (ch tag : Nat) (s : State) : Out3 :=
  runCmd 0x0B01 (· == 1) (fun s p => dxFlow s (u8 p 0)) (fun s p =>
    let f := u8 p 0
    if s.fld (R.TXF.F_STAT.STATE f) = 0 then refuse s stWrongPhase
    else if s.flag (R.TXF.F_CFG.AVTP f) then refuse s stBadArg
    else (stOk, sdpText s f, { s with freeCtr := s.freeCtr + 3 })) ch tag s

/-- SDP.ANNOUNCE's body. -/
def sdpAnnounceBody (s : State) (p : List Byte) : CmdOut :=
  let f := u8 p 0
  let n := u16 p 2
  if 1 < u8 p 1 ∨ n = 0 ∨ 300 < n then refuse s stBadArg
  else if s.fld (R.TXF.F_STAT.STATE f) = 0 then refuse s stWrongPhase
  else (stOk, [], { s with fw := { s.fw with sap := sPut (fun _ => 0) s.fw.sap f (if u8 p 1 = 1 then n else 0) } })

/-- SDP_ANNOUNCE (R224). -/
def execSdpAnnounce (ch tag : Nat) (s : State) : Out3 :=
  runCmd 0x0B02 (· == 4) (fun s p => dxFlow s (u8 p 0)) sdpAnnounceBody ch tag s

/-- SAP_ANNOUNCEMENT_TX (R224): an interval of an announced flow has passed. -/
def execSapAnnouncementTx (f : Nat) (s : State) : Out3 :=
  if sGet (fun _ => 0) s.fw.sap f = 0 ∨ s.fld (R.TXF.F_STAT.STATE f) = 0 ∨ !serving s then ok s
  else ok ({ s with freeCtr := s.freeCtr + 3 }.emit (.announce f (sdpText s f) false))

end Sys2Proof.Machine
end

