-- ==== Sys2Proof/Machine/CmdStk.lean ====
section
/-! DEFINITION. The commands STK, TWIN, GRD, DIAG and EVT (R225, R226), and the ends of accepted commands and passed
bounds (R198, R212). -/

namespace Sys2Proof.Machine

/-! ### STK (R225, R375, R385, R395) -/

/-- What STK.STATUS says of the device at a position: member state, quarantine reason, protocol minor, time offset. The own
offset is TOFF0, and the master's is 0 (R383); how a device knows another member's offset is not stated, so it is a free value
(log 49). -/
def memberStatus (s : State) (m : Nat) : List Byte :=
  if m = stkPos s then
    [byteOf (stkState s), byteOf (s.fld R.STK.ID.REASON), byteOf (s.fld R.STK.ID.MINOR), 0] ++ leBytes 4 (s.fld (R.STK.TOFF.NS 0))
  else
    match s.stk.devs.find? fun d => d.pos == m with
    | some d => [byteOf d.state, byteOf d.reason, byteOf d.minor, 0] ++
        leBytes 4 (if d.state = 5 then 0 else (Config.freeValue (s.freeCtr + m)).toNat)
    | none => List.replicate 8 0

/-- STK_STATUS (R225). -/
def execStkStatus (ch tag : Nat) (s : State) : Out3 :=
  runCmd 0x0D00 (· == 0) lockNone (fun s _ =>
    (stOk, [byteOf (stkPos s), byteOf (s.fld R.STK.ID.ROLE), byteOf (s.fld R.STK.MEMBERS.JOINED),
        byteOf (s.fld R.STK.MEMBERS.QUAR), byteOf (b2n s.stk.ring), 0, 0, 0] ++ (List.range 8).flatMap (memberStatus s),
      { s with freeCtr := s.freeCtr + 8 })) ch tag s

/-- STK.SET's body: a budget that, with the admitted blocks, would pass the limit of a link is refused (R395). -/
def stkSetBody (s : State) (p : List Byte) : CmdOut :=
  if !reservedZero p (0 :: span 4 4) ∨ 1 < u8 p 0 ∨ 19000 < u32 p 4 then refuse s stBadArg
  else if stkState s ≠ 5 then refuse s stWrongPhase
  else if !(linkFits s 0 22 (u32 p 4) && linkFits s 1 22 (u32 p 4)) then refuse s stNoRes
  else
    let v := insFlds (s.rdSh R.STK.CFG.reg) [(R.STK.CFG.RING, u8 p 0), (R.STK.CFG.FUN_BUDGET, u32 p 4)]
    (stOk, [], applyGroup (strobe (fwWrite s R.STK.CFG.reg v) 0x1000) 12)

/-- STK_SET (R225). -/
def execStkSet (ch tag : Nat) (s : State) : Out3 := runCmd 0x0D01 (· == 8) (lockBlock bSTK) stkSetBody ch tag s

/-! ### TWIN (R225, R400 to R413) -/

/-- TWIN.SET's body: the role and the link change only in NONE and PAIRING (R413), and no twin role is given in NATIVE+DX
(R427). -/
def twinSetBody (s : State) (p : List Byte) : CmdOut :=
  let role := u8 p 0
  let link := u8 p 1
  let ms := u16 p 4
  let old := s.rd R.TWIN.CFG.reg
  let v := insFlds (s.rdSh R.TWIN.CFG.reg) [(R.TWIN.CFG.ROLE, role), (R.TWIN.CFG.LINK, link), (R.TWIN.CFG.PROOF, u8 p 2)]
  if u8 p 3 ≠ 0 ∨ 2 < role ∨ 1 < link ∨ 15 < u8 p 2 ∨ (ms ≠ 0 ∧ (ms < 100 ∨ 60000 < ms)) ∨ (coDx s = true ∧ role ≠ 0) then
    refuse s stBadArg
  else if !stkUp s link ∨ (1 < twinState s ∧ (v ^^^ old) &&& 0xE0000000#32 ≠ 0) then refuse s stWrongPhase
  else
    let h := R.TWIN.HCFG.PERIOD_MS.ins ms (s.rdSh R.TWIN.HCFG.reg)
    (stOk, [], applyGroup (strobe (fwWrites s [(R.TWIN.CFG.reg, v), (R.TWIN.HCFG.reg, h)]) 0x2000) 13)

/-- TWIN_SET (R225). -/
def execTwinSet (ch tag : Nat) (s : State) : Out3 := runCmd 0x0E00 (· == 6) (lockBlock bTWIN) twinSetBody ch tag s

/-- A handover begins (R407). -/
def twinHandover (s : State) : State :=
  match execTwinCmdHandover (s.setFld R.TWIN.CMD.HANDOVER 1) with
  | .next t => t
  | _ => s

/-- TWIN.TAKEOVER's body: a standby decides in this cycle (R405, R406); an active device hands over to a standby that has
what it needs (R407). A standby that is already taking over has what was asked. -/
def twinTakeoverBody (s : State) (p : List Byte) : CmdOut :=
  let gen (s : State) : List Byte := leBytes 4 (s.fld R.TWIN.TAKEOVER_GEN.GEN)
  if 1 < u8 p 0 then refuse s stBadArg
  else if u8 p 0 = 0 then
    if twinState s = 4 then (stOk, gen s, s)
    else if !canDecide s then refuse s stWrongPhase
    else
      let t := twinTake (s.setFld R.TWIN.CMD.TAKE 1) 3
      (stOk, gen t, t)
  else if twinState s ≠ 2 ∨ s.fld R.TWIN.STAT.PARTNER ≠ 3 then refuse s stWrongPhase
  else (stOk, gen s, twinHandover s)

/-- TWIN_TAKEOVER (R225). -/
def execTwinTakeover (ch tag : Nat) (s : State) : Out3 :=
  runCmd 0x0E01 (· == 1) (fun s _ => hostOwns s bTWIN) twinTakeoverBody ch tag s

/-- TWIN.HEALTH's body: with PERIOD_MS 0 the score is formed at the command (R411; log 30). -/
def twinHealthBody (s : State) (p : List Byte) : CmdOut :=
  let n := u8 p 0
  if 8 < n then refuse s stBadArg
  else if n = 0 then
    let t := if twinState s ≠ 0 ∧ s.fld R.TWIN.HCFG.PERIOD_MS = 0 then healthClose s else s
    (stOk, healthPage t, t)
  else (stOk, (List.range 32).flatMap fun i => leBytes 4 (sGet (fun _ => 0) s.twin.hashMm (32 * (n - 1) + i)), s)

/-- TWIN_HEALTH (R225). -/
def execTwinHealth (ch tag : Nat) (s : State) : Out3 := runCmd 0x0E02 (· == 1) lockNone twinHealthBody ch tag s

/-! ### GRD (R225, R432 to R446) -/

/-- GRD.SET's body. -/
def grdSetBody (s : State) (p : List Byte) : CmdOut :=
  let ms := u16 p 2
  if !reservedZero p ([0] ++ span 2 4 ++ span 8 4) ∨ u8 p 0 = 0 ∨ 31 < u32 p 8 then refuse s stBadArg
  else
    let l := [(R.GRD.CTL.reg, insFlds (s.rdSh R.GRD.CTL.reg) [(R.GRD.CTL.TRIP_FRAMES, u8 p 0), (R.GRD.CTL.CLASSES, u32 p 8)]),
      (R.GRD.PROBE.reg, R.GRD.PROBE.REPROBE_MS.ins ms (s.rdSh R.GRD.PROBE.reg)),
      (R.GRD.AUTOSWAP.reg, R.GRD.AUTOSWAP.PORTS.ins (u16 p 4) (s.rdSh R.GRD.AUTOSWAP.reg))]
    if l.all fun x => fwTakes s x.1 x.2 then (stOk, [], applyGroup (strobe (fwWrites s l) 1) 0) else refuse s stBadArg

/-- A bitmap names a TDM port of the DX personality (R211). -/
def dxPorts (s : State) (ports : Nat) : Bool := coDx s && ports % 4 != 0

/-- GRD_SET (R225, R446). -/
def execGrdSet (ch tag : Nat) (s : State) : Out3 :=
  runCmd 0x0F00 (· == 12) (fun s p => blockLocked s bGRD || dxPorts s (u16 p 4)) grdSetBody ch tag s

/-- GRD_STATUS (R225, R444). -/
def execGrdStatus (ch tag : Nat) (s : State) : Out3 :=
  runCmd 0x0F01 (· == 2) (fun s p => u8 p 0 == 0 && dxPort s (u8 p 1)) (fun s p =>
    let i := u8 p 1
    if u8 p 0 = 0 ∧ i < 16 then (stOk, regBytes s (R.GRD.TDM_STAT.reg i) ++ regBytes s (R.GRD.TDM_CNT.reg i), s)
    else if u8 p 0 = 1 ∧ i < 6 then (stOk, regBytes s R.GRD.LANE_STAT.reg ++ regBytes s R.GRD.LANE_CNT.reg, s)
    else if u8 p 0 = 2 ∧ i < 8 then (stOk, regBytes s R.GRD.TIO_STAT.reg ++ regBytes s R.GRD.TIO_CNT.reg, s)
    else refuse s stBadArg) ch tag s

/-- The tripped pins GRD.REPROBE names: 6 x port + pin, and 96 + TIO pin. -/
def reprobePins (s : State) (ports tio : Nat) : List Nat :=
  ((List.range 96).filter fun k => nbit ports (k / 6) && tripped s (k / 6) (k % 6)) ++
    (((List.range 8).filter fun i => nbit tio i && nbit (s.fld R.GRD.TIO_STAT.TRIPPED) i).map (96 + ·))

/-- GRD_REPROBE (R225, R435): the tripped pins are probed at the next frame. -/
def execGrdReprobe (ch tag : Nat) (s : State) : Out3 :=
  runCmd 0x0F02 (· == 4) (fun s p => hostOwns s bGRD || dxPorts s (u16 p 0)) (fun s p =>
    if u8 p 3 ≠ 0 then refuse s stBadArg
    else
      let l := (reprobePins s (u16 p 0) (u8 p 2)).foldl (fun l k => insertNat k l) s.grd.reprobe
      (stOk, [], { s with grd := { s.grd with reprobe := l } })) ch tag s

/-! ### DIAG (R226, R156) -/

/-- A counter field of a register, with its shift. -/
def ctFields (r : RegRow) : List FieldRow := (r.fields.filter fun f => f.acc == .ct).mergeSort fun a b => decide (a.lo ≤ b.lo)

/-- The registers with counters of a block, by ascending offset. -/
def blockCounters (b : Nat) : List (Nat × RegRow) :=
  ((allRows.filter fun r => quoinOf r.base == some b || (decide (32 ≤ b) && decide (0x8000 ≤ r.base) && decide (r.base < 0x9000))).filter
    fun r => !(ctFields r).isEmpty).flatMap (fun r => ((List.range r.count).map fun i => (r.base + r.stride * i, r)).filter
      fun x => quoinOf x.1 == some b)

/-- The wide selectors that name 64-bit counters of a block (R316, R317, R334, R341, R373, R399). -/
def blockWides (b : Nat) : List Nat :=
  if b = bRXF then span 0x0C00 3
  else if b = bTXF then span 0x0D00 3
  else if b = bNETA then span 0x0E00 4
  else if b = bNETB then span 0x0E80 4
  else if b = bMGMT then span 0x0F00 4
  else if b = bRED then span 0x1000 2
  else if b = bHST then span 0x1100 3
  else if b = bSTK then span 0x1200 4
  else []

/-- One counter's entry: its id and its value. -/
def counterEntry (id v : Nat) : List Byte := leBytes 4 id ++ leBytes 8 v

/-- The items a 64-bit counter stands for: every flow, every host block, or the block itself. -/
def wideItems (w : Nat) : List Nat :=
  if w / 256 = 0x0C ∨ w / 256 = 0x0D ∨ w / 256 = 0x10 then List.range 256
  else if w = 0x1102 then selItems .hstB
  else [0]

/-- The value of a 64-bit counter of an item: what its selector reads while the block's selector names the item. -/
def wideAt (s : State) (w i : Nat) : Nat :=
  let k := w % 256
  if w / 256 = 0x0C then (if k = 2 then (s.flow i).bytes else (s.flow i).pkts.getD k 0) % 2 ^ 64
  else if w / 256 = 0x0D then (if k = 2 then (s.txf i).bytes else (s.txf i).pkts.getD k 0) % 2 ^ 64
  else if w / 256 = 0x10 then (s.flow i).copies.getD k 0 % 2 ^ 64
  else if w = 0x1102 then sGet (fun _ => 0) s.hstSlots i % 2 ^ 64
  else match wideValue s w with
    | some (l, _) => l.getD 0 0 + 2 ^ 32 * l.getD 1 0
    | none => 0

/-- The entries of a block's counters, by id; those of a selected item's register come for every item in turn (log 50). -/
def counterEntries (s : State) (b : Nat) : List (List Byte) :=
  ((blockCounters b).flatMap fun x => (selItems x.2.sel).flatMap fun i => (ctFields x.2).map fun f =>
    counterEntry x.1 (bits (s.rd (itemKey x.1 i)).toNat f.lo (f.hi - f.lo + 1))) ++
    (blockWides b).flatMap fun w => (wideItems w).map fun i => counterEntry (2 ^ 31 + w) (wideAt s w i)

/-- The bits of a register that are counters. -/
def ctMask (off : Nat) : Word :=
  match regFind off with
  | some (r, _) => r.mask fun f => f.acc == .ct
  | none => 0

/-- The SAT bits of a register: the block's SAT register, or the bit beside a counter (R156). -/
def satMask (off : Nat) : Word :=
  if [R.IMP.SAT.reg, R.GAL.SAT.reg, R.RXF.F_SAT.reg 0, R.TXF.F_SAT.reg 0, R.RED.F_SAT.reg 0, R.HST.SAT.reg, R.HST.B_SAT.reg 0, R.STK.SAT.reg,
      R.STK.B_SAT.reg 0, R.TWIN.SAT.reg, R.GRD.SAT.reg].contains off then 0xFFFFFFFF#32
  else if off = R.GAL.Q_STAT.reg 0 then (R.GAL.Q_STAT.Q_SAT 0).mask
  else if 0x8000 ≤ off ∧ off < 0x9000 ∧ off % 0x100 = (R.TDM.SAT.reg 0) % 0x100 then 0xFFFFFFFF#32
  else if 0xE000 ≤ off ∧ off < 0xF800 ∧ off % 0x800 = (R.NET.SAT.reg 0) % 0x800 then 0xFFFFFFFF#32
  else if 0xA400 ≤ off ∧ off < 0xB000 ∧ (off - 0xA400) % 12 = 4 then (R.KRN.L_STAT.SAT 0).mask
  else 0

/-- Clear the 64-bit counters of a block. -/
def clearWides (s : State) (b : Nat) : State :=
  let zero (p : Nat) (s : State) : State :=
    { s with net := modifyAt s.net p fun c => { c with rxFrames := 0, rxBytes := 0, txFrames := 0, txBytes := 0 } }
  if b = bRXF then { s with rxf := s.rxf.map fun p => (p.1, { p.2 with pkts := [0, 0], bytes := 0 }) }
  else if b = bTXF then { s with txs := s.txs.map fun p => (p.1, { p.2 with pkts := [0, 0], bytes := 0 }) }
  else if b = bNETA then zero 0 s
  else if b = bNETB then zero 1 s
  else if b = bMGMT then zero 2 s
  else if b = bRED then { s with rxf := s.rxf.map fun p => (p.1, { p.2 with copies := [0, 0] }) }
  else if b = bHST then { s with hstBytes := [0, 0], hstSlots := [] }
  else if b = bSTK then { s with stk := { s.stk with links := s.stk.links.map fun l => { l with txN := 0, rxN := 0 } } }
  else s

/-- Clear every counter of a block, with its SAT bits, for every item. -/
def clearBlockCounters (s : State) (b : Nat) : State :=
  let keys := (s.rf.map Prod.fst).filter fun k => quoinOf (k % 0x1000000) == some b
  let s := keys.foldl (fun s k => s.wr k (s.rd k &&& ~~~(ctMask (k % 0x1000000) ||| satMask (k % 0x1000000)))) s
  clearWides s b

/-- The bytes a command's result has room for (R186, R190, R192). -/
def resultRoom (s : State) (ch tag : Nat) : Nat :=
  if ch ≠ 2 then 240
  else match takenCmd s ch tag with
    | some c => if nbit c.flags 1 then max 48 c.bufSize else 48
    | none => 48

/-- The body of DIAG.SNAP_CLEAR and DIAG.COUNTERS: the count is of the entries that reach the user whole, and the response
cuts the rest (R209). -/
def countersBody (clear : Bool) (room : Nat) (s : State) (p : List Byte) : CmdOut :=
  if 2 ^ 19 ≤ u32 p 0 ∨ 65536 ≤ u32 p 4 then refuse s stBadArg
  else
    let bs := namedBlocks p
    let es := bs.flatMap (counterEntries s)
    let n := min es.length ((room - 4) / 12)
    (stOk, leBytes 2 n ++ leBytes 2 es.length ++ es.flatten, if clear then bs.foldl clearBlockCounters s else s)

/-- The blocks named include a TDM port of the DX personality (R211). -/
def dxBlocks (s : State) (p : List Byte) : Bool := dxPorts s (u32 p 4)

/-- DIAG_SNAP_CLEAR (R156, R226). -/
def execDiagSnapClear (ch tag : Nat) (s : State) : Out3 :=
  runCmd 0x1000 (· == 8) dxBlocks (countersBody true (resultRoom s ch tag)) ch tag s

/-- DIAG_COUNTERS (R226). -/
def execDiagCounters (ch tag : Nat) (s : State) : Out3 :=
  runCmd 0x1001 (· == 8) dxBlocks (countersBody false (resultRoom s ch tag)) ch tag s

/-- A port carries flows, PTP or stack traffic (R226): 0 NETA, 1 NETB, 2 STKU, 3 STKD. -/
def portBusy (s : State) (x : Nat) : Bool :=
  if x < 2 then
    (List.range 256).any (fun f => (s.fld (R.RXF.F_STAT.STATE f) != 0 && nbit (s.fld (R.RXF.F_CFG.PATHS f)) x) ||
      (s.fld (R.TXF.F_STAT.STATE f) != 0 && nbit (s.fld (R.TXF.F_CFG.PATHS f)) x)) ||
      (List.range 4).any fun n => s.flag (R.TIME.PTI_CFG.EN n) && nbit (s.fld (R.TIME.PTI_CFG.PORTS n)) x
  else s.flag R.STK.CFG.EN

/-- DIAG_LOOPBACK (R226). -/
def execDiagLoopback (ch tag : Nat) (s : State) : Out3 :=
  runCmd 0x1002 (· == 2) (fun s p => hostOwns s ([bNETA, bNETB, bSTK, bSTK].getD (u8 p 0) 0)) (fun s p =>
    let x := u8 p 0
    if 3 < x ∨ 2 < u8 p 1 then refuse s stBadArg
    else if portBusy s x then refuse s stWrongPhase
    else (stOk, [], { s with pins := { s.pins with loopback := modifyAt s.pins.loopback x fun _ => u8 p 1 } })) ch tag s

/-- DIAG_MARCH (R226, R289): its results come with its end. -/
def execDiagMarch (ch tag : Nat) (s : State) : Out3 :=
  runAccepted 0x1003 (· == 8) (fun s _ => hostOwns s bGAL)
    (fun s p => if !reservedZero p (0 :: span 4 4) ∨ 1 < u8 p 0 then refuse s stBadArg else (stOk, [], s)) ch tag s

/-- Bytes of the log area of the flash (R199). -/
def logSize : Nat := 0x2C0000

/-- A byte of the log; what firmware writes there is not stated (log 51). -/
def logByte (s : State) (off i : Nat) : Byte :=
  match s.flash.log[off + i]? with
  | some b => b
  | none => (Config.freeValue (s.freeCtr + i)).setWidth 8

/-- DIAG_LOG (R226). -/
def execDiagLog (ch tag : Nat) (s : State) : Out3 :=
  runCmd 0x1004 (· == 6) lockNone (fun s p =>
    let n := u16 p 4
    if logSize < u32 p 0 + n then refuse s stBadArg
    else (stOk, (List.range n).map (logByte s (u32 p 0)), { s with freeCtr := s.freeCtr + n })) ch tag s

/-! ### EVT (R194, R198, R226, R227) -/

/-- The slot queue after a fetch: once space has returned, one EVT_OVERFLOW stands for what was dropped (R194, R198). -/
def queueOverflow (s : State) (ch : Nat) : State :=
  let q := s.evtq ch
  if q.lost ≠ 0 ∧ q.queue.length + acceptedOn s ch < 32 then
    s.setEvtq ch { q with queue := q.queue ++ [overflowMsg s q], lost := 0 }
  else s

/-- EVT.FETCH's body: the oldest events, which leave the queue. -/
def evtFetchBody (ch : Nat) (s : State) (p : List Byte) : CmdOut :=
  let n := u8 p 0
  if n = 0 ∨ 3 < n then refuse s stBadArg
  else if ch = 2 then refuse s stWrongPhase
  else
    let q := s.evtq ch
    let l := q.queue.take n
    let s1 := s.setEvtq ch { q with queue := q.queue.drop n }
    let s2 := l.foldl (fun s m => if m.tag = 0 then s else forget s ch m.tag true) s1
    let s3 := queueOverflow s2 ch
    let bytes := l.flatMap fun m =>
      let cut := m.data.take 48
      ringEntry m (decide (48 < m.data.length)) false cut.length cut
    (stOk, [byteOf l.length, byteOf (min 255 (s3.evtq ch).queue.length), 0, 0] ++ bytes, s3)

/-- EVT_FETCH (R198, R226). -/
def execEvtFetch (ch tag : Nat) (s : State) : Out3 := runCmd 0x1100 (· == 1) lockNone (evtFetchBody ch) ch tag s

/-- The events a channel has enabled, as EVT.MASK's bits; bit 0 always reads 1. -/
def evtEnabled (s : State) (ch : Nat) : Nat :=
  (List.range 16).foldl (fun v k => if k = 0 ∨ !(s.evtq ch).masked.contains (0xE000 + 16 * k) then v + 2 ^ k else v) 0

/-- EVT_MASK (R226, R227). -/
def execEvtMask (ch tag : Nat) (s : State) : Out3 :=
  runCmd 0x1101 (· == 2) lockNone (fun s p =>
    let masked := ((List.range 16).filter fun k => k != 0 && !nbit (u16 p 0) k).map fun k => 0xE000 + 16 * k
    (stOk, leBytes 2 (evtEnabled s ch), s.setEvtq ch { s.evtq ch with masked := masked })) ch tag s

/-! ### Ends of accepted commands (R198, R212) -/

/-- An image being written is checked (R200, R201): 1 signature, 2 security version, 3 length, 0 good. `verify` is 0 where the
signature is not valid, else 1 and the security version. -/
def imageEnd (s : State) (ch tag verify : Nat) : State :=
  match s.fw.image with
  | none => endCmd s ch tag stWrongPhase []
  | some (n, b) =>
    let s := { s with fw := { s.fw with image := none } }
    let r := if b.length ≠ n ∨ imageFits n = false then 3 else if verify = 0 then 1 else if verify - 1 < s.flash.minSec then 2 else 0
    if r = 0 then
      endCmd { s with flash := { s.flash with trial := true, booted := false } } ch tag stOk [0, 0, 0, 0]
    else endCmd s ch tag stBadArg [byteOf r, 0, 0, 0]

/-- The free cells a march test takes: the lowest of a half (log 51). -/
def marchCells (s : State) (half n : Nat) : List CellNo :=
  let used := usedCells s
  (((List.range 65536).map fun i => (⟨half, i⟩ : CellNo)).filter fun c => !used.contains c && halfReady s half).take n

/-- DIAG.MARCH ends: the tested cells hold its pattern, which is not stated; without a failure no first failing cell is
stated. -/
def marchEnd (s : State) (ch tag half most tested failed first : Nat) : State :=
  let cells := marchCells s half (min most tested)
  let (k, s) := s.fresh
  let (j, s) := s.fresh
  let pat := leBytes 8 (Config.freeValue k).toNat
  let s := cells.foldl (fun s c => patCell s pat c) s
  let bad := min failed cells.length
  endCmd s ch tag stOk (leBytes 4 cells.length ++ leBytes 4 bad ++
    leBytes 4 (if bad = 0 then (Config.freeValue j).toNat else first))

/-- A slew has ended: the flow's offset is the new one, and the generation rises (R213, R224). -/
def offsetSlewEnd (s : State) (ch tag : Nat) (p : List Byte) : State :=
  let f := u8 p 0
  if (s.flow f).slew.isSome then s
  else
    let t := (s.setFld (R.RXF.F_OFFSET.SAMPLES f) (u32 p 4)).setFldSh (R.RXF.F_OFFSET.SAMPLES f) (u32 p 4)
    endCmd (finishGen (recordWork s t) 0x0902 ch) ch tag stOk []

/-- SDP.IMPORT creates its flow. -/
def sdpImportEnd (s : State) (ch tag : Nat) (p : List Byte) : State :=
  let o := settle s 0x0B00 ch (sdpCreate s p)
  endCmd (if o.1 = stOk then follow s o.2.2 else s) ch tag o.1 o.2.1

/-- RT.SET is given up: its platen is disarmed and the shadows are the working forme's again (R212). -/
def routeDrop (s : State) : State :=
  match s.fw.route with
  | none => s
  | some (k, _, _) =>
    let s := (s.setFld (R.TIME.PL_CFG.ARM k) 0).setPl k { s.pl k with owner := 0 }
    let s := (impListed s).foldl (fun s d => s.setImp d { s.imp d with shadow := workImp s d }) s
    { s with fw := { s.fw with route := none } }

/-- A command ends without having done its work (R212): an apply rolls back and ends itself. -/
def dropCmd (s : State) (c : Cmd) (status : Nat) : State :=
  let s := if s.fw.edit.any (fun e => e.1 == c.chan && e.2.1 == c.tag) then { s with fw := { s.fw with edit := none } } else s
  if c.phase = .accepted ∧ c.opcode = 0x0304 ∧ s.fw.apply.isSome then abortApply s status
  else if c.phase = .accepted ∧ c.opcode = 0x0700 then endCmd (routeDrop s) c.chan c.tag status []
  else if c.phase = .taken ∧ c.opcode = 0x0902 ∧ u8 c.payload 1 = 0 then
    let ds := stepEntries s (stepMembers s (u8 c.payload 0))
    let s := strobe (ds.foldl (fun s d => s.setImp d { s.imp d with shadow := workImp s d }) s) 2
    endCmd s c.chan c.tag status []
  else endCmd s c.chan c.tag status []

/-- The working forme is stored (R416); a member's becomes its new base, with an empty diff (R390). -/
def formeStored (s : State) (slot : Nat) : State :=
  let b := s.fw.work.image
  let s := { s with flash := { s.flash with formes := modifyAt s.flash.formes slot fun _ => b } }
  if stkMember s then stkTell s (.stored slot (u32 b 8) (u32 b 16)) else s

/-- ACCEPTED_COMMAND_END (R198, R212): an accepted command has done its work. `hw` says that the hardware failed it,
`verify` what the check of an image found, and `tested`, `failed` and `first` what a march test found. The ends of
FRM.APPLY and of RT.SET come with their last epoch and their fire; those of TDM.STOP and of a slew wait for what they
stopped. -/
def execAcceptedCommandEnd (ch tag : Nat) (hw : Bool) (verify tested failed first : Nat) (s : State) : Out3 :=
  match acceptedCmd s ch tag with
  | none => ok s
  | some c =>
    let p := c.payload
    let done := endCmd s ch tag stOk
    if !serving s then ok s
    else if hw then ok (dropCmd s c stHw)
    else if c.opcode = 0x0104 then
      ok (endCmd { s with
        fw := { s.fw with image := some (u32 p 0, []) }
        flash := { s.flash with images := modifyAt s.flash.images (idleImage s) fun _ => [] } } ch tag stOk [])
    else if c.opcode = 0x0106 then ok (imageEnd s ch tag verify)
    else if c.opcode = 0x0107 then
      let s1 := { s with flash := { s.flash with active := 1 - s.flash.active % 2, trial := false, booted := false } }
      ok (endCmd (s1.setFld R.MBX.BOOT_INFO.TRIAL 0) ch tag stOk [])
    else if c.opcode = 0x0302 then
      let b := s.flash.formes.getD (u8 p 0) []
      ok (endCmd { s with fw := { s.fw with staging := b } } ch tag stOk (leBytes 4 b.length ++ leBytes 4 (u32 b 8)))
    else if c.opcode = 0x0305 then
      ok (endCmd (formeStored s (u8 p 0)) ch tag stOk [])
    else if c.opcode = 0x0306 then
      ok (endCmd { s with flash := { s.flash with bootOv := if u8 p 0 = 0xFF then none else some (u8 p 0) } } ch tag stOk [])
    else if c.opcode = 0x0602 then
      ok (if (namedDirs (u16 p 0) (u16 p 2)).all fun i => decide (s.tdmState (dirPort i) (dirRx i) ≤ tdmReady) then done [] else s)
    else if c.opcode = 0x0902 then ok (offsetSlewEnd s ch tag p)
    else if c.opcode = 0x0B00 then ok (sdpImportEnd s ch tag p)
    else if c.opcode = 0x1003 then ok (marchEnd s ch tag (u8 p 0) (u32 p 4) tested failed first)
    else ok s

/-- COMMAND_BOUND_TIMEOUT (R212): a command has passed its bound. A G command leaves the working forme and the generation
as they were; any other keeps what it has changed. -/
def execCommandBoundTimeout (ch tag : Nat) (s : State) : Out3 :=
  match s.mbx.cmds.find? fun c => c.chan == ch && c.tag == tag && c.phase != .done with
  | none => ok s
  | some c => ok (if serving s then dropCmd s c stTimeout else s)

end Sys2Proof.Machine
end

