-- ==== Sys2Proof/Machine/Dx.lean ====
section
/-! DEFINITION. The Drinto DX64 personality (R447 to R463): DX frames, the window's refresh, what firmware makes of its cells,
and discovery. -/

namespace Sys2Proof.Machine

/-- Change the DX record. -/
def State.setDxr (s : State) (f : Dx → Dx) : State := { s with dx := f s.dx }

/-- The window is served (R449, R450): not before the boot ROM runs, nor asleep or waking. -/
def dxServes (s : State) : Bool :=
  s.domOn 1 && !s.pwr.starting && (s.flag R.CLK.PLL_STAT.SYS_LOCK || s.flag R.CLK.PLL_STAT.CORE_SLOW) &&
    !(s.pstate == 2 || s.pstate == 3 || s.pstate == 10) && s.dxPresent

/-- Firmware runs the window (R452). -/
def dxLive (s : State) : Bool :=
  s.dxPresent && s.domOn 1 && s.mbx.restart == 0 && s.flag R.MBX.STAT.FW_READY

/-- DX_EMULATE_TIMING (R461). -/
def dxEmulates (s : State) : Bool := s.flag R.DXW.CFG.DX_EMULATE_TIMING

/-- DX_CTRL's RUN, while no SOFT_RESET is under way. -/
def dxRun (s : State) : Bool := nbit (s.dxCell 0x010) 0 && !s.dx.softRst

/-! ### Cells (R453, R454) -/

/-- Addresses of a receive flow's and a transmit flow's cells, and of a TDM port's. -/
def rxCell (f i : Nat) : Nat := 0x080 + 16 * f + i
def txCell (f i : Nat) : Nat := 0x100 + 16 * f + i
def tdmCell (p i : Nat) : Nat := 0x040 + 32 * p + i

/-- The RW cells. -/
def dxRw (a : Nat) : Bool :=
  a == 0x010 || a == 0x011 || a == 0x021 || a == 0x040 || a == 0x060 ||
    (decide (0x080 ≤ a) && decide (a < 0x180) && decide (a % 16 ≤ 4)) || (decide (0x180 ≤ a) && decide (a < 0x200))

/-- The RC cells. -/
def dxRc (a : Nat) : Bool :=
  a == 0x020 || a == 0x042 || a == 0x062 || a == 0x200 ||
    (decide (0x080 ≤ a) && decide (a < 0x100) && (a % 16 == 6 || a % 16 == 7)) ||
    (decide (0x100 ≤ a) && decide (a < 0x180) && a % 16 == 6)

/-- What an RW cell takes of a word; none where the word names a reserved value, which is ignored entirely (R454). -/
def dxTakes (s : State) (a v : Nat) : Option Nat :=
  if a = 0x010 then (if 2 ≤ bits v 1 2 then none else some (v &&& 0x009F))
  else if a = 0x011 then some (v &&& 0x00FF)
  else if a = 0x021 then some (v &&& (if dxStrict s then 0x03FF else 0x83FF))
  else if a = 0x040 ∨ a = 0x060 then
    (if bits v 9 2 = 3 ∨ v % 4 = 3 then none
     else some (if v % 4 = 0 then v &&& 0x07FF else (v &&& 0x060F) ||| 0x10))
  else if a < 0x180 then
    (if a % 16 = 0 then (if 8 ≤ bits v 4 4 then none else some (v &&& 0x00F5))
     else if a % 16 = 4 then
       (if a < 0x100 then
          (let lo := if nbit (s.dxCell (a - 4)) 2 then 195 else 51
           if v < lo ∨ 960 < v then none else some v)
        else some (v &&& 0x3FFF))
     else some v)
  else if bits v 14 2 = 3 then none
  else some (v &&& 0xC03F)

/-- A DX host writes a word (R449, R451). -/
def dxWrite (s : State) (a v : Nat) : State :=
  if !dxRw a then s
  else
    match dxTakes s a v with
    | none => s
    | some x =>
      let ctrl := decide (a = 0x010)
      let idle := ctrl && !(nbit (s.dxCell 0x010) 0 && nbit x 0)
      let soft := ctrl && nbit x 7
      let s1 := (s.setDx a (if ctrl && s.dx.softRst then x ||| 0x80 else x)).setFld R.DXW.STAT.WRITE_EV 1
      s1.setDxr fun d => { d with
        dirty := insertNat a d.dirty
        rate := if idle then bits x 1 2 else d.rate
        softAt := if soft && !d.softRst then d.count else d.softAt
        softRst := d.softRst || soft }

/-- A DX host reads a word (R449, R456): an RC cell gives its bits and clears them. -/
def dxRead (s : State) (a : Nat) : Nat × State :=
  let v := dxView s a
  (v, if dxListed a && dxRc a then s.setDx a 0 else s)

/-- A frame is malformed (R449). -/
def dxBadFrame (s : State) : State :=
  let s := (s.count R.DXW.STAT.FRAME_ERR).setFld R.DXW.STAT.FRAME_EV 1
  if s.fld R.DXW.STAT.FRAME_ERR = 255 then s.setFld R.DXW.STAT.SAT (setBit (s.fld R.DXW.STAT.SAT) 1 true) else s

/-- Read words: what CTL_MISO carries for the clocked bytes. -/
def dxReads : Nat → Bool → Nat → State → List Byte × State
  | 0, _, _, s => ([], s)
  | n + 1, inc, a, s =>
    let (v, s) := dxRead s a
    let (l, t) := dxReads n inc (if inc then (a + 1) % 65536 else a) s
    (beBytes 2 v ++ l, t)

/-- Write words. -/
def dxWrites : Nat → Bool → Nat → List Byte → State → State
  | 0, _, _, _, s => s
  | n + 1, inc, a, b, s => dxWrites n inc (if inc then (a + 1) % 65536 else a) (b.drop 2) (dxWrite s a (be16 b 0))

/-- DX_SPI_FRAME (R449, R450): the bytes clocked in a frame; `bits_` says that it ended inside a byte. A word begun by a
read is read at its first bit (R456). -/
def execDxSpiFrame (mosi : List Byte) (bits_ : Bool) (s : State) : Out3 :=
  if !dxServes s then ok (s.emit .ctlHighZ)
  else if mosi.length < 3 then ok ((dxBadFrame s).emit (.ctlTx (List.replicate mosi.length 0)))
  else
    let data := mosi.drop 3
    let part := data.length % 2 = 1 ∨ bits_ = true
    let a := be16 mosi 1
    let inc := nbit (u8 mosi 0) 6
    let s1 := if part then dxBadFrame s else s
    if nbit (u8 mosi 0) 7 then
      let (l, s2) := dxReads ((data.length + b2n bits_ + 1) / 2) inc a s1
      ok (s2.emit (.ctlTx (List.replicate 3 0 ++ l.take data.length)))
    else
      ok ((dxWrites (data.length / 2) inc a data s1).emit (.ctlTx (List.replicate mosi.length 0)))

/-! ### The DX PTI and MCS (R448) -/

/-- The DX PTI's CFG follows DX_CTRL and DX_PTP_DOMAIN. -/
def dxPtiApply (s : State) : State :=
  let n := s.dx.pti
  let v := insFlds (s.rdSh (R.TIME.PTI_CFG.reg n)) [(R.TIME.PTI_CFG.EN n, b2n (nbit (s.dxCell 0x010) 3 && !s.dx.softRst)),
    (R.TIME.PTI_CFG.PROFILE n, 2), (R.TIME.PTI_CFG.DOMAIN n, s.dxCell 0x011), (R.TIME.PTI_CFG.PORTS n, 4),
    (R.TIME.PTI_CFG.ROLE n, 1), (R.TIME.PTI_CFG.TWO_STEP n, 1)]
  if v = s.rdSh (R.TIME.PTI_CFG.reg n) then s else strobe (fwWrite s (R.TIME.PTI_CFG.reg n) v) 8

/-- The DX MCS runs at the DX rate from the DX PTI; a change that R95 holds back waits. -/
def dxMcsApply (s : State) : State :=
  let n := s.dx.mcs
  let key := R.CLK.MCS_CFG.reg n
  let v := insFlds (s.rdSh key) [(R.CLK.MCS_CFG.EN n, 1), (R.CLK.MCS_CFG.RATE n, 1 - s.dx.rate),
    (R.CLK.MCS_CFG.REF_TYPE n, 1), (R.CLK.MCS_CFG.REF_ID n, s.dx.pti)]
  if v = s.rdSh key ∨ mcsHeldBack s n v = true then s else strobe (fwWrite s key v) 4

/-- MGMT carries the 4 ms packets (R459). -/
def dxPortApply (s : State) : State :=
  let f := R.NET.CFG.MAX_DATA 2
  if s.fldSh f = 9000 then s else applyGroup (strobe (fwWrite s f.key (f.ins 9000 (s.rdSh f.key))) 0x400) 10

/-! ### Flows (R448, R454, R459) -/

/-- A flow's CTRL cell: channels, packet-time code, enabled. -/
def dxChans (s : State) (ctrl : Nat) : Nat := bits (s.dxCell ctrl) 4 4 + 1
def dxPtime (s : State) (ctrl : Nat) : Nat := if nbit (s.dxCell ctrl) 2 then 5 else 4
def dxWant (s : State) (ctrl : Nat) : Bool := dxRun s && nbit (s.dxCell ctrl) 0

/-- Link offset and depth of a receive flow: the depth is the offset plus one packet period, in whole us. -/
def dxDepth (s : State) (f : Nat) : Nat :=
  let fs := s.mcsFs s.dx.mcs
  (s.dxCell (rxCell f 4) * 1000000 + fs - 1) / max 1 fs + (if dxPtime s (rxCell f 0) = 5 then 4000 else 1000)

/-- The flow record of a DX flow (R223, R454): paths none. -/
def dxRecord (s : State) (rx : Bool) (f : Nat) : List Byte :=
  let c := if rx then rxCell f 0 else txCell f 0
  [byteOf f, byteOf (dxChans s c), 1, byteOf (dxPtime s c), byteOf s.dx.mcs, 0, 0, 0xFF] ++
    leBytes 4 (if rx then s.dxCell (rxCell f 4) else 0) ++ leBytes 4 (if rx then dxDepth s f else 0) ++
    beBytes 2 (s.dxCell (c + 1)) ++ beBytes 2 (s.dxCell (c + 2)) ++ List.replicate 12 0 ++ leBytes 2 (s.dxCell (c + 3)) ++
    [0xFF, 0xFF, 0, 0, 0, 0, byteOf (if rx then 0 else 96), 0xFF,
      byteOf (if rx then 0 else bits (s.dxCell (c + 4)) 8 6), 0, 0, 0, 0, 0]

/-- Start a DX receive flow; none where a native admission rule fails. Its queue lies in GAL1. -/
def dxRxCreate (s : State) (f : Nat) : Option State :=
  let p := dxRecord s true f
  let q := 2 * f
  let l := rxImages s p (8 * f) 0
  let s0 := qCfgWrite s q false 2
  (reserve s0 q (rxCells (tryOut s0 l) f)).bind fun s1 => (placeKey s1 (keyWords f 2 p)).bind fun s2 =>
    let en := (R.RXF.F_CFG.EN f).ins 1 (rxCfgImage s p)
    let s3 := applyGroup (strobe (fwWrite (fwWrites s2 l) (R.RXF.F_CFG.reg f) en) 0x40) 6
    if s3.fld (R.RXF.F_STAT.STATE f) = 0 then none
    else some (s3.emit (.dxJoin ((p.drop 16).take 4)))

/-- Stop a DX receive flow. -/
def dxRxStop (s : State) (f : Nat) : State :=
  let w := (R.RXF.F_CFG.EN f).ins 0 (s.rdSh (R.RXF.F_CFG.reg f))
  let s := applyGroup (strobe (fwWrite s (R.RXF.F_CFG.reg f) w) 0x40) 6
  let s := dropPathKeys (qResWrite s (2 * f) 0) f 2
  s.setDxr fun d => { d with pktAt := sPut (fun _ => 0) d.pktAt f 0 }

/-- The template of a DX transmit flow (R321, R454): 54 bytes from MGMT. The MGMT port's IP address, the MAC address a unicast
destination resolves to and the open header fields are free values (log 48). -/
def dxTemplate (s : State) (p : List Byte) (v a b ttl : Nat) : List Byte :=
  let mac := beBytes 2 (s.fld (R.NET.MAC_HI.ADDR 2) % 65536) ++ beBytes 4 (s.fld (R.NET.MAC_LO.ADDR 2))
  destMac p (beBytes 6 b) ++ mac ++ [0x08, 0x00] ++ netHeader s p (beBytes 4 a) (v / 256 * 256 + ttl)

/-- Start a DX transmit flow. -/
def dxTxCreate (s : State) (f : Nat) : Option State :=
  let p := dxRecord s false f
  let q := 512 + f
  let n := s.freeCtr
  let t := dxTemplate s p (Config.freeValue n).toNat (Config.freeValue (n + 1)).toNat (Config.freeValue (n + 2)).toNat
    (s.dxCell (txCell f 4) % 256)
  let s0 := qCfgWrite { s with freeCtr := n + 3 } q false 2
  let trial := tryOut s0 (txImages s p t (8 * f) false)
  match placeFlow trial f with
  | none => none
  | some (prime, a, e) =>
    let c := txCells trial f
    match reserve s0 q (3 * c) with
    | none => none
    | some s1 =>
      let s1 := qCapWrite s1 q (4 * c)
      let l := txImages s p t (8 * f) prime ++ [(R.TXF.F_PHASE.reg f, insFlds 0 [(R.TXF.F_PHASE.ALIGN 0, a), (R.TXF.F_PHASE.E_NS 0, e)]),
        (R.TXF.F_RTPOFF.reg f, 0)]
      let en := (R.TXF.F_CFG.EN f).ins 1 (txCfgImage s p prime)
      let s2 := applyGroup (strobe (fwWrite (fwWrites s1 l) (R.TXF.F_CFG.reg f) en) 0x80) 7
      if s2.fld (R.TXF.F_STAT.STATE f) = 0 then none else some s2

/-- Stop a DX transmit flow. -/
def dxTxStop (s : State) (f : Nat) : State :=
  let w := (R.TXF.F_CFG.EN f).ins 0 (s.rdSh (R.TXF.F_CFG.reg f))
  qResWrite (applyGroup (strobe (fwWrite s (R.TXF.F_CFG.reg f) w) 0x80) 7) (512 + f) 0

/-- A DX configuration failed a native admission rule (R454): CFG_ERR with the next refresh; it is not tried again before it is
written again. -/
def dxFailed (s : State) (i : Nat) : State :=
  s.setDxr fun d => { d with events := d.events ||| 0x200, failed := insertNat i d.failed }

/-- A flow follows its cells: `i` is its number among the DX items, 0 to 7 receive, 8 to 15 transmit. A running flow whose
cells changed is stopped and started anew; where that fails it runs on as it was. -/
def dxFlow1 (s : State) (i : Nat) : State :=
  let rx := decide (i < 8)
  let f := i % 8
  let c := if rx then rxCell f 0 else txCell f 0
  let on := s.fld (if rx then R.RXF.F_STAT.STATE f else R.TXF.F_STAT.STATE f) != 0
  let touched := s.dx.dirty.any fun a => decide (c ≤ a) && decide (a ≤ c + (if rx then 4 else 3))
  let stop (s : State) : State := if rx then dxRxStop s f else dxTxStop s f
  if !dxWant s c then (if on then stop s else s)
  else if (on && !touched) || !s.mcsRuns s.dx.mcs || s.dx.failed.contains i then s
  else
    let s0 := if on then stop s else s
    match (if rx then dxRxCreate s0 f else dxTxCreate s0 f) with
    | some t => t
    | none => dxFailed s i

/-! ### TDM ports (R454) -/

/-- Register images of one direction of a DX port. -/
def dxTdmImages (s : State) (p : Nat) (rx : Bool) : List (Nat × Word) :=
  let c := s.dxCell (tdmCell p 0)
  let fmt := [2, 0, 1, 2].getD (c % 4) 2
  let slots := bits c 4 5 + 1
  let width := [32, 24, 16, 32].getD (bits c 9 2) 32
  [((td (R.TDM.TX_FMT.EN p) rx).key, insFlds 0 [(R.TDM.TX_FMT.EN p, 1), (R.TDM.TX_FMT.MASTER p, bits c 2 1),
      (R.TDM.TX_FMT.FORMAT p, fmt), (R.TDM.TX_FMT.MCS p, s.dx.mcs), (R.TDM.TX_FMT.FS_INV p, bits c 3 1),
      (R.TDM.TX_FMT.ALIGN p, 15)]),
    ((td (R.TDM.TX_FRAME.SLOTS p) rx).key, insFlds 0 [(R.TDM.TX_FRAME.SLOTS p, slots), (R.TDM.TX_FRAME.WIDTH p, width),
      (R.TDM.TX_FRAME.OFFSET p, b2n (fmt == 0)), (R.TDM.TX_FRAME.FS_WIDTH p, 1)]),
    ((td (R.TDM.TX_LEAD.LEAD_IN p) rx).key, insFlds 0 [(R.TDM.TX_LEAD.LEAD_OUT p, 2), (R.TDM.TX_LEAD.LEAD_IN p, 2)]),
    ((td (R.TDM.TX_MASK.SLOTS p) rx).key, BitVec.ofNat 32 (2 ^ slots - 1))]

/-- The directions of the DX ports. -/
def dxDirs : List (Nat × Bool) := [(0, false), (0, true), (1, false), (1, true)]

/-- A direction's active registers are what its port's cell asks for. -/
def dxTdmMeets (s : State) (d : Nat × Bool) : Bool := (dxTdmImages s d.1 d.2).all fun x => s.rd x.1 == x.2

/-- A direction follows its port's cell: stopped where it may not run or must change, configured where it stands. -/
def dxDir1 (s : State) (d : Nat × Bool) : State :=
  let s := if (!dxRun s || !dxTdmMeets s d) && decide (tdmReady < s.tdmState d.1 d.2) then cmdWrite s d.1 d.2 2#32 else s
  if dxTdmMeets s d || decide (tdmReady < s.tdmState d.1 d.2) then s
  else applyGroup (strobe (fwWrites s (dxTdmImages s d.1 d.2)) 0x10) 4

/-- Both ports start together from one platen (R454): 0.5 ms ahead, or once 100 ms of RUN have passed (R455; log 52). -/
def dxTdmStart (s : State) : State :=
  let ds := dxDirs.filter fun d => s.tdmState d.1 d.2 == tdmReady && dxTdmMeets s d
  let early := dxEmulates s && decide (s.dx.count < s.dx.runAt.getD s.dx.count + 100)
  if !dxRun s || ds.isEmpty || early || !s.mcsRuns s.dx.mcs || s.dx.failed.contains 16 then s
  else
    match freePlaten s with
    | none => s
    | some k =>
      let s1 := ds.foldl (fun s d => cmdWrite s d.1 d.2 1#32) s
      if ds.any fun d => s1.tdmState d.1 d.2 != tdmArmed then
        dxFailed (ds.foldl (fun s d => cmdWrite s d.1 d.2 2#32) s1) 16
      else firePlaten s1 k s.dx.pti (s.ptiRaw s.dx.pti + 500000 * nsUnit) (2 ^ 25 + 15 * 2 ^ 16)

/-! ### Routes (R457) -/

/-- The source a route word names. -/
def dxSource (w : Nat) : Nat :=
  if bits w 14 2 = 1 then w % 64 else if bits w 14 2 = 2 then 0x800 + w % 64 else 0x1E00

/-- A route's destination is silent until the DX64 would let it play (R461). -/
def dxMuted (s : State) (w : Nat) : Bool :=
  dxEmulates s && (s.dxCell 0x030 != 2 || (bits w 14 2 == 1 && !nbit (s.dxCell (rxCell (w % 64 / 8) 5)) 0))

/-- The imposition word of route `i` of 128; while its destination or source does not exist the entry names none. -/
def dxRouteWord (s : State) (i : Nat) : Nat × Word :=
  let d := if i < 64 then 0x800 + i else i - 64
  let w := s.dxCell (0x180 + i)
  let v := BitVec.ofNat 32 (dxSource w * 65536 + 2 * b2n (dxMuted s w))
  (d, if (impJudge s d v).isNone then v else 0xFFFF0000#32)

/-- The routes follow their cells. -/
def dxRoutes (s : State) : State :=
  let l := ((List.range 128).map (dxRouteWord s)).filter fun x => (s.imp x.1).shadow != x.2
  if l.isEmpty then s else strobe (l.foldl (fun s x => impWrite s x.1 x.2) s) 2

/-! ### The refresh (R452, R454 to R456) -/

/-- Firmware applies what the DX host has written. -/
def dxApply (s : State) : State :=
  let run := dxRun s
  let again (i : Nat) : Bool := s.dx.dirty.any fun a =>
    a == 0x010 || (if i < 8 then decide (rxCell i 0 ≤ a) && decide (a ≤ rxCell i 4)
      else if i < 16 then decide (txCell (i - 8) 0 ≤ a) && decide (a ≤ txCell (i - 8) 4) else a == 0x040 || a == 0x060)
  let s := s.setDxr fun d => { d with
    failed := d.failed.filter fun i => !again i
    runAt := if !run then none else if d.runAt.isSome then d.runAt else some d.count }
  let s := dxMcsApply (dxPtiApply (dxPortApply s))
  let s := (List.range 16).foldl dxFlow1 s
  let s := dxTdmStart (dxDirs.foldl dxDir1 s)
  (dxRoutes s).setDxr fun d => { d with dirty := [] }

/-- DX_LOCK (R453, R455; log 53). -/
def dxLock (s : State) : Nat :=
  let m := s.mcsState s.dx.mcs
  let early := dxEmulates s && (match s.dx.annAt with
    | some t => decide (s.dx.count < t + 10000)
    | none => true)
  if s.flag (R.TIME.PTI_STAT.LOCKED s.dx.pti) ∧ m = mcsLocked then (if early then 1 else 2)
  else if m = mcsHold then 3
  else if s.fld (R.TIME.PTI_PORT_STATE.MGMT s.dx.pti) = 2 ∨ s.fld (R.TIME.PTI_PORT_STATE.MGMT s.dx.pti) = 3 then 1
  else 0

/-- DX_RXf_STAT. -/
def dxRxStat (s : State) (f : Nat) : Nat :=
  let st := s.fld (R.RXF.F_STAT.STATE f)
  let early := dxEmulates s && decide (s.dx.count < sGet (fun _ => 0) s.dx.pktAt f - 1 + 500)
  b2n (st == 2 && !early) + 2 * b2n (st == 3 || (st == 1 && s.dx.played.contains f))

/-- The cells of a snapshot that show a state. -/
def dxStates (s : State) : List (Nat × Nat) :=
  let gm := (s.pti s.dx.pti).gmData.getD 0 0
  [(0x030, dxLock s), (0x031, ofSigned 16 (clampInt (-32767) 32767 (s.fldInt (R.TIME.PTI_OFFSET.NS s.dx.pti)))),
    (0x032, gm / 2 ^ 48), (0x033, gm / 2 ^ 32), (0x034, gm / 65536), (0x035, gm), (0x036, s.fld (R.NET.STAT.LINK_UP 2))] ++
    ([0, 1].map fun p => (tdmCell p 1, s.tdmState p false % 8 + 16 * (s.tdmState p true % 8))) ++
    ((List.range 8).map fun f => (rxCell f 5, dxRxStat s f)) ++
    ((List.range 8).map fun f => (txCell f 5, b2n (s.fld (R.TXF.F_STAT.STATE f) == 2)))

/-- Native counts behind the counter cells, with the size of one event: underruns and slips of a port's directions, late
packets, concealed samples, of which a packet has so many, and underrun packets. -/
def dxCounts (s : State) : List (Nat × Nat × Nat) :=
  ([0, 1].map fun p => (tdmCell p 2, s.fld (R.TDM.TX_UNDERRUN.COUNT p) + s.fld (R.TDM.TX_SLIP.COUNT p) + s.fld (R.TDM.RX_SLIP.COUNT p), 1)) ++
    ((List.range 8).flatMap fun f =>
      [(rxCell f 6, s.fld (R.RXF.F_LATE.COUNT f), 1),
        (rxCell f 7, s.fld (R.RXF.F_CONCEALED.COUNT f), max 1 (s.fld (R.RXF.F_CHAN.CHANNELS f) * rxN s f)),
        (txCell f 6, s.fld (R.TXF.F_UNDERRUN.COUNT f), 1)])

/-- What a native count has advanced by since it was last carried to its cell; a count cleared meanwhile starts anew. -/
def dxAdvance (s : State) (x : Nat × Nat × Nat) : Nat × Nat :=
  let b := sGet (fun _ => 0) s.dx.base x.1
  let b := if x.2.1 < b then 0 else b
  let n := (x.2.1 - b) / max 1 x.2.2
  (n, b + n * x.2.2)

/-- Directions of a port that have lost their clock since the last snapshot (R236). -/
def dxClockLost (s : State) (p : Nat) : Nat :=
  let old := s.dxCell (tdmCell p 1)
  b2n (s.tdmState p false == tdmClockLost && old % 8 != tdmClockLost) +
    b2n (s.tdmState p true == tdmClockLost && old / 16 % 8 != tdmClockLost)

/-- Bits of DX_INT_STAT that a snapshot sets (R456). -/
def dxEvents (old s : State) : Nat :=
  let moved (a : Nat) : Bool := old.dxCell a != s.dxCell a
  let rxSt (t : State) (f i : Nat) : Bool := nbit (t.dxCell (rxCell f 5)) i
  let up (a : Nat) : Bool := decide (old.dxCell a < s.dxCell a)
  b2n (moved 0x030) + 2 * b2n ((List.range 8).any fun f => rxSt s f 1 && !rxSt old f 1) +
    4 * b2n ((List.range 8).any fun f => rxSt s f 0 && !rxSt old f 0 && rxSt old f 1) +
    8 * b2n (up (tdmCell 0 2) || up (tdmCell 1 2)) + 16 * b2n ((List.range 8).any fun f => up (txCell f 6)) +
    128 * b2n (moved 0x036) + 256 +
    0x8000 * b2n (!dxStrict s && s.dx.gen != liveGen s)

/-- One snapshot: every RL cell, the counters, and the bits of its events. -/
def dxSnapshot (s : State) : State :=
  let s := s.setDxr fun d => { d with
    annAt := if d.annAt.isSome then d.annAt else if (s.pti s.dx.pti).gmData.isEmpty then none else some d.count
    pktAt := (List.range 8).foldl (fun m f =>
      if (s.flow f).pkts.foldl max 0 = 0 ∨ sGet (fun _ => 0) m f ≠ 0 then m else sPut (fun _ => 0) m f (d.count + 1)) d.pktAt }
  let adv := (dxCounts s).map fun x => (x.1, dxAdvance s x)
  let lost := [0, 1].map (dxClockLost s)
  let t := (dxStates s).foldl (fun t x => t.setDx x.1 x.2) s
  let t := adv.foldl (fun t x =>
    (t.setDx x.1 (min 65535 (t.dxCell x.1 + x.2.1))).setDxr fun d => { d with base := sPut (fun _ => 0) d.base x.1 x.2.2 }) t
  let t := [0, 1].foldl (fun t p => t.setDx (tdmCell p 2) (min 65535 (t.dxCell (tdmCell p 2) + lost.getD p 0))) t
  let ev := dxEvents s t ||| s.dx.events
  dxRaise (t.setDxr fun d => { d with events := 0, gen := liveGen t }) ev

/-- A refresh: the DX host's writes, then the snapshot. -/
def dxRefresh (s : State) : State := dxSnapshot (dxApply (s.setDxr fun d => { d with waiting := false }))

/-- DX_REFRESH (R452): a whole millisecond of the DX PTI; while CTL_CS_N is low it waits, and one that still waits is
dropped. -/
def execDxRefresh (csLow : Bool) (s : State) : Out3 :=
  if !dxLive s then ok s
  else
    let s := s.setDxr fun d => { d with count := d.count + 1 }
    if !csLow then ok (dxRefresh s)
    else if s.dx.waiting then
      let s := s.count R.DXW.STAT.SKIPPED
      ok (if s.fld R.DXW.STAT.SKIPPED = 255 then s.setFld R.DXW.STAT.SAT (setBit (s.fld R.DXW.STAT.SAT) 0 true) else s)
    else ok (s.setDxr fun d => { d with waiting := true })

/-- DX_REFRESH_DEFERRED (R452): CTL_CS_N has risen. -/
def execDxRefreshDeferred (s : State) : Out3 := ok (if dxLive s && s.dx.waiting then dxRefresh s else s)

/-- DX_SOFT_RESET (R453 to R455): every cell but the identity returns to its reset value, and the DX flows and TDM0 and TDM1
stop. -/
def execDxSoftReset (s : State) : Out3 :=
  if !dxLive s || !s.dx.softRst || (dxEmulates s && decide (s.dx.count < s.dx.softAt + 20)) then ok s
  else
    let s := (List.range 8).foldl (fun s f =>
      let s := if s.fld (R.RXF.F_STAT.STATE f) = 0 then s else dxRxStop s f
      if s.fld (R.TXF.F_STAT.STATE f) = 0 then s else dxTxStop s f) s
    let s := dxDirs.foldl (fun s d => if tdmReady < s.tdmState d.1 d.2 then cmdWrite s d.1 d.2 2#32 else s) s
    ok (s.setDxr fun d => { d with
      cells := d.cells.filter fun p => decide (p.1 < 0x010)
      dirty := [], softRst := false, rate := 0, failed := [], events := 0, annAt := none, pktAt := [], runAt := none })

/-! ### Discovery (R460) -/

/-- DISC_EN. -/
def dxDisc (s : State) : Bool := nbit (s.dxCell 0x010) 4

/-- DX_DISCOVERY_QUERY (R460): a datagram to port 8700. -/
def execDxDiscoveryQuery (bytes : List Byte) (s : State) : Out3 :=
  if dxLive s && dxDisc s && bytes.take 2 == [0x44, 0x58] then
    ok (s.emit (.dxReply ([0, 1, 3, 4, 5, 6, 7, 8].flatMap (fun a => beBytes 2 (dxView s a)) ++ List.replicate 16 0)))
  else ok s

/-- The SDP text of a DX flow (R459, R460). -/
def dxSdp (s : State) (f : Nat) : List Byte :=
  let b := template s f
  let src := (b.drop 26).take 4
  lineText (ascii "v=0") ++
    lineText (ascii "o=- " ++ freeText s 0 ++ ascii " " ++ freeText s 1 ++ ascii " IN IP4 " ++ addrText false src) ++
    lineText (ascii "s=DX-" ++ decText s.flash.serial ++ ascii "-" ++ decText f) ++ lineText (ascii "t=0 0") ++
    lineText (ascii "a=x-drinto:dx64") ++ sdpMediaText s f false ((b.drop 30).take 4) src (be16 b 36) none

/-- DX_SAP_ANNOUNCE (R460): 30 s have passed for an enabled DX transmit flow. -/
def execDxSapAnnounce (f : Nat) (s : State) : Out3 :=
  if dxLive s && dxDisc s && decide (f < 8) && s.fld (R.TXF.F_STAT.STATE f) != 0 then
    ok ({ s with freeCtr := s.freeCtr + 2 }.emit (.announce f (dxSdp s f) true))
  else ok s

/-! ### DX.STATUS and DX.READ (R226, R463) -/

/-- A bitmap of the DX flows that are not OFF. -/
def dxOn (s : State) (st : Nat → Fld) : Nat := (List.range 8).foldl (fun v f => v + b2n (s.fld (st f) != 0) * 2 ^ f) 0

/-- DX_STATUS (R226). -/
def execDxStatus (ch tag : Nat) (s : State) : Out3 :=
  runCmd 0x1200 (· == 0) lockNone (fun s _ =>
    (stOk, [byteOf (b2n (dxStrict s) + 2 * b2n (dxEmulates s)), 0, 0, 0, byteOf (dxOn s R.RXF.F_STAT.STATE),
      byteOf (dxOn s R.TXF.F_STAT.STATE), 0, 0] ++ leBytes 4 (s.fld R.GAL.CE_CNT.COUNT) ++ leBytes 4 (s.fld R.GAL.UE_CNT.COUNT) ++
      leBytes 2 (s.dxCell 0x020) ++ [0, 0], s)) ch tag s

/-- DX_READ (R226, R463). -/
def execDxRead (ch tag : Nat) (s : State) : Out3 :=
  runCmd 0x1201 (· == 4) lockNone (fun s p =>
    if u8 p 3 ≠ 0 ∨ u8 p 2 = 0 ∨ 120 < u8 p 2 then refuse s stBadArg
    else (stOk, (List.range (u8 p 2)).flatMap fun i => leBytes 2 (dxView s (u16 p 0 + i)), s)) ch tag s

end Sys2Proof.Machine
end

