-- ==== Sys2Proof/Machine/Dispatch.lean ====
section
/-! DEFINITION. One arm per command: a direct call of its meaning. -/

namespace Sys2Proof.Machine

open Sys2Proof

/-- The effect of a command on everything but the queue. -/
def exec (i : Instr) (s : State) : Host.Outcome State Fault Refusal :=
  match i with
  | .aonResetRelease tdml tdmh ctl mgmt tio => Sys2Proof.Machine.execAonResetRelease tdml tdmh ctl mgmt tio s
  | .pwrCoreEnRise => Sys2Proof.Machine.execPwrCoreEnRise s
  | .railTimeout => Sys2Proof.Machine.execRailTimeout s
  | .railRetry => Sys2Proof.Machine.execRailRetry s
  | .wakeRailTimeout => Sys2Proof.Machine.execWakeRailTimeout s
  | .resetNPulse ns => Sys2Proof.Machine.execResetNPulse ns s
  | .sysResetExecute => Sys2Proof.Machine.execSysResetExecute s
  | .strapSample levels => Sys2Proof.Machine.execStrapSample levels s
  | .strapCompare levels => Sys2Proof.Machine.execStrapCompare levels s
  | .perstNAssert => Sys2Proof.Machine.execPerstNAssert s
  | .refPllLock => Sys2Proof.Machine.execRefPllLock s
  | .sysPllLock => Sys2Proof.Machine.execSysPllLock s
  | .pllLossOfLock sys => Sys2Proof.Machine.execPllLossOfLock sys s
  | .bootImageVerified a b fw proto => Sys2Proof.Machine.execBootImageVerified a b fw proto s
  | .bootFormeApplied => Sys2Proof.Machine.execBootFormeApplied s
  | .xtalQualified => Sys2Proof.Machine.execXtalQualified s
  | .xtalFailTimeout => Sys2Proof.Machine.execXtalFailTimeout s
  | .toDozeComplete => Sys2Proof.Machine.execToDozeComplete s
  | .pointOfNoReturn => Sys2Proof.Machine.execPointOfNoReturn s
  | .domainPowerOff d => Sys2Proof.Machine.execDomainPowerOff d s
  | .domainPowerUp d corrupt => Sys2Proof.Machine.execDomainPowerUp d corrupt s
  | .wakeLatchEdge k rising ns afterRelease sameTick => Sys2Proof.Machine.execWakeLatchEdge k rising ns afterRelease sameTick s
  | .minOffTimeExpiry => Sys2Proof.Machine.execMinOffTimeExpiry s
  | .wakePowerUp => Sys2Proof.Machine.execWakePowerUp s
  | .wakingReady imageOk => Sys2Proof.Machine.execWakingReady imageOk s
  | .sleepSaveDone good => Sys2Proof.Machine.execSleepSaveDone good s
  | .dozeFrameRx port raw good => Sys2Proof.Machine.execDozeFrameRx port raw good s
  | .pmeL2Handshake => Sys2Proof.Machine.execPmeL2Handshake s
  | .pmeL2Timeout => Sys2Proof.Machine.execPmeL2Timeout s
  | .slowCounterAlarm sameTick => Sys2Proof.Machine.execSlowCounterAlarm sameTick s
  | .trimWindowEnd ppb => Sys2Proof.Machine.execTrimWindowEnd ppb s
  | .timeHandback => Sys2Proof.Machine.execTimeHandback s
  | .avsStep slack ample => Sys2Proof.Machine.execAvsStep slack ample s
  | .mcsDetectorInterval n err refPpb freq => Sys2Proof.Machine.execMcsDetectorInterval n err refPpb freq s
  | .wclkInQualified rate period => Sys2Proof.Machine.execWclkInQualified rate period s
  | .wclkInLoss => Sys2Proof.Machine.execWclkInLoss s
  | .clkOutputSwitch pin => Sys2Proof.Machine.execClkOutputSwitch pin s
  | .addendWrite n frac v => Sys2Proof.Machine.execAddendWrite n frac v s
  | .ptpMessageRx n x exchange => Sys2Proof.Machine.execPtpMessageRx n x exchange s
  | .servoUpdate n a b m => Sys2Proof.Machine.execServoUpdate n a b m s
  | .freezeHoldExpiry n => Sys2Proof.Machine.execFreezeHoldExpiry n s
  | .asymBothTimeout n => Sys2Proof.Machine.execAsymBothTimeout n s
  | .suspectClear n => Sys2Proof.Machine.execSuspectClear n s
  | .delayMeasurement n x delay => Sys2Proof.Machine.execDelayMeasurement n x delay s
  | .announceRx n x ds gm steps => Sys2Proof.Machine.execAnnounceRx n x ds gm steps s
  | .announceTimeout n x => Sys2Proof.Machine.execAnnounceTimeout n x s
  | .faultyRecover n x => Sys2Proof.Machine.execFaultyRecover n x s
  | .ptpSyncTx n x => Sys2Proof.Machine.execPtpSyncTx n x s
  | .ppsInEdge falling => Sys2Proof.Machine.execPpsInEdge falling s
  | .ppsOutPulse => Sys2Proof.Machine.execPpsOutPulse s
  | .ptmDialogue done root => Sys2Proof.Machine.execPtmDialogue done root s
  | .platenArmWrite k v => Sys2Proof.Machine.execPlatenArmWrite k v s
  | .platenFire k => Sys2Proof.Machine.execPlatenFire k s
  | .platenStrobeArrival => Sys2Proof.Machine.execPlatenStrobeArrival s
  | .platenCaptureEdge src falling => Sys2Proof.Machine.execPlatenCaptureEdge src falling s
  | .registerWrite init a v => Sys2Proof.Machine.execRegisterWrite init a v s
  | .clearingRead init a => Sys2Proof.Machine.execClearingRead init a s
  | .updateStrobe groups => Sys2Proof.Machine.execUpdateStrobe groups s
  | .shadowApplyAtBoundary g u => Sys2Proof.Machine.execShadowApplyAtBoundary g u s
  | .indirAddrWrite init v => Sys2Proof.Machine.execIndirAddrWrite init v s
  | .indirDataRead init => Sys2Proof.Machine.execIndirDataRead init s
  | .indirDataWrite init v => Sys2Proof.Machine.execIndirDataWrite init v s
  | .indirTransferDone init => Sys2Proof.Machine.execIndirTransferDone init s
  | .indirStallTimeout init => Sys2Proof.Machine.execIndirStallTimeout init s
  | .indirTransferLost init => Sys2Proof.Machine.execIndirTransferLost init s
  | .wideSelWrite init v => Sys2Proof.Machine.execWideSelWrite init v s
  | .wideSnapshotReady init => Sys2Proof.Machine.execWideSnapshotReady init s
  | .wideD3Read init => Sys2Proof.Machine.execWideD3Read init s
  | .guardValWrite init v => Sys2Proof.Machine.execGuardValWrite init v s
  | .guardCplWrite init c => Sys2Proof.Machine.execGuardCplWrite init c s
  | .guardTimeout init => Sys2Proof.Machine.execGuardTimeout init s
  | .quoinSet second v => Sys2Proof.Machine.execQuoinSet second v s
  | .aliasWrite init a v => Sys2Proof.Machine.execAliasWrite init a v s
  | .cfgCrcPassEnd => Sys2Proof.Machine.execCfgCrcPassEnd s
  | .cfgCrcStale => Sys2Proof.Machine.execCfgCrcStale s
  | .counterClear init off v => Sys2Proof.Machine.execCounterClear init off v s
  | .irqSourceEvent n => Sys2Proof.Machine.execIrqSourceEvent n s
  | .irqAck init mcu n => Sys2Proof.Machine.execIrqAck init mcu n s
  | .irqEoi init mcu n => Sys2Proof.Machine.execIrqEoi init mcu n s
  | .irqPendingSetClr init mcu set k v => Sys2Proof.Machine.execIrqPendingSetClr init mcu set k v s
  | .irqMaskSetClr init mcu set k v => Sys2Proof.Machine.execIrqMaskSetClr init mcu set k v s
  | .modWindowExpiry mcu g => Sys2Proof.Machine.execModWindowExpiry mcu g s
  | .mcuWaitForInterrupt => Sys2Proof.Machine.execMcuWaitForInterrupt s
  | .msixMessageSend funcMask => Sys2Proof.Machine.execMsixMessageSend funcMask s
  | .reqDoorbell init v => Sys2Proof.Machine.execReqDoorbell init v s
  | .requestTake => Sys2Proof.Machine.execRequestTake s
  | .responseWrite k => Sys2Proof.Machine.execResponseWrite k s
  | .rspDoorbellClr init v => Sys2Proof.Machine.execRspDoorbellClr init v s
  | .ringEnable => Sys2Proof.Machine.execRingEnable s
  | .cmdTailDoorbell v => Sys2Proof.Machine.execCmdTailDoorbell v s
  | .cmdFetch entry indirect => Sys2Proof.Machine.execCmdFetch entry indirect s
  | .completionWrite => Sys2Proof.Machine.execCompletionWrite s
  | .cplHeadDoorbell v => Sys2Proof.Machine.execCplHeadDoorbell v s
  | .eventWrite => Sys2Proof.Machine.execEventWrite s
  | .evtHeadDoorbell v => Sys2Proof.Machine.execEvtHeadDoorbell v s
  | .ringDmaError cause => Sys2Proof.Machine.execRingDmaError cause s
  | .wdogWarn kick => Sys2Proof.Machine.execWdogWarn kick s
  | .wdogExpiry cause soon => Sys2Proof.Machine.execWdogExpiry cause soon s
  | .fwRestartDone memOk flashOk => Sys2Proof.Machine.execFwRestartDone memOk flashOk s
  | .loadChunkGo init len last => Sys2Proof.Machine.execLoadChunkGo init len last s
  | .loadChunkTaken => Sys2Proof.Machine.execLoadChunkTaken s
  | .loadVerifyDone sec fw proto => Sys2Proof.Machine.execLoadVerifyDone sec fw proto s
  | .sysInfo ch tag => Sys2Proof.Machine.execSysInfo ch tag s
  | .sysClaim ch tag => Sys2Proof.Machine.execSysClaim ch tag s
  | .sysRelease ch tag => Sys2Proof.Machine.execSysRelease ch tag s
  | .sysReset ch tag => Sys2Proof.Machine.execSysReset ch tag s
  | .sysImageBegin ch tag => Sys2Proof.Machine.execSysImageBegin ch tag s
  | .sysImageWrite ch tag => Sys2Proof.Machine.execSysImageWrite ch tag s
  | .sysImageEnd ch tag => Sys2Proof.Machine.execSysImageEnd ch tag s
  | .sysCommit ch tag => Sys2Proof.Machine.execSysCommit ch tag s
  | .sysRecover ch tag => Sys2Proof.Machine.execSysRecover ch tag s
  | .pwrEnter ch tag => Sys2Proof.Machine.execPwrEnter ch tag s
  | .pwrStatus ch tag => Sys2Proof.Machine.execPwrStatus ch tag s
  | .pwrConfig ch tag => Sys2Proof.Machine.execPwrConfig ch tag s
  | .frmInfo ch tag => Sys2Proof.Machine.execFrmInfo ch tag s
  | .frmRead ch tag => Sys2Proof.Machine.execFrmRead ch tag s
  | .frmStageLoad ch tag => Sys2Proof.Machine.execFrmStageLoad ch tag s
  | .frmStageWrite ch tag => Sys2Proof.Machine.execFrmStageWrite ch tag s
  | .frmApply ch tag => Sys2Proof.Machine.execFrmApply ch tag s
  | .frmStore ch tag => Sys2Proof.Machine.execFrmStore ch tag s
  | .frmSetBoot ch tag => Sys2Proof.Machine.execFrmSetBoot ch tag s
  | .formeEpoch => Sys2Proof.Machine.execFormeEpoch s
  | .formeStageVerify => Sys2Proof.Machine.execFormeStageVerify s
  | .clkMcsSet ch tag => Sys2Proof.Machine.execClkMcsSet ch tag s
  | .clkOutSet ch tag => Sys2Proof.Machine.execClkOutSet ch tag s
  | .clkMcsStatus ch tag => Sys2Proof.Machine.execClkMcsStatus ch tag s
  | .ptpSet ch tag => Sys2Proof.Machine.execPtpSet ch tag s
  | .ptpStatus ch tag => Sys2Proof.Machine.execPtpStatus ch tag s
  | .ptpGmQuality ch tag => Sys2Proof.Machine.execPtpGmQuality ch tag s
  | .ptpStep ch tag => Sys2Proof.Machine.execPtpStep ch tag s
  | .ptpAsymAdopt ch tag => Sys2Proof.Machine.execPtpAsymAdopt ch tag s
  | .tdmSet ch tag => Sys2Proof.Machine.execTdmSet ch tag s
  | .tdmStart ch tag => Sys2Proof.Machine.execTdmStart ch tag s
  | .tdmStop ch tag => Sys2Proof.Machine.execTdmStop ch tag s
  | .tdmStatus ch tag => Sys2Proof.Machine.execTdmStatus ch tag s
  | .rtSet ch tag => Sys2Proof.Machine.execRtSet ch tag s
  | .rtGet ch tag => Sys2Proof.Machine.execRtGet ch tag s
  | .krnSet ch tag => Sys2Proof.Machine.execKrnSet ch tag s
  | .krnStatus ch tag => Sys2Proof.Machine.execKrnStatus ch tag s
  | .rxfCreate ch tag => Sys2Proof.Machine.execRxfCreate ch tag s
  | .rxfDelete ch tag => Sys2Proof.Machine.execRxfDelete ch tag s
  | .rxfOffset ch tag => Sys2Proof.Machine.execRxfOffset ch tag s
  | .rxfStatus ch tag => Sys2Proof.Machine.execRxfStatus ch tag s
  | .txfCreate ch tag mac src => Sys2Proof.Machine.execTxfCreate ch tag mac src s
  | .txfDelete ch tag => Sys2Proof.Machine.execTxfDelete ch tag s
  | .txfStatus ch tag => Sys2Proof.Machine.execTxfStatus ch tag s
  | .sdpImport ch tag => Sys2Proof.Machine.execSdpImport ch tag s
  | .sdpExport ch tag => Sys2Proof.Machine.execSdpExport ch tag s
  | .sdpAnnounce ch tag => Sys2Proof.Machine.execSdpAnnounce ch tag s
  | .sapAnnouncementTx f => Sys2Proof.Machine.execSapAnnouncementTx f s
  | .redStatus ch tag => Sys2Proof.Machine.execRedStatus ch tag s
  | .redPaths ch tag => Sys2Proof.Machine.execRedPaths ch tag s
  | .stkStatus ch tag => Sys2Proof.Machine.execStkStatus ch tag s
  | .stkSet ch tag => Sys2Proof.Machine.execStkSet ch tag s
  | .twinSet ch tag => Sys2Proof.Machine.execTwinSet ch tag s
  | .twinTakeover ch tag => Sys2Proof.Machine.execTwinTakeover ch tag s
  | .twinHealth ch tag => Sys2Proof.Machine.execTwinHealth ch tag s
  | .grdSet ch tag => Sys2Proof.Machine.execGrdSet ch tag s
  | .grdStatus ch tag => Sys2Proof.Machine.execGrdStatus ch tag s
  | .grdReprobe ch tag => Sys2Proof.Machine.execGrdReprobe ch tag s
  | .diagSnapClear ch tag => Sys2Proof.Machine.execDiagSnapClear ch tag s
  | .diagCounters ch tag => Sys2Proof.Machine.execDiagCounters ch tag s
  | .diagLoopback ch tag => Sys2Proof.Machine.execDiagLoopback ch tag s
  | .diagMarch ch tag => Sys2Proof.Machine.execDiagMarch ch tag s
  | .diagLog ch tag => Sys2Proof.Machine.execDiagLog ch tag s
  | .evtFetch ch tag => Sys2Proof.Machine.execEvtFetch ch tag s
  | .evtMask ch tag => Sys2Proof.Machine.execEvtMask ch tag s
  | .dxStatus ch tag => Sys2Proof.Machine.execDxStatus ch tag s
  | .dxRead ch tag => Sys2Proof.Machine.execDxRead ch tag s
  | .itemOpen q kind len folio ts => Sys2Proof.Machine.execItemOpen q kind len folio ts s
  | .itemWordWrite q bs last => Sys2Proof.Machine.execItemWordWrite q bs last s
  | .carriedSlugPlace q => Sys2Proof.Machine.execCarriedSlugPlace q s
  | .itemCommit q => Sys2Proof.Machine.execItemCommit q s
  | .itemRewind q => Sys2Proof.Machine.execItemRewind q s
  | .queuePop q => Sys2Proof.Machine.execQueuePop q s
  | .queueMark q => Sys2Proof.Machine.execQueueMark q s
  | .queueRewind q => Sys2Proof.Machine.execQueueRewind q s
  | .queueRelease q toMark => Sys2Proof.Machine.execQueueRelease q toMark s
  | .flushStart q => Sys2Proof.Machine.execFlushStart q s
  | .flushEnd => Sys2Proof.Machine.execFlushEnd s
  | .flushForcedAbort => Sys2Proof.Machine.execFlushForcedAbort s
  | .linkParityError q j => Sys2Proof.Machine.execLinkParityError q j s
  | .scrubCell fail => Sys2Proof.Machine.execScrubCell fail s
  | .freeListBuilt h => Sys2Proof.Machine.execFreeListBuilt h s
  | .qResWrite q n => Sys2Proof.Machine.execQResWrite q n s
  | .qCapWrite q n => Sys2Proof.Machine.execQCapWrite q n s
  | .qCfgHalfWrite q be half => Sys2Proof.Machine.execQCfgHalfWrite q be half s
  | .budgetWrite k n => Sys2Proof.Machine.execBudgetWrite k n s
  | .galDiagAccess write addr data => Sys2Proof.Machine.execGalDiagAccess write addr data s
  | .galInjectArm v => Sys2Proof.Machine.execGalInjectArm v s
  | .netFrameRx port raw good => Sys2Proof.Machine.execNetFrameRx port raw good s
  | .netLinkStateChange p st an fecLock inv => Sys2Proof.Machine.execNetLinkStateChange p st an fecLock inv s
  | .classifierKeyWrite init cam key w v => Sys2Proof.Machine.execClassifierKeyWrite init cam key w v s
  | .impositionEntryWrite init d v => Sys2Proof.Machine.execImpositionEntryWrite init d v s
  | .impositionTakeEffect d => Sys2Proof.Machine.execImpositionTakeEffect d s
  | .tableCrcUpdate => Sys2Proof.Machine.execTableCrcUpdate s
  | .playoutIndexDue m => Sys2Proof.Machine.execPlayoutIndexDue m s
  | .placementWindowEnd f => Sys2Proof.Machine.execPlacementWindowEnd f s
  | .kerningSlewEnd f => Sys2Proof.Machine.execKerningSlewEnd f s
  | .krnTrackDone n => Sys2Proof.Machine.execKrnTrackDone n s
  | .redPathLoss f path => Sys2Proof.Machine.execRedPathLoss f path s
  | .packetClose f => Sys2Proof.Machine.execPacketClose f s
  | .packetLaunch f => Sys2Proof.Machine.execPacketLaunch f s
  | .portFrameStart p => Sys2Proof.Machine.execPortFrameStart p s
  | .txFlowStart f => Sys2Proof.Machine.execTxFlowStart f s
  | .funnelLaunch j late => Sys2Proof.Machine.execFunnelLaunch j late s
  | .hostBlockStart b => Sys2Proof.Machine.execHostBlockStart b s
  | .hrBlockCommit b => Sys2Proof.Machine.execHrBlockCommit b s
  | .hrSlotWrite b => Sys2Proof.Machine.execHrSlotWrite b s
  | .confirmReadCompletion b good => Sys2Proof.Machine.execConfirmReadCompletion b good s
  | .cplTimeout b off => Sys2Proof.Machine.execCplTimeout b off s
  | .hrAckWrite b idx => Sys2Proof.Machine.execHrAckWrite b idx s
  | .htProdWrite b idx => Sys2Proof.Machine.execHtProdWrite b idx s
  | .htReadCompletion b off data good => Sys2Proof.Machine.execHtReadCompletion b off data good s
  | .pcieLinkStateChange st speed width => Sys2Proof.Machine.execPcieLinkStateChange st speed width s
  | .ctlSpiFrame mosi late => Sys2Proof.Machine.execCtlSpiFrame mosi late s
  | .ctlI2cFrame target sent read => Sys2Proof.Machine.execCtlI2cFrame target sent read s
  | .stkLinkTrained l port pos serial major minor role gen inv0 inv1 swapped => Sys2Proof.Machine.execStkLinkTrained l port pos serial major minor role gen inv0 inv1 swapped s
  | .stkLinkDown l => Sys2Proof.Machine.execStkLinkDown l s
  | .synzoFrameRx l cls dest src flags seq item good msg => Sys2Proof.Machine.execSynzoFrameRx l cls dest src flags seq item good msg s
  | .stkTimeFrameTx => Sys2Proof.Machine.execStkTimeFrameTx s
  | .stkTimeRegain => Sys2Proof.Machine.execStkTimeRegain s
  | .stkIdentifyTimeout => Sys2Proof.Machine.execStkIdentifyTimeout s
  | .stkMasterLoss => Sys2Proof.Machine.execStkMasterLoss s
  | .stkGenPull stored crc diff record => Sys2Proof.Machine.execStkGenPull stored crc diff record s
  | .soItemSend b => Sys2Proof.Machine.execSoItemSend b s
  | .twinHeartbeatTx => Sys2Proof.Machine.execTwinHeartbeatTx s
  | .twinHeartbeatMiss => Sys2Proof.Machine.execTwinHeartbeatMiss s
  | .twinFailPin ns => Sys2Proof.Machine.execTwinFailPin ns s
  | .twinCmdTake => Sys2Proof.Machine.execTwinCmdTake s
  | .twinCmdHandover => Sys2Proof.Machine.execTwinCmdHandover s
  | .twinHandoverCycle => Sys2Proof.Machine.execTwinHandoverCycle s
  | .twinTakePulseSeen => Sys2Proof.Machine.execTwinTakePulseSeen s
  | .twinTakingEnd => Sys2Proof.Machine.execTwinTakingEnd s
  | .twinPairingTimeout => Sys2Proof.Machine.execTwinPairingTimeout s
  | .twinCheckpointDynamicTx => Sys2Proof.Machine.execTwinCheckpointDynamicTx s
  | .twinCheckpointCommit => Sys2Proof.Machine.execTwinCheckpointCommit s
  | .twinHealthPeriodEnd march loop => Sys2Proof.Machine.execTwinHealthPeriodEnd march loop s
  | .tdmArmWrite p rx arm => Sys2Proof.Machine.execTdmArmWrite p rx arm s
  | .tdmStopWrite p rx => Sys2Proof.Machine.execTdmStopWrite p rx s
  | .tdmStartInstant p rx => Sys2Proof.Machine.execTdmStartInstant p rx s
  | .tdmFrame p rx maskReady len high line sdo => Sys2Proof.Machine.execTdmFrame p rx maskReady len high line sdo s
  | .tdmClockLost p rx => Sys2Proof.Machine.execTdmClockLost p rx s
  | .tdmLeadOutEnd p rx => Sys2Proof.Machine.execTdmLeadOutEnd p rx s
  | .grdReadbackFault n pin kind => Sys2Proof.Machine.execGrdReadbackFault n pin kind s
  | .grdPinTrip n pin => Sys2Proof.Machine.execGrdPinTrip n pin s
  | .grdReprobeTimer cls n pin clean => Sys2Proof.Machine.execGrdReprobeTimer cls n pin clean s
  | .grdOpenTest n up down => Sys2Proof.Machine.execGrdOpenTest n up down s
  | .grdClockSwapDetect n rx fs bclk => Sys2Proof.Machine.execGrdClockSwapDetect n rx fs bclk s
  | .grdLossOfSignal lane lost => Sys2Proof.Machine.execGrdLossOfSignal lane lost s
  | .grdTioShort pin contention => Sys2Proof.Machine.execGrdTioShort pin contention s
  | .grdTioOpen => Sys2Proof.Machine.execGrdTioOpen s
  | .grdInputContention pin => Sys2Proof.Machine.execGrdInputContention pin s
  | .grdPpsLoss => Sys2Proof.Machine.execGrdPpsLoss s
  | .dxSpiFrame mosi bits_ => Sys2Proof.Machine.execDxSpiFrame mosi bits_ s
  | .dxSoftReset => Sys2Proof.Machine.execDxSoftReset s
  | .dxRefresh csLow => Sys2Proof.Machine.execDxRefresh csLow s
  | .dxRefreshDeferred => Sys2Proof.Machine.execDxRefreshDeferred s
  | .dxDiscoveryQuery bytes => Sys2Proof.Machine.execDxDiscoveryQuery bytes s
  | .dxSapAnnounce f => Sys2Proof.Machine.execDxSapAnnounce f s
  | .supplyLoss => Sys2Proof.Machine.execSupplyLoss s
  | .brownOut => Sys2Proof.Machine.execBrownOut s
  | .acceptedCommandEnd ch tag hw verify tested failed first => Sys2Proof.Machine.execAcceptedCommandEnd ch tag hw verify tested failed first s
  | .commandBoundTimeout ch tag => Sys2Proof.Machine.execCommandBoundTimeout ch tag s

end Sys2Proof.Machine
end

