-- ==== Sys2Proof/Machine/Idle.lean ====
section
/-! DEFINITION. What passes while no command waits: one clock cycle (R82, R103, R118, R168). -/

namespace Sys2Proof.Machine

/-- One cycle of CK_CORE in 1/128 ns: 1.25 ns from the system PLL, 8 ns from the reference PLL (R82); 0 while neither clocks
it. In RUN without the system PLL's lock the reference PLL clocks it (log 97). -/
def coreCycle (s : State) : Nat :=
  if !s.domOn 11 then 0
  else if s.flag R.CLK.PLL_STAT.SYS_LOCK ∧ s.flag R.CLK.PLL_STAT.CORE_SLOW = false then 160
  else if s.flag R.CLK.PLL_STAT.REF_LOCK then 1024
  else 0

/-- One tick of CK_TIME: the PTIs advance, and the model's tick count with them. -/
def ckTime (s : State) : State := { timeTick s with ticks := s.ticks + 1 }

/-- `n` ticks of CK_TIME. -/
def ckTimes : Nat → State → State
  | 0, s => s
  | n + 1, s => ckTimes n (ckTime s)

/-- TWIN_TAKE_N is released 1 us after the decision (R406). -/
def takeRelease (s : State) : State :=
  if s.pins.twinTakeLow ∧ s.twin.launchAt ≤ s.ticks + 500 then { s with pins := { s.pins with twinTakeLow := false } } else s

/-- One tick of CK_AON: SRAM_RET rises in the tick after the point of no return (R64), and the slow counter advances once the
crystal runs (R118). -/
def ckAon (s : State) : State :=
  let s := if s.pwr.retRise then
      { s with pins := { s.pins with sramRet := true }, pwr := { s.pwr with retRise := false } }
    else s
  if s.domOn 0 && s.pwr.xtalTicks then slowTick s else s

/-- In DOZE the Compositor takes the oldest frame of its receive buffer (R72; log 87: one in each cycle that no command has). -/
def dozeTake (s : State) : State :=
  match s.pwr.dozeBuf with
  | f :: fs =>
    if s.pstate = 1 then
      { s with pwr := { s.pwr with dozeBuf := fs }, out := .dozeFrame f.port f.bytes f.time :: s.out }
    else s
  | [] => s

/-- OVERFLOW of the lanes in FAULT follows the input instants lost (R263). -/
def lanesSettle (s : State) : State :=
  if s.lanes.any fun l => l.faultAt.isSome then
    (List.range 256).foldl (fun s n => if (s.lane n).faultAt.isSome then laneSettle s n else s) s
  else s

/-- The idle step: one CK_CORE cycle with the CK_TIME and CK_AON ticks that fall into it, or one CK_AON tick while CK_CORE
stands still (log 6). -/
def idle (s : State) : State :=
  let d := coreCycle s
  if d = 0 then { ckAon s with timeAcc := 0, aonAcc := 0 }
  else
    let time := s.timeAcc + d
    let aon := s.aonAcc + d
    let s1 := { s with timeAcc := time % 256, aonAcc := aon % 3906250 }
    let s2 := if s.flag R.CLK.PLL_STAT.REF_LOCK then ckTimes (time / 256) s1 else s1
    let s3 := if 3906250 ≤ aon then ckAon s2 else s2
    irqTick (irqLines (lanesSettle (marksSettle (dozeTake (takeRelease s3)))))

end Sys2Proof.Machine
end

