-- ==== Sys2Proof/Laws/Store.lean ====
section
/-! SUPPORT. The laws of the sparse storage: what a write leaves, and that every operation keeps the canonical form. -/

namespace Sys2Proof.Machine

variable {α : Type}

theorem sFind_erase_self (k : Nat) (m : Sparse α) : sFind k (sErase k m) = none := by
  induction m with
  | nil => rfl
  | cons p m ih => by_cases h : p.1 = k <;> simp [sErase, sFind, h, ih]

theorem sFind_erase_ne {k j : Nat} (h : j ≠ k) (m : Sparse α) : sFind j (sErase k m) = sFind j m := by
  induction m with
  | nil => rfl
  | cons p m ih =>
    by_cases hk : p.1 = k
    · have : ¬ p.1 = j := fun e => h (e.symm.trans hk)
      simp [sErase, sFind, hk, ih]
      omega
    · rw [sErase, if_neg hk, sFind, sFind, ih]

theorem sFind_insert_self (k : Nat) (v : α) (m : Sparse α) (h : sFind k m = none) : sFind k (sInsert k v m) = some v := by
  induction m with
  | nil => simp [sInsert, sFind]
  | cons p m ih =>
    by_cases hk : p.1 = k
    · simp [sFind, hk] at h
    · simp only [sFind, hk, if_false] at h
      by_cases hlt : k < p.1 <;> simp [sInsert, sFind, hlt, hk, ih h]

theorem sFind_insert_ne {k j : Nat} (hj : j ≠ k) (v : α) (m : Sparse α) : sFind j (sInsert k v m) = sFind j m := by
  induction m with
  | nil => simp [sInsert, sFind, Ne.symm hj]
  | cons p m ih =>
    by_cases hlt : k < p.1
    · simp [sInsert, sFind, hlt, Ne.symm hj]
    · rw [sInsert, if_neg hlt, sFind, sFind, ih]

/-- A written key reads as what was written. -/
@[simp] theorem sGet_put_self [DecidableEq α] (d : Nat → α) (m : Sparse α) (k : Nat) (v : α) : sGet d (sPut d m k v) k = v := by
  unfold sPut
  split
  · next h => simp [sGet, sFind_erase_self, h]
  · simp [sGet, sFind_insert_self k v _ (sFind_erase_self k m)]

/-- Any other key reads as before. -/
theorem sGet_put_ne [DecidableEq α] (d : Nat → α) (m : Sparse α) {k j : Nat} (v : α) (h : j ≠ k) :
    sGet d (sPut d m k v) j = sGet d m j := by
  have e : sFind j (sPut d m k v) = sFind j m := by
    unfold sPut
    split
    · exact sFind_erase_ne h m
    · rw [sFind_insert_ne h, sFind_erase_ne h]
  rw [sGet, e, sGet]

theorem sGet_put [DecidableEq α] (d : Nat → α) (m : Sparse α) (k j : Nat) (v : α) :
    sGet d (sPut d m k v) j = if j = k then v else sGet d m j := by
  split
  · next h => subst h; simp
  · next h => exact sGet_put_ne d m v h

theorem sErase_sub (k : Nat) (m : Sparse α) : ∀ q ∈ sErase k m, q ∈ m ∧ q.1 ≠ k := by
  induction m with
  | nil => simp [sErase]
  | cons p m ih =>
    intro q hq
    by_cases hk : p.1 = k
    · simp only [sErase, hk, if_true] at hq
      exact ⟨List.mem_cons_of_mem _ (ih q hq).1, (ih q hq).2⟩
    · simp only [sErase, hk, if_false, List.mem_cons] at hq
      rcases hq with rfl | hq
      · exact ⟨List.mem_cons_self, hk⟩
      · exact ⟨List.mem_cons_of_mem _ (ih q hq).1, (ih q hq).2⟩

theorem sInsert_sub (k : Nat) (v : α) (m : Sparse α) : ∀ q ∈ sInsert k v m, q = (k, v) ∨ q ∈ m := by
  induction m with
  | nil => simp [sInsert]
  | cons p m ih =>
    intro q hq
    by_cases hlt : k < p.1
    · simp only [sInsert, hlt, if_true, List.mem_cons] at hq ⊢
      tauto
    · simp only [sInsert, hlt, if_false, List.mem_cons] at hq ⊢
      rcases hq with rfl | hq
      · exact Or.inr (Or.inl rfl)
      · rcases ih q hq with h | h
        · exact Or.inl h
        · exact Or.inr (Or.inr h)

theorem sWf_cons [DecidableEq α] (d : Nat → α) (p : Nat × α) (m : Sparse α) :
    sWf d (p :: m) = true ↔ p.2 ≠ d p.1 ∧ (∀ q ∈ m, p.1 < q.1) ∧ sWf d m = true := by
  simp [sWf, and_assoc]

theorem sWf_erase [DecidableEq α] (d : Nat → α) (k : Nat) (m : Sparse α) (h : sWf d m = true) : sWf d (sErase k m) = true := by
  induction m with
  | nil => rfl
  | cons p m ih =>
    obtain ⟨h1, h2, h3⟩ := (sWf_cons d p m).1 h
    by_cases hk : p.1 = k
    · simp only [sErase, hk, if_true]; exact ih h3
    · simp only [sErase, hk, if_false]
      exact (sWf_cons d _ _).2 ⟨h1, fun q hq => h2 q (sErase_sub k m q hq).1, ih h3⟩

theorem sWf_insert [DecidableEq α] (d : Nat → α) (k : Nat) (v : α) (m : Sparse α) (h : sWf d m = true) (hv : v ≠ d k)
    (hk : ∀ q ∈ m, q.1 ≠ k) : sWf d (sInsert k v m) = true := by
  induction m with
  | nil => simp [sInsert, sWf, hv]
  | cons p m ih =>
    obtain ⟨h1, h2, h3⟩ := (sWf_cons d p m).1 h
    by_cases hlt : k < p.1
    · simp only [sInsert, hlt, if_true]
      refine (sWf_cons d _ _).2 ⟨hv, fun q hq => ?_, h⟩
      rcases List.mem_cons.1 hq with rfl | hq
      · exact hlt
      · exact lt_trans hlt (h2 q hq)
    · simp only [sInsert, hlt, if_false]
      refine (sWf_cons d _ _).2 ⟨h1, fun q hq => ?_, ih h3 fun q hq => hk q (List.mem_cons_of_mem _ hq)⟩
      rcases sInsert_sub k v m q hq with rfl | hq
      · have := hk p List.mem_cons_self
        show p.1 < k
        omega
      · exact h2 q hq

/-- A write keeps the canonical form. -/
theorem sWf_put [DecidableEq α] (d : Nat → α) (m : Sparse α) (k : Nat) (v : α) (h : sWf d m = true) :
    sWf d (sPut d m k v) = true := by
  unfold sPut
  split
  · exact sWf_erase d k m h
  · next hv => exact sWf_insert d k v _ (sWf_erase d k m h) hv fun q hq => (sErase_sub k m q hq).2

/-- Dropping entries keeps the canonical form. -/
theorem sWf_drop [DecidableEq α] (d : Nat → α) (f : Nat → Bool) (m : Sparse α) (h : sWf d m = true) :
    sWf d (sDrop f m) = true := by
  have sub : ∀ m : Sparse α, ∀ q ∈ sDrop f m, q ∈ m := by
    intro m
    induction m with
    | nil => simp [sDrop]
    | cons p m ih =>
      intro q hq
      by_cases hf : f p.1 = true
      · simp only [sDrop, hf, if_true] at hq; exact List.mem_cons_of_mem _ (ih q hq)
      · rw [sDrop, if_neg hf] at hq
        rcases List.mem_cons.1 hq with rfl | hq
        · exact List.mem_cons_self
        · exact List.mem_cons_of_mem _ (ih q hq)
  induction m with
  | nil => rfl
  | cons p m ih =>
    obtain ⟨h1, h2, h3⟩ := (sWf_cons d p m).1 h
    by_cases hf : f p.1 = true
    · simp only [sDrop, hf, if_true]; exact ih h3
    · rw [sDrop, if_neg hf]
      exact (sWf_cons d _ _).2 ⟨h1, fun q hq => h2 q (sub m q hq), ih h3⟩

@[simp] theorem memGet_put_self (m : Mem) (a : Nat) (b : Byte) : memGet (memPut m a b) a = b := sGet_put_self _ m a b

theorem memGet_put_ne (m : Mem) {a x : Nat} (b : Byte) (h : x ≠ a) : memGet (memPut m a b) x = memGet m x :=
  sGet_put_ne _ m b h

/-- Writing one byte keeps the canonical form. -/
theorem memWf_put (m : Mem) (a : Nat) (b : Byte) (h : memWf m = true) : memWf (memPut m a b) = true := sWf_put _ m a b h

/-- Writing a run of bytes keeps the canonical form. -/
theorem memWf_write (m : Mem) (a : Nat) (bs : List Byte) (h : memWf m = true) : memWf (memWrite m a bs) = true := by
  induction bs generalizing m a with
  | nil => exact h
  | cons b bs ih => exact ih _ _ (memWf_put m a b h)

/-- Bytes outside a run written read as before. -/
theorem memGet_write_ne (m : Mem) (a : Nat) (bs : List Byte) (x : Nat) (h : x < a ∨ a + bs.length ≤ x) :
    memGet (memWrite m a bs) x = memGet m x := by
  induction bs generalizing m a with
  | nil => rfl
  | cons b bs ih =>
    simp only [List.length_cons] at h
    rw [memWrite, ih _ _ (by omega), memGet_put_ne _ _ (by omega)]

/-- A byte inside a run written reads as the byte written there. -/
theorem memGet_write_in (m : Mem) (a : Nat) (bs : List Byte) (i : Nat) (h : i < bs.length) :
    memGet (memWrite m a bs) (a + i) = bs[i] := by
  induction bs generalizing m a i with
  | nil => simp at h
  | cons b bs ih =>
    cases i with
    | zero => rw [memWrite, memGet_write_ne _ _ _ _ (by omega)]; simp
    | succ i =>
      have := ih (memPut m a b) (a + 1) i (by simpa using h)
      rw [memWrite, show a + (i + 1) = a + 1 + i by omega, this]; simp

@[simp] theorem memRead_length (m : Mem) (a n : Nat) : (memRead m a n).length = n := by
  induction n generalizing a with
  | zero => rfl
  | succ n ih => simp [memRead, ih]

/-- A run read back is the run written. -/
theorem memRead_write (m : Mem) (a : Nat) (bs : List Byte) : memRead (memWrite m a bs) a bs.length = bs := by
  induction bs generalizing m a with
  | nil => rfl
  | cons b bs ih =>
    rw [List.length_cons, memRead, memWrite, ih, memGet_write_ne _ _ _ _ (by omega), memGet_put_self]

end Sys2Proof.Machine
end

