-- ==== Sys2Proof/WellFormed.lean ====
section
/-! DEFINITION. Which commands are well formed: every operand that numbers something of the block numbers one it has (R3,
R17, R26, R35, R249), an address is a word's, and a reset pulse is one the board may produce (R49). -/

namespace Sys2Proof

/-- A command whose operands name what the block has. -/
def Instr.wf : Instr → Bool
  | .aonResetRelease _ _ _ _ _ => true
  | .pwrCoreEnRise => true
  | .railTimeout => true
  | .railRetry => true
  | .wakeRailTimeout => true
  | .resetNPulse ns => decide (¬(250 ≤ ns ∧ ns < 1000))
  | .sysResetExecute => true
  | .strapSample levels => decide (levels < 1024)
  | .strapCompare levels => decide (levels < 1024)
  | .perstNAssert => true
  | .refPllLock => true
  | .sysPllLock => true
  | .pllLossOfLock _ => true
  | .bootImageVerified _ _ _ _ => true
  | .bootFormeApplied => true
  | .xtalQualified => true
  | .xtalFailTimeout => true
  | .toDozeComplete => true
  | .pointOfNoReturn => true
  | .domainPowerOff d => decide (d < 12)
  | .domainPowerUp d _ => decide (d < 12)
  | .wakeLatchEdge k _ _ _ _ => decide (k < 16)
  | .minOffTimeExpiry => true
  | .wakePowerUp => true
  | .wakingReady _ => true
  | .sleepSaveDone _ => true
  | .dozeFrameRx port _ _ => decide (port < 3)
  | .pmeL2Handshake => true
  | .pmeL2Timeout => true
  | .slowCounterAlarm _ => true
  | .trimWindowEnd _ => true
  | .timeHandback => true
  | .avsStep _ _ => true
  | .mcsDetectorInterval n _ _ _ => decide (n < 8)
  | .wclkInQualified rate _ => decide (rate < 6)
  | .wclkInLoss => true
  | .clkOutputSwitch pin => decide (pin < 5)
  | .addendWrite n _ _ => decide (n < 4)
  | .ptpMessageRx n x _ => decide (n < 4 ∧ x < 3)
  | .servoUpdate n _ _ _ => decide (n < 4)
  | .freezeHoldExpiry n => decide (n < 4)
  | .asymBothTimeout n => decide (n < 4)
  | .suspectClear n => decide (n < 4)
  | .delayMeasurement n x _ => decide (n < 4 ∧ x < 3)
  | .announceRx n x _ _ _ => decide (n < 4 ∧ x < 3)
  | .announceTimeout n x => decide (n < 4 ∧ x < 3)
  | .faultyRecover n x => decide (n < 4 ∧ x < 3)
  | .ptpSyncTx n x => decide (n < 4 ∧ x < 3)
  | .ppsInEdge _ => true
  | .ppsOutPulse => true
  | .ptmDialogue _ _ => true
  | .platenArmWrite k _ => decide (k < 16)
  | .platenFire k => decide (k < 16)
  | .platenStrobeArrival => true
  | .platenCaptureEdge _ _ => true
  | .registerWrite init a _ => decide (init < 3 ∧ a % 4 = 0)
  | .clearingRead init a => decide (init < 3 ∧ a % 4 = 0)
  | .updateStrobe groups => decide (groups < 65536)
  | .shadowApplyAtBoundary g _ => decide (g < 16)
  | .indirAddrWrite init _ => decide (init < 3)
  | .indirDataRead init => decide (init < 3)
  | .indirDataWrite init _ => decide (init < 3)
  | .indirTransferDone init => decide (init < 3)
  | .indirStallTimeout init => decide (init < 3)
  | .indirTransferLost init => decide (init < 3)
  | .wideSelWrite init _ => decide (init < 3)
  | .wideSnapshotReady init => decide (init < 3)
  | .wideD3Read init => decide (init < 3)
  | .guardValWrite init _ => decide (init < 3)
  | .guardCplWrite init _ => decide (init < 3)
  | .guardTimeout init => decide (init < 3)
  | .quoinSet _ _ => true
  | .aliasWrite init a _ => decide (init < 3 ∧ a % 4 = 0 ∧ 0x100000 ≤ a ∧ a < 0x200000)
  | .cfgCrcPassEnd => true
  | .cfgCrcStale => true
  | .counterClear init off _ => decide (init < 3 ∧ off % 4 = 0)
  | .irqSourceEvent n => decide (n < 256)
  | .irqAck init _ n => decide (init < 3 ∧ n < 256)
  | .irqEoi init _ n => decide (init < 3 ∧ n < 256)
  | .irqPendingSetClr init _ _ k _ => decide (init < 3 ∧ k < 8)
  | .irqMaskSetClr init _ _ k _ => decide (init < 3 ∧ k < 8)
  | .modWindowExpiry _ g => decide (g < 16)
  | .mcuWaitForInterrupt => true
  | .msixMessageSend _ => true
  | .reqDoorbell init v => decide (init < 3 ∧ v < 256)
  | .requestTake => true
  | .responseWrite k => decide (k < 8)
  | .rspDoorbellClr init v => decide (init < 3 ∧ v < 256)
  | .ringEnable => true
  | .cmdTailDoorbell v => decide (v < 256)
  | .cmdFetch _ _ => true
  | .completionWrite => true
  | .cplHeadDoorbell v => decide (v < 256)
  | .eventWrite => true
  | .evtHeadDoorbell v => decide (v < 256)
  | .ringDmaError cause => decide (1 ≤ cause ∧ cause ≤ 5)
  | .wdogWarn _ => true
  | .wdogExpiry cause _ => decide (1 ≤ cause ∧ cause ≤ 3)
  | .fwRestartDone _ _ => true
  | .loadChunkGo init len _ => decide (init < 3 ∧ len < 65536)
  | .loadChunkTaken => true
  | .loadVerifyDone _ _ _ => true
  | .sysInfo ch tag => decide (1 ≤ tag ∧ tag < 256 ∧ ch < 3)
  | .sysClaim ch tag => decide (1 ≤ tag ∧ tag < 256 ∧ ch < 3)
  | .sysRelease ch tag => decide (1 ≤ tag ∧ tag < 256 ∧ ch < 3)
  | .sysReset ch tag => decide (1 ≤ tag ∧ tag < 256 ∧ ch < 3)
  | .sysImageBegin ch tag => decide (1 ≤ tag ∧ tag < 256 ∧ ch < 3)
  | .sysImageWrite ch tag => decide (1 ≤ tag ∧ tag < 256 ∧ ch < 3)
  | .sysImageEnd ch tag => decide (1 ≤ tag ∧ tag < 256 ∧ ch < 3)
  | .sysCommit ch tag => decide (1 ≤ tag ∧ tag < 256 ∧ ch < 3)
  | .sysRecover ch tag => decide (1 ≤ tag ∧ tag < 256 ∧ ch < 3)
  | .pwrEnter ch tag => decide (1 ≤ tag ∧ tag < 256 ∧ ch < 3)
  | .pwrStatus ch tag => decide (1 ≤ tag ∧ tag < 256 ∧ ch < 3)
  | .pwrConfig ch tag => decide (1 ≤ tag ∧ tag < 256 ∧ ch < 3)
  | .frmInfo ch tag => decide (1 ≤ tag ∧ tag < 256 ∧ ch < 3)
  | .frmRead ch tag => decide (1 ≤ tag ∧ tag < 256 ∧ ch < 3)
  | .frmStageLoad ch tag => decide (1 ≤ tag ∧ tag < 256 ∧ ch < 3)
  | .frmStageWrite ch tag => decide (1 ≤ tag ∧ tag < 256 ∧ ch < 3)
  | .frmApply ch tag => decide (1 ≤ tag ∧ tag < 256 ∧ ch < 3)
  | .frmStore ch tag => decide (1 ≤ tag ∧ tag < 256 ∧ ch < 3)
  | .frmSetBoot ch tag => decide (1 ≤ tag ∧ tag < 256 ∧ ch < 3)
  | .formeEpoch => true
  | .formeStageVerify => true
  | .clkMcsSet ch tag => decide (1 ≤ tag ∧ tag < 256 ∧ ch < 3)
  | .clkOutSet ch tag => decide (1 ≤ tag ∧ tag < 256 ∧ ch < 3)
  | .clkMcsStatus ch tag => decide (1 ≤ tag ∧ tag < 256 ∧ ch < 3)
  | .ptpSet ch tag => decide (1 ≤ tag ∧ tag < 256 ∧ ch < 3)
  | .ptpStatus ch tag => decide (1 ≤ tag ∧ tag < 256 ∧ ch < 3)
  | .ptpGmQuality ch tag => decide (1 ≤ tag ∧ tag < 256 ∧ ch < 3)
  | .ptpStep ch tag => decide (1 ≤ tag ∧ tag < 256 ∧ ch < 3)
  | .ptpAsymAdopt ch tag => decide (1 ≤ tag ∧ tag < 256 ∧ ch < 3)
  | .tdmSet ch tag => decide (1 ≤ tag ∧ tag < 256 ∧ ch < 3)
  | .tdmStart ch tag => decide (1 ≤ tag ∧ tag < 256 ∧ ch < 3)
  | .tdmStop ch tag => decide (1 ≤ tag ∧ tag < 256 ∧ ch < 3)
  | .tdmStatus ch tag => decide (1 ≤ tag ∧ tag < 256 ∧ ch < 3)
  | .rtSet ch tag => decide (1 ≤ tag ∧ tag < 256 ∧ ch < 3)
  | .rtGet ch tag => decide (1 ≤ tag ∧ tag < 256 ∧ ch < 3)
  | .krnSet ch tag => decide (1 ≤ tag ∧ tag < 256 ∧ ch < 3)
  | .krnStatus ch tag => decide (1 ≤ tag ∧ tag < 256 ∧ ch < 3)
  | .rxfCreate ch tag => decide (1 ≤ tag ∧ tag < 256 ∧ ch < 3)
  | .rxfDelete ch tag => decide (1 ≤ tag ∧ tag < 256 ∧ ch < 3)
  | .rxfOffset ch tag => decide (1 ≤ tag ∧ tag < 256 ∧ ch < 3)
  | .rxfStatus ch tag => decide (1 ≤ tag ∧ tag < 256 ∧ ch < 3)
  | .txfCreate ch tag mac _ => decide (1 ≤ tag ∧ tag < 256 ∧ ch < 3 ∧ mac.length = 6)
  | .txfDelete ch tag => decide (1 ≤ tag ∧ tag < 256 ∧ ch < 3)
  | .txfStatus ch tag => decide (1 ≤ tag ∧ tag < 256 ∧ ch < 3)
  | .sdpImport ch tag => decide (1 ≤ tag ∧ tag < 256 ∧ ch < 3)
  | .sdpExport ch tag => decide (1 ≤ tag ∧ tag < 256 ∧ ch < 3)
  | .sdpAnnounce ch tag => decide (1 ≤ tag ∧ tag < 256 ∧ ch < 3)
  | .sapAnnouncementTx f => decide (f < 256)
  | .redStatus ch tag => decide (1 ≤ tag ∧ tag < 256 ∧ ch < 3)
  | .redPaths ch tag => decide (1 ≤ tag ∧ tag < 256 ∧ ch < 3)
  | .stkStatus ch tag => decide (1 ≤ tag ∧ tag < 256 ∧ ch < 3)
  | .stkSet ch tag => decide (1 ≤ tag ∧ tag < 256 ∧ ch < 3)
  | .twinSet ch tag => decide (1 ≤ tag ∧ tag < 256 ∧ ch < 3)
  | .twinTakeover ch tag => decide (1 ≤ tag ∧ tag < 256 ∧ ch < 3)
  | .twinHealth ch tag => decide (1 ≤ tag ∧ tag < 256 ∧ ch < 3)
  | .grdSet ch tag => decide (1 ≤ tag ∧ tag < 256 ∧ ch < 3)
  | .grdStatus ch tag => decide (1 ≤ tag ∧ tag < 256 ∧ ch < 3)
  | .grdReprobe ch tag => decide (1 ≤ tag ∧ tag < 256 ∧ ch < 3)
  | .diagSnapClear ch tag => decide (1 ≤ tag ∧ tag < 256 ∧ ch < 3)
  | .diagCounters ch tag => decide (1 ≤ tag ∧ tag < 256 ∧ ch < 3)
  | .diagLoopback ch tag => decide (1 ≤ tag ∧ tag < 256 ∧ ch < 3)
  | .diagMarch ch tag => decide (1 ≤ tag ∧ tag < 256 ∧ ch < 3)
  | .diagLog ch tag => decide (1 ≤ tag ∧ tag < 256 ∧ ch < 3)
  | .evtFetch ch tag => decide (1 ≤ tag ∧ tag < 256 ∧ ch < 3)
  | .evtMask ch tag => decide (1 ≤ tag ∧ tag < 256 ∧ ch < 3)
  | .dxStatus ch tag => decide (1 ≤ tag ∧ tag < 256 ∧ ch < 3)
  | .dxRead ch tag => decide (1 ≤ tag ∧ tag < 256 ∧ ch < 3)
  | .itemOpen q _ _ _ _ => decide (q < 1024)
  | .itemWordWrite q bs _ => decide (q < 1024 ∧ bs.length ≤ 8)
  | .carriedSlugPlace q => decide (q < 1024)
  | .itemCommit q => decide (q < 1024)
  | .itemRewind q => decide (q < 1024)
  | .queuePop q => decide (q < 1024)
  | .queueMark q => decide (q < 1024)
  | .queueRewind q => decide (q < 1024)
  | .queueRelease q _ => decide (q < 1024)
  | .flushStart q => decide (q < 1024)
  | .flushEnd => true
  | .flushForcedAbort => true
  | .linkParityError q _ => decide (q < 1024)
  | .scrubCell _ => true
  | .freeListBuilt h => decide (h < 2)
  | .qResWrite q n => decide (q < 1024 ∧ n < 262144)
  | .qCapWrite q n => decide (q < 1024 ∧ n < 262144)
  | .qCfgHalfWrite q _ half => decide (q < 1024 ∧ half < 4)
  | .budgetWrite k n => decide (k < 5 ∧ n < 262144)
  | .galDiagAccess _ _ _ => true
  | .galInjectArm _ => true
  | .netFrameRx port _ _ => decide (port < 3)
  | .netLinkStateChange p _ _ _ _ => decide (p < 3)
  | .classifierKeyWrite init cam i w _ => decide (init < 3 ∧ w < 8 ∧ i < (if cam then 64 else 4096))
  | .impositionEntryWrite init d _ => decide (init < 3 ∧ d < 8192)
  | .impositionTakeEffect d => decide (d < 0x1E00)
  | .tableCrcUpdate => true
  | .playoutIndexDue m => decide (m < 8)
  | .placementWindowEnd f => decide (f < 256)
  | .kerningSlewEnd f => decide (f < 256)
  | .krnTrackDone n => decide (n < 256)
  | .redPathLoss f path => decide (f < 256 ∧ path < 2)
  | .packetClose f => decide (f < 256)
  | .packetLaunch f => decide (f < 256)
  | .portFrameStart p => decide (p < 3)
  | .txFlowStart f => decide (f < 256)
  | .funnelLaunch j _ => decide (j < 64)
  | .hostBlockStart b => decide (b < 64 ∨ (256 ≤ b ∧ b < 320))
  | .hrBlockCommit b => decide (b < 64)
  | .hrSlotWrite b => decide (b < 64)
  | .confirmReadCompletion b _ => decide (b < 64)
  | .cplTimeout b _ => decide (b < 64 ∨ (256 ≤ b ∧ b < 320))
  | .hrAckWrite b idx => decide (b < 64 ∧ idx < 65536)
  | .htProdWrite b idx => decide (256 ≤ b ∧ b < 320 ∧ idx < 65536)
  | .htReadCompletion b _ _ _ => decide (256 ≤ b ∧ b < 320)
  | .pcieLinkStateChange _ _ _ => true
  | .ctlSpiFrame _ _ => true
  | .ctlI2cFrame _ _ _ => true
  | .stkLinkTrained l _ pos _ _ _ _ _ _ _ _ => decide (l < 2 ∧ pos < 8)
  | .stkLinkDown l => decide (l < 2)
  | .synzoFrameRx l cls _ _ _ _ _ _ _ => decide (l < 2 ∧ cls < 5)
  | .stkTimeFrameTx => true
  | .stkTimeRegain => true
  | .stkIdentifyTimeout => true
  | .stkMasterLoss => true
  | .stkGenPull _ _ _ _ => true
  | .soItemSend b => decide (b < 22)
  | .twinHeartbeatTx => true
  | .twinHeartbeatMiss => true
  | .twinFailPin _ => true
  | .twinCmdTake => true
  | .twinCmdHandover => true
  | .twinHandoverCycle => true
  | .twinTakePulseSeen => true
  | .twinTakingEnd => true
  | .twinPairingTimeout => true
  | .twinCheckpointDynamicTx => true
  | .twinCheckpointCommit => true
  | .twinHealthPeriodEnd _ _ => true
  | .tdmArmWrite p _ _ => decide (p < 16)
  | .tdmStopWrite p _ => decide (p < 16)
  | .tdmStartInstant p _ => decide (p < 16)
  | .tdmFrame p _ _ _ _ line sdo => decide (p < 16 ∧ line.length ≤ 2048 ∧ sdo.length ≤ 32) && line.all (fun b => decide (b < 2))
  | .tdmClockLost p _ => decide (p < 16)
  | .tdmLeadOutEnd p _ => decide (p < 16)
  | .grdReadbackFault n pin kind => decide (n < 16 ∧ pin < 6 ∧ kind < 3)
  | .grdPinTrip n pin => decide (n < 16 ∧ pin < 6)
  | .grdReprobeTimer cls n pin _ => decide ((cls = 0 ∧ n < 16 ∧ pin < 6) ∨ (cls = 2 ∧ pin < 8))
  | .grdOpenTest n _ _ => decide (n < 16)
  | .grdClockSwapDetect n _ _ _ => decide (n < 16)
  | .grdLossOfSignal lane _ => decide (lane < 6)
  | .grdTioShort pin _ => decide (pin < 8)
  | .grdTioOpen => true
  | .grdInputContention pin => decide (pin = 0 ∨ pin = 2)
  | .grdPpsLoss => true
  | .dxSpiFrame _ _ => true
  | .dxSoftReset => true
  | .dxRefresh _ => true
  | .dxRefreshDeferred => true
  | .dxDiscoveryQuery _ => true
  | .dxSapAnnounce f => decide (f < 8)
  | .supplyLoss => true
  | .brownOut => true
  | .acceptedCommandEnd ch tag _ verify _ _ _ => decide (1 ≤ tag ∧ tag < 256 ∧ ch < 3 ∧ verify ≤ 65536)
  | .commandBoundTimeout ch tag => decide (1 ≤ tag ∧ tag < 256 ∧ ch < 3)

end Sys2Proof
end

