-- ==== Sys2Proof/Safety.lean ====
section
/-! DEFINITION. What counts as a safe run, in the terms the statements use. -/

namespace Sys2Proof.Machine

/-- A step ends in a next state. -/
def Completes (o : Out3) : Prop := ∃ t, o = .next t

/-- The boot flash has the regions of R199: two image slots, the forme slots with the sleep-save area, and a boot header
that names one of the two images as active. -/
def FlashOk (s : State) : Prop :=
  s.flash.images.length = 2 ∧ s.flash.formes.length = 5 ∧ s.flash.active < 2

/-- The register files and the byte memories (mailbox space, the image being loaded, stored galley bytes) are in their
canonical form, so that equal contents are equal data. -/
def StoresOk (s : State) : Prop :=
  sWf regDefault s.rf = true ∧ sWf regDefault s.sh = true ∧ memWf s.mbx.mem = true ∧ memWf s.mbx.load = true ∧
    memWf s.gal.mem = true

/-- Every waiting command names what the block has. -/
def QueueOk (s : State) : Prop := ∀ c ∈ s.pending, c.wf = true

/-- The bits of one register that a list of fields names. -/
def fldMask : List Fld → Nat → Word
  | [], _ => 0
  | f :: fs, k => if f.key = k then f.mask ||| fldMask fs k else fldMask fs k

/-- From `s` to `t` no bit of any register changes but those of the named fields. -/
def Touches (l : List Fld) (s t : State) : Prop := ∀ k, t.rd k &&& ~~~ fldMask l k = s.rd k &&& ~~~ fldMask l k

/-- A command ends in a next state that has a property. -/
def Goes (c : Instr) (s : State) (P : State → Prop) : Prop := ∃ t, exec c s = .next t ∧ P t

/-- The registers with fields that straps and the identity record fix: set again where a domain's registers return to
reset. -/
def fixedKeys : List Nat :=
  [R.HST.CTL_CFG.reg, R.STK.ID.reg, R.NET.MAC_LO.reg 0, R.NET.MAC_LO.reg 1, R.NET.MAC_LO.reg 2, R.NET.MAC_HI.reg 0,
   R.NET.MAC_HI.reg 1, R.NET.MAC_HI.reg 2, R.GAL.SCRUB_STAT.reg]

/-- An initiator reaches the register bus and no access of it is stalled (R4, R51, R128, R371). -/
structure BusReady (s : State) (init : Nat) : Prop where
  bank : init < 3
  side : init < s.bus.length
  up   : initUp s init = true
  free : (s.side init).stalled = none

/-- The state in which an access takes place: one of the Compositor ends its wait for an interrupt (R178). -/
def accessed (s : State) (init : Nat) : State := if init = 2 then mcuResume s else s

/-- What a reset of the whole device leaves (R50). -/
def WasReset (s t : State) : Prop :=
  t.flash = s.flash ∧ t.pending = s.pending ∧ t.pins.straps = s.pins.straps ∧ t.pwr.starting = true ∧
    (∀ k, k ≠ R.PWR.STATE.reg → t.rd k = regDefault k) ∧ (∀ k, t.rdSh k = regDefault k) ∧
    t.pstate = 0 ∧ t.fld R.PWR.STATE.XTAL_OK = b2n s.pwr.xtalTicks ∧ t.pwr.slowTicks = s.pwr.slowTicks ∧
    t.mbx = mbxReset ∧ t.gal = galReset ∧ t.user = []

/-! ### Firmware commands -/

/-- A taken command that firmware may run now: it serves, no other G command stands before it, the checks 1 to 5 of R210
pass, the device's formes and stack state allow it, and no master must agree first. -/
structure CmdReady (s : State) (ch tag : Nat) (c : Cmd) (op : Nat) : Prop where
  taken   : takenCmd s ch tag = some c
  code    : c.opcode = op
  serves  : serving s = true
  turn    : isG op = true → gBusy s c = false
  known   : opKnown s op = true
  room    : c.len ≤ (if c.chan = 2 then (if nbit c.flags 1 then 65535 else 48) else 240)
  header  : c.hdrBad = false
  healthy : quarOk s op = true
  gen     : nbit c.flags 0 = true → c.gen = liveGen s
  unheld  : gRefused s op = false
  alone   : isG op = true → stkMember s = false

/-- A command that changes nothing but its own record ends with OK and a result. -/
def Answers (i : Instr) (s : State) (ch tag : Nat) (d : List Byte) : Prop := exec i s = .next (endCmd s ch tag stOk d)

/-- A command ends with OK: `P` says what it leaves, before what follows it, and its result. -/
def EndsOk (i : Instr) (s : State) (ch tag : Nat) (P : State → List Byte → Prop) : Prop :=
  ∃ u d, exec i s = .next (endCmd (follow s u) ch tag stOk d) ∧ P u d

/-- As `EndsOk` for a command marked G: its changes are recorded in the working forme and the generation rises. -/
def EndsG (i : Instr) (s : State) (ch tag op : Nat) (P : State → List Byte → Prop) : Prop :=
  ∃ u d, exec i s = .next (endCmd (follow s (finishGen (recordWork s u) op ch)) ch tag stOk d) ∧ P u d

/-- A command answers ACCEPTED, what it leaves being `P`. -/
def Accepts (i : Instr) (s : State) (ch tag : Nat) (P : State → Prop) : Prop :=
  ∃ u, exec i s = .next (follow s (acceptCmd u ch tag)) ∧ P u

/-! ### Network frames and queues -/

/-- The headers of a frame that ends with its FCS. -/
def hdrOf (raw : List Byte) : NetHdr := parseFrame (raw.take (raw.length - 4))

/-- A frame the MAC takes (R294, R296, R304): the link is up, the FCS good, the length within bounds, no MAC control
frame, an address of its own or multicast, and no bad IPv4 header checksum. -/
structure FrameOk (s : State) (p : Nat) (raw : List Byte) : Prop where
  up    : linkUp s p = true
  fcs   : fromLE (raw.drop (raw.length - 4)) = crc32 (raw.take (raw.length - 4))
  short : 64 ≤ raw.length
  long  : raw.length ≤ s.fld (R.NET.CFG.MAX_DATA p) + (if (hdrOf raw).tagged then 22 else 18)
  data  : (hdrOf raw).etype ≠ 0x8808
  dest  : macAccepts s p (raw.take (raw.length - 4)) = true
  ip    : (hdrOf raw).ckBad = false

/-- A packet of a receive flow that passes checks 2 to 7 of R304, with the source index of its first sample. -/
structure PacketOk (s : State) (f p k : Nat) (inferred : Bool) (b : List Byte) (type : Nat) : Prop where
  version : s.flag (R.RXF.F_CFG.AVTP f) = false → u8 b 0 / 64 = 2
  audio   : s.fld (R.RXF.F_CFG.FORMAT f) ≠ 9
  agrees  : (readPacket s f b).agree = true
  same    : s.flag (R.RXF.F_CFG.AVTP f) = (type == 2)
  size    : (readPacket s f b).payload.length =
              payloadLen (s.fld (R.RXF.F_CFG.FORMAT f)) (s.fld (R.RXF.F_CHAN.CHANNELS f)) (rxN s f)
  runs    : s.fld (R.RXF.F_STAT.STATE f) ≠ 0 ∧ s.fld (R.RXF.F_STAT.STATE f) ≠ 4
  index   : sourceIndex s f (p % 2) (readPacket s f b) = some (k, inferred)
  inTime  : (s.ptiRaw (s.mcsPti (s.fld (R.RXF.F_CFG.MCS f))) : Int) + 3000 * nsUnit ≤
              instantOf s (s.fld (R.RXF.F_CFG.MCS f)) (k + linkOffset s f)
  inDepth : (instantOf s (s.fld (R.RXF.F_CFG.MCS f)) (k + linkOffset s f) : Int) +
              periods (rxN s f) (s.mcsFs (s.fld (R.RXF.F_CFG.MCS f))) ≤
              s.ptiRaw (s.mcsPti (s.fld (R.RXF.F_CFG.MCS f))) + s.fld (R.RXF.F_DEPTH.US f) * 1000 * nsUnit
  order   : ∀ e, (s.flow f).next.getD (p % 2) none = some e → e ≤ k

/-- A queue whose producer has nothing open and whose reservation holds an item of `n` bytes (R279). -/
structure QueueTakes (s : State) (q n : Nat) : Prop where
  idle  : (s.gq q).opened = none
  open_ : (s.gq q).swallow = false
  room  : (s.gq q).held + cellsFor n ≤ s.fld (R.GAL.Q_RES.CELLS q)
  short : n ≤ 262144

/-- A register bus write of an initiator to an imposition or classifier table that R130's checks pass. -/
structure TableOpen (s : State) (init b : Nat) : Prop where
  bus    : initUp s init = true
  power  : s.domOn 2 = true
  owner  : (init == 2) = !hostOwns s b
  quoin  : quoinIn s b = false

end Sys2Proof.Machine
end

