-- ==== Sys2Proof/Laws/Keeps.lean ====
section
/-! SUPPORT. What every operation of the model keeps: the queue of waiting commands, the boot flash and the canonical form
of the stores. The files Laws/Keeps*.lean show it for each definition that answers a state. -/

set_option linter.all false

namespace Sys2Proof.Machine

/-- From `f` to `g` the boot flash keeps its identity record, its fused minimum security
version and its regions, and its header names one of the two images if it did before. -/
structure FlashKeeps (f g : Flash) : Prop where
  serial : g.serial = f.serial
  pcie   : g.pcie = f.pcie
  minSec : g.minSec = f.minSec
  macs   : g.macs = f.macs
  images : g.images.length = f.images.length
  formes : g.formes.length = f.formes.length
  active : f.active < 2 → g.active < 2

theorem FlashKeeps.refl (f : Flash) : FlashKeeps f f := ⟨rfl, rfl, rfl, rfl, rfl, rfl, id⟩

theorem FlashKeeps.trans {f g h : Flash} (a : FlashKeeps f g) (b : FlashKeeps g h) : FlashKeeps f h :=
  ⟨b.serial.trans a.serial, b.pcie.trans a.pcie, b.minSec.trans a.minSec, b.macs.trans a.macs, b.images.trans a.images, b.formes.trans a.formes, b.active ∘ a.active⟩

theorem FlashKeeps.ite {f a b : Flash} {c : Prop} [Decidable c] (ha : FlashKeeps f a) (hb : FlashKeeps f b) :
    FlashKeeps f (if c then a else b) := by split <;> assumption

/-- From `s` to `t` the waiting commands stay as they are, the flash keeps its regions, and stores in canonical form stay
so. -/
structure Keeps (s t : State) : Prop where
  pending : t.pending = s.pending
  flash   : FlashKeeps s.flash t.flash
  stores  : StoresOk s → StoresOk t

/-- The same of an outcome: of its next state, if it has one. -/
structure KeepsO (s : State) (o : Out3) : Prop where
  next : ∀ t, o = .next t → Keeps s t

/-- The same of an optional state. -/
structure KeepsP (s : State) (o : Option State) : Prop where
  some : ∀ t, o = .some t → Keeps s t

theorem Keeps.refl (s : State) : Keeps s s := ⟨rfl, .refl _, id⟩

theorem Keeps.trans {s t u : State} (h : Keeps s t) (k : Keeps t u) : Keeps s u :=
  ⟨k.pending.trans h.pending, h.flash.trans k.flash, k.stores ∘ h.stores⟩

/-- A state that differs in other fields only. -/
theorem Keeps.upd {s0 s t : State} (e1 : t.pending = s.pending) (e2 : t.flash = s.flash) (e3 : t.rf = s.rf) (e4 : t.sh = s.sh)
    (e5 : t.mbx.mem = s.mbx.mem) (e6 : t.mbx.load = s.mbx.load) (e7 : t.gal.mem = s.gal.mem) (h : Keeps s0 s) : Keeps s0 t :=
  ⟨e1.trans h.pending, by rw [e2]; exact h.flash, fun w => by
    have := h.stores w
    unfold StoresOk at this ⊢
    rw [e3, e4, e5, e6, e7]
    exact this⟩

/-- A state written out field by field that has `s`'s register files and queue, a flash that keeps its regions, and byte memories in canonical form
where `s` has. -/
theorem Keeps.lit {s0 s : State} {cap : List Cap} {marks : List (Nat × Nat)} {strobes : List (Nat × Nat × Nat)}
    {latched : List Nat} {freeCtr : Nat} {out : List Out} {user : List User} {ticks : Nat} {timeAcc : Nat} {aonAcc :
    Nat} {crcBad : Bool} {crcSkip : Bool} {pwr : Power} {pins : Pins} {irq : Irq} {mbx : Mbx} {mcss : List Mcs} {ptis
    : List Pti} {platens : List Platen} {ptm : PtmPair} {grd : Guard} {stk : Stk} {twin : Twin} {dx : Dx} {fw : Fw}
    {wakeImg : Option Fw} {flash : Flash} {rxf : Sparse RxFlow} {cls : Store} {net : List NetPort} {gal : Galley}
    {sorts : List Sample} {impo : Sparse ImpEntry} {lanes : List Lane} {tdms : List TdmDir} {txs : Sparse TxFlow} {txp
    : List TxPort} {hsts : Sparse HostBlk} {reads : List HostRead} {hstBytes : List Nat} {hstSlots : Sparse Nat} {bus
    : List BusSide}
    (hf : FlashKeeps s.flash flash) (hm : memWf s.mbx.mem = true → memWf mbx.mem = true) (hl : memWf s.mbx.load = true → memWf mbx.load = true)
    (hg : memWf s.gal.mem = true → memWf gal.mem = true) (h : Keeps s0 s) :
    Keeps s0 (State.mk s.rf s.sh cap marks strobes latched freeCtr out user ticks timeAcc aonAcc crcBad crcSkip pwr
      pins irq mbx mcss ptis platens ptm grd stk twin dx fw wakeImg flash rxf cls net gal sorts impo lanes tdms txs
      txp hsts reads hstBytes hstSlots bus s.pending) :=
  ⟨h.pending, h.flash.trans hf, fun w => ⟨(h.stores w).1, (h.stores w).2.1, hm (h.stores w).2.2.1, hl (h.stores w).2.2.2.1,
    hg (h.stores w).2.2.2.2⟩⟩

theorem Keeps.ite {s0 a b : State} {c : Prop} [Decidable c] (ha : Keeps s0 a) (hb : Keeps s0 b) :
    Keeps s0 (if c then a else b) := by split <;> assumption

theorem Keeps.ite1 {α : Type} {s0 : State} {a b : State × α} {c : Prop} [Decidable c] (ha : Keeps s0 a.1) (hb : Keeps s0 b.1) :
    Keeps s0 (if c then a else b).1 := by split <;> assumption

theorem Keeps.ite2 {α : Type} {s0 : State} {a b : α × State} {c : Prop} [Decidable c] (ha : Keeps s0 a.2) (hb : Keeps s0 b.2) :
    Keeps s0 (if c then a else b).2 := by split <;> assumption

theorem Keeps.ite3 {α β : Type} {s0 : State} {a b : α × β × State} {c : Prop} [Decidable c] (ha : Keeps s0 a.2.2)
    (hb : Keeps s0 b.2.2) : Keeps s0 (if c then a else b).2.2 := by split <;> assumption

theorem KeepsO.ite {s0 : State} {a b : Out3} {c : Prop} [Decidable c] (ha : KeepsO s0 a) (hb : KeepsO s0 b) :
    KeepsO s0 (if c then a else b) := by split <;> assumption

theorem KeepsP.ite {s0 : State} {a b : Option State} {c : Prop} [Decidable c] (ha : KeepsP s0 a) (hb : KeepsP s0 b) :
    KeepsP s0 (if c then a else b) := by split <;> assumption

theorem Keeps.foldl {α : Type} {s0 s : State} {g : State → α → State} {l : List α}
    (hg : ∀ x a, Keeps s0 x → Keeps s0 (g x a)) (h : Keeps s0 s) : Keeps s0 (l.foldl g s) := by
  induction l generalizing s with
  | nil => exact h
  | cons a l ih => exact ih (hg s a h)

theorem KeepsP.foldl {α : Type} {s0 : State} {o : Option State} {g : Option State → α → Option State} {l : List α}
    (hg : ∀ x a, KeepsP s0 x → KeepsP s0 (g x a)) (h : KeepsP s0 o) : KeepsP s0 (l.foldl g o) := by
  induction l generalizing o with
  | nil => exact h
  | cons a l ih => exact ih (hg o a h)

theorem Keeps.foldl_snd {α β : Type} {s0 : State} {p : β × State} {g : β × State → α → β × State} {l : List α}
    (hg : ∀ x a, Keeps s0 x.2 → Keeps s0 (g x a).2) (h : Keeps s0 p.2) : Keeps s0 (l.foldl g p).2 := by
  induction l generalizing p with
  | nil => exact h
  | cons a l ih => exact ih (hg p a h)

theorem Keeps.foldl_fst {α β : Type} {s0 : State} {p : State × β} {g : State × β → α → State × β} {l : List α}
    (hg : ∀ x a, Keeps s0 x.1 → Keeps s0 (g x a).1) (h : Keeps s0 p.1) : Keeps s0 (l.foldl g p).1 := by
  induction l generalizing p with
  | nil => exact h
  | cons a l ih => exact ih (hg p a h)

theorem Keeps.of_snd {α : Type} {s0 t : State} {p : α × State} {a : α} (h : Keeps s0 p.2) (e : p = (a, t)) : Keeps s0 t := by
  subst e; exact h

theorem Keeps.of_fst {α : Type} {s0 t : State} {p : State × α} {a : α} (h : Keeps s0 p.1) (e : p = (t, a)) : Keeps s0 t := by
  subst e; exact h

theorem keeps_nextOr {s0 s : State} {o : Out3} (ho : KeepsO s0 o) (h : Keeps s0 s) : Keeps s0 (nextOr s o) := by
  cases o with
  | next t => exact ho.next t rfl
  | fault f => exact h
  | refused r => exact h

theorem Keeps.next {s0 t : State} (h : Keeps s0 t) : KeepsO s0 (.next t) := ⟨fun u e => by cases e; exact h⟩

theorem KeepsO.fault {s0 : State} {r : Fault} : KeepsO s0 (.fault r) := ⟨fun _ e => nomatch e⟩

theorem Keeps.some {s0 t : State} (h : Keeps s0 t) : KeepsP s0 (.some t) := ⟨fun u e => by cases e; exact h⟩

theorem KeepsP.none {s0 : State} : KeepsP s0 .none := ⟨fun _ e => nomatch e⟩

theorem KeepsP.bind {s0 : State} {o : Option State} {g : State → Option State} (h : KeepsP s0 o)
    (hg : ∀ x, Keeps s0 x → KeepsP s0 (g x)) : KeepsP s0 (o.bind g) := by
  cases o with
  | none => exact KeepsP.none
  | some x => exact hg x (h.some x rfl)

theorem KeepsP.map {s0 : State} {o : Option State} {g : State → State} (h : KeepsP s0 o)
    (hg : ∀ x, Keeps s0 x → Keeps s0 (g x)) : KeepsP s0 (o.map g) := by
  cases o with
  | none => exact KeepsP.none
  | some x => exact (hg x (h.some x rfl)).some

theorem KeepsP.findSome {α : Type} {s0 : State} {g : α → Option State} {l : List α} (hg : ∀ a, KeepsP s0 (g a)) :
    KeepsP s0 (l.findSome? g) := by
  induction l with
  | nil => exact KeepsP.none
  | cons a l ih =>
    rw [List.findSome?_cons]
    cases h : g a with
    | none => exact ih
    | some t => exact ((hg a).some t h).some

theorem length_modifyAt {α : Type} (l : List α) (i : Nat) (f : α → α) : (modifyAt l i f).length = l.length := by
  induction l generalizing i with
  | nil => rfl
  | cons a l ih => cases i with
    | zero => rfl
    | succ i => exact congrArg (· + 1) (ih i)

theorem FlashKeeps.image {f : Flash} {i : Nat} {g : List Byte → List Byte} :
    FlashKeeps f { f with images := modifyAt f.images i g } := ⟨rfl, rfl, rfl, rfl, length_modifyAt .., rfl, id⟩

theorem FlashKeeps.forme {f : Flash} {i : Nat} {g : List Byte → List Byte} :
    FlashKeeps f { f with formes := modifyAt f.formes i g } := ⟨rfl, rfl, rfl, rfl, rfl, length_modifyAt .., id⟩

theorem FlashKeeps.upd {f : Flash} {trial booted : Bool} {tries : Nat} {active : Nat} {bootOv : Option Nat} {log : List Byte}
    (h : f.active < 2 → active < 2) : FlashKeeps f { f with
      trial := trial, booted := booted, tries := tries, active := active, bootOv := bootOv, log := log } := ⟨rfl, rfl, rfl, rfl, rfl, rfl, h⟩

theorem keeps_wr {s0 s : State} {k : Nat} {v : Word} (h : Keeps s0 s) : Keeps s0 (s.wr k v) :=
  ⟨h.pending, h.flash, fun w => ⟨sWf_put _ _ _ _ (h.stores w).1, (h.stores w).2⟩⟩

theorem keeps_wrSh {s0 s : State} {k : Nat} {v : Word} (h : Keeps s0 s) : Keeps s0 (s.wrSh k v) :=
  ⟨h.pending, h.flash, fun w => ⟨(h.stores w).1, sWf_put _ _ _ _ (h.stores w).2.1, (h.stores w).2.2⟩⟩

theorem keeps_setFlds {s0 s : State} {l : List (Fld × Nat)} (h : Keeps s0 s) : Keeps s0 (s.setFlds l) := by
  induction l generalizing s with
  | nil => exact h
  | cons p l ih => exact ih (keeps_wr h)

theorem keeps_raise {s0 s : State} {l : List Fld} (h : Keeps s0 s) : Keeps s0 (s.raise l) := by
  induction l generalizing s with
  | nil => exact h
  | cons p l ih => exact ih (keeps_wr h)

/-- A mailbox update that keeps its byte memories in canonical form. -/
theorem keeps_setMbx {s0 s : State} {f : Mbx → Mbx} (hm : ∀ m : Mbx, memWf m.mem = true → memWf (f m).mem = true)
    (hl : ∀ m : Mbx, memWf m.load = true → memWf (f m).load = true) (h : Keeps s0 s) : Keeps s0 (s.setMbx f) :=
  ⟨h.pending, h.flash, fun w => ⟨(h.stores w).1, (h.stores w).2.1, hm _ (h.stores w).2.2.1, hl _ (h.stores w).2.2.2.1,
    (h.stores w).2.2.2.2⟩⟩

theorem keeps_setPins {s0 s : State} {f : Pins → Pins} (h : Keeps s0 s) : Keeps s0 (s.setPins f) :=
  Keeps.upd (s := s) rfl rfl rfl rfl rfl rfl rfl h

theorem keeps_setPwr {s0 s : State} {f : Power → Power} (h : Keeps s0 s) : Keeps s0 (s.setPwr f) :=
  Keeps.upd (s := s) rfl rfl rfl rfl rfl rfl rfl h

theorem keeps_setTwin {s0 s : State} {f : Twin → Twin} (h : Keeps s0 s) : Keeps s0 (s.setTwin f) :=
  Keeps.upd (s := s) rfl rfl rfl rfl rfl rfl rfl h

theorem keeps_setDxr {s0 s : State} {f : Dx → Dx} (h : Keeps s0 s) : Keeps s0 (s.setDxr f) :=
  Keeps.upd (s := s) rfl rfl rfl rfl rfl rfl rfl h

theorem keeps_setSide {s0 s : State} {i : Nat} {f : BusSide → BusSide} (h : Keeps s0 s) : Keeps s0 (s.setSide i f) :=
  Keeps.upd (s := s) rfl rfl rfl rfl rfl rfl rfl h

theorem keeps_fresh {s0 s : State} (h : Keeps s0 s) : Keeps s0 s.fresh.2 := Keeps.upd (s := s) rfl rfl rfl rfl rfl rfl rfl h

end Sys2Proof.Machine
end

