-- ==== Sys2Proof/Laws/State.lean ====
section
/-! SUPPORT. The laws of the register accessors: what a field reads as after a write, and that a write of registers leaves
every other part of the state alone. -/

namespace Sys2Proof.Machine

/-! ### Bits of a word -/

theorem getLsbD_mask (f : Fld) (i : Nat) : f.mask.getLsbD i = (decide (i < 32) && decide (f.lo ≤ i) && decide (i - f.lo < f.w)) := by
  simp only [Fld.mask, BitVec.getLsbD_ofNat, Nat.testBit_shiftLeft, Nat.testBit_two_pow_sub_one, ge_iff_le, Bool.and_assoc]

theorem getLsbD_ins (f : Fld) (v : Nat) (x : Word) (i : Nat) :
    (f.ins v x).getLsbD i = if i < 32 ∧ f.lo ≤ i ∧ i < f.lo + f.w then v.testBit (i - f.lo) else x.getLsbD i := by
  simp only [Fld.ins, BitVec.getLsbD_or, BitVec.getLsbD_and, BitVec.getLsbD_not, getLsbD_mask, BitVec.getLsbD_ofNat,
    Nat.testBit_shiftLeft, Nat.testBit_mod_two_pow, ge_iff_le]
  by_cases h1 : i < 32
  · by_cases h2 : f.lo ≤ i
    · have e : i - f.lo < f.w ↔ i < f.lo + f.w := by omega
      by_cases h3 : i < f.lo + f.w <;> simp [h1, h2, h3, e]
    · simp [h1, h2]
  · simp [h1, BitVec.getLsbD_of_ge x i (by omega)]

theorem testBit_of (f : Fld) (x : Word) (i : Nat) : (f.of x).testBit i = (decide (i < f.w) && x.getLsbD (f.lo + i)) := by
  simp [Fld.of, Nat.testBit_mod_two_pow, Nat.testBit_shiftRight, BitVec.getLsbD]

/-- A field reads back what was put into it. -/
theorem of_ins_self (f : Fld) (v : Nat) (x : Word) (h : f.lo + f.w ≤ 32) : f.of (f.ins v x) = v % 2 ^ f.w := by
  apply Nat.eq_of_testBit_eq
  intro i
  rw [testBit_of, getLsbD_ins, Nat.testBit_mod_two_pow]
  by_cases hi : i < f.w
  · rw [if_pos (by omega)]; simp
  · simp [hi]

/-- Two fields that share no bit: different registers, or different bits. -/
def Fld.apart (f g : Fld) : Bool := f.key != g.key || decide (f.lo + f.w ≤ g.lo) || decide (g.lo + g.w ≤ f.lo)

/-- A field keeps its value when a field beside it in the register is written. -/
theorem of_ins_beside (f g : Fld) (v : Nat) (x : Word) (h : f.lo + f.w ≤ g.lo ∨ g.lo + g.w ≤ f.lo) :
    f.of (g.ins v x) = f.of x := by
  apply Nat.eq_of_testBit_eq
  intro i
  rw [testBit_of, testBit_of, getLsbD_ins]
  by_cases hi : i < f.w
  · rw [if_neg (by omega)]
  · simp [hi]

namespace State

/-! ### Registers -/

@[simp] theorem rd_wr_self (s : State) (k : Nat) (v : Word) : (s.wr k v).rd k = v := sGet_put_self ..

theorem rd_wr_ne (s : State) {k j : Nat} (v : Word) (h : j ≠ k) : (s.wr k v).rd j = s.rd j := sGet_put_ne _ _ _ h

@[simp] theorem rdSh_wrSh_self (s : State) (k : Nat) (v : Word) : (s.wrSh k v).rdSh k = v := sGet_put_self ..

theorem rdSh_wrSh_ne (s : State) {k j : Nat} (v : Word) (h : j ≠ k) : (s.wrSh k v).rdSh j = s.rdSh j := sGet_put_ne _ _ _ h

theorem rd_setFld_self (s : State) (f : Fld) (v : Nat) : (s.setFld f v).rd f.key = f.ins v (s.rd f.key) := rd_wr_self ..

theorem rd_setFld_ne (s : State) {f : Fld} {k : Nat} (v : Nat) (h : k ≠ f.key) : (s.setFld f v).rd k = s.rd k :=
  rd_wr_ne _ _ h

/-- A field reads back what was written to it. -/
theorem fld_setFld_self (s : State) (f : Fld) (v : Nat) (h : f.lo + f.w ≤ 32) : (s.setFld f v).fld f = v % 2 ^ f.w := by
  rw [fld, rd_setFld_self, of_ins_self _ _ _ h]

/-- A field that shares no bit with the one written keeps its value. -/
theorem fld_setFld_apart (s : State) {f g : Fld} (v : Nat) (h : f.apart g = true) : (s.setFld g v).fld f = s.fld f := by
  by_cases hk : f.key = g.key
  · simp only [Fld.apart, hk, bne_self_eq_false, Bool.false_or, Bool.or_eq_true, decide_eq_true_eq] at h
    rw [fld, fld, hk, rd_setFld_self, of_ins_beside _ _ _ _ h]
  · rw [fld, fld, rd_setFld_ne _ _ hk]

@[simp] theorem setFlds_nil (s : State) : s.setFlds [] = s := rfl

@[simp] theorem setFlds_cons (s : State) (p : Fld × Nat) (l : List (Fld × Nat)) :
    s.setFlds (p :: l) = (s.setFld p.1 p.2).setFlds l := rfl

@[simp] theorem raise_nil (s : State) : s.raise [] = s := rfl

@[simp] theorem raise_cons (s : State) (f : Fld) (l : List Fld) : s.raise (f :: l) = (s.setFld f 1).raise l := rfl

theorem fld_wr_ne (s : State) {f : Fld} {k : Nat} (v : Word) (h : f.key ≠ k) : (s.wr k v).fld f = s.fld f := by
  rw [fld, rd_wr_ne _ _ h, fld]

theorem fld_wr_eq (s : State) {f : Fld} {k : Nat} (v : Word) (h : f.key = k) : (s.wr k v).fld f = f.of v := by
  subst h; rw [fld, rd_wr_self]

theorem rd_setFlag_ne (s : State) {f : Fld} {k : Nat} (b : Bool) (h : k ≠ f.key) : (s.setFlag f b).rd k = s.rd k :=
  rd_setFld_ne _ _ h

theorem fld_setFlag_apart (s : State) {f g : Fld} (b : Bool) (h : f.apart g = true) : (s.setFlag g b).fld f = s.fld f :=
  fld_setFld_apart _ _ h

theorem fld_setFlag_self (s : State) (f : Fld) (b : Bool) (h : f.lo + f.w ≤ 32) (hw : 0 < f.w) :
    (s.setFlag f b).fld f = b2n b := by
  rw [setFlag, fld_setFld_self _ _ _ h, Nat.mod_eq_of_lt]
  have := Nat.pow_le_pow_right (n := 2) (by decide) hw
  unfold b2n; split <;> omega

end State

/-! ### What a write of registers leaves alone -/

theorem Touches.refl (l : List Fld) (s : State) : Touches l s s := fun _ => rfl

theorem Touches.trans {l : List Fld} {s t u : State} (h : Touches l s t) (k : Touches l t u) : Touches l s u :=
  fun j => (k j).trans (h j)

theorem fldMask_mem {l : List Fld} {f : Fld} (h : f ∈ l) (i : Nat) (hb : f.mask.getLsbD i = true) :
    (fldMask l f.key).getLsbD i = true := by
  induction l with
  | nil => cases h
  | cons g l ih =>
    rcases List.mem_cons.1 h with rfl | h
    · simp [fldMask, hb]
    · by_cases e : g.key = f.key <;> simp [fldMask, e, ih h]

/-- Writing a named field touches no other. -/
theorem touches_setFld {l : List Fld} {s t : State} {f : Fld} {v : Nat} (hf : f ∈ l) (h : Touches l s t) :
    Touches l s (t.setFld f v) := by
  intro k
  rw [← h k]
  by_cases e : k = f.key
  · subst e
    rw [State.rd_setFld_self]
    apply BitVec.eq_of_getLsbD_eq
    intro i hi
    simp only [BitVec.getLsbD_and, BitVec.getLsbD_not, getLsbD_ins]
    by_cases hb : f.mask.getLsbD i = true
    · simp [fldMask_mem hf i hb]
    · rw [getLsbD_mask] at hb
      rw [if_neg (by simp at hb; omega)]
  · rw [State.rd_setFld_ne _ _ e]

theorem touches_setFlds {l : List Fld} {s t : State} {ps : List (Fld × Nat)} (hf : ∀ p ∈ ps, p.1 ∈ l) (h : Touches l s t) :
    Touches l s (t.setFlds ps) := by
  induction ps generalizing t with
  | nil => exact h
  | cons p ps ih =>
    exact ih (fun q hq => hf q (List.mem_cons_of_mem _ hq)) (touches_setFld (hf p List.mem_cons_self) h)

theorem touches_raise {l : List Fld} {s t : State} {fs : List Fld} (hf : ∀ f ∈ fs, f ∈ l) (h : Touches l s t) :
    Touches l s (t.raise fs) := by
  induction fs generalizing t with
  | nil => exact h
  | cons f fs ih =>
    exact ih (fun q hq => hf q (List.mem_cons_of_mem _ hq)) (touches_setFld (hf f List.mem_cons_self) h)

/-- A state with the same register file. -/
theorem touches_rf {l : List Fld} {s t u : State} (e : u.rf = t.rf) (h : Touches l s t) : Touches l s u := by
  intro k
  rw [← h k, State.rd, State.rd, e]

theorem touches_ite {l : List Fld} {s a b : State} {c : Prop} [Decidable c] (ha : Touches l s a) (hb : Touches l s b) :
    Touches l s (if c then a else b) := by split <;> assumption

/-- A register none of whose fields is named reads as before. -/
theorem Touches.rd {l : List Fld} {s t : State} (h : Touches l s t) {k : Nat} (hk : ∀ f ∈ l, f.key ≠ k) : t.rd k = s.rd k := by
  have e : fldMask l k = 0 := by
    clear h
    induction l with
    | nil => rfl
    | cons g l ih =>
      rw [fldMask, if_neg (hk g List.mem_cons_self)]
      exact ih fun f hf => hk f (List.mem_cons_of_mem _ hf)
  have h := h k
  rw [e] at h
  have z : ~~~(0 : Word) = BitVec.allOnes 32 := by decide
  simpa only [z, BitVec.and_allOnes] using h

/-- A field apart from every named one reads as before. -/
theorem Touches.fld {l : List Fld} {s t : State} (h : Touches l s t) {f : Fld} (hf : ∀ g ∈ l, f.apart g = true) :
    t.fld f = s.fld f := by
  have e : ∀ i, i < f.w → (fldMask l f.key).getLsbD (f.lo + i) = false := by
    intro i hi
    clear h
    induction l with
    | nil => simp [fldMask]
    | cons g l ih =>
      have ih := ih fun x hx => hf x (List.mem_cons_of_mem _ hx)
      by_cases hk : g.key = f.key
      · have ha := hf g List.mem_cons_self
        simp only [Fld.apart, hk, bne_self_eq_false, Bool.false_or, Bool.or_eq_true, decide_eq_true_eq] at ha
        simp only [fldMask, hk, if_true, BitVec.getLsbD_or, ih, Bool.or_false, getLsbD_mask]
        simp
        omega
      · rw [fldMask, if_neg hk, ih]
  apply Nat.eq_of_testBit_eq
  intro i
  rw [State.fld, State.fld, testBit_of, testBit_of]
  by_cases hi : i < f.w
  · have := congrArg (fun w : Word => w.getLsbD (f.lo + i)) (h f.key)
    simp only [BitVec.getLsbD_and, BitVec.getLsbD_not, e i hi] at this
    by_cases h32 : f.lo + i < 32
    · simp only [h32, decide_true, Bool.not_false, Bool.and_true] at this
      rw [this]
    · have z : ∀ w : Word, w.getLsbD (f.lo + i) = false := fun w => BitVec.getLsbD_of_ge _ _ (by omega)
      rw [z, z]
  · simp [hi]

/-! ### Every other part of the state -/

/-! A state written out field by field reads its registers from its first two fields. -/

@[simp] theorem State.rd_mk {x0 x1 : Store} {x2 : List Cap} {x3 : List (Nat × Nat)} {x4 : List (Nat × Nat × Nat)} {x5
    : List Nat} {x6 : Nat} {x7 : List Out} {x8 : List User} {x9 : Nat} {x10 : Nat} {x11 : Nat} {x12 : Bool} {x13 :
    Bool} {x14 : Power} {x15 : Pins} {x16 : Irq} {x17 : Mbx} {x18 : List Mcs} {x19 : List Pti} {x20 : List Platen}
    {x21 : PtmPair} {x22 : Guard} {x23 : Stk} {x24 : Twin} {x25 : Dx} {x26 : Fw} {x27 : Option Fw} {x28 : Flash} {x29
    : Sparse RxFlow} {x30 : Store} {x31 : List NetPort} {x32 : Galley} {x33 : List Sample} {x34 : Sparse ImpEntry}
    {x35 : List Lane} {x36 : List TdmDir} {x37 : Sparse TxFlow} {x38 : List TxPort} {x39 : Sparse HostBlk} {x40 : List
    HostRead} {x41 : List Nat} {x42 : Sparse Nat} {x43 : List BusSide} {x44 : List Instr} {k : Nat} : (State.mk x0 x1
    x2 x3 x4 x5 x6 x7 x8 x9 x10 x11 x12 x13 x14 x15 x16 x17 x18 x19 x20 x21 x22 x23 x24 x25 x26 x27 x28 x29 x30 x31
    x32 x33 x34 x35 x36 x37 x38 x39 x40 x41 x42 x43 x44).rd k = sGet regDefault x0 k := rfl

@[simp] theorem State.rdSh_mk {x0 x1 : Store} {x2 : List Cap} {x3 : List (Nat × Nat)} {x4 : List (Nat × Nat × Nat)}
    {x5 : List Nat} {x6 : Nat} {x7 : List Out} {x8 : List User} {x9 : Nat} {x10 : Nat} {x11 : Nat} {x12 : Bool} {x13 :
    Bool} {x14 : Power} {x15 : Pins} {x16 : Irq} {x17 : Mbx} {x18 : List Mcs} {x19 : List Pti} {x20 : List Platen}
    {x21 : PtmPair} {x22 : Guard} {x23 : Stk} {x24 : Twin} {x25 : Dx} {x26 : Fw} {x27 : Option Fw} {x28 : Flash} {x29
    : Sparse RxFlow} {x30 : Store} {x31 : List NetPort} {x32 : Galley} {x33 : List Sample} {x34 : Sparse ImpEntry}
    {x35 : List Lane} {x36 : List TdmDir} {x37 : Sparse TxFlow} {x38 : List TxPort} {x39 : Sparse HostBlk} {x40 : List
    HostRead} {x41 : List Nat} {x42 : Sparse Nat} {x43 : List BusSide} {x44 : List Instr} {k : Nat} : (State.mk x0 x1
    x2 x3 x4 x5 x6 x7 x8 x9 x10 x11 x12 x13 x14 x15 x16 x17 x18 x19 x20 x21 x22 x23 x24 x25 x26 x27 x28 x29 x30 x31
    x32 x33 x34 x35 x36 x37 x38 x39 x40 x41 x42 x43 x44).rdSh k = sGet regDefault x1 k := rfl

@[simp] theorem State.fld_mk {x0 x1 : Store} {x2 : List Cap} {x3 : List (Nat × Nat)} {x4 : List (Nat × Nat × Nat)} {x5
    : List Nat} {x6 : Nat} {x7 : List Out} {x8 : List User} {x9 : Nat} {x10 : Nat} {x11 : Nat} {x12 : Bool} {x13 :
    Bool} {x14 : Power} {x15 : Pins} {x16 : Irq} {x17 : Mbx} {x18 : List Mcs} {x19 : List Pti} {x20 : List Platen}
    {x21 : PtmPair} {x22 : Guard} {x23 : Stk} {x24 : Twin} {x25 : Dx} {x26 : Fw} {x27 : Option Fw} {x28 : Flash} {x29
    : Sparse RxFlow} {x30 : Store} {x31 : List NetPort} {x32 : Galley} {x33 : List Sample} {x34 : Sparse ImpEntry}
    {x35 : List Lane} {x36 : List TdmDir} {x37 : Sparse TxFlow} {x38 : List TxPort} {x39 : Sparse HostBlk} {x40 : List
    HostRead} {x41 : List Nat} {x42 : Sparse Nat} {x43 : List BusSide} {x44 : List Instr} {f : Fld} : (State.mk x0 x1
    x2 x3 x4 x5 x6 x7 x8 x9 x10 x11 x12 x13 x14 x15 x16 x17 x18 x19 x20 x21 x22 x23 x24 x25 x26 x27 x28 x29 x30 x31
    x32 x33 x34 x35 x36 x37 x38 x39 x40 x41 x42 x43 x44).fld f = f.of (sGet regDefault x0 f.key) := rfl

@[simp] theorem State.fldSh_mk {x0 x1 : Store} {x2 : List Cap} {x3 : List (Nat × Nat)} {x4 : List (Nat × Nat × Nat)}
    {x5 : List Nat} {x6 : Nat} {x7 : List Out} {x8 : List User} {x9 : Nat} {x10 : Nat} {x11 : Nat} {x12 : Bool} {x13 :
    Bool} {x14 : Power} {x15 : Pins} {x16 : Irq} {x17 : Mbx} {x18 : List Mcs} {x19 : List Pti} {x20 : List Platen}
    {x21 : PtmPair} {x22 : Guard} {x23 : Stk} {x24 : Twin} {x25 : Dx} {x26 : Fw} {x27 : Option Fw} {x28 : Flash} {x29
    : Sparse RxFlow} {x30 : Store} {x31 : List NetPort} {x32 : Galley} {x33 : List Sample} {x34 : Sparse ImpEntry}
    {x35 : List Lane} {x36 : List TdmDir} {x37 : Sparse TxFlow} {x38 : List TxPort} {x39 : Sparse HostBlk} {x40 : List
    HostRead} {x41 : List Nat} {x42 : Sparse Nat} {x43 : List BusSide} {x44 : List Instr} {f : Fld} : (State.mk x0 x1
    x2 x3 x4 x5 x6 x7 x8 x9 x10 x11 x12 x13 x14 x15 x16 x17 x18 x19 x20 x21 x22 x23 x24 x25 x26 x27 x28 x29 x30 x31
    x32 x33 x34 x35 x36 x37 x38 x39 x40 x41 x42 x43 x44).fldSh f = f.of (sGet regDefault x1 f.key) := rfl

@[simp] theorem State.rd_of_rf {s : State} {k : Nat} : sGet regDefault s.rf k = s.rd k := rfl

@[simp] theorem State.rdSh_of_sh {s : State} {k : Nat} : sGet regDefault s.sh k = s.rdSh k := rfl

@[simp] theorem State.fld_of_rd {s : State} {f : Fld} : f.of (s.rd f.key) = s.fld f := rfl

@[simp] theorem State.fldSh_of_rdSh {s : State} {f : Fld} : f.of (s.rdSh f.key) = s.fldSh f := rfl

@[simp] theorem State.wr_sh {s : State} {k : Nat} {v : Word} : (s.wr k v).sh = s.sh := rfl
@[simp] theorem State.wr_cap {s : State} {k : Nat} {v : Word} : (s.wr k v).cap = s.cap := rfl
@[simp] theorem State.wr_marks {s : State} {k : Nat} {v : Word} : (s.wr k v).marks = s.marks := rfl
@[simp] theorem State.wr_strobes {s : State} {k : Nat} {v : Word} : (s.wr k v).strobes = s.strobes := rfl
@[simp] theorem State.wr_latched {s : State} {k : Nat} {v : Word} : (s.wr k v).latched = s.latched := rfl
@[simp] theorem State.wr_freeCtr {s : State} {k : Nat} {v : Word} : (s.wr k v).freeCtr = s.freeCtr := rfl
@[simp] theorem State.wr_out {s : State} {k : Nat} {v : Word} : (s.wr k v).out = s.out := rfl
@[simp] theorem State.wr_user {s : State} {k : Nat} {v : Word} : (s.wr k v).user = s.user := rfl
@[simp] theorem State.wr_ticks {s : State} {k : Nat} {v : Word} : (s.wr k v).ticks = s.ticks := rfl
@[simp] theorem State.wr_timeAcc {s : State} {k : Nat} {v : Word} : (s.wr k v).timeAcc = s.timeAcc := rfl
@[simp] theorem State.wr_aonAcc {s : State} {k : Nat} {v : Word} : (s.wr k v).aonAcc = s.aonAcc := rfl
@[simp] theorem State.wr_crcBad {s : State} {k : Nat} {v : Word} : (s.wr k v).crcBad = s.crcBad := rfl
@[simp] theorem State.wr_crcSkip {s : State} {k : Nat} {v : Word} : (s.wr k v).crcSkip = s.crcSkip := rfl
@[simp] theorem State.wr_pwr {s : State} {k : Nat} {v : Word} : (s.wr k v).pwr = s.pwr := rfl
@[simp] theorem State.wr_pins {s : State} {k : Nat} {v : Word} : (s.wr k v).pins = s.pins := rfl
@[simp] theorem State.wr_irq {s : State} {k : Nat} {v : Word} : (s.wr k v).irq = s.irq := rfl
@[simp] theorem State.wr_mbx {s : State} {k : Nat} {v : Word} : (s.wr k v).mbx = s.mbx := rfl
@[simp] theorem State.wr_mcss {s : State} {k : Nat} {v : Word} : (s.wr k v).mcss = s.mcss := rfl
@[simp] theorem State.wr_ptis {s : State} {k : Nat} {v : Word} : (s.wr k v).ptis = s.ptis := rfl
@[simp] theorem State.wr_platens {s : State} {k : Nat} {v : Word} : (s.wr k v).platens = s.platens := rfl
@[simp] theorem State.wr_ptm {s : State} {k : Nat} {v : Word} : (s.wr k v).ptm = s.ptm := rfl
@[simp] theorem State.wr_grd {s : State} {k : Nat} {v : Word} : (s.wr k v).grd = s.grd := rfl
@[simp] theorem State.wr_stk {s : State} {k : Nat} {v : Word} : (s.wr k v).stk = s.stk := rfl
@[simp] theorem State.wr_twin {s : State} {k : Nat} {v : Word} : (s.wr k v).twin = s.twin := rfl
@[simp] theorem State.wr_dx {s : State} {k : Nat} {v : Word} : (s.wr k v).dx = s.dx := rfl
@[simp] theorem State.wr_fw {s : State} {k : Nat} {v : Word} : (s.wr k v).fw = s.fw := rfl
@[simp] theorem State.wr_wakeImg {s : State} {k : Nat} {v : Word} : (s.wr k v).wakeImg = s.wakeImg := rfl
@[simp] theorem State.wr_flash {s : State} {k : Nat} {v : Word} : (s.wr k v).flash = s.flash := rfl
@[simp] theorem State.wr_rxf {s : State} {k : Nat} {v : Word} : (s.wr k v).rxf = s.rxf := rfl
@[simp] theorem State.wr_cls {s : State} {k : Nat} {v : Word} : (s.wr k v).cls = s.cls := rfl
@[simp] theorem State.wr_net {s : State} {k : Nat} {v : Word} : (s.wr k v).net = s.net := rfl
@[simp] theorem State.wr_gal {s : State} {k : Nat} {v : Word} : (s.wr k v).gal = s.gal := rfl
@[simp] theorem State.wr_sorts {s : State} {k : Nat} {v : Word} : (s.wr k v).sorts = s.sorts := rfl
@[simp] theorem State.wr_impo {s : State} {k : Nat} {v : Word} : (s.wr k v).impo = s.impo := rfl
@[simp] theorem State.wr_lanes {s : State} {k : Nat} {v : Word} : (s.wr k v).lanes = s.lanes := rfl
@[simp] theorem State.wr_tdms {s : State} {k : Nat} {v : Word} : (s.wr k v).tdms = s.tdms := rfl
@[simp] theorem State.wr_txs {s : State} {k : Nat} {v : Word} : (s.wr k v).txs = s.txs := rfl
@[simp] theorem State.wr_txp {s : State} {k : Nat} {v : Word} : (s.wr k v).txp = s.txp := rfl
@[simp] theorem State.wr_hsts {s : State} {k : Nat} {v : Word} : (s.wr k v).hsts = s.hsts := rfl
@[simp] theorem State.wr_reads {s : State} {k : Nat} {v : Word} : (s.wr k v).reads = s.reads := rfl
@[simp] theorem State.wr_hstBytes {s : State} {k : Nat} {v : Word} : (s.wr k v).hstBytes = s.hstBytes := rfl
@[simp] theorem State.wr_hstSlots {s : State} {k : Nat} {v : Word} : (s.wr k v).hstSlots = s.hstSlots := rfl
@[simp] theorem State.wr_bus {s : State} {k : Nat} {v : Word} : (s.wr k v).bus = s.bus := rfl
@[simp] theorem State.wr_pending {s : State} {k : Nat} {v : Word} : (s.wr k v).pending = s.pending := rfl

@[simp] theorem State.wrSh_rf {s : State} {k : Nat} {v : Word} : (s.wrSh k v).rf = s.rf := rfl
@[simp] theorem State.wrSh_cap {s : State} {k : Nat} {v : Word} : (s.wrSh k v).cap = s.cap := rfl
@[simp] theorem State.wrSh_marks {s : State} {k : Nat} {v : Word} : (s.wrSh k v).marks = s.marks := rfl
@[simp] theorem State.wrSh_strobes {s : State} {k : Nat} {v : Word} : (s.wrSh k v).strobes = s.strobes := rfl
@[simp] theorem State.wrSh_latched {s : State} {k : Nat} {v : Word} : (s.wrSh k v).latched = s.latched := rfl
@[simp] theorem State.wrSh_freeCtr {s : State} {k : Nat} {v : Word} : (s.wrSh k v).freeCtr = s.freeCtr := rfl
@[simp] theorem State.wrSh_out {s : State} {k : Nat} {v : Word} : (s.wrSh k v).out = s.out := rfl
@[simp] theorem State.wrSh_user {s : State} {k : Nat} {v : Word} : (s.wrSh k v).user = s.user := rfl
@[simp] theorem State.wrSh_ticks {s : State} {k : Nat} {v : Word} : (s.wrSh k v).ticks = s.ticks := rfl
@[simp] theorem State.wrSh_timeAcc {s : State} {k : Nat} {v : Word} : (s.wrSh k v).timeAcc = s.timeAcc := rfl
@[simp] theorem State.wrSh_aonAcc {s : State} {k : Nat} {v : Word} : (s.wrSh k v).aonAcc = s.aonAcc := rfl
@[simp] theorem State.wrSh_crcBad {s : State} {k : Nat} {v : Word} : (s.wrSh k v).crcBad = s.crcBad := rfl
@[simp] theorem State.wrSh_crcSkip {s : State} {k : Nat} {v : Word} : (s.wrSh k v).crcSkip = s.crcSkip := rfl
@[simp] theorem State.wrSh_pwr {s : State} {k : Nat} {v : Word} : (s.wrSh k v).pwr = s.pwr := rfl
@[simp] theorem State.wrSh_pins {s : State} {k : Nat} {v : Word} : (s.wrSh k v).pins = s.pins := rfl
@[simp] theorem State.wrSh_irq {s : State} {k : Nat} {v : Word} : (s.wrSh k v).irq = s.irq := rfl
@[simp] theorem State.wrSh_mbx {s : State} {k : Nat} {v : Word} : (s.wrSh k v).mbx = s.mbx := rfl
@[simp] theorem State.wrSh_mcss {s : State} {k : Nat} {v : Word} : (s.wrSh k v).mcss = s.mcss := rfl
@[simp] theorem State.wrSh_ptis {s : State} {k : Nat} {v : Word} : (s.wrSh k v).ptis = s.ptis := rfl
@[simp] theorem State.wrSh_platens {s : State} {k : Nat} {v : Word} : (s.wrSh k v).platens = s.platens := rfl
@[simp] theorem State.wrSh_ptm {s : State} {k : Nat} {v : Word} : (s.wrSh k v).ptm = s.ptm := rfl
@[simp] theorem State.wrSh_grd {s : State} {k : Nat} {v : Word} : (s.wrSh k v).grd = s.grd := rfl
@[simp] theorem State.wrSh_stk {s : State} {k : Nat} {v : Word} : (s.wrSh k v).stk = s.stk := rfl
@[simp] theorem State.wrSh_twin {s : State} {k : Nat} {v : Word} : (s.wrSh k v).twin = s.twin := rfl
@[simp] theorem State.wrSh_dx {s : State} {k : Nat} {v : Word} : (s.wrSh k v).dx = s.dx := rfl
@[simp] theorem State.wrSh_fw {s : State} {k : Nat} {v : Word} : (s.wrSh k v).fw = s.fw := rfl
@[simp] theorem State.wrSh_wakeImg {s : State} {k : Nat} {v : Word} : (s.wrSh k v).wakeImg = s.wakeImg := rfl
@[simp] theorem State.wrSh_flash {s : State} {k : Nat} {v : Word} : (s.wrSh k v).flash = s.flash := rfl
@[simp] theorem State.wrSh_rxf {s : State} {k : Nat} {v : Word} : (s.wrSh k v).rxf = s.rxf := rfl
@[simp] theorem State.wrSh_cls {s : State} {k : Nat} {v : Word} : (s.wrSh k v).cls = s.cls := rfl
@[simp] theorem State.wrSh_net {s : State} {k : Nat} {v : Word} : (s.wrSh k v).net = s.net := rfl
@[simp] theorem State.wrSh_gal {s : State} {k : Nat} {v : Word} : (s.wrSh k v).gal = s.gal := rfl
@[simp] theorem State.wrSh_sorts {s : State} {k : Nat} {v : Word} : (s.wrSh k v).sorts = s.sorts := rfl
@[simp] theorem State.wrSh_impo {s : State} {k : Nat} {v : Word} : (s.wrSh k v).impo = s.impo := rfl
@[simp] theorem State.wrSh_lanes {s : State} {k : Nat} {v : Word} : (s.wrSh k v).lanes = s.lanes := rfl
@[simp] theorem State.wrSh_tdms {s : State} {k : Nat} {v : Word} : (s.wrSh k v).tdms = s.tdms := rfl
@[simp] theorem State.wrSh_txs {s : State} {k : Nat} {v : Word} : (s.wrSh k v).txs = s.txs := rfl
@[simp] theorem State.wrSh_txp {s : State} {k : Nat} {v : Word} : (s.wrSh k v).txp = s.txp := rfl
@[simp] theorem State.wrSh_hsts {s : State} {k : Nat} {v : Word} : (s.wrSh k v).hsts = s.hsts := rfl
@[simp] theorem State.wrSh_reads {s : State} {k : Nat} {v : Word} : (s.wrSh k v).reads = s.reads := rfl
@[simp] theorem State.wrSh_hstBytes {s : State} {k : Nat} {v : Word} : (s.wrSh k v).hstBytes = s.hstBytes := rfl
@[simp] theorem State.wrSh_hstSlots {s : State} {k : Nat} {v : Word} : (s.wrSh k v).hstSlots = s.hstSlots := rfl
@[simp] theorem State.wrSh_bus {s : State} {k : Nat} {v : Word} : (s.wrSh k v).bus = s.bus := rfl
@[simp] theorem State.wrSh_pending {s : State} {k : Nat} {v : Word} : (s.wrSh k v).pending = s.pending := rfl

@[simp] theorem State.setFld_sh {s : State} {f : Fld} {v : Nat} : (s.setFld f v).sh = s.sh := rfl
@[simp] theorem State.setFld_cap {s : State} {f : Fld} {v : Nat} : (s.setFld f v).cap = s.cap := rfl
@[simp] theorem State.setFld_marks {s : State} {f : Fld} {v : Nat} : (s.setFld f v).marks = s.marks := rfl
@[simp] theorem State.setFld_strobes {s : State} {f : Fld} {v : Nat} : (s.setFld f v).strobes = s.strobes := rfl
@[simp] theorem State.setFld_latched {s : State} {f : Fld} {v : Nat} : (s.setFld f v).latched = s.latched := rfl
@[simp] theorem State.setFld_freeCtr {s : State} {f : Fld} {v : Nat} : (s.setFld f v).freeCtr = s.freeCtr := rfl
@[simp] theorem State.setFld_out {s : State} {f : Fld} {v : Nat} : (s.setFld f v).out = s.out := rfl
@[simp] theorem State.setFld_user {s : State} {f : Fld} {v : Nat} : (s.setFld f v).user = s.user := rfl
@[simp] theorem State.setFld_ticks {s : State} {f : Fld} {v : Nat} : (s.setFld f v).ticks = s.ticks := rfl
@[simp] theorem State.setFld_timeAcc {s : State} {f : Fld} {v : Nat} : (s.setFld f v).timeAcc = s.timeAcc := rfl
@[simp] theorem State.setFld_aonAcc {s : State} {f : Fld} {v : Nat} : (s.setFld f v).aonAcc = s.aonAcc := rfl
@[simp] theorem State.setFld_crcBad {s : State} {f : Fld} {v : Nat} : (s.setFld f v).crcBad = s.crcBad := rfl
@[simp] theorem State.setFld_crcSkip {s : State} {f : Fld} {v : Nat} : (s.setFld f v).crcSkip = s.crcSkip := rfl
@[simp] theorem State.setFld_pwr {s : State} {f : Fld} {v : Nat} : (s.setFld f v).pwr = s.pwr := rfl
@[simp] theorem State.setFld_pins {s : State} {f : Fld} {v : Nat} : (s.setFld f v).pins = s.pins := rfl
@[simp] theorem State.setFld_irq {s : State} {f : Fld} {v : Nat} : (s.setFld f v).irq = s.irq := rfl
@[simp] theorem State.setFld_mbx {s : State} {f : Fld} {v : Nat} : (s.setFld f v).mbx = s.mbx := rfl
@[simp] theorem State.setFld_mcss {s : State} {f : Fld} {v : Nat} : (s.setFld f v).mcss = s.mcss := rfl
@[simp] theorem State.setFld_ptis {s : State} {f : Fld} {v : Nat} : (s.setFld f v).ptis = s.ptis := rfl
@[simp] theorem State.setFld_platens {s : State} {f : Fld} {v : Nat} : (s.setFld f v).platens = s.platens := rfl
@[simp] theorem State.setFld_ptm {s : State} {f : Fld} {v : Nat} : (s.setFld f v).ptm = s.ptm := rfl
@[simp] theorem State.setFld_grd {s : State} {f : Fld} {v : Nat} : (s.setFld f v).grd = s.grd := rfl
@[simp] theorem State.setFld_stk {s : State} {f : Fld} {v : Nat} : (s.setFld f v).stk = s.stk := rfl
@[simp] theorem State.setFld_twin {s : State} {f : Fld} {v : Nat} : (s.setFld f v).twin = s.twin := rfl
@[simp] theorem State.setFld_dx {s : State} {f : Fld} {v : Nat} : (s.setFld f v).dx = s.dx := rfl
@[simp] theorem State.setFld_fw {s : State} {f : Fld} {v : Nat} : (s.setFld f v).fw = s.fw := rfl
@[simp] theorem State.setFld_wakeImg {s : State} {f : Fld} {v : Nat} : (s.setFld f v).wakeImg = s.wakeImg := rfl
@[simp] theorem State.setFld_flash {s : State} {f : Fld} {v : Nat} : (s.setFld f v).flash = s.flash := rfl
@[simp] theorem State.setFld_rxf {s : State} {f : Fld} {v : Nat} : (s.setFld f v).rxf = s.rxf := rfl
@[simp] theorem State.setFld_cls {s : State} {f : Fld} {v : Nat} : (s.setFld f v).cls = s.cls := rfl
@[simp] theorem State.setFld_net {s : State} {f : Fld} {v : Nat} : (s.setFld f v).net = s.net := rfl
@[simp] theorem State.setFld_gal {s : State} {f : Fld} {v : Nat} : (s.setFld f v).gal = s.gal := rfl
@[simp] theorem State.setFld_sorts {s : State} {f : Fld} {v : Nat} : (s.setFld f v).sorts = s.sorts := rfl
@[simp] theorem State.setFld_impo {s : State} {f : Fld} {v : Nat} : (s.setFld f v).impo = s.impo := rfl
@[simp] theorem State.setFld_lanes {s : State} {f : Fld} {v : Nat} : (s.setFld f v).lanes = s.lanes := rfl
@[simp] theorem State.setFld_tdms {s : State} {f : Fld} {v : Nat} : (s.setFld f v).tdms = s.tdms := rfl
@[simp] theorem State.setFld_txs {s : State} {f : Fld} {v : Nat} : (s.setFld f v).txs = s.txs := rfl
@[simp] theorem State.setFld_txp {s : State} {f : Fld} {v : Nat} : (s.setFld f v).txp = s.txp := rfl
@[simp] theorem State.setFld_hsts {s : State} {f : Fld} {v : Nat} : (s.setFld f v).hsts = s.hsts := rfl
@[simp] theorem State.setFld_reads {s : State} {f : Fld} {v : Nat} : (s.setFld f v).reads = s.reads := rfl
@[simp] theorem State.setFld_hstBytes {s : State} {f : Fld} {v : Nat} : (s.setFld f v).hstBytes = s.hstBytes := rfl
@[simp] theorem State.setFld_hstSlots {s : State} {f : Fld} {v : Nat} : (s.setFld f v).hstSlots = s.hstSlots := rfl
@[simp] theorem State.setFld_bus {s : State} {f : Fld} {v : Nat} : (s.setFld f v).bus = s.bus := rfl
@[simp] theorem State.setFld_pending {s : State} {f : Fld} {v : Nat} : (s.setFld f v).pending = s.pending := rfl

@[simp] theorem State.setFldSh_rf {s : State} {f : Fld} {v : Nat} : (s.setFldSh f v).rf = s.rf := rfl
@[simp] theorem State.setFldSh_cap {s : State} {f : Fld} {v : Nat} : (s.setFldSh f v).cap = s.cap := rfl
@[simp] theorem State.setFldSh_marks {s : State} {f : Fld} {v : Nat} : (s.setFldSh f v).marks = s.marks := rfl
@[simp] theorem State.setFldSh_strobes {s : State} {f : Fld} {v : Nat} : (s.setFldSh f v).strobes = s.strobes := rfl
@[simp] theorem State.setFldSh_latched {s : State} {f : Fld} {v : Nat} : (s.setFldSh f v).latched = s.latched := rfl
@[simp] theorem State.setFldSh_freeCtr {s : State} {f : Fld} {v : Nat} : (s.setFldSh f v).freeCtr = s.freeCtr := rfl
@[simp] theorem State.setFldSh_out {s : State} {f : Fld} {v : Nat} : (s.setFldSh f v).out = s.out := rfl
@[simp] theorem State.setFldSh_user {s : State} {f : Fld} {v : Nat} : (s.setFldSh f v).user = s.user := rfl
@[simp] theorem State.setFldSh_ticks {s : State} {f : Fld} {v : Nat} : (s.setFldSh f v).ticks = s.ticks := rfl
@[simp] theorem State.setFldSh_timeAcc {s : State} {f : Fld} {v : Nat} : (s.setFldSh f v).timeAcc = s.timeAcc := rfl
@[simp] theorem State.setFldSh_aonAcc {s : State} {f : Fld} {v : Nat} : (s.setFldSh f v).aonAcc = s.aonAcc := rfl
@[simp] theorem State.setFldSh_crcBad {s : State} {f : Fld} {v : Nat} : (s.setFldSh f v).crcBad = s.crcBad := rfl
@[simp] theorem State.setFldSh_crcSkip {s : State} {f : Fld} {v : Nat} : (s.setFldSh f v).crcSkip = s.crcSkip := rfl
@[simp] theorem State.setFldSh_pwr {s : State} {f : Fld} {v : Nat} : (s.setFldSh f v).pwr = s.pwr := rfl
@[simp] theorem State.setFldSh_pins {s : State} {f : Fld} {v : Nat} : (s.setFldSh f v).pins = s.pins := rfl
@[simp] theorem State.setFldSh_irq {s : State} {f : Fld} {v : Nat} : (s.setFldSh f v).irq = s.irq := rfl
@[simp] theorem State.setFldSh_mbx {s : State} {f : Fld} {v : Nat} : (s.setFldSh f v).mbx = s.mbx := rfl
@[simp] theorem State.setFldSh_mcss {s : State} {f : Fld} {v : Nat} : (s.setFldSh f v).mcss = s.mcss := rfl
@[simp] theorem State.setFldSh_ptis {s : State} {f : Fld} {v : Nat} : (s.setFldSh f v).ptis = s.ptis := rfl
@[simp] theorem State.setFldSh_platens {s : State} {f : Fld} {v : Nat} : (s.setFldSh f v).platens = s.platens := rfl
@[simp] theorem State.setFldSh_ptm {s : State} {f : Fld} {v : Nat} : (s.setFldSh f v).ptm = s.ptm := rfl
@[simp] theorem State.setFldSh_grd {s : State} {f : Fld} {v : Nat} : (s.setFldSh f v).grd = s.grd := rfl
@[simp] theorem State.setFldSh_stk {s : State} {f : Fld} {v : Nat} : (s.setFldSh f v).stk = s.stk := rfl
@[simp] theorem State.setFldSh_twin {s : State} {f : Fld} {v : Nat} : (s.setFldSh f v).twin = s.twin := rfl
@[simp] theorem State.setFldSh_dx {s : State} {f : Fld} {v : Nat} : (s.setFldSh f v).dx = s.dx := rfl
@[simp] theorem State.setFldSh_fw {s : State} {f : Fld} {v : Nat} : (s.setFldSh f v).fw = s.fw := rfl
@[simp] theorem State.setFldSh_wakeImg {s : State} {f : Fld} {v : Nat} : (s.setFldSh f v).wakeImg = s.wakeImg := rfl
@[simp] theorem State.setFldSh_flash {s : State} {f : Fld} {v : Nat} : (s.setFldSh f v).flash = s.flash := rfl
@[simp] theorem State.setFldSh_rxf {s : State} {f : Fld} {v : Nat} : (s.setFldSh f v).rxf = s.rxf := rfl
@[simp] theorem State.setFldSh_cls {s : State} {f : Fld} {v : Nat} : (s.setFldSh f v).cls = s.cls := rfl
@[simp] theorem State.setFldSh_net {s : State} {f : Fld} {v : Nat} : (s.setFldSh f v).net = s.net := rfl
@[simp] theorem State.setFldSh_gal {s : State} {f : Fld} {v : Nat} : (s.setFldSh f v).gal = s.gal := rfl
@[simp] theorem State.setFldSh_sorts {s : State} {f : Fld} {v : Nat} : (s.setFldSh f v).sorts = s.sorts := rfl
@[simp] theorem State.setFldSh_impo {s : State} {f : Fld} {v : Nat} : (s.setFldSh f v).impo = s.impo := rfl
@[simp] theorem State.setFldSh_lanes {s : State} {f : Fld} {v : Nat} : (s.setFldSh f v).lanes = s.lanes := rfl
@[simp] theorem State.setFldSh_tdms {s : State} {f : Fld} {v : Nat} : (s.setFldSh f v).tdms = s.tdms := rfl
@[simp] theorem State.setFldSh_txs {s : State} {f : Fld} {v : Nat} : (s.setFldSh f v).txs = s.txs := rfl
@[simp] theorem State.setFldSh_txp {s : State} {f : Fld} {v : Nat} : (s.setFldSh f v).txp = s.txp := rfl
@[simp] theorem State.setFldSh_hsts {s : State} {f : Fld} {v : Nat} : (s.setFldSh f v).hsts = s.hsts := rfl
@[simp] theorem State.setFldSh_reads {s : State} {f : Fld} {v : Nat} : (s.setFldSh f v).reads = s.reads := rfl
@[simp] theorem State.setFldSh_hstBytes {s : State} {f : Fld} {v : Nat} : (s.setFldSh f v).hstBytes = s.hstBytes := rfl
@[simp] theorem State.setFldSh_hstSlots {s : State} {f : Fld} {v : Nat} : (s.setFldSh f v).hstSlots = s.hstSlots := rfl
@[simp] theorem State.setFldSh_bus {s : State} {f : Fld} {v : Nat} : (s.setFldSh f v).bus = s.bus := rfl
@[simp] theorem State.setFldSh_pending {s : State} {f : Fld} {v : Nat} : (s.setFldSh f v).pending = s.pending := rfl

@[simp] theorem State.setFlag_sh {s : State} {f : Fld} {b : Bool} : (s.setFlag f b).sh = s.sh := rfl
@[simp] theorem State.setFlag_cap {s : State} {f : Fld} {b : Bool} : (s.setFlag f b).cap = s.cap := rfl
@[simp] theorem State.setFlag_marks {s : State} {f : Fld} {b : Bool} : (s.setFlag f b).marks = s.marks := rfl
@[simp] theorem State.setFlag_strobes {s : State} {f : Fld} {b : Bool} : (s.setFlag f b).strobes = s.strobes := rfl
@[simp] theorem State.setFlag_latched {s : State} {f : Fld} {b : Bool} : (s.setFlag f b).latched = s.latched := rfl
@[simp] theorem State.setFlag_freeCtr {s : State} {f : Fld} {b : Bool} : (s.setFlag f b).freeCtr = s.freeCtr := rfl
@[simp] theorem State.setFlag_out {s : State} {f : Fld} {b : Bool} : (s.setFlag f b).out = s.out := rfl
@[simp] theorem State.setFlag_user {s : State} {f : Fld} {b : Bool} : (s.setFlag f b).user = s.user := rfl
@[simp] theorem State.setFlag_ticks {s : State} {f : Fld} {b : Bool} : (s.setFlag f b).ticks = s.ticks := rfl
@[simp] theorem State.setFlag_timeAcc {s : State} {f : Fld} {b : Bool} : (s.setFlag f b).timeAcc = s.timeAcc := rfl
@[simp] theorem State.setFlag_aonAcc {s : State} {f : Fld} {b : Bool} : (s.setFlag f b).aonAcc = s.aonAcc := rfl
@[simp] theorem State.setFlag_crcBad {s : State} {f : Fld} {b : Bool} : (s.setFlag f b).crcBad = s.crcBad := rfl
@[simp] theorem State.setFlag_crcSkip {s : State} {f : Fld} {b : Bool} : (s.setFlag f b).crcSkip = s.crcSkip := rfl
@[simp] theorem State.setFlag_pwr {s : State} {f : Fld} {b : Bool} : (s.setFlag f b).pwr = s.pwr := rfl
@[simp] theorem State.setFlag_pins {s : State} {f : Fld} {b : Bool} : (s.setFlag f b).pins = s.pins := rfl
@[simp] theorem State.setFlag_irq {s : State} {f : Fld} {b : Bool} : (s.setFlag f b).irq = s.irq := rfl
@[simp] theorem State.setFlag_mbx {s : State} {f : Fld} {b : Bool} : (s.setFlag f b).mbx = s.mbx := rfl
@[simp] theorem State.setFlag_mcss {s : State} {f : Fld} {b : Bool} : (s.setFlag f b).mcss = s.mcss := rfl
@[simp] theorem State.setFlag_ptis {s : State} {f : Fld} {b : Bool} : (s.setFlag f b).ptis = s.ptis := rfl
@[simp] theorem State.setFlag_platens {s : State} {f : Fld} {b : Bool} : (s.setFlag f b).platens = s.platens := rfl
@[simp] theorem State.setFlag_ptm {s : State} {f : Fld} {b : Bool} : (s.setFlag f b).ptm = s.ptm := rfl
@[simp] theorem State.setFlag_grd {s : State} {f : Fld} {b : Bool} : (s.setFlag f b).grd = s.grd := rfl
@[simp] theorem State.setFlag_stk {s : State} {f : Fld} {b : Bool} : (s.setFlag f b).stk = s.stk := rfl
@[simp] theorem State.setFlag_twin {s : State} {f : Fld} {b : Bool} : (s.setFlag f b).twin = s.twin := rfl
@[simp] theorem State.setFlag_dx {s : State} {f : Fld} {b : Bool} : (s.setFlag f b).dx = s.dx := rfl
@[simp] theorem State.setFlag_fw {s : State} {f : Fld} {b : Bool} : (s.setFlag f b).fw = s.fw := rfl
@[simp] theorem State.setFlag_wakeImg {s : State} {f : Fld} {b : Bool} : (s.setFlag f b).wakeImg = s.wakeImg := rfl
@[simp] theorem State.setFlag_flash {s : State} {f : Fld} {b : Bool} : (s.setFlag f b).flash = s.flash := rfl
@[simp] theorem State.setFlag_rxf {s : State} {f : Fld} {b : Bool} : (s.setFlag f b).rxf = s.rxf := rfl
@[simp] theorem State.setFlag_cls {s : State} {f : Fld} {b : Bool} : (s.setFlag f b).cls = s.cls := rfl
@[simp] theorem State.setFlag_net {s : State} {f : Fld} {b : Bool} : (s.setFlag f b).net = s.net := rfl
@[simp] theorem State.setFlag_gal {s : State} {f : Fld} {b : Bool} : (s.setFlag f b).gal = s.gal := rfl
@[simp] theorem State.setFlag_sorts {s : State} {f : Fld} {b : Bool} : (s.setFlag f b).sorts = s.sorts := rfl
@[simp] theorem State.setFlag_impo {s : State} {f : Fld} {b : Bool} : (s.setFlag f b).impo = s.impo := rfl
@[simp] theorem State.setFlag_lanes {s : State} {f : Fld} {b : Bool} : (s.setFlag f b).lanes = s.lanes := rfl
@[simp] theorem State.setFlag_tdms {s : State} {f : Fld} {b : Bool} : (s.setFlag f b).tdms = s.tdms := rfl
@[simp] theorem State.setFlag_txs {s : State} {f : Fld} {b : Bool} : (s.setFlag f b).txs = s.txs := rfl
@[simp] theorem State.setFlag_txp {s : State} {f : Fld} {b : Bool} : (s.setFlag f b).txp = s.txp := rfl
@[simp] theorem State.setFlag_hsts {s : State} {f : Fld} {b : Bool} : (s.setFlag f b).hsts = s.hsts := rfl
@[simp] theorem State.setFlag_reads {s : State} {f : Fld} {b : Bool} : (s.setFlag f b).reads = s.reads := rfl
@[simp] theorem State.setFlag_hstBytes {s : State} {f : Fld} {b : Bool} : (s.setFlag f b).hstBytes = s.hstBytes := rfl
@[simp] theorem State.setFlag_hstSlots {s : State} {f : Fld} {b : Bool} : (s.setFlag f b).hstSlots = s.hstSlots := rfl
@[simp] theorem State.setFlag_bus {s : State} {f : Fld} {b : Bool} : (s.setFlag f b).bus = s.bus := rfl
@[simp] theorem State.setFlag_pending {s : State} {f : Fld} {b : Bool} : (s.setFlag f b).pending = s.pending := rfl

@[simp] theorem State.emit_rf {s : State} {o : Out} : (s.emit o).rf = s.rf := rfl
@[simp] theorem State.emit_sh {s : State} {o : Out} : (s.emit o).sh = s.sh := rfl
@[simp] theorem State.emit_cap {s : State} {o : Out} : (s.emit o).cap = s.cap := rfl
@[simp] theorem State.emit_marks {s : State} {o : Out} : (s.emit o).marks = s.marks := rfl
@[simp] theorem State.emit_strobes {s : State} {o : Out} : (s.emit o).strobes = s.strobes := rfl
@[simp] theorem State.emit_latched {s : State} {o : Out} : (s.emit o).latched = s.latched := rfl
@[simp] theorem State.emit_freeCtr {s : State} {o : Out} : (s.emit o).freeCtr = s.freeCtr := rfl
@[simp] theorem State.emit_user {s : State} {o : Out} : (s.emit o).user = s.user := rfl
@[simp] theorem State.emit_ticks {s : State} {o : Out} : (s.emit o).ticks = s.ticks := rfl
@[simp] theorem State.emit_timeAcc {s : State} {o : Out} : (s.emit o).timeAcc = s.timeAcc := rfl
@[simp] theorem State.emit_aonAcc {s : State} {o : Out} : (s.emit o).aonAcc = s.aonAcc := rfl
@[simp] theorem State.emit_crcBad {s : State} {o : Out} : (s.emit o).crcBad = s.crcBad := rfl
@[simp] theorem State.emit_crcSkip {s : State} {o : Out} : (s.emit o).crcSkip = s.crcSkip := rfl
@[simp] theorem State.emit_pwr {s : State} {o : Out} : (s.emit o).pwr = s.pwr := rfl
@[simp] theorem State.emit_pins {s : State} {o : Out} : (s.emit o).pins = s.pins := rfl
@[simp] theorem State.emit_irq {s : State} {o : Out} : (s.emit o).irq = s.irq := rfl
@[simp] theorem State.emit_mbx {s : State} {o : Out} : (s.emit o).mbx = s.mbx := rfl
@[simp] theorem State.emit_mcss {s : State} {o : Out} : (s.emit o).mcss = s.mcss := rfl
@[simp] theorem State.emit_ptis {s : State} {o : Out} : (s.emit o).ptis = s.ptis := rfl
@[simp] theorem State.emit_platens {s : State} {o : Out} : (s.emit o).platens = s.platens := rfl
@[simp] theorem State.emit_ptm {s : State} {o : Out} : (s.emit o).ptm = s.ptm := rfl
@[simp] theorem State.emit_grd {s : State} {o : Out} : (s.emit o).grd = s.grd := rfl
@[simp] theorem State.emit_stk {s : State} {o : Out} : (s.emit o).stk = s.stk := rfl
@[simp] theorem State.emit_twin {s : State} {o : Out} : (s.emit o).twin = s.twin := rfl
@[simp] theorem State.emit_dx {s : State} {o : Out} : (s.emit o).dx = s.dx := rfl
@[simp] theorem State.emit_fw {s : State} {o : Out} : (s.emit o).fw = s.fw := rfl
@[simp] theorem State.emit_wakeImg {s : State} {o : Out} : (s.emit o).wakeImg = s.wakeImg := rfl
@[simp] theorem State.emit_flash {s : State} {o : Out} : (s.emit o).flash = s.flash := rfl
@[simp] theorem State.emit_rxf {s : State} {o : Out} : (s.emit o).rxf = s.rxf := rfl
@[simp] theorem State.emit_cls {s : State} {o : Out} : (s.emit o).cls = s.cls := rfl
@[simp] theorem State.emit_net {s : State} {o : Out} : (s.emit o).net = s.net := rfl
@[simp] theorem State.emit_gal {s : State} {o : Out} : (s.emit o).gal = s.gal := rfl
@[simp] theorem State.emit_sorts {s : State} {o : Out} : (s.emit o).sorts = s.sorts := rfl
@[simp] theorem State.emit_impo {s : State} {o : Out} : (s.emit o).impo = s.impo := rfl
@[simp] theorem State.emit_lanes {s : State} {o : Out} : (s.emit o).lanes = s.lanes := rfl
@[simp] theorem State.emit_tdms {s : State} {o : Out} : (s.emit o).tdms = s.tdms := rfl
@[simp] theorem State.emit_txs {s : State} {o : Out} : (s.emit o).txs = s.txs := rfl
@[simp] theorem State.emit_txp {s : State} {o : Out} : (s.emit o).txp = s.txp := rfl
@[simp] theorem State.emit_hsts {s : State} {o : Out} : (s.emit o).hsts = s.hsts := rfl
@[simp] theorem State.emit_reads {s : State} {o : Out} : (s.emit o).reads = s.reads := rfl
@[simp] theorem State.emit_hstBytes {s : State} {o : Out} : (s.emit o).hstBytes = s.hstBytes := rfl
@[simp] theorem State.emit_hstSlots {s : State} {o : Out} : (s.emit o).hstSlots = s.hstSlots := rfl
@[simp] theorem State.emit_bus {s : State} {o : Out} : (s.emit o).bus = s.bus := rfl
@[simp] theorem State.emit_pending {s : State} {o : Out} : (s.emit o).pending = s.pending := rfl


end Sys2Proof.Machine
end

