-- ==== Sys2Proof/Certificates/Slice0/Obligations.lean ====
section
/-! DEFINITION. The statements for the provers. -/

open Sys2Proof Sys2Proof.Machine

/-- R43 to R45: the steps that bring the rails up, the code 20 they hold on VID, and everything they leave alone. -/
def Obligations.SupplyStartSteps : Prop :=
  ∀ s : State,
    (∀ a b c d e, s.domOn 0 = false → Goes (.aonResetRelease a b c d e) s fun t =>
      t = { s with pins := { s.pins with banks := [a, b, c, d, e], vid := some 20 }, pwr := t.pwr } ∧ t.pwr.rcTimer = true ∧
        t.pwr.attempts = 0 ∧ ∀ k, t.pwr.dom.getD k false = decide (k = 0)) ∧
    (∀ c, (c = .pwrCoreEnRise ∧ s.pwr.rcTimer = true) ∨ (c = .railRetry ∧ s.pwr.retryWait = true) → Goes c s fun t =>
      t = { s with pins := { s.pins with pwrCoreEn := true, vid := some 20 }, pwr := t.pwr } ∧ t.pwr.starting = true ∧
        t.pwr.rcTimer = false ∧ t.pwr.retryWait = false ∧ t.pwr.attempts = s.pwr.attempts ∧
        ∀ k, t.pwr.dom.getD k false = decide (k ∈ [0, 1, 2, 8, 11])) ∧
    (s.pwr.starting = true → s.pins.pwrCoreEn = true → Goes .railTimeout s fun t =>
      t = { s with pins := { s.pins with pwrCoreEn := false }, pwr := t.pwr } ∧ t.pwr.starting = false ∧
        t.pwr.attempts = s.pwr.attempts + 1 ∧ (t.pwr.retryWait = true ↔ s.pwr.attempts < 2) ∧ t.pwr.railCopy = true ∧
        ∀ k, t.pwr.dom.getD k false = decide (k = 0))

/-- R46, R49, R50: RESET_N, SYS.RESET and the loss of supply put every register to its reset word and keep the flash and
the waiting commands; the first two keep the straps' pins, the crystal and the slow counter. It rests on the model's
choices of log 39. -/
def Obligations.WholeDeviceReset : Prop :=
  ∀ s : State,
    (∀ ns, 1000 ≤ ns → s.domOn 0 = true → s.pins.pwrCoreEn = true → Goes (.resetNPulse ns) s (WasReset s)) ∧
    (s.pwr.resetDue = true → Goes .sysResetExecute s (WasReset s)) ∧
    Goes .supplyLoss s fun t => t.flash = s.flash ∧ t.pending = s.pending ∧ t.pins.pwrCoreEn = false ∧
      (∀ k, t.rd k = regDefault k ∧ t.rdSh k = regDefault k) ∧ t.mbx = mbxReset ∧ t.gal = galReset ∧ ∀ d, t.domOn d = false

/-- R52 to R55: the ten levels are sampled into SYS.STRAPS, a reserved personality or an invalid combination enters
RECOVERY; a later change shows in LIVE and sets CHANGED. It rests on the model's choices of log 5. -/
def Obligations.StrapsSampledAndCompared : Prop :=
  ∀ (s : State) (v : Nat), v < 1024 →
    (s.pwr.starting = true → s.pins.pwrCoreEn = true → Goes (.strapSample v) s fun t =>
      bits (t.rd R.SYS.STRAPS.reg).toNat 0 10 = v ∧ t.fld R.SYS.STRAPS.LIVE = v ∧ t.pers = bits v 5 2 ∧
        t.pwr.starting = false ∧ t.pwr.attempts = 0 ∧ t.fw.work.pers = bits v 5 2 ∧
        t.fld R.HST.CTL_CFG.I2C = bits v 7 1 ∧ t.fld R.STK.ID.POSITION = bits v 2 3 ∧
        (bits v 5 2 = 3 → t.phase = 3 ∧ t.fld R.SYS.PHASE.REASON = 1) ∧
        (bits v 5 2 ≠ 3 → comboBad v = true → t.phase = 3 ∧ t.fld R.SYS.PHASE.REASON = 2) ∧
        (bits v 5 2 ≠ 3 → comboBad v = false → t.phase = s.phase)) ∧
    (s.pwr.starting = false → s.domOn 0 = true → Goes (.strapCompare v) s fun t =>
      t = { s with pins := { s.pins with straps := v }, rf := t.rf } ∧ t.fld R.SYS.STRAPS.LIVE = v ∧
        Touches [R.SYS.STRAPS.LIVE, R.SYS.STRAPS.CHANGED] s t ∧
        (v ≠ bits (s.rd R.SYS.STRAPS.reg).toNat 0 10 → t.fld R.SYS.STRAPS.CHANGED = 1) ∧
        (v = bits (s.rd R.SYS.STRAPS.reg).toNat 0 10 → t.fld R.SYS.STRAPS.CHANGED = s.fld R.SYS.STRAPS.CHANGED))

/-- R77, R83, R84: the crystal and the PLLs. -/
def Obligations.CrystalAndPllSteps : Prop :=
  ∀ s : State,
    (s.domOn 0 = true → Goes .xtalQualified s fun t =>
      t = { s with pwr := { s.pwr with xtalTicks := true }, rf := t.rf } ∧ t.fld R.PWR.STATE.XTAL_OK = 1 ∧
        Touches [R.PWR.STATE.XTAL_OK] s t) ∧
    (s.domOn 0 = true → s.pwr.xtalTicks = false → Goes .xtalFailTimeout s fun t =>
      t = { s with rf := t.rf } ∧ t.fld R.PWR.FAULT.XTAL_FAIL = 1 ∧ Touches [R.PWR.FAULT.XTAL_FAIL] s t) ∧
    (s.domOn 11 = true → Goes .refPllLock s fun t =>
      t = { s with pwr := { s.pwr with handbackDue := s.pwr.handover }, rf := t.rf } ∧
        t.fld R.CLK.PLL_STAT.REF_LOCK = 1 ∧ Touches [R.CLK.PLL_STAT.REF_LOCK] s t) ∧
    (s.domOn 11 = true → Goes .sysPllLock s fun t =>
      t.fld R.CLK.PLL_STAT.SYS_LOCK = 1 ∧
        (s.pstate ≠ 10 → t.fld R.CLK.PLL_STAT.CORE_SLOW = 0) ∧
        (s.pstate = 10 → t.fld R.CLK.PLL_STAT.CORE_SLOW = s.fld R.CLK.PLL_STAT.CORE_SLOW) ∧
        (s.phase ≠ 0 → t = { s with rf := t.rf } ∧ Touches [R.CLK.PLL_STAT.SYS_LOCK, R.CLK.PLL_STAT.CORE_SLOW] s t) ∧
        (s.phase = 0 → t = { s with rf := t.rf, dx := t.dx } ∧ t.dxCell 3 = s.flash.serial % 65536 ∧
          t.dxCell 8 = s.flash.macs.getD 2 0 % 65536 ∧ t.fld (R.NET.MAC_LO.ADDR 0) = s.flash.macs.getD 0 0 % 2 ^ 32)) ∧
    (Goes (.pllLossOfLock true) s fun t =>
      t = { s with rf := t.rf } ∧ t.fld R.CLK.PLL_STAT.SYS_LOCK = 0 ∧ t.fld R.CLK.PLL_STAT.SYS_LOSS = 1 ∧
        Touches [R.CLK.PLL_STAT.SYS_LOCK, R.CLK.PLL_STAT.SYS_LOSS] s t) ∧
    (∀ n, n < 8 → s.mcsState n = mcsLocked → (s.mcs n).locked = true → (∀ m, m < 8 → m ≠ n → s.mcsState m = mcsOff) →
      ∃ u, exec (.pllLossOfLock false) s = .next (follow s u) ∧ u.fld R.CLK.PLL_STAT.REF_LOCK = 0 ∧
        u.fld R.CLK.PLL_STAT.REF_LOSS = 1 ∧ u.mcsState n = mcsHold ∧ u.fld (R.CLK.MCS_STAT.HOLD_EV n) = 1)
/-- R59 to R61: in RUN a demand domain with nothing enabled goes off with its registers saved and lost, in an entry every domain
its state does not keep; one that is off comes on with its saved registers, and a saved image whose check fails leaves it isolated
and the device in RECOVERY. It rests on the model's choices of log 38. -/
def Obligations.DemandDomainSwitches : Prop :=
  ∀ (s : State) (d : Nat), d < 12 →
    (3 ≤ d → d ≠ 11 → s.pstate = 0 → demandBusy s d = false → s.domOn d = true → Goes (.domainPowerOff d) s fun t =>
      t.domOn d = false ∧ (∃ i ∈ t.pwr.retention, i.domain = d) ∧
        ∀ k, lostWith d k = true → k ∉ fixedKeys → t.rd k = regDefault k ∧ t.rdSh k = regDefault k) ∧
    (s.pstate = 9 ∨ (s.pstate = 8 ∧ 3 ≤ d) → d ≠ 0 → d ≠ 11 → entryKeeps s d = false → s.domOn d = true →
      ∃ u, exec (.domainPowerOff d) s = .next (follow s u) ∧ u.domOn d = false ∧ ∃ i ∈ u.pwr.retention, i.domain = d) ∧
    (d ≠ 0 → s.pins.pwrCoreEn = true → s.pwr.dom.getD d false = false → s.pstate = 0 → d < s.pwr.dom.length →
      (s.pwr.retention.find? (fun i => i.domain == d) = none → Goes (.domainPowerUp d false) s fun t =>
        t.pwr.dom.getD d false = true ∧ t = { s with rf := t.rf, pwr := t.pwr } ∧
          Touches [R.GAL.POOL.BUILD0, R.GAL.POOL.BUILD1] s t) ∧
      (∀ img, s.pwr.retention.find? (fun i => i.domain == d) = some img → d ≠ 1 → Goes (.domainPowerUp d false) s fun t =>
        t.pwr.dom.getD d false = true ∧ t = { s with rf := t.rf, sh := t.sh, pwr := t.pwr } ∧
          t.pwr.retention = s.pwr.retention.filter (fun i => i.domain != d) ∧
          ∀ k w, img.regs = [(k, w)] → k < shadowKey → k ∉ fixedKeys → t.rd k = w) ∧
      ((s.pwr.retention.find? (fun i => i.domain == d)).isSome = true → d < s.pwr.isolated.length →
        Goes (.domainPowerUp d true) s fun t =>
          t.pwr.isolated.getD d false = true ∧ t.domOn d = false ∧ t.phase = 3 ∧ t.fld R.SYS.PHASE.REASON = 3 ∧
            t.fld R.PWR.FAULT.RESTORE_CRC = 1 ∧ t = { s with rf := t.rf, pwr := t.pwr }))

/-- R68 to R72: an armed latch of DOZE starts WAKING with its number as the cause; so does the slow counter's alarm. It
rests on the model's choices of log 37. -/
def Obligations.LatchesWakeFromDoze : Prop :=
  ∀ s : State, s.pstate = 1 → s.domOn 0 = true →
    (∀ k ns, k < 16 → k ≠ 14 → (k = 1 → s.flag R.SYS.STRAPS.CTL_SEL = false) →
      (k = 15 → s.flag R.SYS.STRAPS.CTL_SEL = true) → 50 ≤ ns → nbit (s.fld R.PWR.WL_CFG.EN) k = true → drivesPin s k = false →
      Goes (.wakeLatchEdge k (nbit (s.fld R.PWR.WL_CFG.EDGE) k) ns false false) s fun t =>
        t.pstate = 10 ∧ t.fld R.PWR.STATE.PREV = 1 ∧ t.fld R.PWR.STATE.LAST_WAKE = k ∧ t.pwr.from_ = 1 ∧
          nbit (t.fld R.PWR.WL_STAT.LATCHED) k = true) ∧
    (s.fld R.PWR.ALARM.TICKS ≠ 0 → s.flag R.PWR.STATE.XTAL_OK = true → s.pwr.slowTicks % 2 ^ 32 = s.fld R.PWR.ALARM.TICKS →
      nbit (s.fld R.PWR.WL_CFG.EN) 14 = true → Goes (.slowCounterAlarm false) s fun t =>
        t.pstate = 10 ∧ t.fld R.PWR.STATE.LAST_WAKE = 14 ∧ nbit (t.fld R.PWR.WL_STAT.LATCHED) 14 = true)

/-- R42, R44, R64: a wake from a sleep state holds off for the minimum off time, lets SRAM_RET fall, and raises
PWR_CORE_EN; rails that do not come up leave the device asleep with the fault recorded. It rests on the model's choices of
log 38. -/
def Obligations.WakeFromSleepSteps : Prop :=
  ∀ s : State,
    (s.pwr.minOff = true → s.pwr.starting = false → s.pwr.wakeHeld = true → Goes .minOffTimeExpiry s fun t =>
      t.pstate = 10 ∧ t.fld R.PWR.STATE.PREV = s.pstate ∧ t.pins.sramRet = false ∧ t.pins.vid = some 20 ∧
        t.pwr.retFall = true ∧ t.pwr.minOff = false ∧ t.pwr.from_ = s.pstate ∧ t = { s with rf := t.rf, pwr := t.pwr, pins := t.pins }) ∧
    (s.pwr.minOff = true → s.pwr.starting = false → s.pwr.wakeHeld = false → Goes .minOffTimeExpiry s fun t =>
      t = { s with pwr := { s.pwr with minOff := false } }) ∧
    (s.pwr.minOff = true → s.pwr.starting = true → Goes .minOffTimeExpiry s fun t =>
      t.pstate = s.pstate ∧ t.pins.sramRet = false ∧ t.pins.vid = some 20 ∧ t.pwr.retFall = true ∧ t.pwr.minOff = false ∧
        t = { s with rf := t.rf, pwr := t.pwr, pins := t.pins }) ∧
    (s.pwr.retFall = true → Goes .wakePowerUp s fun t =>
      t.pins.pwrCoreEn = true ∧ t.pwr.retFall = false ∧ t = { s with pwr := t.pwr, pins := t.pins } ∧
        (s.pwr.starting = true → ∀ k, t.pwr.dom.getD k false = decide (k ∈ [0, 1, 2, 8, 11])) ∧
        (s.pwr.starting = false → t.pwr.dom = s.pwr.dom)) ∧
    (s.pstate = 10 → s.pwr.from_ ≠ 1 → s.pwr.from_ < 16 → s.pins.pwrCoreEn = true → s.domOn 11 = false →
      Goes .wakeRailTimeout s fun t =>
        t.pstate = s.pwr.from_ ∧ t.fld R.PWR.FAULT.RAIL_TIMEOUT = 1 ∧ t.pins.pwrCoreEn = false ∧ t.pins.sramRet = true ∧
          t.pins.vid = none ∧ t.fld R.PWR.AVS.VID_NOW = 0 ∧ t = { s with rf := t.rf, pins := t.pins })

/-- R62 to R67: the entries and the end of a wake. Before what follows a moved clock or port, DOZE is entered with the
system PLL off; the point of no return takes the rails away; a wake reaches RUN. It rests on the model's choices of logs
38, 88. -/
def Obligations.PowerStateTransitions : Prop :=
  ∀ s : State,
    (s.pstate = 8 → ∃ u, exec .toDozeComplete s = .next (follow s u) ∧ u.pstate = 1 ∧ u.fld R.PWR.STATE.PREV = 8 ∧
      u.fld R.CLK.PLL_STAT.SYS_LOCK = 0 ∧ u.fld R.CLK.PLL_STAT.CORE_SLOW = 1) ∧
    (s.pstate = 9 → s.pwr.handover = true → s.pwr.sleepSave ≠ 1 → s.pwr.target < 16 → Goes .pointOfNoReturn s fun t =>
      t.pstate = s.pwr.target ∧ t.fld R.PWR.STATE.PREV = 9 ∧ t.pins.pwrCoreEn = false ∧ t.pins.sramRet = s.pins.sramRet ∧
        t.pins.vid = none ∧ t.pwr.minOff = true ∧ t.pwr.retRise = true ∧ (ckAon t).pins.sramRet = true ∧
        (s.pwr.target = 3 → t.gal = { galReset with retired := s.gal.retired } ∧ t.fw.work = formeEmpty s.pers)) ∧
    (s.pstate = 10 → s.domOn 1 = true → s.domOn 2 = true → s.domOn 11 = true → s.pwr.from_ = 1 →
      (∀ n, n < 8 → s.flag (R.CLK.MCS_CFG.EN n) = false) → s.pwr.dozeBuf = [] → ∃ u m, exec (.wakingReady true) s =
        .next (follow s (queueEvent (queueFirst (queueFirst u 0 m) 1 m) 2 m)) ∧ m.opcode = 0xE030 ∧
          m.data = [byteOf 1, byteOf (s.fld R.PWR.STATE.LAST_WAKE)] ∧ u.pstate = 0 ∧ u.fld R.PWR.STATE.PREV = 10 ∧
          u.fld R.CLK.PLL_STAT.CORE_SLOW = b2n (!s.flag R.CLK.PLL_STAT.SYS_LOCK) ∧ u.flag R.MBX.STAT.FW_READY = true ∧ u.pwr.sinceEntry = 0) ∧
    (s.pstate = 9 → s.pwr.sleepSave = 1 → Goes (.sleepSaveDone true) s fun t =>
      t = { s with flash := { s.flash with formes := t.flash.formes }, pwr := { s.pwr with sleepSave := 2 } } ∧
        (∀ k, k ≠ 4 → t.flash.formes.getD k [] = s.flash.formes.getD k []) ∧
        (4 < s.flash.formes.length → t.flash.formes.getD 4 [] = s.fw.work.image)) ∧
    (s.domOn 8 = true → s.pwr.pmeArmed = none → Goes .pmeL2Handshake s fun t =>
      t = { s with rf := t.rf, out := .pmeToAck :: s.out } ∧ t.fld R.HST.LINK.STATE = 4 ∧ t.fld R.HST.LINK.UP = 0 ∧
        (s.flag R.HST.LINK.UP = true → t.fld R.HST.LINK.LINK_EV = 1) ∧
        Touches [R.HST.LINK.STATE, R.HST.LINK.UP, R.HST.LINK.LINK_EV] s t) ∧
    (Goes .pmeL2Timeout s fun t => t = { s with pwr := { s.pwr with pmeArmed := none } })

/-- R72, R78 to R80, R51, R405: the AVS loop's step, the pins of a brown-out and of PERST_N, and a frame in DOZE. It rests
on the model's choices of log 29. -/
def Obligations.AvsPinsAndDozeFrames : Prop :=
  ∀ s : State,
    (∀ slack ample, s.flag R.PWR.AVS.EN = true → s.pstate = 0 → s.fld R.PWR.AVS.VID_NOW < s.fld R.PWR.AVS.VID_MAX →
      slack < s.fld R.PWR.AVS.MARGIN → Goes (.avsStep slack ample) s fun t =>
        t.fld R.PWR.AVS.VID_NOW = s.fld R.PWR.AVS.VID_NOW + 1 ∧ t.pins.vid = some (s.fld R.PWR.AVS.VID_NOW + 1) ∧
          t.fld R.PWR.VID_RUN.VID_RUN_F = s.fld R.PWR.AVS.VID_NOW + 1 ∧
          t = { s with rf := t.rf, pwr := t.pwr, pins := { s.pins with vid := t.pins.vid } } ∧
          Touches [R.PWR.AVS.VID_NOW, R.PWR.VID_RUN.VID_RUN_F] s t) ∧
    (s.flag R.MBX.WDOG_CFG.TAKEOVER = true → twinState s = 2 → Goes .brownOut s fun t =>
      t = { s with pins := { s.pins with twinFailLow := true } }) ∧
    (s.domOn 8 = false → Goes .perstNAssert s fun t => t = { s with pins := { s.pins with perst := true } }) ∧
    (s.domOn 8 = true → Goes .perstNAssert s fun t => t.pins.perst = true ∧ t.reads = [] ∧
      t.fld R.HST.LINK.STATE = 5 ∧ t.fld R.HST.LINK.UP = 0 ∧ t.fld R.HST.LINK.PERST_EV = 1) ∧
    (∀ port raw i, s.pstate = 1 → port + 1 = s.fld R.PWR.CTRL.DOZE_PORT → port < 3 → linkUp s port = true →
      64 ≤ raw.length → raw.length ≤ s.fld (R.NET.CFG.MAX_DATA port) + 18 →
      fromLE (raw.drop (raw.length - 4)) = crc32 (raw.take (raw.length - 4)) →
      (parseFrame (raw.take (raw.length - 4))).etype ≠ 0x8808 → macAccepts s port (raw.take (raw.length - 4)) = true →
      (parseFrame (raw.take (raw.length - 4))).ckBad = false →
      (classify s port (parseFrame (raw.take (raw.length - 4)))).1 = some i → bits (s.key i 0).toNat 10 2 = 0 →
      s.flag (R.RXF.F_CFG.EN (bits (s.key i 0).toNat 0 8)) = true → s.flag R.PWR.CTRL.WOS_EN = true →
      Goes (.dozeFrameRx port raw true) s fun t => t.pstate = 10 ∧ t.fld R.PWR.STATE.LAST_WAKE = 0x20 ∧ t.pwr.from_ = 1)
/-- R86 to R101: media clocks. A free-running MCS acquires and locks at the end of an interval, the word clock input shows
what was found on it, and an output pin takes its configuration. It rests on the model's choices of logs 8, 93, 106. -/
def Obligations.MediaClockSteps : Prop :=
  ∀ s : State,
    (∀ n err refPpb freq, n < 8 → s.fld (R.CLK.MCS_CFG.REF_TYPE n) = 0 → (s.mcs n).stepped = false →
      s.flag R.CLK.PLL_STAT.REF_LOCK = true →
      (s.mcsState n = mcsQualify → (s.mcs n).first = false → ∃ u, exec (.mcsDetectorInterval n err refPpb freq) s =
        .next (follow s u) ∧ u.mcsState n = mcsAcquire ∧ u.fld (R.CLK.MCS_STAT.REF_OK n) = 1) ∧
      (s.mcsState n = mcsAcquire → n < s.mcss.length → ∃ u, exec (.mcsDetectorInterval n err refPpb freq) s =
        .next (follow s u) ∧ u.mcsState n = mcsLocked ∧ (u.mcs n).locked = true ∧
          u.fld (R.CLK.MCS_STAT.LOCK_EV n) = 1 ∧ u.fld (R.CLK.MCS_PHASE.ERR n) = ofSigned 32 err ∧
          u.fld (R.CLK.MCS_FREQ.OFFSET n) = 0)) ∧
    (∀ rate period, rate < 6 → (s.flag R.CLK.WCLK_STAT.PRESENT = true → s.fld R.CLK.WCLK_STAT.RATE_DET = rate) →
      grandHeld s = true ∨ (∀ n, n < 4 → s.fld (R.TIME.PTI_CFG.GM_SRC n) ≠ 2) →
      Goes (.wclkInQualified rate period) s fun t => t = { s with rf := t.rf } ∧
      t.fld R.CLK.WCLK_STAT.PRESENT = 1 ∧ t.fld R.CLK.WCLK_STAT.RATE_DET = rate ∧
        t.fld R.CLK.WCLK_STAT.PERIOD = period % 2 ^ R.CLK.WCLK_STAT.PERIOD.w ∧
        Touches [R.CLK.WCLK_STAT.PRESENT, R.CLK.WCLK_STAT.RATE_DET, R.CLK.WCLK_STAT.PERIOD] s t) ∧
    (∀ n rate period, n < 4 → rate < 6 → s.flag R.CLK.WCLK_STAT.PRESENT = false → grandHeld s = false →
      0 < period → period < 2 ^ R.CLK.WCLK_STAT.PERIOD.w → s.flag (R.TIME.PTI_CFG.EN n) = true →
      s.fld (R.TIME.PTI_CFG.ROLE n) = 2 → s.fld (R.TIME.PTI_CFG.GM_SRC n) = 2 → s.flag (R.TIME.PTI_SERVO.EN n) = true →
      Goes (.wclkInQualified rate period) s fun t => t.fld R.CLK.WCLK_STAT.RATE_DET = rate ∧
        t.addend n = addendClamp (1000000000 * nsUnit / (rateHz rate * period))) ∧
    (s.flag R.CLK.WCLK_STAT.PRESENT = true → Goes .wclkInLoss s fun t => t.fld R.CLK.WCLK_STAT.PRESENT = 0 ∧
      t.fld R.CLK.WCLK_STAT.RATE_DET = 7 ∧ t.fld R.CLK.WCLK_STAT.LOSS_EV = 1 ∧ t.fld R.CLK.WCLK_STAT.PERIOD = 0) ∧
    (∀ pin, pin < s.pins.clkOut.length → Goes (.clkOutputSwitch pin) s fun t =>
      t = { s with pins := { s.pins with clkOut := t.pins.clkOut } } ∧
        (outLow s pin = true → t.pins.clkOut.getD pin none = none) ∧
        (outLow s pin = false → t.pins.clkOut.getD pin none = some (outCfg s pin)) ∧
        ∀ k, k ≠ pin → t.pins.clkOut.getD k none = s.pins.clkOut.getD k none)

/-- R104: an addend is written in two halves, integer and fraction at one tick, within its bounds; while the servo owns it
the write is dropped with OWNER_CONFLICT. An INT write with no FRAC write before it is the model's choice of log 98. -/
def Obligations.AddendWrites : Prop :=
  ∀ (s : State) (n : Nat) (v : Word), n < 4 →
    (∀ frac, s.flag (R.TIME.PTI_SERVO.EN n) = true → Goes (.addendWrite n frac v) s fun t =>
      t = { s with rf := t.rf } ∧ t.fld (R.TIME.PTI_STAT.OWNER_CONFLICT n) = 1 ∧ t.addend n = s.addend n) ∧
    (s.flag (R.TIME.PTI_SERVO.EN n) = false → Goes (.addendWrite n false v) s fun t =>
      t = { s with rf := t.rf, mcss := t.mcss, ptis := t.ptis } ∧
        t.addend n = max 8572754723 (min 8607114461 (v.toNat * 2 ^ 32 + (s.pti n).staged)) ∧
        (∀ m, m ≠ n → t.pti m = s.pti m) ∧ (t.pti n).time = (s.pti n).time ∧
        Touches [R.TIME.PTI_ADDEND_INT.INT n, R.TIME.PTI_ADDEND_FRAC.FRAC n, R.REGIF.CFG_CRC_STAT.HOLD] s t) ∧
    (s.flag (R.TIME.PTI_SERVO.EN n) = false → n < s.ptis.length → Goes (.addendWrite n true v) s fun t =>
      t = { s with ptis := t.ptis } ∧ (t.pti n).staged = v.toNat ∧ t.addend n = s.addend n ∧ ∀ m, m ≠ n → t.pti m = s.pti m)

/-- R106 to R117: the messages, timers and measurements of a PTI, before what follows a changed port, lock or clock. It
rests on the model's choices of logs 8, 79, 80, 99, 100, 102 to 105. -/
def Obligations.PtpPortAndServoSteps : Prop :=
  ∀ (s : State) (n : Nat), n < 4 → n < s.ptis.length → (s.pti n).ports.length = 3 →
    (∀ x, x < 3 → s.portState n x = 2 → 3 ≤ ((s.pti n).port x).exchanges →
      (x < 2 → s.portState n (1 - x) ≠ 3) → ∃ u, exec (.ptpMessageRx n x true) s = .next (follow s u) ∧
        u.portState n x = 3 ∧ ((u.pti n).port x).stamps =
          eventStamp s (decide (x < 2))) ∧
    (∀ x ds gm steps, x < 3 → s.portState n x = 1 → s.fld (R.TIME.PTI_CFG.ROLE n) = 1 →
      (∀ y, y < 3 → y ≠ x → s.portState n y ≠ 2 ∧ s.portState n y ≠ 3) →
      ∃ u, exec (.announceRx n x ds gm steps) s = .next (follow s u) ∧ u.portState n x = 2 ∧ ((u.pti n).port x).gm = gm ∧
        (u.pti n).gmData = [gm, ds.getD 1 0, steps]) ∧
    (∀ x, x < 3 → s.portState n x = 2 → ∃ u, exec (.announceTimeout n x) s = .next (follow s u) ∧
      u.portState n x = 1 ∧ u.fld (R.TIME.PTI_STAT.ANN_TIMEOUT n) = 1) ∧
    (∀ x, x < 3 → s.portState n x = 1 → s.fld (R.TIME.PTI_CFG.ROLE n) ≠ 1 →
      (∀ y, y < 3 → y ≠ x → s.portState n y ≠ 2 ∧ s.portState n y ≠ 3) →
      ∃ u, exec (.announceTimeout n x) s = .next (follow s u) ∧ u.portState n x = 5) ∧
    (∀ x, x < 3 → s.portState n x = 7 → ∃ u, exec (.faultyRecover n x) s = .next (follow s u) ∧
      u.portState n x = 1) ∧
    (∀ x one dom at_, x < 3 → s.portState n x = 5 → one = (decide (x < 2) && !s.flag (R.TIME.PTI_CFG.TWO_STEP n)) →
      dom = s.fld (R.TIME.PTI_CFG.DOMAIN n) → at_ = (eventStamp s (decide (x < 2))).getD n ⟨0, 0, 0⟩ →
      Goes (.ptpSyncTx n x) s fun t => t = { s with out := t.out, net := t.net, ptis := t.ptis } ∧
        ((t.pti n).port x).sent = ((s.pti n).port x).sent + 1 ∧
        ∃ announced, announced.length ≤ 1 ∧ t.out = announced ++ (if one then [] else [.ptpFollowUp n x (transport s n) dom at_]) ++
          .ptpSync n x one (transport s n) dom at_ (syncSum s n one) :: s.out ∧
          ∀ o ∈ announced, o = .ptpAnnounce n x (transport s n) dom (ownQuality s n ++ [ownIdent s, 0, ownSource s n])) ∧
    (∀ x d, x < 3 → s.portState n x ≠ 0 → s.portState n x ≠ 7 → p2p s n = true ∨ (2 ≤ s.portState n x ∧ s.portState n x ≤ 4) →
      Goes (.delayMeasurement n x d) s fun t => t = { s with
          rf := t.rf
          ptis := t.ptis
          net := t.net
          out := .ptpDelay n x (p2p s n) (transport s n) (s.fld (R.TIME.PTI_CFG.DOMAIN n)) :: s.out } ∧
      ((t.pti n).port x).delays = (d :: ((s.pti n).port x).delays).take 8 ∧
      ((t.pti n).port x).delay = meanOf ((d :: ((s.pti n).port x).delays).take 8) ∧ Touches [delayStepFld n x] s t) ∧
    (∀ o, s.flag (R.TIME.PTI_CFG.EN n) = true → s.portState n 0 = 3 → s.portState n 1 ≠ 3 → s.portState n 1 ≠ 4 →
      s.portState n 2 ≠ 3 → s.portState n 2 ≠ 4 → s.fld (R.TIME.PTI_STAT.SEL_PORT n) = 0 →
      s.flag (R.TIME.PTI_STAT.FROZEN n) = false → s.flag (R.TIME.PTI_SERVO.EN n) = true →
      s.fld (R.TIME.PTI_CFG.ROLE n) ≠ 2 → s.flag (R.TIME.PTI_CFG.STEP_EN n) = false →
      ∃ u, exec (.servoUpdate n (some o) none none) s = .next (follow s u) ∧
        u.fld (R.TIME.PTI_OFFSET.NS n) = ofSigned 32 (corrected s n 0 o / 65536) ∧
        addendLo ≤ u.addend n ∧ u.addend n ≤ addendHi ∧
        ((u.pti n).port 0).offsets = (corrected s n 0 o :: ((s.pti n).port 0).offsets).take 8) ∧
    (s.flag (R.TIME.PTI_STAT.FROZEN n) = true → (s.pti n).selected = true →
      s.fld (R.TIME.PTI_SERVO.FREEZE_HOLD n) ≤ (s.pti n).holdRun → ∃ u, exec (.freezeHoldExpiry n) s = .next (follow s u) ∧
        u.fld (R.TIME.PTI_STAT.FROZEN n) = 0 ∧ (u.pti n).selected = false) ∧
    (s.flag (R.TIME.PTI_STAT.FROZEN n) = true → (s.pti n).selected = false → (s.pti n).wasSlave < 3 →
      ∃ u, exec (.asymBothTimeout n) s = .next (follow s u) ∧ u.fld (R.TIME.PTI_STAT.FROZEN n) = 0 ∧
        u.fld (R.TIME.PTI_STAT.UNEXPLAINED_STEP n) = 1 ∧ u.portState n (s.pti n).wasSlave = 3) ∧
    (64 ≤ (s.pti n).calmRun → Goes (.suspectClear n) s fun t => t = { s with rf := t.rf } ∧
      t.fld (R.TIME.PTI_STAT.SUSPECT_NETA n) = 0 ∧ t.fld (R.TIME.PTI_STAT.SUSPECT_NETB n) = 0 ∧
        Touches [R.TIME.PTI_STAT.SUSPECT_NETA n, R.TIME.PTI_STAT.SUSPECT_NETB n] s t)

/-- R111, R118, R124, R125: PPS, PTM and the time kept while the device sleeps. It rests on the model's choices of log 38.
-/
def Obligations.PpsPtmAndDormantTime : Prop :=
  ∀ s : State,
    (∀ f, f = s.flag R.TIME.PPS_CFG.IN_FALL → (∀ n, n < 4 → s.flag (R.TIME.PTI_CFG.EN n) = false ∨
        s.fld (R.TIME.PTI_CFG.ROLE n) ≠ 2 ∨ s.fld (R.TIME.PTI_CFG.GM_SRC n) ≠ 1) →
      ∃ u, exec (.ppsInEdge f) s = .next (follow s u) ∧ u.grd.ppsSeen = true ∧ u.fld R.GRD.TIO_STAT.PPS_LOSS = 0 ∧
        u.ptis = s.ptis) ∧
    (∀ n, n < 4 → n < s.ptis.length → s.flag (R.TIME.PTI_CFG.EN n) = true → s.fld (R.TIME.PTI_CFG.ROLE n) = 2 →
      s.fld (R.TIME.PTI_CFG.GM_SRC n) = 1 → s.flag (R.TIME.PTI_SERVO.EN n) = true → (s.pti n).time.ns < 100000 →
      (s.pti n).time.frac < 2 ^ 32 → grandHeld s = false → (∀ m, m < 4 → m ≠ n → s.flag (R.TIME.PTI_CFG.EN m) = false) →
      ∃ u, exec (.ppsInEdge (s.flag R.TIME.PPS_CFG.IN_FALL)) s = .next (follow s u) ∧ u.grd.ppsSeen = true ∧
        addendLo ≤ u.addend n ∧ u.addend n ≤ addendHi) ∧
    (s.flag R.TIME.PPS_CFG.OUT_EN = true →
      s.ptiRaw (s.fld R.TIME.PPS_CFG.OUT_PTI) % (1000000000 * nsUnit) < s.addend (s.fld R.TIME.PPS_CFG.OUT_PTI) →
      Goes .ppsOutPulse s fun t =>
      t = { s with out := .ppsPulse (s.fld R.TIME.PPS_CFG.WIDTH) :: s.out }) ∧
    (∀ root, s.flag R.TIME.PTM_CFG.EN = true → s.flag R.HST.LINK.UP = true → Goes (.ptmDialogue true root) s fun t =>
      t = { s with rf := t.rf, ptm := t.ptm } ∧ t.fld R.TIME.PTM_CFG.NEW = 1 ∧ t.ptm.root = root ∧
        t.ptm.pti = (s.pti (s.fld R.TIME.PTM_CFG.PTI)).time.sec * 1000000000 + (s.pti (s.fld R.TIME.PTM_CFG.PTI)).time.ns ∧
        Touches [R.TIME.PTM_CFG.NEW] s t) ∧
    (∀ ppb, s.flag R.PWR.STATE.XTAL_OK = true → s.domOn 11 = true → Goes (.trimWindowEnd ppb) s fun t =>
      t = { s with rf := t.rf, pwr := { s.pwr with trimDone := true } } ∧ t.fld R.TIME.TRIM.PPB = ofSigned 32 ppb ∧
        Touches [R.TIME.TRIM.PPB] s t) ∧
    (∀ n goal : Nat, s.pwr.handbackDue = true → n < 4 → n < s.ptis.length → s.flag (R.TIME.PTI_CFG.EN n) = true →
      (∀ m, m < 4 → m ≠ n → s.flag (R.TIME.PTI_CFG.EN m) = false) →
      (goal : Int) = ((s.pwr.slowTime * 2 ^ 26 : Nat) : Int) + s.pwr.diffs.getD n 0 → goal < 2 ^ 48 * 1000000000 * 2 ^ 32 →
      (s.pti n).time.sec < 2 ^ 48 → (s.pti n).time.ns < 1000000000 → (s.pti n).time.frac < 2 ^ 32 →
      ∃ u, exec .timeHandback s = .next (follow s u) ∧ u.ptiRaw n = goal ∧ u.fld (R.TIME.PTI_STAT.STEP_EV n) = 1 ∧
        u.pwr.handover = false ∧ u.pwr.handbackDue = false)

/-- R119 to R123, R140 to R142, R417: platens and update groups. It rests on the model's choices of log 78. -/
def Obligations.PlatensAndUpdateGroups : Prop :=
  ∀ (s : State) (k : Nat), k < 16 → k < s.platens.length →
    (∀ v : Word, v.getLsbD 31 = true → bits v.toNat 29 2 = 1 → bits v.toNat 24 2 = 0 →
      s.fld (R.TIME.PL_T_NS.VALUE k) < 1000000000 →
      s.ptiRaw (bits v.toNat 27 2) + 1000 * nsUnit ≤ plFire (s.setPl k { s.pl k with frac := 0 }) k →
      Goes (.platenArmWrite k v) s fun t => t.rd (R.TIME.PL_CFG.reg k) = v &&& 0xFF0FFCFF#32 ∧
        t.flag (R.TIME.PL_CFG.ARM k) = true) ∧
    (plDue s k = true → s.fld (R.TIME.PL_CFG.MODE k) = 1 → s.flag (R.TIME.PL_CFG.ACT_TDM k) = false →
      s.flag (R.TIME.PL_CFG.ACT_GPIO k) = false → (s.pl k).owner = 0 → s.fw.route = none → Goes (.platenFire k) s fun t =>
        t = { s with rf := t.rf, platens := t.platens } ∧ t.fld (R.TIME.PL_CFG.ARM k) = 0 ∧
          t.fld (R.TIME.PL_STAT.FIRED_EV k) = 1 ∧
          (s.flag (R.TIME.PL_CFG.ACT_UPD k) = true → (t.pl k).inflight = s.fld (R.TIME.PL_GROUPS.UPD k) ∧
            (t.pl k).fired = plFire s k)) ∧
    ((s.platens.foldl (fun g p => g ||| p.inflight) 0) ≠ 0 → Goes .platenStrobeArrival s fun t =>
      t = follow s (captureAt { s with platens := s.platens.map fun p => { p with inflight := 0 } }
        ((s.platens.foldl (fun g p => g ||| p.inflight) 0) % 65536) (fireTime s))) ∧
    (∀ src fall, s.fld (R.TIME.PL_CFG.MODE k) = 3 → s.flag (R.TIME.PL_CFG.ARM k) = true →
      s.fld (R.TIME.PL_CFG.SRC k) = src → s.fld (R.TIME.PL_CFG.EDGE k) = 2 →
      ((s.pl k).capture = none → Goes (.platenCaptureEdge src fall) s fun t =>
        (t.pl k).capture = some (s.pti (s.fld (R.TIME.PL_CFG.PTI k))).time ∧ t.fld (R.TIME.PL_STAT.CAPT_EV k) = 1) ∧
      ((s.pl k).capture ≠ none → Goes (.platenCaptureEdge src fall) s fun t =>
        (t.pl k).capture = (s.pl k).capture ∧ t.fld (R.TIME.PL_STAT.OVERRUN k) = 1)) ∧
    (∀ groups, nbit groups 1 = false → nbit groups 2 = false → nbit groups 3 = false → groups < 65536 →
      ∃ u, exec (.updateStrobe groups) s = .next (follow s u) ∧
        u.cap = s.cap.filter (fun c => !nbit groups c.grp) ++ differing s groups ∧ u.marks = newMarks s groups ∧ u.sh = s.sh ∧
        Touches [R.REGIF.UPDATE_STAT.PENDING, R.REGIF.CFG_CRC_STAT.HOLD] s u) ∧
    (∀ v, capVal s R.FRM.CFG.reg = some v → s.cap.any (fun c => c.grp == 14 && unitOf c.key == 0) = true →
      ∃ u, exec (.shadowApplyAtBoundary 14 0) s = .next (follow s u) ∧ u.rd R.FRM.CFG.reg = v ∧
        capVal u R.FRM.CFG.reg = none ∧ ∀ j, j ≠ R.FRM.CFG.reg → j ≠ R.REGIF.UPDATE_STAT.reg → u.rd j = s.rd j)

/-- R199 to R201, R415, R416: the boot ROM boots the active image, the other one where that fails, and enters RECOVERY
where both fail; firmware then applies the boot forme, or an empty one, is ready and enters its phase. It rests on the
model's choices of logs 69, 116. -/
def Obligations.BootImageThenForme : Prop :=
  ∀ s : State,
    (∀ a b fw proto, s.phase = 0 → s.pwr.starting = false → s.mbx.verified = false → bootsFlash s = true →
      s.flag R.CLK.PLL_STAT.SYS_LOCK = true → s.flash.trial = false → s.flash.active < 2 →
      (imageVerifies s (s.flash.images.getD s.flash.active []).length (if s.flash.active = 0 then a else b) = true → Goes (.bootImageVerified a b fw proto) s fun t =>
        t = { s with rf := t.rf, dx := t.dx, mbx := { s.mbx with verified := true, hostImg := false } } ∧
          t.fld R.MBX.BOOT_INFO.SOURCE = s.flash.active ∧ t.fld R.MBX.BOOT_INFO.FALLBACK = 0 ∧
          t.fld R.MBX.BOOT_INFO.TRIAL = 0 ∧ t.rd R.COLO.FW.reg = BitVec.ofNat 32 (fw % 2 ^ 24)) ∧
      (imageVerifies s (s.flash.images.getD s.flash.active []).length (if s.flash.active = 0 then a else b) = false →
        imageVerifies s (s.flash.images.getD (1 - s.flash.active) []).length (if s.flash.active = 0 then b else a) = true →
        Goes (.bootImageVerified a b fw proto) s fun t =>
          t.mbx = { s.mbx with verified := true, hostImg := false } ∧ t.fld R.MBX.BOOT_INFO.SOURCE = 1 - s.flash.active ∧
            t.fld R.MBX.BOOT_INFO.FALLBACK = 1 ∧ t.flash = s.flash) ∧
      (imageVerifies s (s.flash.images.getD 0 []).length a = false → imageVerifies s (s.flash.images.getD 1 []).length b = false →
        s.fld R.SYS.STRAPS.BOOT_SRC ≠ 3 → Goes (.bootImageVerified a b fw proto) s fun t =>
          t = (s.setFld R.MBX.BOOT_INFO.FALLBACK 3).enterRecovery 4 ∧ t.phase = 3 ∧ t.fld R.SYS.PHASE.REASON = 4)) ∧
    (s.phase = 0 → s.mbx.verified = true → s.flag R.MBX.STAT.FW_READY = false → s.flash.bootOv = none →
      (∀ k, s.flash.formes.getD k [] = []) → ∃ u, exec .bootFormeApplied s = .next (follow s u) ∧ u.phase = 1 ∧
        u.fld R.FRM.BOOT.USED = 7 ∧ u.fld R.FRM.BOOT.FALLBACK = 1 ∧ u.fld R.FRM.BOOT.TEST = 0 ∧ u.fld R.FRM.GEN.GEN_F = 0 ∧
        u.flag R.MBX.STAT.FW_READY = true ∧ u.flag R.SYS.PHASE.SERVICE_SEEN = true)

/-- R130, R131, R148, R150, R154, R156: a write or a read of a register by an initiator that reaches the bus. An unmapped
offset and a failed check are logged and counted; a write that passes the checks does what its register takes; a read shows
the register's word, and by the owner clears the RC bits it read; an alias word reads one bit and changes one bit. It rests on
the model's choices of logs 9, 84. -/
def Obligations.RegisterWritesAndReads : Prop :=
  ∀ (s r : State) (init : Nat), BusReady s init → r = accessed s init →
    (∀ a v, a < 0x100000 → a ≠ 0x3004 → isBank a = false → mapped init a = false →
      exec (.registerWrite init a v) s = .next (follow r (logOff r init a true)) ∧
        (logOff r init a true).fld R.REGIF.OFF_ACCESS_INFO.COUNT = min 65535 (s.fld R.REGIF.OFF_ACCESS_INFO.COUNT + 1) ∧
        Touches [R.REGIF.OFF_ACCESS_INFO.COUNT, R.REGIF.OFF_ACCESS_INFO.REASON, R.REGIF.OFF_ACCESS_ADDR.ADDR] r
          (logOff r init a true)) ∧
    (∀ a v w i c, a < 0x100000 → a ≠ 0x3004 → isBank a = false → regFind a = some (w, i) → w.indir = false → a % 4 = 0 →
      s.domOn (State.domOf a) = true → busCheck r init a (itemOf r init a) v false = c →
      (c = 0 → exec (.registerWrite init a v) s = .next (follow r (regPut r init a (itemOf r init a) v).1)) ∧
      (c ≠ 0 → exec (.registerWrite init a v) s = .next (follow r (logViol r init a c)) ∧
        (logViol r init a c).fld R.REGIF.VIOL_COUNT.COUNT = min 65535 (s.fld R.REGIF.VIOL_COUNT.COUNT + 1) ∧
        Touches [R.REGIF.VIOL_COUNT.COUNT, R.REGIF.VIOL_ADDR.ADDR, R.REGIF.VIOL_INFO.INIT, R.REGIF.VIOL_INFO.CAUSE] r
          (logViol r init a c))) ∧
    (∀ v : Word, ∃ u, exec (.registerWrite init 0x3038 v) s = .next (follow r u) ∧
      u.fld (R.REGIF.READ_MODE.ACTIVE init) = v.toNat % 2 ∧ Touches [R.REGIF.READ_MODE.ACTIVE init] r u) ∧
    (∀ b v, b < 32 → ∃ u, exec (.aliasWrite init (0x100000 + 32 * 0x3038 + 4 * b) v) s = .next (follow r u) ∧
      u.fld (R.REGIF.READ_MODE.ACTIVE init) = (if b = 0 then v.toNat % 2 else s.fld (R.REGIF.READ_MODE.ACTIVE init)) ∧
        Touches [R.REGIF.READ_MODE.ACTIVE init] r u) ∧
    (∀ off b v w i f, off < 0x8000 → off % 4 = 0 → off ≠ 0x3004 → isBank off = false → b < 32 → regFind off = some (w, i) →
      w.indir = false → s.domOn (State.domOf off) = true → fieldAt w b = some f → f.acc = .rw ∨ f.acc = .sh →
      ∀ old : Word, old = (r.rdSh (itemKey off (itemOf r init off)) &&& w.shMask) |||
        (r.rd (itemKey off (itemOf r init off)) &&& ~~~w.shMask) →
      exec (.aliasWrite init (0x100000 + 32 * off + 4 * b) v) s = .next (follow r (regWrite r init off
        (if v.getLsbD 0 then old ||| 1#32 <<< b else old &&& ~~~(1#32 <<< b)) false false).1)) ∧
    (∀ a w i, a < 0x100000 → a ≠ 0x3004 → ¬(0x3018 ≤ a ∧ a ≤ 0x3024) → regFind a = some (w, i) → w.indir = false → a % 4 = 0 →
      s.domOn (State.domOf a) = true → Goes (.clearingRead init a) s fun t => (t.side init).data = regWord r init a ∧
        t = answer (readEffect r init a (regWord r init a)) init a (regWord r init a)) ∧
    (s.domOn 11 = true → (init = 2 ↔ hostOwns s bCLK = false) → coDx s = false →
      Goes (.clearingRead init R.CLK.PLL_STAT.reg) s fun t => (t.side init).data = s.rd R.CLK.PLL_STAT.reg ∧
        t.fld R.CLK.PLL_STAT.SYS_LOSS = 0 ∧ t.fld R.CLK.PLL_STAT.REF_LOSS = 0 ∧
        Touches [R.CLK.PLL_STAT.SYS_LOSS, R.CLK.PLL_STAT.REF_LOSS] r t) ∧
    (∀ v : Word, ∃ u, exec (.counterClear init 0x5080 v) s = .next (follow r u) ∧ u = { r with rf := u.rf } ∧
      (v.getLsbD 0 = true → u.fld R.MBX.STAT.SLOT_BUSY = 0) ∧ (v.getLsbD 1 = true → u.fld R.MBX.STAT.DB_WRONG = 0) ∧
        (v.getLsbD 2 = true → u.fld R.MBX.RING_STAT.EVT_LOST = 0) ∧
        (v = 0 → u.fld R.MBX.STAT.SLOT_BUSY = s.fld R.MBX.STAT.SLOT_BUSY) ∧
        Touches [R.MBX.STAT.SLOT_BUSY, R.MBX.STAT.DB_WRONG, R.MBX.RING_STAT.EVT_LOST, R.MBX.BOOT_INFO.RESTARTS] r u) ∧
    (∀ v : Word, Goes (.quoinSet false v) s fun t => t = { s with rf := t.rf } ∧
      t.fld R.REGIF.QUOIN0.LOCK = (s.fld R.REGIF.QUOIN0.LOCK ||| v.toNat % 2 ^ 19) ∧ Touches [R.REGIF.QUOIN0.LOCK] s t) ∧
    (∀ v : Word, Goes (.quoinSet true v) s fun t => t = { s with rf := t.rf } ∧
      t.fld R.REGIF.QUOIN1.LOCK = (s.fld R.REGIF.QUOIN1.LOCK ||| v.toNat % 65536) ∧ Touches [R.REGIF.QUOIN1.LOCK] s t)

/-- R128, R135 to R137: the indirect pair reads and writes at the offset it names and then advances; a slow target is fetched
first; an access held up by BUSY stalls, the accesses behind it wait, and it ends with TIMEOUT after its time; a lost transfer
ends with LOST. It rests on the model's choices of logs 35, 71. -/
def Obligations.IndirectPair : Prop :=
  ∀ (s r q : State) (init : Nat), BusReady s init → r = accessed s init → q = irqSeen r (init == 2) 0x3004 →
    (∀ v : Word, indBusy s init = false → exec (.indirAddrWrite init v) s = .next (follow r (indAddrPut r init v)) ∧
      (indAddrPut r init v).rd (R.REGIF.INDIR_ADDR.reg init) = v &&& 0xFCFFFFFF#32 ∧
        Touches [⟨R.REGIF.INDIR_ADDR.reg init, 0, 32⟩, R.REGIF.INDIR_STAT.BUSY init] r (indAddrPut r init v)) ∧
    (∀ v : Word, indBusy s init = true → exec (.indirAddrWrite init v) s =
      .next (follow r (r.setSide init fun b => { b with stalled := some (2, v) }))) ∧
    (indBusy s init = false → indSlow s init = false → Goes (.indirDataRead init) s fun t =>
      t = answer (indAdvance (indGet q init).1 init) init 0x3004 (indGet q init).2) ∧
    (∀ v, indBusy s init = false → indSlow s init = true → offCheck s init (indOff s init / 4 * 4) = none →
      (s.side init).fetched = some v → indByte s init = false →
      Goes (.indirDataRead init) s fun t => (t.side init).data = v ∧ t.fld (R.REGIF.INDIR_ADDR.OFFSET init) =
        (indOff s init + indStep s init) % 2 ^ 24) ∧
    (∀ v, indBusy s init = false → indSlow s init = false →
      exec (.indirDataWrite init v) s = .next (follow r (indPut r init v).1)) ∧
    (∀ v, indBusy s init = false → indSlow s init = true →
      exec (.indirDataWrite init v) s = .next (follow r (indPost r init v false)) ∧
      ((indPost r init v false).side init).posted = some (v, false) ∧
        (indPost r init v false).fld (R.REGIF.INDIR_STAT.BUSY init) = 1 ∧
        Touches [R.REGIF.INDIR_STAT.BUSY init] r (indPost r init v false)) ∧
    (indBusy s init = true → (s.side init).posted = none → Goes (.indirTransferDone init) s fun t =>
      t.fld (R.REGIF.INDIR_STAT.BUSY init) = 0 ∧
        (t.side init).fetched = some (regWord (s.setFld (R.REGIF.INDIR_STAT.BUSY init) 0) init (indOff s init / 4 * 4)) ∧
        Touches [R.REGIF.INDIR_STAT.BUSY init] s t) ∧
    (indBusy s init = true → (s.side init).posted = none → Goes (.indirTransferLost init) s fun t =>
      t.fld (R.REGIF.INDIR_STAT.BUSY init) = 0 ∧ t.fld (R.REGIF.INDIR_STAT.LOST init) = 1 ∧ (t.side init).fetch = false ∧
        Touches [R.REGIF.INDIR_STAT.BUSY init, R.REGIF.INDIR_STAT.LOST init] s t) ∧
    (∀ (u : State) k v, u.bus = modifyAt s.bus init (fun b => { b with stalled := some (k, v), held := [] }) →
      u.rf = s.rf → u.pwr = s.pwr → u.pins = s.pins → u.pers = s.pers →
      (∀ a w, exec (.registerWrite init a w) u = .next ((accessed u init).setSide init fun b => { b with held := [.write a w] })) ∧
      (k = 0 → indBusy s init = true → Goes (.indirStallTimeout init) u fun t => (t.side init).stalled = none ∧
        (t.side init).data = 0 ∧ t.fld (R.REGIF.INDIR_STAT.TIMEOUT init) = 1 ∧
          Touches [R.REGIF.INDIR_STAT.TIMEOUT init] s t))

/-- R138, R139, R146, R147: a selector write starts a snapshot, whose words stand together; the guard writes its target
only where the complement follows the value, and a rejected pair writes nothing, disarms and is logged. It rests on the
model's choices of logs 9, 36, 71. -/
def Obligations.SnapshotsAndGuardedWrites : Prop :=
  ∀ (s r : State) (init : Nat), BusReady s init → r = accessed s init →
    (∀ v : Word, exec (.wideSelWrite init v) s = .next (follow r (wideSel r init v)) ∧
      (wideSel r init v).fld (R.REGIF.WIDE_STAT.VALID init) = 0 ∧ ((wideSel r init v).side init).wide = true ∧
      (wideSel r init v).fld (R.REGIF.WIDE_SEL.SEL init) = v.toNat % 2 ^ (R.REGIF.WIDE_SEL.SEL init).w ∧
        Touches [R.REGIF.WIDE_SEL.SEL init, R.REGIF.WIDE_STAT.VALID init] r (wideSel r init v)) ∧
    (∀ w, (s.side init).wide = true →
      wideValue s (s.fld (R.REGIF.WIDE_SEL.SEL init)) = some (w, false) → Goes (.wideSnapshotReady init) s fun t =>
        (∀ k, k < 4 → t.fld (R.REGIF.WIDE_D.DATA k init) = w.getD k 0 % 2 ^ 32) ∧ t.fld (R.REGIF.WIDE_STAT.VALID init) = 1 ∧
          (t.side init).wide = false ∧
          Touches [R.REGIF.WIDE_D.DATA 0 init, R.REGIF.WIDE_D.DATA 1 init, R.REGIF.WIDE_D.DATA 2 init,
            R.REGIF.WIDE_D.DATA 3 init, R.REGIF.WIDE_STAT.VALID init] s t) ∧
    ((s.side init).wide = false → s.fld (R.REGIF.WIDE_SEL.SEL init) < 0x710 ∨ 0x720 ≤ s.fld (R.REGIF.WIDE_SEL.SEL init) →
      Goes (.wideD3Read init) s fun t => (t.side init).data = s.rd (R.REGIF.WIDE_D.reg 3 init) ∧
        t.fld (R.REGIF.WIDE_STAT.VALID init) = 0 ∧ Touches [R.REGIF.WIDE_STAT.VALID init] r t) ∧
    (∀ v, exec (.guardValWrite init v) s = .next (follow r (guardVal r init v)) ∧
      ((guardVal r init v).side init).guard = some v ∧ (guardVal r init v).fld (R.REGIF.GUARD_STAT.ARMED init) = 1 ∧
        Touches [R.REGIF.GUARD_STAT.ARMED init] r (guardVal r init v)) ∧
    (∀ v, (s.side init).guard = some v → guardTargetBad s init = false → exec (.guardCplWrite init (~~~v)) s =
      .next (follow r (guardPut ((r.setFld (R.REGIF.GUARD_STAT.ARMED init) 0).setSide init fun b => { b with guard := none })
        init v))) ∧
    (∀ c, (∀ v, (s.side init).guard = some v → c ≠ ~~~v) → ∃ u, exec (.guardCplWrite init c) s = .next (follow r u) ∧
      (u.side init).guard = none ∧ u.fld (R.REGIF.GUARD_STAT.ARMED init) = 0 ∧ u.fld (R.REGIF.GUARD_STAT.FAIL init) = 1 ∧
        u.fld (R.REGIF.GUARD_STAT.CAUSE init) = (if (s.side init).guard = none then 3 else 1) ∧
        Touches [R.REGIF.GUARD_STAT.ARMED init, R.REGIF.GUARD_STAT.FAIL init, R.REGIF.GUARD_STAT.CAUSE init,
          R.REGIF.VIOL_COUNT.COUNT, R.REGIF.VIOL_ADDR.ADDR, R.REGIF.VIOL_INFO.INIT, R.REGIF.VIOL_INFO.CAUSE] r u) ∧
    ((s.side init).guard ≠ none → Goes (.guardTimeout init) s fun t => (t.side init).guard = none ∧
      t.fld (R.REGIF.GUARD_STAT.CAUSE init) = 2 ∧ t.fld (R.REGIF.GUARD_STAT.FAIL init) = 1)

/-- R151 to R153: the result of a CRC pass is compared with the committed reference outside a hold; a difference raises
FAULT once, and a hold that outlasts its time is STALE. -/
def Obligations.ConfigurationCrc : Prop :=
  ∀ s : State,
    (s.flag R.REGIF.CFG_CRC_STAT.ARMED = false ∨ s.flag R.REGIF.CFG_CRC_STAT.HOLD = true → Goes .cfgCrcPassEnd s fun t =>
      t = { s with rf := t.rf } ∧ t.fld R.REGIF.CFG_CRC_NOW.CRC = cfgCrc s % 2 ^ 32 ∧
        Touches [R.REGIF.CFG_CRC_NOW.CRC] s t) ∧
    (s.flag R.REGIF.CFG_CRC_STAT.ARMED = true → s.flag R.REGIF.CFG_CRC_STAT.HOLD = false → s.crcSkip = false →
      cfgCrc s % 2 ^ 32 = s.fld R.REGIF.CFG_CRC_REF.REF → Goes .cfgCrcPassEnd s fun t =>
        t = { s with rf := t.rf, crcBad := false } ∧ t.fld R.REGIF.CFG_CRC_STAT.MATCH = 1 ∧
          Touches [R.REGIF.CFG_CRC_NOW.CRC, R.REGIF.CFG_CRC_STAT.MATCH] s t) ∧
    (s.flag R.REGIF.CFG_CRC_STAT.ARMED = true → s.flag R.REGIF.CFG_CRC_STAT.HOLD = false → s.crcSkip = false →
      cfgCrc s % 2 ^ 32 ≠ s.fld R.REGIF.CFG_CRC_REF.REF → s.crcBad = true → s.flag R.REGIF.CFG_CRC_CTL.TAKEOVER = false →
        Goes .cfgCrcPassEnd s fun t => t.fld R.REGIF.CFG_CRC_STAT.MATCH = 0 ∧ t.fld R.REGIF.CFG_CRC_STAT.FAULT = 1 ∧
          t.crcBad = true ∧ Touches [R.REGIF.CFG_CRC_NOW.CRC, R.REGIF.CFG_CRC_STAT.MATCH, R.REGIF.CFG_CRC_STAT.FAULT] s t) ∧
    (s.flag R.REGIF.CFG_CRC_STAT.HOLD = true → s.flag R.REGIF.CFG_CRC_STAT.STALE = false → Goes .cfgCrcStale s fun t =>
      t = crcEvent (s.setFld R.REGIF.CFG_CRC_STAT.STALE 1) 2 ∧ t.fld R.REGIF.CFG_CRC_STAT.STALE = 1)

/-- R165, R169 to R171: a source's line sets and clears its pendings under its sense; an ACK stacks a pending source, or
says why not; an EOI of the top takes it off, and any other one latches the fault. -/
def Obligations.InterruptSourcesAckAndEoi : Prop :=
  ∀ (s : State) (n : Nat), n < 256 →
    (Goes (.irqSourceEvent n) s fun t => t = { s with irq := t.irq } ∧ t.irq.raw.getLsbD n = srcLine s n ∧
      (∀ m, (t.tgt m).mask = (s.tgt m).mask ∧ ∀ j, j < 256 → j ≠ n → (t.tgt m).pend.getLsbD j = (s.tgt m).pend.getLsbD j) ∧
      (srcSense s n = 0 → ∀ m, (t.tgt m).pend.getLsbD n = (srcLine s n && srcPrio s m n != 0)) ∧
      (srcSense s n = 2 → ∀ m, (t.tgt m).pend.getLsbD n = ((s.tgt m).pend.getLsbD n ||
        (!s.irq.raw.getLsbD n && srcLine s n && srcPrio s m n != 0)))) ∧
    (∀ init m, irqTakes s init m = true →
      ((s.tgt m).pend.getLsbD n = true → (s.tgt m).mask.getLsbD n = false → (s.tgt m).stack.length < 8 →
        Goes (.irqAck init m n) s fun t => t = { s with rf := t.rf, irq := t.irq } ∧
          (t.tgt m).stack = ⟨n, srcPrio s m n, false, false⟩ :: (s.tgt m).stack ∧ (t.tgt m).running = srcPrio s m n ∧
          t.tgt (!m) = s.tgt (!m) ∧ (t.tgt m).mask = (s.tgt m).mask ∧
          (t.tgt m).pend.getLsbD n = isLevel (srcSense s n) ∧
          (∀ j, j < 256 → j ≠ n → (t.tgt m).pend.getLsbD j = (s.tgt m).pend.getLsbD j) ∧
          Touches [if m then R.IRQ.MCU_CTL.IDLE else R.IRQ.HOST_CTL.IDLE] s t ∧
          t.flag (if m then R.IRQ.MCU_CTL.IDLE else R.IRQ.HOST_CTL.IDLE) = false) ∧
      (∀ w, (w = 0 ∧ (s.tgt m).pend.getLsbD n = false) ∨
          (w = 1 ∧ (s.tgt m).pend.getLsbD n = true ∧ (s.tgt m).mask.getLsbD n = true) ∨
          (w = 2 ∧ (s.tgt m).pend.getLsbD n = true ∧ (s.tgt m).mask.getLsbD n = false ∧ 8 ≤ (s.tgt m).stack.length) →
        Goes (.irqAck init m n) s fun t => t = { s with rf := t.rf } ∧
          t.fld (if m then R.IRQ.MCU_STAT.ACK_BAD else R.IRQ.HOST_STAT.ACK_BAD) = 1 ∧
          t.fld (if m then R.IRQ.MCU_STAT.ACK_WHY else R.IRQ.HOST_STAT.ACK_WHY) = w ∧
          Touches (if m then [R.IRQ.MCU_STAT.ACK_BAD, R.IRQ.MCU_STAT.ACK_WHY] else
            [R.IRQ.HOST_STAT.ACK_BAD, R.IRQ.HOST_STAT.ACK_WHY]) s t) ∧
      (∀ e rest, (s.tgt m).stack = e :: rest → e.src = n → Goes (.irqEoi init m n) s fun t =>
        t = { s with rf := t.rf, irq := t.irq } ∧ (t.tgt m).stack = rest ∧
          (t.tgt m).running = (match rest with | [] => 0 | x :: _ => x.prio) ∧ (t.tgt m).pend = (s.tgt m).pend ∧
          (t.tgt m).mask = (s.tgt m).mask ∧ t.tgt (!m) = s.tgt (!m) ∧ Touches [R.IRQ.SPURIOUS.HOST, R.IRQ.SPURIOUS.MCU] s t) ∧
      (∀ kind x, (kind = 1 ∧ x = 0 ∧ (s.tgt m).stack = []) ∨
          (kind = 0 ∧ x < 256 ∧ ∃ e rest, (s.tgt m).stack = e :: rest ∧ e.src = x ∧ x ≠ n) →
        srcPrio s false 0 = 7 → srcPrio s true 0 = 7 → Goes (.irqEoi init m n) s fun t =>
          t = { s with rf := t.rf, irq := t.irq } ∧
          (∀ k, (t.tgt k).stack = (s.tgt k).stack ∧ (t.tgt k).mask = (s.tgt k).mask ∧ (t.tgt k).pend.getLsbD 0 = true ∧
            ∀ j, 0 < j → j < 256 → (t.tgt k).pend.getLsbD j = (s.tgt k).pend.getLsbD j) ∧
          (s.flag (if m then R.IRQ.FAULT_MCU.VALID else R.IRQ.FAULT_HOST.VALID) = true →
            t.fld (if m then R.IRQ.FAULT_MCU.MORE else R.IRQ.FAULT_HOST.MORE) = 1 ∧
            Touches [if m then R.IRQ.FAULT_MCU.MORE else R.IRQ.FAULT_HOST.MORE] s t) ∧
          (s.flag (if m then R.IRQ.FAULT_MCU.VALID else R.IRQ.FAULT_HOST.VALID) = false →
            t.fld (if m then R.IRQ.FAULT_MCU.VALID else R.IRQ.FAULT_HOST.VALID) = 1 ∧
            t.fld (if m then R.IRQ.FAULT_MCU.KIND else R.IRQ.FAULT_HOST.KIND) = kind ∧
            t.fld (if m then R.IRQ.FAULT_MCU.EXPECTED else R.IRQ.FAULT_HOST.EXPECTED) = x ∧
            t.fld (if m then R.IRQ.FAULT_MCU.NAMED else R.IRQ.FAULT_HOST.NAMED) = n ∧
            ∀ k, k ≠ (if m then R.IRQ.FAULT_MCU.reg else R.IRQ.FAULT_HOST.reg) → t.rd k = s.rd k)))

/-- R333, R349, R430: while their block's domain is on, the lines of the transmit flows' and of the seamless flows'
sources follow the bits that a read of the PEND registers shows, source 175 also the funnel's late flags; the forme
sources follow FRM.STAT, and sources 246 and 247 never speak. -/
def Obligations.InterruptLines : Prop :=
  ∀ (s : State) (init : Nat),
    (s.domOn 2 = true → ∀ m, m < 16 → srcLine s (160 + m) =
      (bits (regWord s init (R.TXF.PEND.reg (m / 2))).toNat (16 * (m % 2)) 16 != 0 ||
        (m == 15 && (List.range 64).any fun j => s.flag (R.TXF.FUN_STAT.FUN_LATE_EV j)))) ∧
    (s.domOn 2 = true → ∀ m, m < 8 → srcLine s (196 + m) = (regWord s init (R.RED.PEND.reg m) != 0) ∧
      ∀ j, j < 32 → (regWord s init (R.RED.PEND.reg m)).getLsbD j = redPend s (32 * m + j)) ∧
    (s.domOn 1 = true → srcLine s 244 = (s.flag R.FRM.STAT.STATE_EV || s.flag R.FRM.STAT.DONE_EV) ∧
      srcLine s 245 = (s.flag R.FRM.STAT.ROLLBACK_EV || s.flag R.FRM.STAT.INCONSISTENT)) ∧
    srcLine s 246 = false ∧ srcLine s 247 = false

/-- R160, R165, R166, R177, R178: what is written to pendings and masks, a moderation window's end, the Compositor's wait,
and the MSI-X message. It rests on the model's choices of log 34. -/
def Obligations.InterruptControlSteps : Prop :=
  ∀ s : State,
    (∀ init m set k v n, irqTakes s init m = true → k < 8 → n < 256 → Goes (.irqPendingSetClr init m set k v) s fun t =>
      t = { s with irq := t.irq } ∧ (t.tgt m).mask = (s.tgt m).mask ∧ (t.tgt (!m)).pend = (s.tgt (!m)).pend ∧
        (t.tgt m).pend.getLsbD n =
          if n / 32 = k ∧ v.getLsbD (n % 32) = true ∧ srcNamed n = true ∧ isLevel (srcSense s n) = false then
            set && ((s.tgt m).pend.getLsbD n || srcPrio s m n != 0)
          else (s.tgt m).pend.getLsbD n) ∧
    (∀ init m set k v n, irqTakes s init m = true → k < 8 → n < 256 → Goes (.irqMaskSetClr init m set k v) s fun t =>
      t = { s with irq := t.irq } ∧ (t.tgt m).pend = (s.tgt m).pend ∧ (t.tgt (!m)).mask = (s.tgt (!m)).mask ∧
        (t.tgt m).mask.getLsbD n =
          if n / 32 = k ∧ v.getLsbD (n % 32) = true ∧ n ≠ 0 then set else (s.tgt m).mask.getLsbD n) ∧
    (∀ m g c lim, (s.tgt m).mods[g]? = some (.held c lim) → Goes (.modWindowExpiry m g) s fun t =>
      t = { s with irq := t.irq } ∧ (t.tgt m).pend = (s.tgt m).pend ∧ t.tgt (!m) = s.tgt (!m) ∧
        ((t.tgt m).mods[g]? = some .opened ∨ (t.tgt m).mods[g]? = some .closed)) ∧
    (Goes .mcuWaitForInterrupt s fun t => t = { s with rf := t.rf, irq := t.irq } ∧ t.flag R.IRQ.MCU_CTL.IDLE = true ∧
      Touches [R.IRQ.MCU_CTL.IDLE] s t ∧ t.irq.host = s.irq.host ∧
      (s.irq.mcu.stack = [] → ∀ x ∈ t.irq.mcu.mods, ∀ c lim, x ≠ .held c lim)) ∧
    (∀ fm, s.irq.msixDue = true → s.irq.msixVec.getLsbD 0 = false → fm = false → s.flag R.HST.LINK.UP = true →
      s.pins.perst = false → Goes (.msixMessageSend fm) s fun t =>
        t = { s with irq := { s.irq with msixPba := false, msixDue := false }, out := t.out } ∧
          t.out = .msix (s.irq.msixHi.toNat * 2 ^ 32 + s.irq.msixLo.toNat) s.irq.msixDat :: s.out) ∧
    (∀ fm, s.irq.msixDue = true → s.irq.msixVec.getLsbD 0 = true ∨ fm = true ∨ s.flag R.HST.LINK.UP = false →
      Goes (.msixMessageSend fm) s fun t => t = { s with irq := { s.irq with msixPba := true, msixDue := false } })

/-- R188 to R190, R196, R197: a request doorbell waits for its slot, the Compositor copies the request of the next slot,
and a result goes to its response slot once that is free. It rests on the model's choices of log 66. -/
def Obligations.SlotMailboxSteps : Prop :=
  ∀ s : State,
    (∀ init v, Goes (.reqDoorbell init v) s fun t => t = { s with rf := t.rf } ∧
      t.fld R.MBX.REQ_DB_SET.SLOT = (s.fld R.MBX.REQ_DB_SET.SLOT ||| (v % 256 &&& slotsOf s init)) % 256 ∧
      Touches [R.MBX.REQ_DB_SET.SLOT, R.MBX.STAT.DB_WRONG, R.MBX.STAT.SLOT_BUSY] s t ∧
      (v % 256 &&& (255 - slotsOf s init) ≠ 0 →
        t.fld R.MBX.STAT.DB_WRONG = min 255 (s.fld R.MBX.STAT.DB_WRONG + 1)) ∧
      (v % 256 &&& (255 - slotsOf s init) = 0 → t.fld R.MBX.STAT.DB_WRONG = s.fld R.MBX.STAT.DB_WRONG)) ∧
    (∀ k h, nextSlot s = some k → serving s = true → memRead s.mbx.mem (256 * k) 16 = h → opcodes.contains (u16 h 0) = true →
      s.mbx.cmds.any (fun c => c.chan == slotChan s k && c.tag == u8 h 2) = false → Goes .requestTake s fun t =>
        t = { s with rf := t.rf, mbx := { s.mbx with cmds := t.mbx.cmds, pass := k + 1 } } ∧
          nbit (t.fld R.MBX.REQ_DB_SET.SLOT) k = false ∧ t.flag R.IRQ.MCU_CTL.IDLE = false ∧
          Touches [R.MBX.REQ_DB_SET.SLOT, R.IRQ.MCU_CTL.IDLE] s t ∧
          ∃ c, t.mbx.cmds = s.mbx.cmds ++ [c] ∧ c.chan = slotChan s k ∧ c.slot = k ∧ c.opcode = u16 h 0 ∧ c.tag = u8 h 2 ∧
            c.phase = .taken ∧ c.payload = (memRead s.mbx.mem (256 * k + 16) 240).take (u16 h 4)) ∧
    (∀ k p rest, k < 8 → popReady k s.mbx.ready = some (p, rest) → nbit (s.fld R.MBX.RSP_DB_SET.SLOT) k = false →
      p.2.data.length ≤ 240 → Goes (.responseWrite k) s fun t => t.mbx.ready = rest ∧ t.mbx.mem =
        memWrite s.mbx.mem (0x800 + 256 * k) (msgHeader p.2 false false p.2.data.length ++ p.2.data) ∧
          nbit (t.fld R.MBX.RSP_DB_SET.SLOT) k = true ∧ Touches [R.MBX.RSP_DB_SET.SLOT] s t) ∧
    (∀ init v, Goes (.rspDoorbellClr init v) s fun t => t = { s with rf := t.rf } ∧
      t.fld R.MBX.RSP_DB_SET.SLOT = (s.fld R.MBX.RSP_DB_SET.SLOT &&& (255 - (v % 256 &&& slotsOf s init))) ∧
      Touches [R.MBX.RSP_DB_SET.SLOT, R.MBX.STAT.DB_WRONG] s t)

/-- R184, R191 to R195, R198: enabling the rings, their doorbells, the fetch of a command, what is written to the
completion and event rings, and the error that stops them. It rests on the model's choices of log 65. -/
def Obligations.CommandRingSteps : Prop :=
  ∀ s : State,
    (s.flag R.MBX.RING_CTL.EN = false → s.pwr.wakeMsg = none → Goes .ringEnable s fun t =>
      ringRuns t = true ∧ t.mbx.cmdTail = 0 ∧ t.mbx.cmdHead = 0 ∧ t.mbx.cplHead = 0 ∧ t.mbx.cplTail = 0 ∧
        t.mbx.evtHead = 0 ∧ t.mbx.evtTail = 0 ∧ t.mbx.cplPhase = true ∧ t.mbx.evtPhase = true ∧
        t.mbx.cmds = s.mbx.cmds.filter (fun c => c.chan != 2) ∧
        Touches [R.MBX.RING_CTL.EN, R.MBX.RING_STAT.STOPPED, R.MBX.STAT.EVT_PENDING] s t) ∧
    (∀ v, Goes (.cmdTailDoorbell v) s fun t => t = { s with mbx := { s.mbx with cmdTail := v % 256 } }) ∧
    (∀ v, Goes (.cplHeadDoorbell v) s fun t => t = { s with mbx := { s.mbx with cplHead := v % 256 } }) ∧
    (∀ v, Goes (.evtHeadDoorbell v) s fun t => t = { s with mbx := { s.mbx with evtHead := v % 256 } }) ∧
    (∀ e ind, ringRuns s = true → s.mbx.cmdHead ≠ s.mbx.cmdTail → ringOut s < 64 → s.flag R.MBX.STAT.FW_READY = true →
      passSlot s = none → nbit (u8 e 3) 1 = false → opcodes.contains (u16 (e.take 16) 0) = true →
      s.mbx.cmds.any (fun c => c.chan == 2 && c.tag == u8 (e.take 16) 2) = false → Goes (.cmdFetch e ind) s fun t =>
        t = { s with rf := t.rf, out := t.out, mbx :=
          { s.mbx with cmdHead := (s.mbx.cmdHead + 1) % 256, pass := 8, cmds := t.mbx.cmds } } ∧
          t.flag R.IRQ.MCU_CTL.IDLE = false ∧ Touches [R.IRQ.MCU_CTL.IDLE] s t ∧
          t.out = .hostRead (ringBase s R.MBX.CRING_BASE_LO.reg R.MBX.CRING_BASE_HI.reg + 64 * s.mbx.cmdHead) 64 :: s.out ∧
          ∃ c, t.mbx.cmds = s.mbx.cmds ++ [c] ∧ c.chan = 2 ∧ c.slot = s.mbx.cmdHead ∧ c.tag = u8 (e.take 16) 2 ∧
            c.phase = .taken ∧ c.payload = ((e.drop 16).take 48).take (u16 (e.take 16) 4)) ∧
    (∀ p rest, ringRuns s = true → popReady 8 s.mbx.ready = some (p, rest) → (s.mbx.cplTail + 1) % 256 ≠ s.mbx.cplHead →
      p.2.data.length ≤ 48 → Goes .completionWrite s fun t => t.mbx.ready = rest ∧
        t.mbx.cplTail = (s.mbx.cplTail + 1) % 256 ∧
        t.mbx.cplPhase = (if s.mbx.cplTail = 255 then !s.mbx.cplPhase else s.mbx.cplPhase) ∧ t.rf = s.rf ∧
        t.out = .hostWrite (ringBase s R.MBX.CPL_BASE_LO.reg R.MBX.CPL_BASE_HI.reg + 64 * s.mbx.cplTail)
          (ringEntry p.2 false s.mbx.cplPhase p.2.data.length p.2.data) false :: s.out) ∧
    (∀ m rest, ringRuns s = true → (s.mbx.evtTail + 1) % 256 ≠ s.mbx.evtHead → (s.evtq 2).lost = 0 →
      (s.evtq 2).queue = m :: rest → m.data.length ≤ 48 → 2 < s.mbx.evts.length → Goes .eventWrite s fun t =>
        (t.evtq 2).queue = rest ∧ t.mbx.evtTail = (s.mbx.evtTail + 1) % 256 ∧
          t.out = .hostWrite (ringBase s R.MBX.EVT_BASE_LO.reg R.MBX.EVT_BASE_HI.reg + 64 * s.mbx.evtTail)
            (ringEntry m false s.mbx.evtPhase m.data.length m.data) false :: s.out) ∧
    (∀ c, ringRuns s = true → 1 ≤ c → c ≤ 5 → Goes (.ringDmaError c) s fun t => t = { s with rf := t.rf } ∧
      ringRuns t = false ∧ t.fld R.MBX.RING_STAT.ERR_CAUSE = c ∧
        Touches [R.MBX.RING_STAT.STOPPED, R.MBX.RING_STAT.ERR_CAUSE] s t)

/-- R202 to R205: the watchdog's warning and expiry, the restart of the Compositor, and the load of an image by the host.
It rests on the model's choices of logs 69, 70, 116. -/
def Obligations.WatchdogAndLoaderSteps : Prop :=
  ∀ s : State,
    (∀ k, Goes (.wdogWarn k) s fun t => t = { s with mbx := { s.mbx with warn := !k } }) ∧
    (∀ c, 1 ≤ c → c ≤ 3 → s.flag R.MBX.WDOG_CFG.TAKEOVER = false → Goes (.wdogExpiry c false) s fun t =>
      t = { s with rf := t.rf, mbx := { s.mbx with restart := 1, warn := false } } ∧ t.fld R.MBX.WDOG_STAT.LAST_CAUSE = c ∧
        t.fld R.MBX.BOOT_INFO.RESTARTS = min 65535 (s.fld R.MBX.BOOT_INFO.RESTARTS + 1) ∧ t.flag R.MBX.STAT.FW_READY = false ∧
        Touches [R.MBX.WDOG_STAT.LAST_CAUSE, R.MBX.BOOT_INFO.RESTARTS, R.MBX.STAT.FW_READY] s t) ∧
    (∀ c, s.flag R.MBX.WDOG_CFG.TAKEOVER = false → Goes (.wdogExpiry c true) s fun t => t.phase = 3 ∧
      t.fld R.MBX.WDOG_STAT.LAST_CAUSE = 4 ∧ t.mbx.restart = 0) ∧
    (s.mbx.restart ≠ 0 → s.mbx.cmds = [] → s.fw.apply = none → Goes (.fwRestartDone true true) s fun t =>
      t.mbx.restart = 0 ∧ t.flag R.MBX.STAT.FW_READY = true ∧ t.fw.route = none ∧ t.phase = s.phase ∧ t.flash = s.flash) ∧
    (s.mbx.restart ≠ 0 → s.mbx.hostImg = true → Goes (.fwRestartDone false true) s fun t =>
      t.mbx.restart = 0 ∧ t.phase = 3 ∧ t.fld R.SYS.PHASE.REASON = 5) ∧
    (∀ init len last, 1 ≤ len → len ≤ 32768 → loaderServes s = true → s.flag R.MBX.LOAD_STAT.BUSY = false →
      s.fld R.MBX.LOAD_STAT.TOTAL + len ≤ 787200 → Goes (.loadChunkGo init len last) s fun t =>
        t = { s with rf := t.rf, mbx := { s.mbx with loadLen := len, loadLast := last, loadCtl := init == 1 } } ∧
          t.flag R.MBX.LOAD_STAT.BUSY = true ∧ t.fld R.MBX.LOAD_STAT.BAD_LEN = 0 ∧
          t.fld R.MBX.LOAD_STAT.TOTAL = s.fld R.MBX.LOAD_STAT.TOTAL) ∧
    (s.flag R.MBX.LOAD_STAT.BUSY = true → s.fld R.MBX.LOAD_STAT.TOTAL + s.mbx.loadLen < 2 ^ 20 → Goes .loadChunkTaken s fun t =>
      t.fld R.MBX.LOAD_STAT.BUSY = 0 ∧ t.fld R.MBX.LOAD_STAT.TOTAL = s.fld R.MBX.LOAD_STAT.TOTAL + s.mbx.loadLen ∧
        t.mbx.load = memWrite s.mbx.load (s.fld R.MBX.LOAD_STAT.TOTAL) (memRead s.mbx.mem 0x8000 s.mbx.loadLen) ∧
        Touches [R.MBX.LOAD_STAT.BUSY, R.MBX.LOAD_STAT.TOTAL] s t) ∧
    (∀ sec fw proto, s.mbx.loadLast = true → s.flag R.MBX.LOAD_STAT.BUSY = false → s.mbx.loadLen ≠ 0 → loaderServes s = true →
      (imageVerifies s (s.fld R.MBX.LOAD_STAT.TOTAL) sec = false → Goes (.loadVerifyDone sec fw proto) s fun t =>
        t = { s with rf := t.rf, mbx := { s.mbx with loadLast := false, loadLen := 0, load := [] } } ∧
          t.fld R.MBX.LOAD_STAT.BAD_SIG = 1 ∧ t.fld R.MBX.LOAD_STAT.TOTAL = 0) ∧
      (imageVerifies s (s.fld R.MBX.LOAD_STAT.TOTAL) sec = true → s.phase = 0 → Goes (.loadVerifyDone sec fw proto) s fun t => t.fld R.MBX.LOAD_STAT.DONE = 1 ∧
        t.mbx.verified = true ∧ t.mbx.hostImg = true ∧ t.fld R.MBX.BOOT_INFO.SOURCE = (if s.mbx.loadCtl then 3 else 2) ∧
        t.rd R.COLO.FW.reg = BitVec.ofNat 32 (fw % 2 ^ 24)))

/-- R214 to R217, R219, R222, R224 to R226: a command that only reads answers OK with what the registers and the working
forme hold, and changes nothing but its own record. It rests on the model's choices of logs 42, 44, 50, 53, 59. -/
def Obligations.FirmwareQueriesAnswer : Prop :=
  ∀ (s : State) (ch tag : Nat) (c : Cmd),
    (CmdReady s ch tag c 0x0100 → c.len = 0 → Answers (.sysInfo ch tag) s ch tag
      (regBytes s R.COLO.PART.reg ++ regBytes s R.COLO.REV.reg ++ regBytes s R.COLO.FW.reg ++ regBytes s R.COLO.STKPROTO.reg ++
        leBytes 8 s.flash.serial ++ leBytes 4 (liveGen s) ++
        [byteOf s.phase, byteOf s.pers, byteOf (stkPos s), byteOf (s.fld R.FRM.BOOT.USED)] ++
        regBytes s R.REGIF.HOST_OWN0.reg ++ regBytes s R.REGIF.HOST_OWN1.reg)) ∧
    (CmdReady s ch tag c 0x0201 → c.len = 0 → Answers (.pwrStatus ch tag) s ch tag
      (regBytes s R.PWR.STATE.reg ++ regBytes s R.PWR.FAULT.reg ++ regBytes s R.PWR.AVS.reg ++
        [byteOf (s.fld R.PWR.VID_RUN.VID_RUN_F), 0, 0, 0])) ∧
    (CmdReady s ch tag c 0x0300 → c.len = 0 → Answers (.frmInfo ch tag) s ch tag
      (leBytes 4 (liveGen s) ++ [byteOf (s.fld R.FRM.BOOT.USED), byteOf (s.flash.bootOv.getD 0xFF), 0, 0] ++
        [0, 1, 2, 3].flatMap (formeInfo s))) ∧
    (CmdReady s ch tag c 0x0301 → c.len = 10 → reservedZero c.payload [0, 4, 5, 6, 7, 8, 9] = true → u8 c.payload 0 = 0 →
      u32 c.payload 4 + u16 c.payload 8 ≤ s.fw.work.image.length → Answers (.frmRead ch tag) s ch tag
        ((s.fw.work.image.drop (u32 c.payload 4)).take (u16 c.payload 8))) ∧
    (CmdReady s ch tag c 0x0301 → c.len = 10 → reservedZero c.payload [0, 4, 5, 6, 7, 8, 9] = true → u8 c.payload 0 = 1 →
      u32 c.payload 4 + u16 c.payload 8 ≤ s.fw.staging.length → Answers (.frmRead ch tag) s ch tag
        ((s.fw.staging.drop (u32 c.payload 4)).take (u16 c.payload 8))) ∧
    (∀ n, CmdReady s ch tag c 0x0402 → c.len = 1 → u8 c.payload 0 = n → n < 8 → Answers (.clkMcsStatus ch tag) s ch tag
      (regBytes s (R.CLK.MCS_STAT.reg n) ++ regBytes s (R.CLK.MCS_PHASE.reg n) ++ regBytes s (R.CLK.MCS_FREQ.reg n) ++
        [0, 0, 0, 0] ++ leBytes 8 (mcsCount s n))) ∧
    (∀ n, CmdReady s ch tag c 0x0501 → c.len = 1 → u8 c.payload 0 = n → n < 4 → Answers (.ptpStatus ch tag) s ch tag
      (regBytes s (R.TIME.PTI_STAT.reg n) ++ regBytes s (R.TIME.PTI_PORT_STATE.reg n) ++ regBytes s (R.TIME.PTI_OFFSET.reg n) ++
        regBytes s (R.TIME.PTI_DISAGREE.reg n) ++ beBytes 8 ((gmOf s n).getD 0 0) ++
        [byteOf ((gmOf s n).getD 1 0), 0] ++ leBytes 2 ((gmOf s n).getD 2 0) ++
        [0, 1, 2].flatMap fun x => leBytes 4 (ofSigned 32 (((s.pti n).port x).delay / 65536)))) ∧
    (∀ k, CmdReady s ch tag c 0x0603 → c.len = 1 → u8 c.payload 0 = k → k < 16 → dxPort s k = false →
      Answers (.tdmStatus ch tag) s ch tag ([byteOf (s.tdmState k false), byteOf (s.tdmState k true), 0, 0] ++
        regBytes s (R.TDM.TX_UNDERRUN.reg k) ++ regBytes s (R.TDM.TX_LATE.reg k) ++ regBytes s (R.TDM.RX_OVERRUN.reg k) ++
        regBytes s (R.GRD.TDM_STAT.reg k))) ∧
    (∀ a n, CmdReady s ch tag c 0x0701 → c.len = 4 → u16 c.payload 0 = a → u16 c.payload 2 = n → a + n ≤ 0x1E00 →
      (coDx s && (span a n).any dxDest) = false → Answers (.rtGet ch tag) s ch tag ((span a n).flatMap (rtEntry s))) ∧
    (∀ n, CmdReady s ch tag c 0x0801 → c.len = 1 → u8 c.payload 0 = n → Answers (.krnStatus ch tag) s ch tag
      ([byteOf (s.fld (R.KRN.L_STAT.STATE n)), 0, 0, 0] ++ leBytes 4 (laneRatioNow s n) ++
        leBytes 4 (laneOver s n))) ∧
    (∀ f, CmdReady s ch tag c 0x0903 → c.len = 1 → u8 c.payload 0 = f → dxFlow s f = false →
      Answers (.rxfStatus ch tag) s ch tag ([byteOf (s.fld (R.RXF.F_STAT.STATE f)), 0, 0, 0] ++
        leBytes 4 (s.fld (R.RXF.F_MIN.NS f)) ++ leBytes 4 (s.fld (R.RXF.F_MEAN.NS f)) ++
        (List.range 16).flatMap (fun i => leBytes 2 (s.fld
          (if i % 2 = 0 then R.RXF.F_HIST.EVEN (i / 2) f else R.RXF.F_HIST.ODD (i / 2) f))) ++
        leBytes 4 (s.fld (R.RXF.F_LATE.COUNT f)) ++ leBytes 4 (s.fld (R.RXF.F_CONCEALED.COUNT f)))) ∧
    (∀ f, CmdReady s ch tag c 0x0A02 → c.len = 1 → u8 c.payload 0 = f → dxFlow s f = false →
      Answers (.txfStatus ch tag) s ch tag ([byteOf (s.fld (R.TXF.F_STAT.STATE f)), 0, 0, 0] ++
        leBytes 4 ((s.txf f).pkts.foldl max 0) ++ leBytes 4 (s.fld (R.TXF.F_UNDERRUN.COUNT f)) ++
        leBytes 4 (s.fld (R.TXF.F_UNDERRUN.COUNT f)) ++ leBytes 4 (launchPhase s f))) ∧
    (∀ f, CmdReady s ch tag c 0x0C00 → c.len = 1 → u8 c.payload 0 = f → dxFlow s f = false →
      Answers (.redStatus ch tag) s ch tag
        ([byteOf (s.fld (R.RED.F_STAT.STATE_A f)), byteOf (s.fld (R.RED.F_STAT.STATE_B f)), 0, 0] ++
          leBytes 4 ((s.flow f).copies.getD 0 0) ++ leBytes 4 ((s.flow f).copies.getD 1 0) ++
          leBytes 4 (s.fld (R.RED.F_MISS.COUNT 0 f)) ++ leBytes 4 (s.fld (R.RED.F_MISS.COUNT 1 f)) ++
          leBytes 4 (s.fld (R.RED.F_MISS_BOTH.COUNT f)) ++ leBytes 4 (s.fld (R.RED.F_SKEW.NS f)))) ∧
    (∀ n, CmdReady s ch tag c 0x0E02 → c.len = 1 → u8 c.payload 0 = n → 1 ≤ n → n ≤ 8 → Answers (.twinHealth ch tag) s ch tag
      ((List.range 32).flatMap fun i => leBytes 4 (sGet (fun _ => 0) s.twin.hashMm (32 * (n - 1) + i)))) ∧
    (∀ i, CmdReady s ch tag c 0x0F01 → c.len = 2 → u8 c.payload 0 = 0 → u8 c.payload 1 = i → i < 16 →
      dxPort s i = false → Answers (.grdStatus ch tag) s ch tag (regBytes s (R.GRD.TDM_STAT.reg i) ++ regBytes s (R.GRD.TDM_CNT.reg i))) ∧
    (∀ b, CmdReady s ch tag c 0x1001 → c.len = 8 → u32 c.payload 0 < 2 ^ 19 → u32 c.payload 4 < 65536 →
      namedBlocks c.payload = [b] → dxBlocks s c.payload = false → Answers (.diagCounters ch tag) s ch tag
        (leBytes 2 (min (counterEntries s b).length ((resultRoom s ch tag - 4) / 12)) ++
          leBytes 2 (counterEntries s b).length ++ (counterEntries s b).flatten)) ∧
    (CmdReady s ch tag c 0x1200 → c.len = 0 → Answers (.dxStatus ch tag) s ch tag
      ([byteOf (b2n (dxStrict s) + 2 * b2n (dxEmulates s)), 0, 0, 0, byteOf (dxOn s R.RXF.F_STAT.STATE),
        byteOf (dxOn s R.TXF.F_STAT.STATE), 0, 0] ++ leBytes 4 (s.fld R.GAL.CE_CNT.COUNT) ++
        leBytes 4 (s.fld R.GAL.UE_CNT.COUNT) ++ leBytes 2 (s.dxCell 0x020) ++ [0, 0])) ∧
    (∀ a n, CmdReady s ch tag c 0x1201 → c.len = 4 → u16 c.payload 0 = a → u8 c.payload 2 = n → u8 c.payload 3 = 0 → 1 ≤ n →
      n ≤ 120 → Answers (.dxRead ch tag) s ch tag ((List.range n).flatMap fun i => leBytes 2 (dxView s (a + i)))) ∧
    -- R211: one that names what DX owns in NATIVE+DX answers LOCKED
    (∀ x ∈ [(Instr.tdmStatus ch tag, 0x0603, 1, dxPort s (u8 c.payload 0)), (.rxfStatus ch tag, 0x0903, 1, dxFlow s (u8 c.payload 0)),
        (.txfStatus ch tag, 0x0A02, 1, dxFlow s (u8 c.payload 0)), (.redStatus ch tag, 0x0C00, 1, dxFlow s (u8 c.payload 0)),
        (.sdpExport ch tag, 0x0B01, 1, dxFlow s (u8 c.payload 0)),
        (.rtGet ch tag, 0x0701, 4, coDx s && (span (u16 c.payload 0) (u16 c.payload 2)).any dxDest),
        (.grdStatus ch tag, 0x0F01, 2, u8 c.payload 0 == 0 && dxPort s (u8 c.payload 1)),
        (.diagCounters ch tag, 0x1001, 8, dxBlocks s c.payload)],
      CmdReady s ch tag c x.2.1 → c.len = x.2.2.1 → x.2.2.2 = true → exec x.1 s = .next (endCmd s ch tag stLocked []))

/-- R225, R226: the queries that draw free values for what the spec leaves open do nothing else; a fetch of events takes
the oldest from the queue of its channel, and a mask is set per channel. It rests on the model's choices of logs 45, 49,
51, 65. -/
def Obligations.StatusLogAndEventCommands : Prop :=
  ∀ (s : State) (ch tag : Nat) (c : Cmd),
    (CmdReady s ch tag c 0x0D00 → c.len = 0 → EndsOk (.stkStatus ch tag) s ch tag fun u d =>
      u = { s with freeCtr := s.freeCtr + 8 } ∧ d.take 5 = [byteOf (stkPos s), byteOf (s.fld R.STK.ID.ROLE),
        byteOf (s.fld R.STK.MEMBERS.JOINED), byteOf (s.fld R.STK.MEMBERS.QUAR), byteOf (b2n s.stk.ring)]) ∧
    (CmdReady s ch tag c 0x1004 → c.len = 6 → u32 c.payload 0 + u16 c.payload 4 ≤ 0x2C0000 →
      EndsOk (.diagLog ch tag) s ch tag fun u d => u = { s with freeCtr := s.freeCtr + u16 c.payload 4 } ∧
        d.length = u16 c.payload 4 ∧ ∀ i b, i < u16 c.payload 4 → s.flash.log[u32 c.payload 0 + i]? = some b → d[i]? = some b) ∧
    (∀ f, CmdReady s ch tag c 0x0B01 → c.len = 1 → u8 c.payload 0 = f → dxFlow s f = false →
      s.fld (R.TXF.F_STAT.STATE f) ≠ 0 → s.flag (R.TXF.F_CFG.AVTP f) = false → EndsOk (.sdpExport ch tag) s ch tag fun u d =>
        u = { s with freeCtr := s.freeCtr + 3 } ∧ d = sdpText s f) ∧
    (∀ n, CmdReady s ch tag c 0x1100 → c.len = 1 → u8 c.payload 0 = n → 1 ≤ n → n ≤ 3 → ch < 2 → (s.evtq ch).lost = 0 →
      ch < s.mbx.evts.length → EndsOk (.evtFetch ch tag) s ch tag fun u d =>
        (u.evtq ch).queue = (s.evtq ch).queue.drop n ∧ u.out = s.out ∧ Touches [R.MBX.STAT.EVT_PENDING] s u ∧
          d.length = 4 + 64 * ((s.evtq ch).queue.take n).length) ∧
    (CmdReady s ch tag c 0x1101 → c.len = 2 → ch < s.mbx.evts.length → EndsOk (.evtMask ch tag) s ch tag fun u d =>
      d = leBytes 2 (evtEnabled s ch) ∧ (u.evtq ch).queue = (s.evtq ch).queue ∧
        ∀ k, 1 ≤ k → k < 16 → ((u.evtq ch).masked.contains (0xE000 + 16 * k) = !nbit (u16 c.payload 0) k))

/-- R182, R183, R201, R214, R215: SYS and PWR. It rests on the model's choices of logs 60, 110. -/
def Obligations.SysAndPwrCommands : Prop :=
  ∀ (s : State) (ch tag : Nat) (c : Cmd),
    (∀ b, CmdReady s ch tag c 0x0101 → c.len = 8 → claimLocked s c.payload = false → claimBad c.payload = false →
      namedBlocks c.payload = [b] → hostOwns s b = false → s.phase = 1 ∨ s.phase = 2 →
      EndsOk (.sysClaim ch tag) s ch tag fun u d => u = { s with rf := u.rf } ∧ hostOwns u b = true ∧ d = ownBytes u ∧
        (∀ b', b' < 48 → b' ≠ b → hostOwns u b' = hostOwns s b') ∧
        Touches [R.REGIF.HOST_OWN0.OWN, R.REGIF.HOST_OWN1.OWN] s u) ∧
    (∀ b, CmdReady s ch tag c 0x0102 → c.len = 8 → claimBad c.payload = false → namedBlocks c.payload = [b] →
      hostOwns s b = true → EndsG (.sysRelease ch tag) s ch tag 0x0102 fun u d => hostOwns u b = false ∧ d = ownBytes u ∧
        u = { s with rf := u.rf, fw := u.fw } ∧ Touches [R.REGIF.HOST_OWN0.OWN, R.REGIF.HOST_OWN1.OWN] s u) ∧
    (CmdReady s ch tag c 0x0103 → c.len = 8 → reservedZero c.payload [0, 4, 5, 6, 7] = true → u32 c.payload 4 = 0xA55A →
      (u8 c.payload 0 = 0 → EndsOk (.sysReset ch tag) s ch tag fun u d =>
        u = { s with pwr := { s.pwr with resetDue := true } } ∧ d = []) ∧
      (u8 c.payload 0 = 1 → EndsOk (.sysReset ch tag) s ch tag fun u d => u = { s with
        rf := u.rf, mbx := { s.mbx with restart := 2, warn := false } } ∧ u.flag R.MBX.STAT.FW_READY = false ∧ d = [])) ∧
    (CmdReady s ch tag c 0x0104 → c.len = 4 → u32 c.payload 0 ≤ 786688 → s.flag R.MBX.BOOT_INFO.TRIAL = false →
      Accepts (.sysImageBegin ch tag) s ch tag fun u => u = { s with fw := { s.fw with image := none } }) ∧
    (∀ n b, CmdReady s ch tag c 0x0105 → 4 ≤ c.len → c.len ≤ 4100 → s.fw.image = some (n, b) → u32 c.payload 0 = b.length →
      b.length + (c.payload.drop 4).length ≤ imageSlot → EndsOk (.sysImageWrite ch tag) s ch tag fun u d => d = [] ∧ u = { s with
        fw := { s.fw with image := some (n, b ++ c.payload.drop 4) }
        flash := { s.flash with images := modifyAt s.flash.images (idleImage s) fun _ => b ++ c.payload.drop 4 } }) ∧
    (CmdReady s ch tag c 0x0106 → c.len = 0 → s.fw.image.isSome = true → Accepts (.sysImageEnd ch tag) s ch tag fun u => u = s) ∧
    (CmdReady s ch tag c 0x0107 → c.len = 0 → s.phase = 1 → s.flag R.MBX.BOOT_INFO.TRIAL = true →
      Accepts (.sysCommit ch tag) s ch tag fun u => u = s) ∧
    (CmdReady s ch tag c 0x0108 → c.len = 4 → u32 c.payload 0 = 0xA55A → s.phase ≠ 3 →
      EndsOk (.sysRecover ch tag) s ch tag fun u d => d = [] ∧ u = { s with rf := u.rf } ∧ u.phase = 3 ∧
        u.fld R.SYS.PHASE.REASON = 5 ∧ Touches [R.SYS.PHASE.PHASE_F, R.SYS.PHASE.REASON] s u) ∧
    (CmdReady s ch tag c 0x0200 → c.len = 2 → u8 c.payload 0 = 1 → u8 c.payload 1 = 0 → entryAllowed s 1 false = true →
      linkParked s = true → EndsOk (.pwrEnter ch tag) s ch tag fun u d => d = [] ∧ u = beginEntry s 1) ∧
    (∀ t, CmdReady s ch tag c 0x0200 → c.len = 2 → u8 c.payload 0 = t → (t = 1 ∨ t = 3) → u8 c.payload 1 = 0 →
      entryAllowed s t false = true → (t = 3 → s.flag R.PWR.STATE.XTAL_OK = true) → linkParked s = false → ch ≠ 1 →
      EndsOk (.pwrEnter ch tag) s ch tag fun u d => d = [] ∧ u = { s with pwr := { s.pwr with pmeArmed := some t } }) ∧
    (CmdReady s ch tag c 0x0202 → c.len = 16 → blockLocked s bPWR = false →
      (pwrImages c.payload).all (fun x => fwTakes s x.1 x.2) = true →
      EndsG (.pwrConfig ch tag) s ch tag 0x0202 fun u d => d = [] ∧ u = fwWrites s (pwrImages c.payload))

/-- R217, R218, R415 to R425: staging, applying, storing and choosing formes, and the steps of an apply. It rests on the
model's choices of logs 26, 61. -/
def Obligations.FormeCommandsAndEpochs : Prop :=
  ∀ (s : State) (ch tag : Nat) (c : Cmd),
    (CmdReady s ch tag c 0x0302 → c.len = 1 → u8 c.payload 0 ≤ 4 → storedGood s (u8 c.payload 0) = true →
      Accepts (.frmStageLoad ch tag) s ch tag fun u => u = s) ∧
    (∀ old, CmdReady s ch tag c 0x0303 → 4 ≤ c.len → old = (if u32 c.payload 0 = 0 then [] else s.fw.staging) →
      u32 c.payload 0 = old.length → (old ++ c.payload.drop 4).length ≤ 262144 →
      EndsOk (.frmStageWrite ch tag) s ch tag fun u d =>
        u = { s with fw := { s.fw with staging := old ++ c.payload.drop 4 } } ∧ d = leBytes 4 (old ++ c.payload.drop 4).length) ∧
    (CmdReady s ch tag c 0x0305 → c.len = 1 → u8 c.payload 0 ≤ 3 → Accepts (.frmStore ch tag) s ch tag fun u => u = s) ∧
    (CmdReady s ch tag c 0x0306 → c.len = 1 → u8 c.payload 0 ≤ 3 ∨ u8 c.payload 0 = 0xFF →
      Accepts (.frmSetBoot ch tag) s ch tag fun u => u = s) ∧
    (∀ f k, CmdReady s ch tag c 0x0304 → c.len = 12 → hostOwns s bTIME = false → stagedForme s = some f →
      diffLocked s (applyBase s) f = false → u8 c.payload 0 = k → k < 16 → k < s.platens.length → u8 c.payload 1 = 0 →
      u48 c.payload 2 = 0 → u32 c.payload 8 = 0 → diffVerdict s (applyBase s) f = 0 → s.flag (R.TIME.PL_CFG.ARM k) = false →
      (∀ x ∈ s.mbx.cmds, x.chan = ch → x.tag = tag → x.phase ≠ .done) → Goes (.frmApply ch tag) s fun t =>
        ∃ a, t.fw.apply = some a ∧ a.target = f ∧ a.platen = k ∧ a.epoch = 0 ∧ a.cmd = some (ch, tag) ∧
          (t.pl k).owner = 2 ∧ t.fld R.FRM.STAT.STATE = 1 ∧ t.cap = s.cap ∧ t.impo = s.impo ∧ liveGen t = liveGen s) ∧
    (∀ a, s.fw.apply = some a → a.epoch = 0 → a.atomic = false → plDue s a.platen = true → a.platen < 16 → a.pti < 4 →
      s.flag (R.TIME.PL_CFG.ACT_UPD a.platen) = false → s.flag (R.TIME.PL_CFG.ACT_TDM a.platen) = false →
      s.flag (R.TIME.PL_CFG.ACT_GPIO a.platen) = false → Goes .formeEpoch s fun t =>
        t.fld R.FRM.STAT.STATE = 2 ∧ t.fw.apply = some { a with epoch := 1, time := a.time + 1500000 * nsUnit } ∧
          liveGen t = liveGen s) ∧
    (∀ a, s.fw.apply = some a → a.epoch = 8 → a.takeGen = none → a.cmd = some (ch, tag) → stkMember s = false →
      ∃ u, exec .formeStageVerify s = .next (follow s u) ∧ u.fw.apply = none ∧ liveGen u = (liveGen s + 1) % 2 ^ 32 ∧
        u.fld R.FRM.STAT.STATE = 0 ∧ u.fld R.FRM.STAT.DONE_EV = 1 ∧ u.fld R.FRM.STAT.INCONSISTENT = 0)

/-- R94, R105, R107, R109, R110, R219 to R221: CLK and PTP commands write the registers their arguments name and strobe
their update group; GM_QUALITY and a step act on the instance named. It rests on the model's choices of logs 40, 55, 56,
58. -/
def Obligations.ClockAndPtpCommands : Prop :=
  ∀ (s : State) (ch tag : Nat) (c : Cmd) (n : Nat), u8 c.payload 0 = n →
    (CmdReady s ch tag c 0x0400 → c.len = 12 → blockLocked s bCLK = false → dxMcs s n = false →
      reservedZero c.payload (0 :: span 4 8) = true → n < 8 → fwTakes s (R.CLK.MCS_CFG.reg n) (image32 c.payload 4) = true →
      fwTakes s (R.CLK.MCS_LOOP.reg n) (image32 c.payload 8) = true → mcsHeldBack s n (image32 c.payload 4) = false →
      EndsG (.clkMcsSet ch tag) s ch tag 0x0400 fun u d => d = [] ∧ u = strobe (fwWrites s
        [(R.CLK.MCS_CFG.reg n, image32 c.payload 4), (R.CLK.MCS_LOOP.reg n, image32 c.payload 8)]) 4) ∧
    (CmdReady s ch tag c 0x0401 → c.len = 8 → blockLocked s bCLK = false →
      fwTakes s R.CLK.WCLK_CFG.reg (image32 c.payload 0) = true → fwTakes s R.CLK.MCLK_CFG.reg (image32 c.payload 4) = true →
      EndsG (.clkOutSet ch tag) s ch tag 0x0401 fun u d => d = [] ∧ u = strobe (fwWrites s
        [(R.CLK.WCLK_CFG.reg, image32 c.payload 0), (R.CLK.MCLK_CFG.reg, image32 c.payload 4)]) 4) ∧
    (CmdReady s ch tag c 0x0500 → c.len = 24 → blockLocked s bTIME = false → dxPti s n = false →
      reservedZero c.payload (0 :: span 4 18) = true → n < 4 →
      ptiCfgBad (image32 c.payload 4) = false → [(R.TIME.PTI_SERVO.reg n, image32 c.payload 8),
        (R.TIME.PTI_GUARD.reg n, image32 c.payload 12)].all (fun x => fwTakes s x.1 x.2) = true →
      ptiCfgLimit s n (image32 c.payload 4) = false →
      syncOk (bits (image32 c.payload 4).toNat 28 3) (toSigned 8 (u8 c.payload 16)) = true → 2 ≤ u8 c.payload 19 →
      u8 c.payload 19 ≤ 10 → EndsG (.ptpSet ch tag) s ch tag 0x0500 fun u d => d = [] ∧
        u = strobe (fwWrites (s.setPti n { s.pti n with msg := (span 16 6).map (u8 c.payload) })
          [(R.TIME.PTI_CFG.reg n, image32 c.payload 4), (R.TIME.PTI_SERVO.reg n, image32 c.payload 8),
            (R.TIME.PTI_GUARD.reg n, image32 c.payload 12)]) 8) ∧
    (CmdReady s ch tag c 0x0502 → c.len = 6 → dxPti s n = false → n < 4 → n < s.ptis.length →
      EndsG (.ptpGmQuality ch tag) s ch tag 0x0502 fun u d => d = [] ∧ u = { s with ptis := u.ptis } ∧
        (u.pti n).quality = [u8 c.payload 1, u8 c.payload 2, u8 c.payload 3, u16 c.payload 4] ∧
        (u.pti n).time = (s.pti n).time ∧ ∀ m, m ≠ n → u.pti m = s.pti m) ∧
    (∀ delta, CmdReady s ch tag c 0x0503 → c.len = 20 → blockLocked s bTIME = false → dxPti s n = false →
      reservedZero c.payload ([0, 1] ++ span 4 10 ++ span 16 4) = true → n < 4 → u8 c.payload 1 = 0 →
      toSigned 32 (u32 c.payload 4) = delta → EndsOk (.ptpStep ch tag) s ch tag fun u d => d = [] ∧
        u = strobe (fwWrite s (R.TIME.PTI_ADJ.reg n) (BitVec.ofNat 32 (ofSigned 32 delta))) 8) ∧
    (CmdReady s ch tag c 0x0503 → c.len = 20 → blockLocked s bTIME = false → dxPti s n = false →
      reservedZero c.payload ([0, 1] ++ span 4 10 ++ span 16 4) = true → n < 4 → u8 c.payload 1 = 1 →
      u32 c.payload 16 < 1000000000 → s.fld (R.TIME.PTI_CFG.ROLE n) = 2 → s.fld (R.TIME.PTI_CFG.GM_SRC n) = 0 →
      EndsOk (.ptpStep ch tag) s ch tag fun u d => d = [] ∧
        u = adjStep s n (((u48 c.payload 8 * 1000000000 + u32 c.payload 16 : Nat) : Int) - (ptiNs s n : Int))) ∧
    (∀ x sus, CmdReady s ch tag c 0x0504 → c.len = 2 → blockLocked s bTIME = false → dxPti s n = false → n < 4 →
      u8 c.payload 1 = x → x < 2 → sus = (if x = 0 then R.TIME.PTI_STAT.SUSPECT_NETA n else R.TIME.PTI_STAT.SUSPECT_NETB n) →
      s.flag sus = true → EndsG (.ptpAsymAdopt ch tag) s ch tag 0x0504 fun u d => u.fld sus = 0 ∧
        d = leBytes 4 (ofSigned 32 (u.fldInt (R.TIME.PORT_ASYM.ASYM x)))) ∧
    -- R211: an MCS or PTI that DX owns in NATIVE+DX answers LOCKED
    (∀ x ∈ [(Instr.clkMcsSet ch tag, 0x0400, 12, dxMcs s n), (.ptpSet ch tag, 0x0500, 24, dxPti s n),
        (.ptpGmQuality ch tag, 0x0502, 6, dxPti s n), (.ptpStep ch tag, 0x0503, 20, dxPti s n),
        (.ptpAsymAdopt ch tag, 0x0504, 2, dxPti s n)],
      CmdReady s ch tag c x.2.1 → c.len = x.2.2.1 → x.2.2.2 = true → exec x.1 s = .next (endCmd s ch tag stLocked []))

/-- R222, R237, R241 to R243, R254, R262, R263: TDM, RT and KRN commands. It rests on the model's choices of logs 40, 41,
55, 57. -/
def Obligations.TdmRouteAndKerningCommands : Prop :=
  ∀ (s : State) (ch tag : Nat) (c : Cmd) (k : Nat), u8 c.payload 0 = k →
    (∀ g, CmdReady s ch tag c 0x0600 → c.len = 20 → blockLocked s (32 + k) = false → dxPort s k = false →
      (coDx s && u8 c.payload 17 == 15) = false → tdmSetBad s c.payload = false →
      setAlign s c.payload k (u8 c.payload 1 == 0) = some g → dirStopped s k (u8 c.payload 1 == 0) = true ∨
        ((tdmImages s c.payload g).take 3).any (fun x => s.rd x.1 != x.2) = false →
      EndsG (.tdmSet ch tag) s ch tag 0x0600 fun u d => d = [] ∧
        u = applyGroup (strobe (fwWrites s (tdmImages s c.payload g)) (2 ^ (4 + k / 8))) (4 + k / 8)) ∧
    (∀ i pl, CmdReady s ch tag c 0x0601 → c.len = 20 → dirsLocked s c.payload = false → hostOwns s bTIME = false →
      namedDirs (u16 c.payload 0) (u16 c.payload 2) = [i] → s.tdmState (dirPort i) (dirRx i) = tdmArmed →
      (s.tdm (dirPort i) (dirRx i)).start = none → reservedZero c.payload (span 0 6 ++ span 8 6 ++ span 16 4) = true →
      u8 c.payload 4 = 0 → u48 c.payload 8 = 0 → u32 c.payload 16 = 0 → u8 c.payload 5 = pl → pl < 16 →
      platenFree s pl = true → (∀ j, j < 32 → j ≠ i → s.tdmState (dirPort j) (dirRx j) < tdmReady) →
      EndsOk (.tdmStart ch tag) s ch tag fun u d => u = firePlaten s pl 0 (s.ptiRaw 0 + 2000000 * nsUnit)
        (2 ^ 25 + s.fld (td (R.TDM.TX_FMT.ALIGN (dirPort i)) (dirRx i)) * 2 ^ 16) ∧ d.take 4 = [byteOf pl, 0, 0, 0]) ∧
    (∀ i, CmdReady s ch tag c 0x0602 → c.len = 4 → dirsLocked s c.payload = false →
      namedDirs (u16 c.payload 0) (u16 c.payload 2) = [i] → s.tdmState (dirPort i) (dirRx i) = tdmRunning →
      Accepts (.tdmStop ch tag) s ch tag fun u => u = s.setFld (td (R.TDM.TX_CMD.STOP (dirPort i)) (dirRx i)) 1) ∧
    (∀ a w, CmdReady s ch tag c 0x0700 → c.len = 24 → rtLocked s c.payload = false → (coDx s && dxDest a) = false →
      u16 c.payload 0 = 1 → u8 c.payload 2 = 0xFF → reservedZero c.payload (span 0 10 ++ span 12 4 ++ span 16 6) = true →
      u8 c.payload 20 < 4 → rtDest c.payload 0 = a → rtWord c.payload 0 = w → impJudge s a w = none →
      EndsG (.rtSet ch tag) s ch tag 0x0700 fun u d => u = strobe (impWrite s a w) 2 ∧ d = [0xFF, 0xFF, 0, 0]) ∧
    (∀ a w pl, CmdReady s ch tag c 0x0700 → c.len = 24 → rtLocked s c.payload = false → (coDx s && dxDest a) = false →
      u16 c.payload 0 = 1 → u8 c.payload 2 = pl → pl < 16 → platenFree s pl = true → u8 c.payload 3 < 4 →
      u32 c.payload 12 < 1000000000 → reservedZero c.payload (span 0 10 ++ span 12 4 ++ span 16 6) = true →
      s.ptiRaw (u8 c.payload 3) + 1000000 * nsUnit ≤ (u48 c.payload 4 * 1000000000 + u32 c.payload 12) * nsUnit →
      (u48 c.payload 4 * 1000000000 + u32 c.payload 12) * nsUnit ≤ s.ptiRaw (u8 c.payload 3) + 10000000000 * nsUnit →
      u8 c.payload 20 < 4 → rtDest c.payload 0 = a → rtWord c.payload 0 = w → impJudge s a w = none → pl < s.platens.length →
      Accepts (.rtSet ch tag) s ch tag fun u => u.fw.route = some (pl, ch, tag) ∧ (u.pl pl).owner = 1 ∧
        (u.imp a).shadow = w ∧ u.fld (R.TIME.PL_GROUPS.UPD pl) = 2 ∧ u.cap = s.cap) ∧
    (CmdReady s ch tag c 0x0800 → c.len = 4 → blockLocked s bKRN = false → u8 c.payload 1 < 8 → u8 c.payload 2 < 8 →
      u8 c.payload 3 ≤ 2 → (u8 c.payload 3 ≠ 0 → s.mcsRuns (u8 c.payload 1) = true ∧ s.mcsRuns (u8 c.payload 2) = true) →
      s.mcsFs (u8 c.payload 1) ≤ s.mcsFs (u8 c.payload 2) * 4 → s.mcsFs (u8 c.payload 2) ≤ s.mcsFs (u8 c.payload 1) * 4 →
      laneUsed s k = false → EndsG (.krnSet ch tag) s ch tag 0x0800 fun u d => d = [] ∧
        u = applyGroup (strobe (fwWrite s (R.KRN.L_CFG.reg k) (insFlds 0 [(R.KRN.L_CFG.MODE k, u8 c.payload 3),
          (R.KRN.L_CFG.OUT_MCS k, u8 c.payload 2), (R.KRN.L_CFG.IN_MCS k, u8 c.payload 1)])) 0x100) 8) ∧
    -- R211: ports and destinations that DX owns in NATIVE+DX answer LOCKED
    (∀ x ∈ [(Instr.tdmSet ch tag, 0x0600, 20, dxPort s k || (coDx s && u8 c.payload 17 == 15)),
        (.tdmStart ch tag, 0x0601, 20, dirsLocked s c.payload), (.tdmStop ch tag, 0x0602, 4, dirsLocked s c.payload)],
      CmdReady s ch tag c x.2.1 → c.len = x.2.2.1 → x.2.2.2 = true → exec x.1 s = .next (endCmd s ch tag stLocked [])) ∧
    (∀ a, CmdReady s ch tag c 0x0700 → c.len = 24 → rtLocked s c.payload = false → coDx s = true → dxDest a = true →
      u16 c.payload 0 = 1 → rtDest c.payload 0 = a →
      exec (.rtSet ch tag) s = .next (endCmd s ch tag stLocked [0, 0, 4, 0]))

/-- R223, R224, R265, R297 to R299, R306, R318, R321, R326, R348: flows are created where their record, identifiers, cells
and keys allow it, and deleted once nothing names them; a path is removed and an announcement set. It rests on the model's
choices of logs 40, 45, 46, 47, 48, 62, 63. -/
def Obligations.FlowCommands : Prop :=
  ∀ (s : State) (ch tag : Nat) (c : Cmd) (f : Nat), u8 c.payload 0 = f →
    (∀ d u, CmdReady s ch tag c 0x0900 → c.len = 48 → rxLocked s c.payload = false →
      rxCreate s c.payload [] 0 = (stOk, d, u) →
      EndsG (.rxfCreate ch tag) s ch tag 0x0900 (fun x e => x = u ∧ e = d) ∧
        u.fld (R.RXF.F_STAT.STATE f) ≠ 0 ∧ s.fld (R.RXF.F_STAT.STATE f) = 0 ∧ s.mcsRuns (frMcs c.payload) = true ∧
        sGet (fun _ => []) u.fw.work.rx f = c.payload) ∧
    (CmdReady s ch tag c 0x0901 → c.len = 1 → rxLocked s c.payload = false → s.fld (R.RXF.F_STAT.STATE f) ≠ 0 →
      rxNamers s f = [] → EndsG (.rxfDelete ch tag) s ch tag 0x0901 fun u d => d = [] ∧
        sGet (fun _ => []) u.fw.work.rx f = []) ∧
    (CmdReady s ch tag c 0x0902 → c.len = 8 → offsetLocked s c.payload = false → u8 c.payload 1 = 1 →
      offsetBad s c.payload = false → s.fld (R.RXF.F_STAT.STATE f) ≠ 0 → (s.flow f).slew = none →
      u32 c.payload 4 ≠ s.fld (R.RXF.F_OFFSET_NOW.SAMPLES f) → Accepts (.rxfOffset ch tag) s ch tag fun u =>
        u = startSlew s f ((u32 c.payload 4 : Int) - s.fld (R.RXF.F_OFFSET_NOW.SAMPLES f)) 1000) ∧
    (CmdReady s ch tag c 0x0902 → c.len = 8 → offsetLocked s c.payload = false → u8 c.payload 1 = 0 →
      offsetBad s c.payload = false → s.fld (R.RXF.F_STAT.STATE f) ≠ 0 → rxNamers s f = [] →
      s.flag (R.RXF.F_CFG.ALIGN_EN f) = false → EndsG (.rxfOffset ch tag) s ch tag 0x0902 fun u d => d = [] ∧
        u = offsetStep s f (u32 c.payload 4)) ∧
    (∀ mac src d u, CmdReady s ch tag c 0x0A00 → c.len = 48 → txLocked s c.payload = false →
      txCreateBody mac src s c.payload = (stOk, d, u) →
      EndsG (.txfCreate ch tag mac src) s ch tag 0x0A00 (fun x e => x = u ∧ e = d) ∧
        s.fld (R.TXF.F_STAT.STATE f) = 0 ∧ s.mcsRuns (frMcs c.payload) = true ∧
        sGet (fun _ => []) u.fw.work.tx f = c.payload) ∧
    (CmdReady s ch tag c 0x0A01 → c.len = 1 → txLocked s c.payload = false → s.fld (R.TXF.F_STAT.STATE f) ≠ 0 →
      txNamed s f = false → EndsG (.txfDelete ch tag) s ch tag 0x0A01 fun u d => d = [] ∧
        sGet (fun _ => []) u.fw.work.tx f = []) ∧
    (∀ d u, CmdReady s ch tag c 0x0B00 → 12 ≤ c.len → c.len ≤ 8204 → rxLocked s c.payload = false →
      sdpCreate s c.payload = (stOk, d, u) → Accepts (.sdpImport ch tag) s ch tag fun w => w = s) ∧
    (∀ n, CmdReady s ch tag c 0x0B02 → c.len = 4 → dxFlow s f = false → u8 c.payload 1 = 1 → u16 c.payload 2 = n → 1 ≤ n →
      n ≤ 300 → s.fld (R.TXF.F_STAT.STATE f) ≠ 0 → EndsG (.sdpAnnounce ch tag) s ch tag 0x0B02 fun u d => d = [] ∧
        u = { s with fw := { s.fw with sap := sPut (fun _ => 0) s.fw.sap f n } }) ∧
    (sGet (fun _ => 0) s.fw.sap f ≠ 0 → s.fld (R.TXF.F_STAT.STATE f) ≠ 0 → serving s = true →
      Goes (.sapAnnouncementTx f) s fun t => t = { s with freeCtr := s.freeCtr + 3, out := t.out } ∧ ∃ text,
        t.out = .announce f text false :: s.out) ∧
    (CmdReady s ch tag c 0x0C01 → c.len = 2 → blockLocked s bRXF = false → blockLocked s bRED = false →
      dxFlow s f = false → u8 c.payload 1 = 1 → madeSeamless s f = true → s.fld (R.RXF.F_CFG.PATHS f) = 3 →
      EndsG (.redPaths ch tag) s ch tag 0x0C01 fun u d => d = [] ∧ u.fld (R.RXF.F_CFG.PATHS f) = 1 ∧
        u.fld (pathFld f 1) = 0) ∧
    -- R211: a flow that DX owns in NATIVE+DX, like a block the host owns or a quoin holds, answers LOCKED
    (∀ x ∈ [(Instr.rxfCreate ch tag, 0x0900, 48, rxLocked s c.payload), (.rxfDelete ch tag, 0x0901, 1, rxLocked s c.payload),
        (.rxfOffset ch tag, 0x0902, 8, offsetLocked s c.payload), (.txfCreate ch tag [] [], 0x0A00, 48, txLocked s c.payload),
        (.txfDelete ch tag, 0x0A01, 1, txLocked s c.payload), (.sdpAnnounce ch tag, 0x0B02, 4, dxFlow s f),
        (.redPaths ch tag, 0x0C01, 2, blockLocked s bRXF || blockLocked s bRED || dxFlow s f)],
      CmdReady s ch tag c x.2.1 → c.len = x.2.2.1 → x.2.2.2 = true → exec x.1 s = .next (endCmd s ch tag stLocked []))

/-- R225, R226, R375, R402 to R407, R435, R446: STK, TWIN, GRD and DIAG commands that change the device. It rests on the
model's choices of logs 50, 55, 56, 64. -/
def Obligations.StackTwinGuardAndDiagCommands : Prop :=
  ∀ (s : State) (ch tag : Nat) (c : Cmd),
    (CmdReady s ch tag c 0x0D01 → c.len = 8 → blockLocked s bSTK = false → reservedZero c.payload (0 :: span 4 4) = true →
      u8 c.payload 0 ≤ 1 → u32 c.payload 4 ≤ 19000 → stkState s = 5 → linkFits s 0 22 (u32 c.payload 4) = true →
      linkFits s 1 22 (u32 c.payload 4) = true → EndsG (.stkSet ch tag) s ch tag 0x0D01 fun u d => d = [] ∧
        u = applyGroup (strobe (fwWrite s R.STK.CFG.reg (insFlds (s.rdSh R.STK.CFG.reg)
          [(R.STK.CFG.RING, u8 c.payload 0), (R.STK.CFG.FUN_BUDGET, u32 c.payload 4)])) 0x1000) 12) ∧
    (CmdReady s ch tag c 0x0E00 → c.len = 6 → blockLocked s bTWIN = false → u8 c.payload 3 = 0 → u8 c.payload 0 ≤ 2 →
      u8 c.payload 1 ≤ 1 → u8 c.payload 2 ≤ 15 → u16 c.payload 4 = 0 ∨ (100 ≤ u16 c.payload 4 ∧ u16 c.payload 4 ≤ 60000) →
      coDx s = false ∨ u8 c.payload 0 = 0 →
      stkUp s (u8 c.payload 1) = true → twinState s ≤ 1 → EndsG (.twinSet ch tag) s ch tag 0x0E00 fun u d => d = [] ∧
        u = applyGroup (strobe (fwWrites s [(R.TWIN.CFG.reg, insFlds (s.rdSh R.TWIN.CFG.reg)
            [(R.TWIN.CFG.ROLE, u8 c.payload 0), (R.TWIN.CFG.LINK, u8 c.payload 1), (R.TWIN.CFG.PROOF, u8 c.payload 2)]),
          (R.TWIN.HCFG.reg, R.TWIN.HCFG.PERIOD_MS.ins (u16 c.payload 4) (s.rdSh R.TWIN.HCFG.reg))]) 0x2000) 13) ∧
    (CmdReady s ch tag c 0x0E01 → c.len = 1 → hostOwns s bTWIN = false → u8 c.payload 0 = 0 → canDecide s = true →
      twinState s ≠ 4 → EndsOk (.twinTakeover ch tag) s ch tag fun u d => u = twinTake (s.setFld R.TWIN.CMD.TAKE 1) 3 ∧
        d = leBytes 4 (u.fld R.TWIN.TAKEOVER_GEN.GEN)) ∧
    (CmdReady s ch tag c 0x0F00 → c.len = 12 → blockLocked s bGRD = false → dxPorts s (u16 c.payload 4) = false →
      reservedZero c.payload ([0] ++ span 2 4 ++ span 8 4) = true → u8 c.payload 0 ≠ 0 → u32 c.payload 8 ≤ 31 →
      (∀ l, l = [(R.GRD.CTL.reg, insFlds (s.rdSh R.GRD.CTL.reg)
            [(R.GRD.CTL.TRIP_FRAMES, u8 c.payload 0), (R.GRD.CTL.CLASSES, u32 c.payload 8)]),
          (R.GRD.PROBE.reg, R.GRD.PROBE.REPROBE_MS.ins (u16 c.payload 2) (s.rdSh R.GRD.PROBE.reg)),
          (R.GRD.AUTOSWAP.reg, R.GRD.AUTOSWAP.PORTS.ins (u16 c.payload 4) (s.rdSh R.GRD.AUTOSWAP.reg))] →
        l.all (fun x => fwTakes s x.1 x.2) = true → EndsG (.grdSet ch tag) s ch tag 0x0F00 fun u d => d = [] ∧
          u = applyGroup (strobe (fwWrites s l) 1) 0)) ∧
    (CmdReady s ch tag c 0x0F02 → c.len = 4 → hostOwns s bGRD = false → dxPorts s (u16 c.payload 0) = false →
      u8 c.payload 3 = 0 →
      EndsOk (.grdReprobe ch tag) s ch tag fun u d => d = [] ∧ u = { s with grd := { s.grd with reprobe := u.grd.reprobe } } ∧
        ∀ k, k ∈ u.grd.reprobe ↔ k ∈ s.grd.reprobe ∨ k ∈ reprobePins s (u16 c.payload 0) (u8 c.payload 2)) ∧
    (∀ b, CmdReady s ch tag c 0x1000 → c.len = 8 → u32 c.payload 0 < 2 ^ 19 → u32 c.payload 4 < 65536 →
      namedBlocks c.payload = [b] → dxBlocks s c.payload = false → EndsOk (.diagSnapClear ch tag) s ch tag fun u d => u = clearBlockCounters s b ∧
        d.drop 4 = (counterEntries s b).flatten) ∧
    (∀ x, CmdReady s ch tag c 0x1002 → c.len = 2 → u8 c.payload 0 = x → x < 4 → u8 c.payload 1 ≤ 2 → portBusy s x = false →
      hostOwns s ([bNETA, bNETB, bSTK, bSTK].getD x 0) = false → x < s.pins.loopback.length →
      EndsOk (.diagLoopback ch tag) s ch tag fun u d => d = [] ∧ u = { s with pins := { s.pins with
        loopback := u.pins.loopback } } ∧ u.pins.loopback.getD x 0 = u8 c.payload 1 ∧
          ∀ y, y ≠ x → u.pins.loopback.getD y 0 = s.pins.loopback.getD y 0) ∧
    (CmdReady s ch tag c 0x1003 → c.len = 8 → hostOwns s bGAL = false → reservedZero c.payload (0 :: span 4 4) = true →
      u8 c.payload 0 ≤ 1 → Accepts (.diagMarch ch tag) s ch tag fun u => u = s) ∧
    -- R211: TDM ports that DX owns in NATIVE+DX answer LOCKED
    (∀ x ∈ [(Instr.grdSet ch tag, 0x0F00, 12, dxPorts s (u16 c.payload 4)), (.grdReprobe ch tag, 0x0F02, 4, dxPorts s (u16 c.payload 0)),
        (.diagSnapClear ch tag, 0x1000, 8, dxBlocks s c.payload)],
      CmdReady s ch tag c x.2.1 → c.len = x.2.2.1 → x.2.2.2 = true → exec x.1 s = .next (endCmd s ch tag stLocked []))

/-- R198, R201, R212, R214, R217, R222, R224, R289: what an accepted command has done when it ends, and what a bound that
passes leaves. It rests on the model's choices of log 60. -/
def Obligations.AcceptedCommandsEnd : Prop :=
  ∀ (s : State) (ch tag : Nat) (c : Cmd), serving s = true →
    (acceptedCmd s ch tag = some c → ∀ v a b d,
      (c.opcode = 0x0104 → exec (.acceptedCommandEnd ch tag false v a b d) s = .next (endCmd { s with
        fw := { s.fw with image := some (u32 c.payload 0, []) }
        flash := { s.flash with images := modifyAt s.flash.images (idleImage s) fun _ => [] } } ch tag stOk [])) ∧
      (∀ n img, c.opcode = 0x0106 → s.fw.image = some (n, img) → s.flash.minSec < v → img.length = n → imageFits n = true →
        exec (.acceptedCommandEnd ch tag false v a b d) s = .next (endCmd { s with
          fw := { s.fw with image := none }, flash := { s.flash with trial := true, booted := false } } ch tag stOk [0, 0, 0, 0])) ∧
      (∀ n img r, c.opcode = 0x0106 → s.fw.image = some (n, img) →
        r = (if img.length ≠ n ∨ imageFits n = false then 3 else if v = 0 then 1 else if v ≤ s.flash.minSec then 2 else 0) →
        r ≠ 0 → exec (.acceptedCommandEnd ch tag false v a b d) s = .next (endCmd { s with
          fw := { s.fw with image := none } } ch tag stBadArg [byteOf r, 0, 0, 0])) ∧
      (c.opcode = 0x0107 → exec (.acceptedCommandEnd ch tag false v a b d) s = .next (endCmd ({ s with
        flash := { s.flash with active := 1 - s.flash.active % 2, trial := false, booted := false } }.setFld
          R.MBX.BOOT_INFO.TRIAL 0) ch tag stOk [])) ∧
      (c.opcode = 0x0302 → exec (.acceptedCommandEnd ch tag false v a b d) s = .next (endCmd { s with
        fw := { s.fw with staging := s.flash.formes.getD (u8 c.payload 0) [] } } ch tag stOk
          (leBytes 4 (s.flash.formes.getD (u8 c.payload 0) []).length ++
            leBytes 4 (u32 (s.flash.formes.getD (u8 c.payload 0) []) 8)))) ∧
      (c.opcode = 0x0305 → stkMember s = false → exec (.acceptedCommandEnd ch tag false v a b d) s = .next (endCmd { s with
        flash := { s.flash with formes := modifyAt s.flash.formes (u8 c.payload 0) fun _ => s.fw.work.image } } ch tag stOk [])) ∧
      (c.opcode = 0x0306 → exec (.acceptedCommandEnd ch tag false v a b d) s = .next (endCmd { s with
        flash := { s.flash with bootOv := if u8 c.payload 0 = 0xFF then none else some (u8 c.payload 0) } } ch tag stOk [])) ∧
      (∀ i, c.opcode = 0x0602 → namedDirs (u16 c.payload 0) (u16 c.payload 2) = [i] →
        exec (.acceptedCommandEnd ch tag false v a b d) s = .next
          (if s.tdmState (dirPort i) (dirRx i) ≤ tdmReady then endCmd s ch tag stOk [] else s)) ∧
      (c.opcode ≠ 0x0304 → c.opcode ≠ 0x0700 → s.fw.edit = none →
        exec (.acceptedCommandEnd ch tag true v a b d) s = .next (endCmd s ch tag stHw []))) ∧
    (s.mbx.cmds.find? (fun c => c.chan == ch && c.tag == tag && c.phase != .done) = some c → s.fw.edit = none →
      c.opcode ≠ 0x0304 → c.opcode ≠ 0x0700 → c.opcode ≠ 0x0902 → Goes (.commandBoundTimeout ch tag) s fun t =>
        t = endCmd s ch tag stTimeout [] ∧ liveGen t = liveGen s ∧ t.fw = s.fw)

/-- R196 to R198, R213: how a command ends. A response or completion is queued for its slot or ring, a command that had
answered ACCEPTED ends with an event, a G command raises the generation by one, and a step that moves no clock or time
instance announces nothing. It rests on the model's choices of log 55. -/
def Obligations.ResultsEventsAndGenerations : Prop :=
  ∀ (s : State) (ch tag st : Nat) (d : List Byte) (c : Cmd),
    (s.mbx.cmds.find? (fun c => c.chan == ch && c.tag == tag && c.phase != .done) = some c →
      (c.phase = .taken → endCmd s ch tag st d = { s with mbx := { s.mbx with
        cmds := (endCmd s ch tag st d).mbx.cmds
        ready := s.mbx.ready ++ [(if c.chan = 2 then 8 else c.slot,
          ⟨c.opcode, c.tag, st, liveGen s, if c.chan = 2 then c.slot else 0, d⟩)] } }) ∧
      (c.phase = .accepted → ch < s.mbx.evts.length → ((endCmd s ch tag st d).evtq ch).queue = (s.evtq ch).queue ++
        [⟨c.opcode, c.tag, st, liveGen s, if c.chan = 2 then c.slot else 0, d⟩] ∧
          (endCmd s ch tag st d).mbx.ready = s.mbx.ready ∧ Touches [R.MBX.STAT.EVT_PENDING] s (endCmd s ch tag st d)) ∧
      (∀ x ∈ (endCmd s ch tag st d).mbx.cmds, x.chan = ch → x.tag = tag → x.phase = .done)) ∧
    (takenCmd s ch tag = some c → (∀ x ∈ s.mbx.cmds, x.chan = ch → x.tag = tag → x = c) →
      (acceptCmd s ch tag).mbx.ready = s.mbx.ready ++ [(if c.chan = 2 then 8 else c.slot,
        ⟨c.opcode, c.tag, stAccepted, liveGen s, if c.chan = 2 then c.slot else 0, []⟩)] ∧
        (∃ x, acceptedCmd (acceptCmd s ch tag) ch tag = some x ∧ x.opcode = c.opcode ∧ x.payload = c.payload) ∧
        (acceptCmd s ch tag).rf = s.rf) ∧
    (∀ op, stkMember s = false → liveGen (finishGen s op ch) = (liveGen s + 1) % 2 ^ 32 ∧
      (finishGen s op ch).fw.work.gen = (liveGen s + 1) % 2 ^ 32 ∧ (finishGen s op ch).sh = s.sh ∧
        (finishGen s op ch).impo = s.impo) ∧
    (∀ u, (∀ n, n < 8 → u.mcsState n = s.mcsState n) →
      (∀ n, n < 4 → u.rd (R.TIME.PTI_PORT_STATE.reg n) = s.rd (R.TIME.PTI_PORT_STATE.reg n) ∧
        u.rd (R.TIME.PTI_STAT.reg n) = s.rd (R.TIME.PTI_STAT.reg n)) →
      (∀ n, n < 8 → u.rd (R.CLK.MCS_FREQ.reg n) = s.rd (R.CLK.MCS_FREQ.reg n)) → follow s u = u)

/-- R187, R210, R211, R424: the checks of a command in their order; a refused one changes nothing but its own record. -/
def Obligations.CommandChecksInOrder : Prop :=
  ∀ (s : State) (ch tag : Nat) (c : Cmd), takenCmd s ch tag = some c → serving s = true → c.opcode = 0x0202 →
    gBusy s c = false →
    (opKnown s 0x0202 = false → exec (.pwrConfig ch tag) s = .next (endCmd s ch tag stBadOpcode [])) ∧
    (opKnown s 0x0202 = true → c.len ≠ 16 → exec (.pwrConfig ch tag) s = .next (endCmd s ch tag stBadLength [])) ∧
    (opKnown s 0x0202 = true → c.len = 16 → c.hdrBad = true →
      exec (.pwrConfig ch tag) s = .next (endCmd s ch tag stBadArg [])) ∧
    (opKnown s 0x0202 = true → c.len = 16 → c.hdrBad = false → stkState s = 7 →
      exec (.pwrConfig ch tag) s = .next (endCmd s ch tag stQuar [])) ∧
    (opKnown s 0x0202 = true → c.len = 16 → c.hdrBad = false → stkState s ≠ 7 → nbit c.flags 0 = true → c.gen ≠ liveGen s →
      exec (.pwrConfig ch tag) s = .next (endCmd s ch tag stGenMis [])) ∧
    (opKnown s 0x0202 = true → c.len = 16 → c.hdrBad = false → stkState s ≠ 7 → nbit c.flags 0 = false →
      blockLocked s bPWR = true → exec (.pwrConfig ch tag) s = .next (endCmd s ch tag stLocked [])) ∧
    (opKnown s 0x0202 = true → c.len = 16 → c.hdrBad = false → stkState s ≠ 7 → nbit c.flags 0 = false →
      blockLocked s bPWR = false →
      ((pwrImages c.payload).all (fun x => fwTakes s x.1 x.2) = false →
        exec (.pwrConfig ch tag) s = .next (endCmd s ch tag stBadArg [])) ∧
      ((pwrImages c.payload).all (fun x => fwTakes s x.1 x.2) = true → s.flag R.FRM.STAT.INCONSISTENT = true ∨ stkState s = 6 →
        exec (.pwrConfig ch tag) s = .next (endCmd s ch tag stWrongPhase [])))

/-- R274, R275, R279 to R281: a producer opens an item, writes its words, commits or rewinds it; an item that is not
admitted is dropped and counted; the consumer sees it only after its commit. It rests on the model's choices of log 12. -/
def Obligations.GalleyProducerSteps : Prop :=
  ∀ (s : State) (q : Nat), q < 1024 →
    (∀ kind folio ts, (s.gq q).opened = none → (s.gq q).swallow = false → Goes (.itemOpen q kind none folio ts) s fun t =>
      t.gq q = { s.gq q with opened := some ⟨kind, folio, ts, [], [], false⟩, known := false } ∧
        (∀ p, p ≠ q → t.gq p = s.gq p) ∧ Touches [R.GAL.EVT.LOW] s t) ∧
    (∀ kind len folio ts, (s.gq q).opened = none → (s.gq q).swallow = false → len ≤ 262144 → allots s q (cellsFor len) = none →
      Goes (.itemOpen q kind (some len) folio ts) s fun t => ∃ cells, cells.length = cellsFor len ∧
        t.gq q = { s.gq q with opened := some ⟨kind, folio, ts, cells, [], false⟩, known := true } ∧
        (∀ p, p ≠ q → t.gq p = s.gq p) ∧ Touches [R.GAL.EVT.LOW] s t) ∧
    (∀ kind len folio ts r, (s.gq q).opened = none → (s.gq q).swallow = false → len ≤ 262144 →
      allots s q (cellsFor len) = some r → Goes (.itemOpen q kind (some len) folio ts) s fun t =>
        (t.gq q).swallow = true ∧ (t.gq q).opened = none ∧ t.fld R.GAL.EVT.DROP = 1 ∧
          t.fld (R.GAL.Q_DROPS.COUNT q) = min (2 ^ 32 - 1) (s.fld (R.GAL.Q_DROPS.COUNT q) + 1)) ∧
    (∀ it bs, (s.gq q).opened = some it → (s.gq q).swallow = false → 1 ≤ bs.length → bs.length ≤ 8 → s.gal.flips = [] →
      cellsFor (it.bytes.length + bs.length) ≤ it.cells.length → s.flag R.GAL.INJECT.ARM = false →
      (Goes (.itemWordWrite q bs false) s fun t =>
        t.gq q = { s.gq q with opened := some { it with bytes := it.bytes ++ bs } } ∧ ∀ p, p ≠ q → t.gq p = s.gq p) ∧
      (Goes (.itemWordWrite q bs true) s fun t =>
        t.gq q = { s.gq q with opened := none, elems := (s.gq q).elems ++ [.item { it with bytes := it.bytes ++ bs }] } ∧
          ∀ p, p ≠ q → t.gq p = s.gq p)) ∧
    (∀ pre it, (s.gq q).elems = pre ++ [.item it] → it.live = false → pre.all GElem.live = true → (512 ≤ q ∨ it.kind ≠ 0) →
      (Goes (.itemCommit q) s fun t =>
        t.gq q = { s.gq q with elems := pre ++ [.item { it with live := true }], slugFresh := false } ∧ (∀ p, p ≠ q → t.gq p = s.gq p) ∧ Touches [R.GAL.EVT.LOW] s t) ∧
      ((s.gq q).opened = none → (s.gq q).swallow = false → Goes (.itemRewind q) s fun t =>
        t.gq q = { s.gq q with elems := pre } ∧ (∀ p, p ≠ q → t.gq p = s.gq p) ∧
          t.fld (R.GAL.Q_RWND.COUNT q) = min (2 ^ 32 - 1) (s.fld (R.GAL.Q_RWND.COUNT q) + 1) ∧
          Touches [R.GAL.EVT.LOW, R.GAL.Q_RWND.COUNT q, R.GAL.Q_STAT.Q_SAT q, R.GAL.RWND_CNT.COUNT, R.GAL.SAT.SAT_F] s t)) ∧
    (∀ it, (s.gq q).opened = some it → Goes (.itemRewind q) s fun t =>
      t.gq q = { s.gq q with opened := none } ∧ (∀ p, p ≠ q → t.gq p = s.gq p) ∧
        t.fld (R.GAL.Q_RWND.COUNT q) = min (2 ^ 32 - 1) (s.fld (R.GAL.Q_RWND.COUNT q) + 1) ∧
        Touches [R.GAL.EVT.LOW, R.GAL.Q_RWND.COUNT q, R.GAL.Q_STAT.Q_SAT q, R.GAL.RWND_CNT.COUNT, R.GAL.SAT.SAT_F] s t) ∧
    (∀ c, (s.gq q).carried = some c → (s.gq q).ownUsed = false → Goes (.carriedSlugPlace q) s fun t =>
      (t.gq q).carried = none ∧ ∃ sl, (t.gq q).elems = (s.gq q).elems ++ [.slug sl] ∧ sl.count = min 65535 c.count ∧
        sl.merged = true ∧ sl.own = true ∧ sl.folio = c.folio % 65536 ∧ sl.reason = c.reason)

/-- R282, R283: a consumer pops the element at its read point, marks it, goes back to the mark, and releases what it has
read. -/
def Obligations.GalleyConsumerSteps : Prop :=
  ∀ (s : State) (q : Nat), q < 1024 →
    ((s.gq q).depth = 0 → Goes (.queuePop q) s fun t => t = { s with out := .galPop q none [] :: s.out }) ∧
    (∀ e, (s.gq q).depth ≠ 0 → (s.gq q).elems[(s.gq q).rd]? = some e → s.gal.flips = [] → Goes (.queuePop q) s fun t =>
      t = { s with gal := t.gal, out := .galPop q (some e) [] :: s.out } ∧
        t.gq q = { s.gq q with rd := (s.gq q).rd + 1 } ∧ ∀ p, p ≠ q → t.gq p = s.gq p) ∧
    (Goes (.queueMark q) s fun t => t = { s with gal := t.gal } ∧ t.gq q = { s.gq q with mark := some (s.gq q).rd, flushed := false } ∧
      ∀ p, p ≠ q → t.gq p = s.gq p) ∧
    (∀ m, (s.gq q).mark = some m → Goes (.queueRewind q) s fun t =>
      t = { s with gal := t.gal, out := .galBack q 0 :: s.out } ∧ t.gq q = { s.gq q with rd := m }) ∧
    ((s.gq q).mark = none → Goes (.queueRewind q) s fun t => t =
      { s with out := .galBack q (if (s.gq q).flushed then 2 else 1) :: s.out }) ∧
    (Goes (.queueRelease q false) s fun t => (t.gq q).elems = (s.gq q).elems.drop (s.gq q).rd ∧ (t.gq q).rd = 0 ∧
      (t.gq q).opened = (s.gq q).opened ∧ (∀ p, p ≠ q → t.gq p = s.gq p) ∧ Touches [R.GAL.EVT.LOW] s t) ∧
    (∀ m, (s.gq q).mark = some m → m ≤ (s.gq q).rd → Goes (.queueRelease q true) s fun t =>
      (t.gq q).elems = (s.gq q).elems.drop m ∧ (t.gq q).rd = (s.gq q).rd - m ∧ Touches [R.GAL.EVT.LOW] s t)

/-- R272, R278, R284 to R290: flushes, link errors, the scrubber, a half's free list, reservations and budgets, and the
diagnostic window. It rests on the model's choices of logs 12, 85. -/
def Obligations.GalleyMaintenanceSteps : Prop :=
  ∀ (s : State) (q : Nat), q < 1024 →
    (s.flag R.GAL.FLUSH_STAT.BUSY = false → Goes (.flushStart q) s fun t => t.fld R.GAL.FLUSH_STAT.BUSY = 1 ∧
      t.fld R.GAL.FLUSH_STAT.LAST_Q = q ∧ t.fld (R.GAL.Q_STAT.FLUSHING q) = 1 ∧ t.gal.flushWait = (s.gq q).opened.isSome ∧
      (t.gq q).rd = 0 ∧ (t.gq q).mark = none ∧ (t.gq q).opened = none ∧
      ((s.gq q).elems = [] → (s.gq q).opened = none → (t.gq q).elems = []) ∧
      ∀ it, (s.gq q).elems = [.item it] → (s.gq q).rd = 0 → (s.gq q).opened = none → ∃ sl, (t.gq q).elems = [.slug sl] ∧
        sl.count = 1 ∧ sl.reason = 4 ∧ sl.folio = it.folio % 65536) ∧
    (s.flag R.GAL.FLUSH_STAT.BUSY = true → s.gal.flushWait = false → Goes .flushEnd s fun t =>
      t.fld R.GAL.FLUSH_STAT.BUSY = 0 ∧ t.fld R.GAL.FLUSH_STAT.DONE = 1 ∧
        t.fld (R.GAL.Q_STAT.FLUSHING (s.fld R.GAL.FLUSH_STAT.LAST_Q)) = 0 ∧ t.gal = s.gal) ∧
    (s.flag R.GAL.FLUSH_STAT.BUSY = true → s.gal.flushWait = true → Goes .flushForcedAbort s fun t =>
      t.fld R.GAL.FLUSH_STAT.BUSY = 0 ∧ t.fld R.GAL.FLUSH_STAT.FLUSH_ABORT = 1 ∧ t.gal.flushWait = false ∧
        (t.gq (s.fld R.GAL.FLUSH_STAT.LAST_Q)).swallow = false) ∧
    (∀ j c, s.flag R.GAL.FLUSH_STAT.BUSY = false → (s.gq q).cells[j]? = some c → Goes (.linkParityError q j) s fun t =>
      t.fld R.GAL.EVT.LINK_ERR = 1 ∧ t.fld R.GAL.FLUSH_STAT.BUSY = 1 ∧ t.fld R.GAL.FLUSH_STAT.LAST_Q = q ∧
        (t.gq q).rd = 0 ∧ ∀ x ∈ (s.gq q).cells.drop (j + 1), x ∈ t.gal.lost) ∧
    (∀ c, s.flag R.GAL.SCRUB.EN = true → s.flag R.GAL.INJECT.ARM = false → nextFree (usedCells s) s (131072 - s.gal.scrubPos) s.gal.scrubPos = some c →
      s.gal.flips = [] → Goes (.scrubCell false) s fun t => t.gal.qs = s.gal.qs ∧ t.gal.retired = s.gal.retired ∧
        t.gal.scrubPos = (if c = 131071 then 0 else c + 1) ∧ Touches [R.GAL.SCRUB_STAT.PASSES, R.GAL.EVT.LOW] s t) ∧
    (∀ h, h < 2 → h < s.gal.built.length → s.domOn (3 + h) = true → Goes (.freeListBuilt h) s fun t =>
      t.gal.built.getD h false = true ∧ t.fld (if h = 0 then R.GAL.POOL.BUILD0 else R.GAL.POOL.BUILD1) = 0 ∧
        t.gal.qs = s.gal.qs) ∧
    (∀ n, n < 2 ^ 18 → n ≤ s.fld (R.GAL.Q_CAP.CELLS q) → resFits s q n = true → Goes (.qResWrite q n) s fun t =>
      t.fld (R.GAL.Q_RES.CELLS q) = n ∧ t.gal = s.gal ∧ t.fld (R.GAL.Q_CAP.CELLS q) = s.fld (R.GAL.Q_CAP.CELLS q)) ∧
    (∀ n, n < 2 ^ 18 → s.fld (R.GAL.Q_CAP.CELLS q) < n → Goes (.qResWrite q n) s fun t => t = s) ∧
    (∀ n, n < 2 ^ 18 → n ≤ s.fld (R.GAL.Q_CAP.CELLS q) → resFits s q n = false → Goes (.qResWrite q n) s fun t =>
      t.fld R.GAL.EVT.ADMIT_REFUSED = 1 ∧ Touches [R.GAL.EVT.ADMIT_REFUSED] s t) ∧
    (∀ n, n < 2 ^ 18 → s.fld (R.GAL.Q_RES.CELLS q) ≤ n → Goes (.qCapWrite q n) s fun t =>
      t.fld (R.GAL.Q_CAP.CELLS q) = n ∧ t.gal = s.gal) ∧
    (∀ be, (s.gq q).held = 0 → Goes (.qCfgHalfWrite q be 0) s fun t =>
      t.fld (R.GAL.Q_CFG.HALF q) = 0 ∧ t.fld (R.GAL.Q_CFG.BE q) = b2n be ∧ t.gal = s.gal) ∧
    (∀ k n, k < 5 → n < 2 ^ 18 → s.fld (ressum k) ≤ n →
      (([0, 1, 2, 3, 4].filter (· != k)).map fun j => s.fld (R.GAL.BUDGET.CELLS j)).sum + n ≤
        131072 - 1024 - s.fld R.GAL.SCRUB_STAT.RETIRED → Goes (.budgetWrite k n) s fun t =>
          t.fld (R.GAL.BUDGET.CELLS k) = n ∧ t.gal = s.gal) ∧
    (∀ a d, winOpen s = false → (Goes (.galDiagAccess true a d) s fun t => t = s) ∧
      Goes (.galDiagAccess false a d) s fun t => t = { s with out := .diagRead a 0 :: s.out }) ∧
    (∀ a d, winOpen s = true → a < 8388608 → a % 4 = 0 → s.gal.flips = [] → Goes (.galDiagAccess false a d) s fun t =>
      t = { s with out := .diagRead a (fromLE (((cellBytes s (cellOf (a / 64))).drop (a % 64)).take 4)) :: s.out }) ∧
    (∀ v : Word, s.phase = 2 → v.getLsbD 31 = true → bits v.toNat 24 7 ≤ 71 → Goes (.galInjectArm v) s fun t =>
      t = { s with rf := t.rf } ∧ t.fld R.GAL.INJECT.ARM = 1 ∧ t.fld R.GAL.INJECT.CELL = bits v.toNat 0 17 ∧
        t.fld R.GAL.INJECT.WORD = bits v.toNat 17 3 ∧ t.fld R.GAL.INJECT.BIT = bits v.toNat 24 7)

/-- R16, R294 to R305, R295, R317: a frame on a link that is down changes nothing, one with a bad FCS is counted; a key
discards a frame, gives it to a Compositor queue or stores its packet in a flow's queue; a port's link comes and goes. It
rests on the model's choices of logs 17, 74. -/
def Obligations.NetworkIngressSteps : Prop :=
  ∀ (s : State) (p : Nat) (raw : List Byte), p < 3 →
    (∀ good, linkUp s p = false → exec (.netFrameRx p raw good) s = .next s) ∧
    (linkUp s p = true → (classify s p (hdrOf raw)).1 = none → Goes (.netFrameRx p raw false) s fun t =>
      t = { s with net := t.net, rf := t.rf } ∧
      t.fld (R.NET.FCS_ERR.COUNT p) = min (2 ^ 32 - 1) (s.fld (R.NET.FCS_ERR.COUNT p) + 1) ∧
      t.fld (R.NET.STAT.ERR_EV p) = 1 ∧
      Touches [R.NET.FCS_ERR.COUNT p, R.NET.STAT.ERR_EV p, R.NET.SAT.SAT_F p] s t) ∧
    (∀ i q, linkUp s p = true → (hdrOf raw).etype ≠ 0x8808 → (hdrOf raw).ckBad = false →
      macAccepts s p (raw.take (raw.length - 4)) = true → (classify s p (hdrOf raw)).1 = some i →
      (bits (s.key i 0).toNat 10 2 = 1 ∧ q = 960 + bits (s.key i 0).toNat 0 8 % 32) ∨
        (bits (s.key i 0).toNat 10 2 = 0 ∧ q = rxQueue (bits (s.key i 0).toNat 0 8) (p % 2) ∧
          s.fld (R.RXF.F_STAT.STATE (bits (s.key i 0).toNat 0 8)) ≠ 0) →
      Goes (.netFrameRx p raw false) s fun t => t = { s with net := t.net, rf := t.rf } ∧
        t.fld (R.NET.FCS_ERR.COUNT p) = min (2 ^ 32 - 1) (s.fld (R.NET.FCS_ERR.COUNT p) + 1) ∧
        t.fld (R.GAL.Q_RWND.COUNT q) = min (2 ^ 32 - 1) (s.fld (R.GAL.Q_RWND.COUNT q) + 1)) ∧
    (∀ i, FrameOk s p raw → (classify s p (hdrOf raw)).1 = some i →
      (bits (s.key i 0).toNat 10 2 = 2 → Goes (.netFrameRx p raw true) s fun t => t = { s with net := t.net, rf := t.rf } ∧
        t.fld R.RXF.CLS_DROP.COUNT = min (2 ^ 32 - 1) (s.fld R.RXF.CLS_DROP.COUNT + 1) ∧
        Touches [R.RXF.CLS_DROP.COUNT, R.RXF.CLS_DUP.COUNT] s t) ∧
      (∀ q, q = 960 + bits (s.key i 0).toNat 0 5 → bits (s.key i 0).toNat 10 2 = 1 → QueueTakes s q (12 + raw.length) →
        Goes (.netFrameRx p raw true) s fun t => t = { s with net := t.net, rf := t.rf, gal := t.gal, freeCtr := t.freeCtr } ∧
          ∃ cells, t.gq q = { s.gq q with known := false, elems := (s.gq q).elems ++ [.item ⟨4, 0, 0, cells,
            elemHeader 4 (12 + raw.length) ++ List.replicate 12 0 ++ raw.take (raw.length - 4), false⟩] }) ∧
      (∀ f k inf, f = bits (s.key i 0).toNat 0 8 → bits (s.key i 0).toNat 10 2 = 0 →
        PacketOk s f p k inf (hdrOf raw).body (hdrOf raw).type →
        QueueTakes s (rxQueue f p) (16 + (readPacket s f (hdrOf raw).body).payload.length) →
        Goes (.netFrameRx p raw true) s fun t =>
          t = { s with net := t.net, rf := t.rf, gal := t.gal, freeCtr := t.freeCtr, rxf := t.rxf } ∧
          (∀ g, g ≠ f → t.flow g = s.flow g) ∧ (t.flow f).next = (s.flow f).next ∧
          ∃ cells, t.gq (rxQueue f p) = { s.gq (rxQueue f p) with known := false, elems := (s.gq (rxQueue f p)).elems ++
            [.item ⟨0, folioOf s f (p % 2) (readPacket s f (hdrOf raw).body), k, cells,
              elemHeader 0 (16 + (readPacket s f (hdrOf raw).body).payload.length) ++
              leBytes 2 (folioOf s f (p % 2) (readPacket s f (hdrOf raw).body)) ++
              [byteOf (p * 64 + b2n inf * 32 +
                b2n ((s.flow f).mr.getD (p % 2) false != (readPacket s f (hdrOf raw).body).mr) * 16), byteOf f] ++
              leBytes 4 (k % 2 ^ 32) ++ leBytes 4 (ptiNs s (s.fld (R.RXF.F_CFG.PTI f)) % 2 ^ 32) ++
              (readPacket s f (hdrOf raw).body).payload, false⟩] })) ∧
    (∀ an fec inv, (inv = true → p = 2 ∨ grdOn s 3 = false) → linkUp s p = false →
      Goes (.netLinkStateChange p 3 an fec inv) s fun t =>
      t = { s with rf := t.rf, pins := { s.pins with txInv := t.pins.txInv } } ∧
      t.fld (R.NET.STAT.STATE p) = 3 ∧ t.fld (R.NET.STAT.LINK_UP p) = 1 ∧ t.fld (R.NET.STAT.LINK_EV p) = 1 ∧
      t.fld (R.NET.STAT.FEC_LOCK p) = b2n fec ∧ (an = true → t.fld (R.NET.STAT.AN_EV p) = 1) ∧
      Touches [R.NET.STAT.STATE p, R.NET.STAT.LINK_UP p, R.NET.STAT.LINK_EV p, R.NET.STAT.FEC_LOCK p,
        R.NET.STAT.AN_EV p, R.GRD.LANE_STAT.POL_INV] s t) ∧
    (∀ st an fec inv, st < 16 → st ≠ 3 → linkUp s p = true → ∃ u, exec (.netLinkStateChange p st an fec inv) s = .next (follow s u) ∧
      u.fld (R.NET.STAT.STATE p) = st ∧ u.fld (R.NET.STAT.LINK_UP p) = 0 ∧ u.fld (R.NET.STAT.LINK_EV p) = 1 ∧
      (∀ n, n < 4 → s.portState n p ≠ 0 → u.portState n p = 7) ∧
      ∀ f, f < 256 → p < 2 → seamless s f = true → s.fld (pathFld f p) = 2 → u.fld (pathFld f p) = 3)

/-- R254, R257, R261, R299: writes of classifier keys and imposition entries, the moment a captured entry takes effect,
and the table's CRC. It rests on the model's choices of logs 9, 107. -/
def Obligations.ClassifierAndImpositionSteps : Prop :=
  ∀ s : State,
    (∀ init cam i w v, TableOpen s init bRXF → i < (if cam then 64 else 4096) → 1 ≤ w → w < 8 →
      (nbit (s.key ((if cam then 4096 else 0) + i) 0).toNat 31 = false →
        Goes (.classifierKeyWrite init cam i w v) s fun t => t = { s with cls := t.cls } ∧
          t.key ((if cam then 4096 else 0) + i) w = v ∧
          ∀ j x, x < 8 → (j ≠ (if cam then 4096 else 0) + i ∨ x ≠ w) → t.key j x = s.key j x) ∧
      (nbit (s.key ((if cam then 4096 else 0) + i) 0).toNat 31 = true →
        Goes (.classifierKeyWrite init cam i w v) s fun t => t = { s with rf := t.rf, latched := t.latched } ∧
          t.fld R.RXF.CLS_STAT.REFUSED = 1 ∧ t.fld R.RXF.CLS_STAT.KEYS = s.fld R.RXF.CLS_STAT.KEYS)) ∧
    (∀ init cam i v, TableOpen s init bRXF → i < (if cam then 64 else 4096) → s.fld R.RXF.CLS_STAT.KEYS + 1 < 2 ^ 12 →
      (v.getLsbD 31 = false → Goes (.classifierKeyWrite init cam i 0 v) s fun t =>
        t.key ((if cam then 4096 else 0) + i) 0 = v ∧ t.fld R.RXF.CLS_STAT.KEYS =
          s.fld R.RXF.CLS_STAT.KEYS - b2n (nbit (s.key ((if cam then 4096 else 0) + i) 0).toNat 31)) ∧
      (v.getLsbD 31 = true → bits v.toNat 28 3 < 3 → bits v.toNat 26 2 < 3 → bits v.toNat 10 2 < 3 →
        (bits v.toNat 26 2 = 2 → bits v.toNat 10 2 = 0 → s.dxPresent = true ∧ bits v.toNat 0 8 < 8) → bits v.toNat 8 2 = 0 →
        bits (s.key ((if cam then 4096 else 0) + i) 1).toNat 0 16 = 0 → s.key ((if cam then 4096 else 0) + i) 3 = 0 →
        ((cam = true ∨ ∃ x, x < 4 ∧ i = keyPlace (keyHash (bits v.toNat 28 3) (bits v.toNat 26 2)
            (bits (s.key i 1).toNat 16 16) (keyAddr s i)) x) → Goes (.classifierKeyWrite init cam i 0 v) s fun t =>
          t.key ((if cam then 4096 else 0) + i) 0 = v ∧ t.fld R.RXF.CLS_STAT.KEYS =
            s.fld R.RXF.CLS_STAT.KEYS + 1 - b2n (nbit (s.key ((if cam then 4096 else 0) + i) 0).toNat 31)) ∧
        (cam = false → (∀ x, x < 4 → i ≠ keyPlace (keyHash (bits v.toNat 28 3) (bits v.toNat 26 2)
            (bits (s.key i 1).toNat 16 16) (keyAddr s i)) x) → Goes (.classifierKeyWrite init cam i 0 v) s fun t =>
          t.cls = s.cls ∧ t.fld R.RXF.CLS_STAT.REFUSED = 1))) ∧
    (∀ init d v, TableOpen s init bIMP → d < 8192 → (coDx s = true → dxDest d = true → init = 2) →
      (impJudge s d v = none → Goes (.impositionEntryWrite init d v) s fun t => t = { s with impo := t.impo } ∧
        t.imp d = { s.imp d with shadow := v, reason := 0 } ∧ ∀ x, x ≠ d → t.imp x = s.imp x) ∧
      (∀ r, impJudge s d v = some r → Goes (.impositionEntryWrite init d v) s fun t =>
        (t.imp d).shadow = (s.imp d).shadow ∧ (d < 0x1E00 → (t.imp d).reason = r) ∧ t.fld R.IMP.STAT.REFUSED = 1 ∧
          t.fld R.IMP.REFUSED_CNT.COUNT = min (2 ^ 32 - 1) (s.fld R.IMP.REFUSED_CNT.COUNT + 1) ∧ ∀ x, x ≠ d → t.imp x = s.imp x)) ∧
    (∀ d w, (s.imp d).cap = some w → (∀ i, (s.imp d).link = some i → maskWaits s i = false) → impDue s d ≤ dstIndex s d →
      (s.imp d).held = false →
      Goes (.impositionTakeEffect d) s fun t => t = { s with rf := t.rf, impo := t.impo, latched := t.latched } ∧
        (t.imp d).cur = impNext (s.imp d) w (impDue s d) ∧ (t.imp d).prev = (s.imp d).cur ∧
        (t.imp d).eff = impDue s d ∧ (t.imp d).cap = none ∧ (t.imp d).shadow = (s.imp d).shadow ∧
        ∀ x, x ≠ d → t.imp x = s.imp x) ∧
    (∀ d x, (s.imp d).link = some x → maskWaits s x = true → exec (.impositionTakeEffect d) s = .next s) ∧
    (∀ d, dstIndex s d < impDue s d → exec (.impositionTakeEffect d) s = .next s) ∧
    Goes .tableCrcUpdate s fun t => t = { s with rf := t.rf } ∧ t.fld R.IMP.TABLE_CRC.CRC = tableCrc s % 2 ^ 32 ∧
      Touches [R.IMP.TABLE_CRC.CRC] s t

/-- R263 to R265, R306 to R309, R312, R342: playout of a due index from a packet or as concealment, the end of a placement
window and of a slew, a lane that starts to run, and the loss of a seamless path. It rests on the model's choices of logs
13, 74. -/
def Obligations.PlayoutAndKerningSteps : Prop :=
  ∀ (s : State) (f : Nat), f < 256 →
    (∀ m, (∀ g, g < 256 → s.fld (R.RXF.F_CFG.MCS g) = m → s.fld (R.RXF.F_STAT.STATE g) = 0 ∨ 4 ≤ s.fld (R.RXF.F_STAT.STATE g)) →
      exec (.playoutIndexDue m) s = .next s) ∧
    (∀ it, (∀ g, g < 256 → g ≠ f → s.fld (R.RXF.F_STAT.STATE g) = 0) → 1 ≤ s.fld (R.RXF.F_STAT.STATE f) →
      s.fld (R.RXF.F_STAT.STATE f) ≤ 3 → s.fld (R.RXF.F_CFG.FORMAT f) < 9 → s.fld (R.RXF.F_CFG.PATHS f) = 1 →
      s.fld (R.RXF.F_CFG.LANE f) = 0xFF → s.dxPresent = false → (s.flow f).step = none → (s.flow f).slew = none → s.gal.flips = [] →
      (s.gq (2 * f)).elems = [.item it] → (s.gq (2 * f)).rd = 0 → it.live = true →
      it.ts + s.fld (R.RXF.F_OFFSET_NOW.SAMPLES f) ≤ mcsCount s (s.fld (R.RXF.F_CFG.MCS f)) →
      mcsCount s (s.fld (R.RXF.F_CFG.MCS f)) < it.ts + rxN s f + s.fld (R.RXF.F_OFFSET_NOW.SAMPLES f) →
      Goes (.playoutIndexDue (s.fld (R.RXF.F_CFG.MCS f))) s fun t => t.fld (R.RXF.F_STAT.STATE f) = 2 ∧ t.impo = s.impo ∧
        t.txs = s.txs ∧ (∀ g, g ≠ f → t.flow g = s.flow g) ∧ (t.gq (2 * f)).rd = 1 ∧
        ∀ c, c < s.fld (R.RXF.F_CHAN.CHANNELS f) → (flowConc s f c).scale = 64 →
          findSort t (rxIdent s f c) (mcsCount s (s.fld (R.RXF.F_CFG.MCS f))) =
            some ((sampleWord s f (mcsCount s (s.fld (R.RXF.F_CFG.MCS f)) - s.fld (R.RXF.F_OFFSET_NOW.SAMPLES f)) c it).1,
              (sampleWord s f (mcsCount s (s.fld (R.RXF.F_CFG.MCS f)) - s.fld (R.RXF.F_OFFSET_NOW.SAMPLES f)) c it).2.1)) ∧
    ((∀ g, g < 256 → g ≠ f → s.fld (R.RXF.F_STAT.STATE g) = 0) → s.fld (R.RXF.F_STAT.STATE f) = 2 →
      s.fld (R.RXF.F_CFG.FORMAT f) < 9 → s.fld (R.RXF.F_CFG.PATHS f) = 1 → s.fld (R.RXF.F_CFG.LANE f) = 0xFF →
      s.dxPresent = false → (s.flow f).slew = none → (s.gq (2 * f)).elems = [] →
      Goes (.playoutIndexDue (s.fld (R.RXF.F_CFG.MCS f))) s fun t => t.fld (R.RXF.F_STAT.STATE f) = 3 ∧
        t.fld (R.RXF.F_STAT.CONCEAL_EV f) = 1 ∧ t.gal = s.gal ∧ (∀ g, g ≠ f → t.flow g = s.flow g) ∧
        ∀ c, c < s.fld (R.RXF.F_CHAN.CHANNELS f) →
          findSort t (rxIdent s f c) (mcsCount s (s.fld (R.RXF.F_CFG.MCS f))) =
            some (if s.fld (R.RXF.F_CFG.FORMAT f) = 3 then 0 else
              concWord (s.fld (R.RXF.F_CFG.CONCEAL f)) (concSkip (flowConc s f c) 1),
              s.fld (R.RXF.F_CFG.FORMAT f) == 3 || (flowConc s f c).lastT)) ∧
    (∀ m, s.pstate = 0 → s.fld (R.RXF.F_STAT.STATE f) ≠ 0 → s.flag (R.RXF.F_CFG.ADAPT f) = true → (s.flow f).slew = none →
      2 ^ s.fld (R.RXF.F_PLC.WIN f) ≤ (s.flow f).winN → (s.flow f).winMin = some m →
      ((s.flow f).winLate = false → (s.fld (R.RXF.F_TGT.LO_US f) * 1000 : Int) ≤ m → m ≤ s.fld (R.RXF.F_TGT.HI_US f) * 1000 →
        Goes (.placementWindowEnd f) s fun t => t = { s with rxf := t.rxf } ∧ (∀ g, g ≠ f → t.flow g = s.flow g) ∧
          t.flow f = { s.flow f with winN := 0, winMin := none, winLate := false }) ∧
      (∀ d : Int, m < s.fld (R.RXF.F_TGT.LO_US f) * 1000 → s.fld R.TWIN.STAT.STATE ≠ 3 →
        d = (((s.fld (R.RXF.F_TGT.LO_US f) * 1000 + s.fld (R.RXF.F_TGT.HI_US f) * 1000 : Int) / 2 - m) *
          s.mcsFs (s.fld (R.RXF.F_CFG.MCS f)) + 999999999) / 1000000000 → d ≠ 0 →
        (rxN s f + 35 : Int) ≤ s.fld (R.RXF.F_OFFSET_NOW.SAMPLES f) + d →
        s.fld (R.RXF.F_OFFSET_NOW.SAMPLES f) + d ≤ (((s.fld (R.RXF.F_DEPTH.US f) * 3000 -
          ptThirds (s.fld (R.RXF.F_CFG.PTIME f)) : Nat) : Int) * s.mcsFs (s.fld (R.RXF.F_CFG.MCS f))) / 3000000000 →
        Goes (.placementWindowEnd f) s fun t => t.fld (R.RXF.F_STAT.SLEWING f) = 1 ∧ t.fld (R.RXF.F_STAT.SLEW_EV f) = 1 ∧
          t.fld (R.RXF.F_OFFSET_NOW.SAMPLES f) = (s.fld (R.RXF.F_OFFSET_NOW.SAMPLES f) + d).toNat % 2 ^ 24 ∧
          ∃ w, (t.flow f).slew = some w ∧ w.delta = d ∧ w.limit = s.fld (R.RXF.F_PLC.RATE_PPM f))) ∧
    (∀ w, (s.flow f).slew = some w → (∀ n ∈ gang s f, n < 256) →
      (slewTimes s f w).1 + (slewTimes s f w).2 ≤ slewTime w (s.ptiRaw (s.mcsPti (s.fld (R.RXF.F_CFG.MCS f)))) →
      Goes (.kerningSlewEnd f) s fun t =>
      t = { s with rf := t.rf, rxf := t.rxf, lanes := t.lanes } ∧ t.fld (R.RXF.F_STAT.SLEWING f) = 0 ∧
        t.flow f = { s.flow f with slew := none } ∧
        ∀ n ∈ gang s f, s.fld (R.KRN.L_STAT.STATE n) = laneSlew →
          t.fld (R.KRN.L_STAT.STATE n) = laneRun ∧ t.fld (R.KRN.L_STAT.SLEW_DONE_EV n) = 1) ∧
    ((∀ w, (s.flow f).slew = some w → slewTime w (s.ptiRaw (s.mcsPti (s.fld (R.RXF.F_CFG.MCS f)))) <
      (slewTimes s f w).1 + (slewTimes s f w).2) → exec (.kerningSlewEnd f) s = .next s) ∧
    (∀ n, n < 256 → n < s.lanes.length → s.fld (R.KRN.L_STAT.STATE n) = laneTrack → Goes (.krnTrackDone n) s fun t =>
      t = { s with rf := t.rf, lanes := t.lanes } ∧ t.fld (R.KRN.L_STAT.STATE n) = laneRun ∧
        t.fld (R.KRN.L_STAT.VALID n) = 1 ∧ t.fld (R.KRN.L_STAT.OVERFLOW n) = laneOver s n ∧
        ((∀ a rs, (s.lane n).runs ≠ (a, none) :: rs) →
          (t.lane n).runs.head? = some (mcsCount s (s.fld (R.KRN.L_CFG.OUT_MCS n)), none)) ∧
        (∀ x, x ≠ n → t.lane x = s.lane x) ∧
        Touches [R.KRN.L_STAT.STATE n, R.KRN.L_STAT.VALID n, R.KRN.L_STAT.OVERFLOW n, R.KRN.L_STAT.SAT n] s t) ∧
    (∀ path, path < 2 → seamless s f = true → s.fld (pathFld f path) = 2 →
      (s.fld R.RED.CFG.LOSS_PP ≤ (s.flow f).empty.getD path 0 → Goes (.redPathLoss f path) s fun t =>
        t = { s with rf := t.rf, mbx := { s.mbx with evts := t.mbx.evts } } ∧ t.fld (pathFld f path) = 3 ∧
          t.fld (if path = 0 then R.RED.F_STAT.LOST_A_EV f else R.RED.F_STAT.LOST_B_EV f) = 1 ∧
          t.fld (pathFld f (1 - path)) = s.fld (pathFld f (1 - path))) ∧
      ((s.flow f).empty.getD path 0 < s.fld R.RED.CFG.LOSS_PP → exec (.redPathLoss f path) s = .next s))

/-- R320 to R325, R328 to R330, R332: a transmit flow starts, closes a packet into its queue and launches it; a port
starts a waiting frame; a funnel entry launches a member's packet. It rests on the model's choices of logs 18, 48, 74, 111. -/
def Obligations.NetworkEgressSteps : Prop :=
  ∀ (s : State) (f : Nat), f < 256 →
    (∀ n c, n = max 1 (txN s f) → s.fld (R.TXF.F_STAT.STATE f) = 1 → s.fld (R.TXF.F_PHASE.ALIGN f) < n →
      c = indexAt s (s.fld (R.TXF.F_CFG.MCS f)) ((s.txf f).armedAt + periods 2 (s.mcsFs (s.fld (R.TXF.F_CFG.MCS f)))) +
        b2n (decide (instantOf s (s.fld (R.TXF.F_CFG.MCS f)) (indexAt s (s.fld (R.TXF.F_CFG.MCS f)) ((s.txf f).armedAt +
          periods 2 (s.mcsFs (s.fld (R.TXF.F_CFG.MCS f))))) < (s.txf f).armedAt +
          periods 2 (s.mcsFs (s.fld (R.TXF.F_CFG.MCS f))))) →
      c + n ≤ mcsCount s (s.fld (R.TXF.F_CFG.MCS f)) → Goes (.txFlowStart f) s fun t => t = { s with rf := t.rf, txs := t.txs } ∧
        t.fld (R.TXF.F_STAT.STATE f) = 2 ∧ t.fld (R.TXF.F_STAT.STATE_EV f) = 1 ∧ c ≤ (t.txf f).k ∧ (t.txf f).k < c + n ∧
        (t.txf f).k % n = s.fld (R.TXF.F_PHASE.ALIGN f) ∧ (t.txf f).k0 = (t.txf f).k ∧
        (t.txf f).folio0 = s.fld (R.TXF.F_FOLIO.NEXT f) ∧ Touches [R.TXF.F_STAT.STATE f, R.TXF.F_STAT.STATE_EV f] s t) ∧
    (∀ x k n frame, x = s.txf f → k = x.k → n = max 1 (txN s f) → s.flag (R.TXF.F_CFG.FUNNEL f) = false →
      s.fld (R.TXF.F_STAT.STATE f) = 2 → launchTime s (s.fld (R.TXF.F_CFG.MCS f)) (s.fld (R.TXF.F_CFG.PTI f)) k n 0
        (s.fld (R.TXF.F_PHASE.E_NS f)) ≤ ((s.ptiRaw (s.fld (R.TXF.F_CFG.PTI f)) + 1000 * nsUnit : Nat) : Int) →
      (s.gq 920).elems = [] →
      frame = writeHeaders (template s f ++ (composeAll s f k).out) (s.fld (R.TXF.F_CFG.FORMAT f))
        ((x.folio0 + (k - x.k0) / n) % 65536)
        (if s.flag (R.TXF.F_CFG.AVTP f) then ((launchTime s (s.fld (R.TXF.F_CFG.MCS f)) (s.fld (R.TXF.F_CFG.PTI f)) k 0 0 0 /
          (nsUnit : Int)).toNat + s.fld (R.TXF.F_TRANSIT.VALUE f)) % 2 ^ 32 else (k + s.fld (R.TXF.F_RTPOFF.VALUE f)) % 2 ^ 32)
        (composeAll s f k).out.length x.mr x.dbc →
      QueueTakes s (512 + f) (16 + frame.length) → (s.gq (512 + f)).elems.all GElem.live = true →
      Goes (.packetClose f) s fun t => (t.txf f).k = k + n ∧ (t.txf f).dbc = (x.dbc + n) % 256 ∧
        t.fld (R.TXF.F_FOLIO.NOW f) = (x.folio0 + (k - x.k0) / n) % 65536 ∧ (∀ g, g ≠ f → t.txf g = s.txf g) ∧
        ∃ cells desc, desc.length = 16 ∧ t.gq (512 + f) = { s.gq (512 + f) with
          known := true, slugFresh := false, elems := (s.gq (512 + f)).elems ++
            [.item ⟨0, (x.folio0 + (k - x.k0) / n) % 65536, k, cells, desc ++ frame, true⟩] }) ∧
    ((s.gq (512 + f)).depth = 0 → exec (.packetLaunch f) s = .next s) ∧
    (∀ it, (s.gq (512 + f)).elems = [.item it] → (s.gq (512 + f)).rd = 0 → it.live = true → s.gal.flips = [] →
      u8 it.bytes 6 = 0x80 → s.fld R.TWIN.CFG.ROLE = 0 → twinSilent s = false → s.dxPresent = false → linkUp s 0 = true →
      (∀ p ∈ s.txp, ∀ w ∈ p.wait, w.flow ≠ f) → 2 ≤ s.txp.length →
      (s.flag (R.TXF.F_CFG.TIER f) = true → Goes (.packetLaunch f) s fun t =>
        (∃ pad, t.out = .netTx 0 (it.bytes.drop 16 ++ pad ++ leBytes 4 (crc32 (it.bytes.drop 16 ++ pad))) :: s.out ∧
          pad = List.replicate (60 - (it.bytes.drop 16).length) 0) ∧
        (t.gq (512 + f)).elems = [] ∧ t.txp = modifyAt s.txp 0 (fun x =>
          { x with wire := some (f, s.ticks + wireNs s 0 (it.bytes.drop 16).length / 2) }) ∧ (t.txf f).pkts = modifyAt (s.txf f).pkts 0 (· + 1)) ∧
      (s.flag (R.TXF.F_CFG.TIER f) = false → s.fld (R.TXF.F_CFG.CLASS f) = 0 → Goes (.packetLaunch f) s fun t =>
        t.txp = modifyAt s.txp 0 (fun x => { x with wait := x.wait ++ [⟨f, it.ts, 0, it.bytes.drop 16⟩] }) ∧ t.out = s.out ∧
        (t.gq (512 + f)).elems = [.item it])) ∧
    (∀ p, linkUp s p = false → exec (.portFrameStart p) s = .next s) ∧
    (∀ p x w, linkUp s p = true → s.txp[p]? = some x → x.wait = [w] → w.cls = 0 → 256 ≤ w.flow →
      endsBeforePrime s p w.bytes.length = true → Goes (.portFrameStart p) s fun t =>
        t = { s with txp := t.txp, net := t.net, out := t.out } ∧ (∃ y, t.txp[p]? = some y ∧ y.wait = []) ∧
        t.out = .netTx p (w.bytes ++ List.replicate (60 - w.bytes.length) 0 ++
          leBytes 4 (crc32 (w.bytes ++ List.replicate (60 - w.bytes.length) 0))) :: s.out) ∧
    (∀ p x, linkUp s p = true → s.txp[p]? = some x → x.wait = [] → compositorQueue s p = none →
      Goes (.portFrameStart p) s fun t => t = { s with txp := t.txp }) ∧
    (∀ j it, j < 64 → s.flag (R.TXF.FUN_CFG.EN j) = true → s.fld (R.TXF.FUN_CFG.MEMBER j) ≠ 0 → s.gal.flips = [] →
      (s.gq (951 + s.fld (R.TXF.FUN_CFG.MEMBER j))).elems = [.item it] → it.live = true →
      u8 it.bytes 7 = s.fld (R.TXF.FUN_CFG.FLOW j) →
      (Goes (.funnelLaunch j true) s fun t => t.fld (R.TXF.FUN_STAT.FUN_LATE_EV j) = 1 ∧
        t.fld (R.TXF.FUN_STAT.FUN_LATE j) = min 65535 (s.fld (R.TXF.FUN_STAT.FUN_LATE j) + 1) ∧ t.txp = s.txp ∧
        (t.gq (951 + s.fld (R.TXF.FUN_CFG.MEMBER j))).elems = []) ∧
      (s.fld (R.TXF.FUN_CFG.PATHS j) = 1 → linkUp s 0 = true → twinSilent s = false → Goes (.funnelLaunch j false) s fun t =>
        t.txp = modifyAt s.txp 0 (fun x => { x with wait := x.wait ++ [⟨256 + j, it.ts, 0, it.bytes.drop 16⟩] }) ∧
        (t.gq (951 + s.fld (R.TXF.FUN_CFG.MEMBER j))).elems = [] ∧ Touches [R.GAL.EVT.LOW] s t))

/-- R355, R359 to R362: a host block starts at an aligned index; a receive block commits blocks, writes its slots to the
host ring with their write-back, and takes acknowledgements and the ends of confirming reads. It rests on the model's
choices of logs 19, 73. -/
def Obligations.HostReceiveSteps : Prop :=
  ∀ (s : State) (b : Nat), b < 64 →
    (∀ i n c, (i = b ∨ i = 256 + b) → n = max 1 (hstN s i) → hstState s i = hstArmed →
      c = indexAt s (s.fld (R.HST.B_CFG.MCS i)) ((s.hst i).armedAt + periods 2 (s.mcsFs (s.fld (R.HST.B_CFG.MCS i)))) +
        b2n (decide (instantOf s (s.fld (R.HST.B_CFG.MCS i)) (indexAt s (s.fld (R.HST.B_CFG.MCS i)) ((s.hst i).armedAt +
          periods 2 (s.mcsFs (s.fld (R.HST.B_CFG.MCS i))))) < (s.hst i).armedAt +
          periods 2 (s.mcsFs (s.fld (R.HST.B_CFG.MCS i))))) →
      c + n ≤ mcsCount s (s.fld (R.HST.B_CFG.MCS i)) → Goes (.hostBlockStart i) s fun t =>
        t = { s with rf := t.rf, hsts := t.hsts } ∧ hstState t i = hstRun ∧ c ≤ (t.hst i).k ∧ (t.hst i).k < c + n ∧
        (t.hst i).k % n = 0 ∧ (∀ j, j ≠ i → t.hst j = s.hst j) ∧
        Touches [R.HST.B_STAT.STATE i, R.HST.B_STAT.STATE_EV i] s t) ∧
    (∀ x n, x = s.hst b → n = max 1 (hstN s b) → hstState s b = hstRun →
      x.k + n ≤ mcsCount s (s.fld (R.HST.B_CFG.MCS b)) → QueueTakes s (768 + b) (hstBytesOf s b) →
      (s.gq (768 + b)).elems.all GElem.live = true → Goes (.hrBlockCommit b) s fun t =>
        t.hst b = { x with k := x.k + n, seq := (x.seq + 1) % 65536 } ∧ (∀ j, j ≠ b → t.hst j = s.hst j) ∧
        (∃ cells, t.gq (768 + b) = { s.gq (768 + b) with
          known := true, slugFresh := false, elems := (s.gq (768 + b)).elems ++
            [.item ⟨2, x.seq, x.k, cells, hrDescriptor s b x.k x.seq ++ (hrWords s b x.k).1, true⟩] }) ∧
        Touches [R.GAL.EVT.LOW, R.GAL.INJECT.ARM] s t) ∧
    (∀ it r, (hstState s b = hstRun ∨ hstState s b = hstHeld) → dmaOn s = true → r = (s.gq (768 + b)).rd →
      r < s.fld (R.HST.B_RING.ENTRIES b) → s.reads.length < tagLimit s → (s.gq (768 + b)).depth ≠ 0 →
      (s.gq (768 + b)).elems[r]? = some (.item it) → s.gal.flips = [] → (s.hst b).wrote ≤ r →
      Goes (.hrSlotWrite b) s fun t =>
        t.out = .hostRead (hstWbAddr s b) 4 :: .hostWrite (hstWbAddr s b) (leBytes 4 ((hstHost s b + r + 1) % 65536)) false ::
          .hostWrite (hstSlotAddr s b (hstHost s b + r)) it.bytes false :: s.out ∧
        t.reads = s.reads ++ [⟨b, (hstHost s b + r) % 65536, 4, true⟩] ∧ (t.gq (768 + b)).rd = r + 1 ∧
        (t.gq (768 + b)).elems = (s.gq (768 + b)).elems ∧ hstDev t b = (hstHost s b + r + 1) % 65536 ∧
        hstHost t b = hstHost s b ∧ (t.hst b).wrote = r + 1) ∧
    (∀ r rest, s.reads = r :: rest → r.blk = b → r.live = true → Goes (.confirmReadCompletion b true) s fun t =>
      t.reads = rest ∧ t.hst b = { s.hst b with fails := 0 } ∧ t.gal = s.gal ∧ (∀ j, j ≠ b → t.hst j = s.hst j) ∧
      (s.flag (R.HST.B_CFG.NOTIFY b) = true → t.fld (R.HST.B_STAT.DATA_EV b) = 1) ∧
      Touches [R.HST.B_STAT.DATA_EV b, R.HST.TAGS.INFLIGHT, R.HST.TAGS.PEAK] s t) ∧
    (∀ c r rest off, (c = .confirmReadCompletion b false ∨ c = .cplTimeout b off) → s.reads = r :: rest → r.blk = b →
      r.live = true → hstState s b = hstRun → Goes c s fun t =>
        (t.hst b).fails = (s.hst b).fails + 1 ∧ (t.gq (768 + b)).rd = 0 ∧ (t.gq (768 + b)).elems = (s.gq (768 + b)).elems ∧
        t.fld (R.HST.B_STAT.RETRY_EV b) = 1 ∧ (∀ x ∈ t.reads, x.blk = b → x.live = false) ∧
        t.fld (R.HST.B_RETRY.COUNT b) = min (2 ^ 32 - 1) (s.fld (R.HST.B_RETRY.COUNT b) + 1) ∧
        (s.fld R.HST.CFG.RETRY ≤ (s.hst b).fails + 1 → hstState t b = hstFault ∧ t.fld (R.HST.B_STAT.FAULT_EV b) = 1) ∧
        ((s.hst b).fails + 1 < s.fld R.HST.CFG.RETRY → hstState t b = hstRun)) ∧
    (∀ v adv, v < 65536 → adv = (v + 65536 - hstHost s b) % 65536 → hstState s b ≠ hstOff →
      (adv ≤ (hstDev s b + 65536 - hstHost s b) % 65536 → Goes (.hrAckWrite b v) s fun t => hstHost t b = v ∧
        hstDev t b = hstDev s b ∧ (t.gq (768 + b)).elems = (s.gq (768 + b)).elems.drop adv ∧
        (t.gq (768 + b)).rd = (s.gq (768 + b)).rd - adv ∧ (∀ q, q ≠ 768 + b → t.gq q = s.gq q) ∧
        Touches [R.HST.B_IDX.HOST_IDX b, R.GAL.EVT.LOW] s t) ∧
      ((hstDev s b + 65536 - hstHost s b) % 65536 < adv → Goes (.hrAckWrite b v) s fun t => t = { s with rf := t.rf } ∧
        t.fld (R.HST.B_STAT.BAD_IDX_EV b) = 1 ∧ Touches [R.HST.B_STAT.BAD_IDX_EV b] s t)) ∧
    (∀ v, hstState s b = hstOff → exec (.hrAckWrite b v) s = .next s)

/-- R353, R357, R363 to R365: a transmit block's producer index starts the reads of a slot, completions fill it, a failed
one reads it again, and a complete slot's words become samples of its sources; and the link's states. It rests on the
model's choices of logs 19, 73. -/
def Obligations.HostTransmitAndLinkSteps : Prop :=
  ∀ (s : State) (b : Nat), b < 64 →
    (∀ v, v < 65536 → hstState s (256 + b) ≠ hstOff → s.fld (R.HST.B_RING.ENTRIES (256 + b)) < (v + 65536 - hstDev s (256 + b)) % 65536 →
      Goes (.htProdWrite b v) s fun t => t = { s with rf := t.rf } ∧ t.fld (R.HST.B_STAT.BAD_IDX_EV (256 + b)) = 1 ∧
        Touches [R.HST.B_STAT.BAD_IDX_EV (256 + b)] s t) ∧
    (∀ v, v < 65536 → hstState s (256 + b) = hstRun → (v + 65536 - hstDev s (256 + b)) % 65536 ≤ s.fld (R.HST.B_RING.ENTRIES (256 + b)) →
      v ≠ hstDev s (256 + b) → (s.hst (256 + b)).fetch = none → dmaOn s = true →
      s.reads.length + (slotReads s (256 + b)).length ≤ tagLimit s → Goes (.htProdWrite b v) s fun t =>
        hstHost t (256 + b) = v ∧ (t.hst (256 + b)).fetch = some ⟨[], [], (slotReads s (256 + b)).length⟩ ∧
        t.reads = s.reads ++ (slotReads s (256 + b)).map (fun p => ⟨256 + b, p.1, p.2, true⟩) ∧
        t.out = (slotReads s (256 + b)).reverse.map (fun p =>
          .hostRead (hstSlotAddr s (256 + b) (hstDev s (256 + b)) + p.1) p.2) ++ s.out) ∧
    (∀ r rest f data, s.reads = r :: rest → r.blk = 256 + b → r.live = true → (s.hst (256 + b)).fetch = some f → f.todo = [] →
      2 ≤ f.left → r.off ≠ 0 → (∀ j, j < 64 → hstState s (256 + j) ≠ hstOff → j = b) → data.length = r.len →
      Goes (.htReadCompletion b r.off data true) s fun t => t.reads = rest ∧ t.gal = s.gal ∧
        (t.hst (256 + b)).fetch = some { f with
          buf := overlay (f.buf ++ List.replicate (hstBytesOf s (256 + b) - f.buf.length) 0) r.off data, left := f.left - 1 } ∧
        Touches [R.HST.TAGS.INFLIGHT, R.HST.TAGS.PEAK] s t) ∧
    (∀ r rest f data it k n ch buf, s.reads = r :: rest → r.blk = 256 + b → r.live = true → r.off ≠ 0 →
      (s.hst (256 + b)).fetch = some f → f.todo = [] → f.left = 1 → data.length = r.len →
      buf = overlay (f.buf ++ List.replicate (hstBytesOf s (256 + b) - f.buf.length) 0) r.off data →
      buf.length = hstBytesOf s (256 + b) → buf.length ≤ 262144 → (s.gq (832 + b)).opened = some it → it.bytes = [] →
      it.live = false → (s.gq (832 + b)).swallow = false → it.cells.length = cellsFor buf.length → (s.gq (832 + b)).elems = [] →
      (∀ j, j < 64 → hstState s (256 + j) ≠ hstOff → j = b) → hstHost s (256 + b) = (hstDev s (256 + b) + 1) % 65536 →
      n = max 1 (hstN s (256 + b)) → ch = s.fld (R.HST.B_CFG.CHANNELS (256 + b)) →
      k = nearestClass (u32 buf 8) (mcsCount s (s.fld (R.HST.B_CFG.MCS (256 + b)))) →
      tableNext s (s.fld (R.HST.B_CFG.MCS (256 + b))) < k + n → Goes (.htReadCompletion b r.off data true) s fun t =>
        (t.hst (256 + b)).fetch = none ∧ hstDev t (256 + b) = (hstDev s (256 + b) + 1) % 65536 ∧
        t.out = .hostWrite (hstWbAddr s (256 + b)) (leBytes 4 ((hstDev s (256 + b) + 1) % 65536)) false :: s.out ∧
        ∀ j c, j < n → c < ch → tableNext s (s.fld (R.HST.B_CFG.MCS (256 + b))) ≤ k + j →
          findSort t (0xA00 + s.fld (R.HST.B_CFG.BASE (256 + b)) + c * mcsMult s (s.fld (R.HST.B_CFG.MCS (256 + b)))) (k + j) =
            some (BitVec.ofNat 32 (u32 buf (16 + 4 * (j * ch + c))), s.flag (R.HST.B_CFG.TRANSP (256 + b)))) ∧
    (∀ c r rest f data, (c = .htReadCompletion b r.off data false ∨ c = .cplTimeout (256 + b) r.off) → s.reads = r :: rest →
      r.blk = 256 + b → r.live = true → (s.hst (256 + b)).fetch = some f → hstState s (256 + b) = hstRun →
      s.fld R.HST.CFG.RETRY ≤ (s.hst (256 + b)).fails + 1 → (∀ j, j < 64 → hstState s (256 + j) ≠ hstOff → j = b) →
      Goes c s fun t => hstState t (256 + b) = hstFault ∧ t.fld (R.HST.B_STAT.FAULT_EV (256 + b)) = 1 ∧
        t.fld (R.HST.B_STAT.RETRY_EV (256 + b)) = 1 ∧ (t.hst (256 + b)).fetch = none ∧
        (t.gq (832 + b)).opened = none ∧ hstDev t (256 + b) = hstDev s (256 + b)) ∧
    (∀ st sp w, s.pers ≠ 1 → st < 5 → s.domOn 8 = true → sp < 4 → w < 8 →
      (st ≠ 2 → Goes (.pcieLinkStateChange st sp w) s fun t => t = { s with rf := t.rf, pins := t.pins } ∧
        t.fld R.HST.LINK.STATE = st ∧ t.fld R.HST.LINK.UP = 0 ∧ t.pins.perst = false ∧
        (s.flag R.HST.LINK.UP = true → t.fld R.HST.LINK.LINK_EV = 1)) ∧
      (st = 2 → (∀ j, j < 64 → hstState s (256 + j) = hstOff) → Goes (.pcieLinkStateChange st sp w) s fun t =>
        t = { s with rf := t.rf, pins := t.pins } ∧ t.fld R.HST.LINK.STATE = 2 ∧ t.fld R.HST.LINK.UP = 1 ∧
        t.fld R.HST.LINK.SPEED = sp ∧ t.fld R.HST.LINK.WIDTH = w ∧
        (s.flag R.HST.LINK.UP = false → t.fld R.HST.LINK.LINK_EV = 1) ∧
        (rateLimit t < admitted t false ∨ rateLimit t < admitted t true → t.fld R.HST.LINK.SHORT_EV = 1))) ∧
    (∀ st sp w, s.pers = 1 → exec (.pcieLinkStateChange st sp w) s = .next s)

/-- R367 to R371: polls, one-word reads and writes on the control port by SPI and I2C. It rests on the model's choices of
log 67. -/
def Obligations.ControlPortFrames : Prop :=
  ∀ s : State,
    (∀ mosi late, (s.flag R.SYS.STRAPS.CTL_SEL = true ∨ ctlServes s = false) → mosi ≠ [] →
      Goes (.ctlSpiFrame mosi late) s fun t => t = { s with out := .ctlHighZ :: s.out }) ∧
    (∀ x late, s.flag R.SYS.STRAPS.CTL_SEL = false → ctlServes s = true → Goes (.ctlSpiFrame [x] late) s fun t =>
      t = { s with rf := t.rf, out := .ctlTx [BitVec.ofNat 8 (ctlStatus s)] :: s.out } ∧
        t.fld R.HST.CTL_FRAMES.COUNT = min (2 ^ 32 - 1) (s.fld R.HST.CTL_FRAMES.COUNT + 1) ∧
        Touches [R.HST.CTL_FRAMES.COUNT, R.HST.SAT.CTL] s t) ∧
    (∀ mosi a, s.flag R.SYS.STRAPS.CTL_SEL = false → ctlServes s = true → mosi.length = 9 + ctlDummy s → u8 mosi 0 = 0 →
      be32 mosi 1 = a → a % 4 = 0 → (s.side 1).stalled = none → ((busRead (ctlBegin s) 1 a).side 1).stalled = none →
      Goes (.ctlSpiFrame mosi []) s fun t => t = (ctlEnd (busRead (ctlBegin s) 1 a) ctlClean).emit
        (.ctlTx (BitVec.ofNat 8 (ctlStatus s) :: List.replicate (4 + ctlDummy s) 0 ++
          beBytes 4 ((busRead (ctlBegin s) 1 a).side 1).data.toNat))) ∧
    (∀ mosi a late u, s.flag R.SYS.STRAPS.CTL_SEL = false → ctlServes s = true → mosi.length = 9 → u8 mosi 0 = 0x40 →
      be32 mosi 1 = a → a % 4 = 0 → (s.side 1).stalled = none →
      u = follow (ctlBegin s) (busWrite (ctlBegin s) 1 a (BitVec.ofNat 32 (fromBE (mosi.drop 5)))).1 →
      (u.side 1).stalled = none → (ctlEnd u ctlClean).pstate ≠ 1 → Goes (.ctlSpiFrame mosi late) s fun t =>
        t = (ctlEnd u ctlClean).emit (.ctlTx (BitVec.ofNat 8 (ctlStatus s) :: List.replicate 8 0))) ∧
    (∀ mosi late, s.flag R.SYS.STRAPS.CTL_SEL = false → ctlServes s = true → 2 ≤ mosi.length → mosi.length < 5 →
      Goes (.ctlSpiFrame mosi late) s fun t => t.fld R.HST.CTL_STAT.FRAME_ERR_EV = 1 ∧
        t.fld R.HST.CTL_ERRS.COUNT = min (2 ^ 32 - 1) (s.fld R.HST.CTL_ERRS.COUNT + 1) ∧
        Touches [R.HST.CTL_STAT.STATUS, R.HST.CTL_STAT.FRAME_ERR_EV, R.HST.CTL_FRAMES.COUNT, R.HST.CTL_ERRS.COUNT,
          R.HST.SAT.CTL] s t) ∧
    (∀ g sent rd, (s.flag R.SYS.STRAPS.CTL_SEL = false ∨ ctlServes s = false ∨ g ≠ 0x50 + s.fld R.SYS.STRAPS.STACK_POS) →
      exec (.ctlI2cFrame g sent rd) s = .next s) ∧
    (∀ n, s.flag R.SYS.STRAPS.CTL_SEL = true → ctlServes s = true →
      Goes (.ctlI2cFrame (0x50 + s.fld R.SYS.STRAPS.STACK_POS) [] (some (n + 1))) s fun t =>
        t = { s with rf := t.rf, out := .ctlTx (BitVec.ofNat 8 (ctlStatus s) :: List.replicate n 0) :: s.out } ∧
        t.fld R.HST.CTL_FRAMES.COUNT = min (2 ^ 32 - 1) (s.fld R.HST.CTL_FRAMES.COUNT + 1)) ∧
    (∀ sent a, s.flag R.SYS.STRAPS.CTL_SEL = true → ctlServes s = true → sent.length = 5 → u8 sent 0 = 0 →
      be32 sent 1 = a → a % 4 = 0 → (s.side 1).stalled = none → ((busRead (ctlBegin s) 1 a).side 1).stalled = none →
      Goes (.ctlI2cFrame (0x50 + s.fld R.SYS.STRAPS.STACK_POS) sent (some 5)) s fun t =>
        t = (ctlEnd (busRead (ctlBegin s) 1 a) ctlClean).emit (.ctlTx (BitVec.ofNat 8 (ctlStatus s) ::
          beBytes 4 ((busRead (ctlBegin s) 1 a).side 1).data.toNat))) ∧
    (∀ sent a u, s.flag R.SYS.STRAPS.CTL_SEL = true → ctlServes s = true → sent.length = 9 → u8 sent 0 = 0x40 →
      be32 sent 1 = a → a % 4 = 0 → (s.side 1).stalled = none →
      u = follow (ctlBegin s) (busWrite (ctlBegin s) 1 a (BitVec.ofNat 32 (fromBE (sent.drop 5)))).1 →
      (u.side 1).stalled = none → (ctlEnd u ctlClean).pstate ≠ 1 →
      Goes (.ctlI2cFrame (0x50 + s.fld R.SYS.STRAPS.STACK_POS) sent none) s fun t => t = (ctlEnd u ctlClean).emit (.ctlTx []))

/-- R379 to R382, R385, R388, R389, R441: a link trains or is refused and goes down, the master sends its time, and a
device's state follows its master. It rests on the model's choices of logs 21, 22, 114, 115. -/
def Obligations.StackLinkAndMemberSteps : Prop :=
  ∀ (s : State) (l : Nat), l < 2 → s.stk.links.length = 2 →
    (∀ pos ser ma mi ro ge, s.flag R.STK.CFG.EN = true → s.domOn 7 = true → pos < 8 →
      (∃ u, exec (.stkLinkTrained l l pos ser ma mi ro ge false false false) s = .next (follow s u) ∧
        u.fld (R.STK.LINK.STATE l) = 4 ∧ u.fld (R.STK.LINK.UP l) = 0 ∧ u.fld (R.STK.LINK.PEER_PORT l) = l ∧
        u.fld (R.STK.LINK.PEER_POS l) = pos ∧
        (grdOn s 3 = true → u.fld (if l = 0 then R.GRD.LANE_STAT.MISWIRE_U else R.GRD.LANE_STAT.MISWIRE_D) = 1)) ∧
      ∃ u, exec (.stkLinkTrained l (1 - l) pos ser ma mi ro ge false false false) s = .next (follow s u) ∧
        u.fld (R.STK.LINK.STATE l) = 3 ∧ u.fld (R.STK.LINK.UP l) = 1 ∧ u.fld (R.STK.LINK.LINK_EV l) = 1 ∧
        u.fld (R.STK.LINK.PEER_PORT l) = 1 - l ∧ u.fld (R.STK.LINK.PEER_POS l) = pos ∧
        (u.slink l).serial = ser ∧ (u.slink l).role = ro ∧ (u.slink l).gen = ge ∧
        ∃ d ∈ u.stk.devs, d.pos = pos ∧ d.serial = ser ∧ d.link = l) ∧
    (s.flag R.STK.CFG.EN = false → ∀ port pos ser ma mi ro ge a b c,
      exec (.stkLinkTrained l port pos ser ma mi ro ge a b c) s = .next s) ∧
    (stkUp s l = true → stkUp s (1 - l) = false → s.fld R.TWIN.STAT.STATE = 0 →
      ∃ u, exec (.stkLinkDown l) s = .next (follow s u) ∧ u.fld (R.STK.LINK.STATE l) = 0 ∧ u.fld (R.STK.LINK.UP l) = 0 ∧
        u.fld (R.STK.LINK.LINK_EV l) = 1 ∧ (∀ d ∈ u.stk.devs, d.link ≠ l) ∧ (u.slink l).serial = 0 ∧
        (s.fld R.STK.ID.STATE = 3 → u.fld R.STK.ID.STATE = 0 ∧ u.fld R.STK.STAT.STATE_EV = 1) ∧
        (s.fld R.STK.ID.STATE = 5 → u.fld R.STK.ID.STATE = 5)) ∧
    (s.fld R.STK.ID.STATE = 5 → stkUp s 0 = true → stkUp s 1 = true → Goes .stkTimeFrameTx s fun t =>
      t = { s with stk := { s.stk with links := t.stk.links, steps := [] }, out := t.out } ∧
        t.out = .stkTime 1 ((List.range 4).map fun n => (s.pti n).time) s.stk.steps (liveGen s) ::
          .stkTime 0 ((List.range 4).map fun n => (s.pti n).time) s.stk.steps (liveGen s) :: s.out) ∧
    (s.fld R.STK.ID.STATE ≠ 5 → exec .stkTimeFrameTx s = .next s) ∧
    (s.fld R.STK.ID.STATE = 4 → 800 * s.fld R.STK.TCFG.REGAIN ≤ s.stk.calm → Goes .stkTimeRegain s fun t =>
      t.fld R.STK.ID.STATE = 3 ∧ t.fld R.STK.STAT.TIME_DISAGREE = 0 ∧ t.fld R.STK.STAT.TIME_EV = 1 ∧
        t.fld R.STK.STAT.STATE_EV = 1 ∧ t.stk.calm = 0) ∧
    (s.fld R.STK.ID.STATE = 4 → s.stk.calm < 800 * s.fld R.STK.TCFG.REGAIN → exec .stkTimeRegain s = .next s) ∧
    (s.fld R.STK.ID.STATE = 1 → Goes .stkIdentifyTimeout s fun t => t.fld R.STK.ID.STATE = 6 ∧ t.fld R.STK.STAT.STATE_EV = 1) ∧
    (s.fld R.STK.ID.STATE ≠ 1 → exec .stkIdentifyTimeout s = .next s) ∧
    (stkMember s = true → ∃ u, exec .stkMasterLoss s = .next (follow s u) ∧ u.fld R.STK.ID.STATE = 6 ∧
      ∀ n, n < 4 → s.flag (R.TIME.PTI_CFG.EN n) = true → u.fld (R.TIME.PTI_STAT.LOCKED n) = 0) ∧
    (stkMember s = false → exec .stkMasterLoss s = .next s) ∧
    (∀ stored crc diff rec, stkMember s = false ∨ liveGen s = s.stk.mgen → exec (.stkGenPull stored crc diff rec) s = .next s) ∧
    (∀ stored crc diff, stkMember s = true → liveGen s ≠ s.stk.mgen → s.fw.apply = none →
      Goes (.stkGenPull stored crc diff false) s fun t => liveGen t = s.stk.mgen % 2 ^ 32 ∧ t.fw.apply = none) ∧
    (∀ stored diff b f k, stkMember s = true → liveGen s ≠ s.stk.mgen → s.fw.apply = none → b = s.flash.formes.getD stored [] →
      formeVerdict s b = 0 → parseForme b = some f → freePlaten s = some k →
      Goes (.stkGenPull stored (u32 b 16) diff true) s fun t => ∃ a, t.fw.apply = some a ∧
        a.target = (readAll diff.length diff f).getD f ∧ a.takeGen = some s.stk.mgen ∧ a.platen = k ∧ a.epoch = 0 ∧
        liveGen t = liveGen s) ∧
    (∀ stored crc diff b, stkMember s = true → liveGen s ≠ s.stk.mgen → s.fw.apply = none → b = s.flash.formes.getD stored [] →
      formeVerdict s b ≠ 0 ∨ u32 b 16 ≠ crc → Goes (.stkGenPull stored crc diff true) s fun t => t.fld R.STK.ID.STATE = 2 ∧
        t.fw.apply = none ∧ liveGen t = liveGen s)

/-- R377, R378, R380, R392 to R394: a stack-out block sends its item, a stack-in block plays it, frames for other
positions go on, and failed frames are counted. It rests on the model's choices of logs 19, 21, 68, 101. -/
def Obligations.StackFrameSteps : Prop :=
  ∀ (s : State) (b : Nat), b < 22 →
    (∀ x n, x = s.sblk b → n = max 1 (stkN s b) → blkState s b = 2 → x.k + n ≤ mcsCount s (s.fld (R.STK.B_CFG.MCS b)) →
      (stkMuted s = true → Goes (.soItemSend b) s fun t => t = { s with stk := t.stk } ∧
        t.sblk b = { x with k := x.k + n, seq := (x.seq + 1) % 65536 }) ∧
      (∀ part bytes, stkMuted s = false → QueueTakes s (896 + b) (16 + stkWords s b) → stkWords s b ≤ 8192 →
        bytes = elemHeader 2 (16 + stkWords s b) ++ leBytes 2 x.seq ++ [0, byteOf b] ++ leBytes 4 x.k ++
          leBytes 4 (blockTime s (s.fld (R.STK.B_CFG.MCS b)) (s.mcsPti (s.fld (R.STK.B_CFG.MCS b))) x.k) ++ (soWords s b x.k).1 →
        (∀ q, 896 ≤ q → q < 921 → (s.gq q).elems = []) → s.gal.flips = [] → s.flag R.GAL.INJECT.ARM = false →
        stkNeeds s (s.fld (R.STK.B_ROUTE.DEST b)) = [(1, part)] →
        (s.slink 1).credit.getD 0 0 ≥ cellsFor (16 + stkWords s b) → stkUp s 1 = true → Goes (.soItemSend b) s fun t =>
          t.out = .synzo 1 ⟨1, part, stkPos s + 8 * b, 2, (s.slink 1).seq.getD 1 0, bytes⟩ :: s.out ∧
          t.sblk b = { x with k := x.k + n, seq := (x.seq + 1) % 65536 } ∧ (t.gq (896 + b)).elems = [])) ∧
    (∀ l cls dest src flags seq item good msg, 2 ≤ l ∨ stkUp s l = false →
      exec (.synzoFrameRx l cls dest src flags seq item good msg) s = .next s) ∧
    (∀ l cls dest src flags seq item msg, l < 2 → stkUp s l = true → s.domOn 7 = true → cls < 3 →
      Goes (.synzoFrameRx l cls dest src flags seq item false msg) s fun t => t = { s with rf := t.rf } ∧
        t.fld R.STK.STAT.ERR_EV = 1 ∧
        t.fld (R.STK.CRC_ERR.COUNT l) = min (2 ^ 32 - 1) (s.fld (R.STK.CRC_ERR.COUNT l) + 1)) ∧
    (∀ l dest src flags seq item, l < 2 → stkUp s l = true → stkUp s (1 - l) = true → s.domOn 7 = true →
      nbit dest (stkPos s) = false → dest ≠ 0 → Goes (.synzoFrameRx l 2 dest src flags seq item true .none) s fun t =>
        t = { s with
          stk := { s.stk with links := t.stk.links }
          out := .synzo (1 - l) ⟨2, dest, src, flags, (s.slink (1 - l)).seq.getD 2 0, item⟩ :: s.out }) ∧
    (∀ l cls dest src flags seq item msg e, l < 2 → stkUp s l = true → s.domOn 7 = true → 3 ≤ cls → cls < 5 →
      e = (s.slink l).rseq.getD cls 0 → seq ≠ e → Goes (.synzoFrameRx l cls dest src flags seq item true msg) s fun t =>
        t = { s with stk := { s.stk with links := t.stk.links }, out := t.out } ∧
        t.out = (if (seq + 65536 - e) % 65536 < 32768 ∧ (s.slink l).asked.contains cls = false then [.stkTell l (.lost cls e)]
          else []) ++ s.out) ∧
    (∀ l i src seq item n k off, l < 2 → i = 256 + b → stkUp s l = true → s.domOn 7 = true → blkState s i = 2 →
      (∀ j, j < 22 → j ≠ b → blkState s (256 + j) = 0) → s.fld (R.STK.B_ROUTE.SRC_POS i) = src % 8 →
      s.fld (R.STK.B_ROUTE.SRC_BLOCK i) = src / 8 → u32 item 0 / 2 ^ 28 = 2 → u32 item 0 % 2 ^ 24 = 16 + stkWords s i →
      item.length = 16 + stkWords s i → n = max 1 (stkN s i) → off = s.fld (R.STK.B_OFFSET.SAMPLES i) →
      k = nearestClass (u32 item 8) (mcsCount s (s.fld (R.STK.B_CFG.MCS i)) - off) → k % n = 0 →
      s.fld (R.CLK.MCS_CFG.REF_TYPE (s.fld (R.STK.B_CFG.MCS i))) = 1 → (s.gq (928 + b)).elems = [] →
      QueueTakes s (928 + b) item.length → tableNext s (s.fld (R.STK.B_CFG.MCS i)) < k + off + n → stkMuted s = false →
      ∃ u, exec (.synzoFrameRx l 1 (2 ^ stkPos s) src 2 seq item true (.audio true)) s = .next (follow s u) ∧
        ∀ j c, j < n → c < s.fld (R.STK.B_CFG.CHANNELS i) → tableNext s (s.fld (R.STK.B_CFG.MCS i)) ≤ k + off + j →
          findSort u (0x1200 + s.fld (R.STK.B_CFG.BASE i) + c * mcsMult s (s.fld (R.STK.B_CFG.MCS i))) (k + off + j) =
            some (BitVec.ofNat 32 (u32 item (16 + 4 * (j * s.fld (R.STK.B_CFG.CHANNELS i) + c))), s.flag (R.STK.B_CFG.TRANSP i)))

/-- R402, R405 to R408: heartbeats and their loss, and the decisions by which a standby takes over and an active device
yields. It rests on the model's choices of logs 28, 31. -/
def Obligations.TwinDecisionSteps : Prop :=
  ∀ s : State,
    (s.fld R.TWIN.STAT.STATE ≠ 0 → twinLinkUp s = true → Goes .twinHeartbeatTx s fun t =>
      t = { s with stk := { s.stk with links := t.stk.links }, out := .heartbeat (s.fld R.TWIN.CFG.ROLE) (s.fld R.TWIN.STAT.STATE) (liveGen s) s.twin.seq :: s.out }) ∧
    (s.fld R.TWIN.STAT.STATE = 0 ∨ twinLinkUp s = false → exec .twinHeartbeatTx s = .next s) ∧
    (s.fld R.TWIN.STAT.STATE = 0 → exec .twinHeartbeatMiss s = .next s) ∧
    (s.fld R.TWIN.STAT.STATE ≠ 0 → s.twin.miss + 1 < s.fld R.TWIN.CFG.HB_MISS → Goes .twinHeartbeatMiss s fun t =>
      t = { s with twin := { s.twin with miss := s.twin.miss + 1 } }) ∧
    (s.fld R.TWIN.STAT.STATE ≠ 0 → s.fld R.TWIN.CFG.HB_MISS ≤ s.twin.miss + 1 → s.flag R.TWIN.STAT.PARTNER_OK = true →
      s.flag R.TWIN.CFG.AUTO = false → Goes .twinHeartbeatMiss s fun t => t.fld R.TWIN.STAT.PARTNER_OK = 0 ∧
        t.fld R.TWIN.STAT.HB_LOST_EV = 1 ∧ t.fld R.TWIN.STAT.STATE = s.fld R.TWIN.STAT.STATE ∧ t.twin.miss = s.twin.miss + 1) ∧
    (∀ c cause, (c = .twinHeartbeatMiss ∧ cause = 1 ∧ s.flag R.TWIN.CFG.AUTO = true ∧ s.fld R.TWIN.CFG.HB_MISS ≤ s.twin.miss + 1) ∨
        (∃ ns, c = .twinFailPin ns ∧ cause = 2 ∧ 50 ≤ ns ∧ s.flag R.TWIN.CFG.PIN_EN = true) → canDecide s = true →
      (s.fld R.TWIN.HEALTH.SCORE < s.fld R.TWIN.CFG.MIN_SCORE → Goes c s fun t => t.fld R.TWIN.STAT.INHIBIT_EV = 1 ∧
        t.fld R.TWIN.STAT.STATE = 3 ∧ t.pins = s.pins ∧ t.out = s.out) ∧
      (s.fld R.TWIN.CFG.MIN_SCORE ≤ s.fld R.TWIN.HEALTH.SCORE → Goes c s fun t =>
        t.fld R.TWIN.STAT.STATE = 4 ∧ t.fld R.TWIN.STAT.CAUSE = cause ∧ t.fld R.TWIN.TAKEOVER_GEN.GEN = liveGen s ∧
        t.fld R.TWIN.STAT.TAKE_EV = 1 ∧ t.twin.launchAt = s.ticks + 1000 ∧ t.pins.twinTakeLow = true ∧
        t.out = .takePulse :: s.out)) ∧
    (∀ c, (c = .twinCmdTake ∧ s.flag R.TWIN.CMD.TAKE = true) ∨ (c = .twinHandoverCycle ∧ ∃ t0, s.twin.handAt = some t0 ∧ t0 ≤ s.ticks) →
      canDecide s = true → Goes c s fun t => t.fld R.TWIN.STAT.STATE = 4 ∧
        t.fld R.TWIN.STAT.CAUSE = 3 ∧ t.fld R.TWIN.TAKEOVER_GEN.GEN = liveGen s ∧ t.fld R.TWIN.CMD.TAKE = 0 ∧
        t.twin.launchAt = s.ticks + 1000 ∧ t.twin.handAt = none ∧ t.pins.twinTakeLow = true ∧ t.out = .takePulse :: s.out) ∧
    (∀ ns, ns < 50 ∨ s.flag R.TWIN.CFG.PIN_EN = false → exec (.twinFailPin ns) s = .next s) ∧
    (s.flag R.TWIN.CMD.TAKE = false ∨ canDecide s = false → exec .twinCmdTake s = .next s) ∧
    (∀ c, (c = .twinTakePulseSeen ∧ s.pins.twinTakeLow = false) ∨ (c = .twinHandoverCycle ∧ ∃ t0, s.twin.handAt = some t0 ∧ t0 ≤ s.ticks) →
      s.fld R.TWIN.STAT.STATE = 2 → s.fw.apply = none → Goes c s fun t => t.fld R.TWIN.STAT.STATE = 5 ∧
        t.fld R.TWIN.STAT.TAKE_EV = 1 ∧ t.fld R.TWIN.CMD.HANDOVER = 0 ∧ t.twin.handAt = none ∧ (∀ p ∈ t.txp, p.wait = []) ∧
        t.out = s.out) ∧
    (s.fld R.TWIN.STAT.STATE ≠ 2 → exec .twinTakePulseSeen s = .next s) ∧
    (s.twin.handAt = none ∨ (∃ t0, s.twin.handAt = some t0 ∧ s.ticks < t0) → exec .twinHandoverCycle s = .next s) ∧
    (s.flag R.TWIN.CMD.HANDOVER = true → s.fld R.TWIN.STAT.STATE = 2 → s.twin.handAt = none → Goes .twinCmdHandover s fun t =>
      t.twin.handAt = some (s.ticks + 500000) ∧ t.twin.seq = (s.twin.seq + 1) % 2 ^ 32 ∧ t.fld R.TWIN.STAT.STATE = 2) ∧
    (s.flag R.TWIN.CMD.HANDOVER = false → exec .twinCmdHandover s = .next s)

/-- R402 to R404, R406, R410, R411: the end of TAKING and of pairing, checkpoints sent and committed, and the health of a
period. It rests on the model's choices of logs 21, 27, 30, 32. -/
def Obligations.TwinCheckpointAndHealthSteps : Prop :=
  ∀ s : State,
    (s.fld R.TWIN.STAT.STATE = 4 → s.twin.launchAt ≤ s.ticks + 960 → Goes .twinTakingEnd s fun t =>
      t.fld R.TWIN.STAT.STATE = 2 ∧ t.fld R.TWIN.CFG.ROLE = 1 ∧ t.fldSh R.TWIN.CFG.ROLE = 1 ∧ t.fld R.TWIN.STAT.STATE_EV = 1 ∧
        ((stkMember s = true ∨ s.fld R.STK.ID.STATE = 6) → partnerIsMaster s = true → t.fld R.STK.ID.STATE = 5)) ∧
    (s.fld R.TWIN.STAT.STATE = 4 → s.ticks + 960 < s.twin.launchAt → exec .twinTakingEnd s = .next s) ∧
    (s.fld R.TWIN.STAT.STATE = 1 → s.fld R.TWIN.CFG.ROLE = 1 →
      (s.flag R.TWIN.STAT.PARTNER_OK = false → Goes .twinPairingTimeout s fun t => t.fld R.TWIN.STAT.STATE = 2 ∧
        t.fld R.TWIN.CFG.ROLE = 1 ∧ t.fld R.TWIN.STAT.STATE_EV = 1) ∧
      (s.flag R.TWIN.STAT.PARTNER_OK = true → exec .twinPairingTimeout s = .next s)) ∧
    (s.fld R.TWIN.STAT.STATE = 0 → exec .twinCheckpointDynamicTx s = .next s) ∧
    (s.fld R.TWIN.STAT.STATE = 3 → Goes .twinCheckpointDynamicTx s fun t => t = { s with twin := t.twin } ∧ t.twin.hashes = [] ∧
      t.twin.seq = s.twin.seq ∧ ∀ f h, s.twin.hashes = [(f, h)] → ownHash t f = h ^^^ 0xFFFFFFFF) ∧
    (s.fld R.TWIN.STAT.STATE = 2 → Goes .twinCheckpointDynamicTx s fun t => t.twin.hashes = [] ∧
      t.twin.seq = (s.twin.seq + 1) % 2 ^ 32 ∧ t.fld R.TWIN.STAT.STATE = 2) ∧
    ((s.gq 951).depth = 0 → exec .twinCheckpointCommit s = .next s) ∧
    (∀ it b g fl os, (s.gq 951).elems = [.item it] → (s.gq 951).rd = 0 → it.live = true → s.gal.flips = [] →
      s.fld R.TWIN.CFG.ROLE = 2 → s.fld R.TWIN.STAT.STATE = 3 → b = (it.bytes.drop 16).take (it.bytes.length - 20) →
      u32 b 0 ≠ 0x454D524F → parseDyn b = (g, fl, os) →
      (g = s.fld R.TWIN.CFG_GEN.GEN → s.twin.cfgHeld = none → Goes .twinCheckpointCommit s fun t => t.twin.base = fl ∧
        t.twin.dynOk = true ∧ t.twin.dynAt = s.ticks ∧ t.twin.held = none ∧ (t.gq 951).elems = [] ∧
        t.fld R.TWIN.STAT.STATE = 3) ∧
      (g ≠ s.fld R.TWIN.CFG_GEN.GEN → Goes .twinCheckpointCommit s fun t => t.twin.held = some (g, fl, os) ∧
        t.twin.base = s.twin.base ∧ t.txs = s.txs ∧ t.rxf = s.rxf ∧ (t.gq 951).elems = [])) ∧
    (s.fld R.TWIN.STAT.STATE ≠ 0 → s.fld R.TWIN.HCFG.PERIOD_MS ≠ 0 → Goes (.twinHealthPeriodEnd 0 0) s fun t =>
      t.fld R.TWIN.HEALTH.SCORE = healthScore s ∧ t.twin.period = List.replicate 4 false ∧
        (healthScore s < s.fld R.TWIN.CFG.MIN_SCORE → t.fld R.TWIN.STAT.HEALTH_EV = 1)) ∧
    (∀ march, s.fld R.TWIN.STAT.STATE = 3 → s.fld R.TWIN.HCFG.PERIOD_MS ≠ 0 → nbit (s.fld R.TWIN.CFG.PROOF) 2 = true → march ≠ 0 →
      Goes (.twinHealthPeriodEnd march 0) s fun t => t.fld R.TWIN.MARCH_FAIL.COUNT =
        min (2 ^ 32 - 1) (s.fld R.TWIN.MARCH_FAIL.COUNT + march) ∧ t.twin.period = List.replicate 4 false) ∧
    (∀ a b, s.fld R.TWIN.STAT.STATE = 0 ∨ s.fld R.TWIN.HCFG.PERIOD_MS = 0 → exec (.twinHealthPeriodEnd a b) s = .next s)

/-- R235 to R239, R241, R243 to R246: a TDM direction is armed, started, stopped and loses its clock; a frame delivers or
sends its slots; a frame that is not valid is counted. It rests on the model's choices of logs 15, 54, 76, 77. -/
def Obligations.TdmDirectionSteps : Prop :=
  ∀ (s : State) (p : Nat) (rx : Bool), p < 16 → s.tdms.length = 32 →
    (armOk s p rx = true → Goes (.tdmArmWrite p rx true) s fun t => s.tdmState p rx = tdmReady ∧ t.tdmState p rx = tdmArmed ∧
      t.fld (td (R.TDM.TX_CMD.ARM p) rx) = 1 ∧ ⟨b2n rx, p, s.tdmMcs p rx⟩ ∈ t.user ∧ t.tdms = s.tdms ∧ t.imp = s.imp) ∧
    (armOk s p rx = false → s.tdmState p rx ≤ tdmReady → Goes (.tdmArmWrite p rx true) s fun t => t = { s with rf := t.rf } ∧
      t.fld (td (R.TDM.TX_STAT.CMD_BAD p) rx) = 1 ∧ Touches [td (R.TDM.TX_STAT.CMD_BAD p) rx] s t) ∧
    (s.tdmState p rx = tdmArmed → (s.tdm p rx).start = none → ∀ c, (c = .tdmArmWrite p rx false ∨ c = .tdmStopWrite p rx) →
      Goes c s fun t => t.tdmState p rx = tdmReady ∧ t.fld (td (R.TDM.TX_CMD.ARM p) rx) = 0 ∧
        ∀ u ∈ t.user, ¬(u.kind = b2n rx ∧ u.item = p)) ∧
    (s.tdmState p rx = tdmRunning ∨ s.tdmState p rx = tdmLeadIn → Goes (.tdmStopWrite p rx) s fun t => t = { s with rf := t.rf } ∧
      t.fld (td (R.TDM.TX_CMD.STOP p) rx) = 1 ∧ Touches [td (R.TDM.TX_CMD.STOP p) rx] s t) ∧
    (∀ a d, (s.tdm p rx).start = some (a, d) → s.tdmState p rx = tdmArmed →
      (a ≤ mcsCount s (s.tdmMcs p rx) → Goes (.tdmStartInstant p rx) s fun t =>
        t.tdmState p rx = (if a = d then tdmRunning else tdmLeadIn) ∧ t.tdms = s.tdms ∧
          t.fld (td (R.TDM.TX_STAT.STATE_EV p) rx) = 1) ∧
      (mcsCount s (s.tdmMcs p rx) < a → exec (.tdmStartInstant p rx) s = .next s)) ∧
    (s.tdmState p rx = tdmRunning ∨ s.tdmState p rx = tdmLeadIn → s.flag (td (R.TDM.TX_FMT.MASTER p) rx) = false ∨
      s.flag R.CLK.PLL_STAT.REF_LOCK = false ∨ s.flag R.CLK.PLL_STAT.SYS_LOCK = false → Goes (.tdmClockLost p rx) s fun t =>
      t.tdmState p rx = tdmClockLost ∧ t.fld (td (R.TDM.TX_STAT.CLK_LOST_EV p) rx) = 1 ∧ (t.tdm p rx).good = 0) ∧
    (s.flag (td (R.TDM.TX_FMT.MASTER p) rx) = true → s.flag R.CLK.PLL_STAT.REF_LOCK = true →
      s.flag R.CLK.PLL_STAT.SYS_LOCK = true → exec (.tdmClockLost p rx) s = .next s) ∧
    (s.tdmState p rx = tdmLeadOut →
      (s.fld (td (R.TDM.TX_LEAD.LEAD_OUT p) rx) ≤ (s.tdm p rx).outs → Goes (.tdmLeadOutEnd p rx) s fun t =>
        t.tdmState p rx = tdmReady ∧ (t.tdm p rx).start = none ∧ t.fld (td (R.TDM.TX_CMD.STOP p) rx) = 0 ∧
          ∀ u ∈ t.user, ¬(u.kind = b2n rx ∧ u.item = p)) ∧
      ((s.tdm p rx).outs < s.fld (td (R.TDM.TX_LEAD.LEAD_OUT p) rx) → exec (.tdmLeadOutEnd p rx) s = .next s)) ∧
    (∀ len high line d k, d = s.tdm p true → k = mcsCount s (s.tdmMcs p true) → s.tdmState p true = tdmRunning →
      s.flag (R.TDM.RX_FMT.MASTER p) = true → masterEdge s p true = true →
      s.flag (R.TDM.RX_CMD.STOP p) = false → d.ref = none →
      Goes (.tdmFrame p true false len high line []) s fun t => (t.tdm p true).idx = k ∧ (t.tdm p true).muted = [] ∧
        t.rf = s.rf ∧ t.out = .tdmClocks p true k (syncLine s p true) :: s.out ∧
        ∀ c sl, c < 32 → dirSlot s p true c = some sl →
          (d.muted.contains c = true → findSort t (0x800 + 32 * p + c) k = some (0, false)) ∧
          (d.muted.contains c = false → (d.chans.getD c concReset).scale = 64 →
            findSort t (0x800 + 32 * p + c) k = some (ofSlot s p sl line, false))) ∧
    (∀ len high d k off own, d = s.tdm p false → k = mcsCount s (s.tdmMcs p false) → s.tdmState p false = tdmRunning →
      s.flag (R.TDM.TX_FMT.MASTER p) = true → masterEdge s p false = true → s.flag (R.TDM.TX_CMD.STOP p) = false →
      off = s.fld (R.TDM.TX_FRAME.OFFSET p) → own = (txPlan s p k true).frame s p →
      d.tail.length = off → s.flag (R.TDM.TX_STAT.OE_HELD p) = false →
      Goes (.tdmFrame p false false len high [] []) s fun t => (t.tdm p false).idx = k ∧
        (t.tdm p false).takenIdx = k + 1 ∧ (t.tdm p false).muted = [] ∧
        (t.tdm p false).tail = own.drop (own.length - off) ∧ t.sorts = s.sorts ∧ t.impo = s.impo ∧
        t.out = .tdmTx p k (s.flag (R.TDM.TX_FMT.EDGE_FALL p)) (halves (d.tail ++ own.take (own.length - off))) ::
          .tdmClocks p false k (syncLine s p false) :: s.out) ∧
    (∀ rx len high line, s.tdmState p rx = tdmRunning → s.flag (td (R.TDM.TX_FMT.MASTER p) rx) = true → masterEdge s p rx = false →
      Goes (.tdmFrame p rx false len high line []) s fun t => t = { s with grd := t.grd }) ∧
    (∀ len high line d, d = s.tdm p true → s.tdmState p true = tdmRunning → s.flag (R.TDM.RX_FMT.MASTER p) = false →
      len ≠ frameLen s p true → Goes (.tdmFrame p true false len high line []) s fun t =>
        t.fld (R.TDM.RX_STAT.FRAME_ERR_EV p) = 1 ∧ (t.tdm p true).idx = d.idx + 1 ∧
        (s.flag (R.TDM.RX_CMD.STOP p) = false → t.tdmState p true = tdmRunning) ∧
        (s.flag (R.TDM.RX_CMD.STOP p) = true → s.fld (R.TDM.RX_LEAD.LEAD_OUT p) ≠ 0 → t.tdmState p true = tdmLeadOut) ∧
        t.fld (R.TDM.RX_SLIP.COUNT p) = min (2 ^ 32 - 1) (s.fld (R.TDM.RX_SLIP.COUNT p) + 1))

/-- R433 to R438: readback faults and trips of TDM pins, re-probes, the open test and the clock swap. It rests on the
model's choices of logs 33, 76. -/
def Obligations.GuardTdmSteps : Prop :=
  ∀ (s : State) (n pin : Nat), n < 16 → pin < 6 →
    (∀ kind, kind < 3 → grdOn s 0 = true → pinCompared s n pin = true → Goes (.grdReadbackFault n pin kind) s fun t =>
      t = { s with rf := t.rf, latched := t.latched, grd := t.grd } ∧ 6 * n + pin ∈ t.grd.faulted ∧
        nbit (t.fld (if kind = 2 then R.GRD.TDM_STAT.CONTEND n else R.GRD.TDM_STAT.SHORT n)) pin = true ∧
        t.fld (R.GRD.TDM_CNT.COUNT n) = min (2 ^ 32 - 1) (s.fld (R.GRD.TDM_CNT.COUNT n) + 1) ∧
        (R.GRD.LAST.reg ∉ s.latched → t.fld R.GRD.LAST.CLASS = 0 ∧ t.fld R.GRD.LAST.INDEX = n ∧ t.fld R.GRD.LAST.PIN = pin ∧
          t.fld R.GRD.LAST.KIND = kind + 1) ∧
        (R.GRD.LAST.reg ∈ s.latched → t.rd R.GRD.LAST.reg = s.rd R.GRD.LAST.reg)) ∧
    (∀ kind, grdOn s 0 = false ∨ pinCompared s n pin = false → exec (.grdReadbackFault n pin kind) s = .next s) ∧
    (s.fld R.GRD.CTL.TRIP_FRAMES ≤ sGet (fun _ => 0) s.grd.runs (6 * n + pin) → grdOn s 0 = true → pinCompared s n pin = true →
      Goes (.grdPinTrip n pin) s fun t => tripped t n pin = true ∧ (pin = 2 → t.fld (R.TDM.TX_STAT.OE_HELD n) = 1) ∧
        sGet (fun _ => 0) t.grd.runs (6 * n + pin) = 0 ∧ (∀ q, q < 6 → q ≠ pin → tripped t n q = tripped s n q)) ∧
    (sGet (fun _ => 0) s.grd.runs (6 * n + pin) < s.fld R.GRD.CTL.TRIP_FRAMES → exec (.grdPinTrip n pin) s = .next s) ∧
    (s.flag R.GRD.PROBE.REPROBE_MS = true → tripped s n pin = true → grdOn s 0 = true →
      (s.tdmState n (pinRx pin) ≠ tdmClockLost → Goes (.grdReprobeTimer 0 n pin true) s fun t => tripped t n pin = false ∧
        (∀ q, q < 6 → q ≠ pin → tripped t n q = tripped s n q) ∧
        t.fld R.GRD.REPROBE_FAIL.COUNT = s.fld R.GRD.REPROBE_FAIL.COUNT) ∧
      (Goes (.grdReprobeTimer 0 n pin false) s fun t => t = { s with rf := t.rf, grd := t.grd } ∧ tripped t n pin = true ∧
        t.fld R.GRD.REPROBE_FAIL.COUNT = min (2 ^ 32 - 1) (s.fld R.GRD.REPROBE_FAIL.COUNT + 1))) ∧
    (∀ clean, s.flag R.GRD.PROBE.REPROBE_MS = false → 6 * n + pin ∉ s.grd.reprobe →
      exec (.grdReprobeTimer 0 n pin clean) s = .next s) ∧
    (∀ up down, grdOn s 1 = true → s.flag R.GRD.PROBE.OPEN_MS = true → Goes (.grdOpenTest n up down) s fun t =>
      t = { s with rf := t.rf, latched := t.latched, out := t.out } ∧ (∃ m, t.out = (if m = 0 then s.out else .pullUp n m :: s.out) ∧
        ∀ q, q < 6 → nbit m q = openTested s n q) ∧ nbit (t.fld (R.GRD.TDM_STAT.OPEN n)) pin =
        (nbit (s.fld (R.GRD.TDM_STAT.OPEN n)) pin || (openTested s n pin && nbit up pin && !nbit down pin))) ∧
    (∀ up down, grdOn s 1 = false ∨ s.flag R.GRD.PROBE.OPEN_MS = false → exec (.grdOpenTest n up down) s = .next s) ∧
    (∀ rx fs bclk sw, sw = (if rx then R.GRD.TDM_STAT.RX_SWAP n else R.GRD.TDM_STAT.TX_SWAP n) → grdOn s 2 = true →
      s.flag (td (R.TDM.TX_FMT.MASTER n) rx) = false → s.tdmState n rx = tdmArmed →
      (s.flag sw = false → ratioMeets (frameLen s n rx) fs bclk = true → Goes (.grdClockSwapDetect n rx fs bclk) s fun t =>
        t = { s with rf := t.rf, latched := t.latched, freeCtr := s.freeCtr + 1 } ∧ t.fld (R.GRD.TDM_STAT.SWAP_EV n) = 1 ∧
        t.fld sw = b2n (nbit (s.fld R.GRD.AUTOSWAP.PORTS) n)) ∧
      (s.flag sw = true → ratioMeets (frameLen s n rx) fs bclk = false → Goes (.grdClockSwapDetect n rx fs bclk) s fun t =>
        t = { s with rf := t.rf } ∧ t.fld sw = 0 ∧ Touches [sw] s t)) ∧
    (∀ rx fs bclk, s.flag (td (R.TDM.TX_FMT.MASTER n) rx) = true → exec (.grdClockSwapDetect n rx fs bclk) s = .next s)

/-- R440, R442, R443: losses of a lane's signal, and faults of the TIO pins. -/
def Obligations.GuardLaneAndTioSteps : Prop :=
  ∀ (s : State) (pin : Nat),
    (∀ lost, grdOn s 3 = true → pin < 6 → Goes (.grdLossOfSignal pin lost) s fun t =>
      t = { s with rf := t.rf, latched := t.latched } ∧ nbit (t.fld R.GRD.LANE_STAT.LOS) pin = lost ∧
        (lost = true → nbit (s.fld R.GRD.LANE_STAT.LOS) pin = false → t.fld R.GRD.LANE_STAT.LANE_EV = 1 ∧
          t.fld R.GRD.LANE_CNT.COUNT = min (2 ^ 32 - 1) (s.fld R.GRD.LANE_CNT.COUNT + 1)) ∧
        (lost = false → Touches [R.GRD.LANE_STAT.LOS] s t)) ∧
    (∀ lost, grdOn s 3 = false → exec (.grdLossOfSignal pin lost) s = .next s) ∧
    (∀ con, grdOn s 4 = true → tioOut pin = true → nbit (s.fld R.GRD.TIO_STAT.TRIPPED) pin = false →
      Goes (.grdTioShort pin con) s fun t => nbit (t.fld R.GRD.TIO_STAT.TRIPPED) pin = true ∧
        nbit (t.fld R.GRD.TIO_STAT.FAULT) pin = true ∧ t.fld R.GRD.TIO_STAT.TIO_EV = 1 ∧
        t.fld R.GRD.TIO_CNT.COUNT = min (2 ^ 32 - 1) (s.fld R.GRD.TIO_CNT.COUNT + 1) ∧
        (R.GRD.LAST.reg ∉ s.latched → t.fld R.GRD.LAST.CLASS = 2 ∧ t.fld R.GRD.LAST.INDEX = pin ∧
          t.fld R.GRD.LAST.KIND = (if con then 3 else 10))) ∧
    (∀ con, tioOut pin = false ∨ nbit (s.fld R.GRD.TIO_STAT.TRIPPED) pin = true → exec (.grdTioShort pin con) s = .next s) ∧
    (s.flag R.GRD.PROBE.REPROBE_MS = true → nbit (s.fld R.GRD.TIO_STAT.TRIPPED) pin = true → grdOn s 4 = true → pin < 8 →
      (∀ n, Goes (.grdReprobeTimer 2 n pin true) s fun t => nbit (t.fld R.GRD.TIO_STAT.TRIPPED) pin = false ∧
        Touches [R.GRD.TIO_STAT.TRIPPED] s t) ∧
      ∀ n, Goes (.grdReprobeTimer 2 n pin false) s fun t => nbit (t.fld R.GRD.TIO_STAT.TRIPPED) pin = true ∧
        t.fld R.GRD.REPROBE_FAIL.COUNT = min (2 ^ 32 - 1) (s.fld R.GRD.REPROBE_FAIL.COUNT + 1)) ∧
    (grdOn s 4 = true → Goes .grdTioOpen s fun t => t = { s with rf := t.rf, latched := t.latched } ∧
      nbit (t.fld R.GRD.TIO_STAT.OPEN) 1 = true ∧ t.fld R.GRD.TIO_STAT.TIO_EV = 1 ∧
      t.fld R.GRD.TIO_STAT.TRIPPED = s.fld R.GRD.TIO_STAT.TRIPPED) ∧
    (grdOn s 4 = true → pin = 0 ∨ pin = 2 → Goes (.grdInputContention pin) s fun t =>
      t = { s with rf := t.rf, latched := t.latched } ∧ nbit (t.fld R.GRD.TIO_STAT.FAULT) pin = true ∧
        t.fld R.GRD.TIO_STAT.TIO_EV = 1) ∧
    (pin ≠ 0 → pin ≠ 2 → exec (.grdInputContention pin) s = .next s) ∧
    (grdOn s 4 = true → s.grd.ppsSeen = true → s.flag R.GRD.TIO_STAT.PPS_LOSS = false → Goes .grdPpsLoss s fun t =>
      t = { s with rf := t.rf, latched := t.latched } ∧ t.fld R.GRD.TIO_STAT.PPS_LOSS = 1 ∧
        t.fld R.GRD.TIO_STAT.PPS_LOSS_EV = 1 ∧ t.fld R.GRD.TIO_STAT.TIO_EV = 1) ∧
    (s.grd.ppsSeen = false ∨ s.flag R.GRD.TIO_STAT.PPS_LOSS = true → exec .grdPpsLoss s = .next s) ∧
    (grdOn s 4 = false → exec .grdTioOpen s = .next s ∧ exec (.grdInputContention pin) s = .next s ∧ exec .grdPpsLoss s = .next s)

/-- R449 to R451, R454, R456, R460: DX frames read and write the window, malformed ones are counted, and discovery
answers. It rests on the model's choices of log 48. -/
def Obligations.DxFramesAndDiscovery : Prop :=
  ∀ s : State,
    (∀ mosi b, dxServes s = false → Goes (.dxSpiFrame mosi b) s fun t => t = { s with out := .ctlHighZ :: s.out }) ∧
    (∀ mosi b, dxServes s = true → mosi.length < 3 → Goes (.dxSpiFrame mosi b) s fun t =>
      t = { s with rf := t.rf, out := .ctlTx (List.replicate mosi.length 0) :: s.out } ∧ t.fld R.DXW.STAT.FRAME_EV = 1 ∧
        t.fld R.DXW.STAT.FRAME_ERR = min 255 (s.fld R.DXW.STAT.FRAME_ERR + 1)) ∧
    (∀ mosi, dxServes s = true → mosi.length = 5 → nbit (u8 mosi 0) 7 = true → Goes (.dxSpiFrame mosi false) s fun t =>
      t = { s with dx := { s.dx with cells := t.dx.cells }, out := t.out } ∧
        t.out = .ctlTx (List.replicate 3 0 ++ beBytes 2 (dxView s (be16 mosi 1))) :: s.out ∧
        (∀ a, a ≠ be16 mosi 1 → t.dxCell a = s.dxCell a) ∧
        t.dxCell (be16 mosi 1) = (if dxListed (be16 mosi 1) && dxRc (be16 mosi 1) then 0 else s.dxCell (be16 mosi 1))) ∧
    (∀ mosi x, dxServes s = true → mosi.length = 5 → nbit (u8 mosi 0) 7 = false → dxRw (be16 mosi 1) = true →
      dxTakes s (be16 mosi 1) (be16 mosi 3) = some x → Goes (.dxSpiFrame mosi false) s fun t =>
        t.dxCell (be16 mosi 1) = (if be16 mosi 1 = 0x010 ∧ s.dx.softRst = true then x ||| 0x80 else x) % 65536 ∧ (∀ a, a ≠ be16 mosi 1 → t.dxCell a = s.dxCell a) ∧
        t.fld R.DXW.STAT.WRITE_EV = 1 ∧ be16 mosi 1 ∈ t.dx.dirty ∧ Touches [R.DXW.STAT.WRITE_EV] s t) ∧
    (∀ mosi, dxServes s = true → mosi.length = 5 → nbit (u8 mosi 0) 7 = false →
      (dxRw (be16 mosi 1) = false ∨ dxTakes s (be16 mosi 1) (be16 mosi 3) = none) → Goes (.dxSpiFrame mosi false) s fun t =>
        t = { s with out := .ctlTx (List.replicate 5 0) :: s.out }) ∧
    (∀ q, dxLive s = true → dxDisc s = true → q.take 2 = [0x44, 0x58] → Goes (.dxDiscoveryQuery q) s fun t =>
      t = { s with out := t.out } ∧ t.out = .dxReply ([0, 1, 3, 4, 5, 6, 7, 8].flatMap (fun a => beBytes 2 (dxView s a)) ++
        List.replicate 16 0) :: s.out) ∧
    (∀ q, dxDisc s = false ∨ q.take 2 ≠ [0x44, 0x58] → exec (.dxDiscoveryQuery q) s = .next s) ∧
    (∀ f, dxLive s = true → dxDisc s = true → f < 8 → s.fld (R.TXF.F_STAT.STATE f) ≠ 0 → Goes (.dxSapAnnounce f) s fun t =>
      t = { s with freeCtr := s.freeCtr + 2, out := .announce f (dxSdp s f) true :: s.out }) ∧
    (∀ f, dxDisc s = false ∨ s.fld (R.TXF.F_STAT.STATE f) = 0 → exec (.dxSapAnnounce f) s = .next s)

/-- R452 to R456: the refresh of the DX window, one that waits or is skipped, and SOFT_RESET. It rests on the model's
choices of logs 43, 52. -/
def Obligations.DxRefreshAndSoftReset : Prop :=
  ∀ s : State,
    (∀ c, c = .dxRefresh false ∨ (c = .dxRefreshDeferred ∧ s.dx.waiting = true) → dxLive s = true → Goes c s fun t =>
      t.dx.waiting = false ∧ t.dx.dirty = [] ∧ t.dx.gen = liveGen t ∧ t.dxCell 0x036 = t.fld (R.NET.STAT.LINK_UP 2) ∧
        t.dxCell 0x030 = dxLock t ∧ nbit (t.dxCell 0x020) 8 = true) ∧
    (dxLive s = true → s.dx.waiting = false → Goes (.dxRefresh true) s fun t =>
      t = { s with dx := { s.dx with count := s.dx.count + 1, waiting := true } }) ∧
    (dxLive s = true → s.dx.waiting = true → Goes (.dxRefresh true) s fun t =>
      t = { s with rf := t.rf, dx := { s.dx with count := s.dx.count + 1 } } ∧
        t.fld R.DXW.STAT.SKIPPED = min 255 (s.fld R.DXW.STAT.SKIPPED + 1)) ∧
    (∀ b, dxLive s = false → exec (.dxRefresh b) s = .next s ∧ exec .dxRefreshDeferred s = .next s) ∧
    (s.dx.waiting = false → exec .dxRefreshDeferred s = .next s) ∧
    (dxLive s = true → s.dx.softRst = true → (dxEmulates s = true → s.dx.softAt + 20 ≤ s.dx.count) →
      (∀ f, f < 8 → s.fld (R.RXF.F_STAT.STATE f) = 0 ∧ s.fld (R.TXF.F_STAT.STATE f) = 0) →
      (∀ p rx, p < 2 → s.tdmState p rx ≤ tdmReady) → Goes .dxSoftReset s fun t => t = { s with dx := t.dx } ∧
        (∀ a, 0x010 ≤ a → t.dxCell a = dxReset a) ∧ (∀ a, a < 0x010 → t.dxCell a = s.dxCell a) ∧ t.dx.softRst = false ∧
        t.dx.dirty = []) ∧
    (s.dx.softRst = false ∨ dxLive s = false → exec .dxSoftReset s = .next s)

/-- A step runs the command at the front of the queue with the queue's rest; on an empty queue one clock cycle passes
(logs 1 and 6: the queue and its idle step are the model's own). -/
def Obligations.StepRunsFrontOrIdles : Prop :=
  (∀ (c : Instr) (rest : List Instr) (s : State), s.pending = c :: rest → step s = exec c { s with pending := rest }) ∧
  ∀ s : State, s.pending = [] → step s = .next (idle s)

/-- The state after reset has what the invariants below ask for, and no register file lists a word: every register reads
its reset value. It rests on the model's choices of logs 5, 10, 85. -/
def Obligations.ResetMeetsInvariants : Prop :=
  StoresOk State.reset ∧ FlashOk State.reset ∧ QueueOk State.reset ∧ State.reset.pending = [] ∧
    (∀ k, State.reset.rd k = regDefault k) ∧ (∀ k, State.reset.rdSh k = regDefault k) ∧ (∀ a, memGet State.reset.mbx.mem a = 0)

/-- R49: in every state a step ends in a next state, but for a low pulse of RESET_N of at least 250 ns and less than 1 us
while the supply is good, which the spec forbids: there the model stops. A shorter pulse has no effect, and nothing is
ever refused. -/
def Obligations.StepEndsOrMeetsForbiddenPulse : Prop :=
  (∀ s : State, Completes (step s) ∨
    ∃ ns rest, s.pending = .resetNPulse ns :: rest ∧ 250 ≤ ns ∧ ns < 1000 ∧ s.domOn 0 = true ∧
      step s = .fault .resetPulseForbidden) ∧
  ∀ (s : State) (ns : Nat),
    (250 ≤ ns → ns < 1000 → s.domOn 0 = true → exec (.resetNPulse ns) s = .fault .resetPulseForbidden) ∧
    (ns < 250 → exec (.resetNPulse ns) s = .next s)

/-- Every step keeps the register files and the byte memories in their canonical form, so that equal contents stay equal
data. It rests on the model's choices of log 85. -/
def Obligations.StoresStayCanonical : Prop :=
  ∀ s t : State, StoresOk s → step s = .next t → StoresOk t

/-- R199: no step writes the identity record, loses a region of the boot flash or leaves its header naming no image; a
step takes at most the front command of the queue and leaves well-formed commands waiting. -/
def Obligations.FlashRegionsAndQueueStay : Prop :=
  ∀ s t : State, step s = .next t →
    t.flash.serial = s.flash.serial ∧ t.flash.macs = s.flash.macs ∧ t.flash.pcie = s.flash.pcie ∧
      t.flash.minSec = s.flash.minSec ∧ (FlashOk s → FlashOk t) ∧
      t.pending = s.pending.tail ∧ (QueueOk s → QueueOk t)
end

