-- ==== Sys2Proof/Laws/KeepsState.lean ====
section
/-! SUPPORT. Every definition of Machine/State.lean that answers a state keeps what Keeps names: the waiting commands,
the boot flash and the canonical form of the stores. -/

set_option linter.all false

namespace Sys2Proof.Machine

theorem keeps_setDx {s0 s : State} {a v : ℕ} (hk : Keeps s0 s) :
    Keeps s0 (State.setDx s a v) := by
  unfold State.setDx
  repeat' (first | assumption | refine Keeps.lit (FlashKeeps.refl _) ?_ ?_ ?_ ?_ | exact id)

end Sys2Proof.Machine
end

