-- ==== Sys2Proof/Laws/KeepsOps.lean ====
section
/-! SUPPORT. Every definition of Machine/Ops.lean that answers a state keeps what Keeps names: the waiting commands,
the boot flash and the canonical form of the stores. -/

set_option linter.all false

namespace Sys2Proof.Machine

theorem keeps_setFld {s0 s : State} {f : Fld} {v : ℕ} (hk : Keeps s0 s) :
    Keeps s0 (State.setFld s f v) := by
  unfold State.setFld
  repeat' (first | assumption | apply keeps_wr)

theorem keeps_setFldSh {s0 s : State} {f : Fld} {v : ℕ} (hk : Keeps s0 s) :
    Keeps s0 (State.setFldSh s f v) := by
  unfold State.setFldSh
  repeat' (first | assumption | apply keeps_wrSh)

theorem keeps_setFlag {s0 s : State} {f : Fld} {b : Bool} (hk : Keeps s0 s) :
    Keeps s0 (State.setFlag s f b) := by
  unfold State.setFlag
  repeat' (first | assumption | apply keeps_setFld)

theorem keeps_count {s0 s : State} {f : Fld} (hk : Keeps s0 s) :
    Keeps s0 (State.count s f) := by
  unfold State.count
  repeat' (first | assumption | apply Keeps.ite | apply keeps_setFld)

theorem keeps_countN {s0 s : State} {f : Fld} {n : ℕ} (hk : Keeps s0 s) :
    Keeps s0 (State.countN s f n) := by
  unfold State.countN
  repeat' (first | assumption | apply keeps_setFld)

theorem keeps_countSat {s0 s : State} {f sat : Fld} {i : ℕ} (hk : Keeps s0 s) :
    Keeps s0 (State.countSat s f sat i) := by
  unfold State.countSat
  dsimp only
  repeat' (first | assumption | apply Keeps.ite | apply keeps_count | apply keeps_setFld)

theorem keeps_countSatN {s0 s : State} {f : Fld} {n : ℕ} {sat : Fld} {i : ℕ} (hk : Keeps s0 s) :
    Keeps s0 (State.countSatN s f n sat i) := by
  unfold State.countSatN
  dsimp only
  repeat' (first | with_reducible assumption | with_reducible apply Keeps.ite | with_reducible apply keeps_countN
                   | with_reducible apply keeps_setFld)

theorem keeps_clearCnt {s0 s : State} {f sat : Fld} {i : ℕ} (hk : Keeps s0 s) :
    Keeps s0 (State.clearCnt s f sat i) := by
  unfold State.clearCnt
  repeat' (first | assumption | apply keeps_setFld)

theorem keeps_emit {s0 s : State} {o : Out} (hk : Keeps s0 s) :
    Keeps s0 (State.emit s o) := by
  unfold State.emit
  repeat' (first | assumption | refine Keeps.lit (FlashKeeps.refl _) ?_ ?_ ?_ ?_ | exact id)

theorem keeps_setDom {s0 s : State} {d : ℕ} {b : Bool} (hk : Keeps s0 s) :
    Keeps s0 (State.setDom s d b) := by
  unfold State.setDom
  repeat' (first | assumption | refine Keeps.lit (FlashKeeps.refl _) ?_ ?_ ?_ ?_ | exact id)

theorem keeps_setVid {s0 s : State} {n : ℕ} (hk : Keeps s0 s) :
    Keeps s0 (State.setVid s n) := by
  unfold State.setVid
  repeat' (first | assumption | apply keeps_setFld | refine Keeps.lit (FlashKeeps.refl _) ?_ ?_ ?_ ?_ | exact id)

theorem keeps_goPower {s0 s : State} {st : ℕ} (hk : Keeps s0 s) :
    Keeps s0 (State.goPower s st) := by
  unfold State.goPower
  repeat' (first | assumption | apply keeps_setFlds)

theorem keeps_avsHold {s0 s : State} {code : ℕ} (hk : Keeps s0 s) :
    Keeps s0 (State.avsHold s code) := by
  unfold State.avsHold
  dsimp only
  repeat' (first | with_reducible assumption | with_reducible apply Keeps.ite | with_reducible apply keeps_setVid
                   | with_reducible apply keeps_setFld | with_reducible refine Keeps.lit (FlashKeeps.refl _) ?_ ?_ ?_ ?_
                   | exact id)

theorem keeps_avsFollow {s0 s : State} (hk : Keeps s0 s) :
    Keeps s0 (State.avsFollow s) := by
  unfold State.avsFollow
  repeat' (first | with_reducible assumption | with_reducible apply Keeps.ite | with_reducible apply keeps_avsHold
                   | with_reducible apply keeps_setVid | with_reducible refine Keeps.lit (FlashKeeps.refl _) ?_ ?_ ?_ ?_
                   | exact id)

theorem keeps_enterRecovery {s0 s : State} {reason : ℕ} (hk : Keeps s0 s) :
    Keeps s0 (State.enterRecovery s reason) := by
  unfold State.enterRecovery
  repeat' (first | assumption | apply keeps_setFlds)

theorem keeps_enterService {s0 s : State} (hk : Keeps s0 s) :
    Keeps s0 (State.enterService s) := by
  unfold State.enterService
  dsimp only
  repeat' (first | assumption | apply keeps_setFlds | apply keeps_setFld)

theorem keeps_addUser {s0 s : State} {kind item mcs : ℕ} (hk : Keeps s0 s) :
    Keeps s0 (State.addUser s kind item mcs) := by
  unfold State.addUser
  repeat' (first | assumption | refine Keeps.lit (FlashKeeps.refl _) ?_ ?_ ?_ ?_ | exact id)

theorem keeps_dropUser {s0 s : State} {kind item : ℕ} (hk : Keeps s0 s) :
    Keeps s0 (State.dropUser s kind item) := by
  unfold State.dropUser
  repeat' (first | assumption | refine Keeps.lit (FlashKeeps.refl _) ?_ ?_ ?_ ?_ | exact id)

theorem keeps_crcHold {s0 s : State} (hk : Keeps s0 s) :
    Keeps s0 (State.crcHold s) := by
  unfold State.crcHold
  repeat' (first | assumption | apply Keeps.ite | apply keeps_setFld)

theorem keeps_latchOnce {s0 s : State} {k : ℕ} {fs : List (Fld × ℕ)} (hk : Keeps s0 s) :
    Keeps s0 (State.latchOnce s k fs) := by
  unfold State.latchOnce
  repeat' (first | assumption | apply Keeps.ite | apply keeps_setFlds
                   | refine Keeps.lit (FlashKeeps.refl _) ?_ ?_ ?_ ?_ | exact id)

theorem keeps_rearm {s0 s : State} {k : ℕ} (hk : Keeps s0 s) :
    Keeps s0 (State.rearm s k) := by
  unfold State.rearm
  repeat' (first | assumption | refine Keeps.lit (FlashKeeps.refl _) ?_ ?_ ?_ ?_ | exact id)

end Sys2Proof.Machine
end

