-- ==== Sys2Proof/Laws/KeepsEvents.lean ====
section
/-! SUPPORT. Every definition of Machine/Events.lean that answers a state keeps what Keeps names: the waiting commands,
the boot flash and the canonical form of the stores. -/

set_option linter.all false

namespace Sys2Proof.Machine

theorem keeps_setEvtq {s0 s : State} {c : ℕ} {q : EvtQueue} (hk : Keeps s0 s) :
    Keeps s0 (State.setEvtq s c q) := by
  unfold State.setEvtq
  dsimp only
  repeat' (first | assumption | apply keeps_setFlag | refine Keeps.lit (FlashKeeps.refl _) ?_ ?_ ?_ ?_ | exact id)

theorem keeps_queueEvent {s0 s : State} {c : ℕ} {m : Msg} (hk : Keeps s0 s) :
    Keeps s0 (queueEvent s c m) := by
  unfold queueEvent
  dsimp only
  repeat' (first | with_reducible assumption | with_reducible apply Keeps.ite | with_reducible apply keeps_setEvtq
                   | with_reducible apply keeps_count)

theorem keeps_queueFirst {s0 s : State} {c : ℕ} {m : Msg} (hk : Keeps s0 s) :
    Keeps s0 (queueFirst s c m) := by
  unfold queueFirst
  dsimp only
  repeat' (first | with_reducible assumption | with_reducible apply Keeps.ite | with_reducible apply keeps_queueEvent
                   | with_reducible apply keeps_setEvtq
                   | with_reducible refine Keeps.lit (FlashKeeps.refl _) ?_ ?_ ?_ ?_ | exact id)

theorem keeps_event {s0 s : State} {code : ℕ} {data : List Byte} (hk : Keeps s0 s) :
    Keeps s0 (State.event s code data) := by
  unfold State.event
  dsimp only
  repeat' (first | assumption | apply keeps_queueEvent)

theorem keeps_dxRaise {s0 s : State} {bits : ℕ} (hk : Keeps s0 s) :
    Keeps s0 (dxRaise s bits) := by
  unfold dxRaise
  dsimp only
  repeat' (first | with_reducible assumption | with_reducible apply Keeps.ite | with_reducible apply keeps_setDx
                   | with_reducible apply keeps_event)

end Sys2Proof.Machine
end

