-- ==== Sys2Proof/Laws/KeepsIrq.lean ====
section
/-! SUPPORT. Every definition of Machine/Irq.lean that answers a state keeps what Keeps names: the waiting commands,
the boot flash and the canonical form of the stores. -/

set_option linter.all false

namespace Sys2Proof.Machine

theorem keeps_setTgt {s0 s : State} {m : Bool} {t : IrqTarget} (hk : Keeps s0 s) :
    Keeps s0 (State.setTgt s m t) := by
  unfold State.setTgt
  repeat' (first | assumption | apply Keeps.ite | refine Keeps.lit (FlashKeeps.refl _) ?_ ?_ ?_ ?_ | exact id)

theorem keeps_closeGroups {s0 s : State} {m : Bool} (hk : Keeps s0 s) :
    Keeps s0 (closeGroups s m) := by
  unfold closeGroups
  dsimp only
  repeat' (first | assumption | apply Keeps.ite | apply keeps_setTgt | split
                   | refine Keeps.lit (FlashKeeps.refl _) ?_ ?_ ?_ ?_ | exact id)

theorem keeps_modPendSet {s0 s : State} {m : Bool} {g : ℕ} (hk : Keeps s0 s) :
    Keeps s0 (modPendSet s m g) := by
  unfold modPendSet
  dsimp only
  repeat' (first | assumption | apply Keeps.ite | apply keeps_setTgt | split
                   | refine Keeps.lit (FlashKeeps.refl _) ?_ ?_ ?_ ?_ | exact id)

theorem keeps_releaseHeld {s0 s : State} {m : Bool} (hk : Keeps s0 s) :
    Keeps s0 (releaseHeld s m) := by
  unfold releaseHeld
  dsimp only
  repeat' (first | assumption | apply keeps_setTgt)

theorem keeps_pendSet {s0 s : State} {m : Bool} {n : ℕ} (hk : Keeps s0 s) :
    Keeps s0 (pendSet s m n) := by
  unfold pendSet
  dsimp only
  repeat' (first | assumption | apply Keeps.ite | apply keeps_setTgt | apply keeps_modPendSet
                   | refine Keeps.lit (FlashKeeps.refl _) ?_ ?_ ?_ ?_ | exact id)

theorem keeps_pendClear {s0 s : State} {m : Bool} {n : ℕ} (hk : Keeps s0 s) :
    Keeps s0 (pendClear s m n) := by
  unfold pendClear
  dsimp only
  repeat' (first | assumption | apply Keeps.ite | apply keeps_closeGroups | apply keeps_setTgt
                   | refine Keeps.lit (FlashKeeps.refl _) ?_ ?_ ?_ ?_ | exact id)

theorem keeps_msixIfRose {s0 : State} {before : Bool} {s : State} (hk : Keeps s0 s) :
    Keeps s0 (msixIfRose before s) := by
  unfold msixIfRose
  repeat' (first | assumption | apply Keeps.ite | refine Keeps.lit (FlashKeeps.refl _) ?_ ?_ ?_ ?_ | exact id)

theorem keeps_irqEdge {s0 s : State} {n : ℕ} (hk : Keeps s0 s) :
    Keeps s0 (irqEdge s n) := by
  unfold irqEdge
  dsimp only
  repeat' (first | assumption | apply Keeps.ite | apply keeps_msixIfRose | apply keeps_pendSet
                   | refine Keeps.lit (FlashKeeps.refl _) ?_ ?_ ?_ ?_ | exact id)

theorem keeps_levelFollow {s0 s : State} {m : Bool} {n : ℕ} {active : Bool} (hk : Keeps s0 s) :
    Keeps s0 (levelFollow s m n active) := by
  unfold levelFollow
  repeat' (first | assumption | apply Keeps.ite | apply keeps_pendSet | apply keeps_pendClear
                   | refine Keeps.lit (FlashKeeps.refl _) ?_ ?_ ?_ ?_ | exact id)

theorem keeps_irqSample {s0 s : State} {n : ℕ} (hk : Keeps s0 s) :
    Keeps s0 (irqSample s n) := by
  unfold irqSample
  dsimp only
  repeat' (first | with_reducible assumption | with_reducible apply Keeps.ite | with_reducible apply keeps_levelFollow
                   | with_reducible apply keeps_pendSet | with_reducible apply keeps_msixIfRose
                   | with_reducible refine Keeps.lit (FlashKeeps.refl _) ?_ ?_ ?_ ?_ | exact id)

theorem keeps_irqAck {s0 s : State} {m : Bool} {n : ℕ} (hk : Keeps s0 s) :
    Keeps s0 (irqAck s m n) := by
  unfold irqAck
  dsimp only
  repeat' (first | assumption | apply Keeps.ite | apply keeps_setFlds | apply keeps_setTgt | apply keeps_pendClear
                   | apply keeps_setFld | apply keeps_msixIfRose | split
                   | refine Keeps.lit (FlashKeeps.refl _) ?_ ?_ ?_ ?_ | exact id)

theorem keeps_stackFault {s0 s : State} {m : Bool} {expected : Option ℕ} {named : ℕ} (hk : Keeps s0 s) :
    Keeps s0 (stackFault s m expected named) := by
  unfold stackFault
  dsimp only
  repeat' (first | with_reducible assumption | with_reducible apply Keeps.ite | with_reducible apply keeps_setFld
                   | with_reducible apply keeps_setFlds | with_reducible apply keeps_pendSet)

theorem keeps_irqEoi {s0 s : State} {m : Bool} {n : ℕ} (hk : Keeps s0 s) :
    Keeps s0 (irqEoi s m n) := by
  unfold irqEoi
  dsimp only
  repeat' (first | with_reducible assumption | with_reducible apply Keeps.ite | with_reducible apply keeps_msixIfRose
                   | with_reducible apply keeps_stackFault | with_reducible apply keeps_setTgt
                   | with_reducible apply keeps_count | with_reducible apply keeps_releaseHeld | split
                   | with_reducible refine Keeps.lit (FlashKeeps.refl _) ?_ ?_ ?_ ?_ | exact id)

theorem keeps_irqPendWrite {s0 s : State} {m set : Bool} {k : ℕ} {v : Word} (hk : Keeps s0 s) :
    Keeps s0 (irqPendWrite s m set k v) := by
  unfold irqPendWrite
  dsimp only
  repeat' (first | with_reducible assumption | with_reducible apply Keeps.ite | with_reducible apply keeps_msixIfRose
                   | with_reducible apply keeps_pendSet | with_reducible apply keeps_pendClear
                   | with_reducible apply Keeps.foldl | (intro _ _ _))

theorem keeps_irqMaskWrite {s0 s : State} {m set : Bool} {k : ℕ} {v : Word} (hk : Keeps s0 s) :
    Keeps s0 (irqMaskWrite s m set k v) := by
  unfold irqMaskWrite
  dsimp only
  repeat' (first | assumption | apply Keeps.ite | apply keeps_msixIfRose | apply keeps_setTgt
                   | refine Keeps.lit (FlashKeeps.refl _) ?_ ?_ ?_ ?_ | exact id)

theorem keeps_irqResettle {s0 s : State} {n oldSense : ℕ} (hk : Keeps s0 s) :
    Keeps s0 (irqResettle s n oldSense) := by
  unfold irqResettle
  dsimp only
  repeat' (first | with_reducible assumption | with_reducible apply Keeps.ite | with_reducible apply keeps_pendClear
                   | with_reducible apply keeps_levelFollow)

theorem keeps_irqCfgWrite {s0 s : State} {mcu : Bool} {n : ℕ} {v : Word} (hk : Keeps s0 s) :
    Keeps s0 (irqCfgWrite s mcu n v) := by
  unfold irqCfgWrite
  dsimp only
  repeat' (first | with_reducible assumption | with_reducible apply Keeps.ite | with_reducible apply keeps_setFlds
                   | with_reducible apply keeps_setFld | with_reducible apply keeps_msixIfRose
                   | with_reducible apply keeps_irqResettle)

theorem keeps_irqSeen {s0 s : State} {m : Bool} {off : ℕ} (hk : Keeps s0 s) :
    Keeps s0 (irqSeen s m off) := by
  unfold irqSeen
  dsimp only
  repeat' (first | assumption | apply Keeps.ite | apply keeps_setTgt
                   | refine Keeps.lit (FlashKeeps.refl _) ?_ ?_ ?_ ?_ | exact id)

theorem keeps_irqLines {s0 s : State} (hk : Keeps s0 s) :
    Keeps s0 (irqLines s) := by
  unfold irqLines
  repeat' (first | with_reducible assumption | with_reducible apply Keeps.ite | with_reducible apply keeps_irqSample
                   | with_reducible apply Keeps.foldl | (intro _ _ _)
                   | with_reducible refine Keeps.lit (FlashKeeps.refl _) ?_ ?_ ?_ ?_ | exact id)

theorem keeps_mcuResume {s0 s : State} (hk : Keeps s0 s) :
    Keeps s0 (mcuResume s) := by
  unfold mcuResume
  repeat' (first | assumption | apply Keeps.ite | apply keeps_setFld)

theorem keeps_irqTick {s0 s : State} (hk : Keeps s0 s) :
    Keeps s0 (irqTick s) := by
  unfold irqTick
  dsimp only
  repeat' (first | with_reducible assumption | with_reducible apply Keeps.ite | with_reducible apply keeps_mcuResume
                   | with_reducible refine Keeps.lit (FlashKeeps.refl _) ?_ ?_ ?_ ?_ | exact id)

theorem keeps_execIrqSourceEvent {s0 : State} {n : ℕ} {s : State} (hk : Keeps s0 s) :
    KeepsO s0 (execIrqSourceEvent n s) := by
  unfold execIrqSourceEvent
  repeat' (first | assumption | apply Keeps.next | apply keeps_irqSample)

theorem keeps_execModWindowExpiry {s0 : State} {mcu : Bool} {g : ℕ} {s : State} (hk : Keeps s0 s) :
    KeepsO s0 (execModWindowExpiry mcu g s) := by
  unfold execModWindowExpiry
  dsimp only
  repeat' (first | assumption | apply Keeps.next | apply keeps_msixIfRose | apply keeps_closeGroups
                   | apply keeps_setTgt)

theorem keeps_execMcuWaitForInterrupt {s0 s : State} (hk : Keeps s0 s) :
    KeepsO s0 (execMcuWaitForInterrupt s) := by
  unfold execMcuWaitForInterrupt
  dsimp only
  repeat' (first | assumption | apply Keeps.next | apply Keeps.ite | apply KeepsO.ite | apply keeps_setFld
                   | apply keeps_releaseHeld)

theorem keeps_execMsixMessageSend {s0 : State} {funcMask : Bool} {s : State} (hk : Keeps s0 s) :
    KeepsO s0 (execMsixMessageSend funcMask s) := by
  unfold execMsixMessageSend
  repeat' (first | assumption | apply Keeps.next | apply Keeps.ite | apply KeepsO.ite | apply keeps_emit
                   | refine Keeps.lit (FlashKeeps.refl _) ?_ ?_ ?_ ?_ | exact id)

end Sys2Proof.Machine
end

