-- ==== Sys2Proof/Laws/KeepsClocks.lean ====
section
/-! SUPPORT. Every definition of Machine/Clocks.lean that answers a state keeps what Keeps names: the waiting commands,
the boot flash and the canonical form of the stores. -/

set_option linter.all false

namespace Sys2Proof.Machine

theorem keeps_setMcs {s0 s : State} {n : ℕ} {m : Mcs} (hk : Keeps s0 s) :
    Keeps s0 (State.setMcs s n m) := by
  unfold State.setMcs
  repeat' (first | assumption | refine Keeps.lit (FlashKeeps.refl _) ?_ ?_ ?_ ?_ | exact id)


theorem keeps_mcsHere {s0 s : State} {n : ℕ} (hk : Keeps s0 s) :
    Keeps s0 (mcsHere s n) := by
  unfold mcsHere
  dsimp only
  repeat' (first | assumption | apply keeps_setMcs)


theorem keeps_mcsSetRate {s0 s : State} {n : ℕ} {ppb : ℤ} (hk : Keeps s0 s) :
    Keeps s0 (mcsSetRate s n ppb) := by
  unfold mcsSetRate
  dsimp only
  repeat' (first | assumption | apply keeps_mcsHere | apply keeps_setMcs | apply keeps_setFld)


theorem keeps_mcsRebase {s0 s : State} {pti : ℕ} (hk : Keeps s0 s) :
    Keeps s0 (mcsRebase s pti) := by
  unfold mcsRebase
  repeat' (first | with_reducible assumption | with_reducible apply Keeps.ite | with_reducible apply keeps_mcsHere
                   | with_reducible apply Keeps.foldl | (intro _ _ _)
                   | with_reducible refine Keeps.lit (FlashKeeps.refl _) ?_ ?_ ?_ ?_ | exact id)

theorem keeps_setOut {s0 s : State} {i : ℕ} {o : Option ℕ} (hk : Keeps s0 s) :
    Keeps s0 (setOut s i o) := by
  unfold setOut
  repeat' (first | assumption | refine Keeps.lit (FlashKeeps.refl _) ?_ ?_ ?_ ?_ | exact id)

theorem keeps_stopOuts {s0 s : State} {n : ℕ} (hk : Keeps s0 s) :
    Keeps s0 (stopOuts s n) := by
  unfold stopOuts
  repeat' (first | assumption | apply Keeps.ite | apply keeps_setOut)

theorem keeps_mclkRefresh {s0 s : State} (hk : Keeps s0 s) :
    Keeps s0 (mclkRefresh s) := by
  unfold mclkRefresh
  repeat' (first | assumption | apply keeps_setFlag)


theorem keeps_mcsGo {s0 s : State} {n st : ℕ} (hk : Keeps s0 s) :
    Keeps s0 (mcsGo s n st) := by
  unfold mcsGo
  dsimp only
  repeat' (first | with_reducible assumption | with_reducible apply Keeps.ite | with_reducible apply keeps_event
                   | with_reducible apply keeps_setFld | with_reducible apply keeps_setMcs
                   | with_reducible apply keeps_mcsSetRate | with_reducible apply keeps_setFlds
                   | with_reducible apply keeps_stopOuts
                   | with_reducible refine Keeps.lit (FlashKeeps.refl _) ?_ ?_ ?_ ?_ | exact id | (exact fun _ => rfl))

theorem keeps_mcsLose {s0 s : State} {n : ℕ} (hk : Keeps s0 s) :
    Keeps s0 (mcsLose s n) := by
  unfold mcsLose
  dsimp only
  repeat' (first | with_reducible assumption | with_reducible apply Keeps.ite | with_reducible apply keeps_setFld
                   | with_reducible apply keeps_mcsGo | with_reducible refine Keeps.lit (FlashKeeps.refl _) ?_ ?_ ?_ ?_
                   | exact id)

theorem keeps_refFalls {s0 s : State} (hk : Keeps s0 s) :
    Keeps s0 (refFalls s) := by
  unfold refFalls
  repeat' (first | assumption | apply Keeps.ite | apply keeps_setFld | apply Keeps.foldl | (intro _ _ _))

theorem keeps_mcsFirst {s0 s : State} {n : ℕ} (hk : Keeps s0 s) :
    Keeps s0 (mcsFirst s n) := by
  unfold mcsFirst
  dsimp only
  repeat' (first | assumption | apply Keeps.ite | apply keeps_setMcs)


theorem keeps_mcsInterval {s0 s : State} {n : ℕ} {err refPpb freq : ℤ} (hk : Keeps s0 s) :
    Keeps s0 (mcsInterval s n err refPpb freq) := by
  unfold mcsInterval
  dsimp only
  repeat' (first | with_reducible assumption | with_reducible apply Keeps.ite | with_reducible apply keeps_setFld
                   | with_reducible apply keeps_setFlag | with_reducible apply keeps_setMcs
                   | with_reducible apply keeps_setFlds | with_reducible apply keeps_mcsSetRate
                   | with_reducible apply keeps_mcsGo | with_reducible apply keeps_mcsFirst
                   | with_reducible apply keeps_mcsLose
                   | with_reducible refine Keeps.lit (FlashKeeps.refl _) ?_ ?_ ?_ ?_ | exact id)

theorem keeps_mcsPtiEvent {s0 s : State} {pti : ℕ} {step : Bool} (hk : Keeps s0 s) :
    Keeps s0 (mcsPtiEvent s pti step) := by
  unfold mcsPtiEvent
  dsimp only
  repeat' (first | with_reducible assumption | with_reducible apply Keeps.ite | with_reducible apply keeps_setMcs
                   | with_reducible apply keeps_setFld | with_reducible apply keeps_mcsLose
                   | with_reducible apply Keeps.foldl | (intro _ _ _))

theorem keeps_mcsShift {s0 s : State} {pti : ℕ} {delta : ℤ} (hk : Keeps s0 s) :
    Keeps s0 (mcsShift s pti delta) := by
  unfold mcsShift
  repeat' (first | assumption | apply Keeps.ite | refine Keeps.lit (FlashKeeps.refl _) ?_ ?_ ?_ ?_ | exact id)


theorem keeps_mcsApply {s0 s : State} {n : ℕ} {v : Word} (hk : Keeps s0 s) :
    Keeps s0 (mcsApply s n v) := by
  unfold mcsApply
  dsimp only
  repeat' (first | with_reducible assumption | with_reducible apply Keeps.ite | with_reducible apply keeps_wr
                   | with_reducible apply keeps_setMcs | with_reducible apply keeps_setFld
                   | with_reducible apply keeps_mcsGo | with_reducible apply keeps_mclkRefresh
                   | with_reducible refine Keeps.lit (FlashKeeps.refl _) ?_ ?_ ?_ ?_ | exact id)

theorem keeps_clkApply {s0 s : State} {k : ℕ} {v : Word} (hk : Keeps s0 s) :
    Keeps s0 (clkApply s k v) := by
  unfold clkApply
  dsimp only
  repeat' (first | with_reducible assumption | with_reducible apply Keeps.ite | with_reducible apply keeps_mcsApply
                   | with_reducible apply keeps_setOut | with_reducible apply keeps_wr
                   | with_reducible apply keeps_mclkRefresh | with_reducible apply Keeps.foldl | (intro _ _ _))

theorem keeps_execRefPllLock {s0 s : State} (hk : Keeps s0 s) :
    KeepsO s0 (execRefPllLock s) := by
  unfold execRefPllLock
  repeat' (first | assumption | apply Keeps.next | apply Keeps.ite | apply KeepsO.ite | apply keeps_setFld
                   | refine Keeps.lit (FlashKeeps.refl _) ?_ ?_ ?_ ?_ | exact id)

theorem keeps_pllLossOfLock {s0 : State} {sys : Bool} {s : State} (hk : Keeps s0 s) :
    KeepsO s0 (pllLossOfLock sys s) := by
  unfold pllLossOfLock
  dsimp only
  repeat' (first | with_reducible assumption | with_reducible apply Keeps.next | with_reducible apply Keeps.ite
                   | with_reducible apply KeepsO.ite | with_reducible apply keeps_setFlds
                   | with_reducible apply keeps_stopOuts | with_reducible apply keeps_mcsLose
                   | with_reducible apply Keeps.foldl | (intro _ _ _))


theorem keeps_wclkQualify {s0 : State} {rate period : ℕ} {s : State} (hk : Keeps s0 s) :
    Keeps s0 (wclkQualify rate period s) := by
  unfold wclkQualify
  repeat' (first | assumption | apply Keeps.ite | apply keeps_setFlds)

theorem keeps_wclkInLoss {s0 s : State} (hk : Keeps s0 s) :
    Keeps s0 (wclkInLoss s) := by
  unfold wclkInLoss
  repeat' (first | assumption | apply keeps_refFalls | apply keeps_setFlds)

theorem keeps_execClkOutputSwitch {s0 : State} {pin : ℕ} {s : State} (hk : Keeps s0 s) :
    KeepsO s0 (execClkOutputSwitch pin s) := by
  unfold execClkOutputSwitch
  repeat' (first | assumption | apply Keeps.next | apply Keeps.ite | apply KeepsO.ite | apply keeps_setOut)

end Sys2Proof.Machine
end

