-- ==== Sys2Proof/Laws/KeepsTimeEng.lean ====
section
/-! SUPPORT. Every definition of Machine/TimeEng.lean that answers a state keeps what Keeps names: the waiting commands,
the boot flash and the canonical form of the stores. -/

set_option linter.all false

namespace Sys2Proof.Machine

theorem keeps_setPti {s0 s : State} {n : ℕ} {p : Pti} (hk : Keeps s0 s) :
    Keeps s0 (State.setPti s n p) := by
  unfold State.setPti
  repeat' (first | assumption | refine Keeps.lit (FlashKeeps.refl _) ?_ ?_ ?_ ?_ | exact id)

theorem keeps_setPl {s0 s : State} {k : ℕ} {p : Platen} (hk : Keeps s0 s) :
    Keeps s0 (State.setPl s k p) := by
  unfold State.setPl
  repeat' (first | assumption | refine Keeps.lit (FlashKeeps.refl _) ?_ ?_ ?_ ?_ | exact id)

theorem keeps_setAddend {s0 s : State} {n a : ℕ} (hk : Keeps s0 s) :
    Keeps s0 (State.setAddend s n a) := by
  unfold State.setAddend
  repeat' (first | assumption | apply keeps_mcsRebase | apply keeps_setFlds)

theorem keeps_netStampTx {s0 s : State} {x : ℕ} (hk : Keeps s0 s) :
    Keeps s0 (netStampTx s x) := by
  unfold netStampTx
  repeat' (first | assumption | refine Keeps.lit (FlashKeeps.refl _) ?_ ?_ ?_ ?_ | exact id)

theorem keeps_ptiTick {s0 s : State} {n : ℕ} (hk : Keeps s0 s) :
    Keeps s0 (ptiTick s n) := by
  unfold ptiTick
  dsimp only
  repeat' (first | assumption | apply keeps_setPti)

theorem keeps_timeTick {s0 s : State} (hk : Keeps s0 s) :
    Keeps s0 (timeTick s) := by
  unfold timeTick
  repeat' (first | assumption | apply keeps_ptiTick)

theorem keeps_setPlFire {s0 s : State} {k raw : ℕ} (hk : Keeps s0 s) :
    Keeps s0 (setPlFire s k raw) := by
  unfold setPlFire
  dsimp only
  repeat' (first | assumption | apply keeps_setPl | apply keeps_setFlds)

theorem keeps_plStep {s0 : State} {n old new : ℕ} {s : State} {k : ℕ} (hk : Keeps s0 s) :
    Keeps s0 (plStep n old new s k) := by
  unfold plStep
  dsimp only
  repeat' (first | assumption | apply Keeps.ite | apply keeps_setFlds | apply keeps_setPlFire
                   | refine Keeps.lit (FlashKeeps.refl _) ?_ ?_ ?_ ?_ | exact id)

theorem keeps_ptiStep {s0 s : State} {n : ℕ} {delta : ℤ} (hk : Keeps s0 s) :
    Keeps s0 (ptiStep s n delta) := by
  unfold ptiStep
  dsimp only
  repeat' (first | with_reducible assumption | with_reducible apply Keeps.ite | with_reducible apply keeps_setPti
                   | with_reducible apply keeps_setFld | with_reducible apply keeps_mcsShift
                   | with_reducible apply keeps_mcsPtiEvent | with_reducible apply keeps_plStep
                   | with_reducible apply Keeps.foldl | (intro _ _ _)
                   | with_reducible refine Keeps.lit (FlashKeeps.refl _) ?_ ?_ ?_ ?_ | exact id)

theorem keeps_setPort {s0 s : State} {n x st : ℕ} (hk : Keeps s0 s) :
    Keeps s0 (setPort s n x st) := by
  unfold setPort
  dsimp only
  repeat' (first | assumption | apply Keeps.ite | apply keeps_setFld | apply keeps_setPti)

theorem keeps_lockCheck {s0 s : State} {n : ℕ} (hk : Keeps s0 s) :
    Keeps s0 (lockCheck s n) := by
  unfold lockCheck
  repeat' (first | assumption | apply Keeps.ite | apply keeps_setPti | apply keeps_setFld)

theorem keeps_ptiFreeze {s0 s : State} {n : ℕ} (hk : Keeps s0 s) :
    Keeps s0 (ptiFreeze s n) := by
  unfold ptiFreeze
  dsimp only
  repeat' (first | with_reducible assumption | with_reducible apply Keeps.ite | with_reducible apply keeps_setPti
                   | with_reducible apply keeps_mcsPtiEvent | with_reducible apply keeps_refFalls
                   | with_reducible apply keeps_setFld | with_reducible refine Keeps.lit (FlashKeeps.refl _) ?_ ?_ ?_ ?_
                   | exact id)

theorem keeps_portLost {s0 s : State} {n x st : ℕ} (hk : Keeps s0 s) :
    Keeps s0 (portLost s n x st) := by
  unfold portLost
  dsimp only
  repeat' (first | with_reducible assumption | with_reducible apply Keeps.ite | with_reducible apply keeps_setPort
                   | with_reducible apply keeps_ptiFreeze | with_reducible apply keeps_lockCheck)

theorem keeps_portsApply {s0 s : State} {n : ℕ} (hk : Keeps s0 s) :
    Keeps s0 (portsApply s n) := by
  unfold portsApply
  dsimp only
  repeat' (first | assumption | apply Keeps.ite | apply keeps_setPort)

theorem keeps_timeApply {s0 s : State} {k : ℕ} {v : Word} (hk : Keeps s0 s) :
    Keeps s0 (timeApply s k v) := by
  unfold timeApply
  dsimp only
  repeat' (first | with_reducible assumption | with_reducible apply Keeps.ite | with_reducible apply keeps_setFld
                   | with_reducible apply keeps_wr | with_reducible apply keeps_setPti
                   | with_reducible apply keeps_lockCheck | with_reducible apply keeps_portsApply
                   | with_reducible apply keeps_ptiStep | with_reducible apply keeps_wrSh)

theorem keeps_addendWrite {s0 s : State} {n : ℕ} {frac : Bool} {v : Word} (hk : Keeps s0 s) :
    Keeps s0 (addendWrite s n frac v) := by
  unfold addendWrite
  dsimp only
  repeat' (first | with_reducible assumption | with_reducible apply Keeps.ite | with_reducible apply keeps_setFld
                   | with_reducible apply keeps_setPti | with_reducible apply keeps_setAddend
                   | with_reducible refine Keeps.lit (FlashKeeps.refl _) ?_ ?_ ?_ ?_ | exact id)

theorem keeps_selectPort {s0 s : State} {n x : ℕ} (hk : Keeps s0 s) :
    Keeps s0 (selectPort s n x) := by
  unfold selectPort
  dsimp only
  repeat' (first | with_reducible assumption | with_reducible apply Keeps.ite | with_reducible apply keeps_setPort
                   | with_reducible apply keeps_setFlds | with_reducible apply keeps_setPti)

theorem keeps_lockRuns {s0 s : State} {n : ℕ} {off : ℤ} (hk : Keeps s0 s) :
    Keeps s0 (lockRuns s n off) := by
  unfold lockRuns
  dsimp only
  repeat' (first | assumption | apply Keeps.ite | apply keeps_setPti | apply keeps_setFld)

theorem keeps_servoAddend {s0 s : State} {n : ℕ} {off : ℤ} (hk : Keeps s0 s) :
    Keeps s0 (servoAddend s n off) := by
  unfold servoAddend
  dsimp only
  repeat' (first | assumption | apply keeps_setPti | apply keeps_setAddend)

theorem keeps_servoTake {s0 s : State} {n : ℕ} {off mean : ℤ} {hist : Bool} (hk : Keeps s0 s) :
    Keeps s0 (servoTake s n off mean hist) := by
  unfold servoTake
  dsimp only
  repeat' (first | with_reducible assumption | with_reducible apply Keeps.ite | with_reducible apply keeps_ptiStep
                   | with_reducible apply keeps_setPti | with_reducible apply keeps_setFld
                   | with_reducible apply keeps_servoAddend | with_reducible apply keeps_lockRuns)

theorem keeps_pathCompare {s0 s : State} {n : ℕ} {oa ob : ℤ} (hk : Keeps s0 s) :
    Keeps s0 (pathCompare s n oa ob) := by
  unfold pathCompare
  dsimp only
  repeat' (first | with_reducible assumption | with_reducible apply Keeps.ite | with_reducible apply keeps_setFld
                   | with_reducible apply keeps_setPti | with_reducible apply keeps_ptiFreeze
                   | with_reducible apply keeps_selectPort
                   | with_reducible refine Keeps.lit (FlashKeeps.refl _) ?_ ?_ ?_ ?_ | exact id)

theorem keeps_pushOffsets {s0 s : State} {n : ℕ} {off : ℕ → Option ℤ} (hk : Keeps s0 s) :
    Keeps s0 (pushOffsets s n off) := by
  unfold pushOffsets
  dsimp only
  repeat' (first | assumption | apply keeps_setPti | apply keeps_setPort | apply Keeps.foldl | (intro _ _ _) | split
                   | refine Keeps.lit (FlashKeeps.refl _) ?_ ?_ ?_ ?_ | exact id)

theorem keeps_servoUpdate {s0 : State} {n : ℕ} {a b m : Option ℤ} {s : State} (hk : Keeps s0 s) :
    KeepsO s0 (servoUpdate n a b m s) := by
  unfold servoUpdate
  dsimp only
  repeat' (first | with_reducible assumption | with_reducible apply Keeps.next | with_reducible apply Keeps.ite
                   | with_reducible apply KeepsO.ite | with_reducible apply keeps_pathCompare
                   | with_reducible apply keeps_pushOffsets | with_reducible apply keeps_setFld
                   | with_reducible apply keeps_setPti | with_reducible apply keeps_servoTake | split
                   | with_reducible refine Keeps.lit (FlashKeeps.refl _) ?_ ?_ ?_ ?_ | exact id)

theorem keeps_freezeHoldExpiry {s0 : State} {n : ℕ} {s : State} (hk : Keeps s0 s) :
    KeepsO s0 (freezeHoldExpiry n s) := by
  unfold freezeHoldExpiry
  dsimp only
  repeat' (first | assumption | apply Keeps.next | apply Keeps.ite | apply KeepsO.ite | apply keeps_setPti
                   | apply keeps_setFld)

theorem keeps_asymBothTimeout {s0 : State} {n : ℕ} {s : State} (hk : Keeps s0 s) :
    KeepsO s0 (asymBothTimeout n s) := by
  unfold asymBothTimeout
  dsimp only
  repeat' (first | with_reducible assumption | with_reducible apply Keeps.next | with_reducible apply Keeps.ite
                   | with_reducible apply KeepsO.ite | with_reducible apply keeps_setPort
                   | with_reducible apply keeps_setPti | with_reducible apply keeps_setFlds)

theorem keeps_execSuspectClear {s0 : State} {n : ℕ} {s : State} (hk : Keeps s0 s) :
    KeepsO s0 (execSuspectClear n s) := by
  unfold execSuspectClear
  repeat' (first | assumption | apply Keeps.next | apply Keeps.ite | apply KeepsO.ite | apply keeps_setFlds)

theorem keeps_execDelayMeasurement {s0 : State} {n x : ℕ} {delay : ℤ} {s : State} (hk : Keeps s0 s) :
    KeepsO s0 (execDelayMeasurement n x delay s) := by
  unfold execDelayMeasurement
  dsimp only
  repeat' (first | assumption | apply Keeps.next | apply Keeps.ite | apply KeepsO.ite | apply keeps_netStampTx
                   | apply keeps_emit | apply keeps_setFld | apply keeps_setPti | apply keeps_setPort)

theorem keeps_ptpMessageRx {s0 : State} {n x : ℕ} {exchange : Bool} {s : State} (hk : Keeps s0 s) :
    KeepsO s0 (ptpMessageRx n x exchange s) := by
  unfold ptpMessageRx
  dsimp only
  repeat' (first | assumption | apply Keeps.next | apply Keeps.ite | apply KeepsO.ite | apply keeps_setPti
                   | apply keeps_setPort)

theorem keeps_takeMaster {s0 s : State} {n x : ℕ} {cand : List ℕ} (hk : Keeps s0 s) :
    Keeps s0 (takeMaster s n x cand) := by
  unfold takeMaster
  dsimp only
  repeat' (first | with_reducible assumption | with_reducible apply Keeps.ite | with_reducible apply keeps_setPort
                   | with_reducible apply keeps_setPti | with_reducible apply keeps_lockCheck
                   | with_reducible apply keeps_setFld | with_reducible refine Keeps.lit (FlashKeeps.refl _) ?_ ?_ ?_ ?_
                   | exact id | (exact fun _ => rfl))

theorem keeps_chooseMaster {s0 s : State} {n x : ℕ} {cand : List ℕ} (hk : Keeps s0 s) :
    Keeps s0 (chooseMaster s n x cand) := by
  unfold chooseMaster
  dsimp only
  repeat' (first | with_reducible assumption | with_reducible apply Keeps.ite | with_reducible apply keeps_takeMaster
                   | with_reducible apply keeps_setPort | with_reducible apply keeps_setPti | split
                   | with_reducible refine Keeps.lit (FlashKeeps.refl _) ?_ ?_ ?_ ?_ | exact id)

theorem keeps_announceRx {s0 : State} {n x : ℕ} {ds : List ℕ} {gm steps : ℕ} {s : State} (hk : Keeps s0 s) :
    KeepsO s0 (announceRx n x ds gm steps s) := by
  unfold announceRx
  dsimp only
  repeat' (first | with_reducible assumption | with_reducible apply Keeps.next | with_reducible apply Keeps.ite
                   | with_reducible apply KeepsO.ite | with_reducible apply keeps_lockCheck
                   | with_reducible apply keeps_setPort | with_reducible apply keeps_chooseMaster
                   | with_reducible apply keeps_setPti | with_reducible refine Keeps.lit (FlashKeeps.refl _) ?_ ?_ ?_ ?_
                   | exact id | (exact fun _ => rfl))

theorem keeps_announceTimeout {s0 : State} {n x : ℕ} {s : State} (hk : Keeps s0 s) :
    KeepsO s0 (announceTimeout n x s) := by
  unfold announceTimeout
  dsimp only
  repeat' (first | with_reducible assumption | with_reducible apply Keeps.next | with_reducible apply Keeps.ite
                   | with_reducible apply KeepsO.ite | with_reducible apply keeps_portLost
                   | with_reducible apply keeps_setFld | with_reducible apply keeps_setPort
                   | with_reducible refine Keeps.lit (FlashKeeps.refl _) ?_ ?_ ?_ ?_ | exact id)

theorem keeps_faultyRecover {s0 : State} {n x : ℕ} {s : State} (hk : Keeps s0 s) :
    KeepsO s0 (faultyRecover n x s) := by
  unfold faultyRecover
  repeat' (first | assumption | apply Keeps.next | apply Keeps.ite | apply KeepsO.ite | apply keeps_setPort)

theorem keeps_execPtpSyncTx {s0 : State} {n x : ℕ} {s : State} (hk : Keeps s0 s) :
    KeepsO s0 (execPtpSyncTx n x s) := by
  unfold execPtpSyncTx
  dsimp only
  repeat' (first | assumption | apply Keeps.next | apply Keeps.ite | apply KeepsO.ite | apply keeps_netStampTx
                   | apply keeps_emit | apply keeps_setPti | apply keeps_setPort)

theorem keeps_wclkSteer {s0 s : State} (hk : Keeps s0 s) :
    Keeps s0 (wclkSteer s) := by
  unfold wclkSteer
  dsimp only
  repeat' (first | assumption | apply Keeps.ite | apply keeps_setAddend | apply Keeps.foldl | (intro _ _ _))

theorem keeps_execWclkInQualified {s0 : State} {rate period : ℕ} {s : State} (hk : Keeps s0 s) :
    KeepsO s0 (execWclkInQualified rate period s) := by
  unfold execWclkInQualified
  repeat' (first | assumption | apply Keeps.next | apply keeps_wclkSteer | apply keeps_wclkQualify)

theorem keeps_ppsEdge {s0 s : State} {n : ℕ} (hk : Keeps s0 s) :
    Keeps s0 (ppsEdge s n) := by
  unfold ppsEdge
  dsimp only
  repeat' (first | with_reducible assumption | with_reducible apply Keeps.ite | with_reducible apply keeps_ptiStep
                   | with_reducible apply keeps_setPti | with_reducible apply keeps_servoAddend
                   | with_reducible apply keeps_lockRuns)

theorem keeps_ppsInEdge {s0 : State} {falling : Bool} {s : State} (hk : Keeps s0 s) :
    KeepsO s0 (ppsInEdge falling s) := by
  unfold ppsInEdge
  dsimp only
  repeat' (first | with_reducible assumption | with_reducible apply Keeps.next | with_reducible apply Keeps.ite
                   | with_reducible apply KeepsO.ite | with_reducible apply keeps_setFld
                   | with_reducible apply keeps_ppsEdge | with_reducible apply Keeps.foldl | (intro _ _ _)
                   | with_reducible refine Keeps.lit (FlashKeeps.refl _) ?_ ?_ ?_ ?_ | exact id)

theorem keeps_execPpsOutPulse {s0 s : State} (hk : Keeps s0 s) :
    KeepsO s0 (execPpsOutPulse s) := by
  unfold execPpsOutPulse
  repeat' (first | assumption | apply Keeps.next | apply Keeps.ite | apply KeepsO.ite | apply keeps_emit)

theorem keeps_execPtmDialogue {s0 : State} {done : Bool} {root : ℕ} {s : State} (hk : Keeps s0 s) :
    KeepsO s0 (execPtmDialogue done root s) := by
  unfold execPtmDialogue
  dsimp only
  repeat' (first | assumption | apply Keeps.next | apply Keeps.ite | apply KeepsO.ite | apply keeps_setFld
                   | refine Keeps.lit (FlashKeeps.refl _) ?_ ?_ ?_ ?_ | exact id)

theorem keeps_plCfgWrite {s0 s : State} {k : ℕ} {v : Word} (hk : Keeps s0 s) :
    Keeps s0 (plCfgWrite s k v) := by
  unfold plCfgWrite
  dsimp only
  repeat' (first | assumption | apply Keeps.ite | apply keeps_wr | apply keeps_setFld | apply keeps_setPl)

theorem keeps_plTimeWrite {s0 s : State} {k key : ℕ} {v : Word} (hk : Keeps s0 s) :
    Keeps s0 (plTimeWrite s k key v) := by
  unfold plTimeWrite
  dsimp only
  repeat' (first | assumption | apply keeps_setPl | apply keeps_wr)

theorem keeps_execPlatenCaptureEdge {s0 : State} {src : ℕ} {falling : Bool} {s : State} (hk : Keeps s0 s) :
    KeepsO s0 (execPlatenCaptureEdge src falling s) := by
  unfold execPlatenCaptureEdge
  dsimp only
  repeat' (first | with_reducible assumption | with_reducible apply Keeps.next | with_reducible apply Keeps.ite
                   | with_reducible apply KeepsO.ite | with_reducible apply keeps_capture
                   | with_reducible apply keeps_setFld | with_reducible apply keeps_setPl
                   | with_reducible apply Keeps.foldl | (intro _ _ _) | split)

theorem keeps_plRelease {s0 s : State} {k : ℕ} (hk : Keeps s0 s) :
    Keeps s0 (plRelease s k) := by
  unfold plRelease
  repeat' (first | assumption | apply keeps_setPl | apply keeps_capture | apply keeps_setFld)

theorem keeps_timeHandover {s0 s : State} (hk : Keeps s0 s) :
    Keeps s0 (timeHandover s) := by
  unfold timeHandover
  dsimp only
  repeat' (first | assumption | apply Keeps.ite | refine Keeps.lit (FlashKeeps.refl _) ?_ ?_ ?_ ?_ | exact id)

theorem keeps_slowTick {s0 s : State} (hk : Keeps s0 s) :
    Keeps s0 (slowTick s) := by
  unfold slowTick
  dsimp only
  repeat' (first | assumption | apply Keeps.ite | refine Keeps.lit (FlashKeeps.refl _) ?_ ?_ ?_ ?_ | exact id)

theorem keeps_execTrimWindowEnd {s0 : State} {ppb : ℤ} {s : State} (hk : Keeps s0 s) :
    KeepsO s0 (execTrimWindowEnd ppb s) := by
  unfold execTrimWindowEnd
  dsimp only
  repeat' (first | assumption | apply Keeps.next | apply Keeps.ite | apply KeepsO.ite | apply keeps_setFld
                   | apply keeps_timeHandover | refine Keeps.lit (FlashKeeps.refl _) ?_ ?_ ?_ ?_ | exact id)

theorem keeps_timeHandback {s0 s : State} (hk : Keeps s0 s) :
    KeepsO s0 (timeHandback s) := by
  unfold timeHandback
  dsimp only
  repeat' (first | with_reducible assumption | with_reducible apply Keeps.next | with_reducible apply Keeps.ite
                   | with_reducible apply KeepsO.ite | with_reducible apply keeps_ptiStep
                   | with_reducible apply Keeps.foldl | (intro _ _ _)
                   | with_reducible refine Keeps.lit (FlashKeeps.refl _) ?_ ?_ ?_ ?_ | exact id)

end Sys2Proof.Machine
end

