-- ==== Sys2Proof/Laws/KeepsGalley.lean ====
section
/-! SUPPORT. Every definition of Machine/Galley.lean that answers a state keeps what Keeps names: the waiting commands,
the boot flash and the canonical form of the stores. -/

set_option linter.all false

namespace Sys2Proof.Machine

theorem keeps_setGq {s0 s : State} {q : ℕ} {x : GQueue} (hk : Keeps s0 s) :
    Keeps s0 (State.setGq s q x) := by
  unfold State.setGq
  repeat' (first | assumption | refine Keeps.lit (FlashKeeps.refl _) ?_ ?_ ?_ ?_ | exact id)

theorem keeps_galRefresh {s0 s : State} (hk : Keeps s0 s) :
    Keeps s0 (galRefresh s) := by
  unfold galRefresh
  repeat' (first | assumption | apply keeps_setFlag)

theorem keeps_takeCell {s0 s : State} {h : ℕ} (hk : Keeps s0 s) :
    Keeps s0 (takeCell s h).2 := by
  unfold takeCell
  dsimp only
  repeat' (first | assumption | apply keeps_fresh)

theorem keeps_storeMark {s0 s : State} {c : CellNo} {w : ℕ} (hk : Keeps s0 s) : Keeps s0 (storeMark s c w) := by
  unfold storeMark
  dsimp only
  split
  · exact Keeps.lit (s := s.setFld R.GAL.INJECT.ARM 0) (.refl _) id id id (keeps_setFld hk)
  · exact Keeps.lit (s := s) (.refl _) id id id hk

theorem keeps_spill {s0 s : State} {cells : List CellNo} {bytes : List Byte} (hk : Keeps s0 s) :
    Keeps s0 (spill s cells bytes) := by
  induction cells generalizing s bytes with
  | nil =>
    unfold spill
    try dsimp -zeta only
    repeat' (first
      | with_reducible assumption)
  | cons a l ih =>
    unfold spill
    try dsimp -zeta only
    repeat' (first
      | with_reducible apply ih | with_reducible assumption | with_reducible apply Keeps.ite | split
      | with_reducible refine Keeps.lit (FlashKeeps.refl _) ?_ ?_ ?_ ?_ | with_reducible exact id
      | with_reducible exact memWf_write _ _ _)

theorem keeps_spillElem {s0 s : State} {e : GElem} (hk : Keeps s0 s) :
    Keeps s0 (spillElem s e) := by
  unfold spillElem
  repeat' (first | assumption | apply keeps_spill)

theorem keeps_turnOn {s0 s : State} {q : ℕ} (hk : Keeps s0 s) :
    Keeps s0 (turnOn s q) := by
  unfold turnOn
  repeat' (first | assumption | apply Keeps.ite | refine Keeps.lit (FlashKeeps.refl _) ?_ ?_ ?_ ?_ | exact id)

theorem keeps_takeCells {s0 s : State} {q x1 : ℕ} (hk : Keeps s0 s) :
    Keeps s0 (takeCells s q x1).2 := by
  induction x1 generalizing s q with
  | zero =>
    unfold takeCells
    try dsimp -zeta only
    repeat' (first
      | (extract_lets +onlyGivenNames x; first
        | (have hx : Keeps s0 x := by
            repeat' (first
              | (extract_lets +onlyGivenNames y) | with_reducible assumption | with_reducible apply Keeps.ite
              | with_reducible apply Keeps.ite2 | with_reducible apply keeps_takeCell
              | with_reducible apply keeps_turnOn | (refine Keeps.of_snd (keeps_takeCell ?_) ‹_ = (_, _)›) | split
              | with_reducible refine Keeps.lit (FlashKeeps.refl _) ?_ ?_ ?_ ?_ | with_reducible exact id
              | with_reducible exact memWf_write _ _ _ | with_reducible exact sWf_drop _ _ _ | (intro _ hw; exact hw)
              | (intro _ hw; exact memWf_write _ _ _ hw) | exact fun _ => rfl | (intro _ _; rfl) | (intro _ _ hx)
              | (intro _ hx))
           clear_value x)
        | (have hx := List.length x; clear hx; clear_value x)
        | skip)
      | with_reducible assumption | with_reducible apply Keeps.ite | with_reducible apply Keeps.ite2
      | with_reducible apply keeps_takeCell | with_reducible apply keeps_turnOn
      | (refine Keeps.of_snd (keeps_takeCell ?_) ‹_ = (_, _)›) | split
      | with_reducible refine Keeps.lit (FlashKeeps.refl _) ?_ ?_ ?_ ?_ | with_reducible exact id
      | with_reducible exact memWf_write _ _ _ | with_reducible exact sWf_drop _ _ _ | (intro _ hw; exact hw)
      | (intro _ hw; exact memWf_write _ _ _ hw) | exact fun _ => rfl | (intro _ _; rfl) | (intro _ _ hx)
      | (intro _ hx))
  | succ n_ ih =>
    unfold takeCells
    try dsimp -zeta only
    repeat' (first
      | (extract_lets +onlyGivenNames x; first
        | (have hx : Keeps s0 x := by
            repeat' (first
              | (extract_lets +onlyGivenNames y) | with_reducible apply ih | with_reducible assumption
              | with_reducible apply Keeps.ite | with_reducible apply Keeps.ite2 | with_reducible apply keeps_takeCell
              | with_reducible apply keeps_turnOn | (refine Keeps.of_snd (keeps_takeCell ?_) ‹_ = (_, _)›) | split
              | with_reducible refine Keeps.lit (FlashKeeps.refl _) ?_ ?_ ?_ ?_ | with_reducible exact id
              | with_reducible exact memWf_write _ _ _ | with_reducible exact sWf_drop _ _ _ | (intro _ hw; exact hw)
              | (intro _ hw; exact memWf_write _ _ _ hw) | exact fun _ => rfl | (intro _ _; rfl) | (intro _ _ hx)
              | (intro _ hx))
           clear_value x)
        | (have hx := List.length x; clear hx; clear_value x)
        | skip)
      | with_reducible apply ih | with_reducible assumption | with_reducible apply Keeps.ite
      | with_reducible apply Keeps.ite2 | with_reducible apply keeps_takeCell | with_reducible apply keeps_turnOn
      | (refine Keeps.of_snd (keeps_takeCell ?_) ‹_ = (_, _)›) | split
      | with_reducible refine Keeps.lit (FlashKeeps.refl _) ?_ ?_ ?_ ?_ | with_reducible exact id
      | with_reducible exact memWf_write _ _ _ | with_reducible exact sWf_drop _ _ _ | (intro _ hw; exact hw)
      | (intro _ hw; exact memWf_write _ _ _ hw) | exact fun _ => rfl | (intro _ _; rfl) | (intro _ _ hx)
      | (intro _ hx))

theorem keeps_placeSlugIn {s0 s : State} {h q n folio ts reason : ℕ} {merged own : Bool} (hk : Keeps s0 s) :
    Keeps s0 (placeSlugIn s h q n folio ts reason merged own) := by
  unfold placeSlugIn
  dsimp only
  repeat' (first | assumption | apply keeps_takeCell | apply keeps_storeMark | apply keeps_setGq)

theorem keeps_placeSlug {s0 s : State} {q n folio ts reason : ℕ} {merged own : Bool} (hk : Keeps s0 s) :
    Keeps s0 (placeSlug s q n folio ts reason merged own) := by
  unfold placeSlug
  repeat' (first | assumption | apply Keeps.ite | apply keeps_placeSlugIn | apply keeps_turnOn
                   | refine Keeps.lit (FlashKeeps.refl _) ?_ ?_ ?_ ?_ | exact id)

theorem keeps_slugDrop {s0 s : State} {q folio ts reason : ℕ} (hk : Keeps s0 s) :
    Keeps s0 (slugDrop s q folio ts reason) := by
  unfold slugDrop
  dsimp only
  repeat' (first | with_reducible assumption | with_reducible apply Keeps.ite | with_reducible apply keeps_setGq
                   | with_reducible apply keeps_placeSlug | with_reducible apply keeps_count | split
                   | with_reducible refine Keeps.lit (FlashKeeps.refl _) ?_ ?_ ?_ ?_ | exact id)

theorem keeps_countDrops {s0 s : State} {q n : ℕ} (hk : Keeps s0 s) :
    Keeps s0 (countDrops s q n) := by
  unfold countDrops
  dsimp only
  repeat' (first | with_reducible assumption | with_reducible apply Keeps.ite | with_reducible apply keeps_countN
                   | with_reducible apply keeps_setFld | with_reducible apply keeps_countSatN)

theorem keeps_itemDrop {s0 s : State} {q folio ts reason : ℕ} (hk : Keeps s0 s) :
    Keeps s0 (itemDrop s q folio ts reason) := by
  unfold itemDrop
  repeat' (first | assumption | apply keeps_slugDrop | apply keeps_countDrops)

theorem keeps_galOpen {s0 s : State} {q kind : ℕ} {len : Option ℕ} {folio ts : ℕ} (hk : Keeps s0 s) :
    Keeps s0 (galOpen s q kind len folio ts) := by
  unfold galOpen
  dsimp only
  repeat' (first | assumption | apply Keeps.ite | apply keeps_setGq | apply keeps_itemDrop | apply keeps_takeCells
                   | split)

theorem keeps_swallowEnd {s0 s : State} {q : ℕ} (hk : Keeps s0 s) :
    Keeps s0 (swallowEnd s q) := by
  unfold swallowEnd
  dsimp only
  repeat' (first | assumption | apply Keeps.ite | apply keeps_setGq | refine Keeps.lit (FlashKeeps.refl _) ?_ ?_ ?_ ?_
                   | exact id)

theorem keeps_galWord {s0 s : State} {q : ℕ} {bs : List Byte} {last : Bool} (hk : Keeps s0 s) :
    Keeps s0 (galWord s q bs last) := by
  unfold galWord
  dsimp only
  repeat' (first | with_reducible assumption | with_reducible apply Keeps.ite | with_reducible apply keeps_swallowEnd
                   | with_reducible apply keeps_spill | with_reducible apply keeps_setGq
                   | with_reducible apply keeps_itemDrop | with_reducible apply keeps_takeCells
                   | with_reducible apply keeps_storeMark | split)

theorem keeps_galWords {s0 s : State} {q x1 : ℕ} {x2 : List Byte} (hk : Keeps s0 s) :
    Keeps s0 (galWords s q x1 x2) := by
  induction x1 generalizing s q x2 with
  | zero =>
    unfold galWords
    try dsimp -zeta only
    repeat' (first
      | with_reducible assumption)
  | succ n_ ih =>
    unfold galWords
    try dsimp -zeta only
    repeat' (first
      | with_reducible apply ih | with_reducible assumption | with_reducible apply Keeps.ite
      | with_reducible apply keeps_galWord)

theorem keeps_galPut {s0 s : State} {q kind : ℕ} {known : Bool} {folio ts : ℕ} {bs : List Byte} (hk : Keeps s0 s) :
    Keeps s0 (galPut s q kind known folio ts bs) := by
  unfold galPut
  dsimp only
  repeat' (first | assumption | apply Keeps.ite | apply keeps_galOpen | apply keeps_galWords)

theorem keeps_galCommit {s0 s : State} {q : ℕ} (hk : Keeps s0 s) :
    Keeps s0 (galCommit s q) := by
  unfold galCommit
  dsimp only
  repeat' (first | assumption | apply Keeps.ite | apply keeps_galRefresh | apply keeps_setGq)

theorem keeps_execItemOpen {s0 : State} {q kind : ℕ} {len : Option ℕ} {folio ts : ℕ} {s : State} (hk : Keeps s0 s) :
    KeepsO s0 (execItemOpen q kind len folio ts s) := by
  unfold execItemOpen
  repeat' (first | assumption | apply Keeps.next | apply keeps_galRefresh | apply keeps_galOpen)

theorem keeps_execItemWordWrite {s0 : State} {q : ℕ} {bs : List Byte} {last : Bool} {s : State} (hk : Keeps s0 s) :
    KeepsO s0 (execItemWordWrite q bs last s) := by
  unfold execItemWordWrite
  repeat' (first | assumption | apply Keeps.next | apply keeps_galRefresh | apply keeps_galWord)

theorem keeps_execCarriedSlugPlace {s0 : State} {q : ℕ} {s : State} (hk : Keeps s0 s) :
    KeepsO s0 (execCarriedSlugPlace q s) := by
  unfold execCarriedSlugPlace
  dsimp only
  repeat' (first | with_reducible assumption | with_reducible apply Keeps.next | with_reducible apply Keeps.ite
                   | with_reducible apply KeepsO.ite | with_reducible apply keeps_galRefresh
                   | with_reducible apply keeps_placeSlug | with_reducible apply keeps_count | split
                   | with_reducible refine Keeps.lit (FlashKeeps.refl _) ?_ ?_ ?_ ?_ | exact id)

theorem keeps_galRwnd {s0 s : State} {q : ℕ} (hk : Keeps s0 s) :
    Keeps s0 (galRwnd s q) := by
  unfold galRwnd
  dsimp only
  repeat' (first | assumption | apply Keeps.ite | apply keeps_count | apply keeps_setFld | apply keeps_galRefresh
                   | apply keeps_countSat)

theorem keeps_galRewind {s0 s : State} {q : ℕ} (hk : Keeps s0 s) :
    Keeps s0 (galRewind s q) := by
  unfold galRewind
  dsimp only
  repeat' (first | assumption | apply Keeps.ite | apply keeps_galRwnd | apply keeps_spill | apply keeps_setGq
                   | apply keeps_swallowEnd | split | refine Keeps.lit (FlashKeeps.refl _) ?_ ?_ ?_ ?_ | exact id)

theorem keeps_execItemRewind {s0 : State} {q : ℕ} {s : State} (hk : Keeps s0 s) :
    KeepsO s0 (execItemRewind q s) := by
  unfold execItemRewind
  repeat' (first | assumption | apply Keeps.next | apply keeps_galRewind)

theorem keeps_errLatch {s0 s : State} {kind w : ℕ} {c : CellNo} (hk : Keeps s0 s) :
    Keeps s0 (errLatch s kind w c) := by
  unfold errLatch
  repeat' (first | assumption | apply keeps_latchOnce)

theorem keeps_checkWord {s0 s : State} {c : CellNo} {w : ℕ} (hk : Keeps s0 s) :
    Keeps s0 (checkWord s c w).2 := by
  unfold checkWord
  dsimp only
  repeat' (first | with_reducible assumption | with_reducible apply Keeps.ite | with_reducible apply Keeps.ite2
                   | with_reducible apply keeps_setFld | with_reducible apply keeps_countSat
                   | with_reducible apply keeps_errLatch
                   | with_reducible refine Keeps.lit (FlashKeeps.refl _) ?_ ?_ ?_ ?_ | exact id)

theorem keeps_checkCells {s0 s : State} {base : ℕ} {x1 : List CellNo} (hk : Keeps s0 s) :
    Keeps s0 (checkCells s base x1).2 := by
  induction x1 generalizing s base with
  | nil =>
    unfold checkCells
    try dsimp -zeta only
    repeat' (first
      | with_reducible assumption)
  | cons a l ih =>
    unfold checkCells
    try dsimp -zeta only
    repeat' (first
      | (extract_lets +onlyGivenNames x; first
        | (have hx : Keeps s0 x := by
            repeat' (first
              | (extract_lets +onlyGivenNames y) | with_reducible apply ih | with_reducible assumption
              | with_reducible apply Keeps.ite | with_reducible apply Keeps.ite2
              | with_reducible apply keeps_checkWord | with_reducible apply Keeps.foldl
              | with_reducible apply Keeps.foldl_snd | with_reducible apply Keeps.foldl_fst
              | (refine Keeps.of_snd (keeps_checkWord ?_) ‹_ = (_, _)›) | split
              | with_reducible refine Keeps.lit (FlashKeeps.refl _) ?_ ?_ ?_ ?_ | with_reducible exact id
              | with_reducible exact memWf_write _ _ _ | with_reducible exact sWf_drop _ _ _ | (intro _ hw; exact hw)
              | (intro _ hw; exact memWf_write _ _ _ hw) | exact fun _ => rfl | (intro _ _; rfl) | (intro _ _ hx)
              | (intro _ hx))
           clear_value x)
        | (have hx := List.length x; clear hx; clear_value x)
        | skip)
      | with_reducible apply ih | with_reducible assumption | with_reducible apply Keeps.ite
      | with_reducible apply Keeps.ite2 | with_reducible apply keeps_checkWord | with_reducible apply Keeps.foldl
      | with_reducible apply Keeps.foldl_snd | with_reducible apply Keeps.foldl_fst
      | (refine Keeps.of_snd (keeps_checkWord ?_) ‹_ = (_, _)›) | split
      | with_reducible refine Keeps.lit (FlashKeeps.refl _) ?_ ?_ ?_ ?_ | with_reducible exact id
      | with_reducible exact memWf_write _ _ _ | with_reducible exact sWf_drop _ _ _ | (intro _ hw; exact hw)
      | (intro _ hw; exact memWf_write _ _ _ hw) | exact fun _ => rfl | (intro _ _; rfl) | (intro _ _ hx))

theorem keeps_dxEccCount {s0 s : State} {q : ℕ} {cells : List CellNo} (hk : Keeps s0 s) :
    Keeps s0 (dxEccCount s q cells) := by
  unfold dxEccCount
  dsimp only
  repeat' (first | with_reducible assumption | with_reducible apply Keeps.ite | with_reducible apply keeps_setDx
                   | with_reducible apply keeps_dxRaise)

theorem keeps_galPop {s0 s : State} {q : ℕ} (hk : Keeps s0 s) :
    Keeps s0 (galPop s q).2 := by
  unfold galPop
  dsimp only
  repeat' (first | with_reducible assumption | with_reducible apply Keeps.ite | with_reducible apply Keeps.ite2
                   | with_reducible apply keeps_checkCells | with_reducible apply keeps_dxEccCount
                   | with_reducible apply keeps_setGq | split)

theorem keeps_execQueuePop {s0 : State} {q : ℕ} {s : State} (hk : Keeps s0 s) :
    KeepsO s0 (execQueuePop q s) := by
  unfold execQueuePop
  dsimp only
  repeat' (first | assumption | apply Keeps.next | apply keeps_galPop | apply keeps_emit)

theorem keeps_execQueueMark {s0 : State} {q : ℕ} {s : State} (hk : Keeps s0 s) :
    KeepsO s0 (execQueueMark q s) := by
  unfold execQueueMark
  dsimp only
  repeat' (first | assumption | apply Keeps.next | apply keeps_setGq)

theorem keeps_galBack {s0 s : State} {q : ℕ} (hk : Keeps s0 s) :
    Keeps s0 (galBack s q).2 := by
  unfold galBack
  dsimp only
  repeat' (first | assumption | apply keeps_setGq | split)

theorem keeps_execQueueRewind {s0 : State} {q : ℕ} {s : State} (hk : Keeps s0 s) :
    KeepsO s0 (execQueueRewind q s) := by
  unfold execQueueRewind
  dsimp only
  repeat' (first | assumption | apply Keeps.next | apply keeps_galBack | apply keeps_emit)

theorem keeps_galFreeFirst {s0 s : State} {q n : ℕ} (hk : Keeps s0 s) :
    Keeps s0 (galFreeFirst s q n) := by
  unfold galFreeFirst
  dsimp only
  repeat' (first | assumption | apply Keeps.ite | apply keeps_spillElem | apply keeps_setGq | apply Keeps.foldl)

theorem keeps_galRelease {s0 s : State} {q : ℕ} {toMark : Bool} (hk : Keeps s0 s) :
    Keeps s0 (galRelease s q toMark) := by
  unfold galRelease
  dsimp only
  repeat' (first | assumption | apply Keeps.ite | apply keeps_galRefresh | apply keeps_galFreeFirst)

theorem keeps_execQueueRelease {s0 : State} {q : ℕ} {toMark : Bool} {s : State} (hk : Keeps s0 s) :
    KeepsO s0 (execQueueRelease q toMark s) := by
  unfold execQueueRelease
  repeat' (first | assumption | apply Keeps.next | apply keeps_galRelease)

theorem keeps_galDiscardIn {s0 s : State} {h q reason : ℕ} (hk : Keeps s0 s) :
    Keeps s0 (galDiscardIn s h q reason) := by
  unfold galDiscardIn
  dsimp only
  repeat' (first | with_reducible assumption | with_reducible apply Keeps.ite | with_reducible apply keeps_spillElem
                   | with_reducible apply keeps_setGq | with_reducible apply keeps_countDrops
                   | with_reducible apply keeps_placeSlugIn | with_reducible apply Keeps.foldl | (intro _ _ _) | split
                   | with_reducible refine Keeps.lit (FlashKeeps.refl _) ?_ ?_ ?_ ?_ | exact id | (exact fun _ => rfl))

theorem keeps_galDiscard {s0 s : State} {q reason : ℕ} (hk : Keeps s0 s) :
    Keeps s0 (galDiscard s q reason) := by
  unfold galDiscard
  repeat' (first | assumption | apply keeps_galDiscardIn | refine Keeps.lit (FlashKeeps.refl _) ?_ ?_ ?_ ?_ | exact id)

theorem keeps_flushStart {s0 s : State} {q : ℕ} (hk : Keeps s0 s) :
    Keeps s0 (flushStart s q) := by
  unfold flushStart
  dsimp only
  repeat' (first | with_reducible assumption | with_reducible apply Keeps.ite | with_reducible apply keeps_setFlds
                   | with_reducible apply keeps_galDiscard | with_reducible apply keeps_galRefresh
                   | with_reducible refine Keeps.lit (FlashKeeps.refl _) ?_ ?_ ?_ ?_ | exact id)

theorem keeps_execFlushStart {s0 : State} {q : ℕ} {s : State} (hk : Keeps s0 s) :
    KeepsO s0 (execFlushStart q s) := by
  unfold execFlushStart
  repeat' (first | assumption | apply Keeps.next | apply keeps_flushStart)

theorem keeps_flushDone {s0 s : State} (hk : Keeps s0 s) :
    Keeps s0 (flushDone s) := by
  unfold flushDone
  dsimp only
  repeat' (first | assumption | apply keeps_setFlds | refine Keeps.lit (FlashKeeps.refl _) ?_ ?_ ?_ ?_ | exact id)

theorem keeps_execFlushEnd {s0 s : State} (hk : Keeps s0 s) :
    KeepsO s0 (execFlushEnd s) := by
  unfold execFlushEnd
  repeat' (first | assumption | apply Keeps.next | apply Keeps.ite | apply KeepsO.ite | apply keeps_flushDone)

theorem keeps_execFlushForcedAbort {s0 s : State} (hk : Keeps s0 s) :
    KeepsO s0 (execFlushForcedAbort s) := by
  unfold execFlushForcedAbort
  dsimp only
  repeat' (first | with_reducible assumption | with_reducible apply Keeps.next | with_reducible apply Keeps.ite
                   | with_reducible apply KeepsO.ite | with_reducible apply keeps_setGq
                   | with_reducible apply keeps_flushDone | with_reducible apply keeps_setFld)

theorem keeps_execLinkParityError {s0 : State} {q j : ℕ} {s : State} (hk : Keeps s0 s) :
    KeepsO s0 (execLinkParityError q j s) := by
  unfold execLinkParityError
  dsimp only
  repeat' (first | with_reducible assumption | with_reducible apply Keeps.next | with_reducible apply Keeps.ite
                   | with_reducible apply KeepsO.ite | with_reducible apply keeps_setFld
                   | with_reducible apply keeps_countSat | with_reducible apply keeps_errLatch
                   | with_reducible apply keeps_galRefresh | with_reducible apply keeps_galDiscard
                   | with_reducible apply keeps_flushStart | split
                   | with_reducible refine Keeps.lit (FlashKeeps.refl _) ?_ ?_ ?_ ?_ | exact id)

theorem keeps_scrubPass {s0 s : State} (hk : Keeps s0 s) :
    Keeps s0 (scrubPass s) := by
  unfold scrubPass
  dsimp only
  repeat' (first | assumption | apply keeps_count | refine Keeps.lit (FlashKeeps.refl _) ?_ ?_ ?_ ?_ | exact id)

theorem keeps_patCell {s0 s : State} {pat : List Byte} {c : CellNo} (hk : Keeps s0 s) :
    Keeps s0 (patCell s pat c) := by
  unfold patCell
  repeat' (first | assumption | apply keeps_storeMark | apply Keeps.foldl | (intro _ _ _)
                   | refine Keeps.lit (FlashKeeps.refl _) ?_ ?_ ?_ ?_ | exact id | (exact memWf_write _ _ _))

theorem keeps_retireCell {s0 s : State} {c : CellNo} (hk : Keeps s0 s) :
    Keeps s0 (retireCell s c) := by
  unfold retireCell
  dsimp only
  repeat' (first | assumption | apply Keeps.ite | apply keeps_setFlds
                   | refine Keeps.lit (FlashKeeps.refl _) ?_ ?_ ?_ ?_ | exact id)

theorem keeps_execScrubCell {s0 : State} {fail : Bool} {s : State} (hk : Keeps s0 s) :
    KeepsO s0 (execScrubCell fail s) := by
  unfold execScrubCell
  dsimp only
  repeat' (first | with_reducible assumption | with_reducible apply Keeps.next | with_reducible apply Keeps.ite
                   | with_reducible apply KeepsO.ite | with_reducible apply keeps_galRefresh
                   | with_reducible apply keeps_scrubPass | with_reducible apply keeps_checkCells
                   | with_reducible apply keeps_fresh | with_reducible apply keeps_patCell
                   | with_reducible apply keeps_errLatch | with_reducible apply keeps_setFld
                   | with_reducible apply keeps_countSat | with_reducible apply keeps_retireCell | split
                   | with_reducible refine Keeps.lit (FlashKeeps.refl _) ?_ ?_ ?_ ?_ | exact id)

theorem keeps_execFreeListBuilt {s0 : State} {h : ℕ} {s : State} (hk : Keeps s0 s) :
    KeepsO s0 (execFreeListBuilt h s) := by
  unfold execFreeListBuilt
  dsimp only
  repeat' (first | assumption | apply Keeps.next | apply Keeps.ite | apply KeepsO.ite | apply keeps_setFld
                   | apply keeps_galRefresh | refine Keeps.lit (FlashKeeps.refl _) ?_ ?_ ?_ ?_ | exact id)

theorem keeps_qResWrite {s0 s : State} {q n : ℕ} (hk : Keeps s0 s) :
    Keeps s0 (qResWrite s q n) := by
  unfold qResWrite
  dsimp only
  repeat' (first | assumption | apply Keeps.ite | apply keeps_setFld)

theorem keeps_qCapWrite {s0 s : State} {q n : ℕ} (hk : Keeps s0 s) :
    Keeps s0 (qCapWrite s q n) := by
  unfold qCapWrite
  repeat' (first | assumption | apply Keeps.ite | apply keeps_setFld)

theorem keeps_qCfgWrite {s0 s : State} {q : ℕ} {be : Bool} {half : ℕ} (hk : Keeps s0 s) :
    Keeps s0 (qCfgWrite s q be half) := by
  unfold qCfgWrite
  dsimp only
  repeat' (first | with_reducible assumption | with_reducible apply Keeps.ite | with_reducible apply keeps_setFlag
                   | with_reducible apply keeps_galRefresh | with_reducible apply keeps_setFld)

theorem keeps_budgetWrite {s0 s : State} {k n : ℕ} (hk : Keeps s0 s) :
    Keeps s0 (budgetWrite s k n) := by
  unfold budgetWrite
  dsimp only
  repeat' (first | assumption | apply Keeps.ite | apply keeps_setFld)

theorem keeps_cellPoke {s0 s : State} {c : CellNo} {off : ℕ} {bs : List Byte} (hk : Keeps s0 s) :
    Keeps s0 (cellPoke s c off bs) := by
  unfold cellPoke
  dsimp only
  repeat' (first | assumption | apply Keeps.ite | split | refine Keeps.lit (FlashKeeps.refl _) ?_ ?_ ?_ ?_ | exact id
                   | (exact memWf_write _ _ _))

theorem keeps_execGalDiagAccess {s0 : State} {write : Bool} {addr data : ℕ} {s : State} (hk : Keeps s0 s) :
    KeepsO s0 (execGalDiagAccess write addr data s) := by
  unfold execGalDiagAccess
  dsimp only
  repeat' (first | with_reducible assumption | with_reducible apply Keeps.next | with_reducible apply Keeps.ite
                   | with_reducible apply KeepsO.ite | with_reducible apply keeps_emit
                   | with_reducible apply keeps_storeMark | with_reducible apply keeps_cellPoke)

theorem keeps_injectWrite {s0 s : State} {v : Word} (hk : Keeps s0 s) :
    Keeps s0 (injectWrite s v) := by
  unfold injectWrite
  dsimp only
  repeat' (first | assumption | apply Keeps.ite | apply keeps_setFlds | apply keeps_setFld)

theorem keeps_execGalInjectArm {s0 : State} {v : Word} {s : State} (hk : Keeps s0 s) :
    KeepsO s0 (execGalInjectArm v s) := by
  unfold execGalInjectArm
  repeat' (first | assumption | apply Keeps.next | apply keeps_injectWrite)

theorem keeps_protApply {s0 s : State} {h : ℕ} {v : Bool} (hk : Keeps s0 s) :
    Keeps s0 (protApply s h v) := by
  unfold protApply
  dsimp only
  repeat' (first | assumption | apply Keeps.ite | apply keeps_setFld)

theorem keeps_halfLost {s0 s : State} {h : ℕ} (hk : Keeps s0 s) :
    Keeps s0 (halfLost s h) := by
  unfold halfLost
  try dsimp -zeta only
  repeat' (first
    | with_reducible assumption | with_reducible apply Keeps.ite | split
    | with_reducible refine Keeps.lit (FlashKeeps.refl _) ?_ ?_ ?_ ?_ | with_reducible exact id
    | with_reducible exact memWf_write _ _ _ | with_reducible exact sWf_drop _ _ _)

theorem keeps_queueSleep {s0 s : State} {keep : ℕ → Bool} {q : ℕ} (hk : Keeps s0 s) :
    Keeps s0 (queueSleep s keep q) := by
  unfold queueSleep
  dsimp only
  repeat' (first | with_reducible assumption | with_reducible apply Keeps.ite | with_reducible apply keeps_spillElem
                   | with_reducible apply keeps_setGq | with_reducible apply keeps_galDiscardIn
                   | with_reducible apply Keeps.foldl | (intro _ _ _) | split
                   | with_reducible refine Keeps.lit (FlashKeeps.refl _) ?_ ?_ ?_ ?_ | exact id | (exact fun _ => rfl))

theorem keeps_galSleepR {s0 s : State} {keep : ℕ → Bool} (hk : Keeps s0 s) :
    Keeps s0 (galSleepR s keep) := by
  unfold galSleepR
  dsimp only
  repeat' (first | with_reducible assumption | with_reducible apply Keeps.ite | with_reducible apply keeps_queueSleep
                   | with_reducible apply keeps_halfLost | with_reducible apply Keeps.foldl | (intro _ _ _)
                   | with_reducible refine Keeps.lit (FlashKeeps.refl _) ?_ ?_ ?_ ?_ | exact id)

end Sys2Proof.Machine
end

