-- ==== Sys2Proof/Laws/KeepsImpo.lean ====
section
/-! SUPPORT. Every definition of Machine/Impo.lean that answers a state keeps what Keeps names: the waiting commands,
the boot flash and the canonical form of the stores. -/

set_option linter.all false

namespace Sys2Proof.Machine

theorem keeps_setImp {s0 s : State} {d : ℕ} {e : ImpEntry} (hk : Keeps s0 s) :
    Keeps s0 (State.setImp s d e) := by
  unfold State.setImp
  repeat' (first | assumption | refine Keeps.lit (FlashKeeps.refl _) ?_ ?_ ?_ ?_ | exact id)

theorem keeps_pushSort {s0 s : State} {src idx : ℕ} {w : Word} {t : Bool} (hk : Keeps s0 s) :
    Keeps s0 (pushSort s src idx w t) := by
  unfold pushSort
  repeat' (first | assumption | refine Keeps.lit (FlashKeeps.refl _) ?_ ?_ ?_ ?_ | exact id)

theorem keeps_impWrite {s0 s : State} {d : ℕ} {v : Word} (hk : Keeps s0 s) :
    Keeps s0 (impWrite s d v) := by
  unfold impWrite
  dsimp only
  repeat' (first | assumption | apply Keeps.ite | apply keeps_setImp | apply keeps_latchOnce | apply keeps_setFld
                   | apply keeps_countSat | split | refine Keeps.lit (FlashKeeps.refl _) ?_ ?_ ?_ ?_ | exact id)

theorem keeps_impCount {s0 s : State} (hk : Keeps s0 s) :
    Keeps s0 (impCount s) := by
  unfold impCount
  dsimp only
  repeat' (first | assumption | apply keeps_setFlds)

theorem keeps_holdCheck {s0 s : State} {d : ℕ} (hk : Keeps s0 s) :
    Keeps s0 (holdCheck s d) := by
  unfold holdCheck
  dsimp only
  repeat' (first | assumption | apply Keeps.ite | apply keeps_setImp | apply keeps_latchOnce | apply keeps_setFld
                   | apply keeps_countSat | refine Keeps.lit (FlashKeeps.refl _) ?_ ?_ ?_ ?_ | exact id)

theorem keeps_xdomHold {s0 s : State} (hk : Keeps s0 s) :
    Keeps s0 (xdomHold s) := by
  unfold xdomHold
  repeat' (first | assumption | apply keeps_impCount | apply keeps_holdCheck | apply Keeps.foldl)

theorem keeps_impTake {s0 s : State} {d k : ℕ} (hk : Keeps s0 s) :
    Keeps s0 (impTake s d k) := by
  unfold impTake
  dsimp only
  repeat' (first | assumption | apply keeps_setImp | apply keeps_impCount | apply keeps_holdCheck | split)

theorem keeps_pendRefresh {s0 s : State} (hk : Keeps s0 s) :
    Keeps s0 (pendRefresh s) := by
  unfold pendRefresh
  repeat' (first | assumption | apply Keeps.ite | apply keeps_setFld)

theorem keeps_setLane {s0 s : State} {n : ℕ} {l : Lane} (hk : Keeps s0 s) :
    Keeps s0 (State.setLane s n l) := by
  unfold State.setLane
  repeat' (first | assumption | refine Keeps.lit (FlashKeeps.refl _) ?_ ?_ ?_ ?_ | exact id)

theorem keeps_execImpositionTakeEffect {s0 : State} {d : ℕ} {s : State} (hk : Keeps s0 s) :
    KeepsO s0 (execImpositionTakeEffect d s) := by
  unfold execImpositionTakeEffect
  dsimp only
  repeat' (first | assumption | apply Keeps.next | apply Keeps.ite | apply KeepsO.ite | apply keeps_pendRefresh
                   | apply keeps_impTake)

theorem keeps_execTableCrcUpdate {s0 s : State} (hk : Keeps s0 s) :
    KeepsO s0 (execTableCrcUpdate s) := by
  unfold execTableCrcUpdate
  repeat' (first | assumption | apply Keeps.next | apply keeps_setFld)

theorem keeps_laneSettle {s0 s : State} {n : ℕ} (hk : Keeps s0 s) :
    Keeps s0 (laneSettle s n) := by
  unfold laneSettle
  dsimp only
  repeat' (first | assumption | apply Keeps.ite | apply keeps_setFlds | apply keeps_setLane)

theorem keeps_laneRuns {s0 s : State} {n : ℕ} {on : Bool} (hk : Keeps s0 s) :
    Keeps s0 (laneRuns s n on) := by
  unfold laneRuns
  dsimp only
  repeat' (first | assumption | apply Keeps.ite | apply keeps_setLane | split
                   | refine Keeps.lit (FlashKeeps.refl _) ?_ ?_ ?_ ?_ | exact id)

theorem keeps_laneGo {s0 s : State} {n st : ℕ} (hk : Keeps s0 s) :
    Keeps s0 (laneGo s n st) := by
  unfold laneGo
  dsimp only
  repeat' (first | with_reducible assumption | with_reducible apply Keeps.ite | with_reducible apply keeps_setFlds
                   | with_reducible apply keeps_laneRuns | with_reducible apply keeps_laneSettle
                   | with_reducible apply keeps_setFld | with_reducible refine Keeps.lit (FlashKeeps.refl _) ?_ ?_ ?_ ?_
                   | exact id)

theorem keeps_laneFollow {s0 s : State} {n : ℕ} (hk : Keeps s0 s) :
    Keeps s0 (laneFollow s n) := by
  unfold laneFollow
  dsimp only
  repeat' (first | with_reducible assumption | with_reducible apply Keeps.ite | with_reducible apply keeps_setFld
                   | with_reducible apply keeps_laneGo | with_reducible apply keeps_laneSettle
                   | with_reducible refine Keeps.lit (FlashKeeps.refl _) ?_ ?_ ?_ ?_ | exact id)

theorem keeps_lanesFollow {s0 s : State} (hk : Keeps s0 s) :
    Keeps s0 (lanesFollow s) := by
  unfold lanesFollow
  repeat' (first | assumption | apply keeps_laneFollow)

theorem keeps_laneApply {s0 s : State} {n : ℕ} {v : Word} (hk : Keeps s0 s) :
    Keeps s0 (laneApply s n v) := by
  unfold laneApply
  dsimp only
  repeat' (first | with_reducible assumption | with_reducible apply Keeps.ite | with_reducible apply keeps_wr
                   | with_reducible apply keeps_laneGo | with_reducible apply keeps_setFld
                   | with_reducible apply keeps_laneFollow | with_reducible apply keeps_xdomHold)

theorem keeps_execKrnTrackDone {s0 : State} {n : ℕ} {s : State} (hk : Keeps s0 s) :
    KeepsO s0 (execKrnTrackDone n s) := by
  unfold execKrnTrackDone
  repeat' (first | with_reducible assumption | with_reducible apply Keeps.next | with_reducible apply Keeps.ite
                   | with_reducible apply KeepsO.ite | with_reducible apply keeps_laneGo)

end Sys2Proof.Machine
end

