-- ==== Sys2Proof/Laws/KeepsTdm.lean ====
section
/-! SUPPORT. Every definition of Machine/Tdm.lean that answers a state keeps what Keeps names: the waiting commands,
the boot flash and the canonical form of the stores. -/

set_option linter.all false

namespace Sys2Proof.Machine

theorem keeps_setTdm {s0 s : State} {p : ℕ} {rx : Bool} {d : TdmDir} (hk : Keeps s0 s) :
    Keeps s0 (State.setTdm s p rx d) := by
  unfold State.setTdm
  repeat' (first | assumption | refine Keeps.lit (FlashKeeps.refl _) ?_ ?_ ?_ ?_ | exact id)

theorem keeps_capDrop {s0 s : State} {ks : List ℕ} (hk : Keeps s0 s) :
    Keeps s0 (capDrop s ks) := by
  unfold capDrop
  repeat' (first | assumption | refine Keeps.lit (FlashKeeps.refl _) ?_ ?_ ?_ ?_ | exact id)

theorem keeps_capApply {s0 s : State} {x1 : List ℕ} (hk : Keeps s0 s) :
    Keeps s0 (capApply s x1) := by
  induction x1 generalizing s with
  | nil =>
    unfold capApply
    try dsimp -zeta only
    repeat' (first
      | with_reducible assumption)
  | cons a l ih =>
    unfold capApply
    try dsimp -zeta only
    repeat' (first
      | with_reducible apply ih | with_reducible assumption | with_reducible apply Keeps.some
      | with_reducible apply KeepsP.none | with_reducible apply Keeps.ite | with_reducible apply keeps_capDrop
      | with_reducible apply keeps_wr | split)

theorem keeps_maskEntries {s0 s : State} {p : ℕ} {rx : Bool} {k : ℕ} (hk : Keeps s0 s) :
    Keeps s0 (maskEntries s p rx k) := by
  unfold maskEntries
  repeat' (first | assumption | apply Keeps.ite | apply keeps_impTake | apply Keeps.foldl | (intro _ _ _))

theorem keeps_maskApply {s0 s : State} {p : ℕ} {rx : Bool} {k : ℕ} (hk : Keeps s0 s) :
    Keeps s0 (maskApply s p rx k) := by
  unfold maskApply
  dsimp only
  repeat' (first | assumption | apply Keeps.ite | apply keeps_capApply | apply keeps_setTdm | apply keeps_setFld
                   | apply keeps_pendRefresh | apply keeps_maskEntries)

theorem keeps_oeRefresh {s0 s : State} (hk : Keeps s0 s) :
    Keeps s0 (oeRefresh s) := by
  unfold oeRefresh
  repeat' (first | assumption | apply keeps_setFlag)

theorem keeps_pinsReleased {s0 s : State} {p : ℕ} {rx off : Bool} (hk : Keeps s0 s) :
    Keeps s0 (pinsReleased s p rx off) := by
  unfold pinsReleased
  dsimp only
  repeat' (first | assumption | apply Keeps.ite | apply keeps_setFld)

theorem keeps_tdmGo {s0 s : State} {p : ℕ} {rx : Bool} {st : ℕ} (hk : Keeps s0 s) :
    Keeps s0 (tdmGo s p rx st) := by
  unfold tdmGo
  dsimp only
  repeat' (first | with_reducible assumption | with_reducible apply Keeps.ite | with_reducible apply keeps_setFlds
                   | with_reducible apply keeps_fresh | with_reducible apply keeps_event
                   | with_reducible apply keeps_pinsReleased | with_reducible apply keeps_dropUser
                   | with_reducible apply keeps_setTdm | with_reducible apply keeps_maskApply)

theorem keeps_cmdWrite {s0 s : State} {p : ℕ} {rx : Bool} {v : Word} (hk : Keeps s0 s) :
    Keeps s0 (cmdWrite s p rx v) := by
  unfold cmdWrite
  dsimp only
  repeat' (first | with_reducible assumption | with_reducible apply Keeps.ite | with_reducible apply keeps_tdmGo
                   | with_reducible apply keeps_setFld | with_reducible apply keeps_addUser)

theorem keeps_execTdmArmWrite {s0 : State} {p : ℕ} {rx arm : Bool} {s : State} (hk : Keeps s0 s) :
    KeepsO s0 (execTdmArmWrite p rx arm s) := by
  unfold execTdmArmWrite
  repeat' (first | with_reducible assumption | with_reducible apply Keeps.next | with_reducible apply Keeps.ite
                   | with_reducible apply KeepsO.ite | with_reducible apply keeps_cmdWrite)

theorem keeps_execTdmStopWrite {s0 : State} {p : ℕ} {rx : Bool} {s : State} (hk : Keeps s0 s) :
    KeepsO s0 (execTdmStopWrite p rx s) := by
  unfold execTdmStopWrite
  repeat' (first | assumption | apply Keeps.next | apply keeps_cmdWrite)

theorem keeps_tdmApply {s0 s : State} {p : ℕ} {rx : Bool} (hk : Keeps s0 s) :
    Keeps s0 (tdmApply s p rx) := by
  unfold tdmApply
  dsimp only
  repeat' (first | with_reducible assumption | with_reducible apply Keeps.ite | with_reducible apply keeps_capApply
                   | with_reducible apply keeps_tdmGo | with_reducible apply keeps_addUser
                   | with_reducible apply keeps_xdomHold | with_reducible apply keeps_maskApply
                   | with_reducible apply keeps_capDrop | with_reducible apply keeps_setFld | split)

theorem keeps_groupStart {s0 s : State} {g pti t : ℕ} (hk : Keeps s0 s) :
    Keeps s0 (groupStart s g pti t) := by
  unfold groupStart
  dsimp only
  repeat' (first | assumption | apply Keeps.ite | apply keeps_setTdm | apply keeps_setFld | apply Keeps.foldl
                   | (intro _ _ _) | split)

theorem keeps_execTdmStartInstant {s0 : State} {p : ℕ} {rx : Bool} {s : State} (hk : Keeps s0 s) :
    KeepsO s0 (execTdmStartInstant p rx s) := by
  unfold execTdmStartInstant
  repeat' (first | with_reducible assumption | with_reducible apply Keeps.next | with_reducible apply Keeps.ite
                   | with_reducible apply KeepsO.ite | with_reducible apply keeps_tdmGo | split)

theorem keeps_tdmCount {s0 s : State} {p i : ℕ} (hk : Keeps s0 s) :
    Keeps s0 (tdmCount s p i) := by
  unfold tdmCount
  repeat' (first | assumption | apply keeps_countSat)

theorem keeps_rxConceal {s0 s : State} {p k : ℕ} (hk : Keeps s0 s) :
    Keeps s0 (rxConceal s p k) := by
  unfold rxConceal
  dsimp only
  repeat' (first | assumption | apply keeps_pushSort | apply keeps_setTdm | apply Keeps.foldl | (intro _ _ _) | split)

theorem keeps_rxDeliver {s0 s : State} {p k : ℕ} {line : List ℕ} (hk : Keeps s0 s) :
    Keeps s0 (rxDeliver s p k line) := by
  unfold rxDeliver
  dsimp only
  repeat' (first | assumption | apply Keeps.ite | apply keeps_pushSort | apply keeps_setTdm | apply Keeps.foldl
                   | (intro _ _ _) | split | refine Keeps.lit (FlashKeeps.refl _) ?_ ?_ ?_ ?_ | exact id
                   | (exact fun _ => rfl))

theorem keeps_txSend {s0 s : State} {p k : ℕ} {data : Bool} (hk : Keeps s0 s) :
    Keeps s0 (txSend s p k data) := by
  unfold txSend
  dsimp only
  repeat' (first | assumption | apply Keeps.ite | apply keeps_setTdm | apply keeps_tdmCount | apply keeps_setFld
                   | apply keeps_emit)

theorem keeps_tdmLate {s0 s : State} {src k : ℕ} (hk : Keeps s0 s) :
    Keeps s0 (tdmLate s src k) := by
  unfold tdmLate
  dsimp only
  repeat' (first | with_reducible assumption | with_reducible apply Keeps.ite | with_reducible apply keeps_tdmCount
                   | with_reducible apply keeps_setFld | with_reducible apply Keeps.foldl | (intro _ _ _))

theorem keeps_starve {s0 s : State} {p x1 x2 : ℕ} (hk : Keeps s0 s) :
    Keeps s0 (starve s p x1 x2) := by
  induction x2 generalizing s p x1 with
  | zero =>
    unfold starve
    try dsimp -zeta only
    repeat' (first
      | with_reducible assumption)
  | succ n_ ih =>
    unfold starve
    try dsimp -zeta only
    repeat' (first
      | with_reducible apply ih | with_reducible assumption | with_reducible apply Keeps.ite
      | with_reducible apply keeps_tdmCount | with_reducible apply keeps_rxConceal | with_reducible apply keeps_setFld)

theorem keeps_stopAtEdge {s0 s : State} {p : ℕ} {rx : Bool} (hk : Keeps s0 s) :
    Keeps s0 (stopAtEdge s p rx) := by
  unfold stopAtEdge
  dsimp only
  repeat' (first | with_reducible assumption | with_reducible apply Keeps.ite | with_reducible apply keeps_setTdm
                   | with_reducible apply keeps_tdmGo | with_reducible refine Keeps.lit (FlashKeeps.refl _) ?_ ?_ ?_ ?_
                   | exact id)

theorem keeps_takeNext {s0 s : State} {p k : ℕ} (hk : Keeps s0 s) :
    Keeps s0 (takeNext s p k) := by
  unfold takeNext
  repeat' (first | assumption | apply keeps_setTdm)

theorem keeps_frameData {s0 s : State} {p : ℕ} {rx : Bool} {k : ℕ} {line : List ℕ} (hk : Keeps s0 s) :
    Keeps s0 (frameData s p rx k line) := by
  unfold frameData
  dsimp only
  repeat' (first | with_reducible assumption | with_reducible apply Keeps.ite | with_reducible apply keeps_stopAtEdge
                   | with_reducible apply keeps_tdmGo | with_reducible apply keeps_emit
                   | with_reducible apply keeps_rxDeliver | with_reducible apply keeps_takeNext
                   | with_reducible apply keeps_txSend | split
                   | with_reducible refine Keeps.lit (FlashKeeps.refl _) ?_ ?_ ?_ ?_ | exact id)

theorem keeps_frameMissing {s0 s : State} {p : ℕ} {rx : Bool} {k : ℕ} (hk : Keeps s0 s) :
    Keeps s0 (frameMissing s p rx k) := by
  unfold frameMissing
  dsimp only
  repeat' (first | with_reducible assumption | with_reducible apply Keeps.ite | with_reducible apply keeps_tdmCount
                   | with_reducible apply keeps_setFld | with_reducible apply keeps_rxConceal
                   | with_reducible apply keeps_stopAtEdge | with_reducible apply keeps_setTdm
                   | with_reducible refine Keeps.lit (FlashKeeps.refl _) ?_ ?_ ?_ ?_ | exact id)

theorem keeps_frameReturns {s0 s : State} {p : ℕ} {rx : Bool} {k : ℕ} {line : List ℕ} (hk : Keeps s0 s) :
    Keeps s0 (frameReturns s p rx k line) := by
  unfold frameReturns
  dsimp only
  repeat' (first | with_reducible assumption | with_reducible apply Keeps.ite | with_reducible apply keeps_setTdm
                   | with_reducible apply keeps_rxConceal | with_reducible apply keeps_takeNext
                   | with_reducible apply keeps_tdmGo | with_reducible apply keeps_frameData
                   | with_reducible refine Keeps.lit (FlashKeeps.refl _) ?_ ?_ ?_ ?_ | exact id)

theorem keeps_tdmFrame {s0 s : State} {p : ℕ} {rx maskReady : Bool} {len high : ℕ} {line : List ℕ} (hk : Keeps s0 s) :
    Keeps s0 (tdmFrame s p rx maskReady len high line) := by
  unfold tdmFrame
  try dsimp -zeta only
  repeat' (first
    | (extract_lets +onlyGivenNames x; first
      | (have hx : Keeps s0 x := by
          repeat' (first
            | (extract_lets +onlyGivenNames y) | with_reducible assumption | with_reducible apply Keeps.some
            | with_reducible apply KeepsP.none | with_reducible apply Keeps.ite | with_reducible apply keeps_setFlds
            | with_reducible apply keeps_maskApply | with_reducible apply keeps_pendRefresh
            | with_reducible apply keeps_frameMissing | with_reducible apply keeps_setFld
            | with_reducible apply keeps_tdmCount | with_reducible apply keeps_setTdm
            | with_reducible apply keeps_frameReturns | with_reducible apply keeps_stopAtEdge
            | with_reducible apply keeps_starve | with_reducible apply keeps_frameData | split
            | with_reducible refine Keeps.lit (FlashKeeps.refl _) ?_ ?_ ?_ ?_ | with_reducible exact id
            | with_reducible exact memWf_write _ _ _ | with_reducible exact sWf_drop _ _ _ | (intro _ hw; exact hw)
            | (intro _ hw; exact memWf_write _ _ _ hw) | exact fun _ => rfl | (intro _ _; rfl) | (intro _ _ hx)
            | (intro _ hx))
         clear_value x)
      | (have hx := List.length x; clear hx; clear_value x)
      | skip)
    | with_reducible assumption | with_reducible apply Keeps.some | with_reducible apply KeepsP.none
    | with_reducible apply Keeps.ite | with_reducible apply keeps_setFlds | with_reducible apply keeps_maskApply
    | with_reducible apply keeps_pendRefresh | with_reducible apply keeps_frameMissing
    | with_reducible apply keeps_setFld | with_reducible apply keeps_tdmCount | with_reducible apply keeps_setTdm
    | with_reducible apply keeps_frameReturns | with_reducible apply keeps_stopAtEdge
    | with_reducible apply keeps_starve | with_reducible apply keeps_frameData | split
    | with_reducible refine Keeps.lit (FlashKeeps.refl _) ?_ ?_ ?_ ?_ | with_reducible exact id
    | with_reducible exact memWf_write _ _ _ | with_reducible exact sWf_drop _ _ _ | (intro _ hw; exact hw)
    | (intro _ hw; exact memWf_write _ _ _ hw) | exact fun _ => rfl | (intro _ _; rfl) | (intro _ _ hx) | (intro _ hx))

theorem keeps_execTdmClockLost {s0 : State} {p : ℕ} {rx : Bool} {s : State} (hk : Keeps s0 s) :
    KeepsO s0 (execTdmClockLost p rx s) := by
  unfold execTdmClockLost
  dsimp only
  repeat' (first | with_reducible assumption | with_reducible apply Keeps.next | with_reducible apply Keeps.ite
                   | with_reducible apply KeepsO.ite | with_reducible apply keeps_tdmGo
                   | with_reducible apply keeps_setFld | with_reducible apply keeps_setTdm)

theorem keeps_execTdmLeadOutEnd {s0 : State} {p : ℕ} {rx : Bool} {s : State} (hk : Keeps s0 s) :
    KeepsO s0 (execTdmLeadOutEnd p rx s) := by
  unfold execTdmLeadOutEnd
  repeat' (first | with_reducible assumption | with_reducible apply Keeps.next | with_reducible apply Keeps.ite
                   | with_reducible apply KeepsO.ite | with_reducible apply keeps_tdmGo)

theorem keeps_tdmPowerOff {s0 s : State} {high : Bool} (hk : Keeps s0 s) :
    Keeps s0 (tdmPowerOff s high) := by
  unfold tdmPowerOff
  dsimp only
  repeat' (first | with_reducible assumption | with_reducible apply Keeps.ite | with_reducible apply keeps_tdmGo
                   | with_reducible apply Keeps.foldl | (intro _ _ _))

end Sys2Proof.Machine
end

