-- ==== Sys2Proof/Laws/KeepsLine.lean ====
section
/-! SUPPORT. Every definition of Machine/Line.lean that answers a state keeps what Keeps names: the waiting commands,
the boot flash and the canonical form of the stores. -/

set_option linter.all false

namespace Sys2Proof.Machine

theorem keeps_grdCount {s0 s : State} {i : ℕ} (hk : Keeps s0 s) :
    Keeps s0 (grdCount s i) := by
  unfold grdCount
  dsimp only
  repeat' (first | with_reducible assumption | with_reducible apply Keeps.ite | with_reducible apply keeps_countSat)

theorem keeps_grdLast {s0 s : State} {cls idx pin kind : ℕ} (hk : Keeps s0 s) :
    Keeps s0 (grdLast s cls idx pin kind) := by
  unfold grdLast
  repeat' (first | assumption | apply keeps_latchOnce)

theorem keeps_setBitOf {s0 s : State} {f : Fld} {i : ℕ} {b : Bool} (hk : Keeps s0 s) :
    Keeps s0 (setBitOf s f i b) := by
  unfold setBitOf
  repeat' (first | assumption | apply keeps_setFld)

theorem keeps_tdmDetect {s0 s : State} {n pin kind : ℕ} {cause : Fld} (hk : Keeps s0 s) :
    Keeps s0 (tdmDetect s n pin kind cause) := by
  unfold tdmDetect
  repeat' (first | assumption | apply keeps_grdLast | apply keeps_grdCount | apply keeps_setBitOf)

theorem keeps_laneDetect {s0 s : State} {lane kind : ℕ} (hk : Keeps s0 s) :
    Keeps s0 (laneDetect s lane kind) := by
  unfold laneDetect
  repeat' (first | with_reducible assumption | with_reducible apply Keeps.ite | with_reducible apply keeps_grdLast
                   | with_reducible apply keeps_grdCount | with_reducible apply keeps_setFld)

theorem keeps_tioDetect {s0 s : State} {pin kind : ℕ} (hk : Keeps s0 s) :
    Keeps s0 (tioDetect s pin kind) := by
  unfold tioDetect
  repeat' (first | with_reducible assumption | with_reducible apply Keeps.ite | with_reducible apply keeps_grdLast
                   | with_reducible apply keeps_grdCount | with_reducible apply keeps_setFld)

theorem keeps_tripEvent {s0 s : State} {cls idx : ℕ} (hk : Keeps s0 s) :
    Keeps s0 (tripEvent s cls idx) := by
  unfold tripEvent
  dsimp only
  repeat' (first | with_reducible assumption | with_reducible apply Keeps.ite | with_reducible apply keeps_event)

theorem keeps_lanePolarity {s0 s : State} {lane : ℕ} {inv : Bool} (hk : Keeps s0 s) :
    Keeps s0 (lanePolarity s lane inv) := by
  unfold lanePolarity
  dsimp only
  repeat' (first | with_reducible assumption | with_reducible apply Keeps.ite | with_reducible apply keeps_setBitOf
                   | with_reducible apply keeps_laneDetect
                   | with_reducible refine Keeps.lit (FlashKeeps.refl _) ?_ ?_ ?_ ?_ | exact id)

theorem keeps_laneSwap {s0 s : State} {l : ℕ} {swapped : Bool} (hk : Keeps s0 s) :
    Keeps s0 (laneSwap s l swapped) := by
  unfold laneSwap
  dsimp only
  repeat' (first | with_reducible assumption | with_reducible apply Keeps.ite | with_reducible apply keeps_setFlag
                   | with_reducible apply keeps_laneDetect)

theorem keeps_laneMiswire {s0 s : State} {l : ℕ} {refused : Bool} (hk : Keeps s0 s) :
    Keeps s0 (laneMiswire s l refused) := by
  unfold laneMiswire
  dsimp only
  repeat' (first | with_reducible assumption | with_reducible apply Keeps.ite | with_reducible apply keeps_setFlag
                   | with_reducible apply keeps_laneDetect)

end Sys2Proof.Machine
end

