-- ==== Sys2Proof/Laws/KeepsCapture.lean ====
section
/-! SUPPORT. Every definition of Machine/Capture.lean that answers a state keeps what Keeps names: the waiting commands,
the boot flash and the canonical form of the stores. -/

set_option linter.all false

namespace Sys2Proof.Machine

theorem keeps_captureTable {s0 s : State} {caps : List Cap} (hk : Keeps s0 s) :
    Keeps s0 (captureTable s caps) := by
  unfold captureTable
  dsimp only
  repeat' (first | assumption | apply Keeps.ite | apply keeps_setImp | apply Keeps.foldl | (intro _ _ _))

theorem keeps_marksSettle {s0 s : State} (hk : Keeps s0 s) :
    Keeps s0 (marksSettle s) := by
  unfold marksSettle
  repeat' (first | assumption | apply Keeps.ite | apply keeps_pendRefresh
                   | refine Keeps.lit (FlashKeeps.refl _) ?_ ?_ ?_ ?_ | exact id)

theorem keeps_captureAt {s0 s : State} {groups : ℕ} {time : ℕ → ℕ × ℕ} (hk : Keeps s0 s) :
    Keeps s0 (captureAt s groups time) := by
  unfold captureAt
  dsimp only
  repeat' (first | with_reducible assumption | with_reducible apply Keeps.ite | with_reducible apply keeps_crcHold
                   | with_reducible apply keeps_captureTable | with_reducible apply keeps_clkApply
                   | with_reducible apply keeps_timeApply | with_reducible apply keeps_pendRefresh
                   | with_reducible apply Keeps.foldl | (intro _ _ _)
                   | with_reducible refine Keeps.lit (FlashKeeps.refl _) ?_ ?_ ?_ ?_ | exact id)

theorem keeps_capture {s0 s : State} {groups : ℕ} (hk : Keeps s0 s) :
    Keeps s0 (capture s groups) := by
  unfold capture
  repeat' (first | assumption | apply keeps_captureAt)

end Sys2Proof.Machine
end

