-- ==== Sys2Proof/Laws/KeepsNetRx.lean ====
section
/-! SUPPORT. Every definition of Machine/NetRx.lean that answers a state keeps what Keeps names: the waiting commands,
the boot flash and the canonical form of the stores. -/

set_option linter.all false

namespace Sys2Proof.Machine

theorem keeps_setFlow {s0 s : State} {f : ℕ} {x : RxFlow} (hk : Keeps s0 s) :
    Keeps s0 (State.setFlow s f x) := by
  unfold State.setFlow
  repeat' (first | assumption | refine Keeps.lit (FlashKeeps.refl _) ?_ ?_ ?_ ?_ | exact id)

theorem keeps_netCount {s0 s : State} {p i : ℕ} (hk : Keeps s0 s) :
    Keeps s0 (netCount s p i) := by
  unfold netCount
  dsimp only
  repeat' (first | assumption | apply Keeps.ite | apply keeps_setFld)

theorem keeps_rxCount {s0 s : State} {f i : ℕ} {ev : List Fld} (hk : Keeps s0 s) :
    Keeps s0 (rxCount s f i ev) := by
  unfold rxCount
  repeat' (first | assumption | apply keeps_raise | apply keeps_countSat)

theorem keeps_redCount {s0 s : State} {f i : ℕ} (hk : Keeps s0 s) :
    Keeps s0 (redCount s f i) := by
  unfold redCount
  repeat' (first | assumption | apply keeps_countSat)

theorem keeps_setKey {s0 s : State} {i w : ℕ} {v : Word} (hk : Keeps s0 s) :
    Keeps s0 (State.setKey s i w v) := by
  unfold State.setKey
  repeat' (first | assumption | refine Keeps.lit (FlashKeeps.refl _) ?_ ?_ ?_ ?_ | exact id)

theorem keeps_keyWrite {s0 s : State} {i w : ℕ} {v : Word} (hk : Keeps s0 s) :
    Keeps s0 (keyWrite s i w v) := by
  unfold keyWrite
  dsimp only
  repeat' (first | assumption | apply Keeps.ite | apply keeps_refuse | apply keeps_setFld | apply keeps_latchOnce
                   | apply keeps_setKey | refine Keeps.lit (FlashKeeps.refl _) ?_ ?_ ?_ ?_ | exact id)

theorem keeps_takeMargin {s0 s : State} {f : ℕ} {m : ℤ} {late : Bool} (hk : Keeps s0 s) :
    Keeps s0 (takeMargin s f m late) := by
  unfold takeMargin
  dsimp only
  repeat' (first | assumption | apply Keeps.ite | apply keeps_setFld | apply keeps_count | apply keeps_setFlow | split)

theorem keeps_copyMargin {s0 s : State} {f path k : ℕ} {m : ℤ} {late : Bool} (hk : Keeps s0 s) :
    Keeps s0 (copyMargin s f path k m late) := by
  unfold copyMargin
  dsimp only
  repeat' (first | assumption | apply Keeps.ite | apply keeps_setFld | apply keeps_setFlow | apply keeps_takeMargin)

theorem keeps_rxLate {s0 s : State} {f path k : ℕ} {m : ℤ} (hk : Keeps s0 s) :
    Keeps s0 (rxLate s f path k m) := by
  unfold rxLate
  dsimp only
  repeat' (first | with_reducible assumption | with_reducible apply keeps_rxCount
                   | with_reducible apply keeps_copyMargin | with_reducible apply keeps_setFlow)

theorem keeps_crfTake {s0 s : State} {f : ℕ} {b : List Byte} (hk : Keeps s0 s) :
    Keeps s0 (crfTake s f b) := by
  unfold crfTake
  dsimp only
  repeat' (first | with_reducible assumption | with_reducible apply Keeps.ite | with_reducible apply keeps_refFalls
                   | with_reducible apply keeps_setFlow
                   | with_reducible refine Keeps.lit (FlashKeeps.refl _) ?_ ?_ ?_ ?_ | exact id)

theorem keeps_rxRewind {s0 s : State} {f path i : ℕ} {ev : List Fld} (hk : Keeps s0 s) :
    Keeps s0 (rxRewind s f path i ev) := by
  unfold rxRewind
  repeat' (first | assumption | apply keeps_galRwnd | apply keeps_rxCount)

theorem keeps_rxOdd {s0 s : State} {f path k i : ℕ} {ev : List Fld} (hk : Keeps s0 s) :
    Keeps s0 (rxOdd s f path k i ev) := by
  unfold rxOdd
  dsimp only
  repeat' (first | with_reducible assumption | with_reducible apply keeps_rxRewind
                   | with_reducible apply keeps_setFlow
                   | with_reducible refine Keeps.lit (FlashKeeps.refl _) ?_ ?_ ?_ ?_ | exact id)

theorem keeps_rxPacket {s0 s : State} {f port : ℕ} {h : NetHdr} (hk : Keeps s0 s) :
    Keeps s0 (rxPacket s f port h) := by
  unfold rxPacket
  dsimp only
  repeat' (first | with_reducible assumption | with_reducible apply Keeps.ite | with_reducible apply keeps_galRwnd
                   | with_reducible apply keeps_netCount | with_reducible apply keeps_crfTake
                   | with_reducible apply keeps_rxRewind | with_reducible apply keeps_refFalls
                   | with_reducible apply keeps_setFlow | with_reducible apply keeps_rxLate
                   | with_reducible apply keeps_rxOdd | with_reducible apply keeps_galRefresh
                   | with_reducible apply keeps_galPut | split
                   | with_reducible refine Keeps.lit (FlashKeeps.refl _) ?_ ?_ ?_ ?_ | exact id | (exact fun _ => rfl))

theorem keeps_toCompositor {s0 s : State} {q : ℕ} {b : List Byte} (hk : Keeps s0 s) :
    Keeps s0 (toCompositor s q b) := by
  unfold toCompositor
  dsimp only
  repeat' (first | assumption | apply keeps_galRefresh | apply keeps_galPut)

theorem keeps_unmatched {s0 s : State} {port : ℕ} {b : List Byte} {h : NetHdr} (hk : Keeps s0 s) :
    Keeps s0 (unmatched s port b h) := by
  unfold unmatched
  dsimp only
  repeat' (first | with_reducible assumption | with_reducible apply Keeps.ite | with_reducible apply keeps_fresh
                   | with_reducible apply keeps_toCompositor | with_reducible apply keeps_netCount)

theorem keeps_rxAbort {s0 s : State} {port : ℕ} {v : Option ℕ} (hk : Keeps s0 s) :
    Keeps s0 (rxAbort s port v) := by
  unfold rxAbort
  dsimp only
  repeat' (first | assumption | apply Keeps.ite | apply keeps_galRwnd | split
                   | refine Keeps.lit (FlashKeeps.refl _) ?_ ?_ ?_ ?_ | exact id)

theorem keeps_netFrame {s0 s : State} {port : ℕ} {raw : List Byte} {good : Bool} (hk : Keeps s0 s) :
    Keeps s0 (netFrame s port raw good) := by
  unfold netFrame
  dsimp only
  repeat' (first | with_reducible assumption | with_reducible apply Keeps.ite | with_reducible apply keeps_count
                   | with_reducible apply keeps_rxAbort | with_reducible apply keeps_netCount
                   | with_reducible apply keeps_unmatched | with_reducible apply keeps_toCompositor
                   | with_reducible apply keeps_rxPacket | split
                   | with_reducible refine Keeps.lit (FlashKeeps.refl _) ?_ ?_ ?_ ?_ | exact id)

theorem keeps_execNetFrameRx {s0 : State} {port : ℕ} {raw : List Byte} {good : Bool} {s : State} (hk : Keeps s0 s) :
    KeepsO s0 (execNetFrameRx port raw good s) := by
  unfold execNetFrameRx
  repeat' (first | assumption | apply Keeps.next | apply keeps_netFrame)

theorem keeps_clsWrite {s0 s : State} {space off : ℕ} {v : Word} (hk : Keeps s0 s) :
    Keeps s0 (clsWrite s space off v) := by
  unfold clsWrite
  dsimp only
  repeat' (first | with_reducible assumption | with_reducible apply Keeps.ite | with_reducible apply keeps_keyWrite)

theorem keeps_pathGo {s0 s : State} {f path st : ℕ} (hk : Keeps s0 s) :
    Keeps s0 (pathGo s f path st) := by
  unfold pathGo
  dsimp only
  repeat' (first | with_reducible assumption | with_reducible apply Keeps.ite | with_reducible apply keeps_setFld
                   | with_reducible apply keeps_event)

theorem keeps_rxCommit {s0 s : State} {q : ℕ} {it : GItem} (hk : Keeps s0 s) :
    Keeps s0 (rxCommit s q it) := by
  unfold rxCommit
  dsimp only
  repeat' (first | with_reducible assumption | with_reducible apply Keeps.ite | with_reducible apply keeps_setFlow
                   | with_reducible apply keeps_copyMargin | with_reducible apply keeps_pathGo)

theorem keeps_execItemCommit {s0 : State} {q : ℕ} {s : State} (hk : Keeps s0 s) :
    KeepsO s0 (execItemCommit q s) := by
  unfold execItemCommit
  dsimp only
  repeat' (first | with_reducible assumption | with_reducible apply Keeps.next | with_reducible apply Keeps.ite
                   | with_reducible apply KeepsO.ite | with_reducible apply keeps_galCommit
                   | with_reducible apply keeps_rxCommit | split)

theorem keeps_execRedPathLoss {s0 : State} {f path : ℕ} {s : State} (hk : Keeps s0 s) :
    KeepsO s0 (execRedPathLoss f path s) := by
  unfold execRedPathLoss
  dsimp only
  repeat' (first | with_reducible assumption | with_reducible apply Keeps.next | with_reducible apply Keeps.ite
                   | with_reducible apply KeepsO.ite | with_reducible apply keeps_pathGo)

theorem keeps_rxGo {s0 s : State} {f st reason : ℕ} (hk : Keeps s0 s) :
    Keeps s0 (rxGo s f st reason) := by
  unfold rxGo
  dsimp only
  repeat' (first | with_reducible assumption | with_reducible apply Keeps.ite | with_reducible apply keeps_setFlds
                   | with_reducible apply keeps_setFld | with_reducible apply keeps_event
                   | with_reducible refine Keeps.lit (FlashKeeps.refl _) ?_ ?_ ?_ ?_ | exact id)

theorem keeps_rxFlush {s0 s : State} {f : ℕ} (hk : Keeps s0 s) :
    Keeps s0 (rxFlush s f) := by
  unfold rxFlush
  dsimp only
  repeat' (first | with_reducible assumption | with_reducible apply Keeps.ite | with_reducible apply keeps_galDiscard
                   | with_reducible apply keeps_galRefresh | with_reducible apply keeps_setFlow)

theorem keeps_startSlew {s0 s : State} {f : ℕ} {delta : ℤ} {limit : ℕ} (hk : Keeps s0 s) :
    Keeps s0 (startSlew s f delta limit) := by
  unfold startSlew
  dsimp only
  repeat' (first | with_reducible assumption | with_reducible apply Keeps.ite | with_reducible apply keeps_setFlds
                   | with_reducible apply keeps_laneGo | with_reducible apply keeps_setFlow
                   | with_reducible apply Keeps.foldl | (intro _ _ _))

theorem keeps_windowEnd {s0 s : State} {f : ℕ} (hk : Keeps s0 s) :
    Keeps s0 (windowEnd s f) := by
  unfold windowEnd
  dsimp only
  repeat' (first | with_reducible assumption | with_reducible apply Keeps.ite | with_reducible apply keeps_setFlow
                   | with_reducible apply keeps_setFld | with_reducible apply keeps_startSlew)

theorem keeps_execPlacementWindowEnd {s0 : State} {f : ℕ} {s : State} (hk : Keeps s0 s) :
    KeepsO s0 (execPlacementWindowEnd f s) := by
  unfold execPlacementWindowEnd
  repeat' (first | with_reducible assumption | with_reducible apply Keeps.next | with_reducible apply Keeps.ite
                   | with_reducible apply KeepsO.ite | with_reducible apply keeps_windowEnd)

theorem keeps_execKerningSlewEnd {s0 : State} {f : ℕ} {s : State} (hk : Keeps s0 s) :
    KeepsO s0 (execKerningSlewEnd f s) := by
  unfold execKerningSlewEnd
  dsimp only
  repeat' (first | with_reducible assumption | with_reducible apply Keeps.next | with_reducible apply Keeps.ite
                   | with_reducible apply KeepsO.ite | with_reducible apply keeps_laneGo
                   | with_reducible apply keeps_setFld | with_reducible apply keeps_setFlow
                   | with_reducible apply Keeps.foldl | (intro _ _ _) | split)

theorem keeps_seekQueue {s0 : State} {f path k x1 : ℕ} {x2 : State} (hk : Keeps s0 x2) :
    Keeps s0 (seekQueue f path k x1 x2) := by
  induction x1 generalizing f path k x2 with
  | zero =>
    unfold seekQueue
    try dsimp -zeta only
    repeat' (first
      | with_reducible assumption)
  | succ n_ ih =>
    unfold seekQueue
    try dsimp -zeta only
    repeat' (first
      | (extract_lets +onlyGivenNames x; first
        | (have hx : Keeps s0 x := by
            repeat' (first
              | (extract_lets +onlyGivenNames y) | with_reducible apply ih | with_reducible assumption
              | with_reducible apply Keeps.some | with_reducible apply KeepsP.none | with_reducible apply Keeps.ite
              | with_reducible apply keeps_galPop)
           clear_value x)
        | skip)
      | with_reducible apply ih | with_reducible assumption | with_reducible apply Keeps.some
      | with_reducible apply KeepsP.none | with_reducible apply Keeps.ite | with_reducible apply keeps_galPop
      | with_reducible apply keeps_galRelease | with_reducible apply keeps_setFlow
      | (refine Keeps.of_snd (keeps_galPop ?_) ‹_ = (_, _)›) | split)

theorem keeps_setFlowConc {s0 s : State} {f c : ℕ} {x : Conc} (hk : Keeps s0 s) :
    Keeps s0 (setFlowConc s f c x) := by
  unfold setFlowConc
  repeat' (first | assumption | apply keeps_setFlow)

theorem keeps_rxPresent {s0 s : State} {f c j k : ℕ} {w : Word} {t : Bool} (hk : Keeps s0 s) :
    Keeps s0 (rxPresent s f c j k w t) := by
  unfold rxPresent
  dsimp only
  repeat' (first | assumption | apply Keeps.ite | apply keeps_pushSort)

theorem keeps_concealChan {s0 s : State} {f c j k : ℕ} {counted : Bool} (hk : Keeps s0 s) :
    Keeps s0 (concealChan s f c j k counted) := by
  unfold concealChan
  dsimp only
  repeat' (first | with_reducible assumption | with_reducible apply Keeps.ite | with_reducible apply keeps_setFlowConc
                   | with_reducible apply keeps_rxPresent | with_reducible apply keeps_rxCount | split
                   | with_reducible refine Keeps.lit (FlashKeeps.refl _) ?_ ?_ ?_ ?_ | exact id | (exact fun _ => rfl))

theorem keeps_playChan {s0 s : State} {f k j c pa : ℕ} {a : GItem} {b : Option GItem} (hk : Keeps s0 s) :
    Keeps s0 (playChan s f k j c pa a b) := by
  unfold playChan
  dsimp only
  repeat' (first | with_reducible assumption | with_reducible apply Keeps.ite | with_reducible apply keeps_rxCount
                   | with_reducible apply keeps_rxPresent | with_reducible apply keeps_setFlowConc
                   | with_reducible apply keeps_redCount | with_reducible apply keeps_concealChan | split)

theorem keeps_slotClose {s0 s : State} {f : ℕ} (hk : Keeps s0 s) :
    Keeps s0 (slotClose s f) := by
  unfold slotClose
  dsimp only
  repeat' (first | with_reducible assumption | with_reducible apply Keeps.ite | with_reducible apply keeps_redCount
                   | with_reducible apply keeps_setFlow | split)

theorem keeps_pairStats {s0 s : State} {f : ℕ} {a b : GItem} (hk : Keeps s0 s) :
    Keeps s0 (pairStats s f a b) := by
  unfold pairStats
  dsimp only
  repeat' (first | with_reducible assumption | with_reducible apply Keeps.ite | with_reducible apply keeps_redCount
                   | with_reducible apply keeps_setFld)

theorem keeps_slotIndex {s0 s : State} {f k took : ℕ} {a b : Option GItem} (hk : Keeps s0 s) :
    Keeps s0 (slotIndex s f k took a b) := by
  unfold slotIndex
  dsimp only
  repeat' (first | with_reducible assumption | with_reducible apply Keeps.ite | with_reducible apply keeps_slotClose
                   | with_reducible apply keeps_pairStats | with_reducible apply keeps_setFlow | split)

theorem keeps_dueMargins {s0 s : State} {f k : ℕ} (hk : Keeps s0 s) :
    Keeps s0 (dueMargins s f k) := by
  unfold dueMargins
  dsimp only
  repeat' (first | assumption | apply keeps_setFlow | apply keeps_takeMargin | apply Keeps.foldl | (intro _ _ _))

theorem keeps_playIndex {s0 : State} {f j : ℕ} {due : Option ℕ} {s : State} (hk : Keeps s0 s) :
    Keeps s0 (playIndex f j due s) := by
  unfold playIndex
  dsimp only
  repeat' (first | with_reducible assumption | with_reducible apply Keeps.ite | with_reducible apply keeps_concealChan
                   | with_reducible apply keeps_rxGo | with_reducible apply keeps_setFlow
                   | with_reducible apply keeps_dueMargins | with_reducible apply keeps_seekQueue
                   | with_reducible apply keeps_slotIndex | with_reducible apply keeps_playChan
                   | with_reducible apply Keeps.foldl | (intro _ _ _) | split
                   | with_reducible refine Keeps.lit (FlashKeeps.refl _) ?_ ?_ ?_ ?_ | exact id)

theorem keeps_playFlow {s0 s : State} {f j : ℕ} (hk : Keeps s0 s) :
    Keeps s0 (playFlow s f j) := by
  unfold playFlow
  dsimp only
  repeat' (first | assumption | apply Keeps.ite | apply keeps_playIndex | apply keeps_pushSort | apply Keeps.foldl
                   | (intro _ _ _) | refine Keeps.lit (FlashKeeps.refl _) ?_ ?_ ?_ ?_ | exact id)

theorem keeps_execPlayoutIndexDue {s0 : State} {m : ℕ} {s : State} (hk : Keeps s0 s) :
    KeepsO s0 (execPlayoutIndexDue m s) := by
  unfold execPlayoutIndexDue
  dsimp only
  repeat' (first | with_reducible assumption | with_reducible apply Keeps.next | with_reducible apply Keeps.ite
                   | with_reducible apply KeepsO.ite | with_reducible apply keeps_playFlow
                   | with_reducible apply Keeps.foldl | (intro _ _ _))

theorem keeps_rxStart {s0 s : State} {f : ℕ} (hk : Keeps s0 s) :
    Keeps s0 (rxStart s f) := by
  unfold rxStart
  dsimp only
  repeat' (first | with_reducible assumption | with_reducible apply Keeps.ite | with_reducible apply keeps_setFld
                   | with_reducible apply keeps_setFlow | with_reducible apply keeps_rxGo
                   | with_reducible apply keeps_pathGo | with_reducible apply keeps_addUser)

theorem keeps_rxStop {s0 s : State} {f : ℕ} (hk : Keeps s0 s) :
    Keeps s0 (rxStop s f) := by
  unfold rxStop
  dsimp only
  repeat' (first | with_reducible assumption | with_reducible apply keeps_rxFlush | with_reducible apply keeps_rxGo
                   | with_reducible apply keeps_setFlds | with_reducible apply keeps_refFalls
                   | with_reducible apply keeps_setFlow | with_reducible apply keeps_dropUser
                   | with_reducible refine Keeps.lit (FlashKeeps.refl _) ?_ ?_ ?_ ?_ | exact id)

theorem keeps_rxEnable {s0 s : State} {f : ℕ} (hk : Keeps s0 s) :
    Keeps s0 (rxEnable s f) := by
  unfold rxEnable
  repeat' (first | assumption | apply Keeps.ite | apply keeps_rxStart | apply keeps_setFld)

theorem keeps_rxStep {s0 s : State} {f off : ℕ} (hk : Keeps s0 s) :
    Keeps s0 (rxStep s f off) := by
  unfold rxStep
  dsimp only
  repeat' (first | assumption | apply Keeps.ite | apply keeps_setFlds | apply keeps_setFlow | apply keeps_setFld)

theorem keeps_rxApply {s0 s : State} {f : ℕ} (hk : Keeps s0 s) :
    Keeps s0 (rxApply s f) := by
  unfold rxApply
  dsimp only
  repeat' (first | with_reducible assumption | with_reducible apply Keeps.ite | with_reducible apply keeps_capApply
                   | with_reducible apply keeps_rxEnable | with_reducible apply keeps_capDrop
                   | with_reducible apply keeps_setFld | with_reducible apply keeps_wr
                   | with_reducible apply keeps_rxStop | with_reducible apply keeps_rxStep
                   | with_reducible apply Keeps.foldl | (intro _ _ _) | split)

theorem keeps_rxFollow {s0 s : State} {m : ℕ} (hk : Keeps s0 s) :
    Keeps s0 (rxFollow s m) := by
  unfold rxFollow
  dsimp only
  repeat' (first | with_reducible assumption | with_reducible apply Keeps.ite | with_reducible apply keeps_rxGo
                   | with_reducible apply keeps_rxFlush | with_reducible apply Keeps.foldl | (intro _ _ _))

theorem keeps_netLinkDown {s0 s : State} {p st : ℕ} (hk : Keeps s0 s) :
    Keeps s0 (netLinkDown s p st) := by
  unfold netLinkDown
  dsimp only
  repeat' (first | with_reducible assumption | with_reducible apply Keeps.ite | with_reducible apply keeps_setFlds
                   | with_reducible apply keeps_setFld | with_reducible apply keeps_galRewind
                   | with_reducible apply keeps_pathGo | with_reducible apply keeps_portLost
                   | with_reducible apply Keeps.foldl | (intro _ _ _))

end Sys2Proof.Machine
end

