-- ==== Sys2Proof/Laws/KeepsNetTx.lean ====
section
/-! SUPPORT. Every definition of Machine/NetTx.lean that answers a state keeps what Keeps names: the waiting commands,
the boot flash and the canonical form of the stores. -/

set_option linter.all false

namespace Sys2Proof.Machine

theorem keeps_setTxf {s0 s : State} {f : ℕ} {x : TxFlow} (hk : Keeps s0 s) :
    Keeps s0 (State.setTxf s f x) := by
  unfold State.setTxf
  repeat' (first | assumption | refine Keeps.lit (FlashKeeps.refl _) ?_ ?_ ?_ ?_ | exact id)

theorem keeps_txCount {s0 s : State} {f i n : ℕ} {ev : List Fld} (hk : Keeps s0 s) :
    Keeps s0 (txCount s f i n ev) := by
  unfold txCount
  repeat' (first | assumption | apply keeps_raise | apply keeps_countSatN)

theorem keeps_txGo {s0 s : State} {f st : ℕ} (hk : Keeps s0 s) :
    Keeps s0 (txGo s f st) := by
  unfold txGo
  repeat' (first | assumption | apply Keeps.ite | apply keeps_setFlds)

theorem keeps_loadRefresh {s0 s : State} {p : ℕ} (hk : Keeps s0 s) :
    Keeps s0 (loadRefresh s p) := by
  unfold loadRefresh
  dsimp only
  repeat' (first | assumption | apply Keeps.ite | apply keeps_setFlds)

theorem keeps_txStart {s0 s : State} {f : ℕ} (hk : Keeps s0 s) :
    Keeps s0 (txStart s f) := by
  unfold txStart
  dsimp only
  repeat' (first | assumption | apply keeps_setTxf | apply keeps_txGo | apply keeps_addUser | apply keeps_loadRefresh
                   | apply Keeps.foldl)

theorem keeps_underEnd {s0 s : State} {f : ℕ} (hk : Keeps s0 s) :
    Keeps s0 (underEnd s f) := by
  unfold underEnd
  dsimp only
  repeat' (first | with_reducible assumption | with_reducible apply Keeps.ite | with_reducible apply keeps_event
                   | with_reducible apply keeps_setTxf)

theorem keeps_txStop {s0 s : State} {f : ℕ} (hk : Keeps s0 s) :
    Keeps s0 (txStop s f) := by
  unfold txStop
  dsimp only
  repeat' (first | with_reducible assumption | with_reducible apply Keeps.ite | with_reducible apply keeps_underEnd
                   | with_reducible apply keeps_galRefresh | with_reducible apply keeps_galDiscard
                   | with_reducible apply keeps_txGo | with_reducible apply keeps_dropUser
                   | with_reducible apply keeps_loadRefresh | with_reducible apply keeps_setTxf
                   | with_reducible apply Keeps.foldl | (intro _ _ _)
                   | with_reducible refine Keeps.lit (FlashKeeps.refl _) ?_ ?_ ?_ ?_ | exact id)

theorem keeps_txApply {s0 s : State} {f : ℕ} (hk : Keeps s0 s) :
    Keeps s0 (txApply s f) := by
  unfold txApply
  dsimp only
  repeat' (first | with_reducible assumption | with_reducible apply Keeps.ite | with_reducible apply keeps_capDrop
                   | with_reducible apply keeps_setFld | with_reducible apply keeps_capApply
                   | with_reducible apply keeps_txStart | with_reducible apply keeps_setFlds
                   | with_reducible apply keeps_wr | with_reducible apply keeps_txStop | split)

theorem keeps_txPortApply {s0 s : State} (hk : Keeps s0 s) :
    Keeps s0 (txPortApply s) := by
  unfold txPortApply
  dsimp only
  repeat' (first | assumption | apply Keeps.ite | apply keeps_capApply | apply keeps_setFld)

theorem keeps_txFollow {s0 s : State} {m : ℕ} (hk : Keeps s0 s) :
    Keeps s0 (txFollow s m) := by
  unfold txFollow
  dsimp only
  repeat' (first | with_reducible assumption | with_reducible apply Keeps.ite | with_reducible apply keeps_txGo
                   | with_reducible apply keeps_setTxf | with_reducible apply Keeps.foldl | (intro _ _ _))

theorem keeps_execTxFlowStart {s0 : State} {f : ℕ} {s : State} (hk : Keeps s0 s) :
    KeepsO s0 (execTxFlowStart f s) := by
  unfold execTxFlowStart
  dsimp only
  repeat' (first | with_reducible assumption | with_reducible apply Keeps.next | with_reducible apply Keeps.ite
                   | with_reducible apply KeepsO.ite | with_reducible apply keeps_txGo
                   | with_reducible apply keeps_setTxf)

theorem keeps_packetClose {s0 s : State} {f : ℕ} (hk : Keeps s0 s) :
    Keeps s0 (packetClose s f) := by
  unfold packetClose
  dsimp only
  repeat' (first | with_reducible assumption | with_reducible apply Keeps.ite | with_reducible apply keeps_setTxf
                   | with_reducible apply keeps_setFld | with_reducible apply keeps_underEnd
                   | with_reducible apply keeps_txCount | with_reducible apply keeps_galCommit
                   | with_reducible apply keeps_galRefresh | with_reducible apply keeps_galPut)

theorem keeps_txLate {s0 s : State} {src k : ℕ} (hk : Keeps s0 s) :
    Keeps s0 (txLate s src k) := by
  unfold txLate
  repeat' (first | with_reducible assumption | with_reducible apply Keeps.ite | with_reducible apply keeps_txCount
                   | with_reducible apply Keeps.foldl | (intro _ _ _) | split)

theorem keeps_srcLate {s0 s : State} {src k : ℕ} (hk : Keeps s0 s) :
    Keeps s0 (srcLate s src k) := by
  unfold srcLate
  repeat' (first | assumption | apply keeps_txLate | apply keeps_tdmLate)

theorem keeps_sendFrame {s0 s : State} {p : ℕ} {b : List Byte} (hk : Keeps s0 s) :
    Keeps s0 (sendFrame s p b) := by
  unfold sendFrame
  dsimp only
  repeat' (first | assumption | apply keeps_emit | refine Keeps.lit (FlashKeeps.refl _) ?_ ?_ ?_ ?_ | exact id)

theorem keeps_countLaunch {s0 s : State} {f p : ℕ} (hk : Keeps s0 s) :
    Keeps s0 (countLaunch s f p) := by
  unfold countLaunch
  dsimp only
  repeat' (first | assumption | apply keeps_setTxf)

theorem keeps_launchFrame {s0 s : State} {f p : ℕ} {b : List Byte} (hk : Keeps s0 s) :
    Keeps s0 (launchFrame s f p b) := by
  unfold launchFrame
  dsimp only
  repeat' (first | assumption | apply keeps_countLaunch | apply keeps_sendFrame
                   | refine Keeps.lit (FlashKeeps.refl _) ?_ ?_ ?_ ?_ | exact id)

theorem keeps_portsMark {s0 s : State} {f k : ℕ} {poison : Bool} (hk : Keeps s0 s) :
    Keeps s0 (portsMark s f k poison) := by
  unfold portsMark
  dsimp only
  repeat' (first | with_reducible assumption | with_reducible apply Keeps.ite | with_reducible apply keeps_storeMark
                   | with_reducible apply keeps_cellPoke | split
                   | with_reducible refine Keeps.lit (FlashKeeps.refl _) ?_ ?_ ?_ ?_ | exact id)

theorem keeps_releaseIfDone {s0 s : State} {f k : ℕ} (hk : Keeps s0 s) :
    Keeps s0 (releaseIfDone s f k) := by
  unfold releaseIfDone
  repeat' (first | assumption | apply Keeps.ite | apply keeps_galRefresh | apply keeps_galFreeFirst)

theorem keeps_txCut {s0 s : State} {p : ℕ} (hk : Keeps s0 s) :
    Keeps s0 (txCut s p) := by
  unfold txCut
  dsimp only
  repeat' (first | with_reducible assumption | with_reducible apply Keeps.ite | with_reducible apply keeps_txCount
                   | with_reducible apply keeps_releaseIfDone | with_reducible apply keeps_portsMark
                   | with_reducible apply Keeps.foldl | (intro _ _ _) | split
                   | with_reducible refine Keeps.lit (FlashKeeps.refl _) ?_ ?_ ?_ ?_ | exact id | (exact fun _ => rfl))

theorem keeps_portLink {s0 s : State} {p st : ℕ} (hk : Keeps s0 s) :
    Keeps s0 (portLink s p st) := by
  unfold portLink
  repeat' (first | with_reducible assumption | with_reducible apply Keeps.ite | with_reducible apply keeps_netLinkDown
                   | with_reducible apply keeps_txCut | with_reducible refine Keeps.lit (FlashKeeps.refl _) ?_ ?_ ?_ ?_
                   | exact id)

theorem keeps_netLinkStateChange {s0 : State} {p st : ℕ} {an fecLock : Bool} {s : State} (hk : Keeps s0 s) :
    KeepsO s0 (netLinkStateChange p st an fecLock s) := by
  unfold netLinkStateChange
  dsimp only
  repeat' (first | with_reducible assumption | with_reducible apply Keeps.next | with_reducible apply Keeps.ite
                   | with_reducible apply KeepsO.ite | with_reducible apply keeps_setFld
                   | with_reducible apply keeps_portLink
                   | with_reducible refine Keeps.lit (FlashKeeps.refl _) ?_ ?_ ?_ ?_ | exact id)

theorem keeps_feedHash {s0 s : State} {f : ℕ} {payload : List Byte} (hk : Keeps s0 s) :
    Keeps s0 (feedHash s f payload) := by
  unfold feedHash
  dsimp only
  repeat' (first | assumption | refine Keeps.lit (FlashKeeps.refl _) ?_ ?_ ?_ ?_ | exact id)

theorem keeps_packetLaunch {s0 s : State} {f : ℕ} (hk : Keeps s0 s) :
    Keeps s0 (packetLaunch s f) := by
  unfold packetLaunch
  dsimp only
  repeat' (first | with_reducible assumption | with_reducible apply Keeps.ite | with_reducible apply keeps_galPop
                   | with_reducible apply keeps_galRefresh | with_reducible apply keeps_galFreeFirst
                   | with_reducible apply keeps_txCount | with_reducible apply keeps_feedHash
                   | with_reducible apply keeps_launchFrame | with_reducible apply keeps_releaseIfDone
                   | with_reducible apply keeps_portsMark | with_reducible apply Keeps.foldl | (intro _ _ _) | split
                   | with_reducible refine Keeps.lit (FlashKeeps.refl _) ?_ ?_ ?_ ?_ | exact id | (exact fun _ => rfl))

theorem keeps_execPacketLaunch {s0 : State} {f : ℕ} {s : State} (hk : Keeps s0 s) :
    KeepsO s0 (execPacketLaunch f s) := by
  unfold execPacketLaunch
  repeat' (first | assumption | apply Keeps.next | apply keeps_packetLaunch)

theorem keeps_creditUpdate {s0 s : State} {p : ℕ} (hk : Keeps s0 s) :
    Keeps s0 (creditUpdate s p) := by
  unfold creditUpdate
  dsimp only
  repeat' (first | assumption | apply Keeps.ite | apply keeps_idle | refine Keeps.lit (FlashKeeps.refl _) ?_ ?_ ?_ ?_
                   | exact id)

theorem keeps_execPortFrameStart {s0 : State} {p : ℕ} {s : State} (hk : Keeps s0 s) :
    KeepsO s0 (execPortFrameStart p s) := by
  unfold execPortFrameStart
  try dsimp -zeta only
  repeat' (first
    | (extract_lets +onlyGivenNames x; first
      | (have hx : Keeps s0 x := by
          repeat' (first
            | (extract_lets +onlyGivenNames y) | with_reducible assumption | with_reducible apply Keeps.next
            | with_reducible apply KeepsO.fault | with_reducible apply Keeps.some | with_reducible apply KeepsP.none
            | with_reducible apply Keeps.ite | with_reducible apply KeepsO.ite
            | with_reducible apply keeps_creditUpdate | with_reducible apply keeps_releaseIfDone
            | with_reducible apply keeps_portsMark | with_reducible apply keeps_launchFrame
            | with_reducible apply keeps_sendFrame | with_reducible apply keeps_galPop
            | with_reducible apply keeps_galRelease | (refine Keeps.of_snd (keeps_galPop ?_) ‹_ = (_, _)›) | split
            | with_reducible refine Keeps.lit (FlashKeeps.refl _) ?_ ?_ ?_ ?_ | with_reducible exact id
            | with_reducible exact memWf_write _ _ _ | with_reducible exact sWf_drop _ _ _ | (intro _ hw; exact hw)
            | (intro _ hw; exact memWf_write _ _ _ hw) | exact fun _ => rfl | (intro _ _; rfl) | (intro _ _ hx)
            | (intro _ hx))
         clear_value x)
      | (have hx := List.length x; clear hx; clear_value x)
      | skip)
    | with_reducible assumption | with_reducible apply Keeps.next | with_reducible apply KeepsO.fault
    | with_reducible apply Keeps.some | with_reducible apply KeepsP.none | with_reducible apply Keeps.ite
    | with_reducible apply KeepsO.ite | with_reducible apply keeps_creditUpdate
    | with_reducible apply keeps_releaseIfDone | with_reducible apply keeps_portsMark
    | with_reducible apply keeps_launchFrame | with_reducible apply keeps_sendFrame
    | with_reducible apply keeps_galPop | with_reducible apply keeps_galRelease
    | (refine Keeps.of_snd (keeps_galPop ?_) ‹_ = (_, _)›) | split
    | with_reducible refine Keeps.lit (FlashKeeps.refl _) ?_ ?_ ?_ ?_ | with_reducible exact id
    | with_reducible exact memWf_write _ _ _ | with_reducible exact sWf_drop _ _ _ | (intro _ hw; exact hw)
    | (intro _ hw; exact memWf_write _ _ _ hw) | exact fun _ => rfl | (intro _ _; rfl) | (intro _ _ hx) | (intro _ hx))

theorem keeps_tbApply {s0 s : State} {f : ℕ} (hk : Keeps s0 s) :
    Keeps s0 (tbApply s f) := by
  unfold tbApply
  dsimp only
  repeat' (first | with_reducible assumption | with_reducible apply Keeps.ite | with_reducible apply keeps_capDrop
                   | with_reducible apply keeps_setFld | with_reducible apply keeps_capApply
                   | with_reducible apply keeps_setFlds | with_reducible apply keeps_setFlag | split
                   | with_reducible refine Keeps.lit (FlashKeeps.refl _) ?_ ?_ ?_ ?_ | exact id)

end Sys2Proof.Machine
end

