-- ==== Sys2Proof/Laws/KeepsHostLink.lean ====
section
/-! SUPPORT. Every definition of Machine/HostLink.lean that answers a state keeps what Keeps names: the waiting commands,
the boot flash and the canonical form of the stores. -/

set_option linter.all false

namespace Sys2Proof.Machine

theorem keeps_setHst {s0 s : State} {i : ℕ} {x : HostBlk} (hk : Keeps s0 s) :
    Keeps s0 (State.setHst s i x) := by
  unfold State.setHst
  repeat' (first | assumption | refine Keeps.lit (FlashKeeps.refl _) ?_ ?_ ?_ ?_ | exact id)

theorem keeps_hstCount {s0 s : State} {i j : ℕ} {ev : List Fld} (hk : Keeps s0 s) :
    Keeps s0 (hstCount s i j ev) := by
  unfold hstCount
  repeat' (first | assumption | apply keeps_raise | apply keeps_countSat)

theorem keeps_hstGo {s0 s : State} {i st : ℕ} (hk : Keeps s0 s) :
    Keeps s0 (hstGo s i st) := by
  unfold hstGo
  repeat' (first | assumption | apply Keeps.ite | apply keeps_setFlds)

theorem keeps_hstRates {s0 s : State} (hk : Keeps s0 s) :
    Keeps s0 (hstRates s) := by
  unfold hstRates
  dsimp only
  repeat' (first | assumption | apply keeps_setFlds)

theorem keeps_tagsRefresh {s0 s : State} (hk : Keeps s0 s) :
    Keeps s0 (tagsRefresh s) := by
  unfold tagsRefresh
  dsimp only
  repeat' (first | assumption | apply keeps_setFlds)

theorem keeps_staleReads {s0 s : State} {i : ℕ} (hk : Keeps s0 s) :
    Keeps s0 (staleReads s i) := by
  unfold staleReads
  repeat' (first | assumption | apply Keeps.ite | refine Keeps.lit (FlashKeeps.refl _) ?_ ?_ ?_ ?_ | exact id)

theorem keeps_hstStop {s0 s : State} {i : ℕ} (hk : Keeps s0 s) :
    Keeps s0 (hstStop s i) := by
  unfold hstStop
  dsimp only
  repeat' (first | with_reducible assumption | with_reducible apply Keeps.ite | with_reducible apply keeps_galRefresh
                   | with_reducible apply keeps_galDiscard | with_reducible apply keeps_staleReads
                   | with_reducible apply keeps_hstGo | with_reducible apply keeps_setFlds
                   | with_reducible apply keeps_hstRates | with_reducible apply keeps_setHst
                   | with_reducible apply keeps_dropUser)

theorem keeps_hstApply {s0 s : State} {i : ℕ} (hk : Keeps s0 s) :
    Keeps s0 (hstApply s i) := by
  unfold hstApply
  dsimp only
  repeat' (first | with_reducible assumption | with_reducible apply Keeps.ite | with_reducible apply keeps_setFld
                   | with_reducible apply keeps_capApply | with_reducible apply keeps_setHst
                   | with_reducible apply keeps_hstRates | with_reducible apply keeps_hstGo
                   | with_reducible apply keeps_addUser | with_reducible apply keeps_setFlds
                   | with_reducible apply keeps_capDrop | with_reducible apply keeps_wr
                   | with_reducible apply keeps_hstStop | split)

theorem keeps_hstCfgApply {s0 s : State} (hk : Keeps s0 s) :
    Keeps s0 (hstCfgApply s) := by
  unfold hstCfgApply
  repeat' (first | assumption | apply keeps_hstRates | apply keeps_capApply)

theorem keeps_hrWords {s0 s : State} {i k : ℕ} (hk : Keeps s0 s) :
    Keeps s0 (hrWords s i k).2 := by
  unfold hrWords
  try dsimp -zeta only
  repeat' (first
    | (extract_lets +onlyGivenNames x; first
      | (have hx : Keeps s0 x := by
          repeat' (first
            | (extract_lets +onlyGivenNames y) | with_reducible assumption | with_reducible apply Keeps.some
            | with_reducible apply KeepsP.none | with_reducible apply Keeps.ite | with_reducible apply Keeps.ite2
            | with_reducible apply keeps_fresh | with_reducible apply Keeps.foldl
            | with_reducible apply Keeps.foldl_snd | with_reducible apply Keeps.foldl_fst
            | (refine Keeps.of_snd (keeps_fresh ?_) ‹_ = (_, _)›) | split
            | with_reducible refine Keeps.lit (FlashKeeps.refl _) ?_ ?_ ?_ ?_ | with_reducible exact id
            | with_reducible exact memWf_write _ _ _ | with_reducible exact sWf_drop _ _ _ | (intro _ hw; exact hw)
            | (intro _ hw; exact memWf_write _ _ _ hw) | exact fun _ => rfl | (intro _ _; rfl) | (intro _ _ hx)
            | (intro _ hx))
         clear_value x)
      | (have hx := List.length x; clear hx; clear_value x)
      | skip)
    | with_reducible assumption | with_reducible apply Keeps.some | with_reducible apply KeepsP.none
    | with_reducible apply Keeps.ite | with_reducible apply Keeps.ite2 | with_reducible apply keeps_fresh
    | with_reducible apply Keeps.foldl | with_reducible apply Keeps.foldl_snd | with_reducible apply Keeps.foldl_fst
    | (refine Keeps.of_snd (keeps_fresh ?_) ‹_ = (_, _)›) | split
    | with_reducible refine Keeps.lit (FlashKeeps.refl _) ?_ ?_ ?_ ?_ | with_reducible exact id
    | with_reducible exact memWf_write _ _ _ | with_reducible exact sWf_drop _ _ _ | (intro _ hw; exact hw)
    | (intro _ hw; exact memWf_write _ _ _ hw) | exact fun _ => rfl | (intro _ _; rfl) | (intro _ _ hx))

theorem keeps_execHrBlockCommit {s0 : State} {b : ℕ} {s : State} (hk : Keeps s0 s) :
    KeepsO s0 (execHrBlockCommit b s) := by
  unfold execHrBlockCommit
  dsimp only
  repeat' (first | with_reducible assumption | with_reducible apply Keeps.next | with_reducible apply Keeps.ite
                   | with_reducible apply KeepsO.ite | with_reducible apply keeps_hrWords
                   | with_reducible apply keeps_galCommit | with_reducible apply keeps_galPut
                   | with_reducible apply keeps_hstCount | with_reducible apply keeps_setHst)

theorem keeps_execHostBlockStart {s0 : State} {b : ℕ} {s : State} (hk : Keeps s0 s) :
    KeepsO s0 (execHostBlockStart b s) := by
  unfold execHostBlockStart
  dsimp only
  repeat' (first | with_reducible assumption | with_reducible apply Keeps.next | with_reducible apply Keeps.ite
                   | with_reducible apply KeepsO.ite | with_reducible apply keeps_hstGo
                   | with_reducible apply keeps_setHst)

theorem keeps_hstMoved {s0 s : State} {d n : ℕ} (hk : Keeps s0 s) :
    Keeps s0 (hstMoved s d n) := by
  unfold hstMoved
  repeat' (first | assumption | refine Keeps.lit (FlashKeeps.refl _) ?_ ?_ ?_ ?_ | exact id)

theorem keeps_hstSlot {s0 s : State} {i : ℕ} (hk : Keeps s0 s) :
    Keeps s0 (hstSlot s i) := by
  unfold hstSlot
  repeat' (first | assumption | refine Keeps.lit (FlashKeeps.refl _) ?_ ?_ ?_ ?_ | exact id)

theorem keeps_execHrSlotWrite {s0 : State} {b : ℕ} {s : State} (hk : Keeps s0 s) :
    KeepsO s0 (execHrSlotWrite b s) := by
  unfold execHrSlotWrite
  try dsimp -zeta only
  repeat' (first
    | (extract_lets +onlyGivenNames x; first
      | (have hx : Keeps s0 x := by
          repeat' (first
            | (extract_lets +onlyGivenNames y) | with_reducible assumption | with_reducible apply Keeps.next
            | with_reducible apply KeepsO.fault | with_reducible apply Keeps.some | with_reducible apply KeepsP.none
            | with_reducible apply Keeps.ite | with_reducible apply KeepsO.ite | with_reducible apply keeps_galPop
            | with_reducible apply keeps_hstCount | with_reducible apply keeps_hstSlot
            | with_reducible apply keeps_setHst | with_reducible apply keeps_setFld | with_reducible apply keeps_emit
            | with_reducible apply keeps_tagsRefresh | with_reducible apply keeps_hstMoved
            | (refine Keeps.of_snd (keeps_galPop ?_) ‹_ = (_, _)›) | split
            | with_reducible refine Keeps.lit (FlashKeeps.refl _) ?_ ?_ ?_ ?_ | with_reducible exact id)
         clear_value x)
      | (have hx := List.length x; clear hx; clear_value x)
      | skip)
    | with_reducible assumption | with_reducible apply Keeps.next | with_reducible apply KeepsO.fault
    | with_reducible apply Keeps.some | with_reducible apply KeepsP.none | with_reducible apply Keeps.ite
    | with_reducible apply KeepsO.ite | with_reducible apply keeps_galPop | with_reducible apply keeps_hstCount
    | with_reducible apply keeps_hstSlot | with_reducible apply keeps_setHst | with_reducible apply keeps_setFld
    | with_reducible apply keeps_emit | with_reducible apply keeps_tagsRefresh | with_reducible apply keeps_hstMoved
    | (refine Keeps.of_snd (keeps_galPop ?_) ‹_ = (_, _)›) | split)

theorem keeps_hrFailed {s0 s : State} {i : ℕ} (hk : Keeps s0 s) :
    Keeps s0 (hrFailed s i) := by
  unfold hrFailed
  dsimp only
  repeat' (first | with_reducible assumption | with_reducible apply Keeps.ite | with_reducible apply keeps_setGq
                   | with_reducible apply keeps_staleReads | with_reducible apply keeps_hstCount
                   | with_reducible apply keeps_setHst | with_reducible apply keeps_hstGo
                   | with_reducible apply keeps_setFld)

theorem keeps_confirmEnd {s0 s : State} {i : ℕ} {good : Bool} (hk : Keeps s0 s) :
    Keeps s0 (confirmEnd s i good) := by
  unfold confirmEnd
  dsimp only
  repeat' (first | with_reducible assumption | with_reducible apply Keeps.ite | with_reducible apply keeps_tagsRefresh
                   | with_reducible apply keeps_setHst | with_reducible apply keeps_setFld
                   | with_reducible apply keeps_hrFailed | split
                   | with_reducible refine Keeps.lit (FlashKeeps.refl _) ?_ ?_ ?_ ?_ | exact id)

theorem keeps_execConfirmReadCompletion {s0 : State} {b : ℕ} {good : Bool} {s : State} (hk : Keeps s0 s) :
    KeepsO s0 (execConfirmReadCompletion b good s) := by
  unfold execConfirmReadCompletion
  repeat' (first | assumption | apply Keeps.next | apply keeps_confirmEnd)

theorem keeps_hrAck {s0 s : State} {i v : ℕ} (hk : Keeps s0 s) :
    Keeps s0 (hrAck s i v) := by
  unfold hrAck
  dsimp only
  repeat' (first | with_reducible assumption | with_reducible apply Keeps.ite | with_reducible apply keeps_galRefresh
                   | with_reducible apply keeps_galFreeFirst | with_reducible apply keeps_setGq
                   | with_reducible apply keeps_setHst | with_reducible apply keeps_setFld)

theorem keeps_execHrAckWrite {s0 : State} {b idx : ℕ} {s : State} (hk : Keeps s0 s) :
    KeepsO s0 (execHrAckWrite b idx s) := by
  unfold execHrAckWrite
  repeat' (first | assumption | apply Keeps.next | apply keeps_hrAck)

theorem keeps_htIssue {s0 : State} {i x1 : ℕ} {x2 : State} (hk : Keeps s0 x2) :
    Keeps s0 (htIssue i x1 x2) := by
  induction x1 generalizing i x2 with
  | zero =>
    unfold htIssue
    try dsimp -zeta only
    repeat' (first
      | with_reducible assumption)
  | succ n_ ih =>
    unfold htIssue
    try dsimp -zeta only
    repeat' (first
      | (extract_lets +onlyGivenNames x; first
        | (have hx : Keeps s0 x := by
            repeat' (first
              | (extract_lets +onlyGivenNames y) | with_reducible apply ih | with_reducible assumption
              | with_reducible apply Keeps.some | with_reducible apply KeepsP.none | with_reducible apply Keeps.ite
              | with_reducible apply keeps_setHst | with_reducible apply keeps_emit)
           clear_value x)
        | skip)
      | with_reducible apply ih | with_reducible assumption | with_reducible apply Keeps.some
      | with_reducible apply KeepsP.none | with_reducible apply Keeps.ite | with_reducible apply keeps_setHst
      | with_reducible apply keeps_emit | split | with_reducible refine Keeps.lit (FlashKeeps.refl _) ?_ ?_ ?_ ?_
      | with_reducible exact id)

theorem keeps_htStart {s0 s : State} {i : ℕ} (hk : Keeps s0 s) :
    Keeps s0 (htStart s i) := by
  unfold htStart
  dsimp only
  repeat' (first | assumption | apply Keeps.ite | apply keeps_fresh | apply keeps_galOpen | apply keeps_setHst
                   | apply keeps_tagsRefresh | apply keeps_htIssue)

theorem keeps_htPump {s0 s : State} (hk : Keeps s0 s) :
    Keeps s0 (htPump s) := by
  unfold htPump
  repeat' (first | with_reducible assumption | with_reducible apply Keeps.ite | with_reducible apply keeps_htStart
                   | with_reducible apply Keeps.foldl | (intro _ _ _))

theorem keeps_htProd {s0 s : State} {i v : ℕ} (hk : Keeps s0 s) :
    Keeps s0 (htProd s i v) := by
  unfold htProd
  repeat' (first | with_reducible assumption | with_reducible apply Keeps.ite | with_reducible apply keeps_htStart
                   | with_reducible apply keeps_setFld)

theorem keeps_execHtProdWrite {s0 : State} {b idx : ℕ} {s : State} (hk : Keeps s0 s) :
    KeepsO s0 (execHtProdWrite b idx s) := by
  unfold execHtProdWrite
  repeat' (first | assumption | apply Keeps.next | apply keeps_htProd)

theorem keeps_htConsume {s0 s : State} {i : ℕ} (hk : Keeps s0 s) :
    Keeps s0 (htConsume s i) := by
  unfold htConsume
  dsimp only
  repeat' (first | with_reducible assumption | with_reducible apply Keeps.ite | with_reducible apply keeps_staleReads
                   | with_reducible apply keeps_setHst | with_reducible apply keeps_setFld
                   | with_reducible apply keeps_hstMoved | with_reducible apply keeps_emit
                   | with_reducible apply keeps_htStart)

theorem keeps_expireQueue {s0 : State} {q n next x1 : ℕ} {x2 : State} (hk : Keeps s0 x2) :
    Keeps s0 (expireQueue q n next x1 x2) := by
  induction x1 generalizing q n next x2 with
  | zero =>
    unfold expireQueue
    try dsimp -zeta only
    repeat' (first
      | with_reducible assumption)
  | succ n_ ih =>
    unfold expireQueue
    try dsimp -zeta only
    repeat' (first
      | (extract_lets +onlyGivenNames x; first
        | (have hx : Keeps s0 x := by
            repeat' (first
              | (extract_lets +onlyGivenNames y) | with_reducible apply ih | with_reducible assumption
              | with_reducible apply Keeps.some | with_reducible apply KeepsP.none | with_reducible apply Keeps.ite
              | with_reducible apply keeps_galPop)
           clear_value x)
        | skip)
      | with_reducible apply ih | with_reducible assumption | with_reducible apply Keeps.some
      | with_reducible apply KeepsP.none | with_reducible apply Keeps.ite | with_reducible apply keeps_galPop
      | with_reducible apply keeps_galRefresh | with_reducible apply keeps_galFreeFirst
      | (refine Keeps.of_snd (keeps_galPop ?_) ‹_ = (_, _)›) | split)

theorem keeps_htCommit {s0 s : State} {i : ℕ} {b : List Byte} (hk : Keeps s0 s) :
    Keeps s0 (htCommit s i b) := by
  unfold htCommit
  dsimp only
  repeat' (first | with_reducible assumption | with_reducible apply Keeps.ite | with_reducible apply keeps_galWords
                   | with_reducible apply keeps_setGq | with_reducible apply keeps_galCommit
                   | with_reducible apply keeps_hstCount | with_reducible apply keeps_hstSlot
                   | with_reducible apply keeps_htConsume | with_reducible apply keeps_srcLate
                   | with_reducible apply keeps_pushSort | with_reducible apply keeps_expireQueue
                   | with_reducible apply Keeps.foldl | (intro _ _ _) | split
                   | with_reducible refine Keeps.lit (FlashKeeps.refl _) ?_ ?_ ?_ ?_ | exact id | (exact fun _ => rfl))

theorem keeps_htFailed {s0 s : State} {i : ℕ} (hk : Keeps s0 s) :
    Keeps s0 (htFailed s i) := by
  unfold htFailed
  dsimp only
  repeat' (first | with_reducible assumption | with_reducible apply Keeps.ite | with_reducible apply keeps_galRewind
                   | with_reducible apply keeps_staleReads | with_reducible apply keeps_hstCount
                   | with_reducible apply keeps_setHst | with_reducible apply keeps_hstGo
                   | with_reducible apply keeps_setFld | with_reducible apply keeps_htStart)

theorem keeps_htEnd {s0 s : State} {i off : ℕ} {data : List Byte} {good : Bool} (hk : Keeps s0 s) :
    Keeps s0 (htEnd s i off data good) := by
  unfold htEnd
  dsimp only
  repeat' (first | with_reducible assumption | with_reducible apply Keeps.ite | with_reducible apply keeps_tagsRefresh
                   | with_reducible apply keeps_htFailed | with_reducible apply keeps_hstMoved
                   | with_reducible apply keeps_setHst | with_reducible apply keeps_htConsume
                   | with_reducible apply keeps_hstCount | with_reducible apply keeps_galRewind
                   | with_reducible apply keeps_htCommit | with_reducible apply keeps_htPump | split
                   | with_reducible refine Keeps.lit (FlashKeeps.refl _) ?_ ?_ ?_ ?_ | exact id)

theorem keeps_execHtReadCompletion {s0 : State} {b off : ℕ} {data : List Byte} {good : Bool} {s : State} (hk : Keeps s0 s) :
    KeepsO s0 (execHtReadCompletion b off data good s) := by
  unfold execHtReadCompletion
  repeat' (first | assumption | apply Keeps.next | apply keeps_htEnd)

theorem keeps_execCplTimeout {s0 : State} {b off : ℕ} {s : State} (hk : Keeps s0 s) :
    KeepsO s0 (execCplTimeout b off s) := by
  unfold execCplTimeout
  repeat' (first | assumption | apply Keeps.next | apply Keeps.ite | apply KeepsO.ite | apply keeps_htEnd
                   | apply keeps_confirmEnd)

theorem keeps_hstFollow {s0 s : State} {m : ℕ} (hk : Keeps s0 s) :
    Keeps s0 (hstFollow s m) := by
  unfold hstFollow
  dsimp only
  repeat' (first | with_reducible assumption | with_reducible apply Keeps.ite | with_reducible apply keeps_hstGo
                   | with_reducible apply keeps_htStart | with_reducible apply keeps_setHst
                   | with_reducible apply keeps_expireQueue | with_reducible apply Keeps.foldl | (intro _ _ _))

theorem keeps_hstPerst {s0 s : State} (hk : Keeps s0 s) :
    Keeps s0 (hstPerst s) := by
  unfold hstPerst
  dsimp only
  repeat' (first | with_reducible assumption | with_reducible apply Keeps.ite | with_reducible apply keeps_setFldSh
                   | with_reducible apply keeps_setFld | with_reducible apply keeps_hstStop
                   | with_reducible apply keeps_setFlds | with_reducible apply keeps_tagsRefresh
                   | with_reducible apply Keeps.foldl | (intro _ _ _)
                   | with_reducible refine Keeps.lit (FlashKeeps.refl _) ?_ ?_ ?_ ?_ | exact id)

theorem keeps_hstPowerOff {s0 s : State} (hk : Keeps s0 s) :
    Keeps s0 (hstPowerOff s) := by
  unfold hstPowerOff
  dsimp only
  repeat' (first | with_reducible assumption | with_reducible apply Keeps.ite | with_reducible apply keeps_hstStop
                   | with_reducible apply keeps_tagsRefresh | with_reducible apply Keeps.foldl | (intro _ _ _)
                   | with_reducible refine Keeps.lit (FlashKeeps.refl _) ?_ ?_ ?_ ?_ | exact id)

theorem keeps_execPcieLinkStateChange {s0 : State} {st speed width : ℕ} {s : State} (hk : Keeps s0 s) :
    KeepsO s0 (execPcieLinkStateChange st speed width s) := by
  unfold execPcieLinkStateChange
  dsimp only
  repeat' (first | with_reducible assumption | with_reducible apply Keeps.next | with_reducible apply Keeps.ite
                   | with_reducible apply KeepsO.ite | with_reducible apply keeps_setFlds
                   | with_reducible apply keeps_setFld | with_reducible apply keeps_hstRates
                   | with_reducible apply keeps_htPump | with_reducible refine Keeps.lit (FlashKeeps.refl _) ?_ ?_ ?_ ?_
                   | exact id)

end Sys2Proof.Machine
end

