-- ==== Sys2Proof/Laws/KeepsStack.lean ====
section
/-! SUPPORT. Every definition of Machine/Stack.lean that answers a state keeps what Keeps names: the waiting commands,
the boot flash and the canonical form of the stores. -/

set_option linter.all false

namespace Sys2Proof.Machine

theorem keeps_setSlink {s0 s : State} {l : ℕ} {x : StkLinkRec} (hk : Keeps s0 s) :
    Keeps s0 (State.setSlink s l x) := by
  unfold State.setSlink
  repeat' (first | assumption | refine Keeps.lit (FlashKeeps.refl _) ?_ ?_ ?_ ?_ | exact id)

theorem keeps_setSblk {s0 s : State} {i : ℕ} {x : StkBlk} (hk : Keeps s0 s) :
    Keeps s0 (State.setSblk s i x) := by
  unfold State.setSblk
  repeat' (first | assumption | refine Keeps.lit (FlashKeeps.refl _) ?_ ?_ ?_ ?_ | exact id)

theorem keeps_stkOut {s0 s : State} {l : ℕ} {o : Out} (hk : Keeps s0 s) :
    Keeps s0 (stkOut s l o) := by
  unfold stkOut
  repeat' (first | assumption | apply keeps_setSlink | apply keeps_emit)

theorem keeps_stkTell {s0 s : State} {m : StkMsg} (hk : Keeps s0 s) :
    Keeps s0 (stkTell s m) := by
  unfold stkTell
  repeat' (first | assumption | apply Keeps.ite | apply keeps_stkOut | apply Keeps.foldl | (intro _ _ _))

theorem keeps_stkRefresh {s0 s : State} (hk : Keeps s0 s) :
    Keeps s0 (stkRefresh s) := by
  unfold stkRefresh
  dsimp only
  repeat' (first | assumption | apply Keeps.ite | apply keeps_setFlds)

theorem keeps_stkGo {s0 s : State} {st reason : ℕ} (hk : Keeps s0 s) :
    Keeps s0 (stkGo s st reason) := by
  unfold stkGo
  dsimp only
  repeat' (first | with_reducible assumption | with_reducible apply Keeps.ite | with_reducible apply keeps_setFlds
                   | with_reducible apply keeps_event | with_reducible apply keeps_stkRefresh
                   | with_reducible apply keeps_stkTell
                   | with_reducible refine Keeps.lit (FlashKeeps.refl _) ?_ ?_ ?_ ?_ | exact id)

theorem keeps_stkJudge {s0 s : State} (hk : Keeps s0 s) :
    Keeps s0 (stkJudge s) := by
  unfold stkJudge
  dsimp only
  repeat' (first | with_reducible assumption | with_reducible apply Keeps.ite | with_reducible apply keeps_stkGo
                   | with_reducible apply keeps_stkRefresh
                   | with_reducible refine Keeps.lit (FlashKeeps.refl _) ?_ ?_ ?_ ?_ | exact id)

theorem keeps_stkSeek {s0 s : State} (hk : Keeps s0 s) :
    Keeps s0 (stkSeek s) := by
  unfold stkSeek
  repeat' (first | with_reducible assumption | with_reducible apply Keeps.ite | with_reducible apply keeps_stkGo
                   | with_reducible refine Keeps.lit (FlashKeeps.refl _) ?_ ?_ ?_ ?_ | exact id)

theorem keeps_stkSend {s0 s : State} {l cls dest src flags : ℕ} {item : List Byte} (hk : Keeps s0 s) :
    Keeps s0 (stkSend s l cls dest src flags item) := by
  unfold stkSend
  dsimp only
  repeat' (first | assumption | apply Keeps.ite | apply keeps_setSlink | apply keeps_emit
                   | refine Keeps.lit (FlashKeeps.refl _) ?_ ?_ ?_ ?_ | exact id)

theorem keeps_stkCount {s0 s : State} {i : ℕ} (hk : Keeps s0 s) :
    Keeps s0 (stkCount s i) := by
  unfold stkCount
  repeat' (first | assumption | apply keeps_setFld | apply keeps_countSat)

theorem keeps_stkStall {s0 s : State} {q l : ℕ} (hk : Keeps s0 s) :
    Keeps s0 (stkStall s q l) := by
  unfold stkStall
  dsimp only
  repeat' (first | with_reducible assumption | with_reducible apply Keeps.ite | with_reducible apply keeps_stkCount
                   | with_reducible apply keeps_setSlink
                   | with_reducible refine Keeps.lit (FlashKeeps.refl _) ?_ ?_ ?_ ?_ | exact id)

theorem keeps_stkDrain {s0 : State} {q x1 : ℕ} {x2 : State} (hk : Keeps s0 x2) :
    Keeps s0 (stkDrain q x1 x2) := by
  induction x1 generalizing q x2 with
  | zero =>
    unfold stkDrain
    try dsimp -zeta only
    repeat' (first
      | (extract_lets +onlyGivenNames x; first
        | (have hx : Keeps s0 x := by
            repeat' (first
              | (extract_lets +onlyGivenNames y) | with_reducible assumption | with_reducible apply Keeps.some
              | with_reducible apply KeepsP.none | with_reducible apply Keeps.ite
              | with_reducible apply keeps_galRefresh | with_reducible apply keeps_galFreeFirst
              | with_reducible apply keeps_galPop | with_reducible apply keeps_setSlink
              | with_reducible apply keeps_stkSend | with_reducible apply keeps_countSat
              | with_reducible apply keeps_stkStall | with_reducible apply Keeps.foldl
              | with_reducible apply Keeps.foldl_snd | with_reducible apply Keeps.foldl_fst
              | (refine Keeps.of_snd (keeps_galPop ?_) ‹_ = (_, _)›) | split
              | with_reducible refine Keeps.lit (FlashKeeps.refl _) ?_ ?_ ?_ ?_ | with_reducible exact id
              | with_reducible exact memWf_write _ _ _ | with_reducible exact sWf_drop _ _ _ | (intro _ hw; exact hw)
              | (intro _ hw; exact memWf_write _ _ _ hw) | exact fun _ => rfl | (intro _ _; rfl) | (intro _ _ hx)
              | (intro _ hx))
           clear_value x)
        | (have hx := List.length x; clear hx; clear_value x)
        | skip)
      | with_reducible assumption | with_reducible apply Keeps.some | with_reducible apply KeepsP.none
      | with_reducible apply Keeps.ite | with_reducible apply keeps_galRefresh
      | with_reducible apply keeps_galFreeFirst | with_reducible apply keeps_galPop
      | with_reducible apply keeps_setSlink | with_reducible apply keeps_stkSend | with_reducible apply keeps_countSat
      | with_reducible apply keeps_stkStall | with_reducible apply Keeps.foldl | with_reducible apply Keeps.foldl_snd
      | with_reducible apply Keeps.foldl_fst | (refine Keeps.of_snd (keeps_galPop ?_) ‹_ = (_, _)›) | split
      | with_reducible refine Keeps.lit (FlashKeeps.refl _) ?_ ?_ ?_ ?_ | with_reducible exact id
      | with_reducible exact memWf_write _ _ _ | with_reducible exact sWf_drop _ _ _ | (intro _ hw; exact hw)
      | (intro _ hw; exact memWf_write _ _ _ hw) | exact fun _ => rfl | (intro _ _; rfl) | (intro _ _ hx)
      | (intro _ hx))
  | succ n_ ih =>
    unfold stkDrain
    try dsimp -zeta only
    repeat' (first
      | (extract_lets +onlyGivenNames x; first
        | (have hx : Keeps s0 x := by
            repeat' (first
              | (extract_lets +onlyGivenNames y) | with_reducible apply ih | with_reducible assumption
              | with_reducible apply Keeps.some | with_reducible apply KeepsP.none | with_reducible apply Keeps.ite
              | with_reducible apply keeps_galRefresh | with_reducible apply keeps_galFreeFirst
              | with_reducible apply keeps_galPop | with_reducible apply keeps_setSlink
              | with_reducible apply keeps_stkSend | with_reducible apply keeps_countSat
              | with_reducible apply keeps_stkStall | with_reducible apply Keeps.foldl
              | with_reducible apply Keeps.foldl_snd | with_reducible apply Keeps.foldl_fst
              | (refine Keeps.of_snd (keeps_galPop ?_) ‹_ = (_, _)›) | split
              | with_reducible refine Keeps.lit (FlashKeeps.refl _) ?_ ?_ ?_ ?_ | with_reducible exact id
              | with_reducible exact memWf_write _ _ _ | with_reducible exact sWf_drop _ _ _ | (intro _ hw; exact hw)
              | (intro _ hw; exact memWf_write _ _ _ hw) | exact fun _ => rfl | (intro _ _; rfl) | (intro _ _ hx)
              | (intro _ hx))
           clear_value x)
        | (have hx := List.length x; clear hx; clear_value x)
        | skip)
      | with_reducible apply ih | with_reducible assumption | with_reducible apply Keeps.some
      | with_reducible apply KeepsP.none | with_reducible apply Keeps.ite | with_reducible apply keeps_galRefresh
      | with_reducible apply keeps_galFreeFirst | with_reducible apply keeps_galPop
      | with_reducible apply keeps_setSlink | with_reducible apply keeps_stkSend | with_reducible apply keeps_countSat
      | with_reducible apply keeps_stkStall | with_reducible apply Keeps.foldl | with_reducible apply Keeps.foldl_snd
      | with_reducible apply Keeps.foldl_fst | (refine Keeps.of_snd (keeps_galPop ?_) ‹_ = (_, _)›) | split
      | with_reducible refine Keeps.lit (FlashKeeps.refl _) ?_ ?_ ?_ ?_ | with_reducible exact id
      | with_reducible exact memWf_write _ _ _ | with_reducible exact sWf_drop _ _ _ | (intro _ hw; exact hw)
      | (intro _ hw; exact memWf_write _ _ _ hw) | exact fun _ => rfl | (intro _ _; rfl) | (intro _ _ hx)
      | (intro _ hx))

theorem keeps_stkPump {s0 s : State} (hk : Keeps s0 s) :
    Keeps s0 (stkPump s) := by
  unfold stkPump
  repeat' (first | with_reducible assumption | with_reducible apply Keeps.ite | with_reducible apply keeps_stkDrain
                   | with_reducible apply Keeps.foldl | (intro _ _ _))

theorem keeps_stkPut {s0 s : State} {q kind : ℕ} {body : List Byte} (hk : Keeps s0 s) :
    Keeps s0 (stkPut s q kind body) := by
  unfold stkPut
  repeat' (first | assumption | apply keeps_stkPump | apply keeps_galRefresh | apply keeps_galCommit
                   | apply keeps_galPut)

theorem keeps_afterClose {s0 s : State} (hk : Keeps s0 s) :
    Keeps s0 (afterClose s) := by
  unfold afterClose
  repeat' (first | with_reducible assumption | with_reducible apply Keeps.ite | with_reducible apply keeps_stkPump)

theorem keeps_execPacketClose {s0 : State} {f : ℕ} {s : State} (hk : Keeps s0 s) :
    KeepsO s0 (execPacketClose f s) := by
  unfold execPacketClose
  repeat' (first | with_reducible assumption | with_reducible apply Keeps.next | with_reducible apply Keeps.ite
                   | with_reducible apply KeepsO.ite | with_reducible apply keeps_afterClose
                   | with_reducible apply keeps_packetClose)

theorem keeps_blkGo {s0 s : State} {i st : ℕ} (hk : Keeps s0 s) :
    Keeps s0 (blkGo s i st) := by
  unfold blkGo
  repeat' (first | assumption | apply Keeps.ite | apply keeps_setFlds)

theorem keeps_blkCount {s0 s : State} {i j : ℕ} {ev : List Fld} (hk : Keeps s0 s) :
    Keeps s0 (blkCount s i j ev) := by
  unfold blkCount
  repeat' (first | assumption | apply keeps_raise | apply keeps_countSat)

theorem keeps_blkStop {s0 s : State} {i : ℕ} (hk : Keeps s0 s) :
    Keeps s0 (blkStop s i) := by
  unfold blkStop
  dsimp only
  repeat' (first | with_reducible assumption | with_reducible apply Keeps.ite | with_reducible apply keeps_galRefresh
                   | with_reducible apply keeps_galDiscard | with_reducible apply keeps_blkGo
                   | with_reducible apply keeps_setSblk | with_reducible apply keeps_dropUser)

theorem keeps_blkApply {s0 s : State} {i : ℕ} (hk : Keeps s0 s) :
    Keeps s0 (blkApply s i) := by
  unfold blkApply
  dsimp only
  repeat' (first | with_reducible assumption | with_reducible apply Keeps.ite | with_reducible apply keeps_capApply
                   | with_reducible apply keeps_blkGo | with_reducible apply keeps_setSblk
                   | with_reducible apply keeps_addUser | with_reducible apply keeps_setFlds
                   | with_reducible apply keeps_capDrop | with_reducible apply keeps_setFld
                   | with_reducible apply keeps_wr | with_reducible apply keeps_blkStop | split)

theorem keeps_stkFollow {s0 s : State} {m : ℕ} (hk : Keeps s0 s) :
    Keeps s0 (stkFollow s m) := by
  unfold stkFollow
  dsimp only
  repeat' (first | with_reducible assumption | with_reducible apply Keeps.ite | with_reducible apply keeps_blkGo
                   | with_reducible apply keeps_setSblk | with_reducible apply keeps_expireQueue
                   | with_reducible apply Keeps.foldl | (intro _ _ _))

theorem keeps_blkStart {s0 s : State} {i : ℕ} (hk : Keeps s0 s) :
    Keeps s0 (blkStart s i) := by
  unfold blkStart
  dsimp only
  repeat' (first | with_reducible assumption | with_reducible apply Keeps.ite | with_reducible apply keeps_blkGo
                   | with_reducible apply keeps_setSblk)

theorem keeps_soWords {s0 s : State} {i k : ℕ} (hk : Keeps s0 s) :
    Keeps s0 (soWords s i k).2 := by
  unfold soWords
  try dsimp -zeta only
  repeat' (first
    | (extract_lets +onlyGivenNames x; first
      | (have hx : Keeps s0 x := by
          repeat' (first
            | (extract_lets +onlyGivenNames y) | with_reducible assumption | with_reducible apply Keeps.some
            | with_reducible apply KeepsP.none | with_reducible apply Keeps.ite | with_reducible apply Keeps.ite2
            | with_reducible apply keeps_fresh | with_reducible apply Keeps.foldl
            | with_reducible apply Keeps.foldl_snd | with_reducible apply Keeps.foldl_fst
            | (refine Keeps.of_snd (keeps_fresh ?_) ‹_ = (_, _)›) | split
            | with_reducible refine Keeps.lit (FlashKeeps.refl _) ?_ ?_ ?_ ?_ | with_reducible exact id
            | with_reducible exact memWf_write _ _ _ | with_reducible exact sWf_drop _ _ _ | (intro _ hw; exact hw)
            | (intro _ hw; exact memWf_write _ _ _ hw) | exact fun _ => rfl | (intro _ _; rfl) | (intro _ _ hx)
            | (intro _ hx))
         clear_value x)
      | (have hx := List.length x; clear hx; clear_value x)
      | skip)
    | with_reducible assumption | with_reducible apply Keeps.some | with_reducible apply KeepsP.none
    | with_reducible apply Keeps.ite | with_reducible apply Keeps.ite2 | with_reducible apply keeps_fresh
    | with_reducible apply Keeps.foldl | with_reducible apply Keeps.foldl_snd | with_reducible apply Keeps.foldl_fst
    | (refine Keeps.of_snd (keeps_fresh ?_) ‹_ = (_, _)›) | split
    | with_reducible refine Keeps.lit (FlashKeeps.refl _) ?_ ?_ ?_ ?_ | with_reducible exact id
    | with_reducible exact memWf_write _ _ _ | with_reducible exact sWf_drop _ _ _ | (intro _ hw; exact hw)
    | (intro _ hw; exact memWf_write _ _ _ hw) | exact fun _ => rfl | (intro _ _; rfl) | (intro _ _ hx))

theorem keeps_execSoItemSend {s0 : State} {b : ℕ} {s : State} (hk : Keeps s0 s) :
    KeepsO s0 (execSoItemSend b s) := by
  unfold execSoItemSend
  dsimp only
  repeat' (first | with_reducible assumption | with_reducible apply Keeps.next | with_reducible apply Keeps.ite
                   | with_reducible apply KeepsO.ite | with_reducible apply keeps_setSblk
                   | with_reducible apply keeps_soWords | with_reducible apply keeps_galCommit
                   | with_reducible apply keeps_galPut | with_reducible apply keeps_blkCount
                   | with_reducible apply keeps_stkPump)

theorem keeps_siFrame {s0 s : State} {i flags : ℕ} {item : List Byte} {agree : Bool} (hk : Keeps s0 s) :
    Keeps s0 (siFrame s i flags item agree) := by
  unfold siFrame
  dsimp only
  repeat' (first | with_reducible assumption | with_reducible apply Keeps.ite | with_reducible apply keeps_blkCount
                   | with_reducible apply keeps_expireQueue | with_reducible apply keeps_galCommit
                   | with_reducible apply keeps_galPut | with_reducible apply keeps_srcLate
                   | with_reducible apply keeps_pushSort | with_reducible apply Keeps.foldl | (intro _ _ _)
                   | with_reducible refine Keeps.lit (FlashKeeps.refl _) ?_ ?_ ?_ ?_ | exact id | (exact fun _ => rfl))

theorem keeps_siAccept {s0 s : State} {src flags : ℕ} {item : List Byte} {agree : Bool} (hk : Keeps s0 s) :
    Keeps s0 (siAccept s src flags item agree) := by
  unfold siAccept
  repeat' (first | with_reducible assumption | with_reducible apply Keeps.ite | with_reducible apply keeps_siFrame
                   | with_reducible apply Keeps.foldl | (intro _ _ _))

theorem keeps_stkCfgApply {s0 s : State} (hk : Keeps s0 s) :
    Keeps s0 (stkCfgApply s) := by
  unfold stkCfgApply
  dsimp only
  repeat' (first | with_reducible assumption | with_reducible apply Keeps.ite | with_reducible apply keeps_capApply
                   | with_reducible apply keeps_stkTell | with_reducible apply keeps_setSlink
                   | with_reducible apply keeps_setFlds | with_reducible apply keeps_setFld
                   | with_reducible apply keeps_stkRefresh | with_reducible apply keeps_stkGo
                   | with_reducible apply keeps_stkSeek | with_reducible apply keeps_stkJudge
                   | with_reducible apply Keeps.foldl | (intro _ _ _)
                   | with_reducible refine Keeps.lit (FlashKeeps.refl _) ?_ ?_ ?_ ?_ | exact id | (exact fun _ => rfl))

theorem keeps_stkSteer {s0 s : State} {n : ℕ} {off : ℤ} (hk : Keeps s0 s) :
    Keeps s0 (stkSteer s n off) := by
  unfold stkSteer
  dsimp only
  repeat' (first | with_reducible assumption | with_reducible apply Keeps.ite | with_reducible apply keeps_setFld
                   | with_reducible apply keeps_servoTake)

theorem keeps_stkSteps {s0 s : State} {l : List (ℕ × ℤ)} (hk : Keeps s0 s) :
    Keeps s0 (stkSteps s l) := by
  unfold stkSteps
  repeat' (first | assumption | apply Keeps.ite | apply keeps_capture | apply keeps_setFldSh | apply Keeps.foldl
                   | (intro _ _ _))

theorem keeps_stkJoin {s0 s : State} (hk : Keeps s0 s) :
    Keeps s0 (stkJoin s) := by
  unfold stkJoin
  repeat' (first | with_reducible assumption | with_reducible apply Keeps.ite | with_reducible apply keeps_stkGo)

theorem keeps_stkTimeRx {s0 s : State} {l : ℕ} {offs : List ℤ} {delay : ℕ} {steps : List (ℕ × ℤ)} {gen : ℕ} (hk : Keeps s0 s) :
    Keeps s0 (stkTimeRx s l offs delay steps gen) := by
  unfold stkTimeRx
  dsimp only
  repeat' (first | with_reducible assumption | with_reducible apply Keeps.ite | with_reducible apply keeps_setFld
                   | with_reducible apply keeps_stkSteps | with_reducible apply keeps_stkSteer
                   | with_reducible apply keeps_stkGo | with_reducible apply keeps_stkJoin
                   | with_reducible apply Keeps.foldl | (intro _ _ _)
                   | with_reducible refine Keeps.lit (FlashKeeps.refl _) ?_ ?_ ?_ ?_ | exact id)

theorem keeps_execStkTimeFrameTx {s0 s : State} (hk : Keeps s0 s) :
    KeepsO s0 (execStkTimeFrameTx s) := by
  unfold execStkTimeFrameTx
  dsimp only
  repeat' (first | assumption | apply Keeps.next | apply Keeps.ite | apply KeepsO.ite | apply keeps_setSlink
                   | apply keeps_emit | apply Keeps.foldl | (intro _ _ _)
                   | refine Keeps.lit (FlashKeeps.refl _) ?_ ?_ ?_ ?_ | exact id)

theorem keeps_execStkTimeRegain {s0 s : State} (hk : Keeps s0 s) :
    KeepsO s0 (execStkTimeRegain s) := by
  unfold execStkTimeRegain
  repeat' (first | with_reducible assumption | with_reducible apply Keeps.next | with_reducible apply Keeps.ite
                   | with_reducible apply KeepsO.ite | with_reducible apply keeps_stkGo)

theorem keeps_execStkIdentifyTimeout {s0 s : State} (hk : Keeps s0 s) :
    KeepsO s0 (execStkIdentifyTimeout s) := by
  unfold execStkIdentifyTimeout
  repeat' (first | with_reducible assumption | with_reducible apply Keeps.next | with_reducible apply Keeps.ite
                   | with_reducible apply KeepsO.ite | with_reducible apply keeps_stkGo)

theorem keeps_stkMasterLoss {s0 s : State} (hk : Keeps s0 s) :
    Keeps s0 (stkMasterLoss s) := by
  unfold stkMasterLoss
  dsimp only
  repeat' (first | with_reducible assumption | with_reducible apply Keeps.ite | with_reducible apply keeps_refFalls
                   | with_reducible apply keeps_setPti | with_reducible apply keeps_setFld
                   | with_reducible apply keeps_stkGo | with_reducible apply Keeps.foldl | (intro _ _ _)
                   | with_reducible refine Keeps.lit (FlashKeeps.refl _) ?_ ?_ ?_ ?_ | exact id)

theorem keeps_stkLinkDown {s0 s : State} {l : ℕ} (hk : Keeps s0 s) :
    Keeps s0 (stkLinkDown s l) := by
  unfold stkLinkDown
  dsimp only
  repeat' (first | with_reducible assumption | with_reducible apply Keeps.ite | with_reducible apply keeps_setFlds
                   | with_reducible apply keeps_setFld | with_reducible apply keeps_setSlink
                   | with_reducible apply keeps_stkTell | with_reducible apply keeps_stkRefresh
                   | with_reducible apply keeps_stkGo | with_reducible refine Keeps.lit (FlashKeeps.refl _) ?_ ?_ ?_ ?_
                   | exact id)

theorem keeps_stkTrained {s0 s : State} {l port pos serial major minor role gen : ℕ} (hk : Keeps s0 s) :
    Keeps s0 (stkTrained s l port pos serial major minor role gen) := by
  unfold stkTrained
  dsimp only
  repeat' (first | with_reducible assumption | with_reducible apply Keeps.ite | with_reducible apply keeps_setFlds
                   | with_reducible apply keeps_stkLinkDown | with_reducible apply keeps_setFld
                   | with_reducible apply keeps_setSlink | with_reducible apply keeps_stkGo
                   | with_reducible apply keeps_stkOut | with_reducible apply keeps_stkTell
                   | with_reducible apply keeps_stkPump | with_reducible apply keeps_stkSeek
                   | with_reducible apply keeps_stkJudge
                   | with_reducible refine Keeps.lit (FlashKeeps.refl _) ?_ ?_ ?_ ?_ | exact id)

theorem keeps_stkKnow {s0 s : State} {l pos serial major minor role gen : ℕ} (hk : Keeps s0 s) :
    Keeps s0 (stkKnow s l pos serial major minor role gen) := by
  unfold stkKnow
  dsimp only
  repeat' (first | with_reducible assumption | with_reducible apply Keeps.ite | with_reducible apply keeps_stkSeek
                   | with_reducible apply keeps_stkJudge | split
                   | with_reducible refine Keeps.lit (FlashKeeps.refl _) ?_ ?_ ?_ ?_ | exact id)

theorem keeps_stkForward {s0 s : State} {l cls dest src flags : ℕ} {item : List Byte} (hk : Keeps s0 s) :
    Keeps s0 (stkForward s l cls dest src flags item) := by
  unfold stkForward
  dsimp only
  repeat' (first | assumption | apply Keeps.ite | apply keeps_stkSend)

theorem keeps_stkAsk {s0 s : State} {l cls : ℕ} (hk : Keeps s0 s) :
    Keeps s0 (stkAsk s l cls) := by
  unfold stkAsk
  dsimp only
  repeat' (first | assumption | apply keeps_stkOut | apply keeps_setSlink | apply keeps_stkTell)

theorem keeps_stkCrcFail {s0 s : State} {l cls : ℕ} (hk : Keeps s0 s) :
    Keeps s0 (stkCrcFail s l cls) := by
  unfold stkCrcFail
  dsimp only
  repeat' (first | with_reducible assumption | with_reducible apply Keeps.ite | with_reducible apply keeps_stkCount
                   | with_reducible apply keeps_stkAsk | with_reducible apply keeps_setSlink
                   | with_reducible apply keeps_stkLinkDown
                   | with_reducible refine Keeps.lit (FlashKeeps.refl _) ?_ ?_ ?_ ?_ | exact id)

theorem keeps_stkDisorder {s0 s : State} {l cls seq : ℕ} (hk : Keeps s0 s) :
    Keeps s0 (stkDisorder s l cls seq) := by
  unfold stkDisorder
  dsimp only
  repeat' (first | assumption | apply Keeps.ite | apply keeps_stkAsk)

theorem keeps_stkTaken {s0 s : State} {l cls : ℕ} (hk : Keeps s0 s) :
    Keeps s0 (stkTaken s l cls) := by
  unfold stkTaken
  dsimp only
  repeat' (first | assumption | apply keeps_setSlink)

theorem keeps_stkResend {s0 s : State} {l cls seq : ℕ} (hk : Keeps s0 s) :
    Keeps s0 (stkResend s l cls seq) := by
  unfold stkResend
  dsimp only
  repeat' (first | with_reducible assumption | with_reducible apply Keeps.ite | with_reducible apply keeps_setSlink
                   | with_reducible apply keeps_stkLinkDown | with_reducible apply keeps_stkOut
                   | with_reducible apply keeps_stkCount | with_reducible apply Keeps.foldl | (intro _ _ _)
                   | with_reducible refine Keeps.lit (FlashKeeps.refl _) ?_ ?_ ?_ ?_ | exact id | (exact fun _ => rfl))

theorem keeps_takeElem {s0 s : State} {q i : ℕ} (hk : Keeps s0 s) :
    Keeps s0 (takeElem s q i) := by
  unfold takeElem
  dsimp only
  repeat' (first | assumption | apply keeps_galRefresh | apply keeps_spillElem | apply keeps_setGq | split)

theorem keeps_execFunnelLaunch {s0 : State} {j : ℕ} {late : Bool} {s : State} (hk : Keeps s0 s) :
    KeepsO s0 (execFunnelLaunch j late s) := by
  unfold execFunnelLaunch
  dsimp only
  repeat' (first | assumption | apply Keeps.next | apply Keeps.ite | apply KeepsO.ite | apply keeps_checkCells
                   | apply keeps_takeElem | apply keeps_setFld | apply keeps_count | apply Keeps.foldl | (intro _ _ _)
                   | split | refine Keeps.lit (FlashKeeps.refl _) ?_ ?_ ?_ ?_ | exact id)

end Sys2Proof.Machine
end

