-- ==== Sys2Proof/Laws/KeepsHooks.lean ====
section
/-! SUPPORT. Every definition of Machine/Hooks.lean that answers a state keeps what Keeps names: the waiting commands,
the boot flash and the canonical form of the stores. -/

set_option linter.all false

namespace Sys2Proof.Machine

theorem keeps_mcsFollow {s0 s : State} {n : ℕ} (hk : Keeps s0 s) :
    Keeps s0 (mcsFollow s n) := by
  unfold mcsFollow
  repeat' (first | with_reducible assumption | with_reducible apply keeps_stkFollow
                   | with_reducible apply keeps_hstFollow | with_reducible apply keeps_txFollow
                   | with_reducible apply keeps_rxFollow)

theorem keeps_mcsMoved {s0 old s : State} {n : ℕ} (hk : Keeps s0 s) :
    Keeps s0 (mcsMoved old s n) := by
  unfold mcsMoved
  repeat' (first | with_reducible assumption | with_reducible apply Keeps.ite | with_reducible apply keeps_mcsFollow
                   | with_reducible apply keeps_event)

theorem keeps_ptiMoved {s0 old s : State} {n : ℕ} (hk : Keeps s0 s) :
    Keeps s0 (ptiMoved old s n) := by
  unfold ptiMoved
  repeat' (first | with_reducible assumption | with_reducible apply Keeps.ite | with_reducible apply keeps_event)

theorem keeps_follow {s0 old s : State} (hk : Keeps s0 s) :
    Keeps s0 (follow old s) := by
  unfold follow
  dsimp only
  repeat' (first | with_reducible assumption | with_reducible apply Keeps.ite | with_reducible apply keeps_ptiMoved
                   | with_reducible apply keeps_xdomHold | with_reducible apply keeps_lanesFollow
                   | with_reducible apply keeps_mcsMoved | with_reducible apply Keeps.foldl)

theorem keeps_followed {s0 : State} {o : Out3} {old : State} (hk : KeepsO s0 o) : KeepsO s0 (followed o old) := by
  cases o with
  | next s => exact (keeps_follow (hk.next s rfl)).next
  | fault f => exact KeepsO.fault
  | refused r => exact ⟨fun _ e => nomatch e⟩

theorem keeps_execPllLossOfLock {s0 : State} {sys : Bool} {s : State} (hk : Keeps s0 s) :
    KeepsO s0 (execPllLossOfLock sys s) := by
  unfold execPllLossOfLock
  repeat' (first | assumption | apply Keeps.next | apply keeps_followed | apply keeps_pllLossOfLock)

theorem keeps_execServoUpdate {s0 : State} {n : ℕ} {a b m : Option ℤ} {s : State} (hk : Keeps s0 s) :
    KeepsO s0 (execServoUpdate n a b m s) := by
  unfold execServoUpdate
  repeat' (first | assumption | apply Keeps.next | apply keeps_followed | apply keeps_servoUpdate)

theorem keeps_execFreezeHoldExpiry {s0 : State} {n : ℕ} {s : State} (hk : Keeps s0 s) :
    KeepsO s0 (execFreezeHoldExpiry n s) := by
  unfold execFreezeHoldExpiry
  repeat' (first | assumption | apply Keeps.next | apply keeps_followed | apply keeps_freezeHoldExpiry)

theorem keeps_execAsymBothTimeout {s0 : State} {n : ℕ} {s : State} (hk : Keeps s0 s) :
    KeepsO s0 (execAsymBothTimeout n s) := by
  unfold execAsymBothTimeout
  repeat' (first | assumption | apply Keeps.next | apply keeps_followed | apply keeps_asymBothTimeout)

theorem keeps_execPtpMessageRx {s0 : State} {n x : ℕ} {exchange : Bool} {s : State} (hk : Keeps s0 s) :
    KeepsO s0 (execPtpMessageRx n x exchange s) := by
  unfold execPtpMessageRx
  repeat' (first | assumption | apply Keeps.next | apply keeps_followed | apply keeps_ptpMessageRx)

theorem keeps_execAnnounceRx {s0 : State} {n x : ℕ} {ds : List ℕ} {gm steps : ℕ} {s : State} (hk : Keeps s0 s) :
    KeepsO s0 (execAnnounceRx n x ds gm steps s) := by
  unfold execAnnounceRx
  repeat' (first | assumption | apply Keeps.next | apply keeps_followed | apply keeps_announceRx)

theorem keeps_execAnnounceTimeout {s0 : State} {n x : ℕ} {s : State} (hk : Keeps s0 s) :
    KeepsO s0 (execAnnounceTimeout n x s) := by
  unfold execAnnounceTimeout
  repeat' (first | assumption | apply Keeps.next | apply keeps_followed | apply keeps_announceTimeout)

theorem keeps_execFaultyRecover {s0 : State} {n x : ℕ} {s : State} (hk : Keeps s0 s) :
    KeepsO s0 (execFaultyRecover n x s) := by
  unfold execFaultyRecover
  repeat' (first | assumption | apply Keeps.next | apply keeps_followed | apply keeps_faultyRecover)

theorem keeps_execPpsInEdge {s0 : State} {falling : Bool} {s : State} (hk : Keeps s0 s) :
    KeepsO s0 (execPpsInEdge falling s) := by
  unfold execPpsInEdge
  repeat' (first | assumption | apply Keeps.next | apply keeps_followed | apply keeps_ppsInEdge)

theorem keeps_execTimeHandback {s0 s : State} (hk : Keeps s0 s) :
    KeepsO s0 (execTimeHandback s) := by
  unfold execTimeHandback
  repeat' (first | assumption | apply Keeps.next | apply keeps_followed | apply keeps_timeHandback)

theorem keeps_execNetLinkStateChange {s0 : State} {p st : ℕ} {an fecLock inv : Bool} {s : State} (hk : Keeps s0 s) :
    KeepsO s0 (execNetLinkStateChange p st an fecLock inv s) := by
  unfold execNetLinkStateChange
  repeat' (first | with_reducible assumption | with_reducible apply Keeps.next | with_reducible apply Keeps.ite
                   | with_reducible apply KeepsO.ite | with_reducible apply keeps_followed
                   | with_reducible apply keeps_netLinkStateChange | with_reducible apply keeps_lanePolarity)

theorem keeps_execWclkInLoss {s0 s : State} (hk : Keeps s0 s) :
    KeepsO s0 (execWclkInLoss s) := by
  unfold execWclkInLoss
  repeat' (first | with_reducible assumption | with_reducible apply Keeps.next | with_reducible apply Keeps.ite
                   | with_reducible apply KeepsO.ite | with_reducible apply keeps_tioDetect
                   | with_reducible apply keeps_wclkInLoss)

theorem keeps_execMcsDetectorInterval {s0 : State} {n : ℕ} {err refPpb freq : ℤ} {s : State} (hk : Keeps s0 s) :
    KeepsO s0 (execMcsDetectorInterval n err refPpb freq s) := by
  unfold execMcsDetectorInterval
  repeat' (first | with_reducible assumption | with_reducible apply Keeps.next | with_reducible apply keeps_followed
                   | with_reducible apply keeps_mcsInterval)

theorem keeps_execStkMasterLoss {s0 s : State} (hk : Keeps s0 s) :
    KeepsO s0 (execStkMasterLoss s) := by
  unfold execStkMasterLoss
  repeat' (first | with_reducible assumption | with_reducible apply Keeps.next | with_reducible apply keeps_followed
                   | with_reducible apply keeps_stkMasterLoss)

theorem keeps_netApply {s0 s : State} {p : ℕ} (hk : Keeps s0 s) :
    Keeps s0 (netApply s p) := by
  unfold netApply
  try dsimp -zeta only
  repeat' (first
    | (extract_lets +onlyGivenNames x; first
      | (have hx : Keeps s0 x := by
          repeat' (first
            | (extract_lets +onlyGivenNames y) | with_reducible assumption | with_reducible apply Keeps.some
            | with_reducible apply KeepsP.none | with_reducible apply Keeps.ite | with_reducible apply keeps_capApply)
         clear_value x)
      | skip)
    | with_reducible assumption | with_reducible apply Keeps.some | with_reducible apply KeepsP.none
    | with_reducible apply Keeps.ite | with_reducible apply keeps_capApply
    | with_reducible apply keeps_netLinkStateChange
    | (refine (keeps_netLinkStateChange ?_).next _ ‹_ = Host.Outcome.next _›) | split)

theorem keeps_funApply {s0 s : State} (hk : Keeps s0 s) :
    Keeps s0 (funApply s) := by
  unfold funApply
  repeat' (first | with_reducible assumption | with_reducible apply keeps_capApply | with_reducible apply Keeps.foldl
                   | (intro _ _ _))

theorem keeps_twinGo {s0 s : State} {st : ℕ} (hk : Keeps s0 s) :
    Keeps s0 (twinGo s st) := by
  unfold twinGo
  dsimp only
  repeat' (first | with_reducible assumption | with_reducible apply Keeps.ite | with_reducible apply keeps_setFlds
                   | with_reducible apply keeps_setFld | with_reducible apply keeps_event)

theorem keeps_twinCfgTake {s0 s : State} {free : Bool} {v : Word} (hk : Keeps s0 s) :
    Keeps s0 (twinCfgTake s free v) := by
  unfold twinCfgTake
  dsimp only
  repeat' (first | assumption | apply Keeps.ite | apply keeps_wr)

theorem keeps_twinApply {s0 s : State} (hk : Keeps s0 s) : Keeps s0 (twinApply s) := by
  unfold twinApply
  extract_lets cfg free s1 s2 role s3
  have h1 : Keeps s0 s1 := keeps_capApply hk
  have h2 : Keeps s0 s2 := by
    unfold s2
    split
    · exact h1
    · exact keeps_twinCfgTake (keeps_capDrop h1)
  exact keeps_oeRefresh (Keeps.ite (keeps_twinGo h2) h2)

theorem keeps_takeUnit {s0 s : State} {g u : ℕ} (hk : Keeps s0 s) :
    Keeps s0 (takeUnit s g u) := by
  unfold takeUnit
  dsimp only
  repeat' (first | with_reducible assumption | with_reducible apply Keeps.ite | with_reducible apply keeps_capApply
                   | with_reducible apply keeps_tdmApply | with_reducible apply keeps_rxApply
                   | with_reducible apply keeps_txApply | with_reducible apply keeps_funApply
                   | with_reducible apply keeps_txPortApply | with_reducible apply keeps_laneApply
                   | with_reducible apply keeps_capDrop | with_reducible apply keeps_tbApply
                   | with_reducible apply keeps_netApply | with_reducible apply keeps_hstCfgApply
                   | with_reducible apply keeps_hstApply | with_reducible apply keeps_stkCfgApply
                   | with_reducible apply keeps_blkApply | with_reducible apply keeps_twinApply
                   | with_reducible apply keeps_protApply | split
                   | with_reducible refine Keeps.lit (FlashKeeps.refl _) ?_ ?_ ?_ ?_ | exact id)

theorem keeps_applyUnit {s0 s : State} {g u : ℕ} (hk : Keeps s0 s) :
    Keeps s0 (applyUnit s g u) := by
  unfold applyUnit
  repeat' (first | with_reducible assumption | with_reducible apply Keeps.ite | with_reducible apply keeps_xdomHold
                   | with_reducible apply keeps_takeUnit
                   | with_reducible refine Keeps.lit (FlashKeeps.refl _) ?_ ?_ ?_ ?_ | exact id)

theorem keeps_applyGroup {s0 s : State} {g : ℕ} (hk : Keeps s0 s) :
    Keeps s0 (applyGroup s g) := by
  unfold applyGroup
  dsimp only
  repeat' (first | assumption | apply keeps_applyUnit | apply keeps_pendRefresh | apply Keeps.foldl | (intro _ _ _)
                   | refine Keeps.lit (FlashKeeps.refl _) ?_ ?_ ?_ ?_ | exact id)

theorem keeps_applyAll {s0 s : State} (hk : Keeps s0 s) :
    Keeps s0 (applyAll s) := by
  unfold applyAll
  repeat' (first | assumption | apply keeps_applyGroup)

theorem keeps_execShadowApplyAtBoundary {s0 : State} {g u : ℕ} {s : State} (hk : Keeps s0 s) :
    KeepsO s0 (execShadowApplyAtBoundary g u s) := by
  unfold execShadowApplyAtBoundary
  dsimp only
  repeat' (first | with_reducible assumption | with_reducible apply Keeps.next | with_reducible apply Keeps.ite
                   | with_reducible apply KeepsO.ite | with_reducible apply keeps_applyUnit
                   | with_reducible apply keeps_followed | with_reducible apply keeps_pendRefresh
                   | with_reducible refine Keeps.lit (FlashKeeps.refl _) ?_ ?_ ?_ ?_ | exact id)

theorem keeps_strobe {s0 s : State} {groups : ℕ} (hk : Keeps s0 s) :
    Keeps s0 (strobe s groups) := by
  unfold strobe
  repeat' (first | assumption | apply keeps_follow | apply keeps_capture)

theorem keeps_execUpdateStrobe {s0 : State} {groups : ℕ} {s : State} (hk : Keeps s0 s) :
    KeepsO s0 (execUpdateStrobe groups s) := by
  unfold execUpdateStrobe
  repeat' (first | assumption | apply Keeps.next | apply keeps_strobe)

theorem keeps_platenFire {s0 s : State} {k : ℕ} (hk : Keeps s0 s) :
    Keeps s0 (platenFire s k) := by
  unfold platenFire
  dsimp only
  repeat' (first | assumption | apply Keeps.ite | apply keeps_setPl | apply keeps_groupStart | apply keeps_emit
                   | apply keeps_setFld)

theorem keeps_execPlatenStrobeArrival {s0 s : State} (hk : Keeps s0 s) :
    KeepsO s0 (execPlatenStrobeArrival s) := by
  unfold execPlatenStrobeArrival
  dsimp only
  repeat' (first | with_reducible assumption | with_reducible apply Keeps.next | with_reducible apply Keeps.ite
                   | with_reducible apply KeepsO.ite | with_reducible apply keeps_follow
                   | with_reducible apply keeps_captureAt | with_reducible apply Keeps.foldl | (intro _ _ _)
                   | with_reducible refine Keeps.lit (FlashKeeps.refl _) ?_ ?_ ?_ ?_ | exact id)

end Sys2Proof.Machine
end

