-- ==== Sys2Proof/Laws/KeepsFw.lean ====
section
/-! SUPPORT. Every definition of Machine/Fw.lean that answers a state keeps what Keeps names: the waiting commands,
the boot flash and the canonical form of the stores. -/

set_option linter.all false

namespace Sys2Proof.Machine

theorem keeps_setCmd {s0 s : State} {ch tag : ℕ} {f : Cmd → Cmd} (hk : Keeps s0 s) :
    Keeps s0 (setCmd s ch tag f) := by
  unfold setCmd
  repeat' (first | assumption | apply Keeps.ite | refine Keeps.lit (FlashKeeps.refl _) ?_ ?_ ?_ ?_ | exact id)

theorem keeps_pushReady {s0 s : State} {place : ℕ} {m : Msg} (hk : Keeps s0 s) :
    Keeps s0 (pushReady s place m) := by
  unfold pushReady
  repeat' (first | assumption | refine Keeps.lit (FlashKeeps.refl _) ?_ ?_ ?_ ?_ | exact id)

theorem keeps_pushFinal {s0 s : State} {ch : ℕ} {m : Msg} (hk : Keeps s0 s) :
    Keeps s0 (pushFinal s ch m) := by
  unfold pushFinal
  dsimp only
  repeat' (first | assumption | apply keeps_setEvtq)

theorem keeps_endCmd {s0 s : State} {ch tag status : ℕ} {data : List Byte} (hk : Keeps s0 s) :
    Keeps s0 (endCmd s ch tag status data) := by
  unfold endCmd
  dsimp only
  repeat' (first | assumption | apply Keeps.ite | apply keeps_setCmd | apply keeps_pushFinal | apply keeps_pushReady
                   | split)

theorem keeps_acceptCmd {s0 s : State} {ch tag : ℕ} (hk : Keeps s0 s) :
    Keeps s0 (acceptCmd s ch tag) := by
  unfold acceptCmd
  repeat' (first | assumption | apply keeps_pushReady | apply keeps_setCmd | split)

theorem keeps_recordWork {s0 old s : State} (hk : Keeps s0 s) :
    Keeps s0 (recordWork old s) := by
  unfold recordWork
  dsimp only
  repeat' (first | assumption | apply Keeps.ite | apply Keeps.foldl | (intro _ _ _)
                   | refine Keeps.lit (FlashKeeps.refl _) ?_ ?_ ?_ ?_ | exact id)

theorem keeps_ckptConfig {s0 s : State} (hk : Keeps s0 s) :
    Keeps s0 (ckptConfig s) := by
  unfold ckptConfig
  repeat' (first | with_reducible assumption | with_reducible apply Keeps.ite | with_reducible apply keeps_stkPut)

theorem keeps_setGen {s0 s : State} {g op ch : ℕ} (hk : Keeps s0 s) :
    Keeps s0 (setGen s g op ch) := by
  unfold setGen
  dsimp only
  repeat' (first | with_reducible assumption | with_reducible apply Keeps.ite | with_reducible apply keeps_crcHold
                   | with_reducible apply keeps_setFld | with_reducible apply keeps_event
                   | with_reducible apply keeps_stkTell | with_reducible apply keeps_ckptConfig
                   | with_reducible refine Keeps.lit (FlashKeeps.refl _) ?_ ?_ ?_ ?_ | exact id)

theorem keeps_raiseGen {s0 s : State} {op ch : ℕ} (hk : Keeps s0 s) :
    Keeps s0 (raiseGen s op ch) := by
  unfold raiseGen
  repeat' (first | assumption | apply keeps_setGen)

theorem keeps_refuse {s0 s : State} {st : ℕ} (hk : Keeps s0 s) :
    Keeps s0 (refuse s st).2.2 := by
  unfold refuse
  repeat' (first | assumption)

theorem keeps_finishGen {s0 s : State} {op ch : ℕ} (hk : Keeps s0 s) :
    Keeps s0 (finishGen s op ch) := by
  unfold finishGen
  repeat' (first | with_reducible assumption | with_reducible apply Keeps.ite | with_reducible apply keeps_setGen
                   | with_reducible apply keeps_raiseGen
                   | with_reducible refine Keeps.lit (FlashKeeps.refl _) ?_ ?_ ?_ ?_ | exact id)

theorem keeps_settle {s0 old : State} {op ch : ℕ} {o : CmdOut} (hk : Keeps s0 o.2.2) : Keeps s0 (settle old op ch o).2.2 := by
  unfold settle
  split
  · exact keeps_finishGen (keeps_recordWork hk)
  · exact hk

theorem keeps_sendEdit {s0 s after : State} {c : Cmd} (hk : Keeps s0 s) :
    Keeps s0 (sendEdit s after c) := by
  unfold sendEdit
  dsimp only
  repeat' (first | assumption | apply keeps_recordWork | apply keeps_stkTell | apply keeps_stkPut | split
                   | refine Keeps.lit (FlashKeeps.refl _) ?_ ?_ ?_ ?_ | exact id)

theorem keeps_judged {s0 s : State} {op : ℕ} {b : CmdOut} (hk : Keeps s0 s) (hb : Keeps s0 b.2.2) :
    Keeps s0 (judged s op b).2.2 := by
  unfold judged
  split
  · exact keeps_refuse hk
  · exact hb

/-- Running a command keeps what its body keeps. -/
theorem keeps_runCmd {s0 : State} {op : ℕ} {lenOk : ℕ → Bool} {locked : State → List Byte → Bool}
    {body : State → List Byte → CmdOut} {ch tag : ℕ} {s : State} (hb : ∀ x p, Keeps s0 x → Keeps s0 (body x p).2.2)
    (hk : Keeps s0 s) : KeepsO s0 (runCmd op lenOk locked body ch tag s) := by
  unfold runCmd
  split
  · exact hk.next
  rename_i c _
  have hj : Keeps s0 (judged s op (body s c.payload)).2.2 := keeps_judged hk (hb _ _ hk)
  generalize judged s op (body s c.payload) = b at hj ⊢
  repeat' (first
    | (extract_lets +onlyGivenNames x) | with_reducible assumption | with_reducible apply Keeps.next
    | with_reducible apply keeps_endCmd | with_reducible apply keeps_follow | with_reducible apply keeps_acceptCmd
    | with_reducible apply keeps_settle | with_reducible apply keeps_sendEdit
    | with_reducible apply Keeps.ite | with_reducible apply KeepsO.ite | split)

/-- Running a command keeps what its body keeps. -/
theorem keeps_runAccepted {s0 : State} {op : ℕ} {lenOk : ℕ → Bool} {locked : State → List Byte → Bool}
    {body : State → List Byte → CmdOut} {ch tag : ℕ} {s : State} (hb : ∀ x p, Keeps s0 x → Keeps s0 (body x p).2.2)
    (hk : Keeps s0 s) : KeepsO s0 (runAccepted op lenOk locked body ch tag s) := by
  unfold runAccepted
  split
  · exact hk.next
  rename_i c _
  have hj : Keeps s0 (judged s op (body s c.payload)).2.2 := keeps_judged hk (hb _ _ hk)
  generalize judged s op (body s c.payload) = b at hj ⊢
  repeat' (first
    | (extract_lets +onlyGivenNames x) | with_reducible assumption | with_reducible apply Keeps.next
    | with_reducible apply keeps_endCmd | with_reducible apply keeps_follow | with_reducible apply keeps_acceptCmd
    | with_reducible apply keeps_settle | with_reducible apply keeps_sendEdit
    | with_reducible apply Keeps.ite | with_reducible apply KeepsO.ite | split)

end Sys2Proof.Machine
end

