-- ==== Sys2Proof/Laws/KeepsForme.lean ====
section
/-! SUPPORT. Every definition of Machine/Forme.lean that answers a state keeps what Keeps names: the waiting commands,
the boot flash and the canonical form of the stores. -/

set_option linter.all false

namespace Sys2Proof.Machine

theorem keeps_asIf {s0 s : State} {b : FormeImg} (hk : Keeps s0 s) :
    Keeps s0 (asIf s b) := by
  unfold asIf
  dsimp only
  repeat' (first | with_reducible assumption | with_reducible apply Keeps.ite | with_reducible apply keeps_wr
                   | with_reducible apply keeps_setFld | with_reducible apply Keeps.foldl | (intro _ _ _))

theorem keeps_fwPut {s0 s : State} {f : FormeImg} {key : ℕ} (hk : Keeps s0 s) :
    Keeps s0 (fwPut s f key) := by
  unfold fwPut
  dsimp only
  repeat' (first | assumption | apply Keeps.ite | apply keeps_qResWrite | apply keeps_qCapWrite
                   | apply keeps_qCfgWrite | apply keeps_budgetWrite | apply keeps_wrSh | apply keeps_wr | split)

theorem keeps_fwPuts {s0 s : State} {f : FormeImg} {ks : List ℕ} (hk : Keeps s0 s) :
    Keeps s0 (fwPuts s f ks) := by
  unfold fwPuts
  repeat' (first | assumption | apply keeps_fwPut | apply Keeps.foldl | (intro _ _ _))

theorem keeps_muteAll {s0 s : State} {ds : List ℕ} {f : Option FormeImg} (hk : Keeps s0 s) :
    Keeps s0 (muteAll s ds f) := by
  unfold muteAll
  dsimp only
  repeat' (first | with_reducible assumption | with_reducible apply Keeps.ite | with_reducible apply keeps_setImp
                   | with_reducible apply keeps_strobe | with_reducible apply Keeps.foldl | (intro _ _ _) | split
                   | with_reducible refine Keeps.lit (FlashKeeps.refl _) ?_ ?_ ?_ ?_ | exact id)

theorem keeps_stageStrobe {s0 s : State} {groups : ℕ} (hk : Keeps s0 s) :
    Keeps s0 (stageStrobe s groups) := by
  unfold stageStrobe
  repeat' (first | with_reducible assumption | with_reducible apply Keeps.ite | with_reducible apply keeps_applyAll
                   | with_reducible apply keeps_strobe | with_reducible refine Keeps.lit (FlashKeeps.refl _) ?_ ?_ ?_ ?_
                   | exact id)

theorem keeps_stageGalley {s0 s : State} {a b : FormeImg} (hk : Keeps s0 s) :
    Keeps s0 (stageGalley s a b) := by
  unfold stageGalley
  dsimp only
  repeat' (first | assumption | apply keeps_wrSh | apply keeps_stageStrobe | apply keeps_fwPuts | apply keeps_keyWrite
                   | apply Keeps.foldl | (intro _ _ _) | split)

theorem keeps_putRoutes {s0 s : State} {b : FormeImg} {ds : List ℕ} (hk : Keeps s0 s) :
    Keeps s0 (putRoutes s b ds) := by
  unfold putRoutes
  repeat' (first | assumption | apply keeps_impWrite | apply Keeps.foldl | (intro _ _ _))

theorem keeps_restartDirs {s0 s : State} {b : FormeImg} {dirs : List ℕ} (hk : Keeps s0 s) :
    Keeps s0 (restartDirs s b dirs) := by
  unfold restartDirs
  dsimp only
  repeat' (first | with_reducible assumption | with_reducible apply Keeps.ite | with_reducible apply keeps_fwPuts
                   | with_reducible apply keeps_stageStrobe | with_reducible apply keeps_cmdWrite
                   | with_reducible apply keeps_groupStart | with_reducible apply Keeps.foldl | (intro _ _ _))

theorem keeps_stageRun {s0 s : State} {a b : FormeImg} {changed dirs : List ℕ} {n : ℕ} (hk : Keeps s0 s) :
    Keeps s0 (stageRun s a b changed dirs n) := by
  unfold stageRun
  dsimp only
  repeat' (first | with_reducible assumption | with_reducible apply Keeps.ite | with_reducible apply keeps_stageStrobe
                   | with_reducible apply keeps_fwPuts | with_reducible apply keeps_stageGalley
                   | with_reducible apply keeps_putRoutes | with_reducible apply keeps_impWrite
                   | with_reducible apply keeps_cmdWrite | with_reducible apply keeps_restartDirs
                   | with_reducible apply Keeps.foldl | (intro _ _ _))

theorem keeps_frmGo {s0 s : State} {st stage : ℕ} (hk : Keeps s0 s) :
    Keeps s0 (frmGo s st stage) := by
  unfold frmGo
  dsimp only
  repeat' (first | assumption | apply Keeps.ite | apply keeps_setFld)

theorem keeps_setApply {s0 s : State} {a : Option Apply} (hk : Keeps s0 s) :
    Keeps s0 (setApply s a) := by
  unfold setApply
  repeat' (first | assumption | refine Keeps.lit (FlashKeeps.refl _) ?_ ?_ ?_ ?_ | exact id)

theorem keeps_armEpoch {s0 s : State} {k pti raw : ℕ} (hk : Keeps s0 s) :
    Keeps s0 (armEpoch s k pti raw) := by
  unfold armEpoch
  dsimp only
  repeat' (first | with_reducible assumption | with_reducible apply keeps_setPlFire
                   | with_reducible apply keeps_setFlds | with_reducible apply keeps_plCfgWrite
                   | with_reducible apply keeps_setPl)

theorem keeps_beginApply {s0 s : State} {target : FormeImg} {platen pti raw : ℕ} {cmd : Option (ℕ × ℕ)} {takeGen : Option ℕ} (hk : Keeps s0 s) :
    Keeps s0 (beginApply s target platen pti raw cmd takeGen) := by
  unfold beginApply
  dsimp only
  repeat' (first | with_reducible assumption | with_reducible apply Keeps.ite | with_reducible apply keeps_setApply
                   | with_reducible apply keeps_armEpoch | with_reducible apply keeps_frmGo)

theorem keeps_applyDone {s0 s : State} {a : Apply} (hk : Keeps s0 s) :
    Keeps s0 (applyDone s a) := by
  unfold applyDone
  dsimp only
  repeat' (first | with_reducible assumption | with_reducible apply Keeps.ite | with_reducible apply keeps_setPl
                   | with_reducible apply keeps_setFlds | with_reducible apply keeps_setApply
                   | with_reducible apply keeps_frmGo | with_reducible apply keeps_setGen
                   | with_reducible apply keeps_setFld | with_reducible apply keeps_finishGen
                   | with_reducible apply keeps_endCmd | with_reducible apply keeps_raiseGen | split
                   | with_reducible refine Keeps.lit (FlashKeeps.refl _) ?_ ?_ ?_ ?_ | exact id)

theorem keeps_applyFailed {s0 s : State} {a : Apply} {status : ℕ} (hk : Keeps s0 s) :
    Keeps s0 (applyFailed s a status) := by
  unfold applyFailed
  dsimp only
  repeat' (first | with_reducible assumption | with_reducible apply keeps_setPl | with_reducible apply keeps_setFlds
                   | with_reducible apply keeps_setApply | with_reducible apply keeps_frmGo
                   | with_reducible apply keeps_endCmd | split
                   | with_reducible refine Keeps.lit (FlashKeeps.refl _) ?_ ?_ ?_ ?_ | exact id)

theorem keeps_beginRollback {s0 s : State} {a : Apply} {n status : ℕ} (hk : Keeps s0 s) :
    Keeps s0 (beginRollback s a n status) := by
  unfold beginRollback
  dsimp only
  repeat' (first | with_reducible assumption | with_reducible apply keeps_setFlds
                   | with_reducible apply keeps_armEpoch | with_reducible apply keeps_setApply
                   | with_reducible apply keeps_frmGo)

theorem keeps_abortApply {s0 s : State} {status : ℕ} (hk : Keeps s0 s) :
    Keeps s0 (abortApply s status) := by
  unfold abortApply
  dsimp only
  repeat' (first | assumption | apply Keeps.ite | apply keeps_applyFailed | apply keeps_setFld
                   | apply keeps_beginRollback | split)

theorem keeps_epochRun {s0 s : State} {a : Apply} (hk : Keeps s0 s) :
    Keeps s0 (epochRun s a) := by
  unfold epochRun
  dsimp only
  repeat' (first | with_reducible assumption | with_reducible apply Keeps.ite | with_reducible apply keeps_platenFire
                   | with_reducible apply keeps_muteAll | with_reducible apply keeps_setApply
                   | with_reducible apply keeps_stageRun | with_reducible apply keeps_armEpoch
                   | with_reducible apply keeps_fwPuts | with_reducible apply keeps_impWrite
                   | with_reducible apply keeps_stageStrobe | with_reducible apply keeps_frmGo
                   | with_reducible apply Keeps.foldl | (intro _ _ _))

theorem keeps_formeEpoch {s0 s : State} (hk : Keeps s0 s) :
    Keeps s0 (formeEpoch s) := by
  unfold formeEpoch
  repeat' (first | with_reducible assumption | with_reducible apply Keeps.ite | with_reducible apply keeps_epochRun
                   | split)

theorem keeps_execFormeEpoch {s0 s : State} (hk : Keeps s0 s) :
    KeepsO s0 (execFormeEpoch s) := by
  unfold execFormeEpoch
  repeat' (first | assumption | apply Keeps.next | apply keeps_formeEpoch)

theorem keeps_stageVerify {s0 s : State} (hk : Keeps s0 s) :
    Keeps s0 (stageVerify s) := by
  unfold stageVerify
  dsimp only
  repeat' (first | with_reducible assumption | with_reducible apply Keeps.ite | with_reducible apply keeps_applyFailed
                   | with_reducible apply keeps_capture | with_reducible apply keeps_setFld
                   | with_reducible apply keeps_applyDone | with_reducible apply keeps_restartDirs
                   | with_reducible apply keeps_beginRollback | split)

theorem keeps_execFormeStageVerify {s0 s : State} (hk : Keeps s0 s) :
    KeepsO s0 (execFormeStageVerify s) := by
  unfold execFormeStageVerify
  repeat' (first | with_reducible assumption | with_reducible apply Keeps.next | with_reducible apply keeps_followed
                   | with_reducible apply keeps_stageVerify)

theorem keeps_frmApplyBody {s0 : State} {ch tag : ℕ} {s : State} {p : List Byte} (hk : Keeps s0 s) :
    Keeps s0 (frmApplyBody ch tag s p).2.2 := by
  unfold frmApplyBody
  dsimp only
  repeat' (first | with_reducible assumption | with_reducible apply Keeps.ite | with_reducible apply Keeps.ite3
                   | with_reducible apply keeps_refuse | with_reducible apply keeps_setFld
                   | with_reducible apply keeps_beginApply | split)

theorem keeps_applyRefused {s0 : State} {ch tag : ℕ} {o : Out3} (hk : KeepsO s0 o) : KeepsO s0 (applyRefused ch tag o) := by
  cases o with
  | next t =>
    have ht := hk.next t rfl
    unfold applyRefused
    dsimp -zeta only
    split
    · exact (Keeps.ite (keeps_setFld (keeps_setFld ht)) (keeps_setFld ht)).next
    · exact ht.next
  | fault f => exact KeepsO.fault
  | refused r => exact ⟨fun _ e => nomatch e⟩

theorem keeps_execFrmApply {s0 : State} {ch tag : ℕ} {s : State} (hk : Keeps s0 s) :
    KeepsO s0 (execFrmApply ch tag s) := by
  unfold execFrmApply
  repeat' (first | assumption | apply Keeps.next | apply KeepsO.ite | split | apply keeps_applyRefused
                   | apply keeps_runAccepted | apply keeps_frmApplyBody)

theorem keeps_recordImps {s0 s : State} (hk : Keeps s0 s) :
    Keeps s0 (recordImps s) := by
  unfold recordImps
  repeat' (first | assumption | apply Keeps.foldl | (intro _ _ _) | refine Keeps.lit (FlashKeeps.refl _) ?_ ?_ ?_ ?_
                   | exact id)

theorem keeps_execPlatenFire {s0 : State} {k : ℕ} {s : State} (hk : Keeps s0 s) :
    KeepsO s0 (execPlatenFire k s) := by
  unfold execPlatenFire
  dsimp only
  repeat' (first | with_reducible assumption | with_reducible apply Keeps.next | with_reducible apply Keeps.ite
                   | with_reducible apply KeepsO.ite | with_reducible apply keeps_formeEpoch
                   | with_reducible apply keeps_platenFire | with_reducible apply keeps_setPl
                   | with_reducible apply keeps_recordImps | with_reducible apply keeps_finishGen
                   | with_reducible apply keeps_endCmd | split
                   | with_reducible refine Keeps.lit (FlashKeeps.refl _) ?_ ?_ ?_ ?_ | exact id)

theorem keeps_execStkGenPull {s0 : State} {stored crc : ℕ} {diff : List Byte} {record : Bool} {s : State} (hk : Keeps s0 s) :
    KeepsO s0 (execStkGenPull stored crc diff record s) := by
  unfold execStkGenPull
  dsimp only
  repeat' (first | with_reducible assumption | with_reducible apply Keeps.next | with_reducible apply Keeps.ite
                   | with_reducible apply KeepsO.ite | with_reducible apply keeps_abortApply
                   | with_reducible apply keeps_stkJoin | with_reducible apply keeps_setGen
                   | with_reducible apply keeps_stkTell | with_reducible apply keeps_beginApply
                   | with_reducible apply keeps_fresh | with_reducible apply keeps_event
                   | with_reducible apply keeps_stkGo | split
                   | with_reducible refine Keeps.lit (FlashKeeps.refl _) ?_ ?_ ?_ ?_ | exact id | (exact fun _ => rfl))

end Sys2Proof.Machine
end

