-- ==== Sys2Proof/Laws/KeepsTwin.lean ====
section
/-! SUPPORT. Every definition of Machine/Twin.lean that answers a state keeps what Keeps names: the waiting commands,
the boot flash and the canonical form of the stores. -/

set_option linter.all false

namespace Sys2Proof.Machine

theorem keeps_twinCount {s0 s : State} {i n : ℕ} (hk : Keeps s0 s) :
    Keeps s0 (twinCount s i n) := by
  unfold twinCount
  dsimp only
  repeat' (first | with_reducible assumption | with_reducible apply Keeps.ite | with_reducible apply keeps_countSatN)

theorem keeps_twinPair {s0 s : State} (hk : Keeps s0 s) :
    Keeps s0 (twinPair s) := by
  unfold twinPair
  repeat' (first | with_reducible assumption | with_reducible apply keeps_oeRefresh
                   | with_reducible apply keeps_twinGo | with_reducible apply keeps_setFld
                   | with_reducible apply keeps_setTwin
                   | with_reducible refine Keeps.lit (FlashKeeps.refl _) ?_ ?_ ?_ ?_ | exact id)

theorem keeps_twinActivate {s0 s : State} (hk : Keeps s0 s) :
    Keeps s0 (twinActivate s) := by
  unfold twinActivate
  repeat' (first | assumption | apply keeps_ckptConfig | apply keeps_oeRefresh | apply keeps_twinGo)

theorem keeps_heartbeatRx {s0 s : State} {role st _gen seq : ℕ} (hk : Keeps s0 s) :
    Keeps s0 (heartbeatRx s role st _gen seq) := by
  unfold heartbeatRx
  dsimp only
  repeat' (first | with_reducible assumption | with_reducible apply Keeps.ite | with_reducible apply keeps_setFlds
                   | with_reducible apply keeps_setTwin | with_reducible apply keeps_twinActivate
                   | with_reducible apply keeps_twinPair | with_reducible apply keeps_setFld
                   | with_reducible apply keeps_setFldSh | with_reducible apply keeps_ckptConfig)

theorem keeps_execTwinHeartbeatTx {s0 s : State} (hk : Keeps s0 s) :
    KeepsO s0 (execTwinHeartbeatTx s) := by
  unfold execTwinHeartbeatTx
  dsimp only
  repeat' (first | assumption | apply Keeps.next | apply Keeps.ite | apply KeepsO.ite | apply keeps_setSlink
                   | apply keeps_emit)

theorem keeps_twinTake {s0 s : State} {cause : ℕ} (hk : Keeps s0 s) :
    Keeps s0 (twinTake s cause) := by
  unfold twinTake
  dsimp only
  repeat' (first | with_reducible assumption | with_reducible apply Keeps.ite | with_reducible apply keeps_setFlds
                   | with_reducible apply keeps_twinCount | with_reducible apply keeps_setTwin
                   | with_reducible apply keeps_oeRefresh | with_reducible apply keeps_twinGo
                   | with_reducible apply keeps_emit | with_reducible apply keeps_stkGo
                   | with_reducible refine Keeps.lit (FlashKeeps.refl _) ?_ ?_ ?_ ?_ | exact id)

theorem keeps_twinDecide {s0 s : State} {cause : ℕ} (hk : Keeps s0 s) :
    Keeps s0 (twinDecide s cause) := by
  unfold twinDecide
  repeat' (first | with_reducible assumption | with_reducible apply Keeps.ite | with_reducible apply keeps_setFld
                   | with_reducible apply keeps_twinTake)

theorem keeps_execTwinHeartbeatMiss {s0 s : State} (hk : Keeps s0 s) :
    KeepsO s0 (execTwinHeartbeatMiss s) := by
  unfold execTwinHeartbeatMiss
  dsimp only
  repeat' (first | with_reducible assumption | with_reducible apply Keeps.next | with_reducible apply Keeps.ite
                   | with_reducible apply KeepsO.ite | with_reducible apply keeps_setTwin
                   | with_reducible apply keeps_twinCount | with_reducible apply keeps_setFlds
                   | with_reducible apply keeps_twinDecide)

theorem keeps_execTwinFailPin {s0 : State} {ns : ℕ} {s : State} (hk : Keeps s0 s) :
    KeepsO s0 (execTwinFailPin ns s) := by
  unfold execTwinFailPin
  repeat' (first | with_reducible assumption | with_reducible apply Keeps.next | with_reducible apply Keeps.ite
                   | with_reducible apply KeepsO.ite | with_reducible apply keeps_twinDecide)

theorem keeps_execTwinCmdTake {s0 s : State} (hk : Keeps s0 s) :
    KeepsO s0 (execTwinCmdTake s) := by
  unfold execTwinCmdTake
  repeat' (first | with_reducible assumption | with_reducible apply Keeps.next | with_reducible apply Keeps.ite
                   | with_reducible apply KeepsO.ite | with_reducible apply keeps_twinTake)

theorem keeps_dropWaiting {s0 s : State} (hk : Keeps s0 s) :
    Keeps s0 (dropWaiting s) := by
  unfold dropWaiting
  dsimp only
  repeat' (first | with_reducible assumption | with_reducible apply Keeps.ite
                   | with_reducible apply keeps_releaseIfDone | with_reducible apply Keeps.foldl | (intro _ _ _)
                   | with_reducible refine Keeps.lit (FlashKeeps.refl _) ?_ ?_ ?_ ?_ | exact id)

theorem keeps_twinYield {s0 s : State} (hk : Keeps s0 s) :
    Keeps s0 (twinYield s) := by
  unfold twinYield
  dsimp only
  repeat' (first | assumption | apply keeps_abortApply | apply keeps_setFld | apply keeps_setTwin
                   | apply keeps_dropWaiting | apply keeps_oeRefresh | apply keeps_twinGo)

theorem keeps_execTwinTakePulseSeen {s0 s : State} (hk : Keeps s0 s) :
    KeepsO s0 (execTwinTakePulseSeen s) := by
  unfold execTwinTakePulseSeen
  repeat' (first | assumption | apply Keeps.next | apply Keeps.ite | apply KeepsO.ite | apply keeps_twinYield)

theorem keeps_execTwinTakingEnd {s0 s : State} (hk : Keeps s0 s) :
    KeepsO s0 (execTwinTakingEnd s) := by
  unfold execTwinTakingEnd
  dsimp only
  repeat' (first | with_reducible assumption | with_reducible apply Keeps.next | with_reducible apply Keeps.ite
                   | with_reducible apply KeepsO.ite | with_reducible apply keeps_twinActivate
                   | with_reducible apply keeps_setFld | with_reducible apply keeps_setFldSh
                   | with_reducible apply keeps_stkGo | with_reducible refine Keeps.lit (FlashKeeps.refl _) ?_ ?_ ?_ ?_
                   | exact id)

theorem keeps_execTwinPairingTimeout {s0 s : State} (hk : Keeps s0 s) :
    KeepsO s0 (execTwinPairingTimeout s) := by
  unfold execTwinPairingTimeout
  repeat' (first | with_reducible assumption | with_reducible apply Keeps.next | with_reducible apply Keeps.ite
                   | with_reducible apply KeepsO.ite | with_reducible apply keeps_twinActivate)

theorem keeps_twinLinkDown {s0 s : State} {l : ℕ} (hk : Keeps s0 s) :
    Keeps s0 (twinLinkDown s l) := by
  unfold twinLinkDown
  repeat' (first | assumption | apply Keeps.ite | apply keeps_twinPair)

theorem keeps_dynSend {s0 s : State} (hk : Keeps s0 s) :
    Keeps s0 (dynSend s) := by
  unfold dynSend
  dsimp only
  repeat' (first | assumption | apply keeps_setTwin | apply keeps_stkPut)

theorem keeps_execTwinCheckpointDynamicTx {s0 s : State} (hk : Keeps s0 s) :
    KeepsO s0 (execTwinCheckpointDynamicTx s) := by
  unfold execTwinCheckpointDynamicTx
  dsimp only
  repeat' (first | with_reducible assumption | with_reducible apply Keeps.next | with_reducible apply Keeps.ite
                   | with_reducible apply KeepsO.ite | with_reducible apply keeps_setTwin
                   | with_reducible apply keeps_dynSend)

theorem keeps_execTwinCmdHandover {s0 s : State} (hk : Keeps s0 s) :
    KeepsO s0 (execTwinCmdHandover s) := by
  unfold execTwinCmdHandover
  dsimp only
  repeat' (first | with_reducible assumption | with_reducible apply Keeps.next | with_reducible apply Keeps.ite
                   | with_reducible apply KeepsO.ite | with_reducible apply keeps_stkTell
                   | with_reducible apply keeps_dynSend | with_reducible apply keeps_setTwin)

theorem keeps_handoverRx {s0 s : State} {cycles : ℕ} (hk : Keeps s0 s) :
    Keeps s0 (handoverRx s cycles) := by
  unfold handoverRx
  repeat' (first | assumption | apply Keeps.ite | apply keeps_setTwin)

theorem keeps_execTwinHandoverCycle {s0 s : State} (hk : Keeps s0 s) :
    KeepsO s0 (execTwinHandoverCycle s) := by
  unfold execTwinHandoverCycle
  dsimp only
  repeat' (first | with_reducible assumption | with_reducible apply Keeps.next | with_reducible apply Keeps.ite
                   | with_reducible apply KeepsO.ite | with_reducible apply keeps_setTwin
                   | with_reducible apply keeps_twinTake | with_reducible apply keeps_twinYield | split)

theorem keeps_ckptFail {s0 s : State} (hk : Keeps s0 s) :
    Keeps s0 (ckptFail s) := by
  unfold ckptFail
  repeat' (first | assumption | apply keeps_twinCount | apply keeps_setFld)

theorem keeps_proofFail {s0 s : State} {i : ℕ} (hk : Keeps s0 s) :
    Keeps s0 (proofFail s i) := by
  unfold proofFail
  repeat' (first | assumption | apply Keeps.ite | apply keeps_setFld | apply keeps_setTwin)

theorem keeps_hashCompare {s0 s : State} {fl : List CkptFlow} (hk : Keeps s0 s) :
    Keeps s0 (hashCompare s fl) := by
  unfold hashCompare
  dsimp only
  repeat' (first | with_reducible assumption | with_reducible apply Keeps.ite | with_reducible apply keeps_twinCount
                   | with_reducible apply keeps_proofFail | with_reducible apply keeps_setTwin
                   | with_reducible apply Keeps.foldl | (intro _ _ _))

theorem keeps_loadFlow {s0 s : State} {c : CkptFlow} (hk : Keeps s0 s) :
    Keeps s0 (loadFlow s c) := by
  unfold loadFlow
  dsimp only
  repeat' (first | assumption | apply Keeps.ite | apply keeps_setTxf | apply keeps_wr)

theorem keeps_loadOff {s0 s : State} {o : ℕ × ℕ} (hk : Keeps s0 s) :
    Keeps s0 (loadOff s o) := by
  unfold loadOff
  dsimp only
  repeat' (first | assumption | apply Keeps.ite | apply keeps_startSlew)

theorem keeps_dynApply {s0 s : State} {fl : List CkptFlow} {of_ : List (ℕ × ℕ)} (hk : Keeps s0 s) :
    Keeps s0 (dynApply s fl of_) := by
  unfold dynApply
  dsimp only
  repeat' (first | assumption | apply keeps_setTwin | apply keeps_loadOff | apply keeps_loadFlow | apply Keeps.foldl)

theorem keeps_cfgTry {s0 s : State} {ready : Bool} (hk : Keeps s0 s) :
    Keeps s0 (cfgTry s ready) := by
  unfold cfgTry
  repeat' (first | assumption | apply Keeps.ite | apply keeps_beginApply | apply keeps_setTwin | split)

theorem keeps_pairTry {s0 s : State} (hk : Keeps s0 s) :
    Keeps s0 (pairTry s) := by
  unfold pairTry
  repeat' (first | with_reducible assumption | with_reducible apply Keeps.ite | with_reducible apply keeps_oeRefresh
                   | with_reducible apply keeps_twinGo)

theorem keeps_dynCommit {s0 s : State} {b : List Byte} (hk : Keeps s0 s) :
    Keeps s0 (dynCommit s b) := by
  unfold dynCommit
  dsimp only
  repeat' (first | with_reducible assumption | with_reducible apply Keeps.ite | with_reducible apply keeps_hashCompare
                   | with_reducible apply keeps_setTwin | with_reducible apply keeps_pairTry
                   | with_reducible apply keeps_cfgTry | with_reducible apply keeps_dynApply)

theorem keeps_cfgCommit {s0 s : State} {b : List Byte} (hk : Keeps s0 s) :
    Keeps s0 (cfgCommit s b) := by
  unfold cfgCommit
  dsimp only
  repeat' (first | with_reducible assumption | with_reducible apply Keeps.ite | with_reducible apply keeps_setFld
                   | with_reducible apply keeps_setTwin | with_reducible apply keeps_pairTry
                   | with_reducible apply keeps_cfgTry | with_reducible apply keeps_dynApply | split)

theorem keeps_execTwinCheckpointCommit {s0 s : State} (hk : Keeps s0 s) :
    KeepsO s0 (execTwinCheckpointCommit s) := by
  unfold execTwinCheckpointCommit
  dsimp only
  repeat' (first | with_reducible assumption | with_reducible apply Keeps.next | with_reducible apply Keeps.ite
                   | with_reducible apply KeepsO.ite | with_reducible apply keeps_galPop
                   | with_reducible apply keeps_galRefresh | with_reducible apply keeps_galFreeFirst
                   | with_reducible apply keeps_ckptFail | with_reducible apply keeps_cfgCommit
                   | with_reducible apply keeps_dynCommit | split)

theorem keeps_healthClose {s0 s : State} (hk : Keeps s0 s) :
    Keeps s0 (healthClose s) := by
  unfold healthClose
  dsimp only
  repeat' (first | assumption | apply Keeps.ite | apply keeps_setFld | apply keeps_setTwin)

theorem keeps_proofTests {s0 s : State} {march loop : ℕ} (hk : Keeps s0 s) :
    Keeps s0 (proofTests s march loop) := by
  unfold proofTests
  dsimp only
  repeat' (first | with_reducible assumption | with_reducible apply Keeps.ite | with_reducible apply keeps_twinCount
                   | with_reducible apply keeps_proofFail)

theorem keeps_execTwinHealthPeriodEnd {s0 : State} {march loop : ℕ} {s : State} (hk : Keeps s0 s) :
    KeepsO s0 (execTwinHealthPeriodEnd march loop s) := by
  unfold execTwinHealthPeriodEnd
  dsimp only
  repeat' (first | with_reducible assumption | with_reducible apply Keeps.next | with_reducible apply Keeps.ite
                   | with_reducible apply KeepsO.ite | with_reducible apply keeps_healthClose
                   | with_reducible apply keeps_proofTests | with_reducible apply keeps_event)

theorem keeps_tdmCompare {s0 s : State} {p k : ℕ} {sdo : List ℕ} (hk : Keeps s0 s) :
    Keeps s0 (tdmCompare s p k sdo) := by
  unfold tdmCompare
  dsimp only
  repeat' (first | with_reducible assumption | with_reducible apply Keeps.ite | with_reducible apply keeps_twinCount
                   | with_reducible apply keeps_proofFail)

end Sys2Proof.Machine
end

