-- ==== Sys2Proof/Laws/KeepsGuard.lean ====
section
/-! SUPPORT. Every definition of Machine/Guard.lean that answers a state keeps what Keeps names: the waiting commands,
the boot flash and the canonical form of the stores. -/

set_option linter.all false

namespace Sys2Proof.Machine

theorem keeps_execGrdReadbackFault {s0 : State} {n pin kind : ℕ} {s : State} (hk : Keeps s0 s) :
    KeepsO s0 (execGrdReadbackFault n pin kind s) := by
  unfold execGrdReadbackFault
  dsimp only
  repeat' (first | with_reducible assumption | with_reducible apply Keeps.next | with_reducible apply KeepsO.fault
                   | with_reducible apply Keeps.ite | with_reducible apply KeepsO.ite
                   | with_reducible apply keeps_tdmDetect
                   | with_reducible refine Keeps.lit (FlashKeeps.refl _) ?_ ?_ ?_ ?_ | exact id)

theorem keeps_frameFaults {s0 s : State} {n : ℕ} {rx : Bool} (hk : Keeps s0 s) :
    Keeps s0 (frameFaults s n rx) := by
  unfold frameFaults
  dsimp only
  repeat' (first | assumption | apply Keeps.ite | apply Keeps.foldl | (intro _ _ _)
                   | refine Keeps.lit (FlashKeeps.refl _) ?_ ?_ ?_ ?_ | exact id)

theorem keeps_execTdmFrame {s0 : State} {p : ℕ} {rx maskReady : Bool} {len high : ℕ} {line sdo : List ℕ} {s : State} (hk : Keeps s0 s) :
    KeepsO s0 (execTdmFrame p rx maskReady len high line sdo s) := by
  unfold execTdmFrame
  dsimp only
  repeat' (first | with_reducible assumption | with_reducible apply Keeps.next | with_reducible apply Keeps.ite
                   | with_reducible apply KeepsO.ite | with_reducible apply keeps_frameFaults
                   | with_reducible apply keeps_tdmFrame | with_reducible apply keeps_tdmCompare)

theorem keeps_execGrdPinTrip {s0 : State} {n pin : ℕ} {s : State} (hk : Keeps s0 s) :
    KeepsO s0 (execGrdPinTrip n pin s) := by
  unfold execGrdPinTrip
  dsimp only
  repeat' (first | with_reducible assumption | with_reducible apply Keeps.next | with_reducible apply Keeps.ite
                   | with_reducible apply KeepsO.ite | with_reducible apply keeps_tripEvent
                   | with_reducible apply keeps_oeRefresh | with_reducible apply keeps_setBitOf
                   | with_reducible refine Keeps.lit (FlashKeeps.refl _) ?_ ?_ ?_ ?_ | exact id)

theorem keeps_execGrdReprobeTimer {s0 : State} {cls n pin : ℕ} {clean : Bool} {s : State} (hk : Keeps s0 s) :
    KeepsO s0 (execGrdReprobeTimer cls n pin clean s) := by
  unfold execGrdReprobeTimer
  dsimp only
  repeat' (first | with_reducible assumption | with_reducible apply Keeps.next | with_reducible apply Keeps.ite
                   | with_reducible apply KeepsO.ite | with_reducible apply keeps_oeRefresh
                   | with_reducible apply keeps_setBitOf | with_reducible apply keeps_grdCount
                   | with_reducible refine Keeps.lit (FlashKeeps.refl _) ?_ ?_ ?_ ?_ | exact id)

theorem keeps_execGrdOpenTest {s0 : State} {n up down : ℕ} {s : State} (hk : Keeps s0 s) :
    KeepsO s0 (execGrdOpenTest n up down s) := by
  unfold execGrdOpenTest
  dsimp only
  repeat' (first | with_reducible assumption | with_reducible apply Keeps.next | with_reducible apply Keeps.ite
                   | with_reducible apply KeepsO.ite | with_reducible apply keeps_tdmDetect
                   | with_reducible apply keeps_emit | with_reducible apply Keeps.foldl | (intro _ _ _)
                   | with_reducible refine Keeps.lit (FlashKeeps.refl _) ?_ ?_ ?_ ?_ | exact id)

theorem keeps_execGrdClockSwapDetect {s0 : State} {n : ℕ} {rx : Bool} {fs bclk : ℕ} {s : State} (hk : Keeps s0 s) :
    KeepsO s0 (execGrdClockSwapDetect n rx fs bclk s) := by
  unfold execGrdClockSwapDetect
  dsimp only
  repeat' (first | with_reducible assumption | with_reducible apply Keeps.next | with_reducible apply Keeps.ite
                   | with_reducible apply KeepsO.ite | with_reducible apply keeps_setFld
                   | with_reducible apply keeps_fresh | with_reducible apply keeps_grdLast
                   | with_reducible apply keeps_grdCount)

theorem keeps_execGrdLossOfSignal {s0 : State} {lane : ℕ} {lost : Bool} {s : State} (hk : Keeps s0 s) :
    KeepsO s0 (execGrdLossOfSignal lane lost s) := by
  unfold execGrdLossOfSignal
  dsimp only
  repeat' (first | with_reducible assumption | with_reducible apply Keeps.next | with_reducible apply Keeps.ite
                   | with_reducible apply KeepsO.ite | with_reducible apply keeps_setBitOf
                   | with_reducible apply keeps_laneDetect)

theorem keeps_execGrdTioShort {s0 : State} {pin : ℕ} {contention : Bool} {s : State} (hk : Keeps s0 s) :
    KeepsO s0 (execGrdTioShort pin contention s) := by
  unfold execGrdTioShort
  dsimp only
  repeat' (first | with_reducible assumption | with_reducible apply Keeps.next | with_reducible apply Keeps.ite
                   | with_reducible apply KeepsO.ite | with_reducible apply keeps_setBitOf
                   | with_reducible apply keeps_tripEvent | with_reducible apply keeps_tioDetect)

theorem keeps_execGrdTioOpen {s0 s : State} (hk : Keeps s0 s) :
    KeepsO s0 (execGrdTioOpen s) := by
  unfold execGrdTioOpen
  repeat' (first | with_reducible assumption | with_reducible apply Keeps.next | with_reducible apply Keeps.ite
                   | with_reducible apply KeepsO.ite | with_reducible apply keeps_tioDetect
                   | with_reducible apply keeps_setBitOf)

theorem keeps_execGrdInputContention {s0 : State} {pin : ℕ} {s : State} (hk : Keeps s0 s) :
    KeepsO s0 (execGrdInputContention pin s) := by
  unfold execGrdInputContention
  repeat' (first | with_reducible assumption | with_reducible apply Keeps.next | with_reducible apply Keeps.ite
                   | with_reducible apply KeepsO.ite | with_reducible apply keeps_tioDetect
                   | with_reducible apply keeps_setBitOf)

theorem keeps_execGrdPpsLoss {s0 s : State} (hk : Keeps s0 s) :
    KeepsO s0 (execGrdPpsLoss s) := by
  unfold execGrdPpsLoss
  repeat' (first | with_reducible assumption | with_reducible apply Keeps.next | with_reducible apply Keeps.ite
                   | with_reducible apply KeepsO.ite | with_reducible apply keeps_tioDetect
                   | with_reducible apply keeps_setFlds)

end Sys2Proof.Machine
end

