-- ==== Sys2Proof/Laws/KeepsMailbox.lean ====
section
/-! SUPPORT. Every definition of Machine/Mailbox.lean that answers a state keeps what Keeps names: the waiting commands,
the boot flash and the canonical form of the stores. -/

set_option linter.all false

namespace Sys2Proof.Machine

theorem keeps_reqDb {s0 s : State} {init v : ℕ} (hk : Keeps s0 s) :
    Keeps s0 (reqDb s init v) := by
  unfold reqDb
  dsimp only
  repeat' (first | assumption | apply Keeps.ite | apply keeps_count | apply keeps_setFld)

theorem keeps_rspDb {s0 s : State} {init v : ℕ} (hk : Keeps s0 s) :
    Keeps s0 (rspDb s init v) := by
  unfold rspDb
  dsimp only
  repeat' (first | assumption | apply Keeps.ite | apply keeps_count | apply keeps_setFld)

theorem keeps_execReqDoorbell {s0 : State} {init v : ℕ} {s : State} (hk : Keeps s0 s) :
    KeepsO s0 (execReqDoorbell init v s) := by
  unfold execReqDoorbell
  repeat' (first | assumption | apply Keeps.next | apply keeps_reqDb)

theorem keeps_execRspDoorbellClr {s0 : State} {init v : ℕ} {s : State} (hk : Keeps s0 s) :
    KeepsO s0 (execRspDoorbellClr init v s) := by
  unfold execRspDoorbellClr
  repeat' (first | assumption | apply Keeps.next | apply keeps_rspDb)

theorem keeps_takeCmd {s0 s : State} {ch place slot : ℕ} {h payload : List Byte} {buf size : ℕ} (hk : Keeps s0 s) :
    Keeps s0 (takeCmd s ch place slot h payload buf size) := by
  unfold takeCmd
  dsimp only
  repeat' (first | assumption | apply Keeps.ite | apply keeps_pushReady | apply keeps_setMbx | (exact fun _ h => h))

theorem keeps_execRequestTake {s0 s : State} (hk : Keeps s0 s) :
    KeepsO s0 (execRequestTake s) := by
  unfold execRequestTake
  dsimp only
  repeat' (first | assumption | apply Keeps.next | apply Keeps.ite | apply KeepsO.ite | apply keeps_setFld
                   | apply keeps_setMbx | apply keeps_takeCmd | (exact fun _ h => h) | split
                   | refine Keeps.lit (FlashKeeps.refl _) ?_ ?_ ?_ ?_ | exact id)

theorem keeps_forget {s0 s : State} {ch tag : ℕ} {late : Bool} (hk : Keeps s0 s) :
    Keeps s0 (forget s ch tag late) := by
  unfold forget
  repeat' (first | assumption | apply keeps_setMbx | (exact fun _ h => h))

theorem keeps_forgetSlot {s0 s : State} {k : ℕ} {r : Msg} (hk : Keeps s0 s) :
    Keeps s0 (forgetSlot s k r) := by
  unfold forgetSlot
  repeat' (first | assumption | apply keeps_setMbx | (exact fun _ h => h)
                   | refine Keeps.lit (FlashKeeps.refl _) ?_ ?_ ?_ ?_ | exact id)

theorem keeps_execResponseWrite {s0 : State} {k : ℕ} {s : State} (hk : Keeps s0 s) :
    KeepsO s0 (execResponseWrite k s) := by
  unfold execResponseWrite
  try dsimp -zeta only
  repeat' (first
    | (extract_lets +onlyGivenNames x; first
      | (have hx : Keeps s0 x := by
          repeat' (first
            | (extract_lets +onlyGivenNames y) | with_reducible assumption | with_reducible apply Keeps.next
            | with_reducible apply KeepsO.fault | with_reducible apply Keeps.some | with_reducible apply KeepsP.none
            | with_reducible apply Keeps.ite | with_reducible apply KeepsO.ite | with_reducible apply keeps_setMbx
            | with_reducible apply keeps_forgetSlot | with_reducible apply keeps_setFld | split
            | with_reducible refine Keeps.lit (FlashKeeps.refl _) ?_ ?_ ?_ ?_ | with_reducible exact id
            | with_reducible exact memWf_write _ _ _ | with_reducible exact sWf_drop _ _ _ | (intro _ hw; exact hw)
            | (intro _ hw; exact memWf_write _ _ _ hw) | exact fun _ => rfl | (intro _ _; rfl) | (intro _ _ hx)
            | (intro _ hx))
         clear_value x)
      | (have hx := List.length x; clear hx; clear_value x)
      | skip)
    | with_reducible assumption | with_reducible apply Keeps.next | with_reducible apply KeepsO.fault
    | with_reducible apply Keeps.some | with_reducible apply KeepsP.none | with_reducible apply Keeps.ite
    | with_reducible apply KeepsO.ite | with_reducible apply keeps_setMbx | with_reducible apply keeps_forgetSlot
    | with_reducible apply keeps_setFld | split | with_reducible refine Keeps.lit (FlashKeeps.refl _) ?_ ?_ ?_ ?_
    | with_reducible exact id | with_reducible exact memWf_write _ _ _ | with_reducible exact sWf_drop _ _ _
    | (intro _ hw; exact hw) | (intro _ hw; exact memWf_write _ _ _ hw) | exact fun _ => rfl | (intro _ _; rfl)
    | (intro _ _ hx) | (intro _ hx))

theorem keeps_ringCtlWrite {s0 s : State} {en : Bool} (hk : Keeps s0 s) :
    Keeps s0 (ringCtlWrite s en) := by
  unfold ringCtlWrite
  dsimp only
  repeat' (first | with_reducible assumption | with_reducible apply Keeps.ite | with_reducible apply keeps_setFld
                   | with_reducible apply keeps_setEvtq | with_reducible apply keeps_setFlds
                   | with_reducible apply keeps_setMbx | (exact fun _ h => h) | split
                   | with_reducible refine Keeps.lit (FlashKeeps.refl _) ?_ ?_ ?_ ?_ | exact id)

theorem keeps_execRingEnable {s0 s : State} (hk : Keeps s0 s) :
    KeepsO s0 (execRingEnable s) := by
  unfold execRingEnable
  repeat' (first | assumption | apply Keeps.next | apply keeps_ringCtlWrite)

theorem keeps_ringDb {s0 s : State} {k v : ℕ} (hk : Keeps s0 s) :
    Keeps s0 (ringDb s k v) := by
  unfold ringDb
  try dsimp -zeta only
  repeat' (first
    | with_reducible assumption | with_reducible apply Keeps.ite | with_reducible apply keeps_setMbx | split
    | with_reducible refine Keeps.lit (FlashKeeps.refl _) ?_ ?_ ?_ ?_ | with_reducible exact id
    | with_reducible exact memWf_write _ _ _ | with_reducible exact sWf_drop _ _ _ | (intro _ hw; exact hw))

theorem keeps_execCmdTailDoorbell {s0 : State} {v : ℕ} {s : State} (hk : Keeps s0 s) :
    KeepsO s0 (execCmdTailDoorbell v s) := by
  unfold execCmdTailDoorbell
  repeat' (first | assumption | apply Keeps.next | apply keeps_ringDb)

theorem keeps_execCplHeadDoorbell {s0 : State} {v : ℕ} {s : State} (hk : Keeps s0 s) :
    KeepsO s0 (execCplHeadDoorbell v s) := by
  unfold execCplHeadDoorbell
  repeat' (first | assumption | apply Keeps.next | apply keeps_ringDb)

theorem keeps_execEvtHeadDoorbell {s0 : State} {v : ℕ} {s : State} (hk : Keeps s0 s) :
    KeepsO s0 (execEvtHeadDoorbell v s) := by
  unfold execEvtHeadDoorbell
  repeat' (first | assumption | apply Keeps.next | apply keeps_ringDb)

theorem keeps_execCmdFetch {s0 : State} {entry indirect : List Byte} {s : State} (hk : Keeps s0 s) :
    KeepsO s0 (execCmdFetch entry indirect s) := by
  unfold execCmdFetch
  dsimp only
  repeat' (first | with_reducible assumption | with_reducible apply Keeps.next | with_reducible apply Keeps.ite
                   | with_reducible apply KeepsO.ite | with_reducible apply keeps_emit
                   | with_reducible apply keeps_mcuResume | with_reducible apply keeps_setMbx
                   | with_reducible apply keeps_takeCmd | (exact fun _ h => h)
                   | with_reducible refine Keeps.lit (FlashKeeps.refl _) ?_ ?_ ?_ ?_ | exact id)

theorem keeps_execCompletionWrite {s0 s : State} (hk : Keeps s0 s) :
    KeepsO s0 (execCompletionWrite s) := by
  unfold execCompletionWrite
  dsimp only
  repeat' (first | with_reducible assumption | with_reducible apply Keeps.next | with_reducible apply Keeps.ite
                   | with_reducible apply KeepsO.ite | with_reducible apply keeps_emit
                   | with_reducible apply keeps_setMbx | with_reducible apply keeps_forget
                   | with_reducible apply keeps_irqEdge | (exact fun _ h => h) | split)

theorem keeps_evtPut {s0 s : State} {m : Msg} (hk : Keeps s0 s) :
    Keeps s0 (evtPut s m) := by
  unfold evtPut
  dsimp only
  repeat' (first | with_reducible assumption | with_reducible apply Keeps.ite | with_reducible apply keeps_emit
                   | with_reducible apply keeps_setMbx | with_reducible apply keeps_irqEdge | (exact fun _ h => h))

theorem keeps_execEventWrite {s0 s : State} (hk : Keeps s0 s) :
    KeepsO s0 (execEventWrite s) := by
  unfold execEventWrite
  dsimp only
  repeat' (first | with_reducible assumption | with_reducible apply Keeps.next | with_reducible apply Keeps.ite
                   | with_reducible apply KeepsO.ite | with_reducible apply keeps_setEvtq
                   | with_reducible apply keeps_count | with_reducible apply keeps_evtPut
                   | with_reducible apply keeps_forget | split)

theorem keeps_execRingDmaError {s0 : State} {cause : ℕ} {s : State} (hk : Keeps s0 s) :
    KeepsO s0 (execRingDmaError cause s) := by
  unfold execRingDmaError
  repeat' (first | assumption | apply Keeps.next | apply Keeps.ite | apply KeepsO.ite | apply keeps_setFlds)

theorem keeps_slotWrite {s0 s : State} {init off : ℕ} {v : Word} (hk : Keeps s0 s) :
    Keeps s0 (slotWrite s init off v) := by
  unfold slotWrite
  try dsimp -zeta only
  repeat' (first
    | (extract_lets +onlyGivenNames x; first
      | (have hx : Keeps s0 x := by
          repeat' (first
            | (extract_lets +onlyGivenNames y) | with_reducible assumption | with_reducible apply Keeps.ite
            | with_reducible apply keeps_count | with_reducible apply keeps_setMbx | split
            | with_reducible refine Keeps.lit (FlashKeeps.refl _) ?_ ?_ ?_ ?_ | with_reducible exact id
            | with_reducible exact memWf_write _ _ _ | with_reducible exact sWf_drop _ _ _ | (intro _ hw; exact hw)
            | (intro _ hw; exact memWf_write _ _ _ hw) | exact fun _ => rfl | (intro _ _; rfl) | (intro _ _ hx)
            | (intro _ hx))
         clear_value x)
      | (have hx := List.length x; clear hx; clear_value x)
      | skip)
    | with_reducible assumption | with_reducible apply Keeps.ite | with_reducible apply keeps_count
    | with_reducible apply keeps_setMbx | split | with_reducible refine Keeps.lit (FlashKeeps.refl _) ?_ ?_ ?_ ?_
    | with_reducible exact id | with_reducible exact memWf_write _ _ _ | with_reducible exact sWf_drop _ _ _
    | (intro _ hw; exact hw) | (intro _ hw; exact memWf_write _ _ _ hw))

theorem keeps_mbxWrite {s0 s : State} {init off : ℕ} {v : Word} (hk : Keeps s0 s) :
    Keeps s0 (mbxWrite s init off v) := by
  unfold mbxWrite
  try dsimp -zeta only
  repeat' (first
    | with_reducible assumption | with_reducible apply Keeps.ite | with_reducible apply keeps_slotWrite
    | with_reducible apply keeps_ringDb | with_reducible apply keeps_setMbx | split
    | with_reducible refine Keeps.lit (FlashKeeps.refl _) ?_ ?_ ?_ ?_ | with_reducible exact id
    | with_reducible exact memWf_write _ _ _ | with_reducible exact sWf_drop _ _ _ | (intro _ hw; exact hw)
    | (intro _ hw; exact memWf_write _ _ _ hw))

theorem keeps_loadCtlWrite {s0 s : State} {init v : ℕ} (hk : Keeps s0 s) :
    Keeps s0 (loadCtlWrite s init v) := by
  unfold loadCtlWrite
  try dsimp -zeta only
  repeat' (first
    | (extract_lets +onlyGivenNames x; first
      | (have hx : Keeps s0 x := by
          repeat' (first
            | (extract_lets +onlyGivenNames y) | with_reducible assumption | with_reducible apply Keeps.ite
            | with_reducible apply keeps_setFlds)
         clear_value x)
      | skip)
    | with_reducible assumption | with_reducible apply Keeps.ite | with_reducible apply keeps_setFlds
    | with_reducible apply keeps_setFld | with_reducible apply keeps_setMbx | split
    | with_reducible refine Keeps.lit (FlashKeeps.refl _) ?_ ?_ ?_ ?_ | with_reducible exact id
    | with_reducible exact memWf_write _ _ _ | with_reducible exact sWf_drop _ _ _ | (intro _ hw; exact hw)
    | (intro _ hw; exact memWf_write _ _ _ hw) | exact fun _ => rfl | (intro _ _; rfl))

theorem keeps_execLoadChunkGo {s0 : State} {init len : ℕ} {last : Bool} {s : State} (hk : Keeps s0 s) :
    KeepsO s0 (execLoadChunkGo init len last s) := by
  unfold execLoadChunkGo
  repeat' (first | assumption | apply Keeps.next | apply keeps_loadCtlWrite)

theorem keeps_execLoadChunkTaken {s0 s : State} (hk : Keeps s0 s) :
    KeepsO s0 (execLoadChunkTaken s) := by
  unfold execLoadChunkTaken
  try dsimp -zeta only
  repeat' (first
    | (extract_lets +onlyGivenNames x; first
      | (have hx : Keeps s0 x := by
          repeat' (first
            | (extract_lets +onlyGivenNames y) | with_reducible assumption | with_reducible apply Keeps.next
            | with_reducible apply KeepsO.fault | with_reducible apply Keeps.ite | with_reducible apply KeepsO.ite
            | with_reducible apply keeps_setFlds)
         clear_value x)
      | skip)
    | with_reducible assumption | with_reducible apply Keeps.next | with_reducible apply KeepsO.fault
    | with_reducible apply Keeps.ite | with_reducible apply KeepsO.ite | with_reducible apply keeps_setFlds
    | with_reducible apply keeps_setMbx | split | with_reducible refine Keeps.lit (FlashKeeps.refl _) ?_ ?_ ?_ ?_
    | with_reducible exact id | with_reducible exact memWf_write _ _ _ | with_reducible exact sWf_drop _ _ _
    | (intro _ hw; exact hw) | (intro _ hw; exact memWf_write _ _ _ hw))

theorem keeps_fwStarted {s0 s : State} {cause : ℕ} (hk : Keeps s0 s) :
    Keeps s0 (fwStarted s cause) := by
  unfold fwStarted
  repeat' (first | with_reducible assumption | with_reducible apply keeps_mcuResume | with_reducible apply keeps_event
                   | with_reducible refine Keeps.lit (FlashKeeps.refl _) ?_ ?_ ?_ ?_ | exact id)

theorem keeps_execLoadVerifyDone {s0 : State} {sec : Option ℕ} {fw proto : ℕ} {s : State} (hk : Keeps s0 s) :
    KeepsO s0 (execLoadVerifyDone sec fw proto s) := by
  unfold execLoadVerifyDone
  try dsimp -zeta only
  repeat' (first
    | (extract_lets +onlyGivenNames x; first
      | (have hx : Keeps s0 x := by
          repeat' (first
            | (extract_lets +onlyGivenNames y) | with_reducible assumption | with_reducible apply Keeps.next
            | with_reducible apply KeepsO.fault | with_reducible apply Keeps.ite | with_reducible apply KeepsO.ite
            | with_reducible apply keeps_setMbx | with_reducible apply keeps_setFlds
            | with_reducible apply keeps_setFld | with_reducible apply keeps_wr | with_reducible apply keeps_setDx
            | with_reducible apply keeps_fwStarted | split
            | with_reducible refine Keeps.lit (FlashKeeps.refl _) ?_ ?_ ?_ ?_ | with_reducible exact id
            | with_reducible exact memWf_write _ _ _ | with_reducible exact sWf_drop _ _ _ | (intro _ hw; exact hw)
            | (intro _ hw; exact memWf_write _ _ _ hw) | exact fun _ => rfl | (intro _ _; rfl) | (intro _ _ hx)
            | (intro _ hx))
         clear_value x)
      | (have hx := List.length x; clear hx; clear_value x)
      | skip)
    | with_reducible assumption | with_reducible apply Keeps.next | with_reducible apply KeepsO.fault
    | with_reducible apply Keeps.ite | with_reducible apply KeepsO.ite | with_reducible apply keeps_setMbx
    | with_reducible apply keeps_setFlds | with_reducible apply keeps_setFld | with_reducible apply keeps_wr
    | with_reducible apply keeps_setDx | with_reducible apply keeps_fwStarted | split
    | with_reducible refine Keeps.lit (FlashKeeps.refl _) ?_ ?_ ?_ ?_ | with_reducible exact id
    | with_reducible exact memWf_write _ _ _ | with_reducible exact sWf_drop _ _ _ | (intro _ hw; exact hw)
    | (intro _ hw; exact memWf_write _ _ _ hw) | exact fun _ => rfl | (intro _ _; rfl) | (intro _ _ hx) | (intro _ hx))

theorem keeps_driveFail {s0 s : State} {takeover : Bool} (hk : Keeps s0 s) :
    Keeps s0 (driveFail s takeover) := by
  unfold driveFail
  repeat' (first | assumption | apply Keeps.ite | refine Keeps.lit (FlashKeeps.refl _) ?_ ?_ ?_ ?_ | exact id)

theorem keeps_execWdogWarn {s0 : State} {kick : Bool} {s : State} (hk : Keeps s0 s) :
    KeepsO s0 (execWdogWarn kick s) := by
  unfold execWdogWarn
  repeat' (first | assumption | apply Keeps.next | apply keeps_setMbx | (exact fun _ h => h))

theorem keeps_mcuRestart {s0 s : State} {why : ℕ} (hk : Keeps s0 s) :
    Keeps s0 (mcuRestart s why) := by
  unfold mcuRestart
  repeat' (first | assumption | apply keeps_setFld | apply keeps_setMbx | (exact fun _ h => h))

theorem keeps_execWdogExpiry {s0 : State} {cause : ℕ} {soon : Bool} {s : State} (hk : Keeps s0 s) :
    KeepsO s0 (execWdogExpiry cause soon s) := by
  unfold execWdogExpiry
  dsimp only
  repeat' (first | with_reducible assumption | with_reducible apply Keeps.next | with_reducible apply Keeps.ite
                   | with_reducible apply KeepsO.ite | with_reducible apply keeps_driveFail
                   | with_reducible apply keeps_mcuRestart | with_reducible apply keeps_setFld
                   | with_reducible apply keeps_enterRecovery | with_reducible apply keeps_count)

theorem keeps_failAll {s0 s : State} (hk : Keeps s0 s) :
    Keeps s0 (failAll s) := by
  unfold failAll
  repeat' (first | assumption | apply keeps_endCmd | apply Keeps.foldl | (intro _ _ _))

theorem keeps_execFwRestartDone {s0 : State} {memOk flashOk : Bool} {s : State} (hk : Keeps s0 s) :
    KeepsO s0 (execFwRestartDone memOk flashOk s) := by
  unfold execFwRestartDone
  dsimp only
  repeat' (first | with_reducible assumption | with_reducible apply Keeps.next | with_reducible apply Keeps.ite
                   | with_reducible apply KeepsO.ite | with_reducible apply keeps_setMbx
                   | with_reducible apply keeps_enterRecovery | with_reducible apply keeps_abortApply
                   | with_reducible apply keeps_failAll | with_reducible apply keeps_setFld
                   | with_reducible apply keeps_irqEdge | with_reducible apply keeps_fwStarted | (exact fun _ h => h)
                   | with_reducible refine Keeps.lit (FlashKeeps.refl _) ?_ ?_ ?_ ?_ | exact id)

end Sys2Proof.Machine
end

