-- ==== Sys2Proof/Laws/KeepsRegBus.lean ====
section
/-! SUPPORT. Every definition of Machine/RegBus.lean that answers a state keeps what Keeps names: the waiting commands,
the boot flash and the canonical form of the stores. -/

set_option linter.all false

namespace Sys2Proof.Machine

theorem keeps_logOff {s0 s : State} {init addr : ℕ} {unmapped : Bool} (hk : Keeps s0 s) :
    Keeps s0 (logOff s init addr unmapped) := by
  unfold logOff
  repeat' (first | assumption | apply keeps_count | apply keeps_latchOnce | apply keeps_setSide)

theorem keeps_logViol {s0 s : State} {init addr cause : ℕ} (hk : Keeps s0 s) :
    Keeps s0 (logViol s init addr cause) := by
  unfold logViol
  repeat' (first | assumption | apply keeps_count | apply keeps_latchOnce | apply keeps_setSide)

theorem keeps_holdAt {s0 old s : State} {key : ℕ} (hk : Keeps s0 s) :
    Keeps s0 (holdAt old s key) := by
  unfold holdAt
  repeat' (first | with_reducible assumption | with_reducible apply Keeps.ite | with_reducible apply keeps_crcHold
                   | split)

theorem keeps_clearRun {s0 s : State} {v base item n lo : ℕ} {sat : Option Fld} (hk : Keeps s0 s) :
    Keeps s0 (clearRun s v base item n lo sat) := by
  unfold clearRun
  dsimp only
  repeat' (first | assumption | apply Keeps.ite | apply keeps_wr | apply keeps_setFld | apply Keeps.foldl
                   | (intro _ _ _) | split)

theorem keeps_resetRun {s0 s : State} {base item n : ℕ} (hk : Keeps s0 s) :
    Keeps s0 (resetRun s base item n) := by
  unfold resetRun
  repeat' (first | assumption | apply keeps_wr | apply Keeps.foldl | (intro _ _ _))

theorem keeps_laneClear {s0 s : State} {n : ℕ} (hk : Keeps s0 s) :
    Keeps s0 (laneClear s n) := by
  unfold laneClear
  repeat' (first | with_reducible assumption | with_reducible apply keeps_laneSettle
                   | with_reducible apply keeps_setFlds
                   | with_reducible refine Keeps.lit (FlashKeeps.refl _) ?_ ?_ ?_ ?_ | exact id)

theorem keeps_cntClear {s0 s : State} {init off item v : ℕ} (hk : Keeps s0 s) :
    Keeps s0 (cntClear s init off item v) := by
  unfold cntClear
  dsimp only
  repeat' (first | with_reducible assumption | with_reducible apply Keeps.ite | with_reducible apply keeps_setFld
                   | with_reducible apply keeps_clearRun | with_reducible apply keeps_laneClear
                   | with_reducible apply keeps_setFlds | with_reducible apply keeps_resetRun
                   | with_reducible apply Keeps.foldl)

theorem keeps_phaseWrite {s0 s : State} {init new : ℕ} (hk : Keeps s0 s) :
    Keeps s0 (phaseWrite s init new).1 := by
  unfold phaseWrite
  dsimp only
  repeat' (first | with_reducible assumption | with_reducible apply Keeps.ite | with_reducible apply Keeps.ite1
                   | with_reducible apply keeps_enterService | with_reducible apply keeps_setFld
                   | with_reducible apply keeps_enterRecovery | with_reducible apply keeps_logViol)

theorem keeps_crcCommit {s0 s : State} {v : Word} (hk : Keeps s0 s) :
    Keeps s0 (crcCommit s v) := by
  unfold crcCommit
  repeat' (first | assumption | apply keeps_wr | apply keeps_setFlds
                   | refine Keeps.lit (FlashKeeps.refl _) ?_ ?_ ?_ ?_ | exact id)

theorem keeps_irqWrite {s0 s : State} {init off : ℕ} {v : Word} (hk : Keeps s0 s) :
    Keeps s0 (irqWrite s init off v) := by
  unfold irqWrite
  dsimp only
  repeat' (first | with_reducible assumption | with_reducible apply Keeps.ite | with_reducible apply keeps_wr
                   | with_reducible apply keeps_msixIfRose | with_reducible apply keeps_releaseHeld
                   | with_reducible apply keeps_setFld | with_reducible apply keeps_irqAck
                   | with_reducible apply keeps_irqEoi | with_reducible apply keeps_irqPendWrite
                   | with_reducible apply keeps_irqMaskWrite | with_reducible apply keeps_holdAt
                   | with_reducible apply keeps_irqCfgWrite | split)

theorem keeps_mbxRegWrite {s0 s : State} {init off : ℕ} {v : Word} (hk : Keeps s0 s) :
    Keeps s0 (mbxRegWrite s init off v) := by
  unfold mbxRegWrite
  dsimp only
  repeat' (first | with_reducible assumption | with_reducible apply Keeps.ite | with_reducible apply keeps_reqDb
                   | with_reducible apply keeps_setFld | with_reducible apply keeps_rspDb
                   | with_reducible apply keeps_holdAt | with_reducible apply keeps_ringCtlWrite
                   | with_reducible apply keeps_wr | with_reducible apply keeps_loadCtlWrite)

theorem keeps_plainPut {s0 s : State} {off item : ℕ} {r : RegRow} {v : Word} (hk : Keeps s0 s) :
    Keeps s0 (plainPut s off item r v) := by
  unfold plainPut
  dsimp only
  repeat' (first | assumption | apply Keeps.ite | apply keeps_wr | apply keeps_wrSh | apply keeps_holdAt)

theorem keeps_regPut {s0 s : State} {init off item : ℕ} {v : Word} (hk : Keeps s0 s) :
    Keeps s0 (regPut s init off item v).1 := by
  unfold regPut
  dsimp only
  repeat' (first | with_reducible assumption | with_reducible apply Keeps.ite | with_reducible apply Keeps.ite1
                   | with_reducible apply keeps_setDx | with_reducible apply keeps_cntClear
                   | with_reducible apply keeps_phaseWrite | with_reducible apply keeps_strobe
                   | with_reducible apply keeps_setFld | with_reducible apply keeps_crcCommit
                   | with_reducible apply keeps_wr | with_reducible apply keeps_plainPut
                   | with_reducible apply keeps_irqWrite | with_reducible apply keeps_mbxRegWrite
                   | with_reducible apply keeps_raise | with_reducible apply keeps_addendWrite
                   | with_reducible apply keeps_holdAt | with_reducible apply keeps_plCfgWrite
                   | with_reducible apply keeps_plTimeWrite | with_reducible apply keeps_follow
                   | with_reducible apply keeps_cmdWrite | with_reducible apply keeps_budgetWrite
                   | with_reducible apply keeps_qCfgWrite | with_reducible apply keeps_qResWrite
                   | with_reducible apply keeps_qCapWrite | with_reducible apply keeps_flushStart
                   | with_reducible apply keeps_avsFollow | with_reducible apply keeps_galRefresh
                   | with_reducible apply keeps_injectWrite | with_reducible apply keeps_hrAck
                   | with_reducible apply keeps_htProd | split
                   | with_reducible refine Keeps.lit (FlashKeeps.refl _) ?_ ?_ ?_ ?_ | exact id)

theorem keeps_regWrite {s0 s : State} {init off : ℕ} {v : Word} {guarded via : Bool} (hk : Keeps s0 s) :
    Keeps s0 (regWrite s init off v guarded via).1 := by
  unfold regWrite
  dsimp only
  repeat' (first | with_reducible assumption | with_reducible apply Keeps.ite | with_reducible apply Keeps.ite1
                   | with_reducible apply keeps_logOff | with_reducible apply keeps_logViol
                   | with_reducible apply keeps_regPut | split)

theorem keeps_aliasWrite {s0 s : State} {init a : ℕ} {v : Word} (hk : Keeps s0 s) :
    Keeps s0 (aliasWrite s init a v).1 := by
  unfold aliasWrite
  dsimp only
  repeat' (first | with_reducible assumption | with_reducible apply Keeps.ite | with_reducible apply Keeps.ite1
                   | with_reducible apply keeps_logOff | with_reducible apply keeps_regWrite | split)

theorem keeps_ctlWrite {s0 s : State} {init off : ℕ} {v : Word} {guarded via : Bool} (hk : Keeps s0 s) :
    Keeps s0 (ctlWrite s init off v guarded via).1 := by
  unfold ctlWrite
  repeat' (first | assumption | apply Keeps.ite | apply Keeps.ite1 | apply keeps_aliasWrite | apply keeps_regWrite)

theorem keeps_readEffect {s0 s : State} {init off : ℕ} {seen : Word} (hk : Keeps s0 s) :
    Keeps s0 (readEffect s init off seen) := by
  unfold readEffect
  dsimp only
  repeat' (first | assumption | apply Keeps.ite | apply keeps_irqSeen | apply keeps_rearm | apply keeps_wr | split
                   | refine Keeps.lit (FlashKeeps.refl _) ?_ ?_ ?_ ?_ | exact id)

theorem keeps_ctlRead {s0 s : State} {init off : ℕ} {via : Bool} (hk : Keeps s0 s) :
    Keeps s0 (ctlRead s init off via).1 := by
  unfold ctlRead
  dsimp only
  repeat' (first | with_reducible assumption | with_reducible apply Keeps.ite | with_reducible apply Keeps.ite1
                   | with_reducible apply keeps_logOff | with_reducible apply keeps_irqSeen
                   | with_reducible apply keeps_readEffect | split)

end Sys2Proof.Machine
end

