-- ==== Sys2Proof/Laws/KeepsRegIf.lean ====
section
/-! SUPPORT. Every definition of Machine/RegIf.lean that answers a state keeps what Keeps names: the waiting commands,
the boot flash and the canonical form of the stores. -/

set_option linter.all false

namespace Sys2Proof.Machine

theorem keeps_answer {s0 s : State} {init off : ℕ} {v : Word} (hk : Keeps s0 s) :
    Keeps s0 (answer s init off v) := by
  unfold answer
  repeat' (first | assumption | apply keeps_setSide | apply keeps_emit)

theorem keeps_indAdvance {s0 s : State} {init : ℕ} (hk : Keeps s0 s) :
    Keeps s0 (indAdvance s init) := by
  unfold indAdvance
  repeat' (first | assumption | apply keeps_setFld)

theorem keeps_tableWrite {s0 s : State} {init space off : ℕ} {v : Word} (hk : Keeps s0 s) :
    Keeps s0 (tableWrite s init space off v).1 := by
  unfold tableWrite
  dsimp only
  repeat' (first | with_reducible assumption | with_reducible apply Keeps.ite | with_reducible apply Keeps.ite1
                   | with_reducible apply keeps_logOff | with_reducible apply keeps_logViol
                   | with_reducible apply keeps_impWrite | with_reducible apply keeps_keyWrite)

theorem keeps_indLand {s0 s : State} {init : ℕ} {v : Word} {guarded : Bool} (hk : Keeps s0 s) :
    Keeps s0 (indLand s init v guarded).1 := by
  unfold indLand
  dsimp only
  repeat' (first | with_reducible assumption | with_reducible apply Keeps.ite | with_reducible apply Keeps.ite1
                   | with_reducible apply keeps_setFld | with_reducible apply keeps_ctlWrite
                   | with_reducible apply keeps_tableWrite | with_reducible apply keeps_indAdvance | split
                   | with_reducible refine Keeps.lit (FlashKeeps.refl _) ?_ ?_ ?_ ?_ | exact id)

theorem keeps_indGet {s0 s : State} {init : ℕ} (hk : Keeps s0 s) :
    Keeps s0 (indGet s init).1 := by
  unfold indGet
  dsimp only
  repeat' (first | with_reducible assumption | with_reducible apply Keeps.ite | with_reducible apply Keeps.ite1
                   | with_reducible apply keeps_setFld | with_reducible apply keeps_ctlRead
                   | with_reducible apply keeps_logOff | with_reducible apply keeps_emit | split
                   | with_reducible refine Keeps.lit (FlashKeeps.refl _) ?_ ?_ ?_ ?_ | exact id)

theorem keeps_indPrefetch {s0 s : State} {init : ℕ} (hk : Keeps s0 s) :
    Keeps s0 (indPrefetch s init) := by
  unfold indPrefetch
  dsimp only
  repeat' (first | assumption | apply Keeps.ite | apply keeps_setSide | apply keeps_setFld)

theorem keeps_indAddrPut {s0 s : State} {init : ℕ} {v : Word} (hk : Keeps s0 s) :
    Keeps s0 (indAddrPut s init v) := by
  unfold indAddrPut
  repeat' (first | assumption | apply keeps_indPrefetch | apply keeps_wr)

theorem keeps_stall {s0 s : State} {init kind : ℕ} {v : Word} (hk : Keeps s0 s) :
    Keeps s0 (stall s init kind v) := by
  unfold stall
  repeat' (first | assumption | apply keeps_setSide)

theorem keeps_indAddrWrite {s0 s : State} {init : ℕ} {v : Word} (hk : Keeps s0 s) :
    Keeps s0 (indAddrWrite s init v) := by
  unfold indAddrWrite
  repeat' (first | with_reducible assumption | with_reducible apply Keeps.ite | with_reducible apply keeps_stall
                   | with_reducible apply keeps_indAddrPut)

theorem keeps_indPost {s0 s : State} {init : ℕ} {v : Word} {guarded : Bool} (hk : Keeps s0 s) :
    Keeps s0 (indPost s init v guarded) := by
  unfold indPost
  repeat' (first | assumption | apply keeps_setFld | apply keeps_setSide)

theorem keeps_guardEnd {s0 s : State} {init : ℕ} {w : WRes} (hk : Keeps s0 s) :
    Keeps s0 (guardEnd s init w) := by
  unfold guardEnd
  repeat' (first | assumption | apply Keeps.ite | apply keeps_setFld)

theorem keeps_wideSel {s0 s : State} {init : ℕ} {v : Word} (hk : Keeps s0 s) :
    Keeps s0 (wideSel s init v) := by
  unfold wideSel
  repeat' (first | assumption | apply keeps_setFlds | apply keeps_setSide)

theorem keeps_wideRead {s0 s : State} {init k : ℕ} (hk : Keeps s0 s) :
    Keeps s0 (wideRead s init k) := by
  unfold wideRead
  dsimp only
  repeat' (first | with_reducible assumption | with_reducible apply Keeps.ite | with_reducible apply keeps_setFld
                   | with_reducible apply keeps_plRelease | with_reducible apply keeps_answer)

theorem keeps_guardReject {s0 s : State} {init cause : ℕ} (hk : Keeps s0 s) :
    Keeps s0 (guardReject s init cause) := by
  unfold guardReject
  dsimp only
  repeat' (first | assumption | apply keeps_setFlds | apply keeps_logViol | apply keeps_setSide)

theorem keeps_guardVal {s0 s : State} {init : ℕ} {v : Word} (hk : Keeps s0 s) :
    Keeps s0 (guardVal s init v) := by
  unfold guardVal
  repeat' (first | assumption | apply keeps_setFld | apply keeps_setSide)

theorem keeps_guardData {s0 s : State} {init : ℕ} {v : Word} (hk : Keeps s0 s) :
    Keeps s0 (guardData s init v) := by
  unfold guardData
  dsimp only
  repeat' (first | with_reducible assumption | with_reducible apply Keeps.ite | with_reducible apply keeps_indPost
                   | with_reducible apply keeps_indLand | with_reducible apply keeps_guardEnd | split
                   | with_reducible refine Keeps.lit (FlashKeeps.refl _) ?_ ?_ ?_ ?_ | exact id)

theorem keeps_guardPut {s0 s : State} {init : ℕ} {v : Word} (hk : Keeps s0 s) :
    Keeps s0 (guardPut s init v) := by
  unfold guardPut
  dsimp only
  repeat' (first | with_reducible assumption | with_reducible apply Keeps.ite | with_reducible apply keeps_stall
                   | with_reducible apply keeps_guardData | with_reducible apply keeps_indAddrWrite
                   | with_reducible apply keeps_wideSel | with_reducible apply keeps_ctlWrite
                   | with_reducible apply keeps_guardEnd | split
                   | with_reducible refine Keeps.lit (FlashKeeps.refl _) ?_ ?_ ?_ ?_ | exact id)

theorem keeps_guardCpl {s0 s : State} {init : ℕ} {c : Word} (hk : Keeps s0 s) :
    Keeps s0 (guardCpl s init c) := by
  unfold guardCpl
  repeat' (first | with_reducible assumption | with_reducible apply Keeps.ite | with_reducible apply keeps_guardReject
                   | with_reducible apply keeps_guardPut | with_reducible apply keeps_setFld
                   | with_reducible apply keeps_setSide | split)

theorem keeps_bankPut {s0 s : State} {init off : ℕ} {v : Word} (hk : Keeps s0 s) :
    Keeps s0 (bankPut s init off v) := by
  unfold bankPut
  repeat' (first | with_reducible assumption | with_reducible apply Keeps.ite
                   | with_reducible apply keeps_indAddrWrite | with_reducible apply keeps_wideSel
                   | with_reducible apply keeps_guardVal | with_reducible apply keeps_guardCpl
                   | with_reducible refine Keeps.lit (FlashKeeps.refl _) ?_ ?_ ?_ ?_ | exact id)

theorem keeps_indPut {s0 s : State} {init : ℕ} {v : Word} (hk : Keeps s0 s) :
    Keeps s0 (indPut s init v).1 := by
  unfold indPut
  dsimp only
  repeat' (first | with_reducible assumption | with_reducible apply Keeps.ite | with_reducible apply Keeps.ite1
                   | with_reducible apply keeps_indAdvance | with_reducible apply keeps_bankPut
                   | with_reducible apply keeps_indLand
                   | with_reducible refine Keeps.lit (FlashKeeps.refl _) ?_ ?_ ?_ ?_ | exact id)

theorem keeps_indDataGet {s0 s : State} {init : ℕ} (hk : Keeps s0 s) :
    Keeps s0 (indDataGet s init) := by
  unfold indDataGet
  dsimp only
  repeat' (first | with_reducible assumption | with_reducible apply Keeps.ite | with_reducible apply keeps_answer
                   | with_reducible apply keeps_indPrefetch | with_reducible apply keeps_indAdvance
                   | with_reducible apply keeps_logOff | with_reducible apply keeps_readEffect
                   | with_reducible apply keeps_fresh | with_reducible apply keeps_indGet | split
                   | with_reducible refine Keeps.lit (FlashKeeps.refl _) ?_ ?_ ?_ ?_ | exact id)

theorem keeps_indDataRead {s0 s : State} {init : ℕ} (hk : Keeps s0 s) :
    Keeps s0 (indDataRead s init) := by
  unfold indDataRead
  dsimp only
  repeat' (first | with_reducible assumption | with_reducible apply Keeps.ite | with_reducible apply keeps_irqSeen
                   | with_reducible apply keeps_stall | with_reducible apply keeps_indDataGet
                   | with_reducible refine Keeps.lit (FlashKeeps.refl _) ?_ ?_ ?_ ?_ | exact id)

theorem keeps_indDataPut {s0 s : State} {init : ℕ} {v : Word} (hk : Keeps s0 s) :
    Keeps s0 (indDataPut s init v).1 := by
  unfold indDataPut
  repeat' (first | with_reducible assumption | with_reducible apply Keeps.ite | with_reducible apply Keeps.ite1
                   | with_reducible apply keeps_indPost | with_reducible apply keeps_indPut
                   | with_reducible refine Keeps.lit (FlashKeeps.refl _) ?_ ?_ ?_ ?_ | exact id)

theorem keeps_indDataWrite {s0 s : State} {init : ℕ} {v : Word} (hk : Keeps s0 s) :
    Keeps s0 (indDataWrite s init v).1 := by
  unfold indDataWrite
  repeat' (first | with_reducible assumption | with_reducible apply Keeps.ite | with_reducible apply Keeps.ite1
                   | with_reducible apply keeps_stall | with_reducible apply keeps_indDataPut)

theorem keeps_aliasPut {s0 s : State} {init a : ℕ} {v : Word} (hk : Keeps s0 s) :
    Keeps s0 (aliasPut s init a v).1 := by
  unfold aliasPut
  dsimp only
  repeat' (first | with_reducible assumption | with_reducible apply Keeps.ite | with_reducible apply Keeps.ite1
                   | with_reducible apply keeps_indDataWrite | with_reducible apply keeps_bankPut
                   | with_reducible apply keeps_aliasWrite
                   | with_reducible refine Keeps.lit (FlashKeeps.refl _) ?_ ?_ ?_ ?_ | exact id)

theorem keeps_wideGet {s0 s : State} {init k : ℕ} (hk : Keeps s0 s) :
    Keeps s0 (wideGet s init k) := by
  unfold wideGet
  dsimp only
  repeat' (first | assumption | apply Keeps.ite | apply keeps_irqSeen | apply keeps_stall | apply keeps_wideRead
                   | refine Keeps.lit (FlashKeeps.refl _) ?_ ?_ ?_ ?_ | exact id)

theorem keeps_busWrite {s0 s : State} {init a : ℕ} {v : Word} (hk : Keeps s0 s) :
    Keeps s0 (busWrite s init a v).1 := by
  unfold busWrite
  repeat' (first | with_reducible assumption | with_reducible apply Keeps.ite | with_reducible apply Keeps.ite1
                   | with_reducible apply keeps_mbxWrite | with_reducible apply keeps_indDataWrite
                   | with_reducible apply keeps_bankPut | with_reducible apply keeps_aliasPut
                   | with_reducible apply keeps_ctlWrite
                   | with_reducible refine Keeps.lit (FlashKeeps.refl _) ?_ ?_ ?_ ?_ | exact id)

theorem keeps_busRead {s0 s : State} {init a : ℕ} (hk : Keeps s0 s) :
    Keeps s0 (busRead s init a) := by
  unfold busRead
  dsimp only
  repeat' (first | with_reducible assumption | with_reducible apply Keeps.ite | with_reducible apply keeps_answer
                   | with_reducible apply keeps_indDataRead | with_reducible apply keeps_wideGet
                   | with_reducible apply keeps_irqSeen | with_reducible apply keeps_ctlRead | split
                   | with_reducible refine Keeps.lit (FlashKeeps.refl _) ?_ ?_ ?_ ?_ | exact id)

theorem keeps_busAcc {s0 s : State} {init : ℕ} {x1 : BusAcc} (hk : Keeps s0 s) :
    Keeps s0 (busAcc s init x1) := by
  unfold busAcc
  try dsimp -zeta only
  repeat' (first
    | with_reducible assumption | with_reducible apply Keeps.ite | with_reducible apply keeps_busRead
    | with_reducible apply keeps_follow | with_reducible apply keeps_busWrite
    | (refine Keeps.of_fst (keeps_busWrite ?_) ‹_ = (_, _)›) | split
    | with_reducible refine Keeps.lit (FlashKeeps.refl _) ?_ ?_ ?_ ?_ | with_reducible exact id
    | with_reducible exact memWf_write _ _ _ | with_reducible exact sWf_drop _ _ _ | (intro _ hw; exact hw)
    | (intro _ hw; exact memWf_write _ _ _ hw) | exact fun _ => rfl | (intro _ _; rfl) | (intro _ _ hx) | (intro _ hx))

theorem keeps_access {s0 s : State} {init : ℕ} {acc : BusAcc} (hk : Keeps s0 s) :
    Keeps s0 (access s init acc) := by
  unfold access
  dsimp only
  repeat' (first | with_reducible assumption | with_reducible apply Keeps.ite | with_reducible apply keeps_mcuResume
                   | with_reducible apply keeps_setSide | with_reducible apply keeps_busAcc
                   | with_reducible refine Keeps.lit (FlashKeeps.refl _) ?_ ?_ ?_ ?_ | exact id)

theorem keeps_drain {s0 : State} {init : ℕ} {l : List BusAcc} : ∀ {s : State}, Keeps s0 s → Keeps s0 (drain init l s) := by
  induction l with
  | nil => exact fun hk => hk
  | cons a as ih => exact fun hk => Keeps.ite (keeps_setSide hk) (ih (keeps_busAcc hk))

theorem keeps_resume {s0 s : State} {init : ℕ} (hk : Keeps s0 s) :
    Keeps s0 (resume s init) := by
  unfold resume
  repeat' (first | assumption | apply keeps_drain | apply keeps_setSide)

theorem keeps_unstall {s0 s : State} {init : ℕ} (hk : Keeps s0 s) :
    Keeps s0 (unstall s init) := by
  unfold unstall
  dsimp only
  repeat' (first | with_reducible assumption | with_reducible apply Keeps.ite | with_reducible apply keeps_setSide
                   | with_reducible apply keeps_resume | with_reducible apply keeps_indDataGet
                   | with_reducible apply keeps_indDataPut | with_reducible apply keeps_indAddrPut
                   | with_reducible apply keeps_guardData | split
                   | with_reducible refine Keeps.lit (FlashKeeps.refl _) ?_ ?_ ?_ ?_ | exact id)

theorem keeps_execIndirAddrWrite {s0 : State} {init : ℕ} {v : Word} {s : State} (hk : Keeps s0 s) :
    KeepsO s0 (execIndirAddrWrite init v s) := by
  unfold execIndirAddrWrite
  repeat' (first | assumption | apply Keeps.next | apply keeps_access)

theorem keeps_execIndirDataRead {s0 : State} {init : ℕ} {s : State} (hk : Keeps s0 s) :
    KeepsO s0 (execIndirDataRead init s) := by
  unfold execIndirDataRead
  repeat' (first | assumption | apply Keeps.next | apply keeps_access)

theorem keeps_execIndirDataWrite {s0 : State} {init : ℕ} {v : Word} {s : State} (hk : Keeps s0 s) :
    KeepsO s0 (execIndirDataWrite init v s) := by
  unfold execIndirDataWrite
  repeat' (first | assumption | apply Keeps.next | apply keeps_access)

theorem keeps_execIndirTransferDone {s0 : State} {init : ℕ} {s : State} (hk : Keeps s0 s) :
    KeepsO s0 (execIndirTransferDone init s) := by
  unfold execIndirTransferDone
  dsimp only
  repeat' (first | with_reducible assumption | with_reducible apply Keeps.next | with_reducible apply Keeps.ite
                   | with_reducible apply KeepsO.ite | with_reducible apply keeps_setFld
                   | with_reducible apply keeps_setSide | with_reducible apply keeps_indLand
                   | with_reducible apply keeps_unstall | with_reducible apply keeps_guardEnd | split
                   | with_reducible refine Keeps.lit (FlashKeeps.refl _) ?_ ?_ ?_ ?_ | exact id)

theorem keeps_execIndirStallTimeout {s0 : State} {init : ℕ} {s : State} (hk : Keeps s0 s) :
    KeepsO s0 (execIndirStallTimeout init s) := by
  unfold execIndirStallTimeout
  dsimp only
  repeat' (first | assumption | apply Keeps.next | apply Keeps.ite | apply KeepsO.ite | apply keeps_setSide
                   | apply keeps_setFld | apply keeps_resume | apply keeps_answer | apply keeps_guardEnd | split
                   | refine Keeps.lit (FlashKeeps.refl _) ?_ ?_ ?_ ?_ | exact id)

theorem keeps_execIndirTransferLost {s0 : State} {init : ℕ} {s : State} (hk : Keeps s0 s) :
    KeepsO s0 (execIndirTransferLost init s) := by
  unfold execIndirTransferLost
  dsimp only
  repeat' (first | with_reducible assumption | with_reducible apply Keeps.next | with_reducible apply Keeps.ite
                   | with_reducible apply KeepsO.ite | with_reducible apply keeps_setFlds
                   | with_reducible apply keeps_setSide | with_reducible apply keeps_unstall
                   | with_reducible apply keeps_guardEnd | split
                   | with_reducible refine Keeps.lit (FlashKeeps.refl _) ?_ ?_ ?_ ?_ | exact id)

theorem keeps_execImpositionEntryWrite {s0 : State} {init d : ℕ} {v : Word} {s : State} (hk : Keeps s0 s) :
    KeepsO s0 (execImpositionEntryWrite init d v s) := by
  unfold execImpositionEntryWrite
  repeat' (first | assumption | apply Keeps.next | apply Keeps.ite | apply KeepsO.ite | apply keeps_tableWrite)

theorem keeps_execClassifierKeyWrite {s0 : State} {init : ℕ} {cam : Bool} {i w : ℕ} {v : Word} {s : State} (hk : Keeps s0 s) :
    KeepsO s0 (execClassifierKeyWrite init cam i w v s) := by
  unfold execClassifierKeyWrite
  repeat' (first | assumption | apply Keeps.next | apply Keeps.ite | apply KeepsO.ite | apply keeps_tableWrite)

theorem keeps_execWideSelWrite {s0 : State} {init : ℕ} {v : Word} {s : State} (hk : Keeps s0 s) :
    KeepsO s0 (execWideSelWrite init v s) := by
  unfold execWideSelWrite
  repeat' (first | assumption | apply Keeps.next | apply keeps_access)

theorem keeps_execWideSnapshotReady {s0 s : State} {init : Nat} (hk : Keeps s0 s) :
    KeepsO s0 (execWideSnapshotReady init s) := by
  unfold execWideSnapshotReady
  refine KeepsO.ite hk.next ?_
  extract_lets w words s1 s2 s3 s4 st s5
  have h1 : Keeps s0 s1 := Keeps.lit (.refl _) id id id hk
  have h2 : Keeps s0 s2 := Keeps.foldl (fun _ _ h => keeps_setFld h) h1
  have h3 : Keeps s0 s3 := keeps_setFld h2
  have h4 : Keeps s0 s4 := Keeps.ite (keeps_setFld h3) h3
  have h5 : Keeps s0 s5 := keeps_setSide h4
  clear_value s1 s2 s3 s4 s5 st
  rcases st with _ | ⟨k, v⟩
  · exact h5.next
  · exact (Keeps.ite (keeps_resume (keeps_wideRead (keeps_setSide h5))) h5).next

theorem keeps_execWideD3Read {s0 : State} {init : ℕ} {s : State} (hk : Keeps s0 s) :
    KeepsO s0 (execWideD3Read init s) := by
  unfold execWideD3Read
  repeat' (first | assumption | apply Keeps.next | apply keeps_access)

theorem keeps_execGuardValWrite {s0 : State} {init : ℕ} {v : Word} {s : State} (hk : Keeps s0 s) :
    KeepsO s0 (execGuardValWrite init v s) := by
  unfold execGuardValWrite
  repeat' (first | assumption | apply Keeps.next | apply keeps_access)

theorem keeps_execGuardCplWrite {s0 : State} {init : ℕ} {c : Word} {s : State} (hk : Keeps s0 s) :
    KeepsO s0 (execGuardCplWrite init c s) := by
  unfold execGuardCplWrite
  repeat' (first | assumption | apply Keeps.next | apply keeps_access)

theorem keeps_execGuardTimeout {s0 : State} {init : ℕ} {s : State} (hk : Keeps s0 s) :
    KeepsO s0 (execGuardTimeout init s) := by
  unfold execGuardTimeout
  repeat' (first | with_reducible assumption | with_reducible apply Keeps.next | with_reducible apply Keeps.ite
                   | with_reducible apply KeepsO.ite | with_reducible apply keeps_guardReject)

theorem keeps_execRegisterWrite {s0 : State} {init a : ℕ} {v : Word} {s : State} (hk : Keeps s0 s) :
    KeepsO s0 (execRegisterWrite init a v s) := by
  unfold execRegisterWrite
  repeat' (first | assumption | apply Keeps.next | apply keeps_access)

theorem keeps_execClearingRead {s0 : State} {init a : ℕ} {s : State} (hk : Keeps s0 s) :
    KeepsO s0 (execClearingRead init a s) := by
  unfold execClearingRead
  repeat' (first | assumption | apply Keeps.next | apply keeps_access)

theorem keeps_execQuoinSet {s0 : State} {second : Bool} {v : Word} {s : State} (hk : Keeps s0 s) :
    KeepsO s0 (execQuoinSet second v s) := by
  unfold execQuoinSet
  repeat' (first | assumption | apply Keeps.next | apply Keeps.ite | apply KeepsO.ite | apply keeps_regWrite)

theorem keeps_execAliasWrite {s0 : State} {init a : ℕ} {v : Word} {s : State} (hk : Keeps s0 s) :
    KeepsO s0 (execAliasWrite init a v s) := by
  unfold execAliasWrite
  repeat' (first | with_reducible assumption | with_reducible apply Keeps.next | with_reducible apply Keeps.ite
                   | with_reducible apply KeepsO.ite | with_reducible apply keeps_access
                   | with_reducible refine Keeps.lit (FlashKeeps.refl _) ?_ ?_ ?_ ?_ | exact id)

theorem keeps_execAddendWrite {s0 : State} {n : ℕ} {frac : Bool} {v : Word} {s : State} (hk : Keeps s0 s) :
    KeepsO s0 (execAddendWrite n frac v s) := by
  unfold execAddendWrite
  dsimp only
  repeat' (first | with_reducible assumption | with_reducible apply Keeps.next | with_reducible apply Keeps.ite
                   | with_reducible apply KeepsO.ite | with_reducible apply keeps_holdAt
                   | with_reducible apply keeps_addendWrite)

theorem keeps_execQResWrite {s0 : State} {q n : ℕ} {s : State} (hk : Keeps s0 s) :
    KeepsO s0 (execQResWrite q n s) := by
  unfold execQResWrite
  repeat' (first | assumption | apply Keeps.next | apply keeps_holdAt | apply keeps_qResWrite)

theorem keeps_execQCapWrite {s0 : State} {q n : ℕ} {s : State} (hk : Keeps s0 s) :
    KeepsO s0 (execQCapWrite q n s) := by
  unfold execQCapWrite
  repeat' (first | assumption | apply Keeps.next | apply keeps_holdAt | apply keeps_qCapWrite)

theorem keeps_execQCfgHalfWrite {s0 : State} {q : ℕ} {be : Bool} {half : ℕ} {s : State} (hk : Keeps s0 s) :
    KeepsO s0 (execQCfgHalfWrite q be half s) := by
  unfold execQCfgHalfWrite
  repeat' (first | assumption | apply Keeps.next | apply keeps_holdAt | apply keeps_qCfgWrite)

theorem keeps_execBudgetWrite {s0 : State} {k n : ℕ} {s : State} (hk : Keeps s0 s) :
    KeepsO s0 (execBudgetWrite k n s) := by
  unfold execBudgetWrite
  repeat' (first | with_reducible assumption | with_reducible apply Keeps.next | with_reducible apply Keeps.ite
                   | with_reducible apply KeepsO.ite | with_reducible apply keeps_holdAt
                   | with_reducible apply keeps_budgetWrite)

theorem keeps_execPlatenArmWrite {s0 : State} {k : ℕ} {v : Word} {s : State} (hk : Keeps s0 s) :
    KeepsO s0 (execPlatenArmWrite k v s) := by
  unfold execPlatenArmWrite
  repeat' (first | assumption | apply Keeps.next | apply keeps_holdAt | apply keeps_plCfgWrite)

theorem keeps_execCounterClear {s0 : State} {init off : ℕ} {v : Word} {s : State} (hk : Keeps s0 s) :
    KeepsO s0 (execCounterClear init off v s) := by
  unfold execCounterClear
  repeat' (first | with_reducible assumption | with_reducible apply Keeps.next | with_reducible apply Keeps.ite
                   | with_reducible apply KeepsO.ite | with_reducible apply keeps_access
                   | with_reducible refine Keeps.lit (FlashKeeps.refl _) ?_ ?_ ?_ ?_ | exact id)

theorem keeps_execIrqAck {s0 : State} {init : ℕ} {mcu : Bool} {n : ℕ} {s : State} (hk : Keeps s0 s) :
    KeepsO s0 (execIrqAck init mcu n s) := by
  unfold execIrqAck
  repeat' (first | with_reducible assumption | with_reducible apply Keeps.next | with_reducible apply Keeps.ite
                   | with_reducible apply KeepsO.ite | with_reducible apply keeps_irqAck)

theorem keeps_execIrqEoi {s0 : State} {init : ℕ} {mcu : Bool} {n : ℕ} {s : State} (hk : Keeps s0 s) :
    KeepsO s0 (execIrqEoi init mcu n s) := by
  unfold execIrqEoi
  repeat' (first | assumption | apply Keeps.next | apply Keeps.ite | apply KeepsO.ite | apply keeps_irqEoi)

theorem keeps_execIrqPendingSetClr {s0 : State} {init : ℕ} {mcu set : Bool} {k : ℕ} {v : Word} {s : State} (hk : Keeps s0 s) :
    KeepsO s0 (execIrqPendingSetClr init mcu set k v s) := by
  unfold execIrqPendingSetClr
  repeat' (first | with_reducible assumption | with_reducible apply Keeps.next | with_reducible apply Keeps.ite
                   | with_reducible apply KeepsO.ite | with_reducible apply keeps_irqPendWrite)

theorem keeps_execIrqMaskSetClr {s0 : State} {init : ℕ} {mcu set : Bool} {k : ℕ} {v : Word} {s : State} (hk : Keeps s0 s) :
    KeepsO s0 (execIrqMaskSetClr init mcu set k v s) := by
  unfold execIrqMaskSetClr
  repeat' (first | assumption | apply Keeps.next | apply Keeps.ite | apply KeepsO.ite | apply keeps_irqMaskWrite
                   | refine Keeps.lit (FlashKeeps.refl _) ?_ ?_ ?_ ?_ | exact id)

theorem keeps_crcEvent {s0 s : State} {kind : ℕ} (hk : Keeps s0 s) :
    Keeps s0 (crcEvent s kind) := by
  unfold crcEvent
  repeat' (first | assumption | apply keeps_event)

theorem keeps_execCfgCrcPassEnd {s0 s : State} (hk : Keeps s0 s) :
    KeepsO s0 (execCfgCrcPassEnd s) := by
  unfold execCfgCrcPassEnd
  dsimp only
  repeat' (first | with_reducible assumption | with_reducible apply Keeps.next | with_reducible apply Keeps.ite
                   | with_reducible apply KeepsO.ite | with_reducible apply keeps_setFld
                   | with_reducible apply keeps_fresh | with_reducible apply keeps_setFlds
                   | with_reducible apply keeps_driveFail | with_reducible apply keeps_crcEvent
                   | with_reducible refine Keeps.lit (FlashKeeps.refl _) ?_ ?_ ?_ ?_ | exact id)

theorem keeps_execCfgCrcStale {s0 s : State} (hk : Keeps s0 s) :
    KeepsO s0 (execCfgCrcStale s) := by
  unfold execCfgCrcStale
  repeat' (first | with_reducible assumption | with_reducible apply Keeps.next | with_reducible apply Keeps.ite
                   | with_reducible apply KeepsO.ite | with_reducible apply keeps_crcEvent
                   | with_reducible apply keeps_setFld)

end Sys2Proof.Machine
end

