-- ==== Sys2Proof/Laws/KeepsPower.lean ====
section
/-! SUPPORT. Every definition of Machine/Power.lean that answers a state keeps what Keeps names: the waiting commands,
the boot flash and the canonical form of the stores. -/

set_option linter.all false

namespace Sys2Proof.Machine

theorem keeps_fixedFields {s0 s : State} (hk : Keeps s0 s) :
    Keeps s0 (fixedFields s) := by
  unfold fixedFields
  dsimp only
  repeat' (first | assumption | apply keeps_setFlds | apply keeps_setFld)

theorem keeps_reset {s t : State} (hp : t.pending = s.pending) (hf : t.flash = s.flash) (h1 : t.rf = State.reset.rf)
    (h2 : t.sh = State.reset.sh) (h3 : t.mbx.mem = []) (h5 : t.mbx.load = []) (h4 : t.gal.mem = []) : Keeps s t :=
  ⟨hp, by rw [hf]; exact .refl _, fun _ => by
    unfold StoresOk
    rw [h1, h2, h3, h4, h5]
    decide⟩

theorem keeps_resetDevice {s0 s : State} (hk : Keeps s0 s) : Keeps s0 (resetDevice s) := by
  refine hk.trans ?_
  unfold resetDevice
  dsimp only
  split
  · exact keeps_setFld (keeps_reset rfl rfl rfl rfl rfl rfl rfl)
  · exact keeps_reset rfl rfl rfl rfl rfl rfl rfl

theorem keeps_coreUp {s0 s : State} (hk : Keeps s0 s) :
    Keeps s0 (coreUp s) := by
  unfold coreUp
  repeat' (first | assumption | refine Keeps.lit (FlashKeeps.refl _) ?_ ?_ ?_ ?_ | exact id)

theorem keeps_execAonResetRelease {s0 : State} {tdml tdmh ctl mgmt tio : ℕ} {s : State} (hk : Keeps s0 s) :
    KeepsO s0 (execAonResetRelease tdml tdmh ctl mgmt tio s) := by
  unfold execAonResetRelease
  repeat' (first | assumption | apply Keeps.next | apply Keeps.ite | apply KeepsO.ite | apply keeps_setPins
                   | apply keeps_setPwr)

theorem keeps_execPwrCoreEnRise {s0 s : State} (hk : Keeps s0 s) :
    KeepsO s0 (execPwrCoreEnRise s) := by
  unfold execPwrCoreEnRise
  repeat' (first | assumption | apply Keeps.next | apply Keeps.ite | apply KeepsO.ite | apply keeps_coreUp)

theorem keeps_execRailTimeout {s0 s : State} (hk : Keeps s0 s) :
    KeepsO s0 (execRailTimeout s) := by
  unfold execRailTimeout
  dsimp only
  repeat' (first | assumption | apply Keeps.next | apply Keeps.ite | apply KeepsO.ite | apply keeps_setPins
                   | apply keeps_setPwr)

theorem keeps_execRailRetry {s0 s : State} (hk : Keeps s0 s) :
    KeepsO s0 (execRailRetry s) := by
  unfold execRailRetry
  repeat' (first | assumption | apply Keeps.next | apply Keeps.ite | apply KeepsO.ite | apply keeps_coreUp)

theorem keeps_execResetNPulse {s0 : State} {ns : ℕ} {s : State} (hk : Keeps s0 s) :
    KeepsO s0 (execResetNPulse ns s) := by
  unfold execResetNPulse
  repeat' (first | with_reducible assumption | with_reducible apply Keeps.next | with_reducible apply KeepsO.fault
                   | with_reducible apply Keeps.ite | with_reducible apply KeepsO.ite
                   | with_reducible apply keeps_resetDevice | with_reducible apply keeps_coreUp
                   | with_reducible apply keeps_setPwr | with_reducible apply keeps_setPins)

theorem keeps_execSysResetExecute {s0 s : State} (hk : Keeps s0 s) :
    KeepsO s0 (execSysResetExecute s) := by
  unfold execSysResetExecute
  repeat' (first | with_reducible assumption | with_reducible apply Keeps.next | with_reducible apply Keeps.ite
                   | with_reducible apply KeepsO.ite | with_reducible apply keeps_resetDevice)

theorem keeps_execSupplyLoss {s0 s : State} (hk : Keeps s0 s) : KeepsO s0 (execSupplyLoss s) :=
  KeepsO.mk fun t ht => hk.trans (by
    unfold execSupplyLoss at ht
    injection ht with ht
    subst ht
    exact keeps_reset rfl rfl rfl rfl rfl rfl rfl)

theorem keeps_execBrownOut {s0 s : State} (hk : Keeps s0 s) :
    KeepsO s0 (execBrownOut s) := by
  unfold execBrownOut
  repeat' (first | assumption | apply Keeps.next | apply keeps_driveFail)

theorem keeps_execStrapSample {s0 : State} {levels : ℕ} {s : State} (hk : Keeps s0 s) :
    KeepsO s0 (execStrapSample levels s) := by
  unfold execStrapSample
  dsimp only
  repeat' (first | with_reducible assumption | with_reducible apply Keeps.next | with_reducible apply Keeps.ite
                   | with_reducible apply KeepsO.ite | with_reducible apply keeps_setPins
                   | with_reducible apply keeps_setPwr | with_reducible apply keeps_wr
                   | with_reducible apply keeps_setFlag | with_reducible apply keeps_fixedFields
                   | with_reducible apply keeps_enterRecovery
                   | with_reducible refine Keeps.lit (FlashKeeps.refl _) ?_ ?_ ?_ ?_ | exact id)

theorem keeps_execStrapCompare {s0 : State} {levels : ℕ} {s : State} (hk : Keeps s0 s) :
    KeepsO s0 (execStrapCompare levels s) := by
  unfold execStrapCompare
  dsimp only
  repeat' (first | assumption | apply Keeps.next | apply Keeps.ite | apply KeepsO.ite | apply keeps_setPins
                   | apply keeps_setFld)

theorem keeps_execPerstNAssert {s0 s : State} (hk : Keeps s0 s) :
    KeepsO s0 (execPerstNAssert s) := by
  unfold execPerstNAssert
  repeat' (first | assumption | apply Keeps.next | apply Keeps.ite | apply KeepsO.ite | apply keeps_hstPerst
                   | apply keeps_setPins)

theorem keeps_execSysPllLock {s0 s : State} (hk : Keeps s0 s) :
    KeepsO s0 (execSysPllLock s) := by
  unfold execSysPllLock
  dsimp only
  repeat' (first | with_reducible assumption | with_reducible apply Keeps.next | with_reducible apply Keeps.ite
                   | with_reducible apply KeepsO.ite | with_reducible apply keeps_setFld
                   | with_reducible apply keeps_fixedFields | with_reducible apply keeps_setDx
                   | with_reducible refine Keeps.lit (FlashKeeps.refl _) ?_ ?_ ?_ ?_ | exact id)

theorem keeps_execBootImageVerified {s0 s : State} {a b : Option Nat} {fw proto : Nat} (hk : Keeps s0 s) :
    KeepsO s0 (execBootImageVerified a b fw proto s) := by
  unfold execBootImageVerified
  refine KeepsO.ite hk.next ?_
  extract_lets f gaveUp f1 first good f2 s1 run
  have hf1 : FlashKeeps s.flash f1 := by
    unfold f1
    split <;> exact ⟨rfl, rfl, rfl, rfl, rfl, rfl, id⟩
  have hf : FlashKeeps f1 f2 := by
    unfold f2
    clear_value f1
    split <;> exact ⟨rfl, rfl, rfl, rfl, rfl, rfl, id⟩
  have hf2 := hf1.trans hf
  clear_value f2
  have h1 : Keeps s0 s1 := Keeps.lit hf2 id id id hk
  have hr : ∀ i fall, Keeps s0 (run i fall) := fun i fall =>
    keeps_setMbx (fun _ h => h) (fun _ h => h) (keeps_setDx (keeps_wr (keeps_wr (keeps_setFlds h1))))
  clear_value run
  exact KeepsO.ite (hr _ _).next (KeepsO.ite (hr _ _).next
    (Keeps.ite (keeps_setFld h1) (keeps_enterRecovery (keeps_setFld h1))).next)

theorem keeps_applyWhole {s0 s : State} {f : FormeImg} (hk : Keeps s0 s) :
    Keeps s0 (applyWhole s f) := by
  unfold applyWhole
  dsimp only
  repeat' (first | assumption | apply keeps_stageRun | apply keeps_muteAll | apply Keeps.foldl | (intro _ _ _))

theorem keeps_takeWork {s0 s : State} {f : FormeImg} (hk : Keeps s0 s) :
    Keeps s0 (takeWork s f) := by
  unfold takeWork
  repeat' (first | assumption | apply keeps_setFld | refine Keeps.lit (FlashKeeps.refl _) ?_ ?_ ?_ ?_ | exact id)

theorem keeps_dxNamed {s0 s : State} {forme : Bool} (hk : Keeps s0 s) :
    Keeps s0 (dxNamed s forme) := by
  unfold dxNamed
  dsimp only
  repeat' (first | assumption | apply Keeps.ite | apply keeps_fresh | split
                   | refine Keeps.lit (FlashKeeps.refl _) ?_ ?_ ?_ ?_ | exact id)

theorem keeps_execBootFormeApplied {s0 s : State} (hk : Keeps s0 s) :
    KeepsO s0 (execBootFormeApplied s) := by
  unfold execBootFormeApplied
  dsimp only
  repeat' (first | with_reducible assumption | with_reducible apply Keeps.next | with_reducible apply Keeps.ite
                   | with_reducible apply KeepsO.ite | with_reducible apply keeps_setFlds
                   | with_reducible apply keeps_takeWork | with_reducible apply keeps_applyWhole
                   | with_reducible apply keeps_dxNamed | with_reducible apply keeps_fwStarted
                   | with_reducible apply keeps_setFld | with_reducible apply keeps_follow
                   | with_reducible apply keeps_enterService)

theorem keeps_execXtalQualified {s0 s : State} (hk : Keeps s0 s) :
    KeepsO s0 (execXtalQualified s) := by
  unfold execXtalQualified
  repeat' (first | assumption | apply Keeps.next | apply Keeps.ite | apply KeepsO.ite | apply keeps_setPwr
                   | apply keeps_setFld)

theorem keeps_execXtalFailTimeout {s0 s : State} (hk : Keeps s0 s) :
    KeepsO s0 (execXtalFailTimeout s) := by
  unfold execXtalFailTimeout
  repeat' (first | assumption | apply Keeps.next | apply Keeps.ite | apply KeepsO.ite | apply keeps_setFld)

theorem keeps_saveDomain {s0 s : State} {d : ℕ} (hk : Keeps s0 s) :
    Keeps s0 (saveDomain s d) := by
  unfold saveDomain
  dsimp only
  repeat' (first | assumption | apply Keeps.ite | apply keeps_setPwr)

theorem keeps_clearBlocks {s0 s : State} {d : ℕ} (hk : Keeps s0 s) :
    Keeps s0 (clearBlocks s d) := by
  unfold clearBlocks
  repeat' (first | assumption | apply Keeps.ite | apply keeps_halfLost | split
                   | refine Keeps.lit (FlashKeeps.refl _) ?_ ?_ ?_ ?_ | exact id | (exact fun _ => rfl))

theorem keeps_stopBlocks {s0 s : State} {d : ℕ} (hk : Keeps s0 s) :
    Keeps s0 (stopBlocks s d) := by
  unfold stopBlocks
  repeat' (first | with_reducible assumption | with_reducible apply Keeps.ite | with_reducible apply keeps_portLink
                   | with_reducible apply keeps_hstPowerOff | with_reducible apply keeps_tdmPowerOff | split
                   | with_reducible refine Keeps.lit (FlashKeeps.refl _) ?_ ?_ ?_ ?_ | exact id)

theorem keeps_domainOff {s0 s : State} {d : Nat} (hk : Keeps s0 s) : Keeps s0 (domainOff s d) := by
  unfold domainOff
  refine Keeps.ite hk ?_
  extract_lets a a1 b c e
  have ha : Keeps s0 a := keeps_saveDomain (keeps_stopBlocks hk)
  have ha1 : Keeps s0 a1 := Keeps.ite (Keeps.lit (.refl _) id id id ha) ha
  have hb : Keeps s0 b := keeps_clearBlocks ha1
  have hc : Keeps s0 c := ⟨hb.pending, hb.flash, fun w => ⟨sWf_drop _ _ _ (hb.stores w).1, sWf_drop _ _ _ (hb.stores w).2.1,
    (hb.stores w).2.2⟩⟩
  have he : Keeps s0 e := keeps_fixedFields (keeps_setDom hc)
  exact Keeps.ite (keeps_setPwr he) he

theorem keeps_irqRestore {s0 s : State} (hk : Keeps s0 s) :
    Keeps s0 (irqRestore s) := by
  unfold irqRestore
  dsimp only
  repeat' (first | with_reducible assumption | with_reducible apply Keeps.ite | with_reducible apply keeps_pendSet
                   | with_reducible apply keeps_msixIfRose | with_reducible apply keeps_irqSample
                   | with_reducible apply Keeps.foldl | (intro _ _ _) | split
                   | with_reducible refine Keeps.lit (FlashKeeps.refl _) ?_ ?_ ?_ ?_ | exact id)

theorem keeps_domainOn {s0 s : State} {d : ℕ} {corrupt : Bool} (hk : Keeps s0 s) :
    Keeps s0 (domainOn s d corrupt) := by
  unfold domainOn
  dsimp only
  repeat' (first | with_reducible assumption | with_reducible apply Keeps.ite | with_reducible apply keeps_setDom
                   | with_reducible apply keeps_setFld | with_reducible apply keeps_setFlds
                   | with_reducible apply keeps_setPwr | with_reducible apply keeps_wrSh | with_reducible apply keeps_wr
                   | with_reducible apply keeps_fixedFields | with_reducible apply keeps_irqRestore
                   | with_reducible apply Keeps.foldl | (intro _ _ _) | split
                   | with_reducible refine Keeps.lit (FlashKeeps.refl _) ?_ ?_ ?_ ?_ | exact id)

theorem keeps_execDomainPowerOff {s0 : State} {d : ℕ} {s : State} (hk : Keeps s0 s) :
    KeepsO s0 (execDomainPowerOff d s) := by
  unfold execDomainPowerOff
  repeat' (first | with_reducible assumption | with_reducible apply Keeps.next | with_reducible apply Keeps.ite
                   | with_reducible apply KeepsO.ite | with_reducible apply keeps_follow
                   | with_reducible apply keeps_domainOff)

theorem keeps_execDomainPowerUp {s0 : State} {d : ℕ} {corrupt : Bool} {s : State} (hk : Keeps s0 s) :
    KeepsO s0 (execDomainPowerUp d corrupt s) := by
  unfold execDomainPowerUp
  dsimp only
  repeat' (first | assumption | apply Keeps.next | apply Keeps.ite | apply KeepsO.ite | apply keeps_setFld
                   | apply keeps_domainOn)

theorem keeps_pcieWake {s0 s : State} (hk : Keeps s0 s) :
    Keeps s0 (pcieWake s) := by
  unfold pcieWake
  repeat' (first | assumption | apply Keeps.ite | apply keeps_setPins)

theorem keeps_wakeDoze {s0 s : State} {cause : ℕ} (hk : Keeps s0 s) :
    Keeps s0 (wakeDoze s cause) := by
  unfold wakeDoze
  dsimp only
  repeat' (first | with_reducible assumption | with_reducible apply keeps_setPwr | with_reducible apply keeps_setFld
                   | with_reducible apply keeps_pcieWake | with_reducible apply keeps_goPower
                   | with_reducible apply keeps_setVid)

theorem keeps_retFalls {s0 s : State} (hk : Keeps s0 s) :
    Keeps s0 (retFalls s) := by
  unfold retFalls
  repeat' (first | assumption | apply keeps_setPwr | apply keeps_setPins | apply keeps_setVid)

theorem keeps_wakeSleep {s0 s : State} (hk : Keeps s0 s) :
    Keeps s0 (wakeSleep s) := by
  unfold wakeSleep
  repeat' (first | with_reducible assumption | with_reducible apply keeps_retFalls | with_reducible apply keeps_setPwr
                   | with_reducible apply keeps_goPower
                   | with_reducible refine Keeps.lit (FlashKeeps.refl _) ?_ ?_ ?_ ?_ | exact id)

theorem keeps_fwBack {s0 s : State} (hk : Keeps s0 s) :
    Keeps s0 (fwBack s) := by
  unfold fwBack
  dsimp only
  repeat' (first | with_reducible assumption | with_reducible apply keeps_takeWork | with_reducible apply keeps_setFld
                   | split | with_reducible refine Keeps.lit (FlashKeeps.refl _) ?_ ?_ ?_ ?_ | exact id)

theorem keeps_reloadTables {s0 s : State} (hk : Keeps s0 s) :
    Keeps s0 (reloadTables s) := by
  unfold reloadTables
  dsimp only
  repeat' (first | assumption | apply keeps_keyWrite | apply keeps_fwPuts | apply keeps_strobe | apply keeps_impWrite
                   | apply Keeps.foldl | (intro _ _ _))

theorem keeps_saveInvalid {s0 s : State} (hk : Keeps s0 s) :
    Keeps s0 (saveInvalid s) := by
  unfold saveInvalid
  try dsimp -zeta only
  repeat' (first
    | with_reducible assumption | with_reducible apply Keeps.ite | split
    | with_reducible refine Keeps.lit (FlashKeeps.refl _) ?_ ?_ ?_ ?_ | with_reducible refine Keeps.lit ?_ ?_ ?_ ?_ ?_
    | exact FlashKeeps.image | exact FlashKeeps.forme | (exact FlashKeeps.upd id) | (refine FlashKeeps.upd ?_; omega)
    | with_reducible exact id | with_reducible exact memWf_write _ _ _ | with_reducible exact sWf_drop _ _ _
    | (intro _ hw; exact hw) | (intro _ hw; exact memWf_write _ _ _ hw) | exact fun _ => rfl | (intro _ _; rfl)
    | (intro _ _ hx) | (intro _ hx))

theorem keeps_abandonEntry {s0 s : State} (hk : Keeps s0 s) :
    Keeps s0 (abandonEntry s) := by
  unfold abandonEntry
  dsimp only
  repeat' (first | with_reducible assumption | with_reducible apply Keeps.ite | with_reducible apply keeps_goPower
                   | with_reducible apply keeps_fwBack | with_reducible apply keeps_domainOn
                   | with_reducible apply keeps_reloadTables | with_reducible apply keeps_setPwr
                   | with_reducible apply keeps_saveInvalid | with_reducible apply keeps_mcsGo
                   | with_reducible apply Keeps.foldl | (intro _ _ _)
                   | with_reducible refine Keeps.lit (FlashKeeps.refl _) ?_ ?_ ?_ ?_ | exact id)

theorem keeps_latchSet {s0 s : State} {k : ℕ} {sameTick : Bool} (hk : Keeps s0 s) :
    Keeps s0 (latchSet s k sameTick) := by
  unfold latchSet
  dsimp only
  repeat' (first | with_reducible assumption | with_reducible apply Keeps.ite | with_reducible apply keeps_setFld
                   | with_reducible apply keeps_setPwr | with_reducible apply keeps_irqEdge
                   | with_reducible apply keeps_wakeDoze | with_reducible apply keeps_abandonEntry
                   | with_reducible apply keeps_wakeSleep)

theorem keeps_execWakeLatchEdge {s0 : State} {k : ℕ} {rising : Bool} {ns : ℕ} {afterRelease sameTick : Bool} {s : State} (hk : Keeps s0 s) :
    KeepsO s0 (execWakeLatchEdge k rising ns afterRelease sameTick s) := by
  unfold execWakeLatchEdge
  dsimp only
  repeat' (first | with_reducible assumption | with_reducible apply Keeps.next | with_reducible apply Keeps.ite
                   | with_reducible apply KeepsO.ite | with_reducible apply keeps_latchSet
                   | with_reducible apply keeps_fresh)

theorem keeps_execSlowCounterAlarm {s0 : State} {sameTick : Bool} {s : State} (hk : Keeps s0 s) :
    KeepsO s0 (execSlowCounterAlarm sameTick s) := by
  unfold execSlowCounterAlarm
  dsimp only
  repeat' (first | with_reducible assumption | with_reducible apply Keeps.next | with_reducible apply Keeps.ite
                   | with_reducible apply KeepsO.ite | with_reducible apply keeps_latchSet)

theorem keeps_execMinOffTimeExpiry {s0 s : State} (hk : Keeps s0 s) :
    KeepsO s0 (execMinOffTimeExpiry s) := by
  unfold execMinOffTimeExpiry
  dsimp only
  repeat' (first | with_reducible assumption | with_reducible apply Keeps.next | with_reducible apply Keeps.ite
                   | with_reducible apply KeepsO.ite | with_reducible apply keeps_setPwr
                   | with_reducible apply keeps_retFalls | with_reducible apply keeps_wakeSleep
                   | with_reducible refine Keeps.lit (FlashKeeps.refl _) ?_ ?_ ?_ ?_ | exact id)

theorem keeps_execWakePowerUp {s0 s : State} (hk : Keeps s0 s) :
    KeepsO s0 (execWakePowerUp s) := by
  unfold execWakePowerUp
  dsimp only
  repeat' (first | assumption | apply Keeps.next | apply Keeps.ite | apply KeepsO.ite | apply keeps_setPins
                   | apply keeps_setPwr)

theorem keeps_execWakeRailTimeout {s0 s : State} (hk : Keeps s0 s) :
    KeepsO s0 (execWakeRailTimeout s) := by
  unfold execWakeRailTimeout
  dsimp only
  repeat' (first | with_reducible assumption | with_reducible apply Keeps.next | with_reducible apply Keeps.ite
                   | with_reducible apply KeepsO.ite | with_reducible apply keeps_setPins
                   | with_reducible apply keeps_goPower | with_reducible apply keeps_setFld)

theorem keeps_restartBlocks {s0 s : State} (hk : Keeps s0 s) :
    Keeps s0 (restartBlocks s) := by
  unfold restartBlocks
  dsimp only
  repeat' (first | with_reducible assumption | with_reducible apply keeps_wrSh | with_reducible apply keeps_wr
                   | with_reducible apply keeps_stageStrobe | with_reducible apply Keeps.foldl | (intro _ _ _) | split)

theorem keeps_wakeUp {s0 s : State} (hk : Keeps s0 s) :
    Keeps s0 (wakeUp s) := by
  unfold wakeUp
  repeat' (first | with_reducible assumption | with_reducible apply keeps_setVid | with_reducible apply keeps_setFlds
                   | with_reducible apply keeps_goPower
                   | with_reducible refine Keeps.lit (FlashKeeps.refl _) ?_ ?_ ?_ ?_ | exact id)

theorem keeps_execWakingReady {s0 : State} {imageOk : Bool} {s : State} (hk : Keeps s0 s) :
    KeepsO s0 (execWakingReady imageOk s) := by
  unfold execWakingReady
  dsimp only
  repeat' (first | with_reducible assumption | with_reducible apply Keeps.next | with_reducible apply Keeps.ite
                   | with_reducible apply KeepsO.ite | with_reducible apply keeps_wakeUp
                   | with_reducible apply keeps_enterRecovery | with_reducible apply keeps_setFld
                   | with_reducible apply keeps_fwBack | with_reducible apply keeps_takeWork
                   | with_reducible apply keeps_reloadTables | with_reducible apply keeps_mcsGo
                   | with_reducible apply keeps_restartBlocks | with_reducible apply keeps_emit
                   | with_reducible apply keeps_setPwr | with_reducible apply keeps_queueFirst
                   | with_reducible apply keeps_follow | with_reducible apply keeps_queueEvent
                   | with_reducible apply Keeps.foldl | (intro _ _ _)
                   | with_reducible refine Keeps.lit (FlashKeeps.refl _) ?_ ?_ ?_ ?_ | exact id | (exact fun _ => rfl))

theorem keeps_beginEntry {s0 s : State} {target : ℕ} (hk : Keeps s0 s) :
    Keeps s0 (beginEntry s target) := by
  unfold beginEntry
  dsimp only
  repeat' (first | with_reducible assumption | with_reducible apply Keeps.ite | with_reducible apply keeps_setPwr
                   | with_reducible apply keeps_stkTell | with_reducible apply keeps_goPower
                   | with_reducible apply keeps_mcsGo | with_reducible apply keeps_follow
                   | with_reducible apply keeps_timeHandover | with_reducible apply Keeps.foldl | (intro _ _ _))

theorem keeps_execToDozeComplete {s0 s : State} (hk : Keeps s0 s) :
    KeepsO s0 (execToDozeComplete s) := by
  unfold execToDozeComplete
  dsimp only
  repeat' (first | with_reducible assumption | with_reducible apply Keeps.next | with_reducible apply Keeps.ite
                   | with_reducible apply KeepsO.ite | with_reducible apply keeps_mcsGo
                   | with_reducible apply keeps_domainOff | with_reducible apply keeps_domainOn
                   | with_reducible apply keeps_portLink | with_reducible apply keeps_setFlds
                   | with_reducible apply keeps_follow | with_reducible apply keeps_goPower
                   | with_reducible apply Keeps.foldl | (intro _ _ _)
                   | with_reducible refine Keeps.lit (FlashKeeps.refl _) ?_ ?_ ?_ ?_ | exact id | (exact fun _ => rfl))

theorem keeps_execSleepSaveDone {s0 : State} {good : Bool} {s : State} (hk : Keeps s0 s) :
    KeepsO s0 (execSleepSaveDone good s) := by
  unfold execSleepSaveDone
  try dsimp -zeta only
  repeat' (first
    | with_reducible assumption | with_reducible apply Keeps.next | with_reducible apply KeepsO.fault
    | with_reducible apply Keeps.ite | with_reducible apply KeepsO.ite | with_reducible apply keeps_follow
    | with_reducible apply keeps_abandonEntry | with_reducible apply keeps_setFld | split
    | with_reducible refine Keeps.lit (FlashKeeps.refl _) ?_ ?_ ?_ ?_ | with_reducible refine Keeps.lit ?_ ?_ ?_ ?_ ?_
    | exact FlashKeeps.image | exact FlashKeeps.forme | (exact FlashKeeps.upd id) | with_reducible exact id)

theorem Keeps.galOf {s0 s t : State} (h : Keeps s0 s) (k : Keeps s0 t) : Keeps s0 { t with gal := s.gal } :=
  ⟨k.pending, k.flash, fun w => ⟨(k.stores w).1, (k.stores w).2.1, (k.stores w).2.2.1, (k.stores w).2.2.2.1,
    (h.stores w).2.2.2.2⟩⟩

theorem keeps_execPointOfNoReturn {s0 s : State} (hk : Keeps s0 s) : KeepsO s0 (execPointOfNoReturn s) := by
  unfold execPointOfNoReturn
  refine KeepsO.ite hk.next ?_
  extract_lets t half g0 s1 gal s2 s3 w0 s4 s5 s6 s7
  have h1 : Keeps s0 s1 := Keeps.ite (keeps_galSleepR hk) (Keeps.lit (.refl _) id id (fun _ => rfl) hk)
  have h2 : Keeps s0 s2 := Keeps.foldl (fun _ _ h => keeps_domainOff h) h1
  have h3 : Keeps s0 s3 := h1.galOf h2
  clear_value s1 gal s2 s3
  have h4 : Keeps s0 s4 := Keeps.ite (Keeps.lit (.refl _) id id id h3) h3
  clear_value s4
  have h5 : Keeps s0 s5 := keeps_setPins h4
  clear_value s5
  have h6 : Keeps s0 s6 := Keeps.ite h5 (Keeps.lit (.refl _) id id id h5)
  clear_value s6
  exact (keeps_goPower (keeps_setFld (keeps_setPwr h6))).next

theorem keeps_execPmeL2Handshake {s0 s : State} (hk : Keeps s0 s) :
    KeepsO s0 (execPmeL2Handshake s) := by
  unfold execPmeL2Handshake
  dsimp only
  repeat' (first | with_reducible assumption | with_reducible apply Keeps.next | with_reducible apply Keeps.ite
                   | with_reducible apply KeepsO.ite | with_reducible apply keeps_emit
                   | with_reducible apply keeps_setFlds | with_reducible apply keeps_setFld
                   | with_reducible apply keeps_beginEntry | split
                   | with_reducible refine Keeps.lit (FlashKeeps.refl _) ?_ ?_ ?_ ?_ | exact id)

theorem keeps_execPmeL2Timeout {s0 s : State} (hk : Keeps s0 s) :
    KeepsO s0 (execPmeL2Timeout s) := by
  unfold execPmeL2Timeout
  repeat' (first | assumption | apply Keeps.next | apply keeps_setPwr)

theorem keeps_dozeKeep {s0 s : State} {port : ℕ} {b : List Byte} (hk : Keeps s0 s) :
    Keeps s0 (dozeKeep s port b) := by
  unfold dozeKeep
  repeat' (first | with_reducible assumption | with_reducible apply Keeps.ite | with_reducible apply keeps_netCount
                   | with_reducible apply keeps_setPwr)

theorem keeps_execDozeFrameRx {s0 : State} {port : ℕ} {raw : List Byte} {good : Bool} {s : State} (hk : Keeps s0 s) :
    KeepsO s0 (execDozeFrameRx port raw good s) := by
  unfold execDozeFrameRx
  dsimp only
  repeat' (first | with_reducible assumption | with_reducible apply Keeps.next | with_reducible apply Keeps.ite
                   | with_reducible apply KeepsO.ite | with_reducible apply keeps_netCount
                   | with_reducible apply keeps_dozeKeep | with_reducible apply keeps_count
                   | with_reducible apply keeps_wakeDoze | split
                   | with_reducible refine Keeps.lit (FlashKeeps.refl _) ?_ ?_ ?_ ?_ | exact id)

theorem keeps_execAvsStep {s0 : State} {slack : ℕ} {ample : Bool} {s : State} (hk : Keeps s0 s) :
    KeepsO s0 (execAvsStep slack ample s) := by
  unfold execAvsStep
  dsimp only
  repeat' (first | assumption | apply Keeps.next | apply Keeps.ite | apply KeepsO.ite | apply keeps_avsHold
                   | apply keeps_setPwr | apply keeps_setFld | refine Keeps.lit (FlashKeeps.refl _) ?_ ?_ ?_ ?_
                   | exact id)

end Sys2Proof.Machine
end

