-- ==== Sys2Proof/Laws/KeepsCtlPort.lean ====
section
/-! SUPPORT. Every definition of Machine/CtlPort.lean that answers a state keeps what Keeps names: the waiting commands,
the boot flash and the canonical form of the stores. -/

set_option linter.all false

namespace Sys2Proof.Machine

theorem keeps_ctlBegin {s0 s : State} (hk : Keeps s0 s) :
    Keeps s0 (ctlBegin s) := by
  unfold ctlBegin
  repeat' (first | assumption | apply keeps_setSide)

theorem keeps_ctlEnd {s0 s : State} {f : CtlFlags} (hk : Keeps s0 s) :
    Keeps s0 (ctlEnd s f) := by
  unfold ctlEnd
  dsimp only
  repeat' (first | assumption | apply Keeps.ite | apply keeps_ctlBegin | apply keeps_setFld | apply keeps_countSat)

theorem keeps_ctlPolled {s0 s : State} (hk : Keeps s0 s) :
    Keeps s0 (ctlPolled s) := by
  unfold ctlPolled
  repeat' (first | assumption | apply keeps_countSat)

theorem keeps_ctlSettle {s0 s : State} (hk : Keeps s0 s) :
    Keeps s0 (ctlSettle s) := by
  unfold ctlSettle
  repeat' (first | assumption | apply Keeps.ite | apply keeps_nextOr | apply keeps_execWideSnapshotReady
                   | apply keeps_execIndirTransferDone | split)

theorem keeps_ctlReadWord {s0 s : State} {a : ℕ} (hk : Keeps s0 s) :
    Keeps s0 (ctlReadWord s a).1 := by
  unfold ctlReadWord
  dsimp only
  repeat' (first | assumption | apply keeps_ctlSettle | apply keeps_busRead)

theorem keeps_ctlReads {s0 : State} {late : List Nat} {a step n i : Nat} {s : State} {acc : State × List Word × CtlFlags}
    (hk : Keeps s0 acc.1) : Keeps s0 (ctlReads late a step n i s acc).1 := by
  induction n generalizing i s acc with
  | zero => exact hk
  | succ n ih => exact ih (keeps_ctlReadWord hk)

theorem keeps_ctlWrites {s0 : State} {a step x1 : ℕ} {x2 : List Word} {x3 : State} (hk : Keeps s0 x3) :
    Keeps s0 (ctlWrites a step x1 x2 x3) := by
  induction x2 generalizing a step x1 x3 with
  | nil =>
    unfold ctlWrites
    try dsimp -zeta only
    repeat' (first
      | with_reducible assumption | with_reducible apply Keeps.ite | with_reducible apply keeps_ctlSettle
      | with_reducible apply keeps_busAcc | split | with_reducible refine Keeps.lit (FlashKeeps.refl _) ?_ ?_ ?_ ?_
      | with_reducible exact id | with_reducible exact memWf_write _ _ _ | with_reducible exact sWf_drop _ _ _
      | (intro _ hw; exact hw) | (intro _ hw; exact memWf_write _ _ _ hw) | exact fun _ => rfl | (intro _ _; rfl)
      | (intro _ _ hx) | (intro _ hx))
  | cons a l ih =>
    unfold ctlWrites
    try dsimp -zeta only
    repeat' (first
      | with_reducible apply ih | with_reducible assumption | with_reducible apply Keeps.ite
      | with_reducible apply keeps_ctlSettle | with_reducible apply keeps_busAcc | split
      | with_reducible refine Keeps.lit (FlashKeeps.refl _) ?_ ?_ ?_ ?_ | with_reducible exact id
      | with_reducible exact memWf_write _ _ _ | with_reducible exact sWf_drop _ _ _ | (intro _ hw; exact hw)
      | (intro _ hw; exact memWf_write _ _ _ hw) | exact fun _ => rfl | (intro _ _; rfl) | (intro _ _ hx)
      | (intro _ hx))

theorem keeps_ctlWriteFrame {s0 s : State} {n a step : ℕ} {data : List Byte} (hk : Keeps s0 s) :
    Keeps s0 (ctlWriteFrame s n a step data) := by
  unfold ctlWriteFrame
  dsimp only
  repeat' (first | with_reducible assumption | with_reducible apply Keeps.ite | with_reducible apply keeps_ctlEnd
                   | with_reducible apply keeps_ctlWrites | with_reducible apply keeps_ctlSettle
                   | with_reducible apply keeps_wakeDoze
                   | with_reducible refine Keeps.lit (FlashKeeps.refl _) ?_ ?_ ?_ ?_ | exact id)

theorem keeps_ctlReadFrame {s0 s : State} {late : List ℕ} {n a step sent : ℕ} (hk : Keeps s0 s) :
    Keeps s0 (ctlReadFrame s late n a step sent).1 := by
  unfold ctlReadFrame
  dsimp only
  repeat' (first | with_reducible assumption | with_reducible apply Keeps.ite | with_reducible apply Keeps.ite1
                   | with_reducible apply keeps_ctlEnd | with_reducible apply keeps_ctlReads
                   | with_reducible apply keeps_ctlSettle | split
                   | with_reducible refine Keeps.lit (FlashKeeps.refl _) ?_ ?_ ?_ ?_ | exact id | (exact fun _ => rfl))

theorem keeps_execCtlSpiFrame {s0 : State} {mosi : List Byte} {late : List ℕ} {s : State} (hk : Keeps s0 s) :
    KeepsO s0 (execCtlSpiFrame mosi late s) := by
  unfold execCtlSpiFrame
  dsimp only
  repeat' (first | with_reducible assumption | with_reducible apply Keeps.next | with_reducible apply Keeps.ite
                   | with_reducible apply KeepsO.ite | with_reducible apply keeps_emit
                   | with_reducible apply keeps_ctlPolled | with_reducible apply keeps_ctlEnd
                   | with_reducible apply keeps_ctlBegin | with_reducible apply keeps_ctlWriteFrame
                   | with_reducible apply keeps_ctlReadFrame | split
                   | with_reducible refine Keeps.lit (FlashKeeps.refl _) ?_ ?_ ?_ ?_ | exact id)

theorem keeps_execCtlI2cFrame {s0 : State} {target : ℕ} {sent : List Byte} {read : Option ℕ} {s : State} (hk : Keeps s0 s) :
    KeepsO s0 (execCtlI2cFrame target sent read s) := by
  unfold execCtlI2cFrame
  dsimp only
  repeat' (first | with_reducible assumption | with_reducible apply Keeps.next | with_reducible apply Keeps.ite
                   | with_reducible apply KeepsO.ite | with_reducible apply keeps_ctlPolled
                   | with_reducible apply keeps_emit | with_reducible apply keeps_ctlEnd
                   | with_reducible apply keeps_ctlBegin | with_reducible apply keeps_ctlWriteFrame
                   | with_reducible apply keeps_ctlReadFrame | split
                   | with_reducible refine Keeps.lit (FlashKeeps.refl _) ?_ ?_ ?_ ?_ | exact id | (exact fun _ => rfl))

end Sys2Proof.Machine
end

