-- ==== Sys2Proof/Laws/KeepsSynzo.lean ====
section
/-! SUPPORT. Every definition of Machine/Synzo.lean that answers a state keeps what Keeps names: the waiting commands,
the boot flash and the canonical form of the stores. -/

set_option linter.all false

namespace Sys2Proof.Machine

theorem keeps_quarantineDrop {s0 old s : State} (hk : Keeps s0 s) : Keeps s0 (quarantineDrop old s) :=
  Keeps.ite (keeps_abortApply hk) hk

theorem keeps_execStkLinkTrained {s0 : State} {l port pos serial major minor role gen : ℕ} {inv0 inv1 swapped : Bool} {s : State} (hk : Keeps s0 s) :
    KeepsO s0 (execStkLinkTrained l port pos serial major minor role gen inv0 inv1 swapped s) := by
  unfold execStkLinkTrained
  dsimp only
  repeat' (first | with_reducible assumption | with_reducible apply Keeps.next | with_reducible apply Keeps.ite
                   | with_reducible apply KeepsO.ite | with_reducible apply keeps_lanePolarity
                   | with_reducible apply keeps_laneMiswire | with_reducible apply keeps_laneSwap
                   | with_reducible apply keeps_follow | with_reducible apply keeps_quarantineDrop
                   | with_reducible apply keeps_stkTrained
                   | with_reducible refine Keeps.lit (FlashKeeps.refl _) ?_ ?_ ?_ ?_ | exact id)

theorem keeps_ckptCut {s0 s : State} {l : ℕ} (hk : Keeps s0 s) :
    Keeps s0 (ckptCut s l) := by
  unfold ckptCut
  dsimp only
  repeat' (first | assumption | apply Keeps.ite | apply keeps_galRewind | apply keeps_galRefresh | apply keeps_setGq)

theorem keeps_execStkLinkDown {s0 : State} {l : ℕ} {s : State} (hk : Keeps s0 s) :
    KeepsO s0 (execStkLinkDown l s) := by
  unfold execStkLinkDown
  repeat' (first | with_reducible assumption | with_reducible apply Keeps.next | with_reducible apply Keeps.ite
                   | with_reducible apply KeepsO.ite | with_reducible apply keeps_follow
                   | with_reducible apply keeps_laneMiswire | with_reducible apply keeps_twinLinkDown
                   | with_reducible apply keeps_ckptCut | with_reducible apply keeps_stkLinkDown
                   | with_reducible refine Keeps.lit (FlashKeeps.refl _) ?_ ?_ ?_ ?_ | exact id)

theorem keeps_editRx {s0 s : State} {src gen : ℕ} {item : List Byte} (hk : Keeps s0 s) :
    Keeps s0 (editRx s src gen item) := by
  unfold editRx
  dsimp only
  repeat' (first | with_reducible assumption | with_reducible apply Keeps.ite | with_reducible apply keeps_stkTell
                   | with_reducible apply keeps_raiseGen
                   | with_reducible refine Keeps.lit (FlashKeeps.refl _) ?_ ?_ ?_ ?_ | exact id)

theorem keeps_editAnswer {s0 s : State} {st : ℕ} {gen : Option ℕ} (hk : Keeps s0 s) :
    Keeps s0 (editAnswer s st gen) := by
  unfold editAnswer
  repeat' (first | assumption | apply keeps_endCmd | split | refine Keeps.lit (FlashKeeps.refl _) ?_ ?_ ?_ ?_
                   | exact id)

theorem keeps_hopRx {s0 s : State} {p : ℕ} {broken : Bool} (hk : Keeps s0 s) :
    Keeps s0 (hopRx s p broken) := by
  unfold hopRx
  dsimp only
  repeat' (first | assumption | apply Keeps.ite | apply keeps_setFld
                   | refine Keeps.lit (FlashKeeps.refl _) ?_ ?_ ?_ ?_ | exact id)

theorem keeps_storedRx {s0 s : State} {src slot gen crc : ℕ} (hk : Keeps s0 s) :
    Keeps s0 (storedRx s src slot gen crc) := by
  unfold storedRx
  repeat' (first | assumption | apply Keeps.ite | refine Keeps.lit (FlashKeeps.refl _) ?_ ?_ ?_ ?_ | exact id
                   | (exact fun _ => rfl))

theorem keeps_memberRx {s0 s : State} {p st reason : ℕ} (hk : Keeps s0 s) :
    Keeps s0 (memberRx s p st reason) := by
  unfold memberRx
  dsimp only
  repeat' (first | with_reducible assumption | with_reducible apply Keeps.ite | with_reducible apply keeps_stkRefresh
                   | with_reducible apply keeps_event | with_reducible refine Keeps.lit (FlashKeeps.refl _) ?_ ?_ ?_ ?_
                   | exact id)

theorem keeps_creditRx {s0 s : State} {l cls n : ℕ} (hk : Keeps s0 s) :
    Keeps s0 (creditRx s l cls n) := by
  unfold creditRx
  dsimp only
  repeat' (first | assumption | apply keeps_stkPump | apply keeps_setSlink)

theorem keeps_stkMsgRx {s0 s : State} {l src flags : ℕ} {item : List Byte} {msg : StkMsg} (hk : Keeps s0 s) :
    Keeps s0 (stkMsgRx s l src flags item msg) := by
  unfold stkMsgRx
  repeat' (first | with_reducible assumption | with_reducible apply Keeps.ite | with_reducible apply keeps_stkTimeRx
                   | with_reducible apply keeps_setFld | with_reducible apply keeps_heartbeatRx
                   | with_reducible apply keeps_siAccept | with_reducible apply keeps_creditRx
                   | with_reducible apply keeps_stkResend | with_reducible apply keeps_quarantineDrop
                   | with_reducible apply keeps_stkKnow | with_reducible apply keeps_memberRx
                   | with_reducible apply keeps_hopRx | with_reducible apply keeps_editRx
                   | with_reducible apply keeps_editAnswer | with_reducible apply keeps_storedRx
                   | with_reducible apply keeps_beginEntry | with_reducible apply keeps_handoverRx | split
                   | with_reducible refine Keeps.lit (FlashKeeps.refl _) ?_ ?_ ?_ ?_ | exact id)

theorem keeps_galMore {s0 : State} {q x1 : ℕ} {x2 : List Byte} {x3 : State} (hk : Keeps s0 x3) :
    Keeps s0 (galMore q x1 x2 x3) := by
  induction x1 generalizing q x2 x3 with
  | zero =>
    unfold galMore
    try dsimp -zeta only
    repeat' (first
      | with_reducible assumption)
  | succ n_ ih =>
    unfold galMore
    try dsimp -zeta only
    repeat' (first
      | with_reducible apply ih | with_reducible assumption | with_reducible apply Keeps.ite
      | with_reducible apply keeps_galWord)

theorem keeps_ckptRx {s0 s : State} {flags : ℕ} {item : List Byte} {good : Bool} (hk : Keeps s0 s) :
    Keeps s0 (ckptRx s flags item good) := by
  unfold ckptRx
  dsimp only
  repeat' (first | with_reducible assumption | with_reducible apply Keeps.ite | with_reducible apply keeps_galRefresh
                   | with_reducible apply keeps_swallowEnd | with_reducible apply keeps_galRewind
                   | with_reducible apply keeps_setGq | with_reducible apply keeps_ckptFail
                   | with_reducible apply keeps_galOpen | with_reducible apply keeps_galMore
                   | with_reducible apply keeps_galCommit | split)

theorem keeps_stkStore {s0 s : State} {cls src flags : ℕ} {item : List Byte} (hk : Keeps s0 s) :
    Keeps s0 (stkStore s cls src flags item) := by
  unfold stkStore
  repeat' (first | with_reducible assumption | with_reducible apply Keeps.ite | with_reducible apply keeps_ckptRx
                   | with_reducible apply keeps_galRefresh | with_reducible apply keeps_galCommit
                   | with_reducible apply keeps_galPut | split)

theorem keeps_execSynzoFrameRx {s0 : State} {l cls dest src flags seq : ℕ} {item : List Byte} {good : Bool} {msg : StkMsg} {s : State} (hk : Keeps s0 s) :
    KeepsO s0 (execSynzoFrameRx l cls dest src flags seq item good msg s) := by
  unfold execSynzoFrameRx
  dsimp only
  repeat' (first | with_reducible assumption | with_reducible apply Keeps.next | with_reducible apply Keeps.ite
                   | with_reducible apply KeepsO.ite | with_reducible apply keeps_ckptRx
                   | with_reducible apply keeps_follow | with_reducible apply keeps_stkCrcFail
                   | with_reducible apply keeps_stkDisorder | with_reducible apply keeps_setSlink
                   | with_reducible apply keeps_stkTaken | with_reducible apply keeps_stkForward
                   | with_reducible apply keeps_stkMsgRx | with_reducible apply keeps_stkStore | split
                   | with_reducible refine Keeps.lit (FlashKeeps.refl _) ?_ ?_ ?_ ?_ | exact id)

end Sys2Proof.Machine
end

