-- ==== Sys2Proof/Laws/KeepsCmdSys.lean ====
section
/-! SUPPORT. Every definition of Machine/CmdSys.lean that answers a state keeps what Keeps names: the waiting commands,
the boot flash and the canonical form of the stores. -/

set_option linter.all false

namespace Sys2Proof.Machine

theorem keeps_fwWrite {s0 s : State} {key : ℕ} {v : Word} (hk : Keeps s0 s) :
    Keeps s0 (fwWrite s key v) := by
  unfold fwWrite
  repeat' (first | assumption | apply keeps_regPut)

theorem keeps_fwWrites {s0 s : State} {x1 : List (ℕ × Word)} (hk : Keeps s0 s) :
    Keeps s0 (fwWrites s x1) := by
  induction x1 generalizing s with
  | nil =>
    unfold fwWrites
    try dsimp -zeta only
    repeat' (first
      | with_reducible assumption)
  | cons a l ih =>
    unfold fwWrites
    try dsimp -zeta only
    repeat' (first
      | with_reducible apply ih | with_reducible assumption | with_reducible apply Keeps.ite
      | with_reducible apply keeps_fwWrite)

theorem keeps_execSysInfo {s0 : State} {ch tag : ℕ} {s : State} (hk : Keeps s0 s) :
    KeepsO s0 (execSysInfo ch tag s) := by
  unfold execSysInfo
  try dsimp -zeta only
  repeat' (first
    | with_reducible assumption | with_reducible apply Keeps.next | with_reducible apply KeepsO.fault
    | with_reducible apply Keeps.ite | with_reducible apply KeepsO.ite | with_reducible apply keeps_runCmd
    | (refine (keeps_runCmd ?_).next _ ‹_ = Host.Outcome.next _›) | split
    | with_reducible refine Keeps.lit (FlashKeeps.refl _) ?_ ?_ ?_ ?_ | with_reducible exact id
    | with_reducible exact memWf_write _ _ _ | with_reducible exact sWf_drop _ _ _ | (intro _ hw; exact hw)
    | (intro _ hw; exact memWf_write _ _ _ hw) | exact fun _ => rfl | (intro _ _; rfl) | (intro _ _ hx))

theorem keeps_setOwn {s0 s : State} {host : Bool} {b : ℕ} (hk : Keeps s0 s) :
    Keeps s0 (setOwn s host b) := by
  unfold setOwn
  repeat' (first | assumption | apply Keeps.ite | apply keeps_setFld)

theorem keeps_sysClaimBody {s0 s : State} {p : List Byte} (hk : Keeps s0 s) :
    Keeps s0 (sysClaimBody s p).2.2 := by
  unfold sysClaimBody
  dsimp only
  repeat' (first | with_reducible assumption | with_reducible apply Keeps.ite | with_reducible apply Keeps.ite3
                   | with_reducible apply keeps_refuse | with_reducible apply keeps_setOwn
                   | with_reducible apply Keeps.foldl | (intro _ _ _))

theorem keeps_execSysClaim {s0 : State} {ch tag : ℕ} {s : State} (hk : Keeps s0 s) :
    KeepsO s0 (execSysClaim ch tag s) := by
  unfold execSysClaim
  repeat' (first | assumption | apply Keeps.next | apply keeps_runCmd | apply keeps_sysClaimBody)

theorem keeps_recordBlock {s0 s : State} {b : ℕ} (hk : Keeps s0 s) :
    Keeps s0 (recordBlock s b) := by
  unfold recordBlock
  dsimp only
  repeat' (first | assumption | apply Keeps.ite | apply Keeps.foldl | (intro _ _ _)
                   | refine Keeps.lit (FlashKeeps.refl _) ?_ ?_ ?_ ?_ | exact id)

theorem keeps_sysReleaseBody {s0 s : State} {p : List Byte} (hk : Keeps s0 s) :
    Keeps s0 (sysReleaseBody s p).2.2 := by
  unfold sysReleaseBody
  dsimp only
  repeat' (first | with_reducible assumption | with_reducible apply Keeps.ite | with_reducible apply Keeps.ite3
                   | with_reducible apply keeps_refuse | with_reducible apply keeps_setOwn
                   | with_reducible apply keeps_recordBlock | with_reducible apply Keeps.foldl | (intro _ _ _))

theorem keeps_execSysRelease {s0 : State} {ch tag : ℕ} {s : State} (hk : Keeps s0 s) :
    KeepsO s0 (execSysRelease ch tag s) := by
  unfold execSysRelease
  repeat' (first | assumption | apply Keeps.next | apply keeps_runCmd | apply keeps_sysReleaseBody)

theorem keeps_sysResetBody {s0 s : State} {p : List Byte} (hk : Keeps s0 s) :
    Keeps s0 (sysResetBody s p).2.2 := by
  unfold sysResetBody
  repeat' (first | with_reducible assumption | with_reducible apply Keeps.ite | with_reducible apply Keeps.ite3
                   | with_reducible apply keeps_refuse | with_reducible apply keeps_setPwr
                   | with_reducible apply keeps_mcuRestart)

theorem keeps_execSysReset {s0 : State} {ch tag : ℕ} {s : State} (hk : Keeps s0 s) :
    KeepsO s0 (execSysReset ch tag s) := by
  unfold execSysReset
  repeat' (first | assumption | apply Keeps.next | apply keeps_runCmd | apply keeps_sysResetBody)

theorem keeps_sysImageBeginBody {s0 s : State} {p : List Byte} (hk : Keeps s0 s) :
    Keeps s0 (sysImageBeginBody s p).2.2 := by
  unfold sysImageBeginBody
  repeat' (first | with_reducible assumption | with_reducible apply Keeps.ite | with_reducible apply Keeps.ite3
                   | with_reducible apply keeps_refuse | with_reducible refine Keeps.lit (FlashKeeps.refl _) ?_ ?_ ?_ ?_
                   | exact id)

theorem keeps_execSysImageBegin {s0 : State} {ch tag : ℕ} {s : State} (hk : Keeps s0 s) :
    KeepsO s0 (execSysImageBegin ch tag s) := by
  unfold execSysImageBegin
  repeat' (first | assumption | apply Keeps.next | apply keeps_runAccepted | apply keeps_sysImageBeginBody)

theorem keeps_sysImageWriteBody {s0 s : State} {p : List Byte} (hk : Keeps s0 s) :
    Keeps s0 (sysImageWriteBody s p).2.2 := by
  unfold sysImageWriteBody
  try dsimp -zeta only
  repeat' (first
    | (extract_lets +onlyGivenNames x; first
      | (have hx := List.length x; clear hx; clear_value x)
      | skip)
    | with_reducible assumption | with_reducible apply Keeps.some | with_reducible apply KeepsP.none
    | with_reducible apply Keeps.ite | with_reducible apply Keeps.ite3 | with_reducible apply keeps_refuse | split
    | with_reducible refine Keeps.lit (FlashKeeps.refl _) ?_ ?_ ?_ ?_ | with_reducible refine Keeps.lit ?_ ?_ ?_ ?_ ?_
    | exact FlashKeeps.image | exact FlashKeeps.forme | (exact FlashKeeps.upd id) | with_reducible exact id)

theorem keeps_execSysImageWrite {s0 : State} {ch tag : ℕ} {s : State} (hk : Keeps s0 s) :
    KeepsO s0 (execSysImageWrite ch tag s) := by
  unfold execSysImageWrite
  repeat' (first | assumption | apply Keeps.next | apply keeps_runCmd | apply keeps_sysImageWriteBody)

theorem keeps_sysImageEndBody {s0 s : State} {x1 : List Byte} (hk : Keeps s0 s) :
    Keeps s0 (sysImageEndBody s x1).2.2 := by
  unfold sysImageEndBody
  repeat' (first | assumption | apply Keeps.ite | apply Keeps.ite3)

theorem keeps_execSysImageEnd {s0 : State} {ch tag : ℕ} {s : State} (hk : Keeps s0 s) :
    KeepsO s0 (execSysImageEnd ch tag s) := by
  unfold execSysImageEnd
  repeat' (first | assumption | apply Keeps.next | apply keeps_runAccepted | apply keeps_sysImageEndBody)

theorem keeps_sysCommitBody {s0 s : State} {x1 : List Byte} (hk : Keeps s0 s) :
    Keeps s0 (sysCommitBody s x1).2.2 := by
  unfold sysCommitBody
  repeat' (first | assumption | apply Keeps.ite | apply Keeps.ite3)

theorem keeps_execSysCommit {s0 : State} {ch tag : ℕ} {s : State} (hk : Keeps s0 s) :
    KeepsO s0 (execSysCommit ch tag s) := by
  unfold execSysCommit
  repeat' (first | assumption | apply Keeps.next | apply keeps_runAccepted | apply keeps_sysCommitBody)

theorem keeps_sysRecoverBody {s0 s : State} {p : List Byte} (hk : Keeps s0 s) :
    Keeps s0 (sysRecoverBody s p).2.2 := by
  unfold sysRecoverBody
  repeat' (first | with_reducible assumption | with_reducible apply Keeps.ite | with_reducible apply Keeps.ite3
                   | with_reducible apply keeps_refuse | with_reducible apply keeps_enterRecovery)

theorem keeps_execSysRecover {s0 : State} {ch tag : ℕ} {s : State} (hk : Keeps s0 s) :
    KeepsO s0 (execSysRecover ch tag s) := by
  unfold execSysRecover
  repeat' (first | assumption | apply Keeps.next | apply keeps_runCmd | apply keeps_sysRecoverBody)

theorem keeps_pwrEnterBody {s0 : State} {ch : ℕ} {s : State} {p : List Byte} (hk : Keeps s0 s) :
    Keeps s0 (pwrEnterBody ch s p).2.2 := by
  unfold pwrEnterBody
  dsimp only
  repeat' (first | with_reducible assumption | with_reducible apply Keeps.ite | with_reducible apply Keeps.ite3
                   | with_reducible apply keeps_refuse | with_reducible apply keeps_beginEntry
                   | with_reducible apply keeps_setPwr)

theorem keeps_execPwrEnter {s0 : State} {ch tag : ℕ} {s : State} (hk : Keeps s0 s) :
    KeepsO s0 (execPwrEnter ch tag s) := by
  unfold execPwrEnter
  repeat' (first | assumption | apply Keeps.next | apply keeps_runCmd | apply keeps_pwrEnterBody)

theorem keeps_execPwrStatus {s0 : State} {ch tag : ℕ} {s : State} (hk : Keeps s0 s) :
    KeepsO s0 (execPwrStatus ch tag s) := by
  unfold execPwrStatus
  try dsimp -zeta only
  repeat' (first
    | with_reducible assumption | with_reducible apply Keeps.next | with_reducible apply KeepsO.fault
    | with_reducible apply Keeps.ite | with_reducible apply KeepsO.ite | with_reducible apply keeps_runCmd
    | (refine (keeps_runCmd ?_).next _ ‹_ = Host.Outcome.next _›) | split
    | with_reducible refine Keeps.lit (FlashKeeps.refl _) ?_ ?_ ?_ ?_ | with_reducible exact id
    | with_reducible exact memWf_write _ _ _ | with_reducible exact sWf_drop _ _ _ | (intro _ hw; exact hw)
    | (intro _ hw; exact memWf_write _ _ _ hw) | exact fun _ => rfl | (intro _ _; rfl) | (intro _ _ hx))

theorem keeps_execPwrConfig {s0 : State} {ch tag : ℕ} {s : State} (hk : Keeps s0 s) :
    KeepsO s0 (execPwrConfig ch tag s) := by
  unfold execPwrConfig
  try dsimp -zeta only
  repeat' (first
    | with_reducible assumption | with_reducible apply Keeps.next | with_reducible apply KeepsO.fault
    | with_reducible apply Keeps.ite | with_reducible apply KeepsO.ite | with_reducible apply keeps_runCmd
    | with_reducible apply keeps_fwWrites | with_reducible apply keeps_refuse
    | (refine (keeps_runCmd ?_).next _ ‹_ = Host.Outcome.next _›) | split
    | with_reducible refine Keeps.lit (FlashKeeps.refl _) ?_ ?_ ?_ ?_ | with_reducible exact id
    | with_reducible exact memWf_write _ _ _ | with_reducible exact sWf_drop _ _ _ | (intro _ hw; exact hw)
    | (intro _ hw; exact memWf_write _ _ _ hw) | exact fun _ => rfl | (intro _ _; rfl) | (intro _ _ hx))

theorem keeps_execFrmInfo {s0 : State} {ch tag : ℕ} {s : State} (hk : Keeps s0 s) :
    KeepsO s0 (execFrmInfo ch tag s) := by
  unfold execFrmInfo
  try dsimp -zeta only
  repeat' (first
    | with_reducible assumption | with_reducible apply Keeps.next | with_reducible apply KeepsO.fault
    | with_reducible apply Keeps.ite | with_reducible apply KeepsO.ite | with_reducible apply keeps_runCmd
    | (refine (keeps_runCmd ?_).next _ ‹_ = Host.Outcome.next _›) | split
    | with_reducible refine Keeps.lit (FlashKeeps.refl _) ?_ ?_ ?_ ?_ | with_reducible exact id
    | with_reducible exact memWf_write _ _ _ | with_reducible exact sWf_drop _ _ _ | (intro _ hw; exact hw)
    | (intro _ hw; exact memWf_write _ _ _ hw) | exact fun _ => rfl | (intro _ _; rfl) | (intro _ _ hx))

theorem keeps_frmReadBody {s0 s : State} {p : List Byte} (hk : Keeps s0 s) :
    Keeps s0 (frmReadBody s p).2.2 := by
  unfold frmReadBody
  dsimp only
  repeat' (first | assumption | apply Keeps.ite | apply Keeps.ite3)

theorem keeps_execFrmRead {s0 : State} {ch tag : ℕ} {s : State} (hk : Keeps s0 s) :
    KeepsO s0 (execFrmRead ch tag s) := by
  unfold execFrmRead
  repeat' (first | assumption | apply Keeps.next | apply keeps_runCmd | apply keeps_frmReadBody)

theorem keeps_stageLoadBody {s0 s : State} {p : List Byte} (hk : Keeps s0 s) :
    Keeps s0 (stageLoadBody s p).2.2 := by
  unfold stageLoadBody
  repeat' (first | assumption | apply Keeps.ite | apply Keeps.ite3)

theorem keeps_execFrmStageLoad {s0 : State} {ch tag : ℕ} {s : State} (hk : Keeps s0 s) :
    KeepsO s0 (execFrmStageLoad ch tag s) := by
  unfold execFrmStageLoad
  repeat' (first | assumption | apply Keeps.next | apply keeps_runAccepted | apply keeps_stageLoadBody)

theorem keeps_stageWriteBody {s0 s : State} {p : List Byte} (hk : Keeps s0 s) :
    Keeps s0 (stageWriteBody s p).2.2 := by
  unfold stageWriteBody
  dsimp only
  repeat' (first | with_reducible assumption | with_reducible apply Keeps.ite | with_reducible apply Keeps.ite3
                   | with_reducible apply keeps_refuse | with_reducible refine Keeps.lit (FlashKeeps.refl _) ?_ ?_ ?_ ?_
                   | exact id)

theorem keeps_execFrmStageWrite {s0 : State} {ch tag : ℕ} {s : State} (hk : Keeps s0 s) :
    KeepsO s0 (execFrmStageWrite ch tag s) := by
  unfold execFrmStageWrite
  repeat' (first | assumption | apply Keeps.next | apply keeps_runCmd | apply keeps_stageWriteBody)

theorem keeps_execFrmStore {s0 : State} {ch tag : ℕ} {s : State} (hk : Keeps s0 s) :
    KeepsO s0 (execFrmStore ch tag s) := by
  unfold execFrmStore
  try dsimp -zeta only
  repeat' (first
    | with_reducible assumption | with_reducible apply Keeps.next | with_reducible apply KeepsO.fault
    | with_reducible apply Keeps.ite | with_reducible apply KeepsO.ite | with_reducible apply keeps_runAccepted
    | with_reducible apply keeps_refuse | (refine (keeps_runAccepted ?_).next _ ‹_ = Host.Outcome.next _›) | split
    | with_reducible refine Keeps.lit (FlashKeeps.refl _) ?_ ?_ ?_ ?_ | with_reducible exact id
    | with_reducible exact memWf_write _ _ _ | with_reducible exact sWf_drop _ _ _ | (intro _ hw; exact hw)
    | (intro _ hw; exact memWf_write _ _ _ hw) | exact fun _ => rfl | (intro _ _; rfl) | (intro _ _ hx))

theorem keeps_execFrmSetBoot {s0 : State} {ch tag : ℕ} {s : State} (hk : Keeps s0 s) :
    KeepsO s0 (execFrmSetBoot ch tag s) := by
  unfold execFrmSetBoot
  try dsimp -zeta only
  repeat' (first
    | with_reducible assumption | with_reducible apply Keeps.next | with_reducible apply KeepsO.fault
    | with_reducible apply Keeps.ite | with_reducible apply KeepsO.ite | with_reducible apply keeps_runAccepted
    | with_reducible apply keeps_refuse | (refine (keeps_runAccepted ?_).next _ ‹_ = Host.Outcome.next _›) | split
    | with_reducible refine Keeps.lit (FlashKeeps.refl _) ?_ ?_ ?_ ?_ | with_reducible exact id
    | with_reducible exact memWf_write _ _ _ | with_reducible exact sWf_drop _ _ _ | (intro _ hw; exact hw)
    | (intro _ hw; exact memWf_write _ _ _ hw) | exact fun _ => rfl | (intro _ _; rfl) | (intro _ _ hx))

end Sys2Proof.Machine
end

