-- ==== Sys2Proof/Laws/KeepsCmdClk.lean ====
section
/-! SUPPORT. Every definition of Machine/CmdClk.lean that answers a state keeps what Keeps names: the waiting commands,
the boot flash and the canonical form of the stores. -/

set_option linter.all false

namespace Sys2Proof.Machine

theorem keeps_mcsSetBody {s0 s : State} {p : List Byte} (hk : Keeps s0 s) :
    Keeps s0 (mcsSetBody s p).2.2 := by
  unfold mcsSetBody
  dsimp only
  repeat' (first | with_reducible assumption | with_reducible apply Keeps.ite | with_reducible apply Keeps.ite3
                   | with_reducible apply keeps_refuse | with_reducible apply keeps_strobe
                   | with_reducible apply keeps_fwWrites)

theorem keeps_execClkMcsSet {s0 : State} {ch tag : ℕ} {s : State} (hk : Keeps s0 s) :
    KeepsO s0 (execClkMcsSet ch tag s) := by
  unfold execClkMcsSet
  repeat' (first | assumption | apply Keeps.next | apply keeps_runCmd | apply keeps_mcsSetBody)

theorem keeps_outSetBody {s0 s : State} {p : List Byte} (hk : Keeps s0 s) :
    Keeps s0 (outSetBody s p).2.2 := by
  unfold outSetBody
  dsimp only
  repeat' (first | with_reducible assumption | with_reducible apply Keeps.ite | with_reducible apply Keeps.ite3
                   | with_reducible apply keeps_strobe | with_reducible apply keeps_fwWrites
                   | with_reducible apply keeps_refuse)

theorem keeps_execClkOutSet {s0 : State} {ch tag : ℕ} {s : State} (hk : Keeps s0 s) :
    KeepsO s0 (execClkOutSet ch tag s) := by
  unfold execClkOutSet
  repeat' (first | assumption | apply Keeps.next | apply keeps_runCmd | apply keeps_outSetBody)

theorem keeps_execClkMcsStatus {s0 : State} {ch tag : ℕ} {s : State} (hk : Keeps s0 s) :
    KeepsO s0 (execClkMcsStatus ch tag s) := by
  unfold execClkMcsStatus
  try dsimp -zeta only
  repeat' (first
    | (extract_lets +onlyGivenNames x; first
      | (have hx : Keeps s0 x := by
          repeat' (first
            | (extract_lets +onlyGivenNames y) | with_reducible assumption | with_reducible apply Keeps.next
            | with_reducible apply KeepsO.fault | with_reducible apply Keeps.ite | with_reducible apply KeepsO.ite
            | with_reducible apply keeps_runCmd | with_reducible apply keeps_refuse
            | (refine (keeps_runCmd ?_).next _ ‹_ = Host.Outcome.next _›) | split
            | with_reducible refine Keeps.lit (FlashKeeps.refl _) ?_ ?_ ?_ ?_ | with_reducible exact id
            | with_reducible exact memWf_write _ _ _ | with_reducible exact sWf_drop _ _ _ | (intro _ hw; exact hw)
            | (intro _ hw; exact memWf_write _ _ _ hw) | exact fun _ => rfl | (intro _ _; rfl) | (intro _ _ hx)
            | (intro _ hx))
         clear_value x)
      | (have hx := List.length x; clear hx; clear_value x)
      | skip)
    | with_reducible assumption | with_reducible apply Keeps.next | with_reducible apply KeepsO.fault
    | with_reducible apply Keeps.ite | with_reducible apply KeepsO.ite | with_reducible apply keeps_runCmd
    | with_reducible apply keeps_refuse | (refine (keeps_runCmd ?_).next _ ‹_ = Host.Outcome.next _›) | split
    | with_reducible refine Keeps.lit (FlashKeeps.refl _) ?_ ?_ ?_ ?_ | with_reducible exact id
    | with_reducible exact memWf_write _ _ _ | with_reducible exact sWf_drop _ _ _ | (intro _ hw; exact hw)
    | (intro _ hw; exact memWf_write _ _ _ hw) | exact fun _ => rfl | (intro _ _; rfl) | (intro _ _ hx))

theorem keeps_ptpSetBody {s0 s : State} {p : List Byte} (hk : Keeps s0 s) :
    Keeps s0 (ptpSetBody s p).2.2 := by
  unfold ptpSetBody
  dsimp only
  repeat' (first | with_reducible assumption | with_reducible apply Keeps.ite | with_reducible apply Keeps.ite3
                   | with_reducible apply keeps_refuse | with_reducible apply keeps_setPti
                   | with_reducible apply keeps_strobe | with_reducible apply keeps_fwWrites)

theorem keeps_execPtpSet {s0 : State} {ch tag : ℕ} {s : State} (hk : Keeps s0 s) :
    KeepsO s0 (execPtpSet ch tag s) := by
  unfold execPtpSet
  repeat' (first | assumption | apply Keeps.next | apply keeps_runCmd | apply keeps_ptpSetBody)

theorem keeps_execPtpStatus {s0 : State} {ch tag : ℕ} {s : State} (hk : Keeps s0 s) :
    KeepsO s0 (execPtpStatus ch tag s) := by
  unfold execPtpStatus
  try dsimp -zeta only
  repeat' (first
    | (extract_lets +onlyGivenNames x; first
      | (have hx : Keeps s0 x := by
          repeat' (first
            | (extract_lets +onlyGivenNames y) | with_reducible assumption | with_reducible apply Keeps.next
            | with_reducible apply KeepsO.fault | with_reducible apply Keeps.ite | with_reducible apply KeepsO.ite
            | with_reducible apply keeps_runCmd | with_reducible apply keeps_refuse
            | (refine (keeps_runCmd ?_).next _ ‹_ = Host.Outcome.next _›) | split
            | with_reducible refine Keeps.lit (FlashKeeps.refl _) ?_ ?_ ?_ ?_ | with_reducible exact id
            | with_reducible exact memWf_write _ _ _ | with_reducible exact sWf_drop _ _ _ | (intro _ hw; exact hw)
            | (intro _ hw; exact memWf_write _ _ _ hw) | exact fun _ => rfl | (intro _ _; rfl) | (intro _ _ hx)
            | (intro _ hx))
         clear_value x)
      | (have hx := List.length x; clear hx; clear_value x)
      | skip)
    | with_reducible assumption | with_reducible apply Keeps.next | with_reducible apply KeepsO.fault
    | with_reducible apply Keeps.ite | with_reducible apply KeepsO.ite | with_reducible apply keeps_runCmd
    | with_reducible apply keeps_refuse | (refine (keeps_runCmd ?_).next _ ‹_ = Host.Outcome.next _›) | split
    | with_reducible refine Keeps.lit (FlashKeeps.refl _) ?_ ?_ ?_ ?_ | with_reducible exact id
    | with_reducible exact memWf_write _ _ _ | with_reducible exact sWf_drop _ _ _ | (intro _ hw; exact hw)
    | (intro _ hw; exact memWf_write _ _ _ hw) | exact fun _ => rfl | (intro _ _; rfl) | (intro _ _ hx))

theorem keeps_execPtpGmQuality {s0 : State} {ch tag : ℕ} {s : State} (hk : Keeps s0 s) :
    KeepsO s0 (execPtpGmQuality ch tag s) := by
  unfold execPtpGmQuality
  try dsimp -zeta only
  repeat' (first
    | (extract_lets +onlyGivenNames x; first
      | (have hx : Keeps s0 x := by
          repeat' (first
            | (extract_lets +onlyGivenNames y) | with_reducible assumption | with_reducible apply Keeps.next
            | with_reducible apply KeepsO.fault | with_reducible apply Keeps.ite | with_reducible apply KeepsO.ite
            | with_reducible apply keeps_runCmd | with_reducible apply keeps_refuse
            | with_reducible apply keeps_setPti | (refine (keeps_runCmd ?_).next _ ‹_ = Host.Outcome.next _›) | split
            | with_reducible refine Keeps.lit (FlashKeeps.refl _) ?_ ?_ ?_ ?_ | with_reducible exact id
            | with_reducible exact memWf_write _ _ _ | with_reducible exact sWf_drop _ _ _ | (intro _ hw; exact hw)
            | (intro _ hw; exact memWf_write _ _ _ hw) | exact fun _ => rfl | (intro _ _; rfl) | (intro _ _ hx)
            | (intro _ hx))
         clear_value x)
      | (have hx := List.length x; clear hx; clear_value x)
      | skip)
    | with_reducible assumption | with_reducible apply Keeps.next | with_reducible apply KeepsO.fault
    | with_reducible apply Keeps.ite | with_reducible apply KeepsO.ite | with_reducible apply keeps_runCmd
    | with_reducible apply keeps_refuse | with_reducible apply keeps_setPti
    | (refine (keeps_runCmd ?_).next _ ‹_ = Host.Outcome.next _›) | split
    | with_reducible refine Keeps.lit (FlashKeeps.refl _) ?_ ?_ ?_ ?_ | with_reducible exact id
    | with_reducible exact memWf_write _ _ _ | with_reducible exact sWf_drop _ _ _ | (intro _ hw; exact hw)
    | (intro _ hw; exact memWf_write _ _ _ hw) | exact fun _ => rfl | (intro _ _; rfl) | (intro _ _ hx))

theorem keeps_adjStep {s0 s : State} {n : ℕ} {delta : ℤ} (hk : Keeps s0 s) :
    Keeps s0 (adjStep s n delta) := by
  unfold adjStep
  repeat' (first | with_reducible assumption | with_reducible apply Keeps.ite | with_reducible apply keeps_strobe
                   | with_reducible apply keeps_fwWrite | with_reducible apply keeps_follow
                   | with_reducible apply keeps_ptiStep)

theorem keeps_ptpStepBody {s0 s : State} {p : List Byte} (hk : Keeps s0 s) :
    Keeps s0 (ptpStepBody s p).2.2 := by
  unfold ptpStepBody
  dsimp only
  repeat' (first | with_reducible assumption | with_reducible apply Keeps.ite | with_reducible apply Keeps.ite3
                   | with_reducible apply keeps_refuse | with_reducible apply keeps_adjStep)

theorem keeps_execPtpStep {s0 : State} {ch tag : ℕ} {s : State} (hk : Keeps s0 s) :
    KeepsO s0 (execPtpStep ch tag s) := by
  unfold execPtpStep
  repeat' (first | assumption | apply Keeps.next | apply keeps_runCmd | apply keeps_ptpStepBody)

theorem keeps_asymAdoptBody {s0 s : State} {p : List Byte} (hk : Keeps s0 s) :
    Keeps s0 (asymAdoptBody s p).2.2 := by
  unfold asymAdoptBody
  dsimp only
  repeat' (first | with_reducible assumption | with_reducible apply Keeps.ite | with_reducible apply Keeps.ite3
                   | with_reducible apply keeps_refuse | with_reducible apply keeps_strobe
                   | with_reducible apply keeps_fwWrite | with_reducible apply keeps_setFld)

theorem keeps_execPtpAsymAdopt {s0 : State} {ch tag : ℕ} {s : State} (hk : Keeps s0 s) :
    KeepsO s0 (execPtpAsymAdopt ch tag s) := by
  unfold execPtpAsymAdopt
  repeat' (first | assumption | apply Keeps.next | apply keeps_runCmd | apply keeps_asymAdoptBody)

theorem keeps_tdmSetBody {s0 s : State} {p : List Byte} (hk : Keeps s0 s) : Keeps s0 (tdmSetBody s p).2.2 := by
  unfold tdmSetBody
  extract_lets k rx
  refine Keeps.ite3 (keeps_refuse hk) ?_
  split
  · exact keeps_refuse hk
  · exact Keeps.ite3 (keeps_refuse hk) (keeps_applyGroup (keeps_strobe (keeps_fwWrites hk)))

theorem keeps_execTdmSet {s0 : State} {ch tag : ℕ} {s : State} (hk : Keeps s0 s) :
    KeepsO s0 (execTdmSet ch tag s) := by
  unfold execTdmSet
  repeat' (first | assumption | apply Keeps.next | apply keeps_runCmd | apply keeps_tdmSetBody)

theorem keeps_firePlaten {s0 s : State} {k pti raw acts : ℕ} (hk : Keeps s0 s) :
    Keeps s0 (firePlaten s k pti raw acts) := by
  unfold firePlaten
  dsimp only
  repeat' (first | with_reducible assumption | with_reducible apply keeps_setPlFire
                   | with_reducible apply keeps_setFlds | with_reducible apply keeps_plCfgWrite)

theorem keeps_tdmStartBody {s0 s : State} {p : List Byte} (hk : Keeps s0 s) :
    Keeps s0 (tdmStartBody s p).2.2 := by
  unfold tdmStartBody
  dsimp only
  repeat' (first | with_reducible assumption | with_reducible apply Keeps.ite | with_reducible apply Keeps.ite3
                   | with_reducible apply keeps_refuse | with_reducible apply keeps_cmdWrite
                   | with_reducible apply keeps_firePlaten | with_reducible apply Keeps.foldl | (intro _ _ _) | split)

theorem keeps_execTdmStart {s0 : State} {ch tag : ℕ} {s : State} (hk : Keeps s0 s) :
    KeepsO s0 (execTdmStart ch tag s) := by
  unfold execTdmStart
  repeat' (first | assumption | apply Keeps.next | apply keeps_runCmd | apply keeps_tdmStartBody)

theorem keeps_execTdmStop {s0 : State} {ch tag : ℕ} {s : State} (hk : Keeps s0 s) :
    KeepsO s0 (execTdmStop ch tag s) := by
  unfold execTdmStop
  repeat' (first | assumption | apply Keeps.next | apply keeps_runAccepted | apply keeps_cmdWrite | apply Keeps.foldl
                   | (intro _ _ _))

theorem keeps_execTdmStatus {s0 : State} {ch tag : ℕ} {s : State} (hk : Keeps s0 s) :
    KeepsO s0 (execTdmStatus ch tag s) := by
  unfold execTdmStatus
  try dsimp -zeta only
  repeat' (first
    | (extract_lets +onlyGivenNames x; first
      | (have hx : Keeps s0 x := by
          repeat' (first
            | (extract_lets +onlyGivenNames y) | with_reducible assumption | with_reducible apply Keeps.next
            | with_reducible apply KeepsO.fault | with_reducible apply Keeps.ite | with_reducible apply KeepsO.ite
            | with_reducible apply keeps_runCmd | with_reducible apply keeps_refuse
            | (refine (keeps_runCmd ?_).next _ ‹_ = Host.Outcome.next _›) | split
            | with_reducible refine Keeps.lit (FlashKeeps.refl _) ?_ ?_ ?_ ?_ | with_reducible exact id
            | with_reducible exact memWf_write _ _ _ | with_reducible exact sWf_drop _ _ _ | (intro _ hw; exact hw)
            | (intro _ hw; exact memWf_write _ _ _ hw) | exact fun _ => rfl | (intro _ _; rfl) | (intro _ _ hx)
            | (intro _ hx))
         clear_value x)
      | (have hx := List.length x; clear hx; clear_value x)
      | skip)
    | with_reducible assumption | with_reducible apply Keeps.next | with_reducible apply KeepsO.fault
    | with_reducible apply Keeps.ite | with_reducible apply KeepsO.ite | with_reducible apply keeps_runCmd
    | with_reducible apply keeps_refuse | (refine (keeps_runCmd ?_).next _ ‹_ = Host.Outcome.next _›) | split
    | with_reducible refine Keeps.lit (FlashKeeps.refl _) ?_ ?_ ?_ ?_ | with_reducible exact id
    | with_reducible exact memWf_write _ _ _ | with_reducible exact sWf_drop _ _ _ | (intro _ hw; exact hw)
    | (intro _ hw; exact memWf_write _ _ _ hw) | exact fun _ => rfl | (intro _ _; rfl) | (intro _ _ hx))

theorem keeps_rtSetBody {s0 : State} {ch tag : ℕ} {s : State} {p : List Byte} (hk : Keeps s0 s) :
    Keeps s0 (rtSetBody ch tag s p).2.2 := by
  unfold rtSetBody
  dsimp only
  repeat' (first | with_reducible assumption | with_reducible apply Keeps.ite | with_reducible apply Keeps.ite3
                   | with_reducible apply keeps_refuse | with_reducible apply keeps_impWrite
                   | with_reducible apply keeps_strobe | with_reducible apply keeps_firePlaten
                   | with_reducible apply keeps_setFld | with_reducible apply keeps_setPl
                   | with_reducible apply Keeps.foldl | (intro _ _ _) | split
                   | with_reducible refine Keeps.lit (FlashKeeps.refl _) ?_ ?_ ?_ ?_ | exact id)

theorem keeps_execRtSet {s0 : State} {ch tag : ℕ} {s : State} (hk : Keeps s0 s) :
    KeepsO s0 (execRtSet ch tag s) := by
  unfold execRtSet
  repeat' (first | assumption | apply Keeps.next | apply Keeps.ite | apply KeepsO.ite | apply keeps_runCmd
                   | apply keeps_rtSetBody | apply keeps_runAccepted | split)

theorem keeps_execRtGet {s0 : State} {ch tag : ℕ} {s : State} (hk : Keeps s0 s) :
    KeepsO s0 (execRtGet ch tag s) := by
  unfold execRtGet
  try dsimp -zeta only
  repeat' (first
    | with_reducible assumption | with_reducible apply Keeps.next | with_reducible apply KeepsO.fault
    | with_reducible apply Keeps.ite | with_reducible apply KeepsO.ite | with_reducible apply keeps_runCmd
    | with_reducible apply keeps_refuse | (refine (keeps_runCmd ?_).next _ ‹_ = Host.Outcome.next _›) | split
    | with_reducible refine Keeps.lit (FlashKeeps.refl _) ?_ ?_ ?_ ?_ | with_reducible exact id
    | with_reducible exact memWf_write _ _ _ | with_reducible exact sWf_drop _ _ _ | (intro _ hw; exact hw)
    | (intro _ hw; exact memWf_write _ _ _ hw) | exact fun _ => rfl | (intro _ _; rfl) | (intro _ _ hx))

theorem keeps_krnSetBody {s0 s : State} {p : List Byte} (hk : Keeps s0 s) :
    Keeps s0 (krnSetBody s p).2.2 := by
  unfold krnSetBody
  dsimp only
  repeat' (first | with_reducible assumption | with_reducible apply Keeps.ite | with_reducible apply Keeps.ite3
                   | with_reducible apply keeps_refuse | with_reducible apply keeps_applyGroup
                   | with_reducible apply keeps_strobe | with_reducible apply keeps_fwWrite)

theorem keeps_execKrnSet {s0 : State} {ch tag : ℕ} {s : State} (hk : Keeps s0 s) :
    KeepsO s0 (execKrnSet ch tag s) := by
  unfold execKrnSet
  repeat' (first | assumption | apply Keeps.next | apply keeps_runCmd | apply keeps_krnSetBody)

theorem keeps_execKrnStatus {s0 : State} {ch tag : ℕ} {s : State} (hk : Keeps s0 s) :
    KeepsO s0 (execKrnStatus ch tag s) := by
  unfold execKrnStatus
  try dsimp -zeta only
  repeat' (first
    | (extract_lets +onlyGivenNames x; first
      | (have hx : Keeps s0 x := by
          repeat' (first
            | (extract_lets +onlyGivenNames y) | with_reducible assumption | with_reducible apply Keeps.next
            | with_reducible apply KeepsO.fault | with_reducible apply Keeps.ite | with_reducible apply KeepsO.ite
            | with_reducible apply keeps_runCmd | (refine (keeps_runCmd ?_).next _ ‹_ = Host.Outcome.next _›) | split
            | with_reducible refine Keeps.lit (FlashKeeps.refl _) ?_ ?_ ?_ ?_ | with_reducible exact id
            | with_reducible exact memWf_write _ _ _ | with_reducible exact sWf_drop _ _ _ | (intro _ hw; exact hw)
            | (intro _ hw; exact memWf_write _ _ _ hw) | exact fun _ => rfl | (intro _ _; rfl) | (intro _ _ hx)
            | (intro _ hx))
         clear_value x)
      | (have hx := List.length x; clear hx; clear_value x)
      | skip)
    | with_reducible assumption | with_reducible apply Keeps.next | with_reducible apply KeepsO.fault
    | with_reducible apply Keeps.ite | with_reducible apply KeepsO.ite | with_reducible apply keeps_runCmd
    | (refine (keeps_runCmd ?_).next _ ‹_ = Host.Outcome.next _›) | split
    | with_reducible refine Keeps.lit (FlashKeeps.refl _) ?_ ?_ ?_ ?_ | with_reducible exact id
    | with_reducible exact memWf_write _ _ _ | with_reducible exact sWf_drop _ _ _ | (intro _ hw; exact hw)
    | (intro _ hw; exact memWf_write _ _ _ hw) | exact fun _ => rfl | (intro _ _; rfl) | (intro _ _ hx))

end Sys2Proof.Machine
end

