-- ==== Sys2Proof/Laws/KeepsCmdFlow.lean ====
section
/-! SUPPORT. Every definition of Machine/CmdFlow.lean that answers a state keeps what Keeps names: the waiting commands,
the boot flash and the canonical form of the stores. -/

set_option linter.all false

namespace Sys2Proof.Machine

theorem keeps_putKey {s0 s : State} {i : ℕ} {ws : List Word} (hk : Keeps s0 s) :
    Keeps s0 (putKey s i ws) := by
  unfold putKey
  repeat' (first | assumption | apply keeps_keyWrite | apply Keeps.foldl | (intro _ _ _))

theorem keeps_dropKey {s0 s : State} {i : ℕ} (hk : Keeps s0 s) :
    Keeps s0 (dropKey s i) := by
  unfold dropKey
  repeat' (first | assumption | apply keeps_keyWrite)

theorem keeps_freeKey {s0 s : State} {n i : Nat} (hk : Keeps s0 s) : KeepsP s0 (freeKey n s i) := by
  induction n generalizing s i with
  | zero => exact KeepsP.none
  | succ n ih =>
    unfold freeKey
    extract_lets ws alts
    split
    · exact (keeps_putKey (keeps_dropKey hk)).some
    · exact KeepsP.findSome fun j => KeepsP.bind (ih hk) fun x hx =>
        KeepsP.ite (keeps_putKey (keeps_dropKey hx)).some KeepsP.none

theorem keeps_placeKey {s0 s : State} {ws : List Word} (hk : Keeps s0 s) : KeepsP s0 (placeKey s ws) := by
  unfold placeKey
  extract_lets c
  split
  · exact (keeps_putKey hk).some
  · have hf : KeepsP s0 (c.findSome? fun i =>
        (freeKey cuckooMoves s i).bind fun t => if keyFree t i then some (putKey t i ws) else none) :=
      KeepsP.findSome fun i => KeepsP.bind (keeps_freeKey hk) fun x hx => KeepsP.ite (keeps_putKey hx).some KeepsP.none
    split
    · exact (hf.some _ ‹_›).some
    · cases ((List.range 64).map (· + 4096)).find? (keyFree s) with
      | none => exact KeepsP.none
      | some i => exact (keeps_putKey hk).some

theorem keeps_dropPathKeys {s0 s : State} {f port : ℕ} (hk : Keeps s0 s) :
    Keeps s0 (dropPathKeys s f port) := by
  unfold dropPathKeys
  repeat' (first | assumption | apply keeps_dropKey | apply Keeps.foldl | (intro _ _ _))

theorem keeps_reserve {s0 s : State} {q n : ℕ} (hk : Keeps s0 s) :
    KeepsP s0 (reserve s q n) := by
  unfold reserve
  dsimp only
  repeat' (first | with_reducible assumption | with_reducible apply Keeps.some | with_reducible apply KeepsP.none
                   | with_reducible apply Keeps.ite | with_reducible apply KeepsP.ite
                   | with_reducible apply keeps_qCapWrite | with_reducible apply keeps_qResWrite)

theorem keeps_reserveAll {s0 s : State} {x1 : List (ℕ × ℕ)} (hk : Keeps s0 s) :
    KeepsP s0 (reserveAll s x1) := by
  induction x1 generalizing s with
  | nil =>
    unfold reserveAll
    try dsimp -zeta only
    repeat' (first
      | with_reducible assumption | with_reducible apply Keeps.some)
  | cons a l ih =>
    unfold reserveAll
    try dsimp -zeta only
    repeat' (first
      | with_reducible apply ih | with_reducible assumption | with_reducible apply Keeps.some
      | with_reducible apply KeepsP.none | with_reducible apply Keeps.ite | with_reducible apply KeepsP.ite
      | with_reducible apply keeps_reserve | with_reducible apply KeepsP.bind)

theorem keeps_tryOut {s0 s : State} {l : List (ℕ × Word)} (hk : Keeps s0 s) :
    Keeps s0 (tryOut s l) := by
  unfold tryOut
  repeat' (first | assumption | apply keeps_wr | apply Keeps.foldl | (intro _ _ _))

theorem keeps_keepRx {s0 s : State} {f : ℕ} {p leg : List Byte} (hk : Keeps s0 s) :
    Keeps s0 (keepRx s f p leg) := by
  unfold keepRx
  repeat' (first | assumption | refine Keeps.lit (FlashKeeps.refl _) ?_ ?_ ?_ ?_ | exact id)

theorem keeps_rxCreate {s0 s : State} {p leg : List Byte} {off : Nat} (hk : Keeps s0 s) :
    Keeps s0 (rxCreate s p leg off).2.2 := by
  unfold rxCreate
  extract_lets f m mult n
  refine Keeps.ite3 (keeps_refuse hk) (Keeps.ite3 (keeps_refuse hk) (Keeps.ite3 (keeps_refuse hk) ?_))
  split
  · exact keeps_refuse hk
  extract_lets l cells
  have h1 : KeepsP s0 (reserveAll s ((frPaths p).map fun x => (rxQueue f x, cells))) := keeps_reserveAll hk
  clear_value l cells
  split
  · exact keeps_refuse hk
  have h2 := KeepsP.foldl (l := frPaths p) (g := fun t x => t.bind fun t =>
    placeKey t (keyWords f x (if x = 1 ∧ leg ≠ [] then leg else p)))
    (fun x a h => KeepsP.bind h fun y hy => keeps_placeKey hy) (h1.some _ ‹_›).some
  split
  · exact keeps_refuse hk
  extract_lets w
  have h3 : Keeps s0 w := keeps_applyGroup (keeps_strobe (keeps_fwWrite (keeps_fwWrites (h2.some _ ‹_›))))
  clear_value w
  exact Keeps.ite3 (keeps_refuse hk) (keeps_keepRx h3)

theorem keeps_execRxfCreate {s0 : State} {ch tag : ℕ} {s : State} (hk : Keeps s0 s) :
    KeepsO s0 (execRxfCreate ch tag s) := by
  unfold execRxfCreate
  try dsimp -zeta only
  repeat' (first
    | with_reducible assumption | with_reducible apply Keeps.next | with_reducible apply KeepsO.fault
    | with_reducible apply Keeps.ite | with_reducible apply KeepsO.ite | with_reducible apply keeps_runCmd
    | with_reducible apply keeps_rxCreate | (refine (keeps_runCmd ?_).next _ ‹_ = Host.Outcome.next _›) | split
    | with_reducible refine Keeps.lit (FlashKeeps.refl _) ?_ ?_ ?_ ?_ | with_reducible exact id
    | with_reducible exact memWf_write _ _ _ | with_reducible exact sWf_drop _ _ _ | (intro _ hw; exact hw)
    | (intro _ hw; exact memWf_write _ _ _ hw) | exact fun _ => rfl | (intro _ _; rfl) | (intro _ _ hx))

theorem keeps_rxDeleteBody {s0 s : State} {p : List Byte} (hk : Keeps s0 s) :
    Keeps s0 (rxDeleteBody s p).2.2 := by
  unfold rxDeleteBody
  dsimp only
  repeat' (first | with_reducible assumption | with_reducible apply Keeps.ite | with_reducible apply Keeps.ite3
                   | with_reducible apply keeps_refuse | with_reducible apply keeps_applyGroup
                   | with_reducible apply keeps_strobe | with_reducible apply keeps_fwWrite
                   | with_reducible apply keeps_dropPathKeys | with_reducible apply keeps_qResWrite
                   | with_reducible apply keeps_keepRx | with_reducible apply Keeps.foldl | (intro _ _ _))

theorem keeps_execRxfDelete {s0 : State} {ch tag : ℕ} {s : State} (hk : Keeps s0 s) :
    KeepsO s0 (execRxfDelete ch tag s) := by
  unfold execRxfDelete
  repeat' (first | assumption | apply Keeps.next | apply keeps_runCmd | apply keeps_rxDeleteBody)

theorem keeps_fadeBack {s0 s : State} {k d : ℕ} (hk : Keeps s0 s) :
    Keeps s0 (fadeBack s k d) := by
  unfold fadeBack
  dsimp only
  repeat' (first | assumption | apply keeps_impTake | apply keeps_setImp)

theorem keeps_offsetStep {s0 s : State} {f v : ℕ} (hk : Keeps s0 s) :
    Keeps s0 (offsetStep s f v) := by
  unfold offsetStep
  dsimp only
  repeat' (first | with_reducible assumption | with_reducible apply keeps_fwWrite
                   | with_reducible apply keeps_applyGroup | with_reducible apply keeps_strobe
                   | with_reducible apply keeps_pendRefresh | with_reducible apply keeps_fadeBack
                   | with_reducible apply Keeps.foldl | (intro _ _ _))

theorem keeps_offsetSlewBody {s0 s : State} {p : List Byte} (hk : Keeps s0 s) :
    Keeps s0 (offsetSlewBody s p).2.2 := by
  unfold offsetSlewBody
  dsimp only
  repeat' (first | with_reducible assumption | with_reducible apply Keeps.ite | with_reducible apply Keeps.ite3
                   | with_reducible apply keeps_refuse | with_reducible apply keeps_startSlew)

theorem keeps_offsetStepBody {s0 s : State} {p : List Byte} (hk : Keeps s0 s) :
    Keeps s0 (offsetStepBody s p).2.2 := by
  unfold offsetStepBody
  dsimp only
  repeat' (first | with_reducible assumption | with_reducible apply Keeps.ite | with_reducible apply Keeps.ite3
                   | with_reducible apply keeps_refuse | with_reducible apply keeps_offsetStep)

theorem keeps_execRxfOffset {s0 : State} {ch tag : ℕ} {s : State} (hk : Keeps s0 s) :
    KeepsO s0 (execRxfOffset ch tag s) := by
  unfold execRxfOffset
  dsimp only
  repeat' (first | with_reducible assumption | with_reducible apply Keeps.next | with_reducible apply Keeps.ite
                   | with_reducible apply KeepsO.ite | with_reducible apply keeps_runAccepted
                   | with_reducible apply keeps_offsetSlewBody | with_reducible apply keeps_strobe
                   | with_reducible apply keeps_setImp | with_reducible apply keeps_runCmd
                   | with_reducible apply keeps_offsetStepBody | with_reducible apply Keeps.foldl | (intro _ _ _)
                   | split)

theorem keeps_execRxfStatus {s0 : State} {ch tag : ℕ} {s : State} (hk : Keeps s0 s) :
    KeepsO s0 (execRxfStatus ch tag s) := by
  unfold execRxfStatus
  try dsimp -zeta only
  repeat' (first
    | (extract_lets +onlyGivenNames x; first
      | (have hx : Keeps s0 x := by
          repeat' (first
            | (extract_lets +onlyGivenNames y) | with_reducible assumption | with_reducible apply Keeps.next
            | with_reducible apply KeepsO.fault | with_reducible apply Keeps.ite | with_reducible apply KeepsO.ite
            | with_reducible apply keeps_runCmd | (refine (keeps_runCmd ?_).next _ ‹_ = Host.Outcome.next _›) | split
            | with_reducible refine Keeps.lit (FlashKeeps.refl _) ?_ ?_ ?_ ?_ | with_reducible exact id
            | with_reducible exact memWf_write _ _ _ | with_reducible exact sWf_drop _ _ _ | (intro _ hw; exact hw)
            | (intro _ hw; exact memWf_write _ _ _ hw) | exact fun _ => rfl | (intro _ _; rfl) | (intro _ _ hx)
            | (intro _ hx))
         clear_value x)
      | (have hx := List.length x; clear hx; clear_value x)
      | skip)
    | with_reducible assumption | with_reducible apply Keeps.next | with_reducible apply KeepsO.fault
    | with_reducible apply Keeps.ite | with_reducible apply KeepsO.ite | with_reducible apply keeps_runCmd
    | (refine (keeps_runCmd ?_).next _ ‹_ = Host.Outcome.next _›) | split
    | with_reducible refine Keeps.lit (FlashKeeps.refl _) ?_ ?_ ?_ ?_ | with_reducible exact id
    | with_reducible exact memWf_write _ _ _ | with_reducible exact sWf_drop _ _ _ | (intro _ hw; exact hw)
    | (intro _ hw; exact memWf_write _ _ _ hw) | exact fun _ => rfl | (intro _ _; rfl) | (intro _ _ hx))

theorem keeps_execTxfStatus {s0 : State} {ch tag : ℕ} {s : State} (hk : Keeps s0 s) :
    KeepsO s0 (execTxfStatus ch tag s) := by
  unfold execTxfStatus
  dsimp only
  repeat' (first | assumption | apply Keeps.next | apply keeps_runCmd | apply Keeps.foldl | (intro _ _ _))

theorem keeps_execRedStatus {s0 : State} {ch tag : ℕ} {s : State} (hk : Keeps s0 s) :
    KeepsO s0 (execRedStatus ch tag s) := by
  unfold execRedStatus
  try dsimp -zeta only
  repeat' (first
    | (extract_lets +onlyGivenNames x; first
      | (have hx := List.length x; clear hx; clear_value x)
      | skip)
    | with_reducible assumption | with_reducible apply Keeps.next | with_reducible apply KeepsO.fault
    | with_reducible apply Keeps.ite | with_reducible apply KeepsO.ite | with_reducible apply keeps_runCmd
    | (refine (keeps_runCmd ?_).next _ ‹_ = Host.Outcome.next _›) | split
    | with_reducible refine Keeps.lit (FlashKeeps.refl _) ?_ ?_ ?_ ?_ | with_reducible exact id
    | with_reducible exact memWf_write _ _ _ | with_reducible exact sWf_drop _ _ _ | (intro _ hw; exact hw)
    | (intro _ hw; exact memWf_write _ _ _ hw) | exact fun _ => rfl | (intro _ _; rfl) | (intro _ _ hx))

theorem keeps_pathRemove {s0 s : State} {f x : ℕ} (hk : Keeps s0 s) :
    Keeps s0 (pathRemove s f x) := by
  unfold pathRemove
  dsimp only
  repeat' (first | with_reducible assumption | with_reducible apply Keeps.ite | with_reducible apply keeps_galRefresh
                   | with_reducible apply keeps_galDiscard | with_reducible apply keeps_dropPathKeys
                   | with_reducible apply keeps_setFlow | with_reducible apply keeps_setFld)

theorem keeps_pathRestore {s0 s : State} {f x : ℕ} (hk : Keeps s0 s) :
    KeepsP s0 (pathRestore s f x) := by
  unfold pathRestore
  try dsimp -zeta only
  repeat' (first
    | (extract_lets +onlyGivenNames x; first
      | (have hx := List.length x; clear hx; clear_value x)
      | skip)
    | with_reducible assumption | with_reducible apply Keeps.some | with_reducible apply KeepsP.none
    | with_reducible apply Keeps.ite | with_reducible apply KeepsP.ite | with_reducible apply keeps_placeKey
    | with_reducible apply keeps_setFld | with_reducible apply KeepsP.map
    | (refine (keeps_placeKey ?_).some _ ‹_ = some _›) | split
    | with_reducible refine Keeps.lit (FlashKeeps.refl _) ?_ ?_ ?_ ?_ | with_reducible exact id
    | with_reducible exact memWf_write _ _ _ | with_reducible exact sWf_drop _ _ _ | (intro _ hw; exact hw)
    | (intro _ hw; exact memWf_write _ _ _ hw) | exact fun _ => rfl | (intro _ _; rfl) | (intro _ _ hx) | (intro _ hx))

theorem keeps_redPathsBody {s0 s : State} {p : List Byte} (hk : Keeps s0 s) : Keeps s0 (redPathsBody s p).2.2 := by
  unfold redPathsBody
  extract_lets f mask old s1
  refine Keeps.ite3 (keeps_refuse hk) (Keeps.ite3 (keeps_refuse hk) ?_)
  have h1 : Keeps s0 s1 := keeps_setFldSh (keeps_setFld hk)
  clear_value s1
  have h2 := KeepsP.foldl (l := [0, 1]) (g := fun (t : Option State) x => t.bind fun t =>
      if nbit old x && !nbit mask x then some (pathRemove t f x)
      else if !nbit old x && nbit mask x then pathRestore t f x
      else some t)
    (fun x a h => KeepsP.bind h fun y hy =>
      KeepsP.ite (keeps_pathRemove hy).some (KeepsP.ite (keeps_pathRestore hy) hy.some)) h1.some
  split
  · exact keeps_refuse hk
  · exact h2.some _ ‹_›

theorem keeps_execRedPaths {s0 : State} {ch tag : ℕ} {s : State} (hk : Keeps s0 s) :
    KeepsO s0 (execRedPaths ch tag s) := by
  unfold execRedPaths
  repeat' (first | assumption | apply Keeps.next | apply keeps_runCmd | apply keeps_redPathsBody)

theorem keeps_shapeRefresh {s0 s : State} (hk : Keeps s0 s) :
    Keeps s0 (shapeRefresh s) := by
  unfold shapeRefresh
  dsimp only
  repeat' (first | assumption | apply keeps_applyGroup | apply keeps_strobe | apply keeps_fwWrites)

theorem keeps_txCreateBody {s0 : State} {mac src : List Byte} {s : State} {p : List Byte} (hk : Keeps s0 s) :
    Keeps s0 (txCreateBody mac src s p).2.2 := by
  unfold txCreateBody
  try dsimp -zeta only
  repeat' (first
    | (extract_lets +onlyGivenNames x; first
      | (have hx : Keeps s0 x := by
          repeat' (first
            | (extract_lets +onlyGivenNames y) | with_reducible assumption | with_reducible apply Keeps.some
            | with_reducible apply KeepsP.none | with_reducible apply Keeps.ite | with_reducible apply Keeps.ite3
            | with_reducible apply keeps_refuse | with_reducible apply keeps_fresh | with_reducible apply keeps_tryOut
            | with_reducible apply keeps_reserve | with_reducible apply keeps_qCapWrite
            | with_reducible apply keeps_applyGroup | with_reducible apply keeps_strobe
            | with_reducible apply keeps_fwWrite | with_reducible apply keeps_fwWrites
            | with_reducible apply keeps_shapeRefresh | (refine Keeps.of_snd (keeps_fresh ?_) ‹_ = (_, _)›)
            | (refine (keeps_reserve ?_).some _ ‹_ = some _›))
         clear_value x)
      | (have hx := List.length x; clear hx; clear_value x)
      | skip)
    | with_reducible assumption | with_reducible apply Keeps.some | with_reducible apply KeepsP.none
    | with_reducible apply Keeps.ite | with_reducible apply Keeps.ite3 | with_reducible apply keeps_refuse
    | with_reducible apply keeps_fresh | with_reducible apply keeps_tryOut | with_reducible apply keeps_reserve
    | with_reducible apply keeps_qCapWrite | with_reducible apply keeps_applyGroup | with_reducible apply keeps_strobe
    | with_reducible apply keeps_fwWrite | with_reducible apply keeps_fwWrites
    | with_reducible apply keeps_shapeRefresh | (refine Keeps.of_snd (keeps_fresh ?_) ‹_ = (_, _)›)
    | (refine (keeps_reserve ?_).some _ ‹_ = some _›) | split
    | with_reducible refine Keeps.lit (FlashKeeps.refl _) ?_ ?_ ?_ ?_ | with_reducible exact id)

theorem keeps_execTxfCreate {s0 : State} {ch tag : ℕ} {mac src : List Byte} {s : State} (hk : Keeps s0 s) :
    KeepsO s0 (execTxfCreate ch tag mac src s) := by
  unfold execTxfCreate
  repeat' (first | assumption | apply Keeps.next | apply keeps_runCmd | apply keeps_txCreateBody)

theorem keeps_txDeleteBody {s0 s : State} {p : List Byte} (hk : Keeps s0 s) :
    Keeps s0 (txDeleteBody s p).2.2 := by
  unfold txDeleteBody
  dsimp only
  repeat' (first | with_reducible assumption | with_reducible apply Keeps.ite | with_reducible apply Keeps.ite3
                   | with_reducible apply keeps_refuse | with_reducible apply keeps_applyGroup
                   | with_reducible apply keeps_strobe | with_reducible apply keeps_fwWrite
                   | with_reducible apply keeps_shapeRefresh | with_reducible apply keeps_qResWrite
                   | with_reducible refine Keeps.lit (FlashKeeps.refl _) ?_ ?_ ?_ ?_ | exact id)

theorem keeps_execTxfDelete {s0 : State} {ch tag : ℕ} {s : State} (hk : Keeps s0 s) :
    KeepsO s0 (execTxfDelete ch tag s) := by
  unfold execTxfDelete
  repeat' (first | assumption | apply Keeps.next | apply keeps_runCmd | apply keeps_txDeleteBody)

theorem keeps_sdpCreate {s0 s : State} {p : List Byte} (hk : Keeps s0 s) :
    Keeps s0 (sdpCreate s p).2.2 := by
  unfold sdpCreate
  dsimp only
  repeat' (first | with_reducible assumption | with_reducible apply Keeps.ite | with_reducible apply Keeps.ite3
                   | with_reducible apply keeps_rxCreate | split)

theorem keeps_execSdpImport {s0 : State} {ch tag : ℕ} {s : State} (hk : Keeps s0 s) :
    KeepsO s0 (execSdpImport ch tag s) := by
  unfold execSdpImport
  try dsimp -zeta only
  repeat' (first
    | (extract_lets +onlyGivenNames x; first
      | (have hx : Keeps s0 x := by
          repeat' (first
            | (extract_lets +onlyGivenNames y) | with_reducible assumption | with_reducible apply Keeps.next
            | with_reducible apply KeepsO.fault | with_reducible apply Keeps.ite | with_reducible apply KeepsO.ite
            | with_reducible apply keeps_runAccepted | with_reducible apply keeps_sdpCreate
            | (refine (keeps_runAccepted ?_).next _ ‹_ = Host.Outcome.next _›) | split
            | with_reducible refine Keeps.lit (FlashKeeps.refl _) ?_ ?_ ?_ ?_ | with_reducible exact id
            | with_reducible exact memWf_write _ _ _ | with_reducible exact sWf_drop _ _ _ | (intro _ hw; exact hw)
            | (intro _ hw; exact memWf_write _ _ _ hw) | exact fun _ => rfl | (intro _ _; rfl) | (intro _ _ hx)
            | (intro _ hx))
         clear_value x)
      | (have hx := List.length x; clear hx; clear_value x)
      | skip)
    | with_reducible assumption | with_reducible apply Keeps.next | with_reducible apply KeepsO.fault
    | with_reducible apply Keeps.ite | with_reducible apply KeepsO.ite | with_reducible apply keeps_runAccepted
    | with_reducible apply keeps_sdpCreate | (refine (keeps_runAccepted ?_).next _ ‹_ = Host.Outcome.next _›) | split
    | with_reducible refine Keeps.lit (FlashKeeps.refl _) ?_ ?_ ?_ ?_ | with_reducible exact id
    | with_reducible exact memWf_write _ _ _ | with_reducible exact sWf_drop _ _ _ | (intro _ hw; exact hw)
    | (intro _ hw; exact memWf_write _ _ _ hw) | exact fun _ => rfl | (intro _ _; rfl) | (intro _ _ hx))

theorem keeps_execSdpExport {s0 : State} {ch tag : ℕ} {s : State} (hk : Keeps s0 s) :
    KeepsO s0 (execSdpExport ch tag s) := by
  unfold execSdpExport
  try dsimp -zeta only
  repeat' (first
    | (extract_lets +onlyGivenNames x; first
      | (have hx : Keeps s0 x := by
          repeat' (first
            | (extract_lets +onlyGivenNames y) | with_reducible assumption | with_reducible apply Keeps.next
            | with_reducible apply KeepsO.fault | with_reducible apply Keeps.ite | with_reducible apply KeepsO.ite
            | with_reducible apply keeps_runCmd | with_reducible apply keeps_refuse
            | (refine (keeps_runCmd ?_).next _ ‹_ = Host.Outcome.next _›) | split
            | with_reducible refine Keeps.lit (FlashKeeps.refl _) ?_ ?_ ?_ ?_ | with_reducible exact id
            | with_reducible exact memWf_write _ _ _ | with_reducible exact sWf_drop _ _ _ | (intro _ hw; exact hw)
            | (intro _ hw; exact memWf_write _ _ _ hw) | exact fun _ => rfl | (intro _ _; rfl) | (intro _ _ hx)
            | (intro _ hx))
         clear_value x)
      | (have hx := List.length x; clear hx; clear_value x)
      | skip)
    | with_reducible assumption | with_reducible apply Keeps.next | with_reducible apply KeepsO.fault
    | with_reducible apply Keeps.ite | with_reducible apply KeepsO.ite | with_reducible apply keeps_runCmd
    | with_reducible apply keeps_refuse | (refine (keeps_runCmd ?_).next _ ‹_ = Host.Outcome.next _›) | split
    | with_reducible refine Keeps.lit (FlashKeeps.refl _) ?_ ?_ ?_ ?_ | with_reducible exact id
    | with_reducible exact memWf_write _ _ _ | with_reducible exact sWf_drop _ _ _ | (intro _ hw; exact hw)
    | (intro _ hw; exact memWf_write _ _ _ hw) | exact fun _ => rfl | (intro _ _; rfl) | (intro _ _ hx))

theorem keeps_sdpAnnounceBody {s0 s : State} {p : List Byte} (hk : Keeps s0 s) :
    Keeps s0 (sdpAnnounceBody s p).2.2 := by
  unfold sdpAnnounceBody
  dsimp only
  repeat' (first | with_reducible assumption | with_reducible apply Keeps.ite | with_reducible apply Keeps.ite3
                   | with_reducible apply keeps_refuse | with_reducible refine Keeps.lit (FlashKeeps.refl _) ?_ ?_ ?_ ?_
                   | exact id)

theorem keeps_execSdpAnnounce {s0 : State} {ch tag : ℕ} {s : State} (hk : Keeps s0 s) :
    KeepsO s0 (execSdpAnnounce ch tag s) := by
  unfold execSdpAnnounce
  repeat' (first | assumption | apply Keeps.next | apply keeps_runCmd | apply keeps_sdpAnnounceBody)

theorem keeps_execSapAnnouncementTx {s0 : State} {f : ℕ} {s : State} (hk : Keeps s0 s) :
    KeepsO s0 (execSapAnnouncementTx f s) := by
  unfold execSapAnnouncementTx
  repeat' (first | assumption | apply Keeps.next | apply Keeps.ite | apply KeepsO.ite | apply keeps_emit
                   | refine Keeps.lit (FlashKeeps.refl _) ?_ ?_ ?_ ?_ | exact id)

end Sys2Proof.Machine
end

