-- ==== Sys2Proof/Laws/KeepsCmdStk.lean ====
section
/-! SUPPORT. Every definition of Machine/CmdStk.lean that answers a state keeps what Keeps names: the waiting commands,
the boot flash and the canonical form of the stores. -/

set_option linter.all false

namespace Sys2Proof.Machine

theorem keeps_execStkStatus {s0 : State} {ch tag : ℕ} {s : State} (hk : Keeps s0 s) :
    KeepsO s0 (execStkStatus ch tag s) := by
  unfold execStkStatus
  try dsimp -zeta only
  repeat' (first
    | with_reducible assumption | with_reducible apply Keeps.next | with_reducible apply KeepsO.fault
    | with_reducible apply Keeps.ite | with_reducible apply KeepsO.ite | with_reducible apply keeps_runCmd
    | (refine (keeps_runCmd ?_).next _ ‹_ = Host.Outcome.next _›) | split
    | with_reducible refine Keeps.lit (FlashKeeps.refl _) ?_ ?_ ?_ ?_ | with_reducible exact id
    | with_reducible exact memWf_write _ _ _ | with_reducible exact sWf_drop _ _ _ | (intro _ hw; exact hw)
    | (intro _ hw; exact memWf_write _ _ _ hw) | exact fun _ => rfl | (intro _ _; rfl) | (intro _ _ hx))

theorem keeps_stkSetBody {s0 s : State} {p : List Byte} (hk : Keeps s0 s) :
    Keeps s0 (stkSetBody s p).2.2 := by
  unfold stkSetBody
  dsimp only
  repeat' (first | with_reducible assumption | with_reducible apply Keeps.ite | with_reducible apply Keeps.ite3
                   | with_reducible apply keeps_refuse | with_reducible apply keeps_applyGroup
                   | with_reducible apply keeps_strobe | with_reducible apply keeps_fwWrite)

theorem keeps_execStkSet {s0 : State} {ch tag : ℕ} {s : State} (hk : Keeps s0 s) :
    KeepsO s0 (execStkSet ch tag s) := by
  unfold execStkSet
  repeat' (first | assumption | apply Keeps.next | apply keeps_runCmd | apply keeps_stkSetBody)

theorem keeps_twinSetBody {s0 s : State} {p : List Byte} (hk : Keeps s0 s) :
    Keeps s0 (twinSetBody s p).2.2 := by
  unfold twinSetBody
  dsimp only
  repeat' (first | with_reducible assumption | with_reducible apply Keeps.ite | with_reducible apply Keeps.ite3
                   | with_reducible apply keeps_refuse | with_reducible apply keeps_applyGroup
                   | with_reducible apply keeps_strobe | with_reducible apply keeps_fwWrites)

theorem keeps_execTwinSet {s0 : State} {ch tag : ℕ} {s : State} (hk : Keeps s0 s) :
    KeepsO s0 (execTwinSet ch tag s) := by
  unfold execTwinSet
  repeat' (first | assumption | apply Keeps.next | apply keeps_runCmd | apply keeps_twinSetBody)

theorem keeps_twinHandover {s0 s : State} (hk : Keeps s0 s) :
    Keeps s0 (twinHandover s) := by
  unfold twinHandover
  try dsimp -zeta only
  repeat' (first
    | with_reducible assumption | with_reducible apply Keeps.ite | with_reducible apply keeps_execTwinCmdHandover
    | with_reducible apply keeps_setFld | (refine (keeps_execTwinCmdHandover ?_).next _ ‹_ = Host.Outcome.next _›)
    | split)

theorem keeps_twinTakeoverBody {s0 s : State} {p : List Byte} (hk : Keeps s0 s) :
    Keeps s0 (twinTakeoverBody s p).2.2 := by
  unfold twinTakeoverBody
  dsimp only
  repeat' (first | with_reducible assumption | with_reducible apply Keeps.ite | with_reducible apply Keeps.ite3
                   | with_reducible apply keeps_refuse | with_reducible apply keeps_twinTake
                   | with_reducible apply keeps_setFld | with_reducible apply keeps_twinHandover)

theorem keeps_execTwinTakeover {s0 : State} {ch tag : ℕ} {s : State} (hk : Keeps s0 s) :
    KeepsO s0 (execTwinTakeover ch tag s) := by
  unfold execTwinTakeover
  repeat' (first | assumption | apply Keeps.next | apply keeps_runCmd | apply keeps_twinTakeoverBody)

theorem keeps_twinHealthBody {s0 s : State} {p : List Byte} (hk : Keeps s0 s) :
    Keeps s0 (twinHealthBody s p).2.2 := by
  unfold twinHealthBody
  dsimp only
  repeat' (first | with_reducible assumption | with_reducible apply Keeps.ite | with_reducible apply Keeps.ite3
                   | with_reducible apply keeps_refuse | with_reducible apply keeps_healthClose)

theorem keeps_execTwinHealth {s0 : State} {ch tag : ℕ} {s : State} (hk : Keeps s0 s) :
    KeepsO s0 (execTwinHealth ch tag s) := by
  unfold execTwinHealth
  repeat' (first | assumption | apply Keeps.next | apply keeps_runCmd | apply keeps_twinHealthBody)

theorem keeps_grdSetBody {s0 s : State} {p : List Byte} (hk : Keeps s0 s) :
    Keeps s0 (grdSetBody s p).2.2 := by
  unfold grdSetBody
  dsimp only
  repeat' (first | with_reducible assumption | with_reducible apply Keeps.ite | with_reducible apply Keeps.ite3
                   | with_reducible apply keeps_refuse | with_reducible apply keeps_applyGroup
                   | with_reducible apply keeps_strobe | with_reducible apply keeps_fwWrites)

theorem keeps_execGrdSet {s0 : State} {ch tag : ℕ} {s : State} (hk : Keeps s0 s) :
    KeepsO s0 (execGrdSet ch tag s) := by
  unfold execGrdSet
  repeat' (first | assumption | apply Keeps.next | apply keeps_runCmd | apply keeps_grdSetBody)

theorem keeps_execGrdStatus {s0 : State} {ch tag : ℕ} {s : State} (hk : Keeps s0 s) :
    KeepsO s0 (execGrdStatus ch tag s) := by
  unfold execGrdStatus
  try dsimp -zeta only
  repeat' (first
    | (extract_lets +onlyGivenNames x; first
      | (have hx : Keeps s0 x := by
          repeat' (first
            | (extract_lets +onlyGivenNames y) | with_reducible assumption | with_reducible apply Keeps.next
            | with_reducible apply KeepsO.fault | with_reducible apply Keeps.ite | with_reducible apply KeepsO.ite
            | with_reducible apply keeps_runCmd | with_reducible apply keeps_refuse
            | (refine (keeps_runCmd ?_).next _ ‹_ = Host.Outcome.next _›) | split
            | with_reducible refine Keeps.lit (FlashKeeps.refl _) ?_ ?_ ?_ ?_ | with_reducible exact id
            | with_reducible exact memWf_write _ _ _ | with_reducible exact sWf_drop _ _ _ | (intro _ hw; exact hw)
            | (intro _ hw; exact memWf_write _ _ _ hw) | exact fun _ => rfl | (intro _ _; rfl) | (intro _ _ hx)
            | (intro _ hx))
         clear_value x)
      | (have hx := List.length x; clear hx; clear_value x)
      | skip)
    | with_reducible assumption | with_reducible apply Keeps.next | with_reducible apply KeepsO.fault
    | with_reducible apply Keeps.ite | with_reducible apply KeepsO.ite | with_reducible apply keeps_runCmd
    | with_reducible apply keeps_refuse | (refine (keeps_runCmd ?_).next _ ‹_ = Host.Outcome.next _›) | split
    | with_reducible refine Keeps.lit (FlashKeeps.refl _) ?_ ?_ ?_ ?_ | with_reducible exact id
    | with_reducible exact memWf_write _ _ _ | with_reducible exact sWf_drop _ _ _ | (intro _ hw; exact hw)
    | (intro _ hw; exact memWf_write _ _ _ hw) | exact fun _ => rfl | (intro _ _; rfl) | (intro _ _ hx))

theorem keeps_execGrdReprobe {s0 : State} {ch tag : ℕ} {s : State} (hk : Keeps s0 s) :
    KeepsO s0 (execGrdReprobe ch tag s) := by
  unfold execGrdReprobe
  try dsimp -zeta only
  repeat' (first
    | (extract_lets +onlyGivenNames x; first
      | (have hx := List.length x; clear hx; clear_value x)
      | skip)
    | with_reducible assumption | with_reducible apply Keeps.next | with_reducible apply KeepsO.fault
    | with_reducible apply Keeps.ite | with_reducible apply KeepsO.ite | with_reducible apply keeps_runCmd
    | with_reducible apply keeps_refuse | with_reducible apply Keeps.foldl | with_reducible apply Keeps.foldl_snd
    | with_reducible apply Keeps.foldl_fst | (refine (keeps_runCmd ?_).next _ ‹_ = Host.Outcome.next _›) | split
    | with_reducible refine Keeps.lit (FlashKeeps.refl _) ?_ ?_ ?_ ?_ | with_reducible exact id
    | with_reducible exact memWf_write _ _ _ | with_reducible exact sWf_drop _ _ _ | (intro _ hw; exact hw)
    | (intro _ hw; exact memWf_write _ _ _ hw) | exact fun _ => rfl | (intro _ _; rfl) | (intro _ _ hx))

theorem keeps_clearWides {s0 s : State} {b : ℕ} (hk : Keeps s0 s) :
    Keeps s0 (clearWides s b) := by
  unfold clearWides
  dsimp only
  repeat' (first | assumption | apply Keeps.ite | refine Keeps.lit (FlashKeeps.refl _) ?_ ?_ ?_ ?_ | exact id)

theorem keeps_clearBlockCounters {s0 s : State} {b : ℕ} (hk : Keeps s0 s) :
    Keeps s0 (clearBlockCounters s b) := by
  unfold clearBlockCounters
  dsimp only
  repeat' (first | assumption | apply keeps_wr | apply keeps_clearWides | apply Keeps.foldl | (intro _ _ _))

theorem keeps_countersBody {s0 : State} {clear : Bool} {room : ℕ} {s : State} {p : List Byte} (hk : Keeps s0 s) :
    Keeps s0 (countersBody clear room s p).2.2 := by
  unfold countersBody
  dsimp only
  repeat' (first | with_reducible assumption | with_reducible apply Keeps.ite | with_reducible apply Keeps.ite3
                   | with_reducible apply keeps_refuse | with_reducible apply keeps_clearBlockCounters
                   | with_reducible apply Keeps.foldl)

theorem keeps_execDiagSnapClear {s0 : State} {ch tag : ℕ} {s : State} (hk : Keeps s0 s) :
    KeepsO s0 (execDiagSnapClear ch tag s) := by
  unfold execDiagSnapClear
  repeat' (first | assumption | apply Keeps.next | apply keeps_runCmd | apply keeps_countersBody)

theorem keeps_execDiagCounters {s0 : State} {ch tag : ℕ} {s : State} (hk : Keeps s0 s) :
    KeepsO s0 (execDiagCounters ch tag s) := by
  unfold execDiagCounters
  repeat' (first | assumption | apply Keeps.next | apply keeps_runCmd | apply keeps_countersBody)

theorem keeps_execDiagLoopback {s0 : State} {ch tag : ℕ} {s : State} (hk : Keeps s0 s) :
    KeepsO s0 (execDiagLoopback ch tag s) := by
  unfold execDiagLoopback
  try dsimp -zeta only
  repeat' (first
    | (extract_lets +onlyGivenNames x; first
      | (have hx : Keeps s0 x := by
          repeat' (first
            | (extract_lets +onlyGivenNames y) | with_reducible assumption | with_reducible apply Keeps.next
            | with_reducible apply KeepsO.fault | with_reducible apply Keeps.ite | with_reducible apply KeepsO.ite
            | with_reducible apply keeps_runCmd | with_reducible apply keeps_refuse
            | (refine (keeps_runCmd ?_).next _ ‹_ = Host.Outcome.next _›) | split
            | with_reducible refine Keeps.lit (FlashKeeps.refl _) ?_ ?_ ?_ ?_ | with_reducible exact id
            | with_reducible exact memWf_write _ _ _ | with_reducible exact sWf_drop _ _ _ | (intro _ hw; exact hw)
            | (intro _ hw; exact memWf_write _ _ _ hw) | exact fun _ => rfl | (intro _ _; rfl) | (intro _ _ hx)
            | (intro _ hx))
         clear_value x)
      | (have hx := List.length x; clear hx; clear_value x)
      | skip)
    | with_reducible assumption | with_reducible apply Keeps.next | with_reducible apply KeepsO.fault
    | with_reducible apply Keeps.ite | with_reducible apply KeepsO.ite | with_reducible apply keeps_runCmd
    | with_reducible apply keeps_refuse | (refine (keeps_runCmd ?_).next _ ‹_ = Host.Outcome.next _›) | split
    | with_reducible refine Keeps.lit (FlashKeeps.refl _) ?_ ?_ ?_ ?_ | with_reducible exact id
    | with_reducible exact memWf_write _ _ _ | with_reducible exact sWf_drop _ _ _ | (intro _ hw; exact hw)
    | (intro _ hw; exact memWf_write _ _ _ hw) | exact fun _ => rfl | (intro _ _; rfl) | (intro _ _ hx))

theorem keeps_execDiagMarch {s0 : State} {ch tag : ℕ} {s : State} (hk : Keeps s0 s) :
    KeepsO s0 (execDiagMarch ch tag s) := by
  unfold execDiagMarch
  try dsimp -zeta only
  repeat' (first
    | with_reducible assumption | with_reducible apply Keeps.next | with_reducible apply KeepsO.fault
    | with_reducible apply Keeps.ite | with_reducible apply KeepsO.ite | with_reducible apply keeps_runAccepted
    | with_reducible apply keeps_refuse | (refine (keeps_runAccepted ?_).next _ ‹_ = Host.Outcome.next _›) | split
    | with_reducible refine Keeps.lit (FlashKeeps.refl _) ?_ ?_ ?_ ?_ | with_reducible exact id
    | with_reducible exact memWf_write _ _ _ | with_reducible exact sWf_drop _ _ _ | (intro _ hw; exact hw)
    | (intro _ hw; exact memWf_write _ _ _ hw) | exact fun _ => rfl | (intro _ _; rfl) | (intro _ _ hx))

theorem keeps_execDiagLog {s0 : State} {ch tag : ℕ} {s : State} (hk : Keeps s0 s) :
    KeepsO s0 (execDiagLog ch tag s) := by
  unfold execDiagLog
  try dsimp -zeta only
  repeat' (first
    | (extract_lets +onlyGivenNames x; first
      | (have hx : Keeps s0 x := by
          repeat' (first
            | (extract_lets +onlyGivenNames y) | with_reducible assumption | with_reducible apply Keeps.next
            | with_reducible apply KeepsO.fault | with_reducible apply Keeps.ite | with_reducible apply KeepsO.ite
            | with_reducible apply keeps_runCmd | with_reducible apply keeps_refuse
            | (refine (keeps_runCmd ?_).next _ ‹_ = Host.Outcome.next _›) | split
            | with_reducible refine Keeps.lit (FlashKeeps.refl _) ?_ ?_ ?_ ?_ | with_reducible exact id
            | with_reducible exact memWf_write _ _ _ | with_reducible exact sWf_drop _ _ _ | (intro _ hw; exact hw)
            | (intro _ hw; exact memWf_write _ _ _ hw) | exact fun _ => rfl | (intro _ _; rfl) | (intro _ _ hx)
            | (intro _ hx))
         clear_value x)
      | (have hx := List.length x; clear hx; clear_value x)
      | skip)
    | with_reducible assumption | with_reducible apply Keeps.next | with_reducible apply KeepsO.fault
    | with_reducible apply Keeps.ite | with_reducible apply KeepsO.ite | with_reducible apply keeps_runCmd
    | with_reducible apply keeps_refuse | (refine (keeps_runCmd ?_).next _ ‹_ = Host.Outcome.next _›) | split
    | with_reducible refine Keeps.lit (FlashKeeps.refl _) ?_ ?_ ?_ ?_ | with_reducible exact id
    | with_reducible exact memWf_write _ _ _ | with_reducible exact sWf_drop _ _ _ | (intro _ hw; exact hw)
    | (intro _ hw; exact memWf_write _ _ _ hw) | exact fun _ => rfl | (intro _ _; rfl) | (intro _ _ hx))

theorem keeps_queueOverflow {s0 s : State} {ch : ℕ} (hk : Keeps s0 s) :
    Keeps s0 (queueOverflow s ch) := by
  unfold queueOverflow
  dsimp only
  repeat' (first | assumption | apply Keeps.ite | apply keeps_setEvtq)

theorem keeps_evtFetchBody {s0 : State} {ch : ℕ} {s : State} {p : List Byte} (hk : Keeps s0 s) :
    Keeps s0 (evtFetchBody ch s p).2.2 := by
  unfold evtFetchBody
  dsimp only
  repeat' (first | with_reducible assumption | with_reducible apply Keeps.ite | with_reducible apply Keeps.ite3
                   | with_reducible apply keeps_refuse | with_reducible apply keeps_setEvtq
                   | with_reducible apply keeps_forget | with_reducible apply keeps_queueOverflow
                   | with_reducible apply Keeps.foldl | (intro _ _ _))

theorem keeps_execEvtFetch {s0 : State} {ch tag : ℕ} {s : State} (hk : Keeps s0 s) :
    KeepsO s0 (execEvtFetch ch tag s) := by
  unfold execEvtFetch
  repeat' (first | assumption | apply Keeps.next | apply keeps_runCmd | apply keeps_evtFetchBody)

theorem keeps_execEvtMask {s0 : State} {ch tag : ℕ} {s : State} (hk : Keeps s0 s) :
    KeepsO s0 (execEvtMask ch tag s) := by
  unfold execEvtMask
  try dsimp -zeta only
  repeat' (first
    | (extract_lets +onlyGivenNames x; first
      | (have hx := List.length x; clear hx; clear_value x)
      | skip)
    | with_reducible assumption | with_reducible apply Keeps.next | with_reducible apply KeepsO.fault
    | with_reducible apply Keeps.ite | with_reducible apply KeepsO.ite | with_reducible apply keeps_runCmd
    | with_reducible apply keeps_setEvtq | (refine (keeps_runCmd ?_).next _ ‹_ = Host.Outcome.next _›) | split
    | with_reducible refine Keeps.lit (FlashKeeps.refl _) ?_ ?_ ?_ ?_ | with_reducible exact id
    | with_reducible exact memWf_write _ _ _ | with_reducible exact sWf_drop _ _ _ | (intro _ hw; exact hw)
    | (intro _ hw; exact memWf_write _ _ _ hw) | exact fun _ => rfl | (intro _ _; rfl) | (intro _ _ hx))

theorem keeps_imageEnd {s0 s : State} {ch tag verify : ℕ} (hk : Keeps s0 s) :
    Keeps s0 (imageEnd s ch tag verify) := by
  unfold imageEnd
  try dsimp -zeta only
  repeat' (first
    | (extract_lets +onlyGivenNames x; first
      | (have hx : Keeps s0 x := by
          repeat' (first
            | (extract_lets +onlyGivenNames y) | with_reducible assumption | with_reducible apply Keeps.some
            | with_reducible apply KeepsP.none | with_reducible apply Keeps.ite | with_reducible apply keeps_endCmd
            | split | with_reducible refine Keeps.lit (FlashKeeps.refl _) ?_ ?_ ?_ ?_
            | with_reducible refine Keeps.lit ?_ ?_ ?_ ?_ ?_ | exact FlashKeeps.image | exact FlashKeeps.forme
            | (exact FlashKeeps.upd id) | with_reducible exact id)
         clear_value x)
      | skip)
    | with_reducible assumption | with_reducible apply Keeps.some | with_reducible apply KeepsP.none
    | with_reducible apply Keeps.ite | with_reducible apply keeps_endCmd | split
    | with_reducible refine Keeps.lit (FlashKeeps.refl _) ?_ ?_ ?_ ?_ | with_reducible refine Keeps.lit ?_ ?_ ?_ ?_ ?_
    | exact FlashKeeps.image | exact FlashKeeps.forme | (exact FlashKeeps.upd id) | with_reducible exact id)

theorem keeps_marchEnd {s0 s : State} {ch tag half most tested failed first : Nat} (hk : Keeps s0 s) :
    Keeps s0 (marchEnd s ch tag half most tested failed first) := by
  unfold marchEnd
  dsimp only
  exact keeps_endCmd (Keeps.foldl (fun _ _ h => keeps_patCell h) (keeps_fresh (keeps_fresh hk)))

theorem keeps_offsetSlewEnd {s0 s : State} {ch tag : ℕ} {p : List Byte} (hk : Keeps s0 s) :
    Keeps s0 (offsetSlewEnd s ch tag p) := by
  unfold offsetSlewEnd
  dsimp only
  repeat' (first | with_reducible assumption | with_reducible apply Keeps.ite | with_reducible apply keeps_setFld
                   | with_reducible apply keeps_setFldSh | with_reducible apply keeps_endCmd
                   | with_reducible apply keeps_finishGen | with_reducible apply keeps_recordWork)

theorem keeps_sdpImportEnd {s0 s : State} {ch tag : ℕ} {p : List Byte} (hk : Keeps s0 s) :
    Keeps s0 (sdpImportEnd s ch tag p) := by
  unfold sdpImportEnd
  dsimp only
  repeat' (first | with_reducible assumption | with_reducible apply Keeps.ite | with_reducible apply keeps_settle
                   | with_reducible apply keeps_sdpCreate | with_reducible apply keeps_endCmd
                   | with_reducible apply keeps_follow)

theorem keeps_routeDrop {s0 s : State} (hk : Keeps s0 s) :
    Keeps s0 (routeDrop s) := by
  unfold routeDrop
  dsimp only
  repeat' (first | assumption | apply keeps_setFld | apply keeps_setPl | apply keeps_setImp | apply Keeps.foldl
                   | (intro _ _ _) | split | refine Keeps.lit (FlashKeeps.refl _) ?_ ?_ ?_ ?_ | exact id)

theorem keeps_dropCmd {s0 s : State} {c : Cmd} {status : ℕ} (hk : Keeps s0 s) :
    Keeps s0 (dropCmd s c status) := by
  unfold dropCmd
  dsimp only
  repeat' (first | with_reducible assumption | with_reducible apply Keeps.ite | with_reducible apply keeps_abortApply
                   | with_reducible apply keeps_endCmd | with_reducible apply keeps_routeDrop
                   | with_reducible apply keeps_strobe | with_reducible apply keeps_setImp
                   | with_reducible apply Keeps.foldl | (intro _ _ _)
                   | with_reducible refine Keeps.lit (FlashKeeps.refl _) ?_ ?_ ?_ ?_ | exact id)

theorem keeps_formeStored {s0 s : State} {slot : ℕ} (hk : Keeps s0 s) :
    Keeps s0 (formeStored s slot) := by
  unfold formeStored
  try dsimp -zeta only
  repeat' (first
    | (extract_lets +onlyGivenNames x; first
      | (have hx : Keeps s0 x := by
          repeat' (first
            | (extract_lets +onlyGivenNames y) | with_reducible assumption | with_reducible apply Keeps.ite
            | with_reducible apply keeps_stkTell | split
            | with_reducible refine Keeps.lit (FlashKeeps.refl _) ?_ ?_ ?_ ?_
            | with_reducible refine Keeps.lit ?_ ?_ ?_ ?_ ?_ | exact FlashKeeps.image | exact FlashKeeps.forme
            | (exact FlashKeeps.upd id) | (refine FlashKeeps.upd ?_; omega) | with_reducible exact id
            | with_reducible exact memWf_write _ _ _ | with_reducible exact sWf_drop _ _ _ | (intro _ hw; exact hw)
            | (intro _ hw; exact memWf_write _ _ _ hw) | exact fun _ => rfl | (intro _ _; rfl) | (intro _ _ hx)
            | (intro _ hx))
         clear_value x)
      | (have hx := List.length x; clear hx; clear_value x)
      | skip)
    | with_reducible assumption | with_reducible apply Keeps.ite | with_reducible apply keeps_stkTell | split
    | with_reducible refine Keeps.lit (FlashKeeps.refl _) ?_ ?_ ?_ ?_ | with_reducible refine Keeps.lit ?_ ?_ ?_ ?_ ?_
    | exact FlashKeeps.image | exact FlashKeeps.forme | (exact FlashKeeps.upd id) | (refine FlashKeeps.upd ?_; omega)
    | with_reducible exact id | with_reducible exact memWf_write _ _ _ | with_reducible exact sWf_drop _ _ _
    | (intro _ hw; exact hw) | (intro _ hw; exact memWf_write _ _ _ hw) | exact fun _ => rfl | (intro _ _; rfl)
    | (intro _ _ hx) | (intro _ hx))

theorem keeps_execAcceptedCommandEnd {s0 s : State} {ch tag : ℕ} {hw : Bool} {verify tested failed first : ℕ} (hk : Keeps s0 s) :
    KeepsO s0 (execAcceptedCommandEnd ch tag hw verify tested failed first s) := by
  unfold execAcceptedCommandEnd
  split
  · exact hk.next
  rename_i c _
  extract_lets +onlyGivenNames p done
  have hd : ∀ d, Keeps s0 (done d) := fun d => keeps_endCmd hk
  clear_value p done
  exact KeepsO.ite hk.next <| KeepsO.ite (keeps_dropCmd hk).next <|
    KeepsO.ite (keeps_endCmd (Keeps.lit .image id id id hk)).next <| KeepsO.ite (keeps_imageEnd hk).next <|
    KeepsO.ite (keeps_endCmd (keeps_setFld (Keeps.lit (.upd fun _ => by omega) id id id hk))).next <| KeepsO.ite (keeps_endCmd (Keeps.lit (.refl _) id id id hk)).next <|
    KeepsO.ite (keeps_endCmd (keeps_formeStored hk)).next <| KeepsO.ite (keeps_endCmd (Keeps.lit (.upd id) id id id hk)).next <|
    KeepsO.ite (Keeps.ite (hd _) hk).next <| KeepsO.ite (keeps_offsetSlewEnd hk).next <|
    KeepsO.ite (keeps_sdpImportEnd hk).next <| KeepsO.ite (keeps_marchEnd hk).next hk.next

theorem keeps_execCommandBoundTimeout {s0 : State} {ch tag : ℕ} {s : State} (hk : Keeps s0 s) :
    KeepsO s0 (execCommandBoundTimeout ch tag s) := by
  unfold execCommandBoundTimeout
  repeat' (first | with_reducible assumption | with_reducible apply Keeps.next | with_reducible apply Keeps.ite
                   | with_reducible apply KeepsO.ite | with_reducible apply keeps_dropCmd | split)

end Sys2Proof.Machine
end

