-- ==== Sys2Proof/Laws/KeepsDx.lean ====
section
/-! SUPPORT. Every definition of Machine/Dx.lean that answers a state keeps what Keeps names: the waiting commands,
the boot flash and the canonical form of the stores. -/

set_option linter.all false

namespace Sys2Proof.Machine

theorem keeps_dxWrite {s0 s : State} {a v : ℕ} (hk : Keeps s0 s) :
    Keeps s0 (dxWrite s a v) := by
  unfold dxWrite
  dsimp only
  repeat' (first | assumption | apply Keeps.ite | apply keeps_idle | apply keeps_setDx | apply keeps_setFld
                   | apply keeps_setDxr | apply keeps_count | split)

theorem keeps_dxRead {s0 s : State} {a : ℕ} (hk : Keeps s0 s) :
    Keeps s0 (dxRead s a).2 := by
  unfold dxRead
  dsimp only
  repeat' (first | assumption | apply Keeps.ite | apply Keeps.ite2 | apply keeps_setDx)

theorem keeps_dxBadFrame {s0 s : State} (hk : Keeps s0 s) :
    Keeps s0 (dxBadFrame s) := by
  unfold dxBadFrame
  dsimp only
  repeat' (first | assumption | apply Keeps.ite | apply keeps_count | apply keeps_setFld)

theorem keeps_dxReads {s0 : State} {x1 : ℕ} {x2 : Bool} {x3 : ℕ} {x4 : State} (hk : Keeps s0 x4) :
    Keeps s0 (dxReads x1 x2 x3 x4).2 := by
  induction x1 generalizing x2 x3 x4 with
  | zero =>
    unfold dxReads
    try dsimp -zeta only
    repeat' (first
      | with_reducible assumption)
  | succ n_ ih =>
    unfold dxReads
    try dsimp -zeta only
    repeat' (first
      | (extract_lets +onlyGivenNames x; first
        | (have hx : Keeps s0 x := by
            repeat' (first
              | (extract_lets +onlyGivenNames y) | with_reducible apply ih | with_reducible assumption
              | with_reducible apply Keeps.ite | with_reducible apply Keeps.ite2 | with_reducible apply keeps_dxRead
              | (refine Keeps.of_snd (keeps_dxRead ?_) ‹_ = (_, _)›) | split
              | with_reducible refine Keeps.lit (FlashKeeps.refl _) ?_ ?_ ?_ ?_ | with_reducible exact id
              | with_reducible exact memWf_write _ _ _ | with_reducible exact sWf_drop _ _ _ | (intro _ hw; exact hw)
              | (intro _ hw; exact memWf_write _ _ _ hw) | exact fun _ => rfl | (intro _ _; rfl) | (intro _ _ hx)
              | (intro _ hx))
           clear_value x)
        | (have hx := List.length x; clear hx; clear_value x)
        | skip)
      | with_reducible apply ih | with_reducible assumption | with_reducible apply Keeps.ite
      | with_reducible apply Keeps.ite2 | with_reducible apply keeps_dxRead)

theorem keeps_dxWrites {s0 s : State} {n : Nat} {inc : Bool} {a : Nat} {b : List Byte} (hk : Keeps s0 s) :
    Keeps s0 (dxWrites n inc a b s) := by
  induction n generalizing a b s with
  | zero => exact hk
  | succ n ih => exact ih (keeps_dxWrite hk)

theorem keeps_execDxSpiFrame {s0 : State} {mosi : List Byte} {bits_ : Bool} {s : State} (hk : Keeps s0 s) :
    KeepsO s0 (execDxSpiFrame mosi bits_ s) := by
  unfold execDxSpiFrame
  dsimp only
  repeat' (first | with_reducible assumption | with_reducible apply Keeps.next | with_reducible apply Keeps.ite
                   | with_reducible apply KeepsO.ite | with_reducible apply keeps_emit
                   | with_reducible apply keeps_dxBadFrame | with_reducible apply keeps_dxReads
                   | with_reducible apply keeps_dxWrites)

theorem keeps_dxPtiApply {s0 s : State} (hk : Keeps s0 s) :
    Keeps s0 (dxPtiApply s) := by
  unfold dxPtiApply
  dsimp only
  repeat' (first | with_reducible assumption | with_reducible apply Keeps.ite | with_reducible apply keeps_strobe
                   | with_reducible apply keeps_fwWrite)

theorem keeps_dxMcsApply {s0 s : State} (hk : Keeps s0 s) :
    Keeps s0 (dxMcsApply s) := by
  unfold dxMcsApply
  dsimp only
  repeat' (first | with_reducible assumption | with_reducible apply Keeps.ite | with_reducible apply keeps_strobe
                   | with_reducible apply keeps_fwWrite)

theorem keeps_dxPortApply {s0 s : State} (hk : Keeps s0 s) :
    Keeps s0 (dxPortApply s) := by
  unfold dxPortApply
  dsimp only
  repeat' (first | with_reducible assumption | with_reducible apply Keeps.ite | with_reducible apply keeps_applyGroup
                   | with_reducible apply keeps_strobe | with_reducible apply keeps_fwWrite)

theorem keeps_dxRxCreate {s0 s : State} {f : Nat} (hk : Keeps s0 s) : KeepsP s0 (dxRxCreate s f) := by
  unfold dxRxCreate
  extract_lets p q l u
  have h0 : Keeps s0 u := keeps_qCfgWrite hk
  clear_value u
  refine KeepsP.bind (keeps_reserve h0) fun x hx => KeepsP.bind (keeps_placeKey hx) fun y hy => ?_
  extract_lets z
  have h3 : Keeps s0 z := keeps_applyGroup (keeps_strobe (keeps_fwWrite (keeps_fwWrites hy)))
  clear_value z
  exact KeepsP.ite KeepsP.none (keeps_emit h3).some

theorem keeps_dxRxStop {s0 s : State} {f : ℕ} (hk : Keeps s0 s) :
    Keeps s0 (dxRxStop s f) := by
  unfold dxRxStop
  dsimp only
  repeat' (first | with_reducible assumption | with_reducible apply keeps_applyGroup
                   | with_reducible apply keeps_strobe | with_reducible apply keeps_fwWrite
                   | with_reducible apply keeps_dropPathKeys | with_reducible apply keeps_qResWrite
                   | with_reducible apply keeps_setDxr)

theorem keeps_dxTxCreate {s0 s : State} {f : ℕ} (hk : Keeps s0 s) :
    KeepsP s0 (dxTxCreate s f) := by
  unfold dxTxCreate
  try dsimp -zeta only
  repeat' (first
    | (extract_lets +onlyGivenNames x; first
      | (have hx : Keeps s0 x := by
          repeat' (first
            | (extract_lets +onlyGivenNames y) | with_reducible assumption | with_reducible apply Keeps.some
            | with_reducible apply KeepsP.none | with_reducible apply Keeps.ite | with_reducible apply KeepsP.ite
            | with_reducible apply keeps_qCfgWrite | with_reducible apply keeps_tryOut
            | with_reducible apply keeps_reserve | with_reducible apply keeps_qCapWrite
            | with_reducible apply keeps_applyGroup | with_reducible apply keeps_strobe
            | with_reducible apply keeps_fwWrite | with_reducible apply keeps_fwWrites
            | (refine (keeps_reserve ?_).some _ ‹_ = some _›) | split
            | with_reducible refine Keeps.lit (FlashKeeps.refl _) ?_ ?_ ?_ ?_ | with_reducible exact id)
         clear_value x)
      | (have hx := List.length x; clear hx; clear_value x)
      | skip)
    | with_reducible assumption | with_reducible apply Keeps.some | with_reducible apply KeepsP.none
    | with_reducible apply Keeps.ite | with_reducible apply KeepsP.ite | with_reducible apply keeps_qCfgWrite
    | with_reducible apply keeps_tryOut | with_reducible apply keeps_reserve | with_reducible apply keeps_qCapWrite
    | with_reducible apply keeps_applyGroup | with_reducible apply keeps_strobe | with_reducible apply keeps_fwWrite
    | with_reducible apply keeps_fwWrites | (refine (keeps_reserve ?_).some _ ‹_ = some _›) | split)

theorem keeps_dxTxStop {s0 s : State} {f : ℕ} (hk : Keeps s0 s) :
    Keeps s0 (dxTxStop s f) := by
  unfold dxTxStop
  dsimp only
  repeat' (first | assumption | apply keeps_qResWrite | apply keeps_applyGroup | apply keeps_strobe
                   | apply keeps_fwWrite)

theorem keeps_dxFailed {s0 s : State} {i : ℕ} (hk : Keeps s0 s) :
    Keeps s0 (dxFailed s i) := by
  unfold dxFailed
  repeat' (first | assumption | apply keeps_setDxr)

theorem keeps_dxFlow1 {s0 s : State} {i : Nat} (hk : Keeps s0 s) : Keeps s0 (dxFlow1 s i) := by
  unfold dxFlow1
  extract_lets rx f c on touched stop u
  have hs : ∀ x, Keeps s0 x → Keeps s0 (stop x) := fun x h => Keeps.ite (keeps_dxRxStop h) (keeps_dxTxStop h)
  have hu : Keeps s0 u := Keeps.ite (hs _ hk) hk
  clear_value stop u
  refine Keeps.ite (Keeps.ite (hs _ hk) hk) (Keeps.ite hk ?_)
  have h : KeepsP s0 (if rx then dxRxCreate u f else dxTxCreate u f) := KeepsP.ite (keeps_dxRxCreate hu) (keeps_dxTxCreate hu)
  split
  · exact h.some _ ‹_›
  · exact keeps_dxFailed hk

theorem keeps_dxDir1 {s0 s : State} {d : ℕ × Bool} (hk : Keeps s0 s) :
    Keeps s0 (dxDir1 s d) := by
  unfold dxDir1
  dsimp only
  repeat' (first | with_reducible assumption | with_reducible apply Keeps.ite | with_reducible apply keeps_cmdWrite
                   | with_reducible apply keeps_applyGroup | with_reducible apply keeps_strobe
                   | with_reducible apply keeps_fwWrites)

theorem keeps_dxTdmStart {s0 s : State} (hk : Keeps s0 s) :
    Keeps s0 (dxTdmStart s) := by
  unfold dxTdmStart
  dsimp only
  repeat' (first | with_reducible assumption | with_reducible apply Keeps.ite | with_reducible apply keeps_count
                   | with_reducible apply keeps_cmdWrite | with_reducible apply keeps_dxFailed
                   | with_reducible apply keeps_firePlaten | with_reducible apply Keeps.foldl | (intro _ _ _) | split)

theorem keeps_dxRoutes {s0 s : State} (hk : Keeps s0 s) :
    Keeps s0 (dxRoutes s) := by
  unfold dxRoutes
  dsimp only
  repeat' (first | with_reducible assumption | with_reducible apply Keeps.ite | with_reducible apply keeps_strobe
                   | with_reducible apply keeps_impWrite | with_reducible apply Keeps.foldl | (intro _ _ _))

theorem keeps_dxApply {s0 s : State} (hk : Keeps s0 s) :
    Keeps s0 (dxApply s) := by
  unfold dxApply
  dsimp only
  repeat' (first | with_reducible assumption | with_reducible apply Keeps.ite | with_reducible apply keeps_setDxr
                   | with_reducible apply keeps_count | with_reducible apply keeps_dxMcsApply
                   | with_reducible apply keeps_dxPtiApply | with_reducible apply keeps_dxPortApply
                   | with_reducible apply keeps_dxFlow1 | with_reducible apply keeps_dxTdmStart
                   | with_reducible apply keeps_dxDir1 | with_reducible apply keeps_dxRoutes
                   | with_reducible apply Keeps.foldl)

theorem keeps_dxSnapshot {s0 s : State} (hk : Keeps s0 s) :
    Keeps s0 (dxSnapshot s) := by
  unfold dxSnapshot
  dsimp only
  repeat' (first | with_reducible assumption | with_reducible apply Keeps.ite | with_reducible apply keeps_setDxr
                   | with_reducible apply keeps_count | with_reducible apply keeps_setDx
                   | with_reducible apply keeps_dxRaise | with_reducible apply Keeps.foldl | (intro _ _ _))

theorem keeps_dxRefresh {s0 s : State} (hk : Keeps s0 s) :
    Keeps s0 (dxRefresh s) := by
  unfold dxRefresh
  repeat' (first | assumption | apply keeps_dxSnapshot | apply keeps_dxApply | apply keeps_setDxr)

theorem keeps_execDxRefresh {s0 : State} {csLow : Bool} {s : State} (hk : Keeps s0 s) :
    KeepsO s0 (execDxRefresh csLow s) := by
  unfold execDxRefresh
  dsimp only
  repeat' (first | with_reducible assumption | with_reducible apply Keeps.next | with_reducible apply Keeps.ite
                   | with_reducible apply KeepsO.ite | with_reducible apply keeps_setDxr
                   | with_reducible apply keeps_count | with_reducible apply keeps_dxRefresh
                   | with_reducible apply keeps_setFld)

theorem keeps_execDxRefreshDeferred {s0 s : State} (hk : Keeps s0 s) :
    KeepsO s0 (execDxRefreshDeferred s) := by
  unfold execDxRefreshDeferred
  repeat' (first | with_reducible assumption | with_reducible apply Keeps.next | with_reducible apply Keeps.ite
                   | with_reducible apply KeepsO.ite | with_reducible apply keeps_dxRefresh)

theorem keeps_execDxSoftReset {s0 s : State} (hk : Keeps s0 s) :
    KeepsO s0 (execDxSoftReset s) := by
  unfold execDxSoftReset
  dsimp only
  repeat' (first | with_reducible assumption | with_reducible apply Keeps.next | with_reducible apply Keeps.ite
                   | with_reducible apply KeepsO.ite | with_reducible apply keeps_count
                   | with_reducible apply keeps_dxRxStop | with_reducible apply keeps_dxTxStop
                   | with_reducible apply keeps_cmdWrite | with_reducible apply keeps_setDxr
                   | with_reducible apply Keeps.foldl | (intro _ _ _))

theorem keeps_execDxDiscoveryQuery {s0 : State} {bytes : List Byte} {s : State} (hk : Keeps s0 s) :
    KeepsO s0 (execDxDiscoveryQuery bytes s) := by
  unfold execDxDiscoveryQuery
  repeat' (first | assumption | apply Keeps.next | apply Keeps.ite | apply KeepsO.ite | apply keeps_emit)

theorem keeps_execDxSapAnnounce {s0 : State} {f : ℕ} {s : State} (hk : Keeps s0 s) :
    KeepsO s0 (execDxSapAnnounce f s) := by
  unfold execDxSapAnnounce
  repeat' (first | assumption | apply Keeps.next | apply Keeps.ite | apply KeepsO.ite | apply keeps_emit
                   | refine Keeps.lit (FlashKeeps.refl _) ?_ ?_ ?_ ?_ | exact id)

theorem keeps_execDxStatus {s0 : State} {ch tag : ℕ} {s : State} (hk : Keeps s0 s) :
    KeepsO s0 (execDxStatus ch tag s) := by
  unfold execDxStatus
  try dsimp -zeta only
  repeat' (first
    | with_reducible assumption | with_reducible apply Keeps.next | with_reducible apply KeepsO.fault
    | with_reducible apply Keeps.ite | with_reducible apply KeepsO.ite | with_reducible apply keeps_runCmd
    | (refine (keeps_runCmd ?_).next _ ‹_ = Host.Outcome.next _›) | split
    | with_reducible refine Keeps.lit (FlashKeeps.refl _) ?_ ?_ ?_ ?_ | with_reducible exact id
    | with_reducible exact memWf_write _ _ _ | with_reducible exact sWf_drop _ _ _ | (intro _ hw; exact hw)
    | (intro _ hw; exact memWf_write _ _ _ hw) | exact fun _ => rfl | (intro _ _; rfl) | (intro _ _ hx))

theorem keeps_execDxRead {s0 : State} {ch tag : ℕ} {s : State} (hk : Keeps s0 s) :
    KeepsO s0 (execDxRead ch tag s) := by
  unfold execDxRead
  try dsimp -zeta only
  repeat' (first
    | with_reducible assumption | with_reducible apply Keeps.next | with_reducible apply KeepsO.fault
    | with_reducible apply Keeps.ite | with_reducible apply KeepsO.ite | with_reducible apply keeps_runCmd
    | with_reducible apply keeps_refuse | (refine (keeps_runCmd ?_).next _ ‹_ = Host.Outcome.next _›) | split
    | with_reducible refine Keeps.lit (FlashKeeps.refl _) ?_ ?_ ?_ ?_ | with_reducible exact id
    | with_reducible exact memWf_write _ _ _ | with_reducible exact sWf_drop _ _ _ | (intro _ hw; exact hw)
    | (intro _ hw; exact memWf_write _ _ _ hw) | exact fun _ => rfl | (intro _ _; rfl) | (intro _ _ hx))

end Sys2Proof.Machine
end

