-- ==== Sys2Proof/Laws/KeepsIdle.lean ====
section
/-! SUPPORT. Every definition of Machine/Idle.lean that answers a state keeps what Keeps names: the waiting commands,
the boot flash and the canonical form of the stores. -/

set_option linter.all false

namespace Sys2Proof.Machine

theorem keeps_ckTime {s0 s : State} (hk : Keeps s0 s) :
    Keeps s0 (ckTime s) := by
  unfold ckTime
  repeat' (first | with_reducible assumption | with_reducible apply keeps_timeTick
                   | with_reducible refine Keeps.lit (FlashKeeps.refl _) ?_ ?_ ?_ ?_ | exact id)

theorem keeps_ckTimes {s0 : State} {x1 : ℕ} {x2 : State} (hk : Keeps s0 x2) :
    Keeps s0 (ckTimes x1 x2) := by
  induction x1 generalizing x2 with
  | zero =>
    unfold ckTimes
    try dsimp -zeta only
    repeat' (first
      | with_reducible assumption)
  | succ n_ ih =>
    unfold ckTimes
    try dsimp -zeta only
    repeat' (first
      | with_reducible apply ih | with_reducible assumption | with_reducible apply Keeps.ite
      | with_reducible apply keeps_ckTime)

theorem keeps_takeRelease {s0 s : State} (hk : Keeps s0 s) :
    Keeps s0 (takeRelease s) := by
  unfold takeRelease
  repeat' (first | assumption | apply Keeps.ite | refine Keeps.lit (FlashKeeps.refl _) ?_ ?_ ?_ ?_ | exact id)

theorem keeps_ckAon {s0 s : State} (hk : Keeps s0 s) :
    Keeps s0 (ckAon s) := by
  unfold ckAon
  dsimp only
  repeat' (first | assumption | apply Keeps.ite | apply keeps_slowTick
                   | refine Keeps.lit (FlashKeeps.refl _) ?_ ?_ ?_ ?_ | exact id)

theorem keeps_dozeTake {s0 s : State} (hk : Keeps s0 s) :
    Keeps s0 (dozeTake s) := by
  unfold dozeTake
  repeat' (first | assumption | apply Keeps.ite | split | refine Keeps.lit (FlashKeeps.refl _) ?_ ?_ ?_ ?_ | exact id
                   | (exact fun _ => rfl))

theorem keeps_lanesSettle {s0 s : State} (hk : Keeps s0 s) :
    Keeps s0 (lanesSettle s) := by
  unfold lanesSettle
  repeat' (first | with_reducible assumption | with_reducible apply Keeps.ite | with_reducible apply keeps_laneSettle
                   | with_reducible apply Keeps.foldl | (intro _ _ _)
                   | with_reducible refine Keeps.lit (FlashKeeps.refl _) ?_ ?_ ?_ ?_ | exact id)

theorem keeps_idle {s0 s : State} (hk : Keeps s0 s) :
    Keeps s0 (idle s) := by
  unfold idle
  dsimp only
  repeat' (first | with_reducible assumption | with_reducible apply Keeps.ite | with_reducible apply keeps_ckAon
                   | with_reducible apply keeps_ckTimes | with_reducible apply keeps_irqTick
                   | with_reducible apply keeps_irqLines | with_reducible apply keeps_lanesSettle
                   | with_reducible apply keeps_marksSettle | with_reducible apply keeps_dozeTake
                   | with_reducible apply keeps_takeRelease
                   | with_reducible refine Keeps.lit (FlashKeeps.refl _) ?_ ?_ ?_ ?_ | exact id)

end Sys2Proof.Machine
end

