-- ==== Sys2Proof/Machine/Pads.lean ====
section
/-! DEFINITION. What every pin group shows (R36, R43, R44, R48, R56, R232, R436, R442): a view of the state, since a pin's level
and pulls follow from the supply, the reset and the block that owns it. -/

namespace Sys2Proof.Machine

/-- What a pad does (R56). -/
inductive Pad where
  /-- No supply, or unpowered with its domain. -/
  | unpowered
  /-- High impedance, with no pull, a pull-down or a pull-up of 50 kOhm. -/
  | highZ | highZDown | highZUp
  /-- An input, with no pull, a pull-down or a pull-up. -/
  | input | inputDown | inputUp
  /-- Driven low, driven high, and driven by its function. -/
  | low | high | driven
  /-- Open drain: released, and driven low. -/
  | released | sunk
  /-- The VID code (R44). -/
  | code (n : Nat)
  /-- A serial transmitter in electrical idle, a receiver with its 100 Ohm termination, PCIe under PERST_N or running. -/
  | idle | terminated | pcieReset
  deriving DecidableEq, Repr

/-- The pin groups of R56; a TDM pin is named by its port and its place in the group of R35. -/
inductive PadGroup where
  | tdm (port pin : Nat)
  | laneTx (lane : Nat) | laneRx (lane : Nat)
  | pcie | perst | wclkIn | ppsIn | pcieWake
  | wclkOut | ppsOut | mclk (k : Nat)
  | mgmtOut | mgmtIn | mdio | mgmtInt
  | ctlSck | ctlMosi | ctlCs | ctlMiso
  | qspiClk | qspiCs | qspiData
  | gpio (k : Nat)
  | jtagTck | jtagTrst | jtagTms | jtagTdi | jtagTdo
  | irqN | twinFail | twinTake
  | vid | pwrCoreEn | sramRet | strap (k : Nat)
  deriving DecidableEq, Repr

/-- The switched rails are off on the way into, in or on the way out of SLEEP or SLEEP-R. -/
def padsAsleep (s : State) : Bool := !s.pins.pwrCoreEn && (s.pstate == 2 || s.pstate == 3 || s.pstate == 10)

/-- The device is held as during reset (R43, R56): until the straps are sampled, and between attempts to start. -/
def padsReset (s : State) : Bool := (s.pwr.starting || !s.pins.pwrCoreEn) && !padsAsleep s

/-- A TDM pin that the device drives now (R232, R237, R401, R434): an output of a running direction, neither tripped nor, of a
transmit direction, held released. -/
def tdmPinDriven (s : State) (p pin : Nat) : Bool :=
  pinOut s p pin && dirDrives s p (pinRx pin) && !tripped s p pin && !(decide (pin < 3) && sharedPort s p)

/-- An open-drain pin. -/
def openDrain (low : Bool) : Pad := if low then .sunk else .released

/-- An output of the TIO bank: high impedance with its pull-down while a rail is off or the guard has released it (R48, R442). -/
def tioPad (s : State) (pin : Nat) (high running : Bool) : Pad :=
  if padsAsleep s || nbit (s.fld R.GRD.TIO_STAT.TRIPPED) pin then .highZDown
  else if padsReset s then .low
  else if running then .driven
  else if high then .high
  else .low

/-- What a pin group shows between commands (log 90). -/
def padOf (s : State) (g : PadGroup) : Pad :=
  let asleep := padsAsleep s
  let rst := padsReset s
  if !s.pwr.dom.getD 0 false then .unpowered
  else
    match g with
    | .tdm p pin => if asleep || rst || !tdmPinDriven s p pin then .highZDown else .driven
    | .laneTx l => if asleep then .unpowered else if rst || !s.domOn ([5, 6, 7, 7, 7, 7].getD l 7) then .idle else .driven
    | .laneRx _ => if asleep then .unpowered else .terminated
    | .pcie => if asleep then .unpowered else if rst || s.pins.perst || s.pers == 1 then .pcieReset else .driven
    | .perst => .inputDown
    | .wclkIn => .inputDown
    | .ppsIn => .inputDown
    | .pcieWake => openDrain s.pins.wakeLow
    | .wclkOut => tioPad s 1 false (s.pins.clkOut.getD 0 none).isSome
    | .ppsOut => tioPad s 3 s.pins.ppsHigh false
    | .mclk k => tioPad s (4 + k) false (s.pins.clkOut.getD (1 + k) none).isSome
    | .mgmtOut => if asleep || rst || s.fld (R.NET.STAT.STATE 2) == 0 then .low else .driven
    | .mgmtIn => .inputDown
    | .mdio => .inputUp
    | .mgmtInt => .inputUp
    | .ctlSck => .input
    | .ctlMosi => .input
    | .ctlCs => .inputUp
    | .ctlMiso => .highZ
    | .qspiClk => if asleep then .highZDown else .low
    | .qspiCs => if asleep then .highZUp else .high
    | .qspiData => .inputUp
    | .gpio _ => .inputDown
    | .jtagTck => .inputDown
    | .jtagTrst => .inputDown
    | .jtagTms => .inputUp
    | .jtagTdi => .inputUp
    | .jtagTdo => .highZ
    | .irqN => openDrain s.pins.irqLow
    | .twinFail => openDrain s.pins.twinFailLow
    | .twinTake => openDrain s.pins.twinTakeLow
    | .vid => match s.pins.vid with
      | some n => .code n
      | none => .highZDown
    | .pwrCoreEn => if s.pins.pwrCoreEn then .high else .low
    | .sramRet => if s.pins.sramRet then .high else .low
    | .strap _ => .inputDown

end Sys2Proof.Machine
end

