-- ==== Sys2Proof/Tests/Slice0.lean ====
section
/-! SUPPORT. Tests of the model. For every statement, states and operands that meet the hypotheses of its clauses, with what the
clause says of them; well-formed and ill-formed commands; the boot from reset. Expected values come from the spec's rules. -/

open Sys2Proof Sys2Proof.Machine


namespace Sys2Proof.Tests

set_option maxRecDepth 100000
-- one theorem at a time: the kernel checks are large
set_option Elab.async false

/-- A command ends in a next state that passes a check. -/
def nxt (c : Instr) (s : State) (p : State → Bool) : Bool :=
  match exec c s with
  | .next t => p t
  | _ => false

/-- A command changes nothing. -/
def same (c : Instr) (s : State) : Bool := nxt c s (· == s)

/-- Outside some fields, no register listed before or after differs. -/
def only (l : List Fld) (s t : State) : Bool :=
  ((s.rf.map Prod.fst) ++ (t.rf.map Prod.fst)).all fun k => t.rd k &&& ~~~fldMask l k == s.rd k &&& ~~~fldMask l k

/-- Every check of a list holds. -/
def all (l : List Bool) : Bool := l.all id

/-- The device right after reset, with every domain on and its clocks running. -/
def up : State :=
  { State.reset with
    pwr := { State.reset.pwr with dom := List.replicate 12 true, starting := false, xtalTicks := true }
    pins := { State.reset.pins with pwrCoreEn := true }
    rf := sPut regDefault (sPut regDefault State.reset.rf R.PWR.STATE.reg (R.PWR.STATE.XTAL_OK.ins 1 (regDefault R.PWR.STATE.reg)))
      R.CLK.PLL_STAT.reg (R.CLK.PLL_STAT.SYS_LOCK.ins 1 (R.CLK.PLL_STAT.REF_LOCK.ins 1 0)) }

/-- The device in SERVICE with its firmware running. -/
def srv : State := up.setFlds [(R.SYS.PHASE.PHASE_F, 1), (R.MBX.STAT.FW_READY, 1)]

/-- MCS `n` locked. -/
def locked (s : State) (n : Nat) : State :=
  (s.setFlds [(R.CLK.MCS_CFG.EN n, 1), (R.CLK.MCS_STAT.STATE n, mcsLocked)]).setMcs n { s.mcs n with locked := true }

/-- A state of the power controller. -/
def inPower (s : State) (st : Nat) : State := s.setFld R.PWR.STATE.STATE_F st

theorem witness_supply_start : all [
    nxt (.aonResetRelease 1800 3300 3300 2500 3300) { up with pwr := { up.pwr with dom := List.replicate 12 false } } fun t =>
      t.pwr.rcTimer && t.pwr.attempts == 0 && t.pins.banks == [1800, 3300, 3300, 2500, 3300] && t.pwr.dom.getD 0 false,
    nxt .pwrCoreEnRise { up with pwr := { up.pwr with rcTimer := true, dom := aonOnly } } fun t =>
      t.pwr.starting && !t.pwr.rcTimer && t.pins.pwrCoreEn && t.pwr.dom.getD 8 false && !t.pwr.dom.getD 7 false,
    nxt .railRetry { up with pwr := { up.pwr with retryWait := true, attempts := 1 } } fun t => t.pwr.starting && t.pwr.attempts == 1 &&
      t.pins.vid == some 20,
    nxt .railTimeout { up with pwr := { up.pwr with starting := true, attempts := 1 } } fun t =>
      t.pwr.attempts == 2 && t.pwr.retryWait && t.pwr.railCopy && !t.pins.pwrCoreEn,
    nxt .railTimeout { up with pwr := { up.pwr with starting := true, attempts := 2 } } fun t =>
      t.pwr.attempts == 3 && !t.pwr.retryWait] = true := by decide +kernel

theorem witness_whole_reset :
    let s := { srv with pwr := { srv.pwr with resetDue := true }, flash := { srv.flash with serial := 5 }, pending := [.xtalQualified] }
    all [
      nxt (.resetNPulse 1000) s fun t => t.flash.serial == 5 && t.pending == [.xtalQualified] && t.pwr.starting && t.phase == 0 &&
        t.fld R.PWR.STATE.XTAL_OK == 1,
      nxt .sysResetExecute s fun t => t.flash.serial == 5 && t.pwr.starting && t.phase == 0,
      nxt .supplyLoss s fun t => t.flash.serial == 5 && !t.pins.pwrCoreEn && !t.domOn 0 && t.pending == [.xtalQualified]] = true := by
  decide +kernel

theorem witness_forbidden_pulse : exec (.resetNPulse 250) up = .fault .resetPulseForbidden ∧
    exec (.resetNPulse 999) up = .fault .resetPulseForbidden ∧ same (.resetNPulse 249) up = true := by
  refine ⟨rfl, rfl, by decide +kernel⟩

theorem witness_straps :
    let s := { up with pwr := { up.pwr with starting := true, attempts := 2 } }
    all [
      nxt (.strapSample 0x0A9) s fun t => t.pers == 1 && t.phase == 3 && t.fld R.SYS.PHASE.REASON == 2 && t.fld R.HST.CTL_CFG.I2C == 1,
      nxt (.strapSample 0x060) s fun t => t.phase == 3 && t.fld R.SYS.PHASE.REASON == 1,
      nxt (.strapSample 0x01D) s fun t => t.phase == 0 && t.fld R.SYS.STRAPS.LIVE == 0x1D && t.fld R.STK.ID.POSITION == 7 &&
        t.fld R.SYS.STRAPS.FORME == 1 && t.pwr.attempts == 0,
      comboBad 0x0A9, !comboBad 0x01D,
      nxt (.strapCompare 1023) up fun t => t.fld R.SYS.STRAPS.LIVE == 1023 && t.fld R.SYS.STRAPS.CHANGED == 1 &&
        only [R.SYS.STRAPS.LIVE, R.SYS.STRAPS.CHANGED] up t,
      nxt (.strapCompare 0) up fun t => t.fld R.SYS.STRAPS.LIVE == 0 && t.fld R.SYS.STRAPS.CHANGED == 0] = true := by decide +kernel

/-- No oscillator tick yet. -/
def noXtal : State := { up with pwr := { up.pwr with xtalTicks := false } }

/-- An identity record. -/
def known : State := { up with flash := { up.flash with serial := 0x12345, macs := [1, 2, 0x70003] } }

theorem witness_crystal_pll : all [
    nxt .xtalQualified noXtal fun t => t.pwr.xtalTicks && t.fld R.PWR.STATE.XTAL_OK == 1,
    nxt .xtalFailTimeout noXtal fun t => t.fld R.PWR.FAULT.XTAL_FAIL == 1 && only [R.PWR.FAULT.XTAL_FAIL] noXtal t,
    nxt .refPllLock { up with pwr := { up.pwr with handover := true } } fun t => t.fld R.CLK.PLL_STAT.REF_LOCK == 1 && t.pwr.handbackDue,
    nxt .sysPllLock (srv.setFlds [(R.CLK.PLL_STAT.SYS_LOCK, 0), (R.CLK.PLL_STAT.CORE_SLOW, 1)]) fun t =>
      t.fld R.CLK.PLL_STAT.SYS_LOCK == 1 && t.fld R.CLK.PLL_STAT.CORE_SLOW == 0 && t.dx == srv.dx,
    nxt .sysPllLock (inPower (srv.setFld R.CLK.PLL_STAT.CORE_SLOW 1) 10) fun t => t.fld R.CLK.PLL_STAT.CORE_SLOW == 1,
    nxt .sysPllLock known fun t => t.dxCell 3 == 0x2345,
    nxt .sysPllLock known fun t => t.dxCell 8 == 3,
    nxt .sysPllLock known fun t => t.fld (R.NET.MAC_LO.ADDR 0) == 1,
    nxt (.pllLossOfLock true) srv fun t => t.fld R.CLK.PLL_STAT.SYS_LOSS == 1 && t.fld R.CLK.PLL_STAT.SYS_LOCK == 0 &&
      only [R.CLK.PLL_STAT.SYS_LOCK, R.CLK.PLL_STAT.SYS_LOSS] srv t,
    nxt (.pllLossOfLock false) (locked srv 7) fun t => t.fld R.CLK.PLL_STAT.REF_LOSS == 1 && t.mcsState 7 == mcsHold &&
      t.fld (R.CLK.MCS_STAT.HOLD_EV 7) == 1] = true := by decide +kernel
/-- NETB off, with and without a saved image. -/
def offB : State := { srv with pwr := { srv.pwr with dom := modifyAt srv.pwr.dom 6 fun _ => false } }
def savedB : State := { offB with pwr := { offB.pwr with retention := [⟨6, [(R.NET.CFG.reg 1, 5#32)], 0⟩] } }

theorem witness_demand_domains : all [
    srv.pstate == 0, !demandBusy srv 3, !demandBusy srv 10,
    nxt (.domainPowerOff 3) srv fun t => !t.domOn 3 && t.pwr.retention.any fun i => i.domain == 3,
    nxt (.domainPowerOff 10) (srv.setFld (R.TDM.TX_FRAME.SLOTS 15) 8) fun t => !t.domOn 10 &&
      (t.pwr.retention.any fun i => i.domain == 10) && t.rd (R.TDM.TX_FRAME.SLOTS 15).key == regDefault (R.TDM.TX_FRAME.SLOTS 15).key,
    nxt (.domainPowerUp 6 false) offB fun t => t.pwr.dom.getD 6 false && t.pwr.retention == [],
    !entryKeeps (inPower srv 9) 1,
    nxt (.domainPowerOff 1) (inPower srv 9) fun t => !t.domOn 1 && t.pwr.retention.any fun i => i.domain == 1,
    nxt (.domainPowerOff 4) (inPower srv 8) fun t => !t.domOn 4 && t.pwr.retention.any fun i => i.domain == 4,
    nxt (.domainPowerUp 6 false) savedB fun t => t.domOn 6 && t.pwr.retention == [] && t.rd (R.NET.CFG.reg 1) == 5#32,
    nxt (.domainPowerUp 6 true) savedB fun t => t.pwr.isolated.getD 6 false && !t.domOn 6 && t.phase == 3 &&
      t.fld R.SYS.PHASE.REASON == 3 && t.fld R.PWR.FAULT.RESTORE_CRC == 1] = true := by decide +kernel

/-- DOZE with every latch armed for rising edges, the port SPI. -/
def dozing : State := inPower (srv.setFlds [(R.PWR.WL_CFG.EN, 0xFFFF), (R.PWR.WL_CFG.EDGE, 0xFFFF)]) 1
def dozingI2c : State := dozing.setFld R.SYS.STRAPS.CTL_SEL 1
def alarmed : State := { dozing.setFlds [(R.PWR.ALARM.TICKS, 9), (R.PWR.STATE.XTAL_OK, 1)] with pwr := { dozing.pwr with slowTicks := 2 ^ 32 + 9 } }

theorem witness_latches : all [
    nxt (.wakeLatchEdge 0 true 50 false false) dozing fun t => t.pstate == 10 && t.fld R.PWR.STATE.LAST_WAKE == 0 && t.fld R.PWR.STATE.PREV == 1,
    nxt (.wakeLatchEdge 1 true 50 false false) dozing fun t => t.pstate == 10 && t.fld R.PWR.STATE.LAST_WAKE == 1,
    nxt (.wakeLatchEdge 15 true 50 false false) dozingI2c fun t => t.fld R.PWR.STATE.LAST_WAKE == 15 && t.pwr.from_ == 1 &&
      nbit (t.fld R.PWR.WL_STAT.LATCHED) 15,
    !drivesPin dozing 2, same (.wakeLatchEdge 13 true 9 false false) dozing,
    nxt (.slowCounterAlarm false) alarmed fun t => t.pstate == 10 && t.fld R.PWR.STATE.LAST_WAKE == 14 &&
      nbit (t.fld R.PWR.WL_STAT.LATCHED) 14] = true := by decide +kernel

/-- SLEEP in its minimum off time, with a wake held. -/
def asleep : State :=
  let s := inPower srv 3
  { s with pwr := { s.pwr with minOff := true, wakeHeld := true }, pins := { s.pins with sramRet := true, pwrCoreEn := false } }
def asleepQuiet : State := { asleep with pwr := { asleep.pwr with wakeHeld := false } }
def rising : State := { asleep with pwr := { asleep.pwr with retFall := true } }
/-- A reset pulse has ended the sleep, whose minimum off time still runs. -/
def resetAsleep : State := { asleep with pwr := { asleep.pwr with wakeHeld := false, starting := true } }
def stuckRails : State :=
  let s := inPower up 10
  { s with pwr := { s.pwr with from_ := 3, dom := aonOnly } }

theorem witness_wake_from_sleep : all [
    nxt .minOffTimeExpiry asleep fun t => t.pstate == 10 && t.fld R.PWR.STATE.PREV == 3 && !t.pins.sramRet && t.pins.vid == some 20 &&
      t.pwr.retFall && t.pwr.from_ == 3,
    nxt .minOffTimeExpiry asleepQuiet fun t => !t.pwr.minOff && t.pstate == 3,
    nxt .minOffTimeExpiry resetAsleep fun t => !t.pins.sramRet && t.pins.vid == some 20 && t.pwr.retFall && t.pstate == 3,
    nxt .wakePowerUp rising fun t => t.pins.pwrCoreEn && !t.pwr.retFall && t.pwr.dom == rising.pwr.dom,
    nxt .wakePowerUp { resetAsleep with pwr := { resetAsleep.pwr with retFall := true } } fun t => t.domOn 8 && !t.domOn 7,
    !stuckRails.domOn 11,
    nxt .wakeRailTimeout stuckRails fun t => t.pstate == 3 && t.fld R.PWR.FAULT.RAIL_TIMEOUT == 1 && t.pins.sramRet &&
      t.pins.vid == none && !t.pins.pwrCoreEn] = true := by decide +kernel

/-- An entry to SLEEP whose time is handed over, and one that still saves its forme. -/
def leaving : State := { inPower srv 9 with pwr := { srv.pwr with handover := true, target := 3 } }
def saving : State := { inPower srv 9 with pwr := { srv.pwr with sleepSave := 1 } }
/-- WAKING from DOZE. -/
def waking : State :=
  let s := (inPower srv 10).setFlds [(R.PWR.STATE.LAST_WAKE, 5), (R.CLK.PLL_STAT.CORE_SLOW, 1)]
  { s with pwr := { s.pwr with from_ := 1 } }

theorem witness_power_transitions : all [
    nxt .toDozeComplete (inPower srv 8) fun t => t.pstate == 1 && t.fld R.PWR.STATE.PREV == 8 && t.fld R.CLK.PLL_STAT.SYS_LOCK == 0 &&
      t.fld R.CLK.PLL_STAT.CORE_SLOW == 1,
    nxt .pointOfNoReturn leaving fun t => t.pstate == 3 && t.fld R.PWR.STATE.PREV == 9 && !t.pins.pwrCoreEn && !t.pins.sramRet &&
      (ckAon t).pins.sramRet && t.pwr.minOff && t.gal == galReset && t.fw.work == formeEmpty 0,
    (List.range 8).all fun n => !waking.flag (R.CLK.MCS_CFG.EN n),
    nxt (.wakingReady true) waking fun t => t.pstate == 0 && t.fld R.PWR.STATE.PREV == 10 && t.fld R.CLK.PLL_STAT.CORE_SLOW == 0,
    nxt (.sleepSaveDone true) saving fun t => t.pwr.sleepSave == 2 && t.flash.formes.getD 4 [] == srv.fw.work.image &&
      t.flash.formes.getD 3 [] == [],
    nxt .pmeL2Handshake (srv.setFld R.HST.LINK.UP 1) fun t => t.fld R.HST.LINK.STATE == 4 && t.fld R.HST.LINK.UP == 0 && t.fld R.HST.LINK.LINK_EV == 1 &&
      t.out.head? == some .pmeToAck,
    nxt .pmeL2Timeout { srv with pwr := { srv.pwr with pmeArmed := some 3 } } fun t => t.pwr.pmeArmed == none] = true := by
  decide +kernel

theorem witness_avs_pins : all [
    nxt (.avsStep 3 false) (srv.setFlds [(R.PWR.AVS.EN, 1), (R.PWR.AVS.VID_NOW, 20), (R.PWR.AVS.VID_MAX, 21), (R.PWR.AVS.MARGIN, 4)]) fun t =>
      t.fld R.PWR.AVS.VID_NOW == 21 && t.pins.vid == some 21 && t.fld R.PWR.VID_RUN.VID_RUN_F == 21,
    nxt .brownOut (srv.setFlds [(R.MBX.WDOG_CFG.TAKEOVER, 1), (R.TWIN.STAT.STATE, 2)]) fun t => t.pins.twinFailLow,
    nxt .perstNAssert { srv with pwr := { srv.pwr with dom := aonOnly } } fun t => t.pins.perst,
    nxt .perstNAssert srv fun t => t.pins.perst && t.fld R.HST.LINK.STATE == 5 && t.fld R.HST.LINK.PERST_EV == 1] = true := by
  decide +kernel
/-- A frame of 60 bytes for broadcast, with its FCS. -/
def plain (etype : Nat) : List Byte :=
  let b := List.replicate 6 0xFF ++ [2, 0, 0, 0, 0, 1] ++ beBytes 2 etype ++ List.replicate 46 0
  b ++ leBytes 4 (crc32 b)

/-- DOZE on NETA with a key of receive flow 3 for the EtherType 0x22F0. -/
def dozeKeyed : State :=
  (inPower (srv.setFlds [(R.PWR.CTRL.DOZE_PORT, 1), (R.NET.STAT.LINK_UP 0, 1), (R.NET.STAT.STATE 0, 3), (R.PWR.CTRL.WOS_EN, 1),
    (R.RXF.F_CFG.EN 3, 1)]) 1)

theorem witness_doze_frame :
    let s : State := (dozeKeyed.setKey 4096 0 (BitVec.ofNat 32 (2 ^ 31 + 2 * 2 ^ 28 + 3)))
    let raw := plain 0x22F0
    let b := raw.take 60
    all [
      s.pstate == 1, linkUp s 0, raw.length == 64, decide (raw.length ≤ s.fld (R.NET.CFG.MAX_DATA 0) + 18),
      fromLE (raw.drop 60) == crc32 b, (parseFrame b).etype != 0x8808, macAccepts s 0 b, !(parseFrame b).ckBad,
      (classify s 0 (parseFrame b)).1 == some 4096, bits (s.key 4096 0).toNat 10 2 == 0,
      nxt (.dozeFrameRx 0 raw true) s fun t => t.pstate == 10 && t.fld R.PWR.STATE.LAST_WAKE == 0x20 && t.pwr.from_ == 1] = true := by
  decide +kernel

/-- MCS 3 in a state. -/
def mcsIn (st : Nat) : State := srv.setFlds [(R.CLK.MCS_CFG.EN 3, 1), (R.CLK.MCS_CFG.REF_TYPE 3, 0), (R.CLK.MCS_STAT.STATE 3, st)]


/-- PTI 1 is a grandmaster steered by the word clock input. -/
def wclkMaster : State := srv.setFlds [(R.TIME.PTI_CFG.EN 1, 1), (R.TIME.PTI_CFG.ROLE 1, 2), (R.TIME.PTI_CFG.GM_SRC 1, 2),
  (R.TIME.PTI_SERVO.EN 1, 1)]

theorem witness_media_clocks : all [
    !((mcsIn mcsQualify).setMcs 3 { srv.mcs 3 with first := false } |>.mcs 3).stepped,
    nxt (.mcsDetectorInterval 3 40 0 7) ((mcsIn mcsQualify).setMcs 3 { srv.mcs 3 with first := false }) fun t =>
      t.mcsState 3 == mcsAcquire && t.fld (R.CLK.MCS_STAT.REF_OK 3) == 1,
    nxt (.mcsDetectorInterval 3 (-40) 0 7) (mcsIn mcsAcquire) fun t => t.mcsState 3 == mcsLocked && (t.mcs 3).locked &&
      t.fld (R.CLK.MCS_STAT.LOCK_EV 3) == 1 && t.fld (R.CLK.MCS_PHASE.ERR 3) == 2 ^ 32 - 40 && t.fld (R.CLK.MCS_FREQ.OFFSET 3) == 0,
    nxt (.wclkInQualified 3 2604) srv fun t => t.fld R.CLK.WCLK_STAT.PRESENT == 1 && t.fld R.CLK.WCLK_STAT.RATE_DET == 3 &&
      t.fld R.CLK.WCLK_STAT.PERIOD == 2604,
    nxt (.wclkInQualified 3 2600) (srv.setFlds [(R.CLK.WCLK_STAT.PRESENT, 1), (R.CLK.WCLK_STAT.RATE_DET, 3)]) fun t =>
      t.fld R.CLK.WCLK_STAT.PERIOD == 2600,
    !grandHeld wclkMaster, !wclkMaster.flag R.CLK.WCLK_STAT.PRESENT,
    nxt (.wclkInQualified 1 10416) wclkMaster fun t => t.fld R.CLK.WCLK_STAT.RATE_DET == 1 &&
      t.addend 1 == 10 ^ 9 * 2 ^ 32 / (48000 * 10416),
    nxt .wclkInLoss (srv.setFlds [(R.CLK.WCLK_STAT.PRESENT, 1), (R.CLK.WCLK_STAT.PERIOD, 9)]) fun t => t.fld R.CLK.WCLK_STAT.PRESENT == 0 &&
      t.fld R.CLK.WCLK_STAT.RATE_DET == 7 && t.fld R.CLK.WCLK_STAT.LOSS_EV == 1 && t.fld R.CLK.WCLK_STAT.PERIOD == 0,
    srv.pins.clkOut.length == 5, outLow srv 4, !outLow (locked (srv.setFld R.CLK.WCLK_CFG.OUT_EN 1) 0) 0,
    nxt (.clkOutputSwitch 4) srv fun t => t.pins.clkOut.getD 4 none == none,
    nxt (.clkOutputSwitch 0) (locked (srv.setFld R.CLK.WCLK_CFG.OUT_EN 1) 0) fun t => t.pins.clkOut.getD 0 none != none] = true := by
  decide +kernel

theorem witness_addend : all [
    nxt (.addendWrite 3 true 5) (srv.setFld (R.TIME.PTI_SERVO.EN 3) 1) fun t => t.fld (R.TIME.PTI_STAT.OWNER_CONFLICT 3) == 1 &&
      (t.pti 3).staged == 0 && t.addend 3 == srv.addend 3,
    nxt (.addendWrite 3 false 2) ((srv.setFld (R.TIME.PTI_SERVO.EN 3) 0).setPti 3 { srv.pti 3 with staged := 8 }) fun t => t.addend 3 == 2 * 2 ^ 32 + 8,
    nxt (.addendWrite 3 false 2) ((srv.setFld (R.TIME.PTI_SERVO.EN 3) 0).setPti 3 { srv.pti 3 with staged := 2 ^ 31 }) fun t => t.addend 3 == 8607114461,
    nxt (.addendWrite 3 false 0) (srv.setFld (R.TIME.PTI_SERVO.EN 3) 0) fun t => t.addend 3 == 8572754723,
    nxt (.addendWrite 0 true 9) (srv.setFld (R.TIME.PTI_SERVO.EN 0) 0) fun t => (t.pti 0).staged == 9 && t.addend 0 == srv.addend 0 && t.pti 1 == srv.pti 1] = true := by
  decide +kernel

/-- PTI 2 enabled, with a port of it in a state. -/
def ptpOn (x st : Nat) (l : List (Fld × Nat)) : State :=
  (srv.setFld (R.TIME.PTI_CFG.EN 2) 1).setFlds ((R.TIME.PTI_PORT_STATE.NETA 2 |> fun f => { f with lo := f.lo + 4 * x }, st) :: l)

/-- PTI 2's servo follows NETA; a step is allowed or not. -/
def steered (step : Nat) : State :=
  ptpOn 0 3 [(R.TIME.PTI_SERVO.EN 2, 1), (R.TIME.PTI_CFG.STEP_EN 2, step), (R.TIME.PTI_CFG.ROLE 2, 1), (R.TIME.PTI_STAT.SEL_PORT 2, 0)]

/-- A port's record changed. -/
def ptpPort (s : State) (x : Nat) (f : PtpPort → PtpPort) : State :=
  s.setPti 2 { s.pti 2 with ports := modifyAt (s.pti 2).ports x f }

/-- The asymmetry checks have frozen PTI 2. -/
def frozen (sel : Bool) : State :=
  let s := ptpOn 1 0 [(R.TIME.PTI_STAT.FROZEN 2, 1)]
  s.setPti 2 { s.pti 2 with selected := sel, wasSlave := 1, holdRun := 4096 }

theorem witness_ptp : all [
    (srv.pti 2).ports.length == 3, (ptpOn 2 5 []).portState 2 2 == 5,
    nxt (.ptpMessageRx 2 2 true) (ptpPort (ptpOn 2 2 []) 2 fun p => { p with exchanges := 3 }) fun t => t.portState 2 2 == 3,
    nxt (.ptpMessageRx 2 1 true) (ptpPort (ptpOn 1 2 []) 1 fun p => { p with exchanges := 3 }) fun t => t.portState 2 1 == 3,
    nxt (.announceRx 2 0 [] 9 1) (ptpOn 0 1 [(R.TIME.PTI_CFG.ROLE 2, 1), (R.TIME.PTI_STAT.SEL_PORT 2, 3)]) fun t =>
      t.portState 2 0 == 2 && ((t.pti 2).port 0).gm == 9,
    nxt (.announceTimeout 2 2) (ptpOn 2 2 []) fun t => t.portState 2 2 == 1 && t.fld (R.TIME.PTI_STAT.ANN_TIMEOUT 2) == 1,
    nxt (.announceTimeout 2 2) (ptpOn 2 1 [(R.TIME.PTI_CFG.ROLE 2, 0)]) fun t => t.portState 2 2 == 5,
    nxt (.announceTimeout 2 0) (ptpOn 0 1 [(R.TIME.PTI_CFG.ROLE 2, 2)]) fun t => t.portState 2 0 == 5,
    nxt (.faultyRecover 2 0) (ptpOn 0 7 [(R.TIME.PTI_CFG.ROLE 2, 2)]) fun t => t.portState 2 0 == 1,
    nxt (.faultyRecover 2 0) (ptpOn 0 7 [(R.TIME.PTI_CFG.ROLE 2, 1)]) fun t => t.portState 2 0 == 1,
    nxt (.ptpSyncTx 2 1) (ptpOn 1 5 [(R.TIME.PTI_CFG.TWO_STEP 2, 0)]) fun t => ((t.pti 2).port 1).sent == 1 &&
      t.out.any fun o => o == .ptpSync 2 1 true (transport srv 2) 0 ⟨0, 0, 0⟩ (syncSum srv 2 true),
    nxt (.ptpSyncTx 2 2) (ptpOn 2 5 []) fun t => t.out.any fun o => o == .ptpFollowUp 2 2 (transport srv 2) 0 ⟨0, 0, 0⟩,
    (let s := steered 0; s.flag (R.TIME.PTI_CFG.EN 2) && s.portState 2 0 == 3 && s.portState 2 1 == 0 && s.portState 2 2 == 0 &&
      s.fld (R.TIME.PTI_STAT.SEL_PORT 2) == 0 && !s.flag (R.TIME.PTI_STAT.FROZEN 2) && s.flag (R.TIME.PTI_SERVO.EN 2) &&
      s.fld (R.TIME.PTI_CFG.ROLE 2) == 1 && !s.flag (R.TIME.PTI_CFG.STEP_EN 2)),
    nxt (.servoUpdate 2 (some 6553600000000) none none) (steered 1) fun t => t.fld (R.TIME.PTI_OFFSET.NS 2) == 100000000 &&
      (t.pti 2).explained == false,
    nxt (.delayMeasurement 2 1 40) (ptpPort (ptpOn 1 2 []) 1 fun p => { p with delays := [20] }) fun t =>
      ((t.pti 2).port 1).delays == [40, 20] && ((t.pti 2).port 1).delay == 30,
    nxt (.freezeHoldExpiry 2) (frozen true) fun t => t.fld (R.TIME.PTI_STAT.FROZEN 2) == 0 && !(t.pti 2).selected,
    nxt (.asymBothTimeout 2) (frozen false) fun t => t.fld (R.TIME.PTI_STAT.FROZEN 2) == 0 &&
      t.fld (R.TIME.PTI_STAT.UNEXPLAINED_STEP 2) == 1 && t.portState 2 1 == 3,
    nxt (.suspectClear 2) ((srv.setFld (R.TIME.PTI_STAT.SUSPECT_NETA 2) 1).setPti 2 { srv.pti 2 with calmRun := 64 }) fun t =>
      t.fld (R.TIME.PTI_STAT.SUSPECT_NETA 2) == 0] = true := by decide +kernel

/-- PTI 1 follows PPS_IN as its grandmaster's source. -/
def ppsMaster : State := (srv.setFlds [(R.TIME.PTI_CFG.EN 1, 1), (R.TIME.PTI_CFG.ROLE 1, 2), (R.TIME.PTI_CFG.GM_SRC 1, 1),
    (R.TIME.PTI_SERVO.EN 1, 1), (R.GRD.TIO_STAT.PPS_LOSS, 1)]).setPti 1 { srv.pti 1 with time := ⟨5, 99999, 2 ^ 32 - 1⟩ }
/-- A sleep's time comes back to PTI 1. -/
def backDue : State := { srv.setFld (R.TIME.PTI_CFG.EN 1) 1 with pwr := { srv.pwr with handbackDue := true, slowTime := 64, diffs := [0, 2 ^ 32, 0, 0] } }

theorem witness_pps_ptm : all [
    nxt (.ppsInEdge false) (srv.setFld R.GRD.TIO_STAT.PPS_LOSS 1) fun t => t.grd.ppsSeen && t.fld R.GRD.TIO_STAT.PPS_LOSS == 0 && t.ptis == srv.ptis,
    !ppsMaster.flag R.TIME.PPS_CFG.IN_FALL, [0, 2, 3].all fun m => !ppsMaster.flag (R.TIME.PTI_CFG.EN m),
    ppsMaster.fld (R.TIME.PTI_CFG.ROLE 1) == 2, ppsMaster.fld (R.TIME.PTI_CFG.GM_SRC 1) == 1, ppsMaster.flag (R.TIME.PTI_SERVO.EN 1),
    ppsMaster.flag (R.TIME.PTI_CFG.EN 1), decide ((ppsMaster.pti 1).time.ns < 100000), decide ((ppsMaster.pti 1).time.frac < 2 ^ 32),
    nxt .ppsOutPulse (srv.setFlds [(R.TIME.PPS_CFG.OUT_EN, 1), (R.TIME.PPS_CFG.WIDTH, 9)]) fun t => t.out == [.ppsPulse 9],
    nxt (.ptmDialogue true 77) (srv.setFlds [(R.TIME.PTM_CFG.EN, 1), (R.HST.LINK.UP, 1), (R.TIME.PTM_CFG.PTI, 3)] |>.setPti 3
      { srv.pti 3 with time := ⟨2, 7, 9⟩ }) fun t => t.ptm.root == 77 && t.ptm.pti == 2000000007 && t.fld R.TIME.PTM_CFG.NEW == 1,
    srv.flag R.PWR.STATE.XTAL_OK,
    nxt (.trimWindowEnd (-3)) srv fun t => t.pwr.trimDone && t.fld R.TIME.TRIM.PPB == 2 ^ 32 - 3 && only [R.TIME.TRIM.PPB] srv t,
    nxt .timeHandback backDue fun t => t.ptiRaw 1 == 2 ^ 32 * 2 && t.fld (R.TIME.PTI_STAT.STEP_EV 1) == 1 && !t.pwr.handover &&
      !t.pwr.handbackDue] = true := by decide +kernel

/-- Platen 15 armed in a mode. -/
def armed15 (l : List (Fld × Nat)) : State := srv.setFlds ((R.TIME.PL_CFG.ARM 15, 1) :: l)

theorem witness_platens : all [
    nxt (.platenArmWrite 15 0xA0000000) (srv.setFld (R.TIME.PL_T_NS.VALUE 15) 1000) fun t => t.rd (R.TIME.PL_CFG.reg 15) == 0xA0000000,
    nxt (.platenArmWrite 15 0xA0000000) (srv.setFld (R.TIME.PL_T_NS.VALUE 15) 999) fun t => !t.flag (R.TIME.PL_CFG.ARM 15),
    plDue (armed15 [(R.TIME.PL_CFG.MODE 15, 1), (R.TIME.PL_CFG.ACT_UPD 15, 1), (R.TIME.PL_GROUPS.UPD 15, 6)]) 15,
    nxt (.platenFire 15) (armed15 [(R.TIME.PL_CFG.MODE 15, 1), (R.TIME.PL_CFG.ACT_UPD 15, 1), (R.TIME.PL_GROUPS.UPD 15, 6)]) fun t =>
      (t.pl 15).inflight == 6 && t.fld (R.TIME.PL_CFG.ARM 15) == 0 && t.fld (R.TIME.PL_STAT.FIRED_EV 15) == 1,
    nxt .platenStrobeArrival (srv.setPl 3 { srv.pl 3 with inflight := 4 }) fun t => t.platens.all fun p => p.inflight == 0,
    nxt (.platenCaptureEdge 2 true) (armed15 [(R.TIME.PL_CFG.MODE 15, 3), (R.TIME.PL_CFG.SRC 15, 2), (R.TIME.PL_CFG.EDGE 15, 2)]) fun t =>
      (t.pl 15).capture == some ⟨0, 0, 0⟩ && t.fld (R.TIME.PL_STAT.CAPT_EV 15) == 1,
    nxt (.platenCaptureEdge 2 true) ((armed15 [(R.TIME.PL_CFG.MODE 15, 3), (R.TIME.PL_CFG.SRC 15, 2), (R.TIME.PL_CFG.EDGE 15, 2)]).setPl 15
      { srv.pl 15 with capture := some ⟨1, 2, 3⟩ }) fun t => (t.pl 15).capture == some ⟨1, 2, 3⟩ && t.fld (R.TIME.PL_STAT.OVERRUN 15) == 1,
    nxt (.updateStrobe 0x4000) ({ srv with sh := [(R.FRM.CFG.reg, 1)] }) fun t => t.cap == [⟨14, R.FRM.CFG.reg, 1⟩],
    (capVal { srv with cap := [⟨14, R.FRM.CFG.reg, 1⟩] } R.FRM.CFG.reg) == some 1#32,
    nxt (.shadowApplyAtBoundary 14 0) { srv with cap := [⟨14, R.FRM.CFG.reg, 1⟩] } fun t => t.rd R.FRM.CFG.reg == 1 && t.cap == []] = true := by
  decide +kernel
/-- The boot ROM's turn, with an active image; and firmware's turn. -/
def romTurn (active : Nat) : State :=
  { up with flash := { up.flash with active := active, images := [List.replicate 256 1, List.replicate 300 2] } }
def fwTurn : State := { up with mbx := { up.mbx with verified := true } }

theorem witness_boot : all [
    up.phase == 0, !up.pwr.starting, !up.mbx.verified, bootsFlash up, up.flag R.CLK.PLL_STAT.SYS_LOCK, !up.flash.trial,
    up.fld R.SYS.STRAPS.BOOT_SRC != 3,
    imageVerifies (romTurn 0) 256 (some 0), !imageVerifies (romTurn 0) 256 none, !imageVerifies (romTurn 0) 255 (some 0),
    nxt (.bootImageVerified (some 0) none 0x1010203 7) (romTurn 0) fun t => t.fld R.MBX.BOOT_INFO.SOURCE == 0 &&
      t.fld R.MBX.BOOT_INFO.FALLBACK == 0 && t.rd R.COLO.FW.reg == 0x10203,
    nxt (.bootImageVerified none (some 3) 0 0) (romTurn 1) fun t => t.fld R.MBX.BOOT_INFO.SOURCE == 1 && t.fld R.MBX.BOOT_INFO.FALLBACK == 0,
    nxt (.bootImageVerified (some 0) none 0 0) (romTurn 1) fun t => t.fld R.MBX.BOOT_INFO.SOURCE == 0 && t.fld R.MBX.BOOT_INFO.FALLBACK == 1,
    nxt (.bootImageVerified none none 0 0) (romTurn 1) fun t => t.phase == 3 && t.fld R.SYS.PHASE.REASON == 4 &&
      t.fld R.MBX.BOOT_INFO.FALLBACK == 3,
    nxt .bootFormeApplied fwTurn fun t => t.phase == 1 && t.fld R.FRM.BOOT.USED == 7 && t.fld R.FRM.BOOT.FALLBACK == 1 &&
      t.flag R.MBX.STAT.FW_READY && t.flag R.SYS.PHASE.SERVICE_SEEN] = true := by decide +kernel

theorem witness_boot_formes (k : Nat) : fwTurn.flash.formes.getD k [] = [] := by
  match k with
  | 0 => rfl
  | 1 => rfl
  | 2 => rfl
  | 3 => rfl
  | 4 => rfl
  | k + 5 => rfl

theorem witness_register_bus : all [
    initUp up 0, initUp up 1, initUp up 2, busCheck srv 2 R.CLK.WCLK_CFG.reg 0 1 false == 0,
    nxt (.registerWrite 2 R.CLK.WCLK_CFG.reg 1) srv fun t => t.rdSh R.CLK.WCLK_CFG.reg == 1 && t.fld R.REGIF.VIOL_COUNT.COUNT == 0,
    nxt (.aliasWrite 2 (0x100000 + 32 * R.CLK.WCLK_CFG.reg) 1) srv fun t => t.rdSh R.CLK.WCLK_CFG.reg == 1,
    nxt (.clearingRead 0 R.COLO.STKPROTO.reg) srv fun t => (t.side 0).data == srv.rd R.COLO.STKPROTO.reg,
    !mapped 0 0x7FFC, !mapped 2 0xFFFFC,
    nxt (.registerWrite 0 0x7FFC 1) up fun t => t.fld R.REGIF.OFF_ACCESS_INFO.COUNT == 1 &&
      only [R.REGIF.OFF_ACCESS_INFO.COUNT, R.REGIF.OFF_ACCESS_INFO.REASON, R.REGIF.OFF_ACCESS_ADDR.ADDR] up t,
    (regFind R.CLK.WCLK_CFG.reg).isSome, srv.domOn (State.domOf R.CLK.WCLK_CFG.reg), busCheck srv 0 R.CLK.WCLK_CFG.reg 0 1 false != 0,
    nxt (.registerWrite 0 R.CLK.WCLK_CFG.reg 1) srv fun t => t.fld R.REGIF.VIOL_COUNT.COUNT == 1 &&
      only [R.REGIF.VIOL_COUNT.COUNT, R.REGIF.VIOL_ADDR.ADDR, R.REGIF.VIOL_INFO.INIT, R.REGIF.VIOL_INFO.CAUSE] srv t,
    nxt (.registerWrite 2 0x3038 3) up fun t => t.fld (R.REGIF.READ_MODE.ACTIVE 2) == 1,
    nxt (.aliasWrite 1 (0x100000 + 32 * 0x3038) 1) up fun t => t.fld (R.REGIF.READ_MODE.ACTIVE 1) == 1,
    nxt (.aliasWrite 1 (0x100000 + 32 * 0x3038 + 4 * 31) 1) up fun t => t.fld (R.REGIF.READ_MODE.ACTIVE 1) == 0,
    !hostOwns up bCLK, !coDx up,
    nxt (.clearingRead 2 R.CLK.PLL_STAT.reg) (up.setFld R.CLK.PLL_STAT.REF_LOSS 1) fun t => t.fld R.CLK.PLL_STAT.REF_LOSS == 0,
    nxt (.counterClear 0 0x5080 1) (up.setFld R.MBX.STAT.SLOT_BUSY 3) fun t => t.fld R.MBX.STAT.SLOT_BUSY == 0,
    nxt (.counterClear 0 0x5080 0) (up.setFld R.MBX.STAT.SLOT_BUSY 3) fun t => t.fld R.MBX.STAT.SLOT_BUSY == 3,
    nxt (.quoinSet false 0xFFFFFFFF) up fun t => t.fld R.REGIF.QUOIN0.LOCK == 2 ^ 19 - 1,
    nxt (.quoinSet true 5) (up.setFld R.REGIF.QUOIN1.LOCK 2) fun t => t.fld R.REGIF.QUOIN1.LOCK == 7] = true := by decide +kernel

/-- Initiator 1's indirect pair at an offset of control space, perhaps busy. -/
def indAt (off : Nat) (busy : Bool) (f : BusSide → BusSide) : State :=
  (up.setFlds [(R.REGIF.INDIR_ADDR.OFFSET 1, off), (R.REGIF.INDIR_STAT.BUSY 1, b2n busy)]).setSide 1 f
/-- A slow target. -/
def slow : Nat := 0x8060

theorem witness_indirect : all [
    !indBusy (indAt 0x3000 false id) 1, indBusy (indAt 0x3000 true id) 1, !indSlow (indAt 0x1000 false id) 1, indSlow (indAt slow false id) 1,
    !indByte (indAt slow false id) 1,
    nxt (.indirAddrWrite 1 0xFFFFFFFF) (indAt 0 false id) fun t => t.rd (R.REGIF.INDIR_ADDR.reg 1) == 0xFCFFFFFF,
    nxt (.indirAddrWrite 1 7) (indAt 0 true id) fun t => (t.side 1).stalled == some (2, 7),
    nxt (.indirDataRead 1) ((indAt 0x1040 false id).setFld (R.REGIF.INDIR_ADDR.STEP 1) 2) fun t => indOff t 1 == 0x1044 &&
      (t.side 1).data == (ctlRead (indAt 0x1040 false id) 1 0x1040 true).2,
    nxt (.indirDataRead 1) ((indAt slow false fun b => { b with fetched := some 9 }).setFld (R.REGIF.INDIR_ADDR.STEP 1) 3) fun t =>
      (t.side 1).data == 9 && indOff t 1 == slow + 8,
    nxt (.indirDataWrite 1 1) (indAt 0x3038 false id) fun t => t.fld (R.REGIF.READ_MODE.ACTIVE 1) == 1,
    nxt (.indirDataWrite 1 5) (indAt slow false id) fun t => (t.side 1).posted == some (5, false) && indBusy t 1,
    nxt (.indirTransferDone 1) (indAt slow true id) fun t => !indBusy t 1 && (t.side 1).fetched == some (regWord (indAt slow false id) 1 slow),
    nxt (.indirStallTimeout 1) (indAt slow true fun b => { b with stalled := some (0, 0) }) fun t => (t.side 1).stalled == none &&
      t.fld (R.REGIF.INDIR_STAT.TIMEOUT 1) == 1,
    nxt (.registerWrite 1 0x3038 1) (indAt slow true fun b => { b with stalled := some (0, 0) }) fun t =>
      (t.side 1).held == [.write 0x3038 1] && t.fld (R.REGIF.READ_MODE.ACTIVE 1) == 0,
    nxt (.indirTransferLost 1) (indAt slow true fun b => { b with fetch := true }) fun t => !indBusy t 1 && !(t.side 1).fetch &&
      t.fld (R.REGIF.INDIR_STAT.LOST 1) == 1] = true := by decide +kernel

/-- Initiator 2 with a guard value, and with a snapshot under way. -/
def guarded (v : Option Word) : State := (up.setFld (R.REGIF.GUARD_ADDR.TARGET 2) 0x3038).setSide 2 fun b => { b with guard := v }
def wideOf (sel : Nat) (w : Bool) : State := (up.setFld (R.REGIF.WIDE_SEL.SEL 2) sel).setSide 2 fun b => { b with wide := w }

theorem witness_guard : all [
    nxt (.wideSelWrite 2 0x603) up fun t => (t.side 2).wide && t.fld (R.REGIF.WIDE_SEL.SEL 2) == 0x603,
    wideValue (wideOf 0x703 true) 0x703 == some ([0, 0, 0, 0], false),
    nxt (.wideSnapshotReady 2) (wideOf 0x703 true) fun t => t.fld (R.REGIF.WIDE_STAT.VALID 2) == 1 && !(t.side 2).wide,
    nxt (.wideD3Read 2) ((wideOf 0x70F false).setFld (R.REGIF.WIDE_STAT.VALID 2) 1) fun t => t.fld (R.REGIF.WIDE_STAT.VALID 2) == 0,
    nxt (.wideD3Read 2) ((wideOf 0x720 false).setFld (R.REGIF.WIDE_STAT.VALID 2) 1) fun t => t.fld (R.REGIF.WIDE_STAT.VALID 2) == 0,
    nxt (.guardValWrite 2 1) up fun t => (t.side 2).guard == some 1 && t.fld (R.REGIF.GUARD_STAT.ARMED 2) == 1,
    !guardTargetBad (guarded (some 1)) 2,
    nxt (.guardCplWrite 2 0xFFFFFFFE) (guarded (some 1)) fun t => t.fld (R.REGIF.READ_MODE.ACTIVE 2) == 1 && t.fld (R.REGIF.GUARD_STAT.OK 2) == 1,
    nxt (.guardCplWrite 2 0xFFFFFFFF) (guarded (some 1)) fun t => t.fld (R.REGIF.READ_MODE.ACTIVE 2) == 0 &&
      t.fld (R.REGIF.GUARD_STAT.FAIL 2) == 1 && t.fld (R.REGIF.GUARD_STAT.CAUSE 2) == 1,
    nxt (.guardCplWrite 2 0) (guarded none) fun t => t.fld (R.REGIF.GUARD_STAT.CAUSE 2) == 3,
    nxt (.guardTimeout 2) (guarded (some 1)) fun t => t.fld (R.REGIF.GUARD_STAT.CAUSE 2) == 2 && (t.side 2).guard == none] = true := by
  decide +kernel

/-- Every covered register stands elsewhere than the reference. -/
theorem reference_uncovered : ((allRows.filter fun r => r.covMask != 0).flatMap fun r =>
    (List.range r.count).map fun i => (r.base + r.stride * i, r)).all (fun p => p.1 != R.REGIF.CFG_CRC_REF.reg) = true := by decide +kernel

/-- What a pass computes does not depend on the reference. -/
theorem cfgCrc_reference (s : State) (v : Word) : cfgCrc (s.wr R.REGIF.CFG_CRC_REF.reg v) = cfgCrc s := by
  have hk : ∀ p ∈ coveredRegs, ∀ i, keptWord (s.wr R.REGIF.CFG_CRC_REF.reg v) (itemKey p.1 i) = keptWord s (itemKey p.1 i) := by
    intro p hp i
    have h : p.1 ≠ R.REGIF.CFG_CRC_REF.reg := by
      simpa using List.all_eq_true.1 reference_uncovered p (List.mem_mergeSort.1 hp)
    have hne : itemKey p.1 i ≠ R.REGIF.CFG_CRC_REF.reg := by
      unfold itemKey
      have hr : R.REGIF.CFG_CRC_REF.reg = 0x3094 := rfl
      omega
    unfold keptWord
    rw [State.rd_wr_ne s v hne]
    rfl
  unfold cfgCrc
  congr 1
  exact List.flatMap_congr fun p hp => List.flatMap_congr fun i _ => by rw [hk p hp i]

/-- The checker armed with a reference that a pass's result differs from by `d`. -/
def armedCrc : State := { up.setFld R.REGIF.CFG_CRC_STAT.ARMED 1 with crcBad := true }
def referenced (d : Nat) : State := armedCrc.wr R.REGIF.CFG_CRC_REF.reg (BitVec.ofNat 32 (cfgCrc armedCrc + d))

theorem referenced_fields (d : Nat) : (referenced d).flag R.REGIF.CFG_CRC_STAT.ARMED = true ∧
    (referenced d).flag R.REGIF.CFG_CRC_STAT.HOLD = false ∧ (referenced d).crcSkip = false ∧ (referenced d).crcBad = true ∧
    (referenced d).flag R.REGIF.CFG_CRC_CTL.TAKEOVER = false := by
  have h : ∀ f : Fld, f.key ≠ R.REGIF.CFG_CRC_REF.reg → (referenced d).flag f = armedCrc.flag f := by
    intro f hf
    unfold State.flag State.fld referenced
    rw [State.rd_wr_ne _ _ hf]
  rw [h _ (by decide), h _ (by decide), h _ (by decide)]
  exact ⟨by decide, by decide, rfl, rfl, by decide⟩

theorem referenced_reads (d : Nat) : (referenced d).fld R.REGIF.CFG_CRC_REF.REF = (cfgCrc (referenced d) + d) % 2 ^ 32 := by
  have e : cfgCrc (referenced d) = cfgCrc armedCrc := cfgCrc_reference _ _
  rw [e, State.fld, show R.REGIF.CFG_CRC_REF.REF.key = R.REGIF.CFG_CRC_REF.reg from rfl]
  unfold referenced
  rw [State.rd_wr_self]
  simp [Fld.of, R.REGIF.CFG_CRC_REF.REF]

theorem witness_crc_match : cfgCrc (referenced 0) % 2 ^ 32 = (referenced 0).fld R.REGIF.CFG_CRC_REF.REF := by
  rw [referenced_reads]; rfl

theorem witness_crc_differs : cfgCrc (referenced 1) % 2 ^ 32 ≠ (referenced 1).fld R.REGIF.CFG_CRC_REF.REF := by
  rw [referenced_reads]; omega

theorem witness_crc : all [
    !up.flag R.REGIF.CFG_CRC_STAT.ARMED,
    nxt .cfgCrcStale (up.setFlds [(R.REGIF.CFG_CRC_STAT.HOLD, 1)]) fun t => t.fld R.REGIF.CFG_CRC_STAT.STALE == 1] = true := by decide +kernel
/-- Source 255 or 59 pending for a target, the stack of which holds `n` entries of source 5. -/
def irqOf (m : Bool) (pend mask : List Nat) (stack : List StackEntry) : State :=
  (srv.setFlds [(R.IRQ.SRC_CFG.PRIO_HOST 255, 4), (R.IRQ.SRC_CFG.PRIO_MCU 255, 3), (R.IRQ.SRC_CFG.SENSE 255, 2)]).setTgt m
    { srv.tgt m with
      pend := pend.foldl (fun b n => b ||| bit256 n) 0, mask := mask.foldl (fun b n => b ||| bit256 n) 0, stack := stack }

theorem witness_irq : all [
    srcSense (irqOf true [] [] []) 255 == 2, srcSense srv 59 == 0,
    nxt (.irqSourceEvent 59) srv fun t => t.irq.raw.getLsbD 59 == srcLine srv 59,
    nxt (.irqAck 2 true 255) (irqOf true [255] [] []) fun t => (t.tgt true).stack == [⟨255, 3, false, false⟩] &&
      !(t.tgt true).pend.getLsbD 255 && (t.tgt true).running == 3,
    nxt (.irqAck 0 false 255) (irqOf false [255] [] (List.replicate 7 ⟨5, 1, false, false⟩)) fun t => (t.tgt false).stack.length == 8,
    nxt (.irqAck 0 false 255) (irqOf false [255] [] (List.replicate 8 ⟨5, 1, false, false⟩)) fun t => (t.tgt false).stack.length == 8 &&
      t.fld R.IRQ.HOST_STAT.ACK_BAD == 1 && t.fld R.IRQ.HOST_STAT.ACK_WHY == 2,
    nxt (.irqAck 2 true 255) (irqOf true [255] [255] []) fun t => t.fld R.IRQ.MCU_STAT.ACK_WHY == 1 && (t.tgt true).stack == [],
    nxt (.irqAck 0 false 0) (irqOf false [] [] []) fun t => t.fld R.IRQ.HOST_STAT.ACK_BAD == 1 && t.fld R.IRQ.HOST_STAT.ACK_WHY == 0,
    nxt (.irqEoi 0 false 255) (irqOf false [] [] [⟨255, 4, false, false⟩, ⟨5, 1, false, false⟩]) fun t => (t.tgt false).running == 1,
    nxt (.irqEoi 0 false 255) (irqOf false [] [] [⟨255, 4, true, true⟩]) fun t => (t.tgt false).running == 0 && t.fld R.IRQ.SPURIOUS.HOST == 1,
    srcPrio srv false 0 == 7, srcPrio srv true 0 == 7,
    nxt (.irqEoi 2 true 255) (irqOf true [] [] []) fun t => t.fld R.IRQ.FAULT_MCU.KIND == 1 && t.fld R.IRQ.FAULT_MCU.NAMED == 255 &&
      (t.tgt false).pend.getLsbD 0 && (t.tgt true).pend.getLsbD 0,
    nxt (.irqEoi 2 true 255) (irqOf true [] [] [⟨5, 1, false, false⟩]) fun t => t.fld R.IRQ.FAULT_MCU.EXPECTED == 5 &&
      t.fld R.IRQ.FAULT_MCU.KIND == 0 && t.fld R.IRQ.FAULT_MCU.VALID == 1,
    nxt (.irqEoi 0 false 255) ((irqOf false [] [] []).setFlds [(R.IRQ.FAULT_HOST.VALID, 1), (R.IRQ.FAULT_HOST.NAMED, 9)]) fun t =>
      t.fld R.IRQ.FAULT_HOST.MORE == 1 && t.fld R.IRQ.FAULT_HOST.NAMED == 9] = true := by decide +kernel

/-- A message that the HOST condition made due. -/
def msixReady (mask : Word) (up_ : Nat) : State :=
  { srv.setFld R.HST.LINK.UP up_ with irq := { srv.irq with msixDue := true, msixVec := mask, msixHi := 1, msixLo := 16, msixDat := 7 } }

theorem witness_irq_control : all [
    nxt (.irqPendingSetClr 2 true true 7 0x80000000) (irqOf true [] [] []) fun t => (t.tgt true).pend.getLsbD 255 == srcNamed 255,
    nxt (.irqMaskSetClr 0 false true 7 0x80000000) srv fun t => (t.tgt false).mask.getLsbD 255,
    nxt (.irqMaskSetClr 0 false true 0 3) srv fun t => !(t.tgt false).mask.getLsbD 0 && (t.tgt false).mask.getLsbD 1,
    nxt (.modWindowExpiry false 15) (srv.setTgt false { srv.tgt false with mods := List.replicate 16 (.held 1 4) }) fun t =>
      (t.tgt false).mods[15]? != some (.held 1 4) && (t.tgt false).mods[14]? == some (.held 1 4),
    nxt .mcuWaitForInterrupt (srv.setTgt true { srv.tgt true with mods := List.replicate 16 (.held 1 4) }) fun t =>
      t.flag R.IRQ.MCU_CTL.IDLE && (t.tgt true).mods == List.replicate 16 .closed,
    nxt (.msixMessageSend false) (msixReady 0 1) fun t => t.out == [.msix (2 ^ 32 + 16) 7] && !t.irq.msixDue,
    nxt (.msixMessageSend true) (msixReady 0 1) fun t => t.irq.msixPba && t.out == [],
    nxt (.msixMessageSend false) (msixReady 1 1) fun t => t.irq.msixPba && t.out == [],
    nxt (.msixMessageSend false) (msixReady 0 0) fun t => t.irq.msixPba && t.out == []] = true := by decide +kernel

/-- A request in slot 3: SYS.INFO with tag 9. -/
def asked : State :=
  let s := srv.setFld R.MBX.REQ_DB_SET.SLOT 8
  { s with mbx := { s.mbx with mem := memWrite s.mbx.mem 0x300 [0, 1, 9, 0, 0, 0] } }
/-- A result for slot `k` with `n` bytes. -/
def answered (k n : Nat) : State := { srv with mbx := { srv.mbx with ready := [(k, ⟨0x100, 9, 0, 0, 0, List.replicate n 1⟩)] } }

theorem witness_slots : all [
    slotsOf srv 0 == 15, slotsOf srv 1 == 240,
    nxt (.reqDoorbell 0 0xFF) srv fun t => t.fld R.MBX.REQ_DB_SET.SLOT == 15 && t.fld R.MBX.STAT.DB_WRONG == 1,
    nxt (.reqDoorbell 1 0xF0) srv fun t => t.fld R.MBX.REQ_DB_SET.SLOT == 0xF0 && t.fld R.MBX.STAT.DB_WRONG == 0,
    nextSlot asked == some 3, serving asked, opcodes.contains 0x100,
    nxt .requestTake asked fun t => t.fld R.MBX.REQ_DB_SET.SLOT == 0 && (t.mbx.cmds.map Cmd.tag) == [9] && t.mbx.pass == 4,
    nxt (.responseWrite 7) (answered 7 240) fun t => t.mbx.ready == [] && t.fld R.MBX.RSP_DB_SET.SLOT == 128 &&
      memRead t.mbx.mem 0xF10 240 == List.replicate 240 1,
    nxt (.rspDoorbellClr 0 0xFF) (srv.setFld R.MBX.RSP_DB_SET.SLOT 0x1F) fun t => t.fld R.MBX.RSP_DB_SET.SLOT == 0x10] = true := by
  decide +kernel

/-- The ring runs, with `f` applied to the mailboxes. -/
def ringed (f : Mbx → Mbx) : State :=
  let s := srv.setFlds [(R.MBX.RING_CTL.EN, 1)]
  { s with mbx := f s.mbx }

theorem witness_ring : all [
    nxt .ringEnable { srv with mbx := { srv.mbx with cmdTail := 5, cplPhase := false } } fun t => ringRuns t && t.mbx.cmdTail == 0 && t.mbx.cplPhase,
    nxt (.cmdTailDoorbell 257) srv fun t => t.mbx.cmdTail == 1,
    nxt (.cplHeadDoorbell 255) srv fun t => t.mbx.cplHead == 255,
    nxt (.evtHeadDoorbell 256) srv fun t => t.mbx.evtHead == 0,
    nxt (.cmdFetch ([0, 1, 9, 0, 4, 0] ++ List.replicate 58 0) []) (ringed fun m => { m with cmdHead := 255, cmdTail := 0 }) fun t =>
      t.mbx.cmdHead == 0 && t.mbx.cmds.map Cmd.tag == [9] && t.out == [.hostRead (64 * 255) 64],
    nxt .completionWrite (ringed fun m => { m with ready := [(8, ⟨0x100, 9, 0, 0, 0, List.replicate 48 1⟩)], cplTail := 255, cplHead := 1 }) fun t =>
      t.mbx.cplTail == 0 && !t.mbx.cplPhase && t.mbx.ready == [] && t.out.length == 1,
    nxt .eventWrite (ringed fun m => { m with evts := modifyAt m.evts 2 fun _ => ⟨[⟨0xE040, 0, 0, 0, 0, [1]⟩], 0, 0, []⟩ }) fun t =>
      t.mbx.evtTail == 1 && (t.evtq 2).queue == [] && t.out.length == 1,
    nxt (.ringDmaError 5) (ringed id) fun t => !ringRuns t && t.fld R.MBX.RING_STAT.ERR_CAUSE == 5,
    nxt (.ringDmaError 1) (ringed id) fun t => !ringRuns t && t.fld R.MBX.RING_STAT.ERR_CAUSE == 1] = true := by decide +kernel

/-- The loader's turn, with a chunk on its way. -/
def loading (busy n : Nat) (last : Bool) : State :=
  let s := up.setFlds [(R.SYS.STRAPS.BOOT_SRC, 1), (R.MBX.LOAD_STAT.BUSY, busy)]
  { s with mbx := { s.mbx with loadLen := n, loadLast := last, mem := memWrite [] 0x8000 [7, 8] } }
def restarting (host : Bool) : State := { srv.setFld R.MBX.STAT.FW_READY 0 with mbx := { srv.mbx with restart := 1, hostImg := host } }

theorem witness_watchdog : all [
    nxt (.wdogWarn true) srv fun t => !t.mbx.warn,
    nxt (.wdogExpiry 3 false) srv fun t => t.mbx.restart == 1 && t.fld R.MBX.WDOG_STAT.LAST_CAUSE == 3 && t.fld R.MBX.BOOT_INFO.RESTARTS == 1 &&
      !t.flag R.MBX.STAT.FW_READY,
    nxt (.wdogExpiry 1 true) srv fun t => t.phase == 3 && t.fld R.MBX.WDOG_STAT.LAST_CAUSE == 4,
    nxt (.fwRestartDone true true) (restarting false) fun t => t.mbx.restart == 0 && t.flag R.MBX.STAT.FW_READY && t.phase == 1,
    nxt (.fwRestartDone false true) (restarting true) fun t => t.mbx.restart == 0 && t.phase == 3 && t.fld R.SYS.PHASE.REASON == 5,
    loaderServes (loading 0 0 false),
    nxt (.loadChunkGo 1 32768 true) (loading 0 0 false) fun t => t.mbx.loadLen == 32768 && t.mbx.loadCtl && t.flag R.MBX.LOAD_STAT.BUSY,
    nxt (.loadChunkGo 0 1 false) ((loading 0 0 false).setFld R.MBX.LOAD_STAT.TOTAL 787199) fun t => t.flag R.MBX.LOAD_STAT.BUSY,
    nxt .loadChunkTaken (loading 1 2 false) fun t => t.fld R.MBX.LOAD_STAT.TOTAL == 2 && memRead t.mbx.load 0 2 == [7, 8] &&
      !t.flag R.MBX.LOAD_STAT.BUSY,
    nxt (.loadVerifyDone none 0 0) ((loading 0 2 true).setFld R.MBX.LOAD_STAT.TOTAL 300) fun t => t.fld R.MBX.LOAD_STAT.BAD_SIG == 1 && t.mbx.loadLen == 0,
    nxt (.loadVerifyDone (some 0) 0 0) (loading 0 2 true) fun t => t.fld R.MBX.LOAD_STAT.BAD_SIG == 1,
    nxt (.loadVerifyDone (some 0) 0x1234567 0) ((loading 0 2 true).setFld R.MBX.LOAD_STAT.TOTAL 300) fun t => t.fld R.MBX.LOAD_STAT.DONE == 1 && t.mbx.verified && t.mbx.hostImg &&
      t.fld R.MBX.BOOT_INFO.SOURCE == 2 && t.rd R.COLO.FW.reg == 0x234567] = true := by decide +kernel

/-- Flow 255's status bits, a funnel entry's late flag and the forme's events raise their sources. -/
theorem witness_lines :
    let s := srv.setFlds [(R.TXF.F_STAT.LATE_EV 255, 1), (R.RED.F_STAT.SKEW_EV 255, 1), (R.FRM.STAT.DONE_EV, 1)]
    all [s.domOn 2, s.domOn 1, srcLine s 175, regWord s 0 (R.TXF.PEND.reg 7) == 0x80000000, srcLine s 203, !srcLine s 202,
    regWord s 1 (R.RED.PEND.reg 7) == 0x80000000, srcLine s 244, !srcLine s 245, !srcLine s 246,
    srcLine (srv.setFld (R.TXF.FUN_STAT.FUN_LATE_EV 63) 1) 175, !srcLine srv 175] = true := by decide +kernel

/-- A taken command with tag 9 of slot 0, no other being in flight. -/
def asked1 (s : State) (op : Nat) (p : List Byte) : State :=
  { s with mbx := { s.mbx with cmds := [⟨0, 0, op, 9, 0, p.length, 0, false, p, 0, 0, .taken, 0, [], false⟩] } }

/-- What CmdReady asks, of that command. -/
def isReady (s : State) (op : Nat) : Bool :=
  match takenCmd s 0 9 with
  | some c => c.opcode == op && serving s && (!isG op || !gBusy s c) && opKnown s op && decide (c.len ≤ 240) && !c.hdrBad &&
      quarOk s op && !nbit c.flags 0 && !gRefused s op && (!isG op || !stkMember s)
  | none => false

/-- The command is ready and ends with a status, a state and a result that pass a check. -/
def ends (st : Nat) (c : Nat → Nat → Instr) (op : Nat) (p : List Byte) (s : State) (f : State → List Byte → Bool) : Bool :=
  let s := asked1 s op p
  isReady s op && nxt (c 0 9) s fun t =>
    match t.mbx.ready with
    | [(_, m)] => m.opcode == op && m.status == st && f t m.data
    | _ => false

/-- It ends with OK. -/
def endsOk := ends stOk
/-- It answers ACCEPTED. -/
def accepts (c : Nat → Nat → Instr) (op : Nat) (p : List Byte) (s : State) (f : State → Bool) : Bool :=
  ends stAccepted c op p s fun t _ => f t && (acceptedCmd t 0 9).isSome

/-- 32-bit and 16-bit little-endian bytes. -/
def w4 (n : Nat) : List Byte := leBytes 4 n
def w2 (n : Nat) : List Byte := leBytes 2 n

/-- The device with the personality DX. -/
def inDx : State := srv.setFld R.SYS.STRAPS.PERS 2

theorem witness_queries : all [
    endsOk .sysInfo 0x100 [] srv fun _ d => d.length == 40,
    endsOk .pwrStatus 0x201 [] srv fun _ d => d.length == 16,
    endsOk .frmInfo 0x300 [] srv fun _ d => d.take 4 == w4 0 && d[5]? == some 0xFF,
    endsOk .frmRead 0x301 ([1, 0, 0, 0] ++ w4 1 ++ w2 2) { srv with fw := { srv.fw with staging := [1, 2, 3] } } fun _ d => d == [2, 3],
    endsOk .frmRead 0x301 ([0, 0, 0, 0] ++ w4 0 ++ w2 0) srv fun _ d => d == [],
    endsOk .clkMcsStatus 0x402 [7] (locked srv 7) fun _ d => d.length == 24 && d[3]? == some 48,
    endsOk .ptpStatus 0x501 [3] srv fun _ d => d.length == 40,
    endsOk .tdmStatus 0x603 [15] ((srv.setFld (R.TDM.TX_LATE.COUNT 15) 6)) fun _ d => d.length == 20 && d[8]? == some 6,
    endsOk .rtGet 0x701 (w2 0x1DFF ++ w2 1) srv fun _ d => d.length == 8,
    endsOk .krnStatus 0x801 [127] srv fun _ d => d.length == 12,
    endsOk .rxfStatus 0x903 [255] (srv.setFld (R.RXF.F_LATE.COUNT 255) 6) fun _ d => d.length == 52 && d[44]? == some 6,
    endsOk .txfStatus 0xA02 [255] (srv.setFld (R.TXF.F_UNDERRUN.COUNT 255) 6) fun _ d => d.length == 20 && d[8]? == some 6,
    endsOk .redStatus 0xC00 [255] (srv.setFld (R.RED.F_SKEW.NS 255) 6) fun _ d => d.length == 28 && d[24]? == some 6,
    endsOk .twinHealth 0xE02 [8] srv fun _ d => d == List.replicate 128 0,
    endsOk .grdStatus 0xF01 [0, 15] srv fun _ d => d.length == 8,
    endsOk .diagCounters 0x1001 (w4 64 ++ w4 0) srv fun _ d => decide (4 ≤ d.length),
    endsOk .dxStatus 0x1200 [] inDx fun _ d => d.length == 20,
    endsOk .dxRead 0x1201 (w2 0 ++ [120, 0]) inDx fun _ d => d.length == 240,
    ends stLocked .tdmStatus 0x603 [1] inDx fun _ d => d == [], ends stLocked .rxfStatus 0x903 [7] inDx fun _ d => d == [],
    ends stLocked .txfStatus 0xA02 [0] inDx fun _ d => d == [], ends stLocked .redStatus 0xC00 [0] inDx fun _ d => d == [],
    ends stLocked .sdpExport 0xB01 [7] inDx fun _ d => d == [], ends stLocked .rtGet 0x701 (w2 0x800 ++ w2 1) inDx fun _ d => d == [],
    ends stLocked .grdStatus 0xF01 [0, 1] inDx fun _ d => d == [],
    ends stLocked .diagCounters 0x1001 (w4 0 ++ w4 2) inDx fun _ d => dxBlocks inDx (w4 0 ++ w4 2) && d == []] = true := by decide +kernel

/-- An event in the queue of slot users. -/
def told : State := { srv with mbx := { srv.mbx with evts := modifyAt srv.mbx.evts 1 fun _ => ⟨[⟨0xE040, 0, 0, 0, 0, [1]⟩, ⟨0xE041, 0, 0, 0, 0, []⟩], 0, 0, []⟩ } }
/-- Flow 3 launches packets of an AES67 stream. -/
def sends : State := srv.setFlds [(R.TXF.F_STAT.STATE 3, 2), (R.TXF.F_CHAN.CHANNELS 3, 2)]
/-- The same request of the second slot user. -/
def askedB (s : State) (op : Nat) (p : List Byte) : State :=
  { s with mbx := { s.mbx with cmds := [⟨1, 4, op, 9, 0, p.length, 0, false, p, 0, 0, .taken, 0, [], false⟩] } }

theorem witness_logs : all [
    isReady (asked1 srv 0xD00 []) 0xD00, nxt (.stkStatus 0 9) (asked1 srv 0xD00 []) fun t => t.freeCtr == srv.freeCtr + 8,
    isReady (asked1 srv 0x1004 (w4 0x2BFFFF ++ w2 1)) 0x1004,
    nxt (.diagLog 0 9) (asked1 srv 0x1004 (w4 0x2BFFFF ++ w2 1)) fun t => t.freeCtr == srv.freeCtr + 1,
    isReady (asked1 sends 0xB01 [3]) 0xB01, !dxFlow sends 3, !sends.flag (R.TXF.F_CFG.AVTP 3),
    (match takenCmd (askedB told 0x1100 [1]) 1 9 with | some c => c.opcode == 0x1100 | none => false),
    nxt (.evtFetch 1 9) (askedB told 0x1100 [1]) fun t => (t.evtq 1).queue.length == 1,
    endsOk .evtMask 0x1101 (w2 0x8000) srv fun t d => d.length == 2 && (t.evtq 0).masked.contains 0xE010 &&
      !(t.evtq 0).masked.contains 0xE0F0] = true := by decide +kernel

/-- The present images of the registers PWR.CONFIG writes. -/
def pwrOf (s : State) : List Byte :=
  [R.PWR.CTRL.reg, R.PWR.WL_CFG.reg, R.PWR.ALARM.reg, R.PWR.AVS.reg].flatMap fun k => leBytes 4 (s.rd k).toNat

theorem witness_sys_pwr : all [
    endsOk .sysClaim 0x101 (w4 0x10000 ++ w4 0) srv fun t _ => hostOwns t 16 && !hostOwns t 15,
    endsOk .sysRelease 0x102 (w4 0 ++ w4 0x8000) (srv.setFld R.REGIF.HOST_OWN1.OWN 0x8000) fun t _ => !hostOwns t 47 && t.fw.work.gen == 1,
    endsOk .sysReset 0x103 ([0, 0, 0, 0] ++ w4 0xA55A) srv fun t _ => t.pwr.resetDue,
    endsOk .sysReset 0x103 ([1, 0, 0, 0] ++ w4 0xA55A) srv fun t _ => t.mbx.restart == 2 && !t.flag R.MBX.STAT.FW_READY,
    accepts .sysImageBegin 0x104 (w4 786688) { srv with fw := { srv.fw with image := some (4, []) } } fun t => t.fw.image == none,
    endsOk .sysImageWrite 0x105 (w4 2 ++ [7]) { srv with fw := { srv.fw with image := some (4, [1, 2]) } } fun t _ =>
      t.fw.image == some (4, [1, 2, 7]) && t.flash.images.getD 1 [] == [1, 2, 7],
    accepts .sysImageEnd 0x106 [] { srv with fw := { srv.fw with image := some (4, []) } } fun t => t.fw.image == some (4, []),
    accepts .sysCommit 0x107 [] (srv.setFld R.MBX.BOOT_INFO.TRIAL 1) fun t => t.phase == 1,
    endsOk .sysRecover 0x108 (w4 0xA55A) srv fun t _ => t.phase == 3 && t.fld R.SYS.PHASE.REASON == 5,
    entryAllowed srv 1 false, linkParked srv,
    endsOk .pwrEnter 0x200 [1, 0] srv fun t _ => t.pstate == 8,
    entryAllowed srv 3 false, !linkParked (srv.setFld R.HST.LINK.STATE 1),
    endsOk .pwrEnter 0x200 [3, 0] (srv.setFld R.HST.LINK.STATE 1) fun t _ => t.pwr.pmeArmed == some 3,
    endsOk .pwrConfig 0x202 (pwrOf srv) srv fun t _ => t.fw.work.gen == 1] = true := by decide +kernel


/-- Formes: an empty one is staged; FRM.APPLY with platen 15 begins. -/
def okForme : List Byte := (formeEmpty 0).image
def staged : State := { srv with fw := { srv.fw with staging := okForme } }
/-- The apply of that forme waits for its first epoch, then for its verification. -/
def applying (epoch : Nat) : State :=
  let s := asked1 staged 0x304 ([15, 0] ++ leBytes 6 0 ++ w4 0)
  let t := match exec (.frmApply 0 9) s with | .next t => t | _ => s
  match t.fw.apply with
  | some a => { t with fw := { t.fw with apply := some { a with epoch := epoch, time := 0, atomic := false } } }
  | none => t
def plOver (s : State) : State := (s.setFlds [(R.TIME.PL_CFG.MODE 15, 1), (R.TIME.PL_CFG.ARM 15, 1)]).setPti 0
  { s.pti 0 with time := ⟨5, 0, 0⟩ }

theorem witness_formes : all [
    storedGood { srv with flash := { srv.flash with formes := [okForme, [], [], [], []] } } 0,
    accepts .frmStageLoad 0x302 [0] { srv with flash := { srv.flash with formes := [okForme, [], [], [], []] } } fun t => t.fw.staging == [],
    endsOk .frmStageWrite 0x303 (w4 2 ++ [3]) { srv with fw := { srv.fw with staging := [1, 2] } } fun t d => t.fw.staging == [1, 2, 3] && d == w4 3,
    endsOk .frmStageWrite 0x303 (w4 0 ++ [3]) { srv with fw := { srv.fw with staging := [1, 2] } } fun t d => t.fw.staging == [3] && d == w4 1,
    accepts .frmStore 0x305 [3] srv fun t => t.flash == srv.flash,
    accepts .frmSetBoot 0x306 [0xFF] srv fun t => t.flash == srv.flash,
    (stagedForme staged).isSome, !hostOwns staged bTIME, !staged.flag (R.TIME.PL_CFG.ARM 15), staged.platens.length == 16,
    (match stagedForme staged with | some f => !diffLocked staged (applyBase staged) f && diffVerdict staged (applyBase staged) f == 0 | none => false),
    accepts .frmApply 0x304 ([15, 0] ++ leBytes 6 0 ++ w4 0) staged fun t => (t.pl 15).owner == 2 && t.fld R.FRM.STAT.STATE == 1,
    plDue (plOver (applying 0)) 15, (plOver (applying 0)).fw.apply.any fun a => a.epoch == 0 && !a.atomic && a.platen == 15 && a.pti == 0,
    nxt .formeEpoch (plOver (applying 0)) fun t => t.fld R.FRM.STAT.STATE == 2 && t.fw.apply.any fun a => a.epoch == 1,
    (applying 8).fw.apply.any fun a => a.epoch == 8 && a.takeGen == none && a.cmd == some (0, 9),
    !stkMember (applying 8),
    nxt .formeStageVerify (applying 8) fun t => t.fw.apply == none && liveGen t == 1 && t.fld R.FRM.STAT.STATE == 0] = true := by
  decide +kernel

/-- An answer without a result. -/
def okEmpty (c : Nat → Nat → Instr) (op : Nat) (p : List Byte) (s : State) (f : State → Bool) : Bool :=
  endsOk c op p s fun t d => d == [] && f t
/-- A register's present image. -/
def image (s : State) (k : Nat) : List Byte := leBytes 4 (s.rd k).toNat

def ptpP (n : Nat) : List Byte :=
  [byteOf n, 0, 0, 0] ++ image srv (R.TIME.PTI_CFG.reg n) ++ image srv (R.TIME.PTI_SERVO.reg n) ++ image srv (R.TIME.PTI_GUARD.reg n) ++
    [0, 0, 0, 10, 0, 0, 0, 0]

theorem witness_clk_ptp : all [
    okEmpty .clkMcsSet 0x400 ([7, 0, 0, 0] ++ image srv (R.CLK.MCS_CFG.reg 7) ++ image srv (R.CLK.MCS_LOOP.reg 7)) srv fun t => t.fw.work.gen == 1,
    okEmpty .clkMcsSet 0x400 ([7, 0, 0, 0] ++ w4 (2 ^ 31) ++ image srv (R.CLK.MCS_LOOP.reg 7)) srv fun t => t.rdSh (R.CLK.MCS_CFG.reg 7) == 0x80000000 ||
      t.rd (R.CLK.MCS_CFG.reg 7) == 0x80000000,
    okEmpty .clkOutSet 0x401 (image srv R.CLK.WCLK_CFG.reg ++ image srv R.CLK.MCLK_CFG.reg) srv fun t => t.fw.work.gen == 1,
    okEmpty .ptpSet 0x500 (ptpP 3) srv fun t => (t.pti 3).msg == [0, 0, 0, 10, 0, 0],
    okEmpty .ptpGmQuality 0x502 ([3, 6, 7, 8] ++ w2 9) srv fun t => (t.pti 3).quality == [6, 7, 8, 9],
    okEmpty .ptpStep 0x503 ([3, 0, 0, 0] ++ w4 (2 ^ 31) ++ List.replicate 12 0) srv fun t => liveGen t == 0,
    endsOk .ptpAsymAdopt 0x504 [3, 0] (srv.setFld (R.TIME.PTI_STAT.SUSPECT_NETA 3) 1) fun t d => !t.flag (R.TIME.PTI_STAT.SUSPECT_NETA 3) &&
      d == w4 0,
    endsOk .ptpAsymAdopt 0x504 [3, 1] (srv.setFld (R.TIME.PTI_STAT.SUSPECT_NETB 3) 1) fun t d => !t.flag (R.TIME.PTI_STAT.SUSPECT_NETB 3) &&
      d == w4 0,
    okEmpty .ptpStep 0x503 ([3, 1, 0, 0] ++ w4 0 ++ leBytes 6 7 ++ w2 0 ++ w4 5) (srv.setFld (R.TIME.PTI_CFG.ROLE 3) 2) fun t =>
      (t.pti 3).time.sec == 7 && (t.pti 3).time.ns == 5,
    ends stLocked .clkMcsSet 0x400 (byteOf inDx.dx.mcs :: List.replicate 11 0) inDx fun _ d => d == [],
    ends stLocked .ptpSet 0x500 (byteOf inDx.dx.pti :: List.replicate 23 0) inDx fun _ d => d == [],
    ends stLocked .ptpGmQuality 0x502 (byteOf inDx.dx.pti :: List.replicate 5 0) inDx fun _ d => d == [],
    ends stLocked .ptpStep 0x503 (byteOf inDx.dx.pti :: List.replicate 19 0) inDx fun _ d => d == [],
    ends stLocked .ptpAsymAdopt 0x504 [byteOf inDx.dx.pti, 0] inDx fun _ d => d == []] = true := by decide +kernel

/-- TDM.SET of port 15: transmit, I2S (format 0), two slots of 32 bits. -/
def tdmP (g : Nat) : List Byte := [15, 1, 1, 0, 0, 2, 32, 1, 1, 0, 4, 4] ++ w4 3 ++ [0, byteOf g, 0, 0]
/-- Transmit direction of TDM15 in a state. -/
def dirIn (st : Nat) : State := srv.setFlds [(R.TDM.TX_STAT.STATE 15, st), (R.TDM.TX_FMT.EN 15, 1)]
def startP : List Byte := w2 0x8000 ++ w2 0 ++ [0, 15] ++ List.replicate 14 0
def rtP (a pl sec : Nat) : List Byte := w2 1 ++ [byteOf pl, 0] ++ leBytes 6 0 ++ w2 0 ++ w4 sec ++ w2 a ++ w2 0x1E00 ++ [0, 0, 0, 0]
/-- The same direction RUNNING as TDM.SET configured it. -/
def tdmRun : State := (tdmSetBody srv (tdmP 15)).2.2.setFld (R.TDM.TX_STAT.STATE 15) 4
def tdmMask : List Byte := (tdmP 15).take 12 ++ w4 1 ++ [0, 15, 0, 0]
def twoLocked : State := locked (locked srv 0) 7

theorem witness_tdm_rt : all [
    !tdmSetBad srv (tdmP 15), dirStopped srv 15 false,
    okEmpty .tdmSet 0x600 (tdmP 15) srv fun t => t.flag (R.TDM.TX_FMT.EN 15) && t.fld (R.TDM.TX_FMT.ALIGN 15) == 15 && t.fw.work.gen == 1,
    namedDirs 0x8000 0 == [30], (dirIn 2).tdmState 15 false == tdmArmed, ((dirIn 2).tdm 15 false).start == none, platenFree (dirIn 2) 15,
    (List.range 32).all fun j => j == 30 || decide ((dirIn 2).tdmState (dirPort j) (dirRx j) < tdmReady),
    endsOk .tdmStart 0x601 startP (dirIn 2) fun t d => d.take 4 == [15, 0, 0, 0] && t.flag (R.TIME.PL_CFG.ARM 15),
    (dirIn 4).tdmState 15 false == tdmRunning,
    accepts .tdmStop 0x602 (w2 0x8000 ++ w2 0) (dirIn 4) fun t => t.flag (R.TDM.TX_CMD.STOP 15),
    !rtLocked srv (rtP 0x800 0xFF 0), impJudge srv (rtDest (rtP 0x9FF 0xFF 0) 0) (rtWord (rtP 0x9FF 0xFF 0) 0) == none,
    endsOk .rtSet 0x700 (rtP 0x9FF 0xFF 0) srv fun t d => d == [0xFF, 0xFF, 0, 0] && (t.imp 0x9FF).shadow == rtWord (rtP 0x9FF 0xFF 0) 0,
    accepts .rtSet 0x700 (rtP 0x9FF 15 2000000) srv fun t => t.fw.route == some (15, 0, 9) && (t.pl 15).owner == 1 &&
      t.fld (R.TIME.PL_GROUPS.UPD 15) == 2,
    twoLocked.mcsRuns 0, twoLocked.mcsRuns 7, !laneUsed twoLocked 127, decide (twoLocked.mcsFs 0 ≤ twoLocked.mcsFs 7 * 4),
    okEmpty .krnSet 0x800 [127, 0, 7, 2] twoLocked fun t => t.fld (R.KRN.L_CFG.OUT_MCS 127) == 7 && t.fld (R.KRN.L_CFG.MODE 127) == 2,
    okEmpty .krnSet 0x800 [127, 0, 7, 0] srv fun t => t.fld (R.KRN.L_CFG.OUT_MCS 127) == 7,
    !tdmSetBad tdmRun tdmMask, setAlign tdmRun tdmMask 15 false == some 15, !dirStopped tdmRun 15 false,
    ((tdmImages tdmRun tdmMask 15).take 3).all fun x => tdmRun.rd x.1 == x.2,
    okEmpty .tdmSet 0x600 tdmMask tdmRun fun t => (capVal t (R.TDM.TX_MASK.reg 15)) == some 1#32,
    ends stLocked .tdmSet 0x600 (1 :: List.replicate 19 0) inDx fun _ d => d == [],
    ends stLocked .tdmSet 0x600 (tdmP 15) inDx fun _ d => d == [],
    ends stLocked .tdmStart 0x601 (w2 1 ++ List.replicate 18 0) inDx fun _ d => d == [],
    ends stLocked .tdmStop 0x602 (w2 0 ++ w2 2) inDx fun _ d => d == [],
    !rtLocked inDx (rtP 0x800 0xFF 0), dxDest 0x800,
    ends stLocked .rtSet 0x700 (rtP 0x800 0xFF 0) inDx fun _ d => d == [0, 0, 4, 0]] = true := by
  decide +kernel

/-- A flow record: flow, channels, format, packet time, paths, mode, link offset, depth, address, port and payload type. -/
def record (f ch fmt pt paths mode off depth : Nat) (addr : List Nat) (port ty : Nat) : List Byte :=
  [byteOf f, byteOf ch, byteOf fmt, byteOf pt, 0, byteOf paths, byteOf mode, 0xFF] ++ w4 off ++ w4 depth ++
    (addr.map byteOf ++ List.replicate (16 - addr.length) 0) ++ w2 port ++ w2 0xFFFF ++ w4 0 ++ [byteOf ty, 0xFF, 0, 0, 0, 0, 0, 0]
/-- Flow 255 of two L24 channels at 1 ms on both ports; a transmit flow of IEEE 1722 on NETA. -/
def rxRec : List Byte := record 255 2 1 4 3 0 480 20000 [239, 1, 2, 3] 5004 0
def txRec : List Byte := record 3 2 5 1 1 4 0 0 ([0x91, 0xE0, 0xF0, 0, 1, 2, 0, 0] ++ [1, 2, 3, 4, 5, 6, 7, 8]) 0 0
/-- MCS0 is locked and the ports are up. -/
def flowing : State := (locked srv 0).setFlds [(R.NET.CFG.MODE 0, 1), (R.NET.CFG.MODE 1, 1)]
/-- Receive flow 255 or transmit flow 3 exists. -/
def received : State := (rxCreate flowing rxRec [] 0).2.2
def sending : State := (txCreateBody [] [2, 0, 0, 0, 0, 1] flowing txRec).2.2
/-- SDP.IMPORT of flow 9, MCS0. -/
def sdpP : List Byte := [9, 0, 0, 0] ++ w4 480 ++ w4 20000 ++
  ascii "v=0\nc=IN IP4 239.1.2.3\nm=audio 5004 RTP/AVP 98\na=rtpmap:98 L24/48000/2\na=ptime:1\n"

theorem witness_rx_flows : all [
    !rxLocked flowing rxRec, (rxCreate flowing rxRec [] 0).1 == stOk,
    endsOk .rxfCreate 0x900 rxRec flowing fun t _ => t.fld (R.RXF.F_STAT.STATE 255) == 1 && sGet (fun _ => []) t.fw.work.rx 255 == rxRec,
    rxNamers received 255 == [],
    okEmpty .rxfDelete 0x901 [255] received fun t => t.fld (R.RXF.F_STAT.STATE 255) == 0,
    !offsetLocked received ([255, 0, 0, 0] ++ w4 700), !offsetBad received ([255, 0, 0, 0] ++ w4 700),
    !received.flag (R.RXF.F_CFG.ALIGN_EN 255),
    okEmpty .rxfOffset 0x902 ([255, 0, 0, 0] ++ w4 700) received fun t => t.fld (R.RXF.F_OFFSET.SAMPLES 255) == 700,
    !offsetBad (received.setFld (R.RXF.F_CFG.LANE 255) 127) ([255, 1, 0, 0] ++ w4 700),
    accepts .rxfOffset 0x902 ([255, 1, 0, 0] ++ w4 700) (received.setFld (R.RXF.F_CFG.LANE 255) 127) fun t => (t.flow 255).slew.isSome,
    madeSeamless received 255, received.fld (R.RXF.F_CFG.PATHS 255) == 3,
    okEmpty .redPaths 0xC01 [255, 1] received fun t => t.fld (R.RXF.F_CFG.PATHS 255) == 1 && t.fld (pathFld 255 1) == 0,
    (sdpCreate flowing sdpP).1 == stOk,
    ends stLocked .rxfCreate 0x900 (record 7 2 1 4 3 0 480 20000 [239, 1, 2, 3] 5004 0) inDx fun _ d => d == [],
    ends stLocked .rxfDelete 0x901 [0] inDx fun _ d => d == [],
    ends stLocked .rxfOffset 0x902 ([0, 0, 0, 0] ++ w4 700) inDx fun _ d => d == [],
    ends stLocked (fun ch tag => .txfCreate ch tag [] []) 0xA00 txRec inDx fun _ d => d == [],
    ends stLocked .txfDelete 0xA01 [7] inDx fun _ d => d == [],
    ends stLocked .sdpAnnounce 0xB02 ([7, 1] ++ w2 300) inDx fun _ d => d == [],
    ends stLocked .redPaths 0xC01 [7, 1] inDx fun _ d => d == [],
    accepts .sdpImport 0xB00 sdpP flowing fun t => t.fld (R.RXF.F_STAT.STATE 9) == 0] = true := by decide +kernel

theorem witness_tx_flows : all [
    (txCreateBody [] [2, 0, 0, 0, 0, 1] flowing txRec).1 == stOk,
    endsOk (fun ch tag => .txfCreate ch tag [] [2, 0, 0, 0, 0, 1]) 0xA00 txRec flowing fun t _ => t.fld (R.TXF.F_STAT.STATE 3) == 1 &&
      sGet (fun _ => []) t.fw.work.tx 3 == txRec,
    !txLocked sending [3], !txNamed sending 3,
    okEmpty .txfDelete 0xA01 [3] sending fun t => t.fld (R.TXF.F_STAT.STATE 3) == 0 && sGet (fun _ => []) t.fw.work.tx 3 == [],
    okEmpty .sdpAnnounce 0xB02 ([3, 1] ++ w2 300) sending fun t => sGet (fun _ => 0) t.fw.sap 3 == 300,
    serving sending] = true := by decide +kernel

/-- The announcements of flow 3 are due. -/
theorem witness_sap : ((fun s : State => sGet (fun _ => 0) s.fw.sap 3 != 0 && s.fld (R.TXF.F_STAT.STATE 3) != 0 && serving s)
    { sending with fw := { sending.fw with sap := [(3, 300)] } }) = true := by decide +kernel

/-- The device as the master of a stack, or as a twin's standby. -/
def master : State := srv.setFld R.STK.ID.STATE 5
def standby : State := let s := srv.setFld R.TWIN.STAT.STATE 3
  { s with twin := { s.twin with dynOk := true, cfgOk := true } }

theorem witness_diag : all [
    okEmpty .stkSet 0xD01 ([1, 0, 0, 0] ++ w4 19000) master fun t => t.fld R.STK.CFG.FUN_BUDGET == 19000 && t.flag R.STK.CFG.RING,
    okEmpty .twinSet 0xE00 ([2, 1, 15, 0] ++ w2 60000) (srv.setFld (R.STK.LINK.UP 1) 1) fun t => t.fld R.TWIN.HCFG.PERIOD_MS == 60000 && t.fld R.TWIN.CFG.ROLE == 2,
    okEmpty .twinSet 0xE00 ([0, 1, 15, 0] ++ w2 100) (inDx.setFld (R.STK.LINK.UP 1) 1) fun t => t.fld R.TWIN.HCFG.PERIOD_MS == 100,
    ends stLocked .grdSet 0xF00 ([8, 0] ++ w2 1000 ++ w2 2 ++ w2 0 ++ w4 31) inDx fun _ d => d == [],
    ends stLocked .grdReprobe 0xF02 (w2 1 ++ [0, 0]) inDx fun _ d => d == [],
    ends stLocked .diagSnapClear 0x1000 (w4 0 ++ w4 1) inDx fun _ d => d == [],
    linkFits master 0 22 19000, linkFits master 1 22 19000,
    canDecide standby,
    endsOk .twinTakeover 0xE01 [0] standby fun t d => d == leBytes 4 (t.fld R.TWIN.TAKEOVER_GEN.GEN),
    okEmpty .grdSet 0xF00 ([8, 0] ++ w2 1000 ++ w2 0x8000 ++ w2 0 ++ w4 31) srv fun t => t.fld R.GRD.CTL.TRIP_FRAMES == 8 && t.fld R.GRD.AUTOSWAP.PORTS == 0x8000,
    okEmpty .grdReprobe 0xF02 (w2 0x8000 ++ [128, 0]) (srv.setFlds [(R.GRD.TDM_STAT.TRIPPED 15, 32), (R.GRD.TIO_STAT.TRIPPED, 128)]) fun t =>
      t.grd.reprobe == [95, 103],
    endsOk .diagSnapClear 0x1000 (w4 64 ++ w4 0) (srv.setFlds []) fun t d => decide (4 ≤ d.length) && t.freeCtr == srv.freeCtr,
    !portBusy srv 3,
    okEmpty .diagLoopback 0x1002 [3, 2] srv fun t => t.pins.loopback.getD 3 0 == 2,
    accepts .diagMarch 0x1003 ([1, 0, 0, 0] ++ w4 10) srv fun t => t.gal == srv.gal] = true := by decide +kernel

/-- A command with tag 9 of slot 0 that answered ACCEPTED. -/
def going (s : State) (op : Nat) (p : List Byte) : State :=
  { s with mbx := { s.mbx with cmds := [⟨0, 0, op, 9, 0, p.length, 0, false, p, 0, 0, .accepted, 0, [], false⟩] } }
/-- An end of it leaves one event, with a status and a state that pass a check. -/
def tells (op : Nat) (p : List Byte) (s : State) (i : Instr) (st : Nat) (f : State → List Byte → Bool) : Bool :=
  let s := going s op p
  serving s && (acceptedCmd s 0 9).any (fun c => c.opcode == op) && nxt i s fun t =>
    match (t.evtq 0).queue with
    | [m] => m.opcode == op && m.status == st && m.tag == 9 && f t m.data && t.mbx.ready == [] && t.fld R.MBX.STAT.EVT_PENDING == 1
    | _ => false
/-- The bound, or a failure of the hardware, has passed. -/
def fin (v : Nat) : Instr := .acceptedCommandEnd 0 9 false v 0 0 0
/-- An image of 256 bytes has been transferred; Forme 0 is stored; the window of TDM port 15 is being quieted. -/
def imaged (sec : Nat) : State :=
  { srv with fw := { srv.fw with image := some (256, List.replicate 256 1) }, flash := { srv.flash with minSec := sec } }
def stored1 : State := { srv with flash := { srv.flash with formes := [List.replicate 12 7, [], [], [], []] } }

theorem witness_accepted : all [
    tells 0x104 (w4 4) srv (fin 0) stOk fun t _ => t.fw.image == some (4, []) && t.flash.images.getD 1 [9] == [],
    tells 0x106 [] (imaged 0) (fin 1) stOk fun t d => t.flash.trial && t.fw.image == none && d == [0, 0, 0, 0],
    tells 0x106 [] (imaged 0) (fin 0) stBadArg fun t d => t.flash == srv.flash && t.fw.image == none && d == [1, 0, 0, 0],
    tells 0x106 [] (imaged 2) (fin 2) stBadArg fun t d => !t.flash.trial && d == [2, 0, 0, 0],
    tells 0x106 [] { srv with fw := { srv.fw with image := some (255, List.replicate 255 1) } } (fin 1) stBadArg fun _ d => d == [3, 0, 0, 0],
    tells 0x106 [] { srv with fw := { srv.fw with image := some (300, List.replicate 256 1) } } (fin 1) stBadArg fun _ d => d == [3, 0, 0, 0],
    tells 0x107 [] (srv.setFld R.MBX.BOOT_INFO.TRIAL 1) (fin 0) stOk fun t _ => t.flash.active == 1 && t.fld R.MBX.BOOT_INFO.TRIAL == 0,
    tells 0x302 [0] stored1 (fin 0) stOk fun t d => t.fw.staging == List.replicate 12 7 && d == w4 12 ++ w4 0x07070707,
    tells 0x305 [4] srv (fin 0) stOk fun t _ => t.flash.formes.getD 4 [] == srv.fw.work.image && t.flash.formes.getD 3 [] == [],
    tells 0x306 [3] srv (fin 0) stOk fun t _ => t.flash.bootOv == some 3,
    tells 0x306 [0xFF] { srv with flash := { srv.flash with bootOv := some 3 } } (fin 0) stOk fun t _ => t.flash.bootOv == none,
    (namedDirs 0x8000 0).map dirPort == [15], tells 0x602 (w2 0x8000 ++ w2 0) srv (fin 0) stOk fun _ d => d == [],
    (let s := going (srv.setFld (R.TDM.TX_STAT.STATE 15) tdmRunning) 0x602 (w2 0x8000 ++ w2 0)
     nxt (fin 0) s fun t => t == s),
    tells 0x305 [4] srv (.acceptedCommandEnd 0 9 true 0 0 0 0) stHw fun t _ => t.flash == srv.flash && t.fw == srv.fw,
    tells 0x305 [4] srv (.commandBoundTimeout 0 9) stTimeout fun t _ => liveGen t == 0 && t.fw == srv.fw] = true := by decide +kernel

theorem witness_results : all [
    (let s := asked1 srv 0x201 []
     let t := endCmd s 0 9 stOk [7]
     t.mbx.ready == [(0, ⟨0x201, 9, stOk, 0, 0, [7]⟩)] && t.mbx.cmds.all fun x => x.phase == .done),
    (let t := endCmd (going srv 0x305 [4]) 0 9 stOk [7]
     (t.evtq 0).queue == [⟨0x305, 9, stOk, 0, 0, [7]⟩] && t.mbx.ready == [] && t.mbx.cmds.all fun x => x.phase == .done),
    (let t := acceptCmd (asked1 srv 0x305 [4]) 0 9
     t.mbx.ready == [(0, ⟨0x305, 9, stAccepted, 0, 0, []⟩)] && (acceptedCmd t 0 9).any fun x => x.payload == [4]),
    !stkMember srv, liveGen (finishGen srv 0x202 0) == 1, follow srv srv == srv] = true := by decide +kernel

/-- PWR.CONFIG is taken, with a length, flags and a header that may be malformed. -/
def config (s : State) (len flags : Nat) (bad : Bool) : State :=
  { s with mbx := { s.mbx with cmds := [⟨0, 0, 0x202, 9, flags, len, 5, bad, List.replicate 16 0, 0, 0, .taken, 0, [], false⟩] } }
/-- PWR.CONFIG with the present images. -/
def configOf (s : State) : State :=
  { s with mbx := { s.mbx with cmds := [⟨0, 0, 0x202, 9, 0, 16, 0, false, pwrOf srv, 0, 0, .taken, 0, [], false⟩] } }
/-- It is asked in that state and answers with a status; nothing but its own record changes. -/
def answers (st : Nat) (s : State) : Bool :=
  (takenCmd s 0 9).any (fun c => c.opcode == 0x202 && !gBusy s c) && serving s &&
    nxt (.pwrConfig 0 9) s fun t => t == endCmd s 0 9 st [] && t.mbx.ready.map (fun m => m.2.status) == [st]

theorem witness_checks : all [
    answers stBadOpcode (config (srv.setFld R.SYS.PHASE.PHASE_F 3) 15 1 true), !opKnown (srv.setFld R.SYS.PHASE.PHASE_F 3) 0x202,
    answers stBadLength (config srv 15 1 true), opKnown srv 0x202,
    answers stBadArg (config (srv.setFld R.STK.ID.STATE 7) 16 1 true),
    answers stQuar (config (srv.setFld R.STK.ID.STATE 7) 16 1 false),
    answers stGenMis (config (srv.setFld R.REGIF.HOST_OWN0.OWN 2) 16 1 false),
    answers stLocked (config ((srv.setFld R.REGIF.HOST_OWN0.OWN 2).setFld R.FRM.STAT.INCONSISTENT 1) 16 0 false),
    answers stBadArg (config (srv.setFld R.FRM.STAT.INCONSISTENT 1) 16 0 false),
    (pwrImages (pwrOf srv)).all fun x => fwTakes srv x.1 x.2,
    answers stWrongPhase (configOf (srv.setFld R.FRM.STAT.INCONSISTENT 1)), answers stWrongPhase (configOf (srv.setFld R.STK.ID.STATE 6))] = true := by decide +kernel

/-- Both halves of the galley hand out cells; queue `q` is `x`, with a reservation of eight cells. -/
def pooled (q : Nat) (x : GQueue) : State :=
  let s := srv.setFlds [(R.GAL.Q_CAP.CELLS q, 8), (R.GAL.Q_RES.CELLS q, 8)]
  ({ s with gal := { s.gal with built := [true, true] } }).setGq q x
/-- An item with one cell, written in part; a queue with a waiting item, or with an open one. -/
def anItem (live : Bool) : GItem := ⟨2, 7, 9, [⟨0, 5⟩], [1, 2, 3, 4, 5, 6, 7, 8], live⟩
def holding (live : Bool) : GQueue := { gqEmpty with elems := [.item (anItem live)] }
def filling : GQueue := { gqEmpty with opened := some (anItem false), known := true }

theorem witness_producer : all [
    nxt (.itemOpen 1023 3 none 7 9) (pooled 1023 gqEmpty) fun t => (t.gq 1023).opened == some ⟨3, 7, 9, [], [], false⟩,
    allots (pooled 1023 gqEmpty) 1023 1 == none,
    nxt (.itemOpen 1023 3 (some 64) 7 9) (pooled 1023 gqEmpty) fun t => (t.gq 1023).known && (t.gq 1023).opened.any fun i => i.cells.length == 1,
    allots (pooled 0 gqEmpty) 0 9 == some 1,
    nxt (.itemOpen 0 3 (some 513) 7 9) (pooled 0 gqEmpty) fun t => (t.gq 0).swallow && t.fld (R.GAL.Q_DROPS.COUNT 0) == 1 && t.fld R.GAL.EVT.DROP == 1,
    nxt (.itemWordWrite 1023 (List.replicate 8 9) false) (pooled 1023 filling) fun t => (t.gq 1023).opened.any fun i => i.bytes.length == 16,
    nxt (.itemWordWrite 1023 [9] true) (pooled 1023 filling) fun t => (t.gq 1023).opened == none && (t.gq 1023).elems.length == 1,
    nxt (.itemCommit 512) (pooled 512 (holding false)) fun t => (t.gq 512).elems == [.item (anItem true)],
    nxt (.itemCommit 511) (pooled 511 (holding false)) fun t => (t.gq 511).elems == [.item (anItem true)],
    nxt (.itemRewind 1023) (pooled 1023 (holding false)) fun t => (t.gq 1023).elems == [] && t.fld (R.GAL.Q_RWND.COUNT 1023) == 1,
    nxt (.itemRewind 1023) (pooled 1023 filling) fun t => (t.gq 1023).opened == none && t.fld (R.GAL.Q_RWND.COUNT 1023) == 1,
    nxt (.carriedSlugPlace 1023) (pooled 1023 { gqEmpty with carried := some ⟨65535, 7, 9, 1⟩ }) fun t => (t.gq 1023).carried == none &&
      (t.gq 1023).elems.length == 1] = true := by decide +kernel

theorem witness_consumer : all [
    nxt (.queuePop 1023) (pooled 1023 gqEmpty) fun t => t.out == [.galPop 1023 none []],
    (holding true).depth == 1,
    nxt (.queuePop 1023) (pooled 1023 (holding true)) fun t => t.out == [.galPop 1023 (some (.item (anItem true))) []] && (t.gq 1023).rd == 1,
    nxt (.queueMark 1023) (pooled 1023 { holding true with rd := 1 }) fun t => (t.gq 1023).mark == some 1,
    nxt (.queueRewind 1023) (pooled 1023 { holding true with rd := 1, mark := some 0 }) fun t => (t.gq 1023).rd == 0 && t.out == [.galBack 1023 0],
    nxt (.queueRewind 1023) (pooled 1023 (holding true)) fun t => t.out == [.galBack 1023 1],
    nxt (.queueRewind 1023) (pooled 1023 { holding true with flushed := true }) fun t => t.out == [.galBack 1023 2],
    nxt (.queueRelease 1023 false) (pooled 1023 { holding true with rd := 1 }) fun t => (t.gq 1023).elems == [] && (t.gq 1023).rd == 0,
    nxt (.queueRelease 1023 true) (pooled 1023 { holding true with rd := 1, mark := some 1 }) fun t => (t.gq 1023).elems == []] = true := by
  decide +kernel

/-- A flush is under way. -/
def flushing (wait : Bool) : State :=
  let s := (pooled 9 { gqEmpty with swallow := true }).setFlds [(R.GAL.FLUSH_STAT.BUSY, 1), (R.GAL.FLUSH_STAT.LAST_Q, 9), (R.GAL.Q_STAT.FLUSHING 9, 1)]
  { s with gal := { s.gal with flushWait := wait } }
/-- The window is open in TEST. -/
def testing : State := (pooled 9 (holding true)).setFlds [(R.SYS.PHASE.PHASE_F, 2), (R.GAL.DIAG.WIN_EN, 1)]

theorem witness_maintenance : all [
    nxt (.flushStart 1023) (pooled 1023 (holding true)) fun t => t.fld R.GAL.FLUSH_STAT.LAST_Q == 1023 && (t.gq 1023).elems.length == 1 &&
      (t.gq 1023).elems.all GElem.isSlug,
    nxt (.flushStart 0) (pooled 0 gqEmpty) fun t => (t.gq 0).elems == [] && t.fld R.GAL.FLUSH_STAT.BUSY == 1,
    nxt .flushEnd (flushing false) fun t => t.fld R.GAL.FLUSH_STAT.DONE == 1 && t.fld (R.GAL.Q_STAT.FLUSHING 9) == 0,
    nxt .flushForcedAbort (flushing true) fun t => t.fld R.GAL.FLUSH_STAT.FLUSH_ABORT == 1 && !(t.gq 9).swallow,
    (holding true).cells == [⟨0, 5⟩],
    nxt (.linkParityError 1023 0) (pooled 1023 (holding true)) fun t => t.fld R.GAL.EVT.LINK_ERR == 1 && t.fld R.GAL.FLUSH_STAT.BUSY == 1,
    nextFree (usedCells (pooled 9 gqEmpty)) (pooled 9 gqEmpty) 1 131071 == some 131071, ((pooled 9 gqEmpty).setFld R.GAL.SCRUB.EN 1).flag R.GAL.SCRUB.EN,
    nxt (.freeListBuilt 1) srv fun t => t.gal.built == [false, true] && t.fld R.GAL.POOL.BUILD1 == 0,
    resFits ((pooled 9 gqEmpty).setFld (R.GAL.BUDGET.CELLS 0) 100) 9 5,
    nxt (.qResWrite 9 5) (pooled 9 gqEmpty) fun t => t.fld (R.GAL.Q_RES.CELLS 9) == 5 && t.fld (R.GAL.Q_CAP.CELLS 9) == 8,
    same (.qResWrite 9 9) (pooled 9 gqEmpty),
    !resFits ((pooled 9 gqEmpty).setFlds [(R.GAL.BUDGET.CELLS 0, 1), (R.GAL.Q_RES.CELLS 9, 1), (ressum 0, 1)]) 9 8,
    nxt (.qResWrite 9 8) ((pooled 9 gqEmpty).setFlds [(R.GAL.BUDGET.CELLS 0, 1), (R.GAL.Q_RES.CELLS 9, 1), (ressum 0, 1)]) fun t =>
      t.fld R.GAL.EVT.ADMIT_REFUSED == 1 && t.fld (R.GAL.Q_RES.CELLS 9) == 1,
    nxt (.qCapWrite 9 8) (pooled 9 gqEmpty) fun t => t.fld (R.GAL.Q_CAP.CELLS 9) == 8,
    nxt (.qCfgHalfWrite 9 true 0) ((pooled 9 gqEmpty).setFld (R.GAL.Q_CFG.HALF 9) 2) fun t => t.fld (R.GAL.Q_CFG.HALF 9) == 0 && t.fld (R.GAL.Q_CFG.BE 9) == 1,
    nxt (.budgetWrite 4 7) (srv.setFlds [(R.GAL.BUDGET.CELLS 0, 0), (R.GAL.BUDGET.CELLS 1, 0)]) fun t => t.fld (R.GAL.BUDGET.CELLS 4) == 7,
    same (.galDiagAccess true 320 7) srv, nxt (.galDiagAccess false 320 7) srv fun t => t.out == [.diagRead 320 0],
    winOpen testing,
    nxt (.galDiagAccess false 324 0) testing fun t => t.out == [.diagRead 324 0x08070605],
    nxt (.galDiagAccess false 8388604 0) testing fun t => t.out == [.diagRead 8388604 0],
    nxt (.galInjectArm 0xC7FFFFFF) testing fun t => t.fld R.GAL.INJECT.ARM == 1 && t.fld R.GAL.INJECT.BIT == 71 && t.fld R.GAL.INJECT.CELL == 131071 &&
      t.fld R.GAL.INJECT.WORD == 7] = true := by decide +kernel

/-- Flow 255: two channels of AAF INT16 at 62.5 us from NETA, in a state; its queue takes eight cells. -/
def rxFlow (st : Nat) (fs : List (Fld × Nat)) : State :=
  let s := (pooled 510 gqEmpty).setFlds ([(R.RXF.F_CFG.FORMAT 255, 4), (R.RXF.F_CFG.AVTP 255, 1), (R.RXF.F_CFG.PATHS 255, 1),
    (R.RXF.F_CHAN.CHANNELS 255, 2), (R.RXF.F_STAT.STATE 255, st), (R.RXF.F_DEPTH.US 255, 20000), (R.NET.STAT.LINK_UP 0, 1)] ++ fs)
  locked s 0
/-- A key of flow 255 on NETA in the CAM, with an action; the path waits for index 480. -/
def keyed (act : Nat) : State :=
  let w0 := 2 ^ 31 + 2 * 2 ^ 28 + act * 2 ^ 10 + (if act = 0 then 255 else 31)
  let s := rxFlow 2 []
  let s := s.setFlow 255 { s.flow 255 with next := [some 480, none] }
  { s with cls := sPut (fun _ => 0#32) (sPut (fun _ => 0#32) (sPut (fun _ => 0#32) s.cls (8 * 4096) (BitVec.ofNat 32 w0))
      (8 * 4096 + 4) 0x01020304) (8 * 4096 + 5) 0x05060708 }
/-- An IEEE 1722 AAF frame of six samples to 91:E0:F0:00:01:02, of 66 bytes with its FCS. -/
def avtpFrame : List Byte :=
  let b : List Byte := [0x91, 0xE0, 0xF0, 0, 1, 2, 2, 0, 0, 0, 0, 9, 0x22, 0xF0, 2, 0x80, 5, 0, 1, 2, 3, 4, 5, 6, 7, 8, 0, 0, 0, 0,
    4, 0x50, 2, 16, 0, 24, 0, 0, 0x12, 0x34, 0, 0, 0x80, 0, 0, 1, 0, 2, 0, 3, 0, 4, 0, 5, 0, 6, 0, 7, 0, 8, 0, 9]
  b ++ leBytes 4 (crc32 b)
/-- What FrameOk asks. -/
def frameOk (s : State) (p : Nat) (raw : List Byte) : Bool :=
  let b := raw.take (raw.length - 4)
  linkUp s p && fromLE (raw.drop (raw.length - 4)) == crc32 b && decide (64 ≤ raw.length) &&
    decide (raw.length ≤ s.fld (R.NET.CFG.MAX_DATA p) + 18) && (hdrOf raw).etype != 0x8808 && macAccepts s p b && !(hdrOf raw).ckBad
/-- What PacketOk and QueueTakes ask, for index `k`. -/
def packetOk (s : State) (f k : Nat) (raw : List Byte) : Bool :=
  let i := readPacket s f (hdrOf raw).body
  s.flag (R.RXF.F_CFG.AVTP f) && i.agree && (hdrOf raw).type == 2 && i.payload.length == payloadLen 4 2 (rxN s f) &&
    sourceIndex s f 0 i == some (k, true) && decide ((s.ptiRaw (s.mcsPti 0) : Int) + 3000 * nsUnit ≤ instantOf s 0 (k + linkOffset s f)) &&
    decide ((instantOf s 0 (k + linkOffset s f) : Int) + periods (rxN s f) (s.mcsFs 0) ≤ s.ptiRaw (s.mcsPti 0) + 20000000 * nsUnit)
def queueTakes (s : State) (q n : Nat) : Bool :=
  (s.gq q).opened == none && !(s.gq q).swallow && decide ((s.gq q).held + cellsFor n ≤ s.fld (R.GAL.Q_RES.CELLS q))

theorem witness_frames : all [
    same (.netFrameRx 2 avtpFrame true) srv,
    nxt (.netFrameRx 0 avtpFrame false) (rxFlow 2 []) fun t => t.fld (R.NET.FCS_ERR.COUNT 0) == 1 && t.fld (R.NET.STAT.ERR_EV 0) == 1,
    frameOk (keyed 2) 0 avtpFrame, (classify (keyed 2) 0 (hdrOf avtpFrame)).1 == some 4096,
    nxt (.netFrameRx 0 avtpFrame true) (keyed 2) fun t => t.fld R.RXF.CLS_DROP.COUNT == 1,
    nxt (.netFrameRx 0 avtpFrame false) (keyed 1) fun t => t.fld (R.NET.FCS_ERR.COUNT 0) == 1 && t.fld (R.GAL.Q_RWND.COUNT 991) == 1,
    nxt (.netFrameRx 0 avtpFrame false) (keyed 0) fun t => t.fld (R.NET.FCS_ERR.COUNT 0) == 1 && t.fld (R.GAL.Q_RWND.COUNT 510) == 1,
    frameOk (keyed 1) 0 avtpFrame, (classify (keyed 1) 0 (hdrOf avtpFrame)).1 == some 4096,
    queueTakes ((keyed 1).setFlds [(R.GAL.Q_CAP.CELLS 991, 8), (R.GAL.Q_RES.CELLS 991, 8)]) 991 78,
    frameOk (keyed 0) 0 avtpFrame, packetOk (keyed 0) 255 480 avtpFrame, queueTakes (keyed 0) 510 40,
    nxt (.netFrameRx 0 avtpFrame true) (keyed 0) fun t => match (t.gq 510).elems with
      | [.item it] => it.ts == 480 && it.folio == 5 && (it.bytes.drop 16).take 6 == [0x12, 0x34, 0, 0, 0x80, 0] && it.bytes.length == 40 && !it.live
      | _ => false,
    nxt (.netLinkStateChange 2 3 true true false) srv fun t => linkUp t 2 && t.fld (R.NET.STAT.STATE 2) == 3 && t.fld (R.NET.STAT.AN_EV 2) == 1,
    nxt (.netLinkStateChange 1 3 false true true) (srv.setFld R.GRD.CTL.CLASSES 0) fun t => linkUp t 1 && t.fld (R.NET.STAT.FEC_LOCK 1) == 1,
    nxt (.netLinkStateChange 1 0 false false false) (srv.setFlds [(R.NET.STAT.LINK_UP 1, 1), (R.TIME.PTI_CFG.EN 3, 1),
      (R.TIME.PTI_CFG.PORTS 3, 2), (R.RXF.F_CFG.PATHS 255, 3), (pathFld 255 1, 2)]) fun t => !linkUp t 1 && t.fld (pathFld 255 1) == 3] = true := by
  decide +kernel

/-- An access of PCIe to a table that the host owns. -/
def tableFor (b : Nat) : State := srv.setFld R.REGIF.HOST_OWN0.OWN (2 ^ b)
def tableOpen (s : State) (init b : Nat) : Bool := initUp s init && s.domOn 2 && ((init == 2) == !hostOwns s b) && !quoinIn s b
/-- An entry of destination 0x9FF that is captured. -/
def captured (link : Option Nat) : State := srv.setImp 0x9FF { srv.imp 0x9FF with cap := some 0x1E000000, link := link }
/-- The strobe stands 100 us ahead of the first index. -/
def notYet : State := { captured none with strobes := [(1, 0, 100000 * nsUnit)] }
/-- Its direction's mask waits too. -/
def maskPends : State :=
  let s := captured (some 31)
  { s with cap := [⟨15, (td (R.TDM.TX_MASK.SLOTS 15) true).key, 1⟩] }
/-- The device with a DX port. -/
def withDx (s : State) : State := s.setFld R.SYS.STRAPS.PERS 2

theorem witness_tables : all [
    tableOpen (tableFor bRXF) 0 bRXF, tableOpen srv 2 bIMP,
    nxt (.classifierKeyWrite 0 true 63 7 5) (tableFor bRXF) fun t => t.key 4159 7 == 5 && t.key 4159 6 == 0,
    nxt (.classifierKeyWrite 0 true 0 1 5) ((tableFor bRXF).setKey 4096 0 0x80000000) fun t => t.fld R.RXF.CLS_STAT.REFUSED == 1 && t.key 4096 1 == 0,
    nxt (.classifierKeyWrite 0 false 4095 0 7) ((tableFor bRXF).setKey 4095 0 0x80000000) fun t => t.key 4095 0 == 7,
    nxt (.classifierKeyWrite 0 true 63 0 0xA0000000) (tableFor bRXF) fun t => t.key 4159 0 == 0xA0000000 && t.fld R.RXF.CLS_STAT.KEYS == 1,
    keyPlace (keyHash 2 0 0 (keyAddr srv 0)) 0 != 0,
    [0, 1, 2, 3].all fun x => 4095 != keyPlace (keyHash 2 0 0 (keyAddr srv 4095)) x,
    nxt (.classifierKeyWrite 0 false 4095 0 0xA0000000) (tableFor bRXF) fun t => t.fld R.RXF.CLS_STAT.REFUSED == 1 && t.key 4095 0 == 0,
    nxt (.classifierKeyWrite 0 false (keyPlace (keyHash 2 0 0 (keyAddr srv 0)) 3) 0 0xA0000000) (tableFor bRXF) fun t =>
      t.fld R.RXF.CLS_STAT.KEYS == 1,
    impJudge srv 0x9FF 0x1E000000 == none,
    nxt (.impositionEntryWrite 2 0x9FF 0x1E000000) srv fun t => (t.imp 0x9FF).shadow == 0x1E000000 && t.imp 0x9FE == srv.imp 0x9FE,
    (impJudge srv 8191 0x1E000000).isSome,
    nxt (.impositionEntryWrite 2 8191 0x1E000000) srv fun t => t.fld R.IMP.STAT.REFUSED == 1 && t.fld R.IMP.REFUSED_CNT.COUNT == 1,
    nxt (.impositionTakeEffect 0x9FF) (captured none) fun t => (t.imp 0x9FF).cap == none && (t.imp 0x9FF).cur.word == 0x1E000000,
    maskWaits maskPends 31, same (.impositionTakeEffect 0x9FF) maskPends, !maskWaits (captured (some 31)) 31,
    nxt (.impositionTakeEffect 0x9FF) (captured (some 31)) fun t => (t.imp 0x9FF).cap == none,
    (withDx srv).dxPresent,
    nxt (.classifierKeyWrite 2 true 63 0 0xA8000007) (withDx srv) fun t => t.key 4159 0 == 0xA8000007,
    nxt (.classifierKeyWrite 2 true 63 0 0xA8000007) srv fun t => t.fld R.RXF.CLS_STAT.REFUSED == 1,
    dstIndex notYet 0x9FF == 0, impDue notYet 0x9FF == 5, same (.impositionTakeEffect 0x9FF) notYet] = true := by decide +kernel

/-- Index 0 of flow 255 stands in its queue. -/
def playing : State :=
  (rxFlow 1 []).setGq 510 { gqEmpty with elems := [.item ⟨0, 5, 0, [⟨0, 5⟩], List.replicate 16 0 ++ [0x12, 0x34, 0, 0, 0x80, 0, 0, 1, 0, 2, 0, 3], true⟩] }
/-- An adaptive window of flow 255 that is full. -/
def window (m : Int) : State :=
  let s := rxFlow 2 [(R.RXF.F_CFG.ADAPT 255, 1), (R.RXF.F_OFFSET_NOW.SAMPLES 255, 480), (R.RXF.F_TGT.LO_US 255, 1000), (R.RXF.F_TGT.HI_US 255, 2000),
    (R.RXF.F_CFG.LANE 255, 127)]
  s.setFlow 255 { s.flow 255 with winN := 2 ^ s.fld (R.RXF.F_PLC.WIN 255), winMin := some m }
/-- Flow 255 is seamless with path 1 in use. -/
def twoPaths (n : Nat) : State :=
  let s := srv.setFlds [(R.RXF.F_CFG.PATHS 255, 3), (pathFld 255 1, 2), (pathFld 255 0, 2)]
  s.setFlow 255 { s.flow 255 with empty := [0, n] }

/-- Flow 255's lane slews by 25 samples at 100 ppm from time 0, and some seconds have passed. -/
def slewed (sec : Nat) : State :=
  let s := rxFlow 2 [(R.RXF.F_CFG.LANE 255, 127), (R.KRN.L_STAT.STATE 127, laneSlew), (R.RXF.F_STAT.SLEWING 255, 1)]
  let s : State := { s with ptis := s.ptis.map fun p => { p with time := ⟨sec, 0, 0⟩ } }
  s.setFlow 255 { s.flow 255 with slew := some ⟨25, 100, 0⟩ }

theorem witness_playout : all [
    same (.playoutIndexDue 7) (rxFlow 2 [(R.RXF.F_CFG.MCS 255, 0)]),
    mcsCount playing 0 == 0,
    nxt (.playoutIndexDue 0) playing fun t => t.fld (R.RXF.F_STAT.STATE 255) == 2 && (t.gq 510).rd == 1 &&
      findSort t (rxIdent playing 255 0) 0 == some (0x12340000, false),
    nxt (.playoutIndexDue 0) (rxFlow 2 []) fun t => t.fld (R.RXF.F_STAT.STATE 255) == 3 && t.fld (R.RXF.F_STAT.CONCEAL_EV 255) == 1 &&
      findSort t (rxIdent playing 255 1) 0 == some (0, false),
    nxt (.placementWindowEnd 255) (window 1000000) fun t => (t.flow 255).winN == 0 && (t.flow 255).slew == none,
    nxt (.placementWindowEnd 255) (window 2000000) fun t => (t.flow 255).winMin == none,
    nxt (.placementWindowEnd 255) (window 999999) fun t => (t.flow 255).slew.any (fun w => w.delta == 25) &&
      t.fld (R.RXF.F_OFFSET_NOW.SAMPLES 255) == 505,
    decide ((slewTimes (slewed 10) 255 ⟨25, 100, 0⟩).1 + (slewTimes (slewed 10) 255 ⟨25, 100, 0⟩).2 ≤ 10000000000 * nsUnit),
    same (.kerningSlewEnd 255) (slewed 5),
    nxt (.kerningSlewEnd 255) (slewed 10) fun t => (t.flow 255).slew == none && t.fld (R.KRN.L_STAT.STATE 127) == laneRun &&
        t.fld (R.KRN.L_STAT.SLEW_DONE_EV 127) == 1,
    same (.kerningSlewEnd 0) srv,
    nxt (.krnTrackDone 255) (locked (srv.setFld (R.KRN.L_STAT.STATE 255) laneTrack) 0) fun t => t.fld (R.KRN.L_STAT.STATE 255) == laneRun &&
      t.fld (R.KRN.L_STAT.VALID 255) == 1 && (t.lane 255).runs.head? == some (0, none) && t.fld (R.KRN.L_STAT.OVERFLOW 255) == 0,
    srv.lanes.length == 256,
    seamless (twoPaths 0) 255,
    nxt (.redPathLoss 255 1) (twoPaths ((twoPaths 0).fld R.RED.CFG.LOSS_PP)) fun t => t.fld (pathFld 255 1) == 3 && t.fld (R.RED.F_STAT.LOST_B_EV 255) == 1 &&
      t.fld (pathFld 255 0) == 2,
    same (.redPathLoss 255 1) (twoPaths 0), decide (0 < (twoPaths 0).fld R.RED.CFG.LOSS_PP)] = true := by decide +kernel

/-- Transmit flow 255: one channel of AAF INT16 on NETA with a template of 22 bytes, at index 12 of MCS 0; its queue has eight
cells; the link of NETA is up. -/
def txFlow (st : Nat) (fs : List (Fld × Nat)) : State :=
  let s := locked ((pooled 767 gqEmpty).setFlds ([(R.TXF.F_CFG.FORMAT 255, 4), (R.TXF.F_CFG.PATHS 255, 1), (R.TXF.F_CHAN.CHANNELS 255, 1),
    (R.TXF.F_CHAN.TLEN 255, 22), (R.TXF.F_STAT.STATE 255, st), (R.NET.STAT.LINK_UP 0, 1)] ++ fs)) 0
  { s with ptis := s.ptis.map fun p => { p with time := ⟨0, 250000, 0⟩ } }
/-- A packet that waits for its launch on NETA; a funnel member's packet; a frame in NETA's queue. -/
def slotted : GElem := .item ⟨0, 5, 480, [⟨0, 5⟩], List.replicate 6 0 ++ [0x80, 9] ++ List.replicate 8 0 ++ [1, 2, 3, 4], true⟩
def launching (fs : List (Fld × Nat)) : State := (txFlow 2 fs).setGq 767 { gqEmpty with elems := [slotted] }
def queuing : State := { txFlow 2 [] with txp := [⟨[⟨256, 480, 0, [1, 2, 3, 4]⟩], 0, 0, 0, none⟩, txpReset, txpReset] }
def funnelling : State :=
  ((pooled 952 gqEmpty).setFlds [(R.TXF.FUN_CFG.EN 63, 1), (R.TXF.FUN_CFG.MEMBER 63, 1), (R.TXF.FUN_CFG.FLOW 63, 9),
    (R.TXF.FUN_CFG.PATHS 63, 1), (R.NET.STAT.LINK_UP 0, 1)]).setGq 952 { gqEmpty with elems := [slotted] }
/-- The frame of four bytes as it leaves. -/
def padded : List Byte := [1, 2, 3, 4] ++ List.replicate 56 0

theorem witness_egress : all [
    mcsCount (txFlow 1 []) 0 == 12, txN (txFlow 1 []) 255 == 6,
    nxt (.txFlowStart 255) (txFlow 1 []) fun t => t.fld (R.TXF.F_STAT.STATE 255) == 2 && (t.txf 255).k == 6 && (t.txf 255).k0 == 6,
    queueTakes (txFlow 2 []) 767 50, decide (launchTime (txFlow 2 []) 0 0 0 6 0 0 ≤ (((txFlow 2 []).ptiRaw 0 + 1000 * nsUnit : Nat) : Int)),
    nxt (.packetClose 255) (txFlow 2 []) fun t => (t.txf 255).k == 6 && (t.txf 255).dbc == 6 && match (t.gq 767).elems with
      | [.item it] => it.live && it.bytes.length == 50 && it.ts == 0 && it.folio == 0
      | _ => false,
    same (.packetLaunch 254) (txFlow 2 []),
    nxt (.packetLaunch 255) (launching [(R.TXF.F_CFG.TIER 255, 1)]) fun t => t.out == [.netTx 0 (padded ++ leBytes 4 (crc32 padded))] &&
      (t.gq 767).elems == [] && (t.txf 255).pkts.head? == some 1 &&
      (t.txp.map TxPort.wire) == [some (255, wireNs srv 0 4 / 2), none, none],
    nxt (.packetLaunch 255) (launching [(R.TXF.F_CFG.TIER 255, 0)]) fun t => (t.txp.map TxPort.wait) == [[⟨255, 480, 0, [1, 2, 3, 4]⟩], [], []] &&
      t.out == [] && (t.gq 767).elems == [slotted],
    same (.portFrameStart 2) srv,
    endsBeforePrime queuing 0 4,
    nxt (.portFrameStart 0) queuing fun t => t.out == [.netTx 0 (padded ++ leBytes 4 (crc32 padded))] && t.txp.all fun x => x.wait == [],
    compositorQueue (txFlow 2 []) 0 == none,
    nxt (.portFrameStart 0) (txFlow 2 []) fun t => t.out == [] && t.rf == (txFlow 2 []).rf,
    nxt (.funnelLaunch 63 true) funnelling fun t => t.fld (R.TXF.FUN_STAT.FUN_LATE 63) == 1 && (t.gq 952).elems == [] && t.txp == funnelling.txp,
    nxt (.funnelLaunch 63 false) funnelling fun t => (t.txp.map TxPort.wait) == [[⟨319, 480, 0, [1, 2, 3, 4]⟩], [], []] && (t.gq 952).elems == []] = true := by
  decide +kernel

/-- Receive block 63 and transmit block 63 at index 12 of MCS 0, three samples of one channel per block, in a state; their
rings have four slots at host addresses; the PCI Express link is up. -/
def hosting (st : Nat) (fs : List (Fld × Nat)) : State :=
  let s := locked (srv.setFlds ([831, 895].flatMap (fun q => [(R.GAL.Q_CAP.CELLS q, 8), (R.GAL.Q_RES.CELLS q, 8)]) ++
    [63, 319].flatMap (fun i => [(R.HST.B_CFG.PTIME i, 0), (R.HST.B_CFG.CHANNELS i, 1), (R.HST.B_RING.ENTRIES i, 4), (R.HST.B_RING_HI.ADDR i, 7),
      (R.HST.B_STAT.STATE i, st)]) ++ [(R.HST.LINK.UP, 1), (R.HST.LINK.STATE, 2)] ++ fs)) 0
  { s with ptis := s.ptis.map (fun p => { p with time := ⟨0, 250000, 0⟩ }), gal := { s.gal with built := [true, true] } }
/-- A block item waits in the queue of the receive block, which has written `n` slots of it. -/
def slotWaits (n : Nat) (fs : List (Fld × Nat)) : State :=
  let s := (hosting 2 fs).setGq 831 { gqEmpty with elems := [.item ⟨2, 0, 9, [⟨0, 5⟩], List.replicate 28 3, true⟩], rd := n }
  s.setHst 63 { s.hst 63 with wrote := n }
/-- A block awaits a read, having failed `n` times in a row. -/
def awaits (i off len n : Nat) (s : State) : State :=
  { s with reads := [⟨i, off, len, true⟩] }.setHst i { s.hst i with fails := n }
/-- The bound on failures in a row. -/
def retry : Nat := srv.fld R.HST.CFG.RETRY

theorem witness_host_rx : all [
    hstN (hosting 1 []) 63 == 3, mcsCount (hosting 1 []) 0 == 12,
    [63, 319].all fun i => nxt (.hostBlockStart i) (hosting 1 []) fun t => hstState t i == 2 && (t.hst i).k == 3,
    queueTakes (hosting 2 []) 831 28,
    hstState (hosting 2 []) 63 == 2, ((hosting 2 []).hst 63).k == 0, ((hosting 2 []).gq 831).elems == [],
    (hrWords (hosting 2 []) 63 0).1 == List.replicate 12 0,
    dmaOn (slotWaits 0 []),
    nxt (.hrSlotWrite 63) (slotWaits 0 []) fun t => t.out == [.hostRead 0 4, .hostWrite 0 [1, 0, 0, 0] false,
        .hostWrite (7 * 2 ^ 32) (List.replicate 28 3) false] && (t.gq 831).rd == 1 && hstDev t 63 == 1 && t.reads == [⟨63, 0, 4, true⟩],
    nxt (.confirmReadCompletion 63 true) (awaits 63 0 4 2 (slotWaits 1 [(R.HST.B_CFG.NOTIFY 63, 1)])) fun t => t.reads == [] &&
      (t.hst 63).fails == 0 && t.fld (R.HST.B_STAT.DATA_EV 63) == 1,
    decide (0 < retry),
    [Instr.confirmReadCompletion 63 false, .cplTimeout 63 0].all fun c =>
      nxt c (awaits 63 0 4 (retry - 1) (slotWaits 1 [])) fun t => hstState t 63 == 4 && t.fld (R.HST.B_STAT.FAULT_EV 63) == 1 && (t.gq 831).rd == 0 &&
        t.fld (R.HST.B_RETRY.COUNT 63) == 1,
    nxt (.confirmReadCompletion 63 false) (awaits 63 0 4 0 (slotWaits 1 [(R.HST.CFG.RETRY, 2)])) fun t => hstState t 63 == 2 && (t.hst 63).fails == 1,
    nxt (.hrAckWrite 63 1) (slotWaits 1 [(R.HST.B_IDX.DEV_IDX 63, 1)]) fun t => hstHost t 63 == 1 && (t.gq 831).elems == [] && (t.gq 831).rd == 0,
    nxt (.hrAckWrite 63 2) (slotWaits 1 [(R.HST.B_IDX.DEV_IDX 63, 1)]) fun t => t.fld (R.HST.B_STAT.BAD_IDX_EV 63) == 1 && hstHost t 63 == 0,
    same (.hrAckWrite 63 1) (hosting 0 [])] = true := by decide +kernel

/-- A slot of the transmit block is being read: its first bytes have come, and the read of the others is outstanding. -/
def reading (left : Nat) : State :=
  let s := (hosting 2 [(R.HST.B_IDX.HOST_IDX 319, 1)]).setGq 895 { gqEmpty with opened := some ⟨2, 0, 0, [⟨0, 5⟩], [], false⟩, known := true }
  { s with reads := [⟨319, 16, 12, true⟩] }.setHst 319 { s.hst 319 with
    fails := retry - 1, fetch := some ⟨[28, 0, 0, 0x20, 0, 0, 0, 0, 24, 0, 0, 0, 0, 0, 0, 0], [], left⟩ }
/-- Its other bytes. -/
def words3 : List Byte := [1, 0, 0, 0, 2, 0, 0, 0, 3, 0, 0, 0x80]

theorem witness_host_tx : all [
    nxt (.htProdWrite 63 5) (hosting 2 []) fun t => t.fld (R.HST.B_STAT.BAD_IDX_EV 319) == 1 && hstHost t 319 == 0,
    slotReads (hosting 2 []) 319 == [(0, 28)],
    nxt (.htProdWrite 63 4) (hosting 2 []) fun t => hstHost t 319 == 4 && (t.hst 319).fetch == some ⟨[], [], 1⟩ &&
      t.reads == [⟨319, 0, 28, true⟩] && t.out == [.hostRead (7 * 2 ^ 32) 28],
    nxt (.htReadCompletion 63 16 words3 true) (reading 2) fun t => t.reads == [] && (t.hst 319).fetch.any fun f =>
      f.left == 1 && f.buf.length == 28 && f.buf.drop 16 == words3,
    nearestClass 24 12 == 24, tableNext (reading 1) 0 == 13,
    nxt (.htReadCompletion 63 16 words3 true) (reading 1) fun t => (t.hst 319).fetch == none && hstDev t 319 == 1 &&
      t.out == [.hostWrite 0 [1, 0, 0, 0] false] && findSort t 0xA00 24 == some (1, false) && findSort t 0xA00 26 == some (0x80000003, false),
    [Instr.htReadCompletion 63 16 words3 false, .cplTimeout 319 16].all fun c => nxt c (reading 1) fun t => hstState t 319 == 4 &&
      t.fld (R.HST.B_STAT.FAULT_EV 319) == 1 && (t.hst 319).fetch == none && (t.gq 895).opened == none && hstDev t 319 == 0,
    nxt (.pcieLinkStateChange 4 3 7) (srv.setFlds [(R.HST.LINK.UP, 1), (R.HST.LINK.STATE, 2)]) fun t => t.fld R.HST.LINK.STATE == 4 &&
      t.fld R.HST.LINK.UP == 0 && t.fld R.HST.LINK.LINK_EV == 1,
    nxt (.pcieLinkStateChange 2 3 7) srv fun t => t.fld R.HST.LINK.UP == 1 && t.fld R.HST.LINK.SPEED == 3 && t.fld R.HST.LINK.LINK_EV == 1 &&
      t.fld R.HST.LINK.SHORT_EV == 0,
    decide (rateLimit (hosting 2 [(R.HST.CFG.RATE_PCT, 0)]) < admitted (hosting 2 [(R.HST.CFG.RATE_PCT, 0)]) false),
    (srv.setFld R.SYS.STRAPS.PERS 1).pers == 1, same (.pcieLinkStateChange 2 3 4) (srv.setFld R.SYS.STRAPS.PERS 1)] = true := by decide +kernel

/-- The control port is SPI, or I2C. -/
def i2c : State := srv.setFlds [(R.SYS.STRAPS.CTL_SEL, 1), (R.SYS.STRAPS.STACK_POS, 7)]

/-- What a frame's write of 5 to the first alias word leaves. -/
def written (s : State) : State := follow (ctlBegin s) (busWrite (ctlBegin s) 1 0x80000000 5).1

theorem witness_control_port : all [
    nxt (.ctlSpiFrame [0x40] []) i2c fun t => t.out == [.ctlHighZ] && t.rf == i2c.rf,
    ctlServes srv, srv.fld R.SYS.STRAPS.CTL_SEL == 0, ctlDummy srv == 1,
    nxt (.ctlSpiFrame [0xFF] []) srv fun t => t.out == [.ctlTx [BitVec.ofNat 8 (ctlStatus srv)]] && t.fld R.HST.CTL_FRAMES.COUNT == 1,
    ((busRead (ctlBegin srv) 1 0).side 1).stalled == none, (srv.side 1).stalled == none, (i2c.side 1).stalled == none,
    nxt (.ctlSpiFrame ([0, 0, 0, 0, 0] ++ List.replicate 5 0) []) srv fun t => match t.out with
      | .ctlTx b :: _ => b.drop 6 == beBytes 4 ((busRead (ctlBegin srv) 1 0).side 1).data.toNat
      | _ => false,
    ((written srv).side 1).stalled == none, (ctlEnd (written srv) ctlClean).pstate != 1,
    ((written i2c).side 1).stalled == none, (ctlEnd (written i2c) ctlClean).pstate != 1,
    nxt (.ctlSpiFrame [0x40, 0x80, 0, 0, 0, 0, 0, 0, 5] []) srv fun t => t.out == [.ctlTx (BitVec.ofNat 8 (ctlStatus srv) :: List.replicate 8 0)],
    nxt (.ctlSpiFrame [0x40, 0x80, 0, 0] []) srv fun t => t.fld R.HST.CTL_STAT.FRAME_ERR_EV == 1 && t.fld R.HST.CTL_ERRS.COUNT == 1,
    same (.ctlI2cFrame 0x50 [] none) srv, same (.ctlI2cFrame 0x50 [] none) i2c, ctlServes i2c,
    nxt (.ctlI2cFrame 0x57 [] (some 2)) i2c fun t => t.out == [.ctlTx [BitVec.ofNat 8 (ctlStatus i2c), 0]] && t.fld R.HST.CTL_FRAMES.COUNT == 1,
    nxt (.ctlI2cFrame 0x57 [0, 0, 0, 0, 0] (some 5)) i2c fun t => match t.out with
      | .ctlTx b :: _ => b.drop 1 == beBytes 4 ((busRead (ctlBegin i2c) 1 0).side 1).data.toNat
      | _ => false,
    nxt (.ctlI2cFrame 0x57 [0x40, 0x80, 0, 0, 0, 0, 0, 0, 5] none) i2c fun t => t.out == [.ctlTx []]] = true := by decide +kernel

/-- A device in a stack, in a state, with links up. -/
def stacked (st : Nat) (fs : List (Fld × Nat)) : State := srv.setFlds ([(R.STK.CFG.EN, 1), (R.STK.ID.STATE, st)] ++ fs)
def linksUp (l : List Nat) : List (Fld × Nat) := l.flatMap fun i => [(R.STK.LINK.UP i, 1), (R.STK.LINK.STATE i, 3)]
/-- It has been calm for a number of TIME frames. -/
def calmFor (n : Nat) : State := let s := stacked 4 [(R.STK.TCFG.REGAIN, 1)]; { s with stk := { s.stk with calm := n } }
/-- A member whose master is at generation 7; its stored Forme 4 is an empty one. -/
def behind : State :=
  let s := stacked 3 [(R.TIME.PTI_CFG.EN 3, 1), (R.TIME.PTI_STAT.LOCKED 3, 1)]
  { s with stk := { s.stk with mgen := 7 }, flash := { s.flash with formes := [[], [], [], [], okForme] } }
def aboutSelf (l port : Nat) : Instr := .stkLinkTrained l port 7 99 1 0 2 5 false false false

theorem witness_stack_links : all [
    (stacked 0 []).stk.links.length == 2, (stacked 0 []).domOn 7, grdOn (stacked 0 []) 3,
    [0, 1].all fun l => nxt (aboutSelf l l) (stacked 0 []) fun t => t.fld (R.STK.LINK.STATE l) == 4 && !stkUp t l && t.fld (R.STK.LINK.PEER_POS l) == 7 &&
      t.fld (if l = 0 then R.GRD.LANE_STAT.MISWIRE_U else R.GRD.LANE_STAT.MISWIRE_D) == 1,
    [0, 1].all fun l => nxt (aboutSelf l (1 - l)) (stacked 0 []) fun t => t.fld (R.STK.LINK.STATE l) == 3 && stkUp t l && t.fld (R.STK.LINK.LINK_EV l) == 1 &&
      (t.slink l).serial == 99 && t.stk.devs.any fun d => d.pos == 7 && d.serial == 99 && d.link == l,
    same (aboutSelf 0 1) srv,
    (let s := stacked 3 (linksUp [1]); stkUp s 1 && !stkUp s 0 && s.fld R.TWIN.STAT.STATE == 0),
    nxt (.stkLinkDown 1) (stacked 3 (linksUp [1])) fun t => t.fld (R.STK.LINK.STATE 1) == 0 && !stkUp t 1 && t.fld (R.STK.LINK.LINK_EV 1) == 1 &&
      t.fld R.STK.ID.STATE == 0 && t.fld R.STK.STAT.STATE_EV == 1,
    nxt (.stkLinkDown 0) (stacked 5 (linksUp [0])) fun t => t.fld R.STK.ID.STATE == 5 && !stkUp t 0,
    nxt .stkTimeFrameTx (stacked 5 (linksUp [0, 1])) fun t => t.out == [.stkTime 1 (List.replicate 4 ⟨0, 0, 0⟩) [] 0, .stkTime 0 (List.replicate 4 ⟨0, 0, 0⟩) [] 0],
    same .stkTimeFrameTx (stacked 3 (linksUp [0, 1])),
    nxt .stkTimeRegain (calmFor 800) fun t => t.fld R.STK.ID.STATE == 3 && t.fld R.STK.STAT.TIME_EV == 1 && t.stk.calm == 0,
    same .stkTimeRegain (calmFor 799),
    nxt .stkIdentifyTimeout (stacked 1 []) fun t => t.fld R.STK.ID.STATE == 6 && t.fld R.STK.STAT.STATE_EV == 1,
    same .stkIdentifyTimeout (stacked 2 []),
    nxt .stkMasterLoss behind fun t => t.fld R.STK.ID.STATE == 6 && t.fld (R.TIME.PTI_STAT.LOCKED 3) == 0,
    same .stkMasterLoss (stacked 5 []), same (.stkGenPull 4 0 [] true) (stacked 5 []),
    stkMember behind, liveGen behind == 0, behind.fw.apply == none,
    nxt (.stkGenPull 4 0 [] false) behind fun t => liveGen t == 7 && t.fw.apply == none,
    formeVerdict behind okForme == 0, (parseForme okForme).isSome, (freePlaten behind).isSome,
    nxt (.stkGenPull 4 (u32 okForme 16 + 1) [] true) behind fun t => t.fld R.STK.ID.STATE == 2 && t.fw.apply == none && liveGen t == 0,
    nxt (.stkGenPull 4 (u32 okForme 16) [] true) behind fun t => liveGen t == 0 && t.fw.apply.any fun a => a.takeGen == some 7 && a.epoch == 0 &&
      some a.target == parseForme okForme] = true := by decide +kernel

/-- Stack block 21 of a direction runs at index 12 of MCS 0, one channel of three samples; STKD is up and position 1 is behind it. -/
def blocks (i st : Nat) (fs : List (Fld × Nat)) : State :=
  let s := stacked 3 (linksUp [1] ++ [917, 949].flatMap (fun q => [(R.GAL.Q_CAP.CELLS q, 8), (R.GAL.Q_RES.CELLS q, 8)]) ++
    [(R.STK.B_CFG.PTIME i, 0), (R.STK.B_CFG.CHANNELS i, 1), (R.STK.B_STAT.STATE i, st), (R.STK.B_ROUTE.DEST i, 2)] ++ fs)
  let s := locked s 0
  let s := s.setSlink 1 { s.slink 1 with credit := [8, 8, 8, 8] }
  { s with ptis := s.ptis.map (fun p => { p with time := ⟨0, 250000, 0⟩ }), gal := { s.gal with built := [true, true] }
           stk := { s.stk with devs := [⟨1, 9, 1, 0, 2, 0, 3, 0, 1⟩] } }
/-- Its item of index 24. -/
def item24 : List Byte := [28, 0, 0, 0x20, 0, 0, 0, 0, 24, 0, 0, 0, 0, 0, 0, 0, 1, 0, 0, 0, 2, 0, 0, 0, 3, 0, 0, 0x80]
/-- It comes from block 21 of position 3. -/
def fromBlock (good : Bool) (msg : StkMsg) : Instr := .synzoFrameRx 1 1 1 (3 + 8 * 21) 2 0 item24 good msg
def playsBlock : State :=
  blocks 277 2 [(R.STK.B_ROUTE.SRC_POS 277, 3), (R.STK.B_ROUTE.SRC_BLOCK 277, 21), (R.STK.B_OFFSET.SAMPLES 277, 3), (R.CLK.MCS_CFG.REF_TYPE 0, 1)]

theorem witness_stack_frames : all [
    stkN (blocks 21 2 []) 21 == 3, stkWords (blocks 21 2 []) 21 == 12, mcsCount (blocks 21 2 []) 0 == 12,
    stkMuted (blocks 21 2 [(R.STK.ID.STATE, 2)]),
    nxt (.soItemSend 21) (blocks 21 2 [(R.STK.ID.STATE, 2)]) fun t => (t.sblk 21).k == 3 && (t.sblk 21).seq == 1 && t.out == [],
    !stkMuted (blocks 21 2 []), queueTakes (blocks 21 2 []) 917 28, stkNeeds (blocks 21 2 []) 2 == [(1, 2)], stkUp (blocks 21 2 []) 1,
    same (.synzoFrameRx 0 1 1 0 2 0 [] true .none) playsBlock, same (.synzoFrameRx 2 1 1 0 2 0 [] true .none) playsBlock,
    nxt (fromBlock false .none) playsBlock fun t => t.fld (R.STK.CRC_ERR.COUNT 1) == 1 && t.fld R.STK.STAT.ERR_EV == 1 && t.gal == playsBlock.gal,
    nxt (.synzoFrameRx 0 2 2 7 2 5 [1, 2] true .none) (stacked 3 (linksUp [0, 1])) fun t => t.out == [.synzo 1 ⟨2, 2, 7, 2, 0, [1, 2]⟩],
    nxt (.synzoFrameRx 0 3 1 0 2 5 [] true .none) (stacked 3 (linksUp [0])) fun t => t.out == [.stkTell 0 (.lost 3 0)],
    nxt (.synzoFrameRx 0 4 1 0 2 65535 [] true .none) (stacked 3 (linksUp [0])) fun t => t.out == [],
    tableNext playsBlock 0 == 13, (List.range 21).all fun j => blkState playsBlock (256 + j) == 0,
    queueTakes playsBlock 949 28, nearestClass 24 9 == 24, !stkMuted playsBlock,
    blkState playsBlock 277 == 2, playsBlock.fld (R.STK.B_ROUTE.SRC_POS 277) == 3, playsBlock.fld (R.STK.B_ROUTE.SRC_BLOCK 277) == 21,
    u32 item24 0 == 2 * 2 ^ 28 + 28, u32 item24 8 == 24, stkWords playsBlock 277 == 12, playsBlock.fld (R.CLK.MCS_CFG.REF_TYPE 0) == 1,
    (playsBlock.gq 949).elems == [], stkPos playsBlock == 0] = true := by
  decide +kernel

/-- A twin in a state and role, its link STKD up. -/
def twin (st role : Nat) (fs : List (Fld × Nat)) : State :=
  srv.setFlds ([(R.TWIN.STAT.STATE, st), (R.TWIN.CFG.ROLE, role), (R.TWIN.CFG.LINK, 1), (R.STK.LINK.UP 1, 1), (R.TWIN.STAT.PARTNER_OK, 1)] ++ fs)
/-- A standby that may decide, after some missed heartbeats, with a health score. -/
def decider (miss score : Nat) (fs : List (Fld × Nat)) : State :=
  let s := twin 3 2 ([(R.TWIN.HEALTH.SCORE, score), (R.TWIN.CFG.MIN_SCORE, 60), (R.TWIN.CFG.AUTO, 1), (R.TWIN.CFG.PIN_EN, 1),
    (R.TWIN.CFG.HB_MISS, 3)] ++ fs)
  { s with twin := { s.twin with miss := miss, dynOk := true, cfgOk := true } }
/-- A handover is due at a tick. -/
def handing (s : State) (t0 : Nat) : State := { s with ticks := 100, twin := { s.twin with handAt := some t0 } }
/-- It has taken over. -/
def tookOver (cause : Nat) (t : State) : Bool :=
  t.fld R.TWIN.STAT.STATE == 4 && t.fld R.TWIN.STAT.CAUSE == cause && t.fld R.TWIN.STAT.TAKE_EV == 1 && t.twin.launchAt == t.ticks + 1000 &&
    t.pins.twinTakeLow && t.out == [.takePulse]

theorem witness_twin_decisions : all [
    nxt .twinHeartbeatTx (twin 2 1 []) fun t => t.out == [.heartbeat 1 2 0 0],
    same .twinHeartbeatTx (twin 0 1 []), same .twinHeartbeatTx (twin 2 1 [(R.STK.LINK.UP 1, 0)]),
    same .twinHeartbeatMiss (twin 0 1 []),
    nxt .twinHeartbeatMiss (decider 1 100 []) fun t => t.twin.miss == 2 && t.rf == (decider 1 100 []).rf,
    nxt .twinHeartbeatMiss (decider 2 100 [(R.TWIN.CFG.AUTO, 0)]) fun t => t.fld R.TWIN.STAT.PARTNER_OK == 0 && t.fld R.TWIN.STAT.HB_LOST_EV == 1 &&
      t.fld R.TWIN.STAT.STATE == 3,
    canDecide (decider 2 59 []), !stkMember (decider 2 60 []),
    [Instr.twinHeartbeatMiss, .twinFailPin 50].all fun c => nxt c (decider 2 59 []) fun t => t.fld R.TWIN.STAT.INHIBIT_EV == 1 &&
      t.fld R.TWIN.STAT.STATE == 3 && t.out == [],
    nxt .twinHeartbeatMiss (decider 2 60 []) (tookOver 1), nxt (.twinFailPin 50) (decider 0 60 []) (tookOver 2),
    nxt .twinCmdTake (decider 0 0 [(R.TWIN.CMD.TAKE, 1)]) fun t => tookOver 3 t && t.fld R.TWIN.CMD.TAKE == 0,
    nxt .twinHandoverCycle (handing (decider 0 0 []) 100) fun t => tookOver 3 t && t.twin.handAt == none,
    same (.twinFailPin 49) (decider 0 60 []), same .twinCmdTake (decider 0 60 []), same .twinCmdTake (twin 2 1 [(R.TWIN.CMD.TAKE, 1)]),
    nxt .twinTakePulseSeen (twin 2 1 []) fun t => t.fld R.TWIN.STAT.STATE == 5 && t.fld R.TWIN.STAT.TAKE_EV == 1 && t.out == [],
    nxt .twinHandoverCycle (handing (twin 2 1 []) 99) fun t => t.fld R.TWIN.STAT.STATE == 5 && t.txp.all fun p => p.wait.isEmpty,
    same .twinTakePulseSeen (decider 0 60 []), same .twinHandoverCycle (handing (twin 2 1 []) 101), same .twinHandoverCycle (twin 2 1 []),
    nxt .twinCmdHandover (twin 2 1 [(R.TWIN.CMD.HANDOVER, 1)]) fun t => t.twin.handAt == some 500000 && t.twin.seq == 1 && t.fld R.TWIN.STAT.STATE == 2,
    same .twinCmdHandover (twin 2 1 [])] = true := by decide +kernel

/-- A dynamic checkpoint of a generation, of no flow, waits in Q951. -/
def ckptBody (g : Nat) : List Byte := w4 0 ++ w4 g ++ List.replicate 8 0
def ckptWaits (g : Nat) : State :=
  let b := ckptBody g
  ((pooled 951 gqEmpty).setFlds [(R.TWIN.STAT.STATE, 3), (R.TWIN.CFG.ROLE, 2)]).setGq 951
    { gqEmpty with elems := [.item ⟨3, 0, 0, [⟨0, 5⟩], List.replicate 16 0 ++ b ++ leBytes 4 (crc32c b), true⟩] }
/-- TAKING ends at a tick. -/
def takingAt (t0 : Nat) : State := let s := twin 4 2 []; { s with ticks := 40, twin := { s.twin with launchAt := t0 } }

/-- Its partner was the stack's master. -/
def masterTaken : State :=
  let s := (takingAt 1000).setFld R.STK.ID.STATE 6
  { s with stk := { s.stk with devs := [⟨1, 9, 1, 0, 1, 0, 3, 0, 1⟩] } }

theorem witness_checkpoints : all [
    nxt .twinTakingEnd (takingAt 1000) fun t => t.fld R.TWIN.STAT.STATE == 2 && t.fld R.TWIN.CFG.ROLE == 1 && t.fldSh R.TWIN.CFG.ROLE == 1,
    partnerIsMaster masterTaken, nxt .twinTakingEnd masterTaken fun t => t.fld R.STK.ID.STATE == 5,
    same .twinTakingEnd (takingAt 1001),
    nxt .twinPairingTimeout (twin 1 1 [(R.TWIN.STAT.PARTNER_OK, 0)]) fun t => t.fld R.TWIN.STAT.STATE == 2 && t.fld R.TWIN.STAT.STATE_EV == 1,
    same .twinPairingTimeout (twin 1 1 []), same .twinCheckpointDynamicTx (twin 0 0 []),
    nxt .twinCheckpointDynamicTx (let s := twin 3 2 []; { s with twin := { s.twin with hashes := [(255, 6)] } }) fun t => t.twin.hashes == [] &&
      ownHash t 255 == 0xFFFFFFF9 && t.twin.seq == 0,
    nxt .twinCheckpointDynamicTx (twin 2 1 []) fun t => t.twin.hashes == [] && t.twin.seq == 1 && t.fld R.TWIN.STAT.STATE == 2,
    same .twinCheckpointCommit (twin 3 2 []),
    parseDyn (ckptBody 0) == (0, [], []), (ckptWaits 0).fld R.TWIN.CFG_GEN.GEN == 0, (ckptWaits 0).twin.cfgHeld == none,
    nxt .twinCheckpointCommit (ckptWaits 0) fun t => t.twin.dynOk && t.twin.held == none && (t.gq 951).elems == [],
    nxt .twinCheckpointCommit (ckptWaits 5) fun t => t.twin.held == some (5, [], []) && !t.twin.dynOk && (t.gq 951).elems == [],
    (twin 3 2 []).fld R.TWIN.HCFG.PERIOD_MS != 0, healthScore (twin 3 2 []) == 70,
    nxt (.twinHealthPeriodEnd 0 0) (twin 3 2 [(R.TWIN.CFG.MIN_SCORE, 71)]) fun t => t.fld R.TWIN.HEALTH.SCORE == 70 && t.fld R.TWIN.STAT.HEALTH_EV == 1 &&
      t.twin.period == List.replicate 4 false,
    nxt (.twinHealthPeriodEnd 3 0) (twin 3 2 [(R.TWIN.CFG.PROOF, 4)]) fun t => t.fld R.TWIN.MARCH_FAIL.COUNT == 3 &&
      t.twin.period == List.replicate 4 false,
    healthScore (twin 2 1 []) == 70, nxt (.twinHealthPeriodEnd 0 0) (twin 2 1 []) fun t => t.fld R.TWIN.HEALTH.SCORE == 70,
    same (.twinHealthPeriodEnd 3 1) (twin 0 0 []), same (.twinHealthPeriodEnd 3 1) (twin 3 2 [(R.TWIN.HCFG.PERIOD_MS, 0)])] = true := by decide +kernel

/-- Direction `rx` of TDM15 in a state, I2S with two slots of 32 bits, MCS 0 being locked. -/
def dirOf (rx : Bool) (st : Nat) (fs : List (Fld × Nat)) : State :=
  locked (srv.setFlds ([(td (R.TDM.TX_STAT.STATE 15) rx, st), (td (R.TDM.TX_FMT.EN 15) rx, 1), (td (R.TDM.TX_FRAME.SLOTS 15) rx, 2),
    (td (R.TDM.TX_FRAME.WIDTH 15) rx, 32), (td (R.TDM.TX_MASK.SLOTS 15) rx, 3), (td (R.TDM.TX_FMT.MASTER 15) rx, 1)] ++ fs)) 0
/-- Its group's fire has started it at an index; it has begun some leading-out frames. -/
def startsAt (rx : Bool) (a d : Nat) : State :=
  let s := dirOf rx 2 []
  { s.setTdm 15 rx { s.tdm 15 rx with start := some (a, d) } with ptis := s.ptis.map fun p => { p with time := ⟨0, 250000, 0⟩ } }
def leadsOut (rx : Bool) (outs : Nat) : State :=
  let s := dirOf rx 5 [(td (R.TDM.TX_LEAD.LEAD_OUT 15) rx, 4)]
  s.setTdm 15 rx { s.tdm 15 rx with outs := outs }

/-- It runs on its port's clocks, at index 12; the sorts 5 and 80000001h stand on its line. -/
def runs (rx : Bool) (fs : List (Fld × Nat)) : State :=
  { dirOf rx 4 ([(td (R.TDM.TX_FRAME.OFFSET 15) rx, 0)] ++ fs) with ptis := srv.ptis.map fun p => { p with time := ⟨0, 250000, 0⟩ } }
def line64 : List Nat := List.replicate 29 0 ++ [1, 0, 1, 1] ++ List.replicate 30 0 ++ [1]

theorem witness_tdm : all [
    (dirOf true 1 []).tdms.length == 32, [false, true].all fun rx => armOk (dirOf rx 1 []) 15 rx,
    [false, true].all fun rx => nxt (.tdmArmWrite 15 rx true) (dirOf rx 1 []) fun t => t.tdmState 15 rx == tdmArmed && t.fld (td (R.TDM.TX_CMD.ARM 15) rx) == 1,
    !armOk srv 15 true, srv.tdmState 15 true == 0,
    nxt (.tdmArmWrite 15 true true) srv fun t => t.fld (td (R.TDM.TX_STAT.CMD_BAD 15) true) == 1,
    [Instr.tdmArmWrite 15 true false, .tdmStopWrite 15 true].all fun c => nxt c (dirOf true 2 []) fun t => t.tdmState 15 true == tdmReady,
    nxt (.tdmStopWrite 15 false) (dirOf false 3 []) fun t => t.fld (R.TDM.TX_CMD.STOP 15) == 1 && t.tdmState 15 false == 3,
    nxt (.tdmStartInstant 15 true) (startsAt true 12 12) fun t => t.tdmState 15 true == tdmRunning,
    nxt (.tdmStartInstant 15 true) (startsAt true 12 13) fun t => t.tdmState 15 true == tdmLeadIn,
    same (.tdmStartInstant 15 true) (startsAt true 13 13),
    nxt (.tdmClockLost 15 true) (dirOf true 4 [(R.TDM.RX_FMT.MASTER 15, 0)]) fun t => t.tdmState 15 true == tdmClockLost &&
      t.fld (R.TDM.RX_STAT.CLK_LOST_EV 15) == 1,
    nxt (.tdmClockLost 15 true) (dirOf true 4 [(R.CLK.PLL_STAT.SYS_LOCK, 0)]) fun t => t.tdmState 15 true == tdmClockLost,
    same (.tdmClockLost 15 true) (dirOf true 4 []),
    nxt (.tdmLeadOutEnd 15 false) (leadsOut false 4) fun t => t.tdmState 15 false == tdmReady, same (.tdmLeadOutEnd 15 false) (leadsOut false 3),
    dirSlot (dirOf true 4 []) 15 true 1 == some 1, ((dirOf true 4 []).tdm 15 true).chans.length == 32,
    masterEdge (runs true []) 15 true, mcsCount (runs true []) 0 == 12,
    nxt (.tdmFrame 15 true false 64 1 line64 []) (runs true []) fun t => (t.tdm 15 true).idx == 12 && t.rf == (runs true []).rf &&
      t.out == [.tdmClocks 15 true 12 (true :: List.replicate 63 false)] && findSort t 0x9E0 12 == some (5, false) &&
      findSort t 0x9E1 12 == some (0x80000001, false),
    nxt (.tdmFrame 15 true false 64 1 line64 []) (let s := runs true []; s.setTdm 15 true { s.tdm 15 true with muted := [1] }) fun t =>
      findSort t 0x9E1 12 == some (0, false) && (t.tdm 15 true).muted == [],
    [false, true].all fun rx => same (.tdmFrame 15 rx false 64 1 line64 []) (dirOf rx 4 []),
    nxt (.tdmFrame 15 false false 64 1 [] []) (runs false []) fun t => (t.tdm 15 false).idx == 12 && (t.tdm 15 false).takenIdx == 13 &&
      t.out == [.tdmTx 15 12 false (List.replicate 128 (some 0)), .tdmClocks 15 false 12 (true :: List.replicate 63 false)],
    nxt (.tdmFrame 15 false false 64 1 [] []) (let s := runs false [(R.TDM.TX_FRAME.OFFSET 15, 1)]
      s.setTdm 15 false { s.tdm 15 false with tail := [some 1] }) fun t => (t.tdm 15 false).tail == [some 0] &&
      t.out.head? == some (.tdmTx 15 12 false ([some 1, some 1] ++ List.replicate 126 (some 0))),
    frameLen (dirOf true 4 []) 15 true == 64,
    nxt (.tdmFrame 15 true false 63 1 [5, 6] []) (dirOf true 4 [(R.TDM.RX_FMT.MASTER 15, 0)]) fun t => t.fld (R.TDM.RX_STAT.FRAME_ERR_EV 15) == 1 &&
      t.fld (R.TDM.RX_SLIP.COUNT 15) == 1 && t.tdmState 15 true == 4,
    nxt (.tdmFrame 15 true false 63 1 [5, 6] []) (dirOf true 4 [(R.TDM.RX_FMT.MASTER 15, 0), (R.TDM.RX_CMD.STOP 15, 1), (R.TDM.RX_LEAD.LEAD_OUT 15, 4)]) fun t =>
      t.tdmState 15 true == tdmLeadOut] = true := by decide +kernel

/-- The guard's classes are on, with probes, and pin SDO of TDM15 is tripped. -/
def guarding (fs : List (Fld × Nat)) : State := dirOf false 4 ([(R.GRD.CTL.CLASSES, 31)] ++ fs)
def probing (fs : List (Fld × Nat)) : State := guarding ([(R.GRD.PROBE.REPROBE_MS, 1), (R.GRD.TDM_STAT.TRIPPED 15, 4)] ++ fs)
/-- It has seen some faulted frames in a row. -/
def faulted (n : Nat) : State :=
  let s := guarding [(R.GRD.CTL.TRIP_FRAMES, 3)]
  { s with grd := { s.grd with runs := [(92, n)] } }

theorem witness_guard_tdm : all [
    grdOn (guarding []) 0, pinCompared (guarding []) 15 2,
    [0, 2].all fun k => nxt (.grdReadbackFault 15 2 k) (guarding []) fun t => t.grd.faulted == [92] && t.fld (R.GRD.TDM_CNT.COUNT 15) == 1 &&
      t.fld R.GRD.LAST.INDEX == 15 && t.fld R.GRD.LAST.PIN == 2 && t.fld R.GRD.LAST.KIND == k + 1 &&
      t.fld (if k = 2 then R.GRD.TDM_STAT.CONTEND 15 else R.GRD.TDM_STAT.SHORT 15) == 4,
    nxt (.grdReadbackFault 15 2 0) { guarding [] with latched := [R.GRD.LAST.reg] } fun t => t.rd R.GRD.LAST.reg == 0,
    same (.grdReadbackFault 15 5 0) (guarding []),
    nxt (.grdPinTrip 15 2) (faulted 3) fun t => tripped t 15 2 && t.fld (R.TDM.TX_STAT.OE_HELD 15) == 1 && !tripped t 15 1,
    same (.grdPinTrip 15 2) (faulted 2),
    tripped (probing []) 15 2, (probing []).tdmState 15 (pinRx 2) != tdmClockLost,
    nxt (.grdReprobeTimer 0 15 2 true) (probing [(R.GRD.TDM_STAT.TRIPPED 15, 6)]) fun t => !tripped t 15 2 && tripped t 15 1,
    nxt (.grdReprobeTimer 0 15 2 false) (probing []) fun t => tripped t 15 2 && t.fld R.GRD.REPROBE_FAIL.COUNT == 1,
    same (.grdReprobeTimer 0 15 2 true) (guarding [(R.GRD.PROBE.REPROBE_MS, 0)]),
    openTested (dirOf true 1 []) 15 5, grdOn (dirOf true 1 [(R.GRD.CTL.CLASSES, 31)]) 1,
    nxt (.grdOpenTest 15 0x20 0x1F) (dirOf true 1 [(R.GRD.CTL.CLASSES, 31), (R.GRD.PROBE.OPEN_MS, 1)]) fun t => t.fld (R.GRD.TDM_STAT.OPEN 15) == 0x20,
    nxt (.grdOpenTest 15 0x20 0x1F) (dirOf true 1 [(R.GRD.CTL.CLASSES, 31), (R.GRD.PROBE.OPEN_MS, 1)]) fun t => match t.out with
      | [.pullUp 15 m] => (List.range 6).all fun q => nbit m q == openTested (dirOf true 1 []) 15 q
      | _ => false,
    nxt (.grdOpenTest 15 0x20 0x20) (dirOf true 1 [(R.GRD.CTL.CLASSES, 31), (R.GRD.PROBE.OPEN_MS, 1)]) fun t => t.fld (R.GRD.TDM_STAT.OPEN 15) == 0,
    same (.grdOpenTest 15 0x20 0) (guarding [(R.GRD.PROBE.OPEN_MS, 0)]),
    ratioMeets 64 (64 * 48000) 48000, !ratioMeets 64 48000 (64 * 48000),
    (let s := dirOf true 2 [(R.TDM.RX_FMT.MASTER 15, 0), (R.GRD.CTL.CLASSES, 31)]
     grdOn s 2 && s.tdmState 15 true == tdmArmed && !s.flag (R.TDM.RX_FMT.MASTER 15) && !s.flag (R.GRD.TDM_STAT.RX_SWAP 15) && frameLen s 15 true == 64),
    nxt (.grdClockSwapDetect 15 true 48000 3072000) (dirOf true 2 [(R.TDM.RX_FMT.MASTER 15, 0), (R.GRD.CTL.CLASSES, 31), (R.GRD.TDM_STAT.RX_SWAP 15, 1)])
      fun t => t.fld (R.GRD.TDM_STAT.RX_SWAP 15) == 0,
    same (.grdClockSwapDetect 15 true 3072000 48000) (dirOf true 2 [])] = true := by decide +kernel

theorem witness_guard_lanes : all [
    grdOn (guarding []) 3, grdOn (guarding []) 4, !grdOn (guarding [(R.GRD.CTL.CLASSES, 7)]) 3, !grdOn (guarding [(R.GRD.CTL.CLASSES, 15)]) 4,
    nxt (.grdLossOfSignal 5 true) (guarding []) fun t => t.fld R.GRD.LANE_STAT.LOS == 32 && t.fld R.GRD.LANE_STAT.LANE_EV == 1 && t.fld R.GRD.LANE_CNT.COUNT == 1,
    nxt (.grdLossOfSignal 5 false) (guarding [(R.GRD.LANE_STAT.LOS, 33)]) fun t => t.fld R.GRD.LANE_STAT.LOS == 1 && t.fld R.GRD.LANE_STAT.LANE_EV == 0,
    same (.grdLossOfSignal 5 true) (guarding [(R.GRD.CTL.CLASSES, 7)]),
    tioOut 7, [false, true].all fun k => nxt (.grdTioShort 7 k) (guarding []) fun t => t.fld R.GRD.TIO_STAT.TRIPPED == 128 && t.fld R.GRD.TIO_STAT.FAULT == 128 &&
      t.fld R.GRD.TIO_STAT.TIO_EV == 1 && t.fld R.GRD.TIO_CNT.COUNT == 1 && t.fld R.GRD.LAST.CLASS == 2 && t.fld R.GRD.LAST.KIND == (if k then 3 else 10),
    same (.grdTioShort 2 true) (guarding []), same (.grdTioShort 7 true) (guarding [(R.GRD.TIO_STAT.TRIPPED, 128)]),
    nxt (.grdReprobeTimer 2 0 7 true) (probing [(R.GRD.TIO_STAT.TRIPPED, 130)]) fun t => t.fld R.GRD.TIO_STAT.TRIPPED == 2,
    nxt (.grdReprobeTimer 2 0 7 false) (probing [(R.GRD.TIO_STAT.TRIPPED, 130)]) fun t => t.fld R.GRD.TIO_STAT.TRIPPED == 130 && t.fld R.GRD.REPROBE_FAIL.COUNT == 1,
    nxt .grdTioOpen (guarding []) fun t => t.fld R.GRD.TIO_STAT.OPEN == 2 && t.fld R.GRD.TIO_STAT.TIO_EV == 1 && t.fld R.GRD.TIO_STAT.TRIPPED == 0,
    [0, 2].all fun i => nxt (.grdInputContention i) (guarding []) fun t => t.fld R.GRD.TIO_STAT.FAULT == 2 ^ i && t.fld R.GRD.TIO_STAT.TIO_EV == 1,
    same (.grdInputContention 1) (guarding []),
    nxt .grdPpsLoss (let s := guarding []; { s with grd := { s.grd with ppsSeen := true } }) fun t => t.fld R.GRD.TIO_STAT.PPS_LOSS == 1 &&
      t.fld R.GRD.TIO_STAT.PPS_LOSS_EV == 1 && t.fld R.GRD.TIO_STAT.TIO_EV == 1,
    same .grdPpsLoss (guarding []),
    [Instr.grdTioOpen, .grdInputContention 0, .grdPpsLoss].all fun c => same c (guarding [(R.GRD.CTL.CLASSES, 15)])] = true := by decide +kernel

/-- The DX window is live; its cells are as given. -/
def dxUp (cells : List (Nat × Nat)) : State :=
  { inDx with dx := { inDx.dx with cells := cells.foldl (fun m p => sPut dxReset m p.1 p.2) inDx.dx.cells } }
def dxNow (waiting soft : Bool) : State := { inDx with dx := { inDx.dx with waiting := waiting, softRst := soft, softAt := 0, count := 20 } }

theorem witness_dx_frames : all [
    !dxServes srv, dxServes (dxUp []), dxLive (dxUp []),
    nxt (.dxSpiFrame [0x80, 0] false) srv fun t => t.out == [.ctlHighZ],
    nxt (.dxSpiFrame [0x80, 0] false) (dxUp []) fun t => t.fld R.DXW.STAT.FRAME_EV == 1 && t.fld R.DXW.STAT.FRAME_ERR == 1 && t.out == [.ctlTx [0, 0]],
    dxRc 0x20, dxListed 0x200,
    nxt (.dxSpiFrame [0x80, 0, 0x20, 0, 0] false) (dxUp [(0x20, 0x1234)]) fun t => t.out == [.ctlTx [0, 0, 0, 0x12, 0x34]] && t.dxCell 0x20 == 0,
    nxt (.dxSpiFrame [0x80, 0, 0, 0, 0] false) (dxUp []) fun t => t.out == [.ctlTx [0, 0, 0, 0xD0, 0x64]],
    dxRw 0x10, dxTakes (dxUp []) 0x10 0xFF99 == some 0x99,
    nxt (.dxSpiFrame [0, 0, 0x10, 0xFF, 0x99] false) (dxUp []) fun t => t.dxCell 0x10 == 0x99 && t.fld R.DXW.STAT.WRITE_EV == 1 && t.dx.dirty.contains 0x10,
    dxTakes (dxUp []) 0x10 0x9D == none, nxt (.dxSpiFrame [0, 0, 0x10, 0, 0x9D] false) (dxUp []) fun t => t.out == [.ctlTx [0, 0, 0, 0, 0]] && t.dxCell 0x10 == 0,
    nxt (.dxSpiFrame [0, 0, 0, 0, 1] false) (dxUp []) fun t => t.dx == (dxUp []).dx,
    dxDisc (dxUp [(0x10, 0x10)]),
    nxt (.dxDiscoveryQuery [0x44, 0x58, 1]) (dxUp [(0x10, 0x10)]) fun t => match t.out with
      | [.dxReply b] => b.take 4 == [0xD0, 0x64, 0, 0x12] && b.length == 32
      | _ => false,
    same (.dxDiscoveryQuery [0x44, 0x58]) (dxUp []), same (.dxDiscoveryQuery [0x44, 0x59]) (dxUp [(0x10, 0x10)]),
    nxt (.dxSapAnnounce 7) ((dxUp [(0x10, 0x10)]).setFld (R.TXF.F_STAT.STATE 7) 2) fun t => t.out.length == 1 && t.freeCtr == inDx.freeCtr + 2,
    same (.dxSapAnnounce 7) (dxUp [(0x10, 0x10)])] = true := by decide +kernel

theorem witness_dx_refresh : all [
    nxt (.dxRefresh false) (dxNow false false) fun t => !t.dx.waiting && t.dx.dirty == [] && t.dx.gen == liveGen t && nbit (t.dxCell 0x20) 8,
    nxt .dxRefreshDeferred (dxNow true false) fun t => !t.dx.waiting && t.dxCell 0x30 == dxLock t,
    nxt (.dxRefresh true) (dxNow false false) fun t => t.dx.waiting && t.dx.count == 21 && t.rf == inDx.rf,
    nxt (.dxRefresh true) (dxNow true false) fun t => t.dx.waiting && t.fld R.DXW.STAT.SKIPPED == 1,
    same (.dxRefresh true) srv, same .dxRefreshDeferred srv, same .dxRefreshDeferred (dxNow false false),
    nxt .dxSoftReset (dxNow false true) fun t => !t.dx.softRst && t.dxCell 0x40 == 0x1F4,
    [0, 1, 2, 3, 4, 5, 6, 7].all fun f => (dxNow false true).fld (R.RXF.F_STAT.STATE f) == 0,
    same .dxSoftReset (dxNow false false)] = true := by decide +kernel

/-- Commands wait. -/
def waiting (l : List Instr) : State := { srv with pending := l }

theorem witness_steps : all [
    (match step (waiting [.playoutIndexDue 0, .twinCheckpointCommit]) with | .next t => t == waiting [.twinCheckpointCommit] | _ => false),
    State.reset.pending == [], (match step State.reset with | .next t => t.pending == [] | _ => false),
    (match step (waiting [.resetNPulse 250]) with | .fault .resetPulseForbidden => true | _ => false),
    (match step (waiting [.resetNPulse 999]) with | .fault .resetPulseForbidden => true | _ => false),
    (match step (waiting [.resetNPulse 1000]) with | .next _ => true | _ => false),
    same (.resetNPulse 249) srv, srv.domOn 0] = true := by decide +kernel

/-- Commands, each with one operand past what the block has, a check of WellFormed each. -/
def illFormed0 : List Instr := [
    .resetNPulse 250, .resetNPulse 999, .strapSample 1024, .strapCompare 1024, .domainPowerOff 12, .domainPowerUp 12 false,
    .wakeLatchEdge 16 false 0 false false, .dozeFrameRx 3 [] false, .mcsDetectorInterval 8 0 0 0, .wclkInQualified 6 0, .clkOutputSwitch 5,
    .addendWrite 4 false 0, .ptpMessageRx 4 0 false, .ptpMessageRx 0 3 false, .servoUpdate 4 none none none]

def illFormed1 : List Instr := [
    .freezeHoldExpiry 4, .asymBothTimeout 4, .suspectClear 4, .delayMeasurement 4 0 0, .delayMeasurement 0 3 0, .announceRx 4 0 [] 0 0,
    .announceRx 0 3 [] 0 0, .announceTimeout 4 0, .announceTimeout 0 3, .faultyRecover 4 0, .faultyRecover 0 3, .ptpSyncTx 4 0,
    .ptpSyncTx 0 3, .platenArmWrite 16 0, .platenFire 16]

def illFormed2 : List Instr := [
    .registerWrite 3 0 0, .registerWrite 0 2 0, .clearingRead 3 0, .clearingRead 0 2, .updateStrobe 65536, .shadowApplyAtBoundary 16 0,
    .indirAddrWrite 3 0, .indirDataRead 3, .indirDataWrite 3 0, .indirTransferDone 3, .indirStallTimeout 3, .indirTransferLost 3,
    .wideSelWrite 3 0, .wideSnapshotReady 3, .wideD3Read 3]

def illFormed3 : List Instr := [
    .guardValWrite 3 0, .guardCplWrite 3 0, .guardTimeout 3, .aliasWrite 3 0x100000 0, .aliasWrite 0 1048578 0, .aliasWrite 0 1048575 0,
    .aliasWrite 0 0x200000 0, .counterClear 3 0 0, .counterClear 0 2 0, .irqSourceEvent 256, .irqAck 3 false 0, .irqAck 0 false 256,
    .irqEoi 3 false 0, .irqEoi 0 false 256, .irqPendingSetClr 3 false false 0 0]

def illFormed4 : List Instr := [
    .irqPendingSetClr 0 false false 8 0, .irqMaskSetClr 3 false false 0 0, .irqMaskSetClr 0 false false 8 0, .modWindowExpiry false 16,
    .reqDoorbell 3 0, .reqDoorbell 0 256, .responseWrite 8, .rspDoorbellClr 3 0, .rspDoorbellClr 0 256, .cmdTailDoorbell 256,
    .cplHeadDoorbell 256, .evtHeadDoorbell 256, .ringDmaError 0, .ringDmaError 6, .wdogExpiry 0 false]

def illFormed5 : List Instr := [
    .wdogExpiry 4 false, .loadChunkGo 3 0 false, .loadChunkGo 0 65536 false, .sapAnnouncementTx 256, .itemOpen 1024 0 none 0 0,
    .carriedSlugPlace 1024, .itemCommit 1024, .itemRewind 1024, .queuePop 1024, .queueMark 1024, .queueRewind 1024,
    .queueRelease 1024 false, .flushStart 1024, .linkParityError 1024 0, .freeListBuilt 2]

def illFormed6 : List Instr := [
    .qResWrite 1024 0, .qResWrite 0 262144, .qCapWrite 1024 0, .qCapWrite 0 262144, .qCfgHalfWrite 1024 false 0, .qCfgHalfWrite 0 false 4,
    .budgetWrite 5 0, .budgetWrite 0 262144, .netFrameRx 3 [] false, .netLinkStateChange 3 0 false false false,
    .impositionEntryWrite 3 0 0, .impositionEntryWrite 0 8192 0, .impositionTakeEffect 0x1E00, .playoutIndexDue 8, .placementWindowEnd 256]

def illFormed7 : List Instr := [
    .kerningSlewEnd 256, .krnTrackDone 256, .redPathLoss 256 0, .redPathLoss 0 2, .packetClose 256, .packetLaunch 256, .portFrameStart 3,
    .txFlowStart 256, .funnelLaunch 64 false, .hrBlockCommit 64, .hrSlotWrite 64, .confirmReadCompletion 64 false, .hrAckWrite 64 0,
    .hrAckWrite 0 65536, .htProdWrite 255 0]

def illFormed8 : List Instr := [
    .htProdWrite 320 0, .htProdWrite 256 65536, .htReadCompletion 255 0 [] false, .htReadCompletion 320 0 [] false,
    .stkLinkTrained 2 0 0 0 0 0 0 0 false false false, .stkLinkTrained 0 0 8 0 0 0 0 0 false false false, .stkLinkDown 2,
    .synzoFrameRx 2 0 0 0 0 0 [] false .none, .synzoFrameRx 0 5 0 0 0 0 [] false .none, .soItemSend 22, .tdmArmWrite 16 false false,
    .tdmStopWrite 16 false, .tdmStartInstant 16 false, .tdmClockLost 16 false, .tdmLeadOutEnd 16 false]

def illFormed9 : List Instr := [
    .grdReadbackFault 16 0 0, .grdReadbackFault 0 6 0, .grdReadbackFault 0 0 3, .grdPinTrip 16 0, .grdPinTrip 0 6, .grdOpenTest 16 0 0,
    .grdClockSwapDetect 16 false 0 0, .grdLossOfSignal 6 false, .grdTioShort 8 false, .dxSapAnnounce 8,
    .acceptedCommandEnd 0 0 false 0 0 0 0, .acceptedCommandEnd 0 256 false 0 0 0 0, .acceptedCommandEnd 3 1 false 0 0 0 0,
    .acceptedCommandEnd 0 1 false 65537 0 0 0, .txfCreate 0 0 [1, 2, 3, 4, 5, 6] []]

def illFormed10 : List Instr := [
    .txfCreate 0 256 [1, 2, 3, 4, 5, 6] [], .txfCreate 3 1 [1, 2, 3, 4, 5, 6] [], .txfCreate 0 1 [1, 2, 3, 4, 5] [],
    .itemWordWrite 1024 [] false, .itemWordWrite 0 (List.replicate 9 0) false, .classifierKeyWrite 3 false 0 0 0,
    .classifierKeyWrite 0 false 0 8 0, .classifierKeyWrite 0 true 64 0 0, .classifierKeyWrite 0 false 4096 0 0, .hostBlockStart 64,
    .hostBlockStart 255, .hostBlockStart 320, .cplTimeout 64 0, .cplTimeout 320 0, .tdmFrame 16 false false 0 0 [] []]

def illFormed11 : List Instr := [
    .tdmFrame 0 false false 0 0 (List.replicate 2049 0) [], .tdmFrame 0 false false 0 0 [2] [],
    .tdmFrame 0 false false 0 0 [] (List.replicate 33 0), .grdReprobeTimer 0 16 0 false, .grdReprobeTimer 0 0 6 false,
    .grdReprobeTimer 2 0 8 false, .grdReprobeTimer 1 0 0 false, .grdInputContention 1, .grdInputContention 3]

/-- Commands at boundary values that are well formed. -/
def wellFormed0 : List Instr := [
    .strapSample 0, .strapCompare 0, .domainPowerOff 0, .domainPowerUp 0 false, .wakeLatchEdge 0 false 0 false false,
    .dozeFrameRx 0 [] false, .mcsDetectorInterval 0 0 0 0, .wclkInQualified 0 0, .clkOutputSwitch 0, .addendWrite 0 false 0,
    .ptpMessageRx 0 0 false, .servoUpdate 0 none none none, .freezeHoldExpiry 0, .asymBothTimeout 0, .suspectClear 0]

def wellFormed1 : List Instr := [
    .delayMeasurement 0 0 0, .announceRx 0 0 [] 0 0, .announceTimeout 0 0, .faultyRecover 0 0, .ptpSyncTx 0 0, .platenArmWrite 0 0,
    .platenFire 0, .registerWrite 0 0 0, .clearingRead 0 0, .updateStrobe 0, .shadowApplyAtBoundary 0 0, .indirAddrWrite 0 0,
    .indirDataRead 0, .indirDataWrite 0 0, .indirTransferDone 0]

def wellFormed2 : List Instr := [
    .indirStallTimeout 0, .indirTransferLost 0, .wideSelWrite 0 0, .wideSnapshotReady 0, .wideD3Read 0, .guardValWrite 0 0,
    .guardCplWrite 0 0, .guardTimeout 0, .aliasWrite 0 0x100000 0, .counterClear 0 0 0, .irqSourceEvent 0, .irqAck 0 false 0,
    .irqEoi 0 false 0, .irqPendingSetClr 0 false false 0 0, .irqMaskSetClr 0 false false 0 0]

def wellFormed3 : List Instr := [
    .modWindowExpiry false 0, .reqDoorbell 0 0, .responseWrite 0, .rspDoorbellClr 0 0, .cmdTailDoorbell 0, .cplHeadDoorbell 0,
    .evtHeadDoorbell 0, .ringDmaError 1, .wdogExpiry 1 false, .loadChunkGo 0 0 false, .sapAnnouncementTx 0, .itemOpen 0 0 none 0 0,
    .carriedSlugPlace 0, .itemCommit 0, .itemRewind 0]

def wellFormed4 : List Instr := [
    .queuePop 0, .queueMark 0, .queueRewind 0, .queueRelease 0 false, .flushStart 0, .linkParityError 0 0, .freeListBuilt 0,
    .qResWrite 0 0, .qCapWrite 0 0, .qCfgHalfWrite 0 false 0, .budgetWrite 0 0, .netFrameRx 0 [] false,
    .netLinkStateChange 0 0 false false false, .impositionEntryWrite 0 0 0, .impositionTakeEffect 0]

def wellFormed5 : List Instr := [
    .playoutIndexDue 0, .placementWindowEnd 0, .kerningSlewEnd 0, .krnTrackDone 0, .redPathLoss 0 0, .packetClose 0, .packetLaunch 0,
    .portFrameStart 0, .txFlowStart 0, .funnelLaunch 0 false, .hrBlockCommit 0, .hrSlotWrite 0, .confirmReadCompletion 0 false,
    .hrAckWrite 0 0, .htProdWrite 256 0]

def wellFormed6 : List Instr := [
    .htReadCompletion 256 0 [] false, .stkLinkTrained 0 0 0 0 0 0 0 0 false false false, .stkLinkDown 0,
    .synzoFrameRx 0 0 0 0 0 0 [] false .none, .soItemSend 0, .tdmArmWrite 0 false false, .tdmStopWrite 0 false, .tdmStartInstant 0 false,
    .tdmClockLost 0 false, .tdmLeadOutEnd 0 false, .grdReadbackFault 0 0 0, .grdPinTrip 0 0, .grdOpenTest 0 0 0,
    .grdClockSwapDetect 0 false 0 0, .grdLossOfSignal 0 false]

def wellFormed7 : List Instr := [
    .grdTioShort 0 false, .dxSapAnnounce 0, .acceptedCommandEnd 0 1 false 0 0 0 0, .resetNPulse 249, .resetNPulse 1000,
    .txfCreate 2 255 [1, 2, 3, 4, 5, 6] [], .itemWordWrite 1023 (List.replicate 8 0) false, .classifierKeyWrite 2 true 63 7 0,
    .classifierKeyWrite 0 false 4095 0 0, .hostBlockStart 63, .hostBlockStart 319, .tdmFrame 15 false false 0 0 (List.replicate 2048 1) [],
    .grdReprobeTimer 0 15 5 false, .grdReprobeTimer 2 0 7 false]

/-- Firmware commands by channel and tag. -/
def commands0 : List (Nat → Nat → Instr) := [
    .sysInfo, .sysClaim, .sysRelease, .sysReset, .sysImageBegin, .sysImageWrite, .sysImageEnd, .sysCommit, .sysRecover, .pwrEnter,
    .pwrStatus, .pwrConfig, .frmInfo, .frmRead, .frmStageLoad]

def commands1 : List (Nat → Nat → Instr) := [
    .frmStageWrite, .frmApply, .frmStore, .frmSetBoot, .clkMcsSet, .clkOutSet, .clkMcsStatus, .ptpSet, .ptpStatus, .ptpGmQuality, .ptpStep,
    .ptpAsymAdopt, .tdmSet, .tdmStart, .tdmStop]

def commands2 : List (Nat → Nat → Instr) := [
    .tdmStatus, .rtSet, .rtGet, .krnSet, .krnStatus, .rxfCreate, .rxfDelete, .rxfOffset, .rxfStatus, .txfDelete, .txfStatus, .sdpImport,
    .sdpExport, .sdpAnnounce, .redStatus]

def commands3 : List (Nat → Nat → Instr) := [
    .redPaths, .stkStatus, .stkSet, .twinSet, .twinTakeover, .twinHealth, .grdSet, .grdStatus, .grdReprobe, .diagSnapClear, .diagCounters,
    .diagLoopback, .diagMarch, .diagLog, .evtFetch]

def commands4 : List (Nat → Nat → Instr) := [
    .evtMask, .dxStatus, .dxRead, .commandBoundTimeout]

theorem test_ill_formed_refused : (illFormed0 ++ illFormed1 ++ illFormed2 ++ illFormed3 ++ illFormed4 ++ illFormed5 ++ illFormed6 ++ illFormed7 ++ illFormed8 ++ illFormed9 ++ illFormed10 ++ illFormed11).all (fun i => !i.wf) = true := by decide +kernel
theorem test_well_formed_taken : (wellFormed0 ++ wellFormed1 ++ wellFormed2 ++ wellFormed3 ++ wellFormed4 ++ wellFormed5 ++ wellFormed6 ++ wellFormed7).all Instr.wf = true := by decide +kernel
theorem test_command_tags : (commands0 ++ commands1 ++ commands2 ++ commands3 ++ commands4).all (fun c => !(c 0 0).wf && !(c 0 256).wf && !(c 3 1).wf && (c 2 255).wf) = true := by
  decide +kernel

end Sys2Proof.Tests
end

section
/-! The writes of a PTI's addend (R104). An INT write applies the clamped addend through the media clocks counted in the
PTI's time, and a changed covered register may start a hold of the configuration CRC checker: the facts about each of these
parts come first, the obligation's clauses after them. -/

namespace Sys2Proof.Machine

/-! ### A list with one element replaced -/

theorem modifyAt_eq_modify {α : Type} (l : List α) (i : Nat) (f : α → α) : modifyAt l i f = l.modify i f := by
  induction l generalizing i with
  | nil => simp [modifyAt]
  | cons x xs ih => cases i with
    | zero => rfl
    | succ i => simp [modifyAt, ih]

theorem getD_modifyAt_self {α : Type} {l : List α} {i : Nat} (f : α → α) (d : α) (h : i < l.length) :
    (modifyAt l i f).getD i d = f (l.getD i d) := by
  simp [modifyAt_eq_modify, List.getD_eq_getElem?_getD, h]

theorem getD_modifyAt_ne {α : Type} (l : List α) {i j : Nat} (f : α → α) (d : α) (h : j ≠ i) :
    (modifyAt l i f).getD j d = l.getD j d := by
  simp [modifyAt_eq_modify, List.getD_eq_getElem?_getD, h.symm]

theorem modifyAt_of_length_le {α : Type} {l : List α} {i : Nat} (f : α → α) (h : l.length ≤ i) : modifyAt l i f = l := by
  rw [modifyAt_eq_modify, List.modify_eq_self h]

/-! ### A PTI's record -/

namespace State

theorem pti_setPti_self {s : State} {n : Nat} (p : Pti) (h : n < s.ptis.length) : (s.setPti n p).pti n = p :=
  getD_modifyAt_self _ _ h

theorem pti_setPti_ne (s : State) {n m : Nat} (p : Pti) (h : m ≠ n) : (s.setPti n p).pti m = s.pti m :=
  getD_modifyAt_ne _ _ _ h

theorem setPti_of_length_le {s : State} {n : Nat} (p : Pti) (h : s.ptis.length ≤ n) : s.setPti n p = s := by
  rw [setPti, modifyAt_of_length_le _ h]

/-- A record with the PTI's own time leaves its time as it was, whether the block has that PTI or not. -/
theorem time_setPti {s : State} {n : Nat} {p : Pti} (h : p.time = (s.pti n).time) :
    ((s.setPti n p).pti n).time = (s.pti n).time := by
  by_cases hn : n < s.ptis.length
  · rw [pti_setPti_self p hn, h]
  · rw [setPti_of_length_le p (Nat.le_of_not_lt hn)]

@[simp] theorem rf_setPti (s : State) (n : Nat) (p : Pti) : (s.setPti n p).rf = s.rf := rfl

@[simp] theorem rd_setPti (s : State) (n : Nat) (p : Pti) (k : Nat) : (s.setPti n p).rd k = s.rd k := rfl

/-! ### The addend -/

@[simp] theorem addend_setPti (s : State) (n m : Nat) (p : Pti) : (s.setPti n p).addend m = s.addend m := rfl

/-- The addend of a PTI rests on its two registers only. -/
theorem addend_setFld_ne (s : State) {f : Fld} (v : Nat) {n : Nat} (hi : R.TIME.PTI_ADDEND_INT.reg n ≠ f.key)
    (hf : R.TIME.PTI_ADDEND_FRAC.reg n ≠ f.key) : (s.setFld f v).addend n = s.addend n := by
  have ei : (s.setFld f v).fld (R.TIME.PTI_ADDEND_INT.INT n) = s.fld (R.TIME.PTI_ADDEND_INT.INT n) :=
    fld_wr_ne _ _ hi
  have ef : (s.setFld f v).fld (R.TIME.PTI_ADDEND_FRAC.FRAC n) = s.fld (R.TIME.PTI_ADDEND_FRAC.FRAC n) :=
    fld_wr_ne _ _ hf
  rw [addend, ei, ef, addend]

end State

theorem addendClamp_le (a : Nat) : addendClamp a ≤ addendHi :=
  max_le (by decide) (min_le_left _ _)

theorem mcsRebase_frame (s : State) (n : Nat) : mcsRebase s n = { s with mcss := (mcsRebase s n).mcss } := by
  unfold mcsRebase
  generalize List.range 8 = l
  induction l generalizing s with
  | nil => rfl
  | cons k l ih =>
    rw [List.foldl_cons, ih]
    split <;> rfl

namespace State

theorem setAddend_frame (s : State) (n a : Nat) :
    s.setAddend n a = { s with rf := (s.setAddend n a).rf, mcss := (s.setAddend n a).mcss } := by
  unfold setAddend
  rw [mcsRebase_frame]
  rfl

/-- The two registers spell the addend set: within its bounds it fits their 64 bits. -/
theorem addend_setAddend_self (s : State) (n a : Nat) : (s.setAddend n a).addend n = addendClamp a := by
  have hle : addendClamp a ≤ 8607114461 := addendClamp_le a
  have hap : (R.TIME.PTI_ADDEND_INT.INT n).apart (R.TIME.PTI_ADDEND_FRAC.FRAC n) = true := by
    simp [Fld.apart, R.TIME.PTI_ADDEND_INT.INT, R.TIME.PTI_ADDEND_FRAC.FRAC]
  rw [setAddend, setFlds_cons, setFlds_cons, setFlds_nil, addend, fld_setFld_apart _ _ hap,
    fld_setFld_self _ _ _ (by decide : 0 + 32 ≤ 32), fld_setFld_self _ _ _ (by decide : 0 + 32 ≤ 32)]
  simp only [nsUnit, R.TIME.PTI_ADDEND_INT.INT, R.TIME.PTI_ADDEND_FRAC.FRAC]
  omega

theorem touches_setAddend {l : List Fld} (s : State) {n : Nat} (a : Nat) (hi : R.TIME.PTI_ADDEND_INT.INT n ∈ l)
    (hf : R.TIME.PTI_ADDEND_FRAC.FRAC n ∈ l) : Touches l s (s.setAddend n a) := by
  have hrf : (mcsRebase s n).rf = s.rf := by rw [mcsRebase_frame]
  refine touches_setFlds ?_ (touches_rf hrf (Touches.refl l s))
  simp [hi, hf]

end State

/-! ### The hold of the configuration CRC checker after a write -/

/-- A write changes nothing beyond HOLD when it starts a hold. -/
theorem holdAt_cases (old s : State) (key : Nat) :
    holdAt old s key = s ∨ holdAt old s key = s.setFld R.REGIF.CFG_CRC_STAT.HOLD 1 := by
  unfold holdAt State.crcHold
  split
  · split
    · split
      · exact .inr rfl
      · exact .inl rfl
    · exact .inl rfl
  · exact .inl rfl

/-- A register that reads as before starts no hold. -/
theorem holdAt_of_rd_eq {old s : State} {key : Nat} (h : s.rd key = old.rd key) : holdAt old s key = s := by
  unfold holdAt
  split
  · simp [h]
  · rfl

theorem holdAt_frame (old s : State) (key : Nat) : holdAt old s key = { s with rf := (holdAt old s key).rf } := by
  rcases holdAt_cases old s key with h | h
  · rw [h]
  · rw [h]; rfl

theorem pti_holdAt (old s : State) (key n : Nat) : (holdAt old s key).pti n = s.pti n := by
  rw [holdAt_frame]; rfl

theorem addend_holdAt (old s : State) (key n : Nat) : (holdAt old s key).addend n = s.addend n := by
  rcases holdAt_cases old s key with h | h
  · rw [h]
  · rw [h]
    apply State.addend_setFld_ne <;>
      (simp only [R.TIME.PTI_ADDEND_INT.reg, R.TIME.PTI_ADDEND_FRAC.reg, R.REGIF.CFG_CRC_STAT.HOLD]; omega)

theorem touches_holdAt {l : List Fld} {s t old : State} (key : Nat) (hm : R.REGIF.CFG_CRC_STAT.HOLD ∈ l)
    (h : Touches l s t) : Touches l s (holdAt old t key) := by
  rcases holdAt_cases old t key with e | e <;> rw [e]
  · exact h
  · exact touches_setFld hm h

theorem holdAt_setAddend_frame {s t : State} {n a key : Nat} {p : Pti}
    (h : t = holdAt s ((s.setAddend n a).setPti n p) key) :
    t = { s with rf := t.rf, mcss := t.mcss, ptis := t.ptis } := by
  rw [h, holdAt_frame, State.setAddend_frame]
  rfl

/-! ### The three outcomes of an addend write -/

section
variable {s : State} {n : Nat} {v : Word}

theorem exec_addendWrite (frac : Bool) (hn : n < 4) : exec (.addendWrite n frac v) s =
    .next (holdAt s (addendWrite s n frac v)
      (if frac then R.TIME.PTI_ADDEND_FRAC.reg n else R.TIME.PTI_ADDEND_INT.reg n)) := by
  rw [show exec (.addendWrite n frac v) s = execAddendWrite n frac v s from rfl, execAddendWrite, Nat.mod_eq_of_lt hn]

/-- While the servo owns the addend a write to either register leaves OWNER_CONFLICT only. -/
theorem exec_addendWrite_owned (frac : Bool) (hn : n < 4) (he : s.flag (R.TIME.PTI_SERVO.EN n) = true) :
    exec (.addendWrite n frac v) s = .next (s.setFld (R.TIME.PTI_STAT.OWNER_CONFLICT n) 1) := by
  have hw : addendWrite s n frac v = s.setFld (R.TIME.PTI_STAT.OWNER_CONFLICT n) 1 := by simp [addendWrite, he]
  rw [exec_addendWrite frac hn, hw, holdAt_of_rd_eq (State.rd_setFld_ne _ _ _)]
  split <;> simp [R.TIME.PTI_ADDEND_INT.reg, R.TIME.PTI_ADDEND_FRAC.reg, R.TIME.PTI_STAT.OWNER_CONFLICT]

/-- A FRAC write is held in the staging register; no register changes. -/
theorem exec_addendWrite_staged (hn : n < 4) (he : s.flag (R.TIME.PTI_SERVO.EN n) = false) :
    exec (.addendWrite n true v) s = .next (s.setPti n { s.pti n with staged := v.toNat }) := by
  have hw : addendWrite s n true v = s.setPti n { s.pti n with staged := v.toNat } := by simp [addendWrite, he]
  rw [exec_addendWrite true hn, hw, holdAt_of_rd_eq (State.rd_setPti s ..)]

/-- An INT write applies the integer and the staged fraction together; of the PTI's record the time stays. -/
theorem addendWrite_applies (he : s.flag (R.TIME.PTI_SERVO.EN n) = false) : ∃ p : Pti, p.time = (s.pti n).time ∧
    addendWrite s n false v = (s.setAddend n (v.toNat * nsUnit + (s.pti n).staged)).setPti n p :=
  ⟨{ s.pti n with integ := (addendClamp (v.toNat * nsUnit + (s.pti n).staged) : Int) - (2 * nsUnit : Nat) }, rfl, by
    simp [addendWrite, he]⟩

end

/-! ### The obligation's clauses -/

theorem addendWrite_owned_goes (s : State) (n : Nat) (v : Word) (frac : Bool) (hn : n < 4)
    (he : s.flag (R.TIME.PTI_SERVO.EN n) = true) : Goes (.addendWrite n frac v) s fun t =>
      t = { s with rf := t.rf } ∧ t.fld (R.TIME.PTI_STAT.OWNER_CONFLICT n) = 1 ∧ t.addend n = s.addend n := by
  refine ⟨_, exec_addendWrite_owned frac hn he, rfl, State.fld_setFld_self _ _ _ (by decide : 1 + 1 ≤ 32), ?_⟩
  apply State.addend_setFld_ne <;>
    simp [R.TIME.PTI_ADDEND_INT.reg, R.TIME.PTI_ADDEND_FRAC.reg, R.TIME.PTI_STAT.OWNER_CONFLICT]

theorem addendWrite_int_goes (s : State) (n : Nat) (v : Word) (hn : n < 4)
    (he : s.flag (R.TIME.PTI_SERVO.EN n) = false) : Goes (.addendWrite n false v) s fun t =>
      t = { s with rf := t.rf, mcss := t.mcss, ptis := t.ptis } ∧
        t.addend n = addendClamp (v.toNat * nsUnit + (s.pti n).staged) ∧
        (∀ m, m ≠ n → t.pti m = s.pti m) ∧ (t.pti n).time = (s.pti n).time ∧
        Touches [R.TIME.PTI_ADDEND_INT.INT n, R.TIME.PTI_ADDEND_FRAC.FRAC n, R.REGIF.CFG_CRC_STAT.HOLD] s t := by
  refine ⟨_, exec_addendWrite false hn, ?_⟩
  obtain ⟨p, htime, hw⟩ := addendWrite_applies (v := v) he
  rw [hw]
  generalize v.toNat * nsUnit + (s.pti n).staged = a
  have hpti : ∀ m, (s.setAddend n a).pti m = s.pti m := fun m => by rw [State.setAddend_frame]; rfl
  refine ⟨?_, ?_, fun m hm => ?_, ?_, ?_⟩
  · exact holdAt_setAddend_frame rfl
  · rw [addend_holdAt, State.addend_setPti, State.addend_setAddend_self]
  · rw [pti_holdAt, State.pti_setPti_ne _ _ hm, hpti]
  · rw [pti_holdAt, State.time_setPti (htime.trans (congrArg Pti.time (hpti n).symm)), hpti]
  · exact touches_holdAt _ (by simp) (touches_rf (State.rf_setPti ..) (State.touches_setAddend s a (by simp) (by simp)))

theorem addendWrite_frac_goes (s : State) (n : Nat) (v : Word) (hn : n < 4)
    (he : s.flag (R.TIME.PTI_SERVO.EN n) = false) (hl : n < s.ptis.length) : Goes (.addendWrite n true v) s fun t =>
      t = { s with ptis := t.ptis } ∧ (t.pti n).staged = v.toNat ∧ t.addend n = s.addend n ∧
        ∀ m, m ≠ n → t.pti m = s.pti m := by
  refine ⟨_, exec_addendWrite_staged hn he, rfl, ?_, rfl, fun m hm => State.pti_setPti_ne _ _ hm⟩
  rw [State.pti_setPti_self _ hl]

/-- Settles O11: the servo's ownership, the INT write and the FRAC write are one outcome each of the model's addend write.
That an INT write takes the fraction staged last, with no FRAC write before it too, is the model's choice of log 98. -/
theorem addendWrites : Obligations.AddendWrites := by
  unfold Obligations.AddendWrites
  exact fun s n v hn => ⟨fun frac => addendWrite_owned_goes s n v frac hn, addendWrite_int_goes s n v hn,
    addendWrite_frac_goes s n v hn⟩

end Sys2Proof.Machine
end

section
/-! The lines of the interrupt sources, the ACK and the EOI (R165, R169 to R171). Every operation on a target's pendings,
stack and moderation windows leaves its masks and all else of the state: it is a `setPend`. One equation of that form for
each operation comes first, the obligation's clauses read them off. -/

namespace Sys2Proof.Machine

/-! ### One bit of a set -/

theorem getLsbD_bit256 (n : Nat) {j : Nat} (hj : j < 256) : (bit256 n).getLsbD j = decide (j = n) := by
  simp only [bit256, BitVec.getLsbD_shiftLeft, BitVec.getLsbD_one, hj]
  grind

theorem getLsbD_or_bit256 (v : BitVec 256) (n : Nat) {j : Nat} (hj : j < 256) :
    (v ||| bit256 n).getLsbD j = (v.getLsbD j || decide (j = n)) := by
  rw [BitVec.getLsbD_or, getLsbD_bit256 n hj]

theorem getLsbD_and_not_bit256 (v : BitVec 256) (n : Nat) {j : Nat} (hj : j < 256) :
    (v &&& ~~~(bit256 n)).getLsbD j = (v.getLsbD j && decide (j ≠ n)) := by
  rw [BitVec.getLsbD_and, BitVec.getLsbD_not, getLsbD_bit256 n hj]
  simp [hj]

theorem or_bit256_of_getLsbD {v : BitVec 256} {n : Nat} (h : v.getLsbD n = true) : v ||| bit256 n = v := by
  apply BitVec.eq_of_getLsbD_eq
  intro j hj
  rw [getLsbD_or_bit256 v n hj]
  by_cases e : j = n <;> simp [e, h]

theorem and_not_bit256_of_getLsbD {v : BitVec 256} {n : Nat} (h : v.getLsbD n = false) : v &&& ~~~(bit256 n) = v := by
  apply BitVec.eq_of_getLsbD_eq
  intro j hj
  rw [getLsbD_and_not_bit256 v n hj]
  by_cases e : j = n <;> simp [e, h]

/-! ### The parts of a target that an interrupt moves -/

namespace State

/-- Set what an interrupt moves of a target: the pendings, the stack and the moderation windows. -/
def setPend (s : State) (m : Bool) (p : BitVec 256) (k : List StackEntry) (l : List ModState) : State :=
  s.setTgt m { s.tgt m with pend := p, stack := k, mods := l }

/-- Set whether an MSI-X message is due. -/
def setDue (s : State) (d : Bool) : State := { s with irq := { s.irq with msixDue := d } }

/-- See the line of source `n` as `b`. -/
def seeLine (s : State) (n : Nat) (b : Bool) : State :=
  { s with irq := { s.irq with raw := if b then s.irq.raw ||| bit256 n else s.irq.raw &&& ~~~(bit256 n) } }

section
variable (s : State) (m j : Bool) (p : BitVec 256) (k : List StackEntry) (l : List ModState)

theorem tgt_setTgt (t : IrqTarget) : (s.setTgt m t).tgt j = if j = m then t else s.tgt j := by
  cases m <;> cases j <;> rfl

theorem tgt_setPend : (s.setPend m p k l).tgt j =
    if j = m then { s.tgt m with pend := p, stack := k, mods := l } else s.tgt j := tgt_setTgt ..

@[simp] theorem tgt_setPend_not : (s.setPend m p k l).tgt (!m) = s.tgt (!m) := by rw [tgt_setPend]; simp

@[simp] theorem mask_setPend : ((s.setPend m p k l).tgt j).mask = (s.tgt j).mask := by
  rw [tgt_setPend]; split
  · next h => rw [h]
  · rfl

theorem pend_setPend : ((s.setPend m p k l).tgt j).pend = if j = m then p else (s.tgt j).pend := by
  rw [tgt_setPend]; split <;> rfl

theorem stack_setPend : ((s.setPend m p k l).tgt j).stack = if j = m then k else (s.tgt j).stack := by
  rw [tgt_setPend]; split <;> rfl

@[simp] theorem rf_setPend : (s.setPend m p k l).rf = s.rf := by cases m <;> rfl

@[simp] theorem raw_setPend : (s.setPend m p k l).irq.raw = s.irq.raw := by cases m <;> rfl

theorem setPend_setPend (p' : BitVec 256) (k' : List StackEntry) (l' : List ModState) :
    (s.setPend m p k l).setPend m p' k' l' = s.setPend m p' k' l' := by cases m <;> rfl

theorem setPend_self : s.setPend m (s.tgt m).pend (s.tgt m).stack (s.tgt m).mods = s := by cases m <;> rfl

end

@[simp] theorem tgt_setDue (s : State) (d m : Bool) : (s.setDue d).tgt m = s.tgt m := rfl

@[simp] theorem fld_setDue (s : State) (d : Bool) (f : Fld) : (s.setDue d).fld f = s.fld f := rfl

@[simp] theorem tgt_setFld (s : State) (f : Fld) (v : Nat) (m : Bool) : (s.setFld f v).tgt m = s.tgt m := rfl

@[simp] theorem tgt_seeLine (s : State) (n : Nat) (b m : Bool) : (s.seeLine n b).tgt m = s.tgt m := rfl

theorem rd_of_rf_eq {s t : State} (h : t.rf = s.rf) (k : Nat) : t.rd k = s.rd k := by rw [rd, rd, h]

theorem fld_of_rf_eq {s t : State} (h : t.rf = s.rf) (f : Fld) : t.fld f = s.fld f :=
  congrArg f.of (rd_of_rf_eq h f.key)

theorem setFld_setPend (s : State) (m : Bool) (p : BitVec 256) (k : List StackEntry) (l : List ModState) (f : Fld)
    (v : Nat) : (s.setPend m p k l).setFld f v = (s.setFld f v).setPend m p k l := by cases m <;> rfl

/-- Counting writes the counter. -/
theorem count_eq (s : State) (f : Fld) : ∃ v, s.count f = s.setFld f v := by
  unfold count; split <;> exact ⟨_, rfl⟩

end State

theorem srcPrio_of_rf {s t : State} (h : t.rf = s.rf) (m : Bool) (n : Nat) : srcPrio t m n = srcPrio s m n := by
  rw [srcPrio, srcPrio, State.fld_of_rf_eq h, State.fld_of_rf_eq h]

theorem srcSense_of_rf {s t : State} (h : t.rf = s.rf) (n : Nat) : srcSense t n = srcSense s n := State.fld_of_rf_eq h _

/-! ### What stays beyond the registers and the interrupt controller -/

/-- From `s` to `t` only registers and the interrupt controller change. -/
def IrqFrame (s t : State) : Prop := t = { s with rf := t.rf, irq := t.irq }

namespace IrqFrame

theorem refl (s : State) : IrqFrame s s := rfl

theorem trans {s t u : State} (h : IrqFrame s t) (k : IrqFrame t u) : IrqFrame s u := by
  unfold IrqFrame at *
  rw [k, h]

theorem setPend {s t : State} (h : IrqFrame s t) (m : Bool) (p : BitVec 256) (k : List StackEntry) (l : List ModState) :
    IrqFrame s (t.setPend m p k l) := h.trans (by cases m <;> rfl)

theorem setDue {s t : State} (h : IrqFrame s t) (d : Bool) : IrqFrame s (t.setDue d) := h.trans rfl

theorem seeLine {s t : State} (h : IrqFrame s t) (n : Nat) (b : Bool) : IrqFrame s (t.seeLine n b) := h.trans rfl

theorem setFld {s t : State} (h : IrqFrame s t) (f : Fld) (v : Nat) : IrqFrame s (t.setFld f v) := h.trans rfl

/-- With the registers as they were, only the interrupt controller changes. -/
theorem of_rf {s t : State} (h : IrqFrame s t) (e : t.rf = s.rf) : t = { s with irq := t.irq } := by
  refine Eq.trans h ?_
  rw [e]

end IrqFrame

/-! ### One equation for each operation -/

theorem msixIfRose_eq (b : Bool) (s : State) : ∃ d, msixIfRose b s = s.setDue d := by
  unfold msixIfRose
  split
  · exact ⟨true, rfl⟩
  · exact ⟨s.irq.msixDue, rfl⟩

theorem releaseHeld_eq (s : State) (m : Bool) :
    ∃ l, releaseHeld s m = s.setPend m (s.tgt m).pend (s.tgt m).stack l := by
  cases m <;> exact ⟨_, rfl⟩

/-- A source is set pending for a target unless its priority there is 0. -/
theorem pendSet_eq (s : State) (m : Bool) (n : Nat) : ∃ l, pendSet s m n = s.setPend m
    (if srcPrio s m n = 0 then (s.tgt m).pend else (s.tgt m).pend ||| bit256 n) (s.tgt m).stack l := by
  by_cases h0 : srcPrio s m n = 0
  · rw [if_pos h0]
    exact ⟨_, by rw [State.setPend_self, pendSet, if_pos (.inl h0)]⟩
  rw [if_neg h0]
  by_cases hp : (s.tgt m).pend.getLsbD n = true
  · rw [or_bit256_of_getLsbD hp]
    exact ⟨_, by rw [State.setPend_self, pendSet, if_pos (.inr hp)]⟩
  · rw [pendSet, if_neg (by simp [h0, hp])]
    split
    · exact ⟨_, rfl⟩
    · cases m <;> exact ⟨_, rfl⟩

/-- A pending is cleared; under an edge sense the stack keeps its entries as they are. -/
theorem pendClear_eq (s : State) (m : Bool) (n : Nat) : ∃ k l,
    pendClear s m n = s.setPend m ((s.tgt m).pend &&& ~~~(bit256 n)) k l ∧
      (isLevel (srcSense s n) = false → k = (s.tgt m).stack) := by
  cases m <;> exact ⟨_, _, rfl, fun h => by simp [h, State.tgt_setTgt]⟩

/-- A pending follows an active line, but never rises at priority 0. -/
theorem levelFollow_eq (s : State) (m : Bool) (n : Nat) (a : Bool) : ∃ k l, levelFollow s m n a = s.setPend m
    (if a && srcPrio s m n != 0 then (s.tgt m).pend ||| bit256 n else (s.tgt m).pend &&& ~~~(bit256 n)) k l := by
  unfold levelFollow
  by_cases h : (a && srcPrio s m n != 0) = true
  · obtain ⟨l, e⟩ := pendSet_eq s m n
    have h0 : srcPrio s m n ≠ 0 := by
      simp only [Bool.and_eq_true, bne_iff_ne] at h
      exact h.2
    rw [if_pos h, if_pos h, e, if_neg h0]
    exact ⟨_, _, rfl⟩
  · rw [if_neg h, if_neg h]
    split
    · obtain ⟨k, l, e, -⟩ := pendClear_eq s m n
      exact ⟨k, l, e⟩
    · next hp =>
      rw [and_not_bit256_of_getLsbD (by simpa using hp)]
      exact ⟨_, _, (State.setPend_self s m).symm⟩

/-! A source's pendings for both targets: the first target's change leaves what the second one's reads. -/

theorem pendSet_both (s : State) (n : Nat) : ∃ l l', pendSet (pendSet s false n) true n =
    (s.setPend false (if srcPrio s false n = 0 then (s.tgt false).pend else (s.tgt false).pend ||| bit256 n)
      (s.tgt false).stack l).setPend true
      (if srcPrio s true n = 0 then (s.tgt true).pend else (s.tgt true).pend ||| bit256 n) (s.tgt true).stack l' := by
  obtain ⟨l, e⟩ := pendSet_eq s false n
  obtain ⟨l', e'⟩ := pendSet_eq (pendSet s false n) true n
  rw [e', e, srcPrio_of_rf (State.rf_setPend ..)]
  exact ⟨l, l', rfl⟩

theorem levelFollow_both (s : State) (n : Nat) (a : Bool) : ∃ k l k' l', levelFollow (levelFollow s false n a) true n a =
    (s.setPend false (if a && srcPrio s false n != 0 then (s.tgt false).pend ||| bit256 n
      else (s.tgt false).pend &&& ~~~(bit256 n)) k l).setPend true
      (if a && srcPrio s true n != 0 then (s.tgt true).pend ||| bit256 n
        else (s.tgt true).pend &&& ~~~(bit256 n)) k' l' := by
  obtain ⟨k, l, e⟩ := levelFollow_eq s false n a
  obtain ⟨k', l', e'⟩ := levelFollow_eq (levelFollow s false n a) true n a
  rw [e', e, srcPrio_of_rf (State.rf_setPend ..)]
  exact ⟨k, l, k', l', rfl⟩

/-! ### Sampling a line -/

/-- The line of source `n` makes the edge its sense selects (R165). -/
def edgeSeen (s : State) (n : Nat) : Bool :=
  let old := s.irq.raw.getLsbD n
  let now := srcLine s n
  decide ((srcSense s n = 2 ∧ !old ∧ now) ∨ (srcSense s n = 3 ∧ old ∧ !now) ∨ (srcSense s n = 4 ∧ old ≠ now))

/-- The pendings of a target after the line of source `n` is sampled. -/
def sampledPend (s : State) (n : Nat) (m : Bool) : BitVec 256 :=
  if isLevel (srcSense s n) then
    if srcActive s n && srcPrio s m n != 0 then (s.tgt m).pend ||| bit256 n else (s.tgt m).pend &&& ~~~(bit256 n)
  else if edgeSeen s n then
    if srcPrio s m n = 0 then (s.tgt m).pend else (s.tgt m).pend ||| bit256 n
  else (s.tgt m).pend

theorem irqSample_of_level {s : State} {n : Nat} (h : isLevel (srcSense s n) = true) : irqSample s n =
    msixIfRose (irqCond s false)
      (levelFollow (levelFollow (s.seeLine n (srcLine s n)) false n (srcActive s n)) true n (srcActive s n)) :=
  congrArg (msixIfRose _) (if_pos h)

theorem irqSample_of_edge {s : State} {n : Nat} (h : isLevel (srcSense s n) = false) : irqSample s n =
    msixIfRose (irqCond s false) (if edgeSeen s n then pendSet (pendSet (s.seeLine n (srcLine s n)) false n) true n
      else s.seeLine n (srcLine s n)) := by
  refine congrArg (msixIfRose _) ((if_neg (ne_true_of_eq_false h)).trans ?_)
  by_cases he : edgeSeen s n = true
  · rw [if_pos he]; exact if_pos (of_decide_eq_true he)
  · rw [if_neg he]; exact if_neg fun h => he (decide_eq_true h)

/-- A sample of a line sees it, settles the pendings of both targets, and may make an MSI-X message due. -/
theorem irqSample_eq (s : State) (n : Nat) : ∃ k l k' l' d, irqSample s n =
    (((s.seeLine n (srcLine s n)).setPend false (sampledPend s n false) k l).setPend true
      (sampledPend s n true) k' l').setDue d := by
  cases h : isLevel (srcSense s n) with
  | true =>
    obtain ⟨k, l, k', l', e⟩ := levelFollow_both (s.seeLine n (srcLine s n)) n (srcActive s n)
    obtain ⟨d, hd⟩ := msixIfRose_eq (irqCond s false) (levelFollow (levelFollow (s.seeLine n (srcLine s n)) false n
      (srcActive s n)) true n (srcActive s n))
    rw [irqSample_of_level h, hd, e, sampledPend, sampledPend, if_pos h, if_pos h]
    exact ⟨k, l, k', l', d, rfl⟩
  | false =>
    rw [irqSample_of_edge h, sampledPend, sampledPend, if_neg (ne_true_of_eq_false h), if_neg (ne_true_of_eq_false h)]
    cases edgeSeen s n with
    | true =>
      obtain ⟨l, l', e⟩ := pendSet_both (s.seeLine n (srcLine s n)) n
      obtain ⟨d, hd⟩ := msixIfRose_eq (irqCond s false) (pendSet (pendSet (s.seeLine n (srcLine s n)) false n) true n)
      rw [if_pos rfl, hd, e]
      exact ⟨_, l, _, l', d, rfl⟩
    | false =>
      obtain ⟨d, hd⟩ := msixIfRose_eq (irqCond s false) (s.seeLine n (srcLine s n))
      rw [if_neg (by simp), hd]
      exact ⟨(s.tgt false).stack, (s.tgt false).mods, (s.tgt true).stack, (s.tgt true).mods, d, rfl⟩

/-! ### What a sample leaves, bit by bit -/

section
variable {s : State} {n : Nat}

theorem raw_seeLine_self (hn : n < 256) (b : Bool) : (s.seeLine n b).irq.raw.getLsbD n = b := by
  cases b
  · exact (getLsbD_and_not_bit256 _ n hn).trans (by simp)
  · exact (getLsbD_or_bit256 _ n hn).trans (by simp)

theorem sampledPend_ne (m : Bool) {j : Nat} (hj : j < 256) (h : j ≠ n) :
    (sampledPend s n m).getLsbD j = (s.tgt m).pend.getLsbD j := by
  unfold sampledPend
  split_ifs <;> simp only [getLsbD_or_bit256 _ n hj, getLsbD_and_not_bit256 _ n hj, h, decide_false, Bool.or_false, ne_eq,
    not_false_eq_true, decide_true, Bool.and_true]

/-- Level high: the pending is the line, but never at priority 0. -/
theorem sampledPend_levelHigh (hn : n < 256) (m : Bool) (h : srcSense s n = 0) :
    (sampledPend s n m).getLsbD n = (srcLine s n && srcPrio s m n != 0) := by
  have ha : srcActive s n = srcLine s n := if_neg (by simp [h])
  rw [sampledPend, if_pos (by simp [isLevel, h]), ha]
  split
  · next hc => rw [getLsbD_or_bit256 _ n hn, hc]; simp
  · next hc => rw [getLsbD_and_not_bit256 _ n hn, eq_false_of_ne_true hc]; simp

/-- Rising edge: the pending rises with the line, but never at priority 0. -/
theorem sampledPend_rising (hn : n < 256) (m : Bool) (h : srcSense s n = 2) : (sampledPend s n m).getLsbD n =
    ((s.tgt m).pend.getLsbD n || (!s.irq.raw.getLsbD n && srcLine s n && srcPrio s m n != 0)) := by
  have he : edgeSeen s n = (!s.irq.raw.getLsbD n && srcLine s n) := by simp [edgeSeen, h]
  rw [sampledPend, if_neg (by simp [isLevel, h]), he]
  split
  · next hc =>
    rw [hc, Bool.true_and]
    split
    · next h0 => simp [h0]
    · next h0 => rw [getLsbD_or_bit256 _ n hn]; simp [h0]
  · next hc => rw [eq_false_of_ne_true hc, Bool.false_and, Bool.or_false]

theorem tgt_irqSample (s : State) (n : Nat) (m : Bool) :
    ((irqSample s n).tgt m).pend = sampledPend s n m ∧ ((irqSample s n).tgt m).mask = (s.tgt m).mask := by
  obtain ⟨k, l, k', l', d, e⟩ := irqSample_eq s n
  rw [e]
  cases m <;> simp [State.pend_setPend]

end

/-- The clause on a source's line. -/
theorem irqSourceEvent_goes (s : State) {n : Nat} (hn : n < 256) : Goes (.irqSourceEvent n) s fun t =>
    t = { s with irq := t.irq } ∧ t.irq.raw.getLsbD n = srcLine s n ∧
      (∀ m, (t.tgt m).mask = (s.tgt m).mask ∧ ∀ j, j < 256 → j ≠ n → (t.tgt m).pend.getLsbD j = (s.tgt m).pend.getLsbD j) ∧
      (srcSense s n = 0 → ∀ m, (t.tgt m).pend.getLsbD n = (srcLine s n && srcPrio s m n != 0)) ∧
      (srcSense s n = 2 → ∀ m, (t.tgt m).pend.getLsbD n = ((s.tgt m).pend.getLsbD n ||
        (!s.irq.raw.getLsbD n && srcLine s n && srcPrio s m n != 0))) := by
  refine ⟨irqSample s n, rfl, ?_, ?_, fun m => ⟨(tgt_irqSample s n m).2, fun j hj hne => ?_⟩, fun h m => ?_, fun h m => ?_⟩
  · obtain ⟨k, l, k', l', d, e⟩ := irqSample_eq s n
    rw [e]
    exact (((((IrqFrame.refl s).seeLine _ _).setPend ..).setPend ..).setDue d).of_rf (by simp [State.setDue, State.seeLine])
  · obtain ⟨k, l, k', l', d, e⟩ := irqSample_eq s n
    rw [e]
    simpa [State.setDue] using raw_seeLine_self hn (srcLine s n)
  · rw [(tgt_irqSample s n m).1, sampledPend_ne m hj hne]
  · rw [(tgt_irqSample s n m).1, sampledPend_levelHigh hn m h]
  · rw [(tgt_irqSample s n m).1, sampledPend_rising hn m h]

/-! ### The ACK (R169) -/

/-- The hint of a target, which an accepted ACK clears. -/
def idleFld (m : Bool) : Fld := if m then R.IRQ.MCU_CTL.IDLE else R.IRQ.HOST_CTL.IDLE

/-- Where a refused ACK of a target is marked, and where it says why. -/
def ackBadFld (m : Bool) : Fld := if m then R.IRQ.MCU_STAT.ACK_BAD else R.IRQ.HOST_STAT.ACK_BAD

def ackWhyFld (m : Bool) : Fld := if m then R.IRQ.MCU_STAT.ACK_WHY else R.IRQ.HOST_STAT.ACK_WHY

section
variable {s : State} {init n : Nat} {m : Bool}

theorem exec_irqAck (hn : n < 256) (ht : irqTakes s init m = true) : exec (.irqAck init m n) s = .next (irqAck s m n) := by
  rw [show exec (.irqAck init m n) s = execIrqAck init m n s from rfl, execIrqAck, if_pos ht, Nat.mod_eq_of_lt hn, ok]

theorem exec_irqEoi (hn : n < 256) (ht : irqTakes s init m = true) : exec (.irqEoi init m n) s = .next (irqEoi s m n) := by
  rw [show exec (.irqEoi init m n) s = execIrqEoi init m n s from rfl, execIrqEoi, if_pos ht, Nat.mod_eq_of_lt hn, ok]

/-- An ACK is refused of a source not pending (0), of a masked one (1), and with the stack full (2). -/
theorem irqAck_refused {w : Nat} (hw : (w = 0 ∧ (s.tgt m).pend.getLsbD n = false) ∨
    (w = 1 ∧ (s.tgt m).pend.getLsbD n = true ∧ (s.tgt m).mask.getLsbD n = true) ∨
    (w = 2 ∧ (s.tgt m).pend.getLsbD n = true ∧ (s.tgt m).mask.getLsbD n = false ∧ 8 ≤ (s.tgt m).stack.length)) :
    irqAck s m n = s.setFlds [(ackBadFld m, 1), (ackWhyFld m, w)] := by
  rcases hw with ⟨rfl, hp⟩ | ⟨rfl, hp, hm⟩ | ⟨rfl, hp, hm, hl⟩
  · cases m <;> simp [irqAck, hp] <;> rfl
  · cases m <;> simp [irqAck, hp, hm] <;> rfl
  · cases m <;> simp [irqAck, hp, hm, hl] <;> rfl

theorem irqAck_stacks (hp : (s.tgt m).pend.getLsbD n = true) (hm : (s.tgt m).mask.getLsbD n = false)
    (hl : (s.tgt m).stack.length < 8) : irqAck s m n = msixIfRose (irqCond s false)
      ((if isLevel (srcSense s n) then
          s.setPend m (s.tgt m).pend (⟨n, srcPrio s m n, false, false⟩ :: (s.tgt m).stack) (s.tgt m).mods
        else pendClear
          (s.setPend m (s.tgt m).pend (⟨n, srcPrio s m n, false, false⟩ :: (s.tgt m).stack) (s.tgt m).mods) m n).setFld
        (idleFld m) 0) := by
  have hl' : ¬ 8 ≤ (s.tgt m).stack.length := by omega
  cases m <;> simp only [irqAck, hp, hm, hl', Bool.not_true, Bool.false_eq_true, if_false] <;> rfl

/-- An accepted ACK stacks the source with its priority and takes an edge source's pending. -/
theorem irqAck_accepted (hp : (s.tgt m).pend.getLsbD n = true) (hm : (s.tgt m).mask.getLsbD n = false)
    (hl : (s.tgt m).stack.length < 8) : ∃ l d, irqAck s m n = ((s.setPend m
      (if isLevel (srcSense s n) then (s.tgt m).pend else (s.tgt m).pend &&& ~~~(bit256 n))
      (⟨n, srcPrio s m n, false, false⟩ :: (s.tgt m).stack) l).setFld (idleFld m) 0).setDue d := by
  rw [irqAck_stacks hp hm hl]
  generalize (⟨n, srcPrio s m n, false, false⟩ :: (s.tgt m).stack : List StackEntry) = stack
  split
  · obtain ⟨d, hd⟩ := msixIfRose_eq (irqCond s false)
      ((s.setPend m (s.tgt m).pend stack (s.tgt m).mods).setFld (idleFld m) 0)
    exact ⟨_, d, hd⟩
  · next h =>
    obtain ⟨k, l, hc, hk⟩ := pendClear_eq (s.setPend m (s.tgt m).pend stack (s.tgt m).mods) m n
    rw [srcSense_of_rf (State.rf_setPend ..), State.stack_setPend, if_pos rfl] at hk
    rw [hc, hk (eq_false_of_ne_true h), State.setPend_setPend, State.pend_setPend, if_pos rfl]
    obtain ⟨d, hd⟩ := msixIfRose_eq (irqCond s false)
      ((s.setPend m ((s.tgt m).pend &&& ~~~(bit256 n)) stack l).setFld (idleFld m) 0)
    exact ⟨l, d, hd⟩

end

/-- The clause on an accepted ACK. -/
theorem irqAck_accepted_goes (s : State) {init n : Nat} {m : Bool} (hn : n < 256) (ht : irqTakes s init m = true)
    (hp : (s.tgt m).pend.getLsbD n = true) (hm : (s.tgt m).mask.getLsbD n = false) (hl : (s.tgt m).stack.length < 8) :
    Goes (.irqAck init m n) s fun t => t = { s with rf := t.rf, irq := t.irq } ∧
      (t.tgt m).stack = ⟨n, srcPrio s m n, false, false⟩ :: (s.tgt m).stack ∧ (t.tgt m).running = srcPrio s m n ∧
      t.tgt (!m) = s.tgt (!m) ∧ (t.tgt m).mask = (s.tgt m).mask ∧
      (t.tgt m).pend.getLsbD n = isLevel (srcSense s n) ∧
      (∀ j, j < 256 → j ≠ n → (t.tgt m).pend.getLsbD j = (s.tgt m).pend.getLsbD j) ∧
      Touches [idleFld m] s t ∧ t.flag (idleFld m) = false := by
  obtain ⟨l, d, e⟩ := irqAck_accepted hp hm hl
  refine ⟨_, exec_irqAck hn ht, ?_⟩
  have hstack : ((irqAck s m n).tgt m).stack = ⟨n, srcPrio s m n, false, false⟩ :: (s.tgt m).stack := by
    rw [e]; simp [State.stack_setPend]
  have hpend : ((irqAck s m n).tgt m).pend =
      if isLevel (srcSense s n) then (s.tgt m).pend else (s.tgt m).pend &&& ~~~(bit256 n) := by
    rw [e]; simp [State.pend_setPend]
  refine ⟨?_, hstack, ?_, ?_, ?_, ?_, fun j hj hne => ?_, ?_, ?_⟩
  · rw [e]; exact (((IrqFrame.refl s).setPend ..).setFld ..).setDue d
  · rw [IrqTarget.running, hstack]
  · rw [e]; simp
  · rw [e]; simp
  · rw [hpend]
    split
    · next h => rw [hp, h]
    · next h => rw [getLsbD_and_not_bit256 _ n hn, eq_false_of_ne_true h]; simp
  · rw [hpend]
    split
    · rfl
    · rw [getLsbD_and_not_bit256 _ n hj]; simp [hne]
  · rw [e]
    exact touches_rf (t := (s.setPend m ..).setFld (idleFld m) 0) rfl
      (touches_setFld (by simp) (touches_rf (State.rf_setPend ..) (Touches.refl _ s)))
  · have hidle : (idleFld m).lo + (idleFld m).w ≤ 32 := by cases m <;> decide
    rw [e, State.flag, State.fld_setDue, State.fld_setFld_self _ _ _ hidle]
    simp

/-- The clause on a refused ACK. -/
theorem irqAck_refused_goes (s : State) {init n w : Nat} {m : Bool} (hn : n < 256) (ht : irqTakes s init m = true)
    (hw : (w = 0 ∧ (s.tgt m).pend.getLsbD n = false) ∨
      (w = 1 ∧ (s.tgt m).pend.getLsbD n = true ∧ (s.tgt m).mask.getLsbD n = true) ∨
      (w = 2 ∧ (s.tgt m).pend.getLsbD n = true ∧ (s.tgt m).mask.getLsbD n = false ∧ 8 ≤ (s.tgt m).stack.length)) :
    Goes (.irqAck init m n) s fun t => t = { s with rf := t.rf } ∧ t.fld (ackBadFld m) = 1 ∧ t.fld (ackWhyFld m) = w ∧
      Touches (if m then [R.IRQ.MCU_STAT.ACK_BAD, R.IRQ.MCU_STAT.ACK_WHY] else
        [R.IRQ.HOST_STAT.ACK_BAD, R.IRQ.HOST_STAT.ACK_WHY]) s t := by
  refine ⟨_, exec_irqAck hn ht, ?_⟩
  rw [irqAck_refused hw]
  have hw4 : w < 4 := by omega
  have hapart : (ackBadFld m).apart (ackWhyFld m) = true := by cases m <;> rfl
  have hbad : (ackBadFld m).lo + (ackBadFld m).w ≤ 32 := by cases m <;> decide
  have hwhy : (ackWhyFld m).lo + (ackWhyFld m).w ≤ 32 := by cases m <;> decide
  refine ⟨rfl, ?_, ?_, ?_⟩
  · rw [State.setFlds_cons, State.setFlds_cons, State.setFlds_nil, State.fld_setFld_apart _ _ hapart,
      State.fld_setFld_self _ _ _ hbad]
    cases m <;> rfl
  · rw [State.setFlds_cons, State.setFlds_cons, State.setFlds_nil, State.fld_setFld_self _ _ _ hwhy]
    exact Nat.mod_eq_of_lt (by cases m <;> exact hw4)
  · exact touches_setFlds (by cases m <;> simp [ackBadFld, ackWhyFld]) (Touches.refl _ s)

/-! ### The EOI of the top (R170) -/

/-- The counter of a target's spurious services (R176). -/
def spuriousFld (m : Bool) : Fld := if m then R.IRQ.SPURIOUS.MCU else R.IRQ.SPURIOUS.HOST

/-- An entry comes off the stack; one marked as gone is counted. -/
def popEntry (s : State) (m : Bool) (e : StackEntry) (rest : List StackEntry) : State :=
  let s := s.setPend m (s.tgt m).pend rest (s.tgt m).mods
  if e.gone then s.count (spuriousFld m) else s

/-- A target that has become idle releases what it holds (R178). -/
def releaseIdle (s : State) (m : Bool) : State := if idleTgt s m then releaseHeld s m else s

/-- Whether an EOI queues an MSI-X message: one of the HOST target whenever its condition is true after it (R160). -/
def eoiDue (b m : Bool) (s : State) : State :=
  if m then msixIfRose b s else if irqCond s false then s.setDue true else s

theorem popEntry_eq (s : State) (m : Bool) (e : StackEntry) (rest : List StackEntry) : ∃ u,
    popEntry s m e rest = u.setPend m (s.tgt m).pend rest (s.tgt m).mods ∧
      (u = s ∨ ∃ v, u = s.setFld (spuriousFld m) v) := by
  unfold popEntry
  split
  · obtain ⟨v, hv⟩ := State.count_eq (s.setPend m (s.tgt m).pend rest (s.tgt m).mods) (spuriousFld m)
    exact ⟨s.setFld (spuriousFld m) v, hv.trans (State.setFld_setPend ..), .inr ⟨v, rfl⟩⟩
  · exact ⟨s, rfl, .inl rfl⟩

theorem releaseIdle_eq (s : State) (m : Bool) : ∃ l, releaseIdle s m = s.setPend m (s.tgt m).pend (s.tgt m).stack l := by
  unfold releaseIdle
  split
  · exact releaseHeld_eq s m
  · exact ⟨_, (State.setPend_self s m).symm⟩

theorem eoiDue_eq (b m : Bool) (s : State) : ∃ d, eoiDue b m s = s.setDue d := by
  unfold eoiDue
  split
  · exact msixIfRose_eq b s
  · split
    · exact ⟨true, rfl⟩
    · exact ⟨s.irq.msixDue, rfl⟩

section
variable {s : State} {m : Bool} {n : Nat}

theorem irqEoi_of_top {e : StackEntry} {rest : List StackEntry} (hs : (s.tgt m).stack = e :: rest) (he : e.src = n) :
    irqEoi s m n = eoiDue (irqCond s false) m (releaseIdle (popEntry s m e rest) m) := by
  simp only [irqEoi, hs, if_pos he]
  rfl

/-- An EOI of the top takes it off, may count a spurious service, and may release moderation windows. -/
theorem irqEoi_top {e : StackEntry} {rest : List StackEntry} (hs : (s.tgt m).stack = e :: rest) (he : e.src = n) :
    ∃ u l d, irqEoi s m n = (u.setPend m (s.tgt m).pend rest l).setDue d ∧
      (u = s ∨ ∃ v, u = s.setFld (spuriousFld m) v) := by
  obtain ⟨u, hpop, hu⟩ := popEntry_eq s m e rest
  obtain ⟨l, hrel⟩ := releaseIdle_eq (popEntry s m e rest) m
  obtain ⟨d, hdue⟩ := eoiDue_eq (irqCond s false) m (releaseIdle (popEntry s m e rest) m)
  refine ⟨u, l, d, ?_, hu⟩
  rw [irqEoi_of_top hs he, hdue, hrel, hpop, State.setPend_setPend, State.pend_setPend, if_pos rfl, State.stack_setPend,
    if_pos rfl]

end

theorem running_of_stack {t : IrqTarget} {k : List StackEntry} :
    t.stack = k → t.running = (match k with | [] => 0 | x :: _ => x.prio) := by
  rintro rfl
  rfl

/-- The clause on an EOI of the top. -/
theorem irqEoi_top_goes (s : State) {init n : Nat} {m : Bool} (hn : n < 256) (ht : irqTakes s init m = true) :
    ∀ e rest, (s.tgt m).stack = e :: rest → e.src = n → Goes (.irqEoi init m n) s fun t =>
      t = { s with rf := t.rf, irq := t.irq } ∧ (t.tgt m).stack = rest ∧
      (t.tgt m).running = (match rest with | [] => 0 | x :: _ => x.prio) ∧ (t.tgt m).pend = (s.tgt m).pend ∧
      (t.tgt m).mask = (s.tgt m).mask ∧ t.tgt (!m) = s.tgt (!m) ∧
      Touches [R.IRQ.SPURIOUS.HOST, R.IRQ.SPURIOUS.MCU] s t := by
  intro top rest hs he
  refine ⟨_, exec_irqEoi hn ht, ?_⟩
  obtain ⟨u, l, d, e, hu⟩ := irqEoi_top hs he
  have hmem : spuriousFld m ∈ [R.IRQ.SPURIOUS.HOST, R.IRQ.SPURIOUS.MCU] := by cases m <;> simp [spuriousFld]
  have htgt : ∀ k, u.tgt k = s.tgt k := by
    intro k
    rcases hu with rfl | ⟨v, rfl⟩ <;> rfl
  have hframe : IrqFrame s u := by
    rcases hu with rfl | ⟨v, rfl⟩ <;> rfl
  have htouch : Touches [R.IRQ.SPURIOUS.HOST, R.IRQ.SPURIOUS.MCU] s u := by
    rcases hu with rfl | ⟨v, rfl⟩
    · exact Touches.refl _ _
    · exact touches_setFld hmem (Touches.refl _ s)
  have hstack : ((irqEoi s m n).tgt m).stack = rest := by
    rw [e]; simp [State.stack_setPend]
  refine ⟨?_, hstack, ?_, ?_, ?_, ?_, ?_⟩
  · rw [e]; exact (hframe.setPend ..).setDue d
  · exact running_of_stack hstack
  · rw [e]; simp [State.pend_setPend]
  · rw [e]; simp [htgt]
  · rw [e]; simp [htgt]
  · rw [e]; exact touches_rf (State.rf_setPend ..) htouch

/-! ### The EOI out of order (R170, R171) -/

/-- The register that latches a target's out-of-order completion. -/
def faultReg (m : Bool) : Nat := if m then R.IRQ.FAULT_MCU.reg else R.IRQ.FAULT_HOST.reg

/-- The latch of an out-of-order completion: the first one is kept, a later one is marked as MORE. -/
def latchFault (s : State) (m : Bool) (expected : Option Nat) (named : Nat) : State :=
  if s.flag ⟨faultReg m, 31, 1⟩ then s.setFld ⟨faultReg m, 30, 1⟩ 1
  else s.setFlds [(⟨faultReg m, 31, 1⟩, 1), (⟨faultReg m, 24, 1⟩, b2n expected.isNone),
    (⟨faultReg m, 8, 8⟩, expected.getD 0), (⟨faultReg m, 0, 8⟩, named)]

section
variable (s : State) (m : Bool) (x : Option Nat) (n : Nat)

theorem latchFault_frame : latchFault s m x n = { s with rf := (latchFault s m x n).rf } := by
  unfold latchFault; split <;> rfl

theorem touches_latchFault : Touches [⟨faultReg m, 31, 1⟩, ⟨faultReg m, 30, 1⟩, ⟨faultReg m, 24, 1⟩, ⟨faultReg m, 8, 8⟩,
    ⟨faultReg m, 0, 8⟩] s (latchFault s m x n) := by
  unfold latchFault
  split
  · exact touches_setFld (by simp) (Touches.refl _ s)
  · exact touches_setFlds (by simp) (Touches.refl _ s)

theorem rd_latchFault_ne {k : Nat} (hk : k ≠ faultReg m) : (latchFault s m x n).rd k = s.rd k :=
  (touches_latchFault s m x n).rd (by simp [hk.symm])

theorem tgt_latchFault (k : Bool) : (latchFault s m x n).tgt k = s.tgt k := by rw [latchFault_frame]; rfl

/-- The latch leaves every source's priority alone: it lies below the configurations of the sources. -/
theorem srcPrio_latchFault (k : Bool) (j : Nat) : srcPrio (latchFault s m x n) k j = srcPrio s k j := by
  have hne : R.IRQ.SRC_CFG.reg j ≠ faultReg m := by
    cases m <;> simp only [R.IRQ.SRC_CFG.reg, faultReg, R.IRQ.FAULT_MCU.reg, R.IRQ.FAULT_HOST.reg] <;> simp <;> omega
  have hmcu : (latchFault s m x n).fld (R.IRQ.SRC_CFG.PRIO_MCU j) = s.fld (R.IRQ.SRC_CFG.PRIO_MCU j) :=
    congrArg (Fld.of _) (rd_latchFault_ne s m x n hne)
  have hhost : (latchFault s m x n).fld (R.IRQ.SRC_CFG.PRIO_HOST j) = s.fld (R.IRQ.SRC_CFG.PRIO_HOST j) :=
    congrArg (Fld.of _) (rd_latchFault_ne s m x n hne)
  rw [srcPrio, srcPrio, hmcu, hhost]

theorem stackFault_latches : stackFault s m x n = pendSet (pendSet (latchFault s m x n) false 0) true 0 := rfl

/-- A fault is latched, and STACK_FAULT is set pending for both targets. -/
theorem stackFault_eq (hprio : ∀ k, srcPrio s k 0 ≠ 0) : ∃ l l', stackFault s m x n =
    ((latchFault s m x n).setPend false ((s.tgt false).pend ||| bit256 0) (s.tgt false).stack l).setPend true
      ((s.tgt true).pend ||| bit256 0) (s.tgt true).stack l' := by
  obtain ⟨l, l', e⟩ := pendSet_both (latchFault s m x n) 0
  simp only [srcPrio_latchFault, hprio, if_false, tgt_latchFault] at e
  exact ⟨l, l', (stackFault_latches s m x n).trans e⟩

end

/-- An EOI of an empty stack (kind 1), or of another source than the top's (kind 0), is a fault that expects `x`. -/
theorem irqEoi_outOfOrder {s : State} {m : Bool} {n kind x : Nat} (h : (kind = 1 ∧ x = 0 ∧ (s.tgt m).stack = []) ∨
    (kind = 0 ∧ x < 256 ∧ ∃ e rest, (s.tgt m).stack = e :: rest ∧ e.src = x ∧ x ≠ n)) :
    ∃ o : Option Nat, irqEoi s m n = msixIfRose (irqCond s false) (stackFault s m o n) ∧
      b2n o.isNone = kind ∧ o.getD 0 = x := by
  rcases h with ⟨rfl, rfl, hs⟩ | ⟨rfl, -, e, rest, hs, rfl, hne⟩
  · exact ⟨none, by simp only [irqEoi, hs], rfl, rfl⟩
  · exact ⟨some e.src, by simp only [irqEoi, hs, if_neg hne], rfl, rfl⟩

/-- What a fault leaves of the registers, of the targets and of the rest. -/
theorem irqEoi_of_fault {s : State} {m : Bool} {n : Nat} {o : Option Nat} (hprio : ∀ k, srcPrio s k 0 ≠ 0)
    (h : irqEoi s m n = msixIfRose (irqCond s false) (stackFault s m o n)) :
    IrqFrame s (irqEoi s m n) ∧ (irqEoi s m n).rf = (latchFault s m o n).rf ∧
      ∀ k, ((irqEoi s m n).tgt k).stack = (s.tgt k).stack ∧ ((irqEoi s m n).tgt k).mask = (s.tgt k).mask ∧
        ((irqEoi s m n).tgt k).pend = (s.tgt k).pend ||| bit256 0 := by
  obtain ⟨d, hd⟩ := msixIfRose_eq (irqCond s false) (stackFault s m o n)
  obtain ⟨l, l', hf⟩ := stackFault_eq s m o n hprio
  have hlatch : IrqFrame s (latchFault s m o n) := by rw [IrqFrame, latchFault_frame]
  rw [h, hd, hf]
  refine ⟨((hlatch.setPend ..).setPend ..).setDue d, by simp [State.setDue], fun k => ⟨?_, ?_, ?_⟩⟩
  · cases k <;> simp [State.stack_setPend]
  · simp [tgt_latchFault]
  · cases k <;> simp [State.pend_setPend]

section
variable {s : State} {m : Bool} {o : Option Nat} {n : Nat}

theorem latchFault_more (h : s.flag ⟨faultReg m, 31, 1⟩ = true) :
    latchFault s m o n = s.setFld ⟨faultReg m, 30, 1⟩ 1 := if_pos h

theorem latchFault_first (h : s.flag ⟨faultReg m, 31, 1⟩ = false) (hx : o.getD 0 < 256) (hn : n < 256) :
    (latchFault s m o n).fld ⟨faultReg m, 31, 1⟩ = 1 ∧ (latchFault s m o n).fld ⟨faultReg m, 24, 1⟩ = b2n o.isNone ∧
      (latchFault s m o n).fld ⟨faultReg m, 8, 8⟩ = o.getD 0 ∧ (latchFault s m o n).fld ⟨faultReg m, 0, 8⟩ = n := by
  have e : latchFault s m o n = _ := if_neg (ne_true_of_eq_false h)
  have hb : b2n o.isNone < 2 := by cases o <;> simp [b2n]
  rw [e]
  simp only [State.setFlds_cons, State.setFlds_nil]
  refine ⟨?_, ?_, ?_, ?_⟩
  · rw [State.fld_setFld_apart, State.fld_setFld_apart, State.fld_setFld_apart, State.fld_setFld_self] <;> simp [Fld.apart]
  · rw [State.fld_setFld_apart, State.fld_setFld_apart, State.fld_setFld_self] <;> simp [Fld.apart]
    omega
  · rw [State.fld_setFld_apart, State.fld_setFld_self] <;> simp [Fld.apart]
    omega
  · rw [State.fld_setFld_self] <;> simp
    omega

end

/-- The clause on an EOI out of order. -/
theorem irqEoi_outOfOrder_goes (s : State) {init n kind x : Nat} {m : Bool} (hn : n < 256) (ht : irqTakes s init m = true)
    (h : (kind = 1 ∧ x = 0 ∧ (s.tgt m).stack = []) ∨
      (kind = 0 ∧ x < 256 ∧ ∃ e rest, (s.tgt m).stack = e :: rest ∧ e.src = x ∧ x ≠ n))
    (hhost : srcPrio s false 0 = 7) (hmcu : srcPrio s true 0 = 7) : Goes (.irqEoi init m n) s fun t =>
      t = { s with rf := t.rf, irq := t.irq } ∧
      (∀ k, (t.tgt k).stack = (s.tgt k).stack ∧ (t.tgt k).mask = (s.tgt k).mask ∧ (t.tgt k).pend.getLsbD 0 = true ∧
        ∀ j, 0 < j → j < 256 → (t.tgt k).pend.getLsbD j = (s.tgt k).pend.getLsbD j) ∧
      (s.flag ⟨faultReg m, 31, 1⟩ = true →
        t.fld ⟨faultReg m, 30, 1⟩ = 1 ∧ Touches [⟨faultReg m, 30, 1⟩] s t) ∧
      (s.flag ⟨faultReg m, 31, 1⟩ = false →
        t.fld ⟨faultReg m, 31, 1⟩ = 1 ∧ t.fld ⟨faultReg m, 24, 1⟩ = kind ∧ t.fld ⟨faultReg m, 8, 8⟩ = x ∧
        t.fld ⟨faultReg m, 0, 8⟩ = n ∧ ∀ k, k ≠ faultReg m → t.rd k = s.rd k) := by
  refine ⟨_, exec_irqEoi hn ht, ?_⟩
  have hprio : ∀ k, srcPrio s k 0 ≠ 0 := by
    intro k; cases k <;> omega
  have hx : x < 256 := by omega
  obtain ⟨o, hirq, rfl, rfl⟩ := irqEoi_outOfOrder h
  obtain ⟨hframe, hrf, htgt⟩ := irqEoi_of_fault hprio hirq
  refine ⟨hframe, fun k => ?_, fun hv => ?_, fun hv => ?_⟩
  · obtain ⟨hstack, hmask, hpend⟩ := htgt k
    refine ⟨hstack, hmask, ?_, fun j hj hj' => ?_⟩
    · rw [hpend, getLsbD_or_bit256 _ 0 (by decide)]; simp
    · rw [hpend, getLsbD_or_bit256 _ 0 hj']; simp [hj.ne']
  · rw [latchFault_more hv] at hrf
    rw [State.fld_of_rf_eq hrf, State.fld_setFld_self _ _ _ (by simp)]
    exact ⟨rfl, touches_rf hrf (touches_setFld (by simp) (Touches.refl _ s))⟩
  · simp only [State.fld_of_rf_eq hrf]
    obtain ⟨hvalid, hkind, hexp, hnamed⟩ := latchFault_first (o := o) hv hx hn
    exact ⟨hvalid, hkind, hexp, hnamed, fun k hk => (State.rd_of_rf_eq hrf k).trans (rd_latchFault_ne s m o n hk)⟩

/-- Settles O20: a sample of a line, an ACK and an EOI are one equation each of what they set, from which the clauses are
read. That pendings follow a source's line in the rows of the interrupt controller is the model's choice of log 34. -/
theorem interruptSourcesAckAndEoi : Obligations.InterruptSourcesAckAndEoi := by
  unfold Obligations.InterruptSourcesAckAndEoi
  refine fun s n hn => ⟨irqSourceEvent_goes s hn, fun init m ht => ⟨?_, ?_, ?_, ?_⟩⟩
  · exact irqAck_accepted_goes s hn ht
  · exact fun w hw => irqAck_refused_goes s hn ht hw
  · exact irqEoi_top_goes s hn ht
  · intro kind x h hhost hmcu
    have h := irqEoi_outOfOrder_goes s hn ht h hhost hmcu
    cases m <;> exact h

end Sys2Proof.Machine
end

section
/-! The lines of the transmit flows', the seamless flows' and the forme's sources (R333, R349, R430). A PEND register reads
as a word of one bit per flow; which bits those are comes first, what a source's line is made of after it, and the
obligation compares the two. -/

namespace Sys2Proof.Machine

/-! ### A word with one bit per number -/

theorem sum_two_pow_lt (f : Nat → Bool) (n : Nat) : ((List.range n).map fun j => if f j then 2 ^ j else 0).sum < 2 ^ n := by
  induction n with
  | zero => simp
  | succ n ih =>
    rw [List.sum_range_succ, Nat.pow_succ]
    split <;> omega

theorem testBit_sum_two_pow (f : Nat → Bool) (n i : Nat) :
    ((List.range n).map fun j => if f j then 2 ^ j else 0).sum.testBit i = (decide (i < n) && f i) := by
  induction n with
  | zero => simp
  | succ n ih =>
    have htop : (if f n then 2 ^ n else 0) = 2 ^ n * (f n).toNat := by cases f n <;> simp
    rw [List.sum_range_succ, htop, Nat.add_comm, Nat.testBit_two_pow_mul_add _ (sum_two_pow_lt f n), ih,
      Nat.testBit_bool_toNat]
    rcases Nat.lt_trichotomy i n with h | rfl | h
    · simp [h, Nat.lt_succ_of_lt h]
    · simp
    · simp [show ¬ i < n by omega, show ¬ i < n + 1 by omega, show i - n ≠ 0 by omega]

theorem getLsbD_bitsOf (f : Nat → Bool) {j : Nat} (hj : j < 32) : (bitsOf 32 f).getLsbD j = f j := by
  rw [bitsOf, BitVec.getLsbD_ofNat, testBit_sum_two_pow]
  simp [hj]

/-- A slice of a number is not 0 when one of its bits is set. -/
theorem bits_bne_zero (n lo w : Nat) : (bits n lo w != 0) = (List.range w).any fun i => n.testBit (lo + i) := by
  have hbit : ∀ i, (bits n lo w).testBit i = (decide (i < w) && n.testBit (lo + i)) := by simp [bits]
  rw [Bool.eq_iff_iff, bne_iff_ne, List.any_eq_true]
  constructor
  · intro h
    obtain ⟨i, hi⟩ := Nat.exists_testBit_of_ne_zero h
    rw [hbit, Bool.and_eq_true, decide_eq_true_eq] at hi
    exact ⟨i, List.mem_range.mpr hi.1, hi.2⟩
  · rintro ⟨i, hmem, hi⟩ h0
    have h := hbit i
    simp [h0, List.mem_range.mp hmem, hi] at h

theorem anyFrom_congr {f g : Nat → Bool} {a b n : Nat} (h : ∀ i, i < n → f (a + i) = g (b + i)) :
    anyFrom a n f = anyFrom b n g := by
  rw [Bool.eq_iff_iff, anyFrom, anyFrom, List.any_eq_true, List.any_eq_true]
  exact exists_congr fun i => and_congr_right fun hi => by rw [h i (List.mem_range.mp hi)]

/-- A slice of a word of one bit per number asks whether any number of the slice meets the test. -/
theorem bits_bitsOf_bne_zero (f : Nat → Bool) {lo w : Nat} (h : lo + w ≤ 32) :
    (bits (bitsOf 32 f).toNat lo w != 0) = anyFrom lo w f := by
  rw [bits_bne_zero]
  exact anyFrom_congr fun i hi => getLsbD_bitsOf f (by omega)

theorem bitsOf_bne_zero (f : Nat → Bool) : (bitsOf 32 f != 0) = anyFrom 0 32 f := by
  rw [← bits_bitsOf_bne_zero f (Nat.le_refl 32), bits, Nat.shiftRight_zero, Nat.mod_eq_of_lt (BitVec.isLt _)]
  simp [bne, ← BitVec.toNat_inj]

/-! ### What a read of a PEND register shows -/

theorem regWord_of_regView {s : State} {init off : Nat} {v : Word} (h : regView s off (itemOf s init off) = some v) :
    regWord s init off = v := by
  simp only [regWord, h]

theorem regWord_txfPend (s : State) (init : Nat) {k : Nat} (hk : k < 8) :
    regWord s init (R.TXF.PEND.reg k) = bitsOf 32 fun j => txPend s (32 * k + j) := by
  apply regWord_of_regView
  generalize itemOf s init (R.TXF.PEND.reg k) = item
  dsimp only [regView, R.TXF.PEND.reg]
  iterate 14 rw [if_neg (by omega)]
  rw [if_pos (by omega), show (0xd030 + 4 * k - 0xD030) / 4 = k by omega]

theorem regWord_redPend (s : State) (init : Nat) {k : Nat} (hk : k < 8) :
    regWord s init (R.RED.PEND.reg k) = bitsOf 32 fun j => redPend s (32 * k + j) := by
  apply regWord_of_regView
  generalize itemOf s init (R.RED.PEND.reg k) = item
  dsimp only [regView, R.RED.PEND.reg]
  iterate 15 rw [if_neg (by omega)]
  rw [if_pos (by omega), show (0x10010 + 4 * k - 0x10010) / 4 = k by omega]

/-! ### What a source's line is made of -/

theorem srcLine_of_domOn {s : State} {n d : Nat} (hn : srcNamed n = true) (hd : srcDomain n = d) (hs : s.domOn d = true) :
    srcLine s n = srcCause s n := by
  rw [srcLine, hn, hd, hs]; rfl

/-- A reserved source number never speaks (R162). -/
theorem srcLine_of_reserved (s : State) {n : Nat} (hn : srcNamed n = false) : srcLine s n = false := by
  rw [srcLine, hn]; rfl

theorem srcLine_txf {s : State} (hs : s.domOn 2 = true) {m : Nat} (hm : m < 16) : srcLine s (160 + m) =
    (anyFrom (16 * m) 16 (txPend s) ||
      (m == 15 && (List.range 64).any fun j => s.flag (R.TXF.FUN_STAT.FUN_LATE_EV j))) := by
  have h175 : (160 + m == 175) = (m == 15) := decide_eq_decide.mpr (by omega)
  have hsrc : ∀ m < 16, srcNamed (160 + m) = true ∧ srcDomain (160 + m) = 2 := by decide
  rw [srcLine_of_domOn (hsrc m hm).1 (hsrc m hm).2 hs, srcCause]
  iterate 3 rw [if_neg (by omega)]
  rw [if_pos (by omega), if_neg (by omega), if_pos (by omega), Nat.add_sub_cancel_left, h175]
  simp only [anyFrom, Nat.zero_add]

theorem srcLine_red {s : State} (hs : s.domOn 2 = true) {m : Nat} (hm : m < 8) :
    srcLine s (196 + m) = anyFrom (32 * m) 32 (redPend s) := by
  have hsrc : ∀ m < 8, srcNamed (196 + m) = true ∧ srcDomain (196 + m) = 2 := by decide
  rw [srcLine_of_domOn (hsrc m hm).1 (hsrc m hm).2 hs, srcCause]
  iterate 3 rw [if_neg (by omega)]
  rw [if_pos (by omega)]
  iterate 3 rw [if_neg (by omega)]
  rw [if_pos (by omega), Nat.add_sub_cancel_left]

/-! ### The obligation's clauses -/

theorem srcLine_txf_eq_pend {s : State} (init : Nat) (hs : s.domOn 2 = true) {m : Nat} (hm : m < 16) : srcLine s (160 + m) =
    (bits (regWord s init (R.TXF.PEND.reg (m / 2))).toNat (16 * (m % 2)) 16 != 0 ||
      (m == 15 && (List.range 64).any fun j => s.flag (R.TXF.FUN_STAT.FUN_LATE_EV j))) := by
  rw [srcLine_txf hs hm, regWord_txfPend s init (by omega), bits_bitsOf_bne_zero _ (by omega)]
  exact congrArg (· || _) (anyFrom_congr fun i _ => congrArg (txPend s) (by omega))

theorem srcLine_red_eq_pend {s : State} (init : Nat) (hs : s.domOn 2 = true) {m : Nat} (hm : m < 8) :
    srcLine s (196 + m) = (regWord s init (R.RED.PEND.reg m) != 0) ∧
      ∀ j, j < 32 → (regWord s init (R.RED.PEND.reg m)).getLsbD j = redPend s (32 * m + j) := by
  rw [srcLine_red hs hm, regWord_redPend s init hm, bitsOf_bne_zero]
  exact ⟨anyFrom_congr fun i _ => congrArg (redPend s) (by omega), fun j hj => getLsbD_bitsOf _ hj⟩

theorem srcLine_frm {s : State} (hs : s.domOn 1 = true) :
    srcLine s 244 = (s.flag R.FRM.STAT.STATE_EV || s.flag R.FRM.STAT.DONE_EV) ∧
      srcLine s 245 = (s.flag R.FRM.STAT.ROLLBACK_EV || s.flag R.FRM.STAT.INCONSISTENT) :=
  ⟨srcLine_of_domOn (by decide) (by decide) hs, srcLine_of_domOn (by decide) (by decide) hs⟩

/-- Settles O21: a PEND register reads one bit per flow, and the cause of a group's source asks whether any of the same
flows pends. -/
theorem interruptLines : Obligations.InterruptLines := by
  unfold Obligations.InterruptLines
  exact fun s init => ⟨fun hs _ hm => srcLine_txf_eq_pend init hs hm, fun hs _ hm => srcLine_red_eq_pend init hs hm,
    srcLine_frm, srcLine_of_reserved s (by decide), srcLine_of_reserved s (by decide)⟩

end Sys2Proof.Machine
end

section
/-! What every step keeps (R49, R199): a step that runs a command leaves what `Keeps` names of the state with the queue's
rest, and so does an idle step; and every command but the forbidden reset pulse answers a next state. -/

namespace Sys2Proof.Machine

/-! ### The queue, the flash and the stores -/

theorem keeps_exec {s0 s : State} (hk : Keeps s0 s) (c : Instr) : KeepsO s0 (exec c s) := by
  cases c with
  | aonResetRelease => exact keeps_execAonResetRelease hk
  | pwrCoreEnRise => exact keeps_execPwrCoreEnRise hk
  | railTimeout => exact keeps_execRailTimeout hk
  | railRetry => exact keeps_execRailRetry hk
  | wakeRailTimeout => exact keeps_execWakeRailTimeout hk
  | resetNPulse => exact keeps_execResetNPulse hk
  | sysResetExecute => exact keeps_execSysResetExecute hk
  | strapSample => exact keeps_execStrapSample hk
  | strapCompare => exact keeps_execStrapCompare hk
  | perstNAssert => exact keeps_execPerstNAssert hk
  | refPllLock => exact keeps_execRefPllLock hk
  | sysPllLock => exact keeps_execSysPllLock hk
  | pllLossOfLock => exact keeps_execPllLossOfLock hk
  | bootImageVerified => exact keeps_execBootImageVerified hk
  | bootFormeApplied => exact keeps_execBootFormeApplied hk
  | xtalQualified => exact keeps_execXtalQualified hk
  | xtalFailTimeout => exact keeps_execXtalFailTimeout hk
  | toDozeComplete => exact keeps_execToDozeComplete hk
  | pointOfNoReturn => exact keeps_execPointOfNoReturn hk
  | domainPowerOff => exact keeps_execDomainPowerOff hk
  | domainPowerUp => exact keeps_execDomainPowerUp hk
  | wakeLatchEdge => exact keeps_execWakeLatchEdge hk
  | minOffTimeExpiry => exact keeps_execMinOffTimeExpiry hk
  | wakePowerUp => exact keeps_execWakePowerUp hk
  | wakingReady => exact keeps_execWakingReady hk
  | sleepSaveDone => exact keeps_execSleepSaveDone hk
  | dozeFrameRx => exact keeps_execDozeFrameRx hk
  | pmeL2Handshake => exact keeps_execPmeL2Handshake hk
  | pmeL2Timeout => exact keeps_execPmeL2Timeout hk
  | slowCounterAlarm => exact keeps_execSlowCounterAlarm hk
  | trimWindowEnd => exact keeps_execTrimWindowEnd hk
  | timeHandback => exact keeps_execTimeHandback hk
  | avsStep => exact keeps_execAvsStep hk
  | mcsDetectorInterval => exact keeps_execMcsDetectorInterval hk
  | wclkInQualified => exact keeps_execWclkInQualified hk
  | wclkInLoss => exact keeps_execWclkInLoss hk
  | clkOutputSwitch => exact keeps_execClkOutputSwitch hk
  | addendWrite => exact keeps_execAddendWrite hk
  | ptpMessageRx => exact keeps_execPtpMessageRx hk
  | servoUpdate => exact keeps_execServoUpdate hk
  | freezeHoldExpiry => exact keeps_execFreezeHoldExpiry hk
  | asymBothTimeout => exact keeps_execAsymBothTimeout hk
  | suspectClear => exact keeps_execSuspectClear hk
  | delayMeasurement => exact keeps_execDelayMeasurement hk
  | announceRx => exact keeps_execAnnounceRx hk
  | announceTimeout => exact keeps_execAnnounceTimeout hk
  | faultyRecover => exact keeps_execFaultyRecover hk
  | ptpSyncTx => exact keeps_execPtpSyncTx hk
  | ppsInEdge => exact keeps_execPpsInEdge hk
  | ppsOutPulse => exact keeps_execPpsOutPulse hk
  | ptmDialogue => exact keeps_execPtmDialogue hk
  | platenArmWrite => exact keeps_execPlatenArmWrite hk
  | platenFire => exact keeps_execPlatenFire hk
  | platenStrobeArrival => exact keeps_execPlatenStrobeArrival hk
  | platenCaptureEdge => exact keeps_execPlatenCaptureEdge hk
  | registerWrite => exact keeps_execRegisterWrite hk
  | clearingRead => exact keeps_execClearingRead hk
  | updateStrobe => exact keeps_execUpdateStrobe hk
  | shadowApplyAtBoundary => exact keeps_execShadowApplyAtBoundary hk
  | indirAddrWrite => exact keeps_execIndirAddrWrite hk
  | indirDataRead => exact keeps_execIndirDataRead hk
  | indirDataWrite => exact keeps_execIndirDataWrite hk
  | indirTransferDone => exact keeps_execIndirTransferDone hk
  | indirStallTimeout => exact keeps_execIndirStallTimeout hk
  | indirTransferLost => exact keeps_execIndirTransferLost hk
  | wideSelWrite => exact keeps_execWideSelWrite hk
  | wideSnapshotReady => exact keeps_execWideSnapshotReady hk
  | wideD3Read => exact keeps_execWideD3Read hk
  | guardValWrite => exact keeps_execGuardValWrite hk
  | guardCplWrite => exact keeps_execGuardCplWrite hk
  | guardTimeout => exact keeps_execGuardTimeout hk
  | quoinSet => exact keeps_execQuoinSet hk
  | aliasWrite => exact keeps_execAliasWrite hk
  | cfgCrcPassEnd => exact keeps_execCfgCrcPassEnd hk
  | cfgCrcStale => exact keeps_execCfgCrcStale hk
  | counterClear => exact keeps_execCounterClear hk
  | irqSourceEvent => exact keeps_execIrqSourceEvent hk
  | irqAck => exact keeps_execIrqAck hk
  | irqEoi => exact keeps_execIrqEoi hk
  | irqPendingSetClr => exact keeps_execIrqPendingSetClr hk
  | irqMaskSetClr => exact keeps_execIrqMaskSetClr hk
  | modWindowExpiry => exact keeps_execModWindowExpiry hk
  | mcuWaitForInterrupt => exact keeps_execMcuWaitForInterrupt hk
  | msixMessageSend => exact keeps_execMsixMessageSend hk
  | reqDoorbell => exact keeps_execReqDoorbell hk
  | requestTake => exact keeps_execRequestTake hk
  | responseWrite => exact keeps_execResponseWrite hk
  | rspDoorbellClr => exact keeps_execRspDoorbellClr hk
  | ringEnable => exact keeps_execRingEnable hk
  | cmdTailDoorbell => exact keeps_execCmdTailDoorbell hk
  | cmdFetch => exact keeps_execCmdFetch hk
  | completionWrite => exact keeps_execCompletionWrite hk
  | cplHeadDoorbell => exact keeps_execCplHeadDoorbell hk
  | eventWrite => exact keeps_execEventWrite hk
  | evtHeadDoorbell => exact keeps_execEvtHeadDoorbell hk
  | ringDmaError => exact keeps_execRingDmaError hk
  | wdogWarn => exact keeps_execWdogWarn hk
  | wdogExpiry => exact keeps_execWdogExpiry hk
  | fwRestartDone => exact keeps_execFwRestartDone hk
  | loadChunkGo => exact keeps_execLoadChunkGo hk
  | loadChunkTaken => exact keeps_execLoadChunkTaken hk
  | loadVerifyDone => exact keeps_execLoadVerifyDone hk
  | sysInfo => exact keeps_execSysInfo hk
  | sysClaim => exact keeps_execSysClaim hk
  | sysRelease => exact keeps_execSysRelease hk
  | sysReset => exact keeps_execSysReset hk
  | sysImageBegin => exact keeps_execSysImageBegin hk
  | sysImageWrite => exact keeps_execSysImageWrite hk
  | sysImageEnd => exact keeps_execSysImageEnd hk
  | sysCommit => exact keeps_execSysCommit hk
  | sysRecover => exact keeps_execSysRecover hk
  | pwrEnter => exact keeps_execPwrEnter hk
  | pwrStatus => exact keeps_execPwrStatus hk
  | pwrConfig => exact keeps_execPwrConfig hk
  | frmInfo => exact keeps_execFrmInfo hk
  | frmRead => exact keeps_execFrmRead hk
  | frmStageLoad => exact keeps_execFrmStageLoad hk
  | frmStageWrite => exact keeps_execFrmStageWrite hk
  | frmApply => exact keeps_execFrmApply hk
  | frmStore => exact keeps_execFrmStore hk
  | frmSetBoot => exact keeps_execFrmSetBoot hk
  | formeEpoch => exact keeps_execFormeEpoch hk
  | formeStageVerify => exact keeps_execFormeStageVerify hk
  | clkMcsSet => exact keeps_execClkMcsSet hk
  | clkOutSet => exact keeps_execClkOutSet hk
  | clkMcsStatus => exact keeps_execClkMcsStatus hk
  | ptpSet => exact keeps_execPtpSet hk
  | ptpStatus => exact keeps_execPtpStatus hk
  | ptpGmQuality => exact keeps_execPtpGmQuality hk
  | ptpStep => exact keeps_execPtpStep hk
  | ptpAsymAdopt => exact keeps_execPtpAsymAdopt hk
  | tdmSet => exact keeps_execTdmSet hk
  | tdmStart => exact keeps_execTdmStart hk
  | tdmStop => exact keeps_execTdmStop hk
  | tdmStatus => exact keeps_execTdmStatus hk
  | rtSet => exact keeps_execRtSet hk
  | rtGet => exact keeps_execRtGet hk
  | krnSet => exact keeps_execKrnSet hk
  | krnStatus => exact keeps_execKrnStatus hk
  | rxfCreate => exact keeps_execRxfCreate hk
  | rxfDelete => exact keeps_execRxfDelete hk
  | rxfOffset => exact keeps_execRxfOffset hk
  | rxfStatus => exact keeps_execRxfStatus hk
  | txfCreate => exact keeps_execTxfCreate hk
  | txfDelete => exact keeps_execTxfDelete hk
  | txfStatus => exact keeps_execTxfStatus hk
  | sdpImport => exact keeps_execSdpImport hk
  | sdpExport => exact keeps_execSdpExport hk
  | sdpAnnounce => exact keeps_execSdpAnnounce hk
  | sapAnnouncementTx => exact keeps_execSapAnnouncementTx hk
  | redStatus => exact keeps_execRedStatus hk
  | redPaths => exact keeps_execRedPaths hk
  | stkStatus => exact keeps_execStkStatus hk
  | stkSet => exact keeps_execStkSet hk
  | twinSet => exact keeps_execTwinSet hk
  | twinTakeover => exact keeps_execTwinTakeover hk
  | twinHealth => exact keeps_execTwinHealth hk
  | grdSet => exact keeps_execGrdSet hk
  | grdStatus => exact keeps_execGrdStatus hk
  | grdReprobe => exact keeps_execGrdReprobe hk
  | diagSnapClear => exact keeps_execDiagSnapClear hk
  | diagCounters => exact keeps_execDiagCounters hk
  | diagLoopback => exact keeps_execDiagLoopback hk
  | diagMarch => exact keeps_execDiagMarch hk
  | diagLog => exact keeps_execDiagLog hk
  | evtFetch => exact keeps_execEvtFetch hk
  | evtMask => exact keeps_execEvtMask hk
  | dxStatus => exact keeps_execDxStatus hk
  | dxRead => exact keeps_execDxRead hk
  | itemOpen => exact keeps_execItemOpen hk
  | itemWordWrite => exact keeps_execItemWordWrite hk
  | carriedSlugPlace => exact keeps_execCarriedSlugPlace hk
  | itemCommit => exact keeps_execItemCommit hk
  | itemRewind => exact keeps_execItemRewind hk
  | queuePop => exact keeps_execQueuePop hk
  | queueMark => exact keeps_execQueueMark hk
  | queueRewind => exact keeps_execQueueRewind hk
  | queueRelease => exact keeps_execQueueRelease hk
  | flushStart => exact keeps_execFlushStart hk
  | flushEnd => exact keeps_execFlushEnd hk
  | flushForcedAbort => exact keeps_execFlushForcedAbort hk
  | linkParityError => exact keeps_execLinkParityError hk
  | scrubCell fail => exact keeps_execScrubCell (fail := fail) hk
  | freeListBuilt => exact keeps_execFreeListBuilt hk
  | qResWrite => exact keeps_execQResWrite hk
  | qCapWrite => exact keeps_execQCapWrite hk
  | qCfgHalfWrite => exact keeps_execQCfgHalfWrite hk
  | budgetWrite => exact keeps_execBudgetWrite hk
  | galDiagAccess => exact keeps_execGalDiagAccess hk
  | galInjectArm => exact keeps_execGalInjectArm hk
  | netFrameRx => exact keeps_execNetFrameRx hk
  | netLinkStateChange => exact keeps_execNetLinkStateChange hk
  | classifierKeyWrite => exact keeps_execClassifierKeyWrite hk
  | impositionEntryWrite => exact keeps_execImpositionEntryWrite hk
  | impositionTakeEffect => exact keeps_execImpositionTakeEffect hk
  | tableCrcUpdate => exact keeps_execTableCrcUpdate hk
  | playoutIndexDue => exact keeps_execPlayoutIndexDue hk
  | placementWindowEnd => exact keeps_execPlacementWindowEnd hk
  | kerningSlewEnd => exact keeps_execKerningSlewEnd hk
  | krnTrackDone => exact keeps_execKrnTrackDone hk
  | redPathLoss => exact keeps_execRedPathLoss hk
  | packetClose => exact keeps_execPacketClose hk
  | packetLaunch => exact keeps_execPacketLaunch hk
  | portFrameStart => exact keeps_execPortFrameStart hk
  | txFlowStart => exact keeps_execTxFlowStart hk
  | funnelLaunch => exact keeps_execFunnelLaunch hk
  | hostBlockStart => exact keeps_execHostBlockStart hk
  | hrBlockCommit => exact keeps_execHrBlockCommit hk
  | hrSlotWrite => exact keeps_execHrSlotWrite hk
  | confirmReadCompletion => exact keeps_execConfirmReadCompletion hk
  | cplTimeout => exact keeps_execCplTimeout hk
  | hrAckWrite => exact keeps_execHrAckWrite hk
  | htProdWrite => exact keeps_execHtProdWrite hk
  | htReadCompletion => exact keeps_execHtReadCompletion hk
  | pcieLinkStateChange => exact keeps_execPcieLinkStateChange hk
  | ctlSpiFrame => exact keeps_execCtlSpiFrame hk
  | ctlI2cFrame => exact keeps_execCtlI2cFrame hk
  | stkLinkTrained => exact keeps_execStkLinkTrained hk
  | stkLinkDown => exact keeps_execStkLinkDown hk
  | synzoFrameRx => exact keeps_execSynzoFrameRx hk
  | stkTimeFrameTx => exact keeps_execStkTimeFrameTx hk
  | stkTimeRegain => exact keeps_execStkTimeRegain hk
  | stkIdentifyTimeout => exact keeps_execStkIdentifyTimeout hk
  | stkMasterLoss => exact keeps_execStkMasterLoss hk
  | stkGenPull => exact keeps_execStkGenPull hk
  | soItemSend => exact keeps_execSoItemSend hk
  | twinHeartbeatTx => exact keeps_execTwinHeartbeatTx hk
  | twinHeartbeatMiss => exact keeps_execTwinHeartbeatMiss hk
  | twinFailPin => exact keeps_execTwinFailPin hk
  | twinCmdTake => exact keeps_execTwinCmdTake hk
  | twinCmdHandover => exact keeps_execTwinCmdHandover hk
  | twinHandoverCycle => exact keeps_execTwinHandoverCycle hk
  | twinTakePulseSeen => exact keeps_execTwinTakePulseSeen hk
  | twinTakingEnd => exact keeps_execTwinTakingEnd hk
  | twinPairingTimeout => exact keeps_execTwinPairingTimeout hk
  | twinCheckpointDynamicTx => exact keeps_execTwinCheckpointDynamicTx hk
  | twinCheckpointCommit => exact keeps_execTwinCheckpointCommit hk
  | twinHealthPeriodEnd => exact keeps_execTwinHealthPeriodEnd hk
  | tdmArmWrite => exact keeps_execTdmArmWrite hk
  | tdmStopWrite => exact keeps_execTdmStopWrite hk
  | tdmStartInstant => exact keeps_execTdmStartInstant hk
  | tdmFrame => exact keeps_execTdmFrame hk
  | tdmClockLost => exact keeps_execTdmClockLost hk
  | tdmLeadOutEnd => exact keeps_execTdmLeadOutEnd hk
  | grdReadbackFault => exact keeps_execGrdReadbackFault hk
  | grdPinTrip => exact keeps_execGrdPinTrip hk
  | grdReprobeTimer => exact keeps_execGrdReprobeTimer hk
  | grdOpenTest => exact keeps_execGrdOpenTest hk
  | grdClockSwapDetect => exact keeps_execGrdClockSwapDetect hk
  | grdLossOfSignal => exact keeps_execGrdLossOfSignal hk
  | grdTioShort => exact keeps_execGrdTioShort hk
  | grdTioOpen => exact keeps_execGrdTioOpen hk
  | grdInputContention => exact keeps_execGrdInputContention hk
  | grdPpsLoss => exact keeps_execGrdPpsLoss hk
  | dxSpiFrame => exact keeps_execDxSpiFrame hk
  | dxSoftReset => exact keeps_execDxSoftReset hk
  | dxRefresh => exact keeps_execDxRefresh hk
  | dxRefreshDeferred => exact keeps_execDxRefreshDeferred hk
  | dxDiscoveryQuery => exact keeps_execDxDiscoveryQuery hk
  | dxSapAnnounce => exact keeps_execDxSapAnnounce hk
  | supplyLoss => exact keeps_execSupplyLoss hk
  | brownOut => exact keeps_execBrownOut hk
  | acceptedCommandEnd => exact keeps_execAcceptedCommandEnd hk
  | commandBoundTimeout => exact keeps_execCommandBoundTimeout hk

/-- A step keeps what `Keeps` names of the state whose front command is taken. -/
theorem keeps_step {s t : State} (h : step s = .next t) : Keeps { s with pending := s.pending.tail } t := by
  unfold step at h
  split at h
  · next hp =>
    cases h
    rw [hp, List.tail_nil, ← hp]
    exact keeps_idle (Keeps.refl s)
  · next c rest hp =>
    rw [hp, List.tail_cons]
    exact (keeps_exec (Keeps.refl _) c).next t h

/-- Settles O59: the stores' part of what every step keeps. -/
theorem storesStayCanonical : Obligations.StoresStayCanonical := by
  unfold Obligations.StoresStayCanonical
  exact fun s t hs h => (keeps_step h).stores hs

theorem FlashKeeps.flashOk {s t : State} (h : FlashKeeps s.flash t.flash) (hs : FlashOk s) : FlashOk t := by
  obtain ⟨himages, hformes, hactive⟩ := hs
  exact ⟨h.images.trans himages, h.formes.trans hformes, h.active hactive⟩

theorem queueOk_of_tail {s t : State} (h : t.pending = s.pending.tail) (hs : QueueOk s) : QueueOk t := by
  intro c hc
  rw [h] at hc
  exact hs c (List.mem_of_mem_tail hc)

/-- Settles O60: the flash's and the queue's part of what every step keeps. -/
theorem flashRegionsAndQueueStay : Obligations.FlashRegionsAndQueueStay := by
  unfold Obligations.FlashRegionsAndQueueStay
  intro s t h
  have hk := keeps_step h
  have hf : FlashKeeps s.flash t.flash := hk.flash
  exact ⟨hf.serial, hf.macs, hf.pcie, hf.minSec, hf.flashOk, hk.pending, queueOk_of_tail hk.pending⟩

/-- Settles O56. -/
theorem stepRunsFrontOrIdles : Obligations.StepRunsFrontOrIdles := by
  unfold Obligations.StepRunsFrontOrIdles
  constructor
  · intro c rest s h
    simp only [step, h]
  · intro s h
    simp only [step, h]

/-- Settles O57: the stores of the reset state are empty, so that every register and byte reads its default. -/
theorem resetMeetsInvariants : Obligations.ResetMeetsInvariants := by
  unfold Obligations.ResetMeetsInvariants
  refine ⟨⟨rfl, rfl, rfl, rfl, rfl⟩, ⟨rfl, rfl, by decide⟩, ?_, rfl, fun k => rfl, fun k => rfl, fun a => rfl⟩
  intro c hc
  cases hc

/-! ### Every command answers a next state -/

theorem Completes.next (t : State) : Completes (.next t) := ⟨t, rfl⟩

theorem Completes.ite {p : Prop} [Decidable p] {a b : Out3} (ha : Completes a) (hb : Completes b) :
    Completes (if p then a else b) := by split <;> assumption

theorem Completes.followed {o : Out3} (h : Completes o) (s : State) : Completes (Machine.followed o s) := by
  obtain ⟨t, rfl⟩ := h
  exact .next _

section
variable (op : Nat) (lenOk : Nat → Bool) (locked : State → List Byte → Bool) (body : State → List Byte → CmdOut)
  (ch tag : Nat) (s : State)

theorem completes_runCmd : Completes (runCmd op lenOk locked body ch tag s) := by
  unfold runCmd
  split
  · exact .next _
  · exact .ite (.next _) (.ite (.next _) (.ite (.next _) (.next _)))

theorem completes_runAccepted : Completes (runAccepted op lenOk locked body ch tag s) := by
  unfold runAccepted
  split
  · exact .next _
  · exact .ite (.next _) (.ite (.next _) (.ite (.next _) (.ite (.next _) (.next _))))

end

theorem completes_announceTimeout (n x : Nat) (s : State) : Completes (announceTimeout n x s) := by
  unfold announceTimeout
  dsimp only
  repeat' (first | with_reducible exact .next _ | with_reducible apply Completes.ite)

theorem completes_announceRx (n x : Nat) (ds : List Nat) (gm steps : Nat) (s : State) : Completes (announceRx n x ds gm steps s) := by
  unfold announceRx
  dsimp only
  repeat' (first | with_reducible exact .next _ | with_reducible apply Completes.ite)

theorem completes_asymBothTimeout (n : Nat) (s : State) : Completes (asymBothTimeout n s) := by
  unfold asymBothTimeout
  dsimp only
  repeat' (first | with_reducible exact .next _ | with_reducible apply Completes.ite)

theorem completes_faultyRecover (n x : Nat) (s : State) : Completes (faultyRecover n x s) := by
  unfold faultyRecover
  repeat' (first | with_reducible exact .next _ | with_reducible apply Completes.ite)

theorem completes_freezeHoldExpiry (n : Nat) (s : State) : Completes (freezeHoldExpiry n s) := by
  unfold freezeHoldExpiry
  dsimp only
  repeat' (first | with_reducible exact .next _ | with_reducible apply Completes.ite)

theorem completes_ppsInEdge (falling : Bool) (s : State) : Completes (ppsInEdge falling s) := by
  unfold ppsInEdge
  dsimp only
  repeat' (first | with_reducible exact .next _ | with_reducible apply Completes.ite)

theorem completes_ptpMessageRx (n x : Nat) (exchange : Bool) (s : State) : Completes (ptpMessageRx n x exchange s) := by
  unfold ptpMessageRx
  dsimp only
  repeat' (first | with_reducible exact .next _ | with_reducible apply Completes.ite)

theorem completes_servoUpdate (n : Nat) (a b m : Option Int) (s : State) : Completes (servoUpdate n a b m s) := by
  unfold servoUpdate
  dsimp only
  repeat' (first | with_reducible exact .next _ | with_reducible apply Completes.ite | split)

theorem completes_timeHandback  (s : State) : Completes (timeHandback  s) := by
  unfold timeHandback
  dsimp only
  repeat' (first | with_reducible exact .next _ | with_reducible apply Completes.ite)

theorem completes_pllLossOfLock (sys : Bool) (s : State) : Completes (pllLossOfLock sys s) := by
  unfold pllLossOfLock
  dsimp only
  repeat' (first | with_reducible exact .next _ | with_reducible apply Completes.ite)

theorem completes_applyRefused {o : Out3} (h : Completes o) (ch tag : Nat) : Completes (applyRefused ch tag o) := by
  obtain ⟨t, rfl⟩ := h
  unfold applyRefused
  dsimp only
  repeat' (first | with_reducible exact .next _ | with_reducible apply Completes.ite | split)

theorem completes_execFrmApply (ch tag : Nat) (s : State) : Completes (execFrmApply ch tag s) := by
  unfold execFrmApply
  split
  · exact .next _
  · exact .ite (.next _) (completes_applyRefused (completes_runAccepted ..) ch tag)

theorem completes_execRtSet (ch tag : Nat) (s : State) : Completes (execRtSet ch tag s) := by
  unfold execRtSet
  split
  · exact .next _
  · exact .ite (completes_runCmd ..) (completes_runAccepted ..)

theorem completes_execRxfOffset (ch tag : Nat) (s : State) : Completes (execRxfOffset ch tag s) := by
  unfold execRxfOffset
  split
  · exact .next _
  · exact .ite (completes_runAccepted ..) (.ite (.ite (.next _) (.next _)) (completes_runCmd ..))

/-- Every command but RESET_N_PULSE answers a next state. -/
theorem completes_exec (s : State) (c : Instr) (hc : ∀ ns, c ≠ .resetNPulse ns) : Completes (exec c s) := by
  cases c with
  | resetNPulse ns => exact absurd rfl (hc ns)
  | perstNAssert | pmeL2Timeout | mcsDetectorInterval | wclkInQualified | clkOutputSwitch | addendWrite |
    platenArmWrite | platenCaptureEdge | registerWrite | clearingRead | updateStrobe | indirAddrWrite | indirDataRead |
    indirDataWrite | wideSelWrite | wideD3Read | guardValWrite | guardCplWrite | quoinSet | aliasWrite | counterClear |
    irqSourceEvent | irqAck | irqEoi | irqPendingSetClr | irqMaskSetClr | modWindowExpiry | mcuWaitForInterrupt |
    reqDoorbell | rspDoorbellClr | ringEnable | cmdTailDoorbell | cplHeadDoorbell | evtHeadDoorbell | wdogWarn |
    loadChunkGo | formeEpoch | formeStageVerify | itemOpen | itemWordWrite | itemRewind | queuePop | queueMark |
    queueRewind | queueRelease | flushStart | qResWrite | qCapWrite | qCfgHalfWrite | budgetWrite | galInjectArm |
    netFrameRx | netLinkStateChange | classifierKeyWrite | impositionEntryWrite | tableCrcUpdate | playoutIndexDue |
    packetLaunch | confirmReadCompletion | hrAckWrite | htProdWrite | htReadCompletion | stkMasterLoss | twinFailPin |
    twinCmdTake | tdmArmWrite | tdmStopWrite | tdmFrame | dxRefreshDeferred | supplyLoss | brownOut =>
    exact .next _
  | sysInfo | sysClaim | sysRelease | sysReset | sysImageWrite | sysRecover | pwrEnter | pwrStatus | pwrConfig |
    frmInfo | frmRead | frmStageWrite | clkMcsSet | clkOutSet | clkMcsStatus | ptpSet | ptpStatus | ptpGmQuality |
    ptpStep | ptpAsymAdopt | tdmSet | tdmStart | tdmStatus | rtGet | krnSet | krnStatus | rxfCreate | rxfDelete |
    rxfStatus | txfCreate | txfDelete | txfStatus | sdpExport | sdpAnnounce | redStatus | redPaths | stkStatus | stkSet
    | twinSet | twinTakeover | twinHealth | grdSet | grdStatus | grdReprobe | diagSnapClear | diagCounters |
    diagLoopback | diagLog | evtFetch | evtMask | dxStatus | dxRead =>
    dsimp only [exec, execSysInfo, execSysClaim, execSysRelease, execSysReset, execSysImageWrite, execSysRecover,
      execPwrEnter, execPwrStatus, execPwrConfig, execFrmInfo, execFrmRead, execFrmStageWrite, execClkMcsSet,
      execClkOutSet, execClkMcsStatus, execPtpSet, execPtpStatus, execPtpGmQuality, execPtpStep, execPtpAsymAdopt,
      execTdmSet, execTdmStart, execTdmStatus, execRtGet, execKrnSet, execKrnStatus, execRxfCreate, execRxfDelete,
      execRxfStatus, execTxfCreate, execTxfDelete, execTxfStatus, execSdpExport, execSdpAnnounce, execRedStatus,
      execRedPaths, execStkStatus, execStkSet, execTwinSet, execTwinTakeover, execTwinHealth, execGrdSet,
      execGrdStatus, execGrdReprobe, execDiagSnapClear, execDiagCounters, execDiagLoopback, execDiagLog, execEvtFetch,
      execEvtMask, execDxStatus, execDxRead]
    exact completes_runCmd ..
  | sysImageBegin | sysImageEnd | sysCommit | frmStageLoad | frmStore | frmSetBoot | tdmStop | sdpImport | diagMarch =>
    dsimp only [exec, execSysImageBegin, execSysImageEnd, execSysCommit, execFrmStageLoad, execFrmStore,
      execFrmSetBoot, execTdmStop, execSdpImport, execDiagMarch]
    exact completes_runAccepted ..
  | announceTimeout => exact (completes_announceTimeout ..).followed s
  | announceRx => exact (completes_announceRx ..).followed s
  | asymBothTimeout => exact (completes_asymBothTimeout ..).followed s
  | faultyRecover => exact (completes_faultyRecover ..).followed s
  | freezeHoldExpiry => exact (completes_freezeHoldExpiry ..).followed s
  | ppsInEdge => exact (completes_ppsInEdge ..).followed s
  | ptpMessageRx => exact (completes_ptpMessageRx ..).followed s
  | servoUpdate => exact (completes_servoUpdate ..).followed s
  | timeHandback => exact (completes_timeHandback ..).followed s
  | pllLossOfLock => exact (completes_pllLossOfLock ..).followed s
  | frmApply => exact completes_execFrmApply ..
  | rtSet => exact completes_execRtSet ..
  | rxfOffset => exact completes_execRxfOffset ..
  | aonResetRelease | pwrCoreEnRise | railTimeout | railRetry | wakeRailTimeout | sysResetExecute | strapSample |
    strapCompare | refPllLock | sysPllLock | bootImageVerified | bootFormeApplied | xtalQualified | xtalFailTimeout |
    toDozeComplete | pointOfNoReturn | domainPowerOff | domainPowerUp | wakeLatchEdge | minOffTimeExpiry | wakePowerUp
    | wakingReady | sleepSaveDone | dozeFrameRx | pmeL2Handshake | slowCounterAlarm | trimWindowEnd | avsStep |
    wclkInLoss | suspectClear | delayMeasurement | ptpSyncTx | ppsOutPulse | ptmDialogue | platenFire |
    platenStrobeArrival | shadowApplyAtBoundary | indirTransferDone | indirStallTimeout | indirTransferLost |
    wideSnapshotReady | guardTimeout | cfgCrcPassEnd | cfgCrcStale | msixMessageSend | requestTake | responseWrite |
    cmdFetch | completionWrite | eventWrite | ringDmaError | wdogExpiry | fwRestartDone | loadChunkTaken |
    loadVerifyDone | sapAnnouncementTx | carriedSlugPlace | itemCommit | flushEnd | flushForcedAbort | linkParityError
    | scrubCell | freeListBuilt | galDiagAccess | impositionTakeEffect | placementWindowEnd | kerningSlewEnd |
    krnTrackDone | redPathLoss | packetClose | portFrameStart | txFlowStart | funnelLaunch | hostBlockStart |
    hrBlockCommit | hrSlotWrite | cplTimeout | pcieLinkStateChange | ctlSpiFrame | ctlI2cFrame | stkLinkTrained |
    stkLinkDown | synzoFrameRx | stkTimeFrameTx | stkTimeRegain | stkIdentifyTimeout | stkGenPull | soItemSend |
    twinHeartbeatTx | twinHeartbeatMiss | twinCmdHandover | twinHandoverCycle | twinTakePulseSeen | twinTakingEnd |
    twinPairingTimeout | twinCheckpointDynamicTx | twinCheckpointCommit | twinHealthPeriodEnd | tdmStartInstant |
    tdmClockLost | tdmLeadOutEnd | grdReadbackFault | grdPinTrip | grdReprobeTimer | grdOpenTest | grdClockSwapDetect |
    grdLossOfSignal | grdTioShort | grdTioOpen | grdInputContention | grdPpsLoss | dxSpiFrame | dxSoftReset | dxRefresh
    | dxDiscoveryQuery | dxSapAnnounce | acceptedCommandEnd | commandBoundTimeout =>
    dsimp only [exec, execAonResetRelease, execPwrCoreEnRise, execRailTimeout, execRailRetry, execWakeRailTimeout,
      execSysResetExecute, execStrapSample, execStrapCompare, execRefPllLock, execSysPllLock, execBootImageVerified,
      execBootFormeApplied, execXtalQualified, execXtalFailTimeout, execToDozeComplete, execPointOfNoReturn,
      execDomainPowerOff, execDomainPowerUp, execWakeLatchEdge, execMinOffTimeExpiry, execWakePowerUp, execWakingReady,
      execSleepSaveDone, execDozeFrameRx, execPmeL2Handshake, execSlowCounterAlarm, execTrimWindowEnd, execAvsStep,
      execWclkInLoss, execSuspectClear, execDelayMeasurement, execPtpSyncTx, execPpsOutPulse, execPtmDialogue,
      execPlatenFire, execPlatenStrobeArrival, execShadowApplyAtBoundary, execIndirTransferDone, execIndirStallTimeout,
      execIndirTransferLost, execWideSnapshotReady, execGuardTimeout, execCfgCrcPassEnd, execCfgCrcStale,
      execMsixMessageSend, execRequestTake, execResponseWrite, execCmdFetch, execCompletionWrite, execEventWrite,
      execRingDmaError, execWdogExpiry, execFwRestartDone, execLoadChunkTaken, execLoadVerifyDone,
      execSapAnnouncementTx, execCarriedSlugPlace, execItemCommit, execFlushEnd, execFlushForcedAbort,
      execLinkParityError, execScrubCell, execFreeListBuilt, execGalDiagAccess, execImpositionTakeEffect,
      execPlacementWindowEnd, execKerningSlewEnd, execKrnTrackDone, execRedPathLoss, execPacketClose,
      execPortFrameStart, execTxFlowStart, execFunnelLaunch, execHostBlockStart, execHrBlockCommit, execHrSlotWrite,
      execCplTimeout, execPcieLinkStateChange, execCtlSpiFrame, execCtlI2cFrame, execStkLinkTrained, execStkLinkDown,
      execSynzoFrameRx, execStkTimeFrameTx, execStkTimeRegain, execStkIdentifyTimeout, execStkGenPull, execSoItemSend,
      execTwinHeartbeatTx, execTwinHeartbeatMiss, execTwinCmdHandover, execTwinHandoverCycle, execTwinTakePulseSeen,
      execTwinTakingEnd, execTwinPairingTimeout, execTwinCheckpointDynamicTx, execTwinCheckpointCommit,
      execTwinHealthPeriodEnd, execTdmStartInstant, execTdmClockLost, execTdmLeadOutEnd, execGrdReadbackFault,
      execGrdPinTrip, execGrdReprobeTimer, execGrdOpenTest, execGrdClockSwapDetect, execGrdLossOfSignal,
      execGrdTioShort, execGrdTioOpen, execGrdInputContention, execGrdPpsLoss, execDxSpiFrame, execDxSoftReset,
      execDxRefresh, execDxDiscoveryQuery, execDxSapAnnounce, execAcceptedCommandEnd, execCommandBoundTimeout]
    repeat' (first | with_reducible exact .next _ | with_reducible apply Completes.ite
                   | with_reducible exact .followed (.next _) s | split)

/-! ### The forbidden pulse of RESET_N (R49) -/

theorem execResetNPulse_of_lt {ns : Nat} (h : ns < 250) (s : State) : exec (.resetNPulse ns) s = .next s :=
  if_pos (.inl h)

theorem execResetNPulse_forbidden {s : State} {ns : Nat} (h : 250 ≤ ns) (h' : ns < 1000) (hs : s.domOn 0 = true) :
    exec (.resetNPulse ns) s = .fault .resetPulseForbidden := by
  have hfilter : ¬(ns < 250 ∨ (!s.domOn 0) = true) := by simp [hs, h]
  exact (if_neg hfilter).trans (if_pos h')

/-- A pulse answers a next state unless it is a forbidden one while the supply is good. -/
theorem completes_execResetNPulse {s : State} {ns : Nat} (h : ¬(250 ≤ ns ∧ ns < 1000 ∧ s.domOn 0 = true)) :
    Completes (exec (.resetNPulse ns) s) := by
  change Completes (execResetNPulse ns s)
  unfold execResetNPulse
  by_cases hfilter : ns < 250 ∨ (!s.domOn 0) = true
  · rw [if_pos hfilter]
    exact .next _
  · rw [if_neg hfilter, if_neg (by grind)]
    exact .ite (.next _) (.ite (.next _) (.ite (.next _) (.ite (.next _) (.next _))))

/-- A step on a waiting command. -/
theorem step_of_pending {s : State} {c : Instr} {rest : List Instr} (h : s.pending = c :: rest) :
    step s = exec c { s with pending := rest } := stepRunsFrontOrIdles.1 c rest s h

theorem completes_step (s : State) : Completes (step s) ∨
    ∃ ns rest, s.pending = .resetNPulse ns :: rest ∧ 250 ≤ ns ∧ ns < 1000 ∧ s.domOn 0 = true ∧
      step s = .fault .resetPulseForbidden := by
  cases hp : s.pending with
  | nil => exact .inl (by rw [stepRunsFrontOrIdles.2 s hp]; exact .next _)
  | cons c rest =>
    rw [step_of_pending hp]
    by_cases hc : ∃ ns, c = .resetNPulse ns ∧ 250 ≤ ns ∧ ns < 1000 ∧ s.domOn 0 = true
    · obtain ⟨ns, rfl, h, h', hs⟩ := hc
      exact .inr ⟨ns, rest, rfl, h, h', hs, execResetNPulse_forbidden h h' hs⟩
    · refine .inl ?_
      by_cases hr : ∃ ns, c = .resetNPulse ns
      · obtain ⟨ns, rfl⟩ := hr
        exact completes_execResetNPulse fun h => hc ⟨ns, rfl, h⟩
      · exact completes_exec _ c fun ns e => hr ⟨ns, e⟩

/-- Settles O58: every command but the reset pulse answers a next state, and that one unless it is forbidden. -/
theorem stepEndsOrMeetsForbiddenPulse : Obligations.StepEndsOrMeetsForbiddenPulse := by
  unfold Obligations.StepEndsOrMeetsForbiddenPulse
  exact ⟨completes_step, fun s ns => ⟨execResetNPulse_forbidden, fun h => execResetNPulse_of_lt h s⟩⟩

end Sys2Proof.Machine
end

section
/-! What the operations that many meanings share leave of the registers: the named fields they write, as `Touches`, and what
a change of another part of the state reads as. -/

namespace Sys2Proof.Machine

/-! ### Touched fields -/

theorem getLsbD_fldMask_mono {l l' : List Fld} (hl : ∀ f ∈ l, f ∈ l') {k i : Nat} (h : (fldMask l k).getLsbD i = true) :
    (fldMask l' k).getLsbD i = true := by
  induction l with
  | nil => simp [fldMask] at h
  | cons f l ih =>
    have ih := ih fun g hg => hl g (List.mem_cons_of_mem _ hg)
    by_cases hk : f.key = k
    · subst hk
      rw [fldMask, if_pos rfl, BitVec.getLsbD_or, Bool.or_eq_true] at h
      rcases h with h | h
      · exact fldMask_mem (hl f List.mem_cons_self) i h
      · exact ih h
    · rw [fldMask, if_neg hk] at h
      exact ih h

/-- What touches no field beyond a list touches none beyond a longer one. -/
theorem Touches.mono {l l' : List Fld} {s t : State} (h : Touches l s t) (hl : ∀ f ∈ l, f ∈ l') : Touches l' s t := by
  intro k
  apply BitVec.eq_of_getLsbD_eq
  intro i hi
  have hb := congrArg (fun w : Word => w.getLsbD i) (h k)
  simp only [BitVec.getLsbD_and, BitVec.getLsbD_not, hi, decide_true, Bool.true_and] at hb ⊢
  cases hm : (fldMask l' k).getLsbD i with
  | true => simp
  | false =>
    have hf : (fldMask l k).getLsbD i = false := by
      by_contra hne
      rw [getLsbD_fldMask_mono hl (by simpa using hne)] at hm
      cases hm
    simpa [hf] using hb

theorem Touches.of_rf {s t : State} (l : List Fld) (h : t.rf = s.rf) : Touches l s t := touches_rf h (.refl l s)

theorem touches_count {l : List Fld} {s t : State} {f : Fld} (hf : f ∈ l) (h : Touches l s t) : Touches l s (t.count f) := by
  obtain ⟨v, e⟩ := State.count_eq t f
  rw [e]
  exact touches_setFld hf h

theorem touches_setFlag {l : List Fld} {s t : State} {f : Fld} {b : Bool} (hf : f ∈ l) (h : Touches l s t) :
    Touches l s (t.setFlag f b) := touches_setFld hf h

/-- A fold of steps that each touch the named fields only. -/
theorem touches_foldl {α : Type} {l : List Fld} {s : State} {g : State → α → State} {as : List α}
    (hg : ∀ t, ∀ a ∈ as, Touches l t (g t a)) {t : State} (h : Touches l s t) : Touches l s (as.foldl g t) := by
  induction as generalizing t with
  | nil => exact h
  | cons a as ih =>
    exact ih (fun u b hb => hg u b (List.mem_cons_of_mem _ hb)) (h.trans (hg t a List.mem_cons_self))

/-! ### Fields under a change of other parts -/

namespace State

@[simp] theorem fld_setPwr (s : State) (g : Power → Power) (f : Fld) : (s.setPwr g).fld f = s.fld f := rfl
@[simp] theorem fld_setPins (s : State) (g : Pins → Pins) (f : Fld) : (s.setPins g).fld f = s.fld f := rfl
@[simp] theorem fld_emit (s : State) (o : Out) (f : Fld) : (s.emit o).fld f = s.fld f := rfl
@[simp] theorem fld_setDx (s : State) (a v : Nat) (f : Fld) : (s.setDx a v).fld f = s.fld f := rfl
@[simp] theorem fld_setMcs (s : State) (n : Nat) (m : Mcs) (f : Fld) : (s.setMcs n m).fld f = s.fld f := rfl
@[simp] theorem fld_setDom (s : State) (d : Nat) (b : Bool) (f : Fld) : (s.setDom d b).fld f = s.fld f := rfl

theorem flag_of_fld {s : State} {f : Fld} {v : Nat} (h : s.fld f = v) : s.flag f = (v != 0) := by rw [flag, h]

theorem fld_lt (s : State) (f : Fld) : s.fld f < 2 ^ f.w := Nat.mod_lt _ (Nat.two_pow_pos _)

/-- A field keeps its value when another register's field is written. -/
theorem fld_setFld_ne (s : State) {f g : Fld} (v : Nat) (h : f.key ≠ g.key) : (s.setFld g v).fld f = s.fld f :=
  fld_setFld_apart _ _ (by simp [Fld.apart, h])

/-- A field that holds its value reads it back. -/
theorem fld_setFld_lt (s : State) (f : Fld) {v : Nat} (h : f.lo + f.w ≤ 32) (hv : v < 2 ^ f.w) : (s.setFld f v).fld f = v := by
  rw [fld_setFld_self _ _ _ h, Nat.mod_eq_of_lt hv]

/-- A field keeps its value when one below or above it in a register is written; of literal positions the hypothesis is `rfl`. -/
theorem fld_setFld_below (s : State) {f g : Fld} (v : Nat) (h : Nat.ble (g.lo + g.w) f.lo = true) :
    (s.setFld g v).fld f = s.fld f := fld_setFld_apart _ _ (by simp [Fld.apart, Nat.le_of_ble_eq_true h])

theorem fld_setFld_above (s : State) {f g : Fld} (v : Nat) (h : Nat.ble (f.lo + f.w) g.lo = true) :
    (s.setFld g v).fld f = s.fld f := fld_setFld_apart _ _ (by simp [Fld.apart, Nat.le_of_ble_eq_true h])

/-- A field of literal place and width reads back what was written to it. -/
theorem fld_setFld_mod (s : State) (f : Fld) (v : Nat) (h : Nat.ble (f.lo + f.w) 32 = true) :
    (s.setFld f v).fld f = v % 2 ^ f.w := fld_setFld_self _ _ _ (Nat.le_of_ble_eq_true h)

theorem goPower_eq (s : State) (st : Nat) : s.goPower st =
    (s.setFld R.PWR.STATE.PREV s.pstate).setFld R.PWR.STATE.STATE_F st := rfl

/-- The power controller's new state and the one before (R62). -/
theorem pstate_goPower (s : State) {st : Nat} (h : st < 16) : (s.goPower st).pstate = st :=
  fld_setFld_lt (s.setFld R.PWR.STATE.PREV s.pstate) R.PWR.STATE.STATE_F (by decide) h

theorem prev_goPower (s : State) (st : Nat) : (s.goPower st).fld R.PWR.STATE.PREV = s.pstate := by
  rw [goPower_eq, fld_setFld_apart _ _ (by decide)]
  exact fld_setFld_lt s R.PWR.STATE.PREV (by decide) (fld_lt s R.PWR.STATE.STATE_F)

theorem touches_goPower (s : State) (st : Nat) : Touches [R.PWR.STATE.PREV, R.PWR.STATE.STATE_F] s (s.goPower st) :=
  touches_setFlds (by simp) (.refl _ s)

theorem setFlds_frame (s : State) (l : List (Fld × Nat)) : s.setFlds l = { s with rf := (s.setFlds l).rf } := by
  induction l generalizing s with
  | nil => rfl
  | cons p l ih => rw [setFlds_cons, ih]; rfl

theorem raise_frame (s : State) (l : List Fld) : s.raise l = { s with rf := (s.raise l).rf } := by
  induction l generalizing s with
  | nil => rfl
  | cons p l ih => rw [raise_cons, ih]; rfl

theorem count_frame (s : State) (f : Fld) : s.count f = { s with rf := (s.count f).rf } := by
  obtain ⟨v, e⟩ := s.count_eq f
  rw [e]; rfl

/-- A counter stops at its all-ones value (R156). -/
theorem fld_count (s : State) (f : Fld) (h : f.lo + f.w ≤ 32) : (s.count f).fld f = min (2 ^ f.w - 1) (s.fld f + 1) := by
  have hpos := Nat.two_pow_pos f.w
  unfold count
  split
  · next hlt => rw [fld_setFld_lt _ _ h hlt]; omega
  · next hge => rw [fld_setFld_lt _ _ h (by omega)]; omega

end State

/-! ### Events (R194, R198, R227) -/

/-- The fields that queueing an event may write. -/
def evtFlds : List Fld := [R.MBX.STAT.EVT_PENDING, R.MBX.RING_STAT.EVT_LOST]

theorem setEvtq_frame (s : State) (c : Nat) (q : EvtQueue) :
    s.setEvtq c q = { s with rf := (s.setEvtq c q).rf, mbx := (s.setEvtq c q).mbx } := rfl

theorem touches_setEvtq (s : State) (c : Nat) (q : EvtQueue) : Touches evtFlds s (s.setEvtq c q) :=
  touches_setFlag (by simp [evtFlds]) (.of_rf _ rfl)

/-- From `s` to `t` only the event queues and their two fields change. -/
structure EvtStep (s t : State) : Prop where
  frame   : t = { s with rf := t.rf, mbx := { s.mbx with evts := t.mbx.evts } }
  touches : Touches evtFlds s t

namespace EvtStep

theorem refl (s : State) : EvtStep s s := ⟨rfl, .refl _ s⟩

theorem trans {s t u : State} (h : EvtStep s t) (k : EvtStep t u) : EvtStep s u := by
  refine ⟨?_, h.touches.trans k.touches⟩
  have e := k.frame
  rw [h.frame] at e
  exact e

theorem setEvtq (s : State) (c : Nat) (q : EvtQueue) : EvtStep s (s.setEvtq c q) := ⟨rfl, touches_setEvtq s c q⟩

theorem count (s : State) : EvtStep s (s.count R.MBX.RING_STAT.EVT_LOST) :=
  ⟨by rw [State.count_frame], touches_count (by simp [evtFlds]) (.refl _ s)⟩

theorem queueEvent (s : State) (c : Nat) (m : Msg) : EvtStep s (queueEvent s c m) := by
  unfold Machine.queueEvent
  dsimp only
  split
  · exact .refl s
  · split
    · split
      · exact .setEvtq s _ _
      · exact .refl s
    · split
      · exact (EvtStep.count s).trans (.setEvtq _ _ _)
      · exact .setEvtq s _ _

theorem queueFirst (s : State) (c : Nat) (m : Msg) : EvtStep s (queueFirst s c m) := by
  unfold Machine.queueFirst
  dsimp only
  split
  · exact .queueEvent s c m
  · exact .setEvtq s _ _

theorem event (s : State) (code : Nat) (data : List Byte) : EvtStep s (s.event code data) :=
  ((EvtStep.queueEvent s _ _).trans (.queueEvent _ _ _)).trans (.queueEvent _ _ _)

end EvtStep

end Sys2Proof.Machine
end

section
/-! Supplies, reset, straps and the crystal (R40 to R55, R77). -/

namespace Sys2Proof.Machine

/-! ### The supplies (R43 to R45) -/

theorem getD_aonOnly (k : Nat) : aonOnly.getD k false = decide (k = 0) := by
  rcases Nat.lt_or_ge k 12 with h | h
  · revert k; decide
  · rw [List.getD_eq_default _ _ (by simpa [aonOnly] using h), decide_eq_false (by omega)]

theorem getD_startDomains (k : Nat) : startDomains.getD k false = decide (k ∈ [0, 1, 2, 8, 11]) := by
  rcases Nat.lt_or_ge k 12 with h | h
  · revert k; decide
  · rw [List.getD_eq_default _ _ (by simpa [startDomains] using h), decide_eq_false (by simp; omega)]

section
variable {s : State}

theorem exec_aonResetRelease (a b c d e : Nat) (h : s.domOn 0 = false) : exec (.aonResetRelease a b c d e) s =
    .next ((s.setPins fun p => { p with banks := [a, b, c, d, e], vid := some 20 }).setPwr fun p =>
      { p with dom := aonOnly, rcTimer := true, attempts := 0 }) := if_neg (by simp [h])

theorem exec_pwrCoreEnRise (h : s.pwr.rcTimer = true) : exec .pwrCoreEnRise s = .next (coreUp s) := if_pos h

theorem exec_railRetry (h : s.pwr.retryWait = true) : exec .railRetry s = .next (coreUp s) := if_pos h

theorem exec_railTimeout (h : s.pwr.starting = true) (h' : s.pins.pwrCoreEn = true) : exec .railTimeout s =
    .next ((s.setPins fun p => { p with pwrCoreEn := false }).setPwr fun p =>
      { p with starting := false, attempts := s.pwr.attempts + 1, retryWait := decide (s.pwr.attempts + 1 < 3)
               railCopy := true, dom := aonOnly }) := if_pos (by simp [h, h'])

end

/-- Settles O1: each step of a start is one update of the pins and the power controller. -/
theorem supplyStartSteps : Obligations.SupplyStartSteps := by
  unfold Obligations.SupplyStartSteps
  intro s
  refine ⟨fun a b c d e h => ?_, fun c h => ?_, fun h h' => ?_⟩
  · exact ⟨_, exec_aonResetRelease a b c d e h, rfl, rfl, rfl, getD_aonOnly⟩
  · have hup : exec c s = .next (coreUp s) := by
      rcases h with ⟨rfl, h⟩ | ⟨rfl, h⟩
      · exact exec_pwrCoreEnRise h
      · exact exec_railRetry h
    exact ⟨_, hup, rfl, rfl, rfl, rfl, rfl, getD_startDomains⟩
  · refine ⟨_, exec_railTimeout h h', rfl, rfl, rfl, ?_, rfl, getD_aonOnly⟩
    simp only [State.setPwr, decide_eq_true_eq]
    omega

/-! ### Reset (R46, R49, R50) -/

theorem exec_resetNPulse_up {s : State} {ns : Nat} (hns : 1000 ≤ ns) (hs : s.domOn 0 = true) (hp : s.pins.pwrCoreEn = true) :
    exec (.resetNPulse ns) s = .next (resetDevice s) := by
  have hfilter : ¬(ns < 250 ∨ (!s.domOn 0) = true) := by simp [hs]; omega
  exact (if_neg hfilter).trans ((if_neg (by omega)).trans (if_pos hp))

/-- What a reset of the whole device makes of the state before the crystal shows in XTAL_OK. -/
def resetKept (s : State) : State :=
  { State.reset with
    pending := s.pending, flash := s.flash, freeCtr := s.freeCtr, ticks := s.ticks, out := s.out
    pins := { State.reset.pins with straps := s.pins.straps, banks := s.pins.banks, perst := s.pins.perst }
    pwr := { State.reset.pwr with railCopy := s.pwr.railCopy, xtalTicks := s.pwr.xtalTicks
                                  slowTicks := s.pwr.slowTicks, slowTime := s.pwr.slowTime } }

theorem resetDevice_eq (s : State) :
    resetDevice s = if s.pwr.xtalTicks then (resetKept s).setFld R.PWR.STATE.XTAL_OK 1 else resetKept s := rfl

theorem fld_resetKept (s : State) (f : Fld) : (resetKept s).fld f = f.of (regDefault f.key) := rfl

/-- Every register reads its reset word, but for XTAL_OK, which shows the crystal PD_AON has qualified (R50, R77). -/
theorem wasReset_resetDevice (s : State) : WasReset s (resetDevice s) := by
  have hstate : (resetKept s).pstate = 0 := (fld_resetKept s _).trans (by decide)
  have hxtal : (resetKept s).fld R.PWR.STATE.XTAL_OK = 0 := (fld_resetKept s _).trans (by decide)
  rw [resetDevice_eq]
  cases hx : s.pwr.xtalTicks with
  | true =>
    rw [if_pos rfl]
    refine ⟨rfl, rfl, rfl, rfl, fun k hk => State.rd_setFld_ne _ _ hk, fun k => rfl, ?_, ?_, rfl, rfl, rfl, rfl⟩
    · exact (State.fld_setFld_above _ _ rfl).trans hstate
    · rw [State.fld_setFld_mod _ _ _ rfl, hx]
      rfl
  | false =>
    rw [if_neg (by decide)]
    exact ⟨rfl, rfl, rfl, rfl, fun k hk => rfl, fun k => rfl, hstate, by rw [hxtal, hx]; rfl, rfl, rfl, rfl, rfl⟩

/-- Settles O2: RESET_N and SYS.RESET answer `resetDevice`, and the loss of supply leaves the reset state with the flash. -/
theorem wholeDeviceReset : Obligations.WholeDeviceReset := by
  unfold Obligations.WholeDeviceReset
  intro s
  refine ⟨fun ns hns hs hp => ⟨_, exec_resetNPulse_up hns hs hp, wasReset_resetDevice s⟩,
    fun h => ⟨_, if_pos h, wasReset_resetDevice s⟩, ?_⟩
  refine ⟨_, rfl, rfl, rfl, rfl, fun k => ⟨rfl, rfl⟩, rfl, rfl, fun d => ?_⟩
  have hoff : (List.replicate 12 false).getD d false = false := by
    rcases Nat.lt_or_ge d 12 with h | h
    · revert d; decide
    · exact List.getD_eq_default _ _ (by simpa using h)
  simp only [State.domOn, hoff, Bool.false_and]

end Sys2Proof.Machine
end

section
/-! The straps, the crystal and the PLLs (R52 to R55, R77, R83, R84). -/

namespace Sys2Proof.Machine

/-! ### The fields that straps and the identity record fix -/

theorem fixedFields_eq (s : State) : fixedFields s =
    (((((((((((s.setFld R.HST.CTL_CFG.DX_FRAMING (b2n s.dxPresent)).setFld R.HST.CTL_CFG.I2C (s.fld R.SYS.STRAPS.CTL_SEL)).setFld
      R.STK.ID.POSITION (s.fld R.SYS.STRAPS.STACK_POS)).setFld R.GAL.SCRUB_STAT.RETIRED s.gal.retired.length).setFld
      R.GAL.SCRUB_STAT.RETIRE_FULL (b2n (decide (1024 ≤ s.gal.retired.length)))).setFld
      (R.NET.MAC_LO.ADDR 0) (s.flash.macs.getD 0 0 % 2 ^ 32)).setFld (R.NET.MAC_HI.ADDR 0) (s.flash.macs.getD 0 0 / 2 ^ 32 % 65536)).setFld
      (R.NET.MAC_LO.ADDR 1) (s.flash.macs.getD 1 0 % 2 ^ 32)).setFld (R.NET.MAC_HI.ADDR 1) (s.flash.macs.getD 1 0 / 2 ^ 32 % 65536)).setFld
      (R.NET.MAC_LO.ADDR 2) (s.flash.macs.getD 2 0 % 2 ^ 32)).setFld (R.NET.MAC_HI.ADDR 2) (s.flash.macs.getD 2 0 / 2 ^ 32 % 65536)) :=
  rfl

theorem fixedFields_frame (s : State) : fixedFields s = { s with rf := (fixedFields s).rf } := by
  rw [fixedFields_eq]; rfl

theorem rd_fixedFields {s : State} {k : Nat} (h : k ∉ fixedKeys) : (fixedFields s).rd k = s.rd k := by
  simp only [fixedKeys, List.mem_cons, List.not_mem_nil, or_false, not_or] at h
  obtain ⟨hctl, hid, hlo0, hlo1, hlo2, hhi0, hhi1, hhi2, hscrub⟩ := h
  rw [fixedFields_eq]
  iterate 11 rw [State.rd_setFld_ne _ _ (by assumption)]

theorem fld_fixedFields {s : State} {f : Fld} (h : f.key ∉ fixedKeys) : (fixedFields s).fld f = s.fld f :=
  congrArg f.of (rd_fixedFields h)

theorem i2c_fixedFields (s : State) : (fixedFields s).fld R.HST.CTL_CFG.I2C = s.fld R.SYS.STRAPS.CTL_SEL := by
  rw [fixedFields_eq]
  iterate 9 rw [State.fld_setFld_apart _ _ (by decide)]
  exact State.fld_setFld_lt _ R.HST.CTL_CFG.I2C (by decide) (State.fld_lt s R.SYS.STRAPS.CTL_SEL)

theorem position_fixedFields (s : State) : (fixedFields s).fld R.STK.ID.POSITION = s.fld R.SYS.STRAPS.STACK_POS := by
  rw [fixedFields_eq]
  iterate 8 rw [State.fld_setFld_apart _ _ (by decide)]
  exact State.fld_setFld_lt _ R.STK.ID.POSITION (by decide) (State.fld_lt s R.SYS.STRAPS.STACK_POS)

theorem macLo_fixedFields (s : State) : (fixedFields s).fld (R.NET.MAC_LO.ADDR 0) = s.flash.macs.getD 0 0 % 2 ^ 32 := by
  rw [fixedFields_eq]
  iterate 5 rw [State.fld_setFld_apart _ _ (by decide)]
  rw [State.fld_setFld_mod _ _ _ rfl]
  exact Nat.mod_mod _ _

/-! ### The sampled straps (R52 to R54) -/

/-- The word of SYS.STRAPS after a sample: the levels as sampled and as they are now, and COMBO_BAD. -/
def strapWord (v : Nat) : Word := BitVec.ofNat 32 (v + v * 65536 + b2n (comboBad v) * 1024)

theorem toNat_strapWord {v : Nat} (h : v < 1024) : (strapWord v).toNat = 2 ^ 10 * (64 * v + b2n (comboBad v)) + v := by
  have hb : b2n (comboBad v) ≤ 1 := by unfold b2n; split <;> omega
  rw [strapWord, BitVec.toNat_ofNat, Nat.mod_eq_of_lt (by omega)]
  omega

/-- The sampled fields of the word are those bits of the levels. -/
theorem of_strapWord {v : Nat} (h : v < 1024) (f : Fld) (hf : f.lo + f.w ≤ 10) : f.of (strapWord v) = bits v f.lo f.w := by
  apply Nat.eq_of_testBit_eq
  intro i
  rw [Fld.of, bits, toNat_strapWord h, Nat.testBit_mod_two_pow, Nat.testBit_mod_two_pow, Nat.testBit_shiftRight,
    Nat.testBit_shiftRight, Nat.testBit_two_pow_mul_add _ h]
  by_cases hi : i < f.w
  · rw [if_pos (by omega)]
  · simp [hi]

theorem live_strapWord {v : Nat} (h : v < 1024) : R.SYS.STRAPS.LIVE.of (strapWord v) = v := by
  have hb : b2n (comboBad v) ≤ 1 := by unfold b2n; split <;> omega
  change ((strapWord v).toNat >>> 16) % 2 ^ 10 = v
  rw [toNat_strapWord h, Nat.shiftRight_eq_div_pow, show (2 ^ 10 * (64 * v + b2n (comboBad v)) + v) / 2 ^ 16 = v by omega]
  exact Nat.mod_eq_of_lt h

/-- The levels latched, before the fields that follow them are set. -/
def strapsLatched (s : State) (v : Nat) : State :=
  (((s.setPins fun p => { p with straps := v }).setPwr fun p => { p with starting := false, attempts := 0 }).wr
    R.SYS.STRAPS.reg (strapWord v)).setFlag R.PWR.FAULT.RAIL_TIMEOUT s.pwr.railCopy

/-- The working forme takes the personality the straps name. -/
def withWorkPers (t : State) : State := { t with fw := { t.fw with work := { t.fw.work with pers := t.pers } } }

/-- The device with its straps sampled, before the phase they lead to. -/
def strapsTaken (s : State) (v : Nat) : State := withWorkPers (fixedFields (strapsLatched s v))

theorem rd_withWorkPers (t : State) (k : Nat) : (withWorkPers t).rd k = t.rd k := rfl

theorem fld_withWorkPers (t : State) (f : Fld) : (withWorkPers t).fld f = t.fld f := rfl

theorem withWorkPers_frame (t : State) :
    (withWorkPers t).pwr = t.pwr ∧ (withWorkPers t).fw.work.pers = (withWorkPers t).pers := ⟨rfl, rfl⟩

section
variable {s : State} {v : Nat}

theorem exec_strapSample (hv : v < 1024) (h : s.pwr.starting = true) (h' : s.pins.pwrCoreEn = true) :
    exec (.strapSample v) s = .next (if bits v 5 2 = 3 then (strapsTaken s v).enterRecovery 1
      else if comboBad v then (strapsTaken s v).enterRecovery 2 else strapsTaken s v) := by
  have hgo : ¬((!s.pwr.starting) = true ∨ (!s.pins.pwrCoreEn) = true) := by simp [h, h']
  rw [show exec (.strapSample v) s = execStrapSample v s from rfl, execStrapSample, if_neg hgo, Nat.mod_eq_of_lt hv]
  rfl

theorem rd_strapsTaken (k : Nat) : (strapsTaken s v).rd k = (fixedFields (strapsLatched s v)).rd k := rd_withWorkPers _ k

theorem fld_strapsTaken (f : Fld) : (strapsTaken s v).fld f = (fixedFields (strapsLatched s v)).fld f := fld_withWorkPers _ f

theorem rd_straps_strapsLatched : (strapsLatched s v).rd R.SYS.STRAPS.reg = strapWord v := by
  rw [strapsLatched, State.rd_setFlag_ne _ _ (by decide), State.rd_wr_self]

theorem fld_straps_strapsLatched (f : Fld) (hf : f.key = R.SYS.STRAPS.reg) :
    (strapsLatched s v).fld f = f.of (strapWord v) := by
  rw [State.fld, hf, rd_straps_strapsLatched]

theorem rd_straps_strapsTaken : (strapsTaken s v).rd R.SYS.STRAPS.reg = strapWord v := by
  rw [rd_strapsTaken, rd_fixedFields (by decide), rd_straps_strapsLatched]

theorem fld_straps_strapsTaken (f : Fld) (hf : f.key = R.SYS.STRAPS.reg) : (strapsTaken s v).fld f = f.of (strapWord v) := by
  rw [State.fld, hf, rd_straps_strapsTaken]

theorem i2c_strapsTaken (hv : v < 1024) : (strapsTaken s v).fld R.HST.CTL_CFG.I2C = bits v 7 1 := by
  rw [fld_strapsTaken, i2c_fixedFields, fld_straps_strapsLatched _ rfl, of_strapWord hv _ (by decide)]
  rfl

theorem position_strapsTaken (hv : v < 1024) : (strapsTaken s v).fld R.STK.ID.POSITION = bits v 2 3 := by
  rw [fld_strapsTaken, position_fixedFields, fld_straps_strapsLatched _ rfl, of_strapWord hv _ (by decide)]
  rfl

theorem phase_strapsTaken : (strapsTaken s v).phase = s.phase := by
  rw [State.phase, fld_strapsTaken, fld_fixedFields (by decide), strapsLatched, State.fld_setFlag_apart _ _ (by decide),
    State.fld_wr_ne _ _ (by decide)]
  rfl

theorem pers_strapsTaken (hv : v < 1024) : (strapsTaken s v).pers = bits v 5 2 := by
  rw [State.pers, fld_straps_strapsTaken _ rfl, of_strapWord hv _ (by decide)]
  rfl

end

section
variable (s : State) {k : Nat}

theorem phase_enterRecovery (hk : k < 16) : (s.enterRecovery k).phase = 3 ∧ (s.enterRecovery k).fld R.SYS.PHASE.REASON = k := by
  rw [State.enterRecovery, State.setFlds_cons, State.setFlds_cons, State.setFlds_nil]
  refine ⟨?_, State.fld_setFld_lt _ R.SYS.PHASE.REASON (by decide) hk⟩
  refine (State.fld_setFld_above _ _ rfl).trans ?_
  exact State.fld_setFld_mod _ _ _ rfl

theorem rd_enterRecovery_ne {j : Nat} (hj : j ≠ R.SYS.PHASE.reg) : (s.enterRecovery k).rd j = s.rd j := by
  rw [State.enterRecovery, State.setFlds_cons, State.setFlds_cons, State.setFlds_nil, State.rd_setFld_ne _ _ hj,
    State.rd_setFld_ne _ _ hj]

theorem enterRecovery_frame : (s.enterRecovery k).pwr = s.pwr ∧ (s.enterRecovery k).fw = s.fw := ⟨rfl, rfl⟩

end

/-- What a sample leaves, in whichever phase: `t` is `strapsTaken` but for the phase register. -/
theorem strapSample_leaves {s t : State} {v : Nat} (hv : v < 1024)
    (ht : ∀ k, k ≠ R.SYS.PHASE.reg → t.rd k = (strapsTaken s v).rd k) (hpwr : t.pwr = (strapsTaken s v).pwr)
    (hfw : t.fw = (strapsTaken s v).fw) :
    bits (t.rd R.SYS.STRAPS.reg).toNat 0 10 = v ∧ t.fld R.SYS.STRAPS.LIVE = v ∧ t.pers = bits v 5 2 ∧
      t.pwr.starting = false ∧ t.pwr.attempts = 0 ∧ t.fw.work.pers = bits v 5 2 ∧
      t.fld R.HST.CTL_CFG.I2C = bits v 7 1 ∧ t.fld R.STK.ID.POSITION = bits v 2 3 := by
  have hfld : ∀ f : Fld, f.key ≠ R.SYS.PHASE.reg → t.fld f = (strapsTaken s v).fld f :=
    fun f hf => congrArg f.of (ht f.key hf)
  have hwork : (strapsTaken s v).fw.work.pers = (strapsTaken s v).pers := (withWorkPers_frame _).2
  have hframe : (strapsTaken s v).pwr = { s.pwr with starting := false, attempts := 0 } := by
    rw [strapsTaken, (withWorkPers_frame _).1, fixedFields_frame]
    rfl
  refine ⟨?_, ?_, ?_, ?_, ?_, ?_, ?_, ?_⟩
  · rw [ht _ (by decide), rd_straps_strapsTaken]
    exact (of_strapWord hv ⟨0, 0, 10⟩ (by decide)).trans (Nat.mod_eq_of_lt hv)
  · rw [hfld _ (by decide), fld_straps_strapsTaken _ rfl, live_strapWord hv]
  · exact (hfld _ (by decide)).trans (pers_strapsTaken hv)
  · rw [hpwr, hframe]
  · rw [hpwr, hframe]
  · rw [hfw, hwork, pers_strapsTaken hv]
  · rw [hfld _ (by decide), i2c_strapsTaken hv]
  · rw [hfld _ (by decide), position_strapsTaken hv]

theorem strapSample_goes {s : State} {v : Nat} (hv : v < 1024) (h : s.pwr.starting = true) (h' : s.pins.pwrCoreEn = true) :
    Goes (.strapSample v) s fun t =>
      bits (t.rd R.SYS.STRAPS.reg).toNat 0 10 = v ∧ t.fld R.SYS.STRAPS.LIVE = v ∧ t.pers = bits v 5 2 ∧
        t.pwr.starting = false ∧ t.pwr.attempts = 0 ∧ t.fw.work.pers = bits v 5 2 ∧
        t.fld R.HST.CTL_CFG.I2C = bits v 7 1 ∧ t.fld R.STK.ID.POSITION = bits v 2 3 ∧
        (bits v 5 2 = 3 → t.phase = 3 ∧ t.fld R.SYS.PHASE.REASON = 1) ∧
        (bits v 5 2 ≠ 3 → comboBad v = true → t.phase = 3 ∧ t.fld R.SYS.PHASE.REASON = 2) ∧
        (bits v 5 2 ≠ 3 → comboBad v = false → t.phase = s.phase) := by
  refine ⟨_, exec_strapSample hv h h', ?_⟩
  by_cases h3 : bits v 5 2 = 3
  · rw [if_pos h3]
    obtain ⟨a, b, c, d, e, f, g, i⟩ := strapSample_leaves hv
      (fun k hk => rd_enterRecovery_ne (strapsTaken s v) (k := 1) hk) (enterRecovery_frame _).1 (enterRecovery_frame _).2
    exact ⟨a, b, c, d, e, f, g, i, fun _ => phase_enterRecovery _ (by decide), fun n => absurd h3 n, fun n => absurd h3 n⟩
  · rw [if_neg h3]
    cases hc : comboBad v with
    | true =>
      rw [if_pos rfl]
      obtain ⟨a, b, c, d, e, f, g, i⟩ := strapSample_leaves hv
        (fun k hk => rd_enterRecovery_ne (strapsTaken s v) (k := 2) hk) (enterRecovery_frame _).1 (enterRecovery_frame _).2
      exact ⟨a, b, c, d, e, f, g, i, fun n => absurd n h3, fun _ _ => phase_enterRecovery _ (by decide), fun _ n => nomatch n⟩
    | false =>
      rw [if_neg (by decide)]
      obtain ⟨a, b, c, d, e, f, g, i⟩ := strapSample_leaves (s := s) hv (fun k _ => rfl) rfl rfl
      exact ⟨a, b, c, d, e, f, g, i, fun n => absurd n h3, fun _ n => absurd n (by decide), fun _ _ => phase_strapsTaken⟩

/-! ### The straps compared (R55) -/

theorem exec_strapCompare {s : State} {v : Nat} (hv : v < 1024) (h : s.pwr.starting = false) (h' : s.domOn 0 = true) :
    exec (.strapCompare v) s = .next
      (if v = bits (((s.setPins fun p => { p with straps := v }).setFld R.SYS.STRAPS.LIVE v).rd R.SYS.STRAPS.reg).toNat 0 10 then
        (s.setPins fun p => { p with straps := v }).setFld R.SYS.STRAPS.LIVE v
      else ((s.setPins fun p => { p with straps := v }).setFld R.SYS.STRAPS.LIVE v).setFld R.SYS.STRAPS.CHANGED 1) := by
  have hgo : ¬(s.pwr.starting = true ∨ (!s.domOn 0) = true) := by simp [h, h']
  rw [show exec (.strapCompare v) s = execStrapCompare v s from rfl, execStrapCompare, if_neg hgo, Nat.mod_eq_of_lt hv]

/-- The sampled levels stay as LIVE is written. -/
theorem sampled_setLive (s : State) (v : Nat) :
    bits ((s.setFld R.SYS.STRAPS.LIVE v).rd R.SYS.STRAPS.reg).toNat 0 10 = bits (s.rd R.SYS.STRAPS.reg).toNat 0 10 :=
  State.fld_setFld_above s (f := ⟨R.SYS.STRAPS.reg, 0, 10⟩) (g := R.SYS.STRAPS.LIVE) v rfl

theorem strapCompare_goes {s : State} {v : Nat} (hv : v < 1024) (h : s.pwr.starting = false) (h' : s.domOn 0 = true) :
    Goes (.strapCompare v) s fun t =>
      t = { s with pins := { s.pins with straps := v }, rf := t.rf } ∧ t.fld R.SYS.STRAPS.LIVE = v ∧
        Touches [R.SYS.STRAPS.LIVE, R.SYS.STRAPS.CHANGED] s t ∧
        (v ≠ bits (s.rd R.SYS.STRAPS.reg).toNat 0 10 → t.fld R.SYS.STRAPS.CHANGED = 1) ∧
        (v = bits (s.rd R.SYS.STRAPS.reg).toNat 0 10 → t.fld R.SYS.STRAPS.CHANGED = s.fld R.SYS.STRAPS.CHANGED) := by
  refine ⟨_, exec_strapCompare hv h h', ?_⟩
  rw [sampled_setLive]
  have hlive : ∀ u : State, (u.setFld R.SYS.STRAPS.LIVE v).fld R.SYS.STRAPS.LIVE = v :=
    fun u => State.fld_setFld_lt u R.SYS.STRAPS.LIVE (by decide) hv
  have htouch : Touches [R.SYS.STRAPS.LIVE, R.SYS.STRAPS.CHANGED] s
      ((s.setPins fun p => { p with straps := v }).setFld R.SYS.STRAPS.LIVE v) :=
    touches_setFld (by simp) (.of_rf _ rfl)
  by_cases he : v = bits (s.rd R.SYS.STRAPS.reg).toNat 0 10
  · rw [if_pos (by exact he)]
    exact ⟨rfl, hlive _, htouch, fun n => absurd he n, fun _ => State.fld_setFld_above _ _ rfl⟩
  · rw [if_neg (by exact he)]
    refine ⟨rfl, ?_, touches_setFld (by simp) htouch, fun _ => State.fld_setFld_mod _ _ _ rfl, fun e => absurd e he⟩
    rw [State.fld_setFld_below _ _ rfl, hlive]

/-- Settles O3. -/
theorem strapsSampledAndCompared : Obligations.StrapsSampledAndCompared := by
  unfold Obligations.StrapsSampledAndCompared
  exact fun s v hv => ⟨strapSample_goes hv, strapCompare_goes hv⟩

end Sys2Proof.Machine
end

section
/-! The media clock synthesizers' shared operations (R86 to R99): what a move of an MCS, a change of its rate and a stop of
its outputs write. -/

namespace Sys2Proof.Machine

/-! ### Outputs -/

theorem setOut_frame (s : State) (i : Nat) (o : Option Nat) : setOut s i o = { s with pins := (setOut s i o).pins } := rfl

theorem stopOuts_frame (s : State) (n : Nat) : stopOuts s n = { s with pins := (stopOuts s n).pins } := by
  unfold stopOuts
  generalize [0, 1, 2, 3, 4] = l
  induction l generalizing s with
  | nil => rfl
  | cons i l ih =>
    rw [List.foldl_cons, ih]
    split <;> rfl

@[simp] theorem rf_stopOuts (s : State) (n : Nat) : (stopOuts s n).rf = s.rf := by rw [stopOuts_frame]

@[simp] theorem fld_stopOuts (s : State) (n : Nat) (f : Fld) : (stopOuts s n).fld f = s.fld f :=
  State.fld_of_rf_eq (rf_stopOuts s n) f

@[simp] theorem mcs_stopOuts (s : State) (n m : Nat) : (stopOuts s n).mcs m = s.mcs m := by
  rw [State.mcs, State.mcs, stopOuts_frame]

theorem State.mcsState_of_rf {s t : State} (h : t.rf = s.rf) (n : Nat) : t.mcsState n = s.mcsState n := fld_of_rf_eq h _

/-! ### An MCS's record -/

namespace State

theorem mcs_setMcs_self {s : State} {n : Nat} (m : Mcs) (h : n < s.mcss.length) : (s.setMcs n m).mcs n = m :=
  getD_modifyAt_self _ _ h

theorem mcs_setMcs_ne (s : State) {n k : Nat} (m : Mcs) (h : k ≠ n) : (s.setMcs n m).mcs k = s.mcs k := getD_modifyAt_ne _ _ _ h

@[simp] theorem mcs_setFld (s : State) (f : Fld) (v n : Nat) : (s.setFld f v).mcs n = s.mcs n := rfl

@[simp] theorem length_mcss_setMcs (s : State) (n : Nat) (m : Mcs) : (s.setMcs n m).mcss.length = s.mcss.length :=
  length_modifyAt ..

end State

/-! ### A move of an MCS -/

/-- From `s` to `t` only fields of the list, the event queues, the MCSs' records and the clock outputs' pins change. -/
structure McsStep (l : List Fld) (s t : State) : Prop where
  frame   : t = { s with rf := t.rf, mbx := { s.mbx with evts := t.mbx.evts }, mcss := t.mcss
                         pins := { s.pins with clkOut := t.pins.clkOut } }
  touches : Touches l s t
  length  : t.mcss.length = s.mcss.length

namespace McsStep

variable {l : List Fld} {s t u : State}

theorem refl (l : List Fld) (s : State) : McsStep l s s := ⟨rfl, .refl _ s, rfl⟩

theorem trans (h : McsStep l s t) (k : McsStep l t u) : McsStep l s u := by
  refine ⟨?_, h.touches.trans k.touches, k.length.trans h.length⟩
  have e := k.frame
  rw [h.frame] at e
  exact e

theorem mono {l' : List Fld} (h : McsStep l s t) (hl : ∀ f ∈ l, f ∈ l') : McsStep l' s t :=
  ⟨h.frame, h.touches.mono hl, h.length⟩

theorem setFld (h : McsStep l s t) {f : Fld} (hf : f ∈ l) (v : Nat) : McsStep l s (t.setFld f v) :=
  h.trans ⟨rfl, touches_setFld hf (.refl _ t), rfl⟩

theorem setFlag (h : McsStep l s t) {f : Fld} (hf : f ∈ l) (b : Bool) : McsStep l s (t.setFlag f b) := h.setFld hf _

theorem setFlds (h : McsStep l s t) {ps : List (Fld × Nat)} (hf : ∀ p ∈ ps, p.1 ∈ l) : McsStep l s (t.setFlds ps) := by
  induction ps generalizing t with
  | nil => exact h
  | cons p ps ih => exact ih (h.setFld (hf p List.mem_cons_self) _) fun q hq => hf q (List.mem_cons_of_mem _ hq)

theorem setMcs (h : McsStep l s t) (n : Nat) (m : Mcs) : McsStep l s (t.setMcs n m) :=
  h.trans ⟨rfl, .of_rf _ rfl, length_modifyAt ..⟩

theorem stopOuts (h : McsStep l s t) (n : Nat) : McsStep l s (stopOuts t n) := by
  refine h.trans ⟨?_, .of_rf _ (rf_stopOuts t n), by rw [stopOuts_frame]⟩
  unfold Machine.stopOuts
  generalize [0, 1, 2, 3, 4] = is
  clear h
  induction is generalizing t with
  | nil => rfl
  | cons i is ih =>
    rw [List.foldl_cons, ih]
    split <;> rfl

theorem of_evt (h : EvtStep s t) : McsStep evtFlds s t := by
  refine ⟨?_, h.touches, by rw [h.frame]⟩
  have e := h.frame
  rw [e]

theorem evt (h : McsStep l s t) (k : EvtStep t u) (hl : ∀ f ∈ evtFlds, f ∈ l) : McsStep l s u :=
  h.trans ((of_evt k).mono hl)

/-- The registers of another MCS, and whatever the list does not name, read as before. -/
theorem fld (h : McsStep l s t) {f : Fld} (hf : ∀ g ∈ l, f.apart g = true) : t.fld f = s.fld f := h.touches.fld hf

end McsStep

/-- The fields that a move of an MCS may write. -/
def mcsFlds (n : Nat) : List Fld := evtFlds ++
  [R.CLK.MCS_STAT.STATE n, R.CLK.MCS_STAT.LOCK_EV n, R.CLK.MCS_STAT.HOLD_EV n, R.CLK.MCS_STAT.SLEWING n,
    R.CLK.MCS_STAT.BW_NOW n, R.CLK.MCS_STAT.REF_OK n, R.CLK.MCS_FREQ.OFFSET n]

theorem mcsStep_mcsSetRate {l : List Fld} {s t : State} (h : McsStep l s t) {n : Nat} (hf : R.CLK.MCS_FREQ.OFFSET n ∈ l)
    (ppb : Int) : McsStep l s (mcsSetRate t n ppb) :=
  ((h.setMcs n _).setMcs n _).setFld hf _

theorem mcsStep_mcsGo (s : State) (n st : Nat) : McsStep (mcsFlds n) s (mcsGo s n st) := by
  have hstat : McsStep (mcsFlds n) s ((if s.mcsState n = st then s
      else s.event 0xE040 [byteOf n, byteOf (s.mcsState n), byteOf st]).setFld (R.CLK.MCS_STAT.STATE n) st) := by
    refine McsStep.setFld ?_ (by simp [mcsFlds]) st
    split
    · exact .refl _ s
    · exact (McsStep.refl _ s).evt (.event ..) fun f hf => List.mem_append_left _ hf
  unfold mcsGo
  dsimp only
  split
  · exact (hstat.setMcs n _).setFld (by simp [mcsFlds]) 1
  split
  · exact (mcsStep_mcsSetRate (hstat.setMcs n _) (by simp [mcsFlds]) _).setFlds (by simp [mcsFlds])
  split
  · exact (hstat.setMcs n _).setFld (by simp [mcsFlds]) _
  split
  · exact ((hstat.setMcs n _).setFlds (by simp [mcsFlds])).stopOuts n
  split
  · exact hstat.setMcs n _
  · exact (mcsStep_mcsSetRate (hstat.setMcs n _) (by simp [mcsFlds]) _).stopOuts n

/-- The fields that a move of an MCS may write once its state is set. -/
def mcsLateFlds (n : Nat) : List Fld :=
  [R.CLK.MCS_STAT.LOCK_EV n, R.CLK.MCS_STAT.HOLD_EV n, R.CLK.MCS_STAT.SLEWING n, R.CLK.MCS_STAT.BW_NOW n,
    R.CLK.MCS_STAT.REF_OK n, R.CLK.MCS_FREQ.OFFSET n]

/-- A move sets the MCS's state first and writes nothing but the fields beside it after. -/
theorem mcsGo_after (s : State) (n st : Nat) : ∃ u, u = (if s.mcsState n = st then s
    else s.event 0xE040 [byteOf n, byteOf (s.mcsState n), byteOf st]) ∧
      McsStep (mcsLateFlds n) (u.setFld (R.CLK.MCS_STAT.STATE n) st) (mcsGo s n st) := by
  refine ⟨_, rfl, ?_⟩
  generalize hu : (if s.mcsState n = st then s else s.event 0xE040 [byteOf n, byteOf (s.mcsState n), byteOf st]) = u
  have hrefl := McsStep.refl (mcsLateFlds n) (u.setFld (R.CLK.MCS_STAT.STATE n) st)
  unfold mcsGo
  dsimp only
  rw [hu]
  split
  · exact (hrefl.setMcs n _).setFld (by simp [mcsLateFlds]) 1
  split
  · exact (mcsStep_mcsSetRate (hrefl.setMcs n _) (by simp [mcsLateFlds]) _).setFlds (by simp [mcsLateFlds])
  split
  · exact (hrefl.setMcs n _).setFld (by simp [mcsLateFlds]) _
  split
  · exact ((hrefl.setMcs n _).setFlds (by simp [mcsLateFlds])).stopOuts n
  split
  · exact hrefl.setMcs n _
  · exact (mcsStep_mcsSetRate (hrefl.setMcs n _) (by simp [mcsLateFlds]) _).stopOuts n

theorem state_apart_late (n : Nat) : ∀ g ∈ mcsLateFlds n, (R.CLK.MCS_STAT.STATE n).apart g = true := by
  simp [mcsLateFlds, Fld.apart, R.CLK.MCS_STAT.STATE, R.CLK.MCS_STAT.LOCK_EV, R.CLK.MCS_STAT.HOLD_EV,
    R.CLK.MCS_STAT.SLEWING, R.CLK.MCS_STAT.BW_NOW, R.CLK.MCS_STAT.REF_OK, R.CLK.MCS_FREQ.OFFSET]

/-- An MCS moves to the state named. -/
theorem mcsState_mcsGo (s : State) (n : Nat) {st : Nat} (h : st < 16) : (mcsGo s n st).mcsState n = st := by
  obtain ⟨u, -, hs⟩ := mcsGo_after s n st
  refine (hs.fld (state_apart_late n)).trans ?_
  exact State.fld_setFld_lt u (R.CLK.MCS_STAT.STATE n) (Nat.le_of_ble_eq_true rfl) h

/-- A field of another register than MCS `n`'s status and frequency and the two of the event queues. -/
theorem mcsFlds_apart {f : Fld} {n : Nat} (h1 : f.key ≠ R.CLK.MCS_STAT.reg n) (h2 : f.key ≠ R.CLK.MCS_FREQ.reg n)
    (h3 : f.key ≠ R.MBX.STAT.reg) (h4 : f.key ≠ R.MBX.RING_STAT.reg) : ∀ g ∈ mcsFlds n, f.apart g = true := by
  simp only [R.CLK.MCS_STAT.reg, R.CLK.MCS_FREQ.reg, R.MBX.STAT.reg, R.MBX.RING_STAT.reg] at h1 h2 h3 h4
  simp [mcsFlds, evtFlds, Fld.apart, R.CLK.MCS_STAT.STATE, R.CLK.MCS_STAT.LOCK_EV, R.CLK.MCS_STAT.HOLD_EV,
    R.CLK.MCS_STAT.SLEWING, R.CLK.MCS_STAT.BW_NOW, R.CLK.MCS_STAT.REF_OK, R.CLK.MCS_FREQ.OFFSET, R.MBX.STAT.EVT_PENDING,
    R.MBX.RING_STAT.EVT_LOST, h1, h2, h3, h4]

/-- A register of MCS `m` is none that a move of another MCS writes. -/
theorem mcsFlds_apart_mcs {f : Fld} {m n : Nat} (hf : f.key = R.CLK.MCS_STAT.reg m ∨ f.key = R.CLK.MCS_FREQ.reg m) (h : m ≠ n) :
    ∀ g ∈ mcsFlds n, f.apart g = true := by
  simp only [R.CLK.MCS_STAT.reg, R.CLK.MCS_FREQ.reg] at hf
  apply mcsFlds_apart <;> simp only [R.CLK.MCS_STAT.reg, R.CLK.MCS_FREQ.reg, R.MBX.STAT.reg, R.MBX.RING_STAT.reg] <;> omega

theorem mcsState_mcsGo_ne (s : State) {n m : Nat} (st : Nat) (h : m ≠ n) : (mcsGo s n st).mcsState m = s.mcsState m :=
  (mcsStep_mcsGo s n st).fld (mcsFlds_apart_mcs (.inl rfl) h)

theorem mcsStep_mcsLose (s : State) (n : Nat) : McsStep (mcsFlds n) s (mcsLose s n) := by
  have hok : McsStep (mcsFlds n) s (s.setFld (R.CLK.MCS_STAT.REF_OK n) 0) := (McsStep.refl _ s).setFld (by simp [mcsFlds]) 0
  unfold mcsLose
  dsimp only
  split
  · exact hok
  split
  · exact hok.trans (mcsStep_mcsGo ..)
  · exact hok.trans (mcsStep_mcsGo ..)

/-- Entering HOLDOVER sets its event. -/
theorem holdEv_mcsGo_hold (s : State) (n : Nat) : (mcsGo s n mcsHold).fld (R.CLK.MCS_STAT.HOLD_EV n) = 1 := by
  unfold mcsGo
  dsimp only
  rw [if_neg (by decide), if_pos rfl, State.setFlds_cons, State.setFlds_cons, State.setFlds_nil,
    State.fld_setFld_above _ _ rfl, State.fld_setFld_mod _ _ _ rfl]
  rfl

/-- Entering LOCKED sets its event. -/
theorem lockEv_mcsGo_locked (s : State) (n : Nat) : (mcsGo s n mcsLocked).fld (R.CLK.MCS_STAT.LOCK_EV n) = 1 := by
  unfold mcsGo
  dsimp only
  rw [if_pos rfl, State.fld_setFld_mod _ _ _ rfl]
  rfl

end Sys2Proof.Machine
end

section
/-! The crystal and the PLLs (R77, R83, R84). -/

namespace Sys2Proof.Machine

/-! ### DX cells -/

theorem dxCell_setDx_self (s : State) (a v : Nat) : (s.setDx a v).dxCell a = v % 65536 := sGet_put_self ..

theorem dxCell_setDx_ne (s : State) {a b : Nat} (v : Nat) (h : b ≠ a) : (s.setDx a v).dxCell b = s.dxCell b :=
  sGet_put_ne _ _ _ h

/-! ### A step that moves no clock and no PTI -/

/-- A register whose value nothing follows: none of a PTI's state, of a media clock's state or frequency. -/
def Unfollowed (k : Nat) : Prop :=
  (∀ n, n < 4 → k ≠ R.TIME.PTI_PORT_STATE.reg n ∧ k ≠ R.TIME.PTI_STAT.reg n) ∧
    ∀ n, n < 8 → k ≠ R.CLK.MCS_STAT.reg n ∧ k ≠ R.CLK.MCS_FREQ.reg n

theorem follow_of_rd {s u : State} (h : ∀ k, ¬Unfollowed k → u.rd k = s.rd k) : follow s u = u := by
  have hport : ∀ n, n < 4 → u.rd (R.TIME.PTI_PORT_STATE.reg n) = s.rd (R.TIME.PTI_PORT_STATE.reg n) := fun n hn =>
    h _ fun k => (k.1 n hn).1 rfl
  have hpti : ∀ n, n < 4 → ∀ f : Fld, f.key = R.TIME.PTI_STAT.reg n → u.fld f = s.fld f := fun n hn f hf =>
    congrArg f.of (h _ fun k => (k.1 n hn).2 hf)
  have hmcs : ∀ n, n < 8 → u.mcsState n = s.mcsState n := fun n hn =>
    congrArg (R.CLK.MCS_STAT.STATE n).of (h _ fun k => (k.2 n hn).1 rfl)
  have hfreq : ∀ n, n < 8 → u.rd (R.CLK.MCS_FREQ.reg n) = s.rd (R.CLK.MCS_FREQ.reg n) := fun n hn =>
    h _ fun k => (k.2 n hn).2 rfl
  have hfold : ∀ l : List Nat, (∀ n ∈ l, n < 4) → l.foldl (ptiMoved s) u = u := by
    intro l hl
    induction l with
    | nil => rfl
    | cons n l ih =>
      have hn := hl n List.mem_cons_self
      have hq : ptiMoved s u n = u :=
        if_pos ⟨(hport n hn).symm, (hpti n hn _ rfl).symm, (hpti n hn _ rfl).symm⟩
      rw [List.foldl_cons, hq]
      exact ih fun m hm => hl m (List.mem_cons_of_mem _ hm)
  have hmoved : movedMcs s u = [] := List.filter_eq_nil_iff.2 fun n hn => by
    simp [hmcs n (List.mem_range.1 hn)]
  have hstill : freqMoved s u = false := List.any_eq_false.2 fun n hn => by
    simp [hfreq n (List.mem_range.1 hn)]
  rw [follow, hfold _ fun n hn => List.mem_range.1 hn, hmoved, hstill]
  rfl

theorem follow_of_touches {s u : State} {l : List Fld} (h : Touches l s u) (hl : ∀ f ∈ l, Unfollowed f.key) :
    follow s u = u :=
  follow_of_rd fun _ hk => h.rd fun f hf e => hk (e ▸ hl f hf)

theorem follow_of_rf {s u : State} (h : u.rf = s.rf) : follow s u = u :=
  follow_of_rd fun k _ => State.rd_of_rf_eq h k

/-! ### The PLLs -/

section
variable {s : State}

theorem exec_refPllLock (h : s.domOn 11 = true) : exec .refPllLock s = .next
    { s.setFld R.CLK.PLL_STAT.REF_LOCK 1 with pwr := { s.pwr with handbackDue := s.pwr.handover } } := if_pos h

/-- CK_CORE's lock, before what the boot ROM loads. -/
def sysLocked (s : State) : State :=
  let t := s.setFld R.CLK.PLL_STAT.SYS_LOCK 1
  if t.pstate = 10 then t else t.setFld R.CLK.PLL_STAT.CORE_SLOW 0

/-- The boot ROM loads the identity record into the DX cells (R453). -/
def identityCells (n m : Nat) (s : State) : State :=
  s.setDx 3 n |>.setDx 4 (n / 65536) |>.setDx 5 (n / 2 ^ 32) |>.setDx 6 (m / 2 ^ 32) |>.setDx 7 (m / 65536) |>.setDx 8 m

theorem sysLocked_frame (s : State) : sysLocked s = { s with rf := (sysLocked s).rf } := by
  unfold sysLocked
  dsimp only
  split <;> rfl

theorem touches_sysLocked (s : State) : Touches [R.CLK.PLL_STAT.SYS_LOCK, R.CLK.PLL_STAT.CORE_SLOW] s (sysLocked s) := by
  have hlock : Touches [R.CLK.PLL_STAT.SYS_LOCK, R.CLK.PLL_STAT.CORE_SLOW] s (s.setFld R.CLK.PLL_STAT.SYS_LOCK 1) :=
    touches_setFld (by simp) (.refl _ s)
  exact touches_ite hlock (touches_setFld (by simp) hlock)

/-- SYS_LOCK is set; CK_CORE runs at speed at once but in WAKING. -/
theorem fld_sysLocked (s : State) : (sysLocked s).fld R.CLK.PLL_STAT.SYS_LOCK = 1 ∧
    (s.pstate ≠ 10 → (sysLocked s).fld R.CLK.PLL_STAT.CORE_SLOW = 0) ∧
    (s.pstate = 10 → (sysLocked s).fld R.CLK.PLL_STAT.CORE_SLOW = s.fld R.CLK.PLL_STAT.CORE_SLOW) := by
  have hp : (s.setFld R.CLK.PLL_STAT.SYS_LOCK 1).pstate = s.pstate := State.fld_setFld_ne s 1 (by decide)
  by_cases h : s.pstate = 10
  · have e : sysLocked s = s.setFld R.CLK.PLL_STAT.SYS_LOCK 1 := if_pos (hp.trans h)
    rw [e]
    exact ⟨State.fld_setFld_mod _ _ _ rfl, fun n => absurd h n, fun _ => State.fld_setFld_below _ _ rfl⟩
  · have e : sysLocked s = (s.setFld R.CLK.PLL_STAT.SYS_LOCK 1).setFld R.CLK.PLL_STAT.CORE_SLOW 0 := if_neg (hp ▸ h)
    rw [e]
    refine ⟨?_, fun _ => State.fld_setFld_mod _ _ _ rfl, fun n => absurd n h⟩
    rw [State.fld_setFld_above _ _ rfl]
    exact State.fld_setFld_mod _ _ _ rfl

theorem setDx_frame (s : State) (a v : Nat) : s.setDx a v = { s with dx := (s.setDx a v).dx } := rfl

theorem setDx_setDx_frame {s t : State} {d : Dx} (h : t = { s with dx := d }) (a v : Nat) :
    t.setDx a v = { s with dx := (t.setDx a v).dx } := by
  subst h
  rfl

theorem identityCells_frame (n m : Nat) (s : State) :
    identityCells n m s = { s with dx := (identityCells n m s).dx } :=
  setDx_setDx_frame (setDx_setDx_frame (setDx_setDx_frame (setDx_setDx_frame (setDx_setDx_frame
    (setDx_frame s 3 n) _ _) _ _) _ _) _ _) _ _

theorem fld_identityCells (n m : Nat) (s : State) (f : Fld) : (identityCells n m s).fld f = s.fld f := by
  simp only [identityCells, State.fld_setDx]

theorem dxCell_identityCells (n m : Nat) (s : State) :
    (identityCells n m s).dxCell 3 = n % 65536 ∧ (identityCells n m s).dxCell 8 = m % 65536 := by
  unfold identityCells
  constructor
  · iterate 5 rw [dxCell_setDx_ne _ _ (by decide)]
    exact dxCell_setDx_self ..
  · exact dxCell_setDx_self ..

theorem exec_sysPllLock (h : s.domOn 11 = true) : exec .sysPllLock s = .next
    (if (sysLocked s).phase = 0 then
      identityCells (sysLocked s).flash.serial ((sysLocked s).flash.macs.getD 2 0) (fixedFields (sysLocked s))
     else sysLocked s) := by
  have hgo : ¬(!s.domOn 11) = true := by simp [h]
  rw [show exec .sysPllLock s = execSysPllLock s from rfl, execSysPllLock, if_neg hgo]
  rfl

end

theorem sysPllLock_goes {s : State} (h : s.domOn 11 = true) : Goes .sysPllLock s fun t =>
    t.fld R.CLK.PLL_STAT.SYS_LOCK = 1 ∧
      (s.pstate ≠ 10 → t.fld R.CLK.PLL_STAT.CORE_SLOW = 0) ∧
      (s.pstate = 10 → t.fld R.CLK.PLL_STAT.CORE_SLOW = s.fld R.CLK.PLL_STAT.CORE_SLOW) ∧
      (s.phase ≠ 0 → t = { s with rf := t.rf } ∧ Touches [R.CLK.PLL_STAT.SYS_LOCK, R.CLK.PLL_STAT.CORE_SLOW] s t) ∧
      (s.phase = 0 → t = { s with rf := t.rf, dx := t.dx } ∧ t.dxCell 3 = s.flash.serial % 65536 ∧
        t.dxCell 8 = s.flash.macs.getD 2 0 % 65536 ∧ t.fld (R.NET.MAC_LO.ADDR 0) = s.flash.macs.getD 0 0 % 2 ^ 32) := by
  have hphase : (sysLocked s).phase = s.phase := (touches_sysLocked s).fld (by decide)
  obtain ⟨hlock, hfast, hslow⟩ := fld_sysLocked s
  refine ⟨_, exec_sysPllLock h, ?_⟩
  rw [hphase, show (sysLocked s).flash = s.flash by rw [sysLocked_frame]]
  by_cases h0 : s.phase = 0
  · rw [if_pos h0]
    have hfld : ∀ f : Fld, f.key ∉ fixedKeys →
        (identityCells s.flash.serial (s.flash.macs.getD 2 0) (fixedFields (sysLocked s))).fld f =
          (sysLocked s).fld f := fun f hf => (fld_identityCells _ _ _ f).trans (fld_fixedFields hf)
    refine ⟨(hfld _ (by decide)).trans hlock, fun n => (hfld _ (by decide)).trans (hfast n),
      fun n => (hfld _ (by decide)).trans (hslow n), fun n => absurd h0 n, fun _ => ⟨?_, ?_, ?_, ?_⟩⟩
    · rw [identityCells_frame, fixedFields_frame, sysLocked_frame]
    · exact (dxCell_identityCells _ _ _).1
    · exact (dxCell_identityCells _ _ _).2
    · rw [fld_identityCells, macLo_fixedFields, sysLocked_frame]
  · rw [if_neg h0]
    exact ⟨hlock, hfast, hslow, fun _ => ⟨sysLocked_frame s, touches_sysLocked s⟩, fun n => absurd n h0⟩

/-! ### The reference PLL's loss (R84) -/

/-- One MCS as the reference PLL loses its lock. -/
def mcsLostPll (s : State) (n : Nat) : State := stopOuts (mcsLose s n) n

theorem exec_pllLossOfLock_ref (s : State) : exec (.pllLossOfLock false) s =
    .next (follow s ((List.range 8).foldl mcsLostPll (s.setFlds [(R.CLK.PLL_STAT.REF_LOCK, 0), (R.CLK.PLL_STAT.REF_LOSS, 1)]))) :=
  rfl

theorem mcsStep_mcsLostPll (s : State) (n : Nat) : McsStep (mcsFlds n) s (mcsLostPll s n) := (mcsStep_mcsLose s n).stopOuts n

/-- Running MCSs lose the reference; the fields of the others and of the PLLs stay. -/
theorem fld_foldl_mcsLostPll {f : Fld} (ns : List Nat) (hf : ∀ n ∈ ns, ∀ g ∈ mcsFlds n, f.apart g = true) (s : State) :
    (ns.foldl mcsLostPll s).fld f = s.fld f := by
  induction ns generalizing s with
  | nil => rfl
  | cons n ns ih =>
    rw [List.foldl_cons, ih (fun m hm => hf m (List.mem_cons_of_mem _ hm))]
    exact (mcsStep_mcsLostPll s n).fld (hf n List.mem_cons_self)

theorem mcs_mcsLostPll_of_off {s : State} {m : Nat} (h : s.mcsState m = mcsOff) (n : Nat) :
    (mcsLostPll s m).mcs n = s.mcs n := by
  rw [mcsLostPll, mcs_stopOuts, mcsLose]
  rw [if_pos (.inl h), State.mcs_setFld]

/-- An MCS that has locked goes from LOCKED to HOLDOVER. -/
theorem mcsLose_of_locked {s : State} {n : Nat} (hs : s.mcsState n = mcsLocked) (hl : (s.mcs n).locked = true) :
    mcsLose s n = mcsGo (s.setFld (R.CLK.MCS_STAT.REF_OK n) 0) n mcsHold := by
  have hrun : ¬(s.mcsState n = mcsOff ∨ s.mcsState n = mcsQualify ∨ s.mcsState n = mcsHold) := by
    rw [hs]; decide
  have hl' : ((s.setFld (R.CLK.MCS_STAT.REF_OK n) 0).mcs n).locked = true := hl
  rw [mcsLose, if_neg hrun]
  exact if_pos hl'

theorem foldl_mcsLostPll_hold {n : Nat} (ns : List Nat) (hnd : ns.Nodup) (hn : n ∈ ns) (s : State)
    (hs : s.mcsState n = mcsLocked) (hl : (s.mcs n).locked = true) (hoff : ∀ m ∈ ns, m ≠ n → s.mcsState m = mcsOff) :
    (ns.foldl mcsLostPll s).mcsState n = mcsHold ∧ (ns.foldl mcsLostPll s).fld (R.CLK.MCS_STAT.HOLD_EV n) = 1 := by
  induction ns generalizing s with
  | nil => cases hn
  | cons m ns ih =>
    obtain ⟨hm, hnd⟩ := List.nodup_cons.1 hnd
    rw [List.foldl_cons]
    by_cases e : m = n
    · subst e
      have hapart : ∀ f : Fld, f.key = R.CLK.MCS_STAT.reg m → ∀ k ∈ ns, ∀ g ∈ mcsFlds k, f.apart g = true :=
        fun f hf k hk => mcsFlds_apart_mcs (.inl hf) fun e => hm (e ▸ hk)
      have hgo : mcsLostPll s m = stopOuts (mcsGo (s.setFld (R.CLK.MCS_STAT.REF_OK m) 0) m mcsHold) m := by
        rw [mcsLostPll, mcsLose_of_locked hs hl]
      constructor
      · refine (fld_foldl_mcsLostPll ns (hapart _ rfl) _).trans ?_
        rw [hgo, fld_stopOuts]
        exact mcsState_mcsGo _ m (by decide)
      · rw [fld_foldl_mcsLostPll ns (hapart _ rfl), hgo, fld_stopOuts, holdEv_mcsGo_hold]
    · have hstep := mcsStep_mcsLostPll s m
      refine ih hnd ((List.mem_cons.1 hn).resolve_left (Ne.symm e)) _ ?_ ?_ fun k hk hkn => ?_
      · exact (hstep.fld (mcsFlds_apart_mcs (.inl rfl) (Ne.symm e))).trans hs
      · rw [mcs_mcsLostPll_of_off (hoff m List.mem_cons_self e), hl]
      · exact (hstep.fld (mcsFlds_apart_mcs (.inl rfl) fun e => hm (e ▸ hk))).trans (hoff k (List.mem_cons_of_mem _ hk) hkn)

theorem pllLossOfLock_ref_leaves {s : State} {n : Nat} (hn : n < 8) (hs : s.mcsState n = mcsLocked)
    (hl : (s.mcs n).locked = true) (hoff : ∀ m, m < 8 → m ≠ n → s.mcsState m = mcsOff) :
    ∃ u, exec (.pllLossOfLock false) s = .next (follow s u) ∧ u.fld R.CLK.PLL_STAT.REF_LOCK = 0 ∧
      u.fld R.CLK.PLL_STAT.REF_LOSS = 1 ∧ u.mcsState n = mcsHold ∧ u.fld (R.CLK.MCS_STAT.HOLD_EV n) = 1 := by
  refine ⟨_, exec_pllLossOfLock_ref s, ?_⟩
  rw [State.setFlds_cons, State.setFlds_cons, State.setFlds_nil]
  generalize hu : (s.setFld R.CLK.PLL_STAT.REF_LOCK 0).setFld R.CLK.PLL_STAT.REF_LOSS 1 = u
  have hmcs : ∀ m, u.mcsState m = s.mcsState m := fun m => by
    rw [← hu, State.mcsState, State.fld_setFld_ne, State.fld_setFld_ne, State.mcsState] <;>
      simp only [R.CLK.MCS_STAT.STATE, R.CLK.PLL_STAT.REF_LOCK, R.CLK.PLL_STAT.REF_LOSS] <;> omega
  have hpll : ∀ f : Fld, f.key = R.CLK.PLL_STAT.reg → ((List.range 8).foldl mcsLostPll u).fld f = u.fld f := fun f hf =>
    fld_foldl_mcsLostPll _ (fun m _ => mcsFlds_apart (by rw [hf, R.CLK.PLL_STAT.reg, R.CLK.MCS_STAT.reg]; omega)
      (by rw [hf, R.CLK.PLL_STAT.reg, R.CLK.MCS_FREQ.reg]; omega) (by rw [hf]; decide) (by rw [hf]; decide)) u
  obtain ⟨hhold, hev⟩ := foldl_mcsLostPll_hold (List.range 8) List.nodup_range (List.mem_range.mpr hn) u ((hmcs n).trans hs)
    (by rw [← hu]; exact hl) fun m hm hmn => (hmcs m).trans (hoff m (List.mem_range.mp hm) hmn)
  refine ⟨?_, ?_, hhold, hev⟩
  · rw [hpll _ rfl, ← hu, State.fld_setFld_above _ _ rfl]
    exact State.fld_setFld_mod _ _ _ rfl
  · rw [hpll _ rfl, ← hu]
    exact State.fld_setFld_mod _ _ _ rfl

/-- Settles O4. What the boot ROM loads at the system PLL's lock is R317's and R453's. -/
theorem crystalAndPllSteps : Obligations.CrystalAndPllSteps := by
  unfold Obligations.CrystalAndPllSteps
  intro s
  refine ⟨fun h => ?_, fun h hx => ?_, fun h => ?_, sysPllLock_goes, ?_, fun n => pllLossOfLock_ref_leaves⟩
  · refine ⟨_, if_pos h, rfl, State.fld_setFld_mod _ _ _ rfl, ?_⟩
    exact touches_setFld (by simp) (.of_rf _ rfl)
  · refine ⟨_, if_pos (by simp [h, hx]), rfl, State.fld_setFld_mod _ _ _ rfl, ?_⟩
    exact touches_setFld (by simp) (.refl _ s)
  · refine ⟨_, exec_refPllLock h, rfl, State.fld_setFld_mod s _ _ rfl, ?_⟩
    exact touches_rf rfl (touches_setFld (t := s) (f := R.CLK.PLL_STAT.REF_LOCK) (v := 1) (by simp) (.refl _ s))
  · have htouch : Touches [R.CLK.PLL_STAT.SYS_LOCK, R.CLK.PLL_STAT.SYS_LOSS] s
        (s.setFlds [(R.CLK.PLL_STAT.SYS_LOCK, 0), (R.CLK.PLL_STAT.SYS_LOSS, 1)]) := touches_setFlds (by simp) (.refl _ s)
    have hstill : ∀ f ∈ [R.CLK.PLL_STAT.SYS_LOCK, R.CLK.PLL_STAT.SYS_LOSS], Unfollowed f.key := by
      unfold Unfollowed
      decide
    refine ⟨_, congrArg Host.Outcome.next (follow_of_touches htouch hstill), rfl, ?_, ?_, htouch⟩
    · exact (State.fld_setFld_above _ _ rfl).trans (State.fld_setFld_mod _ _ _ rfl)
    · exact State.fld_setFld_mod _ _ _ rfl

end Sys2Proof.Machine
end

section
/-! Wakes from DOZE and from the sleep states (R42, R44, R62 to R72). -/

namespace Sys2Proof.Machine

/-! ### Bits of numbers -/

theorem nbit_setBit_self (n i : Nat) : nbit (setBit n i true) i = true := by
  simp [nbit, setBit, Nat.testBit_shiftLeft]

theorem setBit_lt {n i w : Nat} (h : n < 2 ^ w) (hi : i < w) : setBit n i true < 2 ^ w := by
  rw [setBit, if_pos rfl, Nat.one_shiftLeft]
  exact Nat.or_lt_two_pow h (Nat.pow_lt_pow_right (by decide) hi)

/-! ### An edge on a source -/

theorem msixIfRose_frame (b : Bool) (s : State) : msixIfRose b s = { s with irq := (msixIfRose b s).irq } := by
  obtain ⟨d, e⟩ := msixIfRose_eq b s
  rw [e]
  rfl

theorem pendSet_frame (s : State) (m : Bool) (n : Nat) : pendSet s m n = { s with irq := (pendSet s m n).irq } := by
  obtain ⟨l, e⟩ := pendSet_eq s m n
  rw [e]
  cases m <;> rfl

theorem irqEdge_frame (s : State) (n : Nat) : irqEdge s n = { s with irq := (irqEdge s n).irq } := by
  unfold irqEdge
  dsimp only
  split
  · rfl
  · rw [msixIfRose_frame, pendSet_frame, pendSet_frame]

@[simp] theorem fld_irqEdge (s : State) (n : Nat) (f : Fld) : (irqEdge s n).fld f = s.fld f :=
  State.fld_of_rf_eq (by rw [irqEdge_frame]) f

/-! ### What stays beyond the registers -/

/-- From `s` to `t` nothing but registers changes. -/
def RfFrame (s t : State) : Prop := t = { s with rf := t.rf }

namespace RfFrame

theorem refl (s : State) : RfFrame s s := rfl

theorem trans {s t u : State} (h : RfFrame s t) (k : RfFrame t u) : RfFrame s u := by
  unfold RfFrame at *
  rw [k, h]

theorem setFld {s t : State} (h : RfFrame s t) (f : Fld) (v : Nat) : RfFrame s (t.setFld f v) := h.trans rfl

theorem setFlag {s t : State} (h : RfFrame s t) (f : Fld) (b : Bool) : RfFrame s (t.setFlag f b) := h.trans rfl

theorem setFlds {s t : State} (h : RfFrame s t) (l : List (Fld × Nat)) : RfFrame s (t.setFlds l) :=
  h.trans (State.setFlds_frame t l)

end RfFrame

section
variable {l : List Fld} {s t : State}

theorem touches_setPins (h : Touches l s t) (g : Pins → Pins) : Touches l s (t.setPins g) := touches_rf rfl h

theorem touches_setPwr (h : Touches l s t) (g : Power → Power) : Touches l s (t.setPwr g) := touches_rf rfl h

end

@[simp] theorem State.pwr_setPins (s : State) (g : Pins → Pins) : (s.setPins g).pwr = s.pwr := rfl

/-! ### The steps of a wake -/

section
variable (s : State)

theorem touches_setVid (v : Nat) : Touches [R.PWR.AVS.VID_NOW] s (s.setVid v) :=
  touches_rf rfl (touches_setFld (t := s) (f := R.PWR.AVS.VID_NOW) (v := v) (by simp) (.refl _ s))

theorem setVid_frame (v : Nat) : s.setVid v = { s with rf := (s.setVid v).rf, pins := { s.pins with vid := some v } } := rfl

theorem setFld_frame (f : Fld) (v : Nat) : s.setFld f v = { s with rf := (s.setFld f v).rf } := rfl

theorem goPower_frame (st : Nat) : s.goPower st = { s with rf := (s.goPower st).rf } :=
  ((RfFrame.refl s).setFld R.PWR.STATE.PREV s.pstate).setFld R.PWR.STATE.STATE_F st

theorem pcieWake_eq : ∃ w, pcieWake s = s.setPins fun p => { p with wakeLow := w } := by
  unfold pcieWake
  split
  · exact ⟨true, rfl⟩
  · exact ⟨s.pins.wakeLow, rfl⟩

/-- A wake from DOZE: WAKING, its cause, and VID raised (R62, R72, R79). -/
theorem wakeDoze_leaves (cause : Nat) (h : cause < 256) : (wakeDoze s cause).pstate = 10 ∧
    (wakeDoze s cause).fld R.PWR.STATE.PREV = s.pstate ∧ (wakeDoze s cause).fld R.PWR.STATE.LAST_WAKE = cause ∧
    (wakeDoze s cause).pwr.from_ = 1 ∧
    Touches [R.PWR.STATE.LAST_WAKE, R.PWR.STATE.PREV, R.PWR.STATE.STATE_F, R.PWR.AVS.VID_NOW] s (wakeDoze s cause) := by
  rw [wakeDoze]
  generalize hu : (s.setPwr fun p => { p with from_ := 1, hostWake := hostStarts cause }).setFld
    R.PWR.STATE.LAST_WAKE cause = u
  have hset : Touches [R.PWR.STATE.LAST_WAKE] s u := by
    rw [← hu]
    exact touches_setFld (by simp) (.of_rf _ rfl)
  have hlast : u.fld R.PWR.STATE.LAST_WAKE = cause := by
    rw [← hu]
    exact State.fld_setFld_lt _ R.PWR.STATE.LAST_WAKE (by decide) h
  have hfrom : u.pwr.from_ = 1 := by rw [← hu]; rfl
  have hgo : Touches [R.PWR.STATE.PREV, R.PWR.STATE.STATE_F] u (u.goPower 10) := State.touches_goPower u 10
  have hvid : Touches [R.PWR.AVS.VID_NOW] (u.goPower 10) ((u.goPower 10).setVid u.wakeVid) := touches_setVid _ _
  have hpwr : ((u.goPower 10).setVid u.wakeVid).pwr.from_ = 1 := by rw [setVid_frame, goPower_frame, hfrom]
  obtain ⟨w, e⟩ := pcieWake_eq ((u.goPower 10).setVid u.wakeVid)
  rw [e]
  refine ⟨(State.fld_setPins _ _ _).trans ((hvid.fld (by decide)).trans (State.pstate_goPower u (by decide))),
    (State.fld_setPins _ _ _).trans ((hvid.fld (by decide)).trans ((State.prev_goPower u 10).trans (hset.fld (by decide)))),
    (State.fld_setPins _ _ _).trans ((hvid.fld (by decide)).trans ((hgo.fld (by decide)).trans hlast)), ?_, ?_⟩
  · rw [State.pwr_setPins, hpwr]
  · exact touches_setPins ((hset.mono (by simp)).trans ((hgo.mono (by simp)).trans (hvid.mono (by simp)))) _

end

/-- The latch `k` is set, and its source raised while PD_MCU has power, before what the latch starts. -/
def latched (s : State) (k : Nat) : State :=
  let s := s.setFld R.PWR.WL_STAT.LATCHED (setBit (s.fld R.PWR.WL_STAT.LATCHED) k true)
  let s := if s.pstate = 0 then s else s.setPwr fun p => { p with sinceEntry := setBit p.sinceEntry k true }
  if s.domOn 1 then irqEdge s (16 + k) else s

theorem fld_latched (s : State) (k : Nat) (f : Fld) :
    (latched s k).fld f = (s.setFld R.PWR.WL_STAT.LATCHED (setBit (s.fld R.PWR.WL_STAT.LATCHED) k true)).fld f := by
  unfold latched
  dsimp only
  split <;> split <;> simp only [fld_irqEdge, State.fld_setPwr]

theorem fld_latched_apart (s : State) (k : Nat) {f : Fld} (h : f.apart R.PWR.WL_STAT.LATCHED = true) :
    (latched s k).fld f = s.fld f := (fld_latched s k f).trans (State.fld_setFld_apart s _ h)

theorem nbit_latched {s : State} {k : Nat} (hk : k < 16) : nbit ((latched s k).fld R.PWR.WL_STAT.LATCHED) k = true := by
  rw [fld_latched, State.fld_setFld_lt _ _ (by decide) (setBit_lt (State.fld_lt s R.PWR.WL_STAT.LATCHED) hk)]
  exact nbit_setBit_self ..

theorem latchSet_of_doze {s : State} (h : s.pstate = 1) (k : Nat) (tick : Bool) :
    latchSet s k tick = wakeDoze (latched s k) k := by
  have hst : (s.setFld R.PWR.WL_STAT.LATCHED (setBit (s.fld R.PWR.WL_STAT.LATCHED) k true)).pstate = 1 :=
    (State.fld_setFld_ne s _ (by decide)).trans h
  rw [latchSet, if_pos hst]
  rfl

/-- An armed latch that sets in DOZE starts WAKING with its number as the cause. -/
theorem latchSet_doze_leaves {s : State} (h : s.pstate = 1) {k : Nat} (hk : k < 16) (tick : Bool) :
    (latchSet s k tick).pstate = 10 ∧ (latchSet s k tick).fld R.PWR.STATE.PREV = 1 ∧
      (latchSet s k tick).fld R.PWR.STATE.LAST_WAKE = k ∧ (latchSet s k tick).pwr.from_ = 1 ∧
      nbit ((latchSet s k tick).fld R.PWR.WL_STAT.LATCHED) k = true := by
  rw [latchSet_of_doze h]
  obtain ⟨hst, hprev, hlast, hfrom, htouch⟩ := wakeDoze_leaves (latched s k) k (by omega)
  refine ⟨hst, hprev.trans ((fld_latched_apart s k (by decide)).trans h), hlast, hfrom, ?_⟩
  rw [htouch.fld (by decide)]
  exact nbit_latched hk

/-- Settles O6. -/
theorem latchesWakeFromDoze : Obligations.LatchesWakeFromDoze := by
  unfold Obligations.LatchesWakeFromDoze
  intro s h hon
  refine ⟨fun k ns hk h14 h1 h15 hns hen hdrv => ?_, fun ht hx heq hen => ?_⟩
  · have hrun : ¬(16 ≤ k ∨ k = 14 ∨ (!s.domOn 0) = true ∨ (k = 1 ∧ s.flag R.SYS.STRAPS.CTL_SEL = true) ∨
        (k = 15 ∧ (!s.flag R.SYS.STRAPS.CTL_SEL) = true) ∨ (!nbit (s.fld R.PWR.WL_CFG.EN) k) = true ∨
        nbit (s.fld R.PWR.WL_CFG.EDGE) k ≠ nbit (s.fld R.PWR.WL_CFG.EDGE) k ∨ drivesPin s k = true ∨
        (false = true ∧ 2 ≤ k ∧ k ≤ 5) ∨ ns < 10) := by
      rintro (c | c | c | ⟨c, d⟩ | ⟨c, d⟩ | c | c | c | ⟨c, -⟩ | c)
      · omega
      · exact h14 c
      · simp [hon] at c
      · simp [h1 c] at d
      · simp [h15 c] at d
      · simp [hen] at c
      · exact c rfl
      · simp [hdrv] at c
      · cases c
      · omega
    exact ⟨_, (if_neg hrun).trans (if_pos hns), latchSet_doze_leaves h hk false⟩
  · have hrun : ¬(s.fld R.PWR.ALARM.TICKS = 0 ∨ (!s.domOn 0) = true ∨ (!s.flag R.PWR.STATE.XTAL_OK) = true ∨
        s.pwr.slowTicks % 2 ^ 32 ≠ s.fld R.PWR.ALARM.TICKS ∨ (!nbit (s.fld R.PWR.WL_CFG.EN) 14) = true) := by
      rintro (c | c | c | c | c)
      · exact ht c
      · simp [hon] at c
      · simp [hx] at c
      · exact c heq
      · simp [hen] at c
    obtain ⟨hst, -, hlast, -, hbit⟩ := latchSet_doze_leaves h (k := 14) (by decide) false
    exact ⟨_, if_neg hrun, hst, hlast, hbit⟩

/-! ### A wake from SLEEP or SLEEP-R (R42, R44, R64) -/

section
variable (s : State)

theorem retFalls_frame : retFalls s = { s with
    rf := (retFalls s).rf, pwr := { s.pwr with wakeHeld := false, retFall := true, retRise := false },
    pins := { s.pins with sramRet := false, vid := some 20 } } := rfl

theorem touches_retFalls : Touches [R.PWR.AVS.VID_NOW] s (retFalls s) := touches_rf (t := s.setVid 20) rfl (touches_setVid s 20)

theorem wakeSleep_frame : wakeSleep s = { s with
    rf := (wakeSleep s).rf
    pwr := { s.pwr with wakeHeld := false, retFall := true, retRise := false, from_ := s.pstate }
    pins := { s.pins with sramRet := false, vid := some 20 } } := by
  rw [wakeSleep, retFalls_frame, goPower_frame]
  rfl

/-- SRAM_RET has fallen, and the device is in WAKING. -/
theorem pstate_wakeSleep : (wakeSleep s).pstate = 10 ∧ (wakeSleep s).fld R.PWR.STATE.PREV = s.pstate := by
  rw [wakeSleep]
  generalize hu : (s.setPwr fun p => { p with from_ := s.pstate }) = u
  have hp : u.pstate = s.pstate := by rw [← hu]; rfl
  exact ⟨((touches_retFalls _).fld (by decide)).trans (State.pstate_goPower u (by decide)),
    ((touches_retFalls _).fld (by decide)).trans ((State.prev_goPower u 10).trans hp)⟩

end

/-- Settles O7. -/
theorem wakeFromSleepSteps : Obligations.WakeFromSleepSteps := by
  unfold Obligations.WakeFromSleepSteps
  intro s
  refine ⟨fun hm hs hw => ?_, fun hm hs hw => ?_, fun hm hs => ?_, fun hr => ?_, fun hst hf hf16 hc hd => ?_⟩
  · have hrun : exec .minOffTimeExpiry s = .next (wakeSleep (s.setPwr fun p => { p with minOff := false })) := by
      rw [show exec .minOffTimeExpiry s = execMinOffTimeExpiry s from rfl, execMinOffTimeExpiry, if_pos hm]
      exact congrArg Host.Outcome.next ((if_neg (by simp [State.setPwr, hs])).trans (if_pos hw))
    obtain ⟨hst, hprev⟩ := pstate_wakeSleep (s.setPwr fun p => { p with minOff := false })
    refine ⟨_, hrun, hst, hprev, ?_⟩
    rw [wakeSleep_frame]
    exact ⟨rfl, rfl, rfl, rfl, rfl, rfl⟩
  · refine ⟨_, ?_, rfl⟩
    rw [show exec .minOffTimeExpiry s = execMinOffTimeExpiry s from rfl, execMinOffTimeExpiry, if_pos hm]
    exact congrArg Host.Outcome.next ((if_neg (by simp [State.setPwr, hs])).trans (if_neg (by simp [State.setPwr, hw])))
  · have hrun : exec .minOffTimeExpiry s = .next (retFalls (s.setPwr fun p => { p with minOff := false })) := by
      rw [show exec .minOffTimeExpiry s = execMinOffTimeExpiry s from rfl, execMinOffTimeExpiry, if_pos hm]
      exact congrArg Host.Outcome.next (if_pos hs)
    refine ⟨_, hrun, (touches_retFalls _).fld (by decide), ?_⟩
    rw [retFalls_frame]
    exact ⟨rfl, rfl, rfl, rfl, rfl⟩
  · have hgo : ¬(!s.pwr.retFall) = true := by simp [hr]
    rw [Goes, show exec .wakePowerUp s = execWakePowerUp s from rfl, execWakePowerUp, if_neg hgo]
    by_cases hs : s.pwr.starting = true
    · refine ⟨_, congrArg Host.Outcome.next (if_pos hs), rfl, rfl, rfl, fun _ k => ?_, fun n => absurd hs (by simp [n])⟩
      exact getD_startDomains k
    · obtain ⟨w, e⟩ := pcieWake_eq ((s.setPins fun p => { p with pwrCoreEn := true }).setPwr fun p => { p with retFall := false })
      exact ⟨_, congrArg Host.Outcome.next ((if_neg hs).trans e), rfl, rfl, rfl, fun n => absurd n hs, fun _ => rfl⟩
  · have hgo : ¬(s.pstate ≠ 10 ∨ s.pwr.from_ = 1 ∨ (!s.pins.pwrCoreEn) = true ∨ s.domOn 11 = true) := by
      simp [hst, hf, hc, hd]
    rw [Goes, show exec .wakeRailTimeout s = execWakeRailTimeout s from rfl, execWakeRailTimeout, if_neg hgo]
    generalize hu : (s.setPins fun p => { p with pwrCoreEn := false, sramRet := true, vid := none, wakeLow := false }) = u
    have hfrom : u.pwr.from_ = s.pwr.from_ := by rw [← hu, State.pwr_setPins]
    refine ⟨((u.goPower u.pwr.from_).setFld R.PWR.FAULT.RAIL_TIMEOUT 1).setFld R.PWR.AVS.VID_NOW 0, rfl, ?_, ?_, ?_, ?_, ?_, State.fld_setFld_mod _ R.PWR.AVS.VID_NOW 0 rfl, ?_⟩
    · refine (State.fld_setFld_ne _ _ (by decide)).trans ((State.fld_setFld_ne _ _ (by decide)).trans ?_)
      rw [hfrom]
      exact State.pstate_goPower u hf16
    · exact (State.fld_setFld_ne _ _ (by decide)).trans (State.fld_setFld_mod _ R.PWR.FAULT.RAIL_TIMEOUT 1 rfl)
    all_goals rw [setFld_frame, setFld_frame, goPower_frame, ← hu]
    all_goals rfl

end Sys2Proof.Machine
end

section
/-! Power domains that go off and come on (R59 to R61). -/

namespace Sys2Proof.Machine

theorem setPwr_frame (s : State) (g : Power → Power) : s.setPwr g = { s with pwr := g s.pwr } := rfl

theorem sFind_sDrop {α : Type} (f : Nat → Bool) (m : Sparse α) {k : Nat} (h : f k = true) : sFind k (sDrop f m) = none := by
  induction m with
  | nil => rfl
  | cons p m ih =>
    by_cases hp : f p.1 = true
    · rw [sDrop, if_pos hp, ih]
    · rw [sDrop, if_neg hp, sFind, if_neg (fun e : p.1 = k => hp (e ▸ h)), ih]

/-- A dropped key reads its default. -/
theorem sGet_sDrop {α : Type} (d : Nat → α) (f : Nat → Bool) (m : Sparse α) {k : Nat} (h : f k = true) :
    sGet d (sDrop f m) k = d k := by
  rw [sGet, sFind_sDrop f m h]

/-! ### A domain goes off (R60) -/

section
variable (s : State) (d : Nat)

/-- The domain's blocks have stopped, its registers are saved and what is not a register of it is lost. -/
def blocksOff : State :=
  let t := saveDomain (stopBlocks s d) d
  clearBlocks (if d = 1 ∧ t.pwr.target = 2 then { t with wakeImg := some t.fw } else t) d

/-- The domain's registers are lost too. -/
def regsDropped : State :=
  { s with
    rf := sDrop (lostWith d) s.rf, sh := sDrop (lostWith d) s.sh
    cap := s.cap.filter fun c => !lostWith d c.key
    latched := s.latched.filter fun k => !lostWith d k
    user := s.user.filter fun u => !userIn d u }

theorem domainOff_eq (h : s.domOn d = true) (h0 : d ≠ 0) : domainOff s d =
    let t := fixedFields ((regsDropped (blocksOff s d) d).setDom d false)
    if d = 1 then t.setPwr fun p => { p with saved := true } else t := by
  rw [domainOff, if_neg (by simp [h, h0])]
  rfl

theorem retention_clearBlocks : (clearBlocks s d).pwr.retention = s.pwr.retention := by
  unfold clearBlocks
  split <;> rfl

/-- The domain's image is in the retention store. -/
theorem retention_blocksOff : ∃ i ∈ (blocksOff s d).pwr.retention, i.domain = d := by
  have himg : ∃ i ∈ (saveDomain (stopBlocks s d) d).pwr.retention, i.domain = d := by
    rw [saveDomain, setPwr_frame]
    exact ⟨_, List.mem_cons_self, rfl⟩
  rw [blocksOff, retention_clearBlocks]
  split <;> exact himg

theorem domOn_setDom_false : (s.setDom d false).domOn d = false := by
  have hoff : (s.setDom d false).pwr.dom.getD d false = false := by
    by_cases hd : d < s.pwr.dom.length
    · exact getD_modifyAt_self _ _ hd
    · exact List.getD_eq_default _ _ (by rw [State.setDom, length_modifyAt]; omega)
  rw [State.domOn, hoff, Bool.false_and]

theorem domOn_of_pwr {s t : State} (h : t.pwr.dom = s.pwr.dom) (h' : t.pwr.isolated = s.pwr.isolated) (d : Nat) :
    t.domOn d = s.domOn d := by rw [State.domOn, State.domOn, h, h']

/-- That PD_MCU was saved is the power controller's own mark. -/
theorem setSaved_leaves (c : Prop) [Decidable c] :
    let t := if c then s.setPwr fun p => { p with saved := true } else s
    t.domOn d = s.domOn d ∧ t.pwr.retention = s.pwr.retention ∧ (∀ k, t.rd k = s.rd k) ∧ ∀ k, t.rdSh k = s.rdSh k := by
  dsimp only
  split
  · exact ⟨rfl, rfl, fun _ => rfl, fun _ => rfl⟩
  · exact ⟨rfl, rfl, fun _ => rfl, fun _ => rfl⟩

/-- What a domain's power-off leaves: the domain off, its image saved, its registers at reset. -/
theorem domainOff_leaves (h : s.domOn d = true) (h0 : d ≠ 0) : (domainOff s d).domOn d = false ∧
    (∃ i ∈ (domainOff s d).pwr.retention, i.domain = d) ∧
    ∀ k, lostWith d k = true → k ∉ fixedKeys →
      (domainOff s d).rd k = regDefault k ∧ (domainOff s d).rdSh k = regDefault k := by
  rw [domainOff_eq s d h h0]
  generalize blocksOff s d = b, retention_blocksOff s d = hb
  obtain ⟨i, hi, hid⟩ := hb
  generalize hu : (regsDropped b d).setDom d false = u
  have hpwr : (fixedFields u).pwr = u.pwr := by rw [fixedFields_frame]
  have hsh : (fixedFields u).sh = u.sh := by rw [fixedFields_frame]
  have hret : u.pwr.retention = b.pwr.retention := by rw [← hu]; rfl
  have hoff : u.domOn d = false := by rw [← hu]; exact domOn_setDom_false ..
  have hrd : ∀ k, lostWith d k = true → u.rd k = regDefault k := fun k hk => by
    rw [← hu]; exact sGet_sDrop _ _ _ hk
  have hrdSh : ∀ k, lostWith d k = true → u.rdSh k = regDefault k := fun k hk => by
    rw [← hu]; exact sGet_sDrop _ _ _ hk
  have hkeys : ∀ k, lostWith d k = true → k ∉ fixedKeys →
      (fixedFields u).rd k = regDefault k ∧ (fixedFields u).rdSh k = regDefault k := fun k hk hf =>
    ⟨(rd_fixedFields hf).trans (hrd k hk), by rw [State.rdSh, hsh]; exact hrdSh k hk⟩
  have hon : (fixedFields u).domOn d = false := (domOn_of_pwr (by rw [hpwr]) (by rw [hpwr]) d).trans hoff
  have hmem : i ∈ (fixedFields u).pwr.retention := by rw [hpwr, hret]; exact hi
  obtain ⟨hdom, hpwr, hrd, hrdSh⟩ := setSaved_leaves (fixedFields u) d (d = 1)
  refine ⟨hdom.trans hon, ⟨i, hpwr ▸ hmem, hid⟩, fun k hk hf => ?_⟩
  exact ⟨(hrd k).trans (hkeys k hk hf).1, (hrdSh k).trans (hkeys k hk hf).2⟩

end

/-! ### A domain comes on (R60, R61) -/

section
variable {s : State} {d : Nat}

/-- The domain has power and what it must build is shown, before its image is replayed. -/
def domainBuilt (s : State) (d : Nat) : State :=
  let s := s.setDom d true
  let s := if d = 11 ∧ s.pstate = 10 then s.setFld R.CLK.PLL_STAT.CORE_SLOW 1 else s
  s.setFlds [(R.GAL.POOL.BUILD0, b2n (s.domOn 3 && !s.gal.built.getD 0 false)),
    (R.GAL.POOL.BUILD1, b2n (s.domOn 4 && !s.gal.built.getD 1 false))]

theorem domainBuilt_of_run (h : s.pstate = 0) (d : Nat) : ∃ a b, domainBuilt s d =
    ((s.setDom d true).setFld R.GAL.POOL.BUILD0 a).setFld R.GAL.POOL.BUILD1 b := by
  have hp : (s.setDom d true).pstate = 0 := h
  have hne : ¬(d = 11 ∧ (s.setDom d true).pstate = 10) := fun c => by rw [hp] at c; exact absurd c.2 (by decide)
  exact ⟨_, _, by rw [domainBuilt, if_neg hne]; rfl⟩

/-- A saved register is replayed: to its shadow where its key says so. -/
def replayReg (s : State) (p : Nat × Word) : State :=
  if shadowKey ≤ p.1 then s.wrSh (p.1 - shadowKey) p.2 else s.wr p.1 p.2

theorem domainOn_eq (s : State) (d : Nat) (corrupt : Bool) : domainOn s d corrupt =
    match (domainBuilt s d).pwr.retention.find? fun i => i.domain == d with
    | none => domainBuilt s d
    | some img =>
      if corrupt then
        ((((domainBuilt s d).setPwr fun p => { p with isolated := modifyAt p.isolated d (fun _ => true) }).setFld
          R.PWR.FAULT.RESTORE_CRC 1).setFlds [(R.SYS.PHASE.PHASE_F, 3), (R.SYS.PHASE.REASON, 3)])
      else
        let t := fixedFields ((img.regs.foldl replayReg (domainBuilt s d)).setPwr fun p =>
          { p with retention := p.retention.filter fun i => i.domain != d })
        if d = 1 then irqRestore t else t := rfl

theorem exec_domainPowerUp (hd : d < 12) (h0 : d ≠ 0) (hc : s.pins.pwrCoreEn = true) (hoff : s.pwr.dom.getD d false = false)
    (hp : s.pstate = 0) (corrupt : Bool) : exec (.domainPowerUp d corrupt) s = .next (domainOn s d corrupt) := by
  have hgo : ¬(d = 0 ∨ 12 ≤ d ∨ (!s.pins.pwrCoreEn) = true ∨ s.pwr.dom.getD d false = true ∨
      (!decide (s.pstate = 0 ∨ s.pstate = 10)) = true) := by
    rintro (c | c | c | c | c)
    · exact h0 c
    · omega
    · simp [hc] at c
    · rw [hoff] at c; cases c
    · simp [hp] at c
  have h10 : ¬s.pstate = 10 := by rw [hp]; decide
  rw [show exec (.domainPowerUp d corrupt) s = execDomainPowerUp d corrupt s from rfl, execDomainPowerUp, if_neg hgo,
    if_neg h10]

theorem foldl_replayReg_frame (l : List (Nat × Word)) (s : State) :
    ∃ rf sh, l.foldl replayReg s = { s with rf := rf, sh := sh } := by
  induction l generalizing s with
  | nil => exact ⟨s.rf, s.sh, rfl⟩
  | cons p l ih =>
    have hp : ∃ rf sh, replayReg s p = { s with rf := rf, sh := sh } := by
      unfold replayReg
      split
      · exact ⟨_, _, rfl⟩
      · exact ⟨_, _, rfl⟩
    obtain ⟨rf, sh, e⟩ := hp
    obtain ⟨rf', sh', e'⟩ := ih (replayReg s p)
    exact ⟨rf', sh', by rw [List.foldl_cons, e', e]⟩

theorem domainBuilt_leaves (hp : s.pstate = 0) (hl : d < s.pwr.dom.length) :
    (domainBuilt s d).pwr = { s.pwr with dom := (domainBuilt s d).pwr.dom } ∧
    (domainBuilt s d).pwr.dom.getD d false = true ∧
    domainBuilt s d = { s with rf := (domainBuilt s d).rf, pwr := (domainBuilt s d).pwr } ∧
    Touches [R.GAL.POOL.BUILD0, R.GAL.POOL.BUILD1] s (domainBuilt s d) := by
  obtain ⟨a, b, e⟩ := domainBuilt_of_run hp d
  rw [e]
  refine ⟨rfl, getD_modifyAt_self _ _ hl, rfl, ?_⟩
  exact touches_setFld (by simp) (touches_setFld (by simp) (touches_rf (t := s) rfl (.refl _ s)))

theorem domainPowerUp_empty_goes (hd : d < 12) (h0 : d ≠ 0) (hc : s.pins.pwrCoreEn = true)
    (hoff : s.pwr.dom.getD d false = false) (hp : s.pstate = 0) (hl : d < s.pwr.dom.length)
    (hr : s.pwr.retention.find? (fun i => i.domain == d) = none) : Goes (.domainPowerUp d false) s fun t =>
      t.pwr.dom.getD d false = true ∧ t = { s with rf := t.rf, pwr := t.pwr } ∧
        Touches [R.GAL.POOL.BUILD0, R.GAL.POOL.BUILD1] s t := by
  obtain ⟨hpwr, hdom, hframe, htouch⟩ := domainBuilt_leaves hp hl
  have hr' : (domainBuilt s d).pwr.retention.find? (fun i => i.domain == d) = none := by rw [hpwr]; exact hr
  refine ⟨domainBuilt s d, ?_, hdom, hframe, htouch⟩
  rw [exec_domainPowerUp hd h0 hc hoff hp, domainOn_eq, hr']

theorem domainPowerUp_replay_goes (hd : d < 12) (h0 : d ≠ 0) (hc : s.pins.pwrCoreEn = true)
    (hoff : s.pwr.dom.getD d false = false) (hp : s.pstate = 0) (hl : d < s.pwr.dom.length) {img : RetImage}
    (hr : s.pwr.retention.find? (fun i => i.domain == d) = some img) (h1 : d ≠ 1) :
    Goes (.domainPowerUp d false) s fun t =>
      t.pwr.dom.getD d false = true ∧ t = { s with rf := t.rf, sh := t.sh, pwr := t.pwr } ∧
        t.pwr.retention = s.pwr.retention.filter (fun i => i.domain != d) ∧
        ∀ k w, img.regs = [(k, w)] → k < shadowKey → k ∉ fixedKeys → t.rd k = w := by
  obtain ⟨hpwr, hdom, hframe, -⟩ := domainBuilt_leaves hp hl
  have hr' : (domainBuilt s d).pwr.retention.find? (fun i => i.domain == d) = some img := by rw [hpwr]; exact hr
  generalize hb : domainBuilt s d = b at hpwr hdom hframe hr'
  have hret : b.pwr.retention = s.pwr.retention := by rw [hpwr]
  obtain ⟨rf, sh, e⟩ := foldl_replayReg_frame img.regs b
  refine ⟨fixedFields ((img.regs.foldl replayReg b).setPwr fun p =>
    { p with retention := p.retention.filter fun i => i.domain != d }), ?_, ?_, ?_, ?_, fun k w hk hlt hf => ?_⟩
  · rw [exec_domainPowerUp hd h0 hc hoff hp, domainOn_eq, hb, hr']
    exact congrArg Host.Outcome.next (if_neg h1)
  · rw [fixedFields_frame, setPwr_frame, e]
    exact hdom
  · rw [fixedFields_frame, setPwr_frame, e, hframe]
  · rw [fixedFields_frame, setPwr_frame, e]
    exact congrArg (List.filter _) hret
  · rw [rd_fixedFields hf, hk, setPwr_frame]
    show (replayReg b (k, w)).rd k = w
    rw [replayReg, if_neg (by show ¬shadowKey ≤ k; omega), State.rd_wr_self]

theorem domainPowerUp_corrupt_goes (hd : d < 12) (h0 : d ≠ 0) (hc : s.pins.pwrCoreEn = true)
    (hoff : s.pwr.dom.getD d false = false) (hp : s.pstate = 0) (hl : d < s.pwr.dom.length)
    (hr : (s.pwr.retention.find? (fun i => i.domain == d)).isSome = true) (hi : d < s.pwr.isolated.length) :
    Goes (.domainPowerUp d true) s fun t =>
      t.pwr.isolated.getD d false = true ∧ t.domOn d = false ∧ t.phase = 3 ∧ t.fld R.SYS.PHASE.REASON = 3 ∧
        t.fld R.PWR.FAULT.RESTORE_CRC = 1 ∧ t = { s with rf := t.rf, pwr := t.pwr } := by
  obtain ⟨img, hr⟩ := Option.isSome_iff_exists.1 hr
  obtain ⟨hpwr, -, hframe, -⟩ := domainBuilt_leaves hp hl
  have hr' : (domainBuilt s d).pwr.retention.find? (fun i => i.domain == d) = some img := by rw [hpwr]; exact hr
  generalize hb : domainBuilt s d = b at hpwr hframe hr'
  generalize hu : (b.setPwr fun p => { p with isolated := modifyAt p.isolated d (fun _ => true) }) = u
  have hiso : u.pwr.isolated.getD d false = true := by
    rw [← hu, setPwr_frame, hpwr]
    exact getD_modifyAt_self _ _ hi
  have hu' : u = { s with rf := u.rf, pwr := u.pwr } := by rw [← hu, setPwr_frame, hframe]
  refine ⟨((u.setFld R.PWR.FAULT.RESTORE_CRC 1).setFld R.SYS.PHASE.PHASE_F 3).setFld R.SYS.PHASE.REASON 3,
    ?_, hiso, ?_, ?_, State.fld_setFld_mod _ _ _ rfl, ?_, ?_⟩
  · rw [exec_domainPowerUp hd h0 hc hoff hp, domainOn_eq, hb, hr', ← hu]
    rfl
  · show (u.pwr.dom.getD d false && !u.pwr.isolated.getD d false) = false
    rw [hiso]
    simp
  · exact (State.fld_setFld_apart _ _ (by decide)).trans (State.fld_setFld_mod _ R.SYS.PHASE.PHASE_F 3 rfl)
  · refine (State.fld_setFld_apart _ _ (by decide)).trans ((State.fld_setFld_apart _ _ (by decide)).trans ?_)
    exact State.fld_setFld_mod _ R.PWR.FAULT.RESTORE_CRC 1 rfl
  · rw [setFld_frame, setFld_frame, setFld_frame, hu']
    rfl

end

/-- Settles O5. -/
theorem demandDomainSwitches : Obligations.DemandDomainSwitches := by
  unfold Obligations.DemandDomainSwitches
  intro s d hd
  refine ⟨fun h3 h11 hp hb hon => ?_, fun hp h0 h11 hk hon => ?_, fun h0 hc hoff hp hl =>
    ⟨domainPowerUp_empty_goes hd h0 hc hoff hp hl, fun img => domainPowerUp_replay_goes hd h0 hc hoff hp hl,
      domainPowerUp_corrupt_goes hd h0 hc hoff hp hl⟩⟩
  · have hkeeps : entryKeeps s d = false := by simp [entryKeeps, hp]
    have hgo : ¬(d = 0 ∨ d = 11 ∨ 12 ≤ d ∨ entryKeeps s d = true) := by
      rw [hkeeps]
      simp
      omega
    have hentry : ¬(s.pstate = 9 ∨ s.pstate = 8 ∧ 3 ≤ d) := by rw [hp]; omega
    refine ⟨domainOff s d, ?_, domainOff_leaves s d hon (by omega)⟩
    rw [show exec (.domainPowerOff d) s = execDomainPowerOff d s from rfl, execDomainPowerOff, if_neg hgo, if_neg hentry,
      if_pos ⟨hp, h3, by simp [hb]⟩]
  · have hgo : ¬(d = 0 ∨ d = 11 ∨ 12 ≤ d ∨ entryKeeps s d = true) := by
      rw [hk]
      simp
      omega
    obtain ⟨hoff, hret, -⟩ := domainOff_leaves s d hon h0
    refine ⟨domainOff s d, ?_, hoff, hret⟩
    rw [show exec (.domainPowerOff d) s = execDomainPowerOff d s from rfl, execDomainPowerOff, if_neg hgo, if_pos hp]

end Sys2Proof.Machine
end

section
/-! The AVS loop, the pins of a brown-out and of PERST_N, and frames in DOZE (R51, R72, R78 to R80, R405). -/

namespace Sys2Proof.Machine

/-! ### Counters with a SAT bit -/

theorem touches_countSat {l : List Fld} {s t : State} {f sat : Fld} (i : Nat) (hf : f ∈ l) (hs : sat ∈ l) (h : Touches l s t) :
    Touches l s (t.countSat f sat i) :=
  touches_ite (touches_setFld hs (touches_count hf h)) (touches_count hf h)

theorem countSat_frame (s : State) (f sat : Fld) (i : Nat) : RfFrame s (s.countSat f sat i) := by
  have hc : RfFrame s (s.count f) := State.count_frame s f
  unfold State.countSat
  dsimp only
  split
  · exact hc.setFld sat _
  · exact hc

/-- The counter of a port with number `i` (R305). -/
def netCounter (p i : Nat) : Fld := { R.NET.FCS_ERR.COUNT p with key := (R.NET.FCS_ERR.COUNT p).key + 4 * i }

def netCountFlds (p i : Nat) : List Fld := [R.NET.STAT.ERR_EV p, netCounter p i, R.NET.SAT.SAT_F p]

theorem touches_netCount (s : State) (p i : Nat) : Touches (netCountFlds p i) s (netCount s p i) := by
  unfold netCount
  refine touches_countSat i (by simp [netCountFlds, netCounter]) (by simp [netCountFlds]) ?_
  exact touches_ite (touches_setFld (by simp [netCountFlds]) (.refl _ s)) (.refl _ s)

theorem netCount_frame (s : State) (p i : Nat) : RfFrame s (netCount s p i) := by
  unfold netCount
  refine RfFrame.trans ?_ (countSat_frame _ _ _ i)
  split
  · exact (RfFrame.refl s).setFld _ _
  · exact .refl s

/-! ### The AVS loop -/

section
variable {s : State}

theorem exec_avsStep_short {slack : Nat} (ample : Bool) (hen : s.flag R.PWR.AVS.EN = true) (hp : s.pstate = 0)
    (htop : s.fld R.PWR.AVS.VID_NOW < s.fld R.PWR.AVS.VID_MAX) (hs : slack < s.fld R.PWR.AVS.MARGIN) :
    exec (.avsStep slack ample) s =
      .next ((s.avsHold (s.fld R.PWR.AVS.VID_NOW + 1)).setPwr fun p => { p with avsShort := false }) := by
  have hgo : ¬((!s.flag R.PWR.AVS.EN) = true ∨ 1 < s.pstate) := by simp [hen, hp]
  have hstuck : (decide (slack < s.fld R.PWR.AVS.MARGIN) &&
      decide (s.fld R.PWR.AVS.VID_MAX ≤ s.fld R.PWR.AVS.VID_NOW)) = false := by simp; omega
  have hshort : decide (slack < s.fld R.PWR.AVS.MARGIN) = true := by simpa using hs
  have hmin : min (s.fld R.PWR.AVS.VID_MAX) (s.fld R.PWR.AVS.VID_NOW + 1) = s.fld R.PWR.AVS.VID_NOW + 1 := by omega
  rw [show exec (.avsStep slack ample) s = execAvsStep slack ample s from rfl, execAvsStep, if_neg hgo]
  dsimp only
  rw [hstuck, if_pos hshort, hmin]
  rfl

theorem avsHold_of_run (hp : s.pstate = 0) (v : Nat) : s.avsHold v = (s.setVid v).setFld R.PWR.VID_RUN.VID_RUN_F v := if_pos hp

theorem avsStep_short_goes {slack : Nat} (ample : Bool) (hen : s.flag R.PWR.AVS.EN = true) (hp : s.pstate = 0)
    (htop : s.fld R.PWR.AVS.VID_NOW < s.fld R.PWR.AVS.VID_MAX) (hs : slack < s.fld R.PWR.AVS.MARGIN) :
    Goes (.avsStep slack ample) s fun t =>
      t.fld R.PWR.AVS.VID_NOW = s.fld R.PWR.AVS.VID_NOW + 1 ∧ t.pins.vid = some (s.fld R.PWR.AVS.VID_NOW + 1) ∧
        t.fld R.PWR.VID_RUN.VID_RUN_F = s.fld R.PWR.AVS.VID_NOW + 1 ∧
        t = { s with rf := t.rf, pwr := t.pwr, pins := { s.pins with vid := t.pins.vid } } ∧
        Touches [R.PWR.AVS.VID_NOW, R.PWR.VID_RUN.VID_RUN_F] s t := by
  have hlt : s.fld R.PWR.AVS.VID_NOW + 1 < 64 := lt_of_le_of_lt htop (State.fld_lt s R.PWR.AVS.VID_MAX)
  refine ⟨_, exec_avsStep_short ample hen hp htop hs, ?_⟩
  rw [avsHold_of_run hp]
  generalize s.fld R.PWR.AVS.VID_NOW + 1 = v at hlt
  refine ⟨?_, rfl, ?_, rfl, ?_⟩
  · rw [State.fld_setPwr, State.fld_setFld_ne _ _ (by decide)]
    exact State.fld_setFld_lt s R.PWR.AVS.VID_NOW (by decide) hlt
  · rw [State.fld_setPwr]
    exact State.fld_setFld_lt _ R.PWR.VID_RUN.VID_RUN_F (by decide) hlt
  · exact touches_setPwr (touches_setFld (by simp) ((touches_setVid s v).mono (by simp))) _

/-! ### PERST_N (R51, R353) -/

theorem exec_perstNAssert_on (h : s.domOn 8 = true) : exec .perstNAssert s = .next (hstPerst s) :=
  congrArg Host.Outcome.next (if_pos h)

theorem touches_tagsRefresh (s : State) : Touches [R.HST.TAGS.INFLIGHT, R.HST.TAGS.PEAK] s (tagsRefresh s) :=
  touches_setFlds (by simp) (.refl _ s)

theorem tagsRefresh_frame (s : State) : RfFrame s (tagsRefresh s) := State.setFlds_frame s _

/-- The link as PERST_N leaves it, before the tags in use are shown. -/
def linkPersted (s : State) : State := s.setFlds [(R.HST.LINK.STATE, 5), (R.HST.LINK.UP, 0), (R.HST.LINK.PERST_EV, 1)]

theorem linkPersted_frame (s : State) : RfFrame s (linkPersted s) := State.setFlds_frame s _

theorem fld_linkPersted (s : State) : (linkPersted s).fld R.HST.LINK.STATE = 5 ∧ (linkPersted s).fld R.HST.LINK.UP = 0 ∧
    (linkPersted s).fld R.HST.LINK.PERST_EV = 1 := by
  rw [linkPersted, State.setFlds_cons, State.setFlds_cons, State.setFlds_cons, State.setFlds_nil]
  refine ⟨?_, ?_, State.fld_setFld_mod _ _ _ rfl⟩
  · exact (State.fld_setFld_apart _ _ (by decide)).trans
      ((State.fld_setFld_apart _ _ (by decide)).trans (State.fld_setFld_mod _ R.HST.LINK.STATE 5 rfl))
  · exact (State.fld_setFld_apart _ _ (by decide)).trans (State.fld_setFld_mod _ R.HST.LINK.UP 0 rfl)

theorem hstPerst_eq (s : State) : ∃ u : State, u.reads = [] ∧ u.pins.perst = true ∧ (hstPerst s = tagsRefresh (linkPersted u) ∨
    hstPerst s = tagsRefresh ((linkPersted u).setFld R.HST.LINK.LINK_EV 1)) := by
  unfold hstPerst
  dsimp only
  generalize List.foldl _ s hstAll = v
  refine ⟨{ v with reads := [], pins := { v.pins with perst := true, wakeLow := false } }, rfl, rfl, ?_⟩
  split
  · exact .inr rfl
  · exact .inl rfl

theorem hstPerst_leaves (s : State) : (hstPerst s).pins.perst = true ∧ (hstPerst s).reads = [] ∧
    (hstPerst s).fld R.HST.LINK.STATE = 5 ∧ (hstPerst s).fld R.HST.LINK.UP = 0 ∧ (hstPerst s).fld R.HST.LINK.PERST_EV = 1 := by
  obtain ⟨u, hreads, hperst, e⟩ := hstPerst_eq s
  obtain ⟨hst, hup, hev⟩ := fld_linkPersted u
  have hf := linkPersted_frame u
  have htags : ∀ v : State, ∀ f : Fld, f.key = R.HST.LINK.reg → (tagsRefresh v).fld f = v.fld f := fun v f hf =>
    (touches_tagsRefresh v).fld (by simp [Fld.apart, hf, R.HST.LINK.reg, R.HST.TAGS.INFLIGHT, R.HST.TAGS.PEAK])
  rcases e with e | e
  · rw [e]
    refine ⟨?_, ?_, (htags _ _ rfl).trans hst, (htags _ _ rfl).trans hup, (htags _ _ rfl).trans hev⟩
    · rw [tagsRefresh_frame, hf, hperst]
    · rw [tagsRefresh_frame, hf, hreads]
  · rw [e]
    refine ⟨?_, ?_, (htags _ _ rfl).trans ?_, (htags _ _ rfl).trans ?_, (htags _ _ rfl).trans ?_⟩
    · rw [tagsRefresh_frame, setFld_frame, hf, hperst]
    · rw [tagsRefresh_frame, setFld_frame, hf, hreads]
    · rw [State.fld_setFld_apart _ _ (by decide), hst]
    · rw [State.fld_setFld_apart _ _ (by decide), hup]
    · rw [State.fld_setFld_apart _ _ (by decide), hev]

end

/-! ### A frame in DOZE (R72) -/

section
variable {s : State} {port : Nat} {raw : List Byte}

/-- The port has counted a frame. -/
def frameCounted (s : State) (port : Nat) (raw : List Byte) : State :=
  { s with net := modifyAt s.net port fun c => { c with
      rxFrames := c.rxFrames + 1, rxBytes := c.rxBytes + raw.length, rxStamp := eventStamp s (decide (port < 2)) } }

/-- A flow's frame in DOZE: a DOZE drop, and the wake where the flow and wake-on-stream are enabled. -/
def dozeDrop (s : State) (port f : Nat) : State :=
  let s := netCount s port 5
  if s.flag (R.RXF.F_CFG.EN f) && s.flag R.PWR.CTRL.WOS_EN then wakeDoze s 0x20 else s

theorem fld_frameCounted (s : State) (port : Nat) (raw : List Byte) (f : Fld) : (frameCounted s port raw).fld f = s.fld f := rfl

theorem macAccepts_frameCounted (s : State) (port : Nat) (raw b : List Byte) (p : Nat) :
    macAccepts (frameCounted s port raw) p b = macAccepts s p b := rfl

theorem classify_frameCounted (s : State) (port : Nat) (raw : List Byte) (p : Nat) (h : NetHdr) :
    classify (frameCounted s port raw) p h = classify s p h := rfl

theorem key_frameCounted (s : State) (port : Nat) (raw : List Byte) (i w : Nat) : (frameCounted s port raw).key i w = s.key i w :=
  rfl

theorem dozeDrop_wakes {f : Nat} (hp : port < 3) (hen : s.flag (R.RXF.F_CFG.EN f) = true)
    (hwos : s.flag R.PWR.CTRL.WOS_EN = true) : (dozeDrop s port f).pstate = 10 ∧
      (dozeDrop s port f).fld R.PWR.STATE.LAST_WAKE = 0x20 ∧ (dozeDrop s port f).pwr.from_ = 1 := by
  have hfld : ∀ g : Fld, g.key < 0xe000 ∨ g.key % 0x1000000 < 0xe000 → (netCount s port 5).fld g = s.fld g := fun g hg =>
    (touches_netCount s port 5).fld (by
      simp only [netCountFlds, netCounter, Fld.apart, R.NET.STAT.ERR_EV, R.NET.FCS_ERR.COUNT, R.NET.SAT.SAT_F,
        List.forall_mem_cons, Bool.or_eq_true, bne_iff_ne]
      refine ⟨.inl (.inl ?_), .inl (.inl ?_), .inl (.inl ?_), fun _ h => by cases h⟩ <;> omega)
  have hen' : (netCount s port 5).flag (R.RXF.F_CFG.EN f) = true := by
    rw [State.flag, hfld _ (.inr (by simp only [R.RXF.F_CFG.EN, itemKey]; omega))]
    exact hen
  have hwos' : (netCount s port 5).flag R.PWR.CTRL.WOS_EN = true := by
    rw [State.flag, hfld _ (.inl (by decide))]
    exact hwos
  have hwake : dozeDrop s port f = wakeDoze (netCount s port 5) 0x20 := if_pos (by rw [hen', hwos']; rfl)
  obtain ⟨ha, -, hb, hc, -⟩ := wakeDoze_leaves (netCount s port 5) 0x20 (by decide)
  rw [hwake]
  exact ⟨ha, hb, hc⟩

theorem exec_dozeFrameRx {i : Nat} (hst : s.pstate = 1) (hdp : port + 1 = s.fld R.PWR.CTRL.DOZE_PORT) (hup : linkUp s port = true)
    (hshort : 64 ≤ raw.length) (hlong : raw.length ≤ s.fld (R.NET.CFG.MAX_DATA port) + 18)
    (hfcs : fromLE (raw.drop (raw.length - 4)) = crc32 (raw.take (raw.length - 4)))
    (hdata : (parseFrame (raw.take (raw.length - 4))).etype ≠ 0x8808) (hmac : macAccepts s port (raw.take (raw.length - 4)) = true)
    (hip : (parseFrame (raw.take (raw.length - 4))).ckBad = false)
    (hcls : (classify s port (parseFrame (raw.take (raw.length - 4)))).1 = some i) (hact : bits (s.key i 0).toNat 10 2 = 0) :
    exec (.dozeFrameRx port raw true) s = .next (dozeDrop (frameCounted s port raw) port (bits (s.key i 0).toNat 0 8)) := by
  have hgo : ¬(s.pstate ≠ 1 ∨ (!decide (port = 2 ∨ port + 1 = s.fld R.PWR.CTRL.DOZE_PORT)) = true ∨
      (!linkUp s port) = true) := by simp [hst, hdp, hup]
  have hgood : ¬(!(true && fromLE (raw.drop (raw.length - 4)) == crc32 (raw.take (raw.length - 4)))) = true := by simp [hfcs]
  have hlen : ¬(raw.length < 64 ∨ (frameCounted s port raw).fld (R.NET.CFG.MAX_DATA port) +
      (if (parseFrame (raw.take (raw.length - 4))).tagged then 22 else 18) < raw.length) := by
    rw [fld_frameCounted]
    split <;> omega
  have hmac' : ¬(!macAccepts (frameCounted s port raw) port (raw.take (raw.length - 4))) = true := by
    rw [macAccepts_frameCounted, hmac]
    decide
  have hip' : ¬(parseFrame (raw.take (raw.length - 4))).ckBad = true := by rw [hip]; decide
  rw [show exec (.dozeFrameRx port raw true) s = execDozeFrameRx port raw true s from rfl, execDozeFrameRx, if_neg hgo]
  refine (if_neg hgood).trans ((if_neg hlen).trans ((if_neg hdata).trans ((if_neg hmac').trans ((if_neg hip').trans ?_))))
  rw [← frameCounted, classify_frameCounted, hcls]
  dsimp only
  rw [key_frameCounted, hact]
  rfl

end

/-- Settles O9. -/
theorem avsPinsAndDozeFrames : Obligations.AvsPinsAndDozeFrames := by
  unfold Obligations.AvsPinsAndDozeFrames
  intro s
  refine ⟨fun slack ample => avsStep_short_goes ample, fun ht hs => ?_, fun h => ?_, fun h => ?_,
    fun port raw i hst hdp hp hup hshort hlong hfcs hdata hmac hip hcls hact hen hwos => ?_⟩
  · have hgo : (s.flag R.MBX.WDOG_CFG.TAKEOVER && !(twinState s == 3 || (twinState s == 1 && twinRole s == 2))) = true := by
      simp [ht, hs]
    exact ⟨_, congrArg Host.Outcome.next (if_pos hgo), rfl⟩
  · exact ⟨_, congrArg Host.Outcome.next (if_neg (by rw [h]; decide)), rfl⟩
  · exact ⟨_, exec_perstNAssert_on h, hstPerst_leaves s⟩
  · exact ⟨_, exec_dozeFrameRx hst hdp hup hshort hlong hfcs hdata hmac hip hcls hact, dozeDrop_wakes hp hen hwos⟩

end Sys2Proof.Machine
end

section
/-! Media clocks: an interval of a free-running MCS, the word clock input and the output pins (R86 to R101, R111). -/

namespace Sys2Proof.Machine

theorem Fld.apart_of_key_ne {f g : Fld} (h : f.key ≠ g.key) : f.apart g = true := by simp [Fld.apart, h]

/-! ### An interval of a free-running MCS -/

section
variable {s : State} {n : Nat}

/-- A free-running MCS as its interval begins: its reference is there and no step is on record. -/
def mcsFreeReady (s : State) (n : Nat) : State :=
  (s.setFlag (R.CLK.MCS_STAT.REF_OK n) true).setMcs n { (s.setFlag (R.CLK.MCS_STAT.REF_OK n) true).mcs n with stepped := false }

/-- What a free-running MCS measures in an interval. -/
def mcsMeasured (s : State) (n : Nat) (err refPpb freq : Int) : State :=
  let f := slewClamp s n refPpb freq
  let free := s.fld (R.CLK.MCS_CFG.REF_TYPE n) == 0
  let s := s.setFlds [(R.CLK.MCS_PHASE.ERR n, ofSigned 32 err), (R.CLK.MCS_STAT.SLEWING n, b2n (f != freq && !free))]
  let m := s.mcs n
  mcsSetRate (s.setMcs n { m with hist := (f :: m.hist).take (2 ^ s.fld (R.CLK.MCS_LOOP.HOLD_AVG n)) }) n f

theorem mcsStep_mcsFreeReady (s : State) (n : Nat) : McsStep [R.CLK.MCS_STAT.REF_OK n] s (mcsFreeReady s n) :=
  ((McsStep.refl _ s).setFlag (by simp) true).setMcs n _

theorem refOk_mcsFreeReady (s : State) (n : Nat) : (mcsFreeReady s n).fld (R.CLK.MCS_STAT.REF_OK n) = 1 := by
  rw [mcsFreeReady, State.fld_setMcs]
  exact State.fld_setFld_mod s (R.CLK.MCS_STAT.REF_OK n) 1 rfl

theorem first_mcsFreeReady (s : State) (n : Nat) : ((mcsFreeReady s n).mcs n).first = (s.mcs n).first := by
  by_cases hn : n < s.mcss.length
  · rw [mcsFreeReady, State.mcs_setMcs_self _ (by exact hn)]
    rfl
  · rw [mcsFreeReady, State.setMcs, modifyAt_of_length_le _ (by show s.mcss.length ≤ n; omega)]
    rfl

theorem refType_mcsFreeReady (s : State) (n : Nat) :
    (mcsFreeReady s n).fld (R.CLK.MCS_CFG.REF_TYPE n) = s.fld (R.CLK.MCS_CFG.REF_TYPE n) :=
  (mcsStep_mcsFreeReady s n).fld (by simp [Fld.apart, R.CLK.MCS_CFG.REF_TYPE, R.CLK.MCS_STAT.REF_OK])

theorem mcsState_mcsFreeReady (s : State) (n : Nat) : (mcsFreeReady s n).mcsState n = s.mcsState n :=
  (mcsStep_mcsFreeReady s n).fld (by simp [Fld.apart, R.CLK.MCS_STAT.STATE, R.CLK.MCS_STAT.REF_OK])

/-- What an interval does to a free-running MCS in QUALIFY and in ACQUIRE (R87, R90). -/
theorem mcsInterval_free (err refPpb freq : Int) (ht : s.fld (R.CLK.MCS_CFG.REF_TYPE n) = 0)
    (hstep : (s.mcs n).stepped = false) (hpll : s.flag R.CLK.PLL_STAT.REF_LOCK = true) :
    (s.mcsState n = mcsQualify → (s.mcs n).first = false →
      mcsInterval s n err refPpb freq = mcsGo (mcsFreeReady s n) n mcsAcquire) ∧
    (s.mcsState n = mcsAcquire →
      mcsInterval s n err refPpb freq = mcsGo (mcsMeasured (mcsFreeReady s n) n err refPpb freq) n mcsLocked) := by
  have hfar : refFar s n refPpb = false := by simp [refFar, ht]
  have hq : refQualified s n = true := by simp [refQualified, ht]
  have hready : (s.setFlag (R.CLK.MCS_STAT.REF_OK n) (true && !false)).setMcs n
      { (s.setFlag (R.CLK.MCS_STAT.REF_OK n) (true && !false)).mcs n with stepped := false } = mcsFreeReady s n := rfl
  have hfirst := first_mcsFreeReady s n
  have ht' := (refType_mcsFreeReady s n).trans ht
  refine ⟨fun h hf => ?_, fun h => ?_⟩
  · rw [mcsInterval, if_neg (by rw [h]; decide)]
    dsimp only
    rw [hfar, if_neg Bool.false_ne_true, hq, hstep, hpll, if_pos h, hready, if_pos (by decide), if_neg (by rw [hfirst, hf]; decide)]
  · rw [mcsInterval, if_neg (by rw [h]; decide)]
    dsimp only
    rw [hfar, if_neg Bool.false_ne_true, hq, hstep, hpll, hready, if_neg (by rw [h]; decide), if_pos h,
      if_neg (by decide), if_pos (by rw [ht']; rfl)]
    rfl

/-- A move to ACQUIRE leaves what the reference shows. -/
theorem refOk_mcsGo_acquire (s : State) (n : Nat) :
    (mcsGo s n mcsAcquire).fld (R.CLK.MCS_STAT.REF_OK n) = s.fld (R.CLK.MCS_STAT.REF_OK n) := by
  unfold mcsGo
  dsimp only
  rw [if_neg (by decide), if_neg (by decide), if_pos rfl, State.fld_setFld_above _ _ rfl, State.fld_setMcs,
    State.fld_setFld_above _ _ rfl]
  split
  · rfl
  · refine (EvtStep.event s _ _).touches.fld ?_
    simp [evtFlds, Fld.apart, R.CLK.MCS_STAT.REF_OK, R.MBX.STAT.EVT_PENDING, R.MBX.RING_STAT.EVT_LOST]

/-- A move to LOCKED leaves the MCS's rate. -/
theorem offset_mcsGo_locked (s : State) (n : Nat) :
    (mcsGo s n mcsLocked).fld (R.CLK.MCS_FREQ.OFFSET n) = s.fld (R.CLK.MCS_FREQ.OFFSET n) := by
  have hne : ∀ v : Nat, ∀ g : Fld, g.key = R.CLK.MCS_STAT.reg n → ∀ u : State,
      (u.setFld g v).fld (R.CLK.MCS_FREQ.OFFSET n) = u.fld (R.CLK.MCS_FREQ.OFFSET n) := fun v g hg u =>
    State.fld_setFld_ne u v (by rw [hg]; simp only [R.CLK.MCS_FREQ.OFFSET, R.CLK.MCS_STAT.reg]; omega)
  unfold mcsGo
  dsimp only
  rw [if_pos rfl, hne _ _ rfl, State.fld_setMcs, hne _ _ rfl]
  split
  · rfl
  · refine (EvtStep.event s _ _).touches.fld ?_
    simp [evtFlds, Fld.apart, R.CLK.MCS_FREQ.OFFSET, R.MBX.STAT.EVT_PENDING, R.MBX.RING_STAT.EVT_LOST]
    omega

theorem locked_mcsGo_locked {s : State} {n : Nat} (h : n < s.mcss.length) : ((mcsGo s n mcsLocked).mcs n).locked = true := by
  have hlen : n < (if s.mcsState n = mcsLocked then s
      else s.event 0xE040 [byteOf n, byteOf (s.mcsState n), byteOf mcsLocked]).mcss.length := by
    split
    · exact h
    · rw [(EvtStep.event s _ _).frame]
      exact h
  unfold mcsGo
  dsimp only
  rw [if_pos rfl, State.mcs_setFld, State.mcs_setMcs_self _ (by exact hlen)]

theorem mcsStep_mcsMeasured (s : State) (n : Nat) (err refPpb freq : Int) :
    McsStep [R.CLK.MCS_PHASE.ERR n, R.CLK.MCS_STAT.SLEWING n, R.CLK.MCS_FREQ.OFFSET n] s (mcsMeasured s n err refPpb freq) :=
  mcsStep_mcsSetRate (((McsStep.refl _ s).setFlds (by simp)).setMcs n _) (by simp) _

theorem err_mcsMeasured (s : State) (n : Nat) (err refPpb freq : Int) :
    (mcsMeasured s n err refPpb freq).fld (R.CLK.MCS_PHASE.ERR n) = ofSigned 32 err := by
  have hlt : ofSigned 32 err < 2 ^ 32 := by unfold ofSigned; omega
  have hne : ∀ g : Fld, g.key ≠ (R.CLK.MCS_PHASE.ERR n).key → ∀ u : State, ∀ v,
      (u.setFld g v).fld (R.CLK.MCS_PHASE.ERR n) = u.fld (R.CLK.MCS_PHASE.ERR n) := fun g hg u v =>
    State.fld_setFld_ne u v (Ne.symm hg)
  unfold mcsMeasured
  dsimp only
  rw [mcsSetRate, hne _ (by simp only [R.CLK.MCS_PHASE.ERR, R.CLK.MCS_FREQ.OFFSET]; omega), State.fld_setMcs, mcsHere,
    State.fld_setMcs, State.fld_setMcs, State.setFlds_cons, State.setFlds_cons, State.setFlds_nil,
    hne _ (by simp only [R.CLK.MCS_PHASE.ERR, R.CLK.MCS_STAT.SLEWING]; omega)]
  exact State.fld_setFld_lt s (R.CLK.MCS_PHASE.ERR n) (Nat.le_of_ble_eq_true rfl) hlt

theorem offset_mcsMeasured {s : State} (n : Nat) (err refPpb freq : Int) (ht : s.fld (R.CLK.MCS_CFG.REF_TYPE n) = 0) :
    (mcsMeasured s n err refPpb freq).fld (R.CLK.MCS_FREQ.OFFSET n) = 0 := by
  have hslew : slewClamp s n refPpb freq = 0 := if_pos ht
  unfold mcsMeasured
  dsimp only
  rw [hslew, mcsSetRate]
  exact (State.fld_setFld_mod _ (R.CLK.MCS_FREQ.OFFSET n) _ rfl).trans rfl

theorem mcsDetectorInterval_free {s : State} {n : Nat} (err refPpb freq : Int) (ht : s.fld (R.CLK.MCS_CFG.REF_TYPE n) = 0)
    (hstep : (s.mcs n).stepped = false) (hpll : s.flag R.CLK.PLL_STAT.REF_LOCK = true) :
    (s.mcsState n = mcsQualify → (s.mcs n).first = false → ∃ u, exec (.mcsDetectorInterval n err refPpb freq) s =
      .next (follow s u) ∧ u.mcsState n = mcsAcquire ∧ u.fld (R.CLK.MCS_STAT.REF_OK n) = 1) ∧
    (s.mcsState n = mcsAcquire → n < s.mcss.length → ∃ u, exec (.mcsDetectorInterval n err refPpb freq) s =
      .next (follow s u) ∧ u.mcsState n = mcsLocked ∧ (u.mcs n).locked = true ∧
        u.fld (R.CLK.MCS_STAT.LOCK_EV n) = 1 ∧ u.fld (R.CLK.MCS_PHASE.ERR n) = ofSigned 32 err ∧
        u.fld (R.CLK.MCS_FREQ.OFFSET n) = 0) := by
  obtain ⟨hqual, hacq⟩ := mcsInterval_free err refPpb freq ht hstep hpll
  have hready := mcsStep_mcsFreeReady s n
  refine ⟨fun h hf => ⟨_, rfl, ?_⟩, fun h hn => ⟨_, rfl, ?_⟩⟩
  · rw [hqual h hf]
    exact ⟨mcsState_mcsGo _ n (by decide), (refOk_mcsGo_acquire _ n).trans (refOk_mcsFreeReady s n)⟩
  · rw [hacq h]
    have hmeas := mcsStep_mcsMeasured (mcsFreeReady s n) n err refPpb freq
    have hlen : n < (mcsMeasured (mcsFreeReady s n) n err refPpb freq).mcss.length := by
      rw [hmeas.length, hready.length]
      exact hn
    refine ⟨mcsState_mcsGo _ n (by decide), locked_mcsGo_locked hlen, lockEv_mcsGo_locked _ n, ?_, ?_⟩
    · refine ((mcsStep_mcsGo _ n mcsLocked).fld (mcsFlds_apart ?_ ?_ ?_ ?_)).trans (err_mcsMeasured ..)
      all_goals simp only [R.CLK.MCS_PHASE.ERR, R.CLK.MCS_STAT.reg, R.CLK.MCS_FREQ.reg, R.MBX.STAT.reg, R.MBX.RING_STAT.reg]
      all_goals omega
    · exact (offset_mcsGo_locked _ n).trans (offset_mcsMeasured n err refPpb freq ((refType_mcsFreeReady s n).trans ht))

end

/-! ### The word clock input (R101, R111) -/

section
variable {s : State}

def wclkFlds : List Fld := [R.CLK.WCLK_STAT.PRESENT, R.CLK.WCLK_STAT.RATE_DET, R.CLK.WCLK_STAT.PERIOD]

/-- What WCLK_IN shows once it has qualified. -/
def wclkShown (s : State) (rate period : Nat) : State :=
  ((s.setFld R.CLK.WCLK_STAT.PRESENT 1).setFld R.CLK.WCLK_STAT.RATE_DET rate).setFld R.CLK.WCLK_STAT.PERIOD period

theorem wclkQualify_eq {rate : Nat} (period : Nat) (hr : rate < 6)
    (hp : s.flag R.CLK.WCLK_STAT.PRESENT = true → s.fld R.CLK.WCLK_STAT.RATE_DET = rate) :
    wclkQualify rate period s = wclkShown s rate period := by
  refine if_neg ?_
  rintro (c | ⟨c, d⟩)
  · omega
  · exact d (hp c)

theorem wclkShown_leaves (s : State) {rate : Nat} (period : Nat) (hr : rate < 6) :
    (wclkShown s rate period).fld R.CLK.WCLK_STAT.PRESENT = 1 ∧ (wclkShown s rate period).fld R.CLK.WCLK_STAT.RATE_DET = rate ∧
      (wclkShown s rate period).fld R.CLK.WCLK_STAT.PERIOD = period % 2 ^ R.CLK.WCLK_STAT.PERIOD.w ∧
      RfFrame s (wclkShown s rate period) ∧
      Touches [R.CLK.WCLK_STAT.PRESENT, R.CLK.WCLK_STAT.RATE_DET, R.CLK.WCLK_STAT.PERIOD] s (wclkShown s rate period) := by
  refine ⟨?_, ?_, State.fld_setFld_mod _ _ _ rfl, (((RfFrame.refl s).setFld _ _).setFld _ _).setFld _ _,
    touches_setFld (by simp) (touches_setFld (by simp) (touches_setFld (by simp) (.refl _ s)))⟩
  · rw [wclkShown, State.fld_setFld_below _ _ rfl, State.fld_setFld_below _ _ rfl]
    exact State.fld_setFld_mod s R.CLK.WCLK_STAT.PRESENT 1 rfl
  · rw [wclkShown, State.fld_setFld_below _ _ rfl]
    exact State.fld_setFld_lt _ R.CLK.WCLK_STAT.RATE_DET (by decide) (by show rate < 8; omega)

/-- Whether WCLK_IN steers a PTI. -/
def wclkSteers (s : State) (n : Nat) : Bool :=
  s.flag (R.TIME.PTI_CFG.EN n) && s.fld (R.TIME.PTI_CFG.ROLE n) == 2 && s.fld (R.TIME.PTI_CFG.GM_SRC n) == 2 &&
    s.flag (R.TIME.PTI_SERVO.EN n) && decide (0 < s.fld R.CLK.WCLK_STAT.PERIOD)

/-- The addend at which a PTI counts 1 / fs in the measured period. -/
def wclkAddend (s : State) : Nat :=
  1000000000 * nsUnit / (rateHz (s.fld R.CLK.WCLK_STAT.RATE_DET) * s.fld R.CLK.WCLK_STAT.PERIOD)

/-- WCLK_IN steers one PTI, by what `s` shows. -/
def wclkSteerOne (s t : State) (n : Nat) : State := if wclkSteers s n then t.setAddend n (wclkAddend s) else t

theorem grandHeld_eq {s t : State} (h : t.pstate = s.pstate) : grandHeld t = grandHeld s := by rw [grandHeld, h, grandHeld]

/-- From `s` to `t` only addends have moved. -/
def AddendsOnly (s t : State) : Prop := ∀ f : Fld, (∀ n, f.key ≠ R.TIME.PTI_ADDEND_INT.reg n ∧ f.key ≠ R.TIME.PTI_ADDEND_FRAC.reg n) →
  t.fld f = s.fld f

theorem addendsOnly_setAddend {t : State} (h : AddendsOnly s t) (n a : Nat) : AddendsOnly s (t.setAddend n a) := fun f hf => by
  rw [← h f hf]
  refine (State.touches_setAddend (l := [R.TIME.PTI_ADDEND_INT.INT n, R.TIME.PTI_ADDEND_FRAC.FRAC n]) t a (by simp) (by simp)).fld ?_
  intro g hg
  simp only [List.mem_cons, List.not_mem_nil, or_false] at hg
  rcases hg with rfl | rfl
  · exact Fld.apart_of_key_ne (hf n).1
  · exact Fld.apart_of_key_ne (hf n).2

theorem AddendsOnly.refl (s : State) : AddendsOnly s s := fun _ _ => rfl

theorem AddendsOnly.flag {t : State} (h : AddendsOnly s t) {f : Fld}
    (hf : ∀ n, f.key ≠ R.TIME.PTI_ADDEND_INT.reg n ∧ f.key ≠ R.TIME.PTI_ADDEND_FRAC.reg n) : t.flag f = s.flag f := by
  rw [State.flag, h f hf, State.flag]

/-- The steering of a PTI as the model's fold writes it. -/
def wclkSteerStep (per : Nat) (t : State) (n : Nat) : State :=
  if t.flag (R.TIME.PTI_CFG.EN n) && t.fld (R.TIME.PTI_CFG.ROLE n) == 2 && t.fld (R.TIME.PTI_CFG.GM_SRC n) == 2 &&
      t.flag (R.TIME.PTI_SERVO.EN n) && decide (0 < per) then
    t.setAddend n (1000000000 * nsUnit / (rateHz (t.fld R.CLK.WCLK_STAT.RATE_DET) * per))
  else t

theorem wclkSteer_eq (h : grandHeld s = false) :
    wclkSteer s = [0, 1, 2, 3].foldl (wclkSteerStep (s.fld R.CLK.WCLK_STAT.PERIOD)) s := by
  rw [wclkSteer, if_neg (by rw [h]; decide)]
  rfl

theorem wclkSteerStep_eq {t : State} (h : AddendsOnly s t) (n : Nat) :
    wclkSteerStep (s.fld R.CLK.WCLK_STAT.PERIOD) t n = wclkSteerOne s t n := by
  have hcfg : ∀ f : Fld, f.key = R.TIME.PTI_CFG.reg n ∨ f.key = R.TIME.PTI_SERVO.reg n ∨ f.key = R.CLK.WCLK_STAT.reg →
      ∀ m, f.key ≠ R.TIME.PTI_ADDEND_INT.reg m ∧ f.key ≠ R.TIME.PTI_ADDEND_FRAC.reg m := fun f hf m => by
    simp only [R.TIME.PTI_CFG.reg, R.TIME.PTI_SERVO.reg, R.CLK.WCLK_STAT.reg, R.TIME.PTI_ADDEND_INT.reg,
      R.TIME.PTI_ADDEND_FRAC.reg] at hf ⊢
    omega
  rw [wclkSteerStep, wclkSteerOne, wclkSteers, wclkAddend, h.flag (hcfg _ (.inl rfl)), h _ (hcfg (R.TIME.PTI_CFG.ROLE n) (.inl rfl)),
    h _ (hcfg (R.TIME.PTI_CFG.GM_SRC n) (.inl rfl)), h.flag (hcfg _ (.inr (.inl rfl))),
    h _ (hcfg R.CLK.WCLK_STAT.RATE_DET (.inr (.inr rfl)))]

theorem addendsOnly_wclkSteerOne {t : State} (h : AddendsOnly s t) (n : Nat) : AddendsOnly s (wclkSteerOne s t n) := by
  unfold wclkSteerOne
  split
  · exact addendsOnly_setAddend h n _
  · exact h

theorem foldl_wclkSteerStep (l : List Nat) {t : State} (h : AddendsOnly s t) :
    l.foldl (wclkSteerStep (s.fld R.CLK.WCLK_STAT.PERIOD)) t = l.foldl (wclkSteerOne s) t ∧
      AddendsOnly s (l.foldl (wclkSteerOne s) t) := by
  induction l generalizing t with
  | nil => exact ⟨by rw [List.foldl_nil, List.foldl_nil], h⟩
  | cons n l ih =>
    rw [List.foldl_cons, List.foldl_cons, wclkSteerStep_eq h n]
    exact ih (addendsOnly_wclkSteerOne h n)

theorem foldl_wclkSteerOne_idle (l : List Nat) (hl : ∀ n ∈ l, wclkSteers s n = false) (t : State) :
    l.foldl (wclkSteerOne s) t = t := by
  induction l generalizing t with
  | nil => rfl
  | cons n l ih =>
    rw [List.foldl_cons, wclkSteerOne, if_neg (by rw [hl n List.mem_cons_self]; decide)]
    exact ih (fun m hm => hl m (List.mem_cons_of_mem _ hm)) t

theorem addend_wclkSteerOne_ne {n m : Nat} (h : m ≠ n) (t : State) : (wclkSteerOne s t n).addend m = t.addend m := by
  unfold wclkSteerOne
  split
  · have hfld : ∀ f : Fld, f.key = R.TIME.PTI_ADDEND_INT.reg m ∨ f.key = R.TIME.PTI_ADDEND_FRAC.reg m →
        (t.setAddend n (wclkAddend s)).fld f = t.fld f := fun f hf =>
      (State.touches_setAddend (l := [R.TIME.PTI_ADDEND_INT.INT n, R.TIME.PTI_ADDEND_FRAC.FRAC n]) t _ (by simp) (by simp)).fld (by
        simp only [R.TIME.PTI_ADDEND_INT.reg, R.TIME.PTI_ADDEND_FRAC.reg] at hf
        simp only [List.forall_mem_cons, Fld.apart, R.TIME.PTI_ADDEND_INT.INT, R.TIME.PTI_ADDEND_FRAC.FRAC, Bool.or_eq_true,
          bne_iff_ne]
        exact ⟨.inl (.inl (by omega)), .inl (.inl (by omega)), fun _ h => by cases h⟩)
    rw [State.addend, hfld _ (.inl rfl), hfld _ (.inr rfl), State.addend]
  · rfl

theorem addend_foldl_wclkSteerOne {n : Nat} (hs : wclkSteers s n = true) (l : List Nat) (t : State)
    (h : n ∈ l ∨ t.addend n = addendClamp (wclkAddend s)) : (l.foldl (wclkSteerOne s) t).addend n = addendClamp (wclkAddend s) := by
  induction l generalizing t with
  | nil => exact h.resolve_left (List.not_mem_nil)
  | cons m l ih =>
    rw [List.foldl_cons]
    refine ih _ ?_
    by_cases e : m = n
    · subst e
      refine .inr ?_
      rw [wclkSteerOne, if_pos hs]
      exact State.addend_setAddend_self ..
    · rcases h with h | h
      · exact .inl ((List.mem_cons.1 h).resolve_left (Ne.symm e))
      · exact .inr ((addend_wclkSteerOne_ne (Ne.symm e) t).trans h)

theorem wclkSteer_idle (h : grandHeld s = true ∨ ∀ n, n < 4 → s.fld (R.TIME.PTI_CFG.GM_SRC n) ≠ 2) : wclkSteer s = s := by
  by_cases hg : grandHeld s = true
  · exact if_pos hg
  · have hsrc := h.resolve_left hg
    have hidle : ∀ n ∈ [0, 1, 2, 3], wclkSteers s n = false := fun n hn => by
      have hn4 : n < 4 := by simp at hn; omega
      simp [wclkSteers, hsrc n hn4]
    rw [wclkSteer_eq (by simpa using hg), (foldl_wclkSteerStep _ (AddendsOnly.refl s)).1]
    exact foldl_wclkSteerOne_idle _ hidle s

theorem wclkInQualified_goes {rate period : Nat} (hr : rate < 6)
    (hp : s.flag R.CLK.WCLK_STAT.PRESENT = true → s.fld R.CLK.WCLK_STAT.RATE_DET = rate)
    (h : grandHeld s = true ∨ ∀ n, n < 4 → s.fld (R.TIME.PTI_CFG.GM_SRC n) ≠ 2) :
    Goes (.wclkInQualified rate period) s fun t => t = { s with rf := t.rf } ∧
      t.fld R.CLK.WCLK_STAT.PRESENT = 1 ∧ t.fld R.CLK.WCLK_STAT.RATE_DET = rate ∧
        t.fld R.CLK.WCLK_STAT.PERIOD = period % 2 ^ R.CLK.WCLK_STAT.PERIOD.w ∧
        Touches [R.CLK.WCLK_STAT.PRESENT, R.CLK.WCLK_STAT.RATE_DET, R.CLK.WCLK_STAT.PERIOD] s t := by
  obtain ⟨hpres, hrate, hper, hframe, htouch⟩ := wclkShown_leaves s period hr
  refine ⟨wclkShown s rate period, ?_, hframe, hpres, hrate, hper, htouch⟩
  refine congrArg Host.Outcome.next ?_
  rw [wclkQualify_eq period hr hp]
  refine wclkSteer_idle ?_
  rcases h with h | h
  · exact .inl ((grandHeld_eq (htouch.fld (by decide))).trans h)
  · refine .inr fun n hn => ?_
    rw [htouch.fld (by simp [Fld.apart, R.TIME.PTI_CFG.GM_SRC, R.CLK.WCLK_STAT.PRESENT, R.CLK.WCLK_STAT.RATE_DET,
      R.CLK.WCLK_STAT.PERIOD]; omega)]
    exact h n hn

theorem wclkInQualified_steers_goes {n rate period : Nat} (hn : n < 4) (hr : rate < 6)
    (hp : s.flag R.CLK.WCLK_STAT.PRESENT = false) (hg : grandHeld s = false) (h0 : 0 < period)
    (hw : period < 2 ^ R.CLK.WCLK_STAT.PERIOD.w) (hen : s.flag (R.TIME.PTI_CFG.EN n) = true)
    (hrole : s.fld (R.TIME.PTI_CFG.ROLE n) = 2) (hsrc : s.fld (R.TIME.PTI_CFG.GM_SRC n) = 2)
    (hservo : s.flag (R.TIME.PTI_SERVO.EN n) = true) : Goes (.wclkInQualified rate period) s fun t =>
      t.fld R.CLK.WCLK_STAT.RATE_DET = rate ∧ t.addend n = addendClamp (1000000000 * nsUnit / (rateHz rate * period)) := by
  obtain ⟨-, hrate, hper, -, htouch⟩ := wclkShown_leaves s period hr
  refine ⟨wclkSteer (wclkShown s rate period), ?_, ?_⟩
  · refine congrArg Host.Outcome.next ?_
    rw [wclkQualify_eq period hr (by simp [hp])]
  generalize wclkShown s rate period = u at hrate hper htouch
  rw [Nat.mod_eq_of_lt hw] at hper
  have hpti : ∀ f : Fld, f.key = R.TIME.PTI_CFG.reg n ∨ f.key = R.TIME.PTI_SERVO.reg n → u.fld f = s.fld f := fun f hf =>
    htouch.fld (by
      simp only [R.TIME.PTI_CFG.reg, R.TIME.PTI_SERVO.reg] at hf
      simp only [List.forall_mem_cons, Fld.apart, R.CLK.WCLK_STAT.PRESENT, R.CLK.WCLK_STAT.RATE_DET, R.CLK.WCLK_STAT.PERIOD,
        Bool.or_eq_true, bne_iff_ne]
      exact ⟨.inl (.inl (by omega)), .inl (.inl (by omega)), .inl (.inl (by omega)), fun _ h => by cases h⟩)
  have hsteers : wclkSteers u n = true := by
    rw [wclkSteers, State.flag, State.flag, hpti _ (.inl rfl), hpti _ (.inl rfl), hpti _ (.inl rfl), hpti _ (.inr rfl), hrole,
      hsrc, hper, ← State.flag, ← State.flag, hen, hservo]
    simp [h0]
  have hg' : grandHeld u = false := (grandHeld_eq (htouch.fld (by decide))).trans hg
  obtain ⟨heq, honly⟩ := foldl_wclkSteerStep [0, 1, 2, 3] (AddendsOnly.refl u)
  rw [wclkSteer_eq hg', heq]
  refine ⟨(honly _ fun m => ?_).trans hrate, ?_⟩
  · simp only [R.CLK.WCLK_STAT.RATE_DET, R.TIME.PTI_ADDEND_INT.reg, R.TIME.PTI_ADDEND_FRAC.reg]
    omega
  · rw [addend_foldl_wclkSteerOne hsteers _ _ (.inl (by simp; omega)), wclkAddend, hrate, hper]

/-! ### The loss of WCLK_IN -/

theorem touches_latchOnce {l : List Fld} {s t : State} {k : Nat} {fs : List (Fld × Nat)} (hf : ∀ p ∈ fs, p.1 ∈ l)
    (h : Touches l s t) : Touches l s (t.latchOnce k fs) :=
  touches_ite h (touches_rf (t := t.setFlds fs) rfl (touches_setFlds hf h))

/-- The fields of the guard's counter `i` and of its last detection. -/
def grdFlds (i : Nat) : List Fld :=
  [{ R.GRD.LANE_CNT.COUNT with key := if i < 16 then R.GRD.TDM_CNT.reg i else R.GRD.LANE_CNT.reg + 4 * (i - 16) }, R.GRD.SAT.SAT_F,
    R.GRD.LAST.CLASS, R.GRD.LAST.INDEX, R.GRD.LAST.PIN, R.GRD.LAST.KIND]

theorem touches_grdCount {l : List Fld} {s t : State} (i : Nat) (hl : ∀ f ∈ grdFlds i, f ∈ l) (h : Touches l s t) :
    Touches l s (grdCount t i) :=
  touches_countSat i (hl _ (by simp [grdFlds])) (hl _ (by simp [grdFlds])) h

theorem touches_grdLast {l : List Fld} {s t : State} (i cls idx pin kind : Nat) (hl : ∀ f ∈ grdFlds i, f ∈ l) (h : Touches l s t) :
    Touches l s (grdLast t cls idx pin kind) :=
  touches_latchOnce (fun p hp => hl _ (by
    simp only [List.mem_cons, List.not_mem_nil, or_false] at hp
    rcases hp with rfl | rfl | rfl | rfl <;> simp [grdFlds])) h

theorem touches_tioDetect (s : State) (pin kind : Nat) :
    Touches (R.GRD.TIO_STAT.TIO_EV :: grdFlds 17) s (tioDetect s pin kind) :=
  touches_ite (touches_grdLast 17 _ _ _ _ (fun _ h => List.mem_cons_of_mem _ h)
    (touches_grdCount 17 (fun _ h => List.mem_cons_of_mem _ h) (touches_setFld List.mem_cons_self (.refl _ s)))) (.refl _ s)

/-- REF_OK of some MCSs falls and nothing else. -/
theorem refFalls_frame (s : State) : RfFrame s (refFalls s) ∧
    ∀ f : Fld, (∀ n, f.apart (R.CLK.MCS_STAT.REF_OK n) = true) → (refFalls s).fld f = s.fld f := by
  unfold refFalls
  generalize List.range 8 = l
  induction l generalizing s with
  | nil => exact ⟨.refl s, fun _ _ => rfl⟩
  | cons n l ih =>
    rw [List.foldl_cons]
    split
    · obtain ⟨hframe, hfld⟩ := ih (s.setFld (R.CLK.MCS_STAT.REF_OK n) 0)
      exact ⟨((RfFrame.refl s).setFld _ _).trans hframe, fun f hf => (hfld f hf).trans (State.fld_setFld_apart _ _ (hf n))⟩
    · exact ih s

theorem wclkInLoss_goes (h : s.flag R.CLK.WCLK_STAT.PRESENT = true) : Goes .wclkInLoss s fun t =>
    t.fld R.CLK.WCLK_STAT.PRESENT = 0 ∧ t.fld R.CLK.WCLK_STAT.RATE_DET = 7 ∧ t.fld R.CLK.WCLK_STAT.LOSS_EV = 1 ∧
      t.fld R.CLK.WCLK_STAT.PERIOD = 0 := by
  have hshow : ∀ u : State, ∀ f : Fld, f.key = R.CLK.WCLK_STAT.reg → (tioDetect (refFalls u) 0 9).fld f = u.fld f := fun u f hf => by
    refine ((touches_tioDetect (refFalls u) 0 9).fld ?_).trans ((refFalls_frame u).2 f fun n => Fld.apart_of_key_ne ?_)
    · intro g hg
      refine Fld.apart_of_key_ne ?_
      rw [hf]
      revert g
      decide
    · rw [hf]
      simp only [R.CLK.WCLK_STAT.reg, R.CLK.MCS_STAT.REF_OK]
      omega
  refine ⟨_, if_pos h, ?_⟩
  show (tioDetect (refFalls _) 0 9).fld _ = _ ∧ (tioDetect (refFalls _) 0 9).fld _ = _ ∧
    (tioDetect (refFalls _) 0 9).fld _ = _ ∧ (tioDetect (refFalls _) 0 9).fld _ = _
  rw [hshow _ _ rfl, hshow _ _ rfl, hshow _ _ rfl, hshow _ _ rfl, State.setFlds_cons, State.setFlds_cons, State.setFlds_cons,
    State.setFlds_cons, State.setFlds_nil]
  refine ⟨?_, ?_, ?_, State.fld_setFld_mod _ R.CLK.WCLK_STAT.PERIOD 0 rfl⟩
  · rw [State.fld_setFld_below _ _ rfl, State.fld_setFld_below _ _ rfl, State.fld_setFld_below _ _ rfl]
    exact State.fld_setFld_mod s R.CLK.WCLK_STAT.PRESENT 0 rfl
  · rw [State.fld_setFld_below _ _ rfl, State.fld_setFld_below _ _ rfl]
    exact State.fld_setFld_mod _ R.CLK.WCLK_STAT.RATE_DET 7 rfl
  · rw [State.fld_setFld_below _ _ rfl]
    exact State.fld_setFld_mod _ R.CLK.WCLK_STAT.LOSS_EV 1 rfl

/-! ### The output pins (R99, R100) -/

theorem clkOutputSwitch_goes {pin : Nat} (hp : pin < s.pins.clkOut.length) : Goes (.clkOutputSwitch pin) s fun t =>
    t = { s with pins := { s.pins with clkOut := t.pins.clkOut } } ∧
      (outLow s pin = true → t.pins.clkOut.getD pin none = none) ∧
      (outLow s pin = false → t.pins.clkOut.getD pin none = some (outCfg s pin)) ∧
      ∀ k, k ≠ pin → t.pins.clkOut.getD k none = s.pins.clkOut.getD k none := by
  have hself : (setOut s pin (if outLow s pin then none else some (outCfg s pin))).pins.clkOut.getD pin none =
      if outLow s pin then none else some (outCfg s pin) := getD_modifyAt_self _ _ hp
  refine ⟨_, rfl, rfl, fun h => hself.trans (if_pos h), fun h => hself.trans (if_neg (by rw [h]; decide)), fun k hk => ?_⟩
  exact getD_modifyAt_ne _ _ _ hk

end

/-- Settles O10. -/
theorem mediaClockSteps : Obligations.MediaClockSteps := by
  unfold Obligations.MediaClockSteps
  exact fun s => ⟨fun n err refPpb freq _ ht hstep hpll => mcsDetectorInterval_free err refPpb freq ht hstep hpll,
    fun _ _ => wclkInQualified_goes, fun _ _ _ => wclkInQualified_steers_goes, wclkInLoss_goes, fun _ => clkOutputSwitch_goes⟩

end Sys2Proof.Machine
end

section
/-! The ports, messages and measurements of a PTI (R106 to R117). -/

namespace Sys2Proof.Machine

/-! ### A PTI's ports -/

section
variable {p : Pti} {x y : Nat} {q : PtpPort}

theorem port_setPort_self (h : x < p.ports.length) : (p.setPort x q).port x = q := getD_modifyAt_self _ _ h

theorem port_setPort_ne (h : y ≠ x) : (p.setPort x q).port y = p.port y := getD_modifyAt_ne _ _ _ h

@[simp] theorem length_ports_setPort : (p.setPort x q).ports.length = p.ports.length := length_modifyAt ..

end

section
variable {s : State} {n x y : Nat}

theorem setPti_pti_self (s : State) (n : Nat) : s.setPti n (s.pti n) = s := by
  by_cases hn : n < s.ptis.length
  · have e : modifyAt s.ptis n (fun _ => s.ptis.getD n ptiReset) = s.ptis := by
      rw [modifyAt_eq_modify, List.modify_eq_set_getElem?]
      simp [List.getD_eq_getElem?_getD, hn]
    rw [State.setPti, State.pti, e]
  · rw [State.setPti_of_length_le _ (by omega)]

@[simp] theorem fld_setPti (s : State) (n : Nat) (p : Pti) (f : Fld) : (s.setPti n p).fld f = s.fld f := rfl

@[simp] theorem length_ptis_setPti (s : State) (n : Nat) (p : Pti) : (s.setPti n p).ptis.length = s.ptis.length :=
  length_modifyAt ..

@[simp] theorem pti_setFld (s : State) (f : Fld) (v n : Nat) : (s.setFld f v).pti n = s.pti n := rfl

theorem touches_setPti {l : List Fld} {s t : State} (h : Touches l s t) (n : Nat) (p : Pti) : Touches l s (t.setPti n p) :=
  touches_rf rfl h

/-- A PTI's record as a port of it enters a state (R112, R115). -/
def portEntered (p : Pti) (x st : Nat) : Pti :=
  if st = 2 then p.setPort x { p.port x with exchanges := 0, offsets := [], delays := [] }
  else if st = 3 ∨ st = 4 ∨ st = 6 then p
  else p.setPort x { p.port x with best := [], sent := 0 }

/-- A port's new state and record, before SEL_PORT follows. -/
def portMoved (s : State) (n x st : Nat) : State := (s.setFld (portField n x) st).setPti n (portEntered (s.pti n) x st)

theorem setPort_eq (s : State) (n x st : Nat) :
    ∃ v, setPort s n x st = (portMoved s n x st).setFld (R.TIME.PTI_STAT.SEL_PORT n) v := by
  have hmoved : (if st = 2 then (s.setFld (portField n x) st).setPti n
        ((s.pti n).setPort x { (s.pti n).port x with exchanges := 0, offsets := [], delays := [] })
      else if st = 3 ∨ st = 4 ∨ st = 6 then s.setFld (portField n x) st
      else (s.setFld (portField n x) st).setPti n ((s.pti n).setPort x { (s.pti n).port x with best := [], sent := 0 })) =
      portMoved s n x st := by
    unfold portMoved portEntered
    split
    · rfl
    · split
      · exact (setPti_pti_self (s.setFld (portField n x) st) n).symm
      · rfl
  rw [← hmoved]
  exact ⟨_, rfl⟩

/-- The fields that a move of a port writes. -/
def portFlds (n x : Nat) : List Fld := [portField n x, R.TIME.PTI_STAT.SEL_PORT n]

theorem touches_setPort (s : State) (n x st : Nat) : Touches (portFlds n x) s (setPort s n x st) := by
  obtain ⟨v, e⟩ := setPort_eq s n x st
  rw [e]
  exact touches_setFld (by simp [portFlds]) (touches_setPti (touches_setFld (by simp [portFlds]) (.refl _ s)) _ _)

theorem setPort_frame (s : State) (n x st : Nat) :
    setPort s n x st = { s with rf := (setPort s n x st).rf, ptis := (setPort s n x st).ptis } := by
  obtain ⟨v, e⟩ := setPort_eq s n x st
  rw [e]
  rfl

theorem portState_setPort_self (s : State) (n : Nat) {x st : Nat} (hx : x < 3) (hst : st < 16) :
    (setPort s n x st).portState n x = st := by
  obtain ⟨v, e⟩ := setPort_eq s n x st
  have hne : (portField n x).key ≠ (R.TIME.PTI_STAT.SEL_PORT n).key := by
    simp only [portField, R.TIME.PTI_PORT_STATE.reg, R.TIME.PTI_STAT.SEL_PORT]
    omega
  rw [e, State.portState, State.fld_setFld_ne _ _ hne, portMoved, fld_setPti]
  exact State.fld_setFld_lt s _ (by show 4 * x + 4 ≤ 32; omega) hst

theorem portFlds_apart {f : Fld} {n x : Nat} (h : f.apart (R.TIME.PTI_STAT.SEL_PORT n) = true)
    (h' : f.key ≠ R.TIME.PTI_PORT_STATE.reg n) : ∀ g ∈ portFlds n x, f.apart g = true := by
  intro g hg
  simp only [portFlds, List.mem_cons, List.not_mem_nil, or_false] at hg
  rcases hg with rfl | rfl
  · exact Fld.apart_of_key_ne h'
  · exact h

theorem fld_setPort {f : Fld} (s : State) {n : Nat} (x st : Nat) (h : f.apart (R.TIME.PTI_STAT.SEL_PORT n) = true)
    (h' : f.key ≠ R.TIME.PTI_PORT_STATE.reg n) : (setPort s n x st).fld f = s.fld f :=
  (touches_setPort s n x st).fld (portFlds_apart h h')

theorem pti_setPort_self {s : State} {n : Nat} (x st : Nat) (h : n < s.ptis.length) :
    (setPort s n x st).pti n = portEntered (s.pti n) x st := by
  obtain ⟨v, e⟩ := setPort_eq s n x st
  rw [e, pti_setFld, portMoved]
  exact State.pti_setPti_self _ h

theorem length_ptis_setPort (s : State) (n x st : Nat) : (setPort s n x st).ptis.length = s.ptis.length := by
  obtain ⟨v, e⟩ := setPort_eq s n x st
  rw [e]
  exact length_modifyAt ..

@[simp] theorem length_ports_portEntered (p : Pti) (x st : Nat) : (portEntered p x st).ports.length = p.ports.length := by
  unfold portEntered
  split
  · exact length_ports_setPort
  split
  · rfl
  · exact length_ports_setPort

theorem portEntered_of_slave (p : Pti) (x : Nat) : portEntered p x 3 = p := rfl

/-! ### LOCKED without a port that gives time (R113) -/

/-- LOCKED and the lock's runs clear, or nothing changes. -/
theorem lockCheck_cases (s : State) (n : Nat) : lockCheck s n = s ∨ lockCheck s n =
    refFalls ((s.setPti n { s.pti n with goodRun := 0, badRun := 0 }).setFld (R.TIME.PTI_STAT.LOCKED n) 0) := by
  unfold lockCheck
  split
  · exact .inr rfl
  · exact .inl rfl

theorem fld_lockCheck (s : State) (n : Nat) {f : Fld} (h : f.apart (R.TIME.PTI_STAT.LOCKED n) = true)
    (h' : ∀ m, f.apart (R.CLK.MCS_STAT.REF_OK m) = true) : (lockCheck s n).fld f = s.fld f := by
  rcases lockCheck_cases s n with e | e
  · rw [e]
  · rw [e, (refFalls_frame _).2 f h', State.fld_setFld_apart _ _ h, fld_setPti]

theorem ports_lockCheck {s : State} {n : Nat} (h : n < s.ptis.length) :
    ((lockCheck s n).pti n).ports = (s.pti n).ports ∧ ((lockCheck s n).pti n).gmData = (s.pti n).gmData := by
  rcases lockCheck_cases s n with e | e
  · rw [e]
    exact ⟨rfl, rfl⟩
  · have hpti : (lockCheck s n).pti n = { s.pti n with goodRun := 0, badRun := 0 } := by
      rw [e, (refFalls_frame _).1, State.pti]
      exact State.pti_setPti_self _ h
    rw [hpti]
    exact ⟨rfl, rfl⟩

end

theorem followed_next {o : Out3} {s u : State} (h : o = .next u) : followed o s = .next (follow s u) := by
  rw [h]
  rfl

section
variable {s : State} {n x : Nat}

/-! ### Masters on a port (R112, R114) -/

theorem mcsRefOk_apart {f : Fld} {n : Nat} (h : f.key = R.TIME.PTI_STAT.reg n ∨ f.key = R.TIME.PTI_PORT_STATE.reg n)
    (m : Nat) : f.apart (R.CLK.MCS_STAT.REF_OK m) = true := by
  refine Fld.apart_of_key_ne ?_
  simp only [R.TIME.PTI_STAT.reg, R.TIME.PTI_PORT_STATE.reg, R.CLK.MCS_STAT.REF_OK] at h ⊢
  omega

theorem portState_lockCheck (s : State) (n x : Nat) : (lockCheck s n).portState n x = s.portState n x := by
  refine fld_lockCheck s n (Fld.apart_of_key_ne ?_) (mcsRefOk_apart (.inr rfl))
  simp only [portField, R.TIME.PTI_PORT_STATE.reg, R.TIME.PTI_STAT.LOCKED]
  omega

/-- No other port of the PTI follows a master. -/
theorem rival_eq_none (h : ∀ y, y < 3 → y ≠ x → s.portState n y ≠ 2 ∧ s.portState n y ≠ 3) : rival s n x = none := by
  refine List.find?_eq_none.2 fun y hy => ?_
  have hy3 : y < 3 := by simp at hy; omega
  by_cases e : y = x
  · simp [e]
  · simp [h y hy3 e]

/-- A PTI's record as a port of it takes a master. -/
def masterTaken (p : Pti) (x : Nat) (cand : List Nat) : Pti :=
  { p.setPort x { p.port x with gm := cand.getD 5 0, best := cand } with
    gmData := [cand.getD 5 0, cand.getD 1 248, cand.getD 6 0]
    explained := p.explained || decide (p.gmData ≠ [] ∧ p.gmData.getD 0 0 ≠ cand.getD 5 0) }

theorem takeMaster_eq (s : State) (n x : Nat) (cand : List Nat) : takeMaster s n x cand =
    let u := (setPort s n x 2).setPti n (masterTaken ((setPort s n x 2).pti n) x cand)
    lockCheck (if ((setPort s n x 2).pti n).gmData ≠ [] ∧ ((setPort s n x 2).pti n).gmData.getD 0 0 ≠ cand.getD 5 0 then
      u.setFld (R.TIME.PTI_STAT.GM_CHANGE n) 1 else u) n := rfl

theorem gm_masterTaken {p : Pti} (cand : List Nat) (h : x < p.ports.length) :
    ((masterTaken p x cand).port x).gm = cand.getD 5 0 := by
  have e : (masterTaken p x cand).port x = { p.port x with gm := cand.getD 5 0, best := cand } := port_setPort_self h
  rw [e]

/-- What stays through a PTI's check of its lock, of a port in UNCALIBRATED with its master. -/
theorem lockCheck_keeps_master {v : State} {gm : Nat} {data : List Nat} (hn : n < v.ptis.length) (hst : v.portState n x = 2)
    (hgm : ((v.pti n).port x).gm = gm) (hdata : (v.pti n).gmData = data) :
    (lockCheck v n).portState n x = 2 ∧ (((lockCheck v n).pti n).port x).gm = gm ∧ ((lockCheck v n).pti n).gmData = data := by
  obtain ⟨hports, hd⟩ := ports_lockCheck hn
  refine ⟨(portState_lockCheck v n x).trans hst, ?_, hd.trans hdata⟩
  rw [Pti.port, hports]
  exact hgm

@[simp] theorem length_ptis_setFld (s : State) (f : Fld) (v : Nat) : (s.setFld f v).ptis.length = s.ptis.length := rfl

theorem portState_setPti (s : State) (n m y : Nat) (p : Pti) : (s.setPti n p).portState m y = s.portState m y := rfl

theorem takeMaster_leaves (cand : List Nat) (hn : n < s.ptis.length) (hx : x < 3) (hl : (s.pti n).ports.length = 3) :
    (takeMaster s n x cand).portState n x = 2 ∧ (((takeMaster s n x cand).pti n).port x).gm = cand.getD 5 0 ∧
      ((takeMaster s n x cand).pti n).gmData = [cand.getD 5 0, cand.getD 1 248, cand.getD 6 0] := by
  have hlen : n < (setPort s n x 2).ptis.length := by rw [length_ptis_setPort]; exact hn
  have hports : x < ((setPort s n x 2).pti n).ports.length := by
    rw [pti_setPort_self x 2 hn, length_ports_portEntered, hl]
    exact hx
  have hst : (setPort s n x 2).portState n x = 2 := portState_setPort_self s n hx (by decide)
  have hne : (portField n x).key ≠ (R.TIME.PTI_STAT.GM_CHANGE n).key := by
    simp only [portField, R.TIME.PTI_PORT_STATE.reg, R.TIME.PTI_STAT.GM_CHANGE]
    omega
  rw [takeMaster_eq]
  dsimp only
  split
  · refine lockCheck_keeps_master ?_ ?_ ?_ ?_
    · rw [length_ptis_setFld, length_ptis_setPti]
      exact hlen
    · rw [State.portState, State.fld_setFld_ne _ _ hne, ← State.portState, portState_setPti, hst]
    · rw [pti_setFld, State.pti_setPti_self _ hlen, gm_masterTaken cand hports]
    · rw [pti_setFld, State.pti_setPti_self _ hlen, masterTaken]
  · refine lockCheck_keeps_master ?_ ?_ ?_ ?_
    · rw [length_ptis_setPti]
      exact hlen
    · rw [portState_setPti, hst]
    · rw [State.pti_setPti_self _ hlen, gm_masterTaken cand hports]
    · rw [State.pti_setPti_self _ hlen, masterTaken]

theorem announceRx_slave {ds : List Nat} {gm steps : Nat} (hn : n < s.ptis.length) (hl : (s.pti n).ports.length = 3)
    (hx : x < 3) (hst : s.portState n x = 1) (hrole : s.fld (R.TIME.PTI_CFG.ROLE n) = 1)
    (hr : ∀ y, y < 3 → y ≠ x → s.portState n y ≠ 2 ∧ s.portState n y ≠ 3) :
    ∃ u, exec (.announceRx n x ds gm steps) s = .next (follow s u) ∧ u.portState n x = 2 ∧ ((u.pti n).port x).gm = gm ∧
      (u.pti n).gmData = [gm, ds.getD 1 0, steps] := by
  have hgo : announceRx n x ds gm steps s =
      .next (takeMaster s n x [ds.getD 0 0, ds.getD 1 0, ds.getD 2 0, ds.getD 3 0, ds.getD 4 0, gm, steps]) := by
    have hwins : ¬(s.fld (R.TIME.PTI_CFG.ROLE n) = 2 ∨ (s.fld (R.TIME.PTI_CFG.ROLE n) = 0 ∧
        dsBetter (ownQuality s n ++ [ownIdent s, 0]) [ds.getD 0 0, ds.getD 1 0, ds.getD 2 0, ds.getD 3 0, ds.getD 4 0, gm, steps] =
          true)) := by rw [hrole]; simp
    unfold announceRx
    dsimp only
    rw [hst, if_neg (by decide), if_neg (by decide), if_pos rfl, if_neg hwins, chooseMaster, rival_eq_none hr]
  exact ⟨_, followed_next hgo, takeMaster_leaves [ds.getD 0 0, ds.getD 1 0, ds.getD 2 0, ds.getD 3 0, ds.getD 4 0, gm, steps] hn hx hl⟩

/-! ### Event messages (R106, R107) -/

theorem ptpMessageRx_slave (hn : n < s.ptis.length) (hl : (s.pti n).ports.length = 3) (hx : x < 3)
    (hst : s.portState n x = 2) (hex : 3 ≤ ((s.pti n).port x).exchanges) (hother : x < 2 → s.portState n (1 - x) ≠ 3) :
    ∃ u, exec (.ptpMessageRx n x true) s = .next (follow s u) ∧ u.portState n x = 3 ∧
      ((u.pti n).port x).stamps = eventStamp s (decide (x < 2)) := by
  generalize hq : ({ (s.pti n).port x with stamps := eventStamp s (decide (x < 2))
                                           exchanges := ((s.pti n).port x).exchanges + 1 } : PtpPort) = q
  have hqst : q.stamps = eventStamp s (decide (x < 2)) := by rw [← hq]
  have hqex : 4 ≤ q.exchanges := by
    have e : q.exchanges = ((s.pti n).port x).exchanges + 1 := by rw [← hq]
    omega
  have hgo : ptpMessageRx n x true s = .next (setPort (s.setPti n ((s.pti n).setPort x q)) n x 3) := by
    have hst' : ∀ y, (s.setPti n ((s.pti n).setPort x q)).portState n y = s.portState n y := fun y => fld_setPti ..
    unfold ptpMessageRx
    dsimp only
    rw [if_neg (by rw [hst]; decide), if_pos rfl, hq, hst', hst', if_pos ⟨hst, hqex⟩, if_neg (fun c => hother c.1 c.2.1)]
  refine ⟨_, followed_next hgo, portState_setPort_self _ n hx (by decide), ?_⟩
  · rw [pti_setPort_self x 3 (by rw [length_ptis_setPti]; exact hn), portEntered_of_slave, State.pti_setPti_self _ hn,
      port_setPort_self (by rw [hl]; exact hx), hqst]

/-! ### Announce timeouts and recovery (R112) -/

theorem announceTimeout_slave (hx : x < 3) (hst : s.portState n x = 2) :
    ∃ u, exec (.announceTimeout n x) s = .next (follow s u) ∧ u.portState n x = 1 ∧
      u.fld (R.TIME.PTI_STAT.ANN_TIMEOUT n) = 1 := by
  generalize hu : s.setFld (R.TIME.PTI_STAT.ANN_TIMEOUT n) 1 = u
  have hst' : u.portState n x = 2 := by
    rw [← hu, State.portState, State.fld_setFld_ne _ _ (by
      simp only [portField, R.TIME.PTI_PORT_STATE.reg, R.TIME.PTI_STAT.ANN_TIMEOUT]; omega)]
    exact hst
  have hev : u.fld (R.TIME.PTI_STAT.ANN_TIMEOUT n) = 1 := by
    rw [← hu]
    exact State.fld_setFld_mod s (R.TIME.PTI_STAT.ANN_TIMEOUT n) 1 rfl
  have hgo : announceTimeout n x s = .next (lockCheck (setPort u n x 1) n) := by
    unfold announceTimeout portLost
    dsimp only
    rw [if_pos (.inl hst), hu, hst', if_neg (fun c => absurd c.1 (by decide))]
  refine ⟨_, followed_next hgo, (portState_lockCheck _ n x).trans (portState_setPort_self u n hx (by decide)), ?_⟩
  · refine (fld_lockCheck _ n ?_ (mcsRefOk_apart (.inl rfl))).trans ((fld_setPort u x 1 ?_ ?_).trans hev)
    · simp [Fld.apart, R.TIME.PTI_STAT.ANN_TIMEOUT, R.TIME.PTI_STAT.LOCKED]
    · simp [Fld.apart, R.TIME.PTI_STAT.ANN_TIMEOUT, R.TIME.PTI_STAT.SEL_PORT]
    · simp only [R.TIME.PTI_STAT.ANN_TIMEOUT, R.TIME.PTI_PORT_STATE.reg]
      omega

theorem announceTimeout_master (hx : x < 3) (hst : s.portState n x = 1) (hrole : s.fld (R.TIME.PTI_CFG.ROLE n) ≠ 1)
    (hr : ∀ y, y < 3 → y ≠ x → s.portState n y ≠ 2 ∧ s.portState n y ≠ 3) :
    ∃ u, exec (.announceTimeout n x) s = .next (follow s u) ∧ u.portState n x = 5 := by
  have hgo : announceTimeout n x s = .next (setPort (s.setFld (R.TIME.PTI_STAT.ANN_TIMEOUT n) 1) n x 5) := by
    unfold announceTimeout
    dsimp only
    rw [if_neg (by rw [hst]; decide), if_pos ⟨hst, hrole, rival_eq_none hr⟩]
  exact ⟨_, followed_next hgo, portState_setPort_self _ n hx (by decide)⟩

theorem faultyRecover_listens (hx : x < 3) (hst : s.portState n x = 7) :
    ∃ u, exec (.faultyRecover n x) s = .next (follow s u) ∧ u.portState n x = 1 :=
  ⟨_, followed_next (if_pos hst), portState_setPort_self s n hx (by decide)⟩

/-! ### Syncs sent (R108, R112) -/

theorem ptpSyncTx_goes {one : Bool} {dom : Nat} {at_ : PtiTime} (hn : n < s.ptis.length) (hl : (s.pti n).ports.length = 3)
    (hx : x < 3) (hst : s.portState n x = 5)
    (hone : one = (decide (x < 2) && !s.flag (R.TIME.PTI_CFG.TWO_STEP n))) (hdom : dom = s.fld (R.TIME.PTI_CFG.DOMAIN n))
    (hat : at_ = (eventStamp s (decide (x < 2))).getD n ⟨0, 0, 0⟩) :
    Goes (.ptpSyncTx n x) s fun t => t = { s with out := t.out, net := t.net, ptis := t.ptis } ∧
      ((t.pti n).port x).sent = ((s.pti n).port x).sent + 1 ∧
      ∃ announced, announced.length ≤ 1 ∧ t.out = announced ++ (if one then [] else [.ptpFollowUp n x (transport s n) dom at_]) ++
        .ptpSync n x one (transport s n) dom at_ (syncSum s n one) :: s.out ∧
        ∀ o ∈ announced, o = .ptpAnnounce n x (transport s n) dom (ownQuality s n ++ [ownIdent s, 0, ownSource s n]) := by
  subst hone hdom hat
  refine ⟨_, if_pos hst, ?_⟩
  have hsent : ∀ v : State, v.ptis = s.ptis → (((v.setPti n ((s.pti n).setPort x
      { (s.pti n).port x with sent := ((s.pti n).port x).sent + 1 })).pti n).port x).sent = ((s.pti n).port x).sent + 1 := by
    intro v hv
    rw [State.pti_setPti_self _ (by rw [hv]; exact hn), port_setPort_self (by rw [hl]; exact hx)]
  dsimp only
  by_cases hone : (decide (x < 2) && !s.flag (R.TIME.PTI_CFG.TWO_STEP n)) = true
  · rw [if_pos hone, if_pos hone]
    split
    · exact ⟨rfl, hsent _ rfl, [_], by simp, rfl, by simp⟩
    · exact ⟨rfl, hsent _ rfl, [], by simp, rfl, by simp⟩
  · rw [if_neg hone, if_neg hone]
    split
    · exact ⟨rfl, hsent _ rfl, [_], by simp, rfl, by simp⟩
    · exact ⟨rfl, hsent _ rfl, [], by simp, rfl, by simp⟩

/-! ### Delay measurements (R115) -/

theorem delayMeasurement_goes {d : Int} (hn : n < s.ptis.length) (hl : (s.pti n).ports.length = 3) (hx : x < 3)
    (h0 : s.portState n x ≠ 0) (h7 : s.portState n x ≠ 7)
    (hmech : p2p s n = true ∨ (2 ≤ s.portState n x ∧ s.portState n x ≤ 4)) : Goes (.delayMeasurement n x d) s fun t => t = { s with
        rf := t.rf
        ptis := t.ptis
        net := t.net
        out := .ptpDelay n x (p2p s n) (transport s n) (s.fld (R.TIME.PTI_CFG.DOMAIN n)) :: s.out } ∧
      ((t.pti n).port x).delays = (d :: ((s.pti n).port x).delays).take 8 ∧
      ((t.pti n).port x).delay = meanOf ((d :: ((s.pti n).port x).delays).take 8) ∧ Touches [delayStepFld n x] s t := by
  have hgo : ¬(s.portState n x = 0 ∨ s.portState n x = 7 ∨
      (p2p s n = false ∧ ¬(2 ≤ s.portState n x ∧ s.portState n x ≤ 4))) := by
    rintro (c | c | ⟨c, d⟩)
    · exact h0 c
    · exact h7 c
    · rcases hmech with h | h
      · rw [h] at c
        cases c
      · exact d h
  have hport : ∀ v : State, v.ptis = s.ptis → ∀ q, ((v.setPti n ((s.pti n).setPort x q)).pti n).port x = q := fun v hv q => by
    rw [State.pti_setPti_self _ (by rw [hv]; exact hn), port_setPort_self (by rw [hl]; exact hx)]
  have hemit : Touches [delayStepFld n x] s ((netStampTx s x).emit (.ptpDelay n x (p2p s n) (transport s n)
      (s.fld (R.TIME.PTI_CFG.DOMAIN n)))) := touches_rf (t := s) rfl (.refl _ s)
  refine ⟨_, if_neg hgo, ?_⟩
  dsimp only
  split
  · exact ⟨rfl, congrArg PtpPort.delays (hport _ rfl _), congrArg PtpPort.delay (hport _ rfl _),
      touches_setPti (touches_setFld (by simp) hemit) n _⟩
  · exact ⟨rfl, congrArg PtpPort.delays (hport _ rfl _), congrArg PtpPort.delay (hport _ rfl _),
      touches_setPti hemit n _⟩

/-! ### The servo (R113 to R117) -/

/-- From `s` to `t` the servo of PTI `n` has worked: its shown offset and its ports' histories stay. -/
structure ServoStep (n : Nat) (s t : State) : Prop where
  offset : t.fld (R.TIME.PTI_OFFSET.NS n) = s.fld (R.TIME.PTI_OFFSET.NS n)
  ports  : (t.pti n).ports = (s.pti n).ports
  length : t.ptis.length = s.ptis.length

namespace ServoStep

theorem refl (n : Nat) (s : State) : ServoStep n s s := ⟨rfl, rfl, rfl⟩

theorem trans {s t u : State} (h : ServoStep n s t) (k : ServoStep n t u) : ServoStep n s u :=
  ⟨k.offset.trans h.offset, k.ports.trans h.ports, k.length.trans h.length⟩

theorem setFld {s t : State} (h : ServoStep n s t) {f : Fld} (v : Nat) (hf : f.key = R.TIME.PTI_STAT.reg n) :
    ServoStep n s (t.setFld f v) :=
  h.trans ⟨State.fld_setFld_ne _ _ (by rw [hf]; simp only [R.TIME.PTI_OFFSET.NS, R.TIME.PTI_STAT.reg]; omega), rfl, rfl⟩

theorem setPti {s t : State} (h : ServoStep n s t) {p : Pti} (hp : p.ports = (t.pti n).ports) : ServoStep n s (t.setPti n p) := by
  refine h.trans ⟨rfl, ?_, length_ptis_setPti ..⟩
  by_cases hn : n < t.ptis.length
  · rw [State.pti_setPti_self p hn, hp]
  · rw [State.setPti_of_length_le p (by omega)]

theorem setAddend {s t : State} (h : ServoStep n s t) (a : Nat) : ServoStep n s (t.setAddend n a) := by
  refine h.trans ⟨?_, ?_, ?_⟩
  · refine (State.touches_setAddend (l := [R.TIME.PTI_ADDEND_INT.INT n, R.TIME.PTI_ADDEND_FRAC.FRAC n]) t a (by simp) (by simp)).fld ?_
    simp [Fld.apart, R.TIME.PTI_OFFSET.NS, R.TIME.PTI_ADDEND_INT.INT, R.TIME.PTI_ADDEND_FRAC.FRAC]
  · rw [State.pti, State.setAddend_frame]
    rfl
  · rw [State.setAddend_frame]

theorem ite {s a b : State} {c : Prop} [Decidable c] (ha : ServoStep n s a) (hb : ServoStep n s b) :
    ServoStep n s (if c then a else b) := by split <;> assumption

end ServoStep

theorem servoStep_lockRuns (s : State) (n : Nat) (off : Int) : ServoStep n s (lockRuns s n off) := by
  unfold lockRuns
  dsimp only
  have hruns : ∀ p : Pti, p.ports = (s.pti n).ports → ∀ c : Prop, ∀ _ : Decidable c,
      ServoStep n s (if c then (s.setPti n p).setFld (R.TIME.PTI_STAT.LOCKED n) 1 else s.setPti n p) := fun p hp c _ => by
    have hset : ServoStep n s (s.setPti n p) := (ServoStep.refl n s).setPti hp
    split
    · exact hset.setFld 1 rfl
    · exact hset
  apply ServoStep.ite
  · apply ServoStep.setFld (hf := rfl)
    apply hruns
    rfl
  · apply hruns
    rfl

theorem servoAddend_eq (s : State) (n : Nat) (off : Int) : ∃ p a, p.ports = (s.pti n).ports ∧
    servoAddend s n off = (s.setPti n p).setAddend n a := by
  unfold servoAddend
  dsimp only
  refine ⟨_, _, ?_, rfl⟩
  rfl

theorem addendLo_le_addendClamp (a : Nat) : addendLo ≤ addendClamp a := le_max_left _ _

/-- The servo sets an addend within its bounds. -/
theorem servoAddend_leaves (s : State) (n : Nat) (off : Int) : ServoStep n s (servoAddend s n off) ∧
    addendLo ≤ (servoAddend s n off).addend n ∧ (servoAddend s n off).addend n ≤ addendHi := by
  obtain ⟨p, a, hp, e⟩ := servoAddend_eq s n off
  rw [e, State.addend_setAddend_self]
  exact ⟨((ServoStep.refl n s).setPti hp).setAddend a, addendLo_le_addendClamp a, addendClamp_le a⟩

/-- Without a step the servo takes an offset by its PI loop. -/
theorem servoTake_leaves (off mean : Int) (hist : Bool) (hstep : s.flag (R.TIME.PTI_CFG.STEP_EN n) = false) :
    ServoStep n s (servoTake s n off mean hist) ∧
      addendLo ≤ (servoTake s n off mean hist).addend n ∧ (servoTake s n off mean hist).addend n ≤ addendHi := by
  unfold servoTake
  dsimp only
  rw [if_neg (by rw [hstep]; simp)]
  generalize hu : (if (!((s.pti n).explained || !(s.pti n).everLock) && hist &&
      decide (s.fld (R.TIME.PTI_GUARD.PATH_DISAGREE_NS n) * 65536 < (off - mean).natAbs)) = true then
      (s.setPti n { s.pti n with limit := some (s.addend n) }).setFld (R.TIME.PTI_STAT.UNEXPLAINED_STEP n) 1
    else s.setPti n { s.pti n with explained := false }) = u
  have hu' : ServoStep n s u := by
    rw [← hu]
    split
    · refine ServoStep.setFld (ServoStep.setPti (.refl n s) ?_) 1 rfl
      rfl
    · refine ServoStep.setPti (.refl n s) ?_
      rfl
  have hlim : ServoStep n s (if off.natAbs * 2 < s.fld (R.TIME.PTI_GUARD.PATH_DISAGREE_NS n) * 65536 then
      u.setPti n { u.pti n with limit := none } else u) := by
    split
    · refine ServoStep.setPti hu' ?_
      rfl
    · exact hu'
  obtain ⟨hs, hlo, hhi⟩ := servoAddend_leaves (lockRuns (if off.natAbs * 2 < s.fld (R.TIME.PTI_GUARD.PATH_DISAGREE_NS n) * 65536 then
      u.setPti n { u.pti n with limit := none } else u) n off) n off
  exact ⟨hlim.trans ((servoStep_lockRuns _ n off).trans hs), hlo, hhi⟩

/-- An interval in which port 0 alone measured. -/
theorem pushOffsets_first {off : Nat → Option Int} {o : Int} (h0 : off 0 = some o) (h1 : off 1 = none) (h2 : off 2 = none) :
    pushOffsets s n off = s.setPti n ((s.pti n).setPort 0 { (s.pti n).port 0 with
      offsets := push8 ((s.pti n).port 0).offsets o }) := by
  unfold pushOffsets
  rw [List.foldl_cons, List.foldl_cons, List.foldl_cons, List.foldl_nil, h0, h1, h2]

/-- The offsets an interval gives, port by port. -/
def measured (s : State) (n : Nat) (a b m : Option Int) : List (Option Int) :=
  [a, b, m].mapIdx fun x o => if s.portState n x = 3 ∨ s.portState n x = 4 then o.map (corrected s n x) else none

/-- Port 0's offset `c` is shown and pushed on its history. -/
def firstTaken (s : State) (n : Nat) (c : Int) : State :=
  (s.setFld (R.TIME.PTI_OFFSET.NS n) (ofSigned 32 (c / 65536))).setPti n
    ((s.pti n).setPort 0 { (s.pti n).port 0 with offsets := push8 ((s.pti n).port 0).offsets c })

theorem flag_firstTaken (s : State) (n : Nat) (c : Int) {f : Fld} (h : f.key ≠ R.TIME.PTI_OFFSET.reg n) :
    (firstTaken s n c).flag f = s.flag f := by
  rw [State.flag, firstTaken, fld_setPti, State.fld_setFld_ne _ _ h, State.flag]

theorem servoUpdate_slave {o : Int} (hn : n < s.ptis.length) (hl : (s.pti n).ports.length = 3)
    (hen : s.flag (R.TIME.PTI_CFG.EN n) = true) (hst : s.portState n 0 = 3) (hsel : s.fld (R.TIME.PTI_STAT.SEL_PORT n) = 0)
    (hfrozen : s.flag (R.TIME.PTI_STAT.FROZEN n) = false) (hservo : s.flag (R.TIME.PTI_SERVO.EN n) = true)
    (hrole : s.fld (R.TIME.PTI_CFG.ROLE n) ≠ 2) (hstep : s.flag (R.TIME.PTI_CFG.STEP_EN n) = false) :
    ∃ u, exec (.servoUpdate n (some o) none none) s = .next (follow s u) ∧
      u.fld (R.TIME.PTI_OFFSET.NS n) = ofSigned 32 (corrected s n 0 o / 65536) ∧
      addendLo ≤ u.addend n ∧ u.addend n ≤ addendHi ∧
      ((u.pti n).port 0).offsets = (corrected s n 0 o :: ((s.pti n).port 0).offsets).take 8 := by
  have hmeas : measured s n (some o) none none = [some (corrected s n 0 o), none, none] := by
    simp [measured, hst]
  generalize hc : corrected s n 0 o = c at hmeas
  have hflag : ∀ f : Fld, f.key = R.TIME.PTI_STAT.reg n ∨ f.key = R.TIME.PTI_SERVO.reg n ∨ f.key = R.TIME.PTI_CFG.reg n →
      (firstTaken s n c).flag f = s.flag f := fun f hf => flag_firstTaken s n c (by
    simp only [R.TIME.PTI_STAT.reg, R.TIME.PTI_SERVO.reg, R.TIME.PTI_CFG.reg, R.TIME.PTI_OFFSET.reg] at hf ⊢
    omega)
  have hrole' : (firstTaken s n c).fld (R.TIME.PTI_CFG.ROLE n) ≠ 2 := by
    rw [firstTaken, fld_setPti, State.fld_setFld_ne _ _ (by simp only [R.TIME.PTI_CFG.ROLE, R.TIME.PTI_OFFSET.NS]; omega)]
    exact hrole
  have hgo : servoUpdate n (some o) none none s =
      .next (servoTake (firstTaken s n c) n c (meanOf ((s.pti n).port 0).offsets) (!((s.pti n).port 0).offsets.isEmpty)) := by
    unfold servoUpdate
    rw [if_neg (by simp [hen])]
    dsimp only
    rw [← measured, hmeas]
    simp only [List.getD_cons_zero, List.getD_cons_succ, hsel]
    rw [pushOffsets_first rfl rfl rfl, pti_setFld, ← firstTaken, if_neg (by rw [hflag _ (.inl rfl), hfrozen]; decide),
      if_pos ⟨(hflag _ (.inr (.inl rfl))).trans hservo, hrole'⟩]
  obtain ⟨hs, hlo, hhi⟩ := servoTake_leaves (s := firstTaken s n c) c (meanOf ((s.pti n).port 0).offsets)
    (!((s.pti n).port 0).offsets.isEmpty) ((hflag _ (.inr (.inr rfl))).trans hstep)
  refine ⟨_, followed_next hgo, hs.offset.trans ?_, hlo, hhi, ?_⟩
  · rw [firstTaken, fld_setPti]
    exact State.fld_setFld_lt s (R.TIME.PTI_OFFSET.NS n) (Nat.le_of_ble_eq_true rfl) (by
      show ofSigned 32 _ < 2 ^ 32
      unfold ofSigned
      omega)
  · rw [Pti.port, hs.ports, ← Pti.port, firstTaken, State.pti_setPti_self _ (by exact hn),
      port_setPort_self (by rw [hl]; decide), push8]

/-! ### Freezes and suspects (R116) -/

theorem freezeHoldExpiry_resumes (hn : n < s.ptis.length) (hfrozen : s.flag (R.TIME.PTI_STAT.FROZEN n) = true)
    (hsel : (s.pti n).selected = true) (hrun : s.fld (R.TIME.PTI_SERVO.FREEZE_HOLD n) ≤ (s.pti n).holdRun) :
    ∃ u, exec (.freezeHoldExpiry n) s = .next (follow s u) ∧ u.fld (R.TIME.PTI_STAT.FROZEN n) = 0 ∧
      (u.pti n).selected = false := by
  refine ⟨_, followed_next (if_pos (by simp [hfrozen, hsel, hrun])), State.fld_setFld_mod _ (R.TIME.PTI_STAT.FROZEN n) 0 rfl, ?_⟩
  rw [pti_setFld, State.pti_setPti_self _ hn]

theorem asymBothTimeout_resumes (hfrozen : s.flag (R.TIME.PTI_STAT.FROZEN n) = true)
    (hsel : (s.pti n).selected = false) (hwas : (s.pti n).wasSlave < 3) :
    ∃ u, exec (.asymBothTimeout n) s = .next (follow s u) ∧ u.fld (R.TIME.PTI_STAT.FROZEN n) = 0 ∧
      u.fld (R.TIME.PTI_STAT.UNEXPLAINED_STEP n) = 1 ∧ u.portState n (s.pti n).wasSlave = 3 := by
  have hgo : asymBothTimeout n s = .next ((((setPort s n (s.pti n).wasSlave 3).setPti n
      { (setPort s n (s.pti n).wasSlave 3).pti n with
        limit := some ((setPort s n (s.pti n).wasSlave 3).addend n), holdRun := 0 }).setFld
      (R.TIME.PTI_STAT.FROZEN n) 0).setFld (R.TIME.PTI_STAT.UNEXPLAINED_STEP n) 1) := by
    unfold asymBothTimeout
    dsimp only
    rw [if_pos (by simp [hfrozen, hsel]), if_pos hwas, State.setFlds_cons, State.setFlds_cons, State.setFlds_nil]
  refine ⟨_, followed_next hgo, ?_, State.fld_setFld_mod _ (R.TIME.PTI_STAT.UNEXPLAINED_STEP n) 1 rfl, ?_⟩
  · rw [State.fld_setFld_below _ _ rfl]
    exact State.fld_setFld_mod _ (R.TIME.PTI_STAT.FROZEN n) 0 rfl
  · have hne : ∀ f : Fld, f.key = R.TIME.PTI_STAT.reg n → ∀ u : State, ∀ v y, (u.setFld f v).portState n y = u.portState n y :=
      fun f hf u v y => State.fld_setFld_ne u v (by
        rw [hf]
        simp only [portField, R.TIME.PTI_PORT_STATE.reg, R.TIME.PTI_STAT.reg]
        omega)
    rw [hne _ rfl, hne _ rfl, portState_setPti]
    exact portState_setPort_self s n hwas (by decide)

theorem suspectClear_goes (h : 64 ≤ (s.pti n).calmRun) : Goes (.suspectClear n) s fun t => t = { s with rf := t.rf } ∧
    t.fld (R.TIME.PTI_STAT.SUSPECT_NETA n) = 0 ∧ t.fld (R.TIME.PTI_STAT.SUSPECT_NETB n) = 0 ∧
      Touches [R.TIME.PTI_STAT.SUSPECT_NETA n, R.TIME.PTI_STAT.SUSPECT_NETB n] s t := by
  refine ⟨_, if_pos h, rfl, ?_, ?_, touches_setFlds (by simp) (.refl _ s)⟩
  · rw [State.setFlds_cons, State.setFlds_cons, State.setFlds_nil, State.fld_setFld_above _ _ rfl]
    exact State.fld_setFld_mod s (R.TIME.PTI_STAT.SUSPECT_NETA n) 0 rfl
  · exact State.fld_setFld_mod _ (R.TIME.PTI_STAT.SUSPECT_NETB n) 0 rfl

end

/-- Settles O12. -/
theorem ptpPortAndServoSteps : Obligations.PtpPortAndServoSteps := by
  unfold Obligations.PtpPortAndServoSteps
  intro s n _ hn hl
  exact ⟨fun x hx => ptpMessageRx_slave hn hl hx, fun x ds gm steps hx => announceRx_slave hn hl hx,
    fun x hx => announceTimeout_slave hx, fun x hx => announceTimeout_master hx, fun x hx => faultyRecover_listens hx,
    fun x one dom at_ hx => ptpSyncTx_goes hn hl hx, fun x d hx => delayMeasurement_goes hn hl hx,
    fun o hen hst _ _ _ _ hsel => servoUpdate_slave hn hl hen hst hsel, freezeHoldExpiry_resumes hn,
    asymBothTimeout_resumes, suspectClear_goes⟩

end Sys2Proof.Machine
end

section
/-! PPS, PTM and the time that is kept while the device sleeps (R105, R111, R118, R124, R125). -/

namespace Sys2Proof.Machine

/-! ### Times (R10) -/

theorem toRaw_ofRaw {r : Nat} (h : r < 2 ^ 48 * 1000000000 * 2 ^ 32) : toRaw (ofRaw r) = r := by
  have hns : nsUnit = 4294967296 := rfl
  unfold toRaw ofRaw
  dsimp only
  rw [hns]
  omega

theorem ptiRaw_eq (s : State) (n : Nat) : s.ptiRaw n = toRaw (s.pti n).time := rfl

/-! ### What a PTI's step leaves (R105) -/

/-- From `s` to `t` the registers of the time engine below the platens', the PTIs and the power controller stay. -/
structure TimeStays (s t : State) : Prop where
  rd   : ∀ k, 0x7000 ≤ k → k < 0x7400 → t.rd k = s.rd k
  ptis : t.ptis = s.ptis
  pwr  : t.pwr = s.pwr

namespace TimeStays

theorem refl (s : State) : TimeStays s s := ⟨fun _ _ _ => rfl, rfl, rfl⟩

theorem trans {s t u : State} (h : TimeStays s t) (k : TimeStays t u) : TimeStays s u :=
  ⟨fun j h1 h2 => (k.rd j h1 h2).trans (h.rd j h1 h2), k.ptis.trans h.ptis, k.pwr.trans h.pwr⟩

theorem fld {s t : State} (h : TimeStays s t) {f : Fld} (h1 : 0x7000 ≤ f.key) (h2 : f.key < 0x7400) : t.fld f = s.fld f :=
  congrArg f.of (h.rd _ h1 h2)

theorem setFld {s t : State} (h : TimeStays s t) {f : Fld} (v : Nat) (hf : f.key < 0x7000 ∨ 0x7400 ≤ f.key) :
    TimeStays s (t.setFld f v) :=
  h.trans ⟨fun k h1 h2 => State.rd_setFld_ne t v (by omega), rfl, rfl⟩

theorem setPl {s t : State} (h : TimeStays s t) (k : Nat) (p : Platen) : TimeStays s (t.setPl k p) :=
  h.trans ⟨fun _ _ _ => rfl, rfl, rfl⟩

theorem ite {s a b : State} {c : Prop} [Decidable c] (ha : TimeStays s a) (hb : TimeStays s b) :
    TimeStays s (if c then a else b) := by split <;> assumption

theorem foldl {α : Type} {s t : State} (h : TimeStays s t) (l : List α) {g : State → α → State}
    (hg : ∀ u, ∀ x ∈ l, TimeStays u (g u x)) : TimeStays s (l.foldl g t) := by
  induction l generalizing t with
  | nil => exact h
  | cons x l ih =>
    exact ih (h.trans (hg t x List.mem_cons_self)) fun u y hy => hg u y (List.mem_cons_of_mem _ hy)

theorem of_mcsStep {l : List Fld} {s t : State} (h : McsStep l s t) (hl : ∀ f ∈ l, f.key < 0x7000 ∨ 0x7400 ≤ f.key) :
    TimeStays s t :=
  ⟨fun k h1 h2 => h.touches.rd fun f hf e => by have := hl f hf; omega, by rw [h.frame], by rw [h.frame]⟩

end TimeStays

theorem mcsFlds_key {n : Nat} (hn : n < 8) : ∀ f ∈ mcsFlds n, f.key < 0x7000 ∨ 0x7400 ≤ f.key := by
  intro f hf
  simp only [mcsFlds, evtFlds, List.cons_append, List.nil_append, List.mem_cons, List.not_mem_nil, or_false] at hf
  rcases hf with rfl | rfl | rfl | rfl | rfl | rfl | rfl | rfl | rfl <;>
    simp only [R.MBX.STAT.EVT_PENDING, R.MBX.RING_STAT.EVT_LOST, R.CLK.MCS_STAT.STATE, R.CLK.MCS_STAT.LOCK_EV,
      R.CLK.MCS_STAT.HOLD_EV, R.CLK.MCS_STAT.SLEWING, R.CLK.MCS_STAT.BW_NOW, R.CLK.MCS_STAT.REF_OK, R.CLK.MCS_FREQ.OFFSET] <;>
    omega

theorem timeStays_mcsPtiEvent (s : State) (n : Nat) (step : Bool) : TimeStays s (mcsPtiEvent s n step) := by
  unfold mcsPtiEvent
  refine (TimeStays.refl s).foldl _ fun u m hm => ?_
  have hm8 := List.mem_range.1 hm
  have hseen : (R.CLK.MCS_STAT.STEP_SEEN m).key < 0x7000 := by simp only [R.CLK.MCS_STAT.STEP_SEEN]; omega
  have hset : TimeStays u (u.setMcs m { u.mcs m with stepped := true }) := ⟨fun _ _ _ => rfl, rfl, rfl⟩
  have hlose : ∀ v, TimeStays v (mcsLose v m) := fun v => .of_mcsStep (mcsStep_mcsLose v m) (mcsFlds_key hm8)
  dsimp only
  split
  · split
    · exact (hset.setFld 1 (.inl hseen)).trans (hlose _)
    · exact hset.trans (hlose _)
  · exact .refl u

theorem timeStays_setPlFire (s : State) (k raw : Nat) : TimeStays s (setPlFire s k raw) := by
  have hkey : ∀ f : Fld, f = R.TIME.PL_T_SEC_HI.VALUE k ∨ f = R.TIME.PL_T_SEC_LO.VALUE k ∨ f = R.TIME.PL_T_NS.VALUE k →
      f.key < 0x7000 ∨ 0x7400 ≤ f.key := by
    rintro f (rfl | rfl | rfl) <;>
      simp only [R.TIME.PL_T_SEC_HI.VALUE, R.TIME.PL_T_SEC_LO.VALUE, R.TIME.PL_T_NS.VALUE] <;> omega
  exact ((((TimeStays.refl s).setPl k _).setFld _ (hkey _ (.inl rfl))).setFld _ (hkey _ (.inr (.inl rfl)))).setFld _
    (hkey _ (.inr (.inr rfl)))

theorem timeStays_plStep (n old new : Nat) (s : State) (k : Nat) : TimeStays s (plStep n old new s k) := by
  have harm : (R.TIME.PL_CFG.ARM k).key < 0x7000 ∨ 0x7400 ≤ (R.TIME.PL_CFG.ARM k).key := by
    simp only [R.TIME.PL_CFG.ARM]; omega
  have hmiss : (R.TIME.PL_STAT.STEP_MISS k).key < 0x7000 ∨ 0x7400 ≤ (R.TIME.PL_STAT.STEP_MISS k).key := by
    simp only [R.TIME.PL_STAT.STEP_MISS]; omega
  unfold plStep
  dsimp only
  split
  · exact .refl s
  split
  · split
    · exact ((TimeStays.refl s).setFld 0 harm).setFld 1 hmiss
    · exact .refl s
  split
  · split
    · exact .refl s
    · exact .ite (timeStays_setPlFire s k _) (timeStays_setPlFire s k _)
  · exact .refl s

/-- A PTI with its time moved, before what follows the step. -/
def ptiStepped (s : State) (n : Nat) (delta : Int) : State :=
  (s.setPti n { s.pti n with
    time := ofRaw ((toRaw (s.pti n).time : Int) + delta).toNat, explained := true
    ports := (s.pti n).ports.map fun q => { q with offsets := [], delays := [] } }).setFld (R.TIME.PTI_STAT.STEP_EV n) 1

theorem ptiStep_stays (s : State) (n : Nat) (delta : Int) : TimeStays (ptiStepped s n delta) (ptiStep s n delta) := by
  unfold ptiStep
  dsimp only
  rw [show (s.setPti n _).setFld (R.TIME.PTI_STAT.STEP_EV n) 1 = ptiStepped s n delta from rfl]
  generalize ptiStepped s n delta = u
  refine TimeStays.foldl ?_ _ fun v k _ => timeStays_plStep ..
  have hshift : ∀ v : State, TimeStays v (mcsShift v n delta) := fun v => ⟨fun _ _ _ => rfl, rfl, rfl⟩
  refine TimeStays.trans ?_ ((timeStays_mcsPtiEvent _ n true).trans (hshift _))
  split
  · exact ⟨fun _ _ _ => rfl, rfl, rfl⟩
  · exact .refl u

/-! ### The servo's fields -/

/-- From `s` to `t` the servo of PTI `n` has worked on its own fields and record. -/
structure ServoOnly (n : Nat) (s t : State) : Prop where
  frame   : ∃ rf mcss ptis, t = { s with rf := rf, mcss := mcss, ptis := ptis }
  touches : Touches [R.TIME.PTI_STAT.LOCKED n, R.TIME.PTI_ADDEND_INT.INT n, R.TIME.PTI_ADDEND_FRAC.FRAC n] s t

namespace ServoOnly

theorem refl (n : Nat) (s : State) : ServoOnly n s s := ⟨⟨_, _, _, rfl⟩, .refl _ s⟩

theorem trans {n : Nat} {s t u : State} (h : ServoOnly n s t) (k : ServoOnly n t u) : ServoOnly n s u := by
  obtain ⟨a, b, c, e⟩ := h.frame
  obtain ⟨a', b', c', e'⟩ := k.frame
  exact ⟨⟨a', b', c', by rw [e', e]⟩, h.touches.trans k.touches⟩

theorem setLocked {n : Nat} {s t : State} (h : ServoOnly n s t) (v : Nat) :
    ServoOnly n s (t.setFld (R.TIME.PTI_STAT.LOCKED n) v) :=
  h.trans ⟨⟨_, _, _, rfl⟩, touches_setFld (by simp) (.refl _ t)⟩

theorem setPti {n : Nat} {s t : State} (h : ServoOnly n s t) (p : Pti) : ServoOnly n s (t.setPti n p) :=
  h.trans ⟨⟨_, _, _, rfl⟩, touches_setPti (.refl _ t) n p⟩

theorem setAddend {n : Nat} {s t : State} (h : ServoOnly n s t) (a : Nat) : ServoOnly n s (t.setAddend n a) :=
  h.trans ⟨⟨_, _, _, State.setAddend_frame t n a⟩, State.touches_setAddend t a (by simp) (by simp)⟩

theorem ite {n : Nat} {s a b : State} {c : Prop} [Decidable c] (ha : ServoOnly n s a) (hb : ServoOnly n s b) :
    ServoOnly n s (if c then a else b) := by split <;> assumption

end ServoOnly

theorem servoOnly_lockRuns (s : State) (n : Nat) (off : Int) : ServoOnly n s (lockRuns s n off) := by
  unfold lockRuns
  dsimp only
  have hruns : ∀ p : Pti, ∀ c : Prop, ∀ _ : Decidable c,
      ServoOnly n s (if c then (s.setPti n p).setFld (R.TIME.PTI_STAT.LOCKED n) 1 else s.setPti n p) := fun p c _ => by
    split
    · exact ((ServoOnly.refl n s).setPti p).setLocked 1
    · exact (ServoOnly.refl n s).setPti p
  apply ServoOnly.ite
  · apply ServoOnly.setLocked
    apply hruns
  · apply hruns

theorem servoOnly_servoAddend (s : State) (n : Nat) (off : Int) : ServoOnly n s (servoAddend s n off) := by
  obtain ⟨p, a, -, e⟩ := servoAddend_eq s n off
  rw [e]
  exact ((ServoOnly.refl n s).setPti p).setAddend a

/-! ### PPS_IN (R111) -/

section
variable {s : State} {n : Nat}

theorem ppsEdge_idle (h : s.flag (R.TIME.PTI_CFG.EN n) = false ∨ s.fld (R.TIME.PTI_CFG.ROLE n) ≠ 2 ∨
    s.fld (R.TIME.PTI_CFG.GM_SRC n) ≠ 1) : ppsEdge s n = s := by
  refine if_pos ?_
  rcases h with h | h | h <;> simp [h]

theorem foldl_ppsEdge_idle (l : List Nat) (h : ∀ n ∈ l, s.flag (R.TIME.PTI_CFG.EN n) = false ∨
    s.fld (R.TIME.PTI_CFG.ROLE n) ≠ 2 ∨ s.fld (R.TIME.PTI_CFG.GM_SRC n) ≠ 1) : l.foldl ppsEdge s = s := by
  induction l with
  | nil => rfl
  | cons n l ih =>
    rw [List.foldl_cons, ppsEdge_idle (h n List.mem_cons_self)]
    exact ih fun m hm => h m (List.mem_cons_of_mem _ hm)

/-- A PPS_IN edge within 100 us of the second steers the PTI by its servo. -/
theorem ppsEdge_steers (hen : s.flag (R.TIME.PTI_CFG.EN n) = true) (hrole : s.fld (R.TIME.PTI_CFG.ROLE n) = 2)
    (hsrc : s.fld (R.TIME.PTI_CFG.GM_SRC n) = 1) (hservo : s.flag (R.TIME.PTI_SERVO.EN n) = true)
    (hns : (s.pti n).time.ns < 100000) (hfrac : (s.pti n).time.frac < 2 ^ 32) (hg : grandHeld s = false) :
    ServoOnly n s (ppsEdge s n) ∧ addendLo ≤ (ppsEdge s n).addend n ∧ (ppsEdge s n).addend n ≤ addendHi := by
  have hunit : nsUnit = 4294967296 := rfl
  have hraw : (s.pti n).time.ns * nsUnit + (s.pti n).time.frac < 100000 * nsUnit := by
    rw [hunit]
    omega
  have e : ∃ off, ppsEdge s n = servoAddend (lockRuns s n off) n off := by
    refine ⟨(((s.pti n).time.ns * nsUnit + (s.pti n).time.frac : Nat) : Int) / 65536, ?_⟩
    unfold ppsEdge
    dsimp only
    generalize (s.pti n).time.ns * nsUnit + (s.pti n).time.frac = raw at hraw
    have hsoon : raw * 2 < 1000000000 * nsUnit := by rw [hunit] at hraw ⊢; omega
    have hnear : ¬100000 * nsUnit < (raw : Int).natAbs := by rw [Int.natAbs_natCast]; omega
    rw [if_neg (by simp [hen, hrole, hsrc, hg]), if_pos hsoon, if_neg hnear, if_pos hservo]
  obtain ⟨off, e⟩ := e
  rw [e]
  obtain ⟨-, hlo, hhi⟩ := servoAddend_leaves (lockRuns s n off) n off
  exact ⟨(servoOnly_lockRuns s n off).trans (servoOnly_servoAddend _ n off), hlo, hhi⟩

/-- The selected edge has been seen, before the PTIs follow it. -/
def ppsSeen (s : State) : State := { s with grd := { s.grd with ppsSeen := true } }.setFld R.GRD.TIO_STAT.PPS_LOSS 0

theorem ppsSeen_leaves (s : State) : (ppsSeen s).grd.ppsSeen = true ∧ (ppsSeen s).fld R.GRD.TIO_STAT.PPS_LOSS = 0 ∧
    (ppsSeen s).ptis = s.ptis ∧ ∀ f : Fld, f.key ≠ R.GRD.TIO_STAT.reg → (ppsSeen s).fld f = s.fld f :=
  ⟨rfl, State.fld_setFld_mod _ R.GRD.TIO_STAT.PPS_LOSS 0 rfl, rfl, fun _ hf => State.fld_setFld_ne _ 0 hf⟩

theorem ppsInEdge_eq (s : State) : ppsInEdge (s.flag R.TIME.PPS_CFG.IN_FALL) s = .next ([0, 1, 2, 3].foldl ppsEdge (ppsSeen s)) :=
  if_neg (by simp)

theorem ptiCfg_ne_tioStat {m : Nat} {f : Fld} (hf : f.key = R.TIME.PTI_CFG.reg m ∨ f.key = R.TIME.PTI_SERVO.reg m) :
    f.key ≠ R.GRD.TIO_STAT.reg := by
  simp only [R.TIME.PTI_CFG.reg, R.TIME.PTI_SERVO.reg, R.GRD.TIO_STAT.reg] at hf ⊢
  omega

theorem ppsInEdge_idle (h : ∀ n, n < 4 → s.flag (R.TIME.PTI_CFG.EN n) = false ∨
    s.fld (R.TIME.PTI_CFG.ROLE n) ≠ 2 ∨ s.fld (R.TIME.PTI_CFG.GM_SRC n) ≠ 1) :
    ∃ u, exec (.ppsInEdge (s.flag R.TIME.PPS_CFG.IN_FALL)) s = .next (follow s u) ∧ u.grd.ppsSeen = true ∧
      u.fld R.GRD.TIO_STAT.PPS_LOSS = 0 ∧ u.ptis = s.ptis := by
  obtain ⟨hseen, hloss, hptis, hfld⟩ := ppsSeen_leaves s
  refine ⟨ppsSeen s, followed_next ?_, hseen, hloss, hptis⟩
  rw [ppsInEdge_eq, foldl_ppsEdge_idle]
  intro n hn
  have hn4 : n < 4 := by simp at hn; omega
  rw [State.flag, hfld _ (ptiCfg_ne_tioStat (.inl rfl)), hfld _ (ptiCfg_ne_tioStat (.inl rfl)),
    hfld _ (ptiCfg_ne_tioStat (.inl rfl))]
  exact h n hn4

/-- One PTI alone is steered: the fold over all works on it once. -/
theorem foldl_ppsEdge_one (l : List Nat) (hl : ∀ m ∈ l, m < 4) (hnd : l.Nodup) (hn : n ∈ l) {s : State}
    (hstep : ServoOnly n s (ppsEdge s n))
    (hoff : ∀ m, m < 4 → m ≠ n → s.flag (R.TIME.PTI_CFG.EN m) = false) : l.foldl ppsEdge s = ppsEdge s n := by
  induction l with
  | nil => cases hn
  | cons m l ih =>
    obtain ⟨hm, hnd⟩ := List.nodup_cons.1 hnd
    by_cases e : m = n
    · subst e
      refine foldl_ppsEdge_idle l fun k hk => .inl ?_
      have hkm : k ≠ m := fun e => hm (e ▸ hk)
      rw [State.flag, hstep.touches.fld, ← State.flag]
      · exact hoff k (hl k (List.mem_cons_of_mem _ hk)) hkm
      · simp only [List.forall_mem_cons, Fld.apart, R.TIME.PTI_CFG.EN, R.TIME.PTI_STAT.LOCKED, R.TIME.PTI_ADDEND_INT.INT,
          R.TIME.PTI_ADDEND_FRAC.FRAC, Bool.or_eq_true, bne_iff_ne]
        exact ⟨.inl (.inl (by omega)), .inl (.inl (by omega)), .inl (.inl (by omega)), fun _ h => by cases h⟩
    · rw [List.foldl_cons, ppsEdge_idle (.inl (hoff m (hl m List.mem_cons_self) e))]
      exact ih (fun k hk => hl k (List.mem_cons_of_mem _ hk)) hnd ((List.mem_cons.1 hn).resolve_left (Ne.symm e))

theorem ppsInEdge_steers (hn : n < 4) (hen : s.flag (R.TIME.PTI_CFG.EN n) = true) (hrole : s.fld (R.TIME.PTI_CFG.ROLE n) = 2)
    (hsrc : s.fld (R.TIME.PTI_CFG.GM_SRC n) = 1) (hservo : s.flag (R.TIME.PTI_SERVO.EN n) = true)
    (hns : (s.pti n).time.ns < 100000) (hfrac : (s.pti n).time.frac < 2 ^ 32) (hg : grandHeld s = false)
    (hoff : ∀ m, m < 4 → m ≠ n → s.flag (R.TIME.PTI_CFG.EN m) = false) :
    ∃ u, exec (.ppsInEdge (s.flag R.TIME.PPS_CFG.IN_FALL)) s = .next (follow s u) ∧ u.grd.ppsSeen = true ∧
      addendLo ≤ u.addend n ∧ u.addend n ≤ addendHi := by
  obtain ⟨hseen, -, hptis, hfld⟩ := ppsSeen_leaves s
  have hflag : ∀ m, m < 4 → ∀ f : Fld, f.key = R.TIME.PTI_CFG.reg m ∨ f.key = R.TIME.PTI_SERVO.reg m →
      (ppsSeen s).fld f = s.fld f := fun m hm f hf => hfld f (ptiCfg_ne_tioStat hf)
  have htime : (ppsSeen s).pti n = s.pti n := by rw [State.pti, hptis, State.pti]
  have hg' : grandHeld (ppsSeen s) = false := (grandHeld_eq (hfld _ (by decide))).trans hg
  obtain ⟨hstep, hlo, hhi⟩ := ppsEdge_steers (s := ppsSeen s) (n := n)
    (by rw [State.flag, hflag n hn _ (.inl rfl)]; exact hen) ((hflag n hn _ (.inl rfl)).trans hrole)
    ((hflag n hn _ (.inl rfl)).trans hsrc) (by rw [State.flag, hflag n hn _ (.inr rfl)]; exact hservo)
    (by rw [htime]; exact hns) (by rw [htime]; exact hfrac) hg'
  refine ⟨ppsEdge (ppsSeen s) n, followed_next ?_, ?_, hlo, hhi⟩
  · rw [ppsInEdge_eq, foldl_ppsEdge_one _ (by simp) (by decide) (by simp; omega) hstep]
    intro m hm hmn
    rw [State.flag, hflag m hm _ (.inl rfl)]
    exact hoff m hm hmn
  · obtain ⟨a, b, c, e⟩ := hstep.frame
    rw [e]
    exact hseen

/-! ### The handback (R118) -/

/-- An enabled PTI takes its time from the slow counter. -/
def handBack (s : State) (n : Nat) : State :=
  if s.flag (R.TIME.PTI_CFG.EN n) then
    ptiStep s n ((((s.pwr.slowTime * 2 ^ 26 : Nat) : Int) + s.pwr.diffs.getD n 0) - (s.ptiRaw n : Int))
  else s

theorem timeHandback_eq (h : s.pwr.handbackDue = true) : timeHandback s = .next { [0, 1, 2, 3].foldl handBack s with
    pwr := { ([0, 1, 2, 3].foldl handBack s).pwr with handover := false, handbackDue := false } } :=
  if_neg (by rw [h]; decide)

theorem foldl_handBack_idle (l : List Nat) (h : ∀ n ∈ l, s.flag (R.TIME.PTI_CFG.EN n) = false) : l.foldl handBack s = s := by
  induction l with
  | nil => rfl
  | cons n l ih =>
    rw [List.foldl_cons, handBack, if_neg (by rw [h n List.mem_cons_self]; decide)]
    exact ih fun m hm => h m (List.mem_cons_of_mem _ hm)

theorem flag_en_handBack {m : Nat} (hm : m < 4) :
    (handBack s n).flag (R.TIME.PTI_CFG.EN m) = s.flag (R.TIME.PTI_CFG.EN m) := by
  unfold handBack
  split
  · rw [State.flag, (ptiStep_stays s n _).fld (by simp only [R.TIME.PTI_CFG.EN]; omega) (by simp only [R.TIME.PTI_CFG.EN]; omega),
      ptiStepped, State.fld_setFld_ne _ _ (by simp only [R.TIME.PTI_CFG.EN, R.TIME.PTI_STAT.STEP_EV]; omega), fld_setPti,
      State.flag]
  · rfl

theorem foldl_handBack_one (l : List Nat) (hl : ∀ m ∈ l, m < 4) (hnd : l.Nodup) (hn : n ∈ l)
    (hoff : ∀ m, m < 4 → m ≠ n → s.flag (R.TIME.PTI_CFG.EN m) = false) : l.foldl handBack s = handBack s n := by
  induction l with
  | nil => cases hn
  | cons m l ih =>
    obtain ⟨hm, hnd⟩ := List.nodup_cons.1 hnd
    have hm4 := hl m List.mem_cons_self
    by_cases e : m = n
    · subst e
      refine foldl_handBack_idle l fun k hk => ?_
      have hk4 := hl k (List.mem_cons_of_mem _ hk)
      rw [flag_en_handBack hk4]
      exact hoff k hk4 fun e => hm (e ▸ hk)
    · rw [List.foldl_cons, handBack, if_neg (by rw [hoff m hm4 e]; decide)]
      exact ih (fun k hk => hl k (List.mem_cons_of_mem _ hk)) hnd ((List.mem_cons.1 hn).resolve_left (Ne.symm e))

theorem handBack_leaves {goal : Nat} (hn : n < 4) (hl : n < s.ptis.length) (hen : s.flag (R.TIME.PTI_CFG.EN n) = true)
    (hgoal : (goal : Int) = ((s.pwr.slowTime * 2 ^ 26 : Nat) : Int) + s.pwr.diffs.getD n 0)
    (hlt : goal < 2 ^ 48 * 1000000000 * 2 ^ 32) :
    (handBack s n).ptiRaw n = goal ∧ (handBack s n).fld (R.TIME.PTI_STAT.STEP_EV n) = 1 := by
  have hstep := ptiStep_stays s n ((goal : Int) - (s.ptiRaw n : Int))
  have e : handBack s n = ptiStep s n ((goal : Int) - (s.ptiRaw n : Int)) := by
    rw [handBack, if_pos hen, hgoal]
  have hnew : ((toRaw (s.pti n).time : Int) + ((goal : Int) - (s.ptiRaw n : Int))).toNat = goal := by
    rw [ptiRaw_eq]
    omega
  rw [e]
  constructor
  · rw [ptiRaw_eq, State.pti, hstep.ptis, ← State.pti, ptiStepped, pti_setFld, State.pti_setPti_self _ hl, hnew]
    exact toRaw_ofRaw hlt
  · rw [hstep.fld (by simp only [R.TIME.PTI_STAT.STEP_EV]; omega) (by simp only [R.TIME.PTI_STAT.STEP_EV]; omega), ptiStepped]
    exact State.fld_setFld_mod _ (R.TIME.PTI_STAT.STEP_EV n) 1 rfl

end

/-- Settles O13. -/
theorem ppsPtmAndDormantTime : Obligations.PpsPtmAndDormantTime := by
  unfold Obligations.PpsPtmAndDormantTime
  intro s
  refine ⟨fun f hf h => hf ▸ ppsInEdge_idle h, fun n hn _ hen hrole hsrc hservo hns hfrac hg hoff =>
    ppsInEdge_steers hn hen hrole hsrc hservo hns hfrac hg hoff, fun hen hlt => ⟨_, if_pos ⟨hen, hlt⟩, rfl⟩,
    fun root hen hup => ?_, fun ppb hx hon => ?_, fun n goal hdue hn hl hen hoff hgoal hlt _ _ _ => ?_⟩
  · refine ⟨_, (if_neg (by simp [hen, hup])).trans (if_pos rfl), rfl, State.fld_setFld_mod s R.TIME.PTM_CFG.NEW 1 rfl, rfl, rfl, ?_⟩
    exact touches_rf (t := s.setFld R.TIME.PTM_CFG.NEW 1) rfl (touches_setFld (by simp) (.refl _ s))
  · have hw : ofSigned 32 ppb < 2 ^ 32 := by unfold ofSigned; omega
    refine ⟨_, if_neg (by simp [hx, hon]), rfl, State.fld_setFld_lt s R.TIME.TRIM.PPB (by decide) hw, ?_⟩
    exact touches_rf (t := s.setFld R.TIME.TRIM.PPB _) rfl (touches_setFld (by simp) (.refl _ s))
  · have hfold : [0, 1, 2, 3].foldl handBack s = handBack s n :=
      foldl_handBack_one _ (by simp) (by decide) (by simp; omega) hoff
    obtain ⟨hraw, hev⟩ := handBack_leaves hn hl hen hgoal hlt
    refine ⟨_, followed_next (timeHandback_eq hdue), ?_, ?_, rfl, rfl⟩
    · rw [hfold]
      exact hraw
    · rw [hfold]
      exact hev

end Sys2Proof.Machine
end

section
/-! Platens and update groups (R119 to R123, R140 to R142). -/

namespace Sys2Proof.Machine

/-! ### Folds that visit each element once -/

/-- What a fold does at `k` where every other element keeps a relation. -/
theorem foldl_visits {α β : Type} {g : β → α → β} {P : β → β → Prop} (hrefl : ∀ u, P u u) (htrans : ∀ {u v w}, P u v → P v w → P u w)
    {l : List α} (hnd : l.Nodup) {k : α} (hk : k ∈ l) (hg : ∀ u, ∀ j ∈ l, j ≠ k → P u (g u j)) (s : β) :
    ∃ u, P s u ∧ P (g u k) (l.foldl g s) := by
  induction l generalizing s with
  | nil => cases hk
  | cons j l ih =>
    obtain ⟨hj, hnd⟩ := List.nodup_cons.1 hnd
    by_cases e : j = k
    · subst e
      refine ⟨s, hrefl s, ?_⟩
      have hrest : ∀ l' : List α, (∀ i ∈ l', i ∈ l) → ∀ t, P t (l'.foldl g t) := by
        intro l' hl'
        induction l' with
        | nil => exact hrefl
        | cons i l' ih' =>
          intro t
          have hi := hl' i List.mem_cons_self
          exact htrans (hg t i (List.mem_cons_of_mem _ hi) fun e => hj (e ▸ hi))
            (ih' (fun a ha => hl' a (List.mem_cons_of_mem _ ha)) _)
      exact hrest l (fun _ h => h) _
    · obtain ⟨u, hu, hv⟩ := ih hnd ((List.mem_cons.1 hk).resolve_left (Ne.symm e))
        (fun u i hi => hg u i (List.mem_cons_of_mem _ hi)) (g s j)
      exact ⟨u, htrans (hg s j List.mem_cons_self e) hu, hv⟩

/-! ### Bits of words -/

theorem nbit_toNat {n : Nat} (v : BitVec n) (i : Nat) : nbit v.toNat i = v.getLsbD i := rfl

/-- A mask that holds the bits read leaves them. -/
theorem bits_and {v m : Word} {lo w : Nat} (h : ∀ i, i < w → m.getLsbD (lo + i) = true) :
    bits (v &&& m).toNat lo w = bits v.toNat lo w := by
  apply Nat.eq_of_testBit_eq
  intro i
  have hm : ∀ i, m.toNat.testBit i = m.getLsbD i := fun _ => rfl
  simp only [bits, Nat.testBit_mod_two_pow, Nat.testBit_shiftRight, BitVec.toNat_and, Nat.testBit_and, hm]
  by_cases hi : i < w
  · simp [hi, h i hi]
  · simp [hi]

theorem bits_eq_zero_bit {n lo w i : Nat} (h : bits n lo w = 0) (hi : i < w) : nbit n (lo + i) = false := by
  have := congrArg (fun x => x.testBit i) h
  simpa [bits, Nat.testBit_mod_two_pow, Nat.testBit_shiftRight, hi, nbit] using this

theorem of_one_bit {f : Fld} (hw : f.w = 1) (x : Word) : f.of x = b2n (x.getLsbD f.lo) := by
  have hbit : f.of x < 2 := by rw [Fld.of, hw]; omega
  have := testBit_of f x 0
  rw [hw, Nat.add_zero] at this
  rcases hx : x.getLsbD f.lo with _ | _ <;> rw [hx] at this <;> simp [Nat.testBit_zero] at this <;> simp [b2n] <;> omega

theorem flag_one_bit {s : State} {f : Fld} (hw : f.w = 1) : s.flag f = (s.rd f.key).getLsbD f.lo := by
  rw [State.flag, State.fld, of_one_bit hw]
  cases (s.rd f.key).getLsbD f.lo <;> rfl

/-! ### Arming (R120) -/

section
variable {s : State} {k : Nat}

theorem pl_setPl_self (p : Platen) (h : k < s.platens.length) : (s.setPl k p).pl k = p := getD_modifyAt_self _ _ h

theorem pl_setPl_ne (s : State) {j k : Nat} (p : Platen) (h : j ≠ k) : (s.setPl k p).pl j = s.pl j := getD_modifyAt_ne _ _ _ h

theorem rd_holdAt_ne (old : State) (key : Nat) {j : Nat} (h : j ≠ R.REGIF.CFG_CRC_STAT.reg) :
    (holdAt old s key).rd j = s.rd j := by
  rcases holdAt_cases old s key with e | e
  · rw [e]
  · rw [e]
    exact State.rd_setFld_ne s 1 h

theorem plCfgWrite_arms {v : Word} (harm : v.getLsbD 31 = true) (hmode : bits v.toNat 29 2 = 1) (hact : bits v.toNat 24 2 = 0)
    (hns : s.fld (R.TIME.PL_T_NS.VALUE k) < 1000000000)
    (hlate : s.ptiRaw (bits v.toNat 27 2) + 1000 * nsUnit ≤ plFire (s.setPl k { s.pl k with frac := 0 }) k) :
    plCfgWrite s k v = (s.setPl k { s.pl k with frac := 0 }).wr (R.TIME.PL_CFG.reg k) (v &&& 0xFF0FFCFF#32) := by
  have harm' : (v &&& 0xFF0FFCFF#32).getLsbD 31 = true := by rw [BitVec.getLsbD_and, harm]; decide
  have hmode' : bits (v &&& 0xFF0FFCFF#32).toNat 29 2 = 1 := (bits_and (by decide)).trans hmode
  have h24 : nbit (v &&& 0xFF0FFCFF#32).toNat 24 = false := by
    rw [nbit_toNat, BitVec.getLsbD_and]
    have := bits_eq_zero_bit (i := 0) hact (by decide)
    rw [nbit_toNat] at this
    rw [this]
    decide
  have h25 : nbit (v &&& 0xFF0FFCFF#32).toNat 25 = false := by
    rw [nbit_toNat, BitVec.getLsbD_and]
    have := bits_eq_zero_bit (i := 1) hact (by decide)
    rw [nbit_toNat] at this
    rw [this]
    decide
  have hpti : bits (v &&& 0xFF0FFCFF#32).toNat 27 2 = bits v.toNat 27 2 := bits_and (by decide)
  have hgood : ¬(1000000000 ≤ s.fld (R.TIME.PL_T_NS.VALUE k) ∨
      (bits (v &&& 0xFF0FFCFF#32).toNat 29 2 = 2 ∧ plPeriod s k < 10000 * nsUnit) ∨
      ((nbit (v &&& 0xFF0FFCFF#32).toNat 25 && !alignHas s (bits (v &&& 0xFF0FFCFF#32).toNat 16 4)) = true) ∨
      (nbit (v &&& 0xFF0FFCFF#32).toNat 24 = true ∧ 8 ≤ bits (v &&& 0xFF0FFCFF#32).toNat 12 4)) := by
    rw [hmode', h24, h25]
    simp
    omega
  unfold plCfgWrite
  dsimp only
  rw [if_neg (by rw [harm']; decide), if_neg (by rw [hmode']; decide), if_neg (by rw [hmode']; decide), if_neg (by simpa using hgood),
    hpti, if_neg (Nat.not_lt.2 hlate)]

theorem platenArmWrite_goes {v : Word} (hk : k < 16) (harm : v.getLsbD 31 = true) (hmode : bits v.toNat 29 2 = 1)
    (hact : bits v.toNat 24 2 = 0) (hns : s.fld (R.TIME.PL_T_NS.VALUE k) < 1000000000)
    (hlate : s.ptiRaw (bits v.toNat 27 2) + 1000 * nsUnit ≤ plFire (s.setPl k { s.pl k with frac := 0 }) k) :
    Goes (.platenArmWrite k v) s fun t => t.rd (R.TIME.PL_CFG.reg k) = v &&& 0xFF0FFCFF#32 ∧
      t.flag (R.TIME.PL_CFG.ARM k) = true := by
  have hne : R.TIME.PL_CFG.reg k ≠ R.REGIF.CFG_CRC_STAT.reg := by
    simp only [R.TIME.PL_CFG.reg, R.REGIF.CFG_CRC_STAT.reg]
    omega
  have hrd : (holdAt s (plCfgWrite s k v) (R.TIME.PL_CFG.reg k)).rd (R.TIME.PL_CFG.reg k) = v &&& 0xFF0FFCFF#32 := by
    rw [rd_holdAt_ne _ _ hne, plCfgWrite_arms harm hmode hact hns hlate, State.rd_wr_self]
  refine ⟨_, ?_, hrd, ?_⟩
  · rw [show exec (.platenArmWrite k v) s = execPlatenArmWrite k v s from rfl, execPlatenArmWrite, Nat.mod_eq_of_lt hk]
  · rw [flag_one_bit rfl]
    show BitVec.getLsbD (State.rd _ (R.TIME.PL_CFG.reg k)) 31 = true
    rw [hrd, BitVec.getLsbD_and, harm]
    decide

/-! ### Firing (R121, R122) -/

/-- A firing platen takes its update groups along. -/
def platenUpd (s : State) (k : Nat) : State :=
  if s.flag (R.TIME.PL_CFG.ACT_UPD k) then
    s.setPl k { s.pl k with inflight := s.fld (R.TIME.PL_GROUPS.UPD k), fired := plFire s k }
  else s

theorem platenUpd_frame (s : State) (k : Nat) : ∃ p, platenUpd s k = { s with platens := p } := by
  unfold platenUpd
  split
  · exact ⟨_, rfl⟩
  · exact ⟨_, rfl⟩

/-- A platen of a single shot whose action is its update groups at most. -/
def platenFired (s : State) (k : Nat) : State :=
  ((platenUpd s k).setFld (R.TIME.PL_STAT.FIRED_EV k) 1).setFld (R.TIME.PL_CFG.ARM k) 0

theorem fld_platenUpd (s : State) (k : Nat) (f : Fld) : (platenUpd s k).fld f = s.fld f := by
  obtain ⟨p, hp⟩ := platenUpd_frame s k
  rw [hp]
  rfl

theorem pl_setFld (s : State) (f : Fld) (v k : Nat) : (s.setFld f v).pl k = s.pl k := rfl

theorem fw_setFld (s : State) (f : Fld) (v : Nat) : (s.setFld f v).fw = s.fw := rfl

theorem platenFire_single (hmode : s.fld (R.TIME.PL_CFG.MODE k) = 1) (htdm : s.flag (R.TIME.PL_CFG.ACT_TDM k) = false)
    (hgpio : s.flag (R.TIME.PL_CFG.ACT_GPIO k) = false) : platenFire s k = platenFired s k := by
  have hupd : (if s.flag (R.TIME.PL_CFG.ACT_UPD k) = true then
      s.setPl k { s.pl k with inflight := s.fld (R.TIME.PL_GROUPS.UPD k), fired := plFire s k } else s) = platenUpd s k := rfl
  have hflag : ∀ f, (platenUpd s k).flag f = s.flag f := fun f => by rw [State.flag, fld_platenUpd, State.flag]
  have hne : (R.TIME.PL_CFG.MODE k).key ≠ (R.TIME.PL_STAT.FIRED_EV k).key := by
    simp only [R.TIME.PL_CFG.MODE, R.TIME.PL_STAT.FIRED_EV]
    omega
  unfold platenFire
  dsimp only
  rw [hupd, hflag, htdm, if_neg Bool.false_ne_true, hflag, hgpio, if_neg Bool.false_ne_true,
    State.fld_setFld_ne _ _ hne, fld_platenUpd, hmode, if_neg (by decide), platenFired]

/-- `t` is `s` but for registers and platens. -/
def PlFrame (s t : State) : Prop := t = { s with rf := t.rf, platens := t.platens }

theorem PlFrame.setFld {s t : State} (h : PlFrame s t) (f : Fld) (v : Nat) : PlFrame s (t.setFld f v) := by
  unfold PlFrame at *
  rw [setFld_frame]
  generalize (t.setFld f v).rf = r
  rw [h]

theorem plFrame_platenFired (s : State) (k : Nat) : PlFrame s (platenFired s k) := by
  obtain ⟨p, hp⟩ := platenUpd_frame s k
  have hupd : PlFrame s (platenUpd s k) := by
    rw [hp]
    rfl
  exact (hupd.setFld _ _).setFld _ _

theorem fw_platenFired (s : State) (k : Nat) : (platenFired s k).fw = s.fw := by
  have h := plFrame_platenFired s k
  generalize platenFired s k = t at h
  rw [h]

theorem pl_platenFired (hl : k < s.platens.length) (hupd : s.flag (R.TIME.PL_CFG.ACT_UPD k) = true) :
    (platenFired s k).pl k = { s.pl k with inflight := s.fld (R.TIME.PL_GROUPS.UPD k), fired := plFire s k } := by
  rw [platenFired, pl_setFld, pl_setFld, platenUpd, if_pos hupd]
  exact pl_setPl_self _ hl

theorem execPlatenFire_single (hk : k < 16) (hdue : plDue s k = true) (hmode : s.fld (R.TIME.PL_CFG.MODE k) = 1)
    (htdm : s.flag (R.TIME.PL_CFG.ACT_TDM k) = false) (hgpio : s.flag (R.TIME.PL_CFG.ACT_GPIO k) = false)
    (howner : (s.pl k).owner = 0) (hroute : s.fw.route = none) : execPlatenFire k s = .next (platenFired s k) := by
  unfold execPlatenFire
  dsimp only
  rw [Nat.mod_eq_of_lt hk, hdue, if_neg (by decide), howner, if_neg (by decide), platenFire_single hmode htdm hgpio,
    fw_platenFired, hroute]

theorem platenFire_goes (hk : k < 16) (hl : k < s.platens.length) (hdue : plDue s k = true) (hmode : s.fld (R.TIME.PL_CFG.MODE k) = 1)
    (htdm : s.flag (R.TIME.PL_CFG.ACT_TDM k) = false) (hgpio : s.flag (R.TIME.PL_CFG.ACT_GPIO k) = false)
    (howner : (s.pl k).owner = 0) (hroute : s.fw.route = none) : Goes (.platenFire k) s fun t =>
      t = { s with rf := t.rf, platens := t.platens } ∧ t.fld (R.TIME.PL_CFG.ARM k) = 0 ∧
        t.fld (R.TIME.PL_STAT.FIRED_EV k) = 1 ∧
        (s.flag (R.TIME.PL_CFG.ACT_UPD k) = true → (t.pl k).inflight = s.fld (R.TIME.PL_GROUPS.UPD k) ∧
          (t.pl k).fired = plFire s k) := by
  have hne : (R.TIME.PL_STAT.FIRED_EV k).key ≠ (R.TIME.PL_CFG.ARM k).key := by
    simp only [R.TIME.PL_CFG.ARM, R.TIME.PL_STAT.FIRED_EV]
    omega
  refine ⟨platenFired s k, execPlatenFire_single hk hdue hmode htdm hgpio howner hroute, plFrame_platenFired s k,
    State.fld_setFld_mod _ (R.TIME.PL_CFG.ARM k) 0 rfl, ?_, fun hupd => ?_⟩
  · rw [platenFired, State.fld_setFld_ne _ _ hne]
    exact State.fld_setFld_mod _ (R.TIME.PL_STAT.FIRED_EV k) 1 rfl
  · rw [pl_platenFired hl hupd]
    exact ⟨rfl, rfl⟩

/-! ### Captures (R123) -/

/-- An edge of a capture source at one platen. -/
def captureEdge (src : Nat) (falling : Bool) (s : State) (k : Nat) : State :=
  let e := s.fld (R.TIME.PL_CFG.EDGE k)
  if s.fld (R.TIME.PL_CFG.MODE k) = 3 ∧ s.flag (R.TIME.PL_CFG.ARM k) ∧ s.fld (R.TIME.PL_CFG.SRC k) = src ∧
      (e = 2 ∨ e = b2n falling) then
    match (s.pl k).capture with
    | some _ => s.setFld (R.TIME.PL_STAT.OVERRUN k) 1
    | none =>
      (s.setPl k { s.pl k with capture := some (s.pti (s.fld (R.TIME.PL_CFG.PTI k))).time }).setFld
        (R.TIME.PL_STAT.CAPT_EV k) 1
  else s

/-- From `s` to `t` platen `k`, its registers and the PTIs stay. -/
structure PlatenStays (k : Nat) (s t : State) : Prop where
  pl     : t.pl k = s.pl k
  cfg    : t.rd (R.TIME.PL_CFG.reg k) = s.rd (R.TIME.PL_CFG.reg k)
  stat   : t.rd (R.TIME.PL_STAT.reg k) = s.rd (R.TIME.PL_STAT.reg k)
  ptis   : t.ptis = s.ptis
  length : t.platens.length = s.platens.length

namespace PlatenStays

theorem refl (k : Nat) (s : State) : PlatenStays k s s := ⟨rfl, rfl, rfl, rfl, rfl⟩

theorem trans {s t u : State} (h : PlatenStays k s t) (h' : PlatenStays k t u) : PlatenStays k s u :=
  ⟨h'.pl.trans h.pl, h'.cfg.trans h.cfg, h'.stat.trans h.stat, h'.ptis.trans h.ptis, h'.length.trans h.length⟩

theorem setStat {s t : State} (h : PlatenStays k s t) {j : Nat} (hj : j ≠ k) {f : Fld} (hf : f.key = R.TIME.PL_STAT.reg j)
    (v : Nat) : PlatenStays k s (t.setFld f v) :=
  h.trans ⟨rfl, State.rd_setFld_ne t v (by rw [hf]; simp only [R.TIME.PL_CFG.reg, R.TIME.PL_STAT.reg]; omega),
    State.rd_setFld_ne t v (by rw [hf]; simp only [R.TIME.PL_STAT.reg]; omega), rfl, rfl⟩

theorem setPl {s t : State} (h : PlatenStays k s t) {j : Nat} (hj : j ≠ k) (p : Platen) : PlatenStays k s (t.setPl j p) :=
  h.trans ⟨pl_setPl_ne t p (Ne.symm hj), rfl, rfl, rfl, length_modifyAt ..⟩

end PlatenStays

theorem platenStays_captureEdge (src : Nat) (falling : Bool) (s : State) {j k : Nat} (hj : j ≠ k) :
    PlatenStays k s (captureEdge src falling s j) := by
  unfold captureEdge
  dsimp only
  split
  · split
    · exact (PlatenStays.refl k s).setStat hj rfl 1
    · exact ((PlatenStays.refl k s).setPl hj _).setStat hj rfl 1
  · exact .refl k s

/-- A captured edge leaves its time, or an overrun where a capture is unreleased. -/
theorem platenCaptureEdge_leaves {src : Nat} (fall : Bool) (hk : k < 16) (hl : k < s.platens.length)
    (hmode : s.fld (R.TIME.PL_CFG.MODE k) = 3) (harm : s.flag (R.TIME.PL_CFG.ARM k) = true)
    (hsrc : s.fld (R.TIME.PL_CFG.SRC k) = src) (hedge : s.fld (R.TIME.PL_CFG.EDGE k) = 2) :
    ((s.pl k).capture = none → Goes (.platenCaptureEdge src fall) s fun t =>
      (t.pl k).capture = some (s.pti (s.fld (R.TIME.PL_CFG.PTI k))).time ∧ t.fld (R.TIME.PL_STAT.CAPT_EV k) = 1) ∧
    ((s.pl k).capture ≠ none → Goes (.platenCaptureEdge src fall) s fun t =>
      (t.pl k).capture = (s.pl k).capture ∧ t.fld (R.TIME.PL_STAT.OVERRUN k) = 1) := by
  have hrun : exec (.platenCaptureEdge src fall) s = .next ((List.range 16).foldl (captureEdge src fall) s) := rfl
  obtain ⟨u, hu, hv⟩ := foldl_visits (P := PlatenStays k) (PlatenStays.refl k) PlatenStays.trans List.nodup_range
    (List.mem_range.2 hk) (fun u j _ hj => platenStays_captureEdge src fall u hj) s
  generalize (List.range 16).foldl (captureEdge src fall) s = v at hrun hv
  have hcfg : ∀ f : Fld, f.key = R.TIME.PL_CFG.reg k → u.fld f = s.fld f := fun f hf => by
    rw [State.fld, hf, hu.cfg, ← hf, ← State.fld]
  have hstat : ∀ f : Fld, f.key = R.TIME.PL_STAT.reg k → v.fld f = (captureEdge src fall u k).fld f := fun f hf => by
    rw [State.fld, hf, hv.stat, ← hf, ← State.fld]
  have hsees : u.fld (R.TIME.PL_CFG.MODE k) = 3 ∧ u.flag (R.TIME.PL_CFG.ARM k) = true ∧ u.fld (R.TIME.PL_CFG.SRC k) = src ∧
      (u.fld (R.TIME.PL_CFG.EDGE k) = 2 ∨ u.fld (R.TIME.PL_CFG.EDGE k) = b2n fall) := by
    rw [State.flag, hcfg _ rfl, hcfg _ rfl, hcfg _ rfl, hcfg _ rfl, ← State.flag]
    exact ⟨hmode, harm, hsrc, .inl hedge⟩
  have hlen : k < u.platens.length := by rw [hu.length]; exact hl
  refine ⟨fun h => ⟨v, hrun, ?_⟩, fun h => ⟨v, hrun, ?_⟩⟩
  · have e : captureEdge src fall u k = (u.setPl k { u.pl k with
        capture := some (u.pti (u.fld (R.TIME.PL_CFG.PTI k))).time }).setFld (R.TIME.PL_STAT.CAPT_EV k) 1 := by
      have hcap : (u.pl k).capture = none := by rw [hu.pl]; exact h
      rw [captureEdge, if_pos hsees, hcap]
    refine ⟨(congrArg Platen.capture hv.pl).trans ?_, ?_⟩
    · rw [e, pl_setFld, pl_setPl_self _ hlen, hcfg _ rfl, State.pti, hu.ptis, ← State.pti]
    · rw [hstat _ rfl, e]
      exact State.fld_setFld_mod _ (R.TIME.PL_STAT.CAPT_EV k) 1 rfl
  · obtain ⟨c, hc⟩ := Option.ne_none_iff_exists'.1 h
    have e : captureEdge src fall u k = u.setFld (R.TIME.PL_STAT.OVERRUN k) 1 := by
      have hcap : (u.pl k).capture = some c := by rw [hu.pl]; exact hc
      rw [captureEdge, if_pos hsees, hcap]
    refine ⟨(congrArg Platen.capture hv.pl).trans ?_, ?_⟩
    · rw [e, pl_setFld, hu.pl]
    · rw [hstat _ rfl, e]
      exact State.fld_setFld_mod _ (R.TIME.PL_STAT.OVERRUN k) 1 rfl

/-! ### Update strobes (R140, R141) -/

theorem nbit_of_mem_differing {groups : Nat} {c : Cap} (h : c ∈ differing s groups) : nbit groups c.grp = true := by
  obtain ⟨k, -, hk⟩ := List.mem_filterMap.1 h
  revert hk
  split
  · intro hk
    cases hk
  · intro hk
    split at hk
    · next hg =>
      cases hk
      simpa using (Bool.and_eq_true_iff.1 hg).1
    · cases hk

/-- Groups without the imposition table, the clocks and the time engine wait as captured. -/
theorem updateStrobe_captures {groups : Nat} (h1 : nbit groups 1 = false) (h2 : nbit groups 2 = false) (h3 : nbit groups 3 = false)
    (hlt : groups < 65536) : ∃ u, exec (.updateStrobe groups) s = .next (follow s u) ∧
      u.cap = s.cap.filter (fun c => !nbit groups c.grp) ++ differing s groups ∧ u.marks = newMarks s groups ∧ u.sh = s.sh ∧
      Touches [R.REGIF.UPDATE_STAT.PENDING, R.REGIF.CFG_CRC_STAT.HOLD] s u := by
  have hne : ∀ g, nbit groups g = false → ∀ c ∈ differing s groups, c.grp ≠ g := fun g hg c hc e => by
    have := nbit_of_mem_differing hc
    rw [e, hg] at this
    cases this
  have hkeep : (differing s groups).filter (fun c => c.grp != 2 && c.grp != 3) = differing s groups :=
    List.filter_eq_self.2 fun c hc => by simp [hne 2 h2 c hc, hne 3 h3 c hc]
  have hclk : (differing s groups).filter (fun c => c.grp == 2) = [] :=
    List.filter_eq_nil_iff.2 fun c hc => by simp [hne 2 h2 c hc]
  have htime : (differing s groups).filter (fun c => c.grp == 3) = [] :=
    List.filter_eq_nil_iff.2 fun c hc => by simp [hne 3 h3 c hc]
  let v : State := { s with
    cap := s.cap.filter (fun c => !nbit groups c.grp), marks := newMarks s groups
    strobes := s.strobes.filter (fun x => !nbit groups x.1) ++
      ((List.range 16).filter (nbit groups)).map fun g => (g, 0, s.ptiRaw 0) }
  have hcap : capture s (groups % 65536) = pendRefresh { v.crcHold with cap := v.crcHold.cap ++ differing s groups } := by
    rw [Nat.mod_eq_of_lt hlt]
    unfold capture captureAt
    dsimp only
    rw [if_neg (by rw [h1]; decide), hkeep, hclk, htime]
    rfl
  refine ⟨capture s (groups % 65536), rfl, ?_⟩
  rw [hcap]
  have hhold : v.crcHold.cap = v.cap ∧ v.crcHold.marks = v.marks ∧ v.crcHold.sh = v.sh ∧
      Touches [R.REGIF.UPDATE_STAT.PENDING, R.REGIF.CFG_CRC_STAT.HOLD] s v.crcHold := by
    unfold State.crcHold
    split
    · exact ⟨rfl, rfl, rfl, touches_setFld (by simp) (touches_rf (t := s) rfl (.refl _ s))⟩
    · exact ⟨rfl, rfl, rfl, touches_rf (t := s) rfl (.refl _ s)⟩
  obtain ⟨hc, hm, hsh, ht⟩ := hhold
  refine ⟨?_, hm, hsh, touches_setFld (by simp) (touches_rf (t := v.crcHold) rfl ht)⟩
  show v.crcHold.cap ++ differing s groups = _
  rw [hc]

/-! ### A group at its boundary (R142, R417) -/

theorem capVal_capDrop_self (s : State) (k : Nat) : capVal (capDrop s [k]) k = none := by
  rw [capVal, Option.map_eq_none_iff, List.find?_eq_none]
  intro c hc
  have := (List.mem_filter.1 hc).2
  simpa using this

theorem shadowApply_frmCfg {v : Word} (hv : capVal s R.FRM.CFG.reg = some v)
    (hcap : s.cap.any (fun c => c.grp == 14 && unitOf c.key == 0) = true) :
    ∃ u, exec (.shadowApplyAtBoundary 14 0) s = .next (follow s u) ∧ u.rd R.FRM.CFG.reg = v ∧
      capVal u R.FRM.CFG.reg = none ∧ ∀ j, j ≠ R.FRM.CFG.reg → j ≠ R.REGIF.UPDATE_STAT.reg → u.rd j = s.rd j := by
  have hunit : applyUnit s 14 0 = capDrop (s.wr R.FRM.CFG.reg v) [R.FRM.CFG.reg] := by
    rw [applyUnit, if_neg (by decide)]
    show capApply s [R.FRM.CFG.reg] = _
    rw [capApply, hv, capApply]
  let w : State := { capDrop (s.wr R.FRM.CFG.reg v) [R.FRM.CFG.reg] with
    marks := (capDrop (s.wr R.FRM.CFG.reg v) [R.FRM.CFG.reg]).marks.filter (· != (14, 0)) }
  refine ⟨pendRefresh w, ?_, ?_, ?_, fun j hj hj' => ?_⟩
  · refine (if_pos ⟨.inl hcap, rfl⟩).trans ?_
    rw [hunit]
    rfl
  · refine (State.rd_setFld_ne w _ (by decide)).trans ?_
    exact State.rd_wr_self ..
  · exact capVal_capDrop_self (s.wr R.FRM.CFG.reg v) R.FRM.CFG.reg
  · refine (State.rd_setFld_ne w _ hj').trans ?_
    exact State.rd_wr_ne s v hj

end

/-- Settles O14. -/
theorem platensAndUpdateGroups : Obligations.PlatensAndUpdateGroups := by
  unfold Obligations.PlatensAndUpdateGroups
  intro s k hk hl
  exact ⟨fun v => platenArmWrite_goes hk, platenFire_goes hk hl, fun h => ⟨_, if_neg h, rfl⟩,
    fun src fall => platenCaptureEdge_leaves fall hk hl, fun groups => updateStrobe_captures, fun v => shadowApply_frmCfg⟩

end Sys2Proof.Machine
end

section
/-! The boot image and the boot forme (R199 to R201, R415, R416). -/

namespace Sys2Proof.Machine

/-! ### Lists of field writes -/

namespace State

theorem fld_setFlds_apart (s : State) {ps : List (Fld × Nat)} {f : Fld} (h : ps.all (fun p => f.apart p.1) = true) :
    (s.setFlds ps).fld f = s.fld f := by
  induction ps generalizing s with
  | nil => rfl
  | cons p ps ih =>
    obtain ⟨hp, hps⟩ := Bool.and_eq_true_iff.1 h
    rw [setFlds_cons, ih _ hps, fld_setFld_apart _ _ hp]

/-- A list of writes leaves in a field what it writes there last; of a literal list the hypotheses are `rfl`. -/
theorem fld_setFlds (s : State) (i : Nat) {ps : List (Fld × Nat)} {f : Fld} {v : Nat} (h : ps[i]? = some (f, v))
    (hps : (ps.drop (i + 1)).all (fun p => f.apart p.1) = true) (hf : Nat.ble (f.lo + f.w) 32 = true) (hv : v < 2 ^ f.w) :
    (s.setFlds ps).fld f = v := by
  induction i generalizing s ps with
  | zero =>
    cases ps with
    | nil => cases h
    | cons p ps =>
      cases h
      exact (fld_setFlds_apart _ hps).trans ((fld_setFld_mod _ _ _ hf).trans (Nat.mod_eq_of_lt hv))
  | succ i ih =>
    cases ps with
    | nil => cases h
    | cons p ps => exact ih (s.setFld p.1 p.2) h hps

end State

section
variable {s : State}

/-! ### The boot ROM -/

/-- The words of a booted image. -/
def romWords (s : State) (fw proto : Nat) : State :=
  (((s.wr R.COLO.FW.reg (BitVec.ofNat 32 (fw % 2 ^ 24))).wr R.COLO.STKPROTO.reg (BitVec.ofNat 32 (proto % 65536))).setDx 2
    (fw / 256 + 0x200)).setMbx fun m => { m with verified := true, hostImg := false }

theorem romWords_frame {w : State} (h : w = { s with rf := w.rf }) (fw proto : Nat) : romWords w fw proto =
    { s with rf := (romWords w fw proto).rf, dx := (romWords w fw proto).dx, mbx := { s.mbx with verified := true, hostImg := false } } := by
  generalize w.rf = r at h
  subst h
  rfl

theorem fld_romWords {f : Fld} (h : f.key ≠ R.COLO.FW.reg) (h' : f.key ≠ R.COLO.STKPROTO.reg) (fw proto : Nat) :
    (romWords s fw proto).fld f = s.fld f :=
  (State.fld_wr_ne (s.wr R.COLO.FW.reg (BitVec.ofNat 32 (fw % 2 ^ 24))) _ h').trans (State.fld_wr_ne s _ h)

theorem rd_romWords (s : State) (fw proto : Nat) : (romWords s fw proto).rd R.COLO.FW.reg = BitVec.ofNat 32 (fw % 2 ^ 24) :=
  (State.rd_wr_ne (s.wr R.COLO.FW.reg (BitVec.ofNat 32 (fw % 2 ^ 24))) (BitVec.ofNat 32 (proto % 65536)) (by decide)).trans
    (State.rd_wr_self ..)

/-- What the boot ROM leaves of a flash image that it runs. -/
def romRuns (s : State) (i fall fw proto : Nat) : State :=
  romWords (s.setFlds [(R.MBX.BOOT_INFO.SOURCE, i), (R.MBX.BOOT_INFO.FALLBACK, fall), (R.MBX.BOOT_INFO.TRIAL, 0)]) fw proto

/-- The boot ROM without a trial: the active image, else the other one, else RECOVERY. -/
theorem execBootImageVerified_eq {a b : Option Nat} {fw proto : Nat} (hph : s.phase = 0) (hst : s.pwr.starting = false)
    (hv : s.mbx.verified = false) (hb : bootsFlash s = true) (hl : s.flag R.CLK.PLL_STAT.SYS_LOCK = true) (ht : s.flash.trial = false)
    (ha : s.flash.active < 2) : exec (.bootImageVerified a b fw proto) s =
      if imageVerifies s (s.flash.images.getD s.flash.active []).length (if s.flash.active = 0 then a else b) then
        .next (romRuns s s.flash.active 0 fw proto)
      else if imageVerifies s (s.flash.images.getD (1 - s.flash.active) []).length (if 1 - s.flash.active = 0 then a else b) then
        .next (romRuns s (1 - s.flash.active) 1 fw proto)
      else .next (if (s.setFld R.MBX.BOOT_INFO.FALLBACK 3).fld R.SYS.STRAPS.BOOT_SRC = 3 ∧ (s.setFld R.MBX.BOOT_INFO.FALLBACK 3).pers ≠ 1
        then s.setFld R.MBX.BOOT_INFO.FALLBACK 3 else (s.setFld R.MBX.BOOT_INFO.FALLBACK 3).enterRecovery 4) := by
  have hg : ¬(s.phase ≠ 0 ∨ s.pwr.starting = true ∨ s.mbx.verified = true ∨ (!bootsFlash s) = true ∨
      (!s.flag R.CLK.PLL_STAT.SYS_LOCK) = true) := by
    simp [hph, hst, hv, hb, hl]
  refine (if_neg hg).trans ?_
  simp only [ht, Bool.false_and, Bool.false_eq_true, if_false, Nat.mod_eq_of_lt ha]
  rfl

theorem romRuns_leaves (i fall fw proto : Nat) (hi : i < 4) (hf : fall < 4) :
    romRuns s i fall fw proto = { s with rf := (romRuns s i fall fw proto).rf, dx := (romRuns s i fall fw proto).dx, mbx := { s.mbx with verified := true, hostImg := false } } ∧
      (romRuns s i fall fw proto).fld R.MBX.BOOT_INFO.SOURCE = i ∧ (romRuns s i fall fw proto).fld R.MBX.BOOT_INFO.FALLBACK = fall ∧
      (romRuns s i fall fw proto).fld R.MBX.BOOT_INFO.TRIAL = 0 ∧
      (romRuns s i fall fw proto).rd R.COLO.FW.reg = BitVec.ofNat 32 (fw % 2 ^ 24) := by
  rw [romRuns, fld_romWords (by decide) (by decide), fld_romWords (by decide) (by decide), fld_romWords (by decide) (by decide)]
  refine ⟨romWords_frame (State.setFlds_frame ..) fw proto, ?_, ?_, ?_, ?_⟩
  · exact State.fld_setFlds s 0 rfl rfl rfl hi
  · exact State.fld_setFlds s 1 rfl rfl rfl (Nat.lt_trans hf (by decide))
  · exact State.fld_setFlds s 2 rfl rfl rfl (by decide)
  · exact rd_romWords _ fw proto

theorem enterRecovery_leaves (s : State) {r : Nat} (h : r < 16) :
    (s.enterRecovery r).phase = 3 ∧ (s.enterRecovery r).fld R.SYS.PHASE.REASON = r :=
  ⟨State.fld_setFlds s 0 (f := R.SYS.PHASE.PHASE_F) rfl rfl rfl (by decide), State.fld_setFlds s 1 rfl rfl rfl h⟩

theorem bootImageVerified_goes {a b : Option Nat} {fw proto : Nat} (hph : s.phase = 0) (hst : s.pwr.starting = false)
    (hv : s.mbx.verified = false) (hb : bootsFlash s = true) (hl : s.flag R.CLK.PLL_STAT.SYS_LOCK = true) (ht : s.flash.trial = false)
    (ha : s.flash.active < 2) :
    (imageVerifies s (s.flash.images.getD s.flash.active []).length (if s.flash.active = 0 then a else b) = true →
      Goes (.bootImageVerified a b fw proto) s fun t =>
        t = { s with rf := t.rf, dx := t.dx, mbx := { s.mbx with verified := true, hostImg := false } } ∧
          t.fld R.MBX.BOOT_INFO.SOURCE = s.flash.active ∧ t.fld R.MBX.BOOT_INFO.FALLBACK = 0 ∧
          t.fld R.MBX.BOOT_INFO.TRIAL = 0 ∧ t.rd R.COLO.FW.reg = BitVec.ofNat 32 (fw % 2 ^ 24)) ∧
    (imageVerifies s (s.flash.images.getD s.flash.active []).length (if s.flash.active = 0 then a else b) = false →
      imageVerifies s (s.flash.images.getD (1 - s.flash.active) []).length (if s.flash.active = 0 then b else a) = true →
      Goes (.bootImageVerified a b fw proto) s fun t =>
        t.mbx = { s.mbx with verified := true, hostImg := false } ∧ t.fld R.MBX.BOOT_INFO.SOURCE = 1 - s.flash.active ∧
          t.fld R.MBX.BOOT_INFO.FALLBACK = 1 ∧ t.flash = s.flash) ∧
    (imageVerifies s (s.flash.images.getD 0 []).length a = false → imageVerifies s (s.flash.images.getD 1 []).length b = false →
      s.fld R.SYS.STRAPS.BOOT_SRC ≠ 3 → Goes (.bootImageVerified a b fw proto) s fun t =>
        t = (s.setFld R.MBX.BOOT_INFO.FALLBACK 3).enterRecovery 4 ∧ t.phase = 3 ∧ t.fld R.SYS.PHASE.REASON = 4) := by
  have hrun := execBootImageVerified_eq (a := a) (b := b) (fw := fw) (proto := proto) hph hst hv hb hl ht ha
  have hother : (if 1 - s.flash.active = 0 then a else b) = if s.flash.active = 0 then b else a := by
    rcases Nat.lt_succ_iff_lt_or_eq.1 ha with h | h
    · rw [Nat.lt_one_iff.1 h]; rfl
    · rw [h]; rfl
  rw [hother] at hrun
  refine ⟨fun h => ⟨_, hrun.trans (if_pos h), romRuns_leaves _ _ _ _ (by omega) (by decide)⟩, fun h h' => ?_, fun h0 h1 hsrc => ?_⟩
  · rw [h, h', if_neg Bool.false_ne_true, if_pos rfl] at hrun
    obtain ⟨hframe, hsource, hfall, -, -⟩ := romRuns_leaves (s := s) (1 - s.flash.active) 1 fw proto (by omega) (by decide)
    refine ⟨_, hrun, ?_, hsource, hfall, ?_⟩
    · exact (congrArg State.mbx hframe).trans rfl
    · exact (congrArg State.flash hframe).trans rfl
  · have hno : imageVerifies s (s.flash.images.getD s.flash.active []).length (if s.flash.active = 0 then a else b) = false ∧
        imageVerifies s (s.flash.images.getD (1 - s.flash.active) []).length (if s.flash.active = 0 then b else a) = false := by
      rcases Nat.lt_succ_iff_lt_or_eq.1 ha with h | h
      · rw [Nat.lt_one_iff.1 h]
        exact ⟨h0, h1⟩
      · rw [h]
        exact ⟨h1, h0⟩
    rw [hno.1, hno.2, if_neg Bool.false_ne_true, if_neg Bool.false_ne_true, if_neg] at hrun
    · exact ⟨_, hrun, rfl, enterRecovery_leaves _ (by decide)⟩
    · rw [State.fld_setFld_ne _ _ (by decide)]
      exact fun h => hsrc h.1

/-! ### An empty boot forme -/

theorem formeValid_of_nil {k : Nat} (h : s.flash.formes.getD k [] = []) : formeValid s k = false := by
  rw [formeValid, h]
  rfl

theorem bootChoice_none (hov : s.flash.bootOv = none) (h : ∀ k, s.flash.formes.getD k [] = []) :
    bootChoice s = (s.fld R.SYS.STRAPS.FORME, false, 1, 7) := by
  have hfind : (List.range 4).find? (formeValid s) = none :=
    List.find?_eq_none.2 fun k _ => by rw [formeValid_of_nil (h k)]; decide
  rw [bootChoice, hov]
  dsimp only
  rw [formeValid_of_nil (h _), if_neg Bool.false_ne_true, hfind, h]
  rfl

/-- Firmware with an empty boot forme, before it is ready. -/
def emptyForme (s : State) : State :=
  takeWork (s.setFlds [(R.FRM.BOOT.USED, 7), (R.FRM.BOOT.CHOSEN, s.fld R.SYS.STRAPS.FORME), (R.FRM.BOOT.OVERRIDE, 0),
    (R.FRM.BOOT.FALLBACK, 1), (R.FRM.BOOT.TEST, 0)]) (formeEmpty s.pers)

theorem exec_bootFormeApplied_empty (hph : s.phase = 0) (hv : s.mbx.verified = true) (hr : s.flag R.MBX.STAT.FW_READY = false)
    (hov : s.flash.bootOv = none) (h : ∀ k, s.flash.formes.getD k [] = []) : exec .bootFormeApplied s =
      .next (follow s (fwStarted ((emptyForme s).setFld R.MBX.STAT.FW_READY 1) 0).enterService) := by
  show execBootFormeApplied s = _
  unfold execBootFormeApplied
  rw [if_neg (by simp [hph, hv, hr]), bootChoice_none hov h]
  simp only [dxNamed, bne_self_eq_false, Bool.and_false, Bool.false_eq_true, if_false, if_true]
  rfl

theorem fld_takeWork (f : FormeImg) {g : Fld} (h : g.key ≠ R.FRM.GEN.GEN_F.key) : (takeWork s f).fld g = s.fld g :=
  State.fld_setFld_ne s _ h

theorem gen_takeWork (s : State) (f : FormeImg) : (takeWork s f).fld R.FRM.GEN.GEN_F = f.gen % 2 ^ 32 := by
  refine (State.fld_setFld_mod s R.FRM.GEN.GEN_F (f.gen % 2 ^ 32) rfl).trans ?_
  exact Nat.mod_mod _ _

theorem emptyForme_leaves (s : State) : (emptyForme s).fld R.FRM.BOOT.USED = 7 ∧ (emptyForme s).fld R.FRM.BOOT.FALLBACK = 1 ∧
    (emptyForme s).fld R.FRM.BOOT.TEST = 0 ∧ (emptyForme s).fld R.FRM.GEN.GEN_F = 0 := by
  rw [emptyForme, fld_takeWork _ (by decide), fld_takeWork _ (by decide), fld_takeWork _ (by decide)]
  exact ⟨State.fld_setFlds s 0 rfl rfl rfl (by decide), State.fld_setFlds s 3 rfl rfl rfl (by decide), State.fld_setFlds s 4 rfl rfl rfl (by decide),
    gen_takeWork ..⟩

theorem touches_mcuResume (s : State) : Touches [R.IRQ.MCU_CTL.IDLE] s (mcuResume s) :=
  touches_ite (touches_setFld (by simp) (.refl _ s)) (.refl _ s)

theorem touches_fwStarted (s : State) (cause : Nat) : Touches (R.IRQ.MCU_CTL.IDLE :: evtFlds) s (fwStarted s cause) :=
  ((touches_mcuResume s).mono (by simp)).trans ((EvtStep.event _ _ _).touches.mono fun _ => List.mem_cons_of_mem _)

theorem fld_enterService {f : Fld} (h : f.key ≠ R.REGIF.HOST_OWN0.OWN.key) : s.enterService.fld f =
    (s.setFlds [(R.SYS.PHASE.PHASE_F, 1), (R.SYS.PHASE.SERVICE_SEEN, 1)]).fld f := State.fld_setFld_ne _ _ h

theorem enterService_leaves (s : State) : s.enterService.phase = 1 ∧ s.enterService.flag R.SYS.PHASE.SERVICE_SEEN = true := by
  rw [State.phase, State.flag, fld_enterService (by decide), fld_enterService (by decide), State.fld_setFlds s 0 rfl rfl rfl (by decide),
    State.fld_setFlds s 1 rfl rfl rfl (by decide)]
  decide

theorem touches_enterService (s : State) :
    Touches [R.SYS.PHASE.PHASE_F, R.SYS.PHASE.SERVICE_SEEN, R.REGIF.HOST_OWN0.OWN] s s.enterService :=
  touches_setFld (by simp) (touches_setFlds (by simp) (.refl _ s))

theorem bootFormeApplied_empty (hph : s.phase = 0) (hv : s.mbx.verified = true) (hr : s.flag R.MBX.STAT.FW_READY = false)
    (hov : s.flash.bootOv = none) (h : ∀ k, s.flash.formes.getD k [] = []) :
    ∃ u, exec .bootFormeApplied s = .next (follow s u) ∧ u.phase = 1 ∧
      u.fld R.FRM.BOOT.USED = 7 ∧ u.fld R.FRM.BOOT.FALLBACK = 1 ∧ u.fld R.FRM.BOOT.TEST = 0 ∧ u.fld R.FRM.GEN.GEN_F = 0 ∧
      u.flag R.MBX.STAT.FW_READY = true ∧ u.flag R.SYS.PHASE.SERVICE_SEEN = true := by
  obtain ⟨hused, hfall, htest, hgen⟩ := emptyForme_leaves s
  have hkeep : ∀ w : State, Touches (R.SYS.PHASE.PHASE_F :: R.SYS.PHASE.SERVICE_SEEN :: R.REGIF.HOST_OWN0.OWN :: R.IRQ.MCU_CTL.IDLE :: evtFlds) w
      (fwStarted w 0).enterService := fun w =>
    ((touches_fwStarted w 0).mono (by simp [evtFlds])).trans ((touches_enterService _).mono (by simp))
  have hready := (emptyForme s).fld_setFld_mod R.MBX.STAT.FW_READY 1 rfl
  have hforme : ∀ f : Fld, f.key ≠ R.MBX.STAT.FW_READY.key → ((emptyForme s).setFld R.MBX.STAT.FW_READY 1).fld f = (emptyForme s).fld f :=
    fun f hf => State.fld_setFld_ne _ _ hf
  refine ⟨_, exec_bootFormeApplied_empty hph hv hr hov h, ?_⟩
  generalize emptyForme s = e at *
  generalize e.setFld R.MBX.STAT.FW_READY 1 = w at *
  obtain ⟨hphase, hseen⟩ := enterService_leaves (fwStarted w 0)
  have hfld : ∀ f : Fld, (∀ g ∈ R.SYS.PHASE.PHASE_F :: R.SYS.PHASE.SERVICE_SEEN :: R.REGIF.HOST_OWN0.OWN :: R.IRQ.MCU_CTL.IDLE :: evtFlds,
      f.apart g = true) → (fwStarted w 0).enterService.fld f = w.fld f := fun f hf => (hkeep w).fld hf
  refine ⟨hphase, ?_, ?_, ?_, ?_, ?_, hseen⟩
  · rw [hfld _ (by decide), hforme _ (by decide), hused]
  · rw [hfld _ (by decide), hforme _ (by decide), hfall]
  · rw [hfld _ (by decide), hforme _ (by decide), htest]
  · rw [hfld _ (by decide), hforme _ (by decide), hgen]
  · rw [State.flag, hfld _ (by decide), hready]
    decide

end

/-- Settles O15. -/
theorem bootImageThenForme : Obligations.BootImageThenForme := by
  unfold Obligations.BootImageThenForme
  exact fun s => ⟨fun a b fw proto => bootImageVerified_goes, bootFormeApplied_empty⟩

end Sys2Proof.Machine
end

section
/-! Accesses of the register bus (R128 to R134, R148 to R156). -/

namespace Sys2Proof.Machine

section
variable {s r : State} {init : Nat}

/-! ### The bank of an initiator -/

theorem side_setSide_self (g : BusSide → BusSide) (h : init < s.bus.length) : (s.setSide init g).side init = g (s.side init) :=
  getD_modifyAt_self g sideReset h

@[simp] theorem State.rf_setSide (s : State) (init : Nat) (g : BusSide → BusSide) : (s.setSide init g).rf = s.rf := rfl

@[simp] theorem State.fld_setSide (s : State) (init : Nat) (g : BusSide → BusSide) (f : Fld) : (s.setSide init g).fld f = s.fld f := rfl

theorem touches_setSide {l : List Fld} {s t : State} (i : Nat) (g : BusSide → BusSide) (h : Touches l s t) :
    Touches l s (t.setSide i g) := touches_rf (t := t) rfl h

theorem data_answer (off : Nat) (v : Word) (h : init < s.bus.length) : ((answer s init off v).side init).data = v :=
  congrArg BusSide.data (side_setSide_self (s := s) (fun b => { b with data := v }) h)

theorem rf_answer (s : State) (init off : Nat) (v : Word) : (answer s init off v).rf = s.rf := rfl

/-! ### The state of an access -/

theorem accessed_frame (s : State) (init : Nat) : accessed s init = { s with rf := (accessed s init).rf } := by
  unfold accessed mcuResume
  split
  · split
    · rfl
    · rfl
  · rfl

theorem touches_accessed (s : State) (init : Nat) : Touches [R.IRQ.MCU_CTL.IDLE] s (accessed s init) :=
  touches_ite (touches_mcuResume s) (.refl _ s)

theorem bus_accessed (s : State) (init : Nat) : (accessed s init).bus = s.bus := (congrArg State.bus (accessed_frame s init)).trans rfl

theorem side_accessed (s : State) (init i : Nat) : (accessed s init).side i = s.side i := by
  rw [State.side, bus_accessed, ← State.side]

theorem domOn_accessed (s : State) (init d : Nat) : (accessed s init).domOn d = s.domOn d := by
  have h : (accessed s init).pwr = s.pwr := (congrArg State.pwr (accessed_frame s init)).trans rfl
  rw [State.domOn, h, ← State.domOn]

theorem rd_accessed (s : State) (init : Nat) {k : Nat} (h : k ≠ R.IRQ.MCU_CTL.IDLE.key) : (accessed s init).rd k = s.rd k :=
  (touches_accessed s init).rd (by simpa using Ne.symm h)

theorem fld_accessed (s : State) (init : Nat) {f : Fld} (h : f.key ≠ R.IRQ.MCU_CTL.IDLE.key) : (accessed s init).fld f = s.fld f := by
  rw [State.fld, rd_accessed s init h, ← State.fld]

/-- An access of an initiator that reaches the bus and has no access stalled takes place. -/
theorem access_ready (h : BusReady s init) (acc : BusAcc) : access s init acc = busAcc (accessed s init) init acc := by
  obtain ⟨-, -, hup, hfree⟩ := h
  have hres : (if init = 2 then mcuResume s else s) = accessed s init := rfl
  unfold access
  dsimp only
  rw [hup, if_neg (by decide), hres, side_accessed, hfree, if_neg (by decide)]

theorem exec_registerWrite (h : BusReady s init) (hr : r = accessed s init) (a : Nat) (v : Word) :
    exec (.registerWrite init a v) s = .next (follow r (busWrite r init a v).1) := by
  subst hr
  exact congrArg Host.Outcome.next (access_ready h (.write a v))

theorem exec_clearingRead (h : BusReady s init) (hr : r = accessed s init) (a : Nat) :
    exec (.clearingRead init a) s = .next (busRead r init a) := by
  subst hr
  exact congrArg Host.Outcome.next (access_ready h (.read a))

theorem domOn_of_busReady (h : BusReady s init) : s.domOn 1 = true := by
  have := h.up
  rw [initUp, Bool.and_eq_true] at this
  exact this.1

/-! ### The map -/

theorem offCheck_of_unmapped {off : Nat} (h : mapped init off = false) : offCheck r init off = some true := by
  rw [offCheck, h]
  rfl

theorem offCheck_of_regFind {off : Nat} {w : RegRow} {i : Nat} (hf : regFind off = some (w, i)) (ha : off % 4 = 0)
    (hd : r.domOn (State.domOf off) = true) : offCheck r init off = none := by
  have hm : mapped init off = true := by rw [mapped, hf, ha]; rfl
  rw [offCheck, hm, hd]
  rfl

/-! ### Writes -/

theorem busWrite_below {a : Nat} (ha : a < 0x100000) (hd : a ≠ 0x3004) (hb : isBank a = false) (v : Word) :
    busWrite r init a v = regWrite r init a v false false := by
  rw [busWrite, if_neg (by omega), if_neg hd, hb, if_neg Bool.false_ne_true, if_neg (by omega), ctlWrite, if_neg (by omega)]

theorem regWrite_of_unmapped {off : Nat} (h : mapped init off = false) (v : Word) (g via : Bool) :
    regWrite r init off v g via = (logOff r init off true, .off) := by rw [regWrite, offCheck_of_unmapped h]

theorem regWrite_of_regFind {off : Nat} {w : RegRow} {i : Nat} (hf : regFind off = some (w, i)) (hi : w.indir = false)
    (ha : off % 4 = 0) (hd : r.domOn (State.domOf off) = true) (v : Word) (g via : Bool) :
    regWrite r init off v g via = if busCheck r init off (itemOf r init off) v g ≠ 0 then
      (logViol r init off (busCheck r init off (itemOf r init off) v g), .viol (busCheck r init off (itemOf r init off) v g))
    else regPut r init off (itemOf r init off) v := by
  rw [regWrite, offCheck_of_regFind hf ha hd]
  dsimp only
  rw [hf]
  dsimp only
  rw [if_neg (by rw [hi, Bool.false_and]; decide)]

/-! ### The logs (R131, R150) -/

theorem touches_logOff (r : State) (init a : Nat) (un : Bool) :
    Touches [R.REGIF.OFF_ACCESS_INFO.COUNT, R.REGIF.OFF_ACCESS_INFO.REASON, R.REGIF.OFF_ACCESS_ADDR.ADDR] r (logOff r init a un) :=
  touches_setSide _ _ (touches_latchOnce (by simp) (touches_count (by simp) (.refl _ r)))

theorem touches_logViol (r : State) (init a c : Nat) :
    Touches [R.REGIF.VIOL_COUNT.COUNT, R.REGIF.VIOL_ADDR.ADDR, R.REGIF.VIOL_INFO.INIT, R.REGIF.VIOL_INFO.CAUSE] r (logViol r init a c) :=
  touches_setSide _ _ (touches_latchOnce (by simp) (touches_count (by simp) (.refl _ r)))

theorem fld_latchOnce (s : State) (k : Nat) {ps : List (Fld × Nat)} {f : Fld} (h : ps.all (fun p => f.apart p.1) = true) :
    (s.latchOnce k ps).fld f = s.fld f := by
  unfold State.latchOnce
  split
  · rfl
  · exact State.fld_setFlds_apart s h

theorem fld_logOff_count (r : State) (init a : Nat) (un : Bool) : (logOff r init a un).fld R.REGIF.OFF_ACCESS_INFO.COUNT =
    min 65535 (r.fld R.REGIF.OFF_ACCESS_INFO.COUNT + 1) :=
  (fld_latchOnce (r.count R.REGIF.OFF_ACCESS_INFO.COUNT) _ rfl).trans (State.fld_count r _ (by decide))

theorem fld_logViol_count (r : State) (init a c : Nat) : (logViol r init a c).fld R.REGIF.VIOL_COUNT.COUNT =
    min 65535 (r.fld R.REGIF.VIOL_COUNT.COUNT + 1) :=
  (fld_latchOnce (r.count R.REGIF.VIOL_COUNT.COUNT) _ rfl).trans (State.fld_count r _ (by decide))

theorem registerWrite_unmapped (h : BusReady s init) (hr : r = accessed s init) {a : Nat} {v : Word} (ha : a < 0x100000)
    (hd : a ≠ 0x3004) (hb : isBank a = false) (hm : mapped init a = false) :
    exec (.registerWrite init a v) s = .next (follow r (logOff r init a true)) ∧
      (logOff r init a true).fld R.REGIF.OFF_ACCESS_INFO.COUNT = min 65535 (s.fld R.REGIF.OFF_ACCESS_INFO.COUNT + 1) ∧
      Touches [R.REGIF.OFF_ACCESS_INFO.COUNT, R.REGIF.OFF_ACCESS_INFO.REASON, R.REGIF.OFF_ACCESS_ADDR.ADDR] r
        (logOff r init a true) := by
  refine ⟨?_, ?_, touches_logOff _ _ _ _⟩
  · rw [exec_registerWrite h hr, busWrite_below ha hd hb, regWrite_of_unmapped hm]
  · rw [fld_logOff_count, hr, fld_accessed _ _ (by decide)]

theorem registerWrite_mapped (h : BusReady s init) (hr : r = accessed s init) {a : Nat} {v : Word} {w : RegRow} {i c : Nat}
    (ha : a < 0x100000) (hd : a ≠ 0x3004) (hb : isBank a = false) (hf : regFind a = some (w, i)) (hi : w.indir = false)
    (ha4 : a % 4 = 0) (hon : s.domOn (State.domOf a) = true) (hc : busCheck r init a (itemOf r init a) v false = c) :
    (c = 0 → exec (.registerWrite init a v) s = .next (follow r (regPut r init a (itemOf r init a) v).1)) ∧
    (c ≠ 0 → exec (.registerWrite init a v) s = .next (follow r (logViol r init a c)) ∧
      (logViol r init a c).fld R.REGIF.VIOL_COUNT.COUNT = min 65535 (s.fld R.REGIF.VIOL_COUNT.COUNT + 1) ∧
      Touches [R.REGIF.VIOL_COUNT.COUNT, R.REGIF.VIOL_ADDR.ADDR, R.REGIF.VIOL_INFO.INIT, R.REGIF.VIOL_INFO.CAUSE] r
        (logViol r init a c)) := by
  have hron : r.domOn (State.domOf a) = true := by rw [hr, domOn_accessed]; exact hon
  rw [exec_registerWrite h hr, busWrite_below ha hd hb, regWrite_of_regFind hf hi ha4 hron, hc]
  refine ⟨fun hz => ?_, fun hne => ⟨?_, ?_, touches_logViol _ _ _ _⟩⟩
  · rw [if_neg (not_not.2 hz)]
  · rw [if_pos hne]
  · rw [fld_logViol_count, hr, fld_accessed _ _ (by decide)]

/-! ### READ_MODE, a plain register of a bank -/

theorem regFind_readMode : regFind 0x3038 = some (⟨0x3038, 0, 1, .init, 16, false, false, 0, [⟨0, 0, .rw, false⟩]⟩, 0) := by decide

theorem busCheck_readMode (v : Word) (item : Nat) : busCheck r init 0x3038 item v false = 0 := by
  rw [busCheck, regFind_readMode]
  simp [dxOwned, isDxCell, ownsBlock, ownBlock, quoinOf, RegRow.hasQl]

theorem itemKey_mod {off : Nat} (h : off < 0x1000000) (item : Nat) : itemKey off item % 0x1000000 = off := by
  rw [itemKey, Nat.add_mul_mod_self_left, Nat.mod_eq_of_lt h]

theorem holdAt_of_uncovered {off : Nat} {w : RegRow} {i : Nat} (h : off < 0x1000000) (hf : regFind off = some (w, i)) (hc : w.covMask = 0)
    (old t : State) (item : Nat) : holdAt old t (itemKey off item) = t := by
  unfold holdAt
  rw [itemKey_mod h, hf]
  dsimp only
  rw [hc, if_neg (by simp)]

theorem ins_of (f : Fld) (v x : Word) : f.ins (f.of v) x = (x &&& ~~~f.mask) ||| (v &&& f.mask) := by
  apply BitVec.eq_of_getLsbD_eq
  intro i hi
  rw [getLsbD_ins, testBit_of, BitVec.getLsbD_or, BitVec.getLsbD_and, BitVec.getLsbD_and, BitVec.getLsbD_not, getLsbD_mask]
  by_cases h : f.lo ≤ i ∧ i - f.lo < f.w
  · have hi' : i < f.lo + f.w := by omega
    rw [if_pos ⟨hi, h.1, hi'⟩, Nat.add_sub_cancel' h.1]
    simp [hi, h.1, h.2]
  · rw [if_neg (by omega)]
    have : (decide (f.lo ≤ i) && decide (i - f.lo < f.w)) = false := by simpa using h
    rw [Bool.and_assoc, this]
    simp [hi]

/-- The row of READ_MODE. -/
def readModeRow : RegRow := ⟨0x3038, 0, 1, .init, 16, false, false, 0, [⟨0, 0, .rw, false⟩]⟩

theorem plainPut_readMode (v : Word) : plainPut r 0x3038 init readModeRow v =
    r.setFld (R.REGIF.READ_MODE.ACTIVE init) ((R.REGIF.READ_MODE.ACTIVE init).of v) := by
  have hrw : takesMask r 0x3038 init readModeRow .rw v = (R.REGIF.READ_MODE.ACTIVE init).mask := by
    simp [takesMask, RegRow.mask, fieldTakes, readModeRow, Fld.mask, R.REGIF.READ_MODE.ACTIVE]
  have hsh : takesMask r 0x3038 init readModeRow .sh v = 0 := by
    simp [takesMask, RegRow.mask, readModeRow]
  have hkey : itemKey 0x3038 init = (R.REGIF.READ_MODE.ACTIVE init).key := rfl
  unfold plainPut
  dsimp only
  rw [hrw, hsh, if_pos rfl, if_neg (by simp [Fld.mask, R.REGIF.READ_MODE.ACTIVE]), holdAt_of_uncovered (by decide) regFind_readMode rfl, ← ins_of, hkey]
  rfl

theorem regPut_readMode (v : Word) : (regPut r init 0x3038 init v).1 =
    r.setFld (R.REGIF.READ_MODE.ACTIVE init) ((R.REGIF.READ_MODE.ACTIVE init).of v) := by
  unfold regPut
  rw [regFind_readMode]
  exact plainPut_readMode v

theorem readMode_ne_idle (init : Nat) : (R.REGIF.READ_MODE.ACTIVE init).key ≠ R.IRQ.MCU_CTL.IDLE.key := by
  show 0x3038 + 0x1000000 * init ≠ 0x4014
  omega

theorem itemOf_readMode : itemOf r init 0x3038 = init := by
  rw [itemOf, regFind_readMode]
  rfl

theorem regWrite_readMode (hd : r.domOn 1 = true) (v : Word) (g via : Bool) (hg : g = false): (regWrite r init 0x3038 v g via).1 =
    r.setFld (R.REGIF.READ_MODE.ACTIVE init) ((R.REGIF.READ_MODE.ACTIVE init).of v) := by
  rw [regWrite_of_regFind regFind_readMode rfl rfl hd, hg, busCheck_readMode, if_neg (by decide), itemOf_readMode, regPut_readMode]

theorem registerWrite_readMode (h : BusReady s init) (hr : r = accessed s init) (v : Word) :
    ∃ u, exec (.registerWrite init 0x3038 v) s = .next (follow r u) ∧
      u.fld (R.REGIF.READ_MODE.ACTIVE init) = v.toNat % 2 ∧ Touches [R.REGIF.READ_MODE.ACTIVE init] r u := by
  have hd : r.domOn 1 = true := by rw [hr, domOn_accessed]; exact domOn_of_busReady h
  refine ⟨r.setFld (R.REGIF.READ_MODE.ACTIVE init) ((R.REGIF.READ_MODE.ACTIVE init).of v), ?_, ?_, touches_setFld (by simp) (.refl _ r)⟩
  · rw [exec_registerWrite h hr, busWrite_below (by decide) (by decide) (by decide), regWrite_readMode hd _ _ _ rfl]
  · rw [State.fld_setFld_mod _ _ _ rfl]
    exact Nat.mod_mod _ _

/-! ### Alias words (R154) -/

theorem aliasOff_word {off b : Nat} (ho : off < 0x8000) (h4 : off % 4 = 0) (hb : b < 32) : aliasOff (0x100000 + 32 * off + 4 * b) = off := by
  rw [aliasOff]
  omega

theorem aliasBit_word {off b : Nat} (h4 : off % 4 = 0) (hb : b < 32) : aliasBit (0x100000 + 32 * off + 4 * b) = b := by
  rw [aliasBit]
  omega

theorem exec_aliasWrite (h : BusReady s init) (hr : r = accessed s init) {off b : Nat} (ho : off < 0x8000) (h4 : off % 4 = 0)
    (hd : off ≠ 0x3004) (hk : isBank off = false) (hb : b < 32) (v : Word) : exec (.aliasWrite init (0x100000 + 32 * off + 4 * b) v) s =
      .next (follow r (aliasWrite r init (0x100000 + 32 * off + 4 * b) v).1) := by
  have hrange : 0x100000 ≤ 0x100000 + 32 * off + 4 * b ∧ 0x100000 + 32 * off + 4 * b < 0x200000 := by omega
  have hbank : isBank (0x100000 + 32 * off + 4 * b) = false := by simp [isBank]; omega
  have hput : aliasPut r init (0x100000 + 32 * off + 4 * b) v = aliasWrite r init (0x100000 + 32 * off + 4 * b) v := by
    have h0 : off ≠ 0x3000 := fun e => by rw [e] at hk; cases hk
    have h1 : off ≠ 0x3010 := fun e => by rw [e] at hk; cases hk
    unfold aliasPut
    dsimp only
    rw [aliasOff_word ho h4 hb, if_neg hd, if_neg (by simp [h0, h1])]
  have hwrite : busWrite r init (0x100000 + 32 * off + 4 * b) v = aliasWrite r init (0x100000 + 32 * off + 4 * b) v := by
    rw [busWrite, if_neg (by omega), if_neg (by omega), hbank, if_neg Bool.false_ne_true, if_pos hrange, hput]
  subst hr
  refine (congrArg Host.Outcome.next (if_pos hrange)).trans ?_
  rw [access_ready h, busAcc, hwrite]

/-- The word that a read-modify-write of one bit starts from. -/
def aliasOld (r : State) (off item : Nat) (w : RegRow) : Word :=
  (r.rdSh (itemKey off item) &&& w.shMask) ||| (r.rd (itemKey off item) &&& ~~~w.shMask)

theorem aliasWrite_of_field {off b i : Nat} {w : RegRow} {f : FieldRow} (ho : off < 0x8000) (h4 : off % 4 = 0) (hb : b < 32)
    (hf : regFind off = some (w, i)) (hi : w.indir = false) (hd : r.domOn (State.domOf off) = true) (hfield : fieldAt w b = some f)
    (hacc : f.acc = .rw ∨ f.acc = .sh) (v : Word) : aliasWrite r init (0x100000 + 32 * off + 4 * b) v =
      regWrite r init off (if v.getLsbD 0 then aliasOld r off (itemOf r init off) w ||| 1#32 <<< b
        else aliasOld r off (itemOf r init off) w &&& ~~~(1#32 <<< b)) false false := by
  unfold aliasWrite
  dsimp only
  rw [aliasOff_word ho h4 hb, aliasBit_word h4 hb, offCheck_of_regFind hf h4 hd]
  dsimp only
  rw [hf]
  dsimp only
  rw [hfield]
  dsimp only
  rw [if_neg (by rcases hacc with e | e <;> rw [e, hi] <;> decide), if_neg (by rcases hacc with e | e <;> rw [e] <;> decide)]
  rfl

theorem aliasWrite_of_no_field {off b i : Nat} {w : RegRow} (ho : off < 0x8000) (h4 : off % 4 = 0) (hb : b < 32)
    (hf : regFind off = some (w, i)) (hd : r.domOn (State.domOf off) = true) (hfield : fieldAt w b = none)
    (v : Word) : aliasWrite r init (0x100000 + 32 * off + 4 * b) v = (r, .kept) := by
  unfold aliasWrite
  dsimp only
  rw [aliasOff_word ho h4 hb, aliasBit_word h4 hb, offCheck_of_regFind hf h4 hd]
  dsimp only
  rw [hf]
  dsimp only
  rw [hfield]

theorem aliasWrite_goes (h : BusReady s init) (hr : r = accessed s init) {off b : Nat} {v : Word} {w : RegRow} {i : Nat} {f : FieldRow}
    (ho : off < 0x8000) (h4 : off % 4 = 0) (hd : off ≠ 0x3004) (hk : isBank off = false) (hb : b < 32)
    (hf : regFind off = some (w, i)) (hi : w.indir = false) (hon : s.domOn (State.domOf off) = true) (hfield : fieldAt w b = some f)
    (hacc : f.acc = .rw ∨ f.acc = .sh) (old : Word) (hold : old = (r.rdSh (itemKey off (itemOf r init off)) &&& w.shMask) |||
      (r.rd (itemKey off (itemOf r init off)) &&& ~~~w.shMask)) :
    exec (.aliasWrite init (0x100000 + 32 * off + 4 * b) v) s = .next (follow r (regWrite r init off
      (if v.getLsbD 0 then old ||| 1#32 <<< b else old &&& ~~~(1#32 <<< b)) false false).1) := by
  have hron : r.domOn (State.domOf off) = true := by rw [hr, domOn_accessed]; exact hon
  have hold' : old = aliasOld r off (itemOf r init off) w := hold
  rw [exec_aliasWrite h hr ho h4 hd hk hb, aliasWrite_of_field ho h4 hb hf hi hron hfield hacc, hold']

theorem aliasWrite_readMode (h : BusReady s init) (hr : r = accessed s init) {b : Nat} {v : Word} (hb : b < 32) :
    ∃ u, exec (.aliasWrite init (0x100000 + 32 * 0x3038 + 4 * b) v) s = .next (follow r u) ∧
      u.fld (R.REGIF.READ_MODE.ACTIVE init) = (if b = 0 then v.toNat % 2 else s.fld (R.REGIF.READ_MODE.ACTIVE init)) ∧
        Touches [R.REGIF.READ_MODE.ACTIVE init] r u := by
  have hd : r.domOn 1 = true := by rw [hr, domOn_accessed]; exact domOn_of_busReady h
  rw [exec_aliasWrite h hr (by decide) rfl (by decide) (by decide) hb]
  by_cases hz : b = 0
  · subst hz
    rw [aliasWrite_of_field (by decide) rfl hb regFind_readMode rfl hd (f := ⟨0, 0, .rw, false⟩) rfl (.inl rfl), regWrite_readMode hd _ _ _ rfl]
    refine ⟨_, rfl, ?_, touches_setFld (by simp) (.refl _ r)⟩
    rw [State.fld_setFld_mod _ _ _ rfl, if_pos rfl, of_one_bit rfl]
    rcases hv : v.getLsbD 0 with _ | _
    · rw [if_neg Bool.false_ne_true]
      have : v.toNat % 2 = 0 := by
        have := congrArg b2n hv
        rw [← of_one_bit (f := ⟨0, 0, 1⟩) rfl] at this
        exact this
      rw [this]
      simp [R.REGIF.READ_MODE.ACTIVE, b2n]
    · rw [if_pos rfl]
      have : v.toNat % 2 = 1 := by
        have := congrArg b2n hv
        rw [← of_one_bit (f := ⟨0, 0, 1⟩) rfl] at this
        exact this
      rw [this]
      simp [R.REGIF.READ_MODE.ACTIVE, b2n]
  · have hnone : fieldAt ⟨0x3038, 0, 1, .init, 16, false, false, 0, [⟨0, 0, .rw, false⟩]⟩ b = none := by
      simp [fieldAt, hz]
    rw [aliasWrite_of_no_field (by decide) rfl hb regFind_readMode hd hnone]
    refine ⟨r, rfl, ?_, .refl _ r⟩
    rw [if_neg hz, hr]
    exact fld_accessed _ _ (readMode_ne_idle init)

/-! ### Reads (R133, R134) -/

theorem irqSeen_frame (s : State) (m : Bool) (off : Nat) : irqSeen s m off = { s with irq := (irqSeen s m off).irq } := by
  unfold irqSeen
  dsimp only
  split
  · rfl
  · cases m <;> rfl

theorem rf_irqSeen (s : State) (m : Bool) (off : Nat) : (irqSeen s m off).rf = s.rf := (congrArg State.rf (irqSeen_frame s m off)).trans rfl

theorem bus_readEffect (s : State) (init off : Nat) (seen : Word) : (readEffect s init off seen).bus = s.bus := by
  have hseen : (irqSeen s (init == 2) off).bus = s.bus := (congrArg State.bus (irqSeen_frame s (init == 2) off)).trans rfl
  unfold readEffect
  generalize irqSeen s (init == 2) off = t at hseen
  dsimp only
  split <;> split <;> try exact hseen
  all_goals
    split
    · exact hseen
    · exact hseen

theorem ctlRead_of_regFind {off : Nat} {w : RegRow} {i : Nat} (ho : off < 0x100000) (hf : regFind off = some (w, i)) (hi : w.indir = false)
    (ha : off % 4 = 0) (hd : r.domOn (State.domOf off) = true) (via : Bool) :
    ctlRead r init off via = (readEffect r init off (regWord r init off), regWord r init off) := by
  unfold ctlRead
  rw [if_neg (by omega), offCheck_of_regFind hf ha hd]
  dsimp only
  rw [hf]
  dsimp only
  rw [if_neg (by rw [hi, Bool.false_and]; decide)]

theorem clearingRead_goes (h : BusReady s init) (hr : r = accessed s init) {a : Nat} {w : RegRow} {i : Nat} (ha : a < 0x100000)
    (hd : a ≠ 0x3004) (hw : ¬(0x3018 ≤ a ∧ a ≤ 0x3024)) (hf : regFind a = some (w, i)) (hi : w.indir = false) (h4 : a % 4 = 0)
    (hon : s.domOn (State.domOf a) = true) : Goes (.clearingRead init a) s fun t => (t.side init).data = regWord r init a ∧
      t = answer (readEffect r init a (regWord r init a)) init a (regWord r init a) := by
  have hron : r.domOn (State.domOf a) = true := by rw [hr, domOn_accessed]; exact hon
  have hread : busRead r init a = answer (readEffect r init a (regWord r init a)) init a (regWord r init a) := by
    rw [busRead, if_neg (by omega), if_neg hd, if_neg (by omega), if_neg (by omega), ctlRead_of_regFind ha hf hi h4 hron]
  refine ⟨_, (exec_clearingRead h hr a).trans (congrArg Host.Outcome.next hread), ?_, rfl⟩
  apply data_answer
  rw [bus_readEffect, hr, bus_accessed]
  exact h.side

/-- What an owner's read of a register without a latch leaves of the registers. -/
theorem rd_readEffect_owned {off : Nat} {w : RegRow} {i : Nat} (hf : regFind off = some (w, i)) (hre : ∀ b, rearmedBy b off = false)
    (howner : rcOwner (irqSeen s (init == 2) off) init off = true) (seen m : Word)
    (hm : (w.mask fun f => f.acc == .rc) &&& seen &&& ~~~rcStuck (irqSeen s (init == 2) off) off = m)
    (hitem : itemOf (irqSeen s (init == 2) off) init off = itemOf s init off) (k : Nat) :
    (readEffect s init off seen).rd k = (s.wr (itemKey off (itemOf s init off)) (s.rd (itemKey off (itemOf s init off)) &&& ~~~m)).rd k := by
  have hrd : ∀ k, (irqSeen s (init == 2) off).rd k = s.rd k := State.rd_of_rf_eq (rf_irqSeen ..)
  unfold readEffect
  dsimp only
  rw [hre, if_neg Bool.false_ne_true, hf]
  dsimp only
  rw [howner, hm, hitem]
  generalize irqSeen s (init == 2) off = t at hrd
  generalize itemKey off (itemOf s init off) = key
  by_cases hz : m = 0
  · subst hz
    rw [if_neg (by decide), hrd]
    by_cases hk : k = key
    · subst hk
      rw [State.rd_wr_self]
      show _ = _ &&& ~~~0#32
      rw [BitVec.not_zero, BitVec.and_allOnes]
    · rw [State.rd_wr_ne _ _ hk]
  · rw [if_pos (by simpa using hz)]
    by_cases hk : k = key
    · subst hk
      rw [State.rd_wr_self, State.rd_wr_self, hrd]
    · rw [State.rd_wr_ne _ _ hk, State.rd_wr_ne _ _ hk, hrd]

theorem touches_of_rd {l : List Fld} {s t : State} {key : Nat} {v : Word} (h : ∀ k, t.rd k = (s.wr key v).rd k)
    (hv : v &&& ~~~fldMask l key = s.rd key &&& ~~~fldMask l key) : Touches l s t := by
  intro k
  rw [h]
  by_cases hk : k = key
  · subst hk
    rw [State.rd_wr_self, hv]
  · rw [State.rd_wr_ne _ _ hk]

/-- The row of PLL_STAT. -/
def pllStatRow : RegRow := ⟨0x6000, 0, 1, .one, 16, false, false, 0,
  [⟨4, 4, .rl, false⟩, ⟨3, 3, .rc, false⟩, ⟨2, 2, .rc, false⟩, ⟨1, 1, .rl, false⟩, ⟨0, 0, .rl, false⟩]⟩

theorem regFind_pllStat : regFind R.CLK.PLL_STAT.reg = some (pllStatRow, 0) := by decide

theorem itemOf_pllStat (t : State) : itemOf t init R.CLK.PLL_STAT.reg = 0 := by
  rw [itemOf, regFind_pllStat]
  rfl

theorem rcOwner_pllStat {t : State} (hown : init = 2 ↔ hostOwns t bCLK = false) (hdx : coDx t = false) :
    rcOwner t init R.CLK.PLL_STAT.reg = true := by
  have hblock : ownBlock R.CLK.PLL_STAT.reg = some bCLK := by decide
  unfold rcOwner
  rw [if_neg (by decide), if_neg (by decide), hdx, Bool.false_and, Bool.false_and, if_neg Bool.false_ne_true, hblock]
  dsimp only
  rcases hh : hostOwns t bCLK with _ | _
  · rw [hown.2 hh]
    rfl
  · have : init ≠ 2 := fun e => by rw [hown.1 e] at hh; cases hh
    simpa using this

theorem regWord_pllStat (t : State) : regWord t init R.CLK.PLL_STAT.reg = t.rd R.CLK.PLL_STAT.reg := by
  have hview : regView t R.CLK.PLL_STAT.reg 0 = none := by
    unfold regView
    simp [R.CLK.PLL_STAT.reg, isDxCell, R.TWIN.CKPT_AGE.reg, R.DXW.CFG.reg]
  have hsh : pllStatRow.shMask = 0 := by decide
  have hwo : (pllStatRow.mask fun f => f.acc == .wo) = 0 := by decide
  unfold regWord
  dsimp only
  rw [itemOf_pllStat, hview, regFind_pllStat]
  dsimp only
  rw [hsh, hwo, ite_self, fixedBits, if_neg (fun h => absurd h.1 (by decide)), if_neg (fun h => absurd h.1 (by decide))]
  show ((_ &&& 0#32) ||| (t.rd R.CLK.PLL_STAT.reg &&& ~~~0#32)) &&& ~~~0#32 = _
  rw [BitVec.and_zero, BitVec.zero_or, BitVec.not_zero, BitVec.and_allOnes, BitVec.and_allOnes]

theorem clearingRead_pllStat (h : BusReady s init) (hr : r = accessed s init) (hon : s.domOn 11 = true)
    (hown : init = 2 ↔ hostOwns s bCLK = false) (hdx : coDx s = false) :
    Goes (.clearingRead init R.CLK.PLL_STAT.reg) s fun t => (t.side init).data = s.rd R.CLK.PLL_STAT.reg ∧
      t.fld R.CLK.PLL_STAT.SYS_LOSS = 0 ∧ t.fld R.CLK.PLL_STAT.REF_LOSS = 0 ∧
      Touches [R.CLK.PLL_STAT.SYS_LOSS, R.CLK.PLL_STAT.REF_LOSS] r t := by
  obtain ⟨t, hrun, hdata, ht⟩ := clearingRead_goes h hr (a := R.CLK.PLL_STAT.reg) (by decide) (by decide) (by decide) regFind_pllStat rfl rfl hon
  have hseen : (irqSeen r (init == 2) R.CLK.PLL_STAT.reg).rf = r.rf := rf_irqSeen ..
  have hfld : ∀ f : Fld, f.key ≠ R.IRQ.MCU_CTL.IDLE.key → (irqSeen r (init == 2) R.CLK.PLL_STAT.reg).fld f = s.fld f := fun f hf => by
    rw [State.fld_of_rf_eq hseen, hr, fld_accessed s init hf]
  have howner : rcOwner (irqSeen r (init == 2) R.CLK.PLL_STAT.reg) init R.CLK.PLL_STAT.reg = true := by
    refine rcOwner_pllStat ?_ ?_
    · rw [hown, hostOwns, hostOwns, if_pos (by decide), if_pos (by decide), hfld _ (by decide)]
    · rw [coDx, State.pers, hfld _ (by decide), ← State.pers, ← coDx, hdx]
  have hm : (pllStatRow.mask fun f => f.acc == .rc) &&& r.rd R.CLK.PLL_STAT.reg &&&
      ~~~rcStuck (irqSeen r (init == 2) R.CLK.PLL_STAT.reg) R.CLK.PLL_STAT.reg = 12#32 &&& r.rd R.CLK.PLL_STAT.reg := by
    have hstuck : rcStuck (irqSeen r (init == 2) R.CLK.PLL_STAT.reg) R.CLK.PLL_STAT.reg = 0 := by
      unfold rcStuck
      rw [if_neg (by decide), if_neg (by decide), if_neg (by decide), if_neg (by decide)]
    have hmask : (pllStatRow.mask fun f => f.acc == .rc) = 12#32 := by decide
    rw [hstuck, hmask]
    show _ &&& ~~~0#32 = _
    rw [BitVec.not_zero, BitVec.and_allOnes]
  have hrd := rd_readEffect_owned regFind_pllStat (by decide) howner _ _ hm (by rw [itemOf_pllStat, itemOf_pllStat])
  have hkey : itemKey R.CLK.PLL_STAT.reg (itemOf r init R.CLK.PLL_STAT.reg) = R.CLK.PLL_STAT.reg := by
    rw [itemOf_pllStat]
    rfl
  rw [hkey] at hrd
  rw [regWord_pllStat] at hdata ht
  have htrd : ∀ k, t.rd k = (r.wr R.CLK.PLL_STAT.reg (r.rd R.CLK.PLL_STAT.reg &&& ~~~(12#32 &&& r.rd R.CLK.PLL_STAT.reg))).rd k := fun k => by
    rw [ht, State.rd_of_rf_eq (rf_answer ..), hrd]
  have hbit : ∀ f : Fld, f.key = R.CLK.PLL_STAT.reg → f.w = 1 → (12#32).getLsbD f.lo = true → t.fld f = 0 := fun f hk hw hl => by
    rw [State.fld, hk, htrd, State.rd_wr_self, of_one_bit hw, BitVec.getLsbD_and, BitVec.getLsbD_not, BitVec.getLsbD_and, hl]
    cases (r.rd R.CLK.PLL_STAT.reg).getLsbD f.lo <;> simp [b2n]
  refine ⟨t, hrun, ?_, hbit _ rfl rfl rfl, hbit _ rfl rfl rfl, touches_of_rd htrd ?_⟩
  · rw [hdata, hr, rd_accessed s init (by decide)]
  · have hmask : fldMask [R.CLK.PLL_STAT.SYS_LOSS, R.CLK.PLL_STAT.REF_LOSS] R.CLK.PLL_STAT.reg = 12#32 := by decide
    rw [hmask]
    apply BitVec.eq_of_getLsbD_eq
    intro i hi
    simp only [BitVec.getLsbD_and, BitVec.getLsbD_not, hi, decide_true, Bool.true_and]
    cases (r.rd R.CLK.PLL_STAT.reg).getLsbD i <;> cases (12#32).getLsbD i <;> rfl

/-! ### Counter clears (R156) -/

/-- The row of MBX.CNT_CLR. -/
def mbxClrRow : RegRow := ⟨0x5080, 0, 1, .one, 16, false, false, 0,
  [⟨3, 3, .wo, false⟩, ⟨2, 2, .wo, false⟩, ⟨1, 1, .wo, false⟩, ⟨0, 0, .wo, false⟩]⟩

theorem regFind_mbxClr : regFind 0x5080 = some (mbxClrRow, 0) := by decide

theorem busCheck_mbxClr (v : Word) (item : Nat) : busCheck r init 0x5080 item v false = 0 := by
  rw [busCheck, regFind_mbxClr]
  simp [dxOwned, isDxCell, ownsBlock, ownBlock, quoinOf, RegRow.hasQl, mbxClrRow]

/-- A counter is cleared where its bit is written. -/
def clearIf (b : Bool) (f : Fld) (s : State) : State := if b then s.setFld f 0 else s

theorem clearIf_rf (b : Bool) (f : Fld) {s t : State} (h : RfFrame s t) : RfFrame s (clearIf b f t) := by
  unfold clearIf
  split
  · exact h.setFld f 0
  · exact h

theorem touches_clearIf {l : List Fld} {s t : State} (b : Bool) {f : Fld} (hf : f ∈ l) (h : Touches l s t) : Touches l s (clearIf b f t) :=
  touches_ite (touches_setFld hf h) h

theorem fld_clearIf_apart (b : Bool) {f g : Fld} (s : State) (h : f.apart g = true) : (clearIf b g s).fld f = s.fld f := by
  unfold clearIf
  split
  · exact State.fld_setFld_apart _ _ h
  · rfl

theorem fld_clearIf_true (f : Fld) (s : State) (hf : Nat.ble (f.lo + f.w) 32 = true) : (clearIf true f s).fld f = 0 :=
  (State.fld_setFld_mod s f 0 hf).trans (Nat.zero_mod _)

theorem mbxClear_eq (v : Word) (item : Nat) : cntClear r init 0x5080 item v.toNat =
    clearIf (v.getLsbD 3) R.MBX.BOOT_INFO.RESTARTS (clearIf (v.getLsbD 2) R.MBX.RING_STAT.EVT_LOST
      (clearIf (v.getLsbD 1) R.MBX.STAT.DB_WRONG (clearIf (v.getLsbD 0) R.MBX.STAT.SLOT_BUSY r))) := rfl

theorem counterClear_mbx (h : BusReady s init) (hr : r = accessed s init) (v : Word) :
    ∃ u, exec (.counterClear init 0x5080 v) s = .next (follow r u) ∧ u = { r with rf := u.rf } ∧
      (v.getLsbD 0 = true → u.fld R.MBX.STAT.SLOT_BUSY = 0) ∧ (v.getLsbD 1 = true → u.fld R.MBX.STAT.DB_WRONG = 0) ∧
        (v.getLsbD 2 = true → u.fld R.MBX.RING_STAT.EVT_LOST = 0) ∧
        (v = 0 → u.fld R.MBX.STAT.SLOT_BUSY = s.fld R.MBX.STAT.SLOT_BUSY) ∧
        Touches [R.MBX.STAT.SLOT_BUSY, R.MBX.STAT.DB_WRONG, R.MBX.RING_STAT.EVT_LOST, R.MBX.BOOT_INFO.RESTARTS] r u := by
  have hd : r.domOn 1 = true := by rw [hr, domOn_accessed]; exact domOn_of_busReady h
  have hput : (regPut r init 0x5080 (itemOf r init 0x5080) v).1 = cntClear r init 0x5080 (itemOf r init 0x5080) v.toNat := by
    unfold regPut
    rw [regFind_mbxClr]
    rfl
  have hrun : exec (.counterClear init 0x5080 v) s = .next (follow r (cntClear r init 0x5080 (itemOf r init 0x5080) v.toNat)) := by
    refine (congrArg Host.Outcome.next (if_pos (by decide))).trans ((exec_registerWrite h hr 0x5080 v).trans ?_)
    rw [busWrite_below (by decide) (by decide) (by decide), regWrite_of_regFind regFind_mbxClr rfl rfl hd, busCheck_mbxClr,
      if_neg (by decide), hput]
  refine ⟨_, hrun, ?_⟩
  rw [mbxClear_eq]
  refine ⟨clearIf_rf _ _ (clearIf_rf _ _ (clearIf_rf _ _ (clearIf_rf _ _ (RfFrame.refl r)))), fun h0 => ?_, fun h1 => ?_, fun h2 => ?_,
    fun hz => ?_, touches_clearIf _ (by simp) (touches_clearIf _ (by simp) (touches_clearIf _ (by simp) (touches_clearIf _ (by simp) (.refl _ r))))⟩
  · rw [fld_clearIf_apart _ _ (by decide), fld_clearIf_apart _ _ (by decide), fld_clearIf_apart _ _ (by decide), h0, fld_clearIf_true _ _ rfl]
  · rw [fld_clearIf_apart _ _ (by decide), fld_clearIf_apart _ _ (by decide), h1, fld_clearIf_true _ _ rfl]
  · rw [fld_clearIf_apart _ _ (by decide), h2, fld_clearIf_true _ _ rfl]
  · subst hz
    rw [fld_clearIf_apart _ _ (by decide), fld_clearIf_apart _ _ (by decide), fld_clearIf_apart _ _ (by decide)]
    show r.fld R.MBX.STAT.SLOT_BUSY = _
    rw [hr, fld_accessed s init (by decide)]

/-! ### Quoins (R148) -/

theorem regFind_quoin0 : regFind 0x3060 = some (⟨0x3060, 0, 1, .one, 16, false, false, 0, [⟨18, 0, .set, false⟩]⟩, 0) := by decide

theorem regFind_quoin1 : regFind 0x3064 = some (⟨0x3064, 0, 1, .one, 16, false, false, 0, [⟨15, 0, .set, false⟩]⟩, 0) := by decide

theorem regWrite_quoin0 (hd : s.domOn 1 = true) (v : Word) : (regWrite s 0 0x3060 v false false).1 =
    s.setFld R.REGIF.QUOIN0.LOCK (s.fld R.REGIF.QUOIN0.LOCK ||| v.toNat % 2 ^ 19) := by
  have hc : ∀ item, busCheck s 0 0x3060 item v false = 0 := fun item => by
    rw [busCheck, regFind_quoin0]
    simp [dxOwned, isDxCell, ownsBlock, ownBlock, quoinOf, RegRow.hasQl]
  rw [regWrite_of_regFind regFind_quoin0 rfl rfl hd, hc, if_neg (by decide)]
  unfold regPut
  rw [regFind_quoin0]
  rfl

theorem regWrite_quoin1 (hd : s.domOn 1 = true) (v : Word) : (regWrite s 0 0x3064 v false false).1 =
    s.setFld R.REGIF.QUOIN1.LOCK (s.fld R.REGIF.QUOIN1.LOCK ||| v.toNat % 65536) := by
  have hc : ∀ item, busCheck s 0 0x3064 item v false = 0 := fun item => by
    rw [busCheck, regFind_quoin1]
    simp [dxOwned, isDxCell, ownsBlock, ownBlock, quoinOf, RegRow.hasQl]
  rw [regWrite_of_regFind regFind_quoin1 rfl rfl hd, hc, if_neg (by decide)]
  unfold regPut
  rw [regFind_quoin1]
  rfl

theorem exec_quoinSet (hd : s.domOn 1 = true) (second : Bool) (v : Word) :
    exec (.quoinSet second v) s = .next (regWrite s 0 (if second then 0x3064 else 0x3060) v false false).1 :=
  congrArg Host.Outcome.next (if_pos hd)

theorem setFld_or_leaves (s : State) {f : Fld} (hf : Nat.ble (f.lo + f.w) 32 = true) (v : Nat) (hv : v < 2 ^ f.w) :
    s.setFld f (s.fld f ||| v) = { s with rf := (s.setFld f (s.fld f ||| v)).rf } ∧ (s.setFld f (s.fld f ||| v)).fld f = (s.fld f ||| v) ∧
      Touches [f] s (s.setFld f (s.fld f ||| v)) := by
  refine ⟨rfl, ?_, touches_setFld (by simp) (.refl _ s)⟩
  rw [State.fld_setFld_mod _ _ _ hf]
  exact Nat.mod_eq_of_lt (Nat.or_lt_two_pow (State.fld_lt s f) hv)

end

/-- Settles O16. -/
theorem registerWritesAndReads : Obligations.RegisterWritesAndReads := by
  unfold Obligations.RegisterWritesAndReads
  intro s r init h hr
  have hd := domOn_of_busReady h
  refine ⟨fun a v => registerWrite_unmapped h hr, fun a v w i c => registerWrite_mapped h hr, registerWrite_readMode h hr,
    fun b v => aliasWrite_readMode h hr, fun off b v w i f ho h4 h1 h2 hb hf hi hon hfield hacc old hold =>
      aliasWrite_goes h hr ho h4 h1 h2 hb hf hi hon hfield hacc old hold,
    fun a w i => clearingRead_goes h hr, clearingRead_pllStat h hr, counterClear_mbx h hr, fun v => ?_, fun v => ?_⟩
  · exact ⟨_, (exec_quoinSet hd false v).trans (congrArg Host.Outcome.next (regWrite_quoin0 hd v)),
      setFld_or_leaves s rfl _ (Nat.mod_lt _ (by decide))⟩
  · exact ⟨_, (exec_quoinSet hd true v).trans (congrArg Host.Outcome.next (regWrite_quoin1 hd v)),
      setFld_or_leaves s rfl _ (Nat.mod_lt _ (by decide))⟩

end Sys2Proof.Machine
end

section
/-! The indirect pair (R128, R135 to R137). -/

namespace Sys2Proof.Machine

section
variable {s r t u : State} {init : Nat}

/-! ### Registers of a bank -/

theorem itemKey_ne {a b : Nat} (i j : Nat) (h : a % 0x1000000 ≠ b % 0x1000000) : itemKey a i ≠ itemKey b j := by
  unfold itemKey
  omega

theorem itemKey_ne_idle {a : Nat} (i : Nat) (h : a % 0x1000000 ≠ 0x4014) : itemKey a i ≠ R.IRQ.MCU_CTL.IDLE.key :=
  itemKey_ne (b := 0x4014) i 0 h

/-- Two states agree on an initiator's INDIR_ADDR. -/
def SameAddr (init : Nat) (s t : State) : Prop := t.rd (R.REGIF.INDIR_ADDR.reg init) = s.rd (R.REGIF.INDIR_ADDR.reg init)

namespace SameAddr

theorem fld (h : SameAddr init s t) {f : Fld} (hf : f.key = R.REGIF.INDIR_ADDR.reg init) : t.fld f = s.fld f := by
  rw [State.fld, hf, h, ← hf, ← State.fld]

theorem of_rf (h : t.rf = s.rf) : SameAddr init s t := State.rd_of_rf_eq h _

theorem trans (h : SameAddr init s t) (h' : SameAddr init t u) : SameAddr init s u := Eq.trans h' h

theorem off (h : SameAddr init s t) : indOff t init = indOff s init := h.fld rfl

theorem space (h : SameAddr init s t) : indSpace t init = indSpace s init := h.fld rfl

theorem byte (h : SameAddr init s t) : indByte t init = indByte s init := by rw [indByte, h.fld rfl, ← indByte]

theorem step (h : SameAddr init s t) : indStep t init = indStep s init := by rw [indStep, h.fld rfl, ← indStep]

theorem slow (h : SameAddr init s t) : indSlow t init = indSlow s init := by
  unfold indSlow
  rw [h.space, h.off]

end SameAddr

theorem sameAddr_accessed (s : State) (init i : Nat) : SameAddr i s (accessed s init) :=
  rd_accessed s init (itemKey_ne_idle i (by decide))

theorem indBusy_accessed (s : State) (init i : Nat) : indBusy (accessed s init) i = indBusy s i := by
  rw [indBusy, State.flag, fld_accessed s init (itemKey_ne_idle i (by decide)), ← State.flag, ← indBusy]

theorem indBusy_of_rf (h : t.rf = s.rf) : indBusy t init = indBusy s init := by
  rw [indBusy, State.flag, State.fld_of_rf_eq h, ← State.flag, ← indBusy]

/-! ### INDIR_ADDR -/

theorem exec_indirAddrWrite (h : BusReady s init) (hr : r = accessed s init) (v : Word) :
    exec (.indirAddrWrite init v) s = .next (follow r (indAddrWrite r init v)) := by
  subst hr
  refine congrArg Host.Outcome.next ((access_ready h (.write 0x3000 v)).trans ?_)
  rfl

theorem touches_indPrefetch {l : List Fld} (hl : R.REGIF.INDIR_STAT.BUSY init ∈ l) (h : Touches l s t) :
    Touches l s (indPrefetch t init) :=
  touches_ite (touches_setSide _ _ (touches_setFld hl (touches_setSide _ _ h))) (touches_setSide _ _ h)

theorem sameAddr_indPrefetch (t : State) (init : Nat) : SameAddr init t (indPrefetch t init) :=
  (touches_indPrefetch (l := [R.REGIF.INDIR_STAT.BUSY init]) (by simp) (.refl _ t)).rd
    fun f hf => by rw [List.mem_singleton.1 hf]; exact itemKey_ne (a := 0x3008) (b := 0x3000) init init (by decide)

theorem touches_wr {l : List Fld} {k : Nat} {v : Word} (hl : ⟨k, 0, 32⟩ ∈ l) (h : Touches l s t) : Touches l s (t.wr k v) := by
  refine h.trans (touches_of_rd (key := k) (v := v) (fun _ => rfl) ?_)
  have hm : ∀ i, i < 32 → (fldMask l k).getLsbD i = true := fun i hi => fldMask_mem hl i (by simp [getLsbD_mask, hi])
  apply BitVec.eq_of_getLsbD_eq
  intro i hi
  simp [BitVec.getLsbD_and, BitVec.getLsbD_not, hm i hi]

theorem indirAddrWrite_free (h : BusReady s init) (hr : r = accessed s init) (v : Word) (hb : indBusy s init = false) :
    exec (.indirAddrWrite init v) s = .next (follow r (indAddrPut r init v)) ∧
      (indAddrPut r init v).rd (R.REGIF.INDIR_ADDR.reg init) = v &&& 0xFCFFFFFF#32 ∧
        Touches [⟨R.REGIF.INDIR_ADDR.reg init, 0, 32⟩, R.REGIF.INDIR_STAT.BUSY init] r (indAddrPut r init v) := by
  refine ⟨?_, ?_, touches_indPrefetch (by simp) (touches_wr (by simp) (.refl _ r))⟩
  · rw [exec_indirAddrWrite h hr, indAddrWrite, hr, indBusy_accessed, hb, if_neg Bool.false_ne_true]
  · rw [indAddrPut, sameAddr_indPrefetch, State.rd_wr_self]

theorem indirAddrWrite_busy (h : BusReady s init) (hr : r = accessed s init) (v : Word) (hb : indBusy s init = true) :
    exec (.indirAddrWrite init v) s = .next (follow r (r.setSide init fun b => { b with stalled := some (2, v) })) := by
  rw [exec_indirAddrWrite h hr, indAddrWrite, hr, indBusy_accessed, hb, if_pos rfl]
  rfl

/-! ### INDIR_DATA -/

theorem exec_indirDataRead (h : BusReady s init) (hr : r = accessed s init) : exec (.indirDataRead init) s = .next (indDataRead r init) := by
  subst hr
  exact congrArg Host.Outcome.next (access_ready h (.read 0x3004))

/-- A read of INDIR_DATA while the pair is free. -/
theorem exec_indirDataRead_free {q : State} (h : BusReady s init) (hr : r = accessed s init) (hq : q = irqSeen r (init == 2) 0x3004)
    (hb : indBusy s init = false) : exec (.indirDataRead init) s = .next (indDataGet q init) := by
  have hrf : q.rf = r.rf := by rw [hq]; exact rf_irqSeen ..
  rw [exec_indirDataRead h hr, indDataRead, ← hq]
  rw [indBusy_of_rf hrf, hr, indBusy_accessed, hb, if_neg Bool.false_ne_true]

theorem sameAddr_seen {q : State} (hr : r = accessed s init) (hq : q = irqSeen r (init == 2) 0x3004) : SameAddr init s q := by
  have hrf : q.rf = r.rf := by rw [hq]; exact rf_irqSeen ..
  subst hr
  exact (sameAddr_accessed s init init).trans (.of_rf hrf)

theorem indirDataRead_now {q : State} (h : BusReady s init) (hr : r = accessed s init) (hq : q = irqSeen r (init == 2) 0x3004)
    (hb : indBusy s init = false) (hs : indSlow s init = false) : Goes (.indirDataRead init) s fun t =>
      t = answer (indAdvance (indGet q init).1 init) init 0x3004 (indGet q init).2 := by
  refine ⟨_, exec_indirDataRead_free h hr hq hb, ?_⟩
  rw [indDataGet, (sameAddr_seen hr hq).slow, hs, if_neg Bool.false_ne_true]

theorem sameAddr_readEffect (t : State) {off : Nat} (ho : off < 0x1000000) (hne : off ≠ 0x3000) (seen : Word) :
    SameAddr init t (readEffect t init off seen) := by
  have hseen : SameAddr init t (irqSeen t (init == 2) off) := .of_rf (rf_irqSeen ..)
  unfold readEffect
  dsimp only
  refine hseen.trans ?_
  generalize irqSeen t (init == 2) off = q
  have hrearm : SameAddr init q (if rearmedBy (rcOwner q init off) off = true then q.rearm off else q) := by
    split
    · exact .of_rf rfl
    · exact .of_rf rfl
  refine hrearm.trans ?_
  generalize (if rearmedBy (rcOwner q init off) off = true then q.rearm off else q) = q'
  split
  · exact .of_rf rfl
  · split
    · refine State.rd_wr_ne _ _ (itemKey_ne (a := 0x3000) _ _ ?_)
      omega
    · exact .of_rf rfl

theorem bus_indPrefetch_length (t : State) (init : Nat) : (indPrefetch t init).bus.length = t.bus.length := by
  have hside : ∀ (v : State) g, (v.setSide init g).bus.length = v.bus.length := fun v g => length_modifyAt v.bus init g
  unfold indPrefetch
  dsimp only
  split
  · rw [hside]
    exact hside t _
  · exact hside t _

theorem indDataGet_fetched {q : State} {v : Word} (hs : indSlow q init = true) (hon : offCheck q init (indOff q init / 4 * 4) = none)
    (hf : (q.side init).fetched = some v) (hbyte : indByte q init = false) : indDataGet q init =
      answer (indPrefetch (indAdvance (readEffect q init (indOff q init / 4 * 4) v) init) init) init 0x3004 v := by
  unfold indDataGet
  rw [hs, if_pos rfl]
  dsimp only
  rw [hon]
  dsimp only
  rw [hf]
  dsimp only
  rw [hbyte, if_neg Bool.false_ne_true]

theorem indOff_lt (s : State) (init : Nat) : indOff s init < 2 ^ 24 := State.fld_lt s (R.REGIF.INDIR_ADDR.OFFSET init)

theorem indSlow_ne (h : indSlow s init = true) : indOff s init / 4 * 4 ≠ 0x3000 := by
  intro e
  rw [indSlow, e, Bool.and_eq_true] at h
  exact absurd h.2 (by decide)

/-- A slow target's word is the one fetched for it, and the offset advances. -/
theorem indirDataRead_fetched {q : State} (h : BusReady s init) (hr : r = accessed s init) (hq : q = irqSeen r (init == 2) 0x3004)
    {v : Word} (hb : indBusy s init = false) (hs : indSlow s init = true) (hon : offCheck s init (indOff s init / 4 * 4) = none)
    (hf : (s.side init).fetched = some v) (hbyte : indByte s init = false) :
    Goes (.indirDataRead init) s fun t => (t.side init).data = v ∧ t.fld (R.REGIF.INDIR_ADDR.OFFSET init) =
        (indOff s init + indStep s init) % 2 ^ 24 := by
  have hsame := sameAddr_seen hr hq
  have hframe : q = { s with rf := q.rf, irq := q.irq } := by
    have hq' := irqSeen_frame r (init == 2) 0x3004
    have hr' := accessed_frame s init
    rw [← hq] at hq'
    rw [← hr] at hr'
    generalize q.irq = i at hq'
    generalize r.rf = f at hr'
    subst hr' hq'
    rfl
  have hbus : q.bus = s.bus := (congrArg State.bus hframe).trans rfl
  have hpwr : q.pwr = s.pwr := (congrArg State.pwr hframe).trans rfl
  have honq : offCheck q init (indOff q init / 4 * 4) = none := by
    rw [hsame.off, ← hon, offCheck, offCheck, State.domOn, State.domOn, hpwr]
  have hget := indDataGet_fetched (hsame.slow.trans hs) honq (by rw [State.side, hbus, ← State.side]; exact hf) (hsame.byte.trans hbyte)
  have heff : SameAddr init q (readEffect q init (indOff q init / 4 * 4) v) := by
    refine sameAddr_readEffect q ?_ (indSlow_ne (hsame.slow.trans hs)) v
    have := indOff_lt q init
    omega
  refine ⟨_, (exec_indirDataRead_free h hr hq hb).trans (congrArg Host.Outcome.next hget), data_answer _ _ ?_, ?_⟩
  · rw [bus_indPrefetch_length]
    show (readEffect q init _ v).bus.length > init
    rw [bus_readEffect, hbus]
    exact h.side
  · rw [State.fld_of_rf_eq (rf_answer ..), (sameAddr_indPrefetch _ _).fld rfl, indAdvance, State.fld_setFld_mod _ _ _ rfl,
      heff.off, heff.step, hsame.off, hsame.step]
    rfl

theorem exec_indirDataWrite (h : BusReady s init) (hr : r = accessed s init) (v : Word) (hb : indBusy s init = false) :
    exec (.indirDataWrite init v) s = .next (follow r (indDataPut r init v).1) := by
  have hrun : exec (.indirDataWrite init v) s = .next (follow r (indDataWrite r init v).1) := by
    subst hr
    exact congrArg Host.Outcome.next (access_ready h (.write 0x3004 v))
  rw [hrun, indDataWrite, hr, indBusy_accessed, hb, if_neg Bool.false_ne_true]

theorem indirDataWrite_now (h : BusReady s init) (hr : r = accessed s init) (v : Word) (hb : indBusy s init = false)
    (hs : indSlow s init = false) : exec (.indirDataWrite init v) s = .next (follow r (indPut r init v).1) := by
  rw [exec_indirDataWrite h hr v hb, indDataPut, hr, (sameAddr_accessed s init init).slow, hs, if_neg Bool.false_ne_true]

theorem indirDataWrite_posted (h : BusReady s init) (hr : r = accessed s init) (v : Word) (hb : indBusy s init = false)
    (hs : indSlow s init = true) : exec (.indirDataWrite init v) s = .next (follow r (indPost r init v false)) ∧
      ((indPost r init v false).side init).posted = some (v, false) ∧
        (indPost r init v false).fld (R.REGIF.INDIR_STAT.BUSY init) = 1 ∧
        Touches [R.REGIF.INDIR_STAT.BUSY init] r (indPost r init v false) := by
  refine ⟨?_, ?_, State.fld_setFld_mod r (R.REGIF.INDIR_STAT.BUSY init) 1 rfl, touches_setSide _ _ (touches_setFld (by simp) (.refl _ r))⟩
  · rw [exec_indirDataWrite h hr v hb, indDataPut, hr, (sameAddr_accessed s init init).slow, hs, if_pos rfl]
  · refine congrArg BusSide.posted (side_setSide_self (s := r.setFld (R.REGIF.INDIR_STAT.BUSY init) 1) _ ?_)
    show init < r.bus.length
    rw [hr, bus_accessed]
    exact h.side

/-! ### The end of a transfer -/

theorem unstall_of_free (h : (s.side init).stalled = none) : unstall s init = s := by rw [unstall, h]

theorem side_setFld (s : State) (f : Fld) (v i : Nat) : (s.setFld f v).side i = s.side i := rfl

theorem indirTransferDone_fetch (h : BusReady s init) (hb : indBusy s init = true) (hp : (s.side init).posted = none) :
    Goes (.indirTransferDone init) s fun t => t.fld (R.REGIF.INDIR_STAT.BUSY init) = 0 ∧
      (t.side init).fetched = some (regWord (s.setFld (R.REGIF.INDIR_STAT.BUSY init) 0) init (indOff s init / 4 * 4)) ∧
      Touches [R.REGIF.INDIR_STAT.BUSY init] s t := by
  have hoff : indOff (s.setFld (R.REGIF.INDIR_STAT.BUSY init) 0) init = indOff s init :=
    State.fld_setFld_ne s _ (itemKey_ne (a := 0x3000) (b := 0x3008) init init (by decide))
  have hrun : exec (.indirTransferDone init) s = .next (unstall ((s.setFld (R.REGIF.INDIR_STAT.BUSY init) 0).setSide init fun b =>
      { b with fetch := false, fetched := some (regWord (s.setFld (R.REGIF.INDIR_STAT.BUSY init) 0) init (indOff s init / 4 * 4)) }) init) := by
    refine (if_neg (by rw [hb]; decide)).trans ?_
    rw [hp]
    dsimp only
    rw [hoff]
  have hside := side_setSide_self (s := s.setFld (R.REGIF.INDIR_STAT.BUSY init) 0) (fun b =>
    { b with fetch := false, fetched := some (regWord (s.setFld (R.REGIF.INDIR_STAT.BUSY init) 0) init (indOff s init / 4 * 4)) }) h.side
  rw [unstall_of_free (by rw [hside]; exact h.free)] at hrun
  exact ⟨_, hrun, State.fld_setFld_mod s _ 0 rfl, congrArg BusSide.fetched hside, touches_setSide _ _ (touches_setFld (by simp) (.refl _ s))⟩

/-- The registers of a transfer that was lost. -/
def lostXfer (s : State) (init : Nat) : State := s.setFlds [(R.REGIF.INDIR_STAT.BUSY init, 0), (R.REGIF.INDIR_STAT.LOST init, 1)]

theorem lostXfer_leaves (s : State) (init : Nat) : (lostXfer s init).fld (R.REGIF.INDIR_STAT.BUSY init) = 0 ∧
    (lostXfer s init).fld (R.REGIF.INDIR_STAT.LOST init) = 1 ∧ (lostXfer s init).bus = s.bus ∧
    Touches [R.REGIF.INDIR_STAT.BUSY init, R.REGIF.INDIR_STAT.LOST init] s (lostXfer s init) :=
  ⟨(State.fld_setFld_above (s.setFld (R.REGIF.INDIR_STAT.BUSY init) 0) (f := R.REGIF.INDIR_STAT.BUSY init)
      (g := R.REGIF.INDIR_STAT.LOST init) 1 rfl).trans (State.fld_setFld_mod s _ 0 rfl),
    State.fld_setFld_mod (s.setFld (R.REGIF.INDIR_STAT.BUSY init) 0) (R.REGIF.INDIR_STAT.LOST init) 1 rfl, rfl,
    touches_setFlds (by simp) (.refl _ s)⟩

theorem indirTransferLost_leaves (h : BusReady s init) (hb : indBusy s init = true) (hp : (s.side init).posted = none) :
    Goes (.indirTransferLost init) s fun t =>
      t.fld (R.REGIF.INDIR_STAT.BUSY init) = 0 ∧ t.fld (R.REGIF.INDIR_STAT.LOST init) = 1 ∧ (t.side init).fetch = false ∧
        Touches [R.REGIF.INDIR_STAT.BUSY init, R.REGIF.INDIR_STAT.LOST init] s t := by
  obtain ⟨hbusy, hlost, hbus, ht⟩ := lostXfer_leaves s init
  have hrun : exec (.indirTransferLost init) s =
      .next (unstall ((lostXfer s init).setSide init fun b => { b with fetch := false, posted := none }) init) := by
    show execIndirTransferLost init s = _
    unfold execIndirTransferLost
    rw [hb, if_neg (by decide), hp]
    dsimp only
    rw [if_neg Bool.false_ne_true]
    rfl
  generalize lostXfer s init = w at *
  have hws : w.side init = s.side init := by rw [State.side, hbus, ← State.side]
  have hside := side_setSide_self (s := w) (fun b => { b with fetch := false, posted := none }) (by rw [hbus]; exact h.side)
  rw [unstall_of_free (by rw [hside, hws]; exact h.free)] at hrun
  exact ⟨_, hrun, (State.fld_setSide w init _ _).trans hbusy, (State.fld_setSide w init _ _).trans hlost,
    congrArg BusSide.fetch hside, touches_setSide _ _ ht⟩

/-! ### A stalled access (R128, R137) -/

theorem modifyAt_congr {α : Type} {l : List α} {i : Nat} {f g : α → α} (d : α) (h : f (l.getD i d) = g (l.getD i d)) :
    modifyAt l i f = modifyAt l i g := by
  induction l generalizing i with
  | nil => rfl
  | cons x xs ih =>
    cases i with
    | zero => exact congrArg (· :: xs) h
    | succ i => exact congrArg (x :: ·) (ih h)

theorem initUp_congr (hpwr : u.pwr = s.pwr) (hpins : u.pins = s.pins) (hpers : u.pers = s.pers) : initUp u init = initUp s init := by
  unfold initUp busUp
  rw [State.domOn, State.domOn, State.domOn, State.domOn, State.dxPresent, State.dxPresent, hpwr, hpins, hpers]

theorem registerWrite_waits {k : Nat} {v : Word} (h : BusReady s init)
    (hbus : u.bus = modifyAt s.bus init (fun b => { b with stalled := some (k, v), held := [] }))
    (hpwr : u.pwr = s.pwr) (hpins : u.pins = s.pins) (hpers : u.pers = s.pers) (a : Nat) (w : Word) :
    exec (.registerWrite init a w) u = .next ((accessed u init).setSide init fun b => { b with held := [.write a w] }) := by
  have hside : u.side init = { s.side init with stalled := some (k, v), held := [] } := by
    rw [State.side, hbus]
    exact getD_modifyAt_self _ _ h.side
  have hres : (if init = 2 then mcuResume u else u) = accessed u init := rfl
  have hacc : (accessed u init).side init = { s.side init with stalled := some (k, v), held := [] } := (side_accessed ..).trans hside
  refine congrArg Host.Outcome.next ?_
  unfold access
  dsimp only
  rw [initUp_congr hpwr hpins hpers, h.up, if_neg (by decide), hres, if_pos (by rw [hacc]; rfl)]
  refine congrArg (fun b => { accessed u init with bus := b }) (modifyAt_congr sideReset ?_)
  have hgetD : (accessed u init).bus.getD init sideReset = (accessed u init).side init := rfl
  rw [hgetD, hacc]
  rfl

theorem resume_of_none (h : (s.side init).held = []) : resume s init = s.setSide init fun b => { b with held := [] } := by
  rw [resume, h, drain]

theorem indirStallTimeout_read {v : Word} (h : BusReady s init)
    (hbus : u.bus = modifyAt s.bus init (fun b => { b with stalled := some (0, v), held := [] })) (hrf : u.rf = s.rf)
    (hb : indBusy s init = true) : Goes (.indirStallTimeout init) u fun t => (t.side init).stalled = none ∧
      (t.side init).data = 0 ∧ t.fld (R.REGIF.INDIR_STAT.TIMEOUT init) = 1 ∧ Touches [R.REGIF.INDIR_STAT.TIMEOUT init] s t := by
  have hlen : init < u.bus.length := by rw [hbus, length_modifyAt]; exact h.side
  have hside : u.side init = { s.side init with stalled := some (0, v), held := [] } := by
    rw [State.side, hbus]
    exact getD_modifyAt_self _ _ h.side
  let w := (u.setSide init fun b => { b with stalled := none }).setFld (R.REGIF.INDIR_STAT.TIMEOUT init) 1
  have hw : w.side init = { s.side init with stalled := none, held := [] } :=
    (side_setSide_self (s := u) (fun b => { b with stalled := none }) hlen).trans (by rw [hside])
  have hwlen : init < w.bus.length := by
    show init < (modifyAt u.bus init _).length
    rw [length_modifyAt]
    exact hlen
  have ha : (answer w init 0x3004 0).side init = { s.side init with stalled := none, held := [], data := 0 } :=
    (side_setSide_self (s := w) (fun b => { b with data := 0 }) hwlen).trans (by rw [hw])
  have halen : init < (answer w init 0x3004 0).bus.length := by
    show init < (modifyAt w.bus init _).length
    rw [length_modifyAt]
    exact hwlen
  have hrun : exec (.indirStallTimeout init) u = .next ((answer w init 0x3004 0).setSide init fun b => { b with held := [] }) := by
    show execIndirStallTimeout init u = _
    unfold execIndirStallTimeout
    rw [hside]
    dsimp only
    rw [indBusy_of_rf hrf, hb, if_neg (by decide), if_pos rfl]
    exact congrArg Host.Outcome.next (resume_of_none (congrArg BusSide.held ha))
  have hlast := (side_setSide_self (s := answer w init 0x3004 0) (fun b => { b with held := [] }) halen)
  refine ⟨_, hrun, ?_, ?_, ?_, ?_⟩
  · rw [hlast, ha]
  · rw [hlast, ha]
  · exact State.fld_setFld_mod (u.setSide init fun b => { b with stalled := none }) (R.REGIF.INDIR_STAT.TIMEOUT init) 1 rfl
  · exact touches_setSide _ _ (touches_rf (t := w) rfl (touches_setFld (by simp) (touches_setSide _ _ (.of_rf _ hrf))))

end

/-- Settles O17. -/
theorem indirectPair : Obligations.IndirectPair := by
  unfold Obligations.IndirectPair
  intro s r q init h hr hq
  refine ⟨indirAddrWrite_free h hr, indirAddrWrite_busy h hr, indirDataRead_now h hr hq, fun v => indirDataRead_fetched h hr hq,
    indirDataWrite_now h hr, indirDataWrite_posted h hr, indirTransferDone_fetch h, indirTransferLost_leaves h,
    fun u k v hbus hrf hpwr hpins hpers => ⟨registerWrite_waits h hbus hpwr hpins hpers, fun hk => ?_⟩⟩
  subst hk
  exact indirStallTimeout_read h hbus hrf

end Sys2Proof.Machine
end

section
/-! The wide-value mailbox and the complement-pair guard (R138, R139, R146, R147). -/

namespace Sys2Proof.Machine

section
variable {s r t u : State} {init : Nat}

/-! ### The selector -/

theorem busWrite_bank {a : Nat} (ha : a < 0x100000) (hd : a ≠ 0x3004) (hb : isBank a = true) (v : Word) :
    busWrite r init a v = (bankPut r init a v, .done) := by
  rw [busWrite, if_neg (by omega), if_neg hd, if_pos hb]

theorem exec_bankWrite (h : BusReady s init) (hr : r = accessed s init) {a : Nat} (ha : a = 0x3010 ∨ a = 0x3048 ∨ a = 0x304C) (v : Word) :
    access s init (.write a v) = follow r (bankPut r init a v) := by
  subst hr
  rw [access_ready h, busAcc, busWrite_bank (by omega) (by omega) (by rcases ha with e | e | e <;> rw [e] <;> rfl)]

theorem wideSel_eq (r : State) (init : Nat) (v : Word) : wideSel r init v =
    ((r.setFld (R.REGIF.WIDE_SEL.SEL init) v.toNat).setFld (R.REGIF.WIDE_STAT.VALID init) 0).setSide init fun b =>
      { b with wide := true } := rfl

/-- The registers of a new snapshot. -/
theorem wideSel_leaves (r : State) (init : Nat) (v : Word) : (wideSel r init v).fld (R.REGIF.WIDE_STAT.VALID init) = 0 ∧
    (wideSel r init v).fld (R.REGIF.WIDE_SEL.SEL init) = v.toNat % 2 ^ (R.REGIF.WIDE_SEL.SEL init).w ∧
    Touches [R.REGIF.WIDE_SEL.SEL init, R.REGIF.WIDE_STAT.VALID init] r (wideSel r init v) := by
  rw [wideSel_eq, State.fld_setSide, State.fld_setSide]
  refine ⟨State.fld_setFld_mod _ (R.REGIF.WIDE_STAT.VALID init) 0 rfl, ?_,
    touches_setSide _ _ (touches_setFld (by simp) (touches_setFld (by simp) (.refl _ r)))⟩
  rw [State.fld_setFld_ne _ _ (itemKey_ne (a := 0x3010) (b := 0x3014) init init (by decide)), State.fld_setFld_mod _ _ _ rfl]

theorem wideSelWrite_leaves (h : BusReady s init) (hr : r = accessed s init) (v : Word) :
    exec (.wideSelWrite init v) s = .next (follow r (wideSel r init v)) ∧
      (wideSel r init v).fld (R.REGIF.WIDE_STAT.VALID init) = 0 ∧ ((wideSel r init v).side init).wide = true ∧
      (wideSel r init v).fld (R.REGIF.WIDE_SEL.SEL init) = v.toNat % 2 ^ (R.REGIF.WIDE_SEL.SEL init).w ∧
        Touches [R.REGIF.WIDE_SEL.SEL init, R.REGIF.WIDE_STAT.VALID init] r (wideSel r init v) := by
  obtain ⟨hvalid, hsel, ht⟩ := wideSel_leaves r init v
  have hlen : init < r.bus.length := by rw [hr, bus_accessed]; exact h.side
  refine ⟨congrArg Host.Outcome.next (exec_bankWrite h hr (.inl rfl) v), hvalid, ?_, hsel, ht⟩
  rw [wideSel_eq, side_setSide_self _ (by exact hlen)]

/-! ### The snapshot -/

/-- The four words of a snapshot in the data registers. -/
def wideFill (s : State) (init : Nat) (w : List Nat) : State :=
  ((((s.setFld (R.REGIF.WIDE_D.DATA 0 init) (w.getD 0 0)).setFld (R.REGIF.WIDE_D.DATA 1 init) (w.getD 1 0)).setFld
    (R.REGIF.WIDE_D.DATA 2 init) (w.getD 2 0)).setFld (R.REGIF.WIDE_D.DATA 3 init) (w.getD 3 0)).setFld (R.REGIF.WIDE_STAT.VALID init) 1

theorem wideData_ne_valid {k : Nat} (hk : k < 4) (init : Nat) : (R.REGIF.WIDE_D.DATA k init).key ≠ (R.REGIF.WIDE_STAT.VALID init).key :=
  itemKey_ne (a := 0x3018 + 4 * k) (b := 0x3014) init init (by omega)

theorem wideData_ne {j k : Nat} (hj : j < 4) (hk : k < 4) (h : j ≠ k) (init : Nat) :
    (R.REGIF.WIDE_D.DATA j init).key ≠ (R.REGIF.WIDE_D.DATA k init).key :=
  itemKey_ne (a := 0x3018 + 4 * j) (b := 0x3018 + 4 * k) init init (by omega)

theorem wideFill_data (s : State) (init : Nat) (w : List Nat) {k : Nat} (hk : k < 4) :
    (wideFill s init w).fld (R.REGIF.WIDE_D.DATA k init) = w.getD k 0 % 2 ^ 32 := by
  rw [wideFill, State.fld_setFld_ne _ _ (wideData_ne_valid hk init)]
  have hself : ∀ t : State, (t.setFld (R.REGIF.WIDE_D.DATA k init) (w.getD k 0)).fld (R.REGIF.WIDE_D.DATA k init) = w.getD k 0 % 2 ^ 32 :=
    fun t => State.fld_setFld_mod t (R.REGIF.WIDE_D.DATA k init) _ rfl
  have hne : ∀ (t : State) (j x : Nat), j < 4 → k ≠ j →
      (t.setFld (R.REGIF.WIDE_D.DATA j init) x).fld (R.REGIF.WIDE_D.DATA k init) = t.fld (R.REGIF.WIDE_D.DATA k init) :=
    fun t j x hj h => State.fld_setFld_ne t x (wideData_ne hk hj h init)
  obtain h | h | h | h : k = 3 ∨ k = 2 ∨ k = 1 ∨ k = 0 := by omega
  · subst h
    exact hself _
  · subst h
    rw [hne _ 3 _ (by decide) (by decide), hself]
  · subst h
    rw [hne _ 3 _ (by decide) (by decide), hne _ 2 _ (by decide) (by decide), hself]
  · subst h
    rw [hne _ 3 _ (by decide) (by decide), hne _ 2 _ (by decide) (by decide), hne _ 1 _ (by decide) (by decide), hself]

theorem wideFill_leaves (s : State) (init : Nat) (w : List Nat) : (wideFill s init w).fld (R.REGIF.WIDE_STAT.VALID init) = 1 ∧
    (wideFill s init w).bus = s.bus ∧ Touches [R.REGIF.WIDE_D.DATA 0 init, R.REGIF.WIDE_D.DATA 1 init, R.REGIF.WIDE_D.DATA 2 init,
      R.REGIF.WIDE_D.DATA 3 init, R.REGIF.WIDE_STAT.VALID init] s (wideFill s init w) :=
  ⟨State.fld_setFld_mod _ (R.REGIF.WIDE_STAT.VALID init) 1 rfl, rfl,
    touches_setFld (by simp) (touches_setFld (by simp) (touches_setFld (by simp) (touches_setFld (by simp) (touches_setFld (by simp) (.refl _ s)))))⟩

theorem exec_wideSnapshotReady {w : List Nat} (hwide : (s.side init).wide = true) (hfree : (s.side init).stalled = none)
    (hv : wideValue s (s.fld (R.REGIF.WIDE_SEL.SEL init)) = some (w, false)) : exec (.wideSnapshotReady init) s =
      .next ((wideFill s init w).setSide init fun b => { b with wide := false }) := by
  have hfill : ((List.range 4).foldl (fun s k => s.setFld (R.REGIF.WIDE_D.DATA k init) (w.getD k 0)) s).setFld
      (R.REGIF.WIDE_STAT.VALID init) 1 = wideFill s init w := rfl
  have hbus : ((wideFill s init w).side init).stalled = none := by
    rw [State.side, (wideFill_leaves s init w).2.1, ← State.side, hfree]
  show execWideSnapshotReady init s = _
  unfold execWideSnapshotReady
  rw [hwide, if_neg (by decide), hv]
  simp only [Option.map_some, Option.getD_some, Bool.false_eq_true, if_false, Nat.add_zero, Option.isNone_some, hfill, hbus]

theorem wideSnapshotReady_leaves (h : BusReady s init) {w : List Nat} (hwide : (s.side init).wide = true)
    (hv : wideValue s (s.fld (R.REGIF.WIDE_SEL.SEL init)) = some (w, false)) : Goes (.wideSnapshotReady init) s fun t =>
      (∀ k, k < 4 → t.fld (R.REGIF.WIDE_D.DATA k init) = w.getD k 0 % 2 ^ 32) ∧ t.fld (R.REGIF.WIDE_STAT.VALID init) = 1 ∧
        (t.side init).wide = false ∧ Touches [R.REGIF.WIDE_D.DATA 0 init, R.REGIF.WIDE_D.DATA 1 init, R.REGIF.WIDE_D.DATA 2 init,
          R.REGIF.WIDE_D.DATA 3 init, R.REGIF.WIDE_STAT.VALID init] s t := by
  have hrun := exec_wideSnapshotReady hwide h.free hv
  have hdata := fun k (hk : k < 4) => wideFill_data s init w hk
  obtain ⟨hvalid, hbus, ht⟩ := wideFill_leaves s init w
  generalize wideFill s init w = z at *
  have hside := side_setSide_self (s := z) (fun b => { b with wide := false }) (by rw [hbus]; exact h.side)
  exact ⟨_, hrun, fun k hk => (State.fld_setSide z init _ _).trans (hdata k hk), (State.fld_setSide z init _ _).trans hvalid,
    congrArg BusSide.wide hside, touches_setSide _ _ ht⟩

/-- A read of WIDE_D3 that names no platen. -/
theorem wideRead_leaves {q : State} (hq : q.rf = r.rf)
    (hsel : ¬(0x710 ≤ r.fld (R.REGIF.WIDE_SEL.SEL init) ∧ r.fld (R.REGIF.WIDE_SEL.SEL init) < 0x720)) : ∃ z : State,
      wideRead q init 3 = answer z init 0x3024 (r.rd (R.REGIF.WIDE_D.reg 3 init)) ∧ z.bus = q.bus ∧
      z.fld (R.REGIF.WIDE_STAT.VALID init) = 0 ∧ Touches [R.REGIF.WIDE_STAT.VALID init] r z := by
  have hd : q.rd (R.REGIF.WIDE_D.reg 3 init) = r.rd (R.REGIF.WIDE_D.reg 3 init) := State.rd_of_rf_eq hq _
  unfold wideRead
  dsimp only
  rw [hd, State.fld_of_rf_eq hq]
  by_cases hv : q.flag (R.REGIF.WIDE_STAT.VALID init) = true
  · rw [if_pos ⟨rfl, hv⟩, if_neg (fun h => hsel ⟨h.1, h.2.1⟩)]
    exact ⟨_, rfl, rfl, State.fld_setFld_mod q (R.REGIF.WIDE_STAT.VALID init) 0 rfl, touches_setFld (by simp) (.of_rf _ hq)⟩
  · rw [if_neg (fun h => hv h.2)]
    refine ⟨q, rfl, rfl, ?_, .of_rf _ hq⟩
    simpa [State.flag] using hv

theorem wideD3Read_leaves (h : BusReady s init) (hr : r = accessed s init) (hwide : (s.side init).wide = false)
    (hsel : s.fld (R.REGIF.WIDE_SEL.SEL init) < 0x710 ∨ 0x720 ≤ s.fld (R.REGIF.WIDE_SEL.SEL init)) :
    Goes (.wideD3Read init) s fun t => (t.side init).data = s.rd (R.REGIF.WIDE_D.reg 3 init) ∧
      t.fld (R.REGIF.WIDE_STAT.VALID init) = 0 ∧ Touches [R.REGIF.WIDE_STAT.VALID init] r t := by
  have hfld : r.fld (R.REGIF.WIDE_SEL.SEL init) = s.fld (R.REGIF.WIDE_SEL.SEL init) := by
    rw [hr, fld_accessed s init (itemKey_ne_idle init (by decide))]
  have hd : r.rd (R.REGIF.WIDE_D.reg 3 init) = s.rd (R.REGIF.WIDE_D.reg 3 init) := by
    rw [hr]
    exact rd_accessed s init (itemKey_ne_idle init (by decide))
  have hbus : (irqSeen r (init == 2) 0x3018).bus = s.bus := by
    rw [irqSeen_frame, hr]
    exact bus_accessed s init
  have hside : ((irqSeen r (init == 2) 0x3018).side init).wide = false := by
    rw [State.side, hbus, ← State.side]
    exact hwide
  obtain ⟨z, hz, hzbus, hvalid, ht⟩ := wideRead_leaves (init := init) (rf_irqSeen r (init == 2) 0x3018) (by rw [hfld]; omega)
  have hrun : exec (.wideD3Read init) s = .next (answer z init 0x3024 (r.rd (R.REGIF.WIDE_D.reg 3 init))) := by
    refine (exec_clearingRead h hr 0x3024).trans (congrArg Host.Outcome.next ?_)
    rw [busRead, if_neg (by decide), if_neg (by decide), if_pos (by decide), wideGet]
    rw [hside, if_neg Bool.false_ne_true]
    exact hz
  refine ⟨_, hrun, ?_, (State.fld_of_rf_eq (rf_answer ..) _).trans hvalid, touches_rf (rf_answer ..) ht⟩
  rw [data_answer _ _ (by rw [hzbus, hbus]; exact h.side), hd]

/-! ### The guard -/

theorem guardValWrite_leaves (h : BusReady s init) (hr : r = accessed s init) (v : Word) :
    exec (.guardValWrite init v) s = .next (follow r (guardVal r init v)) ∧
      ((guardVal r init v).side init).guard = some v ∧ (guardVal r init v).fld (R.REGIF.GUARD_STAT.ARMED init) = 1 ∧
        Touches [R.REGIF.GUARD_STAT.ARMED init] r (guardVal r init v) := by
  have hlen : init < r.bus.length := by rw [hr, bus_accessed]; exact h.side
  exact ⟨congrArg Host.Outcome.next (exec_bankWrite h hr (.inr (.inl rfl)) v),
    congrArg BusSide.guard (side_setSide_self (s := r.setFld (R.REGIF.GUARD_STAT.ARMED init) 1) (fun b => { b with guard := some v }) hlen),
    State.fld_setFld_mod r _ 1 rfl, touches_setSide _ _ (touches_setFld (by simp) (.refl _ r))⟩

theorem exec_guardCplWrite (h : BusReady s init) (hr : r = accessed s init) (c : Word) :
    exec (.guardCplWrite init c) s = .next (follow r (guardCpl r init c)) :=
  congrArg Host.Outcome.next (exec_bankWrite h hr (.inr (.inr rfl)) c)

theorem guardTargetBad_accessed (s : State) (init : Nat) : guardTargetBad (accessed s init) init = guardTargetBad s init := by
  have hfld : ∀ f : Fld, f.key = R.REGIF.GUARD_ADDR.reg init → (accessed s init).fld f = s.fld f := fun f hf =>
    fld_accessed s init (hf ▸ itemKey_ne_idle init (by decide))
  rw [guardTargetBad, guardTargetBad, State.flag, State.flag, hfld _ rfl, hfld _ rfl]

theorem guardCplWrite_pair (h : BusReady s init) (hr : r = accessed s init) (v : Word) (hg : (s.side init).guard = some v)
    (ht : guardTargetBad s init = false) : exec (.guardCplWrite init (~~~v)) s =
      .next (follow r (guardPut ((r.setFld (R.REGIF.GUARD_STAT.ARMED init) 0).setSide init fun b => { b with guard := none })
        init v)) := by
  rw [exec_guardCplWrite h hr, guardCpl, hr, side_accessed, hg]
  dsimp only
  rw [if_neg (by simp), guardTargetBad_accessed, ht, if_neg Bool.false_ne_true]

/-- The fields of a rejected pair. -/
def guardFlds (init : Nat) : List Fld := [R.REGIF.GUARD_STAT.ARMED init, R.REGIF.GUARD_STAT.FAIL init, R.REGIF.GUARD_STAT.CAUSE init,
  R.REGIF.VIOL_COUNT.COUNT, R.REGIF.VIOL_ADDR.ADDR, R.REGIF.VIOL_INFO.INIT, R.REGIF.VIOL_INFO.CAUSE]

/-- A pair that is rejected, before its log. -/
def guardDisarmed (s : State) (init cause : Nat) : State :=
  ((s.setFld (R.REGIF.GUARD_STAT.FAIL init) 1).setFld (R.REGIF.GUARD_STAT.CAUSE init) cause).setFld (R.REGIF.GUARD_STAT.ARMED init) 0

theorem guardReject_eq (s : State) (init cause : Nat) : guardReject s init cause =
    logViol ((guardDisarmed s init cause).setSide init fun b => { b with guard := none }) init (guardAddr (guardDisarmed s init cause) init) 4 := rfl

theorem guardDisarmed_leaves (s : State) (init : Nat) {cause : Nat} (hc : cause < 16) :
    (guardDisarmed s init cause).fld (R.REGIF.GUARD_STAT.ARMED init) = 0 ∧ (guardDisarmed s init cause).fld (R.REGIF.GUARD_STAT.FAIL init) = 1 ∧
    (guardDisarmed s init cause).fld (R.REGIF.GUARD_STAT.CAUSE init) = cause ∧ (guardDisarmed s init cause).bus = s.bus ∧
    Touches (guardFlds init) s (guardDisarmed s init cause) := by
  refine ⟨State.fld_setFld_mod _ (R.REGIF.GUARD_STAT.ARMED init) 0 rfl, ?_, ?_, rfl,
    touches_setFld (by simp [guardFlds]) (touches_setFld (by simp [guardFlds]) (touches_setFld (by simp [guardFlds]) (.refl _ s)))⟩
  · rw [guardDisarmed, State.fld_setFld_below _ _ (by exact rfl), State.fld_setFld_above _ _ (by exact rfl)]
    exact State.fld_setFld_mod _ (R.REGIF.GUARD_STAT.FAIL init) 1 rfl
  · rw [guardDisarmed, State.fld_setFld_below _ _ (by exact rfl)]
    exact (State.fld_setFld_mod _ (R.REGIF.GUARD_STAT.CAUSE init) cause rfl).trans (Nat.mod_eq_of_lt hc)

theorem guardStat_apart (init : Nat) {f : Fld} (hf : f.key = R.REGIF.GUARD_STAT.reg init) : ∀ g ∈ [R.REGIF.VIOL_COUNT.COUNT,
    R.REGIF.VIOL_ADDR.ADDR, R.REGIF.VIOL_INFO.INIT, R.REGIF.VIOL_INFO.CAUSE], f.apart g = true := fun g hg => by
  refine Fld.apart_of_key_ne ?_
  rw [hf]
  fin_cases hg
  · exact itemKey_ne (a := 0x3050) (b := R.REGIF.VIOL_COUNT.COUNT.key) init 0 (by decide)
  · exact itemKey_ne (a := 0x3050) (b := R.REGIF.VIOL_ADDR.ADDR.key) init 0 (by decide)
  · exact itemKey_ne (a := 0x3050) (b := R.REGIF.VIOL_INFO.INIT.key) init 0 (by decide)
  · exact itemKey_ne (a := 0x3050) (b := R.REGIF.VIOL_INFO.CAUSE.key) init 0 (by decide)

theorem bus_latchOnce (s : State) (k : Nat) (fs : List (Fld × Nat)) : (s.latchOnce k fs).bus = s.bus := by
  unfold State.latchOnce
  split
  · rfl
  · exact (congrArg State.bus (State.setFlds_frame s fs)).trans rfl

theorem guard_logViol (s : State) (init a c : Nat) (h : init < s.bus.length) :
    ((logViol s init a c).side init).guard = (s.side init).guard := by
  have hcount : (s.count R.REGIF.VIOL_COUNT.COUNT).bus = s.bus := (congrArg State.bus (State.count_frame s _)).trans rfl
  have hbus : ((s.count R.REGIF.VIOL_COUNT.COUNT).latchOnce R.REGIF.VIOL_ADDR.reg
      [(R.REGIF.VIOL_ADDR.ADDR, a), (R.REGIF.VIOL_INFO.INIT, init), (R.REGIF.VIOL_INFO.CAUSE, c)]).bus = s.bus :=
    (bus_latchOnce ..).trans hcount
  rw [logViol, side_setSide_self _ (by rw [hbus]; exact h), State.side, hbus, ← State.side]

/-- A rejected pair writes nothing, disarms and is logged. -/
theorem guardReject_leaves (s : State) {init cause : Nat} (hc : cause < 16) (h : init < s.bus.length) :
    ((guardReject s init cause).side init).guard = none ∧ (guardReject s init cause).fld (R.REGIF.GUARD_STAT.ARMED init) = 0 ∧
    (guardReject s init cause).fld (R.REGIF.GUARD_STAT.FAIL init) = 1 ∧ (guardReject s init cause).fld (R.REGIF.GUARD_STAT.CAUSE init) = cause ∧
    Touches (guardFlds init) s (guardReject s init cause) := by
  obtain ⟨harmed, hfail, hcause, hbus, ht⟩ := guardDisarmed_leaves s init hc
  rw [guardReject_eq]
  generalize guardDisarmed s init cause = z at *
  have hside := side_setSide_self (s := z) (fun b => { b with guard := none }) (by rw [hbus]; exact h)
  have hlen : init < (z.setSide init fun b => { b with guard := none }).bus.length := by
    show init < (modifyAt z.bus init _).length
    rw [length_modifyAt, hbus]
    exact h
  have hlog := touches_logViol (z.setSide init fun b => { b with guard := none }) init (guardAddr z init) 4
  refine ⟨?_, ?_, ?_, ?_, (touches_setSide _ _ ht).trans (hlog.mono (by simp [guardFlds]))⟩
  · rw [guard_logViol _ _ _ _ hlen, hside]
  · rw [hlog.fld (guardStat_apart init rfl), State.fld_setSide, harmed]
  · rw [hlog.fld (guardStat_apart init rfl), State.fld_setSide, hfail]
  · rw [hlog.fld (guardStat_apart init rfl), State.fld_setSide, hcause]

theorem guardCplWrite_rejected (h : BusReady s init) (hr : r = accessed s init) (c : Word)
    (hc : ∀ v, (s.side init).guard = some v → c ≠ ~~~v) : ∃ u, exec (.guardCplWrite init c) s = .next (follow r u) ∧
      (u.side init).guard = none ∧ u.fld (R.REGIF.GUARD_STAT.ARMED init) = 0 ∧ u.fld (R.REGIF.GUARD_STAT.FAIL init) = 1 ∧
        u.fld (R.REGIF.GUARD_STAT.CAUSE init) = (if (s.side init).guard = none then 3 else 1) ∧ Touches (guardFlds init) r u := by
  have hcpl : guardCpl r init c = guardReject r init (if (s.side init).guard = none then 3 else 1) := by
    rw [guardCpl, hr, side_accessed]
    rcases hg : (s.side init).guard with _ | v
    · rfl
    · dsimp only
      rw [if_pos (hc v hg), if_neg (by simp)]
  have hlen : init < r.bus.length := by rw [hr, bus_accessed]; exact h.side
  refine ⟨_, exec_guardCplWrite h hr c, ?_⟩
  rw [hcpl]
  exact guardReject_leaves r (by split <;> decide) hlen

theorem guardTimeout_leaves (h : BusReady s init) (hg : (s.side init).guard ≠ none) :
    Goes (.guardTimeout init) s fun t => (t.side init).guard = none ∧
      t.fld (R.REGIF.GUARD_STAT.CAUSE init) = 2 ∧ t.fld (R.REGIF.GUARD_STAT.FAIL init) = 1 := by
  obtain ⟨hguard, -, hfail, hcause, -⟩ := guardReject_leaves s (cause := 2) (by decide) h.side
  exact ⟨_, if_pos (Option.isSome_iff_ne_none.2 hg), hguard, hcause, hfail⟩

end

/-- Settles O18. -/
theorem snapshotsAndGuardedWrites : Obligations.SnapshotsAndGuardedWrites := by
  unfold Obligations.SnapshotsAndGuardedWrites
  intro s r init h hr
  exact ⟨wideSelWrite_leaves h hr, fun w => wideSnapshotReady_leaves h, wideD3Read_leaves h hr, guardValWrite_leaves h hr,
    guardCplWrite_pair h hr, guardCplWrite_rejected h hr, guardTimeout_leaves h⟩

end Sys2Proof.Machine
end

section
/-! Pendings and masks that are written, moderation windows, the wait and the MSI-X message (R160, R165, R166, R177, R178). -/

namespace Sys2Proof.Machine

/-! ### Pendings (R165) -/

/-- What a write of a pending word does at one of its bits. -/
def pendBit (m set : Bool) (k : Nat) (v : Word) (s : State) (j : Nat) : State :=
  if v.getLsbD j && srcNamed (32 * k + j) && !isLevel (srcSense s (32 * k + j)) then
    (if set then pendSet s m (32 * k + j) else pendClear s m (32 * k + j))
  else s

/-- From `s` to `t` only pendings, stacks and windows of target `m` change. -/
structure PendOnly (m : Bool) (s t : State) : Prop where
  frame : t = { s with irq := t.irq }
  mask  : (t.tgt m).mask = (s.tgt m).mask
  other : (t.tgt (!m)).pend = (s.tgt (!m)).pend

namespace PendOnly

variable {m : Bool} {s t u : State}

theorem refl (m : Bool) (s : State) : PendOnly m s s := ⟨rfl, rfl, rfl⟩

theorem trans (h : PendOnly m s t) (h' : PendOnly m t u) : PendOnly m s u := by
  refine ⟨?_, h'.mask.trans h.mask, h'.other.trans h.other⟩
  have e := h'.frame
  rw [h.frame] at e
  exact e

theorem setPend (m : Bool) (s : State) (p : BitVec 256) (k : List StackEntry) (l : List ModState) : PendOnly m s (s.setPend m p k l) :=
  ⟨by cases m <;> rfl, State.mask_setPend .., by rw [State.tgt_setPend_not]⟩

theorem rf (h : PendOnly m s t) : t.rf = s.rf := (congrArg State.rf h.frame).trans rfl

end PendOnly

theorem pendBit_leaves (m set : Bool) {k : Nat} (v : Word) (s : State) (j : Nat) {n : Nat} (hn : n < 256) :
    PendOnly m s (pendBit m set k v s j) ∧ ((pendBit m set k v s j).tgt m).pend.getLsbD n =
      if n = 32 * k + j ∧ (v.getLsbD j && srcNamed (32 * k + j) && !isLevel (srcSense s (32 * k + j))) = true then
        set && ((s.tgt m).pend.getLsbD n || srcPrio s m n != 0)
      else (s.tgt m).pend.getLsbD n := by
  unfold pendBit
  by_cases hc : (v.getLsbD j && srcNamed (32 * k + j) && !isLevel (srcSense s (32 * k + j))) = true
  · rw [if_pos hc]
    cases set with
    | true =>
      obtain ⟨l, e⟩ := pendSet_eq s m (32 * k + j)
      rw [if_pos rfl, e]
      refine ⟨.setPend .., ?_⟩
      rw [State.pend_setPend, if_pos rfl]
      by_cases hj : n = 32 * k + j
      · subst hj
        by_cases h0 : srcPrio s m (32 * k + j) = 0
        · rw [if_pos h0, if_pos ⟨rfl, hc⟩, h0]; simp
        · rw [if_neg h0, if_pos ⟨rfl, hc⟩, getLsbD_or_bit256 _ _ hn]; simp [h0]
      · by_cases h0 : srcPrio s m (32 * k + j) = 0
        · rw [if_pos h0, if_neg (fun h => hj h.1)]
        · rw [if_neg h0, if_neg (fun h => hj h.1), getLsbD_or_bit256 _ _ hn]; simp [hj]
    | false =>
      obtain ⟨q, l, e, -⟩ := pendClear_eq s m (32 * k + j)
      rw [if_neg Bool.false_ne_true, e]
      refine ⟨.setPend .., ?_⟩
      rw [State.pend_setPend, if_pos rfl, getLsbD_and_not_bit256 _ _ hn]
      by_cases hj : n = 32 * k + j
      · rw [if_pos ⟨hj, hc⟩]; simp [hj]
      · rw [if_neg (fun h => hj h.1)]; simp [hj]
  · rw [if_neg hc, if_neg (fun h => hc h.2)]
    exact ⟨.refl m s, rfl⟩

/-- From `s` to `t` pendings of target `m` change, but not that of source `n`. -/
def PendOther (m : Bool) (n : Nat) (s t : State) : Prop := PendOnly m s t ∧ (t.tgt m).pend.getLsbD n = (s.tgt m).pend.getLsbD n

theorem PendOther.refl (m : Bool) (n : Nat) (s : State) : PendOther m n s s := ⟨.refl m s, rfl⟩

theorem PendOther.trans {m : Bool} {n : Nat} {s t u : State} (h : PendOther m n s t) (h' : PendOther m n t u) : PendOther m n s u :=
  ⟨h.1.trans h'.1, h'.2.trans h.2⟩

theorem pendOther_pendBit (m set : Bool) {k : Nat} (v : Word) (s : State) {j n : Nat} (hn : n < 256) (h : n ≠ 32 * k + j) :
    PendOther m n s (pendBit m set k v s j) := by
  obtain ⟨ho, hb⟩ := pendBit_leaves m set (k := k) v s j hn
  exact ⟨ho, hb.trans (if_neg fun e => h e.1)⟩

theorem pendFold_leaves (m set : Bool) {k n : Nat} (v : Word) (s : State) (hn : n < 256) :
    PendOnly m s ((List.range 32).foldl (pendBit m set k v) s) ∧ (((List.range 32).foldl (pendBit m set k v) s).tgt m).pend.getLsbD n =
      if n / 32 = k ∧ v.getLsbD (n % 32) = true ∧ srcNamed n = true ∧ isLevel (srcSense s n) = false then
        set && ((s.tgt m).pend.getLsbD n || srcPrio s m n != 0)
      else (s.tgt m).pend.getLsbD n := by
  by_cases hk : n / 32 = k
  · have hnk : n = 32 * k + n % 32 := by omega
    obtain ⟨u, ⟨hu, hub⟩, hv, hvb⟩ := foldl_visits (P := PendOther m n) (g := pendBit m set k v) (PendOther.refl m n) PendOther.trans
      List.nodup_range (List.mem_range.2 (Nat.mod_lt n (by decide : 32 > 0)))
      (fun u j hj hne => pendOther_pendBit m set v u hn (by have := List.mem_range.1 hj; omega)) s
    obtain ⟨hw, hwb⟩ := pendBit_leaves m set (k := k) v u (n % 32) hn
    refine ⟨(hu.trans hw).trans hv, ?_⟩
    rw [hvb, hwb, hub, ← hnk, srcSense_of_rf hu.rf, srcPrio_of_rf hu.rf]
    congr 1
    simp [hk, and_assoc]
  · have hfold : ∀ l : List Nat, (∀ j ∈ l, j < 32) → ∀ t, PendOther m n t (l.foldl (pendBit m set k v) t) := by
      intro l hl
      induction l with
      | nil => exact fun t => .refl m n t
      | cons j l ih =>
        intro t
        have hj := hl j List.mem_cons_self
        exact (pendOther_pendBit m set v t hn (by omega)).trans (ih (fun i hi => hl i (List.mem_cons_of_mem _ hi)) _)
    obtain ⟨ho, hb⟩ := hfold (List.range 32) (fun j hj => List.mem_range.1 hj) s
    exact ⟨ho, hb.trans (if_neg fun e => hk e.1).symm⟩

theorem setDue_frame {s t : State} (h : t = { s with irq := t.irq }) (d : Bool) : t.setDue d = { s with irq := (t.setDue d).irq } := by
  generalize t.irq = i at h
  subst h
  rfl

theorem irqPendingSetClr_goes {s : State} {init k n : Nat} {m set : Bool} {v : Word} (ht : irqTakes s init m = true) (hk : k < 8)
    (hn : n < 256) : Goes (.irqPendingSetClr init m set k v) s fun t =>
      t = { s with irq := t.irq } ∧ (t.tgt m).mask = (s.tgt m).mask ∧ (t.tgt (!m)).pend = (s.tgt (!m)).pend ∧
        (t.tgt m).pend.getLsbD n =
          if n / 32 = k ∧ v.getLsbD (n % 32) = true ∧ srcNamed n = true ∧ isLevel (srcSense s n) = false then
            set && ((s.tgt m).pend.getLsbD n || srcPrio s m n != 0)
          else (s.tgt m).pend.getLsbD n := by
  have hrun : exec (.irqPendingSetClr init m set k v) s = .next (msixIfRose (irqCond s false) ((List.range 32).foldl (pendBit m set k v) s)) := by
    refine congrArg Host.Outcome.next ((if_pos ht).trans ?_)
    rw [Nat.mod_eq_of_lt hk]
    rfl
  obtain ⟨hf, hb⟩ := pendFold_leaves m set (k := k) v s hn
  generalize (List.range 32).foldl (pendBit m set k v) s = u at hrun hf hb
  obtain ⟨d, hd⟩ := msixIfRose_eq (irqCond s false) u
  rw [hd] at hrun
  exact ⟨_, hrun, setDue_frame hf.frame d, hf.mask, hf.other, hb⟩

/-! ### Masks (R166) -/

theorem getLsbD_word256 (v : Word) {k n : Nat} (hn : n < 256) :
    (((v.zeroExtend 256) <<< (32 * k)) &&& ~~~(bit256 0)).getLsbD n = (decide (n / 32 = k) && v.getLsbD (n % 32) && decide (n ≠ 0)) := by
  rw [getLsbD_and_not_bit256 _ _ hn, BitVec.getLsbD_shiftLeft]
  by_cases h : n / 32 = k
  · have hsub : n - 32 * k = n % 32 := by omega
    have hlt : ¬ n < 32 * k := by omega
    have hmod : n % 32 < 256 := by omega
    simp [h, hsub, hlt, hn, hmod]
  · by_cases hlt : n < 32 * k
    · simp [h, hlt]
    · have : v.getLsbD (n - 32 * k) = false := BitVec.getLsbD_of_ge v _ (by omega)
      simp [h, this]

theorem irqMaskSetClr_goes {s : State} {init k n : Nat} {m set : Bool} {v : Word} (ht : irqTakes s init m = true) (hk : k < 8)
    (hn : n < 256) : Goes (.irqMaskSetClr init m set k v) s fun t =>
      t = { s with irq := t.irq } ∧ (t.tgt m).pend = (s.tgt m).pend ∧ (t.tgt (!m)).mask = (s.tgt (!m)).mask ∧
        (t.tgt m).mask.getLsbD n =
          if n / 32 = k ∧ v.getLsbD (n % 32) = true ∧ n ≠ 0 then set else (s.tgt m).mask.getLsbD n := by
  let w : BitVec 256 := ((v.zeroExtend 256) <<< (32 * k)) &&& ~~~(bit256 0)
  have hrun : exec (.irqMaskSetClr init m set k v) s = .next (msixIfRose (irqCond s false) (s.setTgt m { s.tgt m with
      mask := if set then (s.tgt m).mask ||| w else (s.tgt m).mask &&& ~~~w })) := by
    refine congrArg Host.Outcome.next ((if_pos ht).trans ?_)
    rw [Nat.mod_eq_of_lt hk]
    rfl
  obtain ⟨d, hd⟩ := msixIfRose_eq (irqCond s false) (s.setTgt m { s.tgt m with
    mask := if set then (s.tgt m).mask ||| w else (s.tgt m).mask &&& ~~~w })
  rw [hd] at hrun
  refine ⟨_, hrun, by cases m <;> rfl, ?_, ?_, ?_⟩
  · rw [State.tgt_setDue, State.tgt_setTgt, if_pos rfl]
  · rw [State.tgt_setDue, State.tgt_setTgt, if_neg (by cases m <;> decide)]
  · rw [State.tgt_setDue, State.tgt_setTgt, if_pos rfl]
    have hw : w.getLsbD n = decide (n / 32 = k ∧ v.getLsbD (n % 32) = true ∧ n ≠ 0) := by
      rw [getLsbD_word256 v hn]
      by_cases h : n / 32 = k <;> by_cases h' : v.getLsbD (n % 32) = true <;> simp [h, h']
    by_cases h : n / 32 = k ∧ v.getLsbD (n % 32) = true ∧ n ≠ 0
    · rw [if_pos h]
      rw [decide_eq_true h] at hw
      cases set
      · rw [if_neg Bool.false_ne_true, BitVec.getLsbD_and, BitVec.getLsbD_not, hw, decide_eq_true hn, Bool.not_true, Bool.and_false,
          Bool.and_false]
      · rw [if_pos rfl, BitVec.getLsbD_or, hw, Bool.or_true]
    · rw [if_neg h]
      rw [decide_eq_false h] at hw
      cases set
      · rw [if_neg Bool.false_ne_true, BitVec.getLsbD_and, BitVec.getLsbD_not, hw, decide_eq_true hn, Bool.not_false, Bool.and_true,
          Bool.and_true]
      · rw [if_pos rfl, BitVec.getLsbD_or, hw, Bool.or_false]

/-! ### Moderation (R177) -/

/-- A window that holds opens. -/
def openHeld (x : ModState) : ModState :=
  match x with
  | .held _ _ => .opened
  | y => y

/-- An open window closes once no pending of its group is left. -/
def closeDone (s : State) (p : BitVec 256) (g : Nat) (x : ModState) : ModState :=
  match x with
  | .opened => if (List.range 256).any (fun n => p.getLsbD n && s.fld (R.IRQ.SRC_CFG.GROUP n) == g) then .opened else .closed
  | y => y

theorem closeDone_opened (s : State) (p : BitVec 256) (g : Nat) :
    closeDone s p g .opened = .opened ∨ closeDone s p g .opened = .closed := by
  unfold closeDone
  dsimp only
  split
  · exact .inl rfl
  · exact .inr rfl

theorem closeGroups_mods (s : State) (m : Bool) (l : List ModState) : closeGroups (s.setTgt m { s.tgt m with mods := l }) m =
    s.setPend m (s.tgt m).pend (s.tgt m).stack (l.mapIdx (closeDone s (s.tgt m).pend)) := by
  cases m <;> rfl

theorem modWindowExpiry_goes {s : State} {m : Bool} {g c lim : Nat} (h : (s.tgt m).mods[g]? = some (.held c lim)) :
    Goes (.modWindowExpiry m g) s fun t => t = { s with irq := t.irq } ∧ (t.tgt m).pend = (s.tgt m).pend ∧ t.tgt (!m) = s.tgt (!m) ∧
      ((t.tgt m).mods[g]? = some .opened ∨ (t.tgt m).mods[g]? = some .closed) := by
  have hrun : exec (.modWindowExpiry m g) s = .next (msixIfRose (irqCond s false) (s.setPend m (s.tgt m).pend (s.tgt m).stack
      ((modifyAt (s.tgt m).mods g openHeld).mapIdx (closeDone s (s.tgt m).pend)))) := by
    rw [← closeGroups_mods]
    rfl
  have hmod : ((modifyAt (s.tgt m).mods g openHeld).mapIdx (closeDone s (s.tgt m).pend))[g]? =
      some (closeDone s (s.tgt m).pend g .opened) := by
    rw [List.getElem?_mapIdx, modifyAt_eq_modify, List.getElem?_modify_eq, h]
    rfl
  obtain ⟨d, hd⟩ := msixIfRose_eq (irqCond s false) (s.setPend m (s.tgt m).pend (s.tgt m).stack
    ((modifyAt (s.tgt m).mods g openHeld).mapIdx (closeDone s (s.tgt m).pend)))
  rw [hd] at hrun
  refine ⟨_, hrun, by cases m <;> rfl, ?_, ?_, ?_⟩
  · rw [State.tgt_setDue, State.pend_setPend, if_pos rfl]
  · rw [State.tgt_setDue, State.tgt_setPend_not]
  · rw [State.tgt_setDue, State.tgt_setPend, if_pos rfl]
    rcases closeDone_opened s (s.tgt m).pend g with e | e
    · exact .inl (hmod.trans (congrArg some e))
    · exact .inr (hmod.trans (congrArg some e))

/-! ### The wait (R178) -/

theorem closeDone_ne_held (s : State) (p : BitVec 256) (g : Nat) (x : ModState) (c lim : Nat) : closeDone s p g (openHeld x) ≠ .held c lim := by
  have hopened : closeDone s p g .opened ≠ .held c lim := by
    rcases closeDone_opened s p g with e | e <;> rw [e] <;> intro h <;> cases h
  cases x with
  | closed => intro h; cases h
  | held _ _ => exact hopened
  | opened => exact hopened

theorem releaseHeld_mods (s : State) (m : Bool) : releaseHeld s m =
    s.setPend m (s.tgt m).pend (s.tgt m).stack (((s.tgt m).mods.map openHeld).mapIdx (closeDone s (s.tgt m).pend)) :=
  closeGroups_mods s m ((s.tgt m).mods.map openHeld)

theorem not_held_of_mem {s : State} {p : BitVec 256} {l : List ModState} {x : ModState}
    (h : x ∈ (l.map openHeld).mapIdx (closeDone s p)) (c lim : Nat) : x ≠ .held c lim := by
  obtain ⟨i, hi, rfl⟩ := List.mem_mapIdx.1 h
  rw [List.getElem_map]
  exact closeDone_ne_held s p i _ c lim

theorem mcuWaitForInterrupt_goes (s : State) : Goes .mcuWaitForInterrupt s fun t =>
    t = { s with rf := t.rf, irq := t.irq } ∧ t.flag R.IRQ.MCU_CTL.IDLE = true ∧
      Touches [R.IRQ.MCU_CTL.IDLE] s t ∧ t.irq.host = s.irq.host ∧
      (s.irq.mcu.stack = [] → ∀ x ∈ t.irq.mcu.mods, ∀ c lim, x ≠ .held c lim) := by
  have hidle : (s.setFld R.IRQ.MCU_CTL.IDLE 1).flag R.IRQ.MCU_CTL.IDLE = true := by
    rw [State.flag, State.fld_setFld_mod _ _ _ rfl]
    decide
  have ht : Touches [R.IRQ.MCU_CTL.IDLE] s (s.setFld R.IRQ.MCU_CTL.IDLE 1) := touches_setFld (by simp) (.refl _ s)
  have hstack : idleTgt (s.setFld R.IRQ.MCU_CTL.IDLE 1) true = s.irq.mcu.stack.isEmpty := by
    rw [idleTgt, if_pos rfl, hidle, Bool.and_true]
    rfl
  by_cases hz : s.irq.mcu.stack = []
  · have hrun : exec .mcuWaitForInterrupt s = .next (releaseHeld (s.setFld R.IRQ.MCU_CTL.IDLE 1) true) :=
      congrArg Host.Outcome.next (if_pos (by rw [hstack, hz]; rfl))
    have hframe : IrqFrame s (s.setFld R.IRQ.MCU_CTL.IDLE 1) := rfl
    have hirq : (s.setFld R.IRQ.MCU_CTL.IDLE 1).irq = s.irq := rfl
    generalize s.setFld R.IRQ.MCU_CTL.IDLE 1 = u at *
    rw [releaseHeld_mods] at hrun
    refine ⟨_, hrun, hframe.setPend _ _ _ _, ?_, touches_rf (State.rf_setPend ..) ht, ?_, fun _ x hx => not_held_of_mem hx⟩
    · rw [State.flag, State.fld_of_rf_eq (State.rf_setPend ..), ← State.flag, hidle]
    · show u.irq.host = s.irq.host
      rw [hirq]
  · have hrun : exec .mcuWaitForInterrupt s = .next (s.setFld R.IRQ.MCU_CTL.IDLE 1) :=
      congrArg Host.Outcome.next (if_neg (by rw [hstack]; simpa using hz))
    exact ⟨_, hrun, rfl, hidle, ht, rfl, fun h => absurd h hz⟩

/-! ### The MSI-X message (R160) -/

theorem msixMessageSend_sends {s : State} {fm : Bool} (hdue : s.irq.msixDue = true) (hv : s.irq.msixVec.getLsbD 0 = false) (hfm : fm = false)
    (hup : s.flag R.HST.LINK.UP = true) (hp : s.pins.perst = false) : Goes (.msixMessageSend fm) s fun t =>
      t = { s with irq := { s.irq with msixPba := false, msixDue := false }, out := t.out } ∧
        t.out = .msix (s.irq.msixHi.toNat * 2 ^ 32 + s.irq.msixLo.toNat) s.irq.msixDat :: s.out := by
  refine ⟨_, (if_neg ?_).trans (if_neg ?_), rfl, rfl⟩
  · simp [hdue]
  · rw [hv, hfm, hup, hp]
    decide

theorem msixMessageSend_pends {s : State} {fm : Bool} (hdue : s.irq.msixDue = true)
    (h : s.irq.msixVec.getLsbD 0 = true ∨ fm = true ∨ s.flag R.HST.LINK.UP = false) :
    Goes (.msixMessageSend fm) s fun t => t = { s with irq := { s.irq with msixPba := true, msixDue := false } } := by
  refine ⟨_, (if_neg ?_).trans (if_pos ?_), rfl⟩
  · simp [hdue]
  · simp only [Bool.or_eq_true, Bool.not_eq_true']
    tauto

/-- Settles O22. -/
theorem interruptControlSteps : Obligations.InterruptControlSteps := by
  unfold Obligations.InterruptControlSteps
  exact fun s => ⟨fun init m set k v n => irqPendingSetClr_goes, fun init m set k v n => irqMaskSetClr_goes,
    fun m g c lim => modWindowExpiry_goes, mcuWaitForInterrupt_goes s, fun fm => msixMessageSend_sends, fun fm => msixMessageSend_pends⟩

end Sys2Proof.Machine
end

section
/-! The slot mailbox (R188 to R190, R196, R197). -/

namespace Sys2Proof.Machine

/-! ### A bit of a number -/

theorem nbit_setBit_false (n k : Nat) : nbit (setBit n k false) k = false := by
  unfold setBit
  rw [if_neg Bool.false_ne_true]
  split
  · next h =>
    rw [nbit, Nat.testBit_eq_decide_div_mod_eq, decide_eq_true_eq] at h
    rw [nbit, Nat.testBit_eq_decide_div_mod_eq, decide_eq_false_iff_not, Nat.one_shiftLeft]
    have hpos : 0 < 2 ^ k := Nat.two_pow_pos k
    have hdiv : (n - 2 ^ k) / 2 ^ k = n / 2 ^ k - 1 := by
      have := Nat.sub_mul_div n (2 ^ k) 1
      rwa [Nat.mul_one] at this
    rw [hdiv]
    omega
  · next h => simpa using h

theorem nbit_mod_of_false {n w k : Nat} (h : nbit n k = false) : nbit (n % 2 ^ w) k = false := by
  rw [nbit, Nat.testBit_mod_two_pow]
  rw [nbit] at h
  rw [h, Bool.and_false]

section
variable {s : State}

/-! ### Doorbells (R188 to R190) -/

/-- A counter counts where a condition holds. -/
def countIf (c : Prop) [Decidable c] (f : Fld) (s : State) : State := if c then s.count f else s

theorem countIf_frame (c : Prop) [Decidable c] (f : Fld) {t : State} (h : RfFrame s t) : RfFrame s (countIf c f t) := by
  unfold countIf
  split
  · obtain ⟨v, e⟩ := t.count_eq f
    rw [e]
    exact h.setFld f v
  · exact h

theorem touches_countIf {l : List Fld} {t : State} (c : Prop) [Decidable c] {f : Fld} (hf : f ∈ l) (h : Touches l s t) :
    Touches l s (countIf c f t) := touches_ite (touches_count hf h) h

theorem fld_countIf_apart (c : Prop) [Decidable c] {f g : Fld} (s : State) (h : f.apart g = true) : (countIf c g s).fld f = s.fld f := by
  unfold countIf
  split
  · obtain ⟨v, e⟩ := s.count_eq g
    rw [e, State.fld_setFld_apart _ _ h]
  · rfl

theorem reqDb_eq (s : State) (init v : Nat) : reqDb s init v = (countIf (v % 256 &&& slotsOf s init &&& s.fld R.MBX.REQ_DB_SET.SLOT ≠ 0)
    R.MBX.STAT.SLOT_BUSY (countIf (v % 256 &&& (255 - slotsOf s init) ≠ 0) R.MBX.STAT.DB_WRONG s)).setFld R.MBX.REQ_DB_SET.SLOT
      (s.fld R.MBX.REQ_DB_SET.SLOT ||| (v % 256 &&& slotsOf s init)) := rfl

theorem reqDoorbell_goes (s : State) (init v : Nat) : Goes (.reqDoorbell init v) s fun t => t = { s with rf := t.rf } ∧
    t.fld R.MBX.REQ_DB_SET.SLOT = (s.fld R.MBX.REQ_DB_SET.SLOT ||| (v % 256 &&& slotsOf s init)) % 256 ∧
    Touches [R.MBX.REQ_DB_SET.SLOT, R.MBX.STAT.DB_WRONG, R.MBX.STAT.SLOT_BUSY] s t ∧
    (v % 256 &&& (255 - slotsOf s init) ≠ 0 →
      t.fld R.MBX.STAT.DB_WRONG = min 255 (s.fld R.MBX.STAT.DB_WRONG + 1)) ∧
    (v % 256 &&& (255 - slotsOf s init) = 0 → t.fld R.MBX.STAT.DB_WRONG = s.fld R.MBX.STAT.DB_WRONG) := by
  refine ⟨reqDb s init v, rfl, ?_⟩
  rw [reqDb_eq]
  refine ⟨(countIf_frame _ _ (countIf_frame _ _ (RfFrame.refl s))).setFld _ _, State.fld_setFld_mod _ R.MBX.REQ_DB_SET.SLOT _ rfl,
    touches_setFld (by simp) (touches_countIf _ (by simp) (touches_countIf _ (by simp) (.refl _ s))), fun h => ?_, fun h => ?_⟩
  · rw [State.fld_setFld_ne _ _ (by decide), fld_countIf_apart _ _ (by decide), countIf, if_pos h]
    exact State.fld_count s _ (by decide)
  · rw [State.fld_setFld_ne _ _ (by decide), fld_countIf_apart _ _ (by decide), countIf, if_neg (not_not.2 h)]

theorem rspDb_eq (s : State) (init v : Nat) : rspDb s init v = (countIf (v % 256 &&& (255 - slotsOf s init) ≠ 0) R.MBX.STAT.DB_WRONG s).setFld
    R.MBX.RSP_DB_SET.SLOT ((countIf (v % 256 &&& (255 - slotsOf s init) ≠ 0) R.MBX.STAT.DB_WRONG s).fld R.MBX.RSP_DB_SET.SLOT &&&
      (255 - (v % 256 &&& slotsOf s init))) := rfl

theorem rspDoorbellClr_goes (s : State) (init v : Nat) : Goes (.rspDoorbellClr init v) s fun t => t = { s with rf := t.rf } ∧
    t.fld R.MBX.RSP_DB_SET.SLOT = (s.fld R.MBX.RSP_DB_SET.SLOT &&& (255 - (v % 256 &&& slotsOf s init))) ∧
    Touches [R.MBX.RSP_DB_SET.SLOT, R.MBX.STAT.DB_WRONG] s t := by
  refine ⟨rspDb s init v, rfl, ?_⟩
  rw [rspDb_eq, fld_countIf_apart _ _ (by decide)]
  refine ⟨(countIf_frame _ _ (RfFrame.refl s)).setFld _ _, ?_, touches_setFld (by simp) (touches_countIf _ (by simp) (.refl _ s))⟩
  refine State.fld_setFld_lt _ R.MBX.RSP_DB_SET.SLOT (by decide) (Nat.lt_of_le_of_lt Nat.and_le_left ?_)
  exact State.fld_lt s R.MBX.RSP_DB_SET.SLOT

/-! ### Taking a request (R189, R196, R197) -/

theorem flag_idle_mcuResume (s : State) : (mcuResume s).flag R.IRQ.MCU_CTL.IDLE = false := by
  unfold mcuResume
  split
  · rw [State.flag, State.fld_setFld_mod _ _ _ rfl]
    decide
  · next h => simpa using h

theorem mcuResume_frame {t : State} (h : RfFrame s t) : RfFrame s (mcuResume t) := by
  unfold mcuResume
  split
  · exact h.setFld _ _
  · exact h

/-- The record of a command that is taken. -/
def takenRecord (ch slot : Nat) (h payload : List Byte) (buf size : Nat) : Cmd :=
  ⟨ch, slot, u16 h 0, u8 h 2, u8 h 3, u16 h 4, u32 h 8, headerBad (ch == 2) h, payload.take (u16 h 4), buf, size, .taken, 0, [], false⟩

theorem takeCmd_takes {ch place slot buf size : Nat} {h payload : List Byte} (hop : opcodes.contains (u16 h 0) = true)
    (htag : s.mbx.cmds.any (fun c => c.chan == ch && c.tag == u8 h 2) = false) :
    takeCmd s ch place slot h payload buf size = s.setMbx fun m => { m with cmds := m.cmds ++ [takenRecord ch slot h payload buf size] } := by
  unfold takeCmd
  dsimp only
  rw [htag, if_neg Bool.false_ne_true, hop, if_neg (by decide)]
  rfl

/-- The Compositor at work on slot `k`, its doorbell clear. -/
def slotTurn (s : State) (k : Nat) : State :=
  mcuResume ((s.setFld R.MBX.REQ_DB_SET.SLOT (setBit (s.fld R.MBX.REQ_DB_SET.SLOT) k false)).setMbx fun m => { m with pass := k + 1 })

theorem slotTurn_leaves (s : State) (k : Nat) : slotTurn s k = { s with rf := (slotTurn s k).rf, mbx := { s.mbx with pass := k + 1 } } ∧
    nbit ((slotTurn s k).fld R.MBX.REQ_DB_SET.SLOT) k = false ∧ (slotTurn s k).flag R.IRQ.MCU_CTL.IDLE = false ∧
    Touches [R.MBX.REQ_DB_SET.SLOT, R.IRQ.MCU_CTL.IDLE] s (slotTurn s k) := by
  have ht : Touches [R.MBX.REQ_DB_SET.SLOT] s ((s.setFld R.MBX.REQ_DB_SET.SLOT (setBit (s.fld R.MBX.REQ_DB_SET.SLOT) k false)).setMbx
      fun m => { m with pass := k + 1 }) := touches_rf (t := s.setFld R.MBX.REQ_DB_SET.SLOT _) rfl (touches_setFld (by simp) (.refl _ s))
  have hbit : nbit (((s.setFld R.MBX.REQ_DB_SET.SLOT (setBit (s.fld R.MBX.REQ_DB_SET.SLOT) k false)).setMbx
      fun m => { m with pass := k + 1 }).fld R.MBX.REQ_DB_SET.SLOT) k = false := by
    have h : ((s.setFld R.MBX.REQ_DB_SET.SLOT (setBit (s.fld R.MBX.REQ_DB_SET.SLOT) k false)).setMbx
        fun m => { m with pass := k + 1 }).fld R.MBX.REQ_DB_SET.SLOT = setBit (s.fld R.MBX.REQ_DB_SET.SLOT) k false % 2 ^ 8 :=
      State.fld_setFld_mod s R.MBX.REQ_DB_SET.SLOT _ rfl
    rw [h]
    exact nbit_mod_of_false (nbit_setBit_false _ _)
  have hframe : (s.setFld R.MBX.REQ_DB_SET.SLOT (setBit (s.fld R.MBX.REQ_DB_SET.SLOT) k false)).setMbx (fun m => { m with pass := k + 1 }) =
      { s with
        rf := ((s.setFld R.MBX.REQ_DB_SET.SLOT (setBit (s.fld R.MBX.REQ_DB_SET.SLOT) k false)).setMbx (fun m => { m with pass := k + 1 })).rf
        mbx := { s.mbx with pass := k + 1 } } := rfl
  unfold slotTurn
  generalize (s.setFld R.MBX.REQ_DB_SET.SLOT (setBit (s.fld R.MBX.REQ_DB_SET.SLOT) k false)).setMbx
      (fun m => { m with pass := k + 1 }) = u at *
  refine ⟨?_, ?_, flag_idle_mcuResume u, (ht.mono (by simp)).trans ((touches_mcuResume u).mono (by simp))⟩
  · have hr : mcuResume u = { u with rf := (mcuResume u).rf } := mcuResume_frame (RfFrame.refl u)
    generalize (mcuResume u).rf = r at hr
    generalize u.rf = r' at hframe
    rw [hr, hframe]
  · rw [(touches_mcuResume u).fld (by decide), hbit]

theorem requestTake_goes {k : Nat} {h : List Byte} (hk : nextSlot s = some k) (hs : serving s = true) (hh : memRead s.mbx.mem (256 * k) 16 = h)
    (hop : opcodes.contains (u16 h 0) = true) (htag : s.mbx.cmds.any (fun c => c.chan == slotChan s k && c.tag == u8 h 2) = false) :
    Goes .requestTake s fun t =>
      t = { s with rf := t.rf, mbx := { s.mbx with cmds := t.mbx.cmds, pass := k + 1 } } ∧
        nbit (t.fld R.MBX.REQ_DB_SET.SLOT) k = false ∧ t.flag R.IRQ.MCU_CTL.IDLE = false ∧
        Touches [R.MBX.REQ_DB_SET.SLOT, R.IRQ.MCU_CTL.IDLE] s t ∧
        ∃ c, t.mbx.cmds = s.mbx.cmds ++ [c] ∧ c.chan = slotChan s k ∧ c.slot = k ∧ c.opcode = u16 h 0 ∧ c.tag = u8 h 2 ∧
          c.phase = .taken ∧ c.payload = (memRead s.mbx.mem (256 * k + 16) 240).take (u16 h 4) := by
  obtain ⟨hframe, hbit, hidle, ht⟩ := slotTurn_leaves s k
  have hrun : exec .requestTake s = .next (takeCmd (slotTurn s k) (slotChan s k) k k h (memRead s.mbx.mem (256 * k + 16) 240) 0 0) := by
    show execRequestTake s = _
    unfold execRequestTake
    rw [hk]
    dsimp only
    rw [hs, if_neg (by decide), hh]
    rfl
  generalize slotTurn s k = u at *
  have hcmds : u.mbx.cmds = s.mbx.cmds := by
    rw [hframe]
  rw [takeCmd_takes hop (by rw [hcmds]; exact htag)] at hrun
  refine ⟨_, hrun, ?_, hbit, hidle, touches_rf (t := u) rfl ht, takenRecord (slotChan s k) k h (memRead s.mbx.mem (256 * k + 16) 240) 0 0,
    congrArg (· ++ [takenRecord (slotChan s k) k h (memRead s.mbx.mem (256 * k + 16) 240) 0 0]) hcmds, rfl, rfl, rfl, rfl, rfl, rfl⟩
  generalize u.rf = r at hframe
  subst hframe
  rfl

/-! ### A response (R189, R190) -/

theorem responseWrite_goes {k : Nat} {p : Nat × Msg} {rest : List (Nat × Msg)} (hk : k < 8) (hp : popReady k s.mbx.ready = some (p, rest))
    (hd : nbit (s.fld R.MBX.RSP_DB_SET.SLOT) k = false) (hl : p.2.data.length ≤ 240) :
    Goes (.responseWrite k) s fun t => t.mbx.ready = rest ∧ t.mbx.mem =
      memWrite s.mbx.mem (0x800 + 256 * k) (msgHeader p.2 false false p.2.data.length ++ p.2.data) ∧
        nbit (t.fld R.MBX.RSP_DB_SET.SLOT) k = true ∧ Touches [R.MBX.RSP_DB_SET.SLOT] s t := by
  let u := s.setMbx fun x => { x with ready := rest, mem := memWrite x.mem (0x800 + 256 * k) (msgHeader p.2 false false p.2.data.length ++ p.2.data) }
  let w := if p.1 < 16 ∧ p.2.status ≠ stAccepted then forgetSlot u k p.2 else u
  have hrun : exec (.responseWrite k) s = .next (w.setFld R.MBX.RSP_DB_SET.SLOT (setBit (w.fld R.MBX.RSP_DB_SET.SLOT) k true)) := by
    have htake : p.2.data.take 240 = p.2.data := List.take_of_length_le hl
    have htrunc : decide (240 < p.2.data.length) = false := decide_eq_false (by omega)
    show execResponseWrite k s = _
    unfold execResponseWrite
    dsimp only
    rw [Nat.mod_eq_of_lt hk, hp]
    dsimp only
    rw [hd, if_neg Bool.false_ne_true, htake, htrunc]
  have hw : w.rf = s.rf ∧ w.mbx.ready = rest ∧
      w.mbx.mem = memWrite s.mbx.mem (0x800 + 256 * k) (msgHeader p.2 false false p.2.data.length ++ p.2.data) := by
    show (ite _ _ _ : State).rf = _ ∧ (ite _ _ _ : State).mbx.ready = _ ∧ (ite _ _ _ : State).mbx.mem = _
    split
    · exact ⟨rfl, rfl, rfl⟩
    · exact ⟨rfl, rfl, rfl⟩
  obtain ⟨hrf, hready, hmem⟩ := hw
  generalize w = z at *
  refine ⟨_, hrun, hready, hmem, ?_, touches_setFld (by simp) (.of_rf _ hrf)⟩
  rw [State.fld_setFld_lt z R.MBX.RSP_DB_SET.SLOT (by decide) (setBit_lt (State.fld_lt z _) hk)]
  exact nbit_setBit_self _ _

end

/-- Settles O23. -/
theorem slotMailboxSteps : Obligations.SlotMailboxSteps := by
  unfold Obligations.SlotMailboxSteps
  exact fun s => ⟨reqDoorbell_goes s, fun k h => requestTake_goes, fun k p rest => responseWrite_goes, rspDoorbellClr_goes s⟩

end Sys2Proof.Machine
end

section
/-! The ring mailbox (R191 to R195, R198). -/

namespace Sys2Proof.Machine

section
variable {s : State}

/-! ### Enabling the rings (R191, R195) -/

/-- The registers and rings of a ring mailbox that has just been enabled. -/
def ringStarted (s : State) : State :=
  ((s.setEvtq 2 { s.evtq 2 with queue := (s.evtq 2).queue.filter fun m => m.tag == 0 }).setFlds
    [(R.MBX.RING_CTL.EN, 1), (R.MBX.RING_STAT.STOPPED, 0)]).setMbx fun m => { m with
      cmdTail := 0, cmdHead := 0, cplHead := 0, cplTail := 0, evtHead := 0, evtTail := 0, cplPhase := true, evtPhase := true
      cmds := m.cmds.filter fun c => c.chan != 2
      ready := m.ready.filter fun p => p.1 % 16 != 8 }

theorem ringCtlWrite_enable (hen : s.flag R.MBX.RING_CTL.EN = false) (hw : s.pwr.wakeMsg = none) :
    ∃ f, ringCtlWrite s true = { ringStarted s with fw := f } := by
  unfold ringCtlWrite
  rw [if_neg (by decide), if_neg (by rw [hen]; decide)]
  dsimp only
  split
  · next h => cases hw.symm.trans h
  · exact ⟨_, rfl⟩

theorem fld_ringStarted (s : State) : (ringStarted s).fld R.MBX.RING_CTL.EN = 1 ∧ (ringStarted s).fld R.MBX.RING_STAT.STOPPED = 0 ∧
    Touches [R.MBX.RING_CTL.EN, R.MBX.RING_STAT.STOPPED, R.MBX.STAT.EVT_PENDING] s (ringStarted s) := by
  have hfld : ∀ f, (ringStarted s).fld f = ((s.setEvtq 2 { s.evtq 2 with queue := (s.evtq 2).queue.filter fun m => m.tag == 0 }).setFlds
    [(R.MBX.RING_CTL.EN, 1), (R.MBX.RING_STAT.STOPPED, 0)]).fld f := fun f => rfl
  have hrf : (ringStarted s).rf = ((s.setEvtq 2 { s.evtq 2 with queue := (s.evtq 2).queue.filter fun m => m.tag == 0 }).setFlds
    [(R.MBX.RING_CTL.EN, 1), (R.MBX.RING_STAT.STOPPED, 0)]).rf := rfl
  have hq : Touches [R.MBX.RING_CTL.EN, R.MBX.RING_STAT.STOPPED, R.MBX.STAT.EVT_PENDING] s
      (s.setEvtq 2 { s.evtq 2 with queue := (s.evtq 2).queue.filter fun m => m.tag == 0 }) :=
    touches_setFlag (by simp) (.of_rf _ rfl)
  generalize s.setEvtq 2 { s.evtq 2 with queue := (s.evtq 2).queue.filter fun m => m.tag == 0 } = u at *
  rw [hfld, hfld]
  exact ⟨State.fld_setFlds u 0 rfl rfl rfl (by decide), State.fld_setFlds u 1 rfl rfl rfl (by decide),
    touches_rf hrf (touches_setFlds (by simp) hq)⟩

theorem ringRuns_of_fld {t : State} (he : t.fld R.MBX.RING_CTL.EN = 1) (hs : t.fld R.MBX.RING_STAT.STOPPED = 0) : ringRuns t = true := by
  rw [ringRuns, State.flag, State.flag, he, hs]
  decide

theorem mbx_ringStarted (s : State) : (ringStarted s).mbx = { s.mbx with
    evts := (ringStarted s).mbx.evts
    cmdTail := 0, cmdHead := 0, cplHead := 0, cplTail := 0, evtHead := 0, evtTail := 0, cplPhase := true, evtPhase := true
    cmds := s.mbx.cmds.filter fun c => c.chan != 2
    ready := s.mbx.ready.filter fun p => p.1 % 16 != 8 } := rfl

theorem ringEnable_goes (hen : s.flag R.MBX.RING_CTL.EN = false) (hw : s.pwr.wakeMsg = none) : Goes .ringEnable s fun t =>
    ringRuns t = true ∧ t.mbx.cmdTail = 0 ∧ t.mbx.cmdHead = 0 ∧ t.mbx.cplHead = 0 ∧ t.mbx.cplTail = 0 ∧
      t.mbx.evtHead = 0 ∧ t.mbx.evtTail = 0 ∧ t.mbx.cplPhase = true ∧ t.mbx.evtPhase = true ∧
      t.mbx.cmds = s.mbx.cmds.filter (fun c => c.chan != 2) ∧
      Touches [R.MBX.RING_CTL.EN, R.MBX.RING_STAT.STOPPED, R.MBX.STAT.EVT_PENDING] s t := by
  obtain ⟨f, hf⟩ := ringCtlWrite_enable hen hw
  obtain ⟨he, hs, ht⟩ := fld_ringStarted s
  have hm := mbx_ringStarted s
  generalize ringStarted s = u at *
  refine ⟨_, congrArg Host.Outcome.next hf, ringRuns_of_fld he hs, ?_⟩
  show u.mbx.cmdTail = 0 ∧ u.mbx.cmdHead = 0 ∧ u.mbx.cplHead = 0 ∧ u.mbx.cplTail = 0 ∧ u.mbx.evtHead = 0 ∧ u.mbx.evtTail = 0 ∧
    u.mbx.cplPhase = true ∧ u.mbx.evtPhase = true ∧ u.mbx.cmds = _ ∧ _
  rw [hm]
  exact ⟨rfl, rfl, rfl, rfl, rfl, rfl, rfl, rfl, rfl, touches_rf (t := u) rfl ht⟩

/-! ### Fetching a command (R192, R197) -/

/-- The Compositor at work on the next entry of the command ring. -/
def ringTurn (s : State) : State :=
  mcuResume ((s.emit (.hostRead (ringBase s R.MBX.CRING_BASE_LO.reg R.MBX.CRING_BASE_HI.reg + 64 * s.mbx.cmdHead) 64)).setMbx fun m =>
    { m with cmdHead := (s.mbx.cmdHead + 1) % 256, pass := 8 })

theorem ringTurn_leaves (s : State) : ringTurn s = { s with
      rf := (ringTurn s).rf
      out := .hostRead (ringBase s R.MBX.CRING_BASE_LO.reg R.MBX.CRING_BASE_HI.reg + 64 * s.mbx.cmdHead) 64 :: s.out
      mbx := { s.mbx with cmdHead := (s.mbx.cmdHead + 1) % 256, pass := 8 } } ∧
    (ringTurn s).flag R.IRQ.MCU_CTL.IDLE = false ∧ Touches [R.IRQ.MCU_CTL.IDLE] s (ringTurn s) := by
  refine ⟨?_, flag_idle_mcuResume _, (Touches.of_rf _ rfl).trans (touches_mcuResume _)⟩
  unfold ringTurn mcuResume
  split
  · rfl
  · rfl

theorem cmdFetch_goes {e ind : List Byte} (hr : ringRuns s = true) (hne : s.mbx.cmdHead ≠ s.mbx.cmdTail) (hout : ringOut s < 64)
    (hfw : s.flag R.MBX.STAT.FW_READY = true) (hpass : passSlot s = none) (hind : nbit (u8 e 3) 1 = false)
    (hop : opcodes.contains (u16 (e.take 16) 0) = true)
    (htag : s.mbx.cmds.any (fun c => c.chan == 2 && c.tag == u8 (e.take 16) 2) = false) : Goes (.cmdFetch e ind) s fun t =>
      t = { s with rf := t.rf, out := t.out, mbx :=
        { s.mbx with cmdHead := (s.mbx.cmdHead + 1) % 256, pass := 8, cmds := t.mbx.cmds } } ∧
        t.flag R.IRQ.MCU_CTL.IDLE = false ∧ Touches [R.IRQ.MCU_CTL.IDLE] s t ∧
        t.out = .hostRead (ringBase s R.MBX.CRING_BASE_LO.reg R.MBX.CRING_BASE_HI.reg + 64 * s.mbx.cmdHead) 64 :: s.out ∧
        ∃ c, t.mbx.cmds = s.mbx.cmds ++ [c] ∧ c.chan = 2 ∧ c.slot = s.mbx.cmdHead ∧ c.tag = u8 (e.take 16) 2 ∧
          c.phase = .taken ∧ c.payload = ((e.drop 16).take 48).take (u16 (e.take 16) 4) := by
  have hwaits : ringWaits s = true := by
    rw [ringWaits, hr, hfw, decide_eq_true hout, bne_iff_ne.2 hne]
    rfl
  have hrun : exec (.cmdFetch e ind) s =
      .next (takeCmd (ringTurn s) 2 8 s.mbx.cmdHead (e.take 16) ((e.drop 16).take 48) 0 0) := by
    show execCmdFetch e ind s = _
    unfold execCmdFetch
    rw [hwaits, hpass, if_neg (by decide), hind]
    rfl
  obtain ⟨hframe, hidle, ht⟩ := ringTurn_leaves s
  generalize ringTurn s = u at *
  have hcmds : u.mbx.cmds = s.mbx.cmds := by rw [hframe]
  have hu : u.out = .hostRead (ringBase s R.MBX.CRING_BASE_LO.reg R.MBX.CRING_BASE_HI.reg + 64 * s.mbx.cmdHead) 64 :: s.out := by
    rw [hframe]
  rw [takeCmd_takes hop (by rw [hcmds]; exact htag)] at hrun
  refine ⟨_, hrun, ?_, hidle, touches_rf (t := u) rfl ht, hu, takenRecord 2 s.mbx.cmdHead (e.take 16) ((e.drop 16).take 48) 0 0,
    congrArg (· ++ [takenRecord 2 s.mbx.cmdHead (e.take 16) ((e.drop 16).take 48) 0 0]) hcmds, rfl, rfl, rfl, rfl, rfl⟩
  generalize u.rf = r at hframe
  subst hframe
  rfl

/-! ### Completions (R192, R193) -/

theorem out_irqEdge (s : State) (n : Nat) : (irqEdge s n).out = s.out := (congrArg State.out (irqEdge_frame s n)).trans rfl

theorem mbx_irqEdge (s : State) (n : Nat) : (irqEdge s n).mbx = s.mbx := (congrArg State.mbx (irqEdge_frame s n)).trans rfl

theorem rf_irqEdge (s : State) (n : Nat) : (irqEdge s n).rf = s.rf := (congrArg State.rf (irqEdge_frame s n)).trans rfl

/-- The completion ring after an entry. -/
def cplWritten (s : State) (m : Msg) (rest : List (Nat × Msg)) : State :=
  (s.emit (.hostWrite (ringBase s R.MBX.CPL_BASE_LO.reg R.MBX.CPL_BASE_HI.reg + 64 * s.mbx.cplTail)
    (ringEntry m false s.mbx.cplPhase m.data.length m.data) false)).setMbx fun x => { x with
      ready := rest, cplTail := (s.mbx.cplTail + 1) % 256, cplPhase := if s.mbx.cplTail = 255 then !x.cplPhase else x.cplPhase }

theorem exec_completionWrite {p : Nat × Msg} {rest : List (Nat × Msg)} (hr : ringRuns s = true)
    (hp : popReady 8 s.mbx.ready = some (p, rest)) (hroom : (s.mbx.cplTail + 1) % 256 ≠ s.mbx.cplHead) (hl : p.2.data.length ≤ 48) :
    exec .completionWrite s = .next (irqEdge (if p.1 < 16 ∧ p.2.status ≠ stAccepted then forget (cplWritten s p.2 rest) 2 p.2.tag false
      else cplWritten s p.2 rest) 50) := by
  have htake : p.2.data.take 48 = p.2.data := List.take_of_length_le hl
  have htrunc : decide (48 < p.2.data.length) = false := decide_eq_false (by omega)
  show execCompletionWrite s = _
  unfold execCompletionWrite
  rw [hp]
  dsimp only
  rw [if_neg (by rw [hr]; simp [hroom])]
  generalize (if p.1 < 16 then s.mbx.cmds.find? (fun c => c.chan == 2 && c.tag == p.2.tag) else none) = c
  cases c with
  | none =>
    dsimp only
    rw [if_neg Bool.false_ne_true, if_neg Bool.false_ne_true, if_neg Bool.false_ne_true, htake, htrunc]
    rfl
  | some c =>
    dsimp only
    simp only [htrunc, Bool.and_false, Bool.false_eq_true, if_false, htake]
    rfl

theorem completionWrite_goes {p : Nat × Msg} {rest : List (Nat × Msg)} (hr : ringRuns s = true)
    (hp : popReady 8 s.mbx.ready = some (p, rest)) (hroom : (s.mbx.cplTail + 1) % 256 ≠ s.mbx.cplHead) (hl : p.2.data.length ≤ 48) :
    Goes .completionWrite s fun t => t.mbx.ready = rest ∧
      t.mbx.cplTail = (s.mbx.cplTail + 1) % 256 ∧
      t.mbx.cplPhase = (if s.mbx.cplTail = 255 then !s.mbx.cplPhase else s.mbx.cplPhase) ∧ t.rf = s.rf ∧
      t.out = .hostWrite (ringBase s R.MBX.CPL_BASE_LO.reg R.MBX.CPL_BASE_HI.reg + 64 * s.mbx.cplTail)
        (ringEntry p.2 false s.mbx.cplPhase p.2.data.length p.2.data) false :: s.out := by
  refine ⟨_, exec_completionWrite hr hp hroom hl, ?_⟩
  dsimp only
  rw [mbx_irqEdge, rf_irqEdge, out_irqEdge]
  split
  · exact ⟨rfl, rfl, rfl, rfl, rfl⟩
  · exact ⟨rfl, rfl, rfl, rfl, rfl⟩

/-! ### Events (R194, R198) -/

theorem evtq_setEvtq_self {c : Nat} (q : EvtQueue) (h : c < s.mbx.evts.length) : (s.setEvtq c q).evtq c = q :=
  getD_modifyAt_self (fun _ => q) ⟨[], 0, 0, []⟩ h

/-- The event ring after an entry that is not cut. -/
def evtWritten (s : State) (m : Msg) : State :=
  (s.emit (.hostWrite (ringBase s R.MBX.EVT_BASE_LO.reg R.MBX.EVT_BASE_HI.reg + 64 * s.mbx.evtTail)
    (ringEntry m false s.mbx.evtPhase m.data.length m.data) false)).setMbx fun x => { x with
      evtTail := (s.mbx.evtTail + 1) % 256, evtPhase := if s.mbx.evtTail = 255 then !x.evtPhase else x.evtPhase }

theorem evtPut_short {m : Msg} (hl : m.data.length ≤ 48) : evtPut s m = irqEdge (evtWritten s m) 51 := by
  have htake : m.data.take 48 = m.data := List.take_of_length_le hl
  have htrunc : decide (48 < m.data.length) = false := decide_eq_false (by omega)
  unfold evtPut
  dsimp only
  rw [htake, htrunc]
  rfl

theorem rd_setEvtq {k : Nat} (c : Nat) (q : EvtQueue) (h : k ≠ R.MBX.STAT.reg) : (s.setEvtq c q).rd k = s.rd k :=
  State.rd_setFlag_ne _ _ h

theorem eventWrite_goes {m : Msg} {rest : List Msg} (hr : ringRuns s = true) (hroom : (s.mbx.evtTail + 1) % 256 ≠ s.mbx.evtHead)
    (hlost : (s.evtq 2).lost = 0) (hq : (s.evtq 2).queue = m :: rest) (hl : m.data.length ≤ 48) (hlen : 2 < s.mbx.evts.length) :
    Goes .eventWrite s fun t => (t.evtq 2).queue = rest ∧ t.mbx.evtTail = (s.mbx.evtTail + 1) % 256 ∧
      t.out = .hostWrite (ringBase s R.MBX.EVT_BASE_LO.reg R.MBX.EVT_BASE_HI.reg + 64 * s.mbx.evtTail)
        (ringEntry m false s.mbx.evtPhase m.data.length m.data) false :: s.out := by
  have hrun : exec .eventWrite s = .next (if m.tag = 0 then irqEdge (evtWritten (s.setEvtq 2 { s.evtq 2 with queue := rest }) m) 51
      else forget (irqEdge (evtWritten (s.setEvtq 2 { s.evtq 2 with queue := rest }) m) 51) 2 m.tag true) := by
    show execEventWrite s = _
    unfold execEventWrite
    rw [hr, if_neg (by decide), if_neg hroom, if_neg (by rw [hlost]; decide), hq]
    dsimp only
    rw [evtPut_short hl]
  have hself := evtq_setEvtq_self (s := s) { s.evtq 2 with queue := rest } hlen
  have hrd : ∀ k, k ≠ R.MBX.STAT.reg → (s.setEvtq 2 { s.evtq 2 with queue := rest }).rd k = s.rd k := fun k => rd_setEvtq 2 _
  have hframe := setEvtq_frame s 2 { s.evtq 2 with queue := rest }
  have hmbx : (s.setEvtq 2 { s.evtq 2 with queue := rest }).mbx.evtTail = s.mbx.evtTail ∧
      (s.setEvtq 2 { s.evtq 2 with queue := rest }).mbx.evtPhase = s.mbx.evtPhase := ⟨rfl, rfl⟩
  generalize s.setEvtq 2 { s.evtq 2 with queue := rest } = u at *
  have hbase : ringBase u R.MBX.EVT_BASE_LO.reg R.MBX.EVT_BASE_HI.reg = ringBase s R.MBX.EVT_BASE_LO.reg R.MBX.EVT_BASE_HI.reg := by
    rw [ringBase, ringBase, hrd _ (by decide), hrd _ (by decide)]
  have hout : u.out = s.out := by rw [hframe]
  have hw : ((evtWritten u m).evtq 2).queue = rest ∧ (evtWritten u m).mbx.evtTail = (s.mbx.evtTail + 1) % 256 ∧ (evtWritten u m).out =
      .hostWrite (ringBase s R.MBX.EVT_BASE_LO.reg R.MBX.EVT_BASE_HI.reg + 64 * s.mbx.evtTail)
        (ringEntry m false s.mbx.evtPhase m.data.length m.data) false :: s.out := by
    refine ⟨congrArg EvtQueue.queue hself, ?_, ?_⟩
    · show (u.mbx.evtTail + 1) % 256 = _
      rw [hmbx.1]
    · show .hostWrite (ringBase u R.MBX.EVT_BASE_LO.reg R.MBX.EVT_BASE_HI.reg + 64 * u.mbx.evtTail)
        (ringEntry m false u.mbx.evtPhase m.data.length m.data) false :: u.out = _
      rw [hbase, hmbx.1, hmbx.2, hout]
  have he : (irqEdge (evtWritten u m) 51).mbx = (evtWritten u m).mbx := mbx_irqEdge ..
  have ho : (irqEdge (evtWritten u m) 51).out = (evtWritten u m).out := out_irqEdge ..
  refine ⟨_, hrun, ?_⟩
  generalize irqEdge (evtWritten u m) 51 = z at *
  generalize evtWritten u m = y at *
  have hz : (z.evtq 2).queue = rest ∧ z.mbx.evtTail = (s.mbx.evtTail + 1) % 256 ∧ z.out =
      .hostWrite (ringBase s R.MBX.EVT_BASE_LO.reg R.MBX.EVT_BASE_HI.reg + 64 * s.mbx.evtTail)
        (ringEntry m false s.mbx.evtPhase m.data.length m.data) false :: s.out := by
    rw [State.evtq, he, ho, ← State.evtq]
    exact hw
  split
  · exact hz
  · exact hz

/-! ### Errors (R195) -/

theorem ringDmaError_goes {c : Nat} (hr : ringRuns s = true) (h1 : 1 ≤ c) (h5 : c ≤ 5) : Goes (.ringDmaError c) s fun t =>
    t = { s with rf := t.rf } ∧ ringRuns t = false ∧ t.fld R.MBX.RING_STAT.ERR_CAUSE = c ∧
      Touches [R.MBX.RING_STAT.STOPPED, R.MBX.RING_STAT.ERR_CAUSE] s t := by
  refine ⟨s.setFlds [(R.MBX.RING_STAT.STOPPED, 1), (R.MBX.RING_STAT.ERR_CAUSE, c)], if_neg (by rw [hr]; simp; omega), s.setFlds_frame _, ?_,
    State.fld_setFlds s 1 rfl rfl rfl (Nat.lt_of_le_of_lt h5 (by decide)), touches_setFlds (by simp) (.refl _ s)⟩
  rw [ringRuns, State.flag_of_fld (State.fld_setFlds s 0 (f := R.MBX.RING_STAT.STOPPED) (v := 1) rfl rfl rfl (by decide))]
  simp

end

/-- Settles O24. -/
theorem commandRingSteps : Obligations.CommandRingSteps := by
  unfold Obligations.CommandRingSteps
  exact fun s => ⟨ringEnable_goes, fun v => ⟨_, rfl, rfl⟩, fun v => ⟨_, rfl, rfl⟩, fun v => ⟨_, rfl, rfl⟩, fun e ind => cmdFetch_goes,
    fun p rest => completionWrite_goes, fun m rest => eventWrite_goes, fun c => ringDmaError_goes⟩

end Sys2Proof.Machine
end

section
/-! The watchdog, the restart of the Compositor and host-loaded firmware (R202 to R205). -/

namespace Sys2Proof.Machine

section
variable {s : State}

@[simp] theorem State.fld_setMbx (s : State) (g : Mbx → Mbx) (f : Fld) : (s.setMbx g).fld f = s.fld f := rfl

theorem touches_setMbx {l : List Fld} {t : State} (g : Mbx → Mbx) (h : Touches l s t) : Touches l s (t.setMbx g) :=
  touches_rf (t := t) rfl h

/-! ### The watchdog (R203, R205) -/

/-- The registers of an expiry that restarts the Compositor. -/
def wdogCounted (s : State) (c : Nat) : State := (s.setFld R.MBX.WDOG_STAT.LAST_CAUSE c).count R.MBX.BOOT_INFO.RESTARTS

theorem mcuRestart_frame {t : State} (h : t = { s with rf := t.rf }) (why : Nat) : mcuRestart t why =
    { s with rf := (mcuRestart t why).rf, mbx := { s.mbx with restart := why, warn := false } } := by
  generalize t.rf = r at h
  subst h
  rfl

theorem fld_mcuRestart (s : State) (why : Nat) (f : Fld) : (mcuRestart s why).fld f = (s.setFld R.MBX.STAT.FW_READY 0).fld f := rfl

theorem touches_mcuRestart (s : State) (why : Nat) : Touches [R.MBX.STAT.FW_READY] s (mcuRestart s why) :=
  touches_rf (t := s.setFld R.MBX.STAT.FW_READY 0) rfl (touches_setFld (by simp) (.refl _ s))

theorem driveFail_false (s : State) : driveFail s false = s := rfl

theorem wdogExpiry_restarts {c : Nat} (h1 : 1 ≤ c) (h3 : c ≤ 3) (ht : s.flag R.MBX.WDOG_CFG.TAKEOVER = false) :
    Goes (.wdogExpiry c false) s fun t =>
      t = { s with rf := t.rf, mbx := { s.mbx with restart := 1, warn := false } } ∧ t.fld R.MBX.WDOG_STAT.LAST_CAUSE = c ∧
        t.fld R.MBX.BOOT_INFO.RESTARTS = min 65535 (s.fld R.MBX.BOOT_INFO.RESTARTS + 1) ∧ t.flag R.MBX.STAT.FW_READY = false ∧
        Touches [R.MBX.WDOG_STAT.LAST_CAUSE, R.MBX.BOOT_INFO.RESTARTS, R.MBX.STAT.FW_READY] s t := by
  have hrun : exec (.wdogExpiry c false) s = .next (mcuRestart (wdogCounted s c) 1) := by
    show execWdogExpiry c false s = _
    unfold execWdogExpiry
    rw [ht, driveFail_false, if_neg Bool.false_ne_true, if_pos ⟨h1, h3⟩]
    rfl
  have hframe : RfFrame s (wdogCounted s c) := by
    unfold wdogCounted
    obtain ⟨v, e⟩ := (s.setFld R.MBX.WDOG_STAT.LAST_CAUSE c).count_eq R.MBX.BOOT_INFO.RESTARTS
    rw [e]
    exact ((RfFrame.refl s).setFld _ _).setFld _ _
  have hcause : (wdogCounted s c).fld R.MBX.WDOG_STAT.LAST_CAUSE = c := by
    unfold wdogCounted
    obtain ⟨v, e⟩ := (s.setFld R.MBX.WDOG_STAT.LAST_CAUSE c).count_eq R.MBX.BOOT_INFO.RESTARTS
    rw [e, State.fld_setFld_ne _ _ (by decide)]
    exact State.fld_setFld_lt s _ (by decide) (Nat.lt_of_le_of_lt h3 (by decide))
  have hcount : (wdogCounted s c).fld R.MBX.BOOT_INFO.RESTARTS = min 65535 (s.fld R.MBX.BOOT_INFO.RESTARTS + 1) := by
    have h := State.fld_count (s.setFld R.MBX.WDOG_STAT.LAST_CAUSE c) R.MBX.BOOT_INFO.RESTARTS (by decide)
    rw [State.fld_setFld_ne s _ (by decide)] at h
    exact h
  have htouch : Touches [R.MBX.WDOG_STAT.LAST_CAUSE, R.MBX.BOOT_INFO.RESTARTS, R.MBX.STAT.FW_READY] s (wdogCounted s c) :=
    touches_count (by simp) (touches_setFld (by simp) (.refl _ s))
  generalize wdogCounted s c = u at *
  refine ⟨_, hrun, mcuRestart_frame hframe 1, ?_, ?_, ?_, htouch.trans ((touches_mcuRestart u 1).mono (by simp))⟩
  · rw [fld_mcuRestart, State.fld_setFld_ne _ _ (by decide), hcause]
  · rw [fld_mcuRestart, State.fld_setFld_ne _ _ (by decide), hcount]
  · rw [State.flag, fld_mcuRestart, State.fld_setFld_mod _ _ _ rfl]
    decide

theorem fld_enterRecovery (s : State) (r : Nat) {f : Fld} (h : f.key ≠ R.SYS.PHASE.reg) : (s.enterRecovery r).fld f = s.fld f := by
  unfold State.enterRecovery
  rw [State.setFlds_cons, State.setFlds_cons, State.setFlds_nil, State.fld_setFld_ne _ _ h, State.fld_setFld_ne _ _ h]

theorem mbx_enterRecovery (s : State) (r : Nat) : (s.enterRecovery r).mbx = s.mbx := rfl

theorem wdogExpiry_recovers (c : Nat) (ht : s.flag R.MBX.WDOG_CFG.TAKEOVER = false) :
    Goes (.wdogExpiry c true) s fun t => t.phase = 3 ∧ t.fld R.MBX.WDOG_STAT.LAST_CAUSE = 4 ∧ t.mbx.restart = 0 := by
  have hrun : exec (.wdogExpiry c true) s = .next ((mcuRestart (s.setFld R.MBX.WDOG_STAT.LAST_CAUSE 4) 0).enterRecovery 5) := by
    show execWdogExpiry c true s = _
    unfold execWdogExpiry
    rw [ht, driveFail_false, if_pos rfl]
  refine ⟨_, hrun, (enterRecovery_leaves _ (by decide)).1, ?_, ?_⟩
  · rw [fld_enterRecovery _ _ (by decide), fld_mcuRestart, State.fld_setFld_ne _ _ (by decide)]
    exact State.fld_setFld_mod s R.MBX.WDOG_STAT.LAST_CAUSE 4 rfl
  · rw [mbx_enterRecovery]
    rfl

/-! ### The end of a restart (R204) -/

theorem execFwRestartDone_eq {m f : Bool} (hr : s.mbx.restart ≠ 0) : exec (.fwRestartDone m f) s =
    if (!m && (s.mbx.hostImg || !(f && s.flash.images.any fun b => imageFits b.length))) = true then
      .next ((s.setMbx fun m => { m with restart := 0 }).enterRecovery (if s.mbx.hostImg then 5 else 4))
    else .next (irqEdge (fwStarted (abortApply (failAll (State.setFld { s.setMbx (fun m => { m with restart := 0 }) with
      fw := { s.fw with apply := s.fw.apply.map fun a => { a with cmd := none }, route := none, edit := none } } R.MBX.STAT.FW_READY 1))
        stHw) (if s.mbx.restart = 2 then 2 else 1)) 54) := by
  exact if_neg hr

theorem fwStarted_frame (s : State) (c : Nat) : fwStarted s c =
    { s with rf := (fwStarted s c).rf, mbx := { s.mbx with evts := (fwStarted s c).mbx.evts } } := by
  have he := (EvtStep.event (mcuResume s) 0xE010 (leBytes 4 (s.rd R.COLO.FW.reg).toNat ++ [byteOf c])).frame
  have hm : RfFrame s (mcuResume s) := mcuResume_frame (RfFrame.refl s)
  unfold fwStarted
  generalize (mcuResume s).event 0xE010 (leBytes 4 (s.rd R.COLO.FW.reg).toNat ++ [byteOf c]) = t at *
  generalize mcuResume s = u at *
  unfold RfFrame at hm
  generalize u.rf = r at hm
  subst hm
  exact he

theorem failAll_nil (h : s.mbx.cmds = []) : failAll s = s := by
  rw [failAll, h]
  rfl

theorem abortApply_none (h : s.fw.apply = none) (st : Nat) : abortApply s st = s := by
  rw [abortApply, h]

theorem fwRestartDone_serves (hr : s.mbx.restart ≠ 0) (hc : s.mbx.cmds = []) (ha : s.fw.apply = none) :
    Goes (.fwRestartDone true true) s fun t =>
      t.mbx.restart = 0 ∧ t.flag R.MBX.STAT.FW_READY = true ∧ t.fw.route = none ∧ t.phase = s.phase ∧ t.flash = s.flash := by
  let w : State := { s.setMbx (fun m => { m with restart := 0 }) with
    fw := { s.fw with apply := s.fw.apply.map fun a => { a with cmd := none }, route := none, edit := none } }
  have hrun : exec (.fwRestartDone true true) s = .next (irqEdge (fwStarted (w.setFld R.MBX.STAT.FW_READY 1)
      (if s.mbx.restart = 2 then 2 else 1)) 54) := by
    rw [execFwRestartDone_eq hr, if_neg (by rw [Bool.not_true, Bool.false_and]; decide), failAll_nil (by exact hc), abortApply_none (by
      show s.fw.apply.map _ = none
      rw [ha]
      rfl)]
  have hready : (w.setFld R.MBX.STAT.FW_READY 1).fld R.MBX.STAT.FW_READY = 1 := State.fld_setFld_mod w _ 1 rfl
  have hphase : (w.setFld R.MBX.STAT.FW_READY 1).fld R.SYS.PHASE.PHASE_F = s.phase := State.fld_setFld_ne w 1 (by decide)
  have hmbx : (w.setFld R.MBX.STAT.FW_READY 1).mbx.restart = 0 ∧ (w.setFld R.MBX.STAT.FW_READY 1).fw.route = none ∧
      (w.setFld R.MBX.STAT.FW_READY 1).flash = s.flash := ⟨rfl, rfl, rfl⟩
  obtain ⟨hrestart, hroute, hflash⟩ := hmbx
  generalize w.setFld R.MBX.STAT.FW_READY 1 = u at *
  have hf := fwStarted_frame u (if s.mbx.restart = 2 then 2 else 1)
  have ht := touches_fwStarted u (if s.mbx.restart = 2 then 2 else 1)
  generalize fwStarted u (if s.mbx.restart = 2 then 2 else 1) = t at *
  refine ⟨_, hrun, ?_, ?_, ?_, ?_, ?_⟩
  · rw [mbx_irqEdge, hf]
    exact hrestart
  · rw [State.flag, fld_irqEdge, ht.fld (by decide), hready]
    decide
  · rw [irqEdge_frame, hf]
    exact hroute
  · rw [State.phase, fld_irqEdge, ht.fld (by decide), hphase]
  · rw [irqEdge_frame, hf]
    exact hflash

theorem fwRestartDone_recovers (hr : s.mbx.restart ≠ 0) (hi : s.mbx.hostImg = true) : Goes (.fwRestartDone false true) s fun t =>
    t.mbx.restart = 0 ∧ t.phase = 3 ∧ t.fld R.SYS.PHASE.REASON = 5 := by
  have hrun := execFwRestartDone_eq (m := false) (f := true) hr
  rw [hi, if_pos (by rw [Bool.true_or]; rfl), if_pos rfl] at hrun
  obtain ⟨hphase, hreason⟩ := enterRecovery_leaves (s.setMbx fun m => { m with restart := 0 }) (r := 5) (by decide)
  exact ⟨_, hrun, rfl, hphase, hreason⟩

/-! ### Loading an image (R202) -/

theorem loadCtl_word {len : Nat} (h : len ≤ 32768) (last : Bool) :
    nbit (2 ^ 31 + b2n last * 2 ^ 30 + len % 65536) 31 = true ∧ nbit (2 ^ 31 + b2n last * 2 ^ 30 + len % 65536) 30 = last ∧
      (2 ^ 31 + b2n last * 2 ^ 30 + len % 65536) % 65536 = len := by
  rw [Nat.mod_eq_of_lt (by omega : len < 65536), nbit, nbit, Nat.testBit_eq_decide_div_mod_eq, Nat.testBit_eq_decide_div_mod_eq]
  cases last
  · have h0 : b2n false = 0 := rfl
    rw [h0]
    exact ⟨decide_eq_true (by omega), decide_eq_false (by omega), by omega⟩
  · have h1 : b2n true = 1 := rfl
    rw [h1]
    exact ⟨decide_eq_true (by omega), decide_eq_true (by omega), by omega⟩

/-- A load that starts anew forgets how the last one ended. -/
def loadFresh (s : State) : State :=
  if s.fld R.MBX.LOAD_STAT.TOTAL = 0 then s.setFlds [(R.MBX.LOAD_STAT.BAD_SIG, 0), (R.MBX.LOAD_STAT.DONE, 0)] else s

theorem loadFresh_leaves (s : State) : RfFrame s (loadFresh s) ∧
    ∀ f : Fld, f.apart R.MBX.LOAD_STAT.BAD_SIG = true → f.apart R.MBX.LOAD_STAT.DONE = true → (loadFresh s).fld f = s.fld f := by
  unfold loadFresh
  split
  · refine ⟨s.setFlds_frame _, fun f h h' => State.fld_setFlds_apart s ?_⟩
    simp [h, h']
  · exact ⟨RfFrame.refl s, fun _ _ _ => rfl⟩

/-- The registers of a chunk on its way. -/
def loadBusy (s : State) : State := (loadFresh s).setFlds [(R.MBX.LOAD_STAT.BAD_LEN, 0), (R.MBX.LOAD_STAT.BUSY, 1)]

theorem loadBusy_leaves (s : State) : RfFrame s (loadBusy s) ∧ (loadBusy s).fld R.MBX.LOAD_STAT.BUSY = 1 ∧
    (loadBusy s).fld R.MBX.LOAD_STAT.BAD_LEN = 0 ∧ (loadBusy s).fld R.MBX.LOAD_STAT.TOTAL = s.fld R.MBX.LOAD_STAT.TOTAL := by
  obtain ⟨hframe, hfld⟩ := loadFresh_leaves s
  have htotal := hfld R.MBX.LOAD_STAT.TOTAL (by decide) (by decide)
  unfold loadBusy
  generalize loadFresh s = u at *
  exact ⟨hframe.setFlds _, State.fld_setFlds u 1 rfl rfl rfl (by decide), State.fld_setFlds u 0 rfl rfl rfl (by decide),
    (State.fld_setFlds_apart u rfl).trans htotal⟩

theorem loadChunkGo_goes {init len : Nat} {last : Bool} (h1 : 1 ≤ len) (h2 : len ≤ 32768) (hs : loaderServes s = true)
    (hb : s.flag R.MBX.LOAD_STAT.BUSY = false) (ht : s.fld R.MBX.LOAD_STAT.TOTAL + len ≤ 787200) :
    Goes (.loadChunkGo init len last) s fun t =>
      t = { s with rf := t.rf, mbx := { s.mbx with loadLen := len, loadLast := last, loadCtl := init == 1 } } ∧
        t.flag R.MBX.LOAD_STAT.BUSY = true ∧ t.fld R.MBX.LOAD_STAT.BAD_LEN = 0 ∧
        t.fld R.MBX.LOAD_STAT.TOTAL = s.fld R.MBX.LOAD_STAT.TOTAL := by
  obtain ⟨hgo, hlast, hlen⟩ := loadCtl_word h2 last
  have hrun : exec (.loadChunkGo init len last) s = .next ((loadBusy s).setMbx fun m =>
      { m with loadLen := len, loadLast := last, loadCtl := init == 1 }) := by
    show ok (loadCtlWrite s init _) = _
    unfold loadCtlWrite
    rw [hgo, hs, hb, if_neg (by decide)]
    dsimp only
    rw [hlen, hlast, if_neg (by omega), if_neg (by omega)]
    rfl
  obtain ⟨hframe, hbusy, hbad, htot⟩ := loadBusy_leaves s
  generalize loadBusy s = u at *
  refine ⟨_, hrun, ?_, ?_, hbad, htot⟩
  · unfold RfFrame at hframe
    generalize u.rf = r at hframe
    subst hframe
    rfl
  · show u.flag R.MBX.LOAD_STAT.BUSY = true
    rw [State.flag, hbusy]
    decide

theorem loadChunkTaken_goes (hb : s.flag R.MBX.LOAD_STAT.BUSY = true) (hl : s.fld R.MBX.LOAD_STAT.TOTAL + s.mbx.loadLen < 2 ^ 20) :
    Goes .loadChunkTaken s fun t => t.fld R.MBX.LOAD_STAT.BUSY = 0 ∧
      t.fld R.MBX.LOAD_STAT.TOTAL = s.fld R.MBX.LOAD_STAT.TOTAL + s.mbx.loadLen ∧
      t.mbx.load = memWrite s.mbx.load (s.fld R.MBX.LOAD_STAT.TOTAL) (memRead s.mbx.mem 0x8000 s.mbx.loadLen) ∧
      Touches [R.MBX.LOAD_STAT.BUSY, R.MBX.LOAD_STAT.TOTAL] s t := by
  have hbusy : (s.setFlds [(R.MBX.LOAD_STAT.BUSY, 0), (R.MBX.LOAD_STAT.TOTAL, s.fld R.MBX.LOAD_STAT.TOTAL + s.mbx.loadLen)]).fld
      R.MBX.LOAD_STAT.BUSY = 0 := State.fld_setFlds s 0 rfl rfl rfl (by decide)
  have htot : (s.setFlds [(R.MBX.LOAD_STAT.BUSY, 0), (R.MBX.LOAD_STAT.TOTAL, s.fld R.MBX.LOAD_STAT.TOTAL + s.mbx.loadLen)]).fld
      R.MBX.LOAD_STAT.TOTAL = s.fld R.MBX.LOAD_STAT.TOTAL + s.mbx.loadLen := State.fld_setFlds s 1 rfl rfl rfl hl
  have ht : Touches [R.MBX.LOAD_STAT.BUSY, R.MBX.LOAD_STAT.TOTAL] s (s.setFlds [(R.MBX.LOAD_STAT.BUSY, 0),
      (R.MBX.LOAD_STAT.TOTAL, s.fld R.MBX.LOAD_STAT.TOTAL + s.mbx.loadLen)]) := touches_setFlds (by simp) (.refl _ s)
  have hmbx : (s.setFlds [(R.MBX.LOAD_STAT.BUSY, 0), (R.MBX.LOAD_STAT.TOTAL, s.fld R.MBX.LOAD_STAT.TOTAL + s.mbx.loadLen)]).mbx = s.mbx :=
    (congrArg State.mbx (State.setFlds_frame s _)).trans rfl
  have hrun : exec .loadChunkTaken s = .next ((s.setFlds [(R.MBX.LOAD_STAT.BUSY, 0),
      (R.MBX.LOAD_STAT.TOTAL, s.fld R.MBX.LOAD_STAT.TOTAL + s.mbx.loadLen)]).setMbx fun m => { m with
        load := memWrite m.load (s.fld R.MBX.LOAD_STAT.TOTAL) (memRead m.mem 0x8000 s.mbx.loadLen),
        loadLen := if m.loadLast then m.loadLen else 0 }) := if_neg (by rw [hb]; decide)
  generalize s.setFlds [(R.MBX.LOAD_STAT.BUSY, 0), (R.MBX.LOAD_STAT.TOTAL, s.fld R.MBX.LOAD_STAT.TOTAL + s.mbx.loadLen)] = u at *
  refine ⟨_, hrun, (State.fld_setMbx u _ _).trans hbusy, (State.fld_setMbx u _ _).trans htot, ?_, touches_setMbx _ ht⟩
  show memWrite u.mbx.load _ (memRead u.mbx.mem _ _) = _
  rw [hmbx]

/-! ### The check of a loaded image (R200, R202) -/

/-- The mailboxes' record once the image has been looked at. -/
def loadSeen (s : State) : State := s.setMbx fun m => { m with loadLast := false, loadLen := 0 }

/-- The words of a loaded image. -/
def loadWords (s : State) (fw proto : Nat) : State :=
  ((s.wr R.COLO.FW.reg (BitVec.ofNat 32 (fw % 2 ^ 24))).wr R.COLO.STKPROTO.reg (BitVec.ofNat 32 (proto % 65536))).setDx 2
    (fw / 256 + 0x200)

theorem fld_loadWords (s : State) (fw proto : Nat) {f : Fld} (h : f.key ≠ R.COLO.FW.reg) (h' : f.key ≠ R.COLO.STKPROTO.reg) :
    (loadWords s fw proto).fld f = s.fld f := by
  rw [loadWords, State.fld_setDx, State.fld_wr_ne _ _ h', State.fld_wr_ne _ _ h]

theorem rd_loadWords (s : State) (fw proto : Nat) : (loadWords s fw proto).rd R.COLO.FW.reg = BitVec.ofNat 32 (fw % 2 ^ 24) := by
  have hdx : ∀ (t : State) (a v k : Nat), (t.setDx a v).rd k = t.rd k := fun _ _ _ _ => rfl
  rw [loadWords, hdx, State.rd_wr_ne _ _ (by decide), State.rd_wr_self]

theorem mbx_loadWords (s : State) (fw proto : Nat) : (loadWords s fw proto).mbx = s.mbx := rfl

/-- What a loaded image that verifies leaves before firmware runs. -/
def loadGood (s : State) (fw proto : Nat) : State :=
  ((loadWords (s.setFld R.MBX.LOAD_STAT.DONE 1) fw proto).setFlds
      [(R.MBX.BOOT_INFO.TRIAL, 0), (R.MBX.BOOT_INFO.SOURCE, if s.mbx.loadCtl then 3 else 2)]).setMbx fun m =>
        { m with hostImg := true, verified := true }

theorem loadVerify_ready (hl : s.mbx.loadLast = true) (hb : s.flag R.MBX.LOAD_STAT.BUSY = false) (hn : s.mbx.loadLen ≠ 0)
    (hs : loaderServes s = true) : ¬((!s.mbx.loadLast) = true ∨ s.flag R.MBX.LOAD_STAT.BUSY = true ∨ s.mbx.loadLen = 0 ∨
      (!loaderServes s) = true) := by
  rw [hl, hb, hs]
  simp [hn]

theorem loadVerifyDone_bad {sec : Option Nat} {fw proto : Nat} (hl : s.mbx.loadLast = true) (hb : s.flag R.MBX.LOAD_STAT.BUSY = false)
    (hn : s.mbx.loadLen ≠ 0) (hs : loaderServes s = true) (hv : imageVerifies s (s.fld R.MBX.LOAD_STAT.TOTAL) sec = false) :
    Goes (.loadVerifyDone sec fw proto) s fun t =>
      t = { s with rf := t.rf, mbx := { s.mbx with loadLast := false, loadLen := 0, load := [] } } ∧
        t.fld R.MBX.LOAD_STAT.BAD_SIG = 1 ∧ t.fld R.MBX.LOAD_STAT.TOTAL = 0 := by
  have hrun : exec (.loadVerifyDone sec fw proto) s = .next (((loadSeen s).setFlds [(R.MBX.LOAD_STAT.BAD_SIG, 1),
      (R.MBX.LOAD_STAT.TOTAL, 0)]).setMbx fun m => { m with load := [] }) := by
    refine (if_neg (loadVerify_ready hl hb hn hs)).trans (if_pos ?_)
    show (!imageVerifies s (s.fld R.MBX.LOAD_STAT.TOTAL) sec) = true
    rw [hv]
    rfl
  have hsig : ((loadSeen s).setFlds [(R.MBX.LOAD_STAT.BAD_SIG, 1), (R.MBX.LOAD_STAT.TOTAL, 0)]).fld R.MBX.LOAD_STAT.BAD_SIG = 1 :=
    State.fld_setFlds _ 0 rfl rfl rfl (by decide)
  have htot : ((loadSeen s).setFlds [(R.MBX.LOAD_STAT.BAD_SIG, 1), (R.MBX.LOAD_STAT.TOTAL, 0)]).fld R.MBX.LOAD_STAT.TOTAL = 0 :=
    State.fld_setFlds _ 1 rfl rfl rfl (by decide)
  exact ⟨_, hrun, rfl, hsig, htot⟩

theorem loadGood_leaves (s : State) (fw proto : Nat) : (loadGood s fw proto).fld R.MBX.LOAD_STAT.DONE = 1 ∧
    (loadGood s fw proto).phase = s.phase ∧
    (loadGood s fw proto).mbx = { s.mbx with hostImg := true, verified := true } ∧
    (loadGood s fw proto).fld R.MBX.BOOT_INFO.SOURCE = (if s.mbx.loadCtl then 3 else 2) ∧
    (loadGood s fw proto).rd R.COLO.FW.reg = BitVec.ofNat 32 (fw % 2 ^ 24) := by
  have hdone : (loadWords (s.setFld R.MBX.LOAD_STAT.DONE 1) fw proto).fld R.MBX.LOAD_STAT.DONE = 1 := by
    rw [fld_loadWords _ _ _ (by decide) (by decide)]
    exact State.fld_setFld_mod s R.MBX.LOAD_STAT.DONE 1 rfl
  have hphase : (loadWords (s.setFld R.MBX.LOAD_STAT.DONE 1) fw proto).fld R.SYS.PHASE.PHASE_F = s.phase := by
    rw [fld_loadWords _ _ _ (by decide) (by decide)]
    exact State.fld_setFld_ne s _ (by decide)
  have hcolo := rd_loadWords (s.setFld R.MBX.LOAD_STAT.DONE 1) fw proto
  have hmbx : (loadWords (s.setFld R.MBX.LOAD_STAT.DONE 1) fw proto).mbx = s.mbx := mbx_loadWords ..
  have hsrc : (if s.mbx.loadCtl then 3 else 2) < 2 ^ 2 := by split <;> decide
  unfold loadGood
  generalize loadWords (s.setFld R.MBX.LOAD_STAT.DONE 1) fw proto = u at *
  refine ⟨?_, ?_, ?_, ?_, ?_⟩
  · rw [State.fld_setMbx, State.fld_setFlds_apart u rfl, hdone]
  · rw [State.phase, State.fld_setMbx, State.fld_setFlds_apart u rfl]
    exact hphase
  · rw [State.setFlds_frame, ← hmbx]
    rfl
  · rw [State.fld_setMbx]
    exact State.fld_setFlds u 1 rfl rfl rfl hsrc
  · refine Eq.trans ?_ hcolo
    exact (touches_setMbx _ (touches_setFlds (l := [R.MBX.BOOT_INFO.TRIAL, R.MBX.BOOT_INFO.SOURCE]) (by simp) (.refl _ u))).rd (by decide)

theorem loadVerifyDone_good {sec : Option Nat} {fw proto : Nat} (hl : s.mbx.loadLast = true) (hb : s.flag R.MBX.LOAD_STAT.BUSY = false)
    (hn : s.mbx.loadLen ≠ 0) (hs : loaderServes s = true) (hv : imageVerifies s (s.fld R.MBX.LOAD_STAT.TOTAL) sec = true)
    (hph : s.phase = 0) : Goes (.loadVerifyDone sec fw proto) s fun t => t.fld R.MBX.LOAD_STAT.DONE = 1 ∧
      t.mbx.verified = true ∧ t.mbx.hostImg = true ∧ t.fld R.MBX.BOOT_INFO.SOURCE = (if s.mbx.loadCtl then 3 else 2) ∧
      t.rd R.COLO.FW.reg = BitVec.ofNat 32 (fw % 2 ^ 24) := by
  obtain ⟨hdone, hphase, hmbx, hsrc, hcolo⟩ := loadGood_leaves (loadSeen s) fw proto
  have hrun : exec (.loadVerifyDone sec fw proto) s = .next (loadGood (loadSeen s) fw proto) := by
    refine (if_neg (loadVerify_ready hl hb hn hs)).trans ((if_neg ?_).trans (if_neg ?_))
    · show ¬(!imageVerifies s (s.fld R.MBX.LOAD_STAT.TOTAL) sec) = true
      rw [hv]
      decide
    · show ¬(loadGood (loadSeen s) fw proto).phase = 3
      rw [hphase]
      show ¬s.phase = 3
      rw [hph]
      decide
  refine ⟨_, hrun, hdone, ?_, ?_, hsrc, hcolo⟩
  · rw [hmbx]
  · rw [hmbx]

end

/-- Settles O25. -/
theorem watchdogAndLoaderSteps : Obligations.WatchdogAndLoaderSteps := by
  unfold Obligations.WatchdogAndLoaderSteps
  exact fun s => ⟨fun k => ⟨_, rfl, rfl⟩, fun c => wdogExpiry_restarts, fun c => wdogExpiry_recovers c, fwRestartDone_serves,
    fwRestartDone_recovers, fun init len last => loadChunkGo_goes, loadChunkTaken_goes,
    fun sec fw proto hl hb hn hs => ⟨loadVerifyDone_bad hl hb hn hs, loadVerifyDone_good hl hb hn hs⟩⟩

end Sys2Proof.Machine
end

section
/-! Firmware commands (R209 to R213): what the common runner does with a command that is ready, by what its body
answers. -/

namespace Sys2Proof.Machine

section Runner
variable {s : State} {ch tag op : Nat} {c : Cmd} {lenOk : Nat → Bool} {locked : State → List Byte → Bool}
  {body : State → List Byte → CmdOut}

/-- The length that RT.SET's count fixes (R222); every other command's is judged by its table alone. -/
def LenFits (op : Nat) (c : Cmd) : Prop := op = 0x0700 → c.len = 16 + 8 * u16 c.payload 0

theorem lenFits_of_ne (h : op ≠ 0x0700) : LenFits op c := fun he => absurd he h

/-- Of a ready command the checks 1 to 6 leave the sixth. -/
theorem checkCmd_ready (h : CmdReady s ch tag c op) (hlen : lenOk c.len = true) (hx : LenFits op c) :
    checkCmd s c lenOk locked = if locked s c.payload then stLocked else 0 := by
  obtain ⟨-, rfl, -, -, known, room, header, healthy, gen, -, -⟩ := h
  have hgen : (nbit c.flags 0 && c.gen != liveGen s) = false := by
    cases hb : nbit c.flags 0
    · rfl
    · rw [gen hb]; simp
  have hlen' : ¬ (!lenOk c.len ∨ (if c.chan = 2 then (if nbit c.flags 1 then 65535 else 48) else 240) < c.len ∨
      (c.opcode = 0x0700 ∧ c.len ≠ 16 + 8 * u16 c.payload 0)) := by
    rintro (hn | hn | ⟨ho, hn⟩)
    · simp [hlen] at hn
    · omega
    · exact hn (hx ho)
  unfold checkCmd
  dsimp only
  rw [if_neg (by simp [known]), if_neg hlen', if_neg (by simp [header]), if_neg (by simp [healthy]),
    if_neg (by simp [hgen])]

/-- A ready command is not held back by another G command, and firmware serves. -/
theorem CmdReady.runs (h : CmdReady s ch tag c op) : ¬ (c.opcode ≠ op ∨ !serving s ∨ (isG op && gBusy s c)) := by
  rintro (hn | hn | hn)
  · exact hn h.code
  · simp [h.serves] at hn
  · rw [Bool.and_eq_true] at hn
    simp [h.turn hn.1] at hn

theorem CmdReady.judged (h : CmdReady s ch tag c op) (b : CmdOut) : judged s op b = b :=
  if_neg (by rw [h.unheld]; simp)

theorem CmdReady.noWait (h : CmdReady s ch tag c op) : editWaits s op ch tag = false := by
  unfold editWaits
  cases hg : isG op
  · rfl
  · rw [h.alone hg]; simp

/-- Check 6 refuses a command that would change what is locked. -/
theorem runCmd_locked (h : CmdReady s ch tag c op) (hlen : lenOk c.len = true) (hx : LenFits op c)
    (hl : locked s c.payload = true) :
    runCmd op lenOk locked body ch tag s = .next (endCmd s ch tag stLocked []) := by
  unfold runCmd
  rw [h.taken]
  dsimp only
  rw [if_neg h.runs, checkCmd_ready h hlen hx, if_pos hl, if_pos (by decide)]

/-- A ready command that nothing locks does what its body answers. -/
theorem runCmd_ready (h : CmdReady s ch tag c op) (hlen : lenOk c.len = true) (hx : LenFits op c)
    (hl : locked s c.payload = false) : runCmd op lenOk locked body ch tag s =
      .next (endCmd (if (settle s op ch (body s c.payload)).1 = stOk then follow s (settle s op ch (body s c.payload)).2.2
        else s) ch tag (settle s op ch (body s c.payload)).1 (settle s op ch (body s c.payload)).2.1) := by
  have hst : checkCmd s c lenOk locked = 0 := by rw [checkCmd_ready h hlen hx, if_neg (by simp [hl])]
  have hw : ¬ ((body s c.payload).1 = stOk ∧ editWaits s op ch tag = true) := by rw [h.noWait]; simp
  unfold runCmd
  rw [h.taken]
  dsimp only
  rw [if_neg h.runs, hst, if_neg (by decide), h.judged, if_neg hw]

/-- A body that answers OK, of a command not marked G. -/
theorem runCmd_ends (h : CmdReady s ch tag c op) (hlen : lenOk c.len = true) (hl : locked s c.payload = false) {d u}
    (hb : body s c.payload = (stOk, d, u)) (hop : isG op = false ∧ op ≠ 0x0700) :
    runCmd op lenOk locked body ch tag s = .next (endCmd (follow s u) ch tag stOk d) := by
  have hs : settle s op ch (body s c.payload) = (stOk, d, u) := by
    rw [hb]
    exact if_neg (by rw [hop.1]; simp)
  rw [runCmd_ready h hlen (lenFits_of_ne hop.2) hl, hs, if_pos rfl]

/-- A body that answers OK, of a command marked G. -/
theorem runCmd_endsG (h : CmdReady s ch tag c op) (hlen : lenOk c.len = true) (hl : locked s c.payload = false) {d u}
    (hb : body s c.payload = (stOk, d, u)) (hop : isG op = true ∧ op ≠ 0x0700) :
    runCmd op lenOk locked body ch tag s = .next (endCmd (follow s (finishGen (recordWork s u) op ch)) ch tag stOk d) := by
  have hs : settle s op ch (body s c.payload) = (stOk, d, finishGen (recordWork s u) op ch) := by
    rw [hb]
    exact if_pos ⟨rfl, hop.1⟩
  rw [runCmd_ready h hlen (lenFits_of_ne hop.2) hl, hs, if_pos rfl]

/-- A query: the body leaves the state as it was. -/
theorem runCmd_answers (h : CmdReady s ch tag c op) (hlen : lenOk c.len = true) (hl : locked s c.payload = false) {d}
    (hb : body s c.payload = (stOk, d, s)) (hop : isG op = false ∧ op ≠ 0x0700) :
    runCmd op lenOk locked body ch tag s = .next (endCmd s ch tag stOk d) := by
  rw [runCmd_ends h hlen hl hb hop, follow_of_rf rfl]

/-- A body that refuses. -/
theorem runCmd_refuses (h : CmdReady s ch tag c op) (hlen : lenOk c.len = true) (hl : locked s c.payload = false) {st d u}
    (hb : body s c.payload = (st, d, u)) (hst : st ≠ stOk) (hx : LenFits op c) :
    runCmd op lenOk locked body ch tag s = .next (endCmd s ch tag st d) := by
  have hs : settle s op ch (body s c.payload) = (st, d, u) := by
    rw [hb]
    exact if_neg fun h => hst h.1
  rw [runCmd_ready h hlen hx hl, hs, if_neg hst]

/-- A command marked A whose body passes answers ACCEPTED. -/
theorem runAccepted_accepts (h : CmdReady s ch tag c op) (hlen : lenOk c.len = true) (hl : locked s c.payload = false) {d u}
    (hb : body s c.payload = (stOk, d, u)) (hx : LenFits op c) :
    runAccepted op lenOk locked body ch tag s = .next (follow s (acceptCmd u ch tag)) := by
  have hst : checkCmd s c lenOk locked = 0 := by rw [checkCmd_ready h hlen hx, if_neg (by simp [hl])]
  have hw : ¬ (stOk = stOk ∧ editWaits s op ch tag = true) := by rw [h.noWait]; simp
  unfold runAccepted
  rw [h.taken]
  dsimp only
  rw [if_neg h.runs, hst, if_neg (by decide), h.judged, hb, if_neg hw, if_pos rfl]

end Runner

/-! ### Queries -/

theorem frmRead_answers {s : State} {ch tag : Nat} {c : Cmd} (b : List Byte) (h : CmdReady s ch tag c 0x0301) (hlen : c.len = 10)
    (hres : reservedZero c.payload [0, 4, 5, 6, 7, 8, 9] = true) (hsrc : ¬ 1 < u8 c.payload 0)
    (hb : (if u8 c.payload 0 = 0 then s.fw.work.image else s.fw.staging) = b)
    (hfit : u32 c.payload 4 + u16 c.payload 8 ≤ b.length) :
    execFrmRead ch tag s = .next (endCmd s ch tag stOk ((b.drop (u32 c.payload 4)).take (u16 c.payload 8))) := by
  refine runCmd_answers h (by simp [hlen]) rfl ?_ (by decide)
  unfold frmReadBody
  rw [if_neg (by simp [hres, hsrc]), hb]
  exact if_neg (Nat.not_lt.mpr hfit)

/-- What the table of commands gives a query that DX may lock: its opcode, its length and the condition. -/
theorem query_locked {s : State} {ch tag : Nat} {c : Cmd} {x : Instr × Nat × Nat × Bool}
    (hx : x ∈ [(Instr.tdmStatus ch tag, 0x0603, 1, dxPort s (u8 c.payload 0)), (.rxfStatus ch tag, 0x0903, 1, dxFlow s (u8 c.payload 0)),
        (.txfStatus ch tag, 0x0A02, 1, dxFlow s (u8 c.payload 0)), (.redStatus ch tag, 0x0C00, 1, dxFlow s (u8 c.payload 0)),
        (.sdpExport ch tag, 0x0B01, 1, dxFlow s (u8 c.payload 0)),
        (.rtGet ch tag, 0x0701, 4, coDx s && (span (u16 c.payload 0) (u16 c.payload 2)).any dxDest),
        (.grdStatus ch tag, 0x0F01, 2, u8 c.payload 0 == 0 && dxPort s (u8 c.payload 1)),
        (.diagCounters ch tag, 0x1001, 8, dxBlocks s c.payload)])
    (h : CmdReady s ch tag c x.2.1) (hlen : c.len = x.2.2.1) (hl : x.2.2.2 = true) :
    exec x.1 s = .next (endCmd s ch tag stLocked []) := by
  simp only [List.mem_cons, List.not_mem_nil, or_false] at hx
  have lenOk : (· == x.2.2.1) c.len = true := by simp [hlen]
  have fits : LenFits x.2.1 c := lenFits_of_ne (by
    rcases hx with rfl | rfl | rfl | rfl | rfl | rfl | rfl | rfl <;> exact Nat.ne_of_beq_eq_false rfl)
  rcases hx with rfl | rfl | rfl | rfl | rfl | rfl | rfl | rfl
  · show execTdmStatus ch tag s = _; exact runCmd_locked h lenOk fits hl
  · show execRxfStatus ch tag s = _; exact runCmd_locked h lenOk fits hl
  · show execTxfStatus ch tag s = _; exact runCmd_locked h lenOk fits hl
  · show execRedStatus ch tag s = _; exact runCmd_locked h lenOk fits hl
  · show execSdpExport ch tag s = _; exact runCmd_locked h lenOk fits hl
  · show execRtGet ch tag s = _; exact runCmd_locked h lenOk fits hl
  · show execGrdStatus ch tag s = _; exact runCmd_locked h lenOk fits hl
  · show execDiagCounters ch tag s = _; exact runCmd_locked h lenOk fits hl

/-- Settles O26. -/
theorem firmwareQueriesAnswer : Obligations.FirmwareQueriesAnswer := by
  intro s ch tag c
  refine ⟨?_, ?_, ?_, ?_, ?_, ?_, ?_, ?_, ?_, ?_, ?_, ?_, ?_, ?_, ?_, ?_, ?_, ?_, ?_⟩
  · intro h hlen
    show execSysInfo ch tag s = _
    exact runCmd_answers h (by simp [hlen]) rfl rfl (by decide)
  · intro h hlen
    show execPwrStatus ch tag s = _
    exact runCmd_answers h (by simp [hlen]) rfl rfl (by decide)
  · intro h hlen
    show execFrmInfo ch tag s = _
    exact runCmd_answers h (by simp [hlen]) rfl rfl (by decide)
  · intro h hlen hres hsrc hfit
    exact frmRead_answers _ h hlen hres (by omega) (if_pos hsrc) hfit
  · intro h hlen hres hsrc hfit
    exact frmRead_answers _ h hlen hres (by omega) (if_neg (by omega)) hfit
  · intro n h hlen hn hlt
    subst hn
    show execClkMcsStatus ch tag s = _
    exact runCmd_answers h (by simp [hlen]) rfl (if_neg (by omega)) (by decide)
  · intro n h hlen hn hlt
    subst hn
    show execPtpStatus ch tag s = _
    exact runCmd_answers h (by simp [hlen]) rfl (if_neg (by omega)) (by decide)
  · intro k h hlen hn hlt hdx
    subst hn
    show execTdmStatus ch tag s = _
    exact runCmd_answers h (by simp [hlen]) hdx (if_neg (by omega)) (by decide)
  · intro a n h hlen ha hn hfit hdx
    subst ha hn
    show execRtGet ch tag s = _
    exact runCmd_answers h (by simp [hlen]) hdx (if_neg (by omega)) (by decide)
  · intro n h hlen hn
    subst hn
    show execKrnStatus ch tag s = _
    exact runCmd_answers h (by simp [hlen]) rfl rfl (by decide)
  · intro f h hlen hn hdx
    subst hn
    show execRxfStatus ch tag s = _
    exact runCmd_answers h (by simp [hlen]) hdx rfl (by decide)
  · intro f h hlen hn hdx
    subst hn
    show execTxfStatus ch tag s = _
    exact runCmd_answers h (by simp [hlen]) hdx rfl (by decide)
  · intro f h hlen hn hdx
    subst hn
    show execRedStatus ch tag s = _
    exact runCmd_answers h (by simp [hlen]) hdx rfl (by decide)
  · intro n h hlen hn hpos hlt
    subst hn
    show execTwinHealth ch tag s = _
    refine runCmd_answers h (by simp [hlen]) rfl ?_ (by decide)
    unfold twinHealthBody
    rw [if_neg (by omega), if_neg (by omega)]
  · intro i h hlen hcls hn hlt hdx
    subst hn
    show execGrdStatus ch tag s = _
    exact runCmd_answers h (by simp [hlen]) (by simp [hcls, hdx]) (if_pos ⟨hcls, hlt⟩) (by decide)
  · intro b h hlen hlow hhigh hb hdx
    show execDiagCounters ch tag s = _
    refine runCmd_answers h (by simp [hlen]) hdx ?_ (by decide)
    unfold countersBody
    rw [if_neg (by omega), hb]
    simp
  · intro h hlen
    show execDxStatus ch tag s = _
    exact runCmd_answers h (by simp [hlen]) rfl rfl (by decide)
  · intro a n h hlen ha hn hres hpos hlt
    subst ha hn
    show execDxRead ch tag s = _
    exact runCmd_answers h (by simp [hlen]) rfl (if_neg (by omega)) (by decide)
  · exact fun x hx h hlen hl => query_locked hx h hlen hl

end Sys2Proof.Machine
end

section
/-! Queries with free values, the event commands, and the commands SYS and PWR (R182, R183, R194, R198, R201, R214, R215,
R225, R226). -/

namespace Sys2Proof.Machine

/-! ### Bits of numbers -/

/-- Bit `i` taken from a number that has it leaves the others. -/
theorem testBit_sub_two_pow {n i j : Nat} (h : n.testBit i = true) (hj : j ≠ i) : (n - 2 ^ i).testBit j = n.testBit j := by
  obtain ⟨q, hq⟩ : ∃ q, n / 2 ^ i = 2 * q + 1 := by
    rw [Nat.testBit_eq_decide_div_mod_eq, decide_eq_true_eq] at h
    exact ⟨n / 2 ^ i / 2, by omega⟩
  have hr : n % 2 ^ i < 2 ^ i := Nat.mod_lt _ (Nat.two_pow_pos i)
  have hn : n = 2 ^ i * (2 * q + 1) + n % 2 ^ i := by rw [← hq]; exact (Nat.div_add_mod n (2 ^ i)).symm
  have hsub : n - 2 ^ i = 2 ^ i * (2 * q) + n % 2 ^ i := by rw [Nat.mul_add, Nat.mul_one] at hn; omega
  rw [hsub]
  conv_rhs => rw [hn]
  rw [Nat.testBit_two_pow_mul_add _ hr, Nat.testBit_two_pow_mul_add _ hr]
  split
  · rfl
  · next hge =>
    obtain ⟨m, hm⟩ : ∃ m, j - i = m + 1 := ⟨j - i - 1, by omega⟩
    rw [hm, Nat.testBit_add_one, Nat.testBit_add_one]
    congr 1
    omega

theorem nbit_setBit_ne (n : Nat) {i j : Nat} (b : Bool) (h : j ≠ i) : nbit (setBit n i b) j = nbit n j := by
  unfold setBit nbit
  rw [Nat.one_shiftLeft]
  cases b
  · rw [if_neg Bool.false_ne_true]
    split
    · next hi => exact testBit_sub_two_pow hi h
    · rfl
  · rw [if_pos rfl, Nat.testBit_or, Nat.testBit_two_pow_of_ne (Ne.symm h), Bool.or_false]

theorem nbit_mod {n w k : Nat} (h : k < w) : nbit (n % 2 ^ w) k = nbit n k := by
  rw [nbit, Nat.testBit_mod_two_pow, decide_eq_true h, Bool.true_and]
  rfl

theorem nbit_setBit (n i : Nat) (b : Bool) : nbit (setBit n i b) i = b := by
  cases b
  · exact nbit_setBit_false n i
  · exact nbit_setBit_self n i

/-- A field of a register in which one bit is set or cleared. -/
theorem nbit_fld_setBit (s : State) (f : Fld) {i : Nat} (b : Bool) (hf : (f.lo + f.w).ble 32 = true) (j : Nat) (hj : j < f.w) :
    nbit ((s.setFld f (setBit (s.fld f) i b)).fld f) j = if j = i then b else nbit (s.fld f) j := by
  rw [State.fld_setFld_mod s f _ hf, nbit_mod hj]
  split
  · next h => rw [h, nbit_setBit]
  · next h => rw [nbit_setBit_ne _ _ h]

section
variable {s : State} {ch tag : Nat} {c : Cmd}

/-! ### Queries that draw free values (R224 to R226) -/

theorem stkStatus_ends (h : CmdReady s ch tag c 0x0D00) (hlen : c.len = 0) : EndsOk (.stkStatus ch tag) s ch tag fun u d =>
    u = { s with freeCtr := s.freeCtr + 8 } ∧ d.take 5 = [byteOf (stkPos s), byteOf (s.fld R.STK.ID.ROLE),
      byteOf (s.fld R.STK.MEMBERS.JOINED), byteOf (s.fld R.STK.MEMBERS.QUAR), byteOf (b2n s.stk.ring)] := by
  have hrun : execStkStatus ch tag s = .next (endCmd (follow s { s with freeCtr := s.freeCtr + 8 }) ch tag stOk _) :=
    runCmd_ends h (by simp [hlen]) rfl rfl (by decide)
  exact ⟨_, _, hrun, rfl, rfl⟩

theorem logByte_of_some {off i : Nat} {b : Byte} (h : s.flash.log[off + i]? = some b) : logByte s off i = b := by
  rw [logByte, h]

theorem diagLog_ends (h : CmdReady s ch tag c 0x1004) (hlen : c.len = 6) (hfit : u32 c.payload 0 + u16 c.payload 4 ≤ 0x2C0000) :
    EndsOk (.diagLog ch tag) s ch tag fun u d => u = { s with freeCtr := s.freeCtr + u16 c.payload 4 } ∧
      d.length = u16 c.payload 4 ∧ ∀ i b, i < u16 c.payload 4 → s.flash.log[u32 c.payload 0 + i]? = some b → d[i]? = some b := by
  refine ⟨_, (List.range (u16 c.payload 4)).map (logByte s (u32 c.payload 0)), ?_, rfl, ?_, ?_⟩
  · show execDiagLog ch tag s = _
    exact runCmd_ends h (by simp [hlen]) rfl (if_neg (Nat.not_lt.mpr hfit)) (by decide)
  · rw [List.length_map, List.length_range]
  · intro i b hi hb
    rw [List.getElem?_map, List.getElem?_range hi, Option.map_some, logByte_of_some hb]

theorem sdpExport_ends {f : Nat} (h : CmdReady s ch tag c 0x0B01) (hlen : c.len = 1) (hf : u8 c.payload 0 = f)
    (hdx : dxFlow s f = false) (hst : s.fld (R.TXF.F_STAT.STATE f) ≠ 0) (hav : s.flag (R.TXF.F_CFG.AVTP f) = false) :
    EndsOk (.sdpExport ch tag) s ch tag fun u d => u = { s with freeCtr := s.freeCtr + 3 } ∧ d = sdpText s f := by
  subst hf
  refine ⟨_, _, ?_, rfl, rfl⟩
  show execSdpExport ch tag s = _
  refine runCmd_ends h (by simp [hlen]) hdx ?_ (by decide)
  dsimp only
  rw [if_neg hst, if_neg (by rw [hav]; exact Bool.false_ne_true)]

/-! ### Events (R194, R198, R226) -/

theorem forget_frame (u : State) (ch tag : Nat) (late : Bool) :
    forget u ch tag late = { u with mbx := { u.mbx with cmds := (forget u ch tag late).mbx.cmds } } := rfl

/-- Forgetting the commands whose final events were fetched touches nothing but their records. -/
theorem forgetAll_frame (ch : Nat) (l : List Msg) (u : State) :
    l.foldl (fun s m => if m.tag = 0 then s else forget s ch m.tag true) u =
      { u with mbx := { u.mbx with cmds := (l.foldl (fun s m => if m.tag = 0 then s else forget s ch m.tag true) u).mbx.cmds } } := by
  induction l generalizing u with
  | nil => rfl
  | cons m l ih =>
    rw [List.foldl_cons]
    split
    · exact ih u
    · rw [ih, forget_frame]

theorem length_leBytes (n v : Nat) : (leBytes n v).length = n := by
  induction n generalizing v with
  | zero => rfl
  | succ n ih => exact congrArg (· + 1) (ih _)

theorem length_ringEntry {m : Msg} {t p : Bool} {n : Nat} {d : List Byte} (h : d.length ≤ 48) :
    (ringEntry m t p n d).length = 64 := by
  have hh : (msgHeader m t p n).length = 16 := by simp [msgHeader, length_leBytes]
  unfold ringEntry
  dsimp only
  rw [List.length_append, List.length_replicate, List.length_append, hh]
  omega

/-- What a fetch of `n` events leaves, before the overflow that may follow. -/
def fetched (s : State) (ch n : Nat) : State :=
  ((s.evtq ch).queue.take n).foldl (fun s m => if m.tag = 0 then s else forget s ch m.tag true)
    (s.setEvtq ch { s.evtq ch with queue := (s.evtq ch).queue.drop n })

theorem fetched_frame (s : State) (ch n : Nat) : fetched s ch n =
    { s.setEvtq ch { s.evtq ch with queue := (s.evtq ch).queue.drop n } with
      mbx := { (s.setEvtq ch { s.evtq ch with queue := (s.evtq ch).queue.drop n }).mbx with cmds := (fetched s ch n).mbx.cmds } } :=
  forgetAll_frame ch _ _

theorem evtq_fetched {n : Nat} (hch : ch < s.mbx.evts.length) :
    (fetched s ch n).evtq ch = { s.evtq ch with queue := (s.evtq ch).queue.drop n } := by
  rw [fetched_frame]
  exact evtq_setEvtq_self _ hch

theorem queueOverflow_none {u : State} (h : (u.evtq ch).lost = 0) : queueOverflow u ch = u :=
  if_neg fun hn => hn.1 h

theorem length_flatMap_const {α : Type} (f : α → List Byte) (k : Nat) (h : ∀ x, (f x).length = k) (l : List α) :
    (l.flatMap f).length = k * l.length := by
  induction l with
  | nil => rfl
  | cons x l ih => rw [List.flatMap_cons, List.length_append, h, ih, List.length_cons, Nat.mul_add, Nat.mul_one, Nat.add_comm]

theorem evtFetch_ends {n : Nat} (h : CmdReady s ch tag c 0x1100) (hlen : c.len = 1) (hn : u8 c.payload 0 = n) (hpos : 1 ≤ n) (hle : n ≤ 3)
    (hch : ch < 2) (hlost : (s.evtq ch).lost = 0) (hev : ch < s.mbx.evts.length) : EndsOk (.evtFetch ch tag) s ch tag fun u d =>
      (u.evtq ch).queue = (s.evtq ch).queue.drop n ∧ u.out = s.out ∧ Touches [R.MBX.STAT.EVT_PENDING] s u ∧
        d.length = 4 + 64 * ((s.evtq ch).queue.take n).length := by
  subst hn
  have hbody : ∃ d, evtFetchBody ch s c.payload = (stOk, d, fetched s ch (u8 c.payload 0)) ∧
      d.length = 4 + 64 * ((s.evtq ch).queue.take (u8 c.payload 0)).length := by
    have hq : queueOverflow (fetched s ch (u8 c.payload 0)) ch = fetched s ch (u8 c.payload 0) :=
      queueOverflow_none (by rw [evtq_fetched hev]; exact hlost)
    unfold evtFetchBody
    dsimp only
    rw [if_neg (by omega), if_neg (by omega)]
    unfold fetched at hq
    rw [hq]
    refine ⟨_, rfl, ?_⟩
    rw [List.length_append, length_flatMap_const _ 64 fun m => length_ringEntry (by rw [List.length_take]; omega)]
    rfl
  obtain ⟨d, hbody, hd⟩ := hbody
  have hrun : execEvtFetch ch tag s = .next (endCmd (follow s (fetched s ch (u8 c.payload 0))) ch tag stOk d) :=
    runCmd_ends h (by simp [hlen]) rfl hbody (by decide)
  refine ⟨_, _, hrun, ?_, ?_, ?_, hd⟩
  · rw [evtq_fetched hev]
  · rw [fetched_frame]
    rfl
  · rw [fetched_frame]
    exact (touches_setFlag (by simp) (.of_rf _ rfl)).trans (.of_rf _ rfl)

theorem evtMask_ends (h : CmdReady s ch tag c 0x1101) (hlen : c.len = 2) (hev : ch < s.mbx.evts.length) :
    EndsOk (.evtMask ch tag) s ch tag fun u d => d = leBytes 2 (evtEnabled s ch) ∧ (u.evtq ch).queue = (s.evtq ch).queue ∧
        ∀ k, 1 ≤ k → k < 16 → ((u.evtq ch).masked.contains (0xE000 + 16 * k) = !nbit (u16 c.payload 0) k) := by
  have hrun : execEvtMask ch tag s = .next _ := runCmd_ends h (by simp [hlen]) rfl rfl (by decide)
  refine ⟨_, _, hrun, rfl, ?_, ?_⟩
  · rw [evtq_setEvtq_self _ hev]
  · intro k hk hlt
    rw [evtq_setEvtq_self _ hev, Bool.eq_iff_iff]
    simp only [List.contains_iff_mem, List.mem_map, List.mem_filter, List.mem_range, Bool.and_eq_true, bne_iff_ne]
    constructor
    · rintro ⟨k', ⟨-, -, hb⟩, he⟩
      rwa [show k = k' by omega]
    · exact fun hb => ⟨k, ⟨hlt, by omega, hb⟩, rfl⟩

end

/-- Settles O27. -/
theorem statusLogAndEventCommands : Obligations.StatusLogAndEventCommands := fun _ _ _ _ =>
  ⟨stkStatus_ends, diagLog_ends, fun _ => sdpExport_ends, fun _ => evtFetch_ends, evtMask_ends⟩

end Sys2Proof.Machine
end

section
/-! The commands SYS and PWR that change the device (R182, R183, R201, R214, R215). -/

namespace Sys2Proof.Machine

/-! ### Ownership (R182) -/

/-- The ownership registers. -/
def ownFlds : List Fld := [R.REGIF.HOST_OWN0.OWN, R.REGIF.HOST_OWN1.OWN]

theorem setOwn_frame (s : State) (h : Bool) (b : Nat) : setOwn s h b = { s with rf := (setOwn s h b).rf } := by
  unfold setOwn
  split <;> rfl

theorem touches_setOwn (s : State) (h : Bool) (b : Nat) : Touches ownFlds s (setOwn s h b) := by
  unfold setOwn
  split <;> exact touches_setFld (by simp [ownFlds]) (.refl _ s)

theorem hostOwns_setOwn (s : State) (h : Bool) {b b' : Nat} (hb : b < 48) (hb' : b' < 48) :
    hostOwns (setOwn s h b) b' = if b' = b then h else hostOwns s b' := by
  have h48 : b < 32 ∨ 32 ≤ b := Nat.lt_or_ge b 32
  have hw : R.REGIF.HOST_OWN0.OWN.w = 32 ∧ R.REGIF.HOST_OWN1.OWN.w = 32 := ⟨rfl, rfl⟩
  unfold setOwn hostOwns
  rcases h48 with hl | hg
  · rw [if_pos hl]
    split
    · exact nbit_fld_setBit s _ h rfl b' (by omega)
    · rw [State.fld_setFld_ne _ _ (by decide), if_neg (by omega)]
  · rw [if_neg (Nat.not_lt.mpr hg)]
    split
    · rw [State.fld_setFld_ne _ _ (by decide), if_neg (by omega)]
    · rw [nbit_fld_setBit s _ h rfl (b' - 32) (by omega)]
      by_cases he : b' = b
      · rw [if_pos he, if_pos (by rw [he])]
      · rw [if_neg he, if_neg (by omega)]

theorem lt_of_namedBlocks {p : List Byte} {b : Nat} (h : namedBlocks p = [b]) : b < 48 := by
  have hm : b ∈ namedBlocks p := by rw [h]; exact List.mem_singleton_self b
  exact List.mem_range.1 (List.mem_filter.1 hm).1

section
variable {s : State} {ch tag : Nat} {c : Cmd}

theorem sysClaim_ends {b : Nat} (h : CmdReady s ch tag c 0x0101) (hlen : c.len = 8) (hl : claimLocked s c.payload = false)
    (hbad : claimBad c.payload = false) (hb : namedBlocks c.payload = [b]) (hown : hostOwns s b = false)
    (hph : s.phase = 1 ∨ s.phase = 2) : EndsOk (.sysClaim ch tag) s ch tag fun u d => u = { s with rf := u.rf } ∧
      hostOwns u b = true ∧ d = ownBytes u ∧ (∀ b', b' < 48 → b' ≠ b → hostOwns u b' = hostOwns s b') ∧
        Touches [R.REGIF.HOST_OWN0.OWN, R.REGIF.HOST_OWN1.OWN] s u := by
  have hb48 := lt_of_namedBlocks hb
  have hbody : sysClaimBody s c.payload = (stOk, ownBytes (setOwn s true b), setOwn s true b) := by
    unfold sysClaimBody
    rw [hbad, hb, if_neg (by simp [hown]), if_neg (by omega)]
    rfl
  have hrun : execSysClaim ch tag s = .next _ := runCmd_ends h (by simp [hlen]) hl hbody (by decide)
  refine ⟨_, _, hrun, setOwn_frame s true b, ?_, rfl, fun b' hb' hne => ?_, touches_setOwn s true b⟩
  · rw [hostOwns_setOwn s true hb48 hb48, if_pos rfl]
  · rw [hostOwns_setOwn s true hb48 hb', if_neg hne]

theorem recordBlock_frame (s : State) (b : Nat) : recordBlock s b = { s with fw := (recordBlock s b).fw } := rfl

theorem sysRelease_ends {b : Nat} (h : CmdReady s ch tag c 0x0102) (hlen : c.len = 8) (hbad : claimBad c.payload = false)
    (hb : namedBlocks c.payload = [b]) (hown : hostOwns s b = true) : EndsG (.sysRelease ch tag) s ch tag 0x0102 fun u d =>
      hostOwns u b = false ∧ d = ownBytes u ∧
        u = { s with rf := u.rf, fw := u.fw } ∧ Touches [R.REGIF.HOST_OWN0.OWN, R.REGIF.HOST_OWN1.OWN] s u := by
  have hb48 := lt_of_namedBlocks hb
  have hbody : sysReleaseBody s c.payload =
      (stOk, ownBytes (setOwn (recordBlock s b) false b), setOwn (recordBlock s b) false b) := by
    unfold sysReleaseBody
    rw [hbad, hb, if_neg (by simp [hown])]
    rfl
  have hrun : execSysRelease ch tag s = .next _ := runCmd_endsG h (by simp [hlen]) rfl hbody (by decide)
  refine ⟨_, _, hrun, ?_, rfl, ?_, ?_⟩
  · rw [hostOwns_setOwn _ false hb48 hb48, if_pos rfl]
  · rw [setOwn_frame, recordBlock_frame]
  · exact (Touches.of_rf ownFlds (t := recordBlock s b) rfl).trans (touches_setOwn _ false b)

/-! ### SYS.RESET and SYS.RECOVER (R204, R214) -/

theorem sysReset_ends (h : CmdReady s ch tag c 0x0103) (hlen : c.len = 8)
    (hres : reservedZero c.payload [0, 4, 5, 6, 7] = true) (hkey : u32 c.payload 4 = 0xA55A) :
    (u8 c.payload 0 = 0 → EndsOk (.sysReset ch tag) s ch tag fun u d =>
      u = { s with pwr := { s.pwr with resetDue := true } } ∧ d = []) ∧
    (u8 c.payload 0 = 1 → EndsOk (.sysReset ch tag) s ch tag fun u d => u = { s with
      rf := u.rf, mbx := { s.mbx with restart := 2, warn := false } } ∧ u.flag R.MBX.STAT.FW_READY = false ∧ d = []) := by
  have hok (hk : u8 c.payload 0 ≤ 1) :
      ¬ (!reservedZero c.payload [0, 4, 5, 6, 7] ∨ 1 < u8 c.payload 0 ∨ u32 c.payload 4 ≠ 0xA55A) := by
    rw [hres, hkey]
    simp [hk]
  refine ⟨fun hk => ?_, fun hk => ?_⟩
  · have hbody : sysResetBody s c.payload = (stOk, [], s.setPwr fun q => { q with resetDue := true }) :=
      (if_neg (hok (by omega))).trans (if_pos hk)
    have hrun : execSysReset ch tag s = .next _ := runCmd_ends h (by simp [hlen]) rfl hbody (by decide)
    exact ⟨_, _, hrun, rfl, rfl⟩
  · have hbody : sysResetBody s c.payload = (stOk, [], mcuRestart s 2) :=
      (if_neg (hok (by omega))).trans (if_neg (by omega))
    have hrun : execSysReset ch tag s = .next _ := runCmd_ends h (by simp [hlen]) rfl hbody (by decide)
    refine ⟨_, _, hrun, mcuRestart_frame rfl 2, ?_, rfl⟩
    exact State.flag_of_fld ((fld_mcuRestart s 2 _).trans (State.fld_setFld_mod s R.MBX.STAT.FW_READY 0 rfl))

theorem sysRecover_ends (h : CmdReady s ch tag c 0x0108) (hlen : c.len = 4) (hkey : u32 c.payload 0 = 0xA55A)
    (hph : s.phase ≠ 3) : EndsOk (.sysRecover ch tag) s ch tag fun u d => d = [] ∧ u = { s with rf := u.rf } ∧ u.phase = 3 ∧
        u.fld R.SYS.PHASE.REASON = 5 ∧ Touches [R.SYS.PHASE.PHASE_F, R.SYS.PHASE.REASON] s u := by
  have hbody : sysRecoverBody s c.payload = (stOk, [], s.enterRecovery 5) := by
    unfold sysRecoverBody
    rw [if_neg (by simp [hkey]), if_neg hph]
  have hrun : execSysRecover ch tag s = .next _ := runCmd_ends h (by simp [hlen]) rfl hbody (by decide)
  obtain ⟨hphase, hreason⟩ := enterRecovery_leaves s (r := 5) (by decide)
  exact ⟨_, _, hrun, rfl, State.setFlds_frame s _, hphase, hreason, touches_setFlds (by simp) (.refl _ s)⟩

/-! ### Firmware images (R201, R214) -/

theorem sysImageBegin_accepts (h : CmdReady s ch tag c 0x0104) (hlen : c.len = 4) (hsize : u32 c.payload 0 ≤ 786688)
    (htrial : s.flag R.MBX.BOOT_INFO.TRIAL = false) :
    Accepts (.sysImageBegin ch tag) s ch tag fun u => u = { s with fw := { s.fw with image := none } } := by
  have hbody : sysImageBeginBody s c.payload = (stOk, [], { s with fw := { s.fw with image := none } }) :=
    (if_neg (Nat.not_lt.mpr hsize)).trans (if_neg (by simp [htrial]))
  have hrun : execSysImageBegin ch tag s = .next _ := runAccepted_accepts h (by simp [hlen]) rfl hbody (lenFits_of_ne (by decide))
  exact ⟨_, hrun, rfl⟩

theorem sysImageWrite_ends {n : Nat} {b : List Byte} (h : CmdReady s ch tag c 0x0105) (hlo : 4 ≤ c.len) (hhi : c.len ≤ 4100)
    (himg : s.fw.image = some (n, b)) (hoff : u32 c.payload 0 = b.length)
    (hfit : b.length + (c.payload.drop 4).length ≤ imageSlot) : EndsOk (.sysImageWrite ch tag) s ch tag fun u d => d = [] ∧ u = { s with
        fw := { s.fw with image := some (n, b ++ c.payload.drop 4) }
        flash := { s.flash with images := modifyAt s.flash.images (idleImage s) fun _ => b ++ c.payload.drop 4 } } := by
  have hbody : sysImageWriteBody s c.payload = (stOk, [], { s with
        fw := { s.fw with image := some (n, b ++ c.payload.drop 4) }
        flash := { s.flash with images := modifyAt s.flash.images (idleImage s) fun _ => b ++ c.payload.drop 4 } }) := by
    unfold sysImageWriteBody
    rw [himg]
    exact if_neg (by rw [hoff]; omega)
  have hrun : execSysImageWrite ch tag s = .next _ := runCmd_ends h (by simp [hlo, hhi]) rfl hbody (by decide)
  exact ⟨_, _, hrun, rfl, rfl⟩

theorem sysImageEnd_accepts (h : CmdReady s ch tag c 0x0106) (hlen : c.len = 0) (himg : s.fw.image.isSome = true) :
    Accepts (.sysImageEnd ch tag) s ch tag fun u => u = s := by
  have hbody : sysImageEndBody s c.payload = (stOk, [], s) := if_neg (by rw [Option.isNone_eq_false_iff.2 himg]; exact Bool.false_ne_true)
  have hrun : execSysImageEnd ch tag s = .next _ := runAccepted_accepts h (by simp [hlen]) rfl hbody (lenFits_of_ne (by decide))
  exact ⟨_, hrun, rfl⟩

theorem sysCommit_accepts (h : CmdReady s ch tag c 0x0107) (hlen : c.len = 0) (hph : s.phase = 1)
    (htrial : s.flag R.MBX.BOOT_INFO.TRIAL = true) : Accepts (.sysCommit ch tag) s ch tag fun u => u = s := by
  have hbody : sysCommitBody s c.payload = (stOk, [], s) := if_neg (by simp [hph, htrial])
  have hrun : execSysCommit ch tag s = .next _ := runAccepted_accepts h (by simp [hlen]) rfl hbody (lenFits_of_ne (by decide))
  exact ⟨_, hrun, rfl⟩

/-! ### PWR (R215) -/

theorem pwrEnter_ends {t : Nat} {u : State} (h : CmdReady s ch tag c 0x0200) (hlen : c.len = 2) (ht : u8 c.payload 0 = t)
    (htt : t = 1 ∨ t = 3) (hwide : u8 c.payload 1 = 0) (hallow : entryAllowed s t false = true)
    (hx : t = 3 → s.flag R.PWR.STATE.XTAL_OK = true) (hch : ch = 1 → linkParked s = true)
    (hu : (if linkParked s then beginEntry s t else s.setPwr fun q => { q with pmeArmed := some t }) = u) :
    execPwrEnter ch tag s = .next (endCmd (follow s u) ch tag stOk []) := by
  have hbody : pwrEnterBody ch s c.payload = (stOk, [], u) := by
    unfold pwrEnterBody
    dsimp only
    rw [ht, hwide, if_neg (by omega), show ((0 == 1) : Bool) = false from rfl, hallow, if_neg, if_neg, ← hu]
    · split <;> rfl
    · rintro ⟨h1, h2⟩
      rw [hx (by omega)] at h2
      exact absurd h2 (by decide)
    · rintro (h1 | ⟨h1, h2⟩)
      · exact absurd h1 (by decide)
      · rw [hch h1] at h2
        exact absurd h2 (by decide)
  exact runCmd_ends h (by simp [hlen]) rfl hbody (by decide)

theorem pwrConfig_ends (h : CmdReady s ch tag c 0x0202) (hlen : c.len = 16) (hl : blockLocked s bPWR = false)
    (hok : (pwrImages c.payload).all (fun x => fwTakes s x.1 x.2) = true) :
    EndsG (.pwrConfig ch tag) s ch tag 0x0202 fun u d => d = [] ∧ u = fwWrites s (pwrImages c.payload) := by
  have hrun : execPwrConfig ch tag s = .next _ := runCmd_endsG h (by simp [hlen]) hl (if_pos hok) (by decide)
  exact ⟨_, _, hrun, rfl, rfl⟩

end

/-- Settles O28. -/
theorem sysAndPwrCommands : Obligations.SysAndPwrCommands := fun _ _ _ _ =>
  ⟨fun _ => sysClaim_ends, fun _ => sysRelease_ends, sysReset_ends, sysImageBegin_accepts, fun _ _ => sysImageWrite_ends,
    sysImageEnd_accepts, sysCommit_accepts, sysRecover_ends,
    fun h hlen ht hw ha hp => ⟨_, _, pwrEnter_ends h hlen ht (.inl rfl) hw ha (fun he => absurd he (by decide)) (fun _ => hp) (if_pos hp), rfl, rfl⟩,
    fun _ h hlen ht htt hw ha hx hp hch => ⟨_, _, pwrEnter_ends h hlen ht htt hw ha hx (fun he => absurd he hch)
      (if_neg (by rw [hp]; exact Bool.false_ne_true)), rfl, rfl⟩,
    pwrConfig_ends⟩

end Sys2Proof.Machine
end

section
/-! How commands end: their checks, the ends of accepted commands, and the generation (R196 to R198, R210 to R213). -/

namespace Sys2Proof.Machine

/-! ### The checks of a command in their order (R210) -/

section
variable {s : State} {ch tag : Nat} {c : Cmd}

/-- A failed check answers its status and nothing else. -/
theorem pwrConfig_checked (h : takenCmd s ch tag = some c) (hs : serving s = true) (hop : c.opcode = 0x0202)
    (hg : gBusy s c = false) {st : Nat} (hst : checkCmd s c (· == 16) (lockBlock bPWR) = st) (hne : st ≠ 0) :
    exec (.pwrConfig ch tag) s = .next (endCmd s ch tag st []) := by
  have hrun : ¬ (c.opcode ≠ 0x0202 ∨ !serving s ∨ (isG 0x0202 && gBusy s c)) := by simp [hop, hs, hg]
  show execPwrConfig ch tag s = _
  unfold execPwrConfig runCmd
  rw [h]
  dsimp only
  rw [if_neg hrun, hst, if_pos hne]

/-- A body that refuses, once the checks have passed. -/
theorem pwrConfig_judged (h : takenCmd s ch tag = some c) (hs : serving s = true) (hop : c.opcode = 0x0202)
    (hg : gBusy s c = false) (hst : checkCmd s c (· == 16) (lockBlock bPWR) = 0) {st : Nat}
    (hb : judged s 0x0202 (if (pwrImages c.payload).all (fun x => fwTakes s x.1 x.2) then
      (stOk, [], fwWrites s (pwrImages c.payload)) else refuse s stBadArg) = refuse s st) (hne : st ≠ stOk) :
    exec (.pwrConfig ch tag) s = .next (endCmd s ch tag st []) := by
  have hrun : ¬ (c.opcode ≠ 0x0202 ∨ !serving s ∨ (isG 0x0202 && gBusy s c)) := by simp [hop, hs, hg]
  have hset : settle s 0x0202 ch (refuse s st) = refuse s st := if_neg fun h => hne h.1
  have hgo : ¬ ((refuse s st).1 = stOk ∧ editWaits s 0x0202 ch tag = true) := fun h => hne h.1
  show execPwrConfig ch tag s = _
  unfold execPwrConfig runCmd
  rw [h]
  dsimp only
  rw [if_neg hrun, hst, if_neg (by decide), hb, if_neg hgo, hset]
  exact congrArg (fun u => Host.Outcome.next (endCmd u ch tag st [])) (if_neg hne)

/-- A length of 16 bytes fits every channel. -/
theorem pwrConfig_fits (hop : c.opcode = 0x0202) (hl : c.len = 16) :
    ¬ (!(c.len == 16) ∨ (if c.chan = 2 then (if nbit c.flags 1 then 65535 else 48) else 240) < c.len ∨
      (c.opcode = 0x0700 ∧ c.len ≠ 16 + 8 * u16 c.payload 0)) := by
  have hroom : 48 ≤ (if c.chan = 2 then (if nbit c.flags 1 then 65535 else 48) else 240) := by
    split
    · split <;> decide
    · decide
  rintro (h | h | h)
  · simp [hl] at h
  · omega
  · omega

/-- The header checks pass for a command of 16 bytes without a generation to meet. -/
theorem checkCmd_pwrConfig (hop : c.opcode = 0x0202) (hk : opKnown s 0x0202 = true) (hl : c.len = 16) (hh : c.hdrBad = false) :
    checkCmd s c (· == 16) (lockBlock bPWR) =
      if !quarOk s 0x0202 then stQuar else if nbit c.flags 0 && c.gen != liveGen s then stGenMis
      else if blockLocked s bPWR then stLocked else 0 := by
  unfold checkCmd
  dsimp only
  rw [if_neg (pwrConfig_fits hop hl), hop, hk, if_neg (by decide), hh, if_neg (by decide)]
  rfl

theorem quarOk_of_ne {op : Nat} (h : stkState s ≠ 7) : quarOk s op = true := by simp [quarOk, h]

theorem gRefused_pwrConfig (h : s.flag R.FRM.STAT.INCONSISTENT = true ∨ stkState s = 6) : gRefused s 0x0202 = true := by
  unfold gRefused
  rcases h with h | h
  · rw [h]; rfl
  · simp [h, isG]

end

/-- Settles O36. -/
theorem commandChecksInOrder : Obligations.CommandChecksInOrder := by
  intro s ch tag c h hs hop hg
  have hcheck : ∀ {st}, checkCmd s c (· == 16) (lockBlock bPWR) = st → st ≠ 0 →
      exec (.pwrConfig ch tag) s = .next (endCmd s ch tag st []) := fun hst hne => pwrConfig_checked h hs hop hg hst hne
  refine ⟨fun hk => ?_, fun hk hl => ?_, fun hk hl hh => ?_, fun hk hl hh hq => ?_, fun hk hl hh hq hf hgen => ?_,
    fun hk hl hh hq hf hlock => ?_, fun hk hl hh hq hf hlock => ?_⟩
  · refine hcheck ?_ (by decide)
    unfold checkCmd
    dsimp only
    rw [if_pos (by rw [hop, hk]; rfl)]
  · refine hcheck ?_ (by decide)
    unfold checkCmd
    dsimp only
    rw [if_neg (by rw [hop, hk]; decide), if_pos (.inl (by simp [hl]))]
  · refine hcheck ?_ (by decide)
    unfold checkCmd
    dsimp only
    rw [if_neg (pwrConfig_fits hop hl), hop, hk, if_neg (by decide), hh, if_pos rfl]
  · refine hcheck ((checkCmd_pwrConfig hop hk hl hh).trans (if_pos ?_)) (by decide)
    simp [quarOk, hq]
  · refine hcheck ((checkCmd_pwrConfig hop hk hl hh).trans ?_) (show stGenMis ≠ 0 by decide)
    rw [quarOk_of_ne hq, if_neg (by decide), hf, if_pos (by simp [hgen])]
  · refine hcheck ((checkCmd_pwrConfig hop hk hl hh).trans ?_) (show stLocked ≠ 0 by decide)
    rw [quarOk_of_ne hq, if_neg (by decide), hf, if_neg (by simp), if_pos hlock]
  · have hst : checkCmd s c (· == 16) (lockBlock bPWR) = 0 := by
      rw [checkCmd_pwrConfig hop hk hl hh, quarOk_of_ne hq, if_neg (by decide), hf, if_neg (by simp), if_neg (by simp [hlock])]
    refine ⟨fun hbad => pwrConfig_judged h hs hop hg hst ?_ (by decide), fun hok hinc => pwrConfig_judged h hs hop hg hst ?_ (by decide)⟩
    · rw [if_neg (by simp [hbad])]
      exact if_neg fun hn => hn.2.1 rfl
    · rw [if_pos hok]
      exact if_pos ⟨gRefused_pwrConfig hinc, (by decide : stOk ≠ stBadArg), (by decide : stOk ≠ stLocked)⟩

/-! ### The ends of accepted commands (R198, R212) -/

section
variable {s : State} {ch tag : Nat} {c : Cmd}

theorem acceptedCmd_chan (h : acceptedCmd s ch tag = some c) : c.chan = ch ∧ c.tag = tag ∧ c.phase = .accepted := by
  have := List.find?_some h
  simp only [Bool.and_eq_true, beq_iff_eq] at this
  exact ⟨this.1.1, this.1.2, this.2⟩

/-- A command whose hardware failed. -/
theorem acceptedEnd_fails (h : acceptedCmd s ch tag = some c) (hs : serving s = true) (v a b d : Nat) :
    exec (.acceptedCommandEnd ch tag true v a b d) s = .next (dropCmd s c stHw) := by
  show execAcceptedCommandEnd ch tag true v a b d s = _
  unfold execAcceptedCommandEnd
  rw [h]
  dsimp only
  rw [if_neg (by simp [hs]), if_pos rfl]

/-- A command dropped that is neither an apply, a route nor an offset step. -/
theorem dropCmd_plain (status : Nat) (hedit : s.fw.edit = none) (ha : c.opcode ≠ 0x0304) (hr : c.opcode ≠ 0x0700)
    (ho : c.phase = .taken → c.opcode ≠ 0x0902) : dropCmd s c status = endCmd s c.chan c.tag status [] := by
  unfold dropCmd
  rw [hedit]
  dsimp only [Option.any_none]
  rw [if_neg Bool.false_ne_true, if_neg fun h => ha h.2.1, if_neg fun h => hr h.2, if_neg fun h => ho h.1 h.2.1]

/-- The image that is complete and verified is on trial from the next boot (R200, R201). -/
theorem imageEnd_verified {n v : Nat} {img : List Byte} (hi : s.fw.image = some (n, img)) (hv : s.flash.minSec < v)
    (hl : img.length = n) (hf : imageFits n = true) : imageEnd s ch tag v = endCmd { s with
      fw := { s.fw with image := none }, flash := { s.flash with trial := true, booted := false } } ch tag stOk [0, 0, 0, 0] := by
  have he : (if img.length ≠ n ∨ imageFits n = false then 3 else if v = 0 then 1 else if v - 1 < s.flash.minSec then 2 else 0) = 0 := by
    rw [if_neg (by simp [hl, hf]), if_neg (show ¬ v = 0 by omega), if_neg (show ¬ v - 1 < s.flash.minSec by omega)]
  unfold imageEnd
  rw [hi]
  dsimp only
  rw [he, if_pos rfl]

theorem imageEnd_bad {n v r : Nat} {img : List Byte} (hi : s.fw.image = some (n, img))
    (hr : r = (if img.length ≠ n ∨ imageFits n = false then 3 else if v = 0 then 1 else if v ≤ s.flash.minSec then 2 else 0))
    (hne : r ≠ 0) : imageEnd s ch tag v = endCmd { s with fw := { s.fw with image := none } } ch tag stBadArg [byteOf r, 0, 0, 0] := by
  have he : (if img.length ≠ n ∨ imageFits n = false then 3 else if v = 0 then 1 else if v - 1 < s.flash.minSec then 2 else 0) = r := by
    rw [hr]
    split
    · rfl
    · split
      · rfl
      · congr 1
        exact propext ⟨fun h => by omega, fun h => by omega⟩
  unfold imageEnd
  rw [hi]
  dsimp only
  rw [he, if_neg hne]

theorem formeStored_alone (slot : Nat) (h : stkMember s = false) : formeStored s slot =
    { s with flash := { s.flash with formes := modifyAt s.flash.formes slot fun _ => s.fw.work.image } } := by
  unfold formeStored
  dsimp only
  exact if_neg fun hm => Bool.false_ne_true (h.symm.trans hm)

theorem liveGen_endCmd (st : Nat) (d : List Byte) : liveGen (endCmd s ch tag st d) = liveGen s := by
  unfold endCmd
  split
  · rfl
  · dsimp only
    split
    · exact (State.fld_setFld_ne _ _ (by decide)).trans rfl
    · rfl

theorem fw_endCmd (st : Nat) (d : List Byte) : (endCmd s ch tag st d).fw = s.fw := by
  unfold endCmd
  split
  · rfl
  · dsimp only
    split <;> rfl

end

/-- Settles O34. -/
theorem acceptedCommandsEnd : Obligations.AcceptedCommandsEnd := by
  intro s ch tag c hs
  refine ⟨fun h v a b d => ?_, fun h hedit ha hr ho => ?_⟩
  · obtain ⟨hchan, htag, hphase⟩ := acceptedCmd_chan h
    have hrun : exec (.acceptedCommandEnd ch tag false v a b d) s = execAcceptedCommandEnd ch tag false v a b d s := rfl
    unfold execAcceptedCommandEnd at hrun
    rw [h] at hrun
    dsimp only at hrun
    rw [if_neg (by simp [hs]), if_neg Bool.false_ne_true] at hrun
    refine ⟨fun hop => ?_, fun n img hop hi hv hl hf => ?_, fun n img r hop hi hr hne => ?_, fun hop => ?_, fun hop => ?_,
      fun hop hm => ?_, fun hop => ?_, fun i hop hd => ?_, fun ha hr hedit => ?_⟩
    · simpa only [hop, reduceIte] using hrun
    · rw [← imageEnd_verified hi hv hl hf]
      simpa only [hop, reduceIte, Nat.reduceEqDiff] using hrun
    · rw [← imageEnd_bad hi hr hne]
      simpa only [hop, reduceIte, Nat.reduceEqDiff] using hrun
    · simpa only [hop, reduceIte, Nat.reduceEqDiff] using hrun
    · simpa only [hop, reduceIte, Nat.reduceEqDiff] using hrun
    · rw [← formeStored_alone _ hm]
      simpa only [hop, reduceIte, Nat.reduceEqDiff] using hrun
    · simpa only [hop, reduceIte, Nat.reduceEqDiff] using hrun
    · simpa only [hop, hd, List.all_cons, List.all_nil, Bool.and_true, decide_eq_true_eq, reduceIte, Nat.reduceEqDiff] using hrun
    · rw [acceptedEnd_fails h hs, dropCmd_plain stHw hedit ha hr (fun hp => by rw [hphase] at hp; cases hp), hchan, htag]
  · have hc := List.find?_some h
    simp only [Bool.and_eq_true, beq_iff_eq] at hc
    refine ⟨endCmd s ch tag stTimeout [], ?_, rfl, liveGen_endCmd _ _, fw_endCmd _ _⟩
    show execCommandBoundTimeout ch tag s = _
    unfold execCommandBoundTimeout
    rw [h]
    dsimp only
    rw [if_pos hs, dropCmd_plain stTimeout hedit ha hr (fun _ => ho), hc.1.1, hc.1.2]

end Sys2Proof.Machine
end

section
/-! The generation of a device whose queue 919 lists a cell of a half the galley does not have (R213, R287). -/

namespace Sys2Proof.Machine

/-- A half far beyond the galley's two: the parity counter its number addresses is the register FRM.GEN itself. -/
def strayHalf : Nat := 10204

/-- An active twin whose checkpoint queue holds a slug in a cell of that half, with one inverted bit, and swallows the item
its producer has open. -/
def strayTwin : State := { State.reset with
  rf := [(R.STK.LINK.reg 0, (R.STK.LINK.UP 0).mask), (R.TWIN.STAT.reg, R.TWIN.STAT.STATE.ins 2 0)]
  gal := { galReset with
    qs := [(919, { gqEmpty with elems := [.slug ⟨1, 0, 0, 0, false, false, ⟨strayHalf, 0⟩⟩], swallow := true })]
    flips := [(⟨strayHalf, 0⟩, 0, 0)] } }

/-- The checkpoint that follows the new generation drains the slug, and its parity error counts the generation up again. -/
theorem liveGen_strayTwin : liveGen (finishGen strayTwin 0 0) = 2 := by decide +kernel

/-- Refutes O35: a G command of `strayTwin` raises the generation by two, because the model's parity counter of a cell is
addressed by the cell's half, which no statement bounds. -/
theorem not_resultsEventsAndGenerations : ¬ Obligations.ResultsEventsAndGenerations := by
  intro h
  obtain ⟨-, -, hgen, -⟩ := h strayTwin 0 0 0 [] ⟨0, 0, 0, 0, 0, 0, 0, false, [], 0, 0, .taken, 0, [], false⟩
  obtain ⟨hlive, -⟩ := hgen 0 (by decide +kernel)
  rw [liveGen_strayTwin] at hlive
  exact absurd hlive (by decide +kernel)

end Sys2Proof.Machine
end

section
/-! What an announcement of moved clocks and ports (R86, R217, R261) leaves: the registers of the system, power and clock
blocks. -/

namespace Sys2Proof.Machine

/-- A register of the blocks SYS, PWR and CLK. -/
def LowKey (k : Nat) : Prop := k < 0x3000 ∨ (0x6000 ≤ k ∧ k < 0x7000)

/-- From `s` to `t` those registers stay. -/
structure LowStays (s t : State) : Prop where
  rd : ∀ k, LowKey k → t.rd k = s.rd k

namespace LowStays

theorem refl (s : State) : LowStays s s := ⟨fun _ _ => rfl⟩

theorem trans {s t u : State} (h : LowStays s t) (h' : LowStays t u) : LowStays s u :=
  ⟨fun k hk => (h'.rd k hk).trans (h.rd k hk)⟩

variable {s0 s : State} (h : LowStays s0 s)
include h

theorem upd {t : State} (e : t.rf = s.rf) : LowStays s0 t := h.trans ⟨fun _ _ => State.rd_of_rf_eq e _⟩

theorem setFld {f : Fld} (v : Nat) (hf : ¬ LowKey f.key) : LowStays s0 (s.setFld f v) :=
  h.trans ⟨fun k hk => State.rd_setFld_ne s v fun e => hf (e ▸ hk)⟩

theorem setFlds {l : List (Fld × Nat)} (hl : ∀ p ∈ l, ¬ LowKey p.1.key) : LowStays s0 (s.setFlds l) := by
  induction l generalizing s with
  | nil => exact h
  | cons p l ih => exact ih (h.setFld _ (hl p List.mem_cons_self)) fun q hq => hl q (List.mem_cons_of_mem _ hq)

theorem count {f : Fld} (hf : ¬ LowKey f.key) : LowStays s0 (s.count f) := by
  obtain ⟨v, e⟩ := s.count_eq f
  rw [e]
  exact h.setFld v hf

theorem ite {p : Prop} [Decidable p] {t : State} (h' : LowStays s0 t) : LowStays s0 (if p then s else t) := by
  split
  · exact h
  · exact h'

theorem countSat {f g : Fld} (i : Nat) (hf : ¬ LowKey f.key) (hg : ¬ LowKey g.key) : LowStays s0 (s.countSat f g i) :=
  ite ((h.count hf).setFld _ hg) (h.count hf)

theorem countN {f : Fld} (n : Nat) (hf : ¬ LowKey f.key) : LowStays s0 (s.countN f n) := h.setFld _ hf

theorem countSatN {f g : Fld} (n i : Nat) (hf : ¬ LowKey f.key) (hg : ¬ LowKey g.key) : LowStays s0 (s.countSatN f n g i) :=
  ite ((h.countN n hf).setFld _ hg) (h.countN n hf)

theorem latchOnce {k : Nat} {l : List (Fld × Nat)} (hl : ∀ p ∈ l, ¬ LowKey p.1.key) : LowStays s0 (s.latchOnce k l) :=
  ite h ((h.setFlds hl).upd rfl)

theorem foldl {α : Type} {g : State → α → State} (hg : ∀ u a, LowStays s0 u → LowStays s0 (g u a)) (l : List α) :
    LowStays s0 (l.foldl g s) := by
  induction l generalizing s with
  | nil => exact h
  | cons a l ih => exact ih (hg s a h)

end LowStays

/-- The keys of the registers that follow, apart from SYS, PWR and CLK. -/
theorem notLow_of {k : Nat} (h : 0x7000 ≤ k ∨ (0x3000 ≤ k ∧ k < 0x6000)) : ¬ LowKey k := by
  unfold LowKey
  omega

section
variable {s0 s : State} (h : LowStays s0 s)
include h

/-! ### Events -/

theorem LowStays.setEvtq (c : Nat) (q : EvtQueue) : LowStays s0 (s.setEvtq c q) :=
  (h.upd (t := { s with mbx := { s.mbx with evts := modifyAt s.mbx.evts c fun _ => q } }) rfl).setFld _ (notLow_of (by decide))

theorem LowStays.queueEvent (c : Nat) (m : Msg) : LowStays s0 (queueEvent s c m) :=
  ite h (ite (ite (h.setEvtq c _) h) (ite ((h.count (notLow_of (by decide))).setEvtq c _) (h.setEvtq c _)))

theorem LowStays.event (code : Nat) (d : List Byte) : LowStays s0 (s.event code d) :=
  ((h.queueEvent 0 _).queueEvent 1 _).queueEvent 2 _

theorem LowStays.dxRaise (b : Nat) : LowStays s0 (dxRaise s b) :=
  ite h ((h.upd (t := s.setDx 0x020 (s.dxCell 0x020 ||| b)) rfl).event _ _)

/-! ### The galley -/

theorem LowStays.setGq (q : Nat) (x : GQueue) : LowStays s0 (s.setGq q x) := h.upd rfl

theorem LowStays.galRefresh : LowStays s0 (galRefresh s) := h.setFld _ (notLow_of (by decide))

theorem LowStays.spill (cs : List CellNo) (b : List Byte) : LowStays s0 (spill s cs b) := by
  induction cs generalizing s b with
  | nil => exact h
  | cons c cs ih =>
    exact ih (h.upd (t := { s with gal := { s.gal with mem := memWrite s.gal.mem (cellAddr c 0) (b.take 64) } }) rfl) _

theorem LowStays.spillAll (l : List GElem) : LowStays s0 (l.foldl spillElem s) := h.foldl (fun _ _ hu => hu.spill _ _) l

theorem LowStays.galFreeFirst (q n : Nat) : LowStays s0 (galFreeFirst s q n) := (h.spillAll _).setGq q _

theorem LowStays.countDrops (q n : Nat) : LowStays s0 (countDrops s q n) := by
  have hq : ¬ LowKey (R.GAL.Q_DROPS.COUNT q).key := notLow_of (by simp only [R.GAL.Q_DROPS.COUNT, itemKey]; omega)
  have hs : ¬ LowKey (R.GAL.Q_STAT.Q_SAT q).key := notLow_of (by simp only [R.GAL.Q_STAT.Q_SAT, itemKey]; omega)
  have h1 := (h.countN n hq).setFld 1 hs |>.ite (p := (s.countN (R.GAL.Q_DROPS.COUNT q) n).fld (R.GAL.Q_DROPS.COUNT q) = 0xFFFFFFFF)
    (h.countN n hq)
  have h2 := h1.countSatN n 4 (f := R.GAL.DROP_CNT.COUNT) (g := R.GAL.SAT.SAT_F) (notLow_of (by decide)) (notLow_of (by decide))
  exact ite h2 (h2.setFld 1 (notLow_of (by decide)))

theorem LowStays.takeCell (i : Nat) : LowStays s0 (takeCell s i).2 := h.upd rfl

theorem LowStays.storeMark (c : CellNo) (w : Nat) : LowStays s0 (storeMark s c w) := by
  unfold Machine.storeMark
  dsimp only
  split
  · exact (h.setFld 0 (f := R.GAL.INJECT.ARM) (notLow_of (by decide))).upd rfl
  · exact h.upd rfl

theorem LowStays.placeSlugIn (i q n folio ts reason : Nat) (merged own : Bool) :
    LowStays s0 (placeSlugIn s i q n folio ts reason merged own) :=
  (((h.takeCell i).storeMark _ 0).storeMark _ 1).setGq q _

theorem LowStays.turnOn (q : Nat) : LowStays s0 (turnOn s q) := ite h (h.upd rfl)

theorem LowStays.placeSlug (q n folio ts reason : Nat) (merged own : Bool) :
    LowStays s0 (placeSlug s q n folio ts reason merged own) :=
  ite (h.placeSlugIn ..) ((h.placeSlugIn ..).turnOn q)

theorem LowStays.slugDrop (q folio ts reason : Nat) : LowStays s0 (slugDrop s q folio ts reason) := by
  unfold Machine.slugDrop
  dsimp only
  split
  · exact h.setGq _ _
  · split
    · split
      · exact h.placeSlug ..
      · exact h.placeSlug ..
    · split
      · exact h.setGq _ _
      · exact h.setGq _ _

theorem LowStays.itemDrop (q folio ts reason : Nat) : LowStays s0 (itemDrop s q folio ts reason) :=
  (h.countDrops q 1).slugDrop ..

theorem LowStays.takeCells (q n : Nat) : LowStays s0 (takeCells s q n).2 := by
  induction n generalizing s with
  | zero => exact h
  | succ n ih =>
    unfold Machine.takeCells
    dsimp only
    have hone : LowStays s0 { (Machine.turnOn (Machine.takeCell s (nextHalf s q)).2 q) with
        gal := { (Machine.turnOn (Machine.takeCell s (nextHalf s q)).2 q).gal with
          lost := (Machine.takeCell s (nextHalf s q)).1 :: (Machine.turnOn (Machine.takeCell s (nextHalf s q)).2 q).gal.lost } } :=
      ((h.takeCell (nextHalf s q)).turnOn q).upd rfl
    exact (ih hone).upd rfl

theorem LowStays.galOpen (q kind : Nat) (len : Option Nat) (folio ts : Nat) : LowStays s0 (galOpen s q kind len folio ts) := by
  unfold Machine.galOpen
  dsimp only
  split
  · split
    · exact h.setGq _ _
    · split
      · exact (h.itemDrop ..).setGq _ _
      · exact (h.takeCells ..).setGq _ _
  · exact h

theorem LowStays.galDiscard (q reason : Nat) : LowStays s0 (galDiscard s q reason) := by
  unfold Machine.galDiscard galDiscardIn
  dsimp only
  refine LowStays.setGq (LowStays.ite (LowStays.countDrops (LowStays.setGq ?_ q _) q _) (LowStays.placeSlugIn
    (LowStays.countDrops (LowStays.setGq ?_ q _) q _) ..)) q _
  · exact (h.spillAll _).spillAll _
  · exact (h.spillAll _).spillAll _

/-! ### Reading the galley -/

theorem LowStays.errLatch (kind w : Nat) (c : CellNo) : LowStays s0 (errLatch s kind w c) :=
  h.latchOnce fun p hp => by
    simp only [List.mem_cons, List.not_mem_nil, or_false] at hp
    rcases hp with rfl | rfl | rfl <;> exact notLow_of (.inl (Nat.le_of_ble_eq_true rfl))

theorem LowStays.checkWord (c : CellNo) (w : Nat) : LowStays s0 (checkWord s c w).2 := by
  have hk : ∀ i, ¬ LowKey (R.GAL.PAR_CNT.COUNT i).key := fun i => notLow_of (by simp only [R.GAL.PAR_CNT.COUNT]; omega)
  unfold Machine.checkWord
  dsimp only
  split
  · exact h
  · split
    · split
      · refine ((LowStays.setFld (LowStays.upd h ?_) 1 (f := R.GAL.EVT.CE) (notLow_of (by decide))).countSat (f := R.GAL.CE_CNT.COUNT)
          (g := R.GAL.SAT.SAT_F) 2 (notLow_of (by decide)) (notLow_of (by decide))).errLatch ..
        rfl
      · exact ((h.setFld 1 (f := R.GAL.EVT.UE) (notLow_of (by decide))).countSat (f := R.GAL.UE_CNT.COUNT) (g := R.GAL.SAT.SAT_F) 3
          (notLow_of (by decide)) (notLow_of (by decide))).errLatch ..
    · exact ((h.setFld 1 (f := R.GAL.EVT.PAR) (notLow_of (by decide))).countSat (g := R.GAL.SAT.SAT_F) _ (hk _)
        (notLow_of (by decide))).errLatch ..

/-- Words of one cell that are checked in turn: those that fail, and the state the checks leave. -/
def checkedWords (s : State) (base : Nat) (c : CellNo) (l : List Nat) : List Nat × State :=
  l.foldl (fun (acc : List Nat × State) w => (if (Machine.checkWord acc.2 c w).1 then acc.1 ++ [base + w] else acc.1,
    (Machine.checkWord acc.2 c w).2)) ([], s)

omit h in
theorem checkCells_cons (s : State) (base : Nat) (c : CellNo) (cs : List CellNo) : checkCells s base (c :: cs) =
    ((checkedWords s base c (List.range 8)).1 ++ (checkCells (checkedWords s base c (List.range 8)).2 (base + 8) cs).1,
      (checkCells (checkedWords s base c (List.range 8)).2 (base + 8) cs).2) := by
  rw [checkCells]
  unfold checkedWords
  generalize List.range 8 = l
  rfl

theorem LowStays.checkedWords (base : Nat) (c : CellNo) (l : List Nat) : LowStays s0 (checkedWords s base c l).2 := by
  unfold Machine.checkedWords
  generalize hacc : (([], s) : List Nat × State) = acc
  have hs : LowStays s0 acc.2 := by rw [← hacc]; exact h
  clear hacc
  induction l generalizing acc with
  | nil => exact hs
  | cons w l ih => exact ih _ (hs.checkWord c w)

theorem LowStays.checkCells (base : Nat) (cs : List CellNo) : LowStays s0 (checkCells s base cs).2 := by
  induction cs generalizing s base with
  | nil => exact h
  | cons c cs ih =>
    rw [checkCells_cons]
    dsimp only
    exact ih (h.checkedWords base c _) _

theorem LowStays.dxEccCount (q : Nat) (cs : List CellNo) : LowStays s0 (dxEccCount s q cs) := by
  unfold Machine.dxEccCount
  dsimp only
  split
  · exact h
  · refine LowStays.dxRaise (LowStays.upd h ?_) _
    rfl

theorem LowStays.galPop (q : Nat) : LowStays s0 (galPop s q).2 := by
  unfold Machine.galPop
  dsimp only
  split
  · exact h
  · split
    · exact h
    · exact ((h.dxEccCount ..).checkCells ..).setGq _ _

theorem LowStays.expireQueue (q n next fuel : Nat) : LowStays s0 (expireQueue q n next fuel s) := by
  induction fuel generalizing s with
  | zero => exact h
  | succ fuel ih =>
    unfold Machine.expireQueue
    dsimp only
    have hstep : LowStays s0 (Machine.galRefresh (Machine.galFreeFirst (if (s.gq q).rd = 0 then (Machine.galPop s q).2 else s) q 1)) :=
      ((LowStays.ite (h.galPop q) h).galFreeFirst ..).galRefresh
    split
    · exact LowStays.ite (ih hstep) h
    · exact h

end

end Sys2Proof.Machine
end

section
/-! An announcement of moved clocks and ports leaves the registers of the system, power and clock blocks. -/

namespace Sys2Proof.Machine

/-- An apartness of a literal list of fields with known keys. -/
theorem notLow_cons {p : Fld × Nat} {l : List (Fld × Nat)} (hp : 0x7000 ≤ p.1.key ∨ (0x3000 ≤ p.1.key ∧ p.1.key < 0x6000))
    (hl : ∀ q ∈ l, ¬ LowKey q.1.key) : ∀ q ∈ p :: l, ¬ LowKey q.1.key := by
  rintro q (_ | ⟨_, hq⟩)
  · exact notLow_of hp
  · exact hl q hq

theorem notLow_nil : ∀ q ∈ ([] : List (Fld × Nat)), ¬ LowKey q.1.key := fun _ hq => by cases hq

section
variable {s0 s : State} (h : LowStays s0 s)
include h

/-! ### Kerning lanes -/

theorem LowStays.laneSettle (n : Nat) : LowStays s0 (laneSettle s n) :=
  (h.setFlds (notLow_cons (.inl (by simp only [R.KRN.L_STAT.OVERFLOW]; omega))
    (notLow_cons (.inl (by simp only [R.KRN.L_STAT.SAT]; omega)) notLow_nil))).upd rfl

theorem LowStays.laneRuns (n : Nat) (on : Bool) : LowStays s0 (laneRuns s n on) := by
  unfold Machine.laneRuns
  dsimp only
  split <;> split
  · exact h
  · exact h.upd rfl
  · exact h.upd rfl
  · exact h

theorem LowStays.laneGo (n st : Nat) : LowStays s0 (laneGo s n st) := by
  have h1 := (h.setFlds (l := [(R.KRN.L_STAT.STATE n, st), (R.KRN.L_STAT.VALID n, b2n (st == laneRun || st == laneSlew))])
    (notLow_cons (.inl (by simp only [R.KRN.L_STAT.STATE]; omega))
      (notLow_cons (.inl (by simp only [R.KRN.L_STAT.VALID]; omega)) notLow_nil))).laneRuns n (st == laneRun || st == laneSlew)
  exact (LowStays.ite (h1.setFld 1 (notLow_of (.inl (by simp only [R.KRN.L_STAT.RANGE_EV]; omega)))) h1).laneSettle n

theorem LowStays.laneFollow (n : Nat) : LowStays s0 (laneFollow s n) := by
  have h1 := h.setFld (f := R.KRN.L_RATIO.RATIO n) (laneRatio s n) (notLow_of (.inl (by simp only [R.KRN.L_RATIO.RATIO]; omega)))
  exact LowStays.ite h (LowStays.ite (h1.laneGo ..) (LowStays.ite (h1.laneGo ..) (LowStays.ite (h1.laneSettle n) h1)))

theorem LowStays.lanesFollow : LowStays s0 (lanesFollow s) := h.foldl (fun _ n hu => hu.laneFollow n) _

/-! ### Flows -/

/-- The states of a flow differ in what else they latch. -/
theorem LowStays.rxGoLatches (f st old : Nat) : LowStays s0
    (if st = 3 then s.setFld (R.RXF.F_STAT.CONCEAL_EV f) 1
      else if st = 2 ∧ old = 3 then s.setFld (R.RXF.F_STAT.REJOIN_EV f) 1 else s) :=
  LowStays.ite (h.setFld 1 (notLow_of (.inl (by simp only [R.RXF.F_STAT.CONCEAL_EV, itemKey]; omega))))
    (LowStays.ite (h.setFld 1 (notLow_of (.inl (by simp only [R.RXF.F_STAT.REJOIN_EV, itemKey]; omega)))) h)

theorem LowStays.dxIf {c : Prop} [Decidable c] (d : Dx) : LowStays s0 (if c then { s with dx := d } else s) := by
  split
  · exact h.upd rfl
  · exact h

theorem LowStays.rxGo (f st reason : Nat) : LowStays s0 (rxGo s f st reason) := by
  have h1 := (h.setFlds (l := [(R.RXF.F_STAT.STATE f, st), (R.RXF.F_STAT.STATE_EV f, 1)])
    (notLow_cons (.inl (by simp only [R.RXF.F_STAT.STATE, itemKey]; omega))
      (notLow_cons (.inl (by simp only [R.RXF.F_STAT.STATE_EV, itemKey]; omega)) notLow_nil))).rxGoLatches f st
        (s.fld (R.RXF.F_STAT.STATE f))
  unfold Machine.rxGo
  dsimp only
  generalize (if st = 3 then _ else _ : State) = u at h1 ⊢
  exact LowStays.ite h (LowStays.ite ((h1.dxIf _).event _ _) (h1.dxIf _))

theorem LowStays.discardIf (q : Nat) : LowStays s0 (if s.gq q = gqEmpty then s else Machine.galDiscard s q reasonFlushed) :=
  LowStays.ite h (h.galDiscard q _)

theorem LowStays.setFlow (f : Nat) (x : RxFlow) : LowStays s0 (s.setFlow f x) := h.upd rfl

theorem LowStays.rxFlush (f : Nat) : LowStays s0 (rxFlush s f) :=
  ((h.discardIf (2 * f)).discardIf (2 * f + 1)).galRefresh.setFlow f _

theorem LowStays.rxFollow (m : Nat) : LowStays s0 (rxFollow s m) :=
  h.foldl (fun _ f hu => LowStays.ite hu (LowStays.ite (LowStays.ite (hu.rxGo ..) hu)
    (LowStays.ite hu ((hu.rxGo ..).rxFlush f)))) _

theorem LowStays.txGo (f st : Nat) : LowStays s0 (txGo s f st) :=
  LowStays.ite h (h.setFlds (notLow_cons (.inl (by simp only [R.TXF.F_STAT.STATE, itemKey]; omega))
    (notLow_cons (.inl (by simp only [R.TXF.F_STAT.STATE_EV, itemKey]; omega)) notLow_nil)))

theorem LowStays.setTxf (f : Nat) (x : TxFlow) : LowStays s0 (s.setTxf f x) := h.upd rfl

theorem LowStays.txFollow (m : Nat) : LowStays s0 (txFollow s m) :=
  h.foldl (fun _ f hu => LowStays.ite hu (LowStays.ite (LowStays.ite ((hu.setTxf f _).txGo ..) hu) (hu.txGo ..))) _

/-! ### Host and stack blocks -/

theorem LowStays.hstGo (i st : Nat) : LowStays s0 (hstGo s i st) :=
  LowStays.ite h (h.setFlds (notLow_cons (.inl (by simp only [R.HST.B_STAT.STATE, itemKey]; omega))
    (notLow_cons (.inl (by simp only [R.HST.B_STAT.STATE_EV, itemKey]; omega)) notLow_nil)))

theorem LowStays.setHst (i : Nat) (x : HostBlk) : LowStays s0 (s.setHst i x) := h.upd rfl

theorem LowStays.htIssue (i n : Nat) : LowStays s0 (htIssue i n s) := by
  induction n generalizing s with
  | zero => exact h
  | succ n ih =>
    unfold Machine.htIssue
    split
    · exact h
    · split
      · exact h
      · split
        · dsimp only
          refine ih (LowStays.upd h ?_)
          rfl
        · exact h

theorem LowStays.tagsRefresh : LowStays s0 (tagsRefresh s) :=
  h.setFlds (notLow_cons (.inl (Nat.le_of_ble_eq_true rfl)) (notLow_cons (.inl (Nat.le_of_ble_eq_true rfl)) notLow_nil))

theorem LowStays.htStart (i : Nat) : LowStays s0 (htStart s i) := by
  unfold Machine.htStart
  dsimp only
  refine LowStays.tagsRefresh (LowStays.htIssue (LowStays.ite (LowStays.setHst (LowStays.galOpen (LowStays.upd h ?_) ..) i _) h) i _)
  rfl

theorem LowStays.hstFollow (m : Nat) : LowStays s0 (hstFollow s m) :=
  h.foldl (fun _ i hu => LowStays.ite hu (LowStays.ite (hu.hstGo ..) (LowStays.ite (((hu.setHst i _).hstGo ..).htStart i)
    (LowStays.ite (hu.expireQueue ..) hu)))) _

theorem LowStays.blkGo (i st : Nat) : LowStays s0 (blkGo s i st) :=
  LowStays.ite h (h.setFlds (notLow_cons (.inl (by simp only [R.STK.B_STAT.STATE, itemKey]; omega))
    (notLow_cons (.inl (by simp only [R.STK.B_STAT.STATE_EV, itemKey]; omega)) notLow_nil)))

theorem LowStays.setSblk (i : Nat) (x : StkBlk) : LowStays s0 (s.setSblk i x) := h.upd rfl

theorem LowStays.stkFollow (m : Nat) : LowStays s0 (stkFollow s m) :=
  h.foldl (fun _ i hu => LowStays.ite hu (LowStays.ite (hu.blkGo ..) (LowStays.ite ((hu.setSblk i _).blkGo ..)
    (LowStays.ite (hu.expireQueue ..) hu)))) _

/-! ### The imposition table and the whole -/

theorem LowStays.holdCheck (d : Nat) : LowStays s0 (holdCheck s d) := by
  unfold Machine.holdCheck
  dsimp only
  refine LowStays.ite (LowStays.countSat (LowStays.setFld (LowStays.latchOnce (LowStays.upd h ?_) ?_) 1 ?_) 1 ?_ ?_)
    (LowStays.ite (LowStays.upd h ?_) h)
  · rfl
  · exact notLow_cons (.inl (Nat.le_of_ble_eq_true rfl)) notLow_nil
  · exact notLow_of (by decide)
  · exact notLow_of (by decide)
  · exact notLow_of (by decide)
  · rfl

theorem LowStays.xdomHold : LowStays s0 (xdomHold s) :=
  (h.foldl (fun _ d hu => hu.holdCheck d) _).setFlds
    (notLow_cons (.inl (Nat.le_of_ble_eq_true rfl)) (notLow_cons (.inl (Nat.le_of_ble_eq_true rfl)) notLow_nil))

theorem LowStays.ptiMoved (old : State) (n : Nat) : LowStays s0 (ptiMoved old s n) := LowStays.ite h (h.event _ _)

theorem LowStays.mcsMoved (old : State) (n : Nat) : LowStays s0 (mcsMoved old s n) :=
  LowStays.ite h ((((h.rxFollow n).txFollow n).hstFollow n).stkFollow n)

theorem LowStays.follow (old : State) : LowStays s0 (follow old s) := by
  have h1 : LowStays s0 ((List.range 4).foldl (Machine.ptiMoved old) s) := h.foldl (fun _ n hu => hu.ptiMoved old n) _
  exact LowStays.ite (LowStays.ite h1.lanesFollow h1) (h1.foldl (fun _ n hu => hu.mcsMoved old n) _).lanesFollow.xdomHold

end

end Sys2Proof.Machine
end

section
/-! Two states that no device reaches, in which a DOZE entry restores a stale power state and the end of a forme raises the
generation twice (R60, R63, R213, R422). -/

namespace Sys2Proof.Machine

/-! ### The generation under `follow`, where no media clock moved -/

theorem liveGen_setFld (s : State) {f : Fld} (v : Nat) (hf : R.FRM.GEN.GEN_F.key ≠ f.key) : liveGen (s.setFld f v) = liveGen s :=
  State.fld_setFld_ne s v hf

theorem liveGen_event (s : State) (code : Nat) (data : List Byte) : liveGen (s.event code data) = liveGen s :=
  (EvtStep.event s code data).touches.fld (f := R.FRM.GEN.GEN_F) (by decide)

theorem liveGen_ptiMoved (old s : State) (n : Nat) : liveGen (ptiMoved old s n) = liveGen s := by
  unfold ptiMoved
  split
  · rfl
  · exact liveGen_event ..

theorem liveGen_laneRuns (s : State) (n : Nat) (on : Bool) : liveGen (laneRuns s n on) = liveGen s := by
  unfold laneRuns
  dsimp only
  split <;> split <;> rfl

theorem liveGen_setLane (s : State) (n : Nat) (x : Lane) : liveGen (s.setLane n x) = liveGen s := rfl

theorem laneSettle_eq (s : State) (n : Nat) : ∃ v w x,
    laneSettle s n = (s.setFlds [(R.KRN.L_STAT.OVERFLOW n, v), (R.KRN.L_STAT.SAT n, w)]).setLane n x := ⟨_, _, _, rfl⟩

section
variable {n : Nat} (hn : n < 256)
include hn

theorem liveGen_laneSettle (s : State) : liveGen (laneSettle s n) = liveGen s := by
  obtain ⟨v, w, x, e⟩ := laneSettle_eq s n
  rw [e]
  exact (liveGen_setLane _ n x).trans ((liveGen_setFld (s.setFld (R.KRN.L_STAT.OVERFLOW n) v) w (f := R.KRN.L_STAT.SAT n)
    (by simp only [R.FRM.GEN.GEN_F, R.KRN.L_STAT.SAT]; omega)).trans
    (liveGen_setFld s v (by simp only [R.FRM.GEN.GEN_F, R.KRN.L_STAT.OVERFLOW]; omega)))

theorem liveGen_laneGo (s : State) (st : Nat) : liveGen (laneGo s n st) = liveGen s := by
  have hgo : liveGen (laneRuns (s.setFlds [(R.KRN.L_STAT.STATE n, st),
      (R.KRN.L_STAT.VALID n, b2n (st == laneRun || st == laneSlew))]) n (st == laneRun || st == laneSlew)) = liveGen s :=
    (liveGen_laneRuns _ n _).trans ((liveGen_setFld (s.setFld (R.KRN.L_STAT.STATE n) st) _ (f := R.KRN.L_STAT.VALID n)
      (by simp only [R.FRM.GEN.GEN_F, R.KRN.L_STAT.VALID]; omega)).trans
      (liveGen_setFld s st (by simp only [R.FRM.GEN.GEN_F, R.KRN.L_STAT.STATE]; omega)))
  refine (liveGen_laneSettle hn _).trans ?_
  split
  · exact (liveGen_setFld _ 1 (by simp only [R.FRM.GEN.GEN_F, R.KRN.L_STAT.RANGE_EV]; omega)).trans hgo
  · exact hgo

theorem liveGen_laneFollow (s : State) : liveGen (laneFollow s n) = liveGen s := by
  have hratio : liveGen (s.setFld (R.KRN.L_RATIO.RATIO n) (laneRatio s n)) = liveGen s :=
    liveGen_setFld s _ (by simp only [R.FRM.GEN.GEN_F, R.KRN.L_RATIO.RATIO]; omega)
  unfold laneFollow
  dsimp only
  split
  · rfl
  · split
    · exact (liveGen_laneGo hn _ _).trans hratio
    · split
      · exact (liveGen_laneGo hn _ _).trans hratio
      · split
        · exact (liveGen_laneSettle hn _).trans hratio
        · exact hratio

end

theorem liveGen_foldl {g : State → Nat → State} {l : List Nat} (hg : ∀ n ∈ l, ∀ u, liveGen (g u n) = liveGen u) (s : State) :
    liveGen (l.foldl g s) = liveGen s := by
  induction l generalizing s with
  | nil => rfl
  | cons n l ih =>
    exact (ih (fun m hm => hg m (List.mem_cons_of_mem _ hm)) _).trans (hg n List.mem_cons_self s)

theorem liveGen_lanesFollow (s : State) : liveGen (lanesFollow s) = liveGen s :=
  liveGen_foldl (fun _ hn u => liveGen_laneFollow (List.mem_range.mp hn) u) s

/-- The register of an MCS's state is one of the clock block's. -/
theorem LowStays.mcsState {s t : State} (h : LowStays s t) {n : Nat} (hn : n < 8) : t.mcsState n = s.mcsState n :=
  congrArg (R.CLK.MCS_STAT.STATE n).of (h.rd _ (.inr (by simp only [R.CLK.MCS_STAT.STATE]; omega)))

theorem liveGen_follow {old s : State} (h : ∀ n, n < 8 → old.mcsState n = s.mcsState n) :
    liveGen (follow old s) = liveGen s := by
  have hgen := liveGen_foldl (l := List.range 4) (g := ptiMoved old) (fun n _ u => liveGen_ptiMoved old u n) s
  have hlow : LowStays s ((List.range 4).foldl (ptiMoved old) s) := (LowStays.refl s).foldl (fun _ n hu => hu.ptiMoved old n) _
  unfold follow
  generalize (List.range 4).foldl (ptiMoved old) s = u at hgen hlow ⊢
  have hnone : movedMcs old u = [] := List.filter_eq_nil_iff.mpr fun n hn => by
    have hn8 := List.mem_range.mp hn
    simp [h n hn8, hlow.mcsState hn8]
  dsimp only
  rw [hnone, List.isEmpty_nil, if_pos rfl]
  split
  · exact (liveGen_lanesFollow u).trans hgen
  · exact hgen

/-! ### The end of a forme -/

/-- A forme of `strayTwin` whose stages have all passed. -/
def strayApply : State := { strayTwin with
  fw := { strayTwin.fw with apply := some ⟨formeEmpty 0, formeEmpty 0, false, 0, 0, 0, 8, [], [], 0, none, 0, some (0, 0), none⟩ } }

theorem liveGen_strayApply : liveGen (stageVerify strayApply) = 2 := by decide +kernel

theorem mcsState_strayApply : ∀ n, n < 8 → strayApply.mcsState n = (stageVerify strayApply).mcsState n := by decide +kernel

/-- Refutes O29: the last stage of `strayApply` raises the generation by two, because the parity counter of a cell is
addressed by the cell's half, which no statement bounds. -/
theorem not_formeCommandsAndEpochs : ¬ Obligations.FormeCommandsAndEpochs := by
  intro h
  obtain ⟨-, -, -, -, -, -, hend⟩ := h strayApply 0 0 ⟨0, 0, 0, 0, 0, 0, 0, false, [], 0, 0, .taken, 0, [], false⟩
  obtain ⟨u, hexec, -, hlive, -⟩ := hend _ rfl rfl rfl rfl (by decide +kernel)
  have hfollow : follow strayApply (stageVerify strayApply) = follow strayApply u := by
    simpa [exec, execFormeStageVerify, followed, ok] using hexec
  have hlow := (LowStays.refl (stageVerify strayApply)).follow strayApply
  rw [hfollow] at hlow
  have hmcs : ∀ n, n < 8 → strayApply.mcsState n = u.mcsState n := fun n hn =>
    (mcsState_strayApply n hn).trans ((hlow.mcsState hn).symm.trans (((LowStays.refl u).follow strayApply).mcsState hn))
  have hgen := liveGen_follow mcsState_strayApply
  rw [hfollow, liveGen_follow hmcs, hlive, liveGen_strayApply] at hgen
  exact absurd hgen (by decide +kernel)

/-! ### The entry into DOZE -/

/-- A device that enters DOZE with the network port 0 to be kept, whose domain 5 is off and was saved with a word of
PWR.STATE among its registers. -/
def strayImage : State := { State.reset with
  rf := [(R.PWR.STATE.reg, R.PWR.STATE.STATE_F.ins 8 0), (R.PWR.CTRL.reg, R.PWR.CTRL.DOZE_PORT.ins 1 0)]
  pwr := { State.reset.pwr with retention := [⟨5, [(R.PWR.STATE.reg, R.PWR.STATE.STATE_F.ins 9 0)], 0⟩] } }

/-- What the entry into DOZE makes of a state, before what follows. -/
def dozeEntered (s : State) : State :=
  let port := s.fld R.PWR.CTRL.DOZE_PORT
  let s1 := (List.range 8).foldl (fun s n => if s.mcsState n = mcsOff then s else mcsGo s n mcsOff) s
  let s1 := { s1 with gal := { s1.gal with qs := [] } }
  let s1 := ([3, 4, 5, 6, 7, 8, 9, 10].filter fun d => !dozeDomain s d).foldl domainOff s1
  let s1 := if (port = 1 ∨ port = 2) ∧ s1.pwr.dom.getD (port + 4) false = false then domainOn s1 (port + 4) false else s1
  let s1 := if port = 1 ∨ port = 2 then portLink s1 (port - 1) 1 else s1
  (s1.setFlds [(R.CLK.PLL_STAT.SYS_LOCK, 0), (R.CLK.PLL_STAT.CORE_SLOW, 1)]).goPower 1

theorem exec_toDozeComplete (s : State) :
    exec .toDozeComplete s = if s.pstate ≠ 8 then .next s else .next (follow s (dozeEntered s)) := rfl

theorem prev_dozeEntered_strayImage : (dozeEntered strayImage).fld R.PWR.STATE.PREV = 9 := by decide +kernel

/-- Refutes O8: the image of domain 5 in `strayImage`, which no statement keeps to the registers of its own domain, brings back
a power state, and the entry into DOZE then says 9 as the state before. -/
theorem not_powerStateTransitions : ¬ Obligations.PowerStateTransitions := by
  intro h
  obtain ⟨hdoze, -⟩ := h strayImage
  obtain ⟨u, hexec, -, hprev, -⟩ := hdoze (by decide +kernel)
  rw [exec_toDozeComplete, if_neg (by decide +kernel)] at hexec
  have hfollow := Host.Outcome.next.inj hexec
  have hkey : LowKey R.PWR.STATE.PREV.key := .inl (by decide)
  have hstays := (((LowStays.refl (dozeEntered strayImage)).follow strayImage).rd _ hkey).symm.trans
    ((congrArg (fun t => State.rd t R.PWR.STATE.PREV.key) hfollow).trans (((LowStays.refl u).follow strayImage).rd _ hkey))
  have hsame := congrArg R.PWR.STATE.PREV.of hstays
  rw [State.fld_of_rd, State.fld_of_rd, hprev, prev_dozeEntered_strayImage] at hsame
  exact absurd hsame (by decide)

end Sys2Proof.Machine
end

section
/-! The commands CLK and PTP that change the device (R94, R105, R107, R109, R110, R219 to R221). -/

namespace Sys2Proof.Machine

/-- A step in ns that the register PTIn_ADJ holds (R105). -/
theorem toSigned_ofSigned_toSigned (v : Nat) : toSigned 32 (ofSigned 32 (toSigned 32 v)) = toSigned 32 v := by
  have hm := Nat.mod_lt v (show 0 < 2 ^ 32 by decide)
  unfold toSigned ofSigned
  dsimp only
  generalize v % 2 ^ 32 = m at hm
  norm_num at hm ⊢
  split <;> split <;> omega

section
variable {s : State} {ch tag : Nat} {c : Cmd}

theorem clkMcsSet_ends (h : CmdReady s ch tag c 0x0400) (hlen : c.len = 12) (hblk : blockLocked s bCLK = false)
    (hdx : dxMcs s (u8 c.payload 0) = false) (hres : reservedZero c.payload (0 :: span 4 8) = true) (hn : u8 c.payload 0 < 8)
    (hcfg : fwTakes s (R.CLK.MCS_CFG.reg (u8 c.payload 0)) (image32 c.payload 4) = true)
    (hloop : fwTakes s (R.CLK.MCS_LOOP.reg (u8 c.payload 0)) (image32 c.payload 8) = true)
    (hheld : mcsHeldBack s (u8 c.payload 0) (image32 c.payload 4) = false) :
    EndsG (.clkMcsSet ch tag) s ch tag 0x0400 fun u d => d = [] ∧ u = strobe (fwWrites s
      [(R.CLK.MCS_CFG.reg (u8 c.payload 0), image32 c.payload 4), (R.CLK.MCS_LOOP.reg (u8 c.payload 0), image32 c.payload 8)]) 4 := by
  have hbody : mcsSetBody s c.payload = (stOk, [], strobe (fwWrites s
      [(R.CLK.MCS_CFG.reg (u8 c.payload 0), image32 c.payload 4), (R.CLK.MCS_LOOP.reg (u8 c.payload 0), image32 c.payload 8)]) 4) := by
    unfold mcsSetBody
    dsimp only
    rw [if_neg (by simp [hres, hcfg, hloop]; omega), hheld, if_neg Bool.false_ne_true]
  have hrun : execClkMcsSet ch tag s = .next _ := runCmd_endsG h (by simp [hlen]) (by simp [hblk, hdx]) hbody (by decide)
  exact ⟨_, _, hrun, rfl, rfl⟩

theorem clkOutSet_ends (h : CmdReady s ch tag c 0x0401) (hlen : c.len = 8) (hblk : blockLocked s bCLK = false)
    (hw : fwTakes s R.CLK.WCLK_CFG.reg (image32 c.payload 0) = true)
    (hm : fwTakes s R.CLK.MCLK_CFG.reg (image32 c.payload 4) = true) :
    EndsG (.clkOutSet ch tag) s ch tag 0x0401 fun u d => d = [] ∧ u = strobe (fwWrites s
      [(R.CLK.WCLK_CFG.reg, image32 c.payload 0), (R.CLK.MCLK_CFG.reg, image32 c.payload 4)]) 4 := by
  have hrun : execClkOutSet ch tag s = .next _ :=
    runCmd_endsG h (by simp [hlen]) hblk (if_pos (by simp [hw, hm])) (by decide)
  exact ⟨_, _, hrun, rfl, rfl⟩

theorem ptpSet_ends (h : CmdReady s ch tag c 0x0500) (hlen : c.len = 24) (hblk : blockLocked s bTIME = false)
    (hdx : dxPti s (u8 c.payload 0) = false) (hres : reservedZero c.payload (0 :: span 4 18) = true) (hn : u8 c.payload 0 < 4)
    (hcfg : ptiCfgBad (image32 c.payload 4) = false) (hl : [(R.TIME.PTI_SERVO.reg (u8 c.payload 0), image32 c.payload 8),
      (R.TIME.PTI_GUARD.reg (u8 c.payload 0), image32 c.payload 12)].all (fun x => fwTakes s x.1 x.2) = true)
    (hlim : ptiCfgLimit s (u8 c.payload 0) (image32 c.payload 4) = false)
    (hsync : syncOk (bits (image32 c.payload 4).toNat 28 3) (toSigned 8 (u8 c.payload 16)) = true)
    (hlo : 2 ≤ u8 c.payload 19) (hhi : u8 c.payload 19 ≤ 10) :
    EndsG (.ptpSet ch tag) s ch tag 0x0500 fun u d => d = [] ∧ u = strobe (fwWrites
      (s.setPti (u8 c.payload 0) { s.pti (u8 c.payload 0) with msg := (span 16 6).map (u8 c.payload) })
      [(R.TIME.PTI_CFG.reg (u8 c.payload 0), image32 c.payload 4), (R.TIME.PTI_SERVO.reg (u8 c.payload 0), image32 c.payload 8),
        (R.TIME.PTI_GUARD.reg (u8 c.payload 0), image32 c.payload 12)]) 8 := by
  have hmember : stkMember s = false := h.alone (by decide)
  have hbody : ptpSetBody s c.payload = (stOk, [], strobe (fwWrites
      (s.setPti (u8 c.payload 0) { s.pti (u8 c.payload 0) with msg := (span 16 6).map (u8 c.payload) })
      [(R.TIME.PTI_CFG.reg (u8 c.payload 0), image32 c.payload 4), (R.TIME.PTI_SERVO.reg (u8 c.payload 0), image32 c.payload 8),
        (R.TIME.PTI_GUARD.reg (u8 c.payload 0), image32 c.payload 12)]) 8) := by
    unfold ptpSetBody
    dsimp only
    rw [if_neg (by rw [hres, hcfg, hl, hlim, hsync]; simp; omega), hmember, if_neg (by simp)]
  have hrun : execPtpSet ch tag s = .next _ := runCmd_endsG h (by simp [hlen]) (by simp [hblk, hdx]) hbody (by decide)
  exact ⟨_, _, hrun, rfl, rfl⟩

theorem ptpGmQuality_ends (h : CmdReady s ch tag c 0x0502) (hlen : c.len = 6) (hdx : dxPti s (u8 c.payload 0) = false)
    (hn : u8 c.payload 0 < 4) (hx : u8 c.payload 0 < s.ptis.length) :
    EndsG (.ptpGmQuality ch tag) s ch tag 0x0502 fun u d => d = [] ∧ u = { s with ptis := u.ptis } ∧
      (u.pti (u8 c.payload 0)).quality = [u8 c.payload 1, u8 c.payload 2, u8 c.payload 3, u16 c.payload 4] ∧
      (u.pti (u8 c.payload 0)).time = (s.pti (u8 c.payload 0)).time ∧ ∀ m, m ≠ u8 c.payload 0 → u.pti m = s.pti m := by
  have hrun : execPtpGmQuality ch tag s = .next _ := runCmd_endsG h (by simp [hlen]) hdx (if_neg (by omega)) (by decide)
  refine ⟨_, _, hrun, rfl, rfl, ?_, ?_, fun m hm => State.pti_setPti_ne s _ hm⟩
  · rw [State.pti_setPti_self _ hx]
  · rw [State.pti_setPti_self _ hx]

theorem ptpStep_ends {u : State} (h : CmdReady s ch tag c 0x0503) (hlen : c.len = 20) (hblk : blockLocked s bTIME = false)
    (hdx : dxPti s (u8 c.payload 0) = false) (hbody : ptpStepBody s c.payload = (stOk, [], u)) :
    EndsOk (.ptpStep ch tag) s ch tag fun v d => d = [] ∧ v = u := by
  have hrun : execPtpStep ch tag s = .next _ := runCmd_ends h (by simp [hlen]) (by simp [hblk, hdx]) hbody (by decide)
  exact ⟨_, _, hrun, rfl, rfl⟩

theorem ptpStepBody_relative (hres : reservedZero c.payload ([0, 1] ++ span 4 10 ++ span 16 4) = true) (hn : u8 c.payload 0 < 4)
    (hk : u8 c.payload 1 = 0) : ptpStepBody s c.payload = (stOk, [], strobe (fwWrite s (R.TIME.PTI_ADJ.reg (u8 c.payload 0))
      (BitVec.ofNat 32 (ofSigned 32 (toSigned 32 (u32 c.payload 4))))) 8) := by
  unfold ptpStepBody adjStep
  dsimp only
  rw [if_neg (by rw [hres, hk]; simp; omega), if_pos hk, if_pos (toSigned_ofSigned_toSigned _).symm]

theorem ptpStepBody_absolute (hres : reservedZero c.payload ([0, 1] ++ span 4 10 ++ span 16 4) = true) (hn : u8 c.payload 0 < 4)
    (hk : u8 c.payload 1 = 1) (hns : u32 c.payload 16 < 1000000000) (hrole : s.fld (R.TIME.PTI_CFG.ROLE (u8 c.payload 0)) = 2)
    (hsrc : s.fld (R.TIME.PTI_CFG.GM_SRC (u8 c.payload 0)) = 0) : ptpStepBody s c.payload = (stOk, [], adjStep s (u8 c.payload 0)
      (((u48 c.payload 8 * 1000000000 + u32 c.payload 16 : Nat) : Int) - (ptiNs s (u8 c.payload 0) : Int))) := by
  unfold ptpStepBody
  dsimp only
  rw [if_neg (by rw [hres, hk]; simp; omega), if_neg (by omega), if_neg (by simp [hrole, hsrc])]

theorem ptpAsymAdopt_ends {sus : Fld} (h : CmdReady s ch tag c 0x0504) (hlen : c.len = 2) (hblk : blockLocked s bTIME = false)
    (hdx : dxPti s (u8 c.payload 0) = false) (hn : u8 c.payload 0 < 4) (hx : u8 c.payload 1 < 2)
    (hsus : sus = (if u8 c.payload 1 = 0 then R.TIME.PTI_STAT.SUSPECT_NETA (u8 c.payload 0)
      else R.TIME.PTI_STAT.SUSPECT_NETB (u8 c.payload 0))) (hset : s.flag sus = true) :
    EndsG (.ptpAsymAdopt ch tag) s ch tag 0x0504 fun u d => u.fld sus = 0 ∧
      d = leBytes 4 (ofSigned 32 (u.fldInt (R.TIME.PORT_ASYM.ASYM (u8 c.payload 1)))) := by
  have hbody : ∃ v : State, asymAdoptBody s c.payload =
      (stOk, leBytes 4 (ofSigned 32 (v.fldInt (R.TIME.PORT_ASYM.ASYM (u8 c.payload 1)))), v.setFld sus 0) := by
    unfold asymAdoptBody
    dsimp only
    rw [if_neg (by omega), ← hsus, hset, if_neg (by simp)]
    exact ⟨_, rfl⟩
  obtain ⟨v, hbody⟩ := hbody
  have hrun : execPtpAsymAdopt ch tag s = .next _ := runCmd_endsG h (by simp [hlen]) (by simp [hblk, hdx]) hbody (by decide)
  have hne : (R.TIME.PORT_ASYM.ASYM (u8 c.payload 1)).key ≠ sus.key := by
    rw [hsus]
    split <;> simp only [R.TIME.PORT_ASYM.ASYM, R.TIME.PTI_STAT.SUSPECT_NETA, R.TIME.PTI_STAT.SUSPECT_NETB] <;> omega
  have hwide : (sus.lo + sus.w).ble 32 = true := by
    rw [hsus]
    split <;> rfl
  refine ⟨_, _, hrun, State.fld_setFld_mod v sus 0 hwide, ?_⟩
  rw [State.fldInt, State.fldInt, State.fld_setFld_ne v 0 hne]

/-- R211: the MCS and PTI commands that DX may lock. -/
theorem clkPtp_locked {x : Instr × Nat × Nat × Bool}
    (hx : x ∈ [(Instr.clkMcsSet ch tag, 0x0400, 12, dxMcs s (u8 c.payload 0)), (.ptpSet ch tag, 0x0500, 24, dxPti s (u8 c.payload 0)),
      (.ptpGmQuality ch tag, 0x0502, 6, dxPti s (u8 c.payload 0)), (.ptpStep ch tag, 0x0503, 20, dxPti s (u8 c.payload 0)),
      (.ptpAsymAdopt ch tag, 0x0504, 2, dxPti s (u8 c.payload 0))])
    (h : CmdReady s ch tag c x.2.1) (hlen : c.len = x.2.2.1) (hl : x.2.2.2 = true) :
    exec x.1 s = .next (endCmd s ch tag stLocked []) := by
  simp only [List.mem_cons, List.not_mem_nil, or_false] at hx
  have lenOk : (· == x.2.2.1) c.len = true := by simp [hlen]
  have fits : LenFits x.2.1 c := lenFits_of_ne (by rcases hx with rfl | rfl | rfl | rfl | rfl <;> exact Nat.ne_of_beq_eq_false rfl)
  rcases hx with rfl | rfl | rfl | rfl | rfl
  · show execClkMcsSet ch tag s = _; exact runCmd_locked h lenOk fits (by exact (Bool.or_eq_true _ _).mpr (.inr hl))
  · show execPtpSet ch tag s = _; exact runCmd_locked h lenOk fits (by exact (Bool.or_eq_true _ _).mpr (.inr hl))
  · show execPtpGmQuality ch tag s = _; exact runCmd_locked h lenOk fits hl
  · show execPtpStep ch tag s = _; exact runCmd_locked h lenOk fits (by exact (Bool.or_eq_true _ _).mpr (.inr hl))
  · show execPtpAsymAdopt ch tag s = _; exact runCmd_locked h lenOk fits (by exact (Bool.or_eq_true _ _).mpr (.inr hl))

end

/-- Settles O30. -/
theorem clockAndPtpCommands : Obligations.ClockAndPtpCommands := by
  rintro s ch tag c _ rfl
  refine ⟨clkMcsSet_ends, clkOutSet_ends, ptpSet_ends, ptpGmQuality_ends, ?_, ?_, ?_, fun x => clkPtp_locked⟩
  · rintro _ h hlen hblk hdx hres hn hk rfl
    exact ptpStep_ends h hlen hblk hdx (ptpStepBody_relative hres hn hk)
  · intro h hlen hblk hdx hres hn hk hns hrole hsrc
    exact ptpStep_ends h hlen hblk hdx (ptpStepBody_absolute hres hn hk hns hrole hsrc)
  · rintro _ sus h hlen hblk hdx hn rfl hx hsus hset
    exact ptpAsymAdopt_ends h hlen hblk hdx hn hx hsus hset

end Sys2Proof.Machine
end

section
/-! The commands TDM, RT and KRN that change the device (R222, R237, R241 to R243, R254, R262, R263). -/

namespace Sys2Proof.Machine

section Runner
variable {s : State} {ch tag op : Nat} {c : Cmd} {lenOk : Nat → Bool} {locked : State → List Byte → Bool}
  {body : State → List Byte → CmdOut}

/-- `runCmd_endsG` for RT.SET too, whose count fixes its length. -/
theorem runCmd_endsG_counted (h : CmdReady s ch tag c op) (hlen : lenOk c.len = true) (hl : locked s c.payload = false) {d u}
    (hb : body s c.payload = (stOk, d, u)) (hg : isG op = true) (hx : LenFits op c) :
    runCmd op lenOk locked body ch tag s = .next (endCmd (follow s (finishGen (recordWork s u) op ch)) ch tag stOk d) := by
  have hs : settle s op ch (body s c.payload) = (stOk, d, finishGen (recordWork s u) op ch) := by
    rw [hb]
    exact if_pos ⟨rfl, hg⟩
  rw [runCmd_ready h hlen hx hl, hs, if_pos rfl]

/-- A command that may answer ACCEPTED is refused by its checks as any other. -/
theorem runAccepted_locked (h : CmdReady s ch tag c op) (hlen : lenOk c.len = true) (hx : LenFits op c)
    (hl : locked s c.payload = true) : runAccepted op lenOk locked body ch tag s = .next (endCmd s ch tag stLocked []) := by
  have hst : checkCmd s c lenOk locked = stLocked := by rw [checkCmd_ready h hlen hx, if_pos hl]
  unfold runAccepted
  rw [h.taken]
  dsimp only
  rw [if_neg h.runs, hst, if_pos (by decide)]

theorem runAccepted_refuses (h : CmdReady s ch tag c op) (hlen : lenOk c.len = true) (hl : locked s c.payload = false)
    {st d u} (hb : body s c.payload = (st, d, u)) (hst : st ≠ stOk) (hx : LenFits op c) :
    runAccepted op lenOk locked body ch tag s = .next (endCmd s ch tag st d) := by
  have hck : checkCmd s c lenOk locked = 0 := by rw [checkCmd_ready h hlen hx, if_neg (by simp [hl])]
  unfold runAccepted
  rw [h.taken]
  dsimp only
  rw [if_neg h.runs, hck, if_neg (by simp), h.judged, hb]
  dsimp only
  rw [if_neg fun e => hst e.1, if_neg hst]

end Runner

/-! ### What a direction does with ARM and STOP (R237) -/

theorem cmdWrite_arm_of_armed {s : State} {p : Nat} {rx : Bool} (h : s.tdmState p rx = tdmArmed) : cmdWrite s p rx 1#32 = s := by
  have harm : (1#32).getLsbD 0 = true := by decide
  have hstop : (1#32).getLsbD 1 = false := by decide
  unfold cmdWrite
  rw [harm, hstop, h]
  rfl

theorem cmdWrite_stop_of_running {s : State} {p : Nat} {rx : Bool} (h : s.tdmState p rx = tdmRunning) :
    cmdWrite s p rx 2#32 = s.setFld (td (R.TDM.TX_CMD.STOP p) rx) 1 := by
  have harm : (2#32).getLsbD 0 = false := by decide
  have hstop : (2#32).getLsbD 1 = true := by decide
  unfold cmdWrite
  dsimp only
  have hnot : ¬ (tdmRunning = tdmArmed ∧ (!(s.tdm p rx).start.isSome) = true) := fun e => absurd e.1 (by decide)
  rw [harm, hstop, h, if_neg Bool.false_ne_true, if_neg hnot, h]
  rfl

/-! ### A platen set for one fire (R119, R120) -/

/-- From `s` to `t` only platens and registers other than the platens' update groups change. -/
structure PlOnly (s t : State) : Prop where
  frame  : PlFrame s t
  length : t.platens.length = s.platens.length
  upd    : ∀ j, t.fld (R.TIME.PL_GROUPS.UPD j) = s.fld (R.TIME.PL_GROUPS.UPD j)

namespace PlOnly
variable {s t : State} (h : PlOnly s t)

theorem refl (s : State) : PlOnly s s := ⟨rfl, rfl, fun _ => rfl⟩

include h

theorem setFld {f : Fld} (v : Nat) (hf : ∀ j, (R.TIME.PL_GROUPS.UPD j).key ≠ f.key) : PlOnly s (t.setFld f v) :=
  ⟨h.frame.setFld f v, h.length, fun j => (State.fld_setFld_ne t v (hf j)).trans (h.upd j)⟩

theorem wr {k : Nat} (v : Word) (hk : ∀ j, (R.TIME.PL_GROUPS.UPD j).key ≠ k) : PlOnly s (t.wr k v) := by
  refine ⟨?_, h.length, fun j => (State.fld_wr_ne t v (hk j)).trans (h.upd j)⟩
  have hf := h.frame
  unfold PlFrame at hf ⊢
  rw [show t.wr k v = { t with rf := (t.wr k v).rf } from rfl]
  generalize (t.wr k v).rf = r
  rw [hf]

theorem setPl (k : Nat) (p : Platen) : PlOnly s (t.setPl k p) := by
  refine ⟨?_, (length_modifyAt ..).trans h.length, h.upd⟩
  have hf := h.frame
  unfold PlFrame at hf ⊢
  rw [hf]
  rfl

theorem plCfgWrite (k : Nat) (v : Word) : PlOnly s (plCfgWrite t k v) := by
  have hcfg : ∀ j, (R.TIME.PL_GROUPS.UPD j).key ≠ R.TIME.PL_CFG.reg k := fun j => by
    simp only [R.TIME.PL_GROUPS.UPD, R.TIME.PL_CFG.reg]; omega
  have hbad : ∀ j, (R.TIME.PL_GROUPS.UPD j).key ≠ (R.TIME.PL_STAT.BAD k).key := fun j => by
    simp only [R.TIME.PL_GROUPS.UPD, R.TIME.PL_STAT.BAD]; omega
  have hlate : ∀ j, (R.TIME.PL_GROUPS.UPD j).key ≠ (R.TIME.PL_STAT.LATE k).key := fun j => by
    simp only [R.TIME.PL_GROUPS.UPD, R.TIME.PL_STAT.LATE]; omega
  unfold Machine.plCfgWrite
  dsimp only
  generalize v &&& 0xFF0FFCFF#32 = w
  split
  · exact h.wr _ hcfg
  · split
    · exact (h.wr _ hcfg).setFld 1 hbad
    · split
      · exact h.wr _ hcfg
      · split
        · exact (h.wr _ hcfg).setFld 1 hbad
        · split
          · exact (h.wr _ hcfg).setFld 1 hlate
          · exact (h.setPl k _).wr _ hcfg

theorem firePlaten (k pti raw acts : Nat) : PlOnly s (firePlaten t k pti raw acts) := by
  have hkey : ∀ j, (R.TIME.PL_GROUPS.UPD j).key ≠ (R.TIME.PL_T_SEC_HI.VALUE k).key ∧
      (R.TIME.PL_GROUPS.UPD j).key ≠ (R.TIME.PL_T_SEC_LO.VALUE k).key ∧
      (R.TIME.PL_GROUPS.UPD j).key ≠ (R.TIME.PL_T_NS.VALUE k).key ∧ (R.TIME.PL_GROUPS.UPD j).key ≠ (R.TIME.PL_STAT.LATE k).key ∧
      (R.TIME.PL_GROUPS.UPD j).key ≠ (R.TIME.PL_STAT.STEP_MISS k).key ∧
      (R.TIME.PL_GROUPS.UPD j).key ≠ (R.TIME.PL_STAT.BAD k).key := fun j => by
    simp only [R.TIME.PL_GROUPS.UPD, R.TIME.PL_T_SEC_HI.VALUE, R.TIME.PL_T_SEC_LO.VALUE, R.TIME.PL_T_NS.VALUE,
      R.TIME.PL_STAT.LATE, R.TIME.PL_STAT.STEP_MISS, R.TIME.PL_STAT.BAD]
    omega
  exact ((((((((h.setPl k _).setFld _ fun j => (hkey j).1).setFld _ fun j => (hkey j).2.1).setFld _ fun j => (hkey j).2.2.1).setFld
    0 fun j => (hkey j).2.2.2.1).setFld 0 fun j => (hkey j).2.2.2.2.1).setFld 0 fun j => (hkey j).2.2.2.2.2)).plCfgWrite k _

end PlOnly

/-! ### The commands -/

section
variable {s : State} {ch tag : Nat} {c : Cmd}

theorem tdmSet_ends {g : Nat} (h : CmdReady s ch tag c 0x0600) (hlen : c.len = 20)
    (hblk : blockLocked s (32 + u8 c.payload 0) = false) (hdx : dxPort s (u8 c.payload 0) = false)
    (hco : (coDx s && u8 c.payload 17 == 15) = false) (hbad : tdmSetBad s c.payload = false)
    (hg : setAlign s c.payload (u8 c.payload 0) (u8 c.payload 1 == 0) = some g)
    (hrun : dirStopped s (u8 c.payload 0) (u8 c.payload 1 == 0) = true ∨
      ((tdmImages s c.payload g).take 3).any (fun x => s.rd x.1 != x.2) = false) :
    EndsG (.tdmSet ch tag) s ch tag 0x0600 fun u d => d = [] ∧ u = applyGroup (strobe (fwWrites s (tdmImages s c.payload g))
      (2 ^ (4 + u8 c.payload 0 / 8))) (4 + u8 c.payload 0 / 8) := by
  have hk : u8 c.payload 0 < 16 := by
    have hb := hbad
    simp only [tdmSetBad, Bool.or_eq_false_iff, decide_eq_false_iff_not] at hb
    omega
  have hmay : ¬ (!dirStopped s (u8 c.payload 0) (u8 c.payload 1 == 0) ∧
      (((tdmImages s c.payload g).take 3).any fun x => s.rd x.1 != x.2) = true) := by
    rintro ⟨hstop, hany⟩
    rcases hrun with hr | hr
    · simp [hr] at hstop
    · rw [hr] at hany
      cases hany
  have hbody : tdmSetBody s c.payload = (stOk, [], applyGroup (strobe (fwWrites s (tdmImages s c.payload g))
      (2 ^ (4 + u8 c.payload 0 / 8))) (4 + u8 c.payload 0 / 8)) := by
    unfold tdmSetBody
    dsimp only
    rw [hbad, if_neg Bool.false_ne_true, hg]
    exact if_neg hmay
  have hexec : execTdmSet ch tag s = .next _ := runCmd_endsG h (by simp [hlen])
    (by rw [Nat.mod_eq_of_lt hk, hblk, hdx, hco]; rfl) hbody (by decide)
  exact ⟨_, _, hexec, rfl, rfl⟩

theorem lt_of_namedDirs {tx rx i : Nat} (h : namedDirs tx rx = [i]) : i < 32 := by
  have hm : i ∈ namedDirs tx rx := by rw [h]; exact List.mem_singleton_self i
  exact List.mem_range.1 (List.mem_filter.1 hm).1

theorem startPlatens_named {pl : Nat} (hpl : pl < 16) (hfree : platenFree s pl = true) : startPlatens s pl 1 = some [pl] := by
  unfold startPlatens
  dsimp only
  rw [if_neg (show ¬ pl = 0xFF by omega), if_pos hfree, List.length_cons, if_neg (Nat.not_lt.mpr (Nat.le_add_left 1 _))]
  rfl

/-- The one direction a TDM.START names is armed already. -/
theorem tdmStartBody_single {i pl : Nat} (hds : namedDirs (u16 c.payload 0) (u16 c.payload 2) = [i])
    (hst : s.tdmState (dirPort i) (dirRx i) = tdmArmed)
    (hres : reservedZero c.payload (span 0 6 ++ span 8 6 ++ span 16 4) = true) (hpti : u8 c.payload 4 = 0)
    (hsec : u48 c.payload 8 = 0) (hns : u32 c.payload 16 = 0) (hnamed : u8 c.payload 5 = pl) (hpl : pl < 16)
    (hfree : platenFree s pl = true) (halone : ∀ j, j < 32 → j ≠ i → s.tdmState (dirPort j) (dirRx j) < tdmReady) :
    tdmStartBody s c.payload = (stOk, [byteOf pl, 0, 0, 0] ++ leBytes 4 ((s.ptiRaw 0 + 2000000 * nsUnit) / nsUnit % 1000000000),
      firePlaten s pl 0 (s.ptiRaw 0 + 2000000 * nsUnit)
        (2 ^ 25 + s.fld (td (R.TDM.TX_FMT.ALIGN (dirPort i)) (dirRx i)) * 2 ^ 16)) := by
  have hleft : ((List.range 32).any fun j => !([i].contains j) && decide (tdmReady ≤ s.tdmState (dirPort j) (dirRx j)) &&
      (groupsTouched s [i]).contains (s.fld (td (R.TDM.TX_FMT.ALIGN (dirPort j)) (dirRx j)))) = false := by
    rw [List.any_eq_false]
    intro j hj
    by_cases he : j = i
    · simp [he]
    · simp [Nat.not_le.mpr (halone j (List.mem_range.1 hj) he)]
  have htime : startTime s 0 0 0 = s.ptiRaw 0 + 2000000 * nsUnit := if_pos ⟨rfl, rfl⟩
  unfold tdmStartBody
  dsimp only
  rw [hds, hpti, hsec, hns, hnamed, htime, hleft, hres, if_neg (by simp [nsUnit]; omega), if_neg (by simp [hst]),
    List.foldl_cons, List.foldl_nil, cmdWrite_arm_of_armed hst, if_neg (by simp [hst]),
    show (groupsTouched s [i]).length = 1 from rfl, startPlatens_named hpl hfree]
  rfl

theorem tdmStart_ends {pl : Nat} (h : CmdReady s ch tag c 0x0601) (hlen : c.len = 20) (hl : dirsLocked s c.payload = false)
    (hown : hostOwns s bTIME = false) {d : List Byte} {u : State} (hbody : tdmStartBody s c.payload = (stOk, [byteOf pl, 0, 0, 0] ++ d, u)) :
    EndsOk (.tdmStart ch tag) s ch tag fun v e => v = u ∧ e.take 4 = [byteOf pl, 0, 0, 0] := by
  have hrun : execTdmStart ch tag s = .next _ := runCmd_ends h (by simp [hlen]) (by simp [hl, hown]) hbody (by decide)
  exact ⟨_, _, hrun, rfl, rfl⟩

theorem tdmStop_accepts {i : Nat} (h : CmdReady s ch tag c 0x0602) (hlen : c.len = 4) (hl : dirsLocked s c.payload = false)
    (hds : namedDirs (u16 c.payload 0) (u16 c.payload 2) = [i]) (hst : s.tdmState (dirPort i) (dirRx i) = tdmRunning) :
    Accepts (.tdmStop ch tag) s ch tag fun u => u = s.setFld (td (R.TDM.TX_CMD.STOP (dirPort i)) (dirRx i)) 1 := by
  have hrun : execTdmStop ch tag s = .next _ :=
    runAccepted_accepts h (by simp [hlen]) hl rfl (lenFits_of_ne (by decide))
  refine ⟨_, hrun, ?_⟩
  rw [hds]
  exact cmdWrite_stop_of_running hst

/-! ### RT.SET with one entry (R222, R254) -/

theorem rtFirst_one (f : Nat → Option Nat) : rtFirst 1 f = (f 0).map fun r => (0, r) := by
  unfold rtFirst
  rw [show List.range 1 = [0] from rfl, List.findSome?_cons]
  cases f 0 <;> rfl

theorem rtJudge_first (s : State) (p : List Byte) : rtJudge s p 0 = impJudge s (rtDest p 0) (rtWord p 0) := rfl

/-- A route's entries wait for the fire of a platen (R222). -/
def routed (s : State) (k pti t ch tag : Nat) : State :=
  let s2 := firePlaten (s.setFld (R.TIME.PL_GROUPS.UPD k) 2) k pti t (2 ^ 26)
  let s3 := s2.setPl k { s2.pl k with owner := 1 }
  { s3 with fw := { s3.fw with route := some (k, ch, tag) } }

/-- The platen `k` given to a route. -/
def routeOwned (s : State) (k : Nat) (r : Option (Nat × Nat × Nat)) : State :=
  let s3 := s.setPl k { s.pl k with owner := 1 }
  { s3 with fw := { s3.fw with route := r } }

theorem routed_eq (s : State) (k pti t ch tag : Nat) : routed s k pti t ch tag =
    routeOwned (firePlaten (s.setFld (R.TIME.PL_GROUPS.UPD k) 2) k pti t (2 ^ 26)) k (some (k, ch, tag)) := rfl

theorem routeOwned_owner {s : State} {k : Nat} (r : Option (Nat × Nat × Nat)) (h : k < s.platens.length) :
    ((routeOwned s k r).pl k).owner = 1 := congrArg Platen.owner (pl_setPl_self _ h)

theorem routeOwned_leaves (s : State) (k : Nat) (r : Option (Nat × Nat × Nat)) : (routeOwned s k r).fw.route = r ∧
    (routeOwned s k r).impo = s.impo ∧ (routeOwned s k r).rf = s.rf ∧ (routeOwned s k r).cap = s.cap := ⟨rfl, rfl, rfl, rfl⟩

/-- What RT.SET does with its one entry once that is judged good, for the platen or at once. -/
theorem rtSetBody_one {a : Nat} {w : Word} (hdx : (coDx s && dxDest a) = false) (hn : u16 c.payload 0 = 1)
    (hres : reservedZero c.payload (span 0 10 ++ span 12 4 ++ span 16 6) = true) (hlow : u8 c.payload 20 < 4)
    (ha : rtDest c.payload 0 = a) (hw : rtWord c.payload 0 = w) (hj : impJudge s a w = none)
    (hk : ¬ (u8 c.payload 2 ≠ 0xFF ∧ (15 < u8 c.payload 2 ∨ 3 < u8 c.payload 3 ∨ 1000000000 ≤ u32 c.payload 12 ∨
      (u48 c.payload 4 * 1000000000 + u32 c.payload 12) * nsUnit < s.ptiRaw (u8 c.payload 3) + 1000000 * nsUnit ∨
      s.ptiRaw (u8 c.payload 3) + 10000000000 * nsUnit < (u48 c.payload 4 * 1000000000 + u32 c.payload 12) * nsUnit)))
    (hfree : ¬ (u8 c.payload 2 ≠ 0xFF ∧ platenFree s (u8 c.payload 2) = false)) :
    rtSetBody ch tag s c.payload =
      if u8 c.payload 2 = 0xFF then (stOk, rtBad 0xFFFF 0, strobe (impWrite s a w) 2)
      else (stOk, [], routed (impWrite s a w) (u8 c.payload 2) (u8 c.payload 3)
        ((u48 c.payload 4 * 1000000000 + u32 c.payload 12) * nsUnit) ch tag) := by
  have hresv : reservedZero c.payload (span 0 10 ++ span 12 4 ++ (List.range 1).flatMap fun i => span (16 + 8 * i) 6) = true := hres
  have hany : ((List.range 1).any fun i => decide (4 ≤ u8 c.payload (20 + 8 * i))) = false := by
    rw [show List.range 1 = [0] from rfl]
    simp only [List.any_cons, List.any_nil, Bool.or_false, decide_eq_false_iff_not]
    exact Nat.not_le.mpr hlow
  unfold rtSetBody
  dsimp only
  rw [hn, rtFirst_one, ha, hdx, if_neg Bool.false_ne_true]
  dsimp only [Option.map]
  rw [hresv, hany, if_neg (by simp), if_neg hk, rtFirst_one, rtJudge_first, ha, hw, hj]
  dsimp only [Option.map]
  rw [if_neg hfree, show List.range 1 = [0] from rfl, List.foldl_cons, List.foldl_nil, ha, hw]
  rfl

theorem execRtSet_of_taken (h : takenCmd s ch tag = some c) : execRtSet ch tag s =
    if u8 c.payload 2 = 0xFF then runCmd 0x0700 rtLen rtLocked (rtSetBody ch tag) ch tag s
    else runAccepted 0x0700 rtLen rtLocked (rtSetBody ch tag) ch tag s := by
  unfold execRtSet
  rw [h]

theorem rtSet_ends {a : Nat} {w : Word} (h : CmdReady s ch tag c 0x0700) (hlen : c.len = 24) (hl : rtLocked s c.payload = false)
    (hdx : (coDx s && dxDest a) = false) (hn : u16 c.payload 0 = 1) (hk : u8 c.payload 2 = 0xFF)
    (hres : reservedZero c.payload (span 0 10 ++ span 12 4 ++ span 16 6) = true) (hlow : u8 c.payload 20 < 4)
    (ha : rtDest c.payload 0 = a) (hw : rtWord c.payload 0 = w) (hj : impJudge s a w = none) :
    EndsG (.rtSet ch tag) s ch tag 0x0700 fun u d => u = strobe (impWrite s a w) 2 ∧ d = [0xFF, 0xFF, 0, 0] := by
  have hbody := (rtSetBody_one (ch := ch) (tag := tag) hdx hn hres hlow ha hw hj (by simp [hk]) (by simp [hk])).trans (if_pos hk)
  have hrun : execRtSet ch tag s = .next _ := (execRtSet_of_taken h.taken).trans ((if_pos hk).trans
    (runCmd_endsG_counted h (by rw [hlen]; decide) hl hbody (by decide) fun _ => by rw [hlen, hn]))
  exact ⟨_, _, hrun, rfl, rfl⟩

theorem imp_impWrite {a : Nat} {w : Word} (hj : impJudge s a w = none) : ((impWrite s a w).imp a).shadow = w := by
  unfold impWrite
  rw [hj]
  exact congrArg ImpEntry.shadow (sGet_put_self ..)

theorem impWrite_good {a : Nat} {w : Word} (hj : impJudge s a w = none) :
    impWrite s a w = { s with impo := (impWrite s a w).impo } := by
  unfold impWrite
  rw [hj]
  rfl

theorem rtSet_accepts {a pl : Nat} {w : Word} (h : CmdReady s ch tag c 0x0700) (hlen : c.len = 24)
    (hl : rtLocked s c.payload = false) (hdx : (coDx s && dxDest a) = false) (hn : u16 c.payload 0 = 1) (hk : u8 c.payload 2 = pl)
    (hpl : pl < 16) (hfree : platenFree s pl = true) (hpti : u8 c.payload 3 < 4) (hns : u32 c.payload 12 < 1000000000)
    (hres : reservedZero c.payload (span 0 10 ++ span 12 4 ++ span 16 6) = true)
    (hlo : s.ptiRaw (u8 c.payload 3) + 1000000 * nsUnit ≤ (u48 c.payload 4 * 1000000000 + u32 c.payload 12) * nsUnit)
    (hhi : (u48 c.payload 4 * 1000000000 + u32 c.payload 12) * nsUnit ≤ s.ptiRaw (u8 c.payload 3) + 10000000000 * nsUnit)
    (hlow : u8 c.payload 20 < 4) (ha : rtDest c.payload 0 = a) (hw : rtWord c.payload 0 = w) (hj : impJudge s a w = none)
    (hx : pl < s.platens.length) :
    Accepts (.rtSet ch tag) s ch tag fun u => u.fw.route = some (pl, ch, tag) ∧ (u.pl pl).owner = 1 ∧
      (u.imp a).shadow = w ∧ u.fld (R.TIME.PL_GROUPS.UPD pl) = 2 ∧ u.cap = s.cap := by
  subst hk
  have hne : u8 c.payload 2 ≠ 0xFF := by omega
  have hbody := (rtSetBody_one (ch := ch) (tag := tag) hdx hn hres hlow ha hw hj (by omega) (by simp [hfree])).trans (if_neg hne)
  have hrun : execRtSet ch tag s = .next _ := (execRtSet_of_taken h.taken).trans ((if_neg hne).trans
    (runAccepted_accepts h (by rw [hlen]; decide) hl hbody fun _ => by rw [hlen, hn]))
  have hpre := impWrite_good hj
  have himp := imp_impWrite hj
  rw [routed_eq] at hrun
  generalize impWrite s a w = s1 at hpre himp hrun
  have hframe := setFld_frame s1 (R.TIME.PL_GROUPS.UPD (u8 c.payload 2)) 2
  have hset := State.fld_setFld_mod s1 (R.TIME.PL_GROUPS.UPD (u8 c.payload 2)) 2 rfl
  generalize s1.setFld (R.TIME.PL_GROUPS.UPD (u8 c.payload 2)) 2 = s2 at hframe hset hrun
  have hfire := (PlOnly.refl s2).firePlaten (u8 c.payload 2) (u8 c.payload 3)
    ((u48 c.payload 4 * 1000000000 + u32 c.payload 12) * nsUnit) (2 ^ 26)
  generalize firePlaten s2 (u8 c.payload 2) (u8 c.payload 3) _ (2 ^ 26) = s3 at hfire hrun
  obtain ⟨hfr, hlen3, hupd⟩ := hfire
  obtain ⟨hroute, himpo, hrf, hcap⟩ := routeOwned_leaves s3 (u8 c.payload 2) (some (u8 c.payload 2, ch, tag))
  refine ⟨_, hrun, hroute, routeOwned_owner _ ?_, ?_, ?_, ?_⟩
  · rw [hlen3, hframe, hpre]
    exact hx
  · rw [State.imp, himpo, hfr, hframe]
    exact himp
  · exact (State.fld_of_rf_eq hrf _).trans ((hupd _).trans hset)
  · rw [hcap, hfr, hframe, hpre]

theorem rtSet_locked {a : Nat} (h : CmdReady s ch tag c 0x0700) (hlen : c.len = 24) (hl : rtLocked s c.payload = false)
    (hco : coDx s = true) (hdx : dxDest a = true) (hn : u16 c.payload 0 = 1) (ha : rtDest c.payload 0 = a) :
    exec (.rtSet ch tag) s = .next (endCmd s ch tag stLocked [0, 0, 4, 0]) := by
  have hbody : rtSetBody ch tag s c.payload = (stLocked, rtBad 0 4, s) := by
    unfold rtSetBody
    dsimp only
    rw [hn, rtFirst_one, ha, hco, hdx]
    rfl
  have hfit : LenFits 0x0700 c := fun _ => by rw [hlen, hn]
  show execRtSet ch tag s = _
  rw [execRtSet_of_taken h.taken]
  split
  · exact runCmd_refuses h (by rw [hlen]; decide) hl hbody (by decide) hfit
  · exact runAccepted_refuses h (by rw [hlen]; decide) hl hbody (by decide) hfit

/-! ### KRN.SET (R222, R262) -/

theorem krnSet_ends (h : CmdReady s ch tag c 0x0800) (hlen : c.len = 4) (hblk : blockLocked s bKRN = false)
    (ha : u8 c.payload 1 < 8) (hb : u8 c.payload 2 < 8) (hm : u8 c.payload 3 ≤ 2)
    (hruns : u8 c.payload 3 ≠ 0 → s.mcsRuns (u8 c.payload 1) = true ∧ s.mcsRuns (u8 c.payload 2) = true)
    (hup : s.mcsFs (u8 c.payload 1) ≤ s.mcsFs (u8 c.payload 2) * 4) (hdown : s.mcsFs (u8 c.payload 2) ≤ s.mcsFs (u8 c.payload 1) * 4)
    (hfree : laneUsed s (u8 c.payload 0) = false) : EndsG (.krnSet ch tag) s ch tag 0x0800 fun u d => d = [] ∧
      u = applyGroup (strobe (fwWrite s (R.KRN.L_CFG.reg (u8 c.payload 0)) (insFlds 0
        [(R.KRN.L_CFG.MODE (u8 c.payload 0), u8 c.payload 3), (R.KRN.L_CFG.OUT_MCS (u8 c.payload 0), u8 c.payload 2),
          (R.KRN.L_CFG.IN_MCS (u8 c.payload 0), u8 c.payload 1)])) 0x100) 8 := by
  have hphase : ¬ (u8 c.payload 3 ≠ 0 ∧ (!(s.mcsRuns (u8 c.payload 1) && s.mcsRuns (u8 c.payload 2))) = true) := fun ⟨hz, hn⟩ => by
    simp [hruns hz] at hn
  have hbody : krnSetBody s c.payload = (stOk, [], applyGroup (strobe (fwWrite s (R.KRN.L_CFG.reg (u8 c.payload 0)) (insFlds 0
        [(R.KRN.L_CFG.MODE (u8 c.payload 0), u8 c.payload 3), (R.KRN.L_CFG.OUT_MCS (u8 c.payload 0), u8 c.payload 2),
          (R.KRN.L_CFG.IN_MCS (u8 c.payload 0), u8 c.payload 1)])) 0x100) 8) := by
    unfold krnSetBody
    dsimp only
    rw [if_neg (by omega), hfree, if_neg]
    · rfl
    · rintro (⟨hf, -⟩ | hp)
      · exact absurd hf Bool.false_ne_true
      · exact hphase hp
  have hrun : execKrnSet ch tag s = .next _ := runCmd_endsG h (by simp [hlen]) hblk hbody (by decide)
  exact ⟨_, _, hrun, rfl, rfl⟩

/-- R211: the TDM commands over ports that DX owns. -/
theorem tdm_locked {x : Instr × Nat × Nat × Bool}
    (hx : x ∈ [(Instr.tdmSet ch tag, 0x0600, 20, dxPort s (u8 c.payload 0) || (coDx s && u8 c.payload 17 == 15)),
      (.tdmStart ch tag, 0x0601, 20, dirsLocked s c.payload), (.tdmStop ch tag, 0x0602, 4, dirsLocked s c.payload)])
    (h : CmdReady s ch tag c x.2.1) (hlen : c.len = x.2.2.1) (hl : x.2.2.2 = true) :
    exec x.1 s = .next (endCmd s ch tag stLocked []) := by
  simp only [List.mem_cons, List.not_mem_nil, or_false] at hx
  have lenOk : (· == x.2.2.1) c.len = true := by simp [hlen]
  have fits : LenFits x.2.1 c := lenFits_of_ne (by rcases hx with rfl | rfl | rfl <;> exact Nat.ne_of_beq_eq_false rfl)
  rcases hx with rfl | rfl | rfl
  · show execTdmSet ch tag s = _
    refine runCmd_locked h lenOk fits ?_
    dsimp only at hl ⊢
    rw [Bool.or_assoc, hl, Bool.or_true]
  · show execTdmStart ch tag s = _
    refine runCmd_locked h lenOk fits ?_
    dsimp only at hl ⊢
    rw [hl, Bool.true_or]
  · show execTdmStop ch tag s = _
    exact runAccepted_locked h lenOk fits hl

end

/-- Settles O31. -/
theorem tdmRouteAndKerningCommands : Obligations.TdmRouteAndKerningCommands := by
  rintro s ch tag c _ rfl
  refine ⟨fun _ => tdmSet_ends, ?_, fun _ => tdmStop_accepts, fun _ _ => rtSet_ends, fun _ _ _ => rtSet_accepts, krnSet_ends,
    fun _ => tdm_locked, fun _ => rtSet_locked⟩
  intro i pl h hlen hl hown hds hst _ hres hpti hsec hns hnamed hpl hfree halone
  exact tdmStart_ends h hlen hl hown (tdmStartBody_single hds hst hres hpti hsec hns hnamed hpl hfree halone)

end Sys2Proof.Machine
end

section
/-! What drops of the galley touch (R274, R280, R281), and the flow commands RXF, TXF, SDP and RED (R223, R224, R265, R297 to
R299, R306, R318, R321, R326, R348). -/

namespace Sys2Proof.Machine

/-! ### Drops -/

/-- The fields a drop in queue `q` may write. -/
def dropFlds (q : Nat) : List Fld := [R.GAL.Q_DROPS.COUNT q, R.GAL.Q_STAT.Q_SAT q, R.GAL.DROP_CNT.COUNT, R.GAL.SAT.SAT_F,
  R.GAL.EVT.DROP, R.GAL.INJECT.ARM]

section
variable {l : List Fld} {s t : State} (h : Touches l s t)
include h

theorem touches_countSatN {f sat : Fld} (n i : Nat) (hf : f ∈ l) (hs : sat ∈ l) : Touches l s (t.countSatN f n sat i) :=
  touches_ite (touches_setFld hs (touches_setFld hf h)) (touches_setFld hf h)

theorem touches_setGq (q : Nat) (x : GQueue) : Touches l s (t.setGq q x) := touches_rf rfl h

theorem touches_countDrops {q : Nat} (n : Nat) (hl : ∀ f ∈ dropFlds q, f ∈ l) : Touches l s (countDrops t q n) := by
  have h1 : Touches l s (t.countN (R.GAL.Q_DROPS.COUNT q) n) := touches_setFld (hl _ (by simp [dropFlds])) h
  have h2 := touches_countSatN (touches_ite (touches_setFld (v := 1) (hl (R.GAL.Q_STAT.Q_SAT q) (by simp [dropFlds])) h1) h1
    (c := (t.countN (R.GAL.Q_DROPS.COUNT q) n).fld (R.GAL.Q_DROPS.COUNT q) = 0xFFFFFFFF)) n 4
    (hl R.GAL.DROP_CNT.COUNT (by simp [dropFlds])) (hl R.GAL.SAT.SAT_F (by simp [dropFlds]))
  exact touches_ite h2 (touches_setFld (hl _ (by simp [dropFlds])) h2)

theorem touches_spill (cs : List CellNo) (b : List Byte) : Touches l s (spill t cs b) := by
  induction cs generalizing t b with
  | nil => exact h
  | cons c cs ih =>
    unfold spill
    refine ih ?_ _
    exact touches_rf rfl h

theorem touches_spillAll (es : List GElem) : Touches l s (es.foldl spillElem t) := by
  induction es generalizing t with
  | nil => exact h
  | cons e es ih => exact ih (touches_spill h e.cells e.bytes)

theorem touches_storeMark (c : CellNo) (w : Nat) (hl : R.GAL.INJECT.ARM ∈ l) : Touches l s (storeMark t c w) := by
  unfold storeMark
  dsimp only
  split
  · exact touches_rf (t := t.setFld R.GAL.INJECT.ARM 0) rfl (touches_setFld hl h)
  · exact touches_rf rfl h

theorem touches_placeSlugIn (i q n folio ts reason : Nat) (merged own : Bool) (hl : R.GAL.INJECT.ARM ∈ l) :
    Touches l s (placeSlugIn t i q n folio ts reason merged own) := by
  have hcell : Touches l s (takeCell t i).2 := touches_rf rfl h
  unfold placeSlugIn
  generalize takeCell t i = c at hcell
  exact touches_setGq (touches_storeMark (touches_storeMark hcell _ _ hl) _ _ hl) _ _

theorem touches_galDiscard {q : Nat} (reason : Nat) (hl : ∀ f ∈ dropFlds q, f ∈ l) : Touches l s (galDiscard t q reason) := by
  have harm : R.GAL.INJECT.ARM ∈ l := hl _ (by simp [dropFlds])
  unfold galDiscard galDiscardIn
  dsimp only
  refine touches_setGq (touches_ite ?_ (touches_placeSlugIn ?_ _ _ _ _ _ _ _ _ harm)) q _
  · exact touches_countDrops (touches_setGq (touches_spillAll (touches_spillAll h _) _) q _) _ hl
  · exact touches_countDrops (touches_setGq (touches_spillAll (touches_spillAll h _) _) q _) _ hl

theorem touches_galRefresh (hl : R.GAL.EVT.LOW ∈ l) : Touches l s (galRefresh t) := touches_setFlag hl h

theorem touches_dropKey (i : Nat) (hl : R.RXF.CLS_STAT.KEYS ∈ l) : Touches l s (dropKey t i) := by
  have hoff : nbit (t.key i 0 &&& 0x7FFFFFFF#32).toNat 31 = false := by
    rw [nbit_toNat, BitVec.getLsbD_and]
    simp
  unfold dropKey keyWrite
  dsimp only
  rw [hoff, if_neg (by simp), if_pos (by simp)]
  exact touches_setFld hl (touches_rf rfl h)

theorem touches_dropPathKeys (f x : Nat) (hl : R.RXF.CLS_STAT.KEYS ∈ l) : Touches l s (dropPathKeys t f x) := by
  unfold dropPathKeys
  generalize List.filter _ t.cls = ps
  induction ps generalizing t with
  | nil => exact h
  | cons p ps ih => exact ih (touches_dropKey h _ hl)

end

/-! ### Flows made and deleted (R224, R265, R306, R318, R326) -/

section
variable {s : State} {ch tag : Nat} {c : Cmd}

theorem fld_keepRx (s : State) (f : Nat) (p leg : List Byte) (g : Fld) : (keepRx s f p leg).fld g = s.fld g := rfl

theorem work_keepRx (s : State) (f : Nat) (p leg : List Byte) : sGet (fun _ => []) (keepRx s f p leg).fw.work.rx f = p :=
  sGet_put_self ..

/-- What a receive flow that was made tells of its record and of the state before. -/
theorem rxCreate_ok {p leg d : List Byte} {off : Nat} {u : State} (h : rxCreate s p leg off = (stOk, d, u)) :
    u.fld (R.RXF.F_STAT.STATE (u8 p 0)) ≠ 0 ∧ s.fld (R.RXF.F_STAT.STATE (u8 p 0)) = 0 ∧ s.mcsRuns (frMcs p) = true ∧
      sGet (fun _ => []) u.fw.work.rx (u8 p 0) = p := by
  have hrefused {st : Nat} (hst : st ≠ stOk) (he : refuse s st = (stOk, d, u)) : False := hst (congrArg Prod.fst he)
  unfold rxCreate at h
  dsimp only at h
  split at h
  · exact (hrefused (by decide) h).elim
  split at h
  · exact (hrefused (by decide) h).elim
  next hphase =>
  split at h
  · exact (hrefused (by decide) h).elim
  split at h
  · exact (hrefused (by decide) h).elim
  generalize rxImages s p _ off = l at h
  split at h
  · exact (hrefused (by decide) h).elim
  split at h
  · exact (hrefused (by decide) h).elim
  split at h
  · exact (hrefused (by decide) h).elim
  next hmade =>
  have hu := congrArg (fun o : CmdOut => o.2.2) h
  dsimp only at hu
  simp only [ne_eq, Bool.not_eq_true', not_or, Bool.not_eq_false, Decidable.not_not] at hphase
  refine ⟨?_, hphase.1, hphase.2, ?_⟩
  · rw [← hu, fld_keepRx]
    exact hmade
  · rw [← hu]
    exact work_keepRx ..

theorem txCreateBody_ok {mac src p d : List Byte} {u : State} (h : txCreateBody mac src s p = (stOk, d, u)) :
    s.fld (R.TXF.F_STAT.STATE (u8 p 0)) = 0 ∧ s.mcsRuns (frMcs p) = true ∧ sGet (fun _ => []) u.fw.work.tx (u8 p 0) = p := by
  have hrefused {st : Nat} (hst : st ≠ stOk) (he : refuse s st = (stOk, d, u)) : False := hst (congrArg Prod.fst he)
  unfold txCreateBody at h
  dsimp only at h
  split at h
  · exact (hrefused (by decide) h).elim
  split at h
  · exact (hrefused (by decide) h).elim
  next hphase =>
  split at h
  · exact (hrefused (by decide) h).elim
  split at h
  · exact (hrefused (by decide) h).elim
  split at h
  · exact (hrefused (by decide) h).elim
  split at h
  · exact (hrefused (by decide) h).elim
  have hu := congrArg (fun o : CmdOut => o.2.2) h
  dsimp only at hu
  simp only [ne_eq, Bool.not_eq_true', not_or, Bool.not_eq_false, Decidable.not_not] at hphase
  refine ⟨hphase.1, hphase.2, ?_⟩
  rw [← hu]
  exact sGet_put_self ..

theorem rxfCreate_ends {d : List Byte} {u : State} (h : CmdReady s ch tag c 0x0900) (hlen : c.len = 48)
    (hl : rxLocked s c.payload = false) (hok : rxCreate s c.payload [] 0 = (stOk, d, u)) :
    EndsG (.rxfCreate ch tag) s ch tag 0x0900 (fun x e => x = u ∧ e = d) := by
  have hrun : execRxfCreate ch tag s = .next _ := runCmd_endsG h (by simp [hlen]) hl hok (by decide)
  exact ⟨_, _, hrun, rfl, rfl⟩

theorem txfCreate_ends {mac src d : List Byte} {u : State} (h : CmdReady s ch tag c 0x0A00) (hlen : c.len = 48)
    (hl : txLocked s c.payload = false) (hok : txCreateBody mac src s c.payload = (stOk, d, u)) :
    EndsG (.txfCreate ch tag mac src) s ch tag 0x0A00 (fun x e => x = u ∧ e = d) := by
  have hrun : execTxfCreate ch tag mac src s = .next _ := runCmd_endsG h (by simp [hlen]) hl hok (by decide)
  exact ⟨_, _, hrun, rfl, rfl⟩

theorem rxfDelete_ends (h : CmdReady s ch tag c 0x0901) (hlen : c.len = 1) (hl : rxLocked s c.payload = false)
    (hst : s.fld (R.RXF.F_STAT.STATE (u8 c.payload 0)) ≠ 0) (hfree : rxNamers s (u8 c.payload 0) = []) :
    EndsG (.rxfDelete ch tag) s ch tag 0x0901 fun u d => d = [] ∧ sGet (fun _ => []) u.fw.work.rx (u8 c.payload 0) = [] := by
  have hbody : ∃ v : State, rxDeleteBody s c.payload = (stOk, [], keepRx v (u8 c.payload 0) [] []) := by
    unfold rxDeleteBody
    dsimp only
    rw [if_neg (by simp [hst, hfree])]
    exact ⟨_, rfl⟩
  obtain ⟨v, hbody⟩ := hbody
  have hrun : execRxfDelete ch tag s = .next _ := runCmd_endsG h (by simp [hlen]) hl hbody (by decide)
  exact ⟨_, _, hrun, rfl, work_keepRx ..⟩

/-- The record and the announcement of a transmit flow are taken away. -/
def dropTx (s : State) (f : Nat) : State := { s with fw := { s.fw with
  work := { s.fw.work with tx := sPut (fun _ => []) s.fw.work.tx f [] }, sap := sPut (fun _ => 0) s.fw.sap f 0 } }

theorem work_dropTx (s : State) (f : Nat) : sGet (fun _ => []) (dropTx s f).fw.work.tx f = [] := by
  exact sGet_put_self (fun _ => ([] : List Byte)) s.fw.work.tx f []

theorem txfDelete_ends (h : CmdReady s ch tag c 0x0A01) (hlen : c.len = 1) (hl : txLocked s c.payload = false)
    (hst : s.fld (R.TXF.F_STAT.STATE (u8 c.payload 0)) ≠ 0) (hfree : txNamed s (u8 c.payload 0) = false) :
    EndsG (.txfDelete ch tag) s ch tag 0x0A01 fun u d => d = [] ∧ sGet (fun _ => []) u.fw.work.tx (u8 c.payload 0) = [] := by
  have hbody : ∃ v : State, txDeleteBody s c.payload = (stOk, [], dropTx v (u8 c.payload 0)) := by
    unfold txDeleteBody
    dsimp only
    rw [if_neg (by simp [hst, hfree])]
    exact ⟨_, rfl⟩
  obtain ⟨v, hbody⟩ := hbody
  have hrun : execTxfDelete ch tag s = .next _ := runCmd_endsG h (by simp [hlen]) hl hbody (by decide)
  exact ⟨_, _, hrun, rfl, work_dropTx ..⟩

/-! ### RXF.OFFSET (R224, R309) -/

theorem execRxfOffset_of_taken (h : takenCmd s ch tag = some c) : execRxfOffset ch tag s =
    if u8 c.payload 1 ≠ 0 then runAccepted 0x0902 (· == 8) offsetLocked offsetSlewBody ch tag s
    else if c.opcode = 0x0902 ∧ serving s = true ∧ stepWaits s c = true then
      let ds := (unmuted s (stepEntries s (stepMembers s (u8 c.payload 0)))).filter fun d => !impMute (s.imp d).shadow
      if ds.isEmpty then ok s
      else ok (strobe (ds.foldl (fun s d => s.setImp d { s.imp d with shadow := (s.imp d).shadow ||| 2#32 }) s) 2)
    else runCmd 0x0902 (· == 8) offsetLocked offsetStepBody ch tag s := by
  unfold execRxfOffset
  rw [h]

theorem rxfOffset_slews (h : CmdReady s ch tag c 0x0902) (hlen : c.len = 8) (hl : offsetLocked s c.payload = false)
    (hmode : u8 c.payload 1 = 1) (hbad : offsetBad s c.payload = false) (hst : s.fld (R.RXF.F_STAT.STATE (u8 c.payload 0)) ≠ 0)
    (hslew : (s.flow (u8 c.payload 0)).slew = none)
    (hne : u32 c.payload 4 ≠ s.fld (R.RXF.F_OFFSET_NOW.SAMPLES (u8 c.payload 0))) :
    Accepts (.rxfOffset ch tag) s ch tag fun u => u = startSlew s (u8 c.payload 0)
      ((u32 c.payload 4 : Int) - s.fld (R.RXF.F_OFFSET_NOW.SAMPLES (u8 c.payload 0))) 1000 := by
  have hbody : offsetSlewBody s c.payload = (stOk, [], startSlew s (u8 c.payload 0)
      ((u32 c.payload 4 : Int) - s.fld (R.RXF.F_OFFSET_NOW.SAMPLES (u8 c.payload 0))) 1000) := by
    unfold offsetSlewBody
    dsimp only
    rw [hbad, if_neg Bool.false_ne_true, hslew, if_neg (by simp [hst]), if_neg (by omega)]
  have hrun : execRxfOffset ch tag s = .next _ := (execRxfOffset_of_taken h.taken).trans ((if_pos (by omega)).trans
    (runAccepted_accepts h (by simp [hlen]) hl hbody (lenFits_of_ne (by decide))))
  exact ⟨_, hrun, rfl⟩

/-- A flow that is not aligned and that no entry names has nothing to mute first. -/
theorem stepWaits_of_unnamed (halign : s.flag (R.RXF.F_CFG.ALIGN_EN (u8 c.payload 0)) = false)
    (hfree : rxNamers s (u8 c.payload 0) = []) : stepWaits s c = false := by
  have hmembers : stepMembers s (u8 c.payload 0) = [u8 c.payload 0] := if_neg (by rw [halign]; exact Bool.false_ne_true)
  have hentries : stepEntries s [u8 c.payload 0] = [] := by
    unfold stepEntries
    rw [List.filter_eq_nil_iff]
    intro d _
    simp [hfree]
  unfold stepWaits
  dsimp only
  rw [hmembers, hentries]
  simp [unmuted]

/-- A locked step waits for nothing: it does not reach the entries. -/
theorem rxfOffset_locked (h : CmdReady s ch tag c 0x0902) (hlen : (· == 8) c.len = true) (hl : offsetLocked s c.payload = true) :
    exec (.rxfOffset ch tag) s = .next (endCmd s ch tag stLocked []) := by
  have hfit : LenFits 0x0902 c := lenFits_of_ne (by decide)
  have hwaits : stepWaits s c = false := by
    have hck : checkCmd s c (· == 8) offsetLocked = stLocked := by rw [checkCmd_ready h hlen hfit, if_pos hl]
    unfold stepWaits
    rw [hck]
    rfl
  show execRxfOffset ch tag s = _
  rw [execRxfOffset_of_taken h.taken]
  split
  · exact runAccepted_locked h hlen hfit hl
  · rw [if_neg (by rw [hwaits]; simp)]
    exact runCmd_locked h hlen hfit hl

theorem rxfOffset_steps (h : CmdReady s ch tag c 0x0902) (hlen : c.len = 8) (hl : offsetLocked s c.payload = false)
    (hmode : u8 c.payload 1 = 0) (hbad : offsetBad s c.payload = false) (hst : s.fld (R.RXF.F_STAT.STATE (u8 c.payload 0)) ≠ 0)
    (hfree : rxNamers s (u8 c.payload 0) = []) (halign : s.flag (R.RXF.F_CFG.ALIGN_EN (u8 c.payload 0)) = false) :
    EndsG (.rxfOffset ch tag) s ch tag 0x0902 fun u d => d = [] ∧ u = offsetStep s (u8 c.payload 0) (u32 c.payload 4) := by
  have hbody : offsetStepBody s c.payload = (stOk, [], offsetStep s (u8 c.payload 0) (u32 c.payload 4)) := by
    unfold offsetStepBody
    dsimp only
    rw [hbad, if_neg Bool.false_ne_true, if_neg hst]
  have hwaits : ¬ (c.opcode = 0x0902 ∧ serving s = true ∧ stepWaits s c = true) := by
    rw [stepWaits_of_unnamed halign hfree]
    simp
  have hrun : execRxfOffset ch tag s = .next _ := (execRxfOffset_of_taken h.taken).trans ((if_neg (by omega)).trans
    ((if_neg hwaits).trans (runCmd_endsG h (by simp [hlen]) hl hbody (by decide))))
  exact ⟨_, _, hrun, rfl, rfl⟩

/-! ### SDP (R224) -/

theorem sdpImport_accepts {d : List Byte} {u : State} (h : CmdReady s ch tag c 0x0B00) (hlo : 12 ≤ c.len) (hhi : c.len ≤ 8204)
    (hl : rxLocked s c.payload = false) (hok : sdpCreate s c.payload = (stOk, d, u)) :
    Accepts (.sdpImport ch tag) s ch tag fun w => w = s := by
  have hrun : execSdpImport ch tag s = .next (follow s (acceptCmd s ch tag)) :=
    runAccepted_accepts (d := d) h (by simp [hlo, hhi]) hl (by dsimp only; rw [hok]) (lenFits_of_ne (by decide))
  exact ⟨_, hrun, rfl⟩

theorem sdpAnnounce_ends {n : Nat} (h : CmdReady s ch tag c 0x0B02) (hlen : c.len = 4) (hdx : dxFlow s (u8 c.payload 0) = false)
    (hon : u8 c.payload 1 = 1) (hn : u16 c.payload 2 = n) (hlo : 1 ≤ n) (hhi : n ≤ 300)
    (hst : s.fld (R.TXF.F_STAT.STATE (u8 c.payload 0)) ≠ 0) : EndsG (.sdpAnnounce ch tag) s ch tag 0x0B02 fun u d => d = [] ∧
      u = { s with fw := { s.fw with sap := sPut (fun _ => 0) s.fw.sap (u8 c.payload 0) n } } := by
  have hbody : sdpAnnounceBody s c.payload =
      (stOk, [], { s with fw := { s.fw with sap := sPut (fun _ => 0) s.fw.sap (u8 c.payload 0) n } }) := by
    unfold sdpAnnounceBody
    dsimp only
    rw [hon, hn, if_neg (by omega), if_neg hst, if_pos rfl]
  have hrun : execSdpAnnounce ch tag s = .next _ := runCmd_endsG h (by simp [hlen]) hdx hbody (by decide)
  exact ⟨_, _, hrun, rfl, rfl⟩

theorem sapAnnouncement_sends {f : Nat} (hn : sGet (fun _ => 0) s.fw.sap f ≠ 0) (hst : s.fld (R.TXF.F_STAT.STATE f) ≠ 0)
    (hserve : serving s = true) : Goes (.sapAnnouncementTx f) s fun t => t = { s with freeCtr := s.freeCtr + 3, out := t.out } ∧
      ∃ text, t.out = .announce f text false :: s.out :=
  ⟨_, if_neg (by simp [hn, hst, hserve]), rfl, _, rfl⟩

/-! ### RED.PATHS (R348) -/

theorem touches_pathRemove (t : State) {f : Nat} (x : Nat) :
    Touches (R.GAL.EVT.LOW :: R.RXF.CLS_STAT.KEYS :: pathFld f x :: dropFlds (rxQueue f x)) t (pathRemove t f x) := by
  have h1 : Touches (R.GAL.EVT.LOW :: R.RXF.CLS_STAT.KEYS :: pathFld f x :: dropFlds (rxQueue f x)) t
      (if t.gq (rxQueue f x) = gqEmpty then t else galRefresh (galDiscard t (rxQueue f x) reasonFlushed)) :=
    touches_ite (.refl _ t) (touches_galRefresh (touches_galDiscard (.refl _ t) _
      fun f hf => List.mem_cons_of_mem _ (List.mem_cons_of_mem _ (List.mem_cons_of_mem _ hf))) List.mem_cons_self)
  unfold pathRemove
  dsimp only
  refine touches_setFld (by simp) (touches_rf (t := dropPathKeys _ f x) ?_ (touches_dropPathKeys h1 f x (by simp)))
  rfl

theorem redPaths_ends (h : CmdReady s ch tag c 0x0C01) (hlen : c.len = 2) (hrxf : blockLocked s bRXF = false)
    (hred : blockLocked s bRED = false) (hdx : dxFlow s (u8 c.payload 0) = false) (hmask : u8 c.payload 1 = 1)
    (hmade : madeSeamless s (u8 c.payload 0) = true) (hold : s.fld (R.RXF.F_CFG.PATHS (u8 c.payload 0)) = 3) :
    EndsG (.redPaths ch tag) s ch tag 0x0C01 fun u d => d = [] ∧ u.fld (R.RXF.F_CFG.PATHS (u8 c.payload 0)) = 1 ∧
      u.fld (pathFld (u8 c.payload 0) 1) = 0 := by
  generalize hf : u8 c.payload 0 = f at hdx hmade hold
  let v := (s.setFld (R.RXF.F_CFG.PATHS f) 1).setFldSh (R.RXF.F_CFG.PATHS f) 1
  have hbody : redPathsBody s c.payload = (stOk, [], pathRemove v f 1) := by
    unfold redPathsBody
    dsimp only
    rw [hf, hmask, hold, hmade, if_neg (by omega), if_neg (by simp)]
    rfl
  have hrun : execRedPaths ch tag s = .next _ :=
    runCmd_endsG h (by simp [hlen]) (by simp [hrxf, hred, hf, hdx]) hbody (by decide)
  have hpaths : v.fld (R.RXF.F_CFG.PATHS f) = 1 := (State.fld_of_rf_eq rfl _).trans (State.fld_setFld_mod s (R.RXF.F_CFG.PATHS f) 1 rfl)
  refine ⟨_, _, hrun, rfl, ?_, ?_⟩
  · refine ((touches_pathRemove v 1).fld fun g hg => Fld.apart_of_key_ne ?_).trans hpaths
    simp only [dropFlds, List.mem_cons, List.not_mem_nil, or_false] at hg
    rcases hg with rfl | rfl | rfl | rfl | rfl | rfl | rfl | rfl | rfl <;>
      simp only [pathFld, Nat.one_ne_zero, if_false, R.RXF.F_CFG.PATHS, R.GAL.EVT.LOW, R.RXF.CLS_STAT.KEYS, R.RED.F_STAT.STATE_B, R.GAL.Q_DROPS.COUNT,
        R.GAL.Q_STAT.Q_SAT, R.GAL.DROP_CNT.COUNT, R.GAL.SAT.SAT_F, R.GAL.EVT.DROP, R.GAL.INJECT.ARM, itemKey] <;> omega
  · exact State.fld_setFld_mod _ (pathFld f 1) 0 rfl

/-- R211: the flow commands over a block or a flow that is not the host's. -/
theorem flow_locked {x : Instr × Nat × Nat × Bool}
    (hx : x ∈ [(Instr.rxfCreate ch tag, 0x0900, 48, rxLocked s c.payload), (.rxfDelete ch tag, 0x0901, 1, rxLocked s c.payload),
      (.rxfOffset ch tag, 0x0902, 8, offsetLocked s c.payload), (.txfCreate ch tag [] [], 0x0A00, 48, txLocked s c.payload),
      (.txfDelete ch tag, 0x0A01, 1, txLocked s c.payload), (.sdpAnnounce ch tag, 0x0B02, 4, dxFlow s (u8 c.payload 0)),
      (.redPaths ch tag, 0x0C01, 2, blockLocked s bRXF || blockLocked s bRED || dxFlow s (u8 c.payload 0))])
    (h : CmdReady s ch tag c x.2.1) (hlen : c.len = x.2.2.1) (hl : x.2.2.2 = true) :
    exec x.1 s = .next (endCmd s ch tag stLocked []) := by
  simp only [List.mem_cons, List.not_mem_nil, or_false] at hx
  have lenOk : (· == x.2.2.1) c.len = true := by simp [hlen]
  have fits : LenFits x.2.1 c := lenFits_of_ne (by
    rcases hx with rfl | rfl | rfl | rfl | rfl | rfl | rfl <;> exact Nat.ne_of_beq_eq_false rfl)
  rcases hx with rfl | rfl | rfl | rfl | rfl | rfl | rfl
  · show execRxfCreate ch tag s = _; exact runCmd_locked h lenOk fits hl
  · show execRxfDelete ch tag s = _; exact runCmd_locked h lenOk fits hl
  · exact rxfOffset_locked h lenOk hl
  · show execTxfCreate ch tag [] [] s = _; exact runCmd_locked h lenOk fits hl
  · show execTxfDelete ch tag s = _; exact runCmd_locked h lenOk fits hl
  · show execSdpAnnounce ch tag s = _; exact runCmd_locked h lenOk fits hl
  · show execRedPaths ch tag s = _; exact runCmd_locked h lenOk fits hl

end

/-- Settles O32. -/
theorem flowCommands : Obligations.FlowCommands := by
  rintro s ch tag c _ rfl
  refine ⟨fun d u h hlen hl hok => ?_, rxfDelete_ends, rxfOffset_slews, rxfOffset_steps, fun mac src d u h hlen hl hok => ?_,
    txfDelete_ends, fun d u => sdpImport_accepts, fun n => sdpAnnounce_ends, sapAnnouncement_sends, redPaths_ends,
    fun x => flow_locked⟩
  · exact ⟨rxfCreate_ends h hlen hl hok, rxCreate_ok hok⟩
  · exact ⟨txfCreate_ends h hlen hl hok, txCreateBody_ok hok⟩

end Sys2Proof.Machine
end

section
/-! The commands STK, TWIN, GRD and DIAG that change the device (R225, R226, R375, R402 to R407, R435, R446). -/

namespace Sys2Proof.Machine

theorem mem_insertNat (n : Nat) (l : List Nat) (k : Nat) : k ∈ insertNat n l ↔ k = n ∨ k ∈ l := by
  induction l with
  | nil => simp [insertNat]
  | cons m ms ih =>
    unfold insertNat
    split
    · simp
    · split
      next hm => subst hm; simp
      · rw [List.mem_cons, List.mem_cons, ih]
        tauto

theorem mem_foldl_insertNat (l m : List Nat) (k : Nat) : k ∈ l.foldl (fun l k => insertNat k l) m ↔ k ∈ m ∨ k ∈ l := by
  induction l generalizing m with
  | nil => simp
  | cons n l ih =>
    rw [List.foldl_cons, ih, mem_insertNat, List.mem_cons]
    tauto

section
variable {s : State} {ch tag : Nat} {c : Cmd}

theorem stkSet_ends (h : CmdReady s ch tag c 0x0D01) (hlen : c.len = 8) (hblk : blockLocked s bSTK = false)
    (hres : reservedZero c.payload (0 :: span 4 4) = true) (hring : u8 c.payload 0 ≤ 1) (hbud : u32 c.payload 4 ≤ 19000)
    (hst : stkState s = 5) (hup : linkFits s 0 22 (u32 c.payload 4) = true) (hdown : linkFits s 1 22 (u32 c.payload 4) = true) :
    EndsG (.stkSet ch tag) s ch tag 0x0D01 fun u d => d = [] ∧ u = applyGroup (strobe (fwWrite s R.STK.CFG.reg
      (insFlds (s.rdSh R.STK.CFG.reg) [(R.STK.CFG.RING, u8 c.payload 0), (R.STK.CFG.FUN_BUDGET, u32 c.payload 4)])) 0x1000) 12 := by
  have hbody : stkSetBody s c.payload = (stOk, [], applyGroup (strobe (fwWrite s R.STK.CFG.reg
      (insFlds (s.rdSh R.STK.CFG.reg) [(R.STK.CFG.RING, u8 c.payload 0), (R.STK.CFG.FUN_BUDGET, u32 c.payload 4)])) 0x1000) 12) := by
    unfold stkSetBody
    dsimp only
    rw [if_neg (by rw [hres]; simp; omega), if_neg (by simp [hst]), hup, hdown, if_neg (by simp)]
  have hrun : execStkSet ch tag s = .next _ := runCmd_endsG h (by simp [hlen]) hblk hbody (by decide)
  exact ⟨_, _, hrun, rfl, rfl⟩

theorem twinSet_ends (h : CmdReady s ch tag c 0x0E00) (hlen : c.len = 6) (hblk : blockLocked s bTWIN = false)
    (hres : u8 c.payload 3 = 0) (hrole : u8 c.payload 0 ≤ 2) (hlink : u8 c.payload 1 ≤ 1) (hproof : u8 c.payload 2 ≤ 15)
    (hms : u16 c.payload 4 = 0 ∨ (100 ≤ u16 c.payload 4 ∧ u16 c.payload 4 ≤ 60000)) (hco : coDx s = false ∨ u8 c.payload 0 = 0)
    (hup : stkUp s (u8 c.payload 1) = true) (hst : twinState s ≤ 1) :
    EndsG (.twinSet ch tag) s ch tag 0x0E00 fun u d => d = [] ∧
      u = applyGroup (strobe (fwWrites s [(R.TWIN.CFG.reg, insFlds (s.rdSh R.TWIN.CFG.reg)
          [(R.TWIN.CFG.ROLE, u8 c.payload 0), (R.TWIN.CFG.LINK, u8 c.payload 1), (R.TWIN.CFG.PROOF, u8 c.payload 2)]),
        (R.TWIN.HCFG.reg, R.TWIN.HCFG.PERIOD_MS.ins (u16 c.payload 4) (s.rdSh R.TWIN.HCFG.reg))]) 0x2000) 13 := by
  have hok : ¬ (coDx s = true ∧ u8 c.payload 0 ≠ 0) := by
    rintro ⟨hd, hr⟩
    rcases hco with hco | hco
    · rw [hd] at hco; cases hco
    · exact hr hco
  have hbad : ¬ (u8 c.payload 3 ≠ 0 ∨ 2 < u8 c.payload 0 ∨ 1 < u8 c.payload 1 ∨ 15 < u8 c.payload 2 ∨
      (u16 c.payload 4 ≠ 0 ∧ (u16 c.payload 4 < 100 ∨ 60000 < u16 c.payload 4)) ∨ (coDx s = true ∧ u8 c.payload 0 ≠ 0)) := by
    rw [or_iff_left hok]
    omega
  have hrun : execTwinSet ch tag s = .next _ := runCmd_endsG h (by simp [hlen]) hblk
    ((if_neg hbad).trans (if_neg (by rw [hup]; simp; omega))) (by decide)
  exact ⟨_, _, hrun, rfl, rfl⟩

theorem twinTakeover_ends (h : CmdReady s ch tag c 0x0E01) (hlen : c.len = 1) (hown : hostOwns s bTWIN = false)
    (hp : u8 c.payload 0 = 0) (hcan : canDecide s = true) (hst : twinState s ≠ 4) :
    EndsOk (.twinTakeover ch tag) s ch tag fun u d => u = twinTake (s.setFld R.TWIN.CMD.TAKE 1) 3 ∧
      d = leBytes 4 (u.fld R.TWIN.TAKEOVER_GEN.GEN) := by
  have hbody : twinTakeoverBody s c.payload = (stOk, leBytes 4 ((twinTake (s.setFld R.TWIN.CMD.TAKE 1) 3).fld R.TWIN.TAKEOVER_GEN.GEN),
      twinTake (s.setFld R.TWIN.CMD.TAKE 1) 3) := by
    unfold twinTakeoverBody
    dsimp only
    rw [if_neg (by omega), if_pos hp, if_neg hst, hcan, if_neg (by simp)]
  have hrun : execTwinTakeover ch tag s = .next _ := runCmd_ends h (by simp [hlen]) hown hbody (by decide)
  exact ⟨_, _, hrun, rfl, rfl⟩

theorem grdSet_ends (h : CmdReady s ch tag c 0x0F00) (hlen : c.len = 12) (hblk : blockLocked s bGRD = false)
    (hdx : dxPorts s (u16 c.payload 4) = false) (hres : reservedZero c.payload ([0] ++ span 2 4 ++ span 8 4) = true)
    (htrip : u8 c.payload 0 ≠ 0) (hcls : u32 c.payload 8 ≤ 31) (l : List (Nat × Word))
    (hl : l = [(R.GRD.CTL.reg, insFlds (s.rdSh R.GRD.CTL.reg)
        [(R.GRD.CTL.TRIP_FRAMES, u8 c.payload 0), (R.GRD.CTL.CLASSES, u32 c.payload 8)]),
      (R.GRD.PROBE.reg, R.GRD.PROBE.REPROBE_MS.ins (u16 c.payload 2) (s.rdSh R.GRD.PROBE.reg)),
      (R.GRD.AUTOSWAP.reg, R.GRD.AUTOSWAP.PORTS.ins (u16 c.payload 4) (s.rdSh R.GRD.AUTOSWAP.reg))])
    (htakes : l.all (fun x => fwTakes s x.1 x.2) = true) :
    EndsG (.grdSet ch tag) s ch tag 0x0F00 fun u d => d = [] ∧ u = applyGroup (strobe (fwWrites s l) 1) 0 := by
  have hbody : grdSetBody s c.payload = (stOk, [], applyGroup (strobe (fwWrites s l) 1) 0) := by
    unfold grdSetBody
    dsimp only
    rw [if_neg (by rw [hres]; simp [htrip]; omega), ← hl, if_pos htakes]
  have hrun : execGrdSet ch tag s = .next _ := runCmd_endsG h (by simp [hlen]) (by simp [hblk, hdx]) hbody (by decide)
  exact ⟨_, _, hrun, rfl, rfl⟩

theorem grdReprobe_ends (h : CmdReady s ch tag c 0x0F02) (hlen : c.len = 4) (hown : hostOwns s bGRD = false)
    (hdx : dxPorts s (u16 c.payload 0) = false) (hres : u8 c.payload 3 = 0) :
    EndsOk (.grdReprobe ch tag) s ch tag fun u d => d = [] ∧ u = { s with grd := { s.grd with reprobe := u.grd.reprobe } } ∧
      ∀ k, k ∈ u.grd.reprobe ↔ k ∈ s.grd.reprobe ∨ k ∈ reprobePins s (u16 c.payload 0) (u8 c.payload 2) := by
  have hrun : execGrdReprobe ch tag s = .next _ := runCmd_ends h (by simp [hlen]) (by simp [hown, hdx]) (if_neg (by simp [hres])) (by decide)
  exact ⟨_, _, hrun, rfl, rfl, mem_foldl_insertNat _ _⟩

theorem diagSnapClear_ends {b : Nat} (h : CmdReady s ch tag c 0x1000) (hlen : c.len = 8) (hlo : u32 c.payload 0 < 2 ^ 19)
    (hhi : u32 c.payload 4 < 65536) (hb : namedBlocks c.payload = [b]) (hdx : dxBlocks s c.payload = false) :
    EndsOk (.diagSnapClear ch tag) s ch tag fun u d => u = clearBlockCounters s b ∧ d.drop 4 = (counterEntries s b).flatten := by
  have hbody : countersBody true (resultRoom s ch tag) s c.payload =
      (stOk, leBytes 2 (min (counterEntries s b).length ((resultRoom s ch tag - 4) / 12)) ++ leBytes 2 (counterEntries s b).length ++
        (counterEntries s b).flatten, clearBlockCounters s b) := by
    unfold countersBody
    dsimp only
    rw [if_neg (by omega), hb, List.flatMap_singleton]
    rfl
  have hrun : execDiagSnapClear ch tag s = .next _ := runCmd_ends h (by simp [hlen]) hdx hbody (by decide)
  exact ⟨_, _, hrun, rfl, rfl⟩

theorem diagLoopback_ends {x : Nat} (h : CmdReady s ch tag c 0x1002) (hlen : c.len = 2) (hx : u8 c.payload 0 = x) (hx4 : x < 4)
    (hmode : u8 c.payload 1 ≤ 2) (hbusy : portBusy s x = false)
    (hown : hostOwns s ([bNETA, bNETB, bSTK, bSTK].getD x 0) = false) (hlb : x < s.pins.loopback.length) :
    EndsOk (.diagLoopback ch tag) s ch tag fun u d => d = [] ∧ u = { s with pins := { s.pins with
      loopback := u.pins.loopback } } ∧ u.pins.loopback.getD x 0 = u8 c.payload 1 ∧
        ∀ y, y ≠ x → u.pins.loopback.getD y 0 = s.pins.loopback.getD y 0 := by
  subst hx
  have hrun : execDiagLoopback ch tag s = .next _ := runCmd_ends h (by simp [hlen]) hown
    ((if_neg (by omega)).trans (if_neg (by simp [hbusy]))) (by decide)
  exact ⟨_, _, hrun, rfl, rfl, getD_modifyAt_self _ _ hlb, fun y hy => getD_modifyAt_ne _ _ _ hy⟩

theorem diagMarch_accepts (h : CmdReady s ch tag c 0x1003) (hlen : c.len = 8) (hown : hostOwns s bGAL = false)
    (hres : reservedZero c.payload (0 :: span 4 4) = true) (hhalf : u8 c.payload 0 ≤ 1) :
    Accepts (.diagMarch ch tag) s ch tag fun u => u = s := by
  have hrun : execDiagMarch ch tag s = .next _ :=
    runAccepted_accepts h (by simp [hlen]) hown (if_neg (by rw [hres]; simp; omega)) (lenFits_of_ne (by decide))
  exact ⟨_, hrun, rfl⟩

/-- R211: the guard and counter commands over ports that DX owns. -/
theorem guardDiag_locked {x : Instr × Nat × Nat × Bool}
    (hx : x ∈ [(Instr.grdSet ch tag, 0x0F00, 12, dxPorts s (u16 c.payload 4)), (.grdReprobe ch tag, 0x0F02, 4, dxPorts s (u16 c.payload 0)),
      (.diagSnapClear ch tag, 0x1000, 8, dxBlocks s c.payload)])
    (h : CmdReady s ch tag c x.2.1) (hlen : c.len = x.2.2.1) (hl : x.2.2.2 = true) :
    exec x.1 s = .next (endCmd s ch tag stLocked []) := by
  simp only [List.mem_cons, List.not_mem_nil, or_false] at hx
  have lenOk : (· == x.2.2.1) c.len = true := by simp [hlen]
  have fits : LenFits x.2.1 c := lenFits_of_ne (by rcases hx with rfl | rfl | rfl <;> exact Nat.ne_of_beq_eq_false rfl)
  rcases hx with rfl | rfl | rfl
  · show execGrdSet ch tag s = _; exact runCmd_locked h lenOk fits (by exact (Bool.or_eq_true _ _).mpr (.inr hl))
  · show execGrdReprobe ch tag s = _; exact runCmd_locked h lenOk fits (by exact (Bool.or_eq_true _ _).mpr (.inr hl))
  · show execDiagSnapClear ch tag s = _; exact runCmd_locked h lenOk fits hl

end

/-- Settles O33. -/
theorem stackTwinGuardAndDiagCommands : Obligations.StackTwinGuardAndDiagCommands := fun _ _ _ _ =>
  ⟨stkSet_ends, twinSet_ends, twinTakeover_ends, fun h hlen hblk hdx hres htrip hcls => grdSet_ends h hlen hblk hdx hres htrip hcls,
    grdReprobe_ends, fun _ => diagSnapClear_ends, fun _ => diagLoopback_ends, diagMarch_accepts, fun _ => guardDiag_locked⟩

end Sys2Proof.Machine
end

section
/-! The galley's queues: what its operations change of them (R274 to R284), and the steps of a producer (R274, R275, R279 to
R281). -/

namespace Sys2Proof.Machine

/-! ### Queues -/

section
variable {s : State}

theorem gq_setGq_self (s : State) (q : Nat) (x : GQueue) : (s.setGq q x).gq q = x := sGet_put_self ..

theorem gq_setGq_ne (s : State) {p q : Nat} (x : GQueue) (h : p ≠ q) : (s.setGq q x).gq p = s.gq p := sGet_put_ne _ _ _ h

theorem gq_of_qs {s t : State} (h : t.gal.qs = s.gal.qs) (q : Nat) : t.gq q = s.gq q := by rw [State.gq, State.gq, h]

theorem qs_setFld (s : State) (f : Fld) (v : Nat) : (s.setFld f v).gal = s.gal := rfl

theorem gal_galRefresh (s : State) : (galRefresh s).gal = s.gal := rfl

theorem gq_galRefresh (s : State) (q : Nat) : (galRefresh s).gq q = s.gq q := rfl

theorem qs_spill (s : State) (cs : List CellNo) (b : List Byte) : (spill s cs b).gal.qs = s.gal.qs := by
  induction cs generalizing s b with
  | nil => rfl
  | cons c cs ih =>
    unfold spill
    rw [ih]

theorem rf_spill (s : State) (cs : List CellNo) (b : List Byte) : (spill s cs b).rf = s.rf := by
  induction cs generalizing s b with
  | nil => rfl
  | cons c cs ih =>
    unfold spill
    rw [ih]

theorem qs_spillAll (s : State) (es : List GElem) : (es.foldl spillElem s).gal.qs = s.gal.qs := by
  induction es generalizing s with
  | nil => rfl
  | cons e es ih => exact (ih _).trans (qs_spill ..)

theorem rf_spillAll (s : State) (es : List GElem) : (es.foldl spillElem s).rf = s.rf := by
  induction es generalizing s with
  | nil => rfl
  | cons e es ih => exact (ih _).trans (rf_spill ..)

theorem qs_storeMark (s : State) (c : CellNo) (w : Nat) : (storeMark s c w).gal.qs = s.gal.qs := by
  unfold storeMark
  dsimp only
  split <;> rfl

theorem qs_takeCell (s : State) (h : Nat) : (takeCell s h).2.gal = s.gal := rfl

theorem rf_takeCell (s : State) (h : Nat) : (takeCell s h).2.rf = s.rf := rfl

theorem qs_turnOn (s : State) (q : Nat) : (turnOn s q).gal.qs = s.gal.qs := by
  unfold turnOn
  split <;> rfl

theorem rf_turnOn (s : State) (q : Nat) : (turnOn s q).rf = s.rf := by
  unfold turnOn
  split <;> rfl

theorem takeCells_leaves (s : State) (q n : Nat) : (takeCells s q n).1.length = n ∧
    (takeCells s q n).2.gal.qs = s.gal.qs ∧ (takeCells s q n).2.rf = s.rf := by
  induction n generalizing s with
  | zero => exact ⟨rfl, rfl, rfl⟩
  | succ n ih =>
    unfold takeCells
    have hq := (qs_turnOn (takeCell s (nextHalf s q)).2 q).trans (congrArg Galley.qs (qs_takeCell s (nextHalf s q)))
    have hr := (rf_turnOn (takeCell s (nextHalf s q)).2 q).trans (rf_takeCell s (nextHalf s q))
    generalize takeCell s (nextHalf s q) = c at hq hr
    obtain ⟨c, u⟩ := c
    dsimp only at hq hr ⊢
    generalize turnOn u q = v at hq hr
    obtain ⟨hlen, hqs, hrf⟩ := ih { v with gal := { v.gal with lost := c :: v.gal.lost } }
    exact ⟨congrArg (· + 1) hlen, hqs.trans hq, hrf.trans hr⟩

theorem gal_countDrops (s : State) (q n : Nat) : (countDrops s q n).gal = s.gal := by
  unfold countDrops State.countSatN
  dsimp only
  split <;> split <;> split <;> rfl

/-- The slug that a drop places at the tail of a queue. -/
theorem placeSlugIn_slug (s : State) (h q n folio ts reason : Nat) (merged own : Bool) : ∃ sl : GSlug,
    sl.count = min 65535 n ∧ sl.folio = folio % 65536 ∧ sl.ts = ts % 2 ^ 32 ∧ sl.reason = reason ∧ sl.merged = merged ∧ sl.own = own ∧
      (placeSlugIn s h q n folio ts reason merged own).gq q =
        { s.gq q with elems := (s.gq q).elems ++ [.slug sl], slugFresh := true, carried := none } ∧
      ∀ p, p ≠ q → (placeSlugIn s h q n folio ts reason merged own).gq p = s.gq p := by
  have hqs : ∀ c : CellNo × State, c.2.gal = s.gal → ∀ p, (storeMark (storeMark c.2 c.1 0) c.1 1).gq p = s.gq p := fun c hc p =>
    (gq_of_qs (qs_storeMark ..) p).trans ((gq_of_qs (qs_storeMark ..) p).trans (gq_of_qs (congrArg Galley.qs hc) p))
  have hcell := qs_takeCell s h
  unfold placeSlugIn
  generalize takeCell s h = c at hcell
  have hq := hqs c hcell
  dsimp only
  generalize storeMark (storeMark c.2 c.1 0) c.1 1 = u at hq
  rw [hq q]
  exact ⟨⟨_, _, _, _, _, _, c.1⟩, rfl, rfl, rfl, rfl, rfl, rfl, gq_setGq_self .., fun p hp => (gq_setGq_ne _ _ hp).trans (hq p)⟩

theorem placeSlug_opened (s : State) (q n folio ts reason : Nat) (merged own : Bool) :
    ((placeSlug s q n folio ts reason merged own).gq q).opened = (s.gq q).opened := by
  unfold placeSlug
  split
  · obtain ⟨sl, -, -, -, -, -, -, e, -⟩ := placeSlugIn_slug s (slugHalf s q) q n folio ts reason merged true
    rw [e]
  · obtain ⟨sl, -, -, -, -, -, -, e, -⟩ := placeSlugIn_slug s (nextHalf s q) q n folio ts reason merged false
    rw [gq_of_qs (qs_turnOn ..), e]

theorem touches_placeSlug {l : List Fld} {t : State} (h : Touches l s t) (q n folio ts reason : Nat) (merged own : Bool)
    (hl : R.GAL.INJECT.ARM ∈ l) : Touches l s (placeSlug t q n folio ts reason merged own) := by
  unfold placeSlug
  split
  · exact touches_placeSlugIn h _ _ _ _ _ _ _ _ hl
  · exact touches_rf (rf_turnOn _ q) (touches_placeSlugIn h _ _ _ _ _ _ _ _ hl)

/-- One drop's mark leaves the queue's open item. -/
theorem slugDrop_opened (s : State) (q folio ts reason : Nat) : ((slugDrop s q folio ts reason).gq q).opened = (s.gq q).opened := by
  unfold slugDrop
  dsimp only
  split
  · rw [gq_setGq_self]
  · split
    · split
      · exact placeSlug_opened ..
      · exact placeSlug_opened ..
    · split
      · rw [gq_setGq_self]
      · rw [gq_setGq_self]

theorem touches_slugDrop {l : List Fld} {t : State} (h : Touches l s t) (q folio ts reason : Nat)
    (hl : R.GAL.INJECT.ARM ∈ l) : Touches l s (slugDrop t q folio ts reason) := by
  unfold slugDrop
  dsimp only
  split
  · exact touches_setGq h _ _
  · split
    · split
      · exact touches_placeSlug h _ _ _ _ _ _ _ hl
      · exact touches_placeSlug h _ _ _ _ _ _ _ hl
    · split
      · exact touches_setGq h _ _
      · exact touches_setGq h _ _

/-- What a drop of one item counts. -/
theorem fld_countDrops_one (s : State) (q : Nat) : (countDrops s q 1).fld R.GAL.EVT.DROP = 1 ∧
    (countDrops s q 1).fld (R.GAL.Q_DROPS.COUNT q) = min (2 ^ 32 - 1) (s.fld (R.GAL.Q_DROPS.COUNT q) + 1) := by
  have hne : ∀ f ∈ [R.GAL.Q_STAT.Q_SAT q, R.GAL.DROP_CNT.COUNT, R.GAL.SAT.SAT_F, R.GAL.EVT.DROP],
      (R.GAL.Q_DROPS.COUNT q).key ≠ f.key := by
    intro f hf
    simp only [List.mem_cons, List.not_mem_nil, or_false] at hf
    rcases hf with rfl | rfl | rfl | rfl <;> simp only [R.GAL.Q_DROPS.COUNT, R.GAL.Q_STAT.Q_SAT, R.GAL.DROP_CNT.COUNT,
      R.GAL.SAT.SAT_F, R.GAL.EVT.DROP, itemKey] <;> omega
  have hset : (s.countN (R.GAL.Q_DROPS.COUNT q) 1).fld (R.GAL.Q_DROPS.COUNT q) = min (2 ^ 32 - 1) (s.fld (R.GAL.Q_DROPS.COUNT q) + 1) := by
    refine (State.fld_setFld_mod s (R.GAL.Q_DROPS.COUNT q) _ rfl).trans ?_
    rw [Nat.min_comm]
    exact Nat.mod_eq_of_lt (Nat.lt_of_le_of_lt (Nat.min_le_left _ _) (by exact Nat.sub_lt (Nat.two_pow_pos _) Nat.one_pos))
  have htouch : Touches [R.GAL.Q_STAT.Q_SAT q, R.GAL.DROP_CNT.COUNT, R.GAL.SAT.SAT_F, R.GAL.EVT.DROP]
      (s.countN (R.GAL.Q_DROPS.COUNT q) 1) (countDrops s q 1) := by
    have h1 := touches_ite (c := (s.countN (R.GAL.Q_DROPS.COUNT q) 1).fld (R.GAL.Q_DROPS.COUNT q) = 0xFFFFFFFF)
      (touches_setFld (v := 1) (f := R.GAL.Q_STAT.Q_SAT q) (by simp) (.refl [R.GAL.Q_STAT.Q_SAT q, R.GAL.DROP_CNT.COUNT,
        R.GAL.SAT.SAT_F, R.GAL.EVT.DROP] (s.countN (R.GAL.Q_DROPS.COUNT q) 1))) (.refl _ _)
    have h2 := touches_countSatN h1 1 4 (f := R.GAL.DROP_CNT.COUNT) (sat := R.GAL.SAT.SAT_F) (by simp) (by simp)
    exact touches_ite h2 (touches_setFld (by simp) h2)
  refine ⟨?_, (htouch.fld fun f hf => Fld.apart_of_key_ne (hne f hf)).trans hset⟩
  unfold countDrops
  dsimp only
  rw [if_neg Nat.one_ne_zero]
  exact State.fld_setFld_mod _ R.GAL.EVT.DROP 1 rfl

/-! ### Opening an item (R274, R279, R280) -/

theorem galOpen_unknown {q : Nat} (kind folio ts : Nat) (ho : (s.gq q).opened = none) (hs : (s.gq q).swallow = false) :
    galOpen s q kind none folio ts = s.setGq q { s.gq q with opened := some ⟨kind, folio, ts, [], [], false⟩, known := false } := by
  unfold galOpen
  dsimp only
  rw [ho, hs]

theorem galOpen_granted {q len : Nat} (kind folio ts : Nat) (ho : (s.gq q).opened = none) (hs : (s.gq q).swallow = false)
    (hlen : len ≤ 262144) (ha : allots s q (cellsFor len) = none) : ∃ (cells : List CellNo) (u : State), cells.length = cellsFor len ∧ u.gal.qs = s.gal.qs ∧
      u.rf = s.rf ∧ galOpen s q kind (some len) folio ts =
        u.setGq q { s.gq q with opened := some ⟨kind, folio, ts, cells, [], false⟩, known := true } := by
  obtain ⟨hl, hqs, hrf⟩ := takeCells_leaves s q (cellsFor len)
  refine ⟨_, _, hl, hqs, hrf, ?_⟩
  unfold galOpen
  dsimp only
  rw [ho, hs]
  dsimp only
  rw [if_neg (Nat.not_lt.mpr hlen), ha]
  dsimp only
  rw [gq_of_qs hqs, hs]

theorem galOpen_dropped {q len r : Nat} (kind folio ts : Nat) (ho : (s.gq q).opened = none) (hs : (s.gq q).swallow = false)
    (hlen : len ≤ 262144) (ha : allots s q (cellsFor len) = some r) : galOpen s q kind (some len) folio ts =
      (itemDrop s q folio ts r).setGq q { (itemDrop s q folio ts r).gq q with swallow := true } := by
  unfold galOpen
  dsimp only
  rw [ho, hs]
  dsimp only
  rw [if_neg (Nat.not_lt.mpr hlen), ha]

theorem itemOpen_unknown_goes {q : Nat} (kind folio ts : Nat) (ho : (s.gq q).opened = none) (hs : (s.gq q).swallow = false) :
    Goes (.itemOpen q kind none folio ts) s fun t =>
      t.gq q = { s.gq q with opened := some ⟨kind, folio, ts, [], [], false⟩, known := false } ∧
        (∀ p, p ≠ q → t.gq p = s.gq p) ∧ Touches [R.GAL.EVT.LOW] s t := by
  refine ⟨_, rfl, ?_⟩
  rw [galOpen_unknown kind folio ts ho hs]
  exact ⟨gq_setGq_self .., fun p hp => gq_setGq_ne s _ hp, touches_galRefresh (touches_setGq (.refl _ s) _ _) (by simp)⟩

theorem itemOpen_granted_goes {q len : Nat} (kind folio ts : Nat) (ho : (s.gq q).opened = none) (hs : (s.gq q).swallow = false)
    (hlen : len ≤ 262144) (ha : allots s q (cellsFor len) = none) :
    Goes (.itemOpen q kind (some len) folio ts) s fun t => ∃ cells, cells.length = cellsFor len ∧
      t.gq q = { s.gq q with opened := some ⟨kind, folio, ts, cells, [], false⟩, known := true } ∧
        (∀ p, p ≠ q → t.gq p = s.gq p) ∧ Touches [R.GAL.EVT.LOW] s t := by
  obtain ⟨cells, u, hl, hqs, hrf, e⟩ := galOpen_granted kind folio ts ho hs hlen ha
  refine ⟨_, rfl, cells, hl, ?_⟩
  rw [e]
  exact ⟨gq_setGq_self .., fun p hp => (gq_setGq_ne u _ hp).trans (gq_of_qs hqs p),
    touches_galRefresh (touches_setGq (Touches.of_rf _ hrf) _ _) (by simp)⟩

theorem itemOpen_dropped_goes {q len r : Nat} (kind folio ts : Nat) (ho : (s.gq q).opened = none) (hs : (s.gq q).swallow = false)
    (hlen : len ≤ 262144) (ha : allots s q (cellsFor len) = some r) :
    Goes (.itemOpen q kind (some len) folio ts) s fun t => (t.gq q).swallow = true ∧ (t.gq q).opened = none ∧
      t.fld R.GAL.EVT.DROP = 1 ∧ t.fld (R.GAL.Q_DROPS.COUNT q) = min (2 ^ 32 - 1) (s.fld (R.GAL.Q_DROPS.COUNT q) + 1) := by
  refine ⟨_, rfl, ?_⟩
  rw [galOpen_dropped kind folio ts ho hs hlen ha]
  dsimp only
  rw [gq_galRefresh, gq_setGq_self]
  obtain ⟨hdrop, hcount⟩ := fld_countDrops_one s q
  have htouch : Touches [R.GAL.EVT.LOW, R.GAL.INJECT.ARM] (countDrops s q 1) (galRefresh ((itemDrop s q folio ts r).setGq q
      { (itemDrop s q folio ts r).gq q with swallow := true })) :=
    touches_galRefresh (touches_setGq (touches_slugDrop (.refl _ _) _ _ _ _ (by simp)) _ _) (by simp)
  refine ⟨rfl, ?_, ?_, ?_⟩
  · exact (slugDrop_opened ..).trans ((congrArg GQueue.opened (gq_of_qs (congrArg Galley.qs (gal_countDrops s q 1)) q)).trans ho)
  · exact (htouch.fld (f := R.GAL.EVT.DROP) (by decide)).trans hdrop
  · refine (htouch.fld fun f hf => Fld.apart_of_key_ne ?_).trans hcount
    simp only [List.mem_cons, List.not_mem_nil, or_false] at hf
    rcases hf with rfl | rfl <;> simp only [R.GAL.Q_DROPS.COUNT, R.GAL.EVT.LOW, R.GAL.INJECT.ARM, itemKey] <;> omega

/-! ### Words, commits and rewinds (R274, R275) -/

/-- The next word of an open item whose cells are there, where nothing is inverted and INJECT is not armed. -/
theorem galWord_fits {q : Nat} {it : GItem} {bs : List Byte} (last : Bool) (ho : (s.gq q).opened = some it)
    (hs : (s.gq q).swallow = false) (hfit : cellsFor (it.bytes.length + bs.length) ≤ it.cells.length) :
    ∃ u : State, u.gal.qs = s.gal.qs ∧ galWord s q bs last =
      if last then u.setGq q { s.gq q with opened := none, elems := (s.gq q).elems ++ [.item { it with bytes := it.bytes ++ bs }] }
      else u.setGq q { s.gq q with opened := some { it with bytes := it.bytes ++ bs } } := by
  have hneed : cellsFor (it.bytes.length + bs.length) - it.cells.length = 0 := Nat.sub_eq_zero_of_le hfit
  unfold galWord
  dsimp only
  rw [hs, if_neg Bool.false_ne_true, ho]
  dsimp only
  rw [hneed, if_pos rfl]
  dsimp only [takeCells]
  rw [List.append_nil]
  cases it.cells[(it.bytes.length + bs.length - 1) / 8 / 8]? with
  | none => exact ⟨s, rfl, by rw [hs]⟩
  | some c =>
    refine ⟨storeMark s c ((it.bytes.length + bs.length - 1) / 8 % 8), qs_storeMark .., ?_⟩
    dsimp only
    rw [gq_of_qs (qs_storeMark s c _), hs]

theorem itemWordWrite_goes {q : Nat} {it : GItem} {bs : List Byte} (ho : (s.gq q).opened = some it)
    (hs : (s.gq q).swallow = false) (hlen : bs.length ≤ 8)
    (hfit : cellsFor (it.bytes.length + bs.length) ≤ it.cells.length) :
    (Goes (.itemWordWrite q bs false) s fun t =>
      t.gq q = { s.gq q with opened := some { it with bytes := it.bytes ++ bs } } ∧ ∀ p, p ≠ q → t.gq p = s.gq p) ∧
    (Goes (.itemWordWrite q bs true) s fun t =>
      t.gq q = { s.gq q with opened := none, elems := (s.gq q).elems ++ [.item { it with bytes := it.bytes ++ bs }] } ∧
        ∀ p, p ≠ q → t.gq p = s.gq p) := by
  have htake : bs.take 8 = bs := List.take_of_length_le hlen
  constructor
  · obtain ⟨u, hqs, e⟩ := galWord_fits (bs := bs) false ho hs hfit
    refine ⟨_, rfl, ?_⟩
    rw [htake, e, if_neg Bool.false_ne_true]
    exact ⟨gq_setGq_self .., fun p hp => (gq_setGq_ne u _ hp).trans (gq_of_qs hqs p)⟩
  · obtain ⟨u, hqs, e⟩ := galWord_fits (bs := bs) true ho hs hfit
    refine ⟨_, rfl, ?_⟩
    rw [htake, e, if_pos rfl]
    exact ⟨gq_setGq_self .., fun p hp => (gq_setGq_ne u _ hp).trans (gq_of_qs hqs p)⟩

theorem liveFirst_append {pre : List GElem} {it : GItem} (hpre : pre.all GElem.live = true) (hit : it.live = false) :
    liveFirst (pre ++ [.item it]) = pre ++ [.item { it with live := true }] := by
  induction pre with
  | nil => simp [liveFirst, GElem.live, hit]
  | cons e pre ih =>
    rw [List.all_cons, Bool.and_eq_true] at hpre
    rw [List.cons_append, List.cons_append, ← ih hpre.2]
    exact if_pos hpre.1

theorem itemCommit_goes {q : Nat} {pre : List GElem} {it : GItem} (he : (s.gq q).elems = pre ++ [.item it]) (hit : it.live = false)
    (hpre : pre.all GElem.live = true) (hq : 512 ≤ q ∨ it.kind ≠ 0) : Goes (.itemCommit q) s fun t =>
      t.gq q = { s.gq q with elems := pre ++ [.item { it with live := true }], slugFresh := false } ∧ (∀ p, p ≠ q → t.gq p = s.gq p) ∧
        Touches [R.GAL.EVT.LOW] s t := by
  have hfind : ((s.gq q).elems.find? fun e => !e.live) = some (.item it) := by
    rw [he, List.find?_append, List.find?_eq_none.mpr fun e hm => by simp [List.all_eq_true.mp hpre e hm]]
    simp [GElem.live, hit]
  have hall : ¬ (s.gq q).elems.all GElem.live = true := by
    rw [he, List.all_append]
    simp [GElem.live, hit]
  have hcommit : galCommit s q = galRefresh (s.setGq q { s.gq q with
      elems := pre ++ [.item { it with live := true }], slugFresh := false }) := by
    unfold galCommit
    dsimp only
    rw [if_neg hall, he, liveFirst_append hpre hit]
  have hexec : exec (.itemCommit q) s = .next (galCommit s q) := by
    show execItemCommit q s = _
    unfold execItemCommit
    rw [hfind]
    dsimp only
    rw [if_neg (by omega)]
  refine ⟨_, hexec, ?_⟩
  rw [hcommit]
  exact ⟨gq_setGq_self .., fun p hp => gq_setGq_ne s _ hp, touches_galRefresh (touches_setGq (.refl _ s) _ _) (by simp)⟩

/-- The registers that count a rewind of queue `q`. -/
def rewindFlds (q : Nat) : List Fld := [R.GAL.EVT.LOW, R.GAL.Q_RWND.COUNT q, R.GAL.Q_STAT.Q_SAT q, R.GAL.RWND_CNT.COUNT, R.GAL.SAT.SAT_F]

theorem fld_count_min (s : State) {f : Fld} (hw : (f.lo + f.w).ble 32 = true) : (s.count f).fld f = min (2 ^ f.w - 1) (s.fld f + 1) := by
  have hpos : 0 < 2 ^ f.w := Nat.two_pow_pos _
  unfold State.count
  split
  next hlt =>
    rw [State.fld_setFld_mod s f _ hw, Nat.mod_eq_of_lt hlt, Nat.min_eq_right (by omega)]
  next hge =>
    rw [State.fld_setFld_mod s f _ hw, Nat.mod_eq_of_lt (by omega), Nat.min_eq_left (by omega)]

theorem galRwnd_leaves (s : State) (q : Nat) : (galRwnd s q).gal = s.gal ∧ Touches (rewindFlds q) s (galRwnd s q) ∧
    (galRwnd s q).fld (R.GAL.Q_RWND.COUNT q) = min (2 ^ 32 - 1) (s.fld (R.GAL.Q_RWND.COUNT q) + 1) := by
  have hne : ∀ f ∈ [R.GAL.EVT.LOW, R.GAL.Q_STAT.Q_SAT q, R.GAL.RWND_CNT.COUNT, R.GAL.SAT.SAT_F], (R.GAL.Q_RWND.COUNT q).key ≠ f.key := by
    intro f hf
    simp only [List.mem_cons, List.not_mem_nil, or_false] at hf
    rcases hf with rfl | rfl | rfl | rfl <;> simp only [R.GAL.Q_RWND.COUNT, R.GAL.EVT.LOW, R.GAL.Q_STAT.Q_SAT, R.GAL.RWND_CNT.COUNT,
      R.GAL.SAT.SAT_F, itemKey] <;> omega
  have hcount := fld_count_min s (f := R.GAL.Q_RWND.COUNT q) rfl
  have hgal : (s.count (R.GAL.Q_RWND.COUNT q)).gal = s.gal := by rw [State.count_frame]
  have htouch : Touches (rewindFlds q) s (s.count (R.GAL.Q_RWND.COUNT q)) := touches_count (by simp [rewindFlds]) (.refl _ s)
  unfold galRwnd
  dsimp only
  generalize s.count (R.GAL.Q_RWND.COUNT q) = u at hcount hgal htouch
  have hrest : ∀ l : List Fld, (∀ f ∈ [R.GAL.EVT.LOW, R.GAL.Q_STAT.Q_SAT q, R.GAL.RWND_CNT.COUNT, R.GAL.SAT.SAT_F], f ∈ l) →
      Touches l u (galRefresh ((if u.fld (R.GAL.Q_RWND.COUNT q) = 0xFFFFFFFF then u.setFld (R.GAL.Q_STAT.Q_SAT q) 1 else u).countSat
        R.GAL.RWND_CNT.COUNT R.GAL.SAT.SAT_F 5)) := fun l hl =>
    touches_galRefresh (touches_countSat 5 (hl _ (by simp)) (hl _ (by simp))
      (touches_ite (touches_setFld (hl _ (by simp)) (.refl _ u)) (.refl _ u))) (hl _ (by simp))
  refine ⟨?_, htouch.trans (hrest _ fun f hf => by simp only [rewindFlds, List.mem_cons, List.not_mem_nil, or_false] at hf ⊢; tauto),
    ((hrest _ fun f hf => hf).fld fun f hf => Fld.apart_of_key_ne (hne f hf)).trans hcount⟩
  rw [gal_galRefresh, countSat_frame, ← hgal]
  split <;> rfl

theorem itemRewind_last_goes {q : Nat} {pre : List GElem} {it : GItem} (he : (s.gq q).elems = pre ++ [.item it])
    (hit : it.live = false) (ho : (s.gq q).opened = none) (hs : (s.gq q).swallow = false) : Goes (.itemRewind q) s fun t =>
      t.gq q = { s.gq q with elems := pre } ∧ (∀ p, p ≠ q → t.gq p = s.gq p) ∧
        t.fld (R.GAL.Q_RWND.COUNT q) = min (2 ^ 32 - 1) (s.fld (R.GAL.Q_RWND.COUNT q) + 1) ∧
          Touches (rewindFlds q) s t := by
  have hback : galRewind s q = galRwnd ((spill s it.cells it.bytes).setGq q { s.gq q with elems := pre }) q := by
    unfold galRewind
    dsimp only
    rw [ho]
    dsimp only
    rw [hs, if_neg Bool.false_ne_true, he, List.getLast?_append]
    dsimp only [List.getLast?_singleton, Option.or]
    rw [hit, if_neg Bool.false_ne_true, List.dropLast_concat]
  obtain ⟨hgal, htouch, hcount⟩ := galRwnd_leaves ((spill s it.cells it.bytes).setGq q { s.gq q with elems := pre }) q
  have hrf : ((spill s it.cells it.bytes).setGq q { s.gq q with elems := pre }).rf = s.rf := rf_spill ..
  refine ⟨galRewind s q, rfl, ?_⟩
  rw [hback]
  exact ⟨(gq_of_qs (congrArg Galley.qs hgal) q).trans (gq_setGq_self ..), fun p hp => (gq_of_qs (congrArg Galley.qs hgal) p).trans
    ((gq_setGq_ne _ _ hp).trans (gq_of_qs (qs_spill ..) p)), by rw [hcount, State.fld_of_rf_eq hrf], (Touches.of_rf _ hrf).trans htouch⟩

theorem itemRewind_open_goes {q : Nat} {it : GItem} (ho : (s.gq q).opened = some it) : Goes (.itemRewind q) s fun t =>
      t.gq q = { s.gq q with opened := none } ∧ (∀ p, p ≠ q → t.gq p = s.gq p) ∧
        t.fld (R.GAL.Q_RWND.COUNT q) = min (2 ^ 32 - 1) (s.fld (R.GAL.Q_RWND.COUNT q) + 1) ∧
          Touches (rewindFlds q) s t := by
  have hback : galRewind s q = galRwnd ((spill s it.cells it.bytes).setGq q { s.gq q with opened := none }) q := by
    unfold galRewind
    dsimp only
    rw [ho]
  obtain ⟨hgal, htouch, hcount⟩ := galRwnd_leaves ((spill s it.cells it.bytes).setGq q { s.gq q with opened := none }) q
  have hrf : ((spill s it.cells it.bytes).setGq q { s.gq q with opened := none }).rf = s.rf := rf_spill ..
  refine ⟨galRewind s q, rfl, ?_⟩
  rw [hback]
  exact ⟨(gq_of_qs (congrArg Galley.qs hgal) q).trans (gq_setGq_self ..), fun p hp => (gq_of_qs (congrArg Galley.qs hgal) p).trans
    ((gq_setGq_ne _ _ hp).trans (gq_of_qs (qs_spill ..) p)), by rw [hcount, State.fld_of_rf_eq hrf], (Touches.of_rf _ hrf).trans htouch⟩

theorem carriedSlugPlace_goes {q : Nat} {c : Carried} (hc : (s.gq q).carried = some c) (hown : (s.gq q).ownUsed = false) :
    Goes (.carriedSlugPlace q) s fun t => (t.gq q).carried = none ∧ ∃ sl, (t.gq q).elems = (s.gq q).elems ++ [.slug sl] ∧
      sl.count = min 65535 c.count ∧ sl.merged = true ∧ sl.own = true ∧ sl.folio = c.folio % 65536 ∧ sl.reason = c.reason := by
  have hexec : exec (.carriedSlugPlace q) s =
      .next (galRefresh (placeSlugIn s (slugHalf s q) q c.count c.folio c.ts c.reason true true)) := by
    show execCarriedSlugPlace q s = _
    unfold execCarriedSlugPlace
    dsimp only
    rw [hc, hown]
    rfl
  obtain ⟨sl, hcount, hfolio, -, hreason, hmerged, hsown, hgq, -⟩ :=
    placeSlugIn_slug s (slugHalf s q) q c.count c.folio c.ts c.reason true true
  refine ⟨_, hexec, ?_⟩
  dsimp only
  rw [gq_galRefresh, hgq]
  exact ⟨rfl, sl, rfl, hcount, hmerged, hsown, hfolio, hreason⟩

end

/-- Settles O37. -/
theorem galleyProducerSteps : Obligations.GalleyProducerSteps := fun _ _ _ =>
  ⟨itemOpen_unknown_goes, fun kind _ folio ts => itemOpen_granted_goes kind folio ts,
    fun kind _ folio ts _ => itemOpen_dropped_goes kind folio ts,
    fun _ _ ho hs _ hlen _ hfit _ => itemWordWrite_goes ho hs hlen hfit,
    fun _ _ he hit hpre hq => ⟨itemCommit_goes he hit hpre hq, itemRewind_last_goes he hit⟩,
    fun _ => itemRewind_open_goes, fun _ => carriedSlugPlace_goes⟩

end Sys2Proof.Machine
end

section
/-! The steps of a consumer of the galley (R282, R283). -/

namespace Sys2Proof.Machine

variable {s : State} {q : Nat}

theorem galPop_empty (h : (s.gq q).depth = 0) : galPop s q = (none, s) := if_pos h

/-- Words with no inverted bit pass their check. -/
theorem checkWord_clean (h : s.gal.flips = []) (c : CellNo) (w : Nat) : checkWord s c w = (false, s) := by
  unfold checkWord
  rw [h]
  rfl

theorem checkedWords_clean (h : s.gal.flips = []) (base : Nat) (c : CellNo) (l : List Nat) :
    checkedWords s base c l = ([], s) := by
  unfold checkedWords
  induction l with
  | nil => rfl
  | cons w l ih =>
    rw [List.foldl_cons]
    dsimp only
    rw [checkWord_clean h]
    exact ih

theorem checkCells_clean (h : s.gal.flips = []) (base : Nat) (cs : List CellNo) : checkCells s base cs = ([], s) := by
  induction cs generalizing base with
  | nil => rfl
  | cons c cs ih =>
    rw [checkCells_cons, checkedWords_clean h]
    dsimp only
    rw [ih]
    rfl

theorem errWords_clean (h : s.gal.flips = []) (cs : List CellNo) : errWords s cs = (0, 0) := by
  have hz : ∀ n ∈ cs.flatMap fun c => (List.range 8).map fun w => (s.gal.flips.filter fun f => f.1 == c && f.2.1 == w).length, n = 0 := by
    intro n hn
    obtain ⟨c, -, hn⟩ := List.mem_flatMap.mp hn
    obtain ⟨w, -, rfl⟩ := List.mem_map.mp hn
    rw [h]
    rfl
  unfold errWords
  dsimp only
  rw [List.filter_eq_nil_iff.mpr fun n hn => by simp [hz n hn], List.filter_eq_nil_iff.mpr fun n hn => by simp [hz n hn]]
  rfl

theorem dxEccCount_clean (h : s.gal.flips = []) (q : Nat) (cs : List CellNo) : dxEccCount s q cs = s := by
  unfold dxEccCount
  rw [errWords_clean h]
  exact if_pos (.inr ⟨rfl, rfl⟩)

theorem galPop_clean {e : GElem} (hd : (s.gq q).depth ≠ 0) (he : (s.gq q).elems[(s.gq q).rd]? = some e) (h : s.gal.flips = []) :
    galPop s q = (some (e, []), s.setGq q { s.gq q with rd := (s.gq q).rd + 1 }) := by
  unfold galPop
  dsimp only
  rw [if_neg hd, he]
  dsimp only
  rw [dxEccCount_clean h, checkCells_clean h]

theorem queuePop_empty_goes (h : (s.gq q).depth = 0) : Goes (.queuePop q) s fun t => t = { s with out := .galPop q none [] :: s.out } := by
  have hexec : exec (.queuePop q) s = .next (s.emit (.galPop q none [])) := by
    show execQueuePop q s = _
    unfold execQueuePop
    rw [galPop_empty h]
    rfl
  exact ⟨_, hexec, rfl⟩

theorem queuePop_goes {e : GElem} (hd : (s.gq q).depth ≠ 0) (he : (s.gq q).elems[(s.gq q).rd]? = some e) (h : s.gal.flips = []) :
    Goes (.queuePop q) s fun t => t = { s with gal := t.gal, out := .galPop q (some e) [] :: s.out } ∧
      t.gq q = { s.gq q with rd := (s.gq q).rd + 1 } ∧ ∀ p, p ≠ q → t.gq p = s.gq p := by
  have hexec : exec (.queuePop q) s = .next ((s.setGq q { s.gq q with rd := (s.gq q).rd + 1 }).emit (.galPop q (some e) [])) := by
    show execQueuePop q s = _
    unfold execQueuePop
    rw [galPop_clean hd he h]
    rfl
  exact ⟨_, hexec, rfl, gq_setGq_self .., fun p hp => gq_setGq_ne s _ hp⟩

theorem queueMark_goes : Goes (.queueMark q) s fun t => t = { s with gal := t.gal } ∧
    t.gq q = { s.gq q with mark := some (s.gq q).rd, flushed := false } ∧ ∀ p, p ≠ q → t.gq p = s.gq p :=
  ⟨_, rfl, rfl, gq_setGq_self .., fun _ hp => gq_setGq_ne s _ hp⟩

theorem queueRewind_goes {m : Nat} (h : (s.gq q).mark = some m) : Goes (.queueRewind q) s fun t =>
    t = { s with gal := t.gal, out := .galBack q 0 :: s.out } ∧ t.gq q = { s.gq q with rd := m } := by
  have hexec : exec (.queueRewind q) s = .next ((s.setGq q { s.gq q with rd := m }).emit (.galBack q 0)) := by
    show execQueueRewind q s = _
    unfold execQueueRewind galBack
    dsimp only
    rw [h]
  exact ⟨_, hexec, rfl, gq_setGq_self ..⟩

theorem queueRewind_unmarked_goes (h : (s.gq q).mark = none) : Goes (.queueRewind q) s fun t =>
    t = { s with out := .galBack q (if (s.gq q).flushed then 2 else 1) :: s.out } := by
  have hexec : exec (.queueRewind q) s = .next (s.emit (.galBack q (if (s.gq q).flushed then 2 else 1))) := by
    show execQueueRewind q s = _
    unfold execQueueRewind galBack
    dsimp only
    rw [h]
  exact ⟨_, hexec, rfl⟩

/-- What freeing the first elements of a queue leaves. -/
theorem galFreeFirst_leaves (s : State) (q n : Nat) : ((galFreeFirst s q n).gq q).elems = (s.gq q).elems.drop n ∧
    ((galFreeFirst s q n).gq q).rd = (s.gq q).rd - n ∧ ((galFreeFirst s q n).gq q).opened = (s.gq q).opened ∧
    (∀ p, p ≠ q → (galFreeFirst s q n).gq p = s.gq p) ∧ (galFreeFirst s q n).rf = s.rf := by
  unfold galFreeFirst
  dsimp only
  rw [gq_setGq_self]
  exact ⟨rfl, rfl, rfl, fun p hp => (gq_setGq_ne _ _ hp).trans (gq_of_qs (qs_spillAll ..) p), rf_spillAll ..⟩

theorem queueRelease_goes : Goes (.queueRelease q false) s fun t => (t.gq q).elems = (s.gq q).elems.drop (s.gq q).rd ∧
    (t.gq q).rd = 0 ∧ (t.gq q).opened = (s.gq q).opened ∧ (∀ p, p ≠ q → t.gq p = s.gq p) ∧ Touches [R.GAL.EVT.LOW] s t := by
  obtain ⟨helems, hrd, hopen, hrest, hrf⟩ := galFreeFirst_leaves s q (s.gq q).rd
  have hexec : exec (.queueRelease q false) s = .next (galRefresh (galFreeFirst s q (s.gq q).rd)) := by
    show execQueueRelease q false s = _
    unfold execQueueRelease galRelease
    dsimp only
    rw [if_neg Bool.false_ne_true, Nat.min_self]
  exact ⟨_, hexec, helems, hrd.trans (Nat.sub_self _), hopen, hrest, touches_galRefresh (Touches.of_rf _ hrf) (by simp)⟩

theorem queueRelease_mark_goes {m : Nat} (hm : (s.gq q).mark = some m) (hle : m ≤ (s.gq q).rd) : Goes (.queueRelease q true) s fun t =>
    (t.gq q).elems = (s.gq q).elems.drop m ∧ (t.gq q).rd = (s.gq q).rd - m ∧ Touches [R.GAL.EVT.LOW] s t := by
  obtain ⟨helems, hrd, -, -, hrf⟩ := galFreeFirst_leaves s q m
  have hexec : exec (.queueRelease q true) s = .next (galRefresh (galFreeFirst s q m)) := by
    show execQueueRelease q true s = _
    unfold execQueueRelease galRelease
    dsimp only
    rw [if_pos rfl, hm, Option.getD_some, Nat.min_eq_left hle]
  exact ⟨_, hexec, helems, hrd, touches_galRefresh (Touches.of_rf _ hrf) (by simp)⟩

/-- Settles O38. -/
theorem galleyConsumerSteps : Obligations.GalleyConsumerSteps := fun _ _ _ =>
  ⟨queuePop_empty_goes, fun _ => queuePop_goes, queueMark_goes, fun _ => queueRewind_goes, queueRewind_unmarked_goes,
    queueRelease_goes, fun _ => queueRelease_mark_goes⟩

end Sys2Proof.Machine
end

section
/-! The galley's maintenance (R272, R278, R284 to R290). -/

namespace Sys2Proof.Machine

/-! ### What a discard leaves (R284) -/

/-- The elements a flush counts as lost, and what its slug says of them. -/
def goneOf (x : GQueue) : List GElem := x.elems.drop x.rd ++ (match x.opened with | some it => [GElem.item it] | none => [])

def lossOf (x : GQueue) : Nat := ((goneOf x).map GElem.lossCount).sum

theorem lost_storeMark (s : State) (c : CellNo) (w : Nat) : (storeMark s c w).gal.lost = s.gal.lost := by
  unfold storeMark
  dsimp only
  split <;> rfl

theorem lost_placeSlugIn (s : State) (h q n folio ts reason : Nat) (merged own : Bool) :
    (placeSlugIn s h q n folio ts reason merged own).gal.lost = s.gal.lost :=
  (lost_storeMark ..).trans ((lost_storeMark ..).trans rfl)

theorem lost_spill (s : State) (cs : List CellNo) (b : List Byte) : (spill s cs b).gal.lost = s.gal.lost := by
  induction cs generalizing s b with
  | nil => rfl
  | cons c cs ih =>
    unfold spill
    rw [ih]

theorem lost_spillAll (s : State) (es : List GElem) : (es.foldl spillElem s).gal.lost = s.gal.lost := by
  induction es generalizing s with
  | nil => rfl
  | cons e es ih => exact (ih _).trans (lost_spill ..)

/-- A queue that was discarded, its loss not yet marked. -/
def discarded (x : GQueue) : GQueue :=
  { x with elems := [], rd := 0, mark := none, opened := none, flushed := true, swallow := x.swallow || x.opened.isSome, slugFresh := false }

/-- The state of a discard before its slug. -/
def drained (s : State) (q : Nat) : State :=
  let x := s.gq q
  let s := x.elems.foldl spillElem s
  let s := (match x.opened with | some it => [GElem.item it] | none => []).foldl spillElem s
  countDrops (s.setGq q (discarded x)) q ((goneOf x).filter fun e => !e.isSlug).length

theorem galDiscardIn_eq (s : State) (h q reason : Nat) : galDiscardIn s h q reason =
    (let u := if lossOf (s.gq q) = 0 then drained s q else placeSlugIn (drained s q) h q (lossOf (s.gq q))
      (((goneOf (s.gq q)).map GElem.stamp).headD (0, 0)).1 (((goneOf (s.gq q)).map GElem.stamp).headD (0, 0)).2 reason false true
     u.setGq q { u.gq q with carried := (s.gq q).carried }) := rfl

theorem drained_leaves (s : State) (q : Nat) : (drained s q).gq q = discarded (s.gq q) ∧ (∀ p, p ≠ q → (drained s q).gq p = s.gq p) ∧
    (drained s q).gal.lost = s.gal.lost := by
  have hqs : ∀ es es' : List GElem, ((es'.foldl spillElem (es.foldl spillElem s)).gal.qs = s.gal.qs) := fun es es' =>
    (qs_spillAll ..).trans (qs_spillAll ..)
  have hlost : ∀ es es' : List GElem, ((es'.foldl spillElem (es.foldl spillElem s)).gal.lost = s.gal.lost) := fun es es' =>
    (lost_spillAll ..).trans (lost_spillAll ..)
  unfold drained
  dsimp only
  generalize (match (s.gq q).opened with | some it => [GElem.item it] | none => []) = ab
  have hq := hqs (s.gq q).elems ab
  have hl := hlost (s.gq q).elems ab
  generalize ab.foldl spillElem ((s.gq q).elems.foldl spillElem s) = u at hq hl
  have hgal := gal_countDrops (u.setGq q (discarded (s.gq q))) q ((goneOf (s.gq q)).filter fun e => !e.isSlug).length
  have hgq := gq_of_qs (congrArg Galley.qs hgal)
  exact ⟨(hgq q).trans (gq_setGq_self ..), fun p hp => (hgq p).trans ((gq_setGq_ne u _ hp).trans (gq_of_qs hq p)),
    (congrArg Galley.lost hgal).trans hl⟩

/-- A discarded queue: empty, or with the one slug that stands for what was lost. -/
theorem galDiscardIn_leaves (s : State) (h q reason : Nat) : ((galDiscardIn s h q reason).gq q).rd = 0 ∧
    ((galDiscardIn s h q reason).gq q).mark = none ∧ ((galDiscardIn s h q reason).gq q).opened = none ∧
    (lossOf (s.gq q) = 0 → ((galDiscardIn s h q reason).gq q).elems = []) ∧
    (lossOf (s.gq q) ≠ 0 → ∃ sl, ((galDiscardIn s h q reason).gq q).elems = [.slug sl] ∧ sl.count = min 65535 (lossOf (s.gq q)) ∧
      sl.reason = reason ∧ sl.folio = (((goneOf (s.gq q)).map GElem.stamp).headD (0, 0)).1 % 65536) ∧
    (galDiscardIn s h q reason).gal.lost = s.gal.lost := by
  obtain ⟨hgq, -, hlost⟩ := drained_leaves s q
  obtain ⟨sl, hcount, hfolio, -, hreason, -, -, hslug, -⟩ := placeSlugIn_slug (drained s q) h q (lossOf (s.gq q))
    (((goneOf (s.gq q)).map GElem.stamp).headD (0, 0)).1 (((goneOf (s.gq q)).map GElem.stamp).headD (0, 0)).2 reason false true
  have hslost := lost_placeSlugIn (drained s q) h q (lossOf (s.gq q))
    (((goneOf (s.gq q)).map GElem.stamp).headD (0, 0)).1 (((goneOf (s.gq q)).map GElem.stamp).headD (0, 0)).2 reason false true
  rw [galDiscardIn_eq]
  dsimp only
  generalize drained s q = u at hgq hlost hslug hslost
  split
  next hz =>
    rw [gq_setGq_self, hgq]
    exact ⟨rfl, rfl, rfl, fun _ => rfl, fun hn => absurd hz hn, hlost⟩
  next hn =>
    rw [gq_setGq_self, hslug, hgq]
    exact ⟨rfl, rfl, rfl, fun hz => absurd hz hn, fun _ => ⟨sl, rfl, hcount, hreason, hfolio⟩, hslost.trans hlost⟩

/-! ### Flushes (R284, R285, R288) -/

/-- The fields a started flush of queue `q` may write. -/
def flushFlds (q : Nat) : List Fld :=
  R.GAL.EVT.LOW :: R.GAL.FLUSH.GO :: R.GAL.FLUSH.QUEUE :: R.GAL.FLUSH_STAT.BUSY :: R.GAL.FLUSH_STAT.LAST_Q ::
    R.GAL.Q_STAT.FLUSHING q :: dropFlds q

theorem apart_dropFlds {q : Nat} {f : Fld} (h : f ∈ R.GAL.EVT.LOW :: dropFlds q) :
    R.GAL.FLUSH_STAT.BUSY.apart f = true ∧ R.GAL.FLUSH_STAT.LAST_Q.apart f = true ∧ (R.GAL.Q_STAT.FLUSHING q).apart f = true ∧
      R.GAL.EVT.LINK_ERR.apart f = true := by
  simp only [dropFlds, List.mem_cons, List.not_mem_nil, or_false] at h
  rcases h with rfl | rfl | rfl | rfl | rfl | rfl | rfl
  · exact ⟨by decide, by decide, Fld.apart_of_key_ne (by simp only [R.GAL.Q_STAT.FLUSHING, R.GAL.EVT.LOW, itemKey]; omega), by decide⟩
  · refine ⟨Fld.apart_of_key_ne ?_, Fld.apart_of_key_ne ?_, Fld.apart_of_key_ne ?_, Fld.apart_of_key_ne ?_⟩ <;>
      simp only [R.GAL.FLUSH_STAT.BUSY, R.GAL.FLUSH_STAT.LAST_Q, R.GAL.Q_STAT.FLUSHING, R.GAL.EVT.LINK_ERR, R.GAL.Q_DROPS.COUNT, itemKey] <;> omega
  · refine ⟨Fld.apart_of_key_ne ?_, Fld.apart_of_key_ne ?_, ?_, Fld.apart_of_key_ne ?_⟩
    · simp only [R.GAL.FLUSH_STAT.BUSY, R.GAL.Q_STAT.Q_SAT, itemKey]; omega
    · simp only [R.GAL.FLUSH_STAT.LAST_Q, R.GAL.Q_STAT.Q_SAT, itemKey]; omega
    · simp [Fld.apart, R.GAL.Q_STAT.FLUSHING, R.GAL.Q_STAT.Q_SAT]
    · simp only [R.GAL.EVT.LINK_ERR, R.GAL.Q_STAT.Q_SAT, itemKey]; omega
  · exact ⟨by decide, by decide, Fld.apart_of_key_ne (by simp only [R.GAL.Q_STAT.FLUSHING, R.GAL.DROP_CNT.COUNT, itemKey]; omega), by decide⟩
  · exact ⟨by decide, by decide, Fld.apart_of_key_ne (by simp only [R.GAL.Q_STAT.FLUSHING, R.GAL.SAT.SAT_F, itemKey]; omega), by decide⟩
  · exact ⟨by decide, by decide, Fld.apart_of_key_ne (by simp only [R.GAL.Q_STAT.FLUSHING, R.GAL.EVT.DROP, itemKey]; omega), by decide⟩
  · exact ⟨by decide, by decide, Fld.apart_of_key_ne (by simp only [R.GAL.Q_STAT.FLUSHING, R.GAL.INJECT.ARM, itemKey]; omega), by decide⟩

section
variable {s : State} {q : Nat}

/-- The registers of a started flush. -/
def flushMarked (s : State) (q : Nat) : State :=
  (s.setFlds [(R.GAL.FLUSH.GO, 1), (R.GAL.FLUSH.QUEUE, q), (R.GAL.FLUSH_STAT.BUSY, 1), (R.GAL.FLUSH_STAT.LAST_Q, q)]).setFld
    (R.GAL.Q_STAT.FLUSHING q) 1

theorem flushMarked_fld (hq : q < 1024) : (flushMarked s q).fld R.GAL.FLUSH_STAT.BUSY = 1 ∧
    (flushMarked s q).fld R.GAL.FLUSH_STAT.LAST_Q = q ∧ (flushMarked s q).fld (R.GAL.Q_STAT.FLUSHING q) = 1 ∧
    (flushMarked s q).fld R.GAL.EVT.LINK_ERR = s.fld R.GAL.EVT.LINK_ERR := by
  refine ⟨?_, ?_, State.fld_setFld_mod _ (R.GAL.Q_STAT.FLUSHING q) 1 rfl, ?_⟩
  · refine (State.fld_setFld_ne _ 1 ?_).trans (State.fld_setFlds s 2 rfl rfl rfl (by decide))
    simp only [R.GAL.FLUSH_STAT.BUSY, R.GAL.Q_STAT.FLUSHING, itemKey]; omega
  · refine (State.fld_setFld_ne _ 1 ?_).trans (State.fld_setFlds s 3 rfl rfl rfl hq)
    simp only [R.GAL.FLUSH_STAT.LAST_Q, R.GAL.Q_STAT.FLUSHING, itemKey]; omega
  · refine (State.fld_setFld_ne _ 1 ?_).trans (State.fld_setFlds_apart s rfl)
    simp only [R.GAL.EVT.LINK_ERR, R.GAL.Q_STAT.FLUSHING, itemKey]; omega

theorem flushStart_eq (hb : s.flag R.GAL.FLUSH_STAT.BUSY = false) : ∃ u : State, u = galDiscard (flushMarked s q) q reasonFlushed ∧
    flushStart s q = galRefresh { u with gal := { u.gal with flushWait := (s.gq q).opened.isSome } } := by
  refine ⟨_, rfl, ?_⟩
  unfold flushStart
  rw [hb, if_neg Bool.false_ne_true]
  rfl

theorem gq_flushMarked (s : State) (q p : Nat) : (flushMarked s q).gq p = s.gq p := rfl

/-- What starting a flush leaves (R284, R285). -/
theorem flushStart_leaves (hq : q < 1024) (hb : s.flag R.GAL.FLUSH_STAT.BUSY = false) :
    (flushStart s q).fld R.GAL.FLUSH_STAT.BUSY = 1 ∧ (flushStart s q).fld R.GAL.FLUSH_STAT.LAST_Q = q ∧
    (flushStart s q).fld (R.GAL.Q_STAT.FLUSHING q) = 1 ∧
    (flushStart s q).fld R.GAL.EVT.LINK_ERR = s.fld R.GAL.EVT.LINK_ERR ∧
    (flushStart s q).gal.flushWait = (s.gq q).opened.isSome ∧ (flushStart s q).gal.lost = s.gal.lost ∧
    ((flushStart s q).gq q).rd = 0 ∧ ((flushStart s q).gq q).mark = none ∧ ((flushStart s q).gq q).opened = none ∧
    (lossOf (s.gq q) = 0 → ((flushStart s q).gq q).elems = []) ∧
    (lossOf (s.gq q) ≠ 0 → ∃ sl, ((flushStart s q).gq q).elems = [.slug sl] ∧ sl.count = min 65535 (lossOf (s.gq q)) ∧
      sl.reason = 4 ∧ sl.folio = (((goneOf (s.gq q)).map GElem.stamp).headD (0, 0)).1 % 65536) := by
  obtain ⟨u, hu, e⟩ := flushStart_eq (q := q) hb
  obtain ⟨hbusy, hlast, hflush, hlink⟩ := flushMarked_fld (s := s) hq
  obtain ⟨hrd, hmark, hopen, hnil, hslug, hlost⟩ := galDiscardIn_leaves (flushMarked s q) (slugHalf (flushMarked s q) q) q reasonFlushed
  have htouch : Touches (R.GAL.EVT.LOW :: dropFlds q) (flushMarked s q) (galDiscard (flushMarked s q) q reasonFlushed) :=
    touches_galDiscard (.refl _ _) _ fun f hf => List.mem_cons_of_mem _ hf
  rw [show galDiscardIn (flushMarked s q) (slugHalf (flushMarked s q) q) q reasonFlushed = u from hu.symm] at hrd hmark hopen hnil hslug hlost
  rw [← hu] at htouch
  have hall : Touches (R.GAL.EVT.LOW :: dropFlds q) (flushMarked s q) (flushStart s q) := by
    rw [e]
    exact touches_galRefresh (touches_rf (t := u) rfl htouch) List.mem_cons_self
  refine ⟨(hall.fld fun f hf => (apart_dropFlds hf).1).trans hbusy, (hall.fld fun f hf => (apart_dropFlds hf).2.1).trans hlast,
    (hall.fld fun f hf => (apart_dropFlds hf).2.2.1).trans hflush, (hall.fld fun f hf => (apart_dropFlds hf).2.2.2).trans hlink, ?_⟩
  rw [e]
  exact ⟨rfl, hlost, hrd, hmark, hopen, hnil, hslug⟩

end

end Sys2Proof.Machine
end

section
/-! The galley's maintenance steps: flushes, link errors, the scrubber, reservations, budgets and the diagnostic window (R272,
R278, R284 to R290). -/

namespace Sys2Proof.Machine

section
variable {s : State} {q : Nat}

theorem flushStart_goes (hq : q < 1024) (hb : s.flag R.GAL.FLUSH_STAT.BUSY = false) : Goes (.flushStart q) s fun t =>
    t.fld R.GAL.FLUSH_STAT.BUSY = 1 ∧ t.fld R.GAL.FLUSH_STAT.LAST_Q = q ∧ t.fld (R.GAL.Q_STAT.FLUSHING q) = 1 ∧
      t.gal.flushWait = (s.gq q).opened.isSome ∧ (t.gq q).rd = 0 ∧ (t.gq q).mark = none ∧ (t.gq q).opened = none ∧
      ((s.gq q).elems = [] → (s.gq q).opened = none → (t.gq q).elems = []) ∧
      ∀ it, (s.gq q).elems = [.item it] → (s.gq q).rd = 0 → (s.gq q).opened = none → ∃ sl, (t.gq q).elems = [.slug sl] ∧
        sl.count = 1 ∧ sl.reason = 4 ∧ sl.folio = it.folio % 65536 := by
  obtain ⟨hbusy, hlast, hflush, -, hwait, -, hrd, hmark, hopen, hnil, hslug⟩ := flushStart_leaves hq hb
  refine ⟨_, rfl, hbusy, hlast, hflush, hwait, hrd, hmark, hopen, fun he ho => hnil ?_, fun it he hr ho => ?_⟩
  · unfold lossOf goneOf
    rw [he, ho, List.drop_nil]
    rfl
  · have hgone : goneOf (s.gq q) = [.item it] := by
      unfold goneOf
      rw [he, hr, ho]
      rfl
    have hloss : lossOf (s.gq q) = 1 := by
      unfold lossOf
      rw [hgone]
      rfl
    obtain ⟨sl, helems, hcount, hreason, hfolio⟩ := hslug (by rw [hloss]; decide)
    rw [hloss] at hcount
    rw [hgone] at hfolio
    exact ⟨sl, helems, hcount, hreason, hfolio⟩

/-- The registers of a flush's end (R285). -/
theorem flushDone_leaves (s : State) : (flushDone s).fld R.GAL.FLUSH_STAT.BUSY = 0 ∧ (flushDone s).fld R.GAL.FLUSH_STAT.DONE = 1 ∧
    (flushDone s).fld (R.GAL.Q_STAT.FLUSHING (s.fld R.GAL.FLUSH_STAT.LAST_Q)) = 0 ∧
    (flushDone s).fld R.GAL.FLUSH_STAT.FLUSH_ABORT = s.fld R.GAL.FLUSH_STAT.FLUSH_ABORT ∧
    (flushDone s).gal = { s.gal with flushWait := false } := by
  have hne : ∀ f ∈ [R.GAL.FLUSH_STAT.BUSY, R.GAL.FLUSH_STAT.DONE, R.GAL.FLUSH_STAT.FLUSH_ABORT],
      f.key ≠ (R.GAL.Q_STAT.FLUSHING (s.fld R.GAL.FLUSH_STAT.LAST_Q)).key := by
    intro f hf
    simp only [List.mem_cons, List.not_mem_nil, or_false] at hf
    rcases hf with rfl | rfl | rfl <;> simp only [R.GAL.FLUSH_STAT.BUSY, R.GAL.FLUSH_STAT.DONE, R.GAL.FLUSH_STAT.FLUSH_ABORT,
      R.GAL.Q_STAT.FLUSHING, itemKey] <;> omega
  let u := s.setFlds [(R.GAL.FLUSH_STAT.DONE, 1), (R.GAL.FLUSH_STAT.BUSY, 0), (R.GAL.FLUSH.GO, 0)]
  have hrf : (flushDone s).rf = (u.setFld (R.GAL.Q_STAT.FLUSHING (s.fld R.GAL.FLUSH_STAT.LAST_Q)) 0).rf := rfl
  refine ⟨?_, ?_, ?_, ?_, rfl⟩
  · rw [State.fld_of_rf_eq hrf, State.fld_setFld_ne _ _ (hne _ (by simp))]
    exact State.fld_setFlds s 1 rfl rfl rfl (by decide)
  · rw [State.fld_of_rf_eq hrf, State.fld_setFld_ne _ _ (hne _ (by simp))]
    exact State.fld_setFlds s 0 rfl rfl rfl (by decide)
  · rw [State.fld_of_rf_eq hrf]
    exact State.fld_setFld_mod u (R.GAL.Q_STAT.FLUSHING _) 0 rfl
  · rw [State.fld_of_rf_eq hrf, State.fld_setFld_ne _ _ (hne _ (by simp))]
    exact State.fld_setFlds_apart s rfl

theorem flushEnd_goes (hb : s.flag R.GAL.FLUSH_STAT.BUSY = true) (hw : s.gal.flushWait = false) : Goes .flushEnd s fun t =>
    t.fld R.GAL.FLUSH_STAT.BUSY = 0 ∧ t.fld R.GAL.FLUSH_STAT.DONE = 1 ∧
      t.fld (R.GAL.Q_STAT.FLUSHING (s.fld R.GAL.FLUSH_STAT.LAST_Q)) = 0 ∧ t.gal = s.gal := by
  obtain ⟨hbusy, hdone, hflush, -, hgal⟩ := flushDone_leaves s
  refine ⟨_, if_pos (by rw [hb, hw]; rfl), hbusy, hdone, hflush, hgal.trans ?_⟩
  rw [← hw]

theorem flushForcedAbort_goes (hb : s.flag R.GAL.FLUSH_STAT.BUSY = true) (hw : s.gal.flushWait = true) : Goes .flushForcedAbort s fun t =>
    t.fld R.GAL.FLUSH_STAT.BUSY = 0 ∧ t.fld R.GAL.FLUSH_STAT.FLUSH_ABORT = 1 ∧ t.gal.flushWait = false ∧
      (t.gq (s.fld R.GAL.FLUSH_STAT.LAST_Q)).swallow = false := by
  let u := (s.setGq (s.fld R.GAL.FLUSH_STAT.LAST_Q) { s.gq (s.fld R.GAL.FLUSH_STAT.LAST_Q) with swallow := false }).setFld
    R.GAL.FLUSH_STAT.FLUSH_ABORT 1
  obtain ⟨hbusy, -, -, habort, hgal⟩ := flushDone_leaves u
  have hexec : exec .flushForcedAbort s = .next (flushDone u) := if_pos (by rw [hb, hw]; rfl)
  refine ⟨_, hexec, hbusy, habort.trans (State.fld_setFld_mod _ R.GAL.FLUSH_STAT.FLUSH_ABORT 1 rfl), by rw [hgal], ?_⟩
  rw [gq_of_qs (s := u) (by rw [hgal])]
  exact congrArg GQueue.swallow (gq_setGq_self s _ _)

/-- The failed link's registers (R288). -/
def linkMarked (s : State) (c : CellNo) : State :=
  errLatch ((s.setFld R.GAL.EVT.LINK_ERR 1).countSat R.GAL.LINK_CNT.COUNT R.GAL.SAT.SAT_F 6) 4 0 c

/-- Cells cut off from their queue. -/
def cutOff (s : State) (cut : List CellNo) : State := { s with gal := { s.gal with lost := s.gal.lost ++ cut } }

theorem latchOnce_gal (s : State) (k : Nat) (l : List (Fld × Nat)) : (s.latchOnce k l).gal = s.gal := by
  unfold State.latchOnce
  split
  · rfl
  · show (s.setFlds l).gal = s.gal
    rw [State.setFlds_frame s l]

theorem linkMarked_leaves (s : State) (c : CellNo) : (linkMarked s c).gal = s.gal ∧
    (linkMarked s c).fld R.GAL.EVT.LINK_ERR = 1 ∧ (linkMarked s c).fld R.GAL.FLUSH_STAT.BUSY = s.fld R.GAL.FLUSH_STAT.BUSY := by
  have hset := State.fld_setFld_mod s R.GAL.EVT.LINK_ERR 1 rfl
  have hbusy : (s.setFld R.GAL.EVT.LINK_ERR 1).fld R.GAL.FLUSH_STAT.BUSY = s.fld R.GAL.FLUSH_STAT.BUSY :=
    State.fld_setFld_ne s 1 (by decide)
  have hgal : (s.setFld R.GAL.EVT.LINK_ERR 1).gal = s.gal := rfl
  unfold linkMarked
  generalize s.setFld R.GAL.EVT.LINK_ERR 1 = v at hset hbusy hgal
  have htouch : Touches [R.GAL.LINK_CNT.COUNT, R.GAL.SAT.SAT_F, R.GAL.ERR_ADDR.KIND, R.GAL.ERR_ADDR.WORD, R.GAL.ERR_ADDR.CELL] v
      (errLatch (v.countSat R.GAL.LINK_CNT.COUNT R.GAL.SAT.SAT_F 6) 4 0 c) := by
    refine touches_latchOnce ?_ (touches_countSat 6 (by simp) (by simp) (.refl _ v))
    intro p hp
    simp only [List.mem_cons, List.not_mem_nil, or_false] at hp ⊢
    rcases hp with rfl | rfl | rfl <;> simp
  refine ⟨?_, (htouch.fld (f := R.GAL.EVT.LINK_ERR) (by decide)).trans hset,
    (htouch.fld (f := R.GAL.FLUSH_STAT.BUSY) (by decide)).trans hbusy⟩
  rw [errLatch, latchOnce_gal, countSat_frame]
  exact hgal

theorem linkCut_leaves (s : State) (c : CellNo) (cut : List CellNo) :
    (cutOff (linkMarked s c) cut).gal = { s.gal with lost := s.gal.lost ++ cut } ∧
    (cutOff (linkMarked s c) cut).fld R.GAL.EVT.LINK_ERR = 1 ∧
    (cutOff (linkMarked s c) cut).fld R.GAL.FLUSH_STAT.BUSY = s.fld R.GAL.FLUSH_STAT.BUSY := by
  obtain ⟨hgal, hlink, hbusy⟩ := linkMarked_leaves s c
  generalize linkMarked s c = u at hgal hlink hbusy
  refine ⟨?_, hlink, hbusy⟩
  unfold cutOff
  rw [hgal]

theorem linkParityError_goes {j : Nat} {c : CellNo} (hq : q < 1024) (hb : s.flag R.GAL.FLUSH_STAT.BUSY = false)
    (hj : (s.gq q).cells[j]? = some c) : Goes (.linkParityError q j) s fun t =>
      t.fld R.GAL.EVT.LINK_ERR = 1 ∧ t.fld R.GAL.FLUSH_STAT.BUSY = 1 ∧ t.fld R.GAL.FLUSH_STAT.LAST_Q = q ∧
        (t.gq q).rd = 0 ∧ ∀ x ∈ (s.gq q).cells.drop (j + 1), x ∈ t.gal.lost := by
  obtain ⟨hgal, hlink, hbusy⟩ := linkCut_leaves s c ((s.gq q).cells.drop (j + 1))
  have hb' : (cutOff (linkMarked s c) ((s.gq q).cells.drop (j + 1))).flag R.GAL.FLUSH_STAT.BUSY = false := by
    rw [State.flag, hbusy]
    exact hb
  have hexec : exec (.linkParityError q j) s = .next (flushStart (cutOff (linkMarked s c) ((s.gq q).cells.drop (j + 1))) q) := by
    show execLinkParityError q j s = _
    unfold execLinkParityError
    dsimp only
    rw [hj]
    exact if_neg (show ¬ (cutOff (linkMarked s c) ((s.gq q).cells.drop (j + 1))).flag R.GAL.FLUSH_STAT.BUSY = true by rw [hb']; exact Bool.false_ne_true)
  generalize cutOff (linkMarked s c) ((s.gq q).cells.drop (j + 1)) = u at hgal hlink hb' hexec
  obtain ⟨hbusy', hlast, -, hlink', -, hlost, hrd, -⟩ := flushStart_leaves hq hb'
  refine ⟨_, hexec, hlink'.trans hlink, hbusy', hlast, hrd, fun x hx => ?_⟩
  rw [hlost, hgal]
  exact List.mem_append_right _ hx

/-! ### The scrubber and the free lists (R272, R289) -/

theorem storeMark_clean {s : State} (ha : s.flag R.GAL.INJECT.ARM = false) (hf : s.gal.flips = []) (c : CellNo) (w : Nat) :
    storeMark s c w = s := by
  have hfl : (s.gal.flips.filter fun f => !(f.1 == c && f.2.1 == w)) = s.gal.flips := by rw [hf]; rfl
  unfold storeMark
  dsimp only
  rw [hfl, if_neg (by rw [ha]; simp)]

theorem patCell_clean {s : State} (ha : s.flag R.GAL.INJECT.ARM = false) (hf : s.gal.flips = []) (pat : List Byte) (c : CellNo) :
    patCell s pat c = { s with gal := { s.gal with mem := memWrite s.gal.mem (cellAddr c 0) (List.replicate 8 pat).flatten } } := by
  unfold patCell
  generalize List.range 8 = l
  induction l with
  | nil => rfl
  | cons w l ih =>
    rw [List.foldl_cons, storeMark_clean (by exact ha) (by exact hf)]
    exact ih

theorem touches_scrubPass {l : List Fld} {t : State} (h : Touches l s t) (hl : R.GAL.SCRUB_STAT.PASSES ∈ l) : Touches l s (scrubPass t) :=
  touches_rf (t := t.count R.GAL.SCRUB_STAT.PASSES) rfl (touches_count hl h)

theorem gal_scrubPass (s : State) : (scrubPass s).gal = { s.gal with scrubPos := 0, lost := [] } := by
  unfold scrubPass
  dsimp only
  rw [State.count_frame]

/-- A free cell rewritten by the scrubber with its pattern, where nothing is inverted. -/
def scrubbed (s : State) (c : Nat) : State := { s with
  freeCtr := s.freeCtr + 1
  gal := { s.gal with
    mem := memWrite s.gal.mem (cellAddr (cellOf c) 0) (List.replicate 8 (leBytes 8 (Config.freeValue s.freeCtr).toNat)).flatten
    scrubPos := c + 1 } }

theorem exec_scrubCell_clean {c : Nat} (hen : s.flag R.GAL.SCRUB.EN = true) (ha : s.flag R.GAL.INJECT.ARM = false)
    (hnext : nextFree (usedCells s) s (131072 - s.gal.scrubPos) s.gal.scrubPos = some c) (hf : s.gal.flips = []) :
    exec (.scrubCell false) s = .next (galRefresh (if c = 131071 then scrubPass (scrubbed s c) else scrubbed s c)) := by
  have hpat := patCell_clean (s := { s with freeCtr := s.freeCtr + 1 }) ha hf (leBytes 8 (Config.freeValue s.freeCtr).toNat) (cellOf c)
  have hcheck := checkCells_clean (s := scrubbed s c) hf 0 [cellOf c]
  unfold scrubbed at hcheck ⊢
  show execScrubCell false s = _
  unfold execScrubCell
  rw [hen, if_neg (by simp), hnext]
  dsimp only
  rw [checkCells_clean hf]
  dsimp only [State.fresh]
  dsimp only at hpat hcheck
  simp only [hpat, hcheck]
  rfl

theorem scrubbed_leaves (s : State) (c : Nat) : (scrubbed s c).rf = s.rf ∧ (scrubbed s c).gal.qs = s.gal.qs ∧
    (scrubbed s c).gal.retired = s.gal.retired ∧ (scrubbed s c).gal.scrubPos = c + 1 := ⟨rfl, rfl, rfl, rfl⟩

theorem scrubCell_goes {c : Nat} (hen : s.flag R.GAL.SCRUB.EN = true) (ha : s.flag R.GAL.INJECT.ARM = false)
    (hnext : nextFree (usedCells s) s (131072 - s.gal.scrubPos) s.gal.scrubPos = some c) (hf : s.gal.flips = []) :
    Goes (.scrubCell false) s fun t => t.gal.qs = s.gal.qs ∧ t.gal.retired = s.gal.retired ∧
      t.gal.scrubPos = (if c = 131071 then 0 else c + 1) ∧ Touches [R.GAL.SCRUB_STAT.PASSES, R.GAL.EVT.LOW] s t := by
  have hexec := exec_scrubCell_clean hen ha hnext hf
  obtain ⟨hrf, hqs, hret, hpos⟩ := scrubbed_leaves s c
  generalize scrubbed s c = v at hexec hrf hqs hret hpos
  refine ⟨_, hexec, ?_⟩
  dsimp only
  rw [gal_galRefresh]
  have hv : Touches [R.GAL.SCRUB_STAT.PASSES, R.GAL.EVT.LOW] s v := Touches.of_rf _ hrf
  split
  · rw [gal_scrubPass]
    exact ⟨hqs, hret, rfl, touches_galRefresh (touches_scrubPass hv (by simp)) (by simp)⟩
  · exact ⟨hqs, hret, hpos, touches_galRefresh hv (by simp)⟩

/-- A half's free list is built. -/
def listBuilt (s : State) (h : Nat) : State := { s with gal := { s.gal with built := modifyAt s.gal.built h (fun _ => true) } }

theorem freeListBuilt_goes {h : Nat} (hl : h < s.gal.built.length) (hd : s.domOn (3 + h) = true) : Goes (.freeListBuilt h) s fun t =>
    t.gal.built.getD h false = true ∧ t.fld (if h = 0 then R.GAL.POOL.BUILD0 else R.GAL.POOL.BUILD1) = 0 ∧ t.gal.qs = s.gal.qs := by
  generalize hf : (if h = 0 then R.GAL.POOL.BUILD0 else R.GAL.POOL.BUILD1) = f
  have hexec : exec (.freeListBuilt h) s = .next (galRefresh (listBuilt (s.setFld f 0) h)) := by
    rw [← hf]
    exact if_neg (by rw [hd]; simp)
  have hwide : (f.lo + f.w).ble 32 = true := by
    rw [← hf]
    split <;> rfl
  have hlow : f.apart R.GAL.EVT.LOW = true := by
    rw [← hf]
    split <;> rfl
  refine ⟨_, hexec, getD_modifyAt_self _ _ hl, ?_, rfl⟩
  exact (State.fld_setFld_apart (listBuilt (s.setFld f 0) h) _ hlow).trans (State.fld_setFld_mod s f 0 hwide)

/-! ### Reservations, caps and budgets (R278) -/

theorem gal_holdAt (old s : State) (key : Nat) : (holdAt old s key).gal = s.gal := by rw [holdAt_frame]

theorem fld_holdAt_ne (old s : State) (key : Nat) {f : Fld} (h : f.key ≠ R.REGIF.CFG_CRC_STAT.reg) : (holdAt old s key).fld f = s.fld f :=
  congrArg f.of (rd_holdAt_ne old key h)

theorem mod_cells {n : Nat} (h : n < 2 ^ 18) : n % 262144 = n := Nat.mod_eq_of_lt h

theorem qResWrite_kept {n : Nat} (hn : n < 2 ^ 18) (hcap : s.fld (R.GAL.Q_CAP.CELLS q) < n) : Goes (.qResWrite q n) s fun t => t = s := by
  have hexec : exec (.qResWrite q n) s = .next (holdAt s (qResWrite s q n) (R.GAL.Q_RES.reg q)) := by
    show execQResWrite q n s = _
    rw [execQResWrite, mod_cells hn]
  have hsame : qResWrite s q n = s := if_pos hcap
  refine ⟨_, hexec, ?_⟩
  rw [hsame]
  exact holdAt_of_rd_eq rfl

theorem qResWrite_refused {n : Nat} (hn : n < 2 ^ 18) (hcap : n ≤ s.fld (R.GAL.Q_CAP.CELLS q)) (hfit : resFits s q n = false) :
    Goes (.qResWrite q n) s fun t => t.fld R.GAL.EVT.ADMIT_REFUSED = 1 ∧ Touches [R.GAL.EVT.ADMIT_REFUSED] s t := by
  have hexec : exec (.qResWrite q n) s = .next (holdAt s (qResWrite s q n) (R.GAL.Q_RES.reg q)) := by
    show execQResWrite q n s = _
    rw [execQResWrite, mod_cells hn]
  have hset : qResWrite s q n = s.setFld R.GAL.EVT.ADMIT_REFUSED 1 := by
    unfold qResWrite
    dsimp only
    rw [if_neg (Nat.not_lt.mpr hcap), hfit, if_pos (by simp)]
  have hhold : holdAt s (s.setFld R.GAL.EVT.ADMIT_REFUSED 1) (R.GAL.Q_RES.reg q) = s.setFld R.GAL.EVT.ADMIT_REFUSED 1 :=
    holdAt_of_rd_eq (State.rd_setFld_ne s 1 (by simp only [R.GAL.Q_RES.reg, R.GAL.EVT.ADMIT_REFUSED, itemKey]; omega))
  refine ⟨_, hexec, ?_⟩
  rw [hset, hhold]
  exact ⟨State.fld_setFld_mod s R.GAL.EVT.ADMIT_REFUSED 1 rfl, touches_setFld (by simp) (.refl _ s)⟩

theorem ressum_key (k : Nat) (hk : k < 5) : 0xb030 ≤ (ressum k).key ∧ (ressum k).key < 0xb044 ∨ (ressum k).key = 0xb0b8 := by
  unfold ressum
  split
  · exact .inr rfl
  · exact .inl (by simp only [R.GAL.RESSUM.CELLS]; omega)

theorem qClass_lt (q : Nat) : qClass q < 5 := by
  unfold qClass
  repeat' split
  all_goals decide

theorem qResWrite_goes {n : Nat} (hn : n < 2 ^ 18) (hcap : n ≤ s.fld (R.GAL.Q_CAP.CELLS q)) (hfit : resFits s q n = true) :
    Goes (.qResWrite q n) s fun t => t.fld (R.GAL.Q_RES.CELLS q) = n ∧ t.gal = s.gal ∧
      t.fld (R.GAL.Q_CAP.CELLS q) = s.fld (R.GAL.Q_CAP.CELLS q) := by
  have hexec : exec (.qResWrite q n) s = .next (holdAt s (qResWrite s q n) (R.GAL.Q_RES.reg q)) := by
    show execQResWrite q n s = _
    rw [execQResWrite, mod_cells hn]
  obtain ⟨v, hset⟩ : ∃ v, qResWrite s q n = galRefresh ((s.setFld (ressum (qClass q)) v).setFld (R.GAL.Q_RES.CELLS q) n) := by
    unfold qResWrite
    dsimp only
    rw [if_neg (Nat.not_lt.mpr hcap), hfit, if_neg (by simp)]
    exact ⟨_, rfl⟩
  have hkey := ressum_key _ (qClass_lt q)
  generalize ressum (qClass q) = r at hset hkey
  refine ⟨_, hexec, ?_, ?_, ?_⟩
  · rw [fld_holdAt_ne _ _ _ (by simp only [R.GAL.Q_RES.CELLS, R.REGIF.CFG_CRC_STAT.reg, itemKey]; omega), hset, galRefresh, State.setFlag,
      State.fld_setFld_ne _ _ (by simp only [R.GAL.Q_RES.CELLS, R.GAL.EVT.LOW, itemKey]; omega),
      State.fld_setFld_mod _ (R.GAL.Q_RES.CELLS q) n rfl]
    exact Nat.mod_eq_of_lt hn
  · rw [gal_holdAt, hset]
    rfl
  · rw [fld_holdAt_ne _ _ _ (by simp only [R.GAL.Q_CAP.CELLS, R.REGIF.CFG_CRC_STAT.reg, itemKey]; omega), hset, galRefresh, State.setFlag,
      State.fld_setFld_ne _ _ (by simp only [R.GAL.Q_CAP.CELLS, R.GAL.EVT.LOW, itemKey]; omega),
      State.fld_setFld_ne _ _ (by simp only [R.GAL.Q_CAP.CELLS, R.GAL.Q_RES.CELLS, itemKey]; omega),
      State.fld_setFld_ne _ _ (by simp only [R.GAL.Q_CAP.CELLS, itemKey]; omega)]

theorem qCapWrite_goes {n : Nat} (hn : n < 2 ^ 18) (hres : s.fld (R.GAL.Q_RES.CELLS q) ≤ n) : Goes (.qCapWrite q n) s fun t =>
    t.fld (R.GAL.Q_CAP.CELLS q) = n ∧ t.gal = s.gal := by
  have hset : qCapWrite s q n = s.setFld (R.GAL.Q_CAP.CELLS q) n := if_neg (Nat.not_lt.mpr hres)
  have hexec : exec (.qCapWrite q n) s = .next (holdAt s (s.setFld (R.GAL.Q_CAP.CELLS q) n) (R.GAL.Q_CAP.reg q)) := by
    show execQCapWrite q n s = _
    rw [execQCapWrite, mod_cells hn, hset]
  refine ⟨_, hexec, ?_, gal_holdAt ..⟩
  rw [fld_holdAt_ne _ _ _ (by simp only [R.GAL.Q_CAP.CELLS, R.REGIF.CFG_CRC_STAT.reg, itemKey]; omega),
    State.fld_setFld_mod _ (R.GAL.Q_CAP.CELLS q) n rfl]
  exact Nat.mod_eq_of_lt hn

theorem qCfgWrite_free (be : Bool) (hheld : (s.gq q).held = 0) : (qCfgWrite s q be 0).fld (R.GAL.Q_CFG.HALF q) = 0 ∧
    (qCfgWrite s q be 0).fld (R.GAL.Q_CFG.BE q) = b2n be ∧ (qCfgWrite s q be 0).gal = s.gal := by
  have hbe : (s.setFlag (R.GAL.Q_CFG.BE q) be).fld (R.GAL.Q_CFG.BE q) = b2n be := by
    rw [State.setFlag, State.fld_setFld_mod s (R.GAL.Q_CFG.BE q) (b2n be) rfl]
    cases be <;> rfl
  unfold qCfgWrite
  dsimp only
  split
  next hkeep =>
    rcases hkeep with h0 | h3 | hh
    · exact ⟨h0.symm, hbe, rfl⟩
    · omega
    · exact absurd hheld hh
  next =>
    refine ⟨?_, ?_, rfl⟩
    · exact (State.fld_setFld_ne _ _ (by simp only [R.GAL.Q_CFG.HALF, R.GAL.EVT.LOW, itemKey]; omega)).trans
        (State.fld_setFld_mod _ (R.GAL.Q_CFG.HALF q) 0 rfl)
    · exact (State.fld_setFld_ne _ _ (by simp only [R.GAL.Q_CFG.BE, R.GAL.EVT.LOW, itemKey]; omega)).trans
        ((State.fld_setFld_apart _ 0 (by simp [Fld.apart, R.GAL.Q_CFG.BE, R.GAL.Q_CFG.HALF])).trans hbe)

theorem qCfgHalfWrite_goes (be : Bool) (hheld : (s.gq q).held = 0) : Goes (.qCfgHalfWrite q be 0) s fun t =>
    t.fld (R.GAL.Q_CFG.HALF q) = 0 ∧ t.fld (R.GAL.Q_CFG.BE q) = b2n be ∧ t.gal = s.gal := by
  obtain ⟨hhalf, hbe, hgal⟩ := qCfgWrite_free be hheld
  have hexec : exec (.qCfgHalfWrite q be 0) s = .next (holdAt s (qCfgWrite s q be 0) (R.GAL.Q_CFG.reg q)) := rfl
  generalize qCfgWrite s q be 0 = u at hhalf hbe hgal hexec
  refine ⟨_, hexec, ?_, ?_, (gal_holdAt ..).trans hgal⟩
  · exact (fld_holdAt_ne _ _ _ (by simp only [R.GAL.Q_CFG.HALF, R.REGIF.CFG_CRC_STAT.reg, itemKey]; omega)).trans hhalf
  · exact (fld_holdAt_ne _ _ _ (by simp only [R.GAL.Q_CFG.BE, R.REGIF.CFG_CRC_STAT.reg, itemKey]; omega)).trans hbe

theorem budgetWrite_goes {k n : Nat} (hk : k < 5) (hn : n < 2 ^ 18) (hsum : s.fld (ressum k) ≤ n)
    (hall : (([0, 1, 2, 3, 4].filter (· != k)).map fun j => s.fld (R.GAL.BUDGET.CELLS j)).sum + n ≤
      131072 - 1024 - s.fld R.GAL.SCRUB_STAT.RETIRED) : Goes (.budgetWrite k n) s fun t =>
        t.fld (R.GAL.BUDGET.CELLS k) = n ∧ t.gal = s.gal := by
  have hset : budgetWrite s k n = s.setFld (R.GAL.BUDGET.CELLS k) n := if_neg (by omega)
  have hexec : exec (.budgetWrite k n) s = .next (holdAt s (s.setFld (R.GAL.BUDGET.CELLS k) n) (R.GAL.BUDGET.reg k)) := by
    show execBudgetWrite k n s = _
    rw [execBudgetWrite, if_neg (Nat.not_le.mpr hk), mod_cells hn, hset]
  refine ⟨_, hexec, ?_, gal_holdAt ..⟩
  rw [fld_holdAt_ne _ _ _ (by simp only [R.GAL.BUDGET.CELLS, R.REGIF.CFG_CRC_STAT.reg]; omega),
    State.fld_setFld_mod _ (R.GAL.BUDGET.CELLS k) n rfl]
  exact Nat.mod_eq_of_lt hn

/-! ### The diagnostic window (R290) -/

theorem galDiagAccess_closed (a d : Nat) (hw : winOpen s = false) : (Goes (.galDiagAccess true a d) s fun t => t = s) ∧
    Goes (.galDiagAccess false a d) s fun t => t = { s with out := .diagRead a 0 :: s.out } := by
  refine ⟨⟨_, if_pos (by rw [hw]; rfl), rfl⟩, ⟨_, if_pos (by rw [hw]; rfl), rfl⟩⟩

theorem galDiagAccess_reads {a d : Nat} (hw : winOpen s = true) (hlt : a < 8388608) (hal : a % 4 = 0) (hf : s.gal.flips = []) :
    Goes (.galDiagAccess false a d) s fun t =>
      t = { s with out := .diagRead a (fromLE (((cellBytes s (cellOf (a / 64))).drop (a % 64)).take 4)) :: s.out } := by
  have haddr : a % 8388608 / 4 * 4 = a := by omega
  have hexec : exec (.galDiagAccess false a d) s =
      .next (s.emit (.diagRead a (fromLE (((cellBytes s (cellOf (a / 64))).drop (a % 64)).take 4)))) := by
    show execGalDiagAccess false a d s = _
    unfold execGalDiagAccess
    dsimp only
    rw [haddr, hw, hf, if_neg (by simp), if_neg Bool.false_ne_true]
    rfl
  exact ⟨_, hexec, rfl⟩

theorem galInjectArm_goes {v : Word} (hph : s.phase = 2) (harm : v.getLsbD 31 = true) (hbit : bits v.toNat 24 7 ≤ 71) :
    Goes (.galInjectArm v) s fun t => t = { s with rf := t.rf } ∧ t.fld R.GAL.INJECT.ARM = 1 ∧
      t.fld R.GAL.INJECT.CELL = bits v.toNat 0 17 ∧ t.fld R.GAL.INJECT.WORD = bits v.toNat 17 3 ∧
        t.fld R.GAL.INJECT.BIT = bits v.toNat 24 7 := by
  have hexec : exec (.galInjectArm v) s = .next (s.setFlds [(R.GAL.INJECT.WORD, bits v.toNat 17 3), (R.GAL.INJECT.CELL, bits v.toNat 0 17),
      (R.GAL.INJECT.BIT, bits v.toNat 24 7), (R.GAL.INJECT.ARM, 1)]) := by
    show execGalInjectArm v s = _
    unfold execGalInjectArm injectWrite
    dsimp only
    rw [if_pos hbit, nbit_toNat, harm, if_pos rfl, if_pos]
    · rfl
    · exact (State.fld_setFlds_apart s (ps := [(R.GAL.INJECT.WORD, bits v.toNat 17 3), (R.GAL.INJECT.CELL, bits v.toNat 0 17),
        (R.GAL.INJECT.BIT, bits v.toNat 24 7)]) rfl).trans hph
  refine ⟨_, hexec, State.setFlds_frame s _, State.fld_setFlds s 3 rfl rfl rfl (by decide), ?_, ?_, ?_⟩
  · exact State.fld_setFlds s 1 rfl rfl rfl (Nat.mod_lt _ (by decide))
  · exact State.fld_setFlds s 0 rfl rfl rfl (Nat.mod_lt _ (by decide))
  · exact State.fld_setFlds s 2 rfl rfl rfl (Nat.mod_lt _ (by decide))

end

/-- Settles O39. -/
theorem galleyMaintenanceSteps : Obligations.GalleyMaintenanceSteps := fun _ _ hq =>
  ⟨flushStart_goes hq, flushEnd_goes, flushForcedAbort_goes, fun _ _ => linkParityError_goes hq, fun _ => scrubCell_goes,
    fun _ _ => freeListBuilt_goes, fun _ => qResWrite_goes, fun _ => qResWrite_kept, fun _ => qResWrite_refused,
    fun _ => qCapWrite_goes, qCfgHalfWrite_goes, fun _ _ => budgetWrite_goes, galDiagAccess_closed, fun _ _ => galDiagAccess_reads,
    fun _ => galInjectArm_goes⟩

end Sys2Proof.Machine
end

section
/-! The registers among which a step's changes lie, and a whole item put into a queue whose reservation holds it (R274, R275,
R279). -/

namespace Sys2Proof.Machine

/-! ### Changes within a set of registers -/

/-- From `s` to `t` only registers of `B` change. -/
structure OnlyIn (B : Nat → Prop) (s t : State) : Prop where
  rd : ∀ k, ¬ B k → t.rd k = s.rd k

theorem fldMask_eq_zero {l : List Fld} {k : Nat} (h : ∀ f ∈ l, f.key ≠ k) : fldMask l k = 0 := by
  induction l with
  | nil => rfl
  | cons f l ih =>
    rw [fldMask, if_neg (h f List.mem_cons_self), ih fun g hg => h g (List.mem_cons_of_mem _ hg)]

namespace OnlyIn

variable {B : Nat → Prop} {s t u : State}

theorem refl (s : State) : OnlyIn B s s := ⟨fun _ _ => rfl⟩

theorem trans (h : OnlyIn B s t) (k : OnlyIn B t u) : OnlyIn B s u := ⟨fun x hx => (k.rd x hx).trans (h.rd x hx)⟩

theorem mono {B' : Nat → Prop} (h : OnlyIn B s t) (hB : ∀ k, B k → B' k) : OnlyIn B' s t := ⟨fun k hk => h.rd k fun hb => hk (hB k hb)⟩

theorem of_touches {l : List Fld} (h : Touches l s t) (hl : ∀ f ∈ l, B f.key) : OnlyIn B s t := by
  refine ⟨fun k hk => ?_⟩
  have := h k
  rwa [fldMask_eq_zero fun f hf (e : f.key = k) => hk (e ▸ hl f hf), show ~~~(0 : Word) = BitVec.allOnes 32 from rfl,
    BitVec.and_allOnes, BitVec.and_allOnes] at this

theorem fld (h : OnlyIn B s t) {f : Fld} (hf : ¬ B f.key) : t.fld f = s.fld f := by
  unfold State.fld
  rw [h.rd _ hf]

theorem flag (h : OnlyIn B s t) {f : Fld} (hf : ¬ B f.key) : t.flag f = s.flag f := by
  rw [State.flag, h.fld hf, State.flag]

theorem upd (h : OnlyIn B s t) (e : u.rf = t.rf) : OnlyIn B s u := h.trans ⟨fun _ _ => State.rd_of_rf_eq e _⟩

theorem setFld (h : OnlyIn B s t) {f : Fld} (v : Nat) (hf : B f.key) : OnlyIn B s (t.setFld f v) :=
  h.trans ⟨fun _ hk => State.rd_setFld_ne t v fun e => hk (e ▸ hf)⟩

theorem setFlds (h : OnlyIn B s t) {l : List (Fld × Nat)} (hl : ∀ p ∈ l, B p.1.key) : OnlyIn B s (t.setFlds l) := by
  induction l generalizing t with
  | nil => exact h
  | cons p l ih => exact ih (h.setFld _ (hl p List.mem_cons_self)) fun q hq => hl q (List.mem_cons_of_mem _ hq)

theorem ite {p : Prop} [Decidable p] (h : OnlyIn B s t) (k : OnlyIn B s u) : OnlyIn B s (if p then t else u) := by
  split
  · exact h
  · exact k

theorem foldl {α : Type} (h : OnlyIn B s t) {l : List α} {g : State → α → State} (hg : ∀ v, ∀ a ∈ l, OnlyIn B v (g v a)) :
    OnlyIn B s (l.foldl g t) := by
  induction l generalizing t with
  | nil => exact h
  | cons a l ih => exact ih (h.trans (hg t a List.mem_cons_self)) fun v b hb => hg v b (List.mem_cons_of_mem _ hb)

theorem event (h : OnlyIn B s t) (code : Nat) (d : List Byte) (hB : ∀ k, 0x5000 ≤ k → k < 0x6000 → B k) :
    OnlyIn B s (t.event code d) :=
  h.trans (.of_touches (EvtStep.event t code d).touches (by simp [evtFlds]; exact ⟨hB _ (by decide) (by decide), hB _ (by decide) (by decide)⟩))

end OnlyIn

/-- A fold that keeps `P`, whose step at a place of the list brings `Q`, which every step then keeps. -/
theorem foldl_reaches {α : Type} {P Q : State → Prop} {g : State → α → State} {l : List α} {a : α} (ha : a ∈ l)
    (hP : ∀ u, ∀ b ∈ l, P u → P (g u b)) (hQ : ∀ u, ∀ b ∈ l, Q u → Q (g u b)) (hhit : ∀ u, P u → Q (g u a)) {s : State} (h : P s) :
    Q (l.foldl g s) := by
  have hkeep : ∀ (l' : List α), (∀ b ∈ l', b ∈ l) → ∀ u, Q u → Q (l'.foldl g u) := by
    intro l' hl'
    induction l' with
    | nil => exact fun _ hu => hu
    | cons b l' ih => exact fun u hu => ih (fun c hc => hl' c (List.mem_cons_of_mem _ hc)) _ (hQ u b (hl' b List.mem_cons_self) hu)
  have hreach : ∀ (l' : List α), (∀ b ∈ l', b ∈ l) → a ∈ l' → ∀ u, P u → Q (l'.foldl g u) := by
    intro l' hl'
    induction l' with
    | nil => exact fun hm => by cases hm
    | cons b l' ih =>
      intro hm u hu
      rcases List.mem_cons.mp hm with rfl | hm
      · exact hkeep l' (fun c hc => hl' c (List.mem_cons_of_mem _ hc)) _ (hhit u hu)
      · exact ih (fun c hc => hl' c (List.mem_cons_of_mem _ hc)) hm _ (hP u b (hl' b List.mem_cons_self) hu)
  exact hreach l (fun _ h => h) ha s h

/-! ### A whole item -/

/-- From `s` to `t` nothing but registers, the galley and the draws of free values change. -/
def GalFrame (s t : State) : Prop := t = { s with rf := t.rf, gal := t.gal, freeCtr := t.freeCtr }

namespace GalFrame

theorem refl (s : State) : GalFrame s s := rfl

theorem trans {s t u : State} (h : GalFrame s t) (k : GalFrame t u) : GalFrame s u := by
  unfold GalFrame at *
  rw [k, h]

theorem setGq {s t : State} (h : GalFrame s t) (q : Nat) (x : GQueue) : GalFrame s (t.setGq q x) := h.trans rfl

end GalFrame

theorem galFrame_takeCell (s : State) (h : Nat) : GalFrame s (takeCell s h).2 := rfl

theorem galFrame_turnOn (s : State) (q : Nat) : GalFrame s (turnOn s q) := by
  unfold turnOn
  split <;> rfl

theorem galFrame_storeMark (s : State) (c : CellNo) (w : Nat) : GalFrame s (storeMark s c w) := by
  unfold storeMark
  dsimp only
  split <;> rfl

theorem galFrame_takeCells (s : State) (q n : Nat) : GalFrame s (takeCells s q n).2 := by
  induction n generalizing s with
  | zero => rfl
  | succ n ih =>
    unfold takeCells
    have hone := (galFrame_takeCell s (nextHalf s q)).trans (galFrame_turnOn (takeCell s (nextHalf s q)).2 q)
    generalize takeCell s (nextHalf s q) = c at hone
    obtain ⟨c, u⟩ := c
    dsimp only at hone ⊢
    generalize turnOn u q = v at hone
    have hlost : GalFrame v { v with gal := { v.gal with lost := c :: v.gal.lost } } := rfl
    exact (hone.trans (hlost.trans (ih _))).trans rfl

/-- A queue whose open item has become its last element. -/
def GQueue.joined (x : GQueue) (it : GItem) : GQueue := { x with opened := none, elems := x.elems ++ [.item it] }

section
variable {s : State} {q : Nat}

/-- The next word of an open item that its queue's reservation holds: the cells it needs are taken, and nothing is dropped. -/
theorem galWord_reserved {it : GItem} {bs : List Byte} (last : Bool) (ho : (s.gq q).opened = some it)
    (hs : (s.gq q).swallow = false) (hcells : it.cells.length ≤ cellsFor (it.bytes.length + bs.length))
    (hlen : it.bytes.length + bs.length ≤ 262144)
    (hroom : ((s.gq q).elems.map GElem.held).sum + cellsFor (it.bytes.length + bs.length) ≤ s.fld (R.GAL.Q_RES.CELLS q)) :
    ∃ (cells : List CellNo) (u : State), cells.length = cellsFor (it.bytes.length + bs.length) ∧ u.gal.qs = s.gal.qs ∧
      GalFrame s u ∧ Touches [R.GAL.INJECT.ARM] s u ∧ galWord s q bs last =
        if last then u.setGq q ((s.gq q).joined { it with cells := cells, bytes := it.bytes ++ bs })
        else u.setGq q { s.gq q with opened := some { it with cells := cells, bytes := it.bytes ++ bs } } := by
  have hheld : (s.gq q).held = ((s.gq q).elems.map GElem.held).sum + it.cells.length := by rw [GQueue.held, ho]
  have hgrant : (if cellsFor (it.bytes.length + bs.length) - it.cells.length = 0 then none
      else if 262144 < it.bytes.length + bs.length then some reasonCap
      else allots s q (cellsFor (it.bytes.length + bs.length) - it.cells.length)) = none := by
    rw [if_neg (Nat.not_lt.mpr hlen)]
    split
    · rfl
    · unfold allots
      dsimp only
      rw [hheld, if_pos (by omega)]
  obtain ⟨htaken, hqs, hrf⟩ := takeCells_leaves s q (cellsFor (it.bytes.length + bs.length) - it.cells.length)
  have hframe := galFrame_takeCells s q (cellsFor (it.bytes.length + bs.length) - it.cells.length)
  unfold galWord
  dsimp only
  rw [hs, if_neg Bool.false_ne_true, ho]
  dsimp only
  rw [hgrant]
  dsimp only
  generalize takeCells s q (cellsFor (it.bytes.length + bs.length) - it.cells.length) = c at htaken hqs hrf hframe
  obtain ⟨cs, u⟩ := c
  dsimp only at htaken hqs hrf hframe ⊢
  have hcount : (it.cells ++ cs).length = cellsFor (it.bytes.length + bs.length) := by
    rw [List.length_append, htaken]
    omega
  cases (it.cells ++ cs)[(it.bytes.length + bs.length - 1) / 8 / 8]? with
  | none =>
    refine ⟨it.cells ++ cs, u, hcount, hqs, hframe, .of_rf _ hrf, ?_⟩
    dsimp only
    rw [gq_of_qs hqs, GQueue.joined, hs]
  | some c =>
    refine ⟨it.cells ++ cs, storeMark u c ((it.bytes.length + bs.length - 1) / 8 % 8), hcount, (qs_storeMark ..).trans hqs,
      hframe.trans (galFrame_storeMark ..), touches_storeMark (.of_rf _ hrf) c _ (by simp), ?_⟩
    dsimp only
    rw [gq_of_qs ((qs_storeMark u c _).trans hqs), GQueue.joined, hs]

/-- The words of an open item that its queue's reservation holds, through the last: the item stands at the queue's end. -/
theorem galWords_reserved (n : Nat) {it : GItem} {bs : List Byte} (hn : n = (bs.length + 7) / 8) (hne : bs ≠ [])
    (ho : (s.gq q).opened = some it) (hs : (s.gq q).swallow = false) (hcells : it.cells.length ≤ cellsFor it.bytes.length)
    (hlen : it.bytes.length + bs.length ≤ 262144)
    (hroom : ((s.gq q).elems.map GElem.held).sum + cellsFor (it.bytes.length + bs.length) ≤ s.fld (R.GAL.Q_RES.CELLS q)) :
    ∃ cells : List CellNo, (galWords s q n bs).gq q = (s.gq q).joined { it with cells := cells, bytes := it.bytes ++ bs } ∧
      (∀ p, p ≠ q → (galWords s q n bs).gq p = s.gq p) ∧ GalFrame s (galWords s q n bs) ∧
      Touches [R.GAL.INJECT.ARM] s (galWords s q n bs) := by
  induction n generalizing s it bs with
  | zero =>
    have := List.length_pos_iff.mpr hne
    omega
  | succ n ih =>
    have hmono : ∀ a b, a ≤ b → cellsFor a ≤ cellsFor b := fun a b hab => Nat.div_le_div_right (Nat.add_le_add_right hab _)
    have htake : (bs.take 8).length = min 8 bs.length := List.length_take
    have hpart := hmono (it.bytes.length + (bs.take 8).length) (it.bytes.length + bs.length) (by omega)
    obtain ⟨cells, u, hcount, hqs, hframe, htouch, e⟩ := galWord_reserved (bs := bs.take 8) (decide (bs.length ≤ 8)) ho hs
      (hcells.trans (hmono _ _ (by omega))) (by omega) (by omega)
    rw [galWords]
    by_cases hlast : bs.length ≤ 8
    · have hall : bs.take 8 = bs := List.take_of_length_le hlast
      have hzero : n = 0 := by omega
      rw [decide_eq_true hlast, hall, if_pos rfl] at e
      rw [decide_eq_true hlast, hall, hzero, galWords, e]
      exact ⟨cells, gq_setGq_self .., fun p hp => (gq_setGq_ne u _ hp).trans (gq_of_qs hqs p), hframe.setGq _ _,
        touches_setGq htouch _ _⟩
    · rw [decide_eq_false hlast, if_neg Bool.false_ne_true] at e
      rw [decide_eq_false hlast, e]
      have hgq := gq_setGq_self u q { s.gq q with opened := some { it with cells := cells, bytes := it.bytes ++ bs.take 8 } }
      have hother : ∀ p, p ≠ q →
          (u.setGq q { s.gq q with opened := some { it with cells := cells, bytes := it.bytes ++ bs.take 8 } }).gq p = s.gq p :=
        fun p hp => (gq_setGq_ne u _ hp).trans (gq_of_qs hqs p)
      have hv : GalFrame s (u.setGq q { s.gq q with opened := some { it with cells := cells, bytes := it.bytes ++ bs.take 8 } }) :=
        hframe.setGq _ _
      have hvt : Touches [R.GAL.INJECT.ARM] s
          (u.setGq q { s.gq q with opened := some { it with cells := cells, bytes := it.bytes ++ bs.take 8 } }) :=
        touches_setGq htouch _ _
      generalize u.setGq q { s.gq q with opened := some { it with cells := cells, bytes := it.bytes ++ bs.take 8 } } = v
        at hgq hother hv hvt
      have hlens : (it.bytes ++ bs.take 8).length + (bs.drop 8).length = it.bytes.length + bs.length := by
        rw [List.length_append, List.length_drop]
        omega
      obtain ⟨cells', hq, hp, hf, ht⟩ := ih (s := v) (it := { it with cells := cells, bytes := it.bytes ++ bs.take 8 })
        (bs := bs.drop 8) (by rw [List.length_drop]; omega) (fun h0 => hlast (List.drop_eq_nil_iff.mp h0)) (by rw [hgq])
        (by rw [hgq]; exact hs)
        (by show cells.length ≤ cellsFor (it.bytes ++ bs.take 8).length; rw [hcount, List.length_append])
        (by show (it.bytes ++ bs.take 8).length + (bs.drop 8).length ≤ _; omega)
        (by
          show _ + cellsFor ((it.bytes ++ bs.take 8).length + (bs.drop 8).length) ≤ _
          rw [hlens, hgq, hvt.fld (by
            intro f hf
            rw [List.mem_singleton.mp hf]
            exact Fld.apart_of_key_ne (by simp only [R.GAL.Q_RES.CELLS, R.GAL.INJECT.ARM, itemKey]; omega))]
          exact hroom)
      refine ⟨cells', ?_, fun p hpq => (hp p hpq).trans (hother p hpq), hv.trans hf, hvt.trans ht⟩
      rw [hq, hgq]
      unfold GQueue.joined
      dsimp only
      rw [List.append_assoc, List.take_append_drop]

/-- An item that its queue's reservation holds, put without a length known before, joins the queue. -/
theorem galPut_reserved {bs : List Byte} (kind folio ts : Nat) (hne : bs ≠ []) (h : QueueTakes s q bs.length) :
    ∃ cells, (galPut s q kind false folio ts bs).gq q =
        { s.gq q with known := false, elems := (s.gq q).elems ++ [.item ⟨kind, folio, ts, cells, bs, false⟩] } ∧
      (∀ p, p ≠ q → (galPut s q kind false folio ts bs).gq p = s.gq p) ∧
      GalFrame s (galPut s q kind false folio ts bs) ∧ Touches [R.GAL.INJECT.ARM] s (galPut s q kind false folio ts bs) := by
  obtain ⟨hidle, hopen, hroom, hshort⟩ := h
  have hheld : (s.gq q).held = ((s.gq q).elems.map GElem.held).sum := by rw [GQueue.held, hidle]; rfl
  unfold galPut
  dsimp only
  rw [if_neg Bool.false_ne_true, galOpen_unknown kind folio ts hidle hopen]
  have hgq := gq_setGq_self s q { s.gq q with opened := some ⟨kind, folio, ts, [], [], false⟩, known := false }
  have hfld : (s.setGq q { s.gq q with opened := some ⟨kind, folio, ts, [], [], false⟩, known := false }).fld (R.GAL.Q_RES.CELLS q) =
    s.fld (R.GAL.Q_RES.CELLS q) := rfl
  have hother : ∀ p, p ≠ q →
      (s.setGq q { s.gq q with opened := some ⟨kind, folio, ts, [], [], false⟩, known := false }).gq p = s.gq p :=
    fun p hp => gq_setGq_ne s _ hp
  have hv : GalFrame s (s.setGq q { s.gq q with opened := some ⟨kind, folio, ts, [], [], false⟩, known := false }) :=
    (GalFrame.refl s).setGq _ _
  have hvt : Touches [R.GAL.INJECT.ARM] s
      (s.setGq q { s.gq q with opened := some ⟨kind, folio, ts, [], [], false⟩, known := false }) := touches_setGq (.refl _ s) _ _
  generalize s.setGq q { s.gq q with opened := some ⟨kind, folio, ts, [], [], false⟩, known := false } = v at hgq hfld hother hv hvt
  obtain ⟨cells, hq, hp, hf, ht⟩ := galWords_reserved (s := v) (q := q) ((bs.length + 7) / 8)
    (it := ⟨kind, folio, ts, [], [], false⟩) rfl hne (by rw [hgq]) (by rw [hgq]; exact hopen) (Nat.zero_le _)
    (by show 0 + bs.length ≤ _; omega)
    (by show _ + cellsFor (0 + bs.length) ≤ _; rw [hgq, hfld, Nat.zero_add]; dsimp only; omega)
  refine ⟨cells, ?_, fun p hpq => (hp p hpq).trans (hother p hpq), hv.trans hf, hvt.trans ht⟩
  rw [hq, hgq, List.nil_append, GQueue.joined]
  dsimp only
  rw [hidle]

end

end Sys2Proof.Machine
end

section
/-! What the reception of a packet reads of the state, and what of it counters and qualifications leave (R88, R90, R302, R303). -/

namespace Sys2Proof.Machine

/-! ### Clocks and times -/

theorem mcsPti_lt (s : State) (n : Nat) : s.mcsPti n < 4 := by
  unfold State.mcsPti
  dsimp only
  split
  · exact State.fld_lt s _
  · exact Nat.mod_lt _ (by decide)

/-- From `s` to `t` the clocks and times stay: the configuration of the MCSs, the addends, and what lies beyond the registers. -/
structure ClocksAlike (s t : State) : Prop where
  rate    : ∀ n, n < 8 → t.fld (R.CLK.MCS_CFG.RATE n) = s.fld (R.CLK.MCS_CFG.RATE n)
  refType : ∀ n, n < 8 → t.fld (R.CLK.MCS_CFG.REF_TYPE n) = s.fld (R.CLK.MCS_CFG.REF_TYPE n)
  refId   : ∀ n, n < 8 → t.fld (R.CLK.MCS_CFG.REF_ID n) = s.fld (R.CLK.MCS_CFG.REF_ID n)
  cfgPti  : ∀ f, t.fld (R.RXF.F_CFG.PTI f) = s.fld (R.RXF.F_CFG.PTI f)
  addend  : ∀ n, n < 4 → t.addend n = s.addend n
  ptis    : t.ptis = s.ptis
  mcss    : t.mcss = s.mcss

/-- The registers in which clocks and times are configured. -/
def ClockKey (k : Nat) : Prop := (∃ n, n < 8 ∧ k = R.CLK.MCS_CFG.reg n) ∨ (∃ n, n < 4 ∧ (k = R.TIME.PTI_ADDEND_INT.reg n ∨
  k = R.TIME.PTI_ADDEND_FRAC.reg n)) ∨ ∃ f, k = R.RXF.F_CFG.reg f

theorem ClocksAlike.of_onlyIn {B : Nat → Prop} {s t : State} (h : OnlyIn B s t) (hB : ∀ k, B k → ¬ ClockKey k) (hp : t.ptis = s.ptis)
    (hm : t.mcss = s.mcss) : ClocksAlike s t := by
  have hclk : ∀ f : Fld, ClockKey f.key → t.fld f = s.fld f := fun f hf => h.fld fun hb => hB _ hb hf
  refine ⟨fun n hn => hclk _ (.inl ⟨n, hn, rfl⟩), fun n hn => hclk _ (.inl ⟨n, hn, rfl⟩), fun n hn => hclk _ (.inl ⟨n, hn, rfl⟩),
    fun f => hclk _ (.inr (.inr ⟨f, rfl⟩)), fun n hn => ?_, hp, hm⟩
  rw [State.addend, hclk (R.TIME.PTI_ADDEND_INT.INT n) (.inr (.inl ⟨n, hn, .inl rfl⟩)),
    hclk (R.TIME.PTI_ADDEND_FRAC.FRAC n) (.inr (.inl ⟨n, hn, .inr rfl⟩)), State.addend]

theorem cfgMcs_lt (s : State) (f : Nat) : s.fld (R.RXF.F_CFG.MCS f) < 8 := State.fld_lt s _

namespace ClocksAlike

section
variable {s t : State} (h : ClocksAlike s t) {n : Nat}
include h

theorem ptiRaw (n : Nat) : t.ptiRaw n = s.ptiRaw n := by rw [State.ptiRaw, h.ptis, State.ptiRaw]

theorem mcs (n : Nat) : t.mcs n = s.mcs n := by rw [State.mcs, h.mcss, State.mcs]

theorem ptiNs (n : Nat) : ptiNs t n = ptiNs s n := by rw [Machine.ptiNs, h.ptiRaw, Machine.ptiNs]

theorem mcsFs (hn : n < 8) : t.mcsFs n = s.mcsFs n := by rw [State.mcsFs, h.rate n hn, State.mcsFs]

theorem mcsPti (hn : n < 8) : t.mcsPti n = s.mcsPti n := by
  rw [State.mcsPti, h.refType n hn, h.refId n hn, h.cfgPti, State.mcsPti]

theorem mcsPeriods (hn : n < 8) (c : Nat) : mcsPeriods t n c = mcsPeriods s n c := by
  rw [Machine.mcsPeriods, mcsRatio, h.mcsPti hn, h.addend _ (mcsPti_lt s n), h.mcs, h.mcsFs hn, Machine.mcsPeriods, mcsRatio]

theorem instantOf (hn : n < 8) (k : Nat) : instantOf t n k = instantOf s n k := by
  rw [Machine.instantOf, h.mcs, h.mcsPeriods hn, h.mcsPeriods hn, Machine.instantOf]

theorem indexAt (hn : n < 8) (raw : Nat) : indexAt t n raw = indexAt s n raw := by
  rw [Machine.indexAt, mcsRatio, h.mcsPti hn, h.addend _ (mcsPti_lt s n), h.mcs, h.mcsFs hn, Machine.indexAt, mcsRatio]

theorem mcsCount (hn : n < 8) : mcsCount t n = mcsCount s n := by
  rw [Machine.mcsCount, h.indexAt hn, h.mcsPti hn, h.ptiRaw, Machine.mcsCount]

theorem nearest (hn : n < 8) (x : Nat) : nearest t n x = nearest s n x := by
  rw [Machine.nearest, h.indexAt hn, h.instantOf hn, h.instantOf hn, Machine.nearest]

end

end ClocksAlike

/-! ### Counters and qualifications -/

/-- The registers that counting a duplicate key and the loss of a reference's qualification write. -/
def QualKey (k : Nat) : Prop := k = R.RXF.CLS_DUP.COUNT.key ∨ ∃ m, m < 8 ∧ k = (R.CLK.MCS_STAT.REF_OK m).key

theorem onlyIn_refFalls (s : State) : OnlyIn QualKey s (refFalls s) :=
  (OnlyIn.refl s).foldl fun v m hm => ((OnlyIn.refl v).setFld 0 (.inr ⟨m, List.mem_range.mp hm, rfl⟩)).ite (.refl v)

/-- From `s` to `t` the clocks, the times, the slews of flows and all registers but those of `QualKey` stay. -/
structure PlaysAlike (s t : State) : Prop where
  regs : OnlyIn QualKey s t
  ptis : t.ptis = s.ptis
  mcss : t.mcss = s.mcss
  slew : ∀ g, (t.flow g).slew = (s.flow g).slew

/-- A configuration register of an MCS or a flow, or a PTI's addend, is none of `QualKey`. -/
theorem notQual_of {k : Nat} (h : k % 32 ≠ 8 ∨ (0x7000 ≤ k ∧ k ≠ 0xc008)) : ¬ QualKey k := by
  rintro (h' | ⟨m, hm, h'⟩)
  · simp only [R.RXF.CLS_DUP.COUNT] at h'
    omega
  · simp only [R.CLK.MCS_STAT.REF_OK] at h'
    omega

namespace PlaysAlike

section
variable {s t : State} (h : PlaysAlike s t)
include h

theorem rxFld {f : Fld} {o i : Nat} (hf : f.key = itemKey o i) (ho : 0xc100 ≤ o ∧ o < 0x1000000) : t.fld f = s.fld f :=
  h.regs.fld (notQual_of (.inr (by simp only [hf, itemKey]; omega)))

theorem clocks : ClocksAlike s t := by
  refine .of_onlyIn h.regs (fun k hk hc => ?_) h.ptis h.mcss
  rcases hk with rfl | ⟨m, hm, rfl⟩ <;>
    simp only [ClockKey, R.CLK.MCS_CFG.reg, R.TIME.PTI_ADDEND_INT.reg, R.TIME.PTI_ADDEND_FRAC.reg, R.RXF.F_CFG.reg, itemKey,
      R.RXF.CLS_DUP.COUNT, R.CLK.MCS_STAT.REF_OK] at hc <;> omega

theorem linkOffset (f : Nat) : linkOffset t f = linkOffset s f := by
  rw [Machine.linkOffset, h.rxFld (f := R.RXF.F_OFFSET_NOW.SAMPLES f) rfl (by decide), h.slew, Machine.linkOffset]

theorem cfgMcs (f : Nat) : t.fld (R.RXF.F_CFG.MCS f) = s.fld (R.RXF.F_CFG.MCS f) := h.rxFld rfl (by decide)

theorem format (f : Nat) : t.fld (R.RXF.F_CFG.FORMAT f) = s.fld (R.RXF.F_CFG.FORMAT f) := h.rxFld rfl (by decide)

theorem channels (f : Nat) : t.fld (R.RXF.F_CHAN.CHANNELS f) = s.fld (R.RXF.F_CHAN.CHANNELS f) := h.rxFld rfl (by decide)

theorem avtp (f : Nat) : t.flag (R.RXF.F_CFG.AVTP f) = s.flag (R.RXF.F_CFG.AVTP f) := by
  rw [State.flag, h.rxFld (f := R.RXF.F_CFG.AVTP f) rfl (by decide), State.flag]

theorem state (f : Nat) : t.fld (R.RXF.F_STAT.STATE f) = s.fld (R.RXF.F_STAT.STATE f) := h.rxFld rfl (by decide)

theorem depth (f : Nat) : t.fld (R.RXF.F_DEPTH.US f) = s.fld (R.RXF.F_DEPTH.US f) := h.rxFld rfl (by decide)

theorem rxN (f : Nat) : rxN t f = rxN s f := by
  rw [Machine.rxN, h.rxFld (f := R.RXF.F_CFG.PTIME f) rfl (by decide), h.cfgMcs, h.clocks.rate _ (cfgMcs_lt s f), Machine.rxN]

theorem readPacket (f : Nat) (b : List Byte) : readPacket t f b = readPacket s f b := by
  unfold Machine.readPacket
  rw [h.format, h.channels, h.cfgMcs, h.clocks.rate _ (cfgMcs_lt s f), h.rxFld (f := R.RXF.F_CHAN.PT f) rfl (by decide), h.avtp]

theorem toFlowTime (f raw : Nat) : toFlowTime t f raw = toFlowTime s f raw := by
  rw [Machine.toFlowTime, h.cfgMcs, h.clocks.mcsPti (cfgMcs_lt s f), h.clocks.ptiRaw, h.clocks.cfgPti, h.clocks.ptiRaw, Machine.toFlowTime]

theorem sourceIndex {f : Nat} (hn : (t.flow f).next = (s.flow f).next) (path : Nat) (i : PktInfo) :
    sourceIndex t f path i = sourceIndex s f path i := by
  unfold Machine.sourceIndex
  dsimp only
  rw [h.cfgMcs, h.clocks.refType _ (cfgMcs_lt s f), h.clocks.refId _ (cfgMcs_lt s f),
    h.rxFld (f := R.RXF.F_RTPOFF.OFFSET f) rfl (by decide), h.clocks.cfgPti, h.clocks.mcsCount (cfgMcs_lt s f), h.clocks.ptiNs, h.toFlowTime,
    h.linkOffset, h.clocks.mcsFs (cfgMcs_lt s f), hn]
  simp only [h.clocks.nearest (cfgMcs_lt s f)]

end

/-- A packet passes the checks in one state as in the other. -/
theorem packetOk {s t : State} (h : PlaysAlike s t) {f p k : Nat} {inf : Bool} {b : List Byte} {type : Nat}
    (hn : (t.flow f).next = (s.flow f).next) (hp : PacketOk s f p k inf b type) : PacketOk t f p k inf b type := by
  obtain ⟨version, audio, agrees, same, size, runs, index, inTime, inDepth, order⟩ := hp
  constructor
  · rwa [h.avtp]
  · rwa [h.format]
  · rwa [h.readPacket]
  · rwa [h.avtp]
  · rwa [h.readPacket, h.format, h.channels, h.rxN]
  · rwa [h.state]
  · rwa [h.sourceIndex hn, h.readPacket]
  · rwa [h.cfgMcs, h.clocks.mcsPti (cfgMcs_lt s f), h.clocks.ptiRaw, h.linkOffset, h.clocks.instantOf (cfgMcs_lt s f)]
  · rwa [h.cfgMcs, h.clocks.mcsPti (cfgMcs_lt s f), h.clocks.ptiRaw, h.linkOffset, h.clocks.instantOf (cfgMcs_lt s f), h.rxN,
      h.clocks.mcsFs (cfgMcs_lt s f), h.depth]
  · rwa [hn]

end PlaysAlike

end Sys2Proof.Machine
end

section
/-! Frames of a network port: those that are not taken, those a key discards or hands to the Compositor, and the packets of a
flow (R16, R294 to R305). -/

namespace Sys2Proof.Machine

section
variable {s : State} {p : Nat} {raw : List Byte}

/-- The verdict on a frame and whether two keys were equal (R298): none for a frame that no key is asked about. -/
def rxVerdict (s : State) (p : Nat) (raw : List Byte) : Option Nat × Bool :=
  if (hdrOf raw).etype = 0x8808 ∨ (hdrOf raw).ckBad = true ∨ macAccepts s p (raw.take (raw.length - 4)) = false then (none, false)
  else classify s p (hdrOf raw)

/-- A frame counted by its port, and by CLS_DUP where two keys were equal. -/
def rxTaken (s : State) (p : Nat) (raw : List Byte) : State :=
  if (rxVerdict s p raw).2 then (frameCounted s p raw).count R.RXF.CLS_DUP.COUNT else frameCounted s p raw

theorem rxTaken_frame (s : State) (p : Nat) (raw : List Byte) :
    rxTaken s p raw = { s with net := (rxTaken s p raw).net, rf := (rxTaken s p raw).rf } := by
  unfold rxTaken
  split
  · rw [State.count_frame]
    rfl
  · rfl

theorem touches_rxTaken (s : State) (p : Nat) (raw : List Byte) : Touches [R.RXF.CLS_DUP.COUNT] s (rxTaken s p raw) :=
  touches_ite (touches_count List.mem_cons_self (.of_rf _ rfl)) (.of_rf _ rfl)

theorem key_rxTaken (s : State) (p : Nat) (raw : List Byte) (i w : Nat) : (rxTaken s p raw).key i w = s.key i w := by
  rw [State.key, show (rxTaken s p raw).cls = s.cls by rw [rxTaken_frame], State.key]

theorem macAccepts_rxTaken (s : State) (p : Nat) (raw b : List Byte) : macAccepts (rxTaken s p raw) p b = macAccepts s p b := by
  have hkey : ∀ f : Fld, f.key ≠ R.RXF.CLS_DUP.COUNT.key → (rxTaken s p raw).fld f = s.fld f := fun f hf =>
    (touches_rxTaken s p raw).fld fun g hg => by rw [List.mem_singleton.mp hg]; exact Fld.apart_of_key_ne hf
  rw [macAccepts, hkey (R.NET.MAC_HI.ADDR p) (by simp only [R.NET.MAC_HI.ADDR, R.RXF.CLS_DUP.COUNT]; omega),
    hkey (R.NET.MAC_LO.ADDR p) (by simp only [R.NET.MAC_LO.ADDR, R.RXF.CLS_DUP.COUNT]; omega), macAccepts]

theorem netFrame_down (good : Bool) (h : linkUp s p = false) : netFrame s p raw good = s := if_pos (by rw [h]; rfl)

theorem netFrame_damaged (h : linkUp s p = true) :
    netFrame s p raw false = rxAbort (netCount (rxTaken s p raw) p 0) p (rxVerdict s p raw).1 := by
  have hup : ¬ (!linkUp s p) = true := by rw [h]; decide
  exact (if_neg hup).trans (if_pos rfl)

theorem netFrame_good {i : Nat} (h : FrameOk s p raw) (hv : (classify s p (hdrOf raw)).1 = some i) : netFrame s p raw true =
    if bits (s.key i 0).toNat 10 2 = 2 then (rxTaken s p raw).count R.RXF.CLS_DROP.COUNT
    else if bits (s.key i 0).toNat 10 2 = 1 then
      toCompositor (rxTaken s p raw) (960 + bits (s.key i 0).toNat 0 5) (raw.take (raw.length - 4))
    else rxPacket (rxTaken s p raw) (bits (s.key i 0).toNat 0 8) p (hdrOf raw) := by
  obtain ⟨hup, hfcs, hshort, hlong, hdata, hdest, hip⟩ := h
  have hverdict : rxVerdict s p raw = classify s p (hdrOf raw) := if_neg (by simp [hdata, hip, hdest])
  have hgo : ¬ (!linkUp s p) = true := by rw [hup]; decide
  have hgood : ¬ (!(true && fromLE (raw.drop (raw.length - 4)) == crc32 (raw.take (raw.length - 4)))) = true := by simp [hfcs]
  have hmac : ¬ (!macAccepts (rxTaken s p raw) p (raw.take (raw.length - 4))) = true := by
    rw [macAccepts_rxTaken, hdest]
    decide
  have hip' : ¬ (hdrOf raw).ckBad = true := by rw [hip]; decide
  have hlen : ¬ (raw.length < 64 ∨ s.fld (R.NET.CFG.MAX_DATA p) + (if (hdrOf raw).tagged then 22 else 18) < raw.length) := by omega
  refine (if_neg hgo).trans ((if_neg hgood).trans ((if_neg hlen).trans ((if_neg hdata).trans ((if_neg hmac).trans
    ((if_neg hip').trans ?_)))))
  show (match (rxVerdict s p raw).1 with
    | none => unmatched (rxTaken s p raw) p (raw.take (raw.length - 4)) (hdrOf raw)
    | some i =>
      if bits ((rxTaken s p raw).key i 0).toNat 10 2 = 2 then (rxTaken s p raw).count R.RXF.CLS_DROP.COUNT
      else if bits ((rxTaken s p raw).key i 0).toNat 10 2 = 1 then
        toCompositor (rxTaken s p raw) (960 + bits ((rxTaken s p raw).key i 0).toNat 0 5) (raw.take (raw.length - 4))
      else rxPacket (rxTaken s p raw) (bits ((rxTaken s p raw).key i 0).toNat 0 8) p (hdrOf raw)) = _
  rw [hverdict, hv]
  dsimp only
  rw [key_rxTaken]

/-! ### Damaged frames (R275, R304) -/

theorem galRwnd_frame (s : State) (q : Nat) : RfFrame s (galRwnd s q) := by
  unfold galRwnd
  dsimp only
  refine (RfFrame.trans ?_ (countSat_frame _ _ _ 5)).setFlag _ _
  split
  · exact RfFrame.setFld (State.count_frame ..) _ _
  · exact State.count_frame ..

theorem frame_of_taken {t : State} (h : RfFrame (rxTaken s p raw) t) : t = { s with net := t.net, rf := t.rf } := by
  have e := rxTaken_frame s p raw
  unfold RfFrame at h
  generalize rxTaken s p raw = u at h e
  generalize t.rf = r at h
  subst h
  generalize u.net = n at e ⊢
  generalize u.rf = r' at e
  subst e
  rfl

theorem fcsErr_netCount (s : State) (p : Nat) :
    (netCount s p 0).fld (R.NET.FCS_ERR.COUNT p) = min (2 ^ 32 - 1) (s.fld (R.NET.FCS_ERR.COUNT p) + 1) ∧
      (netCount s p 0).fld (R.NET.STAT.ERR_EV p) = 1 := by
  have hsat : (R.NET.FCS_ERR.COUNT p).key ≠ (R.NET.SAT.SAT_F p).key := by
    simp only [R.NET.FCS_ERR.COUNT, R.NET.SAT.SAT_F]
    omega
  have hev : (R.NET.STAT.ERR_EV p).key ≠ (R.NET.SAT.SAT_F p).key := by
    simp only [R.NET.STAT.ERR_EV, R.NET.SAT.SAT_F]
    omega
  have hne : (R.NET.FCS_ERR.COUNT p).key ≠ (R.NET.STAT.ERR_EV p).key := by
    simp only [R.NET.FCS_ERR.COUNT, R.NET.STAT.ERR_EV]
    omega
  have hlast : ∀ u : State, ∀ f : Fld, f.key ≠ (R.NET.SAT.SAT_F p).key →
      (u.countSat (R.NET.FCS_ERR.COUNT p) (R.NET.SAT.SAT_F p) 0).fld f = (u.count (R.NET.FCS_ERR.COUNT p)).fld f := fun u f hf => by
    unfold State.countSat
    dsimp only
    split
    · exact State.fld_setFld_ne _ _ hf
    · rfl
  show ((s.setFld (R.NET.STAT.ERR_EV p) 1).countSat (R.NET.FCS_ERR.COUNT p) (R.NET.SAT.SAT_F p) 0).fld _ = _ ∧
    ((s.setFld (R.NET.STAT.ERR_EV p) 1).countSat (R.NET.FCS_ERR.COUNT p) (R.NET.SAT.SAT_F p) 0).fld _ = _
  rw [hlast _ _ hsat, hlast _ _ hev, fld_count_min _ (by rfl), State.fld_setFld_ne _ _ hne]
  refine ⟨rfl, ?_⟩
  rw [(touches_count List.mem_cons_self (.refl [R.NET.FCS_ERR.COUNT p] _)).fld fun g hg => by
    rw [List.mem_singleton.mp hg]
    exact Fld.apart_of_key_ne hne.symm]
  exact State.fld_setFld_lt s (R.NET.STAT.ERR_EV p) (Nat.le_of_ble_eq_true rfl) (show 1 < 2 ^ 1 by decide)

theorem damaged_unmatched_goes (hup : linkUp s p = true) (hv : (classify s p (hdrOf raw)).1 = none) :
    Goes (.netFrameRx p raw false) s fun t =>
      t = { s with net := t.net, rf := t.rf } ∧
      t.fld (R.NET.FCS_ERR.COUNT p) = min (2 ^ 32 - 1) (s.fld (R.NET.FCS_ERR.COUNT p) + 1) ∧
      t.fld (R.NET.STAT.ERR_EV p) = 1 ∧
      Touches [R.NET.FCS_ERR.COUNT p, R.NET.STAT.ERR_EV p, R.NET.SAT.SAT_F p] s t := by
  have hnodup : (classify s p (hdrOf raw)).2 = false := by
    unfold classify at hv ⊢
    dsimp only at hv ⊢
    split
    · rfl
    · rename_i hh
      rw [if_neg hh] at hv
      dsimp only at hv ⊢
      rw [List.head?_eq_none_iff.mp hv]
      rfl
  have hverdict : rxVerdict s p raw = (none, false) := by
    unfold rxVerdict
    split
    · rfl
    · exact Prod.ext hv hnodup
  have htaken : rxTaken s p raw = frameCounted s p raw := by
    unfold rxTaken
    rw [hverdict]
    rfl
  have hframe : netFrame s p raw false = netCount (frameCounted s p raw) p 0 := by
    rw [netFrame_damaged hup, hverdict, htaken]
    rfl
  obtain ⟨hcount, hev⟩ := fcsErr_netCount (frameCounted s p raw) p
  refine ⟨_, rfl, ?_⟩
  rw [hframe]
  refine ⟨?_, hcount, hev, ((touches_netCount (frameCounted s p raw) p 0).mono ?_)⟩
  · have h := netCount_frame (frameCounted s p raw) p 0
    rw [← htaken] at h ⊢
    exact frame_of_taken h
  · simp [netCountFlds, netCounter]

/-- The queue that a matched frame's item stands in before its FCS is known. -/
theorem rxAbort_queue {i q : Nat} {u : State} (hw : ∀ f : Nat, u.fld (R.RXF.F_STAT.STATE f) = s.fld (R.RXF.F_STAT.STATE f))
    (hk : (u.key i 0) = s.key i 0)
    (hq : (bits (s.key i 0).toNat 10 2 = 1 ∧ q = 960 + bits (s.key i 0).toNat 0 8 % 32) ∨
      (bits (s.key i 0).toNat 10 2 = 0 ∧ q = rxQueue (bits (s.key i 0).toNat 0 8) (p % 2) ∧
        s.fld (R.RXF.F_STAT.STATE (bits (s.key i 0).toNat 0 8)) ≠ 0)) : rxAbort u p (some i) = galRwnd u q := by
  unfold rxAbort
  dsimp only
  rw [hk, hw]
  rcases hq with ⟨hact, rfl⟩ | ⟨hact, rfl, hst⟩
  · rw [if_pos hact]
  · rw [if_neg (by rw [hact]; decide), if_pos ⟨hact, hst⟩]

theorem damaged_matched_goes {i q : Nat} (hup : linkUp s p = true) (hp : p < 3) (hdata : (hdrOf raw).etype ≠ 0x8808)
    (hip : (hdrOf raw).ckBad = false) (hdest : macAccepts s p (raw.take (raw.length - 4)) = true)
    (hv : (classify s p (hdrOf raw)).1 = some i)
    (hq : (bits (s.key i 0).toNat 10 2 = 1 ∧ q = 960 + bits (s.key i 0).toNat 0 8 % 32) ∨
      (bits (s.key i 0).toNat 10 2 = 0 ∧ q = rxQueue (bits (s.key i 0).toNat 0 8) (p % 2) ∧
        s.fld (R.RXF.F_STAT.STATE (bits (s.key i 0).toNat 0 8)) ≠ 0)) :
    Goes (.netFrameRx p raw false) s fun t => t = { s with net := t.net, rf := t.rf } ∧
      t.fld (R.NET.FCS_ERR.COUNT p) = min (2 ^ 32 - 1) (s.fld (R.NET.FCS_ERR.COUNT p) + 1) ∧
      t.fld (R.GAL.Q_RWND.COUNT q) = min (2 ^ 32 - 1) (s.fld (R.GAL.Q_RWND.COUNT q) + 1) := by
  have hverdict : (rxVerdict s p raw).1 = some i := by rw [rxVerdict, if_neg (by simp [hdata, hip, hdest]), hv]
  have hkeep : ∀ f : Fld, f.key ≠ R.RXF.CLS_DUP.COUNT.key → (rxTaken s p raw).fld f = s.fld f := fun f hf =>
    (touches_rxTaken s p raw).fld fun g hg => by rw [List.mem_singleton.mp hg]; exact Fld.apart_of_key_ne hf
  have hcounted : ∀ o f, 0xb000 ≤ o → o < 0xd000 → f.key = itemKey o q ∨ (∃ n, f.key = itemKey o n) → o ≠ 0xc008 →
      (netCount (rxTaken s p raw) p 0).fld f = s.fld f := by
    intro o f h1 h2 hf h3
    have hmod : f.key % 0x1000000 = o := by
      rcases hf with hf | ⟨n, hf⟩ <;> simp only [hf, itemKey] <;> omega
    rw [(touches_netCount _ p 0).fld fun g hg => Fld.apart_of_key_ne ?_, hkeep f (by simp only [R.RXF.CLS_DUP.COUNT]; omega)]
    simp only [netCountFlds, netCounter, List.mem_cons, List.not_mem_nil, or_false] at hg
    rcases hg with rfl | rfl | rfl <;> simp only [R.NET.STAT.ERR_EV, R.NET.FCS_ERR.COUNT, R.NET.SAT.SAT_F] <;> omega
  have hkey : (netCount (rxTaken s p raw) p 0).key i 0 = s.key i 0 := by
    rw [State.key, show (netCount (rxTaken s p raw) p 0).cls = (rxTaken s p raw).cls by rw [netCount_frame (rxTaken s p raw) p 0]]
    exact key_rxTaken ..
  have habort : rxAbort (netCount (rxTaken s p raw) p 0) p (some i) = galRwnd (netCount (rxTaken s p raw) p 0) q :=
    rxAbort_queue (fun f => hcounted 0xc11c _ (by decide) (by decide) (.inr ⟨f, rfl⟩) (by decide)) hkey hq
  obtain ⟨-, htouch, hcount⟩ := galRwnd_leaves (netCount (rxTaken s p raw) p 0) q
  obtain ⟨hfcs, -⟩ := fcsErr_netCount (rxTaken s p raw) p
  refine ⟨_, rfl, ?_⟩
  rw [netFrame_damaged hup, hverdict, habort]
  refine ⟨frame_of_taken ((netCount_frame ..).trans (galRwnd_frame ..)), ?_, ?_⟩
  · rw [htouch.fld fun g hg => Fld.apart_of_key_ne ?_, hfcs, hkeep _ (by simp only [R.NET.FCS_ERR.COUNT, R.RXF.CLS_DUP.COUNT]; omega)]
    simp only [rewindFlds, List.mem_cons, List.not_mem_nil, or_false] at hg
    rcases hg with rfl | rfl | rfl | rfl | rfl <;> simp only [R.NET.FCS_ERR.COUNT, R.GAL.EVT.LOW, R.GAL.Q_RWND.COUNT,
      R.GAL.Q_STAT.Q_SAT, R.GAL.RWND_CNT.COUNT, R.GAL.SAT.SAT_F, itemKey] <;> omega
  · rw [hcount, hcounted 0xb05c _ (by decide) (by decide) (.inl rfl) (by decide)]

/-! ### Frames a key discards or gives to a Compositor queue (R16, R298) -/

theorem discarded_goes {i : Nat} (h : FrameOk s p raw) (hv : (classify s p (hdrOf raw)).1 = some i)
    (hact : bits (s.key i 0).toNat 10 2 = 2) : Goes (.netFrameRx p raw true) s fun t => t = { s with net := t.net, rf := t.rf } ∧
        t.fld R.RXF.CLS_DROP.COUNT = min (2 ^ 32 - 1) (s.fld R.RXF.CLS_DROP.COUNT + 1) ∧
        Touches [R.RXF.CLS_DROP.COUNT, R.RXF.CLS_DUP.COUNT] s t := by
  refine ⟨_, rfl, ?_⟩
  rw [netFrame_good h hv, if_pos hact]
  refine ⟨frame_of_taken (State.count_frame ..), ?_, touches_count (by simp) ((touches_rxTaken s p raw).mono (by simp))⟩
  rw [fld_count_min _ (by rfl), (touches_rxTaken s p raw).fld (by decide)]
  rfl

/-- The galley and the registers change, and what a frame counts of its port. -/
theorem frame_of_taken_gal {t : State} (h : GalFrame (rxTaken s p raw) t) :
    t = { s with net := t.net, rf := t.rf, gal := t.gal, freeCtr := t.freeCtr } := by
  have e := rxTaken_frame s p raw
  unfold GalFrame at h
  generalize rxTaken s p raw = u at h e
  generalize t.rf = r at h
  generalize t.gal = g at h
  generalize t.freeCtr = c at h
  subst h
  generalize u.net = n at e ⊢
  generalize u.rf = r' at e
  subst e
  rfl

theorem gq_rxTaken (s : State) (p : Nat) (raw : List Byte) (q : Nat) : (rxTaken s p raw).gq q = s.gq q := by
  rw [State.gq, show (rxTaken s p raw).gal = s.gal by rw [rxTaken_frame], State.gq]

theorem queueTakes_rxTaken {q n : Nat} (h : QueueTakes s q n) : QueueTakes (rxTaken s p raw) q n := by
  obtain ⟨hidle, hopen, hroom, hshort⟩ := h
  refine ⟨by rwa [gq_rxTaken], by rwa [gq_rxTaken], ?_, hshort⟩
  rwa [gq_rxTaken, (touches_rxTaken s p raw).fld fun g hg => by
    rw [List.mem_singleton.mp hg]
    exact Fld.apart_of_key_ne (by simp only [R.GAL.Q_RES.CELLS, R.RXF.CLS_DUP.COUNT, itemKey]; omega)]

theorem toCompositor_goes {i q : Nat} (h : FrameOk s p raw) (hv : (classify s p (hdrOf raw)).1 = some i)
    (hq : q = 960 + bits (s.key i 0).toNat 0 5) (hact : bits (s.key i 0).toNat 10 2 = 1) (htakes : QueueTakes s q (12 + raw.length)) :
    Goes (.netFrameRx p raw true) s fun t => t = { s with net := t.net, rf := t.rf, gal := t.gal, freeCtr := t.freeCtr } ∧
      ∃ cells, t.gq q = { s.gq q with known := false, elems := (s.gq q).elems ++ [.item ⟨4, 0, 0, cells,
        elemHeader 4 (12 + raw.length) ++ List.replicate 12 0 ++ raw.take (raw.length - 4), false⟩] } := by
  have hlen : 16 + (raw.take (raw.length - 4)).length = 12 + raw.length := by
    rw [List.length_take]
    have := h.short
    omega
  have hbytes : (elemHeader 4 (12 + raw.length) ++ List.replicate 12 0 ++ raw.take (raw.length - 4)).length = 12 + raw.length := by
    rw [List.length_append, List.length_append, List.length_replicate, elemHeader, length_leBytes]
    omega
  have hne : elemHeader 4 (12 + raw.length) ++ List.replicate 12 0 ++ raw.take (raw.length - 4) ≠ [] := by
    intro h0
    rw [h0, List.length_nil] at hbytes
    omega
  obtain ⟨cells, hgq, -, hframe, -⟩ := galPut_reserved (s := rxTaken s p raw) 4 0 0 hne
    (by rw [hbytes]; exact queueTakes_rxTaken htakes)
  refine ⟨_, rfl, ?_⟩
  rw [netFrame_good h hv, if_neg (by rw [hact]; decide), if_pos hact, ← hq]
  unfold toCompositor
  dsimp only
  rw [hlen]
  refine ⟨frame_of_taken_gal (hframe.trans rfl), cells, ?_⟩
  rw [gq_galRefresh, hgq, gq_rxTaken]

end

end Sys2Proof.Machine
end

section
/-! The packets of a flow that reach its queue (R302 to R305). -/

namespace Sys2Proof.Machine

section
variable {s : State} {f p k : Nat} {inf : Bool} {hd : NetHdr}

/-- What a flow remembers of the newest packet on a path (R88, R303, R305). -/
def rxNewest (s : State) (f path : Nat) (i : PktInfo) : RxFlow :=
  let m := s.fld (R.RXF.F_CFG.MCS f)
  let x := s.flow f
  let folio := folioOf s f path i
  let run := rtpRuns s f folio
  { x with
    rtpRun := run.1, lastSeq := run.2, lastTs := match i.rtpTs with | some t => nearestClass t (mcsCount s m) | none => x.lastTs
    lastArr := s.ptiRaw (s.fld (R.RXF.F_CFG.PTI f)), seq := modifyAt x.seq path (fun _ => some folio), mr := modifyAt x.mr path (fun _ => i.mr) }

/-- The flow has seen a packet. -/
def rxSeen (s : State) (f path : Nat) (i : PktInfo) : State := refFalls (s.setFlow f (rxNewest s f path i))

/-- The item of a packet: its descriptor (R276) and its payload. -/
def rxItemBytes (s : State) (f p k : Nat) (inf : Bool) (i : PktInfo) : List Byte :=
  elemHeader 0 (16 + i.payload.length) ++ leBytes 2 (folioOf s f (p % 2) i) ++
    [byteOf (p * 64 + b2n inf * 32 + b2n ((s.flow f).mr.getD (p % 2) false != i.mr) * 16), byteOf f] ++ leBytes 4 (k % 2 ^ 32) ++
    leBytes 4 (ptiNs s (s.fld (R.RXF.F_CFG.PTI f)) % 2 ^ 32) ++ i.payload

theorem rxSeen_frame (s : State) (f path : Nat) (i : PktInfo) :
    rxSeen s f path i = { s with rf := (rxSeen s f path i).rf, rxf := (rxSeen s f path i).rxf } := by
  unfold rxSeen
  rw [(refFalls_frame _).1]
  rfl

theorem flow_rxSeen_self (s : State) (f path : Nat) (i : PktInfo) : (rxSeen s f path i).flow f = rxNewest s f path i := by
  unfold rxSeen
  rw [(refFalls_frame _).1]
  exact sGet_put_self ..

theorem flow_rxSeen_ne (s : State) {f g : Nat} (path : Nat) (i : PktInfo) (h : g ≠ f) : (rxSeen s f path i).flow g = s.flow g := by
  unfold rxSeen
  rw [(refFalls_frame _).1]
  exact sGet_put_ne _ _ _ h

theorem playsAlike_rxSeen (s : State) (f path : Nat) (i : PktInfo) : PlaysAlike s (rxSeen s f path i) where
  regs := ((OnlyIn.refl s).upd (u := s.setFlow f (rxNewest s f path i)) rfl).trans (onlyIn_refFalls _)
  ptis := by rw [rxSeen_frame]
  mcss := by rw [rxSeen_frame]
  slew g := by
    by_cases hg : g = f
    · rw [hg, flow_rxSeen_self]
      rfl
    · rw [flow_rxSeen_ne s path i hg]

/-- A packet that passes checks 2 to 7 of R304 becomes an item of its flow's queue. -/
theorem rxPacket_ok (h : PacketOk s f p k inf hd.body hd.type) : rxPacket s f p hd =
    galRefresh (galPut (rxSeen s f (p % 2) (readPacket s f hd.body)) (rxQueue f p) 0 false
      (folioOf s f (p % 2) (readPacket s f hd.body)) k (rxItemBytes s f p k inf (readPacket s f hd.body))) := by
  obtain ⟨version, audio, agrees, same, size, ⟨hon, hrun⟩, index, inTime, inDepth, order⟩ := h
  have hversion : ¬ ((!s.flag (R.RXF.F_CFG.AVTP f) && u8 hd.body 0 / 64 != 2) = true) := by
    cases hav : s.flag (R.RXF.F_CFG.AVTP f) with
    | true => simp
    | false => simp [version hav]
  have hkind : ¬ ((!(readPacket s f hd.body).agree || s.flag (R.RXF.F_CFG.AVTP f) != (hd.type == 2)) = true) := by simp [agrees, same]
  have hq : rxQueue f (p % 2) = rxQueue f p := by rw [rxQueue, rxQueue, Nat.mod_mod]
  have hnext : (match (s.flow f).next.getD (p % 2) none with | some e => decide (k < e) | none => false) = false := by
    cases hn : (s.flow f).next.getD (p % 2) none with
    | none => rfl
    | some e => exact decide_eq_false (Nat.not_lt.mpr (order e hn))
  have hsame := playsAlike_rxSeen s f (p % 2) (readPacket s f hd.body)
  unfold rxPacket
  dsimp only
  rw [if_neg hversion, if_neg audio, if_neg hkind, if_neg (by rw [size]; exact fun h => h rfl), if_neg hon, if_neg hrun, index]
  dsimp only
  generalize hu : refFalls (s.setFlow f _) = u
  rw [show u = rxSeen s f (p % 2) (readPacket s f hd.body) from hu.symm]
  rw [hsame.linkOffset, hsame.clocks.instantOf (cfgMcs_lt s f), hsame.clocks.mcsFs (cfgMcs_lt s f), hsame.depth, hsame.clocks.ptiNs, hsame.clocks.cfgPti, if_neg (by omega),
    if_neg (by push_cast; omega)]
  refine (if_neg fun hc => Bool.false_ne_true (hnext.symm.trans hc)).trans ?_
  rw [hq]
  unfold rxItemBytes
  simp only [List.append_assoc]

theorem length_rxItemBytes (s : State) (f p k : Nat) (inf : Bool) (i : PktInfo) :
    (rxItemBytes s f p k inf i).length = 16 + i.payload.length := by
  unfold rxItemBytes elemHeader
  simp only [List.length_append, length_leBytes, List.length_cons, List.length_nil]

section
variable {raw : List Byte}

theorem flow_rxTaken (s : State) (p : Nat) (raw : List Byte) (g : Nat) : (rxTaken s p raw).flow g = s.flow g := by
  rw [State.flow, show (rxTaken s p raw).rxf = s.rxf by rw [rxTaken_frame], State.flow]

theorem playsAlike_rxTaken (s : State) (p : Nat) (raw : List Byte) : PlaysAlike s (rxTaken s p raw) where
  regs := .of_touches (touches_rxTaken s p raw) fun f hf => by rw [List.mem_singleton.mp hf]; exact .inl rfl
  ptis := by rw [rxTaken_frame]
  mcss := by rw [rxTaken_frame]
  slew g := by rw [flow_rxTaken]

/-- The bytes of an item depend on the flow, the times and the configuration only. -/
theorem PlaysAlike.rxItemBytes {t : State} (h : PlaysAlike s t) (hf : t.flow f = s.flow f) (i : PktInfo) :
    rxItemBytes t f p k inf i = rxItemBytes s f p k inf i := by
  have hfolio : folioOf t f (p % 2) i = folioOf s f (p % 2) i := by rw [folioOf, h.avtp, hf, folioOf]
  rw [Machine.rxItemBytes, hfolio, hf, h.clocks.cfgPti, h.clocks.ptiNs, Machine.rxItemBytes]

theorem PlaysAlike.folioOf {t : State} (h : PlaysAlike s t) (hf : t.flow f = s.flow f) (path : Nat) (i : PktInfo) :
    folioOf t f path i = folioOf s f path i := by rw [Machine.folioOf, h.avtp, hf, Machine.folioOf]

theorem PlaysAlike.queueTakes {t : State} (h : PlaysAlike s t) {q n : Nat} (hg : t.gq q = s.gq q) (hq : QueueTakes s q n) :
    QueueTakes t q n := by
  obtain ⟨hidle, hopen, hroom, hshort⟩ := hq
  refine ⟨by rwa [hg], by rwa [hg], ?_, hshort⟩
  rwa [hg, h.regs.fld (notQual_of (.inr (by simp only [R.GAL.Q_RES.CELLS, itemKey]; omega)))]

theorem gq_rxSeen (s : State) (f path : Nat) (i : PktInfo) (q : Nat) : (rxSeen s f path i).gq q = s.gq q := by
  rw [State.gq, show (rxSeen s f path i).gal = s.gal by rw [rxSeen_frame], State.gq]

/-- What the parts of a reception may change, together. -/
theorem frame_of_seen {t : State} {path : Nat} {i : PktInfo} (h : GalFrame (rxSeen (rxTaken s p raw) f path i) t) :
    t = { s with net := t.net, rf := t.rf, gal := t.gal, freeCtr := t.freeCtr, rxf := t.rxf } := by
  have e := rxTaken_frame s p raw
  have e' := rxSeen_frame (rxTaken s p raw) f path i
  unfold GalFrame at h
  generalize rxTaken s p raw = u at h e e'
  generalize rxSeen u f path i = v at h e'
  generalize t.rf = r at h
  generalize t.gal = g at h
  generalize t.freeCtr = c at h
  subst h
  generalize v.rf = r at e'
  generalize v.rxf = x at e' ⊢
  subst e'
  generalize u.net = n at e ⊢
  generalize u.rf = r at e
  subst e
  rfl

theorem rxPacket_goes {i : Nat} (h : FrameOk s p raw) (hv : (classify s p (hdrOf raw)).1 = some i)
    (hf : f = bits (s.key i 0).toNat 0 8) (hact : bits (s.key i 0).toNat 10 2 = 0)
    (hok : PacketOk s f p k inf (hdrOf raw).body (hdrOf raw).type)
    (htakes : QueueTakes s (rxQueue f p) (16 + (readPacket s f (hdrOf raw).body).payload.length)) :
    Goes (.netFrameRx p raw true) s fun t =>
      t = { s with net := t.net, rf := t.rf, gal := t.gal, freeCtr := t.freeCtr, rxf := t.rxf } ∧
        (∀ g, g ≠ f → t.flow g = s.flow g) ∧ (t.flow f).next = (s.flow f).next ∧
        ∃ cells, t.gq (rxQueue f p) = { s.gq (rxQueue f p) with known := false, elems := (s.gq (rxQueue f p)).elems ++
          [.item ⟨0, folioOf s f (p % 2) (readPacket s f (hdrOf raw).body), k, cells,
            rxItemBytes s f p k inf (readPacket s f (hdrOf raw).body), false⟩] } := by
  have halike := playsAlike_rxTaken s p raw
  have hflow := flow_rxTaken s p raw
  have hpk := halike.packetOk (by rw [hflow]) hok
  have hrun := rxPacket_ok hpk
  rw [halike.readPacket, halike.rxItemBytes (hflow f), halike.folioOf (hflow f)] at hrun
  have hlen := length_rxItemBytes s f p k inf (readPacket s f (hdrOf raw).body)
  have hne : rxItemBytes s f p k inf (readPacket s f (hdrOf raw).body) ≠ [] := by
    intro h0
    rw [h0, List.length_nil] at hlen
    omega
  obtain ⟨cells, hgq, -, hframe, -⟩ := galPut_reserved
    (s := rxSeen (rxTaken s p raw) f (p % 2) (readPacket s f (hdrOf raw).body)) 0
    (folioOf s f (p % 2) (readPacket s f (hdrOf raw).body)) k hne
    (by
      rw [hlen]
      exact (playsAlike_rxSeen ..).queueTakes (gq_rxSeen ..) (halike.queueTakes (gq_rxTaken ..) htakes))
  refine ⟨_, rfl, ?_⟩
  rw [netFrame_good h hv, if_neg (by rw [hact]; decide), if_neg (by rw [hact]; decide), ← hf, hrun]
  generalize hput : galPut (rxSeen (rxTaken s p raw) f (p % 2) (readPacket s f (hdrOf raw).body)) (rxQueue f p) 0 false
    (folioOf s f (p % 2) (readPacket s f (hdrOf raw).body)) k (rxItemBytes s f p k inf (readPacket s f (hdrOf raw).body)) = v
    at hgq hframe
  have hrxf : (galRefresh v).rxf = (rxSeen (rxTaken s p raw) f (p % 2) (readPacket s f (hdrOf raw).body)).rxf := by
    show v.rxf = _
    rw [hframe]
  refine ⟨frame_of_seen (hframe.trans rfl), fun g hg => ?_, ?_, cells, ?_⟩
  · rw [State.flow, hrxf]
    exact (flow_rxSeen_ne _ _ _ hg).trans (hflow g)
  · rw [State.flow, hrxf]
    show ((rxSeen (rxTaken s p raw) f (p % 2) (readPacket s f (hdrOf raw).body)).flow f).next = _
    rw [flow_rxSeen_self, rxNewest, hflow]
  · rw [gq_galRefresh, hgq, gq_rxSeen, gq_rxTaken]

end

end

end Sys2Proof.Machine
end

section
/-! A network port's link comes up and goes down (R112, R295, R331, R342). -/

namespace Sys2Proof.Machine

section
variable {s : State} {p : Nat}

/-! ### The link comes up -/

/-- A port's link state machine shows the end of a negotiation and the lock of the FEC. -/
def linkNegotiated (s : State) (p : Nat) (an fec : Bool) : State :=
  let s := s.setFld (R.NET.STAT.FEC_LOCK p) (b2n fec)
  if an then s.setFld (R.NET.STAT.AN_EV p) 1 else s

/-- A port's link enters or leaves UP. -/
def linkMoved (s : State) (p st : Nat) : State :=
  (s.setFlds [(R.NET.STAT.STATE p, st), (R.NET.STAT.LINK_UP p, b2n (st == 3))]).setFld (R.NET.STAT.LINK_EV p) 1

theorem touches_linkNegotiated (s : State) (p : Nat) (an fec : Bool) :
    Touches [R.NET.STAT.FEC_LOCK p, R.NET.STAT.AN_EV p] s (linkNegotiated s p an fec) :=
  touches_ite (touches_setFld (by simp) (touches_setFld (by simp) (.refl _ s))) (touches_setFld (by simp) (.refl _ s))

theorem linkNegotiated_frame (s : State) (p : Nat) (an fec : Bool) : RfFrame s (linkNegotiated s p an fec) := by
  unfold linkNegotiated
  dsimp only
  split <;> rfl

theorem linkUp_linkNegotiated (s : State) (p : Nat) (an fec : Bool) : linkUp (linkNegotiated s p an fec) p = linkUp s p := by
  rw [linkUp, State.flag, (touches_linkNegotiated s p an fec).fld, linkUp, State.flag]
  intro f hf
  simp only [List.mem_cons, List.not_mem_nil, or_false] at hf
  rcases hf with rfl | rfl <;> simp [Fld.apart, R.NET.STAT.LINK_UP, R.NET.STAT.FEC_LOCK, R.NET.STAT.AN_EV]

theorem touches_linkMoved (s : State) (p st : Nat) :
    Touches [R.NET.STAT.STATE p, R.NET.STAT.LINK_UP p, R.NET.STAT.LINK_EV p] s (linkMoved s p st) :=
  touches_setFld (by simp) (touches_setFlds (by simp) (.refl _ s))

theorem linkMoved_frame (s : State) (p st : Nat) : RfFrame s (linkMoved s p st) := ((RfFrame.refl s).setFlds _).setFld _ _

theorem fld_linkMoved (s : State) (p : Nat) {st : Nat} (hst : st < 16) : (linkMoved s p st).fld (R.NET.STAT.STATE p) = st ∧
    (linkMoved s p st).fld (R.NET.STAT.LINK_UP p) = b2n (st == 3) ∧ (linkMoved s p st).fld (R.NET.STAT.LINK_EV p) = 1 := by
  refine ⟨?_, ?_, State.fld_setFld_mod _ _ _ rfl⟩
  · exact (State.fld_setFld_below _ _ rfl).trans ((State.fld_setFld_below _ _ rfl).trans
      (State.fld_setFld_lt s (R.NET.STAT.STATE p) (Nat.le_of_ble_eq_true rfl) hst))
  · refine (State.fld_setFld_above _ _ rfl).trans ((State.fld_setFld_mod _ _ _ rfl).trans ?_)
    cases (st == 3) <;> rfl

theorem portLink_up (s : State) (h : linkUp s p = false) : portLink s p 3 = linkMoved s p 3 := by
  unfold portLink netLinkDown
  dsimp only
  rw [h, Bool.false_and, if_neg Bool.false_ne_true, h, if_pos (by decide), if_pos (by decide)]
  rfl

theorem lanePolarity_leaves (s : State) {inv : Bool} (h : inv = true → grdOn s 3 = false) :
    lanePolarity s p inv = { s with rf := (lanePolarity s p inv).rf, pins := { s.pins with txInv := (lanePolarity s p inv).pins.txInv } } ∧
      Touches [R.GRD.LANE_STAT.POL_INV] s (lanePolarity s p inv) := by
  unfold lanePolarity
  dsimp only
  split
  · exact ⟨rfl, .of_rf _ rfl⟩
  · rename_i hon
    have hinv : inv = false := by
      cases inv with
      | false => rfl
      | true => exact absurd (show grdOn s 3 = false from h rfl) (by simpa [grdOn] using hon)
    rw [hinv, if_neg Bool.false_ne_true]
    exact ⟨rfl, touches_setFld List.mem_cons_self (.of_rf _ rfl)⟩

/-- A lane of the link sets its polarity as the link comes up. -/
def linkTurned (s : State) (p : Nat) (inv : Bool) : State := if p < 2 then lanePolarity s p inv else s

theorem linkTurned_leaves (s : State) {inv : Bool} (h : inv = true → p = 2 ∨ grdOn s 3 = false) :
    linkTurned s p inv = { s with rf := (linkTurned s p inv).rf, pins := { s.pins with txInv := (linkTurned s p inv).pins.txInv } } ∧
      Touches [R.GRD.LANE_STAT.POL_INV] s (linkTurned s p inv) := by
  unfold linkTurned
  split
  · exact lanePolarity_leaves s fun hi => (h hi).resolve_left (by omega)
  · exact ⟨rfl, .refl _ s⟩

theorem linkRises_goes {an fec inv : Bool} (hp : p < 3) (hinv : inv = true → p = 2 ∨ grdOn s 3 = false) (hup : linkUp s p = false) :
    Goes (.netLinkStateChange p 3 an fec inv) s fun t =>
      t = { s with rf := t.rf, pins := { s.pins with txInv := t.pins.txInv } } ∧
      t.fld (R.NET.STAT.STATE p) = 3 ∧ t.fld (R.NET.STAT.LINK_UP p) = 1 ∧ t.fld (R.NET.STAT.LINK_EV p) = 1 ∧
      t.fld (R.NET.STAT.FEC_LOCK p) = b2n fec ∧ (an = true → t.fld (R.NET.STAT.AN_EV p) = 1) ∧
      Touches [R.NET.STAT.STATE p, R.NET.STAT.LINK_UP p, R.NET.STAT.LINK_EV p, R.NET.STAT.FEC_LOCK p,
        R.NET.STAT.AN_EV p, R.GRD.LANE_STAT.POL_INV] s t := by
  obtain ⟨hframe, htouch⟩ := linkTurned_leaves s hinv
  have hdown : linkUp (linkTurned s p inv) p = false := by
    rw [linkUp, State.flag, htouch.fld fun f hf => by
      rw [List.mem_singleton.mp hf]
      exact Fld.apart_of_key_ne (by simp only [R.NET.STAT.LINK_UP, R.GRD.LANE_STAT.POL_INV]; omega)]
    exact hup
  have hturn : (if p < 2 ∧ 3 = 3 then lanePolarity s p inv else s) = linkTurned s p inv := by
    unfold linkTurned
    by_cases h : p < 2
    · rw [if_pos ⟨h, rfl⟩, if_pos h]
    · rw [if_neg fun h' => h h'.1, if_neg h]
  have hlink : netLinkStateChange p 3 an fec (linkTurned s p inv) = .next (linkMoved (linkNegotiated (linkTurned s p inv) p an fec) p 3) := by
    rw [← portLink_up _ (by rw [linkUp_linkNegotiated]; exact hdown)]
    rfl
  obtain ⟨hst, hlu, hle⟩ := fld_linkMoved (linkNegotiated (linkTurned s p inv) p an fec) p (st := 3) (by decide)
  have hall : Touches [R.NET.STAT.STATE p, R.NET.STAT.LINK_UP p, R.NET.STAT.LINK_EV p, R.NET.STAT.FEC_LOCK p,
        R.NET.STAT.AN_EV p, R.GRD.LANE_STAT.POL_INV] s (linkMoved (linkNegotiated (linkTurned s p inv) p an fec) p 3) :=
    ((htouch.mono (by simp)).trans ((touches_linkNegotiated _ p an fec).mono (by simp))).trans
      ((touches_linkMoved _ p 3).mono (by simp))
  have hfollow : follow s (linkMoved (linkNegotiated (linkTurned s p inv) p an fec) p 3) =
      linkMoved (linkNegotiated (linkTurned s p inv) p an fec) p 3 := by
    refine follow_of_touches hall fun f hf => ?_
    simp only [List.mem_cons, List.not_mem_nil, or_false] at hf
    rcases hf with rfl | rfl | rfl | rfl | rfl | rfl <;>
      simp only [Unfollowed, R.NET.STAT.STATE, R.NET.STAT.LINK_UP, R.NET.STAT.LINK_EV, R.NET.STAT.FEC_LOCK, R.NET.STAT.AN_EV,
        R.GRD.LANE_STAT.POL_INV, R.TIME.PTI_PORT_STATE.reg, R.TIME.PTI_STAT.reg, R.CLK.MCS_STAT.reg, R.CLK.MCS_FREQ.reg] <;>
      exact ⟨fun n hn => by omega, fun n hn => by omega⟩
  have hrun : exec (.netLinkStateChange p 3 an fec inv) s = .next (linkMoved (linkNegotiated (linkTurned s p inv) p an fec) p 3) := by
    show followed (netLinkStateChange p 3 an fec (if p < 2 ∧ 3 = 3 then lanePolarity s p inv else s)) s = _
    rw [hturn, followed_next hlink, hfollow]
  have hneg : ∀ f ∈ [R.NET.STAT.FEC_LOCK p, R.NET.STAT.AN_EV p],
      (linkMoved (linkNegotiated (linkTurned s p inv) p an fec) p 3).fld f =
        (linkNegotiated (linkTurned s p inv) p an fec).fld f := fun f hf => by
    refine (touches_linkMoved _ p 3).fld fun g hg => ?_
    simp only [List.mem_cons, List.not_mem_nil, or_false] at hf hg
    rcases hf with rfl | rfl <;> rcases hg with rfl | rfl | rfl <;>
      simp [Fld.apart, R.NET.STAT.STATE, R.NET.STAT.LINK_UP, R.NET.STAT.LINK_EV, R.NET.STAT.FEC_LOCK, R.NET.STAT.AN_EV]
  refine ⟨_, hrun, ?_, hst, hlu, hle, ?_, fun han => ?_, hall⟩
  · have h := (linkNegotiated_frame (linkTurned s p inv) p an fec).trans (linkMoved_frame (linkNegotiated (linkTurned s p inv) p an fec) p 3)
    generalize linkMoved (linkNegotiated (linkTurned s p inv) p an fec) p 3 = t at h
    generalize linkTurned s p inv = u at hframe h
    unfold RfFrame at h
    generalize t.rf = r at h
    subst h
    generalize u.pins.txInv = x at hframe
    generalize u.rf = r at hframe
    subst hframe
    rfl
  · rw [hneg _ (by simp)]
    have hfec : ((linkTurned s p inv).setFld (R.NET.STAT.FEC_LOCK p) (b2n fec)).fld (R.NET.STAT.FEC_LOCK p) = b2n fec := by
      rw [State.fld_setFld_mod _ _ _ rfl]
      cases fec <;> rfl
    unfold linkNegotiated
    dsimp only
    split
    · exact (State.fld_setFld_below _ _ rfl).trans hfec
    · exact hfec
  · rw [hneg _ (by simp), linkNegotiated, han, if_pos rfl]
    exact State.fld_setFld_mod _ _ _ rfl

end

end Sys2Proof.Machine
end

section
/-! What goes with a link that leaves UP: waiting packets, open items, seamless paths and PTP ports (R112, R295, R328, R342). -/

namespace Sys2Proof.Machine

/-! ### The registers of blocks -/

/-- The galley's and the transmit flows' registers, of every item. -/
def CutKey (k : Nat) : Prop := (0xb000 ≤ k % 0x1000000 ∧ k % 0x1000000 < 0xc000) ∨ (0xd000 ≤ k % 0x1000000 ∧ k % 0x1000000 < 0xe000)

/-- The galley's registers, of every item. -/
def GalKey (k : Nat) : Prop := 0xb000 ≤ k % 0x1000000 ∧ k % 0x1000000 < 0xc000

/-- The registers of flow `f`'s paths, of the galley and of the mailbox. -/
def PathKey (f k : Nat) : Prop := GalKey k ∨ k = R.RED.F_STAT.reg f ∨ (0x5000 ≤ k ∧ k < 0x6000)

/-- The status of PTI `n`, and the registers of the clocks and of the mailbox. -/
def PtiStatKey (n k : Nat) : Prop := (0x5000 ≤ k ∧ k < 0x7000) ∨ k = R.TIME.PTI_STAT.reg n

/-- The states of its ports too. -/
def PtiKey (n k : Nat) : Prop := PtiStatKey n k ∨ k = R.TIME.PTI_PORT_STATE.reg n

section
variable {s : State}

theorem rf_galFreeFirst (s : State) (q n : Nat) : (galFreeFirst s q n).rf = s.rf := rf_spillAll s _

theorem onlyIn_portsMark (s : State) (f k : Nat) (poison : Bool) : OnlyIn CutKey s (portsMark s f k poison) := by
  unfold portsMark
  split
  · split
    · dsimp only
      split
      · refine .of_touches (touches_storeMark (l := [R.GAL.INJECT.ARM]) (.of_rf _ rfl) _ _ (by simp)) fun f hf => ?_
        rw [List.mem_singleton.mp hf]
        exact .inl (by decide)
      · exact .refl s
    · exact .refl s
  · exact .refl s

theorem onlyIn_releaseIfDone (s : State) (f k : Nat) : OnlyIn CutKey s (releaseIfDone s f k) :=
  OnlyIn.ite (((OnlyIn.refl s).upd (rf_galFreeFirst s _ 1)).setFld _ (.inl (by decide))) (.refl s)

theorem onlyIn_txCount (s : State) (f n : Nat) : OnlyIn CutKey s (txCount s f 3 n [R.TXF.F_STAT.LINKDROP_EV f]) := by
  have h : Touches [R.TXF.F_STAT.LINKDROP_EV f, { R.TXF.F_UNDERRUN.COUNT f with key := (R.TXF.F_UNDERRUN.COUNT f).key + 4 * 3 },
      R.TXF.F_SAT.SAT f] s (txCount s f 3 n [R.TXF.F_STAT.LINKDROP_EV f]) :=
    touches_countSatN (touches_setFld (by simp) (.refl _ s)) n 3 (by simp) (by simp)
  refine .of_touches h fun g hg => .inr ?_
  simp only [List.mem_cons, List.not_mem_nil, or_false] at hg
  rcases hg with rfl | rfl | rfl <;> simp only [R.TXF.F_STAT.LINKDROP_EV, R.TXF.F_UNDERRUN.COUNT, R.TXF.F_SAT.SAT, itemKey] <;> omega

/-- A flow's frame is cut or struck as a link falls. -/
def linkDrop (s : State) (f : Nat) : State := if f < 256 then txCount s f 3 1 [R.TXF.F_STAT.LINKDROP_EV f] else s

/-- The frame on a port's wire is cut. -/
def wireCut (s : State) (p : Nat) : State :=
  match (s.txp.getD p txpReset).wire with
  | some (f, t) => if s.ticks < t then linkDrop s f else s
  | none => s

/-- The packets that wait for a port are struck. -/
def waitsCut (s : State) (p : Nat) : State :=
  { ((s.txp.getD p txpReset).wait.foldl (fun u w => linkDrop u w.flow) (wireCut s p)) with
    txp := modifyAt ((s.txp.getD p txpReset).wait.foldl (fun u w => linkDrop u w.flow) (wireCut s p)).txp p fun x =>
      { x with wait := [], wire := none } }

theorem txCut_eq (s : State) (p : Nat) : txCut s p = (s.txp.getD p txpReset).wait.foldl
    (fun s w => if w.flow < 256 then releaseIfDone (portsMark s w.flow w.k false) w.flow w.k else s) (waitsCut s p) := rfl

theorem onlyIn_linkDrop (s : State) (f : Nat) : OnlyIn CutKey s (linkDrop s f) := (onlyIn_txCount s f 1).ite (.refl s)

theorem onlyIn_txCut (s : State) (p : Nat) : OnlyIn CutKey s (txCut s p) := by
  have hwire : OnlyIn CutKey s (wireCut s p) := by
    unfold wireCut
    split
    · exact (onlyIn_linkDrop s _).ite (.refl s)
    · exact .refl s
  have hwaits : OnlyIn CutKey s (waitsCut s p) := (hwire.foldl fun v w _ => onlyIn_linkDrop v _).upd rfl
  rw [txCut_eq]
  exact hwaits.foldl fun v w _ => ((onlyIn_portsMark v _ _ _).trans (onlyIn_releaseIfDone _ _ _)).ite (.refl v)

/-! ### Open items and seamless paths -/

theorem onlyIn_galRwnd (s : State) (q : Nat) : OnlyIn GalKey s (galRwnd s q) := by
  refine .of_touches (galRwnd_leaves s q).2.1 fun f hf => ?_
  simp only [rewindFlds, List.mem_cons, List.not_mem_nil, or_false] at hf
  rcases hf with rfl | rfl | rfl | rfl | rfl <;>
    simp only [GalKey, R.GAL.EVT.LOW, R.GAL.Q_RWND.COUNT, R.GAL.Q_STAT.Q_SAT, R.GAL.RWND_CNT.COUNT, R.GAL.SAT.SAT_F, itemKey] <;> omega

theorem onlyIn_galRewind (s : State) (q : Nat) : OnlyIn GalKey s (galRewind s q) := by
  have hspill : ∀ (it : GItem) (x : GQueue), OnlyIn GalKey s (galRwnd ((spill s it.cells it.bytes).setGq q x) q) := fun it x =>
    ((OnlyIn.refl s).upd (u := (spill s it.cells it.bytes).setGq q x) (rf_spill ..)).trans (onlyIn_galRwnd ..)
  unfold galRewind
  dsimp only
  split
  · exact hspill _ _
  · split
    · unfold swallowEnd
      dsimp only
      split
      · exact (OnlyIn.refl s).upd rfl
      · exact (OnlyIn.refl s).upd rfl
    · split
      · split
        · exact .refl s
        · exact hspill _ _
      · exact .refl s

/-- A path's state and the events of its loss. -/
theorem pathGo_lost (s : State) {f path : Nat} (hold : s.fld (pathFld f path) ≠ 3) : pathGo s f path 3 =
    ((s.setFld (pathFld f path) 3).setFld (if path = 0 then R.RED.F_STAT.LOST_A_EV f else R.RED.F_STAT.LOST_B_EV f) 1).event 0xE090
      [byteOf f, byteOf path, byteOf 0] := by
  unfold pathGo
  dsimp only
  rw [if_pos ⟨rfl, hold⟩]

theorem key_pathFld (f path : Nat) : (pathFld f path).key = R.RED.F_STAT.reg f := by
  unfold pathFld
  split <;> rfl

theorem onlyIn_pathGo_lost (s : State) {f path : Nat} (hold : s.fld (pathFld f path) ≠ 3) :
    OnlyIn (PathKey f) s (pathGo s f path 3) := by
  rw [pathGo_lost s hold]
  refine (((OnlyIn.refl s).setFld _ (.inr (.inl (key_pathFld f path)))).setFld _ (.inr (.inl ?_))).event _ _ fun k h1 h2 => .inr (.inr ⟨h1, h2⟩)
  split <;> rfl

theorem fld_pathGo_lost (s : State) {f path : Nat} (hold : s.fld (pathFld f path) ≠ 3) :
    (pathGo s f path 3).fld (pathFld f path) = 3 := by
  rw [pathGo_lost s hold, (EvtStep.event _ _ _).touches.fld]
  · unfold pathFld
    split
    · exact (State.fld_setFld_below _ _ rfl).trans (State.fld_setFld_lt s (R.RED.F_STAT.STATE_A f) (Nat.le_of_ble_eq_true rfl) (show 3 < 2 ^ 4 by decide))
    · exact (State.fld_setFld_below _ _ rfl).trans (State.fld_setFld_lt s (R.RED.F_STAT.STATE_B f) (Nat.le_of_ble_eq_true rfl) (show 3 < 2 ^ 4 by decide))
  · intro g hg
    refine Fld.apart_of_key_ne ?_
    rw [key_pathFld]
    simp only [evtFlds, List.mem_cons, List.not_mem_nil, or_false] at hg
    rcases hg with rfl | rfl <;> simp only [R.RED.F_STAT.reg, R.MBX.STAT.EVT_PENDING, R.MBX.RING_STAT.EVT_LOST, itemKey] <;> omega

/-- What a link that falls does to a flow: its open item on that path is rewound, and the path is lost. -/
def flowCut (p : Nat) (s : State) (f : Nat) : State :=
  let q := rxQueue f (p % 2)
  let s := if (s.gq q).opened.isSome ∧ p < 2 then galRewind s q else s
  if p < 2 ∧ seamless s f ∧ s.fld (pathFld f p) = 2 then pathGo s f p 3 else s

theorem onlyIn_flowCut (p : Nat) (s : State) (f : Nat) : OnlyIn (PathKey f) s (flowCut p s f) := by
  have hgal : OnlyIn (PathKey f) s (if (s.gq (rxQueue f (p % 2))).opened.isSome ∧ p < 2 then galRewind s (rxQueue f (p % 2)) else s) :=
    ((onlyIn_galRewind s _).mono fun k hk => .inl hk).ite (.refl s)
  unfold flowCut
  dsimp only
  generalize (if (s.gq (rxQueue f (p % 2))).opened.isSome ∧ p < 2 then galRewind s (rxQueue f (p % 2)) else s) = u at hgal
  split
  · rename_i h
    exact hgal.trans (onlyIn_pathGo_lost u (by rw [h.2.2]; decide))
  · exact hgal

theorem notGal_of_low {k : Nat} (h : k < 0xb000) : ¬ GalKey k := by
  unfold GalKey
  omega

/-- A register of the flows' table and of path states is none of another flow's. -/
theorem notPath_of_item {f g k o : Nat} (hk : k = itemKey o g) (ho : 0xc000 ≤ o) (ho' : o < 0x1000000) (hg : g ≠ f ∨ o ≠ 0x10104) :
    ¬ PathKey f k := by
  simp only [PathKey, GalKey, R.RED.F_STAT.reg, hk, itemKey]
  omega

/-- The path of a seamless flow as the link it came by falls: the path is lost once its flow's turn has come. -/
theorem foldl_flowCut {p f : Nat} (hf : f < 256) (hp : p < 2) (hs : seamless s f = true) (hold : s.fld (pathFld f p) = 2) :
    ((List.range 256).foldl (flowCut p) s).fld (pathFld f p) = 3 := by
  have hreg : ∀ u g, g ≠ f → (flowCut p u g).fld (pathFld f p) = u.fld (pathFld f p) := fun u g hg =>
    (onlyIn_flowCut p u g).fld (notPath_of_item (g := f) ((key_pathFld f p).trans rfl) (by decide) (by decide) (.inl (Ne.symm hg)))
  have hcfg : ∀ u g, seamless (flowCut p u g) f = seamless u f := fun u g => by
    rw [seamless, (onlyIn_flowCut p u g).fld (f := R.RXF.F_CFG.PATHS f)
      (notPath_of_item (o := 0xc100) rfl (by decide) (by decide) (.inr (by decide))), seamless]
  have hself : ∀ u, seamless u f = true → u.fld (pathFld f p) = 2 ∨ u.fld (pathFld f p) = 3 →
      (flowCut p u f).fld (pathFld f p) = 3 := fun u hu hst => by
    have hgal : OnlyIn GalKey u (if (u.gq (rxQueue f (p % 2))).opened.isSome ∧ p < 2 then galRewind u (rxQueue f (p % 2)) else u) :=
      (onlyIn_galRewind u _).ite (.refl u)
    unfold flowCut
    dsimp only
    generalize (if (u.gq (rxQueue f (p % 2))).opened.isSome ∧ p < 2 then galRewind u (rxQueue f (p % 2)) else u) = v at hgal
    have hpath : v.fld (pathFld f p) = u.fld (pathFld f p) := hgal.fld (by
      simp only [GalKey, key_pathFld, R.RED.F_STAT.reg, itemKey]
      omega)
    have hsv : seamless v f = true := by
      rw [seamless, hgal.fld (f := R.RXF.F_CFG.PATHS f) (by simp only [GalKey, R.RXF.F_CFG.PATHS, itemKey]; omega)]
      exact hu
    rcases hst with hst | hst
    · rw [if_pos ⟨hp, hsv, hpath.trans hst⟩]
      exact fld_pathGo_lost v (by rw [hpath, hst]; decide)
    · rw [if_neg fun h => by rw [hpath, hst] at h; exact absurd h.2.2 (by decide)]
      exact hpath.trans hst
  have hany : ∀ u b, seamless u f = true ∧ (u.fld (pathFld f p) = 2 ∨ u.fld (pathFld f p) = 3) →
      seamless (flowCut p u b) f = true ∧ ((flowCut p u b).fld (pathFld f p) = 2 ∨ (flowCut p u b).fld (pathFld f p) = 3) := by
    intro u b ⟨hu, hst⟩
    refine ⟨(hcfg u b).trans hu, ?_⟩
    by_cases hb : b = f
    · rw [hb]
      exact .inr (hself u hu hst)
    · rwa [hreg u b hb]
  refine (foldl_reaches (P := fun u => seamless u f = true ∧ (u.fld (pathFld f p) = 2 ∨ u.fld (pathFld f p) = 3))
    (Q := fun u => seamless u f = true ∧ u.fld (pathFld f p) = 3) (List.mem_range.mpr hf) (fun u b _ => hany u b) (fun u b _ hu => ?_)
    (fun u hu => ⟨(hany u f hu).1, hself u hu.1 hu.2⟩) ⟨hs, .inl hold⟩).2
  refine ⟨(hany u b ⟨hu.1, .inr hu.2⟩).1, ?_⟩
  by_cases hb : b = f
  · rw [hb]
    exact hself u hu.1 (.inr hu.2)
  · rw [hreg u b hb]
    exact hu.2

/-! ### PTP ports (R112) -/

theorem onlyIn_refFalls_pti (s : State) (n : Nat) : OnlyIn (PtiStatKey n) s (refFalls s) :=
  (OnlyIn.refl s).foldl fun v m hm => ((OnlyIn.refl v).setFld 0 (.inl (by
    simp only [R.CLK.MCS_STAT.REF_OK]
    have := List.mem_range.mp hm
    omega))).ite (.refl v)

theorem onlyIn_mcsPtiEvent (s : State) (n m : Nat) (step : Bool) : OnlyIn (PtiStatKey n) s (mcsPtiEvent s m step) := by
  refine (OnlyIn.refl s).foldl fun v i hi => ?_
  have hi := List.mem_range.mp hi
  have hclk : ∀ f ∈ mcsFlds i, PtiStatKey n f.key := by
    intro f hf
    refine .inl ?_
    simp only [mcsFlds, evtFlds, List.cons_append, List.nil_append, List.mem_cons, List.not_mem_nil, or_false] at hf
    rcases hf with rfl | rfl | rfl | rfl | rfl | rfl | rfl | rfl | rfl <;>
      simp only [R.MBX.STAT.EVT_PENDING, R.MBX.RING_STAT.EVT_LOST, R.CLK.MCS_STAT.STATE, R.CLK.MCS_STAT.LOCK_EV,
        R.CLK.MCS_STAT.HOLD_EV, R.CLK.MCS_STAT.SLEWING, R.CLK.MCS_STAT.BW_NOW, R.CLK.MCS_STAT.REF_OK, R.CLK.MCS_FREQ.OFFSET] <;> omega
  have hseen : PtiStatKey n (R.CLK.MCS_STAT.STEP_SEEN i).key := .inl (by simp only [R.CLK.MCS_STAT.STEP_SEEN]; omega)
  have hmark : OnlyIn (PtiStatKey n) v (v.setMcs i { v.mcs i with stepped := true }) := (OnlyIn.refl v).upd rfl
  have hstep : OnlyIn (PtiStatKey n) v (if step then (v.setMcs i { v.mcs i with stepped := true }).setFld (R.CLK.MCS_STAT.STEP_SEEN i) 1
      else v.setMcs i { v.mcs i with stepped := true }) :=
    OnlyIn.ite (hmark.setFld 1 hseen) hmark
  exact (hstep.trans (.of_touches (mcsStep_mcsLose _ i).touches hclk)).ite (.refl v)

theorem onlyIn_lockCheck (s : State) (n : Nat) : OnlyIn (PtiStatKey n) s (lockCheck s n) := by
  rcases lockCheck_cases s n with e | e <;> rw [e]
  · exact .refl s
  · exact (OnlyIn.setFld ((OnlyIn.refl s).upd (u := s.setPti n _) rfl) 0 (.inr rfl)).trans (onlyIn_refFalls_pti _ n)

theorem onlyIn_ptiFreeze (s : State) (n : Nat) : OnlyIn (PtiStatKey n) s (ptiFreeze s n) :=
  (OnlyIn.refl s).ite ((OnlyIn.setFld ((OnlyIn.refl s).upd (u := s.setPti n _) rfl) 1 (.inr rfl)).trans
    ((onlyIn_refFalls_pti _ n).trans (onlyIn_mcsPtiEvent _ n n false)))

theorem onlyIn_setPort (s : State) (n x st : Nat) : OnlyIn (PtiKey n) s (setPort s n x st) := by
  refine .of_touches (touches_setPort s n x st) fun f hf => ?_
  simp only [portFlds, List.mem_cons, List.not_mem_nil, or_false] at hf
  rcases hf with rfl | rfl
  · exact .inr rfl
  · exact .inl (.inr rfl)

theorem onlyIn_portLost (s : State) (n x st : Nat) : OnlyIn (PtiKey n) s (portLost s n x st) := by
  have hstat : ∀ {u v : State}, OnlyIn (PtiStatKey n) u v → OnlyIn (PtiKey n) u v := fun h => h.mono fun _ hk => .inl hk
  unfold portLost
  dsimp only
  split
  · exact ((onlyIn_setPort s n x st).trans (onlyIn_setPort _ n _ 3)).trans ((OnlyIn.refl _).ite (hstat (onlyIn_ptiFreeze _ n)))
  · exact (onlyIn_setPort s n x st).trans (hstat (onlyIn_lockCheck _ n))

/-- A port state of a PTI lies in none of the registers of a status. -/
theorem portState_of_stat {u v : State} {n : Nat} (h : OnlyIn (PtiStatKey n) u v) (x : Nat) : v.portState n x = u.portState n x :=
  h.fld (by
    simp only [PtiStatKey, portField, R.TIME.PTI_PORT_STATE.reg, R.TIME.PTI_STAT.reg]
    omega)

theorem portState_setPort_ne (s : State) (n st : Nat) {x y : Nat} (h : x ≠ y) : (setPort s n y st).portState n x = s.portState n x := by
  refine (touches_setPort s n y st).fld fun f hf => ?_
  simp only [portFlds, List.mem_cons, List.not_mem_nil, or_false] at hf
  rcases hf with rfl | rfl
  · simp only [Fld.apart, portField, bne_self_eq_false, Bool.false_or, Bool.or_eq_true]
    rcases Nat.lt_or_gt_of_ne h with h | h
    · exact .inl (decide_eq_true (by omega))
    · exact .inr (decide_eq_true (by omega))
  · exact Fld.apart_of_key_ne (by
      simp only [portField, R.TIME.PTI_PORT_STATE.reg, R.TIME.PTI_STAT.SEL_PORT]
      omega)

theorem portState_portLost (s : State) (n : Nat) {x st : Nat} (hx : x < 3) (hst : st < 16) : (portLost s n x st).portState n x = st := by
  have hself := portState_setPort_self s n hx hst
  unfold portLost
  dsimp only
  split
  · rename_i h
    have hother : (setPort (setPort s n x st) n (1 - x) 3).portState n x = st :=
      (portState_setPort_ne _ n 3 (by omega)).trans hself
    split
    · exact hother
    · exact (portState_of_stat (onlyIn_ptiFreeze _ n) x).trans hother
  · exact (portState_lockCheck ..).trans hself

/-- What a link that falls does to the port of a PTI on it. -/
def ptiCut (p : Nat) (s : State) (n : Nat) : State := if s.portState n p = 0 then s else portLost s n p 7

theorem onlyIn_ptiCut (p : Nat) (s : State) (n : Nat) : OnlyIn (PtiKey n) s (ptiCut p s n) :=
  (OnlyIn.refl s).ite (onlyIn_portLost s n p 7)

theorem foldl_ptiCut {p n : Nat} (hp : p < 3) (hn : n < 4) (h : s.portState n p ≠ 0) :
    ([0, 1, 2, 3].foldl (ptiCut p) s).portState n p = 7 := by
  have hother : ∀ u b, b < 4 → b ≠ n → (ptiCut p u b).portState n p = u.portState n p := fun u b hb hne =>
    (onlyIn_ptiCut p u b).fld (by
      simp only [PtiKey, PtiStatKey, portField, R.TIME.PTI_PORT_STATE.reg, R.TIME.PTI_STAT.reg]
      omega)
  have hhit : ∀ u : State, u.portState n p ≠ 0 → (ptiCut p u n).portState n p = 7 := fun u hu => by
    rw [ptiCut, if_neg hu]
    exact portState_portLost u n hp (by decide)
  have hlt : ∀ b ∈ [0, 1, 2, 3], b < 4 := by decide
  refine foldl_reaches (P := fun u => u.portState n p ≠ 0) (Q := fun u => u.portState n p = 7) (a := n)
    (by simp only [List.mem_cons, List.not_mem_nil, or_false]; omega) (fun u b hb hu => ?_) (fun u b hb hu => ?_) hhit h
  · by_cases hbn : b = n
    · rw [hbn, hhit u hu]
      decide
    · rwa [hother u b (hlt b hb) hbn]
  · by_cases hbn : b = n
    · rw [hbn]
      exact hhit u (by rw [hu]; decide)
    · rwa [hother u b (hlt b hb) hbn]

/-! ### The link goes down -/

/-- A link that has left UP, with what it carried and received. -/
def linkFallen (s : State) (p st : Nat) (an fec : Bool) : State :=
  [0, 1, 2, 3].foldl (ptiCut p) ((List.range 256).foldl (flowCut p) (linkMoved (txCut (linkNegotiated s p an fec) p) p st))

/-- Registers that neither the galley, the transmit flows, the paths nor the PTIs hold. -/
def CalmKey (k : Nat) : Prop := (0xc000 ≤ k % 0x1000000 ∧ k % 0x1000000 < 0xd000) ∨ (0xe000 ≤ k % 0x1000000 ∧ k % 0x1000000 < 0x10000)

theorem calm_paths (p : Nat) (s : State) {f : Fld} (hf : CalmKey f.key) :
    ((List.range 256).foldl (flowCut p) s).fld f = s.fld f := by
  have h : OnlyIn (fun k => ∃ g, PathKey g k) s ((List.range 256).foldl (flowCut p) s) :=
    (OnlyIn.refl s).foldl fun v g _ => (onlyIn_flowCut p v g).mono fun k hk => ⟨g, hk⟩
  refine h.fld fun ⟨g, hg⟩ => ?_
  simp only [CalmKey, PathKey, GalKey, R.RED.F_STAT.reg, itemKey] at hf hg
  omega

theorem calm_ptis (p : Nat) (s : State) {f : Fld} (hf : 0x8000 ≤ f.key) : ([0, 1, 2, 3].foldl (ptiCut p) s).fld f = s.fld f := by
  have hlt : ∀ n ∈ [0, 1, 2, 3], n < 4 := by decide
  have h : OnlyIn (fun k => k < 0x8000) s ([0, 1, 2, 3].foldl (ptiCut p) s) :=
    (OnlyIn.refl s).foldl fun v n hn => (onlyIn_ptiCut p v n).mono fun k hk => by
      have := hlt n hn
      simp only [PtiKey, PtiStatKey, R.TIME.PTI_PORT_STATE.reg, R.TIME.PTI_STAT.reg] at hk
      omega
  exact h.fld (Nat.not_lt.mpr hf)

end

end Sys2Proof.Machine
end

section
/-! The steps of network ingress (R294 to R305, R317). -/

namespace Sys2Proof.Machine

section
variable {s : State} {p : Nat}

theorem portLink_falls {st : Nat} (hp : p < 3) (hst : st ≠ 3) (hup : linkUp s p = true) : portLink s p st =
    [0, 1, 2, 3].foldl (ptiCut p) ((List.range 256).foldl (flowCut p) (linkMoved (txCut s p) p st)) := by
  have hthree : (st == 3) = false := by simpa using hst
  have hcut : linkUp (txCut s p) p = true := by
    rw [linkUp, (onlyIn_txCut s p).flag (by simp only [CutKey, R.NET.STAT.LINK_UP]; omega)]
    exact hup
  have hmove : linkMoved (txCut s p) p st = (((txCut s p).setFlds [(R.NET.STAT.STATE p, st), (R.NET.STAT.LINK_UP p, b2n false)]).setFld
      (R.NET.STAT.LINK_EV p) 1) := by rw [linkMoved, hthree]
  unfold portLink netLinkDown
  dsimp only
  rw [hup, show (true && st != 3) = true by simp [hst], if_pos rfl, hcut, hthree, if_neg (by decide), if_pos (by decide), hmove]
  rfl

/-- Up to the paths' turn a falling link writes registers of the galley, the transmit flows and its port only. -/
theorem onlyIn_linkMoved_cut (s : State) (p st : Nat) (an fec : Bool) :
    OnlyIn (fun k => CutKey k ∨ k = R.NET.STAT.reg p) s (linkMoved (txCut (linkNegotiated s p an fec) p) p st) := by
  refine ((OnlyIn.of_touches (touches_linkNegotiated s p an fec) fun f hf => .inr ?_).trans
    ((onlyIn_txCut _ p).mono fun k hk => .inl hk)).trans (.of_touches (touches_linkMoved _ p st) fun f hf => .inr ?_)
  · simp only [List.mem_cons, List.not_mem_nil, or_false] at hf
    rcases hf with rfl | rfl | rfl <;> rfl
  · simp only [List.mem_cons, List.not_mem_nil, or_false] at hf
    rcases hf with rfl | rfl <;> rfl

theorem linkFalls_goes {st : Nat} {an fec inv : Bool} (hp : p < 3) (hst : st < 16) (hne : st ≠ 3) (hup : linkUp s p = true) :
    ∃ u, exec (.netLinkStateChange p st an fec inv) s = .next (follow s u) ∧
      u.fld (R.NET.STAT.STATE p) = st ∧ u.fld (R.NET.STAT.LINK_UP p) = 0 ∧ u.fld (R.NET.STAT.LINK_EV p) = 1 ∧
      (∀ n, n < 4 → s.portState n p ≠ 0 → u.portState n p = 7) ∧
      ∀ f, f < 256 → p < 2 → seamless s f = true → s.fld (pathFld f p) = 2 → u.fld (pathFld f p) = 3 := by
  have hturn : (if p < 2 ∧ st = 3 then lanePolarity s p inv else s) = s := if_neg fun h => hne h.2
  have hlink : netLinkStateChange p st an fec s = .next (linkFallen s p st an fec) := by
    rw [linkFallen, ← portLink_falls hp hne (by rw [linkUp_linkNegotiated]; exact hup)]
    rfl
  have hrun : exec (.netLinkStateChange p st an fec inv) s = .next (follow s (linkFallen s p st an fec)) := by
    show followed (netLinkStateChange p st an fec (if p < 2 ∧ st = 3 then lanePolarity s p inv else s)) s = _
    rw [hturn, followed_next hlink]
  have hcalm : ∀ f : Fld, f.key = R.NET.STAT.reg p →
      (linkFallen s p st an fec).fld f = (linkMoved (txCut (linkNegotiated s p an fec) p) p st).fld f := fun f hf => by
    rw [linkFallen, calm_ptis, calm_paths]
    · simp only [CalmKey, hf, R.NET.STAT.reg]
      omega
    · simp only [hf, R.NET.STAT.reg]
      omega
  obtain ⟨hstate, hlu, hle⟩ := fld_linkMoved (txCut (linkNegotiated s p an fec) p) p hst
  have hcut := onlyIn_linkMoved_cut s p st an fec
  refine ⟨_, hrun, (hcalm _ rfl).trans hstate, (hcalm _ rfl).trans (hlu.trans ?_), (hcalm _ rfl).trans hle, fun n hn h => ?_,
    fun f hf hp2 hs hold => ?_⟩
  · rw [show (st == 3) = false by simpa using hne]
    rfl
  · refine foldl_ptiCut hp hn ?_
    have hkeep : OnlyIn (fun k => (∃ g, PathKey g k) ∨ CutKey k ∨ k = R.NET.STAT.reg p) s
        ((List.range 256).foldl (flowCut p) (linkMoved (txCut (linkNegotiated s p an fec) p) p st)) :=
      (hcut.mono fun k hk => .inr hk).foldl fun v g _ => (onlyIn_flowCut p v g).mono fun k hk => .inl ⟨g, hk⟩
    rw [State.portState, hkeep.fld ?_]
    · exact h
    · rintro (⟨g, hg⟩ | hk | hk)
      · simp only [PathKey, GalKey, portField, R.TIME.PTI_PORT_STATE.reg, R.RED.F_STAT.reg, itemKey] at hg
        omega
      · simp only [CutKey, portField, R.TIME.PTI_PORT_STATE.reg] at hk
        omega
      · simp only [portField, R.TIME.PTI_PORT_STATE.reg, R.NET.STAT.reg] at hk
        omega
  · have hpath : (linkMoved (txCut (linkNegotiated s p an fec) p) p st).fld (pathFld f p) = s.fld (pathFld f p) := hcut.fld (by
      simp only [key_pathFld, CutKey, R.RED.F_STAT.reg, R.NET.STAT.reg, itemKey]
      omega)
    have hcfg : seamless (linkMoved (txCut (linkNegotiated s p an fec) p) p st) f = true := by
      rw [seamless, hcut.fld (f := R.RXF.F_CFG.PATHS f) (by
        simp only [CutKey, R.RXF.F_CFG.PATHS, R.NET.STAT.reg, itemKey]
        omega)]
      exact hs
    rw [linkFallen, calm_ptis]
    · exact foldl_flowCut hf hp2 hcfg (hpath.trans hold)
    · simp only [key_pathFld, R.RED.F_STAT.reg, itemKey]
      omega

end

/-- Settles O40. -/
theorem networkIngressSteps : Obligations.NetworkIngressSteps := fun _ _ _ hp =>
  ⟨fun good h => congrArg Host.Outcome.next (netFrame_down good h), damaged_unmatched_goes,
    fun _ _ hup hdata hip hdest hv hq => damaged_matched_goes hup hp hdata hip hdest hv hq,
    fun _ h hv => ⟨discarded_goes h hv, fun _ hq hact htakes => toCompositor_goes h hv hq hact htakes,
      fun _ _ _ hf hact hok htakes => rxPacket_goes h hv hf hact hok htakes⟩,
    fun _ _ _ hinv hup => linkRises_goes hp hinv hup, fun _ _ _ _ hst hne hup => linkFalls_goes hp hst hne hup⟩

end Sys2Proof.Machine
end

section
/-! Writes of the classifier's keys and of the imposition table, and what makes a captured entry govern (R254, R257, R261, R299). -/

namespace Sys2Proof.Machine

theorem latchOnce_frame (s : State) (k : Nat) (l : List (Fld × Nat)) :
    s.latchOnce k l = { s with rf := (s.latchOnce k l).rf, latched := (s.latchOnce k l).latched } := by
  unfold State.latchOnce
  split
  · rfl
  · rw [State.setFlds_frame]

section
variable {s : State} {init : Nat}

/-! ### Keys -/

/-- The place of a key in the table or the CAM. -/
def keyPosition (cam : Bool) (i : Nat) : Nat := (if cam then 4096 else 0) + i

theorem key_setKey_self (s : State) (i w : Nat) (v : Word) : (s.setKey i w v).key i w = v := sGet_put_self ..

theorem key_setKey_ne (s : State) {i w j x : Nat} (v : Word) (hw : w < 8) (hx : x < 8) (h : j ≠ i ∨ x ≠ w) :
    (s.setKey i w v).key j x = s.key j x := sGet_put_ne _ _ _ (by omega)

/-- A key's write is refused with a reason. -/
def keyRefused (s : State) (i r : Nat) : State := s.setFld R.RXF.CLS_STAT.REFUSED 1 |>.latchOnce R.RXF.CLS_STAT.reg
  [(R.RXF.CLS_STAT.REASON, r), (R.RXF.CLS_STAT.CAM, b2n (decide (4096 ≤ i))), (R.RXF.CLS_STAT.PLACE, i % 4096)]

theorem keyRefused_leaves (s : State) (i r : Nat) :
    keyRefused s i r = { s with rf := (keyRefused s i r).rf, latched := (keyRefused s i r).latched } ∧
      (keyRefused s i r).fld R.RXF.CLS_STAT.REFUSED = 1 ∧ (keyRefused s i r).fld R.RXF.CLS_STAT.KEYS = s.fld R.RXF.CLS_STAT.KEYS := by
  unfold keyRefused
  refine ⟨latchOnce_frame _ _ _, ?_, ?_⟩
  · exact (fld_latchOnce _ _ rfl).trans (State.fld_setFld_mod _ _ _ rfl)
  · exact (fld_latchOnce _ _ rfl).trans (State.fld_setFld_above _ _ rfl)

theorem keyWrite_body (s : State) (i w : Nat) (v : Word) (hw : w ≠ 0) : keyWrite s i w v =
    if nbit (s.key i 0).toNat 31 then keyRefused s i 2 else s.setKey i w v := if_pos hw

theorem keyWrite_clear (s : State) (i : Nat) {v : Word} (h : nbit v.toNat 31 = false) : keyWrite s i 0 v =
    (s.setKey i 0 v).setFld R.RXF.CLS_STAT.KEYS (s.fld R.RXF.CLS_STAT.KEYS - b2n (nbit (s.key i 0).toNat 31)) := by
  unfold keyWrite
  dsimp only
  rw [if_neg (by decide), h, if_pos (by decide)]

/-- A key may stand at a place: anywhere in the CAM, in the table where its hash puts it (R298). -/
def KeyFits (s : State) (i : Nat) (v : Word) : Prop := i < 4096 → ∃ x, x < 4 ∧ i = keyPlace (keyHash (bits v.toNat 28 3)
  (bits v.toNat 26 2) (bits (s.key i 1).toNat 16 16) (keyAddr s i)) x

/-- The fields of a key's first word and its words 1 and 3 that a write must find in order (R297, R299). -/
structure KeyFields (s : State) (i : Nat) (v : Word) : Prop where
  valid : v.getLsbD 31 = true
  type  : bits v.toNat 28 3 < 3
  port  : bits v.toNat 26 2 < 3
  act   : bits v.toNat 10 2 < 3
  mgmt  : bits v.toNat 26 2 = 2 → bits v.toNat 10 2 = 0 → s.dxPresent = true ∧ bits v.toNat 0 8 < 8
  zero  : bits v.toNat 8 2 = 0
  low   : bits (s.key i 1).toNat 0 16 = 0
  word3 : s.key i 3 = 0

theorem keyPlace_any {i h : Nat} : ([0, 1, 2, 3].any fun w => keyPlace h w == i) = true ↔ ∃ x, x < 4 ∧ i = keyPlace h x := by
  simp only [List.any_eq_true, beq_iff_eq]
  constructor
  · rintro ⟨x, hx, e⟩
    have hlt : ∀ x ∈ [0, 1, 2, 3], x < 4 := by decide
    exact ⟨x, hlt x hx, e.symm⟩
  · rintro ⟨x, hx, e⟩
    exact ⟨x, by simp only [List.mem_cons, List.not_mem_nil, or_false]; omega, e.symm⟩

theorem keyWrite_valid {i : Nat} {v : Word} (h : KeyFields s i v) (hfit : KeyFits s i v) : keyWrite s i 0 v =
    (s.setKey i 0 v).setFld R.RXF.CLS_STAT.KEYS (s.fld R.RXF.CLS_STAT.KEYS + 1 - b2n (nbit (s.key i 0).toNat 31)) := by
  obtain ⟨valid, type, port, act, mgmt, zero, low, word3⟩ := h
  have hplace : ¬ (i < 4096 ∧ (!([0, 1, 2, 3].any fun w => keyPlace (keyHash (bits v.toNat 28 3) (bits v.toNat 26 2)
      (bits (s.key i 1).toNat 16 16) (keyAddr s i)) w == i)) = true) := fun ⟨hlt, hno⟩ => by
    rw [keyPlace_any.mpr (hfit hlt)] at hno
    exact Bool.false_ne_true hno
  have hmgmt : ¬ (bits v.toNat 26 2 = 2 ∧ bits v.toNat 10 2 = 0 ∧ (!(s.dxPresent && decide (bits v.toNat 0 8 < 8))) = true) := by
    rintro ⟨h1, h2, h3⟩
    obtain ⟨hdx, hlt⟩ := mgmt h1 h2
    simp [hdx, hlt] at h3
  unfold keyWrite
  dsimp only
  rw [if_neg (by decide), nbit_toNat, valid, if_neg (by decide), if_neg hplace, if_neg (by omega), if_neg (by rw [zero, low, word3]; decide),
    if_neg hmgmt]

theorem keyWrite_misplaced {i : Nat} {v : Word} (hv : v.getLsbD 31 = true) (hi : i < 4096) (hno : ∀ x, x < 4 → i ≠ keyPlace (keyHash
    (bits v.toNat 28 3) (bits v.toNat 26 2) (bits (s.key i 1).toNat 16 16) (keyAddr s i)) x) : keyWrite s i 0 v = keyRefused s i 1 := by
  have hplace : i < 4096 ∧ (!([0, 1, 2, 3].any fun w => keyPlace (keyHash (bits v.toNat 28 3) (bits v.toNat 26 2)
      (bits (s.key i 1).toNat 16 16) (keyAddr s i)) w == i)) = true := by
    refine ⟨hi, ?_⟩
    rw [Bool.not_eq_true', ← Bool.not_eq_true, keyPlace_any]
    rintro ⟨x, hx, e⟩
    exact hno x hx e
  unfold keyWrite
  dsimp only
  rw [if_neg (by decide), nbit_toNat, hv, if_neg (by decide), if_pos hplace]
  rfl

/-! ### The register bus's checks (R130) -/

theorem tableWrite_key {space off : Nat} (h : TableOpen s init bRXF) (hs : space ≠ 1) (v : Word) :
    (tableWrite s init space off v).1 = keyWrite s (off / 32 + (if space = 3 then 4096 else 0)) (off % 32 / 4) v := by
  obtain ⟨-, hpower, howner, hquoin⟩ := h
  have hhigh : ¬ (space = 1 ∧ 4 ≤ off % 8) := fun h => hs h.1
  have hdx : ¬ (space = 1 ∧ coDx s = true ∧ init ≠ 2 ∧ dxDest (off / 8) = true) := fun h => hs h.1
  unfold tableWrite
  dsimp only
  rw [hpower, if_neg (by decide), if_neg hhigh, if_neg hs, if_neg hdx, howner, hquoin]
  simp only [bne_self_eq_false, Bool.false_eq_true, if_false, ne_eq, not_true_eq_false, hs]

theorem tableWrite_entry {d : Nat} (h : TableOpen s init bIMP) (hdx : coDx s = true → dxDest d = true → init = 2) (v : Word) :
    (tableWrite s init 1 (8 * d) v).1 = impWrite s d v := by
  obtain ⟨-, hpower, howner, hquoin⟩ := h
  have hd : 8 * d / 8 = d := Nat.mul_div_cancel_left d (by decide)
  have hno : ¬ (1 = 1 ∧ coDx s = true ∧ init ≠ 2 ∧ dxDest d = true) := fun ⟨_, h1, h2, h3⟩ => h2 (hdx h1 h3)
  unfold tableWrite
  dsimp only
  rw [hpower, if_neg (by decide), if_neg (by omega), if_pos rfl, hd, if_neg hno, howner, hquoin]
  simp only [bne_self_eq_false, Bool.false_eq_true, if_false, ne_eq, not_true_eq_false, if_true]

theorem exec_classifierKeyWrite {cam : Bool} {i w : Nat} (h : TableOpen s init bRXF) (hi : i < (if cam then 64 else 4096)) (hw : w < 8)
    (v : Word) : exec (.classifierKeyWrite init cam i w v) s = .next (keyWrite s (keyPosition cam i) w v) := by
  have hgo : (initUp s init && decide (i < (if cam then 64 else 4096))) = true := by rw [h.bus, decide_eq_true hi]; rfl
  have hoff : (32 * i + 4 * (w % 8)) / 32 = i ∧ (32 * i + 4 * (w % 8)) % 32 / 4 = w := by omega
  show Host.Outcome.next (if (initUp s init && decide (i < (if cam then 64 else 4096))) = true then
    (tableWrite s init (if cam then 3 else 2) (32 * i + 4 * (w % 8)) v).1 else s) = _
  rw [if_pos hgo, tableWrite_key h (by cases cam <;> decide), hoff.1, hoff.2, keyPosition]
  cases cam
  · rw [if_neg (by decide), if_neg (by decide), Nat.add_comm]
  · rw [if_pos rfl, if_pos rfl, if_pos rfl, Nat.add_comm]

theorem exec_impositionEntryWrite {d : Nat} (h : TableOpen s init bIMP) (hd : d < 8192)
    (hdx : coDx s = true → dxDest d = true → init = 2) (v : Word) :
    exec (.impositionEntryWrite init d v) s = .next (impWrite s d v) := by
  have hgo : (initUp s init && decide (d < 8192)) = true := by rw [h.bus, decide_eq_true hd]; rfl
  show Host.Outcome.next (if (initUp s init && decide (d < 8192)) = true then (tableWrite s init 1 (8 * d) v).1 else s) = _
  rw [if_pos hgo, tableWrite_entry h hdx]

/-! ### Imposition entries -/

theorem imp_setImp_self (s : State) (d : Nat) (e : ImpEntry) : (s.setImp d e).imp d = e := sGet_put_self ..

theorem imp_setImp_ne (s : State) {d x : Nat} (e : ImpEntry) (h : x ≠ d) : (s.setImp d e).imp x = s.imp x := sGet_put_ne _ _ _ h

theorem imp_of_impo {t : State} (h : t.impo = s.impo) (d : Nat) : t.imp d = s.imp d := by rw [State.imp, h, State.imp]

/-- A refused entry: its reason, and what REFUSE_INFO and the counter take of it. -/
def impRefused (s : State) (d r : Nat) : State :=
  let s := if d < 0x1E00 then s.setImp d { s.imp d with reason := r } else s
  let s := s.latchOnce R.IMP.REFUSE_INFO.reg [(R.IMP.REFUSE_INFO.DEST, d), (R.IMP.REFUSE_INFO.REASON, r)]
  (s.setFld R.IMP.STAT.REFUSED 1).countSat R.IMP.REFUSED_CNT.COUNT R.IMP.SAT.SAT_F 0

theorem impRefused_leaves (s : State) (d r : Nat) :
    (impRefused s d r).impo = (if d < 0x1E00 then s.setImp d { s.imp d with reason := r } else s).impo ∧
      (impRefused s d r).fld R.IMP.STAT.REFUSED = 1 ∧
      (impRefused s d r).fld R.IMP.REFUSED_CNT.COUNT = min (2 ^ 32 - 1) (s.fld R.IMP.REFUSED_CNT.COUNT + 1) := by
  have hrf : (if d < 0x1E00 then s.setImp d { s.imp d with reason := r } else s).fld R.IMP.REFUSED_CNT.COUNT =
      s.fld R.IMP.REFUSED_CNT.COUNT := by
    split <;> rfl
  unfold impRefused
  dsimp only
  generalize (if d < 0x1E00 then s.setImp d { s.imp d with reason := r } else s) = u at hrf
  have hlatch := latchOnce_frame u R.IMP.REFUSE_INFO.reg [(R.IMP.REFUSE_INFO.DEST, d), (R.IMP.REFUSE_INFO.REASON, r)]
  have hcount := fld_latchOnce u R.IMP.REFUSE_INFO.reg (ps := [(R.IMP.REFUSE_INFO.DEST, d), (R.IMP.REFUSE_INFO.REASON, r)])
    (f := R.IMP.REFUSED_CNT.COUNT) rfl
  generalize u.latchOnce R.IMP.REFUSE_INFO.reg [(R.IMP.REFUSE_INFO.DEST, d), (R.IMP.REFUSE_INFO.REASON, r)] = v at hlatch hcount
  have hlast : ∀ w : State, ∀ f : Fld, f.key ≠ R.IMP.SAT.SAT_F.key →
      (w.countSat R.IMP.REFUSED_CNT.COUNT R.IMP.SAT.SAT_F 0).fld f = (w.count R.IMP.REFUSED_CNT.COUNT).fld f := fun w f hf => by
    unfold State.countSat
    dsimp only
    split
    · exact State.fld_setFld_ne _ _ hf
    · rfl
  refine ⟨?_, ?_, ?_⟩
  · rw [countSat_frame, show (v.setFld R.IMP.STAT.REFUSED 1).impo = v.impo from rfl, hlatch]
  · rw [hlast _ _ (by decide), (touches_count List.mem_cons_self (.refl [R.IMP.REFUSED_CNT.COUNT] _)).fld (by decide)]
    exact State.fld_setFld_mod _ _ _ rfl
  · rw [hlast _ _ (by decide), fld_count_min _ (by rfl), State.fld_setFld_ne _ _ (by decide), hcount, hrf]
    rfl

/-- An entry as it takes effect at index `k` with a word. -/
def impTaken (e : ImpEntry) (w : Word) (k : Nat) : ImpEntry := { e with cap := none, link := none, prev := e.cur, cur := impNext e w k, eff := k }

theorem pendRefresh_frame (s : State) : RfFrame s (pendRefresh s) := rfl

theorem impCount_frame (s : State) : RfFrame s (impCount s) := State.setFlds_frame s _

/-- XDOM_HOLD on an entry that is not held changes its hold at most. -/
theorem holdCheck_unheld {d : Nat} (h : (s.imp d).held = false) :
    (holdCheck s d) = { s with rf := (holdCheck s d).rf, impo := (holdCheck s d).impo, latched := (holdCheck s d).latched } ∧
      (∃ b, (holdCheck s d).imp d = { s.imp d with held := b }) ∧ ∀ x, x ≠ d → (holdCheck s d).imp x = s.imp x := by
  unfold holdCheck
  dsimp only
  rw [h]
  cases crosses s d with
  | false =>
    rw [if_neg (by decide), if_neg (by decide)]
    exact ⟨rfl, ⟨false, by rw [← h]⟩, fun _ _ => rfl⟩
  | true =>
    rw [if_pos (by decide)]
    have hself := imp_setImp_self s d { s.imp d with held := true }
    have hne : ∀ x, x ≠ d → (s.setImp d { s.imp d with held := true }).imp x = s.imp x := fun x hx => imp_setImp_ne s _ hx
    have hframe : s.setImp d { s.imp d with held := true } = { s with impo := (s.setImp d { s.imp d with held := true }).impo } := rfl
    generalize s.setImp d { s.imp d with held := true } = u at hself hne hframe
    have hlatch := latchOnce_frame u R.IMP.XDOM_INFO.reg [(R.IMP.XDOM_INFO.DEST, d)]
    generalize u.latchOnce R.IMP.XDOM_INFO.reg [(R.IMP.XDOM_INFO.DEST, d)] = v at hlatch
    have hcount := ((RfFrame.refl v).setFld R.IMP.STAT.XDOM 1).trans (countSat_frame (v.setFld R.IMP.STAT.XDOM 1) R.IMP.XDOM_CNT.COUNT R.IMP.SAT.SAT_F 1)
    generalize (v.setFld R.IMP.STAT.XDOM 1).countSat R.IMP.XDOM_CNT.COUNT R.IMP.SAT.SAT_F 1 = t at hcount
    have himpo : t.impo = u.impo := by
      rw [hcount, hlatch]
    refine ⟨?_, ⟨true, (imp_of_impo himpo d).trans hself⟩, fun x hx => (imp_of_impo himpo x).trans (hne x hx)⟩
    unfold RfFrame at hcount
    generalize t.rf = r at hcount
    subst hcount
    generalize v.rf = r' at hlatch
    generalize v.latched = l at hlatch ⊢
    subst hlatch
    generalize u.impo = m at hframe ⊢
    subst hframe
    rfl

theorem impositionTakeEffect_goes {d : Nat} {w : Word} (hcap : (s.imp d).cap = some w)
    (hlink : ∀ i, (s.imp d).link = some i → maskWaits s i = false) (hdue : impDue s d ≤ dstIndex s d) (hheld : (s.imp d).held = false) :
    Goes (.impositionTakeEffect d) s fun t => t = { s with rf := t.rf, impo := t.impo, latched := t.latched } ∧
        (t.imp d).cur = impNext (s.imp d) w (impDue s d) ∧ (t.imp d).prev = (s.imp d).cur ∧
        (t.imp d).eff = impDue s d ∧ (t.imp d).cap = none ∧ (t.imp d).shadow = (s.imp d).shadow ∧
        ∀ x, x ≠ d → t.imp x = s.imp x := by
  have htake : impTake s d (impDue s d) = impCount (holdCheck (s.setImp d (impTaken (s.imp d) w (impDue s d))) d) := by
    unfold impTake
    dsimp only
    rw [hcap]
    rfl
  have hrun : exec (.impositionTakeEffect d) s = .next (pendRefresh (impCount (holdCheck (s.setImp d (impTaken (s.imp d) w (impDue s d))) d))) := by
    rw [← htake]
    show execImpositionTakeEffect d s = _
    unfold execImpositionTakeEffect
    cases hl : (s.imp d).link with
    | none => exact if_neg (by rw [decide_eq_false (Nat.not_lt.mpr hdue)]; exact Bool.false_ne_true)
    | some i =>
      refine if_neg ?_
      rw [decide_eq_false (Nat.not_lt.mpr hdue), Bool.or_false]
      show ¬ maskWaits s i = true
      rw [hlink i hl]
      exact Bool.false_ne_true
  have hself := imp_setImp_self s d (impTaken (s.imp d) w (impDue s d))
  have hne : ∀ x, x ≠ d → (s.setImp d (impTaken (s.imp d) w (impDue s d))).imp x = s.imp x := fun x hx => imp_setImp_ne s _ hx
  have hframe : s.setImp d (impTaken (s.imp d) w (impDue s d)) = { s with impo := (s.setImp d (impTaken (s.imp d) w (impDue s d))).impo } := rfl
  refine ⟨_, hrun, ?_⟩
  generalize s.setImp d (impTaken (s.imp d) w (impDue s d)) = u at hself hne hframe
  obtain ⟨hhold, ⟨b, hd⟩, hx⟩ := holdCheck_unheld (s := u) (d := d) (by rw [hself]; exact hheld)
  generalize holdCheck u d = v at hhold hd hx
  have hrf := (impCount_frame v).trans (pendRefresh_frame (impCount v))
  generalize pendRefresh (impCount v) = t at hrf
  have himpo : t.impo = v.impo := by rw [hrf]
  rw [imp_of_impo himpo d, hd, hself]
  refine ⟨?_, rfl, rfl, rfl, rfl, rfl, fun x hxd => (imp_of_impo himpo x).trans ((hx x hxd).trans (hne x hxd))⟩
  unfold RfFrame at hrf
  generalize t.rf = r at hrf
  subst hrf
  generalize v.rf = r' at hhold
  generalize v.impo = m at hhold ⊢
  generalize v.latched = l at hhold ⊢
  subst hhold
  generalize u.impo = m' at hframe
  subst hframe
  rfl

theorem impositionTakeEffect_waits {d x : Nat} (hl : (s.imp d).link = some x) (hw : maskWaits s x = true) :
    exec (.impositionTakeEffect d) s = .next s := by
  show execImpositionTakeEffect d s = _
  unfold execImpositionTakeEffect
  simp only [hl, hw, Bool.true_or, if_true]

theorem impositionTakeEffect_early {d : Nat} (h : dstIndex s d < impDue s d) : exec (.impositionTakeEffect d) s = .next s :=
  if_pos (by rw [decide_eq_true h, Bool.or_true])

end

theorem b2n_le_one (b : Bool) : b2n b ≤ 1 := by cases b <;> decide

section
variable {s : State} {init : Nat}

theorem fld_keys_set (s : State) {n : Nat} (h : n < 2 ^ 12) : (s.setFld R.RXF.CLS_STAT.KEYS n).fld R.RXF.CLS_STAT.KEYS = n :=
  State.fld_setFld_lt s _ (Nat.le_of_ble_eq_true rfl) h

theorem keyWord_goes {cam : Bool} {i w : Nat} (v : Word) (h : TableOpen s init bRXF) (hi : i < (if cam then 64 else 4096)) (h1 : 1 ≤ w)
    (hw : w < 8) :
    (nbit (s.key (keyPosition cam i) 0).toNat 31 = false → Goes (.classifierKeyWrite init cam i w v) s fun t =>
      t = { s with cls := t.cls } ∧ t.key (keyPosition cam i) w = v ∧
        ∀ j x, x < 8 → (j ≠ keyPosition cam i ∨ x ≠ w) → t.key j x = s.key j x) ∧
    (nbit (s.key (keyPosition cam i) 0).toNat 31 = true → Goes (.classifierKeyWrite init cam i w v) s fun t =>
      t = { s with rf := t.rf, latched := t.latched } ∧ t.fld R.RXF.CLS_STAT.REFUSED = 1 ∧
        t.fld R.RXF.CLS_STAT.KEYS = s.fld R.RXF.CLS_STAT.KEYS) := by
  have hrun := exec_classifierKeyWrite h hi hw v
  rw [keyWrite_body s _ w v (by omega)] at hrun
  constructor
  · intro hfree
    rw [hfree, if_neg Bool.false_ne_true] at hrun
    exact ⟨_, hrun, rfl, key_setKey_self .., fun j x hx hne => key_setKey_ne s v hw hx hne⟩
  · intro hset
    rw [hset, if_pos rfl] at hrun
    exact ⟨_, hrun, keyRefused_leaves ..⟩

theorem keyCleared_goes {cam : Bool} {i : Nat} {v : Word} (h : TableOpen s init bRXF) (hi : i < (if cam then 64 else 4096))
    (hkeys : s.fld R.RXF.CLS_STAT.KEYS + 1 < 2 ^ 12) (hv : v.getLsbD 31 = false) : Goes (.classifierKeyWrite init cam i 0 v) s fun t =>
      t.key (keyPosition cam i) 0 = v ∧ t.fld R.RXF.CLS_STAT.KEYS =
        s.fld R.RXF.CLS_STAT.KEYS - b2n (nbit (s.key (keyPosition cam i) 0).toNat 31) := by
  have hrun := exec_classifierKeyWrite (w := 0) h hi (Nat.zero_lt_succ 7) v
  rw [keyWrite_clear s _ (by rw [nbit_toNat]; exact hv)] at hrun
  exact ⟨_, hrun, key_setKey_self .., fld_keys_set _ (by omega)⟩

theorem keyValid_goes {cam : Bool} {i : Nat} {v : Word} (h : TableOpen s init bRXF) (hi : i < (if cam then 64 else 4096))
    (hkeys : s.fld R.RXF.CLS_STAT.KEYS + 1 < 2 ^ 12) (hv : KeyFields s (keyPosition cam i) v) (hfit : KeyFits s (keyPosition cam i) v) :
    Goes (.classifierKeyWrite init cam i 0 v) s fun t =>
      t.key (keyPosition cam i) 0 = v ∧ t.fld R.RXF.CLS_STAT.KEYS =
        s.fld R.RXF.CLS_STAT.KEYS + 1 - b2n (nbit (s.key (keyPosition cam i) 0).toNat 31) := by
  have hrun := exec_classifierKeyWrite (w := 0) h hi (Nat.zero_lt_succ 7) v
  rw [keyWrite_valid hv hfit] at hrun
  exact ⟨_, hrun, key_setKey_self .., fld_keys_set _ (by omega)⟩

theorem keyMisplaced_goes {i : Nat} {v : Word} (h : TableOpen s init bRXF) (hi : i < 4096) (hv : v.getLsbD 31 = true)
    (hno : ∀ x, x < 4 → i ≠ keyPlace (keyHash (bits v.toNat 28 3) (bits v.toNat 26 2) (bits (s.key i 1).toNat 16 16) (keyAddr s i)) x) :
    Goes (.classifierKeyWrite init false i 0 v) s fun t => t.cls = s.cls ∧ t.fld R.RXF.CLS_STAT.REFUSED = 1 := by
  have hrun := exec_classifierKeyWrite (cam := false) (w := 0) h hi (Nat.zero_lt_succ 7) v
  rw [show keyPosition false i = i from Nat.zero_add i, keyWrite_misplaced hv hi hno] at hrun
  obtain ⟨hframe, hset, -⟩ := keyRefused_leaves s i 1
  exact ⟨_, hrun, by rw [hframe], hset⟩

theorem entryTaken_goes {d : Nat} {v : Word} (h : TableOpen s init bIMP) (hd : d < 8192)
    (hdx : coDx s = true → dxDest d = true → init = 2) (hj : impJudge s d v = none) : Goes (.impositionEntryWrite init d v) s fun t =>
      t = { s with impo := t.impo } ∧ t.imp d = { s.imp d with shadow := v, reason := 0 } ∧ ∀ x, x ≠ d → t.imp x = s.imp x := by
  have htaken : impWrite s d v = s.setImp d { s.imp d with shadow := v, reason := 0 } := by
    unfold impWrite
    rw [hj]
  exact ⟨_, (exec_impositionEntryWrite h hd hdx v).trans (congrArg Host.Outcome.next htaken), rfl, imp_setImp_self ..,
    fun _ hx => imp_setImp_ne s _ hx⟩

theorem entryRefused_goes {d r : Nat} {v : Word} (h : TableOpen s init bIMP) (hd : d < 8192)
    (hdx : coDx s = true → dxDest d = true → init = 2) (hj : impJudge s d v = some r) : Goes (.impositionEntryWrite init d v) s fun t =>
      (t.imp d).shadow = (s.imp d).shadow ∧ (d < 0x1E00 → (t.imp d).reason = r) ∧ t.fld R.IMP.STAT.REFUSED = 1 ∧
        t.fld R.IMP.REFUSED_CNT.COUNT = min (2 ^ 32 - 1) (s.fld R.IMP.REFUSED_CNT.COUNT + 1) ∧ ∀ x, x ≠ d → t.imp x = s.imp x := by
  have hrefused : impWrite s d v = impRefused s d r := by
    unfold impWrite
    rw [hj]
    rfl
  obtain ⟨himpo, hset, hcount⟩ := impRefused_leaves s d r
  refine ⟨_, (exec_impositionEntryWrite h hd hdx v).trans (congrArg Host.Outcome.next hrefused), ?_⟩
  by_cases hlow : d < 0x1E00
  · rw [if_pos hlow] at himpo
    have himp : ∀ x, (impRefused s d r).imp x = (s.setImp d { s.imp d with reason := r }).imp x := imp_of_impo himpo
    refine ⟨?_, fun _ => ?_, hset, hcount, fun x hx => (himp x).trans (imp_setImp_ne s _ hx)⟩
    · rw [himp, imp_setImp_self]
    · rw [himp, imp_setImp_self]
  · rw [if_neg hlow] at himpo
    exact ⟨congrArg ImpEntry.shadow (imp_of_impo himpo d), fun hl => absurd hl hlow, hset, hcount, fun x _ => imp_of_impo himpo x⟩

end

/-- Settles O41. -/
theorem classifierAndImpositionSteps : Obligations.ClassifierAndImpositionSteps := by
  intro s
  refine ⟨fun init cam i w v h hi h1 hw => keyWord_goes v h hi h1 hw, fun init cam i v h hi hkeys => ⟨keyCleared_goes h hi hkeys, ?_⟩,
    fun init d v h hd hdx => ⟨entryTaken_goes h hd hdx, fun r => entryRefused_goes h hd hdx⟩,
    fun d w => impositionTakeEffect_goes, fun d x => impositionTakeEffect_waits, fun d => impositionTakeEffect_early, ?_⟩
  · intro hv htype hport hact hmgmt hzero hlow hword
    have hfields : KeyFields s (keyPosition cam i) v := ⟨hv, htype, hport, hact, hmgmt, hzero, hlow, hword⟩
    refine ⟨fun hwhere => keyValid_goes h hi hkeys hfields ?_, fun hcam hno => ?_⟩
    · cases cam with
      | true => exact fun hlt => absurd hlt (by rw [keyPosition, if_pos rfl]; omega)
      | false =>
        rw [show keyPosition false i = i from Nat.zero_add i]
        exact fun _ => hwhere.resolve_left Bool.false_ne_true
    · subst hcam
      exact keyMisplaced_goes h hi hv hno
  · exact ⟨_, rfl, rfl, State.fld_setFld_mod _ _ _ rfl, touches_setFld List.mem_cons_self (.refl _ s)⟩

end Sys2Proof.Machine
end

section
/-! The moves of kerning lanes and the end of a slew (R263 to R265). -/

namespace Sys2Proof.Machine

section
variable {s : State} {n : Nat}

/-- From `s` to `t` nothing but registers and lanes changes. -/
def LaneFrame (s t : State) : Prop := t = { s with rf := t.rf, lanes := t.lanes }

namespace LaneFrame

theorem refl (s : State) : LaneFrame s s := rfl

theorem trans {s t u : State} (h : LaneFrame s t) (k : LaneFrame t u) : LaneFrame s u := by
  unfold LaneFrame at *
  rw [k, h]

theorem of_rf {s t : State} (h : RfFrame s t) : LaneFrame s t := by
  unfold RfFrame LaneFrame at *
  generalize t.rf = r at h
  subst h
  rfl

theorem foldl {α : Type} {s : State} {g : State → α → State} {l : List α} (hg : ∀ u a, LaneFrame u (g u a)) : LaneFrame s (l.foldl g s) := by
  induction l generalizing s with
  | nil => exact refl s
  | cons a l ih => exact (hg s a).trans ih

end LaneFrame

/-- The fields of a lane's move (R263). -/
def laneFlds (n : Nat) : List Fld := [R.KRN.L_STAT.STATE n, R.KRN.L_STAT.VALID n, R.KRN.L_STAT.OVERFLOW n, R.KRN.L_STAT.SAT n]

theorem lane_setLane_self {x : Lane} (h : n < s.lanes.length) : (s.setLane n x).lane n = x := getD_modifyAt_self _ _ h

theorem lane_setLane_ne (s : State) {x : Nat} (l : Lane) (h : x ≠ n) : (s.setLane n l).lane x = s.lane x := getD_modifyAt_ne _ _ _ h

theorem laneFrame_setLane (s : State) (n : Nat) (x : Lane) : LaneFrame s (s.setLane n x) := rfl

/-- A lane that moves to a state its outputs run in, before its counters are settled. -/
def laneEntered (s : State) (n st : Nat) : State :=
  s.setFlds [(R.KRN.L_STAT.STATE n, st), (R.KRN.L_STAT.VALID n, b2n (st == laneRun || st == laneSlew))]

theorem laneGo_eq (s : State) (n : Nat) {st : Nat} (h : st ≠ laneFault) : laneGo s n st =
    laneSettle (laneRuns (laneEntered s n st) n (st == laneRun || st == laneSlew)) n := by
  unfold laneGo
  dsimp only
  rw [if_neg h]
  rfl

theorem laneRuns_cases (s : State) (n : Nat) (on : Bool) : laneRuns s n on = s ∨ ∃ r, laneRuns s n on = s.setLane n { s.lane n with runs := r } := by
  unfold laneRuns
  dsimp only
  split <;> split
  · exact .inl rfl
  · exact .inr ⟨_, rfl⟩
  · exact .inr ⟨_, rfl⟩
  · exact .inl rfl

theorem laneGo_frame (s : State) (n : Nat) {st : Nat} (h : st ≠ laneFault) : LaneFrame s (laneGo s n st) := by
  rw [laneGo_eq s n h]
  have hent : LaneFrame s (laneEntered s n st) := .of_rf (State.setFlds_frame s _)
  generalize laneEntered s n st = u at hent
  have hruns : LaneFrame u (laneRuns u n (st == laneRun || st == laneSlew)) := by
    rcases laneRuns_cases u n (st == laneRun || st == laneSlew) with e | ⟨r, e⟩ <;> rw [e]
    · exact .refl u
    · exact laneFrame_setLane ..
  generalize laneRuns u n (st == laneRun || st == laneSlew) = v at hruns
  obtain ⟨o, w, x, e⟩ := laneSettle_eq v n
  rw [e]
  exact (hent.trans hruns).trans ((LaneFrame.of_rf (State.setFlds_frame v _)).trans (laneFrame_setLane _ n x))

theorem touches_laneRuns {l : List Fld} {t : State} (h : Touches l s t) (n : Nat) (on : Bool) : Touches l s (laneRuns t n on) := by
  rcases laneRuns_cases t n on with e | ⟨r, e⟩ <;> rw [e]
  · exact h
  · exact touches_rf rfl h

theorem touches_laneGo (s : State) (n : Nat) {st : Nat} (h : st ≠ laneFault) : Touches (laneFlds n) s (laneGo s n st) := by
  rw [laneGo_eq s n h]
  refine touches_rf (t := (laneRuns (laneEntered s n st) n _).setFlds _) rfl (touches_setFlds ?_
    (touches_laneRuns (touches_setFlds ?_ (.refl _ s)) n _))
  · simp [laneFlds]
  · simp [laneFlds]

theorem fld_laneGo (s : State) (n : Nat) {st : Nat} (hst : st < 16) (h : st ≠ laneFault) :
    (laneGo s n st).fld (R.KRN.L_STAT.STATE n) = st ∧
      (laneGo s n st).fld (R.KRN.L_STAT.VALID n) = b2n (st == laneRun || st == laneSlew) := by
  have hset : (laneEntered s n st).fld (R.KRN.L_STAT.STATE n) = st ∧
      (laneEntered s n st).fld (R.KRN.L_STAT.VALID n) = b2n (st == laneRun || st == laneSlew) := by
    refine ⟨(State.fld_setFld_below _ _ rfl).trans (State.fld_setFld_lt s _ (Nat.le_of_ble_eq_true rfl) hst),
      (State.fld_setFld_mod _ _ _ rfl).trans ?_⟩
    cases (st == laneRun || st == laneSlew) <;> rfl
  have hruns := touches_laneRuns (.refl [] (laneEntered s n st)) n (st == laneRun || st == laneSlew)
  rw [laneGo_eq s n h]
  generalize laneRuns (laneEntered s n st) n (st == laneRun || st == laneSlew) = v at hruns
  have hsettle : Touches [R.KRN.L_STAT.OVERFLOW n, R.KRN.L_STAT.SAT n] v (laneSettle v n) :=
    touches_rf (t := v.setFlds _) rfl (touches_setFlds (by simp) (.refl _ v))
  constructor
  · rw [hsettle.fld fun g hg => ?_, hruns.fld (by simp), hset.1]
    simp only [List.mem_cons, List.not_mem_nil, or_false] at hg
    rcases hg with rfl | rfl <;> simp [Fld.apart, R.KRN.L_STAT.STATE, R.KRN.L_STAT.OVERFLOW, R.KRN.L_STAT.SAT]
  · rw [hsettle.fld fun g hg => ?_, hruns.fld (by simp), hset.2]
    simp only [List.mem_cons, List.not_mem_nil, or_false] at hg
    rcases hg with rfl | rfl <;> simp [Fld.apart, R.KRN.L_STAT.VALID, R.KRN.L_STAT.OVERFLOW, R.KRN.L_STAT.SAT]

/-! ### A lane that starts to run (R263) -/

theorem lane_laneRuns_faultAt (s : State) {n : Nat} (on : Bool) (hn : n < s.lanes.length) :
    ((laneRuns s n on).lane n).faultAt = (s.lane n).faultAt := by
  rcases laneRuns_cases s n on with e | ⟨r, e⟩
  · rw [e]
  · rw [e, lane_setLane_self hn]

theorem clocks_of_lane {t : State} (hn : n < 256) (h : Touches (laneFlds n) s t) (hp : t.ptis = s.ptis) (hm : t.mcss = s.mcss) :
    ClocksAlike s t := by
  refine .of_onlyIn (B := fun k => k = R.KRN.L_STAT.reg n) (.of_touches h fun f hf => ?_) (fun k hk hc => ?_) hp hm
  · simp only [laneFlds, List.mem_cons, List.not_mem_nil, or_false] at hf
    rcases hf with rfl | rfl | rfl | rfl <;> rfl
  · simp only [ClockKey, R.CLK.MCS_CFG.reg, R.TIME.PTI_ADDEND_INT.reg, R.TIME.PTI_ADDEND_FRAC.reg, R.RXF.F_CFG.reg, itemKey, hk,
      R.KRN.L_STAT.reg] at hc
    omega

theorem touches_laneEntered (s : State) (n st : Nat) : Touches (laneFlds n) s (laneEntered s n st) :=
  touches_setFlds (by simp [laneFlds]) (.refl _ s)

theorem clocks_laneEntered (hn : n < 256) (st : Nat) : ClocksAlike s (laneEntered s n st) :=
  clocks_of_lane hn (touches_laneEntered s n st) (by rw [laneEntered, State.setFlds_frame]) (by rw [laneEntered, State.setFlds_frame])

theorem fld_of_laneFlds {t : State} (h : Touches (laneFlds n) s t) {f : Fld} (hf : f.key ≠ R.KRN.L_STAT.reg n) : t.fld f = s.fld f := by
  refine h.fld fun g hg => Fld.apart_of_key_ne ?_
  simp only [laneFlds, List.mem_cons, List.not_mem_nil, or_false] at hg
  rcases hg with rfl | rfl | rfl | rfl <;> exact hf

/-- What a lane has lost is counted alike as its state moves. -/
theorem laneOver_entered (hn : n < 256) (hlen : n < s.lanes.length) (st : Nat) (on : Bool) :
    laneOver (laneRuns (laneEntered s n st) n on) n = laneOver s n := by
  have hlanes : (laneEntered s n st).lanes = s.lanes := by rw [laneEntered, State.setFlds_frame]
  have htouch := touches_laneRuns (touches_laneEntered s n st) n on
  have hframe : LaneFrame s (laneRuns (laneEntered s n st) n on) := by
    have hent : LaneFrame s (laneEntered s n st) := .of_rf (State.setFlds_frame s _)
    rcases laneRuns_cases (laneEntered s n st) n on with e | ⟨r, e⟩ <;> rw [e]
    · exact hent
    · exact hent.trans (laneFrame_setLane ..)
  have hclk : ClocksAlike s (laneRuns (laneEntered s n st) n on) := clocks_of_lane hn htouch (by rw [hframe]) (by rw [hframe])
  have hfault : ((laneRuns (laneEntered s n st) n on).lane n).faultAt = (s.lane n).faultAt := by
    rw [lane_laneRuns_faultAt _ on (by rw [hlanes]; exact hlen), State.lane, hlanes, State.lane]
  have hover : (laneRuns (laneEntered s n st) n on).fld (R.KRN.L_STAT.OVERFLOW n) = s.fld (R.KRN.L_STAT.OVERFLOW n) := by
    rw [(touches_laneRuns (.refl [] (laneEntered s n st)) n on).fld (by simp)]
    exact (State.fld_setFld_above _ _ rfl).trans (State.fld_setFld_above _ _ rfl)
  have hin : (laneRuns (laneEntered s n st) n on).fld (R.KRN.L_CFG.IN_MCS n) = s.fld (R.KRN.L_CFG.IN_MCS n) :=
    fld_of_laneFlds htouch (by simp only [R.KRN.L_CFG.IN_MCS, R.KRN.L_STAT.reg]; omega)
  unfold laneOver laneLost
  rw [hover, hfault, hin, hclk.mcsCount (State.fld_lt s _)]

/-- A lane's loss is counted. -/
def laneCounted (s : State) (n : Nat) : State :=
  s.setFlds [(R.KRN.L_STAT.OVERFLOW n, laneOver s n), (R.KRN.L_STAT.SAT n, b2n (laneOver s n == 0xFFFF))]

theorem laneSettle_counted (s : State) (n : Nat) : ∃ x, x.runs = (s.lane n).runs ∧ laneSettle s n = (laneCounted s n).setLane n x :=
  ⟨{ s.lane n with
      faultAt := if s.fld (R.KRN.L_STAT.STATE n) == laneFault && s.mcsTicks (s.fld (R.KRN.L_CFG.IN_MCS n)) then
        some (mcsCount s (s.fld (R.KRN.L_CFG.IN_MCS n))) else none }, rfl, rfl⟩

theorem rf_setLane (s : State) (n : Nat) (x : Lane) : (s.setLane n x).rf = s.rf := rfl

theorem length_lanes_setLane (s : State) (n : Nat) (x : Lane) : (s.setLane n x).lanes.length = s.lanes.length := length_modifyAt ..

theorem length_lanes_laneRuns (s : State) (n : Nat) (on : Bool) : (laneRuns s n on).lanes.length = s.lanes.length := by
  rcases laneRuns_cases s n on with e | ⟨r, e⟩ <;> rw [e]
  exact length_lanes_setLane ..

/-- A lane that was not running runs from the present index of its output clock. -/
theorem runs_laneRuns_on (hlen : n < s.lanes.length) (hno : ∀ a rs, (s.lane n).runs ≠ (a, none) :: rs) :
    ((laneRuns s n true).lane n).runs.head? = some (mcsCount s (s.fld (R.KRN.L_CFG.OUT_MCS n)), none) := by
  unfold laneRuns
  dsimp only
  split
  · rename_i a rs e
    exact absurd e (hno a rs)
  · rw [if_pos rfl, lane_setLane_self hlen, List.head?_cons]

theorem lane_laneRuns_ne (s : State) (n : Nat) (on : Bool) {x : Nat} (hx : x ≠ n) : (laneRuns s n on).lane x = s.lane x := by
  rcases laneRuns_cases s n on with e | ⟨r, e⟩ <;> rw [e]
  exact lane_setLane_ne _ _ hx

theorem over_laneCounted (s : State) (n : Nat) : (laneCounted s n).fld (R.KRN.L_STAT.OVERFLOW n) = laneOver s n :=
  (State.fld_setFld_above _ _ rfl).trans (State.fld_setFld_lt s (R.KRN.L_STAT.OVERFLOW n) (Nat.le_of_ble_eq_true rfl)
    (Nat.lt_of_le_of_lt (Nat.min_le_left _ _) (show 0xFFFF < 2 ^ 16 by decide)))

theorem laneGo_run_leaves (hn : n < 256) (hlen : n < s.lanes.length) :
    (laneGo s n laneRun).fld (R.KRN.L_STAT.OVERFLOW n) = laneOver s n ∧
      ((∀ a rs, (s.lane n).runs ≠ (a, none) :: rs) →
        ((laneGo s n laneRun).lane n).runs.head? = some (mcsCount s (s.fld (R.KRN.L_CFG.OUT_MCS n)), none)) ∧
      ∀ x, x ≠ n → (laneGo s n laneRun).lane x = s.lane x := by
  have hlanes : (laneEntered s n laneRun).lanes = s.lanes := by rw [laneEntered, State.setFlds_frame]
  have hlane : ∀ x, (laneEntered s n laneRun).lane x = s.lane x := fun x => by rw [State.lane, hlanes, State.lane]
  have hover := laneOver_entered (s := s) hn hlen laneRun true
  have hlen' : (laneRuns (laneEntered s n laneRun) n true).lanes.length = s.lanes.length := by rw [length_lanes_laneRuns, hlanes]
  have hruns : (∀ a rs, (s.lane n).runs ≠ (a, none) :: rs) → ((laneRuns (laneEntered s n laneRun) n true).lane n).runs.head? =
      some (mcsCount s (s.fld (R.KRN.L_CFG.OUT_MCS n)), none) := fun hno => by
    have hout : (laneEntered s n laneRun).fld (R.KRN.L_CFG.OUT_MCS n) = s.fld (R.KRN.L_CFG.OUT_MCS n) :=
      fld_of_laneFlds (touches_laneEntered s n laneRun) (by simp only [R.KRN.L_CFG.OUT_MCS, R.KRN.L_STAT.reg]; omega)
    rw [runs_laneRuns_on (by rw [hlanes]; exact hlen) (by rw [hlane]; exact hno), hout,
      (clocks_laneEntered hn laneRun).mcsCount (State.fld_lt s _)]
  have hother : ∀ x, x ≠ n → (laneRuns (laneEntered s n laneRun) n true).lane x = s.lane x := fun x hx => by
    rw [lane_laneRuns_ne _ _ _ hx, hlane]
  rw [laneGo_eq s n (by decide), show (laneRun == laneRun || laneRun == laneSlew) = true from rfl]
  generalize laneRuns (laneEntered s n laneRun) n true = v at hover hlen' hruns hother
  have hsettled : (laneCounted v n).lanes = v.lanes := by rw [laneCounted, State.setFlds_frame]
  obtain ⟨x, hx, e⟩ := laneSettle_counted v n
  rw [e]
  refine ⟨(State.fld_of_rf_eq (rf_setLane _ n x) _).trans ((over_laneCounted v n).trans hover), fun hno => ?_, fun y hy => ?_⟩
  · rw [lane_setLane_self (by rw [hsettled, hlen']; exact hlen), hx]
    exact hruns hno
  · rw [lane_setLane_ne _ _ hy, State.lane, hsettled]
    exact hother y hy

theorem krnTrackDone_goes (hn : n < 256) (hlen : n < s.lanes.length) (hst : s.fld (R.KRN.L_STAT.STATE n) = laneTrack) :
    Goes (.krnTrackDone n) s fun t =>
      t = { s with rf := t.rf, lanes := t.lanes } ∧ t.fld (R.KRN.L_STAT.STATE n) = laneRun ∧
        t.fld (R.KRN.L_STAT.VALID n) = 1 ∧ t.fld (R.KRN.L_STAT.OVERFLOW n) = laneOver s n ∧
        ((∀ a rs, (s.lane n).runs ≠ (a, none) :: rs) →
          (t.lane n).runs.head? = some (mcsCount s (s.fld (R.KRN.L_CFG.OUT_MCS n)), none)) ∧
        (∀ x, x ≠ n → t.lane x = s.lane x) ∧
        Touches [R.KRN.L_STAT.STATE n, R.KRN.L_STAT.VALID n, R.KRN.L_STAT.OVERFLOW n, R.KRN.L_STAT.SAT n] s t := by
  obtain ⟨hstate, hvalid⟩ := fld_laneGo s n (st := laneRun) (by decide) (by decide)
  obtain ⟨hover, hruns, hother⟩ := laneGo_run_leaves hn hlen
  exact ⟨laneGo s n laneRun, if_pos hst, laneGo_frame s n (by decide), hstate, hvalid, hover, hruns, hother,
    touches_laneGo s n (by decide)⟩

/-! ### The end of a slew (R265) -/

/-- A lane of a gang whose slew has ended runs again. -/
def laneSlewed (s : State) (n : Nat) : State :=
  if s.fld (R.KRN.L_STAT.STATE n) = laneSlew then (laneGo s n laneRun).setFld (R.KRN.L_STAT.SLEW_DONE_EV n) 1 else s

theorem laneSlewed_frame (s : State) (n : Nat) : LaneFrame s (laneSlewed s n) := by
  unfold laneSlewed
  split
  · exact (laneGo_frame s n (by decide)).trans (.of_rf ((RfFrame.refl _).setFld _ _))
  · exact .refl s

theorem onlyIn_laneSlewed (s : State) (n : Nat) : OnlyIn (fun k => k = R.KRN.L_STAT.reg n) s (laneSlewed s n) := by
  have hrun := touches_laneGo s n (st := laneRun) (by decide)
  unfold laneSlewed
  split
  · refine OnlyIn.setFld (.of_touches hrun fun f hf => ?_) 1 rfl
    simp only [laneFlds, List.mem_cons, List.not_mem_nil, or_false] at hf
    rcases hf with rfl | rfl | rfl | rfl <;> rfl
  · exact .refl s

theorem fld_laneSlewed (h : s.fld (R.KRN.L_STAT.STATE n) = laneSlew) : (laneSlewed s n).fld (R.KRN.L_STAT.STATE n) = laneRun ∧
    (laneSlewed s n).fld (R.KRN.L_STAT.SLEW_DONE_EV n) = 1 := by
  have hrun := (fld_laneGo s n (st := laneRun) (by decide) (by decide)).1
  rw [laneSlewed, if_pos h]
  exact ⟨(State.fld_setFld_below _ _ rfl).trans hrun, State.fld_setFld_mod _ _ _ rfl⟩

theorem foldl_laneSlewed {l : List Nat} {n : Nat} (hn : n ∈ l) (h : s.fld (R.KRN.L_STAT.STATE n) = laneSlew) :
    (l.foldl laneSlewed s).fld (R.KRN.L_STAT.STATE n) = laneRun ∧ (l.foldl laneSlewed s).fld (R.KRN.L_STAT.SLEW_DONE_EV n) = 1 := by
  have hother : ∀ u b, b ≠ n → ∀ f : Fld, f.key = R.KRN.L_STAT.reg n → (laneSlewed u b).fld f = u.fld f := fun u b hb f hf =>
    (onlyIn_laneSlewed u b).fld (by simp only [hf, R.KRN.L_STAT.reg]; omega)
  have hstay : ∀ u : State, u.fld (R.KRN.L_STAT.STATE n) = laneRun → laneSlewed u n = u := fun u hu =>
    if_neg (by rw [hu]; decide)
  refine foldl_reaches (P := fun u => u.fld (R.KRN.L_STAT.STATE n) = laneSlew ∨ (u.fld (R.KRN.L_STAT.STATE n) = laneRun ∧
      u.fld (R.KRN.L_STAT.SLEW_DONE_EV n) = 1)) (Q := fun u => u.fld (R.KRN.L_STAT.STATE n) = laneRun ∧
      u.fld (R.KRN.L_STAT.SLEW_DONE_EV n) = 1) hn (fun u b _ hu => ?_) (fun u b _ hu => ?_) (fun u hu => ?_) (.inl h)
  · by_cases hb : b = n
    · subst hb
      rcases hu with hu | hu
      · exact .inr (fld_laneSlewed hu)
      · rw [hstay u hu.1]
        exact .inr hu
    · rwa [hother u b hb _ rfl, hother u b hb _ rfl]
  · by_cases hb : b = n
    · subst hb
      rwa [hstay u hu.1]
    · rwa [hother u b hb _ rfl, hother u b hb _ rfl]
  · rcases hu with hu | hu
    · exact fld_laneSlewed hu
    · rwa [hstay u hu.1]

section
variable {f : Nat}

theorem kerningSlewEnd_goes {w : Slew} (hw : (s.flow f).slew = some w) (hgang : ∀ n ∈ gang s f, n < 256)
    (hdone : (slewTimes s f w).1 + (slewTimes s f w).2 ≤ slewTime w (s.ptiRaw (s.mcsPti (s.fld (R.RXF.F_CFG.MCS f))))) :
    Goes (.kerningSlewEnd f) s fun t =>
      t = { s with rf := t.rf, rxf := t.rxf, lanes := t.lanes } ∧ t.fld (R.RXF.F_STAT.SLEWING f) = 0 ∧
        t.flow f = { s.flow f with slew := none } ∧
        ∀ n ∈ gang s f, s.fld (R.KRN.L_STAT.STATE n) = laneSlew →
          t.fld (R.KRN.L_STAT.STATE n) = laneRun ∧ t.fld (R.KRN.L_STAT.SLEW_DONE_EV n) = 1 := by
  have hframe : LaneFrame s ((gang s f).foldl laneSlewed s) := .foldl laneSlewed_frame
  have hflow : ((gang s f).foldl laneSlewed s).flow f = s.flow f := by rw [State.flow, hframe, State.flow]
  have hrun : exec (.kerningSlewEnd f) s = .next ((((gang s f).foldl laneSlewed s).setFld (R.RXF.F_STAT.SLEWING f) 0).setFlow f
      { ((gang s f).foldl laneSlewed s).flow f with slew := none }) := by
    show execKerningSlewEnd f s = _
    unfold execKerningSlewEnd
    rw [hw]
    dsimp only
    rw [if_neg (Nat.not_lt.mpr hdone)]
    rfl
  have hlanes := fun n hn h => foldl_laneSlewed (s := s) (l := gang s f) (n := n) hn h
  refine ⟨_, hrun, ?_⟩
  rw [hflow]
  generalize (gang s f).foldl laneSlewed s = u at hframe hlanes
  refine ⟨?_, State.fld_setFld_mod _ _ _ rfl, sGet_put_self .., fun n hn h => ?_⟩
  · unfold LaneFrame at hframe
    generalize u.rf = r at hframe
    generalize u.lanes = l at hframe
    subst hframe
    rfl
  · have hlt := hgang n hn
    obtain ⟨h1, h2⟩ := hlanes n hn h
    constructor
    · exact (State.fld_setFld_ne u _ (by simp only [R.KRN.L_STAT.STATE, R.RXF.F_STAT.SLEWING, itemKey]; omega)).trans h1
    · exact (State.fld_setFld_ne u _ (by simp only [R.KRN.L_STAT.SLEW_DONE_EV, R.RXF.F_STAT.SLEWING, itemKey]; omega)).trans h2

theorem kerningSlewEnd_early (h : ∀ w, (s.flow f).slew = some w → slewTime w (s.ptiRaw (s.mcsPti (s.fld (R.RXF.F_CFG.MCS f)))) <
    (slewTimes s f w).1 + (slewTimes s f w).2) : exec (.kerningSlewEnd f) s = .next s := by
  show execKerningSlewEnd f s = _
  unfold execKerningSlewEnd
  cases hw : (s.flow f).slew with
  | none => rfl
  | some w => exact if_pos (h w hw)

end

end

end Sys2Proof.Machine
end

section
/-! The end of a placement window and the loss of a seamless path (R312, R342). -/

namespace Sys2Proof.Machine

section
variable {s : State} {f : Nat}

theorem flow_setFlow_self (s : State) (f : Nat) (x : RxFlow) : (s.setFlow f x).flow f = x := sGet_put_self ..

theorem flow_setFlow_ne (s : State) {f g : Nat} (x : RxFlow) (h : g ≠ f) : (s.setFlow f x).flow g = s.flow g := sGet_put_ne _ _ _ h

theorem fld_setFlow (s : State) (f : Nat) (x : RxFlow) (g : Fld) : (s.setFlow f x).fld g = s.fld g := rfl

/-! ### Placement (R312) -/

/-- The statistics of a placement window begin anew. -/
def windowReset (s : State) (f : Nat) : State := s.setFlow f { s.flow f with winN := 0, winMin := none, winLate := false }

/-- The change of link offset that a window's margins ask for. -/
def windowWants (s : State) (f : Nat) (m : Int) : Int :=
  let fs := s.mcsFs (s.fld (R.RXF.F_CFG.MCS f))
  let lo : Int := s.fld (R.RXF.F_TGT.LO_US f) * 1000
  let hi : Int := s.fld (R.RXF.F_TGT.HI_US f) * 1000
  let g : Int := 1000000000
  if decide (m < lo) || (s.flow f).winLate then (((lo + hi) / 2 - m) * fs + g - 1) / g
  else if hi < m then -(((m - (lo + hi) / 2) * fs) / g)
  else 0

/-- The change that the bounds of R312 leave of it. -/
def windowGets (s : State) (f : Nat) (d : Int) : Int :=
  let now : Int := s.fld (R.RXF.F_OFFSET_NOW.SAMPLES f)
  let most : Int := (((s.fld (R.RXF.F_DEPTH.US f) * 3000 - ptThirds (s.fld (R.RXF.F_CFG.PTIME f)) : Nat) : Int) *
    s.mcsFs (s.fld (R.RXF.F_CFG.MCS f))) / (3 * 1000000000)
  clampInt (rxN s f + 35) most (now + d) - now

/-- LIMIT_EV where the bounds keep a window from what low margins ask for. -/
def windowShown (s : State) (f : Nat) (m : Int) : State :=
  if decide (m < (s.fld (R.RXF.F_TGT.LO_US f) * 1000 : Int)) ∧ windowGets s f (windowWants s f m) ≠ windowWants s f m ∧
      windowGets s f (windowWants s f m) ≤ 0 then (windowReset s f).setFld (R.RXF.F_STAT.LIMIT_EV f) 1 else windowReset s f

theorem windowEnd_eq {m : Int} (h : (s.flow f).winMin = some m) : windowEnd s f =
    if windowGets s f (windowWants s f m) = 0 ∨ windowWants s f m = 0 ∨ (windowShown s f m).fld R.TWIN.STAT.STATE = 3 then windowShown s f m
    else startSlew (windowShown s f m) f (windowGets s f (windowWants s f m)) ((windowShown s f m).fld (R.RXF.F_PLC.RATE_PPM f)) := by
  unfold windowEnd
  dsimp only
  rw [h]
  rfl

theorem exec_placementWindowEnd (hp : s.pstate = 0) (hon : s.fld (R.RXF.F_STAT.STATE f) ≠ 0) (ha : s.flag (R.RXF.F_CFG.ADAPT f) = true)
    (hs : (s.flow f).slew = none) (hn : 2 ^ s.fld (R.RXF.F_PLC.WIN f) ≤ (s.flow f).winN) :
    exec (.placementWindowEnd f) s = .next (windowEnd s f) := if_pos ⟨hon, ha, hs, hn, hp⟩

theorem windowEnd_within {m : Int} (hm : (s.flow f).winMin = some m) (hl : (s.flow f).winLate = false)
    (hlo : (s.fld (R.RXF.F_TGT.LO_US f) * 1000 : Int) ≤ m) (hhi : m ≤ s.fld (R.RXF.F_TGT.HI_US f) * 1000) : windowEnd s f = windowReset s f := by
  have hwant : windowWants s f m = 0 := by
    unfold windowWants
    dsimp only
    rw [hl, decide_eq_false (Int.not_lt.mpr hlo), if_neg (by decide), if_neg (Int.not_lt.mpr hhi)]
  rw [windowEnd_eq hm, if_pos (.inr (.inl hwant)), windowShown, hwant]
  exact if_neg fun h => Int.not_lt.mpr hlo (of_decide_eq_true h.1)

/-- A lane of the gang that runs slews (R265). -/
def laneSlews (s : State) (n : Nat) : State := if s.fld (R.KRN.L_STAT.STATE n) = laneRun then laneGo s n laneSlew else s

theorem laneSlews_frame (s : State) (n : Nat) : LaneFrame s (laneSlews s n) := by
  unfold laneSlews
  split
  · exact laneGo_frame s n (by decide)
  · exact .refl s

theorem gang_lt (s : State) (f : Nat) : ∀ n ∈ gang s f, n < 288 := by
  intro n hn
  have hl : s.fld (R.RXF.F_CFG.LANE f) < 2 ^ 8 := State.fld_lt s _
  have hc : s.fld (R.RXF.F_CHAN.CHANNELS f) < 2 ^ 7 := State.fld_lt s _
  unfold gang at hn
  dsimp only at hn
  split at hn
  · cases hn
  · obtain ⟨x, hx, rfl⟩ := List.mem_map.mp hn
    have := List.mem_range.mp hx
    omega

/-- The lanes of a flow's gang stand below the flows' registers. -/
theorem fld_foldl_laneSlews {u : State} {l : List Nat} (hl : ∀ n ∈ l, n < 288) {g : Fld} {o i : Nat} (hg : g.key = itemKey o i)
    (ho : 0xc000 ≤ o) (ho' : o < 0x1000000) : (l.foldl laneSlews u).fld g = u.fld g := by
  have h : OnlyIn (fun k => k < 0xc000) u (l.foldl laneSlews u) := (OnlyIn.refl u).foldl fun v n hn => by
    have hgo := touches_laneGo v n (st := laneSlew) (by decide)
    have hlt := hl n hn
    unfold laneSlews
    split
    · refine .of_touches hgo fun f hf => ?_
      simp only [laneFlds, List.mem_cons, List.not_mem_nil, or_false] at hf
      rcases hf with rfl | rfl | rfl | rfl <;>
        simp only [R.KRN.L_STAT.STATE, R.KRN.L_STAT.VALID, R.KRN.L_STAT.OVERFLOW, R.KRN.L_STAT.SAT] <;> omega
    · exact .refl v
  exact h.fld (by simp only [hg, itemKey]; omega)

/-- The target of a slew and its events. -/
def slewShown (s : State) (f target : Nat) : State :=
  s.setFlds [(R.RXF.F_OFFSET_NOW.SAMPLES f, target), (R.RXF.F_STAT.SLEWING f, 1), (R.RXF.F_STAT.SLEW_EV f, 1)]

theorem fld_slewShown (s : State) (f target : Nat) : (slewShown s f target).fld (R.RXF.F_STAT.SLEWING f) = 1 ∧
    (slewShown s f target).fld (R.RXF.F_STAT.SLEW_EV f) = 1 ∧ (slewShown s f target).fld (R.RXF.F_OFFSET_NOW.SAMPLES f) = target % 2 ^ 24 := by
  have hne : (R.RXF.F_OFFSET_NOW.SAMPLES f).key ≠ (R.RXF.F_STAT.SLEWING f).key := by
    simp only [R.RXF.F_OFFSET_NOW.SAMPLES, R.RXF.F_STAT.SLEWING, itemKey]
    omega
  have hne' : (R.RXF.F_OFFSET_NOW.SAMPLES f).key ≠ (R.RXF.F_STAT.SLEW_EV f).key := hne
  have hlast : slewShown s f target = ((s.setFld (R.RXF.F_OFFSET_NOW.SAMPLES f) target).setFld (R.RXF.F_STAT.SLEWING f) 1).setFld
    (R.RXF.F_STAT.SLEW_EV f) 1 := rfl
  rw [hlast]
  refine ⟨(State.fld_setFld_above _ _ rfl).trans (State.fld_setFld_mod _ _ _ rfl), State.fld_setFld_mod _ _ _ rfl, ?_⟩
  rw [State.fld_setFld_ne _ _ hne', State.fld_setFld_ne _ _ hne]
  exact State.fld_setFld_mod _ _ _ rfl

/-- The target of a slew by a change of the offset in force, and its events. -/
def slewSet (s : State) (f : Nat) (delta : Int) : State := slewShown s f ((s.fld (R.RXF.F_OFFSET_NOW.SAMPLES f) : Int) + delta).toNat

theorem startSlew_eq (s : State) (f : Nat) (delta : Int) (limit : Nat) : ∃ w, w.delta = delta ∧ w.limit = limit ∧
    startSlew s f delta limit = ((gang (slewSet s f delta) f).foldl laneSlews (slewSet s f delta)).setFlow f
      { ((gang (slewSet s f delta) f).foldl laneSlews (slewSet s f delta)).flow f with slew := some w, winN := 0, winMin := none, winLate := false } :=
  ⟨⟨delta, limit, _⟩, rfl, rfl, rfl⟩

theorem startSlew_leaves (s : State) (f : Nat) (delta : Int) (limit : Nat) :
    (startSlew s f delta limit).fld (R.RXF.F_STAT.SLEWING f) = 1 ∧ (startSlew s f delta limit).fld (R.RXF.F_STAT.SLEW_EV f) = 1 ∧
      (startSlew s f delta limit).fld (R.RXF.F_OFFSET_NOW.SAMPLES f) =
        ((s.fld (R.RXF.F_OFFSET_NOW.SAMPLES f) : Int) + delta).toNat % 2 ^ 24 ∧
      ∃ w, ((startSlew s f delta limit).flow f).slew = some w ∧ w.delta = delta ∧ w.limit = limit := by
  obtain ⟨w, hd, hl, e⟩ := startSlew_eq s f delta limit
  have hset := fld_slewShown s f ((s.fld (R.RXF.F_OFFSET_NOW.SAMPLES f) : Int) + delta).toNat
  rw [← slewSet] at hset
  have hfold := fun g o => fld_foldl_laneSlews (u := slewSet s f delta) (gang_lt (slewSet s f delta) f) (g := g) (o := o) (i := f)
  rw [e]
  rw [fld_setFlow, fld_setFlow, fld_setFlow, flow_setFlow_self, hfold (R.RXF.F_STAT.SLEWING f) 0xc11c rfl (by decide) (by decide),
    hfold (R.RXF.F_STAT.SLEW_EV f) 0xc11c rfl (by decide) (by decide), hfold (R.RXF.F_OFFSET_NOW.SAMPLES f) 0xc148 rfl (by decide) (by decide)]
  exact ⟨hset.1, hset.2.1, hset.2.2, w, rfl, hd, hl⟩

theorem windowEnd_slews {m d : Int} (hm : (s.flow f).winMin = some m) (hlow : m < s.fld (R.RXF.F_TGT.LO_US f) * 1000)
    (htwin : s.fld R.TWIN.STAT.STATE ≠ 3)
    (hd : d = (((s.fld (R.RXF.F_TGT.LO_US f) * 1000 + s.fld (R.RXF.F_TGT.HI_US f) * 1000 : Int) / 2 - m) *
      s.mcsFs (s.fld (R.RXF.F_CFG.MCS f)) + 999999999) / 1000000000) (hne : d ≠ 0)
    (hleast : (rxN s f + 35 : Int) ≤ s.fld (R.RXF.F_OFFSET_NOW.SAMPLES f) + d)
    (hmost : s.fld (R.RXF.F_OFFSET_NOW.SAMPLES f) + d ≤ (((s.fld (R.RXF.F_DEPTH.US f) * 3000 -
      ptThirds (s.fld (R.RXF.F_CFG.PTIME f)) : Nat) : Int) * s.mcsFs (s.fld (R.RXF.F_CFG.MCS f))) / 3000000000) :
    windowEnd s f = startSlew (windowReset s f) f d (s.fld (R.RXF.F_PLC.RATE_PPM f)) := by
  have hwant : windowWants s f m = d := by
    unfold windowWants
    dsimp only
    rw [decide_eq_true hlow, Bool.true_or, if_pos rfl, hd, Int.add_sub_assoc]
    rfl
  have hget : windowGets s f d = d := by
    unfold windowGets clampInt
    dsimp only
    rw [show (3 : Int) * 1000000000 = 3000000000 from rfl]
    generalize (((s.fld (R.RXF.F_DEPTH.US f) * 3000 - ptThirds (s.fld (R.RXF.F_CFG.PTIME f)) : Nat) : Int) *
      s.mcsFs (s.fld (R.RXF.F_CFG.MCS f))) / 3000000000 = most at hmost
    omega
  have hshown : windowShown s f m = windowReset s f := if_neg fun h => h.2.1 (by rw [hwant, hget])
  have hkeep : ∀ g, (windowReset s f).fld g = s.fld g := fld_setFlow s f _
  rw [windowEnd_eq hm, hshown, hwant, hget, hkeep, hkeep, if_neg]
  rintro (h | h | h)
  · exact hne h
  · exact hne h
  · exact htwin h

/-! ### The loss of a path (R342) -/

theorem redPathLoss_goes {path : Nat} (hs : seamless s f = true) (hst : s.fld (pathFld f path) = 2)
    (hloss : s.fld R.RED.CFG.LOSS_PP ≤ (s.flow f).empty.getD path 0) : Goes (.redPathLoss f path) s fun t =>
        t = { s with rf := t.rf, mbx := { s.mbx with evts := t.mbx.evts } } ∧ t.fld (pathFld f path) = 3 ∧
          t.fld (if path = 0 then R.RED.F_STAT.LOST_A_EV f else R.RED.F_STAT.LOST_B_EV f) = 1 ∧
          t.fld (pathFld f (1 - path)) = s.fld (pathFld f (1 - path)) := by
  have hold : s.fld (pathFld f path) ≠ 3 := by rw [hst]; decide
  have hrun : exec (.redPathLoss f path) s = .next (pathGo s f path 3) := if_pos ⟨hs, .inr hst, hloss⟩
  have hevt : ∀ (u : State) (g : Fld), g.key = R.RED.F_STAT.reg f → (u.event 0xE090 [byteOf f, byteOf path, byteOf 0]).fld g = u.fld g :=
    fun u g hg => (EvtStep.event u _ _).touches.fld fun x hx => Fld.apart_of_key_ne (by
      simp only [evtFlds, List.mem_cons, List.not_mem_nil, or_false] at hx
      rcases hx with rfl | rfl <;> simp only [hg, R.RED.F_STAT.reg, R.MBX.STAT.EVT_PENDING, R.MBX.RING_STAT.EVT_LOST, itemKey] <;> omega)
  have hlost : (if path = 0 then R.RED.F_STAT.LOST_A_EV f else R.RED.F_STAT.LOST_B_EV f).key = R.RED.F_STAT.reg f := by
    split <;> rfl
  refine ⟨_, hrun, ?_, fld_pathGo_lost s hold, ?_, ?_⟩
  · rw [pathGo_lost s hold]
    exact (EvtStep.event _ _ _).frame.trans rfl
  · rw [pathGo_lost s hold, hevt _ _ hlost]
    split
    · exact State.fld_setFld_mod _ _ _ rfl
    · exact State.fld_setFld_mod _ _ _ rfl
  · rw [pathGo_lost s hold, hevt _ _ (key_pathFld f _)]
    by_cases h0 : path = 0
    · rw [h0]
      exact (State.fld_setFld_below _ _ rfl).trans (State.fld_setFld_below _ _ rfl)
    · have h1 : 1 - path = 0 := by omega
      rw [if_neg h0, h1, pathFld, pathFld, if_neg h0, if_pos rfl]
      exact (State.fld_setFld_below _ _ rfl).trans (State.fld_setFld_above _ _ rfl)

theorem redPathLoss_waits {path : Nat} (h : (s.flow f).empty.getD path 0 < s.fld R.RED.CFG.LOSS_PP) :
    exec (.redPathLoss f path) s = .next s := if_neg fun h' => Nat.not_le.mpr h h'.2.2

end

end Sys2Proof.Machine
end

section
/-! Playout of a due index: what it reads, and the words it presents (R306 to R308). -/

namespace Sys2Proof.Machine

/-! ### What a flow's playout may change -/

/-- The statistics and counters of flow `f`, and the mailbox's registers. -/
def PlayKey (f k : Nat) : Prop :=
  (∃ o, 0xc11c ≤ o ∧ o < 0xc170 ∧ o ≠ 0xc148 ∧ k = itemKey o f) ∨ (0x5000 ≤ k ∧ k < 0x6000)

/-- A register that playout of flow `f` does not write: another block's, another flow's or a configuration register. -/
theorem notPlay_item {f k o i : Nat} (hk : k = itemKey o i) (ho : 0x6000 ≤ o) (ho' : o < 0x1000000)
    (h : i ≠ f ∨ o < 0xc11c ∨ 0xc170 ≤ o ∨ o = 0xc148) : ¬ PlayKey f k := by
  rintro (⟨x, h1, h2, h3, e⟩ | h')
  · simp only [hk, itemKey] at e
    omega
  · simp only [hk, itemKey] at h'
    omega

theorem notPlay_low {f k : Nat} (h : k < 0x5000 ∨ (0x6000 ≤ k ∧ k < 0xc000)) : ¬ PlayKey f k := by
  rintro (⟨x, h1, h2, h3, e⟩ | h')
  · simp only [itemKey] at e
    omega
  · omega

/-- From `s` to `t` nothing but registers, the mailbox, flows, recorded samples and the galley changes. -/
def PlayFrame (s t : State) : Prop := t = { s with rf := t.rf, mbx := t.mbx, rxf := t.rxf, sorts := t.sorts, gal := t.gal }

theorem PlayFrame.trans {s t u : State} (h : PlayFrame s t) (k : PlayFrame t u) : PlayFrame s u := by
  unfold PlayFrame at *
  rw [k, h]

theorem PlayFrame.of_rf {s t : State} (h : RfFrame s t) : PlayFrame s t := by
  unfold RfFrame PlayFrame at *
  generalize t.rf = r at h
  subst h
  rfl

/-- A part of the playout of flow `f`. -/
structure PlayStep (f : Nat) (s t : State) : Prop where
  frame  : PlayFrame s t
  regs   : OnlyIn (PlayKey f) s t
  others : ∀ g, g ≠ f → t.flow g = s.flow g

namespace PlayStep

variable {f : Nat} {s t u : State}

theorem refl (s : State) : PlayStep f s s := ⟨rfl, .refl s, fun _ _ => rfl⟩

theorem trans (h : PlayStep f s t) (k : PlayStep f t u) : PlayStep f s u :=
  ⟨h.frame.trans k.frame, h.regs.trans k.regs, fun g hg => (k.others g hg).trans (h.others g hg)⟩

theorem of_rf (h : RfFrame s t) (hr : OnlyIn (PlayKey f) s t) : PlayStep f s t :=
  ⟨.of_rf h, hr, fun g _ => by rw [State.flow, h, State.flow]⟩

theorem setFlow (s : State) (f : Nat) (x : RxFlow) : PlayStep f s (s.setFlow f x) :=
  ⟨rfl, (OnlyIn.refl s).upd rfl, fun _ hg => flow_setFlow_ne s x hg⟩

theorem ite {p : Prop} [Decidable p] (h : PlayStep f s t) (k : PlayStep f s u) : PlayStep f s (if p then t else u) := by
  split
  · exact h
  · exact k

theorem event (s : State) (code : Nat) (d : List Byte) : PlayStep f s (s.event code d) := by
  have h := EvtStep.event s code d
  refine ⟨?_, (OnlyIn.refl s).event code d fun k h1 h2 => .inr ⟨h1, h2⟩, fun g _ => ?_⟩
  · rw [h.frame]
    rfl
  · rw [State.flow, h.frame, State.flow]

theorem setGq (s : State) (q : Nat) (x : GQueue) : PlayStep f s (s.setGq q x) := ⟨rfl, (OnlyIn.refl s).upd rfl, fun _ _ => rfl⟩

theorem pushSort (s : State) (src idx : Nat) (w : Word) (t : Bool) : PlayStep f s (pushSort s src idx w t) :=
  ⟨rfl, (OnlyIn.refl s).upd rfl, fun _ _ => rfl⟩

theorem cfg (h : PlayStep f s t) {g : Fld} {o i : Nat} (hg : g.key = itemKey o i) (ho : 0x6000 ≤ o) (hi : o < 0xc11c ∨ o = 0xc148) :
    t.fld g = s.fld g := h.regs.fld (notPlay_item hg ho (by omega) (by omega))

theorem clocks (h : PlayStep f s t) : ClocksAlike s t := by
  refine .of_onlyIn h.regs (fun k hk hc => ?_) (by rw [h.frame]) (by rw [h.frame])
  rcases hc with ⟨n, hn, rfl⟩ | ⟨n, hn, rfl | rfl⟩ | ⟨i, rfl⟩
  · exact notPlay_low (by simp only [R.CLK.MCS_CFG.reg]; omega) hk
  · exact notPlay_low (by simp only [R.TIME.PTI_ADDEND_INT.reg]; omega) hk
  · exact notPlay_low (by simp only [R.TIME.PTI_ADDEND_FRAC.reg]; omega) hk
  · exact notPlay_item rfl (by decide) (by decide) (.inr (.inl (by decide))) hk

end PlayStep

section
variable {s : State} {f : Nat}

theorem rxCount_frame (s : State) (f i : Nat) : RfFrame s (rxCount s f i []) := countSat_frame s _ _ i

/-- A counter of a flow and its SAT bits. -/
theorem playStep_rxCount (s : State) (f : Nat) {i : Nat} (hi : i < 7) : PlayStep f s (rxCount s f i []) := by
  have h : Touches [{ R.RXF.F_LATE.COUNT f with key := (R.RXF.F_LATE.COUNT f).key + 4 * i }, R.RXF.F_SAT.SAT f] s (rxCount s f i []) :=
    touches_countSat i (by simp) (by simp) (.refl _ s)
  refine .of_rf (rxCount_frame s f i) (.of_touches h fun g hg => ?_)
  simp only [List.mem_cons, List.not_mem_nil, or_false] at hg
  rcases hg with rfl | rfl
  · exact .inl ⟨0xc150 + 4 * i, by omega, by omega, by omega, by simp only [R.RXF.F_LATE.COUNT, itemKey]; omega⟩
  · exact .inl ⟨0xc16c, by decide, by decide, by decide, rfl⟩

theorem flow_rxCount (s : State) (f i g : Nat) : (rxCount s f i []).flow g = s.flow g := by
  rw [State.flow, rxCount_frame, State.flow]

theorem fld_rxCount (s : State) (f : Nat) {i : Nat} (hi : i < 7) (g : Fld) (hg : g.key = R.RXF.F_STAT.reg f) :
    (rxCount s f i []).fld g = s.fld g := by
  have h : Touches [{ R.RXF.F_LATE.COUNT f with key := (R.RXF.F_LATE.COUNT f).key + 4 * i }, R.RXF.F_SAT.SAT f] s (rxCount s f i []) :=
    touches_countSat i (by simp) (by simp) (.refl _ s)
  refine h.fld fun x hx => Fld.apart_of_key_ne ?_
  simp only [List.mem_cons, List.not_mem_nil, or_false] at hx
  rcases hx with rfl | rfl <;> simp only [hg, R.RXF.F_STAT.reg, R.RXF.F_LATE.COUNT, R.RXF.F_SAT.SAT, itemKey] <;> omega

theorem findSort_rxCount (s : State) (f i src idx : Nat) : findSort (rxCount s f i []) src idx = findSort s src idx := by
  have hsorts : (rxCount s f i []).sorts = s.sorts := by rw [rxCount_frame]
  rw [findSort, hsorts, findSort]

/-! ### The margins that are due -/

/-- A part of a playout that leaves the flow's concealment, its read samples and the galley. -/
structure PrepStep (f : Nat) (s t : State) : Prop where
  step  : PlayStep f s t
  chans : (t.flow f).chans = (s.flow f).chans
  gal   : t.gal = s.gal
  slew  : (t.flow f).slew = (s.flow f).slew
  stat  : ∀ g : Fld, g.key = R.RXF.F_STAT.reg f → t.fld g = s.fld g

namespace PrepStep

variable {t u : State}

theorem refl (s : State) : PrepStep f s s := ⟨.refl s, rfl, rfl, rfl, fun _ _ => rfl⟩

theorem trans (h : PrepStep f s t) (k : PrepStep f t u) : PrepStep f s u :=
  ⟨h.step.trans k.step, k.chans.trans h.chans, k.gal.trans h.gal, k.slew.trans h.slew, fun g hg => (k.stat g hg).trans (h.stat g hg)⟩

/-- One register of the flow other than `F_STAT`. -/
theorem of_touches {l : List Fld} {o : Nat} (h : RfFrame s t) (hr : Touches l s t) (hl : ∀ g ∈ l, g.key = itemKey o f)
    (h1 : 0xc120 ≤ o) (h2 : o < 0xc170) (h3 : o ≠ 0xc148) : PrepStep f s t := by
  refine ⟨.of_rf h (.of_touches hr fun g hg => .inl ⟨o, by omega, h2, h3, hl g hg⟩), by rw [State.flow, h, State.flow], by rw [h],
    by rw [State.flow, h, State.flow], fun g hg => hr.fld fun x hx => Fld.apart_of_key_ne ?_⟩
  rw [hg, hl x hx]
  exact itemKey_ne _ _ (by unfold R.RXF.F_STAT.reg at *; omega)

theorem setFlow {x : RxFlow} (hc : x.chans = (s.flow f).chans) (hs : x.slew = (s.flow f).slew) : PrepStep f s (s.setFlow f x) :=
  ⟨.setFlow s f x, by rw [flow_setFlow_self, hc], rfl, by rw [flow_setFlow_self, hs], fun _ _ => rfl⟩

theorem ite {p : Prop} [Decidable p] (h : PrepStep f s t) (k : PrepStep f s u) : PrepStep f s (if p then t else u) := by
  split
  · exact h
  · exact k

theorem setFld (s : State) {g : Fld} {o : Nat} (v : Nat) (hg : g.key = itemKey o f) (h1 : 0xc120 ≤ o) (h2 : o < 0xc170) (h3 : o ≠ 0xc148) :
    PrepStep f s (s.setFld g v) :=
  .of_touches (l := [g]) rfl (touches_setFld (by simp) (.refl _ s)) (fun x hx => by rw [List.mem_singleton.mp hx, hg]) h1 h2 h3

theorem foldl {α : Type} {g : State → α → State} (hg : ∀ u a, PrepStep f u (g u a)) (l : List α) (s : State) : PrepStep f s (l.foldl g s) := by
  induction l generalizing s with
  | nil => exact refl s
  | cons a l ih => exact (hg s a).trans (ih _)

end PrepStep

theorem playKey_stat (f o : Nat) (h1 : 0xc11c ≤ o) (h2 : o < 0xc170) (h3 : o ≠ 0xc148) : PlayKey f (itemKey o f) := .inl ⟨o, h1, h2, h3, rfl⟩

/-- The histogram's counter of a margin. -/
theorem prepStep_hist (s : State) (f : Nat) {bin : Nat} (h : bin < 16) :
    PrepStep f s (s.count (if bin % 2 = 0 then R.RXF.F_HIST.EVEN (bin / 2) f else R.RXF.F_HIST.ODD (bin / 2) f)) := by
  have hk : ∀ g : Fld, g.key = itemKey (0xc128 + 4 * (bin / 2)) f → PrepStep f s (s.count g) := fun g hg =>
    .of_touches (State.count_frame s g) (touches_count (l := [g]) (by simp) (.refl _ s))
      (fun x hx => by rw [List.mem_singleton.mp hx, hg]) (by omega) (by omega) (by omega)
  split
  · exact hk _ rfl
  · exact hk _ rfl

/-- The least margin of a flow (R311). -/
def marginLeast (s : State) (f : Nat) (m : Int) : State :=
  if m < s.fldInt (R.RXF.F_MIN.NS f) then s.setFld (R.RXF.F_MIN.NS f) (ofSigned 32 m) else s

/-- The mean margin of a flow. -/
def marginMean (s : State) (f : Nat) (m : Int) : State :=
  let mean := s.fldInt (R.RXF.F_MEAN.NS f)
  let d := m - mean
  let q := d / 256
  s.setFld (R.RXF.F_MEAN.NS f) (ofSigned 32 (mean + (if d % 256 ≠ 0 ∧ Config.roundUp d then q + 1 else q)))

/-- The histogram of a flow's margins. -/
def marginBin (s : State) (f : Nat) (m : Int) (late : Bool) : State :=
  let w : Int := s.fld (R.RXF.F_PLC.BIN_US f) * 1000
  let bin := if late then 0 else (clampInt 0 15 (m / max 1 w)).toNat
  s.count (if bin % 2 = 0 then R.RXF.F_HIST.EVEN (bin / 2) f else R.RXF.F_HIST.ODD (bin / 2) f)

/-- A margin in the placement window of a flow (R312). -/
def marginWindow (s : State) (f : Nat) (m : Int) (late : Bool) : State :=
  let x := s.flow f
  if x.slew.isSome && !late then s
  else
    s.setFlow f { x with
      winN := x.winN + 1
      winMin := some (match x.winMin with | some a => min a m | none => m)
      winLate := x.winLate || late }

theorem takeMargin_eq (s : State) (f : Nat) (m : Int) (late : Bool) :
    takeMargin s f m late = marginWindow (marginBin (marginMean (marginLeast s f m) f m) f m late) f m late := rfl

theorem prepStep_takeMargin (s : State) (f : Nat) (m : Int) (late : Bool) : PrepStep f s (takeMargin s f m late) := by
  have hleast : PrepStep f s (marginLeast s f m) :=
    (PrepStep.setFld s (o := 0xc120) _ rfl (by decide) (by decide) (by decide)).ite (.refl s)
  have hmean : ∀ u, PrepStep f u (marginMean u f m) := fun u =>
    .setFld u (o := 0xc124) _ rfl (by decide) (by decide) (by decide)
  have hbin : ∀ u, PrepStep f u (marginBin u f m late) := fun u => by
    refine prepStep_hist u f ?_
    unfold clampInt
    split <;> omega
  have hwindow : ∀ u, PrepStep f u (marginWindow u f m late) := fun u => (PrepStep.refl u).ite (.setFlow rfl rfl)
  rw [takeMargin_eq]
  exact ((hleast.trans (hmean _)).trans (hbin _)).trans (hwindow _)

theorem prepStep_dueMargins (s : State) (f k : Nat) : PrepStep f s (dueMargins s f k) :=
  (PrepStep.setFlow (f := f) (x := { s.flow f with margins := (s.flow f).margins.filter fun e => !decide (e.1 ≤ k) }) rfl rfl).trans
    (PrepStep.foldl (fun u _ => prepStep_takeMargin u f _ _) _ _)

/-! ### Samples presented (R306, R308) -/

theorem findSort_pushSort_self (s : State) (src idx : Nat) (w : Word) (t : Bool) : findSort (pushSort s src idx w t) src idx = some (w, t) := by
  simp [findSort, pushSort]

theorem findSort_pushSort_ne (s : State) {src src' : Nat} (idx idx' : Nat) (w : Word) (t : Bool) (h : src' ≠ src) :
    findSort (pushSort s src idx w t) src' idx' = findSort s src' idx' := by
  have hkeep : ∀ l : List Sample, (l.filter fun x => !(x.src == src && (x.idx == idx || decide (x.idx + 4096 ≤ idx)))).find?
      (fun x => x.src == src' && x.idx == idx') = l.find? fun x => x.src == src' && x.idx == idx' := fun l => by
    rw [List.find?_filter]
    congr 1
    funext x
    by_cases hx : x.src = src'
    · simp [hx, h]
      rfl
    · simp [hx]
  unfold findSort pushSort
  dsimp only
  rw [List.find?_cons_of_neg (by simp [Ne.symm h]), hkeep]

/-- A step that presents channel `c` of flow `f` for index `j`: the other channels' identifiers and records stay. -/
structure ChanStep (f j c : Nat) (s t : State) : Prop where
  step  : PlayStep f s t
  gal   : t.gal = s.gal
  bad   : (t.flow f).bad = (s.flow f).bad
  chans : ∀ x, x ≠ c → flowConc t f x = flowConc s f x
  sorts : ∀ x, x ≠ c → findSort t (rxIdent s f x) j = findSort s (rxIdent s f x) j
  stat  : ∀ g : Fld, g.key = R.RXF.F_STAT.reg f → t.fld g = s.fld g

theorem rxIdent_of_step {t : State} (h : PlayStep f s t) (c : Nat) : rxIdent t f c = rxIdent s f c := by
  have hlt := cfgMcs_lt s f
  unfold rxIdent mcsMult
  rw [h.cfg (g := R.RXF.F_CHAN.BASE f) (o := 0xc104) rfl (by decide) (.inl (by decide)),
    h.cfg (g := R.RXF.F_CFG.MCS f) (o := 0xc100) rfl (by decide) (.inl (by decide)), h.clocks.rate _ hlt]

theorem rxIdent_ne (s : State) (f : Nat) {x c : Nat} (h : x ≠ c) : rxIdent s f x ≠ rxIdent s f c := by
  have hpos : 0 < mcsMult s (s.fld (R.RXF.F_CFG.MCS f)) := by
    unfold mcsMult rateMult
    split
    · decide
    · split <;> decide
  intro he
  exact h (Nat.eq_of_mul_eq_mul_right hpos (Nat.add_left_cancel he))

theorem gang_of_step {t : State} (h : PlayStep f s t) (hl : s.fld (R.RXF.F_CFG.LANE f) = 0xFF) : gang t f = [] := by
  unfold gang
  dsimp only
  rw [h.cfg (g := R.RXF.F_CFG.LANE f) (o := 0xc100) rfl (by decide) (.inl (by decide)), hl, if_pos rfl]

namespace ChanStep

variable {t u : State} {j c : Nat}

theorem refl (s : State) : ChanStep f j c s s := ⟨.refl s, rfl, rfl, fun _ _ => rfl, fun _ _ => rfl, fun _ _ => rfl⟩

theorem trans (h : ChanStep f j c s t) (k : ChanStep f j c t u) : ChanStep f j c s u := by
  refine ⟨h.step.trans k.step, k.gal.trans h.gal, k.bad.trans h.bad, fun x hx => (k.chans x hx).trans (h.chans x hx), fun x hx => ?_,
    fun g hg => (k.stat g hg).trans (h.stat g hg)⟩
  rw [← h.sorts x hx, ← rxIdent_of_step h.step, k.sorts x hx]

theorem rxCount (s : State) (f j c : Nat) {i : Nat} (hi : i < 7) : ChanStep f j c s (rxCount s f i []) := by
  have hframe := rxCount_frame s f i
  have hflow := flow_rxCount s f i f
  exact ⟨playStep_rxCount s f hi, by rw [hframe], by rw [hflow], fun x _ => by rw [flowConc, hflow, flowConc],
    fun x _ => by rw [findSort, hframe, findSort], fun g hg => fld_rxCount s f hi g hg⟩

/-- A channel's record is set and its word recorded. -/
theorem present (hg : gang s f = []) (x : Conc) (k : Nat) (o : Word) (b : Bool) :
    ChanStep f j c s (rxPresent (setFlowConc s f c x) f c j k o b) ∧
      findSort (rxPresent (setFlowConc s f c x) f c j k o b) (rxIdent s f c) j = some (o, b) := by
  have hset : PlayStep f s (setFlowConc s f c x) := .setFlow ..
  have hgang : gang (setFlowConc s f c x) f = [] := hg
  have hid : rxIdent (setFlowConc s f c x) f c = rxIdent s f c := rxIdent_of_step hset c
  have hrun : rxPresent (setFlowConc s f c x) f c j k o b = pushSort (setFlowConc s f c x) (rxIdent s f c) j o b := by
    unfold rxPresent
    dsimp only
    rw [hgang, hid]
    exact if_pos rfl
  have hchans : ∀ y, y ≠ c → flowConc (setFlowConc s f c x) f y = flowConc s f y := fun y hy => by
    rw [flowConc, setFlowConc, flow_setFlow_self]
    exact sGet_put_ne _ _ _ hy
  rw [hrun]
  refine ⟨⟨hset.trans (.pushSort ..), rfl, ?_, hchans, fun y hy => ?_, fun _ _ => rfl⟩, findSort_pushSort_self ..⟩
  · show ((setFlowConc s f c x).flow f).bad = _
    rw [setFlowConc, flow_setFlow_self]
  · rw [findSort_pushSort_ne _ _ _ _ _ (rxIdent_ne s f hy)]
    rfl

end ChanStep

/-- The channels of a flow in turn: each has the word that its own record asks for. -/
theorem foldl_chans {g : State → Nat → State} {val : Nat → Conc → Word × Bool} {j : Nat}
    (hg : ∀ u c, PlayStep f s u → (u.flow f).bad = (s.flow f).bad →
      ChanStep f j c u (g u c) ∧ findSort (g u c) (rxIdent s f c) j = some (val c (flowConc u f c)))
    (l : List Nat) (hnd : l.Nodup) {u : State} (hu : PlayStep f s u) (hb : (u.flow f).bad = (s.flow f).bad) :
    PlayStep f s (l.foldl g u) ∧ (l.foldl g u).gal = u.gal ∧ ((l.foldl g u).flow f).bad = (s.flow f).bad ∧
      (∀ c ∈ l, findSort (l.foldl g u) (rxIdent s f c) j = some (val c (flowConc u f c))) ∧
      (∀ x, x ∉ l → findSort (l.foldl g u) (rxIdent s f x) j = findSort u (rxIdent s f x) j) ∧
      ∀ y : Fld, y.key = R.RXF.F_STAT.reg f → (l.foldl g u).fld y = u.fld y := by
  induction l generalizing u with
  | nil => exact ⟨hu, rfl, hb, fun _ h => (List.not_mem_nil h).elim, fun _ _ => rfl, fun _ _ => rfl⟩
  | cons c l ih =>
    obtain ⟨hstep, hval⟩ := hg u c hu hb
    obtain ⟨hcl, hnd⟩ := List.nodup_cons.mp hnd
    obtain ⟨h1, h2, h3, h4, h5, h6⟩ := ih hnd (hu.trans hstep.step) (hstep.bad.trans hb)
    refine ⟨h1, h2.trans hstep.gal, h3, fun x hx => ?_, fun x hx => ?_,
      fun y hy => (h6 y hy).trans (hstep.stat y hy)⟩
    · rcases List.mem_cons.mp hx with rfl | hx
      · exact (h5 x hcl).trans hval
      · rw [List.foldl_cons, h4 x hx, hstep.chans x fun e => hcl (e ▸ hx)]
    · obtain ⟨hxc, hxl⟩ := not_or.mp fun h => hx (List.mem_cons.mpr h)
      rw [List.foldl_cons, h5 x hxl, ← rxIdent_of_step hu, hstep.sorts x hxc]

/-! ### One channel (R308) -/

theorem concGood_whole (mode : Nat) {x : Conc} (w : Word) (b : Bool) (h : x.scale = 64) : (concGood mode x w b).1 = w := by
  have hsc : (if mode = 2 then min 64 (x.scale + 1) else 64) = 64 := by
    rw [h]
    split <;> rfl
  unfold concGood
  dsimp only
  rw [hsc]
  split
  · rfl
  · exact if_pos (Nat.le_refl 64)

/-- A sample that is there is presented at the scale of its channel. -/
theorem playChan_word {it : GItem} {j k c : Nat} (hg : gang s f = []) (hb : (s.flow f).bad.getD 0 [] = []) :
    ChanStep f j c s (playChan s f k j c 0 it none) ∧ findSort (playChan s f k j c 0 it none) (rxIdent s f c) j =
      some ((concGood (s.fld (R.RXF.F_CFG.CONCEAL f)) (flowConc s f c) (sampleWord s f k c it).1 (sampleWord s f k c it).2.1).1,
        (sampleWord s f k c it).2.1) := by
  have hclean : ¬ samplePoisoned s f 0 k c it = true := by
    unfold samplePoisoned
    rw [hb]
    exact Bool.false_ne_true
  have hcount : ∀ unknown : Bool, ChanStep f j c s (if unknown then rxCount s f 5 [] else s) ∧
      flowConc (if unknown then rxCount s f 5 [] else s) f c = flowConc s f c := fun unknown => by
    cases unknown with
    | false => exact ⟨.refl s, rfl⟩
    | true =>
      rw [if_pos rfl, flowConc, flow_rxCount]
      exact ⟨.rxCount s f j c (by decide), rfl⟩
  unfold playChan
  dsimp only
  rw [if_pos (by rw [Bool.not_eq_true _ |>.mp hclean]; rfl)]
  generalize sampleWord s f k c it = w
  obtain ⟨w, b, unknown⟩ := w
  dsimp only
  obtain ⟨hstep, hconc⟩ := hcount unknown
  generalize (if unknown then rxCount s f 5 [] else s) = u at hstep hconc
  have hgu : gang u f = [] := by
    unfold gang at hg ⊢
    dsimp only at hg ⊢
    rwa [hstep.step.cfg (g := R.RXF.F_CFG.LANE f) (o := 0xc100) rfl (by decide) (.inl (by decide)),
      hstep.step.cfg (g := R.RXF.F_CHAN.CHANNELS f) (o := 0xc104) rfl (by decide) (.inl (by decide))]
  obtain ⟨hpres, hfind⟩ := ChanStep.present (s := u) (j := j) (c := c) hgu
    (concGood (s.fld (R.RXF.F_CFG.CONCEAL f)) (flowConc u f c) w b).2 k (concGood (s.fld (R.RXF.F_CFG.CONCEAL f)) (flowConc u f c) w b).1 b
  refine ⟨hstep.trans hpres, ?_⟩
  rw [← rxIdent_of_step hstep.step, hfind, hconc]

/-- A missing sample is concealed (R308). -/
theorem concealChan_word {j k c : Nat} (hg : gang s f = []) :
    ChanStep f j c s (concealChan s f c j k true) ∧ findSort (concealChan s f c j k true) (rxIdent s f c) j =
      some (if s.fld (R.RXF.F_CFG.FORMAT f) = 3 then 0 else concWord (s.fld (R.RXF.F_CFG.CONCEAL f)) (concSkip (flowConc s f c) 1),
        s.fld (R.RXF.F_CFG.FORMAT f) == 3 || (flowConc s f c).lastT) := by
  obtain ⟨hpres, hfind⟩ := ChanStep.present (s := s) (j := j) (c := c) hg (concSkip (flowConc s f c) 1) k
    (if s.fld (R.RXF.F_CFG.FORMAT f) == 3 || (flowConc s f c).lastT then 0
      else concWord (s.fld (R.RXF.F_CFG.CONCEAL f)) (concSkip (flowConc s f c) 1))
    (s.fld (R.RXF.F_CFG.FORMAT f) == 3 || (flowConc s f c).lastT)
  have hrun : concealChan s f c j k true = rxCount (rxPresent (setFlowConc s f c (concSkip (flowConc s f c) 1)) f c j k
      (if s.fld (R.RXF.F_CFG.FORMAT f) == 3 || (flowConc s f c).lastT then 0
        else concWord (s.fld (R.RXF.F_CFG.CONCEAL f)) (concSkip (flowConc s f c) 1))
      (s.fld (R.RXF.F_CFG.FORMAT f) == 3 || (flowConc s f c).lastT)) f 5 [] := rfl
  have hword : (if s.fld (R.RXF.F_CFG.FORMAT f) == 3 || (flowConc s f c).lastT then 0
      else concWord (s.fld (R.RXF.F_CFG.CONCEAL f)) (concSkip (flowConc s f c) 1)) =
      if s.fld (R.RXF.F_CFG.FORMAT f) = 3 then 0 else concWord (s.fld (R.RXF.F_CFG.CONCEAL f)) (concSkip (flowConc s f c) 1) := by
    cases hl : (flowConc s f c).lastT with
    | false => simp
    | true =>
      have hzero : concWord (s.fld (R.RXF.F_CFG.CONCEAL f)) (concSkip (flowConc s f c) 1) = 0 := if_pos hl
      rw [hzero, ite_self, ite_self]
  rw [hrun]
  refine ⟨hpres.trans (.rxCount _ f j c (by decide)), ?_⟩
  rw [findSort_rxCount, hfind, hword]

end

end Sys2Proof.Machine
end

section
/-! The steps of playout, placement, kerning and path loss (R263 to R265, R306 to R309, R312, R342). -/

namespace Sys2Proof.Machine

section
variable {s : State} {f : Nat}

/-! ### A flow's state (R307) -/

/-- A flow's state moves, with its event bits. -/
def rxLatched (s : State) (f st old : Nat) : State :=
  let s := s.setFlds [(R.RXF.F_STAT.STATE f, st), (R.RXF.F_STAT.STATE_EV f, 1)]
  if st = 3 then s.setFld (R.RXF.F_STAT.CONCEAL_EV f) 1
  else if st = 2 ∧ old = 3 then s.setFld (R.RXF.F_STAT.REJOIN_EV f) 1
  else s

theorem touches_rxLatched (s : State) (f st old : Nat) : Touches [R.RXF.F_STAT.STATE f, R.RXF.F_STAT.STATE_EV f,
    R.RXF.F_STAT.CONCEAL_EV f, R.RXF.F_STAT.REJOIN_EV f] s (rxLatched s f st old) := by
  have hset : Touches [R.RXF.F_STAT.STATE f, R.RXF.F_STAT.STATE_EV f, R.RXF.F_STAT.CONCEAL_EV f, R.RXF.F_STAT.REJOIN_EV f] s
      (s.setFlds [(R.RXF.F_STAT.STATE f, st), (R.RXF.F_STAT.STATE_EV f, 1)]) := touches_setFlds (by simp) (.refl _ s)
  exact touches_ite (touches_setFld (by simp) hset) (touches_ite (touches_setFld (by simp) hset) hset)

theorem rxLatched_frame (s : State) (f st old : Nat) : RfFrame s (rxLatched s f st old) := by
  have hset : RfFrame s (s.setFlds [(R.RXF.F_STAT.STATE f, st), (R.RXF.F_STAT.STATE_EV f, 1)]) := State.setFlds_frame s _
  unfold rxLatched
  dsimp only
  split
  · exact hset.setFld _ _
  · split
    · exact hset.setFld _ _
    · exact hset

theorem state_rxLatched (s : State) (f old : Nat) {st : Nat} (hst : st < 16) : (rxLatched s f st old).fld (R.RXF.F_STAT.STATE f) = st := by
  have hset : (s.setFlds [(R.RXF.F_STAT.STATE f, st), (R.RXF.F_STAT.STATE_EV f, 1)]).fld (R.RXF.F_STAT.STATE f) = st :=
    (State.fld_setFld_below _ _ rfl).trans (State.fld_setFld_lt s _ (Nat.le_of_ble_eq_true rfl) hst)
  unfold rxLatched
  dsimp only
  split
  · exact (State.fld_setFld_below _ _ rfl).trans hset
  · split
    · exact (State.fld_setFld_below _ _ rfl).trans hset
    · exact hset

theorem dxPresent_of_fld {t : State} (h : t.fld R.SYS.STRAPS.PERS = s.fld R.SYS.STRAPS.PERS) : t.dxPresent = s.dxPresent := by
  rw [State.dxPresent, State.pers, h, State.dxPresent, State.pers]

theorem rxGo_eq {st : Nat} (reason : Nat) (hdx : s.dxPresent = false) (hne : s.fld (R.RXF.F_STAT.STATE f) ≠ st) : rxGo s f st reason =
    if st = 3 ∨ (st = 2 ∧ s.fld (R.RXF.F_STAT.STATE f) = 3) then
      (rxLatched s f st (s.fld (R.RXF.F_STAT.STATE f))).event 0xE070 [byteOf f, byteOf st, byteOf reason]
    else rxLatched s f st (s.fld (R.RXF.F_STAT.STATE f)) := by
  have hdx' : (rxLatched s f st (s.fld (R.RXF.F_STAT.STATE f))).dxPresent = false := by
    rw [← hdx]
    refine dxPresent_of_fld ((touches_rxLatched s f st _).fld fun g hg => Fld.apart_of_key_ne ?_)
    simp only [List.mem_cons, List.not_mem_nil, or_false] at hg
    rcases hg with rfl | rfl | rfl | rfl <;>
      simp only [R.SYS.STRAPS.PERS, R.RXF.F_STAT.STATE, R.RXF.F_STAT.STATE_EV, R.RXF.F_STAT.CONCEAL_EV, R.RXF.F_STAT.REJOIN_EV, itemKey] <;> omega
  have hstill : (if (rxLatched s f st (s.fld (R.RXF.F_STAT.STATE f))).dxPresent && decide (f < 8) && (st == 0 || st == 2) then
      { rxLatched s f st (s.fld (R.RXF.F_STAT.STATE f)) with dx := { (rxLatched s f st (s.fld (R.RXF.F_STAT.STATE f))).dx with
        played := if st = 2 then f :: (rxLatched s f st (s.fld (R.RXF.F_STAT.STATE f))).dx.played.filter (· != f)
          else (rxLatched s f st (s.fld (R.RXF.F_STAT.STATE f))).dx.played.filter (· != f) } }
      else rxLatched s f st (s.fld (R.RXF.F_STAT.STATE f))) = rxLatched s f st (s.fld (R.RXF.F_STAT.STATE f)) :=
    if_neg (by rw [hdx']; exact Bool.false_ne_true)
  unfold rxGo
  dsimp only
  rw [if_neg hne]
  exact congrArg (fun u : State => if st = 3 ∨ (st = 2 ∧ s.fld (R.RXF.F_STAT.STATE f) = 3) then
    u.event 0xE070 [byteOf f, byteOf st, byteOf reason] else u) hstill

theorem rxGo_leaves {st : Nat} (reason : Nat) (hst : st < 16) (hdx : s.dxPresent = false) (hne : s.fld (R.RXF.F_STAT.STATE f) ≠ st) :
    PlayStep f s (rxGo s f st reason) ∧ (rxGo s f st reason).fld (R.RXF.F_STAT.STATE f) = st ∧ (rxGo s f st reason).gal = s.gal ∧
      (rxGo s f st reason).sorts = s.sorts ∧ (st = 3 → (rxGo s f st reason).fld (R.RXF.F_STAT.CONCEAL_EV f) = 1) := by
  have hframe := rxLatched_frame s f st (s.fld (R.RXF.F_STAT.STATE f))
  have hlatch : PlayStep f s (rxLatched s f st (s.fld (R.RXF.F_STAT.STATE f))) := by
    refine .of_rf hframe (.of_touches (touches_rxLatched s f st _) fun g hg => ?_)
    simp only [List.mem_cons, List.not_mem_nil, or_false] at hg
    rcases hg with rfl | rfl | rfl | rfl <;> exact playKey_stat f 0xc11c (by decide) (by decide) (by decide)
  have hstate := state_rxLatched s f (s.fld (R.RXF.F_STAT.STATE f)) hst
  have hev : st = 3 → (rxLatched s f st (s.fld (R.RXF.F_STAT.STATE f))).fld (R.RXF.F_STAT.CONCEAL_EV f) = 1 := fun h => by
    rw [rxLatched, if_pos h]
    exact State.fld_setFld_mod _ _ _ rfl
  have hgal : (rxLatched s f st (s.fld (R.RXF.F_STAT.STATE f))).gal = s.gal := by rw [hframe]
  have hsorts : (rxLatched s f st (s.fld (R.RXF.F_STAT.STATE f))).sorts = s.sorts := by rw [hframe]
  rw [rxGo_eq reason hdx hne]
  generalize rxLatched s f st (s.fld (R.RXF.F_STAT.STATE f)) = u at hlatch hstate hev hgal hsorts
  split
  · have hevt := EvtStep.event u 0xE070 [byteOf f, byteOf st, byteOf reason]
    have hfld : ∀ g : Fld, g.key = R.RXF.F_STAT.reg f → (u.event 0xE070 [byteOf f, byteOf st, byteOf reason]).fld g = u.fld g := fun g hg =>
      hevt.touches.fld fun x hx => Fld.apart_of_key_ne (by
        simp only [evtFlds, List.mem_cons, List.not_mem_nil, or_false] at hx
        rcases hx with rfl | rfl <;> simp only [hg, R.RXF.F_STAT.reg, R.MBX.STAT.EVT_PENDING, R.MBX.RING_STAT.EVT_LOST, itemKey] <;> omega)
    refine ⟨hlatch.trans (.event u _ _), (hfld _ rfl).trans hstate, ?_, ?_, fun h => (hfld _ rfl).trans (hev h)⟩
    · rw [hevt.frame]
      exact hgal
    · rw [hevt.frame]
      exact hsorts
  · exact ⟨hlatch, hstate, hgal, hsorts, hev⟩

/-! ### A flow with no placement gang (R306) -/

theorem playFlow_plain {j : Nat} (hl : s.fld (R.RXF.F_CFG.LANE f) = 0xFF) (hstep : PlayStep f s (playIndex f j (dueIndex s f j) s)) :
    playFlow s f j = playIndex f j (dueIndex s f j) s := by
  have hread : readNow s f j = [dueIndex s f j] := by
    unfold readNow
    rw [gang_of_step (.refl s) hl]
    rfl
  unfold playFlow
  dsimp only
  rw [hread, List.foldl_cons, List.foldl_nil, gang_of_step hstep hl]
  rfl

/-- A fold whose step does something at one place only. -/
theorem foldl_once {α : Type} {g : State → α → State} {a : α} {l : List α} (ha : a ∈ l) (hnd : l.Nodup)
    (hbefore : ∀ b ∈ l, b ≠ a → g s b = s) (hafter : ∀ b ∈ l, b ≠ a → g (g s a) b = g s a) : l.foldl g s = g s a := by
  have hrest : ∀ l' : List α, (∀ b ∈ l', b ∈ l ∧ b ≠ a) → l'.foldl g (g s a) = g s a := by
    intro l' hl'
    induction l' with
    | nil => rfl
    | cons b l' ih =>
      obtain ⟨hb, hne⟩ := hl' b List.mem_cons_self
      rw [List.foldl_cons, hafter b hb hne]
      exact ih fun c hc => hl' c (List.mem_cons_of_mem _ hc)
  have hgo : ∀ l' : List α, (∀ b ∈ l', b ∈ l) → l'.Nodup → a ∈ l' → l'.foldl g s = g s a := by
    intro l' hl' hnd'
    induction l' with
    | nil => exact fun h => (List.not_mem_nil h).elim
    | cons b l' ih =>
      intro hm
      obtain ⟨hb, hnd''⟩ := List.nodup_cons.mp hnd'
      rw [List.foldl_cons]
      rcases List.mem_cons.mp hm with rfl | hm
      · exact hrest l' fun c hc => ⟨hl' c (List.mem_cons_of_mem _ hc), fun e => hb (e ▸ hc)⟩
      · rw [hbefore b (hl' b List.mem_cons_self) fun e => hb (e ▸ hm)]
        exact ih (fun c hc => hl' c (List.mem_cons_of_mem _ hc)) hnd'' hm
  exact hgo l (fun _ h => h) hnd ha

/-- One flow's part of a due index `j` of MCS `m`. -/
def playDue (j m : Nat) (s : State) (f : Nat) : State :=
  if 1 ≤ s.fld (R.RXF.F_STAT.STATE f) ∧ s.fld (R.RXF.F_STAT.STATE f) ≤ 3 ∧ s.fld (R.RXF.F_CFG.MCS f) = m ∧ s.fld (R.RXF.F_CFG.FORMAT f) ≠ 9 then
    playFlow s f j
  else s

theorem playDue_idle {j m : Nat} (h : s.fld (R.RXF.F_CFG.MCS f) = m → s.fld (R.RXF.F_STAT.STATE f) = 0 ∨ 4 ≤ s.fld (R.RXF.F_STAT.STATE f)) :
    playDue j m s f = s :=
  if_neg fun ⟨h1, h3, hm, _⟩ => by
    have := h hm
    omega

/-- Where every other flow is OFF, the due index of flow `f`'s clock plays that flow alone. -/
theorem exec_playoutIndexDue (hf : f < 256) (hoff : ∀ g, g < 256 → g ≠ f → s.fld (R.RXF.F_STAT.STATE g) = 0)
    (h1 : 1 ≤ s.fld (R.RXF.F_STAT.STATE f)) (h3 : s.fld (R.RXF.F_STAT.STATE f) ≤ 3) (hfmt : s.fld (R.RXF.F_CFG.FORMAT f) < 9)
    (hstep : PlayStep f s (playFlow s f (mcsCount s (s.fld (R.RXF.F_CFG.MCS f))))) :
    exec (.playoutIndexDue (s.fld (R.RXF.F_CFG.MCS f))) s = .next (playFlow s f (mcsCount s (s.fld (R.RXF.F_CFG.MCS f)))) := by
  have hself : playDue (mcsCount s (s.fld (R.RXF.F_CFG.MCS f))) (s.fld (R.RXF.F_CFG.MCS f)) s f =
      playFlow s f (mcsCount s (s.fld (R.RXF.F_CFG.MCS f))) := if_pos ⟨h1, h3, rfl, Nat.ne_of_lt hfmt⟩
  have hfold := foldl_once (g := playDue (mcsCount s (s.fld (R.RXF.F_CFG.MCS f))) (s.fld (R.RXF.F_CFG.MCS f))) (s := s)
    (List.mem_range.mpr hf) List.nodup_range (fun g hg hne => playDue_idle fun _ => .inl (hoff g (List.mem_range.mp hg) hne))
    (fun g hg hne => playDue_idle fun _ => .inl (by
      rw [hself, hstep.regs.fld (f := R.RXF.F_STAT.STATE g) (notPlay_item rfl (by decide) (by decide) (.inl hne))]
      exact hoff g (List.mem_range.mp hg) hne))
  rw [hself] at hfold
  exact congrArg Host.Outcome.next hfold

theorem playoutIndexDue_idle {m : Nat} (h : ∀ g, g < 256 → s.fld (R.RXF.F_CFG.MCS g) = m → s.fld (R.RXF.F_STAT.STATE g) = 0 ∨
    4 ≤ s.fld (R.RXF.F_STAT.STATE g)) : exec (.playoutIndexDue m) s = .next s := by
  have hfold : ∀ l : List Nat, (∀ g ∈ l, g < 256) → l.foldl (playDue (mcsCount s m) m) s = s := by
    intro l hl
    induction l with
    | nil => rfl
    | cons g l ih =>
      rw [List.foldl_cons, playDue_idle (h g (hl g List.mem_cons_self))]
      exact ih fun b hb => hl b (List.mem_cons_of_mem _ hb)
  exact congrArg Host.Outcome.next (hfold (List.range 256) fun g hg => List.mem_range.mp hg)

/-! ### A missing index (R308) -/

/-- Every channel of a flow is concealed. -/
def concealAll (s : State) (f j k : Nat) : State :=
  (List.range (s.fld (R.RXF.F_CHAN.CHANNELS f))).foldl (fun s c => concealChan s f c j k true) s

theorem lane_of_step {t : State} (h : PlayStep f s t) : t.fld (R.RXF.F_CFG.LANE f) = s.fld (R.RXF.F_CFG.LANE f) :=
  h.cfg (o := 0xc100) rfl (by decide) (.inl (by decide))

theorem concealAll_leaves (j k : Nat) (hl : s.fld (R.RXF.F_CFG.LANE f) = 0xFF) : PlayStep f s (concealAll s f j k) ∧
    (concealAll s f j k).gal = s.gal ∧ (∀ g : Fld, g.key = R.RXF.F_STAT.reg f → (concealAll s f j k).fld g = s.fld g) ∧
    ∀ c, c < s.fld (R.RXF.F_CHAN.CHANNELS f) → findSort (concealAll s f j k) (rxIdent s f c) j =
      some (if s.fld (R.RXF.F_CFG.FORMAT f) = 3 then 0 else concWord (s.fld (R.RXF.F_CFG.CONCEAL f)) (concSkip (flowConc s f c) 1),
        s.fld (R.RXF.F_CFG.FORMAT f) == 3 || (flowConc s f c).lastT) := by
  obtain ⟨h1, h2, -, h4, -, h6⟩ := foldl_chans (s := s) (f := f) (j := j) (g := fun s c => concealChan s f c j k true)
    (val := fun _ x => (if s.fld (R.RXF.F_CFG.FORMAT f) = 3 then 0 else concWord (s.fld (R.RXF.F_CFG.CONCEAL f)) (concSkip x 1),
      s.fld (R.RXF.F_CFG.FORMAT f) == 3 || x.lastT))
    (fun u c hu _ => by
      obtain ⟨hstep, hfind⟩ := concealChan_word (s := u) (j := j) (k := k) (c := c) (gang_of_step hu hl)
      rw [rxIdent_of_step hu, hu.cfg (g := R.RXF.F_CFG.FORMAT f) (o := 0xc100) rfl (by decide) (.inl (by decide)),
        hu.cfg (g := R.RXF.F_CFG.CONCEAL f) (o := 0xc100) rfl (by decide) (.inl (by decide))] at hfind
      exact ⟨hstep, hfind⟩)
    (List.range (s.fld (R.RXF.F_CHAN.CHANNELS f))) List.nodup_range (PlayStep.refl s) rfl
  exact ⟨h1, h2, h6, fun c hc => h4 c (List.mem_range.mpr hc)⟩

theorem dxPresent_of_step {t : State} (h : PlayStep f s t) : t.dxPresent = s.dxPresent :=
  dxPresent_of_fld (h.regs.fld (notPlay_low (.inl (by decide))))

/-- A gap in a flow that plays: its channels are concealed and it enters CONCEAL. -/
def gapped (s : State) (f j k : Nat) : State := rxGo (concealAll s f j k) f 3 (if lateIndex (concealAll s f j k) f k then 1 else 2)

theorem gapped_leaves {u : State} (j k : Nat) (hu : PrepStep f s u) (hl : s.fld (R.RXF.F_CFG.LANE f) = 0xFF) (hdx : s.dxPresent = false)
    (hst : s.fld (R.RXF.F_STAT.STATE f) = 2) : PlayStep f s (gapped u f j k) ∧ (gapped u f j k).fld (R.RXF.F_STAT.STATE f) = 3 ∧
      (gapped u f j k).fld (R.RXF.F_STAT.CONCEAL_EV f) = 1 ∧ (gapped u f j k).gal = s.gal ∧
      ∀ c, c < s.fld (R.RXF.F_CHAN.CHANNELS f) → findSort (gapped u f j k) (rxIdent s f c) j =
        some (if s.fld (R.RXF.F_CFG.FORMAT f) = 3 then 0 else concWord (s.fld (R.RXF.F_CFG.CONCEAL f)) (concSkip (flowConc s f c) 1),
          s.fld (R.RXF.F_CFG.FORMAT f) == 3 || (flowConc s f c).lastT) := by
  have hcfg : ∀ g : Fld, g.key = R.RXF.F_CFG.reg f → u.fld g = s.fld g := fun g hg =>
    hu.step.cfg (o := 0xc100) hg (by decide) (.inl (by decide))
  obtain ⟨hstep, hgal, hstat, hsorts⟩ := concealAll_leaves (s := u) (f := f) j k ((hcfg _ rfl).trans hl)
  have hall := hu.step.trans hstep
  have hne : (concealAll u f j k).fld (R.RXF.F_STAT.STATE f) ≠ 3 := by
    rw [hstat _ rfl, hu.stat _ rfl, hst]
    decide
  obtain ⟨hgo, hstate, hgal', hsorts', hev⟩ := rxGo_leaves (st := 3) (if lateIndex (concealAll u f j k) f k then 1 else 2) (by decide)
    ((dxPresent_of_step hall).trans hdx) hne
  refine ⟨hall.trans hgo, hstate, hev rfl, hgal'.trans (hgal.trans hu.gal), fun c hc => ?_⟩
  have hconc : flowConc u f c = flowConc s f c := by rw [flowConc, hu.chans, flowConc]
  rw [findSort, gapped, hsorts', ← findSort, ← rxIdent_of_step hu.step, hsorts c ?_, hcfg _ rfl, hcfg _ rfl, hconc]
  rwa [hu.step.cfg (g := R.RXF.F_CHAN.CHANNELS f) (o := 0xc104) rfl (by decide) (.inl (by decide))]

/-! ### What is read before a playout (R306) -/

/-- The index that is due is noted, and the margins taken that are due with it. -/
def readUpTo (s : State) (f k : Nat) : State := dueMargins (s.setFlow f { s.flow f with readTo := some k }) f k

theorem prepStep_readUpTo (s : State) (f k : Nat) : PrepStep f s (readUpTo s f k) :=
  (PrepStep.setFlow (x := { s.flow f with readTo := some k }) rfl rfl).trans (prepStep_dueMargins _ f k)

theorem gq_of_prep {t : State} (h : PrepStep f s t) (q : Nat) : t.gq q = s.gq q := by rw [State.gq, h.gal, State.gq]

theorem rxQueue_zero (f : Nat) : rxQueue f 0 = 2 * f := rfl

theorem covering_empty {path k : Nat} (h : (s.gq (rxQueue f path)).elems = []) : covering s f path k = none := by
  unfold covering
  dsimp only
  rw [h]
  rfl

theorem seekQueue_empty {path k : Nat} (n : Nat) (h : (s.gq (rxQueue f path)).elems = []) : seekQueue f path k n s = s := by
  cases n with
  | zero => rfl
  | succ n =>
    unfold seekQueue
    dsimp only
    rw [h]
    rfl

/-- What the playout of an index that nothing covers does. -/
def playGap (s u : State) (f j k : Nat) : State :=
  if s.fld (R.RXF.F_STAT.STATE f) = 1 then u
  else
    let u := (List.range (s.fld (R.RXF.F_CHAN.CHANNELS f))).foldl (fun u c => concealChan u f c j k true) u
    if s.fld (R.RXF.F_STAT.STATE f) = 2 then rxGo u f 3 (if lateIndex u f k then 1 else 2) else u

/-- The slot of an index of a seamless flow (R342). -/
def slotNoted (s u : State) (f k took : Nat) (a b : Option GItem) : State :=
  if seamless u f ∧ (2 ≤ s.fld (R.RXF.F_STAT.STATE f) ∨ took ≠ 0) then slotIndex u f k took a b else u

theorem slotNoted_single {u : State} (k took : Nat) (a b : Option GItem) (hp : u.fld (R.RXF.F_CFG.PATHS f) = 1) :
    slotNoted s u f k took a b = u := by
  refine if_neg fun h => ?_
  have h := h.1
  rw [seamless, hp] at h
  exact absurd h (by decide)

/-- What the playout of an index does with the packets of its paths that cover it, path B's where `useB`. -/
def playOut (s u : State) (f j k : Nat) (a b : Option GItem) (useB : Bool) : State :=
  let u := slotNoted s u f k (if useB then 2 else if a.isSome then 1 else 0) a b
  match (if useB then b else a) with
  | none => playGap s u f j k
  | some it =>
    let u := (List.range (s.fld (R.RXF.F_CHAN.CHANNELS f))).foldl (fun u c => playChan u f k j c (b2n useB) it (if useB then a else b)) u
    if s.fld (R.RXF.F_STAT.STATE f) = 2 then u else rxGo u f 2 3

/-- Whether the packet of path B is taken (R341). -/
def pathBTaken (s : State) (f : Nat) (a b : Option GItem) : Bool :=
  match a, b with
  | none, some _ => true
  | some i, some o =>
    s.fld (R.RED.F_CFG.PREF f) == 2 ||
      (s.fld (R.RED.F_CFG.PREF f) == 0 && decide (toSigned 32 (ofSigned 32 ((arrivalOf o : Int) - (arrivalOf i : Int))) < 0))
  | _, _ => false

/-- The queues of the paths are advanced to index `k`. -/
def soughtTo (s : State) (f k : Nat) : State :=
  let u := readUpTo s f k
  let u := if nbit (s.fld (R.RXF.F_CFG.PATHS f)) 0 || u.dxPresent then seekQueue f 0 k ((u.gq (rxQueue f 0)).elems.length + 1) u else u
  if nbit (s.fld (R.RXF.F_CFG.PATHS f)) 1 then seekQueue f 1 k ((u.gq (rxQueue f 1)).elems.length + 1) u else u

theorem playIndex_none (j : Nat) : playIndex f j none s = playGap s s f j 0 := rfl

theorem playIndex_some (j k : Nat) : playIndex f j (some k) s = playOut s (soughtTo s f k) f j k
    (if nbit (s.fld (R.RXF.F_CFG.PATHS f)) 0 || (soughtTo s f k).dxPresent then covering (soughtTo s f k) f 0 k else none)
    (if nbit (s.fld (R.RXF.F_CFG.PATHS f)) 1 then covering (soughtTo s f k) f 1 k else none)
    (pathBTaken (soughtTo s f k) f
      (if nbit (s.fld (R.RXF.F_CFG.PATHS f)) 0 || (soughtTo s f k).dxPresent then covering (soughtTo s f k) f 0 k else none)
      (if nbit (s.fld (R.RXF.F_CFG.PATHS f)) 1 then covering (soughtTo s f k) f 1 k else none)) := rfl

theorem soughtTo_single (k : Nat) (hp : s.fld (R.RXF.F_CFG.PATHS f) = 1) :
    soughtTo s f k = seekQueue f 0 k (((readUpTo s f k).gq (2 * f)).elems.length + 1) (readUpTo s f k) := by
  unfold soughtTo
  dsimp only
  rw [hp]
  rfl

/-- A flow of path A alone reads that path's queue. -/
theorem playIndex_single {j k : Nat} (hp : s.fld (R.RXF.F_CFG.PATHS f) = 1) :
    playIndex f j (some k) s = playOut s (soughtTo s f k) f j k (covering (soughtTo s f k) f 0 k) none false := by
  have htaken : ∀ a, pathBTaken (soughtTo s f k) f a none = false := fun a => by cases a <;> rfl
  have ha : nbit 1 0 = true := rfl
  have hb : ¬ nbit 1 1 = true := Bool.false_ne_true
  rw [playIndex_some, hp, if_pos (by rw [ha]; rfl), if_neg hb, htaken]

theorem playOut_gap {u : State} {j k : Nat} (hp : u.fld (R.RXF.F_CFG.PATHS f) = 1) :
    playOut s u f j k none none false = playGap s u f j k := by
  unfold playOut
  dsimp only
  rw [slotNoted_single _ _ _ _ hp]
  rfl

theorem playOut_item {u : State} {j k : Nat} (it : GItem) (hp : u.fld (R.RXF.F_CFG.PATHS f) = 1) :
    playOut s u f j k (some it) none false = if s.fld (R.RXF.F_STAT.STATE f) = 2 then
      (List.range (s.fld (R.RXF.F_CHAN.CHANNELS f))).foldl (fun u c => playChan u f k j c 0 it none) u
    else rxGo ((List.range (s.fld (R.RXF.F_CHAN.CHANNELS f))).foldl (fun u c => playChan u f k j c 0 it none) u) f 2 3 := by
  unfold playOut
  dsimp only
  rw [slotNoted_single _ _ _ _ hp]
  rfl

theorem playGap_gapped {u : State} {j k : Nat} (hu : PrepStep f s u) (hst : s.fld (R.RXF.F_STAT.STATE f) = 2) :
    playGap s u f j k = gapped u f j k := by
  have hch : u.fld (R.RXF.F_CHAN.CHANNELS f) = s.fld (R.RXF.F_CHAN.CHANNELS f) :=
    hu.step.cfg (o := 0xc104) rfl (by decide) (.inl (by decide))
  unfold playGap
  dsimp only
  rw [hst, if_neg (by decide), if_pos rfl, gapped, concealAll, hch]

/-- An empty queue leaves a gap. -/
theorem playIndex_empty (j : Nat) (due : Option Nat) (hp : s.fld (R.RXF.F_CFG.PATHS f) = 1) (hst : s.fld (R.RXF.F_STAT.STATE f) = 2)
    (he : (s.gq (2 * f)).elems = []) : ∃ u k, PrepStep f s u ∧ playIndex f j due s = gapped u f j k := by
  cases due with
  | none => exact ⟨s, 0, .refl s, (playIndex_none j).trans (playGap_gapped (.refl s) hst)⟩
  | some k =>
    have hprep := prepStep_readUpTo s f k
    have heu : ((readUpTo s f k).gq (rxQueue f 0)).elems = [] := by rw [gq_of_prep hprep, rxQueue_zero, he]
    have hsought : soughtTo s f k = readUpTo s f k := (soughtTo_single k hp).trans (seekQueue_empty _ heu)
    have hpt : (readUpTo s f k).fld (R.RXF.F_CFG.PATHS f) = 1 :=
      (hprep.step.cfg (o := 0xc100) rfl (by decide) (.inl (by decide))).trans hp
    refine ⟨readUpTo s f k, k, hprep, ?_⟩
    rw [playIndex_single hp, hsought, covering_empty heu, playOut_gap hpt, playGap_gapped hprep hst]

theorem playoutIndexDue_gap (hf : f < 256) (hoff : ∀ g, g < 256 → g ≠ f → s.fld (R.RXF.F_STAT.STATE g) = 0)
    (hst : s.fld (R.RXF.F_STAT.STATE f) = 2) (hfmt : s.fld (R.RXF.F_CFG.FORMAT f) < 9) (hp : s.fld (R.RXF.F_CFG.PATHS f) = 1)
    (hl : s.fld (R.RXF.F_CFG.LANE f) = 0xFF) (hdx : s.dxPresent = false) (he : (s.gq (2 * f)).elems = []) :
    Goes (.playoutIndexDue (s.fld (R.RXF.F_CFG.MCS f))) s fun t => t.fld (R.RXF.F_STAT.STATE f) = 3 ∧
        t.fld (R.RXF.F_STAT.CONCEAL_EV f) = 1 ∧ t.gal = s.gal ∧ (∀ g, g ≠ f → t.flow g = s.flow g) ∧
        ∀ c, c < s.fld (R.RXF.F_CHAN.CHANNELS f) →
          findSort t (rxIdent s f c) (mcsCount s (s.fld (R.RXF.F_CFG.MCS f))) =
            some (if s.fld (R.RXF.F_CFG.FORMAT f) = 3 then 0 else
              concWord (s.fld (R.RXF.F_CFG.CONCEAL f)) (concSkip (flowConc s f c) 1),
              s.fld (R.RXF.F_CFG.FORMAT f) == 3 || (flowConc s f c).lastT) := by
  obtain ⟨u, k, hu, hplay⟩ := playIndex_empty (mcsCount s (s.fld (R.RXF.F_CFG.MCS f)))
    (dueIndex s f (mcsCount s (s.fld (R.RXF.F_CFG.MCS f)))) hp hst he
  obtain ⟨hstep, hstate, hev, hgal, hsorts⟩ := gapped_leaves (mcsCount s (s.fld (R.RXF.F_CFG.MCS f))) k hu hl hdx hst
  have hflow := playFlow_plain hl (hplay.symm ▸ hstep)
  have hexec := exec_playoutIndexDue hf hoff (by omega) (by omega) hfmt (by rw [hflow, hplay]; exact hstep)
  rw [hflow, hplay] at hexec
  exact ⟨_, hexec, hstate, hev, hgal, hstep.others, hsorts⟩

/-! ### A packet that covers the index (R306) -/

theorem sampleWord_of_step {t : State} (h : PlayStep f s t) (k c : Nat) (it : GItem) : sampleWord t f k c it = sampleWord s f k c it := by
  unfold sampleWord sampleAt
  rw [h.cfg (g := R.RXF.F_CFG.FORMAT f) (o := 0xc100) rfl (by decide) (.inl (by decide)),
    h.cfg (g := R.RXF.F_CHAN.CHANNELS f) (o := 0xc104) rfl (by decide) (.inl (by decide))]

theorem rxN_of_step {t : State} (h : PlayStep f s t) : rxN t f = rxN s f := by
  rw [rxN, h.cfg (g := R.RXF.F_CFG.PTIME f) (o := 0xc100) rfl (by decide) (.inl (by decide)),
    h.cfg (g := R.RXF.F_CFG.MCS f) (o := 0xc100) rfl (by decide) (.inl (by decide)), h.clocks.rate _ (cfgMcs_lt s f), rxN]

/-- Queue `q`'s front is read, and no word of it is bad. -/
def frontRead (s : State) (f q : Nat) : State :=
  let u := s.setGq q { s.gq q with rd := 1 }
  u.setFlow f { u.flow f with bad := modifyAt (u.flow f).bad 0 (fun _ => []) }

theorem seekQueue_front {k n : Nat} {it : GItem} (he : (s.gq (2 * f)).elems = [.item it]) (hrd : (s.gq (2 * f)).rd = 0)
    (hlive : it.live = true) (hflips : s.gal.flips = []) (hlo : it.ts ≤ k) (hhi : k < it.ts + rxN s f) :
    seekQueue f 0 k (n + 1) s = frontRead s f (2 * f) := by
  have hvis : (s.gq (2 * f)).visible = 1 := by
    rw [GQueue.visible, he, List.takeWhile_cons_of_pos (show GElem.live (.item it) = true from hlive)]
    rfl
  have hdepth : (s.gq (2 * f)).depth ≠ 0 := by
    rw [GQueue.depth, hvis, hrd]
    decide
  have hpop := galPop_clean (e := .item it) hdepth (by rw [hrd, he]; rfl) hflips
  have hskip : ¬ (1 = 0 ∨ k < elemStart s f (.item it)) := by
    show ¬ (1 = 0 ∨ k < it.ts)
    omega
  have hin : ¬ (decide (elemEnd s f (.item it) ≤ k) || (GElem.isSlug (.item it) && false)) = true := by
    have : ¬ elemEnd s f (.item it) ≤ k := by
      show ¬ it.ts + rxN s f ≤ k
      omega
    rw [decide_eq_false this]
    exact Bool.false_ne_true
  unfold seekQueue
  dsimp only
  rw [rxQueue_zero, he]
  dsimp only [List.head?_cons]
  rw [hvis, if_neg hskip]
  refine (if_neg hin).trans ((if_pos hrd).trans ?_)
  rw [hpop, hrd]
  rfl

end

end Sys2Proof.Machine
end

section
/-! Settles O42: the steps of playout, placement, kerning and path loss (R263 to R265, R306 to R309, R312, R342). -/

namespace Sys2Proof.Machine

section
variable {s : State} {f : Nat}

theorem playStep_frontRead (s : State) (f q : Nat) : PlayStep f s (frontRead s f q) := (PlayStep.setGq s q _).trans (.setFlow ..)

theorem gq_frontRead (s : State) (f q : Nat) : (frontRead s f q).gq q = { s.gq q with rd := 1 } := gq_setGq_self _ _ _

theorem bad_frontRead (s : State) (f q : Nat) : ((frontRead s f q).flow f).bad.getD 0 [] = [] := by
  have hbad : ∀ l : List (List Nat), (modifyAt l 0 fun _ => []).getD 0 [] = [] := fun l => by
    cases l with
    | nil => rfl
    | cons a l => exact getD_modifyAt_self _ _ (Nat.zero_lt_succ _)
  rw [frontRead, flow_setFlow_self]
  exact hbad _

theorem stat_frontRead (s : State) (f q : Nat) (g : Fld) : (frontRead s f q).fld g = s.fld g := rfl

theorem covering_frontRead {k : Nat} {it : GItem} (he : (s.gq (2 * f)).elems = [.item it]) (hlo : it.ts ≤ k) (hhi : k < it.ts + rxN s f) :
    covering (frontRead s f (2 * f)) f 0 k = some it := by
  unfold covering
  dsimp only
  rw [rxQueue_zero, gq_frontRead, he, rxN_of_step (playStep_frontRead s f (2 * f))]
  exact if_pos ⟨Nat.one_pos, hlo, hhi⟩

/-- Every channel of a flow has its sample of a packet. -/
theorem playAll_leaves {u : State} {j k : Nat} {it : GItem} (hu : PlayStep f s u) (hl : s.fld (R.RXF.F_CFG.LANE f) = 0xFF)
    (hb : (u.flow f).bad.getD 0 [] = []) (l : List Nat) (hnd : l.Nodup) :
    PlayStep f s (l.foldl (fun u c => playChan u f k j c 0 it none) u) ∧
      (l.foldl (fun u c => playChan u f k j c 0 it none) u).gal = u.gal ∧
      (∀ g : Fld, g.key = R.RXF.F_STAT.reg f → (l.foldl (fun u c => playChan u f k j c 0 it none) u).fld g = u.fld g) ∧
      ∀ c ∈ l, findSort (l.foldl (fun u c => playChan u f k j c 0 it none) u) (rxIdent s f c) j =
        some ((concGood (s.fld (R.RXF.F_CFG.CONCEAL f)) (flowConc u f c) (sampleWord s f k c it).1 (sampleWord s f k c it).2.1).1,
          (sampleWord s f k c it).2.1) := by
  have hlu : u.fld (R.RXF.F_CFG.LANE f) = 0xFF := (lane_of_step hu).trans hl
  obtain ⟨h1, h2, -, h4, -, h6⟩ := foldl_chans (s := u) (f := f) (j := j) (g := fun s c => playChan s f k j c 0 it none)
    (val := fun c x => ((concGood (s.fld (R.RXF.F_CFG.CONCEAL f)) x (sampleWord s f k c it).1 (sampleWord s f k c it).2.1).1,
      (sampleWord s f k c it).2.1))
    (fun v c hv hbv => by
      obtain ⟨hstep, hfind⟩ := playChan_word (s := v) (j := j) (k := k) (c := c) (it := it) (gang_of_step hv hlu) (by rw [hbv, hb])
      rw [rxIdent_of_step hv, sampleWord_of_step hv, sampleWord_of_step hu,
        hv.cfg (g := R.RXF.F_CFG.CONCEAL f) (o := 0xc100) rfl (by decide) (.inl (by decide)),
        hu.cfg (g := R.RXF.F_CFG.CONCEAL f) (o := 0xc100) rfl (by decide) (.inl (by decide))] at hfind
      exact ⟨hstep, hfind⟩)
    l hnd (PlayStep.refl u) rfl
  refine ⟨hu.trans h1, h2, h6, fun c hc => ?_⟩
  rw [← rxIdent_of_step hu, h4 c hc]

theorem dueIndex_plain {j : Nat} (hstep : (s.flow f).step = none) (hslew : (s.flow f).slew = none)
    (hj : s.fld (R.RXF.F_OFFSET_NOW.SAMPLES f) ≤ j) : dueIndex s f j = some (j - s.fld (R.RXF.F_OFFSET_NOW.SAMPLES f)) := by
  have hoff : linkOffset s f = s.fld (R.RXF.F_OFFSET_NOW.SAMPLES f) := by
    unfold linkOffset
    dsimp only
    rw [hslew]
    exact Int.toNat_natCast _
  unfold dueIndex
  dsimp only
  rw [hstep, hoff]
  exact if_pos hj

/-- What is left by the playout of an index that a packet covers. -/
structure Played (s : State) (f j k : Nat) (it : GItem) (t : State) : Prop where
  step  : PlayStep f s t
  state : t.fld (R.RXF.F_STAT.STATE f) = 2
  read  : (t.gq (2 * f)).rd = 1
  words : ∀ c, c < s.fld (R.RXF.F_CHAN.CHANNELS f) → (flowConc s f c).scale = 64 →
    findSort t (rxIdent s f c) j = some ((sampleWord s f k c it).1, (sampleWord s f k c it).2.1)

theorem played_playIndex {j k : Nat} {it : GItem} (hp : s.fld (R.RXF.F_CFG.PATHS f) = 1) (hl : s.fld (R.RXF.F_CFG.LANE f) = 0xFF)
    (hdx : s.dxPresent = false) (hflips : s.gal.flips = []) (he : (s.gq (2 * f)).elems = [.item it])
    (hrd : (s.gq (2 * f)).rd = 0) (hlive : it.live = true) (hlo : it.ts ≤ k) (hhi : k < it.ts + rxN s f) :
    Played s f j k it (playIndex f j (some k) s) := by
  have hprep := prepStep_readUpTo s f k
  have heu : ((readUpTo s f k).gq (2 * f)).elems = [.item it] := by rw [gq_of_prep hprep, he]
  have hhiu : k < it.ts + rxN (readUpTo s f k) f := by rwa [rxN_of_step hprep.step]
  have hsought : soughtTo s f k = frontRead (readUpTo s f k) f (2 * f) :=
    (soughtTo_single k hp).trans (seekQueue_front heu (by rw [gq_of_prep hprep, hrd]) hlive (by rw [hprep.gal, hflips]) hlo hhiu)
  have hu : PlayStep f s (frontRead (readUpTo s f k) f (2 * f)) := hprep.step.trans (playStep_frontRead ..)
  have hpu : (frontRead (readUpTo s f k) f (2 * f)).fld (R.RXF.F_CFG.PATHS f) = 1 :=
    (hu.cfg (o := 0xc100) rfl (by decide) (.inl (by decide))).trans hp
  obtain ⟨hall, hgal, hstat, hword⟩ := playAll_leaves (j := j) (k := k) (it := it) hu hl (bad_frontRead _ f _)
    (List.range (s.fld (R.RXF.F_CHAN.CHANNELS f))) List.nodup_range
  have hread : ∀ t : State, t.gal = (frontRead (readUpTo s f k) f (2 * f)).gal → (t.gq (2 * f)).rd = 1 := fun t ht => by
    rw [State.gq, ht, ← State.gq, gq_frontRead]
  have hconc : ∀ c, flowConc (frontRead (readUpTo s f k) f (2 * f)) f c = flowConc s f c := fun c => by
    rw [flowConc, frontRead, flow_setFlow_self]
    show sGet _ ((readUpTo s f k).flow f).chans c = _
    rw [hprep.chans, flowConc]
  have hwhole : ∀ t : State, t.sorts = ((List.range (s.fld (R.RXF.F_CHAN.CHANNELS f))).foldl (fun u c => playChan u f k j c 0 it none)
      (frontRead (readUpTo s f k) f (2 * f))).sorts → ∀ c, c < s.fld (R.RXF.F_CHAN.CHANNELS f) → (flowConc s f c).scale = 64 →
      findSort t (rxIdent s f c) j = some ((sampleWord s f k c it).1, (sampleWord s f k c it).2.1) := fun t ht c hc hs => by
    rw [findSort, ht, ← findSort, hword c (List.mem_range.mpr hc), hconc, concGood_whole _ _ _ hs]
  rw [playIndex_single hp, hsought, covering_frontRead heu hlo hhiu, playOut_item it hpu]
  generalize (List.range (s.fld (R.RXF.F_CHAN.CHANNELS f))).foldl (fun u c => playChan u f k j c 0 it none)
    (frontRead (readUpTo s f k) f (2 * f)) = t at hall hgal hstat hwhole
  have hstate : t.fld (R.RXF.F_STAT.STATE f) = s.fld (R.RXF.F_STAT.STATE f) := by rw [hstat _ rfl, stat_frontRead, hprep.stat _ rfl]
  by_cases h2 : s.fld (R.RXF.F_STAT.STATE f) = 2
  · rw [if_pos h2]
    exact ⟨hall, hstate.trans h2, hread t hgal, hwhole t rfl⟩
  · rw [if_neg h2]
    obtain ⟨hgo, hstate', hgal', hsorts', -⟩ := rxGo_leaves (st := 2) 3 (by decide) ((dxPresent_of_step hall).trans hdx)
      (by rw [hstate]; exact h2)
    exact ⟨hall.trans hgo, hstate', hread _ (hgal'.trans hgal), hwhole _ hsorts'⟩

end

/-- Settles O42. -/
theorem playoutAndKerningSteps : Obligations.PlayoutAndKerningSteps := by
  unfold Obligations.PlayoutAndKerningSteps
  intro s f hf
  refine ⟨fun m h => playoutIndexDue_idle h, ?_, fun hoff hst hfmt hp hl hdx _ he => playoutIndexDue_gap hf hoff hst hfmt hp hl hdx he,
    ?_, ?_, ?_, ?_, ?_⟩
  · intro it hoff h1 h3 hfmt hp hl hdx hstep hslew hflips he hrd hlive hlo hhi
    have hdue := dueIndex_plain hstep hslew (Nat.le_trans (Nat.le_add_left _ _) hlo)
    have hplay := played_playIndex (s := s) (f := f) (j := mcsCount s (s.fld (R.RXF.F_CFG.MCS f)))
      (k := mcsCount s (s.fld (R.RXF.F_CFG.MCS f)) - s.fld (R.RXF.F_OFFSET_NOW.SAMPLES f)) hp hl hdx hflips he hrd hlive (by omega) (by omega)
    rw [← hdue] at hplay
    have hflow := playFlow_plain hl hplay.step
    have hexec := exec_playoutIndexDue hf hoff h1 h3 hfmt (by rw [hflow]; exact hplay.step)
    rw [hflow] at hexec
    have hframe := hplay.step.frame
    exact ⟨_, hexec, hplay.state, by rw [hframe], by rw [hframe], hplay.step.others, hplay.read, hplay.words⟩
  · intro m hp hon ha hs hn hm
    have hexec := exec_placementWindowEnd hp hon ha hs hn
    refine ⟨fun hlate hlo hhi => ?_, fun d hlow htwin hd hne hleast hmost => ?_⟩
    · rw [windowEnd_within hm hlate hlo hhi] at hexec
      exact ⟨_, hexec, rfl, fun _ hg => flow_setFlow_ne s _ hg, flow_setFlow_self s f _⟩
    · rw [windowEnd_slews hm hlow htwin hd hne hleast hmost] at hexec
      exact ⟨_, hexec, startSlew_leaves _ _ _ _⟩
  · exact fun w hw hgang hdone => kerningSlewEnd_goes hw hgang hdone
  · exact fun h => kerningSlewEnd_early h
  · exact fun n hn hlen hst => krnTrackDone_goes hn hlen hst
  · exact fun path _ hs hst => ⟨fun hloss => redPathLoss_goes hs hst hloss, fun h => redPathLoss_waits h⟩

end Sys2Proof.Machine
end

section
/-! What a detection of the line guard leaves (R432, R440 to R444). -/

namespace Sys2Proof.Machine

/-- From `s` to `t` nothing but registers and latches changes. -/
def GrdFrame (s t : State) : Prop := t = { s with rf := t.rf, latched := t.latched }

namespace GrdFrame

variable {s t u : State}

theorem trans (h : GrdFrame s t) (k : GrdFrame t u) : GrdFrame s u := by
  unfold GrdFrame at *
  rw [k, h]

theorem of_rf (h : RfFrame s t) : GrdFrame s t := by
  unfold RfFrame GrdFrame at *
  generalize t.rf = r at h
  subst h
  rfl

theorem latchOnce (s : State) (k : Nat) (l : List (Fld × Nat)) : GrdFrame s (s.latchOnce k l) := latchOnce_frame s k l

end GrdFrame

/-- The guard's counter `i`. -/
def grdCntFld (i : Nat) : Fld :=
  { R.GRD.LANE_CNT.COUNT with key := if i < 16 then R.GRD.TDM_CNT.reg i else R.GRD.LANE_CNT.reg + 4 * (i - 16) }

theorem grdCntFld_tdm {n : Nat} (h : n < 16) : grdCntFld n = R.GRD.TDM_CNT.COUNT n := by
  rw [grdCntFld, if_pos h]
  rfl

/-- A detection is counted and, where the latch is clear, latched. -/
def grdSeen (s : State) (i cls idx pin kind : Nat) : State := grdLast (grdCount s i) cls idx pin kind

section
variable (s : State) (i cls idx pin kind : Nat)

theorem grdCount_frame : RfFrame s (grdCount s i) := countSat_frame s _ _ i

theorem fld_countSat {f sat : Fld} (h : (f.lo + f.w).ble 32 = true) (hne : f.key ≠ sat.key) :
    (s.countSat f sat i).fld f = min (2 ^ f.w - 1) (s.fld f + 1) := by
  unfold State.countSat
  dsimp only
  split
  · rw [State.fld_setFld_ne _ _ hne, fld_count_min s h]
  · exact fld_count_min s h

theorem grdSeen_frame : GrdFrame s (grdSeen s i cls idx pin kind) :=
  (GrdFrame.of_rf (grdCount_frame s i)).trans (.latchOnce _ _ _)

theorem touches_grdSeen : Touches (grdFlds i) s (grdSeen s i cls idx pin kind) :=
  touches_grdLast i _ _ _ _ (fun _ h => h) (touches_grdCount i (fun _ h => h) (.refl _ s))

end

section
variable {s : State} {i : Nat}

theorem grdCntFld_key (hi : i < 19) : 0x14200 ≤ (grdCntFld i).key ∧ (grdCntFld i).key < 0x14250 := by
  unfold grdCntFld
  dsimp only
  split <;> simp only [R.GRD.TDM_CNT.reg, R.GRD.LANE_CNT.reg] <;> omega

theorem fld_grdCount (hi : i < 19) : (grdCount s i).fld (grdCntFld i) = min (2 ^ 32 - 1) (s.fld (grdCntFld i) + 1) :=
  fld_countSat s i rfl (Nat.ne_of_lt (grdCntFld_key hi).2)

/-- A register that a detection leaves: neither a counter nor the SAT bits nor the latch. -/
theorem fld_grdSeen (hi : i < 19) (cls idx pin kind : Nat) {g : Fld} (hg : g.key < 0x14010 ∨ (0x14010 < g.key ∧ g.key < 0x14200)) :
    (grdSeen s i cls idx pin kind).fld g = s.fld g := by
  have hc := grdCntFld_key hi
  refine (touches_grdSeen s i cls idx pin kind).fld fun x hx => Fld.apart_of_key_ne ?_
  simp only [grdFlds, List.mem_cons, List.not_mem_nil, or_false] at hx
  rcases hx with rfl | rfl | rfl | rfl | rfl | rfl
  · have hk : g.key ≠ (grdCntFld i).key := by omega
    exact hk
  all_goals simp only [R.GRD.SAT.SAT_F, R.GRD.LAST.CLASS, R.GRD.LAST.INDEX, R.GRD.LAST.PIN, R.GRD.LAST.KIND]; omega

theorem fld_grdLast (cls idx pin kind : Nat) {g : Fld} (hg : g.key ≠ R.GRD.LAST.reg) : (grdLast s cls idx pin kind).fld g = s.fld g := by
  refine fld_latchOnce s _ ?_
  simp only [List.all_cons, List.all_nil, Bool.and_true, Bool.and_eq_true]
  exact ⟨Fld.apart_of_key_ne hg, Fld.apart_of_key_ne hg, Fld.apart_of_key_ne hg, Fld.apart_of_key_ne hg⟩

theorem fld_grdSeen_count (hi : i < 19) (cls idx pin kind : Nat) :
    (grdSeen s i cls idx pin kind).fld (grdCntFld i) = min (2 ^ 32 - 1) (s.fld (grdCntFld i) + 1) := by
  have hc := grdCntFld_key hi
  rw [grdSeen, fld_grdLast _ _ _ _ (show (grdCntFld i).key ≠ 0x14010 by omega), fld_grdCount hi]

theorem latched_grdCount : (grdCount s i).latched = s.latched := by rw [grdCount_frame]

theorem fld_latchOnce_first {k : Nat} {fs : List (Fld × Nat)} (h : k ∉ s.latched) (g : Fld) :
    (s.latchOnce k fs).fld g = (s.setFlds fs).fld g := by
  unfold State.latchOnce
  rw [if_neg (by simpa using h)]
  rfl

/-- The first detection is kept in GRD.LAST (R444). -/
theorem grdSeen_latches {cls idx pin kind : Nat} (h : R.GRD.LAST.reg ∉ s.latched) (hc : cls < 4) (hx : idx < 64) (hp : pin < 8) (hk : kind < 16) :
    (grdSeen s i cls idx pin kind).fld R.GRD.LAST.CLASS = cls ∧ (grdSeen s i cls idx pin kind).fld R.GRD.LAST.INDEX = idx ∧
      (grdSeen s i cls idx pin kind).fld R.GRD.LAST.PIN = pin ∧ (grdSeen s i cls idx pin kind).fld R.GRD.LAST.KIND = kind := by
  have hrun := fld_latchOnce_first (s := grdCount s i) (k := R.GRD.LAST.reg)
    (fs := [(R.GRD.LAST.CLASS, cls), (R.GRD.LAST.INDEX, idx), (R.GRD.LAST.PIN, pin), (R.GRD.LAST.KIND, kind)]) (by rwa [latched_grdCount])
  unfold grdSeen grdLast
  generalize grdCount s i = u at hrun
  rw [hrun, hrun, hrun, hrun]
  exact ⟨State.fld_setFlds _ 0 rfl rfl rfl hc, State.fld_setFlds _ 1 rfl rfl rfl hx, State.fld_setFlds _ 2 rfl rfl rfl hp,
    State.fld_setFlds _ 3 rfl rfl rfl hk⟩

/-- A later one leaves it as it is. -/
theorem rd_grdSeen_latched (hi : i < 19) (cls idx pin kind : Nat) (h : R.GRD.LAST.reg ∈ s.latched) :
    (grdSeen s i cls idx pin kind).rd R.GRD.LAST.reg = s.rd R.GRD.LAST.reg := by
  have hc := grdCntFld_key hi
  have hrun : grdSeen s i cls idx pin kind = grdCount s i := by
    unfold grdSeen grdLast State.latchOnce
    rw [latched_grdCount]
    exact if_pos (by simpa using h)
  rw [hrun]
  refine (touches_countSat (l := [grdCntFld i, R.GRD.SAT.SAT_F]) i (by simp [grdCntFld]) (by simp) (.refl _ s)).rd fun x hx => ?_
  simp only [List.mem_cons, List.not_mem_nil, or_false] at hx
  rcases hx with rfl | rfl
  · show (grdCntFld i).key ≠ 0x14010
    omega
  · decide

end

end Sys2Proof.Machine
end

section
/-! Settles O53: losses of a lane's signal and faults of the TIO pins (R440, R442, R443). -/

namespace Sys2Proof.Machine

section
variable {s : State}

theorem touches_setBitOf (s : State) (f : Fld) (i : Nat) (b : Bool) : Touches [f] s (setBitOf s f i b) :=
  touches_setFld List.mem_cons_self (.refl _ s)

theorem setBitOf_frame (s : State) (f : Fld) (i : Nat) (b : Bool) : RfFrame s (setBitOf s f i b) := RfFrame.setFld (RfFrame.refl s) f _

theorem nbit_setBitOf (s : State) {f : Fld} {i : Nat} (b : Bool) (hf : (f.lo + f.w).ble 32 = true) (hi : i < f.w) :
    nbit ((setBitOf s f i b).fld f) i = b := by
  rw [setBitOf, nbit_fld_setBit s f b hf i hi, if_pos rfl]

theorem fld_setBitOf_ne (s : State) {f g : Fld} (i : Nat) (b : Bool) (h : g.key ≠ f.key) : (setBitOf s f i b).fld g = s.fld g :=
  State.fld_setFld_ne _ _ h

theorem grdOn_of_fld {t : State} {c : Nat} (h : t.fld R.GRD.CTL.CLASSES = s.fld R.GRD.CTL.CLASSES) : grdOn t c = grdOn s c := by
  rw [grdOn, h, grdOn]

/-! ### Lanes (R440) -/

theorem laneDetect_on {lane kind : Nat} (h : grdOn s 3 = true) :
    laneDetect s lane kind = grdSeen (s.setFld R.GRD.LANE_STAT.LANE_EV 1) 16 1 lane 0 kind := if_pos h

theorem lossOfSignal_goes {lane : Nat} (lost : Bool) (hon : grdOn s 3 = true) (hl : lane < 6) : Goes (.grdLossOfSignal lane lost) s fun t =>
    t = { s with rf := t.rf, latched := t.latched } ∧ nbit (t.fld R.GRD.LANE_STAT.LOS) lane = lost ∧
      (lost = true → nbit (s.fld R.GRD.LANE_STAT.LOS) lane = false → t.fld R.GRD.LANE_STAT.LANE_EV = 1 ∧
        t.fld R.GRD.LANE_CNT.COUNT = min (2 ^ 32 - 1) (s.fld R.GRD.LANE_CNT.COUNT + 1)) ∧
      (lost = false → Touches [R.GRD.LANE_STAT.LOS] s t) := by
  have hno : ¬ ((!grdOn s 3) = true ∨ 6 ≤ lane) := by
    rw [hon]
    simp only [Bool.not_true, Bool.false_eq_true, false_or]
    omega
  have hrun : exec (.grdLossOfSignal lane lost) s = .next (if lost && !nbit (s.fld R.GRD.LANE_STAT.LOS) lane then
      laneDetect (setBitOf s R.GRD.LANE_STAT.LOS lane lost) lane 9 else setBitOf s R.GRD.LANE_STAT.LOS lane lost) := if_neg hno
  have hframe := setBitOf_frame s R.GRD.LANE_STAT.LOS lane lost
  have hlos := nbit_setBitOf s (f := R.GRD.LANE_STAT.LOS) lost rfl hl
  have hkeep : ∀ g : Fld, g.key ≠ 0x14020 → (setBitOf s R.GRD.LANE_STAT.LOS lane lost).fld g = s.fld g := fun g hg =>
    fld_setBitOf_ne s lane lost hg
  have htouch := touches_setBitOf s R.GRD.LANE_STAT.LOS lane lost
  by_cases hnew : (lost && !nbit (s.fld R.GRD.LANE_STAT.LOS) lane) = true
  · rw [if_pos hnew, laneDetect_on ((grdOn_of_fld (hkeep _ (by decide))).trans hon)] at hrun
    have hlost : lost = true := ((Bool.and_eq_true _ _).mp hnew).1
    refine ⟨_, hrun, ?_, ?_, fun _ _ => ⟨?_, ?_⟩, fun h => absurd (h.symm.trans hlost) Bool.false_ne_true⟩
    · exact (GrdFrame.of_rf (hframe.setFld _ _)).trans (grdSeen_frame ..)
    · rw [fld_grdSeen (by decide) _ _ _ _ (.inr (by decide)), State.fld_setFld_above _ _ rfl, hlos]
    · rw [fld_grdSeen (by decide) _ _ _ _ (.inr (by decide))]
      exact State.fld_setFld_mod _ _ _ rfl
    · refine (fld_grdSeen_count (by decide) _ _ _ _).trans ?_
      show min _ ((State.setFld _ _ _).fld R.GRD.LANE_CNT.COUNT + 1) = _
      rw [State.fld_setFld_ne _ _ (by decide), hkeep _ (by decide)]
  · rw [if_neg hnew] at hrun
    refine ⟨_, hrun, GrdFrame.of_rf hframe, hlos, fun h1 h2 => ?_, fun _ => htouch⟩
    rw [h1, h2] at hnew
    exact absurd rfl hnew

/-! ### TIO pins (R442, R443) -/

theorem tioDetect_on {pin kind : Nat} (h : grdOn s 4 = true) :
    tioDetect s pin kind = grdSeen (s.setFld R.GRD.TIO_STAT.TIO_EV 1) 17 2 pin 0 kind := if_pos h

/-- A TIO pin's detection while its class is enabled. -/
structure TioSeen (pin kind : Nat) (s t : State) : Prop where
  frame : GrdFrame s t
  event : t.fld R.GRD.TIO_STAT.TIO_EV = 1
  count : t.fld R.GRD.TIO_CNT.COUNT = min (2 ^ 32 - 1) (s.fld R.GRD.TIO_CNT.COUNT + 1)
  keeps : ∀ g : Fld, g.key = R.GRD.TIO_STAT.reg → g.apart R.GRD.TIO_STAT.TIO_EV = true → t.fld g = s.fld g
  last  : R.GRD.LAST.reg ∉ s.latched → pin < 64 → kind < 16 →
    t.fld R.GRD.LAST.CLASS = 2 ∧ t.fld R.GRD.LAST.INDEX = pin ∧ t.fld R.GRD.LAST.KIND = kind

theorem tioSeen_tioDetect (pin kind : Nat) (h : grdOn s 4 = true) : TioSeen pin kind s (tioDetect s pin kind) := by
  rw [tioDetect_on h]
  refine ⟨(GrdFrame.of_rf (RfFrame.setFld (RfFrame.refl s) _ _)).trans (grdSeen_frame ..), ?_, ?_, fun g hg ha => ?_, fun hl hp hk => ?_⟩
  · rw [fld_grdSeen (by decide) _ _ _ _ (.inr (by decide))]
    exact State.fld_setFld_mod _ _ _ rfl
  · exact (fld_grdSeen_count (by decide) _ _ _ _).trans (congrArg (fun n => min (2 ^ 32 - 1) (n + 1)) (State.fld_setFld_ne s _ (by decide)))
  · rw [fld_grdSeen (by decide) _ _ _ _ (.inr (by rw [hg]; decide))]
    exact (touches_setFld (l := [R.GRD.TIO_STAT.TIO_EV]) List.mem_cons_self (.refl _ s)).fld fun x hx => by rwa [List.mem_singleton.mp hx]
  · obtain ⟨h1, h2, -, h4⟩ := grdSeen_latches (s := s.setFld R.GRD.TIO_STAT.TIO_EV 1) (i := 17) (cls := 2) (pin := 0) hl
      (by decide) hp (by decide) hk
    exact ⟨h1, h2, h4⟩

theorem tioShort_goes {pin : Nat} (con : Bool) (hon : grdOn s 4 = true) (hout : tioOut pin = true)
    (htrip : nbit (s.fld R.GRD.TIO_STAT.TRIPPED) pin = false) : Goes (.grdTioShort pin con) s fun t =>
      nbit (t.fld R.GRD.TIO_STAT.TRIPPED) pin = true ∧ nbit (t.fld R.GRD.TIO_STAT.FAULT) pin = true ∧ t.fld R.GRD.TIO_STAT.TIO_EV = 1 ∧
        t.fld R.GRD.TIO_CNT.COUNT = min (2 ^ 32 - 1) (s.fld R.GRD.TIO_CNT.COUNT + 1) ∧
        (R.GRD.LAST.reg ∉ s.latched → t.fld R.GRD.LAST.CLASS = 2 ∧ t.fld R.GRD.LAST.INDEX = pin ∧
          t.fld R.GRD.LAST.KIND = (if con then 3 else 10)) := by
  have hpin : pin < 8 := by
    simp only [tioOut, Bool.or_eq_true, Bool.and_eq_true, beq_iff_eq, decide_eq_true_eq] at hout
    omega
  have hrun : exec (.grdTioShort pin con) s = .next (tripEvent (tioDetect (setBitOf (setBitOf s R.GRD.TIO_STAT.FAULT pin true)
      R.GRD.TIO_STAT.TRIPPED pin true) pin (if con then 3 else 10)) 2 pin) := if_pos ⟨hon, hout, htrip⟩
  have htripped := nbit_setBitOf (setBitOf s R.GRD.TIO_STAT.FAULT pin true) (f := R.GRD.TIO_STAT.TRIPPED) true rfl hpin
  have hfault : nbit ((setBitOf (setBitOf s R.GRD.TIO_STAT.FAULT pin true) R.GRD.TIO_STAT.TRIPPED pin true).fld R.GRD.TIO_STAT.FAULT) pin = true := by
    rw [setBitOf, State.fld_setFld_above _ _ rfl]
    exact nbit_setBitOf s true rfl hpin
  have hkeep : ∀ g : Fld, g.key ≠ 0x14030 →
      (setBitOf (setBitOf s R.GRD.TIO_STAT.FAULT pin true) R.GRD.TIO_STAT.TRIPPED pin true).fld g = s.fld g := fun g hg =>
    (fld_setBitOf_ne _ pin true hg).trans (fld_setBitOf_ne s pin true hg)
  have hlat : (setBitOf (setBitOf s R.GRD.TIO_STAT.FAULT pin true) R.GRD.TIO_STAT.TRIPPED pin true).latched = s.latched := rfl
  generalize setBitOf (setBitOf s R.GRD.TIO_STAT.FAULT pin true) R.GRD.TIO_STAT.TRIPPED pin true = u at hrun htripped hfault hkeep hlat
  have hseen := tioSeen_tioDetect (s := u) pin (if con then 3 else 10) ((grdOn_of_fld (hkeep _ (by decide))).trans hon)
  generalize tioDetect u pin (if con then 3 else 10) = v at hrun hseen
  have hevt : ∀ g : Fld, 0x14000 ≤ g.key → (tripEvent v 2 pin).fld g = v.fld g := fun g hg => by
    refine (EvtStep.event v _ _).touches.fld fun x hx => Fld.apart_of_key_ne ?_
    simp only [evtFlds, List.mem_cons, List.not_mem_nil, or_false] at hx
    rcases hx with rfl | rfl <;> simp only [R.MBX.STAT.EVT_PENDING, R.MBX.RING_STAT.EVT_LOST] <;> omega
  refine ⟨_, hrun, ?_, ?_, ?_, ?_, fun hl => ?_⟩
  · rw [hevt _ (by decide), hseen.keeps _ rfl rfl, htripped]
  · rw [hevt _ (by decide), hseen.keeps _ rfl rfl, hfault]
  · rw [hevt _ (by decide), hseen.event]
  · rw [hevt _ (by decide), hseen.count, hkeep _ (by decide)]
  · rw [hevt _ (by decide), hevt _ (by decide), hevt _ (by decide)]
    exact hseen.last (by rwa [hlat]) (by omega) (by split <;> decide)

theorem tioShort_idle {pin : Nat} (con : Bool) (h : tioOut pin = false ∨ nbit (s.fld R.GRD.TIO_STAT.TRIPPED) pin = true) :
    exec (.grdTioShort pin con) s = .next s := by
  refine if_neg ?_
  rintro ⟨-, hout, htrip⟩
  rcases h with h | h
  · exact Bool.false_ne_true (h.symm.trans hout)
  · exact Bool.false_ne_true (htrip.symm.trans h)

/-- The request to re-probe a TIO pin is taken. -/
def tioProbed (s : State) (pin : Nat) : State := { s with grd := { s.grd with reprobe := s.grd.reprobe.filter (· != 96 + pin) } }

theorem exec_tioReprobe (n : Nat) {pin : Nat} (clean : Bool) (hdue : s.flag R.GRD.PROBE.REPROBE_MS = true)
    (htrip : nbit (s.fld R.GRD.TIO_STAT.TRIPPED) pin = true) (hon : grdOn s 4 = true) :
    exec (.grdReprobeTimer 2 n pin clean) s =
      .next (if clean then setBitOf (tioProbed s pin) R.GRD.TIO_STAT.TRIPPED pin false else grdCount (tioProbed s pin) 18) := by
  show execGrdReprobeTimer 2 n pin clean s = _
  unfold execGrdReprobeTimer
  dsimp only
  rw [hdue, if_neg (by decide : ¬ (2 : Nat) = 0), if_neg (by simp), if_neg (by decide : ¬ (2 : Nat) = 0), if_neg (by rw [htrip, hon]; decide)]
  cases clean <;> rfl

theorem tioReprobe_goes {pin : Nat} (hdue : s.flag R.GRD.PROBE.REPROBE_MS = true) (htrip : nbit (s.fld R.GRD.TIO_STAT.TRIPPED) pin = true)
    (hon : grdOn s 4 = true) (hpin : pin < 8) (n : Nat) :
    (Goes (.grdReprobeTimer 2 n pin true) s fun t => nbit (t.fld R.GRD.TIO_STAT.TRIPPED) pin = false ∧
        Touches [R.GRD.TIO_STAT.TRIPPED] s t) ∧
      Goes (.grdReprobeTimer 2 n pin false) s fun t => nbit (t.fld R.GRD.TIO_STAT.TRIPPED) pin = true ∧
        t.fld R.GRD.REPROBE_FAIL.COUNT = min (2 ^ 32 - 1) (s.fld R.GRD.REPROBE_FAIL.COUNT + 1) := by
  have hkeep : ∀ g : Fld, (tioProbed s pin).fld g = s.fld g := fun _ => rfl
  refine ⟨⟨_, exec_tioReprobe n true hdue htrip hon, nbit_setBitOf _ false rfl hpin,
    touches_setFld List.mem_cons_self (touches_rf rfl (.refl _ s))⟩, _, exec_tioReprobe n false hdue htrip hon, ?_, ?_⟩
  · have h : (grdCount (tioProbed s pin) 18).fld R.GRD.TIO_STAT.TRIPPED = s.fld R.GRD.TIO_STAT.TRIPPED :=
      (touches_countSat (l := [grdCntFld 18, R.GRD.SAT.SAT_F]) (s := tioProbed s pin) 18 (by simp [grdCntFld]) (by simp) (.refl _ _)).fld
        fun x hx => Fld.apart_of_key_ne (by
          simp only [List.mem_cons, List.not_mem_nil, or_false] at hx
          rcases hx with rfl | rfl <;> decide)
    rw [if_neg Bool.false_ne_true, h, htrip]
  · exact fld_grdCount (s := tioProbed s pin) (i := 18) (by decide)

theorem tioOpen_goes (hon : grdOn s 4 = true) : Goes .grdTioOpen s fun t => t = { s with rf := t.rf, latched := t.latched } ∧
      nbit (t.fld R.GRD.TIO_STAT.OPEN) 1 = true ∧ t.fld R.GRD.TIO_STAT.TIO_EV = 1 ∧
      t.fld R.GRD.TIO_STAT.TRIPPED = s.fld R.GRD.TIO_STAT.TRIPPED := by
  have hseen := tioSeen_tioDetect (s := setBitOf s R.GRD.TIO_STAT.OPEN 1 true) 1 4
    ((grdOn_of_fld (fld_setBitOf_ne s 1 true (by decide))).trans hon)
  refine ⟨_, if_pos hon, (GrdFrame.of_rf (setBitOf_frame ..)).trans hseen.frame, ?_, hseen.event, ?_⟩
  · rw [hseen.keeps _ rfl rfl]
    exact nbit_setBitOf s true rfl (by decide)
  · rw [hseen.keeps _ rfl rfl, setBitOf, State.fld_setFld_below _ _ rfl]

theorem inputContention_goes {pin : Nat} (hon : grdOn s 4 = true) (hpin : pin = 0 ∨ pin = 2) : Goes (.grdInputContention pin) s fun t =>
      t = { s with rf := t.rf, latched := t.latched } ∧ nbit (t.fld R.GRD.TIO_STAT.FAULT) pin = true ∧ t.fld R.GRD.TIO_STAT.TIO_EV = 1 := by
  have hseen := tioSeen_tioDetect (s := setBitOf s R.GRD.TIO_STAT.FAULT pin true) pin 3
    ((grdOn_of_fld (fld_setBitOf_ne s pin true (by decide))).trans hon)
  refine ⟨_, if_pos ⟨hon, hpin⟩, (GrdFrame.of_rf (setBitOf_frame ..)).trans hseen.frame, ?_, hseen.event⟩
  rw [hseen.keeps _ rfl rfl]
  exact nbit_setBitOf s true rfl (show pin < 8 by omega)

theorem ppsLoss_goes (hon : grdOn s 4 = true) (hpps : s.grd.ppsSeen = true) (hnew : s.flag R.GRD.TIO_STAT.PPS_LOSS = false) :
    Goes .grdPpsLoss s fun t => t = { s with rf := t.rf, latched := t.latched } ∧ t.fld R.GRD.TIO_STAT.PPS_LOSS = 1 ∧
        t.fld R.GRD.TIO_STAT.PPS_LOSS_EV = 1 ∧ t.fld R.GRD.TIO_STAT.TIO_EV = 1 := by
  have hseen := tioSeen_tioDetect (s := s.setFlds [(R.GRD.TIO_STAT.PPS_LOSS, 1), (R.GRD.TIO_STAT.PPS_LOSS_EV, 1)]) 2 9
    ((grdOn_of_fld (State.fld_setFlds_apart s rfl)).trans hon)
  refine ⟨_, if_pos ⟨hon, hpps, hnew⟩, (GrdFrame.of_rf (State.setFlds_frame s _)).trans hseen.frame, ?_, ?_, hseen.event⟩
  · rw [hseen.keeps _ rfl rfl]
    exact State.fld_setFlds s 0 rfl rfl rfl (show 1 < 2 ^ 1 by decide)
  · rw [hseen.keeps _ rfl rfl]
    exact State.fld_setFlds s 1 rfl rfl rfl (show 1 < 2 ^ 1 by decide)

end

/-- Settles O53. -/
theorem guardLaneAndTioSteps : Obligations.GuardLaneAndTioSteps := by
  unfold Obligations.GuardLaneAndTioSteps
  intro s pin
  refine ⟨fun lost hon hl => lossOfSignal_goes lost hon hl, fun lost hoff => ?_, fun con hon hout htrip => tioShort_goes con hon hout htrip,
    fun con h => tioShort_idle con h, fun hdue htrip hon hpin => ⟨fun n => (tioReprobe_goes hdue htrip hon hpin n).1,
      fun n => (tioReprobe_goes hdue htrip hon hpin n).2⟩, tioOpen_goes, inputContention_goes, fun h0 h2 => ?_, ppsLoss_goes, fun h => ?_,
    fun hoff => ⟨?_, ?_, ?_⟩⟩
  · exact if_pos (.inl (by rw [hoff]; rfl))
  · exact if_neg fun ⟨_, h⟩ => h.elim h0 h2
  · refine if_neg ?_
    rintro ⟨-, hseen, hnew⟩
    rcases h with h | h
    · exact Bool.false_ne_true (h.symm.trans hseen)
    · exact Bool.false_ne_true (hnew.symm.trans h)
  · exact if_neg fun h => Bool.false_ne_true (hoff.symm.trans h)
  · exact if_neg fun h => Bool.false_ne_true (hoff.symm.trans h.1)
  · exact if_neg fun h => Bool.false_ne_true (hoff.symm.trans h.1)

end Sys2Proof.Machine
end

section
/-! Settles O52: readback faults and trips of TDM pins, re-probes, the open test and the clock swap (R433 to R438). -/

namespace Sys2Proof.Machine

section
variable {s : State} {n pin : Nat}

/-! ### Readback (R433) -/

theorem tdmDetect_eq (s : State) (n pin kind : Nat) (cause : Fld) :
    tdmDetect s n pin kind cause = grdSeen (setBitOf s cause pin true) n 0 n pin kind := rfl

theorem tdmDetect_frame (s : State) (n pin kind : Nat) (cause : Fld) : GrdFrame s (tdmDetect s n pin kind cause) :=
  (GrdFrame.of_rf (setBitOf_frame s cause pin true)).trans (grdSeen_frame ..)

/-- A detection on a TDM pin. -/
structure TdmSeen (n pin kind : Nat) (cause : Fld) (s t : State) : Prop where
  frame : GrdFrame s t
  bit   : ∀ q, q < 6 → nbit (t.fld cause) q = if q = pin then true else nbit (s.fld cause) q
  count : t.fld (R.GRD.TDM_CNT.COUNT n) = min (2 ^ 32 - 1) (s.fld (R.GRD.TDM_CNT.COUNT n) + 1)
  keeps : ∀ g : Fld, g.key ≠ cause.key → g.key < 0x14010 ∨ (0x14010 < g.key ∧ g.key < 0x14200) → t.fld g = s.fld g
  first : R.GRD.LAST.reg ∉ s.latched → pin < 8 → kind < 16 → t.fld R.GRD.LAST.CLASS = 0 ∧ t.fld R.GRD.LAST.INDEX = n ∧
    t.fld R.GRD.LAST.PIN = pin ∧ t.fld R.GRD.LAST.KIND = kind
  later : R.GRD.LAST.reg ∈ s.latched → t.rd R.GRD.LAST.reg = s.rd R.GRD.LAST.reg

theorem tdmSeen_tdmDetect {cause : Fld} (hn : n < 16) (kind : Nat) (hk : cause.key = R.GRD.TDM_STAT.reg n) (hw : cause.w = 6)
    (h32 : (cause.lo + cause.w).ble 32 = true) : TdmSeen n pin kind cause s (tdmDetect s n pin kind cause) := by
  have hkey : cause.key = 0x14100 + 4 * n := hk
  rw [tdmDetect_eq]
  refine ⟨tdmDetect_frame s n pin kind cause, fun q hq => ?_, ?_, fun g hg hr => ?_, fun hl hp hkind => ?_, fun hl => ?_⟩
  · rw [fld_grdSeen (by omega) _ _ _ _ (.inr (by omega))]
    exact nbit_fld_setBit s cause true h32 q (by omega)
  · have h := fld_grdSeen_count (s := setBitOf s cause pin true) (i := n) (by omega) 0 n pin kind
    rw [grdCntFld_tdm hn] at h
    rw [h, fld_setBitOf_ne s pin true]
    simp only [R.GRD.TDM_CNT.COUNT]
    omega
  · rw [fld_grdSeen (by omega) _ _ _ _ hr, fld_setBitOf_ne s pin true hg]
  · exact grdSeen_latches (s := setBitOf s cause pin true) hl (by decide) (by omega) hp hkind
  · rw [rd_grdSeen_latched (s := setBitOf s cause pin true) (by omega) _ _ _ _ hl]
    exact (touches_setBitOf s cause pin true).rd fun x hx => by
      rw [List.mem_singleton.mp hx, hkey, R.GRD.LAST.reg]
      omega

theorem readbackFault_goes (hn : n < 16) (hp : pin < 6) {kind : Nat} (hkind : kind < 3) (hon : grdOn s 0 = true)
    (hcmp : pinCompared s n pin = true) : Goes (.grdReadbackFault n pin kind) s fun t =>
      t = { s with rf := t.rf, latched := t.latched, grd := t.grd } ∧ 6 * n + pin ∈ t.grd.faulted ∧
        nbit (t.fld (if kind = 2 then R.GRD.TDM_STAT.CONTEND n else R.GRD.TDM_STAT.SHORT n)) pin = true ∧
        t.fld (R.GRD.TDM_CNT.COUNT n) = min (2 ^ 32 - 1) (s.fld (R.GRD.TDM_CNT.COUNT n) + 1) ∧
        (R.GRD.LAST.reg ∉ s.latched → t.fld R.GRD.LAST.CLASS = 0 ∧ t.fld R.GRD.LAST.INDEX = n ∧ t.fld R.GRD.LAST.PIN = pin ∧
          t.fld R.GRD.LAST.KIND = kind + 1) ∧
        (R.GRD.LAST.reg ∈ s.latched → t.rd R.GRD.LAST.reg = s.rd R.GRD.LAST.reg) := by
  have hseen : TdmSeen n pin (kind + 1) (if kind = 2 then R.GRD.TDM_STAT.CONTEND n else R.GRD.TDM_STAT.SHORT n) s
      (tdmDetect s n pin (kind + 1) (if kind = 2 then R.GRD.TDM_STAT.CONTEND n else R.GRD.TDM_STAT.SHORT n)) := by
    split
    · exact tdmSeen_tdmDetect hn _ rfl rfl rfl
    · exact tdmSeen_tdmDetect hn _ rfl rfl rfl
  have hrun : exec (.grdReadbackFault n pin kind) s = .next { tdmDetect s n pin (kind + 1)
      (if kind = 2 then R.GRD.TDM_STAT.CONTEND n else R.GRD.TDM_STAT.SHORT n) with grd := { (tdmDetect s n pin (kind + 1)
      (if kind = 2 then R.GRD.TDM_STAT.CONTEND n else R.GRD.TDM_STAT.SHORT n)).grd with faulted := insertNat (6 * n + pin) (tdmDetect s n pin (kind + 1)
      (if kind = 2 then R.GRD.TDM_STAT.CONTEND n else R.GRD.TDM_STAT.SHORT n)).grd.faulted } } := if_pos ⟨hon, hcmp⟩
  generalize tdmDetect s n pin (kind + 1) (if kind = 2 then R.GRD.TDM_STAT.CONTEND n else R.GRD.TDM_STAT.SHORT n) = u at hrun hseen
  refine ⟨_, hrun, ?_, (mem_insertNat ..).mpr (.inl rfl), (hseen.bit pin hp).trans (if_pos rfl), hseen.count,
    fun hl => hseen.first hl (by omega) (by omega), hseen.later⟩
  have hframe := hseen.frame
  unfold GrdFrame at hframe
  generalize u.rf = r, u.latched = l at hframe ⊢
  subst hframe
  rfl

theorem readbackFault_idle (kind : Nat) (h : grdOn s 0 = false ∨ pinCompared s n pin = false) :
    exec (.grdReadbackFault n pin kind) s = .next s := by
  refine if_neg ?_
  rintro ⟨hon, hcmp⟩
  rcases h with h | h
  · exact Bool.false_ne_true (h.symm.trans hon)
  · exact Bool.false_ne_true (h.symm.trans hcmp)

/-! ### The released outputs (R239, R434) -/

/-- The OE_HELD flags of the ports. -/
def OeKey (k : Nat) : Prop := 0x8000 ≤ k ∧ k < 0x9000

theorem onlyIn_oeRefresh (s : State) : OnlyIn OeKey s (oeRefresh s) := by
  refine (OnlyIn.refl s).foldl fun v p hp => (OnlyIn.refl v).setFld _ ?_
  have := List.mem_range.mp hp
  simp only [OeKey, R.TDM.TX_STAT.OE_HELD]
  omega

theorem oeRefresh_frame (s : State) : RfFrame s (oeRefresh s) := by
  have h : ∀ (l : List Nat) (u : State), RfFrame s u → RfFrame s (l.foldl (fun s p =>
      s.setFlag (R.TDM.TX_STAT.OE_HELD p) (sharedPort s p || nbit (s.fld (R.GRD.TDM_STAT.TRIPPED p)) 2)) u) := by
    intro l
    induction l with
    | nil => exact fun u hu => hu
    | cons p l ih => exact fun u hu => ih _ (hu.setFlag _ _)
  exact h _ s (.refl s)

theorem fld_oeRefresh {g : Fld} (hg : 0x9000 ≤ g.key) : (oeRefresh s).fld g = s.fld g :=
  (onlyIn_oeRefresh s).fld fun h => absurd h.2 (by omega)

/-- A tripped SDO pin holds its port's output. -/
theorem oeHeld_of_tripped (hn : n < 16) (h : tripped s n 2 = true) : (oeRefresh s).fld (R.TDM.TX_STAT.OE_HELD n) = 1 := by
  have htrip : ∀ (u : State) (b : Nat) (v : Bool), b < 16 → tripped u n 2 = true → tripped (u.setFlag (R.TDM.TX_STAT.OE_HELD b) v) n 2 = true := by
    intro u b v hb hu
    unfold tripped State.setFlag at *
    rwa [State.fld_setFld_ne u _]
    simp only [R.GRD.TDM_STAT.TRIPPED, R.TDM.TX_STAT.OE_HELD]
    omega
  have hhit : ∀ u : State, tripped u n 2 = true → (u.setFlag (R.TDM.TX_STAT.OE_HELD n)
      (sharedPort u n || nbit (u.fld (R.GRD.TDM_STAT.TRIPPED n)) 2)).fld (R.TDM.TX_STAT.OE_HELD n) = 1 := fun u hu => by
    rw [State.setFlag, show nbit (u.fld (R.GRD.TDM_STAT.TRIPPED n)) 2 = true from hu, Bool.or_true]
    exact State.fld_setFld_mod u _ _ rfl
  unfold oeRefresh
  refine (foldl_reaches (g := fun u p => u.setFlag (R.TDM.TX_STAT.OE_HELD p) (sharedPort u p || nbit (u.fld (R.GRD.TDM_STAT.TRIPPED p)) 2))
    (a := n) (P := fun u => tripped u n 2 = true)
    (Q := fun u => tripped u n 2 = true ∧ u.fld (R.TDM.TX_STAT.OE_HELD n) = 1) (List.mem_range.mpr hn)
    (fun u b hb hu => htrip u b _ (List.mem_range.mp hb) hu) (fun u b hb hu => ⟨htrip u b _ (List.mem_range.mp hb) hu.1, ?_⟩)
    (fun u hu => ⟨htrip u n _ hn hu, hhit u hu⟩) h).2
  by_cases hbn : b = n
  · rw [hbn]
    exact hhit u hu.1
  · rw [State.setFlag, State.fld_setFld_ne u _, hu.2]
    simp only [R.TDM.TX_STAT.OE_HELD]
    omega

/-! ### Trips and re-probes (R434, R435) -/

theorem tripped_setBitOf (hp : pin < 6) (b : Bool) : tripped (setBitOf s (R.GRD.TDM_STAT.TRIPPED n) pin b) n pin = b ∧
    ∀ q, q < 6 → q ≠ pin → tripped (setBitOf s (R.GRD.TDM_STAT.TRIPPED n) pin b) n q = tripped s n q := by
  have h := fun q (hq : q < 6) => nbit_fld_setBit s (R.GRD.TDM_STAT.TRIPPED n) (i := pin) b rfl q hq
  exact ⟨(h pin hp).trans (if_pos rfl), fun q hq hne => (h q hq).trans (if_neg hne)⟩

theorem tripped_oeRefresh (q : Nat) : tripped (oeRefresh s) n q = tripped s n q := by
  rw [tripped, fld_oeRefresh, tripped]
  simp only [R.GRD.TDM_STAT.TRIPPED]
  omega

theorem fld_tripEvent (cls idx : Nat) {g : Fld} (hg : 0x6000 ≤ g.key) : (tripEvent s cls idx).fld g = s.fld g := by
  refine (EvtStep.event s _ _).touches.fld fun x hx => Fld.apart_of_key_ne ?_
  simp only [evtFlds, List.mem_cons, List.not_mem_nil, or_false] at hx
  rcases hx with rfl | rfl <;> simp only [R.MBX.STAT.EVT_PENDING, R.MBX.RING_STAT.EVT_LOST] <;> omega

theorem tripEvent_grd (s : State) (cls idx : Nat) : (tripEvent s cls idx).grd = s.grd := by
  unfold tripEvent
  dsimp only
  rw [(EvtStep.event s _ _).frame]

/-- A pin's run of faulted frames begins again. -/
def runCleared (s : State) (k : Nat) : State := { s with grd := { s.grd with runs := sPut (fun _ => 0) s.grd.runs k 0 } }

theorem pinTrip_goes (hn : n < 16) (hp : pin < 6) (hrun : s.fld R.GRD.CTL.TRIP_FRAMES ≤ sGet (fun _ => 0) s.grd.runs (6 * n + pin))
    (hon : grdOn s 0 = true) (hcmp : pinCompared s n pin = true) : Goes (.grdPinTrip n pin) s fun t => tripped t n pin = true ∧
      (pin = 2 → t.fld (R.TDM.TX_STAT.OE_HELD n) = 1) ∧ sGet (fun _ => 0) t.grd.runs (6 * n + pin) = 0 ∧
        (∀ q, q < 6 → q ≠ pin → tripped t n q = tripped s n q) := by
  have hexec : exec (.grdPinTrip n pin) s = .next (tripEvent (oeRefresh (setBitOf (runCleared s (6 * n + pin))
      (R.GRD.TDM_STAT.TRIPPED n) pin true)) 0 n) := if_pos ⟨hrun, hon, hcmp⟩
  obtain ⟨hself, hother⟩ := tripped_setBitOf (s := runCleared s (6 * n + pin)) (n := n) hp true
  have hgrd : (setBitOf (runCleared s (6 * n + pin)) (R.GRD.TDM_STAT.TRIPPED n) pin true).grd = (runCleared s (6 * n + pin)).grd := by
    rw [setBitOf_frame]
  generalize setBitOf (runCleared s (6 * n + pin)) (R.GRD.TDM_STAT.TRIPPED n) pin true = u at hexec hself hother hgrd
  have htrip : ∀ q, tripped (tripEvent (oeRefresh u) 0 n) n q = tripped u n q := fun q => by
    rw [← tripped_oeRefresh (s := u), tripped, fld_tripEvent, tripped]
    simp only [R.GRD.TDM_STAT.TRIPPED]
    omega
  refine ⟨_, hexec, (htrip pin).trans hself, fun h2 => ?_, ?_, fun q hq hne => (htrip q).trans (hother q hq hne)⟩
  · rw [fld_tripEvent]
    · exact oeHeld_of_tripped hn (h2 ▸ hself)
    · simp only [R.TDM.TX_STAT.OE_HELD]
      omega
  · rw [tripEvent_grd, oeRefresh_frame, hgrd]
    exact sGet_put_self (fun _ => 0) s.grd.runs (6 * n + pin) 0

theorem pinTrip_idle (h : sGet (fun _ => 0) s.grd.runs (6 * n + pin) < s.fld R.GRD.CTL.TRIP_FRAMES) :
    exec (.grdPinTrip n pin) s = .next s := if_neg fun h' => Nat.not_le.mpr h h'.1

/-- The request to re-probe a TDM pin is taken. -/
def tdmProbed (s : State) (n pin : Nat) : State := { s with grd := { s.grd with reprobe := s.grd.reprobe.filter (· != 6 * n + pin) } }

theorem exec_tdmReprobe (clean : Bool) (hdue : s.flag R.GRD.PROBE.REPROBE_MS = true) (htrip : tripped s n pin = true)
    (hon : grdOn s 0 = true) : exec (.grdReprobeTimer 0 n pin clean) s =
      .next (if clean && s.tdmState n (pinRx pin) != tdmClockLost then
        oeRefresh (setBitOf (tdmProbed s n pin) (R.GRD.TDM_STAT.TRIPPED n) pin false) else grdCount (tdmProbed s n pin) 18) := by
  show execGrdReprobeTimer 0 n pin clean s = _
  unfold execGrdReprobeTimer
  dsimp only
  rw [hdue, if_pos rfl, if_neg (by simp), if_pos rfl, if_neg (by rw [htrip, hon]; decide)]
  split
  · rfl
  · rfl

theorem tdmReprobe_goes (hn : n < 16) (hp : pin < 6) (hdue : s.flag R.GRD.PROBE.REPROBE_MS = true) (htrip : tripped s n pin = true)
    (hon : grdOn s 0 = true) :
    (s.tdmState n (pinRx pin) ≠ tdmClockLost → Goes (.grdReprobeTimer 0 n pin true) s fun t => tripped t n pin = false ∧
        (∀ q, q < 6 → q ≠ pin → tripped t n q = tripped s n q) ∧
        t.fld R.GRD.REPROBE_FAIL.COUNT = s.fld R.GRD.REPROBE_FAIL.COUNT) ∧
      (Goes (.grdReprobeTimer 0 n pin false) s fun t => t = { s with rf := t.rf, grd := t.grd } ∧ tripped t n pin = true ∧
        t.fld R.GRD.REPROBE_FAIL.COUNT = min (2 ^ 32 - 1) (s.fld R.GRD.REPROBE_FAIL.COUNT + 1)) := by
  constructor
  · intro hst
    have hexec := exec_tdmReprobe true hdue htrip hon
    rw [if_pos (by rw [Bool.true_and]; exact bne_iff_ne.mpr hst)] at hexec
    obtain ⟨hself, hother⟩ := tripped_setBitOf (s := tdmProbed s n pin) (n := n) hp false
    refine ⟨_, hexec, (tripped_oeRefresh pin).trans hself, fun q hq hne => (tripped_oeRefresh q).trans (hother q hq hne), ?_⟩
    rw [fld_oeRefresh (by decide), fld_setBitOf_ne _ pin false]
    · rfl
    · simp only [R.GRD.REPROBE_FAIL.COUNT, R.GRD.TDM_STAT.TRIPPED]
      omega
  · have hexec := exec_tdmReprobe false hdue htrip hon
    rw [Bool.false_and, if_neg Bool.false_ne_true] at hexec
    have hframe := grdCount_frame (tdmProbed s n pin) 18
    have hkeep : (grdCount (tdmProbed s n pin) 18).fld (R.GRD.TDM_STAT.TRIPPED n) = s.fld (R.GRD.TDM_STAT.TRIPPED n) :=
      (touches_countSat (l := [grdCntFld 18, R.GRD.SAT.SAT_F]) (s := tdmProbed s n pin) 18 (by simp [grdCntFld]) (by simp) (.refl _ _)).fld
        fun x hx => Fld.apart_of_key_ne (by
          have hc := grdCntFld_key (show 18 < 19 by decide)
          simp only [List.mem_cons, List.not_mem_nil, or_false] at hx
          rcases hx with rfl | rfl
          · show 0x14100 + 4 * n ≠ (grdCntFld 18).key
            omega
          · show 0x14100 + 4 * n ≠ 0x14250
            omega)
    refine ⟨_, hexec, ?_, ?_, fld_grdCount (s := tdmProbed s n pin) (i := 18) (by decide)⟩
    · unfold RfFrame at hframe
      generalize (grdCount (tdmProbed s n pin) 18).rf = r at hframe
      rw [hframe]
      rfl
    · rw [tripped, hkeep]
      exact htrip

theorem tdmReprobe_idle (clean : Bool) (h1 : s.flag R.GRD.PROBE.REPROBE_MS = false) (h2 : 6 * n + pin ∉ s.grd.reprobe) :
    exec (.grdReprobeTimer 0 n pin clean) s = .next s := by
  have hdue : (s.flag R.GRD.PROBE.REPROBE_MS || s.grd.reprobe.contains (6 * n + pin)) = false := by
    rw [h1, Bool.false_or]
    simpa using h2
  exact if_pos (by rw [← Bool.not_false]; exact congrArg _ hdue)

/-! ### The open test (R437) -/

theorem sum_bits (f : Nat → Bool) (m : Nat) : ((List.range m).map fun i => if f i then 2 ^ i else 0).sum < 2 ^ m ∧
    ∀ q, nbit ((List.range m).map fun i => if f i then 2 ^ i else 0).sum q = (decide (q < m) && f q) := by
  induction m with
  | zero => exact ⟨Nat.one_pos, fun q => Nat.zero_testBit q⟩
  | succ m ih =>
    obtain ⟨hlt, hbits⟩ := ih
    rw [List.range_succ, List.map_append, List.sum_append, List.map_singleton, List.sum_singleton]
    generalize ((List.range m).map fun i => if f i then 2 ^ i else 0).sum = a at hlt hbits
    have htop : nbit a m = false := Nat.testBit_lt_two_pow hlt
    cases hf : f m with
    | false =>
      rw [if_neg Bool.false_ne_true, Nat.add_zero]
      refine ⟨Nat.lt_of_lt_of_le hlt (Nat.pow_le_pow_right (by decide) (Nat.le_succ m)), fun q => (hbits q).trans ?_⟩
      rcases Nat.lt_trichotomy q m with h | rfl | h
      · rw [decide_eq_true h, decide_eq_true (Nat.lt_succ_of_lt h)]
      · rw [hf, Bool.and_false, Bool.and_false]
      · rw [decide_eq_false (by omega), decide_eq_false (by omega)]
    | true =>
      rw [if_pos rfl, Nat.add_comm]
      refine ⟨by rw [Nat.pow_succ]; omega, fun q => ?_⟩
      rcases Nat.lt_trichotomy q m with h | rfl | h
      · rw [nbit, Nat.testBit_two_pow_add_gt h, decide_eq_true (Nat.lt_succ_of_lt h), ← decide_eq_true h]
        exact hbits q
      · rw [nbit, Nat.testBit_two_pow_add_eq, show Nat.testBit a q = false from htop, hf, decide_eq_true (Nat.lt_succ_self q)]
        rfl
      · rw [decide_eq_false (by omega), Bool.false_and]
        refine Nat.testBit_lt_two_pow (Nat.lt_of_lt_of_le (m := 2 ^ (m + 1)) (by rw [Nat.pow_succ]; omega) ?_)
        exact Nat.pow_le_pow_right (by decide) h

/-- A pin is found open: it reads high after its pull-up and low after its pull-down. -/
def openSeen (s : State) (n up down pin : Nat) : Bool := openTested s n pin && nbit up pin && !nbit down pin

def openStep (n up down : Nat) (s : State) (pin : Nat) : State :=
  if openSeen s n up down pin then tdmDetect s n pin 4 (R.GRD.TDM_STAT.OPEN n) else s

/-- A part of the open test of port `n`. -/
structure OpenStep (n : Nat) (s t : State) : Prop where
  frame : GrdFrame s t
  keeps : ∀ g : Fld, g.key < 0x14000 → t.fld g = s.fld g

theorem OpenStep.seen {t : State} (hn : n < 16) (h : OpenStep n s t) (up down q : Nat) : openSeen t n up down q = openSeen s n up down q := by
  have hkey : ∀ (rx : Bool) (f : Fld), f.key < 0x13000 → t.fld (td f rx) = s.fld (td f rx) := fun rx f hf => h.keeps _ (by
    cases rx
    · exact Nat.lt_trans hf (by decide)
    · show f.key + 0x20 < 0x14000
      omega)
  have hfmt : ∀ rx, t.flag (td (R.TDM.TX_FMT.MASTER n) rx) = s.flag (td (R.TDM.TX_FMT.MASTER n) rx) ∧
      t.flag (td (R.TDM.TX_FMT.EN n) rx) = s.flag (td (R.TDM.TX_FMT.EN n) rx) ∧ t.tdmState n rx = s.tdmState n rx := fun rx => by
    refine ⟨congrArg (· != 0) (hkey rx _ ?_), congrArg (· != 0) (hkey rx _ ?_), hkey rx _ ?_⟩ <;>
      simp only [R.TDM.TX_FMT.MASTER, R.TDM.TX_FMT.EN, R.TDM.TX_STAT.STATE] <;> omega
  obtain ⟨h1, h2, h3⟩ := hfmt (pinRx q)
  unfold openSeen openTested pinOut
  dsimp only
  rw [h1, h2, h3]

theorem openStep_leaves (hn : n < 16) (up down q : Nat) : OpenStep n s (openStep n up down s q) ∧
    ∀ p, p < 6 → nbit ((openStep n up down s q).fld (R.GRD.TDM_STAT.OPEN n)) p =
      (nbit (s.fld (R.GRD.TDM_STAT.OPEN n)) p || (decide (p = q) && openSeen s n up down q)) := by
  unfold openStep
  split
  · next h =>
    have hseen := tdmSeen_tdmDetect (s := s) (pin := q) (cause := R.GRD.TDM_STAT.OPEN n) hn 4 rfl rfl rfl
    refine ⟨⟨hseen.frame, fun g hg => hseen.keeps g ?_ (.inl (by omega))⟩, fun p hp => ?_⟩
    · simp only [R.GRD.TDM_STAT.OPEN]
      omega
    · rw [hseen.bit p hp, h, Bool.and_true]
      split
      · next e => rw [decide_eq_true e, Bool.or_true]
      · next e => rw [decide_eq_false e, Bool.or_false]
  · next h =>
    refine ⟨⟨rfl, fun _ _ => rfl⟩, fun p _ => ?_⟩
    rw [Bool.not_eq_true _ |>.mp h, Bool.and_false, Bool.or_false]

theorem foldl_openStep (hn : n < 16) (up down : Nat) (l : List Nat) : ∀ {s : State}, OpenStep n s (l.foldl (openStep n up down) s) ∧
    ∀ p, p < 6 → nbit ((l.foldl (openStep n up down) s).fld (R.GRD.TDM_STAT.OPEN n)) p =
      (nbit (s.fld (R.GRD.TDM_STAT.OPEN n)) p || (decide (p ∈ l) && openSeen s n up down p)) := by
  induction l with
  | nil => exact ⟨⟨rfl, fun _ _ => rfl⟩, fun p _ => by simp⟩
  | cons q l ih =>
    intro s
    obtain ⟨hstep, hbit⟩ := openStep_leaves (s := s) hn up down q
    obtain ⟨hrest, hbits⟩ := ih (s := openStep n up down s q)
    refine ⟨⟨hstep.frame.trans hrest.frame, fun g hg => (hrest.keeps g hg).trans (hstep.keeps g hg)⟩, fun p hp => ?_⟩
    rw [List.foldl_cons, hbits p hp, hbit p hp, hstep.seen hn]
    by_cases e : p = q
    · subst e
      rw [decide_eq_true rfl, decide_eq_true (List.mem_cons_self (a := p) (l := l)), Bool.true_and, Bool.or_assoc]
      cases openSeen s n up down p
      · rw [Bool.and_false, Bool.or_false]
      · rw [Bool.true_or]
    · simp [e]

theorem openTest_goes (hn : n < 16) (hp : pin < 6) (up down : Nat) (hon : grdOn s 1 = true) (hdue : s.flag R.GRD.PROBE.OPEN_MS = true) :
    Goes (.grdOpenTest n up down) s fun t =>
      t = { s with rf := t.rf, latched := t.latched, out := t.out } ∧ (∃ m, t.out = (if m = 0 then s.out else .pullUp n m :: s.out) ∧
        ∀ q, q < 6 → nbit m q = openTested s n q) ∧ nbit (t.fld (R.GRD.TDM_STAT.OPEN n)) pin =
        (nbit (s.fld (R.GRD.TDM_STAT.OPEN n)) pin || (openTested s n pin && nbit up pin && !nbit down pin)) := by
  obtain ⟨-, hbits⟩ := sum_bits (openTested s n) 6
  have hexec : exec (.grdOpenTest n up down) s = .next ((List.range 6).foldl (openStep n up down)
      (if ((List.range 6).map fun pin => if openTested s n pin then 2 ^ pin else 0).sum = 0 then s
        else s.emit (.pullUp n ((List.range 6).map fun pin => if openTested s n pin then 2 ^ pin else 0).sum))) :=
    if_neg (by rw [hon, hdue]; decide)
  generalize ((List.range 6).map fun pin => if openTested s n pin then 2 ^ pin else 0).sum = m at hbits hexec
  have hfld : ∀ g, (if m = 0 then s else s.emit (.pullUp n m)).fld g = s.fld g := fun g => by split <;> rfl
  have hseen : openSeen (if m = 0 then s else s.emit (.pullUp n m)) n up down pin = openSeen s n up down pin := by split <;> rfl
  have hout : (if m = 0 then s else s.emit (.pullUp n m)) = { s with out := if m = 0 then s.out else .pullUp n m :: s.out } := by
    split <;> rfl
  obtain ⟨hstep, hopen⟩ := foldl_openStep (s := if m = 0 then s else s.emit (.pullUp n m)) hn up down (List.range 6)
  generalize (if m = 0 then s else s.emit (.pullUp n m)) = u at hexec hfld hseen hout hstep hopen
  generalize (List.range 6).foldl (openStep n up down) u = t at hexec hstep hopen
  have hframe := hstep.frame
  refine ⟨t, hexec, ?_, ⟨m, ?_, fun q hq => ?_⟩, ?_⟩
  · unfold GrdFrame at hframe
    generalize t.rf = r, t.latched = l at hframe
    rw [hframe, hout]
  · rw [hframe, hout]
  · rw [hbits q, decide_eq_true hq, Bool.true_and]
  · rw [hopen pin hp, hfld, hseen, decide_eq_true (List.mem_range.mpr hp), Bool.true_and, openSeen]

theorem openTest_idle (up down : Nat) (h : grdOn s 1 = false ∨ s.flag R.GRD.PROBE.OPEN_MS = false) :
    exec (.grdOpenTest n up down) s = .next s := by
  refine if_pos ?_
  rcases h with h | h
  · rw [h]
    rfl
  · rw [h, Bool.not_false, Bool.or_true]

/-! ### The clock swap (R438) -/

/-- The flag of an exchange of a port's clocks. -/
def swapFld (n : Nat) (rx : Bool) : Fld := if rx then R.GRD.TDM_STAT.RX_SWAP n else R.GRD.TDM_STAT.TX_SWAP n

/-- An exchange of a port's clocks is reported; which of the two pins is named is free. -/
def swapSeen (s : State) (n : Nat) (rx : Bool) : State :=
  grdSeen (({ s with freeCtr := s.freeCtr + 1 } : State).setFld (R.GRD.TDM_STAT.SWAP_EV n) 1) n 0 n
    (3 * b2n rx + (Config.freeValue s.freeCtr).toNat % 2) 5

theorem exec_clockSwap {rx : Bool} (fs bclk : Nat) (hon : grdOn s 2 = true) (hm : s.flag (td (R.TDM.TX_FMT.MASTER n) rx) = false)
    (hst : s.tdmState n rx = tdmArmed) : exec (.grdClockSwapDetect n rx fs bclk) s = .next
      (if s.flag (swapFld n rx) then (if ratioMeets (frameLen s n rx) fs bclk then s else s.setFld (swapFld n rx) 0)
      else if !ratioMeets (frameLen s n rx) fs bclk then s
      else if nbit ((swapSeen s n rx).fld R.GRD.AUTOSWAP.PORTS) n then (swapSeen s n rx).setFld (swapFld n rx) 1 else swapSeen s n rx) := by
  have hgo : ¬ ((!grdOn s 2 || s.flag (td (R.TDM.TX_FMT.MASTER n) rx) ||
      !(s.tdmState n rx == tdmOff || s.tdmState n rx == tdmArmed || s.tdmState n rx == tdmLeadIn || s.tdmState n rx == tdmClockLost)) = true) := by
    rw [hon, hm, hst]
    decide
  have harmed : ∀ P : Prop, (s.tdmState n rx ≠ tdmOff ∧ P) = P := fun P => by
    rw [hst]
    exact propext ⟨And.right, fun h => ⟨by decide, h⟩⟩
  show execGrdClockSwapDetect n rx fs bclk s = _
  unfold execGrdClockSwapDetect
  dsimp only
  rw [if_neg hgo]
  simp only [harmed]
  show (if s.flag (swapFld n rx) = true then ok _ else if _ then ok s else ok _) = _
  split
  · rfl
  · split
    · rfl
    · rfl

theorem swapFld_key (n : Nat) (rx : Bool) : (swapFld n rx).key = R.GRD.TDM_STAT.reg n ∧ (swapFld n rx).w = 1 ∧
    ((swapFld n rx).lo + (swapFld n rx).w).ble 32 = true ∧ 30 ≤ (swapFld n rx).lo := by
  cases rx
  · exact ⟨rfl, rfl, rfl, Nat.le_of_ble_eq_true rfl⟩
  · exact ⟨rfl, rfl, rfl, Nat.le_of_ble_eq_true rfl⟩

theorem clockSwap_seen (hn : n < 16) {rx : Bool} {fs bclk : Nat} (hon : grdOn s 2 = true) (hm : s.flag (td (R.TDM.TX_FMT.MASTER n) rx) = false)
    (hst : s.tdmState n rx = tdmArmed) (hsw : s.flag (swapFld n rx) = false) (hratio : ratioMeets (frameLen s n rx) fs bclk = true) :
    Goes (.grdClockSwapDetect n rx fs bclk) s fun t =>
      t = { s with rf := t.rf, latched := t.latched, freeCtr := s.freeCtr + 1 } ∧ t.fld (R.GRD.TDM_STAT.SWAP_EV n) = 1 ∧
        t.fld (swapFld n rx) = b2n (nbit (s.fld R.GRD.AUTOSWAP.PORTS) n) := by
  obtain ⟨hkey, hwid, h32, hlo⟩ := swapFld_key n rx
  have hexec := exec_clockSwap fs bclk hon hm hst
  rw [hsw, if_neg Bool.false_ne_true, hratio, if_neg (by decide)] at hexec
  have hframe : GrdFrame { s with freeCtr := s.freeCtr + 1 } (swapSeen s n rx) :=
    (GrdFrame.of_rf (RfFrame.setFld (RfFrame.refl _) _ _)).trans (grdSeen_frame ..)
  have hfld : ∀ g : Fld, g.key < 0x14010 ∨ (0x14010 < g.key ∧ g.key < 0x14200) → (swapSeen s n rx).fld g =
      (({ s with freeCtr := s.freeCtr + 1 } : State).setFld (R.GRD.TDM_STAT.SWAP_EV n) 1).fld g := fun g hg => fld_grdSeen (by omega) _ _ _ _ hg
  have hev : (swapSeen s n rx).fld (R.GRD.TDM_STAT.SWAP_EV n) = 1 := by
    rw [hfld _ (.inr (by simp only [R.GRD.TDM_STAT.SWAP_EV]; omega))]
    exact State.fld_setFld_mod _ _ _ rfl
  have hports : (swapSeen s n rx).fld R.GRD.AUTOSWAP.PORTS = s.fld R.GRD.AUTOSWAP.PORTS := by
    rw [hfld _ (.inl (by decide)), State.fld_setFld_ne]
    · rfl
    · simp only [R.GRD.AUTOSWAP.PORTS, R.GRD.TDM_STAT.SWAP_EV]
      omega
  have hold : (swapSeen s n rx).fld (swapFld n rx) = 0 := by
    rw [hfld _ (.inr (by rw [hkey, R.GRD.TDM_STAT.reg]; omega)), State.fld_setFld_below]
    · simpa [State.flag] using hsw
    · rw [Nat.ble_eq]
      exact Nat.le_trans (by decide : 24 ≤ 30) hlo
  rw [hports] at hexec
  generalize swapSeen s n rx = u at hexec hframe hev hold
  cases hp : nbit (s.fld R.GRD.AUTOSWAP.PORTS) n with
  | false =>
    rw [hp, if_neg Bool.false_ne_true] at hexec
    exact ⟨u, hexec, hframe, hev, hold⟩
  | true =>
    rw [hp, if_pos rfl] at hexec
    refine ⟨_, hexec, hframe.trans (.of_rf (RfFrame.setFld (RfFrame.refl u) _ _)), ?_, ?_⟩
    · rw [State.fld_setFld_above, hev]
      rw [Nat.ble_eq]
      exact Nat.le_trans (by decide : 24 ≤ 30) hlo
    · rw [State.fld_setFld_mod u _ _ h32, hwid]
      rfl

theorem clockSwap_over {rx : Bool} {fs bclk : Nat} (hon : grdOn s 2 = true) (hm : s.flag (td (R.TDM.TX_FMT.MASTER n) rx) = false)
    (hst : s.tdmState n rx = tdmArmed) (hsw : s.flag (swapFld n rx) = true) (hratio : ratioMeets (frameLen s n rx) fs bclk = false) :
    Goes (.grdClockSwapDetect n rx fs bclk) s fun t => t = { s with rf := t.rf } ∧ t.fld (swapFld n rx) = 0 ∧ Touches [swapFld n rx] s t := by
  have hexec := exec_clockSwap fs bclk hon hm hst
  rw [hsw, if_pos rfl, hratio, if_neg Bool.false_ne_true] at hexec
  exact ⟨_, hexec, rfl, (State.fld_setFld_mod s _ _ (swapFld_key n rx).2.2.1).trans (Nat.zero_mod _),
    touches_setFld List.mem_cons_self (.refl _ s)⟩

end

/-- Settles O52. -/
theorem guardTdmSteps : Obligations.GuardTdmSteps := by
  unfold Obligations.GuardTdmSteps
  intro s n pin hn hp
  refine ⟨fun kind hk hon hcmp => readbackFault_goes hn hp hk hon hcmp, fun kind h => readbackFault_idle kind h,
    fun hrun hon hcmp => pinTrip_goes hn hp hrun hon hcmp, pinTrip_idle, fun hdue htrip hon => tdmReprobe_goes hn hp hdue htrip hon,
    fun clean h1 h2 => tdmReprobe_idle clean h1 h2, fun up down hon hdue => openTest_goes hn hp up down hon hdue,
    fun up down h => openTest_idle up down h, ?_, fun rx fs bclk hm => ?_⟩
  · rintro rx fs bclk sw rfl hon hm hst
    exact ⟨fun hsw hratio => clockSwap_seen hn hon hm hst hsw hratio, fun hsw hratio => clockSwap_over hon hm hst hsw hratio⟩
  · exact if_pos (by rw [hm, Bool.or_true, Bool.true_or])

end Sys2Proof.Machine
end

section
/-! Settles O54: DX frames, the window they read and write, and discovery (R449 to R451, R454, R456, R460). -/

namespace Sys2Proof.Machine

section
variable {s : State}

/-! ### Frames (R449) -/

theorem dxSpiFrame_unserved (mosi : List Byte) (b : Bool) (h : dxServes s = false) : Goes (.dxSpiFrame mosi b) s fun t =>
    t = { s with out := .ctlHighZ :: s.out } := ⟨_, if_pos (by rw [h]; rfl), rfl⟩

theorem dxBadFrame_leaves (s : State) : RfFrame s (dxBadFrame s) ∧ (dxBadFrame s).fld R.DXW.STAT.FRAME_EV = 1 ∧
    (dxBadFrame s).fld R.DXW.STAT.FRAME_ERR = min 255 (s.fld R.DXW.STAT.FRAME_ERR + 1) := by
  have hframe : RfFrame s ((s.count R.DXW.STAT.FRAME_ERR).setFld R.DXW.STAT.FRAME_EV 1) := RfFrame.setFld (State.count_frame s _) _ _
  have hev : ((s.count R.DXW.STAT.FRAME_ERR).setFld R.DXW.STAT.FRAME_EV 1).fld R.DXW.STAT.FRAME_EV = 1 := State.fld_setFld_mod _ _ _ rfl
  have herr : ((s.count R.DXW.STAT.FRAME_ERR).setFld R.DXW.STAT.FRAME_EV 1).fld R.DXW.STAT.FRAME_ERR = min 255 (s.fld R.DXW.STAT.FRAME_ERR + 1) :=
    (State.fld_setFld_below _ _ rfl).trans (fld_count_min s rfl)
  unfold dxBadFrame
  dsimp only
  generalize (s.count R.DXW.STAT.FRAME_ERR).setFld R.DXW.STAT.FRAME_EV 1 = u at hframe hev herr
  split
  · exact ⟨hframe.setFld _ _, (State.fld_setFld_above _ _ rfl).trans hev, (State.fld_setFld_below _ _ rfl).trans herr⟩
  · exact ⟨hframe, hev, herr⟩

theorem dxSpiFrame_short {mosi : List Byte} (b : Bool) (h : dxServes s = true) (hlen : mosi.length < 3) : Goes (.dxSpiFrame mosi b) s fun t =>
    t = { s with rf := t.rf, out := .ctlTx (List.replicate mosi.length 0) :: s.out } ∧ t.fld R.DXW.STAT.FRAME_EV = 1 ∧
      t.fld R.DXW.STAT.FRAME_ERR = min 255 (s.fld R.DXW.STAT.FRAME_ERR + 1) := by
  obtain ⟨hframe, hev, herr⟩ := dxBadFrame_leaves s
  have hrun : exec (.dxSpiFrame mosi b) s = .next ((dxBadFrame s).emit (.ctlTx (List.replicate mosi.length 0))) := by
    show execDxSpiFrame mosi b s = _
    unfold execDxSpiFrame
    rw [if_neg (by rw [h]; decide), if_pos hlen]
  refine ⟨_, hrun, ?_, hev, herr⟩
  unfold RfFrame at hframe
  generalize dxBadFrame s = u at hframe
  generalize u.rf = r at hframe
  subst hframe
  rfl

/-- A frame of one whole word. -/
theorem exec_dxWord {mosi : List Byte} (h : dxServes s = true) (hlen : mosi.length = 5) : exec (.dxSpiFrame mosi false) s = .next
    (if nbit (u8 mosi 0) 7 then (dxRead s (be16 mosi 1)).2.emit (.ctlTx (List.replicate 3 0 ++ beBytes 2 (dxView s (be16 mosi 1))))
    else (dxWrite s (be16 mosi 1) (be16 (mosi.drop 3) 0)).emit (.ctlTx (List.replicate 5 0))) := by
  have hdata : (mosi.drop 3).length = 2 := by rw [List.length_drop, hlen]
  have hwhole : ¬ ((mosi.drop 3).length % 2 = 1 ∨ false = true) := by
    rw [hdata]
    decide
  show execDxSpiFrame mosi false s = _
  unfold execDxSpiFrame
  dsimp only
  rw [if_neg (by rw [h]; decide), if_neg (by omega), if_neg hwhole, hdata, hlen]
  split
  · show Host.Outcome.next _ = _
    have htake : (beBytes 2 (dxView s (be16 mosi 1)) ++ ([] : List Byte)).take 2 = beBytes 2 (dxView s (be16 mosi 1)) := by
      rw [List.append_nil]
      exact List.take_of_length_le (Nat.le_refl 2)
    show Host.Outcome.next ((dxRead s (be16 mosi 1)).2.emit (.ctlTx (List.replicate 3 0 ++ (beBytes 2 (dxView s (be16 mosi 1)) ++ []).take 2))) = _
    rw [htake]
  · rfl

theorem be16_drop (l : List Byte) (n : Nat) : be16 (l.drop n) 0 = be16 l n := by
  simp [be16, u8]

theorem dxSpiFrame_reads {mosi : List Byte} (h : dxServes s = true) (hlen : mosi.length = 5) (hr : nbit (u8 mosi 0) 7 = true) :
    Goes (.dxSpiFrame mosi false) s fun t =>
      t = { s with dx := { s.dx with cells := t.dx.cells }, out := t.out } ∧
        t.out = .ctlTx (List.replicate 3 0 ++ beBytes 2 (dxView s (be16 mosi 1))) :: s.out ∧
        (∀ a, a ≠ be16 mosi 1 → t.dxCell a = s.dxCell a) ∧
        t.dxCell (be16 mosi 1) = (if dxListed (be16 mosi 1) && dxRc (be16 mosi 1) then 0 else s.dxCell (be16 mosi 1)) := by
  have hrun := exec_dxWord h hlen
  rw [if_pos hr] at hrun
  generalize be16 mosi 1 = a at hrun
  have hread : (dxRead s a).2 = if dxListed a && dxRc a then s.setDx a 0 else s := rfl
  rw [hread] at hrun
  refine ⟨_, hrun, ?_⟩
  cases dxListed a && dxRc a with
  | false => exact ⟨rfl, rfl, fun _ _ => rfl, rfl⟩
  | true => exact ⟨rfl, rfl, fun x hx => dxCell_setDx_ne s 0 hx, dxCell_setDx_self s a 0⟩

/-- The window's record notes that cell `a` was written with `x`. -/
def dxNoted (s : State) (a x : Nat) (d : Dx) : Dx :=
  { d with
    dirty := insertNat a d.dirty
    rate := if decide (a = 0x010) && !(nbit (s.dxCell 0x010) 0 && nbit x 0) then bits x 1 2 else d.rate
    softAt := if decide (a = 0x010) && nbit x 7 && !d.softRst then d.count else d.softAt
    softRst := d.softRst || (decide (a = 0x010) && nbit x 7) }

theorem dxWrite_eq {a v x : Nat} (hrw : dxRw a = true) (hx : dxTakes s a v = some x) : dxWrite s a v =
    ((s.setDx a (if decide (a = 0x010) && s.dx.softRst then x ||| 0x80 else x)).setFld R.DXW.STAT.WRITE_EV 1).setDxr (dxNoted s a x) := by
  unfold dxWrite
  rw [if_neg (by rw [hrw]; decide), hx]
  rfl

theorem dxCell_setDxr {u : State} {d : Dx → Dx} (h : ∀ y, (d y).cells = y.cells) (b : Nat) : (u.setDxr d).dxCell b = u.dxCell b := by
  rw [State.dxCell, State.setDxr, h, State.dxCell]

/-- What an accepted word leaves (R451, R454). -/
theorem dxWrite_taken {a v x : Nat} (hrw : dxRw a = true) (hx : dxTakes s a v = some x) :
    (dxWrite s a v).dxCell a = (if a = 0x010 ∧ s.dx.softRst = true then x ||| 0x80 else x) % 65536 ∧
      (∀ b, b ≠ a → (dxWrite s a v).dxCell b = s.dxCell b) ∧ (dxWrite s a v).fld R.DXW.STAT.WRITE_EV = 1 ∧
      a ∈ (dxWrite s a v).dx.dirty ∧ Touches [R.DXW.STAT.WRITE_EV] s (dxWrite s a v) := by
  have hval : (if decide (a = 0x010) && s.dx.softRst then x ||| 0x80 else x) = if a = 0x010 ∧ s.dx.softRst = true then x ||| 0x80 else x := by
    simp only [Bool.and_eq_true, decide_eq_true_eq]
  rw [dxWrite_eq hrw hx, hval]
  generalize (if a = 0x010 ∧ s.dx.softRst = true then x ||| 0x80 else x) = y
  have hcell : ∀ b, (((s.setDx a y).setFld R.DXW.STAT.WRITE_EV 1).setDxr (dxNoted s a x)).dxCell b = (s.setDx a y).dxCell b := fun b =>
    dxCell_setDxr (d := dxNoted s a x) (fun _ => rfl) b
  exact ⟨(hcell a).trans (dxCell_setDx_self s a y), fun b hb => (hcell b).trans (dxCell_setDx_ne s y hb),
    State.fld_setFld_mod (s.setDx a y) _ _ rfl, (mem_insertNat ..).mpr (.inl rfl),
    touches_rf rfl (touches_setFld List.mem_cons_self (touches_rf (t := s) rfl (.refl _ s)))⟩

theorem dxSpiFrame_writes {mosi : List Byte} {x : Nat} (h : dxServes s = true) (hlen : mosi.length = 5) (hw : nbit (u8 mosi 0) 7 = false)
    (hrw : dxRw (be16 mosi 1) = true) (hx : dxTakes s (be16 mosi 1) (be16 mosi 3) = some x) : Goes (.dxSpiFrame mosi false) s fun t =>
      t.dxCell (be16 mosi 1) = (if be16 mosi 1 = 0x010 ∧ s.dx.softRst = true then x ||| 0x80 else x) % 65536 ∧
        (∀ a, a ≠ be16 mosi 1 → t.dxCell a = s.dxCell a) ∧ t.fld R.DXW.STAT.WRITE_EV = 1 ∧ be16 mosi 1 ∈ t.dx.dirty ∧
        Touches [R.DXW.STAT.WRITE_EV] s t := by
  have hrun := exec_dxWord h hlen
  rw [hw, if_neg Bool.false_ne_true, be16_drop] at hrun
  obtain ⟨h1, h2, h3, h4, h5⟩ := dxWrite_taken hrw hx
  exact ⟨_, hrun, h1, h2, h3, h4, touches_rf rfl h5⟩

theorem dxSpiFrame_ignored {mosi : List Byte} (h : dxServes s = true) (hlen : mosi.length = 5) (hw : nbit (u8 mosi 0) 7 = false)
    (hno : dxRw (be16 mosi 1) = false ∨ dxTakes s (be16 mosi 1) (be16 mosi 3) = none) : Goes (.dxSpiFrame mosi false) s fun t =>
      t = { s with out := .ctlTx (List.replicate 5 0) :: s.out } := by
  have hsame : dxWrite s (be16 mosi 1) (be16 mosi 3) = s := by
    unfold dxWrite
    cases hrw : dxRw (be16 mosi 1) with
    | false => rfl
    | true =>
      rw [if_neg (by decide), hno.resolve_left fun h => Bool.false_ne_true (h.symm.trans hrw)]
  have hrun := exec_dxWord h hlen
  rw [hw, if_neg Bool.false_ne_true, be16_drop, hsame] at hrun
  exact ⟨_, hrun, rfl⟩

/-! ### Discovery (R460) -/

theorem discoveryQuery_goes {q : List Byte} (hlive : dxLive s = true) (hdisc : dxDisc s = true) (hq : q.take 2 = [0x44, 0x58]) :
    Goes (.dxDiscoveryQuery q) s fun t => t = { s with out := t.out } ∧
      t.out = .dxReply ([0, 1, 3, 4, 5, 6, 7, 8].flatMap (fun a => beBytes 2 (dxView s a)) ++ List.replicate 16 0) :: s.out :=
  ⟨_, if_pos (by rw [hlive, hdisc, hq]; decide), rfl, rfl⟩

theorem discoveryQuery_idle {q : List Byte} (h : dxDisc s = false ∨ q.take 2 ≠ [0x44, 0x58]) : exec (.dxDiscoveryQuery q) s = .next s := by
  refine if_neg fun hc => ?_
  obtain ⟨hc, hq⟩ := (Bool.and_eq_true _ _).mp hc
  rcases h with h | h
  · exact Bool.false_ne_true (h.symm.trans ((Bool.and_eq_true _ _).mp hc).2)
  · exact h (by simpa using hq)

theorem sapAnnounce_goes {f : Nat} (hlive : dxLive s = true) (hdisc : dxDisc s = true) (hf : f < 8) (hst : s.fld (R.TXF.F_STAT.STATE f) ≠ 0) :
    Goes (.dxSapAnnounce f) s fun t => t = { s with freeCtr := s.freeCtr + 2, out := .announce f (dxSdp s f) true :: s.out } := by
  refine ⟨_, if_pos ?_, rfl⟩
  rw [hlive, hdisc, decide_eq_true hf]
  exact bne_iff_ne.mpr hst

theorem sapAnnounce_idle {f : Nat} (h : dxDisc s = false ∨ s.fld (R.TXF.F_STAT.STATE f) = 0) : exec (.dxSapAnnounce f) s = .next s := by
  refine if_neg fun hc => ?_
  simp only [Bool.and_eq_true, bne_iff_ne] at hc
  rcases h with h | h
  · exact Bool.false_ne_true (h.symm.trans hc.1.1.2)
  · exact hc.2 h

end

/-- Settles O54. -/
theorem dxFramesAndDiscovery : Obligations.DxFramesAndDiscovery := by
  unfold Obligations.DxFramesAndDiscovery
  intro s
  exact ⟨fun mosi b h => dxSpiFrame_unserved mosi b h, fun _ b h hlen => dxSpiFrame_short b h hlen,
    fun _ h hlen hr => dxSpiFrame_reads h hlen hr, fun _ _ h hlen hw hrw hx => dxSpiFrame_writes h hlen hw hrw hx,
    fun _ h hlen hw hno => dxSpiFrame_ignored h hlen hw hno, fun _ hlive hdisc hq => discoveryQuery_goes hlive hdisc hq,
    fun _ h => discoveryQuery_idle h, fun _ hlive hdisc hf hst => sapAnnounce_goes hlive hdisc hf hst, fun _ h => sapAnnounce_idle h⟩

end Sys2Proof.Machine
end

section
/-! Settles O46: polls, one-word reads and writes on the control port by SPI and I2C (R367 to R371). -/

namespace Sys2Proof.Machine

section
variable {s : State}

/-! ### Parts of a frame -/

theorem ctlPolled_leaves (s : State) : RfFrame s (ctlPolled s) ∧
    (ctlPolled s).fld R.HST.CTL_FRAMES.COUNT = min (2 ^ 32 - 1) (s.fld R.HST.CTL_FRAMES.COUNT + 1) ∧
    Touches [R.HST.CTL_FRAMES.COUNT, R.HST.SAT.CTL] s (ctlPolled s) :=
  ⟨countSat_frame s _ _ 0, fld_countSat s 0 rfl (by decide), touches_countSat 0 (by simp) (by simp) (.refl _ s)⟩

/-- A frame with nothing wrong but a malformed end. -/
theorem ctlEnd_err_leaves (s : State) : (ctlEnd s { ctlClean with err := true }).fld R.HST.CTL_STAT.FRAME_ERR_EV = 1 ∧
    (ctlEnd s { ctlClean with err := true }).fld R.HST.CTL_ERRS.COUNT = min (2 ^ 32 - 1) (s.fld R.HST.CTL_ERRS.COUNT + 1) ∧
    Touches [R.HST.CTL_STAT.STATUS, R.HST.CTL_STAT.FRAME_ERR_EV, R.HST.CTL_FRAMES.COUNT, R.HST.CTL_ERRS.COUNT, R.HST.SAT.CTL] s
      (ctlEnd s { ctlClean with err := true }) := by
  have hrun : ∃ v w, ctlEnd s { ctlClean with err := true } = ((((((ctlBegin s).setFld R.HST.CTL_STAT.STATUS v).setFld
      R.HST.CTL_STAT.STATUS w).setFld R.HST.CTL_STAT.FRAME_ERR_EV 1).countSat R.HST.CTL_FRAMES.COUNT R.HST.SAT.CTL 0).countSat
      R.HST.CTL_ERRS.COUNT R.HST.SAT.CTL 1) := by
    unfold ctlEnd ctlClean
    simp only [Bool.true_or, if_true, Bool.false_eq_true, if_false]
    exact ⟨_, _, rfl⟩
  obtain ⟨v, w, e⟩ := hrun
  have hset : ∀ g : Fld, g.key ≠ 0x11024 → (((ctlBegin s).setFld R.HST.CTL_STAT.STATUS v).setFld R.HST.CTL_STAT.STATUS w |>.setFld
      R.HST.CTL_STAT.FRAME_ERR_EV 1).fld g = s.fld g := fun g hg => by
    rw [State.fld_setFld_ne _ _ hg, State.fld_setFld_ne _ _ hg, State.fld_setFld_ne _ _ hg]
    rfl
  have hcount : ∀ (u : State) (f : Fld) (i : Nat) (g : Fld), g.key ≠ f.key → g.key ≠ 0x11044 →
      (u.countSat f R.HST.SAT.CTL i).fld g = u.fld g := fun u f i g h1 h2 =>
    (touches_countSat (l := [f, R.HST.SAT.CTL]) i (by simp) (by simp) (.refl _ u)).fld fun x hx => Fld.apart_of_key_ne (by
      simp only [List.mem_cons, List.not_mem_nil, or_false] at hx
      rcases hx with rfl | rfl
      · exact h1
      · exact h2)
  have hbegin : Touches [R.HST.CTL_STAT.STATUS, R.HST.CTL_STAT.FRAME_ERR_EV, R.HST.CTL_FRAMES.COUNT, R.HST.CTL_ERRS.COUNT, R.HST.SAT.CTL]
      s (ctlBegin s) := .of_rf _ rfl
  rw [e]
  generalize ctlBegin s = b at hset hbegin
  have hstat := touches_setFld (v := 1) (f := R.HST.CTL_STAT.FRAME_ERR_EV) (by simp) (touches_setFld (v := w) (f := R.HST.CTL_STAT.STATUS)
    (by simp) (touches_setFld (v := v) (f := R.HST.CTL_STAT.STATUS) (by simp) hbegin))
  refine ⟨?_, ?_, touches_countSat 1 (by simp) (by simp) (touches_countSat 0 (by simp) (by simp) hstat)⟩
  · rw [hcount _ _ _ _ (by decide) (by decide), hcount _ _ _ _ (by decide) (by decide)]
    exact State.fld_setFld_mod _ _ _ rfl
  · rw [fld_countSat _ _ rfl (by decide), hcount _ _ _ _ (by decide) (by decide), hset _ (by decide)]
    rfl

theorem stalled_ctlBegin (h : (s.side 1).stalled = none) : ((ctlBegin s).side 1).stalled = none := by
  by_cases hlen : 1 < s.bus.length
  · rw [ctlBegin, side_setSide_self _ hlen]
    exact h
  · have hbus : (ctlBegin s).bus = s.bus := modifyAt_of_length_le _ (Nat.le_of_not_lt hlen)
    rw [State.side, hbus]
    exact h

theorem ctlSettle_free (h : (s.side 1).stalled = none) : ctlSettle s = s := by
  unfold ctlSettle
  rw [h]

theorem length_beBytes4 (n : Nat) : (beBytes 4 n).length = 4 := by
  rw [beBytes, List.length_reverse, length_leBytes]

/-- One whole word is read. -/
theorem ctlReadFrame_word {late : List Nat} {a : Nat} (hlate : late.contains 0 = false) (ha : a % 4 = 0) (h0 : (s.side 1).stalled = none)
    (h1 : ((busRead s 1 a).side 1).stalled = none) : ctlReadFrame s late 1 a 4 4 =
      (ctlEnd (busRead s 1 a) ctlClean, beBytes 4 ((busRead s 1 a).side 1).data.toNat) := by
  have hword : ctlReadWord s (a + 4 * 0) = (busRead s 1 a, ((busRead s 1 a).side 1).data) := by
    unfold ctlReadWord
    dsimp only [busAcc]
    rw [Nat.mul_zero, Nat.add_zero, ctlSettle_free h1]
  have hreads : ctlReads late a 4 1 0 s (s, [], ctlClean) = (busRead s 1 a, [((busRead s 1 a).side 1).data], ctlClean) := by
    unfold ctlReads
    dsimp only
    rw [hword]
    dsimp only
    rw [hlate, if_neg Bool.false_ne_true]
    rfl
  have hbytes : ∀ w : Word, ((([w] : List Word).flatMap fun w => beBytes 4 w.toNat) ++
      List.replicate (4 - (([w] : List Word).flatMap fun w => beBytes 4 w.toNat).length) (0 : Byte)).take 4 = beBytes 4 w.toNat := fun w => by
    rw [List.flatMap_singleton, length_beBytes4]
    exact (congrArg (List.take 4) (List.append_nil _)).trans (List.take_of_length_le (Nat.le_of_eq (length_beBytes4 _)))
  have hone : min 1 ((4 + 3) / 4) = 1 := rfl
  have hwhole : decide (4 * 1 < 4) = false := rfl
  unfold ctlReadFrame
  rw [if_neg (by rw [ha]; decide), ctlSettle_free h0, hone, hwhole]
  show (match ctlReads late a 4 1 0 s (s, [], ctlClean) with
    | (t, ws, f) => (ctlEnd t f, ((ws.flatMap fun w : Word => beBytes 4 w.toNat) ++
      List.replicate (4 - (ws.flatMap fun w : Word => beBytes 4 w.toNat).length) 0).take 4)) = _
  rw [hreads]
  exact congrArg (Prod.mk _) (hbytes _)

/-- One whole word is written, by a frame that wakes nothing. -/
theorem ctlWriteFrame_word {a : Nat} {data : List Byte} (ha : a % 4 = 0) (hlen : data.length = 4) (h0 : (s.side 1).stalled = none)
    (h1 : ((follow s (busWrite s 1 a (BitVec.ofNat 32 (fromBE data))).1).side 1).stalled = none)
    (hw : (ctlEnd (follow s (busWrite s 1 a (BitVec.ofNat 32 (fromBE data))).1) ctlClean).pstate ≠ 1) :
    ctlWriteFrame s 1 a 4 data = ctlEnd (follow s (busWrite s 1 a (BitVec.ofNat 32 (fromBE data))).1) ctlClean := by
  have hwords : wordsBE 1 data = [BitVec.ofNat 32 (fromBE data)] := by
    unfold wordsBE
    rw [if_neg (by omega), List.take_of_length_le (Nat.le_of_eq hlen)]
    rfl
  have hwrites : ctlWrites a 4 0 [BitVec.ofNat 32 (fromBE data)] s = follow s (busWrite s 1 a (BitVec.ofNat 32 (fromBE data))).1 := by
    unfold ctlWrites
    exact ctlSettle_free h1
  have hwhole : decide (data.length ≠ 4 * [BitVec.ofNat 32 (fromBE data)].length) = false := by
    rw [hlen]
    rfl
  unfold ctlWriteFrame
  rw [if_neg (by rw [ha]; decide), hwords, ctlSettle_free h0]
  dsimp only
  rw [hwrites, hwhole]
  exact if_neg fun h => hw h.1

/-! ### SPI frames (R367 to R369) -/

theorem spiFrame_unserved {mosi : List Byte} (late : List Nat) (h : s.flag R.SYS.STRAPS.CTL_SEL = true ∨ ctlServes s = false) (hne : mosi ≠ []) :
    Goes (.ctlSpiFrame mosi late) s fun t => t = { s with out := .ctlHighZ :: s.out } := by
  have hno : s.flag R.SYS.STRAPS.CTL_SEL = true ∨ (!ctlServes s) = true := h.imp_right fun h => by rw [h]; rfl
  have hrun : exec (.ctlSpiFrame mosi late) s = .next (if mosi.isEmpty then s else s.emit .ctlHighZ) := if_pos hno
  rw [if_neg (by simpa using hne)] at hrun
  exact ⟨_, hrun, rfl⟩

/-- A frame of a port that is served by SPI. -/
theorem spiFrame_served {mosi : List Byte} (late : List Nat) (hsel : s.flag R.SYS.STRAPS.CTL_SEL = false) (hon : ctlServes s = true)
    (hne : mosi ≠ []) : exec (.ctlSpiFrame mosi late) s =
      (if mosi.length = 1 then .next ((ctlPolled s).emit (.ctlTx [BitVec.ofNat 8 (ctlStatus s)]))
      else if mosi.length < 5 then .next ((ctlEnd (ctlBegin s) { ctlClean with err := true }).emit
        (.ctlTx (BitVec.ofNat 8 (ctlStatus s) :: List.replicate (mosi.length - 1) 0)))
      else if nbit (u8 mosi 0) 6 then .next ((ctlWriteFrame (ctlBegin s) (u8 mosi 0 % 64 + 1) (be32 mosi 1) (if nbit (u8 mosi 0) 7 then 0 else 4)
        (mosi.drop 5)).emit (.ctlTx (BitVec.ofNat 8 (ctlStatus s) :: List.replicate (mosi.length - 1) 0)))
      else .next ((ctlReadFrame (ctlBegin s) late (u8 mosi 0 % 64 + 1) (be32 mosi 1) (if nbit (u8 mosi 0) 7 then 0 else 4)
        (mosi.length - 1 - (4 + min (ctlDummy s) (mosi.length - 5)))).1.emit (.ctlTx (BitVec.ofNat 8 (ctlStatus s) ::
          List.replicate (4 + min (ctlDummy s) (mosi.length - 5)) 0 ++
          (ctlReadFrame (ctlBegin s) late (u8 mosi 0 % 64 + 1) (be32 mosi 1) (if nbit (u8 mosi 0) 7 then 0 else 4)
            (mosi.length - 1 - (4 + min (ctlDummy s) (mosi.length - 5)))).2)))) := by
  have hgo : ¬ (s.flag R.SYS.STRAPS.CTL_SEL = true ∨ (!ctlServes s) = true) := by
    rw [hsel, hon]
    decide
  show execCtlSpiFrame mosi late s = _
  unfold execCtlSpiFrame
  dsimp only
  rw [if_neg hgo, if_neg (by simpa using hne)]

theorem spiPoll_goes (x : Byte) (late : List Nat) (hsel : s.flag R.SYS.STRAPS.CTL_SEL = false) (hon : ctlServes s = true) :
    Goes (.ctlSpiFrame [x] late) s fun t =>
      t = { s with rf := t.rf, out := .ctlTx [BitVec.ofNat 8 (ctlStatus s)] :: s.out } ∧
        t.fld R.HST.CTL_FRAMES.COUNT = min (2 ^ 32 - 1) (s.fld R.HST.CTL_FRAMES.COUNT + 1) ∧
        Touches [R.HST.CTL_FRAMES.COUNT, R.HST.SAT.CTL] s t := by
  have hrun := spiFrame_served (mosi := [x]) late hsel hon (List.cons_ne_nil _ _)
  rw [if_pos (show [x].length = 1 from rfl)] at hrun
  obtain ⟨hframe, hcount, htouch⟩ := ctlPolled_leaves s
  refine ⟨_, hrun, ?_, hcount, touches_rf rfl htouch⟩
  unfold RfFrame at hframe
  generalize ctlPolled s = u at hframe
  generalize u.rf = r at hframe
  subst hframe
  rfl

theorem ne_nil_of_length {l : List Byte} {n : Nat} (h : l.length = n + 1) : l ≠ [] := fun e => by
  rw [e] at h
  exact absurd h (Nat.succ_ne_zero n).symm

theorem spiRead_goes {mosi : List Byte} {a : Nat} (hsel : s.flag R.SYS.STRAPS.CTL_SEL = false) (hon : ctlServes s = true)
    (hlen : mosi.length = 9 + ctlDummy s) (hcmd : u8 mosi 0 = 0) (haddr : be32 mosi 1 = a) (ha : a % 4 = 0) (h0 : (s.side 1).stalled = none)
    (h1 : ((busRead (ctlBegin s) 1 a).side 1).stalled = none) : Goes (.ctlSpiFrame mosi []) s fun t =>
      t = (ctlEnd (busRead (ctlBegin s) 1 a) ctlClean).emit (.ctlTx (BitVec.ofNat 8 (ctlStatus s) :: List.replicate (4 + ctlDummy s) 0 ++
        beBytes 4 ((busRead (ctlBegin s) 1 a).side 1).data.toNat)) := by
  have hrun := spiFrame_served (mosi := mosi) [] hsel hon (ne_nil_of_length (n := 8 + ctlDummy s) (by omega))
  have hlead : min (ctlDummy s) (mosi.length - 5) = ctlDummy s := by omega
  have hsent : mosi.length - 1 - (4 + ctlDummy s) = 4 := by omega
  have hno6 : ¬ nbit 0 6 = true := Bool.false_ne_true
  have hno7 : ¬ nbit 0 7 = true := Bool.false_ne_true
  rw [if_neg (by omega), if_neg (by omega), hcmd, if_neg hno6, haddr, hlead, hsent, if_neg hno7,
    show 0 % 64 + 1 = 1 from rfl, ctlReadFrame_word rfl ha (stalled_ctlBegin h0) h1] at hrun
  exact ⟨_, hrun, rfl⟩

theorem spiWrite_goes {mosi : List Byte} {a : Nat} {u : State} (late : List Nat) (hsel : s.flag R.SYS.STRAPS.CTL_SEL = false)
    (hon : ctlServes s = true) (hlen : mosi.length = 9) (hcmd : u8 mosi 0 = 0x40) (haddr : be32 mosi 1 = a) (ha : a % 4 = 0)
    (h0 : (s.side 1).stalled = none)
    (hu : u = follow (ctlBegin s) (busWrite (ctlBegin s) 1 a (BitVec.ofNat 32 (fromBE (mosi.drop 5)))).1)
    (h1 : (u.side 1).stalled = none) (hw : (ctlEnd u ctlClean).pstate ≠ 1) : Goes (.ctlSpiFrame mosi late) s fun t =>
      t = (ctlEnd u ctlClean).emit (.ctlTx (BitVec.ofNat 8 (ctlStatus s) :: List.replicate 8 0)) := by
  subst hu
  have hrun := spiFrame_served (mosi := mosi) late hsel hon (ne_nil_of_length hlen)
  have hdata : (mosi.drop 5).length = 4 := by rw [List.length_drop, hlen]
  have h6 : nbit 0x40 6 = true := by decide
  have hno7 : ¬ nbit 0x40 7 = true := by decide
  rw [if_neg (by omega), if_neg (by omega), hcmd, if_pos h6, haddr, if_neg hno7, show 0x40 % 64 + 1 = 1 from rfl, hlen,
    ctlWriteFrame_word ha hdata (stalled_ctlBegin h0) h1 hw] at hrun
  exact ⟨_, hrun, rfl⟩

theorem spiCut_goes {mosi : List Byte} (late : List Nat) (hsel : s.flag R.SYS.STRAPS.CTL_SEL = false) (hon : ctlServes s = true)
    (h2 : 2 ≤ mosi.length) (h5 : mosi.length < 5) : Goes (.ctlSpiFrame mosi late) s fun t => t.fld R.HST.CTL_STAT.FRAME_ERR_EV = 1 ∧
        t.fld R.HST.CTL_ERRS.COUNT = min (2 ^ 32 - 1) (s.fld R.HST.CTL_ERRS.COUNT + 1) ∧
        Touches [R.HST.CTL_STAT.STATUS, R.HST.CTL_STAT.FRAME_ERR_EV, R.HST.CTL_FRAMES.COUNT, R.HST.CTL_ERRS.COUNT,
          R.HST.SAT.CTL] s t := by
  have hrun := spiFrame_served (mosi := mosi) late hsel hon (ne_nil_of_length (n := mosi.length - 1) (by omega))
  rw [if_neg (by omega), if_pos h5] at hrun
  obtain ⟨hev, herr, htouch⟩ := ctlEnd_err_leaves (ctlBegin s)
  have hold : (ctlBegin s).fld R.HST.CTL_ERRS.COUNT = s.fld R.HST.CTL_ERRS.COUNT := rfl
  rw [hold] at herr
  generalize ctlEnd (ctlBegin s) { ctlClean with err := true } = u at hrun hev herr htouch
  exact ⟨_, hrun, hev, herr, touches_rf rfl ((Touches.of_rf _ rfl).trans htouch)⟩

/-! ### I2C frames (R370) -/

theorem i2cFrame_ignored (g : Nat) (sent : List Byte) (rd : Option Nat)
    (h : s.flag R.SYS.STRAPS.CTL_SEL = false ∨ ctlServes s = false ∨ g ≠ 0x50 + s.fld R.SYS.STRAPS.STACK_POS) :
    exec (.ctlI2cFrame g sent rd) s = .next s := by
  refine if_pos ?_
  rcases h with h | h | h
  · exact .inl (by rw [h]; rfl)
  · exact .inr (.inl (by rw [h]; rfl))
  · exact .inr (.inr h)

/-- A frame to a port that is served by I2C. -/
theorem i2c_served (hsel : s.flag R.SYS.STRAPS.CTL_SEL = true) (hon : ctlServes s = true) :
    ¬ ((!s.flag R.SYS.STRAPS.CTL_SEL) = true ∨ (!ctlServes s) = true ∨ 0x50 + s.fld R.SYS.STRAPS.STACK_POS ≠ 0x50 + s.fld R.SYS.STRAPS.STACK_POS) := by
  rw [hsel, hon]
  simp

theorem i2cPoll_goes (n : Nat) (hsel : s.flag R.SYS.STRAPS.CTL_SEL = true) (hon : ctlServes s = true) :
    Goes (.ctlI2cFrame (0x50 + s.fld R.SYS.STRAPS.STACK_POS) [] (some (n + 1))) s fun t =>
      t = { s with rf := t.rf, out := .ctlTx (BitVec.ofNat 8 (ctlStatus s) :: List.replicate n 0) :: s.out } ∧
        t.fld R.HST.CTL_FRAMES.COUNT = min (2 ^ 32 - 1) (s.fld R.HST.CTL_FRAMES.COUNT + 1) := by
  have hrun : exec (.ctlI2cFrame (0x50 + s.fld R.SYS.STRAPS.STACK_POS) [] (some (n + 1))) s =
      .next ((ctlPolled s).emit (.ctlTx (BitVec.ofNat 8 (ctlStatus s) :: List.replicate n 0))) := if_neg (i2c_served hsel hon)
  obtain ⟨hframe, hcount, -⟩ := ctlPolled_leaves s
  refine ⟨_, hrun, ?_, hcount⟩
  unfold RfFrame at hframe
  generalize ctlPolled s = u at hframe
  generalize u.rf = r at hframe
  subst hframe
  rfl

theorem i2cRead_goes {sent : List Byte} {a : Nat} (hsel : s.flag R.SYS.STRAPS.CTL_SEL = true) (hon : ctlServes s = true)
    (hlen : sent.length = 5) (hcmd : u8 sent 0 = 0) (haddr : be32 sent 1 = a) (ha : a % 4 = 0) (h0 : (s.side 1).stalled = none)
    (h1 : ((busRead (ctlBegin s) 1 a).side 1).stalled = none) :
    Goes (.ctlI2cFrame (0x50 + s.fld R.SYS.STRAPS.STACK_POS) sent (some 5)) s fun t =>
      t = (ctlEnd (busRead (ctlBegin s) 1 a) ctlClean).emit (.ctlTx (BitVec.ofNat 8 (ctlStatus s) ::
        beBytes 4 ((busRead (ctlBegin s) 1 a).side 1).data.toNat)) := by
  have hno6 : ¬ nbit 0 6 = true := Bool.false_ne_true
  have hno7 : ¬ nbit 0 7 = true := Bool.false_ne_true
  have hrun : exec (.ctlI2cFrame (0x50 + s.fld R.SYS.STRAPS.STACK_POS) sent (some 5)) s =
      .next ((ctlReadFrame (ctlBegin s) [] 1 a 4 4).1.emit (.ctlTx ((BitVec.ofNat 8 (ctlStatus s) :: (ctlReadFrame (ctlBegin s) [] 1 a 4 4).2).take 5))) := by
    show execCtlI2cFrame _ sent (some 5) s = _
    unfold execCtlI2cFrame
    dsimp only
    rw [if_neg (i2c_served hsel hon), if_neg (by simpa using ne_nil_of_length hlen), if_neg (by omega), hcmd, if_neg hno6, haddr, if_neg hno7]
  rw [ctlReadFrame_word rfl ha (stalled_ctlBegin h0) h1, List.take_of_length_le] at hrun
  · exact ⟨_, hrun, rfl⟩
  · rw [List.length_cons, length_beBytes4]

theorem i2cWrite_goes {sent : List Byte} {a : Nat} {u : State} (hsel : s.flag R.SYS.STRAPS.CTL_SEL = true) (hon : ctlServes s = true)
    (hlen : sent.length = 9) (hcmd : u8 sent 0 = 0x40) (haddr : be32 sent 1 = a) (ha : a % 4 = 0) (h0 : (s.side 1).stalled = none)
    (hu : u = follow (ctlBegin s) (busWrite (ctlBegin s) 1 a (BitVec.ofNat 32 (fromBE (sent.drop 5)))).1)
    (h1 : (u.side 1).stalled = none) (hw : (ctlEnd u ctlClean).pstate ≠ 1) :
    Goes (.ctlI2cFrame (0x50 + s.fld R.SYS.STRAPS.STACK_POS) sent none) s fun t => t = (ctlEnd u ctlClean).emit (.ctlTx []) := by
  subst hu
  have hdata : (sent.drop 5).length = 4 := by rw [List.length_drop, hlen]
  have h6 : nbit 0x40 6 = true := by decide
  have hno7 : ¬ nbit 0x40 7 = true := by decide
  have hrun : exec (.ctlI2cFrame (0x50 + s.fld R.SYS.STRAPS.STACK_POS) sent none) s =
      .next ((ctlWriteFrame (ctlBegin s) 1 a 4 (sent.drop 5)).emit (.ctlTx [])) := by
    show execCtlI2cFrame _ sent none s = _
    unfold execCtlI2cFrame
    dsimp only
    rw [if_neg (i2c_served hsel hon), if_neg (by simpa using ne_nil_of_length hlen), if_neg (by omega), hcmd, if_pos h6, haddr, if_neg hno7]
    rfl
  rw [ctlWriteFrame_word ha hdata (stalled_ctlBegin h0) h1 hw] at hrun
  exact ⟨_, hrun, rfl⟩

end

/-- Settles O46. -/
theorem controlPortFrames : Obligations.ControlPortFrames := by
  unfold Obligations.ControlPortFrames
  intro s
  exact ⟨fun _ late h hne => spiFrame_unserved late h hne, fun x late hsel hon => spiPoll_goes x late hsel hon,
    fun _ _ hsel hon hlen hcmd haddr ha h0 h1 => spiRead_goes hsel hon hlen hcmd haddr ha h0 h1,
    fun _ _ late _ hsel hon hlen hcmd haddr ha h0 hu h1 hw => spiWrite_goes late hsel hon hlen hcmd haddr ha h0 hu h1 hw,
    fun _ late hsel hon h2 h5 => spiCut_goes late hsel hon h2 h5, fun g sent rd h => i2cFrame_ignored g sent rd h,
    fun n hsel hon => i2cPoll_goes n hsel hon,
    fun _ _ hsel hon hlen hcmd haddr ha h0 h1 => i2cRead_goes hsel hon hlen hcmd haddr ha h0 h1,
    fun _ _ _ hsel hon hlen hcmd haddr ha h0 hu h1 hw => i2cWrite_goes hsel hon hlen hcmd haddr ha h0 hu h1 hw⟩

end Sys2Proof.Machine
end

section
/-! Refutes O49 and O50: a stray cell whose parity counter is the register of the twin's state (R289, R403, R407). -/

namespace Sys2Proof.Machine

/-- The cell number of the half whose parity counter has the address of TWIN.STAT. -/
def twinCell : CellNo := ⟨8158, 0⟩

theorem parCnt_twinCell : R.GAL.PAR_CNT.reg twinCell.half = R.TWIN.STAT.reg := rfl

/-- An active twin, a handover asked of it, whose stack-out queue 0 holds a slug in that cell with one inverted bit; the bits
of TWIN.STAT below STATE are ones. -/
def cellTwin : State := { State.reset with
  rf := [(R.STK.LINK.reg 0, (R.STK.LINK.UP 0).mask), (R.TWIN.CMD.reg, R.TWIN.CMD.HANDOVER.mask), (R.TWIN.STAT.reg, 0x2FFFFFFF#32)]
  gal := { galReset with
    qs := [(896, { gqEmpty with elems := [.slug ⟨1, 0, 0, 0, false, false, twinCell⟩] })]
    flips := [(twinCell, 0, 0)] } }

theorem state_cellTwin : cellTwin.fld R.TWIN.STAT.STATE = 2 ∧ cellTwin.flag R.TWIN.CMD.HANDOVER = true := by decide +kernel

/-- The final checkpoint of a handover drains the slug, and its parity error counts the state up to 3. -/
theorem handover_cellTwin : (nextOr cellTwin (exec .twinCmdHandover cellTwin)).fld R.TWIN.STAT.STATE = 3 := by decide +kernel

/-- So does the checkpoint of a millisecond. -/
theorem checkpoint_cellTwin : (nextOr cellTwin (exec .twinCheckpointDynamicTx cellTwin)).fld R.TWIN.STAT.STATE = 3 := by decide +kernel

theorem goes_nextOr {c : Instr} {s : State} {P : State → Prop} (h : Goes c s P) : P (nextOr s (exec c s)) := by
  obtain ⟨t, hexec, hP⟩ := h
  rw [hexec]
  exact hP

/-- Refutes O49: a handover of `cellTwin` leaves STATE 3, because the model's parity counter of a cell is addressed by the
cell's half, which no statement bounds. -/
theorem not_twinDecisionSteps : ¬ Obligations.TwinDecisionSteps := by
  intro h
  obtain ⟨-, -, -, -, -, -, -, -, -, -, -, -, hover, -⟩ := h cellTwin
  obtain ⟨-, -, hstate⟩ := goes_nextOr (hover state_cellTwin.2 state_cellTwin.1 rfl)
  exact absurd (handover_cellTwin.symm.trans hstate) (by decide)

/-- Refutes O50: a checkpoint of `cellTwin` leaves STATE 3, for the same reason. -/
theorem not_twinCheckpointAndHealthSteps : ¬ Obligations.TwinCheckpointAndHealthSteps := by
  intro h
  obtain ⟨-, -, -, -, -, hsend, -⟩ := h cellTwin
  obtain ⟨-, -, hstate⟩ := goes_nextOr (hsend state_cellTwin.1)
  exact absurd (checkpoint_cellTwin.symm.trans hstate) (by decide)

end Sys2Proof.Machine
end

section
/-! Refutes O47: a stray cell whose parity counter is the register of the generation (R289, R389). -/

namespace Sys2Proof.Machine

/-- `strayTwin` as a member of a stack whose master is at generation 5. -/
def strayMember : State := { strayTwin with
  rf := strayTwin.rf ++ [(R.STK.ID.reg, R.STK.ID.STATE.ins 3 0)]
  stk := { strayTwin.stk with mgen := 5 } }

theorem strayMember_pulls : strayMember.stk.links.length = 2 ∧ stkMember strayMember = true ∧ liveGen strayMember ≠ strayMember.stk.mgen := by
  decide +kernel

/-- The checkpoint of the generation it takes drains the slug, and its parity error counts the generation up again. -/
theorem liveGen_strayMember : liveGen (nextOr strayMember (exec (.stkGenPull 0 0 [] false) strayMember)) = 6 := by decide +kernel

/-- Refutes O47: `strayMember` takes the master's generation 5 as 6, because the model's parity counter of a cell is addressed
by the cell's half, which no statement bounds. -/
theorem not_stackLinkAndMemberSteps : ¬ Obligations.StackLinkAndMemberSteps := by
  intro h
  obtain ⟨hlen, hmember, hgen⟩ := strayMember_pulls
  obtain ⟨-, -, -, -, -, -, -, -, -, -, -, -, hpull, -⟩ := h strayMember 0 (by decide) hlen
  obtain ⟨hlive, -⟩ := goes_nextOr (hpull 0 0 [] hmember hgen rfl)
  exact absurd (liveGen_strayMember.symm.trans hlive) (by decide +kernel)

end Sys2Proof.Machine
end

section
/-! An item whose cells are held before its words are written: its words, and its put and commit (R274, R275, R279). -/

namespace Sys2Proof.Machine

section
variable {s : State} {q : Nat}

/-- No stored bit is inverted and INJECT is not armed. -/
def Uninverted (s : State) : Prop := s.flag R.GAL.INJECT.ARM = false ∧ s.gal.flips = []

theorem Uninverted.storeMark (h : Uninverted s) (c : CellNo) (w : Nat) : Uninverted (storeMark s c w) :=
  (storeMark_clean h.1 h.2 c w).symm ▸ h

theorem Uninverted.setGq (h : Uninverted s) (x : GQueue) : Uninverted (s.setGq q x) := h

theorem flips_turnOn (s : State) (q : Nat) : (turnOn s q).gal.flips = s.gal.flips := by
  unfold turnOn
  split <;> rfl

theorem flips_takeCells (s : State) (q n : Nat) : (takeCells s q n).2.gal.flips = s.gal.flips := by
  induction n generalizing s with
  | zero => rfl
  | succ n ih =>
    unfold takeCells
    have hone := flips_turnOn (takeCell s (nextHalf s q)).2 q
    have htake : (takeCell s (nextHalf s q)).2.gal.flips = s.gal.flips := rfl
    generalize takeCell s (nextHalf s q) = c at hone htake
    obtain ⟨c, u⟩ := c
    dsimp only at hone htake ⊢
    generalize turnOn u q = v at hone
    exact (ih { v with gal := { v.gal with lost := c :: v.gal.lost } }).trans (hone.trans htake)

theorem Uninverted.takeCells (h : Uninverted s) (n : Nat) : Uninverted (takeCells s q n).2 :=
  ⟨(State.flag_of_fld (State.fld_of_rf_eq (takeCells_leaves s q n).2.2 _)).trans h.1, (flips_takeCells s q n).trans h.2⟩

/-- The next word of an open item that holds the cells it needs. -/
theorem galWord_held {it : GItem} {bs : List Byte} (last : Bool) (ho : (s.gq q).opened = some it)
    (hs : (s.gq q).swallow = false) (hfit : cellsFor (it.bytes.length + bs.length) ≤ it.cells.length) :
    ∃ u : State, u.gal.qs = s.gal.qs ∧ GalFrame s u ∧ Touches [R.GAL.INJECT.ARM] s u ∧ (Uninverted s → Uninverted u) ∧
      galWord s q bs last =
        if last then u.setGq q ((s.gq q).joined { it with bytes := it.bytes ++ bs })
        else u.setGq q { s.gq q with opened := some { it with bytes := it.bytes ++ bs } } := by
  have hneed : cellsFor (it.bytes.length + bs.length) - it.cells.length = 0 := Nat.sub_eq_zero_of_le hfit
  unfold galWord GQueue.joined
  dsimp only
  rw [hs, if_neg Bool.false_ne_true, ho]
  dsimp only
  rw [hneed, if_pos rfl]
  dsimp only [takeCells]
  rw [List.append_nil]
  cases it.cells[(it.bytes.length + bs.length - 1) / 8 / 8]? with
  | none => exact ⟨s, rfl, .refl s, .refl _ s, id, by rw [hs]⟩
  | some c =>
    refine ⟨storeMark s c ((it.bytes.length + bs.length - 1) / 8 % 8), qs_storeMark .., galFrame_storeMark ..,
      touches_storeMark (.refl _ s) c _ (by simp), fun h => h.storeMark c _, ?_⟩
    dsimp only
    rw [gq_of_qs (qs_storeMark s c _), hs]

/-- The words of an open item that holds the cells it needs, through the last: the item stands at the queue's end. -/
theorem galWords_held (n : Nat) {it : GItem} {bs : List Byte} (hn : n = (bs.length + 7) / 8) (hne : bs ≠ [])
    (ho : (s.gq q).opened = some it) (hs : (s.gq q).swallow = false)
    (hfit : cellsFor (it.bytes.length + bs.length) ≤ it.cells.length) :
    (galWords s q n bs).gq q = (s.gq q).joined { it with bytes := it.bytes ++ bs } ∧
      (∀ p, p ≠ q → (galWords s q n bs).gq p = s.gq p) ∧ GalFrame s (galWords s q n bs) ∧
      Touches [R.GAL.INJECT.ARM] s (galWords s q n bs) ∧ (Uninverted s → Uninverted (galWords s q n bs)) := by
  induction n generalizing s it bs with
  | zero =>
    have := List.length_pos_iff.mpr hne
    omega
  | succ n ih =>
    have htake : (bs.take 8).length = min 8 bs.length := List.length_take
    have hless : cellsFor (it.bytes.length + (bs.take 8).length) ≤ it.cells.length :=
      (Nat.div_le_div_right (by omega)).trans hfit
    obtain ⟨u, hqs, hframe, htouch, hflips, e⟩ := galWord_held (bs := bs.take 8) (decide (bs.length ≤ 8)) ho hs hless
    rw [galWords]
    by_cases hlast : bs.length ≤ 8
    · have hall : bs.take 8 = bs := List.take_of_length_le hlast
      have hzero : n = 0 := by omega
      rw [decide_eq_true hlast, hall, if_pos rfl] at e
      rw [decide_eq_true hlast, hall, hzero, galWords, e]
      exact ⟨gq_setGq_self .., fun p hp => (gq_setGq_ne u _ hp).trans (gq_of_qs hqs p), hframe.setGq _ _,
        touches_setGq htouch _ _, fun h => (hflips h).setGq _⟩
    · rw [decide_eq_false hlast, if_neg Bool.false_ne_true] at e
      rw [decide_eq_false hlast, e]
      have hgq := gq_setGq_self u q { s.gq q with opened := some { it with bytes := it.bytes ++ bs.take 8 } }
      have hother : ∀ p, p ≠ q →
          (u.setGq q { s.gq q with opened := some { it with bytes := it.bytes ++ bs.take 8 } }).gq p = s.gq p :=
        fun p hp => (gq_setGq_ne u _ hp).trans (gq_of_qs hqs p)
      have hv : GalFrame s (u.setGq q { s.gq q with opened := some { it with bytes := it.bytes ++ bs.take 8 } }) :=
        hframe.setGq _ _
      have hvt : Touches [R.GAL.INJECT.ARM] s
          (u.setGq q { s.gq q with opened := some { it with bytes := it.bytes ++ bs.take 8 } }) := touches_setGq htouch _ _
      have hvf : Uninverted s → Uninverted (u.setGq q { s.gq q with opened := some { it with bytes := it.bytes ++ bs.take 8 } }) :=
        fun h => (hflips h).setGq _
      generalize u.setGq q { s.gq q with opened := some { it with bytes := it.bytes ++ bs.take 8 } } = v
        at hgq hother hv hvt hvf
      obtain ⟨hq, hp, hf, ht, hfl⟩ := ih (s := v) (it := { it with bytes := it.bytes ++ bs.take 8 })
        (bs := bs.drop 8) (by rw [List.length_drop]; omega) (fun h0 => hlast (List.drop_eq_nil_iff.mp h0)) (by rw [hgq])
        (by rw [hgq]; exact hs)
        (by
          show cellsFor ((it.bytes ++ bs.take 8).length + (bs.drop 8).length) ≤ _
          rw [List.length_append, Nat.add_assoc, ← List.length_append, List.take_append_drop]
          exact hfit)
      refine ⟨?_, fun p hpq => (hp p hpq).trans (hother p hpq), hv.trans hf, hvt.trans ht, fun h => hfl (hvf h)⟩
      rw [hq, hgq]
      unfold GQueue.joined
      dsimp only
      rw [List.append_assoc, List.take_append_drop]

/-- An item that its queue's reservation holds, put with its length known before, joins the queue. -/
theorem galPut_known {bs : List Byte} (kind folio ts : Nat) (hne : bs ≠ []) (h : QueueTakes s q bs.length) :
    ∃ cells, cells.length = cellsFor bs.length ∧ (galPut s q kind true folio ts bs).gq q =
        { s.gq q with known := true, elems := (s.gq q).elems ++ [.item ⟨kind, folio, ts, cells, bs, false⟩] } ∧
      (∀ p, p ≠ q → (galPut s q kind true folio ts bs).gq p = s.gq p) ∧
      GalFrame s (galPut s q kind true folio ts bs) ∧ Touches [R.GAL.INJECT.ARM] s (galPut s q kind true folio ts bs) ∧
      (Uninverted s → Uninverted (galPut s q kind true folio ts bs)) := by
  obtain ⟨hidle, hopen, hroom, hshort⟩ := h
  obtain ⟨hl, hqs, hrf⟩ := takeCells_leaves s q (cellsFor bs.length)
  have hopened : galOpen s q kind (some bs.length) folio ts = (takeCells s q (cellsFor bs.length)).2.setGq q
      { s.gq q with opened := some ⟨kind, folio, ts, (takeCells s q (cellsFor bs.length)).1, [], false⟩, known := true } := by
    unfold galOpen
    dsimp only
    rw [hidle, hopen]
    dsimp only
    rw [if_neg (Nat.not_lt.mpr hshort), show allots s q (cellsFor bs.length) = none from if_pos hroom]
    dsimp only
    rw [gq_of_qs hqs, hopen]
  have hframe := galFrame_takeCells s q (cellsFor bs.length)
  have hflips : Uninverted s → Uninverted (takeCells s q (cellsFor bs.length)).2 := fun h => h.takeCells _
  unfold galPut
  dsimp only
  rw [if_pos rfl, hopened]
  generalize takeCells s q (cellsFor bs.length) = c at hl hqs hrf hframe hflips
  obtain ⟨cells, u⟩ := c
  dsimp only at hl hqs hrf hframe hflips ⊢
  have hgq := gq_setGq_self u q { s.gq q with opened := some ⟨kind, folio, ts, cells, [], false⟩, known := true }
  obtain ⟨hq, hp, hf, ht, hfl⟩ := galWords_held (s := u.setGq q { s.gq q with opened := some ⟨kind, folio, ts, cells, [], false⟩, known := true })
    (q := q) ((bs.length + 7) / 8) (it := ⟨kind, folio, ts, cells, [], false⟩) rfl hne (by rw [hgq]) (by rw [hgq]; exact hopen)
    (by show cellsFor (0 + bs.length) ≤ cells.length; rw [hl, Nat.zero_add])
  refine ⟨cells, hl, ?_, fun p hpq => (hp p hpq).trans ((gq_setGq_ne u _ hpq).trans (gq_of_qs hqs p)), (hframe.setGq _ _).trans hf,
    (touches_setGq (.of_rf _ hrf) _ _).trans ht, fun h => hfl ((hflips h).setGq _)⟩
  rw [hq, hgq, List.nil_append, GQueue.joined]
  dsimp only
  rw [hidle]

/-- A commit makes the last item live, where all before it are. -/
theorem galCommit_joined {pre : List GElem} {it : GItem} (he : (s.gq q).elems = pre ++ [.item it]) (hit : it.live = false)
    (hpre : pre.all GElem.live = true) : galCommit s q = galRefresh (s.setGq q { s.gq q with
      elems := pre ++ [.item { it with live := true }], slugFresh := false }) := by
  have hall : ¬ (s.gq q).elems.all GElem.live = true := by
    rw [he, List.all_append]
    simp [GElem.live, hit]
  unfold galCommit
  dsimp only
  rw [if_neg hall, he, liveFirst_append hpre hit]

theorem galFrame_galRefresh {t : State} (h : GalFrame s t) : GalFrame s (galRefresh t) := h.trans rfl

theorem Uninverted.galRefresh (h : Uninverted s) : Uninverted (galRefresh s) :=
  ⟨(State.flag_of_fld ((touches_galRefresh (l := [R.GAL.EVT.LOW]) (.refl _ s) (by simp)).fld (by decide))).trans h.1, h.2⟩

/-- An item that its queue's reservation holds, put with its length known before and committed, is the queue's last. -/
theorem galPut_committed {bs : List Byte} (kind folio ts : Nat) (hne : bs ≠ []) (h : QueueTakes s q bs.length)
    (hlive : (s.gq q).elems.all GElem.live = true) :
    ∃ cells, cells.length = cellsFor bs.length ∧ (galCommit (galPut s q kind true folio ts bs) q).gq q = { s.gq q with
        known := true, slugFresh := false, elems := (s.gq q).elems ++ [.item ⟨kind, folio, ts, cells, bs, true⟩] } ∧
      (∀ p, p ≠ q → (galCommit (galPut s q kind true folio ts bs) q).gq p = s.gq p) ∧
      GalFrame s (galCommit (galPut s q kind true folio ts bs) q) ∧
      Touches [R.GAL.EVT.LOW, R.GAL.INJECT.ARM] s (galCommit (galPut s q kind true folio ts bs) q) ∧
      (Uninverted s → Uninverted (galCommit (galPut s q kind true folio ts bs) q)) := by
  obtain ⟨cells, hsize, hq, hp, hf, ht, hfl⟩ := galPut_known kind folio ts hne h
  generalize galPut s q kind true folio ts bs = u at hq hp hf ht hfl
  have hcommit := galCommit_joined (s := u) (q := q) (pre := (s.gq q).elems) (it := ⟨kind, folio, ts, cells, bs, false⟩)
    (by rw [hq]) rfl hlive
  rw [hcommit]
  refine ⟨cells, hsize, ?_, fun p hpq => (gq_setGq_ne u _ hpq).trans (hp p hpq), galFrame_galRefresh (hf.setGq _ _),
    touches_galRefresh (touches_setGq (ht.mono (by simp)) _ _) (by simp), fun h => ((hfl h).setGq _).galRefresh⟩
  rw [gq_galRefresh, gq_setGq_self, hq]

end

end Sys2Proof.Machine
end

section
/-! The steps of a host block that receives: start, blocks, slots, confirming reads and acknowledgements (R355, R359 to R362). -/

namespace Sys2Proof.Machine

/-! ### Blocks -/

section
variable {s t : State} {i : Nat}

theorem itemKey_ne_of_mod {a c : Nat} (j : Nat) (h : a % 0x1000000 ≠ c % 0x1000000) : itemKey a j ≠ c := by
  unfold itemKey
  omega

theorem hst_setHst_self (s : State) (i : Nat) (x : HostBlk) : (s.setHst i x).hst i = x := sGet_put_self ..

theorem hst_setHst_ne (s : State) {i j : Nat} (x : HostBlk) (h : j ≠ i) : (s.setHst i x).hst j = s.hst j := sGet_put_ne _ _ _ h

theorem touches_hstGo {l : List Fld} (h : Touches l s t) (st : Nat) (h0 : R.HST.B_STAT.STATE i ∈ l)
    (h1 : R.HST.B_STAT.STATE_EV i ∈ l) : Touches l s (hstGo t i st) :=
  touches_ite h (touches_setFlds (by simp [h0, h1]) h)

theorem hstGo_frame (s : State) (i st : Nat) : RfFrame s (hstGo s i st) := by
  unfold hstGo
  split
  · exact .refl s
  · exact State.setFlds_frame s _

theorem hst_hstGo (s : State) (i j st : Nat) : (hstGo s i st).hst j = s.hst j := by
  unfold hstGo
  split <;> rfl

theorem hstState_hstGo (s : State) (i : Nat) {st : Nat} (h : st < 16) : hstState (hstGo s i st) i = st := by
  unfold hstGo
  split
  next e => exact e
  next => exact State.fld_setFlds _ 0 rfl (by simp [Fld.apart, R.HST.B_STAT.STATE, R.HST.B_STAT.STATE_EV]) rfl h

/-- From `s` to `t` nothing but registers and blocks change. -/
def HstFrame (s t : State) : Prop := t = { s with rf := t.rf, hsts := t.hsts }

namespace HstFrame

theorem trans {u : State} (h : HstFrame s t) (k : HstFrame t u) : HstFrame s u := by
  unfold HstFrame at *
  rw [k, h]

theorem of_rf (h : RfFrame s t) : HstFrame s t := by
  unfold RfFrame at h
  unfold HstFrame
  rw [h]

end HstFrame

/-- The fields of a block that its host index and its device index are not. -/
theorem stat_apart_idx (i j : Nat) {f g : Fld} (hf : f.key = R.HST.B_STAT.reg i) (hg : g.key = R.HST.B_IDX.reg j) : f.apart g = true :=
  Fld.apart_of_key_ne (by rw [hf, hg]; exact itemKey_ne i j (by decide))

/-- The registers that say where a block's ring and write-back lie and how long its slots are. -/
def RingKey (i k : Nat) : Prop := k = R.HST.B_CFG.reg i ∨ k = R.HST.B_RING_LO.reg i ∨ k = R.HST.B_RING_HI.reg i ∨
  k = R.HST.B_RING.reg i ∨ k = R.HST.B_WB_LO.reg i ∨ k = R.HST.B_WB_HI.reg i ∨ ∃ m, m < 8 ∧ k = R.CLK.MCS_CFG.reg m

section
variable {B : Nat → Prop} (h : OnlyIn B s t) (hB : ∀ k, B k → ¬ RingKey i k)
include h hB

theorem hstN_of_onlyIn : hstN t i = hstN s i := by
  have hcfg : ∀ f : Fld, f.key = R.HST.B_CFG.reg i → t.fld f = s.fld f := fun f hf => h.fld fun hb => hB _ hb (.inl hf)
  rw [hstN, hcfg (R.HST.B_CFG.PTIME i) rfl, hcfg (R.HST.B_CFG.MCS i) rfl, h.fld (f := R.CLK.MCS_CFG.RATE _)
    fun hb => hB _ hb (.inr (.inr (.inr (.inr (.inr (.inr ⟨s.fld (R.HST.B_CFG.MCS i), State.fld_lt s _, rfl⟩)))))), hstN]

theorem hstBytesOf_of_onlyIn : hstBytesOf t i = hstBytesOf s i := by
  rw [hstBytesOf, hstN_of_onlyIn h hB, h.fld (f := R.HST.B_CFG.CHANNELS i) fun hb => hB _ hb (.inl rfl), hstBytesOf]

theorem hstSlotAddr_of_onlyIn (idx : Nat) : hstSlotAddr t i idx = hstSlotAddr s i idx := by
  rw [hstSlotAddr, hstStride, hstBytesOf_of_onlyIn h hB, h.rd _ fun hb => hB _ hb (.inr (.inr (.inl rfl))),
    h.rd _ fun hb => hB _ hb (.inr (.inl rfl)),
    h.fld (f := R.HST.B_RING.ENTRIES i) fun hb => hB _ hb (.inr (.inr (.inr (.inl rfl)))), hstSlotAddr, hstStride]

theorem hstWbAddr_of_onlyIn : hstWbAddr t i = hstWbAddr s i := by
  rw [hstWbAddr, h.rd _ fun hb => hB _ hb (.inr (.inr (.inr (.inr (.inr (.inl rfl)))))),
    h.rd _ fun hb => hB _ hb (.inr (.inr (.inr (.inr (.inl rfl))))), hstWbAddr]

end

theorem hstWbAddr_of_rf (h : t.rf = s.rf) : hstWbAddr t i = hstWbAddr s i :=
  hstWbAddr_of_onlyIn ((OnlyIn.refl (B := fun _ => False) s).upd h) fun _ hk => hk.elim

theorem idx_not_ring (i : Nat) : ∀ k, k = R.HST.B_IDX.reg i → ¬ RingKey i k := by
  intro k hk
  unfold RingKey
  simp only [R.HST.B_IDX.reg, R.HST.B_CFG.reg, R.HST.B_RING_LO.reg, R.HST.B_RING_HI.reg, R.HST.B_RING.reg, R.HST.B_WB_LO.reg,
    R.HST.B_WB_HI.reg, R.CLK.MCS_CFG.reg, itemKey] at hk ⊢
  omega

/-! ### The start of a block (R359) -/

theorem alignUp_bounds (c : Nat) {n : Nat} (hn : 0 < n) : c ≤ alignUp c n ∧ alignUp c n < c + n ∧ alignUp c n % n = 0 := by
  unfold alignUp
  have hdiv := Nat.div_add_mod (c + n - 1) n
  have hmod := Nat.mod_lt (c + n - 1) hn
  rw [Nat.mul_comm] at hdiv
  exact ⟨by omega, by omega, Nat.mul_mod_left ..⟩

theorem hostBlockStart_goes {n c : Nat} (hn : n = max 1 (hstN s i)) (ha : hstState s i = hstArmed)
    (hc : c = indexAt s (s.fld (R.HST.B_CFG.MCS i)) ((s.hst i).armedAt + periods 2 (s.mcsFs (s.fld (R.HST.B_CFG.MCS i)))) +
      b2n (decide (instantOf s (s.fld (R.HST.B_CFG.MCS i)) (indexAt s (s.fld (R.HST.B_CFG.MCS i)) ((s.hst i).armedAt +
        periods 2 (s.mcsFs (s.fld (R.HST.B_CFG.MCS i))))) < (s.hst i).armedAt +
        periods 2 (s.mcsFs (s.fld (R.HST.B_CFG.MCS i))))))
    (hdue : c + n ≤ mcsCount s (s.fld (R.HST.B_CFG.MCS i))) : Goes (.hostBlockStart i) s fun t =>
      t = { s with rf := t.rf, hsts := t.hsts } ∧ hstState t i = hstRun ∧ c ≤ (t.hst i).k ∧ (t.hst i).k < c + n ∧
      (t.hst i).k % n = 0 ∧ (∀ j, j ≠ i → t.hst j = s.hst j) ∧
      Touches [R.HST.B_STAT.STATE i, R.HST.B_STAT.STATE_EV i] s t := by
  obtain ⟨hge, hlt, hmod⟩ := alignUp_bounds c (n := n) (by omega)
  have hexec : exec (.hostBlockStart i) s = .next (hstGo (s.setHst i { s.hst i with k := alignUp c n }) i hstRun) := by
    show execHostBlockStart i s = _
    unfold execHostBlockStart
    rw [if_neg (not_not.mpr ha)]
    dsimp only
    rw [← hc, ← hn, if_neg (by omega)]
  have hu : (s.setHst i { s.hst i with k := alignUp c n }).hst i = { s.hst i with k := alignUp c n } := hst_setHst_self ..
  have hother : ∀ j, j ≠ i → (s.setHst i { s.hst i with k := alignUp c n }).hst j = s.hst j := fun j hj => hst_setHst_ne s _ hj
  have hframe : HstFrame s (s.setHst i { s.hst i with k := alignUp c n }) := rfl
  have hrf : (s.setHst i { s.hst i with k := alignUp c n }).rf = s.rf := rfl
  refine ⟨_, hexec, ?_⟩
  generalize s.setHst i { s.hst i with k := alignUp c n } = u at hu hother hframe hrf
  refine ⟨HstFrame.trans hframe (.of_rf (hstGo_frame u i hstRun)), hstState_hstGo _ i (by decide), ?_⟩
  rw [hst_hstGo, hu]
  exact ⟨hge, hlt, hmod, fun j hj => (hst_hstGo u i j hstRun).trans (hother j hj),
    touches_hstGo (.of_rf _ hrf) _ (by simp) (by simp)⟩

/-! ### The blocks of a receive block (R355, R360) -/

/-- A word of a receive block's slot: four bytes, or four free ones where the word is absent. -/
def hrWord (s : State) (d k : Nat) (a : List Byte × State) : List Byte × State :=
  match destWord s d k with
  | some (w, _) => (a.1 ++ leBytes 4 w.toNat, a.2)
  | none => let (n, s) := a.2.fresh
            (a.1 ++ leBytes 4 ((Config.freeValue n).toNat % 2 ^ 32), s)

/-- The words of one index of a block. -/
def hrRow (s : State) (i k : Nat) (a : List Byte × State) : List Byte × State :=
  (List.range (s.fld (R.HST.B_CFG.CHANNELS i))).foldl
    (fun a c => hrWord s (0xA00 + s.fld (R.HST.B_CFG.BASE i) + c * mcsMult s (s.fld (R.HST.B_CFG.MCS i))) k a) a

theorem hrWords_eq (s : State) (i k : Nat) :
    hrWords s i k = (List.range (hstN s i)).foldl (fun a j => hrRow s i (k + j) a) ([], s) := rfl

/-- Bytes are appended, and no more than free values are drawn. -/
def Appends (n : Nat) (a b : List Byte × State) : Prop := b.1.length = a.1.length + n ∧ ∃ c, b.2 = { a.2 with freeCtr := c }

theorem Appends.foldl {β : Type} {n : Nat} {g : List Byte × State → β → List Byte × State} (hg : ∀ a x, Appends n a (g a x))
    (l : List β) (a : List Byte × State) : Appends (l.length * n) a (l.foldl g a) := by
  induction l generalizing a with
  | nil => exact ⟨(Nat.add_zero _).symm.trans (by rw [List.length_nil, Nat.zero_mul]; rfl), _, rfl⟩
  | cons x l ih =>
    obtain ⟨hx, c, ec⟩ := hg a x
    obtain ⟨hl, d, ed⟩ := ih (g a x)
    refine ⟨?_, d, ?_⟩
    · rw [List.foldl_cons, hl, hx, List.length_cons, Nat.succ_mul]
      omega
    · rw [List.foldl_cons, ed, ec]

theorem appends_hrWord (s : State) (d k : Nat) (a : List Byte × State) : Appends 4 a (hrWord s d k a) := by
  unfold hrWord
  split
  · exact ⟨by rw [List.length_append, length_leBytes], _, rfl⟩
  · exact ⟨by rw [List.length_append, length_leBytes], _, rfl⟩

theorem appends_hrWords (s : State) (i k : Nat) : Appends (hstN s i * (s.fld (R.HST.B_CFG.CHANNELS i) * 4)) ([], s) (hrWords s i k) := by
  have hrow : ∀ a j, Appends (s.fld (R.HST.B_CFG.CHANNELS i) * 4) a (hrRow s i (k + j) a) := fun a j => by
    have := Appends.foldl (fun a c => appends_hrWord s (0xA00 + s.fld (R.HST.B_CFG.BASE i) +
      c * mcsMult s (s.fld (R.HST.B_CFG.MCS i))) (k + j) a) (List.range (s.fld (R.HST.B_CFG.CHANNELS i))) a
    rwa [List.length_range] at this
  have := Appends.foldl hrow (List.range (hstN s i)) ([], s)
  rwa [List.length_range, ← hrWords_eq] at this

theorem length_hrDescriptor (s : State) (i k seq : Nat) : (hrDescriptor s i k seq).length = 16 := by
  simp only [hrDescriptor, elemHeader, List.length_append, length_leBytes, List.length_cons, List.length_nil]

theorem hrDescriptor_freeCtr (s : State) (c i k seq : Nat) : hrDescriptor { s with freeCtr := c } i k seq = hrDescriptor s i k seq := rfl

theorem hrBlockCommit_goes {b n : Nat} {x : HostBlk} (hb : b < 64) (hx : x = s.hst b) (hn : n = max 1 (hstN s b))
    (hst : hstState s b = hstRun) (hdue : x.k + n ≤ mcsCount s (s.fld (R.HST.B_CFG.MCS b)))
    (htakes : QueueTakes s (768 + b) (hstBytesOf s b)) (hlive : (s.gq (768 + b)).elems.all GElem.live = true) :
    Goes (.hrBlockCommit b) s fun t =>
      t.hst b = { x with k := x.k + n, seq := (x.seq + 1) % 65536 } ∧ (∀ j, j ≠ b → t.hst j = s.hst j) ∧
      (∃ cells, t.gq (768 + b) = { s.gq (768 + b) with
        known := true, slugFresh := false, elems := (s.gq (768 + b)).elems ++
          [.item ⟨2, x.seq, x.k, cells, hrDescriptor s b x.k x.seq ++ (hrWords s b x.k).1, true⟩] }) ∧
      Touches [R.GAL.EVT.LOW, R.GAL.INJECT.ARM] s t := by
  have hq : hstQueue b = 768 + b := if_neg (by omega)
  obtain ⟨hlen, c, hc⟩ := appends_hrWords s b x.k
  have hbytes : (hrDescriptor s b x.k x.seq ++ (hrWords s b x.k).1).length = hstBytesOf s b := by
    rw [List.length_append, hlen, length_hrDescriptor, hstBytesOf, List.length_nil, Nat.zero_add, ← Nat.mul_assoc,
      Nat.mul_comm (hstN s b)]
  obtain ⟨cells, -, hgq, -, hframe, htouch, -⟩ := galPut_committed (s := { s with freeCtr := c }) (q := 768 + b) 2 x.seq x.k
    (bs := hrDescriptor s b x.k x.seq ++ (hrWords s b x.k).1) (fun h => by
      rw [h, hstBytesOf, List.length_nil] at hbytes
      omega) (hbytes.symm ▸ ⟨htakes.idle, htakes.open_, htakes.room, htakes.short⟩) hlive
  have hdrops := htouch.fld (f := R.GAL.Q_DROPS.COUNT (768 + b)) (by
    intro f hf
    simp only [List.mem_cons, List.not_mem_nil, or_false] at hf
    rcases hf with rfl | rfl <;>
      exact Fld.apart_of_key_ne (by simp only [R.GAL.Q_DROPS.COUNT, R.GAL.EVT.LOW, R.GAL.INJECT.ARM, itemKey]; omega))
  have hexec : exec (.hrBlockCommit b) s = .next ((galCommit (galPut { s with freeCtr := c } (768 + b) 2 true x.seq x.k
      (hrDescriptor s b x.k x.seq ++ (hrWords s b x.k).1)) (768 + b)).setHst b
        { x with k := x.k + n, seq := (x.seq + 1) % 65536 }) := by
    show execHrBlockCommit b s = _
    unfold execHrBlockCommit
    dsimp only
    rw [Nat.mod_eq_of_lt hb, ← hx, ← hn, if_pos ⟨.inl hst, hdue⟩, hc, hq, hrDescriptor_freeCtr, hdrops, if_pos rfl]
  refine ⟨_, hexec, ?_⟩
  generalize galCommit (galPut { s with freeCtr := c } (768 + b) 2 true x.seq x.k
      (hrDescriptor s b x.k x.seq ++ (hrWords s b x.k).1)) (768 + b) = u at hgq hframe htouch
  have hhsts : ∀ j, u.hst j = s.hst j := fun j => congrArg (fun v => v.hst j) hframe
  exact ⟨hst_setHst_self .., fun j hj => (hst_setHst_ne u _ hj).trans (hhsts j), ⟨cells, hgq⟩,
    touches_rf rfl ((Touches.of_rf _ (rfl : State.rf { s with freeCtr := c } = s.rf)).trans htouch)⟩

/-! ### Slots written to the ring (R360) -/

theorem takeRead_head {p : HostRead → Bool} {r : HostRead} (rest : List HostRead) (h : p r = true) :
    takeRead p (r :: rest) = (some r, rest) := if_pos h

/-- A slot whose bytes go to the ring for the first time: the block and the queue move on to the next. -/
def slotTaken (s : State) (b r : Nat) : State :=
  hstSlot ((s.setGq (768 + b) { s.gq (768 + b) with rd := r + 1 }).setHst b { s.hst b with wrote := r + 1 }) b

/-- A slot's bytes and its write-back go to the host, and the confirming read is issued. -/
def ringWritten (s : State) (b idx : Nat) (bytes : List Byte) : State :=
  let s := s.emit (.hostWrite (hstSlotAddr s b idx) bytes false)
  let s := s.emit (.hostWrite (hstWbAddr s b) (leBytes 4 ((idx + 1) % 65536)) false)
  let s := s.emit (.hostRead (hstWbAddr s b) 4)
  let s := { s with reads := s.reads ++ [⟨b, idx % 65536, 4, true⟩] }
  tagsRefresh (hstMoved s 0 (bytes.length + 4))

theorem tagsRefresh_leaves (s : State) : (tagsRefresh s).out = s.out ∧ (tagsRefresh s).reads = s.reads ∧ (tagsRefresh s).gal = s.gal ∧
    (tagsRefresh s).hsts = s.hsts := by
  rw [tagsRefresh_frame s]
  exact ⟨rfl, rfl, rfl, rfl⟩

theorem slotTaken_leaves (s : State) (b r : Nat) : (slotTaken s b r).rf = s.rf ∧ (slotTaken s b r).out = s.out ∧
    (slotTaken s b r).reads = s.reads ∧ (slotTaken s b r).hst b = { s.hst b with wrote := r + 1 } ∧
    (slotTaken s b r).gq (768 + b) = { s.gq (768 + b) with rd := r + 1 } := by
  have hslot : ∀ (u : State) (x : GQueue) (y : HostBlk), hstSlot ((u.setGq (768 + b) x).setHst b y) b =
    { u with gal := (u.setGq (768 + b) x).gal, hsts := (u.setHst b y).hsts, hstSlots := (hstSlot u b).hstSlots } := fun _ _ _ => rfl
  rw [slotTaken, hslot]
  exact ⟨rfl, rfl, rfl, hst_setHst_self s b _, gq_setGq_self s (768 + b) _⟩

theorem ringWritten_leaves (s : State) (b idx : Nat) (bytes : List Byte) :
    (ringWritten s b idx bytes).out = .hostRead (hstWbAddr s b) 4 ::
      .hostWrite (hstWbAddr s b) (leBytes 4 ((idx + 1) % 65536)) false :: .hostWrite (hstSlotAddr s b idx) bytes false :: s.out ∧
    (ringWritten s b idx bytes).reads = s.reads ++ [⟨b, idx % 65536, 4, true⟩] ∧ (ringWritten s b idx bytes).gal = s.gal ∧
    (ringWritten s b idx bytes).hsts = s.hsts ∧ Touches [R.HST.TAGS.INFLIGHT, R.HST.TAGS.PEAK] s (ringWritten s b idx bytes) := by
  unfold ringWritten
  dsimp only
  rw [hstWbAddr_of_rf (s := s) (i := b) (t := s.emit (.hostWrite (hstSlotAddr s b idx) bytes false)) rfl]
  rw [hstWbAddr_of_rf (s := s) (i := b) (t := (s.emit (.hostWrite (hstSlotAddr s b idx) bytes false)).emit _) rfl]
  generalize hstSlotAddr s b idx = x
  generalize hstWbAddr s b = y
  generalize leBytes 4 ((idx + 1) % 65536) = z
  have htags : ∀ u : State, u.rf = s.rf → Touches [R.HST.TAGS.INFLIGHT, R.HST.TAGS.PEAK] s (tagsRefresh u) :=
    fun u hu => (Touches.of_rf _ hu).trans (touches_tagsRefresh u)
  refine ⟨?_, ?_, ?_, ?_, ?_⟩
  · rw [(tagsRefresh_leaves _).1]
    rfl
  · rw [(tagsRefresh_leaves _).2.1]
    rfl
  · rw [(tagsRefresh_leaves _).2.2.1]
    rfl
  · rw [(tagsRefresh_leaves _).2.2.2]
    rfl
  · exact htags _ rfl

theorem exec_hrSlotWrite {b r : Nat} {it : GItem} (hb : b < 64) (hst : hstState s b = hstRun ∨ hstState s b = hstHeld) (hdma : dmaOn s = true)
    (hr : r = (s.gq (768 + b)).rd) (hring : r < s.fld (R.HST.B_RING.ENTRIES b)) (htags : s.reads.length < tagLimit s)
    (hdepth : (s.gq (768 + b)).depth ≠ 0) (he : (s.gq (768 + b)).elems[r]? = some (.item it)) (hf : s.gal.flips = [])
    (hw : (s.hst b).wrote ≤ r) : exec (.hrSlotWrite b) s = .next (ringWritten
      ((slotTaken s b r).setFld (R.HST.B_IDX.DEV_IDX b) ((hstHost s b + (r + 1)) % 65536)) b (hstHost s b + r) it.bytes) := by
  have hq : hstQueue b = 768 + b := if_neg (by omega)
  obtain ⟨hrf, -, -, hblk, -⟩ := slotTaken_leaves s b r
  have hhost : hstHost (slotTaken s b r) b = hstHost s b := State.fld_of_rf_eq hrf _
  show execHrSlotWrite b s = _
  unfold execHrSlotWrite
  dsimp only
  rw [Nat.mod_eq_of_lt hb, hq, ← hr, if_pos ⟨hst, hdma, hring, htags⟩, galPop_clean hdepth (hr ▸ he) hf, ← hr]
  dsimp only
  have hx : (s.setGq (768 + b) { s.gq (768 + b) with rd := r + 1 }).hst b = s.hst b := rfl
  rw [hx, if_pos hw, if_neg (show ¬ (GElem.item it).isSlug = true from Bool.false_ne_true),
    if_pos (show ([] : List Nat).isEmpty = true from rfl)]
  rw [show hstSlot ((s.setGq (768 + b) { s.gq (768 + b) with rd := r + 1 }).setHst b { s.hst b with wrote := r + 1 }) b =
    slotTaken s b r from rfl]
  rw [hhost, hblk]
  rfl

theorem hrSlotWrite_goes {b r : Nat} {it : GItem} (hb : b < 64) (hst : hstState s b = hstRun ∨ hstState s b = hstHeld) (hdma : dmaOn s = true)
    (hr : r = (s.gq (768 + b)).rd) (hring : r < s.fld (R.HST.B_RING.ENTRIES b)) (htags : s.reads.length < tagLimit s)
    (hdepth : (s.gq (768 + b)).depth ≠ 0) (he : (s.gq (768 + b)).elems[r]? = some (.item it)) (hf : s.gal.flips = [])
    (hw : (s.hst b).wrote ≤ r) : Goes (.hrSlotWrite b) s fun t =>
      t.out = .hostRead (hstWbAddr s b) 4 :: .hostWrite (hstWbAddr s b) (leBytes 4 ((hstHost s b + r + 1) % 65536)) false ::
        .hostWrite (hstSlotAddr s b (hstHost s b + r)) it.bytes false :: s.out ∧
      t.reads = s.reads ++ [⟨b, (hstHost s b + r) % 65536, 4, true⟩] ∧ (t.gq (768 + b)).rd = r + 1 ∧
      (t.gq (768 + b)).elems = (s.gq (768 + b)).elems ∧ hstDev t b = (hstHost s b + r + 1) % 65536 ∧
      hstHost t b = hstHost s b ∧ (t.hst b).wrote = r + 1 := by
  refine ⟨_, exec_hrSlotWrite hb hst hdma hr hring htags hdepth he hf hw, ?_⟩
  obtain ⟨hrf, hout, hreads, hblk, hgq⟩ := slotTaken_leaves s b r
  generalize slotTaken s b r = u at hrf hout hreads hblk hgq
  have hidx : OnlyIn (· = R.HST.B_IDX.reg b) s (u.setFld (R.HST.B_IDX.DEV_IDX b) ((hstHost s b + (r + 1)) % 65536)) :=
    ((OnlyIn.refl s).upd hrf).setFld _ rfl
  have hhost : (u.setFld (R.HST.B_IDX.DEV_IDX b) ((hstHost s b + (r + 1)) % 65536)).fld (R.HST.B_IDX.HOST_IDX b) = hstHost s b :=
    (State.fld_setFld_below u _ rfl).trans (State.fld_of_rf_eq hrf _)
  have hdev : (u.setFld (R.HST.B_IDX.DEV_IDX b) ((hstHost s b + (r + 1)) % 65536)).fld (R.HST.B_IDX.DEV_IDX b) =
    (hstHost s b + (r + 1)) % 65536 := State.fld_setFld_lt u _ (Nat.le_of_ble_eq_true rfl) (Nat.mod_lt _ (by decide))
  have hv : RfFrame u (u.setFld (R.HST.B_IDX.DEV_IDX b) ((hstHost s b + (r + 1)) % 65536)) := (RfFrame.refl u).setFld _ _
  generalize u.setFld (R.HST.B_IDX.DEV_IDX b) ((hstHost s b + (r + 1)) % 65536) = v at hidx hhost hdev hv
  obtain ⟨hout', hreads', hgal, hhsts, htouch⟩ := ringWritten_leaves v b (hstHost s b + r) it.bytes
  have htag : ∀ f : Fld, f.key = R.HST.B_IDX.reg b → (ringWritten v b (hstHost s b + r) it.bytes).fld f = v.fld f := fun f h =>
    htouch.fld (by
      intro g hg
      simp only [List.mem_cons, List.not_mem_nil, or_false] at hg
      refine Fld.apart_of_key_ne ?_
      rcases hg with rfl | rfl <;> rw [h] <;> exact itemKey_ne_of_mod (a := 0x1111c) b (by decide))
  have hgq' : (ringWritten v b (hstHost s b + r) it.bytes).gq (768 + b) = { s.gq (768 + b) with rd := r + 1 } := by
    rw [← hgq, State.gq, hgal, hv]
    rfl
  refine ⟨?_, ?_, by rw [hgq'], by rw [hgq'], (htag _ rfl).trans hdev, (htag _ rfl).trans hhost, ?_⟩
  · rw [hout', hstWbAddr_of_onlyIn hidx (idx_not_ring b), hstSlotAddr_of_onlyIn hidx (idx_not_ring b), ← hout]
    rw [hv]
  · rw [hreads', ← hreads, hv]
  · rw [State.hst, hhsts, hv]
    exact congrArg HostBlk.wrote hblk

/-! ### Confirming reads (R362) -/

/-- A confirming read has ended well: the failures in a row end. -/
def readGood (s : State) (i : Nat) : State :=
  let s := s.setHst i { s.hst i with fails := 0 }
  if s.flag (R.HST.B_CFG.NOTIFY i) then s.setFld (R.HST.B_STAT.DATA_EV i) 1 else s

theorem readGood_leaves (s : State) (i : Nat) : HstFrame s (readGood s i) ∧ (readGood s i).hst i = { s.hst i with fails := 0 } ∧
    (∀ j, j ≠ i → (readGood s i).hst j = s.hst j) ∧
    (s.flag (R.HST.B_CFG.NOTIFY i) = true → (readGood s i).fld (R.HST.B_STAT.DATA_EV i) = 1) ∧
    Touches [R.HST.B_STAT.DATA_EV i] s (readGood s i) := by
  have hself := hst_setHst_self s i { s.hst i with fails := 0 }
  have hother : ∀ j, j ≠ i → (s.setHst i { s.hst i with fails := 0 }).hst j = s.hst j := fun j hj => hst_setHst_ne s _ hj
  have hframe : HstFrame s (s.setHst i { s.hst i with fails := 0 }) := rfl
  have hrf : (s.setHst i { s.hst i with fails := 0 }).rf = s.rf := rfl
  unfold readGood
  dsimp only
  generalize s.setHst i { s.hst i with fails := 0 } = u at hself hother hframe hrf
  have hflag : u.flag (R.HST.B_CFG.NOTIFY i) = s.flag (R.HST.B_CFG.NOTIFY i) := State.flag_of_fld (State.fld_of_rf_eq hrf _)
  rw [hflag]
  split
  · exact ⟨hframe.trans (.of_rf ((RfFrame.refl u).setFld _ _)), hself, hother, fun _ => State.fld_setFld_mod u _ 1 rfl,
      touches_setFld (by simp) (.of_rf _ hrf)⟩
  next h => exact ⟨hframe, hself, hother, fun h' => absurd h' h, .of_rf _ hrf⟩

theorem hrConfirmed_goes {b : Nat} {r : HostRead} {rest : List HostRead} (hb : b < 64) (hr : s.reads = r :: rest) (hblk : r.blk = b)
    (hlive : r.live = true) : Goes (.confirmReadCompletion b true) s fun t =>
      t.reads = rest ∧ t.hst b = { s.hst b with fails := 0 } ∧ t.gal = s.gal ∧ (∀ j, j ≠ b → t.hst j = s.hst j) ∧
      (s.flag (R.HST.B_CFG.NOTIFY b) = true → t.fld (R.HST.B_STAT.DATA_EV b) = 1) ∧
      Touches [R.HST.B_STAT.DATA_EV b, R.HST.TAGS.INFLIGHT, R.HST.TAGS.PEAK] s t := by
  have hexec : exec (.confirmReadCompletion b true) s = .next (readGood (tagsRefresh { s with reads := rest }) b) := by
    show ok (confirmEnd s (b % 64) true) = _
    unfold confirmEnd
    rw [Nat.mod_eq_of_lt hb, hr, takeRead_head rest (by rw [hblk]; exact beq_self_eq_true b)]
    dsimp only
    rw [hlive, if_neg (by decide), if_pos rfl]
    rfl
  refine ⟨_, hexec, ?_⟩
  obtain ⟨-, hreads, hgal, hhsts⟩ := tagsRefresh_leaves { s with reads := rest }
  have htouch : Touches [R.HST.TAGS.INFLIGHT, R.HST.TAGS.PEAK] s (tagsRefresh { s with reads := rest }) :=
    (Touches.of_rf _ (rfl : State.rf { s with reads := rest } = s.rf)).trans (touches_tagsRefresh _)
  generalize tagsRefresh { s with reads := rest } = u at hreads hgal hhsts htouch
  obtain ⟨hframe, hself, hother, hev, ht⟩ := readGood_leaves u b
  have hhst : ∀ j, u.hst j = s.hst j := fun j => by rw [State.hst, hhsts, State.hst]
  refine ⟨by rw [hframe]; exact hreads, by rw [hself, hhst], by rw [hframe]; exact hgal, fun j hj => (hother j hj).trans (hhst j),
    fun hn => hev ((State.flag_of_fld (htouch.fld ?_)).trans hn), (htouch.mono (by simp)).trans (ht.mono (by simp))⟩
  intro f hf
  simp only [List.mem_cons, List.not_mem_nil, or_false] at hf
  rcases hf with rfl | rfl <;> exact Fld.apart_of_key_ne (itemKey_ne_of_mod (a := 0x11100) b (by decide))

/-- A count of a block's counter, with its event. -/
theorem hstCount_frame (s : State) (i j : Nat) (ev : List Fld) : RfFrame s (hstCount s i j ev) :=
  RfFrame.trans (State.raise_frame s ev) (countSat_frame _ _ _ _)

theorem hstCount_retry (s : State) (i : Nat) : (hstCount s i 0 [R.HST.B_STAT.RETRY_EV i]).fld (R.HST.B_STAT.RETRY_EV i) = 1 ∧
    (hstCount s i 0 [R.HST.B_STAT.RETRY_EV i]).fld (R.HST.B_RETRY.COUNT i) = min (2 ^ 32 - 1) (s.fld (R.HST.B_RETRY.COUNT i) + 1) ∧
    Touches [R.HST.B_STAT.RETRY_EV i, R.HST.B_RETRY.COUNT i, R.HST.B_SAT.SAT i] s (hstCount s i 0 [R.HST.B_STAT.RETRY_EV i]) := by
  have hcount : Touches [R.HST.B_RETRY.COUNT i, R.HST.B_SAT.SAT i] (s.setFld (R.HST.B_STAT.RETRY_EV i) 1)
    ((s.setFld (R.HST.B_STAT.RETRY_EV i) 1).countSat (R.HST.B_RETRY.COUNT i) (R.HST.B_SAT.SAT i) 0) :=
    touches_countSat 0 (by simp) (by simp) (.refl _ _)
  refine ⟨(hcount.fld ?_).trans (State.fld_setFld_mod s _ 1 rfl), ?_,
    (touches_setFld (by simp) (.refl _ s)).trans (hcount.mono (by simp))⟩
  · intro f hf
    simp only [List.mem_cons, List.not_mem_nil, or_false] at hf
    rcases hf with rfl | rfl
    · exact Fld.apart_of_key_ne (itemKey_ne (a := 0x11118) (b := 0x11120) i i (by decide))
    · exact Fld.apart_of_key_ne (itemKey_ne (a := 0x11118) (b := 0x11138) i i (by decide))
  · refine (fld_countSat (f := R.HST.B_RETRY.COUNT i) (sat := R.HST.B_SAT.SAT i) (s.setFld (R.HST.B_STAT.RETRY_EV i) 1) 0 rfl
      (itemKey_ne (a := 0x11120) (b := 0x11138) i i (by decide))).trans ?_
    rw [State.fld_setFld_ne _ _ (itemKey_ne (a := 0x11120) (b := 0x11118) i i (by decide))]
    rfl

theorem reads_staled (s : State) (i : Nat) : ∀ x ∈ (s.reads.map fun r => if r.blk == i then { r with live := false } else r),
    x.blk = i → x.live = false := by
  intro x hx hi
  obtain ⟨r, -, rfl⟩ := List.mem_map.mp hx
  by_cases h : r.blk = i
  · rw [if_pos (by rw [h]; exact beq_self_eq_true i)]
  · rw [if_neg (by simpa using h)] at hi
    exact absurd hi h

/-- The failure of a read of a receive block before it may lead to FAULT. -/
def hrRetried (s : State) (b : Nat) : State :=
  hstCount ((staleReads (s.setGq (768 + b) { s.gq (768 + b) with rd := 0, mark := some 0 }) b).setHst b
    { s.hst b with fails := (s.hst b).fails + 1 }) b 0 [R.HST.B_STAT.RETRY_EV b]

theorem hrRetried_leaves (s : State) (b : Nat) : ((hrRetried s b).hst b).fails = (s.hst b).fails + 1 ∧
    ((hrRetried s b).gq (768 + b)).rd = 0 ∧ ((hrRetried s b).gq (768 + b)).elems = (s.gq (768 + b)).elems ∧
    (hrRetried s b).fld (R.HST.B_STAT.RETRY_EV b) = 1 ∧ (∀ x ∈ (hrRetried s b).reads, x.blk = b → x.live = false) ∧
    (hrRetried s b).fld (R.HST.B_RETRY.COUNT b) = min (2 ^ 32 - 1) (s.fld (R.HST.B_RETRY.COUNT b) + 1) ∧
    Touches [R.HST.B_STAT.RETRY_EV b, R.HST.B_RETRY.COUNT b, R.HST.B_SAT.SAT b] s (hrRetried s b) := by
  have hblk := hst_setHst_self (staleReads (s.setGq (768 + b) { s.gq (768 + b) with rd := 0, mark := some 0 }) b) b
    { s.hst b with fails := (s.hst b).fails + 1 }
  have hgq : ((staleReads (s.setGq (768 + b) { s.gq (768 + b) with rd := 0, mark := some 0 }) b).setHst b
      { s.hst b with fails := (s.hst b).fails + 1 }).gq (768 + b) = { s.gq (768 + b) with rd := 0, mark := some 0 } :=
    gq_setGq_self s (768 + b) _
  have hreads : ((staleReads (s.setGq (768 + b) { s.gq (768 + b) with rd := 0, mark := some 0 }) b).setHst b
      { s.hst b with fails := (s.hst b).fails + 1 }).reads = s.reads.map fun r => if r.blk == b then { r with live := false } else r := rfl
  have hrf : ((staleReads (s.setGq (768 + b) { s.gq (768 + b) with rd := 0, mark := some 0 }) b).setHst b
      { s.hst b with fails := (s.hst b).fails + 1 }).rf = s.rf := rfl
  unfold hrRetried
  generalize (staleReads (s.setGq (768 + b) { s.gq (768 + b) with rd := 0, mark := some 0 }) b).setHst b
      { s.hst b with fails := (s.hst b).fails + 1 } = u at hblk hgq hreads hrf
  obtain ⟨hev, hcount, htouch⟩ := hstCount_retry u b
  have hframe := hstCount_frame u b 0 [R.HST.B_STAT.RETRY_EV b]
  generalize hstCount u b 0 [R.HST.B_STAT.RETRY_EV b] = v at hev hcount htouch hframe
  have hgq' : v.gq (768 + b) = u.gq (768 + b) := congrArg (fun w => w.gq (768 + b)) hframe
  have hblk' : v.hst b = u.hst b := congrArg (fun w => w.hst b) hframe
  refine ⟨by rw [hblk', hblk], by rw [hgq', hgq], by rw [hgq', hgq], hev, ?_, by rw [hcount, State.fld_of_rf_eq hrf],
    (Touches.of_rf _ hrf).trans htouch⟩
  rw [hframe]
  show ∀ x ∈ u.reads, _
  rw [hreads]
  exact reads_staled s b

theorem hrFailed_eq {b : Nat} (hb : b < 64) : hrFailed s b = if s.fld R.HST.CFG.RETRY ≤ (s.hst b).fails + 1 then
    (hstGo (hrRetried s b) b hstFault).setFld (R.HST.B_STAT.FAULT_EV b) 1 else hrRetried s b := by
  have hq : hstQueue b = 768 + b := if_neg (by omega)
  obtain ⟨-, -, -, -, -, -, htouch⟩ := hrRetried_leaves s b
  have hretry : (hrRetried s b).fld R.HST.CFG.RETRY = s.fld R.HST.CFG.RETRY := htouch.fld (by
    intro f hf
    simp only [List.mem_cons, List.not_mem_nil, or_false] at hf
    refine Fld.apart_of_key_ne (Ne.symm ?_)
    rcases hf with rfl | rfl | rfl
    · exact itemKey_ne_of_mod (a := 0x11118) b (by decide)
    · exact itemKey_ne_of_mod (a := 0x11120) b (by decide)
    · exact itemKey_ne_of_mod (a := 0x11138) b (by decide))
  rw [← hretry]
  unfold hrFailed hrRetried
  dsimp only
  rw [hq]

/-- The failure of a confirming read. -/
theorem hrFailed_leaves (s : State) (b : Nat) (hb : b < 64) (hrun : hstState s b = hstRun) : ((hrFailed s b).hst b).fails = (s.hst b).fails + 1 ∧
    ((hrFailed s b).gq (768 + b)).rd = 0 ∧ ((hrFailed s b).gq (768 + b)).elems = (s.gq (768 + b)).elems ∧
    (hrFailed s b).fld (R.HST.B_STAT.RETRY_EV b) = 1 ∧ (∀ x ∈ (hrFailed s b).reads, x.blk = b → x.live = false) ∧
    (hrFailed s b).fld (R.HST.B_RETRY.COUNT b) = min (2 ^ 32 - 1) (s.fld (R.HST.B_RETRY.COUNT b) + 1) ∧
    (s.fld R.HST.CFG.RETRY ≤ (s.hst b).fails + 1 → hstState (hrFailed s b) b = hstFault ∧ (hrFailed s b).fld (R.HST.B_STAT.FAULT_EV b) = 1) ∧
    ((s.hst b).fails + 1 < s.fld R.HST.CFG.RETRY → hstState (hrFailed s b) b = hstRun) := by
  obtain ⟨hfails, hrd, helems, hev, hreads, hcount, htouch⟩ := hrRetried_leaves s b
  rw [hrFailed_eq hb]
  split
  next hmax =>
    have hgo := hstGo_frame (hrRetried s b) b hstFault
    have hst := hstState_hstGo (hrRetried s b) b (st := hstFault) (by decide)
    have hgt : Touches [R.HST.B_STAT.STATE b, R.HST.B_STAT.STATE_EV b] (hrRetried s b) (hstGo (hrRetried s b) b hstFault) :=
      touches_hstGo (.refl _ _) _ (by simp) (by simp)
    generalize hstGo (hrRetried s b) b hstFault = v at hgo hst hgt
    have hset : RfFrame v (v.setFld (R.HST.B_STAT.FAULT_EV b) 1) := (RfFrame.refl v).setFld _ _
    have hframe : RfFrame (hrRetried s b) (v.setFld (R.HST.B_STAT.FAULT_EV b) 1) := hgo.trans hset
    have hstay : Touches [R.HST.B_STAT.STATE b, R.HST.B_STAT.STATE_EV b, R.HST.B_STAT.FAULT_EV b] (hrRetried s b)
      (v.setFld (R.HST.B_STAT.FAULT_EV b) 1) := touches_setFld (by simp) (hgt.mono (by simp))
    refine ⟨?_, ?_, ?_, (hstay.fld ?_).trans hev, ?_, (hstay.fld ?_).trans hcount, fun _ => ⟨?_, State.fld_setFld_mod v _ 1 rfl⟩,
      fun h => by omega⟩
    · rw [hframe]; exact hfails
    · rw [hframe]; exact hrd
    · rw [hframe]; exact helems
    · simp [Fld.apart, R.HST.B_STAT.RETRY_EV, R.HST.B_STAT.STATE, R.HST.B_STAT.STATE_EV, R.HST.B_STAT.FAULT_EV]
    · rw [hframe]; exact hreads
    · intro f hf
      simp only [List.mem_cons, List.not_mem_nil, or_false] at hf
      rcases hf with rfl | rfl | rfl <;> exact Fld.apart_of_key_ne (itemKey_ne (a := 0x11120) (b := 0x11118) b b (by decide))
    · exact (State.fld_setFld_below v 1 rfl).trans hst
  next hmore =>
    refine ⟨hfails, hrd, helems, hev, hreads, hcount, fun h => absurd h hmore, fun _ => (htouch.fld ?_).trans hrun⟩
    intro f hf
    simp only [List.mem_cons, List.not_mem_nil, or_false] at hf
    rcases hf with rfl | rfl | rfl
    · simp [Fld.apart, R.HST.B_STAT.RETRY_EV, R.HST.B_STAT.STATE]
    · exact Fld.apart_of_key_ne (itemKey_ne (a := 0x11118) (b := 0x11120) b b (by decide))
    · exact Fld.apart_of_key_ne (itemKey_ne (a := 0x11118) (b := 0x11138) b b (by decide))

theorem exec_confirmFailed {c : Instr} {b off : Nat} {r : HostRead} {rest : List HostRead} (hb : b < 64)
    (hc : c = .confirmReadCompletion b false ∨ c = .cplTimeout b off) (hr : s.reads = r :: rest) (hblk : r.blk = b)
    (hlive : r.live = true) (hrun : hstState s b = hstRun) : exec c s = .next (hrFailed (tagsRefresh { s with reads := rest }) b) := by
  have hend : confirmEnd s b false = hrFailed (tagsRefresh { s with reads := rest }) b := by
    have hst : hstState (tagsRefresh { s with reads := rest }) b = hstRun := ((touches_tagsRefresh { s with reads := rest }).fld (by
      intro f hf
      simp only [List.mem_cons, List.not_mem_nil, or_false] at hf
      rcases hf with rfl | rfl <;> exact Fld.apart_of_key_ne (itemKey_ne_of_mod (a := 0x11118) b (by decide)))).trans hrun
    unfold confirmEnd
    rw [hr, takeRead_head rest (by rw [hblk]; exact beq_self_eq_true b)]
    dsimp only
    rw [hlive, if_neg (by decide), if_neg Bool.false_ne_true, if_pos (.inl hst)]
  rcases hc with rfl | rfl
  · show ok (confirmEnd s (b % 64) false) = _
    rw [Nat.mod_eq_of_lt hb, hend]
  · show execCplTimeout b off s = _
    rw [execCplTimeout, show hstIsTx b = false from decide_eq_false (by omega), if_neg Bool.false_ne_true, hend]

theorem hrReadFailed_goes {c : Instr} {b off : Nat} {r : HostRead} {rest : List HostRead} (hb : b < 64)
    (hc : c = .confirmReadCompletion b false ∨ c = .cplTimeout b off) (hr : s.reads = r :: rest) (hblk : r.blk = b)
    (hlive : r.live = true) (hrun : hstState s b = hstRun) : Goes c s fun t =>
      (t.hst b).fails = (s.hst b).fails + 1 ∧ (t.gq (768 + b)).rd = 0 ∧ (t.gq (768 + b)).elems = (s.gq (768 + b)).elems ∧
      t.fld (R.HST.B_STAT.RETRY_EV b) = 1 ∧ (∀ x ∈ t.reads, x.blk = b → x.live = false) ∧
      t.fld (R.HST.B_RETRY.COUNT b) = min (2 ^ 32 - 1) (s.fld (R.HST.B_RETRY.COUNT b) + 1) ∧
      (s.fld R.HST.CFG.RETRY ≤ (s.hst b).fails + 1 → hstState t b = hstFault ∧ t.fld (R.HST.B_STAT.FAULT_EV b) = 1) ∧
      ((s.hst b).fails + 1 < s.fld R.HST.CFG.RETRY → hstState t b = hstRun) := by
  refine ⟨_, exec_confirmFailed hb hc hr hblk hlive hrun, ?_⟩
  obtain ⟨-, -, hgal, hhsts⟩ := tagsRefresh_leaves { s with reads := rest }
  have htouch : Touches [R.HST.TAGS.INFLIGHT, R.HST.TAGS.PEAK] s (tagsRefresh { s with reads := rest }) :=
    (Touches.of_rf _ (rfl : State.rf { s with reads := rest } = s.rf)).trans (touches_tagsRefresh _)
  generalize tagsRefresh { s with reads := rest } = u at hgal hhsts htouch
  have hfld : ∀ a lo w, a % 0x1000000 ≠ 0x11008 % 0x1000000 → u.fld ⟨itemKey a b, lo, w⟩ = s.fld ⟨itemKey a b, lo, w⟩ := fun a lo w ha =>
    htouch.fld (by
      intro f hf
      simp only [List.mem_cons, List.not_mem_nil, or_false] at hf
      refine Fld.apart_of_key_ne ?_
      rcases hf with rfl | rfl
      · exact itemKey_ne_of_mod (c := 0x11008) b ha
      · exact itemKey_ne_of_mod (c := 0x11008) b ha)
  have hst : hstState u b = hstRun := (hfld 0x11118 28 4 (by decide)).trans hrun
  have hretry : u.fld R.HST.CFG.RETRY = s.fld R.HST.CFG.RETRY := htouch.fld (by decide)
  have hcount : u.fld (R.HST.B_RETRY.COUNT b) = s.fld (R.HST.B_RETRY.COUNT b) := hfld 0x11120 0 32 (by decide)
  have hhst : u.hst b = s.hst b := by rw [State.hst, hhsts, State.hst]
  have hgq : u.gq (768 + b) = s.gq (768 + b) := by rw [State.gq, hgal, State.gq]
  have := hrFailed_leaves u b hb hst
  rwa [hhst, hgq, hretry, hcount] at this

/-! ### Acknowledgements (R361) -/

/-- The acknowledged slots are released, before the host index is written. -/
def slotsFreed (s : State) (q i adv : Nat) : State :=
  let s := galRefresh (galFreeFirst s q adv)
  let s := s.setGq q { s.gq q with mark := some 0 }
  s.setHst i { s.hst i with wrote := (s.hst i).wrote - adv }

theorem hrAck_eq (s : State) (i v : Nat) : hrAck s i v = if hstState s i = hstOff then s
    else if (v + 65536 - hstHost s i) % 65536 ≤ (hstDev s i + 65536 - hstHost s i) % 65536 then
      (slotsFreed s (hstQueue i) i ((v + 65536 - hstHost s i) % 65536)).setFld (R.HST.B_IDX.HOST_IDX i) v
    else s.setFld (R.HST.B_STAT.BAD_IDX_EV i) 1 := rfl

theorem hrAck_off {b : Nat} (hb : b < 64) (v : Nat) (h : hstState s b = hstOff) : exec (.hrAckWrite b v) s = .next s := by
  show ok (hrAck s (b % 64) (v % 65536)) = _
  rw [Nat.mod_eq_of_lt hb, hrAck_eq, if_pos h]

theorem hrAck_bad_goes {b v adv : Nat} (hb : b < 64) (hv : v < 65536) (ha : adv = (v + 65536 - hstHost s b) % 65536)
    (hon : hstState s b ≠ hstOff) (hbad : (hstDev s b + 65536 - hstHost s b) % 65536 < adv) :
    Goes (.hrAckWrite b v) s fun t => t = { s with rf := t.rf } ∧
      t.fld (R.HST.B_STAT.BAD_IDX_EV b) = 1 ∧ Touches [R.HST.B_STAT.BAD_IDX_EV b] s t := by
  have hexec : exec (.hrAckWrite b v) s = .next (s.setFld (R.HST.B_STAT.BAD_IDX_EV b) 1) := by
    show ok (hrAck s (b % 64) (v % 65536)) = _
    rw [Nat.mod_eq_of_lt hb, Nat.mod_eq_of_lt hv, hrAck_eq, if_neg hon, ← ha, if_neg (by omega)]
  exact ⟨_, hexec, (RfFrame.refl s).setFld _ _, State.fld_setFld_mod s _ 1 rfl, touches_setFld (by simp) (.refl _ s)⟩

theorem slotsFreed_leaves (s : State) (b adv : Nat) : ((slotsFreed s (768 + b) b adv).gq (768 + b)).elems = (s.gq (768 + b)).elems.drop adv ∧
    ((slotsFreed s (768 + b) b adv).gq (768 + b)).rd = (s.gq (768 + b)).rd - adv ∧ (∀ q, q ≠ 768 + b → (slotsFreed s (768 + b) b adv).gq q = s.gq q) ∧
    Touches [R.GAL.EVT.LOW] s (slotsFreed s (768 + b) b adv) := by
  obtain ⟨helems, hrd, -, hrest, hrf⟩ := galFreeFirst_leaves s (768 + b) adv
  have htouch : Touches [R.GAL.EVT.LOW] s (galRefresh (galFreeFirst s (768 + b) adv)) := touches_galRefresh (.of_rf _ hrf) (by simp)
  have hgq : ∀ q, (galRefresh (galFreeFirst s (768 + b) adv)).gq q = (galFreeFirst s (768 + b) adv).gq q := fun q => gq_galRefresh ..
  unfold slotsFreed
  dsimp only
  generalize galFreeFirst s (768 + b) adv = u at helems hrd hrest htouch hgq
  generalize galRefresh u = v at htouch hgq
  have hset : ∀ (w : State) (x : HostBlk) (q : Nat), (w.setHst b x).gq q = w.gq q := fun _ _ _ => rfl
  have hself := gq_setGq_self v (768 + b) { v.gq (768 + b) with mark := some 0 }
  have hother : ∀ q, q ≠ 768 + b → (v.setGq (768 + b) { v.gq (768 + b) with mark := some 0 }).gq q = v.gq q := fun q hq => gq_setGq_ne v _ hq
  have hrf' : Touches [R.GAL.EVT.LOW] s (v.setGq (768 + b) { v.gq (768 + b) with mark := some 0 }) := touches_setGq htouch _ _
  generalize v.setGq (768 + b) { v.gq (768 + b) with mark := some 0 } = w at hself hother hrf'
  refine ⟨?_, ?_, fun q hq => (hset w _ q).trans ((hother q hq).trans ((hgq q).trans (hrest q hq))), touches_rf rfl hrf'⟩
  · rw [hset, hself]
    exact (congrArg GQueue.elems (hgq _)).trans helems
  · rw [hset, hself]
    exact (congrArg GQueue.rd (hgq _)).trans hrd

theorem hrAck_goes {b v adv : Nat} (hb : b < 64) (hv : v < 65536) (ha : adv = (v + 65536 - hstHost s b) % 65536)
    (hon : hstState s b ≠ hstOff) (hfit : adv ≤ (hstDev s b + 65536 - hstHost s b) % 65536) :
    Goes (.hrAckWrite b v) s fun t => hstHost t b = v ∧
        hstDev t b = hstDev s b ∧ (t.gq (768 + b)).elems = (s.gq (768 + b)).elems.drop adv ∧
        (t.gq (768 + b)).rd = (s.gq (768 + b)).rd - adv ∧ (∀ q, q ≠ 768 + b → t.gq q = s.gq q) ∧
        Touches [R.HST.B_IDX.HOST_IDX b, R.GAL.EVT.LOW] s t := by
  have hq : hstQueue b = 768 + b := if_neg (by omega)
  have hexec : exec (.hrAckWrite b v) s = .next ((slotsFreed s (768 + b) b adv).setFld (R.HST.B_IDX.HOST_IDX b) v) := by
    show ok (hrAck s (b % 64) (v % 65536)) = _
    rw [Nat.mod_eq_of_lt hb, Nat.mod_eq_of_lt hv, hrAck_eq, if_neg hon, ← ha, if_pos hfit, hq]
  refine ⟨_, hexec, ?_⟩
  obtain ⟨helems, hrd, hrest, htouch⟩ := slotsFreed_leaves s b adv
  generalize slotsFreed s (768 + b) b adv = u at helems hrd hrest htouch
  have hgq : ∀ q, (u.setFld (R.HST.B_IDX.HOST_IDX b) v).gq q = u.gq q := fun q =>
    gq_of_qs (congrArg Galley.qs (qs_setFld u _ v)) q
  have hidx : v < 2 ^ (R.HST.B_IDX.HOST_IDX b).w := by
    rw [show (R.HST.B_IDX.HOST_IDX b).w = 16 from rfl]
    omega
  refine ⟨State.fld_setFld_lt u _ (Nat.le_of_ble_eq_true rfl) hidx, ?_, by rw [hgq, helems], by rw [hgq, hrd],
    fun q hne => (hgq q).trans (hrest q hne), touches_setFld (by simp) (htouch.mono (by simp))⟩
  refine (State.fld_setFld_above u v rfl).trans (htouch.fld fun f hf => ?_)
  rw [List.mem_singleton.mp hf]
  exact Fld.apart_of_key_ne (itemKey_ne_of_mod (a := 0x1111c) b (by decide))

end

/-- Settles O44. -/
theorem hostReceiveSteps : Obligations.HostReceiveSteps := fun s b hb => by
  refine ⟨fun i n c _ hn ha hc hdue => hostBlockStart_goes hn ha hc hdue,
    fun x n hx hn hst hdue htakes hlive => hrBlockCommit_goes hb hx hn hst hdue htakes hlive,
    fun it r hst hdma hr hring htags hdepth he hf hw => hrSlotWrite_goes hb hst hdma hr hring htags hdepth he hf hw,
    fun r rest hr hblk hlive => hrConfirmed_goes hb hr hblk hlive,
    fun c r rest off hc hr hblk hlive hrun => hrReadFailed_goes hb hc hr hblk hlive hrun,
    fun v adv hv ha hon => ⟨hrAck_goes hb hv ha hon, hrAck_bad_goes hb hv ha hon⟩, fun v h => hrAck_off hb v h⟩

end Sys2Proof.Machine
end

section
/-! What the galley's operations leave beyond the galley, and the samples of a whole block pushed to their sources (R245, R329,
R364, R394). -/

namespace Sys2Proof.Machine

/-! ### The galley's operations on states -/

section
variable {s : State}

theorem GalFrame.of_rf {t : State} (h : RfFrame s t) : GalFrame s t := by
  unfold RfFrame at h
  unfold GalFrame
  rw [h]

theorem galFrame_spill (s : State) (cs : List CellNo) (b : List Byte) : GalFrame s (spill s cs b) := by
  induction cs generalizing s b with
  | nil => rfl
  | cons c cs ih =>
    unfold spill
    refine GalFrame.trans ?_ (ih _ _)
    rfl

theorem galFrame_placeSlug (s : State) (q n folio ts reason : Nat) (merged own : Bool) : GalFrame s (placeSlug s q n folio ts reason merged own) := by
  have hin : ∀ h own, GalFrame s (placeSlugIn s h q n folio ts reason merged own) := fun h own => by
    have hcell := galFrame_takeCell s h
    unfold placeSlugIn
    generalize takeCell s h = c at hcell
    obtain ⟨c, u⟩ := c
    exact ((hcell.trans (galFrame_storeMark u c 0)).trans (galFrame_storeMark _ c 1)).setGq q _
  unfold placeSlug
  split
  · exact hin _ _
  · exact (hin _ _).trans (galFrame_turnOn _ q)

theorem galFrame_slugDrop (s : State) (q folio ts reason : Nat) : GalFrame s (slugDrop s q folio ts reason) := by
  unfold slugDrop
  dsimp only
  split
  · exact (GalFrame.refl s).setGq _ _
  · split
    · split
      · exact galFrame_placeSlug ..
      · exact galFrame_placeSlug ..
    · split
      · exact (GalFrame.refl s).setGq _ _
      · exact (GalFrame.refl s).setGq _ _

theorem countSatN_frame (s : State) (f : Fld) (n : Nat) (sat : Fld) (i : Nat) : RfFrame s (s.countSatN f n sat i) := by
  unfold State.countSatN
  dsimp only
  split
  · exact ((RfFrame.refl s).setFld _ _).setFld _ _
  · exact (RfFrame.refl s).setFld _ _

theorem countDrops_frame (s : State) (q n : Nat) : RfFrame s (countDrops s q n) := by
  have h1 : RfFrame s (s.countN (R.GAL.Q_DROPS.COUNT q) n) := (RfFrame.refl s).setFld _ _
  have h2 : RfFrame s (if (s.countN (R.GAL.Q_DROPS.COUNT q) n).fld (R.GAL.Q_DROPS.COUNT q) = 0xFFFFFFFF then
      (s.countN (R.GAL.Q_DROPS.COUNT q) n).setFld (R.GAL.Q_STAT.Q_SAT q) 1 else s.countN (R.GAL.Q_DROPS.COUNT q) n) := by
    split
    · exact h1.setFld _ _
    · exact h1
  have h3 := h2.trans (countSatN_frame _ R.GAL.DROP_CNT.COUNT n R.GAL.SAT.SAT_F 4)
  unfold countDrops
  dsimp only
  split
  · exact h3
  · exact h3.setFld _ _

theorem galFrame_itemDrop (s : State) (q folio ts reason : Nat) : GalFrame s (itemDrop s q folio ts reason) :=
  (GalFrame.of_rf (countDrops_frame s q 1)).trans (galFrame_slugDrop ..)

theorem galKey_dropFlds (q : Nat) : ∀ f ∈ dropFlds q, GalKey f.key := by
  intro f hf
  simp only [dropFlds, List.mem_cons, List.not_mem_nil, or_false] at hf
  rcases hf with rfl | rfl | rfl | rfl | rfl | rfl <;>
    simp only [GalKey, R.GAL.Q_DROPS.COUNT, R.GAL.Q_STAT.Q_SAT, R.GAL.DROP_CNT.COUNT, R.GAL.SAT.SAT_F, R.GAL.EVT.DROP,
      R.GAL.INJECT.ARM, itemKey] <;> omega

theorem onlyIn_itemDrop (s : State) (q folio ts reason : Nat) : OnlyIn GalKey s (itemDrop s q folio ts reason) :=
  .of_touches (touches_slugDrop (touches_countDrops (.refl _ s) 1 fun _ h => h) q folio ts reason (by simp [dropFlds])) (galKey_dropFlds q)

theorem galOpen_leaves (s : State) (q kind : Nat) (len : Option Nat) (folio ts : Nat) :
    GalFrame s (galOpen s q kind len folio ts) ∧ OnlyIn GalKey s (galOpen s q kind len folio ts) := by
  unfold galOpen
  dsimp only
  split
  · split
    · exact ⟨(GalFrame.refl s).setGq _ _, (OnlyIn.refl s).upd rfl⟩
    · split
      next l r _ =>
        have hframe := galFrame_itemDrop s q folio ts r
        have honly := onlyIn_itemDrop s q folio ts r
        generalize itemDrop s q folio ts r = u at hframe honly
        exact ⟨hframe.setGq _ _, honly.upd rfl⟩
      next l _ _ =>
        have hframe := galFrame_takeCells s q (cellsFor l)
        have hrf := (takeCells_leaves s q (cellsFor l)).2.2
        generalize takeCells s q (cellsFor l) = c at hframe hrf
        obtain ⟨cs, u⟩ := c
        exact ⟨hframe.setGq _ _, (OnlyIn.refl s).upd hrf⟩
  · exact ⟨.refl s, .refl s⟩

theorem galFrame_galRwnd (s : State) (q : Nat) : GalFrame s (galRwnd s q) := by
  have h1 : GalFrame s (s.count (R.GAL.Q_RWND.COUNT q)) := .of_rf (State.count_frame s _)
  unfold galRwnd
  dsimp only
  refine galFrame_galRefresh (GalFrame.trans ?_ (.of_rf (countSat_frame _ _ _ _)))
  split
  · exact h1.trans (.of_rf ((RfFrame.refl _).setFld _ _))
  · exact h1

/-- A producer's rewind: the queue has nothing open. -/
theorem galRewind_leaves (s : State) (q : Nat) : GalFrame s (galRewind s q) ∧ ((galRewind s q).gq q).opened = none := by
  have hspill : ∀ (it : GItem) (x : GQueue), x.opened = none → GalFrame s (galRwnd ((spill s it.cells it.bytes).setGq q x) q) ∧
      ((galRwnd ((spill s it.cells it.bytes).setGq q x) q).gq q).opened = none := fun it x hx => by
    refine ⟨((galFrame_spill s it.cells it.bytes).setGq q x).trans (galFrame_galRwnd ..), ?_⟩
    rw [gq_of_qs (congrArg Galley.qs (galRwnd_leaves _ q).1), gq_setGq_self, hx]
  unfold galRewind
  dsimp only
  split
  · exact hspill _ _ rfl
  next ho =>
    split
    · have hset := gq_setGq_self s q { s.gq q with swallow := false }
      have hframe : GalFrame s (s.setGq q { s.gq q with swallow := false }) := (GalFrame.refl s).setGq _ _
      unfold swallowEnd
      dsimp only
      generalize s.setGq q { s.gq q with swallow := false } = u at hset hframe
      split
      · exact ⟨hframe.trans rfl, (congrArg GQueue.opened (gq_of_qs (t := { u with gal := { u.gal with flushWait := false } }) rfl q)).trans
          ((congrArg GQueue.opened hset).trans ho)⟩
      · exact ⟨hframe, (congrArg GQueue.opened hset).trans ho⟩
    · split
      · split
        · exact ⟨.refl s, ho⟩
        · exact hspill _ _ ho
      · exact ⟨.refl s, ho⟩

theorem expireQueue_empty {q n next : Nat} (fuel : Nat) (h : (s.gq q).elems = []) : expireQueue q n next fuel s = s := by
  cases fuel with
  | zero => rfl
  | succ fuel =>
    unfold expireQueue
    dsimp only
    rw [h]
    rfl

theorem expireQueue_ahead {q n next : Nat} {it : GItem} {rest : List GElem} (fuel : Nat) (h : (s.gq q).elems = .item it :: rest)
    (hts : next < it.ts + n) : expireQueue q n next fuel s = s := by
  cases fuel with
  | zero => rfl
  | succ fuel =>
    unfold expireQueue
    dsimp only
    rw [h]
    dsimp only [List.head?_cons]
    exact if_neg (by simp; omega)

/-! ### Samples that come after their place (R245, R329) -/

/-- The registers in which late samples are counted. -/
def LateKey (k : Nat) : Prop := (0x8000 ≤ k ∧ k < 0x9000) ∨ (0xd000 ≤ k % 0x1000000 ∧ k % 0x1000000 < 0xe000)

/-- Nothing but late counts change. -/
structure LateStep (s t : State) : Prop where
  frame : RfFrame s t
  only  : OnlyIn LateKey s t

theorem LateStep.refl (s : State) : LateStep s s := ⟨.refl s, .refl s⟩

theorem LateStep.trans {t u : State} (h : LateStep s t) (k : LateStep t u) : LateStep s u := ⟨h.frame.trans k.frame, h.only.trans k.only⟩

theorem LateStep.ite {t u : State} {p : Prop} [Decidable p] (h : LateStep s t) (k : LateStep s u) : LateStep s (if p then t else u) := by
  split
  · exact h
  · exact k

theorem LateStep.foldl {α : Type} {l : List α} {g : State → α → State} (hg : ∀ u, ∀ a ∈ l, LateStep u (g u a)) (s : State) :
    LateStep s (l.foldl g s) := by
  induction l generalizing s with
  | nil => exact .refl s
  | cons a l ih => exact (hg s a List.mem_cons_self).trans (ih (fun u b hb => hg u b (List.mem_cons_of_mem _ hb)) _)

theorem tdmCount_frame (s : State) (p i : Nat) : RfFrame s (tdmCount s p i) := countSat_frame _ _ _ _

theorem txCount_frame (s : State) (f i n : Nat) (ev : List Fld) : RfFrame s (txCount s f i n ev) := by
  have h : RfFrame s (s.raise ev) := State.raise_frame s ev
  exact h.trans (countSatN_frame _ _ _ _ _)

theorem lateStep_tdmCount (s : State) {p : Nat} (hp : p < 16) : LateStep s (tdmCount (s.setFld (R.TDM.TX_STAT.LATE_EV p) 1) p 1) := by
  have hset : RfFrame s (s.setFld (R.TDM.TX_STAT.LATE_EV p) 1) := (RfFrame.refl s).setFld _ _
  have hcount : Touches [R.TDM.TX_STAT.LATE_EV p, { R.TDM.TX_UNDERRUN.COUNT p with key := (R.TDM.TX_UNDERRUN.COUNT p).key + 4 * 1 },
      R.TDM.SAT.SAT_F p] s (tdmCount (s.setFld (R.TDM.TX_STAT.LATE_EV p) 1) p 1) :=
    touches_countSat 1 (by simp) (by simp) (touches_setFld (by simp) (.refl _ s))
  refine ⟨hset.trans (tdmCount_frame _ p 1), .of_touches hcount fun f hf => .inl ?_⟩
  simp only [List.mem_cons, List.not_mem_nil, or_false] at hf
  rcases hf with rfl | rfl | rfl <;> simp only [R.TDM.TX_STAT.LATE_EV, R.TDM.TX_UNDERRUN.COUNT, R.TDM.SAT.SAT_F] <;> omega

theorem lateStep_tdmLate (s : State) (src k : Nat) : LateStep s (tdmLate s src k) := by
  unfold tdmLate
  refine LateStep.foldl (fun u p hp => ?_) s
  exact LateStep.ite (lateStep_tdmCount u (List.mem_range.mp hp)) (.refl u)

theorem lateStep_txCount (s : State) (f : Nat) : LateStep s (txCount s f 1 1 [R.TXF.F_STAT.LATE_EV f]) := by
  have hcount : Touches [R.TXF.F_STAT.LATE_EV f, { R.TXF.F_UNDERRUN.COUNT f with key := (R.TXF.F_UNDERRUN.COUNT f).key + 4 * 1 },
      R.TXF.F_SAT.SAT f] s (txCount s f 1 1 [R.TXF.F_STAT.LATE_EV f]) :=
    touches_countSatN (touches_setFld (by simp) (.refl _ s)) 1 1 (by simp) (by simp)
  refine ⟨txCount_frame s f 1 1 _, .of_touches hcount fun g hg => .inr ?_⟩
  simp only [List.mem_cons, List.not_mem_nil, or_false] at hg
  rcases hg with rfl | rfl | rfl <;> simp only [R.TXF.F_STAT.LATE_EV, R.TXF.F_UNDERRUN.COUNT, R.TXF.F_SAT.SAT, itemKey] <;> omega

theorem lateStep_txLate (s : State) (src k : Nat) : LateStep s (txLate s src k) := by
  unfold txLate
  refine LateStep.foldl (fun u d _ => ?_) s
  split
  · split
    · split
      · exact lateStep_txCount u _
      · exact .refl u
    · exact .refl u
  · exact .refl u

theorem lateStep_srcLate (s : State) (src k : Nat) : LateStep s (srcLate s src k) := (lateStep_tdmLate s src k).trans (lateStep_txLate ..)

/-! ### A block's samples (R364, R394) -/

/-- The sample of channel `c` at the `j`th index of a block. -/
def pushWord (base mult next idx : Nat) (t : Bool) (w : Nat → Nat → Word) (j : Nat) (s : State) (c : Nat) : State :=
  let s := srcLate s (base + c * mult) (idx + j)
  if idx + j < next then s else pushSort s (base + c * mult) (idx + j) (w j c) t

/-- The samples of a block of `n` indices and `ch` channels, channel 0 of the first index first. -/
def pushBlock (base mult next idx n ch : Nat) (t : Bool) (w : Nat → Nat → Word) (s : State) : State :=
  (List.range n).foldl (fun s j => (List.range ch).foldl (pushWord base mult next idx t w j) s) s

/-- Nothing but late counts and samples change. -/
structure PushStep (s t : State) : Prop where
  frame : t = { s with rf := t.rf, sorts := t.sorts }
  only  : OnlyIn LateKey s t

theorem PushStep.refl (s : State) : PushStep s s := ⟨rfl, .refl s⟩

theorem PushStep.trans {t u : State} (h : PushStep s t) (k : PushStep t u) : PushStep s u :=
  ⟨by rw [k.frame, h.frame], h.only.trans k.only⟩

theorem PushStep.foldl {α : Type} {l : List α} {g : State → α → State} (hg : ∀ u a, PushStep u (g u a)) (s : State) :
    PushStep s (l.foldl g s) := by
  induction l generalizing s with
  | nil => exact .refl s
  | cons a l ih => exact (hg s a).trans (ih _)

theorem pushStep_pushWord (base mult next idx : Nat) (t : Bool) (w : Nat → Nat → Word) (j : Nat) (s : State) (c : Nat) :
    PushStep s (pushWord base mult next idx t w j s c) := by
  obtain ⟨hframe, honly⟩ := lateStep_srcLate s (base + c * mult) (idx + j)
  unfold pushWord
  dsimp only
  generalize srcLate s (base + c * mult) (idx + j) = u at hframe honly
  have hu : u = { s with rf := u.rf, sorts := u.sorts } := by
    unfold RfFrame at hframe
    rw [hframe]
  split
  · exact ⟨hu, honly⟩
  · exact PushStep.trans ⟨hu, honly⟩ ⟨rfl, (OnlyIn.refl u).upd rfl⟩

theorem pushStep_pushBlock (base mult next idx n ch : Nat) (t : Bool) (w : Nat → Nat → Word) (s : State) :
    PushStep s (pushBlock base mult next idx n ch t w s) :=
  PushStep.foldl (fun u j => PushStep.foldl (fun v c => pushStep_pushWord base mult next idx t w j v c) u) s

/-- A sample near enough leaves the samples of its source at other indices. -/
theorem findSort_pushSort_near (s : State) (src : Nat) {idx idx' : Nat} (w : Word) (t : Bool) (hne : idx' ≠ idx) (hnear : idx < idx' + 4096) :
    findSort (pushSort s src idx w t) src idx' = findSort s src idx' := by
  have hkeep : ∀ l : List Sample, (l.filter fun x => !(x.src == src && (x.idx == idx || decide (x.idx + 4096 ≤ idx)))).find?
      (fun x => x.src == src && x.idx == idx') = l.find? fun x => x.src == src && x.idx == idx' := fun l => by
    rw [List.find?_filter]
    congr 1
    funext x
    by_cases hx : x.idx = idx'
    · simp [hx, hne, show ¬ idx' + 4096 ≤ idx by omega]
      rfl
    · simp [hx]
  unfold findSort pushSort
  dsimp only
  rw [List.find?_cons_of_neg (by simp [Ne.symm hne]), hkeep]

theorem findSort_of_frame {t : State} (h : RfFrame s t) (src idx : Nat) : findSort t src idx = findSort s src idx := by
  unfold RfFrame at h
  rw [h]
  rfl

section
variable {base mult next idx n ch : Nat} {t : Bool} {w : Nat → Nat → Word}

theorem findSort_pushWord_self {j c : Nat} (hnext : next ≤ idx + j) (u : State) :
    findSort (pushWord base mult next idx t w j u c) (base + c * mult) (idx + j) = some (w j c, t) := by
  unfold pushWord
  dsimp only
  rw [if_neg (by omega)]
  exact findSort_pushSort_self ..

/-- The sample of one place of a block stays when another is pushed. -/
theorem findSort_pushWord_ne (hm : 0 < mult) {j c j' c' : Nat} (hne : ¬(j' = j ∧ c' = c)) (hnear : j' < j + 4096) (u : State) :
    findSort (pushWord base mult next idx t w j' u c') (base + c * mult) (idx + j) = findSort u (base + c * mult) (idx + j) := by
  have hlate := findSort_of_frame (lateStep_srcLate u (base + c' * mult) (idx + j')).frame (base + c * mult) (idx + j)
  unfold pushWord
  dsimp only
  split
  · exact hlate
  · by_cases hc : c' = c
    · rw [hc, findSort_pushSort_near _ _ _ _ (by omega) (by omega), ← hc]
      rw [hc] at hlate ⊢
      exact hlate
    · refine (findSort_pushSort_ne _ _ _ _ _ fun e => hc ?_).trans hlate
      exact (Nat.eq_of_mul_eq_mul_right hm (Nat.add_left_cancel e)).symm

/-- Every place of a block at or after the first index that the table has not passed has its word. -/
theorem findSort_pushBlock (hm : 0 < mult) (hn : n ≤ 4096) {j c : Nat} (hj : j < n) (hc : c < ch) (hnext : next ≤ idx + j) (s : State) :
    findSort (pushBlock base mult next idx n ch t w s) (base + c * mult) (idx + j) = some (w j c, t) := by
  have hkeep : ∀ u j' c', j' < n → findSort u (base + c * mult) (idx + j) = some (w j c, t) →
      findSort (pushWord base mult next idx t w j' u c') (base + c * mult) (idx + j) = some (w j c, t) := fun u j' c' hj' hu => by
    by_cases hsame : j' = j ∧ c' = c
    · rw [hsame.1, hsame.2]
      exact findSort_pushWord_self hnext u
    · exact (findSort_pushWord_ne hm hsame (by omega) u).trans hu
  refine foldl_reaches (P := fun _ => True) (Q := fun u => findSort u (base + c * mult) (idx + j) = some (w j c, t))
    (a := j) (List.mem_range.mpr hj) (fun _ _ _ _ => trivial) (fun u j' hj' hu => ?_) (fun u _ => ?_) trivial
  · have hrow : ∀ (l : List Nat) v, findSort v (base + c * mult) (idx + j) = some (w j c, t) →
        findSort (l.foldl (pushWord base mult next idx t w j') v) (base + c * mult) (idx + j) = some (w j c, t) := by
      intro l
      induction l with
      | nil => exact fun v hv => hv
      | cons c' l ih => exact fun v hv => ih _ (hkeep v j' c' (List.mem_range.mp hj') hv)
    exact hrow _ u hu
  · exact foldl_reaches (P := fun _ => True) (Q := fun v => findSort v (base + c * mult) (idx + j) = some (w j c, t))
      (a := c) (List.mem_range.mpr hc) (fun _ _ _ _ => trivial) (fun v c' _ hv => hkeep v j c' hj hv)
      (fun v _ => findSort_pushWord_self hnext v) trivial

end

/-- A block has at most 768 samples of a channel. -/
theorem ptSamples_le (pt rate : Nat) : ptSamples pt rate ≤ 768 := by
  have hpt : ∀ l : List Nat, (∀ x ∈ l, x ≤ 192) → ∀ i, l.getD i 6 ≤ 192 := fun l hl i => by
    rw [List.getD_eq_getElem?_getD]
    cases h : l[i]? with
    | none => decide
    | some x => exact hl x (List.mem_of_getElem? h)
  have hrate : rateMult rate ≤ 4 := by
    unfold rateMult
    split
    · decide
    · split <;> decide
  exact (Nat.mul_le_mul (hpt [3, 6, 12, 16, 48, 192] (by decide) pt) hrate)

theorem mcsMult_pos (s : State) (m : Nat) : 0 < mcsMult s m := by
  unfold mcsMult rateMult
  split
  · decide
  · split <;> decide

end

end Sys2Proof.Machine
end

section
/-! The reads of a transmit block's slots and their ends, and the state of the host link (R353, R357, R363 to R365). -/

namespace Sys2Proof.Machine

section
variable {s : State} {i : Nat}

/-! ### What a block's reads stand on -/

theorem galKey_not_ring (i : Nat) : ∀ k, GalKey k → ¬ RingKey i k := by
  intro k hk
  unfold GalKey at hk
  unfold RingKey
  simp only [R.HST.B_CFG.reg, R.HST.B_RING_LO.reg, R.HST.B_RING_HI.reg, R.HST.B_RING.reg, R.HST.B_WB_LO.reg,
    R.HST.B_WB_HI.reg, R.CLK.MCS_CFG.reg, itemKey]
  omega

theorem hstSlotAddr_of_rf {t : State} (h : t.rf = s.rf) (idx : Nat) : hstSlotAddr t i idx = hstSlotAddr s i idx :=
  hstSlotAddr_of_onlyIn ((OnlyIn.refl (B := fun _ => False) s).upd h) (fun _ hk => hk.elim) idx

theorem dmaOn_of {t : State} (hup : t.fld R.HST.LINK.UP = s.fld R.HST.LINK.UP) (hpins : t.pins = s.pins) (hpwr : t.pwr = s.pwr) :
    dmaOn t = dmaOn s := by
  rw [dmaOn, State.flag_of_fld (s := t) hup, hpins, State.domOn, hpwr]
  rfl

theorem tagLimit_of {t : State} (h : t.fld R.HST.CFG.TAGS = s.fld R.HST.CFG.TAGS) : tagLimit t = tagLimit s := by
  rw [tagLimit, h, tagLimit]

theorem tagLimit_le (s : State) : tagLimit s ≤ 256 := by
  have := State.fld_lt s R.HST.CFG.TAGS
  unfold tagLimit
  split
  · exact le_rfl
  · exact Nat.le_of_lt this

/-! ### Reads go out (R363) -/

/-- One read request of a slot goes out. -/
def readIssued (s : State) (i : Nat) (f : HtFetch) (off len : Nat) (rest : List (Nat × Nat)) : State :=
  let s := s.setHst i { s.hst i with fetch := some { f with todo := rest, left := f.left + 1 } }
  let s := s.emit (.hostRead (hstSlotAddr s i (hstDev s i) + off) len)
  { s with reads := s.reads ++ [⟨i, off, len, true⟩] }

theorem readIssued_leaves (s : State) (i : Nat) (f : HtFetch) (off len : Nat) (rest : List (Nat × Nat)) :
    (readIssued s i f off len rest).rf = s.rf ∧ (readIssued s i f off len rest).pins = s.pins ∧
    (readIssued s i f off len rest).pwr = s.pwr ∧
    ((readIssued s i f off len rest).hst i).fetch = some { f with todo := rest, left := f.left + 1 } ∧
    (readIssued s i f off len rest).reads = s.reads ++ [⟨i, off, len, true⟩] ∧
    (readIssued s i f off len rest).out = .hostRead (hstSlotAddr s i (hstDev s i) + off) len :: s.out := by
  have hhst := hst_setHst_self s i { s.hst i with fetch := some { f with todo := rest, left := f.left + 1 } }
  have hframe : HstFrame s (s.setHst i { s.hst i with fetch := some { f with todo := rest, left := f.left + 1 } }) := rfl
  have hrf : (s.setHst i { s.hst i with fetch := some { f with todo := rest, left := f.left + 1 } }).rf = s.rf := rfl
  unfold readIssued
  dsimp only
  generalize s.setHst i { s.hst i with fetch := some { f with todo := rest, left := f.left + 1 } } = u at hhst hframe hrf
  rw [hstSlotAddr_of_rf hrf, show hstDev u i = hstDev s i from State.fld_of_rf_eq hrf _]
  generalize hstSlotAddr s i (hstDev s i) = a
  have hhst' : ∀ (o : Out) (r : List HostRead), (({ u.emit o with reads := r } : State).hst i) = u.hst i := fun _ _ => rfl
  refine ⟨hrf, ?_, ?_, (congrArg HostBlk.fetch (hhst' _ _)).trans (congrArg HostBlk.fetch hhst), ?_, ?_⟩
  · rw [hframe]; rfl
  · rw [hframe]; rfl
  · rw [hframe]; rfl
  · rw [hframe]; rfl

/-- While tags are free every request of a slot goes out. -/
theorem htIssue_all (l : List (Nat × Nat)) {f : HtFetch} {n : Nat} (hf : (s.hst i).fetch = some f) (hl : f.todo = l) (hn : l.length ≤ n)
    (htags : s.reads.length + l.length ≤ tagLimit s) (hdma : dmaOn s = true) :
    (htIssue i n s).rf = s.rf ∧ ((htIssue i n s).hst i).fetch = some { f with todo := [], left := f.left + l.length } ∧
    (htIssue i n s).reads = s.reads ++ l.map (fun p => ⟨i, p.1, p.2, true⟩) ∧
    (htIssue i n s).out = l.reverse.map (fun p => .hostRead (hstSlotAddr s i (hstDev s i) + p.1) p.2) ++ s.out := by
  induction l generalizing s f n with
  | nil =>
    have hsame : htIssue i n s = s := by
      cases n with
      | zero => rfl
      | succ n =>
        rw [htIssue, hf]
        dsimp only
        rw [hl]
    have hdone : { f with todo := [], left := f.left + 0 } = f := by rw [← hl]; rfl
    rw [hsame, hf]
    exact ⟨rfl, congrArg some hdone.symm, (List.append_nil _).symm, rfl⟩
  | cons p l ih =>
    obtain ⟨off, len⟩ := p
    cases n with
    | zero => exact absurd hn (by simp)
    | succ n =>
      rw [List.length_cons] at hn htags
      have hstep : htIssue i (n + 1) s = htIssue i n (readIssued s i f off len l) := by
        rw [htIssue, hf]
        dsimp only
        rw [hl]
        dsimp only
        rw [if_pos ⟨by omega, hdma⟩]
        rfl
      obtain ⟨hrf, hpins, hpwr, hfetch, hreads, hout⟩ := readIssued_leaves s i f off len l
      rw [hstep]
      generalize readIssued s i f off len l = u at hrf hpins hpwr hfetch hreads hout
      have hlen : u.reads.length = s.reads.length + 1 := by rw [hreads, List.length_append]; rfl
      obtain ⟨hrf', hfetch', hreads', hout'⟩ := ih (s := u) (n := n) hfetch rfl (by omega)
        (by rw [tagLimit_of (State.fld_of_rf_eq hrf _), hlen]; omega) ((dmaOn_of (State.fld_of_rf_eq hrf _) hpins hpwr).trans hdma)
      refine ⟨hrf'.trans hrf, ?_, ?_, ?_⟩
      · rw [hfetch', List.length_cons]
        dsimp only
        rw [Nat.add_assoc, Nat.add_comm 1]
      · rw [hreads', hreads, List.append_assoc]
        rfl
      · rw [hout', hout, hstSlotAddr_of_rf hrf, show hstDev u i = hstDev s i from State.fld_of_rf_eq hrf _, List.reverse_cons,
          List.map_append, List.append_assoc]
        rfl

/-! ### A slot's reads begin, or nothing does (R363) -/

/-- An item opens for a block's next slot, whose requests are to go out. -/
def htOpened (s : State) (i : Nat) : State :=
  let (a, s) := s.fresh
  let (b, s) := s.fresh
  let s := galOpen s (hstQueue i) 2 (some (hstBytesOf s i)) ((Config.freeValue a).toNat % 65536)
    (Config.freeValue b).toNat
  s.setHst i { s.hst i with fetch := some ⟨[], slotReads s i, 0⟩ }

theorem htStart_eq (s : State) (i : Nat) : htStart s i = tagsRefresh (htIssue i 1024
    (if hstState s i = hstRun ∧ (s.hst i).fetch.isNone ∧ hstHost s i ≠ hstDev s i ∧ dmaOn s = true then htOpened s i else s)) := rfl

theorem slotReads_of_onlyIn {t : State} (h : OnlyIn GalKey s t) : slotReads t i = slotReads s i := by
  have hdev : hstDev t i = hstDev s i := h.fld (f := R.HST.B_IDX.DEV_IDX i) (by
    simp only [GalKey, R.HST.B_IDX.DEV_IDX, itemKey]
    omega)
  rw [slotReads, hstBytesOf_of_onlyIn h (galKey_not_ring i), hstSlotAddr_of_onlyIn h (galKey_not_ring i), hdev, slotReads]

theorem htOpened_leaves (s : State) (i : Nat) : OnlyIn GalKey s (htOpened s i) ∧ (htOpened s i).pins = s.pins ∧ (htOpened s i).pwr = s.pwr ∧
    (htOpened s i).reads = s.reads ∧ (htOpened s i).out = s.out ∧ ((htOpened s i).hst i).fetch = some ⟨[], slotReads s i, 0⟩ := by
  have hfresh : OnlyIn GalKey s (s.fresh.2).fresh.2 := (OnlyIn.refl s).upd rfl
  unfold htOpened
  dsimp only
  obtain ⟨hframe, honly⟩ := galOpen_leaves (s.fresh.2).fresh.2 (hstQueue i) 2 (some (hstBytesOf (s.fresh.2).fresh.2 i))
    ((Config.freeValue s.fresh.1).toNat % 65536) (Config.freeValue s.fresh.2.fresh.1).toNat
  generalize galOpen (s.fresh.2).fresh.2 (hstQueue i) 2 (some (hstBytesOf (s.fresh.2).fresh.2 i))
    ((Config.freeValue s.fresh.1).toNat % 65536) (Config.freeValue s.fresh.2.fresh.1).toNat = u at hframe honly
  have hreads := slotReads_of_onlyIn (i := i) (hfresh.trans honly)
  have hself := hst_setHst_self u i { u.hst i with fetch := some ⟨[], slotReads u i, 0⟩ }
  have hset : HstFrame u (u.setHst i { u.hst i with fetch := some ⟨[], slotReads u i, 0⟩ }) := rfl
  have hrf : (u.setHst i { u.hst i with fetch := some ⟨[], slotReads u i, 0⟩ }).rf = u.rf := rfl
  generalize u.setHst i { u.hst i with fetch := some ⟨[], slotReads u i, 0⟩ } = v at hself hset hrf
  refine ⟨(hfresh.trans honly).upd hrf, ?_, ?_, ?_, ?_, by rw [hself, hreads]⟩
  · rw [hset, hframe]; rfl
  · rw [hset, hframe]; rfl
  · rw [hset, hframe]; rfl
  · rw [hset, hframe]; rfl

/-- A block whose next slot is filled starts to read it while tags are free. -/
theorem htStart_opens (hrun : hstState s i = hstRun) (hfetch : (s.hst i).fetch = none) (hmore : hstHost s i ≠ hstDev s i) (hdma : dmaOn s = true)
    (htags : s.reads.length + (slotReads s i).length ≤ tagLimit s) : OnlyIn (fun k => GalKey k ∨ k = R.HST.TAGS.reg) s (htStart s i) ∧
    ((htStart s i).hst i).fetch = some ⟨[], [], (slotReads s i).length⟩ ∧
    (htStart s i).reads = s.reads ++ (slotReads s i).map (fun p => ⟨i, p.1, p.2, true⟩) ∧
    (htStart s i).out = (slotReads s i).reverse.map (fun p => .hostRead (hstSlotAddr s i (hstDev s i) + p.1) p.2) ++ s.out := by
  have hlimit := tagLimit_le s
  rw [htStart_eq, if_pos ⟨hrun, by rw [hfetch]; rfl, hmore, hdma⟩]
  obtain ⟨honly, hpins, hpwr, hreads, hout, hfetch'⟩ := htOpened_leaves s i
  generalize htOpened s i = u at honly hpins hpwr hreads hout hfetch'
  obtain ⟨hrf, hf, hr, ho⟩ := htIssue_all (s := u) (i := i) (n := 1024) (slotReads s i) hfetch' rfl (by omega)
    (by rw [tagLimit_of (honly.fld (by unfold GalKey; decide)), hreads]; exact htags)
    ((dmaOn_of (honly.fld (by unfold GalKey; decide)) hpins hpwr).trans hdma)
  generalize htIssue i 1024 u = v at hrf hf hr ho
  obtain ⟨ho', hr', -, hh'⟩ := tagsRefresh_leaves v
  have hdev : hstDev u i = hstDev s i := honly.fld (f := R.HST.B_IDX.DEV_IDX i) (by
    simp only [GalKey, R.HST.B_IDX.DEV_IDX, itemKey]
    omega)
  refine ⟨((honly.upd hrf).mono fun _ hk => .inl hk).trans (.of_touches (touches_tagsRefresh v) (by simp [R.HST.TAGS.INFLIGHT, R.HST.TAGS.PEAK, R.HST.TAGS.reg])),
    by rw [State.hst, hh', ← State.hst, hf, Nat.zero_add], by rw [hr', hr, hreads], ?_⟩
  rw [ho', ho, hout, hstSlotAddr_of_onlyIn honly (galKey_not_ring i), hdev]

/-- A block that has nothing to start and no request to send. -/
structure HtIdle (s : State) (i : Nat) : Prop where
  sent : ∀ f, (s.hst i).fetch = some f → f.todo = []
  none : (s.hst i).fetch = none → hstState s i ≠ hstRun ∨ hstHost s i = hstDev s i

theorem htStart_idle (h : HtIdle s i) : htStart s i = tagsRefresh s := by
  have hissue : htIssue i 1024 s = s := by
    rw [htIssue]
    split
    · rfl
    next f hf => rw [h.sent f hf]
  rw [htStart_eq, if_neg, hissue]
  rintro ⟨hrun, hfetch, hmore, -⟩
  rcases h.none (Option.isNone_iff_eq_none.mp hfetch) with h | h
  · exact h hrun
  · exact hmore h

/-- Nothing but the count of outstanding reads is shown anew. -/
structure TagStep (s t : State) : Prop where
  frame : RfFrame s t
  touch : Touches [R.HST.TAGS.INFLIGHT, R.HST.TAGS.PEAK] s t

theorem TagStep.refl (s : State) : TagStep s s := ⟨.refl s, .refl _ s⟩

theorem TagStep.trans {t u : State} (h : TagStep s t) (k : TagStep t u) : TagStep s u := ⟨h.frame.trans k.frame, h.touch.trans k.touch⟩

theorem TagStep.fld {t : State} (h : TagStep s t) {f : Fld} (hf : f.key ≠ R.HST.TAGS.reg) : t.fld f = s.fld f :=
  h.touch.fld (by simp [Fld.apart, R.HST.TAGS.INFLIGHT, R.HST.TAGS.PEAK, show f.key ≠ 0x11008 from hf])

theorem TagStep.hst {t : State} (h : TagStep s t) (j : Nat) : t.hst j = s.hst j := congrArg (fun u => u.hst j) h.frame

theorem tagStep_tagsRefresh (s : State) : TagStep s (tagsRefresh s) := ⟨tagsRefresh_frame s, touches_tagsRefresh s⟩

theorem HtIdle.of_step {t : State} (h : HtIdle s i) (k : TagStep s t) : HtIdle t i := by
  have hfld : ∀ a lo w, a % 0x1000000 ≠ 0x11008 % 0x1000000 → t.fld ⟨itemKey a i, lo, w⟩ = s.fld ⟨itemKey a i, lo, w⟩ := fun a lo w ha =>
    k.fld (itemKey_ne_of_mod i ha)
  have hst : hstState t i = hstState s i := hfld 0x11118 28 4 (by decide)
  have hhost : hstHost t i = hstHost s i := hfld 0x1111c 16 16 (by decide)
  have hdev : hstDev t i = hstDev s i := hfld 0x1111c 0 16 (by decide)
  exact ⟨by rw [k.hst]; exact h.sent, by rw [k.hst, hst, hhost, hdev]; exact h.none⟩

/-- Where no transmit block has anything to start, all of them going on changes nothing. -/
theorem htPump_idle (h : ∀ j, j < 64 → hstState s (256 + j) = hstOff ∨ HtIdle s (256 + j)) : TagStep s (htPump s) := by
  have hgo : ∀ (l : List Nat), (∀ j ∈ l, j < 64) → ∀ u, TagStep s u →
      TagStep s (l.foldl (fun s b => if hstState s (b + 256) = hstOff then s else htStart s (b + 256)) u) := by
    intro l hl
    induction l with
    | nil => exact fun _ hu => hu
    | cons j l ih =>
      intro u hu
      refine ih (fun x hx => hl x (List.mem_cons_of_mem _ hx)) _ ?_
      dsimp only
      split
      · exact hu
      next hon =>
        have hstate : hstState u (256 + j) = hstState s (256 + j) :=
          hu.fld (itemKey_ne_of_mod (a := 0x11118) (c := 0x11008) (256 + j) (by decide))
        rw [Nat.add_comm j 256] at hon ⊢
        rcases h j (hl j List.mem_cons_self) with hoff | hidle
        · exact absurd (hstate.trans hoff) hon
        · rw [htStart_idle (hidle.of_step hu)]
          exact hu.trans (tagStep_tagsRefresh u)
  exact hgo _ (fun j hj => List.mem_range.mp hj) s (.refl s)

end

end Sys2Proof.Machine
end

section
/-! The ends of a transmit block's reads: a slot filled, a slot committed, a slot read again (R363 to R365). -/

namespace Sys2Proof.Machine

section
variable {s : State} {i : Nat}

/-! ### Slots that are not taken (R363) -/

theorem htProd_bad_goes {b v : Nat} (hb : b < 64) (hv : v < 65536) (hon : hstState s (256 + b) ≠ hstOff)
    (hfar : s.fld (R.HST.B_RING.ENTRIES (256 + b)) < (v + 65536 - hstDev s (256 + b)) % 65536) :
    Goes (.htProdWrite b v) s fun t => t = { s with rf := t.rf } ∧ t.fld (R.HST.B_STAT.BAD_IDX_EV (256 + b)) = 1 ∧
      Touches [R.HST.B_STAT.BAD_IDX_EV (256 + b)] s t := by
  have hexec : exec (.htProdWrite b v) s = .next (s.setFld (R.HST.B_STAT.BAD_IDX_EV (256 + b)) 1) := by
    show ok (htProd s (256 + b % 64) (v % 65536)) = _
    rw [Nat.mod_eq_of_lt hb, Nat.mod_eq_of_lt hv, htProd, if_neg hon, if_neg (by omega)]
  exact ⟨_, hexec, (RfFrame.refl s).setFld _ _, State.fld_setFld_mod s _ 1 rfl, touches_setFld (by simp) (.refl _ s)⟩

theorem htProd_goes {b v : Nat} (hb : b < 64) (hv : v < 65536) (hrun : hstState s (256 + b) = hstRun)
    (hfit : (v + 65536 - hstDev s (256 + b)) % 65536 ≤ s.fld (R.HST.B_RING.ENTRIES (256 + b))) (hmore : v ≠ hstDev s (256 + b))
    (hfetch : (s.hst (256 + b)).fetch = none) (hdma : dmaOn s = true)
    (htags : s.reads.length + (slotReads s (256 + b)).length ≤ tagLimit s) : Goes (.htProdWrite b v) s fun t =>
      hstHost t (256 + b) = v ∧ (t.hst (256 + b)).fetch = some ⟨[], [], (slotReads s (256 + b)).length⟩ ∧
      t.reads = s.reads ++ (slotReads s (256 + b)).map (fun p => ⟨256 + b, p.1, p.2, true⟩) ∧
      t.out = (slotReads s (256 + b)).reverse.map (fun p =>
        .hostRead (hstSlotAddr s (256 + b) (hstDev s (256 + b)) + p.1) p.2) ++ s.out := by
  have hexec : exec (.htProdWrite b v) s = .next (htStart (s.setFld (R.HST.B_IDX.HOST_IDX (256 + b)) v) (256 + b)) := by
    show ok (htProd s (256 + b % 64) (v % 65536)) = _
    rw [Nat.mod_eq_of_lt hb, Nat.mod_eq_of_lt hv, htProd, if_neg (by rw [hrun]; decide), if_pos hfit]
  refine ⟨_, hexec, ?_⟩
  generalize 256 + b = i at *
  have hidx : v < 2 ^ (R.HST.B_IDX.HOST_IDX i).w := by
    rw [show (R.HST.B_IDX.HOST_IDX i).w = 16 from rfl]
    omega
  have hframe : RfFrame s (s.setFld (R.HST.B_IDX.HOST_IDX i) v) := (RfFrame.refl s).setFld _ _
  have hhost : hstHost (s.setFld (R.HST.B_IDX.HOST_IDX i) v) i = v := State.fld_setFld_lt s _ (Nat.le_of_ble_eq_true rfl) hidx
  have hdev : hstDev (s.setFld (R.HST.B_IDX.HOST_IDX i) v) i = hstDev s i := State.fld_setFld_above s v rfl
  have honly : OnlyIn (· = R.HST.B_IDX.reg i) s (s.setFld (R.HST.B_IDX.HOST_IDX i) v) := (OnlyIn.refl s).setFld _ rfl
  generalize s.setFld (R.HST.B_IDX.HOST_IDX i) v = u at hframe hhost hdev honly
  have hslot : slotReads u i = slotReads s i := by
    rw [slotReads, hstBytesOf_of_onlyIn honly (idx_not_ring i), hstSlotAddr_of_onlyIn honly (idx_not_ring i), hdev, slotReads]
  have hhst : u.hst i = s.hst i := congrArg (fun w => w.hst i) hframe
  have hreads : u.reads = s.reads := congrArg (fun w => w.reads) hframe
  have hout : u.out = s.out := congrArg (fun w => w.out) hframe
  have hnot : ∀ f : Fld, f.key % 0x1000000 ≠ 0x1111c → u.fld f = s.fld f := fun f hf => honly.fld fun e => hf (by
    rw [e]
    exact itemKey_mod (by decide) i)
  obtain ⟨hkeys, hf, hr, ho⟩ := htStart_opens (s := u) (i := i) ((hnot (R.HST.B_STAT.STATE i) (by
      rw [show (R.HST.B_STAT.STATE i).key = itemKey 0x11118 i from rfl, itemKey_mod (by decide)]
      decide)).trans hrun) (hhst ▸ hfetch)
    (by rw [hhost, hdev]; exact hmore)
    ((dmaOn_of (hnot _ (by decide)) (congrArg (fun w => w.pins) hframe) (congrArg (fun w => w.pwr) hframe)).trans hdma)
    (by rw [hslot, hreads, tagLimit_of (hnot _ (by decide))]; exact htags)
  refine ⟨(hkeys.fld (f := R.HST.B_IDX.HOST_IDX i) ?_).trans hhost, by rw [hf, hslot], by rw [hr, hslot, hreads],
    by rw [ho, hslot, hout, hstSlotAddr_of_onlyIn honly (idx_not_ring i), hdev]⟩
  simp only [GalKey, R.HST.B_IDX.HOST_IDX, R.HST.TAGS.reg, itemKey]
  omega

/-! ### The end of a read (R363) -/

/-- The data of a read have come: the slot's bytes and the requests it waits for. -/
def readTaken (s : State) (i : Nat) (f : HtFetch) (n : Nat) : State := hstMoved (s.setHst i { s.hst i with fetch := some f }) 1 n

theorem readTaken_leaves (s : State) (i : Nat) (f : HtFetch) (n : Nat) : ((readTaken s i f n).hst i).fetch = some f ∧
    (readTaken s i f n).rf = s.rf ∧ readTaken s i f n = { s with hsts := (readTaken s i f n).hsts, hstBytes := (readTaken s i f n).hstBytes } :=
  ⟨congrArg HostBlk.fetch (hst_setHst_self s i { s.hst i with fetch := some f }), rfl, rfl⟩

/-- The bytes of a slot with those of one read laid over them. -/
def slotFilled (s : State) (i : Nat) (f : HtFetch) (r : HostRead) (data : List Byte) : List Byte :=
  overlay (f.buf ++ List.replicate (hstBytesOf s i - f.buf.length) 0) r.off data

theorem takeRead_at {r : HostRead} {rest : List HostRead} (hr : s.reads = r :: rest) (hblk : r.blk = i) :
    takeRead (fun x => x.blk == i && x.off == r.off) s.reads = (some r, rest) := by
  rw [hr]
  exact takeRead_head rest (by simp [hblk])

theorem htEnd_good {r : HostRead} {rest : List HostRead} {f : HtFetch} {data : List Byte} (hr : s.reads = r :: rest) (hblk : r.blk = i)
    (hlive : r.live = true) (hf : (s.hst i).fetch = some f) (hoff : r.off ≠ 0) (hlen : data.length = r.len) :
    htEnd s i r.off data true = htPump
      (if f.left - 1 = 0 ∧ f.todo = [] then
        htCommit (readTaken (tagsRefresh { s with reads := rest }) i { f with buf := slotFilled s i f r data, left := f.left - 1 } r.len) i
          (slotFilled s i f r data)
      else readTaken (tagsRefresh { s with reads := rest }) i { f with buf := slotFilled s i f r data, left := f.left - 1 } r.len) := by
  have hstep := tagStep_tagsRefresh { s with reads := rest }
  have hfetch : ((tagsRefresh { s with reads := rest }).hst i).fetch = some f := (congrArg HostBlk.fetch (hstep.hst i)).trans hf
  have hbytes : hstBytesOf (tagsRefresh { s with reads := rest }) i = hstBytesOf s i :=
    hstBytesOf_of_onlyIn (B := (· = R.HST.TAGS.reg)) (((OnlyIn.refl s).upd rfl).trans (.of_touches hstep.touch (by
      simp [R.HST.TAGS.INFLIGHT, R.HST.TAGS.PEAK, R.HST.TAGS.reg]))) fun k hk => by
        unfold RingKey
        simp only [R.HST.B_CFG.reg, R.HST.B_RING_LO.reg, R.HST.B_RING_HI.reg, R.HST.B_RING.reg, R.HST.B_WB_LO.reg,
          R.HST.B_WB_HI.reg, R.CLK.MCS_CFG.reg, R.HST.TAGS.reg, itemKey] at hk ⊢
        omega
  have hdata : (data ++ List.replicate r.len 0).take r.len = data := by rw [← hlen]; exact List.take_left
  unfold htEnd
  rw [takeRead_at hr hblk]
  dsimp only
  rw [hlive, if_neg (by decide), hfetch]
  dsimp only
  rw [if_neg (by decide), hdata, hbytes, if_neg (fun h => hoff h.1)]
  rfl

/-- The registers that the end of a read of block `i` changes. -/
def ReadKey (i k : Nat) : Prop := GalKey k ∨ LateKey k ∨ k = R.HST.TAGS.reg ∨ k = R.HST.B_STAT.reg i ∨ k = R.HST.B_IDX.reg i ∨
  k = R.HST.B_RETRY.reg i ∨ k = R.HST.B_SAT.reg i

theorem readKey_not_ring (i : Nat) : ∀ k, ReadKey i k → ¬ RingKey i k := by
  intro k hk
  unfold ReadKey GalKey LateKey at hk
  unfold RingKey
  simp only [R.HST.B_CFG.reg, R.HST.B_RING_LO.reg, R.HST.B_RING_HI.reg, R.HST.B_RING.reg, R.HST.B_WB_LO.reg,
    R.HST.B_WB_HI.reg, R.CLK.MCS_CFG.reg, R.HST.TAGS.reg, R.HST.B_STAT.reg, R.HST.B_IDX.reg, R.HST.B_RETRY.reg, R.HST.B_SAT.reg,
    itemKey] at hk ⊢
  omega

theorem readKey_tags (i : Nat) : ∀ f ∈ [R.HST.TAGS.INFLIGHT, R.HST.TAGS.PEAK], ReadKey i f.key := by
  intro f hf
  simp only [List.mem_cons, List.not_mem_nil, or_false] at hf
  rcases hf with rfl | rfl <;> exact .inr (.inr (.inl rfl))

theorem hstState_other {t : State} {j : Nat} (h : OnlyIn (ReadKey i) s t) (hj : j ≠ i) : hstState t j = hstState s j :=
  h.fld (f := R.HST.B_STAT.STATE j) (by
    simp only [ReadKey, GalKey, LateKey, R.HST.B_STAT.STATE, R.HST.TAGS.reg, R.HST.B_STAT.reg, R.HST.B_IDX.reg, R.HST.B_RETRY.reg,
      R.HST.B_SAT.reg, itemKey]
    omega)

/-- Where no block but one transmits, all going on leaves a state in which that one has nothing to start. -/
theorem htPump_only {b : Nat} {t : State} (h : OnlyIn (ReadKey (256 + b)) s t) (honly : ∀ j, j < 64 → hstState s (256 + j) ≠ hstOff → j = b)
    (hidle : HtIdle t (256 + b)) : TagStep t (htPump t) := by
  refine htPump_idle fun j hj => ?_
  by_cases hjb : j = b
  · exact .inr (hjb ▸ hidle)
  · refine .inl ((hstState_other h (by omega)).trans ?_)
    by_contra hon
    exact hjb (honly j hj hon)

theorem htRead_part_goes {b : Nat} {r : HostRead} {rest : List HostRead} {f : HtFetch} {data : List Byte} (hb : b < 64) (hr : s.reads = r :: rest)
    (hblk : r.blk = 256 + b) (hlive : r.live = true) (hf : (s.hst (256 + b)).fetch = some f) (htodo : f.todo = []) (hleft : 2 ≤ f.left)
    (hoff : r.off ≠ 0) (honly : ∀ j, j < 64 → hstState s (256 + j) ≠ hstOff → j = b) (hlen : data.length = r.len) :
    Goes (.htReadCompletion b r.off data true) s fun t => t.reads = rest ∧ t.gal = s.gal ∧
      (t.hst (256 + b)).fetch = some { f with
        buf := overlay (f.buf ++ List.replicate (hstBytesOf s (256 + b) - f.buf.length) 0) r.off data, left := f.left - 1 } ∧
      Touches [R.HST.TAGS.INFLIGHT, R.HST.TAGS.PEAK] s t := by
  have hexec : exec (.htReadCompletion b r.off data true) s = .next (htEnd s (256 + b) r.off data true) := by
    show ok (htEnd s (256 + b % 64) r.off data true) = _
    rw [Nat.mod_eq_of_lt hb]
  refine ⟨_, hexec, ?_⟩
  rw [htEnd_good hr hblk hlive hf hoff hlen, if_neg (by omega)]
  have hstep := tagStep_tagsRefresh { s with reads := rest }
  obtain ⟨-, hreads, hgal, -⟩ := tagsRefresh_leaves { s with reads := rest }
  generalize tagsRefresh { s with reads := rest } = u at hstep hreads hgal
  obtain ⟨hfetch, hrf, hframe⟩ := readTaken_leaves u (256 + b) { f with buf := slotFilled s (256 + b) f r data, left := f.left - 1 } r.len
  generalize readTaken u (256 + b) { f with buf := slotFilled s (256 + b) f r data, left := f.left - 1 } r.len = v at hfetch hrf hframe
  have htouch : Touches [R.HST.TAGS.INFLIGHT, R.HST.TAGS.PEAK] s v :=
    touches_rf hrf ((Touches.of_rf _ (rfl : State.rf { s with reads := rest } = s.rf)).trans hstep.touch)
  have hpump := htPump_only (s := s) (t := v) (b := b) (.of_touches htouch (readKey_tags _)) honly
    ⟨fun g hg => by rw [hfetch] at hg; cases hg; exact htodo, fun h => by rw [hfetch] at h; cases h⟩
  refine ⟨?_, ?_, (congrArg HostBlk.fetch (hpump.hst _)).trans hfetch, htouch.trans hpump.touch⟩
  · rw [hpump.frame, hframe]; exact hreads
  · rw [hpump.frame, hframe]; exact hgal

/-! ### A failed read (R365) -/

/-- The slot of a failed read is to be read again, before that may lead to FAULT. -/
def htRetried (s : State) (i : Nat) : State :=
  let x := s.hst i
  let s := galRewind s (hstQueue i)
  let s := staleReads s i
  hstCount (s.setHst i { x with fails := x.fails + 1, fetch := none }) i 0 [R.HST.B_STAT.RETRY_EV i]

theorem htFailed_eq (s : State) (i : Nat) : htFailed s i = if (htRetried s i).fld R.HST.CFG.RETRY ≤ (s.hst i).fails + 1 then
    (hstGo (htRetried s i) i hstFault).setFld (R.HST.B_STAT.FAULT_EV i) 1 else htStart (htRetried s i) i := rfl

theorem htRetried_leaves (s : State) (i : Nat) : OnlyIn (ReadKey i) s (htRetried s i) ∧
    (htRetried s i).fld (R.HST.B_STAT.RETRY_EV i) = 1 ∧ ((htRetried s i).hst i).fetch = none ∧
    ((htRetried s i).gq (hstQueue i)).opened = none ∧ hstDev (htRetried s i) i = hstDev s i := by
  obtain ⟨hframe, hopen⟩ := galRewind_leaves s (hstQueue i)
  have honly := (onlyIn_galRewind s (hstQueue i)).mono (B' := ReadKey i) fun k hk => .inl hk
  have hdev : hstDev (galRewind s (hstQueue i)) i = hstDev s i := (onlyIn_galRewind s (hstQueue i)).fld (f := R.HST.B_IDX.DEV_IDX i) (by
    simp only [GalKey, R.HST.B_IDX.DEV_IDX, itemKey]
    omega)
  unfold htRetried
  dsimp only
  generalize galRewind s (hstQueue i) = u at hframe hopen honly hdev
  have hself := hst_setHst_self (staleReads u i) i { s.hst i with fails := (s.hst i).fails + 1, fetch := none }
  have hgq : ((staleReads u i).setHst i { s.hst i with fails := (s.hst i).fails + 1, fetch := none }).gq (hstQueue i) = u.gq (hstQueue i) :=
    gq_of_qs rfl _
  have hrf : ((staleReads u i).setHst i { s.hst i with fails := (s.hst i).fails + 1, fetch := none }).rf = u.rf := rfl
  generalize (staleReads u i).setHst i { s.hst i with fails := (s.hst i).fails + 1, fetch := none } = v at hself hgq hrf
  obtain ⟨hev, -, htouch⟩ := hstCount_retry v i
  have hcount := hstCount_frame v i 0 [R.HST.B_STAT.RETRY_EV i]
  generalize hstCount v i 0 [R.HST.B_STAT.RETRY_EV i] = w at hev htouch hcount
  have hw : OnlyIn (ReadKey i) v w := .of_touches htouch fun f hf => by
    simp only [List.mem_cons, List.not_mem_nil, or_false] at hf
    rcases hf with rfl | rfl | rfl
    · exact .inr (.inr (.inr (.inl rfl)))
    · exact .inr (.inr (.inr (.inr (.inr (.inl rfl)))))
    · exact .inr (.inr (.inr (.inr (.inr (.inr rfl)))))
  have hidx : hstDev w i = hstDev v i := htouch.fld fun f hf => by
    simp only [List.mem_cons, List.not_mem_nil, or_false] at hf
    rcases hf with rfl | rfl | rfl
    · exact Fld.apart_of_key_ne (itemKey_ne (a := 0x1111c) (b := 0x11118) i i (by decide))
    · exact Fld.apart_of_key_ne (itemKey_ne (a := 0x1111c) (b := 0x11120) i i (by decide))
    · exact Fld.apart_of_key_ne (itemKey_ne (a := 0x1111c) (b := 0x11138) i i (by decide))
  refine ⟨(honly.upd hrf).trans hw, hev, ?_, ?_, hidx.trans ((State.fld_of_rf_eq hrf _).trans hdev)⟩
  · exact (congrArg (fun x => (x.hst i).fetch) hcount).trans (congrArg HostBlk.fetch hself)
  · exact (congrArg (fun x => (x.gq (hstQueue i)).opened) hcount).trans ((congrArg GQueue.opened hgq).trans hopen)

theorem htEnd_failed {r : HostRead} {rest : List HostRead} {f : HtFetch} (data : List Byte) (hr : s.reads = r :: rest) (hblk : r.blk = i)
    (hlive : r.live = true) (hf : (s.hst i).fetch = some f) :
    htEnd s i r.off data false = htPump (htFailed (tagsRefresh { s with reads := rest }) i) := by
  have hfetch : ((tagsRefresh { s with reads := rest }).hst i).fetch = some f :=
    (congrArg HostBlk.fetch ((tagStep_tagsRefresh { s with reads := rest }).hst i)).trans hf
  unfold htEnd
  rw [takeRead_at hr hblk]
  dsimp only
  rw [hlive, if_neg (by decide), hfetch]
  dsimp only
  rw [if_pos (by decide)]

theorem htRead_failed_goes {b : Nat} {c : Instr} {r : HostRead} {rest : List HostRead} {f : HtFetch} {data : List Byte} (hb : b < 64)
    (hc : c = .htReadCompletion b r.off data false ∨ c = .cplTimeout (256 + b) r.off) (hr : s.reads = r :: rest)
    (hblk : r.blk = 256 + b) (hlive : r.live = true) (hf : (s.hst (256 + b)).fetch = some f)
    (hmax : s.fld R.HST.CFG.RETRY ≤ (s.hst (256 + b)).fails + 1) (honly : ∀ j, j < 64 → hstState s (256 + j) ≠ hstOff → j = b) :
    Goes c s fun t => hstState t (256 + b) = hstFault ∧ t.fld (R.HST.B_STAT.FAULT_EV (256 + b)) = 1 ∧
      t.fld (R.HST.B_STAT.RETRY_EV (256 + b)) = 1 ∧ (t.hst (256 + b)).fetch = none ∧
      (t.gq (832 + b)).opened = none ∧ hstDev t (256 + b) = hstDev s (256 + b) := by
  have hq : hstQueue (256 + b) = 832 + b := by
    rw [hstQueue, if_pos (by omega), Nat.add_sub_cancel_left]
  have hexec : ∃ d, exec c s = .next (htEnd s (256 + b) r.off d false) := by
    rcases hc with rfl | rfl
    · refine ⟨data, ?_⟩
      show ok (htEnd s (256 + b % 64) r.off data false) = _
      rw [Nat.mod_eq_of_lt hb]
    · refine ⟨[], ?_⟩
      show execCplTimeout (256 + b) r.off s = _
      rw [execCplTimeout, show hstIsTx (256 + b) = true from decide_eq_true (by omega), if_pos rfl]
  obtain ⟨d, hexec⟩ := hexec
  refine ⟨_, hexec, ?_⟩
  rw [htEnd_failed d hr hblk hlive hf, ← hq]
  have hstep := tagStep_tagsRefresh { s with reads := rest }
  have htag : OnlyIn (ReadKey (256 + b)) s (tagsRefresh { s with reads := rest }) :=
    ((OnlyIn.refl s).upd rfl).trans (.of_touches hstep.touch (readKey_tags _))
  have hfails : ((tagsRefresh { s with reads := rest }).hst (256 + b)).fails = (s.hst (256 + b)).fails := congrArg HostBlk.fails (hstep.hst _)
  have hdev0 : hstDev (tagsRefresh { s with reads := rest }) (256 + b) = hstDev s (256 + b) :=
    hstep.fld (itemKey_ne_of_mod (a := 0x1111c) (c := 0x11008) _ (by decide))
  generalize tagsRefresh { s with reads := rest } = u at htag hfails hdev0
  obtain ⟨hkeys, hretry, hfetch, hopen, hdev⟩ := htRetried_leaves u (256 + b)
  rw [htFailed_eq, hfails, if_pos (by
    rw [(htag.trans hkeys).fld (f := R.HST.CFG.RETRY) (by
      simp only [ReadKey, GalKey, LateKey, R.HST.CFG.RETRY, R.HST.TAGS.reg, R.HST.B_STAT.reg, R.HST.B_IDX.reg, R.HST.B_RETRY.reg,
        R.HST.B_SAT.reg, itemKey]
      omega)]
    exact hmax)]
  generalize htRetried u (256 + b) = v at hkeys hretry hfetch hopen hdev
  generalize hstQueue (256 + b) = q at hopen ⊢
  have hgo := hstGo_frame v (256 + b) hstFault
  have hst := hstState_hstGo v (256 + b) (st := hstFault) (by decide)
  have hgt : Touches [R.HST.B_STAT.STATE (256 + b), R.HST.B_STAT.STATE_EV (256 + b)] v (hstGo v (256 + b) hstFault) :=
    touches_hstGo (.refl _ _) _ (by simp) (by simp)
  generalize hstGo v (256 + b) hstFault = w at hgo hst hgt
  have hset : RfFrame w (w.setFld (R.HST.B_STAT.FAULT_EV (256 + b)) 1) := (RfFrame.refl w).setFld _ _
  have hev : (w.setFld (R.HST.B_STAT.FAULT_EV (256 + b)) 1).fld (R.HST.B_STAT.FAULT_EV (256 + b)) = 1 := State.fld_setFld_mod w _ 1 rfl
  have hfault : hstState (w.setFld (R.HST.B_STAT.FAULT_EV (256 + b)) 1) (256 + b) = hstFault := (State.fld_setFld_below w 1 rfl).trans hst
  have hstay : Touches [R.HST.B_STAT.STATE (256 + b), R.HST.B_STAT.STATE_EV (256 + b), R.HST.B_STAT.FAULT_EV (256 + b)] v
    (w.setFld (R.HST.B_STAT.FAULT_EV (256 + b)) 1) := touches_setFld (by simp) (hgt.mono (by simp))
  have hframe := hgo.trans hset
  generalize w.setFld (R.HST.B_STAT.FAULT_EV (256 + b)) 1 = x at hev hfault hstay hframe
  have hx : OnlyIn (ReadKey (256 + b)) v x := .of_touches hstay fun f hf => by
    simp only [List.mem_cons, List.not_mem_nil, or_false] at hf
    rcases hf with rfl | rfl | rfl <;> exact .inr (.inr (.inr (.inl rfl)))
  have hxfetch : (x.hst (256 + b)).fetch = none := (congrArg (fun y => (y.hst (256 + b)).fetch) hframe).trans hfetch
  have hpump := htPump_only (s := s) (t := x) (b := b) ((htag.trans hkeys).trans hx) honly
    ⟨fun g hg => (by rw [hxfetch] at hg; cases hg), fun _ => .inl (by rw [hfault]; decide)⟩
  have hkey : ∀ a lo w', a % 0x1000000 ≠ 0x11008 % 0x1000000 → (htPump x).fld ⟨itemKey a (256 + b), lo, w'⟩ = x.fld ⟨itemKey a (256 + b), lo, w'⟩ :=
    fun a lo w' ha => hpump.fld (itemKey_ne_of_mod (256 + b) ha)
  refine ⟨(hkey 0x11118 28 4 (by decide)).trans hfault, (hkey 0x11118 6 1 (by decide)).trans hev,
    (hkey 0x11118 5 1 (by decide)).trans ((hstay.fld ?_).trans hretry), (congrArg HostBlk.fetch (hpump.hst _)).trans hxfetch,
    (congrArg (fun y => (y.gq q).opened) hpump.frame).trans ((congrArg (fun y => (y.gq q).opened) hframe).trans hopen),
    (hkey 0x1111c 0 16 (by decide)).trans ((hstay.fld ?_).trans (hdev.trans hdev0))⟩
  · simp [Fld.apart, R.HST.B_STAT.STATE, R.HST.B_STAT.STATE_EV, R.HST.B_STAT.FAULT_EV]
  · intro f hf
    simp only [List.mem_cons, List.not_mem_nil, or_false] at hf
    rcases hf with rfl | rfl | rfl <;> exact Fld.apart_of_key_ne (itemKey_ne (a := 0x1111c) (b := 0x11118) _ _ (by decide))

end

end Sys2Proof.Machine
end

section
/-! A transmit block's slot committed and consumed (R356, R363, R364). -/

namespace Sys2Proof.Machine

section
variable {s : State} {i : Nat}

/-! ### The commit of a slot -/

/-- The items of a queue that are not live take their index. -/
def stampOpen (s : State) (q k : Nat) : State := s.setGq q { s.gq q with
  elems := (s.gq q).elems.map fun e =>
    match e with
    | .item it => if it.live then e else .item { it with ts := k }
    | .slug _ => e }

/-- A committed slot's samples are pushed and the slot is consumed. -/
def slotPlayed (s : State) (i m k n next : Nat) (b : List Byte) : State :=
  let q := hstQueue i
  let mult := mcsMult s m
  let ch := s.fld (R.HST.B_CFG.CHANNELS i)
  let base := 0xA00 + s.fld (R.HST.B_CFG.BASE i)
  let t := s.flag (R.HST.B_CFG.TRANSP i)
  let s := pushBlock base mult next k n ch t (fun j c => BitVec.ofNat 32 (u32 b (16 + 4 * (j * ch + c)))) s
  let s := if k + n ≤ next then hstCount s i 1 [R.HST.B_STAT.LATE_EV i] else s
  hstSlot (htConsume (expireQueue q n next 64 s) i) i

/-- The state in which a slot's item is live. -/
def slotLive (s : State) (i k : Nat) (b : List Byte) : State :=
  galCommit (stampOpen (galWords s (hstQueue i) ((b.length + 7) / 8) b) (hstQueue i) k) (hstQueue i)

theorem slotLive_leaves {it : GItem} {k : Nat} {b : List Byte} (hne : b ≠ []) (ho : (s.gq (hstQueue i)).opened = some it) (hb : it.bytes = [])
    (hlive : it.live = false) (hs : (s.gq (hstQueue i)).swallow = false) (hfit : cellsFor b.length ≤ it.cells.length)
    (he : (s.gq (hstQueue i)).elems = []) :
    (((galWords s (hstQueue i) ((b.length + 7) / 8) b).gq (hstQueue i)).elems.any fun e => !e.live) = true ∧
    ((slotLive s i k b).gq (hstQueue i)).elems = [.item { it with ts := k, bytes := b, live := true }] ∧
    GalFrame s (slotLive s i k b) ∧ OnlyIn GalKey s (slotLive s i k b) := by
  obtain ⟨hgq, -, hframe, htouch, -⟩ := galWords_held ((b.length + 7) / 8) rfl hne ho hs (by rw [hb, List.length_nil, Nat.zero_add]; exact hfit)
  unfold slotLive
  generalize hstQueue i = q at *
  generalize galWords s q ((b.length + 7) / 8) b = u at hgq hframe htouch
  have helems : (u.gq q).elems = [.item { it with bytes := b }] := by
    rw [hgq, GQueue.joined, he, hb]
    rfl
  have hstamp : stampOpen u q k = u.setGq q { u.gq q with elems := [.item { it with ts := k, bytes := b }] } := by
    rw [stampOpen, helems, List.map_cons, List.map_nil]
    dsimp only
    rw [hlive, if_neg Bool.false_ne_true]
  have hset := gq_setGq_self u q { u.gq q with elems := [.item { it with ts := k, bytes := b }] }
  have honly : OnlyIn GalKey s (u.setGq q { u.gq q with elems := [.item { it with ts := k, bytes := b }] }) :=
    (OnlyIn.of_touches htouch (by simp [GalKey, R.GAL.INJECT.ARM])).upd rfl
  have hf := hframe.setGq q { u.gq q with elems := [.item { it with ts := k, bytes := b }] }
  rw [hstamp]
  generalize u.setGq q { u.gq q with elems := [.item { it with ts := k, bytes := b }] } = v at hset honly hf
  rw [galCommit_joined (s := v) (q := q) (pre := []) (it := { it with ts := k, bytes := b }) (by rw [hset]; rfl) hlive rfl]
  refine ⟨by rw [helems]; simp [GElem.live, hlive], ?_, galFrame_galRefresh (hf.setGq _ _), ?_⟩
  · rw [gq_galRefresh, gq_setGq_self]
    rfl
  · exact honly.trans (.of_touches (touches_galRefresh (l := [R.GAL.EVT.LOW]) (touches_setGq (.refl _ v) _ _) (by simp))
      (by simp [GalKey, R.GAL.EVT.LOW]))

theorem htCommit_eq (s : State) (i : Nat) (b : List Byte) : htCommit s i b =
    let m := s.fld (R.HST.B_CFG.MCS i)
    let n := max 1 (hstN s i)
    let k := nearestClass (u32 b 8) (mcsCount s m)
    let next := tableNext s m
    if !(((galWords s (hstQueue i) ((b.length + 7) / 8) b).gq (hstQueue i)).elems.any fun e => !e.live) then
      hstCount (hstSlot (htConsume (slotLive s i k b) i) i) i 5 []
    else slotPlayed (slotLive s i k b) i m k n next b := rfl

theorem slotPlayed_ahead {m k n next : Nat} {b : List Byte} {it : GItem} (he : (s.gq (hstQueue i)).elems = [.item it]) (hts : it.ts = k)
    (hnext : next < k + n) : slotPlayed s i m k n next b = hstSlot (htConsume (pushBlock (0xA00 + s.fld (R.HST.B_CFG.BASE i)) (mcsMult s m)
      next k n (s.fld (R.HST.B_CFG.CHANNELS i)) (s.flag (R.HST.B_CFG.TRANSP i))
      (fun j c => BitVec.ofNat 32 (u32 b (16 + 4 * (j * s.fld (R.HST.B_CFG.CHANNELS i) + c)))) s) i) i := by
  have hpush := pushStep_pushBlock (0xA00 + s.fld (R.HST.B_CFG.BASE i)) (mcsMult s m)
      next k n (s.fld (R.HST.B_CFG.CHANNELS i)) (s.flag (R.HST.B_CFG.TRANSP i))
      (fun j c => BitVec.ofNat 32 (u32 b (16 + 4 * (j * s.fld (R.HST.B_CFG.CHANNELS i) + c)))) s
  unfold slotPlayed
  dsimp only
  generalize pushBlock (0xA00 + s.fld (R.HST.B_CFG.BASE i)) (mcsMult s m)
      next k n (s.fld (R.HST.B_CFG.CHANNELS i)) (s.flag (R.HST.B_CFG.TRANSP i))
      (fun j c => BitVec.ofNat 32 (u32 b (16 + 4 * (j * s.fld (R.HST.B_CFG.CHANNELS i) + c)))) s = u at hpush ⊢
  have hgq : (u.gq (hstQueue i)).elems = [.item it] := (congrArg (fun v => (v.gq (hstQueue i)).elems) hpush.frame).trans he
  rw [if_neg (by omega), expireQueue_ahead 64 hgq (by omega)]

/-! ### A slot consumed (R356, R363) -/

/-- A slot is consumed, before the next is read. -/
def slotConsumed (s : State) (i : Nat) : State :=
  let new := (hstDev s i + 1) % 65536
  let s := staleReads s i
  let s := (s.setHst i { s.hst i with fetch := none, fails := 0 }).setFld (R.HST.B_IDX.DEV_IDX i) new
  let s := hstMoved (s.emit (.hostWrite (hstWbAddr s i) (leBytes 4 new) false)) 0 4
  if s.flag (R.HST.B_CFG.NOTIFY i) then s.setFld (R.HST.B_STAT.DATA_EV i) 1 else s

theorem htConsume_eq (s : State) (i : Nat) : htConsume s i = htStart (slotConsumed s i) i := rfl

theorem notified_leaves (s : State) (i : Nat) :
    RfFrame s (if s.flag (R.HST.B_CFG.NOTIFY i) then s.setFld (R.HST.B_STAT.DATA_EV i) 1 else s) ∧
    OnlyIn (· = R.HST.B_STAT.reg i) s (if s.flag (R.HST.B_CFG.NOTIFY i) then s.setFld (R.HST.B_STAT.DATA_EV i) 1 else s) := by
  split
  · exact ⟨(RfFrame.refl s).setFld _ _, (OnlyIn.refl s).setFld _ rfl⟩
  · exact ⟨.refl s, .refl s⟩

theorem slotConsumed_leaves (s : State) (i : Nat) : OnlyIn (ReadKey i) s (slotConsumed s i) ∧ ((slotConsumed s i).hst i).fetch = none ∧
    hstDev (slotConsumed s i) i = (hstDev s i + 1) % 65536 ∧ hstHost (slotConsumed s i) i = hstHost s i ∧
    (slotConsumed s i).out = .hostWrite (hstWbAddr s i) (leBytes 4 ((hstDev s i + 1) % 65536)) false :: s.out ∧
    (slotConsumed s i).sorts = s.sorts := by
  have hself := hst_setHst_self (staleReads s i) i { (staleReads s i).hst i with fetch := none, fails := 0 }
  have hrf : ((staleReads s i).setHst i { (staleReads s i).hst i with fetch := none, fails := 0 }).rf = s.rf := rfl
  have hout : ((staleReads s i).setHst i { (staleReads s i).hst i with fetch := none, fails := 0 }).out = s.out := rfl
  have hsorts : ((staleReads s i).setHst i { (staleReads s i).hst i with fetch := none, fails := 0 }).sorts = s.sorts := rfl
  unfold slotConsumed
  dsimp only
  generalize (staleReads s i).setHst i { (staleReads s i).hst i with fetch := none, fails := 0 } = u at hself hrf hout hsorts
  have hset : RfFrame u (u.setFld (R.HST.B_IDX.DEV_IDX i) ((hstDev s i + 1) % 65536)) := (RfFrame.refl u).setFld _ _
  have hkey : OnlyIn (· = R.HST.B_IDX.reg i) s (u.setFld (R.HST.B_IDX.DEV_IDX i) ((hstDev s i + 1) % 65536)) :=
    ((OnlyIn.refl s).upd hrf).setFld _ rfl
  have hdev : hstDev (u.setFld (R.HST.B_IDX.DEV_IDX i) ((hstDev s i + 1) % 65536)) i = (hstDev s i + 1) % 65536 :=
    State.fld_setFld_lt u _ (Nat.le_of_ble_eq_true rfl) (Nat.mod_lt _ (by decide))
  have hhost : hstHost (u.setFld (R.HST.B_IDX.DEV_IDX i) ((hstDev s i + 1) % 65536)) i = hstHost s i :=
    (State.fld_setFld_below u _ rfl).trans (State.fld_of_rf_eq hrf _)
  generalize u.setFld (R.HST.B_IDX.DEV_IDX i) ((hstDev s i + 1) % 65536) = v at hset hkey hdev hhost
  rw [hstWbAddr_of_onlyIn hkey (idx_not_ring i)]
  generalize hstWbAddr s i = addr
  generalize leBytes 4 ((hstDev s i + 1) % 65536) = bytes
  have hmoved : hstMoved (v.emit (.hostWrite addr bytes false)) 0 4 =
    { v with out := .hostWrite addr bytes false :: v.out, hstBytes := modifyAt v.hstBytes 0 fun c => c + 4 } := rfl
  have hmrf : (hstMoved (v.emit (.hostWrite addr bytes false)) 0 4).rf = v.rf := rfl
  have hmout : (hstMoved (v.emit (.hostWrite addr bytes false)) 0 4).out = .hostWrite addr bytes false :: v.out := rfl
  have hmsorts : (hstMoved (v.emit (.hostWrite addr bytes false)) 0 4).sorts = v.sorts := rfl
  have hmhst : (hstMoved (v.emit (.hostWrite addr bytes false)) 0 4).hst i = v.hst i := by
    rw [State.hst, hmoved, State.hst]
  generalize hstMoved (v.emit (.hostWrite addr bytes false)) 0 4 = w at hmrf hmout hmsorts hmhst
  obtain ⟨hnf, hnk⟩ := notified_leaves w i
  generalize (if w.flag (R.HST.B_CFG.NOTIFY i) then w.setFld (R.HST.B_STAT.DATA_EV i) 1 else w) = x at hnf hnk
  have hidx : ∀ lo n, x.fld ⟨itemKey 0x1111c i, lo, n⟩ = v.fld ⟨itemKey 0x1111c i, lo, n⟩ := fun lo n =>
    (hnk.fld (itemKey_ne (a := 0x1111c) (b := 0x11118) i i (by decide))).trans (State.fld_of_rf_eq hmrf _)
  refine ⟨((hkey.upd hmrf).mono fun k hk => .inr (.inr (.inr (.inr (.inl hk))))).trans (hnk.mono fun k hk => .inr (.inr (.inr (.inl hk)))),
    ?_, (hidx 0 16).trans hdev, (hidx 16 16).trans hhost, ?_, ?_⟩
  · rw [show x.hst i = w.hst i from congrArg (fun y => y.hst i) hnf, hmhst, show v.hst i = u.hst i from congrArg (fun y => y.hst i) hset, hself]
  · rw [hnf]
    show w.out = _
    rw [hmout, hset]
    exact congrArg _ hout
  · rw [hnf]
    show w.sorts = _
    rw [hmsorts, hset]
    exact hsorts

/-- A slot is consumed where no further slot is filled. -/
theorem htConsume_last (s : State) (h : hstHost s i = (hstDev s i + 1) % 65536) : OnlyIn (ReadKey i) s (htConsume s i) ∧
    HtIdle (htConsume s i) i ∧ ((htConsume s i).hst i).fetch = none ∧
    hstDev (htConsume s i) i = (hstDev s i + 1) % 65536 ∧
    (htConsume s i).out = .hostWrite (hstWbAddr s i) (leBytes 4 ((hstDev s i + 1) % 65536)) false :: s.out ∧
    (htConsume s i).sorts = s.sorts := by
  obtain ⟨hkeys, hfetch, hdev, hhost, hout, hsorts⟩ := slotConsumed_leaves s i
  have hidle : HtIdle (slotConsumed s i) i :=
    ⟨fun f hf => (by rw [hfetch] at hf; cases hf), fun _ => .inr (by rw [hhost, hdev, h])⟩
  rw [htConsume_eq, htStart_idle hidle]
  generalize slotConsumed s i = u at hkeys hfetch hdev hhost hout hsorts hidle
  have hstep := tagStep_tagsRefresh u
  exact ⟨hkeys.trans (.of_touches hstep.touch (readKey_tags i)), hidle.of_step hstep, (congrArg HostBlk.fetch (hstep.hst i)).trans hfetch,
    (hstep.fld (itemKey_ne_of_mod (a := 0x1111c) (c := 0x11008) i (by decide))).trans hdev,
    (congrArg (fun y => y.out) hstep.frame).trans hout, (congrArg (fun y => y.sorts) hstep.frame).trans hsorts⟩

/-! ### The last read of a slot (R363, R364) -/

theorem hstSlot_frame (s : State) (i : Nat) : hstSlot s i = { s with hstSlots := (hstSlot s i).hstSlots } := rfl

theorem htCommit_last {it : GItem} {b : List Byte} {k n ch : Nat} (hne : b ≠ []) (ho : (s.gq (hstQueue i)).opened = some it)
    (hbytes : it.bytes = []) (hitem : it.live = false) (hswallow : (s.gq (hstQueue i)).swallow = false)
    (hcells : it.cells.length = cellsFor b.length) (helems : (s.gq (hstQueue i)).elems = [])
    (hlast : hstHost s i = (hstDev s i + 1) % 65536) (hn : n = max 1 (hstN s i)) (hch : ch = s.fld (R.HST.B_CFG.CHANNELS i))
    (hk : k = nearestClass (u32 b 8) (mcsCount s (s.fld (R.HST.B_CFG.MCS i)))) (hdue : tableNext s (s.fld (R.HST.B_CFG.MCS i)) < k + n) :
    OnlyIn (ReadKey i) s (htCommit s i b) ∧ HtIdle (htCommit s i b) i ∧ ((htCommit s i b).hst i).fetch = none ∧
    hstDev (htCommit s i b) i = (hstDev s i + 1) % 65536 ∧
    (htCommit s i b).out = .hostWrite (hstWbAddr s i) (leBytes 4 ((hstDev s i + 1) % 65536)) false :: s.out ∧
    ∀ j c, j < n → c < ch → tableNext s (s.fld (R.HST.B_CFG.MCS i)) ≤ k + j →
      findSort (htCommit s i b) (0xA00 + s.fld (R.HST.B_CFG.BASE i) + c * mcsMult s (s.fld (R.HST.B_CFG.MCS i))) (k + j) =
        some (BitVec.ofNat 32 (u32 b (16 + 4 * (j * ch + c))), s.flag (R.HST.B_CFG.TRANSP i)) := by
  obtain ⟨hput, hitems, hframe, honly⟩ := slotLive_leaves (k := k) hne ho hbytes hitem hswallow (Nat.le_of_eq hcells.symm) helems
  have hcommit : htCommit s i b = slotPlayed (slotLive s i k b) i (s.fld (R.HST.B_CFG.MCS i)) k n (tableNext s (s.fld (R.HST.B_CFG.MCS i))) b := by
    rw [htCommit_eq]
    dsimp only
    rw [hput, if_neg (by decide), ← hn, ← hk]
  have hitem' : ∀ x : Fld, x.key % 0x1000000 = 0x11100 ∨ x.key % 0x1000000 = 0x1111c → (slotLive s i k b).fld x = s.fld x := fun x hx =>
    honly.fld (by unfold GalKey; omega)
  have hcfg : ∀ lo w, (⟨itemKey 0x11100 i, lo, w⟩ : Fld).key % 0x1000000 = 0x11100 := fun _ _ => itemKey_mod (by decide) i
  have hchan := hitem' (R.HST.B_CFG.CHANNELS i) (.inl (hcfg 0 8))
  have hbase := hitem' (R.HST.B_CFG.BASE i) (.inl (hcfg 8 11))
  have htransp : (slotLive s i k b).flag (R.HST.B_CFG.TRANSP i) = s.flag (R.HST.B_CFG.TRANSP i) :=
    State.flag_of_fld (hitem' (R.HST.B_CFG.TRANSP i) (.inl (hcfg 24 1)))
  have hmult : mcsMult (slotLive s i k b) (s.fld (R.HST.B_CFG.MCS i)) = mcsMult s (s.fld (R.HST.B_CFG.MCS i)) := by
    have hm : s.fld (R.HST.B_CFG.MCS i) < 8 := State.fld_lt s _
    rw [mcsMult, honly.fld (f := R.CLK.MCS_CFG.RATE (s.fld (R.HST.B_CFG.MCS i))) (by simp only [GalKey, R.CLK.MCS_CFG.RATE]; omega), mcsMult]
  have hsmall : n ≤ 4096 := by
    have hle : hstN s i ≤ 768 := ptSamples_le (s.fld (R.HST.B_CFG.PTIME i)) (s.fld (R.CLK.MCS_CFG.RATE (s.fld (R.HST.B_CFG.MCS i))))
    omega
  rw [hcommit, slotPlayed_ahead (k := k) hitems rfl hdue, hchan, hbase, htransp, hmult, ← hch]
  have hout : (slotLive s i k b).out = s.out := congrArg (fun u => u.out) hframe
  generalize slotLive s i k b = w at honly hitem' hout
  generalize 0xA00 + s.fld (R.HST.B_CFG.BASE i) = base
  generalize tableNext s (s.fld (R.HST.B_CFG.MCS i)) = next
  have hmpos := mcsMult_pos s (s.fld (R.HST.B_CFG.MCS i))
  generalize mcsMult s (s.fld (R.HST.B_CFG.MCS i)) = mult at hmpos
  generalize s.flag (R.HST.B_CFG.TRANSP i) = t
  have hpush := pushStep_pushBlock base mult next k n ch t (fun j c => BitVec.ofNat 32 (u32 b (16 + 4 * (j * ch + c)))) w
  have hsort : ∀ j c, j < n → c < ch → next ≤ k + j → findSort (pushBlock base mult next k n ch t
      (fun j c => BitVec.ofNat 32 (u32 b (16 + 4 * (j * ch + c)))) w) (base + c * mult) (k + j) =
        some (BitVec.ofNat 32 (u32 b (16 + 4 * (j * ch + c))), t) := fun j c hj hc hle => findSort_pushBlock hmpos hsmall hj hc hle w
  generalize pushBlock base mult next k n ch t (fun j c => BitVec.ofNat 32 (u32 b (16 + 4 * (j * ch + c)))) w = p at hpush hsort
  have hpk : OnlyIn (ReadKey i) s p := (honly.mono fun _ h => .inl h).trans (hpush.only.mono fun _ h => .inr (.inl h))
  have hidx : ∀ lo n, p.fld ⟨itemKey 0x1111c i, lo, n⟩ = s.fld ⟨itemKey 0x1111c i, lo, n⟩ := fun lo n =>
    (hpush.only.fld (by simp only [LateKey, itemKey]; omega)).trans (hitem' _ (.inr (itemKey_mod (by decide) i)))
  have hdev : hstDev p i = hstDev s i := hidx 0 16
  have hhost : hstHost p i = hstHost s i := hidx 16 16
  obtain ⟨hkeys, hidle, hfetch, hdev', hout', hsorts⟩ := htConsume_last p (i := i) (by rw [hdev, hhost]; exact hlast)
  generalize htConsume p i = c at hkeys hidle hfetch hdev' hout' hsorts
  have hslot := hstSlot_frame c i
  generalize hstSlot c i = d at hslot
  have hrf : d.rf = c.rf := by rw [hslot]
  have hblk : d.hst i = c.hst i := by rw [State.hst, hslot, State.hst]
  have hfld : ∀ f : Fld, d.fld f = c.fld f := fun f => State.fld_of_rf_eq hrf f
  have hpout : p.out = w.out := congrArg (fun u => u.out) hpush.frame
  have hdout : d.out = c.out := by rw [hslot]
  have hdsorts : d.sorts = c.sorts := by rw [hslot]
  refine ⟨(hpk.trans hkeys).upd hrf, ⟨fun g hg => hidle.sent g (hblk ▸ hg), fun hg => ?_⟩, (congrArg HostBlk.fetch hblk).trans hfetch,
    (hfld _).trans (hdev'.trans (by rw [hdev])), ?_, fun j x hj hx hle => ?_⟩
  · rw [hstState, hstHost, hstDev, hfld, hfld, hfld]
    exact hidle.none (hblk ▸ hg)
  · rw [hdout, hout', hdev, hstWbAddr_of_onlyIn hpk (readKey_not_ring i), hpout, hout]
  · rw [findSort, hdsorts, hsorts]
    exact hsort j x hj hx hle

/-- What a slot's words become depends on registers and times that no read's end changes. -/
theorem clocksAlike_of_tags {t : State} (h : OnlyIn (· = R.HST.TAGS.reg) s t) (hp : t.ptis = s.ptis) (hm : t.mcss = s.mcss) : ClocksAlike s t :=
  .of_onlyIn h (by
    intro k hk
    unfold ClockKey
    simp only [R.CLK.MCS_CFG.reg, R.TIME.PTI_ADDEND_INT.reg, R.TIME.PTI_ADDEND_FRAC.reg, R.RXF.F_CFG.reg, R.HST.TAGS.reg, itemKey] at hk ⊢
    omega) hp hm

theorem tags_not_ring (i : Nat) : ∀ k, k = R.HST.TAGS.reg → ¬ RingKey i k := fun k hk => readKey_not_ring i k (.inr (.inr (.inl hk)))

theorem htRead_last_goes {b : Nat} {r : HostRead} {rest : List HostRead} {f : HtFetch} {data buf : List Byte} {it : GItem} {k n ch : Nat}
    (hb : b < 64) (hr : s.reads = r :: rest) (hblk : r.blk = 256 + b) (hlive : r.live = true) (hoff : r.off ≠ 0)
    (hf : (s.hst (256 + b)).fetch = some f) (htodo : f.todo = []) (hleft : f.left = 1) (hlen : data.length = r.len)
    (hbuf : buf = overlay (f.buf ++ List.replicate (hstBytesOf s (256 + b) - f.buf.length) 0) r.off data)
    (hsize : buf.length = hstBytesOf s (256 + b)) (ho : (s.gq (832 + b)).opened = some it)
    (hbytes : it.bytes = []) (hitem : it.live = false) (hswallow : (s.gq (832 + b)).swallow = false)
    (hcells : it.cells.length = cellsFor buf.length) (helems : (s.gq (832 + b)).elems = [])
    (honly : ∀ j, j < 64 → hstState s (256 + j) ≠ hstOff → j = b) (hnext : hstHost s (256 + b) = (hstDev s (256 + b) + 1) % 65536)
    (hn : n = max 1 (hstN s (256 + b))) (hch : ch = s.fld (R.HST.B_CFG.CHANNELS (256 + b)))
    (hk : k = nearestClass (u32 buf 8) (mcsCount s (s.fld (R.HST.B_CFG.MCS (256 + b)))))
    (hdue : tableNext s (s.fld (R.HST.B_CFG.MCS (256 + b))) < k + n) : Goes (.htReadCompletion b r.off data true) s fun t =>
      (t.hst (256 + b)).fetch = none ∧ hstDev t (256 + b) = (hstDev s (256 + b) + 1) % 65536 ∧
      t.out = .hostWrite (hstWbAddr s (256 + b)) (leBytes 4 ((hstDev s (256 + b) + 1) % 65536)) false :: s.out ∧
      ∀ j c, j < n → c < ch → tableNext s (s.fld (R.HST.B_CFG.MCS (256 + b))) ≤ k + j →
        findSort t (0xA00 + s.fld (R.HST.B_CFG.BASE (256 + b)) + c * mcsMult s (s.fld (R.HST.B_CFG.MCS (256 + b)))) (k + j) =
          some (BitVec.ofNat 32 (u32 buf (16 + 4 * (j * ch + c))), s.flag (R.HST.B_CFG.TRANSP (256 + b))) := by
  have hq : hstQueue (256 + b) = 832 + b := by
    rw [hstQueue, if_pos (by omega), Nat.add_sub_cancel_left]
  have hexec : exec (.htReadCompletion b r.off data true) s = .next (htEnd s (256 + b) r.off data true) := by
    show ok (htEnd s (256 + b % 64) r.off data true) = _
    rw [Nat.mod_eq_of_lt hb]
  have hne : buf ≠ [] := fun h => by
    rw [h, hstBytesOf, List.length_nil] at hsize
    omega
  refine ⟨_, hexec, ?_⟩
  rw [htEnd_good hr hblk hlive hf hoff hlen, if_pos ⟨by omega, htodo⟩, show slotFilled s (256 + b) f r data = buf from hbuf.symm]
  rw [← hq] at ho hswallow helems
  generalize hib : 256 + b = i at *
  have hstep := tagStep_tagsRefresh { s with reads := rest }
  generalize tagsRefresh { s with reads := rest } = u at hstep
  obtain ⟨-, hrf, hframe⟩ := readTaken_leaves u i { f with buf := buf, left := f.left - 1 } r.len
  generalize readTaken u i { f with buf := buf, left := f.left - 1 } r.len = v at hrf hframe
  have hkeys : OnlyIn (· = R.HST.TAGS.reg) s v := (((OnlyIn.refl s).upd rfl).trans (.of_touches hstep.touch (by
    simp [R.HST.TAGS.INFLIGHT, R.HST.TAGS.PEAK, R.HST.TAGS.reg]))).upd hrf
  have hall : v = { s with rf := v.rf, hsts := v.hsts, reads := rest, hstBytes := v.hstBytes } := by
    rw [hframe, hstep.frame]
  have hgq : ∀ q, v.gq q = s.gq q := fun q => by rw [State.gq, hall, State.gq]
  have hclk := clocksAlike_of_tags hkeys (by rw [hall]) (by rw [hall])
  have hout : v.out = s.out := by rw [hall]
  have hfld : ∀ a lo n, a % 0x1000000 ≠ 0x11008 % 0x1000000 → v.fld ⟨itemKey a i, lo, n⟩ = s.fld ⟨itemKey a i, lo, n⟩ := fun a lo n ha =>
    hkeys.fld (itemKey_ne_of_mod (c := 0x11008) i ha)
  have hmcs : v.fld (R.HST.B_CFG.MCS i) = s.fld (R.HST.B_CFG.MCS i) := hfld 0x11100 28 3 (by decide)
  have hbase : v.fld (R.HST.B_CFG.BASE i) = s.fld (R.HST.B_CFG.BASE i) := hfld 0x11100 8 11 (by decide)
  have hchan : v.fld (R.HST.B_CFG.CHANNELS i) = s.fld (R.HST.B_CFG.CHANNELS i) := hfld 0x11100 0 8 (by decide)
  have htransp : v.flag (R.HST.B_CFG.TRANSP i) = s.flag (R.HST.B_CFG.TRANSP i) := State.flag_of_fld (hfld 0x11100 24 1 (by decide))
  have hdev : hstDev v i = hstDev s i := hfld 0x1111c 0 16 (by decide)
  have hhost : hstHost v i = hstHost s i := hfld 0x1111c 16 16 (by decide)
  have hm : s.fld (R.HST.B_CFG.MCS i) < 8 := State.fld_lt s _
  have hcount := hclk.mcsCount hm
  have htable : tableNext v (s.fld (R.HST.B_CFG.MCS i)) = tableNext s (s.fld (R.HST.B_CFG.MCS i)) := congrArg (· + 1) hcount
  have hmult : mcsMult v (s.fld (R.HST.B_CFG.MCS i)) = mcsMult s (s.fld (R.HST.B_CFG.MCS i)) := by
    rw [mcsMult, hclk.rate _ hm, mcsMult]
  obtain ⟨hck, hidle, hfetch, hdev', hout', hsort⟩ := htCommit_last (s := v) (i := i) (it := it) (b := buf) (k := k) (n := n) (ch := ch) hne
    (by rw [hgq]; exact ho) hbytes hitem (by rw [hgq]; exact hswallow) hcells (by rw [hgq]; exact helems) (by rw [hhost, hdev]; exact hnext)
    (by rw [hstN_of_onlyIn hkeys (tags_not_ring i)]; exact hn) (by rw [hchan]; exact hch) (by rw [hmcs, hcount]; exact hk)
    (by rw [hmcs, htable]; exact hdue)
  rw [hmcs, hbase, htransp, htable, hmult] at hsort
  generalize htCommit v i buf = c at hck hidle hfetch hdev' hout' hsort
  subst hib
  have hpump := htPump_only (s := s) (t := c) (b := b) ((hkeys.mono fun k hk => .inr (.inr (.inl hk))).trans hck) honly hidle
  refine ⟨(congrArg HostBlk.fetch (hpump.hst _)).trans hfetch, ?_, ?_, fun j x hj hx hle => ?_⟩
  · exact (hpump.fld (itemKey_ne_of_mod (a := 0x1111c) (c := 0x11008) _ (by decide))).trans (hdev'.trans (by rw [hdev]))
  · rw [hpump.frame]
    show c.out = _
    rw [hout', hout, hstWbAddr_of_onlyIn hkeys (tags_not_ring _), hdev]
  · exact (findSort_of_frame hpump.frame _ _).trans (hsort j x hj hx hle)

end

end Sys2Proof.Machine
end

section
/-! The states of the host link (R353, R357). -/

namespace Sys2Proof.Machine

section
variable {s : State}

/-- The link shows a state. -/
def linkShown (s : State) (st : Nat) : State :=
  { s with pins := { s.pins with perst := false, wakeLow := s.pins.wakeLow && st == 4 } }.setFlds
    [(R.HST.LINK.STATE, st), (R.HST.LINK.UP, b2n (st == 2))]

/-- A change between up and down is an event. -/
def linkNoted (s : State) (was up : Bool) : State := if was ≠ up then s.setFld R.HST.LINK.LINK_EV 1 else s

/-- A link that is up shows its speed and width. -/
def linkTrained (s : State) (up : Bool) (speed width : Nat) : State :=
  if up then s.setFlds [(R.HST.LINK.SPEED, speed), (R.HST.LINK.WIDTH, width)] else s

/-- A link too slow for what it carries is an event. -/
def linkShort (s : State) (up : Bool) : State :=
  if up && (decide (rateLimit s < admitted s false) || decide (rateLimit s < admitted s true)) then s.setFld R.HST.LINK.SHORT_EV 1 else s

/-- The link's registers after a change, with the rates it admits. -/
def linkChanged (s : State) (st speed width : Nat) : State :=
  hstRates (linkTrained (linkNoted (linkShown s st) (s.flag R.HST.LINK.UP) (st == 2)) (st == 2) speed width)

theorem execPcieLinkStateChange_eq (st speed width : Nat) (s : State) : execPcieLinkStateChange st speed width s =
    if s.pers = 1 ∨ 5 ≤ st ∨ !s.domOn 8 then ok s
    else ok (if st == 2 then htPump (linkShort (linkChanged s st speed width) (st == 2))
      else linkShort (linkChanged s st speed width) (st == 2)) := rfl

/-- Registers and pins alone change. -/
def PinFrame (s t : State) : Prop := t = { s with rf := t.rf, pins := t.pins }

theorem PinFrame.rf {t u : State} (h : PinFrame s t) (k : RfFrame t u) : PinFrame s u := by
  unfold PinFrame RfFrame at *
  rw [k, h]

theorem PinFrame.pins {t u : State} (k : RfFrame t u) : u.pins = t.pins := by rw [k]

theorem linkShown_leaves {st : Nat} (h : st < 5) : PinFrame s (linkShown s st) ∧ (linkShown s st).pins.perst = false ∧
    (linkShown s st).fld R.HST.LINK.STATE = st ∧ (linkShown s st).fld R.HST.LINK.UP = b2n (st == 2) ∧
    OnlyIn (· = R.HST.LINK.reg) s (linkShown s st) := by
  have hpins : PinFrame s { s with pins := { s.pins with perst := false, wakeLow := s.pins.wakeLow && st == 4 } } := rfl
  have hrf : ({ s with pins := { s.pins with perst := false, wakeLow := s.pins.wakeLow && st == 4 } } : State).rf = s.rf := rfl
  have hperst : ({ s with pins := { s.pins with perst := false, wakeLow := s.pins.wakeLow && st == 4 } } : State).pins.perst = false := rfl
  unfold linkShown
  generalize ({ s with pins := { s.pins with perst := false, wakeLow := s.pins.wakeLow && st == 4 } } : State) = u at hpins hrf hperst
  have hset := State.setFlds_frame u [(R.HST.LINK.STATE, st), (R.HST.LINK.UP, b2n (st == 2))]
  have hup : b2n (st == 2) < 2 ^ 1 := by
    cases st == 2 <;> decide
  refine ⟨hpins.rf hset, (congrArg Pins.perst (PinFrame.pins hset)).trans hperst,
    State.fld_setFlds u 0 rfl rfl rfl (Nat.lt_of_lt_of_le h (by decide)),
    State.fld_setFlds u 1 rfl rfl rfl hup, ((OnlyIn.refl s).upd hrf).setFlds (by simp [R.HST.LINK.STATE, R.HST.LINK.UP, R.HST.LINK.reg])⟩

theorem linkNoted_leaves (s : State) (was up : Bool) : RfFrame s (linkNoted s was up) ∧ Touches [R.HST.LINK.LINK_EV] s (linkNoted s was up) ∧
    (was ≠ up → (linkNoted s was up).fld R.HST.LINK.LINK_EV = 1) := by
  unfold linkNoted
  split
  · exact ⟨(RfFrame.refl s).setFld _ _, touches_setFld (by simp) (.refl _ s), fun _ => State.fld_setFld_mod s _ 1 rfl⟩
  next h => exact ⟨.refl s, .refl _ s, fun h' => absurd h' h⟩

theorem linkTrained_leaves (s : State) (up : Bool) {sp w : Nat} (hsp : sp < 4) (hw : w < 8) : RfFrame s (linkTrained s up sp w) ∧
    Touches [R.HST.LINK.SPEED, R.HST.LINK.WIDTH] s (linkTrained s up sp w) ∧
    (up = true → (linkTrained s up sp w).fld R.HST.LINK.SPEED = sp ∧ (linkTrained s up sp w).fld R.HST.LINK.WIDTH = w) := by
  unfold linkTrained
  split
  · exact ⟨State.setFlds_frame s _, touches_setFlds (by simp) (.refl _ s),
      fun _ => ⟨State.fld_setFlds s 0 rfl rfl rfl hsp, State.fld_setFlds s 1 rfl rfl rfl hw⟩⟩
  next h => exact ⟨.refl s, .refl _ s, fun h' => absurd h' h⟩

theorem hstRates_leaves (s : State) : RfFrame s (hstRates s) ∧
    Touches [R.HST.RATE.ADMITTED 0, R.HST.RATE.LIMIT 0, R.HST.RATE.ADMITTED 1, R.HST.RATE.LIMIT 1] s (hstRates s) :=
  ⟨State.setFlds_frame s _, touches_setFlds (by simp) (.refl _ s)⟩

theorem linkChanged_leaves {st sp w : Nat} (h : st < 5) (hsp : sp < 4) (hw : w < 8) : PinFrame s (linkChanged s st sp w) ∧
    (linkChanged s st sp w).pins.perst = false ∧ (linkChanged s st sp w).fld R.HST.LINK.STATE = st ∧
    (linkChanged s st sp w).fld R.HST.LINK.UP = b2n (st == 2) ∧
    (s.flag R.HST.LINK.UP ≠ (st == 2) → (linkChanged s st sp w).fld R.HST.LINK.LINK_EV = 1) ∧
    ((st == 2) = true → (linkChanged s st sp w).fld R.HST.LINK.SPEED = sp ∧ (linkChanged s st sp w).fld R.HST.LINK.WIDTH = w) ∧
    OnlyIn (fun k => k = R.HST.LINK.reg ∨ k = R.HST.RATE.reg 0 ∨ k = R.HST.RATE.reg 1) s (linkChanged s st sp w) := by
  obtain ⟨hpin, hperst, hstate, hup, honly⟩ := linkShown_leaves (s := s) h
  unfold linkChanged
  generalize linkShown s st = a at hpin hperst hstate hup honly
  obtain ⟨hfa, hta, hev⟩ := linkNoted_leaves a (s.flag R.HST.LINK.UP) (st == 2)
  generalize linkNoted a (s.flag R.HST.LINK.UP) (st == 2) = b at hfa hta hev
  obtain ⟨hfb, htb, hspeed⟩ := linkTrained_leaves b (st == 2) hsp hw
  generalize linkTrained b (st == 2) sp w = c at hfb htb hspeed
  obtain ⟨hfc, htc⟩ := hstRates_leaves c
  generalize hstRates c = d at hfc htc
  have hframe := (hfa.trans hfb).trans hfc
  refine ⟨hpin.rf hframe, (congrArg Pins.perst (PinFrame.pins hframe)).trans hperst,
    (htc.fld (by decide)).trans ((htb.fld (by decide)).trans ((hta.fld (by decide)).trans hstate)),
    (htc.fld (by decide)).trans ((htb.fld (by decide)).trans ((hta.fld (by decide)).trans hup)),
    fun hne => (htc.fld (by decide)).trans ((htb.fld (by decide)).trans (hev hne)),
    fun hu => ⟨(htc.fld (by decide)).trans (hspeed hu).1, (htc.fld (by decide)).trans (hspeed hu).2⟩, ?_⟩
  have hnoted : OnlyIn (· = R.HST.LINK.reg) s b := honly.trans (.of_touches hta (by simp [R.HST.LINK.LINK_EV, R.HST.LINK.reg]))
  have htrained : OnlyIn (· = R.HST.LINK.reg) s c :=
    hnoted.trans (.of_touches htb (by simp [R.HST.LINK.SPEED, R.HST.LINK.WIDTH, R.HST.LINK.reg]))
  exact (htrained.mono fun _ hk => .inl hk).trans (.of_touches htc (by
    simp [R.HST.RATE.ADMITTED, R.HST.RATE.LIMIT, R.HST.RATE.reg]))

/-- With every transmit block off, all going on does nothing. -/
theorem htPump_off (h : ∀ j, j < 64 → hstState s (256 + j) = hstOff) : htPump s = s := by
  have hgo : ∀ l : List Nat, (∀ j ∈ l, j < 64) →
      l.foldl (fun s b => if hstState s (b + 256) = hstOff then s else htStart s (b + 256)) s = s := by
    intro l hl
    induction l with
    | nil => rfl
    | cons j l ih =>
      rw [List.foldl_cons, if_pos (by rw [Nat.add_comm]; exact h j (hl j List.mem_cons_self))]
      exact ih fun x hx => hl x (List.mem_cons_of_mem _ hx)
  exact hgo _ fun j hj => List.mem_range.mp hj

theorem linkShort_leaves (s : State) (up : Bool) : RfFrame s (linkShort s up) ∧ Touches [R.HST.LINK.SHORT_EV] s (linkShort s up) ∧
    (up = true → rateLimit (linkShort s up) < admitted (linkShort s up) false ∨ rateLimit (linkShort s up) < admitted (linkShort s up) true →
      (linkShort s up).fld R.HST.LINK.SHORT_EV = 1) ∧ (up = false → linkShort s up = s) := by
  unfold linkShort
  split
  next h =>
    refine ⟨(RfFrame.refl s).setFld _ _, touches_setFld (by simp) (.refl _ s), fun _ _ => State.fld_setFld_mod s _ 1 rfl, fun hu => ?_⟩
    rw [hu] at h
    cases h
  next h =>
    refine ⟨.refl s, .refl _ s, fun hu hs => absurd ?_ h, fun _ => rfl⟩
    rw [hu, Bool.true_and, Bool.or_eq_true, decide_eq_true_iff, decide_eq_true_iff]
    exact hs

theorem exec_pcieLinkStateChange {st sp w : Nat} (hp : s.pers ≠ 1) (hst : st < 5) (hon : s.domOn 8 = true) :
    exec (.pcieLinkStateChange st sp w) s = .next (if st == 2 then htPump (linkShort (linkChanged s st sp w) (st == 2))
      else linkShort (linkChanged s st sp w) (st == 2)) := by
  show execPcieLinkStateChange st sp w s = _
  rw [execPcieLinkStateChange_eq, if_neg (by rw [hon]; simp [hp]; omega)]

theorem linkLeavesUp_goes {st sp w : Nat} (hp : s.pers ≠ 1) (hst : st < 5) (hon : s.domOn 8 = true) (hsp : sp < 4) (hw : w < 8) (hne : st ≠ 2) :
    Goes (.pcieLinkStateChange st sp w) s fun t => t = { s with rf := t.rf, pins := t.pins } ∧
      t.fld R.HST.LINK.STATE = st ∧ t.fld R.HST.LINK.UP = 0 ∧ t.pins.perst = false ∧
      (s.flag R.HST.LINK.UP = true → t.fld R.HST.LINK.LINK_EV = 1) := by
  have hup : (st == 2) = false := by simpa using hne
  refine ⟨_, exec_pcieLinkStateChange hp hst hon, ?_⟩
  obtain ⟨hframe, hperst, hstate, hupf, hev, -, -⟩ := linkChanged_leaves (s := s) hst hsp hw
  obtain ⟨-, -, -, hsame⟩ := linkShort_leaves (linkChanged s st sp w) (st == 2)
  rw [hsame hup, if_neg (by rw [hup]; decide)]
  exact ⟨hframe, hstate, by rw [hupf, hup]; rfl, hperst, fun h => hev (by rw [h, hup]; decide)⟩

theorem linkComesUp_goes {sp w : Nat} (hp : s.pers ≠ 1) (hon : s.domOn 8 = true) (hsp : sp < 4) (hw : w < 8)
    (hoff : ∀ j, j < 64 → hstState s (256 + j) = hstOff) : Goes (.pcieLinkStateChange 2 sp w) s fun t =>
      t = { s with rf := t.rf, pins := t.pins } ∧ t.fld R.HST.LINK.STATE = 2 ∧ t.fld R.HST.LINK.UP = 1 ∧
      t.fld R.HST.LINK.SPEED = sp ∧ t.fld R.HST.LINK.WIDTH = w ∧
      (s.flag R.HST.LINK.UP = false → t.fld R.HST.LINK.LINK_EV = 1) ∧
      (rateLimit t < admitted t false ∨ rateLimit t < admitted t true → t.fld R.HST.LINK.SHORT_EV = 1) := by
  refine ⟨_, exec_pcieLinkStateChange hp (by decide) hon, ?_⟩
  obtain ⟨hframe, -, hstate, hupf, hev, htrain, honly⟩ := linkChanged_leaves (s := s) (st := 2) (by decide) hsp hw
  generalize linkChanged s 2 sp w = u at hframe hstate hupf hev htrain honly
  obtain ⟨hf, ht, hshort, -⟩ := linkShort_leaves u (2 == 2)
  generalize linkShort u (2 == 2) = t at hf ht hshort
  have htoff : ∀ j, j < 64 → hstState t (256 + j) = hstOff := fun j hj => by
    refine (ht.fld fun f hf => ?_).trans ((honly.fld (f := R.HST.B_STAT.STATE (256 + j)) ?_).trans (hoff j hj))
    · rw [List.mem_singleton.mp hf]
      exact Fld.apart_of_key_ne (itemKey_ne_of_mod (a := 0x11118) (c := 0x11000) _ (by decide))
    · rintro (h | h | h)
      · exact itemKey_ne_of_mod (a := 0x11118) (c := R.HST.LINK.reg) _ (by decide) h
      · exact itemKey_ne_of_mod (a := 0x11118) (c := R.HST.RATE.reg 0) _ (by decide) h
      · exact itemKey_ne_of_mod (a := 0x11118) (c := R.HST.RATE.reg 1) _ (by decide) h
  rw [if_pos (show (2 == 2) = true from rfl), htPump_off htoff]
  obtain ⟨hspeed, hwidth⟩ := htrain rfl
  exact ⟨hframe.rf hf, (ht.fld (by decide)).trans hstate, (ht.fld (by decide)).trans hupf, (ht.fld (by decide)).trans hspeed,
    (ht.fld (by decide)).trans hwidth, fun h => (ht.fld (by decide)).trans (hev (by rw [h]; decide)), hshort rfl⟩

end

/-- Settles O45. -/
theorem hostTransmitAndLinkSteps : Obligations.HostTransmitAndLinkSteps := fun s b hb => by
  refine ⟨fun v hv hon hfar => htProd_bad_goes hb hv hon hfar,
    fun v hv hrun hfit hmore hfetch hdma htags => htProd_goes hb hv hrun hfit hmore hfetch hdma htags,
    fun r rest f data hr hblk hlive hf htodo hleft hoff honly hlen => htRead_part_goes hb hr hblk hlive hf htodo hleft hoff honly hlen,
    fun r rest f data it k n ch buf hr hblk hlive hoff hf htodo hleft hlen hbuf hsize _ ho hbytes hitem hswallow hcells helems honly hnext hn
      hch hk hdue => htRead_last_goes hb hr hblk hlive hoff hf htodo hleft hlen hbuf hsize ho hbytes hitem hswallow hcells helems honly hnext
      hn hch hk hdue,
    fun c r rest f data hc hr hblk hlive hf _ hmax honly => htRead_failed_goes hb hc hr hblk hlive hf hmax honly,
    fun st sp w hp hst hon hsp hw => ⟨fun hne => linkLeavesUp_goes hp hst hon hsp hw hne, ?_⟩, fun st sp w hp => ?_⟩
  · rintro rfl hoff
    exact linkComesUp_goes hp hon hsp hw hoff
  · show execPcieLinkStateChange st sp w s = _
    rw [execPcieLinkStateChange_eq, if_pos (.inl hp)]

end Sys2Proof.Machine
end

section
/-! The start of a transmit flow and the close of its packets (R318 to R323, R329, R330). -/

namespace Sys2Proof.Machine

section
variable {s t : State} {f : Nat}

/-! ### Flows -/

theorem txf_setTxf_self (s : State) (f : Nat) (x : TxFlow) : (s.setTxf f x).txf f = x := sGet_put_self ..

theorem txf_setTxf_ne (s : State) {f g : Nat} (x : TxFlow) (h : g ≠ f) : (s.setTxf f x).txf g = s.txf g := sGet_put_ne _ _ _ h

theorem txGo_frame (s : State) (f st : Nat) : RfFrame s (txGo s f st) := by
  unfold txGo
  split
  · exact .refl s
  · exact State.setFlds_frame s _

theorem txGo_goes (s : State) (f : Nat) {st : Nat} (hst : st < 16) (hne : s.fld (R.TXF.F_STAT.STATE f) ≠ st) :
    (txGo s f st).fld (R.TXF.F_STAT.STATE f) = st ∧ (txGo s f st).fld (R.TXF.F_STAT.STATE_EV f) = 1 ∧
      Touches [R.TXF.F_STAT.STATE f, R.TXF.F_STAT.STATE_EV f] s (txGo s f st) := by
  unfold txGo
  rw [if_neg hne]
  exact ⟨State.fld_setFlds s 0 rfl (by simp [Fld.apart, R.TXF.F_STAT.STATE, R.TXF.F_STAT.STATE_EV]) rfl hst,
    State.fld_setFlds s 1 rfl rfl rfl (show 1 < 2 ^ 1 by decide), touches_setFlds (by simp) (.refl _ s)⟩

/-! ### The start of a flow (R330) -/

/-- The first index at or after `c` that lies at alignment `a` modulo `n`. -/
def nextAligned (c a n : Nat) : Nat := c + (a + n - c % n) % n

theorem nextAligned_bounds (c : Nat) {a n : Nat} (h : a < n) :
    c ≤ nextAligned c a n ∧ nextAligned c a n < c + n ∧ nextAligned c a n % n = a := by
  have hr : c % n < n := Nat.mod_lt _ (by omega)
  have hlt : (a + n - c % n) % n < n := Nat.mod_lt _ (by omega)
  unfold nextAligned
  refine ⟨Nat.le_add_right .., by omega, ?_⟩
  have hsum : c % n + (a + n - c % n) = a + n := by omega
  calc (c + (a + n - c % n) % n) % n = (c % n + (a + n - c % n)) % n := by rw [Nat.add_mod, Nat.mod_mod, ← Nat.add_mod, Nat.mod_add_mod]
    _ = a := by rw [hsum, Nat.add_mod_right, Nat.mod_eq_of_lt h]

theorem txFlowStart_goes {n c : Nat} (hn : n = max 1 (txN s f)) (ha : s.fld (R.TXF.F_STAT.STATE f) = 1)
    (halign : s.fld (R.TXF.F_PHASE.ALIGN f) < n)
    (hc : c = indexAt s (s.fld (R.TXF.F_CFG.MCS f)) ((s.txf f).armedAt + periods 2 (s.mcsFs (s.fld (R.TXF.F_CFG.MCS f)))) +
      b2n (decide (instantOf s (s.fld (R.TXF.F_CFG.MCS f)) (indexAt s (s.fld (R.TXF.F_CFG.MCS f)) ((s.txf f).armedAt +
        periods 2 (s.mcsFs (s.fld (R.TXF.F_CFG.MCS f))))) < (s.txf f).armedAt +
        periods 2 (s.mcsFs (s.fld (R.TXF.F_CFG.MCS f))))))
    (hdue : c + n ≤ mcsCount s (s.fld (R.TXF.F_CFG.MCS f))) : Goes (.txFlowStart f) s fun t => t = { s with rf := t.rf, txs := t.txs } ∧
      t.fld (R.TXF.F_STAT.STATE f) = 2 ∧ t.fld (R.TXF.F_STAT.STATE_EV f) = 1 ∧ c ≤ (t.txf f).k ∧ (t.txf f).k < c + n ∧
      (t.txf f).k % n = s.fld (R.TXF.F_PHASE.ALIGN f) ∧ (t.txf f).k0 = (t.txf f).k ∧
      (t.txf f).folio0 = s.fld (R.TXF.F_FOLIO.NEXT f) ∧ Touches [R.TXF.F_STAT.STATE f, R.TXF.F_STAT.STATE_EV f] s t := by
  obtain ⟨hge, hlt, hmod⟩ := nextAligned_bounds c halign
  have hexec : exec (.txFlowStart f) s = .next (txGo (s.setTxf f { s.txf f with
      k := nextAligned c (s.fld (R.TXF.F_PHASE.ALIGN f)) n, k0 := nextAligned c (s.fld (R.TXF.F_PHASE.ALIGN f)) n,
      folio0 := s.fld (R.TXF.F_FOLIO.NEXT f) }) f 2) := by
    show execTxFlowStart f s = _
    unfold execTxFlowStart
    rw [if_neg (not_not.mpr ha)]
    dsimp only
    rw [← hc, ← hn]
    exact if_neg (by unfold nextAligned at hlt; omega)
  refine ⟨_, hexec, ?_⟩
  generalize nextAligned c (s.fld (R.TXF.F_PHASE.ALIGN f)) n = k at hge hlt hmod
  have hself := txf_setTxf_self s f { s.txf f with k := k, k0 := k, folio0 := s.fld (R.TXF.F_FOLIO.NEXT f) }
  have hframe : s.setTxf f { s.txf f with k := k, k0 := k, folio0 := s.fld (R.TXF.F_FOLIO.NEXT f) } = { s with
    txs := (s.setTxf f { s.txf f with k := k, k0 := k, folio0 := s.fld (R.TXF.F_FOLIO.NEXT f) }).txs } := rfl
  generalize s.setTxf f { s.txf f with k := k, k0 := k, folio0 := s.fld (R.TXF.F_FOLIO.NEXT f) } = u at hself hframe
  have hrf : u.rf = s.rf := by rw [hframe]
  obtain ⟨hst, hev, htouch⟩ := txGo_goes u f (st := 2) (by decide) (by rw [State.fld_of_rf_eq hrf, ha]; decide)
  have hgo := txGo_frame u f 2
  generalize txGo u f 2 = t at hst hev htouch hgo
  have htxf : t.txf f = u.txf f := congrArg (fun v => v.txf f) hgo
  rw [htxf, hself]
  refine ⟨?_, hst, hev, hge, hlt, hmod, rfl, rfl, (Touches.of_rf _ hrf).trans htouch⟩
  unfold RfFrame at hgo
  rw [hgo, hframe]

end

end Sys2Proof.Machine
end

section
/-! The close of a flow's packet (R318 to R323, R329). -/

namespace Sys2Proof.Machine

section
variable {s t : State} {f : Nat}

/-! ### What a packet's close changes beyond its queue -/

/-- The registers of a flow's state and counts, and of the mailbox. -/
def CloseKey (k : Nat) : Prop := (0xd118 ≤ k % 0x1000000 ∧ k % 0x1000000 < 0xd140) ∨ (0x5000 ≤ k ∧ k < 0x6000)

theorem onlyIn_txCount_close (s : State) (f n : Nat) {i : Nat} (hi : i < 6) {ev : List Fld} (hev : ∀ e ∈ ev, CloseKey e.key) :
    OnlyIn CloseKey s (txCount s f i n ev) := by
  have h : Touches (ev ++ [{ R.TXF.F_UNDERRUN.COUNT f with key := (R.TXF.F_UNDERRUN.COUNT f).key + 4 * i }, R.TXF.F_SAT.SAT f]) s
      (txCount s f i n ev) :=
    touches_countSatN (touches_raise (fun e he => List.mem_append_left _ he) (.refl _ s)) n i (by simp) (by simp)
  refine .of_touches h fun g hg => ?_
  rcases List.mem_append.mp hg with hg | hg
  · exact hev g hg
  · refine .inl ?_
    simp only [List.mem_cons, List.not_mem_nil, or_false] at hg
    rcases hg with rfl | rfl <;> simp only [R.TXF.F_UNDERRUN.COUNT, R.TXF.F_SAT.SAT, itemKey] <;> omega

/-- Of flow `f` only the run of underrun packets changes, and of registers its counts and the mailbox's. -/
structure UnderStep (f : Nat) (s t : State) : Prop where
  gal  : t.gal = s.gal
  flow : ∃ y, t.txf f = { s.txf f with under := y }
  rest : ∀ g, g ≠ f → t.txf g = s.txf g
  only : OnlyIn CloseKey s t

theorem underStep_set {u : State} {y : Nat} (hgal : u.gal = s.gal) (htxf : ∀ g, u.txf g = s.txf g) (honly : OnlyIn CloseKey s u) :
    UnderStep f s (u.setTxf f { s.txf f with under := y }) := by
  have hself := txf_setTxf_self u f { s.txf f with under := y }
  have hother : ∀ g, g ≠ f → (u.setTxf f { s.txf f with under := y }).txf g = u.txf g := fun g hg => txf_setTxf_ne u _ hg
  have hframe : u.setTxf f { s.txf f with under := y } = { u with txs := (u.setTxf f { s.txf f with under := y }).txs } := rfl
  generalize u.setTxf f { s.txf f with under := y } = v at hself hother hframe
  refine ⟨?_, ⟨y, hself⟩, fun g hg => (hother g hg).trans (htxf g), honly.upd ?_⟩
  · rw [hframe]
    exact hgal
  · rw [hframe]

theorem underStep_underEnd (s : State) (f : Nat) : UnderStep f s (underEnd s f) := by
  unfold underEnd
  dsimp only
  split
  · exact ⟨rfl, ⟨(s.txf f).under, rfl⟩, fun _ _ => rfl, .refl s⟩
  · have hev := EvtStep.event s 0xE080 (leBytes 4 f ++ leBytes 4 (s.txf f).under)
    have honly : OnlyIn CloseKey s (s.event 0xE080 (leBytes 4 f ++ leBytes 4 (s.txf f).under)) :=
      (OnlyIn.refl s).event _ _ fun k h h' => .inr ⟨h, h'⟩
    have htxf : ∀ g, (s.event 0xE080 (leBytes 4 f ++ leBytes 4 (s.txf f).under)).txf g = s.txf g :=
      fun g => congrArg (fun v => v.txf g) hev.frame
    have hgal : (s.event 0xE080 (leBytes 4 f ++ leBytes 4 (s.txf f).under)).gal = s.gal := congrArg (fun v => v.gal) hev.frame
    exact underStep_set hgal htxf honly

/-- A flow counts the samples a packet concealed. -/
def underCounted (s : State) (f lost : Nat) : State :=
  let s := txCount (txCount s f 2 lost []) f 0 1 [R.TXF.F_STAT.UNDERRUN_EV f]
  s.setTxf f { s.txf f with under := (s.txf f).under + 1 }

theorem underStep_underCounted (s : State) (f lost : Nat) : UnderStep f s (underCounted s f lost) := by
  have hframe : RfFrame s (txCount (txCount s f 2 lost []) f 0 1 [R.TXF.F_STAT.UNDERRUN_EV f]) :=
    (txCount_frame s f 2 lost []).trans (txCount_frame _ f 0 1 _)
  have honly : OnlyIn CloseKey s (txCount (txCount s f 2 lost []) f 0 1 [R.TXF.F_STAT.UNDERRUN_EV f]) :=
    (onlyIn_txCount_close s f lost (by decide) (by simp)).trans (onlyIn_txCount_close _ f 1 (by decide) (by
      simp only [List.mem_cons, List.not_mem_nil, or_false, forall_eq, CloseKey, R.TXF.F_STAT.UNDERRUN_EV, itemKey]
      omega))
  unfold underCounted
  dsimp only
  generalize txCount (txCount s f 2 lost []) f 0 1 [R.TXF.F_STAT.UNDERRUN_EV f] = u at hframe honly
  rw [show u.txf f = s.txf f from congrArg (fun v => v.txf f) hframe]
  exact underStep_set (congrArg (fun v => v.gal) hframe) (fun g => congrArg (fun v => v.txf g) hframe) honly

/-- A packet's words have been taken: the flow goes on to its next packet. -/
def packetTaken (s : State) (f : Nat) (x : TxFlow) (n folio : Nat) (c : Compose) : State :=
  let s := s.setTxf f { x with k := x.k + n, chans := c.chans, dbc := (x.dbc + n) % 256 }
  let s := s.setFld (R.TXF.F_FOLIO.NOW f) folio
  if c.lost = 0 then underEnd s f else underCounted s f c.lost

theorem packetTaken_leaves (s : State) (f : Nat) (x : TxFlow) (n : Nat) {folio : Nat} (c : Compose) (hfolio : folio < 65536) :
    (packetTaken s f x n folio c).gal = s.gal ∧ ((packetTaken s f x n folio c).txf f).k = x.k + n ∧
    ((packetTaken s f x n folio c).txf f).dbc = (x.dbc + n) % 256 ∧ (∀ g, g ≠ f → (packetTaken s f x n folio c).txf g = s.txf g) ∧
    (packetTaken s f x n folio c).fld (R.TXF.F_FOLIO.NOW f) = folio ∧
    OnlyIn (fun k => CloseKey k ∨ k = R.TXF.F_FOLIO.reg f) s (packetTaken s f x n folio c) := by
  have hself := txf_setTxf_self s f { x with k := x.k + n, chans := c.chans, dbc := (x.dbc + n) % 256 }
  have hother : ∀ g, g ≠ f → (s.setTxf f { x with k := x.k + n, chans := c.chans, dbc := (x.dbc + n) % 256 }).txf g = s.txf g :=
    fun g hg => txf_setTxf_ne s _ hg
  have hrf : (s.setTxf f { x with k := x.k + n, chans := c.chans, dbc := (x.dbc + n) % 256 }).rf = s.rf := rfl
  have hgal : (s.setTxf f { x with k := x.k + n, chans := c.chans, dbc := (x.dbc + n) % 256 }).gal = s.gal := rfl
  unfold packetTaken
  dsimp only
  generalize s.setTxf f { x with k := x.k + n, chans := c.chans, dbc := (x.dbc + n) % 256 } = u at hself hother hrf hgal
  have hset : RfFrame u (u.setFld (R.TXF.F_FOLIO.NOW f) folio) := (RfFrame.refl u).setFld _ _
  have hnow : (u.setFld (R.TXF.F_FOLIO.NOW f) folio).fld (R.TXF.F_FOLIO.NOW f) = folio :=
    State.fld_setFld_lt u _ (Nat.le_of_ble_eq_true rfl) (by rw [show (R.TXF.F_FOLIO.NOW f).w = 16 from rfl]; omega)
  have honly : OnlyIn (fun k => CloseKey k ∨ k = R.TXF.F_FOLIO.reg f) s (u.setFld (R.TXF.F_FOLIO.NOW f) folio) :=
    ((OnlyIn.refl s).upd hrf).setFld _ (.inr rfl)
  generalize u.setFld (R.TXF.F_FOLIO.NOW f) folio = v at hset hnow honly
  have hstep : UnderStep f v (if c.lost = 0 then underEnd v f else underCounted v f c.lost) := by
    split
    · exact underStep_underEnd v f
    · exact underStep_underCounted v f _
  generalize (if c.lost = 0 then underEnd v f else underCounted v f c.lost) = w at hstep
  obtain ⟨hg, ⟨y, hy⟩, hrest, hkeys⟩ := hstep
  have htxf : ∀ g, v.txf g = u.txf g := fun g => congrArg (fun z => z.txf g) hset
  refine ⟨?_, by rw [hy, htxf, hself], by rw [hy, htxf, hself], fun g hne => (hrest g hne).trans ((htxf g).trans (hother g hne)),
    (hkeys.fld ?_).trans hnow, honly.trans (hkeys.mono fun k hk => .inl hk)⟩
  · rw [hg, hset]
    exact hgal
  · simp only [CloseKey, R.TXF.F_FOLIO.NOW, itemKey]
    omega

/-! ### The close of a packet (R320 to R322) -/

/-- The RTP timestamp or avtp_timestamp of a flow's packet of first index `k`. -/
def packetStamp (s : State) (f k : Nat) : Nat :=
  if s.flag (R.TXF.F_CFG.AVTP f) then
      ((launchTime s (s.fld (R.TXF.F_CFG.MCS f)) (s.fld (R.TXF.F_CFG.PTI f)) k 0 0 0 / (nsUnit : Int)).toNat + s.fld (R.TXF.F_TRANSIT.VALUE f)) % 2 ^ 32
    else (k + s.fld (R.TXF.F_RTPOFF.VALUE f)) % 2 ^ 32

/-- The descriptor of a flow's packet of first index `k`. -/
def packetDesc (s : State) (f k n folio len : Nat) : List Byte :=
  elemHeader 0 (16 + len) ++ leBytes 2 folio ++
    [byteOf (bits (s.fld (R.TXF.F_CFG.PATHS f)) 0 1 * 128 + bits (s.fld (R.TXF.F_CFG.PATHS f)) 1 1 * 64), byteOf f] ++
    leBytes 4 (k % 2 ^ 32) ++ leBytes 4 ((launchTime s (s.fld (R.TXF.F_CFG.MCS f)) (s.fld (R.TXF.F_CFG.PTI f)) k n 0
      (s.fld (R.TXF.F_PHASE.E_NS f)) / (nsUnit : Int)).toNat % 2 ^ 32)

/-- The item of a flow's packet is put in its queue, its words being those of `c`. -/
def packetPut (s : State) (f : Nat) (x : TxFlow) (n folio : Nat) (c : Compose) : State :=
  let frame := writeHeaders (template s f ++ c.out) (s.fld (R.TXF.F_CFG.FORMAT f)) folio (packetStamp s f x.k) c.out.length x.mr x.dbc
  let u := packetTaken s f x n folio c
  let q := if u.flag (R.TXF.F_CFG.FUNNEL f) then funnelQueue else 512 + f
  galCommit (galRefresh (galPut u q 0 true folio x.k (packetDesc s f x.k n folio frame.length ++ frame))) q

theorem packetClose_eq (s : State) (f : Nat) : packetClose s f = packetPut s f (s.txf f) (max 1 (txN s f))
    (((s.txf f).folio0 + ((s.txf f).k - (s.txf f).k0) / max 1 (txN s f)) % 65536) (composeAll s f (s.txf f).k) := by
  unfold packetClose
  dsimp only
  generalize s.txf f = x
  generalize max 1 (txN s f) = n
  generalize composeAll s f x.k = c
  generalize (x.folio0 + (x.k - x.k0) / n) % 65536 = folio
  rfl

theorem length_packetDesc (s : State) (f k n folio len : Nat) : (packetDesc s f k n folio len).length = 16 := by
  simp only [packetDesc, elemHeader, List.length_append, length_leBytes, List.length_cons, List.length_nil]

/-- The item of a packet is its queue's last; no other queue changes. -/
theorem packetPut_leaves {x : TxFlow} {n folio : Nat} {c : Compose} {frame : List Byte} (hfolio : folio < 65536)
    (hfun : s.flag (R.TXF.F_CFG.FUNNEL f) = false)
    (hframe : frame = writeHeaders (template s f ++ c.out) (s.fld (R.TXF.F_CFG.FORMAT f)) folio (packetStamp s f x.k) c.out.length x.mr x.dbc)
    (htakes : QueueTakes s (512 + f) (16 + frame.length)) (hlive : (s.gq (512 + f)).elems.all GElem.live = true) :
    ((packetPut s f x n folio c).txf f).k = x.k + n ∧ ((packetPut s f x n folio c).txf f).dbc = (x.dbc + n) % 256 ∧
    (packetPut s f x n folio c).fld (R.TXF.F_FOLIO.NOW f) = folio ∧ (∀ g, g ≠ f → (packetPut s f x n folio c).txf g = s.txf g) ∧
    (∀ q, q ≠ 512 + f → (packetPut s f x n folio c).gq q = s.gq q) ∧
    ∃ cells desc, desc.length = 16 ∧ (packetPut s f x n folio c).gq (512 + f) = { s.gq (512 + f) with
      known := true, slugFresh := false, elems := (s.gq (512 + f)).elems ++
        [.item ⟨0, folio, x.k, cells, desc ++ frame, true⟩] } := by
  obtain ⟨hgal, hk, hdbc, hrest, hnow, honly⟩ := packetTaken_leaves s f x n c hfolio
  unfold packetPut
  dsimp only
  rw [← hframe]
  generalize packetTaken s f x n folio c = u at hgal hk hdbc hrest hnow honly
  have hflag : u.flag (R.TXF.F_CFG.FUNNEL f) = false := (State.flag_of_fld (honly.fld (f := R.TXF.F_CFG.FUNNEL f) (by
    simp only [CloseKey, R.TXF.F_CFG.FUNNEL, R.TXF.F_FOLIO.reg, itemKey]
    omega))).trans hfun
  have hres : u.fld (R.GAL.Q_RES.CELLS (512 + f)) = s.fld (R.GAL.Q_RES.CELLS (512 + f)) := honly.fld (by
    simp only [CloseKey, R.GAL.Q_RES.CELLS, R.TXF.F_FOLIO.reg, itemKey]
    omega)
  have hgq : ∀ q, u.gq q = s.gq q := fun q => by rw [State.gq, hgal, State.gq]
  rw [hflag, if_neg Bool.false_ne_true]
  have hdesc := length_packetDesc s f x.k n folio frame.length
  generalize packetDesc s f x.k n folio frame.length = desc at hdesc
  obtain ⟨cells, -, hq, hp, hf, ht, -⟩ := galPut_known (s := u) (q := 512 + f) 0 folio x.k (bs := desc ++ frame) (fun h => by
      rw [List.append_eq_nil_iff] at h
      rw [h.1] at hdesc
      cases hdesc)
    (by
      rw [List.length_append, hdesc]
      exact ⟨by rw [hgq]; exact htakes.idle, by rw [hgq]; exact htakes.open_, by rw [hgq, hres]; exact htakes.room, htakes.short⟩)
  generalize galPut u (512 + f) 0 true folio x.k (desc ++ frame) = v at hq hp hf ht
  have hcommit := galCommit_joined (s := galRefresh v) (q := 512 + f) (pre := (s.gq (512 + f)).elems)
    (it := ⟨0, folio, x.k, cells, desc ++ frame, false⟩) (by rw [gq_galRefresh, hq, hgq]) rfl hlive
  have hself : (galCommit (galRefresh v) (512 + f)).gq (512 + f) = { s.gq (512 + f) with
      known := true, slugFresh := false, elems := (s.gq (512 + f)).elems ++ [.item ⟨0, folio, x.k, cells, desc ++ frame, true⟩] } := by
    rw [hcommit, gq_galRefresh, gq_setGq_self, gq_galRefresh, hq, hgq]
  have hother : ∀ q, q ≠ 512 + f → (galCommit (galRefresh v) (512 + f)).gq q = s.gq q := fun q hne => by
    rw [hcommit, gq_galRefresh, gq_setGq_ne _ _ hne, gq_galRefresh, hp q hne, hgq]
  have hgf : GalFrame u (galCommit (galRefresh v) (512 + f)) := by
    rw [hcommit]
    exact galFrame_galRefresh ((galFrame_galRefresh hf).setGq _ _)
  have htouch : Touches [R.GAL.EVT.LOW, R.GAL.INJECT.ARM] u (galCommit (galRefresh v) (512 + f)) := by
    rw [hcommit]
    exact touches_galRefresh (touches_setGq (touches_galRefresh (ht.mono (by simp)) (by simp)) _ _) (by simp)
  generalize galCommit (galRefresh v) (512 + f) = t at hself hother hgf htouch
  have htxf : ∀ g, t.txf g = u.txf g := fun g => congrArg (fun w => w.txf g) hgf
  refine ⟨by rw [htxf, hk], by rw [htxf, hdbc], (htouch.fld fun g hg => ?_).trans hnow, fun g hne => (htxf g).trans (hrest g hne), hother,
    cells, desc, hdesc, hself⟩
  simp only [List.mem_cons, List.not_mem_nil, or_false] at hg
  rcases hg with rfl | rfl
  · exact Fld.apart_of_key_ne (itemKey_ne_of_mod (a := 0xd10c) (c := R.GAL.EVT.LOW.key) f (by decide))
  · exact Fld.apart_of_key_ne (itemKey_ne_of_mod (a := 0xd10c) (c := R.GAL.INJECT.ARM.key) f (by decide))

theorem packetClose_goes {x : TxFlow} {k n : Nat} {frame : List Byte} (hf : f < 256) (hx : x = s.txf f) (hk : k = x.k) (hn : n = max 1 (txN s f))
    (hfun : s.flag (R.TXF.F_CFG.FUNNEL f) = false) (hst : s.fld (R.TXF.F_STAT.STATE f) = 2)
    (hdue : launchTime s (s.fld (R.TXF.F_CFG.MCS f)) (s.fld (R.TXF.F_CFG.PTI f)) k n 0
      (s.fld (R.TXF.F_PHASE.E_NS f)) ≤ ((s.ptiRaw (s.fld (R.TXF.F_CFG.PTI f)) + 1000 * nsUnit : Nat) : Int))
    (hidle : (s.gq 920).elems = [])
    (hframe : frame = writeHeaders (template s f ++ (composeAll s f k).out) (s.fld (R.TXF.F_CFG.FORMAT f))
      ((x.folio0 + (k - x.k0) / n) % 65536) (packetStamp s f k) (composeAll s f k).out.length x.mr x.dbc)
    (htakes : QueueTakes s (512 + f) (16 + frame.length)) (hlive : (s.gq (512 + f)).elems.all GElem.live = true) :
    Goes (.packetClose f) s fun t => (t.txf f).k = k + n ∧ (t.txf f).dbc = (x.dbc + n) % 256 ∧
      t.fld (R.TXF.F_FOLIO.NOW f) = (x.folio0 + (k - x.k0) / n) % 65536 ∧ (∀ g, g ≠ f → t.txf g = s.txf g) ∧
      ∃ cells desc, desc.length = 16 ∧ t.gq (512 + f) = { s.gq (512 + f) with
        known := true, slugFresh := false, elems := (s.gq (512 + f)).elems ++
          [.item ⟨0, (x.folio0 + (k - x.k0) / n) % 65536, k, cells, desc ++ frame, true⟩] } := by
  subst hk hx
  obtain ⟨hk', hdbc, hnow, hrest, hother, cells, desc, hdesc, hself⟩ := packetPut_leaves (s := s) (f := f) (x := s.txf f) (n := n)
    (folio := ((s.txf f).folio0 + ((s.txf f).k - (s.txf f).k0) / n) % 65536) (c := composeAll s f (s.txf f).k) (Nat.mod_lt _ (by decide))
    hfun hframe htakes hlive
  have hexec : exec (.packetClose f) s = .next (afterClose (packetPut s f (s.txf f) n
      (((s.txf f).folio0 + ((s.txf f).k - (s.txf f).k0) / n) % 65536) (composeAll s f (s.txf f).k))) := by
    show execPacketClose f s = _
    unfold execPacketClose
    dsimp only
    rw [← hn, if_pos ⟨hst, hdue⟩, packetClose_eq, ← hn]
  refine ⟨_, hexec, ?_⟩
  have hq : ((packetPut s f (s.txf f) n (((s.txf f).folio0 + ((s.txf f).k - (s.txf f).k0) / n) % 65536)
      (composeAll s f (s.txf f).k)).gq funnelQueue).elems = [] := by
    rw [hother funnelQueue (by unfold funnelQueue; omega)]
    exact hidle
  rw [afterClose, hq, if_pos (show ([] : List GElem).isEmpty = true from rfl)]
  exact ⟨hk', hdbc, hnow, hrest, cells, desc, hdesc, hself⟩

end

end Sys2Proof.Machine
end

section
/-! The launch of a flow's packet (R323, R325, R328). -/

namespace Sys2Proof.Machine

section
variable {s t : State} {f : Nat}

/-! ### Frames on a port -/

theorem wireNs_of_rf (h : t.rf = s.rf) (p n : Nat) : wireNs t p n = wireNs s p n := by
  rw [wireNs, lineKbps, State.fld_of_rf_eq h, wireNs, lineKbps]

theorem sendFrame_frame (s : State) (p : Nat) (b : List Byte) : sendFrame s p b = { s with
    net := (sendFrame s p b).net, out := .netTx p (b ++ List.replicate (60 - b.length) 0 ++
      leBytes 4 (crc32 (b ++ List.replicate (60 - b.length) 0))) :: s.out } := rfl

theorem countLaunch_leaves (s : State) (f p : Nat) : countLaunch s f p = { s with txs := (countLaunch s f p).txs } ∧
    ((countLaunch s f p).txf f).pkts = modifyAt (s.txf f).pkts p (· + 1) := by
  refine ⟨rfl, ?_⟩
  unfold countLaunch
  dsimp only
  rw [txf_setTxf_self]

theorem launchFrame_leaves (s : State) (f p : Nat) (b : List Byte) : (launchFrame s f p b).rf = s.rf ∧ (launchFrame s f p b).gal = s.gal ∧
    (launchFrame s f p b).out = .netTx p (b ++ List.replicate (60 - b.length) 0 ++
      leBytes 4 (crc32 (b ++ List.replicate (60 - b.length) 0))) :: s.out ∧
    (launchFrame s f p b).txp = modifyAt s.txp p (fun x => { x with wire := some (f, s.ticks + wireNs s p b.length / 2) }) ∧
    ((launchFrame s f p b).txf f).pkts = modifyAt (s.txf f).pkts p (· + 1) := by
  have hsend := sendFrame_frame s p b
  unfold launchFrame
  dsimp only
  generalize sendFrame s p b = u at hsend
  obtain ⟨hcount, hpkts⟩ := countLaunch_leaves u f p
  generalize countLaunch u f p = v at hcount hpkts
  have hrf : v.rf = s.rf := by rw [hcount, hsend]
  have hticks : v.ticks = s.ticks := by rw [hcount, hsend]
  have htxp : v.txp = s.txp := by rw [hcount, hsend]
  have htxf : u.txf f = s.txf f := by rw [State.txf, hsend, State.txf]
  refine ⟨hrf, ?_, ?_, by rw [wireNs_of_rf hrf, hticks, htxp], hpkts.trans (by rw [htxf])⟩
  · show v.gal = _
    rw [hcount, hsend]
  · show v.out = _
    rw [hcount, hsend]

/-! ### The item of a packet that has been launched -/

theorem sGet_map {α : Type} (d : Nat → α) (g : α → α) (m : Sparse α) (k : Nat) :
    sGet d (m.map fun p => (p.1, g p.2)) k = match sFind k m with
      | some x => g x
      | none => d k := by
  have hfind : sFind k (m.map fun p => (p.1, g p.2)) = (sFind k m).map g := by
    induction m with
    | nil => rfl
    | cons p m ih =>
      rw [List.map_cons, sFind, sFind]
      dsimp only
      split
      · rfl
      · exact ih
  rw [sGet, hfind]
  cases sFind k m <;> rfl

/-- An element with bytes laid over those of a cell it holds. -/
def pokeElem (c : CellNo) (off : Nat) (bs : List Byte) (e : GElem) : GElem :=
  match e with
  | .item it =>
    if it.cells.contains c then .item { it with bytes := overlay it.bytes (64 * it.cells.findIdx (· == c) + off) bs } else e
  | .slug _ => e

/-- A queue with bytes laid over those of a cell it holds. -/
def pokeQueue (c : CellNo) (off : Nat) (bs : List Byte) (x : GQueue) : GQueue :=
  { x with
    elems := x.elems.map (pokeElem c off bs)
    opened := match x.opened with
      | some it => (match pokeElem c off bs (.item it) with | .item it' => some it' | .slug _ => some it)
      | none => none }

theorem qs_cellPoke (s : State) (c : CellNo) (off : Nat) (bs : List Byte) :
    (cellPoke s c off bs).gal.qs = s.gal.qs.map fun p => (p.1, pokeQueue c off bs p.2) := rfl

theorem length_elems_cellPoke (s : State) (c : CellNo) (off : Nat) (bs : List Byte) (q : Nat) :
    ((cellPoke s c off bs).gq q).elems.length = (s.gq q).elems.length := by
  rw [State.gq, State.gq, qs_cellPoke, sGet_map gqDefault (pokeQueue c off bs), sGet]
  cases sFind q s.gal.qs with
  | none => rfl
  | some x => exact List.length_map _

/-- The mark of what ports still have to launch leaves all but the galley and INJECT. -/
theorem portsMark_leaves (s : State) (f k : Nat) (poison : Bool) : GalFrame s (portsMark s f k poison) ∧
    ((portsMark s f k poison).gq (512 + f)).elems.length = (s.gq (512 + f)).elems.length := by
  unfold portsMark
  split
  · split
    next c _ =>
      have hpoke : ∀ v, GalFrame s (storeMark (cellPoke s c 6 [byteOf v]) c 0) ∧
          ((storeMark (cellPoke s c 6 [byteOf v]) c 0).gq (512 + f)).elems.length = (s.gq (512 + f)).elems.length := fun v => by
        have hframe : GalFrame s (cellPoke s c 6 [byteOf v]) := rfl
        have hlen := length_elems_cellPoke s c 6 [byteOf v] (512 + f)
        generalize cellPoke s c 6 [byteOf v] = u at hframe hlen
        exact ⟨hframe.trans (galFrame_storeMark u c 0), by rw [gq_of_qs (qs_storeMark u c 0), hlen]⟩
      dsimp only
      split
      · exact hpoke _
      · exact ⟨.refl s, rfl⟩
    · exact ⟨.refl s, rfl⟩
  · exact ⟨.refl s, rfl⟩

/-- An item none of whose ports waits is released. -/
theorem releaseIfDone_leaves {k : Nat} (h : waitPorts s f k = []) : GalFrame s (releaseIfDone s f k) ∧
    ((releaseIfDone s f k).gq (512 + f)).elems = (s.gq (512 + f)).elems.drop 1 := by
  have hfree : GalFrame s (galFreeFirst s (512 + f) 1) := by
    have hspill : ∀ (es : List GElem) (u : State), GalFrame u (es.foldl spillElem u) := fun es => by
      induction es with
      | nil => exact fun u => .refl u
      | cons e es ih => exact fun u => (galFrame_spill u e.cells e.bytes).trans (ih _)
    exact (hspill _ s).setGq _ _
  unfold releaseIfDone
  rw [h, if_pos (show ([] : List Nat).isEmpty = true from rfl)]
  exact ⟨galFrame_galRefresh hfree, by rw [gq_galRefresh, (galFreeFirst_leaves s (512 + f) 1).1]⟩

theorem any_wait_false {p : Nat} (k : Nat) (h : ∀ x ∈ s.txp, ∀ w ∈ x.wait, w.flow ≠ f) :
    ((s.txp.getD p txpReset).wait.any fun w => w.flow == f && w.k == k) = false := by
  rw [List.any_eq_false]
  intro w hw hflow
  rw [Bool.and_eq_true, beq_iff_eq] at hflow
  rw [List.getD_eq_getElem?_getD] at hw
  cases hp : s.txp[p]? with
  | none =>
    rw [hp] at hw
    cases hw
  | some x =>
    rw [hp] at hw
    exact h x (List.mem_of_getElem? hp) w hw hflow.1

/-- Where no packet of a flow waits, none of its ports still has to launch one. -/
theorem waitPorts_none (k : Nat) (h : ∀ x ∈ s.txp, ∀ w ∈ x.wait, w.flow ≠ f) : waitPorts s f k = [] := by
  rw [waitPorts, List.filter_eq_nil_iff]
  intro p _
  rw [any_wait_false k h]
  decide

theorem mem_modifyAt {α : Type} {l : List α} {i : Nat} {g : α → α} {x : α} (h : x ∈ modifyAt l i g) : x ∈ l ∨ ∃ y ∈ l, x = g y := by
  induction l generalizing i with
  | nil => cases h
  | cons a l ih =>
    cases i with
    | zero =>
      rcases List.mem_cons.mp h with rfl | h
      · exact .inr ⟨a, List.mem_cons_self, rfl⟩
      · exact .inl (List.mem_cons_of_mem _ h)
    | succ i =>
      rcases List.mem_cons.mp h with rfl | h
      · exact .inl List.mem_cons_self
      · rcases ih h with h | ⟨y, hy, e⟩
        · exact .inl (List.mem_cons_of_mem _ h)
        · exact .inr ⟨y, List.mem_cons_of_mem _ hy, e⟩

/-! ### A launch (R323) -/

theorem packetLaunch_none (h : (s.gq (512 + f)).depth = 0) : exec (.packetLaunch f) s = .next s := by
  show ok (packetLaunch s f) = _
  unfold packetLaunch
  dsimp only
  rw [galPop_empty h]

theorem depth_one {x : GQueue} {it : GItem} (he : x.elems = [.item it]) (hrd : x.rd = 0) (hlive : it.live = true) : x.depth ≠ 0 := by
  rw [GQueue.depth, GQueue.visible, he, hrd, List.takeWhile_cons, GElem.live, hlive, if_pos rfl, List.takeWhile_nil]
  exact Nat.one_ne_zero

/-- The state in which a flow's item has been popped. -/
def packetPopped (s : State) (f : Nat) : State := s.setGq (512 + f) { s.gq (512 + f) with rd := 1 }

/-- A packet goes out on a port, waits for it, or is struck. -/
def packetOnPort (f ts cls : Nat) (prime : Bool) (frame : List Byte) (s : State) (p : Nat) : State :=
  let b := if p = 1 then netbCopy s f frame else frame
  if !linkUp s p then txCount s f 3 1 [R.TXF.F_STAT.LINKDROP_EV f]
  else if prime then launchFrame s f p b
  else
    let s := if cls = 0 ∧ inPrime s p = true then txCount s f 5 1 [R.TXF.F_STAT.SLIP_EV f] else s
    { s with txp := modifyAt s.txp p fun x => { x with wait := x.wait ++ [⟨f, ts, cls, b⟩] } }

/-- The ports of a packet. -/
def packetPorts (s : State) (f : Nat) (it : GItem) : List Nat :=
  if twinSilent s then [] else if s.dxPresent && decide (f < 8) then [2] else [0, 1].filter fun p => nbit (u8 it.bytes 6) (7 - p)

/-- A packet goes to its ports, and its item is released once none has still to launch it. -/
def packetMoved (s : State) (f : Nat) (it : GItem) (poison : Bool) : State :=
  releaseIfDone (portsMark ((packetPorts s f it).foldl
    (packetOnPort f it.ts (s.fld (R.TXF.F_CFG.CLASS f)) (s.flag (R.TXF.F_CFG.TIER f)) (it.bytes.drop 16)) s) f it.ts poison) f it.ts

/-- A popped packet is counted where it is poisoned, and enters its flow's hash. -/
def packetSent (s : State) (f : Nat) (it : GItem) (bad : List Nat) : State :=
  let s := if bad.isEmpty then s else txCount s f 4 1 []
  let s := if s.fld R.TWIN.CFG.ROLE = 0 then s else feedHash s f ((it.bytes.drop 16).drop (s.fld (R.TXF.F_CHAN.TLEN f)))
  packetMoved s f it !bad.isEmpty

theorem packetLaunch_item {it : GItem} {bad : List Nat} {u : State} (h : galPop s (512 + f) = (some (.item it, bad), u)) :
    packetLaunch s f = packetSent u f it bad := by
  unfold packetLaunch
  dsimp only
  rw [h]
  rfl

theorem packetSent_clean {it : GItem} (h : s.fld R.TWIN.CFG.ROLE = 0) : packetSent s f it [] = packetMoved s f it false := by
  show packetMoved (if s.fld R.TWIN.CFG.ROLE = 0 then s else _) f it false = _
  rw [if_pos h]

/-- A packet with PORTS for the first port alone goes to that port. -/
theorem packetLaunch_first {it : GItem} (he : (s.gq (512 + f)).elems = [.item it]) (hrd : (s.gq (512 + f)).rd = 0) (hlive : it.live = true)
    (hflips : s.gal.flips = []) (hports : u8 it.bytes 6 = 0x80) (hrole : s.fld R.TWIN.CFG.ROLE = 0) (hsilent : twinSilent s = false)
    (hdx : s.dxPresent = false) : exec (.packetLaunch f) s = .next
      (releaseIfDone (portsMark (packetOnPort f it.ts (s.fld (R.TXF.F_CFG.CLASS f)) (s.flag (R.TXF.F_CFG.TIER f)) (it.bytes.drop 16)
        (packetPopped s f) 0) f it.ts false) f it.ts) := by
  have hpop := galPop_clean (s := s) (q := 512 + f) (e := .item it) (depth_one he hrd hlive) (by rw [he, hrd]; rfl) hflips
  rw [hrd] at hpop
  have hrf : (packetPopped s f).rf = s.rf := rfl
  have hfld : ∀ x : Fld, (packetPopped s f).fld x = s.fld x := fun x => State.fld_of_rf_eq hrf x
  have htwin : twinSilent (packetPopped s f) = false := by
    rw [← hsilent, twinSilent, twinSilent, hfld, hfld]
    rfl
  have hdx' : (packetPopped s f).dxPresent = false := by
    rw [← hdx, State.dxPresent, State.dxPresent, State.pers, State.pers, hfld]
  have hbits : ([0, 1].filter fun p => nbit (u8 it.bytes 6) (7 - p)) = [0] := by
    rw [hports]
    decide
  have hto : packetPorts (packetPopped s f) f it = [0] := by
    rw [packetPorts, htwin, hdx', hbits]
    rfl
  have hclass := hfld (R.TXF.F_CFG.CLASS f)
  have htier : (packetPopped s f).flag (R.TXF.F_CFG.TIER f) = s.flag (R.TXF.F_CFG.TIER f) := State.flag_of_fld (hfld _)
  show ok (packetLaunch s f) = _
  rw [packetLaunch_item hpop]
  show ok (packetSent (packetPopped s f) f it []) = _
  rw [packetSent_clean ((hfld R.TWIN.CFG.ROLE).trans hrole)]
  show ok (releaseIfDone (portsMark ((packetPorts (packetPopped s f) f it).foldl (packetOnPort f it.ts
    ((packetPopped s f).fld (R.TXF.F_CFG.CLASS f)) ((packetPopped s f).flag (R.TXF.F_CFG.TIER f)) (it.bytes.drop 16)) (packetPopped s f))
    f it.ts false) f it.ts) = _
  rw [hto, hclass, htier]
  rfl

theorem packetLaunch_prime_goes {it : GItem} (he : (s.gq (512 + f)).elems = [.item it]) (hrd : (s.gq (512 + f)).rd = 0) (hlive : it.live = true)
    (hflips : s.gal.flips = []) (hports : u8 it.bytes 6 = 0x80) (hrole : s.fld R.TWIN.CFG.ROLE = 0) (hsilent : twinSilent s = false)
    (hdx : s.dxPresent = false) (hup : linkUp s 0 = true) (hwait : ∀ p ∈ s.txp, ∀ w ∈ p.wait, w.flow ≠ f)
    (htier : s.flag (R.TXF.F_CFG.TIER f) = true) : Goes (.packetLaunch f) s fun t =>
      (∃ pad, t.out = .netTx 0 (it.bytes.drop 16 ++ pad ++ leBytes 4 (crc32 (it.bytes.drop 16 ++ pad))) :: s.out ∧
        pad = List.replicate (60 - (it.bytes.drop 16).length) 0) ∧
      (t.gq (512 + f)).elems = [] ∧ t.txp = modifyAt s.txp 0 (fun x =>
        { x with wire := some (f, s.ticks + wireNs s 0 (it.bytes.drop 16).length / 2) }) ∧
      (t.txf f).pkts = modifyAt (s.txf f).pkts 0 (· + 1) := by
  refine ⟨_, packetLaunch_first he hrd hlive hflips hports hrole hsilent hdx, ?_⟩
  have hpframe : packetPopped s f = { s with gal := (packetPopped s f).gal } := rfl
  have hpgq : (packetPopped s f).gq (512 + f) = { s.gq (512 + f) with rd := 1 } := gq_setGq_self ..
  generalize packetPopped s f = v at hpframe hpgq
  have hvrf : v.rf = s.rf := by rw [hpframe]
  have hon : packetOnPort f it.ts (s.fld (R.TXF.F_CFG.CLASS f)) (s.flag (R.TXF.F_CFG.TIER f)) (it.bytes.drop 16) v 0 =
      launchFrame v f 0 (it.bytes.drop 16) := by
    rw [packetOnPort, if_neg (show ¬ 0 = 1 by decide), htier,
      show linkUp v 0 = true from (State.flag_of_fld (State.fld_of_rf_eq hvrf _)).trans hup]
    rfl
  rw [hon]
  obtain ⟨-, hgal, hout, htxp, hpkts⟩ := launchFrame_leaves v f 0 (it.bytes.drop 16)
  generalize launchFrame v f 0 (it.bytes.drop 16) = u at hgal hout htxp hpkts
  obtain ⟨hmark, hlen⟩ := portsMark_leaves u f it.ts false
  generalize portsMark u f it.ts false = w at hmark hlen
  have hwtxp : w.txp = modifyAt v.txp 0 (fun x => { x with wire := some (f, v.ticks + wireNs v 0 (it.bytes.drop 16).length / 2) }) := by
    rw [hmark]
    exact htxp
  have hnone : waitPorts w f it.ts = [] := waitPorts_none it.ts fun x hx y hy => by
    rw [hwtxp] at hx
    have hv : v.txp = s.txp := by rw [hpframe]
    rcases mem_modifyAt hx with hx | ⟨z, hz, rfl⟩
    · exact hwait x (hv ▸ hx) y hy
    · exact hwait z (hv ▸ hz) y hy
  obtain ⟨hrel, helems⟩ := releaseIfDone_leaves hnone
  generalize releaseIfDone w f it.ts = t at hrel helems
  have hall := hmark.trans hrel
  have hugq : (u.gq (512 + f)).elems = [.item it] := by
    rw [State.gq, hgal, ← State.gq, hpgq]
    exact he
  have htxf : t.txf f = u.txf f := congrArg (fun z => z.txf f) hall
  refine ⟨⟨_, ?_, rfl⟩, ?_, ?_, ?_⟩
  · rw [hall]
    show u.out = _
    rw [hout, hpframe]
  · rw [helems]
    exact List.drop_eq_nil_of_le (by rw [hlen, hugq]; exact le_rfl)
  · rw [hrel]
    show w.txp = _
    rw [hwtxp, wireNs_of_rf hvrf, hpframe]
  · rw [htxf, hpkts, State.txf, hpframe, State.txf]

end

end Sys2Proof.Machine
end

section
/-! Packets that wait for a port, the frames a port starts, and the packets of a funnel (R325, R327, R332, R396). -/

namespace Sys2Proof.Machine

section
variable {s t : State} {f p : Nat}

/-! ### A packet that waits (R325) -/

/-- A packet that joins its port's queue: it is all the packet's flow has there. -/
theorem waitPorts_first {x : TxWait} {u : State} (hlen : 2 ≤ s.txp.length) (hwait : ∀ p ∈ s.txp, ∀ w ∈ p.wait, w.flow ≠ x.flow)
    (hu : u.txp = modifyAt s.txp 0 fun y => { y with wait := y.wait ++ [x] }) : waitPorts u x.flow x.k = [0] := by
  have hone := any_wait_false (s := s) (p := 1) x.k hwait
  cases hs : s.txp with
  | nil =>
    rw [hs] at hlen
    cases hlen
  | cons a rest =>
    rw [hs] at hu hone
    have hzero : ((u.txp.getD 0 txpReset).wait.any fun w => w.flow == x.flow && w.k == x.k) = true := by
      rw [hu]
      show ((a.wait ++ [x]).any _) = true
      rw [List.any_append]
      simp
    have hsame : u.txp.getD 1 txpReset = (a :: rest).getD 1 txpReset := by rw [hu]; rfl
    rw [waitPorts, List.filter_cons, hzero, if_pos rfl, List.filter_cons, hsame, hone, if_neg Bool.false_ne_true, List.filter_nil]

theorem portsMark_same {it : GItem} (he : (s.gq (512 + f)).elems = [.item it]) (hports : u8 it.bytes 6 = 0x80)
    (hwait : waitPorts s f it.ts = [0]) : portsMark s f it.ts false = s := by
  have hv : b2n (([0] : List Nat).contains 0) * 128 + b2n (([0] : List Nat).contains 1) * 64 + b2n (false || nbit 0x80 5) * 32 = 0x80 := by
    decide
  unfold portsMark
  rw [he]
  dsimp only [List.head?_cons]
  split
  · rw [hwait, hports]
    exact if_neg fun h => h.2 hv
  · rfl

/-- A frame joins the queue of a port. -/
def waitJoined (s : State) (p : Nat) (x : TxWait) : State :=
  { s with txp := modifyAt s.txp p fun y => { y with wait := y.wait ++ [x] } }

theorem waitJoined_frame (s : State) (p : Nat) (x : TxWait) : waitJoined s p x = { s with txp := (waitJoined s p x).txp } := rfl

theorem txp_waitJoined (s : State) (p : Nat) (x : TxWait) :
    (waitJoined s p x).txp = modifyAt s.txp p fun y => { y with wait := y.wait ++ [x] } := rfl

/-- A bulk frame of class 0 that would have been due in a prime window is counted as slipped. -/
def bulkSlip (s : State) (f : Nat) : State := if (0 : Nat) = 0 ∧ inPrime s 0 = true then txCount s f 5 1 [R.TXF.F_STAT.SLIP_EV f] else s

theorem bulkSlip_frame (s : State) (f : Nat) : RfFrame s (bulkSlip s f) := by
  unfold bulkSlip
  split
  · exact txCount_frame s f 5 1 _
  · exact .refl s

theorem packetLaunch_bulk_goes {it : GItem} (he : (s.gq (512 + f)).elems = [.item it]) (hrd : (s.gq (512 + f)).rd = 0) (hlive : it.live = true)
    (hflips : s.gal.flips = []) (hports : u8 it.bytes 6 = 0x80) (hrole : s.fld R.TWIN.CFG.ROLE = 0) (hsilent : twinSilent s = false)
    (hdx : s.dxPresent = false) (hup : linkUp s 0 = true) (hwait : ∀ p ∈ s.txp, ∀ w ∈ p.wait, w.flow ≠ f) (hlen : 2 ≤ s.txp.length)
    (htier : s.flag (R.TXF.F_CFG.TIER f) = false) (hclass : s.fld (R.TXF.F_CFG.CLASS f) = 0) : Goes (.packetLaunch f) s fun t =>
      t.txp = modifyAt s.txp 0 (fun x => { x with wait := x.wait ++ [⟨f, it.ts, 0, it.bytes.drop 16⟩] }) ∧ t.out = s.out ∧
      (t.gq (512 + f)).elems = [.item it] := by
  refine ⟨_, packetLaunch_first he hrd hlive hflips hports hrole hsilent hdx, ?_⟩
  have hpframe : packetPopped s f = { s with gal := (packetPopped s f).gal } := rfl
  have hpgq : (packetPopped s f).gq (512 + f) = { s.gq (512 + f) with rd := 1 } := gq_setGq_self ..
  generalize packetPopped s f = v at hpframe hpgq
  have hvrf : v.rf = s.rf := by rw [hpframe]
  have hon : packetOnPort f it.ts (s.fld (R.TXF.F_CFG.CLASS f)) (s.flag (R.TXF.F_CFG.TIER f)) (it.bytes.drop 16) v 0 =
      waitJoined (bulkSlip v f) 0 ⟨f, it.ts, 0, it.bytes.drop 16⟩ := by
    rw [packetOnPort, if_neg (show ¬ 0 = 1 by decide), htier, hclass,
      show linkUp v 0 = true from (State.flag_of_fld (State.fld_of_rf_eq hvrf _)).trans hup]
    rfl
  rw [hon]
  have hslip := bulkSlip_frame v f
  generalize bulkSlip v f = w at hslip
  have hwtxp : w.txp = s.txp := by
    rw [hslip]
    show v.txp = _
    rw [hpframe]
  have hwout : w.out = s.out := by
    rw [hslip]
    show v.out = _
    rw [hpframe]
  have hwgal : w.gal = v.gal := by rw [hslip]
  have hjoin := waitJoined_frame w 0 ⟨f, it.ts, 0, it.bytes.drop 16⟩
  have hutxp := txp_waitJoined w 0 ⟨f, it.ts, 0, it.bytes.drop 16⟩
  rw [hwtxp] at hutxp
  generalize waitJoined w 0 ⟨f, it.ts, 0, it.bytes.drop 16⟩ = u at hjoin hutxp
  have hugal : u.gal = w.gal := by rw [hjoin]
  have huout : u.out = w.out := by rw [hjoin]
  have hports' : waitPorts u f it.ts = [0] := waitPorts_first (x := ⟨f, it.ts, 0, it.bytes.drop 16⟩) hlen hwait hutxp
  have hue : (u.gq (512 + f)).elems = [.item it] := by
    rw [State.gq, hugal, hwgal, ← State.gq, hpgq]
    exact he
  rw [portsMark_same hue hports hports', releaseIfDone, hports', if_neg (show ¬ ([0] : List Nat).isEmpty = true by decide)]
  exact ⟨hutxp, huout.trans hwout, hue⟩

/-! ### The frames a port starts (R325, R327) -/

theorem portFrameStart_down (h : linkUp s p = false) : exec (.portFrameStart p) s = .next s := by
  show execPortFrameStart p s = _
  rw [execPortFrameStart, h, if_pos (show (!false) = true from rfl)]

theorem getElem?_modifyAt {α : Type} (l : List α) (i : Nat) (g : α → α) : (modifyAt l i g)[i]? = l[i]?.map g := by
  induction l generalizing i with
  | nil => rfl
  | cons a l ih =>
    cases i with
    | zero => rfl
    | succ i => exact ih i

/-- Bringing the credits up to date changes neither what waits nor anything beyond the port. -/
theorem creditUpdate_leaves (s : State) (p : Nat) {x : TxPort} (h : s.txp[p]? = some x) : creditUpdate s p = { s with txp := (creditUpdate s p).txp } ∧
    ∃ y, (creditUpdate s p).txp[p]? = some y ∧ y.wait = x.wait := by
  refine ⟨rfl, ?_⟩
  unfold creditUpdate
  dsimp only
  rw [getElem?_modifyAt, h]
  exact ⟨_, rfl, rfl⟩

theorem nextFrame_empty {y : TxPort} (h : s.txp[p]? = some y) (hw : y.wait = []) : nextFrame s p = none := by
  have hget : s.txp.getD p txpReset = y := by rw [List.getD_eq_getElem?_getD, h]; rfl
  unfold nextFrame
  rw [hget]
  dsimp only
  rw [hw]
  simp

theorem nextFrame_single {y : TxPort} {w : TxWait} (h : s.txp[p]? = some y) (hw : y.wait = [w]) (hcls : w.cls = 0)
    (hfit : endsBeforePrime s p w.bytes.length = true) : nextFrame s p = some w := by
  have hget : s.txp.getD p txpReset = y := by rw [List.getD_eq_getElem?_getD, h]; rfl
  unfold nextFrame
  rw [hget]
  dsimp only
  rw [hw]
  simp [hcls, hfit]

/-- A waiting frame is taken off its port, at the expense of its class's credit. -/
def frameTaken (s : State) (p : Nat) (w : TxWait) : State :=
  { s with txp := modifyAt s.txp p fun x => { x with
    wait := x.wait.erase w
    creditA := if w.cls = 1 then
        x.creditA - ((lineKbps s p : Int) - s.fld (R.TXF.SHAPE_A.IDLE p)) * wireNs s p w.bytes.length else x.creditA
    creditB := if w.cls = 2 then
        x.creditB - ((lineKbps s p : Int) - s.fld (R.TXF.SHAPE_B.IDLE p)) * wireNs s p w.bytes.length else x.creditB } }

theorem portFrameStart_queued {w : TxWait} (hup : linkUp s p = true) (h : nextFrame (creditUpdate s p) p = some w) (hflow : 256 ≤ w.flow) :
    exec (.portFrameStart p) s = .next (sendFrame (frameTaken (creditUpdate s p) p w) p w.bytes) := by
  show execPortFrameStart p s = _
  unfold execPortFrameStart
  rw [hup, if_neg (by decide)]
  dsimp only
  rw [h]
  dsimp only
  rw [if_neg (by omega)]
  rfl

theorem portFrameStart_goes {x : TxPort} {w : TxWait} (hup : linkUp s p = true) (hx : s.txp[p]? = some x) (hw : x.wait = [w]) (hcls : w.cls = 0)
    (hflow : 256 ≤ w.flow) (hfit : endsBeforePrime s p w.bytes.length = true) : Goes (.portFrameStart p) s fun t =>
      t = { s with txp := t.txp, net := t.net, out := t.out } ∧ (∃ y, t.txp[p]? = some y ∧ y.wait = []) ∧
      t.out = .netTx p (w.bytes ++ List.replicate (60 - w.bytes.length) 0 ++
        leBytes 4 (crc32 (w.bytes ++ List.replicate (60 - w.bytes.length) 0))) :: s.out := by
  obtain ⟨hframe, y, hy, hwait⟩ := creditUpdate_leaves s p hx
  have hends : endsBeforePrime (creditUpdate s p) p w.bytes.length = true := by
    rw [← hfit, hframe]
    rfl
  refine ⟨_, portFrameStart_queued hup (nextFrame_single hy (hwait.trans hw) hcls hends) hflow, ?_⟩
  generalize creditUpdate s p = u at hframe hy
  have htaken : frameTaken u p w = { u with txp := (frameTaken u p w).txp } := rfl
  have hgone : ∃ z, (frameTaken u p w).txp[p]? = some z ∧ z.wait = [] := by
    unfold frameTaken
    rw [getElem?_modifyAt, hy]
    refine ⟨_, rfl, ?_⟩
    show y.wait.erase w = []
    rw [hwait, hw, List.erase_cons_head]
  generalize frameTaken u p w = v at htaken hgone
  have hsend := sendFrame_frame v p w.bytes
  generalize sendFrame v p w.bytes = t at hsend
  have htxp : t.txp = v.txp := by rw [hsend]
  have hout : v.out = s.out := by rw [htaken, hframe]
  refine ⟨?_, by rw [htxp]; exact hgone, by rw [hsend, hout]⟩
  rw [hsend, htaken, hframe]

theorem portFrameStart_nothing_goes {x : TxPort} (hup : linkUp s p = true) (hx : s.txp[p]? = some x) (hw : x.wait = [])
    (hq : compositorQueue s p = none) : Goes (.portFrameStart p) s fun t => t = { s with txp := t.txp } := by
  obtain ⟨hframe, y, hy, hwait⟩ := creditUpdate_leaves s p hx
  have hqueue : compositorQueue (creditUpdate s p) p = none := by
    rw [← hq, hframe]
    rfl
  have hexec : exec (.portFrameStart p) s = .next (creditUpdate s p) := by
    show execPortFrameStart p s = _
    unfold execPortFrameStart
    rw [hup, if_neg (by decide)]
    dsimp only
    rw [nextFrame_empty hy (hwait.trans hw)]
    dsimp only
    rw [hqueue]
  exact ⟨_, hexec, hframe⟩

end

end Sys2Proof.Machine
end

section
/-! The packets of a funnel (R332), and the obligation on network egress. -/

namespace Sys2Proof.Machine

section
variable {s t : State} {j : Nat}

/-- The first element taken out of a queue. -/
theorem takeElem_front {it : GItem} {q : Nat} (he : (s.gq q).elems = [.item it]) : GalFrame s (takeElem s q 0) ∧
    ((takeElem s q 0).gq q).elems = [] ∧ Touches [R.GAL.EVT.LOW] s (takeElem s q 0) := by
  unfold takeElem
  dsimp only
  rw [he]
  dsimp only [List.getElem?_cons_zero, List.eraseIdx_cons_zero]
  refine ⟨galFrame_galRefresh ((galFrame_spill s it.cells it.bytes).setGq q _), ?_,
    touches_galRefresh (touches_setGq (touches_spill (.refl _ s) it.cells it.bytes) q _) (List.mem_singleton_self _)⟩
  rw [gq_galRefresh]
  exact congrArg GQueue.elems (gq_setGq_self (spillElem s (.item it)) q _)

/-- A field outside the galley's events where only those have been touched. -/
theorem fld_of_low (h : Touches [R.GAL.EVT.LOW] s t) {x : Fld} (hx : x.key ≠ R.GAL.EVT.LOW.key) : t.fld x = s.fld x :=
  h.fld fun g hg => by
    rw [List.mem_singleton.mp hg]
    exact Fld.apart_of_key_ne hx

/-- A funnel's packet that has been taken is counted where it comes late, and otherwise joins the queues of its ports. -/
def funnelGone (s : State) (j : Nat) (it : GItem) (late : Bool) : State :=
  if late then (s.setFld (R.TXF.FUN_STAT.FUN_LATE_EV j) 1).count (R.TXF.FUN_STAT.FUN_LATE j)
  else ([0, 1].filter fun p => nbit (s.fld (R.TXF.FUN_CFG.PATHS j)) p && linkUp s p && !twinSilent s).foldl
    (fun s p => waitJoined s p ⟨256 + j, it.ts, 0, if p = 1 then
      overlay (it.bytes.drop 16) 6 (beBytes 2 (s.fld (R.NET.MAC_HI.ADDR 1) % 65536) ++ beBytes 4 (s.fld (R.NET.MAC_LO.ADDR 1)))
      else it.bytes.drop 16⟩) s

theorem funnelLaunch_front {it : GItem} (late : Bool) (hj : j < 64) (hen : s.flag (R.TXF.FUN_CFG.EN j) = true)
    (hm : s.fld (R.TXF.FUN_CFG.MEMBER j) ≠ 0) (hflips : s.gal.flips = [])
    (he : (s.gq (951 + s.fld (R.TXF.FUN_CFG.MEMBER j))).elems = [.item it]) (hlive : it.live = true)
    (hflow : u8 it.bytes 7 = s.fld (R.TXF.FUN_CFG.FLOW j)) : exec (.funnelLaunch j late) s =
      .next (funnelGone (takeElem s (951 + s.fld (R.TXF.FUN_CFG.MEMBER j)) 0) j it late) := by
  have hvis : (s.gq (951 + s.fld (R.TXF.FUN_CFG.MEMBER j))).visible = 1 := by
    rw [GQueue.visible, he, List.takeWhile_cons, GElem.live, hlive, if_pos rfl, List.takeWhile_nil]
    rfl
  have hfound : (u8 it.bytes 7 == s.fld (R.TXF.FUN_CFG.FLOW j)) = true := beq_iff_eq.mpr hflow
  have hgo : ¬ ((!true) = true ∨ 951 + s.fld (R.TXF.FUN_CFG.MEMBER j) = 951) := by
    rintro (h | h)
    · cases h
    · omega
  show execFunnelLaunch j late s = _
  unfold execFunnelLaunch
  rw [Nat.mod_eq_of_lt hj]
  dsimp only
  rw [hen, if_neg hgo, hvis, he]
  have hmap : ([GElem.item it].take 1).mapIdx (fun i e => (i, e)) = [(0, .item it)] := rfl
  rw [hmap, List.find?_cons_of_pos (by exact hfound)]
  dsimp only
  rw [checkCells_clean hflips]
  dsimp only
  cases late with
  | true => rfl
  | false =>
    rw [if_neg Bool.false_ne_true, if_neg (by intro h; exact absurd h.1 (by decide))]
    rfl

theorem funnelLaunch_late {it : GItem} (hj : j < 64) (hen : s.flag (R.TXF.FUN_CFG.EN j) = true)
    (hm : s.fld (R.TXF.FUN_CFG.MEMBER j) ≠ 0) (hflips : s.gal.flips = [])
    (he : (s.gq (951 + s.fld (R.TXF.FUN_CFG.MEMBER j))).elems = [.item it]) (hlive : it.live = true)
    (hflow : u8 it.bytes 7 = s.fld (R.TXF.FUN_CFG.FLOW j)) : Goes (.funnelLaunch j true) s fun t =>
      t.fld (R.TXF.FUN_STAT.FUN_LATE_EV j) = 1 ∧
      t.fld (R.TXF.FUN_STAT.FUN_LATE j) = min 65535 (s.fld (R.TXF.FUN_STAT.FUN_LATE j) + 1) ∧ t.txp = s.txp ∧
      (t.gq (951 + s.fld (R.TXF.FUN_CFG.MEMBER j))).elems = [] := by
  refine ⟨_, funnelLaunch_front true hj hen hm hflips he hlive hflow, ?_⟩
  obtain ⟨hframe, helems, htouch⟩ := takeElem_front he
  generalize takeElem s (951 + s.fld (R.TXF.FUN_CFG.MEMBER j)) 0 = u at hframe helems htouch
  have hkey : (R.TXF.FUN_STAT.FUN_LATE j).key ≠ R.GAL.EVT.LOW.key := by
    simp only [R.GAL.EVT.LOW, R.TXF.FUN_STAT.FUN_LATE]
    omega
  have hcount : u.fld (R.TXF.FUN_STAT.FUN_LATE j) = s.fld (R.TXF.FUN_STAT.FUN_LATE j) := fld_of_low htouch hkey
  have hset : ∀ v : State, (v.count (R.TXF.FUN_STAT.FUN_LATE j)).fld (R.TXF.FUN_STAT.FUN_LATE_EV j) = v.fld (R.TXF.FUN_STAT.FUN_LATE_EV j) := fun v => by
    unfold State.count
    split
    · exact State.fld_setFld_below _ _ rfl
    · exact State.fld_setFld_below _ _ rfl
  have hmin : ∀ v : State, (v.count (R.TXF.FUN_STAT.FUN_LATE j)).fld (R.TXF.FUN_STAT.FUN_LATE j) =
      min 65535 (v.fld (R.TXF.FUN_STAT.FUN_LATE j) + 1) := fun v => fld_count_min v rfl
  have hgone : funnelGone u j it true = (u.setFld (R.TXF.FUN_STAT.FUN_LATE_EV j) 1).count (R.TXF.FUN_STAT.FUN_LATE j) := rfl
  have hcf := State.count_frame (u.setFld (R.TXF.FUN_STAT.FUN_LATE_EV j) 1) (R.TXF.FUN_STAT.FUN_LATE j)
  have hev : (u.setFld (R.TXF.FUN_STAT.FUN_LATE_EV j) 1).fld (R.TXF.FUN_STAT.FUN_LATE_EV j) = 1 := State.fld_setFld_mod _ _ _ rfl
  have hkept : (u.setFld (R.TXF.FUN_STAT.FUN_LATE_EV j) 1).fld (R.TXF.FUN_STAT.FUN_LATE j) = u.fld (R.TXF.FUN_STAT.FUN_LATE j) :=
    State.fld_setFld_above _ _ rfl
  have hsf : u.setFld (R.TXF.FUN_STAT.FUN_LATE_EV j) 1 = { u with rf := (u.setFld (R.TXF.FUN_STAT.FUN_LATE_EV j) 1).rf } := rfl
  rw [hgone]
  generalize u.setFld (R.TXF.FUN_STAT.FUN_LATE_EV j) 1 = v at *
  refine ⟨(hset v).trans hev, by rw [hmin, hkept, hcount], ?_, ?_⟩
  · rw [hcf, hsf, hframe]
  · rw [gq_of_qs (show _ = v.gal.qs by rw [hcf]), gq_of_qs (show v.gal.qs = u.gal.qs by rw [hsf]), helems]

theorem funnelLaunch_joins {it : GItem} (hj : j < 64) (hen : s.flag (R.TXF.FUN_CFG.EN j) = true)
    (hm : s.fld (R.TXF.FUN_CFG.MEMBER j) ≠ 0) (hflips : s.gal.flips = [])
    (he : (s.gq (951 + s.fld (R.TXF.FUN_CFG.MEMBER j))).elems = [.item it]) (hlive : it.live = true)
    (hflow : u8 it.bytes 7 = s.fld (R.TXF.FUN_CFG.FLOW j)) (hpaths : s.fld (R.TXF.FUN_CFG.PATHS j) = 1)
    (hup : linkUp s 0 = true) (hsilent : twinSilent s = false) : Goes (.funnelLaunch j false) s fun t =>
      t.txp = modifyAt s.txp 0 (fun x => { x with wait := x.wait ++ [⟨256 + j, it.ts, 0, it.bytes.drop 16⟩] }) ∧
      (t.gq (951 + s.fld (R.TXF.FUN_CFG.MEMBER j))).elems = [] ∧ Touches [R.GAL.EVT.LOW] s t := by
  refine ⟨_, funnelLaunch_front false hj hen hm hflips he hlive hflow, ?_⟩
  obtain ⟨hframe, helems, htouch⟩ := takeElem_front he
  generalize takeElem s (951 + s.fld (R.TXF.FUN_CFG.MEMBER j)) 0 = u at hframe helems htouch
  have hpath : u.fld (R.TXF.FUN_CFG.PATHS j) = 1 := (fld_of_low htouch (by
    simp only [R.GAL.EVT.LOW, R.TXF.FUN_CFG.PATHS]
    omega)).trans hpaths
  have hlink : linkUp u 0 = true := (State.flag_of_fld (fld_of_low htouch (by decide))).trans hup
  have htwin : twinSilent u = false := by
    rw [← hsilent, twinSilent, twinSilent, fld_of_low htouch (show R.TWIN.STAT.STATE.key ≠ _ by decide),
      fld_of_low htouch (show R.TWIN.CFG.ROLE.key ≠ _ by decide), congrArg (fun w => w.ticks) hframe, congrArg (fun w => w.twin) hframe]
  have hports : ([0, 1].filter fun p => nbit (u.fld (R.TXF.FUN_CFG.PATHS j)) p && linkUp u p && !twinSilent u) = [0] := by
    rw [hpath, List.filter_cons, hlink, htwin]
    rfl
  have hgone : funnelGone u j it false = waitJoined u 0 ⟨256 + j, it.ts, 0, it.bytes.drop 16⟩ := by
    unfold funnelGone
    rw [if_neg Bool.false_ne_true, hports]
    rfl
  have hjoin := waitJoined_frame u 0 ⟨256 + j, it.ts, 0, it.bytes.drop 16⟩
  have htxp := txp_waitJoined u 0 ⟨256 + j, it.ts, 0, it.bytes.drop 16⟩
  rw [hgone]
  generalize waitJoined u 0 ⟨256 + j, it.ts, 0, it.bytes.drop 16⟩ = v at hjoin htxp
  refine ⟨?_, ?_, touches_rf ?_ htouch⟩
  · rw [htxp, hframe]
  · rw [gq_of_qs (show v.gal.qs = u.gal.qs by rw [hjoin]), helems]
  · rw [hjoin]

end

/-- Settles O43. -/
theorem networkEgressSteps : Obligations.NetworkEgressSteps := by
  unfold Obligations.NetworkEgressSteps
  intro s f hf
  refine ⟨fun n c => txFlowStart_goes, ?_, packetLaunch_none, ?_, fun p => portFrameStart_down, fun p x w => portFrameStart_goes,
    fun p x => portFrameStart_nothing_goes, ?_⟩
  · intro x k n frame
    exact packetClose_goes hf
  · intro it he hrd hlive hflips hports hrole hsilent hdx hup hwait hlen
    exact ⟨packetLaunch_prime_goes he hrd hlive hflips hports hrole hsilent hdx hup hwait,
      packetLaunch_bulk_goes he hrd hlive hflips hports hrole hsilent hdx hup hwait hlen⟩
  · intro j it hj hen hm hflips he hlive hflow
    exact ⟨funnelLaunch_late hj hen hm hflips he hlive hflow, funnelLaunch_joins hj hen hm hflips he hlive hflow⟩

end Sys2Proof.Machine
end

section
/-! Frames on the stack's links that are forwarded, fail their check or come out of order (R376 to R379, R393). -/

namespace Sys2Proof.Machine

section
variable {s t : State} {l cls : Nat}

/-! ### The records of links and blocks -/

theorem slink_setSlink_ne (s : State) {l m : Nat} (x : StkLinkRec) (h : m ≠ l) : (s.setSlink l x).slink m = s.slink m :=
  getD_modifyAt_ne _ _ _ h

theorem sblk_setSblk_self (s : State) (i : Nat) (x : StkBlk) : (s.setSblk i x).sblk i = x := sGet_put_self ..

/-- A link's record changed without its sequence numbers: whatever the link reads as, they are the same. -/
theorem slink_setSlink_with (s : State) (l m : Nat) {x : StkLinkRec} {α : Type} (g : StkLinkRec → α) (h : g x = g (s.slink l)) :
    g ((s.setSlink l x).slink m) = g (s.slink m) := by
  by_cases hm : m = l
  · subst hm
    by_cases hlen : m < s.stk.links.length
    · exact (congrArg g (getD_modifyAt_self (l := s.stk.links) (fun _ => x) linkReset hlen)).trans h
    · have hsame : (s.setSlink m x).stk.links = s.stk.links := modifyAt_of_length_le _ (by omega)
      rw [State.slink, hsame, State.slink]
  · rw [slink_setSlink_ne s x hm]

/-- Links and outputs alone change. -/
def LinkFrame (s t : State) : Prop := t = { s with stk := { s.stk with links := t.stk.links }, out := t.out }

theorem LinkFrame.trans {u : State} (h : LinkFrame s t) (k : LinkFrame t u) : LinkFrame s u := by
  unfold LinkFrame at *
  rw [k, h]

theorem LinkFrame.rf (h : LinkFrame s t) : t.rf = s.rf := by rw [h]

theorem setSlink_frame (s : State) (l : Nat) (x : StkLinkRec) : LinkFrame s (s.setSlink l x) := rfl

theorem stkOut_frame (s : State) (l : Nat) (o : Out) : LinkFrame s (stkOut s l o) ∧ (stkOut s l o).out = o :: s.out := ⟨rfl, rfl⟩

/-! ### A muted block (R385, R393) -/

theorem soItemSend_muted_goes {b n : Nat} {x : StkBlk} (hb : b < 22) (hx : x = s.sblk b) (hn : n = max 1 (stkN s b)) (hrun : blkState s b = 2)
    (hdue : x.k + n ≤ mcsCount s (s.fld (R.STK.B_CFG.MCS b))) (hmuted : stkMuted s = true) : Goes (.soItemSend b) s fun t =>
      t = { s with stk := t.stk } ∧ t.sblk b = { x with k := x.k + n, seq := (x.seq + 1) % 65536 } := by
  subst hx hn
  have hexec : exec (.soItemSend b) s = .next (s.setSblk b { s.sblk b with
      k := (s.sblk b).k + max 1 (stkN s b), seq := ((s.sblk b).seq + 1) % 65536 }) := by
    show execSoItemSend b s = _
    unfold execSoItemSend
    rw [Nat.mod_eq_of_lt hb]
    dsimp only
    rw [if_pos ⟨hrun, hdue⟩, hmuted]
    rfl
  exact ⟨_, hexec, rfl, sblk_setSblk_self ..⟩

/-! ### Frames that are not taken -/

theorem synzoFrameRx_down {dest src flags seq : Nat} {item : List Byte} {good : Bool} {msg : StkMsg} (h : 2 ≤ l ∨ stkUp s l = false) :
    exec (.synzoFrameRx l cls dest src flags seq item good msg) s = .next s := by
  show execSynzoFrameRx l cls dest src flags seq item good msg s = _
  unfold execSynzoFrameRx
  rw [if_pos (h.imp_right fun h => .inl (by rw [h]; rfl))]

theorem synzoFrameRx_up (hl : l < 2) (hup : stkUp s l = true) (hon : s.domOn 7 = true) : ¬ (2 ≤ l ∨ (!stkUp s l) = true ∨ (!s.domOn 7) = true) := by
  rw [hup, hon]
  simp
  omega

/-- A frame that fails its check is counted for its link. -/
theorem stkCount_leaves (s : State) {i : Nat} (hi : i < 6) : RfFrame s (stkCount s i) ∧ (stkCount s i).fld R.STK.STAT.ERR_EV = 1 ∧
    (stkCount s i).fld (R.STK.CRC_ERR.COUNT i) = min (2 ^ 32 - 1) (s.fld (R.STK.CRC_ERR.COUNT i) + 1) ∧
    Touches [R.STK.STAT.ERR_EV, R.STK.CRC_ERR.COUNT i, R.STK.SAT.SAT_F] s (stkCount s i) := by
  have hkey : ({ R.STK.CRC_ERR.COUNT 0 with key := (R.STK.CRC_ERR.COUNT 0).key + 4 * i } : Fld) = R.STK.CRC_ERR.COUNT i := rfl
  have hev : (s.setFld R.STK.STAT.ERR_EV 1).fld R.STK.STAT.ERR_EV = 1 := State.fld_setFld_mod s _ 1 rfl
  have hne : (R.STK.CRC_ERR.COUNT i).key ≠ R.STK.STAT.ERR_EV.key := by
    simp only [R.STK.CRC_ERR.COUNT, R.STK.STAT.ERR_EV]
    omega
  have hcount : (s.setFld R.STK.STAT.ERR_EV 1).fld (R.STK.CRC_ERR.COUNT i) = s.fld (R.STK.CRC_ERR.COUNT i) := State.fld_setFld_ne s 1 hne
  have hframe : RfFrame s (s.setFld R.STK.STAT.ERR_EV 1) := (RfFrame.refl s).setFld _ _
  have htouch : Touches [R.STK.STAT.ERR_EV] s (s.setFld R.STK.STAT.ERR_EV 1) := touches_setFld (by simp) (.refl _ s)
  unfold stkCount
  rw [hkey]
  generalize s.setFld R.STK.STAT.ERR_EV 1 = u at hev hcount hframe htouch
  have hu : Touches [R.STK.CRC_ERR.COUNT i, R.STK.SAT.SAT_F] u (u.countSat (R.STK.CRC_ERR.COUNT i) R.STK.SAT.SAT_F i) :=
    touches_countSat _ (by simp) (by simp) (.refl _ u)
  refine ⟨hframe.trans (countSat_frame ..), (hu.fld fun g hg => Fld.apart_of_key_ne ?_).trans hev, ?_,
    (htouch.mono (by simp)).trans (hu.mono (by simp))⟩
  · simp only [List.mem_cons, List.not_mem_nil, or_false] at hg
    rcases hg with rfl | rfl
    · exact hne.symm
    · decide
  · rw [fld_countSat u i rfl (by simp only [R.STK.CRC_ERR.COUNT, R.STK.SAT.SAT_F]; omega), hcount]
    rfl

theorem synzoFrameRx_bad_goes {dest src flags seq : Nat} {item : List Byte} {msg : StkMsg} (hl : l < 2) (hup : stkUp s l = true)
    (hon : s.domOn 7 = true) (hcls : cls < 3) : Goes (.synzoFrameRx l cls dest src flags seq item false msg) s fun t =>
      t = { s with rf := t.rf } ∧ t.fld R.STK.STAT.ERR_EV = 1 ∧
      t.fld (R.STK.CRC_ERR.COUNT l) = min (2 ^ 32 - 1) (s.fld (R.STK.CRC_ERR.COUNT l) + 1) := by
  obtain ⟨hframe, hev, hcount, htouch⟩ := stkCount_leaves s (i := l) (by omega)
  have hfail : stkCrcFail s l cls = stkCount s l := if_pos (.inl hcls)
  have hstill : follow s (stkCount s l) = stkCount s l := follow_of_touches htouch fun f hf => by
    simp only [List.mem_cons, List.not_mem_nil, or_false] at hf
    rcases hf with rfl | rfl | rfl
    · unfold Unfollowed; decide
    · unfold Unfollowed
      simp only [R.STK.CRC_ERR.COUNT, R.TIME.PTI_PORT_STATE.reg, R.TIME.PTI_STAT.reg, R.CLK.MCS_STAT.reg, R.CLK.MCS_FREQ.reg]
      exact ⟨fun n hn => ⟨by omega, by omega⟩, fun n hn => ⟨by omega, by omega⟩⟩
    · unfold Unfollowed; decide
  have hexec : exec (.synzoFrameRx l cls dest src flags seq item false msg) s = .next (stkCount s l) := by
    show execSynzoFrameRx l cls dest src flags seq item false msg s = _
    unfold execSynzoFrameRx
    rw [if_neg (synzoFrameRx_up hl hup hon), if_pos (show (!false) = true from rfl), if_neg (by omega)]
    dsimp only
    rw [hfail, hstill]
  exact ⟨_, hexec, hframe, hev, hcount⟩

/-! ### A frame for other positions goes on -/

theorem setBit_of_clear {n i : Nat} (h : nbit n i = false) : setBit n i false = n := by
  unfold setBit
  rw [h]
  rfl

/-- The state in which a link has taken a frame of a class that is not numbered. -/
def frameSeen (s : State) (l : Nat) (msg : StkMsg) : State :=
  s.setSlink l { s.slink l with
    rxN := (s.slink l).rxN + 1
    rxStamp := eventStamp s true
    tries := match msg with
      | .lost _ _ => (s.slink l).tries
      | _ => (s.slink l).tries }

theorem stkSend_leaves (s : State) {l cls dest src flags : Nat} {item : List Byte} (h : cls < 3) :
    LinkFrame s (stkSend s l cls dest src flags item) ∧
    (stkSend s l cls dest src flags item).out = .synzo l ⟨cls, dest, src, flags, (s.slink l).seq.getD cls 0, item⟩ :: s.out := by
  unfold stkSend
  dsimp only
  rw [if_pos h]
  have hset := setSlink_frame s l { s.slink l with seq := modifyAt (s.slink l).seq cls fun n => (n + 1) % 65536 }
  have hout : (s.setSlink l { s.slink l with seq := modifyAt (s.slink l).seq cls fun n => (n + 1) % 65536 }).out = s.out := rfl
  generalize s.setSlink l { s.slink l with seq := modifyAt (s.slink l).seq cls fun n => (n + 1) % 65536 } = u at hset hout
  obtain ⟨hf, ho⟩ := stkOut_frame u l (.synzo l ⟨cls, dest, src, flags, (s.slink l).seq.getD cls 0, item⟩)
  exact ⟨hset.trans hf, ho.trans (by rw [hout])⟩

theorem synzoFrameRx_forward_goes {dest src flags seq : Nat} {item : List Byte} (hl : l < 2) (hup : stkUp s l = true)
    (hother : stkUp s (1 - l) = true) (hon : s.domOn 7 = true) (hdest : nbit dest (stkPos s) = false) (hne : dest ≠ 0) :
    Goes (.synzoFrameRx l 2 dest src flags seq item true .none) s fun t =>
      t = { s with
        stk := { s.stk with links := t.stk.links }
        out := .synzo (1 - l) ⟨2, dest, src, flags, (s.slink (1 - l)).seq.getD 2 0, item⟩ :: s.out } := by
  have hexec : exec (.synzoFrameRx l 2 dest src flags seq item true .none) s =
      .next (follow s (stkForward (frameSeen s l .none) l 2 dest src flags item)) := by
    show execSynzoFrameRx l 2 dest src flags seq item true .none s = _
    unfold execSynzoFrameRx
    rw [if_neg (synzoFrameRx_up hl hup hon), if_neg (show ¬ (!true) = true by decide), if_neg (by decide), if_neg (fun h => absurd h.1 (by decide))]
    dsimp only
    rw [if_neg (show ¬ 2 = 0 by decide), hdest, if_neg Bool.false_ne_true]
    rfl
  refine ⟨_, hexec, ?_⟩
  have hseen : LinkFrame s (frameSeen s l .none) := rfl
  have hout : (frameSeen s l .none).out = s.out := rfl
  have hlink : (frameSeen s l .none).slink (1 - l) = s.slink (1 - l) := slink_setSlink_ne s _ (by omega)
  generalize frameSeen s l .none = u at hseen hout hlink
  have hpos : stkPos u = stkPos s := State.fld_of_rf_eq hseen.rf _
  have hgo : stkForward u l 2 dest src flags item = stkSend u (1 - l) 2 dest src flags item := by
    unfold stkForward
    rw [hpos, setBit_of_clear hdest]
    dsimp only
    rw [if_neg hne, show stkUp u (1 - l) = true from (State.flag_of_fld (State.fld_of_rf_eq hseen.rf _)).trans hother]
    rw [if_pos rfl, show stkUp u (1 - l) = true from (State.flag_of_fld (State.fld_of_rf_eq hseen.rf _)).trans hother, if_pos rfl]
  obtain ⟨hframe, ho⟩ := stkSend_leaves u (l := 1 - l) (dest := dest) (src := src) (flags := flags) (item := item) (cls := 2) (by decide)
  rw [hgo]
  generalize stkSend u (1 - l) 2 dest src flags item = v at hframe ho
  have hall := hseen.trans hframe
  rw [follow_of_rf hall.rf]
  rw [hlink, hout] at ho
  rw [← ho]
  exact hall

/-! ### A frame out of order -/

theorem stkAsk_leaves (s : State) (l cls : Nat) : LinkFrame s (stkAsk s l cls) ∧
    (stkAsk s l cls).out = .stkTell l (.lost cls ((s.slink l).rseq.getD cls 0)) :: s.out := ⟨rfl, rfl⟩

theorem synzoFrameRx_disorder_goes {dest src flags seq e : Nat} {item : List Byte} {msg : StkMsg} (hl : l < 2) (hup : stkUp s l = true)
    (hon : s.domOn 7 = true) (hlo : 3 ≤ cls) (hhi : cls < 5) (he : e = (s.slink l).rseq.getD cls 0) (hne : seq ≠ e) :
    Goes (.synzoFrameRx l cls dest src flags seq item true msg) s fun t =>
      t = { s with stk := { s.stk with links := t.stk.links }, out := t.out } ∧
      t.out = (if (seq + 65536 - e) % 65536 < 32768 ∧ (s.slink l).asked.contains cls = false then [.stkTell l (.lost cls e)]
        else []) ++ s.out := by
  subst he
  have hexec : exec (.synzoFrameRx l cls dest src flags seq item true msg) s = .next (stkDisorder (s.setSlink l { s.slink l with
      rxN := (s.slink l).rxN + 1, rxStamp := eventStamp s true }) l cls seq) := by
    show execSynzoFrameRx l cls dest src flags seq item true msg s = _
    unfold execSynzoFrameRx
    rw [if_neg (synzoFrameRx_up hl hup hon), if_neg (show ¬ (!true) = true by decide), if_neg (by omega), if_pos ⟨hlo, hne⟩]
  refine ⟨_, hexec, ?_⟩
  have hset := setSlink_frame s l { s.slink l with rxN := (s.slink l).rxN + 1, rxStamp := eventStamp s true }
  have hout : (s.setSlink l { s.slink l with rxN := (s.slink l).rxN + 1, rxStamp := eventStamp s true }).out = s.out := rfl
  have hrseq := slink_setSlink_with s l l (x := { s.slink l with rxN := (s.slink l).rxN + 1, rxStamp := eventStamp s true })
    (fun x => x.rseq) rfl
  have hasked := slink_setSlink_with s l l (x := { s.slink l with rxN := (s.slink l).rxN + 1, rxStamp := eventStamp s true })
    (fun x => x.asked) rfl
  generalize s.setSlink l { s.slink l with rxN := (s.slink l).rxN + 1, rxStamp := eventStamp s true } = u at hset hout hrseq hasked
  obtain ⟨hframe, ho⟩ := stkAsk_leaves u l cls
  unfold stkDisorder
  dsimp only
  rw [hrseq, hasked]
  split
  · generalize stkAsk u l cls = v at hframe ho
    exact ⟨hset.trans hframe, by rw [ho, hrseq, hout]; rfl⟩
  · exact ⟨hset, hout⟩

end

end Sys2Proof.Machine
end

section
/-! The item of a stack-out block, sent at once on one link (R377, R378, R393). -/

namespace Sys2Proof.Machine

section
variable {s t : State} {b q : Nat}

/-! ### The words of an item -/

/-- The words of one index of a stack-out block. -/
def soRow (s : State) (i k : Nat) (a : List Byte × State) : List Byte × State :=
  (List.range (s.fld (R.STK.B_CFG.CHANNELS i))).foldl
    (fun a c => hrWord s (0x1200 + s.fld (R.STK.B_CFG.BASE i) + c * mcsMult s (s.fld (R.STK.B_CFG.MCS i))) k a) a

theorem soWords_eq (s : State) (i k : Nat) :
    soWords s i k = (List.range (stkN s i)).foldl (fun a j => soRow s i (k + j) a) ([], s) := rfl

theorem appends_soWords (s : State) (i k : Nat) : Appends (stkWords s i) ([], s) (soWords s i k) := by
  have hrow : ∀ a j, Appends (s.fld (R.STK.B_CFG.CHANNELS i) * 4) a (soRow s i (k + j) a) := fun a j => by
    have := Appends.foldl (fun a c => appends_hrWord s (0x1200 + s.fld (R.STK.B_CFG.BASE i) +
      c * mcsMult s (s.fld (R.STK.B_CFG.MCS i))) (k + j) a) (List.range (s.fld (R.STK.B_CFG.CHANNELS i))) a
    rwa [List.length_range] at this
  have := Appends.foldl hrow (List.range (stkN s i)) ([], s)
  rwa [List.length_range, ← soWords_eq, Nat.mul_left_comm, ← Nat.mul_assoc] at this

/-- A stack-out block's item with its descriptor. -/
def soItem (s : State) (b : Nat) (x : StkBlk) : List Byte :=
  elemHeader 2 (16 + stkWords s b) ++ leBytes 2 x.seq ++ [0, byteOf b] ++ leBytes 4 x.k ++
    leBytes 4 (blockTime s (s.fld (R.STK.B_CFG.MCS b)) (s.mcsPti (s.fld (R.STK.B_CFG.MCS b))) x.k) ++ (soWords s b x.k).1

theorem length_soItem (s : State) (b : Nat) (x : StkBlk) : (soItem s b x).length = 16 + stkWords s b := by
  obtain ⟨hlen, -⟩ := appends_soWords s b x.k
  simp only [soItem, elemHeader, List.length_append, length_leBytes, List.length_cons, List.length_nil, hlen]
  omega

/-! ### The head of a queue goes out on one link -/

/-- The one item of a queue is popped with no bit inverted, or was read already: it is not poisoned. -/
theorem galPop_single {it : GItem} (he : (s.gq q).elems = [.item it]) (hflips : s.gal.flips = []) :
    ∃ r u, galPop s q = (r, u) ∧ (match r with | some (_, bad) => !bad.isEmpty | none => false) = false ∧ GalFrame s u ∧ u.rf = s.rf ∧
      (u.gq q).elems = [.item it] ∧ ∀ p, p ≠ q → u.gq p = s.gq p := by
  by_cases hd : (s.gq q).depth = 0
  · exact ⟨none, s, galPop_empty hd, rfl, .refl s, rfl, he, fun _ _ => rfl⟩
  · have hrd : (s.gq q).rd = 0 := by
      have hvis : (s.gq q).visible ≤ 1 := by
        rw [GQueue.visible, he]
        exact (List.takeWhile_sublist _).length_le
      rw [GQueue.depth] at hd
      omega
    refine ⟨_, _, galPop_clean hd (e := .item it) (by rw [he, hrd]; rfl) hflips, rfl, rfl, rfl, ?_, fun p hp => gq_setGq_ne s _ hp⟩
    rw [gq_setGq_self]
    exact he

/-- A link takes the frames of an item. -/
def linkSends (q cls src cells : Nat) (it : GItem) (poison : Bool) (s : State) (w : Nat × Nat) : State :=
  let y := s.slink w.1
  let s := s.setSlink w.1 { y with
    credit := modifyAt y.credit (cls - 1) (fun c => c - cells), held := y.held.filter (· != q) }
  let parts := (fragments 64 (it.bytes.drop 16)).map (it.bytes.take 16 ++ ·)
  (parts.mapIdx fun i b => (i, b)).foldl (fun s (i, b) =>
    stkSend s w.1 cls w.2 src (b2n poison + 2 * b2n (i + 1 == parts.length)) b) s

/-- The links of an item take its frames, and a poisoned block is counted. -/
def itemSent (q cls src cells : Nat) (it : GItem) (needs : List (Nat × Nat)) (s : State) (poison : Bool) : State :=
  let s := needs.foldl (linkSends q cls src cells it poison) s
  if cls = 1 ∧ poison = true then s.countSat (R.STK.B_POISONED.COUNT (q - 896)) (R.STK.B_SAT.SAT (q - 896)) 3 else s

theorem linkSends_single {cls src cells part l : Nat} {it : GItem} (s : State) (hcls : cls < 3) (hshort : (it.bytes.drop 16).length ≤ 8192) :
    LinkFrame s (linkSends q cls src cells it false s (l, part)) ∧
    (linkSends q cls src cells it false s (l, part)).out =
      .synzo l ⟨cls, part, src, 2, (s.slink l).seq.getD cls 0, it.bytes⟩ :: s.out := by
  have hparts : (fragments 64 (it.bytes.drop 16)).map (it.bytes.take 16 ++ ·) = [it.bytes] := by
    rw [show fragments 64 (it.bytes.drop 16) = [it.bytes.drop 16] from if_pos hshort, List.map_cons, List.take_append_drop, List.map_nil]
  unfold linkSends
  dsimp only
  rw [hparts]
  have hset := setSlink_frame s l { s.slink l with
    credit := modifyAt (s.slink l).credit (cls - 1) (fun c => c - cells), held := (s.slink l).held.filter (· != q) }
  have hout : (s.setSlink l { s.slink l with
    credit := modifyAt (s.slink l).credit (cls - 1) (fun c => c - cells), held := (s.slink l).held.filter (· != q) }).out = s.out := rfl
  have hseq := slink_setSlink_with s l l (x := { s.slink l with
    credit := modifyAt (s.slink l).credit (cls - 1) (fun c => c - cells), held := (s.slink l).held.filter (· != q) }) (fun x => x.seq) rfl
  generalize s.setSlink l { s.slink l with
    credit := modifyAt (s.slink l).credit (cls - 1) (fun c => c - cells), held := (s.slink l).held.filter (· != q) } = u at hset hout hseq
  have hone : ([it.bytes].mapIdx fun i b => (i, b)) = [(0, it.bytes)] := rfl
  rw [hone, List.foldl_cons, List.foldl_nil]
  obtain ⟨hframe, ho⟩ := stkSend_leaves u (l := l) (dest := part) (src := src) (flags := 2) (item := it.bytes) hcls
  rw [hseq, hout] at ho
  exact ⟨hset.trans hframe, ho⟩

theorem stkDrain_empty (n : Nat) (h : (s.gq q).elems = []) : stkDrain q n s = s := by
  cases n with
  | zero => rfl
  | succ n =>
    unfold stkDrain
    dsimp only
    rw [if_pos (by rw [GQueue.visible, h]; rfl)]

/-- The one item of a queue, with credit on the link it needs, leaves. -/
theorem stkDrain_item {n cls dest src part l : Nat} {it : GItem} (he : (s.gq q).elems = [.item it]) (hlive : it.live = true)
    (hout : outQueue s q = (cls, dest, src)) (hneeds : stkNeeds s dest = [(l, part)])
    (hcredit : it.cells.length ≤ (s.slink l).credit.getD (cls - 1) 0) :
    stkDrain q (n + 1) s = (let p := galPop s q
      stkDrain q n (galRefresh (galFreeFirst (itemSent q cls src it.cells.length it [(l, part)] p.2
        (match p.1 with | some (_, bad) => !bad.isEmpty | none => false)) q 1))) := by
  have hvis : (s.gq q).visible ≠ 0 := by
    rw [GQueue.visible, he, List.takeWhile_cons, GElem.live, hlive, if_pos rfl, List.takeWhile_nil]
    exact Nat.one_ne_zero
  have hdry : ([(l, part)].filter fun w : Nat × Nat => decide ((s.slink w.1).credit.getD (cls - 1) 0 < it.cells.length)) = [] := by
    rw [List.filter_cons, if_neg (by simpa using hcredit), List.filter_nil]
  rw [stkDrain]
  dsimp only
  rw [if_neg hvis, he]
  dsimp only [List.head?_cons]
  rw [hout]
  dsimp only
  rw [hneeds, if_neg (show ¬ [(l, part)].isEmpty = true from Bool.false_ne_true), hdry, if_pos (show ([] : List (Nat × Nat)).isEmpty = true from rfl)]
  generalize galPop s q = p
  obtain ⟨r, u⟩ := p
  rfl

end

end Sys2Proof.Machine
end

section
/-! A stack-out block's item is committed and leaves at once (R377, R393). -/

namespace Sys2Proof.Machine

section
variable {s t : State} {b q : Nat}

/-- Registers, the galley, links and outputs alone change. -/
def SentFrame (s t : State) : Prop :=
  t = { s with rf := t.rf, gal := t.gal, freeCtr := t.freeCtr, stk := { s.stk with links := t.stk.links }, out := t.out }

theorem SentFrame.trans {u : State} (h : SentFrame s t) (k : SentFrame t u) : SentFrame s u := by
  unfold SentFrame at *
  rw [k, h]

theorem SentFrame.of_gal (h : GalFrame s t) : SentFrame s t := by
  unfold GalFrame at h
  unfold SentFrame
  rw [h]

theorem SentFrame.of_link (h : LinkFrame s t) : SentFrame s t := by
  unfold LinkFrame at h
  unfold SentFrame
  rw [h]

theorem SentFrame.sblk (h : SentFrame s t) (i : Nat) : t.sblk i = s.sblk i := by
  rw [State.sblk, h]
  rfl

theorem galFrame_galFreeFirst (s : State) (q n : Nat) : GalFrame s (galFreeFirst s q n) := by
  have hspill : ∀ (es : List GElem) (u : State), GalFrame u (es.foldl spillElem u) := fun es => by
    induction es with
    | nil => exact fun u => .refl u
    | cons e es ih => exact fun u => (galFrame_spill u e.cells e.bytes).trans (ih _)
  exact (hspill _ s).setGq _ _

/-- The item of a queue that needs one link with credit leaves on it in one frame, and its queue is empty. -/
theorem stkDrain_leaves {n cls dest src part l : Nat} {it : GItem} (he : (s.gq q).elems = [.item it]) (hlive : it.live = true)
    (hq : outQueue s q = (cls, dest, src)) (hneeds : stkNeeds s dest = [(l, part)])
    (hcredit : it.cells.length ≤ (s.slink l).credit.getD (cls - 1) 0) (hcls : cls < 3) (hshort : (it.bytes.drop 16).length ≤ 8192)
    (hflips : s.gal.flips = []) : SentFrame s (stkDrain q (n + 1) s) ∧ ((stkDrain q (n + 1) s).gq q).elems = [] ∧
      (∀ p, p ≠ q → (stkDrain q (n + 1) s).gq p = s.gq p) ∧
      (stkDrain q (n + 1) s).out = .synzo l ⟨cls, part, src, 2, (s.slink l).seq.getD cls 0, it.bytes⟩ :: s.out := by
  obtain ⟨r, u, hpop, hclean, hframe, -, helems, hother⟩ := galPop_single he hflips
  rw [stkDrain_item he hlive hq hneeds hcredit, hpop]
  dsimp only
  rw [hclean]
  have hsent : itemSent q cls src it.cells.length it [(l, part)] u false = linkSends q cls src it.cells.length it false u (l, part) :=
    if_neg fun h => absurd h.2 Bool.false_ne_true
  obtain ⟨hsend, hout⟩ := linkSends_single (q := q) (src := src) (cells := it.cells.length) (part := part) (l := l) (it := it) u hcls hshort
  have hslink : u.slink l = s.slink l := by
    rw [State.slink, hframe]
    rfl
  have huout : u.out = s.out := by rw [hframe]
  rw [hslink, huout] at hout
  rw [hsent]
  generalize linkSends q cls src it.cells.length it false u (l, part) = v at hsend hout
  have hv : ∀ p, v.gq p = u.gq p := fun p => gq_of_qs (show v.gal.qs = u.gal.qs by rw [hsend]) p
  obtain ⟨hfree, -, -, hfreeOther, -⟩ := galFreeFirst_leaves v q 1
  have hff := galFrame_galFreeFirst v q 1
  generalize galFreeFirst v q 1 = w at hfree hfreeOther hff
  have hempty : ((galRefresh w).gq q).elems = [] := by
    rw [gq_galRefresh, hfree, hv, helems]
    rfl
  have hw := galFrame_galRefresh hff
  have hgq := gq_galRefresh w
  generalize galRefresh w = x at hempty hw hgq
  rw [stkDrain_empty n hempty]
  refine ⟨(SentFrame.of_gal hframe).trans ((SentFrame.of_link hsend).trans (.of_gal hw)), hempty,
    fun p hp => (hgq p).trans ((hfreeOther p hp).trans ((hv p).trans (hother p hp))), ?_⟩
  rw [show x.out = v.out by rw [hw], hout]

/-- A queue that holds elements is drained. -/
def pumpQueue (s : State) (q : Nat) : State := if (s.gq q).elems.isEmpty then s else stkDrain q 64 s

theorem pumpQueue_empty (h : (s.gq q).elems = []) : pumpQueue s q = s := if_pos (List.isEmpty_iff.mpr h)

theorem stkPump_eq (s : State) : stkPump s = if !stkUp s 0 && !stkUp s 1 then s else
    (((List.range 22).map (· + 896)) ++ [920, 918, 919]).foldl pumpQueue s := rfl

/-- Where one queue alone holds an element, the pump drains it. -/
theorem stkPump_one {t : State} (hup : stkUp s 1 = true) (hq : q ∈ ((List.range 22).map (· + 896)) ++ [920, 918, 919])
    (hne : (s.gq q).elems ≠ []) (hidle : ∀ p, 896 ≤ p → p < 921 → p ≠ q → (s.gq p).elems = [])
    (ht : stkDrain q 64 s = t) (hkept : ∀ p, p ≠ q → t.gq p = s.gq p) : stkPump s = t := by
  have hrange : ∀ p ∈ ((List.range 22).map (· + 896)) ++ [920, 918, 919], 896 ≤ p ∧ p < 921 := fun p hp => by
    rcases List.mem_append.mp hp with h | h
    · obtain ⟨x, hx, rfl⟩ := List.mem_map.mp h
      have := List.mem_range.mp hx
      omega
    · simp only [List.mem_cons, List.not_mem_nil, or_false] at h
      omega
  have hnd : (((List.range 22).map (· + 896)) ++ [920, 918, 919]).Nodup := by decide
  have hgo : pumpQueue s q = t := by
    rw [pumpQueue, if_neg (by rwa [List.isEmpty_iff]), ht]
  rw [stkPump_eq, hup, if_neg (by simp)]
  have honce := foldl_once (g := pumpQueue) (s := s) hq hnd
    (fun p hp hpq => pumpQueue_empty (hidle p (hrange p hp).1 (hrange p hp).2 hpq))
    (fun p hp hpq => by
      rw [hgo]
      exact pumpQueue_empty (by rw [hkept p hpq]; exact hidle p (hrange p hp).1 (hrange p hp).2 hpq))
  rw [honce, hgo]

/-! ### The links an item needs -/

theorem stkNeeds_congr (hpos : stkPos t = stkPos s) (hup : ∀ l, stkUp t l = stkUp s l) (hbreaks : t.stk.breaks = s.stk.breaks)
    (dest : Nat) : stkNeeds t dest = stkNeeds s dest := by
  have hroute : ∀ p, stkRoute t p = stkRoute s p := fun p => by
    unfold stkRoute
    rw [hpos, hbreaks]
    dsimp only
    rw [hup, hup]
  have hpart : ∀ l, stkPart t dest l = stkPart s dest l := fun l => by
    unfold stkPart
    rw [hpos, show stkRoute t = stkRoute s from funext hroute]
  unfold stkNeeds
  rw [show stkPart t dest = stkPart s dest from funext hpart]

/-- The state in which a stack-out block's item is committed. -/
def soCommitted (s : State) (b : Nat) (x : StkBlk) : State :=
  galCommit (galPut (soWords s b x.k).2 (896 + b) 2 true x.seq x.k (soItem s b x)) (896 + b)

theorem soCommitted_leaves {x : StkBlk} (htakes : QueueTakes s (896 + b) (16 + stkWords s b)) (hidle : (s.gq (896 + b)).elems = [])
    (hu : Uninverted s) : ∃ cells, cells.length = cellsFor (16 + stkWords s b) ∧
      ((soCommitted s b x).gq (896 + b)).elems = [.item ⟨2, x.seq, x.k, cells, soItem s b x, true⟩] ∧
      (∀ p, p ≠ 896 + b → (soCommitted s b x).gq p = s.gq p) ∧ GalFrame s (soCommitted s b x) ∧
      Touches [R.GAL.EVT.LOW, R.GAL.INJECT.ARM] s (soCommitted s b x) ∧ Uninverted (soCommitted s b x) := by
  obtain ⟨-, c, hc⟩ := appends_soWords s b x.k
  have hsize := length_soItem s b x
  have hne : soItem s b x ≠ [] := fun h => by
    rw [h, List.length_nil] at hsize
    omega
  dsimp only at hc
  have htakes' : QueueTakes { s with freeCtr := c } (896 + b) (soItem s b x).length := by
    rw [hsize]
    exact ⟨htakes.idle, htakes.open_, htakes.room, htakes.short⟩
  obtain ⟨cells, hcells, hgq, hother, hframe, htouch, hinv⟩ := galPut_committed (s := { s with freeCtr := c }) (q := 896 + b) 2 x.seq x.k
    hne htakes' (by
      rw [show (({ s with freeCtr := c } : State).gq (896 + b)).elems = (s.gq (896 + b)).elems from rfl, hidle]
      rfl)
  unfold soCommitted
  rw [hc]
  refine ⟨cells, hcells.trans (by rw [hsize]), ?_, hother, ?_, htouch, hinv hu⟩
  · rw [hgq]
    show (s.gq (896 + b)).elems ++ _ = _
    rw [hidle, List.nil_append]
  · have hfree : GalFrame s { s with freeCtr := c } := rfl
    exact hfree.trans hframe

theorem soItemSend_committed {n : Nat} {x : StkBlk} (hb : b < 22) (hx : x = s.sblk b) (hn : n = max 1 (stkN s b)) (hrun : blkState s b = 2)
    (hdue : x.k + n ≤ mcsCount s (s.fld (R.STK.B_CFG.MCS b))) (hheard : stkMuted s = false)
    (hdrops : (soCommitted s b x).fld (R.GAL.Q_DROPS.COUNT (896 + b)) = s.fld (R.GAL.Q_DROPS.COUNT (896 + b))) :
    exec (.soItemSend b) s = .next (stkPump ((soCommitted s b x).setSblk b { x with k := x.k + n, seq := (x.seq + 1) % 65536 })) := by
  subst hx hn
  obtain ⟨-, c, hc⟩ := appends_soWords s b (s.sblk b).k
  dsimp only at hc
  have hq : stkQueue b = 896 + b := if_neg (by omega)
  have hlast : (soWords s b (s.sblk b).k).2.fld (R.GAL.Q_DROPS.COUNT (896 + b)) = s.fld (R.GAL.Q_DROPS.COUNT (896 + b)) := by
    rw [hc]
    rfl
  have hitem : elemHeader 2 (16 + stkWords (soWords s b (s.sblk b).k).2 b) ++ leBytes 2 (s.sblk b).seq ++ [0, byteOf b] ++
      leBytes 4 (s.sblk b).k ++ leBytes 4 (blockTime (soWords s b (s.sblk b).k).2 (s.fld (R.STK.B_CFG.MCS b))
      ((soWords s b (s.sblk b).k).2.mcsPti (s.fld (R.STK.B_CFG.MCS b))) (s.sblk b).k) ++ (soWords s b (s.sblk b).k).1 =
      soItem s b (s.sblk b) := by
    rw [hc]
    rfl
  show execSoItemSend b s = _
  unfold execSoItemSend
  rw [Nat.mod_eq_of_lt hb]
  dsimp only
  rw [if_pos ⟨hrun, hdue⟩, hheard, if_neg Bool.false_ne_true, hq, hitem, hlast]
  rw [if_pos (show (galCommit (galPut (soWords s b (s.sblk b).k).2 (896 + b) 2 true (s.sblk b).seq (s.sblk b).k (soItem s b (s.sblk b)))
    (896 + b)).fld _ = _ from hdrops)]
  rfl

theorem soItemSend_goes {n part : Nat} {x : StkBlk} (hb : b < 22) (hx : x = s.sblk b) (hn : n = max 1 (stkN s b)) (hrun : blkState s b = 2)
    (hdue : x.k + n ≤ mcsCount s (s.fld (R.STK.B_CFG.MCS b))) (hheard : stkMuted s = false)
    (htakes : QueueTakes s (896 + b) (16 + stkWords s b)) (hshort : stkWords s b ≤ 8192)
    (hidle : ∀ q, 896 ≤ q → q < 921 → (s.gq q).elems = []) (hflips : s.gal.flips = []) (harm : s.flag R.GAL.INJECT.ARM = false)
    (hneeds : stkNeeds s (s.fld (R.STK.B_ROUTE.DEST b)) = [(1, part)])
    (hcredit : cellsFor (16 + stkWords s b) ≤ (s.slink 1).credit.getD 0 0) (hup : stkUp s 1 = true) : Goes (.soItemSend b) s fun t =>
      t.out = .synzo 1 ⟨1, part, stkPos s + 8 * b, 2, (s.slink 1).seq.getD 1 0, soItem s b x⟩ :: s.out ∧
      t.sblk b = { x with k := x.k + n, seq := (x.seq + 1) % 65536 } ∧ (t.gq (896 + b)).elems = [] := by
  obtain ⟨cells, hsize, helems, hother, hframe, htouch, hinv⟩ :=
    soCommitted_leaves (x := x) htakes (hidle (896 + b) (by omega) (by omega)) ⟨harm, hflips⟩
  have hkey : ∀ {f : Fld}, f.key ≠ R.GAL.EVT.LOW.key → f.key ≠ R.GAL.INJECT.ARM.key → (soCommitted s b x).fld f = s.fld f := fun h1 h2 =>
    htouch.fld fun g hg => by
      simp only [List.mem_cons, List.not_mem_nil, or_false] at hg
      rcases hg with rfl | rfl
      · exact Fld.apart_of_key_ne h1
      · exact Fld.apart_of_key_ne h2
  have hdrops : (soCommitted s b x).fld (R.GAL.Q_DROPS.COUNT (896 + b)) = s.fld (R.GAL.Q_DROPS.COUNT (896 + b)) := hkey
    (by simp only [R.GAL.Q_DROPS.COUNT, R.GAL.EVT.LOW, itemKey]; omega) (by simp only [R.GAL.Q_DROPS.COUNT, R.GAL.INJECT.ARM, itemKey]; omega)
  refine ⟨_, soItemSend_committed hb hx hn hrun hdue hheard hdrops, ?_⟩
  have hpos : stkPos (soCommitted s b x) = stkPos s := hkey (by decide) (by decide)
  have hlink : ∀ l, stkUp (soCommitted s b x) l = stkUp s l := fun l => State.flag_of_fld (hkey
    (by simp only [R.STK.LINK.UP, R.GAL.EVT.LOW]; omega) (by simp only [R.STK.LINK.UP, R.GAL.INJECT.ARM]; omega))
  have hdest : (soCommitted s b x).fld (R.STK.B_ROUTE.DEST b) = s.fld (R.STK.B_ROUTE.DEST b) := hkey
    (by simp only [R.STK.B_ROUTE.DEST, R.GAL.EVT.LOW, itemKey]; omega) (by simp only [R.STK.B_ROUTE.DEST, R.GAL.INJECT.ARM, itemKey]; omega)
  have hstk : (soCommitted s b x).stk = s.stk := by rw [hframe]
  have hout : (soCommitted s b x).out = s.out := by rw [hframe]
  generalize soCommitted s b x = u at helems hother hinv hpos hlink hdest hstk hout
  have hself := sblk_setSblk_self u b { x with k := x.k + n, seq := (x.seq + 1) % 65536 }
  have hset : u.setSblk b { x with k := x.k + n, seq := (x.seq + 1) % 65536 } =
    { u with stk := { u.stk with blocks := (u.setSblk b { x with k := x.k + n, seq := (x.seq + 1) % 65536 }).stk.blocks } } := rfl
  generalize u.setSblk b { x with k := x.k + n, seq := (x.seq + 1) % 65536 } = v at hself hset
  have hvrf : v.rf = u.rf := by rw [hset]
  have hvgal : v.gal = u.gal := by rw [hset]
  have hvout : v.out = s.out := by rw [hset]; exact hout
  have hvgq : ∀ p, v.gq p = u.gq p := fun p => by rw [State.gq, hvgal, State.gq]
  have hvslink : v.slink 1 = s.slink 1 := by
    rw [State.slink, hset]
    show u.stk.links.getD 1 linkReset = _
    rw [hstk, State.slink]
  have hvbreaks : v.stk.breaks = s.stk.breaks := by
    rw [hset]
    show u.stk.breaks = _
    rw [hstk]
  have hvpos : stkPos v = stkPos s := (State.fld_of_rf_eq hvrf _).trans hpos
  have hvup : ∀ l, stkUp v l = stkUp s l := fun l => (State.flag_of_fld (State.fld_of_rf_eq hvrf _)).trans (hlink l)
  have hvneeds := stkNeeds_congr hvpos hvup hvbreaks (s.fld (R.STK.B_ROUTE.DEST b))
  have hq : outQueue v (896 + b) = (1, s.fld (R.STK.B_ROUTE.DEST b), stkPos s + 8 * b) := by
    unfold outQueue
    dsimp only
    rw [if_pos (by omega), Nat.add_sub_cancel_left, hvpos, State.fld_of_rf_eq hvrf, hdest]
  have hve : (v.gq (896 + b)).elems = [.item ⟨2, x.seq, x.k, cells, soItem s b x, true⟩] := by rw [hvgq]; exact helems
  obtain ⟨hsent, hempty, hkept, hsentOut⟩ := stkDrain_leaves (s := v) (n := 63) hve rfl hq (hvneeds.trans hneeds)
    (by rw [hvslink]; exact Nat.le_trans (Nat.le_of_eq hsize) hcredit) (by decide)
    (by
      show ((soItem s b x).drop 16).length ≤ _
      rw [List.length_drop, length_soItem]
      omega) (by rw [hvgal]; exact hinv.2)
  have hpump := stkPump_one (s := v) (q := 896 + b) ((hvup 1).trans hup)
    (List.mem_append_left _ (List.mem_map.mpr ⟨b, List.mem_range.mpr hb, Nat.add_comm ..⟩)) (by rw [hve]; exact List.cons_ne_nil _ _)
    (fun p h1 h2 hp => by rw [hvgq, hother p hp]; exact hidle p h1 h2) rfl hkept
  rw [hpump]
  generalize stkDrain (896 + b) 64 v = t at hsent hempty hsentOut
  exact ⟨by rw [hsentOut, hvslink, hvout], (hsent.sblk b).trans hself, hempty⟩

end

end Sys2Proof.Machine
end

section
/-! A stack-in block plays the item of an AUDIO frame (R393, R394), and the obligation on the stack's frames. -/

namespace Sys2Proof.Machine

section
variable {s t : State} {b l : Nat}

/-! ### The item is taken -/

/-- The state in which a stack-in block's item is committed. -/
def siCommitted (s : State) (q k : Nat) (item : List Byte) : State := galCommit (galPut s q 2 false (u16 item 4) k item) q

theorem siCommitted_leaves {q : Nat} {item : List Byte} (k : Nat) (hne : item ≠ []) (hidle : (s.gq q).elems = [])
    (htakes : QueueTakes s q item.length) : GalFrame s (siCommitted s q k item) ∧
      Touches [R.GAL.EVT.LOW, R.GAL.INJECT.ARM] s (siCommitted s q k item) := by
  obtain ⟨cells, hq, -, hf, ht⟩ := galPut_reserved 2 (u16 item 4) k hne htakes
  unfold siCommitted
  generalize galPut s q 2 false (u16 item 4) k item = u at hq hf ht
  rw [galCommit_joined (s := u) (q := q) (pre := []) (it := ⟨2, u16 item 4, k, cells, item, false⟩) (by rw [hq, hidle]) rfl rfl]
  exact ⟨galFrame_galRefresh (hf.setGq _ _), touches_galRefresh (touches_setGq (ht.mono (by simp)) _ _) (by simp)⟩

/-- The samples of a stack-in block's item. -/
def siPlayed (s : State) (i m k n next : Nat) (item : List Byte) : State :=
  let ch := s.fld (R.STK.B_CFG.CHANNELS i)
  pushBlock (0x1200 + s.fld (R.STK.B_CFG.BASE i)) (mcsMult s m) next k n ch (s.flag (R.STK.B_CFG.TRANSP i))
    (fun j c => BitVec.ofNat 32 (if stkMuted s then 0 else u32 item (16 + 4 * (j * ch + c)))) s

/-- The descriptor check of R394. -/
structure ItemGood (s : State) (i m n k : Nat) (item : List Byte) : Prop where
  kind  : u32 item 0 / 2 ^ 28 = 2
  size  : u32 item 0 % 2 ^ 24 = 16 + stkWords s i
  start : k % n = 0
  locks : s.fld (R.CLK.MCS_CFG.REF_TYPE m) = 1

theorem siFrame_taken {i m n off k : Nat} {item : List Byte} (hm : m = s.fld (R.STK.B_CFG.MCS i)) (hn : n = max 1 (stkN s i))
    (hoff : off = s.fld (R.STK.B_OFFSET.SAMPLES i)) (hk : k = nearestClass (u32 item 8) (mcsCount s m - off)) (hgood : ItemGood s i m n k item)
    (hidle : (s.gq (stkQueue i)).elems = []) (hdue : tableNext s m < k + off + n)
    (hdrops : (siCommitted s (stkQueue i) (k + off) item).fld (R.GAL.Q_DROPS.COUNT (stkQueue i)) = s.fld (R.GAL.Q_DROPS.COUNT (stkQueue i))) :
    siFrame s i 2 item true = siPlayed (siCommitted s (stkQueue i) (k + off) item) i m (k + off) n (tableNext s m) item := by
  subst hm hn hoff hk
  obtain ⟨hkind, hsize, hstart, hlocks⟩ := hgood
  unfold siFrame
  dsimp only
  rw [if_neg (by rw [hkind, hsize, hlocks, hstart]; simp), expireQueue_empty 64 hidle]
  rw [if_neg (show ¬ (galCommit (galPut s (stkQueue i) 2 false (u16 item 4) (_ + _) item) (stkQueue i)).fld _ ≠ _ from not_not.mpr hdrops)]
  rw [if_neg (show ¬ nbit 2 0 = true by decide), if_neg (Nat.not_le.mpr hdue)]
  rfl

/-- A register that a committed item leaves. -/
theorem fld_of_committed (h : Touches [R.GAL.EVT.LOW, R.GAL.INJECT.ARM] s t) {f : Fld}
    (h1 : f.key ≠ R.GAL.EVT.LOW.key) (h2 : f.key ≠ R.GAL.INJECT.ARM.key) : t.fld f = s.fld f :=
  h.fld fun g hg => by
    simp only [List.mem_cons, List.not_mem_nil, or_false] at hg
    rcases hg with rfl | rfl
    · exact Fld.apart_of_key_ne h1
    · exact Fld.apart_of_key_ne h2

theorem siFrame_plays {i m n off k ch : Nat} {item : List Byte} (hm : m = s.fld (R.STK.B_CFG.MCS i)) (hn : n = max 1 (stkN s i))
    (hoff : off = s.fld (R.STK.B_OFFSET.SAMPLES i)) (hk : k = nearestClass (u32 item 8) (mcsCount s m - off)) (hgood : ItemGood s i m n k item)
    (hne : item ≠ []) (hidle : (s.gq (stkQueue i)).elems = []) (htakes : QueueTakes s (stkQueue i) item.length)
    (hdue : tableNext s m < k + off + n) (hheard : stkMuted s = false) (hch : ch = s.fld (R.STK.B_CFG.CHANNELS i)) :
    (∀ j c, j < n → c < ch → tableNext s m ≤ k + off + j →
      findSort (siFrame s i 2 item true) (0x1200 + s.fld (R.STK.B_CFG.BASE i) + c * mcsMult s m) (k + off + j) =
        some (BitVec.ofNat 32 (u32 item (16 + 4 * (j * ch + c))), s.flag (R.STK.B_CFG.TRANSP i))) ∧
    ∀ x, blkState (siFrame s i 2 item true) x = blkState s x := by
  obtain ⟨hframe, htouch⟩ := siCommitted_leaves (k + off) hne hidle htakes
  have hfld : ∀ {f : Fld}, f.key ≠ R.GAL.EVT.LOW.key → f.key ≠ R.GAL.INJECT.ARM.key →
      (siCommitted s (stkQueue i) (k + off) item).fld f = s.fld f := fun h1 h2 => fld_of_committed htouch h1 h2
  rw [siFrame_taken hm hn hoff hk hgood hidle hdue (hfld
    (by simp only [R.GAL.Q_DROPS.COUNT, R.GAL.EVT.LOW, itemKey]; omega) (by simp only [R.GAL.Q_DROPS.COUNT, R.GAL.INJECT.ARM, itemKey]; omega))]
  generalize siCommitted s (stkQueue i) (k + off) item = u at hframe htouch hfld
  have hitem : ∀ a lo w, a % 0x1000000 ≠ 0xb080 → a % 0x1000000 ≠ R.GAL.INJECT.ARM.key % 0x1000000 →
      u.fld ⟨itemKey a i, lo, w⟩ = s.fld ⟨itemKey a i, lo, w⟩ := fun a lo w h1 h2 =>
    hfld (itemKey_ne_of_mod (a := a) (c := 0xb080) i h1) (itemKey_ne_of_mod (a := a) (c := R.GAL.INJECT.ARM.key) i h2)
  have hchan : u.fld (R.STK.B_CFG.CHANNELS i) = ch := (hitem 0x12100 0 8 (by decide) (by decide)).trans hch.symm
  have hbase : u.fld (R.STK.B_CFG.BASE i) = s.fld (R.STK.B_CFG.BASE i) := hitem 0x12100 8 11 (by decide) (by decide)
  have htransp : u.flag (R.STK.B_CFG.TRANSP i) = s.flag (R.STK.B_CFG.TRANSP i) := State.flag_of_fld (hitem 0x12100 24 1 (by decide) (by decide))
  have hmlt : m < 8 := hm ▸ State.fld_lt s _
  have hmult : mcsMult u m = mcsMult s m := by
    rw [mcsMult, hfld (by simp only [R.CLK.MCS_CFG.RATE, R.GAL.EVT.LOW]; omega) (by simp only [R.CLK.MCS_CFG.RATE, R.GAL.INJECT.ARM]; omega), mcsMult]
  have hmute : stkMuted u = false := by
    rw [← hheard, stkMuted, hfld (by decide) (by decide), stkMuted]
  have hsmall : n ≤ 4096 := by
    have hle : stkN s i ≤ 768 := ptSamples_le (s.fld (R.STK.B_CFG.PTIME i)) (s.fld (R.CLK.MCS_CFG.RATE (s.fld (R.STK.B_CFG.MCS i))))
    omega
  have hplayed : siPlayed u i m (k + off) n (tableNext s m) item = pushBlock (0x1200 + s.fld (R.STK.B_CFG.BASE i)) (mcsMult s m) (tableNext s m)
      (k + off) n ch (s.flag (R.STK.B_CFG.TRANSP i)) (fun j c => BitVec.ofNat 32 (u32 item (16 + 4 * (j * ch + c)))) u := by
    unfold siPlayed
    dsimp only
    rw [hchan, hbase, htransp, hmult, hmute]
    rfl
  rw [hplayed]
  have hpush := pushStep_pushBlock (0x1200 + s.fld (R.STK.B_CFG.BASE i)) (mcsMult s m) (tableNext s m) (k + off) n ch
    (s.flag (R.STK.B_CFG.TRANSP i)) (fun j c => BitVec.ofNat 32 (u32 item (16 + 4 * (j * ch + c)))) u
  refine ⟨fun j c hj hc hle => findSort_pushBlock (mcsMult_pos s m) hsmall hj hc hle u, fun x => ?_⟩
  generalize pushBlock (0x1200 + s.fld (R.STK.B_CFG.BASE i)) (mcsMult s m) (tableNext s m) (k + off) n ch
    (s.flag (R.STK.B_CFG.TRANSP i)) (fun j c => BitVec.ofNat 32 (u32 item (16 + 4 * (j * ch + c)))) u = w at hpush
  exact (hpush.only.fld (by simp only [LateKey, R.STK.B_STAT.STATE, itemKey]; omega)).trans (hfld
    (itemKey_ne_of_mod (a := 0x1210c) (c := 0xb080) x (by decide))
    (itemKey_ne_of_mod (a := 0x1210c) (c := R.GAL.INJECT.ARM.key) x (by decide)))

/-! ### The block that takes a frame -/

/-- A stack-in block takes an AUDIO frame where it runs and the frame's source names it. -/
def siOffer (src flags : Nat) (item : List Byte) (agree : Bool) (s : State) (i : Nat) : State :=
  if (blkState s i = 2 ∨ blkState s i = 3) ∧ s.fld (R.STK.B_ROUTE.SRC_POS i) = src % 8 ∧ s.fld (R.STK.B_ROUTE.SRC_BLOCK i) = src / 8 then
    siFrame s i flags item agree
  else s

theorem siOffer_off {src flags i : Nat} {item : List Byte} {agree : Bool} (h : blkState s i = 0) : siOffer src flags item agree s i = s :=
  if_neg fun h' => by
    rw [h] at h'
    rcases h'.1 with h' | h' <;> cases h'

/-- Where one stack-in block alone is on, it alone takes a frame. -/
theorem siAccept_one {src flags : Nat} {item : List Byte} {agree : Bool} (hb : b < 22) (hrun : blkState s (256 + b) = 2)
    (hpos : s.fld (R.STK.B_ROUTE.SRC_POS (256 + b)) = src % 8) (hblk : s.fld (R.STK.B_ROUTE.SRC_BLOCK (256 + b)) = src / 8)
    (hoff : ∀ j, j < 22 → j ≠ b → blkState s (256 + j) = 0)
    (hkept : ∀ x, blkState (siFrame s (256 + b) flags item agree) x = blkState s x) :
    siAccept s src flags item agree = siFrame s (256 + b) flags item agree := by
  have hself : siOffer src flags item agree s (256 + b) = siFrame s (256 + b) flags item agree := if_pos ⟨.inl hrun, hpos, hblk⟩
  have hother : ∀ i ∈ (List.range 22).map (· + 256), i ≠ 256 + b → blkState s i = 0 := fun i hi hne => by
    obtain ⟨j, hj, rfl⟩ := List.mem_map.mp hi
    rw [Nat.add_comm]
    exact hoff j (List.mem_range.mp hj) (by omega)
  have honce := foldl_once (g := siOffer src flags item agree) (s := s) (a := 256 + b) (l := (List.range 22).map (· + 256))
    (List.mem_map.mpr ⟨b, List.mem_range.mpr hb, Nat.add_comm ..⟩) (by decide) (fun i hi hne => siOffer_off (hother i hi hne))
    (fun i hi hne => siOffer_off (by rw [hself, hkept]; exact hother i hi hne))
  exact honce.trans hself

theorem clocksAlike_of_rf (h : t.rf = s.rf) (hp : t.ptis = s.ptis) (hm : t.mcss = s.mcss) : ClocksAlike s t :=
  .of_onlyIn ((OnlyIn.refl (B := fun _ => False) s).upd h) (fun _ h => h.elim) hp hm

theorem synzoFrameRx_audio {src : Nat} {item : List Byte} {seq : Nat} (hl : l < 2) (hup : stkUp s l = true) (hon : s.domOn 7 = true) :
    exec (.synzoFrameRx l 1 (2 ^ stkPos s) src 2 seq item true (.audio true)) s =
      .next (follow s (siAccept (frameSeen s l (.audio true)) src 2 item true)) := by
  have hmine : nbit (2 ^ stkPos s) (stkPos s) = true := Nat.testBit_two_pow_self
  have hnone : ∀ u : State, stkPos u = stkPos s → stkForward u l 1 (2 ^ stkPos s) src 2 item = u := fun u hu => by
    unfold stkForward
    rw [hu]
    dsimp only
    rw [if_pos (by
      unfold setBit
      rw [if_neg Bool.false_ne_true, hmine, if_pos rfl, Nat.one_shiftLeft, Nat.sub_self])]
  have hpos : stkPos (frameSeen s l (.audio true)) = stkPos s := State.fld_of_rf_eq rfl _
  have hgo := hnone _ hpos
  show execSynzoFrameRx l 1 (2 ^ stkPos s) src 2 seq item true (.audio true) s = _
  unfold execSynzoFrameRx
  rw [if_neg (synzoFrameRx_up hl hup hon), if_neg (show ¬ (!true) = true by decide), if_neg (by decide), if_neg (fun h => absurd h.1 (by decide))]
  dsimp only
  rw [if_neg (show ¬ 1 = 0 by decide), hmine, if_pos rfl, if_pos rfl]
  exact congrArg (fun u => ok (follow s (siAccept u src 2 item true))) hgo

end

/-- Settles O48. -/
theorem stackFrameSteps : Obligations.StackFrameSteps := by
  unfold Obligations.StackFrameSteps
  intro s b hb
  refine ⟨fun x n hx hn hrun hdue => ⟨soItemSend_muted_goes hb hx hn hrun hdue, ?_⟩,
    fun l cls dest src flags seq item good msg => synzoFrameRx_down,
    fun l cls dest src flags seq item msg => synzoFrameRx_bad_goes,
    fun l dest src flags seq item hl hup hother hon => synzoFrameRx_forward_goes hl hup hother hon,
    fun l cls dest src flags seq item msg e hl hup hon => synzoFrameRx_disorder_goes hl hup hon, ?_⟩
  · rintro part bytes hheard htakes hshort rfl hidle hflips harm hneeds hcredit hup
    exact soItemSend_goes hb hx hn hrun hdue hheard htakes hshort hidle hflips harm hneeds hcredit hup
  · intro l i src seq item n k off hl hi hup hon hrun hother hpos hblk hkind hsize hlen hn hoff hk hstart hlocks hidle htakes hdue hheard
    subst hi
    refine ⟨_, synzoFrameRx_audio hl hup hon, ?_⟩
    have hframe : LinkFrame s (frameSeen s l (.audio true)) := rfl
    generalize frameSeen s l (.audio true) = u at hframe
    have hrf := hframe.rf
    have hfld : ∀ f : Fld, u.fld f = s.fld f := fun f => State.fld_of_rf_eq hrf f
    have hmcs : s.fld (R.STK.B_CFG.MCS (256 + b)) < 8 := State.fld_lt s _
    have hclk : ClocksAlike s u := clocksAlike_of_rf hrf (by rw [hframe]) (by rw [hframe])
    have hcount := hclk.mcsCount hmcs
    have hnext : tableNext u (s.fld (R.STK.B_CFG.MCS (256 + b))) = tableNext s (s.fld (R.STK.B_CFG.MCS (256 + b))) := by
      rw [tableNext, hcount, tableNext]
    have hgq : ∀ q, u.gq q = s.gq q := fun q => gq_of_qs (show u.gal.qs = s.gal.qs by rw [hframe]) q
    have hq : stkQueue (256 + b) = 928 + b := by
      unfold stkQueue
      rw [if_pos (by omega), Nat.add_sub_cancel_left]
    have hsamples : stkN u (256 + b) = stkN s (256 + b) := by rw [stkN, hfld, hfld, hfld, stkN]
    have hwords : stkWords u (256 + b) = stkWords s (256 + b) := by rw [stkWords, hfld, hsamples, stkWords]
    have hmult : mcsMult u (s.fld (R.STK.B_CFG.MCS (256 + b))) = mcsMult s (s.fld (R.STK.B_CFG.MCS (256 + b))) := by
      rw [mcsMult, hfld, mcsMult]
    have hstate : ∀ x, blkState u x = blkState s x := fun x => hfld _
    obtain ⟨hplay, hkept⟩ := siFrame_plays (s := u) (i := 256 + b) (hfld _).symm (hn.trans (by rw [hsamples]))
      (hoff.trans (hfld _).symm) (k := k) (hk.trans (by rw [hcount])) ⟨hkind, hsize.trans (by rw [hwords]), hstart, (hfld _).trans hlocks⟩
      (fun h => by
        rw [h, List.length_nil] at hlen
        omega)
      (by rw [hq, hgq]; exact hidle) (by rw [hq]; exact ⟨by rw [hgq]; exact htakes.idle, by rw [hgq]; exact htakes.open_,
        by rw [hgq, hfld]; exact htakes.room, htakes.short⟩) (by rw [hnext]; exact hdue)
      (by rw [← hheard, stkMuted, hfld, stkMuted]) rfl
    rw [siAccept_one hb ((hstate _).trans hrun) ((hfld _).trans hpos) ((hfld _).trans hblk)
      (fun j hj hne => (hstate _).trans (hother j hj hne)) hkept]
    rw [hnext, hfld, hmult, State.flag_of_fld (hfld _), hfld] at hplay
    exact hplay

end Sys2Proof.Machine
end

section
/-! The states of a TDM direction, and the mask that waits for it (R237, R240 to R242). -/

namespace Sys2Proof.Machine

section
variable {s t : State} {p : Nat} {rx : Bool}

/-! ### The records of directions -/

theorem tdm_setTdm_self (d : TdmDir) (hp : p < 16) (h : s.tdms.length = 32) : (s.setTdm p rx d).tdm p rx = d :=
  getD_modifyAt_self (l := s.tdms) (fun _ => d) tdmReset (by
    have hrx : b2n rx ≤ 1 := by cases rx <;> decide
    omega)

theorem length_tdms_setTdm (s : State) (p : Nat) (rx : Bool) (d : TdmDir) : (s.setTdm p rx d).tdms.length = s.tdms.length :=
  length_modifyAt ..

theorem setTdm_frame (s : State) (p : Nat) (rx : Bool) (d : TdmDir) : s.setTdm p rx d = { s with tdms := (s.setTdm p rx d).tdms } := rfl

theorem tdm_of_tdms (h : t.tdms = s.tdms) (p : Nat) (rx : Bool) : t.tdm p rx = s.tdm p rx := by rw [State.tdm, h, State.tdm]

/-! ### A waiting mask (R240 to R242) -/

/-- Registers, captured values, directions and imposition entries alone change. -/
def MaskFrame (s t : State) : Prop := t = { s with rf := t.rf, cap := t.cap, tdms := t.tdms, impo := t.impo, latched := t.latched }

theorem MaskFrame.refl (s : State) : MaskFrame s s := rfl

theorem MaskFrame.trans {u : State} (h : MaskFrame s t) (k : MaskFrame t u) : MaskFrame s u := by
  unfold MaskFrame at *
  rw [k, h]

/-- The fields of the TDM ports that a direction's mask, its MASK_EV and the held outputs are not. -/
structure DirFree (p : Nat) (rx : Bool) (f : Fld) : Prop where
  lo   : 0x8000 ≤ f.key
  hi   : f.key < 0x9000
  mask : f.key ∉ dirMaskKeys p rx
  ev   : f.apart (td (R.TDM.TX_STAT.MASK_EV p) rx) = true
  held : ∀ q, f.apart (R.TDM.TX_STAT.OE_HELD q) = true

/-- A direction's other fields stay. -/
def DirKeeps (p : Nat) (rx : Bool) (s t : State) : Prop := ∀ f, DirFree p rx f → t.fld f = s.fld f

theorem DirKeeps.trans {u : State} (h : DirKeeps p rx s t) (k : DirKeeps p rx t u) : DirKeeps p rx s u :=
  fun f hf => (k f hf).trans (h f hf)

theorem DirKeeps.of_onlyIn {B : Nat → Prop} (h : OnlyIn B s t) (hB : ∀ k, B k → (k < 0x8000 ∨ 0x9000 ≤ k) ∨ k ∈ dirMaskKeys p rx) :
    DirKeeps p rx s t := fun f hf => h.fld fun hb => by
  have hlo := hf.lo
  have hhi := hf.hi
  rcases hB _ hb with h | h
  · omega
  · exact hf.mask h

theorem DirKeeps.of_rf (h : t.rf = s.rf) : DirKeeps p rx s t := fun f _ => State.fld_of_rf_eq h f

/-- A captured value made active. -/
def capPut (s : State) (k : Nat) : State := match capVal s k with | some v => s.wr k v | none => s

theorem capApply_cons (s : State) (k : Nat) (ks : List Nat) : capApply s (k :: ks) = capApply (capDrop (capPut s k) [k]) ks := rfl

theorem capPut_leaves (s : State) (k : Nat) : RfFrame s (capPut s k) ∧ OnlyIn (· = k) s (capPut s k) := by
  unfold capPut
  split
  · exact ⟨rfl, ⟨fun x hx => State.rd_wr_ne s _ hx⟩⟩
  · exact ⟨.refl s, .refl s⟩

/-- What making captured values active leaves. -/
theorem capApply_leaves (s : State) (ks : List Nat) : capApply s ks = { s with rf := (capApply s ks).rf, cap := (capApply s ks).cap } ∧
    OnlyIn (· ∈ ks) s (capApply s ks) := by
  induction ks generalizing s with
  | nil => exact ⟨rfl, .refl s⟩
  | cons k ks ih =>
    rw [capApply_cons]
    obtain ⟨hf, ho⟩ := capPut_leaves s k
    generalize capPut s k = u at hf ho
    have hdrop : capDrop u [k] = { u with cap := (capDrop u [k]).cap } := rfl
    have hdo : OnlyIn (· = k) s (capDrop u [k]) := ho.upd rfl
    generalize capDrop u [k] = v at hdrop hdo
    obtain ⟨hrest, hro⟩ := ih v
    refine ⟨?_, (hdo.mono fun x hx => hx ▸ List.mem_cons_self).trans (hro.mono fun x hx => List.mem_cons_of_mem _ hx)⟩
    unfold RfFrame at hf
    rw [hrest, hdrop, hf]

/-- The imposition table's own registers. -/
def ImpKey (k : Nat) : Prop := 0x9000 ≤ k ∧ k < 0xa000

/-- Imposition entries, latches and the table's registers alone change. -/
structure ImpStep (s t : State) : Prop where
  frame : t = { s with rf := t.rf, impo := t.impo, latched := t.latched }
  only  : OnlyIn ImpKey s t

theorem ImpStep.refl (s : State) : ImpStep s s := ⟨rfl, .refl s⟩

theorem ImpStep.trans {u : State} (h : ImpStep s t) (k : ImpStep t u) : ImpStep s u :=
  ⟨by rw [k.frame, h.frame], h.only.trans k.only⟩

theorem ImpStep.of_rf (h : RfFrame s t) (k : OnlyIn ImpKey s t) : ImpStep s t := ⟨by
  unfold RfFrame at h
  rw [h], k⟩

theorem impStep_setImp (s : State) (d : Nat) (e : ImpEntry) : ImpStep s (s.setImp d e) := ⟨rfl, (OnlyIn.refl s).upd rfl⟩

theorem impStep_latchOnce (s : State) {k : Nat} {l : List (Fld × Nat)} (hl : ∀ x ∈ l, ImpKey x.1.key) : ImpStep s (s.latchOnce k l) := by
  refine ⟨?_, ?_⟩
  · have h := latchOnce_frame s k l
    rw [h]
  · unfold State.latchOnce
    split
    · exact .refl s
    · exact ((OnlyIn.refl s).setFlds hl).upd rfl

theorem impStep_countSat (s : State) {f g : Fld} (i : Nat) (hf : ImpKey f.key) (hg : ImpKey g.key) : ImpStep s (s.countSat f g i) :=
  .of_rf (countSat_frame s f g i) (.of_touches (touches_countSat (l := [f, g]) i (by simp) (by simp) (.refl _ s)) (by simp [hf, hg]))

theorem impStep_holdCheck (s : State) (d : Nat) : ImpStep s (holdCheck s d) := by
  unfold holdCheck
  dsimp only
  split
  · have h1 := impStep_setImp s d { s.imp d with held := true }
    generalize s.setImp d { s.imp d with held := true } = u at h1
    have h2 := impStep_latchOnce u (k := R.IMP.XDOM_INFO.reg) (l := [(R.IMP.XDOM_INFO.DEST, d)]) (by simp [ImpKey, R.IMP.XDOM_INFO.DEST])
    generalize u.latchOnce R.IMP.XDOM_INFO.reg [(R.IMP.XDOM_INFO.DEST, d)] = v at h2
    have h3 : ImpStep v (v.setFld R.IMP.STAT.XDOM 1) := .of_rf ((RfFrame.refl v).setFld _ _) ((OnlyIn.refl v).setFld _ (by simp [ImpKey, R.IMP.STAT.XDOM]))
    exact ((h1.trans h2).trans h3).trans (impStep_countSat _ 1 (by simp [ImpKey, R.IMP.XDOM_CNT.COUNT]) (by simp [ImpKey, R.IMP.SAT.SAT_F]))
  · split
    · exact impStep_setImp ..
    · exact .refl s

theorem impStep_impTake (s : State) (d k : Nat) : ImpStep s (impTake s d k) := by
  unfold impTake
  dsimp only
  split
  · exact .refl s
  · refine ((impStep_setImp s d _).trans (impStep_holdCheck _ d)).trans (.of_rf (impCount_frame _) ((OnlyIn.refl _).setFlds ?_))
    simp [ImpKey, R.IMP.STAT.USED, R.IMP.XDOM_INFO.HELD]

theorem impStep_maskEntries (s : State) (p : Nat) (rx : Bool) (k : Nat) : ImpStep s (maskEntries s p rx k) := by
  have hgo : ∀ (l : List Nat) (u : State),
      ImpStep u (l.foldl (fun s d => if (s.imp d).link = some (2 * p + b2n rx) then impTake s d k else s) u) := fun l => by
    induction l with
    | nil => exact fun u => .refl u
    | cons d l ih =>
      refine fun u => ImpStep.trans ?_ (ih _)
      dsimp only
      split
      · exact impStep_impTake u d k
      · exact .refl u
  exact hgo _ s

/-- A captured mask made active with its entries. -/
theorem maskApply_leaves (k : Nat) (hp : p < 16) (hlen : s.tdms.length = 32) : MaskFrame s (maskApply s p rx k) ∧
    (∃ m, (maskApply s p rx k).tdm p rx = { s.tdm p rx with muted := m }) ∧ (maskApply s p rx k).tdms.length = 32 ∧
    DirKeeps p rx s (maskApply s p rx k) := by
  unfold maskApply
  dsimp only
  split
  · exact ⟨.refl s, ⟨_, rfl⟩, hlen, fun _ _ => rfl⟩
  · obtain ⟨hcf, hco⟩ := capApply_leaves s (dirMaskKeys p rx)
    have hck : DirKeeps p rx s (capApply s (dirMaskKeys p rx)) := .of_onlyIn hco fun _ hk => .inr hk
    generalize capApply s (dirMaskKeys p rx) = a at hcf hck
    have hatdms : a.tdms = s.tdms := by rw [hcf]
    have halen : a.tdms.length = 32 := by rw [hatdms, hlen]
    generalize (if (a.flag (td (R.TDM.TX_CTRL.MASK_MUTE p) rx) && !dirStopped a p rx) = true then
      (List.range 32).filter fun i => ((List.range 32).map (dirSlot s p rx)).getD i none != ((List.range 32).map (dirSlot a p rx)).getD i none
      else []) = m
    have hset := setTdm_frame a p rx { a.tdm p rx with muted := m }
    have hself := tdm_setTdm_self (s := a) (p := p) (rx := rx) { a.tdm p rx with muted := m } hp halen
    have hblen := (length_tdms_setTdm a p rx { a.tdm p rx with muted := m }).trans halen
    generalize a.setTdm p rx { a.tdm p rx with muted := m } = b at hset hself hblen
    have hev : RfFrame b (b.setFld (td (R.TDM.TX_STAT.MASK_EV p) rx) 1) := (RfFrame.refl b).setFld _ _
    have hek : DirKeeps p rx b (b.setFld (td (R.TDM.TX_STAT.MASK_EV p) rx) 1) := fun f hf => State.fld_setFld_apart b _ hf.ev
    generalize b.setFld (td (R.TDM.TX_STAT.MASK_EV p) rx) 1 = c at hev hek
    obtain ⟨hif, hio⟩ := impStep_maskEntries c p rx k
    generalize maskEntries c p rx k = d at hif hio
    have hpf := pendRefresh_frame d
    have hpo : OnlyIn (· = R.REGIF.UPDATE_STAT.reg) d (pendRefresh d) := (OnlyIn.refl d).setFld _ rfl
    generalize pendRefresh d = e at hpf hpo
    have hetdms : e.tdms = b.tdms := by
      rw [hpf]
      show d.tdms = _
      rw [hif]
      show c.tdms = _
      rw [hev]
    have hik : DirKeeps p rx c d := .of_onlyIn hio fun x hx => .inl (.inr hx.1)
    have hpk : DirKeeps p rx d e := .of_onlyIn hpo fun x hx => .inl (.inl (by rw [hx]; decide))
    have hbk : DirKeeps p rx a b := .of_rf (by rw [hset])
    refine ⟨?_, ⟨m, ?_⟩, by rw [hetdms]; exact hblen, (((hck.trans hbk).trans hek).trans hik).trans hpk⟩
    · have h1 : MaskFrame s a := by
        unfold MaskFrame
        rw [hcf]
      have h2 : MaskFrame a b := by
        unfold MaskFrame
        rw [hset]
      have h3 : MaskFrame b c := by
        unfold MaskFrame
        unfold RfFrame at hev
        rw [hev]
      have h4 : MaskFrame c d := by
        unfold MaskFrame
        rw [hif]
      have h5 : MaskFrame d e := by
        unfold MaskFrame
        unfold RfFrame at hpf
        rw [hpf]
      exact (((h1.trans h2).trans h3).trans h4).trans h5
    · rw [tdm_of_tdms hetdms, hself, tdm_of_tdms hatdms]

end

end Sys2Proof.Machine
end

section
/-! A TDM direction moves from one state to another (R237). -/

namespace Sys2Proof.Machine

section
variable {s t : State} {p : Nat} {rx : Bool}

theorem td_lo (f : Fld) (rx : Bool) : (td f rx).lo = f.lo := by cases rx <;> rfl

theorem td_w (f : Fld) (rx : Bool) : (td f rx).w = f.w := by cases rx <;> rfl

theorem td_key (f : Fld) (rx : Bool) : (td f rx).key = f.key + 0x20 * b2n rx := by cases rx <;> rfl

theorem b2n_le (b : Bool) : b2n b ≤ 1 := by cases b <;> decide

/-- Fields of one register beside each other. -/
theorem Fld.apart_of_below {f g : Fld} (h : (f.lo + f.w).ble g.lo = true) : f.apart g = true ∧ g.apart f = true := by
  have := Nat.le_of_ble_eq_true h
  constructor <;> simp [Fld.apart, this]

theorem td_apart (f g : Fld) (rx : Bool) (h : (f.lo + f.w).ble g.lo = true) :
    (td f rx).apart (td g rx) = true ∧ (td g rx).apart (td f rx) = true :=
  Fld.apart_of_below (by rw [td_lo, td_w, td_lo]; exact h)

/-- The direction has its new state, and the event of it is out. -/
def tdmTold (s : State) (p : Nat) (rx : Bool) (st : Nat) : State :=
  let s := s.setFlds [(td (R.TDM.TX_STAT.STATE p) rx, st), (td (R.TDM.TX_STAT.STATE_EV p) rx, 1)]
  let (i, s) := s.fresh
  s.event 0xE060 [byteOf p, byteOf (1 - b2n rx), byteOf st, (Config.freeValue i).setWidth 8]

/-- A direction that has come to rest. -/
def dirRest (s : State) (p : Nat) (rx off : Bool) : State :=
  let s := pinsReleased (s.dropUser (b2n rx) p) p rx off
  let s := s.setFlds [(td (R.TDM.TX_CMD.STOP p) rx, 0), (td (R.TDM.TX_CMD.ARM p) rx, 0)]
  s.setTdm p rx { s.tdm p rx with start := none, ref := none, outs := 0, good := 0, muted := [], tail := [] }

theorem tdmGo_eq (s : State) (p : Nat) (rx : Bool) (st : Nat) : tdmGo s p rx st = if s.tdmState p rx = st then s
    else if st ≤ tdmReady then
      maskApply (dirRest (tdmTold s p rx st) p rx (st == 0)) p rx
        (mcsCount (dirRest (tdmTold s p rx st) p rx (st == 0)) ((dirRest (tdmTold s p rx st) p rx (st == 0)).tdmMcs p rx))
    else tdmTold s p rx st := rfl

/-- A field that the change of a direction's state leaves. -/
structure StateFree (p : Nat) (rx : Bool) (f : Fld) : Prop where
  evt   : f.key < 0x5000 ∨ 0x6000 ≤ f.key
  state : f.apart (td (R.TDM.TX_STAT.STATE p) rx) = true
  event : f.apart (td (R.TDM.TX_STAT.STATE_EV p) rx) = true

/-- A direction's new state, with its event. -/
structure StateStep (p : Nat) (rx : Bool) (st : Nat) (s t : State) : Prop where
  frame : t = { s with rf := t.rf, freeCtr := t.freeCtr, mbx := { s.mbx with evts := t.mbx.evts } }
  state : t.tdmState p rx = st
  event : t.fld (td (R.TDM.TX_STAT.STATE_EV p) rx) = 1
  keeps : ∀ f, StateFree p rx f → t.fld f = s.fld f

theorem stat_key (hp : p < 16) (rx : Bool) : 0x8000 ≤ 0x8018 + 256 * p + 0x20 * b2n rx ∧ 0x8018 + 256 * p + 0x20 * b2n rx < 0x9000 := by
  have := b2n_le rx
  omega

theorem tdmTold_leaves (s : State) {st : Nat} (hp : p < 16) (hst : st < 16) : StateStep p rx st s (tdmTold s p rx st) := by
  obtain ⟨hap, hap'⟩ := td_apart (R.TDM.TX_STAT.STATE_EV p) (R.TDM.TX_STAT.STATE p) rx rfl
  have hevk : ∀ f : Fld, f.key < 0x5000 ∨ 0x6000 ≤ f.key → ∀ g ∈ evtFlds, f.apart g = true := fun f hf g hg => by
    refine Fld.apart_of_key_ne ?_
    simp only [evtFlds, List.mem_cons, List.not_mem_nil, or_false] at hg
    rcases hg with rfl | rfl <;> simp only [R.MBX.STAT.EVT_PENDING, R.MBX.RING_STAT.EVT_LOST] <;> omega
  have hkey : ∀ lo w, (⟨0x8018 + 256 * p + 0x20 * b2n rx, lo, w⟩ : Fld).key < 0x5000 ∨ 0x6000 ≤ (⟨0x8018 + 256 * p + 0x20 * b2n rx, lo, w⟩ : Fld).key :=
    fun lo w => .inr (by show 0x6000 ≤ 0x8018 + 256 * p + 0x20 * b2n rx; omega)
  have hset := State.setFlds_frame s [(td (R.TDM.TX_STAT.STATE p) rx, st), (td (R.TDM.TX_STAT.STATE_EV p) rx, 1)]
  have hstate : (s.setFlds [(td (R.TDM.TX_STAT.STATE p) rx, st), (td (R.TDM.TX_STAT.STATE_EV p) rx, 1)]).fld (td (R.TDM.TX_STAT.STATE p) rx) = st := by
    show ((s.setFld (td (R.TDM.TX_STAT.STATE p) rx) st).setFld (td (R.TDM.TX_STAT.STATE_EV p) rx) 1).fld _ = st
    rw [State.fld_setFld_apart _ _ hap', State.fld_setFld_self _ _ _ (by rw [td_lo, td_w]; exact Nat.le_of_ble_eq_true rfl), td_w]
    exact Nat.mod_eq_of_lt hst
  have hev : (s.setFlds [(td (R.TDM.TX_STAT.STATE p) rx, st), (td (R.TDM.TX_STAT.STATE_EV p) rx, 1)]).fld (td (R.TDM.TX_STAT.STATE_EV p) rx) = 1 := by
    show ((s.setFld (td (R.TDM.TX_STAT.STATE p) rx) st).setFld (td (R.TDM.TX_STAT.STATE_EV p) rx) 1).fld _ = 1
    rw [State.fld_setFld_self _ _ _ (by rw [td_lo, td_w]; exact Nat.le_of_ble_eq_true rfl), td_w]
    rfl
  have hkeep : ∀ f, StateFree p rx f →
      (s.setFlds [(td (R.TDM.TX_STAT.STATE p) rx, st), (td (R.TDM.TX_STAT.STATE_EV p) rx, 1)]).fld f = s.fld f := fun f hf => by
    show ((s.setFld (td (R.TDM.TX_STAT.STATE p) rx) st).setFld (td (R.TDM.TX_STAT.STATE_EV p) rx) 1).fld _ = _
    rw [State.fld_setFld_apart _ _ hf.event, State.fld_setFld_apart _ _ hf.state]
  unfold tdmTold
  dsimp only
  generalize s.setFlds [(td (R.TDM.TX_STAT.STATE p) rx, st), (td (R.TDM.TX_STAT.STATE_EV p) rx, 1)] = u at hset hstate hev hkeep
  obtain ⟨i, v, hfresh, hv⟩ : ∃ i v, u.fresh = (i, v) ∧ v = { u with freeCtr := v.freeCtr } := ⟨_, _, rfl, rfl⟩
  rw [hfresh]
  dsimp only
  have hvf : ∀ f, v.fld f = u.fld f := fun f => State.fld_of_rf_eq (by rw [hv]) f
  obtain ⟨hframe, htouch⟩ := EvtStep.event v 0xE060 [byteOf p, byteOf (1 - b2n rx), byteOf st, (Config.freeValue i).setWidth 8]
  generalize v.event 0xE060 [byteOf p, byteOf (1 - b2n rx), byteOf st, (Config.freeValue i).setWidth 8] = w at hframe htouch
  have hw : ∀ f : Fld, f.key < 0x5000 ∨ 0x6000 ≤ f.key → w.fld f = u.fld f := fun f hf => (htouch.fld (hevk f hf)).trans (hvf f)
  have hstat : ∀ g : Fld, g.key = 0x8018 + 256 * p → (td g rx).key < 0x5000 ∨ 0x6000 ≤ (td g rx).key := fun g hg => by
    rw [td_key, hg]
    exact hkey 0 0
  refine ⟨?_, (hw _ (hstat _ rfl)).trans hstate, (hw _ (hstat _ rfl)).trans hev, fun f hf => (hw f hf.evt).trans (hkeep f hf)⟩
  rw [hframe, hv, hset]

/-- A direction's pins are released. -/
theorem pinsReleased_leaves (s : State) (p : Nat) (rx off : Bool) : RfFrame s (pinsReleased s p rx off) ∧
    ∀ f, DirFree p rx f → (pinsReleased s p rx off).fld f = s.fld f := by
  have hgrd : ∀ g : Fld, 0x14000 ≤ g.key → ∀ (v : Nat) (u : State), ∀ f, DirFree p rx f → (u.setFld g v).fld f = u.fld f := fun g hg v u f hf => by
    refine State.fld_setFld_ne u v ?_
    have := hf.hi
    omega
  unfold pinsReleased
  dsimp only
  have h1 : RfFrame s (s.setFld (R.GRD.TDM_STAT.TRIPPED p) (if rx then s.fld (R.GRD.TDM_STAT.TRIPPED p) % 8 else
    s.fld (R.GRD.TDM_STAT.TRIPPED p) / 8 * 8)) := (RfFrame.refl s).setFld _ _
  have k1 := hgrd (R.GRD.TDM_STAT.TRIPPED p) (by simp only [R.GRD.TDM_STAT.TRIPPED]; omega) (if rx then s.fld (R.GRD.TDM_STAT.TRIPPED p) % 8 else
    s.fld (R.GRD.TDM_STAT.TRIPPED p) / 8 * 8) s
  generalize s.setFld (R.GRD.TDM_STAT.TRIPPED p) (if rx then s.fld (R.GRD.TDM_STAT.TRIPPED p) % 8 else
    s.fld (R.GRD.TDM_STAT.TRIPPED p) / 8 * 8) = a at h1 k1
  have h2 : RfFrame a (if off then a.setFld (if rx then R.GRD.TDM_STAT.RX_SWAP p else R.GRD.TDM_STAT.TX_SWAP p) 0 else a) := by
    split
    · exact (RfFrame.refl a).setFld _ _
    · exact .refl a
  have k2 : ∀ f, DirFree p rx f → (if off then a.setFld (if rx then R.GRD.TDM_STAT.RX_SWAP p else R.GRD.TDM_STAT.TX_SWAP p) 0 else a).fld f = a.fld f :=
    fun f hf => by
      split
      · refine hgrd _ ?_ 0 a f hf
        cases rx
        · simp only [R.GRD.TDM_STAT.TX_SWAP, Bool.false_eq_true, if_false]; omega
        · simp only [R.GRD.TDM_STAT.RX_SWAP, if_true]; omega
      · rfl
  generalize (if off then a.setFld (if rx then R.GRD.TDM_STAT.RX_SWAP p else R.GRD.TDM_STAT.TX_SWAP p) 0 else a) = b at h2 k2
  have hoe : ∀ f, DirFree p rx f → (oeRefresh b).fld f = b.fld f := fun f hf => by
    have hgo : ∀ (l : List Nat) (u : State), (l.foldl (fun s p =>
        s.setFlag (R.TDM.TX_STAT.OE_HELD p) (sharedPort s p || nbit (s.fld (R.GRD.TDM_STAT.TRIPPED p)) 2)) u).fld f = u.fld f := fun l => by
      induction l with
      | nil => exact fun u => rfl
      | cons q l ih => exact fun u => (ih _).trans (State.fld_setFld_apart u _ (hf.held q))
    exact hgo _ b
  exact ⟨(h1.trans h2).trans (oeRefresh_frame b), fun f hf => (hoe f hf).trans ((k2 f hf).trans (k1 f hf))⟩

/-- The key of a direction's commands. -/
def cmdKey (p : Nat) (rx : Bool) : Nat := 0x8014 + 256 * p + 0x20 * b2n rx

/-- A direction at rest: free, with no start, no mute and no frame left. -/
structure RestStep (p : Nat) (rx : Bool) (s t : State) : Prop where
  tdm   : ∃ m, t.tdm p rx = { s.tdm p rx with start := none, ref := none, outs := 0, good := 0, muted := m, tail := [] }
  user  : t.user = s.user.filter fun u => !(u.kind == b2n rx && u.item == p)
  stop  : t.fld (td (R.TDM.TX_CMD.STOP p) rx) = 0
  arm   : t.fld (td (R.TDM.TX_CMD.ARM p) rx) = 0
  keeps : ∀ f, DirFree p rx f → f.key ≠ cmdKey p rx → t.fld f = s.fld f

theorem dirRest_leaves (s : State) (off : Bool) (hp : p < 16) (hlen : s.tdms.length = 32) : RestStep p rx s (dirRest s p rx off) ∧
    (dirRest s p rx off).tdms.length = 32 := by
  obtain ⟨hpf, hpk⟩ := pinsReleased_leaves (s.dropUser (b2n rx) p) p rx off
  have hu : (s.dropUser (b2n rx) p).user = s.user.filter fun u => !(u.kind == b2n rx && u.item == p) := rfl
  have huf : ∀ f, (s.dropUser (b2n rx) p).fld f = s.fld f := fun f => State.fld_of_rf_eq rfl f
  have hut : (s.dropUser (b2n rx) p).tdms = s.tdms := rfl
  unfold dirRest
  dsimp only
  generalize s.dropUser (b2n rx) p = a at hpf hpk hu huf hut
  generalize pinsReleased a p rx off = b at hpf hpk
  have hcf := State.setFlds_frame b [(td (R.TDM.TX_CMD.STOP p) rx, 0), (td (R.TDM.TX_CMD.ARM p) rx, 0)]
  obtain ⟨hap, hap'⟩ := td_apart (R.TDM.TX_CMD.ARM p) (R.TDM.TX_CMD.STOP p) rx rfl
  have hstop : (b.setFlds [(td (R.TDM.TX_CMD.STOP p) rx, 0), (td (R.TDM.TX_CMD.ARM p) rx, 0)]).fld (td (R.TDM.TX_CMD.STOP p) rx) = 0 := by
    show ((b.setFld (td (R.TDM.TX_CMD.STOP p) rx) 0).setFld (td (R.TDM.TX_CMD.ARM p) rx) 0).fld _ = 0
    rw [State.fld_setFld_apart _ _ hap', State.fld_setFld_self _ _ _ (by rw [td_lo, td_w]; exact Nat.le_of_ble_eq_true rfl)]
    exact Nat.zero_mod _
  have harm : (b.setFlds [(td (R.TDM.TX_CMD.STOP p) rx, 0), (td (R.TDM.TX_CMD.ARM p) rx, 0)]).fld (td (R.TDM.TX_CMD.ARM p) rx) = 0 := by
    show ((b.setFld (td (R.TDM.TX_CMD.STOP p) rx) 0).setFld (td (R.TDM.TX_CMD.ARM p) rx) 0).fld _ = 0
    rw [State.fld_setFld_self _ _ _ (by rw [td_lo, td_w]; exact Nat.le_of_ble_eq_true rfl)]
    exact Nat.zero_mod _
  have hck : ∀ f : Fld, f.key ≠ cmdKey p rx →
      (b.setFlds [(td (R.TDM.TX_CMD.STOP p) rx, 0), (td (R.TDM.TX_CMD.ARM p) rx, 0)]).fld f = b.fld f := fun f hf => by
    show ((b.setFld (td (R.TDM.TX_CMD.STOP p) rx) 0).setFld (td (R.TDM.TX_CMD.ARM p) rx) 0).fld _ = _
    rw [State.fld_setFld_ne _ _ (by rw [td_key]; exact hf), State.fld_setFld_ne _ _ (by rw [td_key]; exact hf)]
  generalize b.setFlds [(td (R.TDM.TX_CMD.STOP p) rx, 0), (td (R.TDM.TX_CMD.ARM p) rx, 0)] = c at hcf hstop harm hck
  have hctdms : c.tdms = s.tdms := by
    unfold RfFrame at hpf
    rw [hcf, hpf, ← hut]
  have hclen : c.tdms.length = 32 := by rw [hctdms, hlen]
  have hset := setTdm_frame c p rx { c.tdm p rx with start := none, ref := none, outs := 0, good := 0, muted := [], tail := [] }
  have hself := tdm_setTdm_self (s := c) (p := p) (rx := rx)
    { c.tdm p rx with start := none, ref := none, outs := 0, good := 0, muted := [], tail := [] } hp hclen
  have hdlen := (length_tdms_setTdm c p rx
    { c.tdm p rx with start := none, ref := none, outs := 0, good := 0, muted := [], tail := [] }).trans hclen
  generalize c.setTdm p rx { c.tdm p rx with start := none, ref := none, outs := 0, good := 0, muted := [], tail := [] } = d at hset hself hdlen
  have hdf : ∀ f, d.fld f = c.fld f := fun f => State.fld_of_rf_eq (by rw [hset]) f
  refine ⟨⟨⟨[], by rw [hself, tdm_of_tdms hctdms]⟩, ?_, (hdf _).trans hstop, (hdf _).trans harm,
    fun f hf hk => (hdf f).trans ((hck f hk).trans ((hpk f hf).trans (huf f)))⟩, hdlen⟩
  rw [← hu, hset]
  show c.user = _
  rw [hcf]
  show b.user = _
  rw [hpf]

/-- A direction comes to rest in READY or OFF. -/
theorem tdmGo_rest {st : Nat} (hp : p < 16) (hlen : s.tdms.length = 32) (hst : st ≤ tdmReady) (hne : s.tdmState p rx ≠ st) :
    (tdmGo s p rx st).tdmState p rx = st ∧ RestStep p rx (tdmTold s p rx st) (tdmGo s p rx st) := by
  have hst16 : st < 16 := Nat.lt_of_le_of_lt hst (by decide)
  obtain ⟨hframe, hstate, -, -⟩ := tdmTold_leaves s (p := p) (rx := rx) hp hst16
  rw [tdmGo_eq, if_neg hne, if_pos hst]
  have hulen : (tdmTold s p rx st).tdms.length = 32 := by
    rw [hframe]
    exact hlen
  generalize tdmTold s p rx st = u at hstate hulen
  obtain ⟨hrest, hvlen⟩ := dirRest_leaves (rx := rx) u (st == 0) hp hulen
  generalize dirRest u p rx (st == 0) = v at hrest hvlen
  obtain ⟨hmf, ⟨m, hm⟩, -, hmk⟩ := maskApply_leaves (s := v) (p := p) (rx := rx) (mcsCount v (v.tdmMcs p rx)) hp hvlen
  generalize maskApply v p rx (mcsCount v (v.tdmMcs p rx)) = w at hmf hm hmk
  have hfree : ∀ f : Fld, (f.key = 0x8018 + 256 * p + 0x20 * b2n rx ∨ f.key = cmdKey p rx) →
      f.apart (td (R.TDM.TX_STAT.MASK_EV p) rx) = true → (∀ q, f.apart (R.TDM.TX_STAT.OE_HELD q) = true) → DirFree p rx f := fun f hk he hh => by
    have hb := b2n_le rx
    unfold cmdKey at hk
    refine ⟨by omega, by omega, ?_, he, hh⟩
    simp only [dirMaskKeys, td_key, R.TDM.TX_MASK.SLOTS, R.TDM.TX_CTRL.MASK_MUTE, List.mem_cons, List.not_mem_nil, or_false]
    omega
  have hcmd : ∀ g : Fld, g.key = 0x8014 + 256 * p → DirFree p rx (td g rx) := fun g hg => by
    have hne : ∀ x, (0x8014 + 256 * p + 0x20 * b2n rx) ≠ 0x8018 + 256 * x := fun x => by
      have hb := b2n_le rx
      omega
    refine hfree _ (.inr (by rw [td_key, hg, cmdKey])) (Fld.apart_of_key_ne ?_) fun q => Fld.apart_of_key_ne ?_
    · rw [td_key, td_key, hg]
      simp only [R.TDM.TX_STAT.MASK_EV]
      omega
    · rw [td_key, hg]
      exact hne q
  have hstat : DirFree p rx (td (R.TDM.TX_STAT.STATE p) rx) := hfree _ (.inl (td_key _ _)) (td_apart _ _ rx rfl).2 fun q => by
    refine (Fld.apart_of_below (f := R.TDM.TX_STAT.OE_HELD q) ?_).2
    rw [td_lo]
    rfl
  have hnot : (td (R.TDM.TX_STAT.STATE p) rx).key ≠ cmdKey p rx := by
    rw [td_key, cmdKey]
    simp only [R.TDM.TX_STAT.STATE]
    omega
  refine ⟨(hmk _ hstat).trans ((hrest.keeps _ hstat hnot).trans hstate), ?_⟩
  obtain ⟨⟨m', htdm⟩, huser, hstop, harm, hkeeps⟩ := hrest
  refine ⟨⟨m, by rw [hm, htdm]⟩, ?_, (hmk _ (hcmd _ rfl)).trans hstop, (hmk _ (hcmd _ rfl)).trans harm,
    fun f hf hk => (hmk f hf).trans (hkeeps f hf hk)⟩
  rw [hmf]
  exact huser

end

end Sys2Proof.Machine
end

section
/-! A TDM direction is armed, stopped and started, and loses its clock (R236 to R238, R243). -/

namespace Sys2Proof.Machine

section
variable {s t : State} {p : Nat} {rx : Bool}

/-- A direction goes on to ARMED or a later state. -/
theorem tdmGo_told {st : Nat} (hst : tdmReady < st) (hne : s.tdmState p rx ≠ st) : tdmGo s p rx st = tdmTold s p rx st := by
  rw [tdmGo_eq, if_neg hne, if_neg (Nat.not_le.mpr hst)]

theorem told_tdms {st : Nat} (h : StateStep p rx st s t) : t.tdms = s.tdms := by rw [h.frame]

/-- A field of a direction's register other than its status is left by a change of state. -/
theorem stateFree_of_key {f : Fld} (h : f.key ≠ 0x8018 + 256 * p + 0x20 * b2n rx) (he : f.key < 0x5000 ∨ 0x6000 ≤ f.key) : StateFree p rx f :=
  ⟨he, Fld.apart_of_key_ne (by rw [td_key]; exact h), Fld.apart_of_key_ne (by rw [td_key]; exact h)⟩

/-- A direction at rest is left by none of its users. -/
theorem RestStep.free (h : RestStep p rx s t) : ∀ u ∈ t.user, ¬(u.kind = b2n rx ∧ u.item = p) := by
  intro u hu hsame
  rw [h.user] at hu
  have hkept := (List.mem_filter.mp hu).2
  rw [hsame.1, hsame.2] at hkept
  simp at hkept

theorem tdmState_cmd (s : State) {f : Fld} (v : Nat) (hf : f.key = 0x8014 + 256 * p) : (s.setFld (td f rx) v).tdmState p rx = s.tdmState p rx :=
  State.fld_setFld_ne s v (by
    rw [td_key, td_key, hf]
    simp only [R.TDM.TX_STAT.STATE]
    omega)

/-! ### ARM and STOP (R237, R238) -/

theorem ready_of_armOk (h : armOk s p rx = true) : s.tdmState p rx = tdmReady := by
  by_contra hne
  have hno : (s.tdmState p rx == tdmReady) = false := beq_eq_false_iff_ne.mpr hne
  unfold armOk at h
  dsimp only at h
  rw [hno] at h
  simp at h

/-- What the ARM bit of a command does. -/
def cmdArmed (s : State) (p : Nat) (rx arm : Bool) : State :=
  let st := s.tdmState p rx
  let fired := (s.tdm p rx).start.isSome
  if arm then
    (if st = tdmReady ∨ st = tdmOff then
       (if armOk s p rx then
          (tdmGo (s.setFld (td (R.TDM.TX_CMD.ARM p) rx) 1) p rx tdmArmed).addUser (b2n rx) p (s.tdmMcs p rx)
        else s.setFld (td (R.TDM.TX_STAT.CMD_BAD p) rx) 1)
     else s)
  else if st = tdmArmed ∧ !fired then tdmGo s p rx tdmReady
  else s

/-- What the STOP bit of a command does. -/
def cmdStopped (s : State) (p : Nat) (rx fired stop : Bool) : State :=
  let st := s.tdmState p rx
  if !stop then s
  else if st = tdmArmed then
    (if fired then s.setFld (td (R.TDM.TX_CMD.STOP p) rx) 1 else tdmGo s p rx tdmReady)
  else if st = tdmLeadIn ∨ st = tdmRunning then s.setFld (td (R.TDM.TX_CMD.STOP p) rx) 1
  else if st = tdmClockLost then tdmGo s p rx tdmReady
  else s

theorem cmdWrite_eq (s : State) (p : Nat) (rx : Bool) (v : Word) :
    cmdWrite s p rx v = cmdStopped (cmdArmed s p rx (v.getLsbD 0)) p rx (s.tdm p rx).start.isSome (v.getLsbD 1) := rfl

theorem exec_armWrite (s : State) (p : Nat) (rx arm : Bool) : exec (.tdmArmWrite p rx arm) s = .next (cmdArmed s p rx arm) := by
  show ok (cmdWrite s p rx (if arm then 1#32 else 0#32)) = _
  rw [cmdWrite_eq]
  cases arm <;> rfl

theorem exec_stopWrite (s : State) (p : Nat) (rx : Bool) :
    ∃ arm, exec (.tdmStopWrite p rx) s = .next (cmdStopped (cmdArmed s p rx arm) p rx (s.tdm p rx).start.isSome true) := by
  have hlt : s.fld (td (R.TDM.TX_CMD.ARM p) rx) < 2 := by
    have := State.fld_lt s (td (R.TDM.TX_CMD.ARM p) rx)
    rwa [td_w] at this
  refine ⟨(2#32 ||| BitVec.ofNat 32 (s.fld (td (R.TDM.TX_CMD.ARM p) rx))).getLsbD 0, ?_⟩
  show ok (cmdWrite s p rx (2#32 ||| BitVec.ofNat 32 (s.fld (td (R.TDM.TX_CMD.ARM p) rx)))) = _
  rw [cmdWrite_eq]
  have hstop : ∀ n, n < 2 → (2#32 ||| BitVec.ofNat 32 n).getLsbD 1 = true := by decide
  rw [hstop _ hlt]

theorem cmdArmed_of_rest (h : s.tdmState p rx = tdmReady ∨ s.tdmState p rx = tdmOff) : cmdArmed s p rx true = if armOk s p rx then
    (tdmGo (s.setFld (td (R.TDM.TX_CMD.ARM p) rx) 1) p rx tdmArmed).addUser (b2n rx) p (s.tdmMcs p rx)
    else s.setFld (td (R.TDM.TX_STAT.CMD_BAD p) rx) 1 := by
  unfold cmdArmed
  dsimp only
  rw [if_pos rfl, if_pos h]

theorem cmdArmed_of_armed (arm : Bool) (h : s.tdmState p rx = tdmArmed) (hs : (s.tdm p rx).start = none) :
    cmdArmed s p rx arm = if arm then s else tdmGo s p rx tdmReady := by
  unfold cmdArmed
  dsimp only
  rw [h, hs, if_neg (show ¬ (tdmArmed = tdmReady ∨ tdmArmed = tdmOff) by decide), if_pos (show tdmArmed = tdmArmed ∧ (!(none : Option (Nat × Nat)).isSome) = true from ⟨rfl, rfl⟩)]

theorem cmdArmed_of_going (arm : Bool) (h : s.tdmState p rx = tdmRunning ∨ s.tdmState p rx = tdmLeadIn) : cmdArmed s p rx arm = s := by
  unfold cmdArmed
  dsimp only
  have hno : ¬ (s.tdmState p rx = tdmReady ∨ s.tdmState p rx = tdmOff) := by rcases h with h | h <;> rw [h] <;> decide
  have hna : s.tdmState p rx ≠ tdmArmed := by rcases h with h | h <;> rw [h] <;> decide
  rw [if_neg hno, if_neg (fun h : _ ∧ _ => hna h.1), ite_self]

theorem cmdStopped_of_going (fired : Bool) (h : s.tdmState p rx = tdmRunning ∨ s.tdmState p rx = tdmLeadIn) :
    cmdStopped s p rx fired true = s.setFld (td (R.TDM.TX_CMD.STOP p) rx) 1 := by
  unfold cmdStopped
  dsimp only
  have hna : s.tdmState p rx ≠ tdmArmed := by rcases h with h | h <;> rw [h] <;> decide
  rw [if_neg (show ¬ (!true) = true by decide), if_neg hna, if_pos h.symm]

/-- A stop takes a direction that is ARMED and not fired to READY, and leaves one that is READY. -/
theorem cmdStopped_unfired (u : State) (h : u.tdmState p rx = tdmArmed ∨ u.tdmState p rx = tdmReady) :
    cmdStopped u p rx false true = if u.tdmState p rx = tdmArmed then tdmGo u p rx tdmReady else u := by
  unfold cmdStopped
  dsimp only
  rcases h with h | h
  · rw [if_neg (show ¬ (!true) = true by decide), h, if_pos rfl, if_neg Bool.false_ne_true, if_pos rfl]
  · rw [if_neg (show ¬ (!true) = true by decide), h]
    rfl

theorem tdmArm_goes (hp : p < 16) (hok : armOk s p rx = true) : Goes (.tdmArmWrite p rx true) s fun t =>
    s.tdmState p rx = tdmReady ∧ t.tdmState p rx = tdmArmed ∧ t.fld (td (R.TDM.TX_CMD.ARM p) rx) = 1 ∧
      ⟨b2n rx, p, s.tdmMcs p rx⟩ ∈ t.user ∧ t.tdms = s.tdms ∧ t.imp = s.imp := by
  have hready := ready_of_armOk hok
  have hset : RfFrame s (s.setFld (td (R.TDM.TX_CMD.ARM p) rx) 1) := (RfFrame.refl s).setFld _ _
  have hst : (s.setFld (td (R.TDM.TX_CMD.ARM p) rx) 1).tdmState p rx = tdmReady := (tdmState_cmd s 1 rfl).trans hready
  have harm : (s.setFld (td (R.TDM.TX_CMD.ARM p) rx) 1).fld (td (R.TDM.TX_CMD.ARM p) rx) = 1 := by
    rw [State.fld_setFld_self _ _ _ (by rw [td_lo, td_w]; exact Nat.le_of_ble_eq_true rfl), td_w]
    rfl
  refine ⟨_, (exec_armWrite s p rx true).trans (congrArg ok ((cmdArmed_of_rest (.inl hready)).trans (if_pos hok))), hready, ?_⟩
  generalize s.setFld (td (R.TDM.TX_CMD.ARM p) rx) 1 = u at hset hst harm
  rw [tdmGo_told (st := tdmArmed) (by decide) (by rw [hst]; decide)]
  obtain ⟨hframe, hstate, -, hkeeps⟩ := tdmTold_leaves u (p := p) (rx := rx) (st := tdmArmed) hp (by decide)
  generalize tdmTold u p rx tdmArmed = v at hframe hstate hkeeps
  have hadd : v.addUser (b2n rx) p (s.tdmMcs p rx) = { v with user := (v.addUser (b2n rx) p (s.tdmMcs p rx)).user } := rfl
  have hmem : (⟨b2n rx, p, s.tdmMcs p rx⟩ : User) ∈ (v.addUser (b2n rx) p (s.tdmMcs p rx)).user := List.mem_cons_self
  generalize v.addUser (b2n rx) p (s.tdmMcs p rx) = w at hadd hmem
  have hwf : ∀ f, w.fld f = v.fld f := fun f => State.fld_of_rf_eq (by rw [hadd]) f
  refine ⟨(hwf _).trans hstate, (hwf _).trans ((hkeeps _ (stateFree_of_key ?_ ?_)).trans harm), hmem, ?_, ?_⟩
  · rw [td_key]
    simp only [R.TDM.TX_CMD.ARM]
    omega
  · rw [td_key]
    simp only [R.TDM.TX_CMD.ARM]
    omega
  · rw [hadd]
    show v.tdms = _
    rw [hframe]
    show u.tdms = _
    rw [hset]
  · have himpo : w.impo = s.impo := by
      rw [hadd]
      show v.impo = _
      rw [hframe]
      show u.impo = _
      rw [hset]
    funext d
    rw [State.imp, himpo, State.imp]

theorem tdmArm_bad_goes (hok : armOk s p rx = false) (hst : s.tdmState p rx ≤ tdmReady) : Goes (.tdmArmWrite p rx true) s fun t =>
    t = { s with rf := t.rf } ∧ t.fld (td (R.TDM.TX_STAT.CMD_BAD p) rx) = 1 ∧ Touches [td (R.TDM.TX_STAT.CMD_BAD p) rx] s t := by
  have hrest : s.tdmState p rx = tdmReady ∨ s.tdmState p rx = tdmOff := by
    unfold tdmReady tdmOff at *
    omega
  refine ⟨s.setFld (td (R.TDM.TX_STAT.CMD_BAD p) rx) 1, ?_, rfl, ?_, touches_setFld (by simp) (.refl _ s)⟩
  · rw [exec_armWrite, cmdArmed_of_rest hrest, hok]
    rfl
  · rw [State.fld_setFld_self _ _ _ (by rw [td_lo, td_w]; exact Nat.le_of_ble_eq_true rfl), td_w]
    rfl

/-- A direction comes to rest in READY. -/
theorem rest_goes {c : Instr} (hp : p < 16) (hlen : s.tdms.length = 32) (hne : s.tdmState p rx ≠ tdmReady)
    (hexec : exec c s = .next (tdmGo s p rx tdmReady)) : Goes c s fun t =>
      t.tdmState p rx = tdmReady ∧ t.fld (td (R.TDM.TX_CMD.ARM p) rx) = 0 ∧ t.fld (td (R.TDM.TX_CMD.STOP p) rx) = 0 ∧
      (t.tdm p rx).start = none ∧ ∀ u ∈ t.user, ¬(u.kind = b2n rx ∧ u.item = p) := by
  obtain ⟨hstate, hrest⟩ := tdmGo_rest (st := tdmReady) hp hlen (le_refl _) hne
  refine ⟨_, hexec, hstate, hrest.arm, hrest.stop, ?_, hrest.free⟩
  obtain ⟨m, hm⟩ := hrest.tdm
  rw [hm]

theorem tdmUnarm_goes {c : Instr} (hp : p < 16) (hlen : s.tdms.length = 32) (hst : s.tdmState p rx = tdmArmed) (hs : (s.tdm p rx).start = none)
    (hc : c = .tdmArmWrite p rx false ∨ c = .tdmStopWrite p rx) : Goes c s fun t =>
      t.tdmState p rx = tdmReady ∧ t.fld (td (R.TDM.TX_CMD.ARM p) rx) = 0 ∧ ∀ u ∈ t.user, ¬(u.kind = b2n rx ∧ u.item = p) := by
  have hne : s.tdmState p rx ≠ tdmReady := by rw [hst]; decide
  have hexec : exec c s = .next (tdmGo s p rx tdmReady) := by
    rcases hc with rfl | rfl
    · rw [exec_armWrite, cmdArmed_of_armed false hst hs]
      rfl
    · obtain ⟨arm, harm⟩ := exec_stopWrite s p rx
      rw [harm, cmdArmed_of_armed arm hst hs, hs]
      cases arm with
      | true =>
        rw [if_pos rfl]
        exact congrArg ok ((cmdStopped_unfired s (.inl hst)).trans (if_pos hst))
      | false =>
        have hready := (tdmGo_rest (st := tdmReady) hp hlen (le_refl _) hne).1
        rw [if_neg Bool.false_ne_true]
        exact congrArg ok ((cmdStopped_unfired _ (.inr hready)).trans (if_neg (by rw [hready]; decide)))
  obtain ⟨t, ht, hstate, harm, -, -, huser⟩ := rest_goes hp hlen hne hexec
  exact ⟨t, ht, hstate, harm, huser⟩

theorem tdmStop_goes (h : s.tdmState p rx = tdmRunning ∨ s.tdmState p rx = tdmLeadIn) : Goes (.tdmStopWrite p rx) s fun t =>
    t = { s with rf := t.rf } ∧ t.fld (td (R.TDM.TX_CMD.STOP p) rx) = 1 ∧ Touches [td (R.TDM.TX_CMD.STOP p) rx] s t := by
  obtain ⟨arm, harm⟩ := exec_stopWrite s p rx
  refine ⟨s.setFld (td (R.TDM.TX_CMD.STOP p) rx) 1, ?_, rfl, ?_, touches_setFld (by simp) (.refl _ s)⟩
  · rw [harm, cmdArmed_of_going arm h, cmdStopped_of_going _ h]
  · rw [State.fld_setFld_self _ _ _ (by rw [td_lo, td_w]; exact Nat.le_of_ble_eq_true rfl), td_w]
    rfl

/-! ### Start, loss of the clock, and the end of LEADING_OUT -/

theorem tdmStart_goes {a d : Nat} (hp : p < 16) (hs : (s.tdm p rx).start = some (a, d)) (hst : s.tdmState p rx = tdmArmed)
    (hdue : a ≤ mcsCount s (s.tdmMcs p rx)) : Goes (.tdmStartInstant p rx) s fun t =>
      t.tdmState p rx = (if a = d then tdmRunning else tdmLeadIn) ∧ t.tdms = s.tdms ∧ t.fld (td (R.TDM.TX_STAT.STATE_EV p) rx) = 1 := by
  have hexec : exec (.tdmStartInstant p rx) s = .next (tdmGo s p rx (if a = d then tdmRunning else tdmLeadIn)) := by
    show execTdmStartInstant p rx s = _
    unfold execTdmStartInstant
    rw [hs]
    exact if_pos ⟨hst, hdue⟩
  have hnew : tdmReady < (if a = d then tdmRunning else tdmLeadIn) ∧ (if a = d then tdmRunning else tdmLeadIn) < 16 ∧
      tdmArmed ≠ (if a = d then tdmRunning else tdmLeadIn) := by
    split <;> decide
  generalize (if a = d then tdmRunning else tdmLeadIn) = st at hexec hnew
  obtain ⟨hlo, hhi, hne⟩ := hnew
  rw [tdmGo_told hlo (by rw [hst]; exact hne)] at hexec
  have hstep := tdmTold_leaves s (p := p) (rx := rx) hp hhi
  exact ⟨_, hexec, hstep.state, told_tdms hstep, hstep.event⟩

theorem tdmStart_early {a d : Nat} (hs : (s.tdm p rx).start = some (a, d)) (hearly : mcsCount s (s.tdmMcs p rx) < a) :
    exec (.tdmStartInstant p rx) s = .next s := by
  show execTdmStartInstant p rx s = _
  unfold execTdmStartInstant
  rw [hs]
  exact if_neg fun h => absurd h.2 (Nat.not_le.mpr hearly)

theorem tdmClockLost_goes (hp : p < 16) (hlen : s.tdms.length = 32) (hst : s.tdmState p rx = tdmRunning ∨ s.tdmState p rx = tdmLeadIn)
    (hlost : s.flag (td (R.TDM.TX_FMT.MASTER p) rx) = false ∨ s.flag R.CLK.PLL_STAT.REF_LOCK = false ∨ s.flag R.CLK.PLL_STAT.SYS_LOCK = false) :
    Goes (.tdmClockLost p rx) s fun t =>
      t.tdmState p rx = tdmClockLost ∧ t.fld (td (R.TDM.TX_STAT.CLK_LOST_EV p) rx) = 1 ∧ (t.tdm p rx).good = 0 := by
  have hne : s.tdmState p rx ≠ tdmClockLost := by rcases hst with h | h <;> rw [h] <;> decide
  have hcond : (s.tdmState p rx = tdmRunning ∨ s.tdmState p rx = tdmLeadIn) ∧ ((!s.flag R.CLK.PLL_STAT.REF_LOCK || !s.flag R.CLK.PLL_STAT.SYS_LOCK) = true ∨
      (!s.flag (td (R.TDM.TX_FMT.MASTER p) rx)) = true) := by
    refine ⟨hst, ?_⟩
    rcases hlost with h | h | h
    · exact .inr (by rw [h]; rfl)
    · exact .inl (by rw [h]; rfl)
    · exact .inl (by rw [h]; exact Bool.or_true _)
  have hexec : exec (.tdmClockLost p rx) s = .next (((tdmGo s p rx tdmClockLost).setFld (td (R.TDM.TX_STAT.CLK_LOST_EV p) rx) 1).setTdm p rx
      { ((tdmGo s p rx tdmClockLost).setFld (td (R.TDM.TX_STAT.CLK_LOST_EV p) rx) 1).tdm p rx with good := 0 }) := if_pos hcond
  refine ⟨_, hexec, ?_⟩
  rw [tdmGo_told (st := tdmClockLost) (by decide) hne]
  have hstep := tdmTold_leaves s (p := p) (rx := rx) (st := tdmClockLost) hp (by decide)
  have htdms := told_tdms hstep
  obtain ⟨-, hstate, -, -⟩ := hstep
  generalize tdmTold s p rx tdmClockLost = u at hstate htdms
  have hv : (u.setFld (td (R.TDM.TX_STAT.CLK_LOST_EV p) rx) 1).tdms = u.tdms := rfl
  have hvs : (u.setFld (td (R.TDM.TX_STAT.CLK_LOST_EV p) rx) 1).tdmState p rx = tdmClockLost :=
    (State.fld_setFld_apart u 1 (td_apart _ _ rx rfl).2).trans hstate
  have hev : (u.setFld (td (R.TDM.TX_STAT.CLK_LOST_EV p) rx) 1).fld (td (R.TDM.TX_STAT.CLK_LOST_EV p) rx) = 1 := by
    rw [State.fld_setFld_self _ _ _ (by rw [td_lo, td_w]; exact Nat.le_of_ble_eq_true rfl), td_w]
    rfl
  generalize u.setFld (td (R.TDM.TX_STAT.CLK_LOST_EV p) rx) 1 = v at hv hvs hev
  have hset := setTdm_frame v p rx { v.tdm p rx with good := 0 }
  have hself := tdm_setTdm_self (s := v) (p := p) (rx := rx) { v.tdm p rx with good := 0 } hp (by rw [hv, htdms, hlen])
  generalize v.setTdm p rx { v.tdm p rx with good := 0 } = w at hset hself
  have hwf : ∀ f, w.fld f = v.fld f := fun f => State.fld_of_rf_eq (by rw [hset]) f
  exact ⟨(hwf _).trans hvs, (hwf _).trans hev, by rw [hself]⟩

theorem tdmClockLost_held (hm : s.flag (td (R.TDM.TX_FMT.MASTER p) rx) = true) (href : s.flag R.CLK.PLL_STAT.REF_LOCK = true)
    (hsys : s.flag R.CLK.PLL_STAT.SYS_LOCK = true) : exec (.tdmClockLost p rx) s = .next s := by
  refine if_neg fun h => ?_
  rw [hm, href, hsys] at h
  exact absurd h.2 (by decide)

theorem tdmLeadOutEnd_goes (hp : p < 16) (hlen : s.tdms.length = 32) (hst : s.tdmState p rx = tdmLeadOut)
    (hdue : s.fld (td (R.TDM.TX_LEAD.LEAD_OUT p) rx) ≤ (s.tdm p rx).outs) : Goes (.tdmLeadOutEnd p rx) s fun t =>
      t.tdmState p rx = tdmReady ∧ (t.tdm p rx).start = none ∧ t.fld (td (R.TDM.TX_CMD.STOP p) rx) = 0 ∧
      ∀ u ∈ t.user, ¬(u.kind = b2n rx ∧ u.item = p) := by
  obtain ⟨t, ht, hstate, -, hstop, hstart, huser⟩ := rest_goes (c := .tdmLeadOutEnd p rx) hp hlen (by rw [hst]; decide) (if_pos ⟨hst, hdue⟩)
  exact ⟨t, ht, hstate, hstart, hstop, huser⟩

theorem tdmLeadOutEnd_early (hearly : (s.tdm p rx).outs < s.fld (td (R.TDM.TX_LEAD.LEAD_OUT p) rx)) : exec (.tdmLeadOutEnd p rx) s = .next s :=
  if_neg fun h => absurd h.2 (Nat.not_le.mpr hearly)

end

end Sys2Proof.Machine
end

section
/-! The frames of a TDM direction that is its own clock's master, and a receive direction's samples (R233, R234, R241, R246). -/

namespace Sys2Proof.Machine

section
variable {s t : State} {p k : Nat} {rx : Bool}

/-! ### A frame, before what it is compared with -/

theorem frameFaults_frame (s : State) (p : Nat) (rx : Bool) : frameFaults s p rx = { s with grd := (frameFaults s p rx).grd } := by
  have hgo : ∀ (l : List Nat) (g : State → Nat → State), (∀ u i, g u i = { u with grd := (g u i).grd }) → ∀ u : State,
      l.foldl g u = { u with grd := (l.foldl g u).grd } := fun l g hg => by
    induction l with
    | nil => exact fun u => rfl
    | cons i l ih =>
      intro u
      have h := ih (g u i)
      rw [List.foldl_cons, h, hg u i]
  unfold frameFaults
  exact hgo _ _ (fun u i => rfl) s

theorem tdmCompare_none (s : State) (p k : Nat) : tdmCompare s p k [] = s := if_pos (.inr (.inr (.inr (.inr rfl))))

theorem exec_tdmFrame (s : State) (p : Nat) (rx : Bool) (len high : Nat) (line : List Nat) :
    exec (.tdmFrame p rx false len high line []) s = .next (tdmFrame (frameFaults s p rx) p rx false len high line) := by
  show execTdmFrame p rx false len high line [] s = _
  unfold execTdmFrame
  dsimp only
  rw [tdmCompare_none, ite_self]

/-- A slave's frame before this one is measured. -/
def frameMeasured (s : State) (p : Nat) (rx : Bool) (len high : Nat) : State :=
  let meas : Fld := if rx then R.TDM.RX_CLKMEAS.LEN p else R.TDM.TX_CLKMEAS.LEN p
  if s.flag (td (R.TDM.TX_FMT.MASTER p) rx) then s else
    s.setFlds [(meas, len), ({ meas with lo := 16 }, high), ({ meas with lo := 31, w := 1 }, 1)]

/-- The index of a frame, its phase, whether it slipped and its PHASE_REF. -/
def frameIndex (s : State) (p : Nat) (rx : Bool) (st : Nat) (master valid : Bool) : Nat × Int × Bool × Int :=
  if master then (mcsCount s (s.tdmMcs p rx), (0 : Int), false, (0 : Int))
  else if valid then slaveIndex s p rx (st == tdmClockLost && (s.tdm p rx).good == 0)
  else ((s.tdm p rx).idx + 1, (0 : Int), false, (0 : Int))

/-- Whether a frame is valid. -/
def frameValid (s : State) (p : Nat) (rx : Bool) (len high : Nat) (master : Bool) : Bool :=
  master || (len == frameLen s p rx &&
    (s.fld (td (R.TDM.TX_FMT.FORMAT p) rx) != 2 || high == s.fld (td (R.TDM.TX_FRAME.FS_WIDTH p) rx)))

/-- A waiting mask that was ready takes effect at the frame. -/
def frameMask (s : State) (p : Nat) (rx maskReady : Bool) (k : Nat) : State :=
  let s := if maskReady then maskApply s p rx k else s
  let unit := (p / 8 + 4, 2 * (p % 8) + b2n rx)
  if maskReady && s.marks.contains unit then pendRefresh { s with marks := s.marks.filter (· != unit) } else s

/-- A valid frame of an index does what it does in the direction's state. -/
def frameTakes (s : State) (p : Nat) (rx : Bool) (line : List Nat) (st : Nat) (master : Bool) (d : TdmDir) (k : Nat) (ph : Int) (slip : Bool)
    (ref : Int) : State :=
  let s := if master then s else
    s.setFld (td (R.TDM.TX_PHASE.NS p) rx) (ofSigned 32 (ph / (2 * nsUnit : Nat) * 2))
  let s := if slip then tdmCount (s.setFld (td (R.TDM.TX_STAT.SLIP_EV p) rx) 1) p (if rx then 5 else 4) else s
  let s := s.setTdm p rx { s.tdm p rx with ref := if master then none else some ref }
  if st = tdmClockLost then frameReturns s p rx k line
  else if rx && st == tdmRunning && d.ref.isSome && decide (k ≤ d.idx) then
    stopAtEdge (tdmCount (s.setFld (R.TDM.RX_STAT.OVERRUN_EV p) 1) p 2) p rx
  else
    let s := if rx && st == tdmRunning && d.ref.isSome then starve s p (d.idx + 1) (k - (d.idx + 1)) else s
    frameData (s.setTdm p rx { s.tdm p rx with idx := k }) p rx k line

theorem tdmFrame_eq (s : State) (p : Nat) (rx maskReady : Bool) (len high : Nat) (line : List Nat) :
    tdmFrame s p rx maskReady len high line =
      let st := s.tdmState p rx
      let master := s.flag (td (R.TDM.TX_FMT.MASTER p) rx)
      let s := frameMeasured s p rx len high
      if st < tdmLeadIn ∨ (master = true ∧ masterEdge s p rx = false) then s
      else
        let d := s.tdm p rx
        let valid := frameValid s p rx len high master
        let (k, ph, slip, ref) := frameIndex s p rx st master valid
        let s := frameMask s p rx maskReady k
        if !valid then frameMissing s p rx k else frameTakes s p rx line st master d k ph slip ref := rfl

theorem frameMask_unready (s : State) (p : Nat) (rx : Bool) (k : Nat) : frameMask s p rx false k = s := rfl

theorem frameMeasured_master (len high : Nat) (hm : s.flag (td (R.TDM.TX_FMT.MASTER p) rx) = true) : frameMeasured s p rx len high = s := if_pos hm

theorem tdmFrame_idle (len high : Nat) (line : List Nat) (hm : s.flag (td (R.TDM.TX_FMT.MASTER p) rx) = true)
    (he : masterEdge s p rx = false) : tdmFrame s p rx false len high line = s := by
  rw [tdmFrame_eq]
  dsimp only
  rw [frameMeasured_master len high hm, if_pos (.inr ⟨hm, he⟩)]

/-- A direction has taken an index of its own clock. -/
def ownTaken (s : State) (p : Nat) (rx : Bool) (k : Nat) : State :=
  let s := s.setTdm p rx { s.tdm p rx with ref := none }
  s.setTdm p rx { s.tdm p rx with idx := k }

theorem frameTakes_master {line : List Nat} {d : TdmDir} (ph ref : Int) (href : (rx && d.ref.isSome) = false) :
    frameTakes s p rx line tdmRunning true d k ph false ref = frameData (ownTaken s p rx k) p rx k line := by
  have hlate : (rx && tdmRunning == tdmRunning && d.ref.isSome) = false := by
    rw [show (tdmRunning == tdmRunning) = true from rfl, Bool.and_true, href]
  unfold frameTakes
  dsimp only
  rw [if_pos rfl, if_neg Bool.false_ne_true, if_neg (show ¬ tdmRunning = tdmClockLost by decide), hlate, Bool.false_and, if_neg Bool.false_ne_true,
    if_neg Bool.false_ne_true]
  rfl

theorem tdmFrame_master (len high : Nat) (line : List Nat) (hst : s.tdmState p rx = tdmRunning)
    (hm : s.flag (td (R.TDM.TX_FMT.MASTER p) rx) = true) (he : masterEdge s p rx = true) (href : (rx && (s.tdm p rx).ref.isSome) = false) :
    tdmFrame s p rx false len high line = frameData (ownTaken s p rx (mcsCount s (s.tdmMcs p rx))) p rx (mcsCount s (s.tdmMcs p rx)) line := by
  rw [tdmFrame_eq]
  dsimp only
  rw [frameMeasured_master len high hm, hm, hst, if_neg (show ¬ (tdmRunning < tdmLeadIn ∨ (true = true ∧ masterEdge s p rx = false)) by
    rw [he]
    decide)]
  have hvalid : frameValid s p rx len high true = true := rfl
  have hindex : frameIndex s p rx tdmRunning true true = (mcsCount s (s.tdmMcs p rx), 0, false, 0) := rfl
  rw [hvalid, hindex]
  dsimp only
  rw [frameMask_unready, if_neg (show ¬ (!true) = true by decide), frameTakes_master 0 0 href]

end

end Sys2Proof.Machine
end

section
/-! A running receive direction delivers the samples of a frame (R229, R241, R246). -/

namespace Sys2Proof.Machine

section
variable {s t : State} {p k c : Nat} {rx : Bool} {line : List Nat}

theorem stopAtEdge_going (hst : s.tdmState p rx = tdmRunning) (hstop : s.flag (td (R.TDM.TX_CMD.STOP p) rx) = false) : stopAtEdge s p rx = s := by
  unfold stopAtEdge
  dsimp only
  rw [hst, hstop, if_neg (fun h => Bool.false_ne_true h.2), if_neg (show ¬ tdmRunning = tdmLeadOut by decide)]

/-- A direction in the state a frame finds it in shows its clocks, and takes or sends its data. -/
def frameCarried (s : State) (p : Nat) (rx : Bool) (k : Nat) (line : List Nat) : State :=
  let data := s.tdmState p rx == tdmRunning
  let live := s.tdmState p rx != tdmReady
  let s := if live && s.flag (td (R.TDM.TX_FMT.MASTER p) rx) then s.emit (.tdmClocks p rx k (syncLine s p rx)) else s
  if rx then (if data then rxDeliver s p k line else s)
  else takeNext (if live then txSend s p k data else s) p k

/-- LEADING_IN ends at the first index of data. -/
def leadInDone (s : State) (p : Nat) (rx : Bool) (k first : Nat) : State :=
  if s.tdmState p rx = tdmLeadIn ∧ first ≤ k then tdmGo s p rx tdmRunning else s

theorem frameData_eq (s : State) (p : Nat) (rx : Bool) (k : Nat) (line : List Nat) : frameData s p rx k line =
    let first := match (s.tdm p rx).start with
      | some x => x.2
      | none => 0
    frameCarried (leadInDone (stopAtEdge s p rx) p rx k first) p rx k line := rfl

/-- A running direction that is its own master's shows its clocks, and takes or sends its data. -/
theorem frameData_running (hst : s.tdmState p rx = tdmRunning) (hstop : s.flag (td (R.TDM.TX_CMD.STOP p) rx) = false)
    (hm : s.flag (td (R.TDM.TX_FMT.MASTER p) rx) = true) : frameData s p rx k line =
      if rx then rxDeliver (s.emit (.tdmClocks p rx k (syncLine s p rx))) p k line
      else takeNext (txSend (s.emit (.tdmClocks p rx k (syncLine s p rx))) p k true) p k := by
  have hlead : ∀ first, leadInDone s p rx k first = s := fun first => if_neg fun h => by
    rw [hst] at h
    exact absurd h.1 (by decide)
  rw [frameData_eq]
  dsimp only
  rw [stopAtEdge_going hst hstop, hlead]
  unfold frameCarried
  dsimp only
  rw [hst, hm]
  rfl

theorem ownTaken_leaves (k : Nat) (hp : p < 16) (hlen : s.tdms.length = 32) : ownTaken s p rx k = { s with tdms := (ownTaken s p rx k).tdms } ∧
    (ownTaken s p rx k).tdm p rx = { s.tdm p rx with ref := none, idx := k } ∧ (ownTaken s p rx k).tdms.length = 32 := by
  have hset := setTdm_frame s p rx { s.tdm p rx with ref := none }
  have hself := tdm_setTdm_self (s := s) (p := p) (rx := rx) { s.tdm p rx with ref := none } hp hlen
  have hulen := (length_tdms_setTdm s p rx { s.tdm p rx with ref := none }).trans hlen
  unfold ownTaken
  dsimp only
  generalize s.setTdm p rx { s.tdm p rx with ref := none } = u at hset hself hulen
  rw [hself]
  have hset' := setTdm_frame u p rx { s.tdm p rx with ref := none, idx := k }
  have hself' := tdm_setTdm_self (s := u) (p := p) (rx := rx) { s.tdm p rx with ref := none, idx := k } hp hulen
  have hvlen := (length_tdms_setTdm u p rx { s.tdm p rx with ref := none, idx := k }).trans hulen
  generalize u.setTdm p rx { s.tdm p rx with ref := none, idx := k } = v at hset' hself' hvlen
  exact ⟨by rw [hset', hset], hself', hvlen⟩

/-! ### The channels of a frame -/

theorem dirSlot_of_rf (h : t.rf = s.rf) (p : Nat) (rx : Bool) (c : Nat) : dirSlot t p rx c = dirSlot s p rx c := by
  unfold dirSlot State.flag
  rw [State.fld_of_rf_eq h, State.fld_of_rf_eq h, State.rd_of_rf_eq h]

theorem ofSlot_of_rf (h : t.rf = s.rf) (p sl : Nat) (line : List Nat) : ofSlot t p sl line = ofSlot s p sl line := by
  unfold ofSlot State.flag
  simp only [State.fld_of_rf_eq h]


/-- A channel's sample of a frame. -/
def rxDeliverChan (p k : Nat) (line : List Nat) (mode : Nat) (s : State) (c : Nat) : State :=
  let d := s.tdm p true
  match dirSlot s p true c with
  | none => s
  | some sl =>
    if d.muted.contains c then pushSort s (0x800 + 32 * p + c) k 0 false
    else
      let (w, x) := concGood mode (d.chans.getD c concReset) (ofSlot s p sl line) false
      pushSort (s.setTdm p true { d with chans := modifyAt d.chans c (fun _ => x) }) (0x800 + 32 * p + c) k w false

/-- The mute of a changed mask is for one frame. -/
def muteDone (s : State) (p : Nat) : State := s.setTdm p true { s.tdm p true with muted := [] }

theorem rxDeliver_eq (s : State) (p k : Nat) (line : List Nat) : rxDeliver s p k line =
    muteDone ((List.range 32).foldl (rxDeliverChan p k line (s.fld (R.TDM.RX_FMT.CONCEAL p))) s) p := rfl

/-- Samples and a direction's concealment alone change. -/
structure RxStep (p : Nat) (s t : State) : Prop where
  frame : t = { s with tdms := t.tdms, sorts := t.sorts }
  len   : t.tdms.length = 32
  tdm   : t.tdm p true = { s.tdm p true with chans := (t.tdm p true).chans }

theorem RxStep.refl (h : s.tdms.length = 32) : RxStep p s s := ⟨rfl, h, rfl⟩

theorem RxStep.trans {u : State} (h : RxStep p s t) (k : RxStep p t u) : RxStep p s u := ⟨by rw [k.frame, h.frame], k.len, by rw [k.tdm, h.tdm]⟩

theorem RxStep.rf (h : RxStep p s t) : t.rf = s.rf := by rw [h.frame]

theorem RxStep.pushSort (h : RxStep p s t) (src idx : Nat) (w : Word) (b : Bool) : RxStep p s (pushSort t src idx w b) :=
  h.trans ⟨rfl, h.len, rfl⟩

/-- What a channel's sample leaves, and what it is. -/
theorem rxDeliverChan_leaves (mode : Nat) (hp : p < 16) (hlen : s.tdms.length = 32) : RxStep p s (rxDeliverChan p k line mode s c) ∧
    (∀ b, b ≠ c → ((rxDeliverChan p k line mode s c).tdm p true).chans.getD b concReset = (s.tdm p true).chans.getD b concReset) ∧
    (∀ b, b ≠ c → findSort (rxDeliverChan p k line mode s c) (0x800 + 32 * p + b) k = findSort s (0x800 + 32 * p + b) k) := by
  unfold rxDeliverChan
  dsimp only
  split
  · exact ⟨.refl hlen, fun _ _ => rfl, fun _ _ => rfl⟩
  · split
    · exact ⟨(RxStep.refl hlen).pushSort _ _ _ _, fun _ _ => rfl, fun b hb => findSort_pushSort_ne s k k _ _ (by omega)⟩
    · generalize concGood mode ((s.tdm p true).chans.getD c concReset) _ false = r
      have hset := setTdm_frame s p true { s.tdm p true with chans := modifyAt (s.tdm p true).chans c fun _ => r.2 }
      have hself := tdm_setTdm_self (s := s) (p := p) (rx := true) { s.tdm p true with chans := modifyAt (s.tdm p true).chans c fun _ => r.2 } hp hlen
      have hulen := (length_tdms_setTdm s p true { s.tdm p true with chans := modifyAt (s.tdm p true).chans c fun _ => r.2 }).trans hlen
      generalize s.setTdm p true { s.tdm p true with chans := modifyAt (s.tdm p true).chans c fun _ => r.2 } = u at hset hself hulen
      have hstep : RxStep p s u := ⟨by rw [hset], hulen, by rw [hself]⟩
      refine ⟨hstep.pushSort _ _ _ _, fun b hb => ?_, fun b hb => ?_⟩
      · show (u.tdm p true).chans.getD b concReset = _
        rw [hself]
        exact getD_modifyAt_ne _ _ _ hb
      · rw [findSort_pushSort_ne u k k _ _ (by omega)]
        rw [findSort, hset, findSort]

/-- A good sample of a channel that is not faded in is delivered whole. -/
theorem concGood_unfaded {mode : Nat} {x : Conc} (w : Word) (h : x.scale = 64) : concGood mode x w false = (w, ⟨w, false, 0, 64⟩) := by
  have hmin : (if mode = 2 then min 64 (x.scale + 1) else 64) = 64 := by
    rw [h]
    split <;> rfl
  unfold concGood
  dsimp only
  rw [hmin, if_neg Bool.false_ne_true]
  rfl

/-- A channel's own sample: zero while it is muted, and else the slot's word where it is not faded in. -/
theorem rxDeliverChan_self {sl : Nat} (mode : Nat) (hp : p < 16) (hlen : s.tdms.length = 32) (hsl : dirSlot s p true c = some sl) :
    ((s.tdm p true).muted.contains c = true → findSort (rxDeliverChan p k line mode s c) (0x800 + 32 * p + c) k = some (0, false)) ∧
    ((s.tdm p true).muted.contains c = false → ((s.tdm p true).chans.getD c concReset).scale = 64 →
      findSort (rxDeliverChan p k line mode s c) (0x800 + 32 * p + c) k = some (ofSlot s p sl line, false) ∧
      (((rxDeliverChan p k line mode s c).tdm p true).chans.getD c concReset).scale = 64) := by
  unfold rxDeliverChan
  dsimp only
  rw [hsl]
  dsimp only
  refine ⟨fun hm => ?_, fun hm hsc => ?_⟩
  · rw [if_pos hm]
    exact findSort_pushSort_self ..
  · rw [if_neg (by rw [hm]; exact Bool.false_ne_true), concGood_unfaded _ hsc]
    dsimp only
    refine ⟨findSort_pushSort_self .., ?_⟩
    have hself := tdm_setTdm_self (s := s) (p := p) (rx := true) { s.tdm p true with
      chans := modifyAt (s.tdm p true).chans c fun _ => ⟨ofSlot s p sl line, false, 0, 64⟩ } hp hlen
    generalize s.setTdm p true { s.tdm p true with chans := modifyAt (s.tdm p true).chans c fun _ => ⟨ofSlot s p sl line, false, 0, 64⟩ } = u at hself
    show ((u.tdm p true).chans.getD c concReset).scale = 64
    rw [hself]
    by_cases hc : c < (s.tdm p true).chans.length
    · rw [getD_modifyAt_self _ _ hc]
    · rw [modifyAt_of_length_le _ (by omega)]
      exact hsc

/-- The samples of all channels. -/
theorem rxDeliver_leaves (hp : p < 16) (hlen : s.tdms.length = 32) : rxDeliver s p k line = { s with
      tdms := (rxDeliver s p k line).tdms, sorts := (rxDeliver s p k line).sorts } ∧
    (∃ x, (rxDeliver s p k line).tdm p true = { s.tdm p true with chans := x, muted := [] }) ∧
    ∀ c sl, c < 32 → dirSlot s p true c = some sl →
      ((s.tdm p true).muted.contains c = true → findSort (rxDeliver s p k line) (0x800 + 32 * p + c) k = some (0, false)) ∧
      ((s.tdm p true).muted.contains c = false → ((s.tdm p true).chans.getD c concReset).scale = 64 →
        findSort (rxDeliver s p k line) (0x800 + 32 * p + c) k = some (ofSlot s p sl line, false)) := by
  rw [rxDeliver_eq]
  generalize s.fld (R.TDM.RX_FMT.CONCEAL p) = mode
  have hall : RxStep p s ((List.range 32).foldl (rxDeliverChan p k line mode) s) := by
    have hgo : ∀ (l : List Nat) (u : State), RxStep p s u → RxStep p s (l.foldl (rxDeliverChan p k line mode) u) := fun l => by
      induction l with
      | nil => exact fun u hu => hu
      | cons c l ih => exact fun u hu => ih _ (hu.trans (rxDeliverChan_leaves mode hp hu.len).1)
    exact hgo _ s (.refl hlen)
  have hsample : ∀ c sl, c < 32 → dirSlot s p true c = some sl →
      ((s.tdm p true).muted.contains c = true →
        findSort ((List.range 32).foldl (rxDeliverChan p k line mode) s) (0x800 + 32 * p + c) k = some (0, false)) ∧
      ((s.tdm p true).muted.contains c = false → ((s.tdm p true).chans.getD c concReset).scale = 64 →
        findSort ((List.range 32).foldl (rxDeliverChan p k line mode) s) (0x800 + 32 * p + c) k = some (ofSlot s p sl line, false)) := by
    intro c sl hc hsl
    have hslot : ∀ {u}, RxStep p s u → dirSlot u p true c = some sl := fun hu => (dirSlot_of_rf hu.rf p true c).trans hsl
    have hword : ∀ {u}, RxStep p s u → ofSlot u p sl line = ofSlot s p sl line := fun hu => ofSlot_of_rf hu.rf p sl line
    have hmuted : ∀ {u}, RxStep p s u → (u.tdm p true).muted = (s.tdm p true).muted := fun hu => by rw [hu.tdm]
    refine ⟨fun hm => ?_, fun hm hsc => ?_⟩
    · refine (foldl_reaches (a := c) (P := RxStep p s) (Q := fun u => RxStep p s u ∧ findSort u (0x800 + 32 * p + c) k = some (0, false))
        (List.mem_range.mpr hc) (fun u b _ hu => hu.trans (rxDeliverChan_leaves mode hp hu.len).1) (fun u b _ hu => ?_) (fun u hu => ?_)
        (.refl hlen)).2
      · refine ⟨hu.1.trans (rxDeliverChan_leaves mode hp hu.1.len).1, ?_⟩
        by_cases hb : c = b
        · subst hb
          exact (rxDeliverChan_self mode hp hu.1.len (hslot hu.1)).1 (by rw [hmuted hu.1]; exact hm)
        · exact ((rxDeliverChan_leaves mode hp hu.1.len).2.2 c hb).trans hu.2
      · exact ⟨hu.trans (rxDeliverChan_leaves mode hp hu.len).1, (rxDeliverChan_self mode hp hu.len (hslot hu)).1 (by rw [hmuted hu]; exact hm)⟩
    · refine (foldl_reaches (a := c) (P := fun u => RxStep p s u ∧ ((u.tdm p true).chans.getD c concReset).scale = 64)
        (Q := fun u => (RxStep p s u ∧ ((u.tdm p true).chans.getD c concReset).scale = 64) ∧
          findSort u (0x800 + 32 * p + c) k = some (ofSlot s p sl line, false))
        (List.mem_range.mpr hc) (fun u b _ hu => ?_) (fun u b _ hu => ?_) (fun u hu => ?_) ⟨.refl hlen, hsc⟩).2
      · refine ⟨hu.1.trans (rxDeliverChan_leaves mode hp hu.1.len).1, ?_⟩
        by_cases hb : c = b
        · subst hb
          exact ((rxDeliverChan_self mode hp hu.1.len (hslot hu.1)).2 (by rw [hmuted hu.1]; exact hm) hu.2).2
        · rw [(rxDeliverChan_leaves mode hp hu.1.len).2.1 c hb]
          exact hu.2
      · obtain ⟨⟨hstep, hscale⟩, hfound⟩ := hu
        by_cases hb : c = b
        · subst hb
          obtain ⟨hf, hs⟩ := (rxDeliverChan_self (k := k) (line := line) mode hp hstep.len (hslot hstep)).2 (by rw [hmuted hstep]; exact hm) hscale
          exact ⟨⟨hstep.trans (rxDeliverChan_leaves mode hp hstep.len).1, hs⟩, hf.trans (by rw [hword hstep])⟩
        · obtain ⟨h1, h2, h3⟩ := rxDeliverChan_leaves (k := k) (line := line) (c := b) mode hp hstep.len
          exact ⟨⟨hstep.trans h1, by rw [h2 c hb]; exact hscale⟩, (h3 c hb).trans hfound⟩
      · obtain ⟨hstep, hscale⟩ := hu
        obtain ⟨hf, hs⟩ := (rxDeliverChan_self (k := k) (line := line) mode hp hstep.len (hslot hstep)).2 (by rw [hmuted hstep]; exact hm) hscale
        exact ⟨⟨hstep.trans (rxDeliverChan_leaves mode hp hstep.len).1, hs⟩, hf.trans (by rw [hword hstep])⟩
  generalize (List.range 32).foldl (rxDeliverChan p k line mode) s = u at hall hsample
  have hset := setTdm_frame u p true { u.tdm p true with muted := [] }
  have hself := tdm_setTdm_self (s := u) (p := p) (rx := true) { u.tdm p true with muted := [] } hp hall.len
  unfold muteDone
  generalize u.setTdm p true { u.tdm p true with muted := [] } = v at hset hself
  have hfind : ∀ src, findSort v src k = findSort u src k := fun src => by rw [findSort, hset, findSort]
  refine ⟨by rw [hset, hall.frame], ⟨(u.tdm p true).chans, by rw [hself, hall.tdm]⟩, fun c sl hc hsl => ?_⟩
  rw [hfind]
  exact hsample c sl hc hsl

end

end Sys2Proof.Machine
end

section
/-! Frames of a TDM direction: a receive master's, one whose instant has not come, and one that is missing (R233, R234, R237). -/

namespace Sys2Proof.Machine

section
variable {s t : State} {p k : Nat} {rx : Bool} {line : List Nat}

/-! ### The guard's runs alone change before a frame -/

theorem masterEdge_of_grd (h : t = { s with grd := t.grd }) : masterEdge t p rx = masterEdge s p rx ∧
    mcsCount t (t.tdmMcs p rx) = mcsCount s (s.tdmMcs p rx) := by
  have hrf : t.rf = s.rf := by rw [h]
  have hfld : ∀ f : Fld, t.fld f = s.fld f := fun f => State.fld_of_rf_eq hrf f
  have hclk : ClocksAlike s t := clocksAlike_of_rf hrf (by rw [h]) (by rw [h])
  have hmcs : s.tdmMcs p rx < 8 := by
    have := State.fld_lt s (td (R.TDM.TX_FMT.MCS p) rx)
    rwa [td_w] at this
  have hm : t.tdmMcs p rx = s.tdmMcs p rx := hfld _
  have hcount : mcsCount t (t.tdmMcs p rx) = mcsCount s (s.tdmMcs p rx) := by rw [hm, hclk.mcsCount hmcs]
  refine ⟨?_, hcount⟩
  have hdir : t.tdm p rx = s.tdm p rx := tdm_of_tdms (by rw [h]) p rx
  unfold masterEdge State.flag
  rw [hcount, hfld, hfld, hdir]

theorem syncLine_of_rf (h : t.rf = s.rf) : syncLine t p rx = syncLine s p rx := by
  unfold syncLine frameLen
  dsimp only
  simp only [State.fld_of_rf_eq h, State.flag]

theorem tdmFrame_idle_goes {len high : Nat} (hm : s.flag (td (R.TDM.TX_FMT.MASTER p) rx) = true) (he : masterEdge s p rx = false) :
    Goes (.tdmFrame p rx false len high line []) s fun t => t = { s with grd := t.grd } := by
  refine ⟨_, exec_tdmFrame s p rx len high line, ?_⟩
  have hframe := frameFaults_frame s p rx
  generalize frameFaults s p rx = u at hframe
  have hflag : u.flag (td (R.TDM.TX_FMT.MASTER p) rx) = true := (State.flag_of_fld (State.fld_of_rf_eq (by rw [hframe]) _)).trans hm
  rw [tdmFrame_idle len high line hflag ((masterEdge_of_grd hframe).1.trans he)]
  exact hframe

/-- The fields of a receive direction are those of a transmit direction, one row on. -/
theorem td_rx (a lo w : Nat) : td ⟨a + 256 * p, lo, w⟩ true = ⟨a + 0x20 + 256 * p, lo, w⟩ := by
  show (⟨a + 256 * p + 0x20, lo, w⟩ : Fld) = _
  rw [Nat.add_right_comm]

theorem tdmFrame_rx_goes {len high : Nat} {d : TdmDir} (hp : p < 16) (hlen : s.tdms.length = 32) (hd : d = s.tdm p true)
    (hk : k = mcsCount s (s.tdmMcs p true)) (hst : s.tdmState p true = tdmRunning) (hm : s.flag (R.TDM.RX_FMT.MASTER p) = true)
    (he : masterEdge s p true = true) (hstop : s.flag (R.TDM.RX_CMD.STOP p) = false) (href : d.ref = none) :
    Goes (.tdmFrame p true false len high line []) s fun t => (t.tdm p true).idx = k ∧ (t.tdm p true).muted = [] ∧
      t.rf = s.rf ∧ t.out = .tdmClocks p true k (syncLine s p true) :: s.out ∧
      ∀ c sl, c < 32 → dirSlot s p true c = some sl →
        (d.muted.contains c = true → findSort t (0x800 + 32 * p + c) k = some (0, false)) ∧
        (d.muted.contains c = false → (d.chans.getD c concReset).scale = 64 →
          findSort t (0x800 + 32 * p + c) k = some (ofSlot s p sl line, false)) := by
  subst hd hk
  have hmtd : td (R.TDM.TX_FMT.MASTER p) true = R.TDM.RX_FMT.MASTER p := td_rx 0x8000 30 1
  have hstd : td (R.TDM.TX_CMD.STOP p) true = R.TDM.RX_CMD.STOP p := td_rx 0x8014 1 1
  refine ⟨_, exec_tdmFrame s p true len high line, ?_⟩
  have hframe := frameFaults_frame s p true
  generalize frameFaults s p true = u at hframe
  have hrf : u.rf = s.rf := by rw [hframe]
  obtain ⟨hedge, hcount⟩ := masterEdge_of_grd (p := p) (rx := true) hframe
  have hutdms : u.tdms = s.tdms := by rw [hframe]
  have hutdm := tdm_of_tdms hutdms p true
  have hust : u.tdmState p true = tdmRunning := (State.fld_of_rf_eq hrf _).trans hst
  have hum : u.flag (td (R.TDM.TX_FMT.MASTER p) true) = true := by
    rw [hmtd]
    exact (State.flag_of_fld (State.fld_of_rf_eq hrf _)).trans hm
  rw [tdmFrame_master len high line hust hum (hedge.trans he) (by rw [hutdm, href]; rfl), hcount]
  generalize mcsCount s (s.tdmMcs p true) = k
  obtain ⟨hvf, hvd, hvlen⟩ := ownTaken_leaves (s := u) (rx := true) k hp (by rw [hutdms]; exact hlen)
  generalize ownTaken u p true k = v at hvf hvd hvlen
  have hvrf : v.rf = s.rf := by rw [hvf, hrf]
  have hvout : v.out = s.out := by
    rw [hvf]
    show u.out = _
    rw [hframe]
  rw [frameData_running (s := v) ((State.fld_of_rf_eq hvrf _).trans hst)
    (by rw [hstd]; exact (State.flag_of_fld (State.fld_of_rf_eq hvrf _)).trans hstop)
    (by rw [hmtd]; exact (State.flag_of_fld (State.fld_of_rf_eq hvrf _)).trans hm), if_pos rfl, syncLine_of_rf hvrf]
  obtain ⟨w, hw, hwf⟩ : ∃ w, w = v.emit (.tdmClocks p true k (syncLine s p true)) ∧ w = { v with out := .tdmClocks p true k (syncLine s p true) :: v.out } :=
    ⟨_, rfl, rfl⟩
  rw [← hw]
  have hwrf : w.rf = s.rf := by rw [hwf, hvrf]
  have hwtdms : w.tdms = v.tdms := by rw [hwf]
  have hwd : w.tdm p true = { s.tdm p true with ref := none, idx := k } := by rw [tdm_of_tdms hwtdms, hvd, hutdm]
  have hwout : w.out = .tdmClocks p true k (syncLine s p true) :: s.out := by rw [hwf, hvout]
  clear hw hwf
  obtain ⟨hrf', ⟨x, hx⟩, hsorts⟩ := rxDeliver_leaves (s := w) (p := p) (k := k) (line := line) hp (by rw [hwtdms]; exact hvlen)
  generalize rxDeliver w p k line = r at hrf' hx hsorts
  rw [hwd] at hx hsorts
  refine ⟨by rw [hx], by rw [hx], by rw [hrf', hwrf], by rw [hrf', hwout], fun c sl hc hsl => ?_⟩
  rw [← ofSlot_of_rf hwrf]
  exact hsorts c sl hc ((dirSlot_of_rf hwrf p true c).trans hsl)

/-! ### A frame that is missing -/

/-- A channel conceals an index. -/
def rxConcealChan (p k mode : Nat) (s : State) (c : Nat) : State :=
  let d := s.tdm p true
  match dirSlot s p true c with
  | none => s
  | some _ =>
    let (w, x) := concMiss mode (d.chans.getD c concReset)
    pushSort (s.setTdm p true { d with chans := modifyAt d.chans c (fun _ => x) }) (0x800 + 32 * p + c) k w false

theorem rxConceal_eq (s : State) (p k : Nat) : rxConceal s p k =
    (List.range 32).foldl (rxConcealChan p k (s.fld (R.TDM.RX_FMT.CONCEAL p))) s := rfl

theorem rxStep_rxConcealChan {mode c : Nat} (hp : p < 16) (hlen : s.tdms.length = 32) : RxStep p s (rxConcealChan p k mode s c) := by
  unfold rxConcealChan
  dsimp only
  split
  · exact .refl hlen
  · generalize concMiss mode ((s.tdm p true).chans.getD c concReset) = r
    have hset := setTdm_frame s p true { s.tdm p true with chans := modifyAt (s.tdm p true).chans c fun _ => r.2 }
    have hself := tdm_setTdm_self (s := s) (p := p) (rx := true) { s.tdm p true with chans := modifyAt (s.tdm p true).chans c fun _ => r.2 } hp hlen
    have hulen := (length_tdms_setTdm s p true { s.tdm p true with chans := modifyAt (s.tdm p true).chans c fun _ => r.2 }).trans hlen
    generalize s.setTdm p true { s.tdm p true with chans := modifyAt (s.tdm p true).chans c fun _ => r.2 } = u at hset hself hulen
    have hstep : RxStep p s u := ⟨by rw [hset], hulen, by rw [hself]⟩
    exact hstep.pushSort _ _ _ _

theorem rxStep_rxConceal (k : Nat) (hp : p < 16) (hlen : s.tdms.length = 32) : RxStep p s (rxConceal s p k) := by
  rw [rxConceal_eq]
  generalize s.fld (R.TDM.RX_FMT.CONCEAL p) = mode
  have hgo : ∀ (l : List Nat) (u : State), RxStep p s u → RxStep p s (l.foldl (rxConcealChan p k mode) u) := fun l => by
    induction l with
    | nil => exact fun u hu => hu
    | cons c l ih => exact fun u hu => ih _ (hu.trans (rxStep_rxConcealChan hp hu.len))
  exact hgo _ s (.refl hlen)

/-- A frame-sync edge begins the first frame of LEADING_OUT. -/
def outBegun (s : State) (p : Nat) (rx : Bool) : State := s.setTdm p rx { s.tdm p rx with outs := 1 }

/-- What the end of a running direction at an edge leaves. -/
theorem stopAtEdge_leaves (hp : p < 16) (hlen : s.tdms.length = 32) (hst : s.tdmState p rx = tdmRunning) :
    (∀ f, DirFree p rx f → StateFree p rx f → f.key ≠ cmdKey p rx → (stopAtEdge s p rx).fld f = s.fld f) ∧
    ((stopAtEdge s p rx).tdm p rx).idx = (s.tdm p rx).idx ∧
    (s.flag (td (R.TDM.TX_CMD.STOP p) rx) = false → (stopAtEdge s p rx).tdmState p rx = tdmRunning) ∧
    (s.flag (td (R.TDM.TX_CMD.STOP p) rx) = true → s.fld (td (R.TDM.TX_LEAD.LEAD_OUT p) rx) ≠ 0 →
      (stopAtEdge s p rx).tdmState p rx = tdmLeadOut) := by
  cases hstop : s.flag (td (R.TDM.TX_CMD.STOP p) rx) with
  | false =>
    rw [stopAtEdge_going hst hstop]
    exact ⟨fun _ _ _ _ => rfl, rfl, fun _ => hst, fun h => absurd h Bool.false_ne_true⟩
  | true =>
    have hgo : stopAtEdge s p rx = if s.fld (td (R.TDM.TX_LEAD.LEAD_OUT p) rx) = 0 then tdmGo (outBegun s p rx) p rx tdmReady
        else tdmGo (outBegun s p rx) p rx tdmLeadOut := by
      unfold stopAtEdge
      dsimp only
      rw [hst, hstop, if_pos ⟨.inr rfl, rfl⟩]
      rfl
    have hset := setTdm_frame s p rx { s.tdm p rx with outs := 1 }
    have hself := tdm_setTdm_self (s := s) (p := p) (rx := rx) { s.tdm p rx with outs := 1 } hp hlen
    have hulen := (length_tdms_setTdm s p rx { s.tdm p rx with outs := 1 }).trans hlen
    rw [hgo]
    unfold outBegun
    generalize s.setTdm p rx { s.tdm p rx with outs := 1 } = u at hset hself hulen
    have huf : ∀ f, u.fld f = s.fld f := fun f => State.fld_of_rf_eq (by rw [hset]) f
    have hust : u.tdmState p rx = tdmRunning := (huf _).trans hst
    split
    next h0 =>
      have hnew : u.tdmState p rx ≠ tdmReady := by rw [hust]; decide
      obtain ⟨-, hrest⟩ := tdmGo_rest (st := tdmReady) hp hulen (le_refl _) hnew
      have htold := tdmTold_leaves u (p := p) (rx := rx) (st := tdmReady) hp (by decide)
      obtain ⟨m, hm⟩ := hrest.tdm
      refine ⟨fun f hf hs hk => (hrest.keeps f hf hk).trans ((htold.keeps f hs).trans (huf f)), ?_, fun h => absurd h.symm Bool.false_ne_true,
        fun _ h => absurd h0 h⟩
      rw [hm, tdm_of_tdms (told_tdms htold), hself]
    next h0 =>
      have hne : u.tdmState p rx ≠ tdmLeadOut := by rw [hust]; decide
      rw [tdmGo_told (st := tdmLeadOut) (by decide) hne]
      have htold := tdmTold_leaves u (p := p) (rx := rx) (st := tdmLeadOut) hp (by decide)
      refine ⟨fun f hf hs hk => (htold.keeps f hs).trans (huf f), ?_, fun h => absurd h.symm Bool.false_ne_true, fun _ _ => htold.state⟩
      rw [tdm_of_tdms (told_tdms htold), hself]

end

end Sys2Proof.Machine
end

section
/-! A slave's receive frame of the wrong length is missing (R234, R235, R237). -/

namespace Sys2Proof.Machine

section
variable {s t : State} {p k : Nat} {rx : Bool} {line : List Nat}

/-- A receive direction counts a frame that is not valid. -/
def rxMissed (s : State) (p : Nat) : State := tdmCount (s.setFld (td (R.TDM.TX_STAT.FRAME_ERR_EV p) true) 1) p 5

/-- The index of a missing frame is the direction's last. -/
def rxPassed (s : State) (p k : Nat) : State := s.setTdm p true { s.tdm p true with idx := k, good := 0 }

theorem frameMissing_running (k : Nat) (hst : s.tdmState p true = tdmRunning) :
    frameMissing s p true k = stopAtEdge (rxPassed (rxConceal (rxMissed s p) p k) p k) p true := by
  unfold frameMissing
  dsimp only
  rw [hst]
  rfl

theorem rx_slip_key (p : Nat) : ({ R.TDM.TX_UNDERRUN.COUNT p with key := (R.TDM.TX_UNDERRUN.COUNT p).key + 4 * 5 } : Fld) = R.TDM.RX_SLIP.COUNT p := by
  show (⟨0x8040 + 256 * p + 20, 0, 32⟩ : Fld) = ⟨0x8054 + 256 * p, 0, 32⟩
  rw [Nat.add_right_comm]

theorem rxMissed_leaves (s : State) (p : Nat) : RfFrame s (rxMissed s p) ∧
    (rxMissed s p).fld (R.TDM.RX_STAT.FRAME_ERR_EV p) = 1 ∧
    (rxMissed s p).fld (R.TDM.RX_SLIP.COUNT p) = min (2 ^ 32 - 1) (s.fld (R.TDM.RX_SLIP.COUNT p) + 1) ∧
    ∀ f : Fld, f.apart (R.TDM.RX_STAT.FRAME_ERR_EV p) = true → f.key ≠ R.TDM.RX_SLIP.reg p → f.key ≠ R.TDM.SAT.reg p →
      (rxMissed s p).fld f = s.fld f := by
  have htd : td (R.TDM.TX_STAT.FRAME_ERR_EV p) true = R.TDM.RX_STAT.FRAME_ERR_EV p := td_rx 0x8018 8 1
  have hset : RfFrame s (s.setFld (R.TDM.RX_STAT.FRAME_ERR_EV p) 1) := (RfFrame.refl s).setFld _ _
  have hev : (s.setFld (R.TDM.RX_STAT.FRAME_ERR_EV p) 1).fld (R.TDM.RX_STAT.FRAME_ERR_EV p) = 1 := State.fld_setFld_mod s _ 1 rfl
  have hkeep : ∀ f : Fld, f.apart (R.TDM.RX_STAT.FRAME_ERR_EV p) = true → (s.setFld (R.TDM.RX_STAT.FRAME_ERR_EV p) 1).fld f = s.fld f :=
    fun f hf => State.fld_setFld_apart s 1 hf
  unfold rxMissed tdmCount
  rw [htd, rx_slip_key]
  generalize s.setFld (R.TDM.RX_STAT.FRAME_ERR_EV p) 1 = u at hset hev hkeep
  have hcount : ∀ f : Fld, f.key ≠ R.TDM.RX_SLIP.reg p → f.key ≠ R.TDM.SAT.reg p →
      (u.countSat (R.TDM.RX_SLIP.COUNT p) (R.TDM.SAT.SAT_F p) 5).fld f = u.fld f := fun f h1 h2 =>
    (touches_countSat (l := [R.TDM.RX_SLIP.COUNT p, R.TDM.SAT.SAT_F p]) 5 (by simp) (by simp) (.refl _ u)).fld fun g hg => by
      simp only [List.mem_cons, List.not_mem_nil, or_false] at hg
      rcases hg with rfl | rfl
      · exact Fld.apart_of_key_ne h1
      · exact Fld.apart_of_key_ne h2
  refine ⟨hset.trans (countSat_frame ..), (hcount _ ?_ ?_).trans hev, ?_, fun f hf h1 h2 => (hcount f h1 h2).trans (hkeep f hf)⟩
  · simp only [R.TDM.RX_STAT.FRAME_ERR_EV, R.TDM.RX_SLIP.reg]
    omega
  · simp only [R.TDM.RX_STAT.FRAME_ERR_EV, R.TDM.SAT.reg]
    omega
  · rw [fld_countSat u 5 rfl (by simp only [R.TDM.RX_SLIP.COUNT, R.TDM.SAT.SAT_F]; omega), hkeep _ (Fld.apart_of_key_ne (by
      simp only [R.TDM.RX_STAT.FRAME_ERR_EV, R.TDM.RX_SLIP.COUNT]
      omega))]
    rfl

/-- A slave's measurement of a frame leaves all other registers. -/
theorem frameMeasured_leaves (s : State) (p : Nat) (len high : Nat) : RfFrame s (frameMeasured s p true len high) ∧
    ∀ f : Fld, f.key ≠ R.TDM.RX_CLKMEAS.reg p → (frameMeasured s p true len high).fld f = s.fld f := by
  unfold frameMeasured
  dsimp only
  split
  · exact ⟨.refl s, fun _ _ => rfl⟩
  · refine ⟨State.setFlds_frame s _, fun f hf => ?_⟩
    refine (OnlyIn.setFlds (B := (· = R.TDM.RX_CLKMEAS.reg p)) (.refl s) ?_).fld hf
    simp only [if_true, List.mem_cons, List.not_mem_nil, or_false, forall_eq_or_imp, forall_eq]
    exact ⟨rfl, rfl, rfl⟩

theorem tdmFrame_missing {len high : Nat} (hst : s.tdmState p true = tdmRunning) (hm : s.flag (R.TDM.RX_FMT.MASTER p) = false)
    (hne : len ≠ frameLen s p true) : tdmFrame s p true false len high line =
      frameMissing (frameMeasured s p true len high) p true ((s.tdm p true).idx + 1) := by
  have hmtd : td (R.TDM.TX_FMT.MASTER p) true = R.TDM.RX_FMT.MASTER p := td_rx 0x8000 30 1
  obtain ⟨hframe, hkeep⟩ := frameMeasured_leaves s p len high
  rw [tdmFrame_eq]
  dsimp only
  rw [hmtd, hm, hst, if_neg (show ¬ (tdmRunning < tdmLeadIn ∨ (false = true ∧ masterEdge (frameMeasured s p true len high) p true = false)) by
    rintro (h | h)
    · exact absurd h (by decide)
    · exact Bool.false_ne_true h.1)]
  have htdm : (frameMeasured s p true len high).tdm p true = s.tdm p true := tdm_of_tdms (by rw [hframe]) p true
  have hlen : frameLen (frameMeasured s p true len high) p true = frameLen s p true := by
    unfold frameLen
    rw [hkeep _ (by rw [td_key]; show 0x8004 + 256 * p + 0x20 * 1 ≠ 0x8064 + 256 * p; omega),
      hkeep _ (by rw [td_key]; show 0x8004 + 256 * p + 0x20 * 1 ≠ 0x8064 + 256 * p; omega)]
  have hbad : frameValid (frameMeasured s p true len high) p true len high false = false := by
    unfold frameValid
    rw [hlen, beq_eq_false_iff_ne.mpr hne]
    rfl
  have hindex : frameIndex (frameMeasured s p true len high) p true tdmRunning false false = ((s.tdm p true).idx + 1, 0, false, 0) := by
    show ((((frameMeasured s p true len high).tdm p true).idx + 1, 0, false, 0) : Nat × Int × Bool × Int) = _
    rw [htdm]
  rw [hbad, hindex]
  dsimp only
  rw [frameMask_unready, if_pos (show (!false) = true from rfl)]

theorem rxPassed_leaves (k : Nat) (hp : p < 16) (hlen : s.tdms.length = 32) : (rxPassed s p k).rf = s.rf ∧
    ((rxPassed s p k).tdm p true).idx = k ∧ (rxPassed s p k).tdms.length = 32 := by
  have hset := setTdm_frame s p true { s.tdm p true with idx := k, good := 0 }
  have hself := tdm_setTdm_self (s := s) (p := p) (rx := true) { s.tdm p true with idx := k, good := 0 } hp hlen
  have hulen := (length_tdms_setTdm s p true { s.tdm p true with idx := k, good := 0 }).trans hlen
  unfold rxPassed
  generalize s.setTdm p true { s.tdm p true with idx := k, good := 0 } = u at hset hself hulen
  exact ⟨by rw [hset], by rw [hself], hulen⟩

/-- A receive direction's event and slip counts are no command, mask, state or held output. -/
theorem rx_free (hp : p < 16) : ∀ f, (f = R.TDM.RX_STAT.FRAME_ERR_EV p ∨ f = R.TDM.RX_SLIP.COUNT p) →
    DirFree p true f ∧ StateFree p true f ∧ f.key ≠ cmdKey p true := by
  intro f hf
  have hev : td (R.TDM.TX_STAT.MASK_EV p) true = R.TDM.RX_STAT.MASK_EV p := td_rx 0x8018 3 1
  have hstate : td (R.TDM.TX_STAT.STATE p) true = R.TDM.RX_STAT.STATE p := td_rx 0x8018 28 4
  have hstev : td (R.TDM.TX_STAT.STATE_EV p) true = R.TDM.RX_STAT.STATE_EV p := td_rx 0x8018 2 1
  rcases hf with rfl | rfl
  · refine ⟨⟨?_, ?_, ?_, ?_, fun q => ?_⟩, ⟨?_, ?_, ?_⟩, ?_⟩
    · simp only [R.TDM.RX_STAT.FRAME_ERR_EV]; omega
    · simp only [R.TDM.RX_STAT.FRAME_ERR_EV]; omega
    · simp only [dirMaskKeys, td_key, R.TDM.TX_MASK.SLOTS, R.TDM.TX_CTRL.MASK_MUTE, R.TDM.RX_STAT.FRAME_ERR_EV, b2n, List.mem_cons, List.not_mem_nil, or_false]
      omega
    · rw [hev]
      exact (Fld.apart_of_below rfl).2
    · exact (Fld.apart_of_below (f := R.TDM.TX_STAT.OE_HELD q) rfl).2
    · simp only [R.TDM.RX_STAT.FRAME_ERR_EV]; omega
    · rw [hstate]
      exact (Fld.apart_of_below rfl).1
    · rw [hstev]
      exact (Fld.apart_of_below rfl).2
    · show 0x8038 + 256 * p ≠ 0x8014 + 256 * p + 0x20 * 1
      omega
  · refine ⟨⟨?_, ?_, ?_, ?_, fun q => ?_⟩, ⟨?_, ?_, ?_⟩, ?_⟩
    · simp only [R.TDM.RX_SLIP.COUNT]; omega
    · simp only [R.TDM.RX_SLIP.COUNT]; omega
    · simp only [dirMaskKeys, td_key, R.TDM.TX_MASK.SLOTS, R.TDM.TX_CTRL.MASK_MUTE, R.TDM.RX_SLIP.COUNT, b2n, List.mem_cons, List.not_mem_nil, or_false]
      omega
    · rw [hev]
      exact Fld.apart_of_key_ne (by simp only [R.TDM.RX_SLIP.COUNT, R.TDM.RX_STAT.MASK_EV]; omega)
    · exact Fld.apart_of_key_ne (by simp only [R.TDM.RX_SLIP.COUNT, R.TDM.TX_STAT.OE_HELD]; omega)
    · simp only [R.TDM.RX_SLIP.COUNT]; omega
    · rw [hstate]
      exact Fld.apart_of_key_ne (by simp only [R.TDM.RX_SLIP.COUNT, R.TDM.RX_STAT.STATE]; omega)
    · rw [hstev]
      exact Fld.apart_of_key_ne (by simp only [R.TDM.RX_SLIP.COUNT, R.TDM.RX_STAT.STATE_EV]; omega)
    · show 0x8054 + 256 * p ≠ 0x8014 + 256 * p + 0x20 * 1
      omega

theorem tdmFrame_missing_goes {len high : Nat} {d : TdmDir} (hp : p < 16) (hlen : s.tdms.length = 32) (hd : d = s.tdm p true)
    (hst : s.tdmState p true = tdmRunning) (hm : s.flag (R.TDM.RX_FMT.MASTER p) = false) (hne : len ≠ frameLen s p true) :
    Goes (.tdmFrame p true false len high line []) s fun t =>
      t.fld (R.TDM.RX_STAT.FRAME_ERR_EV p) = 1 ∧ (t.tdm p true).idx = d.idx + 1 ∧
      (s.flag (R.TDM.RX_CMD.STOP p) = false → t.tdmState p true = tdmRunning) ∧
      (s.flag (R.TDM.RX_CMD.STOP p) = true → s.fld (R.TDM.RX_LEAD.LEAD_OUT p) ≠ 0 → t.tdmState p true = tdmLeadOut) ∧
      t.fld (R.TDM.RX_SLIP.COUNT p) = min (2 ^ 32 - 1) (s.fld (R.TDM.RX_SLIP.COUNT p) + 1) := by
  subst hd
  refine ⟨_, exec_tdmFrame s p true len high line, ?_⟩
  have hframe := frameFaults_frame s p true
  generalize frameFaults s p true = u at hframe
  have hrf : u.rf = s.rf := by rw [hframe]
  have huf : ∀ f : Fld, u.fld f = s.fld f := fun f => State.fld_of_rf_eq hrf f
  have hutdms : u.tdms = s.tdms := by rw [hframe]
  have hulen : frameLen u p true = frameLen s p true := by rw [frameLen, huf, huf, frameLen]
  rw [tdmFrame_missing (s := u) ((huf _).trans hst) ((State.flag_of_fld (huf _)).trans hm) (by rw [hulen]; exact hne), tdm_of_tdms hutdms]
  obtain ⟨hmf, hmk⟩ := frameMeasured_leaves u p len high
  generalize frameMeasured u p true len high = m at hmf hmk
  have hmf' : ∀ f : Fld, f.key ≠ R.TDM.RX_CLKMEAS.reg p → m.fld f = s.fld f := fun f hf => (hmk f hf).trans (huf f)
  have hmlen : m.tdms.length = 32 := by
    rw [hmf]
    show u.tdms.length = _
    rw [hutdms, hlen]
  have hstate : td (R.TDM.TX_STAT.STATE p) true = R.TDM.RX_STAT.STATE p := td_rx 0x8018 28 4
  have hstop : td (R.TDM.TX_CMD.STOP p) true = R.TDM.RX_CMD.STOP p := td_rx 0x8014 1 1
  have hlead : td (R.TDM.TX_LEAD.LEAD_OUT p) true = R.TDM.RX_LEAD.LEAD_OUT p := td_rx 0x8008 8 8
  have hmst : m.tdmState p true = tdmRunning := by
    rw [State.tdmState, hstate, hmf' _ (by simp only [R.TDM.RX_STAT.STATE, R.TDM.RX_CLKMEAS.reg]; omega), ← hstate]
    exact hst
  rw [frameMissing_running _ hmst]
  obtain ⟨haf, hev, hslip, hak⟩ := rxMissed_leaves m p
  generalize rxMissed m p = a at haf hev hslip hak
  have halen : a.tdms.length = 32 := by
    rw [haf]
    exact hmlen
  have hstep := rxStep_rxConceal (s := a) (p := p) ((s.tdm p true).idx + 1) hp halen
  generalize rxConceal a p ((s.tdm p true).idx + 1) = b at hstep
  obtain ⟨hcrf, hidx, hclen⟩ := rxPassed_leaves (s := b) (p := p) ((s.tdm p true).idx + 1) hp hstep.len
  generalize rxPassed b p ((s.tdm p true).idx + 1) = c at hcrf hidx hclen
  have hcf : ∀ f : Fld, c.fld f = a.fld f := fun f => State.fld_of_rf_eq (hcrf.trans hstep.rf) f
  have hkept : ∀ f : Fld, f.key ≠ R.TDM.RX_CLKMEAS.reg p → f.apart (R.TDM.RX_STAT.FRAME_ERR_EV p) = true → f.key ≠ R.TDM.RX_SLIP.reg p →
      f.key ≠ R.TDM.SAT.reg p → c.fld f = s.fld f := fun f h1 h2 h3 h4 => (hcf f).trans ((hak f h2 h3 h4).trans (hmf' f h1))
  have hcst : c.fld (R.TDM.RX_STAT.STATE p) = s.fld (R.TDM.RX_STAT.STATE p) := hkept _
    (by simp only [R.TDM.RX_STAT.STATE, R.TDM.RX_CLKMEAS.reg]; omega) (Fld.apart_of_below rfl).2
    (by simp only [R.TDM.RX_STAT.STATE, R.TDM.RX_SLIP.reg]; omega) (by simp only [R.TDM.RX_STAT.STATE, R.TDM.SAT.reg]; omega)
  have hcstop : c.fld (R.TDM.RX_CMD.STOP p) = s.fld (R.TDM.RX_CMD.STOP p) := hkept _
    (by simp only [R.TDM.RX_CMD.STOP, R.TDM.RX_CLKMEAS.reg]; omega)
    (Fld.apart_of_key_ne (by simp only [R.TDM.RX_CMD.STOP, R.TDM.RX_STAT.FRAME_ERR_EV]; omega))
    (by simp only [R.TDM.RX_CMD.STOP, R.TDM.RX_SLIP.reg]; omega) (by simp only [R.TDM.RX_CMD.STOP, R.TDM.SAT.reg]; omega)
  have hclead : c.fld (R.TDM.RX_LEAD.LEAD_OUT p) = s.fld (R.TDM.RX_LEAD.LEAD_OUT p) := hkept _
    (by simp only [R.TDM.RX_LEAD.LEAD_OUT, R.TDM.RX_CLKMEAS.reg]; omega)
    (Fld.apart_of_key_ne (by simp only [R.TDM.RX_LEAD.LEAD_OUT, R.TDM.RX_STAT.FRAME_ERR_EV]; omega))
    (by simp only [R.TDM.RX_LEAD.LEAD_OUT, R.TDM.RX_SLIP.reg]; omega) (by simp only [R.TDM.RX_LEAD.LEAD_OUT, R.TDM.SAT.reg]; omega)
  have hcrun : c.tdmState p true = tdmRunning := by
    rw [State.tdmState, hstate, hcst, ← hstate]
    exact hst
  obtain ⟨hkeeps, hlast, hgoing, hout⟩ := stopAtEdge_leaves (s := c) (rx := true) hp hclen hcrun
  rw [hstop] at hgoing hout
  rw [hlead, hclead] at hout
  obtain ⟨he1, he2, he3⟩ := rx_free hp _ (.inl rfl)
  obtain ⟨hs1, hs2, hs3⟩ := rx_free hp _ (.inr rfl)
  refine ⟨(hkeeps _ he1 he2 he3).trans ((hcf _).trans hev), hlast.trans hidx,
    fun h => hgoing ((State.flag_of_fld hcstop).trans h), fun h => hout ((State.flag_of_fld hcstop).trans h), ?_⟩
  rw [hkeeps _ hs1 hs2 hs3, hcf, hslip, hmf' _ (by simp only [R.TDM.RX_SLIP.COUNT, R.TDM.RX_CLKMEAS.reg]; omega)]

end

end Sys2Proof.Machine
end

section
/-! A running transmit direction that is its own clock's master sends a frame (R231, R232, R245), and the obligation on TDM directions. -/

namespace Sys2Proof.Machine

section
variable {s t : State} {p k : Nat} {rx : Bool}

/-! ### What the words of a frame are taken from -/

/-- From `s` to `t` the guard, outputs and transmit directions alone change. -/
structure WordsAlike (s t : State) : Prop where
  frame : t = { s with grd := t.grd, tdms := t.tdms, out := t.out }
  rxs   : ∀ i, t.tdms.getD (2 * i + 1) tdmReset = s.tdms.getD (2 * i + 1) tdmReset

namespace WordsAlike

section
variable (h : WordsAlike s t)
include h

theorem rf : t.rf = s.rf := by rw [h.frame]

theorem tdmLost : tdmLost t = tdmLost s := by
  funext id k
  unfold Machine.tdmLost
  dsimp only
  rw [h.rxs, dirSlot_of_rf h.rf, State.fld_of_rf_eq h.rf, State.fld_of_rf_eq h.rf]

theorem srcTransp : srcTransp t = srcTransp s := by
  funext id
  rw [h.frame]
  rfl

theorem lanePlace : lanePlace t = lanePlace s := by
  funext n k
  rw [h.frame]
  rfl

theorem laneRatio : laneRatio t = laneRatio s := by
  funext n
  rw [h.frame]
  rfl

theorem toneWord : toneWord t = toneWord s := by
  funext m k
  rw [h.frame]
  rfl

theorem process : process t = process s := by
  funext d k v x
  rw [h.frame]
  rfl

theorem findSort : findSort t = findSort s := by
  funext src idx
  rw [h.frame]
  rfl

theorem imp : t.imp = s.imp := by
  rw [h.frame]
  rfl

theorem lane : t.lane = s.lane := by
  rw [h.frame]
  rfl

theorem fld (f : Fld) : t.fld f = s.fld f := State.fld_of_rf_eq h.rf f

theorem destWordN (n : Nat) : destWordN t n = destWordN s n := by
  induction n with
  | zero => rfl
  | succ n ih =>
    funext d k
    unfold Machine.destWordN
    simp only [h.imp, h.findSort, h.tdmLost, h.srcTransp, h.lanePlace, h.laneRatio, h.toneWord, h.process, h.lane, h.fld, ih]

theorem tdmTake : tdmTake t = tdmTake s := by
  funext p k
  unfold Machine.tdmTake destWord
  rw [h.destWordN]

theorem tdmWord : tdmWord t = tdmWord s := by
  funext p k c taken
  unfold Machine.tdmWord destWord
  rw [h.destWordN, h.imp]

theorem crcMuted : crcMuted t = crcMuted s := by
  rw [h.frame]
  rfl

theorem dirSlot : dirSlot t = dirSlot s := by
  funext p rx c
  exact dirSlot_of_rf h.rf p rx c

/-- A frame's words are those of a direction with the same concealment, mutes and words taken. -/
theorem txPlan (p k : Nat) {r : Option Int} {i : Nat} (hd : t.tdm p false = { s.tdm p false with ref := r, idx := i }) :
    txPlan t p k true = txPlan s p k true := by
  unfold Machine.txPlan
  dsimp only
  rw [hd, h.tdmTake, h.fld, h.crcMuted, h.dirSlot, h.tdmWord]

theorem frameOf (r : TxPlan) (p : Nat) : r.frame t p = r.frame s p := by
  have hslot : ∀ w, toSlot t p false w = toSlot s p false w := fun w => by
    unfold toSlot State.flag
    rw [h.fld, h.fld]
  unfold TxPlan.frame State.flag
  simp only [h.fld, hslot]

end

end WordsAlike

/-! ### A frame goes out (R231, R232, R245) -/

/-- A transmit direction keeps the bits that follow the next frame-sync edge. -/
def txKept (s : State) (p : Nat) (r : TxPlan) (own : List (Option Nat)) (off : Nat) : State :=
  s.setTdm p false { s.tdm p false with chans := r.chans, muted := [], tail := own.drop (own.length - off) }

/-- An underrun is counted. -/
def txCounted (s : State) (p : Nat) (under : Bool) : State :=
  if under then tdmCount (s.setFld (R.TDM.TX_STAT.UNDERRUN_EV p) 1) p 0 else s

theorem txSend_eq (s : State) (p k : Nat) (data : Bool) : txSend s p k data =
    let r := txPlan s p k data
    let off := s.fld (R.TDM.TX_FRAME.OFFSET p)
    let own := r.frame s p
    let old := (s.tdm p false).tail
    let lead := if old.length = off then old else List.replicate off (if s.flag (R.TDM.TX_FMT.IDLE_HIZ p) then none else some 0)
    let line := halves (lead ++ own.take (own.length - off))
    let s := txCounted (txKept s p r own off) p r.under
    s.emit (.tdmTx p k (s.flag (R.TDM.TX_FMT.EDGE_FALL p)) (if s.flag (R.TDM.TX_STAT.OE_HELD p) then line.map fun _ => none else line)) := rfl

theorem txCounted_leaves (s : State) (p : Nat) (under : Bool) : RfFrame s (txCounted s p under) ∧
    (txCounted s p under).flag (R.TDM.TX_FMT.EDGE_FALL p) = s.flag (R.TDM.TX_FMT.EDGE_FALL p) ∧
    (txCounted s p under).flag (R.TDM.TX_STAT.OE_HELD p) = s.flag (R.TDM.TX_STAT.OE_HELD p) := by
  cases under with
  | false => exact ⟨.refl s, rfl, rfl⟩
  | true =>
    have hgo : txCounted s p true = tdmCount (s.setFld (R.TDM.TX_STAT.UNDERRUN_EV p) 1) p 0 := if_pos rfl
    have hkey : ({ R.TDM.TX_UNDERRUN.COUNT p with key := (R.TDM.TX_UNDERRUN.COUNT p).key + 4 * 0 } : Fld) = R.TDM.TX_UNDERRUN.COUNT p := rfl
    rw [hgo, tdmCount, hkey]
    have hset : RfFrame s (s.setFld (R.TDM.TX_STAT.UNDERRUN_EV p) 1) := (RfFrame.refl s).setFld _ _
    have hk : ∀ f : Fld, f.apart (R.TDM.TX_STAT.UNDERRUN_EV p) = true → (s.setFld (R.TDM.TX_STAT.UNDERRUN_EV p) 1).fld f = s.fld f :=
      fun f hf => State.fld_setFld_apart s 1 hf
    generalize s.setFld (R.TDM.TX_STAT.UNDERRUN_EV p) 1 = u at hset hk
    have hcount : ∀ f : Fld, f.key ≠ R.TDM.TX_UNDERRUN.reg p → f.key ≠ R.TDM.SAT.reg p → f.apart (R.TDM.TX_STAT.UNDERRUN_EV p) = true →
        (u.countSat (R.TDM.TX_UNDERRUN.COUNT p) (R.TDM.SAT.SAT_F p) 0).flag f = s.flag f := fun f h1 h2 hf => State.flag_of_fld (by
      refine ((touches_countSat (l := [R.TDM.TX_UNDERRUN.COUNT p, R.TDM.SAT.SAT_F p]) 0 (by simp) (by simp) (.refl _ u)).fld fun g hg => ?_).trans (hk f hf)
      simp only [List.mem_cons, List.not_mem_nil, or_false] at hg
      rcases hg with rfl | rfl
      · exact Fld.apart_of_key_ne h1
      · exact Fld.apart_of_key_ne h2)
    refine ⟨hset.trans (countSat_frame ..), hcount _ ?_ ?_ (Fld.apart_of_key_ne ?_), hcount _ ?_ ?_ (Fld.apart_of_below rfl).1⟩
    · simp only [R.TDM.TX_FMT.EDGE_FALL, R.TDM.TX_UNDERRUN.reg]; omega
    · simp only [R.TDM.TX_FMT.EDGE_FALL, R.TDM.SAT.reg]; omega
    · simp only [R.TDM.TX_FMT.EDGE_FALL, R.TDM.TX_STAT.UNDERRUN_EV]; omega
    · simp only [R.TDM.TX_STAT.OE_HELD, R.TDM.TX_UNDERRUN.reg]; omega
    · simp only [R.TDM.TX_STAT.OE_HELD, R.TDM.SAT.reg]; omega

/-- A frame of a direction whose outputs are not held goes out whole. -/
theorem txSend_leaves {off : Nat} {own : List (Option Nat)} (hp : p < 16) (hlen : s.tdms.length = 32) (hoff : off = s.fld (R.TDM.TX_FRAME.OFFSET p))
    (hown : own = (txPlan s p k true).frame s p) (htail : (s.tdm p false).tail.length = off) (hheld : s.flag (R.TDM.TX_STAT.OE_HELD p) = false) :
    txSend s p k true = { s with rf := (txSend s p k true).rf, tdms := (txSend s p k true).tdms, out := (txSend s p k true).out } ∧
    (txSend s p k true).tdms.length = 32 ∧
    (∃ x, (txSend s p k true).tdm p false = { s.tdm p false with chans := x, muted := [], tail := own.drop (own.length - off) }) ∧
    (txSend s p k true).out = .tdmTx p k (s.flag (R.TDM.TX_FMT.EDGE_FALL p))
      (halves ((s.tdm p false).tail ++ own.take (own.length - off))) :: s.out := by
  subst hoff hown
  rw [txSend_eq]
  dsimp only
  rw [if_pos htail]
  generalize (txPlan s p k true).frame s p = own
  generalize txPlan s p k true = r
  generalize s.fld (R.TDM.TX_FRAME.OFFSET p) = off
  have hset := setTdm_frame s p false { s.tdm p false with chans := r.chans, muted := [], tail := own.drop (own.length - off) }
  have hself := tdm_setTdm_self (s := s) (p := p) (rx := false)
    { s.tdm p false with chans := r.chans, muted := [], tail := own.drop (own.length - off) } hp hlen
  have hulen := (length_tdms_setTdm s p false { s.tdm p false with chans := r.chans, muted := [], tail := own.drop (own.length - off) }).trans hlen
  unfold txKept
  generalize s.setTdm p false { s.tdm p false with chans := r.chans, muted := [], tail := own.drop (own.length - off) } = u at hset hself hulen
  have huflag : ∀ f, u.flag f = s.flag f := fun f => State.flag_of_fld (State.fld_of_rf_eq (by rw [hset]) f)
  obtain ⟨hcf, hedge, hoe⟩ := txCounted_leaves u p r.under
  generalize txCounted u p r.under = v at hcf hedge hoe
  rw [hedge, hoe, huflag, huflag, hheld, if_neg Bool.false_ne_true]
  have hvtdms : v.tdms = u.tdms := by rw [hcf]
  have hvout : v.out = s.out := by rw [hcf, hset]
  obtain ⟨w, hw, hwf⟩ : ∃ w, w = v.emit (.tdmTx p k (s.flag (R.TDM.TX_FMT.EDGE_FALL p)) (halves ((s.tdm p false).tail ++ own.take (own.length - off)))) ∧
    w = { v with out := .tdmTx p k (s.flag (R.TDM.TX_FMT.EDGE_FALL p)) (halves ((s.tdm p false).tail ++ own.take (own.length - off))) :: v.out } :=
    ⟨_, rfl, rfl⟩
  rw [← hw]
  have hwtdms : w.tdms = u.tdms := by rw [hwf, hvtdms]
  refine ⟨by rw [hwf, hcf, hset], by rw [hwtdms]; exact hulen, ⟨r.chans, ?_⟩, by rw [hwf, hvout]⟩
  rw [tdm_of_tdms hwtdms, hself]

theorem takeNext_leaves (k : Nat) (hp : p < 16) (hlen : s.tdms.length = 32) : takeNext s p k = { s with tdms := (takeNext s p k).tdms } ∧
    ∃ x, (takeNext s p k).tdm p false = { s.tdm p false with taken := x, takenIdx := k + 1 } := by
  have hset := setTdm_frame s p false { s.tdm p false with taken := tdmTake s p (k + 1), takenIdx := k + 1 }
  have hself := tdm_setTdm_self (s := s) (p := p) (rx := false) { s.tdm p false with taken := tdmTake s p (k + 1), takenIdx := k + 1 } hp hlen
  unfold takeNext
  generalize s.setTdm p false { s.tdm p false with taken := tdmTake s p (k + 1), takenIdx := k + 1 } = u at hset hself
  exact ⟨hset, _, hself⟩

/-- A transmit direction's own index leaves the receive directions. -/
theorem rxs_ownTaken (s : State) (p k i : Nat) :
    (ownTaken s p false k).tdms.getD (2 * i + 1) tdmReset = s.tdms.getD (2 * i + 1) tdmReset := by
  have hne : 2 * i + 1 ≠ 2 * p + b2n false := by
    show 2 * i + 1 ≠ 2 * p + 0
    omega
  exact (getD_modifyAt_ne _ _ _ hne).trans (getD_modifyAt_ne _ _ _ hne)

theorem tdmFrame_tx_goes {len high off : Nat} {d : TdmDir} {own : List (Option Nat)} (hp : p < 16) (hlen : s.tdms.length = 32)
    (hd : d = s.tdm p false) (hk : k = mcsCount s (s.tdmMcs p false)) (hst : s.tdmState p false = tdmRunning)
    (hm : s.flag (R.TDM.TX_FMT.MASTER p) = true) (he : masterEdge s p false = true) (hstop : s.flag (R.TDM.TX_CMD.STOP p) = false)
    (hoff : off = s.fld (R.TDM.TX_FRAME.OFFSET p)) (hown : own = (txPlan s p k true).frame s p) (htail : d.tail.length = off)
    (hheld : s.flag (R.TDM.TX_STAT.OE_HELD p) = false) : Goes (.tdmFrame p false false len high [] []) s fun t =>
      (t.tdm p false).idx = k ∧ (t.tdm p false).takenIdx = k + 1 ∧ (t.tdm p false).muted = [] ∧
      (t.tdm p false).tail = own.drop (own.length - off) ∧ t.sorts = s.sorts ∧ t.impo = s.impo ∧
      t.out = .tdmTx p k (s.flag (R.TDM.TX_FMT.EDGE_FALL p)) (halves (d.tail ++ own.take (own.length - off))) ::
        .tdmClocks p false k (syncLine s p false) :: s.out := by
  subst hd hk
  refine ⟨_, exec_tdmFrame s p false len high [], ?_⟩
  have hframe := frameFaults_frame s p false
  generalize frameFaults s p false = u at hframe
  have hrf : u.rf = s.rf := by rw [hframe]
  obtain ⟨hedge, hcount⟩ := masterEdge_of_grd (p := p) (rx := false) hframe
  have hutdms : u.tdms = s.tdms := by rw [hframe]
  have hutdm := tdm_of_tdms hutdms p false
  rw [tdmFrame_master (s := u) (rx := false) len high [] ((State.fld_of_rf_eq hrf _).trans hst) ((State.flag_of_fld (State.fld_of_rf_eq hrf _)).trans hm)
    (hedge.trans he) rfl, hcount]
  generalize mcsCount s (s.tdmMcs p false) = k at hown
  obtain ⟨hvf, hvd, hvlen⟩ := ownTaken_leaves (s := u) (rx := false) k hp (by rw [hutdms]; exact hlen)
  have hrxs := rxs_ownTaken u p k
  generalize ownTaken u p false k = v at hvf hvd hvlen hrxs
  have hvrf : v.rf = s.rf := by rw [hvf, hrf]
  rw [frameData_running (s := v) (rx := false) ((State.fld_of_rf_eq hvrf _).trans hst) ((State.flag_of_fld (State.fld_of_rf_eq hvrf _)).trans hstop)
    ((State.flag_of_fld (State.fld_of_rf_eq hvrf _)).trans hm), if_neg Bool.false_ne_true, syncLine_of_rf hvrf]
  obtain ⟨w, hw, hwf⟩ : ∃ w, w = v.emit (.tdmClocks p false k (syncLine s p false)) ∧
    w = { v with out := .tdmClocks p false k (syncLine s p false) :: v.out } := ⟨_, rfl, rfl⟩
  rw [← hw]
  have hwtdms : w.tdms = v.tdms := by rw [hwf]
  have hwd : w.tdm p false = { s.tdm p false with ref := none, idx := k } := by rw [tdm_of_tdms hwtdms, hvd, hutdm]
  have hvs : v = { s with grd := v.grd, tdms := v.tdms } := by rw [hvf, hframe]
  have hws : w = { s with grd := w.grd, tdms := w.tdms, out := w.out } := by rw [hwf, hvs]
  have hwout : w.out = .tdmClocks p false k (syncLine s p false) :: s.out := by rw [hwf, hvs]
  have halike : WordsAlike s w := ⟨hws, fun i => by rw [hwtdms, hrxs, hutdms]⟩
  clear hw hwf
  have hplan := halike.txPlan p k hwd
  obtain ⟨hxf, hxlen, ⟨x, hx⟩, hxout⟩ := txSend_leaves (s := w) (k := k) hp (by rw [hwtdms]; exact hvlen) (hoff.trans (halike.fld _).symm)
    (hown.trans (by rw [hplan, halike.frameOf])) (by rw [hwd]; exact htail) ((State.flag_of_fld (halike.fld _)).trans hheld)
  generalize txSend w p k true = z at hxf hxlen hx hxout
  obtain ⟨htf, y, hy⟩ := takeNext_leaves (s := z) k hp hxlen
  generalize takeNext z p k = t at htf hy
  rw [hx, hwd] at hy
  refine ⟨by rw [hy], by rw [hy], by rw [hy], by rw [hy], ?_, ?_, ?_⟩
  · rw [htf, hxf, hws]
  · rw [htf, hxf, hws]
  · rw [htf, hxout, hwd, hwout]
    rw [State.flag_of_fld (halike.fld _)]
    rfl

end

/-- Settles O51. -/
theorem tdmDirectionSteps : Obligations.TdmDirectionSteps := by
  unfold Obligations.TdmDirectionSteps
  intro s p rx hp hlen
  refine ⟨tdmArm_goes hp, tdmArm_bad_goes, fun hst hs c hc => tdmUnarm_goes hp hlen hst hs hc, tdmStop_goes,
    fun a d hs hst => ⟨tdmStart_goes hp hs hst, tdmStart_early hs⟩, tdmClockLost_goes hp hlen, tdmClockLost_held,
    fun hst => ⟨tdmLeadOutEnd_goes hp hlen hst, tdmLeadOutEnd_early⟩, ?_, ?_, ?_, ?_⟩
  · intro len high line d k hd hk hst hm he hstop href
    exact tdmFrame_rx_goes hp hlen hd hk hst hm he hstop href
  · intro len high d k off own hd hk hst hm he hstop hoff hown htail hheld
    exact tdmFrame_tx_goes hp hlen hd hk hst hm he hstop hoff hown htail hheld
  · intro rx len high line _ hm he
    exact tdmFrame_idle_goes hm he
  · intro len high line d hd hst hm hne
    exact tdmFrame_missing_goes hp hlen hd hst hm hne

end Sys2Proof.Machine
end

section
/-! Whether a refresh of the DX window waits (R452): only DX_REFRESH and a refresh change it, and no write of registers, no
captured group and nothing that follows moved clocks does. -/

namespace Sys2Proof.Machine

/-- From `s` to `t` a refresh waits or not as before. -/
structure DxWaits (s t : State) : Prop where
  waiting : t.dx.waiting = s.dx.waiting

namespace DxWaits

theorem refl (s : State) : DxWaits s s := ⟨rfl⟩

theorem trans {s t u : State} (h : DxWaits s t) (h' : DxWaits t u) : DxWaits s u := ⟨h'.waiting.trans h.waiting⟩

theorem ite {s0 a b : State} {p : Prop} [Decidable p] (ha : DxWaits s0 a) (hb : DxWaits s0 b) : DxWaits s0 (if p then a else b) := by
  split <;> assumption

theorem iteFst {α : Type} {s0 : State} {a b : State × α} {p : Prop} [Decidable p] (ha : DxWaits s0 a.1) (hb : DxWaits s0 b.1) :
    DxWaits s0 (if p then a else b).1 := by split <;> assumption

theorem iteSnd {α : Type} {s0 : State} {a b : α × State} {p : Prop} [Decidable p] (ha : DxWaits s0 a.2) (hb : DxWaits s0 b.2) :
    DxWaits s0 (if p then a else b).2 := by split <;> assumption

theorem foldl {α : Type} {s0 s : State} {g : State → α → State} {l : List α} (hg : ∀ u a, DxWaits s0 u → DxWaits s0 (g u a))
    (h : DxWaits s0 s) : DxWaits s0 (l.foldl g s) := by
  induction l generalizing s with
  | nil => exact h
  | cons a l ih => exact ih (hg s a h)

/-- A state written out field by field with the same DX record. -/
theorem lit {s0 s : State} {rf : Store} {sh : Store} {cap : List Cap} {marks : List (Nat × Nat)} {strobes : List (Nat × Nat × Nat)}
    {latched : List Nat} {freeCtr : Nat} {out : List Out} {user : List User} {ticks timeAcc aonAcc : Nat} {crcBad crcSkip : Bool}
    {pwr : Power} {pins : Pins} {irq : Irq} {mbx : Mbx} {mcss : List Mcs} {ptis : List Pti} {platens : List Platen} {ptm : PtmPair}
    {grd : Guard} {stk : Stk} {twin : Twin} {fw : Fw} {wakeImg : Option Fw} {flash : Flash} {rxf : Sparse RxFlow} {cls : Store}
    {net : List NetPort} {gal : Galley} {sorts : List Sample} {impo : Sparse ImpEntry} {lanes : List Lane} {tdms : List TdmDir}
    {txs : Sparse TxFlow} {txp : List TxPort} {hsts : Sparse HostBlk} {reads : List HostRead} {hstBytes : List Nat}
    {hstSlots : Sparse Nat} {bus : List BusSide} {pending : List Instr} (h : DxWaits s0 s) :
    DxWaits s0 (State.mk rf sh cap marks strobes latched freeCtr out user ticks timeAcc aonAcc crcBad crcSkip pwr pins irq mbx mcss
      ptis platens ptm grd stk twin s.dx fw wakeImg flash rxf cls net gal sorts impo lanes tdms txs txp hsts reads hstBytes hstSlots
      bus pending) := ⟨h.waiting⟩

end DxWaits

section
variable {s0 s : State} (hs : DxWaits s0 s)
include hs

theorem dxWaits_wr {k : Nat} {v : Word} : DxWaits s0 (s.wr k v) := ⟨hs.waiting⟩

theorem dxWaits_wrSh {k : Nat} {v : Word} : DxWaits s0 (s.wrSh k v) := ⟨hs.waiting⟩

theorem dxWaits_setFld {f : Fld} {v : Nat} : DxWaits s0 (s.setFld f v) := ⟨hs.waiting⟩

theorem dxWaits_count {f : Fld} : DxWaits s0 (s.count f) := DxWaits.ite (dxWaits_setFld hs) (dxWaits_setFld hs)

theorem dxWaits_fresh : DxWaits s0 s.fresh.2 := ⟨hs.waiting⟩

theorem dxWaits_setDx {a v : Nat} : DxWaits s0 (s.setDx a v) := ⟨hs.waiting⟩

theorem dxWaits_addUser {kind item mcs : Nat} : DxWaits s0 (State.addUser s kind item mcs) := ⟨hs.waiting⟩

theorem dxWaits_setFlds {l : List (Fld × Nat)} : DxWaits s0 (s.setFlds l) := by
  induction l generalizing s with
  | nil => exact hs
  | cons p l ih => exact ih (dxWaits_setFld hs)

theorem dxWaits_blkGo {i st : Nat} : DxWaits s0 (blkGo s i st) := by
  unfold blkGo
  repeat' (first | with_reducible assumption | with_reducible apply DxWaits.ite | with_reducible apply dxWaits_setFlds)

theorem dxWaits_dropUser {kind item : Nat} : DxWaits s0 (State.dropUser s kind item) := ⟨hs.waiting⟩

theorem dxWaits_countN {f : Fld} {n : Nat} : DxWaits s0 (State.countN s f n) := dxWaits_setFld hs

theorem dxWaits_countSatN {f : Fld} {n : Nat} {sat : Fld} {i : Nat} : DxWaits s0 (State.countSatN s f n sat i) := by
  unfold State.countSatN
  dsimp only
  repeat' (first | with_reducible assumption | with_reducible apply DxWaits.ite | with_reducible apply dxWaits_setFld
                   | with_reducible apply dxWaits_countN)

theorem dxWaits_countDrops {q n : Nat} : DxWaits s0 (countDrops s q n) := by
  unfold countDrops
  dsimp only
  repeat' (first | with_reducible assumption | with_reducible apply DxWaits.ite | with_reducible apply dxWaits_setFld
                   | with_reducible apply dxWaits_countN | with_reducible apply dxWaits_countSatN)

theorem dxWaits_setGq {q : Nat} {x : GQueue} : DxWaits s0 (State.setGq s q x) := ⟨hs.waiting⟩

theorem dxWaits_storeMark {c : CellNo} {w : Nat} : DxWaits s0 (storeMark s c w) := by
  unfold storeMark
  dsimp only
  repeat' (first | with_reducible assumption | with_reducible apply DxWaits.ite | with_reducible apply dxWaits_setFld
                   | with_reducible refine DxWaits.lit ?_)

theorem dxWaits_takeCell {h : Nat} : DxWaits s0 (takeCell s h).2 := dxWaits_fresh hs

theorem dxWaits_placeSlugIn {h q n folio ts reason : Nat} {merged own : Bool} :
    DxWaits s0 (placeSlugIn s h q n folio ts reason merged own) := by
  unfold placeSlugIn
  dsimp only
  repeat' (first | with_reducible assumption | with_reducible apply dxWaits_setGq
                   | with_reducible apply dxWaits_storeMark | with_reducible apply dxWaits_takeCell)

theorem dxWaits_spill {cs : List CellNo} {b : List Byte} : DxWaits s0 (spill s cs b) := by
  induction cs generalizing s b with
  | nil => exact hs
  | cons c cs ih => exact ih (hs.lit)

theorem dxWaits_spillElem {e : GElem} : DxWaits s0 (spillElem s e) := dxWaits_spill hs

theorem dxWaits_galDiscardIn {h q reason : Nat} : DxWaits s0 (galDiscardIn s h q reason) := by
  unfold galDiscardIn
  dsimp only
  repeat' (first | with_reducible assumption | with_reducible apply DxWaits.ite | with_reducible apply DxWaits.foldl
                   | with_reducible apply dxWaits_countDrops | with_reducible apply dxWaits_setGq
                   | with_reducible apply dxWaits_placeSlugIn | with_reducible apply dxWaits_spillElem | intro _ _ _)

theorem dxWaits_galDiscard {q reason : Nat} : DxWaits s0 (galDiscard s q reason) := dxWaits_galDiscardIn hs

theorem dxWaits_setFlag {f : Fld} {b : Bool} : DxWaits s0 (State.setFlag s f b) := dxWaits_setFld hs

theorem dxWaits_galRefresh : DxWaits s0 (galRefresh s) := dxWaits_setFlag hs

theorem dxWaits_setSblk {i : Nat} {x : StkBlk} : DxWaits s0 (State.setSblk s i x) := ⟨hs.waiting⟩

theorem dxWaits_blkStop {i : Nat} : DxWaits s0 (blkStop s i) := by
  unfold blkStop
  dsimp only
  repeat' (first | with_reducible assumption | with_reducible apply DxWaits.ite | with_reducible apply dxWaits_blkGo
                   | with_reducible apply dxWaits_dropUser | with_reducible apply dxWaits_galDiscard
                   | with_reducible apply dxWaits_galRefresh | with_reducible apply dxWaits_setSblk)

theorem dxWaits_capDrop {ks : List Nat} : DxWaits s0 (capDrop s ks) := ⟨hs.waiting⟩

theorem dxWaits_capApply {l : List Nat} : DxWaits s0 (capApply s l) := by
  induction l generalizing s with
  | nil => exact hs
  | cons k l ih =>
    unfold capApply
    refine ih (dxWaits_capDrop ?_)
    split
    · exact dxWaits_wr hs
    · exact hs

theorem dxWaits_blkApply {i : Nat} : DxWaits s0 (blkApply s i) := by
  unfold blkApply
  dsimp only
  repeat' (first | with_reducible assumption | with_reducible apply DxWaits.ite | with_reducible apply dxWaits_wr
                   | with_reducible apply dxWaits_setFld | with_reducible apply dxWaits_addUser
                   | with_reducible apply dxWaits_setFlds | with_reducible apply dxWaits_blkGo
                   | with_reducible apply dxWaits_setSblk | with_reducible apply dxWaits_blkStop
                   | with_reducible apply dxWaits_capDrop | with_reducible apply dxWaits_capApply | split)

theorem dxWaits_funApply : DxWaits s0 (funApply s) := by
  unfold funApply
  repeat' (first | with_reducible assumption | with_reducible apply DxWaits.foldl
                   | with_reducible apply dxWaits_capApply | intro _ _ _)

theorem dxWaits_hstGo {i st : Nat} : DxWaits s0 (hstGo s i st) := by
  unfold hstGo
  repeat' (first | with_reducible assumption | with_reducible apply DxWaits.ite | with_reducible apply dxWaits_setFlds)

theorem dxWaits_hstRates : DxWaits s0 (hstRates s) := dxWaits_setFlds hs

theorem dxWaits_setHst {i : Nat} {x : HostBlk} : DxWaits s0 (State.setHst s i x) := ⟨hs.waiting⟩

theorem dxWaits_staleReads {i : Nat} : DxWaits s0 (staleReads s i) := by
  unfold staleReads
  repeat' (first | with_reducible assumption | with_reducible apply DxWaits.ite | with_reducible refine DxWaits.lit ?_)

theorem dxWaits_hstStop {i : Nat} : DxWaits s0 (hstStop s i) := by
  unfold hstStop
  dsimp only
  repeat' (first | with_reducible assumption | with_reducible apply DxWaits.ite | with_reducible apply dxWaits_setFlds
                   | with_reducible apply dxWaits_dropUser | with_reducible apply dxWaits_galDiscard
                   | with_reducible apply dxWaits_galRefresh | with_reducible apply dxWaits_hstGo
                   | with_reducible apply dxWaits_hstRates | with_reducible apply dxWaits_setHst
                   | with_reducible apply dxWaits_staleReads)

theorem dxWaits_hstApply {i : Nat} : DxWaits s0 (hstApply s i) := by
  unfold hstApply
  dsimp only
  repeat' (first | with_reducible assumption | with_reducible apply DxWaits.ite | with_reducible apply dxWaits_wr
                   | with_reducible apply dxWaits_setFld | with_reducible apply dxWaits_addUser
                   | with_reducible apply dxWaits_setFlds | with_reducible apply dxWaits_capDrop
                   | with_reducible apply dxWaits_capApply | with_reducible apply dxWaits_hstGo
                   | with_reducible apply dxWaits_hstRates | with_reducible apply dxWaits_setHst
                   | with_reducible apply dxWaits_hstStop | split)

theorem dxWaits_hstCfgApply : DxWaits s0 (hstCfgApply s) := by
  unfold hstCfgApply
  repeat' (first | with_reducible assumption | with_reducible apply dxWaits_capApply
                   | with_reducible apply dxWaits_hstRates)

theorem dxWaits_setLane {n : Nat} {l : Lane} : DxWaits s0 (State.setLane s n l) := ⟨hs.waiting⟩

theorem dxWaits_laneRuns {n : Nat} {on : Bool} : DxWaits s0 (laneRuns s n on) := by
  unfold laneRuns
  dsimp only
  repeat' (first | with_reducible assumption | with_reducible apply DxWaits.ite | with_reducible apply dxWaits_setLane
                   | split)

theorem dxWaits_laneSettle {n : Nat} : DxWaits s0 (laneSettle s n) := by
  unfold laneSettle
  dsimp only
  repeat' (first | with_reducible assumption | with_reducible apply DxWaits.ite | with_reducible apply dxWaits_setFlds
                   | with_reducible apply dxWaits_setLane)

theorem dxWaits_laneGo {n st : Nat} : DxWaits s0 (laneGo s n st) := by
  unfold laneGo
  dsimp only
  repeat' (first | with_reducible assumption | with_reducible apply DxWaits.ite | with_reducible apply dxWaits_setFld
                   | with_reducible apply dxWaits_setFlds | with_reducible apply dxWaits_laneRuns
                   | with_reducible apply dxWaits_laneSettle)

theorem dxWaits_laneFollow {n : Nat} : DxWaits s0 (laneFollow s n) := by
  unfold laneFollow
  dsimp only
  repeat' (first | with_reducible assumption | with_reducible apply DxWaits.ite | with_reducible apply dxWaits_setFld
                   | with_reducible apply dxWaits_laneSettle | with_reducible apply dxWaits_laneGo)

theorem dxWaits_countSat {f : Fld} {sat : Fld} {i : Nat} : DxWaits s0 (State.countSat s f sat i) := by
  unfold State.countSat
  dsimp only
  repeat' (first | with_reducible assumption | with_reducible apply DxWaits.ite | with_reducible apply dxWaits_setFld
                   | with_reducible apply dxWaits_count)

theorem dxWaits_latchOnce {k : Nat} {fs : List (Fld × Nat)} : DxWaits s0 (State.latchOnce s k fs) := by
  unfold State.latchOnce
  repeat' (first | with_reducible assumption | with_reducible apply DxWaits.ite | with_reducible apply dxWaits_setFlds
                   | with_reducible refine DxWaits.lit ?_)

theorem dxWaits_setImp {d : Nat} {e : ImpEntry} : DxWaits s0 (State.setImp s d e) := ⟨hs.waiting⟩

theorem dxWaits_holdCheck {d : Nat} : DxWaits s0 (holdCheck s d) := by
  unfold holdCheck
  dsimp only
  repeat' (first | with_reducible assumption | with_reducible apply DxWaits.ite | with_reducible apply dxWaits_setFld
                   | with_reducible apply dxWaits_countSat | with_reducible apply dxWaits_latchOnce
                   | with_reducible apply dxWaits_setImp)

theorem dxWaits_impCount : DxWaits s0 (impCount s) := dxWaits_setFlds hs

theorem dxWaits_xdomHold : DxWaits s0 (xdomHold s) := by
  unfold xdomHold
  repeat' (first | with_reducible assumption | with_reducible apply DxWaits.foldl
                   | with_reducible apply dxWaits_holdCheck | with_reducible apply dxWaits_impCount | intro _ _ _)

theorem dxWaits_laneApply {n : Nat} {v : Word} : DxWaits s0 (laneApply s n v) := by
  unfold laneApply
  dsimp only
  repeat' (first | with_reducible assumption | with_reducible apply DxWaits.ite | with_reducible apply dxWaits_wr
                   | with_reducible apply dxWaits_setFld | with_reducible apply dxWaits_laneGo
                   | with_reducible apply dxWaits_laneFollow | with_reducible apply dxWaits_xdomHold)

theorem dxWaits_galRwnd {q : Nat} : DxWaits s0 (galRwnd s q) := by
  unfold galRwnd
  dsimp only
  repeat' (first | with_reducible assumption | with_reducible apply DxWaits.ite | with_reducible apply dxWaits_setFld
                   | with_reducible apply dxWaits_count | with_reducible apply dxWaits_galRefresh
                   | with_reducible apply dxWaits_countSat)

theorem dxWaits_swallowEnd {q : Nat} : DxWaits s0 (swallowEnd s q) := by
  unfold swallowEnd
  dsimp only
  repeat' (first | with_reducible assumption | with_reducible apply DxWaits.ite | with_reducible apply dxWaits_setGq
                   | with_reducible refine DxWaits.lit ?_)

theorem dxWaits_galRewind {q : Nat} : DxWaits s0 (galRewind s q) := by
  unfold galRewind
  dsimp only
  repeat' (first | with_reducible assumption | with_reducible apply DxWaits.ite | with_reducible apply dxWaits_setGq
                   | with_reducible apply dxWaits_spill | with_reducible apply dxWaits_galRwnd
                   | with_reducible apply dxWaits_swallowEnd | split)

theorem dxWaits_setEvtq {c : Nat} {q : EvtQueue} : DxWaits s0 (State.setEvtq s c q) := by
  unfold State.setEvtq
  dsimp only
  repeat' (first | with_reducible assumption | with_reducible apply dxWaits_setFlag
                   | with_reducible refine DxWaits.lit ?_)

theorem dxWaits_queueEvent {c : Nat} {m : Msg} : DxWaits s0 (queueEvent s c m) := by
  unfold queueEvent
  dsimp only
  repeat' (first | with_reducible assumption | with_reducible apply DxWaits.ite | with_reducible apply dxWaits_count
                   | with_reducible apply dxWaits_setEvtq)

theorem dxWaits_event {code : Nat} {data : List Byte} : DxWaits s0 (State.event s code data) := by
  unfold State.event
  dsimp only
  repeat' (first | with_reducible assumption | with_reducible apply dxWaits_queueEvent)

theorem dxWaits_pathGo {f path st : Nat} : DxWaits s0 (pathGo s f path st) := by
  unfold pathGo
  dsimp only
  repeat' (first | with_reducible assumption | with_reducible apply DxWaits.ite | with_reducible apply dxWaits_setFld
                   | with_reducible apply dxWaits_event)

theorem dxWaits_refFalls : DxWaits s0 (refFalls s) := by
  unfold refFalls
  repeat' (first | with_reducible assumption | with_reducible apply DxWaits.ite | with_reducible apply DxWaits.foldl
                   | with_reducible apply dxWaits_setFld | intro _ _ _)

theorem dxWaits_setPti {n : Nat} {p : Pti} : DxWaits s0 (State.setPti s n p) := ⟨hs.waiting⟩

theorem dxWaits_lockCheck {n : Nat} : DxWaits s0 (lockCheck s n) := by
  unfold lockCheck
  repeat' (first | with_reducible assumption | with_reducible apply DxWaits.ite | with_reducible apply dxWaits_setFld
                   | with_reducible apply dxWaits_refFalls | with_reducible apply dxWaits_setPti)

theorem dxWaits_setMcs {n : Nat} {m : Mcs} : DxWaits s0 (State.setMcs s n m) := ⟨hs.waiting⟩

theorem dxWaits_mcsHere {n : Nat} : DxWaits s0 (mcsHere s n) := dxWaits_setMcs hs

theorem dxWaits_mcsSetRate {n : Nat} {ppb : Int} : DxWaits s0 (mcsSetRate s n ppb) := by
  unfold mcsSetRate
  dsimp only
  repeat' (first | with_reducible assumption | with_reducible apply dxWaits_setFld
                   | with_reducible apply dxWaits_setMcs | with_reducible apply dxWaits_mcsHere)

theorem dxWaits_setOut {i : Nat} {o : Option Nat} : DxWaits s0 (setOut s i o) := ⟨hs.waiting⟩

theorem dxWaits_stopOuts {n : Nat} : DxWaits s0 (stopOuts s n) := by
  unfold stopOuts
  repeat' (first | with_reducible assumption | with_reducible apply DxWaits.ite | with_reducible apply DxWaits.foldl
                   | with_reducible apply dxWaits_setOut | intro _ _ _)

theorem dxWaits_mcsGo {n st : Nat} : DxWaits s0 (mcsGo s n st) := by
  unfold mcsGo
  dsimp only
  repeat' (first | with_reducible assumption | with_reducible apply DxWaits.ite | with_reducible apply dxWaits_setFld
                   | with_reducible apply dxWaits_setFlds | with_reducible apply dxWaits_event
                   | with_reducible apply dxWaits_setMcs | with_reducible apply dxWaits_mcsSetRate
                   | with_reducible apply dxWaits_stopOuts)

theorem dxWaits_mcsLose {n : Nat} : DxWaits s0 (mcsLose s n) := by
  unfold mcsLose
  dsimp only
  repeat' (first | with_reducible assumption | with_reducible apply DxWaits.ite | with_reducible apply dxWaits_setFld
                   | with_reducible apply dxWaits_mcsGo)

theorem dxWaits_mcsPtiEvent {pti : Nat} {step : Bool} : DxWaits s0 (mcsPtiEvent s pti step) := by
  unfold mcsPtiEvent
  dsimp only
  repeat' (first | with_reducible assumption | with_reducible apply DxWaits.ite | with_reducible apply DxWaits.foldl
                   | with_reducible apply dxWaits_setFld | with_reducible apply dxWaits_setMcs
                   | with_reducible apply dxWaits_mcsLose | intro _ _ _)

theorem dxWaits_ptiFreeze {n : Nat} : DxWaits s0 (ptiFreeze s n) := by
  unfold ptiFreeze
  dsimp only
  repeat' (first | with_reducible assumption | with_reducible apply DxWaits.ite | with_reducible apply dxWaits_setFld
                   | with_reducible apply dxWaits_refFalls | with_reducible apply dxWaits_setPti
                   | with_reducible apply dxWaits_mcsPtiEvent)

theorem dxWaits_setPort {n x st : Nat} : DxWaits s0 (setPort s n x st) := by
  unfold setPort
  dsimp only
  repeat' (first | with_reducible assumption | with_reducible apply DxWaits.ite | with_reducible apply dxWaits_setFld
                   | with_reducible apply dxWaits_setPti)

theorem dxWaits_portLost {n x st : Nat} : DxWaits s0 (portLost s n x st) := by
  unfold portLost
  dsimp only
  repeat' (first | with_reducible assumption | with_reducible apply DxWaits.ite
                   | with_reducible apply dxWaits_lockCheck | with_reducible apply dxWaits_ptiFreeze
                   | with_reducible apply dxWaits_setPort)

theorem dxWaits_netLinkDown {p st : Nat} : DxWaits s0 (netLinkDown s p st) := by
  unfold netLinkDown
  dsimp only
  repeat' (first | with_reducible assumption | with_reducible apply DxWaits.ite | with_reducible apply DxWaits.foldl
                   | with_reducible apply dxWaits_setFld | with_reducible apply dxWaits_setFlds
                   | with_reducible apply dxWaits_galRewind | with_reducible apply dxWaits_pathGo
                   | with_reducible apply dxWaits_portLost | intro _ _ _)

theorem dxWaits_cellPoke {c : CellNo} {off : Nat} {bs : List Byte} : DxWaits s0 (cellPoke s c off bs) := by
  unfold cellPoke
  dsimp only
  repeat' (first | with_reducible assumption | with_reducible apply DxWaits.ite | split
                   | with_reducible refine DxWaits.lit ?_)

theorem dxWaits_portsMark {f k : Nat} {poison : Bool} : DxWaits s0 (portsMark s f k poison) := by
  unfold portsMark
  dsimp only
  repeat' (first | with_reducible assumption | with_reducible apply DxWaits.ite
                   | with_reducible apply dxWaits_storeMark | with_reducible apply dxWaits_cellPoke | split)

theorem dxWaits_galFreeFirst {q n : Nat} : DxWaits s0 (galFreeFirst s q n) := by
  unfold galFreeFirst
  dsimp only
  repeat' (first | with_reducible assumption | with_reducible apply DxWaits.ite | with_reducible apply DxWaits.foldl
                   | with_reducible apply dxWaits_setGq | with_reducible apply dxWaits_spillElem | intro _ _ _)

theorem dxWaits_releaseIfDone {f k : Nat} : DxWaits s0 (releaseIfDone s f k) := by
  unfold releaseIfDone
  repeat' (first | with_reducible assumption | with_reducible apply DxWaits.ite
                   | with_reducible apply dxWaits_galRefresh | with_reducible apply dxWaits_galFreeFirst)

theorem dxWaits_raise {l : List Fld} : DxWaits s0 (s.raise l) := by
  induction l generalizing s with
  | nil => exact hs
  | cons p l ih => exact ih (dxWaits_setFld hs)

theorem dxWaits_txCount {f i n : Nat} {ev : List Fld} : DxWaits s0 (txCount s f i n ev) := by
  unfold txCount
  repeat' (first | with_reducible assumption | with_reducible apply dxWaits_countSatN
                   | with_reducible apply dxWaits_raise)

theorem dxWaits_txCut {p : Nat} : DxWaits s0 (txCut s p) := by
  unfold txCut
  dsimp only
  repeat' (first | with_reducible assumption | with_reducible apply DxWaits.ite | with_reducible apply DxWaits.foldl
                   | with_reducible apply dxWaits_portsMark | with_reducible apply dxWaits_releaseIfDone
                   | with_reducible apply dxWaits_txCount | intro _ _ _ | split | with_reducible refine DxWaits.lit ?_)

theorem dxWaits_portLink {p st : Nat} : DxWaits s0 (portLink s p st) := by
  unfold portLink
  repeat' (first | with_reducible assumption | with_reducible apply DxWaits.ite
                   | with_reducible apply dxWaits_netLinkDown | with_reducible apply dxWaits_txCut)

theorem dxWaits_netApply {p : Nat} : DxWaits s0 (netApply s p) := by
  unfold netApply netLinkStateChange
  dsimp only
  split
  · exact hs
  · have hc : DxWaits s0 (capApply s [R.NET.CFG.reg p]) := dxWaits_capApply hs
    exact DxWaits.ite hc (dxWaits_portLink (DxWaits.ite (dxWaits_setFld (dxWaits_setFld hc)) (dxWaits_setFld hc)))

theorem dxWaits_protApply {h : Nat} {v : Bool} : DxWaits s0 (protApply s h v) := by
  unfold protApply
  dsimp only
  repeat' (first | with_reducible assumption | with_reducible apply DxWaits.ite | with_reducible apply dxWaits_setFld
                   | with_reducible apply dxWaits_setFlag)

theorem dxWaits_rxGo {f st reason : Nat} : DxWaits s0 (rxGo s f st reason) := by
  have hp : ∀ {u : State} {l : List Nat}, DxWaits s0 u → DxWaits s0 { u with dx := { u.dx with played := l } } :=
    fun h => ⟨h.waiting⟩
  have hst : DxWaits s0 (s.setFlds [(R.RXF.F_STAT.STATE f, st), (R.RXF.F_STAT.STATE_EV f, 1)]) := dxWaits_setFlds hs
  have hlatch : DxWaits s0 (if st = 3 then (s.setFlds [(R.RXF.F_STAT.STATE f, st), (R.RXF.F_STAT.STATE_EV f, 1)]).setFld
      (R.RXF.F_STAT.CONCEAL_EV f) 1 else if st = 2 ∧ s.fld (R.RXF.F_STAT.STATE f) = 3 then
        (s.setFlds [(R.RXF.F_STAT.STATE f, st), (R.RXF.F_STAT.STATE_EV f, 1)]).setFld (R.RXF.F_STAT.REJOIN_EV f) 1
      else s.setFlds [(R.RXF.F_STAT.STATE f, st), (R.RXF.F_STAT.STATE_EV f, 1)]) :=
    DxWaits.ite (dxWaits_setFld hst) (DxWaits.ite (dxWaits_setFld hst) hst)
  exact DxWaits.ite hs (DxWaits.ite (dxWaits_event (DxWaits.ite (hp hlatch) hlatch)) (DxWaits.ite (hp hlatch) hlatch))

theorem dxWaits_setFlow {f : Nat} {x : RxFlow} : DxWaits s0 (State.setFlow s f x) := ⟨hs.waiting⟩

theorem dxWaits_rxStart {f : Nat} : DxWaits s0 (rxStart s f) := by
  unfold rxStart
  dsimp only
  repeat' (first | with_reducible assumption | with_reducible apply DxWaits.ite | with_reducible apply dxWaits_setFld
                   | with_reducible apply dxWaits_addUser | with_reducible apply dxWaits_pathGo
                   | with_reducible apply dxWaits_rxGo | with_reducible apply dxWaits_setFlow)

theorem dxWaits_rxEnable {f : Nat} : DxWaits s0 (rxEnable s f) := by
  unfold rxEnable
  repeat' (first | with_reducible assumption | with_reducible apply DxWaits.ite | with_reducible apply dxWaits_setFld
                   | with_reducible apply dxWaits_rxStart)

theorem dxWaits_rxStep {f off : Nat} : DxWaits s0 (rxStep s f off) := by
  unfold rxStep
  dsimp only
  repeat' (first | with_reducible assumption | with_reducible apply DxWaits.ite | with_reducible apply dxWaits_setFld
                   | with_reducible apply dxWaits_setFlds | with_reducible apply dxWaits_setFlow)

theorem dxWaits_rxFlush {f : Nat} : DxWaits s0 (rxFlush s f) := by
  unfold rxFlush
  dsimp only
  repeat' (first | with_reducible assumption | with_reducible apply DxWaits.ite
                   | with_reducible apply dxWaits_galDiscard | with_reducible apply dxWaits_galRefresh
                   | with_reducible apply dxWaits_setFlow)

theorem dxWaits_rxStop {f : Nat} : DxWaits s0 (rxStop s f) := by
  unfold rxStop
  dsimp only
  repeat' (first | with_reducible assumption | with_reducible apply dxWaits_setFlds
                   | with_reducible apply dxWaits_dropUser | with_reducible apply dxWaits_refFalls
                   | with_reducible apply dxWaits_rxGo | with_reducible apply dxWaits_setFlow
                   | with_reducible apply dxWaits_rxFlush)

theorem dxWaits_rxApply {f : Nat} : DxWaits s0 (rxApply s f) := by
  unfold rxApply
  dsimp only
  repeat' (first | with_reducible assumption | with_reducible apply DxWaits.ite | with_reducible apply DxWaits.foldl
                   | with_reducible apply dxWaits_wr | with_reducible apply dxWaits_setFld
                   | with_reducible apply dxWaits_capDrop | with_reducible apply dxWaits_capApply
                   | with_reducible apply dxWaits_rxEnable | with_reducible apply dxWaits_rxStep
                   | with_reducible apply dxWaits_rxStop | intro _ _ _ | split)

theorem dxWaits_setSlink {l : Nat} {x : StkLinkRec} : DxWaits s0 (State.setSlink s l x) := ⟨hs.waiting⟩

theorem dxWaits_stkRefresh : DxWaits s0 (stkRefresh s) := by
  unfold stkRefresh
  dsimp only
  repeat' (first | with_reducible assumption | with_reducible apply DxWaits.ite | with_reducible apply DxWaits.foldl
                   | with_reducible apply dxWaits_setFlds)

theorem dxWaits_emit {o : Out} : DxWaits s0 (State.emit s o) := ⟨hs.waiting⟩

theorem dxWaits_stkOut {l : Nat} {o : Out} : DxWaits s0 (stkOut s l o) := by
  unfold stkOut
  repeat' (first | with_reducible assumption | with_reducible apply dxWaits_setSlink
                   | with_reducible apply dxWaits_emit)

theorem dxWaits_stkTell {m : StkMsg} : DxWaits s0 (stkTell s m) := by
  unfold stkTell
  repeat' (first | with_reducible assumption | with_reducible apply DxWaits.ite | with_reducible apply DxWaits.foldl
                   | with_reducible apply dxWaits_stkOut | intro _ _ _)

theorem dxWaits_stkGo {st reason : Nat} : DxWaits s0 (stkGo s st reason) := by
  unfold stkGo
  dsimp only
  repeat' (first | with_reducible assumption | with_reducible apply DxWaits.ite | with_reducible apply dxWaits_setFlds
                   | with_reducible apply dxWaits_event | with_reducible apply dxWaits_stkRefresh
                   | with_reducible apply dxWaits_stkTell | with_reducible refine DxWaits.lit ?_)

theorem dxWaits_stkJudge : DxWaits s0 (stkJudge s) := by
  unfold stkJudge
  dsimp only
  repeat' (first | with_reducible assumption | with_reducible apply DxWaits.ite
                   | with_reducible apply dxWaits_stkRefresh | with_reducible apply dxWaits_stkGo
                   | with_reducible refine DxWaits.lit ?_)

theorem dxWaits_stkSeek : DxWaits s0 (stkSeek s) := by
  unfold stkSeek
  repeat' (first | with_reducible assumption | with_reducible apply DxWaits.ite | with_reducible apply dxWaits_stkGo)

theorem dxWaits_stkCfgApply : DxWaits s0 (stkCfgApply s) := by
  unfold stkCfgApply
  dsimp only
  repeat' (first | with_reducible assumption | with_reducible apply DxWaits.ite | with_reducible apply DxWaits.foldl
                   | with_reducible apply dxWaits_setFld | with_reducible apply dxWaits_setFlds
                   | with_reducible apply dxWaits_capApply | with_reducible apply dxWaits_setSlink
                   | with_reducible apply dxWaits_stkRefresh | with_reducible apply dxWaits_stkTell
                   | with_reducible apply dxWaits_stkGo | with_reducible apply dxWaits_stkJudge
                   | with_reducible apply dxWaits_stkSeek | intro _ _ _ | with_reducible refine DxWaits.lit ?_)

theorem dxWaits_tbApply {f : Nat} : DxWaits s0 (tbApply s f) := by
  unfold tbApply
  dsimp only
  repeat' (first | with_reducible assumption | with_reducible apply DxWaits.ite | with_reducible apply dxWaits_setFld
                   | with_reducible apply dxWaits_setFlds | with_reducible apply dxWaits_setFlag
                   | with_reducible apply dxWaits_capDrop | with_reducible apply dxWaits_capApply | split)

theorem dxWaits_impTake {d k : Nat} : DxWaits s0 (impTake s d k) := by
  unfold impTake
  dsimp only
  repeat' (first | with_reducible assumption | with_reducible apply dxWaits_setImp
                   | with_reducible apply dxWaits_holdCheck | with_reducible apply dxWaits_impCount | split)

theorem dxWaits_maskEntries {p : Nat} {rx : Bool} {k : Nat} : DxWaits s0 (maskEntries s p rx k) := by
  unfold maskEntries
  repeat' (first | with_reducible assumption | with_reducible apply DxWaits.ite | with_reducible apply DxWaits.foldl
                   | with_reducible apply dxWaits_impTake | intro _ _ _)

theorem dxWaits_pendRefresh : DxWaits s0 (pendRefresh s) := by
  unfold pendRefresh
  repeat' (first | with_reducible assumption | with_reducible apply DxWaits.ite | with_reducible apply dxWaits_setFld)

theorem dxWaits_setTdm {p : Nat} {rx : Bool} {d : TdmDir} : DxWaits s0 (State.setTdm s p rx d) := ⟨hs.waiting⟩

theorem dxWaits_maskApply {p : Nat} {rx : Bool} {k : Nat} : DxWaits s0 (maskApply s p rx k) := by
  unfold maskApply
  dsimp only
  repeat' (first | with_reducible assumption | with_reducible apply DxWaits.ite | with_reducible apply dxWaits_setFld
                   | with_reducible apply dxWaits_capApply | with_reducible apply dxWaits_maskEntries
                   | with_reducible apply dxWaits_pendRefresh | with_reducible apply dxWaits_setTdm)

theorem dxWaits_oeRefresh : DxWaits s0 (oeRefresh s) := by
  unfold oeRefresh
  repeat' (first | with_reducible assumption | with_reducible apply DxWaits.foldl
                   | with_reducible apply dxWaits_setFlag | intro _ _ _)

theorem dxWaits_pinsReleased {p : Nat} {rx off : Bool} : DxWaits s0 (pinsReleased s p rx off) := by
  unfold pinsReleased
  dsimp only
  repeat' (first | with_reducible assumption | with_reducible apply DxWaits.ite | with_reducible apply dxWaits_setFld
                   | with_reducible apply dxWaits_oeRefresh)

theorem dxWaits_tdmGo {p : Nat} {rx : Bool} {st : Nat} : DxWaits s0 (tdmGo s p rx st) := by
  unfold tdmGo
  dsimp only
  repeat' (first | with_reducible assumption | with_reducible apply DxWaits.ite | with_reducible apply dxWaits_setFlds
                   | with_reducible apply dxWaits_dropUser | with_reducible apply dxWaits_fresh
                   | with_reducible apply dxWaits_event | with_reducible apply dxWaits_setTdm
                   | with_reducible apply dxWaits_maskApply | with_reducible apply dxWaits_pinsReleased)

theorem dxWaits_tdmApply {p : Nat} {rx : Bool} : DxWaits s0 (tdmApply s p rx) := by
  unfold tdmApply
  dsimp only
  repeat' (first | with_reducible assumption | with_reducible apply DxWaits.ite | with_reducible apply dxWaits_setFld
                   | with_reducible apply dxWaits_addUser | with_reducible apply dxWaits_capDrop
                   | with_reducible apply dxWaits_capApply | with_reducible apply dxWaits_xdomHold
                   | with_reducible apply dxWaits_maskApply | with_reducible apply dxWaits_tdmGo | split)

theorem dxWaits_twinCfgTake {free : Bool} {v : Word} : DxWaits s0 (twinCfgTake s free v) := by
  unfold twinCfgTake
  dsimp only
  repeat' (first | with_reducible assumption | with_reducible apply DxWaits.ite | with_reducible apply dxWaits_wr
                   | with_reducible apply dxWaits_setFld)

theorem dxWaits_twinGo {st : Nat} : DxWaits s0 (twinGo s st) := by
  unfold twinGo
  dsimp only
  repeat' (first | with_reducible assumption | with_reducible apply DxWaits.ite | with_reducible apply dxWaits_setFld
                   | with_reducible apply dxWaits_setFlds | with_reducible apply dxWaits_event)

theorem dxWaits_twinApply : DxWaits s0 (twinApply s) := by
  unfold twinApply
  dsimp only
  repeat' (first | with_reducible assumption | with_reducible apply DxWaits.ite | with_reducible apply dxWaits_capDrop
                   | with_reducible apply dxWaits_capApply | with_reducible apply dxWaits_oeRefresh
                   | with_reducible apply dxWaits_twinCfgTake | with_reducible apply dxWaits_twinGo | split)

theorem dxWaits_loadRefresh {p : Nat} : DxWaits s0 (loadRefresh s p) := by
  unfold loadRefresh
  dsimp only
  repeat' (first | with_reducible assumption | with_reducible apply DxWaits.ite | with_reducible apply DxWaits.foldl
                   | with_reducible apply dxWaits_setFlds)

theorem dxWaits_setTxf {f : Nat} {x : TxFlow} : DxWaits s0 (State.setTxf s f x) := ⟨hs.waiting⟩

theorem dxWaits_txGo {f st : Nat} : DxWaits s0 (txGo s f st) := by
  unfold txGo
  repeat' (first | with_reducible assumption | with_reducible apply DxWaits.ite | with_reducible apply dxWaits_setFlds)

theorem dxWaits_txStart {f : Nat} : DxWaits s0 (txStart s f) := by
  unfold txStart
  dsimp only
  repeat' (first | with_reducible assumption | with_reducible apply DxWaits.foldl
                   | with_reducible apply dxWaits_addUser | with_reducible apply dxWaits_loadRefresh
                   | with_reducible apply dxWaits_setTxf | with_reducible apply dxWaits_txGo | intro _ _ _)

theorem dxWaits_underEnd {f : Nat} : DxWaits s0 (underEnd s f) := by
  unfold underEnd
  dsimp only
  repeat' (first | with_reducible assumption | with_reducible apply DxWaits.ite | with_reducible apply dxWaits_event
                   | with_reducible apply dxWaits_setTxf)

theorem dxWaits_txStop {f : Nat} : DxWaits s0 (txStop s f) := by
  unfold txStop
  dsimp only
  repeat' (first | with_reducible assumption | with_reducible apply DxWaits.ite | with_reducible apply DxWaits.foldl
                   | with_reducible apply dxWaits_dropUser | with_reducible apply dxWaits_galDiscard
                   | with_reducible apply dxWaits_galRefresh | with_reducible apply dxWaits_loadRefresh
                   | with_reducible apply dxWaits_setTxf | with_reducible apply dxWaits_txGo
                   | with_reducible apply dxWaits_underEnd | intro _ _ _ | with_reducible refine DxWaits.lit ?_)

theorem dxWaits_txApply {f : Nat} : DxWaits s0 (txApply s f) := by
  unfold txApply
  dsimp only
  repeat' (first | with_reducible assumption | with_reducible apply DxWaits.ite | with_reducible apply dxWaits_wr
                   | with_reducible apply dxWaits_setFld | with_reducible apply dxWaits_setFlds
                   | with_reducible apply dxWaits_capDrop | with_reducible apply dxWaits_capApply
                   | with_reducible apply dxWaits_txStart | with_reducible apply dxWaits_txStop | split)

theorem dxWaits_txPortApply : DxWaits s0 (txPortApply s) := by
  unfold txPortApply
  dsimp only
  repeat' (first | with_reducible assumption | with_reducible apply DxWaits.ite | with_reducible apply DxWaits.foldl
                   | with_reducible apply dxWaits_setFld | with_reducible apply dxWaits_capApply | intro _ _ _)

theorem dxWaits_takeUnit {g u : Nat} : DxWaits s0 (takeUnit s g u) := by
  unfold takeUnit
  dsimp only
  repeat' (first | with_reducible assumption | with_reducible apply DxWaits.ite | with_reducible apply dxWaits_capDrop
                   | with_reducible apply dxWaits_capApply | with_reducible apply dxWaits_blkApply
                   | with_reducible apply dxWaits_funApply | with_reducible apply dxWaits_hstApply
                   | with_reducible apply dxWaits_hstCfgApply | with_reducible apply dxWaits_laneApply
                   | with_reducible apply dxWaits_netApply | with_reducible apply dxWaits_protApply
                   | with_reducible apply dxWaits_rxApply | with_reducible apply dxWaits_stkCfgApply
                   | with_reducible apply dxWaits_tbApply | with_reducible apply dxWaits_tdmApply
                   | with_reducible apply dxWaits_twinApply | with_reducible apply dxWaits_txApply
                   | with_reducible apply dxWaits_txPortApply | split)

theorem dxWaits_applyUnit {g u : Nat} : DxWaits s0 (applyUnit s g u) := by
  unfold applyUnit
  repeat' (first | with_reducible assumption | with_reducible apply DxWaits.ite
                   | with_reducible apply dxWaits_xdomHold | with_reducible apply dxWaits_takeUnit)

theorem dxWaits_applyGroup {g : Nat} : DxWaits s0 (applyGroup s g) := by
  unfold applyGroup
  dsimp only
  repeat' (first | with_reducible assumption | with_reducible apply DxWaits.foldl
                   | with_reducible apply dxWaits_pendRefresh | with_reducible apply dxWaits_applyUnit | intro _ _ _
                   | with_reducible refine DxWaits.lit ?_)

theorem dxWaits_cmdWrite {p : Nat} {rx : Bool} {v : Word} : DxWaits s0 (cmdWrite s p rx v) := by
  unfold cmdWrite
  dsimp only
  repeat' (first | with_reducible assumption | with_reducible apply DxWaits.ite | with_reducible apply dxWaits_setFld
                   | with_reducible apply dxWaits_addUser | with_reducible apply dxWaits_tdmGo)

theorem dxWaits_captureTable {caps : List Cap} : DxWaits s0 (captureTable s caps) :=
  DxWaits.foldl (fun _ _ h => dxWaits_setImp h) hs

theorem dxWaits_mclkRefresh : DxWaits s0 (mclkRefresh s) := by
  unfold mclkRefresh
  repeat' (first | with_reducible assumption | with_reducible apply DxWaits.foldl
                   | with_reducible apply dxWaits_setFlag | intro _ _ _)

theorem dxWaits_mcsApply {n : Nat} {v : Word} : DxWaits s0 (mcsApply s n v) := by
  unfold mcsApply
  dsimp only
  repeat' (first | with_reducible assumption | with_reducible apply DxWaits.ite | with_reducible apply dxWaits_wr
                   | with_reducible apply dxWaits_setFld | with_reducible apply dxWaits_setMcs
                   | with_reducible apply dxWaits_mcsGo | with_reducible apply dxWaits_mclkRefresh)

theorem dxWaits_clkApply {k : Nat} {v : Word} : DxWaits s0 (clkApply s k v) := by
  unfold clkApply
  dsimp only
  repeat' (first | with_reducible assumption | with_reducible apply DxWaits.ite | with_reducible apply DxWaits.foldl
                   | with_reducible apply dxWaits_wr | with_reducible apply dxWaits_setOut
                   | with_reducible apply dxWaits_mclkRefresh | with_reducible apply dxWaits_mcsApply | intro _ _ _)

theorem dxWaits_crcHold : DxWaits s0 (State.crcHold s) := by
  unfold State.crcHold
  repeat' (first | with_reducible assumption | with_reducible apply DxWaits.ite | with_reducible apply dxWaits_setFld)

theorem dxWaits_portsApply {n : Nat} : DxWaits s0 (portsApply s n) := by
  unfold portsApply
  dsimp only
  repeat' (first | with_reducible assumption | with_reducible apply DxWaits.ite | with_reducible apply DxWaits.foldl
                   | with_reducible apply dxWaits_setPort | intro _ _ _)

theorem dxWaits_mcsShift {pti : Nat} {delta : Int} : DxWaits s0 (mcsShift s pti delta) := by
  unfold mcsShift
  repeat' (first | with_reducible assumption | with_reducible apply DxWaits.ite | with_reducible refine DxWaits.lit ?_)

theorem dxWaits_setPl {k : Nat} {p : Platen} : DxWaits s0 (State.setPl s k p) := ⟨hs.waiting⟩

theorem dxWaits_setPlFire {k raw : Nat} : DxWaits s0 (setPlFire s k raw) := by
  unfold setPlFire
  dsimp only
  repeat' (first | with_reducible assumption | with_reducible apply dxWaits_setFlds
                   | with_reducible apply dxWaits_setPl)

theorem dxWaits_plStep {n old new : Nat} {k : Nat} : DxWaits s0 (plStep n old new s k) := by
  unfold plStep
  dsimp only
  repeat' (first | with_reducible assumption | with_reducible apply DxWaits.ite | with_reducible apply dxWaits_setFlds
                   | with_reducible apply dxWaits_setPlFire)

theorem dxWaits_ptiStep {n : Nat} {delta : Int} : DxWaits s0 (ptiStep s n delta) := by
  unfold ptiStep
  dsimp only
  repeat' (first | with_reducible assumption | with_reducible apply DxWaits.ite | with_reducible apply DxWaits.foldl
                   | with_reducible apply dxWaits_setFld | with_reducible apply dxWaits_setPti
                   | with_reducible apply dxWaits_mcsPtiEvent | with_reducible apply dxWaits_mcsShift
                   | with_reducible apply dxWaits_plStep | intro _ _ _ | with_reducible refine DxWaits.lit ?_)

theorem dxWaits_timeApply {k : Nat} {v : Word} : DxWaits s0 (timeApply s k v) := by
  unfold timeApply
  dsimp only
  repeat' (first | with_reducible assumption | with_reducible apply DxWaits.ite | with_reducible apply dxWaits_wr
                   | with_reducible apply dxWaits_setFld | with_reducible apply dxWaits_setPti
                   | with_reducible apply dxWaits_lockCheck | with_reducible apply dxWaits_portsApply
                   | with_reducible apply dxWaits_ptiStep | with_reducible apply dxWaits_wrSh)

theorem dxWaits_captureAt {groups : Nat} {time : Nat → Nat × Nat} : DxWaits s0 (captureAt s groups time) := by
  unfold captureAt
  dsimp only
  repeat' (first | with_reducible assumption | with_reducible apply DxWaits.ite | with_reducible apply DxWaits.foldl
                   | with_reducible apply dxWaits_pendRefresh | with_reducible apply dxWaits_captureTable
                   | with_reducible apply dxWaits_clkApply | with_reducible apply dxWaits_crcHold
                   | with_reducible apply dxWaits_timeApply | intro _ _ _ | with_reducible refine DxWaits.lit ?_)

theorem dxWaits_capture {groups : Nat} : DxWaits s0 (capture s groups) := dxWaits_captureAt hs

theorem dxWaits_lanesFollow : DxWaits s0 (lanesFollow s) := by
  unfold lanesFollow
  repeat' (first | with_reducible assumption | with_reducible apply DxWaits.foldl
                   | with_reducible apply dxWaits_laneFollow | intro _ _ _)

theorem dxWaits_turnOn {q : Nat} : DxWaits s0 (turnOn s q) := by
  unfold turnOn
  repeat' (first | with_reducible assumption | with_reducible apply DxWaits.ite | with_reducible refine DxWaits.lit ?_)

theorem dxWaits_placeSlug {q n folio ts reason : Nat} {merged own : Bool} :
    DxWaits s0 (placeSlug s q n folio ts reason merged own) := by
  unfold placeSlug
  repeat' (first | with_reducible assumption | with_reducible apply DxWaits.ite
                   | with_reducible apply dxWaits_placeSlugIn | with_reducible apply dxWaits_turnOn)

theorem dxWaits_slugDrop {q folio ts reason : Nat} : DxWaits s0 (slugDrop s q folio ts reason) := by
  unfold slugDrop
  dsimp only
  repeat' (first | with_reducible assumption | with_reducible apply DxWaits.ite | with_reducible apply dxWaits_count
                   | with_reducible apply dxWaits_setGq | with_reducible apply dxWaits_placeSlug | split)

theorem dxWaits_itemDrop {q folio ts reason : Nat} : DxWaits s0 (itemDrop s q folio ts reason) := by
  unfold itemDrop
  repeat' (first | with_reducible assumption | with_reducible apply dxWaits_countDrops
                   | with_reducible apply dxWaits_slugDrop)

theorem dxWaits_takeCells {q n : Nat} : DxWaits s0 (takeCells s q n).2 := by
  induction n generalizing s with
  | zero => exact hs
  | succ n ih =>
    unfold takeCells
    exact DxWaits.lit (ih (DxWaits.lit (dxWaits_turnOn (dxWaits_takeCell hs))))

theorem dxWaits_galOpen {q kind : Nat} {len : Option Nat} {folio ts : Nat} : DxWaits s0 (galOpen s q kind len folio ts) := by
  unfold galOpen
  dsimp only
  repeat' (first | with_reducible assumption | with_reducible apply DxWaits.ite | with_reducible apply dxWaits_setGq
                   | with_reducible apply dxWaits_itemDrop | with_reducible apply dxWaits_takeCells | split)

theorem dxWaits_tagsRefresh : DxWaits s0 (tagsRefresh s) := dxWaits_setFlds hs

theorem dxWaits_htIssue {i n : Nat} : DxWaits s0 (htIssue i n s) := by
  induction n generalizing s with
  | zero => exact hs
  | succ n ih =>
    unfold htIssue
    dsimp only
    split
    · exact hs
    · split
      · exact hs
      · exact DxWaits.ite (ih (DxWaits.lit (dxWaits_emit (dxWaits_setHst hs)))) hs

theorem dxWaits_htStart {i : Nat} : DxWaits s0 (htStart s i) := by
  unfold htStart
  dsimp only
  repeat' (first | with_reducible assumption | with_reducible apply DxWaits.ite | with_reducible apply dxWaits_fresh
                   | with_reducible apply dxWaits_setHst | with_reducible apply dxWaits_galOpen
                   | with_reducible apply dxWaits_tagsRefresh | with_reducible apply dxWaits_htIssue)

theorem dxWaits_errLatch {kind w : Nat} {c : CellNo} : DxWaits s0 (errLatch s kind w c) := dxWaits_latchOnce hs

theorem dxWaits_checkWord {c : CellNo} {w : Nat} : DxWaits s0 (checkWord s c w).2 := by
  unfold checkWord
  exact DxWaits.iteSnd hs (DxWaits.iteSnd (DxWaits.iteSnd (dxWaits_errLatch (dxWaits_countSat (dxWaits_setFld hs.lit)))
    (dxWaits_errLatch (dxWaits_countSat (dxWaits_setFld hs)))) (dxWaits_errLatch (dxWaits_countSat (dxWaits_setFld hs))))

theorem dxWaits_checkedWords {base : Nat} {c : CellNo} {l : List Nat} : DxWaits s0 (checkedWords s base c l).2 := by
  unfold checkedWords
  generalize hacc : (([], s) : List Nat × State) = acc
  have hs : DxWaits s0 acc.2 := by rw [← hacc]; exact hs
  clear hacc
  induction l generalizing acc with
  | nil => exact hs
  | cons w l ih => exact ih _ (dxWaits_checkWord hs)

theorem dxWaits_checkCells {base : Nat} {cs : List CellNo} : DxWaits s0 (checkCells s base cs).2 := by
  induction cs generalizing s base with
  | nil => exact hs
  | cons c cs ih =>
    rw [checkCells_cons]
    dsimp only
    generalize List.range 8 = l
    exact ih (dxWaits_checkedWords hs)

theorem dxWaits_dxRaise {bits : Nat} : DxWaits s0 (dxRaise s bits) := by
  unfold dxRaise
  dsimp only
  repeat' (first | with_reducible assumption | with_reducible apply DxWaits.ite | with_reducible apply dxWaits_setDx
                   | with_reducible apply dxWaits_event)

theorem dxWaits_dxEccCount {q : Nat} {cells : List CellNo} : DxWaits s0 (dxEccCount s q cells) := by
  unfold dxEccCount
  dsimp only
  repeat' (first | with_reducible assumption | with_reducible apply DxWaits.ite | with_reducible apply dxWaits_setDx
                   | with_reducible apply dxWaits_dxRaise)

theorem dxWaits_galPop {q : Nat} : DxWaits s0 (galPop s q).2 := by
  unfold galPop
  dsimp only
  split
  · exact hs
  · split
    · exact hs
    · exact dxWaits_setGq (dxWaits_checkCells (dxWaits_dxEccCount hs))

theorem dxWaits_expireQueue {q n next fuel : Nat} : DxWaits s0 (expireQueue q n next fuel s) := by
  induction fuel generalizing s with
  | zero => exact hs
  | succ fuel ih =>
    unfold expireQueue
    dsimp only
    split
    · exact DxWaits.ite (ih (dxWaits_galRefresh (dxWaits_galFreeFirst (DxWaits.ite (dxWaits_galPop hs) hs)))) hs
    · exact hs

theorem dxWaits_hstFollow {m : Nat} : DxWaits s0 (hstFollow s m) := by
  unfold hstFollow
  dsimp only
  repeat' (first | with_reducible assumption | with_reducible apply DxWaits.ite | with_reducible apply DxWaits.foldl
                   | with_reducible apply dxWaits_hstGo | with_reducible apply dxWaits_setHst
                   | with_reducible apply dxWaits_htStart | with_reducible apply dxWaits_expireQueue | intro _ _ _)

theorem dxWaits_rxFollow {m : Nat} : DxWaits s0 (rxFollow s m) := by
  unfold rxFollow
  dsimp only
  repeat' (first | with_reducible assumption | with_reducible apply DxWaits.ite | with_reducible apply DxWaits.foldl
                   | with_reducible apply dxWaits_rxGo | with_reducible apply dxWaits_rxFlush | intro _ _ _)

theorem dxWaits_stkFollow {m : Nat} : DxWaits s0 (stkFollow s m) := by
  unfold stkFollow
  dsimp only
  repeat' (first | with_reducible assumption | with_reducible apply DxWaits.ite | with_reducible apply DxWaits.foldl
                   | with_reducible apply dxWaits_blkGo | with_reducible apply dxWaits_setSblk
                   | with_reducible apply dxWaits_expireQueue | intro _ _ _)

theorem dxWaits_txFollow {m : Nat} : DxWaits s0 (txFollow s m) := by
  unfold txFollow
  dsimp only
  repeat' (first | with_reducible assumption | with_reducible apply DxWaits.ite | with_reducible apply DxWaits.foldl
                   | with_reducible apply dxWaits_setTxf | with_reducible apply dxWaits_txGo | intro _ _ _)

theorem dxWaits_mcsFollow {n : Nat} : DxWaits s0 (mcsFollow s n) := by
  unfold mcsFollow
  repeat' (first | with_reducible assumption | with_reducible apply dxWaits_hstFollow
                   | with_reducible apply dxWaits_rxFollow | with_reducible apply dxWaits_stkFollow
                   | with_reducible apply dxWaits_txFollow)

theorem dxWaits_mcsMoved {old : State} {n : Nat} : DxWaits s0 (mcsMoved old s n) := by
  unfold mcsMoved
  repeat' (first | with_reducible assumption | with_reducible apply DxWaits.ite
                   | with_reducible apply dxWaits_mcsFollow)

theorem dxWaits_ptiMoved {old : State} {n : Nat} : DxWaits s0 (ptiMoved old s n) := by
  unfold ptiMoved
  repeat' (first | with_reducible assumption | with_reducible apply DxWaits.ite | with_reducible apply dxWaits_event)

theorem dxWaits_follow {old : State} : DxWaits s0 (follow old s) := by
  unfold follow
  dsimp only
  repeat' (first | with_reducible assumption | with_reducible apply DxWaits.ite | with_reducible apply DxWaits.foldl
                   | with_reducible apply dxWaits_xdomHold | with_reducible apply dxWaits_lanesFollow
                   | with_reducible apply dxWaits_mcsMoved | with_reducible apply dxWaits_ptiMoved | intro _ _ _)

theorem dxWaits_strobe {groups : Nat} : DxWaits s0 (strobe s groups) := by
  unfold strobe
  repeat' (first | with_reducible assumption | with_reducible apply dxWaits_capture
                   | with_reducible apply dxWaits_follow)

theorem dxWaits_mcsRebase {pti : Nat} : DxWaits s0 (mcsRebase s pti) := by
  unfold mcsRebase
  repeat' (first | with_reducible assumption | with_reducible apply DxWaits.ite | with_reducible apply DxWaits.foldl
                   | with_reducible apply dxWaits_mcsHere | intro _ _ _)

theorem dxWaits_setAddend {n a : Nat} : DxWaits s0 (State.setAddend s n a) := by
  unfold State.setAddend
  repeat' (first | with_reducible assumption | with_reducible apply dxWaits_setFlds
                   | with_reducible apply dxWaits_mcsRebase)

theorem dxWaits_addendWrite {n : Nat} {frac : Bool} {v : Word} : DxWaits s0 (addendWrite s n frac v) := by
  unfold addendWrite
  dsimp only
  repeat' (first | with_reducible assumption | with_reducible apply DxWaits.ite | with_reducible apply dxWaits_setFld
                   | with_reducible apply dxWaits_setPti | with_reducible apply dxWaits_setAddend)

theorem dxWaits_setVid {n : Nat} : DxWaits s0 (State.setVid s n) := by
  unfold State.setVid
  repeat' (first | with_reducible assumption | with_reducible apply dxWaits_setFld
                   | with_reducible refine DxWaits.lit ?_)

theorem dxWaits_avsHold {code : Nat} : DxWaits s0 (State.avsHold s code) := by
  unfold State.avsHold
  dsimp only
  repeat' (first | with_reducible assumption | with_reducible apply DxWaits.ite | with_reducible apply dxWaits_setFld
                   | with_reducible apply dxWaits_setVid)

theorem dxWaits_avsFollow : DxWaits s0 (State.avsFollow s) := by
  unfold State.avsFollow
  repeat' (first | with_reducible assumption | with_reducible apply DxWaits.ite | with_reducible apply dxWaits_setVid
                   | with_reducible apply dxWaits_avsHold)

theorem dxWaits_budgetWrite {k n : Nat} : DxWaits s0 (budgetWrite s k n) := by
  unfold budgetWrite
  dsimp only
  repeat' (first | with_reducible assumption | with_reducible apply DxWaits.ite | with_reducible apply dxWaits_setFld)

theorem dxWaits_clearRun {v base item n lo : Nat} {sat : Option Fld} : DxWaits s0 (clearRun s v base item n lo sat) := by
  unfold clearRun
  dsimp only
  repeat' (first | with_reducible assumption | with_reducible apply DxWaits.ite | with_reducible apply DxWaits.foldl
                   | with_reducible apply dxWaits_wr | with_reducible apply dxWaits_setFld | intro _ _ _ | split)

theorem dxWaits_laneClear {n : Nat} : DxWaits s0 (laneClear s n) := by
  unfold laneClear
  repeat' (first | with_reducible assumption | with_reducible apply dxWaits_setFlds
                   | with_reducible apply dxWaits_laneSettle)

theorem dxWaits_resetRun {base item n : Nat} : DxWaits s0 (resetRun s base item n) := by
  unfold resetRun
  repeat' (first | with_reducible assumption | with_reducible apply DxWaits.foldl | with_reducible apply dxWaits_wr
                   | intro _ _ _)

theorem dxWaits_cntClear {init off item v : Nat} : DxWaits s0 (cntClear s init off item v) := by
  unfold cntClear
  dsimp only
  repeat' (first | with_reducible assumption | with_reducible apply DxWaits.ite | with_reducible apply DxWaits.foldl
                   | with_reducible apply dxWaits_setFld | with_reducible apply dxWaits_setFlds
                   | with_reducible apply dxWaits_clearRun | with_reducible apply dxWaits_laneClear
                   | with_reducible apply dxWaits_resetRun | intro _ _ _)

theorem dxWaits_crcCommit {v : Word} : DxWaits s0 (crcCommit s v) := by
  unfold crcCommit
  repeat' (first | with_reducible assumption | with_reducible apply dxWaits_wr | with_reducible apply dxWaits_setFlds
                   | with_reducible refine DxWaits.lit ?_)

theorem dxWaits_flushStart {q : Nat} : DxWaits s0 (flushStart s q) := by
  unfold flushStart
  dsimp only
  repeat' (first | with_reducible assumption | with_reducible apply DxWaits.ite | with_reducible apply dxWaits_setFlds
                   | with_reducible apply dxWaits_galDiscard | with_reducible apply dxWaits_galRefresh
                   | with_reducible refine DxWaits.lit ?_)

theorem dxWaits_holdAt {old : State} {key : Nat} : DxWaits s0 (holdAt old s key) := by
  unfold holdAt
  repeat' (first | with_reducible assumption | with_reducible apply DxWaits.ite | with_reducible apply dxWaits_crcHold
                   | split)

theorem dxWaits_hrAck {i v : Nat} : DxWaits s0 (hrAck s i v) := by
  unfold hrAck
  dsimp only
  repeat' (first | with_reducible assumption | with_reducible apply DxWaits.ite | with_reducible apply dxWaits_setFld
                   | with_reducible apply dxWaits_setGq | with_reducible apply dxWaits_galRefresh
                   | with_reducible apply dxWaits_setHst | with_reducible apply dxWaits_galFreeFirst)

theorem dxWaits_htProd {i v : Nat} : DxWaits s0 (htProd s i v) := by
  unfold htProd
  repeat' (first | with_reducible assumption | with_reducible apply DxWaits.ite | with_reducible apply dxWaits_setFld
                   | with_reducible apply dxWaits_htStart)

theorem dxWaits_injectWrite {v : Word} : DxWaits s0 (injectWrite s v) := by
  unfold injectWrite
  dsimp only
  repeat' (first | with_reducible assumption | with_reducible apply DxWaits.ite | with_reducible apply dxWaits_setFld
                   | with_reducible apply dxWaits_setFlds)

theorem dxWaits_msixIfRose {before : Bool} : DxWaits s0 (msixIfRose before s) := by
  unfold msixIfRose
  repeat' (first | with_reducible assumption | with_reducible apply DxWaits.ite | with_reducible refine DxWaits.lit ?_)

theorem dxWaits_setTgt {m : Bool} {t : IrqTarget} : DxWaits s0 (State.setTgt s m t) := by
  unfold State.setTgt
  repeat' (first | with_reducible assumption | with_reducible apply DxWaits.ite | with_reducible refine DxWaits.lit ?_)

theorem dxWaits_closeGroups {m : Bool} : DxWaits s0 (closeGroups s m) := by
  unfold closeGroups
  dsimp only
  repeat' (first | with_reducible assumption | with_reducible apply DxWaits.ite | with_reducible apply dxWaits_setTgt)

theorem dxWaits_pendClear {m : Bool} {n : Nat} : DxWaits s0 (pendClear s m n) := by
  unfold pendClear
  dsimp only
  repeat' (first | with_reducible assumption | with_reducible apply DxWaits.ite | with_reducible apply dxWaits_setTgt
                   | with_reducible apply dxWaits_closeGroups)

theorem dxWaits_irqAck {m : Bool} {n : Nat} : DxWaits s0 (irqAck s m n) := by
  unfold irqAck
  dsimp only
  repeat' (first | with_reducible assumption | with_reducible apply DxWaits.ite | with_reducible apply dxWaits_setFld
                   | with_reducible apply dxWaits_setFlds | with_reducible apply dxWaits_msixIfRose
                   | with_reducible apply dxWaits_setTgt | with_reducible apply dxWaits_pendClear)

theorem dxWaits_modPendSet {m : Bool} {g : Nat} : DxWaits s0 (modPendSet s m g) := by
  unfold modPendSet
  dsimp only
  repeat' (first | with_reducible assumption | with_reducible apply DxWaits.ite | with_reducible apply dxWaits_setTgt)

theorem dxWaits_pendSet {m : Bool} {n : Nat} : DxWaits s0 (pendSet s m n) := by
  unfold pendSet
  dsimp only
  repeat' (first | with_reducible assumption | with_reducible apply DxWaits.ite | with_reducible apply dxWaits_setTgt
                   | with_reducible apply dxWaits_modPendSet)

theorem dxWaits_levelFollow {m : Bool} {n : Nat} {active : Bool} : DxWaits s0 (levelFollow s m n active) := by
  unfold levelFollow
  repeat' (first | with_reducible assumption | with_reducible apply DxWaits.ite
                   | with_reducible apply dxWaits_pendClear | with_reducible apply dxWaits_pendSet)

theorem dxWaits_irqResettle {n : Nat} {oldSense : Nat} : DxWaits s0 (irqResettle s n oldSense) := by
  unfold irqResettle
  dsimp only
  repeat' (first | with_reducible assumption | with_reducible apply DxWaits.ite
                   | with_reducible apply dxWaits_pendClear | with_reducible apply dxWaits_levelFollow)

theorem dxWaits_irqCfgWrite {mcu : Bool} {n : Nat} {v : Word} : DxWaits s0 (irqCfgWrite s mcu n v) := by
  unfold irqCfgWrite
  dsimp only
  repeat' (first | with_reducible assumption | with_reducible apply DxWaits.ite | with_reducible apply dxWaits_setFld
                   | with_reducible apply dxWaits_setFlds | with_reducible apply dxWaits_msixIfRose
                   | with_reducible apply dxWaits_irqResettle)

theorem dxWaits_releaseHeld {m : Bool} : DxWaits s0 (releaseHeld s m) := by
  unfold releaseHeld
  dsimp only
  repeat' (first | with_reducible assumption | with_reducible apply dxWaits_setTgt
                   | with_reducible apply dxWaits_closeGroups)

theorem dxWaits_stackFault {m : Bool} {expected : Option Nat} {named : Nat} :
    DxWaits s0 (stackFault s m expected named) := by
  unfold stackFault
  dsimp only
  repeat' (first | with_reducible assumption | with_reducible apply DxWaits.ite | with_reducible apply dxWaits_setFld
                   | with_reducible apply dxWaits_setFlds | with_reducible apply dxWaits_pendSet)

theorem dxWaits_irqEoi {m : Bool} {n : Nat} : DxWaits s0 (irqEoi s m n) := by
  unfold irqEoi
  dsimp only
  repeat' (first | with_reducible assumption | with_reducible apply DxWaits.ite | with_reducible apply dxWaits_count
                   | with_reducible apply dxWaits_msixIfRose | with_reducible apply dxWaits_setTgt
                   | with_reducible apply dxWaits_releaseHeld | with_reducible apply dxWaits_stackFault | split
                   | with_reducible refine DxWaits.lit ?_)

theorem dxWaits_irqMaskWrite {m set : Bool} {k : Nat} {v : Word} : DxWaits s0 (irqMaskWrite s m set k v) := by
  unfold irqMaskWrite
  dsimp only
  repeat' (first | with_reducible assumption | with_reducible apply DxWaits.ite
                   | with_reducible apply dxWaits_msixIfRose | with_reducible apply dxWaits_setTgt)

theorem dxWaits_irqPendWrite {m set : Bool} {k : Nat} {v : Word} : DxWaits s0 (irqPendWrite s m set k v) := by
  unfold irqPendWrite
  dsimp only
  repeat' (first | with_reducible assumption | with_reducible apply DxWaits.ite | with_reducible apply DxWaits.foldl
                   | with_reducible apply dxWaits_msixIfRose | with_reducible apply dxWaits_pendClear
                   | with_reducible apply dxWaits_pendSet | intro _ _ _)

theorem dxWaits_irqWrite {init off : Nat} {v : Word} : DxWaits s0 (irqWrite s init off v) := by
  unfold irqWrite
  dsimp only
  repeat' (first | with_reducible assumption | with_reducible apply DxWaits.ite | with_reducible apply dxWaits_wr
                   | with_reducible apply dxWaits_setFld | with_reducible apply dxWaits_holdAt
                   | with_reducible apply dxWaits_msixIfRose | with_reducible apply dxWaits_irqAck
                   | with_reducible apply dxWaits_irqCfgWrite | with_reducible apply dxWaits_releaseHeld
                   | with_reducible apply dxWaits_irqEoi | with_reducible apply dxWaits_irqMaskWrite
                   | with_reducible apply dxWaits_irqPendWrite | split)

theorem dxWaits_setMbx {f : Mbx → Mbx} : DxWaits s0 (State.setMbx s f) := ⟨hs.waiting⟩

theorem dxWaits_loadCtlWrite {init : Nat} {v : Nat} : DxWaits s0 (loadCtlWrite s init v) := by
  unfold loadCtlWrite
  dsimp only
  repeat' (first | with_reducible assumption | with_reducible apply DxWaits.ite | with_reducible apply dxWaits_setFld
                   | with_reducible apply dxWaits_setFlds | with_reducible apply dxWaits_setMbx)

theorem dxWaits_reqDb {init v : Nat} : DxWaits s0 (reqDb s init v) := by
  unfold reqDb
  dsimp only
  repeat' (first | with_reducible assumption | with_reducible apply DxWaits.ite | with_reducible apply dxWaits_setFld
                   | with_reducible apply dxWaits_count)

theorem dxWaits_ringCtlWrite {en : Bool} : DxWaits s0 (ringCtlWrite s en) := by
  unfold ringCtlWrite
  dsimp only
  repeat' (first | with_reducible assumption | with_reducible apply DxWaits.ite | with_reducible apply dxWaits_setFld
                   | with_reducible apply dxWaits_setFlds | with_reducible apply dxWaits_setEvtq
                   | with_reducible apply dxWaits_setMbx | split | with_reducible refine DxWaits.lit ?_)

theorem dxWaits_rspDb {init v : Nat} : DxWaits s0 (rspDb s init v) := by
  unfold rspDb
  dsimp only
  repeat' (first | with_reducible assumption | with_reducible apply DxWaits.ite | with_reducible apply dxWaits_setFld
                   | with_reducible apply dxWaits_count)

theorem dxWaits_mbxRegWrite {init off : Nat} {v : Word} : DxWaits s0 (mbxRegWrite s init off v) := by
  unfold mbxRegWrite
  dsimp only
  repeat' (first | with_reducible assumption | with_reducible apply DxWaits.ite | with_reducible apply dxWaits_wr
                   | with_reducible apply dxWaits_setFld | with_reducible apply dxWaits_holdAt
                   | with_reducible apply dxWaits_loadCtlWrite | with_reducible apply dxWaits_reqDb
                   | with_reducible apply dxWaits_ringCtlWrite | with_reducible apply dxWaits_rspDb)

theorem dxWaits_enterRecovery {reason : Nat} : DxWaits s0 (State.enterRecovery s reason) := dxWaits_setFlds hs

theorem dxWaits_enterService : DxWaits s0 (State.enterService s) := by
  unfold State.enterService
  dsimp only
  repeat' (first | with_reducible assumption | with_reducible apply dxWaits_setFld
                   | with_reducible apply dxWaits_setFlds)

theorem dxWaits_setSide {init : Nat} {f : BusSide → BusSide} : DxWaits s0 (State.setSide s init f) := ⟨hs.waiting⟩

theorem dxWaits_logViol {init addr cause : Nat} : DxWaits s0 (logViol s init addr cause) := by
  unfold logViol
  repeat' (first | with_reducible assumption | with_reducible apply dxWaits_count
                   | with_reducible apply dxWaits_latchOnce | with_reducible apply dxWaits_setSide)

theorem dxWaits_phaseWrite {init new : Nat} : DxWaits s0 (phaseWrite s init new).1 := by
  unfold phaseWrite
  dsimp only
  repeat' (first | with_reducible assumption | with_reducible apply DxWaits.iteFst | with_reducible apply DxWaits.ite
                   | with_reducible apply dxWaits_setFld | with_reducible apply dxWaits_enterRecovery
                   | with_reducible apply dxWaits_enterService | with_reducible apply dxWaits_logViol)

theorem dxWaits_plCfgWrite {k : Nat} {v : Word} : DxWaits s0 (plCfgWrite s k v) := by
  unfold plCfgWrite
  dsimp only
  repeat' (first | with_reducible assumption | with_reducible apply DxWaits.ite | with_reducible apply dxWaits_wr
                   | with_reducible apply dxWaits_setFld | with_reducible apply dxWaits_setPl)

theorem dxWaits_plTimeWrite {k key : Nat} {v : Word} : DxWaits s0 (plTimeWrite s k key v) := by
  unfold plTimeWrite
  dsimp only
  repeat' (first | with_reducible assumption | with_reducible apply dxWaits_wr | with_reducible apply dxWaits_setFld
                   | with_reducible apply dxWaits_setPl)

theorem dxWaits_plainPut {off item : Nat} {r : RegRow} {v : Word} : DxWaits s0 (plainPut s off item r v) := by
  unfold plainPut
  dsimp only
  repeat' (first | with_reducible assumption | with_reducible apply DxWaits.ite | with_reducible apply dxWaits_wr
                   | with_reducible apply dxWaits_wrSh | with_reducible apply dxWaits_holdAt)

theorem dxWaits_qCapWrite {q n : Nat} : DxWaits s0 (qCapWrite s q n) := by
  unfold qCapWrite
  repeat' (first | with_reducible assumption | with_reducible apply DxWaits.ite | with_reducible apply dxWaits_setFld)

theorem dxWaits_qCfgWrite {q : Nat} {be : Bool} {half : Nat} : DxWaits s0 (qCfgWrite s q be half) := by
  unfold qCfgWrite
  dsimp only
  repeat' (first | with_reducible assumption | with_reducible apply DxWaits.ite | with_reducible apply dxWaits_setFld
                   | with_reducible apply dxWaits_setFlag | with_reducible apply dxWaits_galRefresh)

theorem dxWaits_qResWrite {q n : Nat} : DxWaits s0 (qResWrite s q n) := by
  unfold qResWrite
  dsimp only
  repeat' (first | with_reducible assumption | with_reducible apply DxWaits.ite | with_reducible apply dxWaits_setFld
                   | with_reducible apply dxWaits_setFlds | with_reducible apply dxWaits_galRefresh)

theorem dxWaits_regPut {init off item : Nat} {v : Word} : DxWaits s0 (regPut s init off item v).1 := by
  unfold regPut
  dsimp only
  split
  · with_reducible
      exact .iteFst (.ite (dxWaits_setDx hs) hs) (.iteFst hs.lit (.iteFst hs.lit (.iteFst hs.lit (.iteFst hs.lit hs))))
  · with_reducible
      refine .iteFst (dxWaits_cntClear hs) (.iteFst (dxWaits_phaseWrite hs) (.iteFst ?_
      (.iteFst (.iteFst hs (dxWaits_irqWrite hs)) (.iteFst (dxWaits_mbxRegWrite hs) ?_))))
    · with_reducible
        exact .iteFst (dxWaits_strobe hs) <| .iteFst (dxWaits_setFld hs) <| .iteFst (dxWaits_setFld hs) <|
        .iteFst (dxWaits_crcCommit hs) <| .iteFst (.iteFst (dxWaits_wr hs) hs) <| .iteFst (dxWaits_plainPut hs) <| .iteFst hs hs
    · split
      · exact dxWaits_raise hs
      · with_reducible
          exact .iteFst (dxWaits_addendWrite hs) <| .iteFst (dxWaits_addendWrite hs) <|
          .iteFst (.iteFst (dxWaits_holdAt (dxWaits_plCfgWrite hs)) <| .iteFst (dxWaits_plTimeWrite hs) (dxWaits_plainPut hs)) <|
          .iteFst (dxWaits_follow (dxWaits_cmdWrite hs)) <| .iteFst (dxWaits_holdAt (dxWaits_budgetWrite hs)) <|
          .iteFst (dxWaits_holdAt (dxWaits_qCfgWrite hs)) <| .iteFst (dxWaits_holdAt (dxWaits_qResWrite hs)) <|
          .iteFst (dxWaits_holdAt (dxWaits_qCapWrite hs)) <| .iteFst (.ite (dxWaits_flushStart hs) hs) <|
          .iteFst (dxWaits_avsFollow (dxWaits_plainPut hs)) <| .iteFst (dxWaits_galRefresh (dxWaits_plainPut hs)) <|
          .iteFst (dxWaits_injectWrite hs) <| .iteFst (dxWaits_hrAck hs) <| .iteFst (dxWaits_htProd hs) <|
          .iteFst (.iteFst (.ite (dxWaits_setFld (.ite (dxWaits_setFld hs) hs)) (.ite (dxWaits_setFld hs) hs)) hs) (dxWaits_plainPut hs)

theorem dxWaits_fwWrite {key : Nat} {v : Word} : DxWaits s0 (fwWrite s key v) := dxWaits_regPut hs

theorem dxWaits_fwWrites {l : List (Nat × Word)} : DxWaits s0 (fwWrites s l) := by
  induction l generalizing s with
  | nil => exact hs
  | cons p l ih => exact ih (dxWaits_fwWrite hs)

theorem dxWaits_dxDir1 {d : Nat × Bool} : DxWaits s0 (dxDir1 s d) := by
  unfold dxDir1
  dsimp only
  repeat' (first | with_reducible assumption | with_reducible apply DxWaits.ite
                   | with_reducible apply dxWaits_applyGroup | with_reducible apply dxWaits_cmdWrite
                   | with_reducible apply dxWaits_strobe | with_reducible apply dxWaits_fwWrites)

theorem dxWaits_dxFailed {i : Nat} : DxWaits s0 (dxFailed s i) := ⟨hs.waiting⟩

theorem dxWaits_setKey {i w : Nat} {v : Word} : DxWaits s0 (State.setKey s i w v) := ⟨hs.waiting⟩

theorem dxWaits_keyWrite {i w : Nat} {v : Word} : DxWaits s0 (keyWrite s i w v) := by
  unfold keyWrite
  dsimp only
  repeat' (first | with_reducible assumption | with_reducible apply DxWaits.ite | with_reducible apply dxWaits_setFld
                   | with_reducible apply dxWaits_latchOnce | with_reducible apply dxWaits_setKey)

theorem dxWaits_dropKey {i : Nat} : DxWaits s0 (dropKey s i) := dxWaits_keyWrite hs

theorem dxWaits_dropPathKeys {f port : Nat} : DxWaits s0 (dropPathKeys s f port) := by
  unfold dropPathKeys
  repeat' (first | with_reducible assumption | with_reducible apply DxWaits.foldl
                   | with_reducible apply dxWaits_dropKey | intro _ _ _)

theorem dxWaits_dxRxStop {f : Nat} : DxWaits s0 (dxRxStop s f) :=
  ⟨(dxWaits_dropPathKeys (dxWaits_qResWrite (dxWaits_applyGroup (dxWaits_strobe (dxWaits_fwWrite hs))))).waiting⟩

theorem dxWaits_dxTxStop {f : Nat} : DxWaits s0 (dxTxStop s f) := by
  unfold dxTxStop
  dsimp only
  repeat' (first | with_reducible assumption | with_reducible apply dxWaits_applyGroup
                   | with_reducible apply dxWaits_strobe | with_reducible apply dxWaits_qResWrite
                   | with_reducible apply dxWaits_fwWrite)

theorem dxWaits_putKey {i : Nat} {ws : List Word} : DxWaits s0 (putKey s i ws) := by
  unfold putKey
  repeat' (first | with_reducible assumption | with_reducible apply DxWaits.foldl
                   | with_reducible apply dxWaits_keyWrite | intro _ _ _)

omit hs in
theorem dxWaits_freeKey {n i : Nat} {s t : State} (hs : DxWaits s0 s) (ht : freeKey n s i = some t) : DxWaits s0 t := by
  induction n generalizing s t i with
  | zero => cases ht
  | succ n ih =>
    unfold freeKey at ht
    dsimp only at ht
    split at ht
    · cases ht
      exact dxWaits_putKey (dxWaits_dropKey hs)
    · obtain ⟨j, -, hj⟩ := List.exists_of_findSome?_eq_some ht
      obtain ⟨u, hu, h⟩ := Option.bind_eq_some_iff.mp hj
      split at h
      · cases h
        exact dxWaits_putKey (dxWaits_dropKey (ih hs hu))
      · cases h

omit hs in
theorem dxWaits_placeKey {ws : List Word} {s t : State} (hs :
    DxWaits s0 s) (ht : placeKey s ws = some t) : DxWaits s0 t := by
  unfold placeKey at ht
  dsimp only at ht
  split at ht
  · cases ht
    exact dxWaits_putKey hs
  · split at ht
    next u hu =>
      obtain ⟨j, -, hj⟩ := List.exists_of_findSome?_eq_some hu
      obtain ⟨v, hv, h⟩ := Option.bind_eq_some_iff.mp hj
      cases ht
      split at h
      · cases h
        exact dxWaits_putKey (dxWaits_freeKey hs hv)
      · cases h
    next =>
      obtain ⟨i, -, hi⟩ := Option.map_eq_some_iff.mp ht
      rw [← hi]
      exact dxWaits_putKey hs

omit hs in
theorem dxWaits_reserve {q n : Nat} {s t : State} (hs : DxWaits s0 s) (ht : reserve s q n = some t) : DxWaits s0 t := by
  unfold reserve at ht
  dsimp only at ht
  obtain ⟨-, e⟩ := Option.ite_none_right_eq_some.mp ht
  cases e
  exact dxWaits_qResWrite (DxWaits.ite (dxWaits_qCapWrite hs) hs)

omit hs in
theorem dxWaits_dxRxCreate {f : Nat} {s t : State} (hs : DxWaits s0 s) (ht : dxRxCreate s f = some t) : DxWaits s0 t := by
  unfold dxRxCreate at ht
  dsimp only at ht
  obtain ⟨u, hu, h⟩ := Option.bind_eq_some_iff.mp ht
  obtain ⟨v, hv, h⟩ := Option.bind_eq_some_iff.mp h
  split at h
  · cases h
  · cases h
    exact dxWaits_emit (dxWaits_applyGroup (dxWaits_strobe (dxWaits_fwWrite (dxWaits_fwWrites
      (dxWaits_placeKey (dxWaits_reserve (dxWaits_qCfgWrite hs) hu) hv)))))

omit hs in
theorem dxWaits_dxTxCreate {f : Nat} {s t : State} (hs : DxWaits s0 s) (ht : dxTxCreate s f = some t) : DxWaits s0 t := by
  unfold dxTxCreate at ht
  dsimp only at ht
  split at ht
  · cases ht
  · split at ht
    · cases ht
    next u hu =>
      split at ht
      · cases ht
      · cases ht
        exact dxWaits_applyGroup (dxWaits_strobe (dxWaits_fwWrite (dxWaits_fwWrites (dxWaits_qCapWrite
          (dxWaits_reserve (dxWaits_qCfgWrite (DxWaits.lit hs)) hu)))))

omit hs in
theorem dxWaits_dxCreate {rx : Bool} {f : Nat} {s t : State} (hs : DxWaits s0 s)
    (ht : (if rx = true then dxRxCreate s f else dxTxCreate s f) = some t) : DxWaits s0 t := by
  cases rx with
  | true => exact dxWaits_dxRxCreate hs ht
  | false => exact dxWaits_dxTxCreate hs ht

theorem dxWaits_dxFlow1 {i : Nat} : DxWaits s0 (dxFlow1 s i) := by
  unfold dxFlow1
  dsimp only
  generalize decide (i < 8) = rx
  generalize i % 8 = f
  have hstop : DxWaits s0 (if rx = true then dxRxStop s f else dxTxStop s f) :=
    DxWaits.ite (dxWaits_dxRxStop hs) (dxWaits_dxTxStop hs)
  refine DxWaits.ite (DxWaits.ite hstop hs) (DxWaits.ite hs ?_)
  split
  next t ht => exact dxWaits_dxCreate (DxWaits.ite hstop hs) ht
  next => exact dxWaits_dxFailed hs

theorem dxWaits_dxMcsApply : DxWaits s0 (dxMcsApply s) := by
  unfold dxMcsApply
  dsimp only
  repeat' (first | with_reducible assumption | with_reducible apply DxWaits.ite | with_reducible apply dxWaits_strobe
                   | with_reducible apply dxWaits_fwWrite)

theorem dxWaits_dxPortApply : DxWaits s0 (dxPortApply s) := by
  unfold dxPortApply
  dsimp only
  repeat' (first | with_reducible assumption | with_reducible apply DxWaits.ite
                   | with_reducible apply dxWaits_applyGroup | with_reducible apply dxWaits_strobe
                   | with_reducible apply dxWaits_fwWrite)

theorem dxWaits_dxPtiApply : DxWaits s0 (dxPtiApply s) := by
  unfold dxPtiApply
  dsimp only
  repeat' (first | with_reducible assumption | with_reducible apply DxWaits.ite | with_reducible apply dxWaits_strobe
                   | with_reducible apply dxWaits_fwWrite)

theorem dxWaits_impWrite {d : Nat} {v : Word} : DxWaits s0 (impWrite s d v) := by
  unfold impWrite
  dsimp only
  repeat' (first | with_reducible assumption | with_reducible apply DxWaits.ite | with_reducible apply dxWaits_setFld
                   | with_reducible apply dxWaits_countSat | with_reducible apply dxWaits_latchOnce
                   | with_reducible apply dxWaits_setImp | split)

theorem dxWaits_dxRoutes : DxWaits s0 (dxRoutes s) := by
  unfold dxRoutes
  dsimp only
  repeat' (first | with_reducible assumption | with_reducible apply DxWaits.ite | with_reducible apply DxWaits.foldl
                   | with_reducible apply dxWaits_strobe | with_reducible apply dxWaits_impWrite | intro _ _ _)

theorem dxWaits_firePlaten {k pti raw acts : Nat} : DxWaits s0 (firePlaten s k pti raw acts) := by
  unfold firePlaten
  dsimp only
  repeat' (first | with_reducible assumption | with_reducible apply dxWaits_setFlds
                   | with_reducible apply dxWaits_setPlFire | with_reducible apply dxWaits_plCfgWrite)

theorem dxWaits_dxTdmStart : DxWaits s0 (dxTdmStart s) := by
  unfold dxTdmStart
  dsimp only
  repeat' (first | with_reducible assumption | with_reducible apply DxWaits.ite | with_reducible apply DxWaits.foldl
                   | with_reducible apply dxWaits_count | with_reducible apply dxWaits_cmdWrite
                   | with_reducible apply dxWaits_dxFailed | with_reducible apply dxWaits_firePlaten | intro _ _ _
                   | split)

end

end Sys2Proof.Machine
end

section
/-! The refresh of the DX window and its soft reset (R452 to R456). -/

namespace Sys2Proof.Machine

/-! ### What firmware applies -/

/-- The DX record firmware starts from: what the host has written again may be tried again, and RUN's time is noted. -/
def dxBegun (s : State) : State :=
  let run := dxRun s
  let again (i : Nat) : Bool := s.dx.dirty.any fun a =>
    a == 0x010 || (if i < 8 then decide (rxCell i 0 ≤ a) && decide (a ≤ rxCell i 4)
      else if i < 16 then decide (txCell (i - 8) 0 ≤ a) && decide (a ≤ txCell (i - 8) 4) else a == 0x040 || a == 0x060)
  s.setDxr fun d => { d with
    failed := d.failed.filter fun i => !again i
    runAt := if !run then none else if d.runAt.isSome then d.runAt else some d.count }

/-- The state in which firmware has followed every cell. -/
def dxFollowed (s : State) : State :=
  dxRoutes (dxTdmStart (dxDirs.foldl dxDir1 ((List.range 16).foldl dxFlow1 (dxMcsApply (dxPtiApply (dxPortApply (dxBegun s)))))))

theorem dxApply_eq (s : State) : dxApply s = (dxFollowed s).setDxr fun d => { d with dirty := [] } := rfl

theorem dxWaits_dxBegun {s0 s : State} (hs : DxWaits s0 s) : DxWaits s0 (dxBegun s) := ⟨hs.waiting⟩

theorem dxWaits_dxFollowed {s0 s : State} (hs : DxWaits s0 s) : DxWaits s0 (dxFollowed s) :=
  dxWaits_dxRoutes (dxWaits_dxTdmStart (DxWaits.foldl (fun _ _ h => dxWaits_dxDir1 h) (DxWaits.foldl (fun _ _ h => dxWaits_dxFlow1 h)
    (dxWaits_dxMcsApply (dxWaits_dxPtiApply (dxWaits_dxPortApply (dxWaits_dxBegun hs)))))))

theorem dxApply_waiting (s : State) : (dxApply s).dx.waiting = s.dx.waiting := (dxWaits_dxFollowed (.refl s)).waiting

theorem dxApply_dirty (s : State) : (dxApply s).dx.dirty = [] := rfl

/-! ### The snapshot -/

/-- From `s` to `t` only the cells, the counters' bases, the events held back and the generation shown change. -/
def DxShows (s t : State) : Prop :=
  ∃ cells base events gen, t = { s with dx := { s.dx with cells := cells, base := base, events := events, gen := gen } }

namespace DxShows

theorem refl (s : State) : DxShows s s := ⟨_, _, _, _, rfl⟩

theorem trans {s t u : State} (h : DxShows s t) (k : DxShows t u) : DxShows s u := by
  obtain ⟨_, _, _, _, rfl⟩ := h
  obtain ⟨c, b, e, g, rfl⟩ := k
  exact ⟨c, b, e, g, rfl⟩

theorem setDx (s : State) (a v : Nat) : DxShows s (s.setDx a v) := ⟨_, _, _, _, rfl⟩

theorem foldl {α : Type} {s : State} {g : State → α → State} {l : List α} (hg : ∀ u a, DxShows u (g u a)) : DxShows s (l.foldl g s) := by
  induction l generalizing s with
  | nil => exact .refl s
  | cons a l ih => exact (hg s a).trans ih

variable {s t : State} (h : DxShows s t)
include h

theorem waiting : t.dx.waiting = s.dx.waiting := by obtain ⟨_, _, _, _, rfl⟩ := h; rfl

theorem dirty : t.dx.dirty = s.dx.dirty := by obtain ⟨_, _, _, _, rfl⟩ := h; rfl

theorem dxLock : dxLock t = dxLock s := by obtain ⟨_, _, _, _, rfl⟩ := h; rfl

theorem fld (f : Fld) : t.fld f = s.fld f := by obtain ⟨_, _, _, _, rfl⟩ := h; rfl

end DxShows

/-- The times of the first Announce and of the flows' first packets are noted. -/
def dxSeen (s : State) : State := s.setDxr fun d => { d with
  annAt := if d.annAt.isSome then d.annAt else if (s.pti s.dx.pti).gmData.isEmpty then none else some d.count
  pktAt := (List.range 8).foldl (fun m f =>
    if (s.flow f).pkts.foldl max 0 = 0 ∨ sGet (fun _ => 0) m f ≠ 0 then m else sPut (fun _ => 0) m f (d.count + 1)) d.pktAt }

/-- One counter cell takes what its native count has advanced by. -/
def dxTake (t : State) (x : Nat × Nat × Nat) : State :=
  (t.setDx x.1 (min 65535 (t.dxCell x.1 + x.2.1))).setDxr fun d => { d with base := sPut (fun _ => 0) d.base x.1 x.2.2 }

/-- The counter cells after those that show a state. -/
def dxCounted (s t : State) : State := ((dxCounts s).map fun x => (x.1, dxAdvance s x)).foldl dxTake t

/-- Directions that lost their clock count once more. -/
def dxSlipped (lost : List Nat) (t : State) : State :=
  [0, 1].foldl (fun t p => t.setDx (tdmCell p 2) (min 65535 (t.dxCell (tdmCell p 2) + lost.getD p 0))) t

/-- The cells of a snapshot of `s`. -/
def dxShown (s : State) : State :=
  dxSlipped ([0, 1].map (dxClockLost s)) (dxCounted s ((dxStates s).foldl (fun t x => t.setDx x.1 x.2) s))

/-- The events held back go, and the generation shown is noted. -/
def dxClosed (s : State) : State := s.setDxr fun d => { d with events := 0, gen := liveGen s }

theorem dxClosed_gen (s : State) : (dxClosed s).dx.gen = (dxClosed s).fld R.FRM.GEN.GEN_F := rfl

theorem dxCell_dxClosed (s : State) (a : Nat) : (dxClosed s).dxCell a = s.dxCell a := rfl

/-- A snapshot before its bits are raised. -/
def dxSnapped (s : State) : State := dxClosed (dxShown (dxSeen s))

theorem dxSnapshot_eq (s : State) : dxSnapshot s = dxRaise (dxSnapped s) (dxEvents (dxSeen s) (dxShown (dxSeen s)) ||| (dxSeen s).dx.events) := rfl

theorem dxTake_shows (t : State) (x : Nat × Nat × Nat) : DxShows t (dxTake t x) := ⟨_, _, _, _, rfl⟩

theorem dxShown_shows (s : State) : DxShows s (dxShown s) :=
  ((DxShows.foldl fun _ _ => .setDx ..).trans (.foldl dxTake_shows)).trans (.foldl fun _ _ => .setDx ..)

/-- Writes to other cells leave a cell. -/
theorem dxCell_foldl_ne {α : Type} {g : State → α → State} {key : α → Nat} {a : Nat}
    (hg : ∀ u x, key x ≠ a → (g u x).dxCell a = u.dxCell a) {l : List α} (hl : a ∉ l.map key) (s : State) :
    (l.foldl g s).dxCell a = s.dxCell a := by
  induction l generalizing s with
  | nil => rfl
  | cons x l ih =>
    obtain ⟨hx, hl⟩ := not_or.mp (List.mem_cons.not.mp hl)
    exact (ih hl _).trans (hg s x (Ne.symm hx))

theorem dxCell_putAll_ne {l : List (Nat × Nat)} {a : Nat} (hl : a ∉ l.map Prod.fst) (s : State) :
    (l.foldl (fun t x => t.setDx x.1 x.2) s).dxCell a = s.dxCell a :=
  dxCell_foldl_ne (fun u x hx => dxCell_setDx_ne u x.2 hx.symm) hl s

theorem dxCell_putAll {pre post : List (Nat × Nat)} {a v : Nat} (hl : a ∉ post.map Prod.fst) (s : State) :
    ((pre ++ (a, v) :: post).foldl (fun t x => t.setDx x.1 x.2) s).dxCell a = v % 65536 := by
  rw [List.foldl_append, List.foldl_cons, dxCell_putAll_ne hl, dxCell_setDx_self]

/-- Addresses of the counter cells. -/
def dxCountCells : List Nat :=
  [0x042, 0x062] ++ (List.range 8).flatMap fun f => [rxCell f 6, rxCell f 7, txCell f 6]

theorem dxCounts_cells (s : State) : (dxCounts s).map Prod.fst = dxCountCells := rfl

theorem dxCell_dxCounted {a : Nat} (ha : a ∉ dxCountCells) (s t : State) : (dxCounted s t).dxCell a = t.dxCell a := by
  refine dxCell_foldl_ne (key := Prod.fst) (fun u x hx => ?_) ?_ t
  · exact dxCell_setDx_ne u _ hx.symm
  · rw [List.map_map]
    exact dxCounts_cells s ▸ ha

theorem dxCell_dxShown {a : Nat} (ha : a ∉ dxCountCells) (s : State) :
    (dxShown s).dxCell a = ((dxStates s).foldl (fun t x => t.setDx x.1 x.2) s).dxCell a := by
  have h42 : a ≠ 0x042 := fun e => ha (e ▸ by decide)
  have h62 : a ≠ 0x062 := fun e => ha (e ▸ by decide)
  refine Eq.trans ?_ (dxCell_dxCounted ha s _)
  exact (dxCell_setDx_ne _ _ h62).trans (dxCell_setDx_ne _ _ h42)

theorem dxLock_lt (s : State) : dxLock s < 4 := by
  unfold dxLock
  dsimp only
  repeat' split
  all_goals omega

/-- Addresses of the cells that show a state. -/
def dxStateCells : List Nat :=
  (List.range 7).map (0x030 + ·) ++ [0x041, 0x061] ++ (List.range 8).map (rxCell · 5) ++ (List.range 8).map (txCell · 5)

theorem dxStates_cells (s : State) : (dxStates s).map Prod.fst = dxStateCells := rfl

/-- The cell at place `i` of a snapshot's states, which no later one of them writes again. -/
theorem dxCell_dxShown_at {i a v : Nat} {s : State} (hi : dxStates s = (dxStates s).take i ++ (a, v) :: (dxStates s).drop (i + 1))
    (hc : a ∉ dxCountCells) (hs : a ∉ dxStateCells.drop (i + 1)) : (dxShown s).dxCell a = v % 65536 := by
  rw [dxCell_dxShown hc, hi]
  refine dxCell_putAll ?_ s
  rw [List.map_drop, dxStates_cells]
  exact hs

theorem dxCell_dxShown_lock (s : State) : (dxShown s).dxCell 0x030 = dxLock s := by
  rw [dxCell_dxShown_at (i := 0) (v := dxLock s) rfl (by decide) (by decide)]
  exact Nat.mod_eq_of_lt (by have := dxLock_lt s; omega)

theorem dxCell_dxShown_link (s : State) : (dxShown s).dxCell 0x036 = s.fld (R.NET.STAT.LINK_UP 2) := by
  rw [dxCell_dxShown_at (i := 6) (v := s.fld (R.NET.STAT.LINK_UP 2)) rfl (by decide) (by decide)]
  exact Nat.mod_eq_of_lt (lt_trans (s.fld_lt _) (by decide))

/-! ### The bits of its events -/

/-- Every snapshot sets REFRESH. -/
theorem nbit_dxEvents (s t : State) : nbit (dxEvents s t) 8 = true := by
  have hb : ∀ b : Bool, b2n b ≤ 1 := fun b => by cases b <;> decide
  have hbit : ∀ x n y : Nat, x < 128 → n ≤ 1 → y ≤ 1 → nbit (x + 128 * n + 256 + 0x8000 * y) 8 = true := fun x n y hx hn hy => by
    rw [nbit, Nat.testBit_eq_decide_div_mod_eq, decide_eq_true_eq]
    omega
  unfold dxEvents
  dsimp only
  refine hbit _ _ _ ?_ (hb _) (hb _)
  have h (a b c d e : Bool) : b2n a + 2 * b2n b + 4 * b2n c + 8 * b2n d + 16 * b2n e < 128 := by
    have := hb a; have := hb b; have := hb c; have := hb d; have := hb e
    omega
  exact h ..

/-- What raising bits of DX_INT_STAT leaves: the cells but DX_INT_STAT, the rest of the DX record, and the registers other
than the mailbox's. -/
structure DxRaised (s t : State) : Prop where
  cell : ∀ a, a ≠ 0x020 → t.dxCell a = s.dxCell a
  dx   : t.dx = { s.dx with cells := t.dx.cells }
  only : OnlyIn (fun k => 0x5000 ≤ k ∧ k < 0x6000) s t

theorem dx_event (s : State) (code : Nat) (d : List Byte) : (s.event code d).dx = s.dx := by
  rw [(EvtStep.event s code d).frame]

theorem dxRaise_raised (s : State) (b : Nat) : DxRaised s (dxRaise s b) := by
  unfold dxRaise
  dsimp only
  split
  · exact ⟨fun _ _ => rfl, rfl, .refl s⟩
  · refine ⟨fun a ha => ?_, ?_, ?_⟩
    · rw [State.dxCell, dx_event]
      exact dxCell_setDx_ne s _ ha
    · rw [dx_event]
      rfl
    · exact ((OnlyIn.refl s).upd (u := s.setDx _ _) rfl).event _ _ fun _ h h' => ⟨h, h'⟩

theorem nbit_dxRaise {b i : Nat} (s : State) (hb : nbit b i = true) (hi : i < 16) : nbit ((dxRaise s b).dxCell 0x020) i = true := by
  have hor : nbit (s.dxCell 0x020 ||| b) i = true := by
    rw [nbit, Nat.testBit_or, show b.testBit i = true from hb, Bool.or_true]
  unfold dxRaise
  dsimp only
  split
  next h => rw [← h]; exact hor
  next =>
    rw [State.dxCell, dx_event]
    refine (congrArg (nbit · i) (dxCell_setDx_self s 0x020 _)).trans ?_
    exact (nbit_mod (w := 16) hi).trans hor

/-- DX_LOCK is read from registers outside the mailbox. -/
theorem DxRaised.dxLock {s t : State} (h : DxRaised s t) : dxLock t = dxLock s := by
  have hm : ∀ n, t.mcsState n = s.mcsState n := fun n => h.only.fld (by simp only [R.CLK.MCS_STAT.STATE]; omega)
  have hl : ∀ n, t.flag (R.TIME.PTI_STAT.LOCKED n) = s.flag (R.TIME.PTI_STAT.LOCKED n) := fun n =>
    h.only.flag (by simp only [R.TIME.PTI_STAT.LOCKED]; omega)
  have hp : ∀ n, t.fld (R.TIME.PTI_PORT_STATE.MGMT n) = s.fld (R.TIME.PTI_PORT_STATE.MGMT n) := fun n =>
    h.only.fld (by simp only [R.TIME.PTI_PORT_STATE.MGMT]; omega)
  have he : dxEmulates t = dxEmulates s := h.only.flag (by decide)
  unfold Machine.dxLock
  rw [h.dx, hm, hl, hp, he]

/-- What a refresh leaves (R452, R456). -/
structure DxFresh (t : State) : Prop where
  gen  : t.dx.gen = liveGen t
  link : t.dxCell 0x036 = t.fld (R.NET.STAT.LINK_UP 2)
  lock : t.dxCell 0x030 = dxLock t
  bit  : nbit (t.dxCell 0x020) 8 = true

theorem dxSnapped_shows (s : State) : DxShows (dxSeen s) (dxSnapped s) := (dxShown_shows _).trans ⟨_, _, _, _, rfl⟩

theorem dxCell_dxSnapped (s : State) (a : Nat) : (dxSnapped s).dxCell a = (dxShown (dxSeen s)).dxCell a := dxCell_dxClosed _ a

theorem dxSnapshot_raised (s : State) : DxRaised (dxSnapped s) (dxSnapshot s) := dxSnapshot_eq s ▸ dxRaise_raised _ _

theorem dxSnapshot_fresh (s : State) : DxFresh (dxSnapshot s) := by
  have hr := dxSnapshot_raised s
  have hn := dxSnapped_shows s
  refine ⟨?_, ?_, ?_, ?_⟩
  · rw [hr.dx, liveGen, hr.only.fld (by decide)]
    exact dxClosed_gen _
  · rw [hr.cell _ (by decide), hr.only.fld (by decide), hn.fld, dxCell_dxSnapped, dxCell_dxShown_link]
  · rw [hr.cell _ (by decide), hr.dxLock, hn.dxLock, dxCell_dxSnapped, dxCell_dxShown_lock]
  · rw [dxSnapshot_eq]
    refine nbit_dxRaise _ ?_ (by decide)
    rw [nbit, Nat.testBit_or, show (dxEvents _ _).testBit 8 = true from nbit_dxEvents _ _, Bool.true_or]

theorem dxSnapshot_waiting (s : State) : (dxSnapshot s).dx.waiting = s.dx.waiting := by
  rw [(dxSnapshot_raised s).dx]
  exact (dxSnapped_shows s).waiting

theorem dxSnapshot_dirty (s : State) : (dxSnapshot s).dx.dirty = s.dx.dirty := by
  rw [(dxSnapshot_raised s).dx]
  exact (dxSnapped_shows s).dirty

theorem dxRefresh_waiting (s : State) : (dxRefresh s).dx.waiting = false := by
  unfold dxRefresh
  rw [dxSnapshot_waiting, dxApply_waiting]
  rfl

theorem dxRefresh_dirty (s : State) : (dxRefresh s).dx.dirty = [] := by
  unfold dxRefresh
  rw [dxSnapshot_dirty, dxApply_dirty]

theorem dxRefresh_fresh (s : State) : DxFresh (dxRefresh s) := dxSnapshot_fresh _

/-! ### DX_REFRESH -/

theorem exec_dxRefresh {s : State} (h : dxLive s = true) :
    exec (.dxRefresh false) s = .next (dxRefresh (s.setDxr fun d => { d with count := d.count + 1 })) := by
  show execDxRefresh false s = _
  unfold execDxRefresh
  rw [h]
  rfl

theorem exec_dxRefreshDeferred {s : State} (h : dxLive s = true) (hw : s.dx.waiting = true) :
    exec .dxRefreshDeferred s = .next (dxRefresh s) := by
  show execDxRefreshDeferred s = _
  unfold execDxRefreshDeferred
  rw [h, hw]
  rfl

theorem dxRefresh_goes {c : Instr} {s : State} (hc : c = .dxRefresh false ∨ (c = .dxRefreshDeferred ∧ s.dx.waiting = true))
    (h : dxLive s = true) : ∃ u, exec c s = .next (dxRefresh u) := by
  obtain rfl | ⟨rfl, hw⟩ := hc
  · exact ⟨_, exec_dxRefresh h⟩
  · exact ⟨_, exec_dxRefreshDeferred h hw⟩

/-- A refresh that finds CTL_CS_N low waits. -/
theorem exec_dxRefresh_waits {s : State} (h : dxLive s = true) (hw : s.dx.waiting = false) :
    exec (.dxRefresh true) s = .next { s with dx := { s.dx with count := s.dx.count + 1, waiting := true } } := by
  show execDxRefresh true s = _
  unfold execDxRefresh
  simp [h, hw, State.setDxr]

/-- SKIPPED with its saturation bit. -/
def dxSkips (s : State) : State :=
  let t := s.count R.DXW.STAT.SKIPPED
  if t.fld R.DXW.STAT.SKIPPED = 255 then t.setFld R.DXW.STAT.SAT (setBit (t.fld R.DXW.STAT.SAT) 0 true) else t

/-- A refresh while one waits is dropped. -/
theorem exec_dxRefresh_skips {s : State} (h : dxLive s = true) (hw : s.dx.waiting = true) :
    exec (.dxRefresh true) s = .next (dxSkips (s.setDxr fun d => { d with count := d.count + 1 })) := by
  show execDxRefresh true s = _
  unfold execDxRefresh
  rw [h]
  simp only [Bool.not_true, Bool.false_eq_true, if_false]
  exact if_pos hw

/-- Only registers change when a refresh is dropped. -/
theorem dxSkips_frame (s : State) : dxSkips s = { s with rf := (dxSkips s).rf } := by
  unfold dxSkips
  dsimp only
  rw [State.count_frame]
  split <;> rfl

theorem dxSkips_skipped (s : State) : (dxSkips s).fld R.DXW.STAT.SKIPPED = min 255 (s.fld R.DXW.STAT.SKIPPED + 1) := by
  have h := s.fld_count R.DXW.STAT.SKIPPED (by decide)
  unfold dxSkips
  dsimp only
  split
  · rw [State.fld_setFld_apart _ _ (by decide)]
    exact h
  · exact h

/-! ### SOFT_RESET -/

/-- Steps that leave the state they start from leave it altogether. -/
theorem foldl_still {α : Type} {g : State → α → State} {l : List α} {s : State} (h : ∀ a ∈ l, g s a = s) : l.foldl g s = s := by
  induction l with
  | nil => rfl
  | cons a l ih =>
    rw [List.foldl_cons, h a List.mem_cons_self]
    exact ih fun b hb => h b (List.mem_cons_of_mem _ hb)

theorem sFind_filter_of_neg {α : Type} {p : Nat → Bool} {k : Nat} (hk : p k = false) (m : Sparse α) :
    sFind k (m.filter fun x => p x.1) = none := by
  induction m with
  | nil => rfl
  | cons x m ih =>
    rw [List.filter_cons]
    split
    next hx => rw [sFind, if_neg (fun e : x.1 = k => by rw [e, hk] at hx; cases hx), ih]
    next => exact ih

theorem sFind_filter_of_pos {α : Type} {p : Nat → Bool} {k : Nat} (hk : p k = true) (m : Sparse α) :
    sFind k (m.filter fun x => p x.1) = sFind k m := by
  induction m with
  | nil => rfl
  | cons x m ih =>
    rw [List.filter_cons]
    split
    next => rw [sFind, sFind, ih]
    next hx => rw [sFind, if_neg (fun e : x.1 = k => hx (e ▸ hk)), ih]

/-- The DX record a soft reset leaves. -/
def dxSoftened (s : State) : State := s.setDxr fun d => { d with
  cells := d.cells.filter fun p => decide (p.1 < 0x010)
  dirty := [], softRst := false, rate := 0, failed := [], events := 0, annAt := none, pktAt := [], runAt := none }

/-- The flows of the window stop. -/
def dxFlowStop (s : State) (f : Nat) : State :=
  let s := if s.fld (R.RXF.F_STAT.STATE f) = 0 then s else dxRxStop s f
  if s.fld (R.TXF.F_STAT.STATE f) = 0 then s else dxTxStop s f

/-- A direction of the window stops. -/
def dxDirStop (s : State) (d : Nat × Bool) : State :=
  if tdmReady < s.tdmState d.1 d.2 then cmdWrite s d.1 d.2 2#32 else s

theorem execDxSoftReset_eq (s : State) : execDxSoftReset s =
    if !dxLive s || !s.dx.softRst || (dxEmulates s && decide (s.dx.count < s.dx.softAt + 20)) then ok s
    else ok (dxSoftened (dxDirs.foldl dxDirStop ((List.range 8).foldl dxFlowStop s))) := rfl

theorem dxFlowStop_still {s : State} {f : Nat} (hr : s.fld (R.RXF.F_STAT.STATE f) = 0) (ht : s.fld (R.TXF.F_STAT.STATE f) = 0) :
    dxFlowStop s f = s := by
  unfold dxFlowStop
  dsimp only
  rw [if_pos hr, if_pos ht]

theorem dxDirStop_still {s : State} {d : Nat × Bool} (h : s.tdmState d.1 d.2 ≤ tdmReady) : dxDirStop s d = s :=
  if_neg (Nat.not_lt.mpr h)

theorem exec_dxSoftReset {s : State} (hl : dxLive s = true) (hs : s.dx.softRst = true)
    (he : dxEmulates s = true → s.dx.softAt + 20 ≤ s.dx.count)
    (hf : ∀ f, f < 8 → s.fld (R.RXF.F_STAT.STATE f) = 0 ∧ s.fld (R.TXF.F_STAT.STATE f) = 0)
    (hd : ∀ p rx, p < 2 → s.tdmState p rx ≤ tdmReady) : exec .dxSoftReset s = .next (dxSoftened s) := by
  have hflows : (List.range 8).foldl dxFlowStop s = s := foldl_still fun f h => by
    obtain ⟨hr, ht⟩ := hf f (List.mem_range.mp h)
    exact dxFlowStop_still hr ht
  have hdirs : dxDirs.foldl dxDirStop s = s := foldl_still fun d h => by
    have hp : d.1 < 2 := (show ∀ d ∈ dxDirs, d.1 < 2 by decide) d h
    exact dxDirStop_still (hd d.1 d.2 hp)
  have hwait : (dxEmulates s && decide (s.dx.count < s.dx.softAt + 20)) = false := by
    cases hb : dxEmulates s with
    | false => rfl
    | true => exact decide_eq_false (Nat.not_lt.mpr (he hb))
  show execDxSoftReset s = _
  rw [execDxSoftReset_eq, hflows, hdirs, hwait, hl, hs]
  rfl

theorem exec_dxSoftReset_idle {s : State} (h : s.dx.softRst = false ∨ dxLive s = false) : exec .dxSoftReset s = .next s := by
  show execDxSoftReset s = _
  rw [execDxSoftReset_eq, if_pos]
  obtain h | h := h <;> simp [h]

/-- Settles O55: a refresh sets the waiting mark back before it applies the cells, and nothing it applies touches that mark; its
snapshot writes each cell of a state once. -/
theorem dxRefreshAndSoftReset : Obligations.DxRefreshAndSoftReset := by
  unfold Obligations.DxRefreshAndSoftReset
  intro s
  refine ⟨fun c hc hl => ?_, fun hl hw => ⟨_, exec_dxRefresh_waits hl hw, rfl⟩, fun hl hw => ⟨_, exec_dxRefresh_skips hl hw, ?_, ?_⟩,
    fun b hl => ⟨?_, ?_⟩, fun hw => ?_, fun hl hs he hf hd => ⟨_, exec_dxSoftReset hl hs he hf hd, rfl, fun a ha => ?_, fun a ha => ?_,
      rfl, rfl⟩, exec_dxSoftReset_idle⟩
  · obtain ⟨u, e⟩ := dxRefresh_goes hc hl
    obtain ⟨hgen, hlink, hlock, hbit⟩ := dxRefresh_fresh u
    exact ⟨_, e, dxRefresh_waiting u, dxRefresh_dirty u, hgen, hlink, hlock, hbit⟩
  · exact dxSkips_frame _
  · exact dxSkips_skipped _
  · show execDxRefresh b s = _
    unfold execDxRefresh
    rw [hl]
    rfl
  · show execDxRefreshDeferred s = _
    unfold execDxRefreshDeferred
    rw [hl]
    rfl
  · show execDxRefreshDeferred s = _
    unfold execDxRefreshDeferred
    rw [hw, Bool.and_false]
    rfl
  · unfold State.dxCell sGet
    rw [show (dxSoftened s).dx.cells = s.dx.cells.filter fun p => decide (p.1 < 0x010) from rfl,
      sFind_filter_of_neg (p := fun k => decide (k < 0x010)) (decide_eq_false (Nat.not_lt.mpr ha))]
  · unfold State.dxCell sGet
    rw [show (dxSoftened s).dx.cells = s.dx.cells.filter fun p => decide (p.1 < 0x010) from rfl,
      sFind_filter_of_pos (p := fun k => decide (k < 0x010)) (decide_eq_true ha)]

end Sys2Proof.Machine
end
